-- ==== Sys2Proof/Word.lean ====
section
/-! DEFINITION. The words of the SWV-8512 model and the plain data that commands carry: indexes, access paths,
host command entries, Seam packet bodies, media findings. Plain types only. -/

namespace Sys2Proof

/-- A register is 32 bits wide (00_scope, "Registers"). -/
abbrev Word := BitVec 32
abbrev Byte := BitVec 8
/-- An offset in the 1 GiB register window (R19). -/
abbrev Offset := BitVec 30
/-- A Mere address is 38 bits (R300). -/
abbrev MereAddr := BitVec 38
/-- The content of one tract unit of 4 KiB, as the little-endian number of its bytes (R7, R66); 0 is a unit of zeros. -/
abbrev Payload := Nat
/-- Seam link, hewer and member share one index (R266). -/
abbrev Link := Fin 512
abbrev Fen := Fin 16
/-- Logical tract number (R70). -/
abbrev Ltn := Nat
/-- Stripe ID: bits 23..0 index, bits 27..24 fen (R68). -/
abbrev StripeId := Nat
/-- PCIe link index 2p + h (R417). -/
abbrev PcieLink := Fin 8
/-- Ethernet logical port 4q + c (R437). -/
abbrev LPort := Fin 32
/-- Command slot of NVQ (R337). -/
abbrev SlotNo := Fin 16384

/-- The access path of a register access (R17, R522): a PF's expert window, the Custodian session, a firmware
identity, a hardware block with a master identity, or the REGINIT list (R42). -/
inductive AccessPath where
  | expertWindow (link : Fin 8) (pf : Fin 4)
  | custodian
  | firmware (identity : Fin 11)
  | hardware (master : BitVec 8)
  | reginit
  deriving DecidableEq, Repr

/-- A pooled unit with a known-answer test (R35, R214, R487, R488). -/
inductive PoolUnit where
  | hardDecoder (n : Fin 288)
  | softDecoder (n : Fin 32)
  | cipherPipe (n : Fin 80)
  | ghashLane (n : Fin 160)
  deriving DecidableEq, Repr

/-- What a scrubber step covers (R316, R317). -/
inductive ScrubPlace where
  /-- A word of a Mere stack, by its address. -/
  | mere (addr : MereAddr)
  /-- A word of an on-die memory, in the order of MERE_LAP[8] to MERE_LAP[13]: the valid-bit store, the microcode stores, the read-retry
  banks, the key-slot store, the Peat ring, the always-on memory. -/
  | onDie (memory : Fin 6) (word : Nat)
  deriving DecidableEq, Repr

/-- Why a tract row is programmed into a Sump row (R76). -/
inductive RowCause where
  | complete | flushed | idle | spaceNeeded
  deriving DecidableEq, Repr

/-- Why a fold starts (R77, R408, R142). -/
inductive FoldCause where
  | allValid | zoneFinish | lowSump | dueSump
  deriving DecidableEq, Repr

/-- One submission-queue entry as NVQ uses it (NVMe Base 2.0; R330). Data pointers are not held: the data of a
command comes with the command that runs it. -/
structure Sqe where
  opc   : BitVec 8
  fuse  : BitVec 2 := 0
  cid   : BitVec 16
  nsid  : BitVec 32
  cdw10 : BitVec 32 := 0
  cdw11 : BitVec 32 := 0
  cdw12 : BitVec 32 := 0
  cdw13 : BitVec 32 := 0
  cdw14 : BitVec 32 := 0
  cdw15 : BitVec 32 := 0
  deriving DecidableEq, Repr

/-- One range of a Dataset Management or Copy command: starting LBA and number of blocks. -/
structure LbaRange where
  slba : Nat
  nlb  : Nat
  deriving DecidableEq, Repr

/-- Header facts of one received flit (R270, R272): whether it was received good, its FSEQ, ACK, NAK and credits. -/
structure FlitHead where
  good     : Bool
  fecOk    : Bool
  fseq     : BitVec 12
  ack      : BitVec 12
  nak      : Bool
  crType   : Fin 6
  crCount  : BitVec 8
  fecCorr  : Nat := 0
  deriving DecidableEq, Repr

/-- The IDENT_DATA body of R286. -/
structure IdentBody where
  versions : BitVec 16
  maxRate  : BitVec 8
  dies     : BitVec 8
  session  : BitVec 32
  serial   : Nat
  cmd      : BitVec 8
  ctl      : BitVec 8
  data     : BitVec 16
  deriving DecidableEq, Repr

/-- The calibration row of R287, as the device uses it. `readable` is the MAGIC, VERSION and CRC32C check. -/
structure CalRow where
  readable   : Bool
  dies       : Nat
  flags      : BitVec 8
  blocks     : Nat
  size       : Nat
  retryClass : Nat
  ea         : Nat
  beta       : Nat
  endQlc     : Nat
  endSlc     : Nat
  curveQlc   : List (Nat × Nat)
  curveSlc   : List (Nat × Nat)
  tMax       : List Nat
  maxTemp    : Int
  serial     : Nat
  deriving DecidableEq, Repr

/-- How a decoder output compares (R196, R198): accepted, erased, a mismatch (of the CRC, or with a good CRC of the
identity half), or not decoded. -/
inductive DecodeOutcome where
  | accepted (filler lost tagOk : Bool) (corrected : Nat)
  | erased
  | mismatch (identity : Bool)
  | failed
  deriving DecidableEq, Repr

/-- What a Dredge pass found at one stripe (R152, R154). -/
structure DredgeFinding where
  bins           : List Nat                 -- code words of HIST[1] to HIST[7]; the others count in HIST[0]
  rates          : List Nat                 -- for each slot, the raw rate of its worst code word in ppm
  tagsFailed     : Nat
  reconOk        : Bool
  lostUnits      : List (Nat × Nat × Nat)   -- (row, slot, code word) that cannot be reconstructed
  parityMismatch : Nat
  retried        : Nat := 0   -- code words that needed read-retry
  softened       : Nat := 0   -- code words that needed soft decoding
  recon          : Nat := 0   -- code words that reconstruction served
  deriving DecidableEq, Repr

/-- The kind of mode epoch (R260). -/
inductive EpochKind where
  | retryTable | seal | codeRate
  deriving DecidableEq, Repr

/-- A unit that acknowledges an epoch (R260). -/
inductive EpochUnit where
  | hewer (n : Link)
  | ladderControl
  | nvqIntake
  deriving DecidableEq, Repr

/-- A reference clock (R610). -/
inductive RefClock where
  | sys | pe (p : Fin 4) | eth (i : Fin 2) | seam (g : Fin 16)
  deriving DecidableEq, Repr

/-- A power-fail input (R546). -/
inductive PfInput where
  | a | b
  deriving DecidableEq, Repr

/-- The direction and side of a failing DMA request (R512, R513). -/
structure DmaError where
  writes : Bool
  host   : Bool
  cause  : Fin 8
  addr   : BitVec 64
  doneLen : Nat
  deriving DecidableEq, Repr

/-- Where a host's firmware or Twima piece is written (R47, R578, R603). -/
inductive PieceTarget where
  | twimaStaging | downloadBuffer
  deriving DecidableEq, Repr

/-! Lots of the Twima image (R40). Each holds what its chapter lays out; `layoutOk` is false where the body breaks
its own layout (R663). Lists of pairs give what the image sets; what it does not list keeps the reference build. -/

/-- STRUCT: fens, geometry, members and lanes (R43, R44, R108, R266). -/
structure StructLot where
  layoutOk : Bool := true
  fens     : Nat := 16
  k        : Nat := 24
  stockPct : Nat := 7
  members  : List (Nat × Nat) := []   -- 32 f + i → link
  lanes    : List (Nat × Nat) := []   -- link → lane
  deriving DecidableEq, Repr, Inhabited

/-- CLOCK: domain frequencies in kHz and whether every PLL setting is inside its lock range (R43, R609). -/
structure ClockLot where
  layoutOk : Bool := true
  freqs    : List (Nat × Nat) := []
  pllOk    : Bool := true
  deriving DecidableEq, Repr, Inhabited

/-- One physical function of HOSTFN: its VFs and its expert window (log2 of BAR4/5, 0 for none). -/
structure HostPf where
  vfs     : Nat := 0
  winLog2 : Nat := 0
  deriving DecidableEq, Repr, Inhabited

/-- One entry of the fabric address table (R440). -/
structure AddrEntry where
  lp     : Nat := 0
  flags  : Nat := 0
  vlan   : Nat := 0
  addr   : Nat := 0
  plen   : Nat := 0
  gw     : Nat := 0
  deriving DecidableEq, Repr, Inhabited

/-- HOSTFN: bifurcation, functions, Ethernet breakout, address table (R419, R437, R440, R441). -/
structure HostfnLot where
  layoutOk : Bool := true
  split    : List Nat := []             -- ports with the 2 x8 layout
  unused   : List Nat := []             -- PCIe ports with no link (R642)
  pfs      : List (Nat × HostPf) := []  -- 4 l + f → function
  ethModes : List (Nat × Nat) := []     -- Ethernet port q → mode 1..3 of its channels (1 100G, 2 200G, 3 400G)
  addrs    : List (Nat × AddrEntry) := []
  deriving DecidableEq, Repr, Inhabited

/-- One entry of WINDOWS (R426). -/
structure WindowEntry where
  link     : Nat
  func     : Nat
  index    : Nat
  barOff   : Nat
  target   : Nat
  sizeLog2 : Nat
  write    : Bool
  deriving DecidableEq, Repr

/-- One controller record of NVMECTL (R335, R337): the PCIe function it names and its budget. -/
structure CtrlBudget where
  link    : Nat
  func    : Nat
  res     : Nat := 0
  qpairs  : Nat := 1024
  vectors : Nat := 2048
  mdts    : Nat := 11
  attach  : List Nat := []
  deriving DecidableEq, Repr, Inhabited

/-- One fabric host entry of NVMECTL (R449). -/
structure FabricHost where
  nqn     : Nat
  secret  : Nat := 0
  auth    : Bool := false
  ctrlSecret : Nat := 0
  ports   : List Nat := []
  res     : Nat := 0
  qpairs  : Nat := 1024
  mdts    : Nat := 11
  attach  : List Nat := []
  deriving DecidableEq, Repr, Inhabited

/-- NVMECTL. -/
structure NvmectlLot where
  layoutOk : Bool := true
  ctrls    : List CtrlBudget := []
  hosts    : List FabricHost := []
  deriving DecidableEq, Repr, Inhabited

/-- One namespace template of NSTPL (R43 TEMPLATE, R334, R351). -/
structure NsTemplate where
  zoned     : Bool := false
  leafShift : Nat := 12
  lbaf      : Nat := 1
  mar       : Nat := 4095
  mor       : Nat := 4095
  anagrp    : Nat := 1
  csi       : Nat := 0
  deriving DecidableEq, Repr, Inhabited

structure NstplLot where
  layoutOk  : Bool := true
  templates : List NsTemplate := []
  deriving DecidableEq, Repr, Inhabited

/-- One class record of SLUICE (R394), its fields as the image holds them; the default record. -/
structure ClassRec where
  cls        : Nat
  flags      : Nat := 1
  dieGuar    : Nat := 0
  dieCeil    : Nat := 1000
  linkGuar   : Nat := 0
  linkCeil   : Nat := 100
  mereCeil   : Nat := 9600
  dirtyMax   : Nat := 100
  mergePar   : Nat := 16
  mergeRate  : Nat := 0
  mergeBurst : Nat := 255
  refreshCr  : Nat := 1
  deriving DecidableEq, Repr

/-- One mapping rule of SLUICE (R393); none matches any. -/
structure ClassRule where
  cntlid : Option Nat
  sqid   : Option Nat
  nsid   : Option Nat
  cls    : Nat
  deriving DecidableEq, Repr

/-- SLUICE; the reference lot holds one class, class 0 (R394). -/
structure SluiceLot where
  layoutOk : Bool := true
  classes  : List ClassRec := [{ cls := 0, dieGuar := 800, linkGuar := 80, refreshCr := 10 }]
  rules    : List ClassRule := []
  homes    : List (Nat × Nat) := []    -- NSID → home class
  deriving DecidableEq, Repr

/-- One DMA channel record of ENGINE (R507). -/
structure ChanRec where
  chan     : Nat
  eth      : Bool := false
  port     : Nat := 0
  sizeLog2 : Nat := 7
  mode     : Nat := 0
  retryMax : Nat := 1
  timer    : Nat := 0
  linkSrc  : Nat := 0
  deriving DecidableEq, Repr, Inhabited

structure EngineLot where
  layoutOk  : Bool := true
  hostRes   : Nat := 8
  hostPipes : Nat := 0
  hostLanes : Nat := 0
  chans     : List ChanRec := []
  deriving DecidableEq, Repr, Inhabited

/-- MBXLOCK: (channel, sender, receiver) (R523). -/
structure MbxLot where
  layoutOk : Bool := true
  binds    : List (Nat × Nat × Nat) := []
  deriving DecidableEq, Repr, Inhabited

/-- UCODE: (fen, bank, word address, 39-bit word) (R43 UCODE, R247). -/
structure UcodeLot where
  layoutOk : Bool := true
  words    : List (Nat × Nat × Nat × Nat) := []
  deriving DecidableEq, Repr, Inhabited

/-- REGINIT: (offset, value, mask) in image order (R42). -/
structure ReginitLot where
  layoutOk : Bool := true
  entries  : List (Nat × Nat × Nat) := []
  deriving DecidableEq, Repr

/-- SECURITY (R55, R57, R596): the two wrapped keys of 40 bytes, the keys that they unwrap to under the configuration key (none
where the RFC 3394 integrity check fails), and the idle timeout. -/
structure SecurityLot where
  layoutOk     : Bool := true
  wrapExpert   : Nat := 0
  wrapCustodian : Nat := 0
  idle         : Nat := 300
  expertKey    : Option Nat := some 0
  custodianKey : Option Nat := some 0
  deriving DecidableEq, Repr, Inhabited

/-- POWER: dirty limit in MiB, P_M in W, declared energy in mJ, hold-up test interval in hours (R302, R555, R559). -/
structure PowerLot where
  layoutOk : Bool := true
  limitMiB : Nat := 12288
  pM       : Nat := 0
  eDecl    : Nat := 0
  htHours  : Nat := 168
  deriving DecidableEq, Repr, Inhabited

/-- One entry of the lot directory (R37). -/
structure DirEntry where
  type   : Nat
  flags  : Nat := 0
  res1   : Nat := 0
  off    : Nat
  len    : Nat
  res2   : Nat := 0
  digest : Nat := 0
  deriving DecidableEq, Repr

/-- A Twima image as the device reads it from the bytes of a slot (R36 to R38, R40): the fields of the header, of the directory
and of the signature as they stand, the SHA-384 of each body and of the bytes before the signature, and the lots that the
bodies spell. `held` is how many bytes the slot holds. -/
structure TwimaImage where
  magic     : BitVec 32 := 0x414D5754#32
  format    : BitVec 16 := 1#16
  lotCount  : Nat := 13
  imageLen  : Nat
  serial    : Nat
  partId    : BitVec 64 := 0x53578512#64
  bind      : Nat := 0
  buildTime : Nat := 0
  reserved  : Nat := 0
  held      : Nat := imageLen
  dir       : List DirEntry := (List.range 13).map (fun i => { type := i + 1, off := 896 + 64 * i, len := 64 })
  bodies    : List Nat := List.replicate 13 0
  sigHash   : Nat := 0
  sigR      : Nat := 0
  sigS      : Nat := 0
  sigRes    : Nat := 0
  struct_   : StructLot := {}
  clock     : ClockLot := {}
  hostfn    : HostfnLot := {}
  windows   : Bool × List WindowEntry := (true, [])
  nvmectl   : NvmectlLot := {}
  nstpl     : NstplLot := {}
  sluice    : SluiceLot := {}
  engine    : EngineLot := {}
  mbxlock   : MbxLot := {}
  ucode     : UcodeLot := {}
  reginit   : ReginitLot := {}
  security  : SecurityLot := {}
  power     : PowerLot := {}
  deriving DecidableEq, Repr

/-- One record of a microcode patch set (R256). -/
structure PatchRec where
  addr : Nat
  old  : Nat
  new_ : Nat
  deriving DecidableEq, Repr

/-- A microcode patch set (R256). -/
structure PatchSet where
  fenMask : BitVec 16
  baseCrc : Nat
  recs    : List PatchRec
  deriving DecidableEq, Repr

/-- A read-retry table set (R206, R207): its bytes as 32-bit words. -/
structure RetrySet where
  words   : List Nat
  deriving DecidableEq, Repr

/-- A component directory entry of a firmware image (R574). -/
structure FwComp where
  type   : Nat
  flags  : Nat := 0
  res    : Nat := 0
  off    : Nat := 0
  len    : Nat := 0
  ver    : Nat := 0
  digest : Nat := 0
  deriving DecidableEq, Repr

/-- A firmware image, read from the bytes of its slot (R573, R574): header fields, directory, the SHA-384 of the bytes of each body
and of the whole image, the patch and retry sets, and whether STAGE1 and KEYMGR verify. -/
structure FwImage where
  serial    : Nat
  version   : Nat
  cwyVers   : Nat := 3
  len       : Nat := 0
  dir       : List FwComp := []
  bodies    : List Nat := []
  hash      : Nat := 0
  patch     : Option PatchSet := none
  retry     : Option RetrySet := none
  bootsOk   : Bool := true
  deriving DecidableEq, Repr

/-- One copy of the firmware selection record (R572). -/
structure SelRecord where
  active  : Nat := 1
  pending : Nat := 0
  tries   : Nat := 0
  crc     : Nat := 0
  deriving DecidableEq, Repr

/-- One piece written to Twima staging or to the download buffer (R47, R578): `data` are its bytes, as a little-endian number;
`flashOk` is false where a boot flash program or erase failed twice (R580). -/
structure Piece where
  off     : Nat
  len     : Nat
  data    : Nat := 0
  flashOk : Bool := true
  deriving DecidableEq, Repr

/-- One 16-byte-record of a Causeway unit (R478). -/
structure UnitRecord where
  nsUnit  : Nat
  payload : Payload
  tagOk   : Bool
  wseq    : Nat
  lost    : Bool
  zero    : Bool
  deriving DecidableEq, Repr

/-- A received Causeway datagram's header facts (R465, R467). -/
structure CwyHead where
  peer   : Fin 64
  stream : Fin 10
  seq    : Nat
  ack    : Nat
  macOk  : Bool
  deriving DecidableEq, Repr

/-- A controller by its CNTLID, 1 to 1,024 (R335). -/
abbrev CtrlId := Nat

/-- A host port as ANA sees it (R353): a PCIe link or an Ethernet logical port. -/
inductive HostPort where
  | pcie (link : Fin 8)
  | eth (lp : Fin 32)
  deriving DecidableEq, Repr

/-- The host key of a lost-completion record (R379). -/
inductive HostKey where
  | fabric (nqn hostId : Nat)
  | hostId (id : Nat)
  | func (link func : Nat)
  deriving DecidableEq, Repr

/-- The data structure of a Namespace Management create (R334). -/
structure NsCreate where
  nsze     : Nat
  ncap     : Nat
  lbaf     : Nat
  csi      : Nat
  template : Nat
  anagrp   : Nat
  deriving DecidableEq, Repr

/-- A received Ethernet frame, as the MAC classifies it (R438, R463). -/
structure EthFrame where
  len      : Nat
  fcsOk    : Bool
  fragment : Bool
  destOk   : Bool
  fecUnc   : Nat := 0
  roce     : Bool := false
  cwyType  : Option Nat := none
  deriving DecidableEq, Repr

/-- A connection-manager REQ (R444). -/
structure CmReq where
  addr       : Nat
  remoteQp   : Nat
  queueSize  : Nat
  privOk     : Bool := true
  deriving DecidableEq, Repr

/-- A Fabrics Connect (R449, R450). -/
structure ConnectReq where
  cntlid  : Nat
  qid     : Nat
  sqsize  : Nat
  kato    : Nat
  hostNqn : Nat
  hostId  : Nat
  subOk   : Bool
  recfmt  : Nat := 0
  discovery : Bool := false
  deriving DecidableEq, Repr

/-- A DH-HMAC-CHAP message from the host (R453): the negotiation, or the reply with its response checked. -/
inductive AuthMsg where
  | negotiate (hashOk groupOk : Bool)
  | reply (ok : Bool)
  | success2
  | failure2
  deriving DecidableEq, Repr

/-- A HELLO or HELLO_ACK body (R465, R470). -/
structure HelloMsg where
  serial   : Nat
  session  : Nat
  macOk    : Bool
  nonce    : Nat
  versions : Nat
  deriving DecidableEq, Repr

/-- A MIG_OPEN body (R477). -/
structure MigOpen where
  srcNsid  : Nat
  size     : Nat
  nguid    : Nat
  wseqFloor : Nat
  leafShift : Nat
  lbaShift : Nat
  csi      : Nat
  nsTag    : Nat
  escrowId : Nat
  wrap     : Nat              -- ESCROW_WRAP
  deriving DecidableEq, Repr

/-- What a boot step finds (R616): the outcomes that only the hardware can tell. -/
structure BootFacts where
  ms         : Nat := 0
  checkersOk : BitVec 8 := 0xFF#8
  katOk      : Bool := true
  katFailed  : List PoolUnit := []
  trainedOk  : BitVec 8 := 0xFF#8
  groupsOk   : BitVec 16 := 0xFFFF#16
  ckptOk     : Bool := true
  archOk     : Bool := true
  witness    : List (Nat × Nat) := []
  wrapFailed : List Nat := []
  sealA      : Bool := false
  sealB      : Bool := false
  deriving DecidableEq, Repr

/-- One copy of the Twima slot record (R46), field by field. -/
structure SlotRecord where
  magic   : Nat := 0
  seq     : Nat := 0
  primary : Nat := 0
  backup  : Nat := 0
  staging : Nat := 0
  zero    : Nat := 0
  crc     : Nat := 0
  deriving DecidableEq, Repr

/-- What is set from outside while the device has no power (log entry 9): in the external boot flash the bytes of the
firmware slots (R571), both copies of the selection record (R572), the bytes of the Twima slots with their number (R45) and both copies of the slot record (R46), with the image-signing public key (log
entry 87), in the fuses the serial number, the recovery key (R596), the SHA-384 digest of the signing key (R38) and the
configuration key (R55), and the straps as they are tied (R639). -/
structure BoardContent where
  fws         : List (Nat × Nat × Nat) := []   -- (firmware slot, bytes held, the bytes as a little-endian number)
  sel0        : SelRecord := {}
  sel1        : SelRecord := {}
  fwKey       : Nat × Nat := (0, 0)            -- the firmware-signing public key and its digest in the fuses (R574)
  fwDigest    : Nat := 0
  rotKey      : Nat × Nat := (0, 0)            -- the root-of-trust public key and its digest in the fuses (R574)
  rotDigest   : Nat := 0
  slots       : List (Nat × Nat × Nat) := []   -- (slot, bytes held, the bytes as a little-endian number)
  rec0        : SlotRecord := {}
  rec1        : SlotRecord := {}
  signKey     : Nat × Nat := (0, 0)
  signDigest  : Nat := 0
  configKey   : Nat := 0
  serial      : Nat := 0
  recoveryKey : Nat := 0
  smbAddr     : Nat := 0
  testEn      : Bool := false
  deriving DecidableEq, Repr

end Sys2Proof
end

