-- ==== Sys2Proof/Syntax.lean ====
section
/-! DEFINITION. The commands of the SWV-8512 block: one constructor for each row of the command table, in the
table's order. Operands are what the command carries from outside, or what only the world outside the model can know
(the outcome of a physical test, a measured interval, the data a transfer brings). -/

namespace Sys2Proof

/-- One command from outside: a register access, a host command, a packet, a pin or a timer event. -/
inductive Instr where
  /-- REGISTER_WRITE: A 32-bit write to a register that has no row of its own; each field acts under its access code. (R9) -/
  | registerWrite (path : AccessPath) (off : Nat) (nbytes : Nat) (value : Word)
  /-- RC_READ: A read of a register holding an RC field returns the value and clears the field. (R10) -/
  | rcRead (path : AccessPath) (off : Nat) (nbytes : Nat)
  /-- LATCHING_READ: A read of a low word such as LIFE_NOW_LO latches the matching high word. (R163) -/
  | latchingRead (path : AccessPath) (off : Nat)
  /-- EXPERT_KEY_WRITE: A write to GLB_EXPERT_KEY enters the next response word, and the eighth word is compared to open Expert level. (R56) -/
  | expertKeyWrite (path : AccessPath) (word : Word)
  /-- EXPERT_NONCE_TIMER: The expert nonce changes every 60 s. (R56) -/
  | expertNonceTimer (path : AccessPath)
  /-- EXPERT_IDLE_TIMEOUT: Expert level on a path closes after the idle timeout passes with no access. (R57) -/
  | expertIdleTimeout (path : AccessPath)
  /-- EXPERT_LOCKOUT_END: A 60 s expert-key lockout on a path ends. (R57) -/
  | expertLockoutEnd (path : AccessPath)
  /-- EXPERT_CLOSE: Writing GLB_EXPERT_STAT.CLOSE closes Expert level on the path. (R59) -/
  | expertClose (path : AccessPath)
  /-- LOT_REAPPLY_START: Writing CFG_LOT_CTL.START begins a live re-apply of one lot from the staging slot, with the refusals of R50 and checks of R43. (R61) -/
  | lotReapplyStart (path : AccessPath)
  /-- LOT_COMMIT: The Twima slot record write completes in boot flash, making the staged image primary and the shadow lot effective. (R48) -/
  | lotCommit
  /-- POWER_REAPPLY_TIMEOUT: A POWER re-apply waiting for a hold-up test is refused when 24 h pass after HT_REQ without a pass. (R54) -/
  | powerReapplyTimeout
  /-- MEMBER_LINK_DROP: A member becomes unreachable; its outstanding operations are resolved and a 10 s wait begins. (R32) -/
  | memberLinkDrop (link : Link)
  /-- MEMBER_WAIT_EXPIRY: The 10 s wait for a lost member ends without retrain and its rebuild starts. (R32) -/
  | memberWaitExpiry (link : Link)
  /-- MEMBER_RETURN: A lost member's link retrains within 10 s and the member returns with no rebuild. (R32) -/
  | memberReturn (link : Link)
  /-- IDLE_KNOWN_ANSWER_TEST: Every 10 s of idle time a decoder, pipe or lane runs its known-answer test and is fenced if it fails. (R35) -/
  | idleKnownAnswerTest (unit : PoolUnit) (pass : Bool)
  /-- SUMP_ROW_PROGRAM: A complete, flushed, idle or space-needed tract row is programmed to a Sump row. (R76) -/
  | sumpRowProgram (ltn : Ltn) (row : Nat) (cause : RowCause) (failSlot : Option (Fin 28))
  /-- ROW_IDLE_TIMEOUT: A tract row idle in the Mere for 1 s becomes due for a Sump program. (R76) -/
  | rowIdleTimeout (ltn : Ltn) (row : Nat)
  /-- FOLD_START: The device starts a fold of a FILLING tract when its rows are valid, on Zone Finish or when free Sump rows fall below 10 %. (R77) -/
  | foldStart (ltn : Ltn) (cause : FoldCause)
  /-- FOLD_DONE: A fold's rows have programmed; FRONTIER is raised and the tract becomes FOLDED at 2,048 rows. (R77) -/
  | foldDone (ltn : Ltn) (failSlot : Option (Fin 28))
  /-- MERGE_START: The device starts a merge of a tract's stripe and logs when a log fills, descriptors run short or refresh is due. (R83) -/
  | mergeStart (ltn : Ltn) (due : Bool)
  /-- MERGE_COMMIT: Once the new stripe's STRIPE_SET and TRACT_MAP records are durable, the old logs and stripe are released. (R83) -/
  | mergeCommit (ltn : Ltn)
  /-- REFRESH_COPY_START: A due refresh or evacuation starts a MOVING copy or copy of a tract's rows. (R85) -/
  | refreshCopyStart (ltn : Ltn) (evacuation : Bool)
  /-- REFRESH_COPY_COMMIT: The TRACT_MAP record repointing a copied tract becomes durable and the old blocks are released. (R85) -/
  | refreshCopyCommit (ltn : Ltn)
  /-- BLOCK_BACKGROUND_ERASE: A freed block is erased in the background and joins its member's free set. (R87) -/
  | blockBackgroundErase (link : Link) (block : Nat) (ok : Bool)
  /-- JOURNAL_ROW_PROGRAM: The open journal row is programmed when full or when a waiter needs a record durable. (R95) -/
  | journalRowProgram (waiter : Bool) (ok : Bool)
  /-- JOURNAL_ROW_TIMEOUT: 100 ms after a row's first record, the open journal row is programmed. (R95) -/
  | journalRowTimeout
  /-- CHECKPOINT_TIMER: The MAP_CKPT_CTL.INTERVAL or the 4 GiB journal trigger starts a checkpoint. (R97) -/
  | checkpointTimer
  /-- CHECKPOINT_NOW: Writing MAP_CKPT_CTL.NOW starts a checkpoint unless one runs. (R102) -/
  | checkpointNow (path : AccessPath)
  /-- CHECKPOINT_MARK_DURABLE: A checkpoint's CKPT_MARK becomes durable; CKPT_BUSY clears, an anchor record is written and old journal is freed. (R97) -/
  | checkpointMarkDurable
  /-- STRIPE_ID_REUSE_DELAY: 2 s after a STRIPE_FREE record is durable, the stripe ID may be allocated again. (R181) -/
  | stripeIdReuseDelay (stripe : StripeId)
  /-- BENCH_EVALUATE: Benches are re-evaluated at least once a second and on every change of LEFT, tolerance or membership. (R126) -/
  | benchEvaluate
  /-- BENCH5_EXIT_TIMER: A fen held at bench 0 or 1 for 60 s ends device bench 5. (R126) -/
  | bench5ExitTimer (fen : Fen)
  /-- REBUILD_JOB_START: A rebuild job for one absent slot is started with a target chosen under R116. (R115) -/
  | rebuildJobStart (stripe : StripeId) (slot : Fin 28)
  /-- REBUILD_JOB_DONE: A job's rows have programmed and its SLOT_SET is durable; the ABSENT bit clears. (R115) -/
  | rebuildJobDone (stripe : StripeId) (slot : Fin 28) (ok : Bool)
  /-- REFRESH_IN_PLACE: At bench 5 a due stripe is copied to the Mere, erased and reprogrammed in place. (R128) -/
  | refreshInPlace (stripe : StripeId) (failSlot : Option (Fin 28))
  /-- REBUILD_CTL_WRITE: A write of FEN_REBUILD_CTL takes effect from the next Sluice period. (R665) -/
  | rebuildCtlWrite (path : AccessPath) (value : Word)
  /-- REBUILD_HOLD_TIMEOUT: The device clears FEN_REBUILD_CTL.HOLD 600 s after it is set. (R130) -/
  | rebuildHoldTimeout
  /-- THERMAL_TICK: Each second every member's thermal counter gains AF at its hottest die temperature. (R136) -/
  | thermalTick
  /-- THERMAL_SAVE: Every 60 s thermal counters and the last-alive time are saved in always-on memory. (R136) -/
  | thermalSave
  /-- SAMPLER_READ: The background sampler reads one page of a block to take a measurement. (R140) -/
  | samplerRead (link : Link) (block : Nat) (page : Nat) (corrected : List Nat)
  /-- STRIPE_EVALUATE: A stripe is evaluated at least every 24 h or after a measurement and judged DUE, EARLY or OK. (R141) -/
  | stripeEvaluate (stripe : StripeId)
  /-- WITNESS_REPROGRAM: A witness group becomes due and is re-programmed with its core pages. (R148) -/
  | witnessReprogram (link : Link) (group : Fin 16) (ok : Bool)
  /-- DREDGE_START: Writing RET_DREDGE_CTL.START queues a Custodian pass over the range. (R160) -/
  | dredgeStart (path : AccessPath)
  /-- DREDGE_ABORT: Writing RET_DREDGE_CTL.ABORT stops the selected pass at the next stripe. (R160) -/
  | dredgeAbort (path : AccessPath)
  /-- DREDGE_STRIPE_CHECK: A pass reads and verifies one stripe and acts on what it finds. (R152) -/
  | dredgeStripeCheck (passId : Nat) (stripe : StripeId) (finding : DredgeFinding)
  /-- DREDGE_CURSOR_TIMER: Every 1 s a Custodian pass journals its cursor. (R153) -/
  | dredgeCursorTimer (passId : Nat)
  /-- DREDGE_PASS_END: A pass ends and its summary record becomes final. (R154) -/
  | dredgePassEnd (passId : Nat)
  /-- DECODE_DONE: A decode finishes and the code word is accepted or moves down the ladder. (R199) -/
  | decodeDone (ladder : Nat) (outcome : DecodeOutcome)
  /-- RACE_TIMEOUT: A host read that has spent RACE in the deep steps starts RECON in parallel. (R209) -/
  | raceTimeout (ladder : Nat)
  /-- LEARNED_VECTOR_EXPIRY: A learned read-retry vector becomes invalid after 7 days. (R205) -/
  | learnedVectorExpiry (link : Link) (die : Fin 32) (slc : Bool)
  /-- ENCODER_CHECK_FAIL: An encoder's own output fails its checks; the word is re-encoded or the encoder fenced. (R214) -/
  | encoderCheckFail (link : Link)
  /-- ENCODER_KAT_TIMER: Every 10 s a fenced encoder repeats its known-answer test. (R214) -/
  | encoderKatTimer (link : Link) (pass : Bool)
  /-- HEW_RING_TAIL_WRITE: A write of HEW_RING_TAIL advances the tail and resumes a stopped hewer's fetch. (R224) -/
  | hewRingTailWrite (path : AccessPath) (hewer : Link) (tail : Word)
  /-- DESCRIPTOR_FETCH: A hewer fetches a descriptor when it holds fewer than 128, stopping on an OWN error. (R224) -/
  | descriptorFetch (hewer : Link)
  /-- HEW_READ: READ descriptor: one sense at default voltages delivering the masked code words. (R225) -/
  | hewRead (hewer : Link) (slot : Fin 128)
  /-- HEW_READ_OFS: READ_OFS descriptor: one sense at the VOFS offsets. (R225) -/
  | hewReadOfs (hewer : Link) (slot : Fin 128)
  /-- HEW_SOFT_SENSE: SOFT_SENSE descriptor: one soft sense to the soft input. (R225) -/
  | hewSoftSense (hewer : Link) (slot : Fin 128)
  /-- HEW_PROGRAM: PROGRAM descriptor: programs one SLC page or four QLC pages. (R225) -/
  | hewProgram (hewer : Link) (slot : Fin 128)
  /-- HEW_ERASE: ERASE descriptor: erases a block for the named mode. (R225) -/
  | hewErase (hewer : Link) (slot : Fin 128)
  /-- HEW_CALREAD: CALREAD descriptor: reads the member's calibration row. (R225) -/
  | hewCalread (hewer : Link) (slot : Fin 128)
  /-- HEW_MARKREAD: MARKREAD descriptor: reads factory marks of 256 blocks. (R225) -/
  | hewMarkread (hewer : Link) (slot : Fin 128)
  /-- HEW_FENCE: FENCE descriptor: completes when all earlier descriptors for the die are done. (R225) -/
  | hewFence (hewer : Link) (slot : Fin 128)
  /-- DIE_OPERATION_START: A waiting operation starts on its die under the ordering rules. (R227) -/
  | dieOperationStart (hewer : Link) (slot : Fin 128)
  /-- DESCRIPTOR_COMPLETE: An operation's completion arrives; the hewer writes back status and clears OWN. (R226) -/
  | descriptorComplete (hewer : Link) (slot : Fin 128) (status : BitVec 8) (detail : BitVec 16) (busyUs : Word) (endTime : Word)
  /-- HEW_OPERATION_TIMEOUT: A member gives no completion within the timeout and the operation completes TIMEOUT. (R228) -/
  | hewOperationTimeout (hewer : Link) (slot : Fin 128)
  /-- SUSPEND: A running program or erase reaches MIN_RUN with a SUSP_OK read waiting and is suspended. (R230) -/
  | suspend (hewer : Link) (die : Fin 32)
  /-- RESUME: The last window read's code words leave the die and the suspended operation is resumed. (R230) -/
  | resumeOp (hewer : Link) (die : Fin 32)
  /-- PF_QUIET_DEADLINE: 400 µs after the decision, dies not yet quiet take no FLUSH descriptor. (R236) -/
  | pfQuietDeadline
  /-- UC_NOP: Microword NOP does nothing. (R249) -/
  | ucNop (hewer : Link) (slot : Fin 128)
  /-- UC_LDI: Microword LDI loads the immediate into DST. (R249) -/
  | ucLdi (hewer : Link) (slot : Fin 128)
  /-- UC_MOV: Microword MOV copies SRC to DST. (R249) -/
  | ucMov (hewer : Link) (slot : Fin 128)
  /-- UC_ADDI: Microword ADDI adds the sign-extended immediate. (R249) -/
  | ucAddi (hewer : Link) (slot : Fin 128)
  /-- UC_ANDI: Microword ANDI ands with the immediate. (R249) -/
  | ucAndi (hewer : Link) (slot : Fin 128)
  /-- UC_ORI: Microword ORI ors with the immediate. (R249) -/
  | ucOri (hewer : Link) (slot : Fin 128)
  /-- UC_SHL: Microword SHL shifts left. (R249) -/
  | ucShl (hewer : Link) (slot : Fin 128)
  /-- UC_SHR: Microword SHR shifts right logically. (R249) -/
  | ucShr (hewer : Link) (slot : Fin 128)
  /-- UC_CMP: Microword CMP sets Z if SRC equals IMM. (R249) -/
  | ucCmp (hewer : Link) (slot : Fin 128)
  /-- UC_JMP: Microword JMP jumps to IMM. (R249) -/
  | ucJmp (hewer : Link) (slot : Fin 128)
  /-- UC_BR: Microword BR jumps if the condition holds. (R250) -/
  | ucBr (hewer : Link) (slot : Fin 128)
  /-- UC_CALL: Microword CALL pushes the return address and jumps. (R249) -/
  | ucCall (hewer : Link) (slot : Fin 128)
  /-- UC_RET: Microword RET pops the return address. (R249) -/
  | ucRet (hewer : Link) (slot : Fin 128)
  /-- UC_SEND: Microword SEND sends an operation packet to the member. (R249) -/
  | ucSend (hewer : Link) (slot : Fin 128)
  /-- UC_WAITC: Microword WAITC waits for the member's completion up to IMM µs. (R249) -/
  | ucWaitc (hewer : Link) (slot : Fin 128) (answer : Option (BitVec 8))
  /-- UC_XFER: Microword XFER moves code words between BUF and the link. (R249) -/
  | ucXfer (hewer : Link) (slot : Fin 128)
  /-- UC_SUSPT: Microword SUSPT calls a word if the suspend condition holds. (R249) -/
  | ucSuspt (hewer : Link) (slot : Fin 128)
  /-- UC_TIMER: Microword TIMER restarts the RUN_US count. (R249) -/
  | ucTimer (hewer : Link) (slot : Fin 128)
  /-- UC_DONE: Microword DONE sets STATUS and completes the descriptor. (R249) -/
  | ucDone (hewer : Link) (slot : Fin 128)
  /-- UC_TRAP: Microword TRAP ends the sequence with UCODE_ERR. (R249) -/
  | ucTrap (hewer : Link) (slot : Fin 128)
  /-- BANK_SWITCH: A control store flips LIVE and sets PENDING. (R255) -/
  | bankSwitch (fen : Fen)
  /-- PENDING_CLEAR: The last in-service hewer of a fen starts a sequence on the new bank and PENDING clears. (R255) -/
  | pendingClear (fen : Fen)
  /-- EPOCH_PREPARE: Device firmware opens a mode epoch and loads the new state into shadow. (R258) -/
  | epochPrepare (kind : EpochKind) (checkOk : Bool)
  /-- EPOCH_APPLY_ACK: A unit switches to the new state and acknowledges the epoch. (R258) -/
  | epochApplyAck (unit : EpochUnit)
  /-- EPOCH_COMMIT: All units have acknowledged or are excused; the epoch number advances. (R258) -/
  | epochCommit
  /-- DETECT_BURST: A link in DETECT sends a PRBS13 burst on entry and every 100 ms. (R274) -/
  | detectBurst (link : Link)
  /-- DETECT_ANSWER: A member answers the DETECT burst and the link moves to ACQUIRE. (R274) -/
  | detectAnswer (link : Link)
  /-- TRAINING_STATE_END: A training state completes its work and the link moves to the next state. (R274) -/
  | trainingStateEnd (link : Link) (fullHandshake : Bool)
  /-- TRAINING_LIMIT_EXPIRY: A training state exceeds its limit; the attempt fails and the link returns to DETECT or falls back. (R275) -/
  | trainingLimitExpiry (link : Link)
  /-- DATA_FLIT: A data flit is received, checked and acknowledged or discarded with NAK. (R272) -/
  | dataFlit (link : Link) (head : FlitHead)
  /-- IDLE_FLIT: An idle flit is received carrying ACK and credit reports. (R270) -/
  | idleFlit (link : Link) (head : FlitHead)
  /-- REPLAY_LIMIT: Eight replays of one FSEQ or 100 µs of full replay buffer start a retrain. (R272) -/
  | replayLimit (link : Link)
  /-- RECAL_REQ: A RECAL_REQ ordered set asks for a quiet window. (R277) -/
  | recalReq (link : Link) (fromMember : Bool)
  /-- RECAL_GO: A RECAL_GO ordered set grants the window and idle flits follow. (R277) -/
  | recalGo (link : Link)
  /-- RECAL_WINDOW_END: The recalibration window's length passes and traffic resumes. (R277) -/
  | recalWindowEnd (link : Link)
  /-- RECAL_PERIOD_TIMER: The recalibration period or a temperature step triggers a device window request. (R277) -/
  | recalPeriodTimer (link : Link)
  /-- RETRAIN: A RETRAIN ordered set or event takes the link to RETRAIN. (R276) -/
  | retrain (link : Link)
  /-- RETRAIN_LIMIT_EXPIRY: RETRAIN exceeds 50 ms and the link has dropped. (R276) -/
  | retrainLimitExpiry (link : Link)
  /-- PARK: Device firmware parks an idle link with the PARK ordered set. (R292) -/
  | park (link : Link)
  /-- PARK_WAKE_TIMER: Every 10 s a parked link is woken for one TELEM_REQ and parked again. (R292) -/
  | parkWakeTimer (link : Link)
  /-- LOSS_OF_SIGNAL: 1 µs of lost receive signal outside PARKED or DISABLED takes the link to DETECT, a drop. (R276) -/
  | lossOfSignal (link : Link)
  /-- CREDIT_STALL_TIMEOUT: No CMD credit for 100 ms with a packet waiting starts a retrain. (R276) -/
  | creditStallTimeout (link : Link)
  /-- READ_DATA: A READ_DATA packet returns one code word to the decoder pool. (R281) -/
  | readData (link : Link) (tag : Fin 128) (cw : Fin 4) (last : Bool)
  /-- SOFT_DATA: A SOFT_DATA packet returns raw bits of one soft sense. (R281) -/
  | softData (link : Link) (tag : Fin 128) (cw : Fin 4) (last : Bool)
  /-- COMPLETION: A COMPLETION packet reports an operation's status, mapped to the hewer status. (R282) -/
  | completion (link : Link) (tag : BitVec 8) (status : BitVec 8) (detail : BitVec 16)
  /-- TELEMETRY: A TELEMETRY packet updates member temperatures and the over-temperature flag. (R285) -/
  | telemetry (link : Link) (temps : List Int) (hottest : Int) (flags : BitVec 8)
  /-- IDENT_DATA: An IDENT_DATA packet gives versions, dies, session, serial and credits. (R286) -/
  | identData (link : Link) (ident : IdentBody)
  /-- CAL_DATA: A CAL_DATA packet returns the calibration row. (R287) -/
  | calData (link : Link) (tag : Fin 128) (row : CalRow)
  /-- MARK_DATA: A MARK_DATA packet returns a factory mark bitmap. (R288) -/
  | markData (link : Link) (tag : Fin 128) (bitmap : Nat)
  /-- EVENT: An EVENT packet reports over-temperature, die fault or supply warning. (R281) -/
  | eventPacket (link : Link) (opc : BitVec 8) (code : BitVec 8) (die : Fin 32)
  /-- TELEMETRY_TIMEOUT: No TELEMETRY for 10 s brings the fallback, TELEM_REQ every 1 s and a Peat entry. (R294) -/
  | telemetryTimeout (link : Link)
  /-- PLL_GROUP_UNLOCK: A Seam PLL group unlocks and all its links enter RETRAIN. (R294) -/
  | pllGroupUnlock (group : Fin 16)
  /-- SEAM_RETRAIN_WRITE: Writing SEAM_CTL.RETRAIN starts RETRAIN and clears a fallback. (R295) -/
  | seamRetrainWrite (path : AccessPath) (link : Link)
  /-- SEAM_ENABLE_WRITE: Writing SEAM_CTL.ENABLE lets the link train or takes it to DISABLED. (R295) -/
  | seamEnableWrite (path : AccessPath) (link : Link) (enable : Bool)
  /-- MERE_READ: A Mere read checks each word and returns data, corrected or with a poison indication. (R307) -/
  | mereRead (requester : BitVec 8) (addr : MereAddr) (mirror : Option MereAddr) (len : Nat) (flips : List (Nat × Nat))
  /-- MERE_WRITE: A Mere write, full or partial, updates words according to their state. (R313) -/
  | mereWrite (requester : BitVec 8) (addr : MereAddr) (mirror : Option MereAddr) (len : Nat) (data : Nat) (flips : List (Nat × Nat))
  /-- SCRUB_STEP: The idle scrubber reads a word in an idle cycle and corrects or poisons it. (R316) -/
  | scrubStep (place : ScrubPlace) (flips : Nat)
  /-- BUCKET_LEAK: Every LEAK ms one unit leaks from each stack's bucket. (R318) -/
  | bucketLeak
  /-- STACK_FENCE: A Mere stack is fenced off and re-mirroring begins. (R320) -/
  | stackFence (stack : Fin 8) (cause : Fin 8)
  /-- MERE_FENCE_WRITE: An Expert write of MERE_FENCE fences a stack with cause 7. (R328) -/
  | mereFenceWrite (path : AccessPath) (mask : Word)
  /-- REMIRROR_DONE: Re-mirroring of a fenced stack's structures ends and RESTORING clears. (R321) -/
  | remirrorDone (stack : Fin 8)
  /-- SCRUB_ENABLE_TIMEOUT: 600 s after MERE_SCRUB_CTL.EN is cleared, the device sets it again. (R327) -/
  | scrubEnableTimeout
  /-- SQ_TAIL_DOORBELL: A write of an SQ tail doorbell is checked and recorded. (R340) -/
  | sqTailDoorbell (ctrl : CtrlId) (qid : Nat) (value : Nat)
  /-- CQ_HEAD_DOORBELL: A write of a CQ head doorbell releases entries or is ignored as invalid. (R340) -/
  | cqHeadDoorbell (ctrl : CtrlId) (qid : Nat) (value : Nat)
  /-- SQ_FETCH: NVQ fetches a burst of entries into slots as arbitration and slots allow. (R338) -/
  | sqFetch (ctrl : CtrlId) (qid : Nat) (entries : List Sqe)
  /-- CAPSULE_ARRIVAL: A fabric command capsule arrives and takes a slot or waits in the receive buffer. (R341) -/
  | capsuleArrival (ctrl : CtrlId) (qid : Nat) (entry : Sqe)
  /-- SLUICE_ADMIT: Sluice admits a waiting command against budgets and the dirty limit. (R397) -/
  | sluiceAdmit (slot : SlotNo)
  /-- SLUICE_READ_RELEASE: Sluice releases a host read to its die's hewer. (R406) -/
  | sluiceReadRelease (slot : SlotNo) (link : Link) (die : Fin 32)
  /-- SLUICE_PERIOD: A 1 ms Sluice period boundary resets allowances and applies pending changes. (R396) -/
  | sluicePeriod
  /-- MERGE_CREDIT_ACCRUE: A class's merge credit gains MERGE_RATE per hour up to MERGE_BURST. (R403) -/
  | mergeCreditAccrue (cls : BitVec 8) (milliHours : Nat)
  /-- FORCED_FOLD: A write held under R75 forces a fold of one FILLING tract to its end. (R408) -/
  | forcedFold
  /-- COMPLETION_POST: A finished command's completion entry is written when its CQ has room. (R344) -/
  | completionPost (slot : SlotNo)
  /-- CQ_STALL_TIMER: A CQ full for 1 s sets NVQ_EVT.CQ_STALL. (R345) -/
  | cqStallTimer (ctrl : CtrlId) (cqid : Nat)
  /-- INTERRUPT_COALESCE_TIMER: A vector's coalescing time passes and its MSI-X message is sent. (R350) -/
  | interruptCoalesceTimer (ctrl : CtrlId) (vector : Nat)
  /-- DELETE_IO_SQ: Delete I/O Submission Queue. (R355) -/
  | deleteIoSq (slot : SlotNo)
  /-- CREATE_IO_SQ: Create I/O Submission Queue. (R330) -/
  | createIoSq (slot : SlotNo)
  /-- GET_LOG_PAGE: Get Log Page returns a supported log page. (R332) -/
  | getLogPage (slot : SlotNo)
  /-- DELETE_IO_CQ: Delete I/O Completion Queue. (R330) -/
  | deleteIoCq (slot : SlotNo)
  /-- CREATE_IO_CQ: Create I/O Completion Queue. (R330) -/
  | createIoCq (slot : SlotNo)
  /-- IDENTIFY: Identify returns the data structure for the CNS. (R330) -/
  | identify (slot : SlotNo)
  /-- ABORT: Abort acts on a fetched, unadmitted command. (R347) -/
  | abort (slot : SlotNo)
  /-- SET_FEATURES_ARBITRATION: Set Features Arbitration sets AB and weights. (R342) -/
  | setFeaturesArbitration (slot : SlotNo)
  /-- SET_FEATURES_POWER_MANAGEMENT: Set Features Power Management sets the controller's power state. (R352) -/
  | setFeaturesPowerManagement (slot : SlotNo)
  /-- SET_FEATURES_TEMPERATURE_THRESHOLD: Set Features Temperature Threshold sets a threshold. (R331) -/
  | setFeaturesTemperatureThreshold (slot : SlotNo)
  /-- SET_FEATURES_VOLATILE_WRITE_CACHE: Set Features Volatile Write Cache; WCE 0 is Feature Not Changeable. (R331) -/
  | setFeaturesVolatileWriteCache (slot : SlotNo)
  /-- SET_FEATURES_NUMBER_OF_QUEUES: Set Features Number of Queues returns the NVMECTL budget. (R331) -/
  | setFeaturesNumberOfQueues (slot : SlotNo)
  /-- SET_FEATURES_INTERRUPT_COALESCING: Set Features Interrupt Coalescing sets THR and TIME. (R350) -/
  | setFeaturesInterruptCoalescing (slot : SlotNo)
  /-- SET_FEATURES_INTERRUPT_VECTOR_CONFIG: Set Features Interrupt Vector Configuration sets CD for a vector. (R350) -/
  | setFeaturesInterruptVectorConfig (slot : SlotNo)
  /-- SET_FEATURES_ASYNC_EVENT_CONFIG: Set Features Asynchronous Event Configuration enables notices. (R331) -/
  | setFeaturesAsyncEventConfig (slot : SlotNo)
  /-- SET_FEATURES_APST: Set Features Autonomous Power State Transition. (R352) -/
  | setFeaturesApst (slot : SlotNo) (table : List Nat)
  /-- SET_FEATURES_TIMESTAMP: Set Features Timestamp stores the UTC offset. (R145) -/
  | setFeaturesTimestamp (slot : SlotNo) (millis : Nat)
  /-- SET_FEATURES_KEEP_ALIVE_TIMER: Set Features Keep Alive Timer on a fabric controller. (R452) -/
  | setFeaturesKeepAliveTimer (slot : SlotNo)
  /-- SET_FEATURES_HOST_IDENTIFIER: Set Features Host Identifier on a PCIe controller. (R331) -/
  | setFeaturesHostIdentifier (slot : SlotNo) (hostId : Nat)
  /-- SET_FEATURES_RESV_NOTIFICATION_MASK: Set Features Reservation Notification Mask. (R331) -/
  | setFeaturesResvNotificationMask (slot : SlotNo)
  /-- SET_FEATURES_RESV_PERSISTENCE: Set Features Reservation Persistence sets PTPL. (R354) -/
  | setFeaturesResvPersistence (slot : SlotNo)
  /-- GET_FEATURES: Get Features returns a feature's value. (R331) -/
  | getFeatures (slot : SlotNo)
  /-- ASYNC_EVENT_REQUEST: Asynchronous Event Request is held until an event. (R330) -/
  | asyncEventRequest (slot : SlotNo)
  /-- NAMESPACE_CREATE: Namespace Management create builds a namespace from a template and assigns extents and key. (R334) -/
  | namespaceCreate (slot : SlotNo) (data : NsCreate)
  /-- NAMESPACE_DELETE: Namespace Management delete frees tracts and removes the data key. (R129) -/
  | namespaceDelete (slot : SlotNo)
  /-- NAMESPACE_ATTACH: Namespace Attachment attach. (R330) -/
  | namespaceAttach (slot : SlotNo) (ctrls : List Nat)
  /-- NAMESPACE_DETACH: Namespace Attachment detach. (R355) -/
  | namespaceDetach (slot : SlotNo) (ctrls : List Nat)
  /-- FIRMWARE_IMAGE_DOWNLOAD: Firmware Image Download writes a piece to the download buffer or Twima staging. (R578) -/
  | firmwareImageDownload (slot : SlotNo) (piece : Piece)
  /-- FW_COMMIT_STORE: Firmware Commit CA 0b000 marks the staging slot stored. (R579) -/
  | fwCommitStore (slot : SlotNo)
  /-- FW_COMMIT_STORE_PENDING: Firmware Commit CA 0b001 stores and sets PENDING for the next reset. (R579) -/
  | fwCommitStorePending (slot : SlotNo)
  /-- FW_COMMIT_ACTIVATE_NEXT_RESET: Firmware Commit CA 0b010 sets PENDING to the slot. (R579) -/
  | fwCommitActivateNextReset (slot : SlotNo)
  /-- FW_COMMIT_ACTIVATE_NOW: Firmware Commit CA 0b011 runs pre-checks and activates without reset. (R581) -/
  | fwCommitActivateNow (slot : SlotNo)
  /-- KEEP_ALIVE: Keep Alive restarts the keep-alive timer. (R452) -/
  | keepAlive (slot : SlotNo)
  /-- FORMAT_NVM: Format NVM sets a namespace's tracts UNMAPPED and may replace its key. (R330) -/
  | formatNvm (slot : SlotNo)
  /-- SANITIZE_CRYPTO_ERASE: Sanitize crypto erase replaces the data key and erases old key-label records. (R189) -/
  | sanitizeCryptoErase (slot : SlotNo)
  /-- SANITIZE_EXIT_FAILURE_MODE: Sanitize Exit Failure Mode clears a failed sanitize state. (R497) -/
  | sanitizeExitFailureMode (slot : SlotNo)
  /-- GET_LBA_STATUS: Get LBA Status returns lost ranges. (R387) -/
  | getLbaStatus (slot : SlotNo)
  /-- NVME_FLUSH: Flush makes every covered write durable before it completes. (R367) -/
  | nvmeFlush (slot : SlotNo)
  /-- NVME_WRITE: Write seals leaves into the Mere and takes effect at its commit point. (R362) -/
  | nvmeWrite (slot : SlotNo) (data : List Nat)
  /-- NVME_READ: Read returns verified leaves. (R29) -/
  | nvmeRead (slot : SlotNo)
  /-- COMPARE: Compare compares plaintext with the command data. (R330) -/
  | compare (slot : SlotNo) (data : List Nat)
  /-- WRITE_ZEROES: Write Zeroes zeroes or deallocates units. (R82) -/
  | writeZeroes (slot : SlotNo)
  /-- DATASET_MANAGEMENT: Dataset Management deallocate sets sub-map entries or unmaps tracts. (R82) -/
  | datasetManagement (slot : SlotNo) (ranges : List LbaRange)
  /-- VERIFY: Verify runs a pass over the leaves of its range. (R151) -/
  | verify (slot : SlotNo)
  /-- RESERVATION_REGISTER: Reservation Register. (R354) -/
  | reservationRegister (slot : SlotNo) (crkey : Nat) (nrkey : Nat)
  /-- RESERVATION_REPORT: Reservation Report. (R354) -/
  | reservationReport (slot : SlotNo)
  /-- RESERVATION_ACQUIRE: Reservation Acquire. (R354) -/
  | reservationAcquire (slot : SlotNo) (crkey : Nat) (prkey : Nat)
  /-- RESERVATION_RELEASE: Reservation Release. (R354) -/
  | reservationRelease (slot : SlotNo) (crkey : Nat)
  /-- COPY: Copy opens and re-seals source ranges at destination LBAs. (R330) -/
  | copy (slot : SlotNo) (ranges : List LbaRange)
  /-- ZONE_OPEN: Zone Management Send Open. (R351) -/
  | zoneOpen (slot : SlotNo)
  /-- ZONE_CLOSE: Zone Management Send Close. (R351) -/
  | zoneClose (slot : SlotNo)
  /-- ZONE_FINISH: Zone Management Send Finish pads and folds the zone. (R77) -/
  | zoneFinish (slot : SlotNo)
  /-- ZONE_RESET: Zone Management Send Reset sets the tract UNMAPPED. (R86) -/
  | zoneReset (slot : SlotNo)
  /-- ZONE_MANAGEMENT_RECEIVE: Zone Management Receive reports zones. (R330) -/
  | zoneManagementReceive (slot : SlotNo)
  /-- ZONE_APPEND: Zone Append writes at the write pointer and returns the LBA. (R351) -/
  | zoneAppend (slot : SlotNo) (data : List Nat)
  /-- CC_EN_SET: CC.EN written to 1 enables the controller. (R336) -/
  | ccEnSet (ctrl : CtrlId) (cc : Word) (aqa : Word)
  /-- CC_EN_CLEAR: CC.EN written to 0 resets the controller. (R374) -/
  | ccEnClear (ctrl : CtrlId)
  /-- NORMAL_SHUTDOWN: CC.SHN 0b01 finishes commands and makes completed writes durable. (R374) -/
  | normalShutdown (ctrl : CtrlId)
  /-- ABRUPT_SHUTDOWN: CC.SHN 0b10 acts as CC.EN cleared. (R374) -/
  | abruptShutdown (ctrl : CtrlId)
  /-- CONTROLLER_RESET_DONE: Every write of a reset controller has committed or been discarded; CSTS.RDY reads 0. (R374) -/
  | controllerResetDone (ctrl : CtrlId)
  /-- LOST_COMPLETION_ENTRY_END: A command ending after a reset completes its entry; the record becomes final at the last. (R379) -/
  | lostCompletionEntryEnd (key : HostKey) (index : Nat) (endMs : Nat)
  /-- LOST_COMPLETION_EXPIRY: A lost-completion record's lifetime passes and it is discarded. (R380) -/
  | lostCompletionExpiry (key : HostKey)
  /-- ANA_CHANGE_TIMEOUT: 10 s after a port's link returns, ANA Change ends. (R353) -/
  | anaChangeTimeout (port : HostPort)
  /-- APST_TIMER: The APST idle timer expires and a power-state transition begins. (R352) -/
  | apstTimer (ctrl : CtrlId)
  /-- FALLOW_ENTRY_DONE: Fallow entry has destaged and parked its parts. (R652) -/
  | fallowEntryDone
  /-- FALLOW_EXIT_DONE: Fallow exit has restored parked parts and held commands are admitted. (R652) -/
  | fallowExitDone
  /-- ACTIVATION_DRAIN_END: The last admitted command finishes and activation enters Pause. (R375) -/
  | activationDrainEnd (ms : Nat)
  /-- ACTIVATION_DRAIN_TIMEOUT: Drain has not ended 1,000 ms after Hold and the activation is abandoned. (R375) -/
  | activationDrainTimeout
  /-- ACTIVATION_PAUSE_END: Pause work is done; the selection record commits and the new firmware resumes. (R582) -/
  | activationPauseEnd (us : Nat)
  /-- CONFIG_REQUEST: A PCIe configuration request is answered or gets Request Retry Status. (R419) -/
  | configRequest (link : PcieLink) (func : BitVec 8) (write : Bool) (reg : BitVec 12) (value : Word) (enables : BitVec 4)
  /-- NUMVFS_WRITE: A write of NumVFs takes effect within limits. (R423) -/
  | numvfsWrite (link : PcieLink) (pf : Fin 4) (value : Nat)
  /-- VF_ENABLE: VF Enable set creates VF controllers; cleared resets them. (R423) -/
  | vfEnable (link : PcieLink) (pf : Fin 4) (enable : Bool)
  /-- BAR_MEMORY_REQUEST: A memory request reaches a BAR or completes with Unsupported Request. (R424) -/
  | barMemoryRequest (link : PcieLink) (func : BitVec 8) (bar : Fin 6) (off : Nat) (len : Nat) (write : Bool) (value : Nat)
  /-- EXPERT_WINDOW_TLP: A TLP through an expert translation window becomes register accesses on the PF's path. (R427) -/
  | expertWindowTlp (link : PcieLink) (pf : Fin 4) (off : Nat) (nbytes : Nat) (write : Bool) (value : Nat)
  /-- DOE_DISCOVERY: A DOE Discovery request is answered. (R428) -/
  | doeDiscovery (link : PcieLink) (index : BitVec 8)
  /-- DOE_ABORT: DOE Abort discards any partial object. (R428) -/
  | doeAbort (link : PcieLink)
  /-- GET_VERSION: SPDM GET_VERSION. (R429) -/
  | getVersion (link : PcieLink)
  /-- GET_CAPABILITIES: SPDM GET_CAPABILITIES. (R429) -/
  | getCapabilities (link : PcieLink)
  /-- NEGOTIATE_ALGORITHMS: SPDM NEGOTIATE_ALGORITHMS. (R429) -/
  | negotiateAlgorithms (link : PcieLink)
  /-- GET_DIGESTS: SPDM GET_DIGESTS. (R429) -/
  | getDigests (link : PcieLink)
  /-- GET_CERTIFICATE: SPDM GET_CERTIFICATE returns slot 0. (R429) -/
  | getCertificate (link : PcieLink) (slot : BitVec 4) (off : Nat) (len : Nat)
  /-- CHALLENGE: SPDM CHALLENGE. (R429) -/
  | challenge (link : PcieLink) (slot : BitVec 4) (nonce : Nat)
  /-- GET_MEASUREMENTS: SPDM GET_MEASUREMENTS returns SHA-384 measurements. (R429) -/
  | getMeasurements (link : PcieLink) (index : BitVec 8)
  /-- POISONED_TLP_RECEIVED: A poisoned completion or BAR write fails its command or is ignored. (R430) -/
  | poisonedTlpReceived (link : PcieLink) (func : BitVec 8) (chan : Option (Fin 64))
  /-- COMPLETION_TIMEOUT: A host-memory read is not completed within the Completion Timeout Value. (R430) -/
  | completionTimeout (link : PcieLink) (func : BitVec 8) (chan : Fin 64)
  /-- UNEXPECTED_COMPLETION: A completion whose tag is not outstanding is reported. (R430) -/
  | unexpectedCompletion (link : PcieLink) (func : BitVec 8)
  /-- ECRC_ERROR: A TLP fails its ECRC check. (R430) -/
  | ecrcError (link : PcieLink) (func : BitVec 8) (chan : Option (Fin 64))
  /-- LINK_PROTOCOL_ERROR: A malformed TLP or link protocol violation resets every controller on the link. (R430) -/
  | linkProtocolError (link : PcieLink) (func : BitVec 8)
  /-- FUNCTION_LEVEL_RESET: A PCIe FLR resets one function and its controller. (R432) -/
  | functionLevelReset (link : PcieLink) (func : BitVec 8)
  /-- PERST_ASSERT: PERST_N or hot reset resets a port's links and controllers. (R417) -/
  | perstAssert (port : Fin 4)
  /-- PCIE_LINK_UP: A PCIe link reaches DL_Active. (R433) -/
  | pcieLinkUp (link : PcieLink) (width : Nat) (speed : Fin 7) (flit : Bool)
  /-- PCIE_LINK_DOWN: A PCIe link leaves DL_Active and its controllers reset with host memory unreachable. (R432) -/
  | pcieLinkDown (link : PcieLink)
  /-- BUS_MASTER_ENABLE_CLEAR: Bus Master Enable cleared sets CSTS.CFS and resets the controller. (R432) -/
  | busMasterEnableClear (link : PcieLink) (func : BitVec 8)
  /-- D3HOT_ENTRY: D3hot entry is handled as an abrupt shutdown. (R432) -/
  | d3hotEntry (link : PcieLink) (func : BitVec 8)
  /-- ETH_PORT_UP: A logical port's PCS aligns and FEC locks. (R437) -/
  | ethPortUp (lp : LPort)
  /-- ETH_PORT_DOWN: A logical port goes down; ANA Inaccessible and link hold starts. (R456) -/
  | ethPortDown (lp : LPort)
  /-- LINK_HOLD_EXPIRY: A logical port stays down past LINK_HOLD and its associations end. (R455) -/
  | linkHoldExpiry (lp : LPort)
  /-- ETHERNET_FRAME_RECEIVE: A frame is received, dropped if oversize or fragmented, and classified. (R438) -/
  | ethernetFrameReceive (lp : LPort) (frame : EthFrame)
  /-- ARP_REQUEST: An ARP request for a device address is answered. (R439) -/
  | arpRequest (lp : LPort) (addr : Nat)
  /-- NEIGHBOR_DISCOVERY: An IPv6 Neighbor Discovery message is answered. (R439) -/
  | neighborDiscovery (lp : LPort) (addr : Nat)
  /-- ICMP_ECHO: An ICMP or ICMPv6 echo is answered. (R439) -/
  | icmpEcho (lp : LPort) (addr : Nat) (ident : Nat)
  /-- PFC_FRAME: A priority flow control frame pauses or resumes a priority. (R446) -/
  | pfcFrame (lp : LPort) (enables : BitVec 8) (times : List Nat)
  /-- PAUSE_STORM_DETECT: A priority stays paused for WD and a pause storm is declared. (R446) -/
  | pauseStormDetect (lp : LPort) (prio : Fin 8)
  /-- PAUSE_STORM_END: 1 s after a storm, pause frames are honoured again. (R446) -/
  | pauseStormEnd (lp : LPort)
  /-- CE_MARKED_PACKET: A CE-marked RoCEv2 packet is answered with a CNP within CNP_GAP. (R447) -/
  | ceMarkedPacket (qp : Nat) (gapUs : Nat)
  /-- CNP: A received CNP cuts a queue pair's rate step after HOLD. (R447) -/
  | cnp (qp : Nat) (sinceCutUs : Nat)
  /-- ECN_RISE_TIMER: At the end of each RISE interval without CNP a queue pair's rate rises. (R447) -/
  | ecnRiseTimer (qp : Nat)
  /-- RDMA_SEND: A RoCEv2 SEND or SEND with Invalidate is received. (R442) -/
  | rdmaSend (qp : Nat) (invalidate : Option Nat)
  /-- RDMA_READ: An RDMA READ request or response is processed. (R442) -/
  | rdmaRead (qp : Nat) (response : Bool) (len : Nat)
  /-- RDMA_WRITE: An RDMA WRITE is processed. (R442) -/
  | rdmaWrite (qp : Nat) (len : Nat)
  /-- QP_ACK_TIMEOUT: A queue pair's ACK timeout expires; it retransmits or fails after 7 retries. (R443) -/
  | qpAckTimeout (qp : Nat)
  /-- CM_REQ: A connection-manager REQ sets up a queue pair. (R444) -/
  | cmReq (lp : LPort) (req : CmReq)
  /-- CM_RTU: A connection-manager RTU completes connection setup. (R444) -/
  | cmRtu (qp : Nat)
  /-- CONNECT: Fabrics Connect creates a controller or queue, or is refused. (R449) -/
  | connect (qp : Nat) (req : ConnectReq)
  /-- PROPERTY_GET: Fabrics Property Get. (R450) -/
  | propertyGet (ctrl : CtrlId) (off : Nat) (size8 : Bool)
  /-- PROPERTY_SET: Fabrics Property Set. (R450) -/
  | propertySet (ctrl : CtrlId) (off : Nat) (size8 : Bool) (value : Nat)
  /-- DISCONNECT: Fabrics Disconnect ends a queue or the association. (R455) -/
  | disconnect (ctrl : CtrlId) (qid : Nat)
  /-- AUTHENTICATION_SEND: Fabrics Authentication Send carries a DH-HMAC-CHAP message. (R453) -/
  | authenticationSend (ctrl : CtrlId) (msg : AuthMsg)
  /-- AUTHENTICATION_RECEIVE: Fabrics Authentication Receive returns a DH-HMAC-CHAP message. (R453) -/
  | authenticationReceive (ctrl : CtrlId) (len : Nat)
  /-- KEEP_ALIVE_TIMEOUT: No command within KATO plus 100 ms ends the association. (R452) -/
  | keepAliveTimeout (ctrl : CtrlId)
  /-- ADDRESS_COMMIT: Writing FAB_ADDR_CTL.COMMIT checks and applies an address entry and saves the table. (R441) -/
  | addressCommit (path : AccessPath)
  /-- HELLO: A HELLO datagram opens a Causeway session. (R470) -/
  | hello (lp : LPort) (msg : HelloMsg)
  /-- HELLO_ACK: A HELLO_ACK chooses the version and sets the session key. (R470) -/
  | helloAck (lp : LPort) (msg : HelloMsg) (chosen : Nat)
  /-- DISCOVER: A DISCOVER datagram lists a peer as discovered. (R469) -/
  | discover (lp : LPort) (serial : Nat) (versions : Nat)
  /-- DISCOVER_TIMER: Every 10 s DISCOVER is sent on each CWY logical port. (R469) -/
  | discoverTimer
  /-- HEARTBEAT: A HEARTBEAT datagram is stored for its peer. (R473) -/
  | heartbeat (head : CwyHead) (bytes : Nat)
  /-- HEARTBEAT_TIMER: Every 1 s a HEARTBEAT is sent on each session. (R473) -/
  | heartbeatTimer
  /-- PEER_DOWN_TIMEOUT: 5 s with no valid datagram marks a peer DOWN. (R474) -/
  | peerDownTimeout (peer : Fin 64)
  /-- HELLO_RETRY_TIMER: Every 2 s HELLO is retried to a DOWN peer. (R474) -/
  | helloRetryTimer (peer : Fin 64)
  /-- CAUSEWAY_RETRANSMIT_TIMEOUT: A stream's retransmit timeout expires and it resends from ACK + 1. (R467) -/
  | causewayRetransmitTimeout (peer : Fin 64) (stream : Fin 10)
  /-- CAUSEWAY_PROGRESS_TIMEOUT: 10 s without progress on a stream ends the session. (R467) -/
  | causewayProgressTimeout (peer : Fin 64) (stream : Fin 10)
  /-- ACK_ONLY: An ACK_ONLY datagram acknowledges a stream. (R467) -/
  | ackOnly (head : CwyHead)
  /-- CHAIN_DATA: A CHAIN_DATA datagram is checked, applied to staging and forwarded. (R475) -/
  | chainData (head : CwyHead) (off : Nat) (total : Nat) (len : Nat) (body : Nat × Bool)
  /-- CHAIN_REPORT: A CHAIN_REPORT datagram is relayed toward the head. (R476) -/
  | chainReport (head : CwyHead) (reports : List (Nat × Nat)) (all : Bool)
  /-- CHAIN_DOWNSTREAM_TIMEOUT: A downstream peer unreachable for 60 s yields report status 3. (R476) -/
  | chainDownstreamTimeout
  /-- MIG_OPEN: MIG_OPEN starts an import or is refused with MIG_ABORT. (R477) -/
  | migOpen (head : CwyHead) (msg : MigOpen)
  /-- MIG_UNITS: MIG_UNITS records are verified and placed as writes. (R480) -/
  | migUnits (head : CwyHead) (mig : Fin 8) (tract : Nat) (units : List UnitRecord)
  /-- MIG_NAK: MIG_NAK makes the source reread and resend a unit. (R480) -/
  | migNak (head : CwyHead) (mig : Fin 8) (nsUnit : Nat)
  /-- MIG_TRACT_END: MIG_TRACT_END is acknowledged once every unit of the tract is committed. (R480) -/
  | migTractEnd (head : CwyHead) (mig : Fin 8) (tract : Nat) (sent : Nat)
  /-- MIG_DONE: MIG_DONE ends a migration and the destination becomes attachable. (R481) -/
  | migDone (head : CwyHead) (mig : Fin 8) (sent : Nat) (lost : Nat) (wseq : Nat)
  /-- MIG_ABORT: MIG_ABORT ends a migration with a reason. (R466) -/
  | migAbort (head : CwyHead) (mig : Fin 8) (reason : Nat)
  /-- MIGRATION_PASS_END: An export pass ends and a delta pass or MIG_DONE follows. (R481) -/
  | migrationPassEnd (mig : Fin 8)
  /-- CIPHER_SEAL: A SEAL request encrypts a leaf or unit and writes its tag. (R490) -/
  | cipherSeal (ring : Fin 16) (slot : Nat)
  /-- CIPHER_OPEN: An OPEN request decrypts and verifies a leaf or unit. (R493) -/
  | cipherOpen (ring : Fin 16) (slot : Nat)
  /-- CIPHER_VERIFY: A VERIFY request checks a tag on a GHASH lane without decrypting. (R488) -/
  | cipherVerify (ring : Fin 16) (slot : Nat)
  /-- CIP_RING_TAIL_WRITE: A write of CIP_RING_TAIL advances a cipher request ring. (R494) -/
  | cipRingTailWrite (path : AccessPath) (ring : Fin 16) (tail : Word)
  /-- SLOT_DRAIN_DONE: No accepted request names a draining slot; the key is zeroed and the new key loaded. (R498) -/
  | slotDrainDone (key : Nat)
  /-- DRBG_RESEED_RETRY: While DRBG_OK is 0 the generator reseeds and retests every 1 s. (R497) -/
  | drbgReseedRetry (pass : Bool)
  /-- DRBG_WAIT_TIMEOUT: A key-needing command waits 10 s without DRBG_OK and completes with Internal Error. (R497) -/
  | drbgWaitTimeout (slot : SlotNo)
  /-- DMA_RING_TAIL_WRITE: A write of DMA_RING_TAIL advances a channel's ring. (R508) -/
  | dmaRingTailWrite (path : AccessPath) (chan : Fin 96) (tail : Word)
  /-- HOST_TO_MERE: HOST_TO_MERE descriptor moves host data into the Mere or a cipher pipe. (R509) -/
  | hostToMere (chan : Fin 96) (data : Nat)
  /-- MERE_TO_HOST: MERE_TO_HOST descriptor moves Mere data to the host. (R509) -/
  | mereToHost (chan : Fin 96)
  /-- DMA_COPY: COPY descriptor moves data between Mere addresses. (R509) -/
  | dmaCopy (chan : Fin 96)
  /-- DMA_TIMER_TICK: A DMA pacing timer ticks and releases a waiting descriptor. (R511) -/
  | dmaTimerTick (timer : Fin 16)
  /-- DMA_BUS_ERROR: A bus error stops a descriptor; the channel retries or halts. (R513) -/
  | dmaBusError (chan : Fin 96) (err : DmaError)
  /-- DMA_RETRY_WAIT: 10 µs after a bus error the failing request is re-issued. (R513) -/
  | dmaRetryWait (chan : Fin 96) (ok : Bool)
  /-- DMA_RESUME: DMA_CH_CTL.RESUME re-issues a halted descriptor from DONE_LEN. (R514) -/
  | dmaResume (path : AccessPath) (chan : Fin 96)
  /-- DMA_SKIP: DMA_CH_CTL.SKIP writes back BUS_ERR and continues. (R514) -/
  | dmaSkip (path : AccessPath) (chan : Fin 96)
  /-- DMA_RESET: DMA_CH_CTL.RESET writes back fetched descriptors with RESET and disables the channel. (R514) -/
  | dmaReset (path : AccessPath) (chan : Fin 96)
  /-- MAILBOX_PUSH: A write of MBX_TX word 3 pushes a message and wakes its receiver. (R524) -/
  | mailboxPush (path : AccessPath) (chan : Fin 256) (word : Word)
  /-- MAILBOX_POP: A receiver's read of MBX_RX word 3 pops the oldest entry. (R525) -/
  | mailboxPop (path : AccessPath) (chan : Fin 256)
  /-- PAIR_CHECKER_MISMATCH: A lockstep mismatch loses a pair and the spare takes its identity. (R519) -/
  | pairCheckerMismatch (pair : Fin 12)
  /-- PAIR_WATCHDOG_TIMEOUT: No watchdog write for 100 ms loses a pair. (R519) -/
  | pairWatchdogTimeout (pair : Fin 12)
  /-- PAIR_MEMORY_ERROR: An uncorrectable local-memory error loses a pair. (R519) -/
  | pairMemoryError (pair : Fin 12)
  /-- PAIR_TAKEOVER: A pair takes a lost identity and resumes its tasks within 20 ms. (R520) -/
  | pairTakeover (lost : Fin 12)
  /-- PAIR_TEST_INJECT: Writing MBX_PAIR_TEST.INJECT injects a checker mismatch. (R530) -/
  | pairTestInject (path : AccessPath) (pair : Fin 16)
  /-- PAIR_WAKE: A push to a parked pair's identity powers up its domain. (R527) -/
  | pairWake (pair : Fin 12)
  /-- PEAT_EVENT_RECORD: An event is dropped, suppressed or recorded as a Peat entry with snapshots. (R531) -/
  | peatEventRecord (code : BitVec 16) (source : BitVec 16) (arg : Word) (aux : Byte)
  /-- PEAT_TOKEN_REFILL: A code's token bucket gains RATE tokens per second. (R536) -/
  | peatTokenRefill (code : BitVec 16) (elapsedUs : Nat)
  /-- PEAT_GAP_RECORD: Free slots exceed 2,048 after dropping and a 0x9001 gap entry is recorded. (R538) -/
  | peatGapRecord
  /-- PEAT_ARCHIVE_ROW: A full row of entries is programmed to the open Peat segment. (R539) -/
  | peatArchiveRow (ok : Bool)
  /-- PEAT_MAX_AGE_TIMEOUT: The oldest unarchived entry reaches MAX_AGE and a row is programmed. (R539) -/
  | peatMaxAgeTimeout
  /-- PEAT_NOW: Writing PEAT_CTL.NOW archives the pending entries. (R543) -/
  | peatNow (path : AccessPath)
  /-- PEAT_SEGMENT_FULL: A Peat segment's last row is programmed and the next segment is allocated. (R540) -/
  | peatSegmentFull
  /-- PEAT_RL_WRITE: A write of PEAT_RL takes effect at once and cuts held tokens. (R536) -/
  | peatRlWrite (path : AccessPath) (value : Word)
  /-- PFAIL_INPUT_FALL: A power-fail input falls; a short low is counted as a glitch. (R546) -/
  | pfailInputFall (input : PfInput) (gapUs : Nat)
  /-- POWER_FAIL_DECISION: An input stays low for FILTER and the irrevocable power-fail decision starts the flush. (R546) -/
  | powerFailDecision (input : PfInput) (both : Bool)
  /-- PFAIL_AGREE_TIMEOUT: The other input has not fallen within AGREE and a disagreement is recorded. (R547) -/
  | pfailAgreeTimeout
  /-- FLUSH_END: Every FLUSH descriptor has completed and the flush record is written. (R554) -/
  | flushEnd (us : Nat)
  /-- FLUSH_LIMIT_EXPIRY: 20.0 ms after t0 the flush ends and unstarted descriptors complete PF_NOT_STARTED. (R554) -/
  | flushLimitExpiry (units : Nat) (records : Bool)
  /-- PFAIL_RESTART_TIMER: Both inputs stay high for RESTART after the flush and the device power-on resets. (R549) -/
  | pfailRestartTimer
  /-- HOLDUP_TEST_DUE: The hold-up test interval passes and HT_REQ is set. (R559) -/
  | holdupTestDue
  /-- HT_ARM: Writing PWR_HT_CTL.ARM starts the test drain. (R559) -/
  | htArm (path : AccessPath)
  /-- HT_CANCEL: Writing PWR_HT_CTL.CANCEL aborts an armed test. (R569) -/
  | htCancel (path : AccessPath)
  /-- HT_READY: Dirty data reaches zero and the test is ready for the ride. (R559) -/
  | htReady
  /-- HT_RIDE_START: A PFAIL input falls within 10 s of READY and the ride starts. (R559) -/
  | htRideStart (input : PfInput)
  /-- HT_RIDE_PASS: The ride reaches T_HT and the test passes. (R559) -/
  | htRidePass (energyMj : Nat)
  /-- HT_RIDE_MARK: Every 100 µs of ride the ride time is recorded. (R559) -/
  | htRideMark
  /-- HT_INPUTS_RISE: Inputs rise before T_HT and the test is aborted. (R560) -/
  | htInputsRise
  /-- HT_READY_TIMEOUT: No input falls within 10 s of READY and the test is aborted. (R560) -/
  | htReadyTimeout
  /-- HT_OVERDUE: No test is armed within 24 h of HT_REQ and OVERDUE is set. (R560) -/
  | htOverdue
  /-- SEAL_SAMPLE: Every 1 ms the seal inputs are sampled, agreement tracked and discrepancy counted. (R562) -/
  | sealSample (a : Bool) (b : Bool)
  /-- SEAL_CLEAR: Writing SEAL_CTL.CLEAR from a session clears a seal fault if the inputs agree. (R565) -/
  | sealClear (path : AccessPath)
  /-- SEAL_SOFT: Writing SEAL_CTL.SOFT engages or releases the Custodian seal. (R565) -/
  | sealSoft (path : AccessPath) (engage : Bool)
  /-- FIRMWARE_TRY_TIMEOUT: Boot step 8 is not reached within 10 s on PENDING and the try fails. (R584) -/
  | firmwareTryTimeout
  /-- SESSION_RESPONSE_WRITE: A write to CUS_SESS_RESP enters a response word and the eighth opens a session. (R597) -/
  | sessionResponseWrite (word : Word)
  /-- CUSTODIAN_NONCE_TIMER: The session nonce changes every 60 s. (R597) -/
  | custodianNonceTimer
  /-- SESSION_LOCKOUT_END: A 60 s session-response lockout ends. (R597) -/
  | sessionLockoutEnd
  /-- SESSION_IDLE_TIMEOUT: No access for IDLE_TO closes the session. (R598) -/
  | sessionIdleTimeout
  /-- SESSION_CLOSE: Writing CUS_SESS_STAT.CLOSE closes the session. (R598) -/
  | sessionClose
  /-- WINDOW_READ: CUS_WIN_CTL.READ performs one read on the session's path. (R600) -/
  | windowRead
  /-- WINDOW_WRITE: CUS_WIN_CTL.WRITE performs one write on the session's path. (R600) -/
  | windowWrite
  /-- LIFE_READ: Task LIFE_READ returns calendar, offset and status. (R603) -/
  | lifeRead
  /-- LIFE_SET_UTC: Task LIFE_SET_UTC stores the UTC offset. (R603) -/
  | lifeSetUtc
  /-- SEAL_TASK: Task SEAL sets or clears SOFT or clears a fault. (R603) -/
  | sealTask
  /-- ESCROW_IMPORT: Task ESCROW_IMPORT installs an escrow key and rewrites key-label records. (R499) -/
  | escrowImport (mediaOk : Bool)
  /-- ESCROW_EXPORT: Task ESCROW_EXPORT returns a key-label record without DEVICE_WRAP. (R603) -/
  | escrowExport
  /-- MEMBER_RETIRE: Task MEMBER_RETIRE drains a member and takes it out of service. (R122) -/
  | memberRetire
  /-- MEMBER_HOTADD: Task MEMBER_HOTADD checks a HELD member and journals MEMBERSHIP. (R124) -/
  | memberHotadd (cal : CalRow) (good : Bool)
  /-- DRAIN_DONE: A drain's last slot is journalled; the link is parked and SAFE_REMOVE set. (R291) -/
  | drainDone (link : Link)
  /-- PEAT_EXPORT: Task PEAT_EXPORT returns up to 64 entries from a SEQ. (R541) -/
  | peatExport
  /-- MANIFEST: Task MANIFEST returns a manifest page. (R605) -/
  | manifest
  /-- IMAGE_WRITE: Task IMAGE_WRITE writes a piece to Twima staging or the download buffer. (R603) -/
  | imageWrite (piece : Piece)
  /-- TWIMA_PROMOTE: Task TWIMA_PROMOTE checks the staged image and makes it primary. (R603) -/
  | twimaPromote
  /-- FW_COMMIT_TASK: Task FW_COMMIT acts as Firmware Commit with the given CA. (R603) -/
  | fwCommitTask
  /-- RETIRE_OLD: Task RETIRE_OLD raises both fuse floors. (R577) -/
  | retireOld
  /-- PEER_SET: Task PEER_SET writes or deletes a peer-table entry. (R468) -/
  | peerSet (flashOk : Bool)
  /-- CHAIN_START: Task CHAIN_START sends the download buffer's delta to the CHAIN_NEXT peer. (R475) -/
  | chainStart
  /-- MIG_EXPORT: Task MIG_EXPORT starts exporting a namespace. (R477) -/
  | migExport
  /-- MIG_IMPORT: Task MIG_IMPORT prepares to import a namespace. (R477) -/
  | migImport
  /-- MIG_FREEZE: Task MIG_FREEZE write-protects the source and forces the final pass. (R481) -/
  | migFreeze
  /-- DEVICE_RESET: Task DEVICE_RESET ends OK and a device reset follows 1 ms later. (R603) -/
  | deviceReset
  /-- BOOT_RESET_WRITE: Writing 0xA5C3 to BOOT_RESET at Expert level starts a device reset. (R615) -/
  | bootResetWrite (path : AccessPath) (value : Word)
  /-- DEVICE_RESET_SEQUENCE: A device reset makes state safe and then reinitialises all but the always-on island. (R615) -/
  | deviceResetSequence
  /-- POWER_ON_RESET: All rails enter range and tp follows 2 ms later, starting boot step 1. (R647) -/
  | powerOnReset (offSec : Nat) (vbatLost : Bool) (board : Option BoardContent)
  /-- RAIL_OUT_OF_RANGE: A rail leaves its range after tp and the device returns to power-on reset. (R647) -/
  | railOutOfRange (rail : Fin 8)
  /-- BOOT_STEP_END: A boot step ends and the next begins, with the journal updated. (R616) -/
  | bootStepEnd (facts : BootFacts)
  /-- BOOT_STEP_FAILURE: A boot step fails or reaches its limit and the device resets or stops. (R616) -/
  | bootStepFailure (cause : Nat)
  /-- REFCLK_CHECK: Every 10 µs each reference clock is checked and declared lost after three failures. (R612) -/
  | refclkCheck (clock : RefClock) (ok : Bool)
  /-- SYS_PLL_UNLOCK: A system PLL loses lock with its reference present and a device reset follows. (R612) -/
  | sysPllUnlock (pll : Fin 3)
  /-- CRYSTAL_STOP: The RTC crystal stops while powered and the calendar runs from SYS_REFCLK. (R612) -/
  | crystalStop
  /-- CALENDAR_TICK: The life calendar counts one second. (R145) -/
  | calendarTick
  /-- JUNCTION_SAMPLE: Every 100 µs the junction sensors are read and throttle, THERM_N or hold applied. (R655) -/
  | junctionSample (temps : List (Option Int))
  /-- THERMAL_HOLD_ENTRY: Junction at or above 112 °C for 1 ms starts a thermal hold. (R655) -/
  | thermalHoldEntry
  /-- SMBUS_READ_BYTE: An SMBus Read Byte returns temperature or status. (R640) -/
  | smbusReadByte (cmd : BitVec 8)
  /-- SMBUS_WRITE: An SMBus write transaction is not acknowledged after its command byte. (R640) -/
  | smbusWrite (cmd : BitVec 8)
  /-- PLL_GROUP_RELOCK: A Seam PLL group that had unlocked locks again, taking its links to RETRAIN and ending the group-loss wait. (R276) -/
  | pllGroupRelock (group : Fin 16)
  /-- PFAIL_INPUT_RISE: A power-fail input returns high, ending a glitch count or starting the RESTART interval after the flush. (R549) -/
  | pfailInputRise (input : PfInput)
  /-- CRYSTAL_RESTART: The RTC crystal that had stopped while powered starts running again. (R612) -/
  | crystalRestart
  /-- JTAG_TAP_RESET: The JTAG TAP enters its reset state and reinitialises the test logic only. (R614) -/
  | jtagTapReset
  /-- PCIE_LINK_RETRAIN: A PCIe link retrains while up, possibly below its configured width or rate, setting DEGRADED and ANA Non-optimized. (R432) -/
  | pcieLinkRetrain (link : PcieLink) (width : Nat) (speed : Fin 7)
  /-- RDMA_TRANSPORT_ACK: The RDMA transport acknowledges a response capsule, moving a fabric command from Finished to Completed. (R361) -/
  | rdmaTransportAck (slot : SlotNo)
  /-- HOST_CONNECTION_CLOSE: The host closes one of an association's connections and the association ends with CAUSE 4. (R455) -/
  | hostConnectionClose (ctrl : CtrlId)
  /-- OVF_24H_AGE_OUT: A bucket overflow becomes older than 24 h and leaves a stack's OVF_24H count. (R326) -/
  | ovf24hAgeOut (stack : Fin 8)
  deriving DecidableEq, Repr

end Sys2Proof
end

