-- ==== Sys2Proof/Config.lean ====
section
/-! DEFINITION. Values that the manual leaves open and functions that it takes from published standards: constants
with no body, so that no proof can see what they are. -/

namespace Sys2Proof

/-- A free value: applied to the counter `free` of the state, a fresh value each time (the manual states none). -/
opaque Config.freeNat : Nat → Nat

/-- The event information of a vendor-specific asynchronous event (R34, R123, R143, R147, R381 give none). -/
opaque Config.vendorInfo : Nat → Nat

/-- HMAC-SHA-256 over a key and a message, by FIPS 198-1. -/
opaque Config.hmac256 : Nat → Nat → Nat

/-- HMAC-SHA-384 over a key and a message (R465, R470). -/
opaque Config.hmac384 : Nat → Nat → Nat

/-- The CTR keystream of AES-256-GCM (NIST SP 800-38D): key, 96-bit IV, length in bytes and input to the output; the
same for sealing and opening (R487). -/
opaque Config.gcmCrypt : Nat → Nat → Nat → Nat → Nat

/-- The 128-bit GCM tag: key, IV, associated-data length and bytes, ciphertext length and bytes (R487, R488). -/
opaque Config.gcmTag : Nat → Nat → Nat → Nat → Nat → Nat → Nat

/-- AES-256 key wrap of RFC 3394: wrapping key and key to the wrapped form. -/
opaque Config.keyWrap : Nat → Nat → Nat

/-- The key that RFC 3394 unwraps from a wrapped form (R604). -/
opaque Config.keyUnwrap : Nat → Nat → Nat

/-- SHA-384 of a byte string held as a number. -/
opaque Config.sha384 : Nat → Nat

/-! Lot bodies whose layout the manual does not give (R40: the Twima tool builds them): what the device reads from the bytes of a
body, with a 1 above the last byte. -/
opaque Config.structLot : Nat → StructLot
opaque Config.clockLot : Nat → ClockLot
opaque Config.hostfnLot : Nat → HostfnLot
opaque Config.nvmectlLot : Nat → NvmectlLot
opaque Config.nstplLot : Nat → NstplLot
opaque Config.engineLot : Nat → EngineLot
opaque Config.mbxLot : Nat → MbxLot
opaque Config.ucodeLot : Nat → UcodeLot
opaque Config.powerLot : Nat → PowerLot
/-- Of SECURITY: whether its layout is right, the two wrapped keys and the idle timeout. -/
opaque Config.securityLot : Nat → SecurityLot

/-- The deterministic random bit generator's output number n (R497). -/
opaque Config.drbg : Nat → Nat

/-- The error rate of cal_rber beyond the last wear point of a calibration curve, in ppm (R141 gives none): link, wear. -/
opaque Config.curveBeyond : Nat → Nat → Nat

/-- The device key-encryption key, which the fuses of the device with a serial number give (R495). -/
opaque Config.deviceKek : Nat → Nat

/-- The die time, in µs per ms of each die, that a rebuild share in percent needs on a link (R397: the manual gives no figure). -/
opaque Config.rebuildDie : Nat → Nat

/-- The words of an on-die memory that the scrubber covers, where the manual gives no size (R317). -/
opaque Config.memoryWords : Nat → Nat

/-- What a device part measures (a junction's time, a link's equaliser, a random nonce): the n-th physical value. -/
opaque Config.physical : Nat → Nat

/-- A value that PCIe identity fuses or HOSTFN give and this manual does not state: 0 Vendor ID, 1 Revision ID, 2 subsystem
identifiers (R422). -/
opaque Config.pcieId : Nat → Nat

/-- The content of an SPDM response that the device identity and the keys decide (R429): kind, then the request's operand. -/
opaque Config.spdm : Nat → Nat → Nat

/-- The SHA-384 measurement of the boot ROM (1) and of stage 1 (2) (R429). -/
opaque Config.romDigest : Nat → Nat

/-- The fused base MAC address (R438). -/
opaque Config.macBase : Nat

end Sys2Proof
end

