-- ==== Sys2Proof/Machine/Ecdsa.lean ====
section
/-! DEFINITION. Verification of an ECDSA P-384 signature (FIPS 186-5, curve P-384 of SP 800-186), as R38 asks of a Twima image. Points are
in Jacobian coordinates; the third coordinate 0 is the point at infinity. -/

namespace Sys2Proof.Machine

/-- The prime of the field of P-384. -/
def p384P : Nat := 0xfffffffffffffffffffffffffffffffffffffffffffffffffffffffffffffffeffffffff0000000000000000ffffffff

/-- The order of the base point of P-384. -/
def p384N : Nat := 0xFFFFFFFFFFFFFFFFFFFFFFFFFFFFFFFFFFFFFFFFFFFFFFFFC7634D81F4372DDF581A0DB248B0A77AECEC196ACCC52973

/-- The coefficient b of P-384; a is −3. -/
def p384B : Nat := 0xB3312FA7E23EE7E4988E056BE3F82D19181D9C6EFE8141120314088F5013875AC656398D8A2ED19D2A85C8EDD3EC2AEF

/-- The base point of P-384. -/
def p384G : Nat × Nat :=
  (0xAA87CA22BE8B05378EB1C71EF320AD746E1D3B628BA79B9859F741E082542A385502F25DBF55296C3A545E3872760AB7,
   0x3617DE4A96262C6F5D9E98BF9292DC29F8F41DBD289A147CE9DA3113B5F0B8C00A60B1CE1D7E819D7A431D7C90EA0E5F)

/-- a ^ e modulo m, over the 384 low bits of e, the lowest first: `acc` gathers the product. -/
def powMod (m : Nat) : Nat → Nat → Nat → Nat → Nat
  | 0, _, _, acc => acc
  | n + 1, a, e, acc => powMod m n (a * a % m) (e / 2) (if e % 2 = 1 then acc * a % m else acc)

/-- The inverse modulo a prime (Fermat). -/
def invMod (m a : Nat) : Nat := powMod m 384 (a % m) (m - 2) (1 % m)

/-- A point in Jacobian coordinates. -/
structure EcPoint where
  x : Nat
  y : Nat
  z : Nat
  deriving DecidableEq, Repr

/-- The point at infinity. -/
def EcPoint.zero : EcPoint := ⟨1, 1, 0⟩

/-- Twice a point (a = −3). -/
def ecDouble (a : EcPoint) : EcPoint :=
  if a.z = 0 ∨ a.y = 0 then .zero
  else
    let p := p384P
    let yy := a.y * a.y % p
    let zz := a.z * a.z % p
    let s := 4 * a.x * yy % p
    let m := 3 * (a.x + p - zz) * (a.x + zz) % p
    let x := (m * m + 2 * p - 2 * s % p) % p
    ⟨x, (m * (s + p - x) + p - 8 * (yy * yy % p) % p) % p, 2 * a.y * a.z % p⟩

/-- The sum of two points. -/
def ecAdd (a b : EcPoint) : EcPoint :=
  if a.z = 0 then b
  else if b.z = 0 then a
  else
    let p := p384P
    let az := a.z * a.z % p
    let bz := b.z * b.z % p
    let u := a.x * bz % p
    let v := b.x * az % p
    let s := a.y * bz % p * b.z % p
    let t := b.y * az % p * a.z % p
    if u = v then (if s = t then ecDouble a else .zero)
    else
      let h := v + p - u
      let r := t + p - s
      let hh := h * h % p
      let hhh := hh * h % p
      let w := u * hh % p
      let x := (r * r + 3 * p - hhh - 2 * w % p) % p
      ⟨x, (r * (w + p - x) + p - s * hhh % p) % p, h * a.z % p * b.z % p⟩

/-- k times a point, over the `n` low bits of k, the lowest first. -/
def ecMul : Nat → Nat → EcPoint → EcPoint → EcPoint
  | 0, _, _, acc => acc
  | n + 1, k, a, acc => if k = 0 then acc else ecMul n (k / 2) (ecDouble a) (if k % 2 = 1 then ecAdd acc a else acc)

/-- A pair of coordinates is a point of the curve. -/
def onCurve (q : Nat × Nat) : Bool :=
  decide (q.1 < p384P ∧ q.2 < p384P ∧ (q.2 * q.2 + 3 * q.1) % p384P = (q.1 * q.1 * q.1 + p384B) % p384P)

/-- The signature (r, s) over a 384-bit digest verifies under a public key. -/
def ecdsaOk (key : Nat × Nat) (digest r s : Nat) : Bool :=
  onCurve key && decide (0 < r ∧ r < p384N ∧ 0 < s ∧ s < p384N) &&
    (let w := invMod p384N s
     let a := ecMul 384 (digest * w % p384N) ⟨p384G.1, p384G.2, 1⟩ .zero
     let c := ecAdd a (ecMul 384 (r * w % p384N) ⟨key.1, key.2, 1⟩ .zero)
     decide (c.z ≠ 0) && decide (c.x * (let i := invMod p384P c.z; i * i % p384P) % p384P % p384N = r))

end Sys2Proof.Machine
end

