-- ==== Sys2Proof/Machine/Regs.lean ====
section
/-! DEFINITION. The register catalogue: every register the register tables and register lists of the manual name,
with its offset in the 1 GiB window (R19), its instances and its fields (bits, access code R9, level R16, reset R15,
legal encodings R13). One definition per field, then one table per block. -/

namespace Sys2Proof.Machine

/-- The access codes of R9 that occur in this manual's tables. -/
inductive Access where
  | ro | rw | w1c | wo | rc | rwl | rwe
  deriving DecidableEq, Repr

/-- One field of a register. `base` and `stride` place its instances; `reset` is 0 where the manual gives "Twima",
"Fuse", "Strap" or "—" (log entries 2 and 3); `kept` marks the reset "—" of fields that keep their value across every
reset; `lo`, `hi`, `step` bound the encodings that are not reserved (R13). -/
structure Field where
  base   : Nat
  stride : Nat
  lsb    : Nat
  width  : Nat
  acc    : Access
  expert : Bool
  reset  : Nat
  kept   : Bool
  lo     : Nat
  hi     : Nat
  step   : Nat
  deriving DecidableEq, Repr

/-- The bit address of a field's instance in the window: its one home in the register store. -/
def Field.key (f : Field) (i : Nat) : Nat := (f.base + f.stride * i) * 8 + f.lsb

/-- One register: its offset, its instances as (stride, count) pairs, and its fields. -/
structure Reg where
  base   : Nat
  dims   : List (Nat × Nat)
  fields : List Field
  deriving DecidableEq, Repr

namespace F

/-! GLB_FAULT_SUM (R20) -/
def GLB_FAULT_SUM_MEMBER_OUT : Field := ⟨0x10, 0x0, 0, 1, .ro, false, 0, false, 0, 1, 1⟩
def GLB_FAULT_SUM_PLLG_OUT : Field := ⟨0x10, 0x0, 1, 1, .ro, false, 0, false, 0, 1, 1⟩
def GLB_FAULT_SUM_STACK_OUT : Field := ⟨0x10, 0x0, 2, 1, .ro, false, 0, false, 0, 1, 1⟩
def GLB_FAULT_SUM_PAIR_OUT : Field := ⟨0x10, 0x0, 3, 1, .ro, false, 0, false, 0, 1, 1⟩
def GLB_FAULT_SUM_DECODER_OUT : Field := ⟨0x10, 0x0, 4, 1, .ro, false, 0, false, 0, 1, 1⟩
def GLB_FAULT_SUM_CIPHER_OUT : Field := ⟨0x10, 0x0, 5, 1, .ro, false, 0, false, 0, 1, 1⟩
def GLB_FAULT_SUM_PORT_OUT : Field := ⟨0x10, 0x0, 6, 1, .ro, false, 0, false, 0, 1, 1⟩
def GLB_FAULT_SUM_RESTORING : Field := ⟨0x10, 0x0, 7, 1, .ro, false, 0, false, 0, 1, 1⟩
def GLB_FAULT_SUM_TOLERANCE_SHORT : Field := ⟨0x10, 0x0, 8, 1, .ro, false, 0, false, 0, 1, 1⟩
def GLB_FAULT_SUM_OUTSIDE_SET : Field := ⟨0x10, 0x0, 9, 1, .ro, false, 0, false, 0, 1, 1⟩
def GLB_FAULT_SUM_BENCH : Field := ⟨0x10, 0x0, 16, 3, .ro, false, 0, false, 0, 7, 1⟩
/-! GLB_INVENTORY (R22) -/
def GLB_INVENTORY_MEMBERS_UP : Field := ⟨0x20, 0x0, 0, 10, .ro, false, 0, false, 0, 1023, 1⟩
def GLB_INVENTORY_STACKS_UP : Field := ⟨0x20, 0x0, 10, 4, .ro, false, 0, false, 0, 15, 1⟩
def GLB_INVENTORY_PAIRS_UP : Field := ⟨0x20, 0x0, 14, 4, .ro, false, 0, false, 0, 15, 1⟩
def GLB_INVENTORY_PAIRS_SPARE : Field := ⟨0x20, 0x0, 18, 2, .ro, false, 0, false, 0, 3, 1⟩
def GLB_INVENTORY_PCIE_UP : Field := ⟨0x20, 0x0, 20, 5, .ro, false, 0, false, 0, 31, 1⟩
/-! GLB_EXPERT_STAT (R59) -/
def GLB_EXPERT_STAT_OPEN : Field := ⟨0x4C, 0x0, 0, 1, .ro, false, 0, false, 0, 1, 1⟩
def GLB_EXPERT_STAT_WORDS : Field := ⟨0x4C, 0x0, 1, 3, .ro, false, 0, false, 0, 7, 1⟩
def GLB_EXPERT_STAT_FAILS : Field := ⟨0x4C, 0x0, 4, 2, .ro, false, 0, false, 0, 3, 1⟩
def GLB_EXPERT_STAT_LOCKOUT : Field := ⟨0x4C, 0x0, 6, 1, .ro, false, 0, false, 0, 1, 1⟩
def GLB_EXPERT_STAT_CLOSE : Field := ⟨0x4C, 0x0, 7, 1, .wo, false, 0, false, 0, 1, 1⟩
def GLB_EXPERT_STAT_IDLE_LEFT : Field := ⟨0x4C, 0x0, 16, 12, .ro, false, 0, false, 0, 4095, 1⟩
/-! CFG_STATUS (R60) -/
def CFG_STATUS_SLOT : Field := ⟨0x300000, 0x0, 0, 1, .ro, false, 0, false, 0, 1, 1⟩
def CFG_STATUS_LOCKED : Field := ⟨0x300000, 0x0, 1, 1, .ro, false, 0, false, 0, 1, 1⟩
def CFG_STATUS_LOT_BUSY : Field := ⟨0x300000, 0x0, 2, 1, .ro, false, 0, false, 0, 1, 1⟩
def CFG_STATUS_LAST_ERR : Field := ⟨0x300000, 0x0, 8, 8, .ro, false, 0, false, 0, 255, 1⟩
/-! CFG_LOT_CTL (R61) -/
def CFG_LOT_CTL_LOT_TYPE : Field := ⟨0x300010, 0x0, 0, 8, .rw, false, 0, false, 0, 255, 1⟩
def CFG_LOT_CTL_START : Field := ⟨0x300010, 0x0, 8, 1, .wo, false, 0, false, 0, 1, 1⟩
/-! CFG_LOT_STAT (R62) -/
def CFG_LOT_STAT_LOT_TYPE : Field := ⟨0x300014, 0x0, 0, 8, .ro, false, 0, false, 0, 255, 1⟩
def CFG_LOT_STAT_STATE : Field := ⟨0x300014, 0x0, 8, 4, .ro, false, 0, false, 0, 15, 1⟩
def CFG_LOT_STAT_ERR : Field := ⟨0x300014, 0x0, 12, 8, .ro, false, 0, false, 0, 255, 1⟩
/-! MAP_STATUS (R99) -/
def MAP_STATUS_READY : Field := ⟨0x10000000, 0x0, 0, 1, .ro, false, 0, false, 0, 1, 1⟩
def MAP_STATUS_CKPT_BUSY : Field := ⟨0x10000000, 0x0, 1, 1, .ro, false, 0, false, 0, 1, 1⟩
def MAP_STATUS_SUMP_PACING : Field := ⟨0x10000000, 0x0, 2, 1, .ro, false, 0, false, 0, 1, 1⟩
def MAP_STATUS_LOG_PACING : Field := ⟨0x10000000, 0x0, 3, 1, .ro, false, 0, false, 0, 1, 1⟩
def MAP_STATUS_FILL_PCT : Field := ⟨0x10000000, 0x0, 8, 7, .ro, false, 0, false, 0, 127, 1⟩
/-! MAP_SUMP (R101) -/
def MAP_SUMP_TARGET : Field := ⟨0x1000000C, 0x0, 0, 12, .ro, false, 0, false, 0, 4095, 1⟩
def MAP_SUMP_HELD : Field := ⟨0x1000000C, 0x0, 12, 12, .ro, false, 0, false, 0, 4095, 1⟩
def MAP_SUMP_FREE_PCT : Field := ⟨0x1000000C, 0x0, 24, 7, .ro, false, 0, false, 0, 127, 1⟩
/-! MAP_CKPT_CTL (R102) -/
def MAP_CKPT_CTL_NOW : Field := ⟨0x10000300, 0x0, 0, 1, .wo, false, 0, false, 0, 1, 1⟩
def MAP_CKPT_CTL_INTERVAL : Field := ⟨0x10000300, 0x0, 8, 8, .rwl, false, 60, false, 5, 240, 1⟩
/-! FEN_REBUILD_CTL (R130) -/
def FEN_REBUILD_CTL_SHARE : Field := ⟨0x11000000, 0x0, 0, 7, .rw, false, 50, false, 10, 90, 5⟩
def FEN_REBUILD_CTL_BOOST : Field := ⟨0x11000000, 0x0, 8, 7, .rw, false, 75, false, 0, 90, 1⟩
def FEN_REBUILD_CTL_HOLD : Field := ⟨0x11000000, 0x0, 16, 1, .rwe, true, 0, false, 0, 1, 1⟩
/-! FEN_BENCH_THR (R131) -/
def FEN_BENCH_THR_LOW : Field := ⟨0x11000004, 0x0, 0, 7, .rwl, false, 50, false, 20, 80, 1⟩
def FEN_BENCH_THR_OUT : Field := ⟨0x11000004, 0x0, 8, 7, .rwl, false, 2, false, 1, 9, 1⟩
/-! FEN_STATE[n] (R132) -/
def FEN_STATE_BENCH : Field := ⟨0x11000100, 0x4, 0, 3, .ro, false, 0, false, 0, 7, 1⟩
def FEN_STATE_TOLERANCE : Field := ⟨0x11000100, 0x4, 3, 4, .ro, false, 0, false, 0, 15, 1⟩
def FEN_STATE_IN_SERVICE : Field := ⟨0x11000100, 0x4, 7, 6, .ro, false, 0, false, 0, 63, 1⟩
def FEN_STATE_REBUILDING : Field := ⟨0x11000100, 0x4, 13, 1, .ro, false, 0, false, 0, 1, 1⟩
def FEN_STATE_EVACUATING : Field := ⟨0x11000100, 0x4, 14, 1, .ro, false, 0, false, 0, 1, 1⟩
def FEN_STATE_DREDGE_HELD : Field := ⟨0x11000100, 0x4, 15, 1, .ro, false, 0, false, 0, 1, 1⟩
def FEN_STATE_BOOSTED : Field := ⟨0x11000100, 0x4, 16, 1, .ro, false, 0, false, 0, 1, 1⟩
def FEN_STATE_EXCEEDED : Field := ⟨0x11000100, 0x4, 17, 1, .ro, false, 0, false, 0, 1, 1⟩
/-! RET_CTL (R157) -/
def RET_CTL_THRESH : Field := ⟨0x12000000, 0x0, 0, 13, .rw, false, 3000, false, 500, 8000, 1⟩
def RET_CTL_LOOKAHEAD : Field := ⟨0x12000000, 0x0, 16, 8, .rw, false, 30, false, 7, 120, 1⟩
def RET_CTL_MAX_AGE : Field := ⟨0x12000000, 0x0, 24, 4, .rw, false, 3, false, 1, 10, 1⟩
def RET_CTL_EARLY_EN : Field := ⟨0x12000000, 0x0, 28, 1, .rw, false, 1, false, 0, 1, 1⟩
/-! RET_MODEL (R158) -/
def RET_MODEL_BETA : Field := ⟨0x12000004, 0x0, 0, 8, .rwe, true, 60, false, 20, 150, 1⟩
def RET_MODEL_EA : Field := ⟨0x12000004, 0x0, 8, 8, .rwe, true, 110, false, 50, 200, 1⟩
/-! RET_OFF_CTL (R159) -/
def RET_OFF_CTL_T_OFF : Field := ⟨0x12000008, 0x0, 0, 7, .rwl, false, 40, false, 0, 85, 1⟩
def RET_OFF_CTL_BOUND_PCT : Field := ⟨0x12000008, 0x0, 8, 8, .rwl, false, 50, false, 10, 200, 1⟩
def RET_OFF_CTL_BOUND_MIN : Field := ⟨0x12000008, 0x0, 16, 16, .rwl, false, 168, false, 24, 8760, 1⟩
/-! RET_DREDGE_CTL (R160) -/
def RET_DREDGE_CTL_RATE : Field := ⟨0x12000010, 0x0, 0, 6, .rw, false, 20, false, 1, 32, 1⟩
def RET_DREDGE_CTL_START : Field := ⟨0x12000010, 0x0, 8, 1, .wo, false, 0, false, 0, 1, 1⟩
def RET_DREDGE_CTL_ABORT : Field := ⟨0x12000010, 0x0, 9, 1, .wo, false, 0, false, 0, 1, 1⟩
/-! RET_STATUS (R161) -/
def RET_STATUS_READY : Field := ⟨0x1200000C, 0x0, 0, 1, .ro, false, 0, false, 0, 1, 1⟩
def RET_STATUS_WITNESS_USED : Field := ⟨0x1200000C, 0x0, 1, 1, .ro, false, 0, false, 0, 1, 1⟩
def RET_STATUS_CATCHUP : Field := ⟨0x1200000C, 0x0, 2, 1, .ro, false, 0, false, 0, 1, 1⟩
/-! LIFE_NOW_LO (R163) -/
def LIFE_NOW_LO_SEC_LO : Field := ⟨0x700000, 0x0, 0, 32, .ro, false, 0, true, 0, 4294967295, 1⟩
/-! LIFE_NOW_HI (R163) -/
def LIFE_NOW_HI_SEC_HI : Field := ⟨0x700004, 0x0, 0, 16, .ro, false, 0, true, 0, 65535, 1⟩
/-! LIFE_UTC_LO (R163) -/
def LIFE_UTC_LO_OFS_LO : Field := ⟨0x700008, 0x0, 0, 32, .ro, false, 0, true, 0, 4294967295, 1⟩
/-! LIFE_UTC_HI (R163) -/
def LIFE_UTC_HI_OFS_HI : Field := ⟨0x70000C, 0x0, 0, 32, .ro, false, 0, true, 0, 4294967295, 1⟩
/-! LIFE_STAT (R163) -/
def LIFE_STAT_VALID : Field := ⟨0x700010, 0x0, 0, 1, .ro, false, 0, true, 0, 1, 1⟩
def LIFE_STAT_VBAT_LOST : Field := ⟨0x700010, 0x0, 1, 1, .w1c, false, 0, true, 0, 1, 1⟩
def LIFE_STAT_LOW_BAT : Field := ⟨0x700010, 0x0, 2, 1, .ro, false, 0, true, 0, 1, 1⟩
/-! LIFE_LAST_OFF (R163) -/
def LIFE_LAST_OFF_SECONDS : Field := ⟨0x700014, 0x0, 0, 32, .ro, false, 0, true, 0, 4294967295, 1⟩
/-! LDPC_LADDER_CTL (R218) -/
def LDPC_LADDER_CTL_RETRY_MAX : Field := ⟨0x13000000, 0x0, 0, 4, .rw, false, 4, false, 1, 15, 1⟩
def LDPC_LADDER_CTL_SOFT_LEVELS : Field := ⟨0x13000000, 0x0, 4, 2, .rw, false, 2, false, 0, 2, 1⟩
def LDPC_LADDER_CTL_RACE : Field := ⟨0x13000000, 0x0, 8, 9, .rw, false, 40, false, 10, 500, 1⟩
def LDPC_LADDER_CTL_HARD_ITER : Field := ⟨0x13000000, 0x0, 20, 5, .rwe, true, 20, false, 5, 20, 1⟩
def LDPC_LADDER_CTL_SOFT_ITER : Field := ⟨0x13000000, 0x0, 25, 6, .rwe, true, 25, false, 5, 40, 1⟩
/-! LDPC_SOFT_CTL (R219) -/
def LDPC_SOFT_CTL_HOST_RES : Field := ⟨0x13000004, 0x0, 0, 6, .ro, false, 0, false, 0, 63, 1⟩
def LDPC_SOFT_CTL_SOFT_DELTA : Field := ⟨0x13000004, 0x0, 8, 4, .rwe, true, 4, false, 1, 15, 1⟩
/-! LDPC_RRT_CTL (R220) -/
def LDPC_RRT_CTL_BANK : Field := ⟨0x13000008, 0x0, 0, 1, .ro, false, 0, false, 0, 1, 1⟩
def LDPC_RRT_CTL_MIXED : Field := ⟨0x13000008, 0x0, 1, 1, .ro, false, 0, false, 0, 1, 1⟩
def LDPC_RRT_CTL_TABLES : Field := ⟨0x13000008, 0x0, 8, 8, .ro, false, 0, false, 0, 255, 1⟩
def LDPC_RRT_CTL_SET_VER : Field := ⟨0x13000008, 0x0, 16, 16, .ro, false, 0, false, 0, 65535, 1⟩
/-! HEW_RING_BASE[n] (R241) -/
def HEW_RING_BASE_ADDR : Field := ⟨0x14000000, 0x1000, 0, 32, .rw, false, 0, false, 0, 4294967295, 1⟩
/-! HEW_RING_CFG[n] (R242) -/
def HEW_RING_CFG_SIZE_LOG2 : Field := ⟨0x14000004, 0x1000, 0, 4, .rw, false, 7, false, 7, 12, 1⟩
def HEW_RING_CFG_ENABLE : Field := ⟨0x14000004, 0x1000, 4, 1, .rw, false, 0, false, 0, 1, 1⟩
/-! HEW_RING_TAIL[n] (R243) -/
def HEW_RING_TAIL_TAIL : Field := ⟨0x14000008, 0x1000, 0, 12, .rw, false, 0, false, 0, 4095, 1⟩
/-! HEW_RING_HEAD[n] (R243) -/
def HEW_RING_HEAD_HEAD : Field := ⟨0x1400000C, 0x1000, 0, 12, .ro, false, 0, false, 0, 4095, 1⟩
def HEW_RING_HEAD_INFLIGHT : Field := ⟨0x1400000C, 0x1000, 16, 8, .ro, false, 0, false, 0, 255, 1⟩
/-! HEW_STAT[n] (R244) -/
def HEW_STAT_STATE : Field := ⟨0x14000010, 0x1000, 0, 3, .ro, false, 0, false, 0, 7, 1⟩
def HEW_STAT_SUSPENDED : Field := ⟨0x14000010, 0x1000, 8, 6, .ro, false, 0, false, 0, 63, 1⟩
/-! HEW_EVT[n] (R244) -/
def HEW_EVT_DONE : Field := ⟨0x14000014, 0x1000, 0, 1, .w1c, false, 0, false, 0, 1, 1⟩
def HEW_EVT_ERROR : Field := ⟨0x14000014, 0x1000, 1, 1, .w1c, false, 0, false, 0, 1, 1⟩
def HEW_EVT_OWN_ERR : Field := ⟨0x14000014, 0x1000, 2, 1, .w1c, false, 0, false, 0, 1, 1⟩
def HEW_EVT_LINK_DOWN : Field := ⟨0x14000014, 0x1000, 3, 1, .w1c, false, 0, false, 0, 1, 1⟩
def HEW_EVT_LINK_UP : Field := ⟨0x14000014, 0x1000, 4, 1, .w1c, false, 0, false, 0, 1, 1⟩
/-! HEW_IE[n] (R244) -/
def HEW_IE_IE : Field := ⟨0x14000018, 0x1000, 0, 5, .rw, false, 0, false, 0, 31, 1⟩
/-! HEW_SUSP_CTL (R246) -/
def HEW_SUSP_CTL_MIN_RUN : Field := ⟨0x14200000, 0x0, 0, 11, .rw, false, 400, false, 100, 2000, 1⟩
def HEW_SUSP_CTL_CAP : Field := ⟨0x14200000, 0x0, 16, 5, .rwe, true, 16, false, 1, 16, 1⟩
def HEW_SUSP_CTL_WINDOW : Field := ⟨0x14200000, 0x0, 24, 4, .rw, false, 4, false, 1, 8, 1⟩
/-! HEW_PF_STAT (R246) -/
def HEW_PF_STAT_HALT : Field := ⟨0x14200004, 0x0, 0, 1, .ro, false, 0, false, 0, 1, 1⟩
def HEW_PF_STAT_FLUSH : Field := ⟨0x14200004, 0x0, 1, 1, .ro, false, 0, false, 0, 1, 1⟩
def HEW_PF_STAT_OFF : Field := ⟨0x14200004, 0x0, 2, 1, .ro, false, 0, false, 0, 1, 1⟩
def HEW_PF_STAT_QUIET : Field := ⟨0x14200004, 0x0, 16, 10, .ro, false, 0, false, 0, 1023, 1⟩
/-! UCS_BANK[n] (R263) -/
def UCS_BANK_LIVE : Field := ⟨0x16200000, 0x4, 0, 1, .ro, false, 0, false, 0, 1, 1⟩
def UCS_BANK_PENDING : Field := ⟨0x16200000, 0x4, 1, 1, .ro, false, 0, false, 0, 1, 1⟩
def UCS_BANK_PATCH_ERR : Field := ⟨0x16200000, 0x4, 2, 1, .w1c, false, 0, false, 0, 1, 1⟩
def UCS_BANK_STARTED : Field := ⟨0x16200000, 0x4, 8, 6, .ro, false, 0, false, 0, 63, 1⟩
/-! UCS_EPOCH (R264) -/
def UCS_EPOCH_CUR : Field := ⟨0x16200040, 0x0, 0, 8, .ro, false, 0, false, 0, 255, 1⟩
def UCS_EPOCH_PHASE : Field := ⟨0x16200040, 0x0, 8, 2, .ro, false, 0, false, 0, 3, 1⟩
def UCS_EPOCH_KIND : Field := ⟨0x16200040, 0x0, 12, 4, .ro, false, 0, false, 0, 15, 1⟩
/-! UCS_EPOCH_STAT (R264) -/
def UCS_EPOCH_STAT_ACKED : Field := ⟨0x16200044, 0x0, 0, 10, .ro, false, 0, false, 0, 1023, 1⟩
def UCS_EPOCH_STAT_EXCUSED : Field := ⟨0x16200044, 0x0, 10, 10, .ro, false, 0, false, 0, 1023, 1⟩
def UCS_EPOCH_STAT_ERR : Field := ⟨0x16200044, 0x0, 20, 8, .ro, false, 0, false, 0, 255, 1⟩
/-! SEAM_CTL[n] (R295) -/
def SEAM_CTL_ENABLE : Field := ⟨0x18000000, 0x2000, 0, 1, .rwe, true, 0, false, 0, 1, 1⟩
def SEAM_CTL_RETRAIN : Field := ⟨0x18000000, 0x2000, 1, 1, .wo, false, 0, false, 0, 1, 1⟩
def SEAM_CTL_RATE_MAX : Field := ⟨0x18000000, 0x2000, 2, 1, .rw, false, 1, false, 0, 1, 1⟩
def SEAM_CTL_LOOPBACK : Field := ⟨0x18000000, 0x2000, 3, 1, .rwe, true, 0, false, 0, 1, 1⟩
/-! SEAM_STAT[n] (R296) -/
def SEAM_STAT_STATE : Field := ⟨0x18000004, 0x2000, 0, 4, .ro, false, 0, false, 0, 15, 1⟩
def SEAM_STAT_RATE : Field := ⟨0x18000004, 0x2000, 4, 1, .ro, false, 0, false, 0, 1, 1⟩
def SEAM_STAT_FALLBACK : Field := ⟨0x18000004, 0x2000, 5, 1, .ro, false, 0, false, 0, 1, 1⟩
def SEAM_STAT_SAFE_REMOVE : Field := ⟨0x18000004, 0x2000, 6, 1, .ro, false, 0, false, 0, 1, 1⟩
def SEAM_STAT_LANE : Field := ⟨0x18000004, 0x2000, 8, 9, .ro, false, 0, false, 0, 511, 1⟩
def SEAM_STAT_PLLG : Field := ⟨0x18000004, 0x2000, 17, 4, .ro, false, 0, false, 0, 15, 1⟩
/-! SEAM_GRP_STAT[n] (R298) -/
def SEAM_GRP_STAT_LOCKED : Field := ⟨0x18400000, 0x4, 0, 1, .ro, false, 0, false, 0, 1, 1⟩
def SEAM_GRP_STAT_ACTIVE : Field := ⟨0x18400000, 0x4, 1, 6, .ro, false, 0, false, 0, 63, 1⟩
/-! SEAM_RECAL_CTL (R298) -/
def SEAM_RECAL_CTL_PERIOD : Field := ⟨0x18400040, 0x0, 0, 8, .rw, false, 10, false, 1, 100, 1⟩
def SEAM_RECAL_CTL_DTEMP : Field := ⟨0x18400040, 0x0, 8, 8, .rw, false, 10, false, 2, 40, 1⟩
def SEAM_RECAL_CTL_WINDOW : Field := ⟨0x18400040, 0x0, 16, 5, .rw, false, 10, false, 2, 20, 1⟩
/-! MERE_STAT[n] (R324) -/
def MERE_STAT_IN_SERVICE : Field := ⟨0x5000000, 0x4, 0, 1, .ro, false, 0, false, 0, 1, 1⟩
def MERE_STAT_PARKED : Field := ⟨0x5000000, 0x4, 1, 1, .ro, false, 0, false, 0, 1, 1⟩
def MERE_STAT_CHK_PASS : Field := ⟨0x5000000, 0x4, 2, 1, .ro, false, 0, false, 0, 1, 1⟩
def MERE_STAT_TRAIN_PASS : Field := ⟨0x5000000, 0x4, 3, 1, .ro, false, 0, false, 0, 1, 1⟩
def MERE_STAT_FENCE_CAUSE : Field := ⟨0x5000000, 0x4, 4, 4, .ro, false, 0, false, 0, 15, 1⟩
def MERE_STAT_TEMP : Field := ⟨0x5000000, 0x4, 8, 8, .ro, false, 0, false, 0, 255, 1⟩
/-! MERE_EVT (R325) -/
def MERE_EVT_BUCKET : Field := ⟨0x5000020, 0x0, 0, 8, .w1c, false, 0, false, 0, 255, 1⟩
def MERE_EVT_UNC : Field := ⟨0x5000020, 0x0, 8, 8, .w1c, false, 0, false, 0, 255, 1⟩
def MERE_EVT_FENCED : Field := ⟨0x5000020, 0x0, 16, 8, .w1c, false, 0, false, 0, 255, 1⟩
def MERE_EVT_LAP_LONG : Field := ⟨0x5000020, 0x0, 24, 1, .w1c, false, 0, false, 0, 1, 1⟩
def MERE_EVT_VALID_UNC : Field := ⟨0x5000020, 0x0, 25, 1, .w1c, false, 0, false, 0, 1, 1⟩
/-! MERE_BKT_CTL (R326) -/
def MERE_BKT_CTL_DEPTH : Field := ⟨0x5000080, 0x0, 0, 16, .rw, false, 256, false, 1, 65535, 1⟩
def MERE_BKT_CTL_LEAK : Field := ⟨0x5000080, 0x0, 16, 12, .rw, false, 1000, false, 1, 4095, 1⟩
def MERE_BKT_CTL_FENCE_OVF : Field := ⟨0x5000080, 0x0, 28, 4, .rwl, false, 8, false, 0, 15, 1⟩
/-! MERE_BKT[n] (R326) -/
def MERE_BKT_LEVEL : Field := ⟨0x50000A0, 0x4, 0, 16, .ro, false, 0, false, 0, 65535, 1⟩
def MERE_BKT_OVF_24H : Field := ⟨0x50000A0, 0x4, 16, 8, .ro, false, 0, false, 0, 255, 1⟩
/-! MERE_SCRUB_CTL (R327) -/
def MERE_SCRUB_CTL_RATE : Field := ⟨0x5000200, 0x0, 0, 7, .rw, false, 10, false, 1, 100, 1⟩
def MERE_SCRUB_CTL_EN : Field := ⟨0x5000200, 0x0, 7, 1, .rwe, true, 1, false, 0, 1, 1⟩
def MERE_SCRUB_CTL_LAP_WARN : Field := ⟨0x5000200, 0x0, 8, 16, .rw, false, 3600, false, 60, 65535, 1⟩
/-! MERE_LAP[n] (R327) -/
def MERE_LAP_LAST : Field := ⟨0x5000220, 0x4, 0, 20, .ro, false, 0, false, 0, 1048575, 1⟩
def MERE_LAP_PROGRESS : Field := ⟨0x5000220, 0x4, 20, 7, .ro, false, 0, false, 0, 127, 1⟩
/-! NVQ_SLOTS (R356) -/
def NVQ_SLOTS_USED : Field := ⟨0x2000000, 0x0, 0, 15, .ro, false, 0, false, 0, 32767, 1⟩
def NVQ_SLOTS_SHARED_FREE : Field := ⟨0x2000000, 0x0, 16, 15, .ro, false, 0, false, 0, 32767, 1⟩
/-! NVQ_FETCH_CTL (R357) -/
def NVQ_FETCH_CTL_QMAX : Field := ⟨0x2000004, 0x0, 0, 15, .rw, false, 2048, false, 64, 16384, 1⟩
def NVQ_FETCH_CTL_BURST : Field := ⟨0x2000004, 0x0, 16, 4, .rwe, true, 8, false, 1, 8, 1⟩
/-! NVQ_CTRL_SEL (R359) -/
def NVQ_CTRL_SEL_INDEX : Field := ⟨0x2000040, 0x0, 0, 10, .rw, false, 0, false, 0, 1023, 1⟩
/-! NVQ_CTRL_INFO (R359) -/
def NVQ_CTRL_INFO_SLOTS : Field := ⟨0x2000044, 0x0, 0, 15, .ro, false, 0, false, 0, 32767, 1⟩
def NVQ_CTRL_INFO_EXISTS : Field := ⟨0x2000044, 0x0, 15, 1, .ro, false, 0, false, 0, 1, 1⟩
def NVQ_CTRL_INFO_QPAIRS : Field := ⟨0x2000044, 0x0, 16, 11, .ro, false, 0, false, 0, 2047, 1⟩
/-! NVQ_CTRL_RES (R359) -/
def NVQ_CTRL_RES_RES : Field := ⟨0x2000048, 0x0, 0, 14, .ro, false, 0, false, 0, 16383, 1⟩
/-! NVQ_LCR_CTL (R390) -/
def NVQ_LCR_CTL_LIFE : Field := ⟨0x2000200, 0x0, 0, 10, .rw, false, 30, false, 30, 600, 1⟩
/-! SLU_CTL (R412) -/
def SLU_CTL_DIE_Q : Field := ⟨0x4000000, 0x0, 0, 4, .rw, false, 4, false, 1, 8, 1⟩
def SLU_CTL_FOLD_FLOOR : Field := ⟨0x4000000, 0x0, 8, 8, .rwl, false, 20, false, 5, 50, 1⟩
def SLU_CTL_META_FLOOR : Field := ⟨0x4000000, 0x0, 16, 8, .rwl, false, 5, false, 1, 20, 1⟩
/-! SLU_BG_CTL (R413) -/
def SLU_BG_CTL_DREDGE_W : Field := ⟨0x4000004, 0x0, 0, 10, .rw, false, 250, false, 1, 1000, 1⟩
def SLU_BG_CTL_REFRESH_W : Field := ⟨0x4000004, 0x0, 10, 10, .rw, false, 50, false, 1, 1000, 1⟩
def SLU_BG_CTL_FOLD_W : Field := ⟨0x4000004, 0x0, 20, 10, .rw, false, 200, false, 1, 1000, 1⟩
/-! SLU_STAT (R414) -/
def SLU_STAT_PERIOD : Field := ⟨0x4000008, 0x0, 0, 16, .ro, false, 0, false, 0, 65535, 1⟩
def SLU_STAT_SCALE : Field := ⟨0x4000008, 0x0, 16, 10, .ro, false, 0, false, 0, 1023, 1⟩
def SLU_STAT_PACING : Field := ⟨0x4000008, 0x0, 26, 1, .ro, false, 0, false, 0, 1, 1⟩
def SLU_STAT_POWER_CAP : Field := ⟨0x4000008, 0x0, 27, 1, .ro, false, 0, false, 0, 1, 1⟩
/-! SLU_EVT (R415) -/
def SLU_EVT_CEIL_HIT : Field := ⟨0x4000010, 0x0, 0, 1, .w1c, false, 0, false, 0, 1, 1⟩
def SLU_EVT_DIRTY_CAP : Field := ⟨0x4000010, 0x0, 1, 1, .w1c, false, 0, false, 0, 1, 1⟩
def SLU_EVT_MERGE_DEBT : Field := ⟨0x4000010, 0x0, 2, 1, .w1c, false, 0, false, 0, 1, 1⟩
def SLU_EVT_FORCED_FOLD : Field := ⟨0x4000010, 0x0, 3, 1, .w1c, false, 0, false, 0, 1, 1⟩
/-! SLU_CLS_SEL (R416) -/
def SLU_CLS_SEL_CLASS : Field := ⟨0x4000100, 0x0, 0, 8, .rw, false, 0, false, 0, 255, 1⟩
/-! SLU_CLS_CFG[n] (R416) -/
def SLU_CLS_CFG_RECORD : Field := ⟨0x4000104, 0x4, 0, 32, .ro, false, 0, false, 0, 4294967295, 1⟩
/-! SLU_CLS_USE (R416) -/
def SLU_CLS_USE_DIE_MEAN : Field := ⟨0x4000124, 0x0, 0, 10, .ro, false, 0, false, 0, 1023, 1⟩
def SLU_CLS_USE_DIE_MAX : Field := ⟨0x4000124, 0x0, 10, 10, .ro, false, 0, false, 0, 1023, 1⟩
/-! SLU_CLS_WAIT (R416) -/
def SLU_CLS_WAIT_WAITING : Field := ⟨0x4000128, 0x0, 0, 15, .ro, false, 0, false, 0, 32767, 1⟩
def SLU_CLS_WAIT_MERGES : Field := ⟨0x4000128, 0x0, 16, 5, .ro, false, 0, false, 0, 31, 1⟩
/-! SLU_CLS_CREDIT (R416) -/
def SLU_CLS_CREDIT_MERGE_CREDIT : Field := ⟨0x400012C, 0x0, 0, 9, .ro, false, 0, false, 0, 511, 1⟩
def SLU_CLS_CREDIT_DIRTY : Field := ⟨0x400012C, 0x0, 16, 16, .ro, false, 0, false, 0, 65535, 1⟩
/-! SLU_CLS_SUSP (R416) -/
def SLU_CLS_SUSP_COUNT : Field := ⟨0x4000130, 0x0, 0, 32, .rc, false, 0, false, 0, 4294967295, 1⟩
/-! HIF_LINK_STAT[n] (R433) -/
def HIF_LINK_STAT_UP : Field := ⟨0x1000000, 0x4, 0, 1, .ro, false, 0, false, 0, 1, 1⟩
def HIF_LINK_STAT_WIDTH : Field := ⟨0x1000000, 0x4, 1, 5, .ro, false, 0, false, 0, 31, 1⟩
def HIF_LINK_STAT_SPEED : Field := ⟨0x1000000, 0x4, 6, 3, .ro, false, 0, false, 0, 7, 1⟩
def HIF_LINK_STAT_FLIT : Field := ⟨0x1000000, 0x4, 9, 1, .ro, false, 0, false, 0, 1, 1⟩
def HIF_LINK_STAT_SPLIT : Field := ⟨0x1000000, 0x4, 10, 1, .ro, false, 0, false, 0, 1, 1⟩
def HIF_LINK_STAT_DEGRADED : Field := ⟨0x1000000, 0x4, 11, 1, .ro, false, 0, false, 0, 1, 1⟩
def HIF_LINK_STAT_FUNCS : Field := ⟨0x1000000, 0x4, 16, 8, .ro, false, 0, false, 0, 255, 1⟩
/-! HIF_EVT (R434) -/
def HIF_EVT_LINK_DOWN : Field := ⟨0x1000040, 0x0, 0, 8, .w1c, false, 0, false, 0, 255, 1⟩
def HIF_EVT_LINK_UP : Field := ⟨0x1000040, 0x0, 8, 8, .w1c, false, 0, false, 0, 255, 1⟩
def HIF_EVT_UNCOR : Field := ⟨0x1000040, 0x0, 16, 1, .w1c, false, 0, false, 0, 1, 1⟩
def HIF_EVT_POISON_RX : Field := ⟨0x1000040, 0x0, 17, 1, .w1c, false, 0, false, 0, 1, 1⟩
/-! HIF_WIN_SEL (R435) -/
def HIF_WIN_SEL_LINK : Field := ⟨0x1000100, 0x0, 0, 3, .rw, false, 0, false, 0, 7, 1⟩
def HIF_WIN_SEL_FUNC : Field := ⟨0x1000100, 0x0, 8, 2, .rw, false, 0, false, 0, 3, 1⟩
def HIF_WIN_SEL_INDEX : Field := ⟨0x1000100, 0x0, 16, 4, .rw, false, 0, false, 0, 15, 1⟩
/-! HIF_WIN_INFO[n] (R435) -/
def HIF_WIN_INFO_ENTRY : Field := ⟨0x1000104, 0x4, 0, 32, .ro, false, 0, false, 0, 4294967295, 1⟩
/-! FAB_PORT_STAT[n] (R458) -/
def FAB_PORT_STAT_UP : Field := ⟨0x3000000, 0x4, 0, 1, .ro, false, 0, false, 0, 1, 1⟩
def FAB_PORT_STAT_MODE : Field := ⟨0x3000000, 0x4, 1, 2, .ro, false, 0, false, 0, 3, 1⟩
def FAB_PORT_STAT_HOLD : Field := ⟨0x3000000, 0x4, 3, 1, .ro, false, 0, false, 0, 1, 1⟩
def FAB_PORT_STAT_PAUSED : Field := ⟨0x3000000, 0x4, 4, 8, .ro, false, 0, false, 0, 255, 1⟩
def FAB_PORT_STAT_STORM : Field := ⟨0x3000000, 0x4, 12, 1, .ro, false, 0, false, 0, 1, 1⟩
def FAB_PORT_STAT_ASSOC : Field := ⟨0x3000000, 0x4, 13, 11, .ro, false, 0, false, 0, 2047, 1⟩
/-! FAB_EVT (R459) -/
def FAB_EVT_LINK_DOWN : Field := ⟨0x3000080, 0x0, 0, 1, .w1c, false, 0, false, 0, 1, 1⟩
def FAB_EVT_LINK_UP : Field := ⟨0x3000080, 0x0, 1, 1, .w1c, false, 0, false, 0, 1, 1⟩
def FAB_EVT_PFC_STORM : Field := ⟨0x3000080, 0x0, 2, 1, .w1c, false, 0, false, 0, 1, 1⟩
def FAB_EVT_ASSOC_END : Field := ⟨0x3000080, 0x0, 3, 1, .w1c, false, 0, false, 0, 1, 1⟩
def FAB_EVT_AUTH_FAIL : Field := ⟨0x3000080, 0x0, 4, 1, .w1c, false, 0, false, 0, 1, 1⟩
def FAB_EVT_RXBUF_FULL : Field := ⟨0x3000080, 0x0, 5, 1, .w1c, false, 0, false, 0, 1, 1⟩
/-! FAB_QOS_CTL (R460) -/
def FAB_QOS_CTL_ROCE_PRI : Field := ⟨0x3000100, 0x0, 0, 3, .rwl, false, 3, false, 0, 7, 1⟩
def FAB_QOS_CTL_CNP_PRI : Field := ⟨0x3000100, 0x0, 3, 3, .rwl, false, 6, false, 0, 7, 1⟩
def FAB_QOS_CTL_CWY_PRI : Field := ⟨0x3000100, 0x0, 6, 3, .rwl, false, 5, false, 0, 7, 1⟩
def FAB_QOS_CTL_ROCE_DSCP : Field := ⟨0x3000100, 0x0, 10, 6, .rwl, false, 26, false, 0, 63, 1⟩
def FAB_QOS_CTL_CNP_DSCP : Field := ⟨0x3000100, 0x0, 16, 6, .rwl, false, 48, false, 0, 63, 1⟩
def FAB_QOS_CTL_CWY_DSCP : Field := ⟨0x3000100, 0x0, 22, 6, .rwl, false, 34, false, 0, 63, 1⟩
/-! FAB_TX_W (R460) -/
def FAB_TX_W_ROCE_W : Field := ⟨0x300010C, 0x0, 0, 4, .rw, false, 3, false, 1, 15, 1⟩
def FAB_TX_W_CWY_W : Field := ⟨0x300010C, 0x0, 4, 4, .rw, false, 1, false, 1, 15, 1⟩
/-! FAB_PFC_CTL (R461) -/
def FAB_PFC_CTL_WD : Field := ⟨0x3000104, 0x0, 0, 8, .rw, false, 20, false, 1, 200, 1⟩
def FAB_PFC_CTL_PFC_TX : Field := ⟨0x3000104, 0x0, 8, 1, .rwl, false, 1, false, 0, 1, 1⟩
def FAB_PFC_CTL_LINK_HOLD : Field := ⟨0x3000104, 0x0, 16, 14, .rw, false, 500, false, 0, 10000, 1⟩
/-! FAB_ECN_CTL (R461) -/
def FAB_ECN_CTL_RATE_MIN : Field := ⟨0x3000108, 0x0, 0, 10, .rwe, true, 10, false, 1, 1000, 1⟩
def FAB_ECN_CTL_CNP_GAP : Field := ⟨0x3000108, 0x0, 10, 8, .rwe, true, 50, false, 1, 255, 1⟩
def FAB_ECN_CTL_DROP : Field := ⟨0x3000108, 0x0, 18, 3, .rwe, true, 2, false, 1, 7, 1⟩
def FAB_ECN_CTL_HOLD : Field := ⟨0x3000108, 0x0, 21, 7, .rwe, true, 40, false, 5, 127, 1⟩
/-! FAB_ECN_RISE (R461) -/
def FAB_ECN_RISE_RISE : Field := ⟨0x3000110, 0x0, 0, 12, .rwe, true, 250, false, 20, 4000, 1⟩
/-! FAB_ADDR_SEL (R462) -/
def FAB_ADDR_SEL_ENTRY : Field := ⟨0x3000200, 0x0, 0, 7, .rw, false, 0, false, 0, 127, 1⟩
/-! FAB_ADDR_DATA[n] (R462) -/
def FAB_ADDR_DATA_BYTES : Field := ⟨0x3000204, 0x4, 0, 32, .rw, false, 0, false, 0, 4294967295, 1⟩
/-! FAB_ADDR_CTL (R462) -/
def FAB_ADDR_CTL_COMMIT : Field := ⟨0x3000240, 0x0, 0, 1, .wo, false, 0, false, 0, 1, 1⟩
def FAB_ADDR_CTL_BUSY : Field := ⟨0x3000240, 0x0, 1, 1, .ro, false, 0, false, 0, 1, 1⟩
def FAB_ADDR_CTL_ERR : Field := ⟨0x3000240, 0x0, 2, 8, .ro, false, 0, false, 0, 255, 1⟩
/-! CWY_STAT (R483) -/
def CWY_STAT_SESSIONS : Field := ⟨0x3800000, 0x0, 0, 7, .ro, false, 0, false, 0, 127, 1⟩
def CWY_STAT_CHAIN_BUSY : Field := ⟨0x3800000, 0x0, 7, 1, .ro, false, 0, false, 0, 1, 1⟩
def CWY_STAT_EXPORTS : Field := ⟨0x3800000, 0x0, 8, 3, .ro, false, 0, false, 0, 7, 1⟩
def CWY_STAT_IMPORTS : Field := ⟨0x3800000, 0x0, 11, 3, .ro, false, 0, false, 0, 7, 1⟩
/-! CWY_PEER_SEL (R485) -/
def CWY_PEER_SEL_ENTRY : Field := ⟨0x3800100, 0x0, 0, 6, .rw, false, 0, false, 0, 63, 1⟩
/-! CWY_PEER_INFO (R485) -/
def CWY_PEER_INFO_STATE : Field := ⟨0x3800104, 0x0, 0, 2, .ro, false, 0, false, 0, 3, 1⟩
def CWY_PEER_INFO_VERSION : Field := ⟨0x3800104, 0x0, 2, 3, .ro, false, 0, false, 0, 7, 1⟩
def CWY_PEER_INFO_STREAMS : Field := ⟨0x3800104, 0x0, 8, 4, .ro, false, 0, false, 0, 15, 1⟩
/-! CWY_PEER_HB[n] (R485) -/
def CWY_PEER_HB_BYTES : Field := ⟨0x3800108, 0x4, 0, 32, .ro, false, 0, false, 0, 4294967295, 1⟩
/-! CIP_STAT (R502) -/
def CIP_STAT_LOADED : Field := ⟨0x6000000, 0x0, 0, 13, .ro, false, 0, false, 0, 8191, 1⟩
def CIP_STAT_ESCROW : Field := ⟨0x6000000, 0x0, 13, 1, .ro, false, 0, false, 0, 1, 1⟩
def CIP_STAT_DRBG_OK : Field := ⟨0x6000000, 0x0, 14, 1, .ro, false, 0, false, 0, 1, 1⟩
/-! CIP_SCA_CTL (R502) -/
def CIP_SCA_CTL_LEVEL : Field := ⟨0x6000004, 0x0, 0, 2, .rwl, false, 1, false, 0, 2, 1⟩
/-! CIP_POOL (R502) -/
def CIP_POOL_HOST_PIPES : Field := ⟨0x6000008, 0x0, 0, 7, .ro, false, 0, false, 0, 127, 1⟩
def CIP_POOL_HOST_LANES : Field := ⟨0x6000008, 0x0, 7, 8, .ro, false, 0, false, 0, 255, 1⟩
/-! CIP_RING_BASE[n] (R504) -/
def CIP_RING_BASE_ADDR : Field := ⟨0x6001000, 0x10, 0, 32, .rw, false, 0, false, 0, 4294967295, 1⟩
/-! CIP_RING_CFG[n] (R504) -/
def CIP_RING_CFG_SIZE_LOG2 : Field := ⟨0x6001004, 0x10, 0, 4, .rw, false, 7, false, 7, 12, 1⟩
def CIP_RING_CFG_ENABLE : Field := ⟨0x6001004, 0x10, 4, 1, .rw, false, 0, false, 0, 1, 1⟩
def CIP_RING_CFG_PRIO : Field := ⟨0x6001004, 0x10, 5, 2, .rw, false, 0, false, 0, 3, 1⟩
/-! CIP_RING_TAIL[n] (R504) -/
def CIP_RING_TAIL_TAIL : Field := ⟨0x6001008, 0x10, 0, 12, .rw, false, 0, false, 0, 4095, 1⟩
/-! CIP_RING_HEAD[n] (R504) -/
def CIP_RING_HEAD_HEAD : Field := ⟨0x600100C, 0x10, 0, 12, .ro, false, 0, false, 0, 4095, 1⟩
/-! CIP_SLOT_SEL (R505) -/
def CIP_SLOT_SEL_SLOT : Field := ⟨0x6000100, 0x0, 0, 12, .rw, false, 0, false, 0, 4095, 1⟩
/-! CIP_SLOT_STAT (R505) -/
def CIP_SLOT_STAT_STATE : Field := ⟨0x6000104, 0x0, 0, 2, .ro, false, 0, false, 0, 3, 1⟩
def CIP_SLOT_STAT_ESCROWED : Field := ⟨0x6000104, 0x0, 2, 1, .ro, false, 0, false, 0, 1, 1⟩
def CIP_SLOT_STAT_USERS : Field := ⟨0x6000104, 0x0, 3, 14, .ro, false, 0, false, 0, 16383, 1⟩
/-! CIP_SLOT_NSID (R505) -/
def CIP_SLOT_NSID_NSID : Field := ⟨0x6000108, 0x0, 0, 32, .ro, false, 0, false, 0, 4294967295, 1⟩
/-! DMA_RING_BASE[n] (R516) -/
def DMA_RING_BASE_ADDR : Field := ⟨0x7000000, 0x100, 0, 32, .rw, false, 0, false, 0, 4294967295, 1⟩
/-! DMA_CH_CFG[n] (R516) -/
def DMA_CH_CFG_SIZE_LOG2 : Field := ⟨0x7000004, 0x100, 0, 4, .rw, false, 7, false, 7, 12, 1⟩
def DMA_CH_CFG_ENABLE : Field := ⟨0x7000004, 0x100, 4, 1, .rw, false, 0, false, 0, 1, 1⟩
def DMA_CH_CFG_MODE : Field := ⟨0x7000004, 0x100, 5, 1, .rw, false, 0, false, 0, 1, 1⟩
def DMA_CH_CFG_RETRY_MAX : Field := ⟨0x7000004, 0x100, 6, 4, .rw, false, 0, false, 1, 15, 1⟩
def DMA_CH_CFG_TIMER : Field := ⟨0x7000004, 0x100, 16, 4, .rw, false, 0, false, 0, 15, 1⟩
def DMA_CH_CFG_LINK_SRC : Field := ⟨0x7000004, 0x100, 20, 7, .rw, false, 0, false, 0, 95, 1⟩
/-! DMA_RING_TAIL[n] (R517) -/
def DMA_RING_TAIL_TAIL : Field := ⟨0x7000008, 0x100, 0, 12, .rw, false, 0, false, 0, 4095, 1⟩
/-! DMA_RING_HEAD[n] (R517) -/
def DMA_RING_HEAD_HEAD : Field := ⟨0x700000C, 0x100, 0, 12, .ro, false, 0, false, 0, 4095, 1⟩
def DMA_RING_HEAD_LINK_CNT : Field := ⟨0x700000C, 0x100, 16, 8, .ro, false, 0, false, 0, 255, 1⟩
/-! DMA_CH_CTL[n] (R517) -/
def DMA_CH_CTL_RESUME : Field := ⟨0x7000010, 0x100, 0, 1, .wo, false, 0, false, 0, 1, 1⟩
def DMA_CH_CTL_SKIP : Field := ⟨0x7000010, 0x100, 1, 1, .wo, false, 0, false, 0, 1, 1⟩
def DMA_CH_CTL_RESET : Field := ⟨0x7000010, 0x100, 2, 1, .wo, false, 0, false, 0, 1, 1⟩
/-! DMA_CH_STAT[n] (R517) -/
def DMA_CH_STAT_STATE : Field := ⟨0x7000014, 0x100, 0, 3, .ro, false, 0, false, 0, 7, 1⟩
def DMA_CH_STAT_ATTEMPTS : Field := ⟨0x7000014, 0x100, 8, 4, .ro, false, 0, false, 0, 15, 1⟩
def DMA_CH_STAT_SLOT : Field := ⟨0x7000014, 0x100, 16, 12, .ro, false, 0, false, 0, 4095, 1⟩
/-! DMA_ERR_ADDR_LO[n] (R517) -/
def DMA_ERR_ADDR_LO_ADDR_LO : Field := ⟨0x7000018, 0x100, 0, 32, .ro, false, 0, false, 0, 4294967295, 1⟩
/-! DMA_ERR_ADDR_HI[n] (R517) -/
def DMA_ERR_ADDR_HI_ADDR_HI : Field := ⟨0x700001C, 0x100, 0, 32, .ro, false, 0, false, 0, 4294967295, 1⟩
/-! DMA_ERR_INFO[n] (R517) -/
def DMA_ERR_INFO_DIR : Field := ⟨0x7000020, 0x100, 0, 1, .ro, false, 0, false, 0, 1, 1⟩
def DMA_ERR_INFO_HOST : Field := ⟨0x7000020, 0x100, 1, 1, .ro, false, 0, false, 0, 1, 1⟩
def DMA_ERR_INFO_CAUSE : Field := ⟨0x7000020, 0x100, 2, 4, .ro, false, 0, false, 0, 15, 1⟩
def DMA_ERR_INFO_CNTLID : Field := ⟨0x7000020, 0x100, 16, 10, .ro, false, 0, false, 0, 1023, 1⟩
/-! DMA_CNT_ERR[n] (R517) -/
def DMA_CNT_ERR_COUNT : Field := ⟨0x7000024, 0x100, 0, 32, .rc, false, 0, false, 0, 4294967295, 1⟩
/-! DMA_CNT_LOST[n] (R517) -/
def DMA_CNT_LOST_COUNT : Field := ⟨0x7000028, 0x100, 0, 32, .rc, false, 0, false, 0, 4294967295, 1⟩
/-! DMA_TIMER[n] (R518) -/
def DMA_TIMER_PERIOD : Field := ⟨0x7010000, 0x4, 0, 16, .rw, false, 0, false, 0, 65535, 1⟩
/-! DMA_DONE[n] (R518) -/
def DMA_DONE_DONE : Field := ⟨0x7010100, 0x4, 0, 32, .w1c, false, 0, false, 0, 4294967295, 1⟩
/-! DMA_HALT[n] (R518) -/
def DMA_HALT_HALT : Field := ⟨0x7010110, 0x4, 0, 32, .w1c, false, 0, false, 0, 4294967295, 1⟩
/-! DMA_DONE_IE[n] (R518) -/
def DMA_DONE_IE_IE : Field := ⟨0x7010120, 0x4, 0, 32, .rw, false, 0, false, 0, 4294967295, 1⟩
/-! DMA_HALT_IE[n] (R518) -/
def DMA_HALT_IE_IE : Field := ⟨0x7010130, 0x4, 0, 32, .rw, false, 0, false, 0, 4294967295, 1⟩
/-! MBX_TX[n] (R529) -/
def MBX_TX_DATA : Field := ⟨0x8000000, 0x0, 0, 32, .wo, false, 0, false, 0, 4294967295, 1⟩
/-! MBX_RX[n] (R529) -/
def MBX_RX_DATA : Field := ⟨0x8000010, 0x0, 0, 32, .ro, false, 0, false, 0, 4294967295, 1⟩
/-! MBX_CH_STAT[n] (R529) -/
def MBX_CH_STAT_COUNT : Field := ⟨0x8000020, 0x40, 0, 5, .ro, false, 0, false, 0, 31, 1⟩
def MBX_CH_STAT_OVF : Field := ⟨0x8000020, 0x40, 8, 1, .w1c, false, 0, false, 0, 1, 1⟩
def MBX_CH_STAT_SENDER : Field := ⟨0x8000020, 0x40, 16, 8, .ro, false, 0, false, 0, 255, 1⟩
def MBX_CH_STAT_RECEIVER : Field := ⟨0x8000020, 0x40, 24, 8, .ro, false, 0, false, 0, 255, 1⟩
/-! MBX_PEND[n] (R530) -/
def MBX_PEND_PEND : Field := ⟨0x8010000, 0x4, 0, 32, .ro, false, 0, false, 0, 4294967295, 1⟩
/-! MBX_PEND_IE[n] (R530) -/
def MBX_PEND_IE_IE : Field := ⟨0x8010020, 0x4, 0, 32, .rw, false, 0, false, 0, 4294967295, 1⟩
/-! MBX_EVT (R530) -/
def MBX_EVT_OVERFLOW : Field := ⟨0x8010040, 0x0, 0, 1, .w1c, false, 0, false, 0, 1, 1⟩
def MBX_EVT_PAIR_LOST : Field := ⟨0x8010040, 0x0, 1, 1, .w1c, false, 0, false, 0, 1, 1⟩
/-! MBX_IE (R530) -/
def MBX_IE_IE : Field := ⟨0x8010044, 0x0, 0, 2, .rw, false, 0, false, 0, 3, 1⟩
/-! MBX_PAIR_STAT[n] (R530) -/
def MBX_PAIR_STAT_STATE : Field := ⟨0x8010100, 0x4, 0, 2, .ro, false, 0, false, 0, 3, 1⟩
def MBX_PAIR_STAT_ID_A : Field := ⟨0x8010100, 0x4, 4, 4, .ro, false, 0, false, 0, 15, 1⟩
def MBX_PAIR_STAT_ID_B : Field := ⟨0x8010100, 0x4, 8, 4, .ro, false, 0, false, 0, 15, 1⟩
def MBX_PAIR_STAT_CAUSE : Field := ⟨0x8010100, 0x4, 12, 3, .ro, false, 0, false, 0, 7, 1⟩
/-! MBX_PAIR_TEST (R530) -/
def MBX_PAIR_TEST_PAIR : Field := ⟨0x8010140, 0x0, 0, 4, .rwe, true, 0, false, 0, 11, 1⟩
def MBX_PAIR_TEST_INJECT : Field := ⟨0x8010140, 0x0, 4, 1, .wo, true, 0, false, 0, 1, 1⟩
/-! PEAT_STAT (R543) -/
def PEAT_STAT_UNARCH : Field := ⟨0x9000000, 0x0, 0, 17, .ro, false, 0, false, 0, 131071, 1⟩
def PEAT_STAT_DROPPING : Field := ⟨0x9000000, 0x0, 17, 1, .ro, false, 0, false, 0, 1, 1⟩
def PEAT_STAT_ARCH_BUSY : Field := ⟨0x9000000, 0x0, 18, 1, .ro, false, 0, false, 0, 1, 1⟩
/-! PEAT_CTL (R543) -/
def PEAT_CTL_MAX_AGE : Field := ⟨0x9000004, 0x0, 0, 8, .rw, false, 6, false, 1, 168, 1⟩
def PEAT_CTL_NOW : Field := ⟨0x9000004, 0x0, 8, 1, .wo, false, 0, false, 0, 1, 1⟩
/-! PEAT_CODE_SEL (R544) -/
def PEAT_CODE_SEL_CODE : Field := ⟨0x9000100, 0x0, 0, 16, .rw, false, 0, false, 0, 65535, 1⟩
/-! PEAT_RL (R544) -/
def PEAT_RL_RATE : Field := ⟨0x9000104, 0x0, 0, 10, .rw, false, 10, false, 1, 1000, 1⟩
def PEAT_RL_BURST : Field := ⟨0x9000104, 0x0, 10, 8, .rw, false, 32, false, 1, 255, 1⟩
def PEAT_RL_CRITICAL : Field := ⟨0x9000104, 0x0, 18, 1, .ro, false, 0, false, 0, 1, 1⟩
/-! PEAT_SUPP (R544) -/
def PEAT_SUPP_PENDING : Field := ⟨0x9000108, 0x0, 0, 16, .ro, false, 0, false, 0, 65535, 1⟩
/-! PEAT_SNAP_CFG[n] (R544) -/
def PEAT_SNAP_CFG_EN : Field := ⟨0x9000110, 0x4, 0, 1, .rwe, true, 0, false, 0, 1, 1⟩
def PEAT_SNAP_CFG_OFFSET : Field := ⟨0x9000110, 0x4, 2, 28, .rwe, true, 0, false, 0, 268435455, 1⟩
/-! PWR_PF_CTL (R567) -/
def PWR_PF_CTL_FILTER : Field := ⟨0x400000, 0x0, 0, 4, .rwl, false, 1, false, 1, 10, 1⟩
def PWR_PF_CTL_AGREE : Field := ⟨0x400000, 0x0, 4, 8, .rwl, false, 5, false, 1, 255, 1⟩
def PWR_PF_CTL_RESTART : Field := ⟨0x400000, 0x0, 16, 12, .rwl, false, 100, false, 10, 4000, 1⟩
/-! PWR_STAT (R567) -/
def PWR_STAT_PFAIL_A : Field := ⟨0x400004, 0x0, 0, 1, .ro, false, 0, false, 0, 1, 1⟩
def PWR_STAT_PFAIL_B : Field := ⟨0x400004, 0x0, 1, 1, .ro, false, 0, false, 0, 1, 1⟩
def PWR_STAT_DECIDED : Field := ⟨0x400004, 0x0, 2, 1, .ro, false, 0, false, 0, 1, 1⟩
def PWR_STAT_HT_FAILED : Field := ⟨0x400004, 0x0, 3, 1, .ro, false, 0, false, 0, 1, 1⟩
def PWR_STAT_RESERVE_OK : Field := ⟨0x400004, 0x0, 4, 1, .ro, false, 0, false, 0, 1, 1⟩
def PWR_STAT_EFF_LIMIT : Field := ⟨0x400004, 0x0, 16, 16, .ro, false, 0, false, 0, 65535, 1⟩
/-! PWR_HT_CTL (R569) -/
def PWR_HT_CTL_ARM : Field := ⟨0x400010, 0x0, 0, 1, .wo, false, 0, false, 0, 1, 1⟩
def PWR_HT_CTL_CANCEL : Field := ⟨0x400010, 0x0, 1, 1, .wo, false, 0, false, 0, 1, 1⟩
/-! PWR_HT_STAT (R569) -/
def PWR_HT_STAT_STATE : Field := ⟨0x400014, 0x0, 0, 3, .ro, false, 0, true, 0, 7, 1⟩
def PWR_HT_STAT_OVERDUE : Field := ⟨0x400014, 0x0, 3, 1, .ro, false, 0, false, 0, 1, 1⟩
def PWR_HT_STAT_HOURS_LEFT : Field := ⟨0x400014, 0x0, 16, 10, .ro, false, 0, false, 0, 1023, 1⟩
/-! PWR_HT_ENERGY (R569) -/
def PWR_HT_ENERGY_MJ : Field := ⟨0x400018, 0x0, 0, 32, .ro, false, 0, true, 0, 4294967295, 1⟩
/-! PWR_EVT (R569) -/
def PWR_EVT_DISAGREE : Field := ⟨0x400020, 0x0, 0, 1, .w1c, false, 0, false, 0, 1, 1⟩
def PWR_EVT_HT_REQ : Field := ⟨0x400020, 0x0, 1, 1, .w1c, false, 0, false, 0, 1, 1⟩
def PWR_EVT_HT_READY : Field := ⟨0x400020, 0x0, 2, 1, .w1c, false, 0, false, 0, 1, 1⟩
def PWR_EVT_HT_DONE : Field := ⟨0x400020, 0x0, 3, 1, .w1c, false, 0, false, 0, 1, 1⟩
def PWR_EVT_LIMIT_CUT : Field := ⟨0x400020, 0x0, 4, 1, .w1c, false, 0, false, 0, 1, 1⟩
/-! PWR_IE (R569) -/
def PWR_IE_IE : Field := ⟨0x400024, 0x0, 0, 5, .rw, false, 0, false, 0, 31, 1⟩
/-! SEAL_CTL (R570) -/
def SEAL_CTL_MODE : Field := ⟨0x500000, 0x0, 0, 1, .rwl, false, 0, false, 0, 1, 1⟩
def SEAL_CTL_DISC : Field := ⟨0x500000, 0x0, 4, 9, .rwl, false, 100, false, 20, 500, 1⟩
def SEAL_CTL_CLEAR : Field := ⟨0x500000, 0x0, 16, 1, .wo, false, 0, false, 0, 1, 1⟩
def SEAL_CTL_SOFT : Field := ⟨0x500000, 0x0, 17, 1, .rw, false, 0, false, 0, 1, 1⟩
/-! SEAL_STAT (R570) -/
def SEAL_STAT_A : Field := ⟨0x500004, 0x0, 0, 1, .ro, false, 0, false, 0, 1, 1⟩
def SEAL_STAT_B : Field := ⟨0x500004, 0x0, 1, 1, .ro, false, 0, false, 0, 1, 1⟩
def SEAL_STAT_AGREE : Field := ⟨0x500004, 0x0, 2, 1, .ro, false, 0, false, 0, 1, 1⟩
def SEAL_STAT_SEALED : Field := ⟨0x500004, 0x0, 3, 1, .ro, false, 0, false, 0, 1, 1⟩
def SEAL_STAT_HW : Field := ⟨0x500004, 0x0, 4, 1, .ro, false, 0, false, 0, 1, 1⟩
def SEAL_STAT_FAULT : Field := ⟨0x500004, 0x0, 5, 1, .ro, false, 0, true, 0, 1, 1⟩
def SEAL_STAT_DISC_MS : Field := ⟨0x500004, 0x0, 8, 11, .ro, false, 0, false, 0, 2047, 1⟩
/-! SEAL_EVT (R570) -/
def SEAL_EVT_CHANGE : Field := ⟨0x500008, 0x0, 0, 1, .w1c, false, 0, false, 0, 1, 1⟩
def SEAL_EVT_DISCREPANCY : Field := ⟨0x500008, 0x0, 1, 1, .w1c, false, 0, false, 0, 1, 1⟩
def SEAL_EVT_FAULT : Field := ⟨0x500008, 0x0, 2, 1, .w1c, false, 0, false, 0, 1, 1⟩
/-! SEAL_IE (R570) -/
def SEAL_IE_IE : Field := ⟨0x50000C, 0x0, 0, 3, .rw, false, 0, false, 0, 7, 1⟩
/-! SEAL_CNT_DISC (R570) -/
def SEAL_CNT_DISC_COUNT : Field := ⟨0x500010, 0x0, 0, 32, .rc, false, 0, false, 0, 4294967295, 1⟩
/-! UPD_STAT (R589) -/
def UPD_STAT_RUNNING : Field := ⟨0xA000000, 0x0, 0, 2, .ro, false, 0, false, 0, 3, 1⟩
def UPD_STAT_PENDING : Field := ⟨0xA000000, 0x0, 2, 2, .ro, false, 0, false, 0, 3, 1⟩
def UPD_STAT_TRIES : Field := ⟨0xA000000, 0x0, 4, 2, .ro, false, 0, false, 0, 3, 1⟩
def UPD_STAT_STATE : Field := ⟨0xA000000, 0x0, 6, 3, .ro, false, 0, false, 0, 7, 1⟩
def UPD_STAT_SOURCE : Field := ⟨0xA000000, 0x0, 9, 1, .ro, false, 0, false, 0, 1, 1⟩
def UPD_STAT_ERR : Field := ⟨0xA000000, 0x0, 16, 8, .ro, false, 0, false, 0, 255, 1⟩
/-! UPD_PROGRESS (R589) -/
def UPD_PROGRESS_OUT_BYTES : Field := ⟨0xA000004, 0x0, 0, 26, .ro, false, 0, false, 0, 67108863, 1⟩
/-! CUS_NONCE[n] (R599) -/
def CUS_NONCE_NONCE : Field := ⟨0xB000100, 0x4, 0, 32, .ro, false, 0, false, 0, 4294967295, 1⟩
/-! CUS_SESS_RESP (R599) -/
def CUS_SESS_RESP_WORD : Field := ⟨0xB000110, 0x0, 0, 32, .wo, false, 0, false, 0, 4294967295, 1⟩
/-! CUS_SESS_STAT (R599) -/
def CUS_SESS_STAT_OPEN : Field := ⟨0xB000114, 0x0, 0, 1, .ro, false, 0, false, 0, 1, 1⟩
def CUS_SESS_STAT_WORDS : Field := ⟨0xB000114, 0x0, 1, 3, .ro, false, 0, false, 0, 7, 1⟩
def CUS_SESS_STAT_FAILS : Field := ⟨0xB000114, 0x0, 4, 2, .ro, false, 0, false, 0, 3, 1⟩
def CUS_SESS_STAT_LOCKOUT : Field := ⟨0xB000114, 0x0, 6, 1, .ro, false, 0, false, 0, 1, 1⟩
def CUS_SESS_STAT_CLOSE : Field := ⟨0xB000114, 0x0, 7, 1, .wo, false, 0, false, 0, 1, 1⟩
def CUS_SESS_STAT_RECOVERY : Field := ⟨0xB000114, 0x0, 8, 1, .ro, false, 0, false, 0, 1, 1⟩
def CUS_SESS_STAT_SESSION : Field := ⟨0xB000114, 0x0, 16, 16, .ro, false, 0, false, 0, 65535, 1⟩
/-! CUS_SESS_CTL (R599) -/
def CUS_SESS_CTL_IDLE_TO : Field := ⟨0xB000118, 0x0, 0, 12, .rw, false, 120, false, 10, 3600, 1⟩
/-! CUS_WIN_ADDR (R600) -/
def CUS_WIN_ADDR_OFFSET : Field := ⟨0xB000120, 0x0, 2, 28, .rw, false, 0, false, 0, 268435455, 1⟩
/-! CUS_WIN_WDATA (R600) -/
def CUS_WIN_WDATA_DATA : Field := ⟨0xB000124, 0x0, 0, 32, .rw, false, 0, false, 0, 4294967295, 1⟩
/-! CUS_WIN_CTL (R600) -/
def CUS_WIN_CTL_READ : Field := ⟨0xB000128, 0x0, 0, 1, .wo, false, 0, false, 0, 1, 1⟩
def CUS_WIN_CTL_WRITE : Field := ⟨0xB000128, 0x0, 1, 1, .wo, false, 0, false, 0, 1, 1⟩
/-! CUS_WIN_STAT (R600) -/
def CUS_WIN_STAT_BUSY : Field := ⟨0xB00012C, 0x0, 0, 1, .ro, false, 0, false, 0, 1, 1⟩
/-! CUS_WIN_RDATA (R600) -/
def CUS_WIN_RDATA_DATA : Field := ⟨0xB000130, 0x0, 0, 32, .ro, false, 0, false, 0, 4294967295, 1⟩
/-! CUS_TASK_CMD (R607) -/
def CUS_TASK_CMD_OPCODE : Field := ⟨0xB000200, 0x0, 0, 8, .rw, false, 0, false, 0, 255, 1⟩
def CUS_TASK_CMD_GO : Field := ⟨0xB000200, 0x0, 8, 1, .wo, false, 0, false, 0, 1, 1⟩
/-! CUS_TASK_STAT (R607) -/
def CUS_TASK_STAT_STATE : Field := ⟨0xB000204, 0x0, 0, 3, .ro, false, 0, false, 0, 7, 1⟩
def CUS_TASK_STAT_STATUS : Field := ⟨0xB000204, 0x0, 8, 8, .ro, false, 0, false, 0, 255, 1⟩
def CUS_TASK_STAT_LAST_OP : Field := ⟨0xB000204, 0x0, 16, 8, .ro, false, 0, false, 0, 255, 1⟩
def CUS_TASK_STAT_DETAIL : Field := ⟨0xB000204, 0x0, 24, 8, .ro, false, 0, false, 0, 255, 1⟩
/-! CUS_TASK_ARG[n] (R607) -/
def CUS_TASK_ARG_ARG : Field := ⟨0xB000240, 0x4, 0, 32, .rw, false, 0, false, 0, 4294967295, 1⟩
/-! CUS_TASK_RES[n] (R607) -/
def CUS_TASK_RES_RES : Field := ⟨0xB000280, 0x4, 0, 32, .ro, false, 0, false, 0, 4294967295, 1⟩
/-! CUS_BUF[n] (R607) -/
def CUS_BUF_DATA : Field := ⟨0xB001000, 0x4, 0, 32, .rw, false, 0, false, 0, 4294967295, 1⟩
/-! CUS_EVT (R608) -/
def CUS_EVT_TASK_DONE : Field := ⟨0xB000300, 0x0, 0, 1, .w1c, false, 0, false, 0, 1, 1⟩
def CUS_EVT_SESS_CLOSED : Field := ⟨0xB000300, 0x0, 1, 1, .w1c, false, 0, false, 0, 1, 1⟩
def CUS_EVT_AUTH_FAIL : Field := ⟨0xB000300, 0x0, 2, 1, .w1c, false, 0, false, 0, 1, 1⟩
/-! CUS_IE (R608) -/
def CUS_IE_IE : Field := ⟨0xB000304, 0x0, 0, 3, .rw, false, 0, false, 0, 7, 1⟩
/-! CUS_IRQ_SRC (R608) -/
def CUS_IRQ_SRC_SRC : Field := ⟨0xB000308, 0x0, 0, 17, .ro, false, 0, false, 0, 131071, 1⟩
/-! CLK_PLL_STAT (R626) -/
def CLK_PLL_STAT_SYS : Field := ⟨0x100000, 0x0, 0, 3, .ro, false, 0, false, 0, 7, 1⟩
def CLK_PLL_STAT_STACK : Field := ⟨0x100000, 0x0, 3, 8, .ro, false, 0, false, 0, 255, 1⟩
def CLK_PLL_STAT_PCIE : Field := ⟨0x100000, 0x0, 11, 4, .ro, false, 0, false, 0, 15, 1⟩
def CLK_PLL_STAT_ETH : Field := ⟨0x100000, 0x0, 15, 2, .ro, false, 0, false, 0, 3, 1⟩
def CLK_PLL_STAT_HOLDOVER : Field := ⟨0x100000, 0x0, 17, 1, .ro, false, 0, false, 0, 1, 1⟩
/-! CLK_REF_STAT (R626) -/
def CLK_REF_STAT_SYS : Field := ⟨0x100004, 0x0, 0, 1, .ro, false, 0, false, 0, 1, 1⟩
def CLK_REF_STAT_PE : Field := ⟨0x100004, 0x0, 1, 4, .ro, false, 0, false, 0, 15, 1⟩
def CLK_REF_STAT_ETH : Field := ⟨0x100004, 0x0, 5, 2, .ro, false, 0, false, 0, 3, 1⟩
def CLK_REF_STAT_SEAM : Field := ⟨0x100004, 0x0, 7, 16, .ro, false, 0, false, 0, 65535, 1⟩
def CLK_REF_STAT_RTC : Field := ⟨0x100004, 0x0, 23, 1, .ro, false, 0, true, 0, 1, 1⟩
/-! BOOT_STAT (R628) -/
def BOOT_STAT_STEP : Field := ⟨0x200000, 0x0, 0, 4, .ro, false, 0, false, 0, 15, 1⟩
def BOOT_STAT_DONE : Field := ⟨0x200000, 0x0, 4, 1, .ro, false, 0, false, 0, 1, 1⟩
def BOOT_STAT_STOPPED : Field := ⟨0x200000, 0x0, 5, 1, .ro, false, 0, false, 0, 1, 1⟩
def BOOT_STAT_CAUSE : Field := ⟨0x200000, 0x0, 6, 3, .ro, false, 0, false, 0, 7, 1⟩
def BOOT_STAT_AUTO : Field := ⟨0x200000, 0x0, 9, 2, .ro, false, 0, true, 0, 3, 1⟩
/-! BOOT_START_NO (R628) -/
def BOOT_START_NO_START_NO : Field := ⟨0x200004, 0x0, 0, 32, .ro, false, 0, true, 0, 4294967295, 1⟩
/-! BOOT_STICKY (R628) -/
def BOOT_STICKY_STICKY : Field := ⟨0x200008, 0x0, 0, 8, .ro, false, 0, true, 0, 255, 1⟩
def BOOT_STICKY_MERE_SLOW : Field := ⟨0x200008, 0x0, 8, 8, .ro, false, 0, true, 0, 255, 1⟩
def BOOT_STICKY_SEAM_SLOW : Field := ⟨0x200008, 0x0, 16, 16, .ro, false, 0, true, 0, 65535, 1⟩
/-! BOOT_CTL (R628) -/
def BOOT_CTL_AUTO_MAX : Field := ⟨0x20000C, 0x0, 0, 2, .rwl, false, 3, false, 1, 3, 1⟩
/-! BOOT_RESET (R628) -/
def BOOT_RESET_KEY : Field := ⟨0x200010, 0x0, 0, 16, .wo, true, 0, false, 0, 65535, 1⟩
/-! BOOT_REC_SEL (R628) -/
def BOOT_REC_SEL_AGE : Field := ⟨0x200020, 0x0, 0, 6, .rw, false, 0, false, 0, 63, 1⟩
/-! BOOT_REC[n] (R628) -/
def BOOT_REC_BYTES : Field := ⟨0x200040, 0x4, 0, 32, .ro, false, 0, true, 0, 4294967295, 1⟩
/-! GLB_STRAP (R644) -/
def GLB_STRAP_SMB_ADDR : Field := ⟨0x30, 0x0, 0, 3, .ro, false, 0, false, 0, 7, 1⟩
def GLB_STRAP_TEST_EN : Field := ⟨0x30, 0x0, 3, 1, .ro, false, 0, false, 0, 1, 1⟩
/-! TMON_STAT (R660) -/
def TMON_STAT_TJ : Field := ⟨0x600000, 0x0, 0, 8, .ro, false, 0, false, 0, 255, 1⟩
def TMON_STAT_TJ_MAX : Field := ⟨0x600000, 0x0, 8, 8, .ro, false, 0, false, 0, 255, 1⟩
def TMON_STAT_THROTTLE : Field := ⟨0x600000, 0x0, 16, 1, .ro, false, 0, false, 0, 1, 1⟩
def TMON_STAT_THERM : Field := ⟨0x600000, 0x0, 17, 1, .ro, false, 0, false, 0, 1, 1⟩
def TMON_STAT_HOLD : Field := ⟨0x600000, 0x0, 18, 1, .ro, false, 0, false, 0, 1, 1⟩
def TMON_STAT_SENSORS : Field := ⟨0x600000, 0x0, 19, 5, .ro, false, 0, false, 0, 31, 1⟩
/-! TMON_CTL (R660) -/
def TMON_CTL_THROTTLE_C : Field := ⟨0x600004, 0x0, 0, 8, .rwl, false, 100, false, 85, 105, 1⟩
/-! PWR_STATE (R662) -/
def PWR_STATE_STATE : Field := ⟨0x400050, 0x0, 0, 2, .ro, false, 0, false, 0, 3, 1⟩
def PWR_STATE_ENTERING : Field := ⟨0x400050, 0x0, 2, 1, .ro, false, 0, false, 0, 1, 1⟩
def PWR_STATE_EXITING : Field := ⟨0x400050, 0x0, 3, 1, .ro, false, 0, false, 0, 1, 1⟩
/-! PWR_RAIL_STAT (R662) -/
def PWR_RAIL_STAT_IN_RANGE : Field := ⟨0x400054, 0x0, 0, 8, .ro, false, 0, false, 0, 255, 1⟩
def PWR_RAIL_STAT_VBAT_OK : Field := ⟨0x400054, 0x0, 8, 1, .ro, false, 0, true, 0, 1, 1⟩
/-! GLB_FAULT_EVT (R21) -/
def GLB_FAULT_EVT_EVT : Field := ⟨0x14, 0x0, 0, 10, .w1c, false, 0, false, 0, 1023, 1⟩
/-! GLB_FAULT_IE (R21) -/
def GLB_FAULT_IE_IE : Field := ⟨0x18, 0x0, 0, 10, .rw, false, 0, false, 0, 1023, 1⟩
/-! GLB_POOL (R22) -/
def GLB_POOL_HARD_UP : Field := ⟨0x24, 0x0, 0, 9, .ro, false, 0, false, 0, 511, 1⟩
def GLB_POOL_SOFT_UP : Field := ⟨0x24, 0x0, 9, 6, .ro, false, 0, false, 0, 63, 1⟩
def GLB_POOL_PIPES_UP : Field := ⟨0x24, 0x0, 15, 7, .ro, false, 0, false, 0, 127, 1⟩
def GLB_POOL_GHASH_UP : Field := ⟨0x24, 0x0, 22, 8, .ro, false, 0, false, 0, 255, 1⟩
/-! GLB_EXPERT_NONCE_LO (R58) -/
def GLB_EXPERT_NONCE_LO_NONCE : Field := ⟨0x40, 0x0, 0, 32, .ro, false, 0, false, 0, 4294967295, 1⟩
/-! GLB_EXPERT_NONCE_HI (R58) -/
def GLB_EXPERT_NONCE_HI_NONCE : Field := ⟨0x44, 0x0, 0, 32, .ro, false, 0, false, 0, 4294967295, 1⟩
/-! GLB_EXPERT_KEY (R58) -/
def GLB_EXPERT_KEY_WORD : Field := ⟨0x48, 0x0, 0, 32, .wo, false, 0, false, 0, 4294967295, 1⟩
/-! CFG_SERIAL (R60) -/
def CFG_SERIAL_SERIAL : Field := ⟨0x300004, 0x0, 0, 32, .ro, false, 0, false, 0, 4294967295, 1⟩
/-! CFG_FLOOR (R60) -/
def CFG_FLOOR_FLOOR : Field := ⟨0x300008, 0x0, 0, 32, .ro, false, 0, false, 0, 4294967295, 1⟩
/-! CFG_LOT_EVT (R63) -/
def CFG_LOT_EVT_ENDED : Field := ⟨0x300018, 0x0, 0, 1, .w1c, false, 0, false, 0, 1, 1⟩
/-! CFG_LOT_IE (R63) -/
def CFG_LOT_IE_IE : Field := ⟨0x30001C, 0x0, 0, 1, .rw, false, 0, false, 0, 1, 1⟩
/-! MAP_TRACTS (R100) -/
def MAP_TRACTS_USABLE : Field := ⟨0x10000004, 0x0, 0, 25, .ro, false, 0, false, 0, 33554431, 1⟩
/-! MAP_MAPPED (R100) -/
def MAP_MAPPED_MAPPED : Field := ⟨0x10000008, 0x0, 0, 25, .ro, false, 0, false, 0, 33554431, 1⟩
/-! MAP_LOG (R100) -/
def MAP_LOG_ACTIVE : Field := ⟨0x10000010, 0x0, 0, 13, .ro, false, 0, false, 0, 8191, 1⟩
def MAP_LOG_MERGING : Field := ⟨0x10000010, 0x0, 13, 13, .ro, false, 0, false, 0, 8191, 1⟩
/-! MAP_MERGES (R100) -/
def MAP_MERGES_COUNT : Field := ⟨0x10000014, 0x0, 0, 32, .rc, false, 0, false, 0, 4294967295, 1⟩
/-! MAP_STOCK[n] (R100) -/
def MAP_STOCK_LEFT : Field := ⟨0x10000100, 0x4, 0, 25, .ro, false, 0, false, 0, 33554431, 1⟩
/-! MAP_SPOIL_CNT (R100) -/
def MAP_SPOIL_CNT_COUNT : Field := ⟨0x10000200, 0x0, 0, 24, .ro, false, 0, false, 0, 16777215, 1⟩
/-! MAP_SPOIL_SEL (R100) -/
def MAP_SPOIL_SEL_ENTRY : Field := ⟨0x10000204, 0x0, 0, 24, .rw, false, 0, false, 0, 16777215, 1⟩
/-! MAP_SPOIL_DATA[n] (R100) -/
def MAP_SPOIL_DATA_BYTES : Field := ⟨0x10000208, 0x4, 0, 32, .ro, false, 0, false, 0, 4294967295, 1⟩
/-! MAP_JSEQ_LO (R100) -/
def MAP_JSEQ_LO_JSEQ : Field := ⟨0x10000308, 0x0, 0, 32, .ro, false, 0, false, 0, 4294967295, 1⟩
/-! MAP_JSEQ_HI (R100) -/
def MAP_JSEQ_HI_JSEQ : Field := ⟨0x1000030C, 0x0, 0, 32, .ro, false, 0, false, 0, 4294967295, 1⟩
/-! FEN_EVT (R133) -/
def FEN_EVT_BENCH_CHANGE : Field := ⟨0x11000010, 0x0, 0, 1, .w1c, false, 0, false, 0, 1, 1⟩
def FEN_EVT_REBUILD_DONE : Field := ⟨0x11000010, 0x0, 1, 1, .w1c, false, 0, false, 0, 1, 1⟩
def FEN_EVT_LOST_DECLARED : Field := ⟨0x11000010, 0x0, 2, 1, .w1c, false, 0, false, 0, 1, 1⟩
/-! FEN_IE (R133) -/
def FEN_IE_IE : Field := ⟨0x11000014, 0x0, 0, 3, .rw, false, 0, false, 0, 7, 1⟩
/-! FEN_JOBS_LEFT[n] (R134) -/
def FEN_JOBS_LEFT_JOBS : Field := ⟨0x11000200, 0x4, 0, 24, .ro, false, 0, false, 0, 16777215, 1⟩
/-! FEN_ETA[n] (R134) -/
def FEN_ETA_SECONDS : Field := ⟨0x11000280, 0x4, 0, 20, .ro, false, 0, false, 0, 1048575, 1⟩
/-! FEN_LOST_CNT (R134) -/
def FEN_LOST_CNT_COUNT : Field := ⟨0x11000300, 0x0, 0, 32, .rc, false, 0, false, 0, 4294967295, 1⟩
/-! FEN_RECON_CNT (R134) -/
def FEN_RECON_CNT_COUNT : Field := ⟨0x11000304, 0x0, 0, 32, .rc, false, 0, false, 0, 4294967295, 1⟩
/-! RET_DREDGE_FIRST (R160) -/
def RET_DREDGE_FIRST_LTN : Field := ⟨0x12000024, 0x0, 0, 32, .rw, false, 0, false, 0, 4294967295, 1⟩
/-! RET_DREDGE_COUNT (R160) -/
def RET_DREDGE_COUNT_COUNT : Field := ⟨0x12000028, 0x0, 0, 32, .rw, false, 0, false, 0, 4294967295, 1⟩
/-! RET_DREDGE_STAT (R162) -/
def RET_DREDGE_STAT_RUNNING : Field := ⟨0x12000014, 0x0, 0, 3, .ro, false, 0, false, 0, 7, 1⟩
def RET_DREDGE_STAT_QUEUED : Field := ⟨0x12000014, 0x0, 3, 5, .ro, false, 0, false, 0, 31, 1⟩
def RET_DREDGE_STAT_REFUSED : Field := ⟨0x12000014, 0x0, 8, 1, .w1c, false, 0, false, 0, 1, 1⟩
def RET_DREDGE_STAT_LAST_PASS : Field := ⟨0x12000014, 0x0, 9, 23, .ro, false, 0, false, 0, 8388607, 1⟩
/-! RET_BACKLOG (R162) -/
def RET_BACKLOG_DUE : Field := ⟨0x12000018, 0x0, 0, 24, .ro, false, 0, false, 0, 16777215, 1⟩
/-! RET_CATCHUP (R162) -/
def RET_CATCHUP_SHARE : Field := ⟨0x1200001C, 0x0, 0, 7, .rw, false, 25, false, 5, 50, 1⟩
/-! RET_DREDGE_SEL (R162) -/
def RET_DREDGE_SEL_PASS_ID : Field := ⟨0x12000020, 0x0, 0, 32, .rw, false, 0, false, 0, 4294967295, 1⟩
/-! RET_DREDGE_DATA[n] (R162) -/
def RET_DREDGE_DATA_BYTES : Field := ⟨0x12000100, 0x4, 0, 32, .ro, false, 0, false, 0, 4294967295, 1⟩
/-! LDPC_SOFT_Q (R221) -/
def LDPC_SOFT_Q_DEPTH : Field := ⟨0x1300000C, 0x0, 0, 13, .ro, false, 0, false, 0, 8191, 1⟩
def LDPC_SOFT_Q_PEAK : Field := ⟨0x1300000C, 0x0, 13, 13, .rc, false, 0, false, 0, 8191, 1⟩
/-! LDPC_CNT_HARD_OK (R221) -/
def LDPC_CNT_HARD_OK_COUNT : Field := ⟨0x13000100, 0x0, 0, 32, .rc, false, 0, false, 0, 4294967295, 1⟩
/-! LDPC_CNT_RETRY_OK (R221) -/
def LDPC_CNT_RETRY_OK_COUNT : Field := ⟨0x13000104, 0x0, 0, 32, .rc, false, 0, false, 0, 4294967295, 1⟩
/-! LDPC_CNT_SOFT_OK (R221) -/
def LDPC_CNT_SOFT_OK_COUNT : Field := ⟨0x13000108, 0x0, 0, 32, .rc, false, 0, false, 0, 4294967295, 1⟩
/-! LDPC_CNT_RECON (R221) -/
def LDPC_CNT_RECON_COUNT : Field := ⟨0x1300010C, 0x0, 0, 32, .rc, false, 0, false, 0, 4294967295, 1⟩
/-! LDPC_CNT_MISMATCH (R221) -/
def LDPC_CNT_MISMATCH_COUNT : Field := ⟨0x13000110, 0x0, 0, 32, .rc, false, 0, false, 0, 4294967295, 1⟩
/-! LDPC_CNT_ERASED (R221) -/
def LDPC_CNT_ERASED_COUNT : Field := ⟨0x13000114, 0x0, 0, 32, .rc, false, 0, false, 0, 4294967295, 1⟩
/-! LDPC_CNT_RACE_WON (R221) -/
def LDPC_CNT_RACE_WON_COUNT : Field := ⟨0x13000118, 0x0, 0, 32, .rc, false, 0, false, 0, 4294967295, 1⟩
/-! LDPC_CNT_UNRECOV (R221) -/
def LDPC_CNT_UNRECOV_COUNT : Field := ⟨0x1300011C, 0x0, 0, 32, .rc, false, 0, false, 0, 4294967295, 1⟩
/-! LDPC_CNT_KAT_FAIL (R221) -/
def LDPC_CNT_KAT_FAIL_COUNT : Field := ⟨0x13000120, 0x0, 0, 32, .rc, false, 0, false, 0, 4294967295, 1⟩
/-! LDPC_HIST[n] (R221) -/
def LDPC_HIST_COUNT : Field := ⟨0x13000140, 0x4, 0, 32, .rc, false, 0, false, 0, 4294967295, 1⟩
/-! LDPC_HARD_FENCED[n] (R221) -/
def LDPC_HARD_FENCED_FENCED : Field := ⟨0x13000200, 0x4, 0, 32, .ro, false, 0, false, 0, 4294967295, 1⟩
/-! LDPC_SOFT_FENCED (R221) -/
def LDPC_SOFT_FENCED_FENCED : Field := ⟨0x13000224, 0x0, 0, 32, .ro, false, 0, false, 0, 4294967295, 1⟩
/-! LDPC_ENC_FENCED[n] (R221) -/
def LDPC_ENC_FENCED_FENCED : Field := ⟨0x13000240, 0x4, 0, 32, .ro, false, 0, false, 0, 4294967295, 1⟩
/-! LDPC_RRT_A[n] (R221) -/
def LDPC_RRT_A_BYTES : Field := ⟨0x13010000, 0x4, 0, 32, .ro, true, 0, false, 0, 4294967295, 1⟩
/-! LDPC_RRT_B[n] (R221) -/
def LDPC_RRT_B_BYTES : Field := ⟨0x13018000, 0x4, 0, 32, .ro, true, 0, false, 0, 4294967295, 1⟩
/-! HEW_BAR_BASE[n] (R245) -/
def HEW_BAR_BASE_ADDR : Field := ⟨0x1400001C, 0x1000, 0, 32, .rw, false, 0, false, 0, 4294967295, 1⟩
/-! HEW_CNT_SUSP[n] (R245) -/
def HEW_CNT_SUSP_COUNT : Field := ⟨0x14000020, 0x1000, 0, 32, .rc, false, 0, false, 0, 4294967295, 1⟩
/-! HEW_CNT_PFAIL[n] (R245) -/
def HEW_CNT_PFAIL_COUNT : Field := ⟨0x14000024, 0x1000, 0, 32, .rc, false, 0, false, 0, 4294967295, 1⟩
/-! HEW_CNT_EFAIL[n] (R245) -/
def HEW_CNT_EFAIL_COUNT : Field := ⟨0x14000028, 0x1000, 0, 32, .rc, false, 0, false, 0, 4294967295, 1⟩
/-! HEW_CNT_TMO[n] (R245) -/
def HEW_CNT_TMO_COUNT : Field := ⟨0x1400002C, 0x1000, 0, 32, .rc, false, 0, false, 0, 4294967295, 1⟩
/-! UCS_WORD_A[n] (R262) -/
def UCS_WORD_A_DATA : Field := ⟨0x16000000, 0x0, 0, 32, .ro, true, 0, false, 0, 4294967295, 1⟩
/-! UCS_CHECK_A[n] (R262) -/
def UCS_CHECK_A_CHECK : Field := ⟨0x16000004, 0x0, 0, 7, .ro, true, 0, false, 0, 127, 1⟩
/-! UCS_WORD_B[n] (R262) -/
def UCS_WORD_B_DATA : Field := ⟨0x16010000, 0x0, 0, 32, .ro, true, 0, false, 0, 4294967295, 1⟩
/-! UCS_CHECK_B[n] (R262) -/
def UCS_CHECK_B_CHECK : Field := ⟨0x16010004, 0x0, 0, 7, .ro, true, 0, false, 0, 127, 1⟩
/-! UCS_ECC_CORR (R265) -/
def UCS_ECC_CORR_COUNT : Field := ⟨0x16200048, 0x0, 0, 32, .rc, false, 0, false, 0, 4294967295, 1⟩
/-! UCS_ECC_UNC (R265) -/
def UCS_ECC_UNC_COUNT : Field := ⟨0x1620004C, 0x0, 0, 32, .rc, false, 0, false, 0, 4294967295, 1⟩
/-! SEAM_SESSION[n] (R297) -/
def SEAM_SESSION_SESSION : Field := ⟨0x18000008, 0x2000, 0, 32, .ro, false, 0, false, 0, 4294967295, 1⟩
/-! SEAM_CREDIT[n] (R297) -/
def SEAM_CREDIT_CMD : Field := ⟨0x1800000C, 0x2000, 0, 8, .ro, false, 0, false, 0, 255, 1⟩
def SEAM_CREDIT_CTL : Field := ⟨0x1800000C, 0x2000, 8, 4, .ro, false, 0, false, 0, 15, 1⟩
def SEAM_CREDIT_DATA : Field := ⟨0x1800000C, 0x2000, 12, 12, .ro, false, 0, false, 0, 4095, 1⟩
/-! SEAM_TEMP[n] (R297) -/
def SEAM_TEMP_HOT : Field := ⟨0x18000010, 0x2000, 0, 8, .ro, false, 0, false, 0, 255, 1⟩
def SEAM_TEMP_AGE : Field := ⟨0x18000010, 0x2000, 8, 8, .ro, false, 0, false, 0, 255, 1⟩
def SEAM_TEMP_OVER : Field := ⟨0x18000010, 0x2000, 16, 1, .ro, false, 0, false, 0, 1, 1⟩
/-! SEAM_CNT_FEC_CORR[n] (R297) -/
def SEAM_CNT_FEC_CORR_COUNT : Field := ⟨0x18000020, 0x2000, 0, 32, .rc, false, 0, false, 0, 4294967295, 1⟩
/-! SEAM_CNT_FEC_UNC[n] (R297) -/
def SEAM_CNT_FEC_UNC_COUNT : Field := ⟨0x18000024, 0x2000, 0, 32, .rc, false, 0, false, 0, 4294967295, 1⟩
/-! SEAM_CNT_CRC[n] (R297) -/
def SEAM_CNT_CRC_COUNT : Field := ⟨0x18000028, 0x2000, 0, 32, .rc, false, 0, false, 0, 4294967295, 1⟩
/-! SEAM_CNT_REPLAY[n] (R297) -/
def SEAM_CNT_REPLAY_COUNT : Field := ⟨0x1800002C, 0x2000, 0, 32, .rc, false, 0, false, 0, 4294967295, 1⟩
/-! SEAM_CNT_RETRAIN[n] (R297) -/
def SEAM_CNT_RETRAIN_COUNT : Field := ⟨0x18000030, 0x2000, 0, 32, .rc, false, 0, false, 0, 4294967295, 1⟩
/-! SEAM_CNT_DROP[n] (R297) -/
def SEAM_CNT_DROP_COUNT : Field := ⟨0x18000034, 0x2000, 0, 32, .rc, false, 0, false, 0, 4294967295, 1⟩
/-! SEAM_EVT (R299) -/
def SEAM_EVT_PRESENT : Field := ⟨0x18400044, 0x0, 0, 1, .w1c, false, 0, false, 0, 1, 1⟩
def SEAM_EVT_FALLBACK : Field := ⟨0x18400044, 0x0, 1, 1, .w1c, false, 0, false, 0, 1, 1⟩
def SEAM_EVT_GRP_UNLOCK : Field := ⟨0x18400044, 0x0, 2, 1, .w1c, false, 0, false, 0, 1, 1⟩
def SEAM_EVT_OVERTEMP : Field := ⟨0x18400044, 0x0, 3, 1, .w1c, false, 0, false, 0, 1, 1⟩
/-! SEAM_IE (R299) -/
def SEAM_IE_IE : Field := ⟨0x18400048, 0x0, 0, 4, .rw, false, 0, false, 0, 15, 1⟩
/-! MERE_IE (R325) -/
def MERE_IE_IE : Field := ⟨0x5000024, 0x0, 0, 26, .rw, false, 0, false, 0, 67108863, 1⟩
/-! MERE_DIRTY (R328) -/
def MERE_DIRTY_MIB : Field := ⟨0x5000028, 0x0, 0, 16, .ro, false, 0, false, 0, 65535, 1⟩
def MERE_DIRTY_LIMIT : Field := ⟨0x5000028, 0x0, 16, 16, .ro, false, 0, false, 0, 65535, 1⟩
/-! MERE_DIRTY_STK[n] (R328) -/
def MERE_DIRTY_STK_MIB : Field := ⟨0x5000040, 0x4, 0, 16, .ro, false, 0, false, 0, 65535, 1⟩
/-! MERE_VALID[n] (R328) -/
def MERE_VALID_REGIONS : Field := ⟨0x5000280, 0x4, 0, 23, .ro, false, 0, false, 0, 8388607, 1⟩
/-! MERE_FENCE (R328) -/
def MERE_FENCE_FENCE : Field := ⟨0x5000300, 0x0, 0, 8, .wo, true, 0, false, 0, 255, 1⟩
/-! MERE_CNT_CORR[n] (R328) -/
def MERE_CNT_CORR_COUNT : Field := ⟨0x5000100, 0x4, 0, 32, .rc, false, 0, false, 0, 4294967295, 1⟩
/-! MERE_CNT_UNC[n] (R328) -/
def MERE_CNT_UNC_COUNT : Field := ⟨0x5000120, 0x4, 0, 32, .rc, false, 0, false, 0, 4294967295, 1⟩
/-! MERE_CNT_POISON[n] (R328) -/
def MERE_CNT_POISON_COUNT : Field := ⟨0x5000140, 0x4, 0, 32, .rc, false, 0, false, 0, 4294967295, 1⟩
/-! MERE_CNT_REPAIR[n] (R328) -/
def MERE_CNT_REPAIR_COUNT : Field := ⟨0x5000160, 0x4, 0, 32, .rc, false, 0, false, 0, 4294967295, 1⟩
/-! MERE_CNT_ADDR[n] (R328) -/
def MERE_CNT_ADDR_COUNT : Field := ⟨0x5000180, 0x4, 0, 32, .rc, false, 0, false, 0, 4294967295, 1⟩
/-! NVQ_EVT (R358) -/
def NVQ_EVT_SLOTS_FULL : Field := ⟨0x2000010, 0x0, 0, 1, .w1c, false, 0, false, 0, 1, 1⟩
def NVQ_EVT_BAD_DB : Field := ⟨0x2000010, 0x0, 1, 1, .w1c, false, 0, false, 0, 1, 1⟩
def NVQ_EVT_CID_CONFLICT : Field := ⟨0x2000010, 0x0, 2, 1, .w1c, false, 0, false, 0, 1, 1⟩
def NVQ_EVT_CQ_STALL : Field := ⟨0x2000010, 0x0, 3, 1, .w1c, false, 0, false, 0, 1, 1⟩
/-! NVQ_IE (R358) -/
def NVQ_IE_IE : Field := ⟨0x2000014, 0x0, 0, 4, .rw, false, 0, false, 0, 15, 1⟩
/-! NVQ_CNT_FETCHED (R359) -/
def NVQ_CNT_FETCHED_COUNT : Field := ⟨0x2000100, 0x0, 0, 32, .rc, false, 0, false, 0, 4294967295, 1⟩
/-! NVQ_CNT_DONE (R359) -/
def NVQ_CNT_DONE_COUNT : Field := ⟨0x2000104, 0x0, 0, 32, .rc, false, 0, false, 0, 4294967295, 1⟩
/-! NVQ_PEAK (R359) -/
def NVQ_PEAK_COUNT : Field := ⟨0x2000108, 0x0, 0, 32, .rc, false, 0, false, 0, 4294967295, 1⟩
/-! NVQ_LCR_STAT (R391) -/
def NVQ_LCR_STAT_RECORDS : Field := ⟨0x2000204, 0x0, 0, 11, .ro, false, 0, false, 0, 2047, 1⟩
def NVQ_LCR_STAT_OVERFLOW : Field := ⟨0x2000204, 0x0, 11, 1, .w1c, false, 0, false, 0, 1, 1⟩
/-! NVQ_LCR_ENT (R391) -/
def NVQ_LCR_ENT_ENTRIES : Field := ⟨0x2000208, 0x0, 0, 17, .ro, false, 0, false, 0, 131071, 1⟩
/-! NVQ_DEFER_PEND (R391) -/
def NVQ_DEFER_PEND_PAIRS : Field := ⟨0x200020C, 0x0, 0, 23, .ro, false, 0, false, 0, 8388607, 1⟩
/-! NVQ_CNT_DEFER (R391) -/
def NVQ_CNT_DEFER_COUNT : Field := ⟨0x2000210, 0x0, 0, 32, .rc, false, 0, false, 0, 4294967295, 1⟩
/-! NVQ_ACT_STAT (R391) -/
def NVQ_ACT_STAT_DRAIN_MS : Field := ⟨0x2000214, 0x0, 0, 11, .ro, false, 0, false, 0, 2047, 1⟩
def NVQ_ACT_STAT_PAUSE_US : Field := ⟨0x2000214, 0x0, 11, 10, .ro, false, 0, false, 0, 1023, 1⟩
def NVQ_ACT_STAT_ABANDONED : Field := ⟨0x2000214, 0x0, 21, 1, .ro, false, 0, false, 0, 1, 1⟩
/-! SLU_IE (R415) -/
def SLU_IE_IE : Field := ⟨0x4000014, 0x0, 0, 4, .rw, false, 0, false, 0, 15, 1⟩
/-! SLU_CNT_FORCED (R416) -/
def SLU_CNT_FORCED_COUNT : Field := ⟨0x4000200, 0x0, 0, 32, .rc, false, 0, false, 0, 4294967295, 1⟩
/-! HIF_IE (R434) -/
def HIF_IE_IE : Field := ⟨0x1000044, 0x0, 0, 18, .rw, false, 0, false, 0, 262143, 1⟩
/-! HIF_CNT_CORR[n] (R436) -/
def HIF_CNT_CORR_COUNT : Field := ⟨0x1000080, 0x4, 0, 32, .rc, false, 0, false, 0, 4294967295, 1⟩
/-! HIF_CNT_UNCOR[n] (R436) -/
def HIF_CNT_UNCOR_COUNT : Field := ⟨0x10000A0, 0x4, 0, 32, .rc, false, 0, false, 0, 4294967295, 1⟩
/-! HIF_CNT_RETRAIN[n] (R436) -/
def HIF_CNT_RETRAIN_COUNT : Field := ⟨0x10000C0, 0x4, 0, 32, .rc, false, 0, false, 0, 4294967295, 1⟩
/-! FAB_IE (R459) -/
def FAB_IE_IE : Field := ⟨0x3000084, 0x0, 0, 6, .rw, false, 0, false, 0, 63, 1⟩
/-! FAB_RXBUF (R463) -/
def FAB_RXBUF_MIB : Field := ⟨0x3000300, 0x0, 0, 14, .ro, false, 0, false, 0, 16383, 1⟩
/-! FAB_QPS (R463) -/
def FAB_QPS_QPS : Field := ⟨0x3000304, 0x0, 0, 14, .ro, false, 0, false, 0, 16383, 1⟩
/-! FAB_CNT_FCS[n] (R463) -/
def FAB_CNT_FCS_COUNT : Field := ⟨0x3000400, 0x4, 0, 32, .rc, false, 0, false, 0, 4294967295, 1⟩
/-! FAB_CNT_FEC_UNC[n] (R463) -/
def FAB_CNT_FEC_UNC_COUNT : Field := ⟨0x3000480, 0x4, 0, 32, .rc, false, 0, false, 0, 4294967295, 1⟩
/-! FAB_CNT_CNP[n] (R463) -/
def FAB_CNT_CNP_COUNT : Field := ⟨0x3000500, 0x4, 0, 32, .rc, false, 0, false, 0, 4294967295, 1⟩
/-! FAB_CNT_RETX[n] (R463) -/
def FAB_CNT_RETX_COUNT : Field := ⟨0x3000580, 0x4, 0, 32, .rc, false, 0, false, 0, 4294967295, 1⟩
/-! FAB_CNT_DROP[n] (R463) -/
def FAB_CNT_DROP_COUNT : Field := ⟨0x3000600, 0x4, 0, 32, .rc, false, 0, false, 0, 4294967295, 1⟩
/-! CWY_EVT (R484) -/
def CWY_EVT_PEER_DOWN : Field := ⟨0x3800010, 0x0, 0, 1, .w1c, false, 0, false, 0, 1, 1⟩
def CWY_EVT_AUTH_FAIL : Field := ⟨0x3800010, 0x0, 1, 1, .w1c, false, 0, false, 0, 1, 1⟩
def CWY_EVT_MIG_DONE : Field := ⟨0x3800010, 0x0, 2, 1, .w1c, false, 0, false, 0, 1, 1⟩
def CWY_EVT_CHAIN_DONE : Field := ⟨0x3800010, 0x0, 3, 1, .w1c, false, 0, false, 0, 1, 1⟩
/-! CWY_IE (R484) -/
def CWY_IE_IE : Field := ⟨0x3800014, 0x0, 0, 4, .rw, false, 0, false, 0, 15, 1⟩
/-! CWY_DISC_CNT (R486) -/
def CWY_DISC_CNT_PEERS : Field := ⟨0x3800020, 0x0, 0, 8, .ro, false, 0, false, 0, 255, 1⟩
/-! CWY_CHAIN_STAT (R486) -/
def CWY_CHAIN_STAT_REPORTS : Field := ⟨0x3800024, 0x0, 0, 8, .ro, false, 0, false, 0, 255, 1⟩
def CWY_CHAIN_STAT_REFUSALS : Field := ⟨0x3800024, 0x0, 8, 8, .ro, false, 0, false, 0, 255, 1⟩
/-! CWY_MIG_SEL (R486) -/
def CWY_MIG_SEL_MIG : Field := ⟨0x3800200, 0x0, 0, 3, .rw, false, 0, false, 0, 7, 1⟩
/-! CWY_MIG_TRACTS (R486) -/
def CWY_MIG_TRACTS_TRACTS : Field := ⟨0x3800204, 0x0, 0, 25, .ro, false, 0, false, 0, 33554431, 1⟩
def CWY_MIG_TRACTS_PASS : Field := ⟨0x3800204, 0x0, 25, 7, .ro, false, 0, false, 0, 127, 1⟩
/-! CWY_MIG_LOST (R486) -/
def CWY_MIG_LOST_UNITS : Field := ⟨0x3800208, 0x0, 0, 32, .ro, false, 0, false, 0, 4294967295, 1⟩
/-! CWY_CNT_MAC (R486) -/
def CWY_CNT_MAC_COUNT : Field := ⟨0x3800300, 0x0, 0, 32, .rc, false, 0, false, 0, 4294967295, 1⟩
/-! CWY_CNT_RETX (R486) -/
def CWY_CNT_RETX_COUNT : Field := ⟨0x3800304, 0x0, 0, 32, .rc, false, 0, false, 0, 4294967295, 1⟩
/-! CWY_CNT_NAK (R486) -/
def CWY_CNT_NAK_COUNT : Field := ⟨0x3800308, 0x0, 0, 32, .rc, false, 0, false, 0, 4294967295, 1⟩
/-! CIP_EVT (R503) -/
def CIP_EVT_DONE : Field := ⟨0x6000010, 0x0, 0, 1, .w1c, false, 0, false, 0, 1, 1⟩
def CIP_EVT_ERROR : Field := ⟨0x6000010, 0x0, 1, 1, .w1c, false, 0, false, 0, 1, 1⟩
def CIP_EVT_KAT_FAIL : Field := ⟨0x6000010, 0x0, 2, 1, .w1c, false, 0, false, 0, 1, 1⟩
def CIP_EVT_DRBG_FAIL : Field := ⟨0x6000010, 0x0, 3, 1, .w1c, false, 0, false, 0, 1, 1⟩
/-! CIP_IE (R503) -/
def CIP_IE_IE : Field := ⟨0x6000014, 0x0, 0, 4, .rw, false, 0, false, 0, 15, 1⟩
/-! CIP_CNT_SEAL (R506) -/
def CIP_CNT_SEAL_COUNT : Field := ⟨0x6000200, 0x0, 0, 32, .rc, false, 0, false, 0, 4294967295, 1⟩
/-! CIP_CNT_OPEN (R506) -/
def CIP_CNT_OPEN_COUNT : Field := ⟨0x6000204, 0x0, 0, 32, .rc, false, 0, false, 0, 4294967295, 1⟩
/-! CIP_CNT_VERIFY (R506) -/
def CIP_CNT_VERIFY_COUNT : Field := ⟨0x6000208, 0x0, 0, 32, .rc, false, 0, false, 0, 4294967295, 1⟩
/-! CIP_CNT_TAGFAIL (R506) -/
def CIP_CNT_TAGFAIL_COUNT : Field := ⟨0x600020C, 0x0, 0, 32, .rc, false, 0, false, 0, 4294967295, 1⟩
/-! CIP_CNT_ERR (R506) -/
def CIP_CNT_ERR_COUNT : Field := ⟨0x6000210, 0x0, 0, 32, .rc, false, 0, false, 0, 4294967295, 1⟩
/-! CIP_PIPE_FENCED[n] (R506) -/
def CIP_PIPE_FENCED_FENCED : Field := ⟨0x6000300, 0x4, 0, 32, .ro, false, 0, false, 0, 4294967295, 1⟩
/-! CIP_LANE_FENCED[n] (R506) -/
def CIP_LANE_FENCED_FENCED : Field := ⟨0x6000320, 0x4, 0, 32, .ro, false, 0, false, 0, 4294967295, 1⟩
/-! PEAT_SEQ_LO (R545) -/
def PEAT_SEQ_LO_SEQ : Field := ⟨0x9000008, 0x0, 0, 32, .ro, false, 0, false, 0, 4294967295, 1⟩
/-! PEAT_SEQ_HI (R545) -/
def PEAT_SEQ_HI_SEQ : Field := ⟨0x900000C, 0x0, 0, 32, .ro, false, 0, false, 0, 4294967295, 1⟩
/-! PEAT_ARCH_LO (R545) -/
def PEAT_ARCH_LO_SEQ : Field := ⟨0x9000010, 0x0, 0, 32, .ro, false, 0, false, 0, 4294967295, 1⟩
/-! PEAT_ARCH_HI (R545) -/
def PEAT_ARCH_HI_SEQ : Field := ⟨0x9000014, 0x0, 0, 32, .ro, false, 0, false, 0, 4294967295, 1⟩
/-! PEAT_EVT (R545) -/
def PEAT_EVT_DROP : Field := ⟨0x9000020, 0x0, 0, 1, .w1c, false, 0, false, 0, 1, 1⟩
def PEAT_EVT_ARCH_FAIL : Field := ⟨0x9000020, 0x0, 1, 1, .w1c, false, 0, false, 0, 1, 1⟩
/-! PEAT_IE (R545) -/
def PEAT_IE_IE : Field := ⟨0x9000024, 0x0, 0, 2, .rw, false, 0, false, 0, 3, 1⟩
/-! PEAT_CNT_DROP (R545) -/
def PEAT_CNT_DROP_COUNT : Field := ⟨0x9000030, 0x0, 0, 32, .rc, false, 0, false, 0, 4294967295, 1⟩
/-! PEAT_RING[n] (R545) -/
def PEAT_RING_BYTES : Field := ⟨0x9400000, 0x4, 0, 32, .ro, false, 0, true, 0, 4294967295, 1⟩
/-! PWR_TFLUSH (R568) -/
def PWR_TFLUSH_US : Field := ⟨0x400008, 0x0, 0, 16, .ro, false, 0, false, 0, 65535, 1⟩
/-! PWR_FL_INFO (R568) -/
def PWR_FL_INFO_OCCURRED : Field := ⟨0x400030, 0x0, 0, 1, .ro, false, 0, true, 0, 1, 1⟩
def PWR_FL_INFO_COMPLETE : Field := ⟨0x400030, 0x0, 1, 1, .ro, false, 0, true, 0, 1, 1⟩
/-! PWR_FL_UNITS (R568) -/
def PWR_FL_UNITS_UNITS : Field := ⟨0x400034, 0x0, 0, 32, .ro, false, 0, true, 0, 4294967295, 1⟩
/-! PWR_FL_LOST (R568) -/
def PWR_FL_LOST_UNITS : Field := ⟨0x400038, 0x0, 0, 32, .ro, false, 0, true, 0, 4294967295, 1⟩
/-! PWR_FL_TIME (R568) -/
def PWR_FL_TIME_US : Field := ⟨0x40003C, 0x0, 0, 32, .ro, false, 0, true, 0, 4294967295, 1⟩
/-! PWR_CNT_GLITCH (R568) -/
def PWR_CNT_GLITCH_COUNT : Field := ⟨0x400040, 0x0, 0, 32, .rc, false, 0, false, 0, 4294967295, 1⟩
/-! UPD_SERIAL[n] (R590) -/
def UPD_SERIAL_SERIAL : Field := ⟨0xA000010, 0x4, 0, 32, .ro, false, 0, false, 0, 4294967295, 1⟩
/-! UPD_FLOOR (R590) -/
def UPD_FLOOR_FLOOR : Field := ⟨0xA000018, 0x0, 0, 32, .ro, false, 0, false, 0, 4294967295, 1⟩
/-! UPD_EVT (R590) -/
def UPD_EVT_APPLIED : Field := ⟨0xA000020, 0x0, 0, 1, .w1c, false, 0, false, 0, 1, 1⟩
def UPD_EVT_REFUSED : Field := ⟨0xA000020, 0x0, 1, 1, .w1c, false, 0, false, 0, 1, 1⟩
def UPD_EVT_ACTIVATED : Field := ⟨0xA000020, 0x0, 2, 1, .w1c, false, 0, false, 0, 1, 1⟩
def UPD_EVT_FALLBACK : Field := ⟨0xA000020, 0x0, 3, 1, .w1c, false, 0, false, 0, 1, 1⟩
/-! UPD_IE (R590) -/
def UPD_IE_IE : Field := ⟨0xA000024, 0x0, 0, 4, .rw, false, 0, false, 0, 15, 1⟩
/-! CLK_EVT (R627) -/
def CLK_EVT_REF_LOSS : Field := ⟨0x100008, 0x0, 0, 1, .w1c, false, 0, false, 0, 1, 1⟩
def CLK_EVT_PLL_UNLOCK : Field := ⟨0x100008, 0x0, 1, 1, .w1c, false, 0, false, 0, 1, 1⟩
def CLK_EVT_RTC_STOP : Field := ⟨0x100008, 0x0, 2, 1, .w1c, false, 0, false, 0, 1, 1⟩
/-! CLK_IE (R627) -/
def CLK_IE_IE : Field := ⟨0x10000C, 0x0, 0, 3, .rw, false, 0, false, 0, 7, 1⟩
/-! CLK_FREQ[n] (R627) -/
def CLK_FREQ_KHZ : Field := ⟨0x100100, 0x4, 0, 22, .ro, false, 0, false, 0, 4194303, 1⟩
/-! TMON_EVT (R661) -/
def TMON_EVT_THROTTLE : Field := ⟨0x600008, 0x0, 0, 1, .w1c, false, 0, false, 0, 1, 1⟩
def TMON_EVT_THERM : Field := ⟨0x600008, 0x0, 1, 1, .w1c, false, 0, false, 0, 1, 1⟩
def TMON_EVT_HOLD : Field := ⟨0x600008, 0x0, 2, 1, .w1c, false, 0, false, 0, 1, 1⟩
/-! TMON_IE (R661) -/
def TMON_IE_IE : Field := ⟨0x60000C, 0x0, 0, 3, .rw, false, 0, false, 0, 7, 1⟩
/-! TMON_SENSOR[n] (R661) -/
def TMON_SENSOR_TEMP : Field := ⟨0x600100, 0x4, 0, 8, .ro, false, 0, false, 0, 255, 1⟩
def TMON_SENSOR_VALID : Field := ⟨0x600100, 0x4, 8, 1, .ro, false, 0, false, 0, 1, 1⟩

end F

/-- The registers of block GLB. -/
def regsGlb : List Reg := [
  ⟨0x10, [], [F.GLB_FAULT_SUM_MEMBER_OUT, F.GLB_FAULT_SUM_PLLG_OUT, F.GLB_FAULT_SUM_STACK_OUT, F.GLB_FAULT_SUM_PAIR_OUT, F.GLB_FAULT_SUM_DECODER_OUT, F.GLB_FAULT_SUM_CIPHER_OUT, F.GLB_FAULT_SUM_PORT_OUT, F.GLB_FAULT_SUM_RESTORING, F.GLB_FAULT_SUM_TOLERANCE_SHORT, F.GLB_FAULT_SUM_OUTSIDE_SET, F.GLB_FAULT_SUM_BENCH]⟩,
  ⟨0x20, [], [F.GLB_INVENTORY_MEMBERS_UP, F.GLB_INVENTORY_STACKS_UP, F.GLB_INVENTORY_PAIRS_UP, F.GLB_INVENTORY_PAIRS_SPARE, F.GLB_INVENTORY_PCIE_UP]⟩,
  ⟨0x4C, [], [F.GLB_EXPERT_STAT_OPEN, F.GLB_EXPERT_STAT_WORDS, F.GLB_EXPERT_STAT_FAILS, F.GLB_EXPERT_STAT_LOCKOUT, F.GLB_EXPERT_STAT_CLOSE, F.GLB_EXPERT_STAT_IDLE_LEFT]⟩,
  ⟨0x30, [], [F.GLB_STRAP_SMB_ADDR, F.GLB_STRAP_TEST_EN]⟩,
  ⟨0x14, [], [F.GLB_FAULT_EVT_EVT]⟩,
  ⟨0x18, [], [F.GLB_FAULT_IE_IE]⟩,
  ⟨0x24, [], [F.GLB_POOL_HARD_UP, F.GLB_POOL_SOFT_UP, F.GLB_POOL_PIPES_UP, F.GLB_POOL_GHASH_UP]⟩,
  ⟨0x40, [], [F.GLB_EXPERT_NONCE_LO_NONCE]⟩,
  ⟨0x44, [], [F.GLB_EXPERT_NONCE_HI_NONCE]⟩,
  ⟨0x48, [], [F.GLB_EXPERT_KEY_WORD]⟩]

/-- The registers of block CFG. -/
def regsCfg : List Reg := [
  ⟨0x300000, [], [F.CFG_STATUS_SLOT, F.CFG_STATUS_LOCKED, F.CFG_STATUS_LOT_BUSY, F.CFG_STATUS_LAST_ERR]⟩,
  ⟨0x300010, [], [F.CFG_LOT_CTL_LOT_TYPE, F.CFG_LOT_CTL_START]⟩,
  ⟨0x300014, [], [F.CFG_LOT_STAT_LOT_TYPE, F.CFG_LOT_STAT_STATE, F.CFG_LOT_STAT_ERR]⟩,
  ⟨0x300004, [], [F.CFG_SERIAL_SERIAL]⟩,
  ⟨0x300008, [], [F.CFG_FLOOR_FLOOR]⟩,
  ⟨0x300018, [], [F.CFG_LOT_EVT_ENDED]⟩,
  ⟨0x30001C, [], [F.CFG_LOT_IE_IE]⟩]

/-- The registers of block MAP. -/
def regsMap : List Reg := [
  ⟨0x10000000, [], [F.MAP_STATUS_READY, F.MAP_STATUS_CKPT_BUSY, F.MAP_STATUS_SUMP_PACING, F.MAP_STATUS_LOG_PACING, F.MAP_STATUS_FILL_PCT]⟩,
  ⟨0x1000000C, [], [F.MAP_SUMP_TARGET, F.MAP_SUMP_HELD, F.MAP_SUMP_FREE_PCT]⟩,
  ⟨0x10000300, [], [F.MAP_CKPT_CTL_NOW, F.MAP_CKPT_CTL_INTERVAL]⟩,
  ⟨0x10000004, [], [F.MAP_TRACTS_USABLE]⟩,
  ⟨0x10000008, [], [F.MAP_MAPPED_MAPPED]⟩,
  ⟨0x10000010, [], [F.MAP_LOG_ACTIVE, F.MAP_LOG_MERGING]⟩,
  ⟨0x10000014, [], [F.MAP_MERGES_COUNT]⟩,
  ⟨0x10000100, [(0x4, 16)], [F.MAP_STOCK_LEFT]⟩,
  ⟨0x10000200, [], [F.MAP_SPOIL_CNT_COUNT]⟩,
  ⟨0x10000204, [], [F.MAP_SPOIL_SEL_ENTRY]⟩,
  ⟨0x10000208, [(0x4, 4)], [F.MAP_SPOIL_DATA_BYTES]⟩,
  ⟨0x10000308, [], [F.MAP_JSEQ_LO_JSEQ]⟩,
  ⟨0x1000030C, [], [F.MAP_JSEQ_HI_JSEQ]⟩]

/-- The registers of block FEN. -/
def regsFen : List Reg := [
  ⟨0x11000000, [], [F.FEN_REBUILD_CTL_SHARE, F.FEN_REBUILD_CTL_BOOST, F.FEN_REBUILD_CTL_HOLD]⟩,
  ⟨0x11000004, [], [F.FEN_BENCH_THR_LOW, F.FEN_BENCH_THR_OUT]⟩,
  ⟨0x11000100, [(0x4, 16)], [F.FEN_STATE_BENCH, F.FEN_STATE_TOLERANCE, F.FEN_STATE_IN_SERVICE, F.FEN_STATE_REBUILDING, F.FEN_STATE_EVACUATING, F.FEN_STATE_DREDGE_HELD, F.FEN_STATE_BOOSTED, F.FEN_STATE_EXCEEDED]⟩,
  ⟨0x11000010, [], [F.FEN_EVT_BENCH_CHANGE, F.FEN_EVT_REBUILD_DONE, F.FEN_EVT_LOST_DECLARED]⟩,
  ⟨0x11000014, [], [F.FEN_IE_IE]⟩,
  ⟨0x11000200, [(0x4, 16)], [F.FEN_JOBS_LEFT_JOBS]⟩,
  ⟨0x11000280, [(0x4, 16)], [F.FEN_ETA_SECONDS]⟩,
  ⟨0x11000300, [], [F.FEN_LOST_CNT_COUNT]⟩,
  ⟨0x11000304, [], [F.FEN_RECON_CNT_COUNT]⟩]

/-- The registers of block RET. -/
def regsRet : List Reg := [
  ⟨0x12000000, [], [F.RET_CTL_THRESH, F.RET_CTL_LOOKAHEAD, F.RET_CTL_MAX_AGE, F.RET_CTL_EARLY_EN]⟩,
  ⟨0x12000004, [], [F.RET_MODEL_BETA, F.RET_MODEL_EA]⟩,
  ⟨0x12000008, [], [F.RET_OFF_CTL_T_OFF, F.RET_OFF_CTL_BOUND_PCT, F.RET_OFF_CTL_BOUND_MIN]⟩,
  ⟨0x12000010, [], [F.RET_DREDGE_CTL_RATE, F.RET_DREDGE_CTL_START, F.RET_DREDGE_CTL_ABORT]⟩,
  ⟨0x1200000C, [], [F.RET_STATUS_READY, F.RET_STATUS_WITNESS_USED, F.RET_STATUS_CATCHUP]⟩,
  ⟨0x12000024, [], [F.RET_DREDGE_FIRST_LTN]⟩,
  ⟨0x12000028, [], [F.RET_DREDGE_COUNT_COUNT]⟩,
  ⟨0x12000014, [], [F.RET_DREDGE_STAT_RUNNING, F.RET_DREDGE_STAT_QUEUED, F.RET_DREDGE_STAT_REFUSED, F.RET_DREDGE_STAT_LAST_PASS]⟩,
  ⟨0x12000018, [], [F.RET_BACKLOG_DUE]⟩,
  ⟨0x1200001C, [], [F.RET_CATCHUP_SHARE]⟩,
  ⟨0x12000020, [], [F.RET_DREDGE_SEL_PASS_ID]⟩,
  ⟨0x12000100, [(0x4, 40)], [F.RET_DREDGE_DATA_BYTES]⟩]

/-- The registers of block LIFE. -/
def regsLife : List Reg := [
  ⟨0x700000, [], [F.LIFE_NOW_LO_SEC_LO]⟩,
  ⟨0x700004, [], [F.LIFE_NOW_HI_SEC_HI]⟩,
  ⟨0x700008, [], [F.LIFE_UTC_LO_OFS_LO]⟩,
  ⟨0x70000C, [], [F.LIFE_UTC_HI_OFS_HI]⟩,
  ⟨0x700010, [], [F.LIFE_STAT_VALID, F.LIFE_STAT_VBAT_LOST, F.LIFE_STAT_LOW_BAT]⟩,
  ⟨0x700014, [], [F.LIFE_LAST_OFF_SECONDS]⟩]

/-- The registers of block LDPC. -/
def regsLdpc : List Reg := [
  ⟨0x13000000, [], [F.LDPC_LADDER_CTL_RETRY_MAX, F.LDPC_LADDER_CTL_SOFT_LEVELS, F.LDPC_LADDER_CTL_RACE, F.LDPC_LADDER_CTL_HARD_ITER, F.LDPC_LADDER_CTL_SOFT_ITER]⟩,
  ⟨0x13000004, [], [F.LDPC_SOFT_CTL_HOST_RES, F.LDPC_SOFT_CTL_SOFT_DELTA]⟩,
  ⟨0x13000008, [], [F.LDPC_RRT_CTL_BANK, F.LDPC_RRT_CTL_MIXED, F.LDPC_RRT_CTL_TABLES, F.LDPC_RRT_CTL_SET_VER]⟩,
  ⟨0x1300000C, [], [F.LDPC_SOFT_Q_DEPTH, F.LDPC_SOFT_Q_PEAK]⟩,
  ⟨0x13000100, [], [F.LDPC_CNT_HARD_OK_COUNT]⟩,
  ⟨0x13000104, [], [F.LDPC_CNT_RETRY_OK_COUNT]⟩,
  ⟨0x13000108, [], [F.LDPC_CNT_SOFT_OK_COUNT]⟩,
  ⟨0x1300010C, [], [F.LDPC_CNT_RECON_COUNT]⟩,
  ⟨0x13000110, [], [F.LDPC_CNT_MISMATCH_COUNT]⟩,
  ⟨0x13000114, [], [F.LDPC_CNT_ERASED_COUNT]⟩,
  ⟨0x13000118, [], [F.LDPC_CNT_RACE_WON_COUNT]⟩,
  ⟨0x1300011C, [], [F.LDPC_CNT_UNRECOV_COUNT]⟩,
  ⟨0x13000120, [], [F.LDPC_CNT_KAT_FAIL_COUNT]⟩,
  ⟨0x13000140, [(0x4, 8)], [F.LDPC_HIST_COUNT]⟩,
  ⟨0x13000200, [(0x4, 9)], [F.LDPC_HARD_FENCED_FENCED]⟩,
  ⟨0x13000224, [], [F.LDPC_SOFT_FENCED_FENCED]⟩,
  ⟨0x13000240, [(0x4, 16)], [F.LDPC_ENC_FENCED_FENCED]⟩,
  ⟨0x13010000, [(0x4, 8192)], [F.LDPC_RRT_A_BYTES]⟩,
  ⟨0x13018000, [(0x4, 8192)], [F.LDPC_RRT_B_BYTES]⟩]

/-- The registers of block HEW. -/
def regsHew : List Reg := [
  ⟨0x14000000, [(0x1000, 512)], [F.HEW_RING_BASE_ADDR]⟩,
  ⟨0x14000004, [(0x1000, 512)], [F.HEW_RING_CFG_SIZE_LOG2, F.HEW_RING_CFG_ENABLE]⟩,
  ⟨0x14000008, [(0x1000, 512)], [F.HEW_RING_TAIL_TAIL]⟩,
  ⟨0x1400000C, [(0x1000, 512)], [F.HEW_RING_HEAD_HEAD, F.HEW_RING_HEAD_INFLIGHT]⟩,
  ⟨0x14000010, [(0x1000, 512)], [F.HEW_STAT_STATE, F.HEW_STAT_SUSPENDED]⟩,
  ⟨0x14000014, [(0x1000, 512)], [F.HEW_EVT_DONE, F.HEW_EVT_ERROR, F.HEW_EVT_OWN_ERR, F.HEW_EVT_LINK_DOWN, F.HEW_EVT_LINK_UP]⟩,
  ⟨0x14000018, [(0x1000, 512)], [F.HEW_IE_IE]⟩,
  ⟨0x14200000, [], [F.HEW_SUSP_CTL_MIN_RUN, F.HEW_SUSP_CTL_CAP, F.HEW_SUSP_CTL_WINDOW]⟩,
  ⟨0x14200004, [], [F.HEW_PF_STAT_HALT, F.HEW_PF_STAT_FLUSH, F.HEW_PF_STAT_OFF, F.HEW_PF_STAT_QUIET]⟩,
  ⟨0x1400001C, [(0x1000, 512)], [F.HEW_BAR_BASE_ADDR]⟩,
  ⟨0x14000020, [(0x1000, 512)], [F.HEW_CNT_SUSP_COUNT]⟩,
  ⟨0x14000024, [(0x1000, 512)], [F.HEW_CNT_PFAIL_COUNT]⟩,
  ⟨0x14000028, [(0x1000, 512)], [F.HEW_CNT_EFAIL_COUNT]⟩,
  ⟨0x1400002C, [(0x1000, 512)], [F.HEW_CNT_TMO_COUNT]⟩]

/-- The registers of block UCS. -/
def regsUcs : List Reg := [
  ⟨0x16200000, [(0x4, 16)], [F.UCS_BANK_LIVE, F.UCS_BANK_PENDING, F.UCS_BANK_PATCH_ERR, F.UCS_BANK_STARTED]⟩,
  ⟨0x16200040, [], [F.UCS_EPOCH_CUR, F.UCS_EPOCH_PHASE, F.UCS_EPOCH_KIND]⟩,
  ⟨0x16200044, [], [F.UCS_EPOCH_STAT_ACKED, F.UCS_EPOCH_STAT_EXCUSED, F.UCS_EPOCH_STAT_ERR]⟩,
  ⟨0x16000000, [(0x20000, 16), (0x8, 8192)], [F.UCS_WORD_A_DATA]⟩,
  ⟨0x16000004, [(0x20000, 16), (0x8, 8192)], [F.UCS_CHECK_A_CHECK]⟩,
  ⟨0x16010000, [(0x20000, 16), (0x8, 8192)], [F.UCS_WORD_B_DATA]⟩,
  ⟨0x16010004, [(0x20000, 16), (0x8, 8192)], [F.UCS_CHECK_B_CHECK]⟩,
  ⟨0x16200048, [], [F.UCS_ECC_CORR_COUNT]⟩,
  ⟨0x1620004C, [], [F.UCS_ECC_UNC_COUNT]⟩]

/-- The registers of block SEAM. -/
def regsSeam : List Reg := [
  ⟨0x18000000, [(0x2000, 512)], [F.SEAM_CTL_ENABLE, F.SEAM_CTL_RETRAIN, F.SEAM_CTL_RATE_MAX, F.SEAM_CTL_LOOPBACK]⟩,
  ⟨0x18000004, [(0x2000, 512)], [F.SEAM_STAT_STATE, F.SEAM_STAT_RATE, F.SEAM_STAT_FALLBACK, F.SEAM_STAT_SAFE_REMOVE, F.SEAM_STAT_LANE, F.SEAM_STAT_PLLG]⟩,
  ⟨0x18400000, [(0x4, 16)], [F.SEAM_GRP_STAT_LOCKED, F.SEAM_GRP_STAT_ACTIVE]⟩,
  ⟨0x18400040, [], [F.SEAM_RECAL_CTL_PERIOD, F.SEAM_RECAL_CTL_DTEMP, F.SEAM_RECAL_CTL_WINDOW]⟩,
  ⟨0x18000008, [(0x2000, 512)], [F.SEAM_SESSION_SESSION]⟩,
  ⟨0x1800000C, [(0x2000, 512)], [F.SEAM_CREDIT_CMD, F.SEAM_CREDIT_CTL, F.SEAM_CREDIT_DATA]⟩,
  ⟨0x18000010, [(0x2000, 512)], [F.SEAM_TEMP_HOT, F.SEAM_TEMP_AGE, F.SEAM_TEMP_OVER]⟩,
  ⟨0x18000020, [(0x2000, 512)], [F.SEAM_CNT_FEC_CORR_COUNT]⟩,
  ⟨0x18000024, [(0x2000, 512)], [F.SEAM_CNT_FEC_UNC_COUNT]⟩,
  ⟨0x18000028, [(0x2000, 512)], [F.SEAM_CNT_CRC_COUNT]⟩,
  ⟨0x1800002C, [(0x2000, 512)], [F.SEAM_CNT_REPLAY_COUNT]⟩,
  ⟨0x18000030, [(0x2000, 512)], [F.SEAM_CNT_RETRAIN_COUNT]⟩,
  ⟨0x18000034, [(0x2000, 512)], [F.SEAM_CNT_DROP_COUNT]⟩,
  ⟨0x18400044, [], [F.SEAM_EVT_PRESENT, F.SEAM_EVT_FALLBACK, F.SEAM_EVT_GRP_UNLOCK, F.SEAM_EVT_OVERTEMP]⟩,
  ⟨0x18400048, [], [F.SEAM_IE_IE]⟩]

/-- The registers of block MERE. -/
def regsMere : List Reg := [
  ⟨0x5000000, [(0x4, 8)], [F.MERE_STAT_IN_SERVICE, F.MERE_STAT_PARKED, F.MERE_STAT_CHK_PASS, F.MERE_STAT_TRAIN_PASS, F.MERE_STAT_FENCE_CAUSE, F.MERE_STAT_TEMP]⟩,
  ⟨0x5000020, [], [F.MERE_EVT_BUCKET, F.MERE_EVT_UNC, F.MERE_EVT_FENCED, F.MERE_EVT_LAP_LONG, F.MERE_EVT_VALID_UNC]⟩,
  ⟨0x5000080, [], [F.MERE_BKT_CTL_DEPTH, F.MERE_BKT_CTL_LEAK, F.MERE_BKT_CTL_FENCE_OVF]⟩,
  ⟨0x50000A0, [(0x4, 8)], [F.MERE_BKT_LEVEL, F.MERE_BKT_OVF_24H]⟩,
  ⟨0x5000200, [], [F.MERE_SCRUB_CTL_RATE, F.MERE_SCRUB_CTL_EN, F.MERE_SCRUB_CTL_LAP_WARN]⟩,
  ⟨0x5000220, [(0x4, 14)], [F.MERE_LAP_LAST, F.MERE_LAP_PROGRESS]⟩,
  ⟨0x5000024, [], [F.MERE_IE_IE]⟩,
  ⟨0x5000028, [], [F.MERE_DIRTY_MIB, F.MERE_DIRTY_LIMIT]⟩,
  ⟨0x5000040, [(0x4, 8)], [F.MERE_DIRTY_STK_MIB]⟩,
  ⟨0x5000280, [(0x4, 8)], [F.MERE_VALID_REGIONS]⟩,
  ⟨0x5000300, [], [F.MERE_FENCE_FENCE]⟩,
  ⟨0x5000100, [(0x4, 8)], [F.MERE_CNT_CORR_COUNT]⟩,
  ⟨0x5000120, [(0x4, 8)], [F.MERE_CNT_UNC_COUNT]⟩,
  ⟨0x5000140, [(0x4, 8)], [F.MERE_CNT_POISON_COUNT]⟩,
  ⟨0x5000160, [(0x4, 8)], [F.MERE_CNT_REPAIR_COUNT]⟩,
  ⟨0x5000180, [(0x4, 8)], [F.MERE_CNT_ADDR_COUNT]⟩]

/-- The registers of block NVQ. -/
def regsNvq : List Reg := [
  ⟨0x2000000, [], [F.NVQ_SLOTS_USED, F.NVQ_SLOTS_SHARED_FREE]⟩,
  ⟨0x2000004, [], [F.NVQ_FETCH_CTL_QMAX, F.NVQ_FETCH_CTL_BURST]⟩,
  ⟨0x2000040, [], [F.NVQ_CTRL_SEL_INDEX]⟩,
  ⟨0x2000044, [], [F.NVQ_CTRL_INFO_SLOTS, F.NVQ_CTRL_INFO_EXISTS, F.NVQ_CTRL_INFO_QPAIRS]⟩,
  ⟨0x2000048, [], [F.NVQ_CTRL_RES_RES]⟩,
  ⟨0x2000200, [], [F.NVQ_LCR_CTL_LIFE]⟩,
  ⟨0x2000010, [], [F.NVQ_EVT_SLOTS_FULL, F.NVQ_EVT_BAD_DB, F.NVQ_EVT_CID_CONFLICT, F.NVQ_EVT_CQ_STALL]⟩,
  ⟨0x2000014, [], [F.NVQ_IE_IE]⟩,
  ⟨0x2000100, [], [F.NVQ_CNT_FETCHED_COUNT]⟩,
  ⟨0x2000104, [], [F.NVQ_CNT_DONE_COUNT]⟩,
  ⟨0x2000108, [], [F.NVQ_PEAK_COUNT]⟩,
  ⟨0x2000204, [], [F.NVQ_LCR_STAT_RECORDS, F.NVQ_LCR_STAT_OVERFLOW]⟩,
  ⟨0x2000208, [], [F.NVQ_LCR_ENT_ENTRIES]⟩,
  ⟨0x200020C, [], [F.NVQ_DEFER_PEND_PAIRS]⟩,
  ⟨0x2000210, [], [F.NVQ_CNT_DEFER_COUNT]⟩,
  ⟨0x2000214, [], [F.NVQ_ACT_STAT_DRAIN_MS, F.NVQ_ACT_STAT_PAUSE_US, F.NVQ_ACT_STAT_ABANDONED]⟩]

/-- The registers of block SLU. -/
def regsSlu : List Reg := [
  ⟨0x4000000, [], [F.SLU_CTL_DIE_Q, F.SLU_CTL_FOLD_FLOOR, F.SLU_CTL_META_FLOOR]⟩,
  ⟨0x4000004, [], [F.SLU_BG_CTL_DREDGE_W, F.SLU_BG_CTL_REFRESH_W, F.SLU_BG_CTL_FOLD_W]⟩,
  ⟨0x4000008, [], [F.SLU_STAT_PERIOD, F.SLU_STAT_SCALE, F.SLU_STAT_PACING, F.SLU_STAT_POWER_CAP]⟩,
  ⟨0x4000010, [], [F.SLU_EVT_CEIL_HIT, F.SLU_EVT_DIRTY_CAP, F.SLU_EVT_MERGE_DEBT, F.SLU_EVT_FORCED_FOLD]⟩,
  ⟨0x4000100, [], [F.SLU_CLS_SEL_CLASS]⟩,
  ⟨0x4000104, [(0x4, 8)], [F.SLU_CLS_CFG_RECORD]⟩,
  ⟨0x4000124, [], [F.SLU_CLS_USE_DIE_MEAN, F.SLU_CLS_USE_DIE_MAX]⟩,
  ⟨0x4000128, [], [F.SLU_CLS_WAIT_WAITING, F.SLU_CLS_WAIT_MERGES]⟩,
  ⟨0x400012C, [], [F.SLU_CLS_CREDIT_MERGE_CREDIT, F.SLU_CLS_CREDIT_DIRTY]⟩,
  ⟨0x4000130, [], [F.SLU_CLS_SUSP_COUNT]⟩,
  ⟨0x4000014, [], [F.SLU_IE_IE]⟩,
  ⟨0x4000200, [], [F.SLU_CNT_FORCED_COUNT]⟩]

/-- The registers of block HIF. -/
def regsHif : List Reg := [
  ⟨0x1000000, [(0x4, 8)], [F.HIF_LINK_STAT_UP, F.HIF_LINK_STAT_WIDTH, F.HIF_LINK_STAT_SPEED, F.HIF_LINK_STAT_FLIT, F.HIF_LINK_STAT_SPLIT, F.HIF_LINK_STAT_DEGRADED, F.HIF_LINK_STAT_FUNCS]⟩,
  ⟨0x1000040, [], [F.HIF_EVT_LINK_DOWN, F.HIF_EVT_LINK_UP, F.HIF_EVT_UNCOR, F.HIF_EVT_POISON_RX]⟩,
  ⟨0x1000100, [], [F.HIF_WIN_SEL_LINK, F.HIF_WIN_SEL_FUNC, F.HIF_WIN_SEL_INDEX]⟩,
  ⟨0x1000104, [(0x4, 4)], [F.HIF_WIN_INFO_ENTRY]⟩,
  ⟨0x1000044, [], [F.HIF_IE_IE]⟩,
  ⟨0x1000080, [(0x4, 8)], [F.HIF_CNT_CORR_COUNT]⟩,
  ⟨0x10000A0, [(0x4, 8)], [F.HIF_CNT_UNCOR_COUNT]⟩,
  ⟨0x10000C0, [(0x4, 8)], [F.HIF_CNT_RETRAIN_COUNT]⟩]

/-- The registers of block FAB. -/
def regsFab : List Reg := [
  ⟨0x3000000, [(0x4, 32)], [F.FAB_PORT_STAT_UP, F.FAB_PORT_STAT_MODE, F.FAB_PORT_STAT_HOLD, F.FAB_PORT_STAT_PAUSED, F.FAB_PORT_STAT_STORM, F.FAB_PORT_STAT_ASSOC]⟩,
  ⟨0x3000080, [], [F.FAB_EVT_LINK_DOWN, F.FAB_EVT_LINK_UP, F.FAB_EVT_PFC_STORM, F.FAB_EVT_ASSOC_END, F.FAB_EVT_AUTH_FAIL, F.FAB_EVT_RXBUF_FULL]⟩,
  ⟨0x3000100, [], [F.FAB_QOS_CTL_ROCE_PRI, F.FAB_QOS_CTL_CNP_PRI, F.FAB_QOS_CTL_CWY_PRI, F.FAB_QOS_CTL_ROCE_DSCP, F.FAB_QOS_CTL_CNP_DSCP, F.FAB_QOS_CTL_CWY_DSCP]⟩,
  ⟨0x300010C, [], [F.FAB_TX_W_ROCE_W, F.FAB_TX_W_CWY_W]⟩,
  ⟨0x3000104, [], [F.FAB_PFC_CTL_WD, F.FAB_PFC_CTL_PFC_TX, F.FAB_PFC_CTL_LINK_HOLD]⟩,
  ⟨0x3000108, [], [F.FAB_ECN_CTL_RATE_MIN, F.FAB_ECN_CTL_CNP_GAP, F.FAB_ECN_CTL_DROP, F.FAB_ECN_CTL_HOLD]⟩,
  ⟨0x3000110, [], [F.FAB_ECN_RISE_RISE]⟩,
  ⟨0x3000200, [], [F.FAB_ADDR_SEL_ENTRY]⟩,
  ⟨0x3000204, [(0x4, 12)], [F.FAB_ADDR_DATA_BYTES]⟩,
  ⟨0x3000240, [], [F.FAB_ADDR_CTL_COMMIT, F.FAB_ADDR_CTL_BUSY, F.FAB_ADDR_CTL_ERR]⟩,
  ⟨0x3000084, [], [F.FAB_IE_IE]⟩,
  ⟨0x3000300, [], [F.FAB_RXBUF_MIB]⟩,
  ⟨0x3000304, [], [F.FAB_QPS_QPS]⟩,
  ⟨0x3000400, [(0x4, 32)], [F.FAB_CNT_FCS_COUNT]⟩,
  ⟨0x3000480, [(0x4, 32)], [F.FAB_CNT_FEC_UNC_COUNT]⟩,
  ⟨0x3000500, [(0x4, 32)], [F.FAB_CNT_CNP_COUNT]⟩,
  ⟨0x3000580, [(0x4, 32)], [F.FAB_CNT_RETX_COUNT]⟩,
  ⟨0x3000600, [(0x4, 32)], [F.FAB_CNT_DROP_COUNT]⟩]

/-- The registers of block CWY. -/
def regsCwy : List Reg := [
  ⟨0x3800000, [], [F.CWY_STAT_SESSIONS, F.CWY_STAT_CHAIN_BUSY, F.CWY_STAT_EXPORTS, F.CWY_STAT_IMPORTS]⟩,
  ⟨0x3800100, [], [F.CWY_PEER_SEL_ENTRY]⟩,
  ⟨0x3800104, [], [F.CWY_PEER_INFO_STATE, F.CWY_PEER_INFO_VERSION, F.CWY_PEER_INFO_STREAMS]⟩,
  ⟨0x3800108, [(0x4, 6)], [F.CWY_PEER_HB_BYTES]⟩,
  ⟨0x3800010, [], [F.CWY_EVT_PEER_DOWN, F.CWY_EVT_AUTH_FAIL, F.CWY_EVT_MIG_DONE, F.CWY_EVT_CHAIN_DONE]⟩,
  ⟨0x3800014, [], [F.CWY_IE_IE]⟩,
  ⟨0x3800020, [], [F.CWY_DISC_CNT_PEERS]⟩,
  ⟨0x3800024, [], [F.CWY_CHAIN_STAT_REPORTS, F.CWY_CHAIN_STAT_REFUSALS]⟩,
  ⟨0x3800200, [], [F.CWY_MIG_SEL_MIG]⟩,
  ⟨0x3800204, [], [F.CWY_MIG_TRACTS_TRACTS, F.CWY_MIG_TRACTS_PASS]⟩,
  ⟨0x3800208, [], [F.CWY_MIG_LOST_UNITS]⟩,
  ⟨0x3800300, [], [F.CWY_CNT_MAC_COUNT]⟩,
  ⟨0x3800304, [], [F.CWY_CNT_RETX_COUNT]⟩,
  ⟨0x3800308, [], [F.CWY_CNT_NAK_COUNT]⟩]

/-- The registers of block CIP. -/
def regsCip : List Reg := [
  ⟨0x6000000, [], [F.CIP_STAT_LOADED, F.CIP_STAT_ESCROW, F.CIP_STAT_DRBG_OK]⟩,
  ⟨0x6000004, [], [F.CIP_SCA_CTL_LEVEL]⟩,
  ⟨0x6000008, [], [F.CIP_POOL_HOST_PIPES, F.CIP_POOL_HOST_LANES]⟩,
  ⟨0x6001000, [(0x10, 16)], [F.CIP_RING_BASE_ADDR]⟩,
  ⟨0x6001004, [(0x10, 16)], [F.CIP_RING_CFG_SIZE_LOG2, F.CIP_RING_CFG_ENABLE, F.CIP_RING_CFG_PRIO]⟩,
  ⟨0x6001008, [(0x10, 16)], [F.CIP_RING_TAIL_TAIL]⟩,
  ⟨0x600100C, [(0x10, 16)], [F.CIP_RING_HEAD_HEAD]⟩,
  ⟨0x6000100, [], [F.CIP_SLOT_SEL_SLOT]⟩,
  ⟨0x6000104, [], [F.CIP_SLOT_STAT_STATE, F.CIP_SLOT_STAT_ESCROWED, F.CIP_SLOT_STAT_USERS]⟩,
  ⟨0x6000108, [], [F.CIP_SLOT_NSID_NSID]⟩,
  ⟨0x6000010, [], [F.CIP_EVT_DONE, F.CIP_EVT_ERROR, F.CIP_EVT_KAT_FAIL, F.CIP_EVT_DRBG_FAIL]⟩,
  ⟨0x6000014, [], [F.CIP_IE_IE]⟩,
  ⟨0x6000200, [], [F.CIP_CNT_SEAL_COUNT]⟩,
  ⟨0x6000204, [], [F.CIP_CNT_OPEN_COUNT]⟩,
  ⟨0x6000208, [], [F.CIP_CNT_VERIFY_COUNT]⟩,
  ⟨0x600020C, [], [F.CIP_CNT_TAGFAIL_COUNT]⟩,
  ⟨0x6000210, [], [F.CIP_CNT_ERR_COUNT]⟩,
  ⟨0x6000300, [(0x4, 3)], [F.CIP_PIPE_FENCED_FENCED]⟩,
  ⟨0x6000320, [(0x4, 5)], [F.CIP_LANE_FENCED_FENCED]⟩]

/-- The registers of block DMA. -/
def regsDma : List Reg := [
  ⟨0x7000000, [(0x100, 96)], [F.DMA_RING_BASE_ADDR]⟩,
  ⟨0x7000004, [(0x100, 96)], [F.DMA_CH_CFG_SIZE_LOG2, F.DMA_CH_CFG_ENABLE, F.DMA_CH_CFG_MODE, F.DMA_CH_CFG_RETRY_MAX, F.DMA_CH_CFG_TIMER, F.DMA_CH_CFG_LINK_SRC]⟩,
  ⟨0x7000008, [(0x100, 96)], [F.DMA_RING_TAIL_TAIL]⟩,
  ⟨0x700000C, [(0x100, 96)], [F.DMA_RING_HEAD_HEAD, F.DMA_RING_HEAD_LINK_CNT]⟩,
  ⟨0x7000010, [(0x100, 96)], [F.DMA_CH_CTL_RESUME, F.DMA_CH_CTL_SKIP, F.DMA_CH_CTL_RESET]⟩,
  ⟨0x7000014, [(0x100, 96)], [F.DMA_CH_STAT_STATE, F.DMA_CH_STAT_ATTEMPTS, F.DMA_CH_STAT_SLOT]⟩,
  ⟨0x7000018, [(0x100, 96)], [F.DMA_ERR_ADDR_LO_ADDR_LO]⟩,
  ⟨0x700001C, [(0x100, 96)], [F.DMA_ERR_ADDR_HI_ADDR_HI]⟩,
  ⟨0x7000020, [(0x100, 96)], [F.DMA_ERR_INFO_DIR, F.DMA_ERR_INFO_HOST, F.DMA_ERR_INFO_CAUSE, F.DMA_ERR_INFO_CNTLID]⟩,
  ⟨0x7000024, [(0x100, 96)], [F.DMA_CNT_ERR_COUNT]⟩,
  ⟨0x7000028, [(0x100, 96)], [F.DMA_CNT_LOST_COUNT]⟩,
  ⟨0x7010000, [(0x4, 16)], [F.DMA_TIMER_PERIOD]⟩,
  ⟨0x7010100, [(0x4, 3)], [F.DMA_DONE_DONE]⟩,
  ⟨0x7010110, [(0x4, 3)], [F.DMA_HALT_HALT]⟩,
  ⟨0x7010120, [(0x4, 3)], [F.DMA_DONE_IE_IE]⟩,
  ⟨0x7010130, [(0x4, 3)], [F.DMA_HALT_IE_IE]⟩]

/-- The registers of block MBX. -/
def regsMbx : List Reg := [
  ⟨0x8000000, [(0x40, 256), (0x4, 4)], [F.MBX_TX_DATA]⟩,
  ⟨0x8000010, [(0x40, 256), (0x4, 4)], [F.MBX_RX_DATA]⟩,
  ⟨0x8000020, [(0x40, 256)], [F.MBX_CH_STAT_COUNT, F.MBX_CH_STAT_OVF, F.MBX_CH_STAT_SENDER, F.MBX_CH_STAT_RECEIVER]⟩,
  ⟨0x8010000, [(0x4, 8)], [F.MBX_PEND_PEND]⟩,
  ⟨0x8010020, [(0x4, 8)], [F.MBX_PEND_IE_IE]⟩,
  ⟨0x8010040, [], [F.MBX_EVT_OVERFLOW, F.MBX_EVT_PAIR_LOST]⟩,
  ⟨0x8010044, [], [F.MBX_IE_IE]⟩,
  ⟨0x8010100, [(0x4, 12)], [F.MBX_PAIR_STAT_STATE, F.MBX_PAIR_STAT_ID_A, F.MBX_PAIR_STAT_ID_B, F.MBX_PAIR_STAT_CAUSE]⟩,
  ⟨0x8010140, [], [F.MBX_PAIR_TEST_PAIR, F.MBX_PAIR_TEST_INJECT]⟩]

/-- The registers of block PEAT. -/
def regsPeat : List Reg := [
  ⟨0x9000000, [], [F.PEAT_STAT_UNARCH, F.PEAT_STAT_DROPPING, F.PEAT_STAT_ARCH_BUSY]⟩,
  ⟨0x9000004, [], [F.PEAT_CTL_MAX_AGE, F.PEAT_CTL_NOW]⟩,
  ⟨0x9000100, [], [F.PEAT_CODE_SEL_CODE]⟩,
  ⟨0x9000104, [], [F.PEAT_RL_RATE, F.PEAT_RL_BURST, F.PEAT_RL_CRITICAL]⟩,
  ⟨0x9000108, [], [F.PEAT_SUPP_PENDING]⟩,
  ⟨0x9000110, [(0x4, 8)], [F.PEAT_SNAP_CFG_EN, F.PEAT_SNAP_CFG_OFFSET]⟩,
  ⟨0x9000008, [], [F.PEAT_SEQ_LO_SEQ]⟩,
  ⟨0x900000C, [], [F.PEAT_SEQ_HI_SEQ]⟩,
  ⟨0x9000010, [], [F.PEAT_ARCH_LO_SEQ]⟩,
  ⟨0x9000014, [], [F.PEAT_ARCH_HI_SEQ]⟩,
  ⟨0x9000020, [], [F.PEAT_EVT_DROP, F.PEAT_EVT_ARCH_FAIL]⟩,
  ⟨0x9000024, [], [F.PEAT_IE_IE]⟩,
  ⟨0x9000030, [], [F.PEAT_CNT_DROP_COUNT]⟩,
  ⟨0x9400000, [(0x4, 1048576)], [F.PEAT_RING_BYTES]⟩]

/-- The registers of block PWR. -/
def regsPwr : List Reg := [
  ⟨0x400000, [], [F.PWR_PF_CTL_FILTER, F.PWR_PF_CTL_AGREE, F.PWR_PF_CTL_RESTART]⟩,
  ⟨0x400004, [], [F.PWR_STAT_PFAIL_A, F.PWR_STAT_PFAIL_B, F.PWR_STAT_DECIDED, F.PWR_STAT_HT_FAILED, F.PWR_STAT_RESERVE_OK, F.PWR_STAT_EFF_LIMIT]⟩,
  ⟨0x400010, [], [F.PWR_HT_CTL_ARM, F.PWR_HT_CTL_CANCEL]⟩,
  ⟨0x400014, [], [F.PWR_HT_STAT_STATE, F.PWR_HT_STAT_OVERDUE, F.PWR_HT_STAT_HOURS_LEFT]⟩,
  ⟨0x400018, [], [F.PWR_HT_ENERGY_MJ]⟩,
  ⟨0x400020, [], [F.PWR_EVT_DISAGREE, F.PWR_EVT_HT_REQ, F.PWR_EVT_HT_READY, F.PWR_EVT_HT_DONE, F.PWR_EVT_LIMIT_CUT]⟩,
  ⟨0x400024, [], [F.PWR_IE_IE]⟩,
  ⟨0x400050, [], [F.PWR_STATE_STATE, F.PWR_STATE_ENTERING, F.PWR_STATE_EXITING]⟩,
  ⟨0x400054, [], [F.PWR_RAIL_STAT_IN_RANGE, F.PWR_RAIL_STAT_VBAT_OK]⟩,
  ⟨0x400008, [], [F.PWR_TFLUSH_US]⟩,
  ⟨0x400030, [], [F.PWR_FL_INFO_OCCURRED, F.PWR_FL_INFO_COMPLETE]⟩,
  ⟨0x400034, [], [F.PWR_FL_UNITS_UNITS]⟩,
  ⟨0x400038, [], [F.PWR_FL_LOST_UNITS]⟩,
  ⟨0x40003C, [], [F.PWR_FL_TIME_US]⟩,
  ⟨0x400040, [], [F.PWR_CNT_GLITCH_COUNT]⟩]

/-- The registers of block SEAL. -/
def regsSeal : List Reg := [
  ⟨0x500000, [], [F.SEAL_CTL_MODE, F.SEAL_CTL_DISC, F.SEAL_CTL_CLEAR, F.SEAL_CTL_SOFT]⟩,
  ⟨0x500004, [], [F.SEAL_STAT_A, F.SEAL_STAT_B, F.SEAL_STAT_AGREE, F.SEAL_STAT_SEALED, F.SEAL_STAT_HW, F.SEAL_STAT_FAULT, F.SEAL_STAT_DISC_MS]⟩,
  ⟨0x500008, [], [F.SEAL_EVT_CHANGE, F.SEAL_EVT_DISCREPANCY, F.SEAL_EVT_FAULT]⟩,
  ⟨0x50000C, [], [F.SEAL_IE_IE]⟩,
  ⟨0x500010, [], [F.SEAL_CNT_DISC_COUNT]⟩]

/-- The registers of block UPD. -/
def regsUpd : List Reg := [
  ⟨0xA000000, [], [F.UPD_STAT_RUNNING, F.UPD_STAT_PENDING, F.UPD_STAT_TRIES, F.UPD_STAT_STATE, F.UPD_STAT_SOURCE, F.UPD_STAT_ERR]⟩,
  ⟨0xA000004, [], [F.UPD_PROGRESS_OUT_BYTES]⟩,
  ⟨0xA000010, [(0x4, 2)], [F.UPD_SERIAL_SERIAL]⟩,
  ⟨0xA000018, [], [F.UPD_FLOOR_FLOOR]⟩,
  ⟨0xA000020, [], [F.UPD_EVT_APPLIED, F.UPD_EVT_REFUSED, F.UPD_EVT_ACTIVATED, F.UPD_EVT_FALLBACK]⟩,
  ⟨0xA000024, [], [F.UPD_IE_IE]⟩]

/-- The registers of block CUS. -/
def regsCus : List Reg := [
  ⟨0xB000100, [(0x4, 4)], [F.CUS_NONCE_NONCE]⟩,
  ⟨0xB000110, [], [F.CUS_SESS_RESP_WORD]⟩,
  ⟨0xB000114, [], [F.CUS_SESS_STAT_OPEN, F.CUS_SESS_STAT_WORDS, F.CUS_SESS_STAT_FAILS, F.CUS_SESS_STAT_LOCKOUT, F.CUS_SESS_STAT_CLOSE, F.CUS_SESS_STAT_RECOVERY, F.CUS_SESS_STAT_SESSION]⟩,
  ⟨0xB000118, [], [F.CUS_SESS_CTL_IDLE_TO]⟩,
  ⟨0xB000120, [], [F.CUS_WIN_ADDR_OFFSET]⟩,
  ⟨0xB000124, [], [F.CUS_WIN_WDATA_DATA]⟩,
  ⟨0xB000128, [], [F.CUS_WIN_CTL_READ, F.CUS_WIN_CTL_WRITE]⟩,
  ⟨0xB00012C, [], [F.CUS_WIN_STAT_BUSY]⟩,
  ⟨0xB000130, [], [F.CUS_WIN_RDATA_DATA]⟩,
  ⟨0xB000200, [], [F.CUS_TASK_CMD_OPCODE, F.CUS_TASK_CMD_GO]⟩,
  ⟨0xB000204, [], [F.CUS_TASK_STAT_STATE, F.CUS_TASK_STAT_STATUS, F.CUS_TASK_STAT_LAST_OP, F.CUS_TASK_STAT_DETAIL]⟩,
  ⟨0xB000240, [(0x4, 16)], [F.CUS_TASK_ARG_ARG]⟩,
  ⟨0xB000280, [(0x4, 16)], [F.CUS_TASK_RES_RES]⟩,
  ⟨0xB001000, [(0x4, 1024)], [F.CUS_BUF_DATA]⟩,
  ⟨0xB000300, [], [F.CUS_EVT_TASK_DONE, F.CUS_EVT_SESS_CLOSED, F.CUS_EVT_AUTH_FAIL]⟩,
  ⟨0xB000304, [], [F.CUS_IE_IE]⟩,
  ⟨0xB000308, [], [F.CUS_IRQ_SRC_SRC]⟩]

/-- The registers of block CLK. -/
def regsClk : List Reg := [
  ⟨0x100000, [], [F.CLK_PLL_STAT_SYS, F.CLK_PLL_STAT_STACK, F.CLK_PLL_STAT_PCIE, F.CLK_PLL_STAT_ETH, F.CLK_PLL_STAT_HOLDOVER]⟩,
  ⟨0x100004, [], [F.CLK_REF_STAT_SYS, F.CLK_REF_STAT_PE, F.CLK_REF_STAT_ETH, F.CLK_REF_STAT_SEAM, F.CLK_REF_STAT_RTC]⟩,
  ⟨0x100008, [], [F.CLK_EVT_REF_LOSS, F.CLK_EVT_PLL_UNLOCK, F.CLK_EVT_RTC_STOP]⟩,
  ⟨0x10000C, [], [F.CLK_IE_IE]⟩,
  ⟨0x100100, [(0x4, 46)], [F.CLK_FREQ_KHZ]⟩]

/-- The registers of block BOOT. -/
def regsBoot : List Reg := [
  ⟨0x200000, [], [F.BOOT_STAT_STEP, F.BOOT_STAT_DONE, F.BOOT_STAT_STOPPED, F.BOOT_STAT_CAUSE, F.BOOT_STAT_AUTO]⟩,
  ⟨0x200004, [], [F.BOOT_START_NO_START_NO]⟩,
  ⟨0x200008, [], [F.BOOT_STICKY_STICKY, F.BOOT_STICKY_MERE_SLOW, F.BOOT_STICKY_SEAM_SLOW]⟩,
  ⟨0x20000C, [], [F.BOOT_CTL_AUTO_MAX]⟩,
  ⟨0x200010, [], [F.BOOT_RESET_KEY]⟩,
  ⟨0x200020, [], [F.BOOT_REC_SEL_AGE]⟩,
  ⟨0x200040, [(0x4, 16)], [F.BOOT_REC_BYTES]⟩]

/-- The registers of block TMON. -/
def regsTmon : List Reg := [
  ⟨0x600000, [], [F.TMON_STAT_TJ, F.TMON_STAT_TJ_MAX, F.TMON_STAT_THROTTLE, F.TMON_STAT_THERM, F.TMON_STAT_HOLD, F.TMON_STAT_SENSORS]⟩,
  ⟨0x600004, [], [F.TMON_CTL_THROTTLE_C]⟩,
  ⟨0x600008, [], [F.TMON_EVT_THROTTLE, F.TMON_EVT_THERM, F.TMON_EVT_HOLD]⟩,
  ⟨0x60000C, [], [F.TMON_IE_IE]⟩,
  ⟨0x600100, [(0x4, 16)], [F.TMON_SENSOR_TEMP, F.TMON_SENSOR_VALID]⟩]

/-- Every register of the manual, by block. -/
def regTable : List Reg :=
  regsGlb ++ regsCfg ++ regsMap ++ regsFen ++ regsRet ++ regsLife ++ regsLdpc ++ regsHew ++ regsUcs ++ regsSeam ++ regsMere ++ regsNvq ++ regsSlu ++ regsHif ++ regsFab ++ regsCwy ++ regsCip ++ regsDma ++ regsMbx ++ regsPeat ++ regsPwr ++ regsSeal ++ regsUpd ++ regsCus ++ regsClk ++ regsBoot ++ regsTmon

end Sys2Proof.Machine
end

