-- ==== Sys2Proof/Machine/Tab.lean ====
section
/-! DEFINITION. Sparse tables: a list of (key, value) pairs in one canonical form (keys strictly rising, no entry
equal to the value an unlisted key reads as). Every sparse piece of the state is such a table. -/

namespace Sys2Proof.Machine

/-- A sparse table over natural-number keys. -/
abbrev Tab (α : Type) := List (Nat × α)

namespace Tab

variable {α : Type}

/-- The entry of a key, if the table lists one. -/
def find (t : Tab α) (k : Nat) : Option α :=
  match t with
  | [] => none
  | (j, v) :: r => if j = k then some v else find r k

/-- The value of a key, `d` where none is listed. -/
def get (d : α) (t : Tab α) (k : Nat) : α := (find t k).getD d

/-- The table without a key. -/
def del (t : Tab α) (k : Nat) : Tab α := t.filter (fun e => decide (e.1 ≠ k))

/-- Insert before the first larger key. -/
def ins (t : Tab α) (k : Nat) (v : α) : Tab α :=
  match t with
  | [] => [(k, v)]
  | (j, w) :: r => if j < k then (j, w) :: ins r k v else (k, v) :: (j, w) :: r

/-- The table with a key's entry replaced. -/
def put (t : Tab α) (k : Nat) (v : α) : Tab α := ins (del t k) k v

/-- The table with a key's value set, listing nothing for the value `d` that unlisted keys read as. -/
def set [DecidableEq α] (d : α) (t : Tab α) (k : Nat) (v : α) : Tab α :=
  if v = d then del t k else put t k v

/-- Change a listed entry; nothing where the key is not listed. -/
def modify (t : Tab α) (k : Nat) (f : α → α) : Tab α :=
  t.map (fun e => if e.1 = k then (e.1, f e.2) else e)

/-- The keys listed. -/
def keys (t : Tab α) : List Nat := t.map Prod.fst

/-- Keys strictly rising. -/
def sorted (t : Tab α) : Bool :=
  match t with
  | [] => true
  | [_] => true
  | a :: b :: r => decide (a.1 < b.1) && sorted (b :: r)

/-- The canonical form: keys strictly rising and no entry equal to the unlisted value. -/
def wf [DecidableEq α] (d : α) (t : Tab α) : Bool :=
  sorted t && t.all (fun e => decide (e.2 ≠ d))

end Tab

end Sys2Proof.Machine
end

