-- ==== Sys2Proof/Machine/State.lean ====
section
/-! DEFINITION. The state of the block: plain data. Register fields live in one store (`regs`), keyed by their bit
address; every other piece of state the manual names stands in the record of its block. -/

namespace Sys2Proof.Machine

open Sys2Proof

/-- Why the block stops with a fault. No rule of the manual stops the device: commands that are refused leave the
device running. The type is empty of reasons but for the one the model keeps for a state that no rule reaches.
Nobody raises `unreachable`; keeping it is safe. -/
inductive Fault where
  | unreachable
  deriving DecidableEq, Repr

/-- Why a command has no meaning. `notModelled` is raised by the arms of `exec` that have no meaning yet; it is safe,
since a run ends there. -/
inductive Refusal where
  | notModelled (mnemonic : String)
  deriving DecidableEq, Repr

/-- What a command sends outside: the block's outputs of the newest command, in order. -/
inductive Out where
  | busError (requester : Nat)
  | mereData (data : Nat) (poison : Bool)
  | mereWritten (poisonMerge : Bool)
  | packet (link opc die tag : Nat)
  | orderedSet (link code : Nat)
  | burst (link : Nat)
  | completion (ctrl sqid cqid cid status dw0 dw1 : Nat)
  | msix (ctrl vector : Nat)
  | asyncEvent (ctrl type info page : Nat)
  | hostData (ctrl cid : Nat) (payload : List Nat)
  | page (bytes : List (Nat × Nat))
  | cfgAnswer (link func value : Nat)
  | retryStatus (link func : Nat)
  | unsupported (link func : Nat)
  | memAnswer (link value : Nat)
  | aer (link func kind : Nat)
  | doe (link kind : Nat) (payload : List Nat)
  | frame (lp kind arg : Nat)
  | rdma (qp kind arg : Nat)
  | cwy (peer type stream seq : Nat) (args : List Nat)
  | cwyUnits (peer stream seq : Nat) (units : List UnitRecord)
  | smbus (ack : Bool) (value : Nat)
  | reset (cause : Nat)
  deriving DecidableEq, Repr

/-! ### Peat (chapter "The Peat log") -/

/-- One Peat entry (R531). -/
structure PeatEntry where
  seq        : Nat := 0
  time       : Nat := 0
  code       : Nat := 0
  usec       : Nat := 0
  source     : Nat := 0
  suppressed : Nat := 0
  arg        : Nat := 0
  sev        : Nat := 0
  aux        : Nat := 0
  valid      : Bool := false
  snaps      : List Nat := []
  deriving DecidableEq, Repr

/-- The rate limit and snapshot settings of one code (R534, R536): tokens are held in millionths. -/
structure PeatCode where
  micro   : Nat := 32000000
  rate    : Nat := 10
  burst   : Nat := 32
  pending : Nat := 0
  snaps   : List (Nat × Nat) := []
  deriving DecidableEq, Repr

structure PeatState where
  next     : Nat := 1
  archived : Nat := 0
  ring     : Tab PeatEntry := []
  archive  : Tab PeatEntry := []
  codes    : Tab PeatCode := []
  dropped  : Nat := 0
  unknown  : Bool := false          -- next SEQ not known since VBAT was lost (R533)
  held     : List PeatEntry := []
  segment  : Option Nat := none     -- open Peat stripe
  segNo    : Nat := 0
  segRow   : Nat := 0
  chain    : List Nat := []         -- Peat stripes, newest first
  seqHi    : Nat := 0               -- latched by a read of PEAT_SEQ_LO
  archHi   : Nat := 0
  deriving DecidableEq, Repr

/-! ### Configuration (chapter "The Twima image") -/

/-- Expert level of one access path (R55 to R59). -/
structure ExpertPath where
  isOpen  : Bool := false
  nonce   : Nat := 0
  words   : List Nat := []
  fails   : Nat := 0
  lockout : Bool := false
  lastUse : Nat := 0          -- life time of the last access on the path (R57)
  deriving DecidableEq, Repr

/-- A re-apply in progress (R48, R54): the lot, the staged image, and whether it waits for a hold-up test. -/
structure Reapply where
  lot     : Nat
  image   : TwimaImage
  waitHt  : Bool := false
  committed : Bool := false
  deriving DecidableEq, Repr

structure CfgState where
  slots   : Tab TwimaImage := []       -- boot flash slots 0..2, as they parse
  slotBytes : Tab Nat := []            -- the bytes of each slot, as a little-endian number
  fill    : Tab Nat := []              -- bytes written so far to each slot
  rec0    : SlotRecord := {}
  rec1    : SlotRecord := {}
  run     : Option TwimaImage := none  -- image in force
  reapply : Option Reapply := none
  heldCreates : List Nat := []         -- slots of creates held by an NSTPL re-apply (R51)
  experts : Tab ExpertPath := []
  floor   : Nat := 0                   -- anti-rollback fuse counter
  floorUps : Nat := 0                  -- times each fuse counter has been raised
  serial  : Nat := 0                   -- device serial number (fuses)
  signKey : Nat × Nat := (0, 0)        -- image-signing public key (R38)
  signDigest : Nat := 0                -- its SHA-384 digest (fuses)
  keyOk   : Bool := false              -- boot step 2 has found that the two agree
  configKey : Nat := 0                 -- configuration key (fuses, R55)
  deriving DecidableEq, Repr

/-! ### Life calendar and retention (chapter "Retention guardianship, Dredge passes and health") -/

structure LifeState where
  now      : Nat := 0
  utc      : Int := 0
  nowHi    : Nat := 0
  utcHi    : Nat := 0
  offHist  : List Nat := []
  onSec    : Nat := 0
  offSec   : Nat := 0
  lastAlive : Nat := 0
  crystal  : Bool := true
  offDue   : Bool := false         -- the off-interval of the last power-on has not been applied yet (R149)
  vbatEver : Bool := false         -- VBAT has been lost at least once (R156)
  deriving DecidableEq, Repr

/-- One Dredge pass and its summary record (R150 to R154). -/
structure DredgePass where
  id        : Nat
  origin    : Nat := 0          -- 0 Custodian, 1 host Verify
  nsid      : Nat := 0
  first     : Nat := 0
  count     : Nat := 0
  state     : Nat := 0          -- 0 queued, 1 running, 2 complete, 3 aborted
  resumed   : Bool := false     -- continued after a power loss (STATUS 3)
  cursor    : Nat := 0          -- stripes checked
  journalled : Nat := 0
  seen      : List Nat := []    -- the stripes checked, the oldest first
  tracts    : List Nat := []    -- tracts whose stripes have been checked
  began     : Nat := 0
  ended     : Nat := 0
  cwChecked : Nat := 0
  hist      : List Nat := []
  tagsOk    : Nat := 0
  tagsBad   : Nat := 0
  lost      : Nat := 0
  refreshed : Nat := 0
  parity    : Nat := 0
  skipped   : Nat := 0
  worst     : List (Nat × Nat × Nat) := []
  deriving DecidableEq, Repr

/-- One witness group of a member (R148). -/
structure Witness where
  base    : Nat := 0
  due     : Nat := 0
  ready   : Bool := false
  deriving DecidableEq, Repr

structure RetState where
  thermal   : Tab Nat := []        -- link → thermal counter in millionths of an equivalent second
  savedThermal : Tab Nat := []     -- copy in always-on memory
  cal       : Tab CalRow := []     -- link → calibration row read
  due       : List Nat := []       -- stripes due, in the order they became due
  early     : List Nat := []
  passes    : List DredgePass := []
  nextPass  : Nat := 1
  witness   : Tab Witness := []    -- 16 link + group
  health    : Tab Nat := []        -- Life log lifetime counters, by number
  maxTemp   : Int := -128
  tempHist  : Tab Nat := []
  fenMax    : Tab Nat := []        -- fen → hottest die ever, kelvin
  fenTemps  : Tab (List Nat) := [] -- fen → hottest die of each of the last 86,400 s, kelvin, newest first
  linkMax   : Tab Nat := []        -- link → hottest die ever, kelvin (R139)
  refreshes : List (Nat × Nat × Nat) := []  -- (second, fen, µs): die time that refresh received in the last 60 s (R404)
  deriving DecidableEq, Repr

/-! ### Map (chapter "Tracts, stripes and the map") and media -/

/-- The states of a tract (R71). -/
inductive TractState where
  | unmapped | filling | folded | merging | moving
  deriving DecidableEq, Repr

/-- A tract map entry (R71). -/
structure Tract where
  stripe : Nat := 0xFFFFFFFF
  log    : Option Nat := none
  state  : TractState := .unmapped
  lost   : Bool := false
  zone   : Nat := 0
  gen    : Nat := 0
  deriving DecidableEq, Repr

/-- A stripe table entry (R73). -/
structure Stripe where
  kind     : Nat := 0
  geom     : Nat := 0
  flags    : Nat := 0
  absent   : Nat := 0
  frontier : Nat := 0
  owner    : Nat := 0xFFFFFFFF
  slots    : List Nat := []
  deriving DecidableEq, Repr

/-- A log-stripe descriptor with its sub-map (R80, R81). -/
structure LogDesc where
  ltn      : Nat
  stripe   : Nat
  fill     : Nat := 0
  live     : Nat := 0
  pred     : Option Nat := none
  openTime : Nat := 0
  cls      : Nat := 0
  subAddr  : Nat := 0           -- SUBMAP: Mere address of the sub-map
  submap   : Tab Nat := []      -- unit → log unit, 0xFFFE zeroed; unlisted 0xFFFF
  deriving DecidableEq, Repr

/-- A Spoil table entry (R92). -/
structure Spoil where
  link   : Nat
  block  : Nat
  reason : Nat
  flags  : Nat
  wear   : Nat
  time   : Nat
  deriving DecidableEq, Repr

/-- A range declared lost: tract, offset and length in 512 B units (R96 LOST_RANGE). -/
structure LostRange where
  ltn : Nat
  off : Nat
  len : Nat
  deriving DecidableEq, Repr

/-- The map structures that the journal and the checkpoints hold (R94, R96). -/
structure MapCore where
  tracts  : Tab Tract := []
  stripes : Tab Stripe := []
  extents : Tab (List (Nat × Nat)) := []   -- NSID → (first LTN, count)
  rows    : Tab (Nat × Nat) := []          -- 2048 ltn + row → (Sump stripe, row)
  logs    : Tab LogDesc := []
  spoil   : List Spoil := []
  members : Tab Nat := []                  -- 32 fen + index → link, 0xFFFF out of service (R41)
  lost    : List LostRange := []
  deriving DecidableEq, Repr

/-- A journal record (R96). -/
inductive JRec where
  | tractMap (ltn : Nat) (t : Tract)
  | stripeSet (id : Nat) (e : Stripe)
  | stripeFree (id : Nat)
  | slotSet (id slot addr : Nat)
  | fillRows (ltn first count stripe row : Nat)
  | logOpen (log : Nat) (pred : Option Nat) (ltn stripe : Nat)
  | logUnits (log first logUnit count : Nat)
  | logClose (log : Nat)
  | spoilAdd (e : Spoil)
  | nsExtent (nsid index first count : Nat)
  | membership (fen index oldLink newLink : Nat)
  | lostRange (r : LostRange)
  | ckptMark (number stripe jseq : Nat)
  deriving DecidableEq, Repr

/-- A sealed tract unit (R174 to R179), held by its plaintext (log entry 20). -/
structure UnitData where
  payload : Nat := 0
  wseq    : Nat := 0
  lost    : Bool := false
  deriving DecidableEq, Repr

/-- A dirty unit in the Mere, with the two stacks that hold it (R24, R303). -/
structure Dirty where
  data : UnitData
  s1   : Nat
  s2   : Nat
  cls  : Nat := 0
  nsid : Nat := 0
  toLog : Bool := false
  r1   : Nat := 0              -- the Mere region of its copy on `s1`
  r2   : Nat := 0              -- the Mere region of its copy on `s2`
  deriving DecidableEq, Repr

/-- How a block is used between two erases (R67, R87). -/
inductive BlockUse where
  | free | open | full | freed | erasing | spoiled | factoryBad
  deriving DecidableEq, Repr

/-- What the device keeps of one member block: wear (R87), mode of its last erase, the block label that its page 0 carries
(R173), the retention record (R137). An unlisted block is free, erased in QLC mode, with wear 0 (log entry 21). -/
structure Block where
  use      : BlockUse := .free
  slc      : Bool := false
  wear     : Nat := 0
  nextPage : Nat := 0
  stripe   : Nat := 0xFFFFFFFF
  progTime : Nat := 0
  ageBase  : Nat := 0
  measRber : Nat := 0
  measAge  : Nat := 0
  flags    : Nat := 0
  labelled     : Bool := false   -- page 0 is programmed
  labelTime    : Nat := 0        -- PROG_TIME of the block label
  labelWear    : Nat := 0        -- WEAR
  labelThermal : Nat := 0        -- THERMAL, equivalent seconds
  joined       : Bool := false   -- of a hot-added member: erased since, in the free set (R124)
  deriving DecidableEq, Repr

/-- The fields of a metadata unit's stripe-coded half (R175). -/
structure MetaHalf where
  seq   : Nat := 0
  index : Nat := 0
  deriving DecidableEq, Repr

/-- One code word on the media (R167, R172 to R175): the unit it holds with the tract unit that its stripe-coded half names, the
fields of its identity half, and for a parity slot the symbols it holds (R105). Its row and place are the media key's. -/
structure CodeWord where
  data   : UnitData := {}
  ltn    : Nat := 0xFFFFFFFF
  unit   : Nat := 0xFFFFFF
  kind   : Nat := 0
  stripe : Nat := 0xFFFFFFFF
  slot   : Nat := 0xFF
  time   : Nat := 0
  ver    : Nat := 1
  geom   : Nat := 0
  slc    : Bool := false
  spare  : Bool := false
  owner  : Nat := 0xFFFFFFFF
  link   : Nat := 0
  member : Nat := 0
  device : Nat := 0
  unitTag : Bool := false      -- UFLAGS.UNIT_TAG (R177)
  meta_  : Option MetaHalf := none
  parity : Option Nat := none
  deriving DecidableEq, Repr

/-- A copy of a tract in progress: merge, refresh or evacuation (R83, R85). -/
structure CopyJob where
  newStripe : Nat
  merge     : Bool
  oldLog    : Option Nat := none
  cls       : Nat := 0               -- class a merge is charged to (R84)
  deriving DecidableEq, Repr

/-- A fold in progress (R77): rows up to `upto` are being programmed. -/
structure FoldJob where
  upto : Nat
  deriving DecidableEq, Repr

/-- A checkpoint (R97): its number, the newest JSEQ covered and the copy of the map. -/
structure Checkpoint where
  number : Nat
  stripe : Nat
  jseq   : Nat
  core   : MapCore
  wear   : Tab Nat := []       -- wear counters, by 1048576 link + block
  time   : Nat := 0
  ver    : Nat := 1            -- VERSION of its directory (R164, R183)
  stripes : List Nat := [stripe]  -- its stripes, in stream order
  retain : Tab Block := []     -- retention table (R138), by 1048576 link + block
  thermal : Tab Nat := []      -- member counters (section 11)
  lastAlive : Nat := 0         -- last-alive time (section 11)
  linkMax : Tab Nat := []      -- hottest temperature of each member, kelvin (R139)
  deriving DecidableEq, Repr

structure MapState where
  core     : MapCore := {}
  dirty    : Tab Dirty := []           -- 262144 ltn + unit
  rowIdle  : Tab Bool := []            -- 2048 ltn + row due under R76
  blocks   : Tab Block := []           -- 1048576 link + block
  media    : Tab CodeWord := []        -- ((1048576 link + block) 2048 + page) 4 + w
  rot      : Tab Nat := []             -- rotation counter per fen (R88)
  fenRot   : Nat := 0                  -- fen rotation (R89)
  jseq     : Nat := 1                  -- next JSEQ
  pendingJ : List (Nat × JRec) := []   -- appended, not durable
  durableJ : List (Nat × JRec) := []   -- on the media
  releases : List (Nat × Nat) := []    -- (JSEQ that must be durable, stripe to release) (R91)
  reuse    : List Nat := []            -- stripe IDs in the 2 s hold (R181)
  folds    : Tab FoldJob := []
  copies   : Tab CopyJob := []
  ckpts    : List Checkpoint := []     -- newest first, at most two
  ckptNew  : Option Checkpoint := none -- being written
  ckptNo   : Nat := 0
  anchorSeq : Nat := 0
  jlast    : Tab Nat := []             -- journal stripe → newest JSEQ programmed in it (R97)
  junits   : Nat := 0                  -- journal units programmed since the last checkpoint (R97)
  jnext    : Option Nat := none        -- NEXT of the journal stripe being programmed (R182)
  fillAt   : Nat := 0                  -- the whole percent that f crossed last (R78)
  bad      : List Nat := []            -- media keys whose code word the ladder could not decode (R111)
  dead     : List Nat := []            -- media keys that reconstruction could not serve either (R210)
  clean    : Tab (UnitData × Nat) := [] -- unit key → clean copy still resident in the Mere, its region (R25, R28)
  homes    : Tab (Nat × Nat) := []     -- piece of a mirrored structure → its two stacks (R94, R304)
  inPlace  : Tab Nat := []             -- stripe refreshed in place → JSEQ of its STRIPE_SET, until when its Mere copy is dirty data (R128)
  deriving DecidableEq, Repr

/-- A rebuild or drain job (R115, R122). -/
structure RebuildJob where
  stripe : Nat
  slot   : Nat
  target : Nat
  drain  : Bool := false
  row    : Nat := 0            -- first row not completed (R665)
  deriving DecidableEq, Repr

/-- Why a link's member is not reachable (R32, R114). -/
inductive Absence where
  | waiting | rebuilding
  deriving DecidableEq, Repr

structure FenState where
  absent   : Tab Absence := []      -- link
  draining : List Nat := []         -- links under R122 or R123
  retired  : List Nat := []         -- links out of service
  coming   : List Nat := []         -- links hot-added: their blocks join the free sets as they are erased (R124)
  noted    : List Nat := []         -- links whose loss is entered as a fault and not restored (R34)
  deadDies : List Nat := []         -- 32 link + die whose blocks are rebuilt (R114)
  jobs     : List RebuildJob := []
  assigned : Tab Nat := []          -- 32 fen + member → targets given in the current rebuild (R116)
  waiting  : List (Nat × Nat) := [] -- (stripe, slot) that R116 cannot place
  bench5   : Bool := false
  evac     : List Nat := []         -- fens under R127
  boosted  : List Nat := []         -- fens at BOOST
  share    : Nat := 50              -- share in force (R665)
  boost    : Nat := 75
  hold     : Bool := false
  pendShare : Option (Nat × Nat × Bool) := none
  deriving DecidableEq, Repr

/-! ### Read path -/

/-- The steps of the decoder ladder (R199, R200). -/
inductive LadderStep where
  | hard | retry | soft2 | soft3 | recon | done
  deriving DecidableEq, Repr

/-- One code word in the ladder, with the control fields it took at HARD (R218). -/
structure Ladder where
  link       : Nat
  die        : Nat := 0
  block      : Nat := 0
  page       : Nat := 0
  cw         : Nat := 0
  step       : LadderStep := .hard
  attempts   : Nat := 0
  retryMax   : Nat := 4
  softLevels : Nat := 2
  host       : Bool := true
  raced      : Bool := false
  bank       : Option Nat := none
  slc        : Bool := false
  below      : Bool := true          -- below FRONTIER (R198)
  reread     : Bool := false         -- re-read once at default voltages (R199)
  mismatched : Bool := false         -- its mismatch is recorded or due (R199)
  result     : Nat := 0              -- 1 delivered, 2 unrecovered
  deriving DecidableEq, Repr

/-- The read voltages of a ladder (R204, R208): the vectors that RETRY tries in order, the fewest unsatisfied checks so far with the
vector that gave them, and the soft senses made. -/
structure Vectors where
  plan   : List (List Int) := []
  fewest : Option Nat := none
  centre : List Int := []
  senses : List (List Int) := []
  deriving DecidableEq, Repr

structure LdpcState where
  ladders : Tab Ladder := []
  next    : Nat := 0
  learned : Tab (Nat × List Int) := [] -- (32 link + die) 2 + slc → life time learned, vector (R205)
  vecs    : Tab Vectors := []        -- ladder → its read voltages
  bufs    : Tab (List Nat) := []     -- hard decoder → ladders whose words its input buffer holds, the oldest first (R211)
  rxWait  : List Nat := []           -- ladders whose words wait in their link's receive buffer (R211)
  origin  : Tab Nat := []            -- ladder → priority of its soft work, 0 to 5; unlisted 1 (R212)
  softQ   : List Nat := []           -- ladders in the soft queue, in the order of arrival (R212)
  softRun : List Nat := []           -- ladders on a soft decoder
  softHeld : List Nat := []          -- ladders that wait for a slot of the soft queue (R213)
  rrtA    : Option RetrySet := none
  rrtB    : Option RetrySet := none
  encPartner : Tab Nat := []
  encErrs : Tab Nat := []
  deriving DecidableEq, Repr

/-! ### Hewers and microcode -/

/-- A descriptor held by a hewer, with its sequence (R223, R248 to R250). -/
structure Held where
  ring     : Nat                    -- ring slot it came from
  order    : Nat                    -- fetch order
  opcode   : Nat
  ctl      : Nat
  die      : Nat
  cls      : Nat
  block    : Nat
  page     : Nat
  cwMask   : Nat
  epoch    : Nat
  tag      : Nat
  buf      : Nat
  started  : Bool := false          -- taken by its die, the sequence runs
  sent     : Bool := false          -- its operation packet left the device
  suspended : Bool := false
  suspends : Nat := 0
  window   : Nat := 0               -- reads started in the current suspension
  bank     : Nat := 0
  regs     : List Nat := List.replicate 16 0
  status   : Nat := 0
  detail   : Nat := 0
  runUs    : Nat := 0
  member   : Nat := 0
  z        : Bool := false
  timedOut : Bool := false
  stack    : List Nat := []
  pc       : Nat := 0
  code     : Bool := false          -- a microcode sequence is running
  ended    : Bool := false          -- its outcome is known, write-back to come
  gotCw    : Nat := 0
  deriving DecidableEq, Repr

structure HewState where
  held    : Tab Held := []          -- 128 hewer + in-flight slot
  order   : Nat := 0
  timeouts : Tab (List Nat) := []   -- link → seconds of its TIMEOUTs within 10 s
  halted  : List (Nat × Nat) := []  -- (link, block) of programs and erases that the halt ended, until the next boot resolves them (R238)
  deriving DecidableEq, Repr

/-- A mode epoch in progress (R258 to R261). -/
structure Epoch where
  kind    : EpochKind
  acked   : List Nat := []          -- hewers
  unitAck : Bool := false           -- ladder control or NVQ admission
  deriving DecidableEq, Repr

structure UcsState where
  bankA   : Tab Nat := []           -- 8192 fen + word → 39 bits
  bankB   : Tab Nat := []
  masters : Tab Nat := []           -- 16384 fen + 8192 bank + word → data of the mirrored master
  started : Tab Bool := []          -- link has started on the live bank
  epoch   : Option Epoch := none
  sealReq : Bool := false           -- SEAL epoch waiting (R261)
  retryReq : Bool := false
  switchReq : Tab Bool := []        -- fens waiting to switch to the other bank (R253)
  damaged   : List Nat := []        -- fens whose live bank has a bad word, met while PENDING was 1 (R253, R255)
  deriving DecidableEq, Repr

/-! ### Seam links -/

structure LinkState where
  serial    : Nat := 0
  failures  : Nat := 0              -- consecutive failures at the present rate
  stored    : Bool := false         -- equaliser coefficients stored
  txSeq     : Nat := 0
  acked     : Nat := 0
  lastNak   : Nat := 0              -- ACK + 1 of the newest NAK acted on (R272)
  rxSeq     : Nat := 0
  nakSent   : Bool := false
  crSeen    : List Nat := [0, 0, 0, 0, 0, 0]
  grant     : List Nat := [0, 0, 0]      -- CMD, CTL, DATA granted at IDENT
  rspFreed  : Nat := 0
  rdataFreed : Nat := 0
  temps     : List Int := []
  lastRecal : Int := -128
  wantRecal : Bool := false
  ownWin    : Bool := false               -- the window in progress is the device's own (R277)
  noTelem   : Bool := false
  stayDown  : Bool := false               -- three failures at rate 0
  identDies : Nat := 0
  ident     : Option IdentBody := none    -- IDENT received in the IDENT state at hand
  sub       : Nat := 0                    -- state code within RETRAIN: 2 to 5
  memberWin : Bool := false               -- a window has been granted to the member
  telemWake : Bool := false               -- woken from PARKED for one TELEM_REQ
  deriving DecidableEq, Repr

structure SeamState where
  links    : Tab LinkState := []
  unlocked : List Nat := []               -- PLL groups that unlocked
  faulted  : List Nat := []               -- PLL groups whose fault is entered and not restored (R31, R34)
  deriving DecidableEq, Repr

/-! ### Mere -/

/-- One scrubber lap (R327): the second in which it began, its steps so far, the seconds of the last complete one. -/
structure Lap where
  began : Nat := 0
  steps : Nat := 0
  last  : Nat := 0
  deriving DecidableEq, Repr

structure MereState where
  mem      : List Host.Cell := []
  poisoned : Tab Bool := []               -- word number
  err      : Tab Nat := []                -- word number → flipped bits of the stored 272
  valid    : Tab Bool := []               -- 4 KiB region
  disarmed : List Nat := []               -- stacks whose bucket may not overflow again yet
  remirror : List Nat := []
  verr     : Tab Nat := []                -- group of the valid-bit store → flipped bits of its stored word (R311)
  laps     : Tab Lap := []                -- scrubber laps, in the order of MERE_LAP (R327)
  deriving DecidableEq, Repr

/-! ### Host intake -/

/-- The states of a command in a slot (R361); Queued and Completed commands hold no slot. -/
inductive CmdState where
  | fetched | admitted | finished
  deriving DecidableEq, Repr

/-- A command slot in use (R337, R361). -/
structure Cmd where
  sqe    : Sqe
  ctrl   : Nat
  sqid   : Nat
  state  : CmdState := .fetched
  part   : Nat := 2                -- 0 admin slot, 1 reservation, 2 shared
  cls    : Nat := 0
  status : Nat := 0                -- 256 sct + sc
  dw0    : Nat := 0
  dw1    : Nat := 0
  order  : Nat := 0                -- finish order
  seq    : Nat := 0                -- order in which it took its slot
  changed : Bool := false
  covers : List Nat := []          -- units a Flush covers, or a write wrote
  coverJ : Nat := 0                -- JSEQ that must be durable with them
  waits  : Bool := false           -- held for durability, DRBG or a re-apply
  lostKey : Bool := false          -- its controller was reset; a lost-completion entry takes its end
  sent    : Bool := false          -- fabric: its response capsule is out, not acknowledged (R361)
  deriving DecidableEq, Repr

structure SubQueue where
  size   : Nat
  head   : Nat := 0
  tail   : Nat := 0
  cqid   : Nat := 0
  prio   : Nat := 2
  deleting : Option Nat := none    -- slot of the Delete
  buffer : List Sqe := []          -- fabric receive buffer
  deriving DecidableEq, Repr

structure CplQueue where
  size   : Nat
  head   : Nat := 0
  tail   : Nat := 0
  phase  : Bool := true
  vector : Nat := 0
  ien    : Bool := true
  deriving DecidableEq, Repr

/-- One controller (R329, R335). -/
structure Ctrl where
  port    : HostPort
  func    : Nat := 0
  fabric  : Bool := false
  discovery : Bool := false        -- a discovery controller (R448)
  hostNqn : Nat := 0
  hostId  : Nat := 0
  enabled : Bool := false
  rdy     : Bool := false
  cfs     : Bool := false
  shst    : Nat := 0
  pp      : Bool := false
  cc      : Nat := 0
  aqa     : Nat := 0
  resetting : Bool := false
  gone    : Bool := false          -- its function no longer exists; commands of it run on (R374, R423)
  res     : Nat := 0
  qpairs  : Nat := 1024
  vectors : Nat := 2048
  mdts    : Nat := 11
  attach  : List Nat := []
  sqs     : Tab SubQueue := []
  cqs     : Tab CplQueue := []
  feats   : Tab Nat := []          -- FID × 65536 + sub-index → value
  ps      : Nat := 0               -- power state held
  lastOp  : Nat := 0               -- operational state last held
  apst    : List Nat := []
  aers    : List Nat := []         -- command identifiers of requests outstanding
  events  : List (Nat × Nat × Nat) := []  -- pending (type, info, page)
  errors  : List (Nat × Nat × Nat × Nat × Nat × Nat) := []  -- (sqid, cid, status, nsid, lba, specific)
  changedNs : List Nat := []
  vecs    : Tab (Nat × Bool) := [] -- vector → (entries pending, masked)
  ana     : Nat := 15              -- ANA state
  anaCount : Nat := 0              -- ANA change count since reset
  adminUsed : Bool := false
  resUsed : Nat := 0
  kato    : Nat := 0
  authOk  : Bool := true
  lcrOwed : Bool := false          -- its notice of R381 waits until the record is final (R457)
  classTurn : Tab Nat := []        -- class of its arbitration (1 high, 2 medium, 3 low, 0 all) → the SQ that had the last turn (R342)
  credit  : Tab Nat := []          -- class → commands left of its weight in this round (R342)
  deriving DecidableEq, Repr

/-- Reservation of a namespace (R354). -/
structure Resv where
  regs   : List (Nat × Nat) := []  -- (host identifier, key)
  rtype  : Nat := 0
  holder : Nat := 0                -- host identifier
  gen    : Nat := 0
  ptpl   : Bool := false
  mask   : Nat := 0
  deriving DecidableEq, Repr

structure Namespace where
  lbaShift  : Nat := 12
  leafShift : Nat := 12
  zoned     : Bool := false
  tracts    : Nat := 0
  mar       : Nat := 4095
  mor       : Nat := 4095
  anagrp    : Nat := 1
  nsTag     : Nat := 0
  nguid     : Nat := 0
  slot      : Nat := 0             -- key slot
  wseq      : Nat := 1
  wseqFloor : Nat := 0
  labelSeq  : Nat := 0
  created   : Nat := 0
  keyTime   : Nat := 0
  wprot     : Bool := false        -- frozen by a migration (R481)
  importing : Bool := false
  sanitize  : Nat := 0             -- 0 never, 1 complete, 2 in progress, 3 failed
  resv      : Resv := {}
  zones     : Tab (Nat × Bool) := [] -- tract index → (write pointer, Zone Finished by Controller)
  deriving DecidableEq, Repr

/-- One entry of a lost-completion record (R379, R383). -/
structure LostEntry where
  slot   : Nat
  ctrl   : Nat
  sqid   : Nat
  cid    : Nat
  opc    : Nat
  nsid   : Nat
  ended  : Bool
  changed : Bool
  status : Nat
  dw0    : Nat := 0
  dw1    : Nat := 0
  slba   : Nat := 0
  nlb    : Nat := 0
  endMs  : Nat := 0
  time   : Nat := 0                -- life time of the event that made it (R380)
  deriving DecidableEq, Repr

structure LostRecord where
  key      : HostKey
  cause    : Nat
  time     : Nat
  life     : Nat := 30
  overflow : Bool := false
  entries  : List LostEntry := []
  deriving DecidableEq, Repr

structure NvqState where
  ctrls   : Tab Ctrl := []
  slots   : Tab Cmd := []
  finish  : Nat := 0                       -- finish order counter
  fetchSeq : Nat := 0                      -- slots taken so far
  turns   : Tab Nat := []                  -- fetch pass 0 to 2 → the last controller, or 65536 × controller + SQ, that had a turn (R343)
  ns      : Tab Namespace := []
  lcr     : List LostRecord := []
  deferP  : List (HostKey × Nat × Nat × Nat) := []   -- (key, NSID, ranges, first LTN·2^24 + offset)
  resvLog : List (Nat × Nat × Nat) := []   -- Reservation Notification pages: (controller, type, NSID)
  doneJ   : Tab Nat := []                  -- NSID → newest JSEQ of writes that reached Completed
  done    : List Nat := []                 -- dirty units of writes that reached Completed
  ctrlDone : Tab (List Nat × Nat) := []    -- controller → the units and newest JSEQ of its writes that reached Completed
  bootLost : List Nat := []                -- namespaces with ranges lost before this power-on (R388)
  bootKeys : List HostKey := []            -- host keys that have had their report armed at boot (R388)
  changing : List Nat := []                -- ports in ANA Change: 0 to 7 PCIe links, 8 + lp (R353)
  act     : Nat := 0                       -- activation: 0 none, 1 drain, 2 pause
  actSlot : Option Nat := none
  fallow  : Nat := 0                       -- 0 operational, 1 entering, 2 in, 3 exiting
  wake    : Bool := false                  -- a command waits for the exit
  deriving DecidableEq, Repr

/-! ### Sluice -/

/-- What Sluice keeps per class (R396, R403, R416): `debit` is what the merge credit lacks of MERGE_BURST, in thousandths. -/
structure ClassUse where
  last    : Nat := 0       -- mean die time per die in the last period
  lastMax : Nat := 0
  debit   : Int := 0
  merges  : Nat := 0
  susp    : Nat := 0
  deriving DecidableEq, Repr

structure SluState where
  lot     : SluiceLot := {}
  pendLot : Option SluiceLot := none
  use     : Tab ClassUse := []
  charge  : Tab Nat := []          -- 256 (32 link + die) + class → µs charged this period
  debt    : Tab Nat := []          -- the same key → µs of debt
  out     : List (Nat × Nat) := [] -- host reads released: (command slot, 32 link + die)
  ctl     : Nat := 0x051404        -- SLU_CTL in force
  scale   : Tab Nat := []          -- fen → the factor of R398 in this period, µs per ms; 1,000 where none is listed
  linkUse : Tab Nat := []          -- 256 link + class → code-word bytes this period (R399)
  mereUse : Tab Nat := []          -- class → bytes of host transfers this period (R400)
  deriving DecidableEq, Repr

/-! ### PCIe, fabric, Causeway -/

structure Func where
  command  : Nat := 0
  numVfs   : Nat := 0
  vfEnable : Bool := false
  devctl   : Nat := 0
  pmcsr    : Nat := 0
  bars     : Tab Nat := []
  aerUnc   : Nat := 0
  aerCor   : Nat := 0
  regs     : Tab Nat := []
  deriving DecidableEq, Repr

structure HifState where
  funcs   : Tab Func := []        -- 256 link + function
  windows : List WindowEntry := []
  doeObj  : Tab Nat := []         -- link → partial object
  spdm    : Tab Nat := []         -- link → 0 none, 1 version, 2 capabilities, 3 negotiated
  deriving DecidableEq, Repr

/-- An RC queue pair (R442 to R447): its rate step, quiet intervals, and whether a CNP arrived in this interval. -/
structure Qp where
  lp       : Nat
  addr     : Nat
  remote   : Nat := 0
  qsize    : Nat := 0
  ready    : Bool := false
  ctrl     : Nat := 0
  sqid     : Nat := 0
  retries  : Nat := 0
  step     : Nat := 0
  quiet    : Nat := 0
  cnp      : Bool := false
  msn      : Nat := 0
  deriving DecidableEq, Repr

structure FabState where
  addrs   : Tab AddrEntry := []
  staged  : Tab Nat := []       -- 16 entry + word, written and not committed
  saved   : Bool := false       -- boot flash holds a table
  flash   : Tab AddrEntry := []
  qps     : Tab Qp := []
  storm   : Tab (List Nat) := [] -- lp → priorities under a storm, the oldest first
  xoff    : List Nat := []      -- logical ports whose partner has been sent XOFF
  auth    : Tab Nat := []       -- ctrl → DH-HMAC-CHAP: 0 none, 1 challenged, 2 succeeded
  rxUsed  : Nat := 0            -- receive-buffer entries in use
  deriving DecidableEq, Repr

/-- A datagram with a body that waits to be sent or to be acknowledged (R467): its TYPE and what its body is made from. -/
structure CwyTx where
  stream : Nat
  seq    : Nat := 0
  type   : Nat
  args   : List Nat
  deriving DecidableEq, Repr

/-- A tract that a migration stream carries from the source (R472, R479): `next` is its next unit, past the last one when
MIG_TRACT_END has been sent. -/
structure Carry where
  stream : Nat
  mig    : Nat
  tract  : Nat
  next   : Nat := 0
  deriving DecidableEq, Repr

/-- A peer-table entry and its session (R468, R470, R473). -/
structure Peer where
  serial  : Nat := 0
  roles   : Nat := 0
  addr    : Nat := 0
  secret  : Nat := 0
  state   : Nat := 0            -- as CWY_PEER_INFO.STATE
  version : Nat := 0
  session : Nat := 0
  key     : Nat := 0            -- session key
  nonce   : Nat := 0            -- nonce of the HELLO sent last
  asked   : Bool := false       -- a HELLO has been sent and not answered
  txSeq   : List Nat := List.replicate 10 0
  rxSeq   : List Nat := List.replicate 10 0
  rto     : List Nat := List.replicate 10 2   -- retransmit timeout in ms
  tx      : List CwyTx := []    -- sent, not acknowledged
  wait    : List CwyTx := []    -- held while 1,024 are not acknowledged
  carry   : List Carry := []
  beat    : Nat := 0
  deriving DecidableEq, Repr

/-- A migration (R477 to R482). -/
structure Migration where
  export_ : Bool
  peer    : Nat
  nsid    : Nat
  srcNsid : Nat := 0
  template : Nat := 0
  pass    : Nat := 0
  tracts  : Nat := 0            -- acknowledged in this pass
  lost    : List Nat := []      -- units declared lost
  sent    : Nat := 0
  frozen  : Bool := false
  final   : Bool := false       -- the pass that runs is the last
  closing : Bool := false       -- MIG_DONE has been sent
  opened  : Bool := false
  ended   : Nat := 0            -- 0 running, 1 done, 2 aborted
  reason  : Nat := 0
  todo    : List Nat := []      -- tracts of the pass not yet taken by a stream
  changed : List Nat := []      -- tracts changed since they were taken
  naks    : Tab Nat := []       -- unit → tag failures
  bad     : List Nat := []      -- units to come again
  flow    : Tab Nat := []       -- destination: stream → tract under way
  ending  : Tab (Nat × Nat) := [] -- destination: tract → stream and SEQ of a MIG_TRACT_END not yet acknowledged
  deriving DecidableEq, Repr

structure CwyState where
  peers    : Tab Peer := []
  found    : List Nat := []     -- discovered serials
  chain    : Bool := false
  chainHead : Bool := false
  chainFrom : Option Nat := none -- peer that sends the transfer, and takes reports
  chainSame : Bool := false     -- the running image is the target already (R586)
  chainOff : Nat := 0           -- bytes held
  chainLen : Nat := 0
  chainSent : Nat := 0          -- bytes sent on
  reports  : List (Nat × Nat) := []
  migs     : Tab Migration := []
  deriving DecidableEq, Repr

/-! ### Cipher, DMA, mailboxes -/

/-- A key slot (R495 to R498). -/
structure KeySlot where
  state   : Nat := 0            -- 0 empty, 1 loaded, 2 draining
  nsid    : Nat := 0
  key     : Nat := 0
  escrow  : Nat := 0            -- ESCROW_ID its records carry
  users   : Nat := 0
  nextKey : Option Nat := none
  cmd     : Option Nat := none  -- command slot that waits for the drain
  gone    : Option Namespace := none -- deleted namespace whose key-label record is still to be written (R189)
  deriving DecidableEq, Repr

structure CipState where
  slots    : Tab KeySlot := []
  escrowId : Nat := 0
  escrowKey : Nat := 0
  running  : Tab Nat := []      -- 4096 ring + slot of requests accepted, → OP
  drbgUp   : Bool := false
  stream   : Tab Nat := []      -- DMA host channel → data of its STREAM descriptor
  keysMade : Nat := 0
  waiters  : List Nat := []     -- command slots waiting for the generator
  deriving DecidableEq, Repr

/-- The descriptor a DMA channel runs or holds (R509). -/
structure DmaJob where
  op      : Nat
  ctl     : Nat
  cls     : Nat := 0             -- Sluice class charged under R400
  len     : Nat
  src     : Nat
  dst     : Nat
  dst2    : Nat
  cntlid  : Nat
  retries : Nat := 0
  done    : Nat := 0
  waitTick : Bool := false
  waitLink : Bool := false
  deriving DecidableEq, Repr

structure DmaState where
  jobs : Tab DmaJob := []       -- channel
  errs : Tab DmaError := []     -- error being retried
  deriving DecidableEq, Repr

/-- A mailbox channel (R523 to R526). -/
structure Chan where
  sender   : Nat := 0xFF
  receiver : Nat := 0xFF
  staging  : List Nat := [0, 0, 0, 0]
  queue    : List (List Nat) := []
  deriving DecidableEq, Repr

structure MbxState where
  chans : Tab Chan := []
  takeover : List Nat := []     -- pairs lost whose identities no pair has taken over yet
  waking   : List Nat := []     -- parked pairs that a push has woken
  deriving DecidableEq, Repr

/-! ### Power, seal, update, Custodian, boot, thermal -/

structure PwrState where
  lowA     : Bool := false      -- PFAIL_A_N is low
  lowB     : Bool := false
  decided  : Bool := false
  first    : Nat := 0           -- input of t0: 0 A, 1 B, 2 both
  agree    : Nat := 0           -- 0 not expected, 1 waiting, 2 agreed, 3 the window has passed, 4 recorded
  flushing : Bool := false
  pending  : List Nat := []     -- dirty units still to flush
  reserve  : List Nat := []     -- flush reserve stripes (R552)
  htMarks  : Nat := 0           -- 100 µs marks of the ride (R559)
  htDue    : Nat := 0           -- life time the next test is due
  htFailed : Bool := false
  htReq    : Bool := false      -- HT_REQ is set and no test has been armed
  ride     : Bool := false      -- an input that fell for a ride has not returned (R560)
  rails    : Nat := 0           -- bit r: rail r is in its range
  deriving DecidableEq, Repr

structure SealState where
  a        : Bool := false
  b        : Bool := false
  agreed   : Bool := false      -- last agreed level: engaged
  samples  : Nat := 0           -- samples of the disagreement at hand
  td       : Nat := 0           -- its discrepancy time
  mover    : Nat := 0           -- the input that moved: 0 A, 1 B
  fault    : Bool := false
  soft     : Bool := false
  sealed   : Bool := false
  pending  : Option Bool := none
  deriving DecidableEq, Repr

structure UpdState where
  fw1     : Option FwImage := none   -- the image that each slot holds; none where the slot is empty
  fw2     : Option FwImage := none
  fwBytes : Tab Nat := []            -- the bytes of each slot, as a little-endian number
  buf     : Nat := 0                 -- the bytes of the download buffer
  pos     : Nat := 0                 -- bytes of the delta that have been applied (R575)
  outLen  : Nat := 0                 -- target bytes written to the staging slot
  fwKey   : Nat × Nat := (0, 0)      -- the firmware-signing key, its fuse digest, whether boot step 2 found them alike (R574)
  fwDigest : Nat := 0
  keyOk   : Bool := false
  rotKey  : Nat × Nat := (0, 0)      -- the root-of-trust key and its fuse digest (R574)
  rotDigest : Nat := 0
  sel0    : SelRecord := {}          -- the two copies of the selection record, and which was written later (R572)
  sel1    : SelRecord := {}
  selLast : Nat := 0
  running : Nat := 1
  active  : Nat := 1
  pending : Nat := 0
  tries   : Nat := 0
  source  : Nat := 0            -- 0 host, 1 chain
  off     : Nat := 0            -- bytes of the download buffer
  stored  : Bool := false
  floor   : Nat := 0
  owner   : Nat := 0            -- who downloads: a CNTLID, 0xFFFF the Custodian
  isOpen  : Bool := false       -- a download or chain transfer is open
  twima   : Bool := false       -- the object is a Twima image
  failed  : Bool := false       -- the download has been refused
  deltaLen : Nat := 0           -- bytes of the delta that reached END
  commit  : Option Nat := none  -- command slot of the running Firmware Commit, 16,384 for a Custodian task
  deriving DecidableEq, Repr

structure CusState where
  isOpen   : Bool := false
  recovery : Bool := false
  nonce    : Nat := 0
  words    : List Nat := []
  fails    : Nat := 0
  lockout  : Bool := false
  number   : Nat := 0
  busy     : Option Nat := none   -- opcode of a task that waits for its end
  recoveryKey : Nat := 0
  transport : Nat := 0            -- transport key of the open session (R604)
  nowHi    : Nat := 0             -- latched by a read of LIFE_NOW_LO's mirror (R595)
  deriving DecidableEq, Repr

/-- A record of the boot journal (R621). -/
structure BootRecord where
  startNo : Nat
  time    : Nat := 0
  cause   : Nat := 0
  slots   : Nat := 0
  done    : Nat := 0
  alt     : Nat := 0
  failed  : Nat := 0
  code    : Nat := 0
  skipped : Nat := 0
  sticky  : Nat := 0
  mereSlow : Nat := 0
  seamSlow : Nat := 0
  ms      : List Nat := [0, 0, 0, 0, 0, 0, 0, 0]
  deriving DecidableEq, Repr

structure ClkState where
  fails  : Tab Nat := []          -- reference index → failed checks in a row
  lost   : List Nat := []
  deriving DecidableEq, Repr

structure BootState where
  step    : Nat := 0              -- step in progress or last ended; 0 before the first tp
  done    : Bool := false
  stopped : Bool := false
  records : List BootRecord := [] -- newest first
  optFail : Nat := 0              -- optional tasks of this start that failed: bit 0 known-answer tests, bit 1 Peat archiving
  fellBack : Bool := false        -- a firmware try has fallen back since step 8 last ended
  resetDue : Option Nat := none   -- a device reset is due, with its cause
  known    : List LostRange := [] -- ranges that were lost when this power-on period began (R388)
  smbAddr  : Nat := 0             -- straps, as latched (R639)
  testEn   : Bool := false
  vbat     : Option Nat := none   -- VBAT was lost: seconds restored to the calendar (R147)
  deriving DecidableEq, Repr

/-- The junction sensors' newest values, and whether a thermal hold runs (R655). -/
structure TmonState where
  temps : List (Option Int) := []
  hold  : Bool := false
  deriving DecidableEq, Repr

/-- Device-wide fault state: a fault arrived during another fault's restoration (R31). -/
structure GlbState where
  shortened : Bool := false
  faultN    : Bool := false       -- FAULT_N driven low
  deriving DecidableEq, Repr

/-- The SWV-8512. -/
structure State where
  pending  : List Instr
  regs     : Tab Nat
  free     : Nat
  readData : Word
  out      : List Out
  glb      : GlbState
  peat     : PeatState
  cfg      : CfgState
  life     : LifeState
  ret      : RetState
  map      : MapState
  fen      : FenState
  ldpc     : LdpcState
  hew      : HewState
  ucs      : UcsState
  seam     : SeamState
  mere     : MereState
  nvq      : NvqState
  slu      : SluState
  hif      : HifState
  fab      : FabState
  cwy      : CwyState
  cip      : CipState
  dma      : DmaState
  mbx      : MbxState
  pwr      : PwrState
  sea      : SealState
  upd      : UpdState
  cus      : CusState
  clk      : ClkState
  boot     : BootState
  tmon     : TmonState
  deriving DecidableEq, Repr

/-- The machine before any command: every register field at its reset value, every block at rest. -/
def State.reset : State :=
  { pending := [], regs := [], free := 0, readData := 0, out := [], glb := {}, peat := {}, cfg := {}, life := {}, ret := {},
    map := {}, fen := {}, ldpc := {}, hew := {}, ucs := {}, seam := {}, mere := {}, nvq := {}, slu := {}, hif := {},
    fab := {}, cwy := {}, cip := {}, dma := {}, mbx := {}, pwr := {}, sea := {}, upd := {}, cus := {}, clk := {},
    boot := {}, tmon := {} }

/-- What a meaning answers. -/
abbrev Result := Host.Outcome State Fault Refusal

end Sys2Proof.Machine
end

