-- ==== Sys2Proof/Machine/Operands.lean ====
section
/-! DEFINITION. Operand forms and accessors: register fields in the register store, bit fields of words, the access
paths of R17 and R522, and the sparse tables of the blocks. -/

namespace Sys2Proof.Machine

open Sys2Proof

/-! ### Bit fields -/

/-- Bits [lsb + width − 1 : lsb] of a number (R7). -/
def bits (v lsb width : Nat) : Nat := v / 2 ^ lsb % 2 ^ width

/-- One bit of a number (R7). -/
def bitOf (v i : Nat) : Bool := v / 2 ^ i % 2 = 1

/-- A Boolean as a bit. -/
def b2n (b : Bool) : Nat := if b then 1 else 0

/-- A list of bits as a number, bit 0 first. -/
def packBits (bs : List Bool) : Nat := bs.foldr (fun b n => b2n b + 2 * n) 0

/-- Little-endian bytes of a number (R7). -/
def leBytes (n v : Nat) : List Nat :=
  match n with
  | 0 => []
  | n + 1 => v % 256 :: leBytes n (v / 256)

/-- The number that little-endian bytes spell (R7). -/
def ofLeBytes (bs : List Nat) : Nat := bs.foldr (fun b n => b % 256 + 256 * n) 0

/-- Set or clear bit `i` of a number. -/
def putBit (v i : Nat) (b : Bool) : Nat :=
  v / 2 ^ (i + 1) * 2 ^ (i + 1) + (if b then 2 ^ i else 0) + v % 2 ^ i

/-- The number of ones among the low `n` bits. -/
def popCount (v n : Nat) : Nat :=
  match n with
  | 0 => 0
  | n + 1 => v % 2 + popCount (v / 2) n

/-- Two's-complement reading of an `n`-bit number. -/
def signed (v n : Nat) : Int := if v % 2 ^ n < 2 ^ (n - 1) then ((v % 2 ^ n : Nat) : Int) else ((v % 2 ^ n : Nat) : Int) - 2 ^ n

/-- The `n`-bit two's-complement encoding of an integer. -/
def unsigned (i : Int) (n : Nat) : Nat := (i % (2 ^ n : Int)).toNat

/-- One bit of a CRC-32C over the reflected polynomial (RFC 3720). -/
def crcBit (c : Nat) : Nat := if c % 2 = 1 then (c / 2) ^^^ 0x82F63B78 else c / 2

/-- One byte of a CRC-32C. -/
def crcByte (c b : Nat) : Nat := (List.range 8).foldl (fun c _ => crcBit c) (c ^^^ (b % 256))

/-- CRC-32C of bytes (RFC 3720; R175, R256). -/
def crc32c (bs : List Nat) : Nat := bs.foldl crcByte 0xFFFFFFFF ^^^ 0xFFFFFFFF

/-- Add an element that the list does not hold yet. -/
def addNew {α : Type} [DecidableEq α] (x : α) (l : List α) : List α := if x ∈ l then l else l ++ [x]

/-- Remove an element. -/
def dropOne {α : Type} [DecidableEq α] (x : α) (l : List α) : List α := l.filter (fun y => decide (y ≠ x))

/-- The first element that a test accepts, with its index. -/
def firstIndex {α : Type} (p : α → Bool) (l : List α) (i : Nat := 0) : Option Nat :=
  match l with
  | [] => none
  | x :: r => if p x then some i else firstIndex p r (i + 1)

/-- Replace element `i` of a list. -/
def setAt {α : Type} (l : List α) (i : Nat) (v : α) : List α := l.set i v

/-! ### Register fields (R9 to R15): one home for each field instance -/

/-- The stored value of instance `i` of a field. -/
def State.rd (s : State) (f : Field) (i : Nat := 0) : Nat := Tab.get f.reset s.regs (f.key i)

/-- Store a value, cut to the field's width, in instance `i` of a field. -/
def State.wr (s : State) (f : Field) (v : Nat) (i : Nat := 0) : State :=
  { s with regs := Tab.set f.reset s.regs (f.key i) (v % 2 ^ f.width) }

/-- Count `n` events in a counter field, saturating at all ones (R10). -/
def State.count (s : State) (f : Field) (n : Nat := 1) (i : Nat := 0) : State :=
  s.wr f (min (2 ^ f.width - 1) (s.rd f i + n)) i

/-- Whether a one-bit field reads 1. -/
def State.isSet (s : State) (f : Field) (i : Nat := 0) : Bool := decide (s.rd f i = 1)

/-- A write of a Boolean field. -/
def State.wrB (s : State) (f : Field) (b : Bool) (i : Nat := 0) : State := s.wr f (b2n b) i

/-- A write of one bit of a field. -/
def State.wrBit (s : State) (f : Field) (bit : Nat) (b : Bool) (i : Nat := 0) : State :=
  s.wr f (putBit (s.rd f i) bit b) i

/-! ### The outputs of a command -/

/-- A command begins: the outputs of the command before it are gone. -/
def State.begin (s : State) : State := { s with out := [] }

/-- Send one output. -/
def State.emit (s : State) (o : Out) : State := { s with out := s.out ++ [o] }

/-- A register read returns a word. -/
def State.answer (s : State) (v : Nat) : State := { s with readData := BitVec.ofNat 32 v }

/-! ### Access paths (R17, R522) -/

/-- The key of a path's Expert level: one per expert window, one for the Custodian session (R17). -/
def pathKey (p : AccessPath) : Option Nat :=
  match p with
  | .expertWindow l f => some (4 * l.val + f.val)
  | .custodian => some 32
  | .firmware _ => none
  | .hardware _ => none
  | .reginit => none

/-! ### Locating a register (R11, R12, R19) -/

/-- The instance of a register at an offset. -/
def Reg.at (r : Reg) (off : Nat) : Option Nat :=
  match r.dims with
  | [] => if off = r.base then some 0 else none
  | [(st, n)] =>
    if r.base ≤ off ∧ (off - r.base) % st = 0 ∧ (off - r.base) / st < n then some ((off - r.base) / st) else none
  | (st, n) :: (st2, n2) :: _ =>
    if r.base ≤ off ∧ (off - r.base) / st < n ∧ (off - r.base) % st % st2 = 0 ∧ (off - r.base) % st / st2 < n2 then
      some ((off - r.base) / st * n2 + (off - r.base) % st / st2)
    else none

/-- The register at an offset among a list, with its instance. -/
def locateIn (t : List Reg) (off : Nat) : Option (Reg × Nat) :=
  match t with
  | [] => none
  | r :: rest =>
    match r.at off with
    | some i => some (r, i)
    | none => locateIn rest off

/-- The register at an offset of the window; none at a reserved offset (R12, R19). -/
def locate (off : Nat) : Option (Reg × Nat) := locateIn regTable off

/-! ### Records of the blocks -/

def State.ctrl? (s : State) (c : Nat) : Option Ctrl := s.nvq.ctrls.find c
def State.slot? (s : State) (n : Nat) : Option Cmd := s.nvq.slots.find n
def State.ns? (s : State) (n : Nat) : Option Namespace := s.nvq.ns.find n

/-- Put a controller's record. -/
def State.putCtrl (s : State) (c : Nat) (v : Ctrl) : State := { s with nvq := { s.nvq with ctrls := s.nvq.ctrls.put c v } }

/-- Put a command slot's record. -/
def State.putSlot (s : State) (n : Nat) (v : Cmd) : State := { s with nvq := { s.nvq with slots := s.nvq.slots.put n v } }

/-- Free a command slot. -/
def State.delSlot (s : State) (n : Nat) : State := { s with nvq := { s.nvq with slots := s.nvq.slots.del n } }

/-- Put a namespace's record. -/
def State.putNs (s : State) (n : Nat) (v : Namespace) : State := { s with nvq := { s.nvq with ns := s.nvq.ns.put n v } }

/-- Replace the map structures. -/
def State.setCore (s : State) (c : MapCore) : State := { s with map := { s.map with core := c } }

/-- The hewer descriptor in flight slot `k` of hewer `h`. -/
def State.held? (s : State) (h k : Nat) : Option Held := s.hew.held.find (128 * h + k)

def State.putHeld (s : State) (h k : Nat) (v : Held) : State :=
  { s with hew := { s.hew with held := s.hew.held.put (128 * h + k) v } }

def State.delHeld (s : State) (h k : Nat) : State :=
  { s with hew := { s.hew with held := s.hew.held.del (128 * h + k) } }

/-- The link record of a Seam link. -/
def State.link (s : State) (l : Nat) : LinkState := Tab.get {} s.seam.links l

def State.putLink (s : State) (l : Nat) (v : LinkState) : State :=
  { s with seam := { s.seam with links := Tab.set {} s.seam.links l v } }

/-- The Twima image in force, the reference build where none has been applied (R15 "Twima"; log entry 3). -/
def State.image (s : State) : TwimaImage := s.cfg.run.getD { imageLen := 0, serial := 0 }

/-- The block record of a member block. -/
def State.block (s : State) (l b : Nat) : Block := Tab.get {} s.map.blocks (1048576 * l + b)

def State.putBlock (s : State) (l b : Nat) (v : Block) : State :=
  { s with map := { s.map with blocks := Tab.set {} s.map.blocks (1048576 * l + b) v } }

end Sys2Proof.Machine
end

