-- ==== Sys2Proof/Machine/Image.lean ====
section
/-! DEFINITION. A Twima image read from the bytes of its slot: header, lot directory, bodies and signature (R36 to R38, R40), and the
bodies whose layout the manual gives. -/

namespace Sys2Proof.Machine

open Sys2Proof

/-- `n` bytes of a little-endian byte string from byte `o`, as a number (R7). -/
def byteField (v o n : Nat) : Nat := v / 2 ^ (8 * o) % 2 ^ (8 * n)

/-- `n` bytes from byte `o` with a 1 above the last byte, so that leading zero bytes count. -/
def byteSpan (v o n : Nat) : Nat := byteField v o n + 2 ^ (8 * n)

/-- Entry i of the directory (R37). -/
def dirEntry (v i : Nat) : DirEntry :=
  let o := 64 + 64 * i
  { type := byteField v o 1, flags := byteField v (o + 1) 1, res1 := byteField v (o + 2) 2, off := byteField v (o + 4) 4,
    len := byteField v (o + 8) 4, res2 := byteField v (o + 12) 4, digest := byteField v (o + 16) 48 }

/-- The body of the first directory entry of a type, with a 1 above its last byte; 1, no byte, where there is none. -/
def bodyOf (v : Nat) (dir : List DirEntry) (t : Nat) : Nat :=
  match dir.find? (fun e => decide (e.type = t)) with
  | some e => byteSpan v e.off e.len
  | none => 1

/-- Bytes of a body that carries a 1 above its last byte. -/
def bodyLen (b : Nat) : Nat := Nat.log2 b / 8

/-! ### Bodies whose layout the manual gives -/

/-- A value that stands for any: all ones of its width. -/
def anyOr (v width : Nat) : Option Nat := if v = 2 ^ width - 1 then none else some v

/-- SLUICE (R393, R394): a body of any other shape breaks its layout. -/
def sluiceBody (b : Nat) : SluiceLot :=
  let c := byteField b 2 2
  let r := byteField b 4 2
  let h := byteField b 6 2
  let ro := 16 + 32 * c
  let ho := ro + 12 * r
  let recs := (List.range c).map (fun i =>
    let o := 16 + 32 * i
    ({ cls := i, flags := byteField b o 1, dieGuar := byteField b (o + 2) 2, dieCeil := byteField b (o + 4) 2,
       linkGuar := byteField b (o + 6) 1, linkCeil := byteField b (o + 7) 1, mereCeil := byteField b (o + 8) 2,
       dirtyMax := byteField b (o + 10) 1, mergePar := byteField b (o + 11) 1, mergeRate := byteField b (o + 12) 2,
       mergeBurst := byteField b (o + 14) 1, refreshCr := byteField b (o + 15) 1 } : ClassRec))
  let zero := (List.range c).all (fun i => decide (byteField b (17 + 32 * i) 1 = 0 ∧ byteField b (32 + 32 * i) 16 = 0 ∧
      byteField b (16 + 32 * i) 1 < 2)) &&
    (List.range r).all (fun i => decide (byteField b (ro + 12 * i + 9) 3 = 0)) &&
    (List.range h).all (fun i => decide (byteField b (ho + 8 * i + 5) 3 = 0))
  { layoutOk := decide (byteField b 0 2 = 1 ∧ 1 ≤ c ∧ c ≤ 256 ∧ r ≤ 4096 ∧ h ≤ 4096 ∧ byteField b 8 8 = 0 ∧ bodyLen b = ho + 8 * h) && zero,
    classes := recs,
    rules := (List.range r).map (fun i =>
      let o := ro + 12 * i
      { cntlid := anyOr (byteField b o 2) 16, sqid := anyOr (byteField b (o + 2) 2) 16, nsid := anyOr (byteField b (o + 4) 4) 32,
        cls := byteField b (o + 8) 1 }),
    homes := (List.range h).map (fun i => (byteField b (ho + 8 * i) 4, byteField b (ho + 8 * i + 4) 1)) }

/-- WINDOWS (R426): whether the layout is right, and the entries. -/
def windowsBody (b : Nat) : Bool × List WindowEntry :=
  let n := byteField b 2 2
  (decide (byteField b 0 2 = 1 ∧ n ≤ 1020 ∧ byteField b 4 12 = 0 ∧ bodyLen b = 16 + 16 * n) &&
    (List.range n).all (fun i => decide (byteField b (19 + 16 * i) 1 < 2 ∧ byteField b (29 + 16 * i) 3 = 0)),
   (List.range n).map (fun i =>
    let o := 16 + 16 * i
    { link := byteField b o 1, func := byteField b (o + 1) 1, index := byteField b (o + 2) 1, write := decide (byteField b (o + 3) 1 = 1),
      barOff := byteField b (o + 4) 4, target := byteField b (o + 8) 4, sizeLog2 := byteField b (o + 12) 1 }))

/-- REGINIT (R42): 12-byte entries. -/
def reginitBody (b : Nat) : ReginitLot :=
  { layoutOk := decide (bodyLen b % 12 = 0),
    entries := (List.range (bodyLen b / 12)).map (fun i => (byteField b (12 * i) 4, byteField b (12 * i + 4) 4, byteField b (12 * i + 8) 4)) }

/-- The key that RFC 3394 unwraps from a wrapped form, none where the integrity check fails: wrapping it again does not give the
form back. -/
def unwrapKey (kek w : Nat) : Option Nat :=
  let k := Config.keyUnwrap kek w
  if Config.keyWrap kek k = w then some k else none

/-- SECURITY: its keys are unwrapped under the configuration key (R55, R596). -/
def securityBody (kek b : Nat) : SecurityLot :=
  let x := Config.securityLot b
  { x with expertKey := unwrapKey kek x.wrapExpert, custodianKey := unwrapKey kek x.wrapCustodian }

/-! ### The image -/

/-- The image that the bytes of a slot make (R36 to R38): `v` the bytes, `n` how many the slot holds, `kek` the configuration key. -/
def parseImage (kek v n : Nat) : TwimaImage :=
  let len := byteField v 8 4
  let dir := (List.range (min 13 (byteField v 6 2))).map (dirEntry v)
  let sig := len - 104
  { magic := BitVec.ofNat 32 (byteField v 0 4), format := BitVec.ofNat 16 (byteField v 4 2), lotCount := byteField v 6 2,
    imageLen := len, serial := byteField v 12 4, partId := BitVec.ofNat 64 (byteField v 16 8), bind := byteField v 24 8,
    buildTime := byteField v 32 8, reserved := byteField v 40 24, held := n, dir := dir,
    bodies := dir.map (fun e => Config.sha384 (byteSpan v e.off e.len)),
    sigHash := Config.sha384 (byteSpan v 0 sig), sigR := byteField v sig 48, sigS := byteField v (sig + 48) 48,
    sigRes := byteField v (sig + 96) 8,
    struct_ := Config.structLot (bodyOf v dir 1), clock := Config.clockLot (bodyOf v dir 2), hostfn := Config.hostfnLot (bodyOf v dir 3),
    windows := windowsBody (bodyOf v dir 4), nvmectl := Config.nvmectlLot (bodyOf v dir 5), nstpl := Config.nstplLot (bodyOf v dir 6),
    sluice := sluiceBody (bodyOf v dir 7), engine := Config.engineLot (bodyOf v dir 8), mbxlock := Config.mbxLot (bodyOf v dir 9),
    ucode := Config.ucodeLot (bodyOf v dir 10), reginit := reginitBody (bodyOf v dir 11), security := securityBody kek (bodyOf v dir 12),
    power := Config.powerLot (bodyOf v dir 13) }

/-- The bytes of a part of a slot as the image that the slot holds: a slot of no bytes holds none. -/
def slotParse (kek v n : Nat) : Option TwimaImage := if n = 0 then none else some (parseImage kek v n)

/-- The lot types that the directory names. -/
def lotTypes (i : TwimaImage) : List Nat := i.dir.map DirEntry.type

/-- Every directory entry is in order (R37): flags and reserved bytes 0, the body on a 64-byte boundary after the directory and before
the signature, no two bodies overlapping. -/
def dirOk (i : TwimaImage) : Bool :=
  i.dir.all (fun e => decide (e.flags = 0 ∧ e.res1 = 0 ∧ e.res2 = 0 ∧ e.off % 64 = 0 ∧ 64 + 64 * i.lotCount ≤ e.off ∧ e.off + e.len + 104 ≤ i.imageLen)) &&
    decide (i.dir.Pairwise (fun a b => a.off + a.len ≤ b.off ∨ b.off + b.len ≤ a.off))

/-- The signature verifies under the image-signing key (R38), whose digest boot step 2 has compared with the fuses. -/
def sigOk (key : Nat × Nat) (i : TwimaImage) : Bool := ecdsaOk key i.sigHash i.sigR i.sigS

/-- Every body has the digest of its entry (R37). -/
def digestsOk (i : TwimaImage) : Bool := decide (i.bodies = i.dir.map DirEntry.digest)

end Sys2Proof.Machine
end

