-- ==== Sys2Proof/Machine/Code.lean ====
section
/-! DEFINITION. The codes of the media: the stripe code over GF(2^8) (R103 to R106), the LDPC code of a code word (R167 to R171),
the CRC-16 of labels (R172) and the pattern of core pages (R191). Functions of numbers alone. -/

namespace Sys2Proof.Machine

open Sys2Proof

/-! ### GF(2^8), byte by byte (R103): a number holds one field element in each of its bytes -/

/-- Bytes of one slot's share of a code-word position: the payload and the stripe-coded half (R105). -/
def symbolBytes : Nat := 4128

/-- A 1 in every byte of a share. -/
def gfOnes : Nat := (2 ^ (8 * symbolBytes) - 1) / 255

/-- Every byte times α = 0x02, modulo 0x11D. -/
def gfDouble (v : Nat) : Nat := ((v &&& (127 * gfOnes)) <<< 1) ^^^ (((v >>> 7) &&& gfOnes) * 0x1D)

/-- Every byte times the low `n` bits of the field element `c`. -/
def gfScaleBits (n c v : Nat) : Nat :=
  match n with
  | 0 => 0
  | n + 1 => (if c % 2 = 1 then v else 0) ^^^ gfScaleBits n (c / 2) (gfDouble v)

/-- Every byte times the field element `c`. -/
def gfScale (c v : Nat) : Nat := gfScaleBits 8 c v

/-- A power of a field element. -/
def gfPow (a n : Nat) : Nat :=
  match n with
  | 0 => 1
  | n + 1 => gfScale a (gfPow a n)

/-- α^n. -/
def gfAlpha (n : Nat) : Nat := gfPow 2 (n % 255)

/-- The inverse of a field element that is not 0. -/
def gfInv (a : Nat) : Nat := gfPow a 254

/-- A polynomial, its highest coefficient first, times x + a. -/
def polyTimes (a : Nat) (c : List Nat) : List Nat := List.zipWith (· ^^^ ·) (c ++ [0]) (0 :: c.map (gfScale a))

/-- The product of x + a over a list, its highest coefficient first. -/
def polyOf (l : List Nat) : List Nat := l.foldl (fun c a => polyTimes a c) [1]

/-- The generator polynomial of p parity symbols (R104). -/
def genPoly (p : Nat) : List Nat := polyOf ((List.range p).map gfAlpha)

/-! ### The stripe code (R105, R106) -/

/-- One data symbol enters the division by g(x): the remainder so far, the coefficient of x^(p−1) first. -/
def rsStep (g : List Nat) (r : List Nat) (d : Nat) : List Nat :=
  let fb := d ^^^ r.headD 0
  List.zipWith (fun x c => x ^^^ gfScale c fb) (r.drop 1 ++ [0]) (g.drop 1)

/-- The p parity shares of k data shares (R105): the remainder of m(x) x^p by g(x), slot k first. -/
def rsParity (p : Nat) (data : List Nat) : List Nat := data.foldl (rsStep (genPoly p)) (List.replicate p 0)

/-- c(α^j) of the 28 shares of a codeword (R106). -/
def rsSyndrome (word : List Nat) (j : Nat) : Nat := word.foldl (fun a c => gfScale (gfAlpha j) a ^^^ c) 0

/-- A codeword is valid (R106). -/
def rsValid (p : Nat) (word : List Nat) : Bool := (List.range p).all (fun j => decide (rsSyndrome word j = 0))

/-- The share of slot `e` that the p equations of R106 give, where the slots of `erased` (among them `e`) hold 0 in `word`: the
combination of the syndromes in which every other erased share has the coefficient 0. -/
def rsSolve (word : List Nat) (erased : List Nat) (e : Nat) : Nat :=
  let c := (polyOf ((erased.filter (fun f => decide (f ≠ e))).map (fun f => gfAlpha (27 - f)))).reverse
  let x := gfAlpha (27 - e)
  let value := (c.foldr (fun a v => gfScale x v ^^^ a) 0)
  gfScale (gfInv value) ((c.zipIdx.map (fun a => gfScale a.1 (rsSyndrome word a.2))).foldl (· ^^^ ·) 0)

/-! ### The LDPC code (R167 to R171) -/

/-- Block column j of a code word: bits 512 j to 512 j + 511 (R168). -/
def blockColumn (w j : Nat) : Nat := bits w (512 * j) 512

/-- The circulant P^n (R168). -/
def circulant (n x : Nat) : Nat := (x >>> (n % 512)) ^^^ ((x <<< (512 - n % 512)) % 2 ^ 512)

/-- The rows among 0 to 6 in which an information column has a circulant (R169). -/
def columnRows (j : Nat) : List Nat := [j % 7, (j + 2) % 7, (j + 5) % 7]

/-- The shift of the circulant in a row and an information column (R169). -/
def ldpcShift (r j : Nat) : Nat := ((2 * r + 1) * (j + 7) ^ 2 + 19 * r) % 512

/-- s[r] of R171: the information columns' part of check row r. -/
def infoCheck (w r : Nat) : Nat :=
  ((List.range 65).filter (fun j => decide (r ∈ columnRows j))).foldl (fun a j => a ^^^ circulant (ldpcShift r j) (blockColumn w j)) 0

/-- p[0] to p[6] of R171. -/
def ldpcParity (w : Nat) : List Nat :=
  ((List.range 7).foldl (fun (a : List Nat × Nat) r => let p := infoCheck w r ^^^ a.2; (a.1 ++ [p], p)) ([], 0)).1

/-- Check row r, 0 to 6, of a code word (R169). -/
def checkRow (w r : Nat) : Nat :=
  infoCheck w r ^^^ blockColumn w (65 + r) ^^^ (if r = 0 then 0 else blockColumn w (64 + r))

/-- Block row 7: the sum of rows 0 to 6 (R170). -/
def checkRow7 (w : Nat) : Nat := (List.range 7).foldl (fun a r => a ^^^ checkRow w r) 0

/-- A code word satisfies every check (R170, R171). -/
def ldpcValid (w : Nat) : Bool := (List.range 7).all (fun r => decide (checkRow w r = 0))

/-- The 4,608 bytes of a code word from its payload and the two halves of its label share (R167, R171). -/
def encodeCodeWord (payload ident coded : Nat) : Nat :=
  let info := payload % 2 ^ 32768 + 2 ^ 32768 * (ident % 2 ^ 256) + 2 ^ 33024 * (coded % 2 ^ 256)
  info + 2 ^ 33280 * (ldpcParity info).foldr (fun p n => p + 2 ^ 512 * n) 0

/-! ### Labels and core pages (R172, R191) -/

/-- One bit of a CRC-16 of polynomial 0x1021. -/
def crc16Bit (c : Nat) : Nat := if 0x8000 ≤ c then (2 * c) % 0x10000 ^^^ 0x1021 else 2 * c

/-- One byte of a CRC-16. -/
def crc16Byte (c b : Nat) : Nat := (List.range 8).foldl (fun c _ => crc16Bit c) (c ^^^ (256 * (b % 256)))

/-- The CRC-16 of labels (R172): initial 0xFFFF, no reflection, no final XOR. -/
def crc16 (bs : List Nat) : Nat := bs.foldl crc16Byte 0xFFFF

/-- A label of `n` bytes without its CRC16, closed by it (R172, R173). -/
def withCrc16 (n v : Nat) : Nat := v % 2 ^ (8 * n) + 2 ^ (8 * n) * crc16 (leBytes n v)

/-- `n` bits of the 31-bit register of R191 from a state, the first bit lowest. -/
def coreBits (n state : Nat) : Nat :=
  match n with
  | 0 => 0
  | n + 1 =>
    let b := (bits state 30 1 + bits state 27 1) % 2
    b + 2 * coreBits n ((2 * state + b) % 2 ^ 31)

/-- The seed of a core-page code word (R191). -/
def coreSeed (group link page w : Nat) : Nat := 1 + (((group * 512 + link) * 2048 + page) * 4 + w)

/-- The payload of a core-page code word (R191). -/
def corePayload (group link page w : Nat) : Nat := coreBits 32768 (coreSeed group link page w)

end Sys2Proof.Machine
end

