-- ==== Sys2Proof/Machine/Geometry.lean ====
section
/-! DEFINITION. What the map says: geometry, members, blocks, stripes, capacity, namespaces' tracts, dirty units and the
resolution of a tract unit (chapters "Tracts, stripes and the map", "Fens, declustered stripes and rebuild"). -/

namespace Sys2Proof.Machine

open Sys2Proof

/-! ### Geometry (R64 to R66, R78, R90) -/

/-- Data slots of a stripe (R64). -/
def geoK (s : State) : Nat := s.image.struct_.k

/-- Parity slots (R103). -/
def geoP (s : State) : Nat := 28 - geoK s

/-- The GEOM encoding (R73). -/
def geomCode (s : State) : Nat := if geoK s = 24 then 0 else if geoK s = 26 then 1 else 2

/-- Units of a row: four code words in each data slot (R65). -/
def rowUnits (s : State) : Nat := 4 * geoK s

/-- Units of a tract (R66). -/
def tractUnits (s : State) : Nat := 8192 * geoK s

/-- The row, data slot and code word of a tract unit (R65). -/
def unitPlace (s : State) (u : Nat) : Nat × Nat × Nat :=
  (u / rowUnits s, u % rowUnits s / 4, u % 4)

/-- Log units of a log stripe (R81). -/
def logCapacity (s : State) : Nat := 2048 * geoK s

/-- Bytes of a tract (R65). -/
def tractBytes (s : State) : Nat := 33554432 * geoK s

/-- Fens of the image (R43). -/
def fenCount (s : State) : Nat := s.image.struct_.fens

/-- Allocatable blocks of a member: by the SIZE of its calibration row (R68, R287), a 16 TB member where none has been
read. -/
def memberBlocks (s : State) (link : Nat) : Nat :=
  match s.ret.cal.find link with
  | some r => if r.readable = false then 465661 else if r.size = 0 then 232830 else if r.size = 2 then 931322 else 465661
  | none => 465661

/-- ⌈a × num ÷ den⌉ -/
def ceilFrac (a num den : Nat) : Nat := (a * num + den - 1) / den

/-! ### Members (R41, R108, R110) -/

/-- The link of member index `i` of fen `f`: a MEMBERSHIP record, else STRUCT, else the reference weaving (log entry
6). 0xFFFF is out of service. -/
def memberLink (s : State) (f i : Nat) : Nat :=
  match s.map.core.members.find (32 * f + i) with
  | some l => l
  | none => ((s.image.struct_.members.find? (fun e => e.1 = 32 * f + i)).map Prod.snd).getD (32 * f + i)

/-- The member indexes of every fen, as (32 f + i). -/
def memberKeys (s : State) : List Nat := List.range (32 * fenCount s)

/-- The member index that a link holds, as 32 f + i. -/
def linkMember (s : State) (l : Nat) : Option Nat := (memberKeys s).find? (fun k => memberLink s (k / 32) (k % 32) = l)

/-- The fen of a link. -/
def linkFen (s : State) (l : Nat) : Nat := match linkMember s l with | some k => k / 32 | none => l / 32

/-- A member is in service: neither absent nor retired (R110). -/
def inService (s : State) (f i : Nat) : Bool :=
  let l := memberLink s f i
  decide (l ≠ 0xFFFF) && (s.fen.absent.find l).isNone && decide (l ∉ s.fen.retired)

/-- A link's encoder is fenced off and no encoder of its group carries its writes (R214). -/
def encoderOut (s : State) (l : Nat) : Bool :=
  bitOf (s.rd F.LDPC_ENC_FENCED_FENCED (l / 32)) (l % 32) && (s.ldpc.encPartner.find l).isNone

/-- A member on which a new block may be placed (R88): in service and not retiring. -/
def takesBlocks (s : State) (f i : Nat) : Bool := inService s f i && decide (memberLink s f i ∉ s.fen.draining) && !encoderOut s (memberLink s f i)

/-- The Seam lane of a link: the image's, else the reference weaving (R266; log entry 6). -/
def laneOf (s : State) (l : Nat) : Nat :=
  ((s.image.struct_.lanes.find? (fun e => e.1 = l)).map Prod.snd).getD (l % 16 * 32 + l / 16)

/-- The PLL group of a link: 32 lanes each (R266). -/
def groupOf (s : State) (l : Nat) : Nat := laneOf s l / 32

/-- Dies of a member, from IDENT_DATA (R286); 32 until it has answered. -/
def diesOf (s : State) (l : Nat) : Nat := let d := (s.link l).identDies; if d = 0 then 32 else d

/-! ### Blocks (R67, R87, R88) -/

/-- The block records listed for a link, as (block, record). -/
def linkBlocks (s : State) (l : Nat) : List (Nat × Block) :=
  (s.map.blocks.filter (fun e => e.1 / 1048576 = l)).map (fun e => (e.1 % 1048576, e.2))

/-- Factory-bad blocks of a link in [a, b) (R288). -/
def badBetween (s : State) (l a b : Nat) : Nat :=
  ((linkBlocks s l).filter (fun e => decide (e.2.use = .factoryBad ∧ a ≤ e.1 ∧ e.1 < b))).length

/-- Factory-bad blocks of a link from block 64 on. -/
def factoryBad (s : State) (l : Nat) : Nat := badBetween s l 64 (2 ^ 20)

/-- A block's ordinal (R165): its position among the good blocks from 64 on. -/
def ordinal (s : State) (l b : Nat) : Nat := b - 64 - badBetween s l 64 b

/-- A block is allocatable (R165): one of the first B good blocks numbered 64 or above. -/
def allocatable (s : State) (l b : Nat) : Bool :=
  decide (64 ≤ b) && decide ((s.block l b).use ≠ .factoryBad) && decide (ordinal s l b < memberBlocks s l)

/-- The good blocks of a member's reserved area, ascending (R165). -/
def reservedGood (s : State) (l : Nat) : List Nat := (List.range 64).filter (fun b => decide ((s.block l b).use ≠ .factoryBad))

/-- The anchor blocks (R165): the two lowest good blocks of the reserved area. -/
def anchorBlocks (s : State) (l : Nat) : List Nat := (reservedGood s l).take 2

/-- The witness blocks (R165): the next 16 good blocks, groups 0 to 15. -/
def witnessBlocks (s : State) (l : Nat) : List Nat := ((reservedGood s l).drop 2).take 16

/-- A block's place in the per-block arrays of a checkpoint (R165): link × B + ordinal. -/
def blockIndex (s : State) (l b : Nat) : Nat := l * memberBlocks s l + ordinal s l b

/-- A block that a record lists as free may be allocated: one of a hot-added member only once it has been erased (R124). -/
def freeListed (s : State) (l : Nat) (r : Block) : Bool := decide (r.use = .free) && (r.joined || decide (l ∉ s.fen.coming))

/-- Free blocks of a member (R88): its allocatable blocks less those listed in another use. -/
def freeBlocks (s : State) (l : Nat) : Nat :=
  if l ∈ s.fen.coming then ((linkBlocks s l).filter (fun e => freeListed s l e.2)).length
  else memberBlocks s l - ((linkBlocks s l).filter (fun e => decide (e.2.use ≠ .free ∧ e.2.use ≠ .factoryBad ∧ 64 ≤ e.1))).length

/-- Blocks of a member open for program on a die (R88). -/
def openOnDie (bs : List (Nat × Block)) (dies d : Nat) : Nat :=
  (bs.filter (fun e => decide (e.2.use = .open) && decide (e.1 % dies = d))).length

/-- The lowest allocatable block of a die that no record lists, from `n` on. -/
def firstUnlisted (bs : List (Nat × Block)) (dies fuel n : Nat) : Nat :=
  match fuel with
  | 0 => n
  | fuel + 1 => if bs.any (fun e => e.1 = n) then firstUnlisted bs dies fuel (n + dies) else n

/-- The better of two candidates (wear, blocks open on its die, block number) (R88). -/
def betterBlock (a b : Nat × Nat × Nat) : Nat × Nat × Nat :=
  if a.1 < b.1 ∨ (a.1 = b.1 ∧ (a.2.1 < b.2.1 ∨ (a.2.1 = b.2.1 ∧ a.2.2 < b.2.2))) then a else b

/-- The least-worn free block of a member with its wear (R88): ties to the die with the fewest open blocks, then the
lowest number. A block with no record is free with wear 0. -/
def leastWorn (s : State) (l : Nat) : Option (Nat × Nat) :=
  let bs := linkBlocks s l
  let dies := diesOf s l
  let listed := (bs.filter (fun e => freeListed s l e.2)).map
    (fun e => (e.2.wear, openOnDie bs dies (e.1 % dies), e.1))
  let fresh := ((List.range dies).filter (fun d => decide (32 * l + d ∉ s.fen.deadDies ∧ l ∉ s.fen.coming))).filterMap (fun d =>
    let n := firstUnlisted bs dies bs.length (64 + (d + dies - 64 % dies) % dies)
    if ordinal s l n < memberBlocks s l then some (0, openOnDie bs dies d, n) else none)
  match listed ++ fresh with
  | [] => none
  | c :: rest => let b := rest.foldl betterBlock c; some (b.1, b.2.2)

/-! ### Addresses and stripes (R68, R69, R73) -/

/-- A member-block address (R69). -/
def blockAddr (i b : Nat) (spare : Bool) : Nat := b % 1048576 + 1048576 * (i % 32) + (if spare then 2 ^ 31 else 0)

/-- The link and block that an address names in a fen. -/
def addrPlace (s : State) (f a : Nat) : Nat × Nat := (memberLink s f (a / 1048576 % 32), a % 1048576)

/-- A stripe's entry; free where the table lists none. -/
def stripeOf (s : State) (id : Nat) : Stripe := Tab.get {} s.map.core.stripes id

/-- A stripe's fen (R68). -/
def stripeFen (id : Nat) : Nat := id / 2 ^ 24 % 16

/-- A tract's entry (R71). -/
def tractOf (s : State) (ltn : Nat) : Tract := Tab.get {} s.map.core.tracts ltn

/-- Stripes the device holds of a fen and kind test. -/
def stripesWhere (s : State) (p : Nat → Stripe → Bool) : List (Nat × Stripe) :=
  s.map.core.stripes.filter (fun e => decide (e.2.kind ≠ 0) && p e.1 e.2)

/-! ### Stockpile, Sump and capacity (R78, R90, R100) -/

/-- The link that STRUCT gives a member index (R108). -/
def structMember (s : State) (k : Nat) : Nat := ((s.image.struct_.members.find? (fun e => e.1 = k)).map Prod.snd).getD k

/-- Allocatable blocks of a fen; a member out of service counts as STRUCT has it (R125). -/
def fenBlocks (s : State) (f : Nat) : Nat :=
  (List.range 32).foldl (fun a i =>
    a + memberBlocks s (if memberLink s f i = 0xFFFF then structMember s (32 * f + i) else memberLink s f i)) 0

/-- The Stockpile floor (R90, R125). -/
def stockFloor (s : State) (f : Nat) : Nat := ceilFrac (fenBlocks s f) s.image.struct_.stockPct 100

/-- The metadata reservation (R90). -/
def metaReserve (s : State) (f : Nat) : Nat := ceilFrac (fenBlocks s f) 1 200

/-- Usable tracts: what Stockpile, the Sump floor and the metadata area leave of every fen, in whole stripes (R100). -/
def usableTracts (s : State) : Nat :=
  (List.range (fenCount s)).foldl (fun a f =>
    a + (fenBlocks s f - stockFloor s f - ceilFrac (fenBlocks s f) 1 400 - metaReserve s f) / 28) 0

/-- Tracts not UNMAPPED (R78). -/
def mappedTracts (s : State) : Nat := (s.map.core.tracts.filter (fun e => decide (e.2.state ≠ .unmapped))).length

/-- ⌊100 f⌋ (R78, R99). -/
def fillPct (s : State) : Nat := 100 * mappedTracts s / max 1 (usableTracts s)

/-- The whole percent that f crossed last, given the one before (R78): f may lie up to one percent to either side of it. -/
def percentCrossed (s : State) : Nat :=
  let n := 100 * mappedTracts s
  let d := max 1 (usableTracts s)
  if s.map.fillAt < n / d then n / d
  else if (n + d - 1) / d < s.map.fillAt then (n + d - 1) / d
  else s.map.fillAt

/-- The Sump target in 0.01 % of raw: 300 − 275 f, at the whole percent last crossed (R78, R101; rounded up to 0.01 %: log
entry 72). -/
def sumpTarget (s : State) : Nat := 300 - 275 * percentCrossed s / 100

/-- The Sump target of a fen in blocks, rounded up (R78). -/
def sumpTargetBlocks (s : State) (f : Nat) : Nat := ceilFrac (fenBlocks s f) (30000 - 275 * percentCrossed s) 1000000

/-- Blocks the Sump holds in a fen. -/
def sumpBlocks (s : State) (f : Nat) : Nat :=
  28 * (stripesWhere s (fun id e => decide (stripeFen id = f ∧ e.kind = 2))).length

/-- Blocks of KIND 4 to 7 in a fen (R90). -/
def metaBlocks (s : State) (f : Nat) : Nat :=
  28 * (stripesWhere s (fun id e => decide (stripeFen id = f ∧ 4 ≤ e.kind))).length

/-- Free blocks of the fen's members in service (R125). -/
def fenFree (s : State) (f : Nat) : Nat :=
  (List.range 32).foldl (fun a i => a + if inService s f i then freeBlocks s (memberLink s f i) else 0) 0

/-- Free blocks outside the Sump and outside the unused metadata reservation (R90). -/
def fenSpare (s : State) (f : Nat) : Nat :=
  fenFree s f - (sumpTargetBlocks s f - sumpBlocks s f) - (metaReserve s f - metaBlocks s f)

/-- MAP_STOCK.LEFT (R90). -/
def stockLeft (s : State) (f : Nat) : Nat := min (stockFloor s f) (fenSpare s f)

/-- Sump rows in use by a valid row-table entry. -/
def sumpRowsUsed (s : State) : Nat := s.map.core.rows.length

/-- Rows of the Sump stripes that the target comes to. -/
def sumpTargetRows (s : State) : Nat := (List.range (fenCount s)).foldl (fun a f => a + sumpTargetBlocks s f / 28 * 512) 0

/-- Free Sump rows: rows of the target's stripes not yet programmed. -/
def sumpFreeRows (s : State) : Nat :=
  sumpTargetRows s - (stripesWhere s (fun _ e => decide (e.kind = 2))).foldl (fun a e => a + e.2.frontier) 0

/-- Free Sump rows as a percentage of the target, device-wide, rounded down (R101; log entry 72). -/
def sumpFreePct (s : State) : Nat := if sumpTargetRows s = 0 then 0 else 100 * sumpFreeRows s / sumpTargetRows s

/-! ### Namespaces and tracts (R70) -/

/-- The tracts a namespace's extents name, in extent order (R70): tract t of it. -/
def nsTract (s : State) (nsid t : Nat) : Option Nat :=
  ((Tab.get [] s.map.core.extents nsid).foldl
    (fun (a : Nat ⊕ Nat) e => match a with
      | .inr l => .inr l
      | .inl t => if t < e.2 then .inr (e.1 + t) else .inl (t - e.2)) (.inl t)).getRight?

/-- Tracts of a namespace. -/
def nsTracts (s : State) (nsid : Nat) : Nat := (Tab.get [] s.map.core.extents nsid).foldl (fun a e => a + e.2) 0

/-- The namespace and tract index that own an LTN. -/
def tractOwner (s : State) (ltn : Nat) : Option (Nat × Nat) :=
  s.map.core.extents.findSome? (fun e =>
    (e.2.foldl (fun (a : Option Nat × Nat) x =>
      (if x.1 ≤ ltn ∧ ltn < x.1 + x.2 ∧ a.1.isNone then some (a.2 + (ltn - x.1)) else a.1, a.2 + x.2)) (none, 0)).1.map
      (fun t => (e.1, t)))

/-- The LTNs of a namespace. -/
def nsLtns (s : State) (nsid : Nat) : List Nat :=
  (Tab.get [] s.map.core.extents nsid).flatMap (fun e => (List.range e.2).map (fun i => e.1 + i))

/-- The host key of a controller (R379). -/
def hostKeyOf (c : Ctrl) : HostKey :=
  if c.fabric then .fabric c.hostNqn c.hostId
  else if c.hostId ≠ 0 then .hostId c.hostId
  else .func (match c.port with | .pcie l => l.val | .eth lp => lp.val) c.func

/-! ### Dirty units (R24, R302, R303) -/

/-- The key of a tract unit. -/
def unitKey (ltn u : Nat) : Nat := 262144 * ltn + u

/-- Stacks in service. -/
def stacksUp (s : State) : List Nat := (List.range 8).filter (fun k => s.isSet F.MERE_STAT_IN_SERVICE k)

/-- Dirty copies on a stack, in units. -/
def dirtyOn (s : State) (k : Nat) : Nat :=
  (s.map.dirty.filter (fun e => decide (e.2.s1 = k ∨ e.2.s2 = k))).length

/-- Dirty data in units, single copy (R302): the copies of stripes refreshed in place count (R128). -/
def dirtyUnits (s : State) : Nat := s.map.dirty.length + tractUnits s * s.map.inPlace.length

/-- The dirty limit in force, in units of 4 KiB (R302, R555). -/
def dirtyLimitUnits (s : State) : Nat := 256 * s.rd F.MERE_DIRTY_LIMIT

/-- The two stacks in service that hold the least dirty data, lower numbers first (R303). -/
def dirtyStacks (s : State) : Option (Nat × Nat) :=
  let best := fun (l : List Nat) => l.foldl (fun (a : Option (Nat × Nat)) k =>
    match a with
    | none => some (dirtyOn s k, k)
    | some (n, j) => if dirtyOn s k < n then some (dirtyOn s k, k) else some (n, j)) none
  match best (stacksUp s) with
  | none => none
  | some (_, a) => (best ((stacksUp s).filter (fun k => k ≠ a))).map (fun b => (a, b.2))

/-! ### Where a tract unit is (R72) -/

/-- The key of a code word on the media. -/
def mediaKey (l b page w : Nat) : Nat := ((1048576 * l + b) * 2048 + page) * 4 + w

/-- The code word of a stripe at a row, slot and position. -/
def mediaAt (s : State) (id row slot w : Nat) : Option CodeWord :=
  match (stripeOf s id).slots[slot]? with
  | none => none
  | some a => let p := addrPlace s (stripeFen id) a; s.map.media.find (mediaKey p.1 p.2 row w)

/-- The slots of a stripe that are absent (R110): ABSENT bits, members out of service, dies being rebuilt. -/
def absentSlots (s : State) (id : Nat) : List Nat :=
  let e := stripeOf s id
  (List.range 28).filter (fun i =>
    bitOf e.absent i ||
    (match e.slots[i]? with
     | none => false
     | some a =>
       let p := addrPlace s (stripeFen id) a
       decide (p.1 = 0xFFFF) || (s.fen.absent.find p.1).isSome || decide (p.1 ∈ s.fen.retired) ||
         decide (32 * p.1 + p.2 % diesOf s p.1 ∈ s.fen.deadDies)))

/-- The media key of a slot's code word. -/
def slotKey (s : State) (id row slot w : Nat) : Option Nat :=
  ((stripeOf s id).slots[slot]?).map (fun a => let p := addrPlace s (stripeFen id) a; mediaKey p.1 p.2 row w)

/-- A code word of a stripe whose ladder has failed since it was programmed (R111, R112). -/
def wordBad (s : State) (id row slot w : Nat) : Bool := (slotKey s id row slot w).any (fun k => decide (k ∈ s.map.bad))

/-- A code word that reconstruction could not serve either (R210). -/
def wordDead (s : State) (id row slot w : Nat) : Bool := (slotKey s id row slot w).any (fun k => decide (k ∈ s.map.dead))

/-- The erasure set of a code-word position of a row (R111, R112): the absent slots and those whose code word is unreadable. -/
def erasedSlots (s : State) (id row w : Nat) : List Nat :=
  let gone := absentSlots s id
  (List.range 28).filter (fun i => decide (i ∈ gone) || wordBad s id row i w)

/-- The bits [7:0] of UFLAGS (R175). -/
def codeFlags (c : CodeWord) : Nat := b2n c.data.lost + (if c.meta_.isSome then 4 else 0) + (if c.unitTag then 8 else 0)

/-- Bytes 32 to 63 of the label share of a data slot's code word (R174, R175). The TAG bytes are 0: the model holds a sealed unit by
its plaintext (log entry 20). -/
def codedHalf (c : CodeWord) : Nat :=
  match c.meta_ with
  | some m => crc32c (leBytes 4096 c.data.payload) + 2 ^ 32 * (m.seq % 2 ^ 64) + 2 ^ 96 * (m.index % 2 ^ 32) + 2 ^ 248 * codeFlags c
  | none => 2 ^ 128 * (c.data.wseq % 2 ^ 64) + 2 ^ 192 * (c.ltn % 2 ^ 32) + 2 ^ 224 * (c.unit % 2 ^ 24) + 2 ^ 248 * codeFlags c

/-- The 4,128 symbols that a code word gives the stripe code (R105). -/
def symbolOf (c : CodeWord) : Nat :=
  match c.parity with
  | some v => v
  | none => c.data.payload % 2 ^ 32768 + 2 ^ 32768 * codedHalf c

/-- The symbols of a filler unit (R175): zero payload, UFLAGS.FILLER. A data slot's place that no code word is listed for below the
frontier holds one. -/
def fillerSymbol : Nat := 2 ^ (32768 + 248 + 1)

/-- The symbols of a slot in a row of filler units. -/
def plainSymbol (s : State) (slot : Nat) : Nat :=
  if slot < geoK s then fillerSymbol
  else (rsParity (geoP s) (List.replicate (geoK s) fillerSymbol)).getD (slot - geoK s) 0

/-- The symbols at a place: what is stored, else those of a row of filler units. -/
def symbolAt (s : State) (id row slot w : Nat) : Nat :=
  match mediaAt s id row slot w with
  | some c => symbolOf c
  | none => plainSymbol s slot

/-- A die has a program or an erase running (R112). -/
def dieWrites (s : State) (l d : Nat) : Bool :=
  s.hew.held.any (fun e => decide (e.1 / 128 = l ∧ e.2.die = d ∧ (e.2.opcode = 0x10 ∨ e.2.opcode = 0x18)) && e.2.started && !e.2.ended)

/-- The slot's die has a program or an erase running. -/
def slotBusy (s : State) (id slot : Nat) : Bool :=
  match (stripeOf s id).slots[slot]? with
  | none => false
  | some a => let p := addrPlace s (stripeFen id) a; dieWrites s p.1 (p.2 % diesOf s p.1)

/-- The k source slots of a reconstruction (R112): data slots before parity slots, slots with an idle die before busy ones, lower
numbers first; none of the erasure set. -/
def sourceSlots (s : State) (id row w : Nat) : List Nat :=
  let ok := (List.range 28).filter (fun i => decide (i ∉ erasedSlots s id row w))
  let order := fun (l : List Nat) => l.filter (fun i => !slotBusy s id i) ++ l.filter (fun i => slotBusy s id i)
  (order (ok.filter (fun i => decide (i < geoK s))) ++ order (ok.filter (fun i => decide (geoK s ≤ i)))).take (geoK s)

/-- The symbols of an erased slot, solved from the k sources (R106, R111); none where the erasure set exceeds p. -/
def reconstruct (s : State) (id row slot w : Nat) : Option Nat :=
  if geoP s < (erasedSlots s id row w).length ∨ wordDead s id row slot w = true then none
  else
    let src := sourceSlots s id row w
    some (rsSolve ((List.range 28).map (fun i => if i ∈ src then symbolAt s id row i w else 0))
      ((List.range 28).filter (fun i => decide (i ∉ src))) slot)

/-- The unit that a data slot's symbols hold (R174, R175). -/
def symbolUnit (v : Nat) : UnitData :=
  if bitOf v (32768 + 248 + 1) then {}
  else { payload := v % 2 ^ 32768, wseq := bits v (32768 + 128) 64, lost := bitOf v (32768 + 248) }

/-- The unit a stripe holds at a place: read, or reconstructed where its slot is in the erasure set (R106, R111, R112); none where
it cannot be reconstructed. A place never programmed reads as zero. -/
def stripeUnit (s : State) (id row slot w : Nat) : Option UnitData :=
  if slot ∈ erasedSlots s id row w then (reconstruct s id row slot w).map symbolUnit
  else some ((mediaAt s id row slot w).map CodeWord.data |>.getD {})

/-- What a unit reads as from the logs of a tract (R72 step 2, R81): newest first; none where no log holds it. A log
unit e lies at the place of unit e of a stripe (R65). -/
def logUnit (s : State) (fuel : Nat) (log : Option Nat) (u : Nat) : Option (Option UnitData) :=
  match fuel, log with
  | fuel + 1, some g =>
    match s.map.core.logs.find g with
    | none => none
    | some d =>
      let e := Tab.get 0xFFFF d.submap u
      if e = 0xFFFE then some (some {})
      else if e = 0xFFFF then logUnit s fuel d.pred u
      else some (stripeUnit s d.stripe (e / rowUnits s) (e % rowUnits s / 4) (e % 4))
  | _, _ => none

/-- Where the logs of a tract hold a unit, as (log stripe, log unit): the newest; none where none does, or where it is deallocated. -/
def logPlace (s : State) (fuel : Nat) (log : Option Nat) (u : Nat) : Option (Nat × Nat) :=
  match fuel, log with
  | fuel + 1, some g =>
    match s.map.core.logs.find g with
    | none => none
    | some d =>
      let e := Tab.get 0xFFFF d.submap u
      if e = 0xFFFE then none
      else if e = 0xFFFF then logPlace s fuel d.pred u
      else some (d.stripe, e)
  | _, _ => none

/-- The newest copy of a unit on the media (R72 steps 2 to 4). -/
def mediaUnit (s : State) (ltn u : Nat) : Option UnitData :=
  let t := tractOf s ltn
  match logUnit s 4096 t.log u with
  | some d => d
  | none =>
    let (row, slot, w) := unitPlace s u
    if t.stripe ≠ 0xFFFFFFFF ∧ row < (stripeOf s t.stripe).frontier then stripeUnit s t.stripe row slot w
    else
      match s.map.core.rows.find (2048 * ltn + row) with
      | some (sid, r) => stripeUnit s sid r slot w
      | none => some {}

/-- A clean copy of a unit is still in the Mere: the spec gives no rule by which clean copies leave it, so that a free value
decides (DESIGN CHOICE, log entry 88). -/
def cleanUnit (s : State) (ltn u : Nat) : Option UnitData :=
  match s.map.clean.find (unitKey ltn u) with
  | some d => if Config.freeNat (s.free + unitKey ltn u) % 2 = 0 then some d.1 else none
  | none => none

/-- The newest copy of a unit (R72): a dirty copy in the Mere first (R28). A clean copy is the newest data too, the same that the
media hold: it serves where they cannot. -/
def resolveUnit (s : State) (ltn u : Nat) : Option UnitData :=
  match s.map.dirty.find (unitKey ltn u) with
  | some d => some d.data
  | none =>
    match mediaUnit s ltn u with
    | some d => some d
    | none => cleanUnit s ltn u

/-- A unit lies in a range declared lost. -/
def unitLost (s : State) (ltn u : Nat) : Bool :=
  s.map.core.lost.any (fun r => decide (r.ltn = ltn ∧ r.off < 8 * u + 8 ∧ 8 * u < r.off + r.len))

/-- A unit counts as already written (R82): programmed to the media, or set to 0xFFFE. -/
def alreadyWritten (s : State) (ltn u : Nat) : Bool :=
  let t := tractOf s ltn
  (logUnit s 4096 t.log u).isSome ||
  (let row := u / rowUnits s
   (decide (t.stripe ≠ 0xFFFFFFFF) && decide (row < (stripeOf s t.stripe).frontier)) ||
     (s.map.core.rows.find (2048 * ltn + row)).isSome)

end Sys2Proof.Machine
end

