-- ==== Sys2Proof/Machine/Flags.lean ====
section
/-! DEFINITION. Flag computations: the device-wide fault summary (R20 to R23) and the interrupt sources (R608). -/

namespace Sys2Proof.Machine

open Sys2Proof

/-- Mere stacks fenced off: FENCE_CAUSE is not 0 (R320). -/
def stacksFenced (s : State) : List Nat := (List.range 8).filter (fun k => decide (s.rd F.MERE_STAT_FENCE_CAUSE k ≠ 0))

/-- Control-core pairs lost (R519). -/
def pairsLost (s : State) : List Nat := (List.range 12).filter (fun p => decide (s.rd F.MBX_PAIR_STAT_STATE p = 2))

/-- Pairs that carry two identities (R520). -/
def pairsDouble (s : State) : List Nat :=
  (List.range 12).filter (fun p =>
    decide (s.rd F.MBX_PAIR_STAT_STATE p ≠ 2 ∧ s.rd F.MBX_PAIR_STAT_ID_B p ≠ 15 ∧
      s.rd F.MBX_PAIR_STAT_ID_B p ≠ s.rd F.MBX_PAIR_STAT_ID_A p))

/-- Units fenced among the `n` words of a fence register. -/
def fencedIn (s : State) (f : Field) (n : Nat) : Nat :=
  (List.range n).foldl (fun a i => a + popCount (s.rd f i) 32) 0

def hardFenced (s : State) : Nat := fencedIn s F.LDPC_HARD_FENCED_FENCED 9
def softFenced (s : State) : Nat := fencedIn s F.LDPC_SOFT_FENCED_FENCED 1
def pipesFenced (s : State) : Nat := fencedIn s F.CIP_PIPE_FENCED_FENCED 3
def lanesFenced (s : State) : Nat := fencedIn s F.CIP_LANE_FENCED_FENCED 5

/-- The PCIe links that the image's bifurcation configures: 2p, and 2p + 1 of a split port (R417); none of a port that has no
link in HOSTFN (R642). -/
def pcieLinks (s : State) : List Nat :=
  (List.range 8).filter (fun l => (l % 2 = 0 || decide (l / 2 ∈ s.image.hostfn.split)) && decide (l / 2 ∉ s.image.hostfn.unused))

/-- The logical ports of an Ethernet port under its breakout: 4 × 100G, 2 × 200G or 1 × 400G (R437). -/
def ethPorts (s : State) : List Nat :=
  s.image.hostfn.ethModes.flatMap (fun e =>
    match e.2 with
    | 1 => [4 * e.1, 4 * e.1 + 1, 4 * e.1 + 2, 4 * e.1 + 3]
    | 2 => [4 * e.1, 4 * e.1 + 1]
    | 3 => [4 * e.1]
    | _ => [])

/-- A configured host port has no link up (R20 PORT_OUT): a PCIe port with none of its links up, or a logical port
that is down. -/
def portOut (s : State) : Bool :=
  decide (s.boot.done = true) &&
  ((List.range 4).any (fun p => decide (p ∉ s.image.hostfn.unused) && !s.isSet F.HIF_LINK_STAT_UP (2 * p) && !s.isSet F.HIF_LINK_STAT_UP (2 * p + 1)) ||
    (ethPorts s).any (fun lp => !s.isSet F.FAB_PORT_STAT_UP lp))

/-- The configured host ports, each with whether it has a link up (R20, R30): PCIe ports that HOSTFN gives a link, Ethernet ports
with a breakout. -/
def hostPorts (s : State) : List Bool :=
  ((List.range 4).filter (fun p => decide (p ∉ s.image.hostfn.unused))).map (fun p =>
      s.isSet F.HIF_LINK_STAT_UP (2 * p) || s.isSet F.HIF_LINK_STAT_UP (2 * p + 1)) ++
    ((List.range 8).filter (fun e => (ethPorts s).any (fun lp => decide (lp / 4 = e)))).map (fun e =>
      (ethPorts s).any (fun lp => decide (lp / 4 = e) && s.isSet F.FAB_PORT_STAT_UP lp))

/-- Configured host ports in service. -/
def portsUp (s : State) : Nat := ((hostPorts s).filter id).length

/-- A rebuild is in progress (R114, R115): a member or a die is being rebuilt. -/
def rebuilding (s : State) : Bool :=
  s.fen.absent.any (fun e => decide (e.2 = .rebuilding)) || !s.fen.deadDies.isEmpty

/-- A rebuild, re-mirror or spare takeover is in progress (R20 RESTORING). -/
def restoring (s : State) : Bool := rebuilding s || !s.mere.remirror.isEmpty || !s.mbx.takeover.isEmpty

/-- The most members of a fen in service that one PLL group carries: what the loss of that group would take (R30, R35). -/
def groupShare (s : State) (f : Nat) : Nat :=
  (List.range 16).foldl (fun m g => max m
    ((List.range 32).filter (fun i => inService s f i && decide (groupOf s (memberLink s f i) = g))).length) 0

/-- A fen with members whose tolerance does not cover the loss of one more member, or of one more PLL group (R30, R31, R35, R117). -/
def fenShort (s : State) : Bool :=
  (List.range 16).any (fun f => decide (s.rd F.FEN_STATE_IN_SERVICE f ≠ 0) &&
    decide (s.rd F.FEN_STATE_TOLERANCE f < max 1 (groupShare s f)))

/-- A further fault of some class would not be absorbed (R20 TOLERANCE_SHORT, R31, R35, R521). -/
def toleranceShort (s : State) : Bool :=
  s.glb.shortened || fenShort s || !(pairsDouble s).isEmpty || decide (7 ≤ (stacksFenced s).length) ||
    decide (287 ≤ hardFenced s) || decide (31 ≤ softFenced s) || decide (79 ≤ pipesFenced s) || decide (159 ≤ lanesFenced s) ||
    (s.boot.done && decide (portsUp s ≤ 1))

/-- A fault outside the single-fault table is present (R20 OUTSIDE_SET): a fen past its parity, a class with no unit
left (a stack, pair, decoder, cipher unit or, once boot has ended, host port), two re-mirrors side by side (R322), SYS_REFCLK lost
(R612), fewer than 8 valid sensors (R655). -/
def outsideSet (s : State) : Bool :=
  (List.range 16).any (fun f => s.isSet F.FEN_STATE_EXCEEDED f) || decide (2 ≤ s.mere.remirror.length) ||
    decide (8 ≤ (stacksFenced s).length) || decide (12 ≤ (pairsLost s).length) || decide (288 ≤ hardFenced s) ||
    decide (32 ≤ softFenced s) || decide (80 ≤ pipesFenced s) || decide (160 ≤ lanesFenced s) ||
    s.isSet F.CLK_PLL_STAT_HOLDOVER || (s.boot.done && decide (portsUp s = 0)) ||
    (!s.tmon.temps.isEmpty && decide ((s.tmon.temps.filter Option.isSome).length < 8))

/-- The highest bench in force, 5 at bench 5 (R20 BENCH, R126). -/
def topBench (s : State) : Nat := if s.fen.bench5 then 5 else (List.range 16).foldl (fun m f => max m (s.rd F.FEN_STATE_BENCH f)) 0

/-- The ten condition bits of GLB_FAULT_SUM (R20). -/
def faultBits (s : State) : List Bool :=
  [!s.fen.absent.isEmpty || !s.fen.deadDies.isEmpty, !s.seam.unlocked.isEmpty, !(stacksFenced s).isEmpty,
   !(pairsLost s).isEmpty, decide (hardFenced s + softFenced s ≠ 0), decide (pipesFenced s + lanesFenced s ≠ 0),
   portOut s, restoring s, toleranceShort s, outsideSet s]

/-- The bits that go from 0 to 1, and bit 7 also when restoration completes (R21). -/
def faultEdges (old new : List Bool) : Nat :=
  packBits (List.zipWith (fun a b => !a && b) old new) ||| (if old[7]? = some true ∧ new[7]? = some false then 0x80 else 0)

/-- The ten one-bit fields of GLB_FAULT_SUM, in the order of their bits (R20). -/
def faultSumFields : List Field :=
  [F.GLB_FAULT_SUM_MEMBER_OUT, F.GLB_FAULT_SUM_PLLG_OUT, F.GLB_FAULT_SUM_STACK_OUT, F.GLB_FAULT_SUM_PAIR_OUT,
   F.GLB_FAULT_SUM_DECODER_OUT, F.GLB_FAULT_SUM_CIPHER_OUT, F.GLB_FAULT_SUM_PORT_OUT, F.GLB_FAULT_SUM_RESTORING,
   F.GLB_FAULT_SUM_TOLERANCE_SHORT, F.GLB_FAULT_SUM_OUTSIDE_SET]

/-- GLB_FAULT_SUM as it stands in the register store. -/
def faultSumStored (s : State) : List Bool := faultSumFields.map (fun f => s.isSet f)

/-- Put a list of one-bit fields into the register store. -/
def sumBits (l : List (Field × Bool)) (s : State) : State := l.foldl (fun x e => x.wrB e.1 e.2) s

/-- Store the summary, set the event bits of its edges and drive FAULT_N (R20, R21, R23). -/
def glbStore (s : State) : State :=
  let new := faultBits s
  let evt := faultEdges (faultSumStored s) new
  let bench := topBench s
  let s := s.wr F.GLB_FAULT_EVT_EVT (s.rd F.GLB_FAULT_EVT_EVT ||| evt)
  let s := s.wr F.GLB_FAULT_SUM_BENCH bench
  let s := sumBits (faultSumFields.zip new) s
  { s with glb := { s.glb with faultN := new.getD 8 false || new.getD 9 false || decide (3 ≤ bench) || s.boot.stopped } }

/-- The summary follows the conditions; a fault that found another's restoration in progress is forgotten once none is. -/
def glbRefresh (s : State) : State := glbStore (if restoring s then s else { s with glb := { s.glb with shortened := false } })

/-! ### Interrupt sources (R608): a block's event bits with their enables -/

/-- Whether a word of event fields has a bit set that its enable field enables. -/
def anyEnabled (evts enables : Nat) : Bool := decide (evts &&& enables ≠ 0)

/-- The event word that one-bit fields make. -/
def evtWord (s : State) (fs : List Field) : Nat := fs.foldl (fun a f => a ||| (s.rd f * 2 ^ f.lsb)) 0

/-- The channels whose receiver is the Custodian with PEND and PEND_IE both 1 (R527). -/
def mbxCustodian (s : State) : Bool :=
  s.mbx.chans.any (fun e => decide (e.2.receiver = 0x30) && !e.2.queue.isEmpty &&
    bitOf (s.rd F.MBX_PEND_IE_IE (e.1 / 32)) (e.1 % 32))

/-- CUS_IRQ_SRC (R608), bit by bit in its order. -/
def irqSources (s : State) : List Bool :=
  [anyEnabled (s.rd F.GLB_FAULT_EVT_EVT) (s.rd F.GLB_FAULT_IE_IE),
   anyEnabled (s.rd F.CFG_LOT_EVT_ENDED) (s.rd F.CFG_LOT_IE_IE),
   anyEnabled (evtWord s [F.FEN_EVT_BENCH_CHANGE, F.FEN_EVT_REBUILD_DONE, F.FEN_EVT_LOST_DECLARED]) (s.rd F.FEN_IE_IE),
   anyEnabled (evtWord s [F.SEAM_EVT_PRESENT, F.SEAM_EVT_FALLBACK, F.SEAM_EVT_GRP_UNLOCK, F.SEAM_EVT_OVERTEMP])
     (s.rd F.SEAM_IE_IE),
   anyEnabled (evtWord s [F.MERE_EVT_BUCKET, F.MERE_EVT_UNC, F.MERE_EVT_FENCED, F.MERE_EVT_LAP_LONG,
     F.MERE_EVT_VALID_UNC]) (s.rd F.MERE_IE_IE),
   anyEnabled (evtWord s [F.NVQ_EVT_SLOTS_FULL, F.NVQ_EVT_BAD_DB, F.NVQ_EVT_CID_CONFLICT, F.NVQ_EVT_CQ_STALL])
     (s.rd F.NVQ_IE_IE),
   anyEnabled (evtWord s [F.SLU_EVT_CEIL_HIT, F.SLU_EVT_DIRTY_CAP, F.SLU_EVT_MERGE_DEBT, F.SLU_EVT_FORCED_FOLD])
     (s.rd F.SLU_IE_IE),
   anyEnabled (evtWord s [F.HIF_EVT_LINK_DOWN, F.HIF_EVT_LINK_UP, F.HIF_EVT_UNCOR, F.HIF_EVT_POISON_RX])
     (s.rd F.HIF_IE_IE),
   anyEnabled (evtWord s [F.FAB_EVT_LINK_DOWN, F.FAB_EVT_LINK_UP, F.FAB_EVT_PFC_STORM, F.FAB_EVT_ASSOC_END,
     F.FAB_EVT_AUTH_FAIL, F.FAB_EVT_RXBUF_FULL]) (s.rd F.FAB_IE_IE),
   anyEnabled (evtWord s [F.CWY_EVT_PEER_DOWN, F.CWY_EVT_AUTH_FAIL, F.CWY_EVT_MIG_DONE, F.CWY_EVT_CHAIN_DONE])
     (s.rd F.CWY_IE_IE),
   anyEnabled (evtWord s [F.CIP_EVT_DONE, F.CIP_EVT_ERROR, F.CIP_EVT_KAT_FAIL, F.CIP_EVT_DRBG_FAIL])
     (s.rd F.CIP_IE_IE),
   anyEnabled (evtWord s [F.MBX_EVT_OVERFLOW, F.MBX_EVT_PAIR_LOST]) (s.rd F.MBX_IE_IE) || mbxCustodian s,
   anyEnabled (evtWord s [F.PEAT_EVT_DROP, F.PEAT_EVT_ARCH_FAIL]) (s.rd F.PEAT_IE_IE),
   anyEnabled (evtWord s [F.PWR_EVT_DISAGREE, F.PWR_EVT_HT_REQ, F.PWR_EVT_HT_READY, F.PWR_EVT_HT_DONE,
     F.PWR_EVT_LIMIT_CUT]) (s.rd F.PWR_IE_IE),
   anyEnabled (evtWord s [F.SEAL_EVT_CHANGE, F.SEAL_EVT_DISCREPANCY, F.SEAL_EVT_FAULT]) (s.rd F.SEAL_IE_IE),
   anyEnabled (evtWord s [F.UPD_EVT_APPLIED, F.UPD_EVT_REFUSED, F.UPD_EVT_ACTIVATED, F.UPD_EVT_FALLBACK])
     (s.rd F.UPD_IE_IE),
   anyEnabled (evtWord s [F.CUS_EVT_TASK_DONE, F.CUS_EVT_SESS_CLOSED, F.CUS_EVT_AUTH_FAIL]) (s.rd F.CUS_IE_IE)]

/-- CUS_IRQ_N is asserted while any source asserts it (R21, R608). -/
def cusIrq (s : State) : Bool := (irqSources s).any id

end Sys2Proof.Machine
end

