-- ==== Sys2Proof/Machine/ViewOps.lean ====
section
/-! DEFINITION. What the register views compute from the state of the blocks, shared with the operations on them. -/

namespace Sys2Proof.Machine

open Sys2Proof

/-! ### Packed words -/

/-- The bits of a number that a list of (value, place) pairs make. -/
def place (l : List (Nat × Nat)) : Nat := l.foldl (fun a e => a + e.1 * 2 ^ e.2) 0

/-! ### Fens and jobs (R110, R115, R134) -/

/-- The stripes of a fen in use: those not waiting for their release. -/
def fenStripes (s : State) (f : Nat) : List (Nat × Stripe) :=
  (stripesWhere s (fun id _ => decide (stripeFen id = f))).filter (fun e => !(s.map.releases.any (fun r => decide (r.2 = e.1))))

/-- A slot needs a job: it is absent because of a rebuild, or its member is being drained. -/
def slotNeedsJob (s : State) (id slot : Nat) : Bool :=
  match (stripeOf s id).slots[slot]? with
  | none => false
  | some a =>
    let p := addrPlace s (stripeFen id) a
    decide (s.fen.absent.find p.1 ≠ some .waiting) && (decide (slot ∈ absentSlots s id) || decide (p.1 ∈ s.fen.draining))

/-- The jobs that remain in a fen, as (stripe, slot) (R134). -/
def jobsLeft (s : State) (f : Nat) : List (Nat × Nat) :=
  (fenStripes s f).flatMap (fun e => ((List.range 28).filter (fun i => slotNeedsJob s e.1 i)).map (fun i => (e.1, i)))

/-! ### Dredge records (R154) -/

/-- STATUS of a record (R154). One that waits reads 2, with START_TIME 0 (DESIGN CHOICE, log entry 91). -/
def passStatus (p : DredgePass) : Nat :=
  if p.state = 2 then (if p.resumed then 3 else 0) else if p.state = 3 then 1 else 2

/-- The 160 bytes of a summary record (R154), as a number. -/
def passBytes (p : DredgePass) : Nat :=
  let cap := fun (v n : Nat) => min v (2 ^ n - 1)
  let w := p.worst.headD (0, 0, 0)
  place ([(p.id, 0), (if p.origin = 1 then 1 else 2, 32), (passStatus p, 40), (if p.origin = 1 then 0 else 1, 48),
    (p.began % 2 ^ 48, 64), (p.ended % 2 ^ 48, 128), (p.nsid, 192), (cap p.first 64, 256), (cap p.count 64, 320),
    (cap p.cwChecked 64, 384)] ++
    (List.range 8).map (fun i => (cap (p.hist.getD i 0) 64, 448 + 64 * i)) ++
    [(cap p.tagsOk 64, 960), (cap p.tagsBad 32, 1024), (cap p.lost 32, 1056), (cap p.refreshed 32, 1088),
     (cap w.1 16, 1120), (w.2.1, 1136), (w.2.2, 1152), (cap p.parity 32, 1184), (cap p.skipped 64, 1216)])

/-! ### Slots (R337) -/

/-- Slots of one part in use. -/
def partUsed (s : State) (p : Nat) : Nat := (s.nvq.slots.filter (fun e => decide (e.2.part = p))).length

/-- Shared slots free: what the admin slots and the reservations leave, less those in use. -/
def sharedFree (s : State) : Nat :=
  16384 - s.nvq.ctrls.length - s.nvq.ctrls.foldl (fun a e => a + e.2.res) 0 - partUsed s 2

/-- An urgent SQ (R342): QPRIO 0 under weighted round robin; a fabric queue is of the medium class. -/
def urgentSq (c : Ctrl) (q : SubQueue) : Bool := decide (bits c.cc 11 3 = 1 ∧ q.prio = 0) && !c.fabric

/-- Slots that a controller holds. -/
def ctrlSlots (s : State) (cid : Nat) : List (Nat × Cmd) := s.nvq.slots.filter (fun e => decide (e.2.ctrl = cid))

/-! ### Class records and merge credit (R394, R403) -/

/-- A value outside its range is taken as the nearer end of the range (R394). -/
def clampTo (lo hi v : Nat) : Nat := if v < lo then lo else if hi < v then hi else v

/-- A record after clamping. -/
def clampRec (r : ClassRec) : ClassRec :=
  let g := clampTo 0 1000 r.dieGuar
  let lg := clampTo 0 100 r.linkGuar
  { r with dieGuar := g, dieCeil := clampTo g 1000 r.dieCeil, linkGuar := lg, linkCeil := clampTo lg 100 r.linkCeil,
           mereCeil := clampTo 1 9600 r.mereCeil, dirtyMax := clampTo 1 100 r.dirtyMax, mergePar := clampTo 1 16 r.mergePar,
           mergeBurst := clampTo 1 255 r.mergeBurst, refreshCr := clampTo 1 100 r.refreshCr }

/-- The record of a class in a lot; a class without one takes the default record (R393). -/
def recOf (l : SluiceLot) (c : Nat) : ClassRec :=
  match l.classes.find? (fun r => decide (r.cls = c)) with
  | some r => clampRec r
  | none => { cls := c }

/-- The record of a class in force. -/
def classRec (s : State) (c : Nat) : ClassRec := recOf s.slu.lot c

/-- The 32 bytes of a record as a number (R394, R416). -/
def recBytes (r : ClassRec) : Nat :=
  r.flags % 256 + r.dieGuar * 2 ^ 16 + r.dieCeil * 2 ^ 32 + r.linkGuar * 2 ^ 48 + r.linkCeil * 2 ^ 56 + r.mereCeil * 2 ^ 64 +
    r.dirtyMax * 2 ^ 80 + r.mergePar * 2 ^ 88 + r.mergeRate * 2 ^ 96 + r.mergeBurst * 2 ^ 112 + r.refreshCr * 2 ^ 120

/-- What Sluice keeps of a class. -/
def classUse (s : State) (c : Nat) : ClassUse := Tab.get {} s.slu.use c

/-- The merge credit of a class in thousandths: it starts at MERGE_BURST (R403). -/
def mergeCredit (s : State) (c : Nat) : Int := 1000 * ((classRec s c).mergeBurst : Int) - (classUse s c).debit

/-! ### Power state and firmware slots -/

/-- The device's power state (R352): the lowest number that an enabled controller holds. -/
def devicePs (s : State) : Nat :=
  let l := (s.nvq.ctrls.filter (fun e => e.2.enabled)).map (fun e => e.2.ps)
  match l with
  | [] => 0
  | x :: r => r.foldl min x

/-- The image of a firmware slot. -/
def fwSlot (s : State) (n : Nat) : Option FwImage := if n = 1 then s.upd.fw1 else if n = 2 then s.upd.fw2 else none

/-- Descriptors active. -/
def logsActive (s : State) : Nat := s.map.core.logs.length

/-! ### Address entries (R440, R462) -/

/-- The 48 bytes of an entry. -/
def addrBytes (e : AddrEntry) : Nat :=
  e.flags + 2 ^ 8 * e.plen + 2 ^ 16 * e.vlan + 2 ^ 32 * e.lp + 2 ^ 64 * e.addr + 2 ^ 192 * e.gw

/-- A word of the selected entry: what has been written and not committed, else the entry's bytes (R462). -/
def addrWord (s : State) (k i : Nat) : Nat :=
  match s.fab.staged.find (16 * k + i) with
  | some w => w
  | none => bits (addrBytes (Tab.get {} s.fab.addrs k)) (32 * i) 32

end Sys2Proof.Machine
end

