-- ==== Sys2Proof/Machine/MapBytes.lean ====
section
/-! DEFINITION. The bytes of the map's structures, of journal records and of what stands on the media (chapters "Tracts, stripes and
the map", "The on-media format"). -/

namespace Sys2Proof.Machine

open Sys2Proof

/-! ### Entries of the map (R71 to R75, R80, R92) -/

/-- The encoding of a tract's state (R71). -/
def TractState.code (t : TractState) : Nat :=
  match t with
  | .unmapped => 0
  | .filling => 1
  | .folded => 2
  | .merging => 3
  | .moving => 4

/-- The LOG field of a tract map entry (R71). -/
def logField (t : Tract) : Nat := match t.log with | some g => g % 4096 + 2 ^ 15 | none => 0

/-- The STATE byte of a tract map entry (R71). -/
def stateByte (t : Tract) : Nat := t.state.code + 8 * b2n t.lost + 16 * (t.zone % 16)

/-- The 8 bytes of a tract map entry (R71). -/
def tractEntry (t : Tract) : Nat := place [(t.stripe % 2 ^ 32, 0), (logField t, 32), (stateByte t, 48), (t.gen % 256, 56)]

/-- Stripes of a fen at most (R68): SPF. -/
def stripesPerFen (s : State) : Nat := 32 * memberBlocks s (structMember s 0) / 28

/-- The place of a stripe's entry in the table (R73). -/
def stripePlace (s : State) (id : Nat) : Nat := (stripeFen id * stripesPerFen s + id % 2 ^ 24) * 128

/-- The 128 bytes of a stripe table entry (R73). -/
def stripeEntry (e : Stripe) : Nat :=
  place ([(e.kind % 256, 0), (e.geom % 256, 8), (e.flags % 8, 16), (e.absent % 2 ^ 28, 32), (e.frontier % 2 ^ 16, 64),
    (e.owner % 2 ^ 32, 96)] ++ (List.range 28).map (fun i => ((e.slots.getD i 0xFFFFFFFF) % 2 ^ 32, 128 + 32 * i)))

/-- The 8 bytes of a row-table entry (R75); 0 for a row that is not valid. -/
def rowEntry (r : Option (Nat × Nat)) : Nat :=
  match r with
  | some (id, row) => id % 2 ^ 28 + 2 ^ 28 * (row % 512) + 2 ^ 63
  | none => 0

/-- The 32 bytes of a log-stripe descriptor (R80). -/
def logEntry (d : LogDesc) : Nat :=
  place [(d.ltn % 2 ^ 32, 0), (d.stripe % 2 ^ 32, 32), (d.fill % 2 ^ 16, 64), (d.live % 2 ^ 16, 80), (d.pred.getD 0xFFFF, 96),
    (d.openTime % 2 ^ 48, 128), (d.cls % 256, 176), (d.subAddr % 2 ^ 64, 192)]

/-- The 16 bytes of a Spoil entry (R92). -/
def spoilBytes (e : Spoil) : Nat :=
  place [(e.link % 512, 0), (e.block % 2 ^ 20, 9), (e.reason % 256, 32), (e.flags % 256, 40), (min 65535 e.wear, 48), (e.time % 2 ^ 48, 64)]

/-- The 16 bytes of a retention record (R137). -/
def retainBytes (b : Block) : Nat :=
  place [(b.progTime % 2 ^ 48, 0), (b.measRber % 2 ^ 16, 48), (b.ageBase % 2 ^ 32, 64), (b.measAge % 2 ^ 24, 96), (b.flags % 8, 120)]

/-! ### Journal records (R96) -/

/-- TYPE of a record. -/
def recType (r : JRec) : Nat :=
  match r with
  | .tractMap _ _ => 0x01
  | .stripeSet _ _ => 0x02
  | .stripeFree _ => 0x03
  | .slotSet _ _ _ => 0x04
  | .fillRows _ _ _ _ _ => 0x05
  | .logOpen _ _ _ _ => 0x06
  | .logUnits _ _ _ _ => 0x07
  | .logClose _ => 0x08
  | .spoilAdd _ => 0x09
  | .nsExtent _ _ _ _ => 0x0A
  | .membership _ _ _ _ => 0x0B
  | .lostRange _ => 0x0C
  | .ckptMark _ _ _ => 0x0D

/-- LEN: units of 32 bytes of a record. -/
def recLen (r : JRec) : Nat := match r with | .stripeSet _ _ => 5 | _ => 1

/-- The fields of a record's payload, as (value, place in bits from the record's start); it starts at byte 12. -/
def recPayload (r : JRec) : List (Nat × Nat) :=
  match r with
  | .tractMap ltn t => [(ltn % 2 ^ 32, 96), (t.stripe % 2 ^ 32, 128), (stateByte t, 160), (t.gen % 256, 168), (logField t, 176)]
  | .stripeSet id e => [(id % 2 ^ 32, 96), (stripeEntry e, 256)]
  | .stripeFree id => [(id % 2 ^ 32, 96)]
  | .slotSet id slot addr => [(id % 2 ^ 32, 96), (slot % 256, 128), (addr % 2 ^ 32, 160)]
  | .fillRows ltn first count stripe row =>
    [(ltn % 2 ^ 32, 96), (first % 2 ^ 16, 128), (count % 2 ^ 16, 144), (stripe % 2 ^ 32, 160), (row % 2 ^ 16, 192)]
  | .logOpen log pred ltn stripe => [(log % 2 ^ 16, 96), (pred.getD 0xFFFF, 112), (ltn % 2 ^ 32, 128), (stripe % 2 ^ 32, 160)]
  | .logUnits log first logUnit count =>
    [(log % 2 ^ 16, 96), (first % 2 ^ 32, 128), (logUnit % 2 ^ 16, 160), (count % 2 ^ 16, 176)]
  | .logClose log => [(log % 2 ^ 16, 96)]
  | .spoilAdd e => [(spoilBytes e, 96)]
  | .nsExtent nsid index first count => [(nsid % 2 ^ 32, 96), (index % 256, 128), (first % 2 ^ 32, 160), (count % 2 ^ 32, 192)]
  | .membership fen index old new => [(fen % 256, 96), (index % 256, 104), (old % 2 ^ 16, 128), (new % 2 ^ 16, 144)]
  | .lostRange r => [(r.ltn % 2 ^ 32, 96), (r.off % 2 ^ 32, 128), (r.len % 2 ^ 32, 160)]
  | .ckptMark number stripe jseq => [(number % 2 ^ 32, 96), (stripe % 2 ^ 32, 128), (jseq % 2 ^ 64, 160)]

/-- The bytes of a record: TYPE, LEN, JSEQ from byte 4, the payload from byte 12. -/
def recordBytes (j : Nat) (r : JRec) : Nat := place ([(recType r, 0), (recLen r, 8), (j % 2 ^ 64, 32)] ++ recPayload r)

/-- A PAD record: TYPE 0x00, LEN 1. -/
def padRecord : Nat := 0x0100

/-- Where a record of a length goes after `pos` units of 32 bytes: it never crosses a 4 KiB journal unit (R96). -/
def recPlace (pos len : Nat) : Nat := if 128 < pos % 128 + len then (pos / 128 + 1) * 128 else pos

/-- How many of the waiting records the open row takes: `cap` is its end, in units of 32 bytes (R95). -/
def rowTakes (cap pos : Nat) (l : List (Nat × JRec)) : Nat :=
  match l with
  | [] => 0
  | (_, r) :: rest =>
    let p := recPlace pos (recLen r)
    if cap < p + recLen r then 0 else 1 + rowTakes cap (p + recLen r) rest

/-- Records from position `pos` on, as pieces of 32 bytes, with PAD records where a record would cross a journal unit (R96). -/
def recPieces (pos : Nat) (l : List (Nat × JRec)) : List Nat :=
  match l with
  | [] => []
  | (j, r) :: rest =>
    let p := recPlace pos (recLen r)
    List.replicate (p - pos) padRecord ++ (List.range (recLen r)).map (fun i => bits (recordBytes j r) (256 * i) 256) ++
      recPieces (p + recLen r) rest

/-- The payload of journal unit `n` of a run of pieces: unused pieces are PAD records (R95). -/
def journalUnit (pieces : List Nat) (n : Nat) : Nat :=
  (List.range 128).foldr (fun i v => pieces.getD (128 * n + i) padRecord + 2 ^ 256 * v) 0

/-- The JSEQ of the first record that begins in journal unit `n`, where the records begin at position `pos` (R182); 0 where none does. -/
def unitSeq (n pos : Nat) (l : List (Nat × JRec)) : Nat :=
  match l with
  | [] => 0
  | (j, r) :: rest =>
    let p := recPlace pos (recLen r)
    if p / 128 = n then j else unitSeq n (p + recLen r) rest

/-- The header of a journal stripe (R182): MAGIC, PREV, NEXT, 0, FIRST_JSEQ, creation time. -/
def journalHeader (prev next first time : Nat) : Nat :=
  place [(0x484A5753, 0), (prev % 2 ^ 32, 32), (next % 2 ^ 32, 64), (first % 2 ^ 64, 128), (time % 2 ^ 48, 192)]

/-! ### Checkpoints (R97, R183) -/

/-- The lengths in bytes of a checkpoint's twelve sections, in type order (R183). -/
def ckptSections (s : State) : List Nat :=
  let blocks := 512 * memberBlocks s (structMember s 0)
  let filling := (s.map.core.tracts.filter (fun e => decide (e.2.state = .filling))).length
  [8 * usableTracts s, 128 * fenCount s * stripesPerFen s, 520 * s.map.core.extents.length, filling * (8 + 8 * 2048), 32 * 4096,
   s.map.core.logs.length * (8 + 2 * tractUnits s), 2 * blocks, (blocks + 7) / 8, 16 * s.map.core.spoil.length, 16 * blocks,
   8 * 512 + 8, 1024]

/-- The first unit of each section, and the units of the stream: unit 0 is the directory, each section starts on a unit boundary. -/
def ckptStarts (l : List Nat) : List Nat × Nat := l.foldl (fun a n => (a.1 ++ [a.2], a.2 + (n + 4095) / 4096)) ([], 1)

/-- Stripes that a checkpoint's stream takes (R97, R181). -/
def ckptStripes (s : State) : Nat := ((ckptStarts (ckptSections s)).2 + 512 * rowUnits s - 1) / (512 * rowUnits s)

/-- Unit 0 of a checkpoint: its directory (R183). -/
def ckptDirectory (s : State) (c : Checkpoint) : Nat :=
  let l := ckptSections s
  place ([(0x4B435753, 0), (1, 32), (12, 48), (c.number % 2 ^ 32, 64), (c.stripes.length % 2 ^ 16, 96), (c.jseq % 2 ^ 64, 128),
    (c.time % 2 ^ 48, 192)] ++
    (List.range 12).flatMap (fun i => [(i + 1, 256 + 128 * i), ((ckptStarts l).1.getD i 0, 256 + 128 * i + 32), (l.getD i 0, 256 + 128 * i + 64)]) ++
    (List.range 512).map (fun i => ((c.stripes.getD i 0xFFFFFFFF) % 2 ^ 32, 16384 + 32 * i)))

/-! ### Labels, code words and pages (R166, R167, R172, R173) -/

/-- MODE of a label without the code word's number (R172, R173). -/
def modeBits (c : CodeWord) : Nat := c.geom % 4 + 4 * b2n c.slc + 8 * b2n c.spare

/-- The identity half of a code word at a row and position (R172). -/
def identityHalf (c : CodeWord) (row w : Nat) : Nat :=
  withCrc16 30 (place [(c.ver % 16, 0), (c.kind % 16, 4), (modeBits c + 16 * (w % 4), 8), (c.slot % 256, 16), (c.stripe % 2 ^ 32, 32),
    (c.owner % 2 ^ 32, 64), (row % 2 ^ 16, 96), (c.link % 512 + 512 * (c.member % 32), 112), (c.time % 2 ^ 48, 128),
    (c.device % 2 ^ 64, 176)])

/-- The 96 bytes of a block label (R173). -/
def blockLabel (c : CodeWord) (b : Block) (fen : Nat) : Nat :=
  withCrc16 94 (place [(0x4C425753, 0), (c.ver % 256, 32), (c.kind % 256, 40), (modeBits c, 48), (c.slot % 256, 56), (c.stripe % 2 ^ 32, 64),
    (c.owner % 2 ^ 32, 96), (b.labelTime % 2 ^ 48, 128), (b.labelWear % 2 ^ 16, 176), (b.labelThermal % 2 ^ 64, 192),
    (c.device % 2 ^ 64, 256), (c.link % 2 ^ 16, 320), (c.member % 256, 336), (fen % 256, 344)])

/-- Bytes 0 to 31 of a label share: the identity half, and in code words 1 to 3 of page 0 their part of the block label
(R172, R173). -/
def firstHalf (c : CodeWord) (b : Block) (fen row w : Nat) : Nat :=
  if row = 0 ∧ 1 ≤ w ∧ w ≤ 3 then bits (blockLabel c b fen) (256 * (w - 1)) 256 else identityHalf c row w

/-- The 4,608 bytes of a code word (R167): what a program stores and an ideal read returns. -/
def codeWordBytes (c : CodeWord) (b : Block) (fen row w : Nat) : Nat :=
  encodeCodeWord (symbolOf c) (firstHalf c b fen row w) (symbolOf c / 2 ^ 32768)

/-- The code word that a slot's place below the frontier holds: what is listed, else a filler unit (R175). -/
def fillerWord (s : State) (id slot : Nat) : CodeWord :=
  let e := stripeOf s id
  { kind := e.kind, stripe := id, slot := slot, geom := e.geom, slc := decide (e.kind ≠ 1), owner := e.owner,
    parity := some (if slot < geoK s then fillerSymbol else (rsParity (geoP s) (List.replicate (geoK s) fillerSymbol)).getD (slot - geoK s) 0) }

/-- The 18,432 bytes of a page of a stripe's slot (R166): all ones where it has never been programmed. -/
def pageBytes (s : State) (id slot row : Nat) : Nat :=
  if (stripeOf s id).frontier ≤ row then 2 ^ 147456 - 1
  else
    let p := match (stripeOf s id).slots[slot]? with
      | some a => addrPlace s (stripeFen id) a
      | none => (0xFFFF, 0)
    (List.range 4).foldr (fun w v =>
      codeWordBytes ((mediaAt s id row slot w).getD (fillerWord s id slot)) (s.block p.1 p.2) (stripeFen id) row w + 2 ^ 36864 * v) 0

end Sys2Proof.Machine
end

