-- ==== Sys2Proof/Machine/Numeric.lean ====
section
/-! DEFINITION. The real functions of the manual's formulas, in fixed point with 96 fractional bits or exactly in whole numbers: the
Arrhenius factor (R135), powers of the retention model (R149), the logarithm of the drift model (R203). Precision and rounding are
the model's (DESIGN CHOICE, log entry 89). -/

namespace Sys2Proof.Machine

open Sys2Proof

/-- One in fixed point. -/
def fixOne : Nat := 2 ^ 96

/-- The exponential of y ÷ 2^96 for a small y, by its series to the 16th term. -/
def expSeries (y : Nat) : Nat := (List.range 16).foldr (fun i a => fixOne + y * a / fixOne / (i + 1)) fixOne

/-- Square a fixed-point number `n` times. -/
def squareTimes (n a : Nat) : Nat := match n with | 0 => a | n + 1 => squareTimes n (a * a / fixOne)

/-- exp(num ÷ den) in fixed point. -/
def expFix (num den : Nat) : Nat := squareTimes 10 (expSeries (num * fixOne / den / 1024))

/-- The Arrhenius factor of R135 in millionths: Ea in hundredths of eV, the die temperature in °C; exp((Ea ÷ k)(1 ÷ Tref − 1 ÷ T)) with
Tref = 313.15 K and k = 8.617333 × 10^-5 eV/K. -/
def arrhenius (ea : Nat) (t : Int) : Nat :=
  let d := Int.natAbs (t - 40)
  let kelvin := (100 * t + 27315).toNat
  let e := expFix (ea * 10 ^ 13 * d) (8617333 * 31315 * kelvin)
  if kelvin = 0 then 0 else if t < 40 then (1000000 * fixOne + e / 2) / e else (1000000 * e + fixOne / 2) / fixOne

/-- The largest x below 2^n, bit by bit from the top, that a test accepts. -/
def searchDown (p : Nat → Bool) (n acc : Nat) : Nat :=
  match n with
  | 0 => acc
  | n + 1 => searchDown p n (if p (acc + 2 ^ n) then acc + 2 ^ n else acc)

/-- 3,600,000 (a ÷ b)^(100 ÷ n) rounded down: the age of a core page in equivalent seconds from its rate over the reference rate, for an
exponent of n hundredths (R149). Exact: x is the largest number with x^n b^100 ≤ 3,600,000^n a^100. -/
def corePageAge (a b n : Nat) : Nat :=
  if b = 0 ∨ n = 0 then 0
  else searchDown (fun x => decide (x ^ n * b ^ 100 ≤ 3600000 ^ n * a ^ 100)) 64 0

/-- Bits of the binary logarithm after the point: the mantissa m ÷ 2^96 in [1, 2) is squared for each. -/
def logBits (n m acc : Nat) : Nat :=
  match n with
  | 0 => acc
  | n + 1 =>
    let q := m * m / fixOne
    if 2 * fixOne ≤ q then logBits n (q / 2) (2 * acc + 1) else logBits n q (2 * acc)

/-- log2(a ÷ b) for a ≥ b > 0, with 48 bits after the point, rounded down. -/
def log2Fix (a b : Nat) : Nat :=
  let k := searchDown (fun x => decide (b * 2 ^ x ≤ a)) 6 0
  logBits 48 (a * fixOne / (b * 2 ^ k)) k

/-- The nearest whole number to a ÷ b, halves away from zero. -/
def roundDiv (a : Int) (b : Nat) : Int :=
  if a < 0 then -(((2 * (-a).toNat + b) / (2 * b) : Nat) : Int) else (((2 * a.toNat + b) / (2 * b) : Nat) : Int)

end Sys2Proof.Machine
end

