-- ==== Sys2Proof/Machine/RetryTab.lean ====
section
/-! DEFINITION. Read-retry table sets and the read voltages that they predict (chapter "Read path and error correction", R203 to R208). -/

namespace Sys2Proof.Machine

open Sys2Proof

/-! ### Table sets (R206, R207) -/

/-- Byte i of a set. -/
def retryByte (r : RetrySet) (i : Nat) : Nat := bits (r.words.getD (i / 4) 0) (8 * (i % 4)) 8

/-- VERSION of a set's header. -/
def retryVersion (r : RetrySet) : Nat := retryByte r 0 + 256 * retryByte r 1

/-- TABLES of a set's header. -/
def retryTables (r : RetrySet) : Nat := retryByte r 2 + 256 * retryByte r 3

/-- A signed byte of a set. -/
def retryInt (r : RetrySet) (i : Nat) : Int := if 128 ≤ retryByte r i then (retryByte r i : Int) - 256 else retryByte r i

/-- Signed bytes from a place, one for each threshold of the mode: 15 in QLC mode, 1 in SLC mode. -/
def retryVector (r : RetrySet) (i : Nat) (slc : Bool) : List Int := (List.range (if slc then 1 else 15)).map (fun t => retryInt r (i + t))

/-- A table of a set (R207): its class and mode, the drift and wear coefficients, and its entries. -/
structure RetryTable where
  cls     : Nat
  slc     : Bool
  d       : List Int
  w       : List Int
  entries : List (List Int)
  deriving DecidableEq, Repr

/-- The table at a place of a set. -/
def retryTableAt (r : RetrySet) (i : Nat) : RetryTable :=
  let slc := decide (retryByte r (i + 3) = 1)
  { cls := retryByte r i + 256 * retryByte r (i + 1), slc := slc, d := retryVector r (i + 16) slc, w := retryVector r (i + 32) slc,
    entries := (List.range (retryByte r (i + 2))).map (fun e => retryVector r (i + 48 + 16 * e) slc) }

/-- The tables of a set: `n` of them from a place on, packed with no gaps. -/
def retryFrom (r : RetrySet) (n i : Nat) : List RetryTable :=
  match n with
  | 0 => []
  | n + 1 => retryTableAt r i :: retryFrom r n (i + 48 + 16 * retryByte r (i + 2))

/-- The tables of a set, at most 32. -/
def retryList (r : RetrySet) : List RetryTable := retryFrom r (min 32 (retryTables r)) 16

/-- The retry set of a bank (R207). -/
def rrtBank (s : State) (b : Nat) : Option RetrySet := if b = 0 then s.ldpc.rrtA else s.ldpc.rrtB

/-- The table of a block: that of its member's RETRY_CLASS and the block's mode, else the class-0 table of the mode (R206). -/
def retryTable (s : State) (bank l : Nat) (slc : Bool) : Option RetryTable :=
  let cls := match s.ret.cal.find l with | some c => if c.readable then c.retryClass else 0 | none => 0
  let ts := ((rrtBank s bank).map retryList).getD []
  match ts.find? (fun t => decide (t.cls = cls ∧ t.slc = slc)) with
  | some t => some t
  | none => ts.find? (fun t => decide (t.cls = 0 ∧ t.slc = slc))

/-! ### Ages and rated endurance (R137, R87, R664) -/

/-- A member's thermal counter in equivalent minutes, cut to 32 bits. -/
def counterMin (s : State) (l : Nat) : Nat := Tab.get 0 s.ret.thermal l / 60000000 % 2 ^ 32

/-- A block's thermal age in equivalent minutes (R137). -/
def ageMinutes (s : State) (l b : Nat) : Nat := (counterMin s l + 2 ^ 32 - (s.block l b).ageBase % 2 ^ 32) % 2 ^ 32

/-- A block's thermal age in equivalent hours (R137). -/
def ageHours (s : State) (l b : Nat) : Nat := ageMinutes s l b / 60

/-- The rated QLC endurance of a member, the reference member's where its row cannot be read (R93, R664). -/
def endQlc (s : State) (l : Nat) : Nat := match s.ret.cal.find l with | some r => if r.readable then r.endQlc else 1500 | none => 1500

def endSlc (s : State) (l : Nat) : Nat := match s.ret.cal.find l with | some r => if r.readable then r.endSlc else 30000 | none => 30000

/-! ### The vectors of a ladder (R203, R204, R208) -/

/-- clamp to −127 … 127. -/
def clampStep (x : Int) : Int := max (-127) (min 127 x)

/-- P[t] of R203: the nearest step to D log2(a ÷ 24) ÷ 16 + W wear ÷ endurance ÷ 16. The wear counter holds sixteenths of a QLC cycle
(R87). -/
def offsetOf (s : State) (l b : Nat) (slc : Bool) (d w : Int) : Int :=
  let lg := log2Fix (max (ageHours s l b) 24) 24
  let wear := (s.block l b).wear
  let den := max 1 (if slc then endSlc s l else 16 * endQlc s l)
  clampStep (roundDiv (d * (lg * den : Nat) + w * (wear * 2 ^ 48 : Nat)) (16 * den * 2 ^ 48))

/-- predict_offsets (R203). With no table for the mode the coefficients are 0. -/
def predictOffsets (s : State) (bank l b : Nat) (slc : Bool) : List Int :=
  let z := List.replicate (if slc then 1 else 15) (0 : Int)
  let t := retryTable s bank l slc
  List.zipWith (offsetOf s l b slc) ((t.map RetryTable.d).getD z) ((t.map RetryTable.w).getD z)

/-- The learned vector of a die and mode, while it is valid (R205): 7 days of life time. -/
def learnedVec (s : State) (l die : Nat) (slc : Bool) : Option (List Int) :=
  match s.ldpc.learned.find ((32 * l + die) * 2 + b2n slc) with
  | some (t, v) => if s.life.now ≤ t + 604800 then some v else none
  | none => none

/-- Sum of two vectors, threshold by threshold. -/
def vecAdd (a b : List Int) : List Int := List.zipWith (· + ·) a b

/-- Difference of two vectors. -/
def vecSub (a b : List Int) : List Int := List.zipWith (· - ·) a b

/-- Σ |a[t] − b[t]|. -/
def vecDist (a b : List Int) : Nat := ((vecSub a b).map Int.natAbs).foldl (· + ·) 0

/-- Every threshold lies within 1 step. -/
def vecClose (a b : List Int) : Bool := (vecSub a b).all (fun x => decide (x.natAbs ≤ 1))

/-- Insert an entry by its distance from P; equal distances keep the lower entry number first. -/
def insertEntry (p e : List Int) (l : List (List Int)) : List (List Int) :=
  match l with
  | [] => [e]
  | x :: r => if vecDist e p ≤ vecDist x p then e :: x :: r else x :: insertEntry p e r

/-- The attempts of RETRY in order (R204): P, P plus the learned vector, then the table's entries by their distance from P, passing over
one that is close to a vector already tried. -/
def retryPlan (s : State) (bank l die b : Nat) (slc : Bool) : List (List Int) :=
  let p := predictOffsets s bank l b slc
  let first := match learnedVec s l die slc with
    | some v => if v.all (fun x => decide (x = 0)) then [p] else [p, vecAdd p v]
    | none => [p]
  let entries := (((retryTable s bank l slc).map RetryTable.entries).getD []).foldr (insertEntry p) []
  entries.foldl (fun tried e => if tried.any (vecClose e) then tried else tried ++ [e]) first

/-- The senses of a soft step around a centre (R208): ± δ for SOFT2, ± 2 δ and ± 3 δ for SOFT3. -/
def softSenses (centre : List Int) (delta : Int) (ks : List Int) : List (List Int) :=
  ks.flatMap (fun k => [centre.map (fun x => x - k * delta), centre.map (fun x => x + k * delta)])

end Sys2Proof.Machine
end

