-- ==== Sys2Proof/Machine/ViewMedia.lean ====
section
/-! DEFINITION. Register views of the media side: MAP, FEN, RET, LIFE, LDPC, UCS, SEAM and MERE. Each view gives the fields that
are not held in the register store, as (lowest bit, value); the base is the offset of the register's first instance. -/

namespace Sys2Proof.Machine

open Sys2Proof

/-- A percentage or share of two counts, 0 where the second is 0. -/
def shareOf (parts a b : Nat) : Nat := if b = 0 then 0 else parts * a / b

/-- Blocks that the Sump holds, in 0.01 % of raw (R101), rounded down (DESIGN CHOICE, log entry 72). -/
def sumpHeld (s : State) : Nat :=
  let fens := List.range (fenCount s)
  shareOf 10000 ((fens.map (sumpBlocks s)).foldl (· + ·) 0) ((fens.map (fenBlocks s)).foldl (· + ·) 0)

/-- The JSEQ of the newest durable record (R100). -/
def jseqDurable (s : State) : Nat := s.map.jseq - 1 - s.map.pendingJ.length

/-- MAP (R99 to R101). Every field reads its reset value 0 until the map is recovered (R15, MAP_STATUS.READY). -/
def viewMap (s : State) (base i : Nat) : List (Nat × Nat) :=
  if s.isSet F.MAP_STATUS_READY = false then []
  else if base = 0x10000000 then [(8, min 100 (fillPct s))]
  else if base = 0x10000004 then [(0, usableTracts s)]
  else if base = 0x10000008 then [(0, mappedTracts s)]
  else if base = 0x1000000C then [(0, sumpTarget s), (12, sumpHeld s), (24, min 100 (sumpFreePct s))]
  else if base = 0x10000010 then [(0, logsActive s), (13, (s.map.copies.filter (fun e => e.2.merge)).length)]
  else if base = 0x10000100 then [(0, if i < fenCount s then stockLeft s i else 0)]
  else if base = 0x10000200 then [(0, s.map.core.spoil.length)]
  else if base = 0x10000208 then
    [(0, match s.map.core.spoil[s.rd F.MAP_SPOIL_SEL_ENTRY]? with
      | some e => bits (spoilBytes e) (32 * i) 32
      | none => 0)]
  else if base = 0x10000308 then [(0, jseqDurable s)]
  else if base = 0x1000030C then [(0, jseqDurable s / 2 ^ 32)]
  else []

/-- FEN_ETA (R134): 0 with no job left; else an estimate of the device's own, which no rule fixes: a free value. -/
def fenEta (s : State) (f : Nat) : Nat := if (jobsLeft s f).isEmpty then 0 else Config.physical (64 * s.life.now + f) % 2 ^ 20

/-- FEN (R134), from the recovery of the map on (R15). -/
def viewFen (s : State) (base i : Nat) : List (Nat × Nat) :=
  if s.isSet F.MAP_STATUS_READY = false then []
  else if base = 0x11000200 then [(0, (jobsLeft s i).length)]
  else if base = 0x11000280 then [(0, fenEta s i)]
  else []

/-- The due stripes whose refresh has not started (R162). -/
def dueWaiting (s : State) : Nat :=
  (s.ret.due.filter (fun id => !(s.map.copies.any (fun c => decide ((tractOf s c.1).stripe = id))))).length

/-- Custodian passes in a state (R162). -/
def passesAt (s : State) (st : Nat) : Nat := (s.ret.passes.filter (fun p => decide (p.state = st ∧ p.origin = 0))).length

/-- RET (R162). -/
def viewRet (s : State) (base i : Nat) : List (Nat × Nat) :=
  if base = 0x12000014 then [(0, passesAt s 1), (3, passesAt s 0), (9, ((s.ret.passes.getLast?).map DredgePass.id).getD 0)]
  else if base = 0x12000018 then [(0, dueWaiting s)]
  else if base = 0x12000100 then
    [(0, match s.ret.passes.find? (fun p => decide (p.id = s.rd F.RET_DREDGE_SEL_PASS_ID)) with
      | some p => bits (passBytes p) (32 * i) 32
      | none => 0)]
  else []

/-- The VBAT cell is below 2.5 V (R163, R662): what the cell does, no command says; a free value. -/
def vbatLow (s : State) : Nat := Config.physical s.free % 2

/-- LIFE (R163): the calendar, and the high words as latched. -/
def viewLife (s : State) (base : Nat) : List (Nat × Nat) :=
  if base = 0x700000 then [(0, s.life.now)]
  else if base = 0x700004 then [(0, s.life.nowHi)]
  else if base = 0x700008 then [(0, unsigned s.life.utc 64)]
  else if base = 0x70000C then [(0, s.life.utcHi)]
  else if base = 0x700010 then [(2, vbatLow s)]
  else []

/-- Word i of a bank's set; 0 beyond it. -/
def rrtWord (s : State) (b i : Nat) : Nat :=
  match rrtBank s b with
  | some r => r.words.getD i 0
  | none => 0

/-- LDPC (R219 to R221). -/
def viewLdpc (s : State) (base i : Nat) : List (Nat × Nat) :=
  if base = 0x13000004 then [(0, min 32 s.image.engine.hostRes)]
  else if base = 0x13000008 then
    let r := rrtBank s (s.rd F.LDPC_RRT_CTL_BANK)
    [(8, (r.map retryTables).getD 0), (16, (r.map retryVersion).getD 0)]
  else if base = 0x13010000 then [(0, rrtWord s 0 i)]
  else if base = 0x13018000 then [(0, rrtWord s 1 i)]
  else []

/-- UCS: the words of the banks and their check bits (R247, R252). -/
def viewUcs (s : State) (base i : Nat) : List (Nat × Nat) :=
  if base = 0x16000000 then [(0, Tab.get 0 s.ucs.bankA i)]
  else if base = 0x16000004 then [(0, Tab.get 0 s.ucs.bankA i / 2 ^ 32)]
  else if base = 0x16010000 then [(0, Tab.get 0 s.ucs.bankB i)]
  else if base = 0x16010004 then [(0, Tab.get 0 s.ucs.bankB i / 2 ^ 32)]
  else []

/-- SEAM: lane and PLL group by STRUCT (R296). -/
def viewSeam (s : State) (base i : Nat) : List (Nat × Nat) :=
  if base = 0x18000004 then [(8, laneOf s i), (17, groupOf s i)] else []

/-- Words of a lap (R327): of a stack's valid regions, or of an on-die memory, some of whose sizes the manual does not give. -/
def lapWords (s : State) (i : Nat) : Nat :=
  if i < 8 then 128 * (s.mere.valid.filter (fun e => decide (e.1 / 8388608 = i))).length
  else if i = 8 then 786432
  else if i = 9 then 262144
  else Config.memoryWords i

/-- MERE: dirty data, valid regions (R328); scrubber laps (R327); a stack's temperature is a physical value. -/
def viewMere (s : State) (base i : Nat) : List (Nat × Nat) :=
  if base = 0x5000000 then [(8, Config.physical (s.free + i))]
  else if base = 0x5000028 then [(0, min 65535 ((dirtyUnits s + 255) / 256))]
  else if base = 0x5000040 then [(0, min 65535 ((dirtyOn s i + 255) / 256))]
  else if base = 0x5000220 then
    let l := Tab.get {} s.mere.laps i
    [(0, l.last), (20, min 100 (100 * l.steps / max 1 (lapWords s i)))]
  else if base = 0x5000280 then [(0, min 8388607 (s.mere.valid.filter (fun e => decide (e.1 / 8388608 = i))).length)]
  else []

end Sys2Proof.Machine
end

