-- ==== Sys2Proof/Machine/ViewHost.lean ====
section
/-! DEFINITION. Register views of the host side and of the always-on blocks: NVQ, SLU, HIF, FAB, CWY, CFG, CLK, BOOT, PWR, UPD and
CUS, as (lowest bit, value) of the fields that are not held in the register store. -/

namespace Sys2Proof.Machine

open Sys2Proof

/-! ### Hosts -/

/-- NVQ (R356, R359, R391). No slot is shared out before a Twima image is in force: SHARED_FREE reads its reset value (R15). -/
def viewNvq (s : State) (base : Nat) : List (Nat × Nat) :=
  let cid := s.rd F.NVQ_CTRL_SEL_INDEX + 1
  if base = 0x2000000 then [(0, s.nvq.slots.length), (16, if s.cfg.run.isSome then sharedFree s else 0)]
  else if base = 0x2000044 then
    (match s.ctrl? cid with
     | some c => [(0, (ctrlSlots s cid).length), (15, 1), (16, (c.sqs.filter (fun e => decide (e.1 ≠ 0))).length)]
     | none => [(0, (ctrlSlots s cid).length)])
  else if base = 0x2000048 then [(0, ((s.ctrl? cid).map Ctrl.res).getD 0)]
  else if base = 0x2000204 then [(0, s.nvq.lcr.length)]
  else if base = 0x2000208 then [(0, (s.nvq.lcr.map (fun r => r.entries.length)).foldl (· + ·) 0)]
  else if base = 0x200020C then [(0, ((s.nvq.deferP.map (fun e => (e.1, e.2.1))).eraseDups).length)]
  else []

/-- Dirty units of a class (R416). -/
def classHeld (s : State) (c : Nat) : Nat := (s.map.dirty.filter (fun e => decide (e.2.cls = c))).length

/-- SLU (R416): the selected class. Dirty data is rounded up to MiB and merge credit down to whole credits. -/
def viewSlu (s : State) (base i : Nat) : List (Nat × Nat) :=
  let c := s.rd F.SLU_CLS_SEL_CLASS
  let u := classUse s c
  if base = 0x4000104 then [(0, bits (recBytes (classRec s c)) (32 * i) 32)]
  else if base = 0x4000124 then [(0, u.last), (10, u.lastMax)]
  else if base = 0x4000128 then
    [(0, (s.nvq.slots.filter (fun e => decide (e.2.cls = c ∧ e.2.state = .fetched))).length), (16, u.merges)]
  else if base = 0x400012C then
    [(0, unsigned (max (-255) (min 255 (mergeCredit s c / 1000))) 9), (16, min 65535 ((classHeld s c + 255) / 256))]
  else if base = 0x4000130 then [(0, min 0xFFFFFFFF u.susp)]
  else []

/-- A window entry's 16 bytes (R426). -/
def windowBytes (w : WindowEntry) : Nat :=
  place [(w.link, 0), (w.func, 8), (w.index, 16), (b2n w.write, 24), (w.barOff % 2 ^ 32, 32), (w.target % 2 ^ 32, 64), (w.sizeLog2, 96)]

/-- HOSTFN gives a PF an expert window (R427, R522). -/
def hasWindow (s : State) (l f : Nat) : Bool :=
  s.image.hostfn.pfs.any (fun e => decide (e.1 = 4 * l + f ∧ e.2.winLog2 ≠ 0))

/-- The translation windows of a PF (R425): window 0 is fixed, WINDOWS supplies the others. -/
def windowsOf (s : State) (l f : Nat) : List WindowEntry :=
  if hasWindow s l f then
    ⟨l, f, 0, 0, 0, 12, true⟩ :: s.hif.windows.filter (fun w => decide (w.link = l ∧ w.func = f ∧ w.index ≠ 0))
  else []

/-- HIF (R433, R435). -/
def viewHif (s : State) (base i : Nat) : List (Nat × Nat) :=
  if base = 0x1000000 then [(10, b2n (decide (i / 2 ∈ s.image.hostfn.split)))]
  else if base = 0x1000104 then
    [(0, match (windowsOf s (s.rd F.HIF_WIN_SEL_LINK) (s.rd F.HIF_WIN_SEL_FUNC)).find?
        (fun w => decide (w.index = s.rd F.HIF_WIN_SEL_INDEX)) with
      | some w => bits (windowBytes w) (32 * i) 32
      | none => 0)]
  else []

/-- MODE of a logical port (R437, R458): 0 where the breakout does not configure it. -/
def portMode (s : State) (lp : Nat) : Nat :=
  if lp ∈ ethPorts s then ((s.image.hostfn.ethModes.find? (fun e => decide (e.1 = lp / 4))).map Prod.snd).getD 0 else 0

/-- FAB (R458, R462). A commit has applied when its write ends. -/
def viewFab (s : State) (base i : Nat) : List (Nat × Nat) :=
  if base = 0x3000000 then [(1, portMode s i)]
  else if base = 0x3000204 then [(0, addrWord s (s.rd F.FAB_ADDR_SEL_ENTRY) i)]
  else []

/-- Migrations that run, in one direction (R483). -/
def migCount (s : State) (out : Bool) : Nat :=
  (s.cwy.migs.filter (fun e => decide (e.2.export_ = out ∧ e.2.ended = 0))).length

/-- Migration streams in use with a peer (R485). -/
def peerStreams (s : State) (p : Nat) (x : Peer) : Nat :=
  ((x.carry.map Carry.stream ++
    (s.cwy.migs.filter (fun e => decide (e.2.peer = p ∧ e.2.ended = 0))).flatMap (fun e => e.2.flow.map Prod.fst)).eraseDups).length

/-- CWY (R483, R485, R486). -/
def viewCwy (s : State) (base i : Nat) : List (Nat × Nat) :=
  let p := s.rd F.CWY_PEER_SEL_ENTRY
  let x := Tab.get {} s.cwy.peers p
  let m := s.cwy.migs.find (s.rd F.CWY_MIG_SEL_MIG)
  if base = 0x3800000 then
    [(0, (s.cwy.peers.filter (fun e => decide (e.2.state = 2))).length), (7, b2n s.cwy.chain), (8, migCount s true), (11, migCount s false)]
  else if base = 0x3800104 then [(0, x.state), (2, if x.state = 2 then x.version else 0), (8, min 8 (peerStreams s p x))]
  else if base = 0x3800108 then [(0, bits x.beat (32 * i) 32)]
  else if base = 0x3800020 then [(0, min 255 s.cwy.found.length)]
  else if base = 0x3800024 then
    [(0, (s.cwy.reports.filter (fun r => decide (r.2 = 0))).length), (8, (s.cwy.reports.filter (fun r => decide (r.2 ≠ 0))).length)]
  else if base = 0x3800204 then
    (match m with
     | some y => [(0, y.tracts), (25, y.pass)]
     | none => [])
  else if base = 0x3800208 then [(0, ((m.map (fun y => y.lost.length)).getD 0))]
  else []

/-! ### Always-on and management blocks -/

/-- CFG: the anti-rollback floor (R60). -/
def viewCfg (s : State) (base : Nat) : List (Nat × Nat) := if base = 0x300008 then [(0, s.cfg.floor)] else []

/-- CLK: a domain's measured frequency (R627) is a physical value. -/
def viewClk (s : State) (base i : Nat) : List (Nat × Nat) := if base = 0x100100 then [(0, Config.physical (s.free + i))] else []

/-- The first 60 bytes of a boot record (R621). -/
def recordHead (r : BootRecord) : Nat :=
  place ([(0x4A425753, 0), (r.startNo % 2 ^ 32, 32), (r.time % 2 ^ 48, 64), (r.cause % 256, 112), (r.slots % 256, 120), (r.done % 256, 128),
    (r.alt % 256, 136), (r.failed % 256, 144), (r.code % 256, 152), (r.skipped % 256, 160), (r.sticky % 256, 168), (r.mereSlow % 256, 176),
    (r.seamSlow % 65536, 192)] ++ (List.range 8).map (fun i => (r.ms.getD i 0 % 2 ^ 32, 224 + 32 * i)))

/-- The 64 bytes of a boot record: CRC32C over bytes 0 to 59. -/
def bootRecordBytes (r : BootRecord) : Nat := recordHead r + 2 ^ 480 * crc32c (leBytes 60 (recordHead r))

/-- BOOT: the selected record of the 64 newest (R622, R628). -/
def viewBoot (s : State) (base i : Nat) : List (Nat × Nat) :=
  if base = 0x200040 then
    [(0, match s.boot.records[s.rd F.BOOT_REC_SEL_AGE]? with
      | some r => bits (bootRecordBytes r) (32 * i) 32
      | none => 0)]
  else []

/-- Hours until the next hold-up test is due (R569). -/
def htHoursLeft (s : State) : Nat :=
  if s.image.power.htHours = 0 then 0 else min 720 ((s.pwr.htDue - s.life.now + 3599) / 3600)

/-- The power state in force (R662): 2 in Fallow until its exit ends. -/
def powerStateNow (s : State) : Nat := if 2 ≤ s.nvq.fallow then 2 else min 1 (devicePs s)

/-- PWR (R569, R662). -/
def viewPwr (s : State) (base : Nat) : List (Nat × Nat) :=
  if base = 0x400014 then [(16, htHoursLeft s)]
  else if base = 0x400050 then
    [(0, powerStateNow s), (2, b2n (decide (s.nvq.fallow = 1))), (3, b2n (decide (s.nvq.fallow = 3)))]
  else if base = 0x400054 then [(8, 1 - vbatLow s)]
  else []

/-- UPD (R589, R590). The firmware record is read at boot step 3: before it UPD_STAT reads its reset value (R15). -/
def viewUpd (s : State) (base i : Nat) : List (Nat × Nat) :=
  if base = 0xA000000 ∧ s.boot.step < 3 then []
  else if base = 0xA000000 then [(0, s.upd.running), (2, s.upd.pending), (4, s.upd.tries)]
  else if base = 0xA000010 then [(0, ((fwSlot s (i + 1)).map FwImage.serial).getD 0)]
  else if base = 0xA000018 then [(0, s.upd.floor)]
  else []

/-- CUS: the nonce, the session and the interrupt sources (R599, R608). An access through the window has ended when its write
ends. -/
def viewCus (s : State) (base i : Nat) : List (Nat × Nat) :=
  if base = 0xB000100 then [(0, bits s.cus.nonce (32 * i) 32)]
  else if base = 0xB000114 then
    [(0, b2n s.cus.isOpen), (1, s.cus.words.length), (4, s.cus.fails), (6, b2n s.cus.lockout), (8, b2n s.cus.recovery), (16, s.cus.number)]
  else if base = 0xB000308 then [(0, packBits (irqSources s))]
  else []

/-- The fields of a register that are views of block state (R9): (lowest bit, value). -/
def viewPart (s : State) (base i : Nat) : List (Nat × Nat) :=
  if base = 0x30 then [(0, s.boot.smbAddr), (3, b2n s.boot.testEn)]
  else if base < 0x100000 then []
  else if base < 0x200000 then viewClk s base i
  else if base < 0x300000 then viewBoot s base i
  else if base < 0x400000 then viewCfg s base
  else if base < 0x500000 then viewPwr s base
  else if 0x700000 ≤ base ∧ base < 0x800000 then viewLife s base
  else if 0x1000000 ≤ base ∧ base < 0x2000000 then viewHif s base i
  else if 0x2000000 ≤ base ∧ base < 0x3000000 then viewNvq s base
  else if 0x3000000 ≤ base ∧ base < 0x3800000 then viewFab s base i
  else if 0x3800000 ≤ base ∧ base < 0x4000000 then viewCwy s base i
  else if 0x4000000 ≤ base ∧ base < 0x5000000 then viewSlu s base i
  else if 0x5000000 ≤ base ∧ base < 0x6000000 then viewMere s base i
  else if 0xA000000 ≤ base ∧ base < 0xB000000 then viewUpd s base i
  else if 0xB000000 ≤ base ∧ base < 0xC000000 then viewCus s base i
  else if 0x10000000 ≤ base ∧ base < 0x11000000 then viewMap s base i
  else if 0x11000000 ≤ base ∧ base < 0x12000000 then viewFen s base i
  else if 0x12000000 ≤ base ∧ base < 0x13000000 then viewRet s base i
  else if 0x13000000 ≤ base ∧ base < 0x14000000 then viewLdpc s base i
  else if 0x16000000 ≤ base ∧ base < 0x18000000 then viewUcs s base i
  else if 0x18000000 ≤ base ∧ base < 0x20000000 then viewSeam s base i
  else []

end Sys2Proof.Machine
end

