-- ==== Sys2Proof/Machine/View.lean ====
section
/-! DEFINITION. What a register reads: the fields that stand in the register store, and the registers that are views of
a block's state (a selected record, a ring slot, a count, a value that depends on the access path). -/

namespace Sys2Proof.Machine

open Sys2Proof

/-! ### Master identities (R522) -/

/-- The master identity of an access path, where R522 gives it one. -/
def masterOf (s : State) (p : AccessPath) : Option Nat :=
  match p with
  | .expertWindow l f => if hasWindow s l.val f.val then some (0x40 + 4 * l.val + f.val) else none
  | .custodian => some 0x30
  | .firmware i => some i.val
  | .hardware m => if 0x20 ≤ m.toNat ∧ m.toNat ≤ 0x26 then some m.toNat else none
  | .reginit => none

/-- The SOURCE of an access violation: the master identity, 0xFF for a path with none in R522 (R535). -/
def violator (s : State) (p : AccessPath) : Nat := (masterOf s p).getD 0xFF

/-- Expert level is open on a path (R17, R56). REGINIT has the force of a path with Expert level open (R42); firmware
and hardware masters hold none (R17). -/
def expertOpen (s : State) (p : AccessPath) : Bool :=
  match p with
  | .reginit => true
  | .expertWindow l f => (Tab.get {} s.cfg.experts (4 * l.val + f.val)).isOpen
  | .custodian => (Tab.get {} s.cfg.experts 32).isOpen
  | .firmware _ => false
  | .hardware _ => false

/-! ### Views, block by block -/

/-- The word that one-word fields of a register make from the register store. -/
def storedWord (s : State) (fs : List Field) (i : Nat) : Nat :=
  fs.foldl (fun a f => a + (if f.acc = .wo then 0 else s.rd f i * 2 ^ f.lsb)) 0

/-- Members in service (R22): the links that R41 and STRUCT give a fen, less those absent or retired. -/
def membersUp (s : State) : Nat := ((memberKeys s).filter (fun k => inService s (k / 32) (k % 32))).length

/-- GLB: the inventory (R22) from boot step 8 on, and the expert-key registers of the path that reads (R58, R59). -/
def viewGlb (s : State) (p : Option AccessPath) (base : Nat) : Option Nat :=
  if base = 0x20 then some (if s.boot.done then
    membersUp s + 1024 * (8 - (stacksFenced s).length) +
      16384 * ((List.range 12).filter (fun q => decide (s.rd F.MBX_PAIR_STAT_STATE q ≠ 2 ∧
        s.rd F.MBX_PAIR_STAT_STATE q ≠ 1 ∧ s.rd F.MBX_PAIR_STAT_ID_A q ≠ 15))).length +
      262144 * ((List.range 12).filter (fun q => decide (s.rd F.MBX_PAIR_STAT_STATE q = 1))).length +
      1048576 * packBits ((List.range 4).map (fun q =>
        s.isSet F.HIF_LINK_STAT_UP (2 * q) || s.isSet F.HIF_LINK_STAT_UP (2 * q + 1)))
    else 0)
  else if base = 0x24 then some (if s.boot.done then
    (288 - hardFenced s) + 512 * (32 - softFenced s) + 32768 * (80 - pipesFenced s) + 4194304 * (160 - lanesFenced s)
    else 0)
  else if base = 0x40 ∨ base = 0x44 ∨ base = 0x4C then
    match p.bind pathKey with
    | none => some 0
    | some k =>
      let e := Tab.get {} s.cfg.experts k
      if base = 0x40 then some (e.nonce % 2 ^ 32)
      else if base = 0x44 then some (e.nonce / 2 ^ 32 % 2 ^ 32)
      else some (b2n e.isOpen + 2 * e.words.length + 16 * e.fails + 64 * b2n e.lockout +
        65536 * (if e.isOpen then (s.image.security.idle - (s.life.now - e.lastUse)) % 4096 else 0))
  else none

/-- The 64 bytes of a Peat entry (R531) as a number. -/
def peatBytes (e : PeatEntry) : Nat :=
  let snaps := (List.range 8).foldl (fun a i => a + e.snaps.getD i 0 % 2 ^ 32 * 2 ^ (32 * i)) 0
  e.seq % 2 ^ 64 + 2 ^ 64 * (e.time % 2 ^ 48) + 2 ^ 112 * (e.code % 2 ^ 16) + 2 ^ 128 * (e.usec % 2 ^ 20) +
    2 ^ 160 * (e.source % 2 ^ 16) + 2 ^ 176 * (e.suppressed % 2 ^ 16) + 2 ^ 192 * (e.arg % 2 ^ 32) +
    2 ^ 224 * (e.sev % 4) + 2 ^ 232 * (e.snaps.length % 256) + 2 ^ 240 * (e.aux % 256) +
    2 ^ 248 * (if e.valid then 0xA5 else 0) + 2 ^ 256 * snaps

/-- Whether the manual gives a Peat code severity 3 (R535): such a code has no rate limit. -/
def peatCritical (code : Nat) : Bool :=
  decide (code ∈ [0x0002, 0x0201, 0x0301, 0x0401, 0x0402, 0x0501, 0x0503, 0x0701, 0x6001, 0x9001])

/-- PEAT: the selected code's registers (R544), SEQ and archive numbers (R545), the ring view (R537). -/
def viewPeat (s : State) (base i : Nat) : Option Nat :=
  let c := s.rd F.PEAT_CODE_SEL_CODE
  let r := Tab.get {} s.peat.codes c
  if base = 0x9000000 then some ((s.peat.next - 1 - s.peat.archived) % 2 ^ 17 +
    2 ^ 17 * s.rd F.PEAT_STAT_DROPPING + 2 ^ 18 * s.rd F.PEAT_STAT_ARCH_BUSY)
  else if base = 0x9000008 then some (s.peat.next % 2 ^ 32)
  else if base = 0x900000C then some s.peat.seqHi
  else if base = 0x9000010 then some (s.peat.archived % 2 ^ 32)
  else if base = 0x9000014 then some s.peat.archHi
  else if base = 0x9000104 then some (r.burst * 2 ^ 10 + (if peatCritical c then 2 ^ 18 else r.rate))
  else if base = 0x9000108 then some (r.pending % 2 ^ 16)
  else if base = 0x9000110 then
    (let v := r.snaps.getD i (0, 0); some (v.1 % 2 + v.2 / 4 * 4))
  else if base = 0x9400000 then some (bits (peatBytes (Tab.get {} s.peat.ring (i / 16))) (32 * (i % 16)) 32)
  else none

/-- The word that a read of MBX_RX returns to a master: a word of the oldest entry, 0 to any other master and from an
empty queue (R524, R525). -/
def mbxRx (s : State) (p : Option AccessPath) (ch w : Nat) : Nat :=
  let c := Tab.get {} s.mbx.chans ch
  if c.receiver ≠ 0xFF ∧ (p.bind (masterOf s)) = some c.receiver then (c.queue.headD []).getD w 0 else 0

/-- MBX: queues and bindings (R529, R530). -/
def viewMbx (s : State) (p : Option AccessPath) (base i : Nat) : Option Nat :=
  if base = 0x8000010 then some (mbxRx s p (i / 4) (i % 4))
  else if base = 0x8000020 then
    let c := Tab.get {} s.mbx.chans i
    some (c.queue.length + 2 ^ 8 * s.rd F.MBX_CH_STAT_OVF i + 2 ^ 16 * c.sender + 2 ^ 24 * c.receiver)
  else if base = 0x8010000 then
    some (packBits ((List.range 32).map (fun b => !(Tab.get {} s.mbx.chans (32 * i + b)).queue.isEmpty)))
  else none

/-- CIP: the engine's summary, the reserved shares and the selected slot (R502, R505). -/
def viewCip (s : State) (base : Nat) : Option Nat :=
  let k := Tab.get {} s.cip.slots (s.rd F.CIP_SLOT_SEL_SLOT)
  if base = 0x6000000 then some (place [((s.cip.slots.filter (fun e => decide (e.2.state ≠ 0))).length, 0),
    (b2n (decide (s.cip.escrowId ≠ 0)), 13), (b2n s.cip.drbgUp, 14)])
  else if base = 0x6000008 then some (place [(s.image.engine.hostPipes, 0), (s.image.engine.hostLanes, 7)])
  else if base = 0x6000104 then some (place [(k.state, 0),
    (b2n (decide (k.state ≠ 0 ∧ k.escrow ≠ 0 ∧ k.escrow = s.cip.escrowId)), 2), (min 16383 k.users, 3)])
  else if base = 0x6000108 then some (if k.state = 0 then 0 else k.nsid)
  else none

/-- A register that is as a whole a view of block state, by its offset (its first instance's) and instance; none where
`viewPart` and the register store give its fields. -/
def viewWord (s : State) (p : Option AccessPath) (base i : Nat) : Option Nat :=
  if base < 0x100000 then viewGlb s p base
  else if 0x6000000 ≤ base ∧ base < 0x7000000 then viewCip s base
  else if 0x8000000 ≤ base ∧ base < 0x9000000 then viewMbx s p base i
  else if 0x9000000 ≤ base ∧ base < 0xA000000 then viewPeat s base i
  else none

/-- What a field holds (R9): its view, else what the register store holds. -/
def fieldValue (s : State) (p : Option AccessPath) (base : Nat) (f : Field) (i : Nat) : Nat :=
  match viewWord s p base i with
  | some w => bits w f.lsb f.width
  | none =>
    match (viewPart s base i).find? (fun e => decide (e.1 = f.lsb)) with
    | some e => e.2 % 2 ^ f.width
    | none => s.rd f i

/-- What a register reads: each field's bits, 0 for a WO field, and 0 for a Level E field without Expert level
(R9, R16). -/
def regWord (s : State) (p : Option AccessPath) (expert : Bool) (r : Reg) (i : Nat) : Nat :=
  r.fields.foldl (fun a f =>
    a + (if f.acc = .wo ∨ (f.expert = true ∧ expert = false) then 0 else fieldValue s p r.base f i * 2 ^ f.lsb)) 0

/-- The word at an aligned offset, as a path reads it; 0 at a reserved offset (R12). -/
def readWord (s : State) (p : AccessPath) (off : Nat) : Nat :=
  match locate off with
  | none => 0
  | some (r, i) => regWord s (some p) (expertOpen s p) r i

/-- A snapshot read (R534): Basic level, no side effect, a register per access path reads 0. -/
def snapWord (s : State) (off : Nat) : Nat :=
  match locate off with
  | none => 0
  | some (r, i) => regWord s none false r i

end Sys2Proof.Machine
end

