-- ==== Sys2Proof/Machine/Ops.lean ====
section
/-! DEFINITION. Named operations that several blocks share: Peat entries, access violations, asynchronous events,
faults absorbed and restored, the finish of a command, the map journal, lost ranges, blocks and stripes. -/

namespace Sys2Proof.Machine

open Sys2Proof

/-- A fresh free value in [0, bound): the manual states none. -/
def State.draw (s : State) (bound : Nat) : Nat := Config.freeNat s.free % bound

/-- Step past a free value. -/
def State.drawn (s : State) : State := { s with free := s.free + 1 }

/-! ### The Peat log (R531 to R538) -/

/-- The codes the device records, with their severities (R535). -/
def peatCodes : List (Nat × Nat) :=
  [(0x0001, 1), (0x0002, 3), (0x0003, 0), (0x0004, 2), (0x0201, 3), (0x0301, 3), (0x0302, 1), (0x0303, 1),
   (0x0401, 3), (0x0402, 3), (0x0403, 2), (0x0501, 3), (0x0502, 2), (0x0503, 3), (0x0701, 3), (0x2001, 1),
   (0x3001, 2), (0x3801, 1), (0x3802, 2), (0x4001, 1), (0x5001, 2), (0x5002, 2), (0x6001, 3), (0x6002, 2),
   (0x7001, 1), (0x8001, 1), (0x9001, 3)] ++
  [(0xC201, 2), (0xC202, 2), (0xC301, 1), (0xC302, 2), (0xC303, 2), (0xC304, 2), (0xC305, 2), (0xC401, 2),
   (0xC601, 2), (0xC801, 1), (0xC802, 1), (0xC803, 2)]

/-- The severity of a code the device records (R535). -/
def peatSev (code : Nat) : Option Nat := (peatCodes.find? (fun e => e.1 = code)).map Prod.snd

/-- Entries not yet archived (R543 UNARCH). -/
def peatUnarch (s : State) : Nat := s.peat.next - 1 - s.peat.archived

/-- Free slots of the ring (R537). -/
def peatFree (s : State) : Nat := 65536 - peatUnarch s - s.peat.held.length

/-- The snapshots of a code, each register read at Basic level with no side effect (R534). -/
def peatSnaps (s : State) (code : Nat) : List Nat :=
  ((Tab.get {} s.peat.codes code).snaps.filter (fun e => e.1 % 2 = 1)).map (fun e => snapWord s e.2)

/-- Whether an event of a severity is dropped (R538): below severity 3 while DROPPING holds, severity 3 when no slot
is free. -/
def peatDrops (s : State) (sev : Nat) : Bool :=
  if sev < 3 then s.isSet F.PEAT_STAT_DROPPING || decide (peatFree s ≤ 1024) else decide (peatFree s = 0)

/-- Set DROPPING when the free slots number 1,024 or fewer, with its event (R538, R545). -/
def peatNote (s : State) : State :=
  if peatFree s ≤ 1024 ∧ s.isSet F.PEAT_STAT_DROPPING = false then
    (s.wr F.PEAT_STAT_DROPPING 1).wr F.PEAT_EVT_DROP 1
  else s

/-- Write one entry with the next SEQ into its slot (R531, R532, R537); while the next SEQ is not known the entry is
held (R533). -/
def peatWrite (s : State) (code source arg aux sev supp : Nat) : State :=
  let e : PeatEntry :=
    { seq := s.peat.next, time := s.life.now % 2 ^ 48, code := code, usec := s.draw 1000000, source := source % 2 ^ 16,
      suppressed := min 0xFFFF supp, arg := arg % 2 ^ 32, sev := sev, aux := aux % 256, valid := true,
      snaps := peatSnaps s code }
  if s.peat.unknown then
    { s with free := s.free + 1, peat := { s.peat with held := s.peat.held ++ [e] } }
  else
    { s with free := s.free + 1,
             peat := { s.peat with next := s.peat.next + 1, ring := s.peat.ring.put (s.peat.next % 65536) e } }

/-- Record an event (R535 to R538): dropped, suppressed by its rate limit, or recorded. -/
def peatRecord (code source arg aux : Nat) (s : State) : State :=
  match peatSev code with
  | none => s
  | some sev =>
    let s := peatNote s
    if peatDrops s sev then
      ({ s with peat := { s.peat with dropped := s.peat.dropped + 1 } }).count F.PEAT_CNT_DROP_COUNT
    else if sev = 3 then peatWrite s code source arg aux sev 0
    else
      let c := Tab.get {} s.peat.codes code
      if c.micro < 1000000 then
        { s with peat := { s.peat with codes := Tab.set {} s.peat.codes code { c with pending := c.pending + 1 } } }
      else
        peatWrite { s with peat := { s.peat with
          codes := Tab.set {} s.peat.codes code { c with micro := c.micro - 1000000, pending := 0 } } }
          code source arg aux sev c.pending

/-- Record an access violation: the offset and the access path (R11, R13, R14, R535). -/
def accessViolation (p : AccessPath) (off : Nat) (s : State) : State :=
  peatRecord 0x0001 (violator s p) off 0 s

/-! ### Finishing a command and asynchronous events (R344, R330, R331) -/

/-- The status code of success. -/
def scOk : Nat := 0

/-- A command's completion is ready (R361 Finished): its status and dwords, and its place in the finish order (R344). -/
def finishCmd (n status dw0 dw1 : Nat) (s : State) : State :=
  match s.slot? n with
  | none => s
  | some c =>
    ({ s with nvq := { s.nvq with finish := s.nvq.finish + 1 } }).putSlot n
      { c with state := .finished, status := status, dw0 := dw0 % 2 ^ 32, dw1 := dw1 % 2 ^ 32, order := s.nvq.finish,
               waits := false }

/-- Dword 0 of an asynchronous event completion (NVMe Base 2.0): type, information, log page. -/
def aenWord (type info page : Nat) : Nat := type % 8 + 256 * (info % 256) + 65536 * (page % 256)

/-- The configuration bit of Feature 0x0B that a notice is under, where it has one. -/
def aenEnabled (c : Ctrl) (type info : Nat) : Bool :=
  match c.feats.find (0x0B * 65536) with
  | none => true
  | some w =>
    if type = 2 then
      if info = 0 then bitOf w 8 else if info = 1 then bitOf w 9 else if info = 3 then bitOf w 11
      else if info = 5 then bitOf w 13 else true
    else true

/-- Post an asynchronous event on one controller: it completes the oldest outstanding request, or waits for one. -/
def aenPost (cid type info page : Nat) (s : State) : State :=
  match s.ctrl? cid with
  | none => s
  | some c =>
    if aenEnabled c type info = false then s
    else
      let s := s.emit (.asyncEvent cid type info page)
      match c.aers with
      | [] => s.putCtrl cid { c with events := addNew (type, info, page) c.events }
      | n :: rest => finishCmd n scOk (aenWord type info page) 0 (s.putCtrl cid { c with aers := rest })

/-- Fold an operation over a list of items. -/
def eachOf {α : Type} (l : List α) (f : α → State → State) (s : State) : State := l.foldl (fun s a => f a s) s

/-- The controllers with an attached namespace (R34). -/
def ctrlsAttached (s : State) : List Nat := (s.nvq.ctrls.filter (fun e => !e.2.attach.isEmpty)).map Prod.fst

/-- A vendor asynchronous event that names the Life log page, on every controller with an attached namespace
(R34, R123, R143). -/
def vendorNotice (s : State) : State :=
  eachOf (ctrlsAttached s) (fun c s => aenPost c 7 (Config.vendorInfo 0xD1) 0xD1 s) s

/-- EARLY refresh, the sampler and Dredge passes rest: in Fallow until its exit ends (R653), and in a thermal hold (R655). -/
def restsEarly (s : State) : Bool := decide (2 ≤ s.nvq.fallow) || s.tmon.hold

/-! ### Faults (R30 to R35) -/

/-- The bits of GLB_FAULT_SUM, as unit classes. -/
def bitMember : Nat := 0
def bitGroup : Nat := 1
def bitStack : Nat := 2
def bitPair : Nat := 3
def bitDecoder : Nat := 4
def bitCipher : Nat := 5
def bitPort : Nat := 6

/-- Add to a lifetime counter of the Life log page (R156). -/
def healthAdd (k n : Nat) (s : State) : State :=
  { s with ret := { s.ret with health := Tab.set 0 s.ret.health k (Tab.get 0 s.ret.health k + n) } }

/-- A fault is absorbed (R31, R34): Peat entry, announcement, and TOLERANCE_SHORT where another fault's restoration is
in progress; the summary follows. The Life log counts it. -/
def faultAbsorbed (bit unit : Nat) (s : State) : State :=
  let s := peatRecord 0x0002 bit unit 0 s
  let s := if restoring s then { s with glb := { s.glb with shortened := true } } else s
  glbRefresh (vendorNotice (healthAdd (100 + bit) 1 s))

/-- A fault's restoration completes (R31, R535 code 0x0003). -/
def faultRestored (bit unit : Nat) (s : State) : State := glbRefresh (peatRecord 0x0003 bit unit 0 s)

/-! ### Bytes: one canonical list (addresses strictly rising, no byte 0 listed) -/

/-- What an address that is not listed reads as: 0 (R308: a region never written reads as zero). -/
def memDefault : BitVec 8 := 0#8

/-- The byte at a Mere address. -/
def memRead (m : List Host.Cell) (a : Nat) : BitVec 8 := Tab.get memDefault m a

/-- Write one byte, keeping the canonical form. -/
def memWrite (m : List Host.Cell) (a : Nat) (b : BitVec 8) : List Host.Cell := Tab.set memDefault m a b

/-- The canonical form of the memory. -/
def Memory.wf (m : List Host.Cell) : Bool := Tab.wf memDefault m

/-- The `n` bytes from an address as a little-endian number (R7). -/
def memLoad (m : List Host.Cell) (a n : Nat) : Nat :=
  match n with
  | 0 => 0
  | n + 1 => (memRead m a).toNat + 256 * memLoad m (a + 1) n

/-- Write `n` little-endian bytes from an address (R7). -/
def memStore (m : List Host.Cell) (a n v : Nat) : List Host.Cell :=
  match n with
  | 0 => m
  | n + 1 => memStore (memWrite m a (BitVec.ofNat 8 v)) (a + 1) n (v / 256)

/-! ### Regions of the Mere (R308 to R310) -/

/-- A region of 4 KiB is valid (R308). -/
def regionValid (s : State) (a : Nat) : Bool := Tab.get false s.mere.valid (a / 4096)

/-- Clear a region's valid bit (R310): it reads as zero at once. -/
def invalidate (r : Nat) (s : State) : State :=
  { s with mere := { s.mere with
      valid := Tab.set false s.mere.valid r false
      mem := s.mere.mem.filter (fun c => decide (c.1 / 4096 ≠ r))
      poisoned := s.mere.poisoned.filter (fun e => decide (e.1 / 128 ≠ r))
      err := s.mere.err.filter (fun e => decide (e.1 / 128 ≠ r)) } }

/-- Mark a region valid; its words that were never written are zeros (R309). -/
def validate (a : Nat) (s : State) : State :=
  if regionValid s a then s
  else
    let s := invalidate (a / 4096) s
    { s with mere := { s.mere with valid := Tab.set false s.mere.valid (a / 4096) true } }

/-- Mere space is freed (R310): its region's valid bit is cleared. -/
def freeRegions (rs : List Nat) (s : State) : State := eachOf rs invalidate s

/-- A region of a stack for new data: the device firmware's own choice among those not valid, a free value (log entry 88). -/
def freshRegion (s : State) (k : Nat) : Nat :=
  let start := Config.freeNat (s.free + k)
  let at_ := fun i => k * 8388608 + (start + i) % 6291456
  at_ (((List.range (s.mere.valid.length + 1)).find? (fun i => !Tab.get false s.mere.valid (at_ i))).getD 0)

/-- Fill a region with one copy of a unit (R24, R25): ciphertext, which the model keeps as plaintext beside it (log entry 88), so that
its bytes are a free value. -/
def fillRegion (r : Nat) (s : State) : State :=
  { s with mere := { s.mere with valid := Tab.set false s.mere.valid r true,
                                 mem := memStore s.mere.mem (4096 * r) 4096 (Config.freeNat (s.free + r)) } }

end Sys2Proof.Machine
end

