-- ==== Sys2Proof/Machine/SluiceOps.lean ====
section
/-! DEFINITION. Tenant classes: records, classification, merge credit and die-time charges (chapter "Sluice: tenants,
budgets and latency under load"). -/

namespace Sys2Proof.Machine

open Sys2Proof

/-! ### Class records (R394) -/

/-- The offsets of the fields that were clamped (R394, R535 code 0x4001). -/
def clampedAt (r : ClassRec) : List Nat :=
  let c := clampRec r
  [(2, r.dieGuar, c.dieGuar), (4, r.dieCeil, c.dieCeil), (6, r.linkGuar, c.linkGuar), (7, r.linkCeil, c.linkCeil),
   (8, r.mereCeil, c.mereCeil), (10, r.dirtyMax, c.dirtyMax), (11, r.mergePar, c.mergePar), (14, r.mergeBurst, c.mergeBurst),
   (15, r.refreshCr, c.refreshCr)].filterMap (fun e => if e.2.1 ≠ e.2.2 then some e.1 else none)

/-- Record each clamped field of a lot (R394). -/
def logClamps (l : SluiceLot) (s : State) : State :=
  eachOf l.classes (fun r s => eachOf (clampedAt r) (fun o s => peatRecord 0x4001 r.cls o 0 s) s) s

/-! ### Classification (R392, R395) -/

/-- The class of a command by its triple: the first rule that matches, else class 0 (R392, R393). -/
def classify (s : State) (cntlid nsid sqid : Nat) : Nat :=
  match s.slu.lot.rules.find? (fun r => (r.cntlid.getD cntlid == cntlid) && (r.sqid.getD sqid == sqid) && (r.nsid.getD nsid == nsid)) with
  | some r => r.cls
  | none => 0

/-- The home class of a namespace (R395). -/
def homeClass (s : State) (nsid : Nat) : Nat :=
  match s.slu.lot.homes.find? (fun e => decide (e.1 = nsid)) with
  | some e => e.2
  | none => 0

/-! ### Merge credit (R403) -/

def putUse (c : Nat) (u : ClassUse) (s : State) : State := { s with slu := { s.slu with use := Tab.set {} s.slu.use c u } }

/-- A class may start another merge: fewer than MERGE_PAR run (R403). -/
def mergeRoom (s : State) (c : Nat) : Bool := decide ((classUse s c).merges < (classRec s c).mergePar)

/-- A merge starts on a class: 1 of its credit, which may fall to −MERGE_BURST; MERGE_DEBT below 0 (R403, R411). With
MERGE_RATE 0 there is no limit. -/
def mergeBegin (c : Nat) (s : State) : State :=
  let r := classRec s c
  let u := classUse s c
  let d := if r.mergeRate = 0 then u.debit else min (2000 * (r.mergeBurst : Int)) (u.debit + 1000)
  let s := putUse c { u with merges := u.merges + 1, debit := d } s
  if mergeCredit s c < 0 then s.wr F.SLU_EVT_MERGE_DEBT 1 else s

/-- A merge of a class has ended. -/
def mergeEnd (c : Nat) (s : State) : State := putUse c { (classUse s c) with merges := (classUse s c).merges - 1 } s

/-- A write of the class that would open a new log waits (R403). -/
def logWaits (s : State) (c : Nat) : Bool := decide ((classRec s c).mergeRate ≠ 0) && decide (mergeCredit s c ≤ 0)

/-! ### Die time (R396) -/

/-- The key of a class on a die. -/
def chargeKey (l d c : Nat) : Nat := 256 * (32 * l + d) + c

/-- Charge die time to a class on a die. -/
def chargeDie (l d c us : Nat) (s : State) : State :=
  let k := chargeKey l d c
  { s with slu := { s.slu with charge := Tab.set 0 s.slu.charge k (Tab.get 0 s.slu.charge k + us) } }

/-- The class is at its ceiling on a die: its charge with its debt (R396, R411). -/
def atCeiling (s : State) (l d c : Nat) : Bool :=
  let k := chargeKey l d c
  decide ((classRec s c).dieCeil ≤ Tab.get 0 s.slu.charge k + Tab.get 0 s.slu.debt k)

/-- The tier-1 allowance of a class on the dies of a fen (R397, R398). -/
def dieAllow (s : State) (f c : Nat) : Nat :=
  ((classRec s c).dieGuar + (classRec s c).refreshCr) * Tab.get 1000 s.slu.scale f / 1000

/-! ### Link time (R399), counted in code-word bytes at the trained rate (R268) -/

/-- Payload bytes of a link in a period of 1 ms. -/
def linkBytes (s : State) (l : Nat) : Nat := if s.isSet F.SEAM_STAT_RATE l then 6250000 else 3125000

/-- What LINK_GUAR gives a class of a link in a period: scaled down in proportion where all sum to more than 100 %. -/
def linkGuar (s : State) (l c : Nat) : Nat :=
  linkBytes s l * (classRec s c).linkGuar / max 100 (s.slu.lot.classes.foldl (fun a r => a + r.linkGuar) 0)

/-- Charge code-word bytes of a link to a class. -/
def chargeLink (l c n : Nat) (s : State) : State :=
  { s with slu := { s.slu with linkUse := Tab.set 0 s.slu.linkUse (256 * l + c) (Tab.get 0 s.slu.linkUse (256 * l + c) + n) } }

/-- The class is at its ceiling on a link. -/
def atLinkCeiling (s : State) (l c : Nat) : Bool :=
  decide (linkBytes s l * (classRec s c).linkCeil ≤ 100 * Tab.get 0 s.slu.linkUse (256 * l + c))

/-- The tier of a class's demand on a die of a fen (R397, R399): within its allowance on the die and its share of the link in tier 0 from
an urgent queue, else in tier 1; above either in tier 2. -/
def tierOf (s : State) (f l d c : Nat) (urgent : Bool) : Nat :=
  let k := chargeKey l d c
  if Tab.get 0 s.slu.charge k + Tab.get 0 s.slu.debt k < dieAllow s f c ∧ (Tab.get 0 s.slu.linkUse (256 * l + c) < linkGuar s l c ∨
      (classRec s c).linkGuar = 0) then
    (if urgent then 0 else 1)
  else 2

/-! ### Host transfers (R400) -/

/-- A host transfer of a class fits into this period: the first always does (log entry 36). -/
def mereFits (s : State) (c n : Nat) : Bool :=
  let u := Tab.get 0 s.slu.mereUse c
  decide (u = 0 ∨ u + n ≤ (classRec s c).mereCeil * 1000000)

/-- Count a host transfer of a class. -/
def chargeMere (c n : Nat) (s : State) : State :=
  { s with slu := { s.slu with mereUse := Tab.set 0 s.slu.mereUse c (Tab.get 0 s.slu.mereUse c + n) } }

end Sys2Proof.Machine
end

