-- ==== Sys2Proof/Machine/MapOps.lean ====
section
/-! DEFINITION. Operations that change the map: blocks, the journal, stripes and lost ranges (chapters "Tracts, stripes
and the map", "Fens, declustered stripes and rebuild"). -/

namespace Sys2Proof.Machine

open Sys2Proof

/-! ### Blocks -/

/-- A block is taken for a stripe in a mode (R87): one last erased in the other mode is erased again. It holds no page yet. -/
def takeBlock (l b : Nat) (slc : Bool) (stripe : Nat) (s : State) : State :=
  let r := s.block l b
  s.putBlock l b { r with
    use := .open, slc := slc, nextPage := 0, stripe := stripe, labelled := false,
    wear := if r.slc = slc then r.wear else min 65535 (r.wear + (if slc then 1 else 16)),
    measRber := 0, measAge := 0, flags := if slc then 2 else 0 }

/-- A page of a block is programmed: its retention record is set afresh (R137); with page 0 (`first`) goes its block label (R173). -/
def blockProgrammed (first : Bool) (l b : Nat) (s : State) : State :=
  let r := s.block l b
  let age := Tab.get 0 s.ret.thermal l
  let r := { r with progTime := s.life.now, ageBase := age / 60000000 % 2 ^ 32, measRber := 0, measAge := 0,
                    flags := if r.slc then 2 else 0 }
  s.putBlock l b (if first then { r with labelled := true, labelTime := s.life.now, labelWear := r.wear, labelThermal := age / 1000000 } else r)

/-- Free a block: its background erase is due (R87). Its code words stay until the erase. -/
def freeBlock (l b : Nat) (s : State) : State :=
  let r := s.block l b
  if r.use = .spoiled ∨ r.use = .factoryBad then s else s.putBlock l b { r with use := .freed, stripe := 0xFFFFFFFF }

/-! ### The journal (R95, R96) -/

/-- Remove from a list of lost ranges what [off, off + len) of a tract covers. -/
def cutLost (ltn off len : Nat) (l : List LostRange) : List LostRange :=
  l.flatMap (fun r =>
    if r.ltn ≠ ltn ∨ r.off + r.len ≤ off ∨ off + len ≤ r.off then [r]
    else
      (if r.off < off then [{ r with len := off - r.off }] else []) ++
      (if off + len < r.off + r.len then [{ r with off := off + len, len := r.off + r.len - (off + len) }] else []))

/-- Effect of one journal record on the map structures (R96, R98). -/
def applyRec (r : JRec) (c : MapCore) : MapCore :=
  match r with
  | .tractMap ltn t =>
    let c := { c with tracts := Tab.set {} c.tracts ltn t }
    let c := if t.lost then c else { c with lost := c.lost.filter (fun r => r.ltn ≠ ltn) }
    if t.state = .unmapped then
      { c with lost := c.lost.filter (fun r => r.ltn ≠ ltn), rows := c.rows.filter (fun e => e.1 / 2048 ≠ ltn) }
    else if t.state = .folded then { c with rows := c.rows.filter (fun e => e.1 / 2048 ≠ ltn) }
    else c
  | .stripeSet id e =>
    let c := { c with stripes := Tab.set {} c.stripes id e }
    if e.kind = 1 then
      { c with rows := c.rows.filter (fun x => !(decide (x.1 / 2048 = e.owner ∧ x.1 % 2048 < e.frontier) &&
          decide ((Tab.get {} c.tracts e.owner).stripe = id))) }
    else c
  | .stripeFree id => { c with stripes := c.stripes.del id }
  | .slotSet id slot addr =>
    (match c.stripes.find id with
     | none => c
     | some e =>
       let absent := putBit e.absent slot false
       let e := { e with slots := e.slots.set slot addr, absent := absent,
                         flags := putBit (putBit e.flags 0 (decide (absent ≠ 0))) 1 (bitOf e.flags 1 && decide (absent ≠ 0)) }
       { c with stripes := Tab.set {} c.stripes id e })
  | .fillRows ltn first count stripe row =>
    let e := Tab.get {} c.stripes stripe
    { c with rows := (List.range count).foldl (fun t i => t.put (2048 * ltn + first + i) (stripe, row + i)) c.rows,
             stripes := Tab.set {} c.stripes stripe { e with frontier := max e.frontier (row + count) } }
  | .logOpen log pred ltn stripe =>
    { c with logs := c.logs.put log { ltn := ltn, stripe := stripe, pred := pred } }
  | .logUnits log first logUnit count =>
    match c.logs.find log with
    | none => c
    | some d =>
      let sub := (List.range count).foldl
        (fun t i => Tab.set 0xFFFF t (first + i) (if logUnit = 0xFFFE then 0xFFFE else logUnit + i)) d.submap
      let d := { d with submap := sub, fill := if logUnit = 0xFFFE then d.fill else max d.fill (logUnit + count),
                        live := (sub.filter (fun e => decide (e.2 ≠ 0xFFFE))).length }
      { c with logs := c.logs.put log d }
  | .logClose log =>
    { c with logs := (c.logs.del log).map (fun e => (e.1, if e.2.pred = some log then { e.2 with pred := none } else e.2)) }
  | .spoilAdd e => { c with spoil := c.spoil ++ [e] }
  | .nsExtent nsid index first count =>
    let l := Tab.get [] c.extents nsid
    let l' := if count = 0 then l.eraseIdx index else if index < l.length then l.set index (first, count) else l ++ [(first, count)]
    { c with extents := Tab.set [] c.extents nsid l' }
  | .membership fen index _ new => { c with members := c.members.put (32 * fen + index) new }
  | .lostRange r =>
    { c with lost := c.lost ++ [r],
             tracts := Tab.set {} c.tracts r.ltn { (Tab.get {} c.tracts r.ltn) with lost := true } }
  | .ckptMark _ _ _ => c

/-- Append a record to the journal in the Mere: it takes the next JSEQ and the mirrored map holds the change at once
(R95). The fill that the Sump target follows changes with it (R78). -/
def journal (r : JRec) (s : State) : State :=
  let m := { s.map with core := applyRec r s.map.core, jseq := s.map.jseq + 1, pendingJ := s.map.pendingJ ++ [(s.map.jseq, r)] }
  { s with map := { m with fillAt := percentCrossed { s with map := m } } }

/-- The JSEQ of the newest record appended. -/
def lastJ (s : State) : Nat := s.map.jseq - 1

/-- The newest durable JSEQ (R100). -/
def durableJseq (s : State) : Nat :=
  match s.map.pendingJ with
  | (j, _) :: _ => j - 1
  | [] => s.map.jseq - 1

/-! ### Stripes (R88 to R91) -/

/-- Candidates of R88 in a fen: (wear, rank, member, block). -/
def stripeCands (s : State) (f : Nat) : List (Nat × Nat × Nat × Nat) :=
  (List.range 32).filterMap (fun m =>
    if takesBlocks s f m then
      match leastWorn s (memberLink s f m) with
      | some (w, b) => some (w, (m + 32 - Tab.get 0 s.map.rot f % 32) % 32, m, b)
      | none => none
    else none)

/-- Insert a candidate by (wear, rank). -/
def insertCand (c : Nat × Nat × Nat × Nat) (l : List (Nat × Nat × Nat × Nat)) : List (Nat × Nat × Nat × Nat) :=
  match l with
  | [] => [c]
  | d :: r => if c.1 < d.1 ∨ (c.1 = d.1 ∧ c.2.1 ≤ d.2.1) then c :: d :: r else d :: insertCand c r

/-- Candidates sorted by (wear, rank) (R88). -/
def sortCands (l : List (Nat × Nat × Nat × Nat)) : List (Nat × Nat × Nat × Nat) := l.foldr insertCand []

/-- The 28 blocks of R88, in slot order by member index; none where fewer than 28 members qualify. -/
def pickStripe (s : State) (f : Nat) : Option (List (Nat × Nat)) :=
  let c := (sortCands (stripeCands s f)).take 28
  if c.length < 28 then none
  else some ((List.range 32).filterMap (fun m => (c.find? (fun x => x.2.2.1 = m)).map (fun x => (x.2.2.1, x.2.2.2))))

/-- The lowest stripe index of a fen that is free and not in the 2 s hold of R181 (log entry 7). -/
def freeIndex (s : State) (f fuel n : Nat) : Nat :=
  match fuel with
  | 0 => n
  | fuel + 1 =>
    if (s.map.core.stripes.find (f * 2 ^ 24 + n)).isSome || decide (f * 2 ^ 24 + n ∈ s.map.reuse) then
      freeIndex s f fuel (n + 1)
    else n

/-- The stripe ID the fen gives next. -/
def newStripeId (s : State) (f : Nat) : Nat :=
  f * 2 ^ 24 + freeIndex s f (s.map.core.stripes.length + s.map.reuse.length) 0

/-- Allocate a stripe in a fen (R88): its ID and the state in which its blocks are open; none where the fen cannot. The
entry is not journalled yet. -/
def allocStripe (s : State) (f : Nat) (slc : Bool) : Option (Nat × List Nat × State) :=
  match pickStripe s f with
  | none => none
  | some l =>
    let id := newStripeId s f
    let s := { s with map := { s.map with rot := Tab.set 0 s.map.rot f (Tab.get 0 s.map.rot f + 1) } }
    some (id, l.map (fun p => blockAddr p.1 p.2 false), eachOf l (fun p => takeBlock (memberLink s f p.1) p.2 slc id) s)

/-- The conditions of R89 on a fen. -/
def fenAccepts (s : State) (f : Nat) : Bool :=
  decide (s.rd F.FEN_STATE_BENCH f ≤ 1) && !s.fen.bench5 && decide (stockFloor s f + 28 ≤ fenSpare s f) &&
    (pickStripe s f).isSome && decide (f ∉ s.fen.evac)

/-- The next fen in rotation that accepts a tract (R89), other than `own`. -/
def nextFen (s : State) (own : Option Nat) : Option Nat :=
  ((List.range (fenCount s)).map (fun i => (s.map.fenRot + i) % fenCount s)).find?
    (fun f => decide (some f ≠ own) && fenAccepts s f)

/-- Advance the fen rotation past a fen (R89). -/
def advanceRot (f : Nat) (s : State) : State := { s with map := { s.map with fenRot := (f + 1) % max 1 (fenCount s) } }

/-- Forget a stripe that the retention lists name: it has been rewritten or freed. -/
def forgetDue (id : Nat) (s : State) : State :=
  { s with ret := { s.ret with due := dropOne id s.ret.due, early := dropOne id s.ret.early } }

/-- Release a stripe's blocks once a JSEQ is durable (R91); no refresh of it is due any more. -/
def releaseAfter (j id : Nat) (s : State) : State :=
  forgetDue id { s with map := { s.map with releases := s.map.releases ++ [(j, id)] } }

/-- Return a stripe's blocks to the free sets (R91): each is due for its background erase. -/
def releaseSlots (f : Nat) (slots : List Nat) (s : State) : State :=
  eachOf slots (fun a s => if a = 0xFFFFFFFF then s else
    let p := addrPlace s f a
    freeBlock p.1 p.2 s) s

/-- A block's bit in its hewer's barred-block bitmap (R234) is set, once firmware has placed a bitmap (HEW_BAR_BASE is not 0). -/
def barBlock (l b : Nat) (s : State) : State :=
  let base := s.rd F.HEW_BAR_BASE_ADDR l
  let a := base * 64 + b / 8
  if base = 0 ∨ 2 ^ 38 ≤ a then s
  else
    { s with mere := { s.mere with mem := memStore s.mere.mem a 1 (putBit (memLoad s.mere.mem a 1) (b % 8) true) } }

/-- Enter a block in the Spoil table (R92, R93, R234): its barred bit is set first, and it is never allocated again. WEAR is in QLC
cycles. -/
def spoilBlock (l b reason flags : Nat) (s : State) : State :=
  let s := barBlock l b s
  let r := s.block l b
  journal (.spoilAdd { link := l, block := b, reason := reason, flags := flags, wear := r.wear / 16, time := s.life.now })
    (s.putBlock l b { r with use := .spoiled })

/-! ### Lost units (R121, R384) -/

/-- Add ranges to the pending report of a (key, namespace) pair (R384, R385). -/
def armReport (key : HostKey) (nsid n first : Nat) (l : List (HostKey × Nat × Nat × Nat)) : List (HostKey × Nat × Nat × Nat) :=
  if l.any (fun e => decide (e.1 = key ∧ e.2.1 = nsid)) then
    l.map (fun e => if e.1 = key ∧ e.2.1 = nsid then (key, nsid, e.2.2.1 + n, min e.2.2.2 first) else e)
  else l ++ [(key, nsid, n, first)]

/-- The controllers attached to a namespace. -/
def ctrlsOf (s : State) (nsid : Nat) : List Nat :=
  (s.nvq.ctrls.filter (fun e => decide (nsid ∈ e.2.attach))).map Prod.fst

/-- The fen of a tract's stripe, where it has one. -/
def ownerFen (s : State) (ltn : Nat) : Option Nat :=
  let t := tractOf s ltn
  if t.stripe = 0xFFFFFFFF then none else some (stripeFen t.stripe)

/-- Declare a range of a tract lost (R121): LOST_RANGE is journalled and LOST set, the count and event follow, each host
key attached to the namespace gets a pending report and each controller an LBA status notice (R384). -/
def declareLost (ltn off len units : Nat) (s : State) : State :=
  let s := journal (.lostRange { ltn := ltn, off := off, len := len }) s
  let s := (s.count F.FEN_LOST_CNT_COUNT units).wr F.FEN_EVT_LOST_DECLARED 1
  let s := healthAdd 3 units s
  let s := match ownerFen s ltn with
    | some f => healthAdd (200 + f) units s
    | none => s
  match tractOwner s ltn with
  | none => s
  | some (nsid, t) =>
    let cs := ctrlsOf s nsid
    let keys := cs.filterMap (fun c => (s.ctrl? c).map hostKeyOf)
    let first := t * (tractBytes s / 512) + off
    let s := { s with nvq := { s.nvq with deferP := keys.eraseDups.foldl (fun l k => armReport k nsid 1 first l) s.nvq.deferP } }
    eachOf cs (fun c s => aenPost c 2 0x05 0x0E s) s

/-- Declare one tract unit lost (R121). -/
def declareUnitLost (ltn u : Nat) (s : State) : State := declareLost ltn (8 * u) 8 1 s

/-- A range of a tract meets a lost range. -/
def hitsLost (s : State) (ltn off len : Nat) : Bool :=
  s.map.core.lost.any (fun r => decide (r.ltn = ltn ∧ off < r.off + r.len ∧ r.off < off + len))

/-- A write or deallocation replaces lost ranges (R121). The tract's TRACT_MAP record clears LOST and with it the tract's ranges;
the ranges left are recorded again (R95). -/
def clearLost (ltn off len : Nat) (s : State) : State :=
  if hitsLost s ltn off len then
    let left := (cutLost ltn off len s.map.core.lost).filter (fun r => decide (r.ltn = ltn))
    eachOf left (fun r s => journal (.lostRange r) s) (journal (.tractMap ltn { (tractOf s ltn) with lost := false }) s)
  else s

/-- One Error Information entry of a controller, newest first, with its count (R332, R386). -/
def errorLog (cid : Nat) (e : Nat × Nat × Nat × Nat × Nat × Nat) (s : State) : State :=
  match s.ctrl? cid with
  | none => s
  | some c => healthAdd (4096 + cid) 1 (s.putCtrl cid { c with errors := (e :: c.errors).take 256 })

/-- The pending reports that a command carries (R385): those of its host key for its namespace, for every namespace with
NSID 0xFFFF_FFFF. -/
def reportsFor (s : State) (c : Ctrl) (nsid : Nat) : List (HostKey × Nat × Nat × Nat) :=
  s.nvq.deferP.filter (fun e => decide (e.1 = hostKeyOf c ∧ (nsid = 0xFFFFFFFF ∨ e.2.1 = nsid)))

/-- A command carries the pending reports (R385, R386): it is not executed, the reports are cleared, one Error Information
entry for each. -/
def carryReport (n : Nat) (s : State) : State :=
  match s.slot? n with
  | none => s
  | some k =>
    match s.ctrl? k.ctrl with
    | none => s
    | some c =>
      let r := reportsFor s c k.sqe.nsid.toNat
      let s := { s with nvq := { s.nvq with deferP := s.nvq.deferP.filter (fun e => decide (e ∉ r)) } }
      let s := eachOf r (fun e s => errorLog k.ctrl (k.sqid, k.sqe.cid.toNat, 0x7C0, e.2.1, e.2.2.2, e.2.2.1) s) s
      finishCmd n 0x7C0 0 0 (s.count F.NVQ_CNT_DEFER_COUNT)

/-- Units lost before they were durable (R368): a command that waits for them completes with the deferred-error status. -/
def coverLost (keys : List Nat) (s : State) : State :=
  eachOf (s.nvq.slots.filter (fun e => e.2.waits && e.2.covers.any (fun k => decide (k ∈ keys)))) (fun e s => carryReport e.1 s) s

/-! ### Durability (R91, R95, R367) -/

/-- A command waits for durability: it waits neither for the generator nor for a re-apply (R497, R51). -/
def waitsDurable (s : State) (n : Nat) (c : Cmd) : Bool :=
  c.waits && decide (n ∉ s.cip.waiters) && decide (n ∉ s.cfg.heldCreates)

/-- What a waiting command needs is there: its records are durable and the units it covers are no longer dirty (R367). -/
def durableFor (s : State) (c : Cmd) : Bool :=
  decide (c.coverJ ≤ durableJseq s) && c.covers.all (fun k => (s.map.dirty.find k).isNone)

/-- Finish every command whose wait for durability is over. -/
def wakeDurable (s : State) : State :=
  eachOf (s.nvq.slots.filter (fun e => waitsDurable s e.1 e.2 && durableFor s e.2))
    (fun e s => finishCmd e.1 e.2.status e.2.dw0 e.2.dw1 s) s

/-- A released stripe's blocks return and its ID is freed; the ID is held until 2 s after the record is durable
(R91, R181). -/
def releaseStripe (id : Nat) (s : State) : State :=
  let s := releaseSlots (stripeFen id) (stripeOf s id).slots s
  let s := journal (.stripeFree id) s
  { s with map := { s.map with reuse := addNew id s.map.reuse } }

/-- Release the stripes whose ending record is durable (R91). -/
def releaseDue (s : State) : State :=
  let due := s.map.releases.filter (fun e => decide (e.1 ≤ durableJseq s))
  let s := { s with map := { s.map with releases := s.map.releases.filter (fun e => !decide (e.1 ≤ durableJseq s)) } }
  eachOf due (fun e s => releaseStripe e.2 s) s

/-- Mere copies of stripes refreshed in place are released once their STRIPE_SET record is durable (R128). -/
def releaseInPlace (s : State) : State :=
  { s with map := { s.map with inPlace := s.map.inPlace.filter (fun e => decide (durableJseq s < e.2)) } }

/-- The first `n` records appended are programmed and durable. -/
def durableFirst (n : Nat) (s : State) : State :=
  let d := s.map.durableJ ++ s.map.pendingJ.take n
  let p := s.map.pendingJ.drop n
  wakeDurable (releaseInPlace (releaseDue { s with map := { s.map with durableJ := d, pendingJ := p } }))

/-! ### Stripes in the table, slots and media -/

/-- Put a stripe entry without a record: a stripe that no record names yet (R83, R86), or a journal stripe, whose records would
follow one another without end. -/
def putStripe (id : Nat) (e : Stripe) (s : State) : State :=
  s.setCore { s.map.core with stripes := Tab.set {} s.map.core.stripes id e }

/-- The record that states a stripe's entry (R96). -/
def journalStripe (id : Nat) (s : State) : State := journal (.stripeSet id (stripeOf s id)) s

/-- No record names the stripe yet: a copy's new stripe before its commit (R83), a journal stripe. -/
def unnamed (s : State) (id : Nat) : Bool :=
  decide ((stripeOf s id).kind = 5) || s.map.copies.any (fun c => decide (c.2.newStripe = id))

/-- Change a stripe's entry: its STRIPE_SET record is appended (R95). -/
def setStripe (id : Nat) (e : Stripe) (s : State) : State :=
  if unnamed s id then putStripe id e s else journal (.stripeSet id e) s

/-- Rows of a stripe: 2,048 in QLC mode, 512 in SLC mode (R64). -/
def stripeRows (e : Stripe) : Nat := if e.kind = 1 then 2048 else 512

/-- A stripe that is programmed to its end: its blocks are no longer open for program (R88). -/
def closeStripe (id : Nat) (s : State) : State :=
  if (stripeOf s id).frontier < stripeRows (stripeOf s id) then s
  else
    eachOf (stripeOf s id).slots (fun a s =>
      let p := addrPlace s (stripeFen id) a
      let b := s.block p.1 p.2
      if b.use = .open ∧ b.stripe = id then s.putBlock p.1 p.2 { b with use := .full } else s) s

/-- Rows of a stripe are programmed: the records of its blocks that take programs follow; `first` where page 0 is among them. -/
def rowsProgrammed (id : Nat) (first : Bool) (s : State) : State :=
  let e := stripeOf s id
  eachOf ((List.range 28).filter (fun i => !bitOf e.absent i)) (fun i s =>
    match e.slots[i]? with
    | none => s
    | some a => let p := addrPlace s (stripeFen id) a; blockProgrammed first p.1 p.2 s) s

/-- Rows of an open stripe are about to be programmed: a slot whose member has gone absent is skipped and marked in ABSENT (R86). -/
def skipAbsent (id : Nat) (s : State) : State :=
  let e := stripeOf s id
  let gone := (absentSlots s id).filter (fun i => !bitOf e.absent i)
  if gone.isEmpty then s
  else setStripe id { e with absent := gone.foldl (fun a i => putBit a i true) e.absent, flags := putBit e.flags 0 true } s

/-- Raise a stripe's FRONTIER. -/
def setFrontier (id n : Nat) (s : State) : State :=
  let e := stripeOf s id
  if n = e.frontier then s
  else closeStripe id (setStripe id { e with frontier := n } (rowsProgrammed id (decide (e.frontier = 0)) s))

/-- Allocate a stripe of a kind in a fen and open it in the table (R88). -/
def openStripe (f kind : Nat) (slc : Bool) (owner : Nat) (s : State) : Option (Nat × State) :=
  (allocStripe s f slc).map (fun r =>
    (r.1, putStripe r.1 { kind := kind, geom := geomCode s, owner := owner, slots := r.2.1 } r.2.2))

/-- A metadata stripe draws on the reservation of the first fen that has room (R90, R181), does not evacuate (R127) and may be taken;
its STRIPE_SET is journalled. -/
def metaStripeIn (may : Nat → Bool) (kind : Nat) (s : State) : Option (Nat × State) :=
  match (List.range (fenCount s)).find? (fun f => may f && decide (metaBlocks s f + 28 ≤ metaReserve s f) && (pickStripe s f).isSome &&
      decide (f ∉ s.fen.evac)) with
  | none => none
  | some f => (openStripe f kind true 0xFFFFFFFF s).map (fun r => (r.1, journalStripe r.1 r.2))

/-- A metadata stripe in any fen. -/
def metaStripe (kind : Nat) (s : State) : Option (Nat × State) := metaStripeIn (fun _ => true) kind s

/-- A code word as it is programmed into a slot (R107, R172): the identity half comes from the stripe's entry, the slot's address and
the life calendar. -/
def stampWord (s : State) (id slot a : Nat) (c : CodeWord) : CodeWord :=
  let e := stripeOf s id
  { c with kind := e.kind, stripe := id, slot := slot, time := s.life.now, ver := 1, geom := e.geom, slc := decide (e.kind ≠ 1),
           spare := bitOf a 31, owner := e.owner, link := (addrPlace s (stripeFen id) a).1, member := a / 1048576 % 32,
           device := s.cfg.serial }

/-- Program one code word of a stripe's slot at an address (R69). -/
def programAt (id row slot w a : Nat) (c : CodeWord) (s : State) : State :=
  let p := addrPlace s (stripeFen id) a
  let k := mediaKey p.1 p.2 row w
  { s with map := { s.map with media := s.map.media.put k (stampWord s id slot a c), bad := dropOne k s.map.bad,
                               dead := dropOne k s.map.dead } }

/-- Program one code word of a stripe; a slot marked in ABSENT is skipped (R86). -/
def storeWord (id row slot w : Nat) (c : CodeWord) (s : State) : State :=
  match (stripeOf s id).slots[slot]? with
  | none => s
  | some a => if bitOf (stripeOf s id).absent slot then s else programAt id row slot w a c s

/-- Leaves smaller than 4 KiB: a unit of the tract carries one tag for all of them (R177). -/
def unitTagged (s : State) (ltn : Nat) : Bool :=
  match tractOwner s ltn with
  | some (n, _) => (s.ns? n).any (fun x => decide (x.leafShift < 12))
  | none => false

/-- Program one tract unit in a data slot (R65, R174). -/
def putUnit (id row slot w : Nat) (d : UnitData) (ltn unit : Nat) (s : State) : State :=
  storeWord id row slot w { data := d, ltn := ltn, unit := unit, unitTag := unitTagged s ltn } s

/-- Program one unit of a metadata stripe (R175): unit `n` of its stream. -/
def putMeta (id n : Nat) (payload seq index : Nat) (s : State) : State :=
  let p := unitPlace s n
  storeWord id p.1 p.2.1 p.2.2 { data := { payload := payload }, meta_ := some { seq := seq, index := index } } s

/-- Program the parity slots of a row (R105). -/
def putParity (id row : Nat) (s : State) : State :=
  eachOf (List.range 4) (fun w s =>
    let p := rsParity (geoP s) ((List.range (geoK s)).map (fun i => symbolAt s id row i w))
    eachOf (List.range (geoP s)) (fun i s => storeWord id row (geoK s + i) w { parity := some (p.getD i 0) } s) s) s

/-- A block's code words leave the media: it is erased (R87). -/
def wipeBlock (l b : Nat) (s : State) : State :=
  { s with map := { s.map with media := s.map.media.filter (fun e => e.1 / 8192 ≠ 1048576 * l + b),
                               bad := s.map.bad.filter (fun k => k / 8192 ≠ 1048576 * l + b),
                               dead := s.map.dead.filter (fun k => k / 8192 ≠ 1048576 * l + b) } }

/-- The code words of a block, as (4 row + w, word). -/
def blockWords (s : State) (l b : Nat) : List (Nat × CodeWord) :=
  (s.map.media.filter (fun e => decide (e.1 / 8192 = 1048576 * l + b))).map (fun e => (e.1 % 8192, e.2))

/-- Program code words into a slot at its present address (R86, R107); the block's records follow. -/
def writeSlot (id slot : Nat) (ws : List (Nat × CodeWord)) (s : State) : State :=
  match (stripeOf s id).slots[slot]? with
  | none => s
  | some a =>
    let p := addrPlace s (stripeFen id) a
    let s := eachOf ws (fun e s => storeWord id (e.1 / 4) slot (e.1 % 4) e.2 s) s
    if (stripeOf s id).frontier = 0 then s else blockProgrammed true p.1 p.2 s

/-- The members a stripe uses. -/
def stripeMembers (s : State) (id : Nat) : List Nat := (stripeOf s id).slots.map (fun a => a / 1048576 % 32)

/-- A replacement for a slot: the least-worn free block of a member not in the stripe (R86, R116): (member, block). -/
def spareFor (s : State) (id : Nat) : Option (Nat × Nat) :=
  match (sortCands (stripeCands s (stripeFen id))).filter (fun c => decide (c.2.2.1 ∉ stripeMembers s id)) with
  | [] => none
  | c :: _ => some (c.2.2.1, c.2.2.2)

/-- A slot of a stripe is absent from now on: nothing is there to read. -/
def slotGone (id slot : Nat) (s : State) : State :=
  let e := stripeOf s id
  setStripe id { e with absent := putBit e.absent slot true, flags := putBit e.flags 0 true } s

/-- A slot's block is replaced by a spare block and its rows are programmed there from the source (R86); with no spare the slot is
absent. -/
def replaceSlot (id slot l b : Nat) (s : State) : State :=
  let f := stripeFen id
  let slc := (s.block l b).slc
  let ws := blockWords s l b
  match spareFor s id with
  | some (m, b2) =>
    let s := journal (.slotSet id slot (blockAddr m b2 false)) (takeBlock (memberLink s f m) b2 slc id s)
    closeStripe id (writeSlot id slot ws s)
  | none => slotGone id slot s

/-- A program fails on a slot of a stripe being written (R86, R93): its block enters the Spoil table and the slot is replaced. -/
def failSlotOf (id slot : Nat) (s : State) : State :=
  match (stripeOf s id).slots[slot]? with
  | none => s
  | some a =>
    let p := addrPlace s (stripeFen id) a
    wipeBlock p.1 p.2 (replaceSlot id slot p.1 p.2 (spoilBlock p.1 p.2 1 1 s))

/-! ### The journal's rows (R95, R182) -/

/-- Journal units that a row takes from a position in its stripe: unit 0 of the stripe is its header. -/
def rowFirst (row : Nat) : Nat := if row = 0 then 1 else 0

/-- The journal stripe whose rows are being programmed: one that has begun, else the one that the chain names next, else a new one;
its successor is allocated before its header is written (R182). -/
def journalOpen (s : State) : Option (Nat × State) :=
  match (stripesWhere s (fun _ e => decide (e.kind = 5 ∧ 0 < e.frontier ∧ e.frontier < 512))).head? with
  | some (id, _) => some (id, s)
  | none =>
    match (match s.map.jnext with
      | some id => some (id, s)
      | none => metaStripe 5 s) with
    | none => none
    | some (id, s) =>
      (metaStripe 5 s).map (fun r => (id, { r.2 with map := { r.2.map with jnext := some r.1 } }))

/-- The journal stripe that holds the newest programmed record: PREV of the next one. -/
def journalLast (s : State) : Nat :=
  ((s.map.jlast.foldl (fun (a : Option (Nat × Nat)) e =>
    match a with
    | none => some e
    | some x => if x.2 ≤ e.2 then some e else some x) none).map Prod.fst).getD 0xFFFFFFFF

/-- Write the units of a journal row (R95, R96, R182): the header where it is the stripe's first row, the records, PAD. -/
def writeJournalRow (id row : Nat) (recs : List (Nat × JRec)) (s : State) : State :=
  let base := rowUnits s * row
  let pos := 128 * rowFirst row
  let s := if row = 0 then
    putMeta id 0 (journalHeader (journalLast s) (s.map.jnext.getD 0xFFFFFFFF) ((recs.head?.map Prod.fst).getD 0) s.life.now) 0 0 s
  else s
  let pieces := recPieces pos recs
  putParity id row (eachOf ((List.range (rowUnits s)).filter (fun j => decide (rowFirst row ≤ j))) (fun j s =>
    putMeta id (base + j) (journalUnit pieces (j - rowFirst row)) (unitSeq j pos recs) (base + j) s) s)

/-- Allocate `n` metadata stripes of a kind; none where one cannot be had. -/
def metaStripes (n kind : Nat) (s : State) : Option (List Nat × State) :=
  match n with
  | 0 => some ([], s)
  | n + 1 => (metaStripe kind s).bind (fun r => (metaStripes n kind r.2).map (fun q => (r.1 :: q.1, q.2)))

/-- A checkpoint starts unless one runs (R97, R102): it takes a copy of every structure of R94 as of the newest JSEQ, and the
retention table and the thermal counters after them (R138, R139). -/
def startCheckpoint (s : State) : State :=
  if s.map.ckptNew.isSome then s
  else
    match metaStripes (ckptStripes s) 4 s with
    | none => s
    | some (ids, s) =>
      let no := s.map.ckptNo + 1
      let c : Checkpoint := { number := no, stripe := ids.headD 0xFFFFFFFF, stripes := ids, jseq := lastJ s, core := s.map.core,
                              wear := s.map.blocks.map (fun e => (e.1, e.2.wear)), time := s.life.now, retain := s.map.blocks,
                              thermal := s.ret.thermal, lastAlive := s.life.lastAlive, linkMax := s.ret.linkMax }
      let s := s.wr F.MAP_STATUS_CKPT_BUSY 1
      { s with map := { s.map with ckptNo := no, ckptNew := some c, junits := 0 } }

/-- 4 GiB of journal have accumulated since the last checkpoint: one starts (R97). -/
def journalNote (s : State) : State := if 2 ^ 20 ≤ s.map.junits then startCheckpoint s else s

/-- Program the open journal row (R95): its records are durable. A failing program moves the slot and the row is programmed again
(R192). -/
def programJournal (ok : Bool) (s : State) : State :=
  if s.map.pendingJ.isEmpty then s
  else
    match journalOpen s with
    | none => s
    | some (id, s) =>
      if ok = false then failSlotOf id (s.draw 28) s.drawn
      else
        let s := skipAbsent id s
        let row := (stripeOf s id).frontier
        let n := rowTakes (128 * rowUnits s) (128 * rowFirst row) s.map.pendingJ
        let recs := s.map.pendingJ.take n
        let s := writeJournalRow id row recs s
        let s := { s with map := { s.map with jlast := s.map.jlast.put id ((recs.getLast?.map Prod.fst).getD 0),
                                              junits := s.map.junits + rowUnits s } }
        journalNote (durableFirst n (setFrontier id (row + 1) s))

/-- Program rows until every record of the first `n` is durable, `fuel` rows at most. -/
def programUntil (fuel j : Nat) (s : State) : State :=
  match fuel with
  | 0 => s
  | fuel + 1 => if j ≤ durableJseq s then s else programUntil fuel j (programJournal true s)

/-- Every record appended so far is made durable: a waiter has the open row programmed, and the next ones (R95). -/
def makeDurable (s : State) : State := programUntil s.map.pendingJ.length (lastJ s) s

/-! ### Anchor records (R184, R185) -/

/-- The 16 bytes that an anchor record gives a checkpoint (R184): 0 where there is none. -/
def anchorCkpt (c : Option Checkpoint) : Nat :=
  match c with
  | some c => place [(c.number % 2 ^ 32, 0), (c.stripe % 2 ^ 32, 32), (c.jseq % 2 ^ 64, 64)]
  | none => 0

/-- The first journal stripe that holds a record after a JSEQ: the one of the oldest such records. -/
def journalFirst (s : State) (after : Nat) : Nat :=
  (((s.map.jlast.filter (fun e => decide (after < e.2))).foldl (fun (a : Option (Nat × Nat)) e =>
    match a with
    | none => some e
    | some x => if e.2 < x.2 then some e else some x) none).map Prod.fst).getD 0xFFFFFFFF

/-- The key-label stripes (R184, R186). -/
def labelStripes (s : State) : List Nat := (stripesWhere s (fun _ e => decide (e.kind = 7))).map Prod.fst

/-- The membership section (R183, R184): 2 bytes for each member index of sixteen fens. -/
def membershipBytes (s : State) : List (Nat × Nat) :=
  (List.range 512).map (fun k => (if k < 32 * fenCount s then memberLink s (k / 32) (k % 32) % 2 ^ 16 else 0xFFFF, 16 * k))

/-- An anchor record: 16 KiB (R184). -/
def anchorRecord (s : State) : Nat :=
  let old := s.map.ckpts.drop 1
  let v := place ([(0x4E415753, 0), (1, 32), (fenCount s % 256, 48), (geomCode s, 56), (s.map.anchorSeq % 2 ^ 64, 64),
    (s.life.now % 2 ^ 48, 128), (s.image.struct_.stockPct % 256, 176), (s.cfg.serial % 2 ^ 64, 192),
    (memberBlocks s (structMember s 0) % 2 ^ 32, 256), (anchorCkpt s.map.ckpts.head?, 320), (anchorCkpt old.head?, 448),
    (journalFirst s ((old.head?.map Checkpoint.jseq).getD 0), 576), (s.peat.chain.headD 0xFFFFFFFF % 2 ^ 32, 608),
    ((labelStripes s).length % 2 ^ 16, 640), ((s.life.utc % 2 ^ 64).toNat, 704)] ++
    ((labelStripes s).take 256).zipIdx.map (fun e => (e.1 % 2 ^ 32, 1024 + 32 * e.2)) ++
    (membershipBytes s).map (fun e => (e.1, 9216 + e.2)))
  v + 2 ^ (8 * 16380) * crc32c (leBytes 16380 v)

/-- The active anchor block of a link: the one open for program, else the first (R165, R184). -/
def activeAnchor (s : State) (l : Nat) : Option Nat :=
  match (anchorBlocks s l).find? (fun b => decide ((s.block l b).use = .open)) with
  | some b => some b
  | none => (anchorBlocks s l).head?

/-- Program an anchor record into the next free page of a member's active anchor block; a full one hands over to the other block,
which is erased first (R184). `k` is the member index, as 32 f + i. -/
def anchorPage (v k : Nat) (s : State) : State :=
  let l := memberLink s (k / 32) (k % 32)
  match activeAnchor s l with
  | none => s
  | some a =>
    let full := decide (512 ≤ (s.block l a).nextPage)
    let b := if full then ((anchorBlocks s l).find? (fun b => decide (b ≠ a))).getD a else a
    let r := s.block l b
    let s := if full then
      wipeBlock l b ((s.putBlock l a { (s.block l a) with use := .full }).putBlock l b
        { r with wear := min 65535 (r.wear + 1), nextPage := 0, labelled := false })
    else s
    let page := (s.block l b).nextPage
    let s := eachOf (List.range 4) (fun w s =>
      let c : CodeWord := { data := { payload := bits v (32768 * w) 32768 }, kind := 8, time := s.life.now, geom := geomCode s, slc := true,
                            link := l, member := k % 32, device := s.cfg.serial, meta_ := some { seq := s.map.anchorSeq, index := w } }
      { s with map := { s.map with media := s.map.media.put (mediaKey l b page w) c } }) s
    let s := s.putBlock l b { (s.block l b) with use := .open, slc := true, nextPage := page + 1 }
    if page = 0 then blockProgrammed true l b s else s

/-- The two members of a fen that take anchor records (R184): the lowest in-service member index, and the lowest of 16 or above. -/
def anchorMembers (s : State) (f : Nat) : List Nat :=
  let up := (List.range 32).filter (fun i => inService s f i)
  (up.head?.toList ++ (up.find? (fun i => decide (16 ≤ i))).toList).eraseDups.map (fun i => 32 * f + i)

/-- An anchor record is written to two members of every fen (R184). -/
def anchorWrite (s : State) : State :=
  let s := { s with map := { s.map with anchorSeq := s.map.anchorSeq + 1 } }
  let v := anchorRecord s
  eachOf ((List.range (fenCount s)).flatMap (anchorMembers s)) (fun k s => anchorPage v k s) s

/-! ### Refresh received (R404) -/

/-- Die time that rewriting a stripe takes, in µs, at the typical times of R228: the reads of its data slots and the programs of all
slots. -/
def refreshTime (s : State) (kind : Nat) : Nat :=
  if kind = 1 then 2048 * 55 * geoK s + 512 * 680 * 28 else 512 * 20 * geoK s + 512 * 75 * 28

/-- A stripe has been refreshed (R156, R404): the count, and the die time that its fen received. -/
def refreshDone (f kind : Nat) (s : State) : State :=
  let s := healthAdd 5 1 s
  { s with ret := { s.ret with refreshes := (s.life.now, f, refreshTime s kind) :: s.ret.refreshes } }

/-! ### Dirty units leave (R26, R367, R551) -/

/-- Units leave the Mere: the records that map them must be durable for the commands that cover them and for the Flushes to
come (R367). -/
def coverNote (keys : List Nat) (s : State) : State :=
  let j := lastJ s
  let slots := s.nvq.slots.map (fun e =>
    if e.2.covers.any (fun k => decide (k ∈ keys)) then (e.1, { e.2 with coverJ := max e.2.coverJ j }) else e)
  let ns := ((keys.filter (fun k => decide (k ∈ s.nvq.done))).filterMap (fun k => (tractOwner s (k / 262144)).map Prod.fst)).eraseDups
  { s with nvq := { s.nvq with slots := slots, doneJ := ns.foldl (fun t n => Tab.set 0 t n (max j (Tab.get 0 t n))) s.nvq.doneJ } }

/-- The regions of the Mere that the copies of dirty units take: the first copy's, the second copy's. -/
def dirtyRegions (s : State) (keys : List Nat) : List (Nat × Nat) :=
  keys.filterMap (fun k => (s.map.dirty.find k).map (fun d => (d.r1, d.r2)))

/-- Hold a unit dirty on two stacks (R24, R303): a copy in a region of each; regions of copies that it replaces are freed. -/
def placeDirty (key : Nat) (d : Dirty) (s : State) : State :=
  let s := freeRegions ((dirtyRegions s [key]).flatMap (fun p => [p.1, p.2])) s
  let r1 := freshRegion s d.s1
  let s := (fillRegion r1 s).drawn
  let r2 := freshRegion s d.s2
  let s := (fillRegion r2 s).drawn
  { s with map := { s.map with dirty := s.map.dirty.put key { d with r1 := r1, r2 := r2 } } }

/-- Dirty units are held no more (R26, R551): the regions named are freed (R310). -/
def releaseDirty (keys rs : List Nat) (s : State) : State :=
  let s := freeRegions rs (coverNote keys s)
  wakeDurable { s with map := { s.map with dirty := s.map.dirty.filter (fun e => decide (e.1 ∉ keys)) },
                       nvq := { s.nvq with done := s.nvq.done.filter (fun k => decide (k ∉ keys)) } }

/-- Release both Mere copies of dirty units (R26, R310, R551). -/
def dropDirty (keys : List Nat) (s : State) : State := releaseDirty keys ((dirtyRegions s keys).flatMap (fun p => [p.1, p.2])) s

/-! ### Logs (R80 to R83) -/

/-- The fen of a copy's new stripe (R89, R90): the own fen while it accepts, which one that evacuates does not, else the next in
rotation; own Stockpile only for work that must start. The flag says whether the rotation advances. -/
def copyFen (s : State) (ltn : Nat) (must evacuation : Bool) : Option (Nat × Bool) :=
  match ownerFen s ltn with
  | none => (nextFen s none).map (fun f => (f, true))
  | some own =>
    if fenAccepts s own then some (own, false)
    else
      match nextFen s (some own) with
      | some f => some (f, true)
      | none => if must = true ∧ evacuation = false ∧ (pickStripe s own).isSome = true then some (own, false) else none

/-- Dirty units are on the media: their two copies are released (R26). One of them may stay in the Mere, clean, where nothing needs
its place (R27, R28; log entry 88). -/
def destaged (keys : List Nat) (s : State) : State :=
  let kept := keys.filterMap (fun k => (s.map.dirty.find k).map (fun d => (k, (d.data, d.r1))))
  let second := (dirtyRegions s keys).map Prod.snd
  releaseDirty keys second { s with map := { s.map with clean := kept.foldl (fun t e => t.put e.1 e.2) s.map.clean } }

/-- Units with keys in [a, b) are written or deallocated: what the Mere holds of them clean is stale, and its space is freed (R28,
R310). -/
def dropClean (a b : Nat) (s : State) : State :=
  let old := s.map.clean.filter (fun e => decide (a ≤ e.1 ∧ e.1 < b))
  freeRegions (old.map (fun e => e.2.2))
    { s with map := { s.map with clean := s.map.clean.filter (fun e => decide (¬ (a ≤ e.1 ∧ e.1 < b))) } }

/-- The lowest log index not in use (R80). -/
def freeLog (s : State) : Option Nat := (List.range 4096).find? (fun g => (s.map.core.logs.find g).isNone)

/-- Open a log for a tract (R80, R83): LOG_OPEN and the tract's TRACT_MAP record. None where no descriptor is free or no fen takes
the stripe. A log stripe takes its fen as a fold does (DESIGN CHOICE, log entry 85). The Mere address of its sub-map is the device's
own: a free value. -/
def openLog (ltn : Nat) (pred : Option Nat) (cls : Nat) (s : State) : Option (Nat × State) :=
  match freeLog s, copyFen s ltn false false with
  | some g, some (f, adv) =>
    (openStripe f 3 true g s).map (fun r =>
      let s := journalStripe r.1 (if adv then advanceRot f r.2 else r.2)
      let s := journal (.logOpen g pred ltn r.1) s
      let s := match s.map.core.logs.find g with
        | some d => s.setCore { s.map.core with logs := s.map.core.logs.put g { d with openTime := s.life.now, cls := cls, subAddr := s.draw (2 ^ 38) } }
        | none => s
      let s := s.drawn
      (g, journal (.tractMap ltn { (tractOf s ltn) with log := some g }) s))
  | _, _ => none

/-- Append one unit to a log and release its Mere copies (R82, R26). The unit stays dirty where the log is full. The first
write that lands in a log gives it its class (R395). -/
def logAppend (g : Nat) (key : Nat) (d : Dirty) (s : State) : State :=
  match s.map.core.logs.find g with
  | none => s
  | some l =>
    if logCapacity s ≤ l.fill then s
    else
      let u := key % 262144
      let s := skipAbsent l.stripe s
      let s := putUnit l.stripe (l.fill / rowUnits s) (l.fill % rowUnits s / 4) (l.fill % 4) d.data l.ltn u s
      let s := putParity l.stripe (l.fill / rowUnits s) s
      let s := setFrontier l.stripe (max (stripeOf s l.stripe).frontier (l.fill / rowUnits s + 1)) s
      let s := if l.fill = 0 then s.setCore { s.map.core with logs := s.map.core.logs.put g { l with cls := d.cls } } else s
      destaged [key] (journal (.logUnits g u l.fill 1) s)

/-- Send dirty units of a tract to its newest log, opening one where it has none (R82, R83): LOG_PACING while no
descriptor is free. -/
def toLog (ltn : Nat) (units : List (Nat × Dirty)) (s : State) : State :=
  match units with
  | [] => s
  | (_, d0) :: _ =>
    let r := match (tractOf s ltn).log with
      | some g => some (g, s)
      | none => openLog ltn none d0.cls s
    match r with
    | none => if (freeLog s).isNone then s.wr F.MAP_STATUS_LOG_PACING 1 else s
    | some (g, s) => eachOf units (fun e s => logAppend g e.1 e.2 s) s

/-- A descriptor is free again: logging no longer waits (R83). -/
def logPaceNote (s : State) : State := if (freeLog s).isSome then s.wr F.MAP_STATUS_LOG_PACING 0 else s

/-! ### Sump (R75 to R79) -/

/-- Free Sump rows exceed 10 % of the target: pacing ends (R79). -/
def sumpNote (s : State) : State := if 10 * sumpTargetRows s < 100 * sumpFreeRows s then s.wr F.MAP_STATUS_SUMP_PACING 0 else s

/-- Sump stripes that no row-table entry names any more and that take no further row end with the newest record (R77, R91). -/
def freeSumps (s : State) : State :=
  eachOf (stripesWhere s (fun id e => decide (e.kind = 2 ∧ (512 ≤ e.frontier ∨ e.absent ≠ 0) ∧ id ∉ s.pwr.reserve) &&
      !(s.map.core.rows.any (fun r => decide (r.2.1 = id))) && !(s.map.releases.any (fun r => decide (r.2 = id)))))
    (fun e s => releaseAfter (lastJ s) e.1 s) s

/-- A fen takes Sump rows (R126, R127): below bench 2 and not evacuated. -/
def takesRows (s : State) (f : Nat) : Bool := decide (s.rd F.FEN_STATE_BENCH f ≤ 1 ∧ f ∉ s.fen.evac)

/-- The Sump stripe with a free row: an open one that no failed program has closed (R26), else a new one in the next fen whose Sump
target has room (R78, R88). -/
def sumpStripe (s : State) : Option (Nat × State) :=
  match (stripesWhere s (fun id e => decide (e.kind = 2 ∧ e.frontier < 512 ∧ e.absent = 0 ∧ id ∉ s.pwr.reserve) &&
      (absentSlots s id).isEmpty && takesRows s (stripeFen id))).head? with
  | some (id, _) => some (id, s)
  | none =>
    match ((List.range (fenCount s)).map (fun i => (s.map.fenRot + i) % fenCount s)).find?
        (fun f => decide (sumpBlocks s f + 28 ≤ sumpTargetBlocks s f) && takesRows s f && (pickStripe s f).isSome) with
    | none => none
    | some f => (openStripe f 2 true 0xFFFFFFFF s).map (fun r => (r.1, journalStripe r.1 r.2))

end Sys2Proof.Machine
end

