-- ==== Sys2Proof/Machine/FenOps.lean ====
section
/-! DEFINITION. Tolerance, the bench ladder, absent members, drains and rebuild jobs (chapter "Fens, declustered stripes and
rebuild"). -/

namespace Sys2Proof.Machine

open Sys2Proof

/-! ### Tolerance (R110) -/

/-- The largest number of absent slots of any stripe of the fen. -/
def worstAbsent (s : State) (f : Nat) : Nat :=
  (fenStripes s f).foldl (fun m e => max m (absentSlots s e.1).length) 0

/-- Members of the fen in service. -/
def fenMembers (s : State) (f : Nat) : Nat := ((List.range 32).filter (fun i => inService s f i)).length

/-! ### Jobs (R114, R115, R122) -/

/-- A slot's job reads the member directly: it is a drain (R122). -/
def slotDrains (s : State) (id slot : Nat) : Bool :=
  decide (slot ∉ absentSlots s id) && slotNeedsJob s id slot

/-- The order of R115: most absent slots first, then metadata stripes, then ascending stripe index. -/
def jobRank (s : State) (id : Nat) : Nat × Nat × Nat :=
  (28 - (absentSlots s id).length, if 4 ≤ (stripeOf s id).kind then 0 else 1, id % 2 ^ 24)

def rankBefore (a b : Nat × Nat × Nat) : Bool :=
  decide (a.1 < b.1 ∨ (a.1 = b.1 ∧ (a.2.1 < b.2.1 ∨ (a.2.1 = b.2.1 ∧ a.2.2 < b.2.2))))

/-- A stripe has a job running. -/
def jobOn (s : State) (id : Nat) : Bool := s.fen.jobs.any (fun j => decide (j.stripe = id))

/-- A job of the stripe may start next: no other startable stripe of the fen comes before it (R115). -/
def jobFirst (s : State) (id : Nat) : Bool :=
  (jobsLeft s (stripeFen id)).all (fun e =>
    jobOn s e.1 || decide (e ∈ s.fen.waiting) || !rankBefore (jobRank s e.1) (jobRank s id))

/-- A job's target (R116): the least-worn free block of a member in service that holds no slot of the stripe; ties to the
member with the fewest targets of the current rebuild, then the lowest index. As (member, block). -/
def jobTarget (s : State) (id : Nat) : Option (Nat × Nat) :=
  let f := stripeFen id
  let targets := fun m => Tab.get 0 s.fen.assigned (32 * f + m)
  let l := (List.range 32).filterMap (fun m =>
    if takesBlocks s f m && decide (m ∉ stripeMembers s id) then
      (leastWorn s (memberLink s f m)).map (fun wb => (wb.1, targets m, m, wb.2))
    else none)
  match l with
  | [] => none
  | c :: r =>
    let best := r.foldl (fun a b => if rankBefore (b.1, b.2.1, b.2.2.1) (a.1, a.2.1, a.2.2.1) then b else a) c
    some (best.2.2.1, best.2.2.2)

/-! ### The bench ladder (R126 to R128) -/

/-- The entry condition of a bench. -/
def benchEnters (s : State) (f tol n : Nat) : Bool :=
  let left := stockLeft s f
  let floor := stockFloor s f
  match n with
  | 0 => true
  | 1 => decide (100 * left < s.rd F.FEN_BENCH_THR_LOW * floor)
  | 2 => decide (100 * left < s.rd F.FEN_BENCH_THR_OUT * floor)
  | 3 => s.fen.waiting.any (fun e => decide (stripeFen e.1 = f))
  | _ => false

/-- The exit condition of a bench. -/
def benchLeaves (s : State) (f tol n : Nat) : Bool :=
  let left := stockLeft s f
  let floor := stockFloor s f
  match n with
  | 1 => decide ((s.rd F.FEN_BENCH_THR_LOW + 10) * floor ≤ 100 * left)
  | 2 => decide (10 * floor ≤ 100 * left)
  | 3 => decide (tol = geoP s) && decide (worstAbsent s f = 0)
  | 4 => decide (2 ≤ tol)
  | _ => true

/-- A bench of 0 to 3 holds in a fen: its entry condition, or the present one whose exit condition does not hold. -/
def benchHolds (s : State) (f tol n : Nat) : Bool :=
  benchEnters s f tol n || (decide (n = s.rd F.FEN_STATE_BENCH f) && !benchLeaves s f tol n)

/-- The bench of a fen: the highest whose entry condition holds, bench 4 where bench 3 holds with a tolerance of at most 1; the
present one stays until its exit condition holds (R126). -/
def benchOf (s : State) (f tol : Nat) : Nat :=
  if (benchHolds s f tol 3 && decide (tol ≤ 1)) || (decide (s.rd F.FEN_STATE_BENCH f = 4) && !benchLeaves s f tol 4) then 4
  else (List.range 4).foldl (fun m n => if benchHolds s f tol n then max m n else m) 0

/-- Every controller. -/
def ctrlIds (s : State) : List Nat := s.nvq.ctrls.map Prod.fst

/-- The notices of a bench rise (R126): SMART/health for the spare at bench 1 and 2, a vendor notice from bench 2 on. -/
def benchNotice (old new : Nat) (s : State) : State :=
  if new ≤ old then s
  else
    let s := if old = 0 ∧ new ≤ 2 then eachOf (ctrlIds s) (fun c s => aenPost c 1 0x02 0x02 s) s else s
    if 2 ≤ new then vendorNotice s else s

/-- Tracts still to move out of a fen (R127, R156): their QLC stripe or log stripe lies in it. -/
def evacLeft (s : State) (f : Nat) : List Nat :=
  (s.map.core.tracts.filter (fun e =>
    (decide (e.2.stripe ≠ 0xFFFFFFFF) && decide (stripeFen e.2.stripe = f)) ||
      (match e.2.log.bind (fun g => s.map.core.logs.find g) with
       | some d => decide (stripeFen d.stripe = f)
       | none => false))).map Prod.fst

/-- FEN_STATE of one fen follows its stripes, members and jobs (R110, R126, R132). -/
def fenRefreshOne (f : Nat) (s : State) : State :=
  let worst := worstAbsent s f
  let tol := geoP s - worst
  let old := s.rd F.FEN_STATE_BENCH f
  let new := benchOf s f tol
  let s := ((s.wr F.FEN_STATE_TOLERANCE tol f).wrB F.FEN_STATE_EXCEEDED (decide (geoP s < worst)) f).wr
    F.FEN_STATE_IN_SERVICE (fenMembers s f) f
  let left := (jobsLeft s f).length
  let boosted := decide (f ∈ s.fen.boosted) && decide (1 < worst)
  let s := { s with fen := { s.fen with boosted := if boosted then s.fen.boosted else dropOne f s.fen.boosted } }
  let s := ((s.wrB F.FEN_STATE_REBUILDING (decide (left ≠ 0)) f).wrB F.FEN_STATE_BOOSTED boosted f).wr F.FEN_STATE_BENCH new f
  let held := (s.fen.absent.any (fun e => decide (e.2 = .rebuilding ∧ linkFen s e.1 = f)) ||
      s.fen.deadDies.any (fun k => decide (linkFen s (k / 32) = f))) && s.ret.passes.any (fun p => decide (p.state = 1))
  let s := s.wrB F.FEN_STATE_DREDGE_HELD held f
  let s := benchNotice old new (if new = old then s else s.wr F.FEN_EVT_BENCH_CHANGE 1)
  let ev := decide (new = 4) && !(evacLeft s f).isEmpty && (nextFen s (some f)).isSome
  { s.wrB F.FEN_STATE_EVACUATING ev f with fen := { s.fen with
      evac := if ev then addNew f s.fen.evac else dropOne f s.fen.evac } }

/-- The device enters bench 5 while no fen is at bench 0 or 1 (R126). -/
def bench5Note (s : State) : State :=
  if s.fen.bench5 = false ∧ (List.range (fenCount s)).all (fun f => decide (2 ≤ s.rd F.FEN_STATE_BENCH f)) then
    eachOf (ctrlIds s) (fun c s => aenPost c 1 0x00 0x02 s)
      ({ s with fen := { s.fen with bench5 := true } }.wr F.FEN_EVT_BENCH_CHANGE 1)
  else s

/-- Re-evaluate tolerance and benches of every fen; the fault summary follows (R126, R21). -/
def fenRefresh (s : State) : State :=
  glbRefresh (bench5Note (eachOf (List.range (fenCount s)) fenRefreshOne s))

/-! ### Members out of service (R32, R114, R118) -/

/-- Each stripe with a slot on a link: its ABSENT bit and the rebuild flag (R73, R114). -/
def markAbsent (p : Nat × Nat → Bool) (s : State) : State :=
  eachOf (stripesWhere s (fun _ _ => true)) (fun e s =>
    let f := stripeFen e.1
    let hit := (List.range 28).filter (fun i => match e.2.slots[i]? with
      | some a => p (addrPlace s f a)
      | none => false)
    if hit.isEmpty then s
    else setStripe e.1 { e.2 with absent := hit.foldl (fun a i => putBit a i true) e.2.absent,
                                  flags := putBit (putBit e.2.flags 0 true) 1 true } s) s

/-- A fen is rebuilding. -/
def fenRebuilding (s : State) (f : Nat) : Bool :=
  s.fen.absent.any (fun e => decide (e.2 = .rebuilding ∧ linkFen s e.1 = f)) ||
    s.fen.deadDies.any (fun k => decide (linkFen s (k / 32) = f))

/-- The loss of a member is entered and announced at once (R34); that of a member whose PLL group is unlocked is part of the
group's fault, which groupLost has entered. `noted` keeps the links entered, for the restoration. -/
def noteLost (l : Nat) (s : State) : State :=
  if groupOf s l ∈ s.seam.unlocked then s
  else faultAbsorbed bitMember l { s with fen := { s.fen with noted := addNew l s.fen.noted } }

/-- A lost PLL group is restored (R31): it is locked again or none of its members is in service any more, and no member of it
waits or is being rebuilt. -/
def groupWell (s : State) (g : Nat) : Bool :=
  (memberKeys s).all (fun k =>
    let l := memberLink s (k / 32) (k % 32)
    decide (l = 0xFFFF ∨ groupOf s l ≠ g) || ((s.fen.absent.find l).isNone && (decide (g ∉ s.seam.unlocked) || decide (l ∈ s.fen.retired))))

/-- Groups whose fault has been restored are entered (R31, R535 code 0x0003). -/
def groupsNote (s : State) : State :=
  eachOf (s.seam.faulted.filter (fun g => groupWell s g)) (fun g s =>
    faultRestored bitGroup g { s with seam := { s.seam with faulted := dropOne g s.seam.faulted } }) s

/-- A lost member's fault is restored: it has returned within its wait, or its rebuild has ended (R31, R32). -/
def memberWell (l : Nat) (s : State) : State :=
  groupsNote (if l ∈ s.fen.noted then faultRestored bitMember l { s with fen := { s.fen with noted := dropOne l s.fen.noted } } else s)

/-- Members and dies of a fen whose rebuild leaves no slot to rebuild: the member's index holds no member any more, and their faults
are restored (R20, R31, R124). Tolerance and benches follow. -/
def rebuildOver (f : Nat) (s : State) : State :=
  let named := fun (p : Nat × Nat → Bool) => (fenStripes s f).any (fun e => e.2.slots.any (fun a => p (addrPlace s f a)))
  let members := (s.fen.absent.filter (fun e => decide (e.2 = .rebuilding ∧ linkFen s e.1 = f) &&
    !named (fun p => decide (p.1 = e.1)))).map Prod.fst
  let dies := s.fen.deadDies.filter (fun k => decide (linkFen s (k / 32) = f) &&
    !named (fun p => decide (p.1 = k / 32 ∧ p.2 % diesOf s (k / 32) = k % 32)))
  let s := eachOf members (fun l s =>
    memberWell l { s with fen := { s.fen with absent := s.fen.absent.del l, retired := addNew l s.fen.retired } }) s
  let s := eachOf dies (fun k s =>
    faultRestored bitMember (k / 32) { s with fen := { s.fen with deadDies := dropOne k s.fen.deadDies } }) s
  let s := fenRefresh s
  if (jobsLeft s f).isEmpty then
    { s with fen := { s.fen with assigned := s.fen.assigned.filter (fun e => decide (e.1 / 32 ≠ f)) } }
  else s

/-- The rebuild of a member starts (R114, R118): a second failure in a rebuilding fen raises its share (DESIGN CHOICE, log
entry 86: when its rebuild starts, not when its link is lost). A member lost with no wait is entered as a fault here (the Peat
unit index: log entry 53). -/
def startRebuild (l : Nat) (s : State) : State :=
  let f := linkFen s l
  let s := if (s.fen.absent.find l).isSome then s else noteLost l s
  let again := fenRebuilding s f
  let fen := { s.fen with absent := s.fen.absent.put l .rebuilding, draining := dropOne l s.fen.draining,
                          boosted := if again then addNew f s.fen.boosted else s.fen.boosted }
  rebuildOver f (markAbsent (fun p => decide (p.1 = l)) { s with fen := fen })

/-- A die's blocks are rebuilt (R114): each is entered in the Spoil table with REASON 5 and its slots count as absent. The Peat unit
index is the member's link (DESIGN CHOICE, log entry 53). -/
def loseDie (l d : Nat) (s : State) : State :=
  if 32 * l + d ∈ s.fen.deadDies then s
  else
    let dies := diesOf s l
    let s := { s with fen := { s.fen with deadDies := addNew (32 * l + d) s.fen.deadDies } }
    let s := eachOf ((List.range (64 + memberBlocks s l + factoryBad s l)).filter (fun b => decide (b % dies = d) && allocatable s l b))
      (fun b s => if (s.block l b).use = .spoiled then s else spoilBlock l b 5 0 s) s
    rebuildOver (linkFen s l) (faultAbsorbed bitMember l (markAbsent (fun p => decide (p.1 = l ∧ p.2 % dies = d)) s))

/-- Abandon a stripe's jobs: a merge, refresh or evacuation committed (R120). -/
def abandonJobs (id : Nat) (s : State) : State :=
  let js := s.fen.jobs.filter (fun j => decide (j.stripe = id))
  let fen := { s.fen with jobs := s.fen.jobs.filter (fun j => decide (j.stripe ≠ id)),
                          waiting := s.fen.waiting.filter (fun e => decide (e.1 ≠ id)) }
  eachOf js (fun j s => releaseSlots (stripeFen id) [j.target] s) { s with fen := fen }

/-! ### Worn-out members (R93, R123) -/

/-- Sum of the wear counters of a member, in 1/16 QLC cycles. -/
def wearSum (s : State) (l : Nat) : Nat := (linkBlocks s l).foldl (fun a e => a + e.2.wear) 0

/-- A member is worn out (R93): over 4 % of its blocks in the Spoil table, or mean wear at its rated endurance. -/
def wornOut (s : State) (l : Nat) : Bool :=
  decide (4 * memberBlocks s l < 100 * (s.map.core.spoil.filter (fun e => decide (e.link = l))).length) ||
    decide (16 * endQlc s l * memberBlocks s l ≤ wearSum s l)

/-- A member becomes unreachable (R32, R34, R114): the fault is entered and the 10 s wait begins; a member under drain after it was
found worn out is rebuilt at once. -/
def memberAbsent (l : Nat) (s : State) : State :=
  if (linkMember s l).isNone ∨ (s.fen.absent.find l).isSome ∨ l ∈ s.fen.retired then s
  else if l ∈ s.fen.draining ∧ wornOut s l = true then startRebuild l s
  else
    let s := noteLost l s
    fenRefresh { s with fen := { s.fen with absent := s.fen.absent.put l .waiting } }

/-- Start a drain (R122, R123). -/
def startDrain (l : Nat) (s : State) : State :=
  fenRefresh { s with fen := { s.fen with draining := addNew l s.fen.draining } }

/-- A member found worn out is drained on the device's own initiative (R123). -/
def wornCheck (l : Nat) (s : State) : State :=
  if wornOut s l = true ∧ l ∉ s.fen.draining ∧ l ∉ s.fen.retired ∧ (s.fen.absent.find l).isNone ∧ (linkMember s l).isSome then
    vendorNotice (startDrain l s)
  else s

/-- Enter a block in the Spoil table and check its member (R93). -/
def spoilAndCheck (l b reason flags : Nat) (s : State) : State := wornCheck l (spoilBlock l b reason flags s)

/-! ### Host units of a stripe, and units lost (R120, R121) -/

/-- The tract unit that a code word holds, where it is that unit's newest copy. -/
def hostUnitAt (s : State) (id row slot w : Nat) : Option (Nat × Nat) :=
  match mediaAt s id row slot w with
  | none => none
  | some c =>
    let e := stripeOf s id
    let newest := (s.map.dirty.find (unitKey c.ltn c.unit)).isNone
    let here :=
      if e.kind = 1 then decide ((tractOf s c.ltn).stripe = id) && (logUnit s 4096 (tractOf s c.ltn).log c.unit).isNone
      else if e.kind = 2 then
        decide (s.map.core.rows.find (2048 * c.ltn + c.unit / rowUnits s) = some (id, row)) &&
          (logUnit s 4096 (tractOf s c.ltn).log c.unit).isNone
      else if e.kind = 3 then
        s.map.core.logs.any (fun g => decide (g.2.stripe = id ∧ Tab.get 0xFFFF g.2.submap c.unit = rowUnits s * row + 4 * slot + w))
      else false
    if newest && here then some (c.ltn, c.unit) else none

/-- A code word on the media becomes a lost unit: zero payload, labelled lost (R121). -/
def markLostAt (id row slot w : Nat) (s : State) : State :=
  match (stripeOf s id).slots[slot]? with
  | none => s
  | some a =>
    let p := addrPlace s (stripeFen id) a
    { s with map := { s.map with media := s.map.media.modify (mediaKey p.1 p.2 row w) (fun c => { c with data := { lost := true } }) } }

/-- Declare lost the host unit of a code word (R121), once, and where no clean copy in the Mere holds it. -/
def loseUnitAt (id row slot w : Nat) (s : State) : State :=
  match hostUnitAt s id row slot w with
  | none => s
  | some (ltn, u) =>
    if unitLost s ltn u = true ∨ (cleanUnit s ltn u).isSome = true then s
    else declareUnitLost ltn u (markLostAt id row slot w s)

/-- Every code word of a slot below FRONTIER, as (row, w). -/
def slotWords (s : State) (id : Nat) : List (Nat × Nat) :=
  (List.range (4 * (stripeOf s id).frontier)).map (fun n => (n / 4, n % 4))

/-- Slots whose member is in its 10 s wait (R32): it may come back. -/
def slotWaits (s : State) (id slot : Nat) : Bool :=
  match (stripeOf s id).slots[slot]? with
  | some a => decide (s.fen.absent.find (addrPlace s (stripeFen id) a).1 = some .waiting)
  | none => false

/-- The erasure set of a position without the slots whose member may come back. -/
def lostSlots (s : State) (id row w : Nat) : List Nat := (erasedSlots s id row w).filter (fun i => !slotWaits s id i)

/-- A place whose erasure set exceeds p is lost for good: the host units of the set are declared lost (R110, R120). -/
def losePlace (id row w : Nat) (s : State) : State :=
  let e := lostSlots s id row w
  if e.length ≤ geoP s then s else eachOf e (fun i s => loseUnitAt id row i w s) s

/-- A stripe has more than p absent slots: the host units on them are declared lost as its jobs start (R110, R120). -/
def loseExceeded (id : Nat) (s : State) : State :=
  if ((absentSlots s id).filter (fun i => !slotWaits s id i)).length ≤ geoP s then s
  else eachOf (slotWords s id) (fun e s => losePlace id e.1 e.2 s) s

/-- Some place of a stripe can be served only by a member in its 10 s wait: its jobs wait with it (R110). -/
def placesWait (s : State) (id : Nat) : Bool :=
  (slotWords s id).any (fun e => decide (geoP s < (erasedSlots s id e.1 e.2).length ∧ (lostSlots s id e.1 e.2).length ≤ geoP s))

end Sys2Proof.Machine
end

