-- ==== Sys2Proof/Machine/PowerOps.lean ====
section
/-! DEFINITION. The flush budget: bandwidth of the links in service, flush time, energy and the effective dirty limit
(chapter "Power loss, hold-up and the seal"). -/

namespace Sys2Proof.Machine

open Sys2Proof

/-- The state of a Seam link (R274). -/
def seamState (s : State) (l : Nat) : Nat := s.rd F.SEAM_STAT_STATE l

/-- A link is in ACTIVE, RECAL or PARKED (R274, R298). -/
def linkUp (s : State) (l : Nat) : Bool := decide (seamState s l = 6 ∨ seamState s l = 7 ∨ seamState s l = 9)

/-- Payload rate of the links in service, in units of 3.125 GB/s (R268, R555). -/
def flushLinks (s : State) : Nat :=
  (memberKeys s).foldl (fun a k =>
    let l := memberLink s (k / 32) (k % 32)
    a + (if inService s (k / 32) (k % 32) && linkUp s l then 1 + s.rd F.SEAM_STAT_RATE l else 0)) 0

/-- T_flush in ns, rounded up, for a limit of n × 256 MiB over `units` of 3.125 GB/s (R555). -/
def tFlush (k n units : Nat) : Nat :=
  1000000 + ceilFrac (n * 268435456 * 28 * 18432) 1000 (k * 16384 * max 1 units * 3125)

/-- E_req in nJ: (P_F + P_M) × (T_flush + 2.0 ms), P_F = 360 W (R555). -/
def eReq (k n units pM : Nat) : Nat := (360 + pM) * (tFlush k n units + 2000000)

/-- The flush of n × 256 MiB fits the declared energy, the window and the reserve (R552, R556). -/
def flushFits (s : State) (n : Nat) : Bool :=
  let u := flushLinks s
  decide (0 < u) && decide (eReq (geoK s) n u s.image.power.pM ≤ s.image.power.eDecl * 1000000) &&
    decide (tFlush (geoK s) n u + 2000000 ≤ 20000000) && decide (n * 256 ≤ s.pwr.reserve.length * geoK s * 8)

/-- The largest fitting multiple of 256 MiB not above n (R556). -/
def effSearch (s : State) (n : Nat) : Nat :=
  match n with
  | 0 => 0
  | n + 1 => if flushFits s (n + 1) then n + 1 else effSearch s n

/-- Recompute the effective dirty limit (R556): LIMIT_CUT where it falls below L. It is in force once the map is up. -/
def limitNote (s : State) : State :=
  if s.isSet F.MAP_STATUS_READY = false then s
  else
    let l := s.image.power.limitMiB / 256
    let n := effSearch s l
    let s := ((s.wr F.PWR_STAT_EFF_LIMIT (256 * n)).wr F.MERE_DIRTY_LIMIT (256 * n)).wr F.PWR_TFLUSH_US
      (min 65535 (tFlush (geoK s) n (flushLinks s) / 1000))
    if n < l then s.wr F.PWR_EVT_LIMIT_CUT 1 else s

end Sys2Proof.Machine
end

