-- ==== Sys2Proof/Machine/CfgOps.lean ====
section
/-! DEFINITION. Configuration operations that other blocks share: the Twima slot record, the end of a lot re-apply, Expert
level on an access path (chapter "The Twima image"). -/

namespace Sys2Proof.Machine

open Sys2Proof

/-! ### The Twima slot record (R46) -/

/-- Bytes 0 to 11 of a copy: MAGIC, SEQ, the three slot numbers, 0. -/
def slotRecHead (r : SlotRecord) : Nat :=
  r.magic % 2 ^ 32 + 2 ^ 32 * (r.seq % 2 ^ 32) + 2 ^ 64 * (r.primary % 256) + 2 ^ 72 * (r.backup % 256) + 2 ^ 80 * (r.staging % 256) +
    2 ^ 88 * (r.zero % 256)

/-- The CRC-32C over bytes 0 to 11. -/
def slotRecCrc (r : SlotRecord) : Nat := crc32c (leBytes 12 (slotRecHead r))

/-- The 4 KiB of a copy, as a number. -/
def slotRecBytes (r : SlotRecord) : Nat := slotRecHead r + 2 ^ 96 * (r.crc % 2 ^ 32)

/-- MAGIC of the record, "TWSR". -/
def magicTwsr : Nat := 0x52535754

/-- A copy of the record is valid: MAGIC, CRC and three different slot numbers. -/
def slotRecValid (r : SlotRecord) : Bool :=
  decide (r.magic = magicTwsr) && decide (r.crc = slotRecCrc r) && decide (r.primary < 3 ∧ r.backup < 3 ∧ r.staging < 3 ∧
    r.primary ≠ r.backup ∧ r.primary ≠ r.staging ∧ r.backup ≠ r.staging)

/-- The record in use: the valid copy with the larger SEQ; slots 0, 1 and 2 where neither is valid. -/
def slotRec (s : State) : SlotRecord :=
  let a := s.cfg.rec0
  let b := s.cfg.rec1
  if slotRecValid a = true ∧ (slotRecValid b = false ∨ b.seq ≤ a.seq) then a
  else if slotRecValid b then b
  else { primary := 0, backup := 1, staging := 2 }

/-- The staging slot. -/
def twimaStaging (s : State) : Nat := (slotRec s).staging

/-- Write the record: the copies are written in turn, SEQ (32 bits) rises by one, the CRC is made. -/
def writeSlotRec (primary backup staging : Nat) (s : State) : State :=
  let r := slotRec s
  let h : SlotRecord := { magic := magicTwsr, seq := (r.seq + 1) % 2 ^ 32, primary := primary, backup := backup, staging := staging }
  let n := { h with crc := slotRecCrc h }
  if slotRecValid s.cfg.rec0 = true ∧ r = s.cfg.rec0 then { s with cfg := { s.cfg with rec1 := n } }
  else { s with cfg := { s.cfg with rec0 := n } }

/-- A new primary ends PRIMARY_BAD of the boot journal (R618). -/
def clearPrimaryBad (s : State) : State :=
  match s.boot.records with
  | [] => s
  | r :: rest =>
    let v := putBit r.sticky 0 false
    { s with boot := { s.boot with records := { r with sticky := v } :: rest } }.wr F.BOOT_STICKY_STICKY v

/-- A commit (R48): staging becomes primary, the old primary backup, the old backup staging. -/
def commitSlots (s : State) : State :=
  let r := slotRec s
  clearPrimaryBad (writeSlotRec r.staging r.primary r.backup s)

/-- The bytes that the staging slot holds spell a whole image. -/
def stagedWhole (s : State) : Bool := (s.cfg.slots.find (twimaStaging s)).any (fun i => decide (i.imageLen ≤ i.held))

/-- A piece of an image is written into the staging slot (R47): whether it was taken. -/
def twimaPiece (p : Piece) (s : State) : Bool × State :=
  let k := twimaStaging s
  let got := Tab.get 0 s.cfg.fill k
  if (p.off ≠ 0 ∧ (p.off ≠ got ∨ got % 4096 ≠ 0)) ∨ 16777216 < p.off + p.len then (false, s)
  else
    let old := if p.off = 0 then 0 else Tab.get 0 s.cfg.slotBytes k % 2 ^ (8 * p.off)
    let v := old + 2 ^ (8 * p.off) * (p.data % 2 ^ (8 * p.len))
    let n := p.off + p.len
    let slots := match slotParse s.cfg.configKey v n with
      | some i => s.cfg.slots.put k i
      | none => s.cfg.slots.del k
    (true, { s with cfg := { s.cfg with slots := slots, slotBytes := Tab.set 0 s.cfg.slotBytes k v, fill := Tab.set 0 s.cfg.fill k n } })

/-! ### The end of a re-apply (R51, R63) -/

/-- Creates held by an NSTPL re-apply may run again (R51). -/
def releaseCreates (s : State) : State :=
  eachOf s.cfg.heldCreates (fun n s =>
    match s.slot? n with
    | some k => s.putSlot n { k with waits := false }
    | none => s) { s with cfg := { s.cfg with heldCreates := [] } }

/-- LOT_REAPPLY_DONE (R63): STATE 4 or 5, one Peat entry; CFG_LOT_EVT where LOT_BUSY goes from 1 to 0. -/
def lotDone (lot state err : Nat) (s : State) : State :=
  let busy := s.isSet F.CFG_STATUS_LOT_BUSY
  let s := ((s.wr F.CFG_LOT_STAT_LOT_TYPE lot).wr F.CFG_LOT_STAT_STATE state).wr F.CFG_LOT_STAT_ERR err
  let s := (s.wr F.CFG_STATUS_LOT_BUSY 0)
  let s := if busy then s.wr F.CFG_LOT_EVT_ENDED 1 else s
  releaseCreates (peatRecord 0x0302 state lot err { s with cfg := { s.cfg with reapply := none } })

/-- The running re-apply is refused with a code. -/
def lotRefuse (err : Nat) (s : State) : State :=
  match s.cfg.reapply with
  | none => s
  | some r => lotDone r.lot 5 err s

/-- A POWER re-apply that waits for a hold-up test is refused with BUSY by an activation or an epoch (R54). -/
def powerWaitBusy (s : State) : State := if s.cfg.reapply.any Reapply.waitHt then lotRefuse 0x15 s else s

/-! ### Expert level (R55 to R59) -/

/-- The Expert state of a path. -/
def expertOf (s : State) (k : Nat) : ExpertPath := Tab.get {} s.cfg.experts k

/-- Put the Expert state of a path. -/
def putExpert (k : Nat) (e : ExpertPath) (s : State) : State := { s with cfg := { s.cfg with experts := Tab.set {} s.cfg.experts k e } }

/-- A fresh 64-bit nonce: what it is, the manual leaves to the device (R56, R597). -/
def freshNonce (s : State) : Nat := Config.physical s.free % 2 ^ 64

/-- The nonce of a path changes. -/
def renewNonce (k : Nat) (s : State) : State := (putExpert k { (expertOf s k) with nonce := freshNonce s } s).drawn

/-- Expert level on a path closes (R57). -/
def closeExpert (k : Nat) (s : State) : State := putExpert k { (expertOf s k) with isOpen := false } s

/-- Every Expert level closes. -/
def closeAllExpert (s : State) : State :=
  eachOf (s.cfg.experts.map Prod.fst) closeExpert s

/-- The Custodian session closes (R598): Expert level on it closes (R57), the transport key goes (R604). The next session is another
access path (R17, R597): nothing of this one's key words, failures or lockout stays. -/
def closeSession (s : State) : State :=
  { s with cus := { s.cus with isOpen := false, recovery := false, transport := 0 },
           cfg := { s.cfg with experts := s.cfg.experts.del 32 } }

/-- An access has reached a path whose Expert level is open: its idle time starts again (R57). -/
def expertUse (p : AccessPath) (s : State) : State :=
  match pathKey p with
  | none => s
  | some k =>
    let e := expertOf s k
    if e.isOpen = true ∧ e.lastUse ≠ s.life.now then putExpert k { e with lastUse := s.life.now } s else s

/-- The 4-byte path identifier (R56, R421): the port and the function number (256 more on half 1 of a port); the session
number for a Custodian session. -/
def pathIdent (s : State) (p : AccessPath) : Nat :=
  match p with
  | .expertWindow l f => l.val / 2 * 65536 + l.val % 2 * 256 + f.val
  | .custodian => 0xFFFF0000 + s.cus.number % 65536
  | _ => 0

/-- The expected answer: HMAC-SHA-256 under the expert key of the nonce followed by the path identifier (R56). With no Twima image in
force the manual gives no expert key: DESIGN CHOICE, log entry 85: the answer is checked under a key of 0. -/
def expertAnswer (s : State) (p : AccessPath) (nonce : Nat) : Nat :=
  Config.hmac256 (s.image.security.expertKey.getD 0) (nonce % 2 ^ 64 + 2 ^ 64 * pathIdent s p) % 2 ^ 256

/-- Words in order, the first holding bytes 0 to 3. -/
def wordsNumber (l : List Nat) : Nat := l.foldr (fun w n => w % 2 ^ 32 + 2 ^ 32 * n) 0

/-- A write of GLB_EXPERT_KEY (R56, R57): the eighth word compares. -/
def expertKeyWrite (p : AccessPath) (w : Nat) (s : State) : State :=
  match pathKey p with
  | none => s
  | some k =>
    let e := expertOf s k
    if e.lockout then peatRecord 0x0004 (violator s p) 3 0 s
    else if e.words.length < 7 then putExpert k { e with words := e.words ++ [w % 2 ^ 32] } s
    else if wordsNumber (e.words ++ [w]) = expertAnswer s p e.nonce then
      renewNonce k (putExpert k { e with words := [], isOpen := true, fails := 0, lastUse := s.life.now } s)
    else
      let n := e.fails + 1
      let s := putExpert k { e with words := [], fails := n % 3, lockout := decide (n = 3) } s
      renewNonce k (peatRecord 0x0004 (violator s p) (n % 3) 0 s)

end Sys2Proof.Machine
end

