-- ==== Sys2Proof/Machine/UpdOps.lean ====
section
/-! DEFINITION. Firmware slots, the end of a Firmware Commit and of a Custodian task, which several blocks share. -/

namespace Sys2Proof.Machine

open Sys2Proof

/-! ### Firmware slots (R571, R572) -/

/-- Put the image of a firmware slot. -/
def putFw (n : Nat) (i : Option FwImage) (s : State) : State :=
  if n = 1 then { s with upd := { s.upd with fw1 := i } } else if n = 2 then { s with upd := { s.upd with fw2 := i } } else s

/-- The CRC-32C over the fields of a copy of the selection record (R572), one byte each in the order of the rule (log entry 92). -/
def selCrc (r : SelRecord) : Nat := crc32c [r.active % 256, r.pending % 256, r.tries % 256]

/-- The copy that the boot ROM uses (R572): the later of the valid copies; slot 1 where neither is valid (log entry 92). -/
def selNow (a b : SelRecord) (last : Nat) : SelRecord :=
  let va := decide (a.crc = selCrc a)
  let vb := decide (b.crc = selCrc b)
  if va = true ∧ (vb = false ∨ last = 0) then a else if vb then b else {}

/-- Write the selection record (R572): the two copies are written in turn. -/
def putSel (active pending tries : Nat) (s : State) : State :=
  let h : SelRecord := { active := active, pending := pending, tries := tries }
  let r := { h with crc := selCrc h }
  let u := { s.upd with active := active, pending := pending, tries := tries, selLast := 1 - s.upd.selLast }
  if s.upd.selLast = 0 then { s with upd := { u with sel1 := r } } else { s with upd := { u with sel0 := r } }

/-- The staging slot is whichever does not run. -/
def fwStaging (s : State) : Nat := if s.upd.running = 1 then 2 else 1

/-! ### The end of a Custodian task (R601, R602) -/

/-- A task ends: STATE, STATUS and DETAIL, then TASK_DONE. -/
def taskEnd (status detail : Nat) (s : State) : State :=
  let s := ((s.wr F.CUS_TASK_STAT_STATE (if status = 0 then 2 else 3)).wr F.CUS_TASK_STAT_STATUS status).wr F.CUS_TASK_STAT_DETAIL detail
  let s := s.wr F.CUS_EVT_TASK_DONE 1
  { s with cus := { s.cus with busy := none } }

/-! ### The end of a Firmware Commit (R579) -/

/-- The requester of a commit that a Custodian task runs. -/
def cusCommit : Nat := 16384

/-- What a commit comes to: the NVMe status, and the task status with the R580 code. -/
structure CommitEnd where
  status : Nat
  task   : Nat
  detail : Nat := 0
  deriving DecidableEq, Repr

/-- The running commit ends: its command finishes, or its task ends. -/
def commitEnd (e : CommitEnd) (s : State) : State :=
  match s.upd.commit with
  | none => s
  | some n =>
    let s := { s with upd := { s.upd with commit := none } }
    if n = cusCommit then taskEnd e.task e.detail s else finishCmd n e.status 0 0 s

/-- CSTS.PP of every controller (R375). -/
def setPp (b : Bool) (s : State) : State :=
  { s with nvq := { s.nvq with ctrls := s.nvq.ctrls.map (fun e => (e.1, { e.2 with pp := b })) } }

/-- An activation in progress is abandoned: fetch resumes under the old firmware and the commit ends (R375, R583). -/
def abandonActivation (e : CommitEnd) (s : State) : State :=
  let s := { s with nvq := { s.nvq with act := 0, actSlot := none } }
  commitEnd e ((setPp false s).wr F.UPD_STAT_STATE 2)

/-- A control-core pair is lost during Drain or Pause (R583): the commit ends with PENDING set to the new slot. -/
def pairLostActivation (s : State) : State :=
  match s.nvq.actSlot with
  | none => s
  | some n =>
    if s.nvq.act = 0 then s
    else abandonActivation { status := 0x10B, task := 7 } (putSel s.upd.active n 3 s)

end Sys2Proof.Machine
end

