-- ==== Sys2Proof/Machine/Firmware.lean ====
section
/-! DEFINITION. A firmware image read from the bytes of its slot (R573, R574), and the checks and records of a delta (R575, R576). -/

namespace Sys2Proof.Machine

open Sys2Proof

/-! ### The image (R573, R574) -/

/-- Entry i of the component directory. -/
def compEntry (v i : Nat) : FwComp :=
  let o := 64 + 64 * i
  { type := byteField v o 1, flags := byteField v (o + 1) 1, res := byteField v (o + 2) 2, off := byteField v (o + 4) 4,
    len := byteField v (o + 8) 4, ver := byteField v (o + 12) 4, digest := byteField v (o + 16) 48 }

/-- The directory: 1 to 16 entries. -/
def compDir (v : Nat) : List FwComp := (List.range (min 16 (byteField v 6 2))).map (compEntry v)

/-- Bytes of the header, the directory and the signature. -/
def fwHead (v : Nat) : Nat := 64 + 64 * byteField v 6 2 + 104

/-- The entry of a component type. -/
def compOf (dir : List FwComp) (t : Nat) : Option FwComp := dir.find? (fun e => decide (e.type = t))

/-- The body of a component with a 1 above its last byte; 1, no byte, where there is none. -/
def compBody (v : Nat) (dir : List FwComp) (t : Nat) : Nat :=
  match compOf dir t with
  | some e => byteSpan v e.off e.len
  | none => 1

/-- A DEFERRED component is judged by the boot ROM alone (R574). -/
def compDeferred (e : FwComp) : Bool := bitOf e.flags 0

/-- STAGE1 and KEYMGR carry their own trailing signature, in the form of the image's (log entry 92), under the root-of-trust key. -/
def stageOk (rot : Nat × Nat) (b : Nat) : Bool :=
  let n := bodyLen b
  let o := n - 104
  decide (104 ≤ n) && ecdsaOk rot (Config.sha384 (byteSpan b 0 o)) (byteField b o 48) (byteField b (o + 48) 48) && decide (byteField b (o + 96) 8 = 0)

/-- UCODE_PATCH as a patch set (R256): none where its header is not one. -/
def patchBody (b : Nat) : Option PatchSet :=
  let n := byteField b 6 2
  if byteField b 0 4 ≠ 0x50555753 ∨ byteField b 4 2 ≠ 1 ∨ n = 0 ∨ 4096 < n ∨ bodyLen b < 16 + 12 * n then none
  else some { fenMask := BitVec.ofNat 16 (byteField b 8 2), baseCrc := byteField b 12 4,
              recs := (List.range n).map (fun i =>
                { addr := byteField b (16 + 12 * i) 4, old := byteField b (20 + 12 * i) 4, new_ := byteField b (24 + 12 * i) 4 }) }

/-- RETRY_SET as 32-bit words (R207). -/
def retryBody (b : Nat) : Option RetrySet :=
  if bodyLen b < 16 then none else some { words := (List.range ((bodyLen b + 3) / 4)).map (fun i => byteField b (4 * i) (min 4 (bodyLen b - 4 * i))) }

/-- The bytes of a public key, x then y (log entry 87), with a 1 above the last. -/
def keyBytes (k : Nat × Nat) : Nat := k.1 + 2 ^ 384 * k.2 + 2 ^ 768

/-- The public key is the one whose digest the fuses hold. -/
def keyMatches (k : Nat × Nat) (digest : Nat) : Bool := decide (Config.sha384 (keyBytes k) = digest)

/-- The image that the bytes of a slot make; the root-of-trust key verifies STAGE1 and KEYMGR where its digest is the fuses'. -/
def parseFw (rot : Nat × Nat) (rotDigest v : Nat) : FwImage :=
  let dir := compDir v
  let len := byteField v 8 4
  { serial := byteField v 12 4, version := byteField v 24 8, cwyVers := byteField v 36 2, len := len, dir := dir,
    bodies := dir.map (fun e => Config.sha384 (byteSpan v e.off e.len)), hash := Config.sha384 (byteSpan v 0 len),
    patch := patchBody (compBody v dir 4), retry := retryBody (compBody v dir 5),
    bootsOk := keyMatches rot rotDigest && stageOk rot (compBody v dir 1) && stageOk rot (compBody v dir 2) }

/-- Every component that is not DEFERRED has the digest of its entry (R576). -/
def fwDigestsOk (i : FwImage) : Bool :=
  (List.zip i.dir i.bodies).all (fun e => compDeferred e.1 || decide (e.2 = e.1.digest))

/-- The two images differ in a component that only a boot takes into use (R579): STAGE1, KEYMGR or HOSTPHY, by DIGEST or, where
DEFERRED, by COMP_VER. -/
def resetNeeded (a b : FwImage) : Bool :=
  [1, 2, 6].any (fun t =>
    match compOf a.dir t, compOf b.dir t with
    | some x, some y => if compDeferred x || compDeferred y then decide (x.ver ≠ y.ver) else decide (x.digest ≠ y.digest)
    | _, _ => true)

/-! ### The delta (R575, R576) -/

/-- Bytes of the delta header and of the target's header, directory and signature. -/
def deltaHead (v : Nat) : Nat := 96 + fwHead (v / 2 ^ 768)

/-- The directory is in order (R576 step 7): every type once, the bodies within IMAGE_LEN on 4 KiB boundaries after the signature, none
overlapping. -/
def fwDirOk (v : Nat) : Bool :=
  let dir := compDir v
  let len := byteField v 8 4
  decide (dir.length = 6) && [1, 2, 3, 4, 5, 6].all (fun t => (compOf dir t).isSome) &&
    dir.all (fun e => decide (e.res = 0 ∧ e.flags < 4 ∧ e.off % 4096 = 0 ∧ fwHead v ≤ e.off ∧ e.off + e.len ≤ len)) &&
    decide (dir.Pairwise (fun a b => a.off + a.len ≤ b.off ∨ b.off + b.len ≤ a.off))

/-- What the device knows when it checks a delta: the running image, the firmware-signing key and whether its digest is the fuses', and
the floor. -/
structure DeltaBase where
  image : Option FwImage
  key   : Nat × Nat
  keyOk : Bool
  floor : Nat
  deriving DecidableEq, Repr

/-- The checks of the target's header (R576 steps 3 to 7), `t` its bytes from the header on, `n` how many have arrived: 0, or the
R580 code of the first that fails. -/
def targetCheck (b : DeltaBase) (t target n : Nat) : Nat :=
  if n < 64 then 0
  else if byteField t 0 4 ≠ 0x49465753 ∨ byteField t 4 2 ≠ 1 then 0x01
  else if byteField t 16 8 ≠ 0x0000000053578512 then 0x03
  else if byteField t 8 4 ≠ target ∨ 33554432 < target ∨ byteField t 6 2 = 0 ∨ 16 < byteField t 6 2 ∨ byteField t 38 2 ≠ 0 ∨
      byteField t 48 16 ≠ 0 then 0x01
  else if n < fwHead t then 0
  else
    let o := fwHead t - 104
    if (b.keyOk && ecdsaOk b.key (Config.sha384 (byteSpan t 0 o)) (byteField t o 48) (byteField t (o + 48) 48) &&
        decide (byteField t (o + 96) 8 = 0)) = false then 0x04
    else if byteField t 12 4 < b.floor then 0x05
    else if bitOf (byteField t 32 2) 0 = false ∨ bitOf (byteField t 34 2) 0 = false ∨
        byteField t 36 2 &&& ((b.image.map FwImage.cwyVers).getD 3) = 0 then 0x06
    else if fwDirOk t = false then 0x01
    else 0

/-- The checks of R576 on the bytes that have arrived, in order: 0, or the R580 code of the first that fails. -/
def deltaCheck (b : DeltaBase) (v n : Nat) : Nat :=
  if n < 96 then 0
  else if byteField v 0 4 ≠ 0x44465753 ∨ byteField v 4 2 ≠ 1 ∨ byteField v 6 2 ≠ 0 ∨ byteField v 12 4 ≠ 0 ∨ byteField v 68 28 ≠ 0 then 0x01
  else if b.image.all (fun i => decide (byteField v 16 48 ≠ i.hash)) then 0x02
  else targetCheck b (v / 2 ^ 768) (byteField v 64 4) (n - 96)

/-- The running image is the target already (R586): it begins with the target's header, directory and signature. -/
def deltaSame (v n run : Nat) : Bool :=
  decide (deltaHead v ≤ n) && decide (byteField (v / 2 ^ 768) 0 (fwHead (v / 2 ^ 768)) = byteField run 0 (fwHead (v / 2 ^ 768)))

/-- How far a delta has been applied: bytes taken, the target bytes written, the R580 code of a failure, END. -/
structure DeltaRun where
  pos    : Nat
  out    : Nat
  outLen : Nat
  err    : Nat := 0
  atEnd  : Bool := false
  deriving DecidableEq, Repr

/-- Output bytes are written at ascending target offsets; they may not pass TARGET_LEN. -/
def DeltaRun.put (r : DeltaRun) (target bytes len next : Nat) : DeltaRun :=
  if target < r.outLen + len then { r with err := 0x07 }
  else { r with out := r.out + 2 ^ (8 * r.outLen) * (bytes % 2 ^ (8 * len)), outLen := r.outLen + len, pos := next }

/-- One record (R575) of the delta `v`, of which `n` bytes have arrived; none where the record has not arrived whole. -/
def deltaRecord (v n base baseLen target : Nat) (r : DeltaRun) : Option DeltaRun :=
  if n < r.pos + 8 then none
  else
    let t := byteField v r.pos 1
    let len := byteField v (r.pos + 4) 4
    if t = 0x01 then
      if n < r.pos + 12 then none
      else if baseLen < byteField v (r.pos + 8) 4 + len then some { r with err := 0x07 }
      else some (r.put target (byteField base (byteField v (r.pos + 8) 4) len) len (r.pos + 12))
    else if t = 0x02 then
      if target < r.outLen + len then some { r with err := 0x07 }
      else if n < r.pos + 8 + (len + 3) / 4 * 4 then none
      else some (r.put target (byteField v (r.pos + 8) len) len (r.pos + 8 + (len + 3) / 4 * 4))
    else if t = 0x03 then
      if n < r.pos + 12 then none
      else if target < r.outLen + len then some { r with err := 0x07 }
      else some (r.put target (byteField v (r.pos + 8) 1 * ((2 ^ (8 * len) - 1) / 255)) len (r.pos + 12))
    else if t = 0xFF then
      if r.outLen = target then some { r with atEnd := true, pos := r.pos + 8 } else some { r with err := 0x07 }
    else some { r with err := 0x07 }

/-- The records that have arrived, in order, until one fails, END, or more bytes are needed. -/
def deltaRecords (v n base baseLen target : Nat) : Nat → DeltaRun → DeltaRun
  | 0, r => r
  | k + 1, r =>
    if r.err ≠ 0 ∨ r.atEnd = true then r
    else match deltaRecord v n base baseLen target r with
      | some r => deltaRecords v n base baseLen target k r
      | none => r

end Sys2Proof.Machine
end

