-- ==== Sys2Proof/Machine/Download.lean ====
section
/-! DEFINITION. Pieces of a firmware delta or of a Twima image, from a host, the Custodian or a chain (chapter "Firmware
update and activation"). -/

namespace Sys2Proof.Machine

open Sys2Proof

/-- The owner of a download that the Custodian runs. -/
def ownerCus : Nat := 0xFFFF

/-- The owner of a chain transfer. -/
def ownerChain : Nat := 0x10000

/-- What a piece comes to: the NVMe status, the task status, the R580 or R43 code. -/
structure PieceEnd where
  status : Nat := 0
  task   : Nat := 0
  detail : Nat := 0
  deriving DecidableEq, Repr

/-- Magic of a firmware delta, "SWFD" (R575), and of a Twima image, "TWMA" (R36). -/
def magicDelta : Nat := 0x44465753
def magicTwima : Nat := 0x414D5754

/-- A firmware slot is empty: no image, no bytes. -/
def clearFw (k : Nat) (s : State) : State :=
  let s := putFw k none s
  { s with upd := { s.upd with fwBytes := s.upd.fwBytes.del k } }

/-- A delta is refused with an R580 code (R576): the staging slot is marked empty. -/
def deltaRefuse (e : Nat) (s : State) : State :=
  let s := clearFw (fwStaging s) s
  let s := ((s.wr F.UPD_STAT_ERR e).wr F.UPD_STAT_STATE 4).wr F.UPD_EVT_REFUSED 1
  { s with upd := { s.upd with isOpen := false, failed := true, stored := false } }

/-- A delta reaches END with every check passed (R576): the staging slot holds the image. -/
def deltaEnd (i : FwImage) (s : State) : State :=
  let s := putFw (fwStaging s) (some i) s
  let s := (s.wr F.UPD_STAT_STATE 2).wr F.UPD_EVT_APPLIED 1
  { s with upd := { s.upd with isOpen := false, deltaLen := s.upd.off } }

/-- The NVMe status of an R580 code. -/
def errStatus (e : Nat) : Nat := if e = 0x0A then 0x06 else if e = 0x0C then 0x106 else 0x107

/-- A piece that a check refuses. -/
def deltaFail (e : Nat) (s : State) : PieceEnd × State := ({ status := errStatus e, task := 7, detail := e }, deltaRefuse e s)

/-- What the device checks a delta against. -/
def deltaBase (s : State) : DeltaBase := ⟨fwSlot s s.upd.running, s.upd.fwKey, s.upd.keyOk, s.upd.floor⟩

/-- The records that have arrived are applied (R575): the first output is the target's header, directory and signature, verbatim. -/
def deltaApply (s : State) : DeltaRun :=
  let v := s.upd.buf
  let t := v / 2 ^ 768
  let base := (fwSlot s s.upd.running).map FwImage.len |>.getD 0
  let r : DeltaRun := if s.upd.pos = 0 then ⟨deltaHead v, byteField t 0 (fwHead t), fwHead t, 0, false⟩
    else ⟨s.upd.pos, Tab.get 0 s.upd.fwBytes (fwStaging s), s.upd.outLen, 0, false⟩
  deltaRecords v s.upd.off (Tab.get 0 s.upd.fwBytes s.upd.running) base (byteField v 64 4) (s.upd.off / 8 + 1) r

/-- The output is in the staging slot; at END its components are read back and compared with their digests (R576). -/
def deltaWritten (r : DeltaRun) (s : State) : PieceEnd × State :=
  let s := s.wr F.UPD_PROGRESS_OUT_BYTES (r.outLen % 2 ^ 26)
  let s := { s with upd := { s.upd with pos := r.pos, outLen := r.outLen, fwBytes := Tab.set 0 s.upd.fwBytes (fwStaging s) r.out } }
  if r.err ≠ 0 then deltaFail r.err s
  else if r.atEnd = false then ({}, s)
  else
    let i := parseFw s.upd.rotKey s.upd.rotDigest r.out
    if fwDigestsOk i = false then deltaFail 0x08 s else ({}, deltaEnd i s)

/-- A piece of a delta (R576, R578): its bytes go to the download buffer; the checks, then the records into the staging slot. -/
def deltaPiece (p : Piece) (s : State) : PieceEnd × State :=
  let n := p.off + p.len
  let old := if p.off = 0 then 0 else s.upd.buf % 2 ^ (8 * p.off)
  let s := { s with upd := { s.upd with off := n, buf := old + 2 ^ (8 * p.off) * (p.data % 2 ^ (8 * p.len)) } }
  let e := deltaCheck (deltaBase s) s.upd.buf n
  if e ≠ 0 then deltaFail e s
  else if n < 160 ∨ n < deltaHead s.upd.buf then ({}, s)
  else if p.flashOk = false then deltaFail 0x0A s
  else deltaWritten (deltaApply s) s

/-- A new download starts (R578, R588): the staging slot of a delta is empty from here on, and a PENDING that names it is
cleared. -/
def startDelta (owner source : Nat) (s : State) : State :=
  let k := fwStaging s
  let s := clearFw k s
  let s := (((s.wr F.UPD_STAT_STATE 1).wr F.UPD_STAT_ERR 0).wr F.UPD_STAT_SOURCE source).wr F.UPD_PROGRESS_OUT_BYTES 0
  let s := if s.upd.pending = k then putSel s.upd.active 0 0 s else s
  { s with upd := { s.upd with owner := owner, isOpen := true, twima := false, failed := false, stored := false, off := 0, deltaLen := 0,
                               pos := 0, outLen := 0, source := source } }

/-- A piece of a Twima image in the download path (R47, R578). -/
def twimaDownload (owner : Nat) (p : Piece) (s : State) : PieceEnd × State :=
  let (ok, s) := twimaPiece p s
  if ok = false then ({ status := 0x02, task := 2 }, s)
  else ({}, { s with upd := { s.upd with owner := owner, isOpen := !stagedWhole s, twima := true, failed := false, off := p.off + p.len } })

/-- One piece (R578, R580, R588). -/
def downloadPiece (owner source : Nat) (p : Piece) (s : State) : PieceEnd × State :=
  if s.upd.commit.isSome = true ∨ (s.upd.isOpen = true ∧ owner ≠ s.upd.owner) ∨ (s.cwy.chain = true ∧ owner ≠ ownerChain) then ({ status := 0x0C, task := 5 }, s)
  else if p.off % 4096 ≠ 0 ∨ 33554432 < p.off + p.len ∨
      (p.off ≠ 0 ∧ (p.off ≠ s.upd.off ∨ (s.upd.isOpen = false ∧ s.upd.failed = false ∧ s.upd.twima = false))) then ({ status := 0x02, task := 2 }, s)
  else if p.off ≠ 0 then
    (if s.upd.failed then ({ status := 0x107, task := 7, detail := s.rd F.UPD_STAT_ERR }, { s with upd := { s.upd with off := p.off + p.len } })
     else if s.upd.twima then twimaDownload owner p s
     else deltaPiece p s)
  else if byteField p.data 0 4 = magicDelta then deltaPiece p (startDelta owner source s)
  else if byteField p.data 0 4 = magicTwima then twimaDownload owner p s
  else ({ status := 0x107, task := 7, detail := 0x01 },
    { s with upd := { s.upd with owner := owner, isOpen := false, twima := false, failed := true, off := p.len } })

/-- A chain transfer or a download ends without its END: the slot stays empty (R475, R588). -/
def dropDownload (s : State) : State :=
  if s.upd.isOpen = true ∧ s.upd.twima = false then
    let s := (clearFw (fwStaging s) s).wr F.UPD_STAT_STATE 0
    { s with upd := { s.upd with isOpen := false } }
  else s

end Sys2Proof.Machine
end

