-- ==== Sys2Proof/Machine/MereOps.lean ====
section
/-! DEFINITION. The Mere's memory: bytes, words and check bits, valid bits, the leaky bucket and fences (chapter "The Mere
central store"). -/

namespace Sys2Proof.Machine

open Sys2Proof

/-! ### Addresses (R300) -/

/-- The stack of a Mere address. -/
def mereStack (a : Nat) : Nat := a / 2 ^ 35 % 8

/-- The offset within the stack. -/
def mereOff (a : Nat) : Nat := a % 2 ^ 35

/-- An access to this address is taken: populated, and its stack in service (R300, R320). -/
def mereOk (s : State) (a : Nat) : Bool :=
  decide (a < 2 ^ 38) && decide (mereOff a < 0x600000000) && s.isSet F.MERE_STAT_IN_SERVICE (mereStack a)

/-- A range is taken when both its ends are, in one stack. -/
def mereRangeOk (s : State) (a len : Nat) : Bool :=
  decide (len ≠ 0) && mereOk s a && mereOk s (a + len - 1) && decide (mereStack a = mereStack (a + len - 1))

/-! ### Check bits (R305, R306): a stored word is 272 bits: data [255:0], H [264:256], P [265], T [271:266] -/

/-- fold(a): the XOR of the six-bit groups of the address from bit 5 on (R305). -/
def fold6 (a : Nat) : Nat :=
  (List.range 6).foldl (fun x m => x ^^^ bits a (5 + 6 * m) 6) 0

/-- Whether a number is a power of two below 512. -/
def pow2 (n : Nat) : Bool := (List.range 9).any (fun i => n = 2 ^ i)

/-- h(0), h(1), … h(261): the integers of 3 or more that are not powers of two (R306). -/
def hList : List Nat := (List.range 272).filter (fun n => decide (3 ≤ n) && !pow2 n)

/-- XOR of h(q) over the protected positions q that hold a 1 (R306): the nine H bits together. -/
def hamming (prot : Nat) (hs : List Nat) : Nat :=
  match hs with
  | [] => 0
  | h :: r => (if prot % 2 = 1 then h else 0) ^^^ hamming (prot / 2) r

/-- The 262 protected bits of a stored word: data, then tag. -/
def protBits (w : Nat) : Nat := bits w 0 256 + 2 ^ 256 * bits w 266 6

/-- The stored word of 256 data bits and a tag (R305). -/
def encodeWord (data tag : Nat) : Nat :=
  let h := hamming (data % 2 ^ 256 + 2 ^ 256 * (tag % 64)) hList
  let p := (popCount data 256 + popCount tag 6 + popCount h 9) % 2
  data % 2 ^ 256 + 2 ^ 256 * h + 2 ^ 265 * p + 2 ^ 266 * (tag % 64)

/-- The tag of a clean or a poisoned word (R305). -/
def wordTag (addr : Nat) (poisoned : Bool) : Nat := if poisoned then fold6 addr ^^^ 0x3F else fold6 addr

/-- What the checker finds in a stored word (R306). -/
inductive WordCheck where
  | good (data : Nat) (corrected : Bool)
  | poisoned (data : Nat) (corrected : Bool)
  | uncorrectable (data : Nat) (addrError : Bool)
  deriving DecidableEq, Repr

/-- The tag comparison after any correction (R306). -/
def checkTag (addr w : Nat) (corrected : Bool) : WordCheck :=
  if bits w 266 6 = wordTag addr false then .good (bits w 0 256) corrected
  else if bits w 266 6 = wordTag addr true then .poisoned (bits w 0 256) corrected
  else .uncorrectable (bits w 0 256) true

/-- The position in the stored word of protected position q. -/
def protPlace (q : Nat) : Nat := if q < 256 then q else q + 10

/-- The checker (R306): S and Q, the correction, the tag comparison. -/
def checkWord (addr w : Nat) : WordCheck :=
  let syn := hamming (protBits w) hList ^^^ bits w 256 9
  let q := popCount w 272 % 2
  if q = 0 then (if syn = 0 then checkTag addr w false else .uncorrectable (bits w 0 256) false)
  else if syn = 0 ∨ pow2 syn = true then checkTag addr w true
  else
    match firstIndex (fun h => decide (h = syn)) hList with
    | some p => checkTag addr (w ^^^ 2 ^ protPlace p) true
    | none => .uncorrectable (bits w 0 256) false

/-- The stored word at a word-aligned address: the encoding of its bytes and tag, with the bits that errors have flipped. -/
def storedAt (s : State) (a : Nat) : Nat :=
  encodeWord (memLoad s.mere.mem (a / 32 * 32) 32) (wordTag (a / 32 * 32) (Tab.get false s.mere.poisoned (a / 32))) ^^^
    Tab.get 0 s.mere.err (a / 32) % 2 ^ 272

/-- The checker's finding at an address. -/
def findAt (s : State) (a : Nat) : WordCheck := checkWord (a / 32 * 32) (storedAt s a)

/-- Store a word: its data, whether its tag is the poison code, with no error. -/
def putWord (a data : Nat) (poisoned : Bool) (s : State) : State :=
  { s with mere := { s.mere with
      mem := memStore s.mere.mem (a / 32 * 32) 32 data
      poisoned := Tab.set false s.mere.poisoned (a / 32) poisoned
      err := Tab.set 0 s.mere.err (a / 32) 0 } }

/-- Flip stored bits of words, as upsets do. -/
def flipBits (flips : List (Nat × Nat)) (s : State) : State :=
  { s with mere := { s.mere with
      err := flips.foldl (fun t e => Tab.set 0 t e.1 (Tab.get 0 t e.1 ^^^ (e.2 % 2 ^ 272))) s.mere.err } }

/-! ### The valid-bit store (R311) -/

/-- The valid bits of one group, of 64 regions, that an address lies in. -/
def validGroup (a : Nat) : Nat := a / 262144

/-- An uncorrectable group (R311): every word of its 64 regions takes the poison code over what it holds, and the regions are valid. -/
def poisonGroup (g : Nat) (s : State) : State :=
  { s with mere := { s.mere with
      valid := (List.range 64).foldl (fun t i => Tab.set false t (64 * g + i) true) s.mere.valid
      poisoned := (List.range 8192).foldl (fun t i => Tab.set false t (8192 * g + i) true) s.mere.poisoned
      err := s.mere.err.filter (fun e => decide (e.1 / 8192 ≠ g)) } }

/-- A group's word is read and checked (R311): one flipped bit is corrected, more are uncorrectable. -/
def checkGroup (g : Nat) (s : State) : State :=
  let n := popCount (Tab.get 0 s.mere.verr g) 72
  if n = 0 then s
  else
    let s := { s with mere := { s.mere with verr := Tab.set 0 s.mere.verr g 0 } }
    if n = 1 then s else (poisonGroup g s).wr F.MERE_EVT_VALID_UNC 1

/-- Flip bits of a group's stored word. -/
def flipGroup (g flips : Nat) (s : State) : State :=
  { s with mere := { s.mere with verr := Tab.set 0 s.mere.verr g (Tab.get 0 s.mere.verr g ^^^ flips % 2 ^ 72) } }

/-- The groups that an access of `len` bytes reads are checked before it goes on (R311). -/
def checkGroups (a len : Nat) (s : State) : State :=
  eachOf ((List.range (validGroup (a + len - 1) + 1 - validGroup a)).map (fun i => validGroup a + i)) checkGroup s

/-! ### Scrubber laps (R327) -/

/-- One step of lap `i` of `total` steps (R327): at the last one the lap is complete; one that runs longer than LAP_WARN is announced. -/
def lapStep (i total : Nat) (s : State) : State :=
  let l := Tab.get {} s.mere.laps i
  let began := if l.steps = 0 then s.life.now else l.began
  let run := s.life.now - began
  let next : Lap := if total ≤ l.steps + 1 then { began := s.life.now, steps := 0, last := min 1048575 run }
    else { began := began, steps := l.steps + 1, last := l.last }
  let s := { s with mere := { s.mere with laps := Tab.set {} s.mere.laps i next } }
  if s.rd F.MERE_SCRUB_CTL_LAP_WARN < run then s.wr F.MERE_EVT_LAP_LONG 1 else s

/-! ### Self-refresh (R323, R651) -/

/-- A parked stack leaves self-refresh for an access (R323). -/
def unpark (k : Nat) (s : State) : State := s.wr F.MERE_STAT_PARKED 0 k

/-- The stacks that Fallow parks: of the sets 0 to 3 and 4 to 7, the lowest-numbered one in service stays active. -/
def fallowStacks (s : State) : List Nat :=
  let up := stacksUp s
  let stay := ((up.find? (fun k => decide (k < 4))).toList ++ (up.find? (fun k => decide (4 ≤ k))).toList)
  up.filter (fun k => decide (k ∉ stay))

/-! ### Fences and re-mirroring (R320 to R322) -/

/-- Dirty units after stack k is fenced: a copy on k leaves; a unit with its other copy in service waits for a third
stack (both its places name the survivor); a unit with no copy left is lost. -/
def dirtyAfterFence (k : Nat) (t : Tab Dirty) : Tab Dirty :=
  (t.filter (fun e => decide (¬ (e.2.s1 = k ∧ e.2.s2 = k)))).map (fun e =>
    if e.2.s1 = k then (e.1, { e.2 with s1 := e.2.s2, r1 := e.2.r2 })
    else if e.2.s2 = k then (e.1, { e.2 with s2 := e.2.s1, r2 := e.2.r1 })
    else e)

/-- The dirty units whose last copy stack k holds. -/
def dirtyLostBy (k : Nat) (t : Tab Dirty) : List Nat := (t.filter (fun e => decide (e.2.s1 = k ∧ e.2.s2 = k))).map Prod.fst

/-- The contents of stack k are dropped (R321), what it holds clean with them. -/
def dropStack (k : Nat) (s : State) : State :=
  { s with map := { s.map with clean := s.map.clean.filter (fun e => decide (e.2.2 / 8388608 ≠ k)) }, mere := { s.mere with
      mem := s.mere.mem.filter (fun c => decide (mereStack c.1 ≠ k))
      poisoned := s.mere.poisoned.filter (fun e => decide (e.1 / 2 ^ 30 ≠ k))
      err := s.mere.err.filter (fun e => decide (e.1 / 2 ^ 30 ≠ k))
      valid := s.mere.valid.filter (fun e => decide (e.1 / 8388608 ≠ k)) } }

/-- The status of a stack that is fenced (R320, R323, R324): its cause, out of service, the boot test that failed, the event. -/
def fenceMark (k cause : Nat) (s : State) : State :=
  let s := ((s.wr F.MERE_STAT_FENCE_CAUSE cause k).wr F.MERE_STAT_IN_SERVICE 0 k).wr F.MERE_STAT_PARKED 0 k
  let s := if cause = 1 then s.wr F.MERE_STAT_CHK_PASS 0 k else if cause = 2 then s.wr F.MERE_STAT_TRAIN_PASS 0 k else s
  s.wrBit F.MERE_EVT_FENCED k true

/-- The retention table's section in a checkpoint (R183), which numbers its pieces in the Mere. -/
def retainSection : Nat := 9

/-- Records of the retention table in a piece of 64 MiB. -/
def pieceRecords : Nat := 4194304

/-- A retention record rebuilt (R139, R314): PROG_TIME from the block label, AGE_BASE from the newest checkpoint, not measured,
pessimistic. -/
def rebuiltRecord (counters : Tab Nat) (l : Nat) (b : Block) : Block :=
  { b with progTime := b.labelTime, ageBase := Tab.get 0 counters l / 60000000 % 2 ^ 32, measRber := 0, measAge := 0,
           flags := (if b.slc then 2 else 0) + 4 }

/-- A piece of a mirrored structure whose two copies are both lost (R94, R314): map pieces are loaded again from the newest checkpoint and
the journal after it, which hold every change; the records of a retention piece are rebuilt. -/
def reloadPiece (piece : Nat) (s : State) : State :=
  if piece / 1024 ≠ retainSection then s
  else
    let counters := (s.map.ckpts.head?.map Checkpoint.thermal).getD []
    { s with map := { s.map with blocks := s.map.blocks.map (fun (e : Nat × Block) =>
        if blockIndex s (e.1 / 1048576) (e.1 % 1048576) / pieceRecords = piece % 1024 then (e.1, rebuiltRecord counters (e.1 / 1048576) e.2)
        else e) } }

/-- Mirrored structures after stack k is fenced (R321): a copy on k leaves, so that both places name the survivor. -/
def homesAfterFence (k : Nat) (t : Tab (Nat × Nat)) : Tab (Nat × Nat) :=
  t.map (fun e => (e.1, if e.2.1 = k then (e.2.2, e.2.2) else if e.2.2 = k then (e.2.1, e.2.1) else e.2))

/-- Bytes of mirrored data on a stack (R304): dirty copies, and the pieces of the other structures at 64 MiB each. -/
def mirroredOn (s : State) (k : Nat) : Nat :=
  4096 * dirtyOn s k + 67108864 * (s.map.homes.filter (fun e => decide (e.2.1 = k ∨ e.2.2 = k))).length

/-- The stack in service, of those allowed, that holds the least mirrored data, lower numbers first (R304). -/
def leastMirrored (s : State) (l : List Nat) : Option Nat :=
  (l.foldl (fun (a : Option (Nat × Nat)) k =>
    match a with
    | none => some (mirroredOn s k, k)
    | some (n, j) => if mirroredOn s k < n then some (mirroredOn s k, k) else some (n, j)) none).map Prod.snd

/-- Place a piece of a mirrored structure on two stacks (R304). -/
def placePiece (piece : Nat) (s : State) : State :=
  match leastMirrored s (stacksUp s) with
  | none => s
  | some a =>
    match leastMirrored s ((stacksUp s).filter (fun k => decide (k ≠ a))) with
    | none => s
    | some b => { s with map := { s.map with homes := s.map.homes.put piece (a, b) } }

/-- The mirrored structures other than dirty data (R304) as pieces of at most 64 MiB, numbered 1,024 × structure + piece: the sections of
R183, which are the structures of R94 and the retention table, then descriptor rings, microcode masters, Dredge summaries and rebuild
buffers, whose sizes the manual does not give: a piece each (DESIGN CHOICE, log entry 94). -/
def mirrorPieces (s : State) : List Nat :=
  ((ckptSections s).zipIdx.flatMap (fun e => (List.range ((e.1 + 67108863) / 67108864)).map (fun j => 1024 * e.2 + j))) ++
    (List.range 4).map (fun i => 1024 * (12 + i))

/-- The mirrored structures take their places (R304). -/
def placeMirrors (s : State) : State :=
  eachOf (mirrorPieces s) placePiece { s with map := { s.map with homes := [] } }

/-- What a fence takes with it (R314, R321): the stack's contents, its copies of dirty units, the units with no copy left. -/
def fenceLoss (k : Nat) (s : State) : State :=
  let lost := dirtyLostBy k s.map.dirty
  let s := dropStack k s
  let s := { s with map := { s.map with dirty := dirtyAfterFence k s.map.dirty } }
  let gone := (s.map.homes.filter (fun e => decide (e.2 = (k, k)))).map Prod.fst
  let s := eachOf gone (fun p s => placePiece p (reloadPiece p s)) { s with map := { s.map with homes := homesAfterFence k s.map.homes } }
  coverLost lost (eachOf lost (fun key => declareUnitLost (key / 262144) (key % 262144)) s)

/-- Fence a stack (R320 to R322): it takes no further access; dirty data with its last copy there is lost (R314); the
re-mirror of the rest begins. A stack that fails the boot tests (causes 1 and 2) holds nothing yet. -/
def fenceStack (k cause : Nat) (s : State) : State :=
  if cause = 0 ∨ 8 ≤ cause ∨ s.rd F.MERE_STAT_FENCE_CAUSE k ≠ 0 then s
  else
    let s := faultAbsorbed bitStack k (fenceLoss k (fenceMark k cause s))
    if cause ≤ 2 then s else glbRefresh { s with mere := { s.mere with remirror := addNew k s.mere.remirror } }

/-- Give every unit with one copy left a third stack, chosen under R303 (R321). -/
def remirrorDirty (s : State) : State :=
  eachOf ((s.map.dirty.filter (fun e => decide (e.2.s1 = e.2.s2))).map Prod.fst) (fun key s =>
    match s.map.dirty.find key, dirtyStacks s with
    | some d, some (a, b) =>
      let k := if a = d.s1 then b else a
      let r := freshRegion s k
      let s := (fillRegion r s).drawn
      { s with map := { s.map with dirty := s.map.dirty.put key { d with s2 := k, r2 := r } } }
    | _, _ => s) s

/-- Give every piece of a mirrored structure with one copy left a third stack (R304, R321). -/
def remirrorPieces (s : State) : State :=
  eachOf ((s.map.homes.filter (fun e => decide (e.2.1 = e.2.2))).map Prod.fst) (fun piece s =>
    match s.map.homes.find piece with
    | none => s
    | some (a, _) =>
      match leastMirrored s ((stacksUp s).filter (fun k => decide (k ≠ a))) with
      | none => s
      | some b => { s with map := { s.map with homes := s.map.homes.put piece (a, b) } }) s

/-! ### The leaky bucket (R318, R319) -/

/-- One corrected word on stack k: the count, the bucket and its overflow. -/
def corrected (k : Nat) (s : State) : State :=
  let s := s.count F.MERE_CNT_CORR_COUNT 1 k
  let depth := s.rd F.MERE_BKT_CTL_DEPTH
  let level := s.rd F.MERE_BKT_LEVEL k
  if level < depth then s.wr F.MERE_BKT_LEVEL (level + 1) k
  else
    let s := s.wr F.MERE_BKT_LEVEL depth k
    if k ∈ s.mere.disarmed then s
    else
      let s := { s with mere := { s.mere with disarmed := addNew k s.mere.disarmed } }
      let s := (s.wrBit F.MERE_EVT_BUCKET k true).count F.MERE_BKT_OVF_24H 1 k
      let lim := s.rd F.MERE_BKT_CTL_FENCE_OVF
      if lim ≠ 0 ∧ lim ≤ s.rd F.MERE_BKT_OVF_24H k then fenceStack k 5 s else s

/-- One unit leaks from every stack's bucket; a bucket at half its depth may overflow again (R318). -/
def leakAll (s : State) : State :=
  eachOf (List.range 8) (fun k s =>
    let level := s.rd F.MERE_BKT_LEVEL k - 1
    let s := s.wr F.MERE_BKT_LEVEL level k
    if level ≤ s.rd F.MERE_BKT_CTL_DEPTH / 2 then
      { s with mere := { s.mere with disarmed := dropOne k s.mere.disarmed } }
    else s) s

/-- The counts and events of a checked word (R307). -/
def noteCheck (a : Nat) (c : WordCheck) (s : State) : State :=
  let k := mereStack a
  match c with
  | .good _ cor => if cor then corrected k s else s
  | .poisoned _ cor => if cor then corrected k s else s
  | .uncorrectable _ addr =>
    let s := (s.count F.MERE_CNT_UNC_COUNT 1 k).wrBit F.MERE_EVT_UNC k true
    if addr then s.count F.MERE_CNT_ADDR_COUNT 1 k else s

/-! ### Reads (R304, R307, R308) -/

/-- The data of a checked word and whether it carries a poison indication. -/
def checkData (c : WordCheck) : Nat × Bool :=
  match c with
  | .good d _ => (d, false)
  | .poisoned d _ => (d, true)
  | .uncorrectable d _ => (d, true)

/-- Read one word at an address: its data, whether it is poison, and the state after the counts. -/
def readWordAt (a : Nat) (s : State) : (Nat × Bool) × State :=
  if regionValid s a then
    let c := findAt s a
    (checkData c, noteCheck a c s)
  else ((0, false), s)

/-- Read one word of a mirrored structure (R304): a bad primary word is taken from a good other copy and repaired. -/
def readMirrored (a m : Nat) (s : State) : (Nat × Bool) × State :=
  let (r, s) := readWordAt a s
  if r.2 = false then (r, s)
  else
    let (r2, s) := readWordAt m s
    if r2.2 then (r, s)
    else (r2, (putWord a r2.1 false s).count F.MERE_CNT_REPAIR_COUNT 1 (mereStack a))

/-- Read a run of words from word number `w`, with the mirror's first word where one is named. -/
def readRun (n w : Nat) (mirror : Option Nat) (s : State) : (Nat × Bool) × State :=
  match n with
  | 0 => ((0, false), s)
  | n + 1 =>
    let (r, s) := match mirror with
      | none => readWordAt (32 * w) s
      | some m => readMirrored (32 * w) (32 * m) s
    let (r2, s) := readRun n (w + 1) (mirror.map (· + 1)) s
    ((r.1 + 2 ^ 256 * r2.1, r.2 || r2.2), s)

/-! ### Writes (R309, R312, R313) -/

/-- Merge `n` bytes of `v` into a word from byte `o`. -/
def mergeBytes (word o n v : Nat) : Nat :=
  word % 2 ^ (8 * o) + 2 ^ (8 * o) * (v % 2 ^ (8 * n)) + word / 2 ^ (8 * (o + n)) * 2 ^ (8 * (o + n))

/-- A partial write of one copy (R313): merge by the state of the word found; whether it is a poison merge. -/
def partialOne (a o n v : Nat) (s : State) : Bool × State :=
  if regionValid s a = false then (false, putWord a (mergeBytes 0 o n v) false (validate a s))
  else
    let c := findAt s a
    let s := noteCheck a c s
    match c with
    | .good d _ => (false, putWord a (mergeBytes d o n v) false s)
    | .poisoned d _ => (true, (putWord a (mergeBytes d o n v) true s).count F.MERE_CNT_POISON_COUNT 1 (mereStack a))
    | .uncorrectable d _ =>
      (true, peatRecord 0x5002 (mereStack a) (bits a 6 32) 0
        ((putWord a (mergeBytes d o n v) true s).count F.MERE_CNT_POISON_COUNT 1 (mereStack a)))

/-- Whether a word, as found, is bad: uncorrectable or poisoned. -/
def badWord (s : State) (a : Nat) : Bool := regionValid s a && (checkData (findAt s a)).2

/-- Write `n` bytes of one word (R312, R313); a mirrored partial write with one copy bad merges into the good copy and
writes that word to both. -/
def writeWordAt (a : Nat) (mirror : Option Nat) (o n v : Nat) (s : State) : Bool × State :=
  if n = 32 then
    let s := putWord a v false (validate a s)
    match mirror with
    | none => (false, s)
    | some m => (false, putWord m v false (validate m s))
  else
    match mirror with
    | none => partialOne a o n v s
    | some m =>
      match badWord s a, badWord s m with
      | true, false =>
        let s := noteCheck a (findAt s a) s
        let (_, s) := partialOne m o n v s
        let d := (checkData (findAt s m)).1
        (false, (putWord a d false s).count F.MERE_CNT_REPAIR_COUNT 1 (mereStack a))
      | false, true =>
        let s := noteCheck m (findAt s m) s
        let (_, s) := partialOne a o n v s
        let d := (checkData (findAt s a)).1
        (false, (putWord m d false s).count F.MERE_CNT_REPAIR_COUNT 1 (mereStack m))
      | _, _ =>
        let (p, s) := partialOne a o n v s
        let (q, s) := partialOne m o n v s
        (p || q, s)

/-- Write a run of `len` bytes from an address, word by word (`fuel` bounds the words). -/
def writeRun (fuel a : Nat) (mirror : Option Nat) (len v : Nat) (s : State) : Bool × State :=
  match fuel with
  | 0 => (false, s)
  | fuel + 1 =>
    if len = 0 then (false, s)
    else
      let o := a % 32
      let n := min (32 - o) len
      let (p, s) := writeWordAt a mirror o n v s
      let (q, s) := writeRun fuel (a + n) (mirror.map (· + n)) (len - n) (v / 2 ^ (8 * n)) s
      (p || q, s)

/-- Write `len` bytes at an address and, where one is named, at its mirror (R304); whether a poison merge occurred. Copies
at different byte places of their words are written one after the other. -/
def mereStore (a : Nat) (mirror : Option Nat) (len v : Nat) (s : State) : Bool × State :=
  match mirror with
  | none => writeRun (len + 1) a none len v s
  | some m =>
    if m % 32 = a % 32 then writeRun (len + 1) a (some m) len v s
    else
      let (p, s) := writeRun (len + 1) a none len v s
      let (q, s) := writeRun (len + 1) m none len v s
      (p || q, s)

/-- Read `len` bytes at an address, with the mirror where one is named: the data and its poison indication. -/
def mereFetch (a : Nat) (mirror : Option Nat) (len : Nat) (s : State) : (Nat × Bool) × State :=
  let m := match mirror with
    | some m => if m % 32 = a % 32 then some (m / 32) else none
    | none => none
  let (r, s) := readRun ((a + len - 1) / 32 - a / 32 + 1) (a / 32) m s
  ((bits r.1 (8 * (a % 32)) (8 * len), r.2), s)

/-- The first address of a range that no stack takes: its start, or the end of the stack's populated offsets (R300). -/
def firstBad (s : State) (a : Nat) : Nat := if mereOk s a then mereStack a * 2 ^ 35 + 0x600000000 else a

/-- The bus error of an access that no stack takes (R300). -/
def mereBusError (requester a : Nat) (s : State) : State :=
  (peatRecord 0x5001 requester (bits a 6 32) 0 s).emit (.busError requester)

end Sys2Proof.Machine
end

