-- ==== Sys2Proof/Machine/KeyLabel.lean ====
section
/-! DEFINITION. The key label: its records, the stripes that hold them, and the erasure of a namespace's records (chapter "The on-media
format"). -/

namespace Sys2Proof.Machine

open Sys2Proof

/-! ### Records (R186 to R188) -/

/-- A key-label record (R186), as a number: STATE 1 active, 2 crypto-erased, 3 deleted. Both wraps and KEY_TIME are 0 unless it is
active. `kek` is the key-encryption key of DEVICE_WRAP, 0 for none (R603). -/
def labelBytes (s : State) (nsid : Nat) (n : Namespace) (state kek : Nat) : Nat :=
  let k := Tab.get {} s.cip.slots n.slot
  let live := decide (state = 1)
  let ext := Tab.get [] s.map.core.extents nsid
  place ([(0x4C4B5753, 0), (1, 32), (state, 48), (if n.zoned then 2 else 0, 56), (nsid, 64), (n.lbaShift, 96), (n.leafShift, 104), (ext.length, 112),
    (n.nsTag, 128), (n.nguid, 192), (n.labelSeq, 320), (n.wseqFloor, 384), (n.created, 448), (k.escrow, 512),
    (if live && decide (k.escrow ≠ 0) then Config.keyWrap s.cip.escrowKey k.key % 2 ^ 320 else 0, 576),
    (if live && decide (kek ≠ 0) then Config.keyWrap kek k.key % 2 ^ 320 else 0, 896), (if live then n.keyTime else 0, 1216)] ++
    ext.zipIdx.map (fun e => (e.1.1 + 2 ^ 32 * e.1.2, 2048 + 64 * e.2)))

/-- A key-label record on the media: its payload, where MAGIC and VERSION are right (R164, R186). -/
def labelPayload (c : CodeWord) : Option Nat :=
  let v := c.data.payload
  if c.kind = 7 ∧ c.ver = 1 ∧ c.meta_.isSome = true ∧ bits v 0 32 = 0x4C4B5753 ∧ bits v 32 16 = 1 then some v else none

/-- NSID, STATE, LABEL_SEQ and KEY_TIME of a record's payload, and its extents (R186). -/
def labelNsid (v : Nat) : Nat := bits v 64 32
def labelState (v : Nat) : Nat := bits v 48 8
def labelSeqOf (v : Nat) : Nat := bits v 320 64
def labelKeyTime (v : Nat) : Nat := bits v 1216 48
def labelExtents (v : Nat) : List (Nat × Nat) :=
  (List.range (min 64 (bits v 112 8))).map (fun i => (bits v (2048 + 64 * i) 32, bits v (2048 + 64 * i + 32) 32))

/-- The places of a stripe's blocks, as link × 2^20 + block. -/
def stripeBlocks (s : State) (id : Nat) : List Nat :=
  (stripeOf s id).slots.map (fun a => let p := addrPlace s (stripeFen id) a; 1048576 * p.1 + p.2)

/-- The records that a key-label stripe holds. -/
def labelsIn (s : State) (id : Nat) : List Nat :=
  (s.map.media.filter (fun e => decide (e.2.stripe = id ∧ e.1 / 8192 ∈ stripeBlocks s id))).filterMap (fun e => labelPayload e.2)

/-- The newest of some records of each NSID (R188): NSID → payload. -/
def newestLabels (l : List Nat) : Tab Nat :=
  l.foldl (fun (t : Tab Nat) v =>
    match t.find (labelNsid v) with
    | some o => if labelSeqOf o ≤ labelSeqOf v then t.put (labelNsid v) v else t
    | none => t.put (labelNsid v) v) []

/-! ### Writing a record (R184, R188) -/

/-- Two key-label stripes with a free row in two fens, or in the one fen there is (R188), none of those to avoid; a stripe is allocated where
one is wanting, and where no fen has room for it the record goes to those there are. -/
def labelPair (avoid : List Nat) (s : State) : List Nat × State :=
  let free := ((stripesWhere s (fun id e => decide (e.kind = 7 ∧ e.frontier < 512 ∧ id ∉ avoid))).map Prod.fst)
  let first := match free with
    | id :: _ => some (id, s)
    | [] => metaStripe 7 s
  match first with
  | none => ([], s)
  | some (a, s) =>
    let other := fun f => decide (f ≠ stripeFen a ∨ fenCount s ≤ 1)
    match free.find? (fun id => decide (id ≠ a) && other (stripeFen id)) with
    | some b => ([a, b], s)
    | none =>
      match metaStripeIn other 7 s with
      | some (b, s) => ([a, b], s)
      | none => ([a], s)

/-- Program a record into the next row of key-label stripes: SEQ is LABEL_SEQ, INDEX the unit's number (R186). A row holds one record
(DESIGN CHOICE, log entry 85). -/
def labelPut (payload : Nat) (ids : List Nat) (s : State) : State :=
  eachOf ids (fun id s =>
    let s := skipAbsent id s
    let row := (stripeOf s id).frontier
    let u := rowUnits s * row
    setFrontier id (row + 1) (putParity id row (putMeta id u payload (labelSeqOf payload) u s))) s

/-- The key-encryption key of the device (R495). -/
def deviceKek (s : State) : Nat := Config.deviceKek s.cfg.serial

/-- Write a record of a namespace with the next LABEL_SEQ, twice (R188); a new key-label stripe enters the anchor record (R184). -/
def labelRecord (avoid : List Nat) (nsid : Nat) (n : Namespace) (state : Nat) (s : State) : State :=
  let r := labelPair avoid s
  let t := labelPut (labelBytes s nsid { n with labelSeq := n.labelSeq + 1 } state (deviceKek s)) r.1 r.2
  if labelStripes t = labelStripes s then t else anchorWrite t

/-- A new active record of a namespace's key label (R186, R188). -/
def labelWrite (nsid : Nat) (s : State) : State :=
  match s.ns? nsid with
  | none => s
  | some n => (labelRecord [] nsid n 1 s).putNs nsid { n with labelSeq := n.labelSeq + 1 }

/-! ### Erasing records (R189) -/

/-- Erase a block at once (R87, R189). -/
def eraseNow (l b : Nat) (s : State) : State :=
  let r := s.block l b
  if r.use = .spoiled ∨ r.use = .factoryBad then wipeBlock l b s
  else wipeBlock l b (s.putBlock l b { r with use := .free, nextPage := 0, stripe := 0xFFFFFFFF, labelled := false,
                                              wear := min 65535 (r.wear + (if r.slc then 1 else 16)) })

/-- A key-label stripe ends: its STRIPE_FREE record is durable, then its blocks are erased (R91, R189). -/
def eraseLabels (id : Nat) (s : State) : State :=
  let bs := stripeBlocks s id
  let s := makeDurable (journal (.stripeFree id) s)
  eachOf bs (fun k s => eraseNow (k / 1048576) (k % 1048576) s) { s with map := { s.map with reuse := addNew id s.map.reuse } }

/-- A namespace's key is erased, or the namespace deleted (R189): its record with STATE 2 or 3 is written, the live records of the stripes
that hold earlier records of it go to new stripes, and their blocks are erased. -/
def labelErase (nsid : Nat) (n : Namespace) (state : Nat) (s : State) : State :=
  let all := labelStripes s
  let old := all.filter (fun id => (labelsIn s id).any (fun v => decide (labelNsid v = nsid)))
  let newest := newestLabels (all.flatMap (labelsIn s))
  let live := ((old.flatMap (labelsIn s)).filter (fun v =>
    decide (labelNsid v ≠ nsid ∧ labelState v = 1 ∧ newest.find (labelNsid v) = some v))).eraseDups
  let s := labelRecord old nsid n state s
  let s := eachOf live (fun v s => let r := labelPair old s; labelPut v r.1 r.2) s
  if old.isEmpty then s else anchorWrite (eachOf old eraseLabels s)

/-- Change a key slot's record. -/
def putKeySlot (k : Nat) (v : KeySlot) (s : State) : State :=
  { s with cip := { s.cip with slots := Tab.set {} s.cip.slots k v } }

/-- Every unit programmed under a namespace's data key was programmed in an earlier calendar second (R186 KEY_TIME). -/
def keyMayChange (s : State) (nsid : Nat) : Bool :=
  s.map.media.all (fun e => decide (e.2.kind = 0 ∨ 4 ≤ e.2.kind) || decide ((tractOwner s e.2.ltn).map Prod.fst ≠ some nsid) ||
    decide (e.2.time < s.life.now))

/-- A namespace's key is replaced (R186, R189, R496, R498): the record with STATE 2, the erasure, then the record of the new key, put in force in
this second; WSEQ starts anew. -/
def rekey (nsid key time : Nat) (n : Namespace) (s : State) : State :=
  let s := labelErase nsid n 2 s
  let s := putKeySlot n.slot { state := 1, nsid := nsid, key := key, escrow := s.cip.escrowId } s
  let m : Namespace := { n with labelSeq := n.labelSeq + 1, keyTime := time, wseq := 1, wseqFloor := 2 ^ 32,
                                sanitize := if n.sanitize = 2 then 1 else n.sanitize }
  labelWrite nsid (s.putNs nsid m)

end Sys2Proof.Machine
end

