-- ==== Sys2Proof/Machine/Cipher.lean ====
section
/-! DEFINITION. The cipher engine's request rings, key slots and random bit generator (chapter "Cipher and verify
engine"). -/

namespace Sys2Proof.Machine

open Sys2Proof

/-! ### Requests (R490 to R493) -/

/-- A request as its 64 bytes hold it (R490). -/
structure CipReq where
  op     : Nat
  flags  : Nat
  slot   : Nat
  top    : Nat
  len    : Nat
  iv     : Nat
  adLen  : Nat
  shift  : Nat
  src    : Nat
  dst    : Nat
  ad     : Nat
  tag    : Nat
  deriving DecidableEq, Repr

/-- Read a request (R490). -/
def cipParse (w : Nat) : CipReq :=
  { op := bits w 0 8, flags := bits w 8 8, slot := bits w 16 12, top := bits w 28 4, len := bits w 32 32,
    iv := bits w 64 96, adLen := bits w 160 16, shift := bits w 176 8, src := bits w 192 64, dst := bits w 256 64,
    ad := bits w 320 64, tag := bits w 384 128 }

/-- Unit form (R491). -/
def cipUnitForm (r : CipReq) : Bool := decide (9 ≤ r.shift ∧ r.shift ≤ 11)

/-- The checks made before any input is read, in their order (R492). -/
def cipCheck (s : State) (r : CipReq) : Nat :=
  if r.len < 512 ∨ 65536 < r.len ∨ r.len % 512 ≠ 0 ∨ (cipUnitForm r = true ∧ r.len ≠ 4096) then 1
  else if 256 < r.adLen then 2
  else if r.op = 0 ∨ 3 < r.op ∨ (r.shift ≠ 0 ∧ cipUnitForm r = false) ∨ bits r.flags 2 5 ≠ 0 ∨ r.top ≠ 0 then 3
  else if (Tab.get {} s.cip.slots r.slot).state ≠ 1 then 4
  else 0

/-- Leaf length and count of a request (R491). -/
def cipLeaf (r : CipReq) : Nat × Nat := if cipUnitForm r then (2 ^ r.shift, 4096 / 2 ^ r.shift) else (r.len, 1)

/-- The IV of leaf i: its last four bytes, little-endian, increased by i (R491). -/
def cipIv (iv i : Nat) : Nat := iv % 2 ^ 64 + 2 ^ 64 * ((iv / 2 ^ 64 + i) % 2 ^ 32)

/-- Every leaf through the CTR keystream (R487, R491). -/
def cipCrypt (key : Nat) (r : CipReq) (data : Nat) : Nat :=
  let (l, n) := cipLeaf r
  (List.range n).foldl (fun a i =>
    a + 2 ^ (8 * l * i) * (Config.gcmCrypt key (cipIv r.iv i) l (bits data (8 * l * i) (8 * l)) % 2 ^ (8 * l))) 0

/-- The tag of a request over its ciphertext: in unit form the XOR of the leaf tags (R491). -/
def cipTag (key : Nat) (r : CipReq) (ad ct : Nat) : Nat :=
  let (l, n) := cipLeaf r
  (List.range n).foldl (fun a i =>
    a ^^^ (Config.gcmTag key (cipIv r.iv i) r.adLen (bits ad (8 * r.adLen * i) (8 * r.adLen)) l
      (bits ct (8 * l * i) (8 * l)) % 2 ^ 128)) 0

/-! ### Rings (R494, R504) -/

def cipSlots (s : State) (r : Nat) : Nat := 2 ^ s.rd F.CIP_RING_CFG_SIZE_LOG2 r

def cipSlotAddr (s : State) (r k : Nat) : Nat := s.rd F.CIP_RING_BASE_ADDR r * 64 + 64 * k

/-- The request in a ring slot. -/
def cipAt (s : State) (r k : Nat) : CipReq := cipParse (memLoad s.mere.mem (cipSlotAddr s r k) 64)

/-- A request counts under its operation, and as an error or tag failure (R506). -/
def cipCount (op status : Nat) (s : State) : State :=
  let s := if op = 1 then s.count F.CIP_CNT_SEAL_COUNT else if op = 2 then s.count F.CIP_CNT_OPEN_COUNT
    else if op = 3 then s.count F.CIP_CNT_VERIFY_COUNT else s
  let s := if status = 5 then s.count F.CIP_CNT_TAGFAIL_COUNT else s
  if status = 0 then s else s.count F.CIP_CNT_ERR_COUNT

/-- Complete a request (R492, R494): STATUS, and TAG for a good SEAL, before OWN clears; the events. -/
def cipDone (ring k status : Nat) (tag : Option Nat) (r : CipReq) (s : State) : State :=
  let a := cipSlotAddr s ring k
  let s := if mereOk s a then
      let s := (writeWordAt a none 23 1 status s).2
      let s := match tag with
        | some t => (writeWordAt (a + 32) none 16 16 t s).2
        | none => s
      (writeWordAt a none 1 1 (r.flags % 128) s).2
    else s
  let s := if bitOf r.flags 0 then s.wr F.CIP_EVT_DONE 1 else s
  let s := if status = 0 then s else s.wr F.CIP_EVT_ERROR 1
  cipCount r.op status s

/-- Fetch requests from HEAD to TAIL (R494, R224): each is checked; one that passes is accepted and names its slot. -/
def cipFetch (fuel r : Nat) (s : State) : State :=
  match fuel with
  | 0 => s
  | fuel + 1 =>
    let h := s.rd F.CIP_RING_HEAD_HEAD r
    if s.isSet F.CIP_RING_CFG_ENABLE r = false ∨ h = s.rd F.CIP_RING_TAIL_TAIL r then s
    else if 128 ≤ (s.cip.running.filter (fun e => e.1 / 4096 = r)).length then s
    else
      let q := cipAt s r h
      if bitOf q.flags 7 = false then s
      else
        let s := s.wr F.CIP_RING_HEAD_HEAD ((h + 1) % cipSlots s r) r
        let st := cipCheck s q
        if st ≠ 0 then cipFetch fuel r (cipDone r h st none q s)
        else
          let ks := Tab.get {} s.cip.slots q.slot
          let s := putKeySlot q.slot { ks with users := ks.users + 1 } s
          cipFetch fuel r { s with cip := { s.cip with running := s.cip.running.put (4096 * r + h) q.op } }

/-- CIP_RING_TAIL_WRITE (R494): the tail is recorded and the engine fetches. -/
def execCipRingTailWrite (_path : AccessPath) (ring : Fin 16) (tail : Word) (s : State) : Result :=
  .next (cipFetch 4096 ring.val (s.begin.wr F.CIP_RING_TAIL_TAIL tail.toNat ring.val))

/-- An accepted request ends: it no longer names its slot, and the ring may fetch again. -/
def cipEnd (ring k status : Nat) (tag : Option Nat) (q : CipReq) (s : State) : State :=
  let s := cipDone ring k status tag q s
  let ks := Tab.get {} s.cip.slots q.slot
  let s := putKeySlot q.slot { ks with users := ks.users - 1 } s
  cipFetch 4096 ring { s with cip := { s.cip with running := s.cip.running.del (4096 * ring + k) } }

/-- The input of a request and whether it may be used (R492 POISON): from the Mere, or from the DMA channel of a STREAM
request. None while a STREAM channel has not delivered. -/
def cipInput (q : CipReq) (s : State) : Option ((Nat × Bool) × State) :=
  if bitOf q.flags 1 then
    (s.cip.stream.find (q.src % 64)).map (fun d =>
      ((d % 2 ^ (8 * q.len), false), { s with cip := { s.cip with stream := s.cip.stream.del (q.src % 64) } }))
  else if mereRangeOk s q.src q.len then some (mereFetch q.src none q.len s)
  else some ((0, true), s)

/-- The associated data of a request (R490, R491). -/
def cipAd (q : CipReq) (s : State) : (Nat × Bool) × State :=
  let n := q.adLen * (cipLeaf q).2
  if n = 0 then ((0, false), s)
  else if mereRangeOk s q.ad n then mereFetch q.ad none n s
  else ((0, true), s)

/-- Run an accepted request of operation `op`: `f` gets key, input and associated data, and answers a status, the output
and the tag to write. -/
def cipRun (ring k op : Nat) (f : Nat → CipReq → Nat → Nat → Nat × Option Nat × Option Nat) (s : State) : State :=
  if s.cip.running.find (4096 * ring + k) = some op then
    let q := cipAt s ring k
    match cipInput q s with
    | none => s
    | some ((d, bad), s) =>
      let ((ad, badAd), s) := cipAd q s
      if bad || badAd then cipEnd ring k 6 none q s
      else
        match f (Tab.get {} s.cip.slots q.slot).key q d ad with
        | (st, some out, tag) =>
          if mereRangeOk s q.dst q.len then
            let (p, s) := mereStore q.dst none q.len out s
            cipEnd ring k (if p then 7 else st) (if p then none else tag) q s
          else cipEnd ring k 7 none q s
        | (st, none, tag) => cipEnd ring k st tag q s
  else s

/-- CIPHER_SEAL (R490): ciphertext to DST, the computed tag to TAG. -/
def execCipherSeal (ring : Fin 16) (slot : Nat) (s : State) : Result :=
  .next (cipRun ring.val slot 1 (fun key q d ad =>
    let ct := cipCrypt key q d
    (0, some ct, some (cipTag key q ad ct))) s.begin)

/-- CIPHER_OPEN (R493): plaintext to DST only after the tag has matched. -/
def execCipherOpen (ring : Fin 16) (slot : Nat) (s : State) : Result :=
  .next (cipRun ring.val slot 2 (fun key q d ad =>
    if cipTag key q ad d = q.tag then (0, some (cipCrypt key q d), none) else (5, none, none)) s.begin)

/-- CIPHER_VERIFY (R488): the tag is compared; no plaintext is formed. -/
def execCipherVerify (ring : Fin 16) (slot : Nat) (s : State) : Result :=
  .next (cipRun ring.val slot 3 (fun key q d ad =>
    if cipTag key q ad d = q.tag then (0, none, none) else (5, none, none)) s.begin)

/-! ### Key slots (R496 to R498) -/

/-- The lowest free key slot (R496). -/
def freeKeySlot (s : State) : Option Nat :=
  (List.range (s.cip.slots.length + 1)).find? (fun k => decide ((Tab.get {} s.cip.slots k).state = 0 ∧ (Tab.get {} s.cip.slots k).nsid = 0 ∧ k < 4096))

/-- A new data key from the random bit generator (R496). -/
def newKey (s : State) : Nat × State :=
  (Config.drbg s.cip.keysMade, { s with cip := { s.cip with keysMade := s.cip.keysMade + 1 } })

/-- A slot drains (R498): new requests naming it complete SLOT_EMPTY; its successor key, if there is one, and the command
that waits are noted. -/
def drainSlot (k : Nat) (next cmd : Option Nat) (s : State) : State :=
  putKeySlot k { (Tab.get {} s.cip.slots k) with state := 2, nextKey := next, cmd := cmd } s

/-- SLOT_DRAIN_DONE (R498): no accepted request names the draining slot; the key is zeroed, its successor loaded and the
key-label record of R189 written, a successor only in a later second than the last program under the old key (R186); the command
completes once no slot drains for it. -/
def execSlotDrainDone (key : Nat) (s : State) : Result :=
  let s := s.begin
  .next (
    let ks := Tab.get {} s.cip.slots key
    if ks.state = 2 ∧ ks.users = 0 ∧ (ks.nextKey.isNone = true ∨ keyMayChange s ks.nsid = true) then
      let s := match ks.nextKey with
        | some v =>
          (match s.ns? ks.nsid with
           | some n => rekey ks.nsid v s.life.now n s
           | none => putKeySlot key { state := 1, nsid := ks.nsid, key := v, escrow := s.cip.escrowId } s)
        | none =>
          let s := match ks.gone with
            | some n => labelErase ks.nsid n 3 s
            | none => s
          putKeySlot key {} s
      match ks.cmd with
      | some n =>
        if s.cip.slots.any (fun e => decide (e.2.state = 2 ∧ e.2.cmd = some n)) then s else finishCmd n scOk 0 0 s
      | none => s
    else s)

/-- DRBG_RESEED_RETRY (R497): the health tests of a reseed. A pass sets DRBG_OK and the commands that wait may proceed; a
failure leaves DRBG_OK at 0, or takes it there with its event. -/
def execDrbgReseedRetry (pass : Bool) (s : State) : Result :=
  let s := s.begin
  .next (if pass then
    eachOf s.cip.waiters (fun n s => match s.slot? n with
      | some c => s.putSlot n { c with waits := false }
      | none => s) { s with cip := { s.cip with drbgUp := true, waiters := [] } }
  else if s.cip.drbgUp then { s with cip := { s.cip with drbgUp := false } }.wr F.CIP_EVT_DRBG_FAIL 1
  else s)

/-- DRBG_WAIT_TIMEOUT (R497): a command that has waited 10 s completes with Internal Error and changes nothing; a sanitize
is recorded as failed. -/
def execDrbgWaitTimeout (slot : SlotNo) (s : State) : Result :=
  let s := s.begin
  .next (match s.slot? slot.val with
    | some c =>
      if slot.val ∈ s.cip.waiters ∧ s.cip.drbgUp = false then
        let s := { s with cip := { s.cip with waiters := dropOne slot.val s.cip.waiters } }
        let s := if c.sqe.opc = 0x84 then
            eachOf (s.nvq.ns.map Prod.fst) (fun i s => match s.ns? i with
              | some n => if n.sanitize = 2 then s.putNs i { n with sanitize := 3 } else s
              | none => s) s
          else s
        finishCmd slot.val 0x06 0 0 s
      else s
    | none => s)

end Sys2Proof.Machine
end

