-- ==== Sys2Proof/Machine/Tract.lean ====
section
/-! DEFINITION. Destaging, folds, merges, copies, background erases, the journal and checkpoints (chapter "Tracts,
stripes and the map"). -/

namespace Sys2Proof.Machine

open Sys2Proof

/-! ### Rows of FILLING tracts (R75, R76, R79) -/

/-- The namespace of a tract is zoned. -/
def tractZoned (s : State) (ltn : Nat) : Bool :=
  match tractOwner s ltn with
  | some (n, _) => (s.ns? n).any Namespace.zoned
  | none => false

/-- The dirty units of a tract row. -/
def rowDirty (s : State) (ltn row : Nat) : List (Nat × Dirty) :=
  s.map.dirty.filter (fun e => decide (e.1 / 262144 = ltn ∧ e.1 % 262144 / rowUnits s = row))

/-- Unit `i` of a tract row is present (R76): dirty and bound for the row, or written in the Sump row that holds the row now. -/
def rowUnitHeld (s : State) (ltn row i : Nat) : Bool :=
  (match s.map.dirty.find (unitKey ltn (rowUnits s * row + i)) with
   | some d => !d.toLog
   | none => false) ||
  (match s.map.core.rows.find (2048 * ltn + row) with
   | some (id, r) => (mediaAt s id r (i / 4) (i % 4)).isSome
   | none => false)

/-- Every unit of a tract row is present, and one of them is dirty. -/
def rowWhole (s : State) (ltn row : Nat) : Bool :=
  !((rowDirty s ltn row).filter (fun e => !e.2.toLog)).isEmpty && (List.range (rowUnits s)).all (rowUnitHeld s ltn row)

/-- Why the row may be programmed now (R76); Fallow entry and a thermal hold destage all dirty data (R652, R655). -/
def rowCauseHolds (s : State) (ltn row : Nat) (cause : RowCause) : Bool :=
  let d := rowDirty s ltn row
  match cause with
  | .complete => rowWhole s ltn row
  | .flushed => s.nvq.slots.any (fun e => e.2.waits && e.2.covers.any (fun k => d.any (fun x => x.1 = k)))
  | .idle => (Tab.get false s.map.rowIdle (2048 * ltn + row))
  | .spaceNeeded => decide (dirtyLimitUnits s ≤ dirtyUnits s) || decide (s.nvq.fallow = 1) || s.tmon.hold

/-- Program the units of a row into the next free Sump row (R76): what the row already holds in the Sump goes with them.
SUMP_PACING where no Sump row is free (R79). A failing program enters its block in the Spoil table and closes the stripe, whose rows
below are still read, without that slot: the row's data stays dirty and is written again to other Sump blocks (R26). -/
def sumpProgram (ltn row : Nat) (units : List (Nat × Dirty)) (failSlot : Option Nat) (s : State) : State :=
  match sumpStripe s with
  | none => s.wr F.MAP_STATUS_SUMP_PACING 1
  | some (id, s) =>
    match failSlot with
    | some i =>
      match (stripeOf s id).slots[i]? with
      | none => s
      | some a => let p := addrPlace s (stripeFen id) a; slotGone id i (spoilBlock p.1 p.2 1 1 s)
    | none =>
      let r := (stripeOf s id).frontier
      let base := rowUnits s * row
      let old := s.map.core.rows.find (2048 * ltn + row)
      let s := eachOf (List.range (rowUnits s)) (fun i s =>
        match units.find? (fun e => e.1 % 262144 = base + i) with
        | some (_, d) => putUnit id r (i / 4) (i % 4) d.data ltn (base + i) s
        | none =>
          match old with
          | none => s
          | some (sid, orow) =>
            match stripeUnit s sid orow (i / 4) (i % 4) with
            | some d => if d = {} then s else putUnit id r (i / 4) (i % 4) d ltn (base + i) s
            | none => s) s
      let s := rowsProgrammed id (decide (r = 0)) (putParity id r s)
      let s := journal (.fillRows ltn row 1 id r) s
      freeSumps (destaged (units.map Prod.fst) (closeStripe id s))

/-- Destage a tract row (R76, R82): units bound for the log go there; an incomplete row of a conventional namespace goes
there too; a whole row, or a zoned one, goes to a Sump row. -/
def destageRow (ltn row : Nat) (failSlot : Option Nat) (s : State) : State :=
  let d := rowDirty s ltn row
  let s := { s with map := { s.map with rowIdle := s.map.rowIdle.del (2048 * ltn + row) } }
  let s := toLog ltn (d.filter (fun e => e.2.toLog)) s
  let rest := d.filter (fun e => !e.2.toLog)
  if rest.isEmpty then s
  else if rowWhole s ltn row = true ∨ tractZoned s ltn = true then sumpProgram ltn row rest failSlot s
  else toLog ltn rest s

/-- SUMP_ROW_PROGRAM (R76, R79, R26). -/
def execSumpRowProgram (ltn : Ltn) (row : Nat) (cause : RowCause) (failSlot : Option (Fin 28)) (s : State) : Result :=
  let s := s.begin
  .next (if rowCauseHolds s ltn row cause then destageRow ltn row (failSlot.map Fin.val) s else s)

/-- ROW_IDLE_TIMEOUT (R76): the row has been idle for 1 s. -/
def execRowIdleTimeout (ltn : Ltn) (row : Nat) (s : State) : Result :=
  let s := s.begin
  .next (if (rowDirty s ltn row).isEmpty then s
    else { s with map := { s.map with rowIdle := s.map.rowIdle.put (2048 * ltn + row) true } })

/-! ### Folds (R77) -/

/-- A tract row is valid: below the frontier of its stripe or in the row table. -/
def rowValid (s : State) (ltn row : Nat) : Bool :=
  let t := tractOf s ltn
  (decide (t.stripe ≠ 0xFFFFFFFF) && decide (row < (stripeOf s t.stripe).frontier)) ||
    (s.map.core.rows.find (2048 * ltn + row)).isSome

/-- Valid rows of the row table of a tract. -/
def tableRows (s : State) (ltn : Nat) : Nat := (s.map.core.rows.filter (fun e => e.1 / 2048 = ltn)).length

/-- The first row of a tract that is not valid. -/
def firstGap (s : State) (ltn : Nat) : Nat := ((List.range 2048).find? (fun r => !rowValid s ltn r)).getD 2048

/-- FRONTIER of a tract's stripe, 0 where it has none. -/
def tractFrontier (s : State) (ltn : Nat) : Nat :=
  let t := tractOf s ltn
  if t.stripe = 0xFFFFFFFF then 0 else (stripeOf s t.stripe).frontier

/-- The zone of a tract is Full by Zone Finish (R77, R351). -/
def zoneFull (s : State) (ltn : Nat) : Bool := decide ((tractOf s ltn).zone = 14)

/-- Where a fold would end (R77, R142): all rows, or the last multiple of 4 rows before a row that is not valid; past the
rows of a due Sump stripe, with filler where a row is not valid. None where its cause does not hold. -/
def foldUpto (s : State) (ltn : Nat) (cause : FoldCause) : Option Nat :=
  match cause with
  | .allValid => if firstGap s ltn = 2048 then some 2048 else none
  | .zoneFinish => if zoneFull s ltn then some 2048 else none
  | .lowSump =>
    if 100 * sumpFreeRows s < 10 * sumpTargetRows s ∧ s.map.core.tracts.all (fun e => decide (e.2.state = .filling → tableRows s e.1 ≤ tableRows s ltn))
    then some (firstGap s ltn / 4 * 4) else none
  | .dueSump =>
    let rows := (s.map.core.rows.filter (fun e => decide (e.1 / 2048 = ltn ∧ e.2.1 ∈ s.ret.due))).map (fun e => e.1 % 2048)
    if rows.isEmpty then none else some ((rows.foldl max 0 / 4 + 1) * 4)

/-- Give a FILLING tract its QLC stripe where it has none (R77, R89): the tract's TRACT_MAP record names it with the next
generation. -/
def tractStripe (ltn : Nat) (s : State) : Option State :=
  let t := tractOf s ltn
  if t.stripe ≠ 0xFFFFFFFF then some s
  else
    match copyFen s ltn false false with
    | none => none
    | some (f, adv) =>
      (openStripe f 1 false ltn s).map (fun r =>
        let s := journalStripe r.1 (if adv then advanceRot f r.2 else r.2)
        journal (.tractMap ltn { t with stripe := r.1, gen := (t.gen + 1) % 256 }) s)

/-- The rows below `upto` of a zoned tract that have dirty units go to Sump rows first (R26, R76). -/
def destageBelow (ltn upto : Nat) (s : State) : State :=
  if tractZoned s ltn then
    let rows := ((s.map.dirty.filter (fun e => decide (e.1 / 262144 = ltn))).map (fun e => e.1 % 262144 / rowUnits s)).eraseDups
    eachOf (rows.filter (fun r => decide (r < upto))) (fun r s => destageRow ltn r none s) s
  else s

/-- Start a fold of a tract up to a row (R77): it waits for a copy of the tract to commit (R85). -/
def startFold (ltn upto : Nat) (s : State) : State :=
  let s := destageBelow ltn upto s
  if (tractOf s ltn).state ≠ .filling ∨ (s.map.copies.find ltn).isSome ∨ (s.map.folds.find ltn).isSome ∨
      upto ≤ tractFrontier s ltn then s
  else
    match tractStripe ltn s with
    | none => s
    | some s => { s with map := { s.map with folds := s.map.folds.put ltn { upto := upto } } }

/-- FOLD_START (R77). -/
def execFoldStart (ltn : Ltn) (cause : FoldCause) (s : State) : Result :=
  let s := s.begin
  .next (match foldUpto s ltn cause with
    | some n => startFold ltn n s
    | none => s)

/-- Copy units of a tract into a stripe: each at its place, zero and labelled lost where it cannot be read (R86). -/
def copyUnits (ltn id : Nat) (units : List Nat) (read : State → Nat → Option UnitData) (s : State) : State :=
  eachOf units (fun u s =>
    let (row, slot, w) := unitPlace s u
    match read s u with
    | some d => if d = {} then s else putUnit id row slot w d ltn u s
    | none => putUnit id row slot w { lost := true } ltn u (declareUnitLost ltn u s)) s

/-- The parity of the rows [a, b) of a stripe. -/
def parityRows (id a b : Nat) (s : State) : State := eachOf (List.range (b - a)) (fun i s => putParity id (a + i) s) s

/-- The units of the rows [a, b) of a tract. -/
def unitsOfRows (s : State) (a b : Nat) : List Nat := (List.range (rowUnits s * (b - a))).map (fun i => rowUnits s * a + i)

/-- A fold takes its source from the Mere where all the leaves it folds are held there clean; else from the Sump, each leaf decoded,
verified and reconstructed where it fails (R27). -/
def foldUnit (s : State) (ltn u : Nat) : Option UnitData :=
  match mediaUnit s ltn u with
  | some d => some d
  | none => cleanUnit s ltn u

/-- Dirty units of rows that a fold has passed (R142): a later write to them goes to the log. -/
def foldPassed (ltn upto : Nat) (s : State) : State :=
  { s with map := { s.map with dirty := s.map.dirty.map (fun e =>
    if e.1 / 262144 = ltn ∧ e.1 % 262144 / rowUnits s < upto then (e.1, { e.2 with toLog := true }) else e) } }

/-- The fill crossed a whole percent or Sump stripes were freed: the pacing follows (R78, R79). -/
def mapNote (s : State) : State := logPaceNote (sumpNote s)

/-- FOLD_DONE (R77, R86): the rows up to the fold's end are programmed, FRONTIER rises and the tract is FOLDED at 2,048
rows. -/
def execFoldDone (ltn : Ltn) (failSlot : Option (Fin 28)) (s : State) : Result :=
  let s := s.begin
  .next (match s.map.folds.find ltn with
    | none => s
    | some j =>
      let t := tractOf s ltn
      if t.state ≠ .filling then { s with map := { s.map with folds := s.map.folds.del ltn } }
      else
        let s := match failSlot with
          | some i => failSlotOf t.stripe i.val s
          | none => s
        let s := skipAbsent t.stripe s
        let from_ := tractFrontier s ltn
        let s := copyUnits ltn t.stripe (unitsOfRows s from_ j.upto) (fun s u => foldUnit s ltn u) s
        let s := parityRows t.stripe from_ j.upto s
        let s := setFrontier t.stripe j.upto s
        let s := foldPassed ltn j.upto s
        let s := if j.upto = 2048 then journal (.tractMap ltn { (tractOf s ltn) with state := .folded }) s else s
        mapNote (freeSumps { s with map := { s.map with folds := s.map.folds.del ltn } }))

/-! ### Merges and copies (R83 to R86) -/

/-- The log with the oldest OPEN_TIME. -/
def oldestLog (s : State) : Option Nat :=
  (s.map.core.logs.foldl (fun (a : Option (Nat × Nat)) e =>
    match a with
    | none => some (e.2.openTime, e.1)
    | some (t, g) => if e.2.openTime < t then some (e.2.openTime, e.1) else some (t, g)) none).map Prod.snd

/-- Copies running in a fen. -/
def copiesIn (s : State) (f : Nat) : Nat := (s.map.copies.filter (fun c => decide (ownerFen s c.1 = some f))).length

/-- The tract whose QLC stripe or log stripe a stripe is. -/
def stripeTract (s : State) (id : Nat) : Option Nat :=
  let e := stripeOf s id
  if e.kind = 1 then (if (tractOf s e.owner).stripe = id then some e.owner else none)
  else if e.kind = 3 then (s.map.core.logs.find? (fun g => decide (g.2.stripe = id))).map (fun g => g.2.ltn)
  else none

/-- The rewriting of a due stripe has started (R142, R143): the copy of its tract, or the folds of every FILLING tract that has a row
in it. -/
def refreshRuns (s : State) (id : Nat) : Bool :=
  match stripeTract s id with
  | some ltn => (s.map.copies.find ltn).isSome
  | none =>
    decide ((stripeOf s id).kind = 2) &&
      (s.map.core.rows.filter (fun e => decide (e.2.1 = id))).all (fun e => (s.map.folds.find (e.1 / 2048)).isSome)

/-- The first due tract or log stripe of a fen whose copy has not started (R142). -/
def dueFirst (s : State) (f : Nat) : Option Nat :=
  s.ret.due.find? (fun id => decide (stripeFen id = f) && (stripeTract s id).isSome && !refreshRuns s id)

/-- A tract's refresh may start (R126, R128, R142): one of its stripes is the first due one of its fen, with at most two copies at bench
1; an EARLY one only at bench 0 with no due stripe. At bench 5 stripes are refreshed in place. -/
def tractDue (s : State) (ltn : Nat) : Bool :=
  let mine := fun id => decide (stripeTract s id = some ltn)
  !s.fen.bench5 && (List.range (fenCount s)).any (fun f =>
    let bench := s.rd F.FEN_STATE_BENCH f
    ((dueFirst s f).any mine && (decide (bench ≠ 1) || decide (copiesIn s f < 2))) ||
      (s.ret.early.any (fun id => decide (stripeFen id = f) && mine id) && decide (bench = 0) && !restsEarly s &&
        !(s.ret.due.any (fun x => decide (stripeFen x = f)))))

/-- The log of a tract asks for a merge (R83): it is full, or it is the oldest of 4,032 active ones. -/
def logAsks (s : State) (ltn : Nat) : Bool :=
  match (tractOf s ltn).log with
  | none => false
  | some g =>
    (match s.map.core.logs.find g with
     | some d => decide (logCapacity s ≤ d.fill)
     | none => false) ||
    (decide (4032 ≤ logsActive s) && decide (oldestLog s = some g))

/-- Why a merge may start (R83). -/
def mergeCause (s : State) (ltn : Nat) (due : Bool) : Bool :=
  (tractOf s ltn).log.isSome && ((due && tractDue s ltn) || logAsks s ltn)

/-- A copy of a tract may draw on its own fen's Stockpile (R90): a due refresh, or a merge that its log asks for. -/
def copyMust (s : State) (ltn : Nat) : Bool := s.ret.due.any (fun id => decide (stripeTract s id = some ltn)) || logAsks s ltn

/-- The stripe of a tract that lies in a fen: its QLC stripe, else its log stripe. -/
def stripeIn (s : State) (f ltn : Nat) : Nat :=
  let t := tractOf s ltn
  if t.stripe ≠ 0xFFFFFFFF ∧ stripeFen t.stripe = f then t.stripe
  else ((t.log.bind (fun g => s.map.core.logs.find g)).map LogDesc.stripe).getD t.stripe

/-- Tracts leave an evacuating fen in the order of R127: most absent slots in their stripe, then ascending LTN; those whose copy runs
are under way. -/
def evacFirst (s : State) (f ltn : Nat) : Bool :=
  let rank := fun l => (28 - (absentSlots s (stripeIn s f l)).length, l)
  decide (ltn ∈ evacLeft s f) && (evacLeft s f).all (fun l =>
    (s.map.copies.find l).isSome || decide ((rank ltn).1 < (rank l).1 ∨ ((rank ltn).1 = (rank l).1 ∧ ltn ≤ l)))

/-- The content of a merge: the newest copy of every unit as at its start (R83, R84). -/
def mergeRead (s0 : State) (ltn : Nat) (u : Nat) : Option UnitData := resolveUnit s0 ltn u

/-- A log and its predecessors. -/
def logChain (s : State) (fuel : Nat) (g : Option Nat) : List Nat :=
  match fuel, g with
  | fuel + 1, some g => g :: logChain s fuel ((s.map.core.logs.find g).bind LogDesc.pred)
  | _, _ => []

/-- The CLASS of the oldest log of a tract, to which a merge is charged (R84). -/
def oldestClass (s : State) (ltn : Nat) : Nat :=
  match (logChain s 4096 (tractOf s ltn).log).getLast? with
  | some g => (s.map.core.logs.find g).map LogDesc.cls |>.getD 0
  | none => 0

/-- Start a merge (R83, R84): the new stripe takes the content as at the start; a new log takes later writes. -/
def startMerge (ltn : Nat) (must evacuation : Bool) (s : State) : State :=
  let t := tractOf s ltn
  if (s.map.copies.find ltn).isSome ∨ (s.map.folds.find ltn).isSome ∨ t.state = .unmapped ∨
      mergeRoom s (oldestClass s ltn) = false then s
  else
    match copyFen s ltn must evacuation with
    | none => s
    | some (f, adv) =>
      match openStripe f 1 false ltn s with
      | none => s
      | some (id, s1) =>
        let s1 := if adv then advanceRot f s1 else s1
        let cls := oldestClass s ltn
        let home := match tractOwner s ltn with | some (n, _) => homeClass s n | none => 0
        match openLog ltn t.log home s1 with
        | none => if (freeLog s).isNone then s.wr F.MAP_STATUS_LOG_PACING 1 else s
        | some (_, s1) =>
          let s1 := mergeBegin cls s1
          let s1 := parityRows id 0 2048 (copyUnits ltn id (List.range (tractUnits s)) (fun _ u => mergeRead s ltn u) s1)
          let s1 := putStripe id { (stripeOf s1 id) with frontier := 2048 } (rowsProgrammed id true s1)
          let s1 := journal (.tractMap ltn { (tractOf s1 ltn) with state := .merging }) s1
          { s1 with map := { s1.map with copies := s1.map.copies.put ltn { newStripe := id, merge := true, oldLog := t.log, cls := cls } } }

/-- MERGE_START (R83). -/
def execMergeStart (ltn : Ltn) (due : Bool) (s : State) : Result :=
  let s := s.begin
  .next (if mergeCause s ltn due then startMerge ltn (copyMust s ltn) false s else s)

/-- Commit a copy (R83, R85): STRIPE_SET and TRACT_MAP become durable, then the old stripe is released. -/
def commitStripe (ltn id : Nat) (st : TractState) (s : State) : State :=
  let t := tractOf s ltn
  let s := journalStripe id (closeStripe id s)
  let s := journal (.tractMap ltn { t with stripe := id, state := st, gen := (t.gen + 1) % 256 }) s
  let j := lastJ s
  let s := if t.stripe = 0xFFFFFFFF then s else abandonJobs t.stripe (releaseAfter j t.stripe s)
  { s with map := { s.map with copies := s.map.copies.del ltn } }

/-- MERGE_COMMIT (R83, R84): the old logs, the old stripe and the Mere copies taken in are released; the new log has no
predecessor. -/
def execMergeCommit (ltn : Ltn) (s : State) : Result :=
  let s := s.begin
  .next (match s.map.copies.find ltn with
    | none => s
    | some j =>
      if j.merge = false then s
      else
        let olds := logChain s 4096 j.oldLog
        let stripes := olds.filterMap (fun g => (s.map.core.logs.find g).map LogDesc.stripe)
        let was := (tractOf s ltn).stripe :: stripes
        let s := if was.any (fun id => decide (id ∈ s.ret.due ∨ id ∈ s.ret.early)) then refreshDone (stripeFen j.newStripe) 1 s else s
        let s := mergeEnd j.cls (commitStripe ltn j.newStripe .folded s)
        let s := eachOf olds (fun g s => journal (.logClose g) s) s
        let s := eachOf stripes (fun id s => releaseAfter (lastJ s) id s) s
        let taken := (s.map.dirty.filter (fun e => decide (e.1 / 262144 = ltn) && !e.2.toLog)).map Prod.fst
        let s := destaged taken (s.count F.MAP_MERGES_COUNT)
        mapNote (makeDurable (freeSumps s)))

/-- Start a refresh or an evacuation of a tract (R85, R127): a tract with a log merges; a FOLDED tract moves; a FILLING
tract's rows below the frontier are copied. -/
def startCopy (ltn : Nat) (evacuation : Bool) (s : State) : State :=
  let t := tractOf s ltn
  if t.log.isSome then startMerge ltn (copyMust s ltn) evacuation s
  else if (s.map.copies.find ltn).isSome ∨ (s.map.folds.find ltn).isSome ∨ t.stripe = 0xFFFFFFFF ∨
      (t.state ≠ .folded ∧ t.state ≠ .filling) then s
  else
    match copyFen s ltn (decide (t.stripe ∈ s.ret.due)) evacuation with
    | none => s
    | some (f, adv) =>
      match openStripe f 1 false ltn s with
      | none => s
      | some (id, s) =>
        let s := if adv then advanceRot f s else s
        let fr := tractFrontier s ltn
        let s := parityRows id 0 fr (copyUnits ltn id (unitsOfRows s 0 fr) (fun s u => foldUnit s ltn u) s)
        let s := putStripe id { (stripeOf s id) with frontier := fr } (rowsProgrammed id true s)
        let s := if t.state = .folded then journal (.tractMap ltn { (tractOf s ltn) with state := .moving }) s else s
        { s with map := { s.map with copies := s.map.copies.put ltn { newStripe := id, merge := false } } }

/-- REFRESH_COPY_START (R85, R127, R142): the stripe is due or early, or its fen is being evacuated. -/
def execRefreshCopyStart (ltn : Ltn) (evacuation : Bool) (s : State) : Result :=
  let s := s.begin
  .next (if (evacuation = true ∧ s.fen.evac.any (fun f => evacFirst s f ltn)) ∨
      (evacuation = false ∧ tractDue s ltn = true) then startCopy ltn evacuation s else s)

/-- REFRESH_COPY_COMMIT (R85): the record that repoints the tract is durable and the old blocks are released. -/
def execRefreshCopyCommit (ltn : Ltn) (s : State) : Result :=
  let s := s.begin
  .next (match s.map.copies.find ltn with
    | none => s
    | some j =>
      if j.merge then s
      else
        let st := if (tractOf s ltn).state = .moving then .folded else (tractOf s ltn).state
        let was := (tractOf s ltn).stripe
        let s := if was ∈ s.ret.due ∨ was ∈ s.ret.early then refreshDone (stripeFen was) 1 s else s
        mapNote (makeDurable (commitStripe ltn j.newStripe st s)))

/-! ### Background erases (R87, R93) -/

/-- BLOCK_BACKGROUND_ERASE (R87, R124): a freed block is erased in the mode of its last use, its wear counts it and it joins its
member's free set; a block of a hot-added member is erased in QLC mode, its counter set to 0, and joins the free set. A failed erase
enters it in the Spoil table (R92 REASON 2). -/
def execBlockBackgroundErase (link : Link) (block : Nat) (ok : Bool) (s : State) : Result :=
  let s := s.begin
  let l := link.val
  let r := s.block l block
  .next (if r.use = .freed then
      (if ok then
        wipeBlock l block (s.putBlock l block
          { r with use := .free, nextPage := 0, stripe := 0xFFFFFFFF, labelled := false,
                   wear := min 65535 (r.wear + (if r.slc then 1 else 16)) })
      else wornCheck l (spoilBlock l block 2 0 s))
    else if r.use = .free ∧ l ∈ s.fen.coming ∧ r.joined = false ∧ allocatable s l block = true then
      (if ok then wipeBlock l block (s.putBlock l block { r with joined := true, slc := false, wear := 0 })
       else wornCheck l (spoilBlock l block 2 0 s))
    else s)

/-! ### The journal (R95) -/

/-- The row of the journal that is open. -/
def openRow (s : State) : Nat :=
  ((stripesWhere s (fun _ e => decide (e.kind = 5 ∧ 0 < e.frontier ∧ e.frontier < 512))).head?.map (fun e => e.2.frontier)).getD 0

/-- The open row is full: it cannot take every waiting record, or its last unit is taken. -/
def rowFull (s : State) : Bool := decide (rowTakes (128 * rowUnits s) (128 * rowFirst (openRow s)) s.map.pendingJ < s.map.pendingJ.length)

/-- Something waits for a record to become durable (R95): a command, or a release. -/
def journalWaiter (s : State) : Bool :=
  !s.map.releases.isEmpty || s.nvq.slots.any (fun e => waitsDurable s e.1 e.2)

/-- JOURNAL_ROW_PROGRAM (R95, R97): the row is full, or a waiter needs it. -/
def execJournalRowProgram (waiter : Bool) (ok : Bool) (s : State) : Result :=
  let s := s.begin
  .next (if rowFull s = true ∨ (waiter = true ∧ journalWaiter s = true) then programJournal ok s else s)

/-- JOURNAL_ROW_TIMEOUT (R95): 100 ms have passed since the row's first record. -/
def execJournalRowTimeout (s : State) : Result := .next (programJournal true s.begin)

/-! ### Checkpoints (R97, R102, R184, R185) -/

/-- CHECKPOINT_TIMER (R97): the interval or the 4 GiB journal trigger. -/
def execCheckpointTimer (s : State) : Result := .next (startCheckpoint s.begin)

/-- CHECKPOINT_NOW (R102): a write of NOW; any path may make it (Level B). -/
def execCheckpointNow (_path : AccessPath) (s : State) : Result := .next (startCheckpoint s.begin)

/-- Journal stripes that hold no record after a JSEQ and take no further row are freed with the newest record (R97, R91). -/
def freeJournal (first : Nat) (s : State) : State :=
  let old := s.map.jlast.filter (fun e => decide (e.2 ≤ first ∧ 512 ≤ (stripeOf s e.1).frontier))
  let s := { s with map := { s.map with jlast := s.map.jlast.filter (fun e => decide (e ∉ old)) } }
  eachOf old (fun e s => releaseAfter (lastJ s) e.1 s) s

/-- CHECKPOINT_MARK_DURABLE (R97, R184, R185): CKPT_MARK is durable, an anchor record names the newer pair, the dropped
checkpoint's stripe is released and the journal before the older kept checkpoint is freed. -/
def execCheckpointMarkDurable (s : State) : Result :=
  let s := s.begin
  .next (match s.map.ckptNew with
    | none => s
    | some c =>
      let s := putParity c.stripe 0 (putMeta c.stripe 0 (ckptDirectory s c) c.number 0 s)
      let s := eachOf c.stripes (fun id s => setFrontier id 512 s) s
      let s := makeDurable (journal (.ckptMark c.number c.stripe c.jseq) s)
      let kept := (c :: s.map.ckpts).take 2
      let gone := (c :: s.map.ckpts).drop 2
      let s := anchorWrite { s with map := { s.map with ckpts := kept, ckptNew := none } }
      let s := eachOf (gone.flatMap Checkpoint.stripes) (fun id s => releaseAfter (lastJ s) id s) s
      let first := ((kept.drop 1).head?.map Checkpoint.jseq).getD 0
      let s := s.wr F.MAP_STATUS_CKPT_BUSY 0
      let d := s.map.durableJ.filter (fun e => decide (first < e.1))
      let s := { s with map := { s.map with durableJ := d } }
      freeJournal first s)

/-- STRIPE_ID_REUSE_DELAY (R181): 2 s after its STRIPE_FREE record is durable, the ID may be allocated again. -/
def execStripeIdReuseDelay (stripe : StripeId) (s : State) : Result :=
  let s := s.begin
  .next (if s.map.pendingJ.any (fun e => decide (e.2 = .stripeFree stripe)) then s
    else { s with map := { s.map with reuse := dropOne stripe s.map.reuse } })

end Sys2Proof.Machine
end

