-- ==== Sys2Proof/Machine/Retain.lean ====
section
/-! DEFINITION. The retention model: ages, predicted error rates, due stripes, and Dredge pass records (chapter "Retention
guardianship, Dredge passes and health"). -/

namespace Sys2Proof.Machine

open Sys2Proof

/-! ### Ages and rates (R137, R141) -/

/-- A block is measured (R137 FLAGS). -/
def measured (r : Block) : Bool := bitOf r.flags 0

/-- β of a member in hundredths (R135, R141): its row's, else RET_MODEL.BETA. -/
def betaOf (s : State) (l : Nat) : Nat :=
  match s.ret.cal.find l with
  | some r => if r.readable && bitOf r.flags.toNat 1 then r.beta else s.rd F.RET_MODEL_BETA
  | none => s.rd F.RET_MODEL_BETA

/-- Ea of a member in hundredths of eV (R135). -/
def eaOf (s : State) (l : Nat) : Nat :=
  match s.ret.cal.find l with
  | some r => if r.readable && bitOf r.flags.toNat 0 then r.ea else s.rd F.RET_MODEL_EA
  | none => s.rd F.RET_MODEL_EA

/-- Linear interpolation of a curve at a wear, as (numerator, denominator); none beyond its ends (R141). -/
def curveAt (c : List (Nat × Nat)) (w : Nat) : Option (Nat × Nat) :=
  match c with
  | (w0, r0) :: (w1, r1) :: rest =>
    if w0 ≤ w ∧ w ≤ w1 then
      (if w1 = w0 then some (r0, 1)
       else some ((r0 * (w1 - w) + r1 * (w - w0)), w1 - w0))
    else curveAt ((w1, r1) :: rest) w
  | [(w0, r0)] => if w = w0 then some (r0, 1) else none
  | [] => none

/-- cal_rber in ppm, as a fraction (R141). Beyond the curve's ends the manual gives no value: a free one. -/
def calRber (s : State) (l : Nat) (slc : Bool) (wear : Nat) : Nat × Nat :=
  let curve := match s.ret.cal.find l with
    | some r => if r.readable && bitOf r.flags.toNat (if slc then 3 else 2) then some (if slc then r.curveSlc else r.curveQlc)
                else none
    | none => none
  let w := if slc then wear else wear / 16
  let ends := if slc then endSlc s l else endQlc s l
  match curve with
  | some c => (curveAt c w).getD (Config.curveBeyond l w, 1)
  | none => if slc then (20 * ends + 60 * w, max 1 ends) else (300 * ends + 900 * w, max 1 ends)

/-- A predicted rate, held as the 100th power of its value: (numerator, denominator). The power β of R141 is a whole number
of hundredths, so the comparison with a threshold is exact. -/
def predict (s : State) (l b hours : Nat) : Nat × Nat :=
  let r := s.block l b
  let a := max (ageHours s l b + hours) 24
  let beta := betaOf s l
  if measured r then (r.measRber ^ 100 * a ^ beta, (max r.measAge 24) ^ beta)
  else
    let c := calRber s l r.slc r.wear
    (c.1 ^ 100 * a ^ beta, c.2 ^ 100 * 1000 ^ beta)

/-- The predicted rate is at or above a threshold in ppm. -/
def predictReaches (p : Nat × Nat) (thresh : Nat) : Bool := decide (thresh ^ 100 * p.2 ≤ p.1)

/-- The higher of two predicted rates. -/
def rateMax (a b : Nat × Nat) : Nat × Nat := if a.1 * b.2 < b.1 * a.2 then b else a

/-- The blocks of a stripe's present slots, as (link, block). -/
def presentBlocks (s : State) (id : Nat) : List (Nat × Nat) :=
  let gone := absentSlots s id
  (List.range 28).filterMap (fun i =>
    if i ∈ gone then none else ((stripeOf s id).slots[i]?).map (fun a => addrPlace s (stripeFen id) a))

/-- The verdict on a stripe (R141). -/
inductive Verdict where
  | due | early | ok
  deriving DecidableEq, Repr

/-- evaluate of R141. A block is due at the latest at 2^31 equivalent minutes (R137). -/
def evaluateStripe (s : State) (id : Nat) : Verdict :=
  let la := 24 * s.rd F.RET_CTL_LOOKAHEAD
  let thresh := s.rd F.RET_CTL_THRESH
  let bs := presentBlocks s id
  let all := (stripeOf s id).slots.map (fun a => addrPlace s (stripeFen id) a)
  if all.any (fun p => decide (s.rd F.RET_CTL_MAX_AGE * 31557600 ≤ s.life.now - (s.block p.1 p.2).progTime)) then .due
  else if bs.any (fun p => decide (2 ^ 31 ≤ 60 * ageHours s p.1 p.2)) then .due
  else if bs.any (fun p => predictReaches (predict s p.1 p.2 la) thresh) then .due
  else if s.isSet F.RET_CTL_EARLY_EN && bs.any (fun p => predictReaches (predict s p.1 p.2 (4 * la)) thresh) then .early
  else .ok

/-- A stripe's place in the order of R142: a measured rate above the threshold first, then the worst predicted rate. -/
def dueKey (s : State) (id : Nat) : Bool × (Nat × Nat) :=
  let bs := presentBlocks s id
  (bs.any (fun p => measured (s.block p.1 p.2) && decide (s.rd F.RET_CTL_THRESH < (s.block p.1 p.2).measRber)),
   (bs.map (fun p => predict s p.1 p.2 (24 * s.rd F.RET_CTL_LOOKAHEAD))).foldl rateMax (0, 1))

def keyBefore (a b : Bool × (Nat × Nat)) : Bool :=
  if a.1 ≠ b.1 then a.1 else decide (b.2.1 * a.2.2 < a.2.1 * b.2.2)

/-- Insert a due stripe in the order of R142. -/
def insertDue (s : State) (id : Nat) (l : List Nat) : List Nat :=
  match l with
  | [] => [id]
  | x :: r => if keyBefore (dueKey s id) (dueKey s x) then id :: x :: r else x :: insertDue s id r

/-- A stripe waits for its release (R91). -/
def released (s : State) (id : Nat) : Bool := s.map.releases.any (fun r => decide (r.2 = id))

/-- A stripe becomes due (R113, R142): refresh pending. One that is due already takes its new place in the order. -/
def setDue (id : Nat) (s : State) : State :=
  let e := stripeOf s id
  if e.kind = 0 ∨ released s id = true then s
  else
    let s := if bitOf e.flags 2 then s else setStripe id { e with flags := putBit e.flags 2 true } s
    { s with ret := { s.ret with due := insertDue s id (dropOne id s.ret.due), early := dropOne id s.ret.early } }

/-- Due stripes of a fen not yet started (R143). -/
def backlogOf (s : State) (f : Nat) : Nat :=
  (s.ret.due.filter (fun id => decide (stripeFen id = f) && !refreshRuns s id)).length

def backlogAll (s : State) : Nat := (List.range (fenCount s)).foldl (fun a f => a + backlogOf s f) 0

/-- The backlog of a fen would not finish within half the lookahead at the current credit (R143), which is the die time that its refresh
received over the last 60 s (R404). -/
def creditShort (s : State) (f : Nat) : Bool :=
  let need := (s.ret.due.filter (fun id => decide (stripeFen id = f) && !refreshRuns s id)).foldl
    (fun a id => a + refreshTime s (stripeOf s id).kind) 0
  let got := (s.ret.refreshes.filter (fun e => decide (e.2.1 = f ∧ s.life.now - e.1 ≤ 60))).foldl (fun a e => a + e.2.2) 0
  decide (got * (43200 * s.rd F.RET_CTL_LOOKAHEAD) < need * 60)

/-- Catch-up (R143): it begins where a fen's credit is short, and ends when the backlog is 0. -/
def catchupNote (s : State) : State :=
  if backlogAll s = 0 then s.wr F.RET_STATUS_CATCHUP 0
  else if s.isSet F.RET_STATUS_CATCHUP then s
  else if (List.range (fenCount s)).any (creditShort s) then vendorNotice (s.wr F.RET_STATUS_CATCHUP 1)
  else s

/-- Judge a stripe (R141, R142). -/
def judgeStripe (id : Nat) (s : State) : State :=
  if (stripeOf s id).kind = 0 ∨ released s id = true then s
  else
    match evaluateStripe s id with
    | .due => catchupNote (setDue id s)
    | .early => if id ∈ s.ret.due then s else { s with ret := { s.ret with early := addNew id s.ret.early } }
    | .ok => { s with ret := { s.ret with early := dropOne id s.ret.early } }

/-- A measurement of a block (R140): the rate in ppm of its worst code word, with its age; its stripe is evaluated. -/
def measureBlock (l b ppm : Nat) (s : State) : State :=
  let r := s.block l b
  let s := s.putBlock l b { r with measRber := min 65535 ppm, measAge := min 0xFFFFFF (ageHours s l b),
                                   flags := putBit r.flags 0 true }
  if r.stripe = 0xFFFFFFFF then s else judgeStripe r.stripe s

/-- The rate in ppm of a code word with `n` bits corrected by the first hard decode (R140). -/
def rberPpm (n : Nat) : Nat := n * 1000000 / 36864

/-! ### Dredge passes (R150 to R154) -/

/-- Custodian passes running, and waiting (R150). -/
def passesIn (s : State) (st : Nat) : Nat := (s.ret.passes.filter (fun p => decide (p.state = st ∧ p.origin = 0))).length

def passOf (s : State) (id : Nat) : Option DredgePass := s.ret.passes.find? (fun p => decide (p.id = id))

def putPass (p : DredgePass) (s : State) : State :=
  { s with ret := { s.ret with passes := s.ret.passes.map (fun q => if q.id = p.id then p else q) } }

/-- The PASS_ID after one: never 0 (R154). -/
def passAfter (n : Nat) : Nat := if n + 1 = 2 ^ 32 then 1 else n + 1

/-- Enter a pass with the next PASS_ID; the 256 newest records are kept (R154). -/
def newPass (p : DredgePass) (s : State) : State :=
  let p := { p with id := s.ret.nextPass }
  { s with ret := { s.ret with passes := (s.ret.passes ++ [p]).drop (s.ret.passes.length + 1 - 256),
                               nextPass := passAfter s.ret.nextPass } }

/-- The oldest waiting pass starts while fewer than four run (R150). -/
def passNext (s : State) : State :=
  if 4 ≤ passesIn s 1 then s
  else
    match s.ret.passes.find? (fun p => decide (p.state = 0)) with
    | some p => putPass { p with state := 1, began := s.life.now } s
    | none => s

/-- Stop a pass with a state (R154): its record is final. -/
def endPass (p : DredgePass) (state : Nat) (s : State) : State :=
  let s := putPass { p with state := state, ended := s.life.now } s
  let s := if state = 2 ∧ p.origin = 0 ∧ p.count = 0 then
    { s with ret := { s.ret with health := Tab.set 0 s.ret.health 6 s.life.now } } else s
  fenRefresh (passNext s)

end Sys2Proof.Machine
end

