-- ==== Sys2Proof/Machine/NvmeOps.lean ====
section
/-! DEFINITION. Operations of host command intake that several commands share: slots, submission entries, statuses, the
running of a command in its slot, blocks and units of a namespace (chapters "Host command intake", "Ordering, durability and
error reporting"). -/

namespace Sys2Proof.Machine

open Sys2Proof

/-! ### Status codes (256 × Status Code Type + Status Code) -/

def scInvalidOpcode : Nat := 0x01
def scInvalidField : Nat := 0x02
def scCidConflict : Nat := 0x03
def scInternal : Nat := 0x06
def scAborted : Nat := 0x07
def scSqDeleted : Nat := 0x08
def scBadNamespace : Nat := 0x0B
def scSequence : Nat := 0x0C
def scResvConflict : Nat := 0x18
def scSanitizing : Nat := 0x1D
def scProtected : Nat := 0x20
def scLbaRange : Nat := 0x80
def scCapacity : Nat := 0x115
def scNotReady : Nat := 0x82
def scUnrecovered : Nat := 0x281
def scCompareFail : Nat := 0x285
def scNotExecuted : Nat := 0x7C1
def scDataLost : Nat := 0x7C0

/-! ### Fields of an entry (NVMe Base 2.0) -/

def Cmd.opc (c : Cmd) : Nat := c.sqe.opc.toNat
def Cmd.nsid (c : Cmd) : Nat := c.sqe.nsid.toNat
def Cmd.admin (c : Cmd) : Bool := decide (c.sqid = 0)
def Cmd.dw (c : Cmd) (n : Nat) : Nat :=
  match n with
  | 10 => c.sqe.cdw10.toNat | 11 => c.sqe.cdw11.toNat | 12 => c.sqe.cdw12.toNat
  | 13 => c.sqe.cdw13.toNat | 14 => c.sqe.cdw14.toNat | _ => c.sqe.cdw15.toNat

/-- Starting LBA and number of blocks of a block command. -/
def Cmd.slba (c : Cmd) : Nat := c.dw 10 + 2 ^ 32 * c.dw 11
def Cmd.nlb (c : Cmd) : Nat := bits (c.dw 12) 0 16 + 1
def Cmd.fua (c : Cmd) : Bool := bitOf (c.dw 12) 30

/-- An I/O command of an opcode. -/
def Cmd.isIo (c : Cmd) (o : Nat) : Bool := !c.admin && decide (c.opc = o)
def Cmd.isAdmin (c : Cmd) (o : Nat) : Bool := c.admin && decide (c.opc = o)

/-- The action of a Zone Management Send. -/
def Cmd.zsa (c : Cmd) : Nat := bits (c.dw 13) 0 8

/-! ### Slots (R337, R339, R356) -/

/-- The RES values of a lot's controllers, PCIe and fabric, together (R337). -/
def resSum (n : NvmectlLot) : Nat := n.ctrls.foldl (fun a b => a + b.res) 0 + n.hosts.foldl (fun a h => a + h.res) 0

/-- A RES value in force: scaled down in proportion where all sum to more than 8,192, rounded down (R337). -/
def resScaled (n : NvmectlLot) (res : Nat) : Nat := if 8192 < resSum n then res * 8192 / resSum n else res

/-- A lot whose reservations are scaled leaves a Peat entry (R337). -/
def resNote (n : NvmectlLot) (s : State) : State := if 8192 < resSum n then peatRecord 0x2001 0 (resSum n) 0 s else s

/-- Commands in flight on one SQ. -/
def inFlight (s : State) (cid qid : Nat) : Nat :=
  (s.nvq.slots.filter (fun e => decide (e.2.ctrl = cid ∧ e.2.sqid = qid))).length

/-- The lowest slot that is free. -/
def lowSlot (s : State) : Nat := ((List.range (s.nvq.slots.length + 1)).find? (fun n => (s.nvq.slots.find n).isNone)).getD 0

/-- The part that a queue's next command takes its slot from (R337); none while none is available (R338, R339). -/
def slotPart (s : State) (cid qid : Nat) (c : Ctrl) : Option Nat :=
  if s.rd F.NVQ_FETCH_CTL_QMAX ≤ inFlight s cid qid then none
  else if qid = 0 ∧ c.adminUsed = false then some 0
  else if qid ≠ 0 ∧ c.resUsed < c.res then some 1
  else if 0 < sharedFree s then some 2
  else none

/-- A slot returns to its part (R337). -/
def freeSlotOf (n : Nat) (s : State) : State :=
  match s.slot? n with
  | none => s
  | some k =>
    let s := match s.ctrl? k.ctrl with
      | none => s
      | some c =>
        if k.part = 0 then s.putCtrl k.ctrl { c with adminUsed := false }
        else if k.part = 1 then s.putCtrl k.ctrl { c with resUsed := c.resUsed - 1 }
        else s
    { s.delSlot n with slu := { s.slu with out := s.slu.out.filter (fun e => decide (e.1 ≠ n)) } }

/-! ### Admission of an entry to a slot (R338, R346, R385, R392) -/

/-- The units and JSEQ that a Flush fetched now covers (R366). -/
def flushCovers (s : State) (c : Ctrl) (nsid : Nat) : List Nat × Nat :=
  let inScope := fun (n : Nat) => if nsid = 0xFFFFFFFF then decide (n ∈ c.attach) else decide (n = nsid)
  (s.nvq.done.filter (fun k => (tractOwner s (k / 262144)).any (fun o => inScope o.1)),
   (s.nvq.doneJ.filter (fun e => inScope e.1)).foldl (fun m e => max m e.2) 0)

/-- An entry takes a slot: it is classified, counted, and completes at once on a command identifier in flight; the first I/O
command with a pending report carries it. -/
def takeEntry (cid qid part : Nat) (e : Sqe) (s : State) : State :=
  match s.ctrl? cid with
  | none => s
  | some c =>
    let n := lowSlot s
    let clash := s.nvq.slots.any (fun x => decide (x.2.ctrl = cid ∧ x.2.sqid = qid ∧ x.2.sqe.cid = e.cid))
    let cov := if qid ≠ 0 ∧ e.opc = 0#8 then flushCovers s c e.nsid.toNat else ([], 0)
    let k : Cmd := { sqe := e, ctrl := cid, sqid := qid, part := part, cls := classify s cid e.nsid.toNat qid,
                     covers := cov.1, coverJ := cov.2, seq := s.nvq.fetchSeq }
    let s := s.putCtrl cid { c with adminUsed := c.adminUsed || decide (part = 0),
                                    resUsed := c.resUsed + (if part = 1 then 1 else 0) }
    let s := { s with nvq := { s.nvq with fetchSeq := s.nvq.fetchSeq + 1 } }
    let s := (s.putSlot n k).count F.NVQ_CNT_FETCHED_COUNT
    let s := s.wr F.NVQ_PEAK_COUNT (max (s.rd F.NVQ_PEAK_COUNT) s.nvq.slots.length)
    let s := if sharedFree s = 0 then s.wr F.NVQ_EVT_SLOTS_FULL 1 else s
    if clash then finishCmd n scCidConflict 0 0 (s.wr F.NVQ_EVT_CID_CONFLICT 1)
    else if qid ≠ 0 ∧ (reportsFor s c e.nsid.toNat).isEmpty = false then carryReport n s
    else s

/-! ### Running a command in its slot -/

/-- Run an admitted command of an opcode: nothing where the slot holds no such command. -/
def withCmd (n : Nat) (ok : Cmd → Bool) (f : Cmd → Ctrl → State → State) (s : State) : State :=
  match s.slot? n with
  | none => s
  | some k =>
    if k.state ≠ .admitted ∨ k.waits = true ∨ ok k = false then s
    else match s.ctrl? k.ctrl with
      | none => s
      | some c => f k c s

/-- Finish a command that changed namespace contents (R383 CHANGED). -/
def finishChanged (n status dw0 dw1 : Nat) (s : State) : State :=
  match s.slot? n with
  | none => s
  | some k => finishCmd n status dw0 dw1 (s.putSlot n { k with changed := true })

/-- Every media-changing command completes as if FUA were set: the last hold-up test failed, or a test is armed (R155, R364,
R559). -/
def forceFua (s : State) : Bool := s.pwr.htFailed || s.pwr.ride || decide (1 ≤ s.rd F.PWR_HT_STAT_STATE ∧ s.rd F.PWR_HT_STAT_STATE ≤ 3)

/-- A command that changed contents finishes, now or, under FUA or R364, when its units are programmed and its records
durable (R363, R364). -/
def finishWrite (n : Nat) (fua : Bool) (covers : List Nat) (dw0 dw1 : Nat) (s : State) : State :=
  match s.slot? n with
  | none => s
  | some k =>
    let k := { k with changed := true, covers := covers, coverJ := lastJ s }
    let s := s.putSlot n k
    if (fua || forceFua s) && !durableFor s k then
      s.putSlot n { k with waits := true, status := 0, dw0 := dw0 % 2 ^ 32, dw1 := dw1 % 2 ^ 32 }
    else finishCmd n scOk dw0 dw1 s

/-! ### Blocks, units and leaves (R66, R178, R180) -/

/-- Logical blocks of a namespace. -/
def nsBlocks (s : State) (nsid : Nat) (n : Namespace) : Nat := nsTracts s nsid * (tractBytes s / 2 ^ n.lbaShift)

/-- Logical blocks of a tract. -/
def tractBlocks (s : State) (n : Namespace) : Nat := tractBytes s / 2 ^ n.lbaShift

/-- The place of the namespace's unit g: its tract and unit there. -/
def unitAt (s : State) (nsid g : Nat) : Option (Nat × Nat) := (nsTract s nsid (g / tractUnits s)).map (fun l => (l, g % tractUnits s))

/-- The region of whole units and whole leaves that blocks lie in: (first unit, number of units). -/
def leafSpan (n : Namespace) (slba nlb : Nat) : Nat × Nat :=
  let r := max (2 ^ n.leafShift) 4096
  let a := slba * 2 ^ n.lbaShift / r * (r / 4096)
  let b := ((slba + nlb) * 2 ^ n.lbaShift + r - 1) / r * (r / 4096)
  (a, b - a)

/-- The data of a namespace's unit as a read finds it (R28, R29, R72): none where it is lost or cannot be reconstructed. -/
def readUnit (s : State) (nsid g : Nat) : Option UnitData :=
  match unitAt s nsid g with
  | none => none
  | some (ltn, u) =>
    match resolveUnit s ltn u with
    | some d => if d.lost = true ∨ ((s.map.dirty.find (unitKey ltn u)).isNone = true ∧ unitLost s ltn u = true) then none else some d
    | none => none

/-- Every leaf that holds a block range verifies (R29). -/
def leavesOk (s : State) (nsid : Nat) (n : Namespace) (slba nlb : Nat) : Bool :=
  let (a, c) := leafSpan n slba nlb
  (List.range c).all (fun i => (readUnit s nsid (a + i)).isSome)

/-- One logical block of plaintext. -/
def blockData (s : State) (nsid : Nat) (n : Namespace) (lba : Nat) : Nat :=
  let byte := lba * 2 ^ n.lbaShift
  match readUnit s nsid (byte / 4096) with
  | some d => bits d.payload (8 * (byte % 4096)) (8 * 2 ^ n.lbaShift)
  | none => 0

/-- The blocks of a range (R7: a list of little-endian numbers, one a block). -/
def readBlocks (s : State) (nsid : Nat) (n : Namespace) (slba nlb : Nat) : List Nat :=
  (List.range nlb).map (fun i => blockData s nsid n (slba + i))

/-- A read with unrecovered status is counted for the SMART page (R155). -/
def countUnrecovered (s : State) : State := healthAdd 7 1 s

/-! ### Write sequences (R179) -/

/-- WSEQ values for `c` leaves (R179): where the counter reaches the recorded floor a record raises it by 2^32. -/
def drawWseq (nsid c : Nat) (s : State) : State :=
  match s.ns? nsid with
  | none => s
  | some n =>
    let w := n.wseq + c
    let s := s.putNs nsid { n with wseq := w, wseqFloor := if n.wseqFloor ≤ w then n.wseqFloor + 2 ^ 32 else n.wseqFloor }
    if n.wseqFloor ≤ w then labelWrite nsid s else s

/-! ### Tracts that lose their content (R82, R86, R91) -/

/-- Set a tract UNMAPPED: a copy or fold under way is abandoned; its stripe, logs, rows and dirty units go (R82, R86, R91). -/
def unmapTract (ltn : Nat) (s : State) : State :=
  let t := tractOf s ltn
  if t.state = .unmapped ∧ t.zone ≤ 1 then s
  else
    let job := s.map.copies.find ltn
    let logs := logChain s 4096 t.log
    let stripes := logs.filterMap (fun g => (s.map.core.logs.find g).map LogDesc.stripe)
    let s := { s with map := { s.map with copies := s.map.copies.del ltn, folds := s.map.folds.del ltn } }
    let s := match job with
      | some j => if j.merge then mergeEnd j.cls s else s
      | none => s
    let s := journal (.tractMap ltn { gen := if t.stripe = 0xFFFFFFFF then t.gen else (t.gen + 1) % 256 }) s
    let s := eachOf logs (fun g s => journal (.logClose g) s) s
    let j := lastJ s
    let old := (if t.stripe = 0xFFFFFFFF then [] else [t.stripe]) ++ stripes ++ (job.map CopyJob.newStripe).toList
    let s := eachOf old (fun id s => abandonJobs id (forgetDue id (releaseAfter j id s))) s
    let keys := (s.map.dirty.filter (fun e => decide (e.1 / 262144 = ltn))).map Prod.fst
    mapNote (freeSumps (dropClean (unitKey ltn 0) (unitKey (ltn + 1) 0) (dropDirty keys s)))

/-! ### A controller's event that names page 0xD2 (R381) -/

/-- A record of the host key exists. -/
def lcrOf (s : State) (k : HostKey) : Option LostRecord := s.nvq.lcr.find? (fun r => decide (r.key = k))

/-- The notice of R381 goes out with the first outstanding request; on a fabric controller not before the record is final
(R457). -/
def lcrNotice (cid : Nat) (s : State) : State :=
  match s.ctrl? cid with
  | none => s
  | some c =>
    match lcrOf s (hostKeyOf c) with
    | none => s
    | some r =>
      if c.fabric = true ∧ r.entries.all LostEntry.ended = false then s.putCtrl cid { c with lcrOwed := true }
      else aenPost cid 7 (Config.vendorInfo 0xD2) 0xD2 (s.putCtrl cid { c with lcrOwed := false })

/-- The notices that waited for a host key's record (R457). -/
def lcrOffer (key : HostKey) (s : State) : State :=
  eachOf ((s.nvq.ctrls.filter (fun e => e.2.lcrOwed && decide (hostKeyOf e.2 = key))).map Prod.fst) lcrNotice s

end Sys2Proof.Machine
end

