-- ==== Sys2Proof/Machine/NvmeQueue.lean ====
section
/-! DEFINITION. Doorbells, fetch, completion, interrupts, queues, controller enable and reset, lost-completion records
(chapters "Host command intake", "Ordering, durability and error reporting"). -/

namespace Sys2Proof.Machine

open Sys2Proof

/-! ### Doorbells (R340) -/

/-- A doorbell write that is ignored (R340): Error event, information 0x00 or 0x01, and BAD_DB. -/
def badDoorbell (cid info : Nat) (s : State) : State := aenPost cid 0 info 0x01 (s.wr F.NVQ_EVT_BAD_DB 1)

/-- Change one SQ or CQ of a controller. -/
def putSq (cid qid : Nat) (c : Ctrl) (q : SubQueue) (s : State) : State := s.putCtrl cid { c with sqs := c.sqs.put qid q }
def putCq (cid qid : Nat) (c : Ctrl) (q : CplQueue) (s : State) : State := s.putCtrl cid { c with cqs := c.cqs.put qid q }

/-- A write of an SQ tail doorbell (R340). -/
def sqDoorbell (cid qid value : Nat) (s : State) : State :=
  match s.ctrl? cid with
  | none => s
  | some c =>
    if c.fabric then s
    else match c.sqs.find qid with
      | none => badDoorbell cid 0x00 s
      | some q =>
        if q.deleting.isSome then badDoorbell cid 0x00 s
        else if q.size ≤ value then badDoorbell cid 0x01 s
        else putSq cid qid c { q with tail := value } s

/-- SQ_TAIL_DOORBELL. -/
def execSqTailDoorbell (ctrl : CtrlId) (qid value : Nat) (s : State) : Result := .next (sqDoorbell ctrl qid value s.begin)

/-- A write of a CQ head doorbell: it releases entries that have been posted (R340, R345). -/
def cqDoorbell (cid qid value : Nat) (s : State) : State :=
  match s.ctrl? cid with
  | none => s
  | some c =>
    if c.fabric then s
    else match c.cqs.find qid with
      | none => badDoorbell cid 0x00 s
      | some q =>
        if q.size ≤ value ∨ (q.tail + q.size - q.head) % q.size < (value + q.size - q.head) % q.size then badDoorbell cid 0x01 s
        else putCq cid qid c { q with head := value } s

/-- CQ_HEAD_DOORBELL. -/
def execCqHeadDoorbell (ctrl : CtrlId) (qid value : Nat) (s : State) : Result := .next (cqDoorbell ctrl qid value s.begin)

/-! ### Fetch (R338 to R343) -/

/-- The device fetches on a controller: enabled, ready, not shut down, no activation holding fetch (R374, R375), no power-fail decision
(R554), no device reset due (R615). -/
def mayFetch (s : State) (c : Ctrl) : Bool :=
  c.enabled && c.rdy && !c.resetting && decide (c.shst = 0) && decide (s.nvq.act = 0) && !s.pwr.decided && s.boot.resetDue.isNone

/-- Entries of one turn: 2^AB of Feature 0x01, an AB of 7 counting as 8 (R342). The default of Feature 0x01 is AB 7. -/
def turnLimit (c : Ctrl) : Nat :=
  let ab := bits ((c.feats.find (0x01 * 65536)).getD 7) 0 3
  if ab = 7 then 256 else 2 ^ ab

/-- Entries that wait in a queue: behind its tail doorbell, or in the receive buffer of a fabric controller. -/
def waitingEntries (c : Ctrl) (q : SubQueue) : Nat :=
  if c.fabric then q.buffer.length else (q.tail + q.size - q.head) % max 1 q.size

/-- A queue could be fetched from now: entries wait, its controller runs, a slot is available (R337 to R339). -/
def fetchable (s : State) (cid qid : Nat) : Bool :=
  match s.ctrl? cid with
  | none => false
  | some c =>
    match c.sqs.find qid with
    | none => false
    | some q => mayFetch s c && q.deleting.isNone && decide (0 < waitingEntries c q) && (slotPart s cid qid c).isSome

/-- The pass of R343 in which a queue takes its turn: 0 for an admin SQ, 1 for an urgent SQ, else 2. -/
def fetchPass (c : Ctrl) (qid : Nat) (q : SubQueue) : Nat := if qid = 0 then 0 else if urgentSq c q then 1 else 2

/-- The queues that could be fetched from, as (pass, controller, SQ). -/
def fetchQueues (s : State) : List (Nat × Nat × Nat) :=
  s.nvq.ctrls.flatMap (fun e => (e.2.sqs.filter (fun x => fetchable s e.1 x.1)).map (fun x => (fetchPass e.2 x.1 x.2, e.1, x.1)))

/-- Round robin: the least of some numbers above the one served last, else the least of all. -/
def nextTurn (last : Option Nat) (l : List Nat) : Option Nat :=
  let least := fun (l : List Nat) => l.foldl (fun (a : Option Nat) x => some (match a with | none => x | some y => min x y)) none
  match last with
  | none => least l
  | some n => match least (l.filter (fun x => decide (n < x))) with | some x => some x | none => least l

/-- The class of a queue in its controller's arbitration (R342): 1 high, 2 medium, 3 low under weighted round robin; one class under
round robin. -/
def arbClass (c : Ctrl) (q : SubQueue) : Nat := if bits c.cc 11 3 = 1 then (if c.fabric then 2 else q.prio) else 0

/-- The weight of a class (R342): HPW, MPW and LPW of Feature 0x01, each one less than the commands of a round. -/
def arbWeight (c : Ctrl) (k : Nat) : Nat :=
  let w := (c.feats.find (0x01 * 65536)).getD 7
  1 + (if k = 1 then bits w 24 8 else if k = 2 then bits w 16 8 else bits w 8 8)

/-- The class that has the next turn of a controller, of those with entries: the highest with commands left of its weight; where none has
any, a new round begins (R342). -/
def turnClass (c : Ctrl) (ks : List Nat) : Option Nat :=
  match ([0, 1, 2, 3].filter (fun k => decide (k ∈ ks))).find? (fun k => decide (k = 0 ∨ 0 < (c.credit.find k).getD (arbWeight c k))) with
  | some k => some k
  | none => [0, 1, 2, 3].find? (fun k => decide (k ∈ ks))

/-- The queue of a controller that its own arbitration serves next (R342). -/
def turnQueue (s : State) (cid : Nat) (qs : List Nat) : Option Nat :=
  match s.ctrl? cid with
  | none => none
  | some c =>
    let cls := fun qid => ((c.sqs.find qid).map (arbClass c)).getD 0
    (turnClass c (qs.map cls)).bind (fun k => nextTurn (c.classTurn.find k) (qs.filter (fun q => decide (cls q = k))))

/-- The queue that has the next fetch turn, as (controller, SQ) (R342, R343): the admin SQs first, then the urgent SQs, each in round
robin, then the controllers in round robin, each with the queue that its own arbitration gives. -/
def fetchGrant (s : State) : Option (Nat × Nat) :=
  let l := fetchQueues s
  let admin := (l.filter (fun e => decide (e.1 = 0))).map (fun e => e.2.1)
  let urgent := (l.filter (fun e => decide (e.1 = 1))).map (fun e => 65536 * e.2.1 + e.2.2)
  let rest := l.filter (fun e => decide (e.1 = 2))
  match nextTurn (s.nvq.turns.find 0) admin with
  | some c => some (c, 0)
  | none =>
    match nextTurn (s.nvq.turns.find 1) urgent with
    | some k => some (k / 65536, k % 65536)
    | none =>
      (nextTurn (s.nvq.turns.find 2) (rest.map (fun e => e.2.1))).bind (fun c =>
        (turnQueue s c ((rest.filter (fun e => decide (e.2.1 = c))).map (fun e => e.2.2))).map (fun q => (c, q)))

/-- A queue has had its turn, of `n` entries: the round robins move on, and its class has used that much of its weight (R342, R343). -/
def turnTaken (cid qid n : Nat) (s : State) : State :=
  match s.ctrl? cid with
  | none => s
  | some c =>
    match c.sqs.find qid with
    | none => s
    | some q =>
      let p := fetchPass c qid q
      let k := arbClass c q
      let left := (c.credit.find k).getD (arbWeight c k)
      let credit := if left = 0 then Tab.put ([] : Tab Nat) k (arbWeight c k - n) else c.credit.put k (left - n)
      let c := if p = 2 then { c with classTurn := c.classTurn.put k qid, credit := credit } else c
      let s := s.putCtrl cid c
      { s with nvq := { s.nvq with turns := s.nvq.turns.put p (if p = 1 then 65536 * cid + qid else cid) } }

/-- Take entries from a queue while slots are available. -/
def takeAll (cid qid : Nat) (es : List Sqe) (s : State) : State :=
  eachOf es (fun e s =>
    match s.ctrl? cid with
    | none => s
    | some c =>
      match slotPart s cid qid c, c.sqs.find qid with
      | some p, some q => takeEntry cid qid p e (putSq cid qid c { q with head := (q.head + 1) % max 1 q.size } s)
      | _, _ => s) s

/-- SQ_FETCH (R338, R339, R341 to R343): the queue whose turn it is, in one read of up to BURST consecutive entries, as slots allow; on a
fabric controller the capsules that wait in the receive buffer take slots. -/
def execSqFetch (ctrl : CtrlId) (qid : Nat) (entries : List Sqe) (s : State) : Result :=
  let s := s.begin
  .next (match s.ctrl? ctrl with
    | none => s
    | some c =>
      match c.sqs.find qid with
      | none => s
      | some q =>
        if fetchGrant s ≠ some (ctrl, qid) then s
        else if c.fabric then
          let s := turnTaken ctrl qid (min (turnLimit c) q.buffer.length) s
          let go := (List.range (min (turnLimit c) q.buffer.length)).foldl (fun s _ =>
            match s.ctrl? ctrl with
            | none => s
            | some c => match c.sqs.find qid with
              | none => s
              | some q => match q.buffer, slotPart s ctrl qid c with
                | e :: r, some p =>
                  takeEntry ctrl qid p e (putSq ctrl qid c { q with buffer := r, head := (q.head + 1) % max 1 q.size } s)
                | _, _ => s) s
          go
        else
          let n := min (min (s.rd F.NVQ_FETCH_CTL_BURST) (turnLimit c)) (waitingEntries c q)
          takeAll ctrl qid (entries.take n) (turnTaken ctrl qid (entries.take n).length s))

/-- CAPSULE_ARRIVAL (R341): a capsule takes a slot, or waits in its queue's receive buffer. -/
def execCapsuleArrival (ctrl : CtrlId) (qid : Nat) (entry : Sqe) (s : State) : Result :=
  let s := s.begin
  .next (match s.ctrl? ctrl with
    | none => s
    | some c =>
      match c.sqs.find qid with
      | none => s
      | some q =>
        if c.fabric = false ∨ c.resetting = true then s
        else
          match (if mayFetch s c ∧ q.buffer.isEmpty = true then slotPart s ctrl qid c else none) with
          | some p => takeEntry ctrl qid p entry (putSq ctrl qid c { q with head := (q.head + 1) % max 1 q.size } s)
          | none => if q.buffer.length < q.size then putSq ctrl qid c { q with buffer := q.buffer ++ [entry] } s else s)

/-! ### Completion and interrupts (R344, R345, R349, R350) -/

/-- The MSI-X control word of a controller's function: enable in bit 31, function mask in bit 30 (R349: as PCIe). -/
def msixOn (s : State) (c : Ctrl) : Bool :=
  match c.port with
  | .pcie l =>
    let w := Tab.get 0 (Tab.get {} s.hif.funcs (256 * l.val + c.func)).regs 0x50
    bitOf w 31 && !bitOf w 30
  | .eth _ => false

/-- Send a vector's message unless it or its function is masked (R349). -/
def sendVector (cid v : Nat) (s : State) : State :=
  match s.ctrl? cid with
  | none => s
  | some c =>
    match c.vecs.find v with
    | some (n, false) =>
      if n = 0 ∨ msixOn s c = false then s else (s.putCtrl cid { c with vecs := c.vecs.put v (0, false) }).emit (.msix cid v)
    | _ => s

/-- THR of Feature 0x08, or no coalescing for the admin queue and a vector with CD set (R350). -/
def vectorThr (c : Ctrl) (cqid v : Nat) : Nat :=
  if cqid = 0 ∨ bitOf ((c.feats.find (0x09 * 65536 + v)).getD 0) 16 = true then 0
  else bits ((c.feats.find (0x08 * 65536)).getD 0) 0 8

/-- A new entry of a CQ is pending on its vector: the message goes out once THR + 1 entries are (R349, R350). -/
def raiseVector (cid cqid : Nat) (q : CplQueue) (s : State) : State :=
  match s.ctrl? cid with
  | none => s
  | some c =>
    if q.ien = false ∨ c.fabric = true then s
    else
      let (n, m) := Tab.get (0, true) c.vecs q.vector
      let s := s.putCtrl cid { c with vecs := c.vecs.put q.vector (n + 1, m) }
      if vectorThr c cqid q.vector < n + 1 then sendVector cid q.vector s else s

/-- A CQ is full: its next entry would overwrite one not released (R345). -/
def cqFull (q : CplQueue) : Bool := decide ((q.tail + 1) % max 1 q.size = q.head)

/-- Writes that reached Completed: their units still dirty and their newest record (R366). -/
def noteDone (k : Cmd) (s : State) : State :=
  if k.changed = false ∨ k.status ≠ 0 then s
  else
    let dirty := k.covers.filter (fun u => (s.map.dirty.find u).isSome && decide (u ∉ s.nvq.done))
    let own := Tab.get ([], 0) s.nvq.ctrlDone k.ctrl
    let left := own.1.filter (fun u => decide (u ∈ s.nvq.done ∧ u ∉ k.covers))
    let all := left ++ k.covers.filter (fun u => (s.map.dirty.find u).isSome)
    { s with nvq := { s.nvq with done := s.nvq.done ++ dirty,
                                 ctrlDone := Tab.set ([], 0) s.nvq.ctrlDone k.ctrl (all, max own.2 k.coverJ),
                                 doneJ := Tab.set 0 s.nvq.doneJ k.nsid (max k.coverJ (Tab.get 0 s.nvq.doneJ k.nsid)) } }

/-- A Delete I/O SQ completes once its queue has no command in a slot (R355). -/
def deleteNote (cid qid : Nat) (s : State) : State :=
  match s.ctrl? cid with
  | none => s
  | some c =>
    match c.sqs.find qid with
    | none => s
    | some q =>
      match q.deleting with
      | none => s
      | some n => if inFlight s cid qid = 0 then finishCmd n scOk 0 0 (s.putCtrl cid { c with sqs := c.sqs.del qid }) else s

/-- The completion queue of a command. -/
def cqidOf (c : Ctrl) (k : Cmd) : Nat := if k.sqid = 0 then 0 else ((c.sqs.find k.sqid).map SubQueue.cqid).getD k.sqid

/-- No command of the same CQ finished earlier and still waits (R344). -/
def firstOfCq (s : State) (c : Ctrl) (k : Cmd) : Bool :=
  s.nvq.slots.all (fun e => !(decide (e.2.ctrl = k.ctrl ∧ e.2.state = .finished ∧ e.2.sent = false ∧ cqidOf c e.2 = cqidOf c k ∧ e.2.order < k.order)))

/-- A posted completion ends the command (R361): a failure is logged, its slot returns. -/
def endPosted (n : Nat) (k : Cmd) (s : State) : State :=
  let s := if k.status = 0 ∨ k.status = scDataLost then s
    else errorLog k.ctrl (k.sqid, k.sqe.cid.toNat, k.status, k.nsid, 0, 0) s
  deleteNote k.ctrl k.sqid (freeSlotOf n (noteDone k (s.count F.NVQ_CNT_DONE_COUNT)))

/-- Post a finished command's completion entry (R344, R348, R349): its slot returns. A fabric command's response capsule goes
out and the command ends with its acknowledgement (R361); the response of a queue that has been disconnected is discarded
(R455). -/
def postSlot (n : Nat) (s : State) : State :=
  match s.slot? n with
  | none => s
  | some k =>
    match s.ctrl? k.ctrl with
    | none => s.delSlot n
    | some c =>
      let cqid := cqidOf c k
      let cq := (c.cqs.find cqid).getD { size := 0 }
      if k.state ≠ .finished ∨ k.lostKey = true ∨ k.sent = true ∨ s.nvq.act = 2 ∨ s.pwr.decided = true ∨ firstOfCq s c k = false then s
      else if c.fabric then
        (if (c.sqs.find k.sqid).isNone then freeSlotOf n (noteDone k s)
         else (s.emit (.completion k.ctrl k.sqid cqid k.sqe.cid.toNat k.status k.dw0 k.dw1)).putSlot n { k with sent := true })
      else if (c.cqs.find cqid).isNone = true ∨ cqFull cq = true then s
      else
        let s := s.emit (.completion k.ctrl k.sqid cqid k.sqe.cid.toNat k.status k.dw0 k.dw1)
        let s := putCq k.ctrl cqid c { cq with tail := (cq.tail + 1) % max 1 cq.size,
                                               phase := if cq.tail + 1 = cq.size then !cq.phase else cq.phase } s
        endPosted n k (raiseVector k.ctrl cqid cq s)

/-- COMPLETION_POST (R344). -/
def execCompletionPost (slot : SlotNo) (s : State) : Result := .next (postSlot slot.val s.begin)

/-- CQ_STALL_TIMER (R345). -/
def execCqStallTimer (ctrl : CtrlId) (cqid : Nat) (s : State) : Result :=
  let s := s.begin
  .next (match (s.ctrl? ctrl).bind (fun c => c.cqs.find cqid) with
    | some q => if cqFull q then s.wr F.NVQ_EVT_CQ_STALL 1 else s
    | none => s)

/-- INTERRUPT_COALESCE_TIMER (R350). -/
def execInterruptCoalesceTimer (ctrl : CtrlId) (vector : Nat) (s : State) : Result := .next (sendVector ctrl vector s.begin)

/-! ### Queue commands (R330, R335, R355) -/

/-- The bits of CDW10 that a queue command names its queue with. -/
def qidOf (k : Cmd) : Nat := bits (k.dw 10) 0 16
def qsizeOf (k : Cmd) : Nat := bits (k.dw 10) 16 16

/-- DELETE_IO_SQ (R355): fetched commands not admitted complete with 0x08; the Delete completes last. -/
def execDeleteIoSq (slot : SlotNo) (s : State) : Result :=
  .next (withCmd slot.val (fun k => k.isAdmin 0x00) (fun k c s =>
    let q := qidOf k
    match c.sqs.find q with
    | none => finishCmd slot.val 0x101 0 0 s
    | some x =>
      if q = 0 ∨ x.deleting.isSome = true then finishCmd slot.val 0x101 0 0 s
      else
        let s := putSq k.ctrl q c { x with deleting := some slot.val, tail := x.head, buffer := [] } s
        let s := eachOf (s.nvq.slots.filter (fun e => decide (e.2.ctrl = k.ctrl ∧ e.2.sqid = q ∧ e.2.state = .fetched)))
          (fun e s => finishCmd e.1 scSqDeleted 0 0 s) s
        deleteNote k.ctrl q s) s.begin)

/-- I/O queue pairs that a controller has created (R359). -/
def queuePairs (c : Ctrl) : Nat := (c.sqs.filter (fun e => decide (e.1 ≠ 0))).length

/-- CREATE_IO_SQ (R330, R335): PC must be 1. -/
def execCreateIoSq (slot : SlotNo) (s : State) : Result :=
  .next (withCmd slot.val (fun k => k.isAdmin 0x01) (fun k c s =>
    let q := qidOf k
    let cq := bits (k.dw 11) 16 16
    if cq = 0 ∨ (c.cqs.find cq).isNone = true then finishCmd slot.val 0x100 0 0 s
    else if q = 0 ∨ c.qpairs < q ∨ (c.sqs.find q).isSome = true then finishCmd slot.val 0x101 0 0 s
    else if qsizeOf k = 0 ∨ 0x3FFF < qsizeOf k then finishCmd slot.val 0x102 0 0 s
    else if bitOf (k.dw 11) 0 = false then finishCmd slot.val scInvalidField 0 0 s
    else finishCmd slot.val scOk 0 0
      (putSq k.ctrl q c { size := qsizeOf k + 1, cqid := cq, prio := bits (k.dw 11) 1 2 } s)) s.begin)

/-- DELETE_IO_CQ (R330): Invalid Queue Deletion while an SQ uses it. -/
def execDeleteIoCq (slot : SlotNo) (s : State) : Result :=
  .next (withCmd slot.val (fun k => k.isAdmin 0x04) (fun k c s =>
    let q := qidOf k
    if q = 0 ∨ (c.cqs.find q).isNone = true then finishCmd slot.val 0x101 0 0 s
    else if c.sqs.any (fun e => decide (e.1 ≠ 0 ∧ e.2.cqid = q)) then finishCmd slot.val 0x10C 0 0 s
    else finishCmd slot.val scOk 0 0 (s.putCtrl k.ctrl { c with cqs := c.cqs.del q })) s.begin)

/-- CREATE_IO_CQ (R330, R335, R349): PC must be 1. -/
def execCreateIoCq (slot : SlotNo) (s : State) : Result :=
  .next (withCmd slot.val (fun k => k.isAdmin 0x05) (fun k c s =>
    let q := qidOf k
    let v := bits (k.dw 11) 16 16
    if q = 0 ∨ c.qpairs < q ∨ (c.cqs.find q).isSome = true then finishCmd slot.val 0x101 0 0 s
    else if qsizeOf k = 0 ∨ 0x3FFF < qsizeOf k then finishCmd slot.val 0x102 0 0 s
    else if bitOf (k.dw 11) 0 = false then finishCmd slot.val scInvalidField 0 0 s
    else if c.vectors ≤ v then finishCmd slot.val 0x108 0 0 s
    else finishCmd slot.val scOk 0 0
      (putCq k.ctrl q c { size := qsizeOf k + 1, vector := v, ien := bitOf (k.dw 11) 1 } s)) s.begin)

/-- ABORT (R347): a command fetched and not admitted ends; up to 8 Aborts are outstanding. -/
def execAbort (slot : SlotNo) (s : State) : Result :=
  .next (withCmd slot.val (fun k => k.isAdmin 0x08) (fun k _ s =>
    let busy := s.nvq.slots.filter (fun e => decide (e.2.ctrl = k.ctrl ∧ e.2.state ≠ .finished) && e.2.isAdmin 0x08)
    if 8 < busy.length then finishCmd slot.val 0x103 0 0 s
    else
      match s.nvq.slots.find? (fun e => decide (e.2.ctrl = k.ctrl ∧ e.2.sqid = bits (k.dw 10) 0 16 ∧
          e.2.sqe.cid.toNat = bits (k.dw 10) 16 16 ∧ e.2.state = .fetched)) with
      | some e => finishCmd slot.val scOk 0 0 (finishCmd e.1 scAborted 0 0 s)
      | none => finishCmd slot.val scOk 1 0 s) s.begin)

/-! ### Lost-completion records (R379 to R383) -/

/-- Entries that all records hold (R391). -/
def lcrEntries (s : State) : Nat := s.nvq.lcr.foldl (fun a r => a + r.entries.length) 0

/-- The life time of the oldest entry of all: each record holds its entries in the order of their events. -/
def lcrOldest (l : List LostRecord) : Option Nat :=
  (l.filterMap (fun r => r.entries.head?.map LostEntry.time)).foldl (fun (m : Option Nat) t => some (m.elim t (min t))) none

/-- Drop the oldest entry of all (R380). -/
def lcrDropOldest (t : Nat) (l : List LostRecord) : List LostRecord :=
  match l with
  | [] => []
  | r :: rest =>
    if r.entries.head?.any (fun e => decide (e.time = t)) then { r with entries := r.entries.drop 1, overflow := true } :: rest
    else r :: lcrDropOldest t rest

/-- Keep the records within 65,536 entries in all. -/
def lcrTrim (fuel : Nat) (s : State) : State :=
  match fuel with
  | 0 => s
  | fuel + 1 =>
    if lcrEntries s ≤ 65536 then s
    else lcrTrim fuel ({ s with nvq := { s.nvq with lcr := lcrDropOldest ((lcrOldest s.nvq.lcr).getD 0) s.nvq.lcr } }.wr F.NVQ_LCR_STAT_OVERFLOW 1)

/-- Create or extend the record of a host key: its newest event restarts its lifetime (R379, R380). -/
def lcrAdd (key : HostKey) (cause : Nat) (es : List LostEntry) (s : State) : State :=
  let old := lcrOf s key
  let all := (old.map LostRecord.entries).getD [] ++ es.map (fun e => { e with time := s.life.now })
  let cut := all.length - 16384
  let r : LostRecord := { key := key, cause := cause, time := s.life.now,
                          life := (old.map LostRecord.life).getD (s.rd F.NVQ_LCR_CTL_LIFE),
                          overflow := (old.any LostRecord.overflow) || decide (0 < cut), entries := all.drop cut }
  let s := if cut = 0 then s else s.wr F.NVQ_LCR_STAT_OVERFLOW 1
  lcrTrim es.length { s with nvq := { s.nvq with lcr := s.nvq.lcr.filter (fun x => decide (x.key ≠ key)) ++ [r] } }

/-- The entry of a command (R383). -/
def lcrEntry (n : Nat) (k : Cmd) (ended : Bool) (status : Nat) : LostEntry :=
  let blocks := !k.admin && decide (k.opc ∈ [0x01, 0x02, 0x05, 0x08, 0x0C, 0x7D])
  { slot := n, ctrl := k.ctrl, sqid := k.sqid, cid := k.sqe.cid.toNat, opc := k.opc, nsid := k.nsid, ended := ended,
    changed := k.changed && decide (status = 0), status := status, dw0 := if ended then k.dw0 else 0,
    dw1 := if ended then k.dw1 else 0, slba := if blocks then k.slba else 0, nlb := if blocks then k.nlb - 1 else 0 }

/-- What a reset does with a command in a slot (R374): it runs on, or it is cancelled. Whether the data of a write is all in
the device when host memory is out of reach is a free value. -/
def runsOn (k : Cmd) (reach dataIn : Bool) : Bool :=
  if k.admin then decide (k.opc ∈ [0x0D, 0x15, 0x80, 0x84, 0x10, 0x11, 0x09])
  else if k.opc = 0x01 ∨ k.opc = 0x7D ∨ k.opc = 0x09 ∨ k.opc = 0x19 then reach || dataIn || k.waits
  else if k.opc = 0x08 ∨ k.opc = 0x79 ∨ k.opc = 0x0D ∨ k.opc = 0x0E ∨ k.opc = 0x11 ∨ k.opc = 0x15 then true
  else decide (k.opc = 0x00 ∧ k.state = .admitted)

/-- Resolve the commands of a controller that is reset: their entries (R374, R379). -/
def resetSlots (cid : Nat) (reach : Bool) (s : State) : List LostEntry × State :=
  (ctrlSlots s cid).foldl (fun (a : List LostEntry × State) e =>
    let (l, s) := a
    if e.2.lostKey then (l, s)
    else if e.2.state = .finished then (l ++ [lcrEntry e.1 e.2 true e.2.status], freeSlotOf e.1 s)
    else
      let dataIn := decide (s.draw 2 = 1)
      let s := s.drawn
      if runsOn e.2 reach dataIn then (l ++ [lcrEntry e.1 e.2 false 0], s.putSlot e.1 { e.2 with lostKey := true })
      else (l ++ [lcrEntry e.1 e.2 true scNotExecuted], freeSlotOf e.1 s)) ([], s)

/-- What NVMECTL gives a controller's function: the record in force at the start of the reset (R51, R335); RES scaled so
that all sum to at most 8,192 (R337). -/
def budgetOf (s : State) (c : Ctrl) : Ctrl :=
  match c.port with
  | .eth _ => c
  | .pcie l =>
    match s.image.nvmectl.ctrls.find? (fun b => decide (b.link = l.val ∧ b.func = c.func)) with
    | none => { c with res := 0, qpairs := 1024, vectors := if c.func < 4 then 2048 else 128, mdts := 11 }
    | some b => { c with res := resScaled s.image.nvmectl b.res, qpairs := b.qpairs, mdts := b.mdts,
                         vectors := if c.func < 4 then b.vectors else min 128 b.vectors }

/-- A controller is reset (R373, R374, R379): its queued commands are discarded, the others resolved and entered, its queues
and feature values are gone. -/
def ctrlReset (cid cause : Nat) (reach : Bool) (s : State) : State :=
  match s.ctrl? cid with
  | none => s
  | some c =>
    let (es, s) := resetSlots cid reach s
    let s := lcrAdd (hostKeyOf c) cause es s
    match s.ctrl? cid with
    | none => s
    | some c =>
      let c := budgetOf s c
      s.putCtrl cid { c with enabled := false, resetting := true, sqs := [], cqs := [], feats := [], ps := 0, apst := [], aers := [],
                             events := [], changedNs := [], cc := 0, kato := 0, anaCount := 0,
                             hostId := if c.fabric then c.hostId else 0,
                             vecs := c.vecs.map (fun e => (e.1, (0, e.2.2))) }

/-- A command that changes contents (R366 "Write"). -/
def Cmd.writes (k : Cmd) : Bool := !k.admin && decide (k.opc ∈ [0x01, 0x7D, 0x19, 0x08, 0x09, 0x79])

/-- Every write of a reset controller has committed or been discarded (R374). -/
def writesOver (s : State) (cid : Nat) : Bool :=
  (ctrlSlots s cid).all (fun e => !(e.2.writes && e.2.lostKey && decide (e.2.state ≠ .finished)))

/-- Every command that ran on after the reset has ended: what is left of a fabric controller goes then (R374, R379). -/
def runsOver (s : State) (cid : Nat) : Bool :=
  (ctrlSlots s cid).all (fun e => decide (e.2.state = .finished))

/-- A normal shutdown is over: no command left and every Completed write durable (R374). -/
def shutdownOver (s : State) (cid : Nat) : Bool :=
  let d := Tab.get ([], 0) s.nvq.ctrlDone cid
  (ctrlSlots s cid).all (fun e => e.2.isAdmin 0x0C || e.2.lostKey) && d.1.all (fun u => decide (u ∉ s.nvq.done)) &&
    decide (d.2 ≤ durableJseq s)

/-- CC_EN_CLEAR (R373, R374). -/
def execCcEnClear (ctrl : CtrlId) (s : State) : Result :=
  let s := s.begin
  .next (match s.ctrl? ctrl with
    | none => s
    | some c => if c.enabled then ctrlReset ctrl 1 true s else s)

/-- The commands whose durability a shutdown asks for (R374): the device programs what is left, as for a Flush. -/
def shutdownBegin (cid : Nat) (s : State) : State :=
  match s.ctrl? cid with
  | none => s
  | some c => s.putCtrl cid { c with shst := 1 }

/-- NORMAL_SHUTDOWN (R374): commands finish with their completions posted, then Completed writes become durable. -/
def execNormalShutdown (ctrl : CtrlId) (s : State) : Result :=
  let s := s.begin
  .next (match s.ctrl? ctrl with
    | none => s
    | some c => if c.enabled then shutdownBegin ctrl s else s)

/-- ABRUPT_SHUTDOWN (R374): as CC.EN cleared. -/
def execAbruptShutdown (ctrl : CtrlId) (s : State) : Result :=
  let s := s.begin
  .next (match s.ctrl? ctrl with
    | none => s
    | some c => if c.enabled then shutdownBegin ctrl (ctrlReset ctrl 1 true s) else s)

/-- CONTROLLER_RESET_DONE (R374): CSTS.RDY reads 0, or SHST reads 0b10 after a shutdown; a fabric controller is gone. -/
def execControllerResetDone (ctrl : CtrlId) (s : State) : Result :=
  let s := s.begin
  .next (match s.ctrl? ctrl with
    | none => s
    | some c =>
      if c.resetting then
        (if writesOver s ctrl = false then s
         else if c.fabric || c.gone then if runsOver s ctrl = false then s else { s with nvq := { s.nvq with ctrls := s.nvq.ctrls.del ctrl } }
         else if c.shst = 1 then s.putCtrl ctrl { c with resetting := false, shst := 2 }
         else s.putCtrl ctrl { c with resetting := false, rdy := false, shst := 0 })
      else if c.shst = 1 ∧ shutdownOver s ctrl = true then s.putCtrl ctrl { c with shst := 2 }
      else s)

/-- At a host key's first enable or connect within 24 h of the start the ranges lost in the previous power-on period arm a report (R388). -/
def armBoot (cid : Nat) (s : State) : State :=
  match s.ctrl? cid with
  | none => s
  | some c =>
    let k := hostKeyOf c
    if k ∈ s.nvq.bootKeys ∨ (s.boot.records.headD { startNo := 0 }).time + 86400 < s.life.now then s
    else
      let ns := c.attach.filter (fun n => decide (n ∈ s.nvq.bootLost))
      let l := ns.foldl (fun l n =>
        let r := s.map.core.lost.filterMap (fun x => match tractOwner s x.ltn with
          | some (m, t) => if m = n then some (t * (tractBytes s / 512) + x.off) else none
          | none => none)
        match r with
        | [] => l
        | x :: y => armReport k n r.length (y.foldl min x) l) s.nvq.deferP
      { s with nvq := { s.nvq with bootKeys := k :: s.nvq.bootKeys, deferP := l } }

/-- A controller that is enabled holds state 0: Fallow is left, at once or when its entry ends (R352, R378). -/
def enableWake (s : State) : State :=
  if s.nvq.fallow = 0 then s
  else { s with nvq := { s.nvq with wake := true, fallow := if s.nvq.fallow = 2 then 3 else s.nvq.fallow } }

/-- CC.EN is set (R336, R342): the admin queues take AQA's sizes; an arbitration mechanism or page size that CAP does not
offer is a fatal status. -/
def ctrlEnable (cid cc aqa : Nat) (s : State) : State :=
  match s.ctrl? cid with
  | none => s
  | some c =>
    if c.enabled = true ∨ c.resetting = true ∨ c.fabric = true ∨ s.boot.done = false then s
    else if 1 < bits cc 11 3 ∨ 4 < bits cc 7 4 then s.putCtrl cid { c with cc := cc, cfs := true }
    else
      let c := { c with enabled := true, rdy := true, cfs := false, shst := 0, cc := cc, aqa := aqa,
                        sqs := [(0, { size := bits aqa 0 12 + 1 })], cqs := [(0, { size := bits aqa 16 12 + 1 })] }
      lcrNotice cid (armBoot cid (enableWake (s.putCtrl cid c)))

/-- CC_EN_SET (R336). -/
def execCcEnSet (ctrl : CtrlId) (cc aqa : Word) (s : State) : Result :=
  .next (ctrlEnable ctrl cc.toNat aqa.toNat s.begin)

/-- LOST_COMPLETION_ENTRY_END (R379): a command that ran on after the reset has ended: its entry takes its status. -/
def execLostCompletionEntryEnd (key : HostKey) (index endMs : Nat) (s : State) : Result :=
  let s := s.begin
  .next (match (lcrOf s key).bind (fun r => r.entries[index]?) with
    | none => s
    | some e =>
      match s.slot? e.slot with
      | none => s
      | some k =>
        if e.ended = true ∨ k.lostKey = false ∨ k.state ≠ .finished then s
        else
          let e := { lcrEntry e.slot k true k.status with endMs := endMs, time := e.time }
          let s := { s with nvq := { s.nvq with lcr := s.nvq.lcr.map (fun r =>
            if r.key = key then { r with entries := r.entries.set index e } else r) } }
          lcrOffer key (freeSlotOf e.slot (noteDone k s)))

/-- LOST_COMPLETION_EXPIRY (R380). -/
def execLostCompletionExpiry (key : HostKey) (s : State) : Result :=
  let s := s.begin
  .next { s with nvq := { s.nvq with lcr := s.nvq.lcr.filter (fun r => decide (r.key ≠ key)) } }

/-! ### ANA states (R353) -/

/-- A controller's ANA state changes: a notice on it where its log changed. -/
def setAna (cid st : Nat) (s : State) : State :=
  match s.ctrl? cid with
  | none => s
  | some c => if c.ana = st then s else aenPost cid 2 0x03 0x0C (s.putCtrl cid { c with ana := st, anaCount := c.anaCount + 1 })

/-- The controllers of a host port. -/
def portCtrls (s : State) (p : HostPort) : List Nat := (s.nvq.ctrls.filter (fun e => decide (e.2.port = p))).map Prod.fst

/-- The number that a host port has among the ports. -/
def portNo (p : HostPort) : Nat := match p with | .pcie l => l.val | .eth lp => 8 + lp.val

/-- The state of a port (R353): Inaccessible without link, Change, Optimized at the configured width and rate, else
Non-optimized. -/
def portAna (s : State) (p : HostPort) : Nat :=
  let up := match p with
    | .pcie l => s.isSet F.HIF_LINK_STAT_UP l.val
    | .eth l => s.isSet F.FAB_PORT_STAT_UP l.val
  let full := match p with
    | .pcie l => decide (s.rd F.HIF_LINK_STAT_WIDTH l.val = (if l.val % 2 = 1 ∨ l.val / 2 ∈ s.image.hostfn.split then 8 else 16) ∧
        s.rd F.HIF_LINK_STAT_SPEED l.val = 6)
    | .eth _ => true
  if up = false then 3 else if portNo p ∈ s.nvq.changing then 15 else if full then 1 else 2

/-- Every controller of a port takes the port's state. -/
def portFollow (p : HostPort) (s : State) : State := eachOf (portCtrls s p) (fun c s => setAna c (portAna s p) s) s

/-- A port's link returns: Change (R353). A link that comes up before the controllers exist returns from nothing. -/
def portChange (p : HostPort) (s : State) : State :=
  portFollow p (if s.boot.done then { s with nvq := { s.nvq with changing := addNew (portNo p) s.nvq.changing } } else s)

/-- A port's Change is over: its link has gone, or 10 s have passed. -/
def portSettle (p : HostPort) (s : State) : State :=
  portFollow p { s with nvq := { s.nvq with changing := dropOne (portNo p) s.nvq.changing } }

/-- ANA_CHANGE_TIMEOUT (R353): 10 s after the port's link returns, Change ends. -/
def execAnaChangeTimeout (port : HostPort) (s : State) : Result := .next (portSettle port s.begin)

end Sys2Proof.Machine
end

