-- ==== Sys2Proof/Machine/CtrlRegs.lean ====
section
/-! DEFINITION. NVMe controller properties, as BAR0 of a function and Property Get and Set reach them (R336, R450). -/

namespace Sys2Proof.Machine

open Sys2Proof

/-- CAP (R336, R450): MQES, CQR, AMS, TO, CSS bits 0 and 6, MPSMAX. -/
def capValue (fabric : Bool) : Nat :=
  (if fabric then 0x03FF else 0x3FFF) + 2 ^ 16 + 2 ^ 17 + 0x14 * 2 ^ 24 + 2 ^ 37 + 2 ^ 43 + 4 * 2 ^ 52

/-- VS: NVMe 2.0. -/
def vsValue : Nat := 0x00020000

/-- CSTS: RDY, CFS, SHST, PP (R336, R374, R375). -/
def cstsValue (c : Ctrl) : Nat := b2n c.rdy + 2 * b2n c.cfs + 4 * (c.shst % 4) + 32 * b2n c.pp

/-- A property of a controller by its offset; 0 where the controller has none there. -/
def propValue (c : Ctrl) (off : Nat) : Nat :=
  if off = 0x00 then capValue c.fabric else if off = 0x08 then vsValue
  else if off = 0x14 then c.cc else if off = 0x1C then cstsValue c else if off = 0x24 then c.aqa else 0

/-- A fabric controller is enabled: its admin queue is the one connected (R450). -/
def fabricEnable (cid cc : Nat) (s : State) : State :=
  match s.ctrl? cid with
  | none => s
  | some c =>
    if c.enabled = true ∨ c.resetting = true then s
    else lcrNotice cid (armBoot cid (enableWake (s.putCtrl cid { c with enabled := true, rdy := true, cfs := false, shst := 0, cc := cc })))

/-- A write of CC (R336, R373): EN and SHN act on their changes. -/
def ccWrite (cid v : Nat) (s : State) : State :=
  match s.ctrl? cid with
  | none => s
  | some c =>
    let en := bitOf v 0
    if en = true ∧ bitOf c.cc 0 = false then
      (if c.fabric then fabricEnable cid v s else ctrlEnable cid v c.aqa s)
    else if en = false ∧ bitOf c.cc 0 = true then (if c.enabled then ctrlReset cid 1 true s else s.putCtrl cid { c with cc := v })
    else
      let shn := bits v 14 2
      let s := s.putCtrl cid { c with cc := v }
      if c.enabled = false ∨ shn = bits c.cc 14 2 then s
      else if shn = 1 then shutdownBegin cid s
      else if shn = 2 then shutdownBegin cid (ctrlReset cid 1 true s)
      else s

end Sys2Proof.Machine
end

