-- ==== Sys2Proof/Machine/Dma.lean ====
section
/-! DEFINITION. The DMA channels (chapter "DMA engines"): rings, pacing, transfers, bus errors and halts. -/

namespace Sys2Proof.Machine

open Sys2Proof

/-- STATE of a channel (R517). -/
def dmaState (s : State) (c : Nat) : Nat := s.rd F.DMA_CH_STAT_STATE c

def dmaSetState (c v : Nat) (s : State) : State := s.wr F.DMA_CH_STAT_STATE v c

/-- A host channel (R507). -/
def dmaHost (c : Nat) : Bool := decide (c < 64)

/-- Slots of a channel's ring (R508). -/
def dmaSlots (s : State) (c : Nat) : Nat := 2 ^ s.rd F.DMA_CH_CFG_SIZE_LOG2 c

/-- Mere address of a ring slot (R508, R516). -/
def dmaSlotAddr (s : State) (c k : Nat) : Nat := s.rd F.DMA_RING_BASE_ADDR c * 64 + 64 * k

/-- The bytes of a ring slot in the Mere (R509); a region never written reads as zeros (R308). -/
def ringWord (s : State) (a : Nat) : Nat := memLoad s.mere.mem a 64

/-- The controller is on the channel's binding (R507). -/
def dmaBound (s : State) (c cntlid : Nat) : Bool :=
  match s.image.engine.chans.find? (fun r => r.chan = c), s.ctrl? cntlid with
  | some r, some t =>
    (match t.port with
     | .pcie l => !r.eth && decide (r.port = l.val)
     | .eth lp => r.eth && decide (r.port = lp.val))
  | _, _ => false

/-- The descriptor that 64 bytes hold (R509). -/
def dmaParse (w : Nat) : DmaJob :=
  { op := bits w 0 8, ctl := bits w 8 8, cls := bits w 16 8, len := bits w 32 32, src := bits w 64 64, dst := bits w 128 64,
    dst2 := bits w 192 64, cntlid := bits w 256 16 }

/-- Reserved fields of a descriptor are 0 (R509): byte 3, CTL [7:6], bytes 34–35 and 44–47. -/
def dmaReservedOk (w : Nat) : Bool :=
  decide (bits w 24 8 = 0 ∧ bits w 14 2 = 0 ∧ bits w 272 16 = 0 ∧ bits w 352 32 = 0)

/-- BAD_DESC (R510). -/
def dmaBad (s : State) (c w : Nat) : Bool :=
  let d := dmaParse w
  !dmaReservedOk w || decide (d.op = 0 ∨ 3 < d.op) || decide (d.len = 0 ∨ 8388608 < d.len) ||
    (dmaHost c != decide (d.op ≠ 3)) || (bitOf d.ctl 1 && decide (d.op ≠ 1)) ||
    (bitOf d.ctl 2 && !(bitOf d.ctl 1) && decide (mereStack d.dst = mereStack d.dst2)) ||
    (dmaHost c && !dmaBound s c d.cntlid)

/-- Write back bytes 48–63 of a slot with OWN clear (R509, R224); END_TIME is the device microsecond clock's. -/
def dmaWriteBack (c slot status retries doneLen : Nat) (s : State) : State :=
  let a := dmaSlotAddr s c slot
  let v := status + 2 ^ 16 * min 255 retries + 2 ^ 32 * doneLen + 2 ^ 64 * s.draw (2 ^ 32)
  if mereOk s a then (writeWordAt (a + 32) none 16 16 v s).2.drawn else s.drawn

/-- A link credit reaches channel d (R511): held up to 255, beyond that discarded, counted and logged. -/
def dmaCredit (d : Nat) (s : State) : State :=
  let n := s.rd F.DMA_RING_HEAD_LINK_CNT d
  if n < 255 then s.wr F.DMA_RING_HEAD_LINK_CNT (n + 1) d
  else peatRecord 0x7001 d 0 0 (s.count F.DMA_CNT_LOST_COUNT 1 d)

/-- A waiting descriptor takes its credit, then waits for its tick or runs (R511). -/
def dmaTryStart (c : Nat) (s : State) : State :=
  match s.dma.jobs.find c with
  | none => s
  | some j =>
    if j.waitLink then
      let n := s.rd F.DMA_RING_HEAD_LINK_CNT c
      if n = 0 then dmaSetState c 3 s
      else
        let s := s.wr F.DMA_RING_HEAD_LINK_CNT (n - 1) c
        let s := { s with dma := { s.dma with jobs := s.dma.jobs.put c { j with waitLink := false } } }
        dmaSetState c (if j.waitTick then 3 else 2) s
    else dmaSetState c (if j.waitTick then 3 else 2) s

/-- Every channel that names `c` as LINK_SRC gets a credit (R511). -/
def dmaSignal (c : Nat) (s : State) : State :=
  eachOf ((List.range 96).filter (fun d => s.rd F.DMA_CH_CFG_LINK_SRC d = c)) (fun d s =>
    let s := dmaCredit d s
    if dmaState s d = 3 then dmaTryStart d s else s) s

/-- Set a channel's bit in DMA_DONE or DMA_HALT (R518). -/
def dmaBit (f : Field) (c : Nat) (s : State) : State := s.wrBit f (c % 32) true (c / 32)

/-- A descriptor ends: written back, its completion bit and its link credits (R508, R509, R511). -/
def dmaEnd (c slot status : Nat) (j : DmaJob) (s : State) : State :=
  let s := dmaWriteBack c slot status j.retries j.done s
  let s := if bitOf j.ctl 0 then dmaBit F.DMA_DONE_DONE c s else s
  let s := { s with dma := { s.dma with jobs := s.dma.jobs.del c, errs := s.dma.errs.del c } }
  let s := (s.wr F.DMA_CH_STAT_ATTEMPTS 0 c)
  if bitOf j.ctl 5 then dmaSignal c s else s

/-- Fetch at HEAD (R508, R224): nothing while disabled or with HEAD = TAIL; a slot whose OWN is 0 stops the channel; a
BAD_DESC descriptor is written back and the next slot fetched. -/
def dmaFetch (fuel c : Nat) (s : State) : State :=
  match fuel with
  | 0 => s
  | fuel + 1 =>
    if s.isSet F.DMA_CH_CFG_ENABLE c = false then dmaSetState c 0 s
    else
      let h := s.rd F.DMA_RING_HEAD_HEAD c
      if h = s.rd F.DMA_RING_TAIL_TAIL c then dmaSetState c 1 s
      else
        let w := ringWord s (dmaSlotAddr s c h)
        if bitOf w 511 = false then dmaSetState c 6 s
        else
          let s := (s.wr F.DMA_RING_HEAD_HEAD ((h + 1) % dmaSlots s c) c).wr F.DMA_CH_STAT_SLOT h c
          let j := dmaParse w
          if dmaBad s c w then dmaFetch fuel c (dmaEnd c h 1 j s)
          else
            let j := { j with waitTick := bitOf j.ctl 3, waitLink := bitOf j.ctl 4 }
            dmaTryStart c { s with dma := { s.dma with jobs := s.dma.jobs.put c j } }

/-- The channel goes on with its next slot. -/
def dmaNext (c : Nat) (s : State) : State := dmaFetch 4096 c s

/-- Complete the running descriptor with a status and go on (R508). -/
def dmaComplete (c status : Nat) (s : State) : State :=
  match s.dma.jobs.find c with
  | none => s
  | some j => dmaNext c (dmaEnd c (s.rd F.DMA_CH_STAT_SLOT c) status j s)

/-- The host's write data does not come (R430): a command of the controller that waits for it completes with Data Transfer
Error and nothing of it commits. Which of several it is, the descriptor's data alone says: a free value. -/
def failTransfer (cid : Nat) (s : State) : State :=
  let l := s.nvq.slots.filter (fun e => decide (e.2.ctrl = cid ∧ e.2.state = .admitted ∧ e.2.waits = false ∧ e.2.sqid ≠ 0 ∧
    e.2.sqe.opc.toNat ∈ [0x01, 0x05, 0x7D]))
  match l[s.draw l.length]? with
  | none => s
  | some e => finishCmd e.1 0x04 0 0 s.drawn

/-- Halt (R513): the lowest failing address and its direction, side and cause are latched. -/
def dmaHaltNow (c : Nat) (e : DmaError) (s : State) : State :=
  let s := ((s.wr F.DMA_ERR_ADDR_LO_ADDR_LO (e.addr.toNat % 2 ^ 32) c).wr F.DMA_ERR_ADDR_HI_ADDR_HI (e.addr.toNat / 2 ^ 32) c)
  let s := ((s.wrB F.DMA_ERR_INFO_DIR e.writes c).wrB F.DMA_ERR_INFO_HOST e.host c).wr F.DMA_ERR_INFO_CAUSE e.cause.val c
  let id := match s.dma.jobs.find c with | some j => if dmaHost c then j.cntlid - 1 else 0 | none => 0
  let s := dmaBit F.DMA_HALT_HALT c (dmaSetState c 5 (s.wr F.DMA_ERR_INFO_CNTLID id c))
  match s.dma.jobs.find c with
  | some j => if dmaHost c ∧ e.host = true ∧ e.writes = false then failTransfer j.cntlid s else s
  | none => s

/-- A bus error stops the descriptor (R512, R513): in retry mode with attempts left the channel waits 10 µs, else it
halts. -/
def dmaError (c : Nat) (e : DmaError) (s : State) : State :=
  match s.dma.jobs.find c with
  | none => s
  | some j =>
    let s := s.count F.DMA_CNT_ERR_COUNT 1 c
    let s := { s with dma := { s.dma with jobs := s.dma.jobs.put c { j with done := min j.len (max j.done e.doneLen) },
                                          errs := s.dma.errs.put c e } }
    if s.isSet F.DMA_CH_CFG_MODE c ∧ s.rd F.DMA_CH_STAT_ATTEMPTS c < s.rd F.DMA_CH_CFG_RETRY_MAX c then dmaSetState c 4 s
    else dmaHaltNow c e s

/-- The transfer of a running descriptor of operation `op` (R509): `f` moves the bytes from DONE_LEN on. -/
def dmaRun (c op : Nat) (f : DmaJob → State → Option DmaError × State) (s : State) : State :=
  match s.dma.jobs.find c with
  | none => s
  | some j =>
    if dmaState s c = 2 ∧ j.op = op then
      match f j s with
      | (some e, s) => dmaError c e s
      | (none, s) =>
        dmaComplete c 0 { s with dma := { s.dma with jobs := s.dma.jobs.put c { j with done := j.len } } }
    else s

/-- A Mere-side error of a descriptor (R512 causes 5 to 7). -/
def mereError (writes : Bool) (cause : Fin 8) (addr doneLen : Nat) : DmaError :=
  { writes := writes, host := false, cause := cause, addr := BitVec.ofNat 64 addr, doneLen := doneLen }

/-- Store the rest of a descriptor's data at DST and DST2 (R509, R512, R513). -/
def dmaStore (j : DmaJob) (v : Nat) (s : State) : Option DmaError × State :=
  let n := j.len - j.done
  let mirror := bitOf j.ctl 2
  if mereRangeOk s (j.dst + j.done) n = false then
    (some (mereError true 5 (firstBad s (j.dst + j.done)) (firstBad s (j.dst + j.done) - j.dst)), s)
  else if mirror ∧ mereRangeOk s (j.dst2 + j.done) n = false then
    (some (mereError true 5 (firstBad s (j.dst2 + j.done)) (firstBad s (j.dst2 + j.done) - j.dst2)), s)
  else
    let (p, s) := mereStore (j.dst + j.done) (if mirror then some (j.dst2 + j.done) else none) n v s
    (if p then some (mereError true 7 (j.dst + j.done) j.done) else none, s)

/-- Load the rest of a descriptor's data from its Mere source (R512 causes 5 and 6). -/
def dmaLoad (j : DmaJob) (s : State) : (Option DmaError × Nat) × State :=
  let n := j.len - j.done
  if mereRangeOk s (j.src + j.done) n = false then
    ((some (mereError false 5 (firstBad s (j.src + j.done)) (firstBad s (j.src + j.done) - j.src)), 0), s)
  else
    let (r, s) := mereFetch (j.src + j.done) none n s
    ((if r.2 then some (mereError false 6 (j.src + j.done) j.done) else none, r.1), s)

/-- Complete with HOST_GONE every host descriptor whose controller a test accepts (R510, R514, R515). -/
def dmaHostGone (p : Nat → Bool) (s : State) : State :=
  eachOf (s.dma.jobs.filter (fun e => dmaHost e.1 && p e.2.cntlid)) (fun e => dmaComplete e.1 3) s

/-- The power-fail decision: every channel stops, its fetched descriptor abandoned (R515). -/
def dmaAbandon (s : State) : State :=
  eachOf (s.dma.jobs.map Prod.fst) (fun c s => dmaSetState c 0 s)
    { s with dma := { jobs := [], errs := [] } }

/-- DMA_RING_TAIL_WRITE (R508): the tail is recorded; a channel that is idle or stopped fetches. -/
def execDmaRingTailWrite (_path : AccessPath) (chan : Fin 96) (tail : Word) (s : State) : Result :=
  let s := s.begin.wr F.DMA_RING_TAIL_TAIL tail.toNat chan.val
  .next (if (s.dma.jobs.find chan.val).isSome then s else dmaNext chan.val s)

/-- A host transfer within the MERE_CEIL of its descriptor's class, which counts it; one that would exceed it waits for the next period, its channel as it
was (R400). A channel that serves no host transfer of this kind does nothing. -/
def hostRun (c op : Nat) (f : DmaJob → State → Option DmaError × State) (s : State) : State :=
  match s.dma.jobs.find c with
  | none => s
  | some j =>
    if dmaState s c = 2 ∧ j.op = op then
      if mereFits s j.cls (j.len - j.done) then dmaRun c op f (chargeMere j.cls (j.len - j.done) s) else s
    else s

/-- HOST_TO_MERE (R509): the host's `data` for the descriptor; a STREAM descriptor feeds its cipher request. -/
def execHostToMere (chan : Fin 96) (data : Nat) (s : State) : Result :=
  .next (hostRun chan.val 1 (fun j s =>
    if bitOf j.ctl 1 then (none, { s with cip := { s.cip with stream := s.cip.stream.put chan.val (data % 2 ^ (8 * j.len)) } })
    else dmaStore j (data / 2 ^ (8 * j.done)) s) s.begin)

/-- MERE_TO_HOST (R509). -/
def execMereToHost (chan : Fin 96) (s : State) : Result :=
  .next (hostRun chan.val 2 (fun j s =>
    match dmaLoad j s with
    | ((some e, _), s) => (some e, s)
    | ((none, v), s) => (none, s.emit (.hostData j.cntlid chan.val [v]))) s.begin)

/-- DMA_COPY (R509). -/
def execDmaCopy (chan : Fin 96) (s : State) : Result :=
  .next (dmaRun chan.val 3 (fun j s =>
    match dmaLoad j s with
    | ((some e, _), s) => (some e, s)
    | ((none, v), s) => dmaStore j v s) s.begin)

/-- DMA_TIMER_TICK (R511): the tick of a running timer releases the descriptors that wait for it and hold their credit; it
is not kept. -/
def execDmaTimerTick (timer : Fin 16) (s : State) : Result :=
  let s := s.begin
  .next (if s.rd F.DMA_TIMER_PERIOD timer.val = 0 then s
  else
    eachOf (s.dma.jobs.filter (fun e => e.2.waitTick && !e.2.waitLink &&
        decide (s.rd F.DMA_CH_CFG_TIMER e.1 = timer.val))) (fun e s =>
      dmaSetState e.1 2 { s with dma := { s.dma with jobs := s.dma.jobs.put e.1 { e.2 with waitTick := false } } }) s)

/-- DMA_BUS_ERROR (R513): a running descriptor's request ends with a bus error. -/
def execDmaBusError (chan : Fin 96) (err : DmaError) (s : State) : Result :=
  let s := s.begin
  .next (if dmaState s chan.val = 2 ∧ err.cause.val ≠ 0 then dmaError chan.val err s else s)

/-- DMA_RETRY_WAIT (R513): 10 µs after a bus error the failing request is issued again, and succeeds or fails. -/
def execDmaRetryWait (chan : Fin 96) (ok : Bool) (s : State) : Result :=
  let s := s.begin
  let c := chan.val
  .next (match s.dma.jobs.find c, s.dma.errs.find c with
    | some j, some e =>
      if dmaState s c = 4 then
        let n := s.rd F.DMA_CH_STAT_ATTEMPTS c + 1
        let s := { s with dma := { s.dma with jobs := s.dma.jobs.put c { j with retries := min 255 (j.retries + 1) } } }
        if ok then
          dmaSetState c 2 ({ s with dma := { s.dma with errs := s.dma.errs.del c } }.wr F.DMA_CH_STAT_ATTEMPTS 0 c)
        else
          let s := (s.wr F.DMA_CH_STAT_ATTEMPTS n c).count F.DMA_CNT_ERR_COUNT 1 c
          if n < s.rd F.DMA_CH_CFG_RETRY_MAX c then s else dmaHaltNow c e s
      else s
    | _, _ => s)

/-- DMA_RESUME (R514): a halted channel issues its requests again from DONE_LEN; while not halted the write is ignored and
logged. -/
def dmaResumeOp (path : AccessPath) (c : Nat) (s : State) : State :=
  if dmaState s c = 5 then
    dmaSetState c 2 ({ s with dma := { s.dma with errs := s.dma.errs.del c } }.wr F.DMA_CH_STAT_ATTEMPTS 0 c)
  else accessViolation path (0x7000010 + 0x100 * c) s

/-- DMA_SKIP (R514). -/
def dmaSkipOp (path : AccessPath) (c : Nat) (s : State) : State :=
  if dmaState s c = 5 then dmaComplete c 2 s else accessViolation path (0x7000010 + 0x100 * c) s

/-- DMA_RESET (R514): what the channel has fetched is written back with RESET, ENABLE clears, HEAD stays. -/
def dmaResetOp (c : Nat) (s : State) : State :=
  let s := s.wr F.DMA_CH_CFG_ENABLE 0 c
  match s.dma.jobs.find c with
  | none => dmaSetState c 0 s
  | some j => dmaSetState c 0 (dmaEnd c (s.rd F.DMA_CH_STAT_SLOT c) 4 j s)

def execDmaResume (path : AccessPath) (chan : Fin 96) (s : State) : Result := .next (dmaResumeOp path chan.val s.begin)

def execDmaSkip (path : AccessPath) (chan : Fin 96) (s : State) : Result := .next (dmaSkipOp path chan.val s.begin)

def execDmaReset (_path : AccessPath) (chan : Fin 96) (s : State) : Result := .next (dmaResetOp chan.val s.begin)

/-- A write of DMA_CH_CTL (R514): one bit acts; more than one is ignored and logged. -/
def dmaCtlWrite (path : AccessPath) (c v : Nat) (s : State) : State :=
  match v % 8 with
  | 0 => s
  | 1 => dmaResumeOp path c s
  | 2 => dmaSkipOp path c s
  | 4 => dmaResetOp c s
  | _ => accessViolation path (0x7000010 + 0x100 * c) s

end Sys2Proof.Machine
end

