-- ==== Sys2Proof/Machine/PcieOps.lean ====
section
/-! DEFINITION. PCIe functions, their controllers and their resets (chapter "PCIe endpoint"). -/

namespace Sys2Proof.Machine

open Sys2Proof

/-! ### Functions (R420 to R423) -/

/-- The state of a function. -/
def funcOf (s : State) (l f : Nat) : Func := Tab.get {} s.hif.funcs (256 * l + f)

def putFunc (l f : Nat) (x : Func) (s : State) : State := { s with hif := { s.hif with funcs := Tab.set {} s.hif.funcs (256 * l + f) x } }

/-- HOSTFN's entry of a physical function; function 0 of a configured link always exists (R420). -/
def pfOf (s : State) (l f : Nat) : Option HostPf :=
  if l ∉ pcieLinks s ∨ 4 ≤ f then none
  else match s.image.hostfn.pfs.find? (fun e => decide (e.1 = 4 * l + f)) with
    | some e => some e.2
    | none => if f = 0 then some {} else none

/-- TotalVFs of a physical function. -/
def pfVfs (s : State) (l f : Nat) : Nat := ((pfOf s l f).map HostPf.vfs).getD 0

/-- The function number of a PF's first VF: VFs follow the four PF numbers, PF by PF (R420; log entry 40). -/
def vfBase (s : State) (l f : Nat) : Nat := 4 + (List.range f).foldl (fun a g => a + pfVfs s l g) 0

/-- The PF of an enabled virtual function. -/
def vfParent (s : State) (l f : Nat) : Option Nat :=
  (List.range 4).find? (fun p => (funcOf s l p).vfEnable && decide (vfBase s l p ≤ f ∧ f < vfBase s l p + (funcOf s l p).numVfs))

/-- A function exists. -/
def funcUp (s : State) (l f : Nat) : Bool := (pfOf s l f).isSome || (vfParent s l f).isSome

/-- The physical functions of a link. -/
def pfsOf (s : State) (l : Nat) : List Nat := (List.range 4).filter (fun f => (pfOf s l f).isSome)

/-- Functions enabled, VFs included (R433 FUNCS). -/
def funcsNote (l : Nat) (s : State) : State :=
  s.wr F.HIF_LINK_STAT_FUNCS ((pfsOf s l).foldl (fun a f => a + 1 + (if (funcOf s l f).vfEnable then (funcOf s l f).numVfs else 0)) 0) l

/-- A link's number as its index type. -/
def linkIx (l : Nat) : Fin 8 := ⟨l % 8, Nat.mod_lt l (by decide)⟩

/-! ### Controllers (R335, R336) -/

/-- The lowest free controller identifier, 1 to 1,024. -/
def freeCntlid (s : State) : Option Nat := (List.range 1024).map (· + 1) |>.find? (fun n => (s.ctrl? n).isNone)

/-- The controller of a function. -/
def ctrlOf (s : State) (l f : Nat) : Option Nat :=
  (s.nvq.ctrls.find? (fun e => decide (e.2.port = .pcie (linkIx l) ∧ e.2.func = f ∧ e.2.fabric = false ∧ e.2.gone = false))).map Prod.fst

/-- The namespaces that a function's controller is attached to from the start: NVMECTL's list. -/
def attachOf (s : State) (l f : Nat) : List Nat :=
  ((s.image.nvmectl.ctrls.find? (fun b => decide (b.link = l ∧ b.func = f))).map CtrlBudget.attach).getD []

/-- A function's controller comes to exist (R336, R423). -/
def createPcie (l f : Nat) (s : State) : State :=
  match ctrlOf s l f, freeCntlid s with
  | none, some n =>
    let c := budgetOf s { port := .pcie (linkIx l), func := f, attach := attachOf s l f }
    s.putCtrl n { c with ana := portAna s (.pcie (linkIx l)) }
  | _, _ => s

/-- A function's controller is gone, once the commands that run on after its reset have ended (R374). -/
def dropPcie (n : Nat) (s : State) : State :=
  match s.ctrl? n with
  | none => s
  | some c =>
    if runsOver s n then { s with nvq := { s.nvq with ctrls := s.nvq.ctrls.del n } } else s.putCtrl n { c with gone := true }

/-! ### Resets (R373, R432, R614) -/

/-- A controller is reset with host memory unreachable: its DMA descriptors complete HOST_GONE (R515). -/
def resetLost (n cause : Nat) (s : State) : State := ctrlReset n cause false (dmaHostGone (fun c => decide (c = n)) s)

/-- A partial DOE object is discarded (R428, R432). -/
def doeDrop (l : Nat) (s : State) : State := { s with hif := { s.hif with doeObj := s.hif.doeObj.del l } }

/-- One function returns to its reset state: its registers, Expert level, and on function 0 the DOE object and the SPDM
connection. Error statuses are sticky by PCIe and stay. -/
def funcClear (l f : Nat) (s : State) : State :=
  let x := funcOf s l f
  let s := putFunc l f { aerUnc := x.aerUnc, aerCor := x.aerCor } s
  let s := if f < 4 then closeExpert (4 * l + f) s else s
  let s := if f = 0 then doeDrop l s else s
  let s := match ctrlOf s l f with
    | some n => (match s.ctrl? n with
        | some c => s.putCtrl n { c with vecs := [], cfs := false, shst := 0 }
        | none => s)
    | none => s
  funcsNote l s

/-- Reset a function and its controller; a VF controller whose PF is reset is gone. -/
def funcReset (l f cause : Nat) (s : State) : State :=
  let s := match ctrlOf s l f with
    | some n => resetLost n cause s
    | none => s
  funcClear l f s

/-- The enabled VFs of a PF, by function number. -/
def vfsOf (s : State) (l f : Nat) : List Nat :=
  if (funcOf s l f).vfEnable then (List.range (funcOf s l f).numVfs).map (· + vfBase s l f) else []

/-- Every VF controller of a PF is reset (R423); the VFs end. -/
def vfsReset (l f cause : Nat) (s : State) : State :=
  let vs := vfsOf s l f
  let s := eachOf vs (fun v s => funcReset l v cause s) s
  funcsNote l (putFunc l f { (funcOf s l f) with vfEnable := false } s)

/-- Function-level reset (R432): a PF takes its VFs with it. -/
def flr (l f cause : Nat) (s : State) : State :=
  if f < 4 then funcReset l f cause (vfsReset l f cause s) else funcReset l f cause s

/-- Every function of a link is reset. -/
def linkReset (l cause : Nat) (s : State) : State := eachOf (pfsOf s l) (fun f s => flr l f cause s) s

/-! ### Error reporting (R430, R431) -/

/-- An uncorrectable error is logged on a function, by its AER status bit. -/
def aerUncorr (l f bit : Nat) (s : State) : State :=
  let x := funcOf s l f
  let s := putFunc l f { x with aerUnc := putBit x.aerUnc bit true } s
  ((s.wr F.HIF_EVT_UNCOR 1).count F.HIF_CNT_UNCOR_COUNT 1 l).emit (.aer l f bit)

/-- A correctable error is logged on a function. -/
def aerCorr (l f bit : Nat) (s : State) : State :=
  let x := funcOf s l f
  let s := putFunc l f { x with aerCor := putBit x.aerCor bit true } s
  (s.count F.HIF_CNT_CORR_COUNT 1 l).emit (.aer l f (32 + bit))

/-! ### Link state (R33, R353, R433) -/

/-- The configured width of a link (R417). -/
def linkWidth (s : State) (l : Nat) : Nat := if l % 2 = 1 ∨ l / 2 ∈ s.image.hostfn.split then 8 else 16

/-- DEGRADED: up below the configured width or rate. -/
def degradedNote (l : Nat) (s : State) : State :=
  s.wrB F.HIF_LINK_STAT_DEGRADED (s.isSet F.HIF_LINK_STAT_UP l &&
    decide (s.rd F.HIF_LINK_STAT_WIDTH l ≠ linkWidth s l ∨ s.rd F.HIF_LINK_STAT_SPEED l ≠ 6)) l

/-- A PCIe port has a link up. -/
def portUp (s : State) (p : Nat) : Bool := s.isSet F.HIF_LINK_STAT_UP (2 * p) || s.isSet F.HIF_LINK_STAT_UP (2 * p + 1)

/-- A link leaves DL_Active: its functions are reset, its controllers' paths are Inaccessible; a port left without a link is
a fault absorbed (R33, R35). -/
def linkDown (l cause : Nat) (s : State) : State :=
  if s.isSet F.HIF_LINK_STAT_UP l = false then linkReset l cause s
  else
    let was := portUp s (l / 2)
    let s := (((s.wr F.HIF_LINK_STAT_UP 0 l).wr F.HIF_LINK_STAT_WIDTH 0 l).wr F.HIF_LINK_STAT_SPEED 0 l).wr F.HIF_LINK_STAT_FLIT 0 l
    let s := (s.wr F.HIF_LINK_STAT_DEGRADED 0 l).wrBit F.HIF_EVT_LINK_DOWN l true
    let s := linkReset l cause s
    let s := portSettle (.pcie (linkIx l)) s
    if was ∧ portUp s (l / 2) = false ∧ s.boot.done = true then faultAbsorbed bitPort (l / 2) s else glbRefresh s

end Sys2Proof.Machine
end

