-- ==== Sys2Proof/Machine/FabricOps.lean ====
section
/-! DEFINITION. Fabric addresses, queue pairs and associations (chapter "Fabric ports"). -/

namespace Sys2Proof.Machine

open Sys2Proof

/-! ### Addresses (R439 to R441) -/

/-- VALID, IPV6 and NVME of an entry's FLAGS (R440). -/
def addrOn (e : AddrEntry) : Bool := bitOf e.flags 0
def addrV6 (e : AddrEntry) : Bool := bitOf e.flags 1
def addrNvme (e : AddrEntry) : Bool := bitOf e.flags 2

/-- The entry that 48 bytes hold (R440), the bytes as one little-endian number. -/
def addrParse (w : Nat) : AddrEntry :=
  { flags := bits w 0 8, plen := bits w 8 8, vlan := bits w 16 16, lp := bits w 32 8, addr := bits w 64 128, gw := bits w 192 128 }

/-- The 48 staged bytes of an entry. -/
def stagedBytes (s : State) (k : Nat) : Nat := (List.range 12).foldl (fun a i => a + addrWord s k i % 2 ^ 32 * 2 ^ (32 * i)) 0

/-- R462 ERR of an entry: 1 a bad field, 2 a fifth entry on a logical port, 3 an address already used; 0 none. -/
def addrCheck (s : State) (k w : Nat) : Nat :=
  let e := addrParse w
  let others := s.fab.addrs.filter (fun x => decide (x.1 ≠ k))
  if addrOn e = false then 0
  else if bits w 4 4 ≠ 0 ∨ bits w 28 3 ≠ 0 ∨ bits w 40 24 ≠ 0 ∨ bits w 320 64 ≠ 0 ∨ 32 ≤ e.lp ∨ (if addrV6 e then 128 else 32) < e.plen ∨
      (bitOf e.flags 3 = true ∧ addrV6 e = false) then 1
  else if 4 ≤ (others.filter (fun x => decide (x.2.lp = e.lp))).length then 2
  else if others.any (fun x => decide (x.2.addr = e.addr)) then 3
  else 0

/-- The MAC address of a logical port (R438). -/
def macOf (lp : Nat) : Nat := (Config.macBase + lp) % 2 ^ 48

/-- The link-local address of a logical port (R439): fe80::/64 with the modified EUI-64 of its MAC address, in the byte
order of an address entry. -/
def linkLocal (lp : Nat) : Nat :=
  let b := fun (i : Nat) => macOf lp / 256 ^ (5 - i) % 256
  ofLeBytes ([0xFE, 0x80, 0, 0, 0, 0, 0, 0] ++ [(b 0) ^^^ 2, b 1, b 2, 0xFF, 0xFE, b 3, b 4, b 5])

/-- The device holds an address on a logical port: one of its entries, or the link-local address of a port with an IPv6
entry. -/
def holdsAddr (s : State) (lp addr : Nat) (v6 : Bool) : Bool :=
  s.fab.addrs.any (fun e => addrOn e.2 && decide (e.2.lp = lp ∧ addrV6 e.2 = v6 ∧ e.2.addr = addr)) ||
    (v6 && decide (addr = linkLocal lp) && s.fab.addrs.any (fun e => addrOn e.2 && addrV6 e.2 && decide (e.2.lp = lp)))

/-! ### Queue pairs and associations (R442, R451, R455) -/

/-- The queue pairs of a controller. -/
def ctrlQps (s : State) (cid : Nat) : List (Nat × Qp) := s.fab.qps.filter (fun e => decide (e.2.ctrl = cid))

/-- FAB_QPS, FAB_RXBUF and the associations of each logical port follow (R458, R463): 4,160 bytes an entry. -/
def fabNote (s : State) : State :=
  let s := (s.wr F.FAB_QPS_QPS s.fab.qps.length).wr F.FAB_RXBUF_MIB ((s.fab.rxUsed * 4160 + 1048575) / 1048576)
  eachOf (List.range 32) (fun lp s =>
    s.wr F.FAB_PORT_STAT_ASSOC (s.nvq.ctrls.filter (fun e => decide (e.2.fabric = true ∧ e.2.resetting = false ∧
      e.2.port = .eth ⟨lp % 32, Nat.mod_lt lp (by decide)⟩))).length lp) s

/-- Put a queue pair. -/
def putQp (n : Nat) (q : Qp) (s : State) : State := { s with fab := { s.fab with qps := s.fab.qps.put n q } }

/-- Close queue pairs and give their receive buffers back. -/
def closeQps (p : Qp → Bool) (s : State) : State :=
  let gone := s.fab.qps.filter (fun e => p e.2)
  { s with fab := { s.fab with qps := s.fab.qps.filter (fun e => !p e.2),
                               rxUsed := s.fab.rxUsed - gone.foldl (fun a e => a + e.2.qsize) 0 } }

/-- An association ends with a CAUSE (R455): the controller is reset with host memory unreachable. -/
def assocEnd (cid cause : Nat) (s : State) : State :=
  match s.ctrl? cid with
  | none => s
  | some c =>
    if c.fabric = false ∨ c.resetting = true then s
    else
      let s := closeQps (fun q => decide (q.ctrl = cid)) (resetLost cid cause s)
      let s := { s with fab := { s.fab with auth := s.fab.auth.del cid } }
      fabNote (if cause = 4 ∨ cause = 5 then s.wr F.FAB_EVT_ASSOC_END 1 else s)

/-- A failed authentication ends the association with no record (R453): commands that run on are freed as they end. -/
def assocEndQuiet (cid : Nat) (s : State) : State :=
  match s.ctrl? cid with
  | none => s
  | some c =>
    let old := lcrOf s (hostKeyOf c)
    let s := assocEnd cid 6 s
    let s := { s with nvq := { s.nvq with
      lcr := s.nvq.lcr.filter (fun (r : LostRecord) => decide (r.key ≠ hostKeyOf c)) ++ old.toList,
      slots := s.nvq.slots.map (fun (e : Nat × Cmd) => (e.1, if e.2.ctrl = cid then { e.2 with lostKey := false } else e.2)) } }
    s.wr F.FAB_EVT_AUTH_FAIL 1

/-- Every association that a test on its admin queue pair picks ends. -/
def assocEndWhere (p : Qp → Bool) (cause : Nat) (s : State) : State :=
  eachOf ((s.fab.qps.filter (fun e => p e.2 && decide (e.2.ctrl ≠ 0))).map (fun e => e.2.ctrl)).eraseDups
    (fun c s => assocEnd c cause s) s

end Sys2Proof.Machine
end

