-- ==== Sys2Proof/Machine/RegWrite.lean ====
section
/-! DEFINITION. What a write of a register does to its fields (R9 to R17), before any action of the block behind it. -/

namespace Sys2Proof.Machine

open Sys2Proof

/-- A value is not a reserved encoding of a field (R13). -/
def Field.legal (f : Field) (v : Nat) : Bool :=
  decide (f.lo ≤ v) && decide (v ≤ f.hi) && decide ((v - f.lo) % max 1 f.step = 0)

/-- What a field reads on a path (R9, R16). -/
def fieldRead (s : State) (p : AccessPath) (expert : Bool) (base : Nat) (f : Field) (i : Nat) : Nat :=
  if f.acc = .wo ∨ (f.expert = true ∧ expert = false) then 0 else fieldValue s (some p) base f i

/-- The new value of a field under its access code, and whether the write is an access violation (R9, R13, R14). `cur`
is what the field reads on the path, `old` what it stores, `v` the bits written under the mask `m`. -/
def fieldWrite (f : Field) (expert locked : Bool) (cur old v m : Nat) : Option Nat × Bool :=
  let w := (old &&& (2 ^ f.width - 1 - m)) ||| (v &&& m)
  let take := if f.legal w then (some w, false) else (none, true)
  match f.acc with
  | .ro => (none, false)
  | .rc => (none, false)
  | .wo => (none, false)
  | .w1c => if f.expert = true ∧ expert = false then (none, false) else (some (old &&& (2 ^ f.width - 1 - (v &&& m))), false)
  | .rw => if f.expert = true ∧ expert = false then (none, false) else take
  | .rwl => if locked then (none, decide (w ≠ cur)) else if f.expert = true ∧ expert = false then (none, false) else take
  | .rwe => if expert then take else (none, decide (w ≠ cur))

/-- CFG_STATUS.LOCKED: RWL fields ignore writes (R42). -/
def cfgLocked (s : State) : Bool := s.isSet F.CFG_STATUS_LOCKED

/-- A masked write of one register (R9 to R16, R42): every field acts under its access code; one violation event where any
field gives one. -/
def maskedWrite (p : AccessPath) (off value mask : Nat) (s : State) : State :=
  match locate off with
  | none => s
  | some (r, i) =>
    let expert := expertOpen s p
    let locked := cfgLocked s
    let step := fun (a : State × Bool) (f : Field) =>
      let x := fieldWrite f expert locked (fieldRead s p expert r.base f i) (s.rd f i) (bits value f.lsb f.width)
        (bits mask f.lsb f.width)
      (match x.1 with
       | some n => a.1.wr f n i
       | none => a.1, a.2 || x.2)
    let a := r.fields.foldl step (s, false)
    if a.2 then accessViolation p off a.1 else a.1

/-- A whole 32-bit write of one register. -/
def regWrite (p : AccessPath) (off value : Nat) (s : State) : State := maskedWrite p off value 0xFFFFFFFF s

/-- Whether a WO field of a register acts on a write (R9, R16): its bits, 0 where the path may not use it. -/
def woBits (s : State) (p : AccessPath) (f : Field) (value : Nat) : Nat :=
  if f.expert = true ∧ expertOpen s p = false then 0 else bits value f.lsb f.width

end Sys2Proof.Machine
end

