-- ==== Sys2Proof/Machine/Fen.lean ====
section
/-! DEFINITION. Benches, rebuild jobs and refresh in place (chapter "Fens, declustered stripes and rebuild"). -/

namespace Sys2Proof.Machine

open Sys2Proof

/-- BENCH_EVALUATE (R126, R93): at least once a second and whenever LEFT, tolerance or membership has changed. -/
def execBenchEvaluate (s : State) : Result :=
  .next (eachOf (List.range (fenCount s)) rebuildOver
    (fenRefresh (eachOf ((memberKeys s).map (fun k => memberLink s (k / 32) (k % 32))) wornCheck s.begin)))

/-- BENCH5_EXIT_TIMER (R126): a fen held at bench 0 or 1 for 60 s ends bench 5. -/
def execBench5ExitTimer (fen : Fen) (s : State) : Result :=
  let s := s.begin
  .next (if s.fen.bench5 = true ∧ s.rd F.FEN_STATE_BENCH fen.val ≤ 1 then
    glbRefresh ({ s with fen := { s.fen with bench5 := false } }.wr F.FEN_EVT_BENCH_CHANGE 1)
  else s)

/-- A drain that finds no target takes its member out of service at once (R123): its slots are absent and its jobs become
rebuild jobs. -/
def drainStuck (l : Nat) (s : State) : State :=
  markAbsent (fun p => decide (p.1 = l))
    { s with fen := { s.fen with draining := dropOne l s.fen.draining, absent := s.fen.absent.put l .rebuilding } }

/-- Start the job of one slot (R115, R116, R120): its target leaves its free set; with no target the job waits and the fen
enters bench 3. -/
def startJob (id slot : Nat) (s : State) : State :=
  let s := loseExceeded id s
  match jobTarget s id with
  | some (m, b) =>
    let f := stripeFen id
    let e := stripeOf s id
    let drain := slotDrains s id slot
    let s := takeBlock (memberLink s f m) b (decide (e.kind ≠ 1)) id s
    let s := setStripe id { e with flags := putBit e.flags 1 true } s
    let job : RebuildJob := { stripe := id, slot := slot, target := blockAddr m b true, drain := drain }
    let given := Tab.set 0 s.fen.assigned (32 * f + m) (Tab.get 0 s.fen.assigned (32 * f + m) + 1)
    fenRefresh { s with fen := { s.fen with jobs := s.fen.jobs ++ [job], assigned := given, waiting := dropOne (id, slot) s.fen.waiting } }
  | none =>
    let l := match (stripeOf s id).slots[slot]? with
      | some a => (addrPlace s (stripeFen id) a).1
      | none => 0xFFFF
    let s := if slotDrains s id slot then drainStuck l s else s
    fenRefresh { s with fen := { s.fen with waiting := addNew (id, slot) s.fen.waiting } }

/-- REBUILD_JOB_START (R115): one job of a stripe at a time, in the order of R115, none while HOLD is in force (R665). -/
def execRebuildJobStart (stripe : StripeId) (slot : Fin 28) (s : State) : Result :=
  let s := s.begin
  .next (if slotNeedsJob s stripe slot.val = false ∨ placesWait s stripe = true ∨ jobOn s stripe = true ∨ s.fen.hold = true ∨ jobFirst s stripe = false then s
    else startJob stripe slot.val s)

/-- A code word made from symbols (R105, R174, R175). -/
def wordOf (s : State) (slot v : Nat) : CodeWord :=
  if geoK s ≤ slot then { parity := some v }
  else if bitOf v (32768 + 250) then
    { data := symbolUnit v, unitTag := bitOf v (32768 + 251), meta_ := some { seq := bits v (32768 + 32) 64, index := bits v (32768 + 96) 32 } }
  else
    { data := symbolUnit v, ltn := bits v (32768 + 192) 32, unit := bits v (32768 + 224) 24, unitTag := bitOf v (32768 + 251) }

/-- The symbols that a job programs (R111, R115, R122): read from a slot that is there, else reconstructed. -/
def jobSymbol (s : State) (id row slot w : Nat) : Option Nat :=
  if slot ∈ erasedSlots s id row w then reconstruct s id row slot w else some (symbolAt s id row slot w)

/-- The code word that a data slot takes at a place that is lost for good (R120, R121): zero and labelled lost; a clean copy in the Mere
serves where there is one, and map, Peat and key-label data come from their other copy. -/
def lostData (s : State) (id row slot w : Nat) : CodeWord :=
  match mediaAt s id row slot w with
  | none => {}
  | some c =>
    if 4 ≤ (stripeOf s id).kind then c
    else { c with data := (cleanUnit s c.ltn c.unit).getD { lost := true } }

/-- The symbols of a data slot at such a place. -/
def settledSymbol (s : State) (id row slot w : Nat) : Nat :=
  if slot ∈ erasedSlots s id row w then
    (if (mediaAt s id row slot w).isNone then fillerSymbol else symbolOf (lostData s id row slot w))
  else symbolAt s id row slot w

/-- The parity that still stands at such a place does not fit any more: it serves no reconstruction until the refresh writes it anew
(R120). -/
def staleParity (id row w : Nat) (s : State) : State :=
  let keys := ((List.range 28).filter (fun i => decide (geoK s ≤ i ∧ i ∉ erasedSlots s id row w))).filterMap (fun i => slotKey s id row i w)
  { s with map := { s.map with bad := keys.foldl (fun l k => addNew k l) s.map.bad } }

/-- A job programs one code word of its target (R107, R115, R120). -/
def rebuildPlace (j : RebuildJob) (row w : Nat) (s : State) : State :=
  match jobSymbol s j.stripe row j.slot w with
  | some v => if v = plainSymbol s j.slot then s else programAt j.stripe row j.slot w j.target (wordOf s j.slot v) s
  | none =>
    let s := losePlace j.stripe row w s
    let c := if geoK s ≤ j.slot then
        { parity := some ((rsParity (geoP s) ((List.range (geoK s)).map (fun i => settledSymbol s j.stripe row i w))).getD (j.slot - geoK s) 0) }
      else lostData s j.stripe row j.slot w
    staleParity j.stripe row w (programAt j.stripe row j.slot w j.target c s)

/-- A job programs the rows of its target from its own first row not completed up to `upto` (R115, R665). -/
def rebuildRows (j : RebuildJob) (upto : Nat) (s : State) : State :=
  let rows := (List.range (upto - j.row)).map (fun i => j.row + i)
  let s := eachOf rows (fun r s => eachOf (List.range 4) (fun w s => rebuildPlace j r w s) s) s
  let t := addrPlace s (stripeFen j.stripe) j.target
  if rows.isEmpty then s else blockProgrammed (decide (j.row = 0)) t.1 t.2 s

/-- A code word of a source was unreadable: the stripe is set refresh-pending (R113, R120). -/
def sourceNote (id : Nat) (s : State) : State :=
  if (slotWords s id).any (fun e => (List.range 28).any (fun i => wordBad s id e.1 i e.2)) then setDue id s else s

/-- REBUILD_JOB_DONE (R115, R120): every row of the target has programmed and SLOT_SET is durable; a target that fails to
program goes to the Spoil table and the job takes a new one, from row 0. A job under HOLD ends where its programs had all been
released (R665). -/
def execRebuildJobDone (stripe : StripeId) (slot : Fin 28) (ok : Bool) (s : State) : Result :=
  let s := s.begin
  .next (match s.fen.jobs.find? (fun j => decide (j.stripe = stripe ∧ j.slot = slot.val)) with
    | none => s
    | some j =>
      let f := stripeFen stripe
      let t := addrPlace s f j.target
      let rest := s.fen.jobs.filter (fun x => decide (x.stripe ≠ stripe))
      if ok = false then startJob stripe slot.val (spoilAndCheck t.1 t.2 1 2 (wipeBlock t.1 t.2 { s with fen := { s.fen with jobs := rest } }))
      else if placesWait s stripe then s
      else
        match (stripeOf s stripe).slots[slot.val]? with
        | none => { s with fen := { s.fen with jobs := rest } }
        | some a =>
          let p := addrPlace s f a
          let s := rebuildRows j (stripeOf s stripe).frontier { s with fen := { s.fen with jobs := rest } }
          let s := makeDurable (journal (.slotSet stripe slot.val j.target) s)
          let s := sourceNote stripe (closeStripe stripe (if j.drain then freeBlock p.1 p.2 s else wipeBlock p.1 p.2 s))
          let s := rebuildOver f s
          if (jobsLeft s f).isEmpty then s.wr F.FEN_EVT_REBUILD_DONE 1 else s)

/-! ### Refresh in place (R128) -/

/-- The device refreshes at most ⌊dirty limit ÷ tract size⌋ stripes in place at once (R128). -/
def inPlaceRoom (s : State) : Bool := decide (s.map.inPlace.length < dirtyLimitUnits s / max 1 (tractUnits s))

/-- The unit that a refresh finds at a data slot's place (R111, R144). -/
def refreshWord (s : State) (id row slot w : Nat) : Option CodeWord :=
  if slot ∈ erasedSlots s id row w then (reconstruct s id row slot w).map (wordOf s slot)
  else some ((mediaAt s id row slot w).getD (wordOf s slot fillerSymbol))

/-- Units of a stripe that no source gives are declared lost (R121, R144), and the copy holds them as lost. -/
def refreshLoss (id : Nat) (s : State) : State :=
  eachOf (slotWords s id) (fun e s =>
    let bad := (List.range (geoK s)).filter (fun i => decide (i ∉ absentSlots s id) && (refreshWord s id e.1 i e.2).isNone)
    eachOf bad (fun i s => loseUnitAt id e.1 i e.2 s) s) s

/-- The data words of a stripe as its copy in the Mere holds them, as ((row, slot, w), word). -/
def stripeCopy (s : State) (id : Nat) : List ((Nat × Nat × Nat) × CodeWord) :=
  (slotWords s id).flatMap (fun e => (List.range (geoK s)).map (fun i =>
    ((e.1, i, e.2), (refreshWord s id e.1 i e.2).getD (lostData s id e.1 i e.2))))

/-- A block is erased to be programmed again in place (R128): its wear counts it. -/
def eraseInPlace (l b : Nat) (s : State) : State :=
  let r := s.block l b
  wipeBlock l b (takeBlock l b r.slc r.stripe (s.putBlock l b { r with wear := min 65535 (r.wear + (if r.slc then 1 else 16)) }))

/-- Refresh a stripe in place (R128): its data slots are copied, its blocks erased and every row programmed again with new parity; a slot
whose block fails goes to the Spoil table and stays absent. The copy is dirty data until STRIPE_SET is durable. -/
def refreshInPlace (id : Nat) (failSlot : Option Nat) (s : State) : State :=
  let s := refreshLoss id s
  let copy := stripeCopy s id
  let gone := absentSlots s id
  let places := (List.range 28).filterMap (fun i =>
    if i ∈ gone then none else ((stripeOf s id).slots[i]?).map (fun a => (i, addrPlace s (stripeFen id) a)))
  let s := eachOf places (fun e s => eraseInPlace e.2.1 e.2.2 s) s
  let s := match (failSlot.bind (fun i => places.find? (fun e => decide (e.1 = i)))) with
    | none => s
    | some e => slotGone id e.1 (spoilAndCheck e.2.1 e.2.2 1 1 s)
  let s := skipAbsent id s
  let s := eachOf copy (fun e s => if symbolOf e.2 = fillerSymbol then s else storeWord id e.1.1 e.1.2.1 e.1.2.2 e.2 s) s
  let s := closeStripe id (rowsProgrammed id true (parityRows id 0 (stripeOf s id).frontier s))
  let x := stripeOf s id
  let s := journal (.stripeSet id { x with flags := putBit x.flags 2 false }) s
  { s with map := { s.map with inPlace := s.map.inPlace.put id (lastJ s) } }

/-- A due Peat or key-label stripe is rewritten by its writer (R142, R540): 28 fresh blocks take its rows under the same stripe ID, its
STRIPE_SET record is durable, then the old blocks are freed. It waits while the fen has no such blocks. -/
def rewriteSame (id : Nat) (s : State) : State :=
  match pickStripe s (stripeFen id) with
  | none => s
  | some l =>
    let copy := stripeCopy s id
    let e := stripeOf s id
    let old := (List.range 28).filterMap (fun i =>
      if bitOf e.absent i then none else (e.slots[i]?).map (fun a => addrPlace s (stripeFen id) a))
    let s := eachOf l (fun p => takeBlock (memberLink s (stripeFen id) p.1) p.2 true id) s
    let s := putStripe id { e with slots := l.map (fun p => blockAddr p.1 p.2 false), absent := 0,
                                   flags := putBit (putBit e.flags 0 false) 2 false } s
    let s := eachOf copy (fun x s => if symbolOf x.2 = fillerSymbol then s else storeWord id x.1.1 x.1.2.1 x.1.2.2 x.2 s) s
    let s := closeStripe id (rowsProgrammed id true (parityRows id 0 e.frontier s))
    let s := makeDurable (journalStripe id s)
    eachOf old (fun p => freeBlock p.1 p.2) (refreshDone (stripeFen id) e.kind (abandonJobs id (forgetDue id s)))

/-- A due metadata stripe is rewritten by its own writer (R142): a checkpoint or journal stripe by a new checkpoint, which lets the old
ones go (R97). -/
def metaRefresh (id : Nat) (s : State) : State :=
  if id ∉ s.ret.due then s
  else
    let k := (stripeOf s id).kind
    if k = 4 ∨ k = 5 then startCheckpoint s
    else if k = 6 ∨ k = 7 then rewriteSame id s
    else s

/-- REFRESH_IN_PLACE (R128): at bench 5 a stripe due for refresh is refreshed in place. -/
def execRefreshInPlace (stripe : StripeId) (failSlot : Option (Fin 28)) (s : State) : Result :=
  let s := s.begin
  .next (if s.fen.bench5 = false ∨ stripe ∉ s.ret.due ∨ inPlaceRoom s = false ∨ (s.map.inPlace.find stripe).isSome then s
    else fenRefresh (catchupNote (refreshDone (stripeFen stripe) (stripeOf s stripe).kind (forgetDue stripe (refreshInPlace stripe (failSlot.map Fin.val) s)))))

/-- What FEN_REBUILD_CTL holds waits for the next Sluice period; a BOOST below SHARE is treated as SHARE (R130, R665). -/
def rebuildPend (s : State) : State :=
  let share := s.rd F.FEN_REBUILD_CTL_SHARE
  let v := some (share, max share (s.rd F.FEN_REBUILD_CTL_BOOST), s.isSet F.FEN_REBUILD_CTL_HOLD)
  { s with fen := { s.fen with pendShare := v } }

/-- REBUILD_CTL_WRITE (R130, R665): the fields act under their access codes. -/
def rebuildCtlWrite (p : AccessPath) (value : Nat) (s : State) : State := rebuildPend (regWrite p 0x11000000 value s)

def execRebuildCtlWrite (path : AccessPath) (value : Word) (s : State) : Result :=
  .next (rebuildCtlWrite path value.toNat s.begin)

/-- REBUILD_HOLD_TIMEOUT (R130): the device clears HOLD 600 s after it was set. -/
def execRebuildHoldTimeout (s : State) : Result :=
  let s := s.begin
  .next (if s.isSet F.FEN_REBUILD_CTL_HOLD then
    let s := s.wr F.FEN_REBUILD_CTL_HOLD 0
    let share := s.rd F.FEN_REBUILD_CTL_SHARE
    { s with fen := { s.fen with pendShare := some (share, max share (s.rd F.FEN_REBUILD_CTL_BOOST), false) } }
  else s)

end Sys2Proof.Machine
end

