-- ==== Sys2Proof/Machine/Retention.lean ====
section
/-! DEFINITION. Thermal age, measurements, witnesses and Dredge passes (chapter "Retention guardianship, Dredge passes and
health"). -/

namespace Sys2Proof.Machine

open Sys2Proof

/-! ### Thermal age (R135, R136) -/

/-- The hottest die of a member by its newest telemetry. -/
def hottestDie (s : State) (l : Nat) : Option Int :=
  match (s.link l).temps with
  | [] => none
  | t :: r => some (r.foldl max t)

/-- The hottest die temperature in a fen. -/
def hottestFen (s : State) (f : Nat) : Option Int :=
  ((List.range 32).filterMap (fun i => hottestDie s (memberLink s f i))).foldl
    (fun a t => some (match a with | none => t | some x => max x t)) none

/-- The temperature that ages a member (R136): its hottest die, the fen's where it has been silent for 10 s. -/
def ageTemp (s : State) (l : Nat) : Option Int :=
  if (s.link l).noTelem = true ∨ (s.link l).temps.isEmpty = true then hottestFen s (linkFen s l) else hottestDie s l

/-- A member's counter gains one second's AF (R135); with no telemetry in its fen yet it stands still (DESIGN CHOICE, log entry 91). -/
def ageLink (l : Nat) (s : State) : State :=
  match ageTemp s l with
  | none => s
  | some t =>
    { s with ret := { s.ret with
      thermal := Tab.set 0 s.ret.thermal l ((Tab.get 0 s.ret.thermal l + arrhenius (eaOf s l) t) % (2 ^ 64 * 1000000)) } }

/-- The temperature history's bin (R156). -/
def tempBin (t : Int) : Nat := min 21 (t / 5).toNat

/-- A temperature in kelvin. -/
def kelvin (t : Int) : Nat := (t + 273).toNat

/-- A fen's hottest die enters its records (R156): the hottest ever, and those of the last 24 h. -/
def fenTemp (f : Nat) (s : State) : State :=
  match hottestFen s f with
  | none => s
  | some t =>
    let k := kelvin t
    { s with ret := { s.ret with fenMax := Tab.set 0 s.ret.fenMax f (max k (Tab.get 0 s.ret.fenMax f)),
                                 fenTemps := Tab.set [] s.ret.fenTemps f ((k :: Tab.get [] s.ret.fenTemps f).take 86400) } }

/-- A member's hottest temperature ever (R139). -/
def linkTemp (l : Nat) (s : State) : State :=
  match hottestDie s l with
  | none => s
  | some t => { s with ret := { s.ret with linkMax := Tab.set 0 s.ret.linkMax l (max (kelvin t) (Tab.get 0 s.ret.linkMax l)) } }

/-- The hottest junction sensor. -/
def junction (s : State) : Option Int :=
  match s.tmon.temps.filterMap id with
  | [] => none
  | t :: r => some (r.foldl max t)

/-- The hottest of some temperatures. -/
def hottest (l : List (Option Int)) : Option Int :=
  match l.filterMap id with
  | [] => none
  | t :: r => some (r.foldl max t)

/-- Composite Temperature (R155). -/
def compositeK (s : State) : Nat :=
  ((hottest (junction s :: (List.range (fenCount s)).map (hottestFen s))).map kelvin).getD 0

/-- Seconds that the SMART page counts (R155, NVMe Base 2.0): an I/O command outstanding, at WCTEMP of 358 K or above, at CCTEMP of 378 K
or above. -/
def smartSeconds (s : State) : State :=
  let t := compositeK s
  healthAdd 26 (b2n (s.nvq.slots.any (fun e => decide (e.2.sqid ≠ 0))))
    (healthAdd 27 (b2n (decide (358 ≤ t ∧ t < 378))) (healthAdd 28 (b2n (decide (378 ≤ t))) s))

/-- THERMAL_TICK (R136, R155, R156): each second. -/
def execThermalTick (s : State) : Result :=
  let s := eachOf ((memberKeys s).map (fun k => memberLink s (k / 32) (k % 32))) (fun l s => if l = 0xFFFF then s else linkTemp l (ageLink l s)) s.begin
  let s := smartSeconds (eachOf (List.range (fenCount s)) fenTemp s)
  let hot := (List.range (fenCount s)).filterMap (hottestFen s)
  .next (match hot with
    | [] => s
    | t :: r =>
      let top := r.foldl max t
      let b := tempBin top
      { s with ret := { s.ret with maxTemp := max s.ret.maxTemp top,
                                   tempHist := Tab.set 0 s.ret.tempHist b (Tab.get 0 s.ret.tempHist b + 1) } })

/-- THERMAL_SAVE (R136): the counters and the last-alive time are saved in always-on memory. -/
def thermalSave (s : State) : State :=
  { s with ret := { s.ret with savedThermal := s.ret.thermal }, life := { s.life with lastAlive := s.life.now } }

def execThermalSave (s : State) : Result := .next (thermalSave s.begin)

/-! ### Measurements (R140) -/

/-- SAMPLER_READ (R140): page 1,024 in QLC mode, 256 in SLC mode, of a programmed block. -/
def execSamplerRead (link : Link) (block page : Nat) (corrected : List Nat) (s : State) : Result :=
  let s := s.begin
  let r := s.block link.val block
  .next (if restsEarly s = false ∧ (r.use = .open ∨ r.use = .full) ∧ page = (if r.slc then 256 else 1024) then
    measureBlock link.val block (rberPpm (corrected.foldl max 0)) s
  else s)

/-- STRIPE_EVALUATE (R141): a metadata stripe found due is rewritten by its writer (R142). -/
def execStripeEvaluate (stripe : StripeId) (s : State) : Result := .next (metaRefresh stripe (judgeStripe stripe s.begin))

/-- A code word of a core page (R191): the pattern, a stripe-coded half of zeros, PROG_TIME 0. -/
def coreWord (s : State) (l g page w : Nat) : CodeWord :=
  { data := { payload := corePayload g l page w }, ltn := 0, unit := 0, kind := 9, geom := geomCode s, link := l,
    member := (linkMember s l).getD 0 % 32, device := s.cfg.serial }

/-- Program the witness block of a group (R148, R191): erased where it is programmed, in QLC mode; its core pages take the pattern, the
others are filler; its label carries the member counter. -/
def witnessProgram (l g : Nat) (s : State) : State :=
  match (witnessBlocks s l)[g]? with
  | none => s
  | some b =>
    let r := s.block l b
    let wear := if r.labelled then min 65535 (r.wear + 16) else r.wear
    let s := wipeBlock l b (s.putBlock l b { r with use := .full, slc := false, wear := wear, nextPage := 2048, labelled := false })
    let s := eachOf [0, 683, 1366, 2047] (fun p s => eachOf (List.range 4) (fun w s =>
      { s with map := { s.map with media := s.map.media.put (mediaKey l b p w) (coreWord s l g p w) } }) s) s
    blockProgrammed true l b s

/-- The witness groups of a member are programmed for the first time (R148): group g is due again in 30 (g + 1) days. -/
def witnessFirst (l : Nat) (s : State) : State :=
  eachOf (List.range 16) (fun g s =>
    let s := witnessProgram l g s
    let w : Witness := { base := Tab.get 0 s.ret.thermal l, due := s.life.now + 30 * (g + 1) * 86400, ready := true }
    { s with ret := { s.ret with witness := s.ret.witness.put (16 * l + g) w } }) s

/-- WITNESS_REPROGRAM (R148): a group that is due is programmed with its core pages; the member counter is its new base and
it is due again in 480 days. A group that fails to program is not readable. -/
def execWitnessReprogram (link : Link) (group : Fin 16) (ok : Bool) (s : State) : Result :=
  let s := s.begin
  let k := 16 * link.val + group.val
  .next (match s.ret.witness.find k with
    | none => s
    | some w =>
      if s.life.now < w.due then s
      else
        let s := if ok then witnessProgram link.val group.val s
          else match (witnessBlocks s link.val)[group.val]? with
            | some b => wipeBlock link.val b (s.putBlock link.val b { (s.block link.val b) with labelled := false })
            | none => s
        let w : Witness := { base := if ok then Tab.get 0 s.ret.thermal link.val else w.base,
                             due := s.life.now + 480 * 86400, ready := ok }
        { s with ret := { s.ret with witness := s.ret.witness.put k w } })

/-! ### Dredge passes (R150 to R154, R160) -/

/-- Queue a Custodian pass over the range registers (R150, R160). -/
def dredgeStart (s : State) : State :=
  if 4 ≤ passesIn s 1 ∧ 16 ≤ passesIn s 0 then s.wr F.RET_DREDGE_STAT_REFUSED 1
  else
    fenRefresh (passNext (newPass { id := 0, first := s.rd F.RET_DREDGE_FIRST_LTN, count := s.rd F.RET_DREDGE_COUNT_COUNT } s))

/-- DREDGE_START: a write of START (Level B), on any path. -/
def execDredgeStart (_path : AccessPath) (s : State) : Result := .next (dredgeStart s.begin)

/-- Abort the Custodian pass named in RET_DREDGE_SEL (R153, R160). -/
def dredgeAbort (s : State) : State :=
  match passOf s (s.rd F.RET_DREDGE_SEL_PASS_ID) with
  | some p => if p.origin = 0 ∧ p.state ≤ 1 then endPass p 3 s else s
  | none => s

/-- DREDGE_ABORT: a write of ABORT (Level B), on any path. -/
def execDredgeAbort (_path : AccessPath) (s : State) : Result := .next (dredgeAbort s.begin)

/-- The tract of a stripe in a pass's range: its LTN for a tract stripe, its log's for a log stripe, any of its rows' for a
Sump stripe; metadata stripes are in every pass (R150). -/
def passCovers (s : State) (p : DredgePass) (id : Nat) : Bool :=
  let inRange := fun ltn => decide (p.count = 0) || (decide (p.first ≤ ltn) && decide (ltn < p.first + p.count))
  let e := stripeOf s id
  if e.kind = 0 then false
  else if e.kind = 1 then inRange e.owner
  else if e.kind = 2 then s.map.core.rows.any (fun r => decide (r.2.1 = id) && inRange (r.1 / 2048))
  else if e.kind = 3 then s.map.core.logs.any (fun g => decide (g.2.stripe = id) && inRange g.2.ltn)
  else true

/-- The first label of a stripe is not older than a time: its data is newer. -/
def stripeNewer (s : State) (id t : Nat) : Bool :=
  (stripeBlocks s id).any (fun k => let b := s.block (k / 1048576) (k % 1048576); b.labelled && decide (b.stripe = id ∧ t ≤ b.labelTime))

/-- The stripe is still to be checked by a pass (R150, R153): it is covered, holds programmed rows, and neither it nor its tract has been
reached; a metadata or Sump stripe opened since the pass began holds nothing that the pass has to reach. -/
def passLeft (s : State) (p : DredgePass) (id : Nat) : Bool :=
  let e := stripeOf s id
  passCovers s p id && decide (0 < e.frontier ∧ id ∉ p.seen) &&
    (match stripeTract s id with
     | some ltn => decide (ltn ∉ p.tracts)
     | none => !stripeNewer s id p.began)

/-- Every map, Peat and key-label stripe comes at the pass's end (R150). -/
def passReady (s : State) (p : DredgePass) (id : Nat) : Bool :=
  decide ((stripeOf s id).kind < 4) || (stripesWhere s (fun i e => decide (e.kind < 4) && passLeft s p i)).isEmpty

/-- The host units that a stripe holds, as (tract, unit). -/
def stripeUnits (s : State) (id : Nat) : List (Nat × Nat) :=
  (slotWords s id).flatMap (fun e => (List.range (geoK s)).filterMap (fun i =>
    (mediaAt s id e.1 i e.2).bind (fun c => if c.kind ≤ 3 ∧ c.ltn ≠ 0xFFFFFFFF then some (c.ltn, c.unit) else none)))

/-- A unit that a pass does not read (R152): dirty in the Mere, deallocated or already lost. -/
def passSkips (s : State) (ltn u : Nat) : Bool :=
  (s.map.dirty.find (unitKey ltn u)).isSome || unitLost s ltn u || !alreadyWritten s ltn u ||
    decide (logUnit s 4096 (tractOf s ltn).log u = some (some {}))

/-- The leaf tags that a unit carries (R176, R177). -/
def unitTags (s : State) (ltn u : Nat) : Nat :=
  match (tractOwner s ltn).bind (fun o => s.ns? o.1) with
  | none => 1
  | some n => if n.leafShift ≤ 12 then 2 ^ (12 - n.leafShift) else if (u + 1) % 2 ^ (n.leafShift - 12) = 0 then 1 else 0

/-- The code words of a stripe that are read and decoded (R150): every programmed one of the slots there, less the units skipped. -/
def passWords (s : State) (id : Nat) : Nat :=
  4 * (stripeOf s id).frontier * (28 - (absentSlots s id).length) - ((stripeUnits s id).filter (fun x => passSkips s x.1 x.2)).length

/-- The worst of a finding's rates with its link and block (R154). -/
def worstOf (s : State) (id : Nat) (rates : List Nat) : Nat × Nat × Nat :=
  ((List.range 28).filter (fun i => decide (i ∉ absentSlots s id))).foldl (fun (m : Nat × Nat × Nat) i =>
    if m.1 < rates.getD i 0 then (rates.getD i 0, addrPlace s (stripeFen id) ((stripeOf s id).slots.getD i 0)) else m) (0, 0, 0)

/-- Add a stripe's counts to a pass (R154). -/
def passCount (s : State) (id : Nat) (g : DredgeFinding) (p : DredgePass) : DredgePass :=
  let n := passWords s id
  let units := stripeUnits s id
  let read := units.filter (fun x => !passSkips s x.1 x.2)
  let rest := g.bins.take 7
  let seen := p.seen ++ [id]
  let done := match stripeTract s id with
    | some ltn => if (stripesWhere s (fun i e => decide (stripeTract s i = some ltn ∧ 0 < e.frontier ∧ i ∉ seen))).isEmpty then [ltn] else []
    | none => []
  let w := worstOf s id g.rates
  { p with cursor := p.cursor + 1, seen := seen, tracts := p.tracts ++ done, cwChecked := p.cwChecked + n,
           hist := (List.range 8).map (fun i => p.hist.getD i 0 + (if i = 0 then n - rest.foldl (· + ·) 0 else rest.getD (i - 1) 0)),
           tagsOk := p.tagsOk + ((read.foldl (fun a x => a + unitTags s x.1 x.2) 0) - g.tagsFailed), tagsBad := p.tagsBad + g.tagsFailed,
           parity := p.parity + g.parityMismatch, skipped := p.skipped + (units.length - read.length),
           worst := if (p.worst.headD (0, 0, 0)).1 < w.1 then [w] else p.worst }

/-- A pass measures every block that it has read (R140, R152). -/
def passMeasure (id : Nat) (rates : List Nat) (s : State) : State :=
  eachOf ((List.range 28).filter (fun i => decide (i ∉ absentSlots s id ∧ i < rates.length))) (fun i s =>
    let p := addrPlace s (stripeFen id) ((stripeOf s id).slots.getD i 0)
    measureBlock p.1 p.2 (rates.getD i 0) s) s

/-- DREDGE_STRIPE_CHECK (R150, R152, R153): a running pass verifies one stripe that it has not reached yet and acts on what it finds, from the
end of boot step 8 on; a fen that rebuilds holds its part (R119). -/
def execDredgeStripeCheck (passId : Nat) (stripe : StripeId) (finding : DredgeFinding) (s : State) : Result :=
  let s := s.begin
  let f := stripeFen stripe
  .next (match passOf s passId with
    | none => s
    | some p =>
      if p.state ≠ 1 ∨ s.boot.done = false ∨ passLeft s p stripe = false ∨ passReady s p stripe = false ∨
          (restsEarly s = true ∧ (p.origin = 0 ∨ s.tmon.hold = true)) then s
      else if fenRebuilding s f then s.wr F.FEN_STATE_DREDGE_HELD 1 f
      else
        let dueBefore := decide (stripe ∈ s.ret.due)
        let p := passCount s stripe finding p
        let s := healthAdd 2 finding.recon (healthAdd 1 finding.softened (healthAdd 0 finding.retried (healthAdd 4 finding.tagsFailed s)))
        let s := s.count F.FEN_RECON_CNT_COUNT finding.recon
        let s := passMeasure stripe finding.rates s
        let s := if 0 < finding.tagsFailed + finding.recon ∧ finding.reconOk = true ∧ (absentSlots s stripe).isEmpty = true then setDue stripe s else s
        let s := if 0 < finding.parityMismatch then
          setDue stripe (peatRecord 0xC202 f (stripe % 2 ^ 24) 0 s) else s
        let lostBefore := s.map.core.lost.length
        let s := eachOf finding.lostUnits (fun x s => loseUnitAt stripe x.1 x.2.1 x.2.2 s) s
        let p := { p with lost := p.lost + (s.map.core.lost.length - lostBefore),
                          refreshed := p.refreshed + (if dueBefore = false ∧ stripe ∈ s.ret.due then 1 else 0) }
        catchupNote (putPass p s))

/-- DREDGE_CURSOR_TIMER (R153): every 1 s a Custodian pass journals its cursor. -/
def execDredgeCursorTimer (passId : Nat) (s : State) : Result :=
  let s := s.begin
  .next (match passOf s passId with
    | some p => if p.state = 1 ∧ p.origin = 0 then putPass { p with journalled := p.cursor } s else s
    | none => s)

/-- DREDGE_PASS_END (R150, R153, R154): the record is final once every stripe of the range has been reached; a pass stays running while a fen of
its range is held. -/
def execDredgePassEnd (passId : Nat) (s : State) : Result :=
  let s := s.begin
  .next (match passOf s passId with
    | some p =>
      if p.state ≠ 1 ∨ s.boot.done = false ∨ (stripesWhere s (fun id _ => passLeft s p id)).isEmpty = false then s
      else endPass p 2 s
    | none => s)

end Sys2Proof.Machine
end

