-- ==== Sys2Proof/Machine/NvmeBlocks.lean ====
section
/-! DEFINITION. What a host block command touches and whether it may run: ranges, tracts, zones, reservations, seal and bench
(chapters "Host command intake", "Power loss, hold-up and the seal"). -/

namespace Sys2Proof.Machine

open Sys2Proof

/-! ### What a command does -/

/-- A Zone Management Send with an action. -/
def Cmd.isZone (k : Cmd) (a : Nat) : Bool := k.isIo 0x79 && decide (k.zsa = a)

/-- A deallocation: Dataset Management with its attribute set (R330). -/
def Cmd.deallocates (k : Cmd) : Bool := k.isIo 0x09 && bitOf (k.dw 11) 2

/-- The command changes media contents (R129, R564). -/
def Cmd.changes (k : Cmd) : Bool :=
  k.isIo 0x01 || k.isIo 0x08 || k.deallocates || k.isIo 0x19 || k.isIo 0x7D || k.isZone 2 || k.isZone 4

/-- The command writes data blocks. -/
def Cmd.writesData (k : Cmd) : Bool := k.isIo 0x01 || k.isIo 0x7D || k.isIo 0x08 || k.isIo 0x19

/-- The command names a block range in dwords 10 to 12. -/
def Cmd.hasRange (k : Cmd) : Bool := !k.admin && decide (k.opc ∈ [0x01, 0x02, 0x05, 0x08, 0x0C])

/-- The command moves that many blocks to or from the host. -/
def Cmd.moves (k : Cmd) : Bool := !k.admin && decide (k.opc ∈ [0x01, 0x02, 0x05, 0x7D])

/-- The bytes of a data structure from its fields (offset, size, value), each saturating: (offset, byte); an unlisted byte
is 0. -/
def fieldBytes (l : List (Nat × Nat × Nat)) : List (Nat × Nat) :=
  l.flatMap (fun e => ((List.range e.2.1).map (fun i => (e.1 + i, min e.2.2 (2 ^ (8 * e.2.1) - 1) / 2 ^ (8 * i) % 256))).filter
    (fun b => decide (b.2 ≠ 0)))

/-- The window [off, off + len) of such a structure. -/
def window (off len : Nat) (l : List (Nat × Nat × Nat)) : List (Nat × Nat) :=
  ((fieldBytes l).filter (fun e => decide (off ≤ e.1 ∧ e.1 < off + len))).map (fun e => (e.1 - off, e.2))

/-! ### Zones (R351) -/

/-- A zone's state by the NVMe encoding: 1 Empty where the map holds none. -/
def zoneState (s : State) (ltn : Nat) : Nat := let z := (tractOf s ltn).zone; if z = 0 then 1 else z

/-- The write pointer of a zone, from its start, and whether the controller finished it. -/
def zonePtr (n : Namespace) (t : Nat) : Nat × Bool := Tab.get (0, false) n.zones t

/-- Zones open: implicitly or explicitly. -/
def zonesOpen (s : State) (nsid : Nat) : Nat := ((nsLtns s nsid).filter (fun l => decide (zoneState s l = 2 ∨ zoneState s l = 3))).length

/-- Zones active: those whose tract is FILLING (R351). -/
def zonesActive (s : State) (nsid : Nat) : Nat := ((nsLtns s nsid).filter (fun l => decide ((tractOf s l).state = .filling))).length

/-- Change a zone's state in its tract's map entry: a record of the journal (R71). -/
def setZone (ltn z : Nat) (s : State) : State := journal (.tractMap ltn { (tractOf s ltn) with zone := z }) s

/-- Put a zone's write pointer. -/
def putPtr (nsid t wp : Nat) (zfc : Bool) (s : State) : State :=
  match s.ns? nsid with
  | none => s
  | some n => s.putNs nsid { n with zones := Tab.set (0, false) n.zones t (wp, zfc) }

/-- Why a write of `nlb` blocks at offset `off` of a zone is refused (R351, NVMe ZNS): 0 where it is not. An Append has no
offset. -/
def zoneRefuses (s : State) (nsid : Nat) (n : Namespace) (t nlb : Nat) (off : Option Nat) : Nat :=
  match nsTract s nsid t with
  | none => scLbaRange
  | some ltn =>
    let z := zoneState s ltn
    let wp := (zonePtr n t).1
    if z = 14 then 0x1B9
    else if off.any (fun o => decide (o ≠ wp)) then 0x1BC
    else if tractBlocks s n < wp + nlb then 0x1B8
    else if z ≠ 2 ∧ z ≠ 3 ∧ n.mor < zonesOpen s nsid then 0x1BE
    else if (tractOf s ltn).state = .unmapped ∧ n.mar < zonesActive s nsid then 0x1BD
    else 0

/-! ### Reservations (R354, NVMe Base 2.0) -/

/-- The host identifier that a controller acts under. -/
def hostOf (c : Ctrl) : Nat := c.hostId

def Resv.registered (r : Resv) (h : Nat) : Bool := r.regs.any (fun e => decide (e.1 = h))

/-- The host holds the reservation: every registrant does under types 5 and 6. -/
def Resv.holds (r : Resv) (h : Nat) : Bool :=
  decide (r.rtype ≠ 0) && (if r.rtype = 5 ∨ r.rtype = 6 then r.registered h else decide (r.holder = h))

/-- The reservation refuses a command: types 1, 3 and 5 refuse writes, 2, 4 and 6 reads too; registrants pass types 3 to 6. -/
def Resv.refuses (r : Resv) (h : Nat) (write : Bool) : Bool :=
  if r.rtype = 0 ∨ r.holds h = true then false
  else if 3 ≤ r.rtype ∧ r.registered h = true then false
  else write || decide (r.rtype % 2 = 0)

/-- How a reservation sees a command: none, a read or a write. -/
def Cmd.resvKind (k : Cmd) : Option Bool :=
  if k.admin then (if k.opc = 0x80 ∨ k.opc = 0x84 ∨ k.opc = 0x10 then some true else none)
  else if k.opc ∈ [0x02, 0x05, 0x0C, 0x7A] then some false
  else if k.opc ∈ [0x00, 0x01, 0x08, 0x09, 0x19, 0x79, 0x7D] then some true
  else none

/-! ### The seal and bench 5 (R129, R564) -/

/-- The seal as admission sees it: from the acknowledgement of its epoch on (R566). -/
def nvqSealed (s : State) : Bool :=
  match s.ucs.epoch with
  | some e => if e.kind = .seal ∧ e.unitAck = true then s.sea.pending.getD s.sea.sealed else s.sea.sealed
  | none => s.sea.sealed

/-- A unit a range covers has been written since its tract left UNMAPPED (R564, R82). -/
def spanWritten (s : State) (nsid : Nat) (n : Namespace) (slba nlb : Nat) : Bool :=
  let a := slba * 2 ^ n.lbaShift / 4096
  let b := ((slba + nlb) * 2 ^ n.lbaShift + 4095) / 4096
  (List.range (b - a)).any (fun i =>
    match unitAt s nsid (a + i) with
    | some (l, u) => decide ((tractOf s l).state ≠ .unmapped) && (alreadyWritten s l u || (s.map.dirty.find (unitKey l u)).isSome)
    | none => false)

/-- The table of R564: 0 where the command is accepted. -/
def sealRefuses (s : State) (k : Cmd) : Nat :=
  if nvqSealed s = false then 0
  else
    let append := s.isSet F.SEAL_CTL_MODE
    let n := (s.ns? k.nsid).getD {}
    if k.admin then
      (if k.opc = 0x10 ∧ bits (k.dw 10) 3 3 = 3 then 0x113
       else if k.opc = 0x0D ∧ bits (k.dw 10) 0 4 = 0 then (if append then 0 else scProtected)
       else if k.opc = 0x0D ∨ k.opc = 0x80 ∨ k.opc = 0x84 then scProtected
       else 0)
    else if k.isIo 0x08 ∨ k.deallocates = true ∨ k.isZone 4 = true then scProtected
    else if k.isIo 0x01 ∨ k.isIo 0x19 ∨ k.isIo 0x7D then
      (if append = false then scProtected
       else if n.zoned then 0
       else if k.isIo 0x01 ∧ spanWritten s k.nsid n k.slba k.nlb = true then scProtected
       else 0)
    else if k.isZone 2 then (if append then 0 else scProtected)
    else 0

/-! ### Checks of a command (R330, R331, R348) -/

/-- The admin opcodes a controller takes (R330). -/
def adminOpcodes (c : Ctrl) : List Nat :=
  if c.fabric then [0x02, 0x06, 0x08, 0x09, 0x0A, 0x0C, 0x0D, 0x10, 0x11, 0x15, 0x18, 0x80, 0x84, 0x86]
  else [0x00, 0x01, 0x02, 0x04, 0x05, 0x06, 0x08, 0x09, 0x0A, 0x0C, 0x0D, 0x10, 0x11, 0x15, 0x80, 0x84, 0x86]

/-- The features that Set and Get Features know (R331): 0x0F on fabric, 0x81 on PCIe controllers. -/
def featureKnown (c : Ctrl) (fid : Nat) : Bool :=
  decide (fid ∈ [0x01, 0x02, 0x04, 0x06, 0x07, 0x08, 0x09, 0x0B, 0x0C, 0x0E, 0x82, 0x83]) ||
    (decide (fid = 0x0F) && c.fabric) || (decide (fid = 0x81) && !c.fabric)

/-- The log pages supported (R332). -/
def logPages : List Nat := [0x01, 0x02, 0x03, 0x04, 0x05, 0x0C, 0x0E, 0x80, 0x81, 0xD1, 0xD2]

/-- A key slot holds the namespace's key. -/
def keyLoaded (s : State) (n : Namespace) : Bool := decide ((Tab.get {} s.cip.slots n.slot).state ≠ 0)

/-- The status an admin command is refused with at admission; 0 for none. -/
def adminRefuses (s : State) (k : Cmd) (c : Ctrl) : Nat :=
  let fid := bits (k.dw 10) 0 8
  if k.opc ∉ adminOpcodes c then scInvalidOpcode
  else if k.opc = 0x10 ∧ 3 < bits (k.dw 10) 3 3 then scInvalidField
  else if k.opc = 0x10 ∧ 2 < bits (k.dw 10) 0 3 then 0x106
  else if k.opc = 0x09 ∧ featureKnown c fid = false then scInvalidField
  else if k.opc = 0x0A ∧ featureKnown c fid = false then scInvalidField
  else if k.opc = 0x02 ∧ fid ∉ logPages ∧ (c.discovery = false ∨ fid ≠ 0x70) then 0x109
  else if k.opc = 0x84 ∧ s.nvq.ns.any (fun e => decide (e.2.sanitize = 2)) = true then scSanitizing
  else if k.opc ∈ [0x80, 0x86] ∧ (s.ns? k.nsid).any (fun n => decide (n.sanitize = 2)) = true then scSanitizing
  else if (s.ns? k.nsid).any (fun n => k.resvKind.any (fun w => n.resv.refuses (hostOf c) w)) then scResvConflict
  else sealRefuses s k

/-- The I/O opcodes (R330), and those that a command set does not have. -/
def ioOpcodes : List Nat := [0x00, 0x01, 0x02, 0x05, 0x08, 0x09, 0x0C, 0x0D, 0x0E, 0x11, 0x15, 0x19, 0x79, 0x7A, 0x7D]

/-- The command set of a namespace has the opcode. -/
def setHas (n : Namespace) (opc : Nat) : Bool :=
  if opc = 0x79 ∨ opc = 0x7A ∨ opc = 0x7D then n.zoned else if opc = 0x19 then !n.zoned else true

/-- The range and size checks of a block command: 0 for none failed. -/
def rangeRefuses (s : State) (k : Cmd) (c : Ctrl) (n : Namespace) : Nat :=
  if k.moves = true ∧ 4096 * 2 ^ c.mdts < k.nlb * 2 ^ n.lbaShift then scInvalidField
  else if k.hasRange = true ∧ nsBlocks s k.nsid n < k.slba + k.nlb then scLbaRange
  else if k.isIo 0x79 = true ∧ k.zsa ∉ [1, 2, 3, 4] then scInvalidField
  else if k.isIo 0x79 = true ∧ bitOf (k.dw 13) 8 = false ∧ nsBlocks s k.nsid n ≤ k.slba then scLbaRange
  else if k.isIo 0x79 = true ∧ bitOf (k.dw 13) 8 = false ∧ k.slba % max 1 (tractBlocks s n) ≠ 0 then scInvalidField
  else if (k.isIo 0x01 || k.isIo 0x08) = true ∧ n.zoned = true then
    zoneRefuses s k.nsid n (k.slba / max 1 (tractBlocks s n)) k.nlb (some (k.slba % max 1 (tractBlocks s n)))
  else if k.isIo 0x7D = true then
    (if k.slba % max 1 (tractBlocks s n) ≠ 0 then scInvalidField
     else zoneRefuses s k.nsid n (k.slba / max 1 (tractBlocks s n)) k.nlb none)
  else 0

/-- The status an I/O command is refused with; 0 for none. A path that is gone refuses no command that runs on (R374); with one
stack left media-changing commands are refused (R322). -/
def ioRefuses (s : State) (k : Cmd) (c : Ctrl) : Nat :=
  if k.opc ∉ ioOpcodes then scInvalidOpcode
  else if k.opc = 0 ∧ k.nsid = 0xFFFFFFFF then (if k.lostKey then 0 else if c.ana = 3 then 0x302 else if c.ana = 15 then 0x303 else 0)
  else if k.nsid ∉ c.attach then scBadNamespace
  else match s.ns? k.nsid with
    | none => scBadNamespace
    | some n =>
      if c.ana = 3 ∧ k.lostKey = false then 0x302
      else if c.ana = 15 ∧ k.lostKey = false then 0x303
      else if setHas n k.opc = false then scInvalidOpcode
      else if n.sanitize = 2 then scSanitizing
      else if n.sanitize = 3 then 0x1C
      else if keyLoaded s n = false then scNotReady
      else if k.resvKind.any (fun w => n.resv.refuses (hostOf c) w) then scResvConflict
      else if k.changes = true ∧ (n.wprot = true ∨ n.importing = true ∨ s.fen.bench5 = true ∨ (stacksUp s).length < 2) then scProtected
      else if sealRefuses s k ≠ 0 then sealRefuses s k
      else rangeRefuses s k c n

/-- The status a fetched command is refused with at admission; 0 where it may be admitted (R333, R348). Before in-band
authentication has succeeded every command needs it (R453); a discovery controller takes what discovery needs (R448). -/
def cmdRefuses (s : State) (k : Cmd) (c : Ctrl) : Nat :=
  if c.authOk = false then 0x191
  else if c.discovery = true ∧ (k.admin = false ∨ k.opc ∉ [0x02, 0x06, 0x0C, 0x18]) then scInvalidOpcode
  else if k.sqe.fuse ≠ 0#2 then scInvalidField else if k.admin then adminRefuses s k c else ioRefuses s k c

/-! ### Waiting for room (R75, R302, R401 to R403) -/

/-- Units of dirty data that a command may make: whole leaves of what it writes; for Write Zeroes the leaves cut at its ends.
A Copy's ranges are not in its entry. -/
def dirtyNeed (s : State) (k : Cmd) : Nat :=
  match s.ns? k.nsid with
  | none => 0
  | some n =>
    if k.isIo 0x01 then (leafSpan n k.slba k.nlb).2
    else if k.isIo 0x7D then
      (leafSpan n (k.slba + (zonePtr n (k.slba / max 1 (tractBlocks s n))).1) k.nlb).2
    else if k.isIo 0x08 then
      (if k.slba * 2 ^ n.lbaShift % 4096 = 0 ∧ k.nlb * 2 ^ n.lbaShift % 4096 = 0 then 0 else 2 * max 1 (2 ^ n.leafShift / 4096))
    else 0

/-- Writes admitted that have not committed. -/
def openWrites (s : State) : List Cmd :=
  (s.nvq.slots.filter (fun e => decide (e.2.state = .admitted ∧ e.2.waits = false) && e.2.writesData)).map Prod.snd

/-- Units that those writes will make dirty. -/
def reservedUnits (s : State) (p : Cmd → Bool) : Nat := ((openWrites s).filter p).foldl (fun a k => a + dirtyNeed s k) 0

/-- Dirty data of a class with what its admitted writes will add (R401). -/
def classDirty (s : State) (c : Nat) : Nat :=
  (s.map.dirty.filter (fun e => decide (e.2.cls = c))).length + reservedUnits s (fun k => decide (k.cls = c))

/-- The tracts that a write touches. -/
def touchedTracts (s : State) (k : Cmd) : List Nat :=
  match s.ns? k.nsid with
  | none => []
  | some n =>
    let b := max 1 (tractBlocks s n)
    ((List.range ((k.slba + k.nlb - 1) / b + 1 - k.slba / b)).filterMap (fun i => nsTract s k.nsid (k.slba / b + i)))

/-- Tracts FILLING, device-wide (R75). -/
def fillingTracts (s : State) : Nat := (s.map.core.tracts.filter (fun e => decide (e.2.state = .filling))).length

/-- Work on tracts would make the device hold more than 16,384 FILLING ones (R75). -/
def fillingFull (s : State) (ltns : List Nat) : Bool :=
  let new := ((ltns.eraseDups).filter (fun l => decide ((tractOf s l).state = .unmapped))).length
  decide (0 < new ∧ 16384 < fillingTracts s + new)

/-- The write would make the device hold more than 16,384 FILLING tracts (R75): Write, Zone Append, and Write Zeroes of a zoned
namespace. -/
def overFilling (s : State) (k : Cmd) : Bool :=
  (k.isIo 0x01 || k.isIo 0x7D || (k.isIo 0x08 && (s.ns? k.nsid).any Namespace.zoned)) && fillingFull s (touchedTracts s k)

/-- The write would open a new log (R403): a conventional tract with none, in a unit already written or a tract not FILLING. -/
def opensLog (s : State) (k : Cmd) : Bool :=
  match s.ns? k.nsid with
  | none => false
  | some n =>
    !n.zoned && (k.isIo 0x01 || k.isIo 0x08 || k.deallocates) &&
      ((touchedTracts s k).any (fun l => (tractOf s l).log.isNone && decide ((tractOf s l).state ≠ .unmapped)) &&
        spanWritten s k.nsid n k.slba k.nlb)

/-- Room for `n` more units on the two stacks with the least dirty data (R302, R303). -/
def stackRoom (s : State) (n : Nat) : Bool :=
  let up := (stacksUp s).length
  match dirtyStacks s with
  | none => false
  | some (a, b) => decide (up * (dirtyOn s a + n) ≤ 2 * dirtyLimitUnits s ∧ up * (dirtyOn s b + n) ≤ 2 * dirtyLimitUnits s)

/-- The limit that paces writes: a POWER re-apply that lowers the dirty limit paces to the new one (R54). -/
def paceLimitUnits (s : State) : Nat :=
  match s.cfg.reapply with
  | none => dirtyLimitUnits s
  | some r => if r.lot = 0x0D ∧ r.waitHt = false then min (dirtyLimitUnits s) (256 * r.image.power.limitMiB) else dirtyLimitUnits s

/-- The device is at its dirty limit for `n` more units. -/
def overLimit (s : State) (n : Nat) : Bool :=
  decide (paceLimitUnits s < dirtyUnits s + reservedUnits s (fun _ => true) + n) || !stackRoom s n

/-- The class would pass its DIRTY_MAX (R401). -/
def overClass (s : State) (c n : Nat) : Bool :=
  decide ((classRec s c).dirtyMax * dirtyLimitUnits s < 100 * (classDirty s c + n))

end Sys2Proof.Machine
end

