-- ==== Sys2Proof/Machine/Sluice.lean ====
section
/-! DEFINITION. Sluice: admission, release of reads, the period, merge credit and forced folds (chapter "Sluice: tenants,
budgets and latency under load"). -/

namespace Sys2Proof.Machine

open Sys2Proof

/-! ### Admission (R302, R361, R375, R378, R401 to R403, R655) -/

/-- The admin commands that Fallow serves without leaving it (R378). -/
def fallowServes (k : Cmd) : Bool := k.admin && decide (k.opc ∈ [0x06, 0x02, 0x0A, 0x18, 0x0C])

/-- A command that Fallow does not serve starts the exit, at once or when the entry ends (R377, R378). -/
def fallowWake (s : State) : State :=
  { s with nvq := { s.nvq with wake := true, fallow := if s.nvq.fallow = 2 then 3 else s.nvq.fallow } }

/-- Admit a command: its class is that of the lot in force (R53, R392). -/
def admitSlot (n : Nat) (k : Cmd) (s : State) : State :=
  s.putSlot n { k with state := .admitted, cls := classify s k.ctrl k.nsid k.sqid }

/-- A write that needs room in the Mere waits or is admitted (R75, R302, R401, R403). -/
def admitWrite (n : Nat) (k : Cmd) (s : State) : State :=
  let c := classify s k.ctrl k.nsid k.sqid
  let need := dirtyNeed s k
  if need ≠ 0 ∧ overLimit s need = true then s.wr F.SLU_STAT_PACING 1
  else if need ≠ 0 ∧ overClass s c need = true then s.wr F.SLU_EVT_DIRTY_CAP 1
  else if overFilling s k then s
  else if opensLog s k = true ∧ logWaits s c = true then s
  else admitSlot n k s

/-- SLUICE_ADMIT (R361): refused, waiting in its slot, or admitted. -/
def execSluiceAdmit (slot : SlotNo) (s : State) : Result :=
  let s := s.begin
  let n := slot.val
  .next (match s.slot? n with
    | none => s
    | some k =>
      match s.ctrl? k.ctrl with
      | none => s
      | some c =>
        if k.state ≠ .fetched ∨ s.nvq.act ≠ 0 ∨ s.pwr.decided = true then s
        else if s.nvq.fallow ≠ 0 ∧ fallowServes k = false then fallowWake s
        else if s.tmon.hold = true ∧ fallowServes k = false ∧ k.isIo 0x00 = false then s
        else if cmdRefuses s k c ≠ 0 then finishCmd n (cmdRefuses s k c) 0 0 s
        else if k.changes || k.isIo 0x19 then admitWrite n k s
        else admitSlot n k s)

/-! ### Release of reads (R405, R406) -/

/-- Host reads released for a die whose command still runs. -/
def releasedOn (s : State) (die : Nat) : Nat :=
  (s.slu.out.filter (fun e => decide (e.2 = die) && (s.slot? e.1).any (fun k => decide (k.state = .admitted)))).length

/-- DIE_Q in force (R412). -/
def dieQ (s : State) : Nat := bits s.slu.ctl 0 4

/-- A command that reads the media. -/
def Cmd.reads (k : Cmd) : Bool := k.isIo 0x02 || k.isIo 0x05 || k.isIo 0x0C

/-- The dies, as 32 link + die, that hold the newest media copy of a unit (R72). -/
def unitDies (s : State) (ltn u : Nat) : List Nat :=
  let t := tractOf s ltn
  let at_ := fun (id slot : Nat) => ((stripeOf s id).slots[slot]?).map (fun a =>
    let p := addrPlace s (stripeFen id) a
    32 * p.1 + p.2 % diesOf s p.1)
  if (s.map.dirty.find (unitKey ltn u)).isSome then []
  else
    match logPlace s 4096 t.log u with
    | some p => (at_ p.1 (p.2 % rowUnits s / 4)).toList
    | none =>
      let (row, slot, _) := unitPlace s u
      if t.stripe ≠ 0xFFFFFFFF ∧ row < (stripeOf s t.stripe).frontier then (at_ t.stripe slot).toList
      else
        match s.map.core.rows.find (2048 * ltn + row) with
        | some (sid, _) => (at_ sid slot).toList
        | none => []

/-- The dies that a read's leaves lie on. -/
def readDies (s : State) (k : Cmd) : List Nat :=
  match s.ns? k.nsid with
  | none => []
  | some x =>
    let (g, c) := leafSpan x k.slba k.nlb
    ((List.range c).flatMap (fun i => match unitAt s k.nsid (g + i) with | some p => unitDies s p.1 p.2 | none => [])).eraseDups

/-- The command is of an urgent SQ (R342). -/
def cmdUrgent (s : State) (k : Cmd) : Bool := (s.ctrl? k.ctrl).any (fun c => (c.sqs.find k.sqid).any (urgentSq c))

/-- A read's place among those that wait for a die (R397, R406): tier, charge of its class there, age. -/
def readRank (s : State) (l d : Nat) (k : Cmd) : Nat × Nat × Nat :=
  (tierOf s (linkFen s l) l d k.cls (cmdUrgent s k), Tab.get 0 s.slu.charge (chargeKey l d k.cls), k.seq)

/-- Another read that waits for the die goes first (R406): one of a class at no ceiling there. -/
def readAhead (s : State) (n l d : Nat) (k : Cmd) : Bool :=
  let r := readRank s l d k
  s.nvq.slots.any (fun e => decide (e.1 ≠ n ∧ e.2.state = .admitted) && e.2.reads && decide ((e.1, 32 * l + d) ∉ s.slu.out) &&
    !atCeiling s l d e.2.cls && !atLinkCeiling s l e.2.cls && decide (32 * l + d ∈ readDies s e.2) &&
    (let q := readRank s l d e.2
     decide (q.1 < r.1 ∨ (q.1 = r.1 ∧ (q.2.1 < r.2.1 ∨ (q.2.1 = r.2.1 ∧ q.2.2 < r.2.2))))))

/-- SLUICE_READ_RELEASE (R397, R399, R405, R406): at most DIE_Q reads for a die, in their order; a class at its ceiling waits. -/
def execSluiceReadRelease (slot : SlotNo) (link : Link) (die : Fin 32) (s : State) : Result :=
  let s := s.begin
  let d := 32 * link.val + die.val
  .next (match s.slot? slot.val with
    | none => s
    | some k =>
      if k.state ≠ .admitted ∨ k.reads = false ∨ s.pwr.decided = true ∨ dieQ s ≤ releasedOn s d ∨ (slot.val, d) ∈ s.slu.out then s
      else if atCeiling s link.val die.val k.cls then s.wr F.SLU_EVT_CEIL_HIT 1
      else if atLinkCeiling s link.val k.cls = true ∨ readAhead s slot.val link.val die.val k = true then s
      else { s with slu := { s.slu with out := s.slu.out ++ [(slot.val, d)] } })

/-! ### The period (R396, R398, R411, R412, R414, R665) -/

/-- The dies of the members in service. -/
def diesUp (s : State) : Nat :=
  (memberKeys s).foldl (fun a k => a + if inService s (k / 32) (k % 32) then diesOf s (memberLink s (k / 32) (k % 32)) else 0) 0

/-- The charges of a class in the period that ends. -/
def classCharges (s : State) (c : Nat) : List Nat := (s.slu.charge.filter (fun e => decide (e.1 % 256 = c))).map Prod.snd

/-- The classes charged in this period or the last. -/
def chargedClasses (s : State) : List Nat := (s.slu.charge.map (fun (e : Nat × Nat) => e.1 % 256) ++ s.slu.use.keys).eraseDups

/-- The debt after a period: what charge and old debt exceed the class's ceiling by (R396). -/
def nextDebt (s : State) : Tab Nat :=
  ((s.slu.charge.map Prod.fst ++ s.slu.debt.map Prod.fst).eraseDups).foldl (fun t k =>
    Tab.set 0 t k (Tab.get 0 s.slu.charge k + Tab.get 0 s.slu.debt k - (classRec s (k % 256)).dieCeil)) []

/-- HOLD begins (R665): each job keeps the rows it has programmed with good status; how many the period let it program is a free value. -/
def holdJobs (s : State) : State :=
  eachOf s.fen.jobs (fun j s =>
    let upto := max j.row (s.draw ((stripeOf s j.stripe).frontier + 1))
    let s := rebuildRows j upto s.drawn
    { s with fen := { s.fen with jobs := s.fen.jobs.map (fun x => if x = j then { j with row := upto } else x) } }) s

/-- A staged SHARE, BOOST or HOLD takes effect (R665). -/
def applyShare (s : State) : State :=
  match s.fen.pendShare with
  | none => s
  | some (a, b, h) =>
    let s := if h = true ∧ s.fen.hold = false then holdJobs s else s
    { s with fen := { s.fen with share := a, boost := b, hold := h, pendShare := none } }

/-- The internal tier-1 time of a fen's dies (R397, R398): the fold and destage floor while data waits to be destaged or folded, the
metadata floor while journal records or a checkpoint wait, the rebuild's need within what is left, and the share of a catch-up. What a
demand may take counts as in use (DESIGN CHOICE, log entry 35). -/
def tierOneUse (s : State) (f : Nat) : Nat :=
  let fold := if s.map.dirty.isEmpty = true ∧ s.map.folds.isEmpty = true then 0 else 10 * bits s.slu.ctl 8 8
  let metadata := if s.map.pendingJ.isEmpty = true ∧ s.map.ckptNew.isNone = true then 0 else 10 * bits s.slu.ctl 16 8
  let share := if f ∈ s.fen.boosted then s.fen.boost else s.fen.share
  let rebuild := if s.isSet F.FEN_STATE_REBUILDING f = true ∧ s.fen.hold = false then
    min (Config.rebuildDie share) (1000 - fold - metadata) else 0
  let catchup := if s.isSet F.RET_STATUS_CATCHUP = true ∧ backlogOf s f ≠ 0 then 10 * s.rd F.RET_CATCHUP_SHARE else 0
  min 1000 (fold + metadata + rebuild + catchup)

/-- The factor of R398 of a fen's dies; power state 1 lowers the time further, by what the manual does not say (R411): a free value. -/
def scaleOf (s : State) (f : Nat) : Nat :=
  let x := 1000 - tierOneUse s f
  if devicePs s = 1 then x * s.draw 1001 / 1000 else x

/-- The dies of a fen's members in service. -/
def fenDies (s : State) (f : Nat) : Nat :=
  (List.range 32).foldl (fun a i => a + if inService s f i then diesOf s (memberLink s f i) else 0) 0

/-- SLU_STAT.SCALE (R414): the device mean of the factor over the dies in service. -/
def scaleMean (s : State) : Nat :=
  let n := (List.range (fenCount s)).foldl (fun a f => a + fenDies s f) 0
  if n = 0 then 1000 else (List.range (fenCount s)).foldl (fun a f => a + fenDies s f * Tab.get 1000 s.slu.scale f) 0 / n

/-- The factors of a new period (R398). -/
def periodScale (s : State) : State :=
  let t := (List.range (fenCount s)).foldl (fun t f => Tab.set 1000 t f (scaleOf s f)) []
  { s.drawn with slu := { s.slu with scale := t } }

/-- Refresh older than 60 s leaves the credit (R404). -/
def creditAge (s : State) : State :=
  { s with ret := { s.ret with refreshes := s.ret.refreshes.filter (fun e => decide (s.life.now - e.1 ≤ 60)) } }

/-- The mean and the most that each class was charged over the dies (R411, R412). -/
def periodUse (s : State) : State :=
  eachOf (chargedClasses s) (fun c x =>
    let l := classCharges x c
    putUse c { (classUse x c) with last := min 1023 (l.foldl (· + ·) 0 / max 1 (diesUp s)), lastMax := min 1023 (l.foldl max 0) } x) s

/-- The new period's account: no charge, the debts, a lot that waits for the boundary, and the controls (R396, R398, R665). -/
def periodTurn (s : State) : State :=
  let ctl := s.rd F.SLU_CTL_DIE_Q + 2 ^ 8 * s.rd F.SLU_CTL_FOLD_FLOOR + 2 ^ 16 * s.rd F.SLU_CTL_META_FLOOR
  { s with slu := { s.slu with charge := [], linkUse := [], mereUse := [], debt := nextDebt s, lot := s.slu.pendLot.getD s.slu.lot, pendLot := none, ctl := ctl } }

/-- SLU_STAT at a period's start (R414). -/
def periodStat (s : State) : State :=
  let s := s.wr F.SLU_STAT_PERIOD ((s.rd F.SLU_STAT_PERIOD + 1) % 65536)
  let s := s.wr F.SLU_STAT_SCALE (scaleMean s)
  let s := s.wrB F.SLU_STAT_PACING (overLimit s 1)
  s.wrB F.SLU_STAT_POWER_CAP (decide (devicePs s = 1))

/-- SLUICE_PERIOD: the boundary of a 1 ms period. -/
def execSluicePeriod (s : State) : Result := .next (periodStat (periodScale (creditAge (applyShare (periodTurn (periodUse s.begin))))))

/-- MERGE_CREDIT_ACCRUE (R403): the credit gains MERGE_RATE an hour up to MERGE_BURST. -/
def execMergeCreditAccrue (cls : BitVec 8) (milliHours : Nat) (s : State) : Result :=
  let s := s.begin
  let c := cls.toNat
  let u := classUse s c
  .next (putUse c { u with debit := max 0 (u.debit - ((classRec s c).mergeRate * milliHours : Nat)) } s)

/-! ### Forced folds (R408) -/

/-- A write is held under R75. -/
def heldByFilling (s : State) : Bool := s.nvq.slots.any (fun e => decide (e.2.state ≠ .finished) && overFilling s e.2)

/-- Valid rows of a tract. -/
def validRows (s : State) (ltn : Nat) : Nat := ((List.range 2048).filter (fun r => rowValid s ltn r)).length

/-- The FILLING tract of a kind with the most valid rows. -/
def fullestTract (s : State) (zoned : Bool) : Option Nat :=
  ((s.map.core.tracts.filter (fun e => decide (e.2.state = .filling ∧ tractZoned s e.1 = zoned))).foldl
    (fun (a : Option (Nat × Nat)) e =>
      match a with
      | none => some (validRows s e.1, e.1)
      | some (m, t) => if m < validRows s e.1 then some (validRows s e.1, e.1) else some (m, t)) none).map Prod.snd

/-- A Zone Descriptor Changed notice to every controller attached to a namespace. -/
def zoneNotice (nsid : Nat) (s : State) : State := eachOf (ctrlsOf s nsid) (fun c s => aenPost c 2 0xEF 0xBF s) s

/-- Finish a zone: Full, its rest padded by a fold (R77, R351). -/
def finishZone (ltn : Nat) (zfc : Bool) (s : State) : State :=
  match tractOwner s ltn with
  | none => s
  | some (nsid, t) =>
    let s := setZone ltn 14 s
    match s.ns? nsid with
    | none => s
    | some n => putPtr nsid t (zonePtr n t).1 zfc s

/-- A fold that the controller forces is announced and counted (R408). -/
def forcedNote (s : State) : State := (s.wr F.SLU_EVT_FORCED_FOLD 1).count F.SLU_CNT_FORCED_COUNT

/-- FORCED_FOLD (R408): the conventional FILLING tract with the most valid rows is folded to its end; where there is none, the
zoned one, whose zone the controller finishes. -/
def execForcedFold (s : State) : Result :=
  let s := s.begin
  .next (if heldByFilling s = false then s
    else
      match fullestTract s false with
      | some l => forcedNote (startFold l 2048 s)
      | none =>
        match fullestTract s true with
        | none => s
        | some l =>
          let s := startFold l 2048 (finishZone l true s)
          forcedNote (match tractOwner s l with
            | some (n, _) => zoneNotice n s
            | none => s))

end Sys2Proof.Machine
end

