-- ==== Sys2Proof/Machine/NvmeIo.lean ====
section
/-! DEFINITION. I/O commands: Flush, reads and writes, Compare, Verify, Copy, deallocation and zones (chapters "Host command
intake", "Ordering, durability and error reporting", "Media format"). -/

namespace Sys2Proof.Machine

open Sys2Proof

/-! ### Writing leaves (R24, R82, R178 to R180, R362) -/

/-- Every leaf that a range covers in part can be read (R180). -/
def oldLeavesOk (s : State) (nsid : Nat) (n : Namespace) (slba nlb : Nat) : Bool :=
  let r := max (2 ^ n.leafShift) 4096
  let a := slba * 2 ^ n.lbaShift
  let b := (slba + nlb) * 2 ^ n.lbaShift
  let (g, c) := leafSpan n slba nlb
  (List.range c).all (fun i =>
    let leaf := (g + i) * 4096 / r * r
    (decide (a ≤ leaf) && decide (leaf + r ≤ b)) || (readUnit s nsid (g + i)).isSome)

/-- The plaintext of a unit after a write: the written blocks, the old ones elsewhere (R180). -/
def mergedPayload (s : State) (nsid : Nat) (n : Namespace) (slba : Nat) (data : List Nat) (nlb g : Nat) : Nat :=
  let size := 2 ^ n.lbaShift
  let first := g * 4096 / size
  let old := ((readUnit s nsid g).map UnitData.payload).getD 0
  if 4096 < size then old
  else (List.range (4096 / size)).foldl (fun a i =>
    let lba := first + i
    let v := if slba ≤ lba ∧ lba < slba + nlb then data.getD (lba - slba) 0 % 2 ^ (8 * size) else bits old (8 * size * i) (8 * size)
    a + v * 2 ^ (8 * size * i)) 0

/-- The incomplete rows of a tract held in the Mere (R76). -/
def incompleteRows (s : State) (ltn : Nat) : List Nat :=
  let rows := ((s.map.dirty.filter (fun e => decide (e.1 / 262144 = ltn) && !e.2.toLog)).map (fun e => e.1 % 262144 / rowUnits s)).eraseDups
  rows.filter (fun r => decide (((rowDirty s ltn r).filter (fun e => !e.2.toLog)).length < rowUnits s))

/-- Whether a conventional write of a unit goes to the log (R82, R76); `whole` where the write covers the unit's whole tract row. -/
def goesToLog (s : State) (ltn u : Nat) (whole : Bool) : Bool :=
  let t := tractOf s ltn
  if t.state ≠ .filling then true
  else if alreadyWritten s ltn u then true
  else if whole then false
  else match s.map.dirty.find (unitKey ltn u) with
    | some d => d.toLog
    | none => decide (u / rowUnits s ∉ incompleteRows s ltn ∧ 4 ≤ (incompleteRows s ltn).length)

/-- A zoned write that would open a fifth incomplete row programs the oldest one first (R76). -/
def fifthRow (ltn u : Nat) (s : State) : State :=
  let rows := incompleteRows s ltn
  if u / rowUnits s ∉ rows ∧ 4 ≤ rows.length then
    match rows with
    | r :: t => destageRow ltn (t.foldl min r) none s
    | [] => s
  else s

/-- Tell the running exports of a namespace that a tract has changed (R479). -/
def noteChanged (nsid t : Nat) (s : State) : State :=
  { s with cwy := { s.cwy with migs := s.cwy.migs.map (fun e =>
    if e.2.export_ = true ∧ e.2.nsid = nsid ∧ e.2.ended = 0 then (e.1, { e.2 with changed := addNew t e.2.changed }) else e) } }

/-- A tract leaves UNMAPPED with its first write (R71). -/
def enterFilling (ltn : Nat) (s : State) : State :=
  let t := tractOf s ltn
  if t.state = .unmapped then journal (.tractMap ltn { t with state := .filling }) s else s

/-- One unit becomes dirty on two stacks (R24, R303); what was declared lost there is replaced (R121). -/
def putDirty (nsid ltn u cls : Nat) (zoned whole : Bool) (d : UnitData) (st : Nat × Nat) (s : State) : State :=
  let s := enterFilling ltn s
  let s := if zoned && !whole then fifthRow ltn u s else s
  let log := !zoned && goesToLog s ltn u whole
  let key := unitKey ltn u
  let s := placeDirty key { data := d, s1 := st.1, s2 := st.2, cls := cls, nsid := nsid, toLog := log } (dropClean key (key + 1) s)
  clearLost ltn (8 * u) 8 { s with map := { s.map with rowIdle := s.map.rowIdle.del (2048 * ltn + u / rowUnits s) } }

/-- A write of these units covers the whole tract row that one of them lies in. -/
def wholeRow (s : State) (l : List (Nat × Nat)) (p : Nat × Nat) : Bool :=
  decide ((l.filter (fun q => decide (q.1 = p.1 ∧ q.2 / rowUnits s = p.2 / rowUnits s))).length = rowUnits s)

/-- The keys of the units that a range's leaves lie in. -/
def spanKeys (s : State) (nsid : Nat) (n : Namespace) (slba nlb : Nat) : List Nat :=
  let (g, c) := leafSpan n slba nlb
  (List.range c).filterMap (fun i => (unitAt s nsid (g + i)).map (fun p => unitKey p.1 p.2))

/-- The write of a block range commits (R362): every leaf sealed under a new WSEQ and held on two stacks. None where an old leaf
cannot be read, or no two stacks can hold it. -/
def commitWrite (nsid cls slba nlb : Nat) (data : List Nat) (s : State) : Option State :=
  match s.ns? nsid, dirtyStacks s with
  | some n, some st =>
    if oldLeavesOk s nsid n slba nlb = false then none
    else
      let r := max (2 ^ n.leafShift) 4096
      let (g, c) := leafSpan n slba nlb
      let units := (List.range c).filterMap (fun i =>
        (unitAt s nsid (g + i)).map (fun p =>
          (p, ({ payload := mergedPayload s nsid n slba data nlb (g + i), wseq := n.wseq + i * 4096 / r } : UnitData))))
      let s := drawWseq nsid (c * 4096 / r) s
      let places := units.map Prod.fst
      let s := units.foldl (fun s x => putDirty nsid x.1.1 x.1.2 cls n.zoned (wholeRow s places x.1) x.2 st s) s
      let b := max 1 (tractBlocks s n)
      some (eachOf ((List.range ((slba + nlb - 1) / b + 1 - slba / b)).map (fun i => slba / b + i)) (noteChanged nsid) s)
  | _, _ => none

/-! ### Reads (R28, R29, R344) -/

/-- A block command on its namespace: one that is gone completes with 0x0B. -/
def blockCmd (n : Nat) (o : Nat) (f : Cmd → Ctrl → Namespace → State → State) (s : State) : State :=
  withCmd n (fun k => k.isIo o) (fun k c s =>
    match s.ns? k.nsid with
    | none => finishCmd n scBadNamespace 0 0 s
    | some x => f k c x s) s

/-- Host reads and their 512-byte units, for the SMART page (R155, NVMe Base 2.0). -/
def countRead (k : Cmd) (x : Namespace) (s : State) : State := healthAdd 22 (k.nlb * 2 ^ x.lbaShift / 512) (healthAdd 20 1 s)

/-- Host writes and their 512-byte units. -/
def countWrite (k : Cmd) (x : Namespace) (s : State) : State := healthAdd 23 (k.nlb * 2 ^ x.lbaShift / 512) (healthAdd 21 1 s)

/-- A unit read from the media passes through the Mere (R25): a clean copy of it stands there, on one stack (R304) of the device
firmware's choosing, a free value. -/
def stageUnit (key : Nat) (s : State) : State :=
  match resolveUnit s (key / 262144) (key % 262144) with
  | none => s
  | some d =>
    let up := stacksUp s
    if (s.map.dirty.find key).isSome ∨ (s.map.clean.find key).isSome then s
    else
      let r := freshRegion s (up.getD (s.draw (max 1 up.length)) 0)
      let s := (fillRegion r s).drawn
      { s with map := { s.map with clean := s.map.clean.put key (d, r) } }

/-- NVME_READ (R25, R28, R29, R344): the data of whole verified leaves, or an unrecovered-read status with none. With no stack in service
nothing can be staged, and the command waits. -/
def execNvmeRead (slot : SlotNo) (s : State) : Result :=
  .next (blockCmd slot.val 0x02 (fun k _ x s =>
    if (stacksUp s).isEmpty then s
    else if leavesOk s k.nsid x k.slba k.nlb then
      let data := readBlocks s k.nsid x k.slba k.nlb
      finishCmd slot.val scOk 0 0
        ((eachOf (spanKeys s k.nsid x k.slba k.nlb) stageUnit (countRead k x s)).emit (.hostData k.ctrl k.sqe.cid.toNat data))
    else finishCmd slot.val scUnrecovered 0 0 (countUnrecovered s)) s.begin)

/-- COMPARE (R330): plaintext against the host's data. -/
def execCompare (slot : SlotNo) (data : List Nat) (s : State) : Result :=
  .next (blockCmd slot.val 0x05 (fun k _ x s =>
    if leavesOk s k.nsid x k.slba k.nlb = false then finishCmd slot.val scUnrecovered 0 0 (countUnrecovered s)
    else if readBlocks s k.nsid x k.slba k.nlb = (List.range k.nlb).map (fun i => data.getD i 0 % 2 ^ (8 * 2 ^ x.lbaShift)) then
      finishCmd slot.val scOk 0 0 (countRead k x s)
    else finishCmd slot.val scCompareFail 0 0 (countRead k x s)) s.begin)

/-- The units that a range's leaves lie in, as (tract, unit). -/
def rangeUnits (s : State) (k : Cmd) (x : Namespace) : List (Nat × Nat) :=
  let (g, c) := leafSpan x k.slba k.nlb
  (List.range c).filterMap (fun i => unitAt s k.nsid (g + i))

/-- VERIFY (R151, R152, R154): a pass over the leaves of the range; dword 0 is its pass ID. The raw error counts are what the
decoders measure: a free bin. A unit that cannot be reconstructed is declared lost (R121, R152). -/
def execVerify (slot : SlotNo) (s : State) : Result :=
  .next (blockCmd slot.val 0x0C (fun k _ x s =>
    let ok := leavesOk s k.nsid x k.slba k.nlb
    let id := s.ret.nextPass
    let units := rangeUnits s k x
    let read := units.filter (fun e => !passSkips s e.1 e.2)
    let gone := read.filter (fun e => (resolveUnit s e.1 e.2).isNone)
    let tags := (read.filter (fun e => decide (e ∉ gone))).foldl (fun a e => a + unitTags s e.1 e.2) 0
    let s := newPass { id := 0, origin := 1, nsid := k.nsid, first := k.slba, count := k.nlb, state := 2, began := s.life.now,
                       ended := s.life.now, cwChecked := read.length, tagsOk := tags, lost := gone.length,
                       hist := (List.range 8).map (fun i => if i = s.draw 8 then read.length else 0), skipped := units.length - read.length } s.drawn
    let s := eachOf gone (fun e s => declareUnitLost e.1 e.2 s) s
    if ok then finishCmd slot.val scOk id 0 s else finishCmd slot.val scUnrecovered id 0 (countUnrecovered s)) s.begin)

/-! ### Flush (R366, R367) -/

/-- NVME_FLUSH: it completes at once where nothing it covers remains to be programmed, else when that is durable. -/
def execNvmeFlush (slot : SlotNo) (s : State) : Result :=
  .next (withCmd slot.val (fun k => k.isIo 0x00) (fun k _ s =>
    if durableFor s k then finishCmd slot.val scOk 0 0 s
    else s.putSlot slot.val { k with waits := true }) s.begin)

/-! ### Writes (R24, R362 to R364) -/

/-- A zoned write moves the write pointer; the zone opens, and is Full at its end (R351). -/
def zoneAdvance (nsid t nlb : Nat) (s : State) : State :=
  match s.ns? nsid, nsTract s nsid t with
  | some n, some ltn =>
    let (wp, zfc) := zonePtr n t
    let z := zoneState s ltn
    let s := putPtr nsid t (wp + nlb) zfc s
    if wp + nlb = tractBlocks s n then setZone ltn 14 s
    else if z = 1 ∨ z = 4 then setZone ltn 2 s
    else s
  | _, _ => s

/-- The tracts that a block range touches. -/
def rangeTracts (s : State) (nsid : Nat) (x : Namespace) (slba nlb : Nat) : List Nat :=
  ((spanKeys s nsid x slba nlb).map (· / 262144)).eraseDups

/-- A write of data: it commits and completes, or fails with nothing changed. With fewer than two stacks, or with no FILLING tract to be
had, it waits (R322, R75). -/
def runWrite (n : Nat) (k : Cmd) (x : Namespace) (slba : Nat) (data : List Nat) (dw0 dw1 : Nat) (s : State) : State :=
  if (dirtyStacks s).isNone = true ∨ fillingFull s (rangeTracts s k.nsid x slba k.nlb) = true then s
  else match commitWrite k.nsid k.cls slba k.nlb data s with
    | none => finishCmd n scUnrecovered 0 0 (countUnrecovered s)
    | some s =>
      let s := countWrite k x s
      let s := if x.zoned then zoneAdvance k.nsid (slba / max 1 (tractBlocks s x)) k.nlb s else s
      finishWrite n k.fua (spanKeys s k.nsid x slba k.nlb) dw0 dw1 s

/-- A write that has a place: at the write pointer in a zoned namespace (R351). -/
def placedWrite (n : Nat) (k : Cmd) (x : Namespace) (data : List Nat) (s : State) : State :=
  let b := max 1 (tractBlocks s x)
  let no := if x.zoned then zoneRefuses s k.nsid x (k.slba / b) k.nlb (some (k.slba % b)) else 0
  if no ≠ 0 then finishCmd n no 0 0 s else runWrite n k x k.slba data 0 0 s

/-- NVME_WRITE. -/
def execNvmeWrite (slot : SlotNo) (data : List Nat) (s : State) : Result :=
  .next (blockCmd slot.val 0x01 (fun k _ x s => placedWrite slot.val k x data s) s.begin)

/-- ZONE_APPEND (R351): written at the write pointer; DW1:DW0 is the LBA assigned. -/
def execZoneAppend (slot : SlotNo) (data : List Nat) (s : State) : Result :=
  .next (blockCmd slot.val 0x7D (fun k _ x s =>
    let b := max 1 (tractBlocks s x)
    let no := zoneRefuses s k.nsid x (k.slba / b) k.nlb none
    let lba := k.slba / b * b + (zonePtr x (k.slba / b)).1
    if no ≠ 0 then finishCmd slot.val no 0 0 s
    else runWrite slot.val k x lba data (lba % 2 ^ 32) (lba / 2 ^ 32) s) s.begin)

/-! ### Deallocation and zeros (R66, R82, R362) -/

/-- The LOG_UNITS records that set `c` sub-map entries to 0xFFFE: COUNT has 16 bits (R96). -/
def zeroRecords (g u c : Nat) (s : State) : State :=
  eachOf (List.range ((c + 65534) / 65535)) (fun i s => journal (.logUnits g (u + 65535 * i) 0xFFFE (min 65535 (c - 65535 * i))) s) s

/-- Zero whole units [u, u + c) of part of a tract (R82): sub-map entries 0xFFFE in its log, dirty copies released. None where
no log can be opened. -/
def zeroUnits (ltn u c cls : Nat) (s : State) : Option State :=
  if c = 0 ∨ (tractOf s ltn).state = .unmapped then some s
  else
    let r := match (tractOf s ltn).log with
      | some g => some (g, s)
      | none => openLog ltn none cls s
    match r with
    | none => none
    | some (g, s) =>
      let keys := ((s.map.dirty.filter (fun e => decide (unitKey ltn u ≤ e.1 ∧ e.1 < unitKey ltn u + c))).map Prod.fst)
      some (clearLost ltn (8 * u) (8 * c) (dropClean (unitKey ltn u) (unitKey ltn u + c) (dropDirty keys (zeroRecords g u c s))))

/-- One tract's part [a, b) of a zeroed range, in bytes within the tract (R82): the whole tract is UNMAPPED, whole units are
entered in the log, the blocks left over are written as zeros. None where a step cannot be done. -/
def zeroPart (nsid cls t a b : Nat) (s : State) : Option State :=
  match nsTract s nsid t, s.ns? nsid with
  | some ltn, some n =>
    if a = 0 ∧ b = tractBytes s then some (noteChanged nsid t (unmapTract ltn s))
    else
      let u0 := (a + 4095) / 4096
      let u1 := b / 4096
      let size := 2 ^ n.lbaShift
      let base := t * tractBytes s
      let zeros := fun (x y : Nat) (s : State) =>
        if y ≤ x ∨ (tractOf s ltn).state = .unmapped then some s else commitWrite nsid cls ((base + x) / size) ((y - x) / size) [] s
      if u1 < u0 then zeros a b s
      else
        (zeros a (u0 * 4096) s).bind (fun s => (zeros (u1 * 4096) b s).bind (fun s =>
          (zeroUnits ltn u0 (u1 - u0) cls s).map (noteChanged nsid t)))
  | _, _ => some s

/-- Zero a block range of a conventional namespace, tract by tract (R82, R371). -/
def zeroRange (nsid cls slba nlb : Nat) (s : State) : Option State :=
  match s.ns? nsid with
  | none => some s
  | some n =>
    let tb := max 1 (tractBytes s)
    let a := slba * 2 ^ n.lbaShift
    let b := (slba + nlb) * 2 ^ n.lbaShift
    (List.range ((b - 1) / tb + 1 - a / tb)).foldl (fun r i => r.bind (fun s =>
      let t := a / tb + i
      zeroPart nsid cls t (a - t * tb) (min b ((t + 1) * tb) - t * tb) s)) (some s)

/-- Whole tracts of a range on which a copy or a fold runs: their deallocation completes when the record is durable (R86). -/
def zeroBusy (s : State) (k : Cmd) (x : Namespace) (l : List LbaRange) : Bool :=
  l.any (fun e => (rangeTracts s k.nsid x e.slba e.nlb).any (fun t =>
    ((s.map.copies.find t).isSome || (s.map.folds.find t).isSome) &&
      decide (((spanKeys s k.nsid x e.slba e.nlb).filter (fun u => decide (u / 262144 = t))).length = tractUnits s)))

/-- Logs that zeroing a range would have to open are more than the descriptors left (R83). -/
def logsShort (s : State) (k : Cmd) (x : Namespace) (l : List LbaRange) : Bool :=
  let ts := (l.flatMap (fun e => rangeTracts s k.nsid x e.slba e.nlb)).eraseDups
  decide (4096 < s.map.core.logs.length + (ts.filter (fun t => (tractOf s t).log.isNone && decide ((tractOf s t).state ≠ .unmapped))).length)

/-- The end of a zeroing command: where a log cannot be opened it waits in its slot (R83); an unreadable leaf fails it. -/
def endZero (n : Nat) (k : Cmd) (x : Namespace) (l : List LbaRange) (r : Option State) (s : State) : State :=
  match r with
  | some t =>
    let fua := k.isIo 0x08 && k.fua
    let covers := if fua || forceFua s then
      l.flatMap (fun e => (spanKeys t k.nsid x e.slba e.nlb).filter (fun u => (t.map.dirty.find u).isSome)) else []
    finishWrite n (fua || zeroBusy s k x l) covers 0 0 t
  | none =>
    if l.all (fun e => oldLeavesOk s k.nsid x e.slba e.nlb) then (if logsShort s k x l then s.wr F.MAP_STATUS_LOG_PACING 1 else s)
    else finishCmd n scUnrecovered 0 0 (countUnrecovered s)

/-- WRITE_ZEROES (R82, R330): a zoned namespace takes it as a write of zeros at the write pointer. -/
def execWriteZeroes (slot : SlotNo) (s : State) : Result :=
  .next (blockCmd slot.val 0x08 (fun k _ x s =>
    if x.zoned then placedWrite slot.val k x [] s
    else endZero slot.val k x [{ slba := k.slba, nlb := k.nlb }] (zeroRange k.nsid k.cls k.slba k.nlb s) s) s.begin)

/-- DATASET_MANAGEMENT (R82, R330): its Deallocate attribute; the others, and a zoned namespace, change nothing. -/
def execDatasetManagement (slot : SlotNo) (ranges : List LbaRange) (s : State) : Result :=
  .next (blockCmd slot.val 0x09 (fun k _ x s =>
    let l := (ranges.take (bits (k.dw 10) 0 8 + 1)).filter (fun e => decide (e.nlb ≠ 0))
    if k.deallocates = false ∨ x.zoned = true then finishCmd slot.val scOk 0 0 s
    else if l.any (fun e => decide (nsBlocks s k.nsid x < e.slba + e.nlb)) then finishCmd slot.val scLbaRange 0 0 s
    else endZero slot.val k x l (l.foldl (fun r e => r.bind (zeroRange k.nsid k.cls e.slba e.nlb)) (some s)) s) s.begin)

/-! ### Copy (R330, R362) -/

/-- Copy the ranges in order: each destination write commits on its own. Answers the index of the first range that fails. -/
def copyRanges (k : Cmd) (x : Namespace) (i dst : Nat) (l : List LbaRange) (s : State) : Option Nat × State :=
  match l with
  | [] => (none, s)
  | e :: r =>
    if leavesOk s k.nsid x e.slba e.nlb = false then (some i, s)
    else match commitWrite k.nsid k.cls dst e.nlb (readBlocks s k.nsid x e.slba e.nlb) s with
      | none => (some i, s)
      | some s => copyRanges k x (i + 1) (dst + e.nlb) r s

/-- COPY (R330): up to 128 ranges of at most 8 MiB each, 64 MiB in all. -/
def execCopy (slot : SlotNo) (ranges : List LbaRange) (s : State) : Result :=
  .next (blockCmd slot.val 0x19 (fun k _ x s =>
    let l := ranges.take (bits (k.dw 12) 0 8 + 1)
    let size := 2 ^ x.lbaShift
    let total := l.foldl (fun a e => a + e.nlb) 0
    if 128 < bits (k.dw 12) 0 8 + 1 ∨ l.any (fun e => decide (8388608 < e.nlb * size)) = true ∨ 67108864 < total * size then
      finishCmd slot.val 0x183 0 0 s
    else if bits (k.dw 12) 8 4 ≠ 0 then finishCmd slot.val scInvalidField 0 0 s
    else if nsBlocks s k.nsid x < k.slba + total ∨ l.any (fun e => decide (nsBlocks s k.nsid x < e.slba + e.nlb)) = true then
      finishCmd slot.val scLbaRange 0 0 s
    else if nvqSealed s = true ∧ spanWritten s k.nsid x k.slba total = true then finishCmd slot.val scProtected 0 0 s
    else if fillingFull s (rangeTracts s k.nsid x k.slba total) then s
    else if overLimit s (leafSpan x k.slba total).2 ∧ (leafSpan x k.slba total).2 ≤ dirtyLimitUnits s then s.wr F.SLU_STAT_PACING 1
    else match copyRanges k x 0 k.slba l s with
      | (some i, s) => finishCmd slot.val scUnrecovered i 0 (countUnrecovered s)
      | (none, s) => finishWrite slot.val k.fua (spanKeys s k.nsid x k.slba total) 0 0 s) s.begin)

/-! ### Zone management (R77, R86, R351) -/

/-- The zones a Zone Management Send names: one, or with Select All those in given states. -/
def zonesNamed (s : State) (k : Cmd) (x : Namespace) (states : List Nat) : List (Nat × Nat) :=
  if bitOf (k.dw 13) 8 then
    (List.range (nsTracts s k.nsid)).filterMap (fun t =>
      match nsTract s k.nsid t with
      | some l => if zoneState s l ∈ states then some (t, l) else none
      | none => none)
  else match nsTract s k.nsid (k.slba / max 1 (tractBlocks s x)) with
    | some l => [(k.slba / max 1 (tractBlocks s x), l)]
    | none => []

/-- A Zone Management Send of an action: each zone named must be in a state it applies to (else 0x1BF). -/
def zoneSend (n action : Nat) (states : List Nat) (f : Cmd → Namespace → List (Nat × Nat) → State → State) (s : State) : State :=
  blockCmd n 0x79 (fun k _ x s =>
    if k.zsa ≠ action then s
    else
      let l := zonesNamed s k x states
      if l.any (fun e => decide (zoneState s e.2 ∉ states)) then finishCmd n 0x1BF 0 0 s else f k x l s) s

/-- ZONE_OPEN: to Explicitly Opened within MOR (R351). -/
def execZoneOpen (slot : SlotNo) (s : State) : Result :=
  .next (zoneSend slot.val 3 [1, 2, 3, 4] (fun k x l s =>
    let l := if bitOf (k.dw 13) 8 then l.filter (fun e => decide (zoneState s e.2 = 4)) else l
    let new := (l.filter (fun e => decide (zoneState s e.2 ≠ 2 ∧ zoneState s e.2 ≠ 3))).length
    if x.mor + 1 < zonesOpen s k.nsid + new then finishCmd slot.val 0x1BE 0 0 s
    else finishCmd slot.val scOk 0 0 (eachOf l (fun e s => setZone e.2 3 s) s)) s.begin)

/-- ZONE_CLOSE: open zones become Closed. -/
def execZoneClose (slot : SlotNo) (s : State) : Result :=
  .next (zoneSend slot.val 1 [2, 3, 4] (fun k _ l s =>
    let l := if bitOf (k.dw 13) 8 then l.filter (fun e => decide (zoneState s e.2 ≠ 4)) else l
    finishCmd slot.val scOk 0 0 (eachOf l (fun e s => setZone e.2 4 s) s)) s.begin)

/-- ZONE_FINISH (R77, R362): the zone is Full when its record is in the journal; a fold pads the rest, of an UNMAPPED tract all of it (log
entry 37). -/
def execZoneFinish (slot : SlotNo) (s : State) : Result :=
  .next (zoneSend slot.val 2 [1, 2, 3, 4, 14] (fun k _ l s =>
    let l := l.filter (fun e => decide (zoneState s e.2 ≠ 14) && (!bitOf (k.dw 13) 8 || decide (zoneState s e.2 ≠ 1)))
    if fillingFull s (l.map Prod.snd) then s
    else
    let s := eachOf l (fun e s =>
      noteChanged k.nsid e.1 (startFold e.2 2048 (finishZone e.2 false (enterFilling e.2 s)))) s
    finishWrite slot.val false [] 0 0 s) s.begin)

/-- ZONE_RESET (R86, R362): the tract is UNMAPPED and the pointer at the start. During a copy or a fold the command completes
when the record is durable. -/
def execZoneReset (slot : SlotNo) (s : State) : Result :=
  .next (zoneSend slot.val 4 [1, 2, 3, 4, 14] (fun k _ l s =>
    let busy := l.any (fun e => (s.map.copies.find e.2).isSome || (s.map.folds.find e.2).isSome)
    let s := eachOf l (fun e s => noteChanged k.nsid e.1 (putPtr k.nsid e.1 0 false (unmapTract e.2 s))) s
    finishWrite slot.val busy [] 0 0 s) s.begin)

/-- One zone descriptor of Report Zones at a byte offset. -/
def zoneDescriptor (s : State) (x : Namespace) (o t ltn : Nat) : List (Nat × Nat × Nat) :=
  let (wp, zfc) := zonePtr x t
  let b := tractBlocks s x
  [(o, 1, 2), (o + 1, 1, 16 * zoneState s ltn), (o + 2, 1, b2n zfc), (o + 8, 8, b), (o + 16, 8, t * b),
   (o + 24, 8, if zoneState s ltn = 14 then 2 ^ 64 - 1 else t * b + wp)]

/-- The states that ZRASF selects (NVMe ZNS): 0 all, 1 Empty, 2 to 3 open, 4 Closed, 5 Full, 6 Read Only, 7 Offline. -/
def zrasfSelects (f z : Nat) : Bool := decide (f = 0 ∨ (f = 1 ∧ z = 1) ∨ (f = 2 ∧ z = 2) ∨ (f = 3 ∧ z = 3) ∨ (f = 4 ∧ z = 4) ∨ (f = 5 ∧ z = 14))

/-- ZONE_MANAGEMENT_RECEIVE: Report Zones; no extended report (R330). -/
def execZoneManagementReceive (slot : SlotNo) (s : State) : Result :=
  .next (blockCmd slot.val 0x7A (fun k _ x s =>
    let b := max 1 (tractBlocks s x)
    if bits (k.dw 13) 0 8 ≠ 0 ∨ 7 < bits (k.dw 13) 8 8 then finishCmd slot.val scInvalidField 0 0 s
    else if nsBlocks s k.nsid x ≤ k.slba then finishCmd slot.val scLbaRange 0 0 s
    else
      let zones := ((List.range (nsTracts s k.nsid)).filter (fun t => decide (k.slba / b ≤ t))).filterMap (fun t =>
        match nsTract s k.nsid t with
        | some l => if zrasfSelects (bits (k.dw 13) 8 8) (zoneState s l) then some (t, l) else none
        | none => none)
      let room := (4 * (k.dw 12 + 1) - 64) / 64
      let sent := zones.take room
      let count := if bitOf (k.dw 13) 16 then sent.length else zones.length
      finishCmd slot.val scOk 0 0 (s.emit (.page (fieldBytes ((0, 8, count) ::
        (List.range sent.length).flatMap (fun i =>
          let e := sent.getD i (0, 0)
          zoneDescriptor s x (64 + 64 * i) e.1 e.2)))))) s.begin)

end Sys2Proof.Machine
end

