-- ==== Sys2Proof/Machine/Features.lean ====
section
/-! DEFINITION. Feature commands, asynchronous event requests, Keep Alive, power states and APST (chapters "Host command
intake", "Ordering, durability and error reporting"). -/

namespace Sys2Proof.Machine

open Sys2Proof

/-! ### Set Features (R331) -/

/-- The feature identifier and parameter of Set and Get Features. -/
def Cmd.fid (k : Cmd) : Nat := bits (k.dw 10) 0 8

/-- A Set Features of one identifier: Save is not supported. -/
def setFeature (n fid : Nat) (f : Cmd → Ctrl → State → State) (s : State) : State :=
  withCmd n (fun k => k.isAdmin 0x09 && decide (k.fid = fid)) (fun k c s =>
    if bitOf (k.dw 10) 31 then finishCmd n 0x10D 0 0 s else f k c s) s

/-- Keep a controller's feature value. -/
def putFeat (cid key v : Nat) (s : State) : State :=
  match s.ctrl? cid with
  | none => s
  | some c => s.putCtrl cid { c with feats := c.feats.put key v }

/-- SET_FEATURES_ARBITRATION (R342). -/
def execSetFeaturesArbitration (slot : SlotNo) (s : State) : Result :=
  .next (setFeature slot.val 0x01 (fun k _ s => finishCmd slot.val scOk 0 0 (putFeat k.ctrl (0x01 * 65536) (k.dw 11) s)) s.begin)

/-- Fallow entry begins while every enabled controller holds state 2 (R352, R377). -/
def fallowNote (s : State) : State :=
  let l := s.nvq.ctrls.filter (fun e => e.2.enabled)
  if s.nvq.fallow = 0 ∧ l.isEmpty = false ∧ devicePs s = 2 then { s with nvq := { s.nvq with fallow := 1, wake := false } } else s

/-- A controller takes a power state (R352). -/
def takePs (cid ps : Nat) (s : State) : State :=
  match s.ctrl? cid with
  | none => s
  | some c => fallowNote (s.putCtrl cid { c with ps := ps, lastOp := if ps < 2 then ps else c.lastOp })

/-- SET_FEATURES_POWER_MANAGEMENT (R352): the three states of the device. -/
def execSetFeaturesPowerManagement (slot : SlotNo) (s : State) : Result :=
  .next (setFeature slot.val 0x02 (fun k _ s =>
    let ps := bits (k.dw 11) 0 5
    if 2 < ps then finishCmd slot.val scInvalidField 0 0 s else takePs k.ctrl ps (finishCmd slot.val scOk 0 0 s)) s.begin)

/-- SET_FEATURES_TEMPERATURE_THRESHOLD (R331): by sensor and type. -/
def execSetFeaturesTemperatureThreshold (slot : SlotNo) (s : State) : Result :=
  .next (setFeature slot.val 0x04 (fun k _ s =>
    if 1 < bits (k.dw 11) 20 2 ∨ (8 < bits (k.dw 11) 16 4 ∧ bits (k.dw 11) 16 4 ≠ 15) then finishCmd slot.val scInvalidField 0 0 s
    else if bits (k.dw 11) 16 4 = 15 then
      finishCmd slot.val scOk 0 0 (eachOf (List.range 9) (fun i s =>
        putFeat k.ctrl (0x04 * 65536 + 16 * bits (k.dw 11) 20 2 + i) (bits (k.dw 11) 0 16) s) s)
    else finishCmd slot.val scOk 0 0
      (putFeat k.ctrl (0x04 * 65536 + bits (k.dw 11) 16 6) (bits (k.dw 11) 0 16) s)) s.begin)

/-- SET_FEATURES_VOLATILE_WRITE_CACHE (R331): always enabled. -/
def execSetFeaturesVolatileWriteCache (slot : SlotNo) (s : State) : Result :=
  .next (setFeature slot.val 0x06 (fun k _ s =>
    finishCmd slot.val (if bitOf (k.dw 11) 0 then scOk else 0x10E) 0 0 s) s.begin)

/-- The queue counts of a controller's budget (R331, 0-based). -/
def queueBudget (c : Ctrl) : Nat := (c.qpairs - 1) + 65536 * (c.qpairs - 1)

/-- SET_FEATURES_NUMBER_OF_QUEUES (R331): the NVMECTL budget. -/
def execSetFeaturesNumberOfQueues (slot : SlotNo) (s : State) : Result :=
  .next (setFeature slot.val 0x07 (fun k c s =>
    if bits (k.dw 11) 0 16 = 0xFFFF ∨ bits (k.dw 11) 16 16 = 0xFFFF then finishCmd slot.val scInvalidField 0 0 s
    else finishCmd slot.val scOk (queueBudget c) 0 s) s.begin)

/-- SET_FEATURES_INTERRUPT_COALESCING (R350). -/
def execSetFeaturesInterruptCoalescing (slot : SlotNo) (s : State) : Result :=
  .next (setFeature slot.val 0x08 (fun k _ s =>
    finishCmd slot.val scOk 0 0 (putFeat k.ctrl (0x08 * 65536) (bits (k.dw 11) 0 16) s)) s.begin)

/-- SET_FEATURES_INTERRUPT_VECTOR_CONFIG (R350). -/
def execSetFeaturesInterruptVectorConfig (slot : SlotNo) (s : State) : Result :=
  .next (setFeature slot.val 0x09 (fun k c s =>
    let v := bits (k.dw 11) 0 16
    if c.vectors ≤ v then finishCmd slot.val scInvalidField 0 0 s
    else finishCmd slot.val scOk 0 0 (putFeat k.ctrl (0x09 * 65536 + v) (bits (k.dw 11) 0 17) s)) s.begin)

/-- SET_FEATURES_ASYNC_EVENT_CONFIG (R331). -/
def execSetFeaturesAsyncEventConfig (slot : SlotNo) (s : State) : Result :=
  .next (setFeature slot.val 0x0B (fun k _ s =>
    finishCmd slot.val scOk 0 0 (putFeat k.ctrl (0x0B * 65536) (k.dw 11) s)) s.begin)

/-- SET_FEATURES_APST (R352): 32 entries of a target state and an idle time; a target that is not a non-operational state is
refused. -/
def execSetFeaturesApst (slot : SlotNo) (table : List Nat) (s : State) : Result :=
  .next (setFeature slot.val 0x0C (fun k c s =>
    if (table.take 32).any (fun e => decide (bits e 8 24 ≠ 0 ∧ bits e 3 5 ≠ 2)) then finishCmd slot.val scInvalidField 0 0 s
    else finishCmd slot.val scOk 0 0 (putFeat k.ctrl (0x0C * 65536) (bits (k.dw 11) 0 1)
      (s.putCtrl k.ctrl { c with apst := table.take 32 }))) s.begin)

/-- SET_FEATURES_TIMESTAMP (R145): the UTC offset; the calendar is not written. -/
def execSetFeaturesTimestamp (slot : SlotNo) (millis : Nat) (s : State) : Result :=
  .next (setFeature slot.val 0x0E (fun _ _ s =>
    finishCmd slot.val scOk 0 0 { s with life := { s.life with utc := (millis % 2 ^ 48 / 1000 : Nat) - (s.life.now : Int) } }) s.begin)

/-- SET_FEATURES_KEEP_ALIVE_TIMER (R452). -/
def execSetFeaturesKeepAliveTimer (slot : SlotNo) (s : State) : Result :=
  .next (setFeature slot.val 0x0F (fun k c s =>
    finishCmd slot.val scOk 0 0 (s.putCtrl k.ctrl { c with kato := k.dw 11 })) s.begin)

/-- SET_FEATURES_HOST_IDENTIFIER (R331, R381): EXHID must be 1. A lost-completion record under the identifier is announced. -/
def execSetFeaturesHostIdentifier (slot : SlotNo) (hostId : Nat) (s : State) : Result :=
  .next (setFeature slot.val 0x81 (fun k c s =>
    if bitOf (k.dw 11) 0 = false then finishCmd slot.val scInvalidField 0 0 s
    else lcrNotice k.ctrl (finishCmd slot.val scOk 0 0 (s.putCtrl k.ctrl { c with hostId := hostId % 2 ^ 128 }))) s.begin)

/-- The namespaces a feature command names: one, or all that the controller has attached. -/
def featNs (k : Cmd) (c : Ctrl) : List Nat := if k.nsid = 0xFFFFFFFF then c.attach else if k.nsid ∈ c.attach then [k.nsid] else []

/-- Change the reservation record of a namespace. -/
def putResv (nsid : Nat) (f : Resv → Resv) (s : State) : State :=
  match s.ns? nsid with
  | none => s
  | some n => s.putNs nsid { n with resv := f n.resv }

/-- SET_FEATURES_RESV_NOTIFICATION_MASK (R331): per namespace. -/
def execSetFeaturesResvNotificationMask (slot : SlotNo) (s : State) : Result :=
  .next (setFeature slot.val 0x82 (fun k c s =>
    if (featNs k c).isEmpty then finishCmd slot.val scBadNamespace 0 0 s
    else finishCmd slot.val scOk 0 0 (eachOf (featNs k c) (fun n s => putResv n (fun r => { r with mask := bits (k.dw 11) 1 3 * 2 }) s) s)) s.begin)

/-- SET_FEATURES_RESV_PERSISTENCE (R331, R354). -/
def execSetFeaturesResvPersistence (slot : SlotNo) (s : State) : Result :=
  .next (setFeature slot.val 0x83 (fun k c s =>
    if (featNs k c).isEmpty then finishCmd slot.val scBadNamespace 0 0 s
    else finishCmd slot.val scOk 0 0 (eachOf (featNs k c) (fun n s => putResv n (fun r => { r with ptpl := bitOf (k.dw 11) 0 }) s) s)) s.begin)

/-! ### Get Features (R331) -/

/-- The default value of a feature (R331, R342, R350). -/
def featDefault (c : Ctrl) (fid sub : Nat) : Nat :=
  if fid = 0x01 then 7
  else if fid = 0x04 then (if sub = 0 then 358 else if sub < 16 then 0xFFFF else 0)
  else if fid = 0x06 then 1
  else if fid = 0x07 then queueBudget c
  else if fid = 0x09 then sub
  else if fid = 0x0B then 0x2B1F
  else if fid = 0x81 then 1
  else 0

/-- The value of a feature: dword 0 of Get Features. -/
def featValue (s : State) (k : Cmd) (c : Ctrl) (dflt : Bool) : Nat :=
  let fid := k.fid
  let sub := if fid = 0x04 then bits (k.dw 11) 16 6 else if fid = 0x09 then bits (k.dw 11) 0 16 else 0
  if dflt then featDefault c fid sub
  else if fid = 0x02 then c.ps
  else if fid = 0x0F then c.kato
  else if fid = 0x82 then ((s.ns? k.nsid).map (fun n => n.resv.mask)).getD 0
  else if fid = 0x83 then ((s.ns? k.nsid).map (fun n => b2n n.resv.ptpl)).getD 0
  else (c.feats.find (fid * 65536 + sub)).getD (featDefault c fid sub)

/-- The data that a feature returns beside dword 0: the APST table, the timestamp of R145, the host identifier. -/
def featData (s : State) (k : Cmd) (c : Ctrl) : List (Nat × Nat × Nat) :=
  if k.fid = 0x0C then (List.range 32).map (fun i => (8 * i, 8, c.apst.getD i 0))
  else if k.fid = 0x0E then [(0, 6, (((s.life.now : Int) + s.life.utc) * 1000).toNat), (6, 1, 2)]
  else if k.fid = 0x81 then [(0, 16, c.hostId)]
  else []

/-- What a feature supports: changeable in bit 2, per namespace in bit 1; none can be saved. -/
def featCaps (fid : Nat) : Nat := if fid = 0x82 ∨ fid = 0x83 then 6 else if fid = 0x06 ∨ fid = 0x07 then 0 else 4

/-- GET_FEATURES (R331): the current, default or supported value. -/
def execGetFeatures (slot : SlotNo) (s : State) : Result :=
  .next (withCmd slot.val (fun k => k.isAdmin 0x0A) (fun k c s =>
    let sel := bits (k.dw 10) 8 3
    if 3 < sel then finishCmd slot.val scInvalidField 0 0 s
    else if sel = 3 then finishCmd slot.val scOk (featCaps k.fid) 0 s
    else
      let s := if (featData s k c).isEmpty then s else s.emit (.page (fieldBytes (featData s k c)))
      finishCmd slot.val scOk (featValue s k c (decide (sel ≠ 0))) 0 s) s.begin)

/-! ### Asynchronous event requests and Keep Alive (R330) -/

/-- ASYNC_EVENT_REQUEST (R330): up to 16 outstanding; a pending event completes it at once. -/
def execAsyncEventRequest (slot : SlotNo) (s : State) : Result :=
  .next (withCmd slot.val (fun k => k.isAdmin 0x0C) (fun k c s =>
    if slot.val ∈ c.aers then s
    else if 16 ≤ c.aers.length then finishCmd slot.val 0x105 0 0 s
    else match c.events with
      | (t, i, p) :: r => finishCmd slot.val scOk (aenWord t i p) 0 (s.putCtrl k.ctrl { c with events := r })
      | [] => s.putCtrl k.ctrl { c with aers := c.aers ++ [slot.val] }) s.begin)

/-- KEEP_ALIVE (R330, R452): on fabric controllers; the timer, an event of its own, starts again. -/
def execKeepAlive (slot : SlotNo) (s : State) : Result :=
  .next (withCmd slot.val (fun k => k.isAdmin 0x18) (fun _ c s =>
    finishCmd slot.val (if c.fabric then scOk else scInvalidOpcode) 0 0 s) s.begin)

/-! ### Power states (R352, R355, R377, R378, R652) -/

/-- APST_TIMER: a controller idle for the time of its state's entry takes the entry's state; it waits while a command is in
flight (R355). -/
def execApstTimer (ctrl : CtrlId) (s : State) : Result :=
  let s := s.begin
  .next (match s.ctrl? ctrl with
    | none => s
    | some c =>
      let e := c.apst.getD c.ps 0
      if c.enabled = false ∨ (c.feats.find (0x0C * 65536)).getD 0 = 0 ∨ bits e 8 24 = 0 ∨ (ctrlSlots s ctrl).isEmpty = false then s
      else takePs ctrl (bits e 3 5) s)

/-- FALLOW_ENTRY_DONE (R377, R652): the entry ends once no dirty data, journal record or unarchived Peat entry is left; a
command that arrived meanwhile starts the exit. -/
def execFallowEntryDone (s : State) : Result :=
  let s := s.begin
  .next (if s.nvq.fallow ≠ 1 ∨ s.map.dirty.isEmpty = false ∨ s.map.pendingJ.isEmpty = false ∨ peatUnarch s ≠ 0 then s
    else
      let s := eachOf (fallowStacks s) (fun k s => s.wr F.MERE_STAT_PARKED 1 k) s
      { s with nvq := { s.nvq with fallow := if s.nvq.wake then 3 else 2 } })

/-- FALLOW_EXIT_DONE (R378): each controller returns to the operational state it last held. -/
def execFallowExitDone (s : State) : Result :=
  let s := s.begin
  .next (if s.nvq.fallow ≠ 3 then s
    else
      let s := eachOf (List.range 8) unpark s
      { s with nvq := { s.nvq with fallow := 0, wake := false,
                                    ctrls := s.nvq.ctrls.map (fun e => (e.1, { e.2 with ps := if e.2.ps = 2 then e.2.lastOp else e.2.ps })) } })

end Sys2Proof.Machine
end

