-- ==== Sys2Proof/Machine/Reserve.lean ====
section
/-! DEFINITION. Reservations (R354, by NVMe Base 2.0 with the status of R354). -/

namespace Sys2Proof.Machine

open Sys2Proof

/-! ### Notifications -/

/-- Enter a Reservation Notification (1 registration preempted, 2 reservation released, 3 reservation preempted) for every
controller of some hosts, unless masked. -/
def resvNote (nsid kind : Nat) (hosts : List Nat) (s : State) : State :=
  let mask := ((s.ns? nsid).map (fun n => n.resv.mask)).getD 0
  if bitOf mask kind then s
  else eachOf ((ctrlsOf s nsid).filter (fun c => (s.ctrl? c).any (fun x => decide (hostOf x ∈ hosts)))) (fun c s =>
    aenPost c 6 0x00 0x80 { s with nvq := { s.nvq with resvLog := s.nvq.resvLog ++ [(c, kind, nsid)] } }) s

/-- The hosts registered, other than one. -/
def Resv.others (r : Resv) (h : Nat) : List Nat := (r.regs.map Prod.fst).filter (fun x => decide (x ≠ h))

/-- The host is registered with that key. -/
def Resv.keyOk (r : Resv) (h key : Nat) : Bool := decide ((h, key) ∈ r.regs)

/-- Drop registrations that a test names. -/
def Resv.drop (r : Resv) (p : Nat × Nat → Bool) : Resv := { r with regs := r.regs.filter (fun e => !p e) }

/-- A reservation whose holder is gone ends. -/
def Resv.settle (r : Resv) : Resv :=
  if r.rtype = 0 then r
  else if r.rtype = 5 ∨ r.rtype = 6 then (if r.regs.isEmpty then { r with rtype := 0, holder := 0 } else r)
  else if r.registered r.holder then r else { r with rtype := 0, holder := 0 }

/-- A reservation command on its namespace. -/
def resvCmd (n opc : Nat) (f : Cmd → Nat → Resv → State → State) (s : State) : State :=
  withCmd n (fun k => k.isIo opc) (fun k c s =>
    match s.ns? k.nsid with
    | none => finishCmd n scBadNamespace 0 0 s
    | some x => f k (hostOf c) x.resv s) s

/-- Finish with a changed record. -/
def resvDone (n nsid : Nat) (r : Resv) (s : State) : State := finishCmd n scOk 0 0 (putResv nsid (fun _ => r) s)

/-- CPTPL of a Register: 2 clears, 3 sets PTPL. -/
def ptplAfter (k : Cmd) (old : Bool) : Bool := if bits (k.dw 10) 30 2 = 2 then false else if bits (k.dw 10) 30 2 = 3 then true else old

/-- RESERVATION_REGISTER: register, unregister or replace a key. -/
def execReservationRegister (slot : SlotNo) (crkey nrkey : Nat) (s : State) : Result :=
  .next (resvCmd slot.val 0x0D (fun k h r s =>
    let act := bits (k.dw 10) 0 3
    let ign := bitOf (k.dw 10) 3
    let r := { r with ptpl := ptplAfter k r.ptpl }
    let up := { r with gen := r.gen + 1 }
    if act = 0 then
      (if r.registered h then
        (if r.keyOk h (nrkey % 2 ^ 64) then resvDone slot.val k.nsid up s else finishCmd slot.val scResvConflict 0 0 s)
       else resvDone slot.val k.nsid { up with regs := r.regs ++ [(h, nrkey % 2 ^ 64)] } s)
    else if act = 1 then
      (if (r.registered h && (ign || r.keyOk h crkey)) = false then finishCmd slot.val scResvConflict 0 0 s
       else
         let new := (up.drop (fun e => decide (e.1 = h))).settle
         let s := resvDone slot.val k.nsid new s
         if new.rtype = 0 ∧ 3 ≤ r.rtype then resvNote k.nsid 2 (r.others h) s else s)
    else if act = 2 then
      (if (ign || r.keyOk h crkey) = false then finishCmd slot.val scResvConflict 0 0 s
       else if r.registered h = false then resvDone slot.val k.nsid { up with regs := r.regs ++ [(h, nrkey % 2 ^ 64)] } s
       else resvDone slot.val k.nsid
         { up with regs := r.regs.map (fun e => if e.1 = h then (h, nrkey % 2 ^ 64) else e) } s)
    else finishCmd slot.val scInvalidField 0 0 s) s.begin)

/-- The fetched commands of preempted hosts on the namespace end as aborted (Preempt and Abort, R347). -/
def abortHosts (nsid : Nat) (hosts : List Nat) (s : State) : State :=
  eachOf (s.nvq.slots.filter (fun e => decide (e.2.state = .fetched ∧ e.2.nsid = nsid) && !e.2.admin &&
      (s.ctrl? e.2.ctrl).any (fun c => decide (hostOf c ∈ hosts)))) (fun e s => finishCmd e.1 scAborted 0 0 s) s

/-- RESERVATION_ACQUIRE: acquire, preempt, preempt and abort. -/
def execReservationAcquire (slot : SlotNo) (crkey prkey : Nat) (s : State) : Result :=
  .next (resvCmd slot.val 0x11 (fun k h r s =>
    let act := bits (k.dw 10) 0 3
    let ty := bits (k.dw 10) 8 8
    if 2 < act ∨ ty = 0 ∨ 6 < ty then finishCmd slot.val scInvalidField 0 0 s
    else if r.keyOk h crkey = false then finishCmd slot.val scResvConflict 0 0 s
    else if act = 0 then
      (if r.rtype = 0 then resvDone slot.val k.nsid { r with rtype := ty, holder := h } s
       else if r.holds h = true ∧ r.rtype = ty then finishCmd slot.val scOk 0 0 s
       else finishCmd slot.val scResvConflict 0 0 s)
    else
      let all := decide (r.rtype = 5 ∨ r.rtype = 6)
      let holderKey := ((r.regs.find? (fun e => decide (e.1 = r.holder))).map Prod.snd).getD 0
      let takes := decide (r.rtype ≠ 0) && (if all then decide (prkey = 0) else decide (holderKey = prkey))
      if prkey = 0 ∧ takes = false then finishCmd slot.val scInvalidField 0 0 s
      else
        let gone := ((r.regs.filter (fun e => decide (e.1 ≠ h) && (decide (e.2 = prkey) || (all && decide (prkey = 0))))).map Prod.fst)
        if gone.isEmpty = true ∧ takes = false then finishCmd slot.val scResvConflict 0 0 s
        else
          let cut := r.drop (fun e => decide (e.1 ∈ gone))
          let new := if takes then { cut with rtype := ty, holder := h, gen := r.gen + 1 } else { cut.settle with gen := r.gen + 1 }
          let s := if act = 2 then abortHosts k.nsid gone s else s
          let s := resvNote k.nsid 1 gone (resvDone slot.val k.nsid new s)
          if takes = true ∧ ty ≠ r.rtype then resvNote k.nsid 2 (new.others h) s else s) s.begin)

/-- RESERVATION_RELEASE: release, or clear every registration. -/
def execReservationRelease (slot : SlotNo) (crkey : Nat) (s : State) : Result :=
  .next (resvCmd slot.val 0x15 (fun k h r s =>
    let act := bits (k.dw 10) 0 3
    if 1 < act then finishCmd slot.val scInvalidField 0 0 s
    else if r.keyOk h crkey = false then finishCmd slot.val scResvConflict 0 0 s
    else if act = 1 then
      resvNote k.nsid 3 (r.others h) (resvDone slot.val k.nsid { r with regs := [], rtype := 0, holder := 0, gen := r.gen + 1 } s)
    else if r.holds h = false then finishCmd slot.val scOk 0 0 s
    else if bits (k.dw 10) 8 8 ≠ r.rtype then finishCmd slot.val scInvalidField 0 0 s
    else
      let s := resvDone slot.val k.nsid { r with rtype := 0, holder := 0 } s
      if 3 ≤ r.rtype then resvNote k.nsid 2 (r.others h) s else s) s.begin)

/-- The extended Reservation Status structure: a 64-byte header, then 64 bytes a registered controller. -/
def resvReport (s : State) (nsid : Nat) (r : Resv) : List (Nat × Nat × Nat) :=
  let cs := (ctrlsOf s nsid).filterMap (fun c => (s.ctrl? c).bind (fun x =>
    (r.regs.find? (fun e => decide (e.1 = hostOf x))).map (fun e => (c, e))))
  [(0, 4, r.gen % 2 ^ 32), (4, 1, r.rtype), (5, 2, cs.length), (9, 1, b2n r.ptpl)] ++
    (List.range cs.length).flatMap (fun i =>
      let e := cs.getD i (0, (0, 0))
      [(64 + 64 * i, 2, e.1), (66 + 64 * i, 1, b2n (r.holds e.2.1)), (72 + 64 * i, 8, e.2.2), (80 + 64 * i, 16, e.2.1)])

/-- RESERVATION_REPORT: the extended structure, since host identifiers have 128 bits. -/
def execReservationReport (slot : SlotNo) (s : State) : Result :=
  .next (resvCmd slot.val 0x0E (fun k _ r s =>
    if bitOf (k.dw 11) 0 = false then finishCmd slot.val scInvalidField 0 0 s
    else finishCmd slot.val scOk 0 0 (s.emit (.page (window 0 (4 * (k.dw 10 + 1)) (resvReport s k.nsid r))))) s.begin)

end Sys2Proof.Machine
end

