-- ==== Sys2Proof/Machine/Namespaces.lean ====
section
/-! DEFINITION. Namespace management, attachment, Format and Sanitize (chapters "Host command intake", "Cipher and verify
engine", "Media format"). -/

namespace Sys2Proof.Machine

open Sys2Proof

/-! ### Logical tracts (R70) -/

/-- Insert an extent by its first LTN. -/
def insExtent (e : Nat × Nat) (l : List (Nat × Nat)) : List (Nat × Nat) :=
  match l with
  | [] => [e]
  | x :: r => if e.1 ≤ x.1 then e :: x :: r else x :: insExtent e r

/-- Every extent in use, by first LTN. -/
def usedExtents (s : State) : List (Nat × Nat) := (s.map.core.extents.flatMap (fun e => e.2)).foldr insExtent []

/-- The free ranges of LTNs between those in use, up to the usable tracts. -/
def freeRanges (top pos : Nat) (l : List (Nat × Nat)) : List (Nat × Nat) :=
  match l with
  | [] => if pos < top then [(pos, top - pos)] else []
  | e :: r => (if pos < min e.1 top then [(pos, min e.1 top - pos)] else []) ++ freeRanges top (max pos (e.1 + e.2)) r

/-- Take `n` tracts first-fit from the ranges: none where they do not hold so many. -/
def takeTracts (n : Nat) (l : List (Nat × Nat)) : Option (List (Nat × Nat)) :=
  match l with
  | [] => if n = 0 then some [] else none
  | (a, c) :: r =>
    if n = 0 then some []
    else if n ≤ c then some [(a, n)]
    else (takeTracts (n - c) r).map (fun t => (a, c) :: t)

/-- The extents of a new namespace: at most 64 (R70). -/
def newExtents (s : State) (n : Nat) : Option (List (Nat × Nat)) :=
  (takeTracts n (freeRanges (usableTracts s) 0 (usedExtents s))).bind (fun l => if l.length ≤ 64 then some l else none)

/-- The lowest namespace identifier not in use. -/
def freeNsid (s : State) : Option Nat :=
  ((List.range (s.nvq.ns.length + 1)).map (· + 1)).find? (fun n => decide (n ≤ 4096) && (s.ns? n).isNone)

/-! ### Notices -/

/-- A Namespace Attribute Changed notice with the Changed Namespace List (R331, R332, R355). -/
def nsNotice (nsid cid : Nat) (s : State) : State :=
  match s.ctrl? cid with
  | none => s
  | some c => aenPost cid 2 0x00 0x04 (s.putCtrl cid { c with changedNs := addNew nsid c.changedNs })

/-- A command waits for the random bit generator (R497). -/
def waitDrbg (n : Nat) (k : Cmd) (s : State) : State :=
  { s.putSlot n { k with waits := true } with cip := { s.cip with waiters := addNew n s.cip.waiters } }

/-! ### Create and delete (R70, R334, R496) -/

/-- Build a namespace in the map, a key slot and the key label. -/
def buildNs (nsid : Nat) (ext : List (Nat × Nat)) (n : Namespace) (key slot escrow : Nat) (s : State) : State :=
  let s := (List.range ext.length).foldl (fun s i =>
    let e := ext.getD i (0, 0)
    journal (.nsExtent nsid i e.1 e.2) s) s
  let s := putKeySlot slot { state := 1, nsid := nsid, key := key, escrow := escrow } s
  labelWrite nsid (s.putNs nsid { n with slot := slot, created := s.life.now, keyTime := s.life.now, wseq := 1, wseqFloor := 2 ^ 32 })

/-- A re-apply of the NSTPL lot is in progress (R51). -/
def tplBusy (s : State) : Bool := s.cfg.reapply.any (fun r => decide (r.lot = 6))

/-- Create a namespace from its template (R334): the status, or the new one's identifier. -/
def createNs (data : NsCreate) (s : State) : (Nat × Nat) × State :=
  match s.image.nstpl.templates[data.template]? with
  | none => ((scInvalidField, 0), s)
  | some t =>
    let lba := if data.lbaf = 0 then 9 else 12
    let need := (data.nsze * 2 ^ lba + tractBytes s - 1) / max 1 (tractBytes s)
    let grp := if data.anagrp = 0 then t.anagrp else data.anagrp
    if 1 < data.lbaf then ((0x10A, 0), s)
    else if data.csi ≠ t.csi ∨ t.leafShift < lba ∨ data.nsze = 0 then ((scInvalidField, 0), s)
    else if 16 < grp then ((0x124, 0), s)
    else match freeNsid s, freeKeySlot s, newExtents s need with
      | some nsid, some slot, some ext =>
        let (key, s) := newKey s
        let n : Namespace := { lbaShift := lba, leafShift := t.leafShift, zoned := t.zoned, tracts := need, mar := t.mar, mor := t.mor,
                               anagrp := grp, nsTag := Config.physical s.free, nguid := Config.physical (s.free + 1) }
        ((scOk, nsid), buildNs nsid ext n key slot s.cip.escrowId { s with free := s.free + 2 })
      | none, _, _ => ((0x116, 0), s)
      | _, none, _ => ((0x116, 0), s)
      | _, _, none => ((scCapacity, 0), s)

/-- NAMESPACE_CREATE (R334): held during an NSTPL re-apply (R51) and while the generator is down (R497). -/
def execNamespaceCreate (slot : SlotNo) (data : NsCreate) (s : State) : Result :=
  .next (withCmd slot.val (fun k => k.isAdmin 0x0D && decide (bits (k.dw 10) 0 4 = 0)) (fun k _ s =>
    if tplBusy s then
      { s with cfg := { s.cfg with heldCreates := addNew slot.val s.cfg.heldCreates } }.putSlot slot.val { k with waits := true }
    else if s.cip.drbgUp = false then waitDrbg slot.val k s
    else
      let r := createNs data s
      if r.1.1 = scOk then finishChanged slot.val scOk r.1.2 0 r.2 else finishCmd slot.val r.1.1 0 0 r.2) s.begin)

/-- Every tract of a namespace is UNMAPPED (R330 Format, R91). -/
def unmapNs (nsid : Nat) (s : State) : State := eachOf (nsLtns s nsid) (fun l s => unmapTract l s) s

/-- Delete one namespace (R91, R189, R498, R384): its tracts, extents, reports and attachments go; its key slot drains. -/
def deleteNs (n nsid : Nat) (s : State) : State :=
  match s.ns? nsid with
  | none => s
  | some x =>
    let s := unmapNs nsid s
    let s := (List.range (Tab.get [] s.map.core.extents nsid).length).foldl (fun s _ => journal (.nsExtent nsid 0 0 0) s) s
    let cs := ctrlsOf s nsid
    let s := { s with nvq := { s.nvq with
      deferP := s.nvq.deferP.filter (fun e => decide (e.2.1 ≠ nsid)),
      ns := s.nvq.ns.del nsid,
      ctrls := s.nvq.ctrls.map (fun e => (e.1, { e.2 with attach := dropOne nsid e.2.attach })) } }
    let s := drainSlot x.slot none (some n) (eachOf cs (nsNotice nsid) s)
    putKeySlot x.slot { (Tab.get {} s.cip.slots x.slot) with gone := some x } s

/-- Whether a key slot drains for a command already. -/
def drainsFor (s : State) (n : Nat) : Bool := s.cip.slots.any (fun e => decide (e.2.state = 2 ∧ e.2.cmd = some n))

/-- NAMESPACE_DELETE (R129, R498): it completes when the key slots have drained. -/
def execNamespaceDelete (slot : SlotNo) (s : State) : Result :=
  .next (withCmd slot.val (fun k => k.isAdmin 0x0D && decide (bits (k.dw 10) 0 4 = 1)) (fun k _ s =>
    let l := if k.nsid = 0xFFFFFFFF then s.nvq.ns.keys else if (s.ns? k.nsid).isSome then [k.nsid] else []
    if drainsFor s slot.val then s
    else if l.isEmpty then finishCmd slot.val (if k.nsid = 0xFFFFFFFF then scOk else scBadNamespace) 0 0 s
    else fenRefresh (eachOf l (deleteNs slot.val) (s.putSlot slot.val { k with changed := true }))) s.begin)

/-! ### Attachment (R330, R355) -/

/-- NAMESPACE_ATTACH; the destination of a migration is not ready before MIG_DONE (R481). -/
def execNamespaceAttach (slot : SlotNo) (ctrls : List Nat) (s : State) : Result :=
  .next (withCmd slot.val (fun k => k.isAdmin 0x15 && decide (bits (k.dw 10) 0 4 = 0)) (fun k _ s =>
    if (s.ns? k.nsid).isNone then finishCmd slot.val scBadNamespace 0 0 s
    else if ctrls.isEmpty = true ∨ ctrls.any (fun c => (s.ctrl? c).isNone) = true then finishCmd slot.val 0x11C 0 0 s
    else if (s.ns? k.nsid).any Namespace.importing then finishCmd slot.val scNotReady 0 0 s
    else if ctrls.any (fun c => (s.ctrl? c).any (fun x => decide (k.nsid ∈ x.attach))) then finishCmd slot.val 0x118 0 0 s
    else finishCmd slot.val scOk 0 0 (eachOf ctrls (fun c s =>
      match s.ctrl? c with
      | none => s
      | some x => nsNotice k.nsid c (s.putCtrl c { x with attach := addNew k.nsid x.attach })) s)) s.begin)

/-- Detach one controller (R355, R384): fetched commands not admitted complete with 0x0B; a report of a key with no controller
left on the namespace is dropped. -/
def detachOne (nsid cid : Nat) (s : State) : State :=
  match s.ctrl? cid with
  | none => s
  | some x =>
    let s := s.putCtrl cid { x with attach := dropOne nsid x.attach }
    let s := eachOf (s.nvq.slots.filter (fun e => decide (e.2.ctrl = cid ∧ e.2.nsid = nsid ∧ e.2.state = .fetched) && !e.2.admin))
      (fun e s => finishCmd e.1 scBadNamespace 0 0 s) s
    let keys := (ctrlsOf s nsid).filterMap (fun c => (s.ctrl? c).map hostKeyOf)
    let s := { s with nvq := { s.nvq with deferP := s.nvq.deferP.filter (fun e => decide (e.2.1 ≠ nsid ∨ e.1 ∈ keys)) } }
    nsNotice nsid cid s

/-- NAMESPACE_DETACH. -/
def execNamespaceDetach (slot : SlotNo) (ctrls : List Nat) (s : State) : Result :=
  .next (withCmd slot.val (fun k => k.isAdmin 0x15 && decide (bits (k.dw 10) 0 4 = 1)) (fun k _ s =>
    if (s.ns? k.nsid).isNone then finishCmd slot.val scBadNamespace 0 0 s
    else if ctrls.isEmpty = true ∨ ctrls.any (fun c => (s.ctrl? c).isNone) = true then finishCmd slot.val 0x11C 0 0 s
    else if ctrls.any (fun c => (s.ctrl? c).any (fun x => decide (k.nsid ∉ x.attach))) then finishCmd slot.val 0x11A 0 0 s
    else finishCmd slot.val scOk 0 0 (eachOf ctrls (detachOne k.nsid) s)) s.begin)

/-! ### Format and Sanitize (R330, R389, R497, R498) -/

/-- FORMAT_NVM (R330): SES 0 sets every tract UNMAPPED; SES 2 replaces the data key too, when the slot has drained. -/
def execFormatNvm (slot : SlotNo) (s : State) : Result :=
  .next (withCmd slot.val (fun k => k.isAdmin 0x80) (fun k _ s =>
    let lbaf := bits (k.dw 10) 0 4
    let ses := bits (k.dw 10) 9 3
    match s.ns? k.nsid with
    | none => finishCmd slot.val scBadNamespace 0 0 s
    | some x =>
      let lba := if lbaf = 0 then 9 else 12
      if drainsFor s slot.val then s
      else if ses = 1 ∨ 2 < ses then finishCmd slot.val scInvalidField 0 0 s
      else if 1 < lbaf ∨ x.leafShift < lba then finishCmd slot.val 0x10A 0 0 s
      else if ses = 2 ∧ s.cip.drbgUp = false then waitDrbg slot.val k s
      else
        let s := (unmapNs k.nsid s).putNs k.nsid { x with lbaShift := lba, zones := [] }
        if ses = 0 then finishWrite slot.val false [] 0 0 s
        else
          let (key, s) := newKey s
          drainSlot x.slot (some key) (some slot.val) (s.putSlot slot.val { k with changed := true })) s.begin)

/-- The Sanitize action. -/
def Cmd.sanact (k : Cmd) : Nat := bits (k.dw 10) 0 3

/-- SANITIZE_CRYPTO_ERASE (R330, R389, R497, R498): every namespace's tracts are UNMAPPED and its key replaced; the command
completes when every slot has drained. -/
def execSanitizeCryptoErase (slot : SlotNo) (s : State) : Result :=
  .next (withCmd slot.val (fun k => k.isAdmin 0x84 && decide (k.sanact ≠ 1)) (fun k _ s =>
    if drainsFor s slot.val then s
    else if k.sanact ≠ 4 then finishCmd slot.val scInvalidField 0 0 s
    else
      let s := { s with nvq := { s.nvq with ns := s.nvq.ns.map (fun e => (e.1, { e.2 with sanitize := 2 })) } }
      if s.cip.drbgUp = false then waitDrbg slot.val k s
      else if s.nvq.ns.isEmpty then finishCmd slot.val scOk 0 0 s
      else
        eachOf s.nvq.ns.keys (fun nsid s =>
          match s.ns? nsid with
          | none => s
          | some x =>
            let s := (unmapNs nsid s).putNs nsid { x with zones := [] }
            let (key, s) := newKey s
            drainSlot x.slot (some key) (some slot.val) s) (s.putSlot slot.val { k with changed := true })) s.begin)

/-- SANITIZE_EXIT_FAILURE_MODE (R330, R497): the failed state is cleared. -/
def execSanitizeExitFailureMode (slot : SlotNo) (s : State) : Result :=
  .next (withCmd slot.val (fun k => k.isAdmin 0x84 && decide (k.sanact = 1)) (fun _ _ s =>
    finishCmd slot.val scOk 0 0 { s with nvq := { s.nvq with
      ns := s.nvq.ns.map (fun e => (e.1, { e.2 with sanitize := if e.2.sanitize = 3 then 0 else e.2.sanitize })) } }) s.begin)

end Sys2Proof.Machine
end

