-- ==== Sys2Proof/Machine/Logs.lean ====
section
/-! DEFINITION. Log pages, Identify data and Get LBA Status (R155, R156, R329 to R336, R353, R370, R383, R387, R585). A page is
given by its named fields; bytes no field names are 0. -/

namespace Sys2Proof.Machine

open Sys2Proof

/-! ### Temperatures and wear (R155, R156) -/

/-- A fen's members that have a link. -/
def fenLinks (s : State) (f : Nat) : List Nat := ((List.range 32).map (memberLink s f)).filter (fun l => decide (l ≠ 0xFFFF))

/-- Mean block wear of a member in parts of its rated endurance. -/
def wearShare (s : State) (parts l : Nat) : Nat := parts * wearSum s l / max 1 (16 * endQlc s l * memberBlocks s l)

/-- The mean of a list of numbers. -/
def meanOf (l : List Nat) : Nat := l.foldl (· + ·) 0 / max 1 l.length

def allLinks (s : State) : List Nat := (List.range (fenCount s)).flatMap (fenLinks s)

/-- A member's thermal counter in equivalent hours. -/
def thermalHours (s : State) (l : Nat) : Nat := Tab.get 0 s.ret.thermal l / 3600000000

/-! ### 0x02 SMART (R155) -/

/-- The over-temperature threshold: the page is the same for every controller, so that the lowest Feature 0x04 of any decides (DESIGN
CHOICE, log entry 91). -/
def overTemp (s : State) : Nat :=
  match s.nvq.ctrls.map (fun e => (e.2.feats.find (0x04 * 65536)).getD 358) with
  | [] => 358
  | x :: r => r.foldl min x

/-- Critical Warning (R155). -/
def criticalWarning (s : State) : Nat :=
  packBits [decide (1 ≤ topBench s), decide (overTemp s ≤ compositeK s), decide (3 ≤ topBench s), s.fen.bench5, s.pwr.htFailed]

/-- Available Spare: the least of the fens. -/
def availableSpare (s : State) : Nat :=
  (List.range (fenCount s)).foldl (fun a f => min a (100 * stockLeft s f / max 1 (stockFloor s f))) 100

/-- The page: the same for every controller. The fields that R155 does not name are those of NVMe 2.0. -/
def smartPage (s : State) : List (Nat × Nat × Nat) :=
  let h := fun k => Tab.get 0 s.ret.health k
  [(0, 1, criticalWarning s), (1, 2, compositeK s), (3, 1, availableSpare s), (4, 1, s.rd F.FEN_BENCH_THR_LOW),
   (5, 1, ((allLinks s).map (wearShare s 100)).foldl max 0), (32, 16, (h 22 + 999) / 1000), (48, 16, (h 23 + 999) / 1000),
   (64, 16, h 20), (80, 16, h 21), (96, 16, h 26 / 60), (112, 16, h 24), (128, 16, s.life.onSec / 3600), (144, 16, h 25),
   (160, 16, h 3 + h 7), (176, 16, (s.nvq.ctrls.map Prod.fst).foldl (fun a c => a + h (4096 + c)) 0), (192, 4, h 27 / 60), (196, 4, h 28 / 60),
   (200, 2, ((junction s).map kelvin).getD 0)] ++
    (List.range 7).map (fun i => (202 + 2 * i, 2, ((hottest [hottestFen s (2 * i), hottestFen s (2 * i + 1)]).map kelvin).getD 0))

/-! ### 0xD1 Life (R156) -/

/-- FEN_STATE bits [17:13]. -/
def fenFlags (s : State) (f : Nat) : Nat :=
  s.rd F.FEN_STATE_EXCEEDED f + 2 * s.rd F.FEN_STATE_REBUILDING f + 4 * s.rd F.FEN_STATE_BOOSTED f +
    8 * s.rd F.FEN_STATE_EVACUATING f + 16 * s.rd F.FEN_STATE_DREDGE_HELD f

/-- One fen record. -/
def fenRecord (s : State) (f : Nat) : List (Nat × Nat × Nat) :=
  let o := 512 + 64 * f
  let ls := fenLinks s f
  [(o, 1, s.rd F.FEN_STATE_BENCH f), (o + 1, 1, s.rd F.FEN_STATE_TOLERANCE f), (o + 2, 1, s.rd F.FEN_STATE_IN_SERVICE f),
   (o + 3, 1, fenFlags s f), (o + 4, 4, stockLeft s f), (o + 8, 4, stockFloor s f), (o + 12, 2, meanOf (ls.map (wearShare s 1000))),
   (o + 14, 2, (ls.map (wearShare s 1000)).foldl max 0), (o + 16, 8, meanOf (ls.map (thermalHours s))),
   (o + 24, 2, Tab.get 0 s.ret.fenMax f), (o + 26, 2, meanOf (Tab.get [] s.ret.fenTemps f)),
   (o + 28, 4, backlogOf s f), (o + 32, 4, Tab.get 0 s.ret.health (200 + f)), (o + 36, 4, (jobsLeft s f).length),
   (o + 40, 4, fenEta s f), (o + 44, 4, if s.rd F.FEN_STATE_BENCH f = 4 then (evacLeft s f).length else 0)]

def lifePage (s : State) : List (Nat × Nat × Nat) :=
  let h := fun k => Tab.get 0 s.ret.health k
  let ls := allLinks s
  let newest := (s.ret.passes.reverse).take 64
  [(0, 2, 1), (2, 1, topBench s),
   (3, 1, packBits [s.life.vbatEver, s.isSet F.RET_STATUS_WITNESS_USED, s.isSet F.RET_STATUS_CATCHUP, toleranceShort s]),
   (8, 8, s.life.now % 2 ^ 48), (16, 8, unsigned s.life.utc 64), (24, 8, s.life.onSec), (32, 8, s.life.offSec),
   (40, 8, meanOf (ls.map (thermalHours s))), (48, 2, meanOf (ls.map (wearShare s 1000))),
   (50, 2, (ls.map (wearShare s 1000)).foldl max 0), (52, 4, s.map.core.spoil.length), (56, 8, h 0), (64, 8, h 1), (72, 8, h 2),
   (80, 8, h 3), (88, 8, h 4), (96, 8, h 5), (104, 4, backlogAll s),
   (108, 4, if backlogAll s = 0 then 0 else Config.physical s.free % 2 ^ 32), (112, 8, h 6), (120, 2, kelvin s.ret.maxTemp)] ++
    (List.range (fenCount s)).flatMap (fenRecord s) ++
    (List.range 22).map (fun i => (1536 + 8 * i, 8, Tab.get 0 s.ret.tempHist i)) ++
    (List.range (min 8 s.life.offHist.length)).map (fun i => (1712 + 24 * i, 24, s.life.offHist.getD i 0)) ++
    (List.range newest.length).map (fun i => (2048 + 160 * i, 160, ((newest[i]?).map passBytes).getD 0))

/-! ### The other pages (R332) -/

/-- 0x01: the newest entry first, 64 bytes each (R386). -/
def errorPage (s : State) (cid : Nat) (c : Ctrl) : List (Nat × Nat × Nat) :=
  (List.range c.errors.length).flatMap (fun i =>
    match c.errors[i]? with
    | none => []
    | some (sq, id, st, ns, lba, sp) =>
      let o := 64 * i
      [(o, 8, Tab.get 0 s.ret.health (4096 + cid) - i), (o + 8, 2, sq), (o + 10, 2, id), (o + 12, 2, 2 * st), (o + 14, 2, 0xFFFF),
       (o + 16, 8, lba), (o + 24, 4, ns), (o + 32, 8, sp)])

/-- 0x03: Firmware Slot Information (R585). -/
def fwPage (s : State) : List (Nat × Nat × Nat) :=
  [(0, 1, s.upd.running + 16 * s.upd.pending), (8, 8, (s.upd.fw1.map FwImage.version).getD 0), (16, 8, (s.upd.fw2.map FwImage.version).getD 0)]

/-- 0x05: Commands Supported and Effects: CSUPP, and LBCC for commands that change contents. -/
def effectsPage (c : Ctrl) : List (Nat × Nat × Nat) :=
  (adminOpcodes c).map (fun o => (4 * o, 4, if o = 0x80 ∨ o = 0x84 then 3 else if o = 0x0D ∨ o = 0x15 then 9 else 1)) ++
    ioOpcodes.map (fun o => (1024 + 4 * o, 4, if o ∈ [0x01, 0x08, 0x09, 0x19, 0x79, 0x7D] then 3 else 1))

/-- 0x0C: Asymmetric Namespace Access: every group has the controller's state (R353). -/
def anaPage (s : State) (c : Ctrl) (groupsOnly : Bool) : List (Nat × Nat × Nat) :=
  let groups := (List.range 16).map (fun g => (g + 1, (c.attach.filter (fun n => (s.ns? n).any (fun x => decide (x.anagrp = g + 1))))))
  let start := groups.foldl (fun (a : List (Nat × Nat × List Nat) × Nat) g =>
    (a.1 ++ [(a.2, g)], a.2 + 32 + if groupsOnly then 0 else 4 * g.2.length)) ([], 16)
  [(0, 8, c.anaCount), (8, 2, 16)] ++ start.1.flatMap (fun e =>
    let n := e.2.2
    [(e.1, 4, e.2.1), (e.1 + 4, 4, if groupsOnly then 0 else n.length), (e.1 + 8, 8, c.anaCount), (e.1 + 16, 1, c.ana)] ++
      (if groupsOnly then [] else (List.range n.length).map (fun i => (e.1 + 32 + 4 * i, 4, n.getD i 0))))

/-- The lost ranges of a namespace in LBAs, rounded out to whole leaves (R387): (first LBA, blocks). -/
def lostLbas (s : State) (nsid : Nat) (n : Namespace) : List (Nat × Nat) :=
  s.map.core.lost.filterMap (fun r =>
    match tractOwner s r.ltn with
    | some (m, t) =>
      if m ≠ nsid then none
      else
        let leaf := 2 ^ n.leafShift
        let a := (t * tractBytes s + 512 * r.off) / leaf * leaf
        let b := (t * tractBytes s + 512 * (r.off + r.len) + leaf - 1) / leaf * leaf
        some (a / 2 ^ n.lbaShift, (b - a) / 2 ^ n.lbaShift)
    | none => none)

/-- 0x0E: LBA Status Information: an element for each attached namespace with lost ranges (R387). -/
def lbaStatusPage (s : State) (c : Ctrl) : List (Nat × Nat × Nat) :=
  let els := c.attach.filterMap (fun n => match s.ns? n with
    | none => none
    | some x => let l := lostLbas s n x; if l.isEmpty then none else some (n, l))
  let start := els.foldl (fun (a : List (Nat × Nat × List (Nat × Nat)) × Nat) e => (a.1 ++ [(a.2, e)], a.2 + 16 + 16 * e.2.length)) ([], 16)
  [(0, 4, start.2), (4, 4, els.length)] ++ start.1.flatMap (fun e =>
    [(e.1, 4, e.2.1), (e.1 + 4, 4, e.2.2.length), (e.1 + 8, 1, 2)] ++
      (List.range e.2.2.length).flatMap (fun i =>
        let r := e.2.2.getD i (0, 0)
        [(e.1 + 16 + 16 * i, 8, r.1), (e.1 + 24 + 16 * i, 4, r.2)]))

/-- 0x80: the oldest Reservation Notification of the controller. -/
def resvPage (s : State) (cid : Nat) : List (Nat × Nat × Nat) :=
  match s.nvq.resvLog.filter (fun e => decide (e.1 = cid)) with
  | [] => []
  | e :: r => [(0, 8, 1), (8, 1, e.2.1), (9, 1, r.length), (12, 4, e.2.2)]

/-- 0x81: Sanitize Status; progress within a sanitize is not stated. -/
def sanitizePage (s : State) : List (Nat × Nat × Nat) :=
  let any := fun v => s.nvq.ns.any (fun e => decide (e.2.sanitize = v))
  let st := if any 2 then 2 else if any 3 then 3 else if any 1 then 1 else 0
  [(0, 2, if st = 2 then Config.physical s.free % 0xFFFF else 0xFFFF), (2, 2, st), (4, 4, 4)]

/-- 0xD2: the record of the controller's host key (R383). -/
def lostPage (s : State) (c : Ctrl) : List (Nat × Nat × Nat) :=
  match lcrOf s (hostKeyOf c) with
  | none => [(0, 2, 1)]
  | some r =>
    let final := r.entries.all LostEntry.ended
    [(0, 2, 1), (2, 2, packBits [final, r.overflow]), (4, 4, r.entries.length), (8, 8, r.time % 2 ^ 48),
     (16, 4, r.time + r.life - s.life.now), (20, 1, r.cause), (24, 16, match r.key with | .fabric _ h => h | .hostId h => h | .func _ _ => 0)] ++
      (List.range r.entries.length).flatMap (fun i =>
        match r.entries[i]? with
        | none => []
        | some e =>
          let o := 64 + 48 * i
          [(o, 2, e.ctrl), (o + 2, 2, e.sqid), (o + 4, 2, e.cid), (o + 6, 1, e.opc),
           (o + 7, 1, packBits [decide (e.sqid = 0), e.ended, e.changed]), (o + 8, 4, e.nsid), (o + 12, 2, 2 * e.status),
           (o + 16, 4, e.dw0), (o + 20, 4, e.dw1), (o + 24, 8, e.slba), (o + 32, 4, e.nlb), (o + 36, 4, e.endMs)])

/-- ASCII bytes of a name as a little-endian number. -/
def asciiNumber (x : String) : Nat := ofLeBytes (x.toList.map Char.toNat)

/-- A hexadecimal digit in ASCII. -/
def hexDigit (n : Nat) : Nat := if n % 16 < 10 then 48 + n % 16 else 87 + n % 16

/-- The subsystem NQN (R448): its prefix, then the device serial number as 16 hexadecimal digits. -/
def subNqn (s : State) : Nat :=
  ofLeBytes ("nqn.2019-06.com.woxaer:swv-8512:".toList.map Char.toNat ++
    (List.range 16).map (fun i => hexDigit (s.cfg.serial / 16 ^ (15 - i))))

/-- The address entries on which NVMe over Fabrics listens (R440 flags VALID and NVME). -/
def nvmeAddrs (s : State) : List AddrEntry :=
  (s.fab.addrs.map Prod.snd).filter (fun e => bitOf e.flags 0 && bitOf e.flags 2)

/-- The Discovery log page (R448): one 1,024-byte entry for each NVME address. -/
def discoveryPage (s : State) : List (Nat × Nat × Nat) :=
  let es := nvmeAddrs s
  [(8, 8, es.length)] ++ (List.range es.length).flatMap (fun i =>
    let e := es.getD i {}
    let b := 1024 * (i + 1)
    [(b, 1, 1), (b + 1, 1, if bitOf e.flags 1 then 2 else 1), (b + 2, 1, 2), (b + 3, 1, 1), (b + 6, 2, 0xFFFF), (b + 8, 2, 4096),
     (b + 32, 32, asciiNumber "4420"), (b + 256, 256, subNqn s), (b + 512, 256, e.addr), (b + 768, 1, 1), (b + 769, 1, 2), (b + 770, 1, 2)])

/-- A page of R332; none where it is not supported. -/
def logPage (s : State) (cid : Nat) (c : Ctrl) (lid lsp : Nat) : Option (List (Nat × Nat × Nat)) :=
  if c.discovery then (if lid = 0x70 then some (discoveryPage s) else none)
  else if lid = 0x01 then some (errorPage s cid c)
  else if lid = 0x02 then some (smartPage s)
  else if lid = 0x03 then some (fwPage s)
  else if lid = 0x04 then some ((List.range c.changedNs.length).map (fun i => (4 * i, 4, c.changedNs.getD i 0)))
  else if lid = 0x05 then some (effectsPage c)
  else if lid = 0x0C then some (anaPage s c (decide (lsp % 2 = 1)))
  else if lid = 0x0E then some (lbaStatusPage s c)
  else if lid = 0x80 then some (resvPage s cid)
  else if lid = 0x81 then some (sanitizePage s)
  else if lid = 0xD1 then some (lifePage s)
  else if lid = 0xD2 then some (lostPage s c)
  else none

/-- What a read of a page ends (R332, R381): the Changed Namespace List, the oldest reservation notification, a final
lost-completion record read whole with RAE clear. -/
def logRead (cid : Nat) (c : Ctrl) (lid off len : Nat) (rae : Bool) (s : State) : State :=
  if lid = 0x04 then (if rae then s else s.putCtrl cid { c with changedNs := [] })
  else if lid = 0x80 then
    (match s.nvq.resvLog.find? (fun e => decide (e.1 = cid)) with
     | some e => { s with nvq := { s.nvq with resvLog := s.nvq.resvLog.erase e } }
     | none => s)
  else if lid = 0xD2 then
    (match lcrOf s (hostKeyOf c) with
     | some r =>
       if rae = false ∧ off = 0 ∧ 64 + 48 * r.entries.length ≤ len ∧ r.entries.all LostEntry.ended = true then
         { s with nvq := { s.nvq with lcr := s.nvq.lcr.filter (fun x => decide (x.key ≠ r.key)) } }
       else s
     | none => s)
  else s

/-- GET_LOG_PAGE (R330, R332): offsets in multiples of 4 bytes. -/
def execGetLogPage (slot : SlotNo) (s : State) : Result :=
  .next (withCmd slot.val (fun k => k.isAdmin 0x02) (fun k c s =>
    let lid := bits (k.dw 10) 0 8
    let len := 4 * (bits (k.dw 10) 16 16 + 65536 * bits (k.dw 11) 0 16 + 1)
    let off := k.dw 12 + 2 ^ 32 * k.dw 13
    match logPage s k.ctrl c lid (bits (k.dw 10) 8 7) with
    | none => finishCmd slot.val 0x109 0 0 s
    | some p =>
      if off % 4 ≠ 0 then finishCmd slot.val scInvalidField 0 0 s
      else finishCmd slot.val scOk 0 0
        (logRead k.ctrl c lid off len (bitOf (k.dw 10) 15) (s.emit (.page (window off len p))))) s.begin)

/-! ### Identify (R329 to R336, R351 to R354, R370) -/

/-- The LBA formats of a namespace (R334): 512 B, and 4 KiB with best performance. -/
def lbaFormats : List (Nat × Nat × Nat) := [(130, 1, 9), (131, 1, 1), (134, 1, 12), (135, 1, 0)]

/-- CNS 0x00 and 0x11: the namespace. -/
def idNamespace (s : State) (nsid : Nat) (n : Namespace) : List (Nat × Nat × Nat) :=
  let b := nsBlocks s nsid n
  let used := ((nsLtns s nsid).filter (fun l => decide ((tractOf s l).state ≠ .unmapped))).length * tractBlocks s n
  let au := if n.lbaShift = 9 then 16383 else 2047
  [(0, 8, b), (8, 8, b), (16, 8, used), (24, 1, 0x02), (25, 1, 1), (26, 1, if n.lbaShift = 9 then 0 else 1), (30, 1, 1), (31, 1, 0x7F),
   (33, 1, 0x09), (34, 2, au), (36, 2, au), (74, 2, 8388608 / 2 ^ n.lbaShift), (76, 4, 67108864 / 2 ^ n.lbaShift), (80, 1, 127),
   (92, 4, n.anagrp), (99, 1, b2n n.wprot), (104, 16, n.nguid)] ++ lbaFormats

/-- The power state descriptor of a state (R352), in 0.01 W and µs. -/
def psDescriptor (i watts nops enlat exlat : Nat) : List (Nat × Nat × Nat) :=
  let o := 2048 + 32 * i
  [(o, 2, 100 * watts), (o + 3, 1, 2 * nops), (o + 4, 4, enlat), (o + 8, 4, exlat)]

/-- CNS 0x01: the controller (R329, R330, R333, R335, R336, R352, R353, R370, R374, R375). -/
def idController (cid : Nat) (c : Ctrl) : List (Nat × Nat × Nat) :=
  [(76, 1, 0x0F), (77, 1, c.mdts), (78, 2, cid), (80, 4, 0x00020000), (84, 4, 5000000), (88, 4, 2000000), (256, 2, 0x020E), (258, 1, 7),
   (259, 1, 15), (260, 1, 0x14), (262, 1, 255), (263, 1, 2), (265, 1, 1), (266, 2, 358), (268, 2, 378), (270, 2, 11),
   (320, 2, if c.fabric then 1 else 0), (328, 4, 0x00000001), (342, 1, 10), (343, 1, 0xD7), (344, 4, 16), (348, 4, 16), (512, 1, 0x66),
   (513, 1, 0x44), (516, 4, 4096), (520, 2, 0x01ED), (522, 2, 0), (524, 1, 0), (525, 1, 0x07), (526, 2, 2047), (528, 2, 2047),
   (532, 2, 0), (540, 4, 4096)] ++
    (if c.fabric then [(111, 1, if c.discovery then 2 else 1), (1792, 4, 260), (1796, 4, 1), (1803, 1, 16)] else []) ++
    psDescriptor 0 540 0 0 0 ++ psDescriptor 1 300 0 100 100 ++ psDescriptor 2 58 1 20000 5000

/-- Insert a number in rising order. -/
def insNat (n : Nat) (l : List Nat) : List Nat :=
  match l with
  | [] => [n]
  | x :: r => if n ≤ x then n :: x :: r else x :: insNat n r

/-- A list of 4-byte namespace identifiers above one. -/
def idList (l : List Nat) (above : Nat) : List (Nat × Nat × Nat) :=
  let m := ((l.filter (fun n => decide (above < n))).foldr insNat []).take 1024
  (List.range m.length).map (fun i => (4 * i, 4, m.getD i 0))

/-- A controller list from an identifier on: a count, then 2 bytes each. -/
def ctrlList (l : List Nat) (start : Nat) : List (Nat × Nat × Nat) :=
  let m := (l.filter (fun c => decide (start ≤ c))).take 2047
  (0, 2, m.length) :: (List.range m.length).map (fun i => (2 + 2 * i, 2, m.getD i 0))

/-- The command set identifier of a namespace. -/
def csiOf (n : Namespace) : Nat := if n.zoned then 2 else 0

/-- CNS 0x05: the namespace's own command set (R351). -/
def idSetNamespace (s : State) (n : Namespace) : List (Nat × Nat × Nat) :=
  if n.zoned then [(0, 2, 0), (2, 2, 0), (4, 4, n.mar), (8, 4, n.mor), (2816, 8, tractBytes s / 512), (2832, 8, tractBytes s / 4096)] else []

/-- The data of an Identify, or the status it fails with. -/
def identifyData (s : State) (k : Cmd) (c : Ctrl) : Except Nat (List (Nat × Nat × Nat)) :=
  let cns := bits (k.dw 10) 0 8
  let csi := bits (k.dw 11) 24 8
  let ns := s.ns? k.nsid
  let act := decide (k.nsid ∈ c.attach)
  let all := s.nvq.ns.keys
  if cns = 0x00 then (match ns with
    | some n => .ok (if act then idNamespace s k.nsid n else [])
    | none => if k.nsid = 0xFFFFFFFF then .ok (lbaFormats ++ [(25, 1, 1), (30, 1, 1), (33, 1, 9)])
        else if 0 < k.nsid ∧ k.nsid ≤ 4096 then .ok [] else .error scBadNamespace)
  else if cns = 0x01 then .ok ((768, 256, subNqn s) :: idController k.ctrl c)
  else if cns = 0x02 then .ok (idList c.attach k.nsid)
  else if cns = 0x03 then (match ns with
    | some n => if act then .ok [(0, 1, 2), (1, 1, 16), (4, 16, n.nguid), (20, 1, 4), (21, 1, 1), (24, 1, csiOf n)] else .error scBadNamespace
    | none => .error scBadNamespace)
  else if cns = 0x05 then (match ns with
    | some n => if act = true ∧ csi = csiOf n then .ok (idSetNamespace s n) else .error scInvalidField
    | none => .error scBadNamespace)
  else if cns = 0x06 then (if csi = 0 then .ok [] else if csi = 2 then .ok [(0, 1, 11)] else .error scInvalidField)
  else if cns = 0x07 then .ok (idList (c.attach.filter (fun n => (s.ns? n).any (fun x => decide (csiOf x = csi)))) k.nsid)
  else if cns = 0x08 then (match ns with
    | some n => .ok (if act then [(1, 1, 1), (2, 1, 0x7F), (4, 4, n.anagrp), (8, 1, b2n n.wprot)] else [])
    | none => .error scBadNamespace)
  else if cns = 0x10 then .ok (idList all k.nsid)
  else if cns = 0x11 then (match ns with
    | some n => .ok (idNamespace s k.nsid n)
    | none => if 0 < k.nsid ∧ k.nsid ≤ 4096 then .ok [] else .error scBadNamespace)
  else if cns = 0x12 then .ok (ctrlList (ctrlsOf s k.nsid) (bits (k.dw 10) 16 16))
  else if cns = 0x13 then .ok (ctrlList s.nvq.ctrls.keys (bits (k.dw 10) 16 16))
  else .error scInvalidField

/-- IDENTIFY (R330). -/
def execIdentify (slot : SlotNo) (s : State) : Result :=
  .next (withCmd slot.val (fun k => k.isAdmin 0x06) (fun k c s =>
    match identifyData s k c with
    | .ok p => finishCmd slot.val scOk 0 0 (s.emit (.page (fieldBytes p)))
    | .error e => finishCmd slot.val e 0 0 s) s.begin)

/-! ### Get LBA Status (R330, R387) -/

/-- GET_LBA_STATUS: lost ranges that meet the range asked for. -/
def execGetLbaStatus (slot : SlotNo) (s : State) : Result :=
  .next (withCmd slot.val (fun k => k.isAdmin 0x86) (fun k c s =>
    match s.ns? k.nsid with
    | none => finishCmd slot.val scBadNamespace 0 0 s
    | some x =>
      let act := bits (k.dw 13) 24 8
      let rl := bits (k.dw 13) 0 16
      let b := k.slba + (if rl = 0 then nsBlocks s k.nsid x else rl)
      if k.nsid ∉ c.attach then finishCmd slot.val scBadNamespace 0 0 s
      else if act ≠ 0x10 ∧ act ≠ 0x11 then finishCmd slot.val scInvalidField 0 0 s
      else if nsBlocks s k.nsid x ≤ k.slba then finishCmd slot.val scLbaRange 0 0 s
      else
        let l := (lostLbas s k.nsid x).filter (fun r => decide (k.slba < r.1 + r.2 ∧ r.1 < b))
        let sent := l.take ((4 * (k.dw 12 + 1) - 8) / 16)
        finishCmd slot.val scOk 0 0 (s.emit (.page (fieldBytes
          ([(0, 4, sent.length), (4, 1, if sent.length = l.length then 1 else 2)] ++ (List.range sent.length).flatMap (fun i =>
            let r := sent.getD i (0, 0)
            [(8 + 16 * i, 8, r.1), (16 + 16 * i, 4, r.2)])))))) s.begin)

end Sys2Proof.Machine
end

