-- ==== Sys2Proof/Machine/CwyOps.lean ====
section
/-! DEFINITION. Causeway: datagrams and their acknowledgement, sessions, the chain and migrations, as operations that the
chapter's commands and other blocks share (chapter "Causeway peer protocol"). -/

namespace Sys2Proof.Machine

open Sys2Proof

/-! ### Peers (R464, R468) -/

def peerOf (s : State) (p : Nat) : Peer := Tab.get {} s.cwy.peers p

def putPeer (p : Nat) (x : Peer) (s : State) : State := { s with cwy := { s.cwy with peers := Tab.set {} s.cwy.peers p x } }

/-- The entry that holds a serial number. -/
def peerBySerial (s : State) (n : Nat) : Option Nat :=
  (s.cwy.peers.find? (fun e => decide (e.2.serial = n ∧ e.2.roles ≠ 0))).map Prod.fst

/-- The CHAIN_NEXT peer. -/
def chainNext (s : State) : Option Nat := (s.cwy.peers.find? (fun e => bitOf e.2.roles 0)).map Prod.fst

/-- A logical port has an address whose CWY flag is set (R440, R464). -/
def cwyPort (s : State) (lp : Nat) : Bool := s.fab.addrs.any (fun e => addrOn e.2 && addrV6 e.2 && bitOf e.2.flags 3 && decide (e.2.lp = lp))

/-- The versions this device supports (R471): those of its running firmware. -/
def myVersions (s : State) : Nat := ((fwSlot s s.upd.running).map FwImage.cwyVers).getD 3

/-- The highest version set in both VERSIONS fields (R472); 0 for none. Bit v - 1 stands for version v. -/
def commonVersion (a b : Nat) : Nat :=
  (List.range 16).foldl (fun m i => if bitOf a i = true ∧ bitOf b i = true then i + 1 else m) 0

def streamOf (l : List Nat) (st : Nat) : Nat := l.getD st 0

/-! ### Migrations -/

def migOf (s : State) (m : Nat) : Option Migration := s.cwy.migs.find m

def putMig (m : Nat) (x : Migration) (s : State) : State := { s with cwy := { s.cwy with migs := s.cwy.migs.put m x } }

/-- Migrations of a kind that run. -/
def migsRunning (s : State) (exports : Bool) : List (Nat × Migration) :=
  s.cwy.migs.filter (fun e => decide (e.2.export_ = exports ∧ e.2.ended = 0))

/-- The lowest place for a new migration: one that none holds, or whose migration has ended. -/
def freeMig (s : State) : Option Nat := (List.range 8).find? (fun m => (migOf s m).all (fun x => decide (x.ended ≠ 0)))

/-- A migration ends (R484). -/
def migEnd (m how reason : Nat) (s : State) : State :=
  match migOf s m with
  | none => s
  | some x => (putMig m { x with ended := how, reason := reason, flow := [], ending := [] } s).wr F.CWY_EVT_MIG_DONE 1

/-- The record of one unit of a namespace (R478, R479): LOST where it cannot be recovered, ZERO where nothing was written. -/
def unitRecord (s : State) (nsid g : Nat) : UnitRecord :=
  let zero := match unitAt s nsid g with
    | some (l, u) => (s.map.dirty.find (unitKey l u)).isNone && (decide ((tractOf s l).state = .unmapped) || !alreadyWritten s l u) &&
        !unitLost s l u
    | none => true
  match zero, readUnit s nsid g with
  | true, _ => { nsUnit := g, payload := 0, tagOk := true, wseq := 0, lost := false, zero := true }
  | false, some d => { nsUnit := g, payload := d.payload, tagOk := true, wseq := d.wseq, lost := false, zero := false }
  | false, none => { nsUnit := g, payload := 0, tagOk := true, wseq := 0, lost := true, zero := false }

/-- The units of a MIG_UNITS body made from (migration, first unit, count). -/
def unitsFor (s : State) (args : List Nat) : List UnitRecord :=
  match migOf s (args.getD 0 0) with
  | none => []
  | some x => (List.range (args.getD 2 0)).map (fun i => unitRecord s x.nsid (args.getD 1 0 + i))

/-! ### Sending (R467) -/

/-- A datagram leaves: MIG_UNITS with its unit records. -/
def cwyOut (p : Nat) (d : CwyTx) (s : State) : State :=
  if d.type = 0x31 then s.emit (.cwyUnits p d.stream d.seq (unitsFor s d.args)) else s.emit (.cwy p d.type d.stream d.seq d.args)

/-- Datagrams of a stream that are not acknowledged, and that wait. -/
def unacked (x : Peer) (st : Nat) : Nat := (x.tx.filter (fun d => decide (d.stream = st))).length
def waiting (x : Peer) (st : Nat) : Nat := (x.wait.filter (fun d => decide (d.stream = st))).length

/-- Send with the stream's next SEQ. -/
def cwySendNow (p : Nat) (d : CwyTx) (s : State) : State :=
  let x := peerOf s p
  let q := (streamOf x.txSeq d.stream + 1) % 2 ^ 32
  let d := { d with seq := q }
  cwyOut p d (putPeer p { x with txSeq := x.txSeq.set d.stream q, tx := x.tx ++ [d] } s)

/-- Send on a session that is up; beyond 1,024 unacknowledged datagrams it waits. -/
def cwySend (p stream type : Nat) (args : List Nat) (s : State) : State :=
  let x := peerOf s p
  let d : CwyTx := { stream := stream, type := type, args := args }
  if x.state ≠ 2 then s
  else if 1024 ≤ unacked x stream ∨ 0 < waiting x stream then putPeer p { x with wait := x.wait ++ [d] } s
  else cwySendNow p d s

/-- Datagrams that waited go out as room comes. -/
def cwyPump (p st : Nat) (s : State) : State :=
  let x := peerOf s p
  let l := (x.wait.filter (fun d => decide (d.stream = st))).take (1024 - unacked x st)
  let rest := (x.wait.filter (fun d => decide (d.stream = st))).drop (1024 - unacked x st)
  eachOf l (cwySendNow p) (putPeer p { x with wait := x.wait.filter (fun d => decide (d.stream ≠ st)) ++ rest } s)

/-- The SEQ a stream's ACK field names: the newest received in order, but not a MIG_TRACT_END whose tract is not whole
(R465, R480). -/
def ackOf (s : State) (p st : Nat) : Nat :=
  let held := (migsRunning s false).flatMap (fun e => if e.2.peer = p then e.2.ending.filterMap (fun t =>
    if t.2.1 = st then some t.2.2 else none) else [])
  match held with
  | [] => streamOf (peerOf s p).rxSeq st
  | q :: r => (r.foldl min q + 2 ^ 32 - 1) % 2 ^ 32

/-- An acknowledgement goes back (R467). -/
def sendAck (p st : Nat) (s : State) : State := s.emit (.cwy p 0 st (ackOf s p st) [])

/-! ### The chain (R475, R476) -/

/-- Bytes of the delta that may be sent on. -/
def chainAvail (s : State) : Nat := if s.cwy.chainHead then s.upd.deltaLen else s.cwy.chainOff

/-- Send on what the device holds, in pieces of at most 8,192 bytes. -/
def chainFeed (n q : Nat) (s : State) : State :=
  match n with
  | 0 => s
  | n + 1 =>
    let x := peerOf s q
    if s.cwy.chain = false ∨ x.state ≠ 2 ∨ chainAvail s ≤ s.cwy.chainSent ∨ 1024 ≤ unacked x 9 + waiting x 9 then s
    else
      let k := min 8192 (chainAvail s - s.cwy.chainSent)
      let args := [s.cwy.chainSent, s.cwy.chainLen, k, byteField s.upd.buf s.cwy.chainSent k]
      chainFeed n q (cwySend q 9 0x20 args { s with cwy := { s.cwy with chainSent := s.cwy.chainSent + k } })

/-- The transfer has passed through: everything is held, sent on and acknowledged. -/
def chainThrough (s : State) : Bool :=
  decide (chainAvail s = s.cwy.chainLen) && (match chainNext s with
    | none => true
    | some q => decide (s.cwy.chainSent = s.cwy.chainLen) && !((peerOf s q).tx ++ (peerOf s q).wait).any (fun d => decide (d.type = 0x20)))

/-- Forward to the CHAIN_NEXT peer, if there is one; the transfer ends when all of it has passed through. -/
def chainPump (s : State) : State :=
  if s.cwy.chain = false then s
  else
    let s := match chainNext s with
      | some q => chainFeed 1025 q s
      | none => s
    if chainThrough s then { s with cwy := { s.cwy with chain := false } } else s

/-- This device's report, or one it relays, goes toward the head (R476); at the head it is counted. -/
def chainReportUp (serial status : Nat) (s : State) : State :=
  if s.cwy.chainHead then { s with cwy := { s.cwy with reports := s.cwy.reports ++ [(serial, status)] } }
  else match s.cwy.chainFrom with
    | some p => cwySend p 9 0x21 [serial, status, s.life.now % 2 ^ 32] s
    | none => s

/-- A transfer is refused here: nothing more is applied or forwarded (R476, R586). -/
def chainRefuse (status : Nat) (s : State) : State :=
  chainReportUp s.cfg.serial status { s with cwy := { s.cwy with chain := false } }

/-- Start a chain from the download buffer (R475): the task status. -/
def chainStart (s : State) : Nat × State :=
  if s.cwy.chain = true ∨ s.upd.isOpen = true ∨ s.upd.commit.isSome = true then (5, s)
  else if s.upd.deltaLen = 0 ∨ (chainNext s).isNone = true then (7, s)
  else
    let n := s.upd.deltaLen
    let c := { s.cwy with chain := true, chainHead := true, chainFrom := none, chainSame := false, chainOff := n, chainLen := n,
                          chainSent := 0, reports := [] }
    (0, chainPump { s with cwy := c })

/-! ### Export streams (R471, R477, R479, R481) -/

/-- The streams a version carries migrations on. -/
def migStreams (version : Nat) : List Nat := if version = 1 then [1] else [1, 2, 3, 4, 5, 6, 7, 8]

/-- Give a free stream the next tract of the peer's first export that has one. -/
def takeTract (p st : Nat) (s : State) : State :=
  let x := peerOf s p
  if x.carry.any (fun c => decide (c.stream = st)) then s
  else match (migsRunning s true).find? (fun e => decide (e.2.peer = p ∧ e.2.opened = true ∧ e.2.todo ≠ [])) with
    | none => s
    | some (m, y) =>
      match y.todo with
      | [] => s
      | t :: rest =>
        let c : Carry := { stream := st, mig := m, tract := t }
        putMig m { y with todo := rest, changed := dropOne t y.changed } (putPeer p { x with carry := x.carry ++ [c] } s)

/-- Send units of the stream's tract, two a datagram, while fewer than 1,024 datagrams are out; after the last one
MIG_TRACT_END. -/
def feedTract (n p st : Nat) (s : State) : State :=
  match n with
  | 0 => s
  | n + 1 =>
    let x := peerOf s p
    match x.carry.find? (fun c => decide (c.stream = st)) with
    | none => s
    | some c =>
      let total := tractUnits s
      if 1024 ≤ unacked x st + waiting x st ∨ total < c.next then s
      else
        let k := if c.next = total then 1 else min 2 (total - c.next)
        let s := putPeer p { x with carry := x.carry.map (fun d => if d.stream = st then { d with next := c.next + k } else d) } s
        if c.next = total then cwySend p st 0x33 [c.mig, c.tract, total] s
        else
          let g := c.tract * total + c.next
          let s := match migOf s c.mig with
            | some y => putMig c.mig { y with lost := (List.range k).foldl (fun l i =>
                if (unitRecord s y.nsid (g + i)).lost then addNew (g + i) l else l) y.lost } s
            | none => s
          feedTract n p st (cwySend p st 0x31 [c.mig, g, k] s)

/-- Every stream of a session's version carries a tract, where an export has one. -/
def migPump (p : Nat) (s : State) : State :=
  if (peerOf s p).state ≠ 2 then s
  else eachOf (migStreams (peerOf s p).version) (fun st s => feedTract 1026 p st (takeTract p st s)) s

/-! ### Acknowledgement (R467) -/

/-- What an acknowledged datagram brings about: MIG_OPEN starts the export's first pass, MIG_TRACT_END counts its tract,
MIG_DONE ends the export. -/
def cwyAcked (p : Nat) (d : CwyTx) (s : State) : State :=
  let m := d.args.getD 0 0
  match migOf s m with
  | none => s
  | some y =>
    if d.type = 0x30 ∧ y.export_ = true ∧ y.ended = 0 then putMig m { y with opened := true } s
    else if d.type = 0x33 then
      let x := peerOf s p
      putPeer p { x with carry := x.carry.filter (fun c => decide (c.stream ≠ d.stream)) }
        (putMig m { y with tracts := y.tracts + 1, sent := y.sent + d.args.getD 2 0 } s)
    else if d.type = 0x34 ∧ y.ended = 0 then migEnd m 1 0 s
    else s

/-- SEQ `a` is at or before `b`, modulo 2^32. -/
def seqLe (a b : Nat) : Bool := decide ((b + 2 ^ 32 - a % 2 ^ 32) % 2 ^ 32 < 2 ^ 31)

/-- An ACK field arrives (R467): what it covers leaves the sender's list, and the timeout returns to 2 ms at progress. -/
def cwyAck (p st ack : Nat) (s : State) : State :=
  let x := peerOf s p
  let done := x.tx.filter (fun d => decide (d.stream = st) && seqLe d.seq ack)
  if done.isEmpty then s
  else
    let s := putPeer p { x with tx := x.tx.filter (fun d => !(decide (d.stream = st) && seqLe d.seq ack)), rto := x.rto.set st 2 } s
    chainPump (migPump p (cwyPump p st (eachOf done (cwyAcked p) s)))

/-! ### Sessions (R470, R472, R474) -/

/-- A nonce of HELLO or HELLO_ACK. -/
def cwyNonce (s : State) : Nat := Config.physical s.free % 2 ^ 128

/-- The session key (R470): over "SWCW" and both nonces. -/
def sessionKey (secret ni nr : Nat) : Nat := Config.hmac256 secret (0x57435753 + 2 ^ 32 * (ni % 2 ^ 128) + 2 ^ 160 * (nr % 2 ^ 128)) % 2 ^ 256

/-- Send HELLO: a session that is up keeps its number (R472). -/
def sendHello (p : Nat) (s : State) : State :=
  let x := peerOf s p
  let num := if x.state = 2 then x.session else Config.physical (s.free + 1) % 2 ^ 32
  let s := putPeer p { x with nonce := cwyNonce s, asked := true, session := num } s
  ({ s with free := s.free + 2 }).emit (.cwy p 0x01 0 0 [cwyNonce s, myVersions s, num, s.cfg.serial])

/-- This device initiates toward a peer: the lower serial number does (R470). -/
def initiates (s : State) (p : Nat) : Bool := decide (s.cfg.serial < (peerOf s p).serial)

/-- HELLO on each session, as new firmware does at Resume (R472). -/
def helloAll (s : State) : State := eachOf (s.cwy.peers.filter (fun e => decide (e.2.state = 2))) (fun e s => sendHello e.1 s) s

/-- Exports that have not been opened, or have been closed, say so again on a new session. -/
def migResume (p : Nat) (s : State) : State :=
  eachOf ((migsRunning s true).filter (fun e => decide (e.2.peer = p))) (fun e s =>
    if e.2.opened = false then cwySend p 0 0x30 [e.1, e.2.nsid] s
    else if e.2.closing then cwySend p 0 0x34 [e.1, e.2.sent, e.2.lost.length, ((s.ns? e.2.nsid).map Namespace.wseq).getD 0] s
    else s) s

/-- A session opens, or a session that is up is negotiated afresh: then streams go on where they are (R472). -/
def openSession (p version key num : Nat) (s : State) : State :=
  let x := peerOf s p
  let again := decide (x.state = 2 ∧ x.session = num)
  let x := { x with state := 2, version := version, key := key, session := num, asked := false }
  let x := if again then x else { x with txSeq := List.replicate 10 0, rxSeq := List.replicate 10 0, rto := List.replicate 10 2, tx := [], wait := [] }
  let s := putPeer p x s
  chainPump (migPump p (if again then s else migResume p s))

/-- A session ends (R467, R474, R482): its exports go on from the first tract not acknowledged; its imports discard what a
partial tract brought; a chain resumes at the acknowledged offset, at version 1 at offset 0. -/
def sessionEnd (p : Nat) (s : State) : State :=
  let x := peerOf s p
  if x.state ≠ 2 then s
  else
    let s := eachOf x.carry (fun c s => match migOf s c.mig with
      | some y => putMig c.mig { y with todo := addNew c.tract y.todo } s
      | none => s) s
    let s := eachOf ((migsRunning s false).filter (fun e => decide (e.2.peer = p))) (fun e s =>
      putMig e.1 { e.2 with flow := [], bad := [], ending := [] } s) s
    let out := (x.tx ++ x.wait).filter (fun d => decide (d.type = 0x20))
    let back := if x.version = 1 then 0 else out.foldl (fun a d => min a (d.args.getD 0 0)) s.cwy.chainSent
    let s := if chainNext s = some p then { s with cwy := { s.cwy with chainSent := back } } else s
    putPeer p { x with state := 1, version := 0, asked := false, tx := [], wait := [], carry := [] } s

/-! ### Starting and freezing a migration (R477, R481): the task status -/

/-- Start an export. -/
def migExport (nsid serial : Nat) (s : State) : Nat × State :=
  match peerBySerial s serial, s.ns? nsid with
  | some p, some n =>
    if bitOf (peerOf s p).roles 1 = false ∨ n.importing = true then (7, s)
    else if 4 ≤ (migsRunning s true).length ∨ (migsRunning s true).any (fun e => decide (e.2.nsid = nsid)) then (5, s)
    else match freeMig s with
      | none => (5, s)
      | some m => (0, cwySend p 0 0x30 [m, nsid] (putMig m { export_ := true, peer := p, nsid := nsid, todo := List.range (nsTracts s nsid) } s))
  | _, _ => (2, s)

/-- The seal is engaged or a fen is at bench 5 (R477, R482). -/
def importBarred (s : State) : Bool := nvqSealed s || s.fen.bench5

/-- Prepare an import. -/
def migImport (serial src dst tpl : Nat) (s : State) : Nat × State :=
  match peerBySerial s serial with
  | none => (2, s)
  | some p =>
    if dst = 0 ∨ 4096 < dst ∨ (s.ns? dst).isSome = true ∨ (s.image.nstpl.templates[tpl]?).isNone = true then (2, s)
    else if bitOf (peerOf s p).roles 2 = false ∨ importBarred s = true then (7, s)
    else if 4 ≤ (migsRunning s false).length ∨ (migsRunning s false).any (fun e => decide (e.2.nsid = dst)) then (5, s)
    else match freeMig s with
      | none => (5, s)
      | some m => (0, putMig m { export_ := false, peer := p, nsid := dst, srcNsid := src, template := tpl } s)

/-- Freeze: the source namespace is write-protected, and one final pass follows the one that runs. -/
def migFreeze (nsid : Nat) (s : State) : Nat × State :=
  match (migsRunning s true).find? (fun e => decide (e.2.nsid = nsid)), s.ns? nsid with
  | some (m, y), some n => (0, putMig m { y with frozen := true } (s.putNs nsid { n with wprot := true }))
  | _, _ => (7, s)

/-- A new entry of the peer table, or its deletion with ROLES 0 (R468): the task status. -/
def peerSet (k roles serial addr secret : Nat) (s : State) : Nat × State :=
  if 64 ≤ k ∨ 16 ≤ roles then (2, s)
  else if bitOf roles 0 = true ∧ (chainNext s).any (fun q => decide (q ≠ k)) = true then (7, s)
  else
    let s := sessionEnd k s
    if roles = 0 then (0, { s with cwy := { s.cwy with peers := s.cwy.peers.del k } })
    else
      let s := putPeer k { serial := serial, roles := roles, addr := addr, secret := secret, state := 1 } s
      (0, if initiates s k then sendHello k s else s)

end Sys2Proof.Machine
end

