-- ==== Sys2Proof/Machine/BootOps.lean ====
section
/-! DEFINITION. Resets and the boot journal: what a power-on and a device reset reinitialise and keep, and the start of a boot
(chapter "Clocks, resets and start-up"). -/

namespace Sys2Proof.Machine

open Sys2Proof

/-! ### The boot journal (R621, R622) -/

/-- The record of this start. -/
def thisRecord (s : State) : BootRecord := s.boot.records.headD { startNo := 0 }

/-- Change the record of this start. -/
def setRecord (f : BootRecord → BootRecord) (s : State) : State :=
  match s.boot.records with
  | [] => s
  | r :: rest => { s with boot := { s.boot with records := f r :: rest } }

/-- The BOOT registers follow (R628). -/
def bootNote (s : State) : State :=
  let r := thisRecord s
  let s := ((s.wr F.BOOT_STAT_STEP s.boot.step).wrB F.BOOT_STAT_DONE s.boot.done).wrB F.BOOT_STAT_STOPPED s.boot.stopped
  let s := (s.wr F.BOOT_STAT_CAUSE r.cause).wr F.BOOT_START_NO_START_NO r.startNo
  ((s.wr F.BOOT_STICKY_STICKY r.sticky).wr F.BOOT_STICKY_MERE_SLOW r.mereSlow).wr F.BOOT_STICKY_SEAM_SLOW r.seamSlow

/-! ### What a reset keeps (R613, R614) -/

/-- The register fields whose reset is "—" (R15). -/
def keptKeys : List Nat := (regTable.flatMap Reg.fields).filterMap (fun f => if f.kept then some (f.key 0) else none)

/-- A register field keeps its value: LIFE, SEAL and the fields with reset "—"; at a device reset the whole BOOT block, which
lies in the always-on island (R614, R628). -/
def keepsKey (power : Bool) (k : Nat) : Bool :=
  let off := k / 8
  decide (0x500000 ≤ off ∧ off < 0x600000) || decide (0x700000 ≤ off ∧ off < 0x800000) || decide (k ∈ keptKeys) ||
    (!power && decide (0x200000 ≤ off ∧ off < 0x300000))

/-- The registers after a reset; with VBAT lost nothing of the always-on content is left (R147, R614). -/
def resetRegs (power vbatLost : Bool) (s : State) : Tab Nat :=
  if vbatLost then [] else s.regs.filter (fun e => keepsKey power e.1)

/-- The Peat log (R533, R537): a power-on clears the ring; the archive is on the media; the next SEQ is in always-on memory. -/
def resetPeat (power vbatLost : Bool) (s : State) : PeatState :=
  if power = false then { s.peat with codes := [], held := [] }
  else { next := s.peat.next, archived := s.peat.next - 1, archive := s.peat.archive, unknown := vbatLost, chain := s.peat.chain,
         segment := s.peat.segment, segNo := s.peat.segNo, segRow := s.peat.segRow }

/-- The media, its blocks and what the journal and the checkpoints hold stay; the rest of the map is recovered at step 7. -/
def resetMap (s : State) : MapState :=
  { blocks := s.map.blocks, media := s.map.media, jseq := s.map.jseq, durableJ := s.map.durableJ, ckpts := s.map.ckpts,
    ckptNo := s.map.ckptNo, anchorSeq := s.map.anchorSeq, jlast := s.map.jlast, junits := s.map.junits, jnext := s.map.jnext,
    inPlace := s.map.inPlace }

/-- A namespace over a reset: it is journalled; registrations without PTPL end with the power (R354); its WSEQ
counter resumes at the recorded floor (R179). -/
def resetNs (power : Bool) (n : Namespace) : Namespace :=
  let n := { n with wseq := n.wseqFloor }
  if power = true ∧ n.resv.ptpl = false then { n with resv := { gen := n.resv.gen } } else n

/-- A pass that ran goes on from its journalled cursor once boot step 8 has ended (R153); after a power failure it ends with STATUS 3. The
manual says nothing of a reset with no power failure: the pass goes on, and ends with STATUS 0 (DESIGN CHOICE, log entry 91). -/
def resetPass (power : Bool) (p : DredgePass) : DredgePass :=
  if p.state = 1 then { p with resumed := p.resumed || power, cursor := p.journalled, seen := p.seen.take p.journalled } else p

/-- A peer-table entry without its session. -/
def resetPeer (x : Peer) : Peer :=
  { serial := x.serial, roles := x.roles, addr := x.addr, secret := x.secret, state := min 1 x.roles }

/-- A migration without its streams: an export's tracts that were under way are still to be sent. -/
def resetMig (under : List Nat) (y : Migration) : Migration :=
  let todo := under ++ y.todo
  { y with todo := todo, flow := [], bad := [], ending := [] }

/-- The peer table is in boot flash; an export goes on from the tracts acknowledged (R468, R482). -/
def resetCwy (s : State) : CwyState :=
  let under := fun (m : Nat) => s.cwy.peers.flatMap (fun e => (e.2.carry.filter (fun c => decide (c.mig = m))).map Carry.tract)
  { peers := s.cwy.peers.map (fun e => (e.1, resetPeer e.2)), migs := s.cwy.migs.map (fun e => (e.1, resetMig (under e.1) e.2)) }

/-- Key slots: their keys are in the key label, wrapped; none is loaded before step 7 (R496). A key that has not been replaced yet stays. -/
def resetKey (k : KeySlot) : KeySlot := { k with state := 0, users := 0, cmd := none, nextKey := none }

/-- Firmware in boot flash, its selection record and floor (R571, R572, R577). -/
def resetUpd (s : State) : UpdState :=
  { fw1 := s.upd.fw1, fw2 := s.upd.fw2, fwBytes := s.upd.fwBytes, buf := s.upd.buf, fwKey := s.upd.fwKey, fwDigest := s.upd.fwDigest,
    rotKey := s.upd.rotKey, rotDigest := s.upd.rotDigest, sel0 := s.upd.sel0, sel1 := s.upd.sel1, selLast := s.upd.selLast, running := s.upd.running, active := s.upd.active, pending := s.upd.pending, tries := s.upd.tries,
    source := s.upd.source, stored := s.upd.stored, floor := s.upd.floor, deltaLen := s.upd.deltaLen }

/-- A record that has reached boot flash (R622): a step from step 2 on has ended, or a step has failed. Those alone are left
where the always-on memory was lost with VBAT (R625). -/
def inFlash (r : BootRecord) : Bool := decide (2 ≤ r.done ∨ r.failed ≠ 0)

/-- Everything a power-on or device reset reinitialises (R614). The queue of commands and the pins are the outside's. -/
def resetState (power vbatLost : Bool) (s : State) : State :=
  let lost := vbatLost && power
  { State.reset with
    pending := s.pending, out := s.out, free := s.free, readData := s.readData, regs := resetRegs power lost s,
    peat := resetPeat power lost s,
    cfg := { slots := s.cfg.slots, fill := s.cfg.fill, rec0 := s.cfg.rec0, rec1 := s.cfg.rec1, floor := s.cfg.floor,
             floorUps := s.cfg.floorUps, serial := s.cfg.serial, slotBytes := s.cfg.slotBytes, signKey := s.cfg.signKey,
             signDigest := s.cfg.signDigest, configKey := s.cfg.configKey },
    life := s.life,
    ret := { thermal := if lost then [] else s.ret.savedThermal, savedThermal := if lost then [] else s.ret.savedThermal,
             passes := s.ret.passes.map (resetPass power), nextPass := s.ret.nextPass, witness := s.ret.witness, health := s.ret.health,
             maxTemp := s.ret.maxTemp, tempHist := s.ret.tempHist, fenMax := s.ret.fenMax, fenTemps := s.ret.fenTemps,
             linkMax := s.ret.linkMax },
    map := resetMap s,
    fen := { draining := s.fen.draining, retired := s.fen.retired, deadDies := s.fen.deadDies, evac := s.fen.evac, coming := s.fen.coming },
    nvq := { ns := s.nvq.ns.map (fun e => (e.1, resetNs power e.2)) },
    fab := { saved := s.fab.saved, flash := s.fab.flash },
    cwy := resetCwy s,
    hew := { halted := s.hew.halted },
    cip := { slots := s.cip.slots.map (fun e => (e.1, resetKey e.2)), escrowId := s.cip.escrowId, escrowKey := s.cip.escrowKey,
             keysMade := s.cip.keysMade },
    pwr := { lowA := s.pwr.lowA, lowB := s.pwr.lowB, reserve := s.pwr.reserve, htMarks := if lost then 0 else s.pwr.htMarks,
             htDue := s.pwr.htDue, rails := s.pwr.rails },
    sea := if lost then {} else { fault := s.sea.fault, soft := s.sea.soft },
    upd := resetUpd s,
    cus := { recoveryKey := s.cus.recoveryKey },
    clk := if power then {} else s.clk,
    boot := { records := if lost then s.boot.records.filter inFlash else s.boot.records, optFail := s.boot.optFail, fellBack := s.boot.fellBack, known := s.boot.known, smbAddr := s.boot.smbAddr, testEn := s.boot.testEn,
              vbat := (if power then none else s.boot.vbat) },
    tmon := {} }

/-! ### tp (R584, R613, R622, R623) -/

/-- The first step that a record does not show as ended; its failed step where it names one. -/
def lastStep (r : BootRecord) : Nat :=
  if r.failed ≠ 0 then r.failed else ((List.range 8).find? (fun i => bitOf r.done i = false)).getD 8 + 1

/-- Boot a firmware slot: SLOTS of this start's record follows, with the flag of a try. -/
def useSlot (n : Nat) (try_ : Bool) (s : State) : State :=
  setRecord (fun r => { r with slots := n + (if try_ then 8 else 0) }) { s with upd := { s.upd with running := n } }

/-- SLOT_SELECTION (R584, R620): PENDING while it has tries, else ACTIVE; a try that has used them up falls back. A label walk
boots ACTIVE and leaves PENDING and TRIES. -/
def slotChoose (s : State) : State :=
  let r := thisRecord s
  if bitOf r.sticky 1 = true ∨ s.upd.pending = 0 then useSlot s.upd.active false s
  else if 0 < s.upd.tries then useSlot s.upd.pending true (putSel s.upd.active s.upd.pending (s.upd.tries - 1) s)
  else
    let old := (s.boot.records.drop 1).headD { startNo := 0 }
    let s := peatRecord 0x0201 (lastStep old) old.code 0 (putSel s.upd.active 0 0 s)
    useSlot s.upd.active false ({ s with boot := { s.boot with fellBack := true } }.wr F.UPD_EVT_FALLBACK 1)

/-- START_NO of the next start: one more, never 0. -/
def nextStart (n : Nat) : Nat := if (n + 1) % 2 ^ 32 = 0 then 1 else (n + 1) % 2 ^ 32

/-- tp: the start's record takes its number and the flags for this start from the newest record; step 1 begins. At most 4,096
records are kept. -/
def startBoot (cause : Nat) (s : State) : State :=
  let old := thisRecord s
  let r : BootRecord := { startNo := nextStart old.startNo, time := s.life.now, cause := cause, sticky := old.sticky, mereSlow := old.mereSlow,
                          seamSlow := old.seamSlow, skipped := s.boot.optFail }
  let b : BootState := { records := (r :: s.boot.records).take 4096, step := 1, fellBack := s.boot.fellBack, known := s.boot.known,
                         vbat := s.boot.vbat, smbAddr := s.boot.smbAddr, testEn := s.boot.testEn }
  bootNote (slotChoose { s with boot := b })

/-- A device reset with its cause (R614): hosts see every link down and every association end; then tp. -/
def deviceReset (cause : Nat) (s : State) : State :=
  startBoot cause (resetState false false (s.emit (.reset cause)))

/-- A power-on reset (R614), with the seconds that the calendar has counted since the power went, and whether VBAT was lost
(R145); with VBAT lost, or the crystal stopped, the calendar is lost (R147). The calendar off-interval runs from the last-alive time (R146).
The SMART page counts the power cycle, and a shutdown with no notice where an enabled controller had not been shut down (R155). -/
def powerOnReset (cause offSec : Nat) (vbatLost : Bool) (s : State) : State :=
  let sudden := s.nvq.ctrls.any (fun e => e.2.enabled && decide (e.2.shst ≠ 2))
  let s := healthAdd 25 (b2n sudden) (healthAdd 24 1 (resetState true vbatLost (s.emit (.reset cause))))
  let s := { s with life := { s.life with offDue := true } }.wrB F.CLK_REF_STAT_RTC s.life.crystal
  let s := if vbatLost = true ∨ s.life.crystal = false then
      ({ s with boot := { s.boot with vbat := some 0 }, life := { s.life with vbatEver := true } }.wr F.LIFE_STAT_VBAT_LOST 1).wr F.LIFE_STAT_VALID 0
    else
      let now := (s.life.now + offSec) % 2 ^ 48
      let off := now - s.life.lastAlive
      ({ s with life := { s.life with now := now, offSec := s.life.offSec + off } }.wr F.LIFE_LAST_OFF_SECONDS (min 0xFFFFFFFF off)).wr
        F.LIFE_STAT_VALID (b2n s.life.crystal)
  startBoot cause s

end Sys2Proof.Machine
end

