-- ==== Sys2Proof/Machine/Peat.lean ====
section
/-! DEFINITION. The Peat log's commands: recording, tokens, gaps and the archiver (chapter "The Peat log"). -/

namespace Sys2Proof.Machine

open Sys2Proof

/-- PEAT_EVENT_RECORD (R531, R535 to R538): a code outside the table is reserved and records nothing. -/
def execPeatEventRecord (code source : BitVec 16) (arg : Word) (aux : Byte) (s : State) : Result :=
  .next (peatRecord code.toNat source.toNat arg.toNat aux.toNat s.begin)

/-- PEAT_TOKEN_REFILL (R536): RATE tokens per second, up to BURST. -/
def execPeatTokenRefill (code : BitVec 16) (elapsedUs : Nat) (s : State) : Result :=
  let s := s.begin
  let c := Tab.get {} s.peat.codes code.toNat
  let c := { c with micro := min (c.burst * 1000000) (c.micro + c.rate * elapsedUs) }
  .next (if peatCritical code.toNat then s
    else { s with peat := { s.peat with codes := Tab.set {} s.peat.codes code.toNat c } })

/-- PEAT_GAP_RECORD (R538): free slots exceed 2,048 after dropping: the gap entry is recorded and DROPPING clears. -/
def peatGap (s : State) : State :=
  if s.isSet F.PEAT_STAT_DROPPING = true ∧ 2048 < peatFree s then
    let s := peatWrite (s.wr F.PEAT_STAT_DROPPING 0) 0x9001 0 (min 0xFFFFFFFF s.peat.dropped) 0 3 0
    { s with peat := { s.peat with dropped := 0 } }
  else s

def execPeatGapRecord (s : State) : Result := .next (peatGap s.begin)

/-! ### The archiver (R539 to R542, R190) -/

/-- Entries of the next row of the open segment: 64 to a unit, one unit fewer in row 0, which carries the header (R190, R539). -/
def peatRowEntries (s : State) : Nat := if s.peat.segRow = 0 then 64 * (rowUnits s - 1) else 64 * rowUnits s

/-- The header of a segment (R190): MAGIC, PREV, segment number, first entry sequence, time. -/
def peatHeader (s : State) (first : Nat) : Nat :=
  place [(0x53505753, 0), ((s.peat.chain.getD 1 0xFFFFFFFF) % 2 ^ 32, 32), (s.peat.segNo % 2 ^ 32, 64), (first % 2 ^ 64, 128),
    (s.life.now % 2 ^ 48, 192)]

/-- A unit of a segment: up to 64 entries of 64 bytes (R190). -/
def peatUnit (l : List PeatEntry) : Nat := (l.zipIdx).foldl (fun v e => v + peatBytes e.1 * 2 ^ (512 * e.2)) 0

/-- Write row `row` of a segment with entries (R190, R539): unit 0 of the stripe is its header; units after the last entry are filler. -/
def peatRowWrite (id row : Nat) (l : List PeatEntry) (s : State) : State :=
  let base := rowUnits s * row
  let u0 := if row = 0 then 1 else 0
  let first := (l.head?.map PeatEntry.seq).getD 0
  let s := if row = 0 then putMeta id 0 (peatHeader s first) first 0 s else s
  let s := eachOf (List.range ((l.length + 63) / 64)) (fun i s =>
    let es := (l.drop (64 * i)).take 64
    putMeta id (base + u0 + i) (peatUnit es) ((es.head?.map PeatEntry.seq).getD 0) (base + u0 + i) s) s
  setFrontier id (row + 1) (putParity id row s)

/-- Open a segment (R540, R181): a KIND 6 stripe whose header names the segment before it. -/
def peatOpen (s : State) : State :=
  match metaStripe 6 s with
  | none => s
  | some (id, s) =>
    { s with peat := { s.peat with segment := some id, segNo := s.peat.segNo + 1, segRow := 0, chain := id :: s.peat.chain } }

/-- Entries have their row on the media with good status (R539): they are archived. -/
def peatArchived (l : List (Nat × PeatEntry)) (s : State) : State :=
  { s with peat := { s.peat with archived := s.peat.archived + l.length, segRow := s.peat.segRow + 1,
                                 archive := l.foldl (fun t e => Tab.put t e.1 e.2) s.peat.archive } }

/-- Program one row of pending entries into the open segment (R539): they are archived when the row has good status. A
failing program spoils a block and the row is written again (R542). -/
def peatRow (ok : Bool) (s : State) : State :=
  let s := if s.peat.segment.isNone then peatOpen s else s
  match s.peat.segment with
  | none => s
  | some id =>
    if peatUnarch s = 0 then s
    else if ok = false then (failSlotOf id (s.draw 28) s.drawn).wr F.PEAT_EVT_ARCH_FAIL 1
    else
      let n := min (peatUnarch s) (peatRowEntries s)
      let first := s.peat.archived + 1
      let l := (List.range n).map (fun i => (first + i, Tab.get {} s.peat.ring ((first + i) % 65536)))
      let s := peatArchived l (peatRowWrite id s.peat.segRow (l.map Prod.snd) (skipAbsent id s))
      if 512 ≤ s.peat.segRow then peatOpen s else s

/-- PEAT_ARCHIVE_ROW (R539): a full row is pending. -/
def execPeatArchiveRow (ok : Bool) (s : State) : Result :=
  let s := s.begin
  .next (if peatRowEntries s ≤ peatUnarch s then peatRow ok s else s)

/-- PEAT_MAX_AGE_TIMEOUT (R539): the oldest unarchived entry is MAX_AGE old. -/
def execPeatMaxAgeTimeout (s : State) : Result :=
  let s := s.begin
  .next (match s.peat.ring.find ((s.peat.archived + 1) % 65536) with
    | some e => if s.rd F.PEAT_CTL_MAX_AGE * 3600 ≤ s.life.now - e.time then peatRow true s else s
    | none => s)

/-- Archive every pending entry, row by row (R539). -/
def peatArchiveAll (fuel : Nat) (s : State) : State :=
  match fuel with
  | 0 => s
  | fuel + 1 => if peatUnarch s = 0 then s else peatArchiveAll fuel (peatRow true s)

/-- PEAT_NOW (R543): writing 1 to NOW archives the pending entries (Level B, on any path). -/
def execPeatNow (_path : AccessPath) (s : State) : Result := .next (peatArchiveAll 65536 s.begin)

/-- PEAT_SEGMENT_FULL (R540): the last row of a segment is programmed: the next segment is allocated. -/
def execPeatSegmentFull (s : State) : Result :=
  let s := s.begin
  .next (if s.peat.segment.isSome = true ∧ 512 ≤ s.peat.segRow then peatOpen s else s)

/-- PEAT_RL_WRITE (R536, R544): RATE and BURST of the selected code, at once; held tokens are cut to the new BURST. RATE of a code
of severity 3 ignores the write, whatever its value; other values out of range are reserved encodings (R13). -/
def peatRlWrite (p : AccessPath) (value : Nat) (s : State) : State :=
  let code := s.rd F.PEAT_CODE_SEL_CODE
  let crit := peatCritical code
  let c := Tab.get {} s.peat.codes code
  let rate := bits value 0 10
  let burst := bits value 10 8
  let rOk := F.PEAT_RL_RATE.legal rate
  let bOk := F.PEAT_RL_BURST.legal burst
  let c := { c with rate := if rOk && !crit then rate else c.rate, burst := if bOk then burst else c.burst }
  let c := { c with micro := min c.micro (c.burst * 1000000) }
  let s := { s with peat := { s.peat with codes := Tab.set {} s.peat.codes code c } }
  if (rOk || crit) && bOk then s else accessViolation p 0x9000104 s

def execPeatRlWrite (path : AccessPath) (value : Word) (s : State) : Result :=
  .next (peatRlWrite path value.toNat s.begin)

end Sys2Proof.Machine
end

