-- ==== Sys2Proof/Machine/HewerOps.lean ====
section
/-! DEFINITION. Operations of hewers and Seam links that several commands share: descriptors, ordering on a die, completion,
retrains and drops (chapters "Hewers and media operations", "Seam links and member packages"). -/

namespace Sys2Proof.Machine

open Sys2Proof

/-! ### Descriptors (R222 to R225) -/

/-- Slots of a hewer's ring. -/
def hewSlots (s : State) (n : Nat) : Nat := 2 ^ s.rd F.HEW_RING_CFG_SIZE_LOG2 n

/-- The Mere address of a ring slot. -/
def hewSlotAddr (s : State) (n k : Nat) : Nat := s.rd F.HEW_RING_BASE_ADDR n * 64 + 64 * k

/-- Read a descriptor's 48 firmware bytes (R223). -/
def hewParse (ring order w : Nat) : Held :=
  { ring := ring, order := order, opcode := bits w 0 8, ctl := bits w 8 8, die := bits w 16 8, cls := bits w 24 8,
    block := bits w 32 20, page := bits w 64 16, cwMask := bits w 80 8, epoch := bits w 88 8, tag := bits w 96 32,
    buf := bits w 256 64 }

/-- CTL bits of a descriptor (R223). -/
def Held.slc (h : Held) : Bool := bitOf h.ctl 0
def Held.suspOk (h : Held) : Bool := bitOf h.ctl 1
def Held.flush (h : Held) : Bool := bitOf h.ctl 2
def Held.irq (h : Held) : Bool := bitOf h.ctl 3

/-- The operation is a program or an erase. -/
def Held.writes (h : Held) : Bool := decide (h.opcode = 0x10 ∨ h.opcode = 0x18)

/-- The operation is a sense. -/
def Held.senses (h : Held) : Bool := decide (h.opcode = 0x01 ∨ h.opcode = 0x02 ∨ h.opcode = 0x03)

/-- The operation runs on a die (R225: CALREAD ignores DIE). -/
def Held.onDie (h : Held) : Bool := decide (h.opcode ≠ 0x20 ∧ h.opcode ≠ 0x21)

/-- The reserved fields of a descriptor are 0 (R223, R225). -/
def hewReservedZero (w : Nat) : Bool :=
  decide (bits w 12 4 = 0 ∧ bits w 52 12 = 0 ∧ bits w 84 4 = 0 ∧ bits w 248 8 = 0 ∧ bits w 320 64 = 0)

/-- The opcodes of R225. -/
def hewOpcodes : List Nat := [0x01, 0x02, 0x03, 0x10, 0x18, 0x20, 0x21, 0x30]

/-- A block is barred (R234): in the bitmap at HEW_BAR_BASE, in the Spoil table or factory-marked. -/
def hewBarred (s : State) (n b : Nat) : Bool :=
  let u := (s.block n b).use
  decide (u = .spoiled ∨ u = .factoryBad) ||
    bitOf (memRead s.mere.mem (s.rd F.HEW_BAR_BASE_ADDR n * 64 + b / 8)).toNat (b % 8)

/-- Physical blocks of a member (R226 RANGE, R287): its row's, else the reference member's. -/
def physBlocks (s : State) (n : Nat) : Nat :=
  match s.ret.cal.find n with | some r => if r.readable then r.blocks else 476837 | none => 476837

/-- DIE, BLOCK and PAGE lie in the member's geometry (R226). -/
def hewInRange (s : State) (n : Nat) (h : Held) : Bool :=
  if h.onDie then decide (h.die < diesOf s n ∧ h.block < physBlocks s n ∧ h.page < (if h.slc then 512 else 2048))
  else decide (h.opcode = 0x20) || decide (h.block < physBlocks s n)

/-- The epochs a hewer accepts (R259). -/
def hewEpochOk (s : State) (n e : Nat) : Bool :=
  let cur := s.rd F.UCS_EPOCH_CUR
  decide (e = cur) ||
    (match s.ucs.epoch with
     | some ep => decide (n ∈ ep.acked) && decide (e = (cur + 1) % 256)
     | none => false)

/-- STATUS of the checks made at fetch (R225, R226): 0 where the descriptor may run. -/
def hewCheck (s : State) (n w : Nat) (h : Held) : Nat :=
  if h.opcode ∉ hewOpcodes ∨ hewReservedZero w = false ∨ (h.opcode = 0x21 ∧ h.block % 256 ≠ 0) ∨
      (h.opcode = 0x10 ∧ h.slc = false ∧ h.page % 4 ≠ 0) then 0x40
  else if hewEpochOk s n h.epoch = false then 0x43
  else if h.opcode = 0x30 then (if h.die < diesOf s n then 0 else 0x41)
  else if hewInRange s n h = false then 0x41
  else if h.writes && hewBarred s n h.block then 0x42
  else 0

/-- The descriptors a hewer holds, with their in-flight slots. -/
def heldOf (s : State) (n : Nat) : List (Nat × Held) :=
  (s.hew.held.filter (fun e => e.1 / 128 = n)).map (fun e => (e.1 % 128, e.2))

/-- Dies with a suspended operation, and INFLIGHT, as the registers show them (R243, R244). -/
def hewNote (n : Nat) (s : State) : State :=
  let l := heldOf s n
  (s.wr F.HEW_RING_HEAD_INFLIGHT l.length n).wr F.HEW_STAT_SUSPENDED (l.filter (fun e => e.2.suspended)).length n

/-! ### Order on a die (R227, R229, R230, R237) -/

/-- The other descriptors on a die that a hewer holds. -/
def dieOthers (s : State) (n k : Nat) (h : Held) : List Held :=
  ((heldOf s n).filter (fun e => decide (e.1 ≠ k ∧ e.2.die = h.die) && e.2.onDie && !e.2.ended)).map Prod.snd

/-- Programs and erases on the member wait for its over-temperature flag (R285). -/
def hotHold (s : State) (n : Nat) : Bool := s.isSet F.SEAM_TEMP_OVER n

/-- A read passes an earlier descriptor that has not started (R227). -/
def passes (s : State) (n : Nat) (h e : Held) : Bool :=
  decide (h.opcode ≠ 0x30) && h.senses && e.writes && !e.sent && decide (e.block ≠ h.block) && (h.suspOk || hotHold s n)

/-- A waiting SUSP_OK read that a suspension of its die serves (R227, R229, R230): no earlier FENCE, and no earlier program or
erase of its own block. -/
def suspRead (s : State) (n k : Nat) (h : Held) : Bool :=
  h.senses && h.suspOk && !h.started && !h.ended &&
    (dieOthers s n k h).all (fun e => decide (h.order < e.order) ||
      !(decide (e.opcode = 0x30) || (e.writes && decide (e.block = h.block))))

/-- No such read of the die comes before this one. -/
def suspReadFirst (s : State) (n : Nat) (h : Held) : Bool :=
  (heldOf s n).all (fun e => decide (e.2.die ≠ h.die ∨ h.order ≤ e.2.order) || !suspRead s n e.1 e.2)

/-- A code word waits in a link's receive buffer: the hewer holds further reads on it (R211). -/
def rxHolds (s : State) (n : Nat) : Bool :=
  s.ldpc.rxWait.any (fun k => (s.ldpc.ladders.find k).any (fun l => decide (l.link = n)))

/-- A descriptor may start on its die (R211, R227, R229, R230, R236, R237, R285). -/
def mayStart (s : State) (n k : Nat) (h : Held) : Bool :=
  if h.started then false
  else if h.onDie = false then (linkUp s n || decide (seamState s n = 10)) && !s.isSet F.HEW_PF_STAT_HALT
  else
    let others := dieOthers s n k h
    let earlier := others.filter (fun e => decide (e.order < h.order))
    let running := others.filter (fun e => e.started && !e.suspended)
    let susp := others.find? (fun e => e.suspended)
    if s.isSet F.HEW_PF_STAT_HALT then
      h.flush && decide (h.opcode = 0x10) && h.slc && running.isEmpty && susp.isNone &&
        earlier.all (fun e => !(e.flush && decide (e.opcode = 0x10)))
    else if h.opcode = 0x30 then earlier.isEmpty
    else
      linkUp s n && !(h.senses && rxHolds s n) && running.isEmpty && !(h.writes && hotHold s n) && !(decide (h.opcode = 0x10) && encoderOut s n) &&
      (match susp with
       | some e => suspRead s n k h && suspReadFirst s n h && decide (e.window < s.rd F.HEW_SUSP_CTL_WINDOW)
       | none => earlier.all (fun e => passes s n h e))

/-! ### Completion (R224, R226, R235, R238, R239) -/

/-- Write a completed descriptor's bytes 48 to 62, then OWN in a separate write (R224). -/
def hewWriteBack (n : Nat) (h : Held) (busy endTime : Nat) (s : State) : State :=
  let a := hewSlotAddr s n h.ring
  if mereOk s a = false then s
  else
    let v := place [(h.status % 2 ^ 16, 0), (min 255 h.suspends, 16), (h.bank % 2, 24), (busy % 2 ^ 32, 32),
      (endTime % 2 ^ 32, 64), (h.detail % 2 ^ 16, 96)]
    let s := (writeWordAt (a + 32) none 16 15 v s).2
    (writeWordAt (a + 32) none 31 1 0 s).2

/-- Slot and stripe of a block in use. -/
def blockSlot (s : State) (l b : Nat) : Option (Nat × Nat) :=
  let id := (s.block l b).stripe
  if (stripeOf s id).kind = 0 then none
  else ((List.range 28).find? (fun i => ((stripeOf s id).slots[i]?).map (fun a => addrPlace s (stripeFen id) a) = some (l, b))).map
    (fun i => (id, i))

/-- A block takes no further program and is erased before reuse (R238, R239): its slot is replaced without a Spoil entry. -/
def suspectBlock (l b : Nat) (s : State) : State :=
  let s := match blockSlot s l b with
    | none => s
    | some (id, i) => replaceSlot id i l b s
  s.putBlock l b { (s.block l b) with use := .freed, stripe := 0xFFFFFFFF }

/-- A program or erase that the power-fail halt ended is resolved after the next boot (R238): no further program reaches the block
before its erase, an erased block stays out of the free set, and neither goes to the Spoil table. -/
def resolveHalted (s : State) : State :=
  eachOf s.hew.halted (fun p s => suspectBlock p.1 p.2 s) { s with hew := { s.hew with halted := [] } }

/-- What device firmware does with a completion status (R235, R238, R239, R240). -/
def hewResolve (n : Nat) (h : Held) (s : State) : State :=
  let reason := if h.status = 0x10 then 1 else if h.status = 0x11 then 2 else 5
  if h.status = 0x10 ∨ h.status = 0x11 ∨ h.status = 0x12 then
    let s := if bitOf h.detail 15 ∧ h.status = 0x12 then loseDie n (h.block % diesOf s n) s else s
    if (s.block n h.block).use = .spoiled then s
    else match blockSlot s n h.block with
      | some (id, i) => if reason = 1 then wornCheck n (failSlotOf id i s) else spoilAndCheck n h.block reason 0 s
      | none => spoilAndCheck n h.block reason 0 s
  else if h.opcode = 0x20 ∧ h.status ≠ 0 then peatRecord 0xC401 n (if seamState s n = 10 then 1 else 0) 0 s
  else if h.status = 0x30 then
    (if h.opcode = 0x10 ∨ h.opcode = 0x18 then { s with hew := { s.hew with halted := addNew (n, h.block) s.hew.halted } } else s)
  else if h.status = 0x20 ∨ h.status = 0x50 ∨ h.status = 0x51 then
    (if h.opcode = 0x10 then suspectBlock n h.block s
     else if h.opcode = 0x18 then s.putBlock n h.block { (s.block n h.block) with use := .freed }
     else s)
  else if h.status = 0 ∧ h.opcode = 0x10 then
    let r := s.block n h.block
    s.putBlock n h.block { r with nextPage := h.page + (if h.slc then 1 else 4) }
  else if h.status = 0 ∧ h.opcode = 0x18 then
    let r := s.block n h.block
    if r.use = .spoiled ∨ r.use = .factoryBad then s
    else wipeBlock n h.block (s.putBlock n h.block { r with
      use := .free, slc := h.slc, nextPage := 0, stripe := 0xFFFFFFFF,
      wear := min 65535 (r.wear + (if h.slc then 1 else 16)) })
  else s

/-- Complete a descriptor (R224, R226, R396): write back, the die time charged to its class, events and counters, then what firmware does with the outcome. -/
def hewComplete (n k busy endTime : Nat) (h : Held) (s : State) : State :=
  let s := hewNote n ((hewWriteBack n h busy endTime s).delHeld n k)
  let s := if h.onDie then chargeDie n h.die h.cls busy s else s
  let words := if h.opcode = 0x10 then (if h.slc then 4 else 16) else if h.opcode ≤ 0x03 then popCount h.cwMask 4 else 0
  let s := if h.sent then chargeLink n h.cls (4608 * words) s else s
  let s := if h.irq then s.wr F.HEW_EVT_DONE 1 n else s
  let s := if h.status = 0 then s else s.wr F.HEW_EVT_ERROR 1 n
  let s := if h.status = 0x10 then s.count F.HEW_CNT_PFAIL_COUNT 1 n else s
  let s := if h.status = 0x11 then s.count F.HEW_CNT_EFAIL_COUNT 1 n else s
  let s := if h.status = 0x50 then s.count F.HEW_CNT_TMO_COUNT 1 n else s
  hewResolve n h s

/-- Complete a descriptor with a status, its times free values where nothing measures them. -/
def hewEnd (n k status : Nat) (s : State) : State :=
  match s.held? n k with
  | none => s
  | some h => hewComplete n k 0 (s.draw (2 ^ 32)) { h with status := status } s.drawn

/-- The hewer STATUS of a member's STATUS and DETAIL (R282); none for answers to control packets. -/
def memberStatus (st detail : Nat) : Option Nat :=
  if st = 0 then some 0 else if st = 1 then some 0x10 else if st = 2 then some 0x11 else if st = 3 then some 0x12
  else if st = 4 then some 0x13 else if st = 5 then some (if bitOf detail 14 then 0x31 else 0x30)
  else if st = 6 then some 0x40 else none

/-! ### The power-fail halt (R236, R237) -/

/-- A die is quiet: no operation running or suspended (R237). -/
def hewQuiet (s : State) (n : Nat) : Bool := !(heldOf s n).any (fun e => e.2.started && !e.2.ended)

/-- QUIET, FLUSH and the flush state follow the dies (R236, R246). -/
def hewQuietNote (n : Nat) (s : State) : State :=
  if s.isSet F.HEW_PF_STAT_HALT = false ∨ s.isSet F.HEW_PF_STAT_OFF = true then s
  else
    let s := if hewQuiet s n = true ∧ s.rd F.HEW_STAT_STATE n = 4 then (s.wr F.HEW_STAT_STATE 5 n).wr F.HEW_PF_STAT_FLUSH 1 else s
    s.wr F.HEW_PF_STAT_QUIET ((List.range 512).filter (fun m => hewQuiet s m)).length

/-- The halt reaches one hewer (R236): what has not started without FLUSH ends, a suspended operation ends. -/
def hewHaltOne (n : Nat) (s : State) : State :=
  let s := s.wr F.HEW_STAT_STATE 4 n
  let s := eachOf (heldOf s n) (fun e s =>
    if e.2.suspended then hewEnd n e.1 0x30 s
    else if e.2.sent then s
    else if e.2.flush then s
    else hewEnd n e.1 0x31 s) s
  hewQuietNote n s

/-- The halt reaches all hewers (R236). -/
def hewHalt (s : State) : State := eachOf (List.range 512) hewHaltOne (s.wr F.HEW_PF_STAT_HALT 1)

/-- The flush has ended (R236): what has not started ends, every hewer is off. -/
def hewOff (s : State) : State :=
  let s := eachOf (List.range 512) (fun n s =>
    (eachOf (heldOf s n) (fun e s => if e.2.sent then s else hewEnd n e.1 0x31 s) s).wr F.HEW_STAT_STATE 6 n) s
  s.wr F.HEW_PF_STAT_OFF 1

/-! ### Links: retrain and drop (R239, R276) -/

/-- Set a link's state; ACTIVE links of its group follow (R298). -/
def seamSet (l st : Nat) (s : State) : State :=
  let g := groupOf s l
  let s := s.wr F.SEAM_STAT_STATE st l
  s.wr F.SEAM_GRP_STAT_ACTIVE ((List.range 512).filter (fun m => decide (groupOf s m = g) && linkUp s m)).length g

/-- A link in ACTIVE, RECAL or PARKED enters RETRAIN (R274, R276): sequence numbers and credits are kept. -/
def enterRetrain (l : Nat) (s : State) : State :=
  if linkUp s l then
    let k := s.link l
    (seamSet l 8 (s.putLink l { k with ownWin := false, wantRecal := false, sub := 2, ident := none })).count
      F.SEAM_CNT_RETRAIN_COUNT 1 l
  else s

/-- The device takes a link to RETRAIN (R273, R276): it sends the RETRAIN ordered set, but to a lane in electrical idle. -/
def seamRetrain (l : Nat) (s : State) : State :=
  if linkUp s l then
    enterRetrain l (if seamState s l = 9 then s else s.emit (.orderedSet l 0xF4))
  else s

/-- Operations outstanding on a dropped link (R239). -/
def dropHeld (l : Nat) (s : State) : State :=
  eachOf (heldOf s l) (fun e s =>
    if e.2.ended then s
    else if e.2.sent then
      (if bitOf e.2.gotCw 4 then s else hewEnd l e.1 0x20 s)
    else if s.isSet F.HEW_PF_STAT_HALT then hewEnd l e.1 0x21 s
    else s) s

/-- The link has dropped (R276, R239, R32): credits and counts are gone, outstanding operations are resolved, and the 10 s
wait of its member begins. `st` is the state the link takes. -/
def linkDrop (l st : Nat) (s : State) : State :=
  let k := s.link l
  let s := seamSet l st (s.putLink l { k with txSeq := 0, acked := 0, lastNak := 0, rxSeq := 0, nakSent := false,
                                               crSeen := [0, 0, 0, 0, 0, 0], rspFreed := 0, rdataFreed := 0, ownWin := false,
                                               ident := none, sub := 0, wantRecal := false, telemWake := false })
  let s := ((s.wr F.SEAM_CREDIT_CMD 0 l).wr F.SEAM_CREDIT_CTL 0 l).wr F.SEAM_CREDIT_DATA 0 l
  let s := (s.count F.SEAM_CNT_DROP_COUNT 1 l).wr F.HEW_EVT_LINK_DOWN 1 l
  let s := dropHeld l s
  let s := if s.rd F.HEW_STAT_STATE l = 1 ∨ s.rd F.HEW_STAT_STATE l = 2 then s.wr F.HEW_STAT_STATE 3 l else s
  limitNote (memberAbsent l s)

/-- A TIMEOUT on a link (R276): three within 10 s start a retrain. -/
def hewTimeoutNote (n : Nat) (s : State) : State :=
  let l := (Tab.get [] s.hew.timeouts n ++ [s.life.now]).filter (fun t => decide (s.life.now < t + 10))
  let s := { s with hew := { s.hew with timeouts := Tab.set [] s.hew.timeouts n (if 3 ≤ l.length then [] else l) } }
  if 3 ≤ l.length then seamRetrain n s else s

/-! ### Sequences and banks (R254, R255) -/

/-- The fen whose control store a hewer runs. -/
def storeOf (s : State) (n : Nat) : Nat := linkFen s n % 16

/-- Hewers of the fen that have started a sequence on the live bank (R263). -/
def startedNote (f : Nat) (s : State) : State :=
  s.wr F.UCS_BANK_STARTED ((List.range 512).filter (fun n => decide (storeOf s n = f) && Tab.get false s.ucs.started n)).length f

/-- A sequence starts on the live bank, which it pins (R251, R254). A member read counts against a suspension's window. -/
def startSequence (n k : Nat) (h : Held) (s : State) : State :=
  let f := storeOf s n
  let s := s.putHeld n k { h with started := true, code := true, bank := s.rd F.UCS_BANK_LIVE f, pc := h.opcode, stack := [],
                                   runUs := 0 }
  let s := startedNote f { s with ucs := { s.ucs with started := Tab.set false s.ucs.started n true } }
  eachOf (heldOf s n) (fun e s =>
    if e.2.suspended ∧ e.2.die = h.die ∧ h.senses ∧ e.1 ≠ k then s.putHeld n e.1 { e.2 with window := e.2.window + 1 } else s) s

/-! ### Credits and packets (R278 to R281) -/

/-- Spend one credit of a type. -/
def spendCredit (f : Field) (n : Nat) (s : State) : State := s.wr f (s.rd f n - 1) n

/-- Send an operation packet on a link (R281): it spends a CMD credit, a CTL credit for control packets. -/
def sendPacket (n opc die tag : Nat) (s : State) : State :=
  let s := if opc = 0x28 ∨ opc = 0x29 ∨ opc = 0x2A ∨ opc = 0x30 then spendCredit F.SEAM_CREDIT_CTL n s
    else spendCredit F.SEAM_CREDIT_CMD n s
  s.emit (.packet n opc die tag)

/-- The PROG_DATA packets of a program, one code word each (R281). -/
def sendProgData (n k : Nat) (h : Held) (s : State) : State :=
  eachOf (List.range (if h.slc then 4 else 16)) (fun _ s => (spendCredit F.SEAM_CREDIT_DATA n s).emit (.packet n 0x11 h.die k)) s

end Sys2Proof.Machine
end

