-- ==== Sys2Proof/Machine/Hewer.lean ====
section
/-! DEFINITION. Hewers: the ring, the operations on a die, suspends and completions (chapter "Hewers and media operations"). -/

namespace Sys2Proof.Machine

open Sys2Proof

/-! ### The ring (R222, R224) -/

/-- A write of TAIL (R224): a hewer stopped by an OWN error fetches again. -/
def hewTailWrite (n tail : Nat) (s : State) : State :=
  let s := s.wr F.HEW_RING_TAIL_TAIL tail n
  if s.rd F.HEW_STAT_STATE n = 2 then s.wr F.HEW_STAT_STATE 1 n else s

/-- HEW_RING_TAIL_WRITE: TAIL is RW at Level B, on any path. -/
def execHewRingTailWrite (_path : AccessPath) (hewer : Link) (tail : Word) (s : State) : Result :=
  .next (hewTailWrite hewer.val tail.toNat s.begin)

/-- The lowest in-flight slot that is free (R280 TAG). -/
def freeInFlight (s : State) (n : Nat) : Option Nat := (List.range 128).find? (fun k => (s.held? n k).isNone)

/-- Fetch one descriptor (R222 to R226): it is held, or completes at once where a check fails. A parked link wakes (R292). -/
def hewFetch (n : Nat) (s : State) : State :=
  let h := s.rd F.HEW_RING_HEAD_HEAD n
  if s.isSet F.HEW_RING_CFG_ENABLE n = false ∨ s.rd F.HEW_STAT_STATE n ≠ 1 ∨ h = s.rd F.HEW_RING_TAIL_TAIL n then s
  else
    match freeInFlight s n with
    | none => s
    | some k =>
      let w := memLoad s.mere.mem (hewSlotAddr s n h) 64
      if bitOf w 511 = false then (s.wr F.HEW_STAT_STATE 2 n).wr F.HEW_EVT_OWN_ERR 1 n
      else
        let d := hewParse h s.hew.order w
        let st := hewCheck s n w d
        let s := s.wr F.HEW_RING_HEAD_HEAD ((h + 1) % hewSlots s n) n
        let s := hewNote n (State.putHeld { s with hew := { s.hew with order := s.hew.order + 1 } } n k d)
        if st ≠ 0 then hewEnd n k st s
        else if seamState s n = 9 then seamRetrain n s
        else s

/-- DESCRIPTOR_FETCH (R224). -/
def execDescriptorFetch (hewer : Link) (s : State) : Result := .next (hewFetch hewer.val s.begin)

/-! ### Operations (R225, R227) -/

/-- Start a waiting operation on its die where the ordering rules let it (R227). -/
def hewStart (n k : Nat) (s : State) : State :=
  match s.held? n k with
  | none => s
  | some h => if h.ended = false ∧ mayStart s n k h = true then startSequence n k h s else s

/-- DIE_OPERATION_START (R227). -/
def execDieOperationStart (hewer : Link) (slot : Fin 128) (s : State) : Result := .next (hewStart hewer.val slot.val s.begin)

/-- The credits that an operation's packets need (R279). -/
def creditsFor (s : State) (n : Nat) (h : Held) : Bool :=
  decide (1 ≤ s.rd F.SEAM_CREDIT_CMD n) &&
    (decide (h.opcode ≠ 0x10) || decide ((if h.slc then 4 else 16) ≤ s.rd F.SEAM_CREDIT_DATA n))

/-- Issue an operation of one opcode (R225, R281): it starts where it may, and its packets leave while credits are held. A block may
have been barred since the descriptor was fetched (R234). -/
def hewIssue (n k opc : Nat) (s : State) : State :=
  match s.held? n k with
  | none => s
  | some h =>
    if h.opcode ≠ opc ∨ h.ended = true ∨ h.sent = true then s
    else if h.writes && hewBarred s n h.block then hewEnd n k 0x42 s
    else
      let s := if h.started then s else hewStart n k s
      match s.held? n k with
      | none => s
      | some h =>
        if h.started = false ∨ creditsFor s n h = false then s
        else
          let s := sendPacket n opc h.die k (s.putHeld n k { h with sent := true })
          if opc = 0x10 then sendProgData n k h s else s

/-- HEW_READ (R225). -/
def execHewRead (hewer : Link) (slot : Fin 128) (s : State) : Result := .next (hewIssue hewer.val slot.val 0x01 s.begin)

/-- HEW_READ_OFS (R225). -/
def execHewReadOfs (hewer : Link) (slot : Fin 128) (s : State) : Result := .next (hewIssue hewer.val slot.val 0x02 s.begin)

/-- HEW_SOFT_SENSE (R225). -/
def execHewSoftSense (hewer : Link) (slot : Fin 128) (s : State) : Result := .next (hewIssue hewer.val slot.val 0x03 s.begin)

/-- HEW_PROGRAM (R225). -/
def execHewProgram (hewer : Link) (slot : Fin 128) (s : State) : Result := .next (hewIssue hewer.val slot.val 0x10 s.begin)

/-- HEW_ERASE (R225). -/
def execHewErase (hewer : Link) (slot : Fin 128) (s : State) : Result := .next (hewIssue hewer.val slot.val 0x18 s.begin)

/-- HEW_CALREAD (R225, R233). -/
def execHewCalread (hewer : Link) (slot : Fin 128) (s : State) : Result := .next (hewIssue hewer.val slot.val 0x20 s.begin)

/-- HEW_MARKREAD (R225, R233). -/
def execHewMarkread (hewer : Link) (slot : Fin 128) (s : State) : Result := .next (hewIssue hewer.val slot.val 0x21 s.begin)

/-- HEW_FENCE (R225, R227): completes once every earlier descriptor for its die has completed. -/
def execHewFence (hewer : Link) (slot : Fin 128) (s : State) : Result :=
  let s := s.begin
  .next (match s.held? hewer.val slot.val with
    | none => s
    | some h => if h.opcode = 0x30 ∧ mayStart s hewer.val slot.val h = true then hewEnd hewer.val slot.val 0 s else s)

/-! ### Completion (R226, R228) -/

/-- The SUSPENDED answer never came (R294): the operation had ended before the request reached it, so no suspend is counted. -/
def unsuspend (n : Nat) (h : Held) (s : State) : State :=
  if h.suspended = true ∧ h.member ≠ 0x10 then s.wr F.HEW_CNT_SUSP_COUNT (s.rd F.HEW_CNT_SUSP_COUNT n - 1) n else s

/-- The suspends of an operation, one less where the last never took effect (R294). -/
def Held.suspendsHeld (h : Held) : Nat := if h.suspended = true ∧ h.member ≠ 0x10 then h.suspends - 1 else h.suspends

/-- The member answers an operation (R282): its status is known. DETAIL codes of the member's own go to the Peat log. -/
def memberAnswer (n k st detail : Nat) (s : State) : State :=
  match s.held? n k with
  | none => s
  | some h =>
    if h.sent = false ∨ h.ended = true then s
    else
      let s := if bits detail 0 12 ≠ 0 then peatRecord 0xC802 n (bits detail 0 12 + 4096 * st) 0 s else s
      match memberStatus st detail with
      | some hs => (unsuspend n h s).putHeld n k { h with ended := true, status := hs, detail := if hs = 0 then 0 else detail,
                                                          member := st, suspended := false, suspends := h.suspendsHeld }
      | none =>
        if st = 0x13 ∧ h.suspended = true then
          (unsuspend n h s).putHeld n k { h with member := st, suspended := false, suspends := h.suspendsHeld }
        else s.putHeld n k { h with member := st }

/-- DESCRIPTOR_COMPLETE (R224, R226, R232, R235): the outcome is written back with the measured busy and end times. -/
def execDescriptorComplete (hewer : Link) (slot : Fin 128) (status : BitVec 8) (detail : BitVec 16) (busyUs endTime : Word)
    (s : State) : Result :=
  let n := hewer.val
  let s := memberAnswer n slot.val status.toNat detail.toNat s.begin
  .next (match s.held? n slot.val with
    | none => s
    | some h => if h.ended then hewQuietNote n (hewComplete n slot.val busyUs.toNat endTime.toNat h s) else hewNote n s)

/-- HEW_OPERATION_TIMEOUT (R228, R240): the operation completes TIMEOUT and the hewer aborts it. Suspended time is not
counted. -/
def execHewOperationTimeout (hewer : Link) (slot : Fin 128) (s : State) : Result :=
  let s := s.begin
  let n := hewer.val
  .next (match s.held? n slot.val with
    | none => s
    | some h =>
      if h.sent = false ∨ h.ended = true ∨ h.suspended = true then s
      else hewTimeoutNote n (hewEnd n slot.val 0x50 (sendPacket n 0x2A h.die slot.val s)))

/-! ### Suspend and resume (R229 to R232) -/

/-- A SUSP_OK read that a suspension of the operation would serve waits for the die. -/
def suspWaits (s : State) (n : Nat) (h : Held) : Bool :=
  (heldOf s n).any (fun e => decide (e.2.die = h.die) && suspRead s n e.1 e.2)

/-- An operation that may be suspended (R229, R231). -/
def suspendable (s : State) (h : Held) : Bool :=
  h.writes && h.sent && !h.ended && !h.suspended && (decide (h.opcode = 0x10) || decide (h.suspends < s.rd F.HEW_SUSP_CTL_CAP))

/-- SUSPEND (R230): the run time has reached MIN_RUN and a SUSP_OK read waits. -/
def execSuspend (hewer : Link) (die : Fin 32) (s : State) : Result :=
  let s := s.begin
  let n := hewer.val
  .next (if s.isSet F.HEW_PF_STAT_HALT then s
    else
      match (heldOf s n).find? (fun e => decide (e.2.die = die.val) && suspendable s e.2 && suspWaits s n e.2) with
      | none => s
      | some (k, h) =>
        let cls := ((heldOf s n).find? (fun e => decide (e.2.die = h.die) && suspRead s n e.1 e.2)).map (fun e => e.2.cls)
        let s := match cls with
          | some c => putUse c { (classUse s c) with susp := (classUse s c).susp + 1 } s
          | none => s
        let s := s.putHeld n k { h with suspended := true, suspends := h.suspends + 1, window := 0, member := 0 }
        hewNote n ((sendPacket n 0x28 h.die k s).count F.HEW_CNT_SUSP_COUNT 1 n))

/-- RESUME (R230, R232): no SUSP_OK read waits or the window is used up, and the last window read has left the die. -/
def execResumeOp (hewer : Link) (die : Fin 32) (s : State) : Result :=
  let s := s.begin
  let n := hewer.val
  .next (if s.isSet F.HEW_PF_STAT_HALT then s
    else
      match (heldOf s n).find? (fun e => decide (e.2.die = die.val) && e.2.suspended) with
      | none => s
      | some (k, h) =>
        let busy := (dieOthers s n k h).any (fun e => e.started)
        if busy = true ∨ (suspWaits s n h = true ∧ h.window < s.rd F.HEW_SUSP_CTL_WINDOW) then s
        else hewNote n (sendPacket n 0x29 h.die k (s.putHeld n k { h with suspended := false, runUs := 0 })))

/-- PF_QUIET_DEADLINE (R236): 400 µs after the decision a die not yet quiet takes no FLUSH descriptor. -/
def execPfQuietDeadline (s : State) : Result :=
  let s := s.begin
  .next (if s.isSet F.HEW_PF_STAT_HALT = false then s
    else eachOf (List.range 512) (fun n s =>
      let noisy := (heldOf s n).filterMap (fun e => if e.2.started && !e.2.ended then some e.2.die else none)
      eachOf (heldOf s n) (fun e s =>
        if e.2.flush ∧ e.2.started = false ∧ e.2.die ∈ noisy then hewEnd n e.1 0x31 s else s) s) s)

end Sys2Proof.Machine
end

