-- ==== Sys2Proof/Machine/ReadPath.lean ====
section
/-! DEFINITION. The decoder ladder, the race, learned vectors, encoders and the known-answer tests of the pooled units
(chapters "Read path and error correction", "Architecture", R35). -/

namespace Sys2Proof.Machine

open Sys2Proof

/-! ### Ladders (R199, R218) -/

/-- A pooled unit is fenced: its bit in a register of 32-bit words. -/
def isFenced (s : State) (f : Field) (n : Nat) : Bool := bitOf (s.rd f (n / 32)) (n % 32)

/-- Put a ladder's record. -/
def putLadder (n : Nat) (l : Ladder) (s : State) : State := { s with ldpc := { s.ldpc with ladders := s.ldpc.ladders.put n l } }

/-- A ladder is in a soft step. -/
def ladderSoft (l : Ladder) : Bool := decide (l.result = 0 ∧ (l.step = .soft2 ∨ l.step = .soft3))

/-- Code words in the soft steps: the soft queue's depth (R212, R221). -/
def softDepth (s : State) : Nat := (s.ldpc.ladders.filter (fun e => ladderSoft e.2)).length

/-- DEPTH and PEAK follow the queue (R221). -/
def softNote (s : State) : State :=
  let d := softDepth s
  (s.wr F.LDPC_SOFT_Q_DEPTH d).wr F.LDPC_SOFT_Q_PEAK (max d (s.rd F.LDPC_SOFT_Q_PEAK))

/-- Whether a page lies below its stripe's FRONTIER (R198). -/
def belowFrontier (s : State) (l : Nat) (h : Held) : Bool :=
  match blockSlot s l h.block with
  | some (id, _) => decide (h.page < (stripeOf s id).frontier)
  | none => false

/-! ### Hard decoders (R211) -/

/-- The decoder with the fewest buffered words among some, in service and with room, the lowest number first. -/
def fewestBuffered (s : State) (l : List Nat) : Option Nat :=
  let depth := fun n => (Tab.get [] s.ldpc.bufs n).length
  (l.filter (fun n => !isFenced s F.LDPC_HARD_FENCED_FENCED n && decide (depth n < 4))).foldl
    (fun (a : Option Nat) n => match a with
      | none => some n
      | some m => if depth n < depth m then some n else some m) none

/-- The hard decoder that takes a word of a fen (R211): of the fen's 18 the one with the fewest buffered words, else any in the device
with room, lowest number first. -/
def pickDecoder (s : State) (f : Nat) : Option Nat :=
  match fewestBuffered s ((List.range 18).map (fun i => 18 * f + i)) with
  | some n => some n
  | none => (List.range 288).find? (fun n => !isFenced s F.LDPC_HARD_FENCED_FENCED n && decide ((Tab.get [] s.ldpc.bufs n).length < 4))

/-- A code word goes to a hard decoder, or waits in its link's receive buffer (R211). -/
def dispatchWord (n l : Nat) (s : State) : State :=
  match pickDecoder s (linkFen s l) with
  | some d => { s with ldpc := { s.ldpc with bufs := s.ldpc.bufs.put d (Tab.get [] s.ldpc.bufs d ++ [n]) } }
  | none => { s with ldpc := { s.ldpc with rxWait := s.ldpc.rxWait ++ [n] } }

/-- The link of a ladder. -/
def ladderLink (s : State) (n : Nat) : Nat := match s.ldpc.ladders.find n with | some l => l.link | none => 0

/-- Words that wait in receive buffers go to decoders that have room, the oldest first. -/
def admitWaiting (s : State) : State :=
  let w := s.ldpc.rxWait
  eachOf w (fun n s => dispatchWord n (ladderLink s n) s) { s with ldpc := { s.ldpc with rxWait := [] } }

/-- A word leaves its decoder's buffer: it has been decoded. -/
def leaveDecoder (n : Nat) (s : State) : State :=
  admitWaiting { s with ldpc := { s.ldpc with
    bufs := (s.ldpc.bufs.map (fun e => (e.1, dropOne n e.2))).filter (fun e => !e.2.isEmpty), rxWait := dropOne n s.ldpc.rxWait } }

/-! ### Ladders begin (R199, R212, R218) -/

/-- The priority of the soft work of a read on a die (R212): 0 and 1 for a host read that Sluice has released there, of an urgent queue or
another. Which internal work another read belongs to the command does not say: a free value (log entry 25). -/
def readOrigin (s : State) (l die : Nat) : Nat :=
  match s.slu.out.find? (fun e => decide (e.2 = 32 * l + die)) with
  | some e =>
    (match s.slot? e.1 with
     | some k => if (s.ctrl? k.ctrl).any (fun c => (c.sqs.find k.sqid).any (urgentSq c)) then 0 else 1
     | none => 1)
  | none => 2 + s.draw 4

/-- A ladder is opened for a code word, at HARD with the control fields as they stand (R199, R218). -/
def openLadder (l : Nat) (h : Held) (cw : Nat) (s : State) : State :=
  let n := s.ldpc.next
  let o := readOrigin s l h.die
  putLadder n { link := l, die := h.die, block := h.block, page := h.page, cw := cw, slc := h.slc, host := decide (o ≤ 1),
                retryMax := s.rd F.LDPC_LADDER_CTL_RETRY_MAX, softLevels := s.rd F.LDPC_LADDER_CTL_SOFT_LEVELS,
                below := belowFrontier s l h }
    { s with free := s.free + 1, ldpc := { s.ldpc with next := n + 1, origin := s.ldpc.origin.put n o } }

/-- The open ladder of a code word. -/
def ladderOf (s : State) (l : Nat) (h : Held) (cw : Nat) : Option (Nat × Ladder) :=
  s.ldpc.ladders.find? (fun e => decide (e.2.link = l ∧ e.2.block = h.block ∧ e.2.page = h.page ∧ e.2.cw = cw ∧ e.2.result = 0))

/-- A code word reaches a hard decoder: its ladder starts at HARD with the control fields as they stand (R199, R218). A word
whose ladder is open feeds that ladder. -/
def ladderStart (l : Nat) (h : Held) (cw : Nat) (s : State) : State :=
  match ladderOf s l h cw with
  | some e => dispatchWord e.1 l s
  | none => dispatchWord s.ldpc.next l (openLadder l h cw s)

/-- The ARG of a code-word event: [19:0] block, [30:20] page (R535). -/
def wordArg (l : Ladder) : Nat := l.block % 1048576 + 1048576 * (l.page % 2048)

/-- One MISMATCH event of a code word (R199, R217). -/
def mismatchEvent (l : Ladder) (s : State) : State :=
  (peatRecord 0xC301 l.link (wordArg l) l.cw s).count F.LDPC_CNT_MISMATCH_COUNT

/-- The stripe of a ladder's block, with its slot. -/
def ladderStripe (s : State) (l : Ladder) : Option (Nat × Nat) := blockSlot s l.link l.block

/-- The stripe's refresh-pending flag is set (R198, R199, R210). -/
def ladderRefresh (l : Ladder) (s : State) : State :=
  match ladderStripe s l with
  | some (id, _) => setDue id s
  | none => s

/-- The stripe's absent slots plus this one do not exceed p (R209, R213). -/
def reconAllowed (s : State) (l : Ladder) : Bool :=
  match ladderStripe s l with
  | some (id, slot) => decide ((addNew slot (absentSlots s id)).length ≤ geoP s)
  | none => false

/-- HIST bin of a first decode that is accepted: bits corrected, by the bins of R154. -/
def histBin (n : Nat) : Nat :=
  if n = 0 then 0 else if n ≤ 7 then 1 else if n ≤ 31 then 2 else if n ≤ 63 then 3 else if n ≤ 127 then 4
  else if n ≤ 191 then 5 else 6

/-- The retry bank a ladder pins at its first RETRY attempt (R206, R260). -/
def retryBank (s : State) : Nat :=
  let live := s.rd F.LDPC_RRT_CTL_BANK
  match s.ucs.epoch with
  | some e => if e.kind = .retryTable ∧ e.unitAck = true then 1 - live else live
  | none => live

/-- The media key of a ladder's code word. -/
def ladderKey (l : Ladder) : Nat := mediaKey l.link l.block l.page l.cw

/-- A code word could not be decoded: its slot joins the erasure set of its place (R111, R112). -/
def wordFails (l : Ladder) (s : State) : State := { s with map := { s.map with bad := addNew (ladderKey l) s.map.bad } }

/-- A code word has been decoded: it is no longer in the erasure set. -/
def wordReads (l : Ladder) (s : State) : State :=
  { s with map := { s.map with bad := dropOne (ladderKey l) s.map.bad, dead := dropOne (ladderKey l) s.map.dead } }

/-- The full ladder has been run on a block: whether its read margin lies below the retire limit, which the manual does not give, is a
free value (log entry 90); such a block goes to the Spoil table with REASON 3 (R92, R113). -/
def marginNote (recovered : Bool) (l : Ladder) (s : State) : State :=
  if s.draw 2 = 1 ∧ (s.block l.link l.block).use ≠ .spoiled then spoilAndCheck l.link l.block 3 (b2n recovered) s.drawn else s.drawn

/-- The end of a ladder without data (R210): nothing serves a read of the word until it is written anew or decoded. -/
def ladderFails (n : Nat) (l : Ladder) (s : State) : State :=
  let s := wordFails l { s with map := { s.map with dead := addNew (ladderKey l) s.map.dead } }
  let s := marginNote false l s
  let s := peatRecord 0xC303 l.link (wordArg l) l.cw (s.count F.LDPC_CNT_UNRECOV_COUNT)
  ladderRefresh l (putLadder n { l with step := .done, result := 2 } s)

/-- A ladder enters RECON; where the erasure set would exceed p it ends (R209, R210). -/
def toRecon (n : Nat) (l : Ladder) (s : State) : State :=
  if reconAllowed s l then putLadder n { l with step := .recon } (wordFails l s) else ladderFails n l s

/-! ### Soft decoding (R208, R212, R213) -/

/-- The read voltages of a ladder. -/
def vectorsOf (s : State) (n : Nat) : Vectors := Tab.get {} s.ldpc.vecs n

def putVectors (n : Nat) (v : Vectors) (s : State) : State := { s with ldpc := { s.ldpc with vecs := s.ldpc.vecs.put n v } }

/-- Soft decoders in service. -/
def softUp (s : State) : Nat := ((List.range 32).filter (fun n => !isFenced s F.LDPC_SOFT_FENCED_FENCED n)).length

/-- The priority of a ladder's soft work (R212). -/
def softRank (s : State) (n : Nat) : Nat := Tab.get 1 s.ldpc.origin n

/-- The next code word that a free soft decoder takes: the highest priority, the oldest of it (R212). Host work goes before all other
work, so that a decoder that falls free while host work is queued takes no other: the reserved decoders are kept. -/
def softNext (s : State) : Option Nat :=
  s.ldpc.softQ.foldl (fun (a : Option Nat) n => match a with
    | none => some n
    | some m => if softRank s n < softRank s m then some n else some m) none

/-- Free soft decoders take queued work. -/
def softServe (fuel : Nat) (s : State) : State :=
  match fuel with
  | 0 => s
  | fuel + 1 =>
    if softUp s ≤ s.ldpc.softRun.length then s
    else
      match softNext s with
      | none => s
      | some n => softServe fuel { s with ldpc := { s.ldpc with softQ := dropOne n s.ldpc.softQ, softRun := s.ldpc.softRun ++ [n] } }

/-- A ladder's code word enters the soft queue for a step, with the senses that the step adds (R208). -/
def softEnter (n : Nat) (ks : List Int) (s : State) : State :=
  let v := vectorsOf s n
  let more := softSenses v.centre (s.rd F.LDPC_SOFT_CTL_SOFT_DELTA) ks
  let s := putVectors n { v with senses := v.senses ++ more } s
  softServe 32 { s with ldpc := { s.ldpc with softRun := dropOne n s.ldpc.softRun, softQ := dropOne n s.ldpc.softQ ++ [n],
                                              softHeld := dropOne n s.ldpc.softHeld } }

/-- The ladder moves to SOFT2. Without a RETRY attempt its centre is P (R208). -/
def enterSoft2 (n : Nat) (l : Ladder) (s : State) : State :=
  let v := vectorsOf s n
  let p := predictOffsets s (l.bank.getD (s.rd F.LDPC_RRT_CTL_BANK)) l.link l.block l.slc
  let s := if v.fewest.isNone then putVectors n { v with centre := p } s else s
  softEnter n [1] (putLadder n { l with step := .soft2 } s)

/-- A ladder enters a soft step; a full queue sends a host read to RECON, or leaves it waiting (R199, R213). -/
def toSoft (n : Nat) (l : Ladder) (s : State) : State :=
  if softDepth s < 4096 then enterSoft2 n l s
  else if l.host && reconAllowed s l then putLadder n { l with step := .recon } (wordFails l s)
  else { s with ldpc := { s.ldpc with softHeld := addNew n s.ldpc.softHeld } }

/-- A slot of the soft queue is free: the oldest ladder that waits for one takes it (R213). -/
def softAdmit (s : State) : State :=
  match s.ldpc.softHeld with
  | n :: _ =>
    if softDepth s < 4096 then
      (match s.ldpc.ladders.find n with
       | some l => if l.result = 0 ∧ l.step = .retry then enterSoft2 n l s
                   else { s with ldpc := { s.ldpc with softHeld := dropOne n s.ldpc.softHeld } }
       | none => { s with ldpc := { s.ldpc with softHeld := dropOne n s.ldpc.softHeld } })
    else s
  | [] => s

/-- A ladder that is no longer in a soft step leaves its decoder and the queue. -/
def softLeave (n : Nat) (s : State) : State :=
  if (s.ldpc.ladders.find n).any ladderSoft then s
  else softAdmit (softServe 32 { s with ldpc := { s.ldpc with softRun := dropOne n s.ldpc.softRun, softQ := dropOne n s.ldpc.softQ } })

/-- The step after RETRY: SOFT2 where the ladder's SOFT_LEVELS has it (R199, R218). -/
def afterRetry (n : Nat) (l : Ladder) (s : State) : State := if l.softLevels = 0 then toRecon n l s else toSoft n l s

/-- The ladder's own mismatch is recorded as the word leaves HARD (R199). -/
def leaveHard (l : Ladder) (s : State) : State := if l.mismatched then mismatchEvent l s else s

/-- A HARD decode is counted in its bin once, at the first decode (R216). -/
def histNote (bin : Nat) (l : Ladder) (s : State) : State := if l.reread then s else s.count F.LDPC_HIST_COUNT 1 bin

/-- HARD fails: RETRY begins on the bank in force, which it pins, with the vectors of R204 (R199, R206). -/
def toRetry (n : Nat) (l : Ladder) (s : State) : State :=
  let b := retryBank s
  putLadder n { l with step := .retry, attempts := 0, bank := some b }
    (putVectors n { plan := retryPlan s b l.link l.die l.block l.slc } (leaveHard l s))

/-- Attempts that RETRY makes: RETRY_MAX, or as many as there are vectors to try (R204). -/
def retryLimit (s : State) (n : Nat) (l : Ladder) : Nat :=
  match s.ldpc.vecs.find n with
  | some v => min l.retryMax v.plan.length
  | none => l.retryMax

/-- An attempt has failed: how many checks its decode left unsatisfied is the decoder's to say, a free value; the vector with the fewest
is the centre of the soft steps (R208). -/
def noteAttempt (n : Nat) (l : Ladder) (s : State) : State :=
  let v := vectorsOf s n
  let u := s.draw 3584
  let s := s.drawn
  if v.fewest.all (fun f => decide (u < f)) then
    putVectors n { v with fewest := some u, centre := v.plan.getD l.attempts [] } s
  else s

/-- A decode that yields no accepted code word moves the ladder down one step (R199). -/
def ladderDown (n : Nat) (l : Ladder) (s : State) : State :=
  match l.step with
  | .hard => toRetry n l (histNote 7 l s)
  | .retry =>
    let s := noteAttempt n l s
    let l := { l with attempts := l.attempts + 1 }
    if l.attempts < retryLimit s n l then putLadder n l s else afterRetry n l (putLadder n l s)
  | .soft2 => if 2 ≤ l.softLevels then softEnter n [2, 3] (putLadder n { l with step := .soft3 } s) else toRecon n l s
  | .soft3 => toRecon n l s
  | .recon => ladderFails n l s
  | .done => s

/-- A deep step succeeded: the successful vector less P is learned for the die and mode (R205); that of a soft step is the centre. -/
def learnFrom (n : Nat) (l : Ladder) (s : State) : State :=
  let k := (32 * l.link + l.die) * 2 + b2n l.slc
  let v := vectorsOf s n
  let p := v.plan.headD v.centre
  let hit := if l.step = .retry then v.plan.getD l.attempts p else v.centre
  { s with ldpc := { s.ldpc with learned := s.ldpc.learned.put k (s.life.now, vecSub hit p) } }

/-- Reconstruction served a read: a stripe with no absent slot is set refresh-pending (R113), and nothing bars a later one. -/
def servedByRecon (l : Ladder) (s : State) : State :=
  let s := { s with map := { s.map with dead := dropOne (ladderKey l) s.map.dead } }
  match ladderStripe s l with
  | some (id, _) => if (absentSlots s id).isEmpty then setDue id s else s
  | none => s

/-- The step that accepted a code word counts it (R216). -/
def countStep (n : Nat) (l : Ladder) (byRecon : Bool) (corrected : Nat) (s : State) : State :=
  if byRecon then
    marginNote true l <| servedByRecon l <| measureBlock l.link l.block (rberPpm corrected)
      (healthAdd 2 1 ((s.count F.LDPC_CNT_RECON_COUNT).count F.FEN_RECON_CNT_COUNT))
  else match l.step with
  | .hard => wordReads l (leaveHard l (histNote (histBin corrected) l (s.count F.LDPC_CNT_HARD_OK_COUNT)))
  | .retry => wordReads l <| measureBlock l.link l.block (rberPpm corrected) (learnFrom n l (healthAdd 0 1 (s.count F.LDPC_CNT_RETRY_OK_COUNT)))
  | .soft2 => wordReads l <| measureBlock l.link l.block (rberPpm corrected) (learnFrom n l (healthAdd 1 1 (s.count F.LDPC_CNT_SOFT_OK_COUNT)))
  | .soft3 => wordReads l <| measureBlock l.link l.block (rberPpm corrected) (learnFrom n l (healthAdd 1 1 (s.count F.LDPC_CNT_SOFT_OK_COUNT)))
  | .recon => s
  | .done => s

/-- An accepted code word (R196, R197, R199): FILLER and LOST are not checked by a tag; a tag that fails goes to RECON. Of a
raced ladder either path may be the first: a free value (R209). -/
def ladderAccept (n : Nat) (l : Ladder) (filler lost tagOk : Bool) (corrected : Nat) (s : State) : State :=
  if lost then putLadder n { l with step := .done, result := 2 } (countStep n l (decide (l.step = .recon)) corrected s)
  else if !filler && !tagOk then
    (if l.step = .recon then ladderFails n l s
     else toRecon n l (healthAdd 4 1 (if l.step = .hard then leaveHard l (histNote (histBin corrected) l s) else s)))
  else
    let won := l.raced && decide (s.draw 2 = 1)
    let s := if l.raced then s.drawn else s
    let s := if won then s.count F.LDPC_CNT_RACE_WON_COUNT else s
    putLadder n { l with step := .done, result := 1 } (countStep n l (won || decide (l.step = .recon)) corrected s)

/-- What a decode's outcome does to a ladder (R196 to R199, R210). -/
def ladderStep (n : Nat) (l : Ladder) (o : DecodeOutcome) (s : State) : State :=
  match o with
  | .accepted filler lost tagOk corrected => ladderAccept n l filler lost tagOk corrected s
  | .erased =>
    if l.below && decide (l.step ≠ .recon) then
      let s := peatRecord 0xC302 l.link (wordArg l) l.cw (s.count F.LDPC_CNT_ERASED_COUNT)
      let s := if l.step = .hard then leaveHard l (histNote 7 l s) else s
      toRecon n l (ladderRefresh l s)
    else ladderDown n l s
  | .mismatch identity =>
    if l.step = .hard then
      (if l.reread = false then
        putLadder n { l with reread := true, mismatched := true } (histNote 7 l s)
      else if identity then toRecon n l (ladderRefresh l (leaveHard { l with mismatched := true } s))
      else ladderDown n { l with mismatched := true } s)
    else if l.mismatched then ladderDown n l s
    else ladderDown n { l with mismatched := true } (mismatchEvent l s)
  | .failed => ladderDown n l s

/-- A code word that a dropped link did not deliver (R239): a host read goes to RECON where the tolerance allows it; otherwise its
ladder stays open and the word is read again after the retrain. -/
def wordLost (l : Nat) (h : Held) (cw : Nat) (s : State) : State :=
  let s := if (ladderOf s l h cw).isSome then s else openLadder l h cw s
  match ladderOf s l h cw with
  | some (n, a) => if a.host = true ∧ a.step ≠ .recon ∧ reconAllowed s a = true then softNote (softLeave n (toRecon n a (leaveDecoder n s))) else s
  | none => s

/-- A decoder holds a ladder's word, or it waits for one. -/
def inDecoder (s : State) (n : Nat) : Bool :=
  s.ldpc.bufs.any (fun e => decide (n ∈ e.2)) || decide (n ∈ s.ldpc.rxWait ∨ n ∈ s.ldpc.softQ ∨ n ∈ s.ldpc.softRun)

/-- A member has not returned (R239): the ladders that wait for its words go to RECON, or end where the erasures exceed p (R210). -/
def laddersGiveUp (l : Nat) (s : State) : State :=
  eachOf (s.ldpc.ladders.filter (fun e => decide (e.2.link = l ∧ e.2.result = 0 ∧ e.2.step ≠ .recon) && !inDecoder s e.1))
    (fun e s => softNote (softLeave e.1 (toRecon e.1 e.2 s))) s

/-- DECODE_DONE (R196 to R199, R210). -/
def execDecodeDone (ladder : Nat) (outcome : DecodeOutcome) (s : State) : Result :=
  let s := s.begin
  .next (match s.ldpc.ladders.find ladder with
    | none => s
    | some l => if l.result ≠ 0 then s else softNote (softLeave ladder (ladderStep ladder l outcome (leaveDecoder ladder s))))

/-- RACE_TIMEOUT (R209): a host read in RETRY, SOFT2 or SOFT3 starts RECON in parallel where the tolerance allows it. -/
def execRaceTimeout (ladder : Nat) (s : State) : Result :=
  let s := s.begin
  .next (match s.ldpc.ladders.find ladder with
    | none => s
    | some l =>
      if l.result = 0 ∧ l.host = true ∧ (l.step = .retry ∨ l.step = .soft2 ∨ l.step = .soft3) ∧ reconAllowed s l = true then
        putLadder ladder { l with raced := true } s
      else s)

/-- LEARNED_VECTOR_EXPIRY (R205): after 7 days a learned vector is no longer valid. -/
def execLearnedVectorExpiry (link : Link) (die : Fin 32) (slc : Bool) (s : State) : Result :=
  let s := s.begin
  .next { s with ldpc := { s.ldpc with learned := s.ldpc.learned.del ((32 * link.val + die.val) * 2 + b2n slc) } }

/-! ### Encoders (R214) -/

/-- The links of a PLL group in the order that partners are tried: ascending lanes after the link's own, wrapping. -/
def partnerOrder (s : State) (l : Nat) : List Nat :=
  let own := laneOf s l
  (List.range 31).filterMap (fun i =>
    (List.range 512).find? (fun m => decide (laneOf s m = own / 32 * 32 + (own % 32 + 1 + i) % 32)))

/-- An encoder may carry another link's writes (R214): its link is trained, it is in service and carries no other link's. -/
def partnerOk (s : State) (m : Nat) : Bool :=
  linkUp s m && !bitOf (s.rd F.LDPC_ENC_FENCED_FENCED (m / 32)) (m % 32) && !(s.ldpc.encPartner.any (fun e => decide (e.2 = m)))

/-- Programs on a link without an encoder are replaced without a Spoil entry (R214, R86). -/
def replaceTargets (l : Nat) (s : State) : State :=
  eachOf ((linkBlocks s l).filter (fun e => decide (e.2.use = .open))) (fun e s => suspectBlock l e.1 s) s

/-- Find the partner of a link whose encoder is fenced (R214). -/
def findPartner (l : Nat) (s : State) : State :=
  match (partnerOrder s l).find? (fun m => partnerOk s m) with
  | some m => { s with ldpc := { s.ldpc with encPartner := s.ldpc.encPartner.put l m } }
  | none => fenRefresh (replaceTargets l { s with ldpc := { s.ldpc with encPartner := s.ldpc.encPartner.del l } })

/-- Fence off a link's encoder; links that it carried move to their next partner (R214). -/
def fenceEncoder (l : Nat) (s : State) : State :=
  let s := peatRecord 0xC304 l 2 0 (s.wrBit F.LDPC_ENC_FENCED_FENCED (l % 32) true (l / 32))
  let carried := (s.ldpc.encPartner.filter (fun e => decide (e.2 = l))).map Prod.fst
  eachOf (l :: carried) findPartner s

/-- ENCODER_CHECK_FAIL (R214): the first failure of a code word encodes it again, the second fences the encoder. -/
def execEncoderCheckFail (link : Link) (s : State) : Result :=
  let s := s.begin
  let l := link.val
  .next (if bitOf (s.rd F.LDPC_ENC_FENCED_FENCED (l / 32)) (l % 32) then s
    else if Tab.get 0 s.ldpc.encErrs l = 0 then
      peatRecord 0xC304 l 1 0 { s with ldpc := { s.ldpc with encErrs := Tab.set 0 s.ldpc.encErrs l 1 } }
    else fenceEncoder l { s with ldpc := { s.ldpc with encErrs := Tab.set 0 s.ldpc.encErrs l 0 } })

/-- ENCODER_KAT_TIMER (R214): a fenced encoder that passes its test is in service again. -/
def execEncoderKatTimer (link : Link) (pass : Bool) (s : State) : Result :=
  let s := s.begin
  let l := link.val
  .next (if pass = true ∧ bitOf (s.rd F.LDPC_ENC_FENCED_FENCED (l / 32)) (l % 32) = true then
    fenRefresh (({ s with ldpc := { s.ldpc with encPartner := s.ldpc.encPartner.del l } }).wrBit
      F.LDPC_ENC_FENCED_FENCED (l % 32) false (l / 32))
  else s)

/-! ### Known-answer tests (R35, R213, R487, R488) -/

/-- Set the bit of one unit in a fence register of 32-bit words. -/
def fenceBit (f : Field) (n : Nat) (s : State) : State := s.wrBit f (n % 32) true (n / 32)

/-- The words that a fenced hard decoder holds are dispatched again (R213, R215). -/
def redispatch (d : Nat) (s : State) : State :=
  eachOf (Tab.get [] s.ldpc.bufs d) (fun n s => dispatchWord n (ladderLink s n) s)
    { s with ldpc := { s.ldpc with bufs := s.ldpc.bufs.del d } }

/-- A soft decoder leaves: the work that no decoder runs any more goes back to the head of the queue (R215). -/
def softShrink (s : State) : State :=
  let up := softUp s
  { s with ldpc := { s.ldpc with softRun := s.ldpc.softRun.take up, softQ := s.ldpc.softRun.drop up ++ s.ldpc.softQ } }

/-- Fence off a decoder (R35): counted, recorded and absorbed; its words are decoded elsewhere (R211, R213). -/
def fenceDecoder (soft : Bool) (n : Nat) (s : State) : State :=
  let f := if soft then F.LDPC_SOFT_FENCED_FENCED else F.LDPC_HARD_FENCED_FENCED
  let code := if soft then 0x200 + n else n
  if isFenced s f n then s
  else
    let s := (fenceBit f n s).count F.LDPC_CNT_KAT_FAIL_COUNT
    faultAbsorbed bitDecoder code (peatRecord 0xC305 code 0 0 (if soft then softShrink s else redispatch n s))

/-- Fence off a cipher pipe or GHASH lane (R35, R487, R488): its leaf runs on another unit. -/
def fenceCipher (f : Field) (n code : Nat) (s : State) : State :=
  if isFenced s f n then s
  else faultAbsorbed bitCipher code (peatRecord 0x6002 code 0 0 ((fenceBit f n s).wr F.CIP_EVT_KAT_FAIL 1))

/-- IDLE_KNOWN_ANSWER_TEST (R35). -/
def execIdleKnownAnswerTest (unit : PoolUnit) (pass : Bool) (s : State) : Result :=
  let s := s.begin
  .next (if pass then s
    else match unit with
      | .hardDecoder n => fenceDecoder false n.val s
      | .softDecoder n => fenceDecoder true n.val s
      | .cipherPipe n => fenceCipher F.CIP_PIPE_FENCED_FENCED n.val n.val s
      | .ghashLane n => fenceCipher F.CIP_LANE_FENCED_FENCED n.val (0x100 + n.val) s)

end Sys2Proof.Machine
end

