-- ==== Sys2Proof/Machine/Seam.lean ====
section
/-! DEFINITION. Seam links: training, flits and credits, retrains and drops, recalibration, parking and the packets that a
member sends (chapter "Seam links and member packages"; R32). -/

namespace Sys2Proof.Machine

open Sys2Proof

/-! ### Training (R274, R275) -/

/-- The rate of a training attempt (R275, R295): 0 after a fallback or while RATE_MAX is 0. -/
def trainRate (s : State) (l : Nat) : Nat :=
  if s.isSet F.SEAM_STAT_FALLBACK l ∨ s.isSet F.SEAM_CTL_RATE_MAX l = false then 0 else 1

/-- A link enters DETECT and sends a burst at once (R274). -/
def toDetect (l : Nat) (s : State) : State := (seamSet l 1 s).emit (.burst l)

/-- A training attempt fails (R275): back to DETECT; three in a row at rate 1 fall back, three at rate 0 leave the link
there, its member absent. -/
def trainFail (l : Nat) (s : State) : State :=
  let k := s.link l
  let n := k.failures + 1
  let s := toDetect l (s.putLink l { k with failures := if n < 3 then n else 0, ident := none, sub := 0 })
  if n < 3 then s
  else if trainRate s l = 1 then (s.wr F.SEAM_STAT_FALLBACK 1 l).wr F.SEAM_EVT_FALLBACK 1
  else limitNote (memberAbsent l (s.putLink l { (s.link l) with stayDown := true }))

/-- The code words of CW_MASK that the reads sent to a member have not delivered (R239). -/
def wordsOwed (s : State) (l : Nat) : List (Held × Nat) :=
  ((heldOf s l).filter (fun e => e.2.senses && e.2.sent && !e.2.ended)).flatMap (fun e =>
    ((List.range 4).filter (fun w => bitOf e.2.cwMask w && !bitOf e.2.gotCw w)).map (fun w => (e.2, w)))

/-- A link drops (R239, R276): the words that its reads still owe are lost with it. -/
def dropLink (l st : Nat) (s : State) : State :=
  eachOf (wordsOwed s l) (fun e s => wordLost l e.1 e.2 s) (linkDrop l st s)

/-- A link drops for DETECT (R276). -/
def dropToDetect (l : Nat) (s : State) : State := (dropLink l 1 s).emit (.burst l)

/-- A lost member returns within its wait: in service with no rebuild, its fault restored (R31, R32). -/
def memberBack (l : Nat) (s : State) : State :=
  if s.fen.absent.find l = some .waiting then
    fenRefresh (memberWell l { s with fen := { s.fen with absent := s.fen.absent.del l } })
  else s

/-- Descriptors that a hewer held across a commit complete with EPOCH as its link retrains (R259). -/
def adoptEpoch (l : Nat) (s : State) : State :=
  eachOf (heldOf s l) (fun e s =>
    if e.2.sent = false ∧ e.2.ended = false ∧ hewEpochOk s l e.2.epoch = false then hewEnd l e.1 0x43 s else s) s

/-- The credits that a member grants (R278). -/
def grantCredits (l : Nat) (b : IdentBody) (s : State) : State :=
  ((s.wr F.SEAM_CREDIT_CMD b.cmd.toNat l).wr F.SEAM_CREDIT_CTL b.ctl.toNat l).wr F.SEAM_CREDIT_DATA b.data.toNat l

/-- A link whose training is complete takes what IDENT gave: session, serial, dies, rate. -/
def takeIdent (l : Nat) (b : IdentBody) (s : State) : State :=
  let k := s.link l
  let s := s.putLink l { k with failures := 0, stored := true, serial := b.serial, identDies := b.dies.toNat,
                                grant := [b.cmd.toNat, b.ctl.toNat, b.data.toNat], ident := none, sub := 0 }
  (s.wr F.SEAM_SESSION_SESSION b.session.toNat l).wr F.SEAM_STAT_RATE (trainRate s l) l

/-- The link reaches ACTIVE (R274, R276, R32, R556): its hewer runs, a member in its wait returns. -/
def linkActive (l : Nat) (s : State) : State :=
  let s := memberBack l (adoptEpoch l (seamSet l 6 s))
  let s := if s.rd F.HEW_STAT_STATE l = 3 then
      s.wr F.HEW_STAT_STATE (if s.isSet F.HEW_RING_CFG_ENABLE l then 1 else 0) l else s
  let s := if (s.link l).telemWake then sendPacket l 0x30 0 0x80 s else s
  limitNote s

/-- The link of a member that is not in service enters HELD (R289). -/
def linkHeld (l : Nat) (s : State) : State := (seamSet l 10 s).wr F.SEAM_EVT_PRESENT 1

/-- A link serves a member in service or within its wait (R32, R289). -/
def servesMember (s : State) (l : Nat) : Bool :=
  (linkMember s l).isSome && decide (l ∉ s.fen.retired) && decide (s.fen.absent.find l ≠ some .rebuilding)

/-- A different member has come up on the link: HELD, and the former member's rebuild starts at once (R276). -/
def otherMember (l : Nat) (b : IdentBody) (s : State) : State :=
  let s := linkHeld l (grantCredits l b (takeIdent l b s))
  if servesMember s l then startRebuild l (laddersGiveUp l s) else s

/-- IDENT is complete after a full training (R274, R289). -/
def trainedUp (l : Nat) (b : IdentBody) (s : State) : State :=
  let old := (s.link l).serial
  if old ≠ 0 ∧ old ≠ b.serial then otherMember l b s
  else
    let s := grantCredits l b (takeIdent l b s)
    if servesMember s l then linkActive l (s.wr F.HEW_EVT_LINK_UP 1 l) else linkHeld l s

/-- IDENT is complete in RETRAIN (R276): the same SESSION and SERIAL is no drop; a new SESSION is one. -/
def retrainedUp (l : Nat) (b : IdentBody) (s : State) : State :=
  let k := s.link l
  if k.serial = b.serial ∧ s.rd F.SEAM_SESSION_SESSION l = b.session.toNat then linkActive l (takeIdent l b s)
  else trainedUp l b (dropLink l 1 s)

/-- HALT is sent on a link that has block lock within the flush (R284). -/
def sendHalt (l : Nat) (s : State) : State := seamSet l 11 (s.emit (.orderedSet l 0xF1))

/-- ALIGN is reached: the link has block lock (R274, R284). -/
def atAlign (l st : Nat) (s : State) : State :=
  if s.isSet F.HEW_PF_STAT_HALT then sendHalt l s
  else if st = 8 then s.putLink l { (s.link l) with sub := 4 } else seamSet l 4 s

/-- IDENT begins (R274): the device sends its packet; outside RETRAIN FSEQ and credit counts start from 0. -/
def atIdent (l st : Nat) (s : State) : State :=
  let k := s.link l
  let s := s.emit (.packet l 0x31 0 0x80)
  if st = 8 then s.putLink l { k with sub := 5, ident := none }
  else seamSet l 5 (s.putLink l { k with ident := none, txSeq := 0, acked := 0, lastNak := 0, rxSeq := 0, nakSent := false,
                                         crSeen := [0, 0, 0, 0, 0, 0], rspFreed := 0, rdataFreed := 0 })

/-- A training state ends (R274). In RETRAIN the states from ACQUIRE to IDENT run inside it. -/
def trainEnd (l : Nat) (s : State) : State :=
  let st := seamState s l
  let k := s.link l
  let at_ := if st = 8 then k.sub else st
  match at_ with
  | 2 => if st = 8 then s.putLink l { k with sub := 3 } else seamSet l 3 s
  | 3 => atAlign l st (s.putLink l { k with stored := true })
  | 4 => atIdent l st s
  | 5 =>
    match k.ident with
    | none => s
    | some b => if st = 8 then retrainedUp l b s else trainedUp l b s
  | _ => s

/-- DETECT_BURST (R274). -/
def execDetectBurst (link : Link) (s : State) : Result :=
  let s := s.begin
  .next (if seamState s link.val = 1 then s.emit (.burst link.val) else s)

/-- DETECT_ANSWER (R274): not while the link stays in DETECT after its failures (R275). -/
def execDetectAnswer (link : Link) (s : State) : Result :=
  let s := s.begin
  let l := link.val
  .next (if seamState s l = 1 ∧ s.isSet F.SEAM_CTL_ENABLE l = true ∧ (s.link l).stayDown = false then seamSet l 2 s else s)

/-- TRAINING_STATE_END (R274). Whether EQUALISE ran its full handshake only changes the time it took (R276). -/
def execTrainingStateEnd (link : Link) (_fullHandshake : Bool) (s : State) : Result := .next (trainEnd link.val s.begin)

/-- TRAINING_LIMIT_EXPIRY (R275). -/
def execTrainingLimitExpiry (link : Link) (s : State) : Result :=
  let s := s.begin
  .next (if 2 ≤ seamState s link.val ∧ seamState s link.val ≤ 5 then trainFail link.val s else s)

/-! ### Flits and credits (R270 to R272, R279) -/

/-- Credits that a report frees: the count is cumulative modulo 256 (R279). -/
def creditReport (l : Nat) (h : FlitHead) (s : State) : State :=
  let k := s.link l
  let t := h.crType.val
  let d := (h.crCount.toNat + 256 - k.crSeen.getD t 0 % 256) % 256
  let f := if t = 1 then F.SEAM_CREDIT_CMD else if t = 2 then F.SEAM_CREDIT_CTL else F.SEAM_CREDIT_DATA
  if t = 0 ∨ 3 < t then s
  else (s.putLink l { k with crSeen := k.crSeen.set t h.crCount.toNat }).wr f (min (k.grant.getD (t - 1) 0) (s.rd f l + d)) l

/-- ACK and NAK of a good flit (R272): the first NAK of an ACK replays from ACK + 1; further ones are ignored. -/
def ackReport (l : Nat) (h : FlitHead) (s : State) : State :=
  let k := s.link l
  let a := h.ack.toNat
  if h.nak then
    (if k.lastNak = a + 1 then s
     else (s.putLink l { k with acked := a, lastNak := a + 1 }).count F.SEAM_CNT_REPLAY_COUNT 1 l)
  else s.putLink l { k with acked := a, lastNak := if k.acked = a then k.lastNak else 0 }

/-- A flit arrives on a link with block lock (R269). -/
def takesFlits (s : State) (l : Nat) : Bool :=
  decide (seamState s l ∈ [4, 5, 6, 7, 10, 11] ∨ (seamState s l = 8 ∧ 4 ≤ (s.link l).sub))

/-- The counters of a received flit (R297). In the device's own window failures are ignored (R277). -/
def flitCounts (l : Nat) (h : FlitHead) (s : State) : State :=
  if seamState s l = 7 ∧ (s.link l).ownWin = true then s
  else
    let s := s.count F.SEAM_CNT_FEC_CORR_COUNT h.fecCorr l
    let s := if h.fecOk then s else s.count F.SEAM_CNT_FEC_UNC_COUNT 1 l
    if h.good then s else s.count F.SEAM_CNT_CRC_COUNT 1 l

/-- A NAK is due to the sender, but in the device's own window (R272, R277). -/
def flitDiscard (l : Nat) (s : State) : State :=
  if seamState s l = 7 ∧ (s.link l).ownWin = true then s else s.putLink l { (s.link l) with nakSent := true }

/-- DATA_FLIT (R270, R272, R279): a bad flit or one out of sequence is discarded. -/
def execDataFlit (link : Link) (head : FlitHead) (s : State) : Result :=
  let s := s.begin
  let l := link.val
  .next (if takesFlits s l = false then s
    else
      let s := flitCounts l head s
      if head.good = false ∨ head.fecOk = false then flitDiscard l s
      else
        let s := creditReport l head (ackReport l head s)
        let k := s.link l
        if head.fseq.toNat = k.rxSeq then s.putLink l { k with rxSeq := (k.rxSeq + 1) % 4096, nakSent := false }
        else flitDiscard l s)

/-- IDLE_FLIT (R270, R271): ACK and credits; it carries no packet and is never replayed. -/
def execIdleFlit (link : Link) (head : FlitHead) (s : State) : Result :=
  let s := s.begin
  let l := link.val
  .next (if takesFlits s l = false then s
    else
      let s := flitCounts l head s
      if head.good = false ∨ head.fecOk = false then s else creditReport l head (ackReport l head s))

/-- REPLAY_LIMIT (R272, R276). -/
def execReplayLimit (link : Link) (s : State) : Result := .next (seamRetrain link.val s.begin)

/-! ### Recalibration (R277) -/

/-- Another link of the fen has a window that the device requested. -/
def windowInFen (s : State) (l : Nat) : Bool :=
  (List.range 512).any (fun m => decide (m ≠ l) && (s.link m).wantRecal && decide (linkFen s m = linkFen s l))

/-- The device requests a window: one link of a fen at a time. -/
def recalAsk (l : Nat) (s : State) : State :=
  if seamState s l ≠ 6 ∨ (s.link l).wantRecal = true ∨ windowInFen s l = true then s
  else (s.putLink l { (s.link l) with wantRecal := true }).emit (.orderedSet l 0xF2)

/-- A window opens: the device's own or the member's. -/
def recalOpen (l : Nat) (own : Bool) (s : State) : State := seamSet l 7 (s.putLink l { (s.link l) with ownWin := own })

/-- RECAL_REQ (R277): a member's request is answered with RECAL_GO; whether 100 ms have passed since the window granted
before is a free value. The device's own request goes out under its staggering. -/
def execRecalReq (link : Link) (fromMember : Bool) (s : State) : Result :=
  let s := s.begin
  let l := link.val
  .next (if fromMember = false then recalAsk l s
    else if seamState s l ≠ 6 then s
    else if (s.link l).memberWin = true ∧ s.draw 2 = 0 then s.drawn
    else recalOpen l false (((if (s.link l).memberWin then s.drawn else s).putLink l { (s.link l) with memberWin := true }).emit
      (.orderedSet l 0xF3)))

/-- RECAL_GO (R277): the member grants the window that the device asked for. -/
def execRecalGo (link : Link) (s : State) : Result :=
  let s := s.begin
  .next (if seamState s link.val = 6 ∧ (s.link link.val).wantRecal = true then recalOpen link.val true s else s)

/-- The hottest die of a member, as SEAM_TEMP shows it (R297). -/
def seamHot (s : State) (l : Nat) : Int := signed (s.rd F.SEAM_TEMP_HOT l) 8

/-- RECAL_WINDOW_END (R277): the temperature of the window is kept. -/
def execRecalWindowEnd (link : Link) (s : State) : Result :=
  let s := s.begin
  let l := link.val
  .next (if seamState s l = 7 then
    (let k := s.link l
     seamSet l 6 (s.putLink l { k with
       wantRecal := if k.ownWin then false else k.wantRecal, ownWin := false,
       lastRecal := if k.ownWin then seamHot s l else k.lastRecal }))
  else s)

/-- RECAL_PERIOD_TIMER (R277). -/
def execRecalPeriodTimer (link : Link) (s : State) : Result := .next (recalAsk link.val s.begin)

/-! ### Retrain, park and drop (R276, R292, R32) -/

/-- RETRAIN (R276): an ordered set from the member. -/
def execRetrain (link : Link) (s : State) : Result := .next (enterRetrain link.val s.begin)

/-- RETRAIN_LIMIT_EXPIRY (R276): RETRAIN has exceeded 50 ms, which is a drop. -/
def execRetrainLimitExpiry (link : Link) (s : State) : Result :=
  let s := s.begin
  .next (if seamState s link.val = 8 then dropToDetect link.val s else s)

/-- Park a link whose hewer holds no fetched descriptor (R292). -/
def parkLink (l : Nat) (s : State) : State :=
  if seamState s l = 6 ∧ (heldOf s l).isEmpty = true then
    seamSet l 9 ((s.putLink l { (s.link l) with telemWake := false }).emit (.orderedSet l 0xF5))
  else s

/-- PARK (R292). -/
def execPark (link : Link) (s : State) : Result := .next (parkLink link.val s.begin)

/-- PARK_WAKE_TIMER (R292): a parked link wakes for one TELEM_REQ. -/
def execParkWakeTimer (link : Link) (s : State) : Result :=
  let s := s.begin
  let l := link.val
  .next (if seamState s l = 9 then seamRetrain l (s.putLink l { (s.link l) with telemWake := true }) else s)

/-- LOSS_OF_SIGNAL (R276): outside PARKED and DISABLED the link goes to DETECT at once. -/
def execLossOfSignal (link : Link) (s : State) : Result :=
  let s := s.begin
  let l := link.val
  let st := seamState s l
  .next (if st = 0 ∨ st = 9 ∨ st = 1 then s
    else if st = 6 ∨ st = 7 ∨ st = 8 ∨ st = 11 then dropToDetect l s
    else toDetect l (s.putLink l { (s.link l) with ident := none }))

/-- A packet waits for a CMD credit (R276). -/
def packetWaits (s : State) (l : Nat) : Bool := (heldOf s l).any (fun e => !e.2.sent && !e.2.ended && e.2.onDie)

/-- CREDIT_STALL_TIMEOUT (R276). -/
def execCreditStallTimeout (link : Link) (s : State) : Result :=
  let s := s.begin
  .next (if s.rd F.SEAM_CREDIT_CMD link.val = 0 ∧ packetWaits s link.val = true then seamRetrain link.val s else s)

/-- MEMBER_LINK_DROP (R32, R239). -/
def execMemberLinkDrop (link : Link) (s : State) : Result :=
  let s := s.begin
  let l := link.val
  .next (if linkUp s l = true ∨ seamState s l = 8 then dropToDetect l s else limitNote (memberAbsent l s))

/-- Operations held for a member that has not returned complete NOT_SENT (R226, R239). -/
def giveUpUnsent (l : Nat) (s : State) : State :=
  eachOf (heldOf s l) (fun e s => if e.2.sent = false ∧ e.2.ended = false then hewEnd l e.1 0x21 s else s) s

/-- MEMBER_WAIT_EXPIRY (R32, R35, R239): the wait is over: what was held for the member completes NOT_SENT, the reads that wait for
its words end, the rebuild starts. -/
def execMemberWaitExpiry (link : Link) (s : State) : Result :=
  let s := s.begin
  let l := link.val
  .next (if s.fen.absent.find l = some .waiting then startRebuild l (laddersGiveUp l (giveUpUnsent l s)) else s)

/-- MEMBER_RETURN (R32): the link has retrained within the wait. -/
def execMemberReturn (link : Link) (s : State) : Result :=
  let s := s.begin
  let l := link.val
  .next (if s.fen.absent.find l = some .waiting then
    (if linkUp s l then limitNote (memberBack l s) else linkActive l (s.wr F.HEW_EVT_LINK_UP 1 l))
  else s)

/-! ### Packets from the member (R280 to R288) -/

/-- A packet of the member is processed: its RSP or RDATA credit is freed (R279). -/
def freeRsp (l : Nat) (s : State) : State := s.putLink l { (s.link l) with rspFreed := (s.link l).rspFreed + 1 }
def freeRdata (l : Nat) (s : State) : State := s.putLink l { (s.link l) with rdataFreed := (s.link l).rdataFreed + 1 }

/-- An operation's final packet ends it (R281): LAST is noted, the outcome is OK. -/
def lastPacket (l k : Nat) (s : State) : State :=
  match s.held? l k with
  | none => s
  | some h => s.putHeld l k { h with ended := true, status := 0, detail := 0, suspended := false, gotCw := putBit h.gotCw 4 true }

/-- A code word arrives for an operation of the given opcodes (R281): a decoder takes it. -/
def wordArrives (l k cw : Nat) (last : Bool) (ops : List Nat) (hard : Bool) (s : State) : State :=
  match s.held? l k with
  | none => s
  | some h =>
    if h.sent = false ∨ h.ended = true ∨ h.opcode ∉ ops then s
    else
      let s := freeRdata l (s.putHeld l k { h with gotCw := putBit h.gotCw cw true })
      let s := if hard then ladderStart l h cw s else s
      if last then lastPacket l k s else s

/-- READ_DATA (R281). -/
def execReadData (link : Link) (tag : Fin 128) (cw : Fin 4) (last : Bool) (s : State) : Result :=
  .next (wordArrives link.val tag.val cw.val last [0x01, 0x02] true s.begin)

/-- SOFT_DATA (R281): the raw bits of one soft sense go to the soft decoder's input of a ladder that is open. -/
def execSoftData (link : Link) (tag : Fin 128) (cw : Fin 4) (last : Bool) (s : State) : Result :=
  .next (wordArrives link.val tag.val cw.val last [0x03] false s.begin)

/-- COMPLETION (R282): TAG [7] belongs to the link layer. A program's answer ends its encoding. -/
def execCompletion (link : Link) (tag status : BitVec 8) (detail : BitVec 16) (s : State) : Result :=
  let s := freeRsp link.val s.begin
  let l := link.val
  .next (if 128 ≤ tag.toNat then s
    else
      let s := match s.held? l tag.toNat with
        | some h => if h.opcode = 0x10 then { s with ldpc := { s.ldpc with encErrs := Tab.set 0 s.ldpc.encErrs l 0 } } else s
        | none => s
      hewNote l (memberAnswer l tag.toNat status.toNat detail.toNat s))

/-- The over-temperature flag of a member (R285, R299). -/
def setOver (l : Nat) (b : Bool) (s : State) : State :=
  let s := if b = true ∧ s.isSet F.SEAM_TEMP_OVER l = false then s.wr F.SEAM_EVT_OVERTEMP 1 else s
  s.wrB F.SEAM_TEMP_OVER b l

/-- TELEMETRY (R285, R297): temperatures and flags; a change of DTEMP since the last window asks for one (R277); a link woken
for it is parked again (R292). -/
def execTelemetry (link : Link) (temps : List Int) (hottest : Int) (flags : BitVec 8) (s : State) : Result :=
  let s := freeRsp link.val s.begin
  let l := link.val
  let s := s.putLink l { (s.link l) with temps := temps.take 32, noTelem := false }
  let s := (s.wr F.SEAM_TEMP_HOT (unsigned hottest 8) l).wr F.SEAM_TEMP_AGE 0 l
  let s := setOver l (bitOf flags.toNat 0) s
  let s := if s.rd F.SEAM_RECAL_CTL_DTEMP ≤ (hottest - (s.link l).lastRecal).natAbs then recalAsk l s else s
  .next (if (s.link l).telemWake then parkLink l s else s)

/-- IDENT_DATA (R286): without version 1 the attempt fails at once; in RETRAIN that is a drop. -/
def execIdentData (link : Link) (ident : IdentBody) (s : State) : Result :=
  let s := s.begin
  let l := link.val
  let st := seamState s l
  .next (if st = 5 ∨ (st = 8 ∧ (s.link l).sub = 5) then
    (if bitOf ident.versions.toNat 0 then s.putLink l { (s.link l) with ident := some ident }
     else if st = 5 then trainFail l s else dropToDetect l s)
  else s)

/-- CAL_DATA (R287, R233): the row is kept; one that fails its checks is recorded. -/
def execCalData (link : Link) (tag : Fin 128) (row : CalRow) (s : State) : Result :=
  let s := freeRsp link.val s.begin
  let l := link.val
  .next (match s.held? l tag.val with
    | none => s
    | some h =>
      if h.sent = false ∨ h.ended = true ∨ h.opcode ≠ 0x20 then s
      else
        let s := { s with ret := { s.ret with cal := s.ret.cal.put l row } }
        let s := if row.readable then s else peatRecord 0xC401 l (if seamState s l = 10 then 1 else 0) 0 s
        lastPacket l tag.val s)

/-- MARK_DATA (R288, R233): marked blocks are bad, barred (R234) and take no data. -/
def execMarkData (link : Link) (tag : Fin 128) (bitmap : Nat) (s : State) : Result :=
  let s := freeRsp link.val s.begin
  let l := link.val
  .next (match s.held? l tag.val with
    | none => s
    | some h =>
      if h.sent = false ∨ h.ended = true ∨ h.opcode ≠ 0x21 then s
      else
        let s := eachOf ((List.range 256).filter (fun i => bitOf bitmap i && decide (h.block + i < physBlocks s l))) (fun i s =>
          barBlock l (h.block + i) (s.putBlock l (h.block + i) { (s.block l (h.block + i)) with use := .factoryBad })) s
        lastPacket l tag.val s)

/-- EVENT (R281, R294): a die fault is BLOCK_FAULT with DIE_WIDE; an unknown OPC is recorded and dropped. -/
def execEventPacket (link : Link) (opc code : BitVec 8) (die : Fin 32) (s : State) : Result :=
  let s := freeRsp link.val s.begin
  let l := link.val
  .next (if opc ≠ 0xB0#8 then peatRecord 0xC801 l opc.toNat 0 s
    else if code = 1#8 then setOver l true s
    else if code = 2#8 ∧ servesMember s l = true ∧ die.val < diesOf s l then loseDie l die.val s
    else s)

/-- TELEMETRY_TIMEOUT (R294, R136): the fallback is in force; TELEM_REQ goes out every 1 s; one Peat entry. -/
def execTelemetryTimeout (link : Link) (s : State) : Result :=
  let s := s.begin
  let l := link.val
  let s := if (s.link l).noTelem then s
    else peatRecord 0xC803 l 0 0 (s.putLink l { (s.link l) with noTelem := true })
  .next (if seamState s l = 6 ∧ s.rd F.SEAM_CREDIT_CTL l ≠ 0 then sendPacket l 0x30 0 0x80 s else s)

/-! ### PLL groups and SEAM_CTL (R294 to R296) -/

/-- The links of a PLL group. -/
def groupLinks (s : State) (g : Nat) : List Nat := (List.range 512).filter (fun l => decide (groupOf s l = g))

/-- A PLL group is lost (R294, R34): the fault is entered, and all its links enter RETRAIN. -/
def groupLost (g : Nat) (s : State) : State :=
  let s := (s.wr F.SEAM_GRP_STAT_LOCKED 0 g).wr F.SEAM_EVT_GRP_UNLOCK 1
  let s := if g ∈ s.seam.unlocked then s
    else faultAbsorbed bitGroup g { s with seam := { s.seam with unlocked := addNew g s.seam.unlocked, faulted := addNew g s.seam.faulted } }
  glbRefresh (eachOf (groupLinks s g) enterRetrain s)

/-- PLL_GROUP_UNLOCK (R294). -/
def execPllGroupUnlock (group : Fin 16) (s : State) : Result := .next (groupLost group.val s.begin)

/-- PLL_GROUP_RELOCK (R276): the group is locked again; links still up pass to RETRAIN. -/
def execPllGroupRelock (group : Fin 16) (s : State) : Result :=
  let s := s.begin
  let g := group.val
  let s := s.wr F.SEAM_GRP_STAT_LOCKED 1 g
  let s := { s with seam := { s.seam with unlocked := dropOne g s.seam.unlocked } }
  .next (glbRefresh (eachOf (groupLinks s g) seamRetrain (groupsNote s)))

/-- What SEAM_CTL.RETRAIN does (R275, R276, R295). -/
def seamRetrainAsk (l : Nat) (s : State) : State :=
  let s := (s.putLink l { (s.link l) with stayDown := false, failures := 0 }).wr F.SEAM_STAT_FALLBACK 0 l
  seamRetrain l s

/-- SEAM_RETRAIN_WRITE: RETRAIN is WO at Level B, on any path. -/
def execSeamRetrainWrite (_path : AccessPath) (link : Link) (s : State) : Result := .next (seamRetrainAsk link.val s.begin)

/-- ENABLE takes a value (R295): 1 lets the link train, 0 takes it to DISABLED, a drop for a member in service. -/
def seamEnable (l : Nat) (enable : Bool) (s : State) : State :=
  let s := s.wrB F.SEAM_CTL_ENABLE enable l
  let st := seamState s l
  if enable then (if st = 0 then toDetect l (s.putLink l { (s.link l) with stayDown := false, failures := 0 }) else s)
  else if st = 0 then s
  else if linkUp s l = true ∨ st = 8 ∨ st = 11 then dropLink l 0 s
  else seamSet l 0 (s.putLink l { (s.link l) with ident := none })

/-- The offset of SEAM_CTL[n] (R295). -/
def seamCtlOff (l : Nat) : Nat := 0x18000000 + l * 0x2000

/-- SEAM_ENABLE_WRITE (R295): ENABLE is RWE: the write needs Expert level, without it a change is a violation. -/
def execSeamEnableWrite (path : AccessPath) (link : Link) (enable : Bool) (s : State) : Result :=
  let s := s.begin
  let l := link.val
  .next (if expertOpen s path then seamEnable l enable s
    else if enable then accessViolation path (seamCtlOff l) s else s)

end Sys2Proof.Machine
end

