-- ==== Sys2Proof/Machine/Microcode.lean ====
section
/-! DEFINITION. Microwords, control-store banks and mode epochs (chapter "Hewer microcode and mode epochs"). -/

namespace Sys2Proof.Machine

open Sys2Proof

/-! ### SEC-DED of a microword (R252) -/

/-- h(j): the (j + 1)-th integer of 3 or more that is not a power of two. -/
def ucH (j : Nat) : Nat := ((List.range 40).filter (fun n => decide (3 ≤ n ∧ n ∉ [4, 8, 16, 32])))[j]?.getD 0

/-- XOR of h(j) over the data bits that are 1: check bits 32 to 37. -/
def ucCheck6 (data : Nat) : Nat := (List.range 32).foldl (fun a j => if bitOf data j then a ^^^ ucH j else a) 0

/-- Parity of the low `n` bits. -/
def parityOf (v n : Nat) : Nat := popCount v n % 2

/-- The 39 stored bits of a data word. -/
def ucEncode (data : Nat) : Nat :=
  let d := data % 2 ^ 32
  let v := d + 2 ^ 32 * ucCheck6 d
  v + 2 ^ 38 * parityOf v 38

/-- What the fetch path finds in a stored word: its data, corrected where one bit was wrong; none for a double error. -/
inductive UcWord where
  | good (data : Nat)
  | corrected (data : Nat)
  | bad
  deriving DecidableEq, Repr

/-- The fetch path's check (R252). -/
def ucFetchWord (w : Nat) : UcWord :=
  let d := w % 2 ^ 32
  let syn := ucCheck6 d ^^^ bits w 32 6
  let odd := parityOf w 39
  if syn = 0 then (if odd = 0 then .good d else .corrected d)
  else if odd = 0 then .bad
  else
    match (List.range 32).find? (fun j => decide (ucH j = syn)) with
    | some j => .corrected (d ^^^ 2 ^ j)
    | none => if syn ∈ [1, 2, 4, 8, 16, 32] then .corrected d else .bad

/-! ### Banks (R253 to R255) -/

/-- A stored word of a bank. -/
def ucWordAt (s : State) (f bank a : Nat) : Nat :=
  Tab.get 0 (if bank = 0 then s.ucs.bankA else s.ucs.bankB) (8192 * f + a)

/-- Store 39 bits in a bank. -/
def ucPutWord (f bank a w : Nat) (s : State) : State :=
  if bank = 0 then { s with ucs := { s.ucs with bankA := Tab.set 0 s.ucs.bankA (8192 * f + a) w } }
  else { s with ucs := { s.ucs with bankB := Tab.set 0 s.ucs.bankB (8192 * f + a) w } }

/-- The data of a bank's mirrored master (R253). -/
def masterWord (s : State) (f bank a : Nat) : Nat := Tab.get 0 s.ucs.masters (16384 * f + 8192 * bank + a)

def putMaster (f bank a d : Nat) (s : State) : State :=
  { s with ucs := { s.ucs with masters := Tab.set 0 s.ucs.masters (16384 * f + 8192 * bank + a) d } }

/-- Write a master copy into a bank, check bits computed (R252, R253). -/
def loadBank (f fromBank toBank : Nat) (s : State) : State :=
  eachOf (List.range 8192) (fun a s =>
    let d := masterWord s f fromBank a
    putMaster f toBank a d (ucPutWord f toBank a (ucEncode d) s)) s

/-- Ask for a switch of a fen's store to its idle bank (R255). -/
def askSwitch (f : Nat) (s : State) : State :=
  { s with ucs := { s.ucs with switchReq := s.ucs.switchReq.put f true } }

/-- Flip LIVE and set PENDING (R255): no hewer of the fen has started on the new bank yet, but one whose link is down counts
as switched. -/
def flipBank (f : Nat) (s : State) : State :=
  let s := (s.wr F.UCS_BANK_LIVE (1 - s.rd F.UCS_BANK_LIVE f) f).wr F.UCS_BANK_PENDING 1 f
  let st := (List.range 512).foldl (fun t n => if storeOf s n = f then Tab.set false t n (!linkUp s n) else t) s.ucs.started
  startedNote f { s with ucs := { s.ucs with started := st, switchReq := s.ucs.switchReq.del f } }

/-- BANK_SWITCH (R253, R255, R262): a requested switch, once PENDING is 0 and no epoch is open. -/
def execBankSwitch (fen : Fen) (s : State) : Result :=
  let s := s.begin
  let f := fen.val
  .next (if (s.ucs.switchReq.find f).isSome = true ∧ s.isSet F.UCS_BANK_PENDING f = false ∧ s.ucs.epoch.isNone = true then
    flipBank f s else s)

/-- Every store has switched (R52): PENDING is 0 in each and no switch is asked. -/
def storesSettled (s : State) : Bool :=
  s.ucs.switchReq.isEmpty && (List.range 16).all (fun f => !s.isSet F.UCS_BANK_PENDING f)

/-- A committed UCODE re-apply ends once every store has switched (R52). -/
def ucodeNote (s : State) : State :=
  match s.cfg.reapply with
  | none => s
  | some r => if r.lot = 0x0A ∧ r.committed = true ∧ storesSettled s = true then lotDone 0x0A 4 0 s else s

/-- The master of the live bank is written into the idle bank, which is asked for (R253). -/
def restoreBank (f : Nat) (s : State) : State :=
  let live := s.rd F.UCS_BANK_LIVE f
  askSwitch f (loadBank f live (1 - live) s)

/-- A restoration that waited for PENDING begins (R253, R255). -/
def restoreNote (f : Nat) (s : State) : State :=
  if f ∈ s.ucs.damaged then restoreBank f { s with ucs := { s.ucs with damaged := dropOne f s.ucs.damaged } } else s

/-- An uncorrectable word was fetched from a bank (R253): the live bank is restored, once PENDING is 0. -/
def bankDamaged (f bank : Nat) (s : State) : State :=
  if bank ≠ s.rd F.UCS_BANK_LIVE f then s
  else if s.isSet F.UCS_BANK_PENDING f then { s with ucs := { s.ucs with damaged := addNew f s.ucs.damaged } }
  else restoreBank f s

/-- PENDING_CLEAR (R255): every in-service hewer of the fen has started on the new bank and holds no sequence on the old. -/
def execPendingClear (fen : Fen) (s : State) : Result :=
  let s := s.begin
  let f := fen.val
  let live := s.rd F.UCS_BANK_LIVE f
  let hs := (List.range 512).filter (fun n => decide (storeOf s n = f) && linkUp s n)
  .next (if s.isSet F.UCS_BANK_PENDING f = true ∧
      hs.all (fun n => Tab.get false s.ucs.started n && (heldOf s n).all (fun e => !e.2.code || decide (e.2.bank = live))) = true
    then restoreNote f (ucodeNote (s.wr F.UCS_BANK_PENDING 0 f)) else s)

/-! ### Registers and conditions (R248, R250) -/

/-- The run time of a sequence (R230): what RUN_US last held and the time measured since, a free value. -/
def runTime (s : State) (h : Held) : Nat := h.runUs + s.draw (2 ^ 32)

/-- The value of a sequence register; RUN_US is a measured time, and what VOFS index holds no rule states: free values. -/
def ucReg (s : State) (h : Held) (r : Nat) : Nat :=
  if r < 16 then h.regs.getD r 0
  else if r = 16 then h.opcode else if r = 17 then h.ctl else if r = 18 then h.die
  else if r = 19 then h.block % 2 ^ 16 else if r = 20 then h.block / 2 ^ 16 else if r = 21 then h.page
  else if r = 22 then h.cwMask else if r = 23 then h.epoch else if r = 24 then h.buf % 2 ^ 32
  else if r = 25 then h.buf / 2 ^ 32 % 64 else if r = 26 then s.draw (2 ^ 32)
  else if r = 27 then h.status else if r = 28 then h.detail
  else if r = 29 then runTime s h % 2 ^ 32 else if r = 30 then h.member else 0

/-- Write a sequence register: none where it is read-only (R248). -/
def ucSet (h : Held) (r v : Nat) : Option Held :=
  let v := v % 2 ^ 32
  if r < 16 then some { h with regs := h.regs.set r v }
  else if r ≤ 26 then none
  else if r = 27 then some { h with status := v % 2 ^ 16 }
  else if r = 28 then some { h with detail := v % 2 ^ 16 }
  else if r = 29 then some { h with runUs := v }
  else if r = 30 then some { h with member := v }
  else some h

/-- A suspend is wanted (R250 code 6): a SUSP_OK read waits, the cap is not reached, and RUN_US, a measured time, has reached
MIN_RUN (a free value). -/
def suspWanted (s : State) (n : Nat) (h : Held) : Bool :=
  suspWaits s n h && suspendable s h && decide (s.rd F.HEW_SUSP_CTL_MIN_RUN ≤ runTime s h)

/-- A condition code; none for a reserved one (R250). -/
def ucCond (s : State) (n : Nat) (h : Held) (c : Nat) : Option Bool :=
  if c = 0 then some true else if c = 1 then some h.z else if c = 2 then some (!h.z)
  else if c = 3 then some (decide (h.member = 0)) else if c = 4 then some (decide (h.member ≠ 0))
  else if c = 5 then some h.timedOut else if c = 6 then some (suspWanted s n h)
  else if c = 7 then some (s.isSet F.HEW_PF_STAT_HALT) else if c = 8 then some (!linkUp s n)
  else if c = 9 then some h.slc else none

/-! ### One microword (R249, R252) -/

/-- The fields of a microword (R247). -/
def ucOp (w : Nat) : Nat := bits w 26 6
def ucDst (w : Nat) : Nat := bits w 21 5
def ucSrc (w : Nat) : Nat := bits w 16 5
def ucImm (w : Nat) : Nat := bits w 0 16

/-- End a sequence with UCODE_ERR (R252, R240). -/
def ucError (n k : Nat) (s : State) : State := hewEnd n k 0x51 s

/-- The next word address. A sequence that runs past word 8,191 goes on at word 0. -/
def ucNext (pc : Nat) : Nat := (pc + 1) % 8192

/-- Run the word at a sequence's place where its opcode passes a test: `act` gets the data word and the record already moved
to the next word. A single error is corrected and written back; a double error ends the sequence and the master is written
into the idle bank for a switch (R252, R253). -/
def ucRunIf (n k : Nat) (op : Nat → Bool) (act : Nat → Held → State → State) (s : State) : State :=
  match s.held? n k with
  | none => s
  | some h =>
    if h.code = false ∨ h.ended = true then s
    else
      let f := storeOf s n
      match ucFetchWord (ucWordAt s f h.bank h.pc) with
      | .good w => if op (ucOp w) then act w { h with pc := ucNext h.pc } s else s
      | .corrected w =>
        if op (ucOp w) then
          act w { h with pc := ucNext h.pc } ((ucPutWord f h.bank h.pc (ucEncode w) s).count F.UCS_ECC_CORR_COUNT)
        else s
      | .bad =>
        ucError n k (bankDamaged f h.bank (s.count F.UCS_ECC_UNC_COUNT))

/-- Run the word at a sequence's place where its opcode is `op`. -/
def ucRun (n k op : Nat) (act : Nat → Held → State → State) (s : State) : State := ucRunIf n k (fun o => decide (o = op)) act s

/-- The opcodes of R249, TRAP apart. -/
def ucOpcodes : List Nat :=
  [0x00, 0x01, 0x02, 0x03, 0x04, 0x05, 0x06, 0x07, 0x08, 0x10, 0x11, 0x12, 0x13, 0x20, 0x21, 0x22, 0x23, 0x24, 0x3E]

/-- Put a record, or end the sequence where a register write is refused (R248). -/
def ucPut (n k : Nat) (h : Option Held) (s : State) : State :=
  match h with
  | some h => s.putHeld n k h
  | none => ucError n k s

/-- The ALU words: DST gets a function of SRC and IMM. -/
def ucAlu (n k op : Nat) (f : Nat → Nat → Nat) (s : State) : State :=
  ucRun n k op (fun w h s => ucPut n k (ucSet h (ucDst w) (f (ucReg s h (ucSrc w)) (ucImm w)))
    (if ucSrc w = 29 ∨ ucSrc w = 26 then s.drawn else s)) s

/-- Sign-extend a 16-bit immediate to 32 bits. -/
def sext16 (v : Nat) : Nat := if v < 2 ^ 15 then v else v + 2 ^ 32 - 2 ^ 16

/-- UC_NOP (R249). -/
def execUcNop (hewer : Link) (slot : Fin 128) (s : State) : Result :=
  .next (ucRun hewer.val slot.val 0x00 (fun _ h s => s.putHeld hewer.val slot.val h) s.begin)

/-- UC_LDI (R249). -/
def execUcLdi (hewer : Link) (slot : Fin 128) (s : State) : Result :=
  .next (ucAlu hewer.val slot.val 0x01 (fun _ i => i) s.begin)

/-- UC_MOV (R249). -/
def execUcMov (hewer : Link) (slot : Fin 128) (s : State) : Result :=
  .next (ucAlu hewer.val slot.val 0x02 (fun v _ => v) s.begin)

/-- UC_ADDI (R249). -/
def execUcAddi (hewer : Link) (slot : Fin 128) (s : State) : Result :=
  .next (ucAlu hewer.val slot.val 0x03 (fun v i => (v + sext16 i) % 2 ^ 32) s.begin)

/-- UC_ANDI (R249). -/
def execUcAndi (hewer : Link) (slot : Fin 128) (s : State) : Result :=
  .next (ucAlu hewer.val slot.val 0x04 (fun v i => v &&& i) s.begin)

/-- UC_ORI (R249). -/
def execUcOri (hewer : Link) (slot : Fin 128) (s : State) : Result :=
  .next (ucAlu hewer.val slot.val 0x05 (fun v i => v ||| i) s.begin)

/-- UC_SHL (R249). -/
def execUcShl (hewer : Link) (slot : Fin 128) (s : State) : Result :=
  .next (ucAlu hewer.val slot.val 0x06 (fun v i => v * 2 ^ (i % 32) % 2 ^ 32) s.begin)

/-- UC_SHR (R249). -/
def execUcShr (hewer : Link) (slot : Fin 128) (s : State) : Result :=
  .next (ucAlu hewer.val slot.val 0x07 (fun v i => v % 2 ^ 32 / 2 ^ (i % 32)) s.begin)

/-- UC_CMP (R249): Z is 1 exactly when SRC equals IMM. -/
def execUcCmp (hewer : Link) (slot : Fin 128) (s : State) : Result :=
  .next (ucRun hewer.val slot.val 0x08 (fun w h s =>
    (s.putHeld hewer.val slot.val { h with z := decide (ucReg s h (ucSrc w) = ucImm w) }).drawn) s.begin)

/-- UC_JMP (R249). -/
def execUcJmp (hewer : Link) (slot : Fin 128) (s : State) : Result :=
  .next (ucRun hewer.val slot.val 0x10 (fun w h s => s.putHeld hewer.val slot.val { h with pc := ucImm w % 8192 }) s.begin)

/-- UC_BR (R249, R250): a reserved condition ends the sequence. -/
def execUcBr (hewer : Link) (slot : Fin 128) (s : State) : Result :=
  .next (ucRun hewer.val slot.val 0x11 (fun w h s =>
    match ucCond s hewer.val h (ucSrc w) with
    | none => ucError hewer.val slot.val s
    | some c => (s.putHeld hewer.val slot.val (if c then { h with pc := ucImm w % 8192 } else h)).drawn) s.begin)

/-- Push a return address: the stack holds four, and a fifth push loses the oldest (R249 gives the depth alone). -/
def ucPush (h : Held) (target : Nat) : Held := { h with stack := (h.pc :: h.stack).take 4, pc := target % 8192 }

/-- UC_CALL (R249). -/
def execUcCall (hewer : Link) (slot : Fin 128) (s : State) : Result :=
  .next (ucRun hewer.val slot.val 0x12 (fun w h s => s.putHeld hewer.val slot.val (ucPush h (ucImm w))) s.begin)

/-- UC_RET (R249): the address popped from an empty stack is a free value. -/
def execUcRet (hewer : Link) (slot : Fin 128) (s : State) : Result :=
  .next (ucRun hewer.val slot.val 0x13 (fun _ h s =>
    match h.stack with
    | a :: rest => s.putHeld hewer.val slot.val { h with pc := a, stack := rest }
    | [] => (s.putHeld hewer.val slot.val { h with pc := s.draw 8192 }).drawn) s.begin)

/-- A SUSPEND or RESUME packet acts on the operation of its target TAG (R281, R283). -/
def sendControl (n opc k : Nat) (s : State) : State :=
  match s.held? n k with
  | none => s
  | some h =>
    if opc = 0x28 then
      (s.putHeld n k { h with suspended := true, suspends := h.suspends + 1, window := 0, member := 0 }).count F.HEW_CNT_SUSP_COUNT 1 n
    else if opc = 0x29 then s.putHeld n k { h with suspended := false, runUs := 0 }
    else s

/-- UC_SEND (R249, R281): the operation packet leaves; a control packet names the target TAG in W0. -/
def execUcSend (hewer : Link) (slot : Fin 128) (s : State) : Result :=
  let n := hewer.val
  let k := slot.val
  .next (ucRun n k 0x20 (fun w h s =>
    let opc := ucImm w % 256
    let control := decide (opc = 0x28 ∨ opc = 0x29 ∨ opc = 0x2A)
    let h := if opc = h.opcode then { h with sent := true } else h
    let t := if control then h.regs.getD 0 0 % 128 else k
    hewNote n (sendPacket n opc h.die t (sendControl n opc t (s.putHeld n k h)))) s.begin)

/-- UC_WAITC (R249): the member's completion code, or the timeout condition. -/
def execUcWaitc (hewer : Link) (slot : Fin 128) (answer : Option (BitVec 8)) (s : State) : Result :=
  .next (ucRun hewer.val slot.val 0x21 (fun _ h s => s.putHeld hewer.val slot.val (match answer with
    | some c => { h with member := c.toNat, timedOut := false }
    | none => { h with timedOut := true })) s.begin)

/-- UC_XFER (R249): outbound, the code words of BUF leave for the link; inbound, they arrive with the member's packets. -/
def execUcXfer (hewer : Link) (slot : Fin 128) (s : State) : Result :=
  let n := hewer.val
  let k := slot.val
  .next (ucRun n k 0x22 (fun w h s =>
    let s := s.putHeld n k h
    if bitOf (ucImm w) 0 then sendProgData n k h s else s) s.begin)

/-- UC_SUSPT (R249, R250). -/
def execUcSuspt (hewer : Link) (slot : Fin 128) (s : State) : Result :=
  .next (ucRun hewer.val slot.val 0x23 (fun w h s =>
    match ucCond s hewer.val h (ucSrc w) with
    | none => ucError hewer.val slot.val s
    | some c => (s.putHeld hewer.val slot.val (if c then ucPush h (ucImm w) else h)).drawn) s.begin)

/-- UC_TIMER (R249). -/
def execUcTimer (hewer : Link) (slot : Fin 128) (s : State) : Result :=
  .next (ucRun hewer.val slot.val 0x24 (fun _ h s => s.putHeld hewer.val slot.val { h with runUs := 0 }) s.begin)

/-- UC_DONE (R249, R224): STATUS = SRC; the descriptor completes. -/
def execUcDone (hewer : Link) (slot : Fin 128) (s : State) : Result :=
  let n := hewer.val
  let k := slot.val
  .next (ucRun n k 0x3E (fun w h s =>
    let s' := s.drawn.drawn.drawn
    hewComplete n k (s.drawn.draw (2 ^ 32)) (s.drawn.drawn.draw (2 ^ 32))
      { h with status := ucReg s h (ucSrc w) % 2 ^ 16, ended := true } s') s.begin)

/-- UC_TRAP (R249): TRAP, and any OP value that is no opcode, ends the sequence with UCODE_ERR. -/
def execUcTrap (hewer : Link) (slot : Fin 128) (s : State) : Result :=
  .next (ucRunIf hewer.val slot.val (fun o => decide (o ∉ ucOpcodes)) (fun _ _ s => ucError hewer.val slot.val s) s.begin)

/-! ### Mode epochs (R258 to R262) -/

/-- The kind's number (R260). -/
def epochNo (k : EpochKind) : Nat := match k with | .retryTable => 1 | .seal => 2 | .codeRate => 3

/-- Hewers acknowledged and excused, as the register shows them (R264): one whose link is down is excused. -/
def epochNote (s : State) : State :=
  match s.ucs.epoch with
  | none => s
  | some e =>
    let down := (List.range 512).filter (fun n => !linkUp s n && decide (n ∉ e.acked))
    (s.wr F.UCS_EPOCH_STAT_ACKED e.acked.length).wr F.UCS_EPOCH_STAT_EXCUSED down.length

/-- A ladder pins the idle retry bank (R206, R260). -/
def idleBankPinned (s : State) : Bool :=
  s.ldpc.ladders.any (fun e => decide (e.2.bank = some (1 - s.rd F.LDPC_RRT_CTL_BANK) ∧ e.2.result = 0))

/-- The retry set of the firmware image that is running (R206). -/
def fwRetry (s : State) : Option RetrySet := (if s.upd.running = 1 then s.upd.fw1 else s.upd.fw2).bind FwImage.retry

/-- A set has class-0 tables for both modes (R206). -/
def retrySetOk (r : RetrySet) : Bool :=
  (retryList r).any (fun t => decide (t.cls = 0) && !t.slc) && (retryList r).any (fun t => decide (t.cls = 0) && t.slc)

/-- The state that the seal's inputs, its fault and SOFT ask for (R565): sealed while any of them holds. -/
def sealTarget (s : State) : Bool := s.sea.agreed || s.sea.fault || s.sea.soft

/-- Open an epoch (R258, R260, R261): a CODE_RATE prepare is refused; one that meets an open epoch waits; a RETRY_TABLE
prepare installs the new set into the idle retry bank, once no ladder pins it. -/
def epochPrepare (kind : EpochKind) (checkOk : Bool) (s : State) : State :=
  let close := fun (err : Nat) (s : State) =>
    ((s.wr F.UCS_EPOCH_PHASE 0).wr F.UCS_EPOCH_KIND (epochNo kind)).wr F.UCS_EPOCH_STAT_ERR err
  let opened := fun (s : State) =>
    epochNote ((((({ s with ucs := { s.ucs with epoch := some { kind := kind } } }).wr F.UCS_EPOCH_PHASE 1).wr
      F.UCS_EPOCH_KIND (epochNo kind)).wr F.UCS_EPOCH_STAT_ERR 0))
  if s.ucs.epoch.isSome then
    match kind with
    | .seal => { s with ucs := { s.ucs with sealReq := true } }
    | .retryTable => { s with ucs := { s.ucs with retryReq := true } }
    | .codeRate => s.wr F.UCS_EPOCH_STAT_ERR 3
  else
    match kind with
    | .codeRate => close 3 s
    | .seal =>
      let s := { s with sea := { s.sea with pending := some (sealTarget s) } }
      opened { s with ucs := { s.ucs with sealReq := false } }
    | .retryTable =>
      if idleBankPinned s then { s with ucs := { s.ucs with retryReq := true } }
      else
        let s := { s with ucs := { s.ucs with retryReq := false } }
        match fwRetry s with
        | none => close 4 s
        | some r =>
          if checkOk = false ∨ retrySetOk r = false then close 4 s
          else if s.rd F.LDPC_RRT_CTL_BANK = 0 then opened { s with ldpc := { s.ldpc with rrtB := some r } }
          else opened { s with ldpc := { s.ldpc with rrtA := some r } }

/-- EPOCH_PREPARE (R258): by device firmware only. -/
def execEpochPrepare (kind : EpochKind) (checkOk : Bool) (s : State) : Result :=
  .next (epochPrepare kind checkOk (powerWaitBusy s.begin))

/-- EPOCH_APPLY_ACK (R258, R260): apply starts with the first acknowledgement; each unit named for the kind acknowledges
once. The ladder control's acknowledgement opens the mixed interval of the retry banks. -/
def execEpochApplyAck (unit : EpochUnit) (s : State) : Result :=
  let s := s.begin
  .next (match s.ucs.epoch with
    | none => s
    | some e =>
      let s := s.wr F.UCS_EPOCH_PHASE 2
      let s := if e.kind = .retryTable then s.wr F.LDPC_RRT_CTL_MIXED 1 else s
      match unit with
      | .hewer n =>
        if linkUp s n.val then epochNote { s with ucs := { s.ucs with epoch := some { e with acked := addNew n.val e.acked } } } else s
      | .ladderControl => if e.kind = .retryTable then { s with ucs := { s.ucs with epoch := some { e with unitAck := true } } } else s
      | .nvqIntake => if e.kind = .seal then { s with ucs := { s.ucs with epoch := some { e with unitAck := true } } } else s)

/-- Every unit has acknowledged or is excused (R258). -/
def epochReady (s : State) (e : Epoch) : Bool :=
  e.unitAck && (List.range 512).all (fun n => decide (n ∈ e.acked) || !linkUp s n)

/-- A prepare that met an open epoch opens its own when that one has closed (R261). -/
def epochWaiting (s : State) : State :=
  if s.ucs.epoch.isSome then s
  else if s.ucs.sealReq then epochPrepare .seal true s
  else if s.ucs.retryReq then epochPrepare .retryTable true s
  else s

/-- EPOCH_COMMIT (R258, R260, R261, R562): CUR advances; a RETRY_TABLE epoch flips the live retry bank and discards learned
vectors; a SEAL epoch puts the latched seal state in force. -/
def execEpochCommit (s : State) : Result :=
  let s := s.begin
  .next (epochWaiting (match s.ucs.epoch with
    | none => s
    | some e =>
      if epochReady s e = false then s
      else
        let s := (s.wr F.UCS_EPOCH_CUR (s.rd F.UCS_EPOCH_CUR + 1)).wr F.UCS_EPOCH_PHASE 0
        let s := { s with ucs := { s.ucs with epoch := none } }
        match e.kind with
        | .retryTable =>
          let s := (s.wr F.LDPC_RRT_CTL_BANK (1 - s.rd F.LDPC_RRT_CTL_BANK)).wr F.LDPC_RRT_CTL_MIXED 0
          { s with ldpc := { s.ldpc with learned := [] } }
        | .seal =>
          let v := s.sea.pending.getD s.sea.sealed
          let old := s.sea.sealed
          let s := { s with sea := { s.sea with sealed := v, pending := none } }
          let s := s.wrB F.SEAL_STAT_SEALED v
          if v = old then s else (peatRecord 0x0501 (b2n v) 0 0 s).wr F.SEAL_EVT_CHANGE 1
        | .codeRate => s))

end Sys2Proof.Machine
end

