-- ==== Sys2Proof/Machine/Twima.lean ====
section
/-! DEFINITION. The Twima image: its checks, live re-application of one lot, Expert level (chapter "The Twima image"). -/

namespace Sys2Proof.Machine

open Sys2Proof

/-! ### Checks (R43, R44, R663) -/

/-- 0x01 FORMAT: the container alone (R36, R37, R38): magic, version, counts, reserved fields, the directory's order, and a length
within 16 MiB and within what the slot holds (log entry 87). -/
def formatOk (i : TwimaImage) : Bool :=
  decide (i.magic = 0x414D5754#32) && decide (i.format = 1#16) && decide (i.lotCount = 13) && decide (i.partId = 0x53578512#64) &&
    decide (i.imageLen ≤ 16777216 ∧ i.imageLen ≤ i.held ∧ 64 + 104 ≤ i.imageLen) && decide (i.reserved = 0 ∧ i.sigRes = 0) && dirOk i

/-- The link of a member under a STRUCT lot: the reference weaving where the lot lists none (log entry 6). -/
def structLink (t : StructLot) (k : Nat) : Nat := ((t.members.find? (fun e => decide (e.1 = k))).map Prod.snd).getD k

/-- The PLL group of a link under a STRUCT lot. -/
def structGroup (t : StructLot) (l : Nat) : Nat :=
  ((t.lanes.find? (fun e => decide (e.1 = l))).map Prod.snd).getD (l % 16 * 32 + l / 16) / 32

/-- The links of a fen. -/
def structLinks (t : StructLot) (f : Nat) : List Nat := (List.range 32).map (fun i => structLink t (32 * f + i))

/-- No element twice. -/
def noDup (l : List Nat) : Bool := decide l.Nodup

/-- 0x07 GEOMETRY. -/
def geometryOk (t : StructLot) : Bool :=
  t.layoutOk && (t.members.isEmpty || decide (t.members.length = 32 * t.fens)) && decide (t.k ∈ [24, 26, 20]) && decide (1 ≤ t.fens ∧ t.fens ≤ 16) && decide (3 ≤ t.stockPct ∧ t.stockPct ≤ 20) &&
    noDup (t.members.map Prod.fst) && t.members.all (fun e => decide (e.1 < 32 * t.fens ∧ e.2 < 512)) &&
    (t.members.isEmpty || noDup ((List.range (32 * t.fens)).map (structLink t)))

/-- The most members of a fen that one PLL group may carry (R44). -/
def weavingLimit (t : StructLot) : Nat := if t.k = 20 then 4 else 2

/-- 0x08 WEAVING. -/
def weavingOk (t : StructLot) : Bool :=
  (List.range t.fens).all (fun f => (List.range 16).all (fun g =>
    decide (((structLinks t f).filter (fun l => decide (structGroup t l = g))).length ≤ weavingLimit t)))

/-- The maximum of a clock domain in kHz: 0 fabric, 1 control cores, 2 cipher, 3 LDPC. -/
def clockMax (d : Nat) : Nat := if d = 0 then 1600000 else if d = 1 then 2000000 else 1500000

/-- 0x09 CLOCK. -/
def clockOk (c : ClockLot) : Bool := c.layoutOk && c.pllOk && c.freqs.all (fun e => decide (e.2 ≤ clockMax e.1))

/-- 0x0A HOST_LIMIT. -/
def hostLimitOk (i : TwimaImage) : Bool :=
  let h := i.hostfn
  let n := i.nvmectl
  let portVfs : Nat → Nat := fun p => (h.pfs.filter (fun e => decide (e.1 / 8 = p))).foldl (fun a e => a + e.2.vfs) 0
  let pairs : Nat := n.ctrls.foldl (fun a c => a + c.qpairs) 0
  let nsOk := fun (l : List Nat) => l.all (fun x => decide (1 ≤ x ∧ x ≤ 4096))
  h.layoutOk && n.layoutOk && decide (n.ctrls.length ≤ 1024) && decide (pairs ≤ 8192) &&
    n.ctrls.all (fun c => decide (c.vectors ≤ 2048) && nsOk c.attach) && n.hosts.all (fun x => nsOk x.attach) &&
    (List.range 4).all (fun p => decide (portVfs p ≤ 127)) && h.split.all (fun p => decide (p < 4)) &&
    h.ethModes.all (fun e => decide (e.1 < 8 ∧ 1 ≤ e.2 ∧ e.2 ≤ 3))

/-- Two half-open ranges meet. -/
def meets (a la b lb : Nat) : Bool := decide (a < b + lb ∧ b < a + la)

/-- The reserved ranges of the register window (R19), as (base, length). -/
def reservedRanges : List (Nat × Nat) := [(0x800000, 0x800000), (0xC000000, 0x4000000), (0x20000000, 0x20000000)]

/-- 0x0B WINDOW (R426). -/
def windowsOk (i : TwimaImage) : Bool :=
  let ws := i.windows.2
  let size := fun (w : WindowEntry) => 2 ^ w.sizeLog2
  let bar : WindowEntry → Nat := fun w => ((i.hostfn.pfs.find? (fun e => decide (e.1 = 4 * w.link + w.func))).map (fun e => e.2.winLog2)).getD 0
  let one := fun (w : WindowEntry) =>
    decide (w.link < 8 ∧ w.func < 4 ∧ 1 ≤ w.index ∧ w.index ≤ 15 ∧ 12 ≤ w.sizeLog2 ∧ w.sizeLog2 ≤ 30) &&
      decide (w.barOff % size w = 0 ∧ w.target % size w = 0) && !meets w.barOff (size w) 0 4096 &&
      decide (bar w ≠ 0 ∧ w.barOff + size w ≤ 2 ^ bar w) && decide (w.target + size w ≤ 2 ^ 30) &&
      reservedRanges.all (fun r => !meets w.target (size w) r.1 r.2)
  let apart := fun (a b : WindowEntry) =>
    !(decide (a.link = b.link ∧ a.func = b.func) && (decide (a.index = b.index) || meets a.barOff (size a) b.barOff (size b)))
  i.windows.1 && decide (ws.length ≤ 1020) && ws.all one && decide (ws.Pairwise (fun a b => apart a b = true))

/-- Some triple matches both rules. -/
def rulesMeet (a b : ClassRule) : Bool :=
  let o := fun (x y : Option Nat) => x.isNone || y.isNone || decide (x = y)
  o a.cntlid b.cntlid && o a.sqid b.sqid && o a.nsid b.nsid

/-- The classes that a lot names; class 0 always (R393). -/
def namedClasses (l : SluiceLot) : List Nat :=
  (0 :: l.classes.map ClassRec.cls ++ l.rules.map ClassRule.cls ++ l.homes.map Prod.snd).eraseDups

/-- 0x0C SLUICE (R393). -/
def sluiceOk (l : SluiceLot) : Bool :=
  let sum : Nat := (namedClasses l).foldl (fun a c => a + (recOf l c).dieGuar + (recOf l c).refreshCr) 0
  l.layoutOk && decide (l.classes.length ≤ 256) && noDup (l.classes.map ClassRec.cls) &&
    decide (l.rules.Pairwise (fun a b => (!rulesMeet a b || decide (a.cls = b.cls)) = true)) && decide (sum ≤ 1000)

/-- 0x0D ENGINE: reserved shares against the pools of 32 soft decoders, 80 cipher pipes, 160 GHASH lanes, 96 DMA channels. -/
def engineOk (e : EngineLot) : Bool :=
  e.layoutOk && decide (e.hostRes ≤ 32 ∧ e.hostPipes ≤ 80 ∧ e.hostLanes ≤ 160) && noDup (e.chans.map ChanRec.chan) &&
    e.chans.all (fun c => decide (c.chan < 96 ∧ c.port < (if c.eth then 32 else 8)))

/-- A master identity that R522 and HOSTFN define. -/
def masterDefined (h : HostfnLot) (m : Nat) : Bool :=
  decide (m ≤ 10) || decide (0x20 ≤ m ∧ m ≤ 0x26) || decide (m = 0x30) ||
    (decide (0x40 ≤ m) && h.pfs.any (fun e => decide (e.1 = m - 0x40 ∧ e.2.winLog2 ≠ 0)))

/-- 0x0E MAILBOX. -/
def mailboxOk (i : TwimaImage) : Bool :=
  i.mbxlock.layoutOk && decide (i.mbxlock.binds.length ≤ 256) && noDup (i.mbxlock.binds.map Prod.fst) &&
    i.mbxlock.binds.all (fun b => decide (b.1 < 256) && masterDefined i.hostfn b.2.1 && masterDefined i.hostfn b.2.2)

/-- 0x0F UCODE: addresses inside a bank and a clean SEC-DED check of every word (R252). -/
def ucodeOk (u : UcodeLot) : Bool :=
  u.layoutOk && u.words.all (fun e => decide (e.1 < 16 ∧ e.2.1 < 2 ∧ e.2.2.1 < 8192) &&
    decide (ucFetchWord e.2.2.2 = .good (e.2.2.2 % 2 ^ 32)))

/-- 0x10 HOLDUP: the limit in 1 to 32 GiB, the declared energy at least E_req with all 512 links at rate 1 (R555). -/
def holdupOk (i : TwimaImage) : Bool :=
  let p := i.power
  p.layoutOk && decide (1024 ≤ p.limitMiB ∧ p.limitMiB ≤ 32768) && decide (p.htHours ≤ 720) &&
    decide (eReq i.struct_.k ((p.limitMiB + 255) / 256) 1024 p.pM ≤ p.eDecl * 1000000)

/-- The mask bits of a register that a REGINIT entry may select: those of fields that are neither RO nor RC. -/
def writableBits (r : Reg) : Nat :=
  (r.fields.filter (fun f => decide (f.acc ≠ .ro ∧ f.acc ≠ .rc))).foldl (fun a f => a ||| ((2 ^ f.width - 1) * 2 ^ f.lsb)) 0

/-- 0x11 INIT_TARGET. -/
def reginitOk (r : ReginitLot) : Bool :=
  r.layoutOk && r.entries.all (fun e =>
    match locate e.1 with
    | none => false
    | some (x, _) => decide (e.2.2 &&& (0xFFFFFFFF - writableBits x) = 0))

/-- 0x16 TEMPLATE. -/
def templateOk (n : NstplLot) : Bool :=
  n.layoutOk && decide (n.templates.length ≤ 64) && n.templates.all (fun t =>
    decide (t.csi = 0 ∨ t.csi = 2) && decide (9 ≤ t.leafShift ∧ t.leafShift ≤ 16) && decide (t.mar ≤ 4095 ∧ t.mor ≤ 4095) &&
      decide (1 ≤ t.anagrp ∧ t.anagrp ≤ 16))

/-- 0x17 SECURITY. -/
def securityOk (x : SecurityLot) : Bool := x.layoutOk && x.expertKey.isSome && x.custodianKey.isSome && decide (10 ≤ x.idle ∧ x.idle ≤ 3600)

/-- The lot types of R40. -/
def lotTypesAll : List Nat := [1, 2, 3, 4, 5, 6, 7, 8, 9, 10, 11, 12, 13]

/-- Every lot type once. -/
def lotSetOk (l : List Nat) : Bool := decide (l.length = 13) && lotTypesAll.all (fun t => decide (t ∈ l))

/-- Where the body of a lot stands in an image. -/
def lotOffset (i : TwimaImage) (lot : Nat) : Nat := ((i.dir.find? (fun e => decide (e.type = lot))).map DirEntry.off).getD 0

/-- Two directory entries of one place are as R49 lets them be: the named lot's may differ in length, offset and digest, those placed
after it in their offset. -/
def entryScope (run : TwimaImage) (lot : Nat) (a b : DirEntry) : Bool :=
  decide (a.type = b.type) && (decide (a.type = lot) || (decide (a.len = b.len ∧ a.digest = b.digest) &&
    (decide (a.off = b.off) || decide (lotOffset run lot < a.off))))

/-- 0x12 LOT_SCOPE (R49): nothing but the named lot, the offsets of those after it, SERIAL, BUILD_TIME, IMAGE_LEN and the signature
differs. -/
def scopeOk (run new_ : TwimaImage) (lot : Nat) : Bool :=
  decide (run.magic = new_.magic ∧ run.format = new_.format ∧ run.lotCount = new_.lotCount ∧ run.partId = new_.partId ∧
    run.bind = new_.bind ∧ run.reserved = new_.reserved ∧ run.dir.length = new_.dir.length) &&
    (run.dir.zip new_.dir).all (fun e => entryScope run lot e.1 e.2)

/-- The vectors that a controller uses. -/
def vectorsUsed (c : Ctrl) : Nat := (c.cqs.filter (fun e => e.2.ien)).foldl (fun m e => max m (e.2.vector + 1)) 0

/-- 0x13 BUDGET_IN_USE: NVMECTL lowers a budget below what is in use, or SLUICE removes a class that holds admitted work. -/
def budgetFree (s : State) (new_ : TwimaImage) (lot : Nat) : Bool :=
  if lot = 5 then
    s.nvq.ctrls.all (fun e =>
      match e.2.port with
      | .pcie l =>
        (match new_.nvmectl.ctrls.find? (fun b => decide (b.link = l.val ∧ b.func = e.2.func)) with
         | some b => decide (queuePairs e.2 ≤ b.qpairs ∧ vectorsUsed e.2 ≤ b.vectors)
         | none => true)
      | .eth _ =>
        (match new_.nvmectl.hosts.find? (fun h => decide (h.nqn = e.2.hostNqn)) with
         | some h => decide (queuePairs e.2 ≤ h.qpairs)
         | none => true))
  else if lot = 7 then
    let gone := (namedClasses s.image.sluice).filter (fun c => decide (c ≠ 0 ∧ c ∉ namedClasses new_.sluice))
    s.nvq.slots.all (fun e => !(decide (e.2.state = .admitted) && decide (e.2.cls ∈ gone)))
  else true

/-- The checks of R43 up to the live ones, in order: the code of the first that fails, 0 for none. -/
def imageCheck (s : State) (i : TwimaImage) : Nat :=
  let l : List (Nat × Bool) :=
    [(0x01, formatOk i), (0x02, decide (i.bind = 0 ∨ i.bind = s.cfg.serial)), (0x03, s.cfg.keyOk && sigOk s.cfg.signKey i), (0x04, decide (s.cfg.floor ≤ i.serial)),
     (0x05, digestsOk i), (0x06, lotSetOk (lotTypes i)), (0x07, geometryOk i.struct_), (0x08, weavingOk i.struct_),
     (0x09, clockOk i.clock), (0x0A, hostLimitOk i), (0x0B, windowsOk i), (0x0C, sluiceOk i.sluice), (0x0D, engineOk i.engine),
     (0x0E, mailboxOk i), (0x0F, ucodeOk i.ucode), (0x10, holdupOk i), (0x11, reginitOk i.reginit)]
  ((l.find? (fun e => !e.2)).map Prod.fst).getD 0

/-- The last checks of the table. -/
def imageTail (i : TwimaImage) : Nat := if templateOk i.nstpl = false then 0x16 else if securityOk i.security = false then 0x17 else 0

/-- Every check of an image at boot. -/
def bootCheck (s : State) (i : TwimaImage) : Nat := let c := imageCheck s i; if c ≠ 0 then c else imageTail i

/-- Every check of a staged image for a live re-apply. -/
def liveCheck (s : State) (i : TwimaImage) (lot : Nat) : Nat :=
  let c := imageCheck s i
  if c ≠ 0 then c
  else if scopeOk s.image i lot = false then 0x12
  else if budgetFree s i lot = false then 0x13
  else imageTail i

/-! ### A live re-apply (R48 to R54) -/

/-- The lots that may be re-applied live (R40). -/
def liveLots : List Nat := [0x04, 0x05, 0x06, 0x07, 0x08, 0x0A, 0x0C, 0x0D]

/-- The cases of R50, in order: 0 for none. -/
def startRefusal (s : State) (lot : Nat) : Nat :=
  if lot ∉ liveLots then 0x06
  else if nvqSealed s then 0x14
  else if s.nvq.act ≠ 0 ∨ s.ucs.epoch.isSome then 0x15
  else 0

/-- START (R48, R50, R51, R54): the staged image is checked and the lot loaded into shadow state; a POWER re-apply that
raises the dirty limit waits for a hold-up test. -/
def lotStart (p : AccessPath) (lot : Nat) (s : State) : State :=
  if s.cfg.reapply.isSome then peatRecord 0x0303 (violator s p) lot 0 s
  else
    let e := startRefusal s lot
    if e ≠ 0 then lotDone lot 5 e s
    else
      let s := (((s.wr F.CFG_STATUS_LOT_BUSY 1).wr F.CFG_LOT_STAT_LOT_TYPE lot).wr F.CFG_LOT_STAT_STATE 1).wr F.CFG_LOT_STAT_ERR 0
      match s.cfg.slots.find (twimaStaging s) with
      | none => lotDone lot 5 0x01 (peatRecord 0x0301 2 0x01 0 s)
      | some i =>
        let c := liveCheck s i lot
        if c ≠ 0 then lotDone lot 5 c (peatRecord 0x0301 2 c 0 s)
        else
          let wait := decide (lot = 0x0D) && decide (s.image.power.limitMiB < i.power.limitMiB)
          let s := { s with cfg := { s.cfg with reapply := some { lot := lot, image := i, waitHt := wait } } }
          if wait then ({ s with pwr := { s.pwr with htReq := true } }.wr F.CFG_LOT_STAT_STATE 6).wr F.PWR_EVT_HT_REQ 1
          else s.wr F.CFG_LOT_STAT_STATE 2

/-- LOT_REAPPLY_START (R61): the lot that CFG_LOT_CTL.LOT_TYPE names. -/
def execLotReapplyStart (path : AccessPath) (s : State) : Result :=
  .next (lotStart path (s.rd F.CFG_LOT_CTL_LOT_TYPE) s.begin)

/-- The words of a UCODE lot for a fen's bank. -/
def lotWords (u : UcodeLot) (f bank : Nat) : List (Nat × Nat) :=
  (u.words.filter (fun e => decide (e.1 = f ∧ e.2.1 = bank))).map (fun e => e.2.2)

/-- Write a bank and its master copy from a lot (R48, R253). -/
def writeBank (u : UcodeLot) (f bank : Nat) (s : State) : State :=
  let lo := 8192 * f
  let drop := fun (t : Tab Nat) (base : Nat) => t.filter (fun e => decide (e.1 < base ∨ base + 8192 ≤ e.1))
  let m := 16384 * f + 8192 * bank
  let s := { s with ucs := { s.ucs with masters := drop s.ucs.masters m } }
  let s := if bank = 0 then { s with ucs := { s.ucs with bankA := drop s.ucs.bankA lo } }
    else { s with ucs := { s.ucs with bankB := drop s.ucs.bankB lo } }
  eachOf (lotWords u f bank) (fun e s => putMaster f bank e.1 (e.2 % 2 ^ 32) (ucPutWord f bank e.1 e.2 s)) s

/-- The idle banks of every store are written from the lot's bodies for those banks (R48, R40 UCODE). -/
def writeIdleBanks (u : UcodeLot) (s : State) : State :=
  eachOf (List.range 16) (fun f s => writeBank u f (1 - s.rd F.UCS_BANK_LIVE f) s) s

/-- The re-apply may commit: a UCODE one waits while a store's PENDING is 1 (R48), a POWER one for its test, or until dirty
data is below a lowered limit (R54). -/
def mayCommit (s : State) (r : Reapply) : Bool :=
  !r.waitHt && !r.committed && (decide (r.lot ≠ 0x0A) || storesSettled s) &&
    (decide (r.lot ≠ 0x0D ∨ s.image.power.limitMiB ≤ r.image.power.limitMiB) || decide (dirtyUnits s < 256 * r.image.power.limitMiB))

/-- The lot is in force (R40 column "Effect of a live re-apply"). -/
def lotInForce (lot : Nat) (i : TwimaImage) (s : State) : State :=
  if lot = 0x04 then { s with hif := { s.hif with windows := i.windows.2 } }
  else if lot = 0x05 then resNote i.nvmectl s
  else if lot = 0x07 then logClamps i.sluice { s with slu := { s.slu with pendLot := some i.sluice } }
  else if lot = 0x0A then eachOf (List.range 16) askSwitch s
  else if lot = 0x0C then closeAllExpert s
  else if lot = 0x0D then limitNote s
  else s

/-- A SECURITY re-apply that changes the Custodian key closes a session that it opened (R598). -/
def keyChange (old new_ : TwimaImage) (s : State) : State :=
  if s.cus.isOpen = true ∧ old.security.custodianKey ≠ new_.security.custodianKey then closeSession s else s

/-- Commit the running re-apply (R48): the slot record makes the staged image primary; then the lot is in force. -/
def lotCommit (r : Reapply) (s : State) : State :=
  let s := if r.lot = 0x0A then writeIdleBanks r.image.ucode s else s
  let s := commitSlots (s.wr F.CFG_LOT_STAT_STATE 3)
  let s := if r.lot = 0x0C then keyChange s.image r.image s else s
  let s := ({ s with cfg := { s.cfg with run := some r.image } }).wr F.CFG_SERIAL_SERIAL r.image.serial
  let s := lotInForce r.lot r.image s
  if r.lot = 0x0A then ucodeNote { s with cfg := { s.cfg with reapply := some { r with committed := true } } }
  else lotDone r.lot 4 0 s

/-- LOT_COMMIT (R48). -/
def execLotCommit (s : State) : Result :=
  let s := s.begin
  .next (match s.cfg.reapply with
    | none => s
    | some r => if mayCommit s r then lotCommit r s else s)

/-- POWER_REAPPLY_TIMEOUT (R54): 24 h after HT_REQ without a pass. -/
def execPowerReapplyTimeout (s : State) : Result :=
  let s := s.begin
  .next (if s.cfg.reapply.any Reapply.waitHt then lotRefuse 0x10 s else s)

/-- A hold-up test has ended (R54): a pass lets the waiting re-apply commit, any other end refuses it. -/
def powerWaitEnds (pass : Bool) (s : State) : State :=
  match s.cfg.reapply with
  | none => s
  | some r =>
    if r.waitHt = false then s
    else if pass then lotCommit { r with waitHt := false } { s with cfg := { s.cfg with reapply := some { r with waitHt := false } } }
    else lotRefuse 0x10 s

/-! ### Expert level (R55 to R59) -/

/-- EXPERT_KEY_WRITE (R56): on the Custodian port, GLB_EXPERT_KEY is written through the window of an open session; without one the
write is ignored and recorded (R593, R594). -/
def execExpertKeyWrite (path : AccessPath) (word : Word) (s : State) : Result :=
  let s := s.begin
  .next (if path = .custodian ∧ s.cus.isOpen = false then accessViolation path 0x48 s else expertKeyWrite path word.toNat s)

/-- EXPERT_NONCE_TIMER (R56): every 60 s. -/
def execExpertNonceTimer (path : AccessPath) (s : State) : Result :=
  .next (match pathKey path with
    | some k => renewNonce k s.begin
    | none => s.begin)

/-- EXPERT_IDLE_TIMEOUT (R57). -/
def execExpertIdleTimeout (path : AccessPath) (s : State) : Result :=
  .next (match pathKey path with
    | some k => closeExpert k s.begin
    | none => s.begin)

/-- EXPERT_LOCKOUT_END (R57): 60 s. -/
def execExpertLockoutEnd (path : AccessPath) (s : State) : Result :=
  .next (match pathKey path with
    | some k => putExpert k { (expertOf s.begin k) with lockout := false } s.begin
    | none => s.begin)

/-- GLB_EXPERT_STAT.CLOSE written (R57). -/
def execExpertClose (path : AccessPath) (s : State) : Result :=
  .next (match pathKey path with
    | some k => closeExpert k s.begin
    | none => s.begin)

end Sys2Proof.Machine
end

