-- ==== Sys2Proof/Machine/Power.lean ====
section
/-! DEFINITION. Power failure, the flush, the hold-up test and the seal (chapter "Power loss, hold-up and the seal"). -/

namespace Sys2Proof.Machine

open Sys2Proof

/-! ### The power-fail inputs (R546 to R549) -/

/-- An input is low. -/
def pfLow (s : State) (i : PfInput) : Bool := match i with | .a => s.pwr.lowA | .b => s.pwr.lowB

def setPf (i : PfInput) (v : Bool) (s : State) : State :=
  match i with
  | .a => { s with pwr := { s.pwr with lowA := v } }
  | .b => { s with pwr := { s.pwr with lowB := v } }

/-- PFAIL_A and PFAIL_B of PWR_STAT. -/
def pfField (i : PfInput) : Field := match i with | .a => F.PWR_STAT_PFAIL_A | .b => F.PWR_STAT_PFAIL_B

/-- The input's number in Peat entries. -/
def pfNo (i : PfInput) : Nat := match i with | .a => 0 | .b => 1

/-- Both inputs are high. -/
def pfHigh (s : State) : Bool := !s.pwr.lowA && !s.pwr.lowB

/-- The gap recorded where the other input has not fallen (R547). -/
def gapNever : Nat := 0xFFFFFFFF

/-- The disagreement is recorded with its gap (R547). -/
def pfDisagree (gap : Nat) (s : State) : State :=
  (peatRecord 0x0402 s.pwr.first gap 0 { s with pwr := { s.pwr with agree := 4 } }).wr F.PWR_EVT_DISAGREE 1

/-- PFAIL_INPUT_FALL (R546, R547): after the decision, the other input agrees within the window; later, the gap is recorded. -/
def execPfailInputFall (input : PfInput) (gapUs : Nat) (s : State) : Result :=
  let s := setPf input true s.begin
  .next (if s.pwr.decided = false then s
    else
      let s := s.wr (pfField input) 1
      if s.pwr.first = pfNo input then s
      else if s.pwr.agree = 1 ∧ gapUs ≤ 10 * s.rd F.PWR_PF_CTL_AGREE then { s with pwr := { s.pwr with agree := 2 } }
      else if s.pwr.agree = 1 ∨ s.pwr.agree = 3 then pfDisagree gapUs s
      else s)

/-- PFAIL_AGREE_TIMEOUT (R547): the window has passed and the other input has not fallen. -/
def execPfailAgreeTimeout (s : State) : Result :=
  let s := s.begin
  .next (if s.pwr.decided = true ∧ s.pwr.agree = 1 then
      ({ s with pwr := { s.pwr with agree := 3 } }).wr F.PWR_EVT_DISAGREE 1
    else s)

/-- PFAIL_INPUT_RISE (R546, R549, R560): a low shorter than FILTER is a glitch. A test that passed ends when both are high. -/
def execPfailInputRise (input : PfInput) (s : State) : Result :=
  let s := s.begin
  .next (if pfLow s input = false then s
    else
      let glitch := !s.isSet (pfField input)
      let s := (setPf input false s).wr (pfField input) 0
      let s := if glitch then s.count F.PWR_CNT_GLITCH_COUNT else s
      if pfHigh s = true ∧ s.rd F.PWR_HT_STAT_STATE ≠ 3 then { s with pwr := { s.pwr with ride := false } } else s)

/-- HALT leaves on every link with block lock (R284, R554): trained, training past ALIGN, or retraining past it. -/
def haltLinks (s : State) : State :=
  eachOf ((List.range 512).filter (fun l =>
      decide (seamState s l ∈ [4, 5, 6, 7, 11]) || (decide (seamState s l = 8) && decide (4 ≤ (s.link l).sub))))
    sendHalt s

/-- A hold-up test ends without a pass (R560): STATE, its event, and a re-apply that waits for it is refused (R54). -/
def htEnd (st : Nat) (s : State) : State := powerWaitEnds false ((s.wr F.PWR_HT_STAT_STATE st).wr F.PWR_EVT_HT_DONE 1)

/-- What stops at the decision (R54, R236, R411, R515, R554, R560): hewers halt, DMA channels stop, links send HALT; an armed
hold-up test is aborted. NVQ and Sluice follow DECIDED. -/
def pfStop (s : State) : State :=
  let s := eachOf (List.range 8) unpark (haltLinks (dmaAbandon (hewHalt s)))
  if s.rd F.PWR_HT_STAT_STATE = 1 then htEnd 6 s else s

/-- POWER_FAIL_DECISION (R546): an input has been low for FILTER, or both have within the same 0.1 µs. It cannot be withdrawn.
While a test is ready or rides none is taken (R559). -/
def execPowerFailDecision (input : PfInput) (both : Bool) (s : State) : Result :=
  let s := s.begin
  let st := s.rd F.PWR_HT_STAT_STATE
  let other := match input with | .a => PfInput.b | .b => PfInput.a
  .next (if s.pwr.decided = true ∨ pfLow s input = false ∨ (both = true ∧ pfLow s other = false) ∨ st = 2 ∨ st = 3 ∨ s.pwr.ride = true then s
    else
      let first := if both then 2 else pfNo input
      let s := (s.wr (pfField input) 1).wr F.PWR_STAT_DECIDED 1
      let s := if both then s.wr (pfField other) 1 else s
      let s := peatRecord 0x0401 first 0 0 s
      let p := { s.pwr with decided := true, first := first, agree := if both then 2 else if pfLow s other then 2 else 1,
                            flushing := true, pending := s.map.dirty.map Prod.fst }
      pfStop { s with pwr := p, cus := { s.cus with busy := none } })

/-! ### The flush (R550 to R554, R568) -/

/-- Runs of contiguous units of one tract among rising unit keys, as (first key, count) (R551). -/
def dirtyRuns (l : List Nat) : List (Nat × Nat) :=
  l.foldr (fun k acc =>
    match acc with
    | (a, n) :: rest => if k + 1 = a ∧ k / 262144 = a / 262144 then (k, n + 1) :: rest else (k, 1) :: (a, n) :: rest
    | [] => [(k, 1)]) []

/-- The loss records of every range still dirty are appended (R553) and programmed with the journal units (R550). -/
def flushRecords (s : State) : State :=
  let runs := dirtyRuns (s.map.dirty.map Prod.fst)
  makeDurable (eachOf runs (fun r s => journal (.lostRange { ltn := r.1 / 262144, off := 8 * (r.1 % 262144), len := 8 * r.2 }) s) s)

/-- Program the `i`-th flushed unit into a row of a reserve stripe (R552): each row in turn on the next stripe. -/
def flushUnit (i key : Nat) (s : State) : State :=
  let n := s.pwr.reserve.length
  let row := i / rowUnits s / max 1 n
  match s.pwr.reserve[i / rowUnits s % max 1 n]?, s.map.dirty.find key with
  | some id, some d => if row < 512 then putUnit id row (i % rowUnits s / 4) (i % 4) d.data (key / 262144) (key % 262144) s else s
  | _, _ => s

/-- The units that a flush can place: the reserve's rows. -/
def reserveUnits (s : State) : Nat := s.pwr.reserve.length * 512 * rowUnits s

/-- The flush record goes to always-on memory (R568), once the map is up. -/
def flushNote (complete : Bool) (units us : Nat) (s : State) : State :=
  if s.isSet F.MAP_STATUS_READY then
    (((s.wr F.PWR_FL_INFO_OCCURRED 1).wrB F.PWR_FL_INFO_COMPLETE complete).wr F.PWR_FL_UNITS_UNITS units).wr F.PWR_FL_TIME_US us
  else s

/-- The other input, if it has not fallen by the end of the flush, is recorded with a gap of all ones (R547). -/
def flushLate (s : State) : State := if s.pwr.agree = 1 ∨ s.pwr.agree = 3 then pfDisagree gapNever s else s

/-- The end of a flush (R554, R568): the flush record and the thermal counters are in always-on memory and the hewers are off. -/
def flushDone (complete : Bool) (units us : Nat) (s : State) : State :=
  let s := flushLate (hewOff (flushNote complete units us (thermalSave s)))
  { s with pwr := { s.pwr with flushing := false, pending := [] } }

/-- Flush the first `n` pending units. -/
def flushData (n : Nat) (s : State) : State := eachOf ((s.pwr.pending.take n).zipIdx) (fun e s => flushUnit e.2 e.1 s) s

/-- FLUSH_END (R554): every FLUSH descriptor has completed. Journal units first, then Peat entries, then data (R550). -/
def execFlushEnd (us : Nat) (s : State) : Result :=
  let s := s.begin
  .next (if s.pwr.flushing = false then s
    else
      let n := min s.pwr.pending.length (reserveUnits s)
      flushDone true n us (flushData n (peatArchiveAll 65536 (flushRecords s))))

/-- FLUSH_LIMIT_EXPIRY (R554, R561): 20.0 ms after t0 the flush ends with `units` written; whether the loss records were
programmed is the outside's word. -/
def execFlushLimitExpiry (units : Nat) (records : Bool) (s : State) : Result :=
  let s := s.begin
  .next (if s.pwr.flushing = false then s
    else
      let s := if records then peatArchiveAll 65536 (flushRecords s) else s
      let n := min units (min s.pwr.pending.length (reserveUnits s))
      flushDone false n 20000 (flushData n s))

/-- PFAIL_RESTART_TIMER (R549): both inputs high for RESTART after the flush: a power-on reset and a boot (cause 2, R628). -/
def execPfailRestartTimer (s : State) : Result :=
  let s := s.begin
  .next (if s.pwr.decided = true ∧ s.pwr.flushing = false ∧ pfHigh s = true then powerOnReset 2 0 false s else s)

/-! ### The hold-up test (R559, R560) -/

/-- Ask for a test (R559). -/
def htAsk (s : State) : State := { s with pwr := { s.pwr with htReq := true } }.wr F.PWR_EVT_HT_REQ 1

/-- HOLDUP_TEST_DUE (R559): the interval of the POWER lot has passed; 0 means no tests. -/
def execHoldupTestDue (s : State) : Result :=
  let s := s.begin
  .next (if s.image.power.htHours = 0 ∨ s.life.now < s.pwr.htDue then s else htAsk s)

/-- ARM (R559): the device starts to drain. While a test runs the write has no effect. -/
def htArm (s : State) : State :=
  let st := s.rd F.PWR_HT_STAT_STATE
  if (1 ≤ st ∧ st ≤ 3) ∨ s.pwr.decided = true then s
  else ({ s with pwr := { s.pwr with htReq := false } }.wr F.PWR_HT_STAT_STATE 1).wr F.PWR_HT_STAT_OVERDUE 0

/-- HT_ARM (R569). -/
def execHtArm (_path : AccessPath) (s : State) : Result := .next (htArm s.begin)

/-- CANCEL (R560, R569, R54): it aborts an armed test, and ends a re-apply that waits for one. -/
def htCancel (s : State) : State :=
  powerWaitEnds false (if s.rd F.PWR_HT_STAT_STATE = 1 ∨ s.rd F.PWR_HT_STAT_STATE = 2 then htEnd 6 s else s)

/-- HT_CANCEL (R569). -/
def execHtCancel (_path : AccessPath) (s : State) : Result := .next (htCancel s.begin)

/-- HT_READY (R559): dirty data is zero, the journal is programmed and the ring archived. -/
def execHtReady (s : State) : Result :=
  let s := s.begin
  .next (if s.rd F.PWR_HT_STAT_STATE = 1 ∧ dirtyUnits s = 0 then
      ((peatArchiveAll 65536 (makeDurable s)).wr F.PWR_HT_STAT_STATE 2).wr F.PWR_EVT_HT_READY 1
    else s)

/-- HT_RIDE_START (R559): an input falls within 10 s of READY. -/
def execHtRideStart (input : PfInput) (s : State) : Result :=
  let s := s.begin
  .next (if s.rd F.PWR_HT_STAT_STATE ≠ 2 then s
    else
      let s := setPf input true s
      ({ s with pwr := { s.pwr with ride := true, htMarks := 0 } }.wr F.PWR_HT_STAT_STATE 3).wr (pfField input) 1)

/-- HT_RIDE_MARK (R559): every 100 µs the ride time goes to always-on memory. -/
def execHtRideMark (s : State) : Result :=
  let s := s.begin
  .next (if s.rd F.PWR_HT_STAT_STATE = 3 then { s with pwr := { s.pwr with htMarks := s.pwr.htMarks + 1 } } else s)

/-- The life time at which the next test is due (R559). -/
def htNext (s : State) : Nat := s.life.now + 3600 * s.image.power.htHours

/-- HT_RIDE_PASS (R559): the ride reaches T_HT. Writes complete normally again; a waiting re-apply commits (R54). -/
def execHtRidePass (energyMj : Nat) (s : State) : Result :=
  let s := s.begin
  .next (if s.rd F.PWR_HT_STAT_STATE ≠ 3 then s
    else
      let s := ((s.wr F.PWR_HT_STAT_STATE 4).wr F.PWR_EVT_HT_DONE 1).wr F.PWR_HT_ENERGY_MJ energyMj
      let s := (peatRecord 0x0403 0 energyMj 0 s).wr F.PWR_STAT_HT_FAILED 0
      let s := powerWaitEnds true { s with pwr := { s.pwr with htFailed := false } }
      { s with pwr := { s.pwr with htDue := htNext s } })

/-- HT_INPUTS_RISE (R560): the inputs rise before T_HT: aborted, the previous result stands. -/
def execHtInputsRise (s : State) : Result :=
  let s := s.begin
  .next (if s.rd F.PWR_HT_STAT_STATE ≠ 3 then s
    else
      let s := (s.wr F.PWR_STAT_PFAIL_A 0).wr F.PWR_STAT_PFAIL_B 0
      htEnd 6 { s with pwr := { s.pwr with ride := false, lowA := false, lowB := false } })

/-- HT_READY_TIMEOUT (R560): no input has fallen within 10 s of READY. -/
def execHtReadyTimeout (s : State) : Result :=
  let s := s.begin
  .next (if s.rd F.PWR_HT_STAT_STATE = 2 then htEnd 6 s else s)

/-- HT_OVERDUE (R560): not armed within 24 h of HT_REQ. -/
def execHtOverdue (s : State) : Result :=
  let s := s.begin
  .next (if s.pwr.htReq then vendorNotice (s.wr F.PWR_HT_STAT_OVERDUE 1) else s)

/-- A test that rode when the rails collapsed has failed (R560): boot step 4 finds STATE 3, with the energy of the last 100 µs
mark: (P_F + P_M) × marks × 0.1 mJ per W. -/
def htBoot (s : State) : State :=
  if s.rd F.PWR_HT_STAT_STATE = 3 then
    let mj := (360 + s.image.power.pM) * s.pwr.htMarks / 10
    let s := ((s.wr F.PWR_HT_STAT_STATE 5).wr F.PWR_EVT_HT_DONE 1).wr F.PWR_HT_ENERGY_MJ mj
    let s := (peatRecord 0x0403 1 mj 0 s).wr F.PWR_STAT_HT_FAILED 1
    { s with pwr := { s.pwr with htFailed := true, htDue := htNext s } }
  else if s.rd F.PWR_HT_STAT_STATE = 5 then { s with pwr := { s.pwr with htFailed := true } }.wr F.PWR_STAT_HT_FAILED 1
  else s

/-! ### The seal (R562 to R566) -/

/-- The inputs agree on engaged, or on released (R562). -/
def sealEngaged (a b : Bool) : Bool := a && !b
def sealReleased (a b : Bool) : Bool := !a && b
def sealAgree (a b : Bool) : Bool := sealEngaged a b || sealReleased a b

/-- SEAL_STAT follows (R570). -/
def sealStat (s : State) : State :=
  let x := s.sea
  let s := ((s.wrB F.SEAL_STAT_A x.a).wrB F.SEAL_STAT_B x.b).wrB F.SEAL_STAT_AGREE (sealAgree x.a x.b)
  let s := (s.wrB F.SEAL_STAT_HW (sealEngaged x.a x.b)).wrB F.SEAL_STAT_FAULT x.fault
  s.wr F.SEAL_STAT_DISC_MS (min 2047 x.samples)

/-- A change of what the seal asks for is carried by a SEAL epoch (R260, R562, R565), once the host faces are up; before
that, boot step 8 takes the state. -/
def sealFollow (s : State) : State :=
  if s.boot.done = false ∨ s.sea.pending.getD s.sea.sealed = sealTarget s then s else epochPrepare .seal true (powerWaitBusy s)

/-- The discrepancy time is reached (R563): the fault latches. -/
def sealFault (s : State) : State :=
  let s := { s with sea := { s.sea with fault := true } }
  (peatRecord 0x0503 s.sea.mover s.sea.td 0 s).wr F.SEAL_EVT_FAULT 1

/-- The inputs agree again, after `samples` disagreeing ones (R563): a short disagreement that resolves to the previous agreed
state is recorded, any other agreement is the new agreed state. -/
def sealResolve (s : State) : State :=
  let new := sealEngaged s.sea.a s.sea.b
  let s := if 0 < s.sea.samples ∧ s.sea.samples < s.sea.td ∧ new = s.sea.agreed then
      (peatRecord 0x0502 s.sea.mover s.sea.samples 0 s).wr F.SEAL_EVT_DISCREPANCY 1
    else s
  { s with sea := { s.sea with agreed := new, samples := 0 } }

/-- One more disagreeing sample (R563): the first takes the discrepancy time and the input that moved. -/
def sealDisagree (s : State) : State :=
  let s := if s.sea.samples = 0 then
      (let m := if s.sea.a = s.sea.agreed then 1 else 0
       ({ s with sea := { s.sea with td := s.rd F.SEAL_CTL_DISC, mover := m } }).count F.SEAL_CNT_DISC_COUNT)
    else s
  let s := { s with sea := { s.sea with samples := s.sea.samples + 1 } }
  if s.sea.samples = s.sea.td then sealFault s else s

/-- One sample of the filtered inputs (R562, R563). -/
def sealSample (a b : Bool) (s : State) : State :=
  let s := { s with sea := { s.sea with a := a, b := b } }
  sealFollow (sealStat (if sealAgree a b then sealResolve s else sealDisagree s))

/-- SEAL_SAMPLE (R562). While the flush runs the inputs are ignored (R561). -/
def execSealSample (a b : Bool) (s : State) : Result :=
  let s := s.begin
  .next (if s.pwr.decided then s else sealSample a b s)

/-- CLEAR (R565): from a Custodian session, while both inputs agree. -/
def sealClear (p : AccessPath) (s : State) : State :=
  if p = .custodian ∧ sealAgree s.sea.a s.sea.b = true then
    sealFollow (sealStat { s with sea := { s.sea with fault := false } })
  else accessViolation p 0x500000 s

/-- SEAL_CLEAR (R565). -/
def execSealClear (path : AccessPath) (s : State) : Result := .next (sealClear path s.begin)

/-- SOFT (R565, R570): it engages or releases its own engagement; writes from other paths are ignored. -/
def sealSoft (p : AccessPath) (engage : Bool) (s : State) : State :=
  if p = .custodian then sealFollow ({ s with sea := { s.sea with soft := engage } }.wrB F.SEAL_CTL_SOFT engage) else s

/-- SEAL_SOFT (R565). -/
def execSealSoft (path : AccessPath) (engage : Bool) (s : State) : Result := .next (sealSoft path engage s.begin)

end Sys2Proof.Machine
end

