-- ==== Sys2Proof/Machine/BootMap.lean ====
section
/-! DEFINITION. What boot step 7 does: map recovery, the label walk, flush recovery, the off-interval and the flush reserve
(chapters "Tracts, stripes and the map", "The on-media format", "Power loss, hold-up and the seal", "Retention guardianship,
Dredge passes and health", "Clocks, resets and start-up"). -/

namespace Sys2Proof.Machine

open Sys2Proof

/-! ### Map recovery (R98) -/

/-- Replay records with a JSEQ above `j` in order. -/
def replay (j : Nat) (recs : List (Nat × JRec)) (c : MapCore) : MapCore :=
  (recs.filter (fun e => decide (j < e.1))).foldl (fun c e => applyRec e.2 c) c

/-- The map that the newest checkpoint and the journal give. -/
def recoveredCore (s : State) : MapCore :=
  match s.map.ckpts with
  | c :: _ => replay c.jseq s.map.durableJ c.core
  | [] => replay 0 s.map.durableJ {}

/-- A block's label is later than a checkpoint (R98, R139). -/
def laterLabel (c : Checkpoint) (b : Block) : Bool := b.labelled && decide (c.time < b.labelTime)

/-- Wear counters (R98): those of the checkpoint, plus 16, or 1 for an SLC-mode block, where the block's label is later. -/
def recoveredWear (c : Checkpoint) (k : Nat) (b : Block) : Nat :=
  let w := Tab.get 0 c.wear k
  if laterLabel c b then min 65535 (w + (if b.slc then 1 else 16)) else w

/-- A block's records after recovery (R98, R139): the retention record of one programmed after the checkpoint comes from its label, with
the member counter of the checkpoint, not measured and marked pessimistic; the others stand in the checkpoint. -/
def recoveredBlock (c : Checkpoint) (k : Nat) (b : Block) : Block :=
  let r := Tab.get {} c.retain k
  let b := { b with wear := recoveredWear c k b }
  if laterLabel c b then
    rebuiltRecord c.thermal (k / 1048576) b
  else { b with progTime := r.progTime, ageBase := r.ageBase, measRber := r.measRber, measAge := r.measAge, flags := r.flags }

/-- The member counters where always-on memory was lost (R139): those of the checkpoint, each increased by the seconds up to the last-alive
time at the hottest temperature of its member. -/
def recoveredThermal (s : State) (c : Checkpoint) : Tab Nat :=
  ((memberKeys s).map (fun k => memberLink s (k / 32) (k % 32))).foldl (fun (t : Tab Nat) l =>
    match c.linkMax.find l with
    | some k => Tab.set 0 t l ((Tab.get 0 t l + (s.life.lastAlive - c.time) * arrhenius (eaOf s l) ((k : Int) - 273)) % (2 ^ 64 * 1000000))
    | none => t) c.thermal

/-- Blocks whose label names a stripe that the recovered table does not hold are freed (R98). -/
def freeStrays (s : State) : State :=
  let blocks := s.map.blocks.map (fun e =>
    let b := e.2
    if (b.use = .open ∨ b.use = .full) ∧ (s.map.core.stripes.find b.stripe).isNone = true then
      (e.1, { b with use := .freed, stripe := 0xFFFFFFFF })
    else if b.use = .erasing then (e.1, { b with use := .freed })
    else e)
  { s with map := { s.map with blocks := blocks } }

/-- A stripe that the recovered map no longer uses (R91): a tract's old stripe, a log that was closed. -/
def unusedStripe (s : State) (id : Nat) (e : Stripe) : Bool :=
  if e.kind = 1 then decide ((tractOf s e.owner).stripe ≠ id)
  else if e.kind = 3 then decide (((s.map.core.logs.find e.owner).map LogDesc.stripe) ≠ some id)
  else false

/-- Put a recovered map in force: the stripes it does not use end. -/
def useCore (c : MapCore) (s : State) : State :=
  let s := freeStrays (s.setCore c)
  let s := eachOf (s.map.core.stripes.filter (fun e => unusedStripe s e.1 e.2)) (fun e s => releaseAfter (lastJ s) e.1 s) s
  releaseDue (freeSumps s)

/-- MAP_RECOVERY (R98, R139). -/
def mapRecover (s : State) : State :=
  let core := recoveredCore s
  let s := match s.map.ckpts with
    | c :: _ =>
      let s := { s with map := { s.map with blocks := s.map.blocks.map (fun (e : Nat × Block) => (e.1, recoveredBlock c e.1 e.2)) } }
      if s.boot.vbat.isSome then { s with ret := { s.ret with thermal := recoveredThermal s c } } else s
    | [] => s
  useCore core s

/-! ### The label walk (R194, R195) -/

/-- The code words of stripes of a kind, as (media key, word). One whose label carries another format version is not interpreted
(R164). -/
def walkWords (s : State) (kind : Nat) : List (Nat × CodeWord) := s.map.media.filter (fun e => decide (e.2.kind = kind ∧ e.2.ver = 1))

/-- The newest record of each NSID that the key-label stripes hold (R188, R194 step 2). -/
def walkLabels (s : State) : Tab Nat := newestLabels ((walkWords s 7).filterMap (fun e => labelPayload e.2))

/-- The link, block and row of a media key. -/
def keyLink (k : Nat) : Nat := k / 8192 / 1048576
def keyBlock (k : Nat) : Nat := k / 8192 % 1048576
def keyRow (k : Nat) : Nat := k / 4 % 2048

/-- The stripe of the walk (R194 step 1): for each slot the block with the latest label; blocks without a code word of their
own fill the slots left in member order; the frontier is after the last programmed row. -/
def walkStripe (s : State) (kind id : Nat) (owner : Nat) : Stripe :=
  let ws := (walkWords s kind).filter (fun e => decide (e.2.stripe = id))
  let blocks := (s.map.blocks.filter (fun e => decide (e.2.stripe = id ∧ (e.2.use = .open ∨ e.2.use = .full)))).map Prod.fst
  let addr := fun (k : Nat) => blockAddr (((linkMember s (k / 1048576)).getD 0) % 32) (k % 1048576) false
  let named := (List.range 28).map (fun i =>
    ((ws.filter (fun e => decide (e.2.slot = i))).foldl (fun (m : Option (Nat × Nat)) e =>
      match m with
      | some (t, k) => if t ≤ e.2.time then some (e.2.time, e.1 / 8192) else some (t, k)
      | none => some (e.2.time, e.1 / 8192)) none).map Prod.snd)
  let spare := blocks.filter (fun k => decide (some k ∉ named))
  let slots := (named.foldl (fun (acc : List Nat × List Nat) n =>
    match n, acc.2 with
    | some k, r => (acc.1 ++ [addr k], r)
    | none, k :: r => (acc.1 ++ [addr k], r)
    | none, [] => (acc.1 ++ [0xFFFFFFFF], [])) ([], spare)).1
  let absent := packBits (slots.map (fun a => decide (a = 0xFFFFFFFF)))
  { kind := kind, geom := geomCode s, flags := b2n (decide (absent ≠ 0)), absent := absent,
    frontier := ws.foldl (fun m e => max m (keyRow e.1 + 1)) 0, owner := owner, slots := slots }

/-- A copy counts (R194 step 3): an active record holds its tract, and it was programmed no earlier than that record's KEY_TIME. -/
def walkCounts (s : State) (w : CodeWord) : Bool :=
  match tractOwner s w.ltn with
  | none => false
  | some (n, _) => ((walkLabels s).find n).any (fun v => decide (labelKeyTime v ≤ w.time))

/-- The copies that remain, the largest WSEQ of each unit (R194 step 4): (unit key, (media key, word)). -/
def walkBest (s : State) : Tab (Nat × CodeWord) :=
  ((walkWords s 1 ++ walkWords s 2 ++ walkWords s 3).filter (fun e => e.2.parity.isNone && walkCounts s e.2)).foldl (fun t e =>
    let k := unitKey e.2.ltn e.2.unit
    match Tab.find t k with
    | some (_, w) => if w.data.wseq < e.2.data.wseq then t.put k (e.1, e.2) else t
    | none => t.put k (e.1, e.2)) []

/-- The newest KIND 1 stripe among words, by PROG_TIME. -/
def newestStripe (l : List (Nat × CodeWord)) : Option Nat :=
  (l.foldl (fun (m : Option (Nat × Nat)) e =>
    match m with
    | some (t, i) => if t ≤ e.2.time then some (e.2.time, e.2.stripe) else some (t, i)
    | none => some (e.2.time, e.2.stripe)) none).map Prod.snd

/-- One tract of the walk: its stripe, its rows in Sumps, its newest log. -/
def walkTract (s : State) (ltn : Nat) (best : Tab (Nat × CodeWord)) (c : MapCore) : MapCore :=
  let mine := fun (k : Nat) => (walkWords s k).filter (fun e => e.2.parity.isNone && decide (e.2.ltn = ltn) && walkCounts s e.2)
  let main := newestStripe (mine 1)
  let c := match main with
    | some id => { c with stripes := Tab.set {} c.stripes id (walkStripe s 1 id ltn) }
    | none => c
  let front := (main.map (fun id => (Tab.get {} c.stripes id).frontier)).getD 0
  let sumps := (best.filter (fun e => decide (e.1 / 262144 = ltn ∧ e.2.2.kind = 2))).filter
    (fun e => decide (front ≤ e.2.2.unit / rowUnits s))
  let c := sumps.foldl (fun (c : MapCore) e =>
    let id := e.2.2.stripe
    { c with rows := c.rows.put (2048 * ltn + e.2.2.unit / rowUnits s) (id, keyRow e.2.1),
             stripes := Tab.set {} c.stripes id (walkStripe s 2 id 0xFFFFFFFF) }) c
  let logs := ((mine 3).map (fun e => e.2.stripe)).eraseDups
  let r := logs.foldl (fun (acc : MapCore × Option Nat) id =>
    let g := acc.1.logs.length
    let ws := (mine 3).filter (fun e => decide (e.2.stripe = id))
    let sub := ws.foldl (fun t e => Tab.set 0xFFFF t e.2.unit (rowUnits s * keyRow e.1 + 4 * e.2.slot + e.1 % 4)) ([] : Tab Nat)
    let d : LogDesc := { ltn := ltn, stripe := id, fill := ws.length, live := sub.length, pred := acc.2, submap := sub }
    let core := { acc.1 with logs := acc.1.logs.put g d, stripes := Tab.set {} acc.1.stripes id (walkStripe s 3 id g) }
    (core, some g)) (c, none)
  let lost := (best.filter (fun e => decide (e.1 / 262144 = ltn) && e.2.2.data.lost)).map
    (fun e => ({ ltn := ltn, off := 8 * (e.1 % 262144), len := 8 } : LostRange))
  let st : TractState := if main.isSome ∧ 2048 ≤ front then .folded else .filling
  let t : Tract := { stripe := main.getD 0xFFFFFFFF, log := r.2, state := st, lost := !lost.isEmpty }
  { r.1 with tracts := Tab.set {} r.1.tracts ltn t, lost := r.1.lost ++ lost }

/-- The Peat and key-label stripes that the walk finds (R194 step 1). -/
def walkMeta (s : State) : Tab Stripe :=
  [6, 7].foldl (fun t k => (((walkWords s k).map (fun e => e.2.stripe)).eraseDups).foldl
    (fun (t : Tab Stripe) id => Tab.set {} t id (walkStripe s k id 0xFFFFFFFF)) t) []

/-- The retention record that a block label gives where no checkpoint can be read (R137, R173, R194): PROG_TIME and the counter at its
program; not measured, pessimistic (DESIGN CHOICE, log entry 91). -/
def walkBlock (b : Block) : Block :=
  if b.labelled then
    { b with progTime := b.labelTime, ageBase := b.labelThermal / 60 % 2 ^ 32, measRber := 0, measAge := 0, wear := b.labelWear,
             flags := (if b.slc then 2 else 0) + 4 }
  else b

/-- LABEL_WALK (R194): the active key-label records give the extents; the Spoil table and the membership are taken as they stood. No
checkpoint and no journal is read any more. -/
def labelWalk (s : State) : State :=
  let old := recoveredCore s
  let active := (walkLabels s).filter (fun e => decide (labelState e.2 = 1))
  let base : MapCore := { extents := active.foldl (fun t e => Tab.set [] t e.1 (labelExtents e.2)) [], spoil := old.spoil,
                          members := old.members, stripes := walkMeta s }
  let s := { s with map := { s.map with blocks := s.map.blocks.map (fun (e : Nat × Block) => (e.1, walkBlock e.2)), ckpts := [], durableJ := [],
                                        jlast := [], jnext := none } }
  let s := s.setCore base
  let best := walkBest s
  let ltns := (best.map (fun e => e.1 / 262144)).eraseDups
  let core := ltns.foldl (fun c l => walkTract s l best c) base
  let flush := (s.pwr.reserve.filter (fun id => (old.stripes.find id).isSome)).foldl
    (fun (c : MapCore) id => { c with stripes := c.stripes.put id (Tab.get {} old.stripes id) }) core
  useCore flush s

/-! ### Flush recovery (R557, R558) -/

/-- Rows of a flush stripe up to the first erased one. -/
def flushRows (s : State) (id : Nat) : Nat :=
  ((List.range 512).find? (fun r => (List.range (rowUnits s)).all (fun i => (mediaAt s id r (i / 4) (i % 4)).isNone))).getD 512

/-- Place one flushed unit as dirty data at its commit point; its range is no longer lost (R557 steps 3 and 4). -/
def restoreUnit (w : CodeWord) (s : State) : State :=
  match dirtyStacks s with
  | none => s
  | some (a, b) =>
    let k := unitKey w.ltn w.unit
    let d : Dirty := { data := w.data, s1 := a, s2 := b, nsid := ((tractOwner s w.ltn).map Prod.fst).getD 0 }
    clearLost w.ltn (8 * w.unit) 8 (placeDirty k d s)

/-- Read back one flush stripe (R557 steps 2 to 4). -/
def restoreStripe (id : Nat) (s : State) : State :=
  let n := flushRows s id
  (List.range (n * rowUnits s)).foldl (fun s i =>
    match mediaAt s id (i / rowUnits s) (i % rowUnits s / 4) (i % 4) with
    | some w => if w.ltn = 0xFFFFFFFF then s else restoreUnit w s
    | none => s) s

/-- The flush stripes: reserve stripes whose block at slot 0 has a programmed page 0. -/
def flushStripes (s : State) : List Nat :=
  s.pwr.reserve.filter (fun id => (s.map.core.stripes.find id).isSome &&
    (List.range 4).any (fun w => (mediaAt s id 0 0 w).isSome))

/-- Free a flush stripe (R557 step 5, R558). -/
def freeFlush (id : Nat) (s : State) : State :=
  let s := journal (.stripeFree id) (releaseSlots (stripeFen id) (stripeOf s id).slots s)
  { s with pwr := { s.pwr with reserve := dropOne id s.pwr.reserve }, map := { s.map with reuse := addNew id s.map.reuse } }

/-- Units that the map holds as lost. -/
def lostUnits (s : State) : Nat := s.map.core.lost.foldl (fun a r => a + (r.len + 7) / 8) 0

/-- FLUSH_RECOVERY (R557, R568). -/
def flushRecover (s : State) : State :=
  if s.isSet F.PWR_FL_INFO_OCCURRED = false then s
  else
    let ids := flushStripes s
    let s := eachOf ids restoreStripe s
    let s := makeDurable (eachOf ids freeFlush s)
    (s.wr F.PWR_FL_LOST_UNITS (lostUnits s)).wr F.PWR_FL_INFO_OCCURRED 0

/-! ### The off-interval (R146, R147, R149) -/

/-- E_c of a member, in millionths of an equivalent second (R146). -/
def calendarAge (s : State) (l : Nat) : Nat :=
  s.rd F.LIFE_LAST_OFF_SECONDS * arrhenius (eaOf s l) (s.rd F.RET_OFF_CTL_T_OFF)

/-- Raw errors of a group's four core pages against the known pattern, where the group is readable (R149): its block is programmed and the
step's facts list it. -/
def witnessErrors (s : State) (w : List (Nat × Nat)) (l g : Nat) : Option Nat :=
  match (witnessBlocks s l)[g]? with
  | none => none
  | some b => if (s.block l b).labelled then (w.find? (fun e => decide (e.1 = 16 * l + g))).map Prod.snd else none

/-- base_g and e_g of a readable group (R149), in equivalent seconds: the age that its error rate shows, less the member's age between the
group's program and the shutdown. -/
def witnessGroup (s : State) (w : List (Nat × Nat)) (l g : Nat) : Option (Nat × Int) :=
  match witnessErrors s w l g, (witnessBlocks s l)[g]? with
  | some n, some b =>
    let r := s.block l b
    let cal := calRber s l false r.labelWear
    let a := corePageAge (n * 1000000 * cal.2) (589824 * cal.1) (betaOf s l)
    some (r.labelThermal, (a : Int) - ((Tab.get 0 s.ret.thermal l / 1000000 : Nat) - (r.labelThermal : Int)))
  | _, _ => none

/-- Insert a group by its base, the oldest first. -/
def insertBase (x : Nat × Int) (l : List (Nat × Int)) : List (Nat × Int) :=
  match l with
  | [] => [x]
  | y :: r => if x.1 ≤ y.1 then x :: y :: r else y :: insertBase x r

/-- Insert a number in rising order. -/
def insertInt (x : Int) (l : List Int) : List Int :=
  match l with
  | [] => [x]
  | y :: r => if x ≤ y then x :: y :: r else y :: insertInt x r

/-- The median; of an even count the mean of the middle two, rounded down (DESIGN CHOICE, log entry 91). -/
def medianInt (l : List Int) : Int :=
  let l := l.foldr insertInt []
  let n := l.length
  if n % 2 = 1 then l.getD (n / 2) 0 else (l.getD (n / 2 - 1) 0 + l.getD (n / 2) 0) / 2

/-- The readable groups of a member. -/
def witnessGroups (s : State) (w : List (Nat × Nat)) (l : Nat) : List (Nat × Int) := (List.range 16).filterMap (witnessGroup s w l)

/-- E_w of a member from its own groups, where at least four are readable (R149): the median over the eight with the oldest base. -/
def witnessOwn (s : State) (w : List (Nat × Nat)) (l : Nat) : Option Nat :=
  let gs := witnessGroups s w l
  if gs.length < 4 then none else some (medianInt (((gs.foldr insertBase []).take 8).map Prod.snd)).toNat

/-- E_w of a member in equivalent seconds (R149): its own, or the largest of the fen's other members. -/
def witnessAge (s : State) (w : List (Nat × Nat)) (l : Nat) : Nat :=
  match witnessOwn s w l with
  | some e => e
  | none =>
    let f := linkFen s l
    ((List.range 32).map (memberLink s f)).foldl (fun m k => max m ((witnessOwn s w k).getD 0)) 0

/-- The bound within which the calendar decides, in millionths of an equivalent second (R149). -/
def offBound (s : State) (ec : Nat) : Nat :=
  max (s.rd F.RET_OFF_CTL_BOUND_PCT * ec / 100) (s.rd F.RET_OFF_CTL_BOUND_MIN * 3600000000)

/-- The age one member gained while it was off (R149), and whether the core pages decided it. -/
def offAge (s : State) (read : Bool) (w : List (Nat × Nat)) (l : Nat) : Nat × Bool :=
  let ec := calendarAge s l
  if read = false then (ec, false)
  else
    let ew := witnessAge s w l * 1000000
    if s.boot.vbat.isSome then (ew, true)
    else if (if ew ≤ ec then ec - ew else ew - ec) ≤ offBound s ec then (ec, false)
    else (max ec ew, decide (ec < ew))

/-- A witness that disagrees with the calendar is recorded (R149). -/
def offNote (s0 : State) (read : Bool) (w : List (Nat × Nat)) (l : Nat) (s : State) : State :=
  let ec := calendarAge s0 l
  let ew := witnessAge s0 w l * 1000000
  if read = true ∧ s0.boot.vbat.isNone = true ∧ offBound s0 ec < (if ew ≤ ec then ec - ew else ew - ec) then
    peatRecord 0xC201 l (witnessAge s0 w l / 3600) 0 s
  else s

/-- One entry of the off-interval history (R156): calendar start, calendar length, E of the hottest member in equivalent hours,
source. -/
def offEntry (start secs hours source : Nat) : Nat :=
  start % 2 ^ 64 + 2 ^ 64 * secs + 2 ^ 128 * (min 0xFFFFFFFF hours) + 2 ^ 160 * source

/-- OFF_INTERVAL_APPLY (R147, R149, R156): once after each power-on. -/
def offInterval (w : List (Nat × Nat)) (s : State) : State :=
  if s.life.offDue = false then s
  else
    let read := decide (86400 ≤ s.rd F.LIFE_LAST_OFF_SECONDS) || s.boot.vbat.isSome
    let links := ((memberKeys s).map (fun k => memberLink s (k / 32) (k % 32))).filter (fun l => decide (l < 512))
    let s0 := s
    let top := links.foldl (fun m l => max m (offAge s0 read w l).1) 0 / 3600000000
    let used := links.any (fun l => (offAge s0 read w l).2)
    let s := links.foldl (fun s l =>
      let e := offAge s0 read w l
      let s := { s with ret := { s.ret with thermal := Tab.set 0 s.ret.thermal l ((Tab.get 0 s.ret.thermal l + e.1) % (2 ^ 64 * 1000000)) } }
      offNote s0 read w l (if e.2 then s.wr F.RET_STATUS_WITNESS_USED 1 else s)) s
    match s.boot.vbat with
    | none =>
      let e := offEntry s.life.lastAlive (s.rd F.LIFE_LAST_OFF_SECONDS) top (b2n used)
      { s with life := { s.life with offDue := false, offHist := (e :: s.life.offHist).take 8 } }
    | some _ =>
      let e := links.foldl (fun m l => max m (witnessAge s0 w l)) 0
      let secs := e * 1000000 / max 1 (arrhenius (s.rd F.RET_MODEL_EA) (s.rd F.RET_OFF_CTL_T_OFF))
      let h := offEntry s.life.lastAlive secs (e / 3600) 2
      let s := { s with life := { s.life with now := (s.life.lastAlive + secs) % 2 ^ 48, offDue := false, offHist := (h :: s.life.offHist).take 8 },
                        boot := { s.boot with vbat := some secs } }
      peatRecord 0x0701 0 (min 0xFFFFFFFF secs) 0 s

/-! ### The flush reserve (R552) -/

/-- Reserve stripes that a fen holds. -/
def reserveOf (s : State) (f : Nat) : List Nat := s.pwr.reserve.filter (fun id => decide (stripeFen id = f))

/-- Add reserve stripes to a fen until it has 36, or until no more can be allocated. -/
def fillReserve (f fuel : Nat) (s : State) : State :=
  match fuel with
  | 0 => s
  | fuel + 1 =>
    if 36 ≤ (reserveOf s f).length then s
    else
      match openStripe f 2 true 0xFFFFFFFF s with
      | none => s
      | some (id, s) => fillReserve f fuel (journalStripe id { s with pwr := { s.pwr with reserve := s.pwr.reserve ++ [id] } })

/-- RESERVE_OK follows (R567), and the effective dirty limit (R556). -/
def reserveNote (s : State) : State :=
  limitNote (s.wrB F.PWR_STAT_RESERVE_OK ((List.range (fenCount s)).all (fun f => decide (36 ≤ (reserveOf s f).length))))

/-- Form the reserve of every fen (R552). -/
def formReserve (s : State) : State :=
  let s := { s with pwr := { s.pwr with reserve := s.pwr.reserve.filter (fun id => (s.map.core.stripes.find id).isSome) } }
  reserveNote (makeDurable (eachOf (List.range (fenCount s)) (fun f s => fillReserve f 36 s) s))

/-! ### The rest of step 7 -/

/-- Key slots take their keys (R496). Where DEVICE_WRAP fails its integrity check (`bad`), the key comes from ESCROW_WRAP if the
record carries the escrow key held, and both records are rewritten; otherwise the slot stays empty (R501). -/
def loadKeys (bad : List Nat) (s : State) : State :=
  let escrow := fun (k : KeySlot) => decide (k.escrow ≠ 0 ∧ k.escrow = s.cip.escrowId)
  let failed := s.cip.slots.filter (fun e => decide (e.2.nsid ≠ 0 ∧ e.1 ∈ bad))
  let s := { s with cip := { s.cip with slots := s.cip.slots.map (fun e =>
    (e.1, if e.2.nsid ≠ 0 ∧ (e.1 ∉ bad ∨ escrow e.2 = true) then { e.2 with state := 1 } else e.2)) } }
  eachOf failed (fun e s =>
    let s := peatRecord 0x6001 e.1 e.2.nsid 0 s
    if escrow e.2 then labelWrite e.2.nsid s else s) s

/-- The next SEQ after VBAT was lost (R533): one more than the highest in the archive; entries held are numbered in order. -/
def peatRenumber (s : State) : State :=
  if s.peat.unknown = false then s
  else
    let top := s.peat.archive.foldl (fun m e => max m e.1) 0
    let held := s.peat.held
    let p := { s.peat with next := top + 1 + held.length, archived := top, unknown := false, held := [],
                           ring := held.zipIdx.foldl (fun (t : Tab PeatEntry) e =>
                             t.put ((top + 1 + e.2) % 65536) { e.1 with seq := top + 1 + e.2 }) s.peat.ring }
    { s with peat := p }

/-- Whether a lost range was known when the previous power-on period began. -/
def rangeKnown (l : List LostRange) (r : LostRange) : Bool :=
  l.any (fun k => decide (k.ltn = r.ltn ∧ k.off ≤ r.off ∧ r.off + r.len ≤ k.off + k.len))

/-- Pending reports to arm (R388): namespaces with ranges declared in the previous period or at recovery. -/
def bootReports (s : State) : State :=
  let new := s.map.core.lost.filter (fun r => !rangeKnown s.boot.known r)
  let ns := (new.filterMap (fun r => (tractOwner s r.ltn).map Prod.fst)).eraseDups
  { s with nvq := { s.nvq with bootLost := ns }, boot := { s.boot with known := s.map.core.lost } }

/-- Every stripe is evaluated (R141). -/
def judgeAll (s : State) : State := eachOf (s.map.core.stripes.map Prod.fst) judgeStripe s

/-- Stripes whose refresh in place was not over when the power failed are programmed again from their copy, which was dirty data, before
anything else (R128): their entries are recorded anew. -/
def resumeInPlace (s : State) : State :=
  eachOf (s.map.inPlace.filter (fun e => (s.map.core.stripes.find e.1).isSome)) (fun e s =>
    let x := stripeOf s e.1
    let s := journal (.stripeSet e.1 { x with flags := putBit x.flags 2 false }) s
    { s with map := { s.map with inPlace := s.map.inPlace.put e.1 (lastJ s) } })
    { s with map := { s.map with inPlace := s.map.inPlace.filter (fun e => (s.map.core.stripes.find e.1).isSome) } }

/-- The rebuild of this member was under way (R32): every slot that the fen's stripes have on it is absent, in stripes whose rebuild flag
is set. -/
def rebuildOpen (s : State) (f l : Nat) : Bool :=
  let mine := (fenStripes s f).filter (fun e => e.2.slots.any (fun a => decide (a ≠ 0xFFFFFFFF ∧ (addrPlace s f a).1 = l)))
  !mine.isEmpty && mine.all (fun e => bitOf e.2.flags 1 && (List.range 28).all (fun i =>
    match e.2.slots[i]? with
    | some a => decide ((addrPlace s f a).1 ≠ l) || bitOf e.2.absent i
    | none => true))

/-- Rebuilds go on after a reset (R32, R120): whatever link state the member comes to, its slots stay absent until they are rebuilt. -/
def resumeRebuilds (s : State) : State :=
  eachOf (memberKeys s) (fun k s =>
    let l := memberLink s (k / 32) (k % 32)
    if l = 0xFFFF ∨ l ∈ s.fen.retired ∨ rebuildOpen s (k / 32) l = false then s
    else { s with fen := { s.fen with absent := s.fen.absent.put l .rebuilding, noted := addNew l s.fen.noted } }) s

/-- Members of STRUCT that hold no witness group yet take their groups as a hot-added member does (R148; DESIGN CHOICE, log entry 91). -/
def firstWitness (s : State) : State :=
  eachOf ((memberKeys s).map (fun k => memberLink s (k / 32) (k % 32))) (fun l s =>
    if 512 ≤ l ∨ linkUp s l = false ∨ (s.ret.witness.find (16 * l)).isSome then s else witnessFirst l s) s

/-- The work of step 7 (R616). -/
def step7 (walk : Bool) (archive : Bool) (witness : List (Nat × Nat)) (wrapFailed : List Nat) (s : State) : State :=
  let s := placeMirrors (loadKeys wrapFailed (if walk then labelWalk s else mapRecover s))
  let s := resolveHalted (resumeRebuilds (resumeInPlace s))
  let s := (peatRenumber (flushRecover s)).wr F.MAP_STATUS_READY 1
  let s := judgeAll (firstWitness (offInterval witness s))
  let s := formReserve (bootReports (s.wr F.RET_STATUS_READY 1))
  fenRefresh (if archive then peatArchiveAll 65536 s else s)

end Sys2Proof.Machine
end

