-- ==== Sys2Proof/Machine/Causeway.lean ====
section
/-! DEFINITION. The commands of the Causeway peer protocol (chapter "Causeway peer protocol"). -/

namespace Sys2Proof.Machine

open Sys2Proof

/-! ### Sessions (R469 to R474) -/

/-- HELLO (R470, R472): it opens a session, or negotiates one afresh, at the highest common version. A serial number that no
entry holds, or a MAC that fails, gets no answer. -/
def execHello (lp : LPort) (msg : HelloMsg) (s : State) : Result :=
  let s := s.begin
  .next (if cwyPort s lp.val = false then s
    else match peerBySerial s msg.serial with
      | none => s.wr F.CWY_EVT_AUTH_FAIL 1
      | some p =>
        if msg.macOk = false then (s.count F.CWY_CNT_MAC_COUNT).wr F.CWY_EVT_AUTH_FAIL 1
        else
          let v := commonVersion msg.versions (myVersions s)
          if v = 0 then putPeer p { (peerOf (sessionEnd p s) p) with state := 3 } (sessionEnd p s)
          else
            let nr := cwyNonce s
            let s := s.drawn.emit (.cwy p 0x02 0 0 [nr, myVersions s, msg.session, v, s.cfg.serial])
            openSession p v (sessionKey (peerOf s p).secret msg.nonce nr) (msg.session % 2 ^ 32) s)

/-- HELLO_ACK (R470, R472): it answers a HELLO sent, with the version and the second nonce. -/
def execHelloAck (lp : LPort) (msg : HelloMsg) (chosen : Nat) (s : State) : Result :=
  let s := s.begin
  .next (match cwyPort s lp.val, peerBySerial s msg.serial with
    | true, some p =>
      let x := peerOf s p
      if msg.macOk = false then s.count F.CWY_CNT_MAC_COUNT
      else if x.asked = false ∨ msg.session % 2 ^ 32 ≠ x.session ∨ chosen = 0 ∨ chosen ≠ commonVersion msg.versions (myVersions s) then s
      else openSession p chosen (sessionKey x.secret x.nonce msg.nonce) x.session s
    | _, _ => s)

/-- DISCOVER (R469): the peer is listed, and nothing else. -/
def execDiscover (lp : LPort) (serial _versions : Nat) (s : State) : Result :=
  let s := s.begin
  .next (if cwyPort s lp.val then { s with cwy := { s.cwy with found := addNew serial s.cwy.found } } else s)

/-- DISCOVER_TIMER (R469): DISCOVER on each logical port with a CWY address. -/
def execDiscoverTimer (s : State) : Result :=
  let s := s.begin
  .next (eachOf ((List.range 32).filter (cwyPort s)) (fun lp s => s.emit (.cwy 0xFFFF 0x03 0 0 [lp, s.cfg.serial, myVersions s])) s)

/-- Take a datagram of a session (R465, R467): its MAC, its stream, its ACK field, and its SEQ in order. What `f` does not take is
not acknowledged, and comes again. -/
def cwyTake (h : CwyHead) (streams : List Nat) (f : State → Option State) (s : State) : State :=
  let p := h.peer.val
  let st := h.stream.val
  if (peerOf s p).state ≠ 2 then s
  else if h.macOk = false then s.count F.CWY_CNT_MAC_COUNT
  else if st ∉ streams then s
  else
    let s := cwyAck p st h.ack s
    let x := peerOf s p
    if h.seq % 2 ^ 32 ≠ (streamOf x.rxSeq st + 1) % 2 ^ 32 then sendAck p st s
    else match f (putPeer p { x with rxSeq := x.rxSeq.set st (h.seq % 2 ^ 32) } s) with
      | some s => sendAck p st s
      | none => s

/-- HEARTBEAT (R473): stored for its peer; it starts nothing. -/
def execHeartbeat (head : CwyHead) (bytes : Nat) (s : State) : Result :=
  .next (cwyTake head [0] (fun s => some (putPeer head.peer.val { (peerOf s head.peer.val) with beat := bytes % 2 ^ 192 } s)) s.begin)

/-- Migration streams active with a peer (R473, R485): tracts it carries, and tracts under way toward this device. -/
def streamsActive (s : State) (p : Nat) : Nat :=
  (peerOf s p).carry.length + (migsRunning s false).foldl (fun a e => if e.2.peer = p then a + e.2.flow.length else a) 0

/-- The body of a HEARTBEAT to a peer (R473). -/
def beatBody (s : State) (p : Nat) : Nat :=
  s.life.now % 2 ^ 48 + 2 ^ 48 * myVersions s + 2 ^ 64 * (snapWord s 0x10 % 2 ^ 32) +
  2 ^ 96 * (availableSpare s % 256) + 2 ^ 104 * (criticalWarning s % 256) + 2 ^ 112 * streamsActive s p +
  2 ^ 128 * (((fwSlot s s.upd.running).map FwImage.version).getD 0 % 2 ^ 64)

/-- HEARTBEAT_TIMER (R473): one on each session. -/
def execHeartbeatTimer (s : State) : Result :=
  let s := s.begin
  .next (eachOf (s.cwy.peers.filter (fun e => decide (e.2.state = 2))) (fun e s => cwySend e.1 0 0x10 [beatBody s e.1] s) s)

/-- PEER_DOWN_TIMEOUT (R474). -/
def execPeerDownTimeout (peer : Fin 64) (s : State) : Result :=
  let s := s.begin
  .next (if (peerOf s peer.val).state = 2 then peatRecord 0x3802 peer.val 0 0 ((sessionEnd peer.val s).wr F.CWY_EVT_PEER_DOWN 1) else s)

/-- HELLO_RETRY_TIMER (R470, R474): the device that initiates tries a DOWN peer again. -/
def execHelloRetryTimer (peer : Fin 64) (s : State) : Result :=
  let s := s.begin
  .next (if (peerOf s peer.val).state = 1 ∧ initiates s peer.val = true then sendHello peer.val s else s)

/-! ### Streams (R467) -/

/-- CAUSEWAY_RETRANSMIT_TIMEOUT (R467): everything from ACK + 1 again; the timeout doubles, up to 64 ms. -/
def execCausewayRetransmitTimeout (peer : Fin 64) (stream : Fin 10) (s : State) : Result :=
  let s := s.begin
  let x := peerOf s peer.val
  let l := x.tx.filter (fun d => decide (d.stream = stream.val))
  .next (if x.state ≠ 2 ∨ l.isEmpty = true then s
    else eachOf l (cwyOut peer.val) ((putPeer peer.val { x with rto := x.rto.set stream.val (min 64 (2 * streamOf x.rto stream.val)) } s).count
      F.CWY_CNT_RETX_COUNT l.length))

/-- CAUSEWAY_PROGRESS_TIMEOUT (R467): 10 s without progress on a stream that waits ends the session. -/
def execCausewayProgressTimeout (peer : Fin 64) (stream : Fin 10) (s : State) : Result :=
  let s := s.begin
  .next (if unacked (peerOf s peer.val) stream.val = 0 then s else sessionEnd peer.val s)

/-- ACK_ONLY (R465, R467): an acknowledgement with no body. -/
def execAckOnly (head : CwyHead) (s : State) : Result :=
  let s := s.begin
  .next (if (peerOf s head.peer.val).state ≠ 2 then s
    else if head.macOk = false then s.count F.CWY_CNT_MAC_COUNT
    else cwyAck head.peer.val head.stream.val head.ack s)

/-! ### The chain (R475, R476, R586) -/

/-- The bytes of a piece stay in the download buffer to be sent on, though nothing of them is applied (R475, R586). -/
def holdBytes (p : Piece) (s : State) : State :=
  { s with upd := { s.upd with buf := (if p.off = 0 then 0 else s.upd.buf % 2 ^ (8 * p.off)) + 2 ^ (8 * p.off) * (p.data % 2 ^ (8 * p.len)) } }

/-- A piece of the transfer under way (R475, R586): written and applied as a download's piece is, then sent on. -/
def chainPiece (p : Piece) (s : State) : State :=
  let hold := fun (s : State) => { s with cwy := { s.cwy with chainOff := p.off + p.len } }
  if s.cwy.chainSame then
    let s := holdBytes p (hold s)
    chainPump (if s.cwy.chainOff = s.cwy.chainLen then chainReportUp s.cfg.serial 0 s else s)
  else if p.off = 0 ∧ byteField p.data 0 4 ≠ magicDelta then chainRefuse 1 s
  else
    let (r, s) := downloadPiece ownerChain 1 p s
    if r.status ≠ 0 then chainRefuse (if r.detail = 0x0A then 2 else 1) s
    else chainPump (if s.upd.deltaLen ≠ 0 then chainReportUp s.cfg.serial 0 (hold s) else hold s)

/-- CHAIN_DATA (R475, R482, R588): from a CHAIN_FROM peer; a second transfer, or one during a host download, is refused with
status 2. `body` is the piece's bytes, and whether boot flash takes them. -/
def execChainData (head : CwyHead) (off total len : Nat) (body : Nat × Bool) (s : State) : Result :=
  let p := head.peer.val
  let piece : Piece := { off := off, len := len, data := body.1, flashOk := body.2 }
  .next (cwyTake head [9] (fun s =>
    let other := (s.cwy.chain && (s.cwy.chainHead || decide (s.cwy.chainFrom ≠ some p))) ||
      (s.upd.isOpen && decide (s.upd.owner ≠ ownerChain)) || s.upd.commit.isSome
    if bitOf (peerOf s p).roles 3 = false then some s
    else if other then some (if piece.off = 0 then cwySend p 9 0x21 [s.cfg.serial, 2, s.life.now % 2 ^ 32] s else s)
    else if piece.off = 0 then
      let c := { s.cwy with chain := true, chainHead := false, chainFrom := some p, chainSame := deltaSame piece.data piece.len (Tab.get 0 s.upd.fwBytes s.upd.running), chainOff := 0, chainLen := total,
                            chainSent := 0 }
      some (chainPiece piece { s with cwy := c })
    else if s.cwy.chain = true ∧ piece.off = s.cwy.chainOff then some (chainPiece piece s)
    else some s) s.begin)

/-- CHAIN_REPORT (R476, R484): the head stores the reports; every other device relays them. -/
def execChainReport (head : CwyHead) (reports : List (Nat × Nat)) (all : Bool) (s : State) : Result :=
  .next (cwyTake head [9] (fun s =>
    if chainNext s ≠ some head.peer.val then some s
    else
      let s := eachOf reports (fun r s => chainReportUp r.1 r.2 s) s
      some (if s.cwy.chainHead = true ∧ (all = true ∨ reports.any (fun r => decide (r.2 ≠ 0)) = true) then s.wr F.CWY_EVT_CHAIN_DONE 1 else s))
    s.begin)

/-- CHAIN_DOWNSTREAM_TIMEOUT (R476): the CHAIN_NEXT peer has not been reachable for 60 s. -/
def execChainDownstreamTimeout (s : State) : Result :=
  let s := s.begin
  .next (match chainNext s with
    | some q =>
      if s.cwy.chain = false ∨ (peerOf s q).state = 2 then s
      else
        let s := chainReportUp s.cfg.serial 3 { s with cwy := { s.cwy with chain := false } }
        if s.cwy.chainHead then s.wr F.CWY_EVT_CHAIN_DONE 1 else s
    | none => s)

/-! ### Migration (R477 to R481) -/

/-- The destination refuses: MIG_ABORT with a reason, and the import ends. The manual states no reason codes. -/
def abortImport (m p : Nat) (s : State) : State :=
  let r := s.draw (2 ^ 32)
  migEnd m 2 r (cwySend p 0 0x3F [m, r] s.drawn)

/-- The destination namespace of MIG_OPEN (R477): with the source's tag, identity and formats, and its own key-label record;
the WSEQ counter starts 2^32 past the source's floor. -/
def importNs (m : Nat) (y : Migration) (msg : MigOpen) (key slot : Nat) (ext : List (Nat × Nat)) (s : State) : State :=
  let t := s.image.nstpl.templates.getD y.template {}
  let n : Namespace := { lbaShift := msg.lbaShift, leafShift := msg.leafShift, zoned := decide (msg.csi = 2), tracts := msg.size, mar := t.mar,
                         mor := t.mor, anagrp := t.anagrp, nsTag := msg.nsTag, nguid := msg.nguid, importing := true }
  let s := buildNs y.nsid ext n key slot msg.escrowId s
  let s := match s.ns? y.nsid with
    | some n => s.putNs y.nsid { n with wseq := msg.wseqFloor + 2 ^ 32, wseqFloor := msg.wseqFloor + 2 ^ 33 }
    | none => s
  putMig m { y with opened := true } s

/-- MIG_OPEN (R477): the import that names this source and namespace starts, or is refused. -/
def execMigOpen (head : CwyHead) (msg : MigOpen) (s : State) : Result :=
  let p := head.peer.val
  .next (cwyTake head [0] (fun s =>
    match (migsRunning s false).find? (fun e => decide (e.2.peer = p ∧ e.2.srcNsid = msg.srcNsid)) with
    | none => some (cwySend p 0 0x3F [8, s.draw (2 ^ 32)] s.drawn)
    | some (m, y) =>
      if y.opened then some s
      else if msg.escrowId = 0 ∨ msg.escrowId ≠ s.cip.escrowId ∨ importBarred s = true ∨
          bitOf (peerOf s p).roles 2 = false ∨ (s.ns? y.nsid).isSome = true then some (abortImport m p s)
      else match unwrapKey s.cip.escrowKey msg.wrap, freeKeySlot s, newExtents s msg.size with
        | some key, some slot, some ext => some (importNs m y msg key slot ext s)
        | _, _, _ => some (abortImport m p s)) s.begin)

/-- A written unit of a zoned namespace moves its zone's pointer past it (R351, R480). -/
def importPtr (nsid g : Nat) (n : Namespace) (s : State) : State :=
  let t := g / tractUnits s
  let top := (g % tractUnits s + 1) * 4096 / 2 ^ n.lbaShift
  let wp := (zonePtr n t).1
  if n.zoned = true ∧ wp < top then zoneAdvance nsid t (top - wp) s else s

/-- Place one verified unit as a write of its place (R480): none where the dirty limit, or a log, has no room. -/
def placeUnit (nsid : Nat) (r : UnitRecord) (s : State) : Option State :=
  match unitAt s nsid r.nsUnit, s.ns? nsid with
  | some (l, u), some n =>
    let cls := homeClass s nsid
    if r.lost then some (declareUnitLost l u s)
    else if r.zero then zeroUnits l u 1 cls s
    else match dirtyStacks s with
      | none => none
      | some st =>
        if overLimit s 1 = true ∨ overClass s cls 1 = true then none
        else some (importPtr nsid r.nsUnit n (putDirty nsid l u cls n.zoned false { payload := r.payload, wseq := r.wseq } st s))
  | _, _ => some s

/-- One unit record arrives (R480): a tag failure asks for it again; the third declares it lost. -/
def importUnit (m p st : Nat) (r : UnitRecord) (s : State) : Option State :=
  match migOf s m with
  | none => some s
  | some y =>
    if r.lost = false ∧ r.zero = false ∧ r.tagOk = false then
      let k := Tab.get 0 y.naks r.nsUnit + 1
      let s := (cwySend p st 0x32 [m, r.nsUnit] s).count F.CWY_CNT_NAK_COUNT
      let y := { y with naks := y.naks.put r.nsUnit k }
      if k < 3 then some (putMig m { y with bad := addNew r.nsUnit y.bad } s)
      else
        let s := putMig m { y with bad := dropOne r.nsUnit y.bad, lost := addNew r.nsUnit y.lost } s
        some (match unitAt s y.nsid r.nsUnit with
          | some (l, u) => declareUnitLost l u s
          | none => s)
    else (placeUnit y.nsid r s).map (putMig m { y with bad := dropOne r.nsUnit y.bad, lost := if r.lost then addNew r.nsUnit y.lost else y.lost })

/-- The MIG_TRACT_ENDs whose tracts have become whole are acknowledged (R480). -/
def endTracts (m : Nat) (s : State) : State :=
  match migOf s m with
  | none => s
  | some y =>
    let whole := y.ending.filter (fun e => !y.bad.any (fun g => decide (g / tractUnits s = e.1)))
    eachOf whole (fun e s => sendAck y.peer e.2.1 s)
      (putMig m { y with ending := y.ending.filter (fun e => y.bad.any (fun g => decide (g / tractUnits s = e.1))),
                         tracts := y.tracts + whole.length } s)

/-- The import of a datagram from a peer. -/
def importBy (s : State) (m p : Nat) : Option Migration :=
  match migOf s m with
  | some y => if y.export_ = false ∧ y.peer = p ∧ y.ended = 0 ∧ y.opened = true then some y else none
  | none => none

/-- The export of a datagram from a peer. -/
def exportBy (s : State) (m p : Nat) : Option Migration :=
  match migOf s m with
  | some y => if y.export_ = true ∧ y.peer = p ∧ y.ended = 0 then some y else none
  | none => none

/-- MIG_UNITS (R478, R480, R482): verified and placed. While the seal or bench 5 holds no new tract is begun. -/
def execMigUnits (head : CwyHead) (mig : Fin 8) (tract : Nat) (units : List UnitRecord) (s : State) : Result :=
  let st := head.stream.val
  .next (cwyTake head [1, 2, 3, 4, 5, 6, 7, 8] (fun s =>
    match importBy s mig.val head.peer.val with
    | none => some s
    | some y =>
      if y.flow.find st ≠ some tract ∧ importBarred s = true then none
      else
        let s := putMig mig.val { y with flow := y.flow.put st tract } s
        let l := (units.take 2).filter (fun r => decide (r.nsUnit / tractUnits s = tract))
        (l.foldl (fun r u => r.bind (importUnit mig.val head.peer.val st u)) (some s)).map (endTracts mig.val)) s.begin)

/-- MIG_NAK (R480): the source reads the unit again and sends it again; the third counts it lost. -/
def execMigNak (head : CwyHead) (mig : Fin 8) (nsUnit : Nat) (s : State) : Result :=
  let p := head.peer.val
  .next (cwyTake head [1, 2, 3, 4, 5, 6, 7, 8] (fun s =>
    match exportBy s mig.val p with
    | none => some s
    | some y =>
      let k := Tab.get 0 y.naks nsUnit + 1
      let s := s.count F.CWY_CNT_NAK_COUNT
      if k < 3 then some (cwySend p head.stream.val 0x31 [mig.val, nsUnit, 1] (putMig mig.val { y with naks := y.naks.put nsUnit k } s))
      else some (putMig mig.val { y with naks := y.naks.put nsUnit k, lost := addNew nsUnit y.lost } s)) s.begin)

/-- MIG_TRACT_END (R480): acknowledged only when every unit of the tract has reached its commit point. -/
def execMigTractEnd (head : CwyHead) (mig : Fin 8) (tract _sent : Nat) (s : State) : Result :=
  .next (cwyTake head [1, 2, 3, 4, 5, 6, 7, 8] (fun s =>
    match importBy s mig.val head.peer.val with
    | none => some s
    | some y => some (endTracts mig.val
        (putMig mig.val { y with flow := y.flow.del head.stream.val, ending := y.ending.put tract (head.stream.val, head.seq % 2 ^ 32) } s)))
    s.begin)

/-- MIG_DONE (R481): the destination namespace becomes attachable; its WSEQ counter is past the source's. -/
def execMigDone (head : CwyHead) (mig : Fin 8) (_sent _lost wseq : Nat) (s : State) : Result :=
  .next (cwyTake head [0] (fun s =>
    match importBy s mig.val head.peer.val with
    | none => some s
    | some y =>
      let s := match s.ns? y.nsid with
        | some n =>
          let w := max n.wseq wseq
          let s := s.putNs y.nsid { n with importing := false, wseq := w, wseqFloor := max n.wseqFloor (w + 2 ^ 32) }
          if n.wseqFloor < w + 2 ^ 32 then labelWrite y.nsid s else s
        | none => s
      some (migEnd mig.val 1 0 s)) s.begin)

/-- MIG_ABORT (R466, R477): the migration ends. -/
def execMigAbort (head : CwyHead) (mig : Fin 8) (reason : Nat) (s : State) : Result :=
  .next (cwyTake head [0] (fun s =>
    match migOf s mig.val with
    | some y =>
      if y.peer = head.peer.val ∧ y.ended = 0 then
        let s := putPeer y.peer { (peerOf s y.peer) with carry := (peerOf s y.peer).carry.filter (fun c => decide (c.mig ≠ mig.val)) } s
        some (migEnd mig.val 2 (reason % 2 ^ 32) s)
      else some s
    | none => some s) s.begin)

/-- MIGRATION_PASS_END (R481): another delta pass, the final one after a freeze, and then MIG_DONE. -/
def execMigrationPassEnd (mig : Fin 8) (s : State) : Result :=
  let s := s.begin
  let m := mig.val
  .next (match migOf s m with
    | none => s
    | some y =>
      if y.export_ = false ∨ y.ended ≠ 0 ∨ y.opened = false ∨ y.closing = true ∨ y.todo ≠ [] ∨
          (peerOf s y.peer).carry.any (fun c => decide (c.mig = m)) = true then s
      else if y.final then
        cwySend y.peer 0 0x34 [m, y.sent, y.lost.length, ((s.ns? y.nsid).map Namespace.wseq).getD 0] (putMig m { y with closing := true } s)
      else migPump y.peer (putMig m { y with pass := (y.pass + 1) % 128, tracts := 0, todo := y.changed, changed := [], final := y.frozen } s))

end Sys2Proof.Machine
end

