-- ==== Sys2Proof/Machine/Fabric.lean ====
section
/-! DEFINITION. Ethernet ports, RoCEv2 and NVMe over Fabrics (chapter "Fabric ports"). -/

namespace Sys2Proof.Machine

open Sys2Proof

/-! ### Ports (R437, R438, R456) -/

/-- The unit index of a logical port in fault records: after the four PCIe ports. -/
def ethUnit (lp : Nat) : Nat := 4 + lp

/-- ETH_PORT_UP (R437, R456): its controllers are in Change. -/
def execEthPortUp (lp : LPort) (s : State) : Result :=
  let s := s.begin
  let l := lp.val
  .next (if l ∉ ethPorts s ∨ s.isSet F.FAB_PORT_STAT_UP l = true then s
    else
      let s := ((s.wr F.FAB_PORT_STAT_UP 1 l).wr F.FAB_PORT_STAT_HOLD 0 l).wr F.FAB_EVT_LINK_UP 1
      let s := portChange (.eth lp) s
      if s.boot.done then faultRestored bitPort (ethUnit l) s else glbRefresh s)

/-- A logical port goes down (R456): Inaccessible, and LINK_HOLD runs. -/
def ethPortDown (lp : LPort) (s : State) : State :=
  let l := lp.val
  if s.isSet F.FAB_PORT_STAT_UP l = false then s
  else
    let s := ((s.wr F.FAB_PORT_STAT_UP 0 l).wr F.FAB_PORT_STAT_HOLD 1 l).wr F.FAB_EVT_LINK_DOWN 1
    let s := (s.wr F.FAB_PORT_STAT_PAUSED 0 l)
    let s := portSettle (.eth lp) s
    if s.boot.done then faultAbsorbed bitPort (ethUnit l) s else glbRefresh s

/-- ETH_PORT_DOWN (R456). -/
def execEthPortDown (lp : LPort) (s : State) : Result := .next (ethPortDown lp s.begin)

/-- LINK_HOLD_EXPIRY (R455): the port's associations end with CAUSE 4. -/
def execLinkHoldExpiry (lp : LPort) (s : State) : Result :=
  let s := s.begin
  let l := lp.val
  .next (if s.isSet F.FAB_PORT_STAT_UP l = true ∨ s.isSet F.FAB_PORT_STAT_HOLD l = false then s
    else assocEndWhere (fun q => decide (q.lp = l)) 4 (s.wr F.FAB_PORT_STAT_HOLD 0 l))

/-- XOFF and XON of the RoCEv2 priority (R446): the level of the receive buffer is what the traffic makes of it. -/
def pfcNote (l : Nat) (s : State) : State :=
  let fill := s.draw 524289
  let s := s.drawn
  let sent := decide (l ∈ s.fab.xoff)
  if s.isSet F.FAB_PFC_CTL_PFC_TX = false then s
  else if sent = false ∧ 393216 < fill then
    { s.emit (.frame l 0x10 (s.rd F.FAB_QOS_CTL_ROCE_PRI)) with fab := { s.fab with xoff := addNew l s.fab.xoff } }
  else if sent = true ∧ fill < 262144 then
    { s.emit (.frame l 0x11 (s.rd F.FAB_QOS_CTL_ROCE_PRI)) with fab := { s.fab with xoff := dropOne l s.fab.xoff } }
  else s

/-- ETHERNET_FRAME_RECEIVE (R438, R439, R463); a Causeway datagram of an unknown TYPE is dropped and logged (R466). -/
def execEthernetFrameReceive (lp : LPort) (frame : EthFrame) (s : State) : Result :=
  let s := s.begin
  let l := lp.val
  .next (if s.isSet F.FAB_PORT_STAT_UP l = false then s
    else
      let s := s.count F.FAB_CNT_FEC_UNC_COUNT frame.fecUnc l
      if frame.fcsOk = false then s.count F.FAB_CNT_FCS_COUNT 1 l
      else if 9216 < frame.len ∨ frame.fragment = true ∨ frame.destOk = false then s.count F.FAB_CNT_DROP_COUNT 1 l
      else match frame.cwyType with
        | some t => peatRecord 0x3801 0xFFFF t 0 s
        | none => if frame.roce then pfcNote l s else s)

/-- ARP_REQUEST (R439): for an IPv4 address of the port. -/
def execArpRequest (lp : LPort) (addr : Nat) (s : State) : Result :=
  let s := s.begin
  .next (if s.isSet F.FAB_PORT_STAT_UP lp.val = true ∧ holdsAddr s lp.val addr false = true then s.emit (.frame lp.val 1 (macOf lp.val)) else s)

/-- NEIGHBOR_DISCOVERY (R439). -/
def execNeighborDiscovery (lp : LPort) (addr : Nat) (s : State) : Result :=
  let s := s.begin
  .next (if s.isSet F.FAB_PORT_STAT_UP lp.val = true ∧ holdsAddr s lp.val addr true = true then s.emit (.frame lp.val 2 (macOf lp.val)) else s)

/-- ICMP_ECHO (R439). -/
def execIcmpEcho (lp : LPort) (addr ident : Nat) (s : State) : Result :=
  let s := s.begin
  .next (if s.isSet F.FAB_PORT_STAT_UP lp.val = true ∧ (holdsAddr s lp.val addr false || holdsAddr s lp.val addr true) = true then
    s.emit (.frame lp.val 3 ident) else s)

/-! ### Priority flow control and congestion (R446, R447) -/

/-- PFC_FRAME (R446): each enabled priority is paused or resumed, but for one under a storm. -/
def execPfcFrame (lp : LPort) (enables : BitVec 8) (times : List Nat) (s : State) : Result :=
  let s := s.begin
  let l := lp.val
  let storm := Tab.get [] s.fab.storm l
  .next (if s.isSet F.FAB_PORT_STAT_UP l = false then s
    else eachOf (List.range 8) (fun i s =>
      if bitOf enables.toNat i = true ∧ i ∉ storm then s.wrBit F.FAB_PORT_STAT_PAUSED i (decide (times.getD i 0 ≠ 0)) l else s) s)

/-- PAUSE_STORM_DETECT (R446): pause frames of the priority are ignored for 1 s. -/
def execPauseStormDetect (lp : LPort) (prio : Fin 8) (s : State) : Result :=
  let s := s.begin
  let l := lp.val
  .next (if bitOf (s.rd F.FAB_PORT_STAT_PAUSED l) prio.val = false then s
    else
      let s := { s with fab := { s.fab with storm := Tab.set [] s.fab.storm l (addNew prio.val (Tab.get [] s.fab.storm l)) } }
      let s := ((s.wrBit F.FAB_PORT_STAT_PAUSED prio.val false l).wr F.FAB_PORT_STAT_STORM 1 l).wr F.FAB_EVT_PFC_STORM 1
      peatRecord 0x3001 l prio.val 0 s)

/-- PAUSE_STORM_END (R446): the oldest storm of the port has lasted 1 s. -/
def execPauseStormEnd (lp : LPort) (s : State) : Result :=
  let s := s.begin
  let left := (Tab.get [] s.fab.storm lp.val).drop 1
  .next ({ s with fab := { s.fab with storm := Tab.set [] s.fab.storm lp.val left } }.wrB F.FAB_PORT_STAT_STORM (!left.isEmpty) lp.val)

/-- CE_MARKED_PACKET (R447): a CNP to the source, at most one for CNP_GAP. -/
def execCeMarkedPacket (qp gapUs : Nat) (s : State) : Result :=
  let s := s.begin
  .next (match s.fab.qps.find qp with
    | none => s
    | some q => if s.rd F.FAB_ECN_CTL_CNP_GAP ≤ gapUs then s.emit (.rdma qp 0x81 q.remote) else s)

/-- CNP (R447): a cut of DROP steps, at most one for HOLD; the count of quiet intervals starts anew. -/
def execCnp (qp sinceCutUs : Nat) (s : State) : Result :=
  let s := s.begin
  .next (match s.fab.qps.find qp with
    | none => s
    | some q =>
      let step := if s.rd F.FAB_ECN_CTL_HOLD ≤ sinceCutUs then min 63 (q.step + s.rd F.FAB_ECN_CTL_DROP) else q.step
      putQp qp { q with step := step, quiet := 0, cnp := true } (s.count F.FAB_CNT_CNP_COUNT 1 q.lp))

/-- ECN_RISE_TIMER (R447): the end of an interval of RISE. -/
def execEcnRiseTimer (qp : Nat) (s : State) : Result :=
  let s := s.begin
  .next (match s.fab.qps.find qp with
    | none => s
    | some q =>
      if q.cnp then putQp qp { q with cnp := false } s
      else
        let n := q.quiet + 1
        putQp qp { q with quiet := n, step := q.step - (if n < 8 then 1 else 2) } s)

/-! ### RoCEv2 (R442 to R444) -/

/-- Progress on a queue pair: its retries start anew. -/
def qpProgress (n : Nat) (q : Qp) (s : State) : State := putQp n { q with retries := 0, msn := (q.msn + 1) % 2 ^ 24 } s

/-- RDMA_SEND (R442): a capsule's message is received and acknowledged; its entry arrives with CAPSULE_ARRIVAL. -/
def execRdmaSend (qp : Nat) (invalidate : Option Nat) (s : State) : Result :=
  let s := s.begin
  .next (match s.fab.qps.find qp with
    | none => s
    | some q => if q.ready then (qpProgress qp q s).emit (.rdma qp 0x11 (invalidate.getD 0)) else s)

/-- RDMA_READ (R442, R443): a request is answered; a response is progress on the device's own request. -/
def execRdmaRead (qp : Nat) (response : Bool) (len : Nat) (s : State) : Result :=
  let s := s.begin
  .next (match s.fab.qps.find qp with
    | none => s
    | some q =>
      if q.ready = false then s
      else if response then putQp qp { q with retries := 0 } s
      else (qpProgress qp q s).emit (.rdma qp 0x10 len))

/-- RDMA_WRITE (R442): acknowledged. -/
def execRdmaWrite (qp len : Nat) (s : State) : Result :=
  let s := s.begin
  .next (match s.fab.qps.find qp with
    | none => s
    | some q => if q.ready then (qpProgress qp q s).emit (.rdma qp 0x12 len) else s)

/-- QP_ACK_TIMEOUT (R443, R455): retransmission; after 7 retries the queue pair fails and its association ends. -/
def execQpAckTimeout (qp : Nat) (s : State) : Result :=
  let s := s.begin
  .next (match s.fab.qps.find qp with
    | none => s
    | some q =>
      if q.retries < 7 then putQp qp { q with retries := q.retries + 1 } (s.count F.FAB_CNT_RETX_COUNT 1 q.lp)
      else if q.ctrl ≠ 0 then assocEnd q.ctrl 4 s
      else fabNote { s with fab := { s.fab with qps := s.fab.qps.del qp } })

/-- RDMA_TRANSPORT_ACK (R361): a response capsule is acknowledged: the command is Completed. -/
def execRdmaTransportAck (slot : SlotNo) (s : State) : Result :=
  let s := s.begin
  .next (match s.slot? slot.val with
    | none => s
    | some k => if k.sent = true ∧ k.lostKey = false then endPosted slot.val k s else s)

/-- The lowest free queue pair number, from 2. -/
def freeQp (s : State) : Nat := ((List.range (s.fab.qps.length + 1)).map (· + 2) |>.find? (fun n => (s.fab.qps.find n).isNone)).getD 2

/-- CM_REQ (R444): accepted at an NVME address of a port that is up, while fewer than 9,216 queue pairs are in use. -/
def execCmReq (lp : LPort) (req : CmReq) (s : State) : Result :=
  let s := s.begin
  let l := lp.val
  .next (if s.isSet F.FAB_PORT_STAT_UP l = false then s
    else if req.privOk = false ∨ 9216 ≤ s.fab.qps.length ∨
        s.fab.addrs.any (fun e => addrOn e.2 && addrNvme e.2 && decide (e.2.lp = l ∧ e.2.addr = req.addr)) = false then
      s.emit (.rdma 0 0x02 req.remoteQp)
    else
      let n := freeQp s
      fabNote ((putQp n { lp := l, addr := req.addr, remote := req.remoteQp } s).emit (.rdma n 0x03 req.remoteQp)))

/-- CM_RTU (R444). -/
def execCmRtu (qp : Nat) (s : State) : Result :=
  let s := s.begin
  .next (match s.fab.qps.find qp with
    | none => s
    | some q => putQp qp { q with ready := true } s)

/-! ### NVMe over Fabrics (R448 to R453) -/

/-- A Fabrics command on a queue pair is answered with a status. -/
def fabAnswer (qp status value : Nat) (s : State) : State := s.emit (.rdma qp (0x1000 + status) value)

/-- The receive-buffer entries that fit (R451): 8 GiB of 4,160-byte entries. -/
def rxFits (s : State) (n : Nat) : Bool := decide (s.fab.rxUsed + n ≤ 2064888)

/-- A Connect that does not fit is refused as busy (R449, R451). -/
def connectBusy (qp : Nat) (noRx : Bool) (s : State) : State := fabAnswer qp 0x181 0 (if noRx then s.wr F.FAB_EVT_RXBUF_FULL 1 else s)

/-- A Connect on queue 0 creates a controller bound to its logical port and address (R450). -/
def connectAdmin (qp : Nat) (q : Qp) (req : ConnectReq) (h : FabricHost) (s : State) : State :=
  let size := req.sqsize + 1
  match freeCntlid s with
  | none => connectBusy qp false s
  | some n =>
    if rxFits s size = false then connectBusy qp true s
    else
      let lp : Fin 32 := ⟨q.lp % 32, Nat.mod_lt q.lp (by decide)⟩
      let auth := h.auth && !req.discovery
      let c : Ctrl := { port := .eth lp, fabric := true, discovery := req.discovery, hostNqn := req.hostNqn, hostId := req.hostId,
                        res := resScaled s.image.nvmectl h.res, qpairs := h.qpairs, mdts := h.mdts, attach := if req.discovery then [] else h.attach,
                        kato := req.kato, authOk := !auth, ana := portAna s (.eth lp), sqs := [(0, { size := size })] }
      let s := putQp qp { q with ctrl := n, sqid := 0, qsize := size } (s.putCtrl n c)
      let s := { s with fab := { s.fab with rxUsed := s.fab.rxUsed + size } }
      fabAnswer qp 0 (n + 65536 * (if auth then 2 else 0)) (fabNote s)

/-- Any command on an association is answered on its admin queue pair. -/
def adminQp (s : State) (cid : Nat) : Nat := (((ctrlQps s cid).find? (fun e => decide (e.2.sqid = 0))).map Prod.fst).getD 0

/-- A Connect on an I/O queue of a controller, at its logical port and address (R450), once it may (R453). -/
def connectIo (qp : Nat) (q : Qp) (req : ConnectReq) (s : State) : State :=
  let size := req.sqsize + 1
  match s.ctrl? req.cntlid with
  | none => fabAnswer qp 0x182 0 s
  | some c =>
    if c.fabric = false ∨ c.discovery = true ∨ c.resetting = true ∨ c.hostNqn ≠ req.hostNqn ∨ c.hostId ≠ req.hostId ∨
        portOfLp c ≠ some q.lp ∨ ((s.fab.qps.find (adminQp s req.cntlid)).map Qp.addr) ≠ some q.addr ∨ size < 2 ∨ 1024 < size ∨ (c.sqs.find req.qid).isSome = true then fabAnswer qp 0x182 0 s
    else if c.authOk = false then fabAnswer qp 0x191 0 s
    else if c.qpairs < req.qid ∨ c.qpairs ≤ queuePairs c then connectBusy qp false s
    else if rxFits s size = false then connectBusy qp true s
    else
      let s := s.putCtrl req.cntlid { c with sqs := c.sqs.put req.qid { size := size, cqid := req.qid } }
      let s := putQp qp { q with ctrl := req.cntlid, sqid := req.qid, qsize := size } s
      fabAnswer qp 0 req.cntlid (fabNote { s with fab := { s.fab with rxUsed := s.fab.rxUsed + size } })
where
  portOfLp (c : Ctrl) : Option Nat := match c.port with | .eth l => some l.val | .pcie _ => none

/-- CONNECT (R449 to R452). -/
def execConnect (qp : Nat) (req : ConnectReq) (s : State) : Result :=
  let s := s.begin
  .next (match s.fab.qps.find qp with
    | none => s
    | some q =>
      if q.ready = false ∨ q.ctrl ≠ 0 then s
      else if req.recfmt ≠ 0 then fabAnswer qp 0x180 0 s
      else
        let host := if req.discovery then some { nqn := req.hostNqn }
          else s.image.nvmectl.hosts.find? (fun h => decide (h.nqn = req.hostNqn ∧ q.lp ∈ h.ports))
        match host with
        | none => fabAnswer qp 0x184 0 s
        | some h =>
          if req.subOk = false then fabAnswer qp 0x182 0 s
          else if req.qid ≠ 0 then connectIo qp q req s
          else if req.cntlid ≠ 0xFFFF ∨ req.sqsize + 1 < 32 ∨ 4096 < req.sqsize + 1 ∨
              ((req.kato < 1000 ∨ 600000 < req.kato) ∧ ¬(req.discovery = true ∧ req.kato = 0)) then fabAnswer qp 0x182 0 s
          else connectAdmin qp q req h s)

/-- PROPERTY_GET (R450): CAP alone is 8 bytes long. -/
def execPropertyGet (ctrl : CtrlId) (off : Nat) (size8 : Bool) (s : State) : Result :=
  let s := s.begin
  .next (match s.ctrl? ctrl with
    | none => s
    | some c =>
      if c.fabric = false ∨ c.resetting = true then s
      else if size8 ≠ decide (off = 0) then fabAnswer (adminQp s ctrl) 0x02 0 s
      else fabAnswer (adminQp s ctrl) 0 (propValue c off) s)

/-- PROPERTY_SET (R450, R453): CC alone may be set; not before authentication has succeeded. -/
def execPropertySet (ctrl : CtrlId) (off : Nat) (size8 : Bool) (value : Nat) (s : State) : Result :=
  let s := s.begin
  .next (match s.ctrl? ctrl with
    | none => s
    | some c =>
      if c.fabric = false ∨ c.resetting = true then s
      else if c.authOk = false then fabAnswer (adminQp s ctrl) 0x191 0 s
      else if off ≠ 0x14 ∨ size8 = true then fabAnswer (adminQp s ctrl) 0x02 0 s
      else
        let s := fabAnswer (adminQp s ctrl) 0 0 (ccWrite ctrl (value % 2 ^ 32) s)
        if (s.ctrl? ctrl).any Ctrl.resetting then fabNote (closeQps (fun q => decide (q.ctrl = ctrl)) s) else s)

/-- The queue pair of a queue. -/
def queueQp (s : State) (cid qid : Nat) : Nat := (((ctrlQps s cid).find? (fun e => decide (e.2.sqid = qid))).map Prod.fst).getD 0

/-- DISCONNECT (R453, R455): an I/O queue ends alone; queue 0, or the last queue, ends the association with CAUSE 6. -/
def execDisconnect (ctrl : CtrlId) (qid : Nat) (s : State) : Result :=
  let s := s.begin
  .next (match s.ctrl? ctrl with
    | none => s
    | some c =>
      if c.fabric = false ∨ c.resetting = true ∨ (c.sqs.find qid).isNone = true then s
      else if c.authOk = false then fabAnswer (queueQp s ctrl qid) 0x191 0 s
      else if qid = 0 ∨ c.sqs.length = 1 then assocEnd ctrl 6 s
      else
        let s := closeQps (fun q => decide (q.ctrl = ctrl ∧ q.sqid = qid)) (fabAnswer (queueQp s ctrl qid) 0 0 s)
        fabNote (s.putCtrl ctrl { c with sqs := c.sqs.del qid }))

/-- The host entry of a controller. -/
def hostEntry (s : State) (c : Ctrl) : Option FabricHost := s.image.nvmectl.hosts.find? (fun h => decide (h.nqn = c.hostNqn))

/-- AUTHENTICATION_SEND (R453): the negotiation draws a challenge; the host's reply is checked; a failure ends the
association. -/
def execAuthenticationSend (ctrl : CtrlId) (msg : AuthMsg) (s : State) : Result :=
  let s := s.begin
  .next (match s.ctrl? ctrl with
    | none => s
    | some c =>
      if c.fabric = false ∨ c.resetting = true then s
      else
        let q := adminQp s ctrl
        let st := Tab.get 0 s.fab.auth ctrl
        let put := fun (n : Nat) (s : State) => { s with fab := { s.fab with auth := Tab.set 0 s.fab.auth ctrl n } }
        let fail := assocEndQuiet ctrl (s.emit (.rdma q 0x2F1 ctrl))
        match msg with
        | .negotiate h g => if h && g then fabAnswer q 0 0 (put 1 s) else fail
        | .reply ok =>
          if st ≠ 1 ∨ ok = false then fail
          else fabAnswer q 0 0 (put 2 (s.putCtrl ctrl { c with authOk := true }))
        | .success2 => if st = 2 then fabAnswer q 0 0 s else fail
        | .failure2 => fail)

/-- AUTHENTICATION_RECEIVE (R453): the challenge, or the success message with the controller's own response where the entry
holds a controller secret. -/
def execAuthenticationReceive (ctrl : CtrlId) (len : Nat) (s : State) : Result :=
  let s := s.begin
  .next (match s.ctrl? ctrl with
    | none => s
    | some c =>
      if c.fabric = false ∨ c.resetting = true then s
      else
        let st := Tab.get 0 s.fab.auth ctrl
        let secret := ((hostEntry s c).map FabricHost.ctrlSecret).getD 0
        let m := if st = 1 then 0x201 else if st = 2 then (if secret = 0 then 0x203 else 0x213) else 0x200
        fabAnswer (adminQp s ctrl) 0 len (s.emit (.rdma (adminQp s ctrl) m (Config.physical s.free))).drawn)

/-- KEEP_ALIVE_TIMEOUT (R452, R457): the timer stands still in an activation's Pause. -/
def execKeepAliveTimeout (ctrl : CtrlId) (s : State) : Result :=
  let s := s.begin
  .next (match s.ctrl? ctrl with
    | none => s
    | some c => if c.kato = 0 ∨ s.nvq.act = 2 then s else assocEnd ctrl 5 s)

/-- HOST_CONNECTION_CLOSE (R455): CAUSE 4. -/
def execHostConnectionClose (ctrl : CtrlId) (s : State) : Result := .next (assocEnd ctrl 4 s.begin)

/-! ### The address table (R441, R462) -/

/-- Apply the selected entry: associations bound to an address that is removed or changed end. -/
def addressCommit (s : State) : State :=
  let k := s.rd F.FAB_ADDR_SEL_ENTRY
  let w := stagedBytes s k
  let err := addrCheck s k w
  let s := s.wr F.FAB_ADDR_CTL_ERR err
  if err ≠ 0 then s
  else
    let e := addrParse w
    let e := if addrOn e then e else {}
    let old := Tab.get {} s.fab.addrs k
    let addrs := Tab.set {} s.fab.addrs k e
    let s := { s with fab := { s.fab with addrs := addrs, flash := addrs, saved := true,
                                          staged := s.fab.staged.filter (fun x => decide (x.1 / 16 ≠ k)) } }
    if addrOn old = true ∧ (old.addr ≠ e.addr ∨ old.lp ≠ e.lp ∨ old.vlan ≠ e.vlan ∨ addrOn e = false) then
      assocEndWhere (fun q => decide (q.lp = old.lp ∧ q.addr = old.addr)) 4 s
    else s

/-- ADDRESS_COMMIT (R441): FAB_ADDR_CTL.COMMIT. -/
def execAddressCommit (_path : AccessPath) (s : State) : Result := .next (addressCommit s.begin)

end Sys2Proof.Machine
end

