-- ==== Sys2Proof/Machine/Mailbox.lean ====
section
/-! DEFINITION. Mailbox channels and control-core pairs (chapter "Mailboxes, doorbells and control cores"). -/

namespace Sys2Proof.Machine

open Sys2Proof

/-! ### Channels (R523 to R527) -/

def chanOf (s : State) (ch : Nat) : Chan := Tab.get {} s.mbx.chans ch

def putChan (ch : Nat) (c : Chan) (s : State) : State :=
  { s with mbx := { s.mbx with chans := Tab.set {} s.mbx.chans ch c } }

/-- The offset of word w of MBX_TX[ch] (R529). -/
def mbxTxOff (ch w : Nat) : Nat := 0x8000000 + 0x40 * ch + 4 * w

/-- The path is the channel's bound sender (R524). -/
def isSender (s : State) (p : AccessPath) (ch : Nat) : Bool :=
  decide ((chanOf s ch).sender ≠ 0xFF) && decide (masterOf s p = some (chanOf s ch).sender)

/-- The path is the channel's bound receiver (R524, R525). -/
def isReceiver (s : State) (p : AccessPath) (ch : Nat) : Bool :=
  decide ((chanOf s ch).receiver ≠ 0xFF) && decide (masterOf s p = some (chanOf s ch).receiver)

/-- An internal master: firmware or a hardware block (R524, R526). -/
def internalPath (p : AccessPath) : Bool :=
  match p with
  | .firmware _ => true
  | .hardware _ => true
  | _ => false

/-- An access that is not the bound master's (R524): a bus error to an internal master, ignored and logged on a host or
Custodian path. -/
def mbxRefuse (p : AccessPath) (off : Nat) (s : State) : State :=
  if internalPath p then s.emit (.busError (violator s p)) else accessViolation p off s

/-- The pair that carries a firmware identity (R520). -/
def pairOf (s : State) (i : Nat) : Option Nat :=
  (List.range 12).find? (fun p => decide (s.rd F.MBX_PAIR_STAT_STATE p ≠ 2 ∧ s.rd F.MBX_PAIR_STAT_STATE p ≠ 1 ∧
    (s.rd F.MBX_PAIR_STAT_ID_A p = i ∨ s.rd F.MBX_PAIR_STAT_ID_B p = i)))

/-- A push wakes the receiver of a firmware identity: a parked pair's domain powers up (R527). -/
def mbxWake (receiver : Nat) (s : State) : State :=
  match pairOf s receiver with
  | some p =>
    if receiver ≤ 10 ∧ s.rd F.MBX_PAIR_STAT_STATE p = 3 then
      { s with mbx := { s.mbx with waking := addNew p s.mbx.waking } }
    else s
  | none => s

/-- Write one of words 0 to 2 into staging (R524). -/
def mbxStage (p : AccessPath) (ch w v : Nat) (s : State) : State :=
  if isSender s p ch then
    putChan ch { (chanOf s ch) with staging := (chanOf s ch).staging.set w (v % 2 ^ 32) } s
  else mbxRefuse p (mbxTxOff ch w) s

/-- A full queue (R526): by the kind of sender. -/
def mbxOverflow (p : AccessPath) (ch : Nat) (s : State) : State :=
  if internalPath p then s.emit (.busError (violator s p))
  else
    let s := (s.wr F.MBX_CH_STAT_OVF 1 ch).wr F.MBX_EVT_OVERFLOW 1
    let s := peatRecord 0x8001 ch (violator s p) 0 s
    match p with
    | .expertWindow l f =>
      (match s.nvq.ctrls.find? (fun e => decide (e.2.port = .pcie l ∧ e.2.func = f.val ∧ e.2.fabric = false)) with
       | some e => aenPost e.1 0 0x04 0x01 s
       | none => s)
    | _ => s

/-- The write of word 3 pushes staging's words and word 3 (R524, R526, R527). -/
def mbxPush (p : AccessPath) (ch v : Nat) (s : State) : State :=
  if isSender s p ch = false then mbxRefuse p (mbxTxOff ch 3) s
  else
    let c := chanOf s ch
    if 16 ≤ c.queue.length then mbxOverflow p ch s
    else
      let m := c.staging.set 3 (v % 2 ^ 32)
      mbxWake c.receiver (putChan ch { c with staging := m, queue := c.queue ++ [m] } s)

/-- The receiver's read of word 3 returns it and pops the entry; any other master reads 0 and pops nothing (R524, R525). -/
def mbxPop (p : AccessPath) (ch : Nat) (s : State) : State :=
  let s := s.answer (mbxRx s (some p) ch 3)
  if isReceiver s p ch then putChan ch { (chanOf s ch) with queue := (chanOf s ch).queue.tail } s else s

/-- MAILBOX_PUSH (R524). -/
def execMailboxPush (path : AccessPath) (chan : Fin 256) (word : Word) (s : State) : Result :=
  .next (mbxPush path chan.val word.toNat s.begin)

/-- MAILBOX_POP (R525). -/
def execMailboxPop (path : AccessPath) (chan : Fin 256) (s : State) : Result := .next (mbxPop path chan.val s.begin)

/-! ### Pairs (R519 to R521) -/

/-- A pair is lost with a cause (R519): it stays in reset until the next boot; its identities wait for a takeover. A lost
spare carries none. An activation in Drain or Pause is abandoned (R583). -/
def losePair (p cause : Nat) (s : State) : State :=
  if s.rd F.MBX_PAIR_STAT_STATE p = 2 then s
  else
    let carried := decide (s.rd F.MBX_PAIR_STAT_STATE p ≠ 1)
    let s := ((s.wr F.MBX_PAIR_STAT_STATE 2 p).wr F.MBX_PAIR_STAT_CAUSE cause p).wr F.MBX_EVT_PAIR_LOST 1
    let s := pairLostActivation (faultAbsorbed bitPair p { s with mbx := { s.mbx with waking := dropOne p s.mbx.waking } })
    if carried then glbRefresh { s with mbx := { s.mbx with takeover := addNew p s.mbx.takeover } } else s

/-- PAIR_CHECKER_MISMATCH (R519 cause 1). -/
def execPairCheckerMismatch (pair : Fin 12) (s : State) : Result := .next (losePair pair.val 1 s.begin)

/-- PAIR_WATCHDOG_TIMEOUT (R519 cause 2). -/
def execPairWatchdogTimeout (pair : Fin 12) (s : State) : Result := .next (losePair pair.val 2 s.begin)

/-- PAIR_MEMORY_ERROR (R519 cause 3). -/
def execPairMemoryError (pair : Fin 12) (s : State) : Result := .next (losePair pair.val 3 s.begin)

/-- Who takes an identity (R520): the spare, else a surviving pair that carries one identity, the one with the fewest
journalled tasks; the manual does not say which that is, so the choice is a free value. -/
def takerOf (s : State) : Option Nat :=
  match (List.range 12).find? (fun p => s.rd F.MBX_PAIR_STAT_STATE p = 1) with
  | some p => some p
  | none =>
    let l := (List.range 12).filter (fun p => decide (s.rd F.MBX_PAIR_STAT_STATE p ≠ 2 ∧ s.rd F.MBX_PAIR_STAT_ID_B p = 15))
    l[s.draw l.length]?

/-- One identity moves to its taker (R520). -/
def takeIdentity (i : Nat) (s : State) : State :=
  match takerOf s with
  | none => s
  | some p =>
    if s.rd F.MBX_PAIR_STAT_STATE p = 1 then
      ((s.wr F.MBX_PAIR_STAT_STATE 0 p).wr F.MBX_PAIR_STAT_ID_A i p).wr F.MBX_PAIR_STAT_ID_B 15 p
    else (s.wr F.MBX_PAIR_STAT_ID_B i p).drawn

/-- PAIR_TAKEOVER (R520): the identities of a lost pair are taken over; the fault is restored (R31). -/
def execPairTakeover (lost : Fin 12) (s : State) : Result :=
  let s := s.begin
  .next (if lost.val ∈ s.mbx.takeover then
    let ids := [s.rd F.MBX_PAIR_STAT_ID_A lost.val, s.rd F.MBX_PAIR_STAT_ID_B lost.val].eraseDups.filter (fun i => i ≠ 15)
    let s := (s.wr F.MBX_PAIR_STAT_ID_A 15 lost.val).wr F.MBX_PAIR_STAT_ID_B 15 lost.val
    let s := eachOf ids takeIdentity s
    faultRestored bitPair lost.val { s with mbx := { s.mbx with takeover := dropOne lost.val s.mbx.takeover } }
  else s)

/-- PAIR_TEST_INJECT (R530): at Expert level the pair written, or the one selected before where the value is reserved
(R13), is lost with cause 1. -/
def execPairTestInject (path : AccessPath) (pair : Fin 16) (s : State) : Result :=
  let s := s.begin
  .next (if expertOpen s path then
    let s := if pair.val < 12 then s.wr F.MBX_PAIR_TEST_PAIR pair.val else accessViolation path 0x8010140 s
    losePair (s.rd F.MBX_PAIR_TEST_PAIR) 1 s
  else s)

/-- PAIR_WAKE (R527): the domain of a parked pair that a push has woken runs. -/
def execPairWake (pair : Fin 12) (s : State) : Result :=
  let s := s.begin
  .next (if pair.val ∈ s.mbx.waking then
    { s with mbx := { s.mbx with waking := dropOne pair.val s.mbx.waking } }.wr F.MBX_PAIR_STAT_STATE 0 pair.val
  else s)

end Sys2Proof.Machine
end

