-- ==== Sys2Proof/Machine/Mere.lean ====
section
/-! DEFINITION. The commands of the Mere (chapter "The Mere central store"). -/

namespace Sys2Proof.Machine

open Sys2Proof

/-- What an access waits for: its stack leaves self-refresh (R323), and the group of its valid bit is good (R311). -/
def rangeReady (a len : Nat) (s : State) : State :=
  if mereRangeOk s a len then checkGroups a len (unpark (mereStack a) s) else s

def mereReady (a : Nat) (mirror : Option Nat) (len : Nat) (s : State) : State :=
  let s := rangeReady a len s
  match mirror with
  | none => s
  | some m => rangeReady m len s

/-- The upsets that come with an access, as (number, flipped bits): of stored words, and from number 2^33 on of groups of the valid-bit
store. -/
def upsets (flips : List (Nat × Nat)) (s : State) : State :=
  eachOf (flips.filter (fun e => decide (2 ^ 33 ≤ e.1))) (fun e => flipGroup (e.1 - 2 ^ 33) e.2)
    (flipBits (flips.filter (fun e => decide (e.1 < 2 ^ 33))) s)

/-- A read of the Mere: the data with its poison indication, or a bus error (R300, R304, R307, R308). A mirrored read whose
primary no stack takes is served from the surviving copy (R35, R322; log entry 30). -/
def mereReadOp (requester a : Nat) (mirror : Option Nat) (len : Nat) (s : State) : State :=
  let s := mereReady a mirror len s
  match mereRangeOk s a len, mirror with
  | true, none =>
    let (r, s) := mereFetch a none len s
    s.emit (.mereData r.1 r.2)
  | true, some m =>
    let m' := if mereRangeOk s m len then some m else none
    let (r, s) := mereFetch a m' len s
    s.emit (.mereData r.1 r.2)
  | false, some m =>
    if mereRangeOk s m len then
      let (r, s) := mereFetch m none len s
      s.emit (.mereData r.1 r.2)
    else mereBusError requester a s
  | false, none => mereBusError requester a s

/-- A write of the Mere: to both copies of a mirrored structure that stand on stacks in service (R304, R313, R322). -/
def mereWriteOp (requester a : Nat) (mirror : Option Nat) (len v : Nat) (s : State) : State :=
  let s := mereReady a mirror len s
  match mereRangeOk s a len, mirror with
  | true, none =>
    let (p, s) := mereStore a none len v s
    s.emit (.mereWritten p)
  | true, some m =>
    let m' := if mereRangeOk s m len then some m else none
    let (p, s) := mereStore a m' len v s
    s.emit (.mereWritten p)
  | false, some m =>
    if mereRangeOk s m len then
      let (p, s) := mereStore m none len v s
      s.emit (.mereWritten p)
    else mereBusError requester a s
  | false, none => mereBusError requester a s

/-- MERE_READ (R307): the words' bit upsets, then the read. -/
def execMereRead (requester : BitVec 8) (addr : MereAddr) (mirror : Option MereAddr) (len : Nat)
    (flips : List (Nat × Nat)) (s : State) : Result :=
  .next (mereReadOp requester.toNat addr.toNat (mirror.map BitVec.toNat) len (upsets flips s.begin))

/-- MERE_WRITE (R313). -/
def execMereWrite (requester : BitVec 8) (addr : MereAddr) (mirror : Option MereAddr) (len data : Nat)
    (flips : List (Nat × Nat)) (s : State) : Result :=
  .next (mereWriteOp requester.toNat addr.toNat (mirror.map BitVec.toNat) len data (upsets flips s.begin))

/-- The scrubber's word (R316): single errors are written back, an uncorrectable word gets the poison tag over the data
as read. -/
def scrubWord (a : Nat) (s : State) : State :=
  let c := findAt s a
  let s := noteCheck a c s
  match c with
  | .good d _ => putWord a d false s
  | .poisoned d _ => putWord a d true s
  | .uncorrectable d _ => putWord a d true s

/-- A stored microword is scrubbed (R252, R253, R317): a single error is written back, an uncorrectable word has the bank restored. Words
are numbered by bank, store and address. -/
def scrubMicroword (word flips : Nat) (s : State) : State :=
  let bank := word / 131072 % 2
  let f := word / 8192 % 16
  let w := ucWordAt s f bank (word % 8192) ^^^ flips % 2 ^ 39
  match ucFetchWord w with
  | .good _ => s
  | .corrected d => ucPutWord f bank (word % 8192) (ucEncode d) s
  | .bad => bankDamaged f bank (ucPutWord f bank (word % 8192) w s)

/-- A word of an on-die memory is scrubbed by its owner's rules (R317); the owners of memories 2 to 5 give none. -/
def scrubOnDie (memory word flips : Nat) (s : State) : State :=
  if memory = 0 then checkGroup word (flipGroup word flips s)
  else if memory = 1 then scrubMicroword word flips s
  else s

/-- SCRUB_STEP (R316, R317): a word in a valid region of a stack in service that is not parked, or of an on-die memory, while the scrubber
is enabled; the lap moves on. -/
def execScrubStep (place : ScrubPlace) (flips : Nat) (s : State) : Result :=
  .next (match place with
    | .mere addr =>
      let a := addr.toNat
      let s := flipBits [(a / 32, flips)] s.begin
      if mereOk s a && s.isSet F.MERE_SCRUB_CTL_EN && !s.isSet F.MERE_STAT_PARKED (mereStack a) && regionValid s a then
        lapStep (mereStack a) (lapWords s (mereStack a)) (scrubWord a s)
      else s
    | .onDie m word =>
      let s := s.begin
      if s.isSet F.MERE_SCRUB_CTL_EN then lapStep (8 + m.val) (lapWords s (8 + m.val)) (scrubOnDie m.val word flips s) else s)

/-- BUCKET_LEAK (R318): LEAK ms have passed. -/
def execBucketLeak (s : State) : Result := .next (leakAll s.begin)

/-- STACK_FENCE (R320): one of the causes 1 to 7. -/
def execStackFence (stack cause : Fin 8) (s : State) : Result := .next (fenceStack stack.val cause.val s.begin)

/-- MERE_FENCE_WRITE (R328): each bit set fences its stack with cause 7, with Expert level open on the path (R16). -/
def execMereFenceWrite (path : AccessPath) (mask : Word) (s : State) : Result :=
  let s := s.begin
  .next (if expertOpen s path then
    eachOf ((List.range 8).filter (fun k => bitOf mask.toNat k)) (fun k => fenceStack k 7) s
  else s)

/-- REMIRROR_DONE (R321): the stack's structures have two copies again. -/
def execRemirrorDone (stack : Fin 8) (s : State) : Result :=
  let s := s.begin
  .next (if stack.val ∈ s.mere.remirror then
    let s := remirrorPieces (remirrorDirty s)
    faultRestored bitStack stack.val { s with mere := { s.mere with remirror := dropOne stack.val s.mere.remirror } }
  else s)

/-- SCRUB_ENABLE_TIMEOUT (R327): 600 s after EN was cleared the device sets it again. -/
def execScrubEnableTimeout (s : State) : Result := .next (s.begin.wr F.MERE_SCRUB_CTL_EN 1)

/-- OVF_24H_AGE_OUT (R326): an overflow leaves the 24 h count. -/
def execOvf24hAgeOut (stack : Fin 8) (s : State) : Result :=
  let s := s.begin
  .next (s.wr F.MERE_BKT_OVF_24H (s.rd F.MERE_BKT_OVF_24H stack.val - 1) stack.val)

end Sys2Proof.Machine
end

