-- ==== Sys2Proof/Machine/RegEffects.lean ====
section
/-! DEFINITION. What a masked write of one register does, the block's own action included, for the registers that no session
or reset stands behind (R9 to R17, R42, and the register sections of the block chapters). -/

namespace Sys2Proof.Machine

open Sys2Proof

/-- Keep a field as it was. -/
def keepField (old : State) (f : Field) (i : Nat) (s : State) : State := s.wr f (old.rd f i) i

/-- The bits a masked write puts into a WO field, 0 where the path may not use it. -/
def woMasked (s : State) (p : AccessPath) (f : Field) (value mask : Nat) : Nat := woBits s p f (value &&& mask)

/-- HEW_RING_BASE and HEW_RING_CFG (R241, R242): BASE and SIZE_LOG2 hold while ENABLE is 1; ENABLE starts and stops fetch. -/
def hewCfgWrite (p : AccessPath) (n off value mask : Nat) (s : State) : State :=
  let was := s.isSet F.HEW_RING_CFG_ENABLE n
  let t := maskedWrite p off value mask s
  let t := if was then keepField s F.HEW_RING_BASE_ADDR n (keepField s F.HEW_RING_CFG_SIZE_LOG2 n t) else t
  let now := t.isSet F.HEW_RING_CFG_ENABLE n
  if was = now ∨ s.isSet F.HEW_PF_STAT_HALT = true then t else t.wr F.HEW_STAT_STATE (if now = false then 0 else if linkUp t n then 1 else 3) n

/-- CIP_RING_BASE and CIP_RING_CFG (R504): as the hewers' rings. -/
def cipCfgWrite (p : AccessPath) (n off value mask : Nat) (s : State) : State :=
  let t := maskedWrite p off value mask s
  cipFetch 4096 n (if s.isSet F.CIP_RING_CFG_ENABLE n then
    keepField s F.CIP_RING_BASE_ADDR n (keepField s F.CIP_RING_CFG_SIZE_LOG2 n t) else t)

/-- DMA_RING_BASE and DMA_CH_CFG (R516): as the hewers' rings; an idle channel that is enabled fetches. -/
def dmaCfgWrite (p : AccessPath) (n off value mask : Nat) (s : State) : State :=
  let t := maskedWrite p off value mask s
  let t := if s.isSet F.DMA_CH_CFG_ENABLE n then keepField s F.DMA_RING_BASE_ADDR n (keepField s F.DMA_CH_CFG_SIZE_LOG2 n t) else t
  if t.isSet F.DMA_CH_CFG_ENABLE n = true ∧ (t.dma.jobs.find n).isNone = true then dmaNext n t else t

/-- SEAM_CTL (R295): LOOPBACK only in DISABLED or HELD; ENABLE and RETRAIN act on the link. -/
def seamCtlMasked (p : AccessPath) (l off value mask : Nat) (s : State) : State :=
  let t := maskedWrite p off value mask s
  let t := if seamState s l = 0 ∨ seamState s l = 10 then t else keepField s F.SEAM_CTL_LOOPBACK l t
  let en := t.isSet F.SEAM_CTL_ENABLE l
  let t := if en = s.isSet F.SEAM_CTL_ENABLE l then t else seamEnable l en (keepField s F.SEAM_CTL_ENABLE l t)
  if woMasked s p F.SEAM_CTL_RETRAIN value mask = 1 then seamRetrainAsk l t else t

/-- PEAT_SNAP_CFG[i] (R534, R544): one snapshot of the selected code, at Expert level. -/
def snapWrite (p : AccessPath) (i value : Nat) (s : State) : State :=
  if expertOpen s p = false then
    (if value % 2 ≠ 0 ∨ bits value 2 28 ≠ 0 then accessViolation p (0x9000110 + 4 * i) s else s)
  else
    let code := s.rd F.PEAT_CODE_SEL_CODE
    let c := Tab.get {} s.peat.codes code
    let l := (List.range 8).map (fun j => if j = i then (value % 2, bits value 2 28 * 4) else c.snaps.getD j (0, 0))
    { s with peat := { s.peat with codes := Tab.set {} s.peat.codes code { c with snaps := l } } }

/-- FAB_QOS_CTL (R13, R445, R460): CWY_PRI equal to ROCE_PRI is a reserved encoding of CWY_PRI, which keeps its value; the rest of
the write is applied. Where the value kept is the new ROCE_PRI itself the manual says nothing: ROCE_PRI keeps its value too (DESIGN
CHOICE, log entry 85). -/
def qosWrite (p : AccessPath) (off value mask : Nat) (s : State) : State :=
  let t := maskedWrite p off value mask s
  if t.rd F.FAB_QOS_CTL_CWY_PRI = t.rd F.FAB_QOS_CTL_ROCE_PRI then
    let t := keepField s F.FAB_QOS_CTL_CWY_PRI 0 t
    accessViolation p off (if t.rd F.FAB_QOS_CTL_CWY_PRI = t.rd F.FAB_QOS_CTL_ROCE_PRI then keepField s F.FAB_QOS_CTL_ROCE_PRI 0 t else t)
  else t

/-- SEAL_CTL (R570): MODE and DISC as their access says, SOFT from a Custodian session alone, CLEAR under R565. -/
def sealCtlWrite (p : AccessPath) (off value mask : Nat) (s : State) : State :=
  let t := keepField s F.SEAL_CTL_SOFT 0 (maskedWrite p off value mask s)
  let t := if bitOf mask 17 then sealSoft p (bitOf value 17) t else t
  if woMasked s p F.SEAL_CTL_CLEAR value mask = 1 then sealClear p t else t

/-- What a register write does once its fields have taken it. -/
def afterWrite (p : AccessPath) (base i value mask : Nat) (s : State) : State :=
  let wo := fun (f : Field) => woMasked s p f value mask
  if base = 0x300010 then (if wo F.CFG_LOT_CTL_START = 1 then lotStart p (s.rd F.CFG_LOT_CTL_LOT_TYPE) s else s)
  else if base = 0x48 then expertKeyWrite p (value &&& mask) s
  else if base = 0x4C then (match pathKey p, wo F.GLB_EXPERT_STAT_CLOSE with
    | some k, 1 => closeExpert k s
    | _, _ => s)
  else if base = 0x11000000 then rebuildPend s
  else if base = 0x11000004 then fenRefresh s
  else if base = 0x14000008 then hewTailWrite i (s.rd F.HEW_RING_TAIL_TAIL i) s
  else if base = 0x6001008 then cipFetch 4096 i s
  else if base = 0x7000008 then (if (s.dma.jobs.find i).isSome then s else dmaNext i s)
  else if base = 0x7000010 then dmaCtlWrite p i (value &&& mask) s
  else if base = 0x9000004 then (if wo F.PEAT_CTL_NOW = 1 then peatArchiveAll 65536 s else s)
  else if base = 0x10000300 then (if wo F.MAP_CKPT_CTL_NOW = 1 then startCheckpoint s else s)
  else if base = 0x12000010 then
    let s := if wo F.RET_DREDGE_CTL_START = 1 then dredgeStart s else s
    if wo F.RET_DREDGE_CTL_ABORT = 1 then dredgeAbort s else s
  else if base = 0x8010140 then (if wo F.MBX_PAIR_TEST_INJECT = 1 then losePair (s.rd F.MBX_PAIR_TEST_PAIR) 1 s else s)
  else if base = 0x5000300 then eachOf ((List.range 8).filter (fun k => bitOf (wo F.MERE_FENCE_FENCE) k)) (fun k s => fenceStack k 7 s) s
  else if base = 0x400010 then
    let s := if wo F.PWR_HT_CTL_ARM = 1 then htArm s else s
    if wo F.PWR_HT_CTL_CANCEL = 1 then htCancel s else s
  else if base = 0x3000240 then (if wo F.FAB_ADDR_CTL_COMMIT = 1 then addressCommit s else s)
  else s

/-- A masked write of the register at an aligned offset, with the block's action. -/
def blockWrite (p : AccessPath) (off value mask : Nat) (s : State) : State :=
  let merged := (readWord s p off &&& (0xFFFFFFFF - mask)) ||| (value &&& mask)
  match locate off with
  | none => s
  | some (r, i) =>
    if r.base = 0x14000000 ∨ r.base = 0x14000004 then hewCfgWrite p i off value mask s
    else if r.base = 0x6001000 ∨ r.base = 0x6001004 then cipCfgWrite p i off value mask s
    else if r.base = 0x7000000 ∨ r.base = 0x7000004 then dmaCfgWrite p i off value mask s
    else if r.base = 0x18000000 then seamCtlMasked p i off value mask s
    else if r.base = 0x500000 then sealCtlWrite p off value mask s
    else if r.base = 0x9000104 then peatRlWrite p merged s
    else if r.base = 0x9000110 then snapWrite p (i % 8) merged s
    else if r.base = 0x3000100 then qosWrite p off value mask s
    else if r.base = 0x3000204 then
      { s with fab := { s.fab with staged := s.fab.staged.put (16 * s.rd F.FAB_ADDR_SEL_ENTRY + i) (merged % 2 ^ 32) } }
    else if r.base = 0x300010 ∧ s.cfg.reapply.isSome = true ∧ woMasked s p F.CFG_LOT_CTL_START value mask = 1 then
      lotStart p (bits merged 0 8) s
    else if r.base = 0x8000000 then (if i % 4 = 3 then mbxPush p (i / 4) merged s else mbxStage p (i / 4) (i % 4) merged s)
    else afterWrite p r.base i value mask (maskedWrite p off value mask s)

/-- One REGINIT entry is one write on its path (R42): an offset of the CUS block is the Custodian port's alone (R593), BOOT_RESET
with its key asks for a device reset with cause 4 (R615, R628), which takes effect once boot has ended. DESIGN CHOICE, log entry
85: a reserved encoding that an entry writes is taken as any register write takes it (R13). -/
def reginitEntry (off value mask : Nat) (s : State) : State :=
  if 0xB000000 ≤ off ∧ off < 0xC000000 then accessViolation .reginit off s
  else if off = 0x200010 ∧ bits (value &&& mask) F.BOOT_RESET_KEY.lsb F.BOOT_RESET_KEY.width = 0xA5C3 then
    { s with boot := { s.boot with resetDue := some 4 } }
  else blockWrite .reginit off value mask s

/-- The REGINIT entries run in image order (R42). A reserved encoding among them is judged as a register write, under R13 (DESIGN CHOICE,
log entry 85). -/
def reginitRun (l : ReginitLot) (s : State) : State := eachOf l.entries (fun e s => reginitEntry e.1 e.2.1 e.2.2 s) s

end Sys2Proof.Machine
end

