-- ==== Sys2Proof/Machine/Update.lean ====
section
/-! DEFINITION. Firmware download, commit and activation (chapters "Firmware update and activation", "NVMe ordering and
durability"). -/

namespace Sys2Proof.Machine

open Sys2Proof

/-! ### Download (R578, R580, R588) -/

/-- FIRMWARE_IMAGE_DOWNLOAD (R578): OFST and NUMD of the command place the piece. -/
def execFirmwareImageDownload (slot : SlotNo) (piece : Piece) (s : State) : Result :=
  .next (withCmd slot.val (fun k => k.isAdmin 0x11) (fun k _ s =>
    let r := downloadPiece k.ctrl 0 { piece with off := 4 * k.dw 11, len := 4 * (k.dw 10 + 1) } s
    finishCmd slot.val r.1.status 0 0 r.2) s.begin)

/-! ### Activation without reset (R257, R375, R581, R582) -/

/-- The CRC-32C of the data words of a bank (R256, R257). -/
def bankCrc (s : State) (f bank : Nat) : Nat := crc32c ((List.range 8192).flatMap (fun a => leBytes 4 (masterWord s f bank a)))

/-- The fens that a patch set names. -/
def patchFens (p : PatchSet) : List Nat := (List.range 16).filter (fun f => bitOf p.fenMask.toNat f)

/-- The comparisons of R257 for one store: none where they hold, else the ADDR of the first that fails. -/
def patchFails (s : State) (p : PatchSet) (f : Nat) : Option Nat :=
  let live := s.rd F.UCS_BANK_LIVE f
  if bankCrc s f live ≠ p.baseCrc then some 0
  else (p.recs.find? (fun r => decide (masterWord s f live r.addr ≠ r.old % 2 ^ 32))).map PatchRec.addr

/-- Copy the live bank of a store to the idle one and put the patch into it, master copy too (R257). -/
def patchBank (p : PatchSet) (f : Nat) (s : State) : State :=
  let live := s.rd F.UCS_BANK_LIVE f
  eachOf p.recs (fun r s => putMaster f (1 - live) r.addr (r.new_ % 2 ^ 32) (ucPutWord f (1 - live) r.addr (ucEncode r.new_) s)) (loadBank f live (1 - live) s)

/-- The stores that a firmware image patches. -/
def imagePatches (i : FwImage) : List Nat := (i.patch.map patchFens).getD []

/-- A commit is refused with an R580 code in UPD_STAT.ERR, and REFUSED is set (R579, R580, R590). -/
def commitRefuse (status err : Nat) (s : State) : State :=
  commitEnd { status := status, task := 7, detail := err } ((s.wr F.UPD_STAT_ERR err).wr F.UPD_EVT_REFUSED 1)

/-- Hold (R375): fetch stops, CSTS.PP reads 1, and each controller with an outstanding request is told. -/
def holdBegins (k : Nat) (s : State) : State :=
  let s := ((s.wr F.NVQ_ACT_STAT_DRAIN_MS 0).wr F.NVQ_ACT_STAT_PAUSE_US 0).wr F.NVQ_ACT_STAT_ABANDONED 0
  let s := (setPp true { s with nvq := { s.nvq with act := 1, actSlot := some k } }).wr F.UPD_STAT_STATE 3
  eachOf (s.nvq.ctrls.filter (fun e => !e.2.aers.isEmpty)) (fun e s => aenPost e.1 2 0x01 0x03 s) s

/-- Begin the activation of slot `k` (R581): it waits while a re-apply, an epoch or a needed bank switch is open; then the
comparisons of R257, and Hold. -/
def activationBegin (k : Nat) (i : FwImage) (s : State) : State :=
  let s := powerWaitBusy s
  let bad := decide (fwDigestsOk i = false)
  let fens := imagePatches i
  if s.cfg.reapply.isSome = true ∨ s.ucs.epoch.isSome = true ∨ fens.any (fun f => s.isSet F.UCS_BANK_PENDING f) = true then s
  else if bad then commitRefuse 0x107 0x08 s
  else
    match i.patch with
    | none => holdBegins k s
    | some p =>
      match fens.find? (fun f => (patchFails s p f).isSome) with
      | some f => commitRefuse 0x107 0x0B (peatRecord 0xC601 f ((patchFails s p f).getD 0) 0 (s.wr F.UCS_BANK_PATCH_ERR 1 f))
      | none => holdBegins k s

/-- CA 0b000 and 0b001 (R579): the staging slot is marked stored, and pending with 0b001. -/
def commitStore (pend : Bool) (k : Nat) (s : State) : State :=
  if k = s.upd.running then commitRefuse 0x106 0x0C s
  else if (fwSlot s k).isNone then commitRefuse 0x107 0x09 s
  else
    let s := { s with upd := { s.upd with stored := true } }
    if pend then commitEnd { status := 0x10B, task := 0 } (putSel s.upd.active k 3 s)
    else commitEnd { status := 0, task := 0 } s

/-- CA 0b010 (R579). -/
def commitNextReset (k : Nat) (s : State) : State :=
  if k = s.upd.running then commitEnd { status := 0, task := 0 } (putSel s.upd.active 0 0 s)
  else match fwSlot s k with
    | none => commitRefuse 0x107 0x09 s
    | some i =>
      if i.serial < s.upd.floor then commitRefuse 0x107 0x05 s
      else commitEnd { status := 0, task := 0 } (putSel s.upd.active k 3 s)

/-- CA 0b011 (R579): the running slot succeeds at once and does nothing. -/
def commitNow (k : Nat) (s : State) : State :=
  if k = s.upd.running then commitEnd { status := 0, task := 0 } s
  else match fwSlot s k with
    | none => commitRefuse 0x107 0x09 s
    | some i =>
      if i.serial < s.upd.floor then commitRefuse 0x107 0x05 s
      else if nvqSealed s then commitEnd { status := 0x113, task := 6 } s
      else if (fwSlot s s.upd.running).all (fun r => resetNeeded r i) = true then commitEnd { status := 0x10B, task := 7 } s
      else activationBegin k i s

/-- A Firmware Commit (R579) by a command slot or by the Custodian: only one runs at a time; one that waits may try again. -/
def fwCommit (ca fs who : Nat) (s : State) : State :=
  if s.upd.commit.any (fun n => decide (n ≠ who)) = true then
    (if who = cusCommit then taskEnd 5 0 s else finishCmd who scSequence 0 0 s)
  else if s.upd.commit.isSome = true ∧ s.nvq.act ≠ 0 then s
  else
    let s := { s with upd := { s.upd with commit := some who } }
    let k := if fs = 0 then fwStaging s else fs
    if 2 < fs then commitEnd { status := 0x106, task := 2 } s
    else if ca = 0 then commitStore false k s
    else if ca = 1 then commitStore true k s
    else if ca = 2 then commitNextReset k s
    else if ca = 3 then commitNow k s
    else commitEnd { status := scInvalidField, task := 2 } s

/-- A Firmware Commit command of one Commit Action. -/
def commitCmd (n ca : Nat) (s : State) : State :=
  withCmd n (fun k => k.isAdmin 0x10 && decide (bits (k.dw 10) 3 3 = ca)) (fun k _ s => fwCommit ca (bits (k.dw 10) 0 3) n s) s

/-- FW_COMMIT_STORE: CA 0b000. -/
def execFwCommitStore (slot : SlotNo) (s : State) : Result := .next (commitCmd slot.val 0 s.begin)

/-- FW_COMMIT_STORE_PENDING: CA 0b001. -/
def execFwCommitStorePending (slot : SlotNo) (s : State) : Result := .next (commitCmd slot.val 1 s.begin)

/-- FW_COMMIT_ACTIVATE_NEXT_RESET: CA 0b010. -/
def execFwCommitActivateNextReset (slot : SlotNo) (s : State) : Result := .next (commitCmd slot.val 2 s.begin)

/-- FW_COMMIT_ACTIVATE_NOW: CA 0b011. -/
def execFwCommitActivateNow (slot : SlotNo) (s : State) : Result := .next (commitCmd slot.val 3 s.begin)

/-- Every Admitted command has finished, but the commit itself and the outstanding Asynchronous Event Requests (R375). -/
def drained (s : State) : Bool :=
  s.nvq.slots.all (fun e => decide (e.2.state ≠ .admitted ∨ s.upd.commit = some e.1 ∨ (e.2.sqid = 0 ∧ e.2.opc = 0x0C)))

/-- ACTIVATION_DRAIN_END (R375, R581): Drain ends, each patch stands in the idle bank of its store, and Pause begins. -/
def execActivationDrainEnd (ms : Nat) (s : State) : Result :=
  let s := s.begin
  .next (if s.nvq.act ≠ 1 ∨ drained s = false then s
    else
      let s := s.wr F.NVQ_ACT_STAT_DRAIN_MS (ms % 2048)
      let s := match (s.nvq.actSlot.bind (fwSlot s)).bind FwImage.patch with
        | some p => eachOf (patchFens p) (patchBank p) s
        | none => s
      { s with nvq := { s.nvq with act := 2 } })

/-- ACTIVATION_DRAIN_TIMEOUT (R375): 1,000 ms after Hold the activation is abandoned. -/
def execActivationDrainTimeout (s : State) : Result :=
  let s := s.begin
  .next (if s.nvq.act ≠ 1 then s else abandonActivation { status := 0x112, task := 7 } (s.wr F.NVQ_ACT_STAT_ABANDONED 1))

/-- The set of the live retry bank. -/
def liveRetry (s : State) : Option RetrySet := if s.rd F.LDPC_RRT_CTL_BANK = 0 then s.ldpc.rrtA else s.ldpc.rrtB

/-- ACTIVATION_PAUSE_END (R375, R582): the selection record makes the new slot ACTIVE, and it runs; at Resume the patched banks
switch, every session is greeted afresh, and a new retry set opens its epoch. -/
def execActivationPauseEnd (us : Nat) (s : State) : Result :=
  let s := s.begin
  .next (if s.nvq.act ≠ 2 then s
    else match s.nvq.actSlot with
      | none => s
      | some k =>
        let s := putSel k 0 0 { s with upd := { s.upd with running := k }, nvq := { s.nvq with act := 0, actSlot := none } }
        let s := ((s.wr F.NVQ_ACT_STAT_PAUSE_US (us % 1024)).wr F.UPD_EVT_ACTIVATED 1).wr F.UPD_STAT_STATE 0
        let s := eachOf (((fwSlot s k).map imagePatches).getD []) askSwitch s
        let s := helloAll s
        let s := if (fwRetry s).isSome = true ∧ fwRetry s ≠ liveRetry s then epochPrepare .retryTable true s else s
        commitEnd { status := 0, task := 0 } (setPp false s))

end Sys2Proof.Machine
end

