-- ==== Sys2Proof/Machine/Boot.lean ====
section
/-! DEFINITION. Clocks, resets and the eight boot steps (chapter "Clocks, resets and start-up"). -/

namespace Sys2Proof.Machine

open Sys2Proof

/-! ### Resets (R614, R615, R617) -/

/-- A device reset is asked for: at once where no host face is up and no data is dirty, else after the sequence of R615. After a
power-fail decision there is none: the decision ends in a power-on boot (R549, R615). -/
def askReset (cause : Nat) (s : State) : State :=
  if s.pwr.decided then s
  else if s.boot.done = false ∧ s.map.dirty.isEmpty = true then deviceReset cause s
  else { s with boot := { s.boot with resetDue := some cause } }

/-- The device stops at its step (R617, R618, R45): the host faces stay down, FAULT_N is low. -/
def bootStop (s : State) : State :=
  bootNote (glbRefresh { s with boot := { s.boot with stopped := true } })

/-- A failed step's automatic reset (R617): cause 5, counted in AUTO; at AUTO_MAX the device stops instead. -/
def autoReset (s : State) : State :=
  let n := s.rd F.BOOT_STAT_AUTO
  if s.rd F.BOOT_CTL_AUTO_MAX ≤ n then bootStop s else askReset 5 (s.wr F.BOOT_STAT_AUTO (n + 1))

/-- A step's failure in the record (R621) and in the Peat log. -/
def noteFailure (k code : Nat) (s : State) : State :=
  peatRecord 0x0201 k code 0 (setRecord (fun r => { r with failed := k, code := code % 256 }) s)

/-- The flag that a failure sets for the next start (R616). -/
def failFlag (k code : Nat) (r : BootRecord) : BootRecord :=
  match k with
  | 1 => { r with sticky := putBit r.sticky 3 true }
  | 2 => { r with sticky := putBit r.sticky 2 true }
  | 5 => { r with mereSlow := putBit r.mereSlow (code % 8) true }
  | 6 => { r with seamSlow := putBit r.seamSlow (code % 16) true }
  | 7 => { r with sticky := putBit r.sticky 1 true }
  | _ => r

/-- A firmware try fails (R584): the boot ROM resets the device and chooses again. -/
def tryFails (k code : Nat) (s : State) : State := deviceReset 6 (noteFailure k code s)

/-- This start is a try of PENDING. -/
def isTry (s : State) : Bool := bitOf (thisRecord s).slots 3

/-- A step that ends in a device reset fails (R616, R617), with its flags for the next start. A second failure of step 6 under
its alternate stops there. -/
def stepFailWith (k code : Nat) (flags : BootRecord → BootRecord) (s : State) : State :=
  let again := decide (k = 6) && decide ((thisRecord s).seamSlow ≠ 0)
  let s := setRecord flags (noteFailure k code s)
  if again then bootStop s else autoReset s

/-- A step that fails with its one cause. -/
def stepFail (k code : Nat) (s : State) : State := stepFailWith k code (failFlag k code) s

/-- Step 6 fails in one or more groups: each is named for the next start (R616), the first is the record's CODE. -/
def seamFail (groups : List Nat) (s : State) : State :=
  stepFailWith 6 (groups.headD 0) (fun r => groups.foldl (fun r g => failFlag 6 g r) r) s

/-- A step has ended (R621): its DONE bit and time, its ALT bit; the next step begins. -/
def stepDone (k ms : Nat) (alt : Bool) (s : State) : State :=
  let s := setRecord (fun r => { r with done := putBit r.done (k - 1) true, ms := r.ms.set (k - 1) ms,
                                        alt := if alt then putBit r.alt (k - 1) true else r.alt }) s
  bootNote (if k = 8 then { s with boot := { s.boot with done := true } } else { s with boot := { s.boot with step := k + 1 } })

/-- A flag clears when its step has ended by its alternate (R618). -/
def clearFlag (bit : Nat) (s : State) : State := setRecord (fun r => { r with sticky := putBit r.sticky bit false }) s

/-! ### Steps 1 to 3 -/

/-- A pooled unit that fails its known-answer test is fenced (R35); its unit index in the Peat entry: log entry 53. -/
def katFence (u : PoolUnit) (s : State) : State :=
  match u with
  | .hardDecoder n => fenceDecoder false n.val s
  | .softDecoder n => fenceDecoder true n.val s
  | .cipherPipe n => fenceCipher F.CIP_PIPE_FENCED_FENCED n.val n.val s
  | .ghashLane n => fenceCipher F.CIP_LANE_FENCED_FENCED n.val (0x100 + n.val) s

/-- Step 1 (R616, R315): the Mere checkers, and the known-answer tests unless they are skipped (R619). -/
def bootStep1 (x : BootFacts) (s : State) : State :=
  let r := thisRecord s
  let s := eachOf (List.range 8) (fun k s => if bitOf x.checkersOk.toNat k then s.wr F.MERE_STAT_CHK_PASS 1 k else fenceStack k 1 s) s
  let s := if bitOf r.skipped 0 then s else eachOf x.katFailed katFence s
  let s := if bitOf r.skipped 0 ∨ x.katOk = true then s else { s with boot := { s.boot with optFail := putBit s.boot.optFail 0 true } }
  stepDone 1 x.ms (bitOf r.sticky 3) (clearFlag 3 s)

/-- Step 2 (R616, R38): the fuses; the image-signing and the firmware-signing key are good where their digests are the ones read there. -/
def bootStep2 (x : BootFacts) (s : State) : State :=
  let s := { s with cfg := { s.cfg with keyOk := keyMatches s.cfg.signKey s.cfg.signDigest },
                    upd := { s.upd with keyOk := keyMatches s.upd.fwKey s.upd.fwDigest } }
  stepDone 2 x.ms (bitOf (thisRecord s).sticky 2) (clearFlag 2 s)

/-- The check of the chosen slot (R577, R584): 0, or the R580 code. -/
def slotCheck (s : State) : Nat :=
  match fwSlot s s.upd.running with
  | none => 0x09
  | some i => if i.bootsOk = false then 0x04 else if i.serial < s.upd.floor then 0x05 else 0

/-- Identity i goes to pair i, pair 11 is spare (R520, R530). -/
def givePairs (s : State) : State :=
  eachOf (List.range 12) (fun p s =>
    ((s.wr F.MBX_PAIR_STAT_STATE (if p = 11 then 1 else 0) p).wr F.MBX_PAIR_STAT_ID_A (if p = 11 then 15 else p) p).wr F.MBX_PAIR_STAT_ID_B 15 p) s

/-- Step 3 (R616, R584): the firmware is verified and the identities are given; its retry set is in force (R206). -/
def bootStep3 (x : BootFacts) (s : State) : State :=
  let e := slotCheck s
  if e ≠ 0 then (if isTry s then tryFails 3 e s else stepFail 3 e s)
  else
    let s := givePairs s
    let s := { s with ldpc := { s.ldpc with rrtA := (fwSlot s s.upd.running).bind FwImage.retry } }
    stepDone 3 x.ms false s

/-! ### Step 4: the Twima image (R42, R45) -/

/-- The patch set of the firmware that boots is applied to each store whose comparisons hold (R257). -/
def bootPatch (s : State) : State :=
  match (fwSlot s s.upd.running).bind FwImage.patch with
  | none => s
  | some p =>
    eachOf (patchFens p) (fun f s =>
      match patchFails s p f with
      | some a => peatRecord 0xC601 f a 0 (s.wr F.UCS_BANK_PATCH_ERR 1 f)
      | none => askSwitch f (patchBank p f s)) s

/-- REGINIT_RUN (R42): the list runs, then LOCKED. -/
def runReginit (i : TwimaImage) (s : State) : State := (reginitRun i.reginit s).wr F.CFG_STATUS_LOCKED 1

/-- TWIMA_IMAGE_APPLY (R45): every lot in force, REGINIT last. -/
def twimaApply (i : TwimaImage) (backup : Bool) (s : State) : State :=
  let s := (({ s with cfg := { s.cfg with run := some i } }).wr F.CFG_SERIAL_SERIAL i.serial).wrB F.CFG_STATUS_SLOT backup
  let s := { s with hif := { s.hif with windows := i.windows.2 }, slu := { s.slu with lot := i.sluice } }
  let s := logClamps i.sluice (resNote i.nvmectl s)
  let s := eachOf (List.range 16) (fun f s => writeBank i.ucode f 1 (writeBank i.ucode f 0 s)) s
  let s := eachOf i.mbxlock.binds (fun e s => putChan e.1 { (chanOf s e.1) with sender := e.2.1, receiver := e.2.2 } s) s
  let s := { s with cip := { s.cip with drbgUp := true } }
  let s := eachOf (List.range 33) renewNonce s
  htBoot (runReginit i (bootPatch s))

/-- The image in a slot, and the code that refuses it: 0 where it is good. -/
def slotImage (s : State) (n : Nat) : Option TwimaImage × Nat :=
  match s.cfg.slots.find n with
  | none => (none, 0x01)
  | some i => (some i, bootCheck s i)

/-- A refused image at boot (R60, R535). -/
def imageRefused (which code : Nat) (s : State) : State :=
  (peatRecord 0x0301 which code 0 (setRecord (fun r => { r with code := code }) s)).wr F.CFG_STATUS_LAST_ERR code

/-- The backup image is applied, or the device stops at step 4 (R45). -/
def applyBackup (x : BootFacts) (s : State) : State :=
  match slotImage s (slotRec s).backup with
  | (some i, 0) =>
    let s := setRecord (fun r => { r with slots := putBit r.slots 2 true, sticky := putBit r.sticky 0 true }) s
    stepDone 4 x.ms true (twimaApply i true s)
  | (_, e) => bootStop (noteFailure 4 e (imageRefused 1 e s))

/-- Step 4 (R616, R45, R618): the primary, unless PRIMARY_BAD is set, else the backup. -/
def bootStep4 (x : BootFacts) (s : State) : State :=
  if bitOf (thisRecord s).sticky 0 then applyBackup x s
  else
    match slotImage s (slotRec s).primary with
    | (some i, 0) => stepDone 4 x.ms false (twimaApply i false s)
    | (_, e) => applyBackup x (imageRefused 0 e s)

/-! ### Steps 5 and 6 -/

/-- The links bound to fens (R274). -/
def boundLinks (s : State) : List Nat := ((memberKeys s).map (fun k => memberLink s (k / 32) (k % 32))).filter (fun l => decide (l < 512))

/-- Seam training begins (R274, R616, R618): links of the groups named in SEAM_SLOW take RATE_MAX 0. -/
def seamBegin (s : State) : State :=
  let slow := (thisRecord s).seamSlow
  eachOf (boundLinks s) (fun l s =>
    seamEnable l true (if bitOf slow (groupOf s l) then s.wr F.SEAM_CTL_RATE_MAX 0 l else s)) s

/-- One stack's training and pattern test (R315, R616, R618): a stack that trains by its alternate loses its flag, one that
fails is fenced and flagged. -/
def trainStack (x : BootFacts) (k : Nat) (s : State) : State :=
  if s.rd F.MERE_STAT_FENCE_CAUSE k ≠ 0 then s
  else if bitOf x.trainedOk.toNat k then
    setRecord (fun r => { r with mereSlow := putBit r.mereSlow k false }) ((s.wr F.MERE_STAT_TRAIN_PASS 1 k).wr F.MERE_STAT_IN_SERVICE 1 k)
  else setRecord (failFlag 5 k) (noteFailure 5 k (fenceStack k 2 s))

/-- Step 5 (R616, R618): with no stack in service the device stops. -/
def bootStep5 (x : BootFacts) (s : State) : State :=
  let slow := decide ((thisRecord s).mereSlow ≠ 0)
  let s := eachOf (List.range 8) (trainStack x) s
  let s := s.wr F.CLK_PLL_STAT_STACK (packBits ((List.range 8).map (fun k => s.isSet F.MERE_STAT_IN_SERVICE k)))
  if (stacksUp s).isEmpty then bootStop s else seamBegin (stepDone 5 x.ms slow s)

/-- The members of a fen that are not in ACTIVE or HELD (R616). -/
def membersMissing (s : State) (f : Nat) : List Nat :=
  ((List.range 32).map (memberLink s f)).filter (fun l => decide (l < 512) && decide (l ∉ s.fen.retired) && !linkUp s l && decide (seamState s l ≠ 10))

/-- Step 6 (R616, R618): it fails in the groups that have not locked, else in those of a fen's missing members, more than p. Under
the alternate a group that does not lock leaves its members absent. -/
def bootStep6 (x : BootFacts) (s : State) : State :=
  let slow := decide ((thisRecord s).seamSlow ≠ 0)
  let s := eachOf (List.range 16) (fun g s => s.wrB F.SEAM_GRP_STAT_LOCKED (bitOf x.groupsOk.toNat g) g) s
  let groups := (List.range 16).filter (fun g => !bitOf x.groupsOk.toNat g && (boundLinks s).any (fun l => decide (groupOf s l = g)))
  let s := { s with seam := { s.seam with unlocked := groups } }
  let short := (List.range (fenCount s)).filter (fun f => decide (geoP s < (membersMissing s f).length))
  match (if slow then [] else groups), short with
  | g :: gs, _ => seamFail (g :: gs) s
  | [], f :: _ => seamFail (((membersMissing s f).map (groupOf s)).eraseDups) s
  | [], [] =>
    let s := if slow then setRecord (fun r => { r with seamSlow := 0 }) s else s
    fenRefresh (stepDone 6 x.ms slow s)

/-! ### Steps 7 and 8 -/

/-- The last second in which a unit of a namespace was programmed. -/
def lastProgram (s : State) (nsid : Nat) : Nat :=
  (s.map.media.filter (fun e => decide (1 ≤ e.2.kind ∧ e.2.kind ≤ 3 ∧ (tractOwner s e.2.ltn).map Prod.fst = some nsid))).foldl
    (fun m e => max m e.2.time) 0

/-- A Sanitize that a reset met goes on (R389, R192): the namespace's tracts are UNMAPPED and its key is replaced, in a later second than the
last program under the old one (R186); the records of deleted namespaces are erased. -/
def sanitizeResume (s : State) : State :=
  eachOf (s.nvq.ns.filter (fun e => decide (e.2.sanitize = 2))) (fun e s =>
    let s := unmapNs e.1 s
    let (key, s) := newKey s
    rekey e.1 key (max s.life.now (lastProgram s e.1 + 1)) { e.2 with zones := [] } s)
    (eachOf (s.cip.slots.filter (fun e => e.2.gone.isSome)) (fun e s =>
      match e.2.gone with
      | some n => putKeySlot e.1 {} (labelErase e.2.nsid n 3 s)
      | none => s) s)

/-- Step 7 (R616): with no readable checkpoint it fails, and the next start walks the labels. -/
def bootStep7 (x : BootFacts) (s : State) : State :=
  let r := thisRecord s
  let walk := bitOf r.sticky 1
  if walk = false ∧ (x.ckptOk = false ∨ s.map.ckpts.isEmpty = true) then stepFail 7 0 s
  else
    let s := sanitizeResume (step7 walk (x.archOk && !bitOf r.skipped 1) x.witness x.wrapFailed s)
    let s := if bitOf r.skipped 1 ∨ x.archOk = true then s else { s with boot := { s.boot with optFail := putBit s.boot.optFail 1 true } }
    stepDone 7 x.ms walk s

/-- The seal takes the agreed state (R562): the state its inputs agree on now, else the last one they agreed on. -/
def sealBoot (a b : Bool) (s : State) : State :=
  let s := { s with sea := { s.sea with a := a, b := b, agreed := if sealAgree a b then sealEngaged a b else s.sea.agreed } }
  let v := sealTarget s
  sealStat ({ s with sea := { s.sea with sealed := v, pending := none } }.wrB F.SEAL_STAT_SEALED v)

/-- The properties and vector masks a host wrote before step 8 take effect (R419, R336). -/
def heldWrites (l f : Nat) (s : State) : State :=
  let x := funcOf s l f
  let s := putFunc l f { x with regs := (x.regs.del 0x1014).del 0x1024 } s
  match ctrlOf s l f with
  | none => s
  | some n =>
    let s := match x.regs.find 0x1024, s.ctrl? n with
      | some v, some c => s.putCtrl n { c with aqa := v }
      | _, _ => s
    let s := eachOf (x.regs.filter (fun e => decide (0x10000 ≤ e.1 ∧ e.1 % 16 = 12))) (fun e s =>
      match s.ctrl? n with
      | some c => s.putCtrl n { c with vecs := c.vecs.put ((e.1 - 0x10000) / 16) (0, false) }
      | none => s) s
    match x.regs.find 0x1014 with
    | some v => ccWrite n v s
    | none => s

/-- The PCIe controllers come up (R336, R419). -/
def createControllers (s : State) : State :=
  eachOf (pcieLinks s) (fun l s => eachOf (pfsOf s l) (fun f s => heldWrites l f (createPcie l f s)) s) s

/-- The address table from boot flash, else from HOSTFN (R441). -/
def loadAddrs (s : State) : State :=
  { s with fab := { s.fab with addrs := if s.fab.saved then s.fab.flash else
      s.image.hostfn.addrs.foldl (fun (t : Tab AddrEntry) e => t.put e.1 e.2) [] } }

/-- Causeway sessions are asked for (R470). -/
def cwyBegin (s : State) : State :=
  eachOf (s.cwy.peers.filter (fun e => decide (e.2.roles ≠ 0))) (fun e s => if initiates s e.1 then sendHello e.1 s else s) s

/-- A try that reaches step 8 is confirmed (R584): ACTIVE takes PENDING. -/
def confirmTry (s : State) : State :=
  if isTry s then
    (putSel s.upd.pending 0 0 s).wr F.UPD_EVT_ACTIVATED 1
  else s

/-- Notices that waited for controllers: a fallback (R584), a calendar restored after VBAT was lost (R147). -/
def bootNotices (s : State) : State :=
  let s := if s.boot.fellBack then eachOf (ctrlIds s) (fun c s => aenPost c 2 0x01 0x03 s) s else s
  let s := if s.boot.vbat.isSome then vendorNotice s else s
  { s with boot := { s.boot with fellBack := false, vbat := none } }

/-- Step 8 (R616 to R620): the seal, the controllers, the address table and the Causeway; AUTO clears; members that did not
come up are absent from here on (R618); after a label walk a checkpoint starts. -/
def bootStep8 (x : BootFacts) (s : State) : State :=
  let walked := bitOf (thisRecord s).sticky 1
  let s := (stepDone 8 x.ms false (clearFlag 1 (confirmTry (sealBoot x.sealA x.sealB s)))).wr F.BOOT_STAT_AUTO 0
  let s := bootNotices (cwyBegin (createControllers (loadAddrs s)))
  let s := eachOf (List.range (fenCount s)) (fun f s => eachOf (membersMissing s f) memberAbsent s) s
  glbRefresh (if walked then startCheckpoint s else s)

/-- BOOT_STEP_END (R616): the step in progress ends with what its tests found. -/
def execBootStepEnd (facts : BootFacts) (s : State) : Result :=
  let s := s.begin
  .next (if s.boot.stopped = true ∨ s.boot.done = true ∨ s.pwr.decided = true then s
    else
      match s.boot.step with
      | 1 => if 0 ∈ s.clk.lost then s else bootStep1 facts s
      | 2 => bootStep2 facts s
      | 3 => bootStep3 facts s
      | 4 => bootStep4 facts s
      | 5 => bootStep5 facts s
      | 6 => bootStep6 facts s
      | 7 => bootStep7 facts s
      | 8 => bootStep8 facts s
      | _ => s)

/-- BOOT_STEP_FAILURE (R616 to R618): the step in progress fails, or reaches its limit, with its step-specific cause. At
step 4 the apply of the primary has failed and the backup is applied, that of the backup stops the device (R45); a stack that fails is fenced and step 5 goes on; a firmware that fails its check at a try
falls under R584. -/
def execBootStepFailure (cause : Nat) (s : State) : Result :=
  let s := s.begin
  .next (if s.boot.stopped = true ∨ s.boot.done = true ∨ s.boot.step = 0 ∨ s.pwr.decided = true then s
    else if s.boot.step = 3 ∧ isTry s = true then tryFails 3 cause s
    else if s.boot.step = 4 then
      (if bitOf (thisRecord s).sticky 0 then bootStop (noteFailure 4 cause s) else applyBackup {} (imageRefused 0 cause s))
    else if s.boot.step = 5 then setRecord (failFlag 5 cause) (noteFailure 5 cause (fenceStack (cause % 8) 2 s))
    else stepFail s.boot.step cause s)

/-- FIRMWARE_TRY_TIMEOUT (R584): step 8 is not reached within 10 s of power-on on a try. -/
def execFirmwareTryTimeout (s : State) : Result :=
  let s := s.begin
  .next (if isTry s = true ∧ 1 ≤ s.boot.step ∧ s.boot.step < 8 ∧ s.boot.stopped = false ∧ s.pwr.decided = false then tryFails s.boot.step 0 s else s)

/-! ### Reset commands -/

/-- BOOT_RESET (R615, R628): 0xA5C3 at Expert level starts a device reset with cause 4; any other value is ignored. -/
def bootResetWrite (p : AccessPath) (v : Nat) (s : State) : State :=
  if woBits s p F.BOOT_RESET_KEY v = 0xA5C3 then askReset 4 s else regWrite p 0x200010 v s

/-- BOOT_RESET_WRITE (R615). -/
def execBootResetWrite (path : AccessPath) (value : Word) (s : State) : Result := .next (bootResetWrite path value.toNat s.begin)

/-- The rows that hold dirty units, as (LTN, row). -/
def dirtyRows (s : State) : List (Nat × Nat) := (s.map.dirty.map (fun e => (e.1 / 262144, e.1 % 262144 / rowUnits s))).eraseDups

/-- DEVICE_RESET_SEQUENCE (R615): admitted commands have run, dirty data is destaged, journal units are programmed; then the
reset takes effect. -/
def execDeviceResetSequence (s : State) : Result :=
  let s := s.begin
  .next (match s.boot.resetDue with
    | none => s
    | some c =>
      if s.pwr.decided = true ∨ s.nvq.slots.any (fun e => decide (e.2.state = .admitted) && !e.2.waits) = true then s
      else
        let s := makeDurable (eachOf (dirtyRows s) (fun r s => destageRow r.1 r.2 none s) s)
        if s.map.dirty.isEmpty then deviceReset c s else s)

/-- The boot flash and the fuses as they were programmed from outside while the power was off (log entry 9). -/
def programBoard (b : BoardContent) (s : State) : State :=
  let slot := fun n => (b.fws.find? (fun e => decide (e.1 = n ∧ e.2.1 ≠ 0))).map (fun e => parseFw b.rotKey b.rotDigest e.2.2)
  let sel := selNow b.sel0 b.sel1 0
  { s with upd := { s.upd with fw1 := slot 1, fw2 := slot 2, running := sel.active, active := sel.active, pending := sel.pending, tries := sel.tries,
                               fwBytes := b.fws.foldl (fun (t : Tab Nat) e => Tab.set 0 t e.1 e.2.2) [], fwKey := b.fwKey,
                               fwDigest := b.fwDigest, rotKey := b.rotKey, rotDigest := b.rotDigest, sel0 := b.sel0, sel1 := b.sel1,
                               selLast := 0 },
           cfg := { s.cfg with slots := b.slots.foldl (fun (t : Tab TwimaImage) e =>
                                 match slotParse b.configKey e.2.2 e.2.1 with
                                 | some i => t.put e.1 i
                                 | none => t) [],
                               slotBytes := b.slots.foldl (fun (t : Tab Nat) e => Tab.set 0 t e.1 e.2.2) [],
                               fill := b.slots.foldl (fun (t : Tab Nat) e => Tab.set 0 t e.1 e.2.1) [], rec0 := b.rec0, rec1 := b.rec1,
                               serial := b.serial, signKey := b.signKey, signDigest := b.signDigest, configKey := b.configKey },
           cus := { s.cus with recoveryKey := b.recoveryKey },
           boot := { s.boot with smbAddr := b.smbAddr % 8, testEn := b.testEn } }

/-- Manufacturing test (R639): with TEST_EN latched high no boot step runs and FAULT_N stays low. -/
def testMode (s : State) : State :=
  if s.boot.testEn then bootStop { s with boot := { s.boot with step := 0 } } else s

/-- POWER_ON_RESET (R614, R647, R639): all rails are in range; the straps are latched and tp follows. -/
def execPowerOnReset (offSec : Nat) (vbatLost : Bool) (board : Option BoardContent) (s : State) : Result :=
  let s := match board with
    | some b => programBoard b s.begin
    | none => s.begin
  let s := powerOnReset 1 offSec vbatLost { s with pwr := { s.pwr with rails := 0xFF } }
  .next (testMode (s.wr F.PWR_RAIL_STAT_IN_RANGE 0xFF))

/-- RAIL_OUT_OF_RANGE (R647): after tp, the device is held in power-on reset. -/
def execRailOutOfRange (rail : Fin 8) (s : State) : Result :=
  let s := s.begin
  let v := putBit s.pwr.rails rail.val false
  let s := resetState true false { s with pwr := { s.pwr with rails := v } }
  .next (s.wr F.PWR_RAIL_STAT_IN_RANGE v)

/-- JTAG_TAP_RESET (R614): test logic only. -/
def execJtagTapReset (s : State) : Result := .next s.begin

/-! ### Clocks (R612, R626, R627) -/

/-- The index of a reference clock among the checks: SYS, PE 0–3, ETH 0–1, SEAM 0–15. -/
def clkIndex (c : RefClock) : Nat :=
  match c with
  | .sys => 0
  | .pe p => 1 + p.val
  | .eth i => 5 + i.val
  | .seam g => 7 + g.val

/-- CLK_REF_STAT's bit of a reference clock. -/
def clkPresent (c : RefClock) (v : Bool) (s : State) : State :=
  match c with
  | .sys => s.wrB F.CLK_REF_STAT_SYS v
  | .pe p => s.wrBit F.CLK_REF_STAT_PE p.val v
  | .eth i => s.wrBit F.CLK_REF_STAT_ETH i.val v
  | .seam g => s.wrBit F.CLK_REF_STAT_SEAM g.val v

/-- The PLLs that run from a reference clock that is present are locked; holdover ends. -/
def clkLock (c : RefClock) (s : State) : State :=
  match c with
  | .sys => (s.wr F.CLK_PLL_STAT_SYS 7).wr F.CLK_PLL_STAT_HOLDOVER 0
  | .pe p => s.wrBit F.CLK_PLL_STAT_PCIE p.val true
  | .eth i => s.wrBit F.CLK_PLL_STAT_ETH i.val true
  | .seam _ => s

/-- What the loss of a reference clock does (R612). A Seam group with no bound lane raises no fault (R642). -/
def clkLoss (c : RefClock) (s : State) : State :=
  match c with
  | .sys => s.wr F.CLK_PLL_STAT_HOLDOVER 1
  | .pe p =>
    let s := (s.wrBit F.CLK_PLL_STAT_PCIE p.val false).wr F.CLK_EVT_PLL_UNLOCK 1
    linkDown (2 * p.val + 1) 3 (linkDown (2 * p.val) 3 s)
  | .eth i =>
    let s := (s.wrBit F.CLK_PLL_STAT_ETH i.val false).wr F.CLK_EVT_PLL_UNLOCK 1
    eachOf ((List.finRange 32).filter (fun l => decide (l.val / 16 = i.val))) ethPortDown s
  | .seam g => if (boundLinks s).any (fun l => decide (groupOf s l = g.val)) then groupLost g.val (s.wr F.CLK_EVT_PLL_UNLOCK 1) else s

/-- REFCLK_CHECK (R612): three failed checks in a row declare the clock lost; one good check ends that. -/
def execRefclkCheck (clock : RefClock) (ok : Bool) (s : State) : Result :=
  let s := s.begin
  let i := clkIndex clock
  .next (if ok then
      glbRefresh (clkLock clock (clkPresent clock true
        { s with clk := { s.clk with fails := Tab.set 0 s.clk.fails i 0, lost := dropOne i s.clk.lost } }))
    else
      let n := Tab.get 0 s.clk.fails i + 1
      let s := { s with clk := { s.clk with fails := Tab.set 0 s.clk.fails i n } }
      if n < 3 ∨ i ∈ s.clk.lost then s
      else
        let s := { s with clk := { s.clk with lost := addNew i s.clk.lost } }
        glbRefresh (clkLoss clock ((clkPresent clock false s).wr F.CLK_EVT_REF_LOSS 1)))

/-- SYS_PLL_UNLOCK (R612): with its reference present, a device reset with cause 7, which AUTO does not count. -/
def execSysPllUnlock (pll : Fin 3) (s : State) : Result :=
  let s := s.begin
  .next (if 0 ∈ s.clk.lost then s
    else askReset 7 ((s.wrBit F.CLK_PLL_STAT_SYS pll.val false).wr F.CLK_EVT_PLL_UNLOCK 1))

/-- CRYSTAL_STOP (R612): the calendar goes on from SYS_REFCLK. -/
def execCrystalStop (s : State) : Result :=
  let s := { s.begin with life := { s.life with crystal := false } }
  .next (((s.wr F.LIFE_STAT_VALID 0).wr F.CLK_EVT_RTC_STOP 1).wr F.CLK_REF_STAT_RTC 0)

/-- CRYSTAL_RESTART (R612, R147): the crystal runs again; VALID waits for the next power-on. -/
def execCrystalRestart (s : State) : Result :=
  .next ({ s.begin with life := { s.life with crystal := true } }.wr F.CLK_REF_STAT_RTC 1)

/-- CALENDAR_TICK (R145): one second. Telemetry grows older by it (R295). -/
def execCalendarTick (s : State) : Result :=
  let s := s.begin
  let s := { s with life := { s.life with now := (s.life.now + 1) % 2 ^ 48, onSec := s.life.onSec + 1 } }
  .next (eachOf (List.range 512) (fun l s => s.wr F.SEAM_TEMP_AGE (min 255 (s.rd F.SEAM_TEMP_AGE l + 1)) l) s)

end Sys2Proof.Machine
end

