-- ==== Sys2Proof/Machine/Custodian.lean ====
section
/-! DEFINITION. The Custodian port: sessions and tasks (chapter "Custodian port"). The register window stands with the register
accesses. -/

namespace Sys2Proof.Machine

open Sys2Proof

/-! ### Sessions (R596 to R599) -/

/-- The nonce changes (R597). -/
def cusNonce (s : State) : State :=
  { s with free := s.free + 1, cus := { s.cus with nonce := Config.physical s.free % 2 ^ 128 } }

/-- The next session number (R597): never 0. -/
def nextSession (n : Nat) : Nat := if (n + 1) % 65536 = 0 then 1 else (n + 1) % 65536

/-- The recovery key is in use: no Twima image is in force (R596). -/
def cusRecovery (s : State) : Bool := s.cfg.run.isNone

/-- The key of R596. -/
def cusKey (s : State) : Nat := if cusRecovery s then s.cus.recoveryKey else (s.image.security.custodianKey.getD 0)

/-- The expected response (R597). -/
def cusAnswer (s : State) : Nat :=
  Config.hmac256 (cusKey s) (s.cus.nonce % 2 ^ 128 + 2 ^ 128 * nextSession s.cus.number) % 2 ^ 256

/-- The transport key of a session that the present nonce opens (R604): over "SWV-ESC", the nonce and the number. -/
def cusTransport (s : State) : Nat :=
  Config.hmac256 (cusKey s) (0x4353452D565753 + 2 ^ 56 * (s.cus.nonce % 2 ^ 128) + 2 ^ 184 * nextSession s.cus.number) % 2 ^ 256

/-- The response matches: any open session ends and the new one opens. -/
def openCus (s : State) : State :=
  let key := cusTransport s
  let n := nextSession s.cus.number
  let r := cusRecovery s
  let s := if s.cus.isOpen then closeSession s else s
  cusNonce { s with cus := { s.cus with isOpen := true, recovery := r, number := n, words := [], fails := 0, transport := key } }

/-- A comparison fails (R597): the third locks out. -/
def cusFail (s : State) : State :=
  let n := s.cus.fails + 1
  let s := (peatRecord 0x0004 0x30 n 1 s).wr F.CUS_EVT_AUTH_FAIL 1
  cusNonce { s with cus := { s.cus with words := [], fails := n % 3, lockout := decide (n = 3) } }

/-- One response word (R597). Before the fuses are read there is no key (R617). -/
def sessionWord (w : Nat) (s : State) : State :=
  if s.boot.step ≤ 2 then s
  else if s.cus.lockout then peatRecord 0x0004 0x30 3 1 s
  else
    let l := s.cus.words ++ [w % 2 ^ 32]
    if l.length < 8 then { s with cus := { s.cus with words := l } }
    else if wordsNumber l = cusAnswer s then openCus s
    else cusFail s

/-- SESSION_RESPONSE_WRITE (R597). -/
def execSessionResponseWrite (word : Word) (s : State) : Result := .next (sessionWord word.toNat s.begin)

/-- CUSTODIAN_NONCE_TIMER (R597): every 60 s. -/
def execCustodianNonceTimer (s : State) : Result := .next (cusNonce s.begin)

/-- SESSION_LOCKOUT_END (R597): 60 s have passed. -/
def execSessionLockoutEnd (s : State) : Result :=
  let s := s.begin
  .next (if s.cus.lockout then { s with cus := { s.cus with lockout := false, fails := 0 } } else s)

/-- SESSION_IDLE_TIMEOUT (R598). -/
def execSessionIdleTimeout (s : State) : Result :=
  let s := s.begin
  .next (if s.cus.isOpen then (closeSession s).wr F.CUS_EVT_SESS_CLOSED 1 else s)

/-- CLOSE (R598, R599). -/
def sessionClose (s : State) : State := if s.cus.isOpen then closeSession s else s

/-- SESSION_CLOSE (R598). -/
def execSessionClose (s : State) : Result := .next (sessionClose s.begin)

/-! ### Tasks (R601 to R603) -/

/-- Opcodes that a recovery session may run, and that need no boot step 8 (R603). -/
def recoveryTasks : List Nat := [0x01, 0x40, 0x50, 0x60, 0x61, 0x7F]

/-- Argument word i. -/
def argOf (s : State) (i : Nat) : Nat := s.rd F.CUS_TASK_ARG_ARG i

/-- Two argument words, the first the lower. -/
def arg64 (s : State) (i : Nat) : Nat := argOf s i + 2 ^ 32 * argOf s (i + 1)

/-- `n` bytes of CUS_BUF, of its 4,096, from byte `o`, as a number. -/
def bufBytes (s : State) (o n : Nat) : Nat :=
  ((List.range 1024).foldl (fun a i => a + s.rd F.CUS_BUF_DATA i * 2 ^ (32 * i)) 0) / 2 ^ (8 * o) % 2 ^ (8 * min n 4096)

/-- Fill `n` words of CUS_BUF from word `w` with the bytes of a number. -/
def fillBuf (w n v : Nat) (s : State) : State :=
  (List.range n).foldl (fun s i => s.wr F.CUS_BUF_DATA (bits v (32 * i) 32) (w + i)) s

/-- Result word i. -/
def setRes (i v : Nat) (s : State) : State := s.wr F.CUS_TASK_RES_RES (v % 2 ^ 32) i

/-- A 64-bit result in two words. -/
def setRes64 (i v : Nat) (s : State) : State := setRes (i + 1) (v / 2 ^ 32) (setRes i v s)

/-- GO (R594, R601): without a session, or while a task runs, the write is logged and ignored; a task that may not run here ends
with NOT_READY. -/
def taskGo (op : Nat) (body : State → State) (s : State) : State :=
  if s.cus.isOpen = false ∨ s.cus.busy.isSome = true then accessViolation .custodian 0xB000200 s
  else
    let s := ((s.wr F.CUS_TASK_CMD_OPCODE op).wr F.CUS_TASK_STAT_STATE 1).wr F.CUS_TASK_STAT_STATUS 0
    let s := (s.wr F.CUS_TASK_STAT_LAST_OP op).wr F.CUS_TASK_STAT_DETAIL 0
    let s := { s with cus := { s.cus with busy := some op } }
    if (s.cus.recovery = true ∨ s.boot.done = false) ∧ op ∉ recoveryTasks then taskEnd 4 0 s else body s

/-- A task that comes to a status at once. -/
def taskDone (r : Nat × State) : State := taskEnd r.1 0 r.2

/-! ### Life and seal -/

/-- LIFE_READ (R603). -/
def taskLifeRead (s : State) : State :=
  let s := setRes64 2 (unsigned s.life.utc 64) (setRes64 0 s.life.now s)
  taskEnd 0 0 (setRes 5 (snapWord s 0x700014) (setRes 4 (snapWord s 0x700010) s))

def execLifeRead (s : State) : Result := .next (taskGo 0x01 taskLifeRead s.begin)

/-- LIFE_SET_UTC (R603). -/
def taskLifeSetUtc (s : State) : State := taskEnd 0 0 { s with life := { s.life with utc := signed (arg64 s 0) 64 } }

def execLifeSetUtc (s : State) : Result := .next (taskGo 0x02 taskLifeSetUtc s.begin)

/-- SEAL (R603, R565). -/
def taskSeal (s : State) : State :=
  let a := argOf s 0
  let agree := sealAgree s.sea.a s.sea.b
  if 2 < a then taskEnd 2 0 s
  else
    let s := if a = 0 then sealSoft .custodian true s else if a = 1 then sealSoft .custodian false s else sealClear .custodian s
    let s := setRes 0 (snapWord s 0x500004) s
    if a = 2 ∧ agree = false then taskEnd 7 0 s else taskEnd 0 0 s

/-- SEAL_TASK (R603). -/
def execSealTask (s : State) : Result := .next (taskGo 0x10 taskSeal s.begin)

/-! ### Escrow (R499, R186) -/

/-- A new escrow key is held (R499): every active key-label record is rewritten, both copies, and durable. -/
def escrowTake (id key : Nat) (s : State) : State :=
  let s := { s with cip := { s.cip with escrowId := id, escrowKey := key } }
  makeDurable (eachOf (s.cip.slots.filter (fun e => decide (e.2.state ≠ 0 ∧ e.2.nsid ≠ 0)))
    (fun e s => labelWrite e.2.nsid (putKeySlot e.1 { e.2 with escrow := id } s)) s)

/-- ESCROW_IMPORT (R499, R603): a media error that keeps a record from being durable ends it with FAILED (R602), and the previous
key stays (log entry 11). -/
def taskEscrowImport (ok : Bool) (s : State) : State :=
  if bufBytes s 0 8 = 0 then taskEnd 2 0 s
  else match unwrapKey s.cus.transport (bufBytes s 8 40) with
    | some key => if ok then taskEnd 0 0 (escrowTake (bufBytes s 0 8) key s) else taskEnd 8 0 s
    | none => taskEnd 2 0 s

def execEscrowImport (mediaOk : Bool) (s : State) : Result := .next (taskGo 0x20 (taskEscrowImport mediaOk) s.begin)

/-- ESCROW_EXPORT (R603). -/
def taskEscrowExport (s : State) : State :=
  match s.ns? (argOf s 0) with
  | none => taskEnd 2 0 s
  | some n => if s.cip.escrowId = 0 then taskEnd 7 0 s else taskEnd 0 0 (fillBuf 0 192 (labelBytes s (argOf s 0) n 1 0) s)

def execEscrowExport (s : State) : Result := .next (taskGo 0x21 taskEscrowExport s.begin)

/-! ### Members (R122, R124, R290, R291) -/

/-- A fen already drains. -/
def fenDrains (s : State) (f : Nat) : Bool := s.fen.draining.any (fun l => decide (linkFen s l = f))

/-- MEMBER_RETIRE (R122, R603). -/
def taskMemberRetire (s : State) : State :=
  let f := argOf s 0
  let i := argOf s 1
  if fenCount s ≤ f ∨ 32 ≤ i then taskEnd 2 0 s
  else if inService s f i = false ∨ fenDrains s f = true then taskEnd 7 0 s
  else taskEnd 0 0 (startDrain (memberLink s f i) s)

def execMemberRetire (s : State) : Result := .next (taskGo 0x30 taskMemberRetire s.begin)

/-- No slot of any stripe of a fen names a member index (R124). -/
def indexFree (s : State) (f i : Nat) : Bool :=
  !((fenStripes s f).any (fun e => e.2.slots.any (fun a => decide (a ≠ 0xFFFFFFFF ∧ a / 1048576 % 32 = i))))

/-- A member index that is out of service, its rebuild or drain over and no wait running (R124). -/
def indexOut (s : State) (f i : Nat) : Bool :=
  let l := memberLink s f i
  decide (l = 0xFFFF) || decide (l ∈ s.fen.retired)

/-- The members of a fen that have a calibration row. -/
def fenSizes (s : State) (f : Nat) : List Nat :=
  ((List.range 32).filter (fun i => inService s f i)).filterMap (fun i =>
    match s.ret.cal.find (memberLink s f i) with
    | some r => if r.readable then some r.size else none
    | none => none)

/-- The T_MAX limits of R293, in the order of R287. -/
def tMaxLimits : List Nat := [120, 60, 3000, 500, 12000, 40]

/-- The blocks that a member of a SIZE allocates. -/
def sizeBlocks (n : Nat) : Nat := if n = 0 then 232830 else if n = 2 then 931322 else 465661

/-- The refusals of R290 but for the link's state and the index. -/
def hotaddRefused (s : State) (f : Nat) (cal : CalRow) (good : Bool) : Bool :=
  let b := sizeBlocks cal.size
  !cal.readable || !good || (fenSizes s f).any (fun n => decide (n ≠ cal.size)) || decide (cal.blocks < 64 + b + ceilFrac b 1 50) ||
    (List.zipWith (fun a l => decide (l < a)) cal.tMax tMaxLimits).any id

/-- The member takes its place (R124, R148): MEMBERSHIP is durable, its counters start at 0, its witness groups are due in turn. -/
def addMember (l f i : Nat) (cal : CalRow) (s : State) : State :=
  let old := memberLink s f i
  let s := makeDurable (journal (.membership f i old l) s)
  let fen := { s.fen with retired := dropOne l (dropOne old s.fen.retired), absent := s.fen.absent.del l }
  let blocks := s.map.blocks.filter (fun e => decide (e.1 / 1048576 ≠ l ∨ e.2.use = .factoryBad))
  let s := { s with fen := fen, map := { s.map with blocks := blocks },
                    ret := { s.ret with cal := s.ret.cal.put l cal, thermal := s.ret.thermal.del l } }
  reserveNote (fenRefresh (anchorWrite (witnessFirst l (linkActive l (s.wr F.SEAM_STAT_SAFE_REMOVE 0 l)))))

/-- MEMBER_HOTADD (R290, R124, R603): the calibration row and the count of good blocks among 0–63 are what the member answers. -/
def taskMemberHotadd (cal : CalRow) (good : Bool) (s : State) : State :=
  let l := argOf s 0
  let f := argOf s 1
  let i := argOf s 2
  if 512 ≤ l ∨ fenCount s ≤ f ∨ 32 ≤ i then taskEnd 2 0 s
  else if seamState s l ≠ 10 then taskEnd 7 1 s
  else if indexOut s f i = false ∨ indexFree s f i = false then taskEnd 7 2 s
  else if hotaddRefused s f cal good then taskEnd 7 3 s
  else taskEnd 0 0 (addMember l f i cal s)

def execMemberHotadd (cal : CalRow) (good : Bool) (s : State) : Result := .next (taskGo 0x31 (taskMemberHotadd cal good) s.begin)

/-- No slot names the member of a link. -/
def linkUnnamed (s : State) (l : Nat) : Bool :=
  match linkMember s l with
  | none => true
  | some k => indexFree s (k / 32) (k % 32)

/-- DRAIN_DONE (R122, R291): the last slot is journalled: MEMBERSHIP, PARK is sent, the lane is off and SAFE_REMOVE is
set (DESIGN CHOICE, log entry 95: the link is in DISABLED, the state whose lane is off). -/
def execDrainDone (link : Link) (s : State) : Result :=
  let s := s.begin
  let l := link.val
  .next (match linkMember s l with
    | none => s
    | some k =>
      if l ∉ s.fen.draining ∨ linkUnnamed s l = false then s
      else
        let s := makeDurable (journal (.membership (k / 32) (k % 32) l 0xFFFF) s)
        let s := { s with fen := { s.fen with draining := dropOne l s.fen.draining, retired := addNew l s.fen.retired } }
        let s := ((seamSet l 0 (s.emit (.orderedSet l 0xF5))).wr F.SEAM_STAT_SAFE_REMOVE 1 l).wr F.HEW_STAT_STATE 0 l
        limitNote (fenRefresh s))

/-! ### Peat export and the manifest (R541, R605) -/

/-- The entry with the lowest SEQ at or above `n` (R541). -/
def peatFrom (l : List PeatEntry) (n : Nat) : Option PeatEntry :=
  l.foldl (fun (m : Option PeatEntry) e =>
    if e.valid = false ∨ e.seq < n then m
    else match m with
      | some x => if e.seq < x.seq then some e else some x
      | none => some e) none

/-- Up to `fuel` entries in SEQ order. -/
def peatTake (l : List PeatEntry) (fuel n : Nat) : List PeatEntry :=
  match fuel with
  | 0 => []
  | fuel + 1 =>
    match peatFrom l n with
    | none => []
    | some e => e :: peatTake l fuel (e.seq + 1)

/-- PEAT_EXPORT (R541, R603): the ring alone in a recovery session. -/
def taskPeatExport (s : State) : State :=
  let first := arg64 s 0
  let ring := s.peat.ring.map Prod.snd
  let all := if s.cus.recovery then ring else s.peat.archive.map Prod.snd ++ ring
  let l := peatTake all 64 first
  let next := match l.getLast? with
    | some e => e.seq + 1
    | none => first
  let s := l.zipIdx.foldl (fun s e => fillBuf (16 * e.2) 16 (peatBytes e.1) s) s
  taskEnd 0 0 (setRes64 1 next (setRes 0 l.length s))

def execPeatExport (s : State) : Result := .next (taskGo 0x40 taskPeatExport s.begin)

/-- Manifest page 0 without its CRC (R605). -/
def manifestHead (s : State) : Nat :=
  let fw := fwSlot s s.upd.running
  place ([(0x464D5753, 0), (1, 32), (s.nvq.ns.length, 48), (s.cfg.serial % 2 ^ 64, 64), (((fw.map FwImage.version).getD 0) % 2 ^ 64, 128),
    (((fw.map FwImage.serial).getD 0) % 2 ^ 32, 192), (s.rd F.CFG_SERIAL_SERIAL, 224), (s.upd.floor % 2 ^ 32, 256), (s.cfg.floor % 2 ^ 32, 288),
    (s.life.now, 320), (unsigned s.life.utc 64, 384), (s.cip.escrowId % 2 ^ 64, 448), (fenCount s, 512), (geomCode s, 520),
    (usableTracts s, 544)] ++
    (List.range 512).map (fun k => (if k < 32 * fenCount s then memberLink s (k / 32) (k % 32) % 65536 else 0xFFFF, 576 + 16 * k)))

/-- One namespace entry of the manifest (R605). -/
def manifestNs (s : State) (nsid : Nat) (n : Namespace) : Nat :=
  place [(nsid, 0), (if n.zoned then 2 else 0, 32), (n.lbaShift, 40), (n.leafShift, 48), (1, 56), (n.nsTag, 64), (n.nguid, 128),
    (nsTracts s nsid, 256), (n.anagrp, 288), (n.labelSeq, 320), (n.created, 384)]

/-- MANIFEST (R605, R603): page 0 alone in a recovery session. -/
def taskManifest (s : State) : State :=
  let p := argOf s 0
  if 64 < p then taskEnd 2 0 s
  else if s.cus.recovery = true ∧ p ≠ 0 then taskEnd 4 0 s
  else if p = 0 then
    let v := manifestHead s
    let crc := crc32c (leBytes 4092 v)
    taskEnd 0 0 (fillBuf 0 1024 (v + crc * 2 ^ 32736) s)
  else
    let l := (s.nvq.ns.drop (64 * (p - 1))).take 64
    taskEnd 0 0 (fillBuf 0 1024 (place (l.zipIdx.map (fun e => (manifestNs s e.1.1 e.1.2, 512 * e.2)))) s)

def execManifest (s : State) : Result := .next (taskGo 0x50 taskManifest s.begin)

/-! ### Images and firmware -/

/-- IMAGE_WRITE (R47, R578, R603): the bytes are those of CUS_BUF, their place is in the arguments; of the operand only whether boot
flash took them counts. -/
def taskImageWrite (piece : Piece) (s : State) : State :=
  let t := argOf s 0
  let p := { piece with off := argOf s 1, len := argOf s 2, data := bufBytes s 0 (argOf s 2) }
  if 1 < t ∨ p.len = 0 ∨ 4096 < p.len then taskEnd 2 0 s
  else if t = 0 then
    (let r := twimaPiece p s
     taskEnd (if r.1 then 0 else 2) 0 r.2)
  else if s.cus.recovery = true ∨ s.boot.done = false then taskEnd 4 0 s
  else
    let r := downloadPiece ownerCus 0 p s
    taskEnd r.1.task r.1.detail r.2

def execImageWrite (piece : Piece) (s : State) : Result := .next (taskGo 0x60 (taskImageWrite piece) s.begin)

/-- A lot re-apply, activation or mode epoch runs (R606); `act` leaves out a POWER re-apply that waits for its test. -/
def taskBusy (s : State) (act : Bool) : Bool :=
  s.cfg.reapply.any (fun r => !(act && r.waitHt)) || decide (s.nvq.act ≠ 0) || s.ucs.epoch.isSome

/-- TWIMA_PROMOTE (R603): the staged image is checked and made primary; a device stopped at step 4 repeats it at once. -/
def taskTwimaPromote (s : State) : State :=
  if nvqSealed s then taskEnd 6 0 s
  else if taskBusy s false then taskEnd 5 0 s
  else
    match slotImage s (twimaStaging s) with
    | (some _, 0) =>
      let s := taskEnd 0 0 (commitSlots s)
      if s.boot.stopped = true ∧ s.boot.step = 4 then bootStep4 {} { s with boot := { s.boot with stopped := false } } else s
    | (_, e) => taskEnd 7 e (peatRecord 0x0301 2 e 0 s)

def execTwimaPromote (s : State) : Result := .next (taskGo 0x61 taskTwimaPromote s.begin)

/-- FW_COMMIT (R579, R603, R606): it ends with the commit. -/
def taskFwCommit (s : State) : State :=
  let ca := argOf s 0
  if 3 < ca then taskEnd 2 0 s
  else if ca = 3 ∧ nvqSealed s = true then taskEnd 6 0 s
  else if taskBusy s (decide (ca = 3)) then taskEnd 5 0 s
  else fwCommit ca (argOf s 1) cusCommit s

/-- FW_COMMIT_TASK (R603). A commit of this task that waits is tried again. -/
def execFwCommitTask (s : State) : Result :=
  let s := s.begin
  .next (if s.cus.busy = some 0x62 ∧ s.upd.commit = some cusCommit then fwCommit (argOf s 0) (argOf s 1) cusCommit s
    else taskGo 0x62 taskFwCommit s)

/-- RETIRE_OLD (R577, R39, R603): a fuse counter is raised, never lowered. -/
def taskRetireOld (s : State) : State :=
  let fw := ((fwSlot s s.upd.running).map FwImage.serial).getD 0
  let tw := s.rd F.CFG_SERIAL_SERIAL
  if expertOpen s .custodian = false then taskEnd 3 0 s
  else if argOf s 0 ≠ fw ∨ argOf s 1 ≠ tw then taskEnd 2 0 s
  else if 255 ≤ s.cfg.floorUps then taskEnd 7 0 s
  else taskEnd 0 0 { s with upd := { s.upd with floor := max s.upd.floor fw }, cfg := { s.cfg with floor := max s.cfg.floor tw, floorUps := s.cfg.floorUps + 1 } }

def execRetireOld (s : State) : Result := .next (taskGo 0x63 taskRetireOld s.begin)

/-! ### Causeway tasks -/

/-- PEER_SET (R468, R603): an entry that boot flash does not take ends it with FAILED (R602), and the table stays (log entry 11). -/
def taskPeerSet (ok : Bool) (s : State) : State :=
  let roles := bufBytes s 1 1
  let set := fun (key : Nat) =>
    let r := peerSet (bufBytes s 0 1) roles (bufBytes s 8 8) (bufBytes s 16 16) key s
    if r.1 = 0 ∧ ok = false then taskEnd 8 0 s else taskDone r
  if roles = 0 then set 0
  else match unwrapKey s.cus.transport (bufBytes s 32 40) with
    | some key => set key
    | none => taskEnd 2 0 s

def execPeerSet (flashOk : Bool) (s : State) : Result := .next (taskGo 0x70 (taskPeerSet flashOk) s.begin)

/-- CHAIN_START (R475). -/
def execChainStart (s : State) : Result := .next (taskGo 0x71 (fun s => taskDone (chainStart s)) s.begin)

/-- MIG_EXPORT (R477). -/
def execMigExport (s : State) : Result := .next (taskGo 0x72 (fun s => taskDone (migExport (argOf s 0) (arg64 s 1) s)) s.begin)

/-- MIG_IMPORT (R477). -/
def execMigImport (s : State) : Result :=
  .next (taskGo 0x73 (fun s => taskDone (migImport (arg64 s 0) (argOf s 2) (argOf s 3) (argOf s 4) s)) s.begin)

/-- MIG_FREEZE (R481). -/
def execMigFreeze (s : State) : Result := .next (taskGo 0x74 (fun s => taskDone (migFreeze (argOf s 0) s)) s.begin)

/-- DEVICE_RESET (R603, R615, R617): the task ends with OK, then a reset with cause 3; a device that had stopped starts afresh with
AUTO at 0. -/
def taskDeviceReset (s : State) : State :=
  let s := taskEnd 0 0 s
  askReset 3 (if s.boot.stopped then s.wr F.BOOT_STAT_AUTO 0 else s)

/-- DEVICE_RESET (R603). -/
def execDeviceReset (s : State) : Result := .next (taskGo 0x7F taskDeviceReset s.begin)

end Sys2Proof.Machine
end

