-- ==== Sys2Proof/Machine/Pcie.lean ====
section
/-! DEFINITION. PCIe configuration requests, SR-IOV, DOE and SPDM, errors, link events (chapter "PCIe endpoint"). Requests to
BARs stand with the register accesses they become. -/

namespace Sys2Proof.Machine

open Sys2Proof

/-! ### Configuration space (R422 to R424) -/

/-- An extended capability header (PCIe Base 6.0). -/
def extCap (id ver next : Nat) : Nat := id + 65536 * ver + 1048576 * next

/-- The size of a function's BAR pair 0/1 or 4/5, 0 where not implemented (R424). -/
def barSize (s : State) (l f bar : Nat) : Nat :=
  if f < 4 then
    (if bar = 0 then 131072
     else if bar = 4 then (match pfOf s l f with | some p => if p.winLog2 = 0 then 0 else 2 ^ p.winLog2 | none => 0)
     else 0)
  else if bar = 0 then 32768 else 0

/-- The vectors of a function's controller. -/
def funcVectors (s : State) (l f : Nat) : Nat :=
  ((ctrlOf s l f).bind s.ctrl?).elim (if f < 4 then 2048 else 128) (fun c => min c.vectors (if f < 4 then 2048 else 128))

/-- The capability words of the first 256 bytes that the manual lays out (R422): (offset, value). -/
def cfgLow (s : State) (l f : Nat) : List (Nat × Nat) :=
  let x := funcOf s l f
  let pf := decide (f < 4)
  let rev := Config.pcieId 1 % 256
  [(0x00, if pf then Config.pcieId 0 % 65536 + 65536 * 0x8512 else 0xFFFF + 65536 * 0x8513),
   (0x04, x.command + 65536 * 0x0010),
   (0x08, rev + 256 * 0x010802),
   (0x0C, if f = 0 ∧ 1 < (pfsOf s l).length then 65536 * 0x80 else 0),
   (0x10, if pf then x.bars.find 0 |>.getD 4 else 0), (0x14, if pf then Tab.get 0 x.bars 1 else 0),
   (0x20, if pf ∧ barSize s l f 4 ≠ 0 then x.bars.find 4 |>.getD 4 else 0), (0x24, if pf then Tab.get 0 x.bars 5 else 0),
   (0x2C, Config.pcieId (2 + 4 * l + (if pf then f else (vfParent s l f).getD 0)) % 2 ^ 32),
   (0x34, if pf then 0x40 else 0x50),
   (0x40, if pf then 0x01 + 256 * 0x50 + 65536 * 3 else 0), (0x44, if pf then x.pmcsr else 0),
   (0x50, 0x11 + 256 * 0x70 + 65536 * (funcVectors s l f - 1) + Tab.get 0 x.regs 0x50),
   (0x54, if pf then 0x8000 else 0x4000), (0x58, if pf then 0x10000 else 0x5000),
   (0x70, 0x10 + 65536 * 2), (0x78, x.devctl)]

/-- The extended capabilities that the manual places (R422): AER, ARI, SR-IOV, the link capabilities of function 0, the
serial number, Device 3. -/
def cfgHigh (s : State) (l f : Nat) : List (Nat × Nat) :=
  let x := funcOf s l f
  let n := pfVfs s l f
  let iov := decide (f < 4 ∧ n ≠ 0)
  [(0x100, extCap 0x0001 2 0x148), (0x104, x.aerUnc), (0x108, Tab.get 0 x.regs 0x108), (0x10C, Tab.get 0 x.regs 0x10C),
   (0x110, x.aerCor), (0x114, Tab.get 0 x.regs 0x114), (0x118, Tab.get 0 x.regs 0x118),
   (0x148, extCap 0x000E 1 (if iov then 0x150 else if f = 0 then 0x190 else 0x2C0))] ++
  (if iov then
    [(0x150, extCap 0x0010 1 (if f = 0 then 0x190 else 0x2C0)), (0x158, b2n x.vfEnable + Tab.get 0 x.regs 0x158),
     (0x15C, n + 65536 * n), (0x160, x.numVfs), (0x164, (vfBase s l f - f) % 65536 + 65536), (0x168, 65536 * 0x8513),
     (0x16C, 1), (0x170, 1), (0x174, Tab.get 4 x.regs 0x174), (0x178, Tab.get 0 x.regs 0x178)]
   else []) ++
  (if f = 0 then
    [(0x190, extCap 0x0019 1 0x1C0), (0x1C0, extCap 0x0025 1 0x1D0), (0x1D0, extCap 0x0026 1 0x200),
     (0x200, extCap 0x002A 1 0x230), (0x230, extCap 0x0031 1 0x250), (0x250, extCap 0x0027 1 0x2A0),
     (0x2A0, extCap 0x002E 1 0x2C0)]
   else []) ++
  [(0x2C0, extCap 0x0003 1 0x2D0), (0x2C4, s.cfg.serial % 2 ^ 32), (0x2C8, s.cfg.serial / 2 ^ 32 % 2 ^ 32),
   (0x2D0, extCap 0x002F 1 0)]

/-- A configuration read: what no rule lays out reads 0. -/
def cfgRead (s : State) (l f reg : Nat) : Nat :=
  (((cfgLow s l f ++ cfgHigh s l f).find? (fun e => decide (e.1 = reg))).map Prod.snd).getD 0 % 2 ^ 32

/-- Merge the enabled bytes of a write. -/
def cfgMerge (old value en : Nat) : Nat :=
  (List.range 4).foldl (fun a i => a + (if bitOf en i then bits value (8 * i) 8 else bits old (8 * i) 8) * 2 ^ (8 * i)) 0

/-- Bus Master Enable goes to 0 (R432, R515): with commands in flight the controller is fatal and reset; the manual does not
say which CAUSE its record carries. -/
def bmeClear (l f : Nat) (s : State) : State :=
  let x := funcOf s l f
  let s := putFunc l f { x with command := putBit x.command 2 false } s
  match ctrlOf s l f with
  | none => s
  | some n =>
    let s := dmaHostGone (fun c => decide (c = n)) s
    if (ctrlSlots s n).isEmpty then s
    else
      let s := ctrlReset n (1 + s.draw 6) false s.drawn
      match s.ctrl? n with
      | some c => s.putCtrl n { c with cfs := true }
      | none => s

/-- D3hot entry (R432): an abrupt shutdown where the controller is enabled. -/
def d3hot (l f : Nat) (s : State) : State :=
  let s := putFunc l f { (funcOf s l f) with pmcsr := 3 } s
  match ctrlOf s l f with
  | none => s
  | some n =>
    match s.ctrl? n with
    | some c => if c.enabled then shutdownBegin n (ctrlReset n 1 true s) else s
    | none => s

/-- NumVFs (R423): above TotalVFs, or while VF Enable is 1, it keeps its value. -/
def numVfsWrite (l f v : Nat) (s : State) : State :=
  let x := funcOf s l f
  if (pfOf s l f).isNone ∨ x.vfEnable = true ∨ pfVfs s l f < v then s else putFunc l f { x with numVfs := v } s

/-- VF Enable (R423): the VFs and their controllers come, or are reset and go. -/
def vfEnableWrite (l f : Nat) (on : Bool) (s : State) : State :=
  let x := funcOf s l f
  if pfVfs s l f = 0 ∨ on = x.vfEnable then s
  else if on then
    let s := funcsNote l (putFunc l f { x with vfEnable := true } s)
    if s.boot.done then eachOf (vfsOf s l f) (fun v s => createPcie l v s) s else s
  else
    let vs := vfsOf s l f
    let s := vfsReset l f 2 s
    eachOf (vs.filterMap (fun v => ctrlOf s l v)) dropPcie s

/-- Pending messages of a controller go out once they may (R349). -/
def sendPending (l f : Nat) (s : State) : State :=
  match ctrlOf s l f with
  | none => s
  | some n => match s.ctrl? n with
    | some c => eachOf (c.vecs.map Prod.fst) (fun v s => sendVector n v s) s
    | none => s

/-- DOE Abort: a partial object is discarded (R428). -/
def doeAbort (l : Nat) (s : State) : State := doeDrop l s

/-- A configuration write. -/
def cfgWrite (l f reg value en : Nat) (s : State) : State :=
  let x := funcOf s l f
  let w := cfgMerge (cfgRead s l f reg) value en
  let keep := fun (m : Nat) => putFunc l f { x with regs := Tab.set 0 x.regs reg (w &&& m) } s
  if reg = 0x04 then
    (let s := putFunc l f { x with command := putBit (w &&& 0x0546) 2 (bitOf x.command 2 || bitOf w 2) } s
     if bitOf x.command 2 = true ∧ bitOf w 2 = false then bmeClear l f s else s)
  else if (reg = 0x10 ∨ reg = 0x20) ∧ barSize s l f ((reg - 0x10) / 4) ≠ 0 then
    (let i := (reg - 0x10) / 4
     let z := barSize s l f i
     putFunc l f { x with bars := Tab.set 4 x.bars i (w / z * z % 2 ^ 32 + 4) } s)
  else if (reg = 0x14 ∨ reg = 0x24) ∧ barSize s l f ((reg - 0x14) / 4) ≠ 0 then
    putFunc l f { x with bars := Tab.set 0 x.bars ((reg - 0x10) / 4) w } s
  else if reg = 0x44 ∧ f < 4 then
    (if w % 4 = 3 then (if x.pmcsr = 3 then s else d3hot l f s)
     else if w % 4 = 0 ∧ x.pmcsr = 3 then flr l f 2 s
     else s)
  else if reg = 0x50 then sendPending l f (keep 0xC0000000)
  else if reg = 0x78 then
    (let s := putFunc l f { x with devctl := w % 32768 } s
     if bitOf w 15 then flr l f 2 s else s)
  else if reg = 0x104 then putFunc l f { x with aerUnc := x.aerUnc &&& (0xFFFFFFFF - (cfgMerge 0 value en &&& x.aerUnc)) } s
  else if reg = 0x110 then putFunc l f { x with aerCor := x.aerCor &&& (0xFFFFFFFF - (cfgMerge 0 value en &&& x.aerCor)) } s
  else if reg = 0x108 ∨ reg = 0x10C ∨ reg = 0x114 then keep 0xFFFFFFFF
  else if reg = 0x118 then keep 0x140
  else if reg = 0x158 ∧ pfVfs s l f ≠ 0 then vfEnableWrite l f (bitOf w 0) (keep 0x18)
  else if reg = 0x160 ∧ pfVfs s l f ≠ 0 then numVfsWrite l f (w % 65536) s
  else if (reg = 0x174 ∨ reg = 0x178) ∧ pfVfs s l f ≠ 0 then keep 0xFFFFFFFF
  else if reg = 0x2A8 ∧ f = 0 ∧ bitOf w 0 = true then doeAbort l s
  else s

/-- CONFIG_REQUEST (R419, R420): Request Retry Status until boot step 4 has applied HOSTFN. -/
def execConfigRequest (link : PcieLink) (func : BitVec 8) (write : Bool) (reg : BitVec 12) (value : Word) (enables : BitVec 4) (s : State) : Result :=
  let s := s.begin
  let l := link.val
  let f := func.toNat
  let r := reg.toNat / 4 * 4
  .next (if s.boot.testEn then s
    else if s.boot.step ≤ 4 then s.emit (.retryStatus l f)
    else if s.isSet F.HIF_LINK_STAT_UP l = false then s
    else if funcUp s l f = false then s.emit (.unsupported l f)
    else if write then (cfgWrite l f r value.toNat enables.toNat s).emit (.cfgAnswer l f 0)
    else s.emit (.cfgAnswer l f (cfgRead s l f r)))

/-- NUMVFS_WRITE (R423). -/
def execNumvfsWrite (link : PcieLink) (pf : Fin 4) (value : Nat) (s : State) : Result :=
  .next (numVfsWrite link.val pf.val (value % 65536) s.begin)

/-- VF_ENABLE (R423). -/
def execVfEnable (link : PcieLink) (pf : Fin 4) (enable : Bool) (s : State) : Result :=
  .next (vfEnableWrite link.val pf.val enable s.begin)

/-! ### DOE and SPDM (R428, R429) -/

/-- Send a data object in answer; the mailbox holds no partial object after it. -/
def doeSend (l kind : Nat) (payload : List Nat) (s : State) : State := (doeDrop l s).emit (.doe l kind payload)

/-- An SPDM ERROR response (DMTF DSP0274): 1 InvalidRequest, 4 UnexpectedRequest. -/
def spdmError (l code : Nat) (s : State) : State := doeSend l 0x7F [code] s

/-- An SPDM request that needs the connection to have reached a stage. -/
def spdmAt (l stage kind : Nat) (payload : State → List Nat) (s : State) : State :=
  if Tab.get 0 s.hif.spdm l < stage then spdmError l 4 s else doeSend l kind (payload s) s

/-- Move the SPDM connection of a link to a stage. -/
def spdmSet (l stage : Nat) (s : State) : State := { s with hif := { s.hif with spdm := Tab.set 0 s.hif.spdm l stage } }

/-- DOE_DISCOVERY (R428): type 0 DOE Discovery, type 1 CMA-SPDM; vendor 0x0001 is the PCI-SIG's. -/
def execDoeDiscovery (link : PcieLink) (index : BitVec 8) (s : State) : Result :=
  let i := index.toNat
  .next (doeSend link.val 0 (if i = 0 then [0x0001, 0, 1] else if i = 1 then [0x0001, 1, 0] else [0xFFFF, 0, 0]) s.begin)

/-- DOE_ABORT (R428). -/
def execDoeAbort (link : PcieLink) (s : State) : Result := .next (doeAbort link.val s.begin)

/-- GET_VERSION (R429): versions 1.1 and 1.2; the connection begins anew. -/
def execGetVersion (link : PcieLink) (s : State) : Result :=
  .next (doeSend link.val 0x04 [0x1100, 0x1200] (spdmSet link.val 1 s.begin))

/-- GET_CAPABILITIES (R429): certificates, challenge, signed measurements and chunking; the flag word is the device's own. -/
def execGetCapabilities (link : PcieLink) (s : State) : Result :=
  let s := s.begin
  .next (if Tab.get 0 s.hif.spdm link.val < 1 then spdmError link.val 4 s
    else doeSend link.val 0x61 [Config.spdm 0x61 0] (spdmSet link.val 2 s))

/-- NEGOTIATE_ALGORITHMS (R429): ECDSA P-384 (bit 7 of BaseAsymAlgo) and SHA-384 (bit 1 of BaseHashAlgo). -/
def execNegotiateAlgorithms (link : PcieLink) (s : State) : Result :=
  let s := s.begin
  .next (if Tab.get 0 s.hif.spdm link.val < 2 then spdmError link.val 4 s
    else doeSend link.val 0x63 [0x80, 0x02] (spdmSet link.val 3 s))

/-- GET_DIGESTS (R429): slot 0 alone holds a chain. -/
def execGetDigests (link : PcieLink) (s : State) : Result :=
  .next (spdmAt link.val 3 0x01 (fun _ => [0x01, Config.spdm 0x01 0]) s.begin)

/-- GET_CERTIFICATE (R429): slots 1 to 7 are empty. -/
def execGetCertificate (link : PcieLink) (slot : BitVec 4) (off len : Nat) (s : State) : Result :=
  .next (if slot.toNat ≠ 0 ∧ 3 ≤ Tab.get 0 s.hif.spdm link.val then spdmError link.val 1 s.begin
    else spdmAt link.val 3 0x02 (fun _ => [Config.spdm 0x02 (off + 65536 * len)]) s.begin)

/-- CHALLENGE (R429): signed over the nonce. -/
def execChallenge (link : PcieLink) (slot : BitVec 4) (nonce : Nat) (s : State) : Result :=
  .next (if slot.toNat ≠ 0 ∧ 3 ≤ Tab.get 0 s.hif.spdm link.val then spdmError link.val 1 s.begin
    else spdmAt link.val 3 0x03 (fun _ => [Config.spdm 0x03 nonce]) s.begin)

/-- The bytes of the live microcode banks, store by store, as one number; a bank counts as live until PENDING clears
(R429 index 5). -/
def liveBanks (s : State) : Nat :=
  (List.range 16).foldl (fun a f =>
    let b := s.rd F.UCS_BANK_LIVE f
    let b := if s.isSet F.UCS_BANK_PENDING f then 1 - b else b
    (if b = 0 then s.ucs.bankA else s.ucs.bankB).foldl (fun a e =>
      if 8192 * f ≤ e.1 ∧ e.1 < 8192 * f + 8192 then a + e.2 * 2 ^ (64 * e.1) else a) a) 0

/-- The SHA-384 measurements (R429). -/
def measurement (s : State) (i : Nat) : Nat :=
  if i ≤ 2 then Config.romDigest i
  else if i = 3 then ((if s.upd.running = 1 then s.upd.fw1 else s.upd.fw2).map FwImage.hash).getD 0
  else if i = 4 then ((s.cfg.slots.find (slotRec s).primary).getD s.image).sigHash
  else Config.sha384 (liveBanks s)

/-- GET_MEASUREMENTS (R429): index 0 asks how many there are, 0xFF for all of them. -/
def execGetMeasurements (link : PcieLink) (index : BitVec 8) (s : State) : Result :=
  let i := index.toNat
  .next (if 5 < i ∧ i ≠ 0xFF ∧ 3 ≤ Tab.get 0 s.hif.spdm link.val then spdmError link.val 1 s.begin
    else spdmAt link.val 3 0x60 (fun s =>
      if i = 0 then [5] else if i = 0xFF then [1, 2, 3, 4, 5].map (measurement s) else [measurement s i]) s.begin)

/-! ### Errors (R430) -/

/-- A host-read error of a DMA channel (R512). -/
def hostReadError (c cause : Nat) (s : State) : State :=
  match s.dma.jobs.find c with
  | none => s
  | some j => dmaError c { writes := false, host := true, cause := ⟨cause % 8, Nat.mod_lt cause (by decide)⟩,
                           addr := BitVec.ofNat 64 (j.src + j.done), doneLen := j.done } s

/-- POISONED_TLP_RECEIVED (R430): an advisory non-fatal error; a completion for a channel's read fails it, a BAR write is
ignored. -/
def execPoisonedTlpReceived (link : PcieLink) (func : BitVec 8) (chan : Option (Fin 64)) (s : State) : Result :=
  let s := aerCorr link.val func.toNat 13 (aerUncorr link.val func.toNat 12 (s.begin.wr F.HIF_EVT_POISON_RX 1))
  .next (match chan with
    | some c => hostReadError c.val 3 s
    | none => s)

/-- COMPLETION_TIMEOUT (R430, R512 cause 2). -/
def execCompletionTimeout (link : PcieLink) (func : BitVec 8) (chan : Fin 64) (s : State) : Result :=
  .next (hostReadError chan.val 2 (aerUncorr link.val func.toNat 14 s.begin))

/-- UNEXPECTED_COMPLETION (R430). -/
def execUnexpectedCompletion (link : PcieLink) (func : BitVec 8) (s : State) : Result :=
  .next (aerUncorr link.val func.toNat 16 s.begin)

/-- ECRC_ERROR (R430): while checking is enabled; read data as a poisoned completion, else the TLP is dropped. -/
def execEcrcError (link : PcieLink) (func : BitVec 8) (chan : Option (Fin 64)) (s : State) : Result :=
  let s := s.begin
  .next (if bitOf (Tab.get 0 (funcOf s link.val func.toNat).regs 0x118) 8 = false then s
    else
      let s := aerUncorr link.val func.toNat 19 s
      match chan with
      | some c => hostReadError c.val 3 s
      | none => s)

/-- LINK_PROTOCOL_ERROR (R430): fatal; every controller of the link is reset as for link-down. -/
def execLinkProtocolError (link : PcieLink) (func : BitVec 8) (s : State) : Result :=
  let s := aerUncorr link.val func.toNat 18 s.begin
  let cs := (s.nvq.ctrls.filter (fun e => decide (e.2.port = .pcie link))).map Prod.fst
  .next (eachOf cs (fun n s => resetLost n 3 s) s)

/-! ### Resets and link events (R353, R373, R432, R614) -/

/-- FUNCTION_LEVEL_RESET (R432). -/
def execFunctionLevelReset (link : PcieLink) (func : BitVec 8) (s : State) : Result :=
  let s := s.begin
  .next (if funcUp s link.val func.toNat then flr link.val func.toNat 2 s else s)

/-- PERST_ASSERT (R417, R614): both links of the port. -/
def execPerstAssert (port : Fin 4) (s : State) : Result :=
  .next (linkDown (2 * port.val + 1) 2 (linkDown (2 * port.val) 2 s.begin))

/-- PCIE_LINK_UP (R353, R433): a configured link reaches DL_Active; its controllers are in Change. -/
def execPcieLinkUp (link : PcieLink) (width : Nat) (speed : Fin 7) (flit : Bool) (s : State) : Result :=
  let s := s.begin
  let l := link.val
  .next (if l ∉ pcieLinks s ∨ s.isSet F.HIF_LINK_STAT_UP l = true then s
    else
      let was := portUp s (l / 2)
      let s := (((s.wr F.HIF_LINK_STAT_UP 1 l).wr F.HIF_LINK_STAT_WIDTH width l).wr F.HIF_LINK_STAT_SPEED speed.val l).wrB
        F.HIF_LINK_STAT_FLIT flit l
      let s := funcsNote l (degradedNote l (s.wrBit F.HIF_EVT_LINK_UP l true))
      let s := portChange (.pcie link) s
      if was = false ∧ s.boot.done = true then faultRestored bitPort (l / 2) s else glbRefresh s)

/-- PCIE_LINK_DOWN (R432): surprise link-down. -/
def execPcieLinkDown (link : PcieLink) (s : State) : Result :=
  let s := s.begin
  .next (if s.isSet F.HIF_LINK_STAT_UP link.val then linkDown link.val 3 s else s)

/-- BUS_MASTER_ENABLE_CLEAR (R432). -/
def execBusMasterEnableClear (link : PcieLink) (func : BitVec 8) (s : State) : Result :=
  let s := s.begin
  .next (if bitOf (funcOf s link.val func.toNat).command 2 then bmeClear link.val func.toNat s else s)

/-- D3HOT_ENTRY (R432). -/
def execD3hotEntry (link : PcieLink) (func : BitVec 8) (s : State) : Result :=
  let s := s.begin
  .next (if func.toNat < 4 ∧ funcUp s link.val func.toNat = true ∧ (funcOf s link.val func.toNat).pmcsr ≠ 3 then
    d3hot link.val func.toNat s else s)

/-- PCIE_LINK_RETRAIN (R432, R353): a link up retrains, perhaps below its configured width or rate. -/
def execPcieLinkRetrain (link : PcieLink) (width : Nat) (speed : Fin 7) (s : State) : Result :=
  let s := s.begin
  let l := link.val
  .next (if s.isSet F.HIF_LINK_STAT_UP l = false then s
    else
      let s := ((s.wr F.HIF_LINK_STAT_WIDTH width l).wr F.HIF_LINK_STAT_SPEED speed.val l).count F.HIF_CNT_RETRAIN_COUNT 1 l
      let s := degradedNote l s
      portFollow (.pcie link) s)

end Sys2Proof.Machine
end

