-- ==== Sys2Proof/Machine/RegAccess.lean ====
section
/-! DEFINITION. Register accesses on every path: the register window (R9 to R19), the Custodian port (R593 to R600), expert windows
(R425 to R427) and the BARs of PCIe functions (R424). -/

namespace Sys2Proof.Machine

open Sys2Proof

/-! ### The Custodian's local space (R593 to R595) -/

/-- An offset of the CUS block. -/
def inCus (off : Nat) : Bool := decide (0xB000000 ≤ off ∧ off < 0xC000000)

/-- A local offset that needs an open session (R593). -/
def needsSession (x : Nat) : Bool :=
  decide ((0x120 ≤ x ∧ x < 0x140) ∨ (0x200 ≤ x ∧ x < 0x2C0) ∨ (0x300 ≤ x ∧ x < 0x310 ∧ x / 4 ≠ 0xC2) ∨ (0x1000 ≤ x ∧ x < 0x2000))

/-- An access that reads 0, is ignored as a write, and is recorded (R593, R594): a CUS offset from any other path than the
Custodian's, and without a session whatever needs one, every register behind the window among it. -/
def cusRefused (s : State) (p : AccessPath) (off : Nat) : Bool :=
  if p = .custodian then !s.cus.isOpen && (!inCus off || needsSession (off - 0xB000000)) else inCus off

/-- The register that a status mirror shows, by its local offset (R595). -/
def mirrorOf (x : Nat) : Option Nat :=
  if x % 4 ≠ 0 then none
  else if 0x40 ≤ x ∧ x < 0x80 then some (0x11000100 + (x - 0x40))
  else if 0x80 ≤ x ∧ x < 0xA0 then some (0x5000000 + (x - 0x80))
  else if 0xA0 ≤ x ∧ x < 0xC0 then some (0x1000000 + (x - 0xA0))
  else [0x10, 0x20, 0x24, 0x300000, 0x10000000, 0x1200000C, 0x400004, 0x400014, 0x500004, 0xA000000, 0x700000, 0x700004][x / 4]?

/-! ### Reads (R9 to R12, R163, R595) -/

/-- The word at an aligned offset as a path reads it; a mirror shows its source at Basic level. -/
def accessWord (s : State) (p : AccessPath) (off : Nat) : Nat :=
  if inCus off then
    (match mirrorOf (off - 0xB000000) with
     | some src => if src = 0x700004 then s.cus.nowHi else snapWord s src
     | none => readWord s p off)
  else readWord s p off

/-- RC fields clear (R9); one that the path may not use does not (R16). -/
def rcClear (expert : Bool) (r : Reg) (i : Nat) (s : State) : State :=
  r.fields.foldl (fun s f => if f.acc = .rc ∧ (f.expert = false ∨ expert = true) then s.wr f 0 i else s) s

/-- The other side effects of a read: latches (R163, R545), the pop of a mailbox entry (R525), the suspend count of a
class (R416). -/
def readLatch (p : AccessPath) (r : Reg) (i : Nat) (s : State) : State :=
  if r.base = 0x700000 then { s with life := { s.life with nowHi := s.life.now / 2 ^ 32 } }
  else if r.base = 0x700008 then { s with life := { s.life with utcHi := unsigned s.life.utc 64 / 2 ^ 32 } }
  else if r.base = 0x9000008 then { s with peat := { s.peat with seqHi := s.peat.next / 2 ^ 32 } }
  else if r.base = 0x9000010 then { s with peat := { s.peat with archHi := s.peat.archived / 2 ^ 32 } }
  else if r.base = 0x8000010 ∧ i % 4 = 3 then mbxPop p (i / 4) s
  else if r.base = 0x4000130 then
    let c := s.rd F.SLU_CLS_SEL_CLASS
    putUse c { (classUse s c) with susp := 0 } s
  else s

/-- The side effects of a read of one register. -/
def readEffects (p : AccessPath) (off : Nat) (s : State) : State :=
  if inCus off ∧ mirrorOf (off - 0xB000000) = some 0x700000 then
    { s with cus := { s.cus with nowHi := s.life.now / 2 ^ 32 } }
  else
    match locate off with
    | none => s
    | some (r, i) => readLatch p r i (rcClear (expertOpen s p) r i s)

/-- An access leaves one aligned word (R11). -/
def crosses (off nbytes : Nat) : Bool := decide (4 < off % 4 + nbytes)

/-- An access of a status mirror, which no session needs (R595, R598). -/
def mirrorAccess (off : Nat) : Bool := inCus off && (mirrorOf (off - 0xB000000)).isSome

/-- A read (R11): the addressed bytes of one aligned word, with the side effects of the whole register. In manufacturing test
nothing answers (R639). -/
def accessRead (p : AccessPath) (off nbytes : Nat) (s : State) : State :=
  let a := off / 4 * 4
  if s.boot.testEn then s
  else if crosses off nbytes = true ∨ cusRefused s p a = true then (accessViolation p off s).answer 0
  else
    let s := if mirrorAccess a then s else expertUse p s
    (readEffects p a s).answer (bits (accessWord s p a) (8 * (off % 4)) (8 * nbytes))

/-! ### Writes (R9 to R14) -/

/-- The body of the task of an opcode (R603). What only the outside can tell of a task, where a register write starts it, is a
free value. -/
def taskBody (free : Bool) (op : Nat) (s : State) : State :=
  if op = 0x01 then taskLifeRead s
  else if op = 0x02 then taskLifeSetUtc s
  else if op = 0x10 then taskSeal s
  else if op = 0x20 then taskEscrowImport true s
  else if op = 0x21 then taskEscrowExport s
  else if op = 0x30 then taskMemberRetire s
  else if op = 0x31 then
    (match s.ret.cal.find (argOf s 0) with
     | some c => taskMemberHotadd c free s
     | none => taskEnd 7 3 s)
  else if op = 0x40 then taskPeatExport s
  else if op = 0x50 then taskManifest s
  else if op = 0x60 then taskImageWrite { off := 0, len := 0 } s
  else if op = 0x61 then taskTwimaPromote s
  else if op = 0x62 then taskFwCommit s
  else if op = 0x63 then taskRetireOld s
  else if op = 0x70 then taskPeerSet true s
  else if op = 0x71 then taskDone (chainStart s)
  else if op = 0x72 then taskDone (migExport (argOf s 0) (arg64 s 1) s)
  else if op = 0x73 then taskDone (migImport (arg64 s 0) (argOf s 2) (argOf s 3) (argOf s 4) s)
  else if op = 0x74 then taskDone (migFreeze (argOf s 0) s)
  else if op = 0x7F then taskDeviceReset s
  else taskEnd 1 0 s

/-- GO by a register write (R601): the task of the opcode; one that R603 does not list ends with BAD_OPCODE. -/
def taskByOpcode (op : Nat) (s : State) : State :=
  taskGo op (taskBody (decide (s.draw 2 = 1)) op) (if op = 0x31 then s.drawn else s)

/-- CUS_TASK_CMD (R601, R607). -/
def taskCmdWrite (v : Nat) (s : State) : State :=
  if bitOf v 8 then taskByOpcode (bits v 0 8) s else regWrite .custodian 0xB000200 v s

/-- A whole-word write of any register but CUS_WIN_CTL, with what its block does. -/
def deviceWrite (p : AccessPath) (off value : Nat) (s : State) : State :=
  if off = 0x200010 then bootResetWrite p value s
  else if off = 0xB000110 then sessionWord value s
  else if off = 0xB000114 then (if bitOf value 7 then sessionClose s else s)
  else if off = 0xB000200 then taskCmdWrite value s
  else blockWrite p off value 0xFFFFFFFF s

/-! ### The session's window (R600) -/

/-- The offset that the window addresses. -/
def windowAddr (s : State) : Nat := 4 * s.rd F.CUS_WIN_ADDR_OFFSET

/-- The window's read: its result stands in CUS_WIN_RDATA; the read's side effects apply. -/
def windowRead (s : State) : State :=
  let a := windowAddr s
  let v := accessWord s .custodian a
  (readEffects .custodian a s).wr F.CUS_WIN_RDATA_DATA v

/-- The window's write. BUSY is 1 while it runs, so that one of CUS_WIN_CTL itself is ignored and logged. -/
def windowWrite (s : State) : State :=
  let a := windowAddr s
  if a = 0xB000128 then accessViolation .custodian a s else deviceWrite .custodian a (s.rd F.CUS_WIN_WDATA_DATA) s

/-- CUS_WIN_CTL: one access; READ and WRITE together are ignored and logged. -/
def winCtlWrite (value : Nat) (s : State) : State :=
  if value % 4 = 3 then accessViolation .custodian 0xB000128 s
  else if value % 4 = 1 then windowRead s
  else if value % 4 = 2 then windowWrite s
  else s

/-- A write on a path (R11): narrow or unaligned ones are ignored and recorded. -/
def accessWrite (p : AccessPath) (off nbytes value : Nat) (s : State) : State :=
  if s.boot.testEn then s
  else if off % 4 ≠ 0 ∨ nbytes ≠ 4 ∨ cusRefused s p off = true then accessViolation p off s
  else if off = 0xB000128 then winCtlWrite value (expertUse p s)
  else deviceWrite p off value (expertUse p s)

/-- REGISTER_WRITE (R9). -/
def execRegisterWrite (path : AccessPath) (off nbytes : Nat) (value : Word) (s : State) : Result :=
  .next (accessWrite path off nbytes value.toNat s.begin)

/-- RC_READ (R10). -/
def execRcRead (path : AccessPath) (off nbytes : Nat) (s : State) : Result := .next (accessRead path off nbytes s.begin)

/-- LATCHING_READ (R163, R545, R595). -/
def execLatchingRead (path : AccessPath) (off : Nat) (s : State) : Result := .next (accessRead path off 4 s.begin)

/-- WINDOW_READ (R600): a write of CUS_WIN_CTL.READ. -/
def execWindowRead (s : State) : Result := .next (accessWrite .custodian 0xB000128 4 1 s.begin)

/-- WINDOW_WRITE (R600): a write of CUS_WIN_CTL.WRITE. -/
def execWindowWrite (s : State) : Result := .next (accessWrite .custodian 0xB000128 4 2 s.begin)

/-! ### Dwords of a memory request -/

/-- The dwords that `n` bytes from an offset touch, in ascending address order: (aligned offset, first byte in it, bytes in it,
first byte of the request's data). -/
def dwords (fuel off n done : Nat) : List (Nat × Nat × Nat × Nat) :=
  match fuel with
  | 0 => []
  | fuel + 1 =>
    if n = 0 then []
    else
      let b := off % 4
      let k := min n (4 - b)
      (off / 4 * 4, b, k, done) :: dwords fuel (off + k) (n - k) (done + k)

/-- Run a read over the dwords of a request: `rd` gives a dword's value and the state after it; the request's bytes come together. -/
def readDwords (rd : Nat → State → Nat × State) (ds : List (Nat × Nat × Nat × Nat)) (s : State) : Nat × State :=
  ds.foldl (fun a d =>
    let r := rd d.1 a.2
    (a.1 + bits r.1 (8 * d.2.1) (8 * d.2.2.1) * 2 ^ (8 * d.2.2.2), r.2)) (0, s)

/-- Run a write over the dwords of a request: `wr` takes the dword's offset, its bytes' number and the data. -/
def writeDwords (wr : Nat → Nat → Nat → State → State) (value : Nat) (ds : List (Nat × Nat × Nat × Nat)) (s : State) : State :=
  eachOf ds (fun d s => wr (d.1 + d.2.1) d.2.2.1 (bits value (8 * d.2.2.2) (8 * d.2.2.1)) s) s

/-! ### Expert windows (R425 to R427) -/

/-- The window that covers a BAR4/5 offset. -/
def windowAt (s : State) (l f off : Nat) : Option WindowEntry :=
  (windowsOf s l f).find? (fun w => decide (w.barOff ≤ off ∧ off < w.barOff + 2 ^ w.sizeLog2))

/-- A dword read through an expert window; an offset that no window covers reads 0 (R425). -/
def expertRead (l : Fin 8) (f : Fin 4) (off : Nat) (s : State) : Nat × State :=
  match windowAt s l.val f.val off with
  | none => (0, s)
  | some w =>
    let t := accessRead (.expertWindow l f) (w.target + (off - w.barOff)) 4 s
    (t.readData.toNat, t)

/-- A dword write through an expert window (R425, R427): not covered, ignored; without WRITE, ignored and recorded. -/
def expertWrite (l : Fin 8) (f : Fin 4) (off nbytes value : Nat) (s : State) : State :=
  match windowAt s l.val f.val off with
  | none => s
  | some w =>
    let a := w.target + (off - w.barOff)
    if w.write then accessWrite (.expertWindow l f) a nbytes value s else accessViolation (.expertWindow l f) a s

/-- A TLP of up to 64 bytes through a PF's expert window: each dword is one access, in ascending order. -/
def expertTlp (l : Fin 8) (f : Fin 4) (off n : Nat) (write : Bool) (value : Nat) (s : State) : State :=
  let ds := dwords 20 off (min n 64) 0
  if write then writeDwords (expertWrite l f) value ds s
  else
    let r := readDwords (expertRead l f) ds s
    r.2.emit (.memAnswer l.val r.1)

/-! ### BAR0/1 (R424): controller registers, doorbells, MSI-X -/

/-- Put one held word of a function. -/
def putFuncReg (l f k v : Nat) (s : State) : State :=
  putFunc l f { (funcOf s l f) with regs := Tab.set 0 (funcOf s l f).regs k (v % 2 ^ 32) } s

/-- Where a function's MSI-X table and PBA stand in BAR0/1 (R424). -/
def msixBase (f : Nat) : Nat := if f < 4 then 0x8000 else 0x4000
def pbaBase (f : Nat) : Nat := if f < 4 then 0x10000 else 0x5000

/-- A dword of the controller registers (R336, R419): CAP, VS, CC, CSTS, AQA, and the admin queue addresses as written. -/
def propRead (s : State) (l f off : Nat) : Nat :=
  let held := Tab.get 0 (funcOf s l f).regs (0x1000 + off)
  if 0x28 ≤ off ∧ off < 0x38 then held
  else
    match (ctrlOf s l f).bind s.ctrl? with
    | some c => if off = 0x04 then capValue false / 2 ^ 32 else propValue c off % 2 ^ 32
    | none =>
      if off = 0 then capValue false % 2 ^ 32 else if off = 4 then capValue false / 2 ^ 32 else if off = 8 then vsValue
      else if off = 0x14 ∨ off = 0x24 then held else 0

/-- A write of a controller register. Before boot step 8 CC and AQA are held (R419); AQA and the queue addresses hold what is
written while the controller is disabled. -/
def propWrite (l f off v : Nat) (s : State) : State :=
  if 0x28 ≤ off ∧ off < 0x38 then putFuncReg l f (0x1000 + off) v s
  else
    match ctrlOf s l f with
    | some n =>
      if off = 0x14 then ccWrite n v s
      else if off = 0x24 then
        (match s.ctrl? n with
         | some c => s.putCtrl n { c with aqa := v % 2 ^ 32 }
         | none => s)
      else s
    | none => if off = 0x14 ∨ off = 0x24 then putFuncReg l f (0x1000 + off) v s else s

/-- A vector's control word: the mask bit, set at reset. -/
def vectorMasked (s : State) (l f v : Nat) : Bool :=
  match (ctrlOf s l f).bind s.ctrl? with
  | some c => (Tab.get (0, true) c.vecs v).2
  | none => decide (Tab.get 0 (funcOf s l f).regs (0x10000 + 16 * v + 12) = 0)

/-- An MSI-X table dword: entries beyond the vector budget read 0. -/
def msixRead (s : State) (l f x : Nat) : Nat :=
  let v := x / 16
  if funcVectors s l f ≤ v then 0
  else if x % 16 = 12 then b2n (vectorMasked s l f v)
  else Tab.get 0 (funcOf s l f).regs (0x10000 + x)

/-- A write of an MSI-X table dword; unmasking a vector with entries pending sends its message (R349). Before the controller exists
the mask bit is held. -/
def msixWrite (l f x v : Nat) (s : State) : State :=
  let n := x / 16
  if funcVectors s l f ≤ n then s
  else if x % 16 = 12 then
    match ctrlOf s l f with
    | some c =>
      (match s.ctrl? c with
       | some k =>
         let e := Tab.get (0, true) k.vecs n
         sendVector c n (s.putCtrl c { k with vecs := k.vecs.put n (e.1, bitOf v 0) })
       | none => s)
    | none => putFuncReg l f (0x10000 + x) (1 - v % 2) s
  else putFuncReg l f (0x10000 + x) v s

/-- A dword of the Pending Bit Array. -/
def pbaRead (s : State) (l f x : Nat) : Nat :=
  match (ctrlOf s l f).bind s.ctrl? with
  | some c => packBits ((List.range 32).map (fun b => decide (0 < (Tab.get (0, true) c.vecs (8 * x + b)).1)))
  | none => 0

/-- A dword read of BAR0/1. What a doorbell reads, no rule says: a free value. -/
def barRead (l f off : Nat) (s : State) : Nat × State :=
  if off < 0x1000 then (propRead s l f off, s)
  else if off < 0x3008 then (s.draw (2 ^ 32), s.drawn)
  else if msixBase f ≤ off ∧ off < msixBase f + (if f < 4 then 0x8000 else 0x800) then (msixRead s l f (off - msixBase f), s)
  else if pbaBase f ≤ off ∧ off < pbaBase f + (if f < 4 then 0x100 else 0x10) then (pbaRead s l f (off - pbaBase f), s)
  else (0, s)

/-- A doorbell: SQ y tail at 0x1000 + 8 y, CQ y head 4 bytes after it (CAP.DSTRD 0). -/
def doorbellWrite (l f x v : Nat) (s : State) : State :=
  match ctrlOf s l f with
  | none => s
  | some n => if x % 8 = 0 then sqDoorbell n (x / 8) (v % 65536) s else cqDoorbell n (x / 8) (v % 65536) s

/-- A dword write of BAR0/1; one with partial byte enables is ignored. -/
def barWrite (l f off nbytes v : Nat) (s : State) : State :=
  if nbytes ≠ 4 then s
  else if off < 0x1000 then propWrite l f off v s
  else if off < 0x3008 then doorbellWrite l f (off - 0x1000) v s
  else if msixBase f ≤ off ∧ off < msixBase f + (if f < 4 then 0x8000 else 0x800) then msixWrite l f (off - msixBase f) v s
  else s

/-- Memory Space Enable of a function: a VF has its PF's VF MSE. -/
def memoryOn (s : State) (l f : Nat) : Bool :=
  if f < 4 then bitOf (funcOf s l f).command 1
  else match vfParent s l f with
    | some p => bitOf (Tab.get 0 (funcOf s l p).regs 0x158) 3
    | none => false

/-- A memory request that the device does not take: Unsupported Request (R424), which AER reports (R430). -/
def memUnsupported (l f : Nat) (s : State) : State := (aerUncorr l f 20 s).emit (.unsupported l f)

/-- A memory request that the device takes: HOSTFN applied, the function there with Memory Space Enable set, the BAR implemented
over the whole request (R419, R424). -/
def memTaken (s : State) (l f bar off len : Nat) : Bool :=
  decide (4 < s.boot.step) && funcUp s l f && memoryOn s l f && decide (off + len ≤ barSize s l f bar)

/-- EXPERT_WINDOW_TLP (R424, R427): a memory request of a PF's BAR4/5. -/
def execExpertWindowTlp (link : PcieLink) (pf : Fin 4) (off nbytes : Nat) (write : Bool) (value : Nat) (s : State) : Result :=
  let s := s.begin
  let l := link.val
  .next (if s.boot.testEn = true ∨ s.isSet F.HIF_LINK_STAT_UP l = false then s
    else if memTaken s l pf.val 4 off nbytes = false then memUnsupported l pf.val s
    else expertTlp link pf off nbytes write value s)

/-- BAR_MEMORY_REQUEST (R424): a request that hits an implemented BAR of a function with Memory Space Enable set. -/
def execBarMemoryRequest (link : PcieLink) (func : BitVec 8) (bar : Fin 6) (off len : Nat) (write : Bool) (value : Nat) (s : State) : Result :=
  let s := s.begin
  let l := link.val
  let f := func.toNat
  .next (if s.boot.testEn = true ∨ s.isSet F.HIF_LINK_STAT_UP l = false then s
    else if memTaken s l f bar.val off len = false then memUnsupported l f s
    else if bar.val = 4 then expertTlp link ⟨f % 4, Nat.mod_lt f (by decide)⟩ off len write value s
    else if write then writeDwords (barWrite l f) value (dwords (len + 1) off len 0) s
    else
      let r := readDwords (barRead l f) (dwords (len + 1) off len 0) s
      r.2.emit (.memAnswer l r.1))

end Sys2Proof.Machine
end

