-- ==== Sys2Proof/Machine/Thermal.lean ====
section
/-! DEFINITION. Junction temperature, throttle, THERM_N, the thermal hold and the SMBus target (chapters "Power, thermal and
electrical" and "Package and pins"). -/

namespace Sys2Proof.Machine

open Sys2Proof

/-- An 8-bit signed temperature: it saturates at the ends of its range. -/
def degrees (t : Int) : Nat := unsigned (max (-128) (min 127 t)) 8

/-- The 16 sensors' registers (R661). -/
def sensorRegs (temps : List (Option Int)) (s : State) : State :=
  eachOf (List.range 16) (fun i s =>
    match temps.getD i none with
    | some t => (s.wr F.TMON_SENSOR_TEMP (degrees t) i).wr F.TMON_SENSOR_VALID 1 i
    | none => s.wr F.TMON_SENSOR_VALID 0 i) s

/-- Set or clear one state of R655 with its event when it begins. -/
def thermState (f ev : Field) (v : Bool) (s : State) : State :=
  if v = true ∧ s.isSet f = false then (s.wr f 1).wr ev 1 else s.wrB f v

/-- TJ and TJ_MAX (R660): the hottest of the sensors that are valid. -/
def junctionNote (first : Bool) (t : Int) (s : State) : State :=
  let m := if first then t else max t (signed (s.rd F.TMON_STAT_TJ_MAX) 8)
  (s.wr F.TMON_STAT_TJ (degrees t)).wr F.TMON_STAT_TJ_MAX (degrees m)

/-- Throttle, THERM_N and the end of the hold at a junction temperature (R655). With fewer than 8 sensors valid, THROTTLE is
held. -/
def thermAct (valid : Nat) (t : Int) (s : State) : State :=
  let c : Int := s.rd F.TMON_CTL_THROTTLE_C
  let thr := decide (c ≤ t) || (s.isSet F.TMON_STAT_THROTTLE && decide (c - 5 ≤ t)) || decide (valid < 8)
  let thm := decide (105 ≤ t) || (s.isSet F.TMON_STAT_THERM && decide (100 ≤ t))
  let hold := s.tmon.hold && decide (100 ≤ t)
  let s := thermState F.TMON_STAT_THERM F.TMON_EVT_THERM thm (thermState F.TMON_STAT_THROTTLE F.TMON_EVT_THROTTLE thr s)
  ({ s with tmon := { s.tmon with hold := hold } }).wrB F.TMON_STAT_HOLD hold

/-- JUNCTION_SAMPLE (R655, R660): every 100 µs; a sensor that fails is ignored. -/
def execJunctionSample (temps : List (Option Int)) (s : State) : Result :=
  let s := s.begin
  let first := s.tmon.temps.isEmpty
  let temps := temps.take 16
  let valid := (temps.filter Option.isSome).length
  let s := { s with tmon := { s.tmon with temps := temps } }
  let s := (sensorRegs temps s).wr F.TMON_STAT_SENSORS valid
  .next (glbRefresh (match junction s with
    | some t => thermAct valid t (junctionNote first t s)
    | none => thermState F.TMON_STAT_THROTTLE F.TMON_EVT_THROTTLE true s))

/-- THERMAL_HOLD_ENTRY (R655): the junction has been at or above 112 °C for 1 ms. -/
def execThermalHoldEntry (s : State) : Result :=
  let s := s.begin
  .next (match junction s with
    | some t =>
      if t < 112 then s
      else thermState F.TMON_STAT_HOLD F.TMON_EVT_HOLD true { s with tmon := { s.tmon with hold := true } }
    | none => s)

/-- The byte of an SMBus Read Byte (R640). -/
def smbusByte (s : State) (cmd : Nat) : Nat :=
  if cmd = 0 then s.rd F.TMON_STAT_TJ
  else if cmd = 1 then
    (if s.boot.done = false ∧ s.boot.step ≤ 6 then 0x80
     else degrees ((hottest ((List.range (fenCount s)).map (hottestFen s))).getD (-128)))
  else if cmd = 2 then
    packBits [s.boot.done || decide (4 < s.boot.step), s.boot.done, s.glb.faultN, s.isSet F.TMON_STAT_THERM]
  else 0xFF

/-- SMBUS_READ_BYTE (R640). In manufacturing test only JTAG responds (R639). -/
def execSmbusReadByte (cmd : BitVec 8) (s : State) : Result :=
  let s := s.begin
  .next (if s.boot.testEn then s else s.emit (.smbus true (smbusByte s cmd.toNat)))

/-- SMBUS_WRITE (R640): not acknowledged after its command byte. -/
def execSmbusWrite (_cmd : BitVec 8) (s : State) : Result := .next (s.begin.emit (.smbus false 0))

end Sys2Proof.Machine
end

