-- ==== Sys2Proof/Machine/Dispatch.lean ====
section
/-! DEFINITION. The dispatch: each command to its meaning, one arm per constructor. -/

namespace Sys2Proof.Machine

open Sys2Proof

def exec (i : Instr) (s : State) : Host.Outcome State Fault Refusal :=
  match i with
  | .registerWrite path off nbytes value => Sys2Proof.Machine.execRegisterWrite path off nbytes value s
  | .rcRead path off nbytes => Sys2Proof.Machine.execRcRead path off nbytes s
  | .latchingRead path off => Sys2Proof.Machine.execLatchingRead path off s
  | .expertKeyWrite path word => Sys2Proof.Machine.execExpertKeyWrite path word s
  | .expertNonceTimer path => Sys2Proof.Machine.execExpertNonceTimer path s
  | .expertIdleTimeout path => Sys2Proof.Machine.execExpertIdleTimeout path s
  | .expertLockoutEnd path => Sys2Proof.Machine.execExpertLockoutEnd path s
  | .expertClose path => Sys2Proof.Machine.execExpertClose path s
  | .lotReapplyStart path => Sys2Proof.Machine.execLotReapplyStart path s
  | .lotCommit => Sys2Proof.Machine.execLotCommit s
  | .powerReapplyTimeout => Sys2Proof.Machine.execPowerReapplyTimeout s
  | .memberLinkDrop link => Sys2Proof.Machine.execMemberLinkDrop link s
  | .memberWaitExpiry link => Sys2Proof.Machine.execMemberWaitExpiry link s
  | .memberReturn link => Sys2Proof.Machine.execMemberReturn link s
  | .idleKnownAnswerTest unit pass => Sys2Proof.Machine.execIdleKnownAnswerTest unit pass s
  | .sumpRowProgram ltn row cause failSlot => Sys2Proof.Machine.execSumpRowProgram ltn row cause failSlot s
  | .rowIdleTimeout ltn row => Sys2Proof.Machine.execRowIdleTimeout ltn row s
  | .foldStart ltn cause => Sys2Proof.Machine.execFoldStart ltn cause s
  | .foldDone ltn failSlot => Sys2Proof.Machine.execFoldDone ltn failSlot s
  | .mergeStart ltn due => Sys2Proof.Machine.execMergeStart ltn due s
  | .mergeCommit ltn => Sys2Proof.Machine.execMergeCommit ltn s
  | .refreshCopyStart ltn evacuation => Sys2Proof.Machine.execRefreshCopyStart ltn evacuation s
  | .refreshCopyCommit ltn => Sys2Proof.Machine.execRefreshCopyCommit ltn s
  | .blockBackgroundErase link block ok => Sys2Proof.Machine.execBlockBackgroundErase link block ok s
  | .journalRowProgram waiter ok => Sys2Proof.Machine.execJournalRowProgram waiter ok s
  | .journalRowTimeout => Sys2Proof.Machine.execJournalRowTimeout s
  | .checkpointTimer => Sys2Proof.Machine.execCheckpointTimer s
  | .checkpointNow path => Sys2Proof.Machine.execCheckpointNow path s
  | .checkpointMarkDurable => Sys2Proof.Machine.execCheckpointMarkDurable s
  | .stripeIdReuseDelay stripe => Sys2Proof.Machine.execStripeIdReuseDelay stripe s
  | .benchEvaluate => Sys2Proof.Machine.execBenchEvaluate s
  | .bench5ExitTimer fen => Sys2Proof.Machine.execBench5ExitTimer fen s
  | .rebuildJobStart stripe slot => Sys2Proof.Machine.execRebuildJobStart stripe slot s
  | .rebuildJobDone stripe slot ok => Sys2Proof.Machine.execRebuildJobDone stripe slot ok s
  | .refreshInPlace stripe failSlot => Sys2Proof.Machine.execRefreshInPlace stripe failSlot s
  | .rebuildCtlWrite path value => Sys2Proof.Machine.execRebuildCtlWrite path value s
  | .rebuildHoldTimeout => Sys2Proof.Machine.execRebuildHoldTimeout s
  | .thermalTick => Sys2Proof.Machine.execThermalTick s
  | .thermalSave => Sys2Proof.Machine.execThermalSave s
  | .samplerRead link block page corrected => Sys2Proof.Machine.execSamplerRead link block page corrected s
  | .stripeEvaluate stripe => Sys2Proof.Machine.execStripeEvaluate stripe s
  | .witnessReprogram link group ok => Sys2Proof.Machine.execWitnessReprogram link group ok s
  | .dredgeStart path => Sys2Proof.Machine.execDredgeStart path s
  | .dredgeAbort path => Sys2Proof.Machine.execDredgeAbort path s
  | .dredgeStripeCheck passId stripe finding => Sys2Proof.Machine.execDredgeStripeCheck passId stripe finding s
  | .dredgeCursorTimer passId => Sys2Proof.Machine.execDredgeCursorTimer passId s
  | .dredgePassEnd passId => Sys2Proof.Machine.execDredgePassEnd passId s
  | .decodeDone ladder outcome => Sys2Proof.Machine.execDecodeDone ladder outcome s
  | .raceTimeout ladder => Sys2Proof.Machine.execRaceTimeout ladder s
  | .learnedVectorExpiry link die slc => Sys2Proof.Machine.execLearnedVectorExpiry link die slc s
  | .encoderCheckFail link => Sys2Proof.Machine.execEncoderCheckFail link s
  | .encoderKatTimer link pass => Sys2Proof.Machine.execEncoderKatTimer link pass s
  | .hewRingTailWrite path hewer tail => Sys2Proof.Machine.execHewRingTailWrite path hewer tail s
  | .descriptorFetch hewer => Sys2Proof.Machine.execDescriptorFetch hewer s
  | .hewRead hewer slot => Sys2Proof.Machine.execHewRead hewer slot s
  | .hewReadOfs hewer slot => Sys2Proof.Machine.execHewReadOfs hewer slot s
  | .hewSoftSense hewer slot => Sys2Proof.Machine.execHewSoftSense hewer slot s
  | .hewProgram hewer slot => Sys2Proof.Machine.execHewProgram hewer slot s
  | .hewErase hewer slot => Sys2Proof.Machine.execHewErase hewer slot s
  | .hewCalread hewer slot => Sys2Proof.Machine.execHewCalread hewer slot s
  | .hewMarkread hewer slot => Sys2Proof.Machine.execHewMarkread hewer slot s
  | .hewFence hewer slot => Sys2Proof.Machine.execHewFence hewer slot s
  | .dieOperationStart hewer slot => Sys2Proof.Machine.execDieOperationStart hewer slot s
  | .descriptorComplete hewer slot status detail busyUs endTime => Sys2Proof.Machine.execDescriptorComplete hewer slot status detail busyUs endTime s
  | .hewOperationTimeout hewer slot => Sys2Proof.Machine.execHewOperationTimeout hewer slot s
  | .suspend hewer die => Sys2Proof.Machine.execSuspend hewer die s
  | .resumeOp hewer die => Sys2Proof.Machine.execResumeOp hewer die s
  | .pfQuietDeadline => Sys2Proof.Machine.execPfQuietDeadline s
  | .ucNop hewer slot => Sys2Proof.Machine.execUcNop hewer slot s
  | .ucLdi hewer slot => Sys2Proof.Machine.execUcLdi hewer slot s
  | .ucMov hewer slot => Sys2Proof.Machine.execUcMov hewer slot s
  | .ucAddi hewer slot => Sys2Proof.Machine.execUcAddi hewer slot s
  | .ucAndi hewer slot => Sys2Proof.Machine.execUcAndi hewer slot s
  | .ucOri hewer slot => Sys2Proof.Machine.execUcOri hewer slot s
  | .ucShl hewer slot => Sys2Proof.Machine.execUcShl hewer slot s
  | .ucShr hewer slot => Sys2Proof.Machine.execUcShr hewer slot s
  | .ucCmp hewer slot => Sys2Proof.Machine.execUcCmp hewer slot s
  | .ucJmp hewer slot => Sys2Proof.Machine.execUcJmp hewer slot s
  | .ucBr hewer slot => Sys2Proof.Machine.execUcBr hewer slot s
  | .ucCall hewer slot => Sys2Proof.Machine.execUcCall hewer slot s
  | .ucRet hewer slot => Sys2Proof.Machine.execUcRet hewer slot s
  | .ucSend hewer slot => Sys2Proof.Machine.execUcSend hewer slot s
  | .ucWaitc hewer slot answer => Sys2Proof.Machine.execUcWaitc hewer slot answer s
  | .ucXfer hewer slot => Sys2Proof.Machine.execUcXfer hewer slot s
  | .ucSuspt hewer slot => Sys2Proof.Machine.execUcSuspt hewer slot s
  | .ucTimer hewer slot => Sys2Proof.Machine.execUcTimer hewer slot s
  | .ucDone hewer slot => Sys2Proof.Machine.execUcDone hewer slot s
  | .ucTrap hewer slot => Sys2Proof.Machine.execUcTrap hewer slot s
  | .bankSwitch fen => Sys2Proof.Machine.execBankSwitch fen s
  | .pendingClear fen => Sys2Proof.Machine.execPendingClear fen s
  | .epochPrepare kind checkOk => Sys2Proof.Machine.execEpochPrepare kind checkOk s
  | .epochApplyAck unit => Sys2Proof.Machine.execEpochApplyAck unit s
  | .epochCommit => Sys2Proof.Machine.execEpochCommit s
  | .detectBurst link => Sys2Proof.Machine.execDetectBurst link s
  | .detectAnswer link => Sys2Proof.Machine.execDetectAnswer link s
  | .trainingStateEnd link fullHandshake => Sys2Proof.Machine.execTrainingStateEnd link fullHandshake s
  | .trainingLimitExpiry link => Sys2Proof.Machine.execTrainingLimitExpiry link s
  | .dataFlit link head => Sys2Proof.Machine.execDataFlit link head s
  | .idleFlit link head => Sys2Proof.Machine.execIdleFlit link head s
  | .replayLimit link => Sys2Proof.Machine.execReplayLimit link s
  | .recalReq link fromMember => Sys2Proof.Machine.execRecalReq link fromMember s
  | .recalGo link => Sys2Proof.Machine.execRecalGo link s
  | .recalWindowEnd link => Sys2Proof.Machine.execRecalWindowEnd link s
  | .recalPeriodTimer link => Sys2Proof.Machine.execRecalPeriodTimer link s
  | .retrain link => Sys2Proof.Machine.execRetrain link s
  | .retrainLimitExpiry link => Sys2Proof.Machine.execRetrainLimitExpiry link s
  | .park link => Sys2Proof.Machine.execPark link s
  | .parkWakeTimer link => Sys2Proof.Machine.execParkWakeTimer link s
  | .lossOfSignal link => Sys2Proof.Machine.execLossOfSignal link s
  | .creditStallTimeout link => Sys2Proof.Machine.execCreditStallTimeout link s
  | .readData link tag cw last => Sys2Proof.Machine.execReadData link tag cw last s
  | .softData link tag cw last => Sys2Proof.Machine.execSoftData link tag cw last s
  | .completion link tag status detail => Sys2Proof.Machine.execCompletion link tag status detail s
  | .telemetry link temps hottest flags => Sys2Proof.Machine.execTelemetry link temps hottest flags s
  | .identData link ident => Sys2Proof.Machine.execIdentData link ident s
  | .calData link tag row => Sys2Proof.Machine.execCalData link tag row s
  | .markData link tag bitmap => Sys2Proof.Machine.execMarkData link tag bitmap s
  | .eventPacket link opc code die => Sys2Proof.Machine.execEventPacket link opc code die s
  | .telemetryTimeout link => Sys2Proof.Machine.execTelemetryTimeout link s
  | .pllGroupUnlock group => Sys2Proof.Machine.execPllGroupUnlock group s
  | .seamRetrainWrite path link => Sys2Proof.Machine.execSeamRetrainWrite path link s
  | .seamEnableWrite path link enable => Sys2Proof.Machine.execSeamEnableWrite path link enable s
  | .mereRead requester addr mirror len flips => Sys2Proof.Machine.execMereRead requester addr mirror len flips s
  | .mereWrite requester addr mirror len data flips => Sys2Proof.Machine.execMereWrite requester addr mirror len data flips s
  | .scrubStep place flips => Sys2Proof.Machine.execScrubStep place flips s
  | .bucketLeak => Sys2Proof.Machine.execBucketLeak s
  | .stackFence stack cause => Sys2Proof.Machine.execStackFence stack cause s
  | .mereFenceWrite path mask => Sys2Proof.Machine.execMereFenceWrite path mask s
  | .remirrorDone stack => Sys2Proof.Machine.execRemirrorDone stack s
  | .scrubEnableTimeout => Sys2Proof.Machine.execScrubEnableTimeout s
  | .sqTailDoorbell ctrl qid value => Sys2Proof.Machine.execSqTailDoorbell ctrl qid value s
  | .cqHeadDoorbell ctrl qid value => Sys2Proof.Machine.execCqHeadDoorbell ctrl qid value s
  | .sqFetch ctrl qid entries => Sys2Proof.Machine.execSqFetch ctrl qid entries s
  | .capsuleArrival ctrl qid entry => Sys2Proof.Machine.execCapsuleArrival ctrl qid entry s
  | .sluiceAdmit slot => Sys2Proof.Machine.execSluiceAdmit slot s
  | .sluiceReadRelease slot link die => Sys2Proof.Machine.execSluiceReadRelease slot link die s
  | .sluicePeriod => Sys2Proof.Machine.execSluicePeriod s
  | .mergeCreditAccrue cls milliHours => Sys2Proof.Machine.execMergeCreditAccrue cls milliHours s
  | .forcedFold => Sys2Proof.Machine.execForcedFold s
  | .completionPost slot => Sys2Proof.Machine.execCompletionPost slot s
  | .cqStallTimer ctrl cqid => Sys2Proof.Machine.execCqStallTimer ctrl cqid s
  | .interruptCoalesceTimer ctrl vector => Sys2Proof.Machine.execInterruptCoalesceTimer ctrl vector s
  | .deleteIoSq slot => Sys2Proof.Machine.execDeleteIoSq slot s
  | .createIoSq slot => Sys2Proof.Machine.execCreateIoSq slot s
  | .getLogPage slot => Sys2Proof.Machine.execGetLogPage slot s
  | .deleteIoCq slot => Sys2Proof.Machine.execDeleteIoCq slot s
  | .createIoCq slot => Sys2Proof.Machine.execCreateIoCq slot s
  | .identify slot => Sys2Proof.Machine.execIdentify slot s
  | .abort slot => Sys2Proof.Machine.execAbort slot s
  | .setFeaturesArbitration slot => Sys2Proof.Machine.execSetFeaturesArbitration slot s
  | .setFeaturesPowerManagement slot => Sys2Proof.Machine.execSetFeaturesPowerManagement slot s
  | .setFeaturesTemperatureThreshold slot => Sys2Proof.Machine.execSetFeaturesTemperatureThreshold slot s
  | .setFeaturesVolatileWriteCache slot => Sys2Proof.Machine.execSetFeaturesVolatileWriteCache slot s
  | .setFeaturesNumberOfQueues slot => Sys2Proof.Machine.execSetFeaturesNumberOfQueues slot s
  | .setFeaturesInterruptCoalescing slot => Sys2Proof.Machine.execSetFeaturesInterruptCoalescing slot s
  | .setFeaturesInterruptVectorConfig slot => Sys2Proof.Machine.execSetFeaturesInterruptVectorConfig slot s
  | .setFeaturesAsyncEventConfig slot => Sys2Proof.Machine.execSetFeaturesAsyncEventConfig slot s
  | .setFeaturesApst slot table => Sys2Proof.Machine.execSetFeaturesApst slot table s
  | .setFeaturesTimestamp slot millis => Sys2Proof.Machine.execSetFeaturesTimestamp slot millis s
  | .setFeaturesKeepAliveTimer slot => Sys2Proof.Machine.execSetFeaturesKeepAliveTimer slot s
  | .setFeaturesHostIdentifier slot hostId => Sys2Proof.Machine.execSetFeaturesHostIdentifier slot hostId s
  | .setFeaturesResvNotificationMask slot => Sys2Proof.Machine.execSetFeaturesResvNotificationMask slot s
  | .setFeaturesResvPersistence slot => Sys2Proof.Machine.execSetFeaturesResvPersistence slot s
  | .getFeatures slot => Sys2Proof.Machine.execGetFeatures slot s
  | .asyncEventRequest slot => Sys2Proof.Machine.execAsyncEventRequest slot s
  | .namespaceCreate slot data => Sys2Proof.Machine.execNamespaceCreate slot data s
  | .namespaceDelete slot => Sys2Proof.Machine.execNamespaceDelete slot s
  | .namespaceAttach slot ctrls => Sys2Proof.Machine.execNamespaceAttach slot ctrls s
  | .namespaceDetach slot ctrls => Sys2Proof.Machine.execNamespaceDetach slot ctrls s
  | .firmwareImageDownload slot piece => Sys2Proof.Machine.execFirmwareImageDownload slot piece s
  | .fwCommitStore slot => Sys2Proof.Machine.execFwCommitStore slot s
  | .fwCommitStorePending slot => Sys2Proof.Machine.execFwCommitStorePending slot s
  | .fwCommitActivateNextReset slot => Sys2Proof.Machine.execFwCommitActivateNextReset slot s
  | .fwCommitActivateNow slot => Sys2Proof.Machine.execFwCommitActivateNow slot s
  | .keepAlive slot => Sys2Proof.Machine.execKeepAlive slot s
  | .formatNvm slot => Sys2Proof.Machine.execFormatNvm slot s
  | .sanitizeCryptoErase slot => Sys2Proof.Machine.execSanitizeCryptoErase slot s
  | .sanitizeExitFailureMode slot => Sys2Proof.Machine.execSanitizeExitFailureMode slot s
  | .getLbaStatus slot => Sys2Proof.Machine.execGetLbaStatus slot s
  | .nvmeFlush slot => Sys2Proof.Machine.execNvmeFlush slot s
  | .nvmeWrite slot data => Sys2Proof.Machine.execNvmeWrite slot data s
  | .nvmeRead slot => Sys2Proof.Machine.execNvmeRead slot s
  | .compare slot data => Sys2Proof.Machine.execCompare slot data s
  | .writeZeroes slot => Sys2Proof.Machine.execWriteZeroes slot s
  | .datasetManagement slot ranges => Sys2Proof.Machine.execDatasetManagement slot ranges s
  | .verify slot => Sys2Proof.Machine.execVerify slot s
  | .reservationRegister slot crkey nrkey => Sys2Proof.Machine.execReservationRegister slot crkey nrkey s
  | .reservationReport slot => Sys2Proof.Machine.execReservationReport slot s
  | .reservationAcquire slot crkey prkey => Sys2Proof.Machine.execReservationAcquire slot crkey prkey s
  | .reservationRelease slot crkey => Sys2Proof.Machine.execReservationRelease slot crkey s
  | .copy slot ranges => Sys2Proof.Machine.execCopy slot ranges s
  | .zoneOpen slot => Sys2Proof.Machine.execZoneOpen slot s
  | .zoneClose slot => Sys2Proof.Machine.execZoneClose slot s
  | .zoneFinish slot => Sys2Proof.Machine.execZoneFinish slot s
  | .zoneReset slot => Sys2Proof.Machine.execZoneReset slot s
  | .zoneManagementReceive slot => Sys2Proof.Machine.execZoneManagementReceive slot s
  | .zoneAppend slot data => Sys2Proof.Machine.execZoneAppend slot data s
  | .ccEnSet ctrl cc aqa => Sys2Proof.Machine.execCcEnSet ctrl cc aqa s
  | .ccEnClear ctrl => Sys2Proof.Machine.execCcEnClear ctrl s
  | .normalShutdown ctrl => Sys2Proof.Machine.execNormalShutdown ctrl s
  | .abruptShutdown ctrl => Sys2Proof.Machine.execAbruptShutdown ctrl s
  | .controllerResetDone ctrl => Sys2Proof.Machine.execControllerResetDone ctrl s
  | .lostCompletionEntryEnd key index endMs => Sys2Proof.Machine.execLostCompletionEntryEnd key index endMs s
  | .lostCompletionExpiry key => Sys2Proof.Machine.execLostCompletionExpiry key s
  | .anaChangeTimeout port => Sys2Proof.Machine.execAnaChangeTimeout port s
  | .apstTimer ctrl => Sys2Proof.Machine.execApstTimer ctrl s
  | .fallowEntryDone => Sys2Proof.Machine.execFallowEntryDone s
  | .fallowExitDone => Sys2Proof.Machine.execFallowExitDone s
  | .activationDrainEnd ms => Sys2Proof.Machine.execActivationDrainEnd ms s
  | .activationDrainTimeout => Sys2Proof.Machine.execActivationDrainTimeout s
  | .activationPauseEnd us => Sys2Proof.Machine.execActivationPauseEnd us s
  | .configRequest link func write reg value enables => Sys2Proof.Machine.execConfigRequest link func write reg value enables s
  | .numvfsWrite link pf value => Sys2Proof.Machine.execNumvfsWrite link pf value s
  | .vfEnable link pf enable => Sys2Proof.Machine.execVfEnable link pf enable s
  | .barMemoryRequest link func bar off len write value => Sys2Proof.Machine.execBarMemoryRequest link func bar off len write value s
  | .expertWindowTlp link pf off nbytes write value => Sys2Proof.Machine.execExpertWindowTlp link pf off nbytes write value s
  | .doeDiscovery link index => Sys2Proof.Machine.execDoeDiscovery link index s
  | .doeAbort link => Sys2Proof.Machine.execDoeAbort link s
  | .getVersion link => Sys2Proof.Machine.execGetVersion link s
  | .getCapabilities link => Sys2Proof.Machine.execGetCapabilities link s
  | .negotiateAlgorithms link => Sys2Proof.Machine.execNegotiateAlgorithms link s
  | .getDigests link => Sys2Proof.Machine.execGetDigests link s
  | .getCertificate link slot off len => Sys2Proof.Machine.execGetCertificate link slot off len s
  | .challenge link slot nonce => Sys2Proof.Machine.execChallenge link slot nonce s
  | .getMeasurements link index => Sys2Proof.Machine.execGetMeasurements link index s
  | .poisonedTlpReceived link func chan => Sys2Proof.Machine.execPoisonedTlpReceived link func chan s
  | .completionTimeout link func chan => Sys2Proof.Machine.execCompletionTimeout link func chan s
  | .unexpectedCompletion link func => Sys2Proof.Machine.execUnexpectedCompletion link func s
  | .ecrcError link func chan => Sys2Proof.Machine.execEcrcError link func chan s
  | .linkProtocolError link func => Sys2Proof.Machine.execLinkProtocolError link func s
  | .functionLevelReset link func => Sys2Proof.Machine.execFunctionLevelReset link func s
  | .perstAssert port => Sys2Proof.Machine.execPerstAssert port s
  | .pcieLinkUp link width speed flit => Sys2Proof.Machine.execPcieLinkUp link width speed flit s
  | .pcieLinkDown link => Sys2Proof.Machine.execPcieLinkDown link s
  | .busMasterEnableClear link func => Sys2Proof.Machine.execBusMasterEnableClear link func s
  | .d3hotEntry link func => Sys2Proof.Machine.execD3hotEntry link func s
  | .ethPortUp lp => Sys2Proof.Machine.execEthPortUp lp s
  | .ethPortDown lp => Sys2Proof.Machine.execEthPortDown lp s
  | .linkHoldExpiry lp => Sys2Proof.Machine.execLinkHoldExpiry lp s
  | .ethernetFrameReceive lp frame => Sys2Proof.Machine.execEthernetFrameReceive lp frame s
  | .arpRequest lp addr => Sys2Proof.Machine.execArpRequest lp addr s
  | .neighborDiscovery lp addr => Sys2Proof.Machine.execNeighborDiscovery lp addr s
  | .icmpEcho lp addr ident => Sys2Proof.Machine.execIcmpEcho lp addr ident s
  | .pfcFrame lp enables times => Sys2Proof.Machine.execPfcFrame lp enables times s
  | .pauseStormDetect lp prio => Sys2Proof.Machine.execPauseStormDetect lp prio s
  | .pauseStormEnd lp => Sys2Proof.Machine.execPauseStormEnd lp s
  | .ceMarkedPacket qp gapUs => Sys2Proof.Machine.execCeMarkedPacket qp gapUs s
  | .cnp qp sinceCutUs => Sys2Proof.Machine.execCnp qp sinceCutUs s
  | .ecnRiseTimer qp => Sys2Proof.Machine.execEcnRiseTimer qp s
  | .rdmaSend qp invalidate => Sys2Proof.Machine.execRdmaSend qp invalidate s
  | .rdmaRead qp response len => Sys2Proof.Machine.execRdmaRead qp response len s
  | .rdmaWrite qp len => Sys2Proof.Machine.execRdmaWrite qp len s
  | .qpAckTimeout qp => Sys2Proof.Machine.execQpAckTimeout qp s
  | .cmReq lp req => Sys2Proof.Machine.execCmReq lp req s
  | .cmRtu qp => Sys2Proof.Machine.execCmRtu qp s
  | .connect qp req => Sys2Proof.Machine.execConnect qp req s
  | .propertyGet ctrl off size8 => Sys2Proof.Machine.execPropertyGet ctrl off size8 s
  | .propertySet ctrl off size8 value => Sys2Proof.Machine.execPropertySet ctrl off size8 value s
  | .disconnect ctrl qid => Sys2Proof.Machine.execDisconnect ctrl qid s
  | .authenticationSend ctrl msg => Sys2Proof.Machine.execAuthenticationSend ctrl msg s
  | .authenticationReceive ctrl len => Sys2Proof.Machine.execAuthenticationReceive ctrl len s
  | .keepAliveTimeout ctrl => Sys2Proof.Machine.execKeepAliveTimeout ctrl s
  | .addressCommit path => Sys2Proof.Machine.execAddressCommit path s
  | .hello lp msg => Sys2Proof.Machine.execHello lp msg s
  | .helloAck lp msg chosen => Sys2Proof.Machine.execHelloAck lp msg chosen s
  | .discover lp serial versions => Sys2Proof.Machine.execDiscover lp serial versions s
  | .discoverTimer => Sys2Proof.Machine.execDiscoverTimer s
  | .heartbeat head bytes => Sys2Proof.Machine.execHeartbeat head bytes s
  | .heartbeatTimer => Sys2Proof.Machine.execHeartbeatTimer s
  | .peerDownTimeout peer => Sys2Proof.Machine.execPeerDownTimeout peer s
  | .helloRetryTimer peer => Sys2Proof.Machine.execHelloRetryTimer peer s
  | .causewayRetransmitTimeout peer stream => Sys2Proof.Machine.execCausewayRetransmitTimeout peer stream s
  | .causewayProgressTimeout peer stream => Sys2Proof.Machine.execCausewayProgressTimeout peer stream s
  | .ackOnly head => Sys2Proof.Machine.execAckOnly head s
  | .chainData head off total len body => Sys2Proof.Machine.execChainData head off total len body s
  | .chainReport head reports all => Sys2Proof.Machine.execChainReport head reports all s
  | .chainDownstreamTimeout => Sys2Proof.Machine.execChainDownstreamTimeout s
  | .migOpen head msg => Sys2Proof.Machine.execMigOpen head msg s
  | .migUnits head mig tract units => Sys2Proof.Machine.execMigUnits head mig tract units s
  | .migNak head mig nsUnit => Sys2Proof.Machine.execMigNak head mig nsUnit s
  | .migTractEnd head mig tract sent => Sys2Proof.Machine.execMigTractEnd head mig tract sent s
  | .migDone head mig sent lost wseq => Sys2Proof.Machine.execMigDone head mig sent lost wseq s
  | .migAbort head mig reason => Sys2Proof.Machine.execMigAbort head mig reason s
  | .migrationPassEnd mig => Sys2Proof.Machine.execMigrationPassEnd mig s
  | .cipherSeal ring slot => Sys2Proof.Machine.execCipherSeal ring slot s
  | .cipherOpen ring slot => Sys2Proof.Machine.execCipherOpen ring slot s
  | .cipherVerify ring slot => Sys2Proof.Machine.execCipherVerify ring slot s
  | .cipRingTailWrite path ring tail => Sys2Proof.Machine.execCipRingTailWrite path ring tail s
  | .slotDrainDone key => Sys2Proof.Machine.execSlotDrainDone key s
  | .drbgReseedRetry pass => Sys2Proof.Machine.execDrbgReseedRetry pass s
  | .drbgWaitTimeout slot => Sys2Proof.Machine.execDrbgWaitTimeout slot s
  | .dmaRingTailWrite path chan tail => Sys2Proof.Machine.execDmaRingTailWrite path chan tail s
  | .hostToMere chan data => Sys2Proof.Machine.execHostToMere chan data s
  | .mereToHost chan => Sys2Proof.Machine.execMereToHost chan s
  | .dmaCopy chan => Sys2Proof.Machine.execDmaCopy chan s
  | .dmaTimerTick timer => Sys2Proof.Machine.execDmaTimerTick timer s
  | .dmaBusError chan err => Sys2Proof.Machine.execDmaBusError chan err s
  | .dmaRetryWait chan ok => Sys2Proof.Machine.execDmaRetryWait chan ok s
  | .dmaResume path chan => Sys2Proof.Machine.execDmaResume path chan s
  | .dmaSkip path chan => Sys2Proof.Machine.execDmaSkip path chan s
  | .dmaReset path chan => Sys2Proof.Machine.execDmaReset path chan s
  | .mailboxPush path chan word => Sys2Proof.Machine.execMailboxPush path chan word s
  | .mailboxPop path chan => Sys2Proof.Machine.execMailboxPop path chan s
  | .pairCheckerMismatch pair => Sys2Proof.Machine.execPairCheckerMismatch pair s
  | .pairWatchdogTimeout pair => Sys2Proof.Machine.execPairWatchdogTimeout pair s
  | .pairMemoryError pair => Sys2Proof.Machine.execPairMemoryError pair s
  | .pairTakeover lost => Sys2Proof.Machine.execPairTakeover lost s
  | .pairTestInject path pair => Sys2Proof.Machine.execPairTestInject path pair s
  | .pairWake pair => Sys2Proof.Machine.execPairWake pair s
  | .peatEventRecord code source arg aux => Sys2Proof.Machine.execPeatEventRecord code source arg aux s
  | .peatTokenRefill code elapsedUs => Sys2Proof.Machine.execPeatTokenRefill code elapsedUs s
  | .peatGapRecord => Sys2Proof.Machine.execPeatGapRecord s
  | .peatArchiveRow ok => Sys2Proof.Machine.execPeatArchiveRow ok s
  | .peatMaxAgeTimeout => Sys2Proof.Machine.execPeatMaxAgeTimeout s
  | .peatNow path => Sys2Proof.Machine.execPeatNow path s
  | .peatSegmentFull => Sys2Proof.Machine.execPeatSegmentFull s
  | .peatRlWrite path value => Sys2Proof.Machine.execPeatRlWrite path value s
  | .pfailInputFall input gapUs => Sys2Proof.Machine.execPfailInputFall input gapUs s
  | .powerFailDecision input both => Sys2Proof.Machine.execPowerFailDecision input both s
  | .pfailAgreeTimeout => Sys2Proof.Machine.execPfailAgreeTimeout s
  | .flushEnd us => Sys2Proof.Machine.execFlushEnd us s
  | .flushLimitExpiry units records => Sys2Proof.Machine.execFlushLimitExpiry units records s
  | .pfailRestartTimer => Sys2Proof.Machine.execPfailRestartTimer s
  | .holdupTestDue => Sys2Proof.Machine.execHoldupTestDue s
  | .htArm path => Sys2Proof.Machine.execHtArm path s
  | .htCancel path => Sys2Proof.Machine.execHtCancel path s
  | .htReady => Sys2Proof.Machine.execHtReady s
  | .htRideStart input => Sys2Proof.Machine.execHtRideStart input s
  | .htRidePass energyMj => Sys2Proof.Machine.execHtRidePass energyMj s
  | .htRideMark => Sys2Proof.Machine.execHtRideMark s
  | .htInputsRise => Sys2Proof.Machine.execHtInputsRise s
  | .htReadyTimeout => Sys2Proof.Machine.execHtReadyTimeout s
  | .htOverdue => Sys2Proof.Machine.execHtOverdue s
  | .sealSample a b => Sys2Proof.Machine.execSealSample a b s
  | .sealClear path => Sys2Proof.Machine.execSealClear path s
  | .sealSoft path engage => Sys2Proof.Machine.execSealSoft path engage s
  | .firmwareTryTimeout => Sys2Proof.Machine.execFirmwareTryTimeout s
  | .sessionResponseWrite word => Sys2Proof.Machine.execSessionResponseWrite word s
  | .custodianNonceTimer => Sys2Proof.Machine.execCustodianNonceTimer s
  | .sessionLockoutEnd => Sys2Proof.Machine.execSessionLockoutEnd s
  | .sessionIdleTimeout => Sys2Proof.Machine.execSessionIdleTimeout s
  | .sessionClose => Sys2Proof.Machine.execSessionClose s
  | .windowRead => Sys2Proof.Machine.execWindowRead s
  | .windowWrite => Sys2Proof.Machine.execWindowWrite s
  | .lifeRead => Sys2Proof.Machine.execLifeRead s
  | .lifeSetUtc => Sys2Proof.Machine.execLifeSetUtc s
  | .sealTask => Sys2Proof.Machine.execSealTask s
  | .escrowImport mediaOk => Sys2Proof.Machine.execEscrowImport mediaOk s
  | .escrowExport => Sys2Proof.Machine.execEscrowExport s
  | .memberRetire => Sys2Proof.Machine.execMemberRetire s
  | .memberHotadd cal good => Sys2Proof.Machine.execMemberHotadd cal good s
  | .drainDone link => Sys2Proof.Machine.execDrainDone link s
  | .peatExport => Sys2Proof.Machine.execPeatExport s
  | .manifest => Sys2Proof.Machine.execManifest s
  | .imageWrite piece => Sys2Proof.Machine.execImageWrite piece s
  | .twimaPromote => Sys2Proof.Machine.execTwimaPromote s
  | .fwCommitTask => Sys2Proof.Machine.execFwCommitTask s
  | .retireOld => Sys2Proof.Machine.execRetireOld s
  | .peerSet flashOk => Sys2Proof.Machine.execPeerSet flashOk s
  | .chainStart => Sys2Proof.Machine.execChainStart s
  | .migExport => Sys2Proof.Machine.execMigExport s
  | .migImport => Sys2Proof.Machine.execMigImport s
  | .migFreeze => Sys2Proof.Machine.execMigFreeze s
  | .deviceReset => Sys2Proof.Machine.execDeviceReset s
  | .bootResetWrite path value => Sys2Proof.Machine.execBootResetWrite path value s
  | .deviceResetSequence => Sys2Proof.Machine.execDeviceResetSequence s
  | .powerOnReset offSec vbatLost board => Sys2Proof.Machine.execPowerOnReset offSec vbatLost board s
  | .railOutOfRange rail => Sys2Proof.Machine.execRailOutOfRange rail s
  | .bootStepEnd facts => Sys2Proof.Machine.execBootStepEnd facts s
  | .bootStepFailure cause => Sys2Proof.Machine.execBootStepFailure cause s
  | .refclkCheck clock ok => Sys2Proof.Machine.execRefclkCheck clock ok s
  | .sysPllUnlock pll => Sys2Proof.Machine.execSysPllUnlock pll s
  | .crystalStop => Sys2Proof.Machine.execCrystalStop s
  | .calendarTick => Sys2Proof.Machine.execCalendarTick s
  | .junctionSample temps => Sys2Proof.Machine.execJunctionSample temps s
  | .thermalHoldEntry => Sys2Proof.Machine.execThermalHoldEntry s
  | .smbusReadByte cmd => Sys2Proof.Machine.execSmbusReadByte cmd s
  | .smbusWrite cmd => Sys2Proof.Machine.execSmbusWrite cmd s
  | .pllGroupRelock group => Sys2Proof.Machine.execPllGroupRelock group s
  | .pfailInputRise input => Sys2Proof.Machine.execPfailInputRise input s
  | .crystalRestart => Sys2Proof.Machine.execCrystalRestart s
  | .jtagTapReset => Sys2Proof.Machine.execJtagTapReset s
  | .pcieLinkRetrain link width speed => Sys2Proof.Machine.execPcieLinkRetrain link width speed s
  | .rdmaTransportAck slot => Sys2Proof.Machine.execRdmaTransportAck slot s
  | .hostConnectionClose ctrl => Sys2Proof.Machine.execHostConnectionClose ctrl s
  | .ovf24hAgeOut stack => Sys2Proof.Machine.execOvf24hAgeOut stack s

end Sys2Proof.Machine
end

