-- ==== Sys2Proof/Safety.lean ====
section
/-! DEFINITION. Safe runs, in the terms the statements use: a run of commands that neither faults nor is refused. -/

namespace Sys2Proof.Machine

open Sys2Proof

/-- A command on a state answers a next state. -/
def Completes (i : Instr) (s : State) : Prop := ∃ t, exec i s = .next t

/-- A command answers a next state of which P holds. -/
def Answers (i : Instr) (s : State) (P : State → Prop) : Prop := ∃ t, exec i s = .next t ∧ P t

/-- The MiB of the register window that a field instance lies in: bits 29..20 of its offset (R19). -/
def Field.mib (f : Field) (i : Nat) : Nat := f.key i / 8388608

/-- Two register stores agree outside given MiB of the window. -/
def SameOutside (ms : List Nat) (r t : Tab Nat) : Prop := ∀ k, k / 8388608 ∉ ms → t.find k = r.find k

/-- Two register stores agree but for given fields, each named with its instance. -/
def SameBut (fs : List (Field × Nat)) (r t : Tab Nat) : Prop := ∀ k, k ∉ fs.map (fun e => e.1.key e.2) → t.find k = r.find k

/-- The parts of the state, one for each field of State. -/
inductive Part where
    | pending | regs | free | readData | out | glb | peat | cfg | life | ret | map | fen | ldpc | hew | ucs | seam | mere |
  nvq | slu | hif | fab | cwy | cip | dma | mbx | pwr | sea | upd | cus | clk | boot | tmon
  deriving DecidableEq, Repr

/-- From s to t no part of the state changes but those listed. -/
structure Touches (ps : List Part) (s t : State) : Prop where
  pending : Part.pending ∉ ps → t.pending = s.pending
  regs : Part.regs ∉ ps → t.regs = s.regs
  free : Part.free ∉ ps → t.free = s.free
  readData : Part.readData ∉ ps → t.readData = s.readData
  out : Part.out ∉ ps → t.out = s.out
  glb : Part.glb ∉ ps → t.glb = s.glb
  peat : Part.peat ∉ ps → t.peat = s.peat
  cfg : Part.cfg ∉ ps → t.cfg = s.cfg
  life : Part.life ∉ ps → t.life = s.life
  ret : Part.ret ∉ ps → t.ret = s.ret
  map : Part.map ∉ ps → t.map = s.map
  fen : Part.fen ∉ ps → t.fen = s.fen
  ldpc : Part.ldpc ∉ ps → t.ldpc = s.ldpc
  hew : Part.hew ∉ ps → t.hew = s.hew
  ucs : Part.ucs ∉ ps → t.ucs = s.ucs
  seam : Part.seam ∉ ps → t.seam = s.seam
  mere : Part.mere ∉ ps → t.mere = s.mere
  nvq : Part.nvq ∉ ps → t.nvq = s.nvq
  slu : Part.slu ∉ ps → t.slu = s.slu
  hif : Part.hif ∉ ps → t.hif = s.hif
  fab : Part.fab ∉ ps → t.fab = s.fab
  cwy : Part.cwy ∉ ps → t.cwy = s.cwy
  cip : Part.cip ∉ ps → t.cip = s.cip
  dma : Part.dma ∉ ps → t.dma = s.dma
  mbx : Part.mbx ∉ ps → t.mbx = s.mbx
  pwr : Part.pwr ∉ ps → t.pwr = s.pwr
  sea : Part.sea ∉ ps → t.sea = s.sea
  upd : Part.upd ∉ ps → t.upd = s.upd
  cus : Part.cus ∉ ps → t.cus = s.cus
  clk : Part.clk ∉ ps → t.clk = s.clk
  boot : Part.boot ∉ ps → t.boot = s.boot
  tmon : Part.tmon ∉ ps → t.tmon = s.tmon

/-- The parts of the state that a command may change: the registers and records of the blocks that its rules name, the outputs, and the
count of free values. -/
def partsOf (i : Instr) : List Part :=
  match i with
  | .registerWrite .. => [.regs, .free, .readData, .out, .glb, .peat, .cfg, .life, .ret, .map, .fen, .ldpc, .hew, .ucs, .seam, .mere, .nvq, .slu, .hif, .fab, .cwy, .cip, .dma, .mbx, .pwr, .sea, .upd, .cus, .clk, .boot, .tmon]
  | .rcRead .. => [.regs, .free, .readData, .out, .peat, .cfg, .life, .slu, .mbx, .cus]
  | .latchingRead .. => [.regs, .free, .readData, .out, .peat, .cfg, .life, .slu, .mbx, .cus]
  | .expertKeyWrite .. => [.regs, .free, .out, .peat, .cfg]
  | .expertNonceTimer .. => [.free, .out, .cfg]
  | .expertIdleTimeout .. => [.out, .cfg]
  | .expertLockoutEnd .. => [.out, .cfg]
  | .expertClose .. => [.out, .cfg]
  | .lotReapplyStart .. => [.regs, .free, .out, .peat, .cfg, .nvq, .pwr]
  | .lotCommit => [.regs, .free, .out, .peat, .cfg, .ucs, .nvq, .slu, .hif, .cus, .boot]
  | .powerReapplyTimeout => [.regs, .free, .out, .peat, .cfg, .nvq]
  | .memberLinkDrop .. => [.regs, .free, .out, .glb, .peat, .ret, .map, .fen, .ldpc, .hew, .seam, .mere, .nvq, .slu]
  | .memberWaitExpiry .. => [.regs, .free, .out, .glb, .peat, .ret, .map, .fen, .ldpc, .hew, .seam, .mere, .nvq, .slu]
  | .memberReturn .. => [.regs, .free, .out, .glb, .peat, .ret, .map, .fen, .hew, .seam, .mere, .nvq, .slu]
  | .idleKnownAnswerTest .. => [.regs, .free, .out, .glb, .peat, .ret, .ldpc, .nvq]
  | .sumpRowProgram .. => [.regs, .free, .out, .ret, .map, .mere, .nvq]
  | .rowIdleTimeout .. => [.out, .map]
  | .foldStart .. => [.regs, .free, .out, .ret, .map, .mere, .nvq]
  | .foldDone .. => [.regs, .free, .out, .ret, .map, .mere, .nvq]
  | .mergeStart .. => [.regs, .free, .out, .ret, .map, .nvq, .slu]
  | .mergeCommit .. => [.regs, .free, .out, .ret, .map, .fen, .mere, .nvq, .slu]
  | .refreshCopyStart .. => [.regs, .free, .out, .ret, .map, .nvq, .slu]
  | .refreshCopyCommit .. => [.regs, .free, .out, .ret, .map, .fen, .mere, .nvq]
  | .blockBackgroundErase .. => [.regs, .out, .glb, .map, .fen, .mere, .nvq]
  | .journalRowProgram .. => [.regs, .free, .out, .map, .mere, .nvq]
  | .journalRowTimeout => [.regs, .free, .out, .map, .mere, .nvq]
  | .checkpointTimer => [.regs, .out, .map]
  | .checkpointNow .. => [.regs, .out, .map]
  | .checkpointMarkDurable => [.regs, .free, .out, .ret, .map, .mere, .nvq]
  | .stripeIdReuseDelay .. => [.out, .map]
  | .benchEvaluate => [.regs, .free, .out, .glb, .peat, .fen, .seam, .nvq]
  | .bench5ExitTimer .. => [.regs, .out, .glb, .fen]
  | .rebuildJobStart .. => [.regs, .out, .glb, .ret, .map, .fen, .nvq]
  | .rebuildJobDone .. => [.regs, .free, .out, .glb, .peat, .ret, .map, .fen, .seam, .mere, .nvq]
  | .refreshInPlace .. => [.regs, .out, .glb, .ret, .map, .fen, .mere, .nvq]
  | .rebuildCtlWrite .. => [.regs, .free, .out, .peat, .fen]
  | .rebuildHoldTimeout => [.regs, .out, .fen]
  | .thermalTick => [.out, .ret]
  | .thermalSave => [.out, .life, .ret]
  | .samplerRead .. => [.regs, .free, .out, .glb, .peat, .ret, .map, .mere, .nvq]
  | .stripeEvaluate .. => [.regs, .free, .out, .ret, .map, .fen, .mere, .nvq]
  | .witnessReprogram .. => [.out, .ret, .map]
  | .dredgeStart .. => [.regs, .out, .glb, .ret, .fen, .nvq]
  | .dredgeAbort .. => [.regs, .out, .glb, .ret, .fen, .nvq]
  | .dredgeStripeCheck .. => [.regs, .free, .out, .peat, .ret, .map, .nvq]
  | .dredgeCursorTimer .. => [.out, .ret]
  | .dredgePassEnd .. => [.regs, .out, .glb, .ret, .fen, .nvq]
  | .decodeDone .. => [.regs, .free, .out, .glb, .peat, .ret, .map, .fen, .ldpc, .mere, .nvq]
  | .raceTimeout .. => [.out, .ldpc]
  | .learnedVectorExpiry .. => [.out, .ldpc]
  | .encoderCheckFail .. => [.regs, .free, .out, .glb, .peat, .map, .fen, .ldpc, .nvq]
  | .encoderKatTimer .. => [.regs, .out, .glb, .fen, .ldpc, .nvq]
  | .hewRingTailWrite .. => [.regs, .out]
  | .descriptorFetch .. => [.regs, .free, .out, .glb, .peat, .ret, .map, .fen, .hew, .seam, .mere, .nvq, .slu]
  | .hewRead .. => [.regs, .free, .out, .glb, .peat, .ret, .map, .fen, .hew, .ucs, .seam, .mere, .nvq, .slu]
  | .hewReadOfs .. => [.regs, .free, .out, .glb, .peat, .ret, .map, .fen, .hew, .ucs, .seam, .mere, .nvq, .slu]
  | .hewSoftSense .. => [.regs, .free, .out, .glb, .peat, .ret, .map, .fen, .hew, .ucs, .seam, .mere, .nvq, .slu]
  | .hewProgram .. => [.regs, .free, .out, .glb, .peat, .ret, .map, .fen, .hew, .ucs, .seam, .mere, .nvq, .slu]
  | .hewErase .. => [.regs, .free, .out, .glb, .peat, .ret, .map, .fen, .hew, .ucs, .seam, .mere, .nvq, .slu]
  | .hewCalread .. => [.regs, .free, .out, .glb, .peat, .ret, .map, .fen, .hew, .ucs, .seam, .mere, .nvq, .slu]
  | .hewMarkread .. => [.regs, .free, .out, .glb, .peat, .ret, .map, .fen, .hew, .ucs, .seam, .mere, .nvq, .slu]
  | .hewFence .. => [.regs, .free, .out, .glb, .peat, .ret, .map, .fen, .hew, .seam, .mere, .nvq, .slu]
  | .dieOperationStart .. => [.regs, .out, .hew, .ucs]
  | .descriptorComplete .. => [.regs, .free, .out, .glb, .peat, .ret, .map, .fen, .hew, .seam, .mere, .nvq, .slu]
  | .hewOperationTimeout .. => [.regs, .free, .out, .glb, .peat, .ret, .map, .fen, .hew, .seam, .mere, .nvq, .slu]
  | .suspend .. => [.regs, .out, .hew, .slu]
  | .resumeOp .. => [.regs, .out, .hew]
  | .pfQuietDeadline => [.regs, .free, .out, .glb, .peat, .ret, .map, .fen, .hew, .seam, .mere, .nvq, .slu]
  | .ucNop .. => [.regs, .free, .out, .glb, .peat, .ret, .map, .fen, .hew, .ucs, .seam, .mere, .nvq, .slu]
  | .ucLdi .. => [.regs, .free, .out, .glb, .peat, .ret, .map, .fen, .hew, .ucs, .seam, .mere, .nvq, .slu]
  | .ucMov .. => [.regs, .free, .out, .glb, .peat, .ret, .map, .fen, .hew, .ucs, .seam, .mere, .nvq, .slu]
  | .ucAddi .. => [.regs, .free, .out, .glb, .peat, .ret, .map, .fen, .hew, .ucs, .seam, .mere, .nvq, .slu]
  | .ucAndi .. => [.regs, .free, .out, .glb, .peat, .ret, .map, .fen, .hew, .ucs, .seam, .mere, .nvq, .slu]
  | .ucOri .. => [.regs, .free, .out, .glb, .peat, .ret, .map, .fen, .hew, .ucs, .seam, .mere, .nvq, .slu]
  | .ucShl .. => [.regs, .free, .out, .glb, .peat, .ret, .map, .fen, .hew, .ucs, .seam, .mere, .nvq, .slu]
  | .ucShr .. => [.regs, .free, .out, .glb, .peat, .ret, .map, .fen, .hew, .ucs, .seam, .mere, .nvq, .slu]
  | .ucCmp .. => [.regs, .free, .out, .glb, .peat, .ret, .map, .fen, .hew, .ucs, .seam, .mere, .nvq, .slu]
  | .ucJmp .. => [.regs, .free, .out, .glb, .peat, .ret, .map, .fen, .hew, .ucs, .seam, .mere, .nvq, .slu]
  | .ucBr .. => [.regs, .free, .out, .glb, .peat, .ret, .map, .fen, .hew, .ucs, .seam, .mere, .nvq, .slu]
  | .ucCall .. => [.regs, .free, .out, .glb, .peat, .ret, .map, .fen, .hew, .ucs, .seam, .mere, .nvq, .slu]
  | .ucRet .. => [.regs, .free, .out, .glb, .peat, .ret, .map, .fen, .hew, .ucs, .seam, .mere, .nvq, .slu]
  | .ucSend .. => [.regs, .free, .out, .glb, .peat, .ret, .map, .fen, .hew, .ucs, .seam, .mere, .nvq, .slu]
  | .ucWaitc .. => [.regs, .free, .out, .glb, .peat, .ret, .map, .fen, .hew, .ucs, .seam, .mere, .nvq, .slu]
  | .ucXfer .. => [.regs, .free, .out, .glb, .peat, .ret, .map, .fen, .hew, .ucs, .seam, .mere, .nvq, .slu]
  | .ucSuspt .. => [.regs, .free, .out, .glb, .peat, .ret, .map, .fen, .hew, .ucs, .seam, .mere, .nvq, .slu]
  | .ucTimer .. => [.regs, .free, .out, .glb, .peat, .ret, .map, .fen, .hew, .ucs, .seam, .mere, .nvq, .slu]
  | .ucDone .. => [.regs, .free, .out, .glb, .peat, .ret, .map, .fen, .hew, .ucs, .seam, .mere, .nvq, .slu]
  | .ucTrap .. => [.regs, .free, .out, .glb, .peat, .ret, .map, .fen, .hew, .ucs, .seam, .mere, .nvq, .slu]
  | .bankSwitch .. => [.regs, .out, .ucs]
  | .pendingClear .. => [.regs, .free, .out, .peat, .cfg, .ucs, .nvq]
  | .epochPrepare .. => [.regs, .free, .out, .peat, .cfg, .ldpc, .ucs, .nvq, .sea]
  | .epochApplyAck .. => [.regs, .out, .ucs]
  | .epochCommit => [.regs, .free, .out, .peat, .ldpc, .ucs, .sea]
  | .detectBurst .. => [.out]
  | .detectAnswer .. => [.regs, .out]
  | .trainingStateEnd .. => [.regs, .free, .out, .glb, .peat, .ret, .map, .fen, .ldpc, .hew, .seam, .mere, .nvq, .slu]
  | .trainingLimitExpiry .. => [.regs, .free, .out, .glb, .peat, .ret, .map, .fen, .seam, .nvq]
  | .dataFlit .. => [.regs, .out, .seam]
  | .idleFlit .. => [.regs, .out, .seam]
  | .replayLimit .. => [.regs, .out, .seam]
  | .recalReq .. => [.regs, .free, .out, .seam]
  | .recalGo .. => [.regs, .out, .seam]
  | .recalWindowEnd .. => [.regs, .out, .seam]
  | .recalPeriodTimer .. => [.out, .seam]
  | .retrain .. => [.regs, .out, .seam]
  | .retrainLimitExpiry .. => [.regs, .free, .out, .glb, .peat, .ret, .map, .fen, .ldpc, .hew, .seam, .mere, .nvq, .slu]
  | .park .. => [.regs, .out, .seam]
  | .parkWakeTimer .. => [.regs, .out, .seam]
  | .lossOfSignal .. => [.regs, .free, .out, .glb, .peat, .ret, .map, .fen, .ldpc, .hew, .seam, .mere, .nvq, .slu]
  | .creditStallTimeout .. => [.regs, .out, .seam]
  | .readData .. => [.free, .out, .ldpc, .hew, .seam]
  | .softData .. => [.free, .out, .ldpc, .hew, .seam]
  | .completion .. => [.regs, .free, .out, .peat, .ldpc, .hew, .seam]
  | .telemetry .. => [.regs, .out, .seam]
  | .identData .. => [.regs, .free, .out, .glb, .peat, .ret, .map, .fen, .ldpc, .hew, .seam, .mere, .nvq, .slu]
  | .calData .. => [.regs, .free, .out, .peat, .ret, .hew, .seam]
  | .markData .. => [.out, .map, .hew, .seam, .mere]
  | .eventPacket .. => [.regs, .free, .out, .glb, .peat, .ret, .map, .fen, .seam, .mere, .nvq]
  | .telemetryTimeout .. => [.regs, .free, .out, .peat, .seam]
  | .pllGroupUnlock .. => [.regs, .free, .out, .glb, .peat, .ret, .seam, .nvq]
  | .seamRetrainWrite .. => [.regs, .out, .seam]
  | .seamEnableWrite .. => [.regs, .free, .out, .glb, .peat, .ret, .map, .fen, .ldpc, .hew, .seam, .mere, .nvq, .slu]
  | .mereRead .. => [.regs, .free, .out, .glb, .peat, .ret, .map, .mere, .nvq]
  | .mereWrite .. => [.regs, .free, .out, .glb, .peat, .ret, .map, .mere, .nvq]
  | .scrubStep .. => [.regs, .free, .out, .glb, .peat, .ret, .map, .ucs, .mere, .nvq]
  | .bucketLeak => [.regs, .out, .mere]
  | .stackFence .. => [.regs, .free, .out, .glb, .peat, .ret, .map, .mere, .nvq]
  | .mereFenceWrite .. => [.regs, .free, .out, .glb, .peat, .ret, .map, .mere, .nvq]
  | .remirrorDone .. => [.regs, .free, .out, .glb, .peat, .map, .mere]
  | .scrubEnableTimeout => [.regs, .out]
  | .sqTailDoorbell .. => [.regs, .out, .nvq]
  | .cqHeadDoorbell .. => [.regs, .out, .nvq]
  | .sqFetch .. => [.regs, .out, .ret, .nvq]
  | .capsuleArrival .. => [.regs, .out, .ret, .nvq]
  | .sluiceAdmit .. => [.regs, .out, .nvq]
  | .sluiceReadRelease .. => [.regs, .out, .slu]
  | .sluicePeriod => [.regs, .free, .out, .ret, .map, .fen, .nvq, .slu]
  | .mergeCreditAccrue .. => [.out, .slu]
  | .forcedFold => [.regs, .free, .out, .ret, .map, .mere, .nvq]
  | .completionPost .. => [.regs, .out, .ret, .nvq, .slu]
  | .cqStallTimer .. => [.regs, .out]
  | .interruptCoalesceTimer .. => [.out, .nvq]
  | .deleteIoSq .. => [.out, .nvq]
  | .createIoSq .. => [.out, .nvq]
  | .getLogPage .. => [.out, .nvq]
  | .deleteIoCq .. => [.out, .nvq]
  | .createIoCq .. => [.out, .nvq]
  | .identify .. => [.out, .nvq]
  | .abort .. => [.out, .nvq]
  | .setFeaturesArbitration .. => [.out, .nvq]
  | .setFeaturesPowerManagement .. => [.out, .nvq]
  | .setFeaturesTemperatureThreshold .. => [.out, .nvq]
  | .setFeaturesVolatileWriteCache .. => [.out, .nvq]
  | .setFeaturesNumberOfQueues .. => [.out, .nvq]
  | .setFeaturesInterruptCoalescing .. => [.out, .nvq]
  | .setFeaturesInterruptVectorConfig .. => [.out, .nvq]
  | .setFeaturesAsyncEventConfig .. => [.out, .nvq]
  | .setFeaturesApst .. => [.out, .nvq]
  | .setFeaturesTimestamp .. => [.out, .life, .nvq]
  | .setFeaturesKeepAliveTimer .. => [.out, .nvq]
  | .setFeaturesHostIdentifier .. => [.out, .nvq]
  | .setFeaturesResvNotificationMask .. => [.out, .nvq]
  | .setFeaturesResvPersistence .. => [.out, .nvq]
  | .getFeatures .. => [.out, .nvq]
  | .asyncEventRequest .. => [.out, .nvq]
  | .namespaceCreate .. => [.free, .out, .cfg, .map, .nvq, .cip]
  | .namespaceDelete .. => [.regs, .out, .glb, .ret, .map, .fen, .mere, .nvq, .slu, .cip]
  | .namespaceAttach .. => [.out, .nvq]
  | .namespaceDetach .. => [.out, .nvq]
  | .firmwareImageDownload .. => [.regs, .out, .cfg, .nvq, .upd]
  | .fwCommitStore .. => [.regs, .free, .out, .peat, .cfg, .nvq, .upd, .cus]
  | .fwCommitStorePending .. => [.regs, .free, .out, .peat, .cfg, .nvq, .upd, .cus]
  | .fwCommitActivateNextReset .. => [.regs, .free, .out, .peat, .cfg, .nvq, .upd, .cus]
  | .fwCommitActivateNow .. => [.regs, .free, .out, .peat, .cfg, .nvq, .upd, .cus]
  | .keepAlive .. => [.out, .nvq]
  | .formatNvm .. => [.regs, .out, .ret, .map, .fen, .mere, .nvq, .slu, .cip]
  | .sanitizeCryptoErase .. => [.regs, .out, .ret, .map, .fen, .mere, .nvq, .slu, .cip]
  | .sanitizeExitFailureMode .. => [.out, .nvq]
  | .getLbaStatus .. => [.out, .nvq]
  | .nvmeFlush .. => [.out, .nvq]
  | .nvmeWrite .. => [.regs, .free, .out, .ret, .map, .mere, .nvq, .cwy]
  | .nvmeRead .. => [.free, .out, .ret, .map, .mere, .nvq]
  | .compare .. => [.out, .ret, .nvq]
  | .writeZeroes .. => [.regs, .free, .out, .ret, .map, .fen, .mere, .nvq, .slu, .cwy]
  | .datasetManagement .. => [.regs, .free, .out, .ret, .map, .fen, .mere, .nvq, .slu, .cwy]
  | .verify .. => [.regs, .free, .out, .ret, .map, .nvq]
  | .reservationRegister .. => [.regs, .out, .nvq]
  | .reservationReport .. => [.out, .nvq]
  | .reservationAcquire .. => [.out, .nvq]
  | .reservationRelease .. => [.out, .nvq]
  | .copy .. => [.regs, .free, .out, .ret, .map, .mere, .nvq, .cwy]
  | .zoneOpen .. => [.out, .map, .nvq]
  | .zoneClose .. => [.out, .map, .nvq]
  | .zoneFinish .. => [.regs, .free, .out, .ret, .map, .mere, .nvq, .cwy]
  | .zoneReset .. => [.regs, .out, .ret, .map, .fen, .mere, .nvq, .slu, .cwy]
  | .zoneManagementReceive .. => [.out, .nvq]
  | .zoneAppend .. => [.regs, .free, .out, .ret, .map, .mere, .nvq, .cwy]
  | .ccEnSet .. => [.out, .nvq]
  | .ccEnClear .. => [.regs, .free, .out, .nvq, .slu]
  | .normalShutdown .. => [.out, .nvq]
  | .abruptShutdown .. => [.regs, .free, .out, .nvq, .slu]
  | .controllerResetDone .. => [.out, .nvq]
  | .lostCompletionEntryEnd .. => [.out, .nvq, .slu]
  | .lostCompletionExpiry .. => [.out, .nvq]
  | .anaChangeTimeout .. => [.out, .nvq]
  | .apstTimer .. => [.out, .nvq]
  | .fallowEntryDone => [.regs, .out, .nvq]
  | .fallowExitDone => [.regs, .out, .nvq]
  | .activationDrainEnd .. => [.regs, .out, .ucs, .nvq]
  | .activationDrainTimeout => [.regs, .out, .nvq, .upd, .cus]
  | .activationPauseEnd .. => [.regs, .free, .out, .ldpc, .ucs, .nvq, .cwy, .sea, .upd, .cus]
  | .configRequest .. => [.regs, .free, .out, .glb, .peat, .cfg, .ret, .map, .mere, .nvq, .slu, .hif, .dma]
  | .numvfsWrite .. => [.out, .hif]
  | .vfEnable .. => [.regs, .free, .out, .glb, .peat, .cfg, .ret, .map, .mere, .nvq, .slu, .hif, .dma]
  | .barMemoryRequest .. => [.regs, .free, .readData, .out, .glb, .peat, .cfg, .life, .ret, .map, .fen, .ldpc, .hew, .ucs, .seam, .mere, .nvq, .slu, .hif, .fab, .cwy, .cip, .dma, .mbx, .pwr, .sea, .upd, .cus, .clk, .boot, .tmon]
  | .expertWindowTlp .. => [.regs, .free, .readData, .out, .glb, .peat, .cfg, .life, .ret, .map, .fen, .ldpc, .hew, .ucs, .seam, .mere, .nvq, .slu, .hif, .fab, .cwy, .cip, .dma, .mbx, .pwr, .sea, .upd, .cus, .clk, .boot, .tmon]
  | .doeDiscovery .. => [.out, .hif]
  | .doeAbort .. => [.out, .hif]
  | .getVersion .. => [.out, .hif]
  | .getCapabilities .. => [.out, .hif]
  | .negotiateAlgorithms .. => [.out, .hif]
  | .getDigests .. => [.out, .hif]
  | .getCertificate .. => [.out, .hif]
  | .challenge .. => [.out, .hif]
  | .getMeasurements .. => [.out, .hif]
  | .poisonedTlpReceived .. => [.regs, .free, .out, .nvq, .hif, .dma]
  | .completionTimeout .. => [.regs, .free, .out, .nvq, .hif, .dma]
  | .unexpectedCompletion .. => [.regs, .out, .hif]
  | .ecrcError .. => [.regs, .free, .out, .nvq, .hif, .dma]
  | .linkProtocolError .. => [.regs, .free, .out, .glb, .peat, .ret, .map, .mere, .nvq, .slu, .hif, .dma]
  | .functionLevelReset .. => [.regs, .free, .out, .glb, .peat, .cfg, .ret, .map, .mere, .nvq, .slu, .hif, .dma]
  | .perstAssert .. => [.regs, .free, .out, .glb, .peat, .cfg, .ret, .map, .mere, .nvq, .slu, .hif, .dma]
  | .pcieLinkUp .. => [.regs, .free, .out, .glb, .peat, .nvq]
  | .pcieLinkDown .. => [.regs, .free, .out, .glb, .peat, .cfg, .ret, .map, .mere, .nvq, .slu, .hif, .dma]
  | .busMasterEnableClear .. => [.regs, .free, .out, .glb, .peat, .ret, .map, .mere, .nvq, .slu, .hif, .dma]
  | .d3hotEntry .. => [.regs, .free, .out, .nvq, .slu, .hif]
  | .ethPortUp .. => [.regs, .free, .out, .glb, .peat, .nvq]
  | .ethPortDown .. => [.regs, .free, .out, .glb, .peat, .ret, .nvq]
  | .linkHoldExpiry .. => [.regs, .free, .out, .glb, .peat, .ret, .map, .mere, .nvq, .slu, .fab, .dma]
  | .ethernetFrameReceive .. => [.regs, .free, .out, .peat, .fab]
  | .arpRequest .. => [.out]
  | .neighborDiscovery .. => [.out]
  | .icmpEcho .. => [.out]
  | .pfcFrame .. => [.regs, .out]
  | .pauseStormDetect .. => [.regs, .free, .out, .peat, .fab]
  | .pauseStormEnd .. => [.regs, .out, .fab]
  | .ceMarkedPacket .. => [.out]
  | .cnp .. => [.regs, .out, .fab]
  | .ecnRiseTimer .. => [.out, .fab]
  | .rdmaSend .. => [.out, .mere, .fab]
  | .rdmaRead .. => [.out, .fab]
  | .rdmaWrite .. => [.out, .fab]
  | .qpAckTimeout .. => [.regs, .free, .out, .glb, .peat, .ret, .map, .mere, .nvq, .slu, .fab, .dma]
  | .cmReq .. => [.regs, .out, .fab]
  | .cmRtu .. => [.out, .fab]
  | .connect .. => [.regs, .out, .nvq, .fab]
  | .propertyGet .. => [.out]
  | .propertySet .. => [.regs, .free, .out, .nvq, .slu, .fab]
  | .disconnect .. => [.regs, .free, .out, .glb, .peat, .ret, .map, .mere, .nvq, .slu, .fab, .dma]
  | .authenticationSend .. => [.regs, .free, .out, .glb, .peat, .ret, .map, .mere, .nvq, .slu, .fab, .dma]
  | .authenticationReceive .. => [.free, .out]
  | .keepAliveTimeout .. => [.regs, .free, .out, .glb, .peat, .ret, .map, .mere, .nvq, .slu, .fab, .dma]
  | .addressCommit .. => [.regs, .free, .out, .glb, .peat, .ret, .map, .mere, .nvq, .slu, .fab, .dma]
  | .hello .. => [.regs, .free, .out, .cwy]
  | .helloAck .. => [.regs, .out, .cwy]
  | .discover .. => [.out, .cwy]
  | .discoverTimer => [.out]
  | .heartbeat .. => [.regs, .out, .cwy]
  | .heartbeatTimer => [.out, .cwy]
  | .peerDownTimeout .. => [.regs, .free, .out, .peat, .cwy]
  | .helloRetryTimer .. => [.free, .out, .cwy]
  | .causewayRetransmitTimeout .. => [.regs, .out, .cwy]
  | .causewayProgressTimeout .. => [.out, .cwy]
  | .ackOnly .. => [.regs, .out, .cwy]
  | .chainData .. => [.regs, .out, .cfg, .cwy, .upd]
  | .chainReport .. => [.regs, .out, .cwy]
  | .chainDownstreamTimeout => [.regs, .out, .cwy]
  | .migOpen .. => [.regs, .free, .out, .map, .nvq, .cwy, .cip]
  | .migUnits .. => [.regs, .free, .out, .peat, .ret, .map, .fen, .mere, .nvq, .cwy]
  | .migNak .. => [.regs, .out, .cwy]
  | .migTractEnd .. => [.regs, .out, .cwy]
  | .migDone .. => [.regs, .out, .map, .nvq, .cwy]
  | .migAbort .. => [.regs, .out, .cwy]
  | .migrationPassEnd .. => [.out, .cwy]
  | .cipherSeal .. => [.regs, .free, .out, .glb, .peat, .ret, .map, .mere, .nvq, .cip]
  | .cipherOpen .. => [.regs, .free, .out, .glb, .peat, .ret, .map, .mere, .nvq, .cip]
  | .cipherVerify .. => [.regs, .free, .out, .glb, .peat, .ret, .map, .mere, .nvq, .cip]
  | .cipRingTailWrite .. => [.regs, .free, .out, .glb, .peat, .ret, .map, .mere, .nvq, .cip]
  | .slotDrainDone .. => [.regs, .free, .out, .map, .mere, .nvq, .cip]
  | .drbgReseedRetry .. => [.regs, .out, .nvq, .cip]
  | .drbgWaitTimeout .. => [.out, .nvq, .cip]
  | .dmaRingTailWrite .. => [.regs, .free, .out, .glb, .peat, .ret, .map, .mere, .nvq, .dma]
  | .hostToMere .. => [.regs, .free, .out, .glb, .peat, .ret, .map, .mere, .nvq, .slu, .cip, .dma]
  | .mereToHost .. => [.regs, .free, .out, .glb, .peat, .ret, .map, .mere, .nvq, .slu, .dma]
  | .dmaCopy .. => [.regs, .free, .out, .glb, .peat, .ret, .map, .mere, .nvq, .dma]
  | .dmaTimerTick .. => [.regs, .out, .dma]
  | .dmaBusError .. => [.regs, .free, .out, .nvq, .dma]
  | .dmaRetryWait .. => [.regs, .free, .out, .nvq, .dma]
  | .dmaResume .. => [.regs, .free, .out, .peat, .dma]
  | .dmaSkip .. => [.regs, .free, .out, .glb, .peat, .ret, .map, .mere, .nvq, .dma]
  | .dmaReset .. => [.regs, .free, .out, .glb, .peat, .ret, .map, .mere, .nvq, .dma]
  | .mailboxPush .. => [.regs, .free, .out, .peat, .nvq, .mbx]
  | .mailboxPop .. => [.readData, .out, .mbx]
  | .pairCheckerMismatch .. => [.regs, .free, .out, .glb, .peat, .ret, .nvq, .mbx, .upd, .cus]
  | .pairWatchdogTimeout .. => [.regs, .free, .out, .glb, .peat, .ret, .nvq, .mbx, .upd, .cus]
  | .pairMemoryError .. => [.regs, .free, .out, .glb, .peat, .ret, .nvq, .mbx, .upd, .cus]
  | .pairTakeover .. => [.regs, .free, .out, .glb, .peat, .mbx]
  | .pairTestInject .. => [.regs, .free, .out, .glb, .peat, .ret, .nvq, .mbx, .upd, .cus]
  | .pairWake .. => [.regs, .out, .mbx]
  | .peatEventRecord .. => [.regs, .free, .out, .peat]
  | .peatTokenRefill .. => [.out, .peat]
  | .peatGapRecord => [.regs, .free, .out, .peat]
  | .peatArchiveRow .. => [.regs, .free, .out, .peat, .map, .mere]
  | .peatMaxAgeTimeout => [.regs, .free, .out, .peat, .map, .mere]
  | .peatNow .. => [.regs, .free, .out, .peat, .map, .mere]
  | .peatSegmentFull => [.out, .peat, .map]
  | .peatRlWrite .. => [.regs, .free, .out, .peat]
  | .pfailInputFall .. => [.regs, .free, .out, .peat, .pwr]
  | .powerFailDecision .. => [.regs, .free, .out, .glb, .peat, .cfg, .ret, .map, .fen, .hew, .ucs, .seam, .mere, .nvq, .slu, .hif, .dma, .pwr, .cus, .boot]
  | .pfailAgreeTimeout => [.regs, .out, .pwr]
  | .flushEnd .. => [.regs, .free, .out, .glb, .peat, .life, .ret, .map, .fen, .hew, .seam, .mere, .nvq, .slu, .pwr]
  | .flushLimitExpiry .. => [.regs, .free, .out, .glb, .peat, .life, .ret, .map, .fen, .hew, .seam, .mere, .nvq, .slu, .pwr]
  | .pfailRestartTimer => [.regs, .free, .out, .glb, .peat, .cfg, .life, .ret, .map, .fen, .ldpc, .hew, .ucs, .seam, .mere, .nvq, .slu, .hif, .fab, .cwy, .cip, .dma, .mbx, .pwr, .sea, .upd, .cus, .clk, .boot, .tmon]
  | .holdupTestDue => [.regs, .out, .pwr]
  | .htArm .. => [.regs, .out, .pwr]
  | .htCancel .. => [.regs, .free, .out, .peat, .cfg, .ucs, .nvq, .slu, .hif, .cus, .boot]
  | .htReady => [.regs, .free, .out, .peat, .map, .mere, .nvq]
  | .htRideStart .. => [.regs, .out, .pwr]
  | .htRidePass .. => [.regs, .free, .out, .peat, .cfg, .ucs, .nvq, .slu, .hif, .pwr, .cus, .boot]
  | .htRideMark => [.out, .pwr]
  | .htInputsRise => [.regs, .free, .out, .peat, .cfg, .ucs, .nvq, .slu, .hif, .pwr, .cus, .boot]
  | .htReadyTimeout => [.regs, .free, .out, .peat, .cfg, .ucs, .nvq, .slu, .hif, .cus, .boot]
  | .htOverdue => [.regs, .out, .nvq]
  | .sealSample .. => [.regs, .free, .out, .peat, .cfg, .ldpc, .ucs, .nvq, .sea]
  | .sealClear .. => [.regs, .free, .out, .peat, .cfg, .ldpc, .ucs, .nvq, .sea]
  | .sealSoft .. => [.regs, .free, .out, .peat, .cfg, .ldpc, .ucs, .nvq, .sea]
  | .firmwareTryTimeout => [.regs, .free, .out, .glb, .peat, .cfg, .ret, .map, .fen, .ldpc, .hew, .ucs, .seam, .mere, .nvq, .slu, .hif, .fab, .cwy, .cip, .dma, .mbx, .pwr, .sea, .upd, .cus, .clk, .boot, .tmon]
  | .sessionResponseWrite .. => [.regs, .free, .out, .peat, .cfg, .cus]
  | .custodianNonceTimer => [.free, .out, .cus]
  | .sessionLockoutEnd => [.out, .cus]
  | .sessionIdleTimeout => [.regs, .out, .cfg, .cus]
  | .sessionClose => [.out, .cfg, .cus]
  | .windowRead => [.regs, .free, .readData, .out, .glb, .peat, .cfg, .life, .ret, .map, .fen, .ldpc, .hew, .ucs, .seam, .mere, .nvq, .slu, .hif, .fab, .cwy, .cip, .dma, .mbx, .pwr, .sea, .upd, .cus, .clk, .boot, .tmon]
  | .windowWrite => [.regs, .free, .readData, .out, .glb, .peat, .cfg, .life, .ret, .map, .fen, .ldpc, .hew, .ucs, .seam, .mere, .nvq, .slu, .hif, .fab, .cwy, .cip, .dma, .mbx, .pwr, .sea, .upd, .cus, .clk, .boot, .tmon]
  | .lifeRead => [.regs, .free, .out, .peat, .cus]
  | .lifeSetUtc => [.regs, .free, .out, .peat, .life, .cus]
  | .sealTask => [.regs, .free, .out, .peat, .cfg, .ldpc, .ucs, .nvq, .sea, .cus]
  | .escrowImport .. => [.regs, .free, .out, .peat, .map, .mere, .nvq, .cip, .cus]
  | .escrowExport => [.regs, .free, .out, .peat, .cus]
  | .memberRetire => [.regs, .free, .out, .glb, .peat, .fen, .nvq, .cus]
  | .memberHotadd .. => [.regs, .free, .out, .glb, .peat, .ret, .map, .fen, .hew, .seam, .mere, .nvq, .slu, .cus]
  | .drainDone .. => [.regs, .free, .out, .glb, .map, .fen, .mere, .nvq]
  | .peatExport => [.regs, .free, .out, .peat, .cus]
  | .manifest => [.regs, .free, .out, .peat, .cus]
  | .imageWrite .. => [.regs, .free, .out, .peat, .cfg, .upd, .cus]
  | .twimaPromote => [.regs, .free, .out, .glb, .peat, .cfg, .ret, .map, .fen, .ldpc, .hew, .ucs, .seam, .mere, .nvq, .slu, .hif, .fab, .cip, .dma, .mbx, .pwr, .sea, .upd, .cus, .boot]
  | .fwCommitTask => [.regs, .free, .out, .peat, .cfg, .nvq, .upd, .cus]
  | .retireOld => [.regs, .free, .out, .peat, .cfg, .upd, .cus]
  | .peerSet .. => [.regs, .free, .out, .peat, .cwy, .cus]
  | .chainStart => [.regs, .free, .out, .peat, .cwy, .cus]
  | .migExport => [.regs, .free, .out, .peat, .cwy, .cus]
  | .migImport => [.regs, .free, .out, .peat, .cwy, .cus]
  | .migFreeze => [.regs, .free, .out, .peat, .nvq, .cwy, .cus]
  | .deviceReset => [.regs, .free, .out, .glb, .peat, .cfg, .ret, .map, .fen, .ldpc, .hew, .ucs, .seam, .mere, .nvq, .slu, .hif, .fab, .cwy, .cip, .dma, .mbx, .pwr, .sea, .upd, .cus, .clk, .boot, .tmon]
  | .bootResetWrite .. => [.regs, .free, .out, .glb, .peat, .cfg, .ret, .map, .fen, .ldpc, .hew, .ucs, .seam, .mere, .nvq, .slu, .hif, .fab, .cwy, .cip, .dma, .mbx, .pwr, .sea, .upd, .cus, .clk, .boot, .tmon]
  | .deviceResetSequence => [.regs, .free, .out, .glb, .peat, .cfg, .ret, .map, .fen, .ldpc, .hew, .ucs, .seam, .mere, .nvq, .slu, .hif, .fab, .cwy, .cip, .dma, .mbx, .pwr, .sea, .upd, .cus, .clk, .boot, .tmon]
  | .powerOnReset .. => [.regs, .free, .out, .glb, .peat, .cfg, .life, .ret, .map, .fen, .ldpc, .hew, .ucs, .seam, .mere, .nvq, .slu, .hif, .fab, .cwy, .cip, .dma, .mbx, .pwr, .sea, .upd, .cus, .clk, .boot, .tmon]
  | .railOutOfRange .. => [.regs, .out, .glb, .peat, .cfg, .ret, .map, .fen, .ldpc, .hew, .ucs, .seam, .mere, .nvq, .slu, .hif, .fab, .cwy, .cip, .dma, .mbx, .pwr, .sea, .upd, .cus, .clk, .boot, .tmon]
  | .bootStepEnd .. => [.regs, .free, .out, .glb, .peat, .cfg, .life, .ret, .map, .fen, .ldpc, .hew, .ucs, .seam, .mere, .nvq, .slu, .hif, .fab, .cwy, .cip, .dma, .mbx, .pwr, .sea, .upd, .cus, .clk, .boot, .tmon]
  | .bootStepFailure .. => [.regs, .free, .out, .glb, .peat, .cfg, .ret, .map, .fen, .ldpc, .hew, .ucs, .seam, .mere, .nvq, .slu, .hif, .fab, .cwy, .cip, .dma, .mbx, .pwr, .sea, .upd, .cus, .clk, .boot, .tmon]
  | .refclkCheck .. => [.regs, .free, .out, .glb, .peat, .cfg, .ret, .map, .seam, .mere, .nvq, .slu, .hif, .dma, .clk]
  | .sysPllUnlock .. => [.regs, .free, .out, .glb, .peat, .cfg, .ret, .map, .fen, .ldpc, .hew, .ucs, .seam, .mere, .nvq, .slu, .hif, .fab, .cwy, .cip, .dma, .mbx, .pwr, .sea, .upd, .cus, .clk, .boot, .tmon]
  | .crystalStop => [.regs, .out, .life]
  | .calendarTick => [.regs, .out, .life]
  | .junctionSample .. => [.regs, .out, .glb, .tmon]
  | .thermalHoldEntry => [.regs, .out, .tmon]
  | .smbusReadByte .. => [.out]
  | .smbusWrite .. => [.out]
  | .pllGroupRelock .. => [.regs, .free, .out, .glb, .peat, .seam]
  | .pfailInputRise .. => [.regs, .out, .pwr]
  | .crystalRestart => [.regs, .out, .life]
  | .jtagTapReset => [.out]
  | .pcieLinkRetrain .. => [.regs, .out, .nvq]
  | .rdmaTransportAck .. => [.regs, .out, .ret, .nvq, .slu]
  | .hostConnectionClose .. => [.regs, .free, .out, .glb, .peat, .ret, .map, .mere, .nvq, .slu, .fab, .dma]
  | .ovf24hAgeOut .. => [.regs, .out]

/-- Slot n holds the admitted command k of controller c, and it waits for nothing. -/
def Admitted (s : State) (n : Nat) (k : Cmd) (c : Ctrl) : Prop :=
  s.slot? n = some k ∧ k.state = .admitted ∧ k.waits = false ∧ s.ctrl? k.ctrl = some c

/-- The command in slot n has finished with a status and its first completion dword. -/
def Ended (t : State) (n status dw0 : Nat) : Prop :=
  ∃ k, t.slot? n = some k ∧ k.state = .finished ∧ k.status = status ∧ k.dw0 = dw0

/-- A datagram of a session that is up is the next of its stream, its MAC is good, and nothing of that stream waits for an
acknowledgement. -/
def InOrder (s : State) (h : CwyHead) : Prop :=
  (peerOf s h.peer.val).state = 2 ∧ h.macOk = true ∧ (∀ d ∈ (peerOf s h.peer.val).tx, d.stream ≠ h.stream.val) ∧
    h.seq % 2 ^ 32 = (streamOf (peerOf s h.peer.val).rxSeq h.stream.val + 1) % 2 ^ 32

/-- A datagram of a type waits for a peer's acknowledgement, or to be sent. -/
def Queued (t : State) (p type : Nat) (args : List Nat) : Prop :=
  ∃ d ∈ (peerOf t p).tx ++ (peerOf t p).wait, d.type = type ∧ d.args = args

/-- A Custodian session with the full key is open, no task runs, and the device has started. -/
def TaskReady (s : State) : Prop :=
  s.cus.isOpen = true ∧ s.cus.busy = none ∧ s.cus.recovery = false ∧ s.boot.done = true ∧ s.boot.stopped = false

/-- A Custodian task has ended with a status and its detail. -/
def TaskEnds (t : State) (op status detail : Nat) : Prop :=
  t.cus.busy = none ∧ t.rd F.CUS_TASK_STAT_LAST_OP = op ∧ t.rd F.CUS_TASK_STAT_STATUS = status ∧
    t.rd F.CUS_TASK_STAT_DETAIL = detail ∧ t.rd F.CUS_TASK_STAT_STATE = (if status = 0 then 2 else 3) ∧ t.rd F.CUS_EVT_TASK_DONE = 1

/-- The commands through which the RETIRE_OLD task can run: its own, and the register writes that can reach the Custodian's task
register (R39, R577, R601). -/
def RaisesFloor (i : Instr) : Prop :=
  i = .retireOld ∨ i = .windowWrite ∨ (∃ p o n v, i = .registerWrite p o n v) ∨ (∃ l f o n w v, i = .expertWindowTlp l f o n w v) ∨
    ∃ l f b o n w v, i = .barMemoryRequest l f b o n w v

/-- An image passes the checks of R43 that look at the image alone; its signature verifies under some key. -/
def ImageSound (i : TwimaImage) : Prop :=
  (formatOk i = true ∧ (∃ key, sigOk key i = true) ∧ digestsOk i = true ∧ lotSetOk (lotTypes i) = true) ∧
    (geometryOk i.struct_ = true ∧ weavingOk i.struct_ = true ∧ clockOk i.clock = true ∧ hostLimitOk i = true) ∧
    (windowsOk i = true ∧ sluiceOk i.sluice = true ∧ engineOk i.engine = true ∧ mailboxOk i = true) ∧
    (ucodeOk i.ucode = true ∧ holdupOk i = true ∧ reginitOk i.reginit = true ∧ templateOk i.nstpl = true ∧ securityOk i.security = true)

/-- The image in force, and one that waits as a re-apply, have passed those checks. -/
def ImagesChecked (s : State) : Prop :=
  (∀ i, s.cfg.run = some i → ImageSound i) ∧ (∀ r, s.cfg.reapply = some r → ImageSound r.image)

/-- A step answers a next state. -/
def StepSafe (s : State) : Prop := ∃ t, step s = .next t

/-- A run of k steps answers a next state. -/
def RunSafe (k : Nat) (s : State) : Prop := ∃ t, Host.Core.run core k s = .next t

/-- A sequence stands at a microword with data `w`, as it was stored or corrected by the fetch path (R252). -/
def UcReady (s : State) (n k : Nat) (h : Held) (w : Nat) : Prop :=
  s.held? n k = some h ∧ h.code = true ∧ h.ended = false ∧
    (ucFetchWord (ucWordAt s (storeOf s n) h.bank h.pc) = .good w ∨ ucFetchWord (ucWordAt s (storeOf s n) h.bank h.pc) = .corrected w)

/-- A sequence has written a value to register `d` (R248): a working register holds it modulo 2^32; STATUS and DETAIL hold 16 bits
of it; ZERO discards it; a read-only register ends the sequence. -/
def UcWrote (t : State) (n k : Nat) (g : Held) (d v : Nat) : Prop :=
  (d < 16 → t.held? n k = some { g with regs := g.regs.set d (v % 2 ^ 32) }) ∧
  (16 ≤ d → d ≤ 26 → t.held? n k = none ∧ t.rd F.HEW_EVT_ERROR n = 1) ∧
  (d = 27 → t.held? n k = some { g with status := v % 2 ^ 16 }) ∧
  (d = 28 → t.held? n k = some { g with detail := v % 2 ^ 16 }) ∧
  (d = 31 → t.held? n k = some g)

end Sys2Proof.Machine
end

