-- ==== Sys2Proof/Certificates/Slice0/Obligations.lean ====
section
/-! DEFINITION. The statements for the provers. Each says of its commands that exec answers a next state, under hypotheses on the
state and the operands alone, and what that state holds; the docstring names the rules. -/

open Sys2Proof Sys2Proof.Machine

/-- The queue is first in, first out: a step runs the command at its front on the state with the queue's rest; with nothing
waiting the block idles (the model's choice: log entry 1). -/
def Obligations.StepRunsFront : Prop :=
  (∀ (c : Instr) (rest : List Instr) (s : State), s.pending = c :: rest → step s = exec c { s with pending := rest }) ∧
  (∀ s : State, s.pending = [] → step s = .next s)

/-- Every command, on every state and with every operand, answers a next state and leaves the waiting commands as they are. -/
def Obligations.EveryCommandAnswers : Prop := ∀ (i : Instr) (s : State), Answers i s fun t => t.pending = s.pending

/-- The state before any command: no command waits, the Mere holds nothing, no image is in force, no power failure is decided,
nothing is dirty, and the fields whose reset value the manual's field tables give read it. Clauses that the manual leaves
open rest on log entries 2, 9. -/
def Obligations.ResetLeaves : Prop :=
  State.reset.pending = [] ∧ Memory.wf State.reset.mere.mem = true ∧ State.reset.cfg.run = none ∧ State.reset.cfg.reapply = none ∧
    State.reset.pwr.decided = false ∧ State.reset.map.dirty = [] ∧ State.reset.nvq.slots = [] ∧ State.reset.boot.done = false ∧
    State.reset.rd F.PWR_PF_CTL_FILTER = 1 ∧ State.reset.rd F.PWR_PF_CTL_RESTART = 100 ∧ State.reset.rd F.TMON_CTL_THROTTLE_C = 100 ∧
    State.reset.rd F.FEN_REBUILD_CTL_SHARE = 50 ∧ State.reset.rd F.SLU_CTL_DIE_Q = 4 ∧ State.reset.rd F.PEAT_CTL_MAX_AGE = 6 ∧
    State.reset.rd F.BOOT_CTL_AUTO_MAX = 3 ∧ (∀ l < 512, State.reset.rd F.SEAM_CTL_RATE_MAX l = 1)

/-- The Mere's bytes keep their canonical form through every step: addresses rise strictly and no listed byte is the one that an
unlisted address reads as. -/
def Obligations.MereStaysCanonical : Prop :=
  ∀ s t : State, Memory.wf s.mere.mem = true → step s = .next t → Memory.wf t.mere.mem = true

/-- R546, R549: a power-fail decision is not withdrawn: it stands through every step but a power-on reset, the restart with both
inputs high again, and a rail that leaves its range (the collapse of power). -/
def Obligations.DecisionStands : Prop :=
  ∀ (i : Instr) (s t : State), s.pwr.decided = true → exec i s = .next t → t.pwr.decided = false →
    (∃ n v b, i = .powerOnReset n v b) ∨ (∃ r, i = .railOutOfRange r) ∨
    (i = .pfailRestartTimer ∧ s.pwr.flushing = false ∧ s.pwr.lowA = false ∧ s.pwr.lowB = false)

/-- R39, R577: no step lowers an anti-rollback floor, and only a Custodian task raises one. Clauses that the manual leaves open
rest on log entry 81. -/
def Obligations.FloorsOnlyRise : Prop :=
  (∀ s t : State, step s = .next t → s.upd.floor ≤ t.upd.floor ∧ s.cfg.floor ≤ t.cfg.floor) ∧
  (∀ (i : Instr) (s t : State), exec i s = .next t → t.upd.floor ≠ s.upd.floor ∨ t.cfg.floor ≠ s.cfg.floor → RaisesFloor i)

/-- R596: the serial number and the recovery key are fuses of the board: only a power-on reset that names another board (log
entry 9) shows others. Clauses that the manual leaves open rest on log entry 9. -/
def Obligations.FusesStand : Prop :=
  ∀ (i : Instr) (s t : State), (∀ n v b, i ≠ .powerOnReset n v (some b)) → exec i s = .next t →
    t.cfg.serial = s.cfg.serial ∧ t.cus.recoveryKey = s.cus.recoveryKey

/-- R43, R44, R45: an image comes into force, or waits as a re-apply, only after the checks of the image itself: from a state in
which that holds it holds after every step; it holds after reset; and it keeps the fen count between 1 and 16. -/
def Obligations.ImagesStayChecked : Prop :=
  ImagesChecked State.reset ∧ (∀ s t : State, ImagesChecked s → step s = .next t → ImagesChecked t) ∧
  (∀ s : State, ImagesChecked s → 1 ≤ fenCount s ∧ fenCount s ≤ 16)

/-- Which records a command may change: outside the parts that partsOf names for it, the state after it is the state before. -/
def Obligations.PartsChanged : Prop := ∀ (i : Instr) (s t : State), exec i s = .next t → Touches (partsOf i) s t

/-- R347: with at most 8 Aborts outstanding, an Abort ends the command it names where that is fetched and not yet admitted
(0x07, dword 0 bit 0 is 0), and else acts on nothing and answers dword 0 bit 0 of 1; no other slot changes either way. -/
def Obligations.AbortFetchedOnly : Prop :=
  ∀ (n : SlotNo) (s : State) (k : Cmd) (c : Ctrl), Admitted s n.val k c → k.isAdmin 0x08 = true →
    (s.nvq.slots.filter (fun e => decide (e.2.ctrl = k.ctrl ∧ e.2.state ≠ .finished) && e.2.isAdmin 0x08)).length ≤ 8 →
    (∀ e, s.nvq.slots.find? (fun e => decide (e.2.ctrl = k.ctrl ∧ e.2.sqid = bits (k.dw 10) 0 16 ∧
        e.2.sqe.cid.toNat = bits (k.dw 10) 16 16 ∧ e.2.state = .fetched)) = some e → e.1 ≠ n.val →
      Answers (.abort n) s fun t => Ended t e.1 0x07 0 ∧ Ended t n.val 0 0 ∧ ∀ m, m ≠ n.val → m ≠ e.1 → t.slot? m = s.slot? m) ∧
    (s.nvq.slots.find? (fun e => decide (e.2.ctrl = k.ctrl ∧ e.2.sqid = bits (k.dw 10) 0 16 ∧
        e.2.sqe.cid.toNat = bits (k.dw 10) 16 16 ∧ e.2.state = .fetched)) = none →
      Answers (.abort n) s fun t => Ended t n.val 0 1 ∧ ∀ m, m ≠ n.val → t.slot? m = s.slot? m)

/-- R346: an entry that carries a command identifier in flight on its SQ completes with 0x03 and does nothing else: the
earlier command and every other slot stay as they are, and CID_CONFLICT is set. Clauses that the manual leaves open rest on
log entry 29. -/
def Obligations.IdConflictCompletes : Prop :=
  ∀ (i : CtrlId) (qid p : Nat) (e : Sqe) (s : State) (c : Ctrl) (q : SubQueue) (m : Nat) (k : Cmd), s.ctrl? i = some c →
    c.sqs.find qid = some q → mayFetch s c = true → slotPart s i qid c = some p → q.deleting = none →
    s.slot? m = some k → k.ctrl = i → k.sqid = qid → k.sqe.cid = e.cid →
    (c.fabric = false → fetchGrant s = some (i, qid) → 0 < s.rd F.NVQ_FETCH_CTL_BURST →
      0 < (q.tail + q.size - q.head) % max 1 q.size → Answers (.sqFetch i qid [e]) s fun t => Ended t (lowSlot s) 0x03 0 ∧
        t.rd F.NVQ_EVT_CID_CONFLICT = 1 ∧ t.slot? m = some k ∧ (∀ x, x ≠ lowSlot s → t.slot? x = s.slot? x) ∧ t.map = s.map ∧
        t.mere = s.mere) ∧
    (c.fabric = true → c.resetting = false → q.buffer = [] → Answers (.capsuleArrival i qid e) s fun t => Ended t (lowSlot s) 0x03 0 ∧
      t.rd F.NVQ_EVT_CID_CONFLICT = 1 ∧ t.slot? m = some k ∧ (∀ x, x ≠ lowSlot s → t.slot? x = s.slot? x) ∧ t.map = s.map ∧
      t.mere = s.mere)

/-- R594: with no session open, a write on the Custodian's path of a register that needs one is ignored and a read answers 0;
each records the access-violation event (Peat code 0x0001) with master identity 0x30 and the offset. -/
def Obligations.NoSessionNoAccess : Prop :=
  ∀ (o n : Nat) (v : Word) (s : State), s.boot.testEn = false → s.cus.isOpen = false → o % 4 = 0 →
    inCus o = false ∨ needsSession (o - 0xB000000) = true →
    (Answers (.registerWrite .custodian o n v) s fun t => t = peatRecord 0x0001 0x30 o 0 s.begin) ∧
    (∀ i ∈ [Instr.rcRead .custodian o n, .latchingRead .custodian o], Answers i s fun t =>
      t.readData = 0 ∧ t = { peatRecord 0x0001 0x30 o 0 s.begin with readData := 0 })

/-- Register accesses (R9 to R14, R16, R163, R424, R425, R427, R593, R600), each shown on one register of its kind: an RW field
takes a legal value, an RWL field none while LOCKED is set, an RWE field none without Expert level, a W1C field clears, a
reserved offset does nothing, a narrow write is recorded; a read of an RC field clears it, one of the calendar latches its
high word; the Custodian's window, an expert window and a function's BAR reach what they address. Clauses that the manual
leaves open rest on log entry 73. -/
def Obligations.RegisterAccesses : Prop :=
  (∀ (p : AccessPath) (v : Word) (s : State), p ≠ .custodian → s.boot.testEn = false →
    (Answers (.registerWrite p 0x3000104 4 v) s fun t =>
      (1 ≤ v.toNat % 256 → v.toNat % 256 ≤ 200 → t.rd F.FAB_PFC_CTL_WD = v.toNat % 256) ∧
      (v.toNat % 256 = 0 ∨ 200 < v.toNat % 256 → t.rd F.FAB_PFC_CTL_WD = s.rd F.FAB_PFC_CTL_WD) ∧
      t.rd F.FAB_PFC_CTL_PFC_TX = (if cfgLocked s = true then s.rd F.FAB_PFC_CTL_PFC_TX else v.toNat / 256 % 2) ∧ t.fab = s.fab) ∧
    (expertOpen s p = false → Answers (.registerWrite p 0x3000108 4 v) s fun t => SameOutside [0x90] s.regs t.regs ∧ t.fab = s.fab) ∧
    (expertOpen s p = true → 5 ≤ v.toNat / 2097152 % 128 → Answers (.registerWrite p 0x3000108 4 v) s fun t =>
      t.rd F.FAB_ECN_CTL_HOLD = v.toNat / 2097152 % 128) ∧
    (Answers (.registerWrite p 0x3000080 4 v) s fun t =>
      t.rd F.FAB_EVT_LINK_DOWN = (if bitOf v.toNat 0 = true then 0 else s.rd F.FAB_EVT_LINK_DOWN % 2) ∧
      t.rd F.FAB_EVT_PFC_STORM = (if bitOf v.toNat 2 = true then 0 else s.rd F.FAB_EVT_PFC_STORM % 2)) ∧
    (∀ o n, o % 4 ≠ 0 ∨ n ≠ 4 ∨ inCus o = true → Answers (.registerWrite p o n v) s fun t =>
      Touches [.regs, .free, .peat, .out] s t ∧ SameOutside [0x90] s.regs t.regs) ∧
    (∀ o, o % 4 = 0 → locate o = none → inCus o = false → (Answers (.registerWrite p o 4 v) s fun t => t = s.begin) ∧
      Answers (.rcRead p o 4) s fun t => t = { s.begin with readData := 0 }) ∧
    (∀ l : LPort, Answers (.rcRead p (0x3000400 + 4 * l.val) 4) s fun t => t.readData.toNat = s.rd F.FAB_CNT_FCS_COUNT l.val % 2 ^ 32 ∧
      t.rd F.FAB_CNT_FCS_COUNT l.val = 0 ∧ t.fab = s.fab) ∧
    (Answers (.latchingRead p 0x700000) s fun t => t.readData.toNat = s.life.now % 2 ^ 32 ∧ t.life = { s.life with nowHi := s.life.now / 2 ^ 32 }) ∧
    (Answers (.latchingRead p 0x700004) s fun t => t.readData.toNat = s.life.nowHi % 2 ^ 16 ∧ t.life = s.life)) ∧
  (∀ (l : LPort) (s : State), s.boot.testEn = false → s.cus.isOpen = true → s.rd F.CUS_WIN_ADDR_OFFSET = 0xC00100 + l.val →
    Answers .windowRead s fun t => t.rd F.CUS_WIN_RDATA_DATA = s.rd F.FAB_CNT_FCS_COUNT l.val % 2 ^ 32 ∧
      t.rd F.FAB_CNT_FCS_COUNT l.val = 0) ∧
  (∀ s : State, s.boot.testEn = false → s.cus.isOpen = true → s.rd F.CUS_WIN_ADDR_OFFSET = 0xC00041 →
    1 ≤ s.rd F.CUS_WIN_WDATA_DATA % 256 → s.rd F.CUS_WIN_WDATA_DATA % 256 ≤ 200 → Answers .windowWrite s fun t =>
      t.rd F.FAB_PFC_CTL_WD = s.rd F.CUS_WIN_WDATA_DATA % 256) ∧
  (∀ s : State, s.boot.testEn = false → s.cus.isOpen = false → ∀ i ∈ [Instr.windowRead, .windowWrite], Answers i s fun t =>
    Touches [.regs, .free, .peat, .out] s t ∧ SameOutside [0x90] s.regs t.regs) ∧
  (∀ (l : PcieLink) (f : Fin 4) (o x : Nat) (v : Nat) (s : State) (w : WindowEntry) (n : LPort), s.boot.testEn = false →
    s.isSet F.HIF_LINK_STAT_UP l.val = true → memTaken s l.val f.val 4 o 4 = true → o % 4 = 0 → windowAt s l.val f.val o = some w →
    x = w.target + (o - w.barOff) →
    (x = 0x3000400 + 4 * n.val → Answers (.expertWindowTlp l f o 4 false v) s fun t =>
      t.out = [.memAnswer l.val (s.rd F.FAB_CNT_FCS_COUNT n.val % 2 ^ 32)] ∧ t.rd F.FAB_CNT_FCS_COUNT n.val = 0) ∧
    (x = 0x3000104 → w.write = true → 1 ≤ v % 256 → v % 256 ≤ 200 → Answers (.expertWindowTlp l f o 4 true v) s fun t =>
      t.rd F.FAB_PFC_CTL_WD = v % 256 ∧ t.out = []) ∧
    (w.write = false → Answers (.expertWindowTlp l f o 4 true v) s fun t =>
      Touches [.regs, .free, .peat, .out] s t ∧ SameOutside [0x90] s.regs t.regs)) ∧
  (∀ (l : PcieLink) (f : BitVec 8) (v : Nat) (s : State), s.boot.testEn = false → s.isSet F.HIF_LINK_STAT_UP l.val = true →
    (∀ (n : Nat) (c : Ctrl), memTaken s l.val f.toNat 0 0x1C 4 = true → ctrlOf s l.val f.toNat = some n → s.ctrl? n = some c →
      Answers (.barMemoryRequest l f 0 0x1C 4 false v) s fun t => t.out = [.memAnswer l.val (cstsValue c % 2 ^ 32)] ∧ t.nvq = s.nvq) ∧
    (∀ (n q : Nat) (c : Ctrl) (x : SubQueue), q ≤ 0x400 → memTaken s l.val f.toNat 0 (0x1000 + 8 * q) 4 = true →
      ctrlOf s l.val f.toNat = some n → s.ctrl? n = some c → c.fabric = false → c.sqs.find q = some x → x.deleting = none →
      v % 65536 < x.size → Answers (.barMemoryRequest l f 0 (0x1000 + 8 * q) 4 true v) s fun t =>
        t.ctrl? n = some { c with sqs := c.sqs.put q { x with tail := v % 65536 } } ∧ t.out = []) ∧
    (∀ (b : Fin 6) (o n : Nat) (w : Bool), memTaken s l.val f.toNat b.val o n = false →
      Answers (.barMemoryRequest l f b o n w v) s fun t => t.out = [.aer l.val f.toNat 20, .unsupported l.val f.toNat] ∧ t.nvq = s.nvq))

/-- Block commands (R28, R29, R82, R330, R344, R362, R366, R371): a read or a Compare uses whole verified leaves, waits for a
stack or for a member that may return, or fails; a write, or a Copy, of one whole unit leaves it dirty on two stacks under
the next WSEQ; Write Zeroes of one unit that a log can take, and a deallocated tract, read as zero; a Flush waits while what
it covers is not programmed. Clauses that the manual leaves open rest on log entries 20, 38, 88. -/
def Obligations.BlockCommands : Prop :=
  (∀ (n : SlotNo) (s : State) (k : Cmd) (c : Ctrl) (x : Namespace), Admitted s n.val k c → k.isIo 0x02 = true → s.ns? k.nsid = some x →
    ((stacksUp s).isEmpty = false → leavesOk s k.nsid x k.slba k.nlb = true → Answers (.nvmeRead n) s fun t => Ended t n.val 0 0 ∧
      t.map = { s.map with clean := t.map.clean } ∧ t.out = [.hostData k.ctrl k.sqe.cid.toNat (readBlocks s k.nsid x k.slba k.nlb)]) ∧
    ((stacksUp s).isEmpty = true → Answers (.nvmeRead n) s fun t => t = s.begin) ∧
    ((stacksUp s).isEmpty = false → leavesOk s k.nsid x k.slba k.nlb = false → Answers (.nvmeRead n) s fun t => Ended t n.val 0x281 0 ∧ t.out = [])) ∧
  (∀ (n : SlotNo) (d : List Nat) (s : State) (k : Cmd) (c : Ctrl) (x : Namespace), Admitted s n.val k c → k.isIo 0x05 = true →
    s.ns? k.nsid = some x → leavesOk s k.nsid x k.slba k.nlb = true → Answers (.compare n d) s fun t => t.map = s.map ∧ t.out = [] ∧
      Ended t n.val (if readBlocks s k.nsid x k.slba k.nlb = (List.range k.nlb).map (fun i => d.getD i 0 % 2 ^ (8 * 2 ^ x.lbaShift))
        then 0 else 0x285) 0) ∧
  (∀ (n : SlotNo) (s : State) (k : Cmd) (c : Ctrl) (x : Namespace), Admitted s n.val k c → k.isIo 0x0C = true → s.ns? k.nsid = some x →
    Answers (.verify n) s fun t => Ended t n.val (if leavesOk s k.nsid x k.slba k.nlb = true then 0 else 0x281) (s.ret.nextPass % 2 ^ 32) ∧
      t.out = [] ∧ t.ret.nextPass = passAfter s.ret.nextPass ∧ ∃ p ∈ t.ret.passes, p.id = s.ret.nextPass ∧ p.state = 2 ∧ p.origin = 1 ∧
        p.nsid = k.nsid ∧ p.first = k.slba ∧ p.count = k.nlb ∧
        p.skipped = (rangeUnits s k x).length - ((rangeUnits s k x).filter (fun e => !passSkips s e.1 e.2)).length) ∧
  (∀ (n : SlotNo) (s : State) (k : Cmd) (c : Ctrl), Admitted s n.val k c → k.isIo 0x00 = true →
    (durableFor s k = true → Answers (.nvmeFlush n) s fun t => Ended t n.val 0 0 ∧ t.map = s.map) ∧
    (durableFor s k = false → Answers (.nvmeFlush n) s fun t => t.slot? n.val = some { k with waits := true } ∧ t.map = s.map)) ∧
  (∀ (n : SlotNo) (d : List Nat) (s : State) (k : Cmd) (c : Ctrl) (x : Namespace) (l u a b : Nat), Admitted s n.val k c →
    k.isIo 0x01 = true → s.ns? k.nsid = some x → x.zoned = false → x.lbaShift = 12 → x.leafShift = 12 → k.nlb = 1 → k.fua = false →
    forceFua s = false → dirtyStacks s = some (a, b) → unitAt s k.nsid k.slba = some (l, u) → x.wseq + 1 < x.wseqFloor →
    Answers (.nvmeWrite n d) s fun t => Ended t n.val 0 0 ∧ (∃ y, t.ns? k.nsid = some y ∧ y.wseq = x.wseq + 1) ∧
      ∃ e, t.map.dirty.find (unitKey l u) = some e ∧ e.data.payload = d.getD 0 0 % 2 ^ 32768 ∧ e.data.wseq = x.wseq ∧
        e.data.lost = false ∧ e.s1 = a ∧ e.s2 = b ∧ e.cls = k.cls ∧ e.nsid = k.nsid) ∧
  (∀ (n : SlotNo) (s : State) (k : Cmd) (c : Ctrl) (x : Namespace) (l u g : Nat) (d : LogDesc), Admitted s n.val k c →
    k.isIo 0x08 = true → s.ns? k.nsid = some x → x.zoned = false → x.lbaShift = 12 → k.nlb = 1 → k.fua = false → forceFua s = false →
    tractBytes s ≠ 0 → unitAt s k.nsid k.slba = some (l, u) → (tractOf s l).state ≠ .unmapped → (tractOf s l).log = some g →
    s.map.core.logs.find g = some d →
    Answers (.writeZeroes n) s fun t => Ended t n.val 0 0 ∧ t.map.dirty.find (unitKey l u) = none ∧
      ∃ e, t.map.core.logs.find g = some e ∧ Tab.get 0xFFFF e.submap u = 0xFFFE) ∧
  (∀ (n : SlotNo) (r : List LbaRange) (s : State) (k : Cmd) (c : Ctrl) (x : Namespace), Admitted s n.val k c → k.isIo 0x09 = true →
    s.ns? k.nsid = some x →
    (k.deallocates = false ∨ x.zoned = true → Answers (.datasetManagement n r) s fun t => Ended t n.val 0 0 ∧ t.map = s.map) ∧
    (∀ (e : LbaRange) (i l : Nat), r = [e] → k.deallocates = true → x.zoned = false → tractBlocks s x ≠ 0 →
      tractBytes s % 2 ^ x.lbaShift = 0 → e.slba = i * tractBlocks s x → e.nlb = tractBlocks s x →
      e.slba + e.nlb ≤ nsBlocks s k.nsid x → nsTract s k.nsid i = some l → forceFua s = false →
      Answers (.datasetManagement n r) s fun t => Ended t n.val 0 0 ∧ (tractOf t l).state = .unmapped)) ∧
  (∀ (n : SlotNo) (e : LbaRange) (s : State) (k : Cmd) (c : Ctrl) (x : Namespace) (l u a b : Nat) (d : UnitData), Admitted s n.val k c →
    k.isIo 0x19 = true → s.ns? k.nsid = some x → x.zoned = false → x.lbaShift = 12 → x.leafShift = 12 → e.nlb = 1 →
    bits (k.dw 12) 0 12 = 0 → k.fua = false → forceFua s = false → nvqSealed s = false → overLimit s 1 = false →
    k.slba + 1 ≤ nsBlocks s k.nsid x → e.slba + 1 ≤ nsBlocks s k.nsid x → readUnit s k.nsid e.slba = some d →
    dirtyStacks s = some (a, b) → unitAt s k.nsid k.slba = some (l, u) → x.wseq + 1 < x.wseqFloor →
    Answers (.copy n [e]) s fun t => Ended t n.val 0 0 ∧ ∃ w, t.map.dirty.find (unitKey l u) = some w ∧
      w.data.payload = d.payload % 2 ^ 32768 ∧ w.data.wseq = x.wseq ∧ w.data.lost = false)

/-- Zones (R77, R86, R351, R362, by the NVMe Zoned Namespace command set): an append is written at the write pointer and answers
its address; open, close, finish and reset set the state of the zone named; Report Zones answers. Clauses that the manual
leaves open rest on log entry 37. -/
def Obligations.ZoneCommands : Prop :=
  (∀ (n : SlotNo) (d : List Nat) (s : State) (k : Cmd) (c : Ctrl) (x : Namespace) (i lba : Nat), Admitted s n.val k c →
    k.isIo 0x7D = true → s.ns? k.nsid = some x → x.zoned = true → i = k.slba / max 1 (tractBlocks s x) →
    zoneRefuses s k.nsid x i k.nlb none = 0 → lba = i * max 1 (tractBlocks s x) + (zonePtr x i).1 → (dirtyStacks s).isSome = true →
    (commitWrite k.nsid k.cls lba k.nlb d s.begin).isSome = true → k.fua = false → forceFua s = false →
    Answers (.zoneAppend n d) s fun t => Ended t n.val 0 (lba % 2 ^ 32) ∧
      ∃ y, t.ns? k.nsid = some y ∧ (zonePtr y i).1 = (zonePtr x i).1 + k.nlb) ∧
  (∀ (n : SlotNo) (s : State) (k : Cmd) (c : Ctrl) (x : Namespace) (i l : Nat), Admitted s n.val k c → k.isIo 0x79 = true →
    s.ns? k.nsid = some x → i = k.slba / max 1 (tractBlocks s x) → nsTract s k.nsid i = some l → bitOf (k.dw 13) 8 = false →
    (k.zsa = 3 → zoneState s l ∈ [1, 2, 3, 4] → zonesOpen s k.nsid ≤ x.mor → Answers (.zoneOpen n) s fun t => Ended t n.val 0 0 ∧
      tractOf t l = { tractOf s l with zone := 3 }) ∧
    (k.zsa = 1 → zoneState s l ∈ [2, 3, 4] → Answers (.zoneClose n) s fun t => Ended t n.val 0 0 ∧
      tractOf t l = { tractOf s l with zone := 4 }) ∧
    (k.zsa = 2 → zoneState s l ∈ [1, 2, 3, 4] → tractOwner s l = some (k.nsid, i) → forceFua s = false →
      Answers (.zoneFinish n) s fun t => Ended t n.val 0 0 ∧ (tractOf t l).zone = 14) ∧
    (k.zsa = 4 → zoneState s l ∈ [1, 2, 3, 4, 14] → s.map.copies.find l = none → s.map.folds.find l = none → forceFua s = false →
      Answers (.zoneReset n) s fun t => Ended t n.val 0 0 ∧ (tractOf t l).state = .unmapped ∧
        ∃ y, t.ns? k.nsid = some y ∧ zonePtr y i = (0, false)) ∧
    (zoneState s l = 14 → ∀ j ∈ [(1, Instr.zoneClose n), (3, .zoneOpen n)], k.zsa = j.1 → Answers j.2 s fun t =>
      Ended t n.val 0x1BF 0 ∧ t.map = s.map)) ∧
  (∀ (n : SlotNo) (s : State) (k : Cmd) (c : Ctrl) (x : Namespace), Admitted s n.val k c → k.isIo 0x7A = true →
    s.ns? k.nsid = some x → bits (k.dw 13) 0 8 = 0 → bits (k.dw 13) 8 8 ≤ 7 → k.slba < nsBlocks s k.nsid x →
    Answers (.zoneManagementReceive n) s fun t => Ended t n.val 0 0 ∧ t.map = s.map ∧ ∃ l, t.out = [.page l])

/-- Queues (R338 to R341, R344, R345, R347, R349, R350, R355): a doorbell moves its pointer, or is ignored with an event; an
entry that is fetched, or arrives, takes a slot; a finished command is posted once and its slot returns; queues are created
and deleted; an Abort ends a command that is not admitted. Clauses that the manual leaves open rest on log entries 29, 46.
-/
def Obligations.QueueCommands : Prop :=
  (∀ (i : CtrlId) (qid v : Nat) (s : State) (c : Ctrl), s.ctrl? i = some c → c.fabric = false →
    (∀ q, c.sqs.find qid = some q → q.deleting = none → v < q.size → Answers (.sqTailDoorbell i qid v) s fun t =>
      t.ctrl? i = some { c with sqs := c.sqs.put qid { q with tail := v } } ∧ t.regs = s.regs) ∧
    (c.sqs.find qid = none → Answers (.sqTailDoorbell i qid v) s fun t => t.rd F.NVQ_EVT_BAD_DB = 1 ∧ t.out = [.asyncEvent i 0 0 1]) ∧
    (∀ q, c.sqs.find qid = some q → q.deleting = none → q.size ≤ v → Answers (.sqTailDoorbell i qid v) s fun t =>
      t.rd F.NVQ_EVT_BAD_DB = 1 ∧ t.out = [.asyncEvent i 0 1 1] ∧ ∃ y, t.ctrl? i = some y ∧ y.sqs = c.sqs) ∧
    (∀ q, c.cqs.find qid = some q → v < q.size → (v + q.size - q.head) % q.size ≤ (q.tail + q.size - q.head) % q.size →
      Answers (.cqHeadDoorbell i qid v) s fun t => t.ctrl? i = some { c with cqs := c.cqs.put qid { q with head := v } })) ∧
  (∀ (i : CtrlId) (qid p : Nat) (e : Sqe) (s : State) (c : Ctrl) (q : SubQueue), s.ctrl? i = some c → c.sqs.find qid = some q →
    mayFetch s c = true → slotPart s i qid c = some p → q.deleting = none → qid = 0 ∨ reportsFor s c e.nsid.toNat = [] →
    (∀ x ∈ s.nvq.slots, ¬(x.2.ctrl = i ∧ x.2.sqid = qid ∧ x.2.sqe.cid = e.cid)) →
    ∀ j, (c.fabric = false ∧ fetchGrant s = some (i, qid) ∧ 0 < s.rd F.NVQ_FETCH_CTL_BURST ∧
        0 < (q.tail + q.size - q.head) % max 1 q.size ∧ j = Instr.sqFetch i qid [e]) ∨
      (c.fabric = true ∧ c.resetting = false ∧ q.buffer = [] ∧ j = .capsuleArrival i qid e) →
    Answers j s fun t => (∃ k, t.slot? (lowSlot s) = some k ∧ k.sqe = e ∧ k.ctrl = i ∧ k.sqid = qid ∧ k.part = p ∧ k.state = .fetched) ∧
      ∃ y, t.ctrl? i = some y ∧ y.sqs.find qid = some { q with head := (q.head + 1) % max 1 q.size }) ∧
  (∀ (i : CtrlId) (qid : Nat) (e : Sqe) (s : State) (c : Ctrl) (q : SubQueue), s.ctrl? i = some c → c.sqs.find qid = some q →
    c.fabric = true → c.resetting = false → mayFetch s c = false → q.buffer.length < q.size → Answers (.capsuleArrival i qid e) s fun t =>
      t.ctrl? i = some { c with sqs := c.sqs.put qid { q with buffer := q.buffer ++ [e] } } ∧ t.nvq.slots = s.nvq.slots) ∧
  (∀ (n : SlotNo) (s : State) (k : Cmd) (c : Ctrl), s.slot? n.val = some k → s.ctrl? k.ctrl = some c →
    k.state = .finished → k.lostKey = false → k.sent = false → s.nvq.act ≠ 2 → s.pwr.decided = false → firstOfCq s c k = true →
    (∀ q, c.fabric = false → c.cqs.find (cqidOf c k) = some q → cqFull q = false → Answers (.completionPost n) s fun t => t.slot? n.val = none ∧
      .completion k.ctrl k.sqid (cqidOf c k) k.sqe.cid.toNat k.status k.dw0 k.dw1 ∈ t.out ∧ ∃ y, t.ctrl? k.ctrl = some y ∧
      y.cqs.find (cqidOf c k) = some { q with tail := (q.tail + 1) % max 1 q.size, phase := if q.tail + 1 = q.size then !q.phase else q.phase }) ∧
    (c.fabric = true → (c.sqs.find k.sqid).isSome = true → Answers (.completionPost n) s fun t =>
      t.slot? n.val = some { k with sent := true } ∧
      t.out = [.completion k.ctrl k.sqid (cqidOf c k) k.sqe.cid.toNat k.status k.dw0 k.dw1])) ∧
  (∀ (i : CtrlId) (cq v m : Nat) (s : State) (c : Ctrl), s.ctrl? i = some c →
    (∀ q, c.cqs.find cq = some q → cqFull q = true → Answers (.cqStallTimer i cq) s fun t => t.rd F.NVQ_EVT_CQ_STALL = 1 ∧ t.nvq = s.nvq) ∧
    (c.vecs.find v = some (m, false) → m ≠ 0 → msixOn s c = true → Answers (.interruptCoalesceTimer i v) s fun t =>
      t.out = [.msix i v] ∧ t.ctrl? i = some { c with vecs := c.vecs.put v (0, false) })) ∧
  (∀ (n : SlotNo) (s : State) (k : Cmd) (c : Ctrl), Admitted s n.val k c →
    (k.isAdmin 0x01 = true → (c.cqs.find (bits (k.dw 11) 16 16)).isSome = true → bits (k.dw 11) 16 16 ≠ 0 → qidOf k ≠ 0 →
      qidOf k ≤ c.qpairs → c.sqs.find (qidOf k) = none → qsizeOf k ≠ 0 → qsizeOf k ≤ 0x3FFF → bitOf (k.dw 11) 0 = true →
      Answers (.createIoSq n) s fun t => Ended t n.val 0 0 ∧ t.ctrl? k.ctrl = some { c with
        sqs := c.sqs.put (qidOf k) { size := qsizeOf k + 1, cqid := bits (k.dw 11) 16 16, prio := bits (k.dw 11) 1 2 } }) ∧
    (k.isAdmin 0x05 = true → qidOf k ≠ 0 → qidOf k ≤ c.qpairs → c.cqs.find (qidOf k) = none → qsizeOf k ≠ 0 →
      qsizeOf k ≤ 0x3FFF → bitOf (k.dw 11) 0 = true → bits (k.dw 11) 16 16 < c.vectors →
      Answers (.createIoCq n) s fun t => Ended t n.val 0 0 ∧ t.ctrl? k.ctrl = some { c with
        cqs := c.cqs.put (qidOf k) { size := qsizeOf k + 1, vector := bits (k.dw 11) 16 16, ien := bitOf (k.dw 11) 1 } }) ∧
    (∀ x, k.isAdmin 0x00 = true → c.sqs.find (qidOf k) = some x → qidOf k ≠ 0 → x.deleting = none → Answers (.deleteIoSq n) s fun t =>
      (∀ m j, s.slot? m = some j → j.ctrl = k.ctrl → j.sqid = qidOf k → j.state = .fetched → Ended t m 8 0) ∧
      (inFlight s k.ctrl (qidOf k) = 0 → Ended t n.val 0 0 ∧ ∃ y, t.ctrl? k.ctrl = some y ∧ y.sqs.find (qidOf k) = none)) ∧
    (k.isAdmin 0x04 = true → qidOf k ≠ 0 → (c.cqs.find (qidOf k)).isSome = true → (∀ e ∈ c.sqs, e.1 ≠ 0 → e.2.cqid ≠ qidOf k) →
      Answers (.deleteIoCq n) s fun t => Ended t n.val 0 0 ∧ ∃ y, t.ctrl? k.ctrl = some y ∧ y.cqs.find (qidOf k) = none) ∧
    (k.isAdmin 0x08 = true →
      (s.nvq.slots.filter (fun e => decide (e.2.ctrl = k.ctrl ∧ e.2.state ≠ .finished) && e.2.isAdmin 0x08)).length ≤ 8 →
      (∀ e, s.nvq.slots.find? (fun e => decide (e.2.ctrl = k.ctrl ∧ e.2.sqid = bits (k.dw 10) 0 16 ∧
          e.2.sqe.cid.toNat = bits (k.dw 10) 16 16 ∧ e.2.state = .fetched)) = some e → e.1 ≠ n.val →
        Answers (.abort n) s fun t => Ended t n.val 0 0 ∧ Ended t e.1 7 0) ∧
      (s.nvq.slots.find? (fun e => decide (e.2.ctrl = k.ctrl ∧ e.2.sqid = bits (k.dw 10) 0 16 ∧
          e.2.sqe.cid.toNat = bits (k.dw 10) 16 16 ∧ e.2.state = .fetched)) = none →
        Answers (.abort n) s fun t => Ended t n.val 0 1)))

/-- Controllers (R336, R353, R373, R374, R379, R380): CC.EN set makes a controller ready with the admin queues of AQA; cleared,
or an abrupt shutdown, takes its queues and feature values and enters its commands in the host key's lost-completion record;
a shutdown sets SHST; a record's entry ends and a record expires; a port's Change ends. Clauses that the manual leaves open
rest on log entries 27, 78. -/
def Obligations.ControllerStates : Prop :=
  (∀ (i : CtrlId) (cc aqa : Word) (s : State) (c : Ctrl), s.ctrl? i = some c → c.enabled = false → c.resetting = false → c.fabric = false →
    s.boot.done = true →
    (bits cc.toNat 11 3 ≤ 1 → bits cc.toNat 7 4 ≤ 4 → Answers (.ccEnSet i cc aqa) s fun t => ∃ y, t.ctrl? i = some y ∧ y.enabled = true ∧
      y.rdy = true ∧ y.cfs = false ∧ y.cc = cc.toNat ∧ y.sqs = [(0, { size := bits aqa.toNat 0 12 + 1 })] ∧
      y.cqs = [(0, { size := bits aqa.toNat 16 12 + 1 })]) ∧
    (1 < bits cc.toNat 11 3 ∨ 4 < bits cc.toNat 7 4 → Answers (.ccEnSet i cc aqa) s fun t => ∃ y, t.ctrl? i = some y ∧ y.cfs = true ∧
      y.enabled = false ∧ y.rdy = c.rdy)) ∧
  (∀ (i : CtrlId) (s : State) (c : Ctrl), s.ctrl? i = some c → c.enabled = true →
    (∀ e ∈ [(Instr.ccEnClear i, c.shst), (.abruptShutdown i, 1)], Answers e.1 s fun t =>
      (∃ y, t.ctrl? i = some y ∧ y.enabled = false ∧ y.resetting = true ∧ y.sqs = [] ∧ y.cqs = [] ∧ y.feats = [] ∧ y.aers = [] ∧
        y.shst = e.2) ∧
      (∃ r ∈ t.nvq.lcr, r.key = hostKeyOf c ∧ r.cause = 1 ∧ r.time = s.life.now) ∧
      ∀ m k, s.slot? m = some k → k.ctrl = i → k.lostKey = false → t.slot? m = none ∨ ∃ j, t.slot? m = some j ∧ j.lostKey = true) ∧
    (Answers (.normalShutdown i) s fun t => t.ctrl? i = some { c with shst := 1 } ∧ t.nvq.slots = s.nvq.slots)) ∧
  (∀ (i : CtrlId) (s : State) (c : Ctrl), s.ctrl? i = some c → c.fabric = false → c.gone = false →
    (c.resetting = true → writesOver s i = true → c.shst ≠ 1 → Answers (.controllerResetDone i) s fun t =>
      t.ctrl? i = some { c with resetting := false, rdy := false, shst := 0 }) ∧
    (c.resetting = true → writesOver s i = true → c.shst = 1 → Answers (.controllerResetDone i) s fun t =>
      t.ctrl? i = some { c with resetting := false, shst := 2 }) ∧
    (c.resetting = false → c.shst = 1 → shutdownOver s i = true → Answers (.controllerResetDone i) s fun t =>
      t.ctrl? i = some { c with shst := 2 })) ∧
  (∀ (h : HostKey) (x ms : Nat) (s : State) (r : LostRecord) (e : LostEntry) (k : Cmd), lcrOf s h = some r → r.entries[x]? = some e →
    s.slot? e.slot = some k → e.ended = false → k.lostKey = true → k.state = .finished → Answers (.lostCompletionEntryEnd h x ms) s fun t =>
      t.slot? e.slot = none ∧ ∃ q ∈ t.nvq.lcr, q.key = h ∧
        q.entries[x]? = some { lcrEntry e.slot k true k.status with endMs := ms, time := e.time }) ∧
  (∀ (h : HostKey) (s : State), Answers (.lostCompletionExpiry h) s fun t => lcrOf t h = none ∧ ∀ g, g ≠ h → lcrOf t g = lcrOf s g) ∧
  (∀ (p : HostPort) (s : State), Answers (.anaChangeTimeout p) s fun t => portNo p ∉ t.nvq.changing ∧
    ∀ i c, s.ctrl? i = some c → c.port = p → ∃ y, t.ctrl? i = some y ∧ y.ana = portAna t p)

/-- Set Features (R145, R331, R342, R350, R352, R452): each identifier's value is kept on its controller, or its namespace, and
the command completes with success. Clauses that the manual leaves open rest on log entries 14, 44. -/
def Obligations.FeaturesSet : Prop :=
  ∀ (n : SlotNo) (s : State) (k : Cmd) (c : Ctrl), Admitted s n.val k c → k.isAdmin 0x09 = true → bitOf (k.dw 10) 31 = false →
    (k.fid = 0x01 → Answers (.setFeaturesArbitration n) s fun t => Ended t n.val 0 0 ∧
      t.ctrl? k.ctrl = some { c with feats := c.feats.put 0x010000 (k.dw 11) }) ∧
    (k.fid = 0x02 → bits (k.dw 11) 0 5 ≤ 2 → Answers (.setFeaturesPowerManagement n) s fun t => Ended t n.val 0 0 ∧
      t.ctrl? k.ctrl = some { c with ps := bits (k.dw 11) 0 5, lastOp := if bits (k.dw 11) 0 5 < 2 then bits (k.dw 11) 0 5 else c.lastOp }) ∧
    (k.fid = 0x04 → bits (k.dw 11) 20 2 ≤ 1 → bits (k.dw 11) 16 4 ≤ 8 → Answers (.setFeaturesTemperatureThreshold n) s fun t =>
      Ended t n.val 0 0 ∧ t.ctrl? k.ctrl = some { c with feats := c.feats.put (0x040000 + bits (k.dw 11) 16 6) (bits (k.dw 11) 0 16) }) ∧
    (k.fid = 0x06 → Answers (.setFeaturesVolatileWriteCache n) s fun t =>
      Ended t n.val (if bitOf (k.dw 11) 0 = true then 0 else 0x10E) 0 ∧ t.nvq.ctrls = s.nvq.ctrls) ∧
    (k.fid = 0x07 → bits (k.dw 11) 0 16 ≠ 0xFFFF → bits (k.dw 11) 16 16 ≠ 0xFFFF → Answers (.setFeaturesNumberOfQueues n) s fun t =>
      Ended t n.val 0 (((c.qpairs - 1) * 65537) % 2 ^ 32) ∧ t.nvq.ctrls = s.nvq.ctrls) ∧
    (k.fid = 0x08 → Answers (.setFeaturesInterruptCoalescing n) s fun t => Ended t n.val 0 0 ∧
      t.ctrl? k.ctrl = some { c with feats := c.feats.put 0x080000 (bits (k.dw 11) 0 16) }) ∧
    (k.fid = 0x09 → bits (k.dw 11) 0 16 < c.vectors → Answers (.setFeaturesInterruptVectorConfig n) s fun t => Ended t n.val 0 0 ∧
      t.ctrl? k.ctrl = some { c with feats := c.feats.put (0x090000 + bits (k.dw 11) 0 16) (bits (k.dw 11) 0 17) }) ∧
    (k.fid = 0x0B → Answers (.setFeaturesAsyncEventConfig n) s fun t => Ended t n.val 0 0 ∧
      t.ctrl? k.ctrl = some { c with feats := c.feats.put 0x0B0000 (k.dw 11) }) ∧
    (∀ l : List Nat, k.fid = 0x0C → (∀ e ∈ l.take 32, bits e 8 24 = 0 ∨ bits e 3 5 = 2) → Answers (.setFeaturesApst n l) s fun t =>
      Ended t n.val 0 0 ∧ t.ctrl? k.ctrl = some { c with apst := l.take 32, feats := c.feats.put 0x0C0000 (bits (k.dw 11) 0 1) }) ∧
    (∀ ms : Nat, k.fid = 0x0E → Answers (.setFeaturesTimestamp n ms) s fun t => Ended t n.val 0 0 ∧ t.life.now = s.life.now ∧
      t.life.utc + s.life.now = ((ms % 2 ^ 48 / 1000 : Nat) : Int)) ∧
    (k.fid = 0x0F → Answers (.setFeaturesKeepAliveTimer n) s fun t => Ended t n.val 0 0 ∧ t.ctrl? k.ctrl = some { c with kato := k.dw 11 }) ∧
    (∀ h : Nat, k.fid = 0x81 → bitOf (k.dw 11) 0 = true → Answers (.setFeaturesHostIdentifier n h) s fun t => Ended t n.val 0 0 ∧
      ∃ y, t.ctrl? k.ctrl = some y ∧ y.hostId = h % 2 ^ 128) ∧
    (∀ x, s.ns? k.nsid = some x → k.nsid ∈ c.attach → k.nsid ≠ 0xFFFFFFFF →
      (k.fid = 0x82 → Answers (.setFeaturesResvNotificationMask n) s fun t => Ended t n.val 0 0 ∧
        t.ns? k.nsid = some { x with resv := { x.resv with mask := bits (k.dw 11) 1 3 * 2 } }) ∧
      (k.fid = 0x83 → Answers (.setFeaturesResvPersistence n) s fun t => Ended t n.val 0 0 ∧
        t.ns? k.nsid = some { x with resv := { x.resv with ptpl := bitOf (k.dw 11) 0 } }))

/-- Get Features, asynchronous event requests, Keep Alive and Fallow (R330, R331, R352, R377, R378, R652): a feature's value is
dword 0; a request waits or takes the oldest pending event; a controller idle for its APST time takes the state; Fallow is
entered once nothing is left to program, and left with the last operational states. Clauses that the manual leaves open rest
on log entries 14, 43, 44, 45. -/
def Obligations.FeaturesRead : Prop :=
  (∀ (n : SlotNo) (s : State) (k : Cmd) (c : Ctrl), Admitted s n.val k c →
    (k.isAdmin 0x0A = true → bits (k.dw 10) 8 3 ≤ 2 → Answers (.getFeatures n) s fun t =>
      Ended t n.val 0 (featValue s k c (decide (bits (k.dw 10) 8 3 ≠ 0)) % 2 ^ 32) ∧ t.nvq.ctrls = s.nvq.ctrls ∧
      t.out = (if featData s k c = [] then [] else [.page (fieldBytes (featData s k c))])) ∧
    (k.isAdmin 0x0A = true → bits (k.dw 10) 8 3 = 3 → Answers (.getFeatures n) s fun t =>
      Ended t n.val 0 (if k.fid = 0x82 ∨ k.fid = 0x83 then 6 else if k.fid = 0x06 ∨ k.fid = 0x07 then 0 else 4) ∧ t.out = []) ∧
    (k.isAdmin 0x0C = true → n.val ∉ c.aers → c.aers.length < 16 → (c.events = [] → Answers (.asyncEventRequest n) s fun t =>
        t.ctrl? k.ctrl = some { c with aers := c.aers ++ [n.val] } ∧ t.slot? n.val = some k) ∧
      ∀ a b p r, c.events = (a, b, p) :: r → Answers (.asyncEventRequest n) s fun t => Ended t n.val 0 (aenWord a b p % 2 ^ 32) ∧
        t.ctrl? k.ctrl = some { c with events := r }) ∧
    (k.isAdmin 0x18 = true → Answers (.keepAlive n) s fun t => Ended t n.val (if c.fabric = true then 0 else 1) 0)) ∧
  (∀ (i : CtrlId) (s : State) (c : Ctrl), s.ctrl? i = some c → c.enabled = true → Tab.get 0 c.feats 0x0C0000 ≠ 0 →
    bits (c.apst.getD c.ps 0) 8 24 ≠ 0 → ctrlSlots s i = [] → Answers (.apstTimer i) s fun t =>
      ∃ y, t.ctrl? i = some y ∧ y.ps = bits (c.apst.getD c.ps 0) 3 5) ∧
  (∀ s : State, (s.nvq.fallow = 1 → s.map.dirty = [] → s.map.pendingJ = [] → peatUnarch s = 0 → Answers .fallowEntryDone s fun t =>
      t.nvq.fallow = if s.nvq.wake = true then 3 else 2) ∧
    (s.nvq.fallow = 3 → Answers .fallowExitDone s fun t => t.nvq.fallow = 0 ∧ t.nvq.wake = false ∧
      ∀ i c, s.ctrl? i = some c → ∃ y, t.ctrl? i = some y ∧ y.ps = (if c.ps = 2 then c.lastOp else c.ps)))

/-- GET_LOG_PAGE, IDENTIFY and GET_LBA_STATUS answer their data with success (R330, R332, R387); an unsupported log page
completes with 0x109, an Identify that has no answer with its status. Clauses that the manual leaves open rest on log entry
43. -/
def Obligations.PagesAnswer : Prop :=
  (∀ (n : SlotNo) (s : State) (k : Cmd) (c : Ctrl) (p : List (Nat × Nat × Nat)), Admitted s n.val k c → k.isAdmin 0x02 = true →
    logPage s k.ctrl c (bits (k.dw 10) 0 8) (bits (k.dw 10) 8 7) = some p → k.dw 12 % 4 = 0 →
    Answers (.getLogPage n) s fun t => Ended t n.val 0 0 ∧
      t.out = [.page (window (k.dw 12 + 2 ^ 32 * k.dw 13) (4 * (bits (k.dw 10) 16 16 + 65536 * bits (k.dw 11) 0 16 + 1)) p)]) ∧
  (∀ (n : SlotNo) (s : State) (k : Cmd) (c : Ctrl), Admitted s n.val k c → k.isAdmin 0x02 = true →
    logPage s k.ctrl c (bits (k.dw 10) 0 8) (bits (k.dw 10) 8 7) = none →
    Answers (.getLogPage n) s fun t => Ended t n.val 0x109 0 ∧ t.out = []) ∧
  (∀ (n : SlotNo) (s : State) (k : Cmd) (c : Ctrl), Admitted s n.val k c → k.isAdmin 0x06 = true →
    (∀ p, identifyData s k c = .ok p → Answers (.identify n) s fun t => Ended t n.val 0 0 ∧ t.out = [.page (fieldBytes p)]) ∧
    (∀ e, identifyData s k c = .error e → Answers (.identify n) s fun t => Ended t n.val e 0 ∧ t.out = [])) ∧
  (∀ (n : SlotNo) (s : State) (k : Cmd) (c : Ctrl) (x : Namespace), Admitted s n.val k c → k.isAdmin 0x86 = true →
    s.ns? k.nsid = some x → k.nsid ∈ c.attach → bits (k.dw 13) 24 8 = 0x10 ∨ bits (k.dw 13) 24 8 = 0x11 →
    k.slba < nsBlocks s k.nsid x →
    Answers (.getLbaStatus n) s fun t => Ended t n.val 0 0 ∧ ∃ l, t.out = [.page l])

/-- The reservation commands (R330, R354, by NVMe Base 2.0): a host registers its key; a registered host acquires where no
reservation is held; the holder releases; an extended report answers. Clauses that the manual leaves open rest on log entry
41. -/
def Obligations.Reservations : Prop :=
  (∀ (n : SlotNo) (s : State) (k : Cmd) (c : Ctrl) (x : Namespace) (cr nr : Nat), Admitted s n.val k c → k.isIo 0x0D = true →
    s.ns? k.nsid = some x → bits (k.dw 10) 0 3 = 0 → x.resv.registered (hostOf c) = false →
    Answers (.reservationRegister n cr nr) s fun t => Ended t n.val 0 0 ∧ ∃ y, t.ns? k.nsid = some y ∧
      y.resv.regs = x.resv.regs ++ [(hostOf c, nr % 2 ^ 64)] ∧ y.resv.rtype = x.resv.rtype ∧ y.resv.holder = x.resv.holder ∧
      y.resv.gen = x.resv.gen + 1 ∧ y = { x with resv := y.resv }) ∧
  (∀ (n : SlotNo) (s : State) (k : Cmd) (c : Ctrl) (x : Namespace) (cr pr : Nat), Admitted s n.val k c → k.isIo 0x11 = true →
    s.ns? k.nsid = some x → bits (k.dw 10) 0 3 = 0 → bits (k.dw 10) 8 8 ∈ [1, 2, 3, 4, 5, 6] → x.resv.keyOk (hostOf c) cr = true →
    x.resv.rtype = 0 → Answers (.reservationAcquire n cr pr) s fun t => Ended t n.val 0 0 ∧
      t.ns? k.nsid = some { x with resv := { x.resv with rtype := bits (k.dw 10) 8 8, holder := hostOf c } }) ∧
  (∀ (n : SlotNo) (s : State) (k : Cmd) (c : Ctrl) (x : Namespace) (cr pr : Nat), Admitted s n.val k c → k.isIo 0x11 = true →
    s.ns? k.nsid = some x → bits (k.dw 10) 0 3 = 0 → bits (k.dw 10) 8 8 ∈ [1, 2, 3, 4, 5, 6] → x.resv.keyOk (hostOf c) cr = false →
    Answers (.reservationAcquire n cr pr) s fun t => Ended t n.val 0x18 0 ∧ t.ns? k.nsid = some x) ∧
  (∀ (n : SlotNo) (s : State) (k : Cmd) (c : Ctrl) (x : Namespace) (cr : Nat), Admitted s n.val k c → k.isIo 0x15 = true →
    s.ns? k.nsid = some x → bits (k.dw 10) 0 3 = 0 → bits (k.dw 10) 8 8 = x.resv.rtype → x.resv.keyOk (hostOf c) cr = true →
    x.resv.holds (hostOf c) = true → x.resv.rtype < 3 → Answers (.reservationRelease n cr) s fun t => Ended t n.val 0 0 ∧
      t.ns? k.nsid = some { x with resv := { x.resv with rtype := 0, holder := 0 } }) ∧
  (∀ (n : SlotNo) (s : State) (k : Cmd) (c : Ctrl) (x : Namespace), Admitted s n.val k c → k.isIo 0x0E = true →
    s.ns? k.nsid = some x → bitOf (k.dw 11) 0 = true → Answers (.reservationReport n) s fun t => Ended t n.val 0 0 ∧
      t.out = [.page (window 0 (4 * (k.dw 10 + 1)) (resvReport s k.nsid x.resv))])

/-- Create, delete, attach and detach (R70, R330, R334, R355, R496, R498). Format and Sanitize (R330, R389, R497, R498): every
tract is UNMAPPED; a replaced key's slot drains for the command; while the generator is down a key replacement waits; the
exit clears the failed state. Clauses that the manual leaves open rest on log entry 42. -/
def Obligations.NamespacesManagedAndErased : Prop :=
  (∀ (n : SlotNo) (d : NsCreate) (s : State) (k : Cmd) (c : Ctrl) (id : Nat), Admitted s n.val k c → k.isAdmin 0x0D = true →
    bits (k.dw 10) 0 4 = 0 → tplBusy s = false → s.cip.drbgUp = true → (createNs d s.begin).1 = (0, id) →
    Answers (.namespaceCreate n d) s fun t => Ended t n.val 0 (id % 2 ^ 32) ∧ ∃ y, t.ns? id = some y ∧
      y.lbaShift = (if d.lbaf = 0 then 9 else 12) ∧ y.wseq = 1 ∧ y.created = s.life.now ∧
      (Tab.get {} t.cip.slots y.slot).state = 1 ∧ (Tab.get {} t.cip.slots y.slot).nsid = id) ∧
  (∀ (n : SlotNo) (s : State) (k : Cmd) (c : Ctrl) (x : Namespace), Admitted s n.val k c → k.isAdmin 0x0D = true →
    bits (k.dw 10) 0 4 = 1 → k.nsid ≠ 0xFFFFFFFF → s.ns? k.nsid = some x → drainsFor s n.val = false →
    Answers (.namespaceDelete n) s fun t => t.ns? k.nsid = none ∧ (Tab.get {} t.cip.slots x.slot).state = 2 ∧
      (Tab.get {} t.cip.slots x.slot).cmd = some n.val ∧ (Tab.get {} t.cip.slots x.slot).nextKey = none) ∧
  (∀ (n : SlotNo) (l : List Nat) (s : State) (k : Cmd) (c : Ctrl) (x : Namespace), Admitted s n.val k c → k.isAdmin 0x15 = true →
    bits (k.dw 10) 0 4 = 0 → s.ns? k.nsid = some x → x.importing = false → l ≠ [] →
    (∀ i ∈ l, ∃ y, s.ctrl? i = some y ∧ k.nsid ∉ y.attach) → Answers (.namespaceAttach n l) s fun t => Ended t n.val 0 0 ∧
      ∀ i ∈ l, ∃ y, t.ctrl? i = some y ∧ k.nsid ∈ y.attach) ∧
  (∀ (n : SlotNo) (l : List Nat) (s : State) (k : Cmd) (c : Ctrl) (x : Namespace), Admitted s n.val k c → k.isAdmin 0x15 = true →
    bits (k.dw 10) 0 4 = 1 → s.ns? k.nsid = some x → l ≠ [] → (∀ i ∈ l, ∃ y, s.ctrl? i = some y ∧ k.nsid ∈ y.attach) →
    Answers (.namespaceDetach n l) s fun t => Ended t n.val 0 0 ∧ ∀ i ∈ l, ∃ y, t.ctrl? i = some y ∧ k.nsid ∉ y.attach) ∧
  (∀ (n : SlotNo) (s : State) (k : Cmd) (c : Ctrl) (x : Namespace), Admitted s n.val k c → k.isAdmin 0x80 = true →
    s.ns? k.nsid = some x → drainsFor s n.val = false → bits (k.dw 10) 9 3 = 0 ∨ bits (k.dw 10) 9 3 = 2 ∧ s.cip.drbgUp = true →
    bits (k.dw 10) 0 4 = 0 ∧ 9 ≤ x.leafShift ∨ bits (k.dw 10) 0 4 = 1 ∧ 12 ≤ x.leafShift →
    Answers (.formatNvm n) s fun t => (∀ l ∈ nsLtns s k.nsid, (tractOf t l).state = .unmapped) ∧
      (∃ y, t.ns? k.nsid = some y ∧ y.lbaShift = (if bits (k.dw 10) 0 4 = 0 then 9 else 12) ∧ y.zones = [] ∧ y.slot = x.slot) ∧
      (bits (k.dw 10) 9 3 = 2 → (Tab.get {} t.cip.slots x.slot).state = 2 ∧ (Tab.get {} t.cip.slots x.slot).cmd = some n.val ∧
        (Tab.get {} t.cip.slots x.slot).nextKey = some (Config.drbg s.cip.keysMade))) ∧
  (∀ (n : SlotNo) (s : State) (k : Cmd) (c : Ctrl), Admitted s n.val k c → k.isAdmin 0x84 = true → k.sanact = 4 →
    drainsFor s n.val = false → s.cip.drbgUp = true → Answers (.sanitizeCryptoErase n) s fun t =>
      (s.nvq.ns = [] → Ended t n.val 0 0) ∧
      (∀ m x, s.ns? m = some x → (∀ l ∈ nsLtns s m, (tractOf t l).state = .unmapped) ∧
        (Tab.get {} t.cip.slots x.slot).state = 2 ∧ (Tab.get {} t.cip.slots x.slot).cmd = some n.val)) ∧
  (∀ (n : SlotNo) (s : State) (k : Cmd) (c : Ctrl), Admitted s n.val k c → k.isAdmin 0x84 = true → k.sanact = 4 →
    drainsFor s n.val = false → s.cip.drbgUp = false → Answers (.sanitizeCryptoErase n) s fun t =>
      n.val ∈ t.cip.waiters ∧ t.map = s.map ∧ t.slot? n.val = some { k with waits := true }) ∧
  (∀ (n : SlotNo) (s : State) (k : Cmd) (c : Ctrl), Admitted s n.val k c → k.isAdmin 0x84 = true → k.sanact = 1 →
    Answers (.sanitizeExitFailureMode n) s fun t => Ended t n.val 0 0 ∧
      ∀ m x, s.ns? m = some x → t.ns? m = some { x with sanitize := if x.sanitize = 3 then 0 else x.sanitize })

/-- SLUICE_ADMIT and SLUICE_READ_RELEASE (R361, R401, R405, R406): a fetched command whose controller stands, with nothing in
the way, is refused with its status, waits with PACING at the dirty limit, or is admitted under its class; a read is
released to a die while fewer than DIE_Q are out there and its class is below its ceiling. SLUICE_PERIOD,
MERGE_CREDIT_ACCRUE and FORCED_FOLD (R396, R403, R408, R411, R412). Clauses that the manual leaves open rest on log entries
35, 36. -/
def Obligations.SluiceRules : Prop :=
  ((∀ (n : SlotNo) (s : State) (k : Cmd) (c : Ctrl), s.slot? n.val = some k → s.ctrl? k.ctrl = some c → k.state = .fetched →
    s.nvq.act = 0 → s.pwr.decided = false → s.nvq.fallow = 0 → s.tmon.hold = false → Answers (.sluiceAdmit n) s fun t =>
      (cmdRefuses s.begin k c ≠ 0 → ∃ u, t.slot? n.val = some u ∧ u.state = .finished ∧ u.status = cmdRefuses s.begin k c) ∧
      (cmdRefuses s.begin k c = 0 → (k.changes || k.isIo 0x19) = false →
        t.slot? n.val = some { k with state := .admitted, cls := classify s k.ctrl k.nsid k.sqid }) ∧
      (cmdRefuses s.begin k c = 0 → (k.changes || k.isIo 0x19) = true → dirtyNeed s k ≠ 0 → overLimit s (dirtyNeed s k) = true →
        t.slot? n.val = some k ∧ t.rd F.SLU_STAT_PACING = 1) ∧
      t = { s with regs := t.regs, nvq := t.nvq, out := t.out }) ∧
  (∀ (n : SlotNo) (l : Link) (d : Fin 32) (s : State) (k : Cmd), s.slot? n.val = some k → k.state = .admitted → k.reads = true →
    s.pwr.decided = false → releasedOn s (32 * l.val + d.val) < bits s.slu.ctl 0 4 → (n.val, 32 * l.val + d.val) ∉ s.slu.out →
    Answers (.sluiceReadRelease n l d) s fun t =>
      t = { s with regs := t.regs, slu := t.slu, out := [] } ∧ SameBut [(F.SLU_EVT_CEIL_HIT, 0)] s.regs t.regs ∧
      (atCeiling s l.val d.val k.cls = true → t.rd F.SLU_EVT_CEIL_HIT = 1 ∧ t.slu = s.slu) ∧
      (atCeiling s l.val d.val k.cls = false → t.regs = s.regs ∧
        t.slu = { s.slu with out := s.slu.out ++ [(n.val, 32 * l.val + d.val)] }))) ∧
  ((∀ s : State, Answers .sluicePeriod s fun t =>
    t.rd F.SLU_STAT_PERIOD = (s.rd F.SLU_STAT_PERIOD + 1) % 65536 ∧ t.rd F.SLU_STAT_SCALE ≤ 1000 ∧
    t.slu.charge = [] ∧ t.slu.pendLot = none ∧ t.slu.lot = s.slu.pendLot.getD s.slu.lot ∧
    (∀ k, Tab.get 0 t.slu.debt k = Tab.get 0 s.slu.charge k + Tab.get 0 s.slu.debt k - (classRec s (k % 256)).dieCeil) ∧
    t.slu.ctl = s.rd F.SLU_CTL_DIE_Q + 2 ^ 8 * s.rd F.SLU_CTL_FOLD_FLOOR + 2 ^ 16 * s.rd F.SLU_CTL_META_FLOOR ∧
    t.fen.pendShare = none ∧
    t = { s with regs := t.regs, free := s.free + 1, slu := t.slu, fen := t.fen, out := [] } ∧ SameOutside [0x40] s.regs t.regs) ∧
  (∀ (cls : BitVec 8) (n : Nat) (s : State), Answers (.mergeCreditAccrue cls n) s fun t =>
    t = { s with slu := t.slu, out := [] } ∧
    (classUse t cls.toNat).debit = max 0 ((classUse s cls.toNat).debit - ((classRec s cls.toNat).mergeRate * n : Nat)) ∧
    ∀ c, c ≠ cls.toNat → classUse t c = classUse s c) ∧
  (∀ (s : State) (l : Nat), heldByFilling s = true → fullestTract s false = some l → (tractOf s l).state = .filling →
    s.map.copies.find l = none → s.map.folds.find l = none → tractFrontier s l < 2048 → (tractStripe l s.begin).isSome = true →
    Answers .forcedFold s fun t => t.rd F.SLU_EVT_FORCED_FOLD = 1 ∧ t.map.folds.find l = some { upto := 2048 }) ∧
  (∀ s : State, heldByFilling s = false → Answers .forcedFold s fun t => t = s.begin))

/-- Destaging, folds, copies, the journal and checkpoints (R76, R77, R83 to R87, R95, R97, R181): a whole row goes to the next
free Sump row; a fold ends with its rows below FRONTIER; a merge or a copy starts on a new stripe and its commit repoints
the tract; a background erase frees or spoils the block; a programmed journal row is durable; a checkpoint is taken and
kept. Clauses that the manual leaves open rest on log entries 10, 13, 35. -/
def Obligations.TractsAndJournal : Prop :=
  (∀ (l : Ltn) (row : Nat) (c : RowCause) (s : State) (id : Nat) (e : Stripe), rowCauseHolds s l row c = true → rowDirty s l row ≠ [] →
    (∀ d ∈ rowDirty s l row, d.2.toLog = false) → (rowDirty s l row).length = rowUnits s →
    (stripesWhere s (fun id e => decide (e.kind = 2 ∧ e.frontier < 512 ∧ id ∉ s.pwr.reserve))).head? = some (id, e) →
    Answers (.sumpRowProgram l row c none) s fun t =>
      t.map.core.rows.find (2048 * l + row) = some (id, (stripeOf s id).frontier) ∧
      ∀ d ∈ rowDirty s l row, t.map.dirty.find d.1 = none) ∧
  (∀ (l : Ltn) (row : Nat) (s : State), rowDirty s l row ≠ [] → Answers (.rowIdleTimeout l row) s fun t =>
    t.map.rowIdle.find (2048 * l + row) = some true ∧ t.map.core = s.map.core) ∧
  (∀ (l : Ltn) (c : FoldCause) (s : State) (n : Nat), foldUpto s l c = some n → (tractOf s l).state = .filling →
    s.map.copies.find l = none → s.map.folds.find l = none → tractFrontier s l < n → (tractOf s l).stripe ≠ 0xFFFFFFFF →
    Answers (.foldStart l c) s fun t => ∃ j, t.map.folds.find l = some j ∧ j.upto = n) ∧
  (∀ (l : Ltn) (s : State) (j : FoldJob), s.map.folds.find l = some j → (tractOf s l).state = .filling →
    Answers (.foldDone l none) s fun t => t.map.folds.find l = none ∧ (stripeOf t (tractOf s l).stripe).frontier = j.upto ∧
      (j.upto = 2048 → (tractOf t l).state = .folded)) ∧
  (∀ (l : Ltn) (d : Bool) (s : State) (f id : Nat) (u : State), mergeCause s l d = true → s.map.copies.find l = none →
    s.map.folds.find l = none → (tractOf s l).state ≠ .unmapped → mergeRoom s (oldestClass s l) = true →
    copyFen s l (copyMust s l) false = some (f, false) → openStripe f 1 false l s.begin = some (id, u) →
    (∀ h, (openLog l (tractOf s l).log h u).isSome = true) → Answers (.mergeStart l d) s fun t =>
      (tractOf t l).state = .merging ∧ ∃ c, t.map.copies.find l = some c ∧ c.merge = true ∧ c.newStripe = id ∧ c.oldLog = (tractOf s l).log) ∧
  (∀ (l : Ltn) (s : State) (c : CopyJob), s.map.copies.find l = some c →
    (c.merge = true → Answers (.mergeCommit l) s fun t => t.map.copies.find l = none ∧ (tractOf t l).stripe = c.newStripe ∧
      (tractOf t l).state = .folded ∧ t.rd F.MAP_MERGES_COUNT = min (2 ^ F.MAP_MERGES_COUNT.width - 1) (s.rd F.MAP_MERGES_COUNT + 1)) ∧
    (c.merge = false → Answers (.refreshCopyCommit l) s fun t => t.map.copies.find l = none ∧ (tractOf t l).stripe = c.newStripe ∧
      (tractOf t l).state = (if (tractOf s l).state = .moving then .folded else (tractOf s l).state) ∧
      Tab.get 0 t.ret.health 5 = Tab.get 0 s.ret.health 5 + 1)) ∧
  (∀ (l : Ltn) (s : State) (f id : Nat) (u : State), tractDue s l = true → (tractOf s l).log = none → s.map.copies.find l = none →
    s.map.folds.find l = none → (tractOf s l).stripe ≠ 0xFFFFFFFF → (tractOf s l).state = .folded →
    copyFen s l (decide ((tractOf s l).stripe ∈ s.ret.due)) false = some (f, false) → openStripe f 1 false l s.begin = some (id, u) →
    Answers (.refreshCopyStart l false) s fun t => (tractOf t l).state = .moving ∧ ∃ c, t.map.copies.find l = some c ∧
      c.merge = false ∧ c.newStripe = id) ∧
  (∀ (l : Link) (b : Nat) (s : State), (s.block l.val b).use = .freed →
    (Answers (.blockBackgroundErase l b true) s fun t => (t.block l.val b).use = .free ∧
      (t.block l.val b).wear = min 65535 ((s.block l.val b).wear + (if (s.block l.val b).slc then 1 else 16)) ∧
      ∀ e ∈ t.map.media, e.1 / 8192 ≠ 1048576 * l.val + b) ∧
    (Answers (.blockBackgroundErase l b false) s fun t => (t.block l.val b).use = .spoiled ∧ ∃ e, t.map.core.spoil = s.map.core.spoil ++ [e] ∧
      e.link = l.val ∧ e.block = b ∧ e.reason = 2)) ∧
  (∀ (s : State) (id : Nat) (e : Stripe), s.map.pendingJ ≠ [] →
    (stripesWhere s (fun _ e => decide (e.kind = 5 ∧ e.frontier < 512))).head? = some (id, e) →
    (∀ w, rowFull s = true ∨ (w = true ∧ journalWaiter s = true) → Answers (.journalRowProgram w true) s fun t =>
      t.map.durableJ = s.map.durableJ ++ s.map.pendingJ.take (rowTakes (128 * rowUnits s) 0 s.map.pendingJ)) ∧
    (Answers .journalRowTimeout s fun t =>
      t.map.durableJ = s.map.durableJ ++ s.map.pendingJ.take (rowTakes (128 * rowUnits s) 0 s.map.pendingJ))) ∧
  (∀ s : State, (∀ id u, s.map.ckptNew = none → metaStripe 4 s.begin = some (id, u) →
      ∀ i ∈ [Instr.checkpointTimer, Instr.checkpointNow .custodian], Answers i s fun t => t.rd F.MAP_STATUS_CKPT_BUSY = 1 ∧ ∃ c,
        t.map.ckptNew = some c ∧ c.number = s.map.ckptNo + 1 ∧ c.stripe = id ∧ c.core = u.map.core) ∧
    (∀ p, s.map.ckptNew ≠ none → Answers (.checkpointNow p) s fun t => t = s.begin)) ∧
  (∀ (s : State) (c : Checkpoint), s.map.ckptNew = some c → Answers .checkpointMarkDurable s fun t => t.map.ckptNew = none ∧
    t.map.ckpts = (c :: s.map.ckpts).take 2 ∧ t.map.anchorSeq = s.map.anchorSeq + 1 ∧ t.rd F.MAP_STATUS_CKPT_BUSY = 0) ∧
  (∀ (id : StripeId) (s : State), (∀ e ∈ s.map.pendingJ, e.2 ≠ .stripeFree id) → Answers (.stripeIdReuseDelay id) s fun t =>
    id ∉ t.map.reuse ∧ t.map.core = s.map.core)

/-- Rebuild jobs (R115, R116, R120, R121): the job that is first in order starts on the target of R116, waits where there is
none, and puts a member under drain out of service; a finished job maps the slot to its target for good, and waits where a
row of its stripe needs a member that may return. Benches and the rebuild share (R126, R128, R130): with no member worn out
every fen's bench, tolerance and rebuild bit follow its stripes and members; bench 5 ends when a fen holds bench 0 or 1; a
refresh in place leaves its stripe no longer due; FEN_REBUILD_CTL waits as written for the next Sluice period; the device
clears HOLD. Clauses that the manual leaves open rest on log entries 31, 76. -/
def Obligations.RebuildJobsAndBenches : Prop :=
  (∀ (id : StripeId) (slot : Fin 28) (s : State), slotNeedsJob s id slot.val = true → jobOn s id = false → s.fen.hold = false →
    jobFirst s id = true → (absentSlots s id).length ≤ geoP s →
    (∀ m b, jobTarget s id = some (m, b) → Answers (.rebuildJobStart id slot) s fun t =>
      t.fen.jobs = s.fen.jobs ++ [{ stripe := id, slot := slot.val, target := blockAddr m b true, drain := slotDrains s id slot.val }] ∧
      (t.block (memberLink s (stripeFen id) m) b).use = .open ∧ (t.block (memberLink s (stripeFen id) m) b).stripe = id ∧
      (id, slot.val) ∉ t.fen.waiting) ∧
    (jobTarget s id = none → Answers (.rebuildJobStart id slot) s fun t => t.fen.jobs = s.fen.jobs ∧
      (id, slot.val) ∈ t.fen.waiting ∧ (slotDrains s id slot.val = true → ∀ a, (stripeOf s id).slots[slot.val]? = some a →
        t.fen.absent.find (addrPlace s (stripeFen id) a).1 = some .rebuilding))) ∧
  (∀ (id : StripeId) (slot : Fin 28) (s : State), slotNeedsJob s id slot.val = false ∨ jobOn s id = true ∨ s.fen.hold = true →
    Answers (.rebuildJobStart id slot) s fun t => t = s.begin) ∧
  (∀ (id : StripeId) (slot : Fin 28) (s : State) (j : RebuildJob) (a : Nat),
    s.fen.jobs.find? (fun j => decide (j.stripe = id ∧ j.slot = slot.val)) = some j →
    (stripeOf s id).slots[slot.val]? = some a → s.map.releases = [] →
    (placesWait s id = false → Answers (.rebuildJobDone id slot true) s fun t =>
      t.fen.jobs = s.fen.jobs.filter (fun x => decide (x.stripe ≠ id)) ∧ (stripeOf t id).slots[slot.val]? = some j.target ∧
      bitOf (stripeOf t id).absent slot.val = false ∧
      (s.map.jseq, JRec.slotSet id slot.val j.target) ∈ t.map.pendingJ ++ t.map.durableJ) ∧
    (placesWait s id = true → Answers (.rebuildJobDone id slot true) s fun t => t = s.begin)) ∧
  (∀ (id : StripeId) (slot : Fin 28) (ok : Bool) (s : State),
    s.fen.jobs.find? (fun j => decide (j.stripe = id ∧ j.slot = slot.val)) = none →
    Answers (.rebuildJobDone id slot ok) s fun t => t = s.begin) ∧
  (∀ (f : Nat) (s : State), fenCount s ≤ 16 → f < fenCount s → (∀ l, wornOut s l = false) →
    Answers .benchEvaluate s fun t => t.rd F.FEN_STATE_BENCH f = benchOf s f (geoP s - worstAbsent s f) ∧
      t.rd F.FEN_STATE_TOLERANCE f = (geoP s - worstAbsent s f) % 16 ∧
      (t.rd F.FEN_STATE_REBUILDING f = 1 ↔ jobsLeft s f ≠ [])) ∧
  (∀ (f : Fen) (s : State), s.fen.bench5 = true → s.rd F.FEN_STATE_BENCH f.val ≤ 1 →
    Answers (.bench5ExitTimer f) s fun t => t.fen = { s.fen with bench5 := false } ∧ t.rd F.FEN_EVT_BENCH_CHANGE = 1) ∧
  (∀ (id : StripeId) (x : Option (Fin 28)) (s : State), s.fen.bench5 = true → id ∈ s.ret.due → inPlaceRoom s = true →
    Answers (.refreshInPlace id x) s fun t => id ∉ t.ret.due ∧ (∀ k ∈ s.ret.due, k ≠ id → k ∈ t.ret.due) ∧
      Tab.get 0 t.ret.health 5 = Tab.get 0 s.ret.health 5 + 1) ∧
  (∀ (p : AccessPath) (v : Word) (s : State), fenCount s ≤ 16 → 10 ≤ v.toNat % 128 → v.toNat % 128 ≤ 90 → v.toNat % 128 % 5 = 0 →
    v.toNat / 256 % 128 ≤ 90 →
    Answers (.rebuildCtlWrite p v) s fun t => t.rd F.FEN_REBUILD_CTL_SHARE = v.toNat % 128 ∧
      t.rd F.FEN_REBUILD_CTL_BOOST = v.toNat / 256 % 128 ∧
      t.rd F.FEN_REBUILD_CTL_HOLD = (if expertOpen s p then v.toNat / 65536 % 2 else s.rd F.FEN_REBUILD_CTL_HOLD) ∧
      t.fen = { s.fen with pendShare := some (v.toNat % 128, max (v.toNat % 128) (v.toNat / 256 % 128),
        decide (t.rd F.FEN_REBUILD_CTL_HOLD = 1)) }) ∧
  (∀ s : State, s.rd F.FEN_REBUILD_CTL_HOLD = 1 → Answers .rebuildHoldTimeout s fun t => t.rd F.FEN_REBUILD_CTL_HOLD = 0 ∧
    t.fen = { s.fen with pendShare := some (s.rd F.FEN_REBUILD_CTL_SHARE,
      max (s.rd F.FEN_REBUILD_CTL_SHARE) (s.rd F.FEN_REBUILD_CTL_BOOST), false) })

/-- Thermal age, measurements and witnesses (R135, R136, R140, R141, R148): a second ages every member by its temperature;
the counters are saved; a sampled page sets its block's measured rate; a stripe is due when evaluation says so; a
reprogrammed witness group starts from the member's counter for 480 days. Dredge passes (R150, R153, R154): a pass is queued
with the next PASS_ID or refused; a queued or running Custodian pass is aborted; a running pass counts what a stripe check
found; its cursor is journalled; it ends complete. Clauses that the manual leaves open rest on log entries 89, 91. -/
def Obligations.RetentionAndDredge : Prop :=
  (∀ (l : Nat) (s : State) (T : Int), ageTemp s l = some T → l ≠ 0xFFFF →
    ((memberKeys s).map (fun k => memberLink s (k / 32) (k % 32))).Nodup → l ∈ (memberKeys s).map (fun k => memberLink s (k / 32) (k % 32)) →
    Answers .thermalTick s fun t => Tab.get 0 t.ret.thermal l =
      (Tab.get 0 s.ret.thermal l + arrhenius (eaOf s l) T) % (2 ^ 64 * 1000000)) ∧
  (∀ s : State, Answers .thermalSave s fun t => t.ret = { s.ret with savedThermal := s.ret.thermal } ∧
    t.life = { s.life with lastAlive := s.life.now }) ∧
  (∀ (l : Link) (b : Nat) (c : List Nat) (s : State), restsEarly s = false → (s.block l.val b).use = .open ∨ (s.block l.val b).use = .full →
    Answers (.samplerRead l b (if (s.block l.val b).slc then 256 else 1024) c) s fun t =>
      (t.block l.val b).measRber = min 65535 (c.foldl max 0 * 1000000 / 36864) ∧
      (t.block l.val b).measAge = min 0xFFFFFF (ageHours s l.val b) ∧ bitOf (t.block l.val b).flags 0 = true) ∧
  (∀ (id : StripeId) (s : State), (stripeOf s id).kind ≠ 0 → (∀ r ∈ s.map.releases, r.2 ≠ id) →
    Answers (.stripeEvaluate id) s fun t => (evaluateStripe s id = .due → id ∈ t.ret.due) ∧
      (evaluateStripe s id = .early → id ∉ s.ret.due → id ∈ t.ret.early) ∧
      (evaluateStripe s id = .ok → t.ret.due = s.ret.due ∧ id ∉ t.ret.early) ∧
      (∀ k ∈ s.ret.due, k ∈ t.ret.due)) ∧
  (∀ (l : Link) (g : Fin 16) (ok : Bool) (s : State) (w : Witness), s.ret.witness.find (16 * l.val + g.val) = some w →
    w.due ≤ s.life.now → Answers (.witnessReprogram l g ok) s fun t => t.ret.witness.find (16 * l.val + g.val) =
      some { base := if ok then Tab.get 0 s.ret.thermal l.val else w.base, due := s.life.now + 41472000, ready := ok }) ∧
  (∀ (p : AccessPath) (s : State), ¬(4 ≤ passesIn s 1 ∧ 16 ≤ passesIn s 0) → (∀ q ∈ s.ret.passes, q.id ≠ s.ret.nextPass) →
    Answers (.dredgeStart p) s fun t => t.ret.nextPass = passAfter s.ret.nextPass ∧ ∃ q ∈ t.ret.passes, q.id = s.ret.nextPass ∧
      q.first = s.rd F.RET_DREDGE_FIRST_LTN ∧ q.count = s.rd F.RET_DREDGE_COUNT_COUNT ∧ (q.state = 0 ∨ q.state = 1)) ∧
  (∀ (p : AccessPath) (s : State), 4 ≤ passesIn s 1 → 16 ≤ passesIn s 0 →
    Answers (.dredgeStart p) s fun t => t.ret = s.ret ∧ t.rd F.RET_DREDGE_STAT_REFUSED = 1) ∧
  (∀ (a : AccessPath) (s : State) (p : DredgePass), passOf s (s.rd F.RET_DREDGE_SEL_PASS_ID) = some p → p.origin = 0 → p.state ≤ 1 →
    Answers (.dredgeAbort a) s fun t => passOf t p.id = some { p with state := 3, ended := s.life.now }) ∧
  (∀ (n : Nat) (id : StripeId) (g : DredgeFinding) (s : State) (p : DredgePass), passOf s n = some p → p.state = 1 →
    s.boot.done = true → passLeft s p id = true → passReady s p id = true → restsEarly s = false → fenRebuilding s (stripeFen id) = false →
    Answers (.dredgeStripeCheck n id g) s fun t => ∃ q, passOf t n = some q ∧ q.state = 1 ∧ q.cursor = p.cursor + 1 ∧
      q.seen = p.seen ++ [id] ∧ q.cwChecked = p.cwChecked + passWords s id ∧ q.tagsBad = p.tagsBad + g.tagsFailed ∧
      q.parity = p.parity + g.parityMismatch ∧ q.skipped = p.skipped + ((stripeUnits s id).filter (fun x => passSkips s x.1 x.2)).length) ∧
  (∀ (n : Nat) (id : StripeId) (g : DredgeFinding) (s : State) (p : DredgePass), passOf s n = some p → p.state = 1 →
    s.boot.done = true → passLeft s p id = true → passReady s p id = true → restsEarly s = false → fenRebuilding s (stripeFen id) = true →
    Answers (.dredgeStripeCheck n id g) s fun t => t.rd F.FEN_STATE_DREDGE_HELD (stripeFen id) = 1 ∧ t.ret = s.ret) ∧
  (∀ (n : Nat) (s : State) (p : DredgePass), passOf s n = some p → p.state = 1 → p.origin = 0 →
    Answers (.dredgeCursorTimer n) s fun t => passOf t n = some { p with journalled := p.cursor }) ∧
  (∀ (n : Nat) (s : State) (p : DredgePass), passOf s n = some p → p.state = 1 → s.boot.done = true →
    (stripesWhere s (fun id _ => passLeft s p id)).isEmpty = true →
    Answers (.dredgePassEnd n) s fun t => passOf t n = some { p with state := 2, ended := s.life.now } ∧
      (p.origin = 0 → p.count = 0 → Tab.get 0 t.ret.health 6 = s.life.now))

/-- R199, R206, R209, R210, R218: what a decode does to a code word's ladder. Each failed step gives way to the next one in the
table's order, a step disabled by the ladder's control fields being passed over; reconstruction is entered only where the
erasure set stays within p; the first mismatch in HARD is re-read once and a second identity mismatch skips the deeper
steps. The race, learned vectors and the tests of pooled units (R35, R205, R209, R214, R487, R488). Clauses that the manual
leaves open rest on log entries 25, 33, 76. -/
def Obligations.ReadPathSteps : Prop :=
  (∀ (n : Nat) (s : State) (l : Ladder), s.ldpc.ladders.find n = some l → l.result = 0 →
    (l.step = .hard → n ∉ s.ldpc.softHeld → Answers (.decodeDone n .failed) s fun t =>
      t.ldpc.ladders.find n = some { l with step := .retry, attempts := 0, bank := some (retryBank s) } ∧
      t.rd F.LDPC_HIST_COUNT 7 = if l.reread then s.rd F.LDPC_HIST_COUNT 7 else min (2 ^ 32 - 1) (s.rd F.LDPC_HIST_COUNT 7 + 1)) ∧
    (∀ v, l.step = .retry → n ∉ s.ldpc.softHeld → s.ldpc.vecs.find n = some v →
      l.attempts + 1 < min l.retryMax v.plan.length → Answers (.decodeDone n .failed) s fun t =>
      t.ldpc.ladders.find n = some { l with attempts := l.attempts + 1 }) ∧
    (∀ v, l.step = .retry → s.ldpc.vecs.find n = some v → min l.retryMax v.plan.length ≤ l.attempts + 1 → l.softLevels ≠ 0 →
      softDepth s < 4096 →
      Answers (.decodeDone n .failed) s fun t =>
        t.ldpc.ladders.find n = some { l with attempts := l.attempts + 1, step := .soft2 }) ∧
    (l.step = .soft2 → 2 ≤ l.softLevels → Answers (.decodeDone n .failed) s fun t =>
      t.ldpc.ladders.find n = some { l with step := .soft3 }) ∧
    (l.step = .soft3 ∨ l.step = .soft2 ∧ l.softLevels < 2 → Answers (.decodeDone n .failed) s fun t =>
      (reconAllowed s l = true → t.ldpc.ladders.find n = some { l with step := .recon }) ∧
      (reconAllowed s l = false → t.ldpc.ladders.find n = some { l with step := .done, result := 2 } ∧
        t.rd F.LDPC_CNT_UNRECOV_COUNT = min (2 ^ 32 - 1) (s.rd F.LDPC_CNT_UNRECOV_COUNT + 1))) ∧
    (l.step = .recon → Answers (.decodeDone n .failed) s fun t =>
      t.ldpc.ladders.find n = some { l with step := .done, result := 2 } ∧
      t.rd F.LDPC_CNT_UNRECOV_COUNT = min (2 ^ 32 - 1) (s.rd F.LDPC_CNT_UNRECOV_COUNT + 1)) ∧
    (∀ b, l.step = .hard → l.reread = false → Answers (.decodeDone n (.mismatch b)) s fun t =>
      t.ldpc.ladders.find n = some { l with reread := true, mismatched := true } ∧
      t.rd F.LDPC_CNT_MISMATCH_COUNT = s.rd F.LDPC_CNT_MISMATCH_COUNT) ∧
    (l.step = .hard → l.reread = true → Answers (.decodeDone n (.mismatch true)) s fun t =>
      (∃ u, t.ldpc.ladders.find n = some u ∧ (u.step = .recon ∨ u.step = .done ∧ u.result = 2))) ∧
    (∀ f g c, l.raced = false → f = true ∨ g = true → Answers (.decodeDone n (.accepted f false g c)) s fun t =>
      t.ldpc.ladders.find n = some { l with step := .done, result := 1 } ∧
      (l.step = .hard → t.rd F.LDPC_CNT_HARD_OK_COUNT = min (2 ^ 32 - 1) (s.rd F.LDPC_CNT_HARD_OK_COUNT + 1))) ∧
    (∀ c, l.step ≠ .recon → Answers (.decodeDone n (.accepted false false false c)) s fun t =>
      (∃ u, t.ldpc.ladders.find n = some u ∧ (u.step = .recon ∨ u.step = .done ∧ u.result = 2))) ∧
    (∀ f g c, Answers (.decodeDone n (.accepted f true g c)) s fun t =>
      t.ldpc.ladders.find n = some { l with step := .done, result := 2 })) ∧
  ((∀ (n : Nat) (s : State) (l : Ladder), s.ldpc.ladders.find n = some l → l.result = 0 → l.host = true →
    l.step = .retry ∨ l.step = .soft2 ∨ l.step = .soft3 → Answers (.raceTimeout n) s fun t =>
      t = { s with ldpc := t.ldpc, out := [] } ∧
      t.ldpc.ladders.find n = some (if reconAllowed s l then { l with raced := true } else l)) ∧
  (∀ (l : Link) (d : Fin 32) (slc : Bool) (s : State), Answers (.learnedVectorExpiry l d slc) s fun t =>
    t.ldpc.learned.find ((32 * l.val + d.val) * 2 + b2n slc) = none ∧
    (∀ k, k ≠ (32 * l.val + d.val) * 2 + b2n slc → t.ldpc.learned.find k = s.ldpc.learned.find k) ∧
    t = { s with ldpc := { s.ldpc with learned := t.ldpc.learned }, out := [] }) ∧
  (∀ (l : Link) (s : State), bitOf (s.rd F.LDPC_ENC_FENCED_FENCED (l.val / 32)) (l.val % 32) = false →
    Tab.get 0 s.ldpc.encErrs l.val = 0 → Answers (.encoderCheckFail l) s fun t =>
      Tab.get 0 t.ldpc.encErrs l.val = 1 ∧
      bitOf (t.rd F.LDPC_ENC_FENCED_FENCED (l.val / 32)) (l.val % 32) = false) ∧
  (∀ (l : Link) (s : State), bitOf (s.rd F.LDPC_ENC_FENCED_FENCED (l.val / 32)) (l.val % 32) = true →
    Answers (.encoderCheckFail l) s fun t => t = s.begin) ∧
  (∀ (l : Link) (s : State), bitOf (s.rd F.LDPC_ENC_FENCED_FENCED (l.val / 32)) (l.val % 32) = true →
    fenCount s ≤ 16 → Answers (.encoderKatTimer l true) s fun t => t.ldpc.encPartner.find l.val = none ∧
      bitOf (t.rd F.LDPC_ENC_FENCED_FENCED (l.val / 32)) (l.val % 32) = false) ∧
  (∀ (l : Link) (s : State), Answers (.encoderKatTimer l false) s fun t => t = s.begin) ∧
  (∀ (u : PoolUnit) (s : State), Answers (.idleKnownAnswerTest u true) s fun t => t = s.begin) ∧
  (∀ (n : Fin 288) (s : State), isFenced s F.LDPC_HARD_FENCED_FENCED n.val = false →
    Answers (.idleKnownAnswerTest (.hardDecoder n) false) s fun t => isFenced t F.LDPC_HARD_FENCED_FENCED n.val = true ∧
      t.rd F.LDPC_CNT_KAT_FAIL_COUNT = min (2 ^ 32 - 1) (s.rd F.LDPC_CNT_KAT_FAIL_COUNT + 1)) ∧
  (∀ (n : Fin 32) (s : State), isFenced s F.LDPC_SOFT_FENCED_FENCED n.val = false →
    Answers (.idleKnownAnswerTest (.softDecoder n) false) s fun t => isFenced t F.LDPC_SOFT_FENCED_FENCED n.val = true ∧
      t.rd F.LDPC_CNT_KAT_FAIL_COUNT = min (2 ^ 32 - 1) (s.rd F.LDPC_CNT_KAT_FAIL_COUNT + 1)) ∧
  (∀ (n : Fin 80) (s : State), isFenced s F.CIP_PIPE_FENCED_FENCED n.val = false →
    Answers (.idleKnownAnswerTest (.cipherPipe n) false) s fun t => isFenced t F.CIP_PIPE_FENCED_FENCED n.val = true ∧
      t.rd F.CIP_EVT_KAT_FAIL = 1) ∧
  (∀ (n : Fin 160) (s : State), isFenced s F.CIP_LANE_FENCED_FENCED n.val = false →
    Answers (.idleKnownAnswerTest (.ghashLane n) false) s fun t => isFenced t F.CIP_LANE_FENCED_FENCED n.val = true ∧
      t.rd F.CIP_EVT_KAT_FAIL = 1))

/-- The ring of a hewer (R222 to R224): a TAIL write ends an OWN error; a descriptor whose OWN is clear stops the ring; one that
passes the checks is held, and HEAD moves past it. Operations on a die (R225, R227, R278, R281): an operation that may start
starts its sequence on the live bank; an operation of the command's opcode leaves as its packets, each spending its credits;
a FENCE that may start completes. -/
def Obligations.HewerRingAndOperations : Prop :=
  (∀ (p : AccessPath) (n : Link) (v : Word) (s : State), Answers (.hewRingTailWrite p n v) s fun t =>
    t.rd F.HEW_RING_TAIL_TAIL n.val = v.toNat % 4096 ∧
    t.rd F.HEW_STAT_STATE n.val = (if s.rd F.HEW_STAT_STATE n.val = 2 then 1 else s.rd F.HEW_STAT_STATE n.val) ∧
    t = { s with regs := t.regs, out := [] } ∧
    SameBut [(F.HEW_RING_TAIL_TAIL, n.val), (F.HEW_STAT_STATE, n.val)] s.regs t.regs) ∧
  (∀ (n : Link) (k : Nat) (s : State), s.isSet F.HEW_RING_CFG_ENABLE n.val = true → s.rd F.HEW_STAT_STATE n.val = 1 →
    s.rd F.HEW_RING_HEAD_HEAD n.val ≠ s.rd F.HEW_RING_TAIL_TAIL n.val → freeInFlight s n.val = some k →
    let w := memLoad s.mere.mem (hewSlotAddr s n.val (s.rd F.HEW_RING_HEAD_HEAD n.val)) 64
    Answers (.descriptorFetch n) s fun t =>
      (bitOf w 511 = false → t.rd F.HEW_STAT_STATE n.val = 2 ∧ t.rd F.HEW_EVT_OWN_ERR n.val = 1 ∧
        t = { s with regs := t.regs, out := [] }) ∧
      (bitOf w 511 = true → hewCheck s n.val w (hewParse (s.rd F.HEW_RING_HEAD_HEAD n.val) s.hew.order w) = 0 →
        seamState s n.val ≠ 9 →
        t.held? n.val k = some (hewParse (s.rd F.HEW_RING_HEAD_HEAD n.val) s.hew.order w) ∧ t.hew.order = s.hew.order + 1 ∧
        t.rd F.HEW_RING_HEAD_HEAD n.val = (s.rd F.HEW_RING_HEAD_HEAD n.val + 1) % hewSlots s n.val % 4096)) ∧
  (∀ (n : Link) (k : Fin 128) (h : Held) (s : State), s.held? n.val k.val = some h → h.ended = false →
    mayStart s n.val k.val h = true → Answers (.dieOperationStart n k) s fun t =>
      (let b := s.rd F.UCS_BANK_LIVE (storeOf s n.val)
       t.held? n.val k.val = some { h with started := true, code := true, bank := b, pc := h.opcode, stack := [], runUs := 0 }) ∧
      Tab.get false t.ucs.started n.val = true) ∧
  (∀ (n : Link) (k : Fin 128) (h : Held) (s : State), s.held? n.val k.val = some h → h.ended = false → h.sent = false →
    (h.started = true ∨ mayStart s n.val k.val h = true) → creditsFor s n.val h = true →
    ∀ e ∈ [(Instr.hewRead n k, 0x01), (.hewReadOfs n k, 0x02), (.hewSoftSense n k, 0x03), (.hewProgram n k, 0x10),
        (.hewErase n k, 0x18), (.hewCalread n k, 0x20), (.hewMarkread n k, 0x21)], h.opcode = e.2 →
      Answers e.1 s fun t =>
        (∃ u, t.held? n.val k.val = some u ∧ u.sent = true ∧ u.started = true ∧ u.opcode = e.2) ∧
        Out.packet n.val e.2 h.die k.val ∈ t.out ∧
        t.rd F.SEAM_CREDIT_CMD n.val = (s.rd F.SEAM_CREDIT_CMD n.val - 1) % 256 ∧
        (e.2 ≠ 0x10 → t.rd F.SEAM_CREDIT_DATA n.val = s.rd F.SEAM_CREDIT_DATA n.val)) ∧
  (∀ (n : Link) (k : Fin 128) (h : Held) (s : State), s.held? n.val k.val = some h → h.opcode = 0x30 →
    mayStart s n.val k.val h = true → Answers (.hewFence n k) s fun t => t.held? n.val k.val = none)

/-- Completion, timeout, suspend and resume (R224, R226, R228 to R232, R236, R282): an answer of the member with a completion
status ends its descriptor, which leaves the hewer, with DONE where it asks for it and ERROR for every nonzero status; any
other answer leaves it in place; a timeout ends an operation and aborts it; a suspension that a waiting read wants sends
SUSPEND, is counted and opens its window, one that is served sends RESUME; at the quiet deadline of a power failure a FLUSH
descriptor that has not started on a die still at work is ended, and on quiet dies nothing changes. Clauses that the manual
leaves open rest on log entries 33, 75. -/
def Obligations.HewerCompletes : Prop :=
  (∀ (n : Link) (k : Fin 128) (st : BitVec 8) (det : BitVec 16) (busy fin : Word) (h : Held) (s : State),
    s.held? n.val k.val = some h → h.sent = true → h.ended = false →
    (∀ r, memberStatus st.toNat det.toNat = some r → Answers (.descriptorComplete n k st det busy fin) s fun t =>
      t.held? n.val k.val = none ∧ (h.irq = true → t.rd F.HEW_EVT_DONE n.val = 1) ∧ (r ≠ 0 → t.rd F.HEW_EVT_ERROR n.val = 1) ∧
      (r = 0 → h.opcode = 0x10 → (t.block n.val h.block).nextPage = h.page + (if h.slc then 1 else 4))) ∧
    (memberStatus st.toNat det.toNat = none → h.suspended = false → Answers (.descriptorComplete n k st det busy fin) s fun t =>
      t.held? n.val k.val = some { h with member := st.toNat })) ∧
  (∀ (n : Link) (k : Fin 128) (h : Held) (s : State), s.held? n.val k.val = some h → h.sent = true → h.ended = false →
    h.suspended = false → Answers (.hewOperationTimeout n k) s fun t =>
      t.held? n.val k.val = none ∧ t.rd F.HEW_EVT_ERROR n.val = 1 ∧ Out.packet n.val 0x2A h.die k.val ∈ t.out) ∧
  (∀ (n : Link) (k : Fin 128) (s : State), s.held? n.val k.val = none → Answers (.hewOperationTimeout n k) s fun t => t = s.begin) ∧
  (∀ (n : Link) (d : Fin 32) (k : Nat) (h : Held) (s : State), s.isSet F.HEW_PF_STAT_HALT = false →
    (heldOf s n.val).find? (fun e => decide (e.2.die = d.val) && suspendable s e.2 && suspWaits s n.val e.2) = some (k, h) →
    Answers (.suspend n d) s fun t =>
      t.held? n.val k = some { h with suspended := true, suspends := h.suspends + 1, window := 0, member := 0 } ∧
      t.out = [.packet n.val 0x28 h.die k] ∧
      t.rd F.HEW_CNT_SUSP_COUNT n.val = min (2 ^ F.HEW_CNT_SUSP_COUNT.width - 1) (s.rd F.HEW_CNT_SUSP_COUNT n.val + 1)) ∧
  (∀ (n : Link) (d : Fin 32) (k : Nat) (h : Held) (s : State), s.isSet F.HEW_PF_STAT_HALT = false →
    (heldOf s n.val).find? (fun e => decide (e.2.die = d.val) && e.2.suspended) = some (k, h) →
    (dieOthers s n.val k h).any (fun e => e.started) = false →
    (suspWaits s n.val h = false ∨ s.rd F.HEW_SUSP_CTL_WINDOW ≤ h.window) → Answers (.resumeOp n d) s fun t =>
      t.held? n.val k = some { h with suspended := false, runUs := 0 } ∧ t.out = [.packet n.val 0x29 h.die k]) ∧
  (∀ (n : Link) (d : Fin 32) (s : State), (∀ e ∈ heldOf s n.val, e.2.die = d.val → e.2.sent = false ∧ e.2.suspended = false) →
    (Answers (.suspend n d) s fun t => t = s.begin) ∧ Answers (.resumeOp n d) s fun t => t = s.begin) ∧
  (∀ s : State, s.isSet F.HEW_PF_STAT_HALT = false → Answers .pfQuietDeadline s fun t => t = s.begin) ∧
  (∀ (n : Link) (s : State), s.isSet F.HEW_PF_STAT_HALT = true →
    (∀ e ∈ heldOf s n.val, e.2.flush = true → e.2.started = true) →
    Answers .pfQuietDeadline s fun t => heldOf t n.val = heldOf s n.val) ∧
  (∀ (n : Link) (k j : Fin 128) (h g : Held) (s : State), s.isSet F.HEW_PF_STAT_HALT = true → s.held? n.val k.val = some h →
    h.flush = true → h.started = false → s.held? n.val j.val = some g → g.started = true → g.ended = false → g.die = h.die →
    Answers .pfQuietDeadline s fun t => t.held? n.val k.val = none ∧ t.rd F.HEW_EVT_ERROR n.val = 1)

/-- Microwords (R247 to R252), one clause for each opcode of R249: the word at a running sequence's place, good or corrected,
acts on the sequence's record and on the link as the table says, and the sequence stands at the next word; a write of a
read-only register, a reserved condition, TRAP and any other OP value end the sequence with UCODE_ERR; a corrected word is
counted and written back, one that cannot be corrected is counted and ends the sequence. Clauses that the manual leaves open
rest on log entries 33, 75. -/
def Obligations.MicrocodeWords : Prop :=
  (∀ (n : Link) (k : Fin 128) (s : State) (h g : Held) (w : Nat), UcReady s n.val k.val h w →
    g = { h with pc := (h.pc + 1) % 8192 } →
    (ucOp w = 0x00 → Answers (.ucNop n k) s fun t => t.held? n.val k.val = some g) ∧
    (ucOp w = 0x01 → Answers (.ucLdi n k) s fun t => UcWrote t n.val k.val g (ucDst w) (ucImm w)) ∧
    (∀ x, ucSrc w ≠ 26 → ucSrc w ≠ 29 → ucReg s h (ucSrc w) = x →
      (ucOp w = 0x02 → Answers (.ucMov n k) s fun t => UcWrote t n.val k.val g (ucDst w) x) ∧
      (ucOp w = 0x03 → Answers (.ucAddi n k) s fun t => UcWrote t n.val k.val g (ucDst w) (x + sext16 (ucImm w))) ∧
      (ucOp w = 0x04 → Answers (.ucAndi n k) s fun t => UcWrote t n.val k.val g (ucDst w) (x &&& ucImm w)) ∧
      (ucOp w = 0x05 → Answers (.ucOri n k) s fun t => UcWrote t n.val k.val g (ucDst w) (x ||| ucImm w)) ∧
      (ucOp w = 0x06 → Answers (.ucShl n k) s fun t => UcWrote t n.val k.val g (ucDst w) (x * 2 ^ (ucImm w % 32))) ∧
      (ucOp w = 0x07 → Answers (.ucShr n k) s fun t => UcWrote t n.val k.val g (ucDst w) (x % 2 ^ 32 / 2 ^ (ucImm w % 32))) ∧
      (ucOp w = 0x08 → Answers (.ucCmp n k) s fun t => t.held? n.val k.val = some { g with z := decide (x = ucImm w) }) ∧
      (ucOp w = 0x3E → Answers (.ucDone n k) s fun t => t.held? n.val k.val = none ∧
        (h.irq = true → t.rd F.HEW_EVT_DONE n.val = 1) ∧ (x % 2 ^ 16 ≠ 0 → t.rd F.HEW_EVT_ERROR n.val = 1))) ∧
    (ucOp w = 0x10 → Answers (.ucJmp n k) s fun t => t.held? n.val k.val = some { g with pc := ucImm w % 8192 }) ∧
    (∀ b, ucCond s n.val g (ucSrc w) = some b → ucOp w = 0x11 → Answers (.ucBr n k) s fun t =>
      t.held? n.val k.val = some (if b = true then { g with pc := ucImm w % 8192 } else g)) ∧
    (10 ≤ ucSrc w → ucOp w = 0x11 → Answers (.ucBr n k) s fun t => t.held? n.val k.val = none) ∧
    (ucOp w = 0x12 → Answers (.ucCall n k) s fun t =>
      t.held? n.val k.val = some { g with pc := ucImm w % 8192, stack := (g.pc :: h.stack).take 4 }) ∧
    (∀ a r, h.stack = a :: r → ucOp w = 0x13 → Answers (.ucRet n k) s fun t => t.held? n.val k.val = some { g with pc := a, stack := r }) ∧
    (∀ o, o = ucImm w % 256 → ucOp w = 0x20 → Answers (.ucSend n k) s fun t =>
      t.out = [.packet n.val o h.die (if o ∈ [0x28, 0x29, 0x2A] then h.regs.getD 0 0 % 128 else k.val)] ∧
      (o ∉ [0x28, 0x29, 0x2A, 0x30] → t.held? n.val k.val = some (if o = h.opcode then { g with sent := true } else g) ∧
        t.rd F.SEAM_CREDIT_CMD n.val = (s.rd F.SEAM_CREDIT_CMD n.val - 1) % 256)) ∧
    (∀ c : BitVec 8, ucOp w = 0x21 → Answers (.ucWaitc n k (some c)) s fun t =>
      t.held? n.val k.val = some { g with member := c.toNat, timedOut := false }) ∧
    (ucOp w = 0x21 → Answers (.ucWaitc n k none) s fun t => t.held? n.val k.val = some { g with timedOut := true }) ∧
    (ucOp w = 0x22 → Answers (.ucXfer n k) s fun t => t.held? n.val k.val = some g ∧
      t.out = (if bitOf (ucImm w) 0 = true then List.replicate (if h.slc = true then 4 else 16) (.packet n.val 0x11 h.die k.val) else [])) ∧
    (∀ b, ucCond s n.val g (ucSrc w) = some b → ucOp w = 0x23 → Answers (.ucSuspt n k) s fun t =>
      t.held? n.val k.val = some (if b = true then { g with pc := ucImm w % 8192, stack := (g.pc :: h.stack).take 4 } else g)) ∧
    (10 ≤ ucSrc w → ucOp w = 0x23 → Answers (.ucSuspt n k) s fun t => t.held? n.val k.val = none) ∧
    (ucOp w = 0x24 → Answers (.ucTimer n k) s fun t => t.held? n.val k.val = some { g with runUs := 0 }) ∧
    (ucOp w ∉ ucOpcodes → Answers (.ucTrap n k) s fun t => t.held? n.val k.val = none ∧ t.rd F.HEW_EVT_ERROR n.val = 1)) ∧
  (∀ (n : Link) (k : Fin 128) (s : State) (h : Held), fenCount s ≤ 16 → s.held? n.val k.val = some h → h.code = true → h.ended = false →
    (∀ w, ucFetchWord (ucWordAt s (storeOf s n.val) h.bank h.pc) = .corrected w → ucOp w = 0x00 → Answers (.ucNop n k) s fun t =>
      ucWordAt t (storeOf s n.val) h.bank h.pc = ucEncode w ∧
      t.rd F.UCS_ECC_CORR_COUNT = min (2 ^ F.UCS_ECC_CORR_COUNT.width - 1) (s.rd F.UCS_ECC_CORR_COUNT + 1)) ∧
    (ucFetchWord (ucWordAt s (storeOf s n.val) h.bank h.pc) = .bad → Answers (.ucNop n k) s fun t => t.held? n.val k.val = none ∧
      t.rd F.UCS_ECC_UNC_COUNT = min (2 ^ F.UCS_ECC_UNC_COUNT.width - 1) (s.rd F.UCS_ECC_UNC_COUNT + 1)))

/-- Control-store banks and mode epochs (R255, R258, R260 to R262, R565): a requested switch makes the other bank live and
PENDING; it clears once every in-service hewer has switched; an epoch opens, is acknowledged and commits with the effect of
its kind. Clauses that the manual leaves open rest on log entry 64. -/
def Obligations.BanksAndEpochs : Prop :=
  (∀ (f : Fen) (s : State), (s.ucs.switchReq.find f.val).isSome = true → s.isSet F.UCS_BANK_PENDING f.val = false → s.ucs.epoch = none →
    Answers (.bankSwitch f) s fun t => t.rd F.UCS_BANK_LIVE f.val = (1 - s.rd F.UCS_BANK_LIVE f.val) % 2 ∧
      t.rd F.UCS_BANK_PENDING f.val = 1 ∧ t.ucs.switchReq.find f.val = none) ∧
  (∀ (f : Fen) (s : State), s.isSet F.UCS_BANK_PENDING f.val = true →
    (∀ n < 512, storeOf s n = f.val → linkUp s n = true → Tab.get false s.ucs.started n = true ∧
      ∀ e ∈ heldOf s n, e.2.code = true → e.2.bank = s.rd F.UCS_BANK_LIVE f.val) →
    Answers (.pendingClear f) s fun t => t.rd F.UCS_BANK_PENDING f.val = 0 ∧
      t.rd F.UCS_BANK_LIVE f.val = s.rd F.UCS_BANK_LIVE f.val) ∧
  (∀ (b : Bool) (s : State), s.ucs.epoch = none → s.cfg.reapply.any Reapply.waitHt = false →
    (Answers (.epochPrepare .codeRate b) s fun t => t.ucs.epoch = none ∧ t.rd F.UCS_EPOCH_PHASE = 0 ∧ t.rd F.UCS_EPOCH_KIND = 3 ∧
      t.rd F.UCS_EPOCH_STAT_ERR = 3) ∧
    (Answers (.epochPrepare .seal b) s fun t => t.ucs.epoch = some { kind := .seal } ∧ t.rd F.UCS_EPOCH_PHASE = 1 ∧
      t.rd F.UCS_EPOCH_KIND = 2 ∧ t.sea.pending = some (s.sea.agreed || s.sea.fault || s.sea.soft) ∧ t.sea.sealed = s.sea.sealed) ∧
    (idleBankPinned s = false → (∀ r, fwRetry s = some r → retrySetOk r = true → Answers (.epochPrepare .retryTable true) s fun t =>
        t.ucs.epoch = some { kind := .retryTable } ∧ t.rd F.UCS_EPOCH_PHASE = 1 ∧ t.rd F.UCS_EPOCH_KIND = 1 ∧
        (if s.rd F.LDPC_RRT_CTL_BANK = 0 then t.ldpc.rrtB = some r ∧ t.ldpc.rrtA = s.ldpc.rrtA
         else t.ldpc.rrtA = some r ∧ t.ldpc.rrtB = s.ldpc.rrtB)) ∧
      (fwRetry s = none → Answers (.epochPrepare .retryTable b) s fun t => t.ucs.epoch = none ∧ t.rd F.UCS_EPOCH_STAT_ERR = 4))) ∧
  (∀ (s : State) (e : Epoch), s.ucs.epoch = some e →
    (∀ n : Link, linkUp s n.val = true → Answers (.epochApplyAck (.hewer n)) s fun t => t.rd F.UCS_EPOCH_PHASE = 2 ∧
      t.ucs.epoch = some { e with acked := addNew n.val e.acked }) ∧
    (e.kind = .retryTable → Answers (.epochApplyAck .ladderControl) s fun t => t.rd F.UCS_EPOCH_PHASE = 2 ∧
      t.rd F.LDPC_RRT_CTL_MIXED = 1 ∧ t.ucs.epoch = some { e with unitAck := true }) ∧
    (e.kind = .seal → Answers (.epochApplyAck .nvqIntake) s fun t => t.rd F.UCS_EPOCH_PHASE = 2 ∧
      t.ucs.epoch = some { e with unitAck := true })) ∧
  (∀ (s : State) (e : Epoch), s.ucs.epoch = some e → e.unitAck = true → (∀ n < 512, linkUp s n = true → n ∈ e.acked) →
    s.ucs.sealReq = false → s.ucs.retryReq = false → Answers .epochCommit s fun t => t.ucs.epoch = none ∧ t.rd F.UCS_EPOCH_PHASE = 0 ∧
      t.rd F.UCS_EPOCH_CUR = (s.rd F.UCS_EPOCH_CUR + 1) % 2 ^ F.UCS_EPOCH_CUR.width ∧
      (e.kind = .retryTable → t.rd F.LDPC_RRT_CTL_BANK = (1 - s.rd F.LDPC_RRT_CTL_BANK) % 2 ^ F.LDPC_RRT_CTL_BANK.width ∧
        t.rd F.LDPC_RRT_CTL_MIXED = 0 ∧ t.ldpc.learned = []) ∧
      (e.kind = .seal → t.sea.sealed = s.sea.pending.getD s.sea.sealed ∧ t.isSet F.SEAL_STAT_SEALED = s.sea.pending.getD s.sea.sealed))

/-- Seam links (R32, R274 to R277, R292, R294, R295): training goes state by state from DETECT to ACTIVE or HELD; a retrain, a
recalibration window, parking and a drop change the state as they say; a lost member waits, returns or is rebuilt; a PLL
group's loss retrains its links; SEAM_CTL acts. Clauses that the manual leaves open rest on log entry 24. -/
def Obligations.SeamLinks : Prop :=
  (∀ (l : Link) (s : State) (k : LinkState), fenCount s ≤ 16 → k = s.link l.val →
    (seamState s l.val = 1 → (Answers (.detectBurst l) s fun t => t = { s with out := [.burst l.val] }) ∧
      (s.isSet F.SEAM_CTL_ENABLE l.val = true → k.stayDown = false → Answers (.detectAnswer l) s fun t => seamState t l.val = 2)) ∧
    (∀ b, (seamState s l.val = 2 → Answers (.trainingStateEnd l b) s fun t => seamState t l.val = 3) ∧
      (seamState s l.val = 3 → Answers (.trainingStateEnd l b) s fun t => (t.link l.val).stored = true ∧
        if s.isSet F.HEW_PF_STAT_HALT = true then seamState t l.val = 11 ∧ t.out = [.orderedSet l.val 0xF1] else seamState t l.val = 4) ∧
      (seamState s l.val = 4 → Answers (.trainingStateEnd l b) s fun t => seamState t l.val = 5 ∧ t.out = [.packet l.val 0x31 0 0x80] ∧
        (t.link l.val).txSeq = 0 ∧ (t.link l.val).rxSeq = 0 ∧ (t.link l.val).ident = none) ∧
      (∀ d : IdentBody, seamState s l.val = 5 → k.ident = some d →
        (k.serial = 0 ∨ k.serial = d.serial → servesMember s l.val = true → Answers (.trainingStateEnd l b) s fun t =>
          seamState t l.val = 6 ∧ t.rd F.SEAM_CREDIT_CMD l.val = d.cmd.toNat ∧ t.rd F.SEAM_SESSION_SESSION l.val = d.session.toNat ∧
          (t.link l.val).serial = d.serial) ∧
        (k.serial = 0 ∨ k.serial = d.serial → servesMember s l.val = false → Answers (.trainingStateEnd l b) s fun t =>
          seamState t l.val = 10 ∧ t.rd F.SEAM_EVT_PRESENT = 1) ∧
        (k.serial ≠ 0 → k.serial ≠ d.serial → Answers (.trainingStateEnd l b) s fun t => seamState t l.val = 10)) ∧
      (∀ d : IdentBody, seamState s l.val = 8 → k.sub = 5 → k.ident = some d → k.serial = d.serial →
        s.rd F.SEAM_SESSION_SESSION l.val = d.session.toNat → Answers (.trainingStateEnd l b) s fun t => seamState t l.val = 6 ∧
          t.rd F.SEAM_CREDIT_CMD l.val = s.rd F.SEAM_CREDIT_CMD l.val ∧ (t.link l.val).rxSeq = k.rxSeq)) ∧
    (seamState s l.val ∈ [2, 3, 4, 5] → k.failures + 1 < 3 → Answers (.trainingLimitExpiry l) s fun t => seamState t l.val = 1 ∧
      (t.link l.val).failures = k.failures + 1 ∧ t.out = [.burst l.val]) ∧
    (linkUp s l.val = true → (Answers (.replayLimit l) s fun t => seamState t l.val = 8 ∧ (t.link l.val).sub = 2 ∧
        t.out = (if seamState s l.val = 9 then [] else [.orderedSet l.val 0xF4]) ∧
        t.rd F.SEAM_CNT_RETRAIN_COUNT l.val = min (2 ^ F.SEAM_CNT_RETRAIN_COUNT.width - 1) (s.rd F.SEAM_CNT_RETRAIN_COUNT l.val + 1)) ∧
      (Answers (.retrain l) s fun t => seamState t l.val = 8 ∧ (t.link l.val).sub = 2 ∧ t.out = []) ∧
      (s.rd F.SEAM_CREDIT_CMD l.val = 0 → packetWaits s l.val = true → Answers (.creditStallTimeout l) s fun t => seamState t l.val = 8) ∧
      (Answers (.memberLinkDrop l) s fun t => seamState t l.val = 1 ∧ t.rd F.SEAM_CREDIT_CMD l.val = 0 ∧
        t.rd F.SEAM_CNT_DROP_COUNT l.val = min (2 ^ F.SEAM_CNT_DROP_COUNT.width - 1) (s.rd F.SEAM_CNT_DROP_COUNT l.val + 1) ∧
        (heldOf s l.val = [] → (linkMember s l.val).isSome = true → s.fen.absent.find l.val = none → l.val ∉ s.fen.retired →
          l.val ∉ s.fen.draining → t.fen.absent.find l.val = some .waiting))) ∧
    (seamState s l.val = 6 → k.wantRecal = false → windowInFen s l.val = false →
      ∀ i ∈ [Instr.recalReq l false, .recalPeriodTimer l], Answers i s fun t =>
        (t.link l.val).wantRecal = true ∧ t.out = [.orderedSet l.val 0xF2] ∧ seamState t l.val = 6) ∧
    (seamState s l.val = 6 → k.memberWin = false → Answers (.recalReq l true) s fun t => seamState t l.val = 7 ∧
      (t.link l.val).ownWin = false ∧ (t.link l.val).memberWin = true ∧ t.out = [.orderedSet l.val 0xF3]) ∧
    (seamState s l.val = 6 → k.wantRecal = true → Answers (.recalGo l) s fun t => seamState t l.val = 7 ∧ (t.link l.val).ownWin = true) ∧
    (seamState s l.val = 7 → Answers (.recalWindowEnd l) s fun t => seamState t l.val = 6 ∧ (t.link l.val).ownWin = false ∧
      (k.ownWin = true → (t.link l.val).wantRecal = false ∧ (t.link l.val).lastRecal = seamHot s l.val)) ∧
    (seamState s l.val = 8 → Answers (.retrainLimitExpiry l) s fun t => seamState t l.val = 1 ∧ .burst l.val ∈ t.out ∧
      t.rd F.SEAM_CNT_DROP_COUNT l.val = min (2 ^ F.SEAM_CNT_DROP_COUNT.width - 1) (s.rd F.SEAM_CNT_DROP_COUNT l.val + 1)) ∧
    (seamState s l.val = 6 → heldOf s l.val = [] → Answers (.park l) s fun t => seamState t l.val = 9 ∧ t.out = [.orderedSet l.val 0xF5]) ∧
    (seamState s l.val = 6 → heldOf s l.val ≠ [] → Answers (.park l) s fun t => t = s.begin) ∧
    (seamState s l.val = 9 → Answers (.parkWakeTimer l) s fun t => seamState t l.val = 8 ∧ (t.link l.val).telemWake = true ∧ t.out = []) ∧
    (seamState s l.val ∈ [6, 7, 8, 11] → Answers (.lossOfSignal l) s fun t => seamState t l.val = 1 ∧
      t.rd F.SEAM_CNT_DROP_COUNT l.val = min (2 ^ F.SEAM_CNT_DROP_COUNT.width - 1) (s.rd F.SEAM_CNT_DROP_COUNT l.val + 1)) ∧
    (seamState s l.val ∈ [2, 3, 4, 5, 10] → Answers (.lossOfSignal l) s fun t => seamState t l.val = 1 ∧ t.out = [.burst l.val] ∧
      t.rd F.SEAM_CNT_DROP_COUNT l.val = s.rd F.SEAM_CNT_DROP_COUNT l.val) ∧
    (s.fen.absent.find l.val = some .waiting → (Answers (.memberWaitExpiry l) s fun t =>
        t.fen.absent.find l.val = some .rebuilding ∨ (t.fen.absent.find l.val = none ∧ l.val ∈ t.fen.retired ∧
          ∀ e ∈ fenStripes t (linkFen s l.val), ∀ a ∈ e.2.slots, (addrPlace t (linkFen s l.val) a).1 ≠ l.val)) ∧
      (linkUp s l.val = true → Answers (.memberReturn l) s fun t => t.fen.absent.find l.val = none ∧ seamState t l.val = seamState s l.val)) ∧
    (∀ p, Answers (.seamRetrainWrite p l) s fun t => t.rd F.SEAM_STAT_FALLBACK l.val = 0 ∧ (t.link l.val).stayDown = false ∧
      (t.link l.val).failures = 0 ∧ seamState t l.val = (if linkUp s l.val = true then 8 else seamState s l.val)) ∧
    (∀ p, expertOpen s p = true → (seamState s l.val = 0 → Answers (.seamEnableWrite p l true) s fun t =>
        t.rd F.SEAM_CTL_ENABLE l.val = 1 ∧ seamState t l.val = 1 ∧ t.out = [.burst l.val]) ∧
      (linkUp s l.val = true → Answers (.seamEnableWrite p l false) s fun t => t.rd F.SEAM_CTL_ENABLE l.val = 0 ∧ seamState t l.val = 0)) ∧
    (∀ p, expertOpen s p = false → ∀ b, Answers (.seamEnableWrite p l b) s fun t =>
      t.rd F.SEAM_CTL_ENABLE l.val = s.rd F.SEAM_CTL_ENABLE l.val ∧ t.seam = s.seam)) ∧
  (∀ (g : Fin 16) (s : State),
    (Answers (.pllGroupUnlock g) s fun t => t.rd F.SEAM_GRP_STAT_LOCKED g.val = 0 ∧ t.rd F.SEAM_EVT_GRP_UNLOCK = 1 ∧
      g.val ∈ t.seam.unlocked ∧ ∀ l < 512, groupOf s l = g.val → linkUp s l = true → seamState t l = 8) ∧
    (Answers (.pllGroupRelock g) s fun t => t.rd F.SEAM_GRP_STAT_LOCKED g.val = 1 ∧ g.val ∉ t.seam.unlocked ∧
      ∀ l < 512, groupOf s l = g.val → linkUp s l = true → seamState t l = 8))

/-- Flits and packets of a member (R233, R271, R272, R279, R281, R282, R285 to R288, R294): a good flit in sequence advances it,
a bad one is refused, a NAK replays, credits return; data, answers, telemetry, IDENT, calibration, marks and events are
taken. Clauses that the manual leaves open rest on log entries 24, 26. -/
def Obligations.SeamTraffic : Prop :=
  (∀ (l : Link) (h : FlitHead) (s : State) (k : LinkState), k = s.link l.val → takesFlits s l.val = true →
    (h.good = true → h.fecOk = true → h.nak = false → h.crType = 0 →
      (h.fseq.toNat = k.rxSeq → Answers (.dataFlit l h) s fun t => t.link l.val =
        { k with acked := h.ack.toNat, lastNak := (if k.acked = h.ack.toNat then k.lastNak else 0),
                 rxSeq := (k.rxSeq + 1) % 4096, nakSent := false }) ∧
      (h.fseq.toNat ≠ k.rxSeq → ¬(seamState s l.val = 7 ∧ k.ownWin = true) → Answers (.dataFlit l h) s fun t =>
        (t.link l.val).rxSeq = k.rxSeq ∧ (t.link l.val).nakSent = true) ∧
      (Answers (.idleFlit l h) s fun t => t.link l.val =
        { k with acked := h.ack.toNat, lastNak := (if k.acked = h.ack.toNat then k.lastNak else 0) })) ∧
    (h.good = true → h.fecOk = true → h.nak = false → h.crType = 1 → Answers (.idleFlit l h) s fun t =>
      t.rd F.SEAM_CREDIT_CMD l.val = min (k.grant.getD 0 0)
        (s.rd F.SEAM_CREDIT_CMD l.val + (h.crCount.toNat + 256 - k.crSeen.getD 1 0 % 256) % 256) % 256) ∧
    (h.good = true → h.fecOk = true → h.nak = true → h.crType = 0 → k.lastNak ≠ h.ack.toNat + 1 → Answers (.idleFlit l h) s fun t =>
      t.link l.val = { k with acked := h.ack.toNat, lastNak := h.ack.toNat + 1 } ∧
      t.rd F.SEAM_CNT_REPLAY_COUNT l.val = min (2 ^ F.SEAM_CNT_REPLAY_COUNT.width - 1) (s.rd F.SEAM_CNT_REPLAY_COUNT l.val + 1)) ∧
    (h.good = false → ¬(seamState s l.val = 7 ∧ k.ownWin = true) → Answers (.dataFlit l h) s fun t =>
      t.link l.val = { k with nakSent := true } ∧
      t.rd F.SEAM_CNT_CRC_COUNT l.val = min (2 ^ F.SEAM_CNT_CRC_COUNT.width - 1) (s.rd F.SEAM_CNT_CRC_COUNT l.val + 1))) ∧
  (∀ (l : Link) (g : Fin 128) (c : Fin 4) (s : State) (h : Held), s.held? l.val g.val = some h → h.sent = true → h.ended = false →
    (∀ i ∈ [([0x01, 0x02], Instr.readData l g c false, Instr.readData l g c true), ([0x03], .softData l g c false, .softData l g c true)],
      h.opcode ∈ i.1 →
      (Answers i.2.1 s fun t => t.held? l.val g.val = some { h with gotCw := putBit h.gotCw c.val true } ∧
        (t.link l.val).rdataFreed = (s.link l.val).rdataFreed + 1) ∧
      (Answers i.2.2 s fun t => ∃ u, t.held? l.val g.val = some u ∧ u.ended = true ∧ u.status = 0 ∧ u.detail = 0)) ∧
    (∀ (a st : BitVec 8) (d : BitVec 16) (x : Nat), a.toNat = g.val → memberStatus st.toNat d.toNat = some x →
      Answers (.completion l a st d) s fun t => (t.link l.val).rspFreed = (s.link l.val).rspFreed + 1 ∧
        t.held? l.val g.val = some { h with ended := true, status := x, detail := (if x = 0 then 0 else d.toNat), member := st.toNat,
                                            suspended := false }) ∧
    (∀ r : CalRow, h.opcode = 0x20 → Answers (.calData l g r) s fun t => t.ret.cal.find l.val = some r ∧
      ∃ u, t.held? l.val g.val = some u ∧ u.ended = true ∧ u.status = 0) ∧
    (∀ b : Nat, h.opcode = 0x21 → Answers (.markData l g b) s fun t => (∃ u, t.held? l.val g.val = some u ∧ u.ended = true ∧ u.status = 0) ∧
      ∀ i < 256, bitOf b i = true → h.block + i < physBlocks s l.val → (t.block l.val (h.block + i)).use = .factoryBad)) ∧
  (∀ (l : Link) (ts : List Int) (hot : Int) (f : BitVec 8) (s : State), Answers (.telemetry l ts hot f) s fun t =>
    (t.link l.val).temps = ts.take 32 ∧ (t.link l.val).noTelem = false ∧ t.rd F.SEAM_TEMP_HOT l.val = unsigned hot 8 % 256 ∧
    t.rd F.SEAM_TEMP_AGE l.val = 0 ∧ t.isSet F.SEAM_TEMP_OVER l.val = bitOf f.toNat 0) ∧
  (∀ (l : Link) (d : IdentBody) (s : State), fenCount s ≤ 16 →
    (seamState s l.val = 5 → bitOf d.versions.toNat 0 = true → Answers (.identData l d) s fun t =>
      t.link l.val = { s.link l.val with ident := some d } ∧ seamState t l.val = 5) ∧
    (seamState s l.val = 5 → bitOf d.versions.toNat 0 = false → Answers (.identData l d) s fun t => seamState t l.val = 1)) ∧
  (∀ (l : Link) (o c : BitVec 8) (d : Fin 32) (s : State), fenCount s ≤ 16 →
    (o = 0xB0 → c = 1 → Answers (.eventPacket l o c d) s fun t => t.rd F.SEAM_TEMP_OVER l.val = 1 ∧
      (s.isSet F.SEAM_TEMP_OVER l.val = false → t.rd F.SEAM_EVT_OVERTEMP = 1)) ∧
    (o = 0xB0 → c = 2 → servesMember s l.val = true → d.val < diesOf s l.val → Answers (.eventPacket l o c d) s fun t =>
      32 * l.val + d.val ∈ t.fen.deadDies) ∧
    (o ≠ 0xB0 → Answers (.eventPacket l o c d) s fun t => (t.link l.val).rspFreed = (s.link l.val).rspFreed + 1 ∧ t.fen = s.fen)) ∧
  (∀ (l : Link) (s : State), Answers (.telemetryTimeout l) s fun t => (t.link l.val).noTelem = true ∧
    (seamState s l.val = 6 → s.rd F.SEAM_CREDIT_CTL l.val ≠ 0 → t.out = [.packet l.val 0x30 0 0x80] ∧
      t.rd F.SEAM_CREDIT_CTL l.val = (s.rd F.SEAM_CREDIT_CTL l.val - 1) % 256))

/-- R306: the checker of a stored Mere word. With no error it answers the data; any one of its 272 bits flipped is corrected;
any two flipped are reported uncorrectable; a word written with the poison tag answers poisoned. -/
def Obligations.MereEccCorrects : Prop :=
  ∀ (a d : Nat), d < 2 ^ 256 →
    checkWord a (encodeWord d (wordTag a false)) = .good d false ∧
    checkWord a (encodeWord d (wordTag a true)) = .poisoned d false ∧
    (∀ i, i < 272 → checkWord a (encodeWord d (wordTag a false) ^^^ 2 ^ i) = .good d true) ∧
    (∀ i j, i < j → j < 272 → ∃ e, checkWord a (encodeWord d (wordTag a false) ^^^ 2 ^ i ^^^ 2 ^ j) = .uncorrectable e false)

/-- MERE_READ and MERE_WRITE (R300, R307 to R309, R311, R313, R323): an access that no stack takes is a bus error; a word of a region never
written reads as zero; a word with no error reads as it was written; a whole word written reads back, its region is valid,
and no byte outside it changes where the region was valid; a parked stack wakes first (R323), and a group of valid bits that
cannot be corrected poisons what it covers (R311). Clauses that the manual leaves open rest on log entries 17, 30, 94. -/
def Obligations.MereAccess : Prop :=
  (∀ (q : BitVec 8) (a : MereAddr) (len : Nat) (s : State), mereRangeOk s a.toNat len = false →
    Answers (.mereRead q a none len []) s fun t => .busError q.toNat ∈ t.out ∧ t.mere = s.mere) ∧
  (∀ (q : BitVec 8) (a : MereAddr) (len : Nat) (s : State), mereRangeOk s a.toNat len = true → a.toNat % 32 + len ≤ 32 →
    Tab.get 0 s.mere.verr (validGroup a.toNat) = 0 → regionValid s a.toNat = false → Answers (.mereRead q a none len []) s fun t =>
      t = { s.wr F.MERE_STAT_PARKED 0 (mereStack a.toNat) with out := [.mereData 0 false] }) ∧
  (∀ (q : BitVec 8) (a : MereAddr) (len : Nat) (s : State), mereRangeOk s a.toNat len = true → a.toNat % 32 + len ≤ 32 →
    Tab.get 0 s.mere.verr (validGroup a.toNat) = 0 → regionValid s a.toNat = true → Tab.get 0 s.mere.err (a.toNat / 32) = 0 →
    Tab.get false s.mere.poisoned (a.toNat / 32) = false → Answers (.mereRead q a none len []) s fun t =>
      t = { s.wr F.MERE_STAT_PARKED 0 (mereStack a.toNat) with out := [.mereData (memLoad s.mere.mem a.toNat len) false] }) ∧
  (∀ (q : BitVec 8) (a : MereAddr) (len : Nat) (s : State), mereRangeOk s a.toNat len = true → a.toNat % 32 + len ≤ 32 →
    2 ≤ popCount (Tab.get 0 s.mere.verr (validGroup a.toNat)) 72 → Answers (.mereRead q a none len []) s fun t =>
      t.rd F.MERE_EVT_VALID_UNC = 1 ∧ regionValid t a.toNat = true ∧ ∃ d, t.out = [.mereData d true]) ∧
  (∀ (q : BitVec 8) (a : MereAddr) (len v : Nat) (s : State), mereRangeOk s a.toNat len = false →
    Answers (.mereWrite q a none len v []) s fun t => .busError q.toNat ∈ t.out ∧ t.mere = s.mere) ∧
  (∀ (q : BitVec 8) (a : MereAddr) (v : Nat) (s : State), mereRangeOk s a.toNat 32 = true → a.toNat % 32 = 0 →
    Tab.get 0 s.mere.verr (validGroup a.toNat) = 0 → Answers (.mereWrite q a none 32 v []) s fun t =>
      memLoad t.mere.mem a.toNat 32 = v % 2 ^ 256 ∧ regionValid t a.toNat = true ∧ Tab.get 0 t.mere.err (a.toNat / 32) = 0 ∧
      Tab.get false t.mere.poisoned (a.toNat / 32) = false ∧
      (regionValid s a.toNat = true → ∀ b, b < a.toNat ∨ a.toNat + 32 ≤ b → memRead t.mere.mem b = memRead s.mere.mem b) ∧
      (regionValid s a.toNat = false → ∀ b, b < a.toNat ∨ a.toNat + 32 ≤ b →
        memRead t.mere.mem b = if b / 4096 = a.toNat / 4096 then 0 else memRead s.mere.mem b) ∧
      t = { s.wr F.MERE_STAT_PARKED 0 (mereStack a.toNat) with mere := t.mere, out := [.mereWritten false] })

/-- The Mere's housekeeping (R316, R318, R320, R321, R326 to R328): the scrubber's rewrite, the leak of the buckets, a fence
and its cause, the end of a re-mirror, the scrubber's enable and the 24 h count. Clauses that the manual leaves open rest on
log entry 94. -/
def Obligations.MereHousekeeping : Prop :=
  (∀ (a : MereAddr) (s : State), mereOk s a.toNat = true → s.isSet F.MERE_SCRUB_CTL_EN = true →
    s.isSet F.MERE_STAT_PARKED (mereStack a.toNat) = false → regionValid s a.toNat = true →
    Answers (.scrubStep (.mere a) 0) s fun t => Tab.get 0 t.mere.err (a.toNat / 32) = 0 ∧
      memLoad t.mere.mem (a.toNat / 32 * 32) 32 = (checkData (findAt s a.toNat)).1 % 2 ^ 256 ∧
      Tab.get false t.mere.poisoned (a.toNat / 32) = (checkData (findAt s a.toNat)).2) ∧
  (∀ (a : MereAddr) (m : Fin 6) (w : Nat) (s : State), s.isSet F.MERE_SCRUB_CTL_EN = false →
    ∀ p ∈ [ScrubPlace.mere a, .onDie m w], Answers (.scrubStep p 0) s fun t => t.mere.mem = s.mere.mem ∧ t.regs = s.regs) ∧
  (∀ s : State, Answers .bucketLeak s fun t => (∀ k, k < 8 → t.rd F.MERE_BKT_LEVEL k = (s.rd F.MERE_BKT_LEVEL k - 1) % 65536) ∧
    t.mere.mem = s.mere.mem) ∧
  (∀ (k c : Fin 8) (s : State), c ≠ 0 → s.rd F.MERE_STAT_FENCE_CAUSE k.val = 0 → Answers (.stackFence k c) s fun t =>
    t.rd F.MERE_STAT_FENCE_CAUSE k.val = c.val ∧ t.rd F.MERE_STAT_IN_SERVICE k.val = 0 ∧ t.rd F.MERE_STAT_PARKED k.val = 0 ∧
    bitOf (t.rd F.MERE_EVT_FENCED) k.val = true ∧ (2 < c.val → k.val ∈ t.mere.remirror) ∧
    ∀ b, memRead t.mere.mem b = if mereStack b = k.val then 0 else memRead s.mere.mem b) ∧
  (∀ (k c : Fin 8) (s : State), c = 0 ∨ s.rd F.MERE_STAT_FENCE_CAUSE k.val ≠ 0 →
    Answers (.stackFence k c) s fun t => t = s.begin) ∧
  (∀ (p : AccessPath) (k : Fin 8) (s : State), expertOpen s p = true → s.rd F.MERE_STAT_FENCE_CAUSE k.val = 0 →
    Answers (.mereFenceWrite p (BitVec.ofNat 32 (2 ^ k.val))) s fun t =>
      t.rd F.MERE_STAT_FENCE_CAUSE k.val = 7 ∧ t.rd F.MERE_STAT_IN_SERVICE k.val = 0 ∧ k.val ∈ t.mere.remirror) ∧
  (∀ (p : AccessPath) (m : Word) (s : State), expertOpen s p = false → Answers (.mereFenceWrite p m) s fun t => t = s.begin) ∧
  (∀ (k : Fin 8) (s : State), k.val ∈ s.mere.remirror → Answers (.remirrorDone k) s fun t =>
    t.mere = { s.mere with remirror := dropOne k.val s.mere.remirror }) ∧
  (∀ s : State, Answers .scrubEnableTimeout s fun t => t.rd F.MERE_SCRUB_CTL_EN = 1 ∧
    t = { s with regs := t.regs, out := [] } ∧ SameBut [(F.MERE_SCRUB_CTL_EN, 0)] s.regs t.regs) ∧
  (∀ (k : Fin 8) (s : State), Answers (.ovf24hAgeOut k) s fun t =>
    t.rd F.MERE_BKT_OVF_24H k.val = (s.rd F.MERE_BKT_OVF_24H k.val - 1) % 2 ^ F.MERE_BKT_OVF_24H.width ∧
    t = { s with regs := t.regs, out := [] } ∧ SameBut [(F.MERE_BKT_OVF_24H, k.val)] s.regs t.regs)

/-- R490 to R494, R506: a tail write records the tail and, where the ring is enabled, accepts its next request; a request that
fails a check before any input is read completes with its status. SEAL, OPEN and VERIFY of an accepted request whose input
reads without error, on a ring that fetches nothing more: the request ends, counted; a tag that does not match is a TAGFAIL.
R496 to R498: a draining slot that no request names takes its successor key, or is empty; a passed reseed lets the waiting
commands go on; a command that waited 10 s fails with Internal Error. Clauses that the manual leaves open rest on log
entries 19, 82. -/
def Obligations.CipherEngine : Prop :=
  ((∀ (p : AccessPath) (r : Fin 16) (v : Word) (s : State), s.isSet F.CIP_RING_CFG_ENABLE r.val = false →
    Answers (.cipRingTailWrite p r v) s fun t => t.rd F.CIP_RING_TAIL_TAIL r.val = v.toNat % 4096 ∧
      t = { s with regs := t.regs, out := [] } ∧ SameBut [(F.CIP_RING_TAIL_TAIL, r.val)] s.regs t.regs) ∧
  (∀ (p : AccessPath) (r : Fin 16) (v : Word) (s : State), let h := s.rd F.CIP_RING_HEAD_HEAD r.val
    let q := cipAt s r.val h
    s.isSet F.CIP_RING_CFG_ENABLE r.val = true → v.toNat < 4096 → v.toNat = (h + 1) % cipSlots s r.val % 4096 → v.toNat ≠ h →
    s.cip.running = [] → bitOf q.flags 7 = true → cipCheck s q = 0 → Answers (.cipRingTailWrite p r v) s fun t =>
      t.rd F.CIP_RING_HEAD_HEAD r.val = v.toNat ∧ t.cip.running.find (4096 * r.val + h) = some q.op ∧
      (Tab.get {} t.cip.slots q.slot).users = (Tab.get {} s.cip.slots q.slot).users + 1) ∧
  (∀ (r : Fin 16) (k : Nat) (s : State), let q := cipAt s r.val k
    ∀ (d : Nat), s.cip.running.find (4096 * r.val + k) = some 3 → s.isSet F.CIP_RING_CFG_ENABLE r.val = false →
    bitOf q.flags 1 = false → q.adLen = 0 → mereRangeOk s q.src q.len = true → cipSlotAddr s r.val k + 64 ≤ 2 ^ 38 →
    mereFetch q.src none q.len s.begin = ((d, false), s.begin) → Answers (.cipherVerify r k) s fun t =>
      t.cip.running.find (4096 * r.val + k) = none ∧
      t.rd F.CIP_CNT_TAGFAIL_COUNT = (if cipTag (Tab.get {} s.cip.slots q.slot).key q 0 d = q.tag then s.rd F.CIP_CNT_TAGFAIL_COUNT
        else min (2 ^ 32 - 1) (s.rd F.CIP_CNT_TAGFAIL_COUNT + 1)) ∧
      (q.op = 3 → t.rd F.CIP_CNT_VERIFY_COUNT = min (2 ^ 32 - 1) (s.rd F.CIP_CNT_VERIFY_COUNT + 1))) ∧
  (∀ (r : Fin 16) (k : Nat) (s : State), let q := cipAt s r.val k
    let key := (Tab.get {} s.cip.slots q.slot).key
    ∀ (d : Nat), s.cip.running.find (4096 * r.val + k) = some 1 → s.isSet F.CIP_RING_CFG_ENABLE r.val = false →
    bitOf q.flags 1 = false → q.adLen = 0 → mereRangeOk s q.src q.len = true → mereRangeOk s q.dst q.len = true →
    cipSlotAddr s r.val k + 64 ≤ 2 ^ 38 → mereFetch q.src none q.len s.begin = ((d, false), s.begin) →
    (mereStore q.dst none q.len (cipCrypt key q d) s.begin).1 = false → Answers (.cipherSeal r k) s fun t =>
      t.cip.running.find (4096 * r.val + k) = none ∧
      t.mere = (cipDone r.val k 0 (some (cipTag key q 0 (cipCrypt key q d))) q
        (mereStore q.dst none q.len (cipCrypt key q d) s.begin).2).mere ∧
      t.rd F.CIP_CNT_ERR_COUNT = s.rd F.CIP_CNT_ERR_COUNT ∧
      (q.op = 1 → t.rd F.CIP_CNT_SEAL_COUNT = min (2 ^ 32 - 1) (s.rd F.CIP_CNT_SEAL_COUNT + 1))) ∧
  (∀ (r : Fin 16) (k : Nat) (s : State), let q := cipAt s r.val k
    let key := (Tab.get {} s.cip.slots q.slot).key
    ∀ (d : Nat), s.cip.running.find (4096 * r.val + k) = some 2 → s.isSet F.CIP_RING_CFG_ENABLE r.val = false →
    bitOf q.flags 1 = false → q.adLen = 0 → mereRangeOk s q.src q.len = true → mereRangeOk s q.dst q.len = true →
    cipSlotAddr s r.val k + 64 ≤ 2 ^ 38 → mereFetch q.src none q.len s.begin = ((d, false), s.begin) →
    (mereStore q.dst none q.len (cipCrypt key q d) s.begin).1 = false → Answers (.cipherOpen r k) s fun t =>
      t.cip.running.find (4096 * r.val + k) = none ∧
      (cipTag key q 0 d = q.tag → t.mere = (cipDone r.val k 0 none q
          (mereStore q.dst none q.len (cipCrypt key q d) s.begin).2).mere ∧
        t.rd F.CIP_CNT_TAGFAIL_COUNT = s.rd F.CIP_CNT_TAGFAIL_COUNT) ∧
      (cipTag key q 0 d ≠ q.tag → t.mere = (cipDone r.val k 5 none q s.begin).mere ∧
        t.rd F.CIP_CNT_TAGFAIL_COUNT = min (2 ^ 32 - 1) (s.rd F.CIP_CNT_TAGFAIL_COUNT + 1)))) ∧
  ((∀ (k v : Nat) (s : State), (Tab.get {} s.cip.slots k).state = 2 → (Tab.get {} s.cip.slots k).users = 0 →
    (Tab.get {} s.cip.slots k).nextKey = some v → keyMayChange s (Tab.get {} s.cip.slots k).nsid = true →
    (∀ n, s.ns? (Tab.get {} s.cip.slots k).nsid = some n → n.slot = k) → Answers (.slotDrainDone k) s fun t =>
      (Tab.get {} t.cip.slots k).state = 1 ∧ (Tab.get {} t.cip.slots k).key = v ∧
      (Tab.get {} t.cip.slots k).nsid = (Tab.get {} s.cip.slots k).nsid ∧
      ∀ j, j ≠ k → Tab.get {} t.cip.slots j = Tab.get {} s.cip.slots j) ∧
  (∀ (k : Nat) (s : State), (Tab.get {} s.cip.slots k).state = 2 → (Tab.get {} s.cip.slots k).users = 0 →
    (Tab.get {} s.cip.slots k).nextKey = none → Answers (.slotDrainDone k) s fun t =>
      Tab.get {} t.cip.slots k = {} ∧ ∀ j, j ≠ k → Tab.get {} t.cip.slots j = Tab.get {} s.cip.slots j) ∧
  (∀ (k : Nat) (s : State), (Tab.get {} s.cip.slots k).users ≠ 0 → Answers (.slotDrainDone k) s fun t => t = s.begin) ∧
  (∀ s : State, Answers (.drbgReseedRetry true) s fun t =>
    t.cip = { s.cip with drbgUp := true, waiters := [] } ∧
    ∀ n ∈ s.cip.waiters, ∀ c, s.slot? n = some c → t.slot? n = some { c with waits := false }) ∧
  (∀ s : State, Answers (.drbgReseedRetry false) s fun t =>
    t.cip = { s.cip with drbgUp := false } ∧ (s.cip.drbgUp = true → t.rd F.CIP_EVT_DRBG_FAIL = 1)) ∧
  (∀ (n : SlotNo) (c : Cmd) (s : State), s.slot? n.val = some c → n.val ∈ s.cip.waiters → s.cip.drbgUp = false →
    Answers (.drbgWaitTimeout n) s fun t => Ended t n.val 0x06 0 ∧ n.val ∉ t.cip.waiters) ∧
  (∀ (n : SlotNo) (s : State), n.val ∉ s.cip.waiters → Answers (.drbgWaitTimeout n) s fun t => t = s.begin))

/-- DMA rings and transfers (R508 to R514): a written tail fetches the descriptor at HEAD, idles on an empty ring, stops at a
slot it does not own; a transfer without error sets its completion bit and the channel goes on; a tick releases the waiting
descriptors; a bus error is tried again or halts the channel, which resumes, skips or is reset. -/
def Obligations.DmaRings : Prop :=
  (∀ (p : AccessPath) (c : Fin 96) (v : Word) (s : State), s.dma.jobs.find c.val = none →
    (s.rd F.DMA_CH_CFG_ENABLE c.val ≠ 1 → Answers (.dmaRingTailWrite p c v) s fun t => t.rd F.DMA_CH_STAT_STATE c.val = 0 ∧
      t.rd F.DMA_RING_TAIL_TAIL c.val = v.toNat % 2 ^ F.DMA_RING_TAIL_TAIL.width ∧ t.dma = s.dma) ∧
    (s.rd F.DMA_CH_CFG_ENABLE c.val = 1 → s.rd F.DMA_RING_HEAD_HEAD c.val = v.toNat % 2 ^ F.DMA_RING_TAIL_TAIL.width →
      Answers (.dmaRingTailWrite p c v) s fun t => t.rd F.DMA_CH_STAT_STATE c.val = 1 ∧ t.dma = s.dma) ∧
    (∀ w, ringWord s (dmaSlotAddr s c.val (s.rd F.DMA_RING_HEAD_HEAD c.val)) = w → s.rd F.DMA_CH_CFG_ENABLE c.val = 1 →
      s.rd F.DMA_RING_HEAD_HEAD c.val ≠ v.toNat % 2 ^ F.DMA_RING_TAIL_TAIL.width →
      (bitOf w 511 = false → Answers (.dmaRingTailWrite p c v) s fun t => t.rd F.DMA_CH_STAT_STATE c.val = 6 ∧ t.dma = s.dma) ∧
      (bitOf w 511 = true → dmaBad s c.val w = false → bitOf w 11 = false → bitOf w 12 = false →
        Answers (.dmaRingTailWrite p c v) s fun t => t.rd F.DMA_CH_STAT_STATE c.val = 2 ∧
          t.dma.jobs.find c.val = some { dmaParse w with waitTick := false, waitLink := false } ∧
          t.rd F.DMA_RING_HEAD_HEAD c.val =
            (s.rd F.DMA_RING_HEAD_HEAD c.val + 1) % dmaSlots s c.val % 2 ^ F.DMA_RING_HEAD_HEAD.width))) ∧
  (∀ (c : Fin 96) (s : State) (j : DmaJob), s.dma.jobs.find c.val = some j → s.rd F.DMA_CH_STAT_STATE c.val = 2 →
    (∀ d, j.op = 1 → bitOf j.ctl 1 = true → Answers (.hostToMere c d) s fun t =>
      t.cip.stream.find c.val = some (d % 2 ^ (8 * j.len)) ∧
      (bitOf j.ctl 0 = true → bitOf (t.rd F.DMA_DONE_DONE (c.val / 32)) (c.val % 32) = true)) ∧
    (∀ d u, j.op = 1 → bitOf j.ctl 1 = false → dmaStore j (d / 2 ^ (8 * j.done)) s.begin = (none, u) → bitOf j.ctl 0 = true →
      Answers (.hostToMere c d) s fun t => bitOf (t.rd F.DMA_DONE_DONE (c.val / 32)) (c.val % 32) = true) ∧
    (∀ v u, j.op = 2 → dmaLoad j s.begin = ((none, v), u) → Answers (.mereToHost c) s fun t =>
      .hostData j.cntlid c.val [v] ∈ t.out ∧
      (bitOf j.ctl 0 = true → bitOf (t.rd F.DMA_DONE_DONE (c.val / 32)) (c.val % 32) = true)) ∧
    (∀ v u x, j.op = 3 → dmaLoad j s.begin = ((none, v), u) → dmaStore j v u = (none, x) → bitOf j.ctl 0 = true →
      Answers (.dmaCopy c) s fun t => bitOf (t.rd F.DMA_DONE_DONE (c.val / 32)) (c.val % 32) = true) ∧
    (∀ e : DmaError, e.cause.val ≠ 0 → Answers (.dmaBusError c e) s fun t =>
      if s.rd F.DMA_CH_CFG_MODE c.val = 1 ∧ s.rd F.DMA_CH_STAT_ATTEMPTS c.val < s.rd F.DMA_CH_CFG_RETRY_MAX c.val then
        t.rd F.DMA_CH_STAT_STATE c.val = 4 ∧ t.dma.errs.find c.val = some e
      else t.rd F.DMA_CH_STAT_STATE c.val = 5 ∧ t.rd F.DMA_ERR_INFO_CAUSE c.val = e.cause.val ∧
        t.rd F.DMA_ERR_ADDR_LO_ADDR_LO c.val = e.addr.toNat % 2 ^ 32 ∧ t.rd F.DMA_ERR_ADDR_HI_ADDR_HI c.val = e.addr.toNat / 2 ^ 32 ∧
        bitOf (t.rd F.DMA_HALT_HALT (c.val / 32)) (c.val % 32) = true)) ∧
  (∀ (m : Fin 16) (c : Nat) (s : State) (j : DmaJob), s.rd F.DMA_TIMER_PERIOD m.val ≠ 0 → s.dma.jobs.find c = some j →
    j.waitTick = true → j.waitLink = false → s.rd F.DMA_CH_CFG_TIMER c = m.val → Answers (.dmaTimerTick m) s fun t =>
      t.rd F.DMA_CH_STAT_STATE c = 2 ∧ ∃ k, t.dma.jobs.find c = some k ∧ k.waitTick = false) ∧
  (∀ (c : Fin 96) (s : State) (j : DmaJob) (e : DmaError), s.dma.jobs.find c.val = some j → s.dma.errs.find c.val = some e →
    s.rd F.DMA_CH_STAT_STATE c.val = 4 →
    (Answers (.dmaRetryWait c true) s fun t => t.rd F.DMA_CH_STAT_STATE c.val = 2 ∧ t.rd F.DMA_CH_STAT_ATTEMPTS c.val = 0 ∧
      t.dma.jobs.find c.val = some { j with retries := min 255 (j.retries + 1) } ∧ t.dma.errs.find c.val = none) ∧
    (s.rd F.DMA_CH_CFG_RETRY_MAX c.val ≤ s.rd F.DMA_CH_STAT_ATTEMPTS c.val + 1 → Answers (.dmaRetryWait c false) s fun t =>
      t.rd F.DMA_CH_STAT_STATE c.val = 5 ∧ t.rd F.DMA_ERR_INFO_CAUSE c.val = e.cause.val)) ∧
  (∀ (p : AccessPath) (c : Fin 96) (s : State),
    (s.rd F.DMA_CH_STAT_STATE c.val = 5 → Answers (.dmaResume p c) s fun t => t.rd F.DMA_CH_STAT_STATE c.val = 2 ∧
      t.dma.jobs = s.dma.jobs ∧ t.dma.errs.find c.val = none) ∧
    (s.rd F.DMA_CH_STAT_STATE c.val ≠ 5 → Answers (.dmaResume p c) s fun t => t.dma = s.dma ∧
      t.rd F.DMA_CH_STAT_STATE c.val = s.rd F.DMA_CH_STAT_STATE c.val) ∧
    (∀ j, s.rd F.DMA_CH_STAT_STATE c.val = 5 → s.dma.jobs.find c.val = some j → s.rd F.DMA_CH_CFG_ENABLE c.val = 1 →
      s.rd F.DMA_RING_HEAD_HEAD c.val = s.rd F.DMA_RING_TAIL_TAIL c.val → Answers (.dmaSkip p c) s fun t =>
        t.rd F.DMA_CH_STAT_STATE c.val = 1 ∧ t.dma.jobs.find c.val = none) ∧
    (Answers (.dmaReset p c) s fun t => t.rd F.DMA_CH_CFG_ENABLE c.val = 0 ∧ t.rd F.DMA_CH_STAT_STATE c.val = 0 ∧
      t.rd F.DMA_RING_HEAD_HEAD c.val = s.rd F.DMA_RING_HEAD_HEAD c.val ∧ t.dma.jobs.find c.val = none))

/-- Mailboxes and control-core pairs (R519, R520, R524 to R527, R530): the bound sender's write of word 3 pushes while fewer
than 16 entries wait, a full queue overflows, the bound receiver's read pops; a lost pair waits for the spare to take its
identity; a woken pair runs. Clauses that the manual leaves open rest on log entry 16. -/
def Obligations.MailboxesAndPairs : Prop :=
  (∀ (p : AccessPath) (ch : Fin 256) (w : Word) (s : State),
    (isSender s p ch.val = true → (chanOf s ch.val).queue.length < 16 → Answers (.mailboxPush p ch w) s fun t =>
      (chanOf t ch.val).queue = (chanOf s ch.val).queue ++ [(chanOf s ch.val).staging.set 3 w.toNat] ∧
      ∀ k, k ≠ ch.val → chanOf t k = chanOf s k) ∧
    (isSender s p ch.val = true → 16 ≤ (chanOf s ch.val).queue.length → internalPath p = false →
      Answers (.mailboxPush p ch w) s fun t => t.mbx = s.mbx ∧ t.rd F.MBX_CH_STAT_OVF ch.val = 1 ∧ t.rd F.MBX_EVT_OVERFLOW = 1) ∧
    (internalPath p = true → isSender s p ch.val = false ∨ 16 ≤ (chanOf s ch.val).queue.length →
      Answers (.mailboxPush p ch w) s fun t => t.mbx = s.mbx ∧ t.out = [.busError (violator s p)]) ∧
    (isSender s p ch.val = false → Answers (.mailboxPush p ch w) s fun t => t.mbx = s.mbx)) ∧
  (∀ (p : AccessPath) (ch : Fin 256) (s : State) (m : List Nat) (q : List (List Nat)), isReceiver s p ch.val = true →
    (chanOf s ch.val).queue = m :: q → Answers (.mailboxPop p ch) s fun t => (chanOf t ch.val).queue = q ∧
      t.readData = BitVec.ofNat 32 (m.getD 3 0)) ∧
  (∀ (p : AccessPath) (ch : Fin 256) (s : State), isReceiver s p ch.val = false → Answers (.mailboxPop p ch) s fun t =>
    t.mbx = s.mbx ∧ t.readData = 0) ∧
  (∀ (p : Fin 12) (s : State), s.rd F.MBX_PAIR_STAT_STATE p.val ≠ 2 → ∀ e ∈ [(Instr.pairCheckerMismatch p, 1),
    (Instr.pairWatchdogTimeout p, 2), (Instr.pairMemoryError p, 3)], Answers e.1 s fun t => t.rd F.MBX_PAIR_STAT_STATE p.val = 2 ∧
      t.rd F.MBX_PAIR_STAT_CAUSE p.val = e.2 ∧ t.rd F.MBX_EVT_PAIR_LOST = 1 ∧
      (s.rd F.MBX_PAIR_STAT_STATE p.val ≠ 1 → p.val ∈ t.mbx.takeover)) ∧
  (∀ (l p : Fin 12) (i : Nat) (s : State), l.val ∈ s.mbx.takeover → s.rd F.MBX_PAIR_STAT_STATE l.val = 2 →
    s.rd F.MBX_PAIR_STAT_ID_A l.val = i → i < 15 → s.rd F.MBX_PAIR_STAT_ID_B l.val = 15 →
    (List.range 12).find? (fun p => s.rd F.MBX_PAIR_STAT_STATE p = 1) = some p.val → Answers (.pairTakeover l) s fun t =>
      t.rd F.MBX_PAIR_STAT_STATE p.val = 0 ∧ t.rd F.MBX_PAIR_STAT_ID_A p.val = i ∧ t.rd F.MBX_PAIR_STAT_ID_A l.val = 15 ∧
      l.val ∉ t.mbx.takeover) ∧
  (∀ (a : AccessPath) (p : Fin 16) (s : State), expertOpen s a = true → p.val < 12 → s.rd F.MBX_PAIR_STAT_STATE p.val ≠ 2 →
    Answers (.pairTestInject a p) s fun t => t.rd F.MBX_PAIR_STAT_STATE p.val = 2 ∧ t.rd F.MBX_PAIR_STAT_CAUSE p.val = 1) ∧
  (∀ (p : Fin 12) (s : State), p.val ∈ s.mbx.waking → Answers (.pairWake p) s fun t => t.rd F.MBX_PAIR_STAT_STATE p.val = 0 ∧
    p.val ∉ t.mbx.waking)

/-- R531, R535 to R538: a severity-3 event with a free slot is recorded under the next SEQ whatever its rate; a code outside the
table records nothing; an event below severity 3 is dropped while DROPPING holds. PEAT_TOKEN_REFILL, PEAT_RL_WRITE and
PEAT_GAP_RECORD (R536, R538, R544): tokens are kept in millionths; a critical code has none; the gap entry counts what was
dropped. Clauses that the manual leaves open rest on log entries 15, 19. -/
def Obligations.PeatRecordsAndLimits : Prop :=
  (∀ (code source : BitVec 16) (arg : Word) (aux : Byte) (s : State), peatSev code.toNat = some 3 → 0 < peatFree s →
    s.peat.unknown = false → Answers (.peatEventRecord code source arg aux) s fun t =>
      t.peat.next = s.peat.next + 1 ∧
      (∃ e, t.peat.ring.find (s.peat.next % 65536) = some e ∧ e.seq = s.peat.next ∧ e.code = code.toNat ∧ e.source = source.toNat ∧
        e.arg = arg.toNat ∧ e.aux = aux.toNat ∧ e.sev = 3 ∧ e.suppressed = 0 ∧ e.time = s.life.now % 2 ^ 48) ∧
      (∀ k, k ≠ s.peat.next % 65536 → t.peat.ring.find k = s.peat.ring.find k) ∧
      t.peat.archived = s.peat.archived ∧ t.peat.dropped = s.peat.dropped ∧
      t = { s with regs := t.regs, free := t.free, peat := t.peat, out := [] } ∧ SameOutside [0x90] s.regs t.regs) ∧
  (∀ (code source : BitVec 16) (arg : Word) (aux : Byte) (s : State), peatSev code.toNat = none →
    Answers (.peatEventRecord code source arg aux) s fun t => t = s.begin) ∧
  (∀ (code source : BitVec 16) (arg : Word) (aux : Byte) (s : State) (v : Nat), peatSev code.toNat = some v → v < 3 →
    s.isSet F.PEAT_STAT_DROPPING = true → Answers (.peatEventRecord code source arg aux) s fun t =>
      t.peat = { s.peat with dropped := s.peat.dropped + 1 } ∧
      t.rd F.PEAT_CNT_DROP_COUNT = min 0xFFFFFFFF (s.rd F.PEAT_CNT_DROP_COUNT + 1) ∧
      t = { s with regs := t.regs, peat := t.peat, out := [] }) ∧
  (∀ (code : BitVec 16) (n : Nat) (s : State), peatCritical code.toNat = false → Answers (.peatTokenRefill code n) s fun t =>
    let c := Tab.get {} s.peat.codes code.toNat
    (Tab.get {} t.peat.codes code.toNat).micro = min (c.burst * 1000000) (c.micro + c.rate * n) ∧
    (∀ k, k ≠ code.toNat → Tab.get {} t.peat.codes k = Tab.get {} s.peat.codes k) ∧
    t = { s with peat := { s.peat with codes := t.peat.codes }, out := [] }) ∧
  (∀ (code : BitVec 16) (n : Nat) (s : State), peatCritical code.toNat = true →
    Answers (.peatTokenRefill code n) s fun t => t = s.begin) ∧
  (∀ (p : AccessPath) (v : Word) (s : State), peatCritical (s.rd F.PEAT_CODE_SEL_CODE) = false →
    F.PEAT_RL_RATE.legal (bits v.toNat 0 10) = true → F.PEAT_RL_BURST.legal (bits v.toNat 10 8) = true →
    Answers (.peatRlWrite p v) s fun t =>
      let c := Tab.get {} t.peat.codes (s.rd F.PEAT_CODE_SEL_CODE)
      c.rate = bits v.toNat 0 10 ∧ c.burst = bits v.toNat 10 8 ∧
      c.micro = min (Tab.get {} s.peat.codes (s.rd F.PEAT_CODE_SEL_CODE)).micro (bits v.toNat 10 8 * 1000000) ∧
      t = { s with peat := { s.peat with codes := t.peat.codes }, out := [] }) ∧
  (∀ s : State, s.isSet F.PEAT_STAT_DROPPING = true → 2048 < peatFree s → s.peat.unknown = false →
    Answers .peatGapRecord s fun t =>
      t.rd F.PEAT_STAT_DROPPING = 0 ∧ t.peat.dropped = 0 ∧ t.peat.next = s.peat.next + 1 ∧
      (∃ e, t.peat.ring.find (s.peat.next % 65536) = some e ∧ e.code = 0x9001 ∧ e.sev = 3 ∧ e.seq = s.peat.next ∧
        e.arg = min 0xFFFFFFFF s.peat.dropped % 2 ^ 32) ∧
      t = { s with regs := t.regs, free := s.free + 1, peat := t.peat, out := [] } ∧
      SameBut [(F.PEAT_STAT_DROPPING, 0)] s.regs t.regs) ∧
  (∀ s : State, s.isSet F.PEAT_STAT_DROPPING = false ∨ peatFree s ≤ 2048 → Answers .peatGapRecord s fun t => t = s.begin)

/-- The archiver (R539 to R541, R543): a full row, an entry MAX_AGE old and NOW each archive the oldest pending entries of a
row, in SEQ order; after row 511 the next segment opens and names the one before. -/
def Obligations.PeatArchives : Prop :=
  (∀ (s : State) (id : Nat), s.peat.segment = some id → s.peat.segRow < 511 → 0 < peatUnarch s → peatRowEntries s ≤ peatUnarch s →
    Answers (.peatArchiveRow true) s fun t =>
      t.peat.archived = s.peat.archived + peatRowEntries s ∧ t.peat.segRow = s.peat.segRow + 1 ∧ t.peat.segment = some id ∧
      t.peat.ring = s.peat.ring ∧ t.peat.next = s.peat.next) ∧
  (∀ (s : State) (ok : Bool), peatUnarch s < peatRowEntries s → Answers (.peatArchiveRow ok) s fun t => t = s.begin) ∧
  (∀ (s : State) (id : Nat) (e : PeatEntry), s.peat.ring.find ((s.peat.archived + 1) % 65536) = some e →
    s.rd F.PEAT_CTL_MAX_AGE * 3600 ≤ s.life.now - e.time → s.peat.segment = some id → s.peat.segRow < 511 → 0 < peatUnarch s →
    Answers .peatMaxAgeTimeout s fun t =>
      t.peat.archived = s.peat.archived + min (peatUnarch s) (peatRowEntries s) ∧ t.peat.segRow = s.peat.segRow + 1) ∧
  (∀ (p : AccessPath) (s : State) (id : Nat), s.peat.segment = some id → s.peat.segRow < 511 → 0 < peatUnarch s →
    peatUnarch s ≤ peatRowEntries s → Answers (.peatNow p) s fun t =>
      peatUnarch t = 0 ∧ t.peat.archived = s.peat.next - 1 ∧ t.peat.segRow = s.peat.segRow + 1) ∧
  (∀ (p : AccessPath) (s : State), peatUnarch s = 0 → Answers (.peatNow p) s fun t => t = s.begin) ∧
  (∀ (s : State) (id : Nat) (r : Nat × State), s.peat.segment = some id → 512 ≤ s.peat.segRow → metaStripe 6 s.begin = some r →
    Answers .peatSegmentFull s fun t =>
      t.peat.segment = some r.1 ∧ t.peat.segRow = 0 ∧ t.peat.chain = r.1 :: s.peat.chain ∧ t.peat.segNo = s.peat.segNo + 1)

/-- Power failure (R546, R547, R549, R551, R553, R554, R568): the decision stops the device and cannot be withdrawn; the other
input agrees within the window or the disagreement is recorded; a short low is a glitch; at the end of the flush every range
still dirty is recorded as lost; both inputs high restart the device with cause 2. Clauses that the manual leaves open rest
on log entries 61, 63. -/
def Obligations.PowerFails : Prop :=
  (∀ (i : PfInput) (g : Nat) (s : State),
    (s.pwr.decided = false → Answers (.pfailInputFall i g) s fun t => t = setPf i true s.begin) ∧
    (s.pwr.decided = true → s.pwr.first ≠ pfNo i → s.pwr.agree = 1 → Answers (.pfailInputFall i g) s fun t =>
      t.rd (pfField i) = 1 ∧ t.pwr.decided = true ∧
      (g ≤ 10 * s.rd F.PWR_PF_CTL_AGREE → t.pwr.agree = 2) ∧
      (10 * s.rd F.PWR_PF_CTL_AGREE < g → t.pwr.agree = 4 ∧ t.rd F.PWR_EVT_DISAGREE = 1)) ∧
    (pfLow s i = true → Answers (.pfailInputRise i) s fun t => pfLow t i = false ∧ t.rd (pfField i) = 0 ∧
      (s.rd (pfField i) ≠ 1 → t.rd F.PWR_CNT_GLITCH_COUNT =
        min (2 ^ F.PWR_CNT_GLITCH_COUNT.width - 1) (s.rd F.PWR_CNT_GLITCH_COUNT + 1)) ∧
      (s.rd (pfField i) = 1 → t.rd F.PWR_CNT_GLITCH_COUNT = s.rd F.PWR_CNT_GLITCH_COUNT) ∧ t.pwr.decided = s.pwr.decided) ∧
    (fenCount s ≤ 16 → s.pwr.decided = false → pfLow s i = true → s.rd F.PWR_HT_STAT_STATE ≠ 2 → s.rd F.PWR_HT_STAT_STATE ≠ 3 → s.pwr.ride = false →
      Answers (.powerFailDecision i false) s fun t => t.pwr.decided = true ∧ t.pwr.flushing = true ∧ t.pwr.first = pfNo i ∧
        t.pwr.pending = s.map.dirty.map Prod.fst ∧ t.rd F.PWR_STAT_DECIDED = 1 ∧ t.rd (pfField i) = 1 ∧ t.dma.jobs = [] ∧
        t.cus.busy = none ∧ (s.rd F.PWR_HT_STAT_STATE = 1 → t.rd F.PWR_HT_STAT_STATE = 6))) ∧
  (∀ s : State, s.pwr.decided = true → s.pwr.agree = 1 → Answers .pfailAgreeTimeout s fun t =>
    t.pwr = { s.pwr with agree := 3 } ∧ t.rd F.PWR_EVT_DISAGREE = 1) ∧
  (∀ (us : Nat) (s : State), fenCount s ≤ 16 → s.pwr.flushing = true → Answers (.flushEnd us) s fun t => t.pwr.flushing = false ∧ t.pwr.pending = [] ∧
    t.pwr.decided = s.pwr.decided ∧ t.ret.savedThermal = s.ret.thermal ∧
    (∀ e ∈ s.map.dirty, ∃ r ∈ t.map.core.lost, r.ltn = e.1 / 262144 ∧ r.off ≤ 8 * (e.1 % 262144) ∧ 8 * (e.1 % 262144) + 8 ≤ r.off + r.len) ∧
    (s.rd F.MAP_STATUS_READY = 1 → t.rd F.PWR_FL_INFO_OCCURRED = 1 ∧ t.rd F.PWR_FL_INFO_COMPLETE = 1)) ∧
  (∀ (n : Nat) (r : Bool) (s : State), fenCount s ≤ 16 → s.pwr.flushing = true → Answers (.flushLimitExpiry n r) s fun t => t.pwr.flushing = false ∧
    t.pwr.pending = [] ∧ t.ret.savedThermal = s.ret.thermal ∧
    (s.rd F.MAP_STATUS_READY = 1 → t.rd F.PWR_FL_INFO_OCCURRED = 1 ∧ t.rd F.PWR_FL_INFO_COMPLETE = 0)) ∧
  (∀ s : State, s.pwr.decided = true → s.pwr.flushing = false → s.pwr.lowA = false → s.pwr.lowB = false →
    Answers .pfailRestartTimer s fun t => t.boot.step = 1 ∧ (thisRecord t).cause = 2 ∧ t.pwr.decided = false ∧ t.map.dirty = [])

/-- The hold-up test (R559, R560). Clauses that the manual leaves open rest on log entry 62. -/
def Obligations.HoldupTests : Prop :=
  (∀ s : State, s.image.power.htHours ≠ 0 → s.pwr.htDue ≤ s.life.now → Answers .holdupTestDue s fun t =>
    t.pwr = { s.pwr with htReq := true } ∧ t.rd F.PWR_EVT_HT_REQ = 1) ∧
  (∀ (p : AccessPath) (s : State), s.rd F.PWR_HT_STAT_STATE = 0 ∨ 4 ≤ s.rd F.PWR_HT_STAT_STATE → s.pwr.decided = false →
    Answers (.htArm p) s fun t => t.rd F.PWR_HT_STAT_STATE = 1 ∧ t.rd F.PWR_HT_STAT_OVERDUE = 0 ∧ t.pwr = { s.pwr with htReq := false }) ∧
  (∀ (p : AccessPath) (s : State), s.rd F.PWR_HT_STAT_STATE = 1 ∨ s.rd F.PWR_HT_STAT_STATE = 2 → Answers (.htCancel p) s fun t =>
    t.rd F.PWR_HT_STAT_STATE = 6 ∧ t.rd F.PWR_EVT_HT_DONE = 1) ∧
  (∀ s : State, s.rd F.PWR_HT_STAT_STATE = 1 → s.map.dirty = [] → Answers .htReady s fun t => t.rd F.PWR_HT_STAT_STATE = 2 ∧
    t.rd F.PWR_EVT_HT_READY = 1 ∧ t.map.dirty = []) ∧
  (∀ (i : PfInput) (s : State), s.rd F.PWR_HT_STAT_STATE = 2 → Answers (.htRideStart i) s fun t => t.rd F.PWR_HT_STAT_STATE = 3 ∧
    t.pwr.ride = true ∧ t.pwr.htMarks = 0 ∧ pfLow t i = true ∧ t.pwr.decided = s.pwr.decided) ∧
  (∀ s : State, s.rd F.PWR_HT_STAT_STATE = 3 → Answers .htRideMark s fun t => t.pwr = { s.pwr with htMarks := s.pwr.htMarks + 1 }) ∧
  (∀ (e : Nat) (s : State), s.rd F.PWR_HT_STAT_STATE = 3 → s.cfg.reapply = none → Answers (.htRidePass e) s fun t =>
    t.rd F.PWR_HT_STAT_STATE = 4 ∧ t.rd F.PWR_HT_ENERGY_MJ = e % 2 ^ F.PWR_HT_ENERGY_MJ.width ∧ t.rd F.PWR_STAT_HT_FAILED = 0 ∧
    t.pwr = { s.pwr with htFailed := false, htDue := s.life.now + 3600 * s.image.power.htHours }) ∧
  (∀ s : State, s.rd F.PWR_HT_STAT_STATE = 3 → Answers .htInputsRise s fun t => t.rd F.PWR_HT_STAT_STATE = 6 ∧ t.pwr.ride = false ∧
    t.pwr.lowA = false ∧ t.pwr.lowB = false ∧ t.pwr.htFailed = s.pwr.htFailed) ∧
  (∀ s : State, s.rd F.PWR_HT_STAT_STATE = 2 → Answers .htReadyTimeout s fun t => t.rd F.PWR_HT_STAT_STATE = 6 ∧
    t.rd F.PWR_EVT_HT_DONE = 1) ∧
  (∀ s : State, s.pwr.htReq = true → Answers .htOverdue s fun t => t.rd F.PWR_HT_STAT_OVERDUE = 1 ∧ t.pwr = s.pwr)

/-- The seal (R562, R563, R565): samples that agree set the agreed state and end a disagreement; a disagreement that lasts its
discrepancy time latches the fault; only a Custodian session clears the fault, while both inputs agree, and sets SOFT.
Clauses that the manual leaves open rest on log entry 64. -/
def Obligations.SealInputs : Prop :=
  (∀ (a b : Bool) (s : State), s.pwr.decided = false →
    (a ≠ b → Answers (.sealSample a b) s fun t => t.sea.agreed = a ∧ t.sea.samples = 0 ∧ t.sea.fault = s.sea.fault) ∧
    (a = b → s.sea.samples ≠ 0 → s.sea.samples + 1 ≠ s.sea.td → Answers (.sealSample a b) s fun t =>
      t.sea.samples = s.sea.samples + 1 ∧ t.sea.fault = s.sea.fault ∧ t.sea.agreed = s.sea.agreed) ∧
    (a = b → s.sea.samples ≠ 0 → s.sea.samples + 1 = s.sea.td → Answers (.sealSample a b) s fun t => t.sea.fault = true ∧
      t.rd F.SEAL_EVT_FAULT = 1) ∧
    (a = b → s.sea.samples = 0 → Answers (.sealSample a b) s fun t => t.sea.samples = 1 ∧ t.sea.td = s.rd F.SEAL_CTL_DISC ∧
      t.rd F.SEAL_CNT_DISC_COUNT = min (2 ^ F.SEAL_CNT_DISC_COUNT.width - 1) (s.rd F.SEAL_CNT_DISC_COUNT + 1))) ∧
  (∀ (a b : Bool) (s : State), s.pwr.decided = true → Answers (.sealSample a b) s fun t => t = s.begin) ∧
  (∀ s : State, sealAgree s.sea.a s.sea.b = true → Answers (.sealClear .custodian) s fun t => t.sea.fault = false ∧
    t.sea.soft = s.sea.soft) ∧
  (∀ (p : AccessPath) (s : State), p ≠ .custodian ∨ sealAgree s.sea.a s.sea.b = false → Answers (.sealClear p) s fun t => t.sea = s.sea) ∧
  (∀ (e : Bool) (s : State), Answers (.sealSoft .custodian e) s fun t => t.sea.soft = e ∧ t.sea.fault = s.sea.fault ∧
    t.rd F.SEAL_CTL_SOFT = b2n e) ∧
  (∀ (p : AccessPath) (e : Bool) (s : State), p ≠ .custodian → Answers (.sealSoft p e) s fun t => t = s.begin)

/-- Firmware download (R576, R578, R580, R588): a first piece opens a download and empties the staging slot; the piece that
brings END puts the image that its bytes make into it; a piece that a check of R576 refuses leaves it empty with its code; a
second owner is turned away. Firmware Commit and activation without reset (R375, R579, R581 to R583). Clauses that the manual
leaves open rest on log entries 54, 60, 92. -/
def Obligations.FirmwareUpdates : Prop :=
  (∀ (n : SlotNo) (p : Piece) (s : State) (k : Cmd) (c : Ctrl), Admitted s n.val k c → k.isAdmin 0x11 = true →
    s.upd.commit = none → s.cwy.chain = false →
    (∀ len v e, (s.upd.isOpen = true → s.upd.owner = k.ctrl) → k.dw 11 = 0 → len = 4 * (k.dw 10 + 1) → len ≤ 33554432 →
      byteField p.data 0 4 = magicDelta → v = p.data % 2 ^ (8 * len) → e = deltaCheck (deltaBase s) v len →
      Answers (.firmwareImageDownload n p) s fun t => t.upd.running = s.upd.running ∧
        (e = 0 → len < 160 ∨ len < deltaHead v → Ended t n.val 0 0 ∧ t.upd.isOpen = true ∧ t.upd.owner = k.ctrl ∧ t.upd.off = len ∧
          t.upd.buf = v ∧ fwSlot t (fwStaging s) = none) ∧
        (e ≠ 0 → Ended t n.val (errStatus e) 0 ∧ t.upd.isOpen = false ∧ fwSlot t (fwStaging s) = none ∧
          t.rd F.UPD_STAT_ERR = e ∧ t.rd F.UPD_EVT_REFUSED = 1)) ∧
    (∀ len v e r, s.upd.isOpen = true → s.upd.owner = k.ctrl → s.upd.twima = false → s.upd.failed = false → k.dw 11 ≠ 0 →
      4 * k.dw 11 = s.upd.off → k.dw 11 % 1024 = 0 → len = s.upd.off + 4 * (k.dw 10 + 1) → len ≤ 33554432 → p.flashOk = true →
      v = s.upd.buf % 2 ^ (8 * s.upd.off) + 2 ^ (8 * s.upd.off) * (p.data % 2 ^ (8 * (4 * (k.dw 10 + 1)))) →
      e = deltaCheck (deltaBase s) v len → r = deltaApply { s with upd := { s.upd with off := len, buf := v } } →
      Answers (.firmwareImageDownload n p) s fun t => t.upd.floor = s.upd.floor ∧ t.upd.running = s.upd.running ∧
        (e ≠ 0 → Ended t n.val (errStatus e) 0 ∧ t.upd.isOpen = false ∧ fwSlot t (fwStaging s) = none) ∧
        (e = 0 → 160 ≤ len → deltaHead v ≤ len → r.err = 0 → r.atEnd = true →
          fwDigestsOk (parseFw s.upd.rotKey s.upd.rotDigest r.out) = true → Ended t n.val 0 0 ∧ t.upd.isOpen = false ∧
            fwSlot t (fwStaging s) = some (parseFw s.upd.rotKey s.upd.rotDigest r.out) ∧
            Tab.get 0 t.upd.fwBytes (fwStaging s) = r.out ∧ t.rd F.UPD_EVT_APPLIED = 1)) ∧
    (s.upd.isOpen = true → s.upd.owner ≠ k.ctrl → Answers (.firmwareImageDownload n p) s fun t => Ended t n.val 0x0C 0 ∧
      t.upd = s.upd)) ∧
  (∀ (n : SlotNo) (s : State) (k : Cmd) (c : Ctrl) (f : Nat), Admitted s n.val k c → k.isAdmin 0x10 = true → s.upd.commit = none →
    bits (k.dw 10) 0 3 = f → f = 1 ∨ f = 2 →
    (∀ i, bits (k.dw 10) 3 3 = 0 → f ≠ s.upd.running → fwSlot s f = some i → Answers (.fwCommitStore n) s fun t =>
      Ended t n.val 0 0 ∧ t.upd = { s.upd with stored := true }) ∧
    (∀ i, bits (k.dw 10) 3 3 = 1 → f ≠ s.upd.running → fwSlot s f = some i → Answers (.fwCommitStorePending n) s fun t =>
      Ended t n.val 0x10B 0 ∧ t.upd.stored = true ∧ t.upd.pending = f ∧ t.upd.tries = 3 ∧ t.upd.active = s.upd.active ∧
        t.upd.selLast = 1 - s.upd.selLast) ∧
    (∀ i, bits (k.dw 10) 3 3 = 2 → f ≠ s.upd.running → fwSlot s f = some i → s.upd.floor ≤ i.serial →
      Answers (.fwCommitActivateNextReset n) s fun t => Ended t n.val 0 0 ∧ t.upd.pending = f ∧ t.upd.tries = 3 ∧
        t.upd.active = s.upd.active ∧ t.upd.stored = s.upd.stored ∧ t.upd.selLast = 1 - s.upd.selLast) ∧
    (∀ i, bits (k.dw 10) 3 3 = 2 → f ≠ s.upd.running → fwSlot s f = some i → i.serial < s.upd.floor →
      Answers (.fwCommitActivateNextReset n) s fun t => Ended t n.val 0x107 0 ∧ t.upd = s.upd ∧ t.rd F.UPD_EVT_REFUSED = 1) ∧
    (bits (k.dw 10) 3 3 = 3 → f = s.upd.running → Answers (.fwCommitActivateNow n) s fun t => Ended t n.val 0 0 ∧ t.upd = s.upd) ∧
    (∀ i, bits (k.dw 10) 3 3 = 3 → f ≠ s.upd.running → fwSlot s f = some i → s.upd.floor ≤ i.serial → nvqSealed s = true →
      Answers (.fwCommitActivateNow n) s fun t => Ended t n.val 0x113 0 ∧ t.upd = s.upd) ∧
    (∀ i, bits (k.dw 10) 3 3 = 3 → f ≠ s.upd.running → fwSlot s f = some i → s.upd.floor ≤ i.serial → nvqSealed s = false →
      (fwSlot s s.upd.running).all (fun r => resetNeeded r i) = false → fwDigestsOk i = true → i.patch = none → s.cfg.reapply = none → s.ucs.epoch = none →
      Answers (.fwCommitActivateNow n) s fun t => t.nvq.act = 1 ∧ t.nvq.actSlot = some f ∧ t.upd.commit = some n.val ∧
        t.rd F.UPD_STAT_STATE = 3)) ∧
  (∀ (ms : Nat) (s : State), s.nvq.act = 1 → drained s = true → Answers (.activationDrainEnd ms) s fun t => t.nvq.act = 2 ∧
    t.rd F.NVQ_ACT_STAT_DRAIN_MS = ms % 2048 ∧ t.upd = s.upd) ∧
  (∀ (s : State) (n : Nat) (k : Cmd), s.nvq.act = 1 → s.upd.commit = some n → n ≠ cusCommit → s.slot? n = some k →
    Answers .activationDrainTimeout s fun t => Ended t n 0x112 0 ∧ t.nvq.act = 0 ∧ t.upd.commit = none ∧
      t.upd.running = s.upd.running ∧ t.rd F.NVQ_ACT_STAT_ABANDONED = 1 ∧ ∀ e ∈ t.nvq.ctrls, e.2.pp = false) ∧
  (∀ (us : Nat) (s : State) (f n : Nat) (k : Cmd), s.nvq.act = 2 → s.nvq.actSlot = some f → s.upd.commit = some n → n ≠ cusCommit →
    s.slot? n = some k → Answers (.activationPauseEnd us) s fun t => Ended t n 0 0 ∧ t.nvq.act = 0 ∧ t.upd.running = f ∧
      t.upd.active = f ∧ t.upd.pending = 0 ∧ t.upd.commit = none ∧ t.rd F.UPD_EVT_ACTIVATED = 1 ∧
      t.rd F.NVQ_ACT_STAT_PAUSE_US = us % 1024)

/-- Custodian sessions (R596 to R599): the eighth response word opens a session with the next number and its transport key where
it matches, else it counts a failure, the third of which locks out; the nonce is renewed; a session that idles or is closed
ends. Clauses that the manual leaves open rest on log entries 55, 82. -/
def Obligations.CustodianSessions : Prop :=
  (∀ (w : Word) (s : State), 2 < s.boot.step → s.cus.lockout = false →
    (s.cus.words.length < 7 → Answers (.sessionResponseWrite w) s fun t => t.cus = { s.cus with words := s.cus.words ++ [w.toNat] }) ∧
    (s.cus.words.length = 7 → wordsNumber (s.cus.words ++ [w.toNat]) = cusAnswer s →
      Answers (.sessionResponseWrite w) s fun t => t.cus.isOpen = true ∧ t.cus.number = nextSession s.cus.number ∧
        t.cus.recovery = s.cfg.run.isNone ∧ t.cus.transport = cusTransport s ∧ t.cus.words = [] ∧ t.cus.fails = 0) ∧
    (s.cus.words.length = 7 → wordsNumber (s.cus.words ++ [w.toNat]) ≠ cusAnswer s →
      Answers (.sessionResponseWrite w) s fun t => t.cus.isOpen = s.cus.isOpen ∧ t.cus.number = s.cus.number ∧ t.cus.words = [] ∧
        (t.cus.lockout = true ↔ s.cus.fails = 2) ∧ t.rd F.CUS_EVT_AUTH_FAIL = 1)) ∧
  (∀ (w : Word) (s : State), s.cus.lockout = true → Answers (.sessionResponseWrite w) s fun t => t.cus = s.cus) ∧
  (∀ s : State, Answers .custodianNonceTimer s fun t => t.free = s.free + 1 ∧
    t.cus = { s.cus with nonce := Config.physical s.free % 2 ^ 128 }) ∧
  (∀ s : State, Answers .sessionLockoutEnd s fun t => t.cus.lockout = false ∧ t.cus.isOpen = s.cus.isOpen) ∧
  (∀ s : State, s.cus.isOpen = true → Answers .sessionIdleTimeout s fun t => t.cus.isOpen = false ∧ t.cus.transport = 0 ∧
    expertOpen t .custodian = false ∧ t.rd F.CUS_EVT_SESS_CLOSED = 1) ∧
  (∀ s : State, s.cus.isOpen = true → Answers .sessionClose s fun t => t.cus.isOpen = false ∧ t.cus.transport = 0 ∧
    expertOpen t .custodian = false)

/-- Custodian tasks on the device itself (R601 to R606, R615): the calendar is read and UTC set; the seal's own engagement
and fault follow; the escrow key is taken, unless the media fail, and exported; entries of the Peat log and the manifest are
exported; an image's piece is written, an image promoted, a firmware slot selected; the fuse counters are raised; a reset is
asked for. Clauses that the manual leaves open rest on log entries 11, 56, 69, 81, 92. -/
def Obligations.DeviceTasks : Prop :=
  (∀ s : State, TaskReady s → Answers .lifeRead s fun t => TaskEnds t 0x01 0 0 ∧
    t.rd F.CUS_TASK_RES_RES 0 + 2 ^ 32 * t.rd F.CUS_TASK_RES_RES 1 = s.life.now % 2 ^ 64 ∧
    t.rd F.CUS_TASK_RES_RES 2 + 2 ^ 32 * t.rd F.CUS_TASK_RES_RES 3 = unsigned s.life.utc 64) ∧
  (∀ s : State, TaskReady s → Answers .lifeSetUtc s fun t => TaskEnds t 0x02 0 0 ∧
    t.life = { s.life with utc := signed (argOf s 0 + 2 ^ 32 * argOf s 1) 64 }) ∧
  (∀ s : State, TaskReady s →
    (argOf s 0 ≤ 1 → Answers .sealTask s fun t => TaskEnds t 0x10 0 0 ∧ t.sea.soft = decide (argOf s 0 = 0) ∧ t.sea.fault = s.sea.fault) ∧
    (argOf s 0 = 2 → sealAgree s.sea.a s.sea.b = true → Answers .sealTask s fun t => TaskEnds t 0x10 0 0 ∧ t.sea.fault = false) ∧
    (argOf s 0 = 2 → sealAgree s.sea.a s.sea.b = false → Answers .sealTask s fun t => TaskEnds t 0x10 7 0 ∧ t.sea = s.sea)) ∧
  (∀ (ok : Bool) (s : State), TaskReady s →
    (bufBytes s 0 8 = 0 → Answers (.escrowImport ok) s fun t => TaskEnds t 0x20 2 0 ∧ t.cip = s.cip) ∧
    (bufBytes s 0 8 ≠ 0 → Answers (.escrowImport ok) s fun t =>
      (unwrapKey s.cus.transport (bufBytes s 8 40) = none → TaskEnds t 0x20 2 0 ∧ t.cip = s.cip) ∧
      (∀ y, unwrapKey s.cus.transport (bufBytes s 8 40) = some y → ok = false → TaskEnds t 0x20 8 0 ∧ t.cip = s.cip) ∧
      (∀ y, unwrapKey s.cus.transport (bufBytes s 8 40) = some y → ok = true → TaskEnds t 0x20 0 0 ∧
        t.cip.escrowId = bufBytes s 0 8 ∧ t.cip.escrowKey = y ∧
        ∀ k x, s.cip.slots.find k = some x → x.state ≠ 0 → x.nsid ≠ 0 → (Tab.get {} t.cip.slots k).escrow = bufBytes s 0 8))) ∧
  (∀ (s : State) (n : Namespace), TaskReady s → s.ns? (argOf s 0) = some n → s.cip.escrowId ≠ 0 →
    Answers .escrowExport s fun t => TaskEnds t 0x21 0 0 ∧
      ∀ i < 192, t.rd F.CUS_BUF_DATA i = bits (labelBytes s (argOf s 0) n 1 0) (32 * i) 32) ∧
  (∀ s : State, TaskReady s → Answers .peatExport s fun t => TaskEnds t 0x40 0 0 ∧
    t.rd F.CUS_TASK_RES_RES 0 = (peatTake (s.peat.archive.map Prod.snd ++ s.peat.ring.map Prod.snd) 64 (arg64 s 0)).length ∧
    ∀ i e, (peatTake (s.peat.archive.map Prod.snd ++ s.peat.ring.map Prod.snd) 64 (arg64 s 0))[i]? = some e → ∀ j < 16,
      t.rd F.CUS_BUF_DATA (16 * i + j) = bits (peatBytes e) (32 * j) 32) ∧
  (∀ s : State, TaskReady s → (argOf s 0 = 0 → Answers .manifest s fun t => TaskEnds t 0x50 0 0 ∧
      ∀ i < 1024, t.rd F.CUS_BUF_DATA i =
        bits (manifestHead s + crc32c (leBytes 4092 (manifestHead s)) * 2 ^ 32736) (32 * i) 32) ∧
    (64 < argOf s 0 → Answers .manifest s fun t => TaskEnds t 0x50 2 0)) ∧
  (∀ (p : Piece) (s : State), TaskReady s → argOf s 0 = 0 → 0 < argOf s 2 → argOf s 2 ≤ 4096 → Answers (.imageWrite p) s fun t =>
    let r := twimaPiece { p with off := argOf s 1, len := argOf s 2, data := bufBytes s 0 (argOf s 2) } s
    TaskEnds t 0x60 (if r.1 then 0 else 2) 0 ∧ t.cfg = r.2.cfg) ∧
  (∀ (s : State) (i : TwimaImage), fenCount s ≤ 16 → TaskReady s → nvqSealed s = false → taskBusy s false = false →
    slotImage s (twimaStaging s) = (some i, 0) → slotRecValid (slotRec s) = true → Answers .twimaPromote s fun t => TaskEnds t 0x61 0 0 ∧
      (slotRec t).primary = (slotRec s).staging ∧ (slotRec t).backup = (slotRec s).primary ∧ (slotRec t).staging = (slotRec s).backup) ∧
  (∀ (s : State) (i : FwImage), TaskReady s → argOf s 0 = 2 → taskBusy s false = false → s.upd.commit = none →
    argOf s 1 ∈ [1, 2] → argOf s 1 ≠ s.upd.running → fwSlot s (argOf s 1) = some i → s.upd.floor ≤ i.serial →
    Answers .fwCommitTask s fun t => TaskEnds t 0x62 0 0 ∧ t.upd.pending = argOf s 1 ∧ t.upd.tries = 3 ∧
      t.upd.active = s.upd.active ∧ t.upd.stored = s.upd.stored ∧ t.upd.selLast = 1 - s.upd.selLast) ∧
  (∀ (s : State) (i : FwImage), TaskReady s → expertOpen s .custodian = true → fwSlot s s.upd.running = some i → argOf s 0 = i.serial →
    argOf s 1 = s.rd F.CFG_SERIAL_SERIAL → s.cfg.floorUps < 255 → Answers .retireOld s fun t => TaskEnds t 0x63 0 0 ∧
      t.upd.floor = max s.upd.floor i.serial ∧ t.cfg.floor = max s.cfg.floor (s.rd F.CFG_SERIAL_SERIAL) ∧
      t.cfg.floorUps = s.cfg.floorUps + 1) ∧
  (∀ s : State, fenCount s ≤ 16 → TaskReady s → s.pwr.decided = false → Answers .deviceReset s fun t => TaskEnds t 0x7F 0 0 ∧ t.boot.resetDue = some 3)

/-- Custodian tasks on members, peers and migrations (R122, R124, R290, R291, R468, R475, R477, R481): a member is drained
and leaves; a member takes an index; a peer-table entry is set or deleted, unless boot flash fails; a chain, an export and
an import start; an export is frozen. Clauses that the manual leaves open rest on log entries 11, 59, 69, 95. -/
def Obligations.FleetTasks : Prop :=
  (∀ s : State, fenCount s ≤ 16 → TaskReady s → argOf s 0 < fenCount s → argOf s 1 < 32 →
    (inService s (argOf s 0) (argOf s 1) = true → fenDrains s (argOf s 0) = false → Answers .memberRetire s fun t =>
      TaskEnds t 0x30 0 0 ∧ memberLink s (argOf s 0) (argOf s 1) ∈ t.fen.draining) ∧
    (inService s (argOf s 0) (argOf s 1) = false ∨ fenDrains s (argOf s 0) = true → Answers .memberRetire s fun t =>
      TaskEnds t 0x30 7 0 ∧ t.fen = s.fen)) ∧
  (∀ (c : CalRow) (g : Bool) (s : State), fenCount s ≤ 16 → TaskReady s → argOf s 0 < 512 → argOf s 1 < fenCount s → argOf s 2 < 32 →
    (seamState s (argOf s 0) = 10 → indexOut s (argOf s 1) (argOf s 2) = true → indexFree s (argOf s 1) (argOf s 2) = true →
      hotaddRefused s (argOf s 1) c g = false → Answers (.memberHotadd c g) s fun t => TaskEnds t 0x31 0 0 ∧
        memberLink t (argOf s 1) (argOf s 2) = argOf s 0 ∧ argOf s 0 ∉ t.fen.retired) ∧
    (seamState s (argOf s 0) ≠ 10 → Answers (.memberHotadd c g) s fun t => TaskEnds t 0x31 7 1 ∧ t.map = s.map)) ∧
  (∀ (l : Link) (k : Nat) (s : State), fenCount s ≤ 16 → linkMember s l.val = some k → l.val ∈ s.fen.draining → indexFree s (k / 32) (k % 32) = true →
    Answers (.drainDone l) s fun t => memberLink t (k / 32) (k % 32) = 0xFFFF ∧ l.val ∉ t.fen.draining ∧ l.val ∈ t.fen.retired ∧
      t.rd F.SEAM_STAT_SAFE_REMOVE l.val = 1 ∧ t.rd F.SEAM_STAT_STATE l.val = 0) ∧
  (∀ (ok : Bool) (s : State), TaskReady s → bufBytes s 0 1 < 64 →
    (∀ r, bufBytes s 1 1 = r → r ≠ 0 → r < 16 → bitOf r 0 = false → Answers (.peerSet ok) s fun t =>
      (unwrapKey s.cus.transport (bufBytes s 32 40) = none → TaskEnds t 0x70 2 0 ∧ t.cwy = s.cwy) ∧
      (∀ y, unwrapKey s.cus.transport (bufBytes s 32 40) = some y → ok = false → TaskEnds t 0x70 8 0 ∧ t.cwy = s.cwy) ∧
      (∀ y, unwrapKey s.cus.transport (bufBytes s 32 40) = some y → ok = true → TaskEnds t 0x70 0 0 ∧
        (peerOf t (bufBytes s 0 1)).serial = bufBytes s 8 8 ∧ (peerOf t (bufBytes s 0 1)).roles = r ∧
        (peerOf t (bufBytes s 0 1)).addr = bufBytes s 16 16 ∧ (peerOf t (bufBytes s 0 1)).state = 1 ∧
        (peerOf t (bufBytes s 0 1)).secret = y)) ∧
    (bufBytes s 1 1 = 0 → Answers (.peerSet ok) s fun t =>
      (ok = true → TaskEnds t 0x70 0 0 ∧ t.cwy.peers.find (bufBytes s 0 1) = none) ∧
      (ok = false → TaskEnds t 0x70 8 0 ∧ t.cwy = s.cwy))) ∧
  (∀ (s : State) (q : Nat), TaskReady s → s.cwy.chain = false → s.upd.isOpen = false → s.upd.commit = none → s.upd.deltaLen ≠ 0 →
    chainNext s = some q → Answers .chainStart s fun t => TaskEnds t 0x71 0 0 ∧ t.cwy.chainHead = true ∧
      t.cwy.chainLen = s.upd.deltaLen ∧ t.cwy.reports = []) ∧
  (∀ (s : State) (p m : Nat) (n : Namespace), TaskReady s → peerBySerial s (arg64 s 1) = some p → s.ns? (argOf s 0) = some n →
    bitOf (peerOf s p).roles 1 = true → n.importing = false → (migsRunning s true).length < 4 →
    (∀ e ∈ migsRunning s true, e.2.nsid ≠ argOf s 0) → freeMig s = some m → Answers .migExport s fun t => TaskEnds t 0x72 0 0 ∧
      migOf t m = some { export_ := true, peer := p, nsid := argOf s 0, todo := List.range (nsTracts s (argOf s 0)) }) ∧
  (∀ (s : State) (p m : Nat), TaskReady s → peerBySerial s (arg64 s 0) = some p → 0 < argOf s 3 → argOf s 3 ≤ 4096 →
    s.ns? (argOf s 3) = none → (s.image.nstpl.templates[argOf s 4]?).isSome = true → bitOf (peerOf s p).roles 2 = true →
    importBarred s = false → (migsRunning s false).length < 4 → (∀ e ∈ migsRunning s false, e.2.nsid ≠ argOf s 3) →
    freeMig s = some m → Answers .migImport s fun t => TaskEnds t 0x73 0 0 ∧
      migOf t m = some { export_ := false, peer := p, nsid := argOf s 3, srcNsid := argOf s 2, template := argOf s 4 }) ∧
  (∀ (s : State) (m : Nat) (y : Migration) (n : Namespace), TaskReady s →
    (migsRunning s true).find? (fun e => decide (e.2.nsid = argOf s 0)) = some (m, y) → s.ns? (argOf s 0) = some n →
    Answers .migFreeze s fun t => TaskEnds t 0x74 0 0 ∧ migOf t m = some { y with frozen := true } ∧
      t.ns? (argOf s 0) = some { n with wprot := true })

/-- Resets (R614, R615, R621, R647): a power-on starts record START_NO + 1 with cause 1 at step 1 and leaves no dirty unit, no
command and no controller; a rail out of range holds the device in reset; a reset that is asked for waits for admitted
commands and dirty data, and then starts the next record with its cause; JTAG's reset changes nothing. Clauses that the
manual leaves open rest on log entries 9, 61, 68. -/
def Obligations.ResetsStartBoot : Prop :=
  (∀ (n : Nat) (v : Bool) (s : State), fenCount s ≤ 16 → s.boot.testEn = false → (v = true → s.boot.records.all inFlash = true) →
    Answers (.powerOnReset n v none) s fun t => t.boot.step = 1 ∧ t.boot.done = false ∧ (thisRecord t).cause = 1 ∧
      (thisRecord t).startNo = nextStart (thisRecord s).startNo ∧ t.map.dirty = [] ∧ t.nvq.slots = [] ∧ t.nvq.ctrls = [] ∧
      t.map.media = s.map.media ∧ t.rd F.PWR_RAIL_STAT_IN_RANGE = 0xFF ∧
      t.rd F.LIFE_STAT_VALID = (if v = true ∨ s.life.crystal = false then 0 else 1) ∧
      (v = false → s.life.crystal = true → t.life.now = (s.life.now + n) % 2 ^ 48)) ∧
  (∀ (n : Nat) (v : Bool) (s : State), s.boot.testEn = true → Answers (.powerOnReset n v none) s fun t =>
    t.boot.stopped = true ∧ t.boot.step = 0) ∧
  (∀ (r : Fin 8) (s : State), Answers (.railOutOfRange r) s fun t => t.boot.step = 0 ∧ t.map.dirty = [] ∧ t.nvq.slots = [] ∧
    t.pwr.rails = putBit s.pwr.rails r.val false ∧ t.rd F.PWR_RAIL_STAT_IN_RANGE = putBit s.pwr.rails r.val false % 256) ∧
  (∀ s : State, Answers .jtagTapReset s fun t => t = s.begin) ∧
  (∀ (p : AccessPath) (v : Word) (s : State), expertOpen s p = true → v.toNat % 65536 = 0xA5C3 → s.pwr.decided = false →
    Answers (.bootResetWrite p v) s fun t =>
      (s.boot.done = false ∧ s.map.dirty = [] → t.boot.step = 1 ∧ (thisRecord t).cause = 4 ∧
        (thisRecord t).startNo = nextStart (thisRecord s).startNo) ∧
      (s.boot.done = true ∨ s.map.dirty ≠ [] → t = { s.begin with boot := { s.boot with resetDue := some 4 } })) ∧
  (∀ (c : Nat) (s : State), s.boot.resetDue = some c → s.pwr.decided = false →
    (∀ e ∈ s.nvq.slots, e.2.state = .admitted → e.2.waits = true) → s.map.dirty = [] →
    Answers .deviceResetSequence s fun t => t.boot.step = 1 ∧ (thisRecord t).cause = c ∧ t.boot.resetDue = none ∧
      t.nvq.slots = [] ∧ t.nvq.ctrls = [] ∧ t.map.media = s.map.media ∧ t.cus.recoveryKey = s.cus.recoveryKey)

/-- Boot steps (R45, R584, R616 to R618, R621): each step ends with its DONE bit and the next begins: step 3 gives identity p
to pair p, step 4 applies the primary image, step 5 goes on with a stack in service and stops without one, step 6 with every
fen's members within p, step 7 with the map, and step 8 brings the device up with AUTO 0; a failure names its step, and ends
in the backup image at step 4 (R45), in a reset with cause 5 and AUTO one higher, in a stop where AUTO has reached AUTO_MAX
or no image is left, or in a reset with cause 6 at a try. Clauses that the manual leaves open rest on log entry 65. -/
def Obligations.BootSteps : Prop :=
  (∀ (x : BootFacts) (s : State) (r : BootRecord) (l : List BootRecord), fenCount s ≤ 16 → s.boot.stopped = false → s.boot.done = false →
    s.pwr.decided = false → s.boot.records = r :: l →
    (s.boot.step = 1 → 0 ∉ s.clk.lost → Answers (.bootStepEnd x) s fun t => t.boot.step = 2 ∧ t.boot.done = false ∧
      bitOf (thisRecord t).done 0 = true ∧ bitOf (thisRecord t).sticky 3 = false ∧ (thisRecord t).startNo = r.startNo) ∧
    (s.boot.step = 2 → Answers (.bootStepEnd x) s fun t => t.boot.step = 3 ∧ t.boot.done = false ∧
      bitOf (thisRecord t).done 1 = true ∧ bitOf (thisRecord t).sticky 2 = false ∧ (thisRecord t).startNo = r.startNo) ∧
    (s.boot.step = 3 → slotCheck s = 0 → Answers (.bootStepEnd x) s fun t => t.boot.step = 4 ∧
      bitOf (thisRecord t).done 2 = true ∧ ∀ p < 11, t.rd F.MBX_PAIR_STAT_ID_A p = p ∧ t.rd F.MBX_PAIR_STAT_STATE p = 0) ∧
    (∀ i, s.boot.step = 4 → bitOf r.sticky 0 = false → slotImage s (slotRec s).primary = (some i, 0) →
      Answers (.bootStepEnd x) s fun t => t.boot.step = 5 ∧ bitOf (thisRecord t).done 3 = true ∧ t.cfg.run = some i) ∧
    (s.boot.step = 5 → Answers (.bootStepEnd x) s fun t =>
      (t.boot.step = 6 ∧ bitOf (thisRecord t).done 4 = true ∧ (stacksUp t).isEmpty = false) ∨
      (t.boot.stopped = true ∧ t.boot.step = 5 ∧ (stacksUp t).isEmpty = true)) ∧
    (s.boot.step = 6 → x.groupsOk = 0xFFFF#16 → (∀ f < fenCount s, (membersMissing s f).length ≤ geoP s) →
      Answers (.bootStepEnd x) s fun t => t.boot.step = 7 ∧ bitOf (thisRecord t).done 5 = true ∧ t.seam.unlocked = []) ∧
    (s.boot.step = 7 → bitOf r.sticky 1 = true ∨ x.ckptOk = true ∧ s.map.ckpts ≠ [] →
      Answers (.bootStepEnd x) s fun t => t.boot.step = 8 ∧ bitOf (thisRecord t).done 6 = true) ∧
    (s.boot.step = 8 → Answers (.bootStepEnd x) s fun t => t.boot.done = true ∧ bitOf (thisRecord t).done 7 = true ∧
      t.rd F.BOOT_STAT_AUTO = 0 ∧ t.sea.a = x.sealA ∧ t.sea.b = x.sealB)) ∧
  (∀ (k : Nat) (s : State) (r : BootRecord) (l : List BootRecord), fenCount s ≤ 16 → s.boot.stopped = false → s.boot.done = false →
    s.pwr.decided = false → s.boot.records = r :: l →
    (s.boot.step ∈ [1, 2, 7] → s.map.dirty = [] → s.rd F.BOOT_STAT_AUTO < s.rd F.BOOT_CTL_AUTO_MAX →
      Answers (.bootStepFailure k) s fun t => t.boot.step = 1 ∧ (thisRecord t).cause = 5 ∧
        t.rd F.BOOT_STAT_AUTO = (s.rd F.BOOT_STAT_AUTO + 1) % 4 ∧ ∃ q, t.boot.records[1]? = some q ∧
        q.failed = s.boot.step ∧ q.code = k % 256 ∧ q.startNo = r.startNo) ∧
    (s.boot.step ∈ [1, 2, 7] → s.rd F.BOOT_CTL_AUTO_MAX ≤ s.rd F.BOOT_STAT_AUTO →
      Answers (.bootStepFailure k) s fun t => t.boot.stopped = true ∧ t.boot.step = s.boot.step ∧
        (thisRecord t).failed = s.boot.step) ∧
    (s.boot.step = 4 → bitOf r.sticky 0 = true → Answers (.bootStepFailure k) s fun t => t.boot.stopped = true ∧ t.boot.step = 4 ∧
      (thisRecord t).failed = 4 ∧ (thisRecord t).code = k % 256) ∧
    (∀ i, s.boot.step = 4 → bitOf r.sticky 0 = false → slotImage s (slotRec s).backup = (some i, 0) →
      Answers (.bootStepFailure k) s fun t => t.boot.step = 5 ∧ t.boot.stopped = false ∧ t.cfg.run = some i ∧
        bitOf (thisRecord t).sticky 0 = true) ∧
    (∀ i e, s.boot.step = 4 → bitOf r.sticky 0 = false → slotImage s (slotRec s).backup = (i, e) → i = none ∨ e ≠ 0 →
      Answers (.bootStepFailure k) s fun t => t.boot.stopped = true ∧ t.boot.step = 4 ∧ (thisRecord t).failed = 4) ∧
    (s.boot.step = 3 → isTry s = true → Answers (.bootStepFailure k) s fun t => t.boot.step = 1 ∧ (thisRecord t).cause = 6)) ∧
  (∀ s : State, isTry s = true → 1 ≤ s.boot.step → s.boot.step < 8 → s.boot.stopped = false → s.pwr.decided = false →
    Answers .firmwareTryTimeout s fun t => t.boot.step = 1 ∧ (thisRecord t).cause = 6 ∧ ∃ q, t.boot.records[1]? = some q ∧
      q.failed = s.boot.step)

/-- Clocks and the calendar (R145, R612): the third failed check in a row declares a reference lost, one good check ends that;
an unlocked PLL with its reference present asks for a reset with cause 7; a stopped crystal ends VALID, which a restart does
not bring back; a second of the calendar makes telemetry older. Clauses that the manual leaves open rest on log entry 67. -/
def Obligations.ClocksAndCalendar : Prop :=
  (∀ (c : RefClock) (s : State), Answers (.refclkCheck c true) s fun t => clkIndex c ∉ t.clk.lost ∧
    Tab.get 0 t.clk.fails (clkIndex c) = 0 ∧ ∀ i ∈ s.clk.lost, i ≠ clkIndex c → i ∈ t.clk.lost) ∧
  (∀ (c : RefClock) (s : State), clkIndex c ∉ s.clk.lost → Answers (.refclkCheck c false) s fun t =>
    Tab.get 0 t.clk.fails (clkIndex c) = Tab.get 0 s.clk.fails (clkIndex c) + 1 ∧
    (Tab.get 0 s.clk.fails (clkIndex c) < 2 → t.clk.lost = s.clk.lost ∧ t.regs = s.regs) ∧
    (2 ≤ Tab.get 0 s.clk.fails (clkIndex c) → clkIndex c ∈ t.clk.lost ∧ t.rd F.CLK_EVT_REF_LOSS = 1)) ∧
  (∀ s : State, 2 ≤ Tab.get 0 s.clk.fails 0 → 0 ∉ s.clk.lost → Answers (.refclkCheck .sys false) s fun t =>
    t.rd F.CLK_PLL_STAT_HOLDOVER = 1 ∧ t.rd F.CLK_REF_STAT_SYS = 0) ∧
  (∀ (p : Fin 3) (s : State), fenCount s ≤ 16 → 0 ∉ s.clk.lost → s.pwr.decided = false → s.boot.done = true → Answers (.sysPllUnlock p) s fun t =>
    t.boot = { s.boot with resetDue := some 7 } ∧ t.rd F.CLK_EVT_PLL_UNLOCK = 1 ∧ bitOf (t.rd F.CLK_PLL_STAT_SYS) p.val = false) ∧
  (∀ s : State, Answers .crystalStop s fun t => t.life = { s.life with crystal := false } ∧ t.rd F.LIFE_STAT_VALID = 0 ∧
    t.rd F.CLK_EVT_RTC_STOP = 1 ∧ t.rd F.CLK_REF_STAT_RTC = 0) ∧
  (∀ s : State, Answers .crystalRestart s fun t => t.life = { s.life with crystal := true } ∧ t.rd F.CLK_REF_STAT_RTC = 1 ∧
    t.rd F.LIFE_STAT_VALID = s.rd F.LIFE_STAT_VALID) ∧
  (∀ s : State, Answers .calendarTick s fun t => t.life = { s.life with now := (s.life.now + 1) % 2 ^ 48, onSec := s.life.onSec + 1 } ∧
    ∀ l < 512, t.rd F.SEAM_TEMP_AGE l = min 255 (s.rd F.SEAM_TEMP_AGE l + 1))

/-- PCIe functions (R419, R420, R423, R428, R429): configuration requests are answered once HOSTFN is applied; NumVFs and VF
Enable bring and end virtual functions; DOE answers discovery and, stage by stage, the SPDM requests. Clauses that the
manual leaves open rest on log entries 48, 49, 51. -/
def Obligations.PcieFunctions : Prop :=
  (∀ (l : PcieLink) (f : BitVec 8) (w : Bool) (r : BitVec 12) (v : Word) (en : BitVec 4) (s : State), s.boot.testEn = false →
    (s.boot.step ≤ 4 → Answers (.configRequest l f w r v en) s fun t => t.out = [.retryStatus l.val f.toNat] ∧ t.hif = s.hif) ∧
    (4 < s.boot.step → s.isSet F.HIF_LINK_STAT_UP l.val = true → funcUp s l.val f.toNat = false →
      Answers (.configRequest l f w r v en) s fun t => t.out = [.unsupported l.val f.toNat] ∧ t.hif = s.hif) ∧
    (4 < s.boot.step → s.isSet F.HIF_LINK_STAT_UP l.val = true → funcUp s l.val f.toNat = true →
      (w = false → Answers (.configRequest l f w r v en) s fun t =>
        t.out = [.cfgAnswer l.val f.toNat (cfgRead s l.val f.toNat (r.toNat / 4 * 4))] ∧ t.hif = s.hif) ∧
      (w = true → r = 4 → en = 15 → bitOf v.toNat 2 = true → Answers (.configRequest l f w r v en) s fun t =>
        t.out = [.cfgAnswer l.val f.toNat 0] ∧ funcOf t l.val f.toNat = { funcOf s l.val f.toNat with command := v.toNat &&& 0x0546 }))) ∧
  (∀ (l : PcieLink) (f : Fin 4) (n : Nat) (s : State), (pfOf s l.val f.val).isSome = true → (funcOf s l.val f.val).vfEnable = false →
    (n % 65536 ≤ pfVfs s l.val f.val → Answers (.numvfsWrite l f n) s fun t =>
      funcOf t l.val f.val = { funcOf s l.val f.val with numVfs := n % 65536 }) ∧
    (pfVfs s l.val f.val < n % 65536 → Answers (.numvfsWrite l f n) s fun t => t.hif = s.hif) ∧
    (pfVfs s l.val f.val ≠ 0 → Answers (.vfEnable l f true) s fun t =>
      funcOf t l.val f.val = { funcOf s l.val f.val with vfEnable := true } ∧
      ∀ i, s.boot.done = true → (funcOf s l.val f.val).numVfs = 1 → freeCntlid s = some i →
        ctrlOf s l.val (vfBase s l.val f.val) = none → ctrlOf t l.val (vfBase s l.val f.val) = some i)) ∧
  (∀ (l : PcieLink) (f : Fin 4) (s : State), pfVfs s l.val f.val ≠ 0 → (funcOf s l.val f.val).vfEnable = true →
    Answers (.vfEnable l f false) s fun t => (funcOf t l.val f.val).vfEnable = false) ∧
  (∀ (l : PcieLink) (i : BitVec 8) (s : State), Answers (.doeDiscovery l i) s fun t => t.hif.doeObj.find l.val = none ∧
    t.out = [.doe l.val 0 (if i.toNat = 0 then [1, 0, 1] else if i.toNat = 1 then [1, 1, 0] else [0xFFFF, 0, 0])]) ∧
  (∀ (l : PcieLink) (s : State), (Answers (.doeAbort l) s fun t => t.hif.doeObj.find l.val = none ∧ t.out = []) ∧
    (Answers (.getVersion l) s fun t => t.out = [.doe l.val 4 [0x1100, 0x1200]] ∧ Tab.get 0 t.hif.spdm l.val = 1) ∧
    (1 ≤ Tab.get 0 s.hif.spdm l.val → Answers (.getCapabilities l) s fun t => Tab.get 0 t.hif.spdm l.val = 2 ∧
      t.out = [.doe l.val 0x61 [Config.spdm 0x61 0]]) ∧
    (2 ≤ Tab.get 0 s.hif.spdm l.val → Answers (.negotiateAlgorithms l) s fun t => Tab.get 0 t.hif.spdm l.val = 3 ∧
      t.out = [.doe l.val 0x63 [0x80, 0x02]]) ∧
    (3 ≤ Tab.get 0 s.hif.spdm l.val → (Answers (.getDigests l) s fun t => t.out = [.doe l.val 1 [1, Config.spdm 1 0]] ∧
        t.hif.spdm = s.hif.spdm) ∧
      (∀ o n, Answers (.getCertificate l 0 o n) s fun t => t.out = [.doe l.val 2 [Config.spdm 2 (o + 65536 * n)]]) ∧
      (∀ n, Answers (.challenge l 0 n) s fun t => t.out = [.doe l.val 3 [Config.spdm 3 n]]) ∧
      (∀ (j : BitVec 4) (o n : Nat), j ≠ 0 → ∀ i ∈ [Instr.getCertificate l j o n, .challenge l j n], Answers i s fun t =>
        t.out = [.doe l.val 0x7F [1]]) ∧
      (∀ i : BitVec 8, i.toNat ∈ [1, 2, 3, 4, 5] → Answers (.getMeasurements l i) s fun t =>
        t.out = [.doe l.val 0x60 [measurement s i.toNat]])) ∧
    (Tab.get 0 s.hif.spdm l.val = 0 → ∀ (j : BitVec 4) (k : BitVec 8) (o n : Nat), ∀ i ∈ [Instr.getCapabilities l, .negotiateAlgorithms l,
      .getDigests l, .getCertificate l j o n, .challenge l j n, .getMeasurements l k], Answers i s fun t =>
        t.out = [.doe l.val 0x7F [4]] ∧ t.hif.spdm = s.hif.spdm))

/-- PCIe errors, resets and link events (R353, R430, R432, R433, R512, R614): an error is logged on its function; a reset clears
the function and resets its controller; a link that comes up, retrains or goes is recorded. Clauses that the manual leaves
open rest on log entry 50. -/
def Obligations.PcieEvents : Prop :=
  (∀ (l : PcieLink) (f : BitVec 8) (s : State),
    (Answers (.poisonedTlpReceived l f none) s fun t => t.rd F.HIF_EVT_POISON_RX = 1 ∧ t.out = [.aer l.val f.toNat 12, .aer l.val f.toNat 45] ∧
      bitOf (funcOf t l.val f.toNat).aerUnc 12 = true ∧ bitOf (funcOf t l.val f.toNat).aerCor 13 = true) ∧
    (Answers (.unexpectedCompletion l f) s fun t => t.rd F.HIF_EVT_UNCOR = 1 ∧ t.out = [.aer l.val f.toNat 16] ∧
      bitOf (funcOf t l.val f.toNat).aerUnc 16 = true) ∧
    (bitOf (Tab.get 0 (funcOf s l.val f.toNat).regs 0x118) 8 = true → Answers (.ecrcError l f none) s fun t =>
      t.out = [.aer l.val f.toNat 19] ∧ bitOf (funcOf t l.val f.toNat).aerUnc 19 = true) ∧
    (bitOf (Tab.get 0 (funcOf s l.val f.toNat).regs 0x118) 8 = false → ∀ c, Answers (.ecrcError l f c) s fun t => t = s.begin) ∧
    (Answers (.linkProtocolError l f) s fun t => bitOf (funcOf t l.val f.toNat).aerUnc 18 = true ∧
      ∀ i c, s.ctrl? i = some c → c.port = .pcie l → ∃ y, t.ctrl? i = some y ∧ y.enabled = false ∧ y.resetting = true ∧ y.sqs = []) ∧
    (∀ (ch : Fin 64) (j : DmaJob), s.dma.jobs.find ch.val = some j → s.rd F.DMA_CH_CFG_MODE ch.val = 1 →
      s.rd F.DMA_CH_STAT_ATTEMPTS ch.val < s.rd F.DMA_CH_CFG_RETRY_MAX ch.val → Answers (.completionTimeout l f ch) s fun t =>
        bitOf (funcOf t l.val f.toNat).aerUnc 14 = true ∧ t.rd F.DMA_CH_STAT_STATE ch.val = 4 ∧
        ∃ e, t.dma.errs.find ch.val = some e ∧ e.cause = 2 ∧ e.host = true ∧ e.writes = false)) ∧
  (∀ (l : PcieLink) (f : BitVec 8) (s : State), funcUp s l.val f.toNat = true → (funcOf s l.val f.toNat).vfEnable = false →
    Answers (.functionLevelReset l f) s fun t =>
      funcOf t l.val f.toNat = { aerUnc := (funcOf s l.val f.toNat).aerUnc, aerCor := (funcOf s l.val f.toNat).aerCor } ∧
      ∀ i c, ctrlOf s l.val f.toNat = some i → s.ctrl? i = some c → ∃ y, t.ctrl? i = some y ∧ y.enabled = false ∧ y.resetting = true) ∧
  (∀ (l : PcieLink) (f : BitVec 8) (s : State),
    (bitOf (funcOf s l.val f.toNat).command 2 = true → Answers (.busMasterEnableClear l f) s fun t =>
      bitOf (funcOf t l.val f.toNat).command 2 = false ∧
      ∀ i c, ctrlOf s l.val f.toNat = some i → s.ctrl? i = some c → ctrlSlots s i ≠ [] → ∃ y, t.ctrl? i = some y ∧ y.cfs = true ∧
        y.enabled = false ∧ y.resetting = true) ∧
    (f.toNat < 4 → funcUp s l.val f.toNat = true → (funcOf s l.val f.toNat).pmcsr ≠ 3 → Answers (.d3hotEntry l f) s fun t =>
      (funcOf t l.val f.toNat).pmcsr = 3 ∧ ∀ i c, ctrlOf s l.val f.toNat = some i → s.ctrl? i = some c → c.enabled = true →
        ∃ y, t.ctrl? i = some y ∧ y.enabled = false ∧ y.shst = 1)) ∧
  (∀ (p : Fin 4) (s : State), Answers (.perstAssert p) s fun t => ∀ l, l = 2 * p.val ∨ l = 2 * p.val + 1 →
    t.isSet F.HIF_LINK_STAT_UP l = false ∧ ∀ f ∈ pfsOf s l,
      funcOf t l f = { aerUnc := (funcOf s l f).aerUnc, aerCor := (funcOf s l f).aerCor }) ∧
  (∀ (l : PcieLink) (w : Nat) (v : Fin 7) (s : State),
    (l.val ∈ pcieLinks s → s.isSet F.HIF_LINK_STAT_UP l.val = false → ∀ b, Answers (.pcieLinkUp l w v b) s fun t =>
      t.rd F.HIF_LINK_STAT_UP l.val = 1 ∧ t.rd F.HIF_LINK_STAT_WIDTH l.val = w % 32 ∧ t.rd F.HIF_LINK_STAT_SPEED l.val = v.val ∧
      t.isSet F.HIF_LINK_STAT_FLIT l.val = b ∧ bitOf (t.rd F.HIF_EVT_LINK_UP) l.val = true ∧
      t.isSet F.HIF_LINK_STAT_DEGRADED l.val = decide (w % 32 ≠ linkWidth s l.val ∨ v.val ≠ 6) ∧
      (s.boot.done = true → portNo (.pcie l) ∈ t.nvq.changing)) ∧
    (s.isSet F.HIF_LINK_STAT_UP l.val = true → (Answers (.pcieLinkRetrain l w v) s fun t =>
        t.rd F.HIF_LINK_STAT_UP l.val = 1 ∧ t.rd F.HIF_LINK_STAT_WIDTH l.val = w % 32 ∧ t.rd F.HIF_LINK_STAT_SPEED l.val = v.val ∧
        t.rd F.HIF_CNT_RETRAIN_COUNT l.val = min (2 ^ 32 - 1) (s.rd F.HIF_CNT_RETRAIN_COUNT l.val + 1) ∧
        t.isSet F.HIF_LINK_STAT_DEGRADED l.val = decide (w % 32 ≠ linkWidth s l.val ∨ v.val ≠ 6)) ∧
      Answers (.pcieLinkDown l) s fun t => t.rd F.HIF_LINK_STAT_UP l.val = 0 ∧ bitOf (t.rd F.HIF_EVT_LINK_DOWN) l.val = true ∧
        portNo (.pcie l) ∉ t.nvq.changing))

/-- Ethernet ports (R437 to R439, R446, R447, R455, R456, R463): a port comes up, goes down and holds; frames are counted;
requests for its addresses are answered; priorities pause, storm and resume; congestion notices cut and quiet intervals
raise the rate step; a staged address entry is checked and applied. Clauses that the manual leaves open rest on log entry
53. -/
def Obligations.FabricPorts : Prop :=
  (∀ (l : LPort) (s : State), l.val ∈ ethPorts s → s.isSet F.FAB_PORT_STAT_UP l.val = false → Answers (.ethPortUp l) s fun t =>
    t.rd F.FAB_PORT_STAT_UP l.val = 1 ∧ t.rd F.FAB_PORT_STAT_HOLD l.val = 0 ∧ t.rd F.FAB_EVT_LINK_UP = 1 ∧
    (s.boot.done = true → portNo (.eth l) ∈ t.nvq.changing)) ∧
  (∀ (l : LPort) (s : State), s.isSet F.FAB_PORT_STAT_UP l.val = true → Answers (.ethPortDown l) s fun t =>
    t.rd F.FAB_PORT_STAT_UP l.val = 0 ∧ t.rd F.FAB_PORT_STAT_HOLD l.val = 1 ∧ t.rd F.FAB_EVT_LINK_DOWN = 1 ∧
    t.rd F.FAB_PORT_STAT_PAUSED l.val = 0 ∧ portNo (.eth l) ∉ t.nvq.changing) ∧
  (∀ (l : LPort) (s : State), s.isSet F.FAB_PORT_STAT_UP l.val = false → s.isSet F.FAB_PORT_STAT_HOLD l.val = true →
    Answers (.linkHoldExpiry l) s fun t => t.rd F.FAB_PORT_STAT_HOLD l.val = 0 ∧
      ∀ n q c, s.fab.qps.find n = some q → q.lp = l.val → q.ctrl ≠ 0 → s.ctrl? q.ctrl = some c → c.fabric = true →
        ∃ y, t.ctrl? q.ctrl = some y ∧ y.resetting = true) ∧
  (∀ (l : LPort) (f : EthFrame) (s : State), s.isSet F.FAB_PORT_STAT_UP l.val = true → Answers (.ethernetFrameReceive l f) s fun t =>
    t.rd F.FAB_CNT_FEC_UNC_COUNT l.val = min (2 ^ 32 - 1) (s.rd F.FAB_CNT_FEC_UNC_COUNT l.val + f.fecUnc) ∧
    (f.fcsOk = false → t.rd F.FAB_CNT_FCS_COUNT l.val = min (2 ^ 32 - 1) (s.rd F.FAB_CNT_FCS_COUNT l.val + 1)) ∧
    (f.fcsOk = true → 9216 < f.len ∨ f.fragment = true ∨ f.destOk = false →
      t.rd F.FAB_CNT_DROP_COUNT l.val = min (2 ^ 32 - 1) (s.rd F.FAB_CNT_DROP_COUNT l.val + 1))) ∧
  (∀ (l : LPort) (a i : Nat) (s : State), s.isSet F.FAB_PORT_STAT_UP l.val = true →
    (Answers (.arpRequest l a) s fun t => t.out = (if holdsAddr s l.val a false = true then [.frame l.val 1 (macOf l.val)] else [])) ∧
    (Answers (.neighborDiscovery l a) s fun t => t.out = (if holdsAddr s l.val a true = true then [.frame l.val 2 (macOf l.val)] else [])) ∧
    (Answers (.icmpEcho l a i) s fun t =>
      t.out = (if (holdsAddr s l.val a false || holdsAddr s l.val a true) = true then [.frame l.val 3 i] else []))) ∧
  (∀ (l : LPort) (e : BitVec 8) (ts : List Nat) (s : State), s.isSet F.FAB_PORT_STAT_UP l.val = true → Answers (.pfcFrame l e ts) s fun t =>
    ∀ i < 8, bitOf (t.rd F.FAB_PORT_STAT_PAUSED l.val) i = (if bitOf e.toNat i = true ∧ i ∉ Tab.get [] s.fab.storm l.val
      then decide (ts.getD i 0 ≠ 0) else bitOf (s.rd F.FAB_PORT_STAT_PAUSED l.val) i)) ∧
  (∀ (l : LPort) (p : Fin 8) (s : State), bitOf (s.rd F.FAB_PORT_STAT_PAUSED l.val) p.val = true → Answers (.pauseStormDetect l p) s fun t =>
    bitOf (t.rd F.FAB_PORT_STAT_PAUSED l.val) p.val = false ∧ t.rd F.FAB_PORT_STAT_STORM l.val = 1 ∧ t.rd F.FAB_EVT_PFC_STORM = 1 ∧
    p.val ∈ Tab.get [] t.fab.storm l.val) ∧
  (∀ (l : LPort) (s : State), Answers (.pauseStormEnd l) s fun t =>
    Tab.get [] t.fab.storm l.val = (Tab.get [] s.fab.storm l.val).drop 1 ∧
    t.rd F.FAB_PORT_STAT_STORM l.val = (if (Tab.get [] s.fab.storm l.val).length ≤ 1 then 0 else 1)) ∧
  (∀ (n g : Nat) (s : State) (q : Qp), s.fab.qps.find n = some q →
    (s.rd F.FAB_ECN_CTL_CNP_GAP ≤ g → Answers (.ceMarkedPacket n g) s fun t => t.out = [.rdma n 0x81 q.remote] ∧ t.fab = s.fab) ∧
    (g < s.rd F.FAB_ECN_CTL_CNP_GAP → Answers (.ceMarkedPacket n g) s fun t => t = s.begin) ∧
    (Answers (.cnp n g) s fun t => t.rd F.FAB_CNT_CNP_COUNT q.lp = min (2 ^ 32 - 1) (s.rd F.FAB_CNT_CNP_COUNT q.lp + 1) ∧
      t.fab.qps.find n = some { q with quiet := 0, cnp := true, step :=
        (if s.rd F.FAB_ECN_CTL_HOLD ≤ g then min 63 (q.step + s.rd F.FAB_ECN_CTL_DROP) else q.step) }) ∧
    (q.cnp = false → Answers (.ecnRiseTimer n) s fun t =>
      t.fab.qps.find n = some { q with quiet := q.quiet + 1, step := q.step - (if q.quiet < 7 then 1 else 2) }) ∧
    (q.cnp = true → Answers (.ecnRiseTimer n) s fun t => t.fab.qps.find n = some { q with cnp := false })) ∧
  (∀ (p : AccessPath) (s : State) (k w e : Nat), k = s.rd F.FAB_ADDR_SEL_ENTRY → w = stagedBytes s k → e = addrCheck s k w →
    (e ≠ 0 → Answers (.addressCommit p) s fun t => t.rd F.FAB_ADDR_CTL_ERR = e ∧ t.fab = s.fab) ∧
    (e = 0 → Answers (.addressCommit p) s fun t => t.rd F.FAB_ADDR_CTL_ERR = 0 ∧ t.fab.flash = t.fab.addrs ∧ t.fab.saved = true ∧
      Tab.get {} t.fab.addrs k = (if addrOn (addrParse w) = true then addrParse w else {})))

/-- RoCEv2 and NVMe over Fabrics (R361, R442 to R444, R449, R450, R452, R453, R455): connections are accepted and refused,
messages answered, timeouts retried; a Connect makes a controller or a queue of one; properties are read and set;
authentication runs its course; a Disconnect, a timeout or a closed connection ends the association. Clauses that the manual
leaves open rest on log entries 46, 52. -/
def Obligations.FabricHosts : Prop :=
  (∀ (n : Nat) (s : State) (q : Qp), s.fab.qps.find n = some q →
    (q.ready = true → ∀ x : Nat,
      (∀ v, Answers (.rdmaSend n v) s fun t => t.out = [.rdma n 0x11 (v.getD 0)] ∧
        t.fab.qps.find n = some { q with retries := 0, msn := (q.msn + 1) % 2 ^ 24 }) ∧
      (Answers (.rdmaRead n false x) s fun t => t.out = [.rdma n 0x10 x] ∧
        t.fab.qps.find n = some { q with retries := 0, msn := (q.msn + 1) % 2 ^ 24 }) ∧
      (Answers (.rdmaRead n true x) s fun t => t.out = [] ∧ t.fab.qps.find n = some { q with retries := 0 }) ∧
      (Answers (.rdmaWrite n x) s fun t => t.out = [.rdma n 0x12 x] ∧
        t.fab.qps.find n = some { q with retries := 0, msn := (q.msn + 1) % 2 ^ 24 })) ∧
    (q.retries < 7 → Answers (.qpAckTimeout n) s fun t => t.fab.qps.find n = some { q with retries := q.retries + 1 } ∧
      t.rd F.FAB_CNT_RETX_COUNT q.lp = min (2 ^ 32 - 1) (s.rd F.FAB_CNT_RETX_COUNT q.lp + 1)) ∧
    (7 ≤ q.retries → q.ctrl = 0 → Answers (.qpAckTimeout n) s fun t => t.fab.qps.find n = none) ∧
    (∀ c, 7 ≤ q.retries → q.ctrl ≠ 0 → s.ctrl? q.ctrl = some c → c.fabric = true → c.resetting = false →
      Answers (.qpAckTimeout n) s fun t => t.rd F.FAB_EVT_ASSOC_END = 1 ∧ ∃ y, t.ctrl? q.ctrl = some y ∧ y.resetting = true) ∧
    (Answers (.cmRtu n) s fun t => t.fab.qps.find n = some { q with ready := true })) ∧
  (∀ (n : SlotNo) (s : State) (k : Cmd), s.slot? n.val = some k → k.sent = true → k.lostKey = false →
    Answers (.rdmaTransportAck n) s fun t => t.slot? n.val = none) ∧
  (∀ (l : LPort) (r : CmReq) (s : State), s.isSet F.FAB_PORT_STAT_UP l.val = true →
    (r.privOk = true → s.fab.qps.length < 9216 → (∃ e ∈ s.fab.addrs, addrOn e.2 = true ∧ addrNvme e.2 = true ∧ e.2.lp = l.val ∧
        e.2.addr = r.addr) → Answers (.cmReq l r) s fun t => t.out = [.rdma (freeQp s) 3 r.remoteQp] ∧
      t.fab.qps.find (freeQp s) = some { lp := l.val, addr := r.addr, remote := r.remoteQp }) ∧
    (r.privOk = false ∨ 9216 ≤ s.fab.qps.length → Answers (.cmReq l r) s fun t => t.out = [.rdma 0 2 r.remoteQp] ∧ t.fab = s.fab)) ∧
  (∀ (n : Nat) (r : ConnectReq) (s : State) (q : Qp), s.fab.qps.find n = some q → q.ready = true → q.ctrl = 0 → r.recfmt = 0 →
    r.discovery = false →
    (s.image.nvmectl.hosts.find? (fun h => decide (h.nqn = r.hostNqn ∧ q.lp ∈ h.ports)) = none → Answers (.connect n r) s fun t =>
      t.out = [.rdma n 0x1184 0] ∧ t.nvq = s.nvq ∧ t.fab = s.fab) ∧
    (∀ h, s.image.nvmectl.hosts.find? (fun h => decide (h.nqn = r.hostNqn ∧ q.lp ∈ h.ports)) = some h → r.subOk = true →
      (∀ i, r.qid = 0 → r.cntlid = 0xFFFF → 31 ≤ r.sqsize → r.sqsize ≤ 4095 → 1000 ≤ r.kato → r.kato ≤ 600000 →
        freeCntlid s = some i → s.fab.rxUsed + (r.sqsize + 1) ≤ 2064888 → Answers (.connect n r) s fun t =>
          t.out = [.rdma n 0x1000 (i + (if h.auth = true then 131072 else 0))] ∧
          t.fab.qps.find n = some { q with ctrl := i, sqid := 0, qsize := r.sqsize + 1 } ∧ ∃ y, t.ctrl? i = some y ∧
            y.fabric = true ∧ y.hostNqn = r.hostNqn ∧ y.hostId = r.hostId ∧ y.kato = r.kato ∧ y.authOk = !h.auth ∧
            y.attach = h.attach ∧ y.sqs = [(0, { size := r.sqsize + 1 })]) ∧
      (∀ (c : Ctrl) (l : LPort), r.qid ≠ 0 → s.ctrl? r.cntlid = some c → c.fabric = true → c.discovery = false → c.resetting = false →
        c.hostNqn = r.hostNqn → c.hostId = r.hostId → c.port = .eth l → q.lp = l.val →
        (s.fab.qps.find (adminQp s r.cntlid)).map Qp.addr = some q.addr → 1 ≤ r.sqsize → r.sqsize ≤ 1023 → c.sqs.find r.qid = none →
        c.authOk = true → r.qid ≤ c.qpairs → queuePairs c < c.qpairs → s.fab.rxUsed + (r.sqsize + 1) ≤ 2064888 →
        Answers (.connect n r) s fun t => t.out = [.rdma n 0x1000 r.cntlid] ∧
          t.fab.qps.find n = some { q with ctrl := r.cntlid, sqid := r.qid, qsize := r.sqsize + 1 } ∧
          t.ctrl? r.cntlid = some { c with sqs := c.sqs.put r.qid { size := r.sqsize + 1, cqid := r.qid } }))) ∧
  (∀ (i : CtrlId) (s : State) (c : Ctrl), s.ctrl? i = some c → c.fabric = true → c.resetting = false →
    (∀ o, Answers (.propertyGet i o (decide (o = 0))) s fun t => t.out = [.rdma (adminQp s i) 0x1000 (propValue c o)] ∧ t.nvq = s.nvq) ∧
    (∀ o, Answers (.propertyGet i o (decide (o ≠ 0))) s fun t => t.out = [.rdma (adminQp s i) 0x1002 0] ∧ t.nvq = s.nvq) ∧
    (∀ v, c.authOk = true → c.enabled = false → bitOf c.cc 0 = false → bitOf v 0 = true → Answers (.propertySet i 0x14 false v) s fun t =>
      .rdma (adminQp s i) 0x1000 0 ∈ t.out ∧ ∃ y, t.ctrl? i = some y ∧ y.enabled = true ∧ y.rdy = true ∧ y.cc = v % 2 ^ 32) ∧
    (∀ o b v, c.authOk = false → Answers (.propertySet i o b v) s fun t => t.out = [.rdma (adminQp s i) 0x1191 0] ∧ t.nvq = s.nvq) ∧
    (∀ d, d ≠ 0 → c.authOk = true → (c.sqs.find d).isSome = true → c.sqs.length ≠ 1 → Answers (.disconnect i d) s fun t =>
      t.out = [.rdma (queueQp s i d) 0x1000 0] ∧ t.ctrl? i = some { c with sqs := c.sqs.del d } ∧
      ∀ e ∈ t.fab.qps, ¬(e.2.ctrl = i ∧ e.2.sqid = d)) ∧
    (c.authOk = true → (c.sqs.find 0).isSome = true → Answers (.disconnect i 0) s fun t => (∀ e ∈ t.fab.qps, e.2.ctrl ≠ i) ∧
      ∃ y, t.ctrl? i = some y ∧ y.resetting = true ∧ y.enabled = false) ∧
    (Answers (.authenticationSend i (.negotiate true true)) s fun t => Tab.get 0 t.fab.auth i = 1 ∧
      t.out = [.rdma (adminQp s i) 0x1000 0]) ∧
    (Tab.get 0 s.fab.auth i = 1 → (Answers (.authenticationSend i (.reply true)) s fun t => Tab.get 0 t.fab.auth i = 2 ∧
        t.ctrl? i = some { c with authOk := true }) ∧
      (Answers (.authenticationSend i (.reply false)) s fun t => t.rd F.FAB_EVT_AUTH_FAIL = 1 ∧ (∀ e ∈ t.fab.qps, e.2.ctrl ≠ i) ∧
        ∃ y, t.ctrl? i = some y ∧ y.resetting = true ∧ y.enabled = false) ∧
      (∀ n, Answers (.authenticationReceive i n) s fun t => t.nvq = s.nvq ∧
        t.out = [.rdma (adminQp s i) 0x201 (Config.physical s.free), .rdma (adminQp s i) 0x1000 n])) ∧
    (c.kato ≠ 0 → s.nvq.act ≠ 2 → Answers (.keepAliveTimeout i) s fun t => t.rd F.FAB_EVT_ASSOC_END = 1 ∧
      (∀ e ∈ t.fab.qps, e.2.ctrl ≠ i) ∧ ∃ y, t.ctrl? i = some y ∧ y.resetting = true ∧ y.enabled = false) ∧
    (Answers (.hostConnectionClose i) s fun t => t.rd F.FAB_EVT_ASSOC_END = 1 ∧ (∀ e ∈ t.fab.qps, e.2.ctrl ≠ i) ∧
      ∃ y, t.ctrl? i = some y ∧ y.resetting = true ∧ y.enabled = false))

/-- Causeway sessions (R465, R467, R469, R470, R472 to R474): HELLO and HELLO_ACK open a session at the highest common version;
an unknown serial or a bad MAC opens none; heartbeats are sent and stored; a peer that is down loses its session; a timeout
sends everything again and doubles; an acknowledgement frees what it covers. Clauses that the manual leaves open rest on log
entry 57. -/
def Obligations.CausewaySessions : Prop :=
  (∀ (lp : LPort) (m : HelloMsg) (s : State) (p : Nat), cwyPort s lp.val = true → peerBySerial s m.serial = some p →
    (m.macOk = true → commonVersion m.versions (myVersions s) ≠ 0 → Answers (.hello lp m) s fun t => (peerOf t p).state = 2 ∧
      (peerOf t p).version = commonVersion m.versions (myVersions s) ∧ (peerOf t p).session = m.session % 2 ^ 32 ∧
      (peerOf t p).key = sessionKey (peerOf s p).secret m.nonce (cwyNonce s)) ∧
    (m.macOk = true → commonVersion m.versions (myVersions s) = 0 → Answers (.hello lp m) s fun t => (peerOf t p).state = 3) ∧
    (m.macOk = false → Answers (.hello lp m) s fun t => t.cwy = s.cwy ∧ t.rd F.CWY_EVT_AUTH_FAIL = 1 ∧
      t.rd F.CWY_CNT_MAC_COUNT = min (2 ^ 32 - 1) (s.rd F.CWY_CNT_MAC_COUNT + 1)) ∧
    (m.macOk = true → (peerOf s p).asked = true → m.session % 2 ^ 32 = (peerOf s p).session →
      commonVersion m.versions (myVersions s) ≠ 0 → Answers (.helloAck lp m (commonVersion m.versions (myVersions s))) s fun t =>
        (peerOf t p).state = 2 ∧ (peerOf t p).asked = false ∧ (peerOf t p).version = commonVersion m.versions (myVersions s) ∧
        (peerOf t p).key = sessionKey (peerOf s p).secret (peerOf s p).nonce m.nonce)) ∧
  (∀ (lp : LPort) (m : HelloMsg) (s : State), cwyPort s lp.val = true → peerBySerial s m.serial = none →
    Answers (.hello lp m) s fun t => t.cwy = s.cwy ∧ t.rd F.CWY_EVT_AUTH_FAIL = 1) ∧
  (∀ (lp : LPort) (n v : Nat) (s : State), cwyPort s lp.val = true → Answers (.discover lp n v) s fun t =>
    n ∈ t.cwy.found ∧ t.cwy.peers = s.cwy.peers) ∧
  (∀ s : State, Answers .discoverTimer s fun t => t.out = ((List.range 32).filter (cwyPort s)).map
    (fun lp => .cwy 0xFFFF 0x03 0 0 [lp, s.cfg.serial, myVersions s])) ∧
  (∀ (h : CwyHead) (b : Nat) (s : State), InOrder s h → h.stream.val = 0 → Answers (.heartbeat h b) s fun t =>
    (peerOf t h.peer.val).beat = b % 2 ^ 192 ∧
    (peerOf t h.peer.val).rxSeq = (peerOf s h.peer.val).rxSeq.set 0 (h.seq % 2 ^ 32)) ∧
  (∀ (p : Nat) (x : Peer) (s : State), s.cwy.peers.find p = some x → x.state = 2 →
    Answers .heartbeatTimer s fun t => ∃ l, Queued t p 0x10 l) ∧
  (∀ (p : Fin 64) (s : State), (peerOf s p.val).state = 2 → Answers (.peerDownTimeout p) s fun t => (peerOf t p.val).state = 1 ∧
    (peerOf t p.val).tx = [] ∧ (peerOf t p.val).carry = [] ∧ t.rd F.CWY_EVT_PEER_DOWN = 1) ∧
  (∀ (p : Fin 64) (s : State), (peerOf s p.val).state = 1 → initiates s p.val = true → Answers (.helloRetryTimer p) s fun t =>
    (peerOf t p.val).asked = true ∧ ∃ l, t.out = [.cwy p.val 0x01 0 0 l]) ∧
  (∀ (p : Fin 64) (st : Fin 10) (s : State), (peerOf s p.val).state = 2 → unacked (peerOf s p.val) st.val ≠ 0 →
    Answers (.causewayRetransmitTimeout p st) s fun t => t.out.length = unacked (peerOf s p.val) st.val ∧
      (peerOf t p.val).tx = (peerOf s p.val).tx ∧
      (peerOf t p.val).rto = (peerOf s p.val).rto.set st.val (min 64 (2 * streamOf (peerOf s p.val).rto st.val)) ∧
      t.rd F.CWY_CNT_RETX_COUNT = min (2 ^ 32 - 1) (s.rd F.CWY_CNT_RETX_COUNT + unacked (peerOf s p.val) st.val)) ∧
  (∀ (p : Fin 64) (st : Fin 10) (s : State), (peerOf s p.val).state = 2 → unacked (peerOf s p.val) st.val ≠ 0 →
    Answers (.causewayProgressTimeout p st) s fun t => (peerOf t p.val).state = 1 ∧ (peerOf t p.val).tx = []) ∧
  (∀ (h : CwyHead) (s : State), (peerOf s h.peer.val).state = 2 → h.macOk = true → s.cwy.migs = [] → s.cwy.chain = false →
    (peerOf s h.peer.val).wait = [] → (peerOf s h.peer.val).carry = [] → Answers (.ackOnly h) s fun t =>
      (peerOf t h.peer.val).tx = (peerOf s h.peer.val).tx.filter (fun d => !(decide (d.stream = h.stream.val) && seqLe d.seq h.ack)))

/-- The chain (R475, R476, R586, R588): a first piece from a CHAIN_FROM peer opens a download, or only the forwarding where
the device runs the target already; one that a check refuses, or that is no delta, ends it with its status, and one beside
another download is refused with status 2; the head stores reports; a chain whose next peer is gone ends. Clauses that the
manual leaves open rest on log entries 58, 92. -/
def Obligations.CausewayChains : Prop :=
  (∀ (h : CwyHead) (n : Nat) (x : Piece) (s : State) (d : Bool), InOrder s h → h.stream.val = 9 →
    bitOf (peerOf s h.peer.val).roles 3 = true → s.cwy.chain = false → s.upd.isOpen = false → s.upd.commit = none → x.off = 0 →
    deltaSame x.data x.len (Tab.get 0 s.upd.fwBytes s.upd.running) = d →
    (d = true → Answers (.chainData h x.off n x.len (x.data, x.flashOk)) s fun t => t.cwy.chainFrom = some h.peer.val ∧ t.cwy.chainHead = false ∧
      t.cwy.chainLen = n ∧ t.cwy.chainOff = x.len ∧ t.upd.buf = x.data % 2 ^ (8 * x.len)) ∧
    (∀ e, d = false → byteField x.data 0 4 = magicDelta → x.len ≤ 33554432 →
      e = deltaCheck (deltaBase s) (x.data % 2 ^ (8 * x.len)) x.len → Answers (.chainData h x.off n x.len (x.data, x.flashOk)) s fun t =>
        (e = 0 → x.len < 160 → t.upd.isOpen = true ∧ t.upd.owner = ownerChain ∧ t.upd.off = x.len ∧ t.cwy.chainOff = x.len) ∧
        (e ≠ 0 → t.upd.isOpen = false ∧ t.cwy.chain = false ∧ ∃ z, Queued t h.peer.val 0x21 [s.cfg.serial, if e = 0x0A then 2 else 1, z])) ∧
    (d = false → byteField x.data 0 4 ≠ magicDelta → Answers (.chainData h x.off n x.len (x.data, x.flashOk)) s fun t => t.cwy.chain = false ∧
      t.upd = s.upd ∧ ∃ z, Queued t h.peer.val 0x21 [s.cfg.serial, 1, z])) ∧
  (∀ (h : CwyHead) (n : Nat) (x : Piece) (s : State), InOrder s h → h.stream.val = 9 →
    bitOf (peerOf s h.peer.val).roles 3 = true → s.upd.isOpen = true → s.upd.owner ≠ ownerChain → x.off = 0 →
    Answers (.chainData h x.off n x.len (x.data, x.flashOk)) s fun t => t.upd = s.upd ∧ t.cwy.chain = s.cwy.chain ∧
      ∃ z, Queued t h.peer.val 0x21 [s.cfg.serial, 2, z]) ∧
  (∀ (h : CwyHead) (l : List (Nat × Nat)) (all : Bool) (s : State), InOrder s h → h.stream.val = 9 →
    chainNext s = some h.peer.val → s.cwy.chainHead = true → Answers (.chainReport h l all) s fun t =>
      t.cwy.reports = s.cwy.reports ++ l ∧ (all = true → t.rd F.CWY_EVT_CHAIN_DONE = 1)) ∧
  (∀ (q : Nat) (s : State), chainNext s = some q → s.cwy.chain = true → (peerOf s q).state ≠ 2 →
    Answers .chainDownstreamTimeout s fun t => t.cwy.chain = false ∧
      (s.cwy.chainHead = true → t.cwy.reports = s.cwy.reports ++ [(s.cfg.serial, 3)] ∧ t.rd F.CWY_EVT_CHAIN_DONE = 1) ∧
      (∀ p, s.cwy.chainHead = false → s.cwy.chainFrom = some p → (peerOf s p).state = 2 →
        Queued t p 0x21 [s.cfg.serial, 3, s.life.now % 2 ^ 32]))

/-- Migration (R477 to R481): MIG_OPEN makes the destination namespace; a verified unit becomes dirty data with its WSEQ and a
unit whose tag fails is asked for again; a tract's end is held until all of it is there; MIG_DONE makes the namespace
attachable; MIG_ABORT ends the migration; a source's pass is followed by a delta pass, the final one by MIG_DONE. Clauses
that the manual leaves open rest on log entry 59. -/
def Obligations.CausewayMigrates : Prop :=
  (∀ (h : CwyHead) (m : MigOpen) (s : State) (k slot : Nat) (y : Migration) (e : List (Nat × Nat)), InOrder s h → h.stream.val = 0 →
    (migsRunning s false).find? (fun e => decide (e.2.peer = h.peer.val ∧ e.2.srcNsid = m.srcNsid)) = some (k, y) → y.opened = false →
    m.escrowId ≠ 0 → m.escrowId = s.cip.escrowId → importBarred s = false →
    bitOf (peerOf s h.peer.val).roles 2 = true → s.ns? y.nsid = none → freeKeySlot s = some slot → newExtents s m.size = some e →
    Answers (.migOpen h m) s fun t =>
      (unwrapKey s.cip.escrowKey m.wrap = none → t.nvq = s.nvq ∧ ∃ z, Queued t h.peer.val 0x3F [k, z]) ∧
      (unwrapKey s.cip.escrowKey m.wrap ≠ none → migOf t k = some { y with opened := true } ∧ ∃ n, t.ns? y.nsid = some n ∧
        n.importing = true ∧ n.nsTag = m.nsTag ∧ n.nguid = m.nguid ∧ n.slot = slot ∧ n.wseq = m.wseqFloor + 2 ^ 32)) ∧
  (∀ (h : CwyHead) (m : MigOpen) (s : State), InOrder s h → h.stream.val = 0 →
    (∀ e ∈ migsRunning s false, e.2.peer = h.peer.val → e.2.srcNsid ≠ m.srcNsid) →
    Answers (.migOpen h m) s fun t => t.cwy.migs = s.cwy.migs ∧ t.nvq = s.nvq ∧ ∃ z, Queued t h.peer.val 0x3F [8, z]) ∧
  (∀ (h : CwyHead) (m : Fin 8) (r : UnitRecord) (s : State) (y : Migration), InOrder s h → 1 ≤ h.stream.val → h.stream.val ≤ 8 →
    importBy s m.val h.peer.val = some y → importBarred s = false → r.lost = false → r.zero = false →
    (r.tagOk = false → Tab.get 0 y.naks r.nsUnit < 2 → Answers (.migUnits h m (r.nsUnit / tractUnits s) [r]) s fun t =>
      ∃ z, migOf t m.val = some z ∧ r.nsUnit ∈ z.bad ∧ Tab.get 0 z.naks r.nsUnit = Tab.get 0 y.naks r.nsUnit + 1 ∧
        t.map = s.map ∧ Queued t h.peer.val 0x32 [m.val, r.nsUnit]) ∧
    (∀ l u n st, r.tagOk = true → unitAt s y.nsid r.nsUnit = some (l, u) → s.ns? y.nsid = some n → n.zoned = false →
      dirtyStacks s = some st → overLimit s 1 = false → overClass s (homeClass s y.nsid) 1 = false →
      Answers (.migUnits h m (r.nsUnit / tractUnits s) [r]) s fun t => ∃ d, t.map.dirty.find (unitKey l u) = some d ∧
        d.data = { payload := r.payload, wseq := r.wseq } ∧ (d.s1, d.s2) = st)) ∧
  (∀ (h : CwyHead) (m : Fin 8) (g : Nat) (s : State) (y : Migration), InOrder s h → 1 ≤ h.stream.val → h.stream.val ≤ 8 →
    exportBy s m.val h.peer.val = some y →
    (Tab.get 0 y.naks g < 2 → Answers (.migNak h m g) s fun t => Queued t h.peer.val 0x31 [m.val, g, 1] ∧
      migOf t m.val = some { y with naks := y.naks.put g (Tab.get 0 y.naks g + 1) }) ∧
    (2 ≤ Tab.get 0 y.naks g → Answers (.migNak h m g) s fun t => ∃ z, migOf t m.val = some z ∧ g ∈ z.lost)) ∧
  (∀ (h : CwyHead) (m : Fin 8) (k n : Nat) (s : State) (y : Migration), InOrder s h → 1 ≤ h.stream.val → h.stream.val ≤ 8 →
    importBy s m.val h.peer.val = some y → Answers (.migTractEnd h m k n) s fun t => ∃ z, migOf t m.val = some z ∧
      z.flow.find h.stream.val = none ∧ z.bad = y.bad ∧
      z.ending.find k = (if y.bad.any (fun g => decide (g / tractUnits s = k)) then some (h.stream.val, h.seq % 2 ^ 32) else none)) ∧
  (∀ (h : CwyHead) (m : Fin 8) (a b w : Nat) (s : State) (y : Migration) (n : Namespace), InOrder s h → h.stream.val = 0 →
    importBy s m.val h.peer.val = some y → s.ns? y.nsid = some n → Answers (.migDone h m a b w) s fun t =>
      (∃ z, migOf t m.val = some z ∧ z.ended = 1) ∧ t.rd F.CWY_EVT_MIG_DONE = 1 ∧ ∃ x, t.ns? y.nsid = some x ∧
        x.importing = false ∧ x.wseq = max n.wseq w ∧ w < x.wseqFloor) ∧
  (∀ (h : CwyHead) (m : Fin 8) (r : Nat) (s : State) (y : Migration), InOrder s h → h.stream.val = 0 →
    migOf s m.val = some y → y.peer = h.peer.val → y.ended = 0 → Answers (.migAbort h m r) s fun t =>
      (∃ z, migOf t m.val = some z ∧ z.ended = 2 ∧ z.reason = r % 2 ^ 32) ∧ t.rd F.CWY_EVT_MIG_DONE = 1 ∧
      ∀ c ∈ (peerOf t h.peer.val).carry, c.mig ≠ m.val) ∧
  (∀ (m : Fin 8) (s : State) (y : Migration), migOf s m.val = some y → y.export_ = true → y.ended = 0 → y.opened = true →
    y.closing = false → y.todo = [] → (∀ c ∈ (peerOf s y.peer).carry, c.mig ≠ m.val) →
    Answers (.migrationPassEnd m) s fun t => ∃ z, migOf t m.val = some z ∧
      (y.final = false → z.pass = (y.pass + 1) % 128 ∧ z.final = y.frozen ∧ z.closing = false) ∧
      (y.final = true → z = { y with closing := true } ∧ ((peerOf s y.peer).state = 2 → ∃ l, Queued t y.peer 0x34 l)))

/-- R655, R660: what JUNCTION_SAMPLE makes of the valid sensors: SENSORS, THROTTLE (held with fewer than 8 valid: log entry 12),
THERM with its return, the end of the hold; nothing outside the thermal state and the fault summary changes.
THERMAL_HOLD_ENTRY, SMBUS_READ_BYTE and SMBUS_WRITE (R639, R640, R655). Clauses that the manual leaves open rest on log
entries 12, 70. -/
def Obligations.ThermalActs : Prop :=
  (∀ (temps : List (Option Int)) (s : State), Answers (.junctionSample temps) s fun t =>
    let v := (temps.take 16).filterMap id
    let c : Int := s.rd F.TMON_CTL_THROTTLE_C
    t.rd F.TMON_STAT_SENSORS = v.length ∧
    (v.length < 8 → t.rd F.TMON_STAT_THROTTLE = 1) ∧
    ((∃ x ∈ v, c ≤ x) → t.rd F.TMON_STAT_THROTTLE = 1) ∧
    (8 ≤ v.length → (∀ x ∈ v, x < c - 5) → t.rd F.TMON_STAT_THROTTLE = 0) ∧
    ((∃ x ∈ v, 105 ≤ x) → t.rd F.TMON_STAT_THERM = 1) ∧
    (v ≠ [] → (∀ x ∈ v, x < 100) → t.rd F.TMON_STAT_THERM = 0 ∧ t.rd F.TMON_STAT_HOLD = 0 ∧ t.tmon.hold = false) ∧
    t = { s with regs := t.regs, glb := t.glb, tmon := t.tmon, out := [] } ∧ SameOutside [0, 6] s.regs t.regs) ∧
  ((∀ (s : State) (x : Int), junction s = some x → 112 ≤ x → Answers .thermalHoldEntry s fun t =>
    t.tmon.hold = true ∧ t.rd F.TMON_STAT_HOLD = 1 ∧ (s.rd F.TMON_STAT_HOLD ≠ 1 → t.rd F.TMON_EVT_HOLD = 1) ∧
    t = { s with regs := t.regs, tmon := t.tmon, out := [] } ∧
    SameBut [(F.TMON_STAT_HOLD, 0), (F.TMON_EVT_HOLD, 0)] s.regs t.regs) ∧
  (∀ (cmd : BitVec 8) (s : State), s.boot.testEn = false → Answers (.smbusReadByte cmd) s fun t =>
    ∃ b, t = { s with out := [.smbus true b] } ∧
      (cmd = 0 → b = s.rd F.TMON_STAT_TJ) ∧
      (cmd = 1 → s.boot.done = false → s.boot.step ≤ 6 → b = 0x80) ∧
      (cmd = 2 → b % 2 = b2n (s.boot.done || decide (4 < s.boot.step)) ∧ bitOf b 1 = s.boot.done ∧ bitOf b 2 = s.glb.faultN ∧
        bitOf b 3 = s.isSet F.TMON_STAT_THERM) ∧
      (3 ≤ cmd.toNat → b = 0xFF)) ∧
  (∀ (cmd : BitVec 8) (s : State), Answers (.smbusWrite cmd) s fun t => t = { s with out := [.smbus false 0] }))

/-- Live re-apply and Expert level (R48, R50, R54, R56, R57, R63): a start is refused with its code or takes the lot into shadow
state; a commit puts the staged image in force; a POWER re-apply without its test is refused; the eighth key word opens
Expert level where it matches, the third failure locks out; timeouts and CLOSE end it. Clauses that the manual leaves open
rest on log entries 47, 55, 56. -/
def Obligations.ReapplyAndExpert : Prop :=
  (∀ (p : AccessPath) (s : State) (lot : Nat), s.rd F.CFG_LOT_CTL_LOT_TYPE = lot → s.cfg.reapply = none →
    (startRefusal s lot ≠ 0 → Answers (.lotReapplyStart p) s fun t => t.rd F.CFG_LOT_STAT_STATE = 5 ∧
      t.rd F.CFG_LOT_STAT_ERR = startRefusal s lot ∧ t.cfg.reapply = none ∧ t.cfg.run = s.cfg.run) ∧
    (∀ i, startRefusal s lot = 0 → s.cfg.slots.find (twimaStaging s) = some i → liveCheck s i lot = 0 →
      Answers (.lotReapplyStart p) s fun t => t.rd F.CFG_STATUS_LOT_BUSY = 1 ∧ t.cfg.run = s.cfg.run ∧
        t.cfg.reapply = some { lot := lot, image := i, waitHt := decide (lot = 0x0D) && decide (s.image.power.limitMiB < i.power.limitMiB) } ∧
        t.rd F.CFG_LOT_STAT_STATE = (if lot = 0x0D ∧ s.image.power.limitMiB < i.power.limitMiB then 6 else 2))) ∧
  (∀ (p : AccessPath) (s : State), s.cfg.reapply ≠ none → Answers (.lotReapplyStart p) s fun t => t.cfg = s.cfg) ∧
  (∀ (s : State) (r : Reapply), s.cfg.reapply = some r →
    (mayCommit s r = true → Answers .lotCommit s fun t => t.cfg.run = some r.image ∧
      (r.lot ≠ 0x0A → t.cfg.reapply = none ∧ t.rd F.CFG_LOT_STAT_STATE = 4 ∧ t.rd F.CFG_STATUS_LOT_BUSY = 0) ∧
      (r.lot = 0x0C → ∀ k e, s.cfg.experts.find k = some e → (expertOf t k).isOpen = false)) ∧
    (mayCommit s r = false → Answers .lotCommit s fun t => t = s.begin) ∧
    (r.waitHt = true → Answers .powerReapplyTimeout s fun t => t.cfg.reapply = none ∧ t.rd F.CFG_LOT_STAT_STATE = 5 ∧
      t.rd F.CFG_LOT_STAT_ERR = 0x10 ∧ t.cfg.run = s.cfg.run)) ∧
  (∀ (p : AccessPath) (w : Word) (s : State) (k : Nat) (e : ExpertPath), pathKey p = some k → expertOf s k = e →
    (e.lockout = true ∨ p = .custodian ∧ s.cus.isOpen = false → Answers (.expertKeyWrite p w) s fun t => t.cfg = s.cfg) ∧
    (e.lockout = false → p ≠ .custodian ∨ s.cus.isOpen = true → e.words.length < 7 → Answers (.expertKeyWrite p w) s fun t =>
      expertOf t k = { e with words := e.words ++ [w.toNat] }) ∧
    (e.lockout = false → p ≠ .custodian ∨ s.cus.isOpen = true → e.words.length = 7 →
      wordsNumber (e.words ++ [w.toNat]) = expertAnswer s p e.nonce →
      Answers (.expertKeyWrite p w) s fun t => expertOpen t p = true ∧
        expertOf t k = { isOpen := true, nonce := freshNonce s, words := [], fails := 0, lockout := false, lastUse := s.life.now }) ∧
    (e.lockout = false → p ≠ .custodian ∨ s.cus.isOpen = true → e.words.length = 7 →
      wordsNumber (e.words ++ [w.toNat]) ≠ expertAnswer s p e.nonce →
      Answers (.expertKeyWrite p w) s fun t => (expertOf t k).isOpen = e.isOpen ∧ (expertOf t k).words = [] ∧
        ((expertOf t k).lockout = true ↔ e.fails = 2)) ∧
    (Answers (.expertNonceTimer p) s fun t => expertOf t k = { e with nonce := freshNonce s } ∧ t.free = s.free + 1) ∧
    (Answers (.expertIdleTimeout p) s fun t => expertOf t k = { e with isOpen := false }) ∧
    (Answers (.expertLockoutEnd p) s fun t => expertOf t k = { e with lockout := false }) ∧
    (Answers (.expertClose p) s fun t => expertOf t k = { e with isOpen := false } ∧ expertOpen t p = false)) ∧
  (∀ (p : AccessPath) (w : Word) (s : State), pathKey p = none →
    ∀ i ∈ [Instr.expertKeyWrite p w, .expertNonceTimer p, .expertIdleTimeout p, .expertLockoutEnd p, .expertClose p],
      Answers i s fun t => t = s.begin)
end

