-- ==== Sys2Proof/Laws/Tab.lean ====
section
/-! SUPPORT. Sparse tables: what a lookup gives after each operation, and that every operation keeps the canonical form. -/

namespace Sys2Proof.Machine.Tab

variable {α : Type} {t : Tab α} {d v : α} {j k : Nat}

/-! ### Lookups -/

@[simp] theorem find_nil : find ([] : Tab α) k = none := rfl

theorem find_cons (e : Nat × α) : find (e :: t) k = if e.1 = k then some e.2 else find t k := rfl

/-- A filter that never drops key k leaves its lookup. -/
theorem find_filter_keep (p : Nat × α → Bool) (h : ∀ w, p (k, w) = true) : find (t.filter p) k = find t k := by
  induction t with
  | nil => rfl
  | cons e r ih =>
    obtain ⟨a, w⟩ := e
    by_cases hp : p (a, w) = true
    · rw [List.filter_cons_of_pos hp, find_cons, find_cons, ih]
    · have : a ≠ k := fun e => hp (e ▸ h w)
      rw [List.filter_cons_of_neg hp, find_cons, if_neg this, ih]

/-- A filter that drops every entry of key k leaves none. -/
theorem find_filter_drop (p : Nat × α → Bool) (h : ∀ w, p (k, w) = false) : find (t.filter p) k = none := by
  induction t with
  | nil => rfl
  | cons e r ih =>
    obtain ⟨a, w⟩ := e
    by_cases hp : p (a, w) = true
    · have : a ≠ k := fun e => by rw [e, h w] at hp; cases hp
      rw [List.filter_cons_of_pos hp, find_cons, if_neg this, ih]
    · rw [List.filter_cons_of_neg hp, ih]

@[simp] theorem find_del_same : find (del t k) k = none := find_filter_drop _ (fun _ => by simp)

theorem find_del_ne (h : j ≠ k) : find (del t j) k = find t k := find_filter_keep _ (fun _ => by simpa using h.symm)

theorem find_ins_same (h : find t k = none) : find (ins t k v) k = some v := by
  induction t with
  | nil => simp [ins, find]
  | cons e r ih =>
    obtain ⟨a, w⟩ := e
    rw [find_cons] at h
    by_cases ha : a = k
    · simp [ha] at h
    · simp only [if_neg ha] at h
      by_cases hl : a < k
      · simp [ins, hl, find_cons, ha, ih h]
      · simp [ins, hl, find_cons]

theorem find_ins_ne (h : j ≠ k) : find (ins t j v) k = find t k := by
  induction t with
  | nil => simp [ins, find, h]
  | cons e r ih =>
    obtain ⟨a, w⟩ := e
    by_cases hl : a < j
    · simp [ins, hl, find_cons, ih]
    · simp [ins, hl, find_cons, h]

@[simp] theorem find_put_same : find (put t k v) k = some v := find_ins_same find_del_same

theorem find_put_ne (h : j ≠ k) : find (put t j v) k = find t k := (find_ins_ne h).trans (find_del_ne h)

@[simp] theorem get_nil : get d ([] : Tab α) k = d := rfl

@[simp] theorem get_put_same : get d (put t k v) k = v := by simp [get]

theorem get_put_ne (h : j ≠ k) : get d (put t j v) k = get d t k := by simp [get, find_put_ne h]

@[simp] theorem get_set_same [DecidableEq α] : get d (set d t k v) k = v := by
  unfold set; split
  · next e => simp [get, e]
  · simp

theorem find_set_ne [DecidableEq α] (h : j ≠ k) : find (set d t j v) k = find t k := by
  unfold set; split
  · exact find_del_ne h
  · exact find_put_ne h

theorem get_set_ne [DecidableEq α] (h : j ≠ k) : get d (set d t j v) k = get d t k := by simp [get, find_set_ne h]

theorem get_set [DecidableEq α] : get d (set d t j v) k = if j = k then v else get d t k := by
  split
  · next h => rw [h, get_set_same]
  · next h => exact get_set_ne h

/-- The lookup of a key after a change of a listed entry. -/
theorem find_modify (f : α → α) : find (modify t j f) k = if j = k then (find t k).map f else find t k := by
  induction t with
  | nil => simp [modify]
  | cons e r ih =>
    obtain ⟨a, w⟩ := e
    have ih' : find (r.map (fun e => if e.1 = j then (e.1, f e.2) else e)) k = _ := ih
    by_cases haj : a = j
    · subst haj; simp only [modify, List.map_cons, if_true, find_cons, ih']; split <;> simp_all
    · simp only [modify, List.map_cons, if_neg haj, find_cons, ih']
      by_cases hak : a = k
      · subst hak; rw [if_pos rfl, if_pos rfl, if_neg (fun e => haj e.symm)]
      · rw [if_neg hak, if_neg hak]

/-! ### The canonical form -/

/-- Every key is larger than b. -/
theorem sorted_cons {e : Nat × α} : sorted (e :: t) = true ↔ (∀ x ∈ t, e.1 < x.1) ∧ sorted t = true := by
  induction t generalizing e with
  | nil => simp [sorted]
  | cons a r ih =>
    simp only [sorted, Bool.and_eq_true, decide_eq_true_eq, List.mem_cons, forall_eq_or_imp]
    constructor
    · rintro ⟨h1, h2⟩
      exact ⟨⟨h1, fun x hx => Nat.lt_trans h1 ((ih.mp h2).1 x hx)⟩, h2⟩
    · rintro ⟨⟨h1, -⟩, h2⟩
      exact ⟨h1, h2⟩

theorem sorted_filter (p : Nat × α → Bool) (h : sorted t = true) : sorted (t.filter p) = true := by
  induction t with
  | nil => rfl
  | cons e r ih =>
    have h' := sorted_cons.mp h
    by_cases hp : p e = true
    · rw [List.filter_cons_of_pos hp]
      exact sorted_cons.mpr ⟨fun x hx => h'.1 x ((List.mem_filter.mp hx).1), ih h'.2⟩
    · rw [List.filter_cons_of_neg hp]; exact ih h'.2

theorem mem_ins {e : Nat × α} (h : e ∈ ins t k v) : e = (k, v) ∨ e ∈ t := by
  induction t with
  | nil => simpa [ins] using h
  | cons a r ih =>
    obtain ⟨b, w⟩ := a
    simp only [ins] at h
    split at h
    · rcases List.mem_cons.mp h with h | h
      · exact .inr (h ▸ List.mem_cons_self ..)
      · exact (ih h).imp_right (List.mem_cons_of_mem _)
    · exact List.mem_cons.mp h

theorem sorted_ins (h : sorted t = true) (hk : ∀ e ∈ t, e.1 ≠ k) : sorted (ins t k v) = true := by
  induction t with
  | nil => rfl
  | cons a r ih =>
    obtain ⟨b, w⟩ := a
    have h' := sorted_cons.mp h
    have hb : b ≠ k := hk (b, w) (List.mem_cons_self ..)
    simp only [ins]
    split
    · next hl =>
      refine sorted_cons.mpr ⟨fun x hx => ?_, ih h'.2 (fun e he => hk e (List.mem_cons_of_mem _ he))⟩
      rcases mem_ins hx with e | hx
      · exact e ▸ hl
      · exact h'.1 x hx
    · next hl =>
      have hl' : k < b := by omega
      refine sorted_cons.mpr ⟨fun x hx => ?_, h⟩
      rcases List.mem_cons.mp hx with e | hx
      · exact e ▸ hl'
      · exact Nat.lt_trans hl' (h'.1 x hx)

theorem ne_of_mem_del {e : Nat × α} (h : e ∈ del t k) : e.1 ≠ k := by simpa using (List.mem_filter.mp h).2

theorem sorted_put (h : sorted t = true) : sorted (put t k v) = true :=
  sorted_ins (sorted_filter _ h) (fun _ he => ne_of_mem_del he)

theorem wf_iff [DecidableEq α] : wf d t = true ↔ sorted t = true ∧ ∀ e ∈ t, e.2 ≠ d := by
  simp [wf, List.all_eq_true]

@[simp] theorem wf_nil [DecidableEq α] : wf d ([] : Tab α) = true := rfl

theorem wf_filter [DecidableEq α] (p : Nat × α → Bool) (h : wf d t = true) : wf d (t.filter p) = true :=
  wf_iff.mpr ⟨sorted_filter p (wf_iff.mp h).1, fun e he => (wf_iff.mp h).2 e ((List.mem_filter.mp he).1)⟩

theorem wf_set [DecidableEq α] (h : wf d t = true) : wf d (set d t k v) = true := by
  unfold set; split
  · exact wf_filter _ h
  · next hv =>
    refine wf_iff.mpr ⟨sorted_put (wf_iff.mp h).1, fun e he => ?_⟩
    rcases mem_ins he with e' | he
    · exact e' ▸ hv
    · exact (wf_iff.mp h).2 e ((List.mem_filter.mp he).1)

end Sys2Proof.Machine.Tab
end

