-- ==== Sys2Proof/Laws/Memory.lean ====
section
/-! SUPPORT. The Mere's bytes: a read after a write, and that every memory operation keeps the canonical form. -/

namespace Sys2Proof.Machine

theorem memRead_memWrite (m : List Host.Cell) (a b : Nat) (v : BitVec 8) :
    memRead (memWrite m a v) b = if a = b then v else memRead m b := Tab.get_set

@[simp] theorem memRead_nil (a : Nat) : memRead [] a = 0#8 := rfl

/-- A byte outside the stored range reads as before; the byte j of the range reads byte j of the value. -/
theorem memRead_memStore (m : List Host.Cell) (a n v b : Nat) :
    memRead (memStore m a n v) b = if a ≤ b ∧ b < a + n then BitVec.ofNat 8 (v / 256 ^ (b - a)) else memRead m b := by
  induction n generalizing m a v with
  | zero => simp only [memStore]; rw [if_neg (by omega)]
  | succ n ih =>
    simp only [memStore]
    rw [ih, memRead_memWrite]
    by_cases h : a = b
    · subst h; rw [if_neg (by omega), if_pos rfl, if_pos (by omega)]; simp
    · by_cases h2 : a + 1 ≤ b ∧ b < a + 1 + n
      · rw [if_pos h2, if_pos (by omega), Nat.div_div_eq_div_mul, ← Nat.pow_succ']
        rw [show (b - (a + 1)).succ = b - a by omega]
      · rw [if_neg h2, if_neg h, if_neg (by omega)]

/-- What was stored is loaded again. -/
theorem memLoad_memStore (m : List Host.Cell) (a n v : Nat) : memLoad (memStore m a n v) a n = v % 256 ^ n := by
  suffices H : ∀ n m v a k w, (∀ i, i < n → memRead m (a + i) = BitVec.ofNat 8 (w / 256 ^ (k + i))) → v = w / 256 ^ k →
      memLoad m a n = v % 256 ^ n by
    refine H n _ v a 0 v (fun i hi => ?_) (by simp)
    rw [memRead_memStore, if_pos (by omega)]; congr 3; omega
  intro n
  induction n with
  | zero => intro m v a k w _ _; simp [memLoad, Nat.mod_one]
  | succ n ih =>
    intro m v a k w h hv
    have h0 := h 0 (by omega)
    have hr := ih m (v / 256) (a + 1) (k + 1) w (fun i hi => by
      have := h (i + 1) (by omega)
      rw [show a + (i + 1) = a + 1 + i by omega, show k + (i + 1) = k + 1 + i by omega] at this
      exact this) (by rw [hv, Nat.div_div_eq_div_mul, Nat.pow_succ])
    have h1 : (memRead m a).toNat = v % 256 := by
      rw [show memRead m a = _ from h0, BitVec.toNat_ofNat, Nat.add_zero, ← hv]
    rw [memLoad, hr, h1, Nat.pow_succ', Nat.mod_mul]

theorem memWrite_wf {m : List Host.Cell} (h : Memory.wf m = true) (a : Nat) (b : BitVec 8) :
    Memory.wf (memWrite m a b) = true := Tab.wf_set h

theorem memStore_wf {m : List Host.Cell} (h : Memory.wf m = true) (a n v : Nat) : Memory.wf (memStore m a n v) = true := by
  induction n generalizing m a v with
  | zero => exact h
  | succ n ih => exact ih (memWrite_wf h ..) ..

theorem memFilter_wf {m : List Host.Cell} (h : Memory.wf m = true) (p : Host.Cell → Bool) : Memory.wf (m.filter p) = true :=
  Tab.wf_filter p h

end Sys2Proof.Machine
end

