-- ==== Sys2Proof/Laws/FrameBase.lean ====
section
/-! SUPPORT. The part of the state that nearly every operation leaves alone: the queue, the power-fail decision, the Mere's
bytes, the fuses. For an operation f that leaves all of it, f_frame says so; for one that writes the Mere or raises a fuse
counter, f_keeps says what it keeps. -/

namespace Sys2Proof.Machine

open Sys2Proof

/-- What the frame lemmas follow. -/
structure Frame where
  pending : List Instr
  decided : Bool
  mem : List Host.Cell
  serial : Nat
  recoveryKey : Nat
  fwFloor : Nat
  twFloor : Nat

/-- The frame of a state. -/
def State.frame (s : State) : Frame :=
  ⟨s.pending, s.pwr.decided, s.mere.mem, s.cfg.serial, s.cus.recoveryKey, s.upd.floor, s.cfg.floor⟩

theorem frame_mk (a1 a2 a3 a4 a5 a6 a7 a8 a9 a10 a11 a12 a13 a14 a15 a16 a17 a18 a19 a20 a21 a22 a23 a24 a25 a26 a27 a28 a29 a30
    a31 a32) :
    State.frame (State.mk a1 a2 a3 a4 a5 a6 a7 a8 a9 a10 a11 a12 a13 a14 a15 a16 a17 a18 a19 a20 a21 a22 a23 a24 a25 a26 a27 a28
      a29 a30 a31 a32) = ⟨a1, a26.decided, a17.mem, a8.serial, a29.recoveryKey, a28.floor, a8.floor⟩ := (rfl)

theorem frame_eta (s : State) :
    (⟨s.pending, s.pwr.decided, s.mere.mem, s.cfg.serial, s.cus.recoveryKey, s.upd.floor, s.cfg.floor⟩ : Frame) = s.frame := (rfl)

theorem map_frame (s : State) (m : MapState) : State.frame { s with map := m } = s.frame := (rfl)

theorem eachOf_frame {α : Type} (l : List α) (f : α → State → State) (s : State) (h : ∀ a s, (f a s).frame = s.frame) :
    (eachOf l f s).frame = s.frame := by
  unfold eachOf; induction l generalizing s with
  | nil => rfl
  | cons a l ih => simp only [List.foldl_cons, ih, h]

theorem foldl_frame {α : Type} (l : List α) (f : State → α → State) (s : State) (h : ∀ s a, (f s a).frame = s.frame) :
    (l.foldl f s).frame = s.frame := by
  induction l generalizing s with
  | nil => rfl
  | cons a l ih => simp only [List.foldl_cons, ih, h]

/-- What every operation but the resets, the decision itself and the programming of the board keeps: the queue, the decision,
the canonical form of the Mere, the fuses; the anti-rollback counters only rise. -/
structure Keeps (a b : Frame) : Prop where
  pending : b.pending = a.pending
  decided : b.decided = a.decided
  mem : Memory.wf a.mem = true → Memory.wf b.mem = true
  serial : b.serial = a.serial
  recoveryKey : b.recoveryKey = a.recoveryKey
  fwFloor : a.fwFloor ≤ b.fwFloor
  twFloor : a.twFloor ≤ b.twFloor

theorem Keeps.refl (a : Frame) : Keeps a a := ⟨rfl, rfl, id, rfl, rfl, Nat.le_refl _, Nat.le_refl _⟩

theorem Keeps.trans {a b c : Frame} (h : Keeps a b) (g : Keeps b c) : Keeps a c :=
  ⟨g.1.trans h.1, g.2.trans h.2, g.3 ∘ h.3, g.4.trans h.4, g.5.trans h.5, Nat.le_trans h.6 g.6, Nat.le_trans h.7 g.7⟩

theorem Keeps.mere {s t : State} {a n v : Nat} (h : t.frame = { s.frame with mem := memStore s.mere.mem a n v }) :
    Keeps s.frame t.frame := by
  rw [h]; exact ⟨rfl, rfl, fun h => memStore_wf h a n v, rfl, rfl, Nat.le_refl _, Nat.le_refl _⟩

theorem Keeps.of_eq {a b : Frame} (h : b = a) : Keeps a b := h ▸ Keeps.refl _

theorem Keeps.ite {c : Prop} [Decidable c] {a : Frame} {s t : State} (h : Keeps a s.frame) (g : Keeps a t.frame) :
    Keeps a (if c then s else t).frame := by
  split <;> assumption

theorem eachOf_keeps {α : Type} (l : List α) (f : α → State → State) (s : State) (h : ∀ a s, Keeps s.frame (f a s).frame) :
    Keeps s.frame (eachOf l f s).frame := by
  unfold eachOf; induction l generalizing s with
  | nil => exact Keeps.refl _
  | cons a l ih => exact (h a s).trans (ih _)

theorem foldl_keeps {α : Type} (l : List α) (f : State → α → State) (s : State) (h : ∀ s a, Keeps s.frame (f s a).frame) :
    Keeps s.frame (l.foldl f s).frame := by
  induction l generalizing s with
  | nil => exact Keeps.refl _
  | cons a l ih => exact (h s a).trans (ih _)

end Sys2Proof.Machine
end

