-- ==== Sys2Proof/Laws/FrameCore.lean ====
section
/-! SUPPORT. What the shared operations leave unchanged: registers, faults, the map (see FrameBase). -/

namespace Sys2Proof.Machine

open Sys2Proof

theorem wr_frame (s : State) (f : Field) (v : Nat) (i : Nat := 0) : (State.wr s f v i).frame = s.frame := by
  unfold State.wr
  simp only [frame_mk, frame_eta]

theorem count_frame (s : State) (f : Field) (n : Nat := 1) (i : Nat := 0) : (State.count s f n i).frame = s.frame := by
  unfold State.count
  simp only [wr_frame]

theorem wrB_frame (s : State) (f : Field) (b : Bool) (i : Nat := 0) : (State.wrB s f b i).frame = s.frame := by
  unfold State.wrB
  simp only [wr_frame]

theorem wrBit_frame (s : State) (f : Field) (bit : Nat) (b : Bool) (i : Nat := 0) : (State.wrBit s f bit b i).frame = s.frame
    := by
  unfold State.wrBit
  simp only [wr_frame]

theorem begin_frame (s : State) : (State.begin s).frame = s.frame := by
  unfold State.begin
  simp only [frame_mk, frame_eta]

theorem emit_frame (s : State) (o : Out) : (State.emit s o).frame = s.frame := by
  unfold State.emit
  simp only [frame_mk, frame_eta]

theorem answer_frame (s : State) (v : Nat) : (State.answer s v).frame = s.frame := by
  unfold State.answer
  simp only [frame_mk, frame_eta]

theorem putCtrl_frame (s : State) (c : Nat) (v : Ctrl) : (State.putCtrl s c v).frame = s.frame := by
  unfold State.putCtrl
  simp only [frame_mk, frame_eta]

theorem putSlot_frame (s : State) (n : Nat) (v : Cmd) : (State.putSlot s n v).frame = s.frame := by
  unfold State.putSlot
  simp only [frame_mk, frame_eta]

theorem delSlot_frame (s : State) (n : Nat) : (State.delSlot s n).frame = s.frame := by
  unfold State.delSlot
  simp only [frame_mk, frame_eta]

theorem putNs_frame (s : State) (n : Nat) (v : Namespace) : (State.putNs s n v).frame = s.frame := by
  unfold State.putNs
  simp only [frame_mk, frame_eta]

theorem setCore_frame (s : State) (c : MapCore) : (State.setCore s c).frame = s.frame := by
  unfold State.setCore
  simp only [frame_mk, frame_eta]

theorem putHeld_frame (s : State) (h k : Nat) (v : Held) : (State.putHeld s h k v).frame = s.frame := by
  unfold State.putHeld
  simp only [frame_mk, frame_eta]

theorem delHeld_frame (s : State) (h k : Nat) : (State.delHeld s h k).frame = s.frame := by
  unfold State.delHeld
  simp only [frame_mk, frame_eta]

theorem putLink_frame (s : State) (l : Nat) (v : LinkState) : (State.putLink s l v).frame = s.frame := by
  unfold State.putLink
  simp only [frame_mk, frame_eta]

theorem putBlock_frame (s : State) (l b : Nat) (v : Block) : (State.putBlock s l b v).frame = s.frame := by
  unfold State.putBlock
  simp only [frame_mk, frame_eta]

theorem sumBits_frame (l : List (Field × Bool)) (s : State) : (sumBits l s).frame = s.frame := by
  unfold sumBits
  induction l generalizing s with
  | nil => rfl
  | cons e l ih => exact ih (s.wrB e.1 e.2)

theorem glbStore_frame (s : State) : (glbStore s).frame = s.frame := by
  unfold glbStore
  simp only [wr_frame, sumBits_frame, frame_mk, frame_eta]

theorem glbRefresh_frame (s : State) : (glbRefresh s).frame = s.frame := by
  unfold glbRefresh
  simp only [glbStore_frame, frame_mk, frame_eta, apply_ite State.frame, ite_self]

theorem drawn_frame (s : State) : (State.drawn s).frame = s.frame := by
  unfold State.drawn
  simp only [frame_mk, frame_eta]

theorem peatNote_frame (s : State) : (peatNote s).frame = s.frame := by
  unfold peatNote
  simp only [wr_frame, apply_ite State.frame, ite_self]

theorem peatWrite_frame (s : State) (code source arg aux sev supp : Nat) : (peatWrite s code source arg aux sev supp).frame =
    s.frame := by
  unfold peatWrite
  simp only [frame_mk, frame_eta, apply_ite State.frame, ite_self]

theorem peatRecord_frame (code source arg aux : Nat) (s : State) : (peatRecord code source arg aux s).frame = s.frame := by
  unfold peatRecord
  repeat' (first
                 | simp only [count_frame, peatNote_frame, peatWrite_frame, frame_mk, frame_eta, apply_ite State.frame,
                 ite_self] | (split))

theorem accessViolation_frame (p : AccessPath) (off : Nat) (s : State) : (accessViolation p off s).frame = s.frame := by
  unfold accessViolation
  simp only [peatRecord_frame]

theorem finishCmd_frame (n status dw0 dw1 : Nat) (s : State) : (finishCmd n status dw0 dw1 s).frame = s.frame := by
  unfold finishCmd
  repeat' (first | simp only [putSlot_frame, frame_mk, frame_eta] | (split))

theorem aenPost_frame (cid type info page : Nat) (s : State) : (aenPost cid type info page s).frame = s.frame := by
  unfold aenPost
  repeat' (first
                 | simp only [emit_frame, putCtrl_frame, finishCmd_frame, apply_ite State.frame] | (split))

theorem vendorNotice_frame (s : State) : (vendorNotice s).frame = s.frame := by
  unfold vendorNotice
  repeat' (first | simp only [aenPost_frame]
                 | refine (eachOf_frame _ _ _ ?_).trans ?_ | (intro _))

theorem healthAdd_frame (k n : Nat) (s : State) : (healthAdd k n s).frame = s.frame := by
  unfold healthAdd
  simp only [frame_mk, frame_eta]

theorem faultAbsorbed_frame (bit unit : Nat) (s : State) : (faultAbsorbed bit unit s).frame = s.frame := by
  unfold faultAbsorbed
  simp only [glbRefresh_frame, peatRecord_frame, vendorNotice_frame, healthAdd_frame, frame_mk, frame_eta, apply_ite
      State.frame, ite_self]

theorem faultRestored_frame (bit unit : Nat) (s : State) : (faultRestored bit unit s).frame = s.frame := by
  unfold faultRestored
  simp only [glbRefresh_frame, peatRecord_frame]

theorem invalidate_keeps (r : Nat) (s : State) : Keeps s.frame (invalidate r s).frame :=
  ⟨rfl, rfl, fun h => memFilter_wf h .., rfl, rfl, Nat.le_refl _, Nat.le_refl _⟩

theorem validate_keeps (a : Nat) (s : State) : Keeps s.frame (validate a s).frame := by
  unfold validate
  repeat' (first | with_reducible exact Keeps.refl _ | dsimp only | with_reducible apply Keeps.ite ?_ ?_
                 | with_reducible apply Keeps.trans ?_ (invalidate_keeps ..) | simp only [frame_mk, frame_eta])

theorem freeRegions_keeps (rs : List Nat) (s : State) : Keeps s.frame (freeRegions rs s).frame := by
  unfold freeRegions
  repeat' (first | with_reducible exact Keeps.refl _ | dsimp only | with_reducible apply Keeps.ite ?_ ?_
                 | with_reducible apply Keeps.trans ?_ (invalidate_keeps ..) | (intro _)
                 | simp only [frame_mk, frame_eta, apply_ite State.frame, ite_self]
                 | with_reducible refine Keeps.trans ?_ (eachOf_keeps _ _ _ ?_)
                 | with_reducible refine Keeps.trans ?_ (foldl_keeps _ _ _ ?_) | (split))

theorem fillRegion_keeps (r : Nat) (s : State) : Keeps s.frame (fillRegion r s).frame := by
  unfold fillRegion
  exact Keeps.mere (a := 4096 * r) (n := 4096) (v := Config.freeNat (s.free + r)) (by simp only [State.frame])

theorem logClamps_frame (l : SluiceLot) (s : State) : (logClamps l s).frame = s.frame := by
  unfold logClamps
  repeat' (first | simp only [peatRecord_frame]
                 | refine (eachOf_frame _ _ _ ?_).trans ?_ | (intro _))

theorem putUse_frame (c : Nat) (u : ClassUse) (s : State) : (putUse c u s).frame = s.frame := by
  unfold putUse
  simp only [frame_mk, frame_eta]

theorem mergeBegin_frame (c : Nat) (s : State) : (mergeBegin c s).frame = s.frame := by
  unfold mergeBegin
  simp only [wr_frame, putUse_frame, apply_ite State.frame, ite_self]

theorem mergeEnd_frame (c : Nat) (s : State) : (mergeEnd c s).frame = s.frame := by
  unfold mergeEnd
  simp only [putUse_frame]

theorem chargeDie_frame (l d c us : Nat) (s : State) : (chargeDie l d c us s).frame = s.frame := by
  unfold chargeDie
  simp only [frame_mk, frame_eta]

theorem chargeLink_frame (l c n : Nat) (s : State) : (chargeLink l c n s).frame = s.frame := by
  unfold chargeLink
  repeat' (first | simp only [frame_mk, frame_eta, apply_ite State.frame, ite_self] | (intro _) | (split) | rfl)

theorem chargeMere_frame (c n : Nat) (s : State) : (chargeMere c n s).frame = s.frame := by
  unfold chargeMere
  repeat' (first | simp only [frame_mk, frame_eta, apply_ite State.frame, ite_self] | (intro _) | (split) | rfl)

theorem takeBlock_frame (l b : Nat) (slc : Bool) (stripe : Nat) (s : State) : (takeBlock l b slc stripe s).frame =
    s.frame := by
  unfold takeBlock
  repeat' (first | simp only [putBlock_frame, frame_mk, frame_eta, apply_ite State.frame, ite_self] | (intro _) | (split)
                 | rfl)

theorem blockProgrammed_frame (first : Bool) (l b : Nat) (s : State) : (blockProgrammed first l b s).frame = s.frame := by
  unfold blockProgrammed
  repeat' (first | simp only [putBlock_frame, frame_mk, frame_eta, apply_ite State.frame, ite_self] | (intro _) | (split)
                 | rfl)

theorem freeBlock_frame (l b : Nat) (s : State) : (freeBlock l b s).frame = s.frame := by
  unfold freeBlock
  simp only [putBlock_frame, apply_ite State.frame, ite_self]

theorem journal_frame (r : JRec) (s : State) : (journal r s).frame = s.frame := by
  unfold journal
  repeat' (first | simp only [frame_mk, frame_eta, apply_ite State.frame, ite_self] | (intro _) | (split) | rfl)

theorem allocStripe_frame {s : State} {f : Nat} {slc : Bool} {i l t} (h : allocStripe s f slc = some (i, l, t)) : t.frame =
    s.frame := by
  unfold allocStripe at h; split at h
  · cases h
  · cases h; refine (eachOf_frame _ _ _ ?_).trans ?_
    · intro _ _; simp only [takeBlock_frame]
    · simp only [frame_mk, frame_eta]

theorem advanceRot_frame (f : Nat) (s : State) : (advanceRot f s).frame = s.frame := by
  unfold advanceRot
  simp only [frame_mk, frame_eta]

theorem forgetDue_frame (id : Nat) (s : State) : (forgetDue id s).frame = s.frame := by
  unfold forgetDue
  simp only [frame_mk, frame_eta]

theorem releaseAfter_frame (j id : Nat) (s : State) : (releaseAfter j id s).frame = s.frame := by
  unfold releaseAfter
  repeat' (first | simp only [forgetDue_frame, frame_mk, frame_eta, apply_ite State.frame, ite_self] | (intro _) | (split)
                 | rfl)

theorem releaseSlots_frame (f : Nat) (slots : List Nat) (s : State) : (releaseSlots f slots s).frame = s.frame := by
  unfold releaseSlots
  repeat' (first | simp only [freeBlock_frame, apply_ite State.frame, ite_self]
                 | refine (eachOf_frame _ _ _ ?_).trans ?_ | (intro _))

theorem barBlock_keeps (l b : Nat) (s : State) : Keeps s.frame (barBlock l b s).frame := by
  unfold barBlock; dsimp only; split
  · exact Keeps.refl _
  · exact ⟨rfl, rfl, fun h => memStore_wf h .., rfl, rfl, Nat.le_refl _, Nat.le_refl _⟩

theorem spoilBlock_keeps (l b reason flags : Nat) (s : State) : Keeps s.frame (spoilBlock l b reason flags s).frame := by
  unfold spoilBlock
  repeat' (first | with_reducible exact Keeps.refl _ | dsimp only | with_reducible apply Keeps.ite ?_ ?_
                 | with_reducible apply Keeps.trans ?_ (Keeps.of_eq (journal_frame ..))
                 | with_reducible apply Keeps.trans ?_ (Keeps.of_eq (putBlock_frame ..))
                 | with_reducible apply Keeps.trans ?_ (barBlock_keeps ..) | (intro _)
                 | simp only [journal_frame, putBlock_frame, frame_mk, frame_eta, apply_ite State.frame, ite_self]
                 | with_reducible refine Keeps.trans ?_ (eachOf_keeps _ _ _ ?_)
                 | with_reducible refine Keeps.trans ?_ (foldl_keeps _ _ _ ?_) | (split))

theorem declareLost_frame (ltn off len units : Nat) (s : State) : (declareLost ltn off len units s).frame = s.frame := by
  unfold declareLost
  repeat' (first
                 | simp only [wr_frame, count_frame, aenPost_frame, healthAdd_frame, journal_frame, frame_mk, frame_eta] | (split) | refine (eachOf_frame _ _ _ ?_).trans ?_ | (intro _))

theorem declareUnitLost_frame (ltn u : Nat) (s : State) : (declareUnitLost ltn u s).frame = s.frame := by
  unfold declareUnitLost
  simp only [declareLost_frame]

theorem clearLost_frame (ltn off len : Nat) (s : State) : (clearLost ltn off len s).frame = s.frame := by
  unfold clearLost
  repeat' (first | simp only [journal_frame, frame_mk, frame_eta, apply_ite State.frame, ite_self]
                 | refine (eachOf_frame _ _ _ ?_).trans ?_ | (intro _) | (split) | rfl)

theorem errorLog_frame (cid : Nat) (e : Nat × Nat × Nat × Nat × Nat × Nat) (s : State) : (errorLog cid e s).frame = s.frame
    := by
  unfold errorLog
  repeat' (first | simp only [putCtrl_frame, healthAdd_frame] | (split))

theorem carryReport_frame (n : Nat) (s : State) : (carryReport n s).frame = s.frame := by
  unfold carryReport
  repeat' (first
                 | simp only [count_frame, finishCmd_frame, errorLog_frame, frame_mk, frame_eta] | (split) | refine (eachOf_frame _ _ _ ?_).trans ?_ | (intro _))

theorem coverLost_frame (keys : List Nat) (s : State) : (coverLost keys s).frame = s.frame := by
  unfold coverLost
  repeat' (first | simp only [carryReport_frame]
                 | refine (eachOf_frame _ _ _ ?_).trans ?_ | (intro _))

theorem wakeDurable_frame (s : State) : (wakeDurable s).frame = s.frame := by
  unfold wakeDurable
  repeat' (first | simp only [finishCmd_frame]
                 | refine (eachOf_frame _ _ _ ?_).trans ?_ | (intro _))

theorem releaseStripe_frame (id : Nat) (s : State) : (releaseStripe id s).frame = s.frame := by
  unfold releaseStripe
  simp only [journal_frame, releaseSlots_frame, frame_mk, frame_eta]

theorem releaseDue_frame (s : State) : (releaseDue s).frame = s.frame := by
  unfold releaseDue
  repeat' (first | simp only [releaseStripe_frame, frame_mk, frame_eta]
                 | refine (eachOf_frame _ _ _ ?_).trans ?_ | (intro _))

theorem releaseInPlace_frame (s : State) : (releaseInPlace s).frame = s.frame := by
  unfold releaseInPlace
  repeat' (first | simp only [frame_mk, frame_eta, apply_ite State.frame, ite_self] | (intro _) | (split) | rfl)

theorem durableFirst_frame (n : Nat) (s : State) : (durableFirst n s).frame = s.frame := by
  unfold durableFirst
  repeat' (first
                 | simp only [wakeDurable_frame, releaseInPlace_frame, releaseDue_frame, frame_mk, frame_eta, apply_ite
                     State.frame, ite_self] | (intro _) | (split) | rfl)

theorem putStripe_frame (id : Nat) (e : Stripe) (s : State) : (putStripe id e s).frame = s.frame := by
  unfold putStripe
  simp only [setCore_frame]

theorem journalStripe_frame (id : Nat) (s : State) : (journalStripe id s).frame = s.frame := by
  unfold journalStripe
  simp only [journal_frame]

theorem setStripe_frame (id : Nat) (e : Stripe) (s : State) : (setStripe id e s).frame = s.frame := by
  unfold setStripe
  repeat' (first | simp only [putStripe_frame, journal_frame, frame_mk, frame_eta, apply_ite State.frame, ite_self]
                 | (intro _) | (split) | rfl)

theorem closeStripe_frame (id : Nat) (s : State) : (closeStripe id s).frame = s.frame := by
  unfold closeStripe
  repeat' (first | simp only [putBlock_frame, apply_ite State.frame, ite_self] | (split)
                 | refine (eachOf_frame _ _ _ ?_).trans ?_ | (intro _))

theorem rowsProgrammed_frame (id : Nat) (first : Bool) (s : State) : (rowsProgrammed id first s).frame = s.frame := by
  unfold rowsProgrammed
  repeat' (first | simp only [blockProgrammed_frame, frame_mk, frame_eta, apply_ite State.frame, ite_self]
                 | refine (eachOf_frame _ _ _ ?_).trans ?_ | (intro _) | (split) | rfl)

theorem skipAbsent_frame (id : Nat) (s : State) : (skipAbsent id s).frame = s.frame := by
  unfold skipAbsent
  repeat' (first | simp only [setStripe_frame, frame_mk, frame_eta, apply_ite State.frame, ite_self]
                 | refine (foldl_frame _ _ _ ?_).trans ?_ | (intro _) | (split) | rfl)

theorem setFrontier_frame (id n : Nat) (s : State) : (setFrontier id n s).frame = s.frame := by
  unfold setFrontier
  repeat' (first
                 | simp only [closeStripe_frame, setStripe_frame, rowsProgrammed_frame, frame_mk, frame_eta, apply_ite
                     State.frame, ite_self] | (intro _) | (split) | rfl)

theorem openStripe_frame {f kind : Nat} {slc : Bool} {owner : Nat} {s : State} {i t} (h : openStripe f kind slc owner s =
    some (i, t)) : t.frame = s.frame := by
  unfold openStripe at h
  simp only [Option.map_eq_some_iff] at h
  obtain ⟨r, hr, e⟩ := h
  cases e; simp only [putStripe_frame]; exact allocStripe_frame hr

theorem metaStripeIn_frame {may : Nat → Bool} {kind : Nat} {s : State} {i t} (h : metaStripeIn may kind s = some (i, t)) : t.frame = s.frame := by
  unfold metaStripeIn at h; split at h
  · cases h
  · simp only [Option.map_eq_some_iff] at h
    obtain ⟨r, hr, e⟩ := h
    cases e; simp only [journalStripe_frame]; exact openStripe_frame (i := r.1) hr

theorem metaStripe_frame {kind : Nat} {s : State} {i t} (h : metaStripe kind s = some (i, t)) : t.frame = s.frame :=
  metaStripeIn_frame h

theorem programAt_frame (id row slot w a : Nat) (c : CodeWord) (s : State) : (programAt id row slot w a c s).frame =
    s.frame := by
  unfold programAt
  repeat' (first | simp only [frame_mk, frame_eta, apply_ite State.frame, ite_self] | (intro _) | (split) | rfl)

theorem storeWord_frame (id row slot w : Nat) (c : CodeWord) (s : State) : (storeWord id row slot w c s).frame = s.frame
    := by
  unfold storeWord
  repeat' (first | simp only [programAt_frame, frame_mk, frame_eta, apply_ite State.frame, ite_self] | (intro _) | (split)
                 | rfl)

theorem putUnit_frame (id row slot w : Nat) (d : UnitData) (ltn unit : Nat) (s : State) : (putUnit id row slot w d ltn
    unit s).frame = s.frame := by
  unfold putUnit
  repeat' (first | simp only [storeWord_frame, frame_mk, frame_eta, apply_ite State.frame, ite_self] | (intro _) | (split)
                 | rfl)

theorem putMeta_frame (id n : Nat) (payload seq index : Nat) (s : State) : (putMeta id n payload seq index s).frame =
    s.frame := by
  unfold putMeta
  repeat' (first | simp only [storeWord_frame, frame_mk, frame_eta, apply_ite State.frame, ite_self] | (intro _) | (split)
                 | rfl)

theorem putParity_frame (id row : Nat) (s : State) : (putParity id row s).frame = s.frame := by
  unfold putParity
  repeat' (first | simp only [storeWord_frame, frame_mk, frame_eta, apply_ite State.frame, ite_self]
                 | refine (eachOf_frame _ _ _ ?_).trans ?_ | (intro _) | (split) | rfl)

theorem wipeBlock_frame (l b : Nat) (s : State) : (wipeBlock l b s).frame = s.frame := by
  unfold wipeBlock
  repeat' (first | simp only [frame_mk, frame_eta, apply_ite State.frame, ite_self] | (intro _) | (split) | rfl)

theorem writeSlot_frame (id slot : Nat) (ws : List (Nat × CodeWord)) (s : State) : (writeSlot id slot ws s).frame =
    s.frame := by
  unfold writeSlot
  repeat' (first
                 | simp only [storeWord_frame, blockProgrammed_frame, frame_mk, frame_eta, apply_ite State.frame,
                     ite_self] | refine (eachOf_frame _ _ _ ?_).trans ?_ | (intro _) | (split) | rfl)

theorem slotGone_frame (id slot : Nat) (s : State) : (slotGone id slot s).frame = s.frame := by
  unfold slotGone
  repeat' (first | simp only [setStripe_frame, frame_mk, frame_eta, apply_ite State.frame, ite_self] | (intro _) | (split)
                 | rfl)

theorem replaceSlot_frame (id slot l b : Nat) (s : State) : (replaceSlot id slot l b s).frame = s.frame := by
  unfold replaceSlot
  repeat' (first
                 | simp only [journal_frame, takeBlock_frame, closeStripe_frame, writeSlot_frame, slotGone_frame,
                     frame_mk, frame_eta, apply_ite State.frame, ite_self] | (intro _) | (split) | rfl)

theorem failSlotOf_keeps (id slot : Nat) (s : State) : Keeps s.frame (failSlotOf id slot s).frame := by
  unfold failSlotOf
  repeat' (first | with_reducible exact Keeps.refl _ | dsimp only | with_reducible apply Keeps.ite ?_ ?_
                 | with_reducible apply Keeps.trans ?_ (Keeps.of_eq (wipeBlock_frame ..))
                 | with_reducible apply Keeps.trans ?_ (Keeps.of_eq (replaceSlot_frame ..))
                 | with_reducible apply Keeps.trans ?_ (spoilBlock_keeps ..) | (intro _)
                 | simp only [wipeBlock_frame, replaceSlot_frame, frame_mk, frame_eta, apply_ite State.frame, ite_self]
                 | with_reducible refine Keeps.trans ?_ (eachOf_keeps _ _ _ ?_)
                 | with_reducible refine Keeps.trans ?_ (foldl_keeps _ _ _ ?_) | (split))

theorem journalOpen_frame {s : State} {i t} (h : journalOpen s = some (i, t)) : t.frame = s.frame := by
  unfold journalOpen at h; split at h
  · cases h; rfl
  · split at h
    · cases h
    · next e =>
      simp only [Option.map_eq_some_iff] at h
      obtain ⟨r, hr, x⟩ := h
      cases x
      refine (metaStripe_frame (i := r.1) hr).trans ?_
      split at e
      · cases e; rfl
      · exact metaStripe_frame e

theorem writeJournalRow_frame (id row : Nat) (recs : List (Nat × JRec)) (s : State) : (writeJournalRow id row recs
    s).frame = s.frame := by
  unfold writeJournalRow
  repeat' (first | simp only [putMeta_frame, putParity_frame, frame_mk, frame_eta, apply_ite State.frame, ite_self]
                 | refine (eachOf_frame _ _ _ ?_).trans ?_ | (intro _) | (split) | rfl)

theorem metaStripes_frame {n kind : Nat} {s : State} {i t} (h : metaStripes n kind s = some (i, t)) : t.frame = s.frame := by
  induction n generalizing s i with
  | zero => simp only [metaStripes] at h; cases h; rfl
  | succ n ih =>
    simp only [metaStripes, Option.bind_eq_some_iff, Option.map_eq_some_iff] at h
    obtain ⟨r, hr, q, hq, e⟩ := h
    cases e
    exact (ih (i := q.1) hq).trans (metaStripe_frame (i := r.1) hr)

theorem startCheckpoint_frame (s : State) : (startCheckpoint s).frame = s.frame := by
  unfold startCheckpoint
  repeat' (first | simp only [wr_frame, frame_mk, frame_eta, apply_ite State.frame, ite_self]
                 | refine (metaStripes_frame (by assumption)).trans ?_ | (intro _) | (split) | rfl)

theorem journalNote_frame (s : State) : (journalNote s).frame = s.frame := by
  unfold journalNote
  repeat' (first | simp only [startCheckpoint_frame, frame_mk, frame_eta, apply_ite State.frame, ite_self] | (intro _)
                 | (split) | rfl)

theorem programJournal_keeps (ok : Bool) (s : State) : Keeps s.frame (programJournal ok s).frame := by
  unfold programJournal; split
  · exact Keeps.refl _
  · split
    · exact Keeps.refl _
    · next h =>
      have h := Keeps.of_eq (journalOpen_frame h)
      split
      · exact h.trans ((Keeps.of_eq (drawn_frame _)).trans (failSlotOf_keeps ..))
      · refine h.trans (Keeps.of_eq ?_)
        rw [journalNote_frame, durableFirst_frame, setFrontier_frame, map_frame, writeJournalRow_frame, skipAbsent_frame]

theorem programUntil_keeps (fuel j : Nat) (s : State) : Keeps s.frame (programUntil fuel j s).frame := by
  induction fuel generalizing s with
  | zero => exact Keeps.refl _
  | succ n ih =>
    simp only [programUntil]; split
    · exact Keeps.refl _
    · exact (programJournal_keeps ..).trans (ih _)

theorem makeDurable_keeps (s : State) : Keeps s.frame (makeDurable s).frame := by
  unfold makeDurable
  repeat' (first | with_reducible exact Keeps.refl _ | dsimp only | with_reducible apply Keeps.ite ?_ ?_
                 | with_reducible apply Keeps.trans ?_ (programUntil_keeps ..) | (intro _)
                 | simp only [frame_mk, frame_eta, apply_ite State.frame, ite_self]
                 | with_reducible refine Keeps.trans ?_ (eachOf_keeps _ _ _ ?_)
                 | with_reducible refine Keeps.trans ?_ (foldl_keeps _ _ _ ?_) | (split))

theorem anchorPage_frame (v k : Nat) (s : State) : (anchorPage v k s).frame = s.frame := by
  unfold anchorPage
  repeat' (first
                 | simp only [wipeBlock_frame, putBlock_frame, blockProgrammed_frame, frame_mk, frame_eta, apply_ite
                     State.frame, ite_self] | refine (eachOf_frame _ _ _ ?_).trans ?_ | (intro _) | (split) | rfl)

theorem anchorWrite_frame (s : State) : (anchorWrite s).frame = s.frame := by
  unfold anchorWrite
  repeat' (first | simp only [anchorPage_frame, frame_mk, frame_eta, apply_ite State.frame, ite_self]
                 | refine (eachOf_frame _ _ _ ?_).trans ?_ | (intro _) | (split) | rfl)

theorem refreshDone_frame (f kind : Nat) (s : State) : (refreshDone f kind s).frame = s.frame := by
  unfold refreshDone
  repeat' (first | simp only [healthAdd_frame, frame_mk, frame_eta, apply_ite State.frame, ite_self] | (intro _) | (split)
                 | rfl)

theorem coverNote_frame (keys : List Nat) (s : State) : (coverNote keys s).frame = s.frame := by
  unfold coverNote
  simp only [frame_mk, frame_eta]

theorem placeDirty_keeps (key : Nat) (d : Dirty) (s : State) : Keeps s.frame (placeDirty key d s).frame := by
  unfold placeDirty
  refine Keeps.trans ?_ (Keeps.of_eq (map_frame _ _))
  refine Keeps.trans ?_ (Keeps.of_eq (drawn_frame _))
  refine Keeps.trans ?_ (fillRegion_keeps _ _)
  refine Keeps.trans ?_ (Keeps.of_eq (drawn_frame _))
  refine Keeps.trans ?_ (fillRegion_keeps _ _)
  exact freeRegions_keeps ..

theorem releaseDirty_keeps (keys rs : List Nat) (s : State) : Keeps s.frame (releaseDirty keys rs s).frame := by
  unfold releaseDirty
  refine Keeps.trans ?_ (Keeps.of_eq (wakeDurable_frame _))
  have h : ∀ (s : State) (m : MapState) (q : NvqState), State.frame { s with map := m, nvq := q } = s.frame := fun _ _ _ => rfl
  refine Keeps.trans ?_ (Keeps.of_eq (h _ _ _))
  exact (Keeps.of_eq (coverNote_frame ..)).trans (freeRegions_keeps ..)

theorem dropDirty_keeps (keys : List Nat) (s : State) : Keeps s.frame (dropDirty keys s).frame := by
  unfold dropDirty
  repeat' (first | with_reducible exact Keeps.refl _ | dsimp only | with_reducible apply Keeps.ite ?_ ?_
                 | with_reducible apply Keeps.trans ?_ (releaseDirty_keeps ..) | (intro _)
                 | simp only [frame_mk, frame_eta, apply_ite State.frame, ite_self]
                 | with_reducible refine Keeps.trans ?_ (eachOf_keeps _ _ _ ?_)
                 | with_reducible refine Keeps.trans ?_ (foldl_keeps _ _ _ ?_) | (split))

theorem destaged_keeps (keys : List Nat) (s : State) : Keeps s.frame (destaged keys s).frame := by
  unfold destaged
  repeat' (first | with_reducible exact Keeps.refl _ | dsimp only | with_reducible apply Keeps.ite ?_ ?_
                 | with_reducible apply Keeps.trans ?_ (releaseDirty_keeps ..) | (intro _)
                 | simp only [frame_mk, frame_eta, apply_ite State.frame, ite_self]
                 | with_reducible refine Keeps.trans ?_ (eachOf_keeps _ _ _ ?_)
                 | with_reducible refine Keeps.trans ?_ (foldl_keeps _ _ _ ?_) | (split))

theorem dropClean_keeps (a b : Nat) (s : State) : Keeps s.frame (dropClean a b s).frame := by
  unfold dropClean
  repeat' (first | with_reducible exact Keeps.refl _ | dsimp only | with_reducible apply Keeps.ite ?_ ?_
                 | with_reducible apply Keeps.trans ?_ (freeRegions_keeps ..) | (intro _)
                 | simp only [frame_mk, frame_eta, apply_ite State.frame, ite_self]
                 | with_reducible refine Keeps.trans ?_ (eachOf_keeps _ _ _ ?_)
                 | with_reducible refine Keeps.trans ?_ (foldl_keeps _ _ _ ?_) | (split))

theorem openLog_frame {ltn : Nat} {pred : Option Nat} {cls : Nat} {s : State} {i t} (h : openLog ltn pred cls s = some (i,
    t)) : t.frame = s.frame := by
  unfold openLog at h; split at h
  · simp only [Option.map_eq_some_iff] at h
    obtain ⟨r, hr, e⟩ := h
    have hs := openStripe_frame (i := r.1) hr
    cases e
    split <;> split <;> simp only [journal_frame, journalStripe_frame, setCore_frame, drawn_frame, advanceRot_frame, hs]
  · cases h

theorem logAppend_keeps (g : Nat) (key : Nat) (d : Dirty) (s : State) : Keeps s.frame (logAppend g key d s).frame := by
  unfold logAppend
  repeat' (first | with_reducible exact Keeps.refl _ | dsimp only | with_reducible apply Keeps.ite ?_ ?_
                 | with_reducible apply Keeps.trans ?_ (Keeps.of_eq (skipAbsent_frame ..))
                 | with_reducible apply Keeps.trans ?_ (Keeps.of_eq (putUnit_frame ..))
                 | with_reducible apply Keeps.trans ?_ (Keeps.of_eq (putParity_frame ..))
                 | with_reducible apply Keeps.trans ?_ (Keeps.of_eq (setFrontier_frame ..))
                 | with_reducible apply Keeps.trans ?_ (Keeps.of_eq (setCore_frame ..))
                 | with_reducible apply Keeps.trans ?_ (Keeps.of_eq (journal_frame ..))
                 | with_reducible apply Keeps.trans ?_ (destaged_keeps ..) | (intro _)
                 | simp only [skipAbsent_frame, putUnit_frame, putParity_frame, setFrontier_frame, setCore_frame,
                     journal_frame, frame_mk, frame_eta, apply_ite State.frame, ite_self]
                 | with_reducible refine Keeps.trans ?_ (eachOf_keeps _ _ _ ?_)
                 | with_reducible refine Keeps.trans ?_ (foldl_keeps _ _ _ ?_) | (split))

theorem toLog_keeps (ltn : Nat) (units : List (Nat × Dirty)) (s : State) : Keeps s.frame (toLog ltn units s).frame := by
  unfold toLog; split
  · exact Keeps.refl _
  · simp only; split
    · split
      · exact Keeps.of_eq (wr_frame ..)
      · exact Keeps.refl _
    · next e =>
      refine Keeps.trans ?_ (eachOf_keeps _ _ _ ?_)
      · split at e
        · cases e; exact Keeps.refl _
        · exact Keeps.of_eq (openLog_frame e)
      · intro _ _; exact logAppend_keeps ..

theorem logPaceNote_frame (s : State) : (logPaceNote s).frame = s.frame := by
  unfold logPaceNote
  simp only [wr_frame, apply_ite State.frame, ite_self]

theorem sumpNote_frame (s : State) : (sumpNote s).frame = s.frame := by
  unfold sumpNote
  repeat' (first | simp only [wr_frame, frame_mk, frame_eta, apply_ite State.frame, ite_self] | (intro _) | (split) | rfl)

theorem freeSumps_frame (s : State) : (freeSumps s).frame = s.frame := by
  unfold freeSumps
  repeat' (first | simp only [releaseAfter_frame, frame_mk, frame_eta, apply_ite State.frame, ite_self]
                 | refine (eachOf_frame _ _ _ ?_).trans ?_ | (intro _) | (split) | rfl)

theorem sumpStripe_frame {s : State} {i t} (h : sumpStripe s = some (i, t)) : t.frame = s.frame := by
  unfold sumpStripe at h; split at h
  · cases h; rfl
  · split at h
    · cases h
    · simp only [Option.map_eq_some_iff] at h
      obtain ⟨r, hr, e⟩ := h
      cases e; simp only [journalStripe_frame]; exact openStripe_frame (i := r.1) hr

theorem benchNotice_frame (old new : Nat) (s : State) : (benchNotice old new s).frame = s.frame := by
  unfold benchNotice
  repeat' (first | simp only [aenPost_frame, vendorNotice_frame, frame_mk, frame_eta, apply_ite State.frame, ite_self]
                 | refine (eachOf_frame _ _ _ ?_).trans ?_ | (intro _) | (split) | rfl)

theorem fenRefreshOne_frame (f : Nat) (s : State) : (fenRefreshOne f s).frame = s.frame := by
  unfold fenRefreshOne
  simp only [wr_frame, wrB_frame, benchNotice_frame, frame_mk, frame_eta, apply_ite State.frame, ite_self]

theorem bench5Note_frame (s : State) : (bench5Note s).frame = s.frame := by
  unfold bench5Note
  repeat' (first | simp only [wr_frame, aenPost_frame, frame_mk, frame_eta, apply_ite State.frame] | (split)
                 | refine (eachOf_frame _ _ _ ?_).trans ?_ | (intro _))

theorem fenRefresh_frame (s : State) : (fenRefresh s).frame = s.frame := by
  unfold fenRefresh
  repeat' (first
                 | simp only [glbRefresh_frame, fenRefreshOne_frame, bench5Note_frame, apply_ite
                 State.frame] | refine (eachOf_frame _ _ _ ?_).trans ?_ | (intro _))

theorem markAbsent_frame (p : Nat × Nat → Bool) (s : State) : (markAbsent p s).frame = s.frame := by
  unfold markAbsent
  repeat' (first | simp only [setStripe_frame, frame_mk, frame_eta, apply_ite State.frame, ite_self]
                 | refine (eachOf_frame _ _ _ ?_).trans ?_ | refine (foldl_frame _ _ _ ?_).trans ?_ | (intro _) | (split)
                 | rfl)

theorem noteLost_frame (l : Nat) (s : State) : (noteLost l s).frame = s.frame := by
  unfold noteLost
  repeat' (first | simp only [faultAbsorbed_frame, frame_mk, frame_eta, apply_ite State.frame, ite_self] | (intro _)
                 | (split) | rfl)

theorem groupsNote_frame (s : State) : (groupsNote s).frame = s.frame := by
  unfold groupsNote
  repeat' (first | simp only [faultRestored_frame, frame_mk, frame_eta, apply_ite State.frame, ite_self]
                 | refine (eachOf_frame _ _ _ ?_).trans ?_ | (intro _) | (split) | rfl)

theorem memberWell_frame (l : Nat) (s : State) : (memberWell l s).frame = s.frame := by
  unfold memberWell
  repeat' (first | simp only [groupsNote_frame, faultRestored_frame, frame_mk, frame_eta, apply_ite State.frame, ite_self]
                 | (intro _) | (split) | rfl)

theorem rebuildOver_frame (f : Nat) (s : State) : (rebuildOver f s).frame = s.frame := by
  unfold rebuildOver
  repeat' (first
                 | simp only [memberWell_frame, faultRestored_frame, fenRefresh_frame, frame_mk, frame_eta, apply_ite
                     State.frame, ite_self] | refine (eachOf_frame _ _ _ ?_).trans ?_ | (intro _) | (split) | rfl)

theorem startRebuild_frame (l : Nat) (s : State) : (startRebuild l s).frame = s.frame := by
  unfold startRebuild
  repeat' (first
                 | simp only [noteLost_frame, rebuildOver_frame, markAbsent_frame, frame_mk, frame_eta, apply_ite
                     State.frame, ite_self] | (intro _) | (split) | rfl)

theorem loseDie_keeps (l d : Nat) (s : State) : Keeps s.frame (loseDie l d s).frame := by
  unfold loseDie
  repeat' (first | with_reducible exact Keeps.refl _ | dsimp only | with_reducible apply Keeps.ite ?_ ?_
                 | with_reducible apply Keeps.trans ?_ (Keeps.of_eq (rebuildOver_frame ..))
                 | with_reducible apply Keeps.trans ?_ (Keeps.of_eq (faultAbsorbed_frame ..))
                 | with_reducible apply Keeps.trans ?_ (Keeps.of_eq (markAbsent_frame ..))
                 | with_reducible apply Keeps.trans ?_ (spoilBlock_keeps ..) | (intro _)
                 | simp only [rebuildOver_frame, faultAbsorbed_frame, markAbsent_frame, frame_mk, frame_eta, apply_ite
                     State.frame, ite_self] | with_reducible refine Keeps.trans ?_ (eachOf_keeps _ _ _ ?_)
                 | with_reducible refine Keeps.trans ?_ (foldl_keeps _ _ _ ?_) | (split))

theorem abandonJobs_frame (id : Nat) (s : State) : (abandonJobs id s).frame = s.frame := by
  unfold abandonJobs
  repeat' (first | simp only [releaseSlots_frame, frame_mk, frame_eta]
                 | refine (eachOf_frame _ _ _ ?_).trans ?_ | (intro _))

theorem memberAbsent_frame (l : Nat) (s : State) : (memberAbsent l s).frame = s.frame := by
  unfold memberAbsent
  repeat' (first
                 | simp only [startRebuild_frame, noteLost_frame, fenRefresh_frame, frame_mk, frame_eta, apply_ite
                     State.frame, ite_self] | (intro _) | (split) | rfl)

theorem startDrain_frame (l : Nat) (s : State) : (startDrain l s).frame = s.frame := by
  unfold startDrain
  simp only [fenRefresh_frame, frame_mk, frame_eta]

theorem wornCheck_frame (l : Nat) (s : State) : (wornCheck l s).frame = s.frame := by
  unfold wornCheck
  simp only [vendorNotice_frame, startDrain_frame, apply_ite State.frame, ite_self]

theorem spoilAndCheck_keeps (l b reason flags : Nat) (s : State) : Keeps s.frame (spoilAndCheck l b reason flags
    s).frame := by
  unfold spoilAndCheck
  repeat' (first | with_reducible exact Keeps.refl _ | dsimp only | with_reducible apply Keeps.ite ?_ ?_
                 | with_reducible apply Keeps.trans ?_ (Keeps.of_eq (wornCheck_frame ..))
                 | with_reducible apply Keeps.trans ?_ (spoilBlock_keeps ..) | (intro _)
                 | simp only [wornCheck_frame, frame_mk, frame_eta, apply_ite State.frame, ite_self]
                 | with_reducible refine Keeps.trans ?_ (eachOf_keeps _ _ _ ?_)
                 | with_reducible refine Keeps.trans ?_ (foldl_keeps _ _ _ ?_) | (split))

theorem markLostAt_frame (id row slot w : Nat) (s : State) : (markLostAt id row slot w s).frame = s.frame := by
  unfold markLostAt
  repeat' (first | simp only [frame_mk, frame_eta] | (split))

theorem loseUnitAt_frame (id row slot w : Nat) (s : State) : (loseUnitAt id row slot w s).frame = s.frame := by
  unfold loseUnitAt
  repeat' (first
                 | simp only [declareUnitLost_frame, markLostAt_frame, frame_mk, frame_eta, apply_ite State.frame,
                     ite_self] | (intro _) | (split) | rfl)

theorem losePlace_frame (id row w : Nat) (s : State) : (losePlace id row w s).frame = s.frame := by
  unfold losePlace
  repeat' (first | simp only [loseUnitAt_frame, frame_mk, frame_eta, apply_ite State.frame, ite_self]
                 | refine (eachOf_frame _ _ _ ?_).trans ?_ | (intro _) | (split) | rfl)

theorem loseExceeded_frame (id : Nat) (s : State) : (loseExceeded id s).frame = s.frame := by
  unfold loseExceeded
  repeat' (first | simp only [losePlace_frame, frame_mk, frame_eta, apply_ite State.frame, ite_self]
                 | refine (eachOf_frame _ _ _ ?_).trans ?_ | (intro _) | (split) | rfl)

theorem sumpProgram_keeps (ltn row : Nat) (units : List (Nat × Dirty)) (failSlot : Option Nat) (s : State) : Keeps
    s.frame (sumpProgram ltn row units failSlot s).frame := by
  unfold sumpProgram
  repeat' (first | with_reducible exact Keeps.refl _ | dsimp only | with_reducible apply Keeps.ite ?_ ?_
                 | with_reducible apply Keeps.trans ?_ (Keeps.of_eq (wr_frame ..))
                 | with_reducible apply Keeps.trans ?_ (Keeps.of_eq (slotGone_frame ..))
                 | with_reducible apply Keeps.trans ?_ (Keeps.of_eq (putUnit_frame ..))
                 | with_reducible apply Keeps.trans ?_ (Keeps.of_eq (rowsProgrammed_frame ..))
                 | with_reducible apply Keeps.trans ?_ (Keeps.of_eq (putParity_frame ..))
                 | with_reducible apply Keeps.trans ?_ (Keeps.of_eq (journal_frame ..))
                 | with_reducible apply Keeps.trans ?_ (Keeps.of_eq (freeSumps_frame ..))
                 | with_reducible apply Keeps.trans ?_ (Keeps.of_eq (closeStripe_frame ..))
                 | with_reducible apply Keeps.trans ?_ (spoilBlock_keeps ..)
                 | with_reducible apply Keeps.trans ?_ (destaged_keeps ..)
                 | with_reducible refine Keeps.trans ?_ (Keeps.of_eq (sumpStripe_frame (by assumption))) | (intro _)
                 | simp only [wr_frame, slotGone_frame, putUnit_frame, rowsProgrammed_frame, putParity_frame,
                     journal_frame, freeSumps_frame, closeStripe_frame, frame_mk, frame_eta, apply_ite State.frame, ite_self]
                 | with_reducible refine Keeps.trans ?_ (eachOf_keeps _ _ _ ?_)
                 | with_reducible refine Keeps.trans ?_ (foldl_keeps _ _ _ ?_) | (split))

theorem destageRow_keeps (ltn row : Nat) (failSlot : Option Nat) (s : State) : Keeps s.frame (destageRow ltn row
    failSlot s).frame := by
  unfold destageRow
  repeat' (first | with_reducible exact Keeps.refl _ | dsimp only | with_reducible apply Keeps.ite ?_ ?_
                 | with_reducible apply Keeps.trans ?_ (toLog_keeps ..)
                 | with_reducible apply Keeps.trans ?_ (sumpProgram_keeps ..) | (intro _)
                 | simp only [frame_mk, frame_eta, apply_ite State.frame, ite_self]
                 | with_reducible refine Keeps.trans ?_ (eachOf_keeps _ _ _ ?_)
                 | with_reducible refine Keeps.trans ?_ (foldl_keeps _ _ _ ?_) | (split))

theorem tractStripe_frame {ltn : Nat} {s : State} {t} (h : tractStripe ltn s = some t) : t.frame = s.frame := by
  unfold tractStripe at h; simp only at h; split at h
  · cases h; rfl
  · split at h
    · cases h
    · simp only [Option.map_eq_some_iff] at h
      obtain ⟨r, hr, e⟩ := h
      have hs := openStripe_frame (i := r.1) hr
      cases e
      split <;> simp only [journal_frame, journalStripe_frame, advanceRot_frame, hs]

theorem destageBelow_keeps (ltn upto : Nat) (s : State) : Keeps s.frame (destageBelow ltn upto s).frame := by
  unfold destageBelow
  repeat' (first | with_reducible exact Keeps.refl _ | dsimp only | with_reducible apply Keeps.ite ?_ ?_
                 | with_reducible apply Keeps.trans ?_ (destageRow_keeps ..) | (intro _)
                 | simp only [frame_mk, frame_eta, apply_ite State.frame, ite_self]
                 | with_reducible refine Keeps.trans ?_ (eachOf_keeps _ _ _ ?_)
                 | with_reducible refine Keeps.trans ?_ (foldl_keeps _ _ _ ?_) | (split))

theorem startFold_keeps (ltn upto : Nat) (s : State) : Keeps s.frame (startFold ltn upto s).frame := by
  unfold startFold
  repeat' (first | with_reducible exact Keeps.refl _ | dsimp only | with_reducible apply Keeps.ite ?_ ?_
                 | with_reducible apply Keeps.trans ?_ (destageBelow_keeps ..)
                 | with_reducible refine Keeps.trans ?_ (Keeps.of_eq (tractStripe_frame (by assumption))) | (intro _)
                 | simp only [frame_mk, frame_eta, apply_ite State.frame, ite_self]
                 | with_reducible refine Keeps.trans ?_ (eachOf_keeps _ _ _ ?_)
                 | with_reducible refine Keeps.trans ?_ (foldl_keeps _ _ _ ?_) | (split))

theorem copyUnits_frame (ltn id : Nat) (units : List Nat) (read : State → Nat → Option UnitData) (s : State) : (copyUnits ltn
    id units read s).frame = s.frame := by
  unfold copyUnits
  repeat' (first | simp only [declareUnitLost_frame, putUnit_frame, apply_ite State.frame, ite_self]
                 | (split) | refine (eachOf_frame _ _ _ ?_).trans ?_ | (intro _))

theorem parityRows_frame (id a b : Nat) (s : State) : (parityRows id a b s).frame = s.frame := by
  unfold parityRows
  repeat' (first | simp only [putParity_frame, frame_mk, frame_eta, apply_ite State.frame, ite_self]
                 | refine (eachOf_frame _ _ _ ?_).trans ?_ | (intro _) | (split) | rfl)

theorem foldPassed_keeps (ltn upto : Nat) (s : State) : Keeps s.frame (foldPassed ltn upto s).frame := by
  unfold foldPassed
  repeat' (first | with_reducible exact Keeps.refl _ | dsimp only | with_reducible apply Keeps.ite ?_ ?_
                 | with_reducible apply Keeps.trans ?_ (toLog_keeps ..) | (intro _)
                 | simp only [frame_mk, frame_eta, apply_ite State.frame, ite_self]
                 | with_reducible refine Keeps.trans ?_ (eachOf_keeps _ _ _ ?_)
                 | with_reducible refine Keeps.trans ?_ (foldl_keeps _ _ _ ?_) | (split))

theorem mapNote_frame (s : State) : (mapNote s).frame = s.frame := by
  unfold mapNote
  simp only [logPaceNote_frame, sumpNote_frame]

theorem startMerge_frame (ltn : Nat) (must evacuation : Bool) (s : State) : (startMerge ltn must evacuation s).frame =
    s.frame := by
  unfold startMerge; simp only; split
  · rfl
  · split
    · rfl
    · split
      · rfl
      · next h1 =>
        have h1 := openStripe_frame h1
        split
        · split
          · simp only [wr_frame]
          · rfl
        · next h2 =>
          have h2 := openLog_frame h2
          simp only [frame_mk, frame_eta, journal_frame, putStripe_frame, parityRows_frame, rowsProgrammed_frame, copyUnits_frame,
              mergeBegin_frame, h2, apply_ite State.frame, advanceRot_frame, h1, ite_self]

theorem commitStripe_frame (ltn id : Nat) (st : TractState) (s : State) : (commitStripe ltn id st s).frame = s.frame := by
  unfold commitStripe
  repeat' (first
                 | simp only [journalStripe_frame, closeStripe_frame, journal_frame, abandonJobs_frame,
                     releaseAfter_frame, frame_mk, frame_eta, apply_ite State.frame, ite_self] | (intro _) | (split)
                 | rfl)

theorem startCopy_frame (ltn : Nat) (evacuation : Bool) (s : State) : (startCopy ltn evacuation s).frame = s.frame := by
  unfold startCopy
  repeat' (first
                 | simp only [startMerge_frame, advanceRot_frame, parityRows_frame, copyUnits_frame, putStripe_frame,
                     rowsProgrammed_frame, journal_frame, frame_mk, frame_eta, apply_ite State.frame, ite_self]
                 | refine (openStripe_frame (by assumption)).trans ?_ | (intro _) | (split) | rfl)

theorem freeJournal_frame (first : Nat) (s : State) : (freeJournal first s).frame = s.frame := by
  unfold freeJournal
  repeat' (first | simp only [releaseAfter_frame, frame_mk, frame_eta]
                 | refine (eachOf_frame _ _ _ ?_).trans ?_ | (intro _))

theorem setDue_frame (id : Nat) (s : State) : (setDue id s).frame = s.frame := by
  unfold setDue
  repeat' (first | simp only [setStripe_frame, frame_mk, frame_eta, apply_ite State.frame, ite_self] | (intro _) | (split)
                 | rfl)

theorem catchupNote_frame (s : State) : (catchupNote s).frame = s.frame := by
  unfold catchupNote
  repeat' (first | simp only [wr_frame, vendorNotice_frame, frame_mk, frame_eta, apply_ite State.frame, ite_self]
                 | (intro _) | (split) | rfl)

theorem judgeStripe_frame (id : Nat) (s : State) : (judgeStripe id s).frame = s.frame := by
  unfold judgeStripe
  repeat' (first | simp only [catchupNote_frame, setDue_frame, frame_mk, frame_eta, apply_ite State.frame, ite_self]
                 | (intro _) | (split) | rfl)

theorem measureBlock_frame (l b ppm : Nat) (s : State) : (measureBlock l b ppm s).frame = s.frame := by
  unfold measureBlock
  simp only [putBlock_frame, judgeStripe_frame, apply_ite State.frame, ite_self]

theorem putPass_frame (p : DredgePass) (s : State) : (putPass p s).frame = s.frame := by
  unfold putPass
  simp only [frame_mk, frame_eta]

theorem newPass_frame (p : DredgePass) (s : State) : (newPass p s).frame = s.frame := by
  unfold newPass
  simp only [frame_mk, frame_eta]

theorem passNext_frame (s : State) : (passNext s).frame = s.frame := by
  unfold passNext
  repeat' (first | simp only [putPass_frame, apply_ite State.frame] | (split))

theorem endPass_frame (p : DredgePass) (state : Nat) (s : State) : (endPass p state s).frame = s.frame := by
  unfold endPass
  simp only [fenRefresh_frame, putPass_frame, passNext_frame, frame_mk, frame_eta, apply_ite State.frame, ite_self]

theorem putWord_keeps (a data : Nat) (poisoned : Bool) (s : State) : Keeps s.frame (putWord a data poisoned s).frame :=
  ⟨rfl, rfl, fun h => memStore_wf h .., rfl, rfl, Nat.le_refl _, Nat.le_refl _⟩

theorem flipBits_frame (flips : List (Nat × Nat)) (s : State) : (flipBits flips s).frame = s.frame := by
  unfold flipBits
  simp only [frame_mk, frame_eta]

theorem poisonGroup_frame (g : Nat) (s : State) : (poisonGroup g s).frame = s.frame := by
  unfold poisonGroup
  repeat' (first | simp only [frame_mk, frame_eta, apply_ite State.frame, ite_self]
                 | refine (foldl_frame _ _ _ ?_).trans ?_ | (intro _) | (split) | rfl)

theorem checkGroup_frame (g : Nat) (s : State) : (checkGroup g s).frame = s.frame := by
  unfold checkGroup
  repeat' (first | simp only [poisonGroup_frame, wr_frame, frame_mk, frame_eta, apply_ite State.frame, ite_self]
                 | (intro _) | (split) | rfl)

theorem flipGroup_frame (g flips : Nat) (s : State) : (flipGroup g flips s).frame = s.frame := by
  unfold flipGroup
  repeat' (first | simp only [frame_mk, frame_eta, apply_ite State.frame, ite_self] | (intro _) | (split) | rfl)

theorem checkGroups_frame (a len : Nat) (s : State) : (checkGroups a len s).frame = s.frame := by
  unfold checkGroups
  repeat' (first | simp only [checkGroup_frame, frame_mk, frame_eta, apply_ite State.frame, ite_self]
                 | refine (eachOf_frame _ _ _ ?_).trans ?_ | (intro _) | (split) | rfl)

theorem lapStep_frame (i total : Nat) (s : State) : (lapStep i total s).frame = s.frame := by
  unfold lapStep
  repeat' (first | simp only [wr_frame, frame_mk, frame_eta, apply_ite State.frame, ite_self] | (intro _) | (split) | rfl)

theorem unpark_frame (k : Nat) (s : State) : (unpark k s).frame = s.frame := by
  unfold unpark
  repeat' (first | simp only [wr_frame, frame_mk, frame_eta, apply_ite State.frame, ite_self] | (intro _) | (split) | rfl)

theorem dropStack_keeps (k : Nat) (s : State) : Keeps s.frame (dropStack k s).frame :=
  ⟨rfl, rfl, fun h => memFilter_wf h .., rfl, rfl, Nat.le_refl _, Nat.le_refl _⟩

theorem fenceMark_frame (k cause : Nat) (s : State) : (fenceMark k cause s).frame = s.frame := by
  unfold fenceMark
  simp only [wr_frame, wrBit_frame, apply_ite State.frame, ite_self]

theorem reloadPiece_frame (piece : Nat) (s : State) : (reloadPiece piece s).frame = s.frame := by
  unfold reloadPiece
  repeat' (first | simp only [frame_mk, frame_eta, apply_ite State.frame, ite_self] | (intro _) | (split) | rfl)

theorem placePiece_frame (piece : Nat) (s : State) : (placePiece piece s).frame = s.frame := by
  unfold placePiece
  repeat' (first | simp only [frame_mk, frame_eta, apply_ite State.frame, ite_self] | (intro _) | (split) | rfl)

theorem placeMirrors_frame (s : State) : (placeMirrors s).frame = s.frame := by
  unfold placeMirrors
  repeat' (first | simp only [placePiece_frame, frame_mk, frame_eta, apply_ite State.frame, ite_self]
                 | refine (eachOf_frame _ _ _ ?_).trans ?_ | (intro _) | (split) | rfl)

theorem fenceLoss_keeps (k : Nat) (s : State) : Keeps s.frame (fenceLoss k s).frame := by
  unfold fenceLoss
  repeat' (first | with_reducible exact Keeps.refl _ | dsimp only | with_reducible apply Keeps.ite ?_ ?_
                 | with_reducible apply Keeps.trans ?_ (Keeps.of_eq (placePiece_frame ..))
                 | with_reducible apply Keeps.trans ?_ (Keeps.of_eq (reloadPiece_frame ..))
                 | with_reducible apply Keeps.trans ?_ (Keeps.of_eq (coverLost_frame ..))
                 | with_reducible apply Keeps.trans ?_ (Keeps.of_eq (declareUnitLost_frame ..))
                 | with_reducible apply Keeps.trans ?_ (dropStack_keeps ..) | (intro _)
                 | simp only [placePiece_frame, reloadPiece_frame, coverLost_frame, declareUnitLost_frame, frame_mk,
                     frame_eta, apply_ite State.frame, ite_self]
                 | with_reducible refine Keeps.trans ?_ (eachOf_keeps _ _ _ ?_)
                 | with_reducible refine Keeps.trans ?_ (foldl_keeps _ _ _ ?_) | (split))

theorem fenceStack_keeps (k cause : Nat) (s : State) : Keeps s.frame (fenceStack k cause s).frame := by
  unfold fenceStack
  repeat' (first | with_reducible exact Keeps.refl _ | dsimp only | with_reducible apply Keeps.ite ?_ ?_
                 | with_reducible apply Keeps.trans ?_ (fenceLoss_keeps ..)
                 | with_reducible apply Keeps.trans ?_ (Keeps.of_eq (glbRefresh_frame ..))
                 | with_reducible apply Keeps.trans ?_ (Keeps.of_eq (faultAbsorbed_frame ..))
                 | with_reducible apply Keeps.trans ?_ (Keeps.of_eq (fenceMark_frame ..)) | simp only [frame_mk, frame_eta])

theorem remirrorDirty_keeps (s : State) : Keeps s.frame (remirrorDirty s).frame := by
  unfold remirrorDirty
  repeat' (first | with_reducible exact Keeps.refl _ | dsimp only | with_reducible apply Keeps.ite ?_ ?_
                 | with_reducible apply Keeps.trans ?_ (Keeps.of_eq (drawn_frame ..))
                 | with_reducible apply Keeps.trans ?_ (fillRegion_keeps ..) | (intro _)
                 | simp only [drawn_frame, frame_mk, frame_eta, apply_ite State.frame, ite_self]
                 | with_reducible refine Keeps.trans ?_ (eachOf_keeps _ _ _ ?_)
                 | with_reducible refine Keeps.trans ?_ (foldl_keeps _ _ _ ?_) | (split))

theorem remirrorPieces_frame (s : State) : (remirrorPieces s).frame = s.frame := by
  unfold remirrorPieces
  repeat' (first | simp only [frame_mk, frame_eta, apply_ite State.frame, ite_self]
                 | refine (eachOf_frame _ _ _ ?_).trans ?_ | (intro _) | (split) | rfl)

theorem corrected_keeps (k : Nat) (s : State) : Keeps s.frame (corrected k s).frame := by
  unfold corrected
  repeat' (first | with_reducible exact Keeps.refl _ | dsimp only | with_reducible apply Keeps.ite ?_ ?_
                 | with_reducible apply Keeps.trans ?_ (fenceStack_keeps ..)
                 | with_reducible apply Keeps.trans ?_ (Keeps.of_eq (wr_frame _ _ _ _))
                 | with_reducible apply Keeps.trans ?_ (Keeps.of_eq (count_frame _ _ _ _))
                 | with_reducible apply Keeps.trans ?_ (Keeps.of_eq (wrBit_frame _ _ _ _ _)) | simp only [frame_mk, frame_eta])

theorem leakAll_frame (s : State) : (leakAll s).frame = s.frame := by
  unfold leakAll
  repeat' (first | simp only [wr_frame, frame_mk, frame_eta, apply_ite State.frame, ite_self]
                 | refine (eachOf_frame _ _ _ ?_).trans ?_ | (intro _))

theorem noteCheck_keeps (a : Nat) (c : WordCheck) (s : State) : Keeps s.frame (noteCheck a c s).frame := by
  unfold noteCheck
  repeat' (first | with_reducible exact Keeps.refl _ | dsimp only | with_reducible apply Keeps.ite ?_ ?_
                 | with_reducible apply Keeps.trans ?_ (corrected_keeps ..)
                 | with_reducible apply Keeps.trans ?_ (Keeps.of_eq (count_frame _ _ _ _))
                 | with_reducible apply Keeps.trans ?_ (Keeps.of_eq (wrBit_frame _ _ _ _ _)) | (split))

theorem readWordAt_keeps (a : Nat) (s : State) : Keeps s.frame (readWordAt a s).2.frame := by
  unfold readWordAt
  repeat' (first | with_reducible exact Keeps.refl _ | dsimp only
                 | with_reducible apply Keeps.trans ?_ (noteCheck_keeps ..) | (split))

theorem readWordAt_keeps' {a : Nat} {s : State} {av : (Nat × Bool)} {tv : State} (h : readWordAt a s = (av, tv)) : Keeps
    s.frame tv.frame := by
  have := readWordAt_keeps a s; rw [h] at this; exact this

theorem readMirrored_keeps (a m : Nat) (s : State) : Keeps s.frame (readMirrored a m s).2.frame := by
  unfold readMirrored
  repeat' (first | with_reducible exact Keeps.refl _ | dsimp only | with_reducible apply Keeps.trans ?_ (putWord_keeps ..)
                 | with_reducible apply Keeps.trans ?_ (readWordAt_keeps ..)
                 | with_reducible apply Keeps.trans ?_ (Keeps.of_eq (count_frame _ _ _ _)) | (split))

theorem readMirrored_keeps' {a m : Nat} {s : State} {av : (Nat × Bool)} {tv : State} (h : readMirrored a m s = (av, tv)) :
    Keeps s.frame tv.frame := by
  have := readMirrored_keeps a m s; rw [h] at this; exact this

end Sys2Proof.Machine
end

