-- ==== Sys2Proof/Laws/FrameHost.lean ====
section
/-! SUPPORT. What the operations of the Mere, the cipher, NVMe and Sluice leave unchanged (see FrameBase). -/

namespace Sys2Proof.Machine

open Sys2Proof

theorem readRun_keeps (n w : Nat) (mirror : Option Nat) (s : State) : Keeps s.frame (readRun n w mirror s).2.frame := by
  induction n generalizing w mirror s with
  | zero => unfold readRun; repeat' (first | with_reducible exact Keeps.refl _)
  | succ k ih => unfold readRun; repeat' (first | with_reducible exact Keeps.refl _ | dsimp only
                                                | with_reducible apply Keeps.trans ?_ (ih ..)
                                                | with_reducible apply Keeps.trans ?_ (readWordAt_keeps ..)
                                                | with_reducible apply Keeps.trans ?_ (readMirrored_keeps ..) | (split))

theorem readRun_keeps' {n w : Nat} {mirror : Option Nat} {s : State} {av : (Nat × Bool)} {tv : State} (h : readRun n w mirror
    s = (av, tv)) : Keeps s.frame tv.frame := by
  have := readRun_keeps n w mirror s; rw [h] at this; exact this

theorem partialOne_keeps (a o n v : Nat) (s : State) : Keeps s.frame (partialOne a o n v s).2.frame := by
  unfold partialOne
  repeat' (first | with_reducible exact Keeps.refl _ | dsimp only | with_reducible apply Keeps.trans ?_ (putWord_keeps ..)
                 | with_reducible apply Keeps.trans ?_ (validate_keeps ..)
                 | with_reducible apply Keeps.trans ?_ (noteCheck_keeps ..)
                 | with_reducible apply Keeps.trans ?_ (Keeps.of_eq (count_frame _ _ _ _))
                 | with_reducible apply Keeps.trans ?_ (Keeps.of_eq (peatRecord_frame ..)) | (split))

theorem partialOne_keeps' {a o n v : Nat} {s : State} {av : Bool} {tv : State} (h : partialOne a o n v s = (av, tv)) : Keeps
    s.frame tv.frame := by
  have := partialOne_keeps a o n v s; rw [h] at this; exact this

theorem writeWordAt_keeps (a : Nat) (mirror : Option Nat) (o n v : Nat) (s : State) : Keeps s.frame (writeWordAt a mirror o n
    v s).2.frame := by
  unfold writeWordAt
  repeat' (first | with_reducible exact Keeps.refl _ | dsimp only | with_reducible apply Keeps.trans ?_ (putWord_keeps ..)
                 | with_reducible apply Keeps.trans ?_ (validate_keeps ..)
                 | with_reducible apply Keeps.trans ?_ (noteCheck_keeps ..)
                 | with_reducible apply Keeps.trans ?_ (partialOne_keeps ..)
                 | with_reducible apply Keeps.trans ?_ (Keeps.of_eq (count_frame _ _ _ _)) | (split))

theorem writeWordAt_keeps' {a : Nat} {mirror : Option Nat} {o n v : Nat} {s : State} {av : Bool} {tv : State} (h :
    writeWordAt a mirror o n v s = (av, tv)) : Keeps s.frame tv.frame := by
  have := writeWordAt_keeps a mirror o n v s; rw [h] at this; exact this

theorem writeRun_keeps (fuel a : Nat) (mirror : Option Nat) (len v : Nat) (s : State) : Keeps s.frame (writeRun fuel a mirror
    len v s).2.frame := by
  induction fuel generalizing a mirror len v s with
  | zero => unfold writeRun; repeat' (first | with_reducible exact Keeps.refl _)
  | succ k ih => unfold writeRun; repeat' (first | with_reducible exact Keeps.refl _ | dsimp only
                                                 | with_reducible apply Keeps.trans ?_ (ih ..)
                                                 | with_reducible apply Keeps.trans ?_ (writeWordAt_keeps ..) | (split))

theorem writeRun_keeps' {fuel a : Nat} {mirror : Option Nat} {len v : Nat} {s : State} {av : Bool} {tv : State} (h : writeRun
    fuel a mirror len v s = (av, tv)) : Keeps s.frame tv.frame := by
  have := writeRun_keeps fuel a mirror len v s; rw [h] at this; exact this

theorem mereStore_keeps (a : Nat) (mirror : Option Nat) (len v : Nat) (s : State) : Keeps s.frame (mereStore a mirror len v
    s).2.frame := by
  unfold mereStore
  repeat' (first | with_reducible exact Keeps.refl _ | dsimp only | with_reducible apply Keeps.trans ?_ (writeRun_keeps ..)
                 | (split))

theorem mereStore_keeps' {a : Nat} {mirror : Option Nat} {len v : Nat} {s : State} {av : Bool} {tv : State} (h : mereStore a
    mirror len v s = (av, tv)) : Keeps s.frame tv.frame := by
  have := mereStore_keeps a mirror len v s; rw [h] at this; exact this

theorem mereFetch_keeps (a : Nat) (mirror : Option Nat) (len : Nat) (s : State) : Keeps s.frame (mereFetch a mirror len
    s).2.frame := by
  unfold mereFetch
  repeat' (first | with_reducible exact Keeps.refl _ | dsimp only | with_reducible apply Keeps.trans ?_ (readRun_keeps ..))

theorem mereFetch_keeps' {a : Nat} {mirror : Option Nat} {len : Nat} {s : State} {av : (Nat × Bool)} {tv : State} (h :
    mereFetch a mirror len s = (av, tv)) : Keeps s.frame tv.frame := by
  have := mereFetch_keeps a mirror len s; rw [h] at this; exact this

theorem mereBusError_frame (requester a : Nat) (s : State) : (mereBusError requester a s).frame = s.frame := by
  unfold mereBusError
  simp only [emit_frame, peatRecord_frame]

theorem labelPair_frame (avoid : List Nat) (s : State) : (labelPair avoid s).2.frame = s.frame := by
  unfold labelPair; dsimp only; split
  · rfl
  · next a t e =>
    have h1 : t.frame = s.frame := by
      split at e
      · cases e; rfl
      · exact metaStripe_frame e
    split
    · exact h1
    · split
      · next h2 => exact (metaStripeIn_frame h2).trans h1
      · exact h1

theorem labelPut_frame (payload : Nat) (ids : List Nat) (s : State) : (labelPut payload ids s).frame = s.frame := by
  unfold labelPut
  repeat' (first
                 | simp only [skipAbsent_frame, setFrontier_frame, putParity_frame, putMeta_frame, frame_mk, frame_eta,
                     apply_ite State.frame, ite_self] | refine (eachOf_frame _ _ _ ?_).trans ?_ | (intro _) | (split)
                 | rfl)

theorem labelRecord_frame (avoid : List Nat) (nsid : Nat) (n : Namespace) (state : Nat) (s : State) : (labelRecord avoid
    nsid n state s).frame = s.frame := by
  unfold labelRecord
  repeat' (first
                 | simp only [labelPair_frame, labelPut_frame, anchorWrite_frame, frame_mk, frame_eta, apply_ite
                     State.frame, ite_self] | (intro _) | (split) | rfl)

theorem labelWrite_frame (nsid : Nat) (s : State) : (labelWrite nsid s).frame = s.frame := by
  unfold labelWrite
  repeat' (first | simp only [labelRecord_frame, putNs_frame, frame_mk, frame_eta, apply_ite State.frame, ite_self]
                 | (intro _) | (split) | rfl)

theorem eraseNow_frame (l b : Nat) (s : State) : (eraseNow l b s).frame = s.frame := by
  unfold eraseNow
  repeat' (first | simp only [wipeBlock_frame, putBlock_frame, frame_mk, frame_eta, apply_ite State.frame, ite_self]
                 | (intro _) | (split) | rfl)

theorem eraseLabels_keeps (id : Nat) (s : State) : Keeps s.frame (eraseLabels id s).frame := by
  unfold eraseLabels
  repeat' (first | with_reducible exact Keeps.refl _ | dsimp only | with_reducible apply Keeps.ite ?_ ?_
                 | with_reducible apply Keeps.trans ?_ (Keeps.of_eq (journal_frame ..))
                 | with_reducible apply Keeps.trans ?_ (Keeps.of_eq (eraseNow_frame ..))
                 | with_reducible apply Keeps.trans ?_ (makeDurable_keeps ..) | (intro _)
                 | simp only [journal_frame, eraseNow_frame, frame_mk, frame_eta, apply_ite State.frame, ite_self]
                 | with_reducible refine Keeps.trans ?_ (eachOf_keeps _ _ _ ?_)
                 | with_reducible refine Keeps.trans ?_ (foldl_keeps _ _ _ ?_) | (split))

theorem labelErase_keeps (nsid : Nat) (n : Namespace) (state : Nat) (s : State) : Keeps s.frame (labelErase nsid n state
    s).frame := by
  unfold labelErase
  repeat' (first | with_reducible exact Keeps.refl _ | dsimp only | with_reducible apply Keeps.ite ?_ ?_
                 | with_reducible apply Keeps.trans ?_ (Keeps.of_eq (labelRecord_frame ..))
                 | with_reducible apply Keeps.trans ?_ (Keeps.of_eq (labelPair_frame ..))
                 | with_reducible apply Keeps.trans ?_ (Keeps.of_eq (labelPut_frame ..))
                 | with_reducible apply Keeps.trans ?_ (Keeps.of_eq (anchorWrite_frame ..))
                 | with_reducible apply Keeps.trans ?_ (eraseLabels_keeps ..) | (intro _)
                 | simp only [labelRecord_frame, labelPair_frame, labelPut_frame, anchorWrite_frame, frame_mk, frame_eta,
                     apply_ite State.frame, ite_self] | with_reducible refine Keeps.trans ?_ (eachOf_keeps _ _ _ ?_)
                 | with_reducible refine Keeps.trans ?_ (foldl_keeps _ _ _ ?_) | (split))

theorem putKeySlot_frame (k : Nat) (v : KeySlot) (s : State) : (putKeySlot k v s).frame = s.frame := by
  unfold putKeySlot
  simp only [frame_mk, frame_eta]

theorem rekey_keeps (nsid key time : Nat) (n : Namespace) (s : State) : Keeps s.frame (rekey nsid key time n s).frame := by
  unfold rekey
  repeat' (first | with_reducible exact Keeps.refl _ | dsimp only | with_reducible apply Keeps.ite ?_ ?_
                 | with_reducible apply Keeps.trans ?_ (Keeps.of_eq (putKeySlot_frame ..))
                 | with_reducible apply Keeps.trans ?_ (Keeps.of_eq (labelWrite_frame ..))
                 | with_reducible apply Keeps.trans ?_ (Keeps.of_eq (putNs_frame ..))
                 | with_reducible apply Keeps.trans ?_ (labelErase_keeps ..) | (intro _)
                 | simp only [putKeySlot_frame, labelWrite_frame, putNs_frame, frame_mk, frame_eta, apply_ite
                     State.frame, ite_self] | with_reducible refine Keeps.trans ?_ (eachOf_keeps _ _ _ ?_)
                 | with_reducible refine Keeps.trans ?_ (foldl_keeps _ _ _ ?_) | (split))

theorem cipCount_frame (op status : Nat) (s : State) : (cipCount op status s).frame = s.frame := by
  unfold cipCount
  simp only [count_frame, apply_ite State.frame, ite_self]

theorem cipDone_keeps (ring k status : Nat) (tag : Option Nat) (r : CipReq) (s : State) : Keeps s.frame (cipDone ring k
    status tag r s).frame := by
  unfold cipDone
  repeat' (first | with_reducible exact Keeps.refl _ | dsimp only | with_reducible apply Keeps.ite ?_ ?_
                 | with_reducible apply Keeps.trans ?_ (writeWordAt_keeps ..)
                 | with_reducible apply Keeps.trans ?_ (Keeps.of_eq (wr_frame _ _ _ _))
                 | with_reducible apply Keeps.trans ?_ (Keeps.of_eq (cipCount_frame ..)) | (split))

theorem cipFetch_keeps (fuel r : Nat) (s : State) : Keeps s.frame (cipFetch fuel r s).frame := by
  induction fuel generalizing r s with
  | zero => unfold cipFetch; repeat' (first | with_reducible exact Keeps.refl _)
  | succ k ih => unfold cipFetch; repeat' (first | with_reducible exact Keeps.refl _ | dsimp only
                                                 | with_reducible apply Keeps.ite ?_ ?_
                                                 | with_reducible apply Keeps.trans ?_ (ih ..)
                                                 | with_reducible apply Keeps.trans ?_ (cipDone_keeps ..)
                                                 | with_reducible apply Keeps.trans ?_ (Keeps.of_eq (wr_frame _ _ _ _))
                                                 | with_reducible apply Keeps.trans ?_ (Keeps.of_eq (putKeySlot_frame ..))
                                                 | simp only [frame_mk, frame_eta])

theorem cipEnd_keeps (ring k status : Nat) (tag : Option Nat) (q : CipReq) (s : State) : Keeps s.frame (cipEnd ring k status
    tag q s).frame := by
  unfold cipEnd
  repeat' (first | with_reducible exact Keeps.refl _ | dsimp only | with_reducible apply Keeps.trans ?_ (cipDone_keeps ..)
                 | with_reducible apply Keeps.trans ?_ (cipFetch_keeps ..)
                 | with_reducible apply Keeps.trans ?_ (Keeps.of_eq (putKeySlot_frame ..)) | simp only [frame_mk, frame_eta])

theorem cipInput_keeps {q : CipReq} {s : State} {a t} (h : cipInput q s = some (a, t)) : Keeps s.frame t.frame := by
  unfold cipInput at h; split at h
  · simp only [Option.map_eq_some_iff] at h
    obtain ⟨r, hr, e⟩ := h
    cases e; exact Keeps.refl _
  · split at h
    · have := mereFetch_keeps q.src none q.len s
      cases h' : mereFetch q.src none q.len s with
      | mk x y => rw [h'] at h this; cases h; exact this
    · cases h; exact Keeps.refl _

theorem cipAd_keeps (q : CipReq) (s : State) : Keeps s.frame (cipAd q s).2.frame := by
  unfold cipAd
  repeat' (first | with_reducible exact Keeps.refl _ | dsimp only
                 | with_reducible apply Keeps.trans ?_ (mereFetch_keeps ..) | (split))

theorem cipAd_keeps' {q : CipReq} {s : State} {av : (Nat × Bool)} {tv : State} (h : cipAd q s = (av, tv)) : Keeps s.frame
    tv.frame := by
  have := cipAd_keeps q s; rw [h] at this; exact this

theorem cipRun_keeps (ring k op : Nat) (f : Nat → CipReq → Nat → Nat → Nat × Option Nat × Option Nat) (s : State) : Keeps
    s.frame (cipRun ring k op f s).frame := by
  unfold cipRun; split
  · simp only; split
    · exact Keeps.refl _
    · next h =>
      refine (cipInput_keeps h).trans ((cipAd_keeps (cipAt s ring k) _).trans ?_)
      split
      · exact cipEnd_keeps ..
      · split
        · split
          · exact (mereStore_keeps ..).trans (cipEnd_keeps ..)
          · exact cipEnd_keeps ..
        · exact cipEnd_keeps ..
  · exact Keeps.refl _

theorem newKey_frame (s : State) : (newKey s).2.frame = s.frame := by
  unfold newKey
  simp only [frame_mk, frame_eta]

theorem newKey_frame' {s : State} {av : Nat} {tv : State} (h : newKey s = (av, tv)) : tv.frame = s.frame := by
  have := newKey_frame s; rw [h] at this; exact this

theorem drainSlot_frame (k : Nat) (next cmd : Option Nat) (s : State) : (drainSlot k next cmd s).frame = s.frame := by
  unfold drainSlot
  simp only [putKeySlot_frame]

theorem resNote_frame (n : NvmectlLot) (s : State) : (resNote n s).frame = s.frame := by
  unfold resNote
  simp only [peatRecord_frame, apply_ite State.frame, ite_self]

theorem freeSlotOf_frame (n : Nat) (s : State) : (freeSlotOf n s).frame = s.frame := by
  unfold freeSlotOf
  repeat' (first | simp only [putCtrl_frame, delSlot_frame, frame_mk, frame_eta, apply_ite State.frame, ite_self] | (split))

theorem takeEntry_frame (cid qid part : Nat) (e : Sqe) (s : State) : (takeEntry cid qid part e s).frame = s.frame := by
  unfold takeEntry
  repeat' (first
                 | simp only [putCtrl_frame, putSlot_frame, count_frame, wr_frame, finishCmd_frame, carryReport_frame,
                     frame_mk, frame_eta, apply_ite State.frame, ite_self] | (intro _) | (split) | rfl)

theorem withCmd_frame (n : Nat) (ok : Cmd → Bool) (f : Cmd → Ctrl → State → State) (s : State) (hf : ∀ k c s, (f k c s).frame
    = s.frame) : (withCmd n ok f s).frame = s.frame := by
  unfold withCmd; split
  · rfl
  · split
    · rfl
    · split
      · rfl
      · exact hf ..

theorem withCmd_keeps (n : Nat) (ok : Cmd → Bool) (f : Cmd → Ctrl → State → State) (s : State)
    (hf : ∀ k c s, Keeps s.frame (f k c s).frame) : Keeps s.frame (withCmd n ok f s).frame := by
  unfold withCmd; split
  · exact Keeps.refl _
  · split
    · exact Keeps.refl _
    · split
      · exact Keeps.refl _
      · exact hf ..

theorem finishChanged_frame (n status dw0 dw1 : Nat) (s : State) : (finishChanged n status dw0 dw1 s).frame = s.frame := by
  unfold finishChanged
  repeat' (first | simp only [putSlot_frame, finishCmd_frame] | (split))

theorem finishWrite_frame (n : Nat) (fua : Bool) (covers : List Nat) (dw0 dw1 : Nat) (s : State) : (finishWrite n fua covers
    dw0 dw1 s).frame = s.frame := by
  unfold finishWrite
  repeat' (first | simp only [putSlot_frame, finishCmd_frame, apply_ite State.frame, ite_self] | (split))

theorem countUnrecovered_frame (s : State) : (countUnrecovered s).frame = s.frame := by
  unfold countUnrecovered
  simp only [healthAdd_frame]

theorem drawWseq_frame (nsid c : Nat) (s : State) : (drawWseq nsid c s).frame = s.frame := by
  unfold drawWseq
  repeat' (first | simp only [putNs_frame, labelWrite_frame, apply_ite State.frame, ite_self] | (split))

theorem unmapTract_keeps (ltn : Nat) (s : State) : Keeps s.frame (unmapTract ltn s).frame := by
  unfold unmapTract
  repeat' (first | with_reducible exact Keeps.refl _ | dsimp only | with_reducible apply Keeps.ite ?_ ?_
                 | with_reducible apply Keeps.trans ?_ (Keeps.of_eq (mergeEnd_frame ..))
                 | with_reducible apply Keeps.trans ?_ (Keeps.of_eq (journal_frame ..))
                 | with_reducible apply Keeps.trans ?_ (Keeps.of_eq (abandonJobs_frame ..))
                 | with_reducible apply Keeps.trans ?_ (Keeps.of_eq (forgetDue_frame ..))
                 | with_reducible apply Keeps.trans ?_ (Keeps.of_eq (releaseAfter_frame ..))
                 | with_reducible apply Keeps.trans ?_ (Keeps.of_eq (mapNote_frame ..))
                 | with_reducible apply Keeps.trans ?_ (Keeps.of_eq (freeSumps_frame ..))
                 | with_reducible apply Keeps.trans ?_ (dropClean_keeps ..)
                 | with_reducible apply Keeps.trans ?_ (dropDirty_keeps ..) | (intro _)
                 | simp only [mergeEnd_frame, journal_frame, abandonJobs_frame, forgetDue_frame, releaseAfter_frame,
                     mapNote_frame, freeSumps_frame, frame_mk, frame_eta, apply_ite State.frame, ite_self]
                 | with_reducible refine Keeps.trans ?_ (eachOf_keeps _ _ _ ?_)
                 | with_reducible refine Keeps.trans ?_ (foldl_keeps _ _ _ ?_) | (split))

theorem lcrNotice_frame (cid : Nat) (s : State) : (lcrNotice cid s).frame = s.frame := by
  unfold lcrNotice
  repeat' (first | simp only [putCtrl_frame, aenPost_frame, apply_ite State.frame, ite_self] | (split))

theorem lcrOffer_frame (key : HostKey) (s : State) : (lcrOffer key s).frame = s.frame := by
  unfold lcrOffer
  repeat' (first | simp only [lcrNotice_frame]
                 | refine (eachOf_frame _ _ _ ?_).trans ?_ | (intro _))

theorem badDoorbell_frame (cid info : Nat) (s : State) : (badDoorbell cid info s).frame = s.frame := by
  unfold badDoorbell
  simp only [wr_frame, aenPost_frame]

theorem putSq_frame (cid qid : Nat) (c : Ctrl) (q : SubQueue) (s : State) : (putSq cid qid c q s).frame = s.frame := by
  unfold putSq
  simp only [putCtrl_frame]

theorem putCq_frame (cid qid : Nat) (c : Ctrl) (q : CplQueue) (s : State) : (putCq cid qid c q s).frame = s.frame := by
  unfold putCq
  simp only [putCtrl_frame]

theorem sqDoorbell_frame (cid qid value : Nat) (s : State) : (sqDoorbell cid qid value s).frame = s.frame := by
  unfold sqDoorbell
  repeat' (first | simp only [badDoorbell_frame, putSq_frame, apply_ite State.frame, ite_self] | (split))

theorem cqDoorbell_frame (cid qid value : Nat) (s : State) : (cqDoorbell cid qid value s).frame = s.frame := by
  unfold cqDoorbell
  repeat' (first | simp only [badDoorbell_frame, putCq_frame, apply_ite State.frame, ite_self] | (split))

theorem turnTaken_frame (cid qid n : Nat) (s : State) : (turnTaken cid qid n s).frame = s.frame := by
  unfold turnTaken
  repeat' (first | simp only [putCtrl_frame, frame_mk, frame_eta, apply_ite State.frame, ite_self] | (intro _) | (split)
                 | rfl)

theorem takeAll_frame (cid qid : Nat) (es : List Sqe) (s : State) : (takeAll cid qid es s).frame = s.frame := by
  unfold takeAll
  repeat' (first | simp only [takeEntry_frame, putSq_frame] | (split)
                 | refine (eachOf_frame _ _ _ ?_).trans ?_ | (intro _))

theorem sendVector_frame (cid v : Nat) (s : State) : (sendVector cid v s).frame = s.frame := by
  unfold sendVector
  repeat' (first | simp only [emit_frame, putCtrl_frame, apply_ite State.frame, ite_self] | (split))

theorem raiseVector_frame (cid cqid : Nat) (q : CplQueue) (s : State) : (raiseVector cid cqid q s).frame = s.frame := by
  unfold raiseVector
  repeat' (first | simp only [putCtrl_frame, sendVector_frame, apply_ite State.frame, ite_self] | (split))

theorem noteDone_frame (k : Cmd) (s : State) : (noteDone k s).frame = s.frame := by
  unfold noteDone
  simp only [frame_mk, frame_eta, apply_ite State.frame, ite_self]

theorem deleteNote_frame (cid qid : Nat) (s : State) : (deleteNote cid qid s).frame = s.frame := by
  unfold deleteNote
  repeat' (first | simp only [putCtrl_frame, finishCmd_frame, apply_ite State.frame, ite_self] | (split))

theorem endPosted_frame (n : Nat) (k : Cmd) (s : State) : (endPosted n k s).frame = s.frame := by
  unfold endPosted
  simp only [count_frame, errorLog_frame, freeSlotOf_frame, noteDone_frame, deleteNote_frame, apply_ite
      State.frame, ite_self]

theorem postSlot_frame (n : Nat) (s : State) : (postSlot n s).frame = s.frame := by
  unfold postSlot
  repeat' (first
                 | simp only [emit_frame, putSlot_frame, delSlot_frame, freeSlotOf_frame, putCq_frame, raiseVector_frame,
                 noteDone_frame, endPosted_frame, apply_ite State.frame, ite_self] | (split))

theorem lcrTrim_frame (fuel : Nat) (s : State) : (lcrTrim fuel s).frame = s.frame := by
  induction fuel generalizing s with
  | zero => unfold lcrTrim; simp only []
  | succ k ih => unfold lcrTrim; simp only [ih, wr_frame, frame_mk, frame_eta, apply_ite State.frame, ite_self]

theorem lcrAdd_frame (key : HostKey) (cause : Nat) (es : List LostEntry) (s : State) : (lcrAdd key cause es s).frame =
    s.frame := by
  unfold lcrAdd
  simp only [wr_frame, lcrTrim_frame, frame_mk, frame_eta, apply_ite State.frame, ite_self]

theorem resetSlots_frame (cid : Nat) (reach : Bool) (s : State) : (resetSlots cid reach s).2.frame = s.frame := by
  unfold resetSlots
  suffices H : ∀ (l : List (Nat × Cmd)) (g : List LostEntry × State → (Nat × Cmd) → List LostEntry × State)
      (hg : ∀ a e, (g a e).2.frame = a.2.frame) (a : List LostEntry × State), (l.foldl g a).2.frame = a.2.frame by
    refine H _ _ ?_ _
    intro a e; obtain ⟨l, s⟩ := a; simp only
    split
    · rfl
    · split
      · simp only [freeSlotOf_frame]
      · split <;> simp only [freeSlotOf_frame, putSlot_frame, drawn_frame]
  intro l g hg; induction l with
  | nil => intro a; rfl
  | cons e l ih => intro a; simp only [List.foldl_cons, ih, hg]

theorem ctrlReset_frame (cid cause : Nat) (reach : Bool) (s : State) : (ctrlReset cid cause reach s).frame = s.frame := by
  unfold ctrlReset
  repeat' (first
                 | simp only [putCtrl_frame, lcrAdd_frame, resetSlots_frame] | (split))

theorem shutdownBegin_frame (cid : Nat) (s : State) : (shutdownBegin cid s).frame = s.frame := by
  unfold shutdownBegin
  repeat' (first | simp only [putCtrl_frame] | (split))

theorem armBoot_frame (cid : Nat) (s : State) : (armBoot cid s).frame = s.frame := by
  unfold armBoot
  repeat' (first | simp only [frame_mk, frame_eta, apply_ite State.frame, ite_self] | (split))

theorem enableWake_frame (s : State) : (enableWake s).frame = s.frame := by
  unfold enableWake
  simp only [frame_mk, frame_eta, apply_ite State.frame, ite_self]

theorem ctrlEnable_frame (cid cc aqa : Nat) (s : State) : (ctrlEnable cid cc aqa s).frame = s.frame := by
  unfold ctrlEnable
  repeat' (first
                 | simp only [putCtrl_frame, lcrNotice_frame, armBoot_frame, enableWake_frame, apply_ite
                 State.frame, ite_self] | (split))

theorem setAna_frame (cid st : Nat) (s : State) : (setAna cid st s).frame = s.frame := by
  unfold setAna
  repeat' (first | simp only [putCtrl_frame, aenPost_frame, apply_ite State.frame, ite_self] | (split))

theorem portFollow_frame (p : HostPort) (s : State) : (portFollow p s).frame = s.frame := by
  unfold portFollow
  repeat' (first | simp only [setAna_frame]
                 | refine (eachOf_frame _ _ _ ?_).trans ?_ | (intro _))

theorem portChange_frame (p : HostPort) (s : State) : (portChange p s).frame = s.frame := by
  unfold portChange
  simp only [portFollow_frame, frame_mk, frame_eta, apply_ite State.frame, ite_self]

theorem portSettle_frame (p : HostPort) (s : State) : (portSettle p s).frame = s.frame := by
  unfold portSettle
  simp only [portFollow_frame, frame_mk, frame_eta]

theorem setZone_frame (ltn z : Nat) (s : State) : (setZone ltn z s).frame = s.frame := by
  unfold setZone
  simp only [journal_frame]

theorem putPtr_frame (nsid t wp : Nat) (zfc : Bool) (s : State) : (putPtr nsid t wp zfc s).frame = s.frame := by
  unfold putPtr
  repeat' (first | simp only [putNs_frame] | (split))

theorem maskedWrite_frame (p : AccessPath) (off value mask : Nat) (s : State) : (maskedWrite p off value mask s).frame =
    s.frame := by
  unfold maskedWrite; split
  · rfl
  · simp only
    suffices H : ∀ (l : List Field) (g : State × Bool → Field → State × Bool) (hg : ∀ a f, (g a f).1.frame = a.1.frame) (a :
        State × Bool),
        (l.foldl g a).1.frame = a.1.frame by
      split
      · rw [accessViolation_frame]; refine H _ _ ?_ _; intro a f; simp only; split <;> simp only [wr_frame]
      · refine H _ _ ?_ _; intro a f; simp only; split <;> simp only [wr_frame]
    intro l g hg; induction l with
    | nil => intro a; rfl
    | cons e l ih => intro a; simp only [List.foldl_cons, ih, hg]

theorem regWrite_frame (p : AccessPath) (off value : Nat) (s : State) : (regWrite p off value s).frame = s.frame := by
  unfold regWrite
  simp only [maskedWrite_frame]

theorem drainStuck_frame (l : Nat) (s : State) : (drainStuck l s).frame = s.frame := by
  unfold drainStuck
  simp only [markAbsent_frame, frame_mk, frame_eta]

theorem startJob_frame (id slot : Nat) (s : State) : (startJob id slot s).frame = s.frame := by
  unfold startJob
  repeat' (first
                 | simp only [loseExceeded_frame, takeBlock_frame, setStripe_frame, fenRefresh_frame, drainStuck_frame,
                     frame_mk, frame_eta, apply_ite State.frame, ite_self] | (intro _) | (split) | rfl)

theorem staleParity_frame (id row w : Nat) (s : State) : (staleParity id row w s).frame = s.frame := by
  unfold staleParity
  repeat' (first | simp only [frame_mk, frame_eta, apply_ite State.frame, ite_self]
                 | refine (foldl_frame _ _ _ ?_).trans ?_ | (intro _) | (split) | rfl)

theorem rebuildPlace_frame (j : RebuildJob) (row w : Nat) (s : State) : (rebuildPlace j row w s).frame = s.frame := by
  unfold rebuildPlace
  repeat' (first
                 | simp only [programAt_frame, losePlace_frame, staleParity_frame, frame_mk, frame_eta, apply_ite
                     State.frame, ite_self] | (intro _) | (split) | rfl)

theorem rebuildRows_frame (j : RebuildJob) (upto : Nat) (s : State) : (rebuildRows j upto s).frame = s.frame := by
  unfold rebuildRows
  repeat' (first
                 | simp only [rebuildPlace_frame, blockProgrammed_frame, frame_mk, frame_eta, apply_ite State.frame,
                     ite_self] | refine (eachOf_frame _ _ _ ?_).trans ?_ | (intro _) | (split) | rfl)

theorem sourceNote_frame (id : Nat) (s : State) : (sourceNote id s).frame = s.frame := by
  unfold sourceNote
  repeat' (first | simp only [setDue_frame, frame_mk, frame_eta, apply_ite State.frame, ite_self] | (intro _) | (split)
                 | rfl)

theorem refreshLoss_frame (id : Nat) (s : State) : (refreshLoss id s).frame = s.frame := by
  unfold refreshLoss
  repeat' (first | simp only [loseUnitAt_frame, frame_mk, frame_eta, apply_ite State.frame, ite_self]
                 | refine (eachOf_frame _ _ _ ?_).trans ?_ | (intro _) | (split) | rfl)

theorem eraseInPlace_frame (l b : Nat) (s : State) : (eraseInPlace l b s).frame = s.frame := by
  unfold eraseInPlace
  repeat' (first
                 | simp only [wipeBlock_frame, takeBlock_frame, putBlock_frame, frame_mk, frame_eta, apply_ite
                     State.frame, ite_self] | (intro _) | (split) | rfl)

theorem refreshInPlace_keeps (id : Nat) (failSlot : Option Nat) (s : State) : Keeps s.frame (refreshInPlace id failSlot
    s).frame := by
  unfold refreshInPlace
  repeat' (first | with_reducible exact Keeps.refl _ | dsimp only | with_reducible apply Keeps.ite ?_ ?_
                 | with_reducible apply Keeps.trans ?_ (Keeps.of_eq (refreshLoss_frame ..))
                 | with_reducible apply Keeps.trans ?_ (Keeps.of_eq (eraseInPlace_frame ..))
                 | with_reducible apply Keeps.trans ?_ (Keeps.of_eq (slotGone_frame ..))
                 | with_reducible apply Keeps.trans ?_ (Keeps.of_eq (skipAbsent_frame ..))
                 | with_reducible apply Keeps.trans ?_ (Keeps.of_eq (storeWord_frame ..))
                 | with_reducible apply Keeps.trans ?_ (Keeps.of_eq (closeStripe_frame ..))
                 | with_reducible apply Keeps.trans ?_ (Keeps.of_eq (rowsProgrammed_frame ..))
                 | with_reducible apply Keeps.trans ?_ (Keeps.of_eq (parityRows_frame ..))
                 | with_reducible apply Keeps.trans ?_ (Keeps.of_eq (journal_frame ..))
                 | with_reducible apply Keeps.trans ?_ (spoilAndCheck_keeps ..) | (intro _)
                 | simp only [refreshLoss_frame, eraseInPlace_frame, slotGone_frame, skipAbsent_frame, storeWord_frame,
                     closeStripe_frame, rowsProgrammed_frame, parityRows_frame, journal_frame, frame_mk, frame_eta, apply_ite
                     State.frame, ite_self] | with_reducible refine Keeps.trans ?_ (eachOf_keeps _ _ _ ?_)
                 | with_reducible refine Keeps.trans ?_ (foldl_keeps _ _ _ ?_) | (split))

theorem rewriteSame_keeps (id : Nat) (s : State) : Keeps s.frame (rewriteSame id s).frame := by
  unfold rewriteSame
  repeat' (first | with_reducible exact Keeps.refl _ | dsimp only | with_reducible apply Keeps.ite ?_ ?_
                 | with_reducible apply Keeps.trans ?_ (Keeps.of_eq (takeBlock_frame ..))
                 | with_reducible apply Keeps.trans ?_ (Keeps.of_eq (putStripe_frame ..))
                 | with_reducible apply Keeps.trans ?_ (Keeps.of_eq (storeWord_frame ..))
                 | with_reducible apply Keeps.trans ?_ (Keeps.of_eq (closeStripe_frame ..))
                 | with_reducible apply Keeps.trans ?_ (Keeps.of_eq (rowsProgrammed_frame ..))
                 | with_reducible apply Keeps.trans ?_ (Keeps.of_eq (parityRows_frame ..))
                 | with_reducible apply Keeps.trans ?_ (Keeps.of_eq (journalStripe_frame ..))
                 | with_reducible apply Keeps.trans ?_ (Keeps.of_eq (freeBlock_frame ..))
                 | with_reducible apply Keeps.trans ?_ (Keeps.of_eq (refreshDone_frame ..))
                 | with_reducible apply Keeps.trans ?_ (Keeps.of_eq (abandonJobs_frame ..))
                 | with_reducible apply Keeps.trans ?_ (Keeps.of_eq (forgetDue_frame ..))
                 | with_reducible apply Keeps.trans ?_ (makeDurable_keeps ..) | (intro _)
                 | simp only [takeBlock_frame, putStripe_frame, storeWord_frame, closeStripe_frame, rowsProgrammed_frame,
                     parityRows_frame, journalStripe_frame, freeBlock_frame, refreshDone_frame, abandonJobs_frame,
                     forgetDue_frame, frame_mk, frame_eta, apply_ite State.frame, ite_self]
                 | with_reducible refine Keeps.trans ?_ (eachOf_keeps _ _ _ ?_)
                 | with_reducible refine Keeps.trans ?_ (foldl_keeps _ _ _ ?_) | (split))

theorem metaRefresh_keeps (id : Nat) (s : State) : Keeps s.frame (metaRefresh id s).frame := by
  unfold metaRefresh
  repeat' (first | with_reducible exact Keeps.refl _ | dsimp only | with_reducible apply Keeps.ite ?_ ?_
                 | with_reducible apply Keeps.trans ?_ (Keeps.of_eq (startCheckpoint_frame ..))
                 | with_reducible apply Keeps.trans ?_ (rewriteSame_keeps ..) | (intro _)
                 | simp only [startCheckpoint_frame, frame_mk, frame_eta, apply_ite State.frame, ite_self]
                 | with_reducible refine Keeps.trans ?_ (eachOf_keeps _ _ _ ?_)
                 | with_reducible refine Keeps.trans ?_ (foldl_keeps _ _ _ ?_) | (split))

theorem rebuildPend_frame (s : State) : (rebuildPend s).frame = s.frame := by
  unfold rebuildPend
  simp only [frame_mk, frame_eta]

theorem rebuildCtlWrite_frame (p : AccessPath) (value : Nat) (s : State) : (rebuildCtlWrite p value s).frame = s.frame := by
  unfold rebuildCtlWrite
  simp only [regWrite_frame, rebuildPend_frame]

theorem fallowWake_frame (s : State) : (fallowWake s).frame = s.frame := by
  unfold fallowWake
  simp only [frame_mk, frame_eta]

theorem admitSlot_frame (n : Nat) (k : Cmd) (s : State) : (admitSlot n k s).frame = s.frame := by
  unfold admitSlot
  simp only [putSlot_frame]

theorem admitWrite_frame (n : Nat) (k : Cmd) (s : State) : (admitWrite n k s).frame = s.frame := by
  unfold admitWrite
  simp only [wr_frame, admitSlot_frame, apply_ite State.frame, ite_self]

theorem holdJobs_frame (s : State) : (holdJobs s).frame = s.frame := by
  unfold holdJobs
  repeat' (first | simp only [rebuildRows_frame, drawn_frame, frame_mk, frame_eta, apply_ite State.frame, ite_self]
                 | refine (eachOf_frame _ _ _ ?_).trans ?_ | (intro _) | (split) | rfl)

theorem applyShare_frame (s : State) : (applyShare s).frame = s.frame := by
  unfold applyShare
  repeat' (first | simp only [holdJobs_frame, frame_mk, frame_eta, apply_ite State.frame, ite_self] | (intro _) | (split)
                 | rfl)

theorem periodScale_frame (s : State) : (periodScale s).frame = s.frame := by
  unfold periodScale
  repeat' (first | simp only [drawn_frame, frame_mk, frame_eta, apply_ite State.frame, ite_self]
                 | refine (foldl_frame _ _ _ ?_).trans ?_ | (intro _) | (split) | rfl)

theorem creditAge_frame (s : State) : (creditAge s).frame = s.frame := by
  unfold creditAge
  repeat' (first | simp only [frame_mk, frame_eta, apply_ite State.frame, ite_self] | (intro _) | (split) | rfl)

theorem periodUse_frame (s : State) : (periodUse s).frame = s.frame := by
  unfold periodUse
  repeat' (first | simp only [putUse_frame]
                 | refine (eachOf_frame _ _ _ ?_).trans ?_ | (intro _))

theorem periodTurn_frame (s : State) : (periodTurn s).frame = s.frame := by
  unfold periodTurn
  repeat' (first | simp only [frame_mk, frame_eta, apply_ite State.frame, ite_self] | (intro _) | (split) | rfl)

theorem periodStat_frame (s : State) : (periodStat s).frame = s.frame := by
  unfold periodStat
  repeat' (first | simp only [wr_frame, wrB_frame, frame_mk, frame_eta, apply_ite State.frame, ite_self] | (intro _)
                 | (split) | rfl)

theorem zoneNotice_frame (nsid : Nat) (s : State) : (zoneNotice nsid s).frame = s.frame := by
  unfold zoneNotice
  repeat' (first | simp only [aenPost_frame]
                 | refine (eachOf_frame _ _ _ ?_).trans ?_ | (intro _))

theorem finishZone_frame (ltn : Nat) (zfc : Bool) (s : State) : (finishZone ltn zfc s).frame = s.frame := by
  unfold finishZone
  repeat' (first | simp only [setZone_frame, putPtr_frame] | (split))

theorem forcedNote_frame (s : State) : (forcedNote s).frame = s.frame := by
  unfold forcedNote
  simp only [wr_frame, count_frame]

theorem setFeature_frame (n fid : Nat) (f : Cmd → Ctrl → State → State) (s : State) (hf : ∀ k c s, (f k c s).frame = s.frame)
    : (setFeature n fid f s).frame = s.frame := by
  unfold setFeature; refine withCmd_frame (hf := ?_) ..; intro k c s
  split <;> simp only [finishCmd_frame, hf]

theorem putFeat_frame (cid key v : Nat) (s : State) : (putFeat cid key v s).frame = s.frame := by
  unfold putFeat
  repeat' (first | simp only [putCtrl_frame] | (split))

theorem fallowNote_frame (s : State) : (fallowNote s).frame = s.frame := by
  unfold fallowNote
  simp only [frame_mk, frame_eta, apply_ite State.frame, ite_self]

theorem takePs_frame (cid ps : Nat) (s : State) : (takePs cid ps s).frame = s.frame := by
  unfold takePs
  repeat' (first | simp only [putCtrl_frame, fallowNote_frame] | (split))

theorem putResv_frame (nsid : Nat) (f : Resv → Resv) (s : State) : (putResv nsid f s).frame = s.frame := by
  unfold putResv
  repeat' (first | simp only [putNs_frame] | (split))

theorem resvNote_frame (nsid kind : Nat) (hosts : List Nat) (s : State) : (resvNote nsid kind hosts s).frame = s.frame := by
  unfold resvNote
  repeat' (first | simp only [aenPost_frame, frame_mk, frame_eta, apply_ite State.frame] | (split)
                 | refine (eachOf_frame _ _ _ ?_).trans ?_ | (intro _))

theorem resvCmd_frame (n opc : Nat) (f : Cmd → Nat → Resv → State → State) (s : State) (hf : ∀ k c x s, (f k c x s).frame =
    s.frame) : (resvCmd n opc f s).frame = s.frame := by
  unfold resvCmd; refine withCmd_frame (hf := ?_) ..; intro k c s
  split <;> simp only [finishCmd_frame, hf]

theorem resvDone_frame (n nsid : Nat) (r : Resv) (s : State) : (resvDone n nsid r s).frame = s.frame := by
  unfold resvDone
  simp only [finishCmd_frame, putResv_frame]

theorem abortHosts_frame (nsid : Nat) (hosts : List Nat) (s : State) : (abortHosts nsid hosts s).frame = s.frame := by
  unfold abortHosts
  repeat' (first | simp only [finishCmd_frame]
                 | refine (eachOf_frame _ _ _ ?_).trans ?_ | (intro _))

theorem ageLink_frame (l : Nat) (s : State) : (ageLink l s).frame = s.frame := by
  unfold ageLink
  repeat' (first | simp only [frame_mk, frame_eta, apply_ite State.frame, ite_self] | (intro _) | (split) | rfl)

theorem fenTemp_frame (f : Nat) (s : State) : (fenTemp f s).frame = s.frame := by
  unfold fenTemp
  repeat' (first | simp only [frame_mk, frame_eta] | (split))

theorem linkTemp_frame (l : Nat) (s : State) : (linkTemp l s).frame = s.frame := by
  unfold linkTemp
  repeat' (first | simp only [frame_mk, frame_eta, apply_ite State.frame, ite_self] | (intro _) | (split) | rfl)

theorem smartSeconds_frame (s : State) : (smartSeconds s).frame = s.frame := by
  unfold smartSeconds
  repeat' (first | simp only [healthAdd_frame, frame_mk, frame_eta, apply_ite State.frame, ite_self] | (intro _) | (split)
                 | rfl)

theorem thermalSave_frame (s : State) : (thermalSave s).frame = s.frame := by
  unfold thermalSave
  simp only [frame_mk, frame_eta]

theorem witnessProgram_frame (l g : Nat) (s : State) : (witnessProgram l g s).frame = s.frame := by
  unfold witnessProgram
  repeat' (first
                 | simp only [wipeBlock_frame, putBlock_frame, blockProgrammed_frame, frame_mk, frame_eta, apply_ite
                     State.frame, ite_self] | refine (eachOf_frame _ _ _ ?_).trans ?_ | (intro _) | (split) | rfl)

theorem witnessFirst_frame (l : Nat) (s : State) : (witnessFirst l s).frame = s.frame := by
  unfold witnessFirst
  repeat' (first | simp only [witnessProgram_frame, frame_mk, frame_eta, apply_ite State.frame, ite_self]
                 | refine (eachOf_frame _ _ _ ?_).trans ?_ | (intro _) | (split) | rfl)

theorem dredgeStart_frame (s : State) : (dredgeStart s).frame = s.frame := by
  unfold dredgeStart
  simp only [wr_frame, fenRefresh_frame, newPass_frame, passNext_frame, apply_ite State.frame, ite_self]

theorem dredgeAbort_frame (s : State) : (dredgeAbort s).frame = s.frame := by
  unfold dredgeAbort
  repeat' (first | simp only [endPass_frame, apply_ite State.frame, ite_self] | (split))

theorem passMeasure_frame (id : Nat) (rates : List Nat) (s : State) : (passMeasure id rates s).frame = s.frame := by
  unfold passMeasure
  repeat' (first | simp only [measureBlock_frame, frame_mk, frame_eta, apply_ite State.frame, ite_self]
                 | refine (eachOf_frame _ _ _ ?_).trans ?_ | (intro _) | (split) | rfl)

theorem fifthRow_keeps (ltn u : Nat) (s : State) : Keeps s.frame (fifthRow ltn u s).frame := by
  unfold fifthRow
  repeat' (first | with_reducible exact Keeps.refl _ | dsimp only | with_reducible apply Keeps.ite ?_ ?_
                 | with_reducible apply Keeps.trans ?_ (destageRow_keeps ..) | (intro _)
                 | simp only [frame_mk, frame_eta, apply_ite State.frame, ite_self]
                 | with_reducible refine Keeps.trans ?_ (eachOf_keeps _ _ _ ?_)
                 | with_reducible refine Keeps.trans ?_ (foldl_keeps _ _ _ ?_) | (split))

theorem noteChanged_frame (nsid t : Nat) (s : State) : (noteChanged nsid t s).frame = s.frame := by
  unfold noteChanged
  simp only [frame_mk, frame_eta]

theorem enterFilling_frame (ltn : Nat) (s : State) : (enterFilling ltn s).frame = s.frame := by
  unfold enterFilling
  simp only [journal_frame, apply_ite State.frame, ite_self]

theorem putDirty_keeps (nsid ltn u cls : Nat) (zoned whole : Bool) (d : UnitData) (st : Nat × Nat) (s : State) : Keeps
    s.frame (putDirty nsid ltn u cls zoned whole d st s).frame := by
  unfold putDirty
  refine Keeps.trans ?_ (Keeps.of_eq (clearLost_frame ..))
  refine Keeps.trans ?_ (Keeps.of_eq (map_frame _ _))
  refine Keeps.trans ?_ (placeDirty_keeps ..)
  refine Keeps.trans ?_ (dropClean_keeps ..)
  split
  · exact (Keeps.of_eq (enterFilling_frame ..)).trans (fifthRow_keeps ..)
  · exact Keeps.of_eq (enterFilling_frame ..)

theorem commitWrite_keeps {nsid cls slba nlb : Nat} {data : List Nat} {s t : State} (h : commitWrite nsid cls slba nlb data s
    = some t) : Keeps s.frame t.frame := by
  unfold commitWrite at h; split at h
  · simp only at h; split at h
    · cases h
    · cases h
      refine Keeps.trans ?_ (eachOf_keeps _ _ _ (fun _ _ => Keeps.of_eq (noteChanged_frame ..)))
      refine Keeps.trans ?_ (foldl_keeps _ _ _ (fun _ _ => putDirty_keeps ..))
      exact Keeps.of_eq (drawWseq_frame ..)
  · cases h

theorem blockCmd_frame (n o : Nat) (f : Cmd → Ctrl → Namespace → State → State) (s : State) (hf : ∀ k c x s, (f k c x
    s).frame = s.frame) : (blockCmd n o f s).frame = s.frame := by
  unfold blockCmd; refine withCmd_frame (hf := ?_) ..; intro k c s
  split <;> simp only [finishCmd_frame, hf]

theorem blockCmd_keeps (n o : Nat) (f : Cmd → Ctrl → Namespace → State → State) (s : State)
    (hf : ∀ k c x s, Keeps s.frame (f k c x s).frame) : Keeps s.frame (blockCmd n o f s).frame := by
  unfold blockCmd; refine withCmd_keeps (hf := ?_) ..; intro k c s
  split <;> first | exact Keeps.of_eq (finishCmd_frame ..) | exact hf ..

theorem countRead_frame (k : Cmd) (x : Namespace) (s : State) : (countRead k x s).frame = s.frame := by
  unfold countRead
  simp only [healthAdd_frame]

theorem countWrite_frame (k : Cmd) (x : Namespace) (s : State) : (countWrite k x s).frame = s.frame := by
  unfold countWrite
  simp only [healthAdd_frame]

theorem stageUnit_keeps (key : Nat) (s : State) : Keeps s.frame (stageUnit key s).frame := by
  unfold stageUnit
  repeat' (first | with_reducible exact Keeps.refl _ | dsimp only | with_reducible apply Keeps.ite ?_ ?_
                 | with_reducible apply Keeps.trans ?_ (Keeps.of_eq (drawn_frame ..))
                 | with_reducible apply Keeps.trans ?_ (fillRegion_keeps ..) | (intro _)
                 | simp only [drawn_frame, frame_mk, frame_eta, apply_ite State.frame, ite_self]
                 | with_reducible refine Keeps.trans ?_ (eachOf_keeps _ _ _ ?_)
                 | with_reducible refine Keeps.trans ?_ (foldl_keeps _ _ _ ?_) | (split))

theorem zoneAdvance_frame (nsid t nlb : Nat) (s : State) : (zoneAdvance nsid t nlb s).frame = s.frame := by
  unfold zoneAdvance
  repeat' (first | simp only [setZone_frame, putPtr_frame, apply_ite State.frame, ite_self] | (split))

theorem runWrite_keeps (n : Nat) (k : Cmd) (x : Namespace) (slba : Nat) (data : List Nat) (dw0 dw1 : Nat) (s : State) :
    Keeps s.frame (runWrite n k x slba data dw0 dw1 s).frame := by
  unfold runWrite
  repeat' (first | with_reducible exact Keeps.refl _ | dsimp only | with_reducible apply Keeps.ite ?_ ?_
                 | with_reducible apply Keeps.trans ?_ (Keeps.of_eq (finishCmd_frame ..))
                 | with_reducible apply Keeps.trans ?_ (Keeps.of_eq (countUnrecovered_frame ..))
                 | with_reducible apply Keeps.trans ?_ (Keeps.of_eq (countWrite_frame ..))
                 | with_reducible apply Keeps.trans ?_ (Keeps.of_eq (zoneAdvance_frame ..))
                 | with_reducible apply Keeps.trans ?_ (Keeps.of_eq (finishWrite_frame ..))
                 | with_reducible refine Keeps.trans ?_ (commitWrite_keeps (by assumption)) | (intro _)
                 | simp only [finishCmd_frame, countUnrecovered_frame, countWrite_frame, zoneAdvance_frame,
                     finishWrite_frame, frame_mk, frame_eta, apply_ite State.frame, ite_self]
                 | with_reducible refine Keeps.trans ?_ (eachOf_keeps _ _ _ ?_)
                 | with_reducible refine Keeps.trans ?_ (foldl_keeps _ _ _ ?_) | (split))

theorem placedWrite_keeps (n : Nat) (k : Cmd) (x : Namespace) (data : List Nat) (s : State) : Keeps s.frame (placedWrite
    n k x data s).frame := by
  unfold placedWrite
  repeat' (first | with_reducible exact Keeps.refl _ | dsimp only | with_reducible apply Keeps.ite ?_ ?_
                 | with_reducible apply Keeps.trans ?_ (Keeps.of_eq (finishCmd_frame ..))
                 | with_reducible apply Keeps.trans ?_ (runWrite_keeps ..) | (intro _)
                 | simp only [finishCmd_frame, frame_mk, frame_eta, apply_ite State.frame, ite_self]
                 | with_reducible refine Keeps.trans ?_ (eachOf_keeps _ _ _ ?_)
                 | with_reducible refine Keeps.trans ?_ (foldl_keeps _ _ _ ?_) | (split))

theorem zeroRecords_frame (g u c : Nat) (s : State) : (zeroRecords g u c s).frame = s.frame := by
  unfold zeroRecords
  repeat' (first | simp only [journal_frame, frame_mk, frame_eta, apply_ite State.frame, ite_self]
                 | refine (eachOf_frame _ _ _ ?_).trans ?_ | (intro _) | (split) | rfl)

theorem zeroUnits_keeps {ltn u c cls : Nat} {s t : State} (h : zeroUnits ltn u c cls s = some t) : Keeps s.frame t.frame := by
  unfold zeroUnits at h; split at h
  · cases h; exact Keeps.refl _
  · simp only at h; split at h
    · cases h
    · next e =>
      cases h
      refine Keeps.trans (Keeps.of_eq ?_) (Keeps.trans (Keeps.of_eq (zeroRecords_frame ..)) (Keeps.trans (dropDirty_keeps ..)
        (Keeps.trans (dropClean_keeps ..) (Keeps.of_eq (clearLost_frame ..)))))
      split at e
      · cases e; rfl
      · exact openLog_frame e

theorem zeroPart_keeps {nsid cls t a b : Nat} {s u : State} (h : zeroPart nsid cls t a b s = some u) : Keeps s.frame u.frame := by
  unfold zeroPart at h
  have hz : ∀ {ltn base size x y : Nat} {s u : State},
      (if y ≤ x ∨ (tractOf s ltn).state = .unmapped then some s else commitWrite nsid cls ((base + x) / size) ((y - x) /
          size) [] s) = some u →
      Keeps s.frame u.frame := by
    intro ltn base size x y s u h
    split at h
    · cases h; exact Keeps.refl _
    · exact commitWrite_keeps h
  split at h
  · simp only at h; split at h
    · cases h; exact (unmapTract_keeps ..).trans (Keeps.of_eq (noteChanged_frame ..))
    · split at h
      · exact hz h
      · simp only [Option.bind_eq_some_iff, Option.map_eq_some_iff] at h
        obtain ⟨s1, h1, s2, h2, s3, h3, e⟩ := h
        cases e
        exact ((hz h1).trans (hz h2)).trans ((zeroUnits_keeps h3).trans (Keeps.of_eq (noteChanged_frame ..)))
  · cases h; exact Keeps.refl _

theorem zeroRange_keeps {nsid cls slba nlb : Nat} {s t : State} (h : zeroRange nsid cls slba nlb s = some t) : Keeps s.frame t.frame := by
  unfold zeroRange at h; split at h
  · cases h; exact Keeps.refl _
  · simp only at h
    suffices H : ∀ (l : List Nat) (g : Nat → State → Option State) (hg : ∀ i s t, g i s = some t → Keeps s.frame t.frame) (r :
        Option State) (t : State),
        l.foldl (fun r i => r.bind (g i)) r = some t → ∃ s0, r = some s0 ∧ Keeps s0.frame t.frame by
      obtain ⟨s0, e, h⟩ := H _ _ (fun i s t h => zeroPart_keeps h) _ _ h
      cases e; exact h
    intro l g hg
    induction l with
    | nil => intro r t h; exact ⟨t, h, Keeps.refl _⟩
    | cons a l ih =>
      intro r t h
      obtain ⟨s1, e1, h1⟩ := ih _ _ h
      cases r with
      | none => cases e1
      | some s0 => exact ⟨s0, rfl, (hg _ _ _ e1).trans h1⟩

theorem endZero_keeps (n : Nat) (k : Cmd) (x : Namespace) (l : List LbaRange) (r : Option State) (s : State)
    (hf : ∀ t, r = some t → Keeps s.frame t.frame) : Keeps s.frame (endZero n k x l r s).frame := by
  unfold endZero; split
  · exact (hf _ rfl).trans (Keeps.of_eq (finishWrite_frame ..))
  · split
    · split
      · exact Keeps.of_eq (wr_frame ..)
      · exact Keeps.refl _
    · exact Keeps.of_eq (by simp only [finishCmd_frame, countUnrecovered_frame])

theorem copyRanges_keeps (k : Cmd) (x : Namespace) (i dst : Nat) (l : List LbaRange) (s : State) : Keeps s.frame (copyRanges k x i dst l
    s).2.frame := by
  induction l generalizing i dst s with
  | nil => exact Keeps.refl _
  | cons e r ih =>
    unfold copyRanges; split
    · exact Keeps.refl _
    · split
      · exact Keeps.refl _
      · next h => exact (commitWrite_keeps h).trans (ih ..)

theorem copyRanges_keeps' {k : Cmd} {x : Namespace} {i dst : Nat} {l : List LbaRange} {s : State} {av : Option Nat} {tv : State}
    (h : copyRanges k x i dst l s = (av, tv)) : Keeps s.frame tv.frame := by
  have := copyRanges_keeps k x i dst l s; rw [h] at this; exact this

theorem zoneSend_frame (n action : Nat) (states : List Nat) (f : Cmd → Namespace → List (Nat × Nat) → State → State) (s :
    State) (hf : ∀ k x l s, (f k x l s).frame = s.frame) : (zoneSend n action states f s).frame = s.frame := by
  unfold zoneSend; refine blockCmd_frame (hf := ?_) ..; intro k c x s
  split
  · rfl
  · simp only; split <;> simp only [finishCmd_frame, hf]

theorem zoneSend_keeps (n action : Nat) (states : List Nat) (f : Cmd → Namespace → List (Nat × Nat) → State → State) (s : State)
    (hf : ∀ k x l s, Keeps s.frame (f k x l s).frame) : Keeps s.frame (zoneSend n action states f s).frame := by
  unfold zoneSend; refine blockCmd_keeps (hf := ?_) ..; intro k c x s
  split
  · exact Keeps.refl _
  · simp only; split <;> first | exact Keeps.of_eq (finishCmd_frame ..) | exact hf ..

theorem nsNotice_frame (nsid cid : Nat) (s : State) : (nsNotice nsid cid s).frame = s.frame := by
  unfold nsNotice
  repeat' (first | simp only [putCtrl_frame, aenPost_frame] | (split))

theorem waitDrbg_frame (n : Nat) (k : Cmd) (s : State) : (waitDrbg n k s).frame = s.frame := by
  unfold waitDrbg
  simp only [putSlot_frame, frame_mk, frame_eta]

theorem buildNs_frame (nsid : Nat) (ext : List (Nat × Nat)) (n : Namespace) (key slot escrow : Nat) (s : State) : (buildNs
    nsid ext n key slot escrow s).frame = s.frame := by
  unfold buildNs
  repeat' (first
                 | simp only [putNs_frame, journal_frame, putKeySlot_frame, labelWrite_frame, apply_ite
                 State.frame] | refine (eachOf_frame _ _ _ ?_).trans ?_ | (intro _))

theorem createNs_frame (data : NsCreate) (s : State) : (createNs data s).2.frame = s.frame := by
  unfold createNs
  repeat' (first | simp only [newKey_frame, buildNs_frame, frame_mk, frame_eta] | (split))

theorem createNs_frame' {data : NsCreate} {s : State} {av : (Nat × Nat)} {tv : State} (h : createNs data s = (av, tv)) :
    tv.frame = s.frame := by
  have := createNs_frame data s; rw [h] at this; exact this

theorem unmapNs_keeps (nsid : Nat) (s : State) : Keeps s.frame (unmapNs nsid s).frame := by
  unfold unmapNs
  repeat' (first | with_reducible exact Keeps.refl _ | dsimp only | with_reducible apply Keeps.ite ?_ ?_
                 | with_reducible apply Keeps.trans ?_ (unmapTract_keeps ..) | (intro _)
                 | simp only [frame_mk, frame_eta, apply_ite State.frame, ite_self]
                 | with_reducible refine Keeps.trans ?_ (eachOf_keeps _ _ _ ?_)
                 | with_reducible refine Keeps.trans ?_ (foldl_keeps _ _ _ ?_) | (split))

theorem deleteNs_keeps (n nsid : Nat) (s : State) : Keeps s.frame (deleteNs n nsid s).frame := by
  unfold deleteNs
  repeat' (first | with_reducible exact Keeps.refl _ | dsimp only | with_reducible apply Keeps.ite ?_ ?_
                 | with_reducible apply Keeps.trans ?_ (Keeps.of_eq (journal_frame ..))
                 | with_reducible apply Keeps.trans ?_ (Keeps.of_eq (drainSlot_frame ..))
                 | with_reducible apply Keeps.trans ?_ (Keeps.of_eq (nsNotice_frame ..))
                 | with_reducible apply Keeps.trans ?_ (Keeps.of_eq (putKeySlot_frame ..))
                 | with_reducible apply Keeps.trans ?_ (unmapNs_keeps ..) | (intro _)
                 | simp only [journal_frame, drainSlot_frame, nsNotice_frame, putKeySlot_frame, frame_mk, frame_eta,
                     apply_ite State.frame, ite_self] | with_reducible refine Keeps.trans ?_ (eachOf_keeps _ _ _ ?_)
                 | with_reducible refine Keeps.trans ?_ (foldl_keeps _ _ _ ?_) | (split))

theorem detachOne_frame (nsid cid : Nat) (s : State) : (detachOne nsid cid s).frame = s.frame := by
  unfold detachOne
  repeat' (first
                 | simp only [putCtrl_frame, finishCmd_frame, nsNotice_frame, frame_mk, frame_eta] | (split) | refine (eachOf_frame _ _ _ ?_).trans ?_ | (intro _))

theorem logRead_frame (cid : Nat) (c : Ctrl) (lid off len : Nat) (rae : Bool) (s : State) : (logRead cid c lid off len
    rae s).frame = s.frame := by
  unfold logRead
  repeat' (first | simp only [putCtrl_frame, frame_mk, frame_eta, apply_ite State.frame, ite_self] | (intro _) | (split)
                 | rfl)

theorem limitNote_frame (s : State) : (limitNote s).frame = s.frame := by
  unfold limitNote
  simp only [wr_frame, apply_ite State.frame, ite_self]

theorem writeSlotRec_frame (primary backup staging : Nat) (s : State) : (writeSlotRec primary backup staging s).frame =
    s.frame := by
  unfold writeSlotRec
  repeat' (first | simp only [frame_mk, frame_eta, apply_ite State.frame, ite_self] | (intro _) | (split) | rfl)

theorem clearPrimaryBad_frame (s : State) : (clearPrimaryBad s).frame = s.frame := by
  unfold clearPrimaryBad
  repeat' (first | simp only [wr_frame, frame_mk, frame_eta] | (split))

theorem commitSlots_frame (s : State) : (commitSlots s).frame = s.frame := by
  unfold commitSlots
  simp only [writeSlotRec_frame, clearPrimaryBad_frame]

theorem twimaPiece_frame (p : Piece) (s : State) : (twimaPiece p s).2.frame = s.frame := by
  unfold twimaPiece
  repeat' (first | simp only [frame_mk, frame_eta, apply_ite State.frame, ite_self] | (intro _) | (split) | rfl)

theorem twimaPiece_frame' {p : Piece} {s : State} {av : Bool} {tv : State} (h : twimaPiece p s = (av, tv)) : tv.frame =
    s.frame := by
  have := twimaPiece_frame p s; rw [h] at this; exact this

theorem releaseCreates_frame (s : State) : (releaseCreates s).frame = s.frame := by
  unfold releaseCreates
  repeat' (first | simp only [putSlot_frame, frame_mk, frame_eta] | (split)
                 | refine (eachOf_frame _ _ _ ?_).trans ?_ | (intro _))

theorem lotDone_frame (lot state err : Nat) (s : State) : (lotDone lot state err s).frame = s.frame := by
  unfold lotDone
  simp only [wr_frame, peatRecord_frame, releaseCreates_frame, frame_mk, frame_eta, apply_ite State.frame, ite_self]

theorem lotRefuse_frame (err : Nat) (s : State) : (lotRefuse err s).frame = s.frame := by
  unfold lotRefuse
  repeat' (first | simp only [lotDone_frame] | (split))

theorem powerWaitBusy_frame (s : State) : (powerWaitBusy s).frame = s.frame := by
  unfold powerWaitBusy
  simp only [lotRefuse_frame, apply_ite State.frame, ite_self]

end Sys2Proof.Machine
end

