-- ==== Sys2Proof/Laws/FrameShared.lean ====
section
/-! SUPPORT. What the operations that several blocks share leave unchanged (see FrameBase). -/

namespace Sys2Proof.Machine

open Sys2Proof

theorem putExpert_frame (k : Nat) (e : ExpertPath) (s : State) : (putExpert k e s).frame = s.frame := by
  unfold putExpert
  simp only [frame_mk, frame_eta]

theorem renewNonce_frame (k : Nat) (s : State) : (renewNonce k s).frame = s.frame := by
  unfold renewNonce
  simp only [drawn_frame, putExpert_frame]

theorem closeExpert_frame (k : Nat) (s : State) : (closeExpert k s).frame = s.frame := by
  unfold closeExpert
  simp only [putExpert_frame]

theorem closeAllExpert_frame (s : State) : (closeAllExpert s).frame = s.frame := by
  unfold closeAllExpert
  repeat' (first | simp only [closeExpert_frame]
                 | refine (eachOf_frame _ _ _ ?_).trans ?_ | (intro _))

theorem closeSession_frame (s : State) : (closeSession s).frame = s.frame := by
  unfold closeSession
  repeat' (first | simp only [frame_mk, frame_eta, apply_ite State.frame, ite_self] | (intro _) | (split) | rfl)

theorem expertUse_frame (p : AccessPath) (s : State) : (expertUse p s).frame = s.frame := by
  unfold expertUse
  repeat' (first | simp only [putExpert_frame, frame_mk, frame_eta, apply_ite State.frame, ite_self] | (intro _) | (split)
                 | rfl)

theorem expertKeyWrite_frame (p : AccessPath) (w : Nat) (s : State) : (expertKeyWrite p w s).frame = s.frame := by
  unfold expertKeyWrite
  repeat' (first
                 | simp only [peatRecord_frame, putExpert_frame, renewNonce_frame, frame_mk, frame_eta, apply_ite
                     State.frame, ite_self] | (intro _) | (split) | rfl)

theorem putFw_frame (n : Nat) (i : Option FwImage) (s : State) : (putFw n i s).frame = s.frame := by
  unfold putFw
  simp only [frame_mk, frame_eta, apply_ite State.frame, ite_self]

theorem putSel_frame (active pending tries : Nat) (s : State) : (putSel active pending tries s).frame = s.frame := by
  unfold putSel
  repeat' (first | simp only [frame_mk, frame_eta, apply_ite State.frame, ite_self] | (intro _) | (split) | rfl)

theorem taskEnd_frame (status detail : Nat) (s : State) : (taskEnd status detail s).frame = s.frame := by
  unfold taskEnd
  simp only [wr_frame, frame_mk, frame_eta]

theorem commitEnd_frame (e : CommitEnd) (s : State) : (commitEnd e s).frame = s.frame := by
  unfold commitEnd
  repeat' (first | simp only [finishCmd_frame, taskEnd_frame, frame_mk, frame_eta, apply_ite State.frame, ite_self] | (split))

theorem setPp_frame (b : Bool) (s : State) : (setPp b s).frame = s.frame := by
  unfold setPp
  simp only [frame_mk, frame_eta]

theorem abandonActivation_frame (e : CommitEnd) (s : State) : (abandonActivation e s).frame = s.frame := by
  unfold abandonActivation
  simp only [wr_frame, commitEnd_frame, setPp_frame, frame_mk, frame_eta]

theorem pairLostActivation_frame (s : State) : (pairLostActivation s).frame = s.frame := by
  unfold pairLostActivation
  repeat' (first | simp only [abandonActivation_frame, putSel_frame, frame_mk, frame_eta, apply_ite State.frame, ite_self]
                 | (intro _) | (split) | rfl)

theorem clearFw_frame (k : Nat) (s : State) : (clearFw k s).frame = s.frame := by
  unfold clearFw
  repeat' (first | simp only [putFw_frame, frame_mk, frame_eta, apply_ite State.frame, ite_self] | (intro _) | (split)
                 | rfl)

theorem deltaRefuse_frame (e : Nat) (s : State) : (deltaRefuse e s).frame = s.frame := by
  unfold deltaRefuse
  repeat' (first | simp only [clearFw_frame, wr_frame, frame_mk, frame_eta, apply_ite State.frame, ite_self] | (intro _)
                 | (split) | rfl)

theorem deltaEnd_frame (i : FwImage) (s : State) : (deltaEnd i s).frame = s.frame := by
  unfold deltaEnd
  simp only [wr_frame, putFw_frame, frame_mk, frame_eta]

theorem deltaFail_frame (e : Nat) (s : State) : (deltaFail e s).2.frame = s.frame := by
  unfold deltaFail
  repeat' (first | simp only [deltaRefuse_frame, frame_mk, frame_eta, apply_ite State.frame, ite_self] | (intro _)
                 | (split) | rfl)

theorem deltaFail_frame' {e : Nat} {s : State} {av : PieceEnd} {tv : State} (h : deltaFail e s = (av, tv)) : tv.frame =
    s.frame := by
  have := deltaFail_frame e s; rw [h] at this; exact this

theorem deltaWritten_frame (r : DeltaRun) (s : State) : (deltaWritten r s).2.frame = s.frame := by
  unfold deltaWritten
  repeat' (first
                 | simp only [wr_frame, deltaFail_frame, deltaEnd_frame, frame_mk, frame_eta, apply_ite State.frame,
                     ite_self] | (intro _) | (split) | rfl)

theorem deltaWritten_frame' {r : DeltaRun} {s : State} {av : PieceEnd} {tv : State} (h : deltaWritten r s = (av, tv)) :
    tv.frame = s.frame := by
  have := deltaWritten_frame r s; rw [h] at this; exact this

theorem deltaPiece_frame (p : Piece) (s : State) : (deltaPiece p s).2.frame = s.frame := by
  unfold deltaPiece
  repeat' (first | simp only [deltaFail_frame, deltaWritten_frame, frame_mk, frame_eta, apply_ite State.frame, ite_self]
                 | (intro _) | (split) | rfl)

theorem deltaPiece_frame' {p : Piece} {s : State} {av : PieceEnd} {tv : State} (h : deltaPiece p s = (av, tv)) :
    tv.frame = s.frame := by
  have := deltaPiece_frame p s; rw [h] at this; exact this

theorem startDelta_frame (owner source : Nat) (s : State) : (startDelta owner source s).frame = s.frame := by
  unfold startDelta
  repeat' (first | simp only [clearFw_frame, wr_frame, putSel_frame, frame_mk, frame_eta, apply_ite State.frame, ite_self]
                 | (intro _) | (split) | rfl)

theorem twimaDownload_frame (owner : Nat) (p : Piece) (s : State) : (twimaDownload owner p s).2.frame = s.frame := by
  unfold twimaDownload
  repeat' (first | simp only [twimaPiece_frame, frame_mk, frame_eta, apply_ite State.frame, ite_self] | (intro _)
                 | (split) | rfl)

theorem twimaDownload_frame' {owner : Nat} {p : Piece} {s : State} {av : PieceEnd} {tv : State} (h : twimaDownload owner
    p s = (av, tv)) : tv.frame = s.frame := by
  have := twimaDownload_frame owner p s; rw [h] at this; exact this

theorem downloadPiece_frame (owner source : Nat) (p : Piece) (s : State) : (downloadPiece owner source p s).2.frame =
    s.frame := by
  unfold downloadPiece
  repeat' (first
                 | simp only [twimaDownload_frame, deltaPiece_frame, startDelta_frame, frame_mk, frame_eta, apply_ite
                     State.frame, ite_self] | (intro _) | (split) | rfl)

theorem downloadPiece_frame' {owner source : Nat} {p : Piece} {s : State} {av : PieceEnd} {tv : State} (h :
    downloadPiece owner source p s = (av, tv)) : tv.frame = s.frame := by
  have := downloadPiece_frame owner source p s; rw [h] at this; exact this

theorem dropDownload_frame (s : State) : (dropDownload s).frame = s.frame := by
  unfold dropDownload
  repeat' (first | simp only [clearFw_frame, wr_frame, frame_mk, frame_eta, apply_ite State.frame, ite_self] | (intro _)
                 | (split) | rfl)

theorem fabricEnable_frame (cid cc : Nat) (s : State) : (fabricEnable cid cc s).frame = s.frame := by
  unfold fabricEnable
  repeat' (first
                 | simp only [putCtrl_frame, lcrNotice_frame, armBoot_frame, enableWake_frame, apply_ite
                 State.frame, ite_self] | (split))

theorem ccWrite_frame (cid v : Nat) (s : State) : (ccWrite cid v s).frame = s.frame := by
  unfold ccWrite
  repeat' (first
                 | simp only [putCtrl_frame, ctrlReset_frame, shutdownBegin_frame, ctrlEnable_frame, fabricEnable_frame,
                 apply_ite State.frame, ite_self] | (split))

theorem dmaSetState_frame (c v : Nat) (s : State) : (dmaSetState c v s).frame = s.frame := by
  unfold dmaSetState
  simp only [wr_frame]

theorem dmaWriteBack_keeps (c slot status retries doneLen : Nat) (s : State) : Keeps s.frame (dmaWriteBack c slot status
    retries doneLen s).frame := by
  unfold dmaWriteBack
  repeat' (first | with_reducible exact Keeps.refl _ | dsimp only | with_reducible apply Keeps.ite ?_ ?_
                 | with_reducible apply Keeps.trans ?_ (writeWordAt_keeps ..)
                 | with_reducible apply Keeps.trans ?_ (Keeps.of_eq (drawn_frame ..)))

theorem dmaCredit_frame (d : Nat) (s : State) : (dmaCredit d s).frame = s.frame := by
  unfold dmaCredit
  simp only [wr_frame, count_frame, peatRecord_frame, apply_ite State.frame, ite_self]

theorem dmaTryStart_frame (c : Nat) (s : State) : (dmaTryStart c s).frame = s.frame := by
  unfold dmaTryStart
  repeat' (first | simp only [wr_frame, dmaSetState_frame, frame_mk, frame_eta, apply_ite State.frame, ite_self] | (split))

theorem dmaSignal_frame (c : Nat) (s : State) : (dmaSignal c s).frame = s.frame := by
  unfold dmaSignal
  repeat' (first | simp only [dmaCredit_frame, dmaTryStart_frame, apply_ite State.frame, ite_self]
                 | refine (eachOf_frame _ _ _ ?_).trans ?_ | (intro _))

theorem dmaBit_frame (f : Field) (c : Nat) (s : State) : (dmaBit f c s).frame = s.frame := by
  unfold dmaBit
  simp only [wrBit_frame]

theorem dmaEnd_keeps (c slot status : Nat) (j : DmaJob) (s : State) : Keeps s.frame (dmaEnd c slot status j s).frame := by
  unfold dmaEnd
  repeat' (first | with_reducible exact Keeps.refl _ | dsimp only | with_reducible apply Keeps.ite ?_ ?_
                 | with_reducible apply Keeps.trans ?_ (dmaWriteBack_keeps ..)
                 | with_reducible apply Keeps.trans ?_ (Keeps.of_eq (wr_frame _ _ _ _))
                 | with_reducible apply Keeps.trans ?_ (Keeps.of_eq (dmaSignal_frame ..))
                 | with_reducible apply Keeps.trans ?_ (Keeps.of_eq (dmaBit_frame ..)) | simp only [frame_mk, frame_eta])

theorem dmaFetch_keeps (fuel c : Nat) (s : State) : Keeps s.frame (dmaFetch fuel c s).frame := by
  induction fuel generalizing c s with
  | zero => unfold dmaFetch; repeat' (first | with_reducible exact Keeps.refl _)
  | succ k ih => unfold dmaFetch; repeat' (first | with_reducible exact Keeps.refl _ | dsimp only
                                                 | with_reducible apply Keeps.ite ?_ ?_
                                                 | with_reducible apply Keeps.trans ?_ (ih ..)
                                                 | with_reducible apply Keeps.trans ?_ (dmaEnd_keeps ..)
                                                 | with_reducible apply Keeps.trans ?_ (Keeps.of_eq (wr_frame _ _ _ _))
                                                 | with_reducible apply Keeps.trans ?_ (Keeps.of_eq (dmaSetState_frame ..))
                                                 | with_reducible apply Keeps.trans ?_ (Keeps.of_eq (dmaTryStart_frame ..))
                                                 | simp only [frame_mk, frame_eta])

theorem dmaNext_keeps (c : Nat) (s : State) : Keeps s.frame (dmaNext c s).frame := by
  unfold dmaNext
  repeat' (first | with_reducible exact Keeps.refl _ | with_reducible apply Keeps.trans ?_ (dmaFetch_keeps ..))

theorem dmaComplete_keeps (c status : Nat) (s : State) : Keeps s.frame (dmaComplete c status s).frame := by
  unfold dmaComplete
  repeat' (first | with_reducible exact Keeps.refl _ | with_reducible apply Keeps.trans ?_ (dmaEnd_keeps ..)
                 | with_reducible apply Keeps.trans ?_ (dmaNext_keeps ..) | (split))

theorem failTransfer_frame (cid : Nat) (s : State) : (failTransfer cid s).frame = s.frame := by
  unfold failTransfer
  repeat' (first | simp only [drawn_frame, finishCmd_frame] | (split))

theorem dmaHaltNow_frame (c : Nat) (e : DmaError) (s : State) : (dmaHaltNow c e s).frame = s.frame := by
  unfold dmaHaltNow
  repeat' (first
                 | simp only [wr_frame, wrB_frame, dmaSetState_frame, dmaBit_frame, failTransfer_frame, 
                 apply_ite State.frame, ite_self] | (split))

theorem dmaError_frame (c : Nat) (e : DmaError) (s : State) : (dmaError c e s).frame = s.frame := by
  unfold dmaError
  repeat' (first
                 | simp only [count_frame, dmaSetState_frame, dmaHaltNow_frame, frame_mk, frame_eta, apply_ite State.frame,
                 ite_self] | (split))

theorem dmaRun_keeps (c op : Nat) (f : DmaJob → State → Option DmaError × State) (s : State) (hf : ∀ j s, Keeps s.frame (f j
    s).2.frame) : Keeps s.frame (dmaRun c op f s).frame := by
  unfold dmaRun; split
  · exact Keeps.refl _
  · next j _ =>
    split
    · have := hf j s
      split
      · next e => rw [e] at this; exact this.trans (Keeps.of_eq (dmaError_frame ..))
      · next e => rw [e] at this; refine Keeps.trans this (Keeps.trans (Keeps.of_eq ?_) (dmaComplete_keeps ..)); simp only
          [frame_mk, frame_eta]
    · exact Keeps.refl _

theorem dmaStore_keeps (j : DmaJob) (v : Nat) (s : State) : Keeps s.frame (dmaStore j v s).2.frame := by
  unfold dmaStore
  repeat' (first | with_reducible exact Keeps.refl _ | dsimp only
                 | with_reducible apply Keeps.trans ?_ (mereStore_keeps ..) | (split))

theorem dmaStore_keeps' {j : DmaJob} {v : Nat} {s : State} {av : Option DmaError} {tv : State} (h : dmaStore j v s = (av,
    tv)) : Keeps s.frame tv.frame := by
  have := dmaStore_keeps j v s; rw [h] at this; exact this

theorem dmaLoad_keeps (j : DmaJob) (s : State) : Keeps s.frame (dmaLoad j s).2.frame := by
  unfold dmaLoad
  repeat' (first | with_reducible exact Keeps.refl _ | dsimp only
                 | with_reducible apply Keeps.trans ?_ (mereFetch_keeps ..) | (split))

theorem dmaLoad_keeps' {j : DmaJob} {s : State} {av : (Option DmaError × Nat)} {tv : State} (h : dmaLoad j s = (av, tv)) :
    Keeps s.frame tv.frame := by
  have := dmaLoad_keeps j s; rw [h] at this; exact this

theorem dmaHostGone_keeps (p : Nat → Bool) (s : State) : Keeps s.frame (dmaHostGone p s).frame := by
  unfold dmaHostGone
  repeat' (first | with_reducible exact Keeps.refl _ | with_reducible apply Keeps.trans ?_ (dmaComplete_keeps ..)
                 | with_reducible apply Keeps.trans ?_ (eachOf_keeps _ _ _ ?_) | (intro _))

theorem dmaAbandon_frame (s : State) : (dmaAbandon s).frame = s.frame := by
  unfold dmaAbandon
  repeat' (first | simp only [dmaSetState_frame, frame_mk, frame_eta]
                 | refine (eachOf_frame _ _ _ ?_).trans ?_ | (intro _))

theorem hostRun_keeps (c op : Nat) (f : DmaJob → State → Option DmaError × State) (s : State)
    (hf : ∀ j s, Keeps s.frame (f j s).2.frame) : Keeps s.frame (hostRun c op f s).frame := by
  unfold hostRun; split
  · exact Keeps.refl _
  · split
    · split
      · exact (Keeps.of_eq (chargeMere_frame ..)).trans (dmaRun_keeps (hf := hf) ..)
      · exact Keeps.refl _
    · exact Keeps.refl _

theorem dmaResumeOp_frame (path : AccessPath) (c : Nat) (s : State) : (dmaResumeOp path c s).frame = s.frame := by
  unfold dmaResumeOp
  simp only [wr_frame, accessViolation_frame, dmaSetState_frame, frame_mk, frame_eta, apply_ite State.frame, ite_self]

theorem dmaSkipOp_keeps (path : AccessPath) (c : Nat) (s : State) : Keeps s.frame (dmaSkipOp path c s).frame := by
  unfold dmaSkipOp
  repeat' (first | with_reducible exact Keeps.refl _ | with_reducible apply Keeps.ite ?_ ?_
                 | with_reducible apply Keeps.trans ?_ (dmaComplete_keeps ..)
                 | with_reducible apply Keeps.trans ?_ (Keeps.of_eq (accessViolation_frame ..)))

theorem dmaResetOp_keeps (c : Nat) (s : State) : Keeps s.frame (dmaResetOp c s).frame := by
  unfold dmaResetOp
  repeat' (first | with_reducible exact Keeps.refl _ | dsimp only | with_reducible apply Keeps.trans ?_ (dmaEnd_keeps ..)
                 | with_reducible apply Keeps.trans ?_ (Keeps.of_eq (wr_frame _ _ _ _))
                 | with_reducible apply Keeps.trans ?_ (Keeps.of_eq (dmaSetState_frame ..)) | (split))

theorem dmaCtlWrite_keeps (path : AccessPath) (c v : Nat) (s : State) : Keeps s.frame (dmaCtlWrite path c v s).frame := by
  unfold dmaCtlWrite
  repeat' (first | with_reducible exact Keeps.refl _ | with_reducible apply Keeps.trans ?_ (dmaSkipOp_keeps ..)
                 | with_reducible apply Keeps.trans ?_ (dmaResetOp_keeps ..)
                 | with_reducible apply Keeps.trans ?_ (Keeps.of_eq (accessViolation_frame ..))
                 | with_reducible apply Keeps.trans ?_ (Keeps.of_eq (dmaResumeOp_frame ..)) | (split))

theorem putFunc_frame (l f : Nat) (x : Func) (s : State) : (putFunc l f x s).frame = s.frame := by
  unfold putFunc
  simp only [frame_mk, frame_eta]

theorem funcsNote_frame (l : Nat) (s : State) : (funcsNote l s).frame = s.frame := by
  unfold funcsNote
  simp only [wr_frame]

theorem createPcie_frame (l f : Nat) (s : State) : (createPcie l f s).frame = s.frame := by
  unfold createPcie
  repeat' (first | simp only [putCtrl_frame] | (split))

theorem dropPcie_frame (n : Nat) (s : State) : (dropPcie n s).frame = s.frame := by
  unfold dropPcie
  repeat' (first | simp only [putCtrl_frame, frame_mk, frame_eta, apply_ite State.frame, ite_self] | (split))

theorem resetLost_keeps (n cause : Nat) (s : State) : Keeps s.frame (resetLost n cause s).frame := by
  unfold resetLost
  repeat' (first | with_reducible exact Keeps.refl _ | with_reducible apply Keeps.trans ?_ (dmaHostGone_keeps ..)
                 | with_reducible apply Keeps.trans ?_ (Keeps.of_eq (ctrlReset_frame ..)))

theorem doeDrop_frame (l : Nat) (s : State) : (doeDrop l s).frame = s.frame := by
  unfold doeDrop
  simp only [frame_mk, frame_eta]

theorem funcClear_frame (l f : Nat) (s : State) : (funcClear l f s).frame = s.frame := by
  unfold funcClear
  repeat' (first
                 | simp only [putCtrl_frame, closeExpert_frame, putFunc_frame, funcsNote_frame, doeDrop_frame, 
                 apply_ite State.frame, ite_self] | (split))

theorem funcReset_keeps (l f cause : Nat) (s : State) : Keeps s.frame (funcReset l f cause s).frame := by
  unfold funcReset
  repeat' (first | with_reducible exact Keeps.refl _ | dsimp only
                 | with_reducible apply Keeps.trans ?_ (resetLost_keeps ..)
                 | with_reducible apply Keeps.trans ?_ (Keeps.of_eq (funcClear_frame ..)) | (split))

theorem vfsReset_keeps (l f cause : Nat) (s : State) : Keeps s.frame (vfsReset l f cause s).frame := by
  unfold vfsReset
  repeat' (first | with_reducible exact Keeps.refl _ | dsimp only
                 | with_reducible apply Keeps.trans ?_ (funcReset_keeps ..)
                 | with_reducible apply Keeps.trans ?_ (Keeps.of_eq (putFunc_frame ..))
                 | with_reducible apply Keeps.trans ?_ (Keeps.of_eq (funcsNote_frame ..))
                 | with_reducible apply Keeps.trans ?_ (eachOf_keeps _ _ _ ?_) | (intro _))

theorem flr_keeps (l f cause : Nat) (s : State) : Keeps s.frame (flr l f cause s).frame := by
  unfold flr
  repeat' (first | with_reducible exact Keeps.refl _ | with_reducible apply Keeps.ite ?_ ?_
                 | with_reducible apply Keeps.trans ?_ (funcReset_keeps ..)
                 | with_reducible apply Keeps.trans ?_ (vfsReset_keeps ..))

theorem linkReset_keeps (l cause : Nat) (s : State) : Keeps s.frame (linkReset l cause s).frame := by
  unfold linkReset
  repeat' (first | with_reducible exact Keeps.refl _ | with_reducible apply Keeps.trans ?_ (flr_keeps ..)
                 | with_reducible apply Keeps.trans ?_ (eachOf_keeps _ _ _ ?_) | (intro _))

theorem aerUncorr_frame (l f bit : Nat) (s : State) : (aerUncorr l f bit s).frame = s.frame := by
  unfold aerUncorr
  simp only [wr_frame, count_frame, emit_frame, putFunc_frame]

theorem aerCorr_frame (l f bit : Nat) (s : State) : (aerCorr l f bit s).frame = s.frame := by
  unfold aerCorr
  simp only [count_frame, emit_frame, putFunc_frame]

theorem degradedNote_frame (l : Nat) (s : State) : (degradedNote l s).frame = s.frame := by
  unfold degradedNote
  simp only [wrB_frame]

theorem linkDown_keeps (l cause : Nat) (s : State) : Keeps s.frame (linkDown l cause s).frame := by
  unfold linkDown
  repeat' (first | with_reducible exact Keeps.refl _ | dsimp only | with_reducible apply Keeps.ite ?_ ?_
                 | with_reducible apply Keeps.trans ?_ (linkReset_keeps ..)
                 | with_reducible apply Keeps.trans ?_ (Keeps.of_eq (wr_frame _ _ _ _))
                 | with_reducible apply Keeps.trans ?_ (Keeps.of_eq (wrBit_frame _ _ _ _ _))
                 | with_reducible apply Keeps.trans ?_ (Keeps.of_eq (glbRefresh_frame ..))
                 | with_reducible apply Keeps.trans ?_ (Keeps.of_eq (faultAbsorbed_frame ..))
                 | with_reducible apply Keeps.trans ?_ (Keeps.of_eq (portSettle_frame ..)))

theorem fabNote_frame (s : State) : (fabNote s).frame = s.frame := by
  unfold fabNote
  repeat' (first | simp only [wr_frame]
                 | refine (eachOf_frame _ _ _ ?_).trans ?_ | (intro _))

theorem putQp_frame (n : Nat) (q : Qp) (s : State) : (putQp n q s).frame = s.frame := by
  unfold putQp
  simp only [frame_mk, frame_eta]

theorem closeQps_frame (p : Qp → Bool) (s : State) : (closeQps p s).frame = s.frame := by
  unfold closeQps
  simp only [frame_mk, frame_eta]

theorem assocEnd_keeps (cid cause : Nat) (s : State) : Keeps s.frame (assocEnd cid cause s).frame := by
  unfold assocEnd
  repeat' (first | with_reducible exact Keeps.refl _ | dsimp only | with_reducible apply Keeps.ite ?_ ?_
                 | with_reducible apply Keeps.trans ?_ (resetLost_keeps ..)
                 | with_reducible apply Keeps.trans ?_ (Keeps.of_eq (wr_frame _ _ _ _))
                 | with_reducible apply Keeps.trans ?_ (Keeps.of_eq (fabNote_frame ..))
                 | with_reducible apply Keeps.trans ?_ (Keeps.of_eq (closeQps_frame ..)) | simp only [frame_mk, frame_eta]
                 | (split))

theorem assocEndQuiet_keeps (cid : Nat) (s : State) : Keeps s.frame (assocEndQuiet cid s).frame := by
  unfold assocEndQuiet
  repeat' (first | with_reducible exact Keeps.refl _ | dsimp only | with_reducible apply Keeps.trans ?_ (assocEnd_keeps ..)
                 | with_reducible apply Keeps.trans ?_ (Keeps.of_eq (wr_frame _ _ _ _)) | simp only [frame_mk, frame_eta]
                 | (split))

theorem assocEndWhere_keeps (p : Qp → Bool) (cause : Nat) (s : State) : Keeps s.frame (assocEndWhere p cause s).frame := by
  unfold assocEndWhere
  repeat' (first | with_reducible exact Keeps.refl _ | with_reducible apply Keeps.trans ?_ (assocEnd_keeps ..)
                 | with_reducible apply Keeps.trans ?_ (eachOf_keeps _ _ _ ?_) | (intro _))

theorem putPeer_frame (p : Nat) (x : Peer) (s : State) : (putPeer p x s).frame = s.frame := by
  unfold putPeer
  simp only [frame_mk, frame_eta]

theorem putMig_frame (m : Nat) (x : Migration) (s : State) : (putMig m x s).frame = s.frame := by
  unfold putMig
  simp only [frame_mk, frame_eta]

theorem migEnd_frame (m how reason : Nat) (s : State) : (migEnd m how reason s).frame = s.frame := by
  unfold migEnd
  repeat' (first | simp only [wr_frame, putMig_frame] | (split))

theorem cwyOut_frame (p : Nat) (d : CwyTx) (s : State) : (cwyOut p d s).frame = s.frame := by
  unfold cwyOut
  simp only [emit_frame, apply_ite State.frame, ite_self]

theorem cwySendNow_frame (p : Nat) (d : CwyTx) (s : State) : (cwySendNow p d s).frame = s.frame := by
  unfold cwySendNow
  simp only [putPeer_frame, cwyOut_frame]

theorem cwySend_frame (p stream type : Nat) (args : List Nat) (s : State) : (cwySend p stream type args s).frame = s.frame := by
  unfold cwySend
  simp only [putPeer_frame, cwySendNow_frame, apply_ite State.frame, ite_self]

theorem cwyPump_frame (p st : Nat) (s : State) : (cwyPump p st s).frame = s.frame := by
  unfold cwyPump
  repeat' (first | simp only [putPeer_frame, cwySendNow_frame]
                 | refine (eachOf_frame _ _ _ ?_).trans ?_ | (intro _))

theorem sendAck_frame (p st : Nat) (s : State) : (sendAck p st s).frame = s.frame := by
  unfold sendAck
  simp only [emit_frame]

theorem chainFeed_frame (n q : Nat) (s : State) : (chainFeed n q s).frame = s.frame := by
  induction n generalizing q s with
  | zero => unfold chainFeed; rfl
  | succ k ih => unfold chainFeed; simp only [ih, cwySend_frame, frame_mk, frame_eta, apply_ite State.frame, ite_self]

theorem chainPump_frame (s : State) : (chainPump s).frame = s.frame := by
  unfold chainPump; split
  · rfl
  · simp only; split
    · split <;> simp only [chainFeed_frame, frame_mk, frame_eta]
    · split <;> simp only [frame_mk, frame_eta]

theorem chainReportUp_frame (serial status : Nat) (s : State) : (chainReportUp serial status s).frame = s.frame := by
  unfold chainReportUp
  repeat' (first | simp only [cwySend_frame, frame_mk, frame_eta, apply_ite State.frame] | (split))

theorem chainRefuse_frame (status : Nat) (s : State) : (chainRefuse status s).frame = s.frame := by
  unfold chainRefuse
  simp only [chainReportUp_frame, frame_mk, frame_eta]

theorem chainStart_frame (s : State) : (chainStart s).2.frame = s.frame := by
  unfold chainStart
  repeat' (first | simp only [chainPump_frame, frame_mk, frame_eta] | (split))

theorem chainStart_frame' {s : State} {av : Nat} {tv : State} (h : chainStart s = (av, tv)) : tv.frame = s.frame := by
  have := chainStart_frame s; rw [h] at this; exact this

theorem takeTract_frame (p st : Nat) (s : State) : (takeTract p st s).frame = s.frame := by
  unfold takeTract
  repeat' (first | simp only [putPeer_frame, putMig_frame, apply_ite State.frame] | (split))

theorem feedTract_frame (n p st : Nat) (s : State) : (feedTract n p st s).frame = s.frame := by
  induction n generalizing p st s with
  | zero => unfold feedTract; simp only [apply_ite
      State.frame]
  | succ k ih => unfold feedTract; repeat' (first
                                                  | simp only [ih, putPeer_frame, putMig_frame, cwySend_frame, 
                                                  apply_ite State.frame] | (split))

theorem migPump_frame (p : Nat) (s : State) : (migPump p s).frame = s.frame := by
  unfold migPump; split
  · rfl
  · refine eachOf_frame _ _ _ ?_; intro _ _; simp only [feedTract_frame, takeTract_frame]

theorem cwyAcked_frame (p : Nat) (d : CwyTx) (s : State) : (cwyAcked p d s).frame = s.frame := by
  unfold cwyAcked
  repeat' (first
                 | simp only [putPeer_frame, putMig_frame, migEnd_frame, apply_ite State.frame,
                 ite_self] | (split))

theorem cwyAck_frame (p st ack : Nat) (s : State) : (cwyAck p st ack s).frame = s.frame := by
  unfold cwyAck
  repeat' (first
                 | simp only [putPeer_frame, cwyPump_frame, chainPump_frame, migPump_frame, cwyAcked_frame, 
                 apply_ite State.frame] | (split) | refine (eachOf_frame _ _ _ ?_).trans ?_ | (intro _))

theorem sendHello_frame (p : Nat) (s : State) : (sendHello p s).frame = s.frame := by
  unfold sendHello
  simp only [emit_frame, putPeer_frame, frame_mk, frame_eta]

theorem helloAll_frame (s : State) : (helloAll s).frame = s.frame := by
  unfold helloAll
  repeat' (first | simp only [sendHello_frame]
                 | refine (eachOf_frame _ _ _ ?_).trans ?_ | (intro _))

theorem migResume_frame (p : Nat) (s : State) : (migResume p s).frame = s.frame := by
  unfold migResume
  repeat' (first | simp only [cwySend_frame, apply_ite State.frame, ite_self]
                 | refine (eachOf_frame _ _ _ ?_).trans ?_ | (intro _))

theorem openSession_frame (p version key num : Nat) (s : State) : (openSession p version key num s).frame = s.frame := by
  unfold openSession
  simp only [putPeer_frame, chainPump_frame, migPump_frame, migResume_frame, apply_ite State.frame,
      ite_self]

theorem sessionEnd_frame (p : Nat) (s : State) : (sessionEnd p s).frame = s.frame := by
  unfold sessionEnd
  repeat' (first | simp only [putPeer_frame, putMig_frame, frame_mk, frame_eta, apply_ite State.frame, ite_self] | (split)
                 | refine (eachOf_frame _ _ _ ?_).trans ?_ | (intro _))

theorem migExport_frame (nsid serial : Nat) (s : State) : (migExport nsid serial s).2.frame = s.frame := by
  unfold migExport
  repeat' (first | simp only [putMig_frame, cwySend_frame] | (split))

theorem migExport_frame' {nsid serial : Nat} {s : State} {av : Nat} {tv : State} (h : migExport nsid serial s = (av, tv)) :
    tv.frame = s.frame := by
  have := migExport_frame nsid serial s; rw [h] at this; exact this

theorem migImport_frame (serial src dst tpl : Nat) (s : State) : (migImport serial src dst tpl s).2.frame = s.frame := by
  unfold migImport
  repeat' (first | simp only [putMig_frame] | (split))

theorem migImport_frame' {serial src dst tpl : Nat} {s : State} {av : Nat} {tv : State} (h : migImport serial src dst tpl s =
    (av, tv)) : tv.frame = s.frame := by
  have := migImport_frame serial src dst tpl s; rw [h] at this; exact this

theorem migFreeze_frame (nsid : Nat) (s : State) : (migFreeze nsid s).2.frame = s.frame := by
  unfold migFreeze
  repeat' (first | simp only [putNs_frame, putMig_frame] | (split))

theorem migFreeze_frame' {nsid : Nat} {s : State} {av : Nat} {tv : State} (h : migFreeze nsid s = (av, tv)) : tv.frame =
    s.frame := by
  have := migFreeze_frame nsid s; rw [h] at this; exact this

theorem peerSet_frame (k roles serial addr secret : Nat) (s : State) : (peerSet k roles serial addr secret s).2.frame =
    s.frame := by
  unfold peerSet
  repeat' (first
                 | simp only [putPeer_frame, sendHello_frame, sessionEnd_frame, frame_mk, frame_eta, apply_ite State.frame,
                 ite_self] | (split))

theorem peerSet_frame' {k roles serial addr secret : Nat} {s : State} {av : Nat} {tv : State} (h : peerSet k roles serial
    addr secret s = (av, tv)) : tv.frame = s.frame := by
  have := peerSet_frame k roles serial addr secret s; rw [h] at this; exact this

theorem setRecord_frame (f : BootRecord → BootRecord) (s : State) : (setRecord f s).frame = s.frame := by
  unfold setRecord
  repeat' (first | simp only [frame_mk, frame_eta] | (split))

theorem bootNote_frame (s : State) : (bootNote s).frame = s.frame := by
  unfold bootNote
  simp only [wr_frame, wrB_frame]

theorem resetState_keeps (power vbatLost : Bool) (s : State) (hd : s.pwr.decided = false) : Keeps s.frame (resetState power
    vbatLost s).frame :=
  ⟨rfl, hd.symm, fun _ => rfl, rfl, rfl, Nat.le_refl _, Nat.le_refl _⟩

theorem useSlot_frame (n : Nat) (try_ : Bool) (s : State) : (useSlot n try_ s).frame = s.frame := by
  unfold useSlot
  simp only [setRecord_frame, frame_mk, frame_eta]

theorem slotChoose_frame (s : State) : (slotChoose s).frame = s.frame := by
  unfold slotChoose
  repeat' (first
                 | simp only [useSlot_frame, putSel_frame, peatRecord_frame, wr_frame, frame_mk, frame_eta, apply_ite
                     State.frame, ite_self] | (intro _) | (split) | rfl)

theorem startBoot_frame (cause : Nat) (s : State) : (startBoot cause s).frame = s.frame := by
  unfold startBoot
  simp only [bootNote_frame, slotChoose_frame, frame_mk, frame_eta]

theorem deviceReset_keeps (cause : Nat) (s : State) (hd : s.pwr.decided = false) : Keeps s.frame (deviceReset cause s).frame
    := by
  unfold deviceReset
  refine Keeps.trans (resetState_keeps false false (s.emit (.reset cause)) hd) (Keeps.of_eq (startBoot_frame ..))

theorem peatGap_frame (s : State) : (peatGap s).frame = s.frame := by
  unfold peatGap
  simp only [wr_frame, peatWrite_frame, frame_mk, frame_eta, apply_ite State.frame, ite_self]

theorem peatRowWrite_frame (id row : Nat) (l : List PeatEntry) (s : State) : (peatRowWrite id row l s).frame = s.frame := by
  unfold peatRowWrite
  repeat' (first
                 | simp only [putMeta_frame, setFrontier_frame, putParity_frame, frame_mk, frame_eta, apply_ite
                     State.frame, ite_self] | refine (eachOf_frame _ _ _ ?_).trans ?_ | (intro _) | (split) | rfl)

theorem peatOpen_frame (s : State) : (peatOpen s).frame = s.frame := by
  unfold peatOpen
  repeat' (first | simp only [frame_mk, frame_eta]
                 | refine (metaStripe_frame (by assumption)).trans ?_ | (split))

theorem peatArchived_frame (l : List (Nat × PeatEntry)) (s : State) : (peatArchived l s).frame = s.frame := by
  unfold peatArchived
  repeat' (first | simp only [frame_mk, frame_eta, apply_ite State.frame, ite_self]
                 | refine (foldl_frame _ _ _ ?_).trans ?_ | (intro _) | (split) | rfl)

theorem peatRow_keeps (ok : Bool) (s : State) : Keeps s.frame (peatRow ok s).frame := by
  unfold peatRow
  repeat' (first | with_reducible exact Keeps.refl _ | dsimp only | with_reducible apply Keeps.ite ?_ ?_
                 | with_reducible apply Keeps.trans ?_ (Keeps.of_eq (peatOpen_frame ..))
                 | with_reducible apply Keeps.trans ?_ (Keeps.of_eq (drawn_frame ..))
                 | with_reducible apply Keeps.trans ?_ (Keeps.of_eq (wr_frame ..))
                 | with_reducible apply Keeps.trans ?_ (Keeps.of_eq (peatArchived_frame ..))
                 | with_reducible apply Keeps.trans ?_ (Keeps.of_eq (peatRowWrite_frame ..))
                 | with_reducible apply Keeps.trans ?_ (Keeps.of_eq (skipAbsent_frame ..))
                 | with_reducible apply Keeps.trans ?_ (failSlotOf_keeps ..) | (intro _)
                 | simp only [peatOpen_frame, drawn_frame, wr_frame, peatArchived_frame, peatRowWrite_frame,
                     skipAbsent_frame, frame_mk, frame_eta, apply_ite State.frame, ite_self]
                 | with_reducible refine Keeps.trans ?_ (eachOf_keeps _ _ _ ?_)
                 | with_reducible refine Keeps.trans ?_ (foldl_keeps _ _ _ ?_) | (split))

theorem peatArchiveAll_keeps (fuel : Nat) (s : State) : Keeps s.frame (peatArchiveAll fuel s).frame := by
  induction fuel generalizing s with
  | zero => exact Keeps.refl _
  | succ k ih =>
    unfold peatArchiveAll; split
    · exact Keeps.refl _
    · exact (peatRow_keeps ..).trans (ih _)

theorem peatRlWrite_frame (p : AccessPath) (value : Nat) (s : State) : (peatRlWrite p value s).frame = s.frame := by
  unfold peatRlWrite
  repeat' (first | simp only [accessViolation_frame, frame_mk, frame_eta, apply_ite State.frame, ite_self] | (intro _)
                 | (split) | rfl)

theorem hewNote_frame (n : Nat) (s : State) : (hewNote n s).frame = s.frame := by
  unfold hewNote
  simp only [wr_frame]

theorem hewWriteBack_keeps (n : Nat) (h : Held) (busy endTime : Nat) (s : State) : Keeps s.frame (hewWriteBack n h busy
    endTime s).frame := by
  unfold hewWriteBack
  repeat' (first | with_reducible exact Keeps.refl _ | dsimp only | with_reducible apply Keeps.ite ?_ ?_
                 | with_reducible apply Keeps.trans ?_ (writeWordAt_keeps ..))

theorem suspectBlock_frame (l b : Nat) (s : State) : (suspectBlock l b s).frame = s.frame := by
  unfold suspectBlock
  repeat' (first | simp only [replaceSlot_frame, putBlock_frame, frame_mk, frame_eta, apply_ite State.frame, ite_self]
                 | (intro _) | (split) | rfl)

theorem resolveHalted_frame (s : State) : (resolveHalted s).frame = s.frame := by
  unfold resolveHalted
  repeat' (first | simp only [suspectBlock_frame, frame_mk, frame_eta, apply_ite State.frame, ite_self]
                 | refine (eachOf_frame _ _ _ ?_).trans ?_ | (intro _) | (split) | rfl)

theorem hewResolve_keeps (n : Nat) (h : Held) (s : State) : Keeps s.frame (hewResolve n h s).frame := by
  unfold hewResolve
  repeat' (first | with_reducible exact Keeps.refl _ | dsimp only | with_reducible apply Keeps.ite ?_ ?_
                 | with_reducible apply Keeps.trans ?_ (Keeps.of_eq (wornCheck_frame ..))
                 | with_reducible apply Keeps.trans ?_ (Keeps.of_eq (peatRecord_frame ..))
                 | with_reducible apply Keeps.trans ?_ (Keeps.of_eq (suspectBlock_frame ..))
                 | with_reducible apply Keeps.trans ?_ (Keeps.of_eq (putBlock_frame ..))
                 | with_reducible apply Keeps.trans ?_ (Keeps.of_eq (wipeBlock_frame ..))
                 | with_reducible apply Keeps.trans ?_ (loseDie_keeps ..)
                 | with_reducible apply Keeps.trans ?_ (failSlotOf_keeps ..)
                 | with_reducible apply Keeps.trans ?_ (spoilAndCheck_keeps ..) | (intro _)
                 | simp only [wornCheck_frame, peatRecord_frame, suspectBlock_frame, putBlock_frame, wipeBlock_frame,
                     frame_mk, frame_eta, apply_ite State.frame, ite_self]
                 | with_reducible refine Keeps.trans ?_ (eachOf_keeps _ _ _ ?_)
                 | with_reducible refine Keeps.trans ?_ (foldl_keeps _ _ _ ?_) | (split))

theorem hewComplete_keeps (n k busy endTime : Nat) (h : Held) (s : State) : Keeps s.frame (hewComplete n k busy endTime
    h s).frame := by
  unfold hewComplete
  repeat' (first | with_reducible exact Keeps.refl _ | dsimp only | with_reducible apply Keeps.ite ?_ ?_
                 | with_reducible apply Keeps.trans ?_ (Keeps.of_eq (hewNote_frame ..))
                 | with_reducible apply Keeps.trans ?_ (Keeps.of_eq (delHeld_frame ..))
                 | with_reducible apply Keeps.trans ?_ (Keeps.of_eq (chargeDie_frame ..))
                 | with_reducible apply Keeps.trans ?_ (Keeps.of_eq (chargeLink_frame ..))
                 | with_reducible apply Keeps.trans ?_ (Keeps.of_eq (wr_frame ..))
                 | with_reducible apply Keeps.trans ?_ (Keeps.of_eq (count_frame ..))
                 | with_reducible apply Keeps.trans ?_ (hewWriteBack_keeps ..)
                 | with_reducible apply Keeps.trans ?_ (hewResolve_keeps ..) | (intro _)
                 | simp only [hewNote_frame, delHeld_frame, chargeDie_frame, chargeLink_frame, wr_frame, count_frame,
                     frame_mk, frame_eta, apply_ite State.frame, ite_self]
                 | with_reducible refine Keeps.trans ?_ (eachOf_keeps _ _ _ ?_)
                 | with_reducible refine Keeps.trans ?_ (foldl_keeps _ _ _ ?_) | (split))

theorem hewEnd_keeps (n k status : Nat) (s : State) : Keeps s.frame (hewEnd n k status s).frame := by
  unfold hewEnd
  repeat' (first | with_reducible exact Keeps.refl _ | with_reducible apply Keeps.trans ?_ (hewComplete_keeps ..)
                 | with_reducible apply Keeps.trans ?_ (Keeps.of_eq (drawn_frame ..)) | (split))

theorem hewQuietNote_frame (n : Nat) (s : State) : (hewQuietNote n s).frame = s.frame := by
  unfold hewQuietNote
  simp only [wr_frame, apply_ite State.frame, ite_self]

theorem hewHaltOne_keeps (n : Nat) (s : State) : Keeps s.frame (hewHaltOne n s).frame := by
  unfold hewHaltOne
  repeat' (first | with_reducible exact Keeps.refl _ | dsimp only | with_reducible apply Keeps.ite ?_ ?_
                 | with_reducible apply Keeps.trans ?_ (hewEnd_keeps ..)
                 | with_reducible apply Keeps.trans ?_ (Keeps.of_eq (wr_frame _ _ _ _))
                 | with_reducible apply Keeps.trans ?_ (Keeps.of_eq (hewQuietNote_frame ..))
                 | with_reducible apply Keeps.trans ?_ (eachOf_keeps _ _ _ ?_) | (intro _))

theorem hewHalt_keeps (s : State) : Keeps s.frame (hewHalt s).frame := by
  unfold hewHalt
  repeat' (first | with_reducible exact Keeps.refl _ | with_reducible apply Keeps.trans ?_ (hewHaltOne_keeps ..)
                 | with_reducible apply Keeps.trans ?_ (Keeps.of_eq (wr_frame _ _ _ _))
                 | with_reducible apply Keeps.trans ?_ (eachOf_keeps _ _ _ ?_) | (intro _))

theorem hewOff_keeps (s : State) : Keeps s.frame (hewOff s).frame := by
  unfold hewOff
  repeat' (first | with_reducible exact Keeps.refl _ | dsimp only | with_reducible apply Keeps.ite ?_ ?_
                 | with_reducible apply Keeps.trans ?_ (hewEnd_keeps ..)
                 | with_reducible apply Keeps.trans ?_ (Keeps.of_eq (wr_frame _ _ _ _))
                 | with_reducible apply Keeps.trans ?_ (eachOf_keeps _ _ _ ?_) | (intro _))

theorem seamSet_frame (l st : Nat) (s : State) : (seamSet l st s).frame = s.frame := by
  unfold seamSet
  simp only [wr_frame]

theorem enterRetrain_frame (l : Nat) (s : State) : (enterRetrain l s).frame = s.frame := by
  unfold enterRetrain
  simp only [count_frame, putLink_frame, seamSet_frame, apply_ite State.frame, ite_self]

theorem seamRetrain_frame (l : Nat) (s : State) : (seamRetrain l s).frame = s.frame := by
  unfold seamRetrain
  simp only [emit_frame, enterRetrain_frame, apply_ite State.frame, ite_self]

theorem dropHeld_keeps (l : Nat) (s : State) : Keeps s.frame (dropHeld l s).frame := by
  unfold dropHeld
  repeat' (first | with_reducible exact Keeps.refl _ | with_reducible apply Keeps.ite ?_ ?_
                 | with_reducible apply Keeps.trans ?_ (hewEnd_keeps ..)
                 | with_reducible apply Keeps.trans ?_ (eachOf_keeps _ _ _ ?_) | (intro _))

theorem linkDrop_keeps (l st : Nat) (s : State) : Keeps s.frame (linkDrop l st s).frame := by
  unfold linkDrop
  repeat' (first | with_reducible exact Keeps.refl _ | dsimp only | with_reducible apply Keeps.ite ?_ ?_
                 | with_reducible apply Keeps.trans ?_ (dropHeld_keeps ..)
                 | with_reducible apply Keeps.trans ?_ (Keeps.of_eq (wr_frame _ _ _ _))
                 | with_reducible apply Keeps.trans ?_ (Keeps.of_eq (count_frame _ _ _ _))
                 | with_reducible apply Keeps.trans ?_ (Keeps.of_eq (putLink_frame ..))
                 | with_reducible apply Keeps.trans ?_ (Keeps.of_eq (memberAbsent_frame ..))
                 | with_reducible apply Keeps.trans ?_ (Keeps.of_eq (limitNote_frame ..))
                 | with_reducible apply Keeps.trans ?_ (Keeps.of_eq (seamSet_frame ..)))

theorem hewTimeoutNote_frame (n : Nat) (s : State) : (hewTimeoutNote n s).frame = s.frame := by
  unfold hewTimeoutNote
  simp only [seamRetrain_frame, frame_mk, frame_eta, apply_ite State.frame, ite_self]

theorem startedNote_frame (f : Nat) (s : State) : (startedNote f s).frame = s.frame := by
  unfold startedNote
  simp only [wr_frame]

theorem startSequence_frame (n k : Nat) (h : Held) (s : State) : (startSequence n k h s).frame = s.frame := by
  unfold startSequence
  repeat' (first | simp only [putHeld_frame, startedNote_frame, frame_mk, frame_eta, apply_ite State.frame, ite_self]
                 | refine (eachOf_frame _ _ _ ?_).trans ?_ | (intro _))

theorem spendCredit_frame (f : Field) (n : Nat) (s : State) : (spendCredit f n s).frame = s.frame := by
  unfold spendCredit
  simp only [wr_frame]

theorem sendPacket_frame (n opc die tag : Nat) (s : State) : (sendPacket n opc die tag s).frame = s.frame := by
  unfold sendPacket
  simp only [emit_frame, spendCredit_frame, apply_ite State.frame, ite_self]

theorem sendProgData_frame (n k : Nat) (h : Held) (s : State) : (sendProgData n k h s).frame = s.frame := by
  unfold sendProgData
  repeat' (first | simp only [emit_frame, spendCredit_frame]
                 | (split) | refine (eachOf_frame _ _ _ ?_).trans ?_ | (intro _))

theorem putLadder_frame (n : Nat) (l : Ladder) (s : State) : (putLadder n l s).frame = s.frame := by
  unfold putLadder
  simp only [frame_mk, frame_eta]

theorem softNote_frame (s : State) : (softNote s).frame = s.frame := by
  unfold softNote
  simp only [wr_frame]

theorem dispatchWord_frame (n l : Nat) (s : State) : (dispatchWord n l s).frame = s.frame := by
  unfold dispatchWord
  repeat' (first | simp only [frame_mk, frame_eta, apply_ite State.frame, ite_self] | (intro _) | (split) | rfl)

theorem admitWaiting_frame (s : State) : (admitWaiting s).frame = s.frame := by
  unfold admitWaiting
  repeat' (first | simp only [dispatchWord_frame, frame_mk, frame_eta, apply_ite State.frame, ite_self]
                 | refine (eachOf_frame _ _ _ ?_).trans ?_ | (intro _) | (split) | rfl)

theorem leaveDecoder_frame (n : Nat) (s : State) : (leaveDecoder n s).frame = s.frame := by
  unfold leaveDecoder
  repeat' (first | simp only [admitWaiting_frame, frame_mk, frame_eta, apply_ite State.frame, ite_self] | (intro _)
                 | (split) | rfl)

theorem openLadder_frame (l : Nat) (h : Held) (cw : Nat) (s : State) : (openLadder l h cw s).frame = s.frame := by
  unfold openLadder
  repeat' (first | simp only [putLadder_frame, frame_mk, frame_eta, apply_ite State.frame, ite_self] | (intro _) | (split)
                 | rfl)

theorem ladderStart_frame (l : Nat) (h : Held) (cw : Nat) (s : State) : (ladderStart l h cw s).frame = s.frame := by
  unfold ladderStart
  repeat' (first | simp only [dispatchWord_frame, openLadder_frame, frame_mk, frame_eta, apply_ite State.frame, ite_self]
                 | (intro _) | (split) | rfl)

theorem mismatchEvent_frame (l : Ladder) (s : State) : (mismatchEvent l s).frame = s.frame := by
  unfold mismatchEvent
  simp only [count_frame, peatRecord_frame]

theorem ladderRefresh_frame (l : Ladder) (s : State) : (ladderRefresh l s).frame = s.frame := by
  unfold ladderRefresh
  repeat' (first | simp only [setDue_frame] | (split))

theorem wordFails_frame (l : Ladder) (s : State) : (wordFails l s).frame = s.frame := by
  unfold wordFails
  repeat' (first | simp only [frame_mk, frame_eta, apply_ite State.frame, ite_self] | (intro _) | (split) | rfl)

theorem wordReads_frame (l : Ladder) (s : State) : (wordReads l s).frame = s.frame := by
  unfold wordReads
  repeat' (first | simp only [frame_mk, frame_eta, apply_ite State.frame, ite_self] | (intro _) | (split) | rfl)

theorem marginNote_keeps (recovered : Bool) (l : Ladder) (s : State) : Keeps s.frame (marginNote recovered l s).frame := by
  unfold marginNote
  repeat' (first | with_reducible exact Keeps.refl _ | dsimp only | with_reducible apply Keeps.ite ?_ ?_
                 | with_reducible apply Keeps.trans ?_ (Keeps.of_eq (drawn_frame ..))
                 | with_reducible apply Keeps.trans ?_ (spoilAndCheck_keeps ..) | (intro _)
                 | simp only [drawn_frame, frame_mk, frame_eta, apply_ite State.frame, ite_self]
                 | with_reducible refine Keeps.trans ?_ (eachOf_keeps _ _ _ ?_)
                 | with_reducible refine Keeps.trans ?_ (foldl_keeps _ _ _ ?_) | (split))

theorem ladderFails_keeps (n : Nat) (l : Ladder) (s : State) : Keeps s.frame (ladderFails n l s).frame := by
  unfold ladderFails
  repeat' (first | with_reducible exact Keeps.refl _ | dsimp only | with_reducible apply Keeps.ite ?_ ?_
                 | with_reducible apply Keeps.trans ?_ (Keeps.of_eq (wordFails_frame ..))
                 | with_reducible apply Keeps.trans ?_ (Keeps.of_eq (peatRecord_frame ..))
                 | with_reducible apply Keeps.trans ?_ (Keeps.of_eq (count_frame ..))
                 | with_reducible apply Keeps.trans ?_ (Keeps.of_eq (ladderRefresh_frame ..))
                 | with_reducible apply Keeps.trans ?_ (Keeps.of_eq (putLadder_frame ..))
                 | with_reducible apply Keeps.trans ?_ (marginNote_keeps ..) | (intro _)
                 | simp only [wordFails_frame, peatRecord_frame, count_frame, ladderRefresh_frame, putLadder_frame,
                     frame_mk, frame_eta, apply_ite State.frame, ite_self]
                 | with_reducible refine Keeps.trans ?_ (eachOf_keeps _ _ _ ?_)
                 | with_reducible refine Keeps.trans ?_ (foldl_keeps _ _ _ ?_) | (split))

theorem toRecon_keeps (n : Nat) (l : Ladder) (s : State) : Keeps s.frame (toRecon n l s).frame := by
  unfold toRecon
  repeat' (first | with_reducible exact Keeps.refl _ | dsimp only | with_reducible apply Keeps.ite ?_ ?_
                 | with_reducible apply Keeps.trans ?_ (Keeps.of_eq (putLadder_frame ..))
                 | with_reducible apply Keeps.trans ?_ (Keeps.of_eq (wordFails_frame ..))
                 | with_reducible apply Keeps.trans ?_ (ladderFails_keeps ..) | (intro _)
                 | simp only [putLadder_frame, wordFails_frame, frame_mk, frame_eta, apply_ite State.frame, ite_self]
                 | with_reducible refine Keeps.trans ?_ (eachOf_keeps _ _ _ ?_)
                 | with_reducible refine Keeps.trans ?_ (foldl_keeps _ _ _ ?_) | (split))

theorem putVectors_frame (n : Nat) (v : Vectors) (s : State) : (putVectors n v s).frame = s.frame := by
  unfold putVectors
  repeat' (first | simp only [frame_mk, frame_eta, apply_ite State.frame, ite_self] | (intro _) | (split) | rfl)

theorem softServe_frame (fuel : Nat) (s : State) : (softServe fuel s).frame = s.frame := by
  induction fuel generalizing s with
  | zero => rfl
  | succ k ih =>
    unfold softServe; split
    · rfl
    · split
      · rfl
      · simp only [ih, frame_mk, frame_eta]

theorem softEnter_frame (n : Nat) (ks : List Int) (s : State) : (softEnter n ks s).frame = s.frame := by
  unfold softEnter
  repeat' (first | simp only [putVectors_frame, softServe_frame, frame_mk, frame_eta, apply_ite State.frame, ite_self]
                 | (intro _) | (split) | rfl)

theorem enterSoft2_frame (n : Nat) (l : Ladder) (s : State) : (enterSoft2 n l s).frame = s.frame := by
  unfold enterSoft2
  repeat' (first
                 | simp only [putVectors_frame, softEnter_frame, putLadder_frame, frame_mk, frame_eta, apply_ite
                     State.frame, ite_self] | (intro _) | (split) | rfl)

theorem toSoft_frame (n : Nat) (l : Ladder) (s : State) : (toSoft n l s).frame = s.frame := by
  unfold toSoft
  repeat' (first
                 | simp only [enterSoft2_frame, putLadder_frame, wordFails_frame, frame_mk, frame_eta, apply_ite
                     State.frame, ite_self] | (intro _) | (split) | rfl)

theorem softAdmit_frame (s : State) : (softAdmit s).frame = s.frame := by
  unfold softAdmit
  repeat' (first | simp only [enterSoft2_frame, frame_mk, frame_eta, apply_ite State.frame, ite_self] | (intro _)
                 | (split) | rfl)

theorem softLeave_frame (n : Nat) (s : State) : (softLeave n s).frame = s.frame := by
  unfold softLeave
  repeat' (first | simp only [softAdmit_frame, softServe_frame, frame_mk, frame_eta, apply_ite State.frame, ite_self]
                 | (intro _) | (split) | rfl)

theorem afterRetry_keeps (n : Nat) (l : Ladder) (s : State) : Keeps s.frame (afterRetry n l s).frame := by
  unfold afterRetry
  repeat' (first | with_reducible exact Keeps.refl _ | dsimp only | with_reducible apply Keeps.ite ?_ ?_
                 | with_reducible apply Keeps.trans ?_ (Keeps.of_eq (toSoft_frame ..))
                 | with_reducible apply Keeps.trans ?_ (toRecon_keeps ..) | (intro _)
                 | simp only [toSoft_frame, frame_mk, frame_eta, apply_ite State.frame, ite_self]
                 | with_reducible refine Keeps.trans ?_ (eachOf_keeps _ _ _ ?_)
                 | with_reducible refine Keeps.trans ?_ (foldl_keeps _ _ _ ?_) | (split))

theorem leaveHard_frame (l : Ladder) (s : State) : (leaveHard l s).frame = s.frame := by
  unfold leaveHard
  simp only [mismatchEvent_frame, apply_ite State.frame, ite_self]

theorem histNote_frame (bin : Nat) (l : Ladder) (s : State) : (histNote bin l s).frame = s.frame := by
  unfold histNote
  simp only [count_frame, apply_ite State.frame, ite_self]

theorem toRetry_frame (n : Nat) (l : Ladder) (s : State) : (toRetry n l s).frame = s.frame := by
  unfold toRetry
  repeat' (first
                 | simp only [putLadder_frame, putVectors_frame, leaveHard_frame, frame_mk, frame_eta, apply_ite
                     State.frame, ite_self] | (intro _) | (split) | rfl)

theorem noteAttempt_frame (n : Nat) (l : Ladder) (s : State) : (noteAttempt n l s).frame = s.frame := by
  unfold noteAttempt
  repeat' (first | simp only [drawn_frame, putVectors_frame, frame_mk, frame_eta, apply_ite State.frame, ite_self]
                 | (intro _) | (split) | rfl)

theorem ladderDown_keeps (n : Nat) (l : Ladder) (s : State) : Keeps s.frame (ladderDown n l s).frame := by
  unfold ladderDown
  repeat' (first | with_reducible exact Keeps.refl _ | dsimp only | with_reducible apply Keeps.ite ?_ ?_
                 | with_reducible apply Keeps.trans ?_ (Keeps.of_eq (toRetry_frame ..))
                 | with_reducible apply Keeps.trans ?_ (Keeps.of_eq (histNote_frame ..))
                 | with_reducible apply Keeps.trans ?_ (Keeps.of_eq (noteAttempt_frame ..))
                 | with_reducible apply Keeps.trans ?_ (Keeps.of_eq (putLadder_frame ..))
                 | with_reducible apply Keeps.trans ?_ (Keeps.of_eq (softEnter_frame ..))
                 | with_reducible apply Keeps.trans ?_ (afterRetry_keeps ..)
                 | with_reducible apply Keeps.trans ?_ (toRecon_keeps ..)
                 | with_reducible apply Keeps.trans ?_ (ladderFails_keeps ..) | (intro _)
                 | simp only [toRetry_frame, histNote_frame, noteAttempt_frame, putLadder_frame, softEnter_frame,
                     frame_mk, frame_eta, apply_ite State.frame, ite_self]
                 | with_reducible refine Keeps.trans ?_ (eachOf_keeps _ _ _ ?_)
                 | with_reducible refine Keeps.trans ?_ (foldl_keeps _ _ _ ?_) | (split))

theorem learnFrom_frame (n : Nat) (l : Ladder) (s : State) : (learnFrom n l s).frame = s.frame := by
  unfold learnFrom
  repeat' (first | simp only [frame_mk, frame_eta, apply_ite State.frame, ite_self] | (intro _) | (split) | rfl)

theorem servedByRecon_frame (l : Ladder) (s : State) : (servedByRecon l s).frame = s.frame := by
  unfold servedByRecon
  repeat' (first | simp only [setDue_frame, frame_mk, frame_eta, apply_ite State.frame, ite_self] | (intro _) | (split)
                 | rfl)

theorem countStep_keeps (n : Nat) (l : Ladder) (byRecon : Bool) (corrected : Nat) (s : State) : Keeps s.frame (countStep
    n l byRecon corrected s).frame := by
  unfold countStep
  repeat' (first | with_reducible exact Keeps.refl _ | dsimp only | with_reducible apply Keeps.ite ?_ ?_
                 | with_reducible apply Keeps.trans ?_ (Keeps.of_eq (servedByRecon_frame ..))
                 | with_reducible apply Keeps.trans ?_ (Keeps.of_eq (measureBlock_frame ..))
                 | with_reducible apply Keeps.trans ?_ (Keeps.of_eq (healthAdd_frame ..))
                 | with_reducible apply Keeps.trans ?_ (Keeps.of_eq (count_frame ..))
                 | with_reducible apply Keeps.trans ?_ (Keeps.of_eq (wordReads_frame ..))
                 | with_reducible apply Keeps.trans ?_ (Keeps.of_eq (leaveHard_frame ..))
                 | with_reducible apply Keeps.trans ?_ (Keeps.of_eq (histNote_frame ..))
                 | with_reducible apply Keeps.trans ?_ (Keeps.of_eq (learnFrom_frame ..))
                 | with_reducible apply Keeps.trans ?_ (marginNote_keeps ..)
                 | with_reducible apply Keeps.trans ?_ (corrected_keeps ..) | (intro _)
                 | simp only [servedByRecon_frame, measureBlock_frame, healthAdd_frame, count_frame, wordReads_frame,
                     leaveHard_frame, histNote_frame, learnFrom_frame, frame_mk, frame_eta, apply_ite State.frame, ite_self]
                 | with_reducible refine Keeps.trans ?_ (eachOf_keeps _ _ _ ?_)
                 | with_reducible refine Keeps.trans ?_ (foldl_keeps _ _ _ ?_) | (split))

end Sys2Proof.Machine
end

