-- ==== Sys2Proof/Laws/FrameUnits.lean ====
section
/-! SUPPORT. What the operations of the hewers, the links, power and the units leave unchanged (see FrameBase). -/

namespace Sys2Proof.Machine

open Sys2Proof

theorem ladderAccept_keeps (n : Nat) (l : Ladder) (filler lost tagOk : Bool) (corrected : Nat) (s : State) : Keeps
    s.frame (ladderAccept n l filler lost tagOk corrected s).frame := by
  unfold ladderAccept
  repeat' (first | with_reducible exact Keeps.refl _ | dsimp only | with_reducible apply Keeps.ite ?_ ?_
                 | with_reducible apply Keeps.trans ?_ (Keeps.of_eq (putLadder_frame ..))
                 | with_reducible apply Keeps.trans ?_ (Keeps.of_eq (healthAdd_frame ..))
                 | with_reducible apply Keeps.trans ?_ (Keeps.of_eq (leaveHard_frame ..))
                 | with_reducible apply Keeps.trans ?_ (Keeps.of_eq (histNote_frame ..))
                 | with_reducible apply Keeps.trans ?_ (Keeps.of_eq (drawn_frame ..))
                 | with_reducible apply Keeps.trans ?_ (Keeps.of_eq (count_frame ..))
                 | with_reducible apply Keeps.trans ?_ (countStep_keeps ..)
                 | with_reducible apply Keeps.trans ?_ (corrected_keeps ..)
                 | with_reducible apply Keeps.trans ?_ (ladderFails_keeps ..)
                 | with_reducible apply Keeps.trans ?_ (toRecon_keeps ..) | (intro _)
                 | simp only [putLadder_frame, healthAdd_frame, leaveHard_frame, histNote_frame, drawn_frame,
                     count_frame, frame_mk, frame_eta, apply_ite State.frame, ite_self]
                 | with_reducible refine Keeps.trans ?_ (eachOf_keeps _ _ _ ?_)
                 | with_reducible refine Keeps.trans ?_ (foldl_keeps _ _ _ ?_) | (split))

theorem ladderStep_keeps (n : Nat) (l : Ladder) (o : DecodeOutcome) (s : State) : Keeps s.frame (ladderStep n l o
    s).frame := by
  unfold ladderStep
  repeat' (first | with_reducible exact Keeps.refl _ | dsimp only | with_reducible apply Keeps.ite ?_ ?_
                 | with_reducible apply Keeps.trans ?_ (Keeps.of_eq (peatRecord_frame ..))
                 | with_reducible apply Keeps.trans ?_ (Keeps.of_eq (count_frame ..))
                 | with_reducible apply Keeps.trans ?_ (Keeps.of_eq (leaveHard_frame ..))
                 | with_reducible apply Keeps.trans ?_ (Keeps.of_eq (histNote_frame ..))
                 | with_reducible apply Keeps.trans ?_ (Keeps.of_eq (ladderRefresh_frame ..))
                 | with_reducible apply Keeps.trans ?_ (Keeps.of_eq (putLadder_frame ..))
                 | with_reducible apply Keeps.trans ?_ (Keeps.of_eq (mismatchEvent_frame ..))
                 | with_reducible apply Keeps.trans ?_ (corrected_keeps ..)
                 | with_reducible apply Keeps.trans ?_ (ladderAccept_keeps ..)
                 | with_reducible apply Keeps.trans ?_ (toRecon_keeps ..)
                 | with_reducible apply Keeps.trans ?_ (ladderDown_keeps ..) | (intro _)
                 | simp only [peatRecord_frame, count_frame, leaveHard_frame, histNote_frame, ladderRefresh_frame,
                     putLadder_frame, mismatchEvent_frame, frame_mk, frame_eta, apply_ite State.frame, ite_self]
                 | with_reducible refine Keeps.trans ?_ (eachOf_keeps _ _ _ ?_)
                 | with_reducible refine Keeps.trans ?_ (foldl_keeps _ _ _ ?_) | (split))

theorem wordLost_keeps (l : Nat) (h : Held) (cw : Nat) (s : State) : Keeps s.frame (wordLost l h cw s).frame := by
  unfold wordLost
  repeat' (first | with_reducible exact Keeps.refl _ | dsimp only | with_reducible apply Keeps.ite ?_ ?_
                 | with_reducible apply Keeps.trans ?_ (Keeps.of_eq (openLadder_frame ..))
                 | with_reducible apply Keeps.trans ?_ (Keeps.of_eq (softNote_frame ..))
                 | with_reducible apply Keeps.trans ?_ (Keeps.of_eq (softLeave_frame ..))
                 | with_reducible apply Keeps.trans ?_ (Keeps.of_eq (leaveDecoder_frame ..))
                 | with_reducible apply Keeps.trans ?_ (toRecon_keeps ..) | (intro _)
                 | simp only [openLadder_frame, softNote_frame, softLeave_frame, leaveDecoder_frame, frame_mk, frame_eta,
                     apply_ite State.frame, ite_self] | with_reducible refine Keeps.trans ?_ (eachOf_keeps _ _ _ ?_)
                 | with_reducible refine Keeps.trans ?_ (foldl_keeps _ _ _ ?_) | (split))

theorem laddersGiveUp_keeps (l : Nat) (s : State) : Keeps s.frame (laddersGiveUp l s).frame := by
  unfold laddersGiveUp
  repeat' (first | with_reducible exact Keeps.refl _ | dsimp only | with_reducible apply Keeps.ite ?_ ?_
                 | with_reducible apply Keeps.trans ?_ (Keeps.of_eq (softNote_frame ..))
                 | with_reducible apply Keeps.trans ?_ (Keeps.of_eq (softLeave_frame ..))
                 | with_reducible apply Keeps.trans ?_ (toRecon_keeps ..) | (intro _)
                 | simp only [softNote_frame, softLeave_frame, frame_mk, frame_eta, apply_ite State.frame, ite_self]
                 | with_reducible refine Keeps.trans ?_ (eachOf_keeps _ _ _ ?_)
                 | with_reducible refine Keeps.trans ?_ (foldl_keeps _ _ _ ?_) | (split))

theorem replaceTargets_frame (l : Nat) (s : State) : (replaceTargets l s).frame = s.frame := by
  unfold replaceTargets
  repeat' (first | simp only [suspectBlock_frame]
                 | refine (eachOf_frame _ _ _ ?_).trans ?_ | (intro _))

theorem findPartner_frame (l : Nat) (s : State) : (findPartner l s).frame = s.frame := by
  unfold findPartner
  repeat' (first | simp only [fenRefresh_frame, replaceTargets_frame, frame_mk, frame_eta]
                 | (split))

theorem fenceEncoder_frame (l : Nat) (s : State) : (fenceEncoder l s).frame = s.frame := by
  unfold fenceEncoder
  repeat' (first
                 | simp only [wrBit_frame, peatRecord_frame, findPartner_frame] | refine (eachOf_frame _ _ _ ?_).trans ?_ | (intro _))

theorem fenceBit_frame (f : Field) (n : Nat) (s : State) : (fenceBit f n s).frame = s.frame := by
  unfold fenceBit
  simp only [wrBit_frame]

theorem redispatch_frame (d : Nat) (s : State) : (redispatch d s).frame = s.frame := by
  unfold redispatch
  repeat' (first | simp only [dispatchWord_frame, frame_mk, frame_eta, apply_ite State.frame, ite_self]
                 | refine (eachOf_frame _ _ _ ?_).trans ?_ | (intro _) | (split) | rfl)

theorem softShrink_frame (s : State) : (softShrink s).frame = s.frame := by
  unfold softShrink
  repeat' (first | simp only [frame_mk, frame_eta, apply_ite State.frame, ite_self] | (intro _) | (split) | rfl)

theorem fenceDecoder_frame (soft : Bool) (n : Nat) (s : State) : (fenceDecoder soft n s).frame = s.frame := by
  unfold fenceDecoder
  repeat' (first
                 | simp only [fenceBit_frame, count_frame, faultAbsorbed_frame, peatRecord_frame, softShrink_frame,
                     redispatch_frame, frame_mk, frame_eta, apply_ite State.frame, ite_self] | (intro _) | (split) | rfl)

theorem fenceCipher_frame (f : Field) (n code : Nat) (s : State) : (fenceCipher f n code s).frame = s.frame := by
  unfold fenceCipher
  simp only [wr_frame, peatRecord_frame, faultAbsorbed_frame, fenceBit_frame, apply_ite State.frame,
      ite_self]

theorem hewTailWrite_frame (n tail : Nat) (s : State) : (hewTailWrite n tail s).frame = s.frame := by
  unfold hewTailWrite
  simp only [wr_frame, apply_ite State.frame, ite_self]

theorem hewFetch_keeps (n : Nat) (s : State) : Keeps s.frame (hewFetch n s).frame := by
  unfold hewFetch
  repeat' (first | with_reducible exact Keeps.refl _ | dsimp only | with_reducible apply Keeps.ite ?_ ?_
                 | with_reducible apply Keeps.trans ?_ (hewEnd_keeps ..)
                 | with_reducible apply Keeps.trans ?_ (Keeps.of_eq (wr_frame _ _ _ _))
                 | with_reducible apply Keeps.trans ?_ (Keeps.of_eq (putHeld_frame ..))
                 | with_reducible apply Keeps.trans ?_ (Keeps.of_eq (hewNote_frame ..))
                 | with_reducible apply Keeps.trans ?_ (Keeps.of_eq (seamRetrain_frame ..))
                 | simp only [frame_mk, frame_eta] | (split))

theorem hewStart_frame (n k : Nat) (s : State) : (hewStart n k s).frame = s.frame := by
  unfold hewStart
  repeat' (first | simp only [startSequence_frame, apply_ite State.frame, ite_self] | (split))

theorem hewIssue_keeps (n k opc : Nat) (s : State) : Keeps s.frame (hewIssue n k opc s).frame := by
  unfold hewIssue
  repeat' (first | with_reducible exact Keeps.refl _ | dsimp only | with_reducible apply Keeps.ite ?_ ?_
                 | with_reducible apply Keeps.trans ?_ (Keeps.of_eq (hewStart_frame ..))
                 | with_reducible apply Keeps.trans ?_ (Keeps.of_eq (sendPacket_frame ..))
                 | with_reducible apply Keeps.trans ?_ (Keeps.of_eq (putHeld_frame ..))
                 | with_reducible apply Keeps.trans ?_ (Keeps.of_eq (sendProgData_frame ..))
                 | with_reducible apply Keeps.trans ?_ (hewEnd_keeps ..) | (intro _)
                 | simp only [hewStart_frame, sendPacket_frame, putHeld_frame, sendProgData_frame, frame_mk, frame_eta,
                     apply_ite State.frame, ite_self] | with_reducible refine Keeps.trans ?_ (eachOf_keeps _ _ _ ?_)
                 | with_reducible refine Keeps.trans ?_ (foldl_keeps _ _ _ ?_) | (split))

theorem unsuspend_frame (n : Nat) (h : Held) (s : State) : (unsuspend n h s).frame = s.frame := by
  unfold unsuspend
  repeat' (first | simp only [wr_frame, frame_mk, frame_eta, apply_ite State.frame, ite_self] | (intro _) | (split) | rfl)

theorem memberAnswer_frame (n k st detail : Nat) (s : State) : (memberAnswer n k st detail s).frame = s.frame := by
  unfold memberAnswer
  repeat' (first
                 | simp only [peatRecord_frame, unsuspend_frame, putHeld_frame, frame_mk, frame_eta, apply_ite
                     State.frame, ite_self] | (intro _) | (split) | rfl)

theorem toDetect_frame (l : Nat) (s : State) : (toDetect l s).frame = s.frame := by
  unfold toDetect
  simp only [emit_frame, seamSet_frame]

theorem trainFail_frame (l : Nat) (s : State) : (trainFail l s).frame = s.frame := by
  unfold trainFail
  simp only [wr_frame, putLink_frame, memberAbsent_frame, limitNote_frame, toDetect_frame, apply_ite
      State.frame, ite_self]

theorem dropLink_keeps (l st : Nat) (s : State) : Keeps s.frame (dropLink l st s).frame := by
  unfold dropLink
  repeat' (first | with_reducible exact Keeps.refl _ | dsimp only | with_reducible apply Keeps.ite ?_ ?_
                 | with_reducible apply Keeps.trans ?_ (wordLost_keeps ..)
                 | with_reducible apply Keeps.trans ?_ (linkDrop_keeps ..) | (intro _)
                 | simp only [frame_mk, frame_eta, apply_ite State.frame, ite_self]
                 | with_reducible refine Keeps.trans ?_ (eachOf_keeps _ _ _ ?_)
                 | with_reducible refine Keeps.trans ?_ (foldl_keeps _ _ _ ?_) | (split))

theorem dropToDetect_keeps (l : Nat) (s : State) : Keeps s.frame (dropToDetect l s).frame := by
  unfold dropToDetect
  repeat' (first | with_reducible exact Keeps.refl _ | dsimp only | with_reducible apply Keeps.ite ?_ ?_
                 | with_reducible apply Keeps.trans ?_ (Keeps.of_eq (emit_frame ..))
                 | with_reducible apply Keeps.trans ?_ (dropLink_keeps ..) | (intro _)
                 | simp only [emit_frame, frame_mk, frame_eta, apply_ite State.frame, ite_self]
                 | with_reducible refine Keeps.trans ?_ (eachOf_keeps _ _ _ ?_)
                 | with_reducible refine Keeps.trans ?_ (foldl_keeps _ _ _ ?_) | (split))

theorem memberBack_frame (l : Nat) (s : State) : (memberBack l s).frame = s.frame := by
  unfold memberBack
  repeat' (first | simp only [fenRefresh_frame, memberWell_frame, frame_mk, frame_eta, apply_ite State.frame, ite_self]
                 | (intro _) | (split) | rfl)

theorem adoptEpoch_keeps (l : Nat) (s : State) : Keeps s.frame (adoptEpoch l s).frame := by
  unfold adoptEpoch
  repeat' (first | with_reducible exact Keeps.refl _ | with_reducible apply Keeps.ite ?_ ?_
                 | with_reducible apply Keeps.trans ?_ (hewEnd_keeps ..)
                 | with_reducible apply Keeps.trans ?_ (eachOf_keeps _ _ _ ?_) | (intro _))

theorem grantCredits_frame (l : Nat) (b : IdentBody) (s : State) : (grantCredits l b s).frame = s.frame := by
  unfold grantCredits
  simp only [wr_frame]

theorem takeIdent_frame (l : Nat) (b : IdentBody) (s : State) : (takeIdent l b s).frame = s.frame := by
  unfold takeIdent
  simp only [wr_frame, putLink_frame]

theorem linkActive_keeps (l : Nat) (s : State) : Keeps s.frame (linkActive l s).frame := by
  unfold linkActive
  repeat' (first | with_reducible exact Keeps.refl _ | dsimp only | with_reducible apply Keeps.ite ?_ ?_
                 | with_reducible apply Keeps.trans ?_ (adoptEpoch_keeps ..)
                 | with_reducible apply Keeps.trans ?_ (Keeps.of_eq (wr_frame _ _ _ _))
                 | with_reducible apply Keeps.trans ?_ (Keeps.of_eq (limitNote_frame ..))
                 | with_reducible apply Keeps.trans ?_ (Keeps.of_eq (seamSet_frame ..))
                 | with_reducible apply Keeps.trans ?_ (Keeps.of_eq (sendPacket_frame ..))
                 | with_reducible apply Keeps.trans ?_ (Keeps.of_eq (memberBack_frame ..)))

theorem linkHeld_frame (l : Nat) (s : State) : (linkHeld l s).frame = s.frame := by
  unfold linkHeld
  simp only [wr_frame, seamSet_frame]

theorem otherMember_keeps (l : Nat) (b : IdentBody) (s : State) : Keeps s.frame (otherMember l b s).frame := by
  unfold otherMember
  repeat' (first | with_reducible exact Keeps.refl _ | dsimp only | with_reducible apply Keeps.ite ?_ ?_
                 | with_reducible apply Keeps.trans ?_ (Keeps.of_eq (linkHeld_frame ..))
                 | with_reducible apply Keeps.trans ?_ (Keeps.of_eq (grantCredits_frame ..))
                 | with_reducible apply Keeps.trans ?_ (Keeps.of_eq (takeIdent_frame ..))
                 | with_reducible apply Keeps.trans ?_ (Keeps.of_eq (startRebuild_frame ..))
                 | with_reducible apply Keeps.trans ?_ (laddersGiveUp_keeps ..) | (intro _)
                 | simp only [linkHeld_frame, grantCredits_frame, takeIdent_frame, startRebuild_frame, frame_mk,
                     frame_eta, apply_ite State.frame, ite_self]
                 | with_reducible refine Keeps.trans ?_ (eachOf_keeps _ _ _ ?_)
                 | with_reducible refine Keeps.trans ?_ (foldl_keeps _ _ _ ?_) | (split))

theorem trainedUp_keeps (l : Nat) (b : IdentBody) (s : State) : Keeps s.frame (trainedUp l b s).frame := by
  unfold trainedUp
  repeat' (first | with_reducible exact Keeps.refl _ | dsimp only | with_reducible apply Keeps.ite ?_ ?_
                 | with_reducible apply Keeps.trans ?_ (Keeps.of_eq (grantCredits_frame ..))
                 | with_reducible apply Keeps.trans ?_ (Keeps.of_eq (takeIdent_frame ..))
                 | with_reducible apply Keeps.trans ?_ (Keeps.of_eq (wr_frame ..))
                 | with_reducible apply Keeps.trans ?_ (Keeps.of_eq (linkHeld_frame ..))
                 | with_reducible apply Keeps.trans ?_ (otherMember_keeps ..)
                 | with_reducible apply Keeps.trans ?_ (linkActive_keeps ..) | (intro _)
                 | simp only [grantCredits_frame, takeIdent_frame, wr_frame, linkHeld_frame, frame_mk, frame_eta,
                     apply_ite State.frame, ite_self] | with_reducible refine Keeps.trans ?_ (eachOf_keeps _ _ _ ?_)
                 | with_reducible refine Keeps.trans ?_ (foldl_keeps _ _ _ ?_) | (split))

theorem retrainedUp_keeps (l : Nat) (b : IdentBody) (s : State) : Keeps s.frame (retrainedUp l b s).frame := by
  unfold retrainedUp
  repeat' (first | with_reducible exact Keeps.refl _ | dsimp only | with_reducible apply Keeps.ite ?_ ?_
                 | with_reducible apply Keeps.trans ?_ (Keeps.of_eq (takeIdent_frame ..))
                 | with_reducible apply Keeps.trans ?_ (linkActive_keeps ..)
                 | with_reducible apply Keeps.trans ?_ (trainedUp_keeps ..)
                 | with_reducible apply Keeps.trans ?_ (dropLink_keeps ..) | (intro _)
                 | simp only [takeIdent_frame, frame_mk, frame_eta, apply_ite State.frame, ite_self]
                 | with_reducible refine Keeps.trans ?_ (eachOf_keeps _ _ _ ?_)
                 | with_reducible refine Keeps.trans ?_ (foldl_keeps _ _ _ ?_) | (split))

theorem sendHalt_frame (l : Nat) (s : State) : (sendHalt l s).frame = s.frame := by
  unfold sendHalt
  simp only [emit_frame, seamSet_frame]

theorem atAlign_frame (l st : Nat) (s : State) : (atAlign l st s).frame = s.frame := by
  unfold atAlign
  simp only [putLink_frame, seamSet_frame, sendHalt_frame, apply_ite State.frame, ite_self]

theorem atIdent_frame (l st : Nat) (s : State) : (atIdent l st s).frame = s.frame := by
  unfold atIdent
  simp only [emit_frame, putLink_frame, seamSet_frame, apply_ite State.frame, ite_self]

theorem trainEnd_keeps (l : Nat) (s : State) : Keeps s.frame (trainEnd l s).frame := by
  unfold trainEnd
  repeat' (first | with_reducible exact Keeps.refl _ | dsimp only | with_reducible apply Keeps.ite ?_ ?_
                 | with_reducible apply Keeps.trans ?_ (trainedUp_keeps ..)
                 | with_reducible apply Keeps.trans ?_ (retrainedUp_keeps ..)
                 | with_reducible apply Keeps.trans ?_ (Keeps.of_eq (putLink_frame ..))
                 | with_reducible apply Keeps.trans ?_ (Keeps.of_eq (seamSet_frame ..))
                 | with_reducible apply Keeps.trans ?_ (Keeps.of_eq (atAlign_frame ..))
                 | with_reducible apply Keeps.trans ?_ (Keeps.of_eq (atIdent_frame ..)) | (split))

theorem creditReport_frame (l : Nat) (h : FlitHead) (s : State) : (creditReport l h s).frame = s.frame := by
  unfold creditReport
  simp only [wr_frame, putLink_frame, apply_ite State.frame, ite_self]

theorem ackReport_frame (l : Nat) (h : FlitHead) (s : State) : (ackReport l h s).frame = s.frame := by
  unfold ackReport
  simp only [count_frame, putLink_frame, apply_ite State.frame, ite_self]

theorem flitCounts_frame (l : Nat) (h : FlitHead) (s : State) : (flitCounts l h s).frame = s.frame := by
  unfold flitCounts
  simp only [count_frame, apply_ite State.frame, ite_self]

theorem flitDiscard_frame (l : Nat) (s : State) : (flitDiscard l s).frame = s.frame := by
  unfold flitDiscard
  simp only [putLink_frame, apply_ite State.frame, ite_self]

theorem recalAsk_frame (l : Nat) (s : State) : (recalAsk l s).frame = s.frame := by
  unfold recalAsk
  simp only [emit_frame, putLink_frame, apply_ite State.frame, ite_self]

theorem recalOpen_frame (l : Nat) (own : Bool) (s : State) : (recalOpen l own s).frame = s.frame := by
  unfold recalOpen
  simp only [putLink_frame, seamSet_frame]

theorem parkLink_frame (l : Nat) (s : State) : (parkLink l s).frame = s.frame := by
  unfold parkLink
  simp only [emit_frame, putLink_frame, seamSet_frame, apply_ite State.frame, ite_self]

theorem giveUpUnsent_keeps (l : Nat) (s : State) : Keeps s.frame (giveUpUnsent l s).frame := by
  unfold giveUpUnsent
  repeat' (first | with_reducible exact Keeps.refl _ | dsimp only | with_reducible apply Keeps.ite ?_ ?_
                 | with_reducible apply Keeps.trans ?_ (hewEnd_keeps ..) | (intro _)
                 | simp only [frame_mk, frame_eta, apply_ite State.frame, ite_self]
                 | with_reducible refine Keeps.trans ?_ (eachOf_keeps _ _ _ ?_)
                 | with_reducible refine Keeps.trans ?_ (foldl_keeps _ _ _ ?_) | (split))

theorem freeRsp_frame (l : Nat) (s : State) : (freeRsp l s).frame = s.frame := by
  unfold freeRsp
  simp only [putLink_frame]

theorem freeRdata_frame (l : Nat) (s : State) : (freeRdata l s).frame = s.frame := by
  unfold freeRdata
  simp only [putLink_frame]

theorem lastPacket_frame (l k : Nat) (s : State) : (lastPacket l k s).frame = s.frame := by
  unfold lastPacket
  repeat' (first | simp only [putHeld_frame] | (split))

theorem wordArrives_frame (l k cw : Nat) (last : Bool) (ops : List Nat) (hard : Bool) (s : State) : (wordArrives l k cw last
    ops hard s).frame = s.frame := by
  unfold wordArrives
  repeat' (first
                 | simp only [putHeld_frame, ladderStart_frame, freeRdata_frame, lastPacket_frame, 
                 apply_ite State.frame, ite_self] | (split))

theorem setOver_frame (l : Nat) (b : Bool) (s : State) : (setOver l b s).frame = s.frame := by
  unfold setOver
  simp only [wr_frame, wrB_frame, apply_ite State.frame, ite_self]

theorem groupLost_frame (g : Nat) (s : State) : (groupLost g s).frame = s.frame := by
  unfold groupLost
  repeat' (first
                 | simp only [wr_frame, faultAbsorbed_frame, glbRefresh_frame, enterRetrain_frame, frame_mk, frame_eta,
                     apply_ite State.frame, ite_self] | refine (eachOf_frame _ _ _ ?_).trans ?_ | (intro _) | (split)
                 | rfl)

theorem seamRetrainAsk_frame (l : Nat) (s : State) : (seamRetrainAsk l s).frame = s.frame := by
  unfold seamRetrainAsk
  simp only [wr_frame, putLink_frame, seamRetrain_frame]

theorem seamEnable_keeps (l : Nat) (enable : Bool) (s : State) : Keeps s.frame (seamEnable l enable s).frame := by
  unfold seamEnable
  repeat' (first | with_reducible exact Keeps.refl _ | dsimp only | with_reducible apply Keeps.ite ?_ ?_
                 | with_reducible apply Keeps.trans ?_ (Keeps.of_eq (wrB_frame ..))
                 | with_reducible apply Keeps.trans ?_ (Keeps.of_eq (toDetect_frame ..))
                 | with_reducible apply Keeps.trans ?_ (Keeps.of_eq (putLink_frame ..))
                 | with_reducible apply Keeps.trans ?_ (Keeps.of_eq (seamSet_frame ..))
                 | with_reducible apply Keeps.trans ?_ (dropLink_keeps ..) | (intro _)
                 | simp only [wrB_frame, toDetect_frame, putLink_frame, seamSet_frame, frame_mk, frame_eta, apply_ite
                     State.frame, ite_self] | with_reducible refine Keeps.trans ?_ (eachOf_keeps _ _ _ ?_)
                 | with_reducible refine Keeps.trans ?_ (foldl_keeps _ _ _ ?_) | (split))

theorem ucPutWord_frame (f bank a w : Nat) (s : State) : (ucPutWord f bank a w s).frame = s.frame := by
  unfold ucPutWord
  simp only [frame_mk, frame_eta, apply_ite State.frame, ite_self]

theorem putMaster_frame (f bank a d : Nat) (s : State) : (putMaster f bank a d s).frame = s.frame := by
  unfold putMaster
  simp only [frame_mk, frame_eta]

theorem loadBank_frame (f fromBank toBank : Nat) (s : State) : (loadBank f fromBank toBank s).frame = s.frame := by
  unfold loadBank
  repeat' (first | simp only [ucPutWord_frame, putMaster_frame]
                 | refine (eachOf_frame _ _ _ ?_).trans ?_ | (intro _))

theorem askSwitch_frame (f : Nat) (s : State) : (askSwitch f s).frame = s.frame := by
  unfold askSwitch
  simp only [frame_mk, frame_eta]

theorem flipBank_frame (f : Nat) (s : State) : (flipBank f s).frame = s.frame := by
  unfold flipBank
  simp only [wr_frame, startedNote_frame, frame_mk, frame_eta]

theorem ucodeNote_frame (s : State) : (ucodeNote s).frame = s.frame := by
  unfold ucodeNote
  repeat' (first | simp only [lotDone_frame, apply_ite State.frame, ite_self] | (split))

theorem restoreBank_frame (f : Nat) (s : State) : (restoreBank f s).frame = s.frame := by
  unfold restoreBank
  simp only [loadBank_frame, askSwitch_frame]

theorem restoreNote_frame (f : Nat) (s : State) : (restoreNote f s).frame = s.frame := by
  unfold restoreNote
  simp only [restoreBank_frame, frame_mk, frame_eta, apply_ite State.frame, ite_self]

theorem bankDamaged_frame (f bank : Nat) (s : State) : (bankDamaged f bank s).frame = s.frame := by
  unfold bankDamaged
  simp only [restoreBank_frame, frame_mk, frame_eta, apply_ite State.frame, ite_self]

theorem ucError_keeps (n k : Nat) (s : State) : Keeps s.frame (ucError n k s).frame := by
  unfold ucError
  repeat' (first | with_reducible exact Keeps.refl _ | with_reducible apply Keeps.trans ?_ (hewEnd_keeps ..))

theorem ucRunIf_keeps (n k : Nat) (op : Nat → Bool) (act : Nat → Held → State → State) (s : State) (hf : ∀ w h s, Keeps
    s.frame (act w h s).frame) : Keeps s.frame (ucRunIf n k op act s).frame := by
  unfold ucRunIf; split
  · exact Keeps.refl _
  · split
    · exact Keeps.refl _
    · simp only; split
      · split
        · exact hf ..
        · exact Keeps.refl _
      · split
        · refine Keeps.trans (Keeps.of_eq ?_) (hf ..); simp only [count_frame, ucPutWord_frame]
        · exact Keeps.refl _
      · refine Keeps.trans (Keeps.of_eq ?_) (ucError_keeps ..); simp only [bankDamaged_frame, count_frame]

theorem ucRun_keeps (n k op : Nat) (act : Nat → Held → State → State) (s : State) (hf : ∀ w h s, Keeps s.frame (act w h
    s).frame) : Keeps s.frame (ucRun n k op act s).frame := ucRunIf_keeps n k _ act s hf

theorem ucPut_keeps (n k : Nat) (h : Option Held) (s : State) : Keeps s.frame (ucPut n k h s).frame := by
  unfold ucPut
  repeat' (first | with_reducible exact Keeps.refl _ | with_reducible apply Keeps.trans ?_ (ucError_keeps ..)
                 | with_reducible apply Keeps.trans ?_ (Keeps.of_eq (putHeld_frame ..)) | (split))

theorem ucAlu_keeps (n k op : Nat) (f : Nat → Nat → Nat) (s : State) : Keeps s.frame (ucAlu n k op f s).frame := by
  unfold ucAlu
  repeat' (first | with_reducible exact Keeps.refl _ | with_reducible apply Keeps.ite ?_ ?_
                 | with_reducible apply Keeps.trans ?_ (ucPut_keeps ..)
                 | with_reducible apply Keeps.trans ?_ (Keeps.of_eq (drawn_frame ..))
                 | with_reducible apply Keeps.trans ?_ (ucRun_keeps (hf := ?_) ..) | (intro _))

theorem sendControl_frame (n opc k : Nat) (s : State) : (sendControl n opc k s).frame = s.frame := by
  unfold sendControl
  repeat' (first | simp only [putHeld_frame, count_frame, frame_mk, frame_eta, apply_ite State.frame, ite_self]
                 | (intro _) | (split) | rfl)

theorem epochNote_frame (s : State) : (epochNote s).frame = s.frame := by
  unfold epochNote
  repeat' (first | simp only [wr_frame] | (split))

theorem epochPrepare_frame (kind : EpochKind) (checkOk : Bool) (s : State) : (epochPrepare kind checkOk s).frame =
    s.frame := by
  unfold epochPrepare
  repeat' (first | simp only [wr_frame, epochNote_frame, frame_mk, frame_eta, apply_ite State.frame, ite_self] | (intro _)
                 | (split) | rfl)

theorem epochWaiting_frame (s : State) : (epochWaiting s).frame = s.frame := by
  unfold epochWaiting
  simp only [epochPrepare_frame, apply_ite State.frame, ite_self]

theorem lotStart_frame (p : AccessPath) (lot : Nat) (s : State) : (lotStart p lot s).frame = s.frame := by
  unfold lotStart
  repeat' (first
                 | simp only [wr_frame, peatRecord_frame, lotDone_frame, frame_mk, frame_eta, apply_ite State.frame,
                 ite_self] | (split))

theorem writeBank_frame (u : UcodeLot) (f bank : Nat) (s : State) : (writeBank u f bank s).frame = s.frame := by
  unfold writeBank
  repeat' (first | simp only [ucPutWord_frame, putMaster_frame, frame_mk, frame_eta]
                 | (split) | refine (eachOf_frame _ _ _ ?_).trans ?_ | (intro _))

theorem writeIdleBanks_frame (u : UcodeLot) (s : State) : (writeIdleBanks u s).frame = s.frame := by
  unfold writeIdleBanks
  repeat' (first | simp only [writeBank_frame]
                 | refine (eachOf_frame _ _ _ ?_).trans ?_ | (intro _))

theorem lotInForce_frame (lot : Nat) (i : TwimaImage) (s : State) : (lotInForce lot i s).frame = s.frame := by
  unfold lotInForce
  repeat' (first
                 | simp only [logClamps_frame, resNote_frame, limitNote_frame, closeAllExpert_frame, askSwitch_frame,
                 frame_mk, frame_eta, apply_ite State.frame, ite_self] | (split) | refine (eachOf_frame _ _ _ ?_).trans ?_
                 | (intro _))

theorem keyChange_frame (old new_ : TwimaImage) (s : State) : (keyChange old new_ s).frame = s.frame := by
  unfold keyChange
  simp only [closeSession_frame, apply_ite State.frame, ite_self]

theorem lotCommit_frame (r : Reapply) (s : State) : (lotCommit r s).frame = s.frame := by
  unfold lotCommit
  simp only [wr_frame, commitSlots_frame, lotDone_frame, ucodeNote_frame, writeIdleBanks_frame, lotInForce_frame,
      keyChange_frame, frame_mk, frame_eta, apply_ite State.frame, ite_self]

theorem powerWaitEnds_frame (pass : Bool) (s : State) : (powerWaitEnds pass s).frame = s.frame := by
  unfold powerWaitEnds
  repeat' (first | simp only [lotRefuse_frame, lotCommit_frame, frame_mk, frame_eta, apply_ite State.frame, ite_self] | (split))

theorem setPf_frame (i : PfInput) (v : Bool) (s : State) : (setPf i v s).frame = s.frame := by
  unfold setPf
  repeat' (first | simp only [frame_mk, frame_eta] | (split))

theorem pfDisagree_frame (gap : Nat) (s : State) : (pfDisagree gap s).frame = s.frame := by
  unfold pfDisagree
  simp only [wr_frame, peatRecord_frame, frame_mk, frame_eta]

theorem haltLinks_frame (s : State) : (haltLinks s).frame = s.frame := by
  unfold haltLinks
  repeat' (first | simp only [sendHalt_frame]
                 | refine (eachOf_frame _ _ _ ?_).trans ?_ | (intro _))

theorem htEnd_frame (st : Nat) (s : State) : (htEnd st s).frame = s.frame := by
  unfold htEnd
  simp only [wr_frame, powerWaitEnds_frame]

theorem pfStop_keeps (s : State) : Keeps s.frame (pfStop s).frame := by
  unfold pfStop
  repeat' (first | with_reducible exact Keeps.refl _ | dsimp only | with_reducible apply Keeps.ite ?_ ?_
                 | with_reducible apply Keeps.trans ?_ (Keeps.of_eq (unpark_frame ..))
                 | with_reducible apply Keeps.trans ?_ (Keeps.of_eq (haltLinks_frame ..))
                 | with_reducible apply Keeps.trans ?_ (Keeps.of_eq (dmaAbandon_frame ..))
                 | with_reducible apply Keeps.trans ?_ (Keeps.of_eq (htEnd_frame ..))
                 | with_reducible apply Keeps.trans ?_ (hewHalt_keeps ..) | (intro _)
                 | simp only [unpark_frame, haltLinks_frame, dmaAbandon_frame, htEnd_frame, frame_mk, frame_eta,
                     apply_ite State.frame, ite_self] | with_reducible refine Keeps.trans ?_ (eachOf_keeps _ _ _ ?_)
                 | with_reducible refine Keeps.trans ?_ (foldl_keeps _ _ _ ?_) | (split))

theorem flushRecords_keeps (s : State) : Keeps s.frame (flushRecords s).frame := by
  unfold flushRecords
  repeat' (first | with_reducible exact Keeps.refl _ | dsimp only | with_reducible apply Keeps.ite ?_ ?_
                 | with_reducible apply Keeps.trans ?_ (Keeps.of_eq (journal_frame ..))
                 | with_reducible apply Keeps.trans ?_ (makeDurable_keeps ..) | (intro _)
                 | simp only [journal_frame, frame_mk, frame_eta, apply_ite State.frame, ite_self]
                 | with_reducible refine Keeps.trans ?_ (eachOf_keeps _ _ _ ?_)
                 | with_reducible refine Keeps.trans ?_ (foldl_keeps _ _ _ ?_) | (split))

theorem flushUnit_frame (i key : Nat) (s : State) : (flushUnit i key s).frame = s.frame := by
  unfold flushUnit
  repeat' (first | simp only [putUnit_frame, apply_ite State.frame, ite_self] | (split))

theorem flushNote_frame (complete : Bool) (units us : Nat) (s : State) : (flushNote complete units us s).frame = s.frame := by
  unfold flushNote; split <;> simp only [wr_frame, wrB_frame]

theorem flushLate_frame (s : State) : (flushLate s).frame = s.frame := by
  unfold flushLate; split <;> simp only [pfDisagree_frame]

theorem flushDone_keeps (complete : Bool) (units us : Nat) (s : State) : Keeps s.frame (flushDone complete units us s).frame
    := by
  have h : ∀ x : State, State.frame { x with pwr := { x.pwr with flushing := false, pending := [] } } = x.frame := fun _ => rfl
  unfold flushDone
  refine Keeps.trans ?_ (Keeps.of_eq ((h _).trans (flushLate_frame _)))
  refine Keeps.trans (Keeps.of_eq ?_) (hewOff_keeps _)
  simp only [flushNote_frame, thermalSave_frame]

theorem flushData_frame (n : Nat) (s : State) : (flushData n s).frame = s.frame := by
  unfold flushData
  repeat' (first | simp only [flushUnit_frame]
                 | refine (eachOf_frame _ _ _ ?_).trans ?_ | (intro _))

theorem htAsk_frame (s : State) : (htAsk s).frame = s.frame := by
  unfold htAsk
  simp only [wr_frame, frame_mk, frame_eta]

theorem htArm_frame (s : State) : (htArm s).frame = s.frame := by
  unfold htArm
  simp only [wr_frame, frame_mk, frame_eta, apply_ite State.frame, ite_self]

theorem htCancel_frame (s : State) : (htCancel s).frame = s.frame := by
  unfold htCancel
  repeat' (first | simp only [powerWaitEnds_frame, htEnd_frame, frame_mk, frame_eta, apply_ite State.frame, ite_self]
                 | (intro _) | (split) | rfl)

theorem htBoot_frame (s : State) : (htBoot s).frame = s.frame := by
  unfold htBoot
  simp only [wr_frame, peatRecord_frame, frame_mk, frame_eta, apply_ite State.frame, ite_self]

theorem sealStat_frame (s : State) : (sealStat s).frame = s.frame := by
  unfold sealStat
  simp only [wr_frame, wrB_frame]

theorem sealFollow_frame (s : State) : (sealFollow s).frame = s.frame := by
  unfold sealFollow
  simp only [powerWaitBusy_frame, epochPrepare_frame, apply_ite State.frame, ite_self]

theorem sealFault_frame (s : State) : (sealFault s).frame = s.frame := by
  unfold sealFault
  simp only [wr_frame, peatRecord_frame, frame_mk, frame_eta]

theorem sealResolve_frame (s : State) : (sealResolve s).frame = s.frame := by
  unfold sealResolve
  simp only [wr_frame, peatRecord_frame, frame_mk, frame_eta, apply_ite State.frame, ite_self]

theorem sealDisagree_frame (s : State) : (sealDisagree s).frame = s.frame := by
  unfold sealDisagree
  simp only [count_frame, sealFault_frame, frame_mk, frame_eta, apply_ite State.frame, ite_self]

theorem sealSample_frame (a b : Bool) (s : State) : (sealSample a b s).frame = s.frame := by
  unfold sealSample
  simp only [sealStat_frame, sealFollow_frame, sealResolve_frame, sealDisagree_frame, frame_mk, frame_eta, apply_ite
      State.frame, ite_self]

theorem sealClear_frame (p : AccessPath) (s : State) : (sealClear p s).frame = s.frame := by
  unfold sealClear
  simp only [accessViolation_frame, sealStat_frame, sealFollow_frame, frame_mk, frame_eta, apply_ite State.frame, ite_self]

theorem sealSoft_frame (p : AccessPath) (engage : Bool) (s : State) : (sealSoft p engage s).frame = s.frame := by
  unfold sealSoft
  simp only [wrB_frame, sealFollow_frame, frame_mk, frame_eta, apply_ite State.frame, ite_self]

theorem freeStrays_frame (s : State) : (freeStrays s).frame = s.frame := by
  unfold freeStrays
  simp only [frame_mk, frame_eta]

theorem useCore_frame (c : MapCore) (s : State) : (useCore c s).frame = s.frame := by
  unfold useCore
  repeat' (first
                 | simp only [setCore_frame, releaseAfter_frame, releaseDue_frame, freeSumps_frame, freeStrays_frame] | refine (eachOf_frame _ _ _ ?_).trans ?_ | (intro _))

theorem mapRecover_frame (s : State) : (mapRecover s).frame = s.frame := by
  unfold mapRecover
  repeat' (first | simp only [useCore_frame, frame_mk, frame_eta, apply_ite State.frame, ite_self] | (intro _) | (split)
                 | rfl)

theorem labelWalk_frame (s : State) : (labelWalk s).frame = s.frame := by
  unfold labelWalk
  repeat' (first | simp only [setCore_frame, useCore_frame, frame_mk, frame_eta, apply_ite State.frame, ite_self]
                 | refine (foldl_frame _ _ _ ?_).trans ?_ | (intro _) | (split) | rfl)

theorem restoreUnit_keeps (w : CodeWord) (s : State) : Keeps s.frame (restoreUnit w s).frame := by
  unfold restoreUnit
  repeat' (first | with_reducible exact Keeps.refl _ | dsimp only | with_reducible apply Keeps.ite ?_ ?_
                 | with_reducible apply Keeps.trans ?_ (Keeps.of_eq (clearLost_frame ..))
                 | with_reducible apply Keeps.trans ?_ (placeDirty_keeps ..) | (intro _)
                 | simp only [clearLost_frame, frame_mk, frame_eta, apply_ite State.frame, ite_self]
                 | with_reducible refine Keeps.trans ?_ (eachOf_keeps _ _ _ ?_)
                 | with_reducible refine Keeps.trans ?_ (foldl_keeps _ _ _ ?_) | (split))

theorem restoreStripe_keeps (id : Nat) (s : State) : Keeps s.frame (restoreStripe id s).frame := by
  unfold restoreStripe
  repeat' (first | with_reducible exact Keeps.refl _ | dsimp only | with_reducible apply Keeps.ite ?_ ?_
                 | with_reducible apply Keeps.trans ?_ (restoreUnit_keeps ..) | (intro _)
                 | simp only [frame_mk, frame_eta, apply_ite State.frame, ite_self]
                 | with_reducible refine Keeps.trans ?_ (eachOf_keeps _ _ _ ?_)
                 | with_reducible refine Keeps.trans ?_ (foldl_keeps _ _ _ ?_) | (split))

theorem freeFlush_frame (id : Nat) (s : State) : (freeFlush id s).frame = s.frame := by
  unfold freeFlush
  simp only [journal_frame, releaseSlots_frame, frame_mk, frame_eta]

theorem flushRecover_keeps (s : State) : Keeps s.frame (flushRecover s).frame := by
  unfold flushRecover
  repeat' (first | with_reducible exact Keeps.refl _ | dsimp only | with_reducible apply Keeps.ite ?_ ?_
                 | with_reducible apply Keeps.trans ?_ (Keeps.of_eq (freeFlush_frame ..))
                 | with_reducible apply Keeps.trans ?_ (Keeps.of_eq (wr_frame ..))
                 | with_reducible apply Keeps.trans ?_ (restoreStripe_keeps ..)
                 | with_reducible apply Keeps.trans ?_ (makeDurable_keeps ..) | (intro _)
                 | simp only [freeFlush_frame, wr_frame, frame_mk, frame_eta, apply_ite State.frame, ite_self]
                 | with_reducible refine Keeps.trans ?_ (eachOf_keeps _ _ _ ?_)
                 | with_reducible refine Keeps.trans ?_ (foldl_keeps _ _ _ ?_) | (split))

theorem offNote_frame (s0 : State) (read : Bool) (w : List (Nat × Nat)) (l : Nat) (s : State) : (offNote s0 read w l
    s).frame = s.frame := by
  unfold offNote
  repeat' (first | simp only [peatRecord_frame, frame_mk, frame_eta, apply_ite State.frame, ite_self] | (intro _)
                 | (split) | rfl)

theorem offInterval_frame (w : List (Nat × Nat)) (s : State) : (offInterval w s).frame = s.frame := by
  unfold offInterval
  repeat' (first
                 | simp only [offNote_frame, wr_frame, peatRecord_frame, frame_mk, frame_eta, apply_ite State.frame,
                     ite_self] | refine (foldl_frame _ _ _ ?_).trans ?_ | (intro _) | (split) | rfl)

theorem fillReserve_frame (f fuel : Nat) (s : State) : (fillReserve f fuel s).frame = s.frame := by
  induction fuel generalizing f s with
  | zero => unfold fillReserve; simp only []
  | succ k ih => unfold fillReserve; repeat' (first
                                                    | simp only [ih, journalStripe_frame, frame_mk, frame_eta, apply_ite
                                                    State.frame]
                                                    | refine (openStripe_frame (by assumption)).trans ?_ | (split))

theorem reserveNote_frame (s : State) : (reserveNote s).frame = s.frame := by
  unfold reserveNote
  simp only [wrB_frame, limitNote_frame]

theorem formReserve_keeps (s : State) : Keeps s.frame (formReserve s).frame := by
  unfold formReserve
  repeat' (first | with_reducible exact Keeps.refl _ | dsimp only | with_reducible apply Keeps.ite ?_ ?_
                 | with_reducible apply Keeps.trans ?_ (Keeps.of_eq (reserveNote_frame ..))
                 | with_reducible apply Keeps.trans ?_ (Keeps.of_eq (fillReserve_frame ..))
                 | with_reducible apply Keeps.trans ?_ (makeDurable_keeps ..) | (intro _)
                 | simp only [reserveNote_frame, fillReserve_frame, frame_mk, frame_eta, apply_ite State.frame, ite_self]
                 | with_reducible refine Keeps.trans ?_ (eachOf_keeps _ _ _ ?_)
                 | with_reducible refine Keeps.trans ?_ (foldl_keeps _ _ _ ?_) | (split))

theorem loadKeys_frame (bad : List Nat) (s : State) : (loadKeys bad s).frame = s.frame := by
  unfold loadKeys
  repeat' (first | simp only [peatRecord_frame, labelWrite_frame, frame_mk, frame_eta, apply_ite State.frame, ite_self]
                 | refine (eachOf_frame _ _ _ ?_).trans ?_ | (intro _))

theorem peatRenumber_frame (s : State) : (peatRenumber s).frame = s.frame := by
  unfold peatRenumber
  simp only [frame_mk, frame_eta, apply_ite State.frame, ite_self]

theorem bootReports_frame (s : State) : (bootReports s).frame = s.frame := by
  unfold bootReports
  simp only [frame_mk, frame_eta]

theorem judgeAll_frame (s : State) : (judgeAll s).frame = s.frame := by
  unfold judgeAll
  repeat' (first | simp only [judgeStripe_frame]
                 | refine (eachOf_frame _ _ _ ?_).trans ?_ | (intro _))

theorem resumeInPlace_frame (s : State) : (resumeInPlace s).frame = s.frame := by
  unfold resumeInPlace
  repeat' (first | simp only [journal_frame, frame_mk, frame_eta, apply_ite State.frame, ite_self]
                 | refine (eachOf_frame _ _ _ ?_).trans ?_ | (intro _) | (split) | rfl)

theorem resumeRebuilds_frame (s : State) : (resumeRebuilds s).frame = s.frame := by
  unfold resumeRebuilds
  repeat' (first | simp only [frame_mk, frame_eta, apply_ite State.frame, ite_self]
                 | refine (eachOf_frame _ _ _ ?_).trans ?_ | (intro _) | (split) | rfl)

theorem firstWitness_frame (s : State) : (firstWitness s).frame = s.frame := by
  unfold firstWitness
  repeat' (first | simp only [witnessFirst_frame, frame_mk, frame_eta, apply_ite State.frame, ite_self]
                 | refine (eachOf_frame _ _ _ ?_).trans ?_ | (intro _) | (split) | rfl)

theorem step7_keeps (walk : Bool) (archive : Bool) (witness : List (Nat × Nat)) (wrapFailed : List Nat) (s : State) :
    Keeps s.frame (step7 walk archive witness wrapFailed s).frame := by
  unfold step7
  repeat' (first | with_reducible exact Keeps.refl _ | dsimp only | with_reducible apply Keeps.ite ?_ ?_
                 | with_reducible apply Keeps.trans ?_ (Keeps.of_eq (placeMirrors_frame ..))
                 | with_reducible apply Keeps.trans ?_ (Keeps.of_eq (loadKeys_frame ..))
                 | with_reducible apply Keeps.trans ?_ (Keeps.of_eq (labelWalk_frame ..))
                 | with_reducible apply Keeps.trans ?_ (Keeps.of_eq (mapRecover_frame ..))
                 | with_reducible apply Keeps.trans ?_ (Keeps.of_eq (resolveHalted_frame ..))
                 | with_reducible apply Keeps.trans ?_ (Keeps.of_eq (resumeRebuilds_frame ..))
                 | with_reducible apply Keeps.trans ?_ (Keeps.of_eq (resumeInPlace_frame ..))
                 | with_reducible apply Keeps.trans ?_ (Keeps.of_eq (peatRenumber_frame ..))
                 | with_reducible apply Keeps.trans ?_ (Keeps.of_eq (wr_frame ..))
                 | with_reducible apply Keeps.trans ?_ (Keeps.of_eq (judgeAll_frame ..))
                 | with_reducible apply Keeps.trans ?_ (Keeps.of_eq (firstWitness_frame ..))
                 | with_reducible apply Keeps.trans ?_ (Keeps.of_eq (offInterval_frame ..))
                 | with_reducible apply Keeps.trans ?_ (Keeps.of_eq (bootReports_frame ..))
                 | with_reducible apply Keeps.trans ?_ (Keeps.of_eq (fenRefresh_frame ..))
                 | with_reducible apply Keeps.trans ?_ (flushRecover_keeps ..)
                 | with_reducible apply Keeps.trans ?_ (formReserve_keeps ..)
                 | with_reducible apply Keeps.trans ?_ (peatArchiveAll_keeps ..) | (intro _)
                 | simp only [placeMirrors_frame, loadKeys_frame, labelWalk_frame, mapRecover_frame, resolveHalted_frame,
                     resumeRebuilds_frame, resumeInPlace_frame, peatRenumber_frame, wr_frame, judgeAll_frame,
                     firstWitness_frame, offInterval_frame, bootReports_frame, fenRefresh_frame, frame_mk, frame_eta,
                     apply_ite State.frame, ite_self] | with_reducible refine Keeps.trans ?_ (eachOf_keeps _ _ _ ?_)
                 | with_reducible refine Keeps.trans ?_ (foldl_keeps _ _ _ ?_) | (split))

theorem putChan_frame (ch : Nat) (c : Chan) (s : State) : (putChan ch c s).frame = s.frame := by
  unfold putChan
  simp only [frame_mk, frame_eta]

theorem mbxRefuse_frame (p : AccessPath) (off : Nat) (s : State) : (mbxRefuse p off s).frame = s.frame := by
  unfold mbxRefuse
  simp only [emit_frame, accessViolation_frame, apply_ite State.frame, ite_self]

theorem mbxWake_frame (receiver : Nat) (s : State) : (mbxWake receiver s).frame = s.frame := by
  unfold mbxWake
  repeat' (first | simp only [frame_mk, frame_eta, apply_ite State.frame, ite_self] | (split))

theorem mbxStage_frame (p : AccessPath) (ch w v : Nat) (s : State) : (mbxStage p ch w v s).frame = s.frame := by
  unfold mbxStage
  simp only [putChan_frame, mbxRefuse_frame, apply_ite State.frame, ite_self]

theorem mbxOverflow_frame (p : AccessPath) (ch : Nat) (s : State) : (mbxOverflow p ch s).frame = s.frame := by
  unfold mbxOverflow
  repeat' (first
                 | simp only [wr_frame, emit_frame, peatRecord_frame, aenPost_frame, apply_ite
                 State.frame] | (split))

theorem mbxPush_frame (p : AccessPath) (ch v : Nat) (s : State) : (mbxPush p ch v s).frame = s.frame := by
  unfold mbxPush
  simp only [putChan_frame, mbxRefuse_frame, mbxWake_frame, mbxOverflow_frame, apply_ite State.frame,
      ite_self]

theorem mbxPop_frame (p : AccessPath) (ch : Nat) (s : State) : (mbxPop p ch s).frame = s.frame := by
  unfold mbxPop
  simp only [answer_frame, putChan_frame, apply_ite State.frame, ite_self]

theorem losePair_frame (p cause : Nat) (s : State) : (losePair p cause s).frame = s.frame := by
  unfold losePair
  simp only [wr_frame, glbRefresh_frame, faultAbsorbed_frame, pairLostActivation_frame, frame_mk, frame_eta, apply_ite
      State.frame, ite_self]

theorem takeIdentity_frame (i : Nat) (s : State) : (takeIdentity i s).frame = s.frame := by
  unfold takeIdentity
  repeat' (first | simp only [wr_frame, drawn_frame, apply_ite State.frame, ite_self] | (split))

theorem rangeReady_frame (a len : Nat) (s : State) : (rangeReady a len s).frame = s.frame := by
  unfold rangeReady
  repeat' (first | simp only [checkGroups_frame, unpark_frame, frame_mk, frame_eta, apply_ite State.frame, ite_self]
                 | (intro _) | (split) | rfl)

theorem mereReady_frame (a : Nat) (mirror : Option Nat) (len : Nat) (s : State) : (mereReady a mirror len s).frame =
    s.frame := by
  unfold mereReady
  repeat' (first | simp only [rangeReady_frame, frame_mk, frame_eta, apply_ite State.frame, ite_self] | (intro _)
                 | (split) | rfl)

theorem upsets_frame (flips : List (Nat × Nat)) (s : State) : (upsets flips s).frame = s.frame := by
  unfold upsets
  repeat' (first | simp only [flipGroup_frame, flipBits_frame, frame_mk, frame_eta, apply_ite State.frame, ite_self]
                 | refine (eachOf_frame _ _ _ ?_).trans ?_ | (intro _) | (split) | rfl)

theorem mereReadOp_keeps (requester a : Nat) (mirror : Option Nat) (len : Nat) (s : State) : Keeps s.frame (mereReadOp
    requester a mirror len s).frame := by
  unfold mereReadOp
  repeat' (first | with_reducible exact Keeps.refl _ | dsimp only | with_reducible apply Keeps.ite ?_ ?_
                 | with_reducible apply Keeps.trans ?_ (Keeps.of_eq (mereReady_frame ..))
                 | with_reducible apply Keeps.trans ?_ (Keeps.of_eq (emit_frame ..))
                 | with_reducible apply Keeps.trans ?_ (Keeps.of_eq (mereBusError_frame ..))
                 | with_reducible apply Keeps.trans ?_ (mereFetch_keeps ..)
                 | with_reducible apply Keeps.trans ?_ (mereFetch_keeps' (by assumption)) | (intro _)
                 | simp only [mereReady_frame, emit_frame, mereBusError_frame, frame_mk, frame_eta, apply_ite
                     State.frame, ite_self] | with_reducible refine Keeps.trans ?_ (eachOf_keeps _ _ _ ?_)
                 | with_reducible refine Keeps.trans ?_ (foldl_keeps _ _ _ ?_) | (split))

theorem mereWriteOp_keeps (requester a : Nat) (mirror : Option Nat) (len v : Nat) (s : State) : Keeps s.frame
    (mereWriteOp requester a mirror len v s).frame := by
  unfold mereWriteOp
  repeat' (first | with_reducible exact Keeps.refl _ | dsimp only | with_reducible apply Keeps.ite ?_ ?_
                 | with_reducible apply Keeps.trans ?_ (Keeps.of_eq (mereReady_frame ..))
                 | with_reducible apply Keeps.trans ?_ (Keeps.of_eq (emit_frame ..))
                 | with_reducible apply Keeps.trans ?_ (Keeps.of_eq (mereBusError_frame ..))
                 | with_reducible apply Keeps.trans ?_ (mereStore_keeps ..)
                 | with_reducible apply Keeps.trans ?_ (mereStore_keeps' (by assumption)) | (intro _)
                 | simp only [mereReady_frame, emit_frame, mereBusError_frame, frame_mk, frame_eta, apply_ite
                     State.frame, ite_self] | with_reducible refine Keeps.trans ?_ (eachOf_keeps _ _ _ ?_)
                 | with_reducible refine Keeps.trans ?_ (foldl_keeps _ _ _ ?_) | (split))

theorem scrubWord_keeps (a : Nat) (s : State) : Keeps s.frame (scrubWord a s).frame := by
  unfold scrubWord
  repeat' (first | with_reducible exact Keeps.refl _ | dsimp only | with_reducible apply Keeps.trans ?_ (putWord_keeps ..)
                 | with_reducible apply Keeps.trans ?_ (noteCheck_keeps ..) | (split))

theorem scrubMicroword_frame (word flips : Nat) (s : State) : (scrubMicroword word flips s).frame = s.frame := by
  unfold scrubMicroword
  repeat' (first | simp only [ucPutWord_frame, bankDamaged_frame, frame_mk, frame_eta, apply_ite State.frame, ite_self]
                 | (intro _) | (split) | rfl)

theorem scrubOnDie_frame (memory word flips : Nat) (s : State) : (scrubOnDie memory word flips s).frame = s.frame := by
  unfold scrubOnDie
  repeat' (first
                 | simp only [checkGroup_frame, flipGroup_frame, scrubMicroword_frame, frame_mk, frame_eta, apply_ite
                     State.frame, ite_self] | (intro _) | (split) | rfl)

theorem ethPortDown_frame (lp : LPort) (s : State) : (ethPortDown lp s).frame = s.frame := by
  unfold ethPortDown
  simp only [wr_frame, glbRefresh_frame, faultAbsorbed_frame, portSettle_frame, apply_ite State.frame,
      ite_self]

theorem pfcNote_frame (l : Nat) (s : State) : (pfcNote l s).frame = s.frame := by
  unfold pfcNote
  simp only [emit_frame, drawn_frame, frame_mk, frame_eta, apply_ite State.frame, ite_self]

theorem qpProgress_frame (n : Nat) (q : Qp) (s : State) : (qpProgress n q s).frame = s.frame := by
  unfold qpProgress
  simp only [putQp_frame]

theorem fabAnswer_frame (qp status value : Nat) (s : State) : (fabAnswer qp status value s).frame = s.frame := by
  unfold fabAnswer
  simp only [emit_frame]

theorem connectBusy_frame (qp : Nat) (noRx : Bool) (s : State) : (connectBusy qp noRx s).frame = s.frame := by
  unfold connectBusy
  simp only [wr_frame, fabAnswer_frame, apply_ite State.frame, ite_self]

theorem connectAdmin_frame (qp : Nat) (q : Qp) (req : ConnectReq) (h : FabricHost) (s : State) : (connectAdmin qp q req h
    s).frame = s.frame := by
  unfold connectAdmin
  repeat' (first
                 | simp only [putCtrl_frame, fabNote_frame, putQp_frame, fabAnswer_frame, connectBusy_frame, frame_mk,
                 frame_eta, apply_ite State.frame, ite_self] | (split))

theorem connectIo_frame (qp : Nat) (q : Qp) (req : ConnectReq) (s : State) : (connectIo qp q req s).frame = s.frame := by
  unfold connectIo
  repeat' (first
                 | simp only [putCtrl_frame, fabNote_frame, putQp_frame, fabAnswer_frame, connectBusy_frame, frame_mk,
                 frame_eta, apply_ite State.frame, ite_self] | (split))

theorem addressCommit_keeps (s : State) : Keeps s.frame (addressCommit s).frame := by
  unfold addressCommit
  repeat' (first | with_reducible exact Keeps.refl _ | dsimp only | with_reducible apply Keeps.ite ?_ ?_
                 | with_reducible apply Keeps.trans ?_ (assocEndWhere_keeps ..)
                 | with_reducible apply Keeps.trans ?_ (Keeps.of_eq (wr_frame _ _ _ _)) | simp only [frame_mk, frame_eta])

theorem keepField_frame (old : State) (f : Field) (i : Nat) (s : State) : (keepField old f i s).frame = s.frame := by
  unfold keepField
  simp only [wr_frame]

theorem hewCfgWrite_frame (p : AccessPath) (n off value mask : Nat) (s : State) : (hewCfgWrite p n off value mask
    s).frame = s.frame := by
  unfold hewCfgWrite
  repeat' (first
                 | simp only [maskedWrite_frame, keepField_frame, wr_frame, frame_mk, frame_eta, apply_ite State.frame,
                     ite_self] | (intro _) | (split) | rfl)

theorem cipCfgWrite_keeps (p : AccessPath) (n off value mask : Nat) (s : State) : Keeps s.frame (cipCfgWrite p n off value
    mask s).frame := by
  unfold cipCfgWrite
  repeat' (first | with_reducible exact Keeps.refl _ | dsimp only | with_reducible apply Keeps.ite ?_ ?_
                 | with_reducible apply Keeps.trans ?_ (cipFetch_keeps ..)
                 | with_reducible apply Keeps.trans ?_ (Keeps.of_eq (maskedWrite_frame ..))
                 | with_reducible apply Keeps.trans ?_ (Keeps.of_eq (keepField_frame ..)))

theorem dmaCfgWrite_keeps (p : AccessPath) (n off value mask : Nat) (s : State) : Keeps s.frame (dmaCfgWrite p n off value
    mask s).frame := by
  unfold dmaCfgWrite
  repeat' (first | with_reducible exact Keeps.refl _ | dsimp only | with_reducible apply Keeps.ite ?_ ?_
                 | with_reducible apply Keeps.trans ?_ (dmaNext_keeps ..)
                 | with_reducible apply Keeps.trans ?_ (Keeps.of_eq (maskedWrite_frame ..))
                 | with_reducible apply Keeps.trans ?_ (Keeps.of_eq (keepField_frame ..)))

theorem seamCtlMasked_keeps (p : AccessPath) (l off value mask : Nat) (s : State) : Keeps s.frame (seamCtlMasked p l off
    value mask s).frame := by
  unfold seamCtlMasked
  repeat' (first | with_reducible exact Keeps.refl _ | dsimp only | with_reducible apply Keeps.ite ?_ ?_
                 | with_reducible apply Keeps.trans ?_ (seamEnable_keeps ..)
                 | with_reducible apply Keeps.trans ?_ (Keeps.of_eq (maskedWrite_frame ..))
                 | with_reducible apply Keeps.trans ?_ (Keeps.of_eq (seamRetrainAsk_frame ..))
                 | with_reducible apply Keeps.trans ?_ (Keeps.of_eq (keepField_frame ..)))

theorem snapWrite_frame (p : AccessPath) (i value : Nat) (s : State) : (snapWrite p i value s).frame = s.frame := by
  unfold snapWrite
  repeat' (first | simp only [accessViolation_frame, frame_mk, frame_eta, apply_ite State.frame, ite_self] | (intro _)
                 | (split) | rfl)

end Sys2Proof.Machine
end

