-- ==== Sys2Proof/Laws/FrameDevice.lean ====
section
/-! SUPPORT. What register accesses, boot and the Custodian leave unchanged (see FrameBase). -/

namespace Sys2Proof.Machine

open Sys2Proof

theorem qosWrite_frame (p : AccessPath) (off value mask : Nat) (s : State) : (qosWrite p off value mask s).frame =
    s.frame := by
  unfold qosWrite
  repeat' (first
                 | simp only [maskedWrite_frame, keepField_frame, accessViolation_frame, frame_mk, frame_eta, apply_ite
                     State.frame, ite_self] | (intro _) | (split) | rfl)

theorem sealCtlWrite_frame (p : AccessPath) (off value mask : Nat) (s : State) : (sealCtlWrite p off value mask s).frame =
    s.frame := by
  unfold sealCtlWrite
  simp only [maskedWrite_frame, sealClear_frame, sealSoft_frame, keepField_frame, apply_ite State.frame,
      ite_self]

theorem afterWrite_keeps (p : AccessPath) (base i value mask : Nat) (s : State) : Keeps s.frame (afterWrite p base i
    value mask s).frame := by
  unfold afterWrite
  repeat' (first | with_reducible exact Keeps.refl _ | dsimp only | with_reducible apply Keeps.ite ?_ ?_
                 | with_reducible apply Keeps.trans ?_ (Keeps.of_eq (lotStart_frame ..))
                 | with_reducible apply Keeps.trans ?_ (Keeps.of_eq (expertKeyWrite_frame ..))
                 | with_reducible apply Keeps.trans ?_ (Keeps.of_eq (closeExpert_frame ..))
                 | with_reducible apply Keeps.trans ?_ (Keeps.of_eq (rebuildPend_frame ..))
                 | with_reducible apply Keeps.trans ?_ (Keeps.of_eq (fenRefresh_frame ..))
                 | with_reducible apply Keeps.trans ?_ (Keeps.of_eq (hewTailWrite_frame ..))
                 | with_reducible apply Keeps.trans ?_ (Keeps.of_eq (startCheckpoint_frame ..))
                 | with_reducible apply Keeps.trans ?_ (Keeps.of_eq (dredgeStart_frame ..))
                 | with_reducible apply Keeps.trans ?_ (Keeps.of_eq (dredgeAbort_frame ..))
                 | with_reducible apply Keeps.trans ?_ (Keeps.of_eq (losePair_frame ..))
                 | with_reducible apply Keeps.trans ?_ (Keeps.of_eq (htArm_frame ..))
                 | with_reducible apply Keeps.trans ?_ (Keeps.of_eq (htCancel_frame ..))
                 | with_reducible apply Keeps.trans ?_ (cipFetch_keeps ..)
                 | with_reducible apply Keeps.trans ?_ (dmaNext_keeps ..)
                 | with_reducible apply Keeps.trans ?_ (dmaCtlWrite_keeps ..)
                 | with_reducible apply Keeps.trans ?_ (peatArchiveAll_keeps ..)
                 | with_reducible apply Keeps.trans ?_ (fenceStack_keeps ..)
                 | with_reducible apply Keeps.trans ?_ (addressCommit_keeps ..) | (intro _)
                 | simp only [lotStart_frame, expertKeyWrite_frame, closeExpert_frame, rebuildPend_frame,
                     fenRefresh_frame, hewTailWrite_frame, startCheckpoint_frame, dredgeStart_frame, dredgeAbort_frame,
                     losePair_frame, htArm_frame, htCancel_frame, frame_mk, frame_eta, apply_ite State.frame, ite_self]
                 | with_reducible refine Keeps.trans ?_ (eachOf_keeps _ _ _ ?_)
                 | with_reducible refine Keeps.trans ?_ (foldl_keeps _ _ _ ?_) | (split))

theorem blockWrite_keeps (p : AccessPath) (off value mask : Nat) (s : State) : Keeps s.frame (blockWrite p off value
    mask s).frame := by
  unfold blockWrite
  repeat' (first | with_reducible exact Keeps.refl _ | dsimp only | with_reducible apply Keeps.ite ?_ ?_
                 | with_reducible apply Keeps.trans ?_ (Keeps.of_eq (hewCfgWrite_frame ..))
                 | with_reducible apply Keeps.trans ?_ (Keeps.of_eq (sealCtlWrite_frame ..))
                 | with_reducible apply Keeps.trans ?_ (Keeps.of_eq (peatRlWrite_frame ..))
                 | with_reducible apply Keeps.trans ?_ (Keeps.of_eq (snapWrite_frame ..))
                 | with_reducible apply Keeps.trans ?_ (Keeps.of_eq (qosWrite_frame ..))
                 | with_reducible apply Keeps.trans ?_ (Keeps.of_eq (lotStart_frame ..))
                 | with_reducible apply Keeps.trans ?_ (Keeps.of_eq (mbxPush_frame ..))
                 | with_reducible apply Keeps.trans ?_ (Keeps.of_eq (mbxStage_frame ..))
                 | with_reducible apply Keeps.trans ?_ (Keeps.of_eq (maskedWrite_frame ..))
                 | with_reducible apply Keeps.trans ?_ (cipCfgWrite_keeps ..)
                 | with_reducible apply Keeps.trans ?_ (dmaCfgWrite_keeps ..)
                 | with_reducible apply Keeps.trans ?_ (seamCtlMasked_keeps ..)
                 | with_reducible apply Keeps.trans ?_ (afterWrite_keeps ..) | (intro _)
                 | refine Keeps.trans ?_ (eachOf_keeps _ _ _ ?_)
                 | simp only [hewCfgWrite_frame, sealCtlWrite_frame, peatRlWrite_frame, snapWrite_frame, qosWrite_frame,
                     lotStart_frame, mbxPush_frame, mbxStage_frame, maskedWrite_frame, frame_mk, frame_eta, apply_ite
                     State.frame, ite_self] | (split))

theorem reginitEntry_keeps (off value mask : Nat) (s : State) : Keeps s.frame (reginitEntry off value mask s).frame := by
  unfold reginitEntry
  repeat' (first | with_reducible exact Keeps.refl _ | dsimp only | with_reducible apply Keeps.ite ?_ ?_
                 | with_reducible apply Keeps.trans ?_ (Keeps.of_eq (accessViolation_frame ..))
                 | with_reducible apply Keeps.trans ?_ (blockWrite_keeps ..) | (intro _)
                 | refine Keeps.trans ?_ (eachOf_keeps _ _ _ ?_)
                 | simp only [accessViolation_frame, frame_mk, frame_eta, apply_ite State.frame, ite_self] | (split))

theorem reginitRun_keeps (l : ReginitLot) (s : State) : Keeps s.frame (reginitRun l s).frame := by
  unfold reginitRun
  repeat' (first | with_reducible exact Keeps.refl _ | dsimp only | with_reducible apply Keeps.ite ?_ ?_
                 | with_reducible apply Keeps.trans ?_ (reginitEntry_keeps ..) | (intro _)
                 | refine Keeps.trans ?_ (eachOf_keeps _ _ _ ?_)
                 | simp only [frame_mk, frame_eta, apply_ite State.frame, ite_self] | (split))

theorem cwyTake_frame (h : CwyHead) (streams : List Nat) (f : State → Option State) (s : State) (hf : ∀ s t, f s = some t →
    t.frame = s.frame) : (cwyTake h streams f s).frame = s.frame := by
  unfold cwyTake; simp only; split
  · rfl
  · split
    · simp only [count_frame]
    · split
      · rfl
      · split
        · simp only [sendAck_frame, cwyAck_frame]
        · split
          · next e => simp only [sendAck_frame, hf _ _ e, putPeer_frame, cwyAck_frame]
          · simp only [cwyAck_frame]

theorem cwyTake_keeps (h : CwyHead) (streams : List Nat) (f : State → Option State) (s : State)
    (hf : ∀ s t, f s = some t → Keeps s.frame t.frame) : Keeps s.frame (cwyTake h streams f s).frame := by
  unfold cwyTake; simp only; split
  · exact Keeps.refl _
  · split
    · exact Keeps.of_eq (count_frame ..)
    · split
      · exact Keeps.refl _
      · split
        · exact Keeps.of_eq (by simp only [sendAck_frame, cwyAck_frame])
        · split
          · next e =>
            exact ((Keeps.of_eq (by simp only [putPeer_frame, cwyAck_frame])).trans (hf _ _ e)).trans (Keeps.of_eq (sendAck_frame ..))
          · exact Keeps.of_eq (cwyAck_frame ..)

theorem holdBytes_frame (p : Piece) (s : State) : (holdBytes p s).frame = s.frame := by
  unfold holdBytes
  repeat' (first | simp only [frame_mk, frame_eta, apply_ite State.frame, ite_self] | (intro _) | (split) | rfl)

theorem chainPiece_frame (p : Piece) (s : State) : (chainPiece p s).frame = s.frame := by
  unfold chainPiece
  repeat' (first
                 | simp only [holdBytes_frame, chainPump_frame, chainReportUp_frame, chainRefuse_frame,
                     downloadPiece_frame, frame_mk, frame_eta, apply_ite State.frame, ite_self] | (intro _) | (split)
                 | rfl)

theorem abortImport_frame (m p : Nat) (s : State) : (abortImport m p s).frame = s.frame := by
  unfold abortImport
  simp only [drawn_frame, migEnd_frame, cwySend_frame]

theorem importNs_frame (m : Nat) (y : Migration) (msg : MigOpen) (key slot : Nat) (ext : List (Nat × Nat)) (s : State) :
    (importNs m y msg key slot ext s).frame = s.frame := by
  unfold importNs
  repeat' (first
                 | simp only [buildNs_frame, putNs_frame, putMig_frame, frame_mk, frame_eta, apply_ite State.frame,
                     ite_self] | (intro _) | (split) | rfl)

theorem importPtr_frame (nsid g : Nat) (n : Namespace) (s : State) : (importPtr nsid g n s).frame = s.frame := by
  unfold importPtr
  simp only [zoneAdvance_frame, apply_ite State.frame, ite_self]

theorem placeUnit_keeps {nsid : Nat} {r : UnitRecord} {s t : State} (h : placeUnit nsid r s = some t) : Keeps s.frame t.frame := by
  unfold placeUnit at h; split at h
  · simp only at h; split at h
    · cases h; exact Keeps.of_eq (declareUnitLost_frame ..)
    · split at h
      · exact zeroUnits_keeps h
      · split at h
        · cases h
        · split at h
          · cases h
          · cases h; exact (putDirty_keeps ..).trans (Keeps.of_eq (importPtr_frame ..))
  · cases h; exact Keeps.refl _

theorem importUnit_keeps {m p st : Nat} {r : UnitRecord} {s t : State} (h : importUnit m p st r s = some t) : Keeps s.frame t.frame := by
  unfold importUnit at h; split at h
  · cases h; exact Keeps.refl _
  · split at h
    · simp only at h; split at h
      · cases h; exact Keeps.of_eq (by simp only [putMig_frame, count_frame, cwySend_frame])
      · cases h; exact Keeps.of_eq (by split <;> simp only [declareUnitLost_frame, putMig_frame, count_frame, cwySend_frame])
    · simp only [Option.map_eq_some_iff] at h
      obtain ⟨r, hr, e⟩ := h
      cases e; exact (placeUnit_keeps hr).trans (Keeps.of_eq (putMig_frame ..))

theorem endTracts_frame (m : Nat) (s : State) : (endTracts m s).frame = s.frame := by
  unfold endTracts
  repeat' (first | simp only [putMig_frame, sendAck_frame] | (split)
                 | refine (eachOf_frame _ _ _ ?_).trans ?_ | (intro _))

theorem patchBank_frame (p : PatchSet) (f : Nat) (s : State) : (patchBank p f s).frame = s.frame := by
  unfold patchBank
  repeat' (first
                 | simp only [ucPutWord_frame, putMaster_frame, loadBank_frame] | refine (eachOf_frame _ _ _ ?_).trans ?_ | (intro _))

theorem commitRefuse_frame (status err : Nat) (s : State) : (commitRefuse status err s).frame = s.frame := by
  unfold commitRefuse
  simp only [wr_frame, commitEnd_frame]

theorem holdBegins_frame (k : Nat) (s : State) : (holdBegins k s).frame = s.frame := by
  unfold holdBegins
  repeat' (first | simp only [wr_frame, aenPost_frame, setPp_frame, frame_mk, frame_eta]
                 | refine (eachOf_frame _ _ _ ?_).trans ?_ | (intro _))

theorem activationBegin_frame (k : Nat) (i : FwImage) (s : State) : (activationBegin k i s).frame = s.frame := by
  unfold activationBegin
  repeat' (first
                 | simp only [powerWaitBusy_frame, commitRefuse_frame, holdBegins_frame, peatRecord_frame, wr_frame,
                     frame_mk, frame_eta, apply_ite State.frame, ite_self] | (intro _) | (split) | rfl)

theorem commitStore_frame (pend : Bool) (k : Nat) (s : State) : (commitStore pend k s).frame = s.frame := by
  unfold commitStore
  repeat' (first
                 | simp only [commitRefuse_frame, commitEnd_frame, putSel_frame, frame_mk, frame_eta, apply_ite
                     State.frame, ite_self] | (intro _) | (split) | rfl)

theorem commitNextReset_frame (k : Nat) (s : State) : (commitNextReset k s).frame = s.frame := by
  unfold commitNextReset
  repeat' (first
                 | simp only [commitEnd_frame, putSel_frame, commitRefuse_frame, frame_mk, frame_eta, apply_ite
                     State.frame, ite_self] | (intro _) | (split) | rfl)

theorem commitNow_frame (k : Nat) (s : State) : (commitNow k s).frame = s.frame := by
  unfold commitNow
  repeat' (first
                 | simp only [commitEnd_frame, commitRefuse_frame, activationBegin_frame, frame_mk, frame_eta, apply_ite
                     State.frame, ite_self] | (intro _) | (split) | rfl)

theorem fwCommit_frame (ca fs who : Nat) (s : State) : (fwCommit ca fs who s).frame = s.frame := by
  unfold fwCommit
  simp only [finishCmd_frame, taskEnd_frame, commitEnd_frame, commitStore_frame, commitNextReset_frame, commitNow_frame,
      frame_mk, frame_eta, apply_ite State.frame, ite_self]

theorem commitCmd_frame (n ca : Nat) (s : State) : (commitCmd n ca s).frame = s.frame := by
  unfold commitCmd
  repeat' (first | simp only [fwCommit_frame]
                 | refine (withCmd_frame (hf := ?_) ..).trans ?_ | (intro _))

theorem askReset_keeps (cause : Nat) (s : State) : Keeps s.frame (askReset cause s).frame := by
  unfold askReset; split
  · exact Keeps.refl _
  · next h => split
              · exact deviceReset_keeps _ _ (by simpa using h)
              · exact Keeps.of_eq (by simp only [frame_mk, frame_eta])

theorem bootStop_frame (s : State) : (bootStop s).frame = s.frame := by
  unfold bootStop
  simp only [glbRefresh_frame, bootNote_frame, frame_mk, frame_eta]

theorem autoReset_keeps (s : State) : Keeps s.frame (autoReset s).frame := by
  unfold autoReset
  repeat' (first | with_reducible exact Keeps.refl _ | dsimp only | with_reducible apply Keeps.ite ?_ ?_
                 | with_reducible apply Keeps.trans ?_ (askReset_keeps ..)
                 | with_reducible apply Keeps.trans ?_ (Keeps.of_eq (wr_frame _ _ _ _))
                 | with_reducible apply Keeps.trans ?_ (Keeps.of_eq (bootStop_frame ..)))

theorem noteFailure_frame (k code : Nat) (s : State) : (noteFailure k code s).frame = s.frame := by
  unfold noteFailure
  simp only [peatRecord_frame, setRecord_frame]

theorem tryFails_keeps (k code : Nat) (s : State) (hd : s.pwr.decided = false) : Keeps s.frame (tryFails k code s).frame := by
  unfold tryFails
  have h := noteFailure_frame k code s
  exact (Keeps.of_eq h).trans (deviceReset_keeps _ _ ((congrArg Frame.decided h).trans hd))

theorem stepFailWith_keeps (k code : Nat) (flags : BootRecord → BootRecord) (s : State) : Keeps s.frame (stepFailWith k code
    flags s).frame := by
  unfold stepFailWith
  repeat' (first | with_reducible exact Keeps.refl _ | dsimp only | with_reducible apply Keeps.ite ?_ ?_
                 | with_reducible apply Keeps.trans ?_ (autoReset_keeps ..)
                 | with_reducible apply Keeps.trans ?_ (Keeps.of_eq (setRecord_frame ..))
                 | with_reducible apply Keeps.trans ?_ (Keeps.of_eq (bootStop_frame ..))
                 | with_reducible apply Keeps.trans ?_ (Keeps.of_eq (noteFailure_frame ..)))

theorem stepFail_keeps (k code : Nat) (s : State) : Keeps s.frame (stepFail k code s).frame := by
  unfold stepFail
  repeat' (first | with_reducible exact Keeps.refl _ | with_reducible apply Keeps.trans ?_ (stepFailWith_keeps ..))

theorem seamFail_keeps (groups : List Nat) (s : State) : Keeps s.frame (seamFail groups s).frame := by
  unfold seamFail
  repeat' (first | with_reducible exact Keeps.refl _ | with_reducible apply Keeps.trans ?_ (stepFailWith_keeps ..))

theorem stepDone_frame (k ms : Nat) (alt : Bool) (s : State) : (stepDone k ms alt s).frame = s.frame := by
  unfold stepDone
  simp only [setRecord_frame, bootNote_frame, frame_mk, frame_eta, apply_ite State.frame, ite_self]

theorem clearFlag_frame (bit : Nat) (s : State) : (clearFlag bit s).frame = s.frame := by
  unfold clearFlag
  simp only [setRecord_frame]

theorem katFence_frame (u : PoolUnit) (s : State) : (katFence u s).frame = s.frame := by
  unfold katFence
  repeat' (first | simp only [fenceDecoder_frame, fenceCipher_frame, frame_mk, frame_eta, apply_ite State.frame, ite_self]
                 | (intro _) | (split) | rfl)

theorem bootStep1_keeps (x : BootFacts) (s : State) : Keeps s.frame (bootStep1 x s).frame := by
  unfold bootStep1
  repeat' (first | with_reducible exact Keeps.refl _ | dsimp only | with_reducible apply Keeps.ite ?_ ?_
                 | with_reducible apply Keeps.trans ?_ (fenceStack_keeps ..)
                 | with_reducible apply Keeps.trans ?_ (Keeps.of_eq (wr_frame _ _ _ _))
                 | with_reducible apply Keeps.trans ?_ (Keeps.of_eq (stepDone_frame ..))
                 | with_reducible apply Keeps.trans ?_ (Keeps.of_eq (clearFlag_frame ..))
                 | with_reducible apply Keeps.trans ?_ (Keeps.of_eq (katFence_frame ..)) | simp only [frame_mk, frame_eta]
                 | with_reducible apply Keeps.trans ?_ (eachOf_keeps _ _ _ ?_) | (intro _))

theorem bootStep2_frame (x : BootFacts) (s : State) : (bootStep2 x s).frame = s.frame := by
  unfold bootStep2
  repeat' (first | simp only [stepDone_frame, clearFlag_frame, frame_mk, frame_eta, apply_ite State.frame, ite_self]
                 | (intro _) | (split) | rfl)

theorem givePairs_frame (s : State) : (givePairs s).frame = s.frame := by
  unfold givePairs
  repeat' (first | simp only [wr_frame]
                 | refine (eachOf_frame _ _ _ ?_).trans ?_ | (intro _))

theorem bootStep3_keeps (x : BootFacts) (s : State) (hd : s.pwr.decided = false) : Keeps s.frame (bootStep3 x s).frame := by
  unfold bootStep3; simp only; split
  · split
    · exact tryFails_keeps _ _ _ hd
    · exact stepFail_keeps ..
  · exact Keeps.of_eq (by simp only [stepDone_frame, frame_mk, givePairs_frame, frame_eta])

theorem bootPatch_frame (s : State) : (bootPatch s).frame = s.frame := by
  unfold bootPatch
  repeat' (first
                 | simp only [wr_frame, peatRecord_frame, askSwitch_frame, patchBank_frame, apply_ite
                 State.frame] | (split) | refine (eachOf_frame _ _ _ ?_).trans ?_ | (intro _))

theorem runReginit_keeps (i : TwimaImage) (s : State) : Keeps s.frame (runReginit i s).frame := by
  unfold runReginit
  repeat' (first | with_reducible exact Keeps.refl _ | with_reducible apply Keeps.trans ?_ (reginitRun_keeps ..)
                 | with_reducible apply Keeps.trans ?_ (Keeps.of_eq (wr_frame _ _ _ _)))

theorem twimaApply_keeps (i : TwimaImage) (backup : Bool) (s : State) : Keeps s.frame (twimaApply i backup s).frame := by
  unfold twimaApply
  repeat' (first | with_reducible exact Keeps.refl _ | dsimp only
                 | with_reducible apply Keeps.trans ?_ (runReginit_keeps ..)
                 | with_reducible apply Keeps.trans ?_ (Keeps.of_eq (wr_frame _ _ _ _))
                 | with_reducible apply Keeps.trans ?_ (Keeps.of_eq (wrB_frame _ _ _ _))
                 | with_reducible apply Keeps.trans ?_ (Keeps.of_eq (logClamps_frame ..))
                 | with_reducible apply Keeps.trans ?_ (Keeps.of_eq (resNote_frame ..))
                 | with_reducible apply Keeps.trans ?_ (Keeps.of_eq (renewNonce_frame ..))
                 | with_reducible apply Keeps.trans ?_ (Keeps.of_eq (writeBank_frame ..))
                 | with_reducible apply Keeps.trans ?_ (Keeps.of_eq (htBoot_frame ..))
                 | with_reducible apply Keeps.trans ?_ (Keeps.of_eq (putChan_frame ..))
                 | with_reducible apply Keeps.trans ?_ (Keeps.of_eq (bootPatch_frame ..)) | simp only [frame_mk, frame_eta]
                 | with_reducible apply Keeps.trans ?_ (eachOf_keeps _ _ _ ?_) | (intro _))

theorem imageRefused_frame (which code : Nat) (s : State) : (imageRefused which code s).frame = s.frame := by
  unfold imageRefused
  simp only [wr_frame, peatRecord_frame, setRecord_frame]

theorem applyBackup_keeps (x : BootFacts) (s : State) : Keeps s.frame (applyBackup x s).frame := by
  unfold applyBackup
  repeat' (first | with_reducible exact Keeps.refl _ | dsimp only
                 | with_reducible apply Keeps.trans ?_ (twimaApply_keeps ..)
                 | with_reducible apply Keeps.trans ?_ (Keeps.of_eq (setRecord_frame ..))
                 | with_reducible apply Keeps.trans ?_ (Keeps.of_eq (bootStop_frame ..))
                 | with_reducible apply Keeps.trans ?_ (Keeps.of_eq (noteFailure_frame ..))
                 | with_reducible apply Keeps.trans ?_ (Keeps.of_eq (stepDone_frame ..))
                 | with_reducible apply Keeps.trans ?_ (Keeps.of_eq (imageRefused_frame ..)) | (split))

theorem bootStep4_keeps (x : BootFacts) (s : State) : Keeps s.frame (bootStep4 x s).frame := by
  unfold bootStep4
  repeat' (first | with_reducible exact Keeps.refl _ | with_reducible apply Keeps.ite ?_ ?_
                 | with_reducible apply Keeps.trans ?_ (twimaApply_keeps ..)
                 | with_reducible apply Keeps.trans ?_ (applyBackup_keeps ..)
                 | with_reducible apply Keeps.trans ?_ (Keeps.of_eq (stepDone_frame ..))
                 | with_reducible apply Keeps.trans ?_ (Keeps.of_eq (imageRefused_frame ..)) | (split))

theorem seamBegin_keeps (s : State) : Keeps s.frame (seamBegin s).frame := by
  unfold seamBegin
  repeat' (first | with_reducible exact Keeps.refl _ | dsimp only | with_reducible apply Keeps.ite ?_ ?_
                 | with_reducible apply Keeps.trans ?_ (seamEnable_keeps ..)
                 | with_reducible apply Keeps.trans ?_ (Keeps.of_eq (wr_frame _ _ _ _))
                 | with_reducible apply Keeps.trans ?_ (eachOf_keeps _ _ _ ?_) | (intro _))

theorem trainStack_keeps (x : BootFacts) (k : Nat) (s : State) : Keeps s.frame (trainStack x k s).frame := by
  unfold trainStack
  repeat' (first | with_reducible exact Keeps.refl _ | with_reducible apply Keeps.ite ?_ ?_
                 | with_reducible apply Keeps.trans ?_ (fenceStack_keeps ..)
                 | with_reducible apply Keeps.trans ?_ (Keeps.of_eq (wr_frame _ _ _ _))
                 | with_reducible apply Keeps.trans ?_ (Keeps.of_eq (setRecord_frame ..))
                 | with_reducible apply Keeps.trans ?_ (Keeps.of_eq (noteFailure_frame ..)))

theorem bootStep5_keeps (x : BootFacts) (s : State) : Keeps s.frame (bootStep5 x s).frame := by
  unfold bootStep5
  repeat' (first | with_reducible exact Keeps.refl _ | dsimp only | with_reducible apply Keeps.ite ?_ ?_
                 | with_reducible apply Keeps.trans ?_ (seamBegin_keeps ..)
                 | with_reducible apply Keeps.trans ?_ (trainStack_keeps ..)
                 | with_reducible apply Keeps.trans ?_ (Keeps.of_eq (wr_frame _ _ _ _))
                 | with_reducible apply Keeps.trans ?_ (Keeps.of_eq (bootStop_frame ..))
                 | with_reducible apply Keeps.trans ?_ (Keeps.of_eq (stepDone_frame ..))
                 | with_reducible apply Keeps.trans ?_ (eachOf_keeps _ _ _ ?_) | (intro _))

theorem bootStep6_keeps (x : BootFacts) (s : State) : Keeps s.frame (bootStep6 x s).frame := by
  unfold bootStep6
  repeat' (first | with_reducible exact Keeps.refl _ | dsimp only | with_reducible apply Keeps.ite ?_ ?_
                 | with_reducible apply Keeps.trans ?_ (seamFail_keeps ..)
                 | with_reducible apply Keeps.trans ?_ (Keeps.of_eq (wrB_frame _ _ _ _))
                 | with_reducible apply Keeps.trans ?_ (Keeps.of_eq (fenRefresh_frame ..))
                 | with_reducible apply Keeps.trans ?_ (Keeps.of_eq (setRecord_frame ..))
                 | with_reducible apply Keeps.trans ?_ (Keeps.of_eq (stepDone_frame ..)) | simp only [frame_mk, frame_eta]
                 | with_reducible apply Keeps.trans ?_ (eachOf_keeps _ _ _ ?_) | (intro _) | (split))

theorem sanitizeResume_keeps (s : State) : Keeps s.frame (sanitizeResume s).frame := by
  unfold sanitizeResume
  repeat' (first | with_reducible exact Keeps.refl _ | dsimp only | with_reducible apply Keeps.ite ?_ ?_
                 | with_reducible apply Keeps.trans ?_ (Keeps.of_eq (newKey_frame ..))
                 | with_reducible apply Keeps.trans ?_ (Keeps.of_eq (putKeySlot_frame ..))
                 | with_reducible apply Keeps.trans ?_ (unmapNs_keeps ..)
                 | with_reducible apply Keeps.trans ?_ (rekey_keeps ..)
                 | with_reducible apply Keeps.trans ?_ (labelErase_keeps ..) | (intro _)
                 | simp only [newKey_frame, putKeySlot_frame, frame_mk, frame_eta, apply_ite State.frame, ite_self]
                 | with_reducible refine Keeps.trans ?_ (eachOf_keeps _ _ _ ?_)
                 | with_reducible refine Keeps.trans ?_ (foldl_keeps _ _ _ ?_) | (split))

theorem bootStep7_keeps (x : BootFacts) (s : State) : Keeps s.frame (bootStep7 x s).frame := by
  unfold bootStep7
  repeat' (first | with_reducible exact Keeps.refl _ | dsimp only | with_reducible apply Keeps.ite ?_ ?_
                 | with_reducible apply Keeps.trans ?_ (Keeps.of_eq (stepDone_frame ..))
                 | with_reducible apply Keeps.trans ?_ (stepFail_keeps ..)
                 | with_reducible apply Keeps.trans ?_ (sanitizeResume_keeps ..)
                 | with_reducible apply Keeps.trans ?_ (step7_keeps ..) | (intro _)
                 | simp only [stepDone_frame, frame_mk, frame_eta, apply_ite State.frame, ite_self]
                 | with_reducible refine Keeps.trans ?_ (eachOf_keeps _ _ _ ?_)
                 | with_reducible refine Keeps.trans ?_ (foldl_keeps _ _ _ ?_) | (split))

theorem sealBoot_frame (a b : Bool) (s : State) : (sealBoot a b s).frame = s.frame := by
  unfold sealBoot
  simp only [wrB_frame, sealStat_frame, frame_mk, frame_eta]

theorem heldWrites_frame (l f : Nat) (s : State) : (heldWrites l f s).frame = s.frame := by
  unfold heldWrites
  repeat' (first
                 | simp only [putCtrl_frame, ccWrite_frame, putFunc_frame] | (split) | refine (eachOf_frame _ _ _ ?_).trans ?_ | (intro _))

theorem createControllers_frame (s : State) : (createControllers s).frame = s.frame := by
  unfold createControllers
  repeat' (first | simp only [createPcie_frame, heldWrites_frame]
                 | refine (eachOf_frame _ _ _ ?_).trans ?_ | (intro _))

theorem loadAddrs_frame (s : State) : (loadAddrs s).frame = s.frame := by
  unfold loadAddrs
  simp only [frame_mk, frame_eta]

theorem cwyBegin_frame (s : State) : (cwyBegin s).frame = s.frame := by
  unfold cwyBegin
  repeat' (first | simp only [sendHello_frame, apply_ite State.frame, ite_self]
                 | refine (eachOf_frame _ _ _ ?_).trans ?_ | (intro _))

theorem confirmTry_frame (s : State) : (confirmTry s).frame = s.frame := by
  unfold confirmTry
  repeat' (first | simp only [putSel_frame, wr_frame, frame_mk, frame_eta, apply_ite State.frame, ite_self] | (intro _)
                 | (split) | rfl)

theorem bootNotices_frame (s : State) : (bootNotices s).frame = s.frame := by
  unfold bootNotices
  repeat' (first | simp only [aenPost_frame, vendorNotice_frame, frame_mk, frame_eta, apply_ite State.frame, ite_self]
                 | (split) | refine (eachOf_frame _ _ _ ?_).trans ?_ | (intro _))

theorem bootStep8_frame (x : BootFacts) (s : State) : (bootStep8 x s).frame = s.frame := by
  unfold bootStep8
  repeat' (first
                 | simp only [wr_frame, glbRefresh_frame, memberAbsent_frame, startCheckpoint_frame, stepDone_frame,
                 clearFlag_frame, sealBoot_frame, createControllers_frame, loadAddrs_frame, cwyBegin_frame, confirmTry_frame,
                 bootNotices_frame, apply_ite State.frame, ite_self]
                 | refine (eachOf_frame _ _ _ ?_).trans ?_ | (intro _))

theorem bootResetWrite_keeps (p : AccessPath) (v : Nat) (s : State) : Keeps s.frame (bootResetWrite p v s).frame := by
  unfold bootResetWrite
  repeat' (first | with_reducible exact Keeps.refl _ | with_reducible apply Keeps.ite ?_ ?_
                 | with_reducible apply Keeps.trans ?_ (askReset_keeps ..)
                 | with_reducible apply Keeps.trans ?_ (Keeps.of_eq (regWrite_frame ..)))

theorem testMode_frame (s : State) : (testMode s).frame = s.frame := by
  unfold testMode
  simp only [bootStop_frame, frame_mk, frame_eta, apply_ite State.frame, ite_self]

theorem clkPresent_frame (c : RefClock) (v : Bool) (s : State) : (clkPresent c v s).frame = s.frame := by
  unfold clkPresent
  repeat' (first | simp only [wrB_frame, wrBit_frame] | (split))

theorem clkLock_frame (c : RefClock) (s : State) : (clkLock c s).frame = s.frame := by
  unfold clkLock
  repeat' (first | simp only [wr_frame, wrBit_frame] | (split))

theorem clkLoss_keeps (c : RefClock) (s : State) : Keeps s.frame (clkLoss c s).frame := by
  unfold clkLoss
  repeat' (first | with_reducible exact Keeps.refl _ | dsimp only | with_reducible apply Keeps.ite ?_ ?_
                 | with_reducible apply Keeps.trans ?_ (linkDown_keeps ..)
                 | with_reducible apply Keeps.trans ?_ (Keeps.of_eq (wr_frame _ _ _ _))
                 | with_reducible apply Keeps.trans ?_ (Keeps.of_eq (wrBit_frame _ _ _ _ _))
                 | with_reducible apply Keeps.trans ?_ (Keeps.of_eq (groupLost_frame ..))
                 | with_reducible apply Keeps.trans ?_ (Keeps.of_eq (ethPortDown_frame ..))
                 | with_reducible apply Keeps.trans ?_ (eachOf_keeps _ _ _ ?_) | (intro _) | (split))

theorem cusNonce_frame (s : State) : (cusNonce s).frame = s.frame := by
  unfold cusNonce
  simp only [frame_mk, frame_eta]

theorem openCus_frame (s : State) : (openCus s).frame = s.frame := by
  unfold openCus
  simp only [closeSession_frame, cusNonce_frame, frame_mk, frame_eta, apply_ite State.frame, ite_self]

theorem cusFail_frame (s : State) : (cusFail s).frame = s.frame := by
  unfold cusFail
  simp only [wr_frame, peatRecord_frame, cusNonce_frame, frame_mk, frame_eta]

theorem sessionWord_frame (w : Nat) (s : State) : (sessionWord w s).frame = s.frame := by
  unfold sessionWord
  simp only [peatRecord_frame, openCus_frame, cusFail_frame, frame_mk, frame_eta, apply_ite State.frame, ite_self]

theorem sessionClose_frame (s : State) : (sessionClose s).frame = s.frame := by
  unfold sessionClose
  simp only [closeSession_frame, apply_ite State.frame, ite_self]

theorem fillBuf_frame (w n v : Nat) (s : State) : (fillBuf w n v s).frame = s.frame := by
  unfold fillBuf
  repeat' (first | simp only [wr_frame]
                 | refine (eachOf_frame _ _ _ ?_).trans ?_ | (intro _))

theorem setRes_frame (i v : Nat) (s : State) : (setRes i v s).frame = s.frame := by
  unfold setRes
  simp only [wr_frame]

theorem setRes64_frame (i v : Nat) (s : State) : (setRes64 i v s).frame = s.frame := by
  unfold setRes64
  simp only [setRes_frame]

theorem taskGo_frame (op : Nat) (body : State → State) (s : State) (hf : ∀ s, (body s).frame = s.frame) : (taskGo op body
    s).frame = s.frame := by
  unfold taskGo; split
  · simp only [accessViolation_frame]
  · simp only; split <;> simp only [taskEnd_frame, hf, wr_frame, frame_mk, frame_eta]

theorem taskGo_keeps (op : Nat) (body : State → State) (s : State) (hf : ∀ s, Keeps s.frame (body s).frame) : Keeps s.frame
    (taskGo op body s).frame := by
  unfold taskGo; split
  · exact Keeps.of_eq (accessViolation_frame ..)
  · simp only; split
    · exact Keeps.of_eq (by simp only [taskEnd_frame, wr_frame, frame_mk, frame_eta])
    · refine Keeps.trans (Keeps.of_eq ?_) (hf _)
      simp only [wr_frame, frame_mk, frame_eta]

theorem taskDone_frame (r : Nat × State) : (taskDone r).frame = r.2.frame := by
  unfold taskDone; simp only [taskEnd_frame]

theorem taskLifeRead_frame (s : State) : (taskLifeRead s).frame = s.frame := by
  unfold taskLifeRead
  simp only [taskEnd_frame, setRes_frame, setRes64_frame]

theorem taskLifeSetUtc_frame (s : State) : (taskLifeSetUtc s).frame = s.frame := by
  unfold taskLifeSetUtc
  simp only [taskEnd_frame, frame_mk, frame_eta]

theorem taskSeal_frame (s : State) : (taskSeal s).frame = s.frame := by
  unfold taskSeal
  simp only [taskEnd_frame, sealClear_frame, sealSoft_frame, setRes_frame, apply_ite State.frame, ite_self]

theorem escrowTake_keeps (id key : Nat) (s : State) : Keeps s.frame (escrowTake id key s).frame := by
  unfold escrowTake
  repeat' (first | with_reducible exact Keeps.refl _ | dsimp only | with_reducible apply Keeps.ite ?_ ?_
                 | with_reducible apply Keeps.trans ?_ (Keeps.of_eq (labelWrite_frame ..))
                 | with_reducible apply Keeps.trans ?_ (Keeps.of_eq (putKeySlot_frame ..))
                 | with_reducible apply Keeps.trans ?_ (makeDurable_keeps ..) | (intro _)
                 | simp only [labelWrite_frame, putKeySlot_frame, frame_mk, frame_eta, apply_ite State.frame, ite_self]
                 | with_reducible refine Keeps.trans ?_ (eachOf_keeps _ _ _ ?_)
                 | with_reducible refine Keeps.trans ?_ (foldl_keeps _ _ _ ?_) | (split))

theorem taskEscrowImport_keeps (ok : Bool) (s : State) : Keeps s.frame (taskEscrowImport ok s).frame := by
  unfold taskEscrowImport
  repeat' (first | with_reducible exact Keeps.refl _ | dsimp only | with_reducible apply Keeps.ite ?_ ?_
                 | with_reducible apply Keeps.trans ?_ (Keeps.of_eq (taskEnd_frame ..))
                 | with_reducible apply Keeps.trans ?_ (escrowTake_keeps ..) | (intro _)
                 | simp only [taskEnd_frame, frame_mk, frame_eta, apply_ite State.frame, ite_self]
                 | with_reducible refine Keeps.trans ?_ (eachOf_keeps _ _ _ ?_)
                 | with_reducible refine Keeps.trans ?_ (foldl_keeps _ _ _ ?_) | (split))

theorem taskEscrowExport_frame (s : State) : (taskEscrowExport s).frame = s.frame := by
  unfold taskEscrowExport
  repeat' (first | simp only [taskEnd_frame, fillBuf_frame, frame_mk, frame_eta, apply_ite State.frame, ite_self]
                 | (intro _) | (split) | rfl)

theorem taskMemberRetire_frame (s : State) : (taskMemberRetire s).frame = s.frame := by
  unfold taskMemberRetire
  simp only [startDrain_frame, taskEnd_frame, apply_ite State.frame, ite_self]

theorem addMember_keeps (l f i : Nat) (cal : CalRow) (s : State) : Keeps s.frame (addMember l f i cal s).frame := by
  unfold addMember
  repeat' (first | with_reducible exact Keeps.refl _ | dsimp only | with_reducible apply Keeps.ite ?_ ?_
                 | with_reducible apply Keeps.trans ?_ (Keeps.of_eq (journal_frame ..))
                 | with_reducible apply Keeps.trans ?_ (Keeps.of_eq (reserveNote_frame ..))
                 | with_reducible apply Keeps.trans ?_ (Keeps.of_eq (fenRefresh_frame ..))
                 | with_reducible apply Keeps.trans ?_ (Keeps.of_eq (anchorWrite_frame ..))
                 | with_reducible apply Keeps.trans ?_ (Keeps.of_eq (witnessFirst_frame ..))
                 | with_reducible apply Keeps.trans ?_ (Keeps.of_eq (wr_frame ..))
                 | with_reducible apply Keeps.trans ?_ (makeDurable_keeps ..)
                 | with_reducible apply Keeps.trans ?_ (linkActive_keeps ..) | (intro _)
                 | simp only [journal_frame, reserveNote_frame, fenRefresh_frame, anchorWrite_frame, witnessFirst_frame,
                     wr_frame, frame_mk, frame_eta, apply_ite State.frame, ite_self]
                 | with_reducible refine Keeps.trans ?_ (eachOf_keeps _ _ _ ?_)
                 | with_reducible refine Keeps.trans ?_ (foldl_keeps _ _ _ ?_) | (split))

theorem taskMemberHotadd_keeps (cal : CalRow) (good : Bool) (s : State) : Keeps s.frame (taskMemberHotadd cal good s).frame
    := by
  unfold taskMemberHotadd
  repeat' (first | with_reducible exact Keeps.refl _ | dsimp only | with_reducible apply Keeps.ite ?_ ?_
                 | with_reducible apply Keeps.trans ?_ (addMember_keeps ..)
                 | with_reducible apply Keeps.trans ?_ (Keeps.of_eq (taskEnd_frame ..)))

theorem taskPeatExport_frame (s : State) : (taskPeatExport s).frame = s.frame := by
  unfold taskPeatExport
  repeat' (first
                 | simp only [taskEnd_frame, fillBuf_frame, setRes_frame, setRes64_frame, apply_ite
                 State.frame] | (split) | refine (eachOf_frame _ _ _ ?_).trans ?_ | (intro _))

theorem taskManifest_frame (s : State) : (taskManifest s).frame = s.frame := by
  unfold taskManifest
  simp only [taskEnd_frame, fillBuf_frame, apply_ite State.frame, ite_self]

theorem taskImageWrite_frame (piece : Piece) (s : State) : (taskImageWrite piece s).frame = s.frame := by
  unfold taskImageWrite
  repeat' (first
                 | simp only [taskEnd_frame, twimaPiece_frame, downloadPiece_frame, frame_mk, frame_eta, apply_ite
                     State.frame, ite_self] | (intro _) | (split) | rfl)

theorem taskTwimaPromote_keeps (s : State) : Keeps s.frame (taskTwimaPromote s).frame := by
  unfold taskTwimaPromote
  repeat' (first | with_reducible exact Keeps.refl _ | dsimp only | with_reducible apply Keeps.ite ?_ ?_
                 | with_reducible apply Keeps.trans ?_ (Keeps.of_eq (taskEnd_frame ..))
                 | with_reducible apply Keeps.trans ?_ (Keeps.of_eq (commitSlots_frame ..))
                 | with_reducible apply Keeps.trans ?_ (Keeps.of_eq (peatRecord_frame ..))
                 | with_reducible apply Keeps.trans ?_ (bootStep4_keeps ..) | (intro _)
                 | refine Keeps.trans ?_ (eachOf_keeps _ _ _ ?_)
                 | simp only [taskEnd_frame, commitSlots_frame, peatRecord_frame, frame_mk, frame_eta, apply_ite
                     State.frame, ite_self] | (split))

theorem taskFwCommit_frame (s : State) : (taskFwCommit s).frame = s.frame := by
  unfold taskFwCommit
  simp only [taskEnd_frame, fwCommit_frame, apply_ite State.frame, ite_self]

theorem taskRetireOld_keeps (s : State) : Keeps s.frame (taskRetireOld s).frame := by
  unfold taskRetireOld; dsimp only
  refine Keeps.ite (Keeps.of_eq (taskEnd_frame ..)) (Keeps.ite (Keeps.of_eq (taskEnd_frame ..)) (Keeps.ite (Keeps.of_eq
      (taskEnd_frame ..)) ?_))
  refine Keeps.trans ?_ (Keeps.of_eq (taskEnd_frame ..))
  exact ⟨rfl, rfl, id, rfl, rfl, Nat.le_max_left .., Nat.le_max_left ..⟩

theorem taskPeerSet_frame (ok : Bool) (s : State) : (taskPeerSet ok s).frame = s.frame := by
  unfold taskPeerSet
  repeat' (first
                 | simp only [taskDone_frame, peerSet_frame, taskEnd_frame, frame_mk, frame_eta, apply_ite State.frame,
                     ite_self] | (intro _) | (split) | rfl)

theorem taskDeviceReset_keeps (s : State) : Keeps s.frame (taskDeviceReset s).frame := by
  unfold taskDeviceReset
  repeat' (first | with_reducible exact Keeps.refl _ | dsimp only | with_reducible apply Keeps.ite ?_ ?_
                 | with_reducible apply Keeps.trans ?_ (askReset_keeps ..)
                 | with_reducible apply Keeps.trans ?_ (Keeps.of_eq (wr_frame _ _ _ _))
                 | with_reducible apply Keeps.trans ?_ (Keeps.of_eq (taskEnd_frame ..)))

theorem bmeClear_keeps (l f : Nat) (s : State) : Keeps s.frame (bmeClear l f s).frame := by
  unfold bmeClear
  repeat' (first | with_reducible exact Keeps.refl _ | dsimp only | with_reducible apply Keeps.ite ?_ ?_
                 | with_reducible apply Keeps.trans ?_ (dmaHostGone_keeps ..)
                 | with_reducible apply Keeps.trans ?_ (Keeps.of_eq (putCtrl_frame ..))
                 | with_reducible apply Keeps.trans ?_ (Keeps.of_eq (drawn_frame ..))
                 | with_reducible apply Keeps.trans ?_ (Keeps.of_eq (ctrlReset_frame ..))
                 | with_reducible apply Keeps.trans ?_ (Keeps.of_eq (putFunc_frame ..)) | (split))

theorem d3hot_frame (l f : Nat) (s : State) : (d3hot l f s).frame = s.frame := by
  unfold d3hot
  repeat' (first
                 | simp only [ctrlReset_frame, shutdownBegin_frame, putFunc_frame, apply_ite
                 State.frame, ite_self] | (split))

theorem numVfsWrite_frame (l f v : Nat) (s : State) : (numVfsWrite l f v s).frame = s.frame := by
  unfold numVfsWrite
  simp only [putFunc_frame, apply_ite State.frame, ite_self]

theorem vfEnableWrite_keeps (l f : Nat) (on : Bool) (s : State) : Keeps s.frame (vfEnableWrite l f on s).frame := by
  unfold vfEnableWrite
  repeat' (first | with_reducible exact Keeps.refl _ | dsimp only | with_reducible apply Keeps.ite ?_ ?_
                 | with_reducible apply Keeps.trans ?_ (vfsReset_keeps ..)
                 | with_reducible apply Keeps.trans ?_ (Keeps.of_eq (putFunc_frame ..))
                 | with_reducible apply Keeps.trans ?_ (Keeps.of_eq (funcsNote_frame ..))
                 | with_reducible apply Keeps.trans ?_ (Keeps.of_eq (createPcie_frame ..))
                 | with_reducible apply Keeps.trans ?_ (Keeps.of_eq (dropPcie_frame ..))
                 | with_reducible apply Keeps.trans ?_ (eachOf_keeps _ _ _ ?_) | (intro _))

theorem sendPending_frame (l f : Nat) (s : State) : (sendPending l f s).frame = s.frame := by
  unfold sendPending
  repeat' (first | simp only [sendVector_frame] | (split)
                 | refine (eachOf_frame _ _ _ ?_).trans ?_ | (intro _))

theorem doeAbort_frame (l : Nat) (s : State) : (doeAbort l s).frame = s.frame := by
  unfold doeAbort
  simp only [doeDrop_frame]

theorem cfgWrite_keeps (l f reg value en : Nat) (s : State) : Keeps s.frame (cfgWrite l f reg value en s).frame := by
  unfold cfgWrite
  repeat' (first | with_reducible exact Keeps.refl _ | dsimp only | with_reducible apply Keeps.ite ?_ ?_
                 | with_reducible apply Keeps.trans ?_ (flr_keeps ..)
                 | with_reducible apply Keeps.trans ?_ (bmeClear_keeps ..)
                 | with_reducible apply Keeps.trans ?_ (vfEnableWrite_keeps ..)
                 | with_reducible apply Keeps.trans ?_ (Keeps.of_eq (putFunc_frame ..))
                 | with_reducible apply Keeps.trans ?_ (Keeps.of_eq (d3hot_frame ..))
                 | with_reducible apply Keeps.trans ?_ (Keeps.of_eq (numVfsWrite_frame ..))
                 | with_reducible apply Keeps.trans ?_ (Keeps.of_eq (sendPending_frame ..))
                 | with_reducible apply Keeps.trans ?_ (Keeps.of_eq (doeAbort_frame ..)))

theorem doeSend_frame (l kind : Nat) (payload : List Nat) (s : State) : (doeSend l kind payload s).frame = s.frame := by
  unfold doeSend
  simp only [emit_frame, doeDrop_frame]

theorem spdmError_frame (l code : Nat) (s : State) : (spdmError l code s).frame = s.frame := by
  unfold spdmError
  simp only [doeSend_frame]

theorem spdmAt_frame (l stage kind : Nat) (payload : State → List Nat) (s : State) : (spdmAt l stage kind payload s).frame =
    s.frame := by
  unfold spdmAt; split <;> simp only [spdmError_frame, doeSend_frame]

theorem spdmSet_frame (l stage : Nat) (s : State) : (spdmSet l stage s).frame = s.frame := by
  unfold spdmSet
  simp only [frame_mk, frame_eta]

theorem hostReadError_frame (c cause : Nat) (s : State) : (hostReadError c cause s).frame = s.frame := by
  unfold hostReadError
  repeat' (first | simp only [dmaError_frame] | (split))

theorem rcClear_frame (expert : Bool) (r : Reg) (i : Nat) (s : State) : (rcClear expert r i s).frame = s.frame := by
  unfold rcClear
  repeat' (first | simp only [wr_frame, apply_ite State.frame, ite_self]
                 | refine (eachOf_frame _ _ _ ?_).trans ?_ | (intro _))

theorem readLatch_frame (p : AccessPath) (r : Reg) (i : Nat) (s : State) : (readLatch p r i s).frame = s.frame := by
  unfold readLatch
  simp only [putUse_frame, mbxPop_frame, frame_mk, frame_eta, apply_ite State.frame, ite_self]

theorem readEffects_frame (p : AccessPath) (off : Nat) (s : State) : (readEffects p off s).frame = s.frame := by
  unfold readEffects
  repeat' (first | simp only [rcClear_frame, readLatch_frame, frame_mk, frame_eta, apply_ite State.frame] | (split))

theorem accessRead_frame (p : AccessPath) (off nbytes : Nat) (s : State) : (accessRead p off nbytes s).frame = s.frame := by
  unfold accessRead
  repeat' (first
                 | simp only [accessViolation_frame, answer_frame, expertUse_frame, readEffects_frame, frame_mk,
                     frame_eta, apply_ite State.frame, ite_self] | (intro _) | (split) | rfl)

theorem taskBody_keeps (free : Bool) (op : Nat) (s : State) : Keeps s.frame (taskBody free op s).frame := by
  unfold taskBody
  repeat' (first | with_reducible exact Keeps.refl _ | dsimp only | with_reducible apply Keeps.ite ?_ ?_
                 | with_reducible apply Keeps.trans ?_ (Keeps.of_eq (taskLifeRead_frame ..))
                 | with_reducible apply Keeps.trans ?_ (Keeps.of_eq (taskLifeSetUtc_frame ..))
                 | with_reducible apply Keeps.trans ?_ (Keeps.of_eq (taskSeal_frame ..))
                 | with_reducible apply Keeps.trans ?_ (Keeps.of_eq (taskEscrowExport_frame ..))
                 | with_reducible apply Keeps.trans ?_ (Keeps.of_eq (taskMemberRetire_frame ..))
                 | with_reducible apply Keeps.trans ?_ (Keeps.of_eq (taskEnd_frame ..))
                 | with_reducible apply Keeps.trans ?_ (Keeps.of_eq (taskPeatExport_frame ..))
                 | with_reducible apply Keeps.trans ?_ (Keeps.of_eq (taskManifest_frame ..))
                 | with_reducible apply Keeps.trans ?_ (Keeps.of_eq (taskImageWrite_frame ..))
                 | with_reducible apply Keeps.trans ?_ (Keeps.of_eq (taskFwCommit_frame ..))
                 | with_reducible apply Keeps.trans ?_ (Keeps.of_eq (taskPeerSet_frame ..))
                 | with_reducible apply Keeps.trans ?_ (Keeps.of_eq (taskDone_frame ..))
                 | with_reducible apply Keeps.trans ?_ (Keeps.of_eq (chainStart_frame ..))
                 | with_reducible apply Keeps.trans ?_ (Keeps.of_eq (migExport_frame ..))
                 | with_reducible apply Keeps.trans ?_ (Keeps.of_eq (migImport_frame ..))
                 | with_reducible apply Keeps.trans ?_ (Keeps.of_eq (migFreeze_frame ..))
                 | with_reducible apply Keeps.trans ?_ (taskEscrowImport_keeps ..)
                 | with_reducible apply Keeps.trans ?_ (taskMemberHotadd_keeps ..)
                 | with_reducible apply Keeps.trans ?_ (taskTwimaPromote_keeps ..)
                 | with_reducible apply Keeps.trans ?_ (taskRetireOld_keeps ..)
                 | with_reducible apply Keeps.trans ?_ (taskDeviceReset_keeps ..) | (intro _)
                 | simp only [taskLifeRead_frame, taskLifeSetUtc_frame, taskSeal_frame, taskEscrowExport_frame,
                     taskMemberRetire_frame, taskEnd_frame, taskPeatExport_frame, taskManifest_frame, taskImageWrite_frame,
                     taskFwCommit_frame, taskPeerSet_frame, taskDone_frame, chainStart_frame, migExport_frame,
                     migImport_frame, migFreeze_frame, frame_mk, frame_eta, apply_ite State.frame, ite_self]
                 | with_reducible refine Keeps.trans ?_ (eachOf_keeps _ _ _ ?_)
                 | with_reducible refine Keeps.trans ?_ (foldl_keeps _ _ _ ?_) | (split))

theorem taskByOpcode_keeps (op : Nat) (s : State) : Keeps s.frame (taskByOpcode op s).frame := by
  unfold taskByOpcode; refine Keeps.trans (Keeps.of_eq ?_) (taskGo_keeps _ _ _ (fun _ => taskBody_keeps ..))
  split <;> simp only [drawn_frame]

theorem taskCmdWrite_keeps (v : Nat) (s : State) : Keeps s.frame (taskCmdWrite v s).frame := by
  unfold taskCmdWrite
  repeat' (first | with_reducible exact Keeps.refl _ | with_reducible apply Keeps.ite ?_ ?_
                 | with_reducible apply Keeps.trans ?_ (taskByOpcode_keeps ..)
                 | with_reducible apply Keeps.trans ?_ (Keeps.of_eq (regWrite_frame ..)))

theorem deviceWrite_keeps (p : AccessPath) (off value : Nat) (s : State) : Keeps s.frame (deviceWrite p off value s).frame := by
  unfold deviceWrite
  repeat' (first | with_reducible exact Keeps.refl _ | with_reducible apply Keeps.ite ?_ ?_
                 | with_reducible apply Keeps.trans ?_ (blockWrite_keeps ..)
                 | with_reducible apply Keeps.trans ?_ (bootResetWrite_keeps ..)
                 | with_reducible apply Keeps.trans ?_ (taskCmdWrite_keeps ..)
                 | with_reducible apply Keeps.trans ?_ (Keeps.of_eq (sessionWord_frame ..))
                 | with_reducible apply Keeps.trans ?_ (Keeps.of_eq (sessionClose_frame ..)))

theorem windowRead_frame (s : State) : (windowRead s).frame = s.frame := by
  unfold windowRead
  simp only [wr_frame, readEffects_frame]

theorem windowWrite_keeps (s : State) : Keeps s.frame (windowWrite s).frame := by
  unfold windowWrite
  repeat' (first | with_reducible exact Keeps.refl _ | dsimp only | with_reducible apply Keeps.ite ?_ ?_
                 | with_reducible apply Keeps.trans ?_ (deviceWrite_keeps ..)
                 | with_reducible apply Keeps.trans ?_ (Keeps.of_eq (accessViolation_frame ..)))

theorem winCtlWrite_keeps (value : Nat) (s : State) : Keeps s.frame (winCtlWrite value s).frame := by
  unfold winCtlWrite
  repeat' (first | with_reducible exact Keeps.refl _ | with_reducible apply Keeps.ite ?_ ?_
                 | with_reducible apply Keeps.trans ?_ (windowWrite_keeps ..)
                 | with_reducible apply Keeps.trans ?_ (Keeps.of_eq (accessViolation_frame ..))
                 | with_reducible apply Keeps.trans ?_ (Keeps.of_eq (windowRead_frame ..)))

theorem accessWrite_keeps (p : AccessPath) (off nbytes value : Nat) (s : State) : Keeps s.frame (accessWrite p off
    nbytes value s).frame := by
  unfold accessWrite
  repeat' (first | with_reducible exact Keeps.refl _ | dsimp only | with_reducible apply Keeps.ite ?_ ?_
                 | with_reducible apply Keeps.trans ?_ (Keeps.of_eq (accessViolation_frame ..))
                 | with_reducible apply Keeps.trans ?_ (Keeps.of_eq (expertUse_frame ..))
                 | with_reducible apply Keeps.trans ?_ (winCtlWrite_keeps ..)
                 | with_reducible apply Keeps.trans ?_ (deviceWrite_keeps ..) | (intro _)
                 | refine Keeps.trans ?_ (eachOf_keeps _ _ _ ?_)
                 | simp only [accessViolation_frame, expertUse_frame, frame_mk, frame_eta, apply_ite State.frame,
                     ite_self] | (split))

theorem readDwords_frame (rd : Nat → State → Nat × State) (ds : List (Nat × Nat × Nat × Nat)) (s : State) (hf : ∀ n s, (rd n
    s).2.frame = s.frame) : (readDwords rd ds s).2.frame = s.frame := by
  unfold readDwords
  suffices H : ∀ (l : List (Nat × Nat × Nat × Nat)) (a : Nat × State), (l.foldl (fun a d =>
      let r := rd d.1 a.2
      (a.1 + bits r.1 (8 * d.2.1) (8 * d.2.2.1) * 2 ^ (8 * d.2.2.2), r.2)) a).2.frame = a.2.frame from H _ _
  intro l; induction l with
  | nil => intro a; rfl
  | cons e l ih => intro a; simp only [List.foldl_cons, ih, hf]

theorem writeDwords_frame (wr : Nat → Nat → Nat → State → State) (value : Nat) (ds : List (Nat × Nat × Nat × Nat)) (s :
    State) (hf : ∀ a b c s, (wr a b c s).frame = s.frame) : (writeDwords wr value ds s).frame = s.frame := by
  unfold writeDwords; refine eachOf_frame _ _ _ ?_; intro _ _; exact hf ..

theorem writeDwords_keeps (wr : Nat → Nat → Nat → State → State) (value : Nat) (ds : List (Nat × Nat × Nat × Nat)) (s :
    State) (hf : ∀ a b c s, Keeps s.frame (wr a b c s).frame) : Keeps s.frame (writeDwords wr value ds s).frame := by
  unfold writeDwords; refine eachOf_keeps _ _ _ ?_; intro _ _; exact hf ..

theorem expertRead_frame (l : Fin 8) (f : Fin 4) (off : Nat) (s : State) : (expertRead l f off s).2.frame = s.frame := by
  unfold expertRead
  repeat' (first | simp only [accessRead_frame] | (split))

theorem expertRead_frame' {l : Fin 8} {f : Fin 4} {off : Nat} {s : State} {av : Nat} {tv : State} (h : expertRead l f off s =
    (av, tv)) : tv.frame = s.frame := by
  have := expertRead_frame l f off s; rw [h] at this; exact this

theorem expertWrite_keeps (l : Fin 8) (f : Fin 4) (off nbytes value : Nat) (s : State) : Keeps s.frame (expertWrite l f off
    nbytes value s).frame := by
  unfold expertWrite
  repeat' (first | with_reducible exact Keeps.refl _ | dsimp only | with_reducible apply Keeps.ite ?_ ?_
                 | with_reducible apply Keeps.trans ?_ (accessWrite_keeps ..)
                 | with_reducible apply Keeps.trans ?_ (Keeps.of_eq (accessViolation_frame ..)) | (split))

theorem expertTlp_keeps (l : Fin 8) (f : Fin 4) (off n : Nat) (write : Bool) (value : Nat) (s : State) : Keeps s.frame
    (expertTlp l f off n write value s).frame := by
  unfold expertTlp; dsimp only; refine Keeps.ite (writeDwords_keeps _ _ _ _ (fun _ _ _ _ => expertWrite_keeps ..))
      (Keeps.of_eq ?_)
  rw [emit_frame, readDwords_frame _ _ _ (fun _ _ => expertRead_frame ..)]

theorem putFuncReg_frame (l f k v : Nat) (s : State) : (putFuncReg l f k v s).frame = s.frame := by
  unfold putFuncReg
  simp only [putFunc_frame]

theorem propWrite_frame (l f off v : Nat) (s : State) : (propWrite l f off v s).frame = s.frame := by
  unfold propWrite
  repeat' (first
                 | simp only [putCtrl_frame, ccWrite_frame, putFuncReg_frame, apply_ite State.frame,
                 ite_self] | (split))

theorem msixWrite_frame (l f x v : Nat) (s : State) : (msixWrite l f x v s).frame = s.frame := by
  unfold msixWrite
  repeat' (first
                 | simp only [putCtrl_frame, sendVector_frame, putFuncReg_frame, apply_ite State.frame] | (split))

theorem barRead_frame (l f off : Nat) (s : State) : (barRead l f off s).2.frame = s.frame := by
  unfold barRead
  repeat' (first | simp only [drawn_frame] | (split))

theorem barRead_frame' {l f off : Nat} {s : State} {av : Nat} {tv : State} (h : barRead l f off s = (av, tv)) : tv.frame =
    s.frame := by
  have := barRead_frame l f off s; rw [h] at this; exact this

theorem doorbellWrite_frame (l f x v : Nat) (s : State) : (doorbellWrite l f x v s).frame = s.frame := by
  unfold doorbellWrite
  repeat' (first | simp only [sqDoorbell_frame, cqDoorbell_frame, apply_ite State.frame, ite_self]
                 | (split))

theorem barWrite_frame (l f off nbytes v : Nat) (s : State) : (barWrite l f off nbytes v s).frame = s.frame := by
  unfold barWrite
  simp only [propWrite_frame, msixWrite_frame, doorbellWrite_frame, apply_ite State.frame, ite_self]

theorem memUnsupported_frame (l f : Nat) (s : State) : (memUnsupported l f s).frame = s.frame := by
  unfold memUnsupported
  simp only [emit_frame, aerUncorr_frame]

theorem sensorRegs_frame (temps : List (Option Int)) (s : State) : (sensorRegs temps s).frame = s.frame := by
  unfold sensorRegs
  repeat' (first | simp only [wr_frame] | (split)
                 | refine (eachOf_frame _ _ _ ?_).trans ?_ | (intro _))

theorem thermState_frame (f ev : Field) (v : Bool) (s : State) : (thermState f ev v s).frame = s.frame := by
  unfold thermState
  simp only [wr_frame, wrB_frame, apply_ite State.frame, ite_self]

theorem junctionNote_frame (first : Bool) (t : Int) (s : State) : (junctionNote first t s).frame = s.frame := by
  unfold junctionNote
  simp only [wr_frame]

theorem thermAct_frame (valid : Nat) (t : Int) (s : State) : (thermAct valid t s).frame = s.frame := by
  unfold thermAct
  simp only [wrB_frame, thermState_frame, frame_mk, frame_eta]

end Sys2Proof.Machine
end

