-- ==== Sys2Proof/Laws/FrameExec1.lean ====
section
/-! SUPPORT. Every command completes and keeps what FrameBase names. -/

namespace Sys2Proof.Machine

open Sys2Proof

theorem execSumpRowProgram_keeps (ltn : Ltn) (row : Nat) (cause : RowCause) (failSlot : Option (Fin 28)) (s : State) : ∃
    t, execSumpRowProgram ltn row cause failSlot s = .next t ∧ Keeps s.frame t.frame := by
  refine ⟨_, rfl, ?_⟩
  repeat' (first | with_reducible exact Keeps.refl _ | dsimp only
                 | with_reducible apply Keeps.trans ?_ (Keeps.of_eq (begin_frame ..))
                 | with_reducible apply Keeps.trans ?_ (destageRow_keeps ..) | with_reducible apply Keeps.ite ?_ ?_
                 | (intro _) | simp only [begin_frame, frame_mk, frame_eta, apply_ite State.frame, ite_self]
                 | with_reducible refine Keeps.trans ?_ (eachOf_keeps _ _ _ ?_)
                 | with_reducible refine Keeps.trans ?_ (foldl_keeps _ _ _ ?_) | (split))

theorem execRowIdleTimeout_keeps (ltn : Ltn) (row : Nat) (s : State) : ∃ t, execRowIdleTimeout ltn row s = .next t ∧ Keeps
    s.frame t.frame := by
  refine ⟨_, rfl, ?_⟩
  repeat' (first | with_reducible exact Keeps.refl _ | dsimp only | with_reducible apply Keeps.ite ?_ ?_
                 | with_reducible apply Keeps.trans ?_ (Keeps.of_eq (begin_frame ..)) | simp only [frame_mk, frame_eta])

theorem execFoldStart_keeps (ltn : Ltn) (cause : FoldCause) (s : State) : ∃ t, execFoldStart ltn cause s = .next t ∧
    Keeps s.frame t.frame := by
  refine ⟨_, rfl, ?_⟩
  repeat' (first | with_reducible exact Keeps.refl _ | dsimp only
                 | with_reducible apply Keeps.trans ?_ (Keeps.of_eq (begin_frame ..))
                 | with_reducible apply Keeps.trans ?_ (startFold_keeps ..) | with_reducible apply Keeps.ite ?_ ?_
                 | (intro _) | simp only [begin_frame, frame_mk, frame_eta, apply_ite State.frame, ite_self]
                 | with_reducible refine Keeps.trans ?_ (eachOf_keeps _ _ _ ?_)
                 | with_reducible refine Keeps.trans ?_ (foldl_keeps _ _ _ ?_) | (split))

theorem execFoldDone_keeps (ltn : Ltn) (failSlot : Option (Fin 28)) (s : State) : ∃ t, execFoldDone ltn failSlot s =
    .next t ∧ Keeps s.frame t.frame := by
  refine ⟨_, rfl, ?_⟩
  repeat' (first | with_reducible exact Keeps.refl _ | dsimp only
                 | with_reducible apply Keeps.trans ?_ (Keeps.of_eq (begin_frame ..))
                 | with_reducible apply Keeps.trans ?_ (Keeps.of_eq (skipAbsent_frame ..))
                 | with_reducible apply Keeps.trans ?_ (Keeps.of_eq (copyUnits_frame ..))
                 | with_reducible apply Keeps.trans ?_ (Keeps.of_eq (parityRows_frame ..))
                 | with_reducible apply Keeps.trans ?_ (Keeps.of_eq (setFrontier_frame ..))
                 | with_reducible apply Keeps.trans ?_ (Keeps.of_eq (journal_frame ..))
                 | with_reducible apply Keeps.trans ?_ (Keeps.of_eq (mapNote_frame ..))
                 | with_reducible apply Keeps.trans ?_ (Keeps.of_eq (freeSumps_frame ..))
                 | with_reducible apply Keeps.trans ?_ (failSlotOf_keeps ..)
                 | with_reducible apply Keeps.trans ?_ (foldPassed_keeps ..) | with_reducible apply Keeps.ite ?_ ?_
                 | (intro _)
                 | simp only [begin_frame, skipAbsent_frame, copyUnits_frame, parityRows_frame, setFrontier_frame,
                     journal_frame, mapNote_frame, freeSumps_frame, frame_mk, frame_eta, apply_ite State.frame, ite_self]
                 | with_reducible refine Keeps.trans ?_ (eachOf_keeps _ _ _ ?_)
                 | with_reducible refine Keeps.trans ?_ (foldl_keeps _ _ _ ?_) | (split))

theorem execMergeStart_keeps (ltn : Ltn) (due : Bool) (s : State) : ∃ t, execMergeStart ltn due s = .next t ∧ Keeps s.frame
    t.frame := by
  refine ⟨_, rfl, ?_⟩
  repeat' (first | with_reducible exact Keeps.refl _ | with_reducible apply Keeps.ite ?_ ?_
                 | with_reducible apply Keeps.trans ?_ (Keeps.of_eq (begin_frame ..))
                 | with_reducible apply Keeps.trans ?_ (Keeps.of_eq (startMerge_frame ..)))

theorem execMergeCommit_keeps (ltn : Ltn) (s : State) : ∃ t, execMergeCommit ltn s = .next t ∧ Keeps s.frame t.frame := by
  refine ⟨_, rfl, ?_⟩
  repeat' (first | with_reducible exact Keeps.refl _ | dsimp only
                 | with_reducible apply Keeps.trans ?_ (Keeps.of_eq (begin_frame ..))
                 | with_reducible apply Keeps.trans ?_ (Keeps.of_eq (refreshDone_frame ..))
                 | with_reducible apply Keeps.trans ?_ (Keeps.of_eq (mergeEnd_frame ..))
                 | with_reducible apply Keeps.trans ?_ (Keeps.of_eq (commitStripe_frame ..))
                 | with_reducible apply Keeps.trans ?_ (Keeps.of_eq (journal_frame ..))
                 | with_reducible apply Keeps.trans ?_ (Keeps.of_eq (releaseAfter_frame ..))
                 | with_reducible apply Keeps.trans ?_ (Keeps.of_eq (count_frame ..))
                 | with_reducible apply Keeps.trans ?_ (Keeps.of_eq (mapNote_frame ..))
                 | with_reducible apply Keeps.trans ?_ (Keeps.of_eq (freeSumps_frame ..))
                 | with_reducible apply Keeps.trans ?_ (destaged_keeps ..)
                 | with_reducible apply Keeps.trans ?_ (makeDurable_keeps ..) | with_reducible apply Keeps.ite ?_ ?_
                 | (intro _)
                 | simp only [begin_frame, refreshDone_frame, mergeEnd_frame, commitStripe_frame, journal_frame,
                     releaseAfter_frame, count_frame, mapNote_frame, freeSumps_frame, frame_mk, frame_eta, apply_ite
                     State.frame, ite_self] | with_reducible refine Keeps.trans ?_ (eachOf_keeps _ _ _ ?_)
                 | with_reducible refine Keeps.trans ?_ (foldl_keeps _ _ _ ?_) | (split))

theorem execRefreshCopyStart_keeps (ltn : Ltn) (evacuation : Bool) (s : State) : ∃ t, execRefreshCopyStart ltn
    evacuation s = .next t ∧ Keeps s.frame t.frame := by
  refine ⟨_, rfl, ?_⟩
  repeat' (first | with_reducible exact Keeps.refl _ | dsimp only
                 | with_reducible apply Keeps.trans ?_ (Keeps.of_eq (begin_frame ..))
                 | with_reducible apply Keeps.trans ?_ (Keeps.of_eq (startCopy_frame ..))
                 | with_reducible apply Keeps.ite ?_ ?_ | (intro _)
                 | simp only [begin_frame, startCopy_frame, frame_mk, frame_eta, apply_ite State.frame, ite_self]
                 | with_reducible refine Keeps.trans ?_ (eachOf_keeps _ _ _ ?_)
                 | with_reducible refine Keeps.trans ?_ (foldl_keeps _ _ _ ?_) | (split))

theorem execRefreshCopyCommit_keeps (ltn : Ltn) (s : State) : ∃ t, execRefreshCopyCommit ltn s = .next t ∧ Keeps s.frame
    t.frame := by
  refine ⟨_, rfl, ?_⟩
  repeat' (first | with_reducible exact Keeps.refl _ | dsimp only
                 | with_reducible apply Keeps.trans ?_ (Keeps.of_eq (begin_frame ..))
                 | with_reducible apply Keeps.trans ?_ (Keeps.of_eq (refreshDone_frame ..))
                 | with_reducible apply Keeps.trans ?_ (Keeps.of_eq (mapNote_frame ..))
                 | with_reducible apply Keeps.trans ?_ (Keeps.of_eq (commitStripe_frame ..))
                 | with_reducible apply Keeps.trans ?_ (makeDurable_keeps ..) | with_reducible apply Keeps.ite ?_ ?_
                 | (intro _)
                 | simp only [begin_frame, refreshDone_frame, mapNote_frame, commitStripe_frame, frame_mk, frame_eta,
                     apply_ite State.frame, ite_self] | with_reducible refine Keeps.trans ?_ (eachOf_keeps _ _ _ ?_)
                 | with_reducible refine Keeps.trans ?_ (foldl_keeps _ _ _ ?_) | (split))

theorem execBlockBackgroundErase_keeps (link : Link) (block : Nat) (ok : Bool) (s : State) : ∃ t,
    execBlockBackgroundErase link block ok s = .next t ∧ Keeps s.frame t.frame := by
  refine ⟨_, rfl, ?_⟩
  repeat' (first | with_reducible exact Keeps.refl _ | dsimp only
                 | with_reducible apply Keeps.trans ?_ (Keeps.of_eq (begin_frame ..))
                 | with_reducible apply Keeps.trans ?_ (Keeps.of_eq (wipeBlock_frame ..))
                 | with_reducible apply Keeps.trans ?_ (Keeps.of_eq (putBlock_frame ..))
                 | with_reducible apply Keeps.trans ?_ (Keeps.of_eq (wornCheck_frame ..))
                 | with_reducible apply Keeps.trans ?_ (spoilBlock_keeps ..) | with_reducible apply Keeps.ite ?_ ?_
                 | (intro _)
                 | simp only [begin_frame, wipeBlock_frame, putBlock_frame, wornCheck_frame, frame_mk, frame_eta,
                     apply_ite State.frame, ite_self] | with_reducible refine Keeps.trans ?_ (eachOf_keeps _ _ _ ?_)
                 | with_reducible refine Keeps.trans ?_ (foldl_keeps _ _ _ ?_) | (split))

theorem execJournalRowProgram_keeps (waiter : Bool) (ok : Bool) (s : State) : ∃ t, execJournalRowProgram waiter ok s =
    .next t ∧ Keeps s.frame t.frame := by
  refine ⟨_, rfl, ?_⟩
  repeat' (first | with_reducible exact Keeps.refl _ | dsimp only
                 | with_reducible apply Keeps.trans ?_ (Keeps.of_eq (begin_frame ..))
                 | with_reducible apply Keeps.trans ?_ (programJournal_keeps ..) | with_reducible apply Keeps.ite ?_ ?_
                 | (intro _) | simp only [begin_frame, frame_mk, frame_eta, apply_ite State.frame, ite_self]
                 | with_reducible refine Keeps.trans ?_ (eachOf_keeps _ _ _ ?_)
                 | with_reducible refine Keeps.trans ?_ (foldl_keeps _ _ _ ?_) | (split))

theorem execJournalRowTimeout_keeps (s : State) : ∃ t, execJournalRowTimeout s = .next t ∧ Keeps s.frame t.frame := by
  refine ⟨_, rfl, ?_⟩
  repeat' (first | with_reducible exact Keeps.refl _ | dsimp only
                 | with_reducible apply Keeps.trans ?_ (Keeps.of_eq (begin_frame ..))
                 | with_reducible apply Keeps.trans ?_ (programJournal_keeps ..) | with_reducible apply Keeps.ite ?_ ?_
                 | (intro _) | simp only [begin_frame, frame_mk, frame_eta, apply_ite State.frame, ite_self]
                 | with_reducible refine Keeps.trans ?_ (eachOf_keeps _ _ _ ?_)
                 | with_reducible refine Keeps.trans ?_ (foldl_keeps _ _ _ ?_) | (split))

theorem execCheckpointTimer_keeps (s : State) : ∃ t, execCheckpointTimer s = .next t ∧ Keeps s.frame t.frame := by
  refine ⟨_, rfl, ?_⟩
  repeat' (first | with_reducible exact Keeps.refl _ | with_reducible apply Keeps.trans ?_ (Keeps.of_eq (begin_frame ..))
                 | with_reducible apply Keeps.trans ?_ (Keeps.of_eq (startCheckpoint_frame ..)))

theorem execCheckpointNow_keeps (_path : AccessPath) (s : State) : ∃ t, execCheckpointNow _path s = .next t ∧ Keeps s.frame
    t.frame := by
  refine ⟨_, rfl, ?_⟩
  repeat' (first | with_reducible exact Keeps.refl _ | with_reducible apply Keeps.trans ?_ (Keeps.of_eq (begin_frame ..))
                 | with_reducible apply Keeps.trans ?_ (Keeps.of_eq (startCheckpoint_frame ..)))

theorem execCheckpointMarkDurable_keeps (s : State) : ∃ t, execCheckpointMarkDurable s = .next t ∧ Keeps s.frame t.frame
    := by
  refine ⟨_, rfl, ?_⟩
  repeat' (first | with_reducible exact Keeps.refl _ | dsimp only
                 | with_reducible apply Keeps.trans ?_ (Keeps.of_eq (begin_frame ..))
                 | with_reducible apply Keeps.trans ?_ (Keeps.of_eq (putParity_frame ..))
                 | with_reducible apply Keeps.trans ?_ (Keeps.of_eq (putMeta_frame ..))
                 | with_reducible apply Keeps.trans ?_ (Keeps.of_eq (setFrontier_frame ..))
                 | with_reducible apply Keeps.trans ?_ (Keeps.of_eq (journal_frame ..))
                 | with_reducible apply Keeps.trans ?_ (Keeps.of_eq (anchorWrite_frame ..))
                 | with_reducible apply Keeps.trans ?_ (Keeps.of_eq (releaseAfter_frame ..))
                 | with_reducible apply Keeps.trans ?_ (Keeps.of_eq (wr_frame ..))
                 | with_reducible apply Keeps.trans ?_ (Keeps.of_eq (freeJournal_frame ..))
                 | with_reducible apply Keeps.trans ?_ (makeDurable_keeps ..) | with_reducible apply Keeps.ite ?_ ?_
                 | (intro _)
                 | simp only [begin_frame, putParity_frame, putMeta_frame, setFrontier_frame, journal_frame,
                     anchorWrite_frame, releaseAfter_frame, wr_frame, freeJournal_frame, frame_mk, frame_eta, apply_ite
                     State.frame, ite_self] | with_reducible refine Keeps.trans ?_ (eachOf_keeps _ _ _ ?_)
                 | with_reducible refine Keeps.trans ?_ (foldl_keeps _ _ _ ?_) | (split))

theorem execStripeIdReuseDelay_keeps (stripe : StripeId) (s : State) : ∃ t, execStripeIdReuseDelay stripe s = .next t ∧ Keeps
    s.frame t.frame := by
  refine ⟨_, rfl, ?_⟩
  repeat' (first | with_reducible exact Keeps.refl _ | dsimp only | with_reducible apply Keeps.ite ?_ ?_
                 | with_reducible apply Keeps.trans ?_ (Keeps.of_eq (begin_frame ..)) | simp only [frame_mk, frame_eta])

theorem execCipRingTailWrite_keeps (_path : AccessPath) (ring : Fin 16) (tail : Word) (s : State) : ∃ t, execCipRingTailWrite
    _path ring tail s = .next t ∧ Keeps s.frame t.frame := by
  refine ⟨_, rfl, ?_⟩
  repeat' (first | with_reducible exact Keeps.refl _ | with_reducible apply Keeps.trans ?_ (cipFetch_keeps ..)
                 | with_reducible apply Keeps.trans ?_ (Keeps.of_eq (wr_frame _ _ _ _))
                 | with_reducible apply Keeps.trans ?_ (Keeps.of_eq (begin_frame ..)))

theorem execCipherSeal_keeps (ring : Fin 16) (slot : Nat) (s : State) : ∃ t, execCipherSeal ring slot s = .next t ∧ Keeps
    s.frame t.frame := by
  refine ⟨_, rfl, ?_⟩
  repeat' (first | with_reducible exact Keeps.refl _ | dsimp only
                 | with_reducible apply Keeps.trans ?_ (Keeps.of_eq (begin_frame ..))
                 | with_reducible apply Keeps.trans ?_ (cipRun_keeps ..))

theorem execCipherOpen_keeps (ring : Fin 16) (slot : Nat) (s : State) : ∃ t, execCipherOpen ring slot s = .next t ∧ Keeps
    s.frame t.frame := by
  refine ⟨_, rfl, ?_⟩
  repeat' (first | with_reducible exact Keeps.refl _ | with_reducible apply Keeps.trans ?_ (Keeps.of_eq (begin_frame ..))
                 | with_reducible apply Keeps.trans ?_ (cipRun_keeps ..))

theorem execCipherVerify_keeps (ring : Fin 16) (slot : Nat) (s : State) : ∃ t, execCipherVerify ring slot s = .next t ∧ Keeps
    s.frame t.frame := by
  refine ⟨_, rfl, ?_⟩
  repeat' (first | with_reducible exact Keeps.refl _ | with_reducible apply Keeps.trans ?_ (Keeps.of_eq (begin_frame ..))
                 | with_reducible apply Keeps.trans ?_ (cipRun_keeps ..))

theorem execSlotDrainDone_keeps (key : Nat) (s : State) : ∃ t, execSlotDrainDone key s = .next t ∧ Keeps s.frame t.frame
    := by
  refine ⟨_, rfl, ?_⟩
  repeat' (first | with_reducible exact Keeps.refl _ | dsimp only
                 | with_reducible apply Keeps.trans ?_ (Keeps.of_eq (begin_frame ..))
                 | with_reducible apply Keeps.trans ?_ (Keeps.of_eq (putKeySlot_frame ..))
                 | with_reducible apply Keeps.trans ?_ (Keeps.of_eq (finishCmd_frame ..))
                 | with_reducible apply Keeps.trans ?_ (rekey_keeps ..)
                 | with_reducible apply Keeps.trans ?_ (labelErase_keeps ..) | with_reducible apply Keeps.ite ?_ ?_
                 | (intro _)
                 | simp only [begin_frame, putKeySlot_frame, finishCmd_frame, frame_mk, frame_eta, apply_ite State.frame,
                     ite_self] | with_reducible refine Keeps.trans ?_ (eachOf_keeps _ _ _ ?_)
                 | with_reducible refine Keeps.trans ?_ (foldl_keeps _ _ _ ?_) | (split))

theorem execDrbgReseedRetry_keeps (pass : Bool) (s : State) : ∃ t, execDrbgReseedRetry pass s = .next t ∧ Keeps s.frame
    t.frame := by
  refine ⟨_, rfl, ?_⟩
  repeat' (first | with_reducible exact Keeps.refl _ | dsimp only | with_reducible apply Keeps.ite ?_ ?_
                 | with_reducible apply Keeps.trans ?_ (Keeps.of_eq (wr_frame _ _ _ _))
                 | with_reducible apply Keeps.trans ?_ (Keeps.of_eq (begin_frame ..))
                 | with_reducible apply Keeps.trans ?_ (Keeps.of_eq (putSlot_frame ..)) | simp only [frame_mk, frame_eta]
                 | with_reducible apply Keeps.trans ?_ (eachOf_keeps _ _ _ ?_) | (intro _) | (split))

theorem execDrbgWaitTimeout_keeps (slot : SlotNo) (s : State) : ∃ t, execDrbgWaitTimeout slot s = .next t ∧ Keeps s.frame
    t.frame := by
  refine ⟨_, rfl, ?_⟩
  repeat' (first | with_reducible exact Keeps.refl _ | dsimp only | with_reducible apply Keeps.ite ?_ ?_
                 | with_reducible apply Keeps.trans ?_ (Keeps.of_eq (begin_frame ..))
                 | with_reducible apply Keeps.trans ?_ (Keeps.of_eq (putNs_frame ..))
                 | with_reducible apply Keeps.trans ?_ (Keeps.of_eq (finishCmd_frame ..)) | simp only [frame_mk, frame_eta]
                 | with_reducible apply Keeps.trans ?_ (eachOf_keeps _ _ _ ?_) | (intro _) | (split))

theorem execSqTailDoorbell_keeps (ctrl : CtrlId) (qid value : Nat) (s : State) : ∃ t, execSqTailDoorbell ctrl qid value s =
    .next t ∧ Keeps s.frame t.frame := by
  refine ⟨_, rfl, ?_⟩
  repeat' (first | with_reducible exact Keeps.refl _ | with_reducible apply Keeps.trans ?_ (Keeps.of_eq (begin_frame ..))
                 | with_reducible apply Keeps.trans ?_ (Keeps.of_eq (sqDoorbell_frame ..)))

theorem execCqHeadDoorbell_keeps (ctrl : CtrlId) (qid value : Nat) (s : State) : ∃ t, execCqHeadDoorbell ctrl qid value s =
    .next t ∧ Keeps s.frame t.frame := by
  refine ⟨_, rfl, ?_⟩
  repeat' (first | with_reducible exact Keeps.refl _ | with_reducible apply Keeps.trans ?_ (Keeps.of_eq (begin_frame ..))
                 | with_reducible apply Keeps.trans ?_ (Keeps.of_eq (cqDoorbell_frame ..)))

theorem execSqFetch_keeps (ctrl : CtrlId) (qid : Nat) (entries : List Sqe) (s : State) : ∃ t, execSqFetch ctrl qid
    entries s = .next t ∧ Keeps s.frame t.frame := by
  refine ⟨_, rfl, ?_⟩
  repeat' (first | with_reducible exact Keeps.refl _ | dsimp only
                 | with_reducible apply Keeps.trans ?_ (Keeps.of_eq (begin_frame ..))
                 | with_reducible apply Keeps.trans ?_ (Keeps.of_eq (turnTaken_frame ..))
                 | with_reducible apply Keeps.trans ?_ (Keeps.of_eq (takeEntry_frame ..))
                 | with_reducible apply Keeps.trans ?_ (Keeps.of_eq (putSq_frame ..))
                 | with_reducible apply Keeps.trans ?_ (Keeps.of_eq (takeAll_frame ..))
                 | with_reducible apply Keeps.ite ?_ ?_ | (intro _)
                 | simp only [begin_frame, turnTaken_frame, takeEntry_frame, putSq_frame, takeAll_frame, frame_mk,
                     frame_eta, apply_ite State.frame, ite_self]
                 | with_reducible refine Keeps.trans ?_ (eachOf_keeps _ _ _ ?_)
                 | with_reducible refine Keeps.trans ?_ (foldl_keeps _ _ _ ?_) | (split))

theorem execCapsuleArrival_keeps (ctrl : CtrlId) (qid : Nat) (entry : Sqe) (s : State) : ∃ t, execCapsuleArrival ctrl qid
    entry s = .next t ∧ Keeps s.frame t.frame := by
  refine ⟨_, rfl, ?_⟩
  repeat' (first | with_reducible exact Keeps.refl _ | with_reducible apply Keeps.ite ?_ ?_
                 | with_reducible apply Keeps.trans ?_ (Keeps.of_eq (begin_frame ..))
                 | with_reducible apply Keeps.trans ?_ (Keeps.of_eq (takeEntry_frame ..))
                 | with_reducible apply Keeps.trans ?_ (Keeps.of_eq (putSq_frame ..)) | (split))

theorem execCompletionPost_keeps (slot : SlotNo) (s : State) : ∃ t, execCompletionPost slot s = .next t ∧ Keeps s.frame
    t.frame := by
  refine ⟨_, rfl, ?_⟩
  repeat' (first | with_reducible exact Keeps.refl _ | with_reducible apply Keeps.trans ?_ (Keeps.of_eq (begin_frame ..))
                 | with_reducible apply Keeps.trans ?_ (Keeps.of_eq (postSlot_frame ..)))

theorem execCqStallTimer_keeps (ctrl : CtrlId) (cqid : Nat) (s : State) : ∃ t, execCqStallTimer ctrl cqid s = .next t ∧ Keeps
    s.frame t.frame := by
  refine ⟨_, rfl, ?_⟩
  repeat' (first | with_reducible exact Keeps.refl _ | with_reducible apply Keeps.ite ?_ ?_
                 | with_reducible apply Keeps.trans ?_ (Keeps.of_eq (wr_frame _ _ _ _))
                 | with_reducible apply Keeps.trans ?_ (Keeps.of_eq (begin_frame ..)) | (split))

theorem execInterruptCoalesceTimer_keeps (ctrl : CtrlId) (vector : Nat) (s : State) : ∃ t, execInterruptCoalesceTimer ctrl
    vector s = .next t ∧ Keeps s.frame t.frame := by
  refine ⟨_, rfl, ?_⟩
  repeat' (first | with_reducible exact Keeps.refl _ | with_reducible apply Keeps.trans ?_ (Keeps.of_eq (begin_frame ..))
                 | with_reducible apply Keeps.trans ?_ (Keeps.of_eq (sendVector_frame ..)))

theorem execDeleteIoSq_keeps (slot : SlotNo) (s : State) : ∃ t, execDeleteIoSq slot s = .next t ∧ Keeps s.frame t.frame := by
  refine ⟨_, rfl, ?_⟩
  repeat' (first | with_reducible exact Keeps.refl _ | dsimp only
                 | with_reducible apply Keeps.trans ?_ (Keeps.of_eq (begin_frame ..))
                 | with_reducible apply Keeps.trans ?_ (Keeps.of_eq (withCmd_frame (hf := ?_) ..)) | (intro _)
                 | refine (eachOf_frame _ _ _ ?_).trans ?_
                 | simp only [finishCmd_frame, putSq_frame, deleteNote_frame, apply_ite
                 State.frame] | (split))

theorem execCreateIoSq_keeps (slot : SlotNo) (s : State) : ∃ t, execCreateIoSq slot s = .next t ∧ Keeps s.frame t.frame := by
  refine ⟨_, rfl, ?_⟩
  repeat' (first | with_reducible exact Keeps.refl _ | dsimp only
                 | with_reducible apply Keeps.trans ?_ (Keeps.of_eq (begin_frame ..))
                 | with_reducible apply Keeps.trans ?_ (Keeps.of_eq (withCmd_frame (hf := ?_) ..)) | (intro _)
                 | simp only [finishCmd_frame, putSq_frame, apply_ite State.frame, ite_self])

theorem execDeleteIoCq_keeps (slot : SlotNo) (s : State) : ∃ t, execDeleteIoCq slot s = .next t ∧ Keeps s.frame t.frame := by
  refine ⟨_, rfl, ?_⟩
  repeat' (first | with_reducible exact Keeps.refl _ | dsimp only
                 | with_reducible apply Keeps.trans ?_ (Keeps.of_eq (begin_frame ..))
                 | with_reducible apply Keeps.trans ?_ (Keeps.of_eq (withCmd_frame (hf := ?_) ..)) | (intro _)
                 | simp only [putCtrl_frame, finishCmd_frame, apply_ite State.frame,
                 ite_self])

theorem execCreateIoCq_keeps (slot : SlotNo) (s : State) : ∃ t, execCreateIoCq slot s = .next t ∧ Keeps s.frame t.frame := by
  refine ⟨_, rfl, ?_⟩
  repeat' (first | with_reducible exact Keeps.refl _ | dsimp only
                 | with_reducible apply Keeps.trans ?_ (Keeps.of_eq (begin_frame ..))
                 | with_reducible apply Keeps.trans ?_ (Keeps.of_eq (withCmd_frame (hf := ?_) ..)) | (intro _)
                 | simp only [finishCmd_frame, putCq_frame, apply_ite State.frame, ite_self])

theorem execAbort_keeps (slot : SlotNo) (s : State) : ∃ t, execAbort slot s = .next t ∧ Keeps s.frame t.frame := by
  refine ⟨_, rfl, ?_⟩
  repeat' (first | with_reducible exact Keeps.refl _ | dsimp only
                 | with_reducible apply Keeps.trans ?_ (Keeps.of_eq (begin_frame ..))
                 | with_reducible apply Keeps.trans ?_ (Keeps.of_eq (withCmd_frame (hf := ?_) ..)) | (intro _)
                 | simp only [finishCmd_frame, apply_ite State.frame] | (split))

theorem execCcEnClear_keeps (ctrl : CtrlId) (s : State) : ∃ t, execCcEnClear ctrl s = .next t ∧ Keeps s.frame t.frame := by
  refine ⟨_, rfl, ?_⟩
  repeat' (first | with_reducible exact Keeps.refl _ | with_reducible apply Keeps.ite ?_ ?_
                 | with_reducible apply Keeps.trans ?_ (Keeps.of_eq (begin_frame ..))
                 | with_reducible apply Keeps.trans ?_ (Keeps.of_eq (ctrlReset_frame ..)) | (split))

theorem execNormalShutdown_keeps (ctrl : CtrlId) (s : State) : ∃ t, execNormalShutdown ctrl s = .next t ∧ Keeps s.frame
    t.frame := by
  refine ⟨_, rfl, ?_⟩
  repeat' (first | with_reducible exact Keeps.refl _ | with_reducible apply Keeps.ite ?_ ?_
                 | with_reducible apply Keeps.trans ?_ (Keeps.of_eq (begin_frame ..))
                 | with_reducible apply Keeps.trans ?_ (Keeps.of_eq (shutdownBegin_frame ..)) | (split))

theorem execAbruptShutdown_keeps (ctrl : CtrlId) (s : State) : ∃ t, execAbruptShutdown ctrl s = .next t ∧ Keeps s.frame
    t.frame := by
  refine ⟨_, rfl, ?_⟩
  repeat' (first | with_reducible exact Keeps.refl _ | with_reducible apply Keeps.ite ?_ ?_
                 | with_reducible apply Keeps.trans ?_ (Keeps.of_eq (begin_frame ..))
                 | with_reducible apply Keeps.trans ?_ (Keeps.of_eq (ctrlReset_frame ..))
                 | with_reducible apply Keeps.trans ?_ (Keeps.of_eq (shutdownBegin_frame ..)) | (split))

theorem execControllerResetDone_keeps (ctrl : CtrlId) (s : State) : ∃ t, execControllerResetDone ctrl s = .next t ∧ Keeps
    s.frame t.frame := by
  refine ⟨_, rfl, ?_⟩
  repeat' (first | with_reducible exact Keeps.refl _ | dsimp only | with_reducible apply Keeps.ite ?_ ?_
                 | with_reducible apply Keeps.trans ?_ (Keeps.of_eq (begin_frame ..))
                 | with_reducible apply Keeps.trans ?_ (Keeps.of_eq (putCtrl_frame ..)) | simp only [frame_mk, frame_eta]
                 | (split))

theorem execCcEnSet_keeps (ctrl : CtrlId) (cc aqa : Word) (s : State) : ∃ t, execCcEnSet ctrl cc aqa s = .next t ∧ Keeps
    s.frame t.frame := by
  refine ⟨_, rfl, ?_⟩
  repeat' (first | with_reducible exact Keeps.refl _ | with_reducible apply Keeps.trans ?_ (Keeps.of_eq (begin_frame ..))
                 | with_reducible apply Keeps.trans ?_ (Keeps.of_eq (ctrlEnable_frame ..)))

theorem execLostCompletionEntryEnd_keeps (key : HostKey) (index endMs : Nat) (s : State) : ∃ t, execLostCompletionEntryEnd
    key index endMs s = .next t ∧ Keeps s.frame t.frame := by
  refine ⟨_, rfl, ?_⟩
  repeat' (first | with_reducible exact Keeps.refl _ | dsimp only | with_reducible apply Keeps.ite ?_ ?_
                 | with_reducible apply Keeps.trans ?_ (Keeps.of_eq (begin_frame ..))
                 | with_reducible apply Keeps.trans ?_ (Keeps.of_eq (freeSlotOf_frame ..))
                 | with_reducible apply Keeps.trans ?_ (Keeps.of_eq (lcrOffer_frame ..))
                 | with_reducible apply Keeps.trans ?_ (Keeps.of_eq (noteDone_frame ..)) | simp only [frame_mk, frame_eta]
                 | (split))

theorem execLostCompletionExpiry_keeps (key : HostKey) (s : State) : ∃ t, execLostCompletionExpiry key s = .next t ∧ Keeps
    s.frame t.frame := by
  refine ⟨_, rfl, ?_⟩
  repeat' (first | with_reducible exact Keeps.refl _ | dsimp only
                 | with_reducible apply Keeps.trans ?_ (Keeps.of_eq (begin_frame ..)) | simp only [frame_mk, frame_eta])

theorem execAnaChangeTimeout_keeps (port : HostPort) (s : State) : ∃ t, execAnaChangeTimeout port s = .next t ∧ Keeps s.frame
    t.frame := by
  refine ⟨_, rfl, ?_⟩
  repeat' (first | with_reducible exact Keeps.refl _ | with_reducible apply Keeps.trans ?_ (Keeps.of_eq (begin_frame ..))
                 | with_reducible apply Keeps.trans ?_ (Keeps.of_eq (portSettle_frame ..)))

theorem execBenchEvaluate_keeps (s : State) : ∃ t, execBenchEvaluate s = .next t ∧ Keeps s.frame t.frame := by
  refine ⟨_, rfl, ?_⟩
  repeat' (first | with_reducible exact Keeps.refl _ | dsimp only
                 | with_reducible apply Keeps.trans ?_ (Keeps.of_eq (rebuildOver_frame ..))
                 | with_reducible apply Keeps.trans ?_ (Keeps.of_eq (fenRefresh_frame ..))
                 | with_reducible apply Keeps.trans ?_ (Keeps.of_eq (wornCheck_frame ..))
                 | with_reducible apply Keeps.trans ?_ (Keeps.of_eq (begin_frame ..))
                 | with_reducible apply Keeps.ite ?_ ?_ | (intro _)
                 | simp only [rebuildOver_frame, fenRefresh_frame, wornCheck_frame, begin_frame, frame_mk, frame_eta,
                     apply_ite State.frame, ite_self] | with_reducible refine Keeps.trans ?_ (eachOf_keeps _ _ _ ?_)
                 | with_reducible refine Keeps.trans ?_ (foldl_keeps _ _ _ ?_) | (split))

theorem execBench5ExitTimer_keeps (fen : Fen) (s : State) : ∃ t, execBench5ExitTimer fen s = .next t ∧ Keeps s.frame t.frame
    := by
  refine ⟨_, rfl, ?_⟩
  repeat' (first | with_reducible exact Keeps.refl _ | dsimp only | with_reducible apply Keeps.ite ?_ ?_
                 | with_reducible apply Keeps.trans ?_ (Keeps.of_eq (wr_frame _ _ _ _))
                 | with_reducible apply Keeps.trans ?_ (Keeps.of_eq (begin_frame ..))
                 | with_reducible apply Keeps.trans ?_ (Keeps.of_eq (glbRefresh_frame ..)) | simp only [frame_mk, frame_eta])

theorem execRebuildJobStart_keeps (stripe : StripeId) (slot : Fin 28) (s : State) : ∃ t, execRebuildJobStart stripe slot
    s = .next t ∧ Keeps s.frame t.frame := by
  refine ⟨_, rfl, ?_⟩
  repeat' (first | with_reducible exact Keeps.refl _ | dsimp only
                 | with_reducible apply Keeps.trans ?_ (Keeps.of_eq (begin_frame ..))
                 | with_reducible apply Keeps.trans ?_ (Keeps.of_eq (startJob_frame ..))
                 | with_reducible apply Keeps.ite ?_ ?_ | (intro _)
                 | simp only [begin_frame, startJob_frame, frame_mk, frame_eta, apply_ite State.frame, ite_self]
                 | with_reducible refine Keeps.trans ?_ (eachOf_keeps _ _ _ ?_)
                 | with_reducible refine Keeps.trans ?_ (foldl_keeps _ _ _ ?_) | (split))

theorem execRebuildJobDone_keeps (stripe : StripeId) (slot : Fin 28) (ok : Bool) (s : State) : ∃ t, execRebuildJobDone
    stripe slot ok s = .next t ∧ Keeps s.frame t.frame := by
  refine ⟨_, rfl, ?_⟩
  repeat' (first | with_reducible exact Keeps.refl _ | dsimp only
                 | with_reducible apply Keeps.trans ?_ (Keeps.of_eq (begin_frame ..))
                 | with_reducible apply Keeps.trans ?_ (Keeps.of_eq (startJob_frame ..))
                 | with_reducible apply Keeps.trans ?_ (Keeps.of_eq (wipeBlock_frame ..))
                 | with_reducible apply Keeps.trans ?_ (Keeps.of_eq (rebuildRows_frame ..))
                 | with_reducible apply Keeps.trans ?_ (Keeps.of_eq (journal_frame ..))
                 | with_reducible apply Keeps.trans ?_ (Keeps.of_eq (sourceNote_frame ..))
                 | with_reducible apply Keeps.trans ?_ (Keeps.of_eq (closeStripe_frame ..))
                 | with_reducible apply Keeps.trans ?_ (Keeps.of_eq (freeBlock_frame ..))
                 | with_reducible apply Keeps.trans ?_ (Keeps.of_eq (rebuildOver_frame ..))
                 | with_reducible apply Keeps.trans ?_ (Keeps.of_eq (wr_frame ..))
                 | with_reducible apply Keeps.trans ?_ (spoilAndCheck_keeps ..)
                 | with_reducible apply Keeps.trans ?_ (makeDurable_keeps ..) | with_reducible apply Keeps.ite ?_ ?_
                 | (intro _)
                 | simp only [begin_frame, startJob_frame, wipeBlock_frame, rebuildRows_frame, journal_frame,
                     sourceNote_frame, closeStripe_frame, freeBlock_frame, rebuildOver_frame, wr_frame, frame_mk, frame_eta,
                     apply_ite State.frame, ite_self] | with_reducible refine Keeps.trans ?_ (eachOf_keeps _ _ _ ?_)
                 | with_reducible refine Keeps.trans ?_ (foldl_keeps _ _ _ ?_) | (split))

theorem execRefreshInPlace_keeps (stripe : StripeId) (failSlot : Option (Fin 28)) (s : State) : ∃ t, execRefreshInPlace
    stripe failSlot s = .next t ∧ Keeps s.frame t.frame := by
  refine ⟨_, rfl, ?_⟩
  repeat' (first | with_reducible exact Keeps.refl _ | dsimp only
                 | with_reducible apply Keeps.trans ?_ (Keeps.of_eq (begin_frame ..))
                 | with_reducible apply Keeps.trans ?_ (Keeps.of_eq (fenRefresh_frame ..))
                 | with_reducible apply Keeps.trans ?_ (Keeps.of_eq (catchupNote_frame ..))
                 | with_reducible apply Keeps.trans ?_ (Keeps.of_eq (refreshDone_frame ..))
                 | with_reducible apply Keeps.trans ?_ (Keeps.of_eq (forgetDue_frame ..))
                 | with_reducible apply Keeps.trans ?_ (refreshInPlace_keeps ..) | with_reducible apply Keeps.ite ?_ ?_
                 | (intro _)
                 | simp only [begin_frame, fenRefresh_frame, catchupNote_frame, refreshDone_frame, forgetDue_frame,
                     frame_mk, frame_eta, apply_ite State.frame, ite_self]
                 | with_reducible refine Keeps.trans ?_ (eachOf_keeps _ _ _ ?_)
                 | with_reducible refine Keeps.trans ?_ (foldl_keeps _ _ _ ?_) | (split))

theorem execRebuildCtlWrite_keeps (path : AccessPath) (value : Word) (s : State) : ∃ t, execRebuildCtlWrite path value s =
    .next t ∧ Keeps s.frame t.frame := by
  refine ⟨_, rfl, ?_⟩
  repeat' (first | with_reducible exact Keeps.refl _ | with_reducible apply Keeps.trans ?_ (Keeps.of_eq (begin_frame ..))
                 | with_reducible apply Keeps.trans ?_ (Keeps.of_eq (rebuildCtlWrite_frame ..)))

theorem execRebuildHoldTimeout_keeps (s : State) : ∃ t, execRebuildHoldTimeout s = .next t ∧ Keeps s.frame t.frame := by
  refine ⟨_, rfl, ?_⟩
  repeat' (first | with_reducible exact Keeps.refl _ | dsimp only | with_reducible apply Keeps.ite ?_ ?_
                 | with_reducible apply Keeps.trans ?_ (Keeps.of_eq (wr_frame _ _ _ _))
                 | with_reducible apply Keeps.trans ?_ (Keeps.of_eq (begin_frame ..)) | simp only [frame_mk, frame_eta])

theorem execSluiceAdmit_keeps (slot : SlotNo) (s : State) : ∃ t, execSluiceAdmit slot s = .next t ∧ Keeps s.frame t.frame := by
  refine ⟨_, rfl, ?_⟩
  repeat' (first | with_reducible exact Keeps.refl _ | with_reducible apply Keeps.ite ?_ ?_
                 | with_reducible apply Keeps.trans ?_ (Keeps.of_eq (begin_frame ..))
                 | with_reducible apply Keeps.trans ?_ (Keeps.of_eq (finishCmd_frame ..))
                 | with_reducible apply Keeps.trans ?_ (Keeps.of_eq (fallowWake_frame ..))
                 | with_reducible apply Keeps.trans ?_ (Keeps.of_eq (admitSlot_frame ..))
                 | with_reducible apply Keeps.trans ?_ (Keeps.of_eq (admitWrite_frame ..)) | (split))

theorem execSluiceReadRelease_keeps (slot : SlotNo) (link : Link) (die : Fin 32) (s : State) : ∃ t,
    execSluiceReadRelease slot link die s = .next t ∧ Keeps s.frame t.frame := by
  refine ⟨_, rfl, ?_⟩
  repeat' (first | with_reducible exact Keeps.refl _ | dsimp only
                 | with_reducible apply Keeps.trans ?_ (Keeps.of_eq (begin_frame ..))
                 | with_reducible apply Keeps.trans ?_ (Keeps.of_eq (wr_frame ..)) | with_reducible apply Keeps.ite ?_ ?_
                 | (intro _) | simp only [begin_frame, wr_frame, frame_mk, frame_eta, apply_ite State.frame, ite_self]
                 | with_reducible refine Keeps.trans ?_ (eachOf_keeps _ _ _ ?_)
                 | with_reducible refine Keeps.trans ?_ (foldl_keeps _ _ _ ?_) | (split))

theorem execSluicePeriod_keeps (s : State) : ∃ t, execSluicePeriod s = .next t ∧ Keeps s.frame t.frame := by
  refine ⟨_, rfl, ?_⟩
  repeat' (first | with_reducible exact Keeps.refl _ | dsimp only
                 | with_reducible apply Keeps.trans ?_ (Keeps.of_eq (periodStat_frame ..))
                 | with_reducible apply Keeps.trans ?_ (Keeps.of_eq (periodScale_frame ..))
                 | with_reducible apply Keeps.trans ?_ (Keeps.of_eq (creditAge_frame ..))
                 | with_reducible apply Keeps.trans ?_ (Keeps.of_eq (applyShare_frame ..))
                 | with_reducible apply Keeps.trans ?_ (Keeps.of_eq (periodTurn_frame ..))
                 | with_reducible apply Keeps.trans ?_ (Keeps.of_eq (periodUse_frame ..))
                 | with_reducible apply Keeps.trans ?_ (Keeps.of_eq (begin_frame ..))
                 | with_reducible apply Keeps.ite ?_ ?_ | (intro _)
                 | simp only [periodStat_frame, periodScale_frame, creditAge_frame, applyShare_frame, periodTurn_frame,
                     periodUse_frame, begin_frame, frame_mk, frame_eta, apply_ite State.frame, ite_self]
                 | with_reducible refine Keeps.trans ?_ (eachOf_keeps _ _ _ ?_)
                 | with_reducible refine Keeps.trans ?_ (foldl_keeps _ _ _ ?_) | (split))

theorem execMergeCreditAccrue_keeps (cls : BitVec 8) (milliHours : Nat) (s : State) : ∃ t, execMergeCreditAccrue cls
    milliHours s = .next t ∧ Keeps s.frame t.frame := by
  refine ⟨_, rfl, ?_⟩
  repeat' (first | with_reducible exact Keeps.refl _ | with_reducible apply Keeps.trans ?_ (Keeps.of_eq (begin_frame ..))
                 | with_reducible apply Keeps.trans ?_ (Keeps.of_eq (putUse_frame ..)))

theorem execForcedFold_keeps (s : State) : ∃ t, execForcedFold s = .next t ∧ Keeps s.frame t.frame := by
  refine ⟨_, rfl, ?_⟩
  repeat' (first | with_reducible exact Keeps.refl _ | dsimp only
                 | with_reducible apply Keeps.trans ?_ (Keeps.of_eq (begin_frame ..))
                 | with_reducible apply Keeps.trans ?_ (Keeps.of_eq (forcedNote_frame ..))
                 | with_reducible apply Keeps.trans ?_ (Keeps.of_eq (finishZone_frame ..))
                 | with_reducible apply Keeps.trans ?_ (Keeps.of_eq (zoneNotice_frame ..))
                 | with_reducible apply Keeps.trans ?_ (startFold_keeps ..) | with_reducible apply Keeps.ite ?_ ?_
                 | (intro _)
                 | simp only [begin_frame, forcedNote_frame, finishZone_frame, zoneNotice_frame, frame_mk, frame_eta,
                     apply_ite State.frame, ite_self] | with_reducible refine Keeps.trans ?_ (eachOf_keeps _ _ _ ?_)
                 | with_reducible refine Keeps.trans ?_ (foldl_keeps _ _ _ ?_) | (split))

theorem execSetFeaturesArbitration_keeps (slot : SlotNo) (s : State) : ∃ t, execSetFeaturesArbitration slot s = .next t ∧
    Keeps s.frame t.frame := by
  refine ⟨_, rfl, ?_⟩
  repeat' (first | with_reducible exact Keeps.refl _ | with_reducible apply Keeps.trans ?_ (Keeps.of_eq (begin_frame ..))
                 | with_reducible apply Keeps.trans ?_ (Keeps.of_eq (setFeature_frame (hf := ?_) ..)) | (intro _)
                 | simp only [finishCmd_frame, putFeat_frame])

theorem execSetFeaturesPowerManagement_keeps (slot : SlotNo) (s : State) : ∃ t, execSetFeaturesPowerManagement slot s = .next
    t ∧ Keeps s.frame t.frame := by
  refine ⟨_, rfl, ?_⟩
  repeat' (first | with_reducible exact Keeps.refl _ | dsimp only
                 | with_reducible apply Keeps.trans ?_ (Keeps.of_eq (begin_frame ..))
                 | with_reducible apply Keeps.trans ?_ (Keeps.of_eq (setFeature_frame (hf := ?_) ..)) | (intro _)
                 | simp only [finishCmd_frame, takePs_frame, apply_ite State.frame, ite_self])

theorem execSetFeaturesTemperatureThreshold_keeps (slot : SlotNo) (s : State) : ∃ t, execSetFeaturesTemperatureThreshold slot
    s = .next t ∧ Keeps s.frame t.frame := by
  refine ⟨_, rfl, ?_⟩
  repeat' (first | with_reducible exact Keeps.refl _ | dsimp only
                 | with_reducible apply Keeps.trans ?_ (Keeps.of_eq (begin_frame ..))
                 | with_reducible apply Keeps.trans ?_ (Keeps.of_eq (setFeature_frame (hf := ?_) ..)) | (intro _)
                 | refine (eachOf_frame _ _ _ ?_).trans ?_
                 | simp only [finishCmd_frame, putFeat_frame, apply_ite State.frame] | (split))

theorem execSetFeaturesVolatileWriteCache_keeps (slot : SlotNo) (s : State) : ∃ t, execSetFeaturesVolatileWriteCache slot s =
    .next t ∧ Keeps s.frame t.frame := by
  refine ⟨_, rfl, ?_⟩
  repeat' (first | with_reducible exact Keeps.refl _ | with_reducible apply Keeps.trans ?_ (Keeps.of_eq (begin_frame ..))
                 | with_reducible apply Keeps.trans ?_ (Keeps.of_eq (setFeature_frame (hf := ?_) ..)) | (intro _)
                 | simp only [finishCmd_frame])

theorem execSetFeaturesNumberOfQueues_keeps (slot : SlotNo) (s : State) : ∃ t, execSetFeaturesNumberOfQueues slot s = .next t
    ∧ Keeps s.frame t.frame := by
  refine ⟨_, rfl, ?_⟩
  repeat' (first | with_reducible exact Keeps.refl _ | with_reducible apply Keeps.trans ?_ (Keeps.of_eq (begin_frame ..))
                 | with_reducible apply Keeps.trans ?_ (Keeps.of_eq (setFeature_frame (hf := ?_) ..)) | (intro _)
                 | simp only [finishCmd_frame, apply_ite State.frame, ite_self])

theorem execSetFeaturesInterruptCoalescing_keeps (slot : SlotNo) (s : State) : ∃ t, execSetFeaturesInterruptCoalescing slot s
    = .next t ∧ Keeps s.frame t.frame := by
  refine ⟨_, rfl, ?_⟩
  repeat' (first | with_reducible exact Keeps.refl _ | with_reducible apply Keeps.trans ?_ (Keeps.of_eq (begin_frame ..))
                 | with_reducible apply Keeps.trans ?_ (Keeps.of_eq (setFeature_frame (hf := ?_) ..)) | (intro _)
                 | simp only [finishCmd_frame, putFeat_frame])

theorem execSetFeaturesInterruptVectorConfig_keeps (slot : SlotNo) (s : State) : ∃ t, execSetFeaturesInterruptVectorConfig
    slot s = .next t ∧ Keeps s.frame t.frame := by
  refine ⟨_, rfl, ?_⟩
  repeat' (first | with_reducible exact Keeps.refl _ | dsimp only
                 | with_reducible apply Keeps.trans ?_ (Keeps.of_eq (begin_frame ..))
                 | with_reducible apply Keeps.trans ?_ (Keeps.of_eq (setFeature_frame (hf := ?_) ..)) | (intro _)
                 | simp only [finishCmd_frame, putFeat_frame, apply_ite State.frame,
                 ite_self])

theorem execSetFeaturesAsyncEventConfig_keeps (slot : SlotNo) (s : State) : ∃ t, execSetFeaturesAsyncEventConfig slot s =
    .next t ∧ Keeps s.frame t.frame := by
  refine ⟨_, rfl, ?_⟩
  repeat' (first | with_reducible exact Keeps.refl _ | with_reducible apply Keeps.trans ?_ (Keeps.of_eq (begin_frame ..))
                 | with_reducible apply Keeps.trans ?_ (Keeps.of_eq (setFeature_frame (hf := ?_) ..)) | (intro _)
                 | simp only [finishCmd_frame, putFeat_frame])

theorem execSetFeaturesApst_keeps (slot : SlotNo) (table : List Nat) (s : State) : ∃ t, execSetFeaturesApst slot table s =
    .next t ∧ Keeps s.frame t.frame := by
  refine ⟨_, rfl, ?_⟩
  repeat' (first | with_reducible exact Keeps.refl _ | with_reducible apply Keeps.trans ?_ (Keeps.of_eq (begin_frame ..))
                 | with_reducible apply Keeps.trans ?_ (Keeps.of_eq (setFeature_frame (hf := ?_) ..)) | (intro _)
                 | simp only [putCtrl_frame, finishCmd_frame, putFeat_frame, apply_ite
                 State.frame, ite_self])

theorem execSetFeaturesTimestamp_keeps (slot : SlotNo) (millis : Nat) (s : State) : ∃ t, execSetFeaturesTimestamp slot millis
    s = .next t ∧ Keeps s.frame t.frame := by
  refine ⟨_, rfl, ?_⟩
  repeat' (first | with_reducible exact Keeps.refl _ | dsimp only
                 | with_reducible apply Keeps.trans ?_ (Keeps.of_eq (begin_frame ..))
                 | with_reducible apply Keeps.trans ?_ (Keeps.of_eq (setFeature_frame (hf := ?_) ..)) | (intro _)
                 | simp only [finishCmd_frame, frame_mk, frame_eta])

theorem execSetFeaturesKeepAliveTimer_keeps (slot : SlotNo) (s : State) : ∃ t, execSetFeaturesKeepAliveTimer slot s = .next t
    ∧ Keeps s.frame t.frame := by
  refine ⟨_, rfl, ?_⟩
  repeat' (first | with_reducible exact Keeps.refl _ | with_reducible apply Keeps.trans ?_ (Keeps.of_eq (begin_frame ..))
                 | with_reducible apply Keeps.trans ?_ (Keeps.of_eq (setFeature_frame (hf := ?_) ..)) | (intro _)
                 | simp only [putCtrl_frame, finishCmd_frame])

theorem execSetFeaturesHostIdentifier_keeps (slot : SlotNo) (hostId : Nat) (s : State) : ∃ t, execSetFeaturesHostIdentifier
    slot hostId s = .next t ∧ Keeps s.frame t.frame := by
  refine ⟨_, rfl, ?_⟩
  repeat' (first | with_reducible exact Keeps.refl _ | with_reducible apply Keeps.trans ?_ (Keeps.of_eq (begin_frame ..))
                 | with_reducible apply Keeps.trans ?_ (Keeps.of_eq (setFeature_frame (hf := ?_) ..)) | (intro _)
                 | simp only [putCtrl_frame, finishCmd_frame, lcrNotice_frame, apply_ite
                 State.frame, ite_self])

theorem execSetFeaturesResvNotificationMask_keeps (slot : SlotNo) (s : State) : ∃ t, execSetFeaturesResvNotificationMask slot
    s = .next t ∧ Keeps s.frame t.frame := by
  refine ⟨_, rfl, ?_⟩
  repeat' (first | with_reducible exact Keeps.refl _ | dsimp only
                 | with_reducible apply Keeps.trans ?_ (Keeps.of_eq (begin_frame ..))
                 | with_reducible apply Keeps.trans ?_ (Keeps.of_eq (setFeature_frame (hf := ?_) ..)) | (intro _)
                 | refine (eachOf_frame _ _ _ ?_).trans ?_
                 | simp only [finishCmd_frame, putResv_frame, apply_ite State.frame] | (split))

theorem execSetFeaturesResvPersistence_keeps (slot : SlotNo) (s : State) : ∃ t, execSetFeaturesResvPersistence slot s = .next
    t ∧ Keeps s.frame t.frame := by
  refine ⟨_, rfl, ?_⟩
  repeat' (first | with_reducible exact Keeps.refl _ | dsimp only
                 | with_reducible apply Keeps.trans ?_ (Keeps.of_eq (begin_frame ..))
                 | with_reducible apply Keeps.trans ?_ (Keeps.of_eq (setFeature_frame (hf := ?_) ..)) | (intro _)
                 | refine (eachOf_frame _ _ _ ?_).trans ?_
                 | simp only [finishCmd_frame, putResv_frame, apply_ite State.frame] | (split))

theorem execGetFeatures_keeps (slot : SlotNo) (s : State) : ∃ t, execGetFeatures slot s = .next t ∧ Keeps s.frame t.frame := by
  refine ⟨_, rfl, ?_⟩
  repeat' (first | with_reducible exact Keeps.refl _ | dsimp only
                 | with_reducible apply Keeps.trans ?_ (Keeps.of_eq (begin_frame ..))
                 | with_reducible apply Keeps.trans ?_ (Keeps.of_eq (withCmd_frame (hf := ?_) ..)) | (intro _)
                 | simp only [emit_frame, finishCmd_frame, apply_ite State.frame, ite_self])

theorem execAsyncEventRequest_keeps (slot : SlotNo) (s : State) : ∃ t, execAsyncEventRequest slot s = .next t ∧ Keeps s.frame
    t.frame := by
  refine ⟨_, rfl, ?_⟩
  repeat' (first | with_reducible exact Keeps.refl _ | dsimp only
                 | with_reducible apply Keeps.trans ?_ (Keeps.of_eq (begin_frame ..))
                 | with_reducible apply Keeps.trans ?_ (Keeps.of_eq (withCmd_frame (hf := ?_) ..)) | (intro _)
                 | simp only [putCtrl_frame, finishCmd_frame, apply_ite State.frame] | (split))

theorem execKeepAlive_keeps (slot : SlotNo) (s : State) : ∃ t, execKeepAlive slot s = .next t ∧ Keeps s.frame t.frame := by
  refine ⟨_, rfl, ?_⟩
  repeat' (first | with_reducible exact Keeps.refl _ | with_reducible apply Keeps.trans ?_ (Keeps.of_eq (begin_frame ..))
                 | with_reducible apply Keeps.trans ?_ (Keeps.of_eq (withCmd_frame (hf := ?_) ..)) | (intro _)
                 | simp only [finishCmd_frame])

theorem execApstTimer_keeps (ctrl : CtrlId) (s : State) : ∃ t, execApstTimer ctrl s = .next t ∧ Keeps s.frame t.frame := by
  refine ⟨_, rfl, ?_⟩
  repeat' (first | with_reducible exact Keeps.refl _ | dsimp only | with_reducible apply Keeps.ite ?_ ?_
                 | with_reducible apply Keeps.trans ?_ (Keeps.of_eq (begin_frame ..))
                 | with_reducible apply Keeps.trans ?_ (Keeps.of_eq (takePs_frame ..)) | (split))

theorem execFallowEntryDone_keeps (s : State) : ∃ t, execFallowEntryDone s = .next t ∧ Keeps s.frame t.frame := by
  refine ⟨_, rfl, ?_⟩
  repeat' (first | with_reducible exact Keeps.refl _ | dsimp only
                 | with_reducible apply Keeps.trans ?_ (Keeps.of_eq (begin_frame ..))
                 | with_reducible apply Keeps.trans ?_ (Keeps.of_eq (wr_frame ..)) | with_reducible apply Keeps.ite ?_ ?_
                 | (intro _) | simp only [begin_frame, wr_frame, frame_mk, frame_eta, apply_ite State.frame, ite_self]
                 | with_reducible refine Keeps.trans ?_ (eachOf_keeps _ _ _ ?_)
                 | with_reducible refine Keeps.trans ?_ (foldl_keeps _ _ _ ?_) | (split))

theorem execFallowExitDone_keeps (s : State) : ∃ t, execFallowExitDone s = .next t ∧ Keeps s.frame t.frame := by
  refine ⟨_, rfl, ?_⟩
  repeat' (first | with_reducible exact Keeps.refl _ | dsimp only
                 | with_reducible apply Keeps.trans ?_ (Keeps.of_eq (begin_frame ..))
                 | with_reducible apply Keeps.trans ?_ (Keeps.of_eq (unpark_frame ..))
                 | with_reducible apply Keeps.ite ?_ ?_ | (intro _)
                 | simp only [begin_frame, unpark_frame, frame_mk, frame_eta, apply_ite State.frame, ite_self]
                 | with_reducible refine Keeps.trans ?_ (eachOf_keeps _ _ _ ?_)
                 | with_reducible refine Keeps.trans ?_ (foldl_keeps _ _ _ ?_) | (split))

theorem execReservationRegister_keeps (slot : SlotNo) (crkey nrkey : Nat) (s : State) : ∃ t, execReservationRegister slot
    crkey nrkey s = .next t ∧ Keeps s.frame t.frame := by
  refine ⟨_, rfl, ?_⟩
  repeat' (first | with_reducible exact Keeps.refl _ | dsimp only
                 | with_reducible apply Keeps.trans ?_ (Keeps.of_eq (begin_frame ..))
                 | with_reducible apply Keeps.trans ?_ (Keeps.of_eq (resvCmd_frame (hf := ?_) ..)) | (intro _)
                 | simp only [finishCmd_frame, resvNote_frame, resvDone_frame, apply_ite
                 State.frame, ite_self])

theorem execReservationAcquire_keeps (slot : SlotNo) (crkey prkey : Nat) (s : State) : ∃ t, execReservationAcquire slot crkey
    prkey s = .next t ∧ Keeps s.frame t.frame := by
  refine ⟨_, rfl, ?_⟩
  repeat' (first | with_reducible exact Keeps.refl _ | dsimp only
                 | with_reducible apply Keeps.trans ?_ (Keeps.of_eq (begin_frame ..))
                 | with_reducible apply Keeps.trans ?_ (Keeps.of_eq (resvCmd_frame (hf := ?_) ..)) | (intro _)
                 | simp only [finishCmd_frame, resvNote_frame, resvDone_frame, abortHosts_frame, 
                 apply_ite State.frame, ite_self])

theorem execReservationRelease_keeps (slot : SlotNo) (crkey : Nat) (s : State) : ∃ t, execReservationRelease slot crkey s =
    .next t ∧ Keeps s.frame t.frame := by
  refine ⟨_, rfl, ?_⟩
  repeat' (first | with_reducible exact Keeps.refl _ | dsimp only
                 | with_reducible apply Keeps.trans ?_ (Keeps.of_eq (begin_frame ..))
                 | with_reducible apply Keeps.trans ?_ (Keeps.of_eq (resvCmd_frame (hf := ?_) ..)) | (intro _)
                 | simp only [finishCmd_frame, resvNote_frame, resvDone_frame, apply_ite
                 State.frame, ite_self])

theorem execReservationReport_keeps (slot : SlotNo) (s : State) : ∃ t, execReservationReport slot s = .next t ∧ Keeps s.frame
    t.frame := by
  refine ⟨_, rfl, ?_⟩
  repeat' (first | with_reducible exact Keeps.refl _ | with_reducible apply Keeps.trans ?_ (Keeps.of_eq (begin_frame ..))
                 | with_reducible apply Keeps.trans ?_ (Keeps.of_eq (resvCmd_frame (hf := ?_) ..)) | (intro _)
                 | simp only [emit_frame, finishCmd_frame, apply_ite State.frame, ite_self])

theorem execThermalTick_keeps (s : State) : ∃ t, execThermalTick s = .next t ∧ Keeps s.frame t.frame := by
  refine ⟨_, rfl, Keeps.of_eq ?_⟩
  have hr : ∀ (s : State) (r : RetState), State.frame { s with ret := r } = s.frame := fun _ _ => rfl
  have h : ∀ s : State, (smartSeconds (eachOf (List.range (fenCount s)) fenTemp s)).frame = s.frame := fun s => by
    rw [smartSeconds_frame]; exact eachOf_frame _ _ _ (fun _ _ => fenTemp_frame ..)
  have h0 : ∀ (l : List Nat) (s : State),
      (eachOf l (fun l s => if l = 0xFFFF then s else linkTemp l (ageLink l s)) s).frame = s.frame := fun l s => by
    refine eachOf_frame _ _ _ (fun _ _ => ?_)
    simp only [linkTemp_frame, ageLink_frame, apply_ite State.frame, ite_self]
  dsimp only; split
  · rw [h, h0, begin_frame]
  · rw [hr, h, h0, begin_frame]

theorem execThermalSave_keeps (s : State) : ∃ t, execThermalSave s = .next t ∧ Keeps s.frame t.frame := by
  refine ⟨_, rfl, ?_⟩
  repeat' (first | with_reducible exact Keeps.refl _ | with_reducible apply Keeps.trans ?_ (Keeps.of_eq (begin_frame ..))
                 | with_reducible apply Keeps.trans ?_ (Keeps.of_eq (thermalSave_frame ..)))

theorem execSamplerRead_keeps (link : Link) (block page : Nat) (corrected : List Nat) (s : State) : ∃ t, execSamplerRead link
    block page corrected s = .next t ∧ Keeps s.frame t.frame := by
  refine ⟨_, rfl, ?_⟩
  repeat' (first | with_reducible exact Keeps.refl _ | with_reducible apply Keeps.ite ?_ ?_
                 | with_reducible apply Keeps.trans ?_ (Keeps.of_eq (begin_frame ..))
                 | with_reducible apply Keeps.trans ?_ (Keeps.of_eq (measureBlock_frame ..)))

theorem execStripeEvaluate_keeps (stripe : StripeId) (s : State) : ∃ t, execStripeEvaluate stripe s = .next t ∧ Keeps
    s.frame t.frame := by
  refine ⟨_, rfl, ?_⟩
  repeat' (first | with_reducible exact Keeps.refl _ | dsimp only
                 | with_reducible apply Keeps.trans ?_ (Keeps.of_eq (judgeStripe_frame ..))
                 | with_reducible apply Keeps.trans ?_ (Keeps.of_eq (begin_frame ..))
                 | with_reducible apply Keeps.trans ?_ (metaRefresh_keeps ..) | with_reducible apply Keeps.ite ?_ ?_
                 | (intro _)
                 | simp only [judgeStripe_frame, begin_frame, frame_mk, frame_eta, apply_ite State.frame, ite_self]
                 | with_reducible refine Keeps.trans ?_ (eachOf_keeps _ _ _ ?_)
                 | with_reducible refine Keeps.trans ?_ (foldl_keeps _ _ _ ?_) | (split))

theorem execWitnessReprogram_keeps (link : Link) (group : Fin 16) (ok : Bool) (s : State) : ∃ t, execWitnessReprogram
    link group ok s = .next t ∧ Keeps s.frame t.frame := by
  refine ⟨_, rfl, ?_⟩
  repeat' (first | with_reducible exact Keeps.refl _ | dsimp only
                 | with_reducible apply Keeps.trans ?_ (Keeps.of_eq (begin_frame ..))
                 | with_reducible apply Keeps.trans ?_ (Keeps.of_eq (witnessProgram_frame ..))
                 | with_reducible apply Keeps.trans ?_ (Keeps.of_eq (wipeBlock_frame ..))
                 | with_reducible apply Keeps.trans ?_ (Keeps.of_eq (putBlock_frame ..))
                 | with_reducible apply Keeps.ite ?_ ?_ | (intro _)
                 | simp only [begin_frame, witnessProgram_frame, wipeBlock_frame, putBlock_frame, frame_mk, frame_eta,
                     apply_ite State.frame, ite_self] | with_reducible refine Keeps.trans ?_ (eachOf_keeps _ _ _ ?_)
                 | with_reducible refine Keeps.trans ?_ (foldl_keeps _ _ _ ?_) | (split))

theorem execDredgeStart_keeps (_path : AccessPath) (s : State) : ∃ t, execDredgeStart _path s = .next t ∧ Keeps s.frame
    t.frame := by
  refine ⟨_, rfl, ?_⟩
  repeat' (first | with_reducible exact Keeps.refl _ | with_reducible apply Keeps.trans ?_ (Keeps.of_eq (begin_frame ..))
                 | with_reducible apply Keeps.trans ?_ (Keeps.of_eq (dredgeStart_frame ..)))

theorem execDredgeAbort_keeps (_path : AccessPath) (s : State) : ∃ t, execDredgeAbort _path s = .next t ∧ Keeps s.frame
    t.frame := by
  refine ⟨_, rfl, ?_⟩
  repeat' (first | with_reducible exact Keeps.refl _ | with_reducible apply Keeps.trans ?_ (Keeps.of_eq (begin_frame ..))
                 | with_reducible apply Keeps.trans ?_ (Keeps.of_eq (dredgeAbort_frame ..)))

theorem execDredgeStripeCheck_keeps (passId : Nat) (stripe : StripeId) (finding : DredgeFinding) (s : State) : ∃ t,
    execDredgeStripeCheck passId stripe finding s = .next t ∧ Keeps s.frame t.frame := by
  refine ⟨_, rfl, ?_⟩
  repeat' (first | with_reducible exact Keeps.refl _ | dsimp only
                 | with_reducible apply Keeps.trans ?_ (Keeps.of_eq (begin_frame ..))
                 | with_reducible apply Keeps.trans ?_ (Keeps.of_eq (wr_frame ..))
                 | with_reducible apply Keeps.trans ?_ (Keeps.of_eq (healthAdd_frame ..))
                 | with_reducible apply Keeps.trans ?_ (Keeps.of_eq (count_frame ..))
                 | with_reducible apply Keeps.trans ?_ (Keeps.of_eq (passMeasure_frame ..))
                 | with_reducible apply Keeps.trans ?_ (Keeps.of_eq (setDue_frame ..))
                 | with_reducible apply Keeps.trans ?_ (Keeps.of_eq (peatRecord_frame ..))
                 | with_reducible apply Keeps.trans ?_ (Keeps.of_eq (loseUnitAt_frame ..))
                 | with_reducible apply Keeps.trans ?_ (Keeps.of_eq (catchupNote_frame ..))
                 | with_reducible apply Keeps.trans ?_ (Keeps.of_eq (putPass_frame ..))
                 | with_reducible apply Keeps.ite ?_ ?_ | (intro _)
                 | simp only [begin_frame, wr_frame, healthAdd_frame, count_frame, passMeasure_frame, setDue_frame,
                     peatRecord_frame, loseUnitAt_frame, catchupNote_frame, putPass_frame, frame_mk, frame_eta, apply_ite
                     State.frame, ite_self] | with_reducible refine Keeps.trans ?_ (eachOf_keeps _ _ _ ?_)
                 | with_reducible refine Keeps.trans ?_ (foldl_keeps _ _ _ ?_) | (split))

theorem execDredgeCursorTimer_keeps (passId : Nat) (s : State) : ∃ t, execDredgeCursorTimer passId s = .next t ∧ Keeps
    s.frame t.frame := by
  refine ⟨_, rfl, ?_⟩
  repeat' (first | with_reducible exact Keeps.refl _ | with_reducible apply Keeps.ite ?_ ?_
                 | with_reducible apply Keeps.trans ?_ (Keeps.of_eq (begin_frame ..))
                 | with_reducible apply Keeps.trans ?_ (Keeps.of_eq (putPass_frame ..)) | (split))

end Sys2Proof.Machine
end

