-- ==== Sys2Proof/Laws/FrameExec2.lean ====
section
/-! SUPPORT. Every command completes and keeps what FrameBase names. -/

namespace Sys2Proof.Machine

open Sys2Proof

theorem execDredgePassEnd_keeps (passId : Nat) (s : State) : ∃ t, execDredgePassEnd passId s = .next t ∧ Keeps s.frame
    t.frame := by
  refine ⟨_, rfl, ?_⟩
  repeat' (first | with_reducible exact Keeps.refl _ | dsimp only
                 | with_reducible apply Keeps.trans ?_ (Keeps.of_eq (begin_frame ..))
                 | with_reducible apply Keeps.trans ?_ (Keeps.of_eq (endPass_frame ..))
                 | with_reducible apply Keeps.ite ?_ ?_ | (intro _)
                 | simp only [begin_frame, endPass_frame, frame_mk, frame_eta, apply_ite State.frame, ite_self]
                 | with_reducible refine Keeps.trans ?_ (eachOf_keeps _ _ _ ?_)
                 | with_reducible refine Keeps.trans ?_ (foldl_keeps _ _ _ ?_) | (split))

theorem execNvmeRead_keeps (slot : SlotNo) (s : State) : ∃ t, execNvmeRead slot s = .next t ∧ Keeps s.frame t.frame := by
  refine ⟨_, rfl, ?_⟩
  repeat' (first | with_reducible exact Keeps.refl _ | dsimp only
                 | with_reducible apply Keeps.trans ?_ (Keeps.of_eq (finishCmd_frame ..))
                 | with_reducible apply Keeps.trans ?_ (Keeps.of_eq (countRead_frame ..))
                 | with_reducible apply Keeps.trans ?_ (Keeps.of_eq (emit_frame ..))
                 | with_reducible apply Keeps.trans ?_ (Keeps.of_eq (countUnrecovered_frame ..))
                 | with_reducible apply Keeps.trans ?_ (Keeps.of_eq (begin_frame ..))
                 | with_reducible apply Keeps.trans ?_ (stageUnit_keeps ..)
                 | with_reducible apply Keeps.trans ?_ (blockCmd_keeps (hf := ?_) ..)
                 | with_reducible apply Keeps.ite ?_ ?_ | (intro _)
                 | simp only [finishCmd_frame, countRead_frame, emit_frame, countUnrecovered_frame, begin_frame,
                     frame_mk, frame_eta, apply_ite State.frame, ite_self]
                 | with_reducible refine Keeps.trans ?_ (eachOf_keeps _ _ _ ?_)
                 | with_reducible refine Keeps.trans ?_ (foldl_keeps _ _ _ ?_) | (split))

theorem execCompare_keeps (slot : SlotNo) (data : List Nat) (s : State) : ∃ t, execCompare slot data s = .next t ∧ Keeps
    s.frame t.frame := by
  refine ⟨_, rfl, ?_⟩
  repeat' (first | with_reducible exact Keeps.refl _ | with_reducible apply Keeps.trans ?_ (Keeps.of_eq (begin_frame ..))
                 | with_reducible apply Keeps.trans ?_ (Keeps.of_eq (blockCmd_frame (hf := ?_) ..)) | (intro _)
                 | simp only [finishCmd_frame, countUnrecovered_frame, countRead_frame, 
                 apply_ite State.frame, ite_self])

theorem execVerify_keeps (slot : SlotNo) (s : State) : ∃ t, execVerify slot s = .next t ∧ Keeps s.frame t.frame := by
  refine ⟨_, rfl, ?_⟩
  repeat' (first | with_reducible exact Keeps.refl _ | dsimp only
                 | with_reducible apply Keeps.trans ?_ (Keeps.of_eq (newPass_frame ..))
                 | with_reducible apply Keeps.trans ?_ (Keeps.of_eq (drawn_frame ..))
                 | with_reducible apply Keeps.trans ?_ (Keeps.of_eq (declareUnitLost_frame ..))
                 | with_reducible apply Keeps.trans ?_ (Keeps.of_eq (finishCmd_frame ..))
                 | with_reducible apply Keeps.trans ?_ (Keeps.of_eq (countUnrecovered_frame ..))
                 | with_reducible apply Keeps.trans ?_ (Keeps.of_eq (begin_frame ..))
                 | with_reducible apply Keeps.trans ?_ (blockCmd_keeps (hf := ?_) ..)
                 | with_reducible apply Keeps.ite ?_ ?_ | (intro _)
                 | simp only [newPass_frame, drawn_frame, declareUnitLost_frame, finishCmd_frame, countUnrecovered_frame,
                     begin_frame, frame_mk, frame_eta, apply_ite State.frame, ite_self]
                 | with_reducible refine Keeps.trans ?_ (eachOf_keeps _ _ _ ?_)
                 | with_reducible refine Keeps.trans ?_ (foldl_keeps _ _ _ ?_) | (split))

theorem execNvmeFlush_keeps (slot : SlotNo) (s : State) : ∃ t, execNvmeFlush slot s = .next t ∧ Keeps s.frame t.frame := by
  refine ⟨_, rfl, ?_⟩
  repeat' (first | with_reducible exact Keeps.refl _ | with_reducible apply Keeps.trans ?_ (Keeps.of_eq (begin_frame ..))
                 | with_reducible apply Keeps.trans ?_ (Keeps.of_eq (withCmd_frame (hf := ?_) ..)) | (intro _)
                 | simp only [putSlot_frame, finishCmd_frame, apply_ite State.frame,
                 ite_self])

theorem execNvmeWrite_keeps (slot : SlotNo) (data : List Nat) (s : State) : ∃ t, execNvmeWrite slot data s = .next t ∧
    Keeps s.frame t.frame := by
  refine ⟨_, rfl, ?_⟩
  repeat' (first | with_reducible exact Keeps.refl _ | dsimp only
                 | with_reducible apply Keeps.trans ?_ (Keeps.of_eq (begin_frame ..))
                 | with_reducible apply Keeps.trans ?_ (placedWrite_keeps ..)
                 | with_reducible apply Keeps.trans ?_ (blockCmd_keeps (hf := ?_) ..)
                 | with_reducible apply Keeps.ite ?_ ?_ | (intro _)
                 | simp only [begin_frame, frame_mk, frame_eta, apply_ite State.frame, ite_self]
                 | with_reducible refine Keeps.trans ?_ (eachOf_keeps _ _ _ ?_)
                 | with_reducible refine Keeps.trans ?_ (foldl_keeps _ _ _ ?_) | (split))

theorem execZoneAppend_keeps (slot : SlotNo) (data : List Nat) (s : State) : ∃ t, execZoneAppend slot data s = .next t ∧
    Keeps s.frame t.frame := by
  refine ⟨_, rfl, ?_⟩
  repeat' (first | with_reducible exact Keeps.refl _ | dsimp only
                 | with_reducible apply Keeps.trans ?_ (Keeps.of_eq (finishCmd_frame ..))
                 | with_reducible apply Keeps.trans ?_ (Keeps.of_eq (begin_frame ..))
                 | with_reducible apply Keeps.trans ?_ (runWrite_keeps ..)
                 | with_reducible apply Keeps.trans ?_ (blockCmd_keeps (hf := ?_) ..)
                 | with_reducible apply Keeps.ite ?_ ?_ | (intro _)
                 | simp only [finishCmd_frame, begin_frame, frame_mk, frame_eta, apply_ite State.frame, ite_self]
                 | with_reducible refine Keeps.trans ?_ (eachOf_keeps _ _ _ ?_)
                 | with_reducible refine Keeps.trans ?_ (foldl_keeps _ _ _ ?_) | (split))

theorem execWriteZeroes_keeps (slot : SlotNo) (s : State) : ∃ t, execWriteZeroes slot s = .next t ∧ Keeps s.frame t.frame := by
  refine ⟨_, rfl, (Keeps.of_eq (begin_frame _)).trans (blockCmd_keeps _ _ _ _ ?_)⟩
  intro k c x s; try dsimp only
  by_cases h : x.zoned = true
  · rw [if_pos h]; exact placedWrite_keeps ..
  · rw [if_neg h]; exact endZero_keeps (hf := fun _ h => zeroRange_keeps h) ..

theorem execDatasetManagement_keeps (slot : SlotNo) (ranges : List LbaRange) (s : State) : ∃ t, execDatasetManagement slot
    ranges s = .next t ∧ Keeps s.frame t.frame := by
  refine ⟨_, rfl, (Keeps.of_eq (begin_frame _)).trans (blockCmd_keeps _ _ _ _ ?_)⟩
  have H : ∀ (k : Cmd) (l : List LbaRange) (r : Option State) (t : State),
      l.foldl (fun r e => r.bind (zeroRange k.nsid k.cls e.slba e.nlb)) r = some t → ∃ s0, r = some s0 ∧ Keeps s0.frame t.frame := by
    intro k l
    induction l with
    | nil => intro r t h; exact ⟨t, h, Keeps.refl _⟩
    | cons a l ih =>
      intro r t h
      obtain ⟨s1, e1, h1⟩ := ih _ _ h
      cases r with
      | none => cases e1
      | some s0 => exact ⟨s0, rfl, (zeroRange_keeps e1).trans h1⟩
  intro k c x s; try dsimp only; split
  · exact Keeps.of_eq (finishCmd_frame ..)
  · split
    · exact Keeps.of_eq (finishCmd_frame ..)
    · refine endZero_keeps (hf := fun t h => ?_) ..
      obtain ⟨s0, e0, h0⟩ := H _ _ _ _ h
      cases e0; exact h0

theorem execCopy_keeps (slot : SlotNo) (ranges : List LbaRange) (s : State) : ∃ t, execCopy slot ranges s = .next t ∧
    Keeps s.frame t.frame := by
  refine ⟨_, rfl, ?_⟩
  repeat' (first | with_reducible exact Keeps.refl _ | dsimp only
                 | with_reducible apply Keeps.trans ?_ (Keeps.of_eq (finishCmd_frame ..))
                 | with_reducible apply Keeps.trans ?_ (Keeps.of_eq (wr_frame ..))
                 | with_reducible apply Keeps.trans ?_ (Keeps.of_eq (countUnrecovered_frame ..))
                 | with_reducible apply Keeps.trans ?_ (Keeps.of_eq (finishWrite_frame ..))
                 | with_reducible apply Keeps.trans ?_ (Keeps.of_eq (begin_frame ..))
                 | with_reducible apply Keeps.trans ?_ (copyRanges_keeps ..)
                 | with_reducible apply Keeps.trans ?_ (blockCmd_keeps (hf := ?_) ..)
                 | with_reducible apply Keeps.trans ?_ (copyRanges_keeps' (by assumption))
                 | with_reducible apply Keeps.ite ?_ ?_ | (intro _)
                 | simp only [finishCmd_frame, wr_frame, countUnrecovered_frame, finishWrite_frame, begin_frame,
                     frame_mk, frame_eta, apply_ite State.frame, ite_self]
                 | with_reducible refine Keeps.trans ?_ (eachOf_keeps _ _ _ ?_)
                 | with_reducible refine Keeps.trans ?_ (foldl_keeps _ _ _ ?_) | (split))

theorem execZoneOpen_keeps (slot : SlotNo) (s : State) : ∃ t, execZoneOpen slot s = .next t ∧ Keeps s.frame t.frame := by
  refine ⟨_, rfl, ?_⟩
  repeat' (first | with_reducible exact Keeps.refl _ | dsimp only
                 | with_reducible apply Keeps.trans ?_ (Keeps.of_eq (begin_frame ..))
                 | with_reducible apply Keeps.trans ?_ (Keeps.of_eq (zoneSend_frame (hf := ?_) ..)) | (intro _)
                 | refine (eachOf_frame _ _ _ ?_).trans ?_
                 | simp only [finishCmd_frame, setZone_frame, apply_ite State.frame] | (split))

theorem execZoneClose_keeps (slot : SlotNo) (s : State) : ∃ t, execZoneClose slot s = .next t ∧ Keeps s.frame t.frame := by
  refine ⟨_, rfl, ?_⟩
  repeat' (first | with_reducible exact Keeps.refl _ | dsimp only
                 | with_reducible apply Keeps.trans ?_ (Keeps.of_eq (begin_frame ..))
                 | with_reducible apply Keeps.trans ?_ (Keeps.of_eq (zoneSend_frame (hf := ?_) ..)) | (intro _)
                 | refine (eachOf_frame _ _ _ ?_).trans ?_
                 | simp only [finishCmd_frame, setZone_frame])

theorem execZoneFinish_keeps (slot : SlotNo) (s : State) : ∃ t, execZoneFinish slot s = .next t ∧ Keeps s.frame t.frame
    := by
  refine ⟨_, rfl, ?_⟩
  repeat' (first | with_reducible exact Keeps.refl _ | dsimp only
                 | with_reducible apply Keeps.trans ?_ (Keeps.of_eq (noteChanged_frame ..))
                 | with_reducible apply Keeps.trans ?_ (Keeps.of_eq (finishZone_frame ..))
                 | with_reducible apply Keeps.trans ?_ (Keeps.of_eq (enterFilling_frame ..))
                 | with_reducible apply Keeps.trans ?_ (Keeps.of_eq (finishWrite_frame ..))
                 | with_reducible apply Keeps.trans ?_ (Keeps.of_eq (begin_frame ..))
                 | with_reducible apply Keeps.trans ?_ (startFold_keeps ..)
                 | with_reducible apply Keeps.trans ?_ (zoneSend_keeps (hf := ?_) ..)
                 | with_reducible apply Keeps.ite ?_ ?_ | (intro _)
                 | simp only [noteChanged_frame, finishZone_frame, enterFilling_frame, finishWrite_frame, begin_frame,
                     frame_mk, frame_eta, apply_ite State.frame, ite_self]
                 | with_reducible refine Keeps.trans ?_ (eachOf_keeps _ _ _ ?_)
                 | with_reducible refine Keeps.trans ?_ (foldl_keeps _ _ _ ?_) | (split))

theorem execZoneReset_keeps (slot : SlotNo) (s : State) : ∃ t, execZoneReset slot s = .next t ∧ Keeps s.frame t.frame := by
  refine ⟨_, rfl, ?_⟩
  repeat' (first | with_reducible exact Keeps.refl _ | dsimp only
                 | with_reducible apply Keeps.trans ?_ (Keeps.of_eq (noteChanged_frame ..))
                 | with_reducible apply Keeps.trans ?_ (Keeps.of_eq (putPtr_frame ..))
                 | with_reducible apply Keeps.trans ?_ (Keeps.of_eq (finishWrite_frame ..))
                 | with_reducible apply Keeps.trans ?_ (Keeps.of_eq (begin_frame ..))
                 | with_reducible apply Keeps.trans ?_ (unmapTract_keeps ..)
                 | with_reducible apply Keeps.trans ?_ (zoneSend_keeps (hf := ?_) ..)
                 | with_reducible apply Keeps.ite ?_ ?_ | (intro _)
                 | simp only [noteChanged_frame, putPtr_frame, finishWrite_frame, begin_frame, frame_mk, frame_eta,
                     apply_ite State.frame, ite_self] | with_reducible refine Keeps.trans ?_ (eachOf_keeps _ _ _ ?_)
                 | with_reducible refine Keeps.trans ?_ (foldl_keeps _ _ _ ?_) | (split))

theorem execZoneManagementReceive_keeps (slot : SlotNo) (s : State) : ∃ t, execZoneManagementReceive slot s = .next t ∧ Keeps
    s.frame t.frame := by
  refine ⟨_, rfl, ?_⟩
  repeat' (first | with_reducible exact Keeps.refl _ | dsimp only
                 | with_reducible apply Keeps.trans ?_ (Keeps.of_eq (begin_frame ..))
                 | with_reducible apply Keeps.trans ?_ (Keeps.of_eq (blockCmd_frame (hf := ?_) ..)) | (intro _)
                 | simp only [emit_frame, finishCmd_frame, apply_ite State.frame, ite_self])

theorem execNamespaceCreate_keeps (slot : SlotNo) (data : NsCreate) (s : State) : ∃ t, execNamespaceCreate slot data s =
    .next t ∧ Keeps s.frame t.frame := by
  refine ⟨_, rfl, ?_⟩
  repeat' (first | with_reducible exact Keeps.refl _ | dsimp only
                 | with_reducible apply Keeps.trans ?_ (Keeps.of_eq (begin_frame ..))
                 | with_reducible apply Keeps.trans ?_ (Keeps.of_eq (withCmd_frame (hf := ?_) ..)) | (intro _)
                 | simp only [putSlot_frame, finishCmd_frame, finishChanged_frame, waitDrbg_frame,
                 createNs_frame, frame_mk, frame_eta, apply_ite State.frame, ite_self])

theorem execNamespaceDelete_keeps (slot : SlotNo) (s : State) : ∃ t, execNamespaceDelete slot s = .next t ∧ Keeps
    s.frame t.frame := by
  refine ⟨_, rfl, ?_⟩
  repeat' (first | with_reducible exact Keeps.refl _ | dsimp only
                 | with_reducible apply Keeps.trans ?_ (Keeps.of_eq (finishCmd_frame ..))
                 | with_reducible apply Keeps.trans ?_ (Keeps.of_eq (fenRefresh_frame ..))
                 | with_reducible apply Keeps.trans ?_ (Keeps.of_eq (putSlot_frame ..))
                 | with_reducible apply Keeps.trans ?_ (Keeps.of_eq (begin_frame ..))
                 | with_reducible apply Keeps.trans ?_ (deleteNs_keeps ..)
                 | with_reducible apply Keeps.trans ?_ (withCmd_keeps (hf := ?_) ..)
                 | with_reducible apply Keeps.ite ?_ ?_ | (intro _)
                 | simp only [finishCmd_frame, fenRefresh_frame, putSlot_frame, begin_frame, frame_mk, frame_eta,
                     apply_ite State.frame, ite_self] | with_reducible refine Keeps.trans ?_ (eachOf_keeps _ _ _ ?_)
                 | with_reducible refine Keeps.trans ?_ (foldl_keeps _ _ _ ?_) | (split))

theorem execNamespaceAttach_keeps (slot : SlotNo) (ctrls : List Nat) (s : State) : ∃ t, execNamespaceAttach slot ctrls s =
    .next t ∧ Keeps s.frame t.frame := by
  refine ⟨_, rfl, ?_⟩
  repeat' (first | with_reducible exact Keeps.refl _ | dsimp only
                 | with_reducible apply Keeps.trans ?_ (Keeps.of_eq (begin_frame ..))
                 | with_reducible apply Keeps.trans ?_ (Keeps.of_eq (withCmd_frame (hf := ?_) ..)) | (intro _)
                 | refine (eachOf_frame _ _ _ ?_).trans ?_
                 | simp only [putCtrl_frame, finishCmd_frame, nsNotice_frame, apply_ite
                 State.frame] | (split))

theorem execNamespaceDetach_keeps (slot : SlotNo) (ctrls : List Nat) (s : State) : ∃ t, execNamespaceDetach slot ctrls s =
    .next t ∧ Keeps s.frame t.frame := by
  refine ⟨_, rfl, ?_⟩
  repeat' (first | with_reducible exact Keeps.refl _ | dsimp only
                 | with_reducible apply Keeps.trans ?_ (Keeps.of_eq (begin_frame ..))
                 | with_reducible apply Keeps.trans ?_ (Keeps.of_eq (withCmd_frame (hf := ?_) ..)) | (intro _)
                 | refine (eachOf_frame _ _ _ ?_).trans ?_
                 | simp only [finishCmd_frame, detachOne_frame, apply_ite State.frame] | (split))

theorem execFormatNvm_keeps (slot : SlotNo) (s : State) : ∃ t, execFormatNvm slot s = .next t ∧ Keeps s.frame t.frame := by
  refine ⟨_, rfl, ?_⟩
  repeat' (first | with_reducible exact Keeps.refl _ | dsimp only
                 | with_reducible apply Keeps.trans ?_ (Keeps.of_eq (finishCmd_frame ..))
                 | with_reducible apply Keeps.trans ?_ (Keeps.of_eq (waitDrbg_frame ..))
                 | with_reducible apply Keeps.trans ?_ (Keeps.of_eq (putNs_frame ..))
                 | with_reducible apply Keeps.trans ?_ (Keeps.of_eq (finishWrite_frame ..))
                 | with_reducible apply Keeps.trans ?_ (Keeps.of_eq (newKey_frame ..))
                 | with_reducible apply Keeps.trans ?_ (Keeps.of_eq (drainSlot_frame ..))
                 | with_reducible apply Keeps.trans ?_ (Keeps.of_eq (putSlot_frame ..))
                 | with_reducible apply Keeps.trans ?_ (Keeps.of_eq (begin_frame ..))
                 | with_reducible apply Keeps.trans ?_ (unmapNs_keeps ..)
                 | with_reducible apply Keeps.trans ?_ (withCmd_keeps (hf := ?_) ..)
                 | with_reducible apply Keeps.ite ?_ ?_ | (intro _)
                 | simp only [finishCmd_frame, waitDrbg_frame, putNs_frame, finishWrite_frame, newKey_frame,
                     drainSlot_frame, putSlot_frame, begin_frame, frame_mk, frame_eta, apply_ite State.frame, ite_self]
                 | with_reducible refine Keeps.trans ?_ (eachOf_keeps _ _ _ ?_)
                 | with_reducible refine Keeps.trans ?_ (foldl_keeps _ _ _ ?_) | (split))

theorem execSanitizeCryptoErase_keeps (slot : SlotNo) (s : State) : ∃ t, execSanitizeCryptoErase slot s = .next t ∧
    Keeps s.frame t.frame := by
  refine ⟨_, rfl, ?_⟩
  repeat' (first | with_reducible exact Keeps.refl _ | dsimp only
                 | with_reducible apply Keeps.trans ?_ (Keeps.of_eq (finishCmd_frame ..))
                 | with_reducible apply Keeps.trans ?_ (Keeps.of_eq (waitDrbg_frame ..))
                 | with_reducible apply Keeps.trans ?_ (Keeps.of_eq (putNs_frame ..))
                 | with_reducible apply Keeps.trans ?_ (Keeps.of_eq (newKey_frame ..))
                 | with_reducible apply Keeps.trans ?_ (Keeps.of_eq (drainSlot_frame ..))
                 | with_reducible apply Keeps.trans ?_ (Keeps.of_eq (putSlot_frame ..))
                 | with_reducible apply Keeps.trans ?_ (Keeps.of_eq (begin_frame ..))
                 | with_reducible apply Keeps.trans ?_ (unmapNs_keeps ..)
                 | with_reducible apply Keeps.trans ?_ (withCmd_keeps (hf := ?_) ..)
                 | with_reducible apply Keeps.ite ?_ ?_ | (intro _)
                 | simp only [finishCmd_frame, waitDrbg_frame, putNs_frame, newKey_frame, drainSlot_frame, putSlot_frame,
                     begin_frame, frame_mk, frame_eta, apply_ite State.frame, ite_self]
                 | with_reducible refine Keeps.trans ?_ (eachOf_keeps _ _ _ ?_)
                 | with_reducible refine Keeps.trans ?_ (foldl_keeps _ _ _ ?_) | (split))

theorem execSanitizeExitFailureMode_keeps (slot : SlotNo) (s : State) : ∃ t, execSanitizeExitFailureMode slot s = .next t ∧
    Keeps s.frame t.frame := by
  refine ⟨_, rfl, ?_⟩
  repeat' (first | with_reducible exact Keeps.refl _ | dsimp only
                 | with_reducible apply Keeps.trans ?_ (Keeps.of_eq (begin_frame ..))
                 | with_reducible apply Keeps.trans ?_ (Keeps.of_eq (withCmd_frame (hf := ?_) ..)) | (intro _)
                 | simp only [finishCmd_frame, frame_mk, frame_eta])

theorem execGetLogPage_keeps (slot : SlotNo) (s : State) : ∃ t, execGetLogPage slot s = .next t ∧ Keeps s.frame t.frame := by
  refine ⟨_, rfl, ?_⟩
  repeat' (first | with_reducible exact Keeps.refl _ | dsimp only
                 | with_reducible apply Keeps.trans ?_ (Keeps.of_eq (begin_frame ..))
                 | with_reducible apply Keeps.trans ?_ (Keeps.of_eq (withCmd_frame (hf := ?_) ..)) | (intro _)
                 | simp only [emit_frame, finishCmd_frame, logRead_frame, apply_ite
                 State.frame, ite_self] | (split))

theorem execIdentify_keeps (slot : SlotNo) (s : State) : ∃ t, execIdentify slot s = .next t ∧ Keeps s.frame t.frame := by
  refine ⟨_, rfl, ?_⟩
  repeat' (first | with_reducible exact Keeps.refl _ | with_reducible apply Keeps.trans ?_ (Keeps.of_eq (begin_frame ..))
                 | with_reducible apply Keeps.trans ?_ (Keeps.of_eq (withCmd_frame (hf := ?_) ..)) | (intro _)
                 | simp only [emit_frame, finishCmd_frame]
                 | (split))

theorem execGetLbaStatus_keeps (slot : SlotNo) (s : State) : ∃ t, execGetLbaStatus slot s = .next t ∧ Keeps s.frame t.frame
    := by
  refine ⟨_, rfl, ?_⟩
  repeat' (first | with_reducible exact Keeps.refl _ | dsimp only
                 | with_reducible apply Keeps.trans ?_ (Keeps.of_eq (begin_frame ..))
                 | with_reducible apply Keeps.trans ?_ (Keeps.of_eq (withCmd_frame (hf := ?_) ..)) | (intro _)
                 | simp only [emit_frame, finishCmd_frame, apply_ite State.frame, ite_self]
                 | (split))

theorem execDmaRingTailWrite_keeps (_path : AccessPath) (chan : Fin 96) (tail : Word) (s : State) : ∃ t, execDmaRingTailWrite
    _path chan tail s = .next t ∧ Keeps s.frame t.frame := by
  refine ⟨_, rfl, ?_⟩
  repeat' (first | with_reducible exact Keeps.refl _ | with_reducible apply Keeps.ite ?_ ?_
                 | with_reducible apply Keeps.trans ?_ (dmaNext_keeps ..)
                 | with_reducible apply Keeps.trans ?_ (Keeps.of_eq (wr_frame _ _ _ _))
                 | with_reducible apply Keeps.trans ?_ (Keeps.of_eq (begin_frame ..)))

theorem execHostToMere_keeps (chan : Fin 96) (data : Nat) (s : State) : ∃ t, execHostToMere chan data s = .next t ∧
    Keeps s.frame t.frame := by
  refine ⟨_, rfl, ?_⟩
  repeat' (first | with_reducible exact Keeps.refl _ | dsimp only
                 | with_reducible apply Keeps.trans ?_ (Keeps.of_eq (begin_frame ..))
                 | with_reducible apply Keeps.trans ?_ (dmaStore_keeps ..)
                 | with_reducible apply Keeps.trans ?_ (hostRun_keeps (hf := ?_) ..)
                 | with_reducible apply Keeps.trans ?_ (dmaStore_keeps' (by assumption))
                 | with_reducible apply Keeps.ite ?_ ?_ | (intro _)
                 | simp only [begin_frame, frame_mk, frame_eta, apply_ite State.frame, ite_self]
                 | with_reducible refine Keeps.trans ?_ (eachOf_keeps _ _ _ ?_)
                 | with_reducible refine Keeps.trans ?_ (foldl_keeps _ _ _ ?_) | (split))

theorem execMereToHost_keeps (chan : Fin 96) (s : State) : ∃ t, execMereToHost chan s = .next t ∧ Keeps s.frame t.frame
    := by
  refine ⟨_, rfl, ?_⟩
  repeat' (first | with_reducible exact Keeps.refl _ | dsimp only
                 | with_reducible apply Keeps.trans ?_ (Keeps.of_eq (emit_frame ..))
                 | with_reducible apply Keeps.trans ?_ (Keeps.of_eq (begin_frame ..))
                 | with_reducible apply Keeps.trans ?_ (dmaLoad_keeps ..)
                 | with_reducible apply Keeps.trans ?_ (hostRun_keeps (hf := ?_) ..)
                 | with_reducible apply Keeps.trans ?_ (dmaLoad_keeps' (by assumption))
                 | with_reducible apply Keeps.ite ?_ ?_ | (intro _)
                 | simp only [emit_frame, begin_frame, frame_mk, frame_eta, apply_ite State.frame, ite_self]
                 | with_reducible refine Keeps.trans ?_ (eachOf_keeps _ _ _ ?_)
                 | with_reducible refine Keeps.trans ?_ (foldl_keeps _ _ _ ?_) | (split))

theorem execDmaCopy_keeps (chan : Fin 96) (s : State) : ∃ t, execDmaCopy chan s = .next t ∧ Keeps s.frame t.frame := by
  refine ⟨_, rfl, ?_⟩
  repeat' (first | with_reducible exact Keeps.refl _ | dsimp only | with_reducible apply Keeps.trans ?_ (dmaStore_keeps ..)
                 | with_reducible apply Keeps.trans ?_ (Keeps.of_eq (begin_frame ..))
                 | with_reducible apply Keeps.trans ?_ (dmaLoad_keeps' (by assumption))
                 | with_reducible apply Keeps.trans ?_ (dmaRun_keeps (hf := ?_) ..) | (intro _) | (split))

theorem execDmaTimerTick_keeps (timer : Fin 16) (s : State) : ∃ t, execDmaTimerTick timer s = .next t ∧ Keeps s.frame t.frame
    := by
  refine ⟨_, rfl, ?_⟩
  repeat' (first | with_reducible exact Keeps.refl _ | dsimp only | with_reducible apply Keeps.ite ?_ ?_
                 | with_reducible apply Keeps.trans ?_ (Keeps.of_eq (begin_frame ..))
                 | with_reducible apply Keeps.trans ?_ (Keeps.of_eq (dmaSetState_frame ..))
                 | simp only [frame_mk, frame_eta] | with_reducible apply Keeps.trans ?_ (eachOf_keeps _ _ _ ?_) | (intro _))

theorem execDmaBusError_keeps (chan : Fin 96) (err : DmaError) (s : State) : ∃ t, execDmaBusError chan err s = .next t ∧
    Keeps s.frame t.frame := by
  refine ⟨_, rfl, ?_⟩
  repeat' (first | with_reducible exact Keeps.refl _ | with_reducible apply Keeps.ite ?_ ?_
                 | with_reducible apply Keeps.trans ?_ (Keeps.of_eq (begin_frame ..))
                 | with_reducible apply Keeps.trans ?_ (Keeps.of_eq (dmaError_frame ..)))

theorem execDmaRetryWait_keeps (chan : Fin 96) (ok : Bool) (s : State) : ∃ t, execDmaRetryWait chan ok s = .next t ∧ Keeps
    s.frame t.frame := by
  refine ⟨_, rfl, ?_⟩
  repeat' (first | with_reducible exact Keeps.refl _ | dsimp only | with_reducible apply Keeps.ite ?_ ?_
                 | with_reducible apply Keeps.trans ?_ (Keeps.of_eq (wr_frame _ _ _ _))
                 | with_reducible apply Keeps.trans ?_ (Keeps.of_eq (count_frame _ _ _ _))
                 | with_reducible apply Keeps.trans ?_ (Keeps.of_eq (begin_frame ..))
                 | with_reducible apply Keeps.trans ?_ (Keeps.of_eq (dmaSetState_frame ..))
                 | with_reducible apply Keeps.trans ?_ (Keeps.of_eq (dmaHaltNow_frame ..))
                 | simp only [frame_mk, frame_eta] | (split))

theorem execDmaResume_keeps (path : AccessPath) (chan : Fin 96) (s : State) : ∃ t, execDmaResume path chan s = .next t ∧
    Keeps s.frame t.frame := by
  refine ⟨_, rfl, ?_⟩
  repeat' (first | with_reducible exact Keeps.refl _ | with_reducible apply Keeps.trans ?_ (Keeps.of_eq (begin_frame ..))
                 | with_reducible apply Keeps.trans ?_ (Keeps.of_eq (dmaResumeOp_frame ..)))

theorem execDmaSkip_keeps (path : AccessPath) (chan : Fin 96) (s : State) : ∃ t, execDmaSkip path chan s = .next t ∧ Keeps
    s.frame t.frame := by
  refine ⟨_, rfl, ?_⟩
  repeat' (first | with_reducible exact Keeps.refl _ | with_reducible apply Keeps.trans ?_ (dmaSkipOp_keeps ..)
                 | with_reducible apply Keeps.trans ?_ (Keeps.of_eq (begin_frame ..)))

theorem execDmaReset_keeps (_path : AccessPath) (chan : Fin 96) (s : State) : ∃ t, execDmaReset _path chan s = .next t ∧
    Keeps s.frame t.frame := by
  refine ⟨_, rfl, ?_⟩
  repeat' (first | with_reducible exact Keeps.refl _ | with_reducible apply Keeps.trans ?_ (dmaResetOp_keeps ..)
                 | with_reducible apply Keeps.trans ?_ (Keeps.of_eq (begin_frame ..)))

theorem execPeatEventRecord_keeps (code source : BitVec 16) (arg : Word) (aux : Byte) (s : State) : ∃ t, execPeatEventRecord
    code source arg aux s = .next t ∧ Keeps s.frame t.frame := by
  refine ⟨_, rfl, ?_⟩
  repeat' (first | with_reducible exact Keeps.refl _ | with_reducible apply Keeps.trans ?_ (Keeps.of_eq (begin_frame ..))
                 | with_reducible apply Keeps.trans ?_ (Keeps.of_eq (peatRecord_frame ..)))

theorem execPeatTokenRefill_keeps (code : BitVec 16) (elapsedUs : Nat) (s : State) : ∃ t, execPeatTokenRefill code elapsedUs
    s = .next t ∧ Keeps s.frame t.frame := by
  refine ⟨_, rfl, ?_⟩
  repeat' (first | with_reducible exact Keeps.refl _ | dsimp only | with_reducible apply Keeps.ite ?_ ?_
                 | with_reducible apply Keeps.trans ?_ (Keeps.of_eq (begin_frame ..)) | simp only [frame_mk, frame_eta])

theorem execPeatGapRecord_keeps (s : State) : ∃ t, execPeatGapRecord s = .next t ∧ Keeps s.frame t.frame := by
  refine ⟨_, rfl, ?_⟩
  repeat' (first | with_reducible exact Keeps.refl _ | with_reducible apply Keeps.trans ?_ (Keeps.of_eq (begin_frame ..))
                 | with_reducible apply Keeps.trans ?_ (Keeps.of_eq (peatGap_frame ..)))

theorem execPeatArchiveRow_keeps (ok : Bool) (s : State) : ∃ t, execPeatArchiveRow ok s = .next t ∧ Keeps s.frame
    t.frame := by
  refine ⟨_, rfl, ?_⟩
  repeat' (first | with_reducible exact Keeps.refl _ | dsimp only
                 | with_reducible apply Keeps.trans ?_ (Keeps.of_eq (begin_frame ..))
                 | with_reducible apply Keeps.trans ?_ (peatRow_keeps ..) | with_reducible apply Keeps.ite ?_ ?_
                 | (intro _) | simp only [begin_frame, frame_mk, frame_eta, apply_ite State.frame, ite_self]
                 | with_reducible refine Keeps.trans ?_ (eachOf_keeps _ _ _ ?_)
                 | with_reducible refine Keeps.trans ?_ (foldl_keeps _ _ _ ?_) | (split))

theorem execPeatMaxAgeTimeout_keeps (s : State) : ∃ t, execPeatMaxAgeTimeout s = .next t ∧ Keeps s.frame t.frame := by
  refine ⟨_, rfl, ?_⟩
  repeat' (first | with_reducible exact Keeps.refl _ | dsimp only
                 | with_reducible apply Keeps.trans ?_ (Keeps.of_eq (begin_frame ..))
                 | with_reducible apply Keeps.trans ?_ (peatRow_keeps ..) | with_reducible apply Keeps.ite ?_ ?_
                 | (intro _) | simp only [begin_frame, frame_mk, frame_eta, apply_ite State.frame, ite_self]
                 | with_reducible refine Keeps.trans ?_ (eachOf_keeps _ _ _ ?_)
                 | with_reducible refine Keeps.trans ?_ (foldl_keeps _ _ _ ?_) | (split))

theorem execPeatNow_keeps (_path : AccessPath) (s : State) : ∃ t, execPeatNow _path s = .next t ∧ Keeps s.frame t.frame
    := by
  refine ⟨_, rfl, ?_⟩
  repeat' (first | with_reducible exact Keeps.refl _ | dsimp only
                 | with_reducible apply Keeps.trans ?_ (Keeps.of_eq (begin_frame ..))
                 | with_reducible apply Keeps.trans ?_ (peatArchiveAll_keeps ..) | with_reducible apply Keeps.ite ?_ ?_
                 | (intro _) | simp only [begin_frame, frame_mk, frame_eta, apply_ite State.frame, ite_self]
                 | with_reducible refine Keeps.trans ?_ (eachOf_keeps _ _ _ ?_)
                 | with_reducible refine Keeps.trans ?_ (foldl_keeps _ _ _ ?_) | (split))

theorem execPeatSegmentFull_keeps (s : State) : ∃ t, execPeatSegmentFull s = .next t ∧ Keeps s.frame t.frame := by
  refine ⟨_, rfl, ?_⟩
  repeat' (first | with_reducible exact Keeps.refl _ | with_reducible apply Keeps.ite ?_ ?_
                 | with_reducible apply Keeps.trans ?_ (Keeps.of_eq (begin_frame ..))
                 | with_reducible apply Keeps.trans ?_ (Keeps.of_eq (peatOpen_frame ..)))

theorem execPeatRlWrite_keeps (path : AccessPath) (value : Word) (s : State) : ∃ t, execPeatRlWrite path value s = .next t ∧
    Keeps s.frame t.frame := by
  refine ⟨_, rfl, ?_⟩
  repeat' (first | with_reducible exact Keeps.refl _ | with_reducible apply Keeps.trans ?_ (Keeps.of_eq (begin_frame ..))
                 | with_reducible apply Keeps.trans ?_ (Keeps.of_eq (peatRlWrite_frame ..)))

theorem execDecodeDone_keeps (ladder : Nat) (outcome : DecodeOutcome) (s : State) : ∃ t, execDecodeDone ladder outcome s
    = .next t ∧ Keeps s.frame t.frame := by
  refine ⟨_, rfl, ?_⟩
  repeat' (first | with_reducible exact Keeps.refl _ | dsimp only
                 | with_reducible apply Keeps.trans ?_ (Keeps.of_eq (begin_frame ..))
                 | with_reducible apply Keeps.trans ?_ (Keeps.of_eq (softNote_frame ..))
                 | with_reducible apply Keeps.trans ?_ (Keeps.of_eq (softLeave_frame ..))
                 | with_reducible apply Keeps.trans ?_ (Keeps.of_eq (leaveDecoder_frame ..))
                 | with_reducible apply Keeps.trans ?_ (ladderStep_keeps ..) | with_reducible apply Keeps.ite ?_ ?_
                 | (intro _)
                 | simp only [begin_frame, softNote_frame, softLeave_frame, leaveDecoder_frame, frame_mk, frame_eta,
                     apply_ite State.frame, ite_self] | with_reducible refine Keeps.trans ?_ (eachOf_keeps _ _ _ ?_)
                 | with_reducible refine Keeps.trans ?_ (foldl_keeps _ _ _ ?_) | (split))

theorem execRaceTimeout_keeps (ladder : Nat) (s : State) : ∃ t, execRaceTimeout ladder s = .next t ∧ Keeps s.frame t.frame := by
  refine ⟨_, rfl, ?_⟩
  repeat' (first | with_reducible exact Keeps.refl _ | with_reducible apply Keeps.ite ?_ ?_
                 | with_reducible apply Keeps.trans ?_ (Keeps.of_eq (begin_frame ..))
                 | with_reducible apply Keeps.trans ?_ (Keeps.of_eq (putLadder_frame ..)) | (split))

theorem execLearnedVectorExpiry_keeps (link : Link) (die : Fin 32) (slc : Bool) (s : State) : ∃ t, execLearnedVectorExpiry
    link die slc s = .next t ∧ Keeps s.frame t.frame := by
  refine ⟨_, rfl, ?_⟩
  repeat' (first | with_reducible exact Keeps.refl _ | dsimp only
                 | with_reducible apply Keeps.trans ?_ (Keeps.of_eq (begin_frame ..)) | simp only [frame_mk, frame_eta])

theorem execEncoderCheckFail_keeps (link : Link) (s : State) : ∃ t, execEncoderCheckFail link s = .next t ∧ Keeps s.frame
    t.frame := by
  refine ⟨_, rfl, ?_⟩
  repeat' (first | with_reducible exact Keeps.refl _ | dsimp only | with_reducible apply Keeps.ite ?_ ?_
                 | with_reducible apply Keeps.trans ?_ (Keeps.of_eq (begin_frame ..))
                 | with_reducible apply Keeps.trans ?_ (Keeps.of_eq (peatRecord_frame ..))
                 | with_reducible apply Keeps.trans ?_ (Keeps.of_eq (fenceEncoder_frame ..)) | simp only [frame_mk, frame_eta])

theorem execEncoderKatTimer_keeps (link : Link) (pass : Bool) (s : State) : ∃ t, execEncoderKatTimer link pass s = .next t ∧
    Keeps s.frame t.frame := by
  refine ⟨_, rfl, ?_⟩
  repeat' (first | with_reducible exact Keeps.refl _ | dsimp only | with_reducible apply Keeps.ite ?_ ?_
                 | with_reducible apply Keeps.trans ?_ (Keeps.of_eq (wrBit_frame _ _ _ _ _))
                 | with_reducible apply Keeps.trans ?_ (Keeps.of_eq (begin_frame ..))
                 | with_reducible apply Keeps.trans ?_ (Keeps.of_eq (fenRefresh_frame ..)) | simp only [frame_mk, frame_eta])

theorem execIdleKnownAnswerTest_keeps (unit : PoolUnit) (pass : Bool) (s : State) : ∃ t, execIdleKnownAnswerTest unit
    pass s = .next t ∧ Keeps s.frame t.frame := by
  refine ⟨_, rfl, ?_⟩
  repeat' (first | with_reducible exact Keeps.refl _ | dsimp only
                 | with_reducible apply Keeps.trans ?_ (Keeps.of_eq (begin_frame ..))
                 | with_reducible apply Keeps.trans ?_ (Keeps.of_eq (fenceDecoder_frame ..))
                 | with_reducible apply Keeps.trans ?_ (Keeps.of_eq (fenceCipher_frame ..))
                 | with_reducible apply Keeps.ite ?_ ?_ | (intro _)
                 | simp only [begin_frame, fenceDecoder_frame, fenceCipher_frame, frame_mk, frame_eta, apply_ite
                     State.frame, ite_self] | with_reducible refine Keeps.trans ?_ (eachOf_keeps _ _ _ ?_)
                 | with_reducible refine Keeps.trans ?_ (foldl_keeps _ _ _ ?_) | (split))

theorem execHewRingTailWrite_keeps (_path : AccessPath) (hewer : Link) (tail : Word) (s : State) : ∃ t, execHewRingTailWrite
    _path hewer tail s = .next t ∧ Keeps s.frame t.frame := by
  refine ⟨_, rfl, ?_⟩
  repeat' (first | with_reducible exact Keeps.refl _ | with_reducible apply Keeps.trans ?_ (Keeps.of_eq (begin_frame ..))
                 | with_reducible apply Keeps.trans ?_ (Keeps.of_eq (hewTailWrite_frame ..)))

theorem execDescriptorFetch_keeps (hewer : Link) (s : State) : ∃ t, execDescriptorFetch hewer s = .next t ∧ Keeps s.frame
    t.frame := by
  refine ⟨_, rfl, ?_⟩
  repeat' (first | with_reducible exact Keeps.refl _ | with_reducible apply Keeps.trans ?_ (hewFetch_keeps ..)
                 | with_reducible apply Keeps.trans ?_ (Keeps.of_eq (begin_frame ..)))

theorem execDieOperationStart_keeps (hewer : Link) (slot : Fin 128) (s : State) : ∃ t, execDieOperationStart hewer slot s =
    .next t ∧ Keeps s.frame t.frame := by
  refine ⟨_, rfl, ?_⟩
  repeat' (first | with_reducible exact Keeps.refl _ | with_reducible apply Keeps.trans ?_ (Keeps.of_eq (begin_frame ..))
                 | with_reducible apply Keeps.trans ?_ (Keeps.of_eq (hewStart_frame ..)))

theorem execHewRead_keeps (hewer : Link) (slot : Fin 128) (s : State) : ∃ t, execHewRead hewer slot s = .next t ∧ Keeps
    s.frame t.frame := by
  refine ⟨_, rfl, ?_⟩
  repeat' (first | with_reducible exact Keeps.refl _ | dsimp only
                 | with_reducible apply Keeps.trans ?_ (Keeps.of_eq (begin_frame ..))
                 | with_reducible apply Keeps.trans ?_ (hewIssue_keeps ..) | with_reducible apply Keeps.ite ?_ ?_
                 | (intro _) | simp only [begin_frame, frame_mk, frame_eta, apply_ite State.frame, ite_self]
                 | with_reducible refine Keeps.trans ?_ (eachOf_keeps _ _ _ ?_)
                 | with_reducible refine Keeps.trans ?_ (foldl_keeps _ _ _ ?_) | (split))

theorem execHewReadOfs_keeps (hewer : Link) (slot : Fin 128) (s : State) : ∃ t, execHewReadOfs hewer slot s = .next t ∧
    Keeps s.frame t.frame := by
  refine ⟨_, rfl, ?_⟩
  repeat' (first | with_reducible exact Keeps.refl _ | dsimp only
                 | with_reducible apply Keeps.trans ?_ (Keeps.of_eq (begin_frame ..))
                 | with_reducible apply Keeps.trans ?_ (hewIssue_keeps ..) | with_reducible apply Keeps.ite ?_ ?_
                 | (intro _) | simp only [begin_frame, frame_mk, frame_eta, apply_ite State.frame, ite_self]
                 | with_reducible refine Keeps.trans ?_ (eachOf_keeps _ _ _ ?_)
                 | with_reducible refine Keeps.trans ?_ (foldl_keeps _ _ _ ?_) | (split))

theorem execHewSoftSense_keeps (hewer : Link) (slot : Fin 128) (s : State) : ∃ t, execHewSoftSense hewer slot s = .next
    t ∧ Keeps s.frame t.frame := by
  refine ⟨_, rfl, ?_⟩
  repeat' (first | with_reducible exact Keeps.refl _ | dsimp only
                 | with_reducible apply Keeps.trans ?_ (Keeps.of_eq (begin_frame ..))
                 | with_reducible apply Keeps.trans ?_ (hewIssue_keeps ..) | with_reducible apply Keeps.ite ?_ ?_
                 | (intro _) | simp only [begin_frame, frame_mk, frame_eta, apply_ite State.frame, ite_self]
                 | with_reducible refine Keeps.trans ?_ (eachOf_keeps _ _ _ ?_)
                 | with_reducible refine Keeps.trans ?_ (foldl_keeps _ _ _ ?_) | (split))

theorem execHewProgram_keeps (hewer : Link) (slot : Fin 128) (s : State) : ∃ t, execHewProgram hewer slot s = .next t ∧
    Keeps s.frame t.frame := by
  refine ⟨_, rfl, ?_⟩
  repeat' (first | with_reducible exact Keeps.refl _ | dsimp only
                 | with_reducible apply Keeps.trans ?_ (Keeps.of_eq (begin_frame ..))
                 | with_reducible apply Keeps.trans ?_ (hewIssue_keeps ..) | with_reducible apply Keeps.ite ?_ ?_
                 | (intro _) | simp only [begin_frame, frame_mk, frame_eta, apply_ite State.frame, ite_self]
                 | with_reducible refine Keeps.trans ?_ (eachOf_keeps _ _ _ ?_)
                 | with_reducible refine Keeps.trans ?_ (foldl_keeps _ _ _ ?_) | (split))

theorem execHewErase_keeps (hewer : Link) (slot : Fin 128) (s : State) : ∃ t, execHewErase hewer slot s = .next t ∧
    Keeps s.frame t.frame := by
  refine ⟨_, rfl, ?_⟩
  repeat' (first | with_reducible exact Keeps.refl _ | dsimp only
                 | with_reducible apply Keeps.trans ?_ (Keeps.of_eq (begin_frame ..))
                 | with_reducible apply Keeps.trans ?_ (hewIssue_keeps ..) | with_reducible apply Keeps.ite ?_ ?_
                 | (intro _) | simp only [begin_frame, frame_mk, frame_eta, apply_ite State.frame, ite_self]
                 | with_reducible refine Keeps.trans ?_ (eachOf_keeps _ _ _ ?_)
                 | with_reducible refine Keeps.trans ?_ (foldl_keeps _ _ _ ?_) | (split))

theorem execHewCalread_keeps (hewer : Link) (slot : Fin 128) (s : State) : ∃ t, execHewCalread hewer slot s = .next t ∧
    Keeps s.frame t.frame := by
  refine ⟨_, rfl, ?_⟩
  repeat' (first | with_reducible exact Keeps.refl _ | dsimp only
                 | with_reducible apply Keeps.trans ?_ (Keeps.of_eq (begin_frame ..))
                 | with_reducible apply Keeps.trans ?_ (hewIssue_keeps ..) | with_reducible apply Keeps.ite ?_ ?_
                 | (intro _) | simp only [begin_frame, frame_mk, frame_eta, apply_ite State.frame, ite_self]
                 | with_reducible refine Keeps.trans ?_ (eachOf_keeps _ _ _ ?_)
                 | with_reducible refine Keeps.trans ?_ (foldl_keeps _ _ _ ?_) | (split))

theorem execHewMarkread_keeps (hewer : Link) (slot : Fin 128) (s : State) : ∃ t, execHewMarkread hewer slot s = .next t
    ∧ Keeps s.frame t.frame := by
  refine ⟨_, rfl, ?_⟩
  repeat' (first | with_reducible exact Keeps.refl _ | dsimp only
                 | with_reducible apply Keeps.trans ?_ (Keeps.of_eq (begin_frame ..))
                 | with_reducible apply Keeps.trans ?_ (hewIssue_keeps ..) | with_reducible apply Keeps.ite ?_ ?_
                 | (intro _) | simp only [begin_frame, frame_mk, frame_eta, apply_ite State.frame, ite_self]
                 | with_reducible refine Keeps.trans ?_ (eachOf_keeps _ _ _ ?_)
                 | with_reducible refine Keeps.trans ?_ (foldl_keeps _ _ _ ?_) | (split))

theorem execHewFence_keeps (hewer : Link) (slot : Fin 128) (s : State) : ∃ t, execHewFence hewer slot s = .next t ∧ Keeps
    s.frame t.frame := by
  refine ⟨_, rfl, ?_⟩
  repeat' (first | with_reducible exact Keeps.refl _ | with_reducible apply Keeps.ite ?_ ?_
                 | with_reducible apply Keeps.trans ?_ (hewEnd_keeps ..)
                 | with_reducible apply Keeps.trans ?_ (Keeps.of_eq (begin_frame ..)) | (split))

theorem execDescriptorComplete_keeps (hewer : Link) (slot : Fin 128) (status : BitVec 8) (detail : BitVec 16) (busyUs endTime
    : Word) (s : State) : ∃ t, execDescriptorComplete hewer slot status detail busyUs endTime s = .next t ∧ Keeps s.frame
    t.frame := by
  refine ⟨_, rfl, ?_⟩
  repeat' (first | with_reducible exact Keeps.refl _ | with_reducible apply Keeps.ite ?_ ?_
                 | with_reducible apply Keeps.trans ?_ (hewComplete_keeps ..)
                 | with_reducible apply Keeps.trans ?_ (Keeps.of_eq (begin_frame ..))
                 | with_reducible apply Keeps.trans ?_ (Keeps.of_eq (hewNote_frame ..))
                 | with_reducible apply Keeps.trans ?_ (Keeps.of_eq (hewQuietNote_frame ..))
                 | with_reducible apply Keeps.trans ?_ (Keeps.of_eq (memberAnswer_frame ..)) | (split))

theorem execHewOperationTimeout_keeps (hewer : Link) (slot : Fin 128) (s : State) : ∃ t, execHewOperationTimeout hewer slot s
    = .next t ∧ Keeps s.frame t.frame := by
  refine ⟨_, rfl, ?_⟩
  repeat' (first | with_reducible exact Keeps.refl _ | with_reducible apply Keeps.ite ?_ ?_
                 | with_reducible apply Keeps.trans ?_ (hewEnd_keeps ..)
                 | with_reducible apply Keeps.trans ?_ (Keeps.of_eq (begin_frame ..))
                 | with_reducible apply Keeps.trans ?_ (Keeps.of_eq (hewTimeoutNote_frame ..))
                 | with_reducible apply Keeps.trans ?_ (Keeps.of_eq (sendPacket_frame ..)) | (split))

theorem execSuspend_keeps (hewer : Link) (die : Fin 32) (s : State) : ∃ t, execSuspend hewer die s = .next t ∧ Keeps
    s.frame t.frame := by
  refine ⟨_, rfl, ?_⟩
  repeat' (first | with_reducible exact Keeps.refl _ | dsimp only
                 | with_reducible apply Keeps.trans ?_ (Keeps.of_eq (begin_frame ..))
                 | with_reducible apply Keeps.trans ?_ (Keeps.of_eq (putUse_frame ..))
                 | with_reducible apply Keeps.trans ?_ (Keeps.of_eq (putHeld_frame ..))
                 | with_reducible apply Keeps.trans ?_ (Keeps.of_eq (hewNote_frame ..))
                 | with_reducible apply Keeps.trans ?_ (Keeps.of_eq (sendPacket_frame ..))
                 | with_reducible apply Keeps.trans ?_ (Keeps.of_eq (count_frame ..))
                 | with_reducible apply Keeps.ite ?_ ?_ | (intro _)
                 | simp only [begin_frame, putUse_frame, putHeld_frame, hewNote_frame, sendPacket_frame, count_frame,
                     frame_mk, frame_eta, apply_ite State.frame, ite_self]
                 | with_reducible refine Keeps.trans ?_ (eachOf_keeps _ _ _ ?_)
                 | with_reducible refine Keeps.trans ?_ (foldl_keeps _ _ _ ?_) | (split))

theorem execResumeOp_keeps (hewer : Link) (die : Fin 32) (s : State) : ∃ t, execResumeOp hewer die s = .next t ∧ Keeps
    s.frame t.frame := by
  refine ⟨_, rfl, ?_⟩
  repeat' (first | with_reducible exact Keeps.refl _ | dsimp only | with_reducible apply Keeps.ite ?_ ?_
                 | with_reducible apply Keeps.trans ?_ (Keeps.of_eq (begin_frame ..))
                 | with_reducible apply Keeps.trans ?_ (Keeps.of_eq (putHeld_frame ..))
                 | with_reducible apply Keeps.trans ?_ (Keeps.of_eq (hewNote_frame ..))
                 | with_reducible apply Keeps.trans ?_ (Keeps.of_eq (sendPacket_frame ..)) | (split))

theorem execPfQuietDeadline_keeps (s : State) : ∃ t, execPfQuietDeadline s = .next t ∧ Keeps s.frame t.frame := by
  refine ⟨_, rfl, ?_⟩
  repeat' (first | with_reducible exact Keeps.refl _ | dsimp only | with_reducible apply Keeps.ite ?_ ?_
                 | with_reducible apply Keeps.trans ?_ (hewEnd_keeps ..)
                 | with_reducible apply Keeps.trans ?_ (Keeps.of_eq (begin_frame ..))
                 | with_reducible apply Keeps.trans ?_ (eachOf_keeps _ _ _ ?_) | (intro _))

theorem execDetectBurst_keeps (link : Link) (s : State) : ∃ t, execDetectBurst link s = .next t ∧ Keeps s.frame t.frame := by
  refine ⟨_, rfl, ?_⟩
  repeat' (first | with_reducible exact Keeps.refl _ | with_reducible apply Keeps.ite ?_ ?_
                 | with_reducible apply Keeps.trans ?_ (Keeps.of_eq (begin_frame ..))
                 | with_reducible apply Keeps.trans ?_ (Keeps.of_eq (emit_frame ..)))

theorem execDetectAnswer_keeps (link : Link) (s : State) : ∃ t, execDetectAnswer link s = .next t ∧ Keeps s.frame t.frame := by
  refine ⟨_, rfl, ?_⟩
  repeat' (first | with_reducible exact Keeps.refl _ | with_reducible apply Keeps.ite ?_ ?_
                 | with_reducible apply Keeps.trans ?_ (Keeps.of_eq (begin_frame ..))
                 | with_reducible apply Keeps.trans ?_ (Keeps.of_eq (seamSet_frame ..)))

theorem execTrainingStateEnd_keeps (link : Link) (_fullHandshake : Bool) (s : State) : ∃ t, execTrainingStateEnd link
    _fullHandshake s = .next t ∧ Keeps s.frame t.frame := by
  refine ⟨_, rfl, ?_⟩
  repeat' (first | with_reducible exact Keeps.refl _ | with_reducible apply Keeps.trans ?_ (trainEnd_keeps ..)
                 | with_reducible apply Keeps.trans ?_ (Keeps.of_eq (begin_frame ..)))

theorem execTrainingLimitExpiry_keeps (link : Link) (s : State) : ∃ t, execTrainingLimitExpiry link s = .next t ∧ Keeps
    s.frame t.frame := by
  refine ⟨_, rfl, ?_⟩
  repeat' (first | with_reducible exact Keeps.refl _ | with_reducible apply Keeps.ite ?_ ?_
                 | with_reducible apply Keeps.trans ?_ (Keeps.of_eq (begin_frame ..))
                 | with_reducible apply Keeps.trans ?_ (Keeps.of_eq (trainFail_frame ..)))

theorem execDataFlit_keeps (link : Link) (head : FlitHead) (s : State) : ∃ t, execDataFlit link head s = .next t ∧ Keeps
    s.frame t.frame := by
  refine ⟨_, rfl, ?_⟩
  repeat' (first | with_reducible exact Keeps.refl _ | dsimp only | with_reducible apply Keeps.ite ?_ ?_
                 | with_reducible apply Keeps.trans ?_ (Keeps.of_eq (begin_frame ..))
                 | with_reducible apply Keeps.trans ?_ (Keeps.of_eq (putLink_frame ..))
                 | with_reducible apply Keeps.trans ?_ (Keeps.of_eq (creditReport_frame ..))
                 | with_reducible apply Keeps.trans ?_ (Keeps.of_eq (ackReport_frame ..))
                 | with_reducible apply Keeps.trans ?_ (Keeps.of_eq (flitCounts_frame ..))
                 | with_reducible apply Keeps.trans ?_ (Keeps.of_eq (flitDiscard_frame ..)))

theorem execIdleFlit_keeps (link : Link) (head : FlitHead) (s : State) : ∃ t, execIdleFlit link head s = .next t ∧ Keeps
    s.frame t.frame := by
  refine ⟨_, rfl, ?_⟩
  repeat' (first | with_reducible exact Keeps.refl _ | dsimp only | with_reducible apply Keeps.ite ?_ ?_
                 | with_reducible apply Keeps.trans ?_ (Keeps.of_eq (begin_frame ..))
                 | with_reducible apply Keeps.trans ?_ (Keeps.of_eq (creditReport_frame ..))
                 | with_reducible apply Keeps.trans ?_ (Keeps.of_eq (ackReport_frame ..))
                 | with_reducible apply Keeps.trans ?_ (Keeps.of_eq (flitCounts_frame ..)))

theorem execReplayLimit_keeps (link : Link) (s : State) : ∃ t, execReplayLimit link s = .next t ∧ Keeps s.frame t.frame := by
  refine ⟨_, rfl, ?_⟩
  repeat' (first | with_reducible exact Keeps.refl _ | with_reducible apply Keeps.trans ?_ (Keeps.of_eq (begin_frame ..))
                 | with_reducible apply Keeps.trans ?_ (Keeps.of_eq (seamRetrain_frame ..)))

theorem execRecalReq_keeps (link : Link) (fromMember : Bool) (s : State) : ∃ t, execRecalReq link fromMember s = .next t ∧
    Keeps s.frame t.frame := by
  refine ⟨_, rfl, ?_⟩
  repeat' (first | with_reducible exact Keeps.refl _ | dsimp only | with_reducible apply Keeps.ite ?_ ?_
                 | with_reducible apply Keeps.trans ?_ (Keeps.of_eq (begin_frame ..))
                 | with_reducible apply Keeps.trans ?_ (Keeps.of_eq (emit_frame ..))
                 | with_reducible apply Keeps.trans ?_ (Keeps.of_eq (putLink_frame ..))
                 | with_reducible apply Keeps.trans ?_ (Keeps.of_eq (drawn_frame ..))
                 | with_reducible apply Keeps.trans ?_ (Keeps.of_eq (recalAsk_frame ..))
                 | with_reducible apply Keeps.trans ?_ (Keeps.of_eq (recalOpen_frame ..)))

theorem execRecalGo_keeps (link : Link) (s : State) : ∃ t, execRecalGo link s = .next t ∧ Keeps s.frame t.frame := by
  refine ⟨_, rfl, ?_⟩
  repeat' (first | with_reducible exact Keeps.refl _ | with_reducible apply Keeps.ite ?_ ?_
                 | with_reducible apply Keeps.trans ?_ (Keeps.of_eq (begin_frame ..))
                 | with_reducible apply Keeps.trans ?_ (Keeps.of_eq (recalOpen_frame ..)))

theorem execRecalWindowEnd_keeps (link : Link) (s : State) : ∃ t, execRecalWindowEnd link s = .next t ∧ Keeps s.frame t.frame
    := by
  refine ⟨_, rfl, ?_⟩
  repeat' (first | with_reducible exact Keeps.refl _ | dsimp only | with_reducible apply Keeps.ite ?_ ?_
                 | with_reducible apply Keeps.trans ?_ (Keeps.of_eq (begin_frame ..))
                 | with_reducible apply Keeps.trans ?_ (Keeps.of_eq (putLink_frame ..))
                 | with_reducible apply Keeps.trans ?_ (Keeps.of_eq (seamSet_frame ..)))

theorem execRecalPeriodTimer_keeps (link : Link) (s : State) : ∃ t, execRecalPeriodTimer link s = .next t ∧ Keeps s.frame
    t.frame := by
  refine ⟨_, rfl, ?_⟩
  repeat' (first | with_reducible exact Keeps.refl _ | with_reducible apply Keeps.trans ?_ (Keeps.of_eq (begin_frame ..))
                 | with_reducible apply Keeps.trans ?_ (Keeps.of_eq (recalAsk_frame ..)))

theorem execRetrain_keeps (link : Link) (s : State) : ∃ t, execRetrain link s = .next t ∧ Keeps s.frame t.frame := by
  refine ⟨_, rfl, ?_⟩
  repeat' (first | with_reducible exact Keeps.refl _ | with_reducible apply Keeps.trans ?_ (Keeps.of_eq (begin_frame ..))
                 | with_reducible apply Keeps.trans ?_ (Keeps.of_eq (enterRetrain_frame ..)))

theorem execRetrainLimitExpiry_keeps (link : Link) (s : State) : ∃ t, execRetrainLimitExpiry link s = .next t ∧ Keeps s.frame
    t.frame := by
  refine ⟨_, rfl, ?_⟩
  repeat' (first | with_reducible exact Keeps.refl _ | with_reducible apply Keeps.ite ?_ ?_
                 | with_reducible apply Keeps.trans ?_ (dropToDetect_keeps ..)
                 | with_reducible apply Keeps.trans ?_ (Keeps.of_eq (begin_frame ..)))

theorem execPark_keeps (link : Link) (s : State) : ∃ t, execPark link s = .next t ∧ Keeps s.frame t.frame := by
  refine ⟨_, rfl, ?_⟩
  repeat' (first | with_reducible exact Keeps.refl _ | with_reducible apply Keeps.trans ?_ (Keeps.of_eq (begin_frame ..))
                 | with_reducible apply Keeps.trans ?_ (Keeps.of_eq (parkLink_frame ..)))

theorem execParkWakeTimer_keeps (link : Link) (s : State) : ∃ t, execParkWakeTimer link s = .next t ∧ Keeps s.frame t.frame
    := by
  refine ⟨_, rfl, ?_⟩
  repeat' (first | with_reducible exact Keeps.refl _ | dsimp only | with_reducible apply Keeps.ite ?_ ?_
                 | with_reducible apply Keeps.trans ?_ (Keeps.of_eq (begin_frame ..))
                 | with_reducible apply Keeps.trans ?_ (Keeps.of_eq (putLink_frame ..))
                 | with_reducible apply Keeps.trans ?_ (Keeps.of_eq (seamRetrain_frame ..)))

theorem execLossOfSignal_keeps (link : Link) (s : State) : ∃ t, execLossOfSignal link s = .next t ∧ Keeps s.frame t.frame := by
  refine ⟨_, rfl, ?_⟩
  repeat' (first | with_reducible exact Keeps.refl _ | dsimp only | with_reducible apply Keeps.ite ?_ ?_
                 | with_reducible apply Keeps.trans ?_ (dropToDetect_keeps ..)
                 | with_reducible apply Keeps.trans ?_ (Keeps.of_eq (begin_frame ..))
                 | with_reducible apply Keeps.trans ?_ (Keeps.of_eq (putLink_frame ..))
                 | with_reducible apply Keeps.trans ?_ (Keeps.of_eq (toDetect_frame ..)))

theorem execCreditStallTimeout_keeps (link : Link) (s : State) : ∃ t, execCreditStallTimeout link s = .next t ∧ Keeps s.frame
    t.frame := by
  refine ⟨_, rfl, ?_⟩
  repeat' (first | with_reducible exact Keeps.refl _ | with_reducible apply Keeps.ite ?_ ?_
                 | with_reducible apply Keeps.trans ?_ (Keeps.of_eq (begin_frame ..))
                 | with_reducible apply Keeps.trans ?_ (Keeps.of_eq (seamRetrain_frame ..)))

theorem execMemberLinkDrop_keeps (link : Link) (s : State) : ∃ t, execMemberLinkDrop link s = .next t ∧ Keeps s.frame t.frame
    := by
  refine ⟨_, rfl, ?_⟩
  repeat' (first | with_reducible exact Keeps.refl _ | with_reducible apply Keeps.ite ?_ ?_
                 | with_reducible apply Keeps.trans ?_ (dropToDetect_keeps ..)
                 | with_reducible apply Keeps.trans ?_ (Keeps.of_eq (begin_frame ..))
                 | with_reducible apply Keeps.trans ?_ (Keeps.of_eq (memberAbsent_frame ..))
                 | with_reducible apply Keeps.trans ?_ (Keeps.of_eq (limitNote_frame ..)))

theorem execMemberWaitExpiry_keeps (link : Link) (s : State) : ∃ t, execMemberWaitExpiry link s = .next t ∧ Keeps
    s.frame t.frame := by
  refine ⟨_, rfl, ?_⟩
  repeat' (first | with_reducible exact Keeps.refl _ | dsimp only
                 | with_reducible apply Keeps.trans ?_ (Keeps.of_eq (begin_frame ..))
                 | with_reducible apply Keeps.trans ?_ (Keeps.of_eq (startRebuild_frame ..))
                 | with_reducible apply Keeps.trans ?_ (laddersGiveUp_keeps ..)
                 | with_reducible apply Keeps.trans ?_ (giveUpUnsent_keeps ..) | with_reducible apply Keeps.ite ?_ ?_
                 | (intro _)
                 | simp only [begin_frame, startRebuild_frame, frame_mk, frame_eta, apply_ite State.frame, ite_self]
                 | with_reducible refine Keeps.trans ?_ (eachOf_keeps _ _ _ ?_)
                 | with_reducible refine Keeps.trans ?_ (foldl_keeps _ _ _ ?_) | (split))

theorem execMemberReturn_keeps (link : Link) (s : State) : ∃ t, execMemberReturn link s = .next t ∧ Keeps s.frame t.frame := by
  refine ⟨_, rfl, ?_⟩
  repeat' (first | with_reducible exact Keeps.refl _ | with_reducible apply Keeps.ite ?_ ?_
                 | with_reducible apply Keeps.trans ?_ (linkActive_keeps ..)
                 | with_reducible apply Keeps.trans ?_ (Keeps.of_eq (wr_frame _ _ _ _))
                 | with_reducible apply Keeps.trans ?_ (Keeps.of_eq (begin_frame ..))
                 | with_reducible apply Keeps.trans ?_ (Keeps.of_eq (limitNote_frame ..))
                 | with_reducible apply Keeps.trans ?_ (Keeps.of_eq (memberBack_frame ..)))

theorem execReadData_keeps (link : Link) (tag : Fin 128) (cw : Fin 4) (last : Bool) (s : State) : ∃ t, execReadData link tag
    cw last s = .next t ∧ Keeps s.frame t.frame := by
  refine ⟨_, rfl, ?_⟩
  repeat' (first | with_reducible exact Keeps.refl _ | with_reducible apply Keeps.trans ?_ (Keeps.of_eq (begin_frame ..))
                 | with_reducible apply Keeps.trans ?_ (Keeps.of_eq (wordArrives_frame ..)))

theorem execSoftData_keeps (link : Link) (tag : Fin 128) (cw : Fin 4) (last : Bool) (s : State) : ∃ t, execSoftData link tag
    cw last s = .next t ∧ Keeps s.frame t.frame := by
  refine ⟨_, rfl, ?_⟩
  repeat' (first | with_reducible exact Keeps.refl _ | with_reducible apply Keeps.trans ?_ (Keeps.of_eq (begin_frame ..))
                 | with_reducible apply Keeps.trans ?_ (Keeps.of_eq (wordArrives_frame ..)))

end Sys2Proof.Machine
end

