-- ==== Sys2Proof/Laws/FrameExec3.lean ====
section
/-! SUPPORT. Every command completes and keeps what FrameBase names. -/

namespace Sys2Proof.Machine

open Sys2Proof

theorem execCompletion_keeps (link : Link) (tag status : BitVec 8) (detail : BitVec 16) (s : State) : ∃ t, execCompletion
    link tag status detail s = .next t ∧ Keeps s.frame t.frame := by
  refine ⟨_, rfl, ?_⟩
  repeat' (first | with_reducible exact Keeps.refl _ | dsimp only | with_reducible apply Keeps.ite ?_ ?_
                 | with_reducible apply Keeps.trans ?_ (Keeps.of_eq (begin_frame ..))
                 | with_reducible apply Keeps.trans ?_ (Keeps.of_eq (hewNote_frame ..))
                 | with_reducible apply Keeps.trans ?_ (Keeps.of_eq (memberAnswer_frame ..))
                 | with_reducible apply Keeps.trans ?_ (Keeps.of_eq (freeRsp_frame ..)) | simp only [frame_mk, frame_eta]
                 | (split))

theorem execTelemetry_keeps (link : Link) (temps : List Int) (hottest : Int) (flags : BitVec 8) (s : State) : ∃ t,
    execTelemetry link temps hottest flags s = .next t ∧ Keeps s.frame t.frame := by
  refine ⟨_, rfl, ?_⟩
  repeat' (first | with_reducible exact Keeps.refl _ | dsimp only | with_reducible apply Keeps.ite ?_ ?_
                 | with_reducible apply Keeps.trans ?_ (Keeps.of_eq (wr_frame _ _ _ _))
                 | with_reducible apply Keeps.trans ?_ (Keeps.of_eq (begin_frame ..))
                 | with_reducible apply Keeps.trans ?_ (Keeps.of_eq (putLink_frame ..))
                 | with_reducible apply Keeps.trans ?_ (Keeps.of_eq (recalAsk_frame ..))
                 | with_reducible apply Keeps.trans ?_ (Keeps.of_eq (parkLink_frame ..))
                 | with_reducible apply Keeps.trans ?_ (Keeps.of_eq (freeRsp_frame ..))
                 | with_reducible apply Keeps.trans ?_ (Keeps.of_eq (setOver_frame ..)))

theorem execIdentData_keeps (link : Link) (ident : IdentBody) (s : State) : ∃ t, execIdentData link ident s = .next t ∧ Keeps
    s.frame t.frame := by
  refine ⟨_, rfl, ?_⟩
  repeat' (first | with_reducible exact Keeps.refl _ | dsimp only | with_reducible apply Keeps.ite ?_ ?_
                 | with_reducible apply Keeps.trans ?_ (dropToDetect_keeps ..)
                 | with_reducible apply Keeps.trans ?_ (Keeps.of_eq (begin_frame ..))
                 | with_reducible apply Keeps.trans ?_ (Keeps.of_eq (putLink_frame ..))
                 | with_reducible apply Keeps.trans ?_ (Keeps.of_eq (trainFail_frame ..)))

theorem execCalData_keeps (link : Link) (tag : Fin 128) (row : CalRow) (s : State) : ∃ t, execCalData link tag row s = .next
    t ∧ Keeps s.frame t.frame := by
  refine ⟨_, rfl, ?_⟩
  repeat' (first | with_reducible exact Keeps.refl _ | dsimp only | with_reducible apply Keeps.ite ?_ ?_
                 | with_reducible apply Keeps.trans ?_ (Keeps.of_eq (begin_frame ..))
                 | with_reducible apply Keeps.trans ?_ (Keeps.of_eq (peatRecord_frame ..))
                 | with_reducible apply Keeps.trans ?_ (Keeps.of_eq (freeRsp_frame ..))
                 | with_reducible apply Keeps.trans ?_ (Keeps.of_eq (lastPacket_frame ..))
                 | simp only [frame_mk, frame_eta] | (split))

theorem execMarkData_keeps (link : Link) (tag : Fin 128) (bitmap : Nat) (s : State) : ∃ t, execMarkData link tag bitmap
    s = .next t ∧ Keeps s.frame t.frame := by
  refine ⟨_, rfl, ?_⟩
  repeat' (first | with_reducible exact Keeps.refl _ | dsimp only
                 | with_reducible apply Keeps.trans ?_ (Keeps.of_eq (freeRsp_frame ..))
                 | with_reducible apply Keeps.trans ?_ (Keeps.of_eq (begin_frame ..))
                 | with_reducible apply Keeps.trans ?_ (Keeps.of_eq (putBlock_frame ..))
                 | with_reducible apply Keeps.trans ?_ (Keeps.of_eq (lastPacket_frame ..))
                 | with_reducible apply Keeps.trans ?_ (barBlock_keeps ..) | with_reducible apply Keeps.ite ?_ ?_
                 | (intro _)
                 | simp only [freeRsp_frame, begin_frame, putBlock_frame, lastPacket_frame, frame_mk, frame_eta,
                     apply_ite State.frame, ite_self] | with_reducible refine Keeps.trans ?_ (eachOf_keeps _ _ _ ?_)
                 | with_reducible refine Keeps.trans ?_ (foldl_keeps _ _ _ ?_) | (split))

theorem execEventPacket_keeps (link : Link) (opc code : BitVec 8) (die : Fin 32) (s : State) : ∃ t, execEventPacket link
    opc code die s = .next t ∧ Keeps s.frame t.frame := by
  refine ⟨_, rfl, ?_⟩
  repeat' (first | with_reducible exact Keeps.refl _ | dsimp only
                 | with_reducible apply Keeps.trans ?_ (Keeps.of_eq (freeRsp_frame ..))
                 | with_reducible apply Keeps.trans ?_ (Keeps.of_eq (begin_frame ..))
                 | with_reducible apply Keeps.trans ?_ (Keeps.of_eq (peatRecord_frame ..))
                 | with_reducible apply Keeps.trans ?_ (Keeps.of_eq (setOver_frame ..))
                 | with_reducible apply Keeps.trans ?_ (loseDie_keeps ..) | with_reducible apply Keeps.ite ?_ ?_
                 | (intro _)
                 | simp only [freeRsp_frame, begin_frame, peatRecord_frame, setOver_frame, frame_mk, frame_eta, apply_ite
                     State.frame, ite_self] | with_reducible refine Keeps.trans ?_ (eachOf_keeps _ _ _ ?_)
                 | with_reducible refine Keeps.trans ?_ (foldl_keeps _ _ _ ?_) | (split))

theorem execTelemetryTimeout_keeps (link : Link) (s : State) : ∃ t, execTelemetryTimeout link s = .next t ∧ Keeps s.frame
    t.frame := by
  refine ⟨_, rfl, ?_⟩
  repeat' (first | with_reducible exact Keeps.refl _ | dsimp only | with_reducible apply Keeps.ite ?_ ?_
                 | with_reducible apply Keeps.trans ?_ (Keeps.of_eq (begin_frame ..))
                 | with_reducible apply Keeps.trans ?_ (Keeps.of_eq (putLink_frame ..))
                 | with_reducible apply Keeps.trans ?_ (Keeps.of_eq (peatRecord_frame ..))
                 | with_reducible apply Keeps.trans ?_ (Keeps.of_eq (sendPacket_frame ..)))

theorem execPllGroupUnlock_keeps (group : Fin 16) (s : State) : ∃ t, execPllGroupUnlock group s = .next t ∧ Keeps s.frame
    t.frame := by
  refine ⟨_, rfl, ?_⟩
  repeat' (first | with_reducible exact Keeps.refl _ | with_reducible apply Keeps.trans ?_ (Keeps.of_eq (begin_frame ..))
                 | with_reducible apply Keeps.trans ?_ (Keeps.of_eq (groupLost_frame ..)))

theorem execPllGroupRelock_keeps (group : Fin 16) (s : State) : ∃ t, execPllGroupRelock group s = .next t ∧ Keeps
    s.frame t.frame := by
  refine ⟨_, rfl, ?_⟩
  repeat' (first | with_reducible exact Keeps.refl _ | dsimp only
                 | with_reducible apply Keeps.trans ?_ (Keeps.of_eq (begin_frame ..))
                 | with_reducible apply Keeps.trans ?_ (Keeps.of_eq (wr_frame ..))
                 | with_reducible apply Keeps.trans ?_ (Keeps.of_eq (glbRefresh_frame ..))
                 | with_reducible apply Keeps.trans ?_ (Keeps.of_eq (seamRetrain_frame ..))
                 | with_reducible apply Keeps.trans ?_ (Keeps.of_eq (groupsNote_frame ..))
                 | with_reducible apply Keeps.ite ?_ ?_ | (intro _)
                 | refine Keeps.trans ?_ (Keeps.of_eq (eachOf_frame _ _ _ ?_))
                 | simp only [begin_frame, wr_frame, glbRefresh_frame, seamRetrain_frame, groupsNote_frame, frame_mk,
                     frame_eta, apply_ite State.frame, ite_self] | (split))

theorem execSeamRetrainWrite_keeps (_path : AccessPath) (link : Link) (s : State) : ∃ t, execSeamRetrainWrite _path link s =
    .next t ∧ Keeps s.frame t.frame := by
  refine ⟨_, rfl, ?_⟩
  repeat' (first | with_reducible exact Keeps.refl _ | with_reducible apply Keeps.trans ?_ (Keeps.of_eq (begin_frame ..))
                 | with_reducible apply Keeps.trans ?_ (Keeps.of_eq (seamRetrainAsk_frame ..)))

theorem execSeamEnableWrite_keeps (path : AccessPath) (link : Link) (enable : Bool) (s : State) : ∃ t, execSeamEnableWrite
    path link enable s = .next t ∧ Keeps s.frame t.frame := by
  refine ⟨_, rfl, ?_⟩
  repeat' (first | with_reducible exact Keeps.refl _ | with_reducible apply Keeps.ite ?_ ?_
                 | with_reducible apply Keeps.trans ?_ (seamEnable_keeps ..)
                 | with_reducible apply Keeps.trans ?_ (Keeps.of_eq (begin_frame ..))
                 | with_reducible apply Keeps.trans ?_ (Keeps.of_eq (accessViolation_frame ..)))

theorem execBankSwitch_keeps (fen : Fen) (s : State) : ∃ t, execBankSwitch fen s = .next t ∧ Keeps s.frame t.frame := by
  refine ⟨_, rfl, ?_⟩
  repeat' (first | with_reducible exact Keeps.refl _ | with_reducible apply Keeps.ite ?_ ?_
                 | with_reducible apply Keeps.trans ?_ (Keeps.of_eq (begin_frame ..))
                 | with_reducible apply Keeps.trans ?_ (Keeps.of_eq (flipBank_frame ..)))

theorem execPendingClear_keeps (fen : Fen) (s : State) : ∃ t, execPendingClear fen s = .next t ∧ Keeps s.frame t.frame := by
  refine ⟨_, rfl, ?_⟩
  repeat' (first | with_reducible exact Keeps.refl _ | with_reducible apply Keeps.ite ?_ ?_
                 | with_reducible apply Keeps.trans ?_ (Keeps.of_eq (wr_frame _ _ _ _))
                 | with_reducible apply Keeps.trans ?_ (Keeps.of_eq (begin_frame ..))
                 | with_reducible apply Keeps.trans ?_ (Keeps.of_eq (ucodeNote_frame ..))
                 | with_reducible apply Keeps.trans ?_ (Keeps.of_eq (restoreNote_frame ..)))

theorem execUcNop_keeps (hewer : Link) (slot : Fin 128) (s : State) : ∃ t, execUcNop hewer slot s = .next t ∧ Keeps s.frame
    t.frame := by
  refine ⟨_, rfl, ?_⟩
  repeat' (first | with_reducible exact Keeps.refl _ | with_reducible apply Keeps.trans ?_ (Keeps.of_eq (begin_frame ..))
                 | with_reducible apply Keeps.trans ?_ (Keeps.of_eq (putHeld_frame ..))
                 | with_reducible apply Keeps.trans ?_ (ucRun_keeps (hf := ?_) ..) | (intro _))

theorem execUcLdi_keeps (hewer : Link) (slot : Fin 128) (s : State) : ∃ t, execUcLdi hewer slot s = .next t ∧ Keeps s.frame
    t.frame := by
  refine ⟨_, rfl, ?_⟩
  repeat' (first | with_reducible exact Keeps.refl _ | with_reducible apply Keeps.trans ?_ (ucAlu_keeps ..)
                 | with_reducible apply Keeps.trans ?_ (Keeps.of_eq (begin_frame ..)))

theorem execUcMov_keeps (hewer : Link) (slot : Fin 128) (s : State) : ∃ t, execUcMov hewer slot s = .next t ∧ Keeps s.frame
    t.frame := by
  refine ⟨_, rfl, ?_⟩
  repeat' (first | with_reducible exact Keeps.refl _ | with_reducible apply Keeps.trans ?_ (ucAlu_keeps ..)
                 | with_reducible apply Keeps.trans ?_ (Keeps.of_eq (begin_frame ..)))

theorem execUcAddi_keeps (hewer : Link) (slot : Fin 128) (s : State) : ∃ t, execUcAddi hewer slot s = .next t ∧ Keeps s.frame
    t.frame := by
  refine ⟨_, rfl, ?_⟩
  repeat' (first | with_reducible exact Keeps.refl _ | with_reducible apply Keeps.trans ?_ (ucAlu_keeps ..)
                 | with_reducible apply Keeps.trans ?_ (Keeps.of_eq (begin_frame ..)))

theorem execUcAndi_keeps (hewer : Link) (slot : Fin 128) (s : State) : ∃ t, execUcAndi hewer slot s = .next t ∧ Keeps s.frame
    t.frame := by
  refine ⟨_, rfl, ?_⟩
  repeat' (first | with_reducible exact Keeps.refl _ | with_reducible apply Keeps.trans ?_ (ucAlu_keeps ..)
                 | with_reducible apply Keeps.trans ?_ (Keeps.of_eq (begin_frame ..)))

theorem execUcOri_keeps (hewer : Link) (slot : Fin 128) (s : State) : ∃ t, execUcOri hewer slot s = .next t ∧ Keeps s.frame
    t.frame := by
  refine ⟨_, rfl, ?_⟩
  repeat' (first | with_reducible exact Keeps.refl _ | with_reducible apply Keeps.trans ?_ (ucAlu_keeps ..)
                 | with_reducible apply Keeps.trans ?_ (Keeps.of_eq (begin_frame ..)))

theorem execUcShl_keeps (hewer : Link) (slot : Fin 128) (s : State) : ∃ t, execUcShl hewer slot s = .next t ∧ Keeps s.frame
    t.frame := by
  refine ⟨_, rfl, ?_⟩
  repeat' (first | with_reducible exact Keeps.refl _ | with_reducible apply Keeps.trans ?_ (ucAlu_keeps ..)
                 | with_reducible apply Keeps.trans ?_ (Keeps.of_eq (begin_frame ..)))

theorem execUcShr_keeps (hewer : Link) (slot : Fin 128) (s : State) : ∃ t, execUcShr hewer slot s = .next t ∧ Keeps s.frame
    t.frame := by
  refine ⟨_, rfl, ?_⟩
  repeat' (first | with_reducible exact Keeps.refl _ | with_reducible apply Keeps.trans ?_ (ucAlu_keeps ..)
                 | with_reducible apply Keeps.trans ?_ (Keeps.of_eq (begin_frame ..)))

theorem execUcCmp_keeps (hewer : Link) (slot : Fin 128) (s : State) : ∃ t, execUcCmp hewer slot s = .next t ∧ Keeps s.frame
    t.frame := by
  refine ⟨_, rfl, ?_⟩
  repeat' (first | with_reducible exact Keeps.refl _ | with_reducible apply Keeps.trans ?_ (Keeps.of_eq (begin_frame ..))
                 | with_reducible apply Keeps.trans ?_ (Keeps.of_eq (putHeld_frame ..))
                 | with_reducible apply Keeps.trans ?_ (Keeps.of_eq (drawn_frame ..))
                 | with_reducible apply Keeps.trans ?_ (ucRun_keeps (hf := ?_) ..) | (intro _))

theorem execUcJmp_keeps (hewer : Link) (slot : Fin 128) (s : State) : ∃ t, execUcJmp hewer slot s = .next t ∧ Keeps s.frame
    t.frame := by
  refine ⟨_, rfl, ?_⟩
  repeat' (first | with_reducible exact Keeps.refl _ | with_reducible apply Keeps.trans ?_ (Keeps.of_eq (begin_frame ..))
                 | with_reducible apply Keeps.trans ?_ (Keeps.of_eq (putHeld_frame ..))
                 | with_reducible apply Keeps.trans ?_ (ucRun_keeps (hf := ?_) ..) | (intro _))

theorem execUcBr_keeps (hewer : Link) (slot : Fin 128) (s : State) : ∃ t, execUcBr hewer slot s = .next t ∧ Keeps s.frame
    t.frame := by
  refine ⟨_, rfl, ?_⟩
  repeat' (first | with_reducible exact Keeps.refl _ | with_reducible apply Keeps.trans ?_ (ucError_keeps ..)
                 | with_reducible apply Keeps.trans ?_ (Keeps.of_eq (begin_frame ..))
                 | with_reducible apply Keeps.trans ?_ (Keeps.of_eq (putHeld_frame ..))
                 | with_reducible apply Keeps.trans ?_ (Keeps.of_eq (drawn_frame ..))
                 | with_reducible apply Keeps.trans ?_ (ucRun_keeps (hf := ?_) ..) | (intro _) | (split))

theorem execUcCall_keeps (hewer : Link) (slot : Fin 128) (s : State) : ∃ t, execUcCall hewer slot s = .next t ∧ Keeps s.frame
    t.frame := by
  refine ⟨_, rfl, ?_⟩
  repeat' (first | with_reducible exact Keeps.refl _ | with_reducible apply Keeps.trans ?_ (Keeps.of_eq (begin_frame ..))
                 | with_reducible apply Keeps.trans ?_ (Keeps.of_eq (putHeld_frame ..))
                 | with_reducible apply Keeps.trans ?_ (ucRun_keeps (hf := ?_) ..) | (intro _))

theorem execUcRet_keeps (hewer : Link) (slot : Fin 128) (s : State) : ∃ t, execUcRet hewer slot s = .next t ∧ Keeps s.frame
    t.frame := by
  refine ⟨_, rfl, ?_⟩
  repeat' (first | with_reducible exact Keeps.refl _ | with_reducible apply Keeps.trans ?_ (Keeps.of_eq (begin_frame ..))
                 | with_reducible apply Keeps.trans ?_ (Keeps.of_eq (putHeld_frame ..))
                 | with_reducible apply Keeps.trans ?_ (Keeps.of_eq (drawn_frame ..))
                 | with_reducible apply Keeps.trans ?_ (ucRun_keeps (hf := ?_) ..) | (intro _) | (split))

theorem execUcSend_keeps (hewer : Link) (slot : Fin 128) (s : State) : ∃ t, execUcSend hewer slot s = .next t ∧ Keeps
    s.frame t.frame := by
  refine ⟨_, rfl, ?_⟩
  repeat' (first | with_reducible exact Keeps.refl _ | dsimp only
                 | with_reducible apply Keeps.trans ?_ (Keeps.of_eq (hewNote_frame ..))
                 | with_reducible apply Keeps.trans ?_ (Keeps.of_eq (sendPacket_frame ..))
                 | with_reducible apply Keeps.trans ?_ (Keeps.of_eq (sendControl_frame ..))
                 | with_reducible apply Keeps.trans ?_ (Keeps.of_eq (putHeld_frame ..))
                 | with_reducible apply Keeps.trans ?_ (Keeps.of_eq (begin_frame ..))
                 | with_reducible apply Keeps.trans ?_ (ucRun_keeps (hf := ?_) ..) | with_reducible apply Keeps.ite ?_ ?_
                 | (intro _)
                 | simp only [hewNote_frame, sendPacket_frame, sendControl_frame, putHeld_frame, begin_frame, frame_mk,
                     frame_eta, apply_ite State.frame, ite_self]
                 | with_reducible refine Keeps.trans ?_ (eachOf_keeps _ _ _ ?_)
                 | with_reducible refine Keeps.trans ?_ (foldl_keeps _ _ _ ?_) | (split))

theorem execUcWaitc_keeps (hewer : Link) (slot : Fin 128) (answer : Option (BitVec 8)) (s : State) : ∃ t, execUcWaitc hewer
    slot answer s = .next t ∧ Keeps s.frame t.frame := by
  refine ⟨_, rfl, ?_⟩
  repeat' (first | with_reducible exact Keeps.refl _ | with_reducible apply Keeps.trans ?_ (Keeps.of_eq (begin_frame ..))
                 | with_reducible apply Keeps.trans ?_ (Keeps.of_eq (putHeld_frame ..))
                 | with_reducible apply Keeps.trans ?_ (ucRun_keeps (hf := ?_) ..) | (intro _))

theorem execUcXfer_keeps (hewer : Link) (slot : Fin 128) (s : State) : ∃ t, execUcXfer hewer slot s = .next t ∧ Keeps s.frame
    t.frame := by
  refine ⟨_, rfl, ?_⟩
  repeat' (first | with_reducible exact Keeps.refl _ | dsimp only | with_reducible apply Keeps.ite ?_ ?_
                 | with_reducible apply Keeps.trans ?_ (Keeps.of_eq (begin_frame ..))
                 | with_reducible apply Keeps.trans ?_ (Keeps.of_eq (putHeld_frame ..))
                 | with_reducible apply Keeps.trans ?_ (Keeps.of_eq (sendProgData_frame ..))
                 | with_reducible apply Keeps.trans ?_ (ucRun_keeps (hf := ?_) ..) | (intro _))

theorem execUcSuspt_keeps (hewer : Link) (slot : Fin 128) (s : State) : ∃ t, execUcSuspt hewer slot s = .next t ∧ Keeps
    s.frame t.frame := by
  refine ⟨_, rfl, ?_⟩
  repeat' (first | with_reducible exact Keeps.refl _ | with_reducible apply Keeps.trans ?_ (ucError_keeps ..)
                 | with_reducible apply Keeps.trans ?_ (Keeps.of_eq (begin_frame ..))
                 | with_reducible apply Keeps.trans ?_ (Keeps.of_eq (putHeld_frame ..))
                 | with_reducible apply Keeps.trans ?_ (Keeps.of_eq (drawn_frame ..))
                 | with_reducible apply Keeps.trans ?_ (ucRun_keeps (hf := ?_) ..) | (intro _) | (split))

theorem execUcTimer_keeps (hewer : Link) (slot : Fin 128) (s : State) : ∃ t, execUcTimer hewer slot s = .next t ∧ Keeps
    s.frame t.frame := by
  refine ⟨_, rfl, ?_⟩
  repeat' (first | with_reducible exact Keeps.refl _ | with_reducible apply Keeps.trans ?_ (Keeps.of_eq (begin_frame ..))
                 | with_reducible apply Keeps.trans ?_ (Keeps.of_eq (putHeld_frame ..))
                 | with_reducible apply Keeps.trans ?_ (ucRun_keeps (hf := ?_) ..) | (intro _))

theorem execUcDone_keeps (hewer : Link) (slot : Fin 128) (s : State) : ∃ t, execUcDone hewer slot s = .next t ∧ Keeps s.frame
    t.frame := by
  refine ⟨_, rfl, ?_⟩
  repeat' (first | with_reducible exact Keeps.refl _ | dsimp only
                 | with_reducible apply Keeps.trans ?_ (hewComplete_keeps ..)
                 | with_reducible apply Keeps.trans ?_ (Keeps.of_eq (begin_frame ..))
                 | with_reducible apply Keeps.trans ?_ (Keeps.of_eq (drawn_frame ..))
                 | with_reducible apply Keeps.trans ?_ (ucRun_keeps (hf := ?_) ..) | (intro _))

theorem execUcTrap_keeps (hewer : Link) (slot : Fin 128) (s : State) : ∃ t, execUcTrap hewer slot s = .next t ∧ Keeps s.frame
    t.frame := by
  refine ⟨_, rfl, ?_⟩
  repeat' (first | with_reducible exact Keeps.refl _ | with_reducible apply Keeps.trans ?_ (ucError_keeps ..)
                 | with_reducible apply Keeps.trans ?_ (Keeps.of_eq (begin_frame ..))
                 | with_reducible apply Keeps.trans ?_ (ucRunIf_keeps (hf := ?_) ..) | (intro _))

theorem execEpochPrepare_keeps (kind : EpochKind) (checkOk : Bool) (s : State) : ∃ t, execEpochPrepare kind checkOk s = .next
    t ∧ Keeps s.frame t.frame := by
  refine ⟨_, rfl, ?_⟩
  repeat' (first | with_reducible exact Keeps.refl _ | with_reducible apply Keeps.trans ?_ (Keeps.of_eq (begin_frame ..))
                 | with_reducible apply Keeps.trans ?_ (Keeps.of_eq (powerWaitBusy_frame ..))
                 | with_reducible apply Keeps.trans ?_ (Keeps.of_eq (epochPrepare_frame ..)))

theorem execEpochApplyAck_keeps (unit : EpochUnit) (s : State) : ∃ t, execEpochApplyAck unit s = .next t ∧ Keeps s.frame
    t.frame := by
  refine ⟨_, rfl, ?_⟩
  repeat' (first | with_reducible exact Keeps.refl _ | dsimp only | with_reducible apply Keeps.ite ?_ ?_
                 | with_reducible apply Keeps.trans ?_ (Keeps.of_eq (wr_frame _ _ _ _))
                 | with_reducible apply Keeps.trans ?_ (Keeps.of_eq (begin_frame ..))
                 | with_reducible apply Keeps.trans ?_ (Keeps.of_eq (epochNote_frame ..)) | simp only [frame_mk, frame_eta]
                 | (split))

theorem execEpochCommit_keeps (s : State) : ∃ t, execEpochCommit s = .next t ∧ Keeps s.frame t.frame := by
  refine ⟨_, rfl, ?_⟩
  repeat' (first | with_reducible exact Keeps.refl _ | dsimp only | with_reducible apply Keeps.ite ?_ ?_
                 | with_reducible apply Keeps.trans ?_ (Keeps.of_eq (wr_frame _ _ _ _))
                 | with_reducible apply Keeps.trans ?_ (Keeps.of_eq (wrB_frame _ _ _ _))
                 | with_reducible apply Keeps.trans ?_ (Keeps.of_eq (begin_frame ..))
                 | with_reducible apply Keeps.trans ?_ (Keeps.of_eq (peatRecord_frame ..))
                 | with_reducible apply Keeps.trans ?_ (Keeps.of_eq (epochWaiting_frame ..))
                 | simp only [frame_mk, frame_eta] | (split))

theorem execLotReapplyStart_keeps (path : AccessPath) (s : State) : ∃ t, execLotReapplyStart path s = .next t ∧ Keeps s.frame
    t.frame := by
  refine ⟨_, rfl, ?_⟩
  repeat' (first | with_reducible exact Keeps.refl _ | with_reducible apply Keeps.trans ?_ (Keeps.of_eq (begin_frame ..))
                 | with_reducible apply Keeps.trans ?_ (Keeps.of_eq (lotStart_frame ..)))

theorem execLotCommit_keeps (s : State) : ∃ t, execLotCommit s = .next t ∧ Keeps s.frame t.frame := by
  refine ⟨_, rfl, ?_⟩
  repeat' (first | with_reducible exact Keeps.refl _ | with_reducible apply Keeps.ite ?_ ?_
                 | with_reducible apply Keeps.trans ?_ (Keeps.of_eq (begin_frame ..))
                 | with_reducible apply Keeps.trans ?_ (Keeps.of_eq (lotCommit_frame ..)) | (split))

theorem execPowerReapplyTimeout_keeps (s : State) : ∃ t, execPowerReapplyTimeout s = .next t ∧ Keeps s.frame t.frame := by
  refine ⟨_, rfl, ?_⟩
  repeat' (first | with_reducible exact Keeps.refl _ | with_reducible apply Keeps.ite ?_ ?_
                 | with_reducible apply Keeps.trans ?_ (Keeps.of_eq (begin_frame ..))
                 | with_reducible apply Keeps.trans ?_ (Keeps.of_eq (lotRefuse_frame ..)))

theorem execExpertKeyWrite_keeps (path : AccessPath) (word : Word) (s : State) : ∃ t, execExpertKeyWrite path word s =
    .next t ∧ Keeps s.frame t.frame := by
  refine ⟨_, rfl, ?_⟩
  repeat' (first | with_reducible exact Keeps.refl _ | dsimp only
                 | with_reducible apply Keeps.trans ?_ (Keeps.of_eq (begin_frame ..))
                 | with_reducible apply Keeps.trans ?_ (Keeps.of_eq (accessViolation_frame ..))
                 | with_reducible apply Keeps.trans ?_ (Keeps.of_eq (expertKeyWrite_frame ..))
                 | with_reducible apply Keeps.ite ?_ ?_ | (intro _)
                 | refine Keeps.trans ?_ (Keeps.of_eq (eachOf_frame _ _ _ ?_))
                 | simp only [begin_frame, accessViolation_frame, expertKeyWrite_frame, frame_mk, frame_eta, apply_ite
                     State.frame, ite_self] | (split))

theorem execExpertNonceTimer_keeps (path : AccessPath) (s : State) : ∃ t, execExpertNonceTimer path s = .next t ∧ Keeps
    s.frame t.frame := by
  refine ⟨_, rfl, ?_⟩
  repeat' (first | with_reducible exact Keeps.refl _ | with_reducible apply Keeps.trans ?_ (Keeps.of_eq (begin_frame ..))
                 | with_reducible apply Keeps.trans ?_ (Keeps.of_eq (renewNonce_frame ..)) | (split))

theorem execExpertIdleTimeout_keeps (path : AccessPath) (s : State) : ∃ t, execExpertIdleTimeout path s = .next t ∧ Keeps
    s.frame t.frame := by
  refine ⟨_, rfl, ?_⟩
  repeat' (first | with_reducible exact Keeps.refl _ | with_reducible apply Keeps.trans ?_ (Keeps.of_eq (begin_frame ..))
                 | with_reducible apply Keeps.trans ?_ (Keeps.of_eq (closeExpert_frame ..)) | (split))

theorem execExpertLockoutEnd_keeps (path : AccessPath) (s : State) : ∃ t, execExpertLockoutEnd path s = .next t ∧ Keeps
    s.frame t.frame := by
  refine ⟨_, rfl, ?_⟩
  repeat' (first | with_reducible exact Keeps.refl _ | dsimp only
                 | with_reducible apply Keeps.trans ?_ (Keeps.of_eq (begin_frame ..))
                 | with_reducible apply Keeps.trans ?_ (Keeps.of_eq (putExpert_frame ..)) | (split))

theorem execExpertClose_keeps (path : AccessPath) (s : State) : ∃ t, execExpertClose path s = .next t ∧ Keeps s.frame t.frame
    := by
  refine ⟨_, rfl, ?_⟩
  repeat' (first | with_reducible exact Keeps.refl _ | with_reducible apply Keeps.trans ?_ (Keeps.of_eq (begin_frame ..))
                 | with_reducible apply Keeps.trans ?_ (Keeps.of_eq (closeExpert_frame ..)) | (split))

theorem execPfailInputFall_keeps (input : PfInput) (gapUs : Nat) (s : State) : ∃ t, execPfailInputFall input gapUs s = .next
    t ∧ Keeps s.frame t.frame := by
  refine ⟨_, rfl, ?_⟩
  repeat' (first | with_reducible exact Keeps.refl _ | dsimp only | with_reducible apply Keeps.ite ?_ ?_
                 | with_reducible apply Keeps.trans ?_ (Keeps.of_eq (wr_frame _ _ _ _))
                 | with_reducible apply Keeps.trans ?_ (Keeps.of_eq (begin_frame ..))
                 | with_reducible apply Keeps.trans ?_ (Keeps.of_eq (setPf_frame ..))
                 | with_reducible apply Keeps.trans ?_ (Keeps.of_eq (pfDisagree_frame ..)) | simp only [frame_mk, frame_eta])

theorem execPfailAgreeTimeout_keeps (s : State) : ∃ t, execPfailAgreeTimeout s = .next t ∧ Keeps s.frame t.frame := by
  refine ⟨_, rfl, ?_⟩
  repeat' (first | with_reducible exact Keeps.refl _ | dsimp only | with_reducible apply Keeps.ite ?_ ?_
                 | with_reducible apply Keeps.trans ?_ (Keeps.of_eq (wr_frame _ _ _ _))
                 | with_reducible apply Keeps.trans ?_ (Keeps.of_eq (begin_frame ..)) | simp only [frame_mk, frame_eta])

theorem execPfailInputRise_keeps (input : PfInput) (s : State) : ∃ t, execPfailInputRise input s = .next t ∧ Keeps s.frame
    t.frame := by
  refine ⟨_, rfl, ?_⟩
  repeat' (first | with_reducible exact Keeps.refl _ | dsimp only | with_reducible apply Keeps.ite ?_ ?_
                 | with_reducible apply Keeps.trans ?_ (Keeps.of_eq (wr_frame _ _ _ _))
                 | with_reducible apply Keeps.trans ?_ (Keeps.of_eq (count_frame _ _ _ _))
                 | with_reducible apply Keeps.trans ?_ (Keeps.of_eq (begin_frame ..))
                 | with_reducible apply Keeps.trans ?_ (Keeps.of_eq (setPf_frame ..)) | simp only [frame_mk, frame_eta])

theorem execFlushEnd_keeps (us : Nat) (s : State) : ∃ t, execFlushEnd us s = .next t ∧ Keeps s.frame t.frame := by
  refine ⟨_, rfl, ?_⟩
  repeat' (first | with_reducible exact Keeps.refl _ | dsimp only
                 | with_reducible apply Keeps.trans ?_ (Keeps.of_eq (begin_frame ..))
                 | with_reducible apply Keeps.trans ?_ (Keeps.of_eq (flushData_frame ..))
                 | with_reducible apply Keeps.trans ?_ (flushDone_keeps ..)
                 | with_reducible apply Keeps.trans ?_ (peatArchiveAll_keeps ..)
                 | with_reducible apply Keeps.trans ?_ (flushRecords_keeps ..) | with_reducible apply Keeps.ite ?_ ?_
                 | (intro _)
                 | simp only [begin_frame, flushData_frame, frame_mk, frame_eta, apply_ite State.frame, ite_self]
                 | with_reducible refine Keeps.trans ?_ (eachOf_keeps _ _ _ ?_)
                 | with_reducible refine Keeps.trans ?_ (foldl_keeps _ _ _ ?_) | (split))

theorem execFlushLimitExpiry_keeps (units : Nat) (records : Bool) (s : State) : ∃ t, execFlushLimitExpiry units records
    s = .next t ∧ Keeps s.frame t.frame := by
  refine ⟨_, rfl, ?_⟩
  repeat' (first | with_reducible exact Keeps.refl _ | dsimp only
                 | with_reducible apply Keeps.trans ?_ (Keeps.of_eq (begin_frame ..))
                 | with_reducible apply Keeps.trans ?_ (Keeps.of_eq (flushData_frame ..))
                 | with_reducible apply Keeps.trans ?_ (peatArchiveAll_keeps ..)
                 | with_reducible apply Keeps.trans ?_ (flushRecords_keeps ..)
                 | with_reducible apply Keeps.trans ?_ (flushDone_keeps ..) | with_reducible apply Keeps.ite ?_ ?_
                 | (intro _)
                 | simp only [begin_frame, flushData_frame, frame_mk, frame_eta, apply_ite State.frame, ite_self]
                 | with_reducible refine Keeps.trans ?_ (eachOf_keeps _ _ _ ?_)
                 | with_reducible refine Keeps.trans ?_ (foldl_keeps _ _ _ ?_) | (split))

theorem execHoldupTestDue_keeps (s : State) : ∃ t, execHoldupTestDue s = .next t ∧ Keeps s.frame t.frame := by
  refine ⟨_, rfl, ?_⟩
  repeat' (first | with_reducible exact Keeps.refl _ | with_reducible apply Keeps.ite ?_ ?_
                 | with_reducible apply Keeps.trans ?_ (Keeps.of_eq (begin_frame ..))
                 | with_reducible apply Keeps.trans ?_ (Keeps.of_eq (htAsk_frame ..)))

theorem execHtArm_keeps (_path : AccessPath) (s : State) : ∃ t, execHtArm _path s = .next t ∧ Keeps s.frame t.frame := by
  refine ⟨_, rfl, ?_⟩
  repeat' (first | with_reducible exact Keeps.refl _ | with_reducible apply Keeps.trans ?_ (Keeps.of_eq (begin_frame ..))
                 | with_reducible apply Keeps.trans ?_ (Keeps.of_eq (htArm_frame ..)))

theorem execHtCancel_keeps (_path : AccessPath) (s : State) : ∃ t, execHtCancel _path s = .next t ∧ Keeps s.frame t.frame := by
  refine ⟨_, rfl, ?_⟩
  repeat' (first | with_reducible exact Keeps.refl _ | with_reducible apply Keeps.trans ?_ (Keeps.of_eq (begin_frame ..))
                 | with_reducible apply Keeps.trans ?_ (Keeps.of_eq (htCancel_frame ..)))

theorem execHtReady_keeps (s : State) : ∃ t, execHtReady s = .next t ∧ Keeps s.frame t.frame := by
  refine ⟨_, rfl, ?_⟩
  repeat' (first | with_reducible exact Keeps.refl _ | dsimp only
                 | with_reducible apply Keeps.trans ?_ (Keeps.of_eq (begin_frame ..))
                 | with_reducible apply Keeps.trans ?_ (Keeps.of_eq (wr_frame ..))
                 | with_reducible apply Keeps.trans ?_ (peatArchiveAll_keeps ..)
                 | with_reducible apply Keeps.trans ?_ (makeDurable_keeps ..) | with_reducible apply Keeps.ite ?_ ?_
                 | (intro _) | simp only [begin_frame, wr_frame, frame_mk, frame_eta, apply_ite State.frame, ite_self]
                 | with_reducible refine Keeps.trans ?_ (eachOf_keeps _ _ _ ?_)
                 | with_reducible refine Keeps.trans ?_ (foldl_keeps _ _ _ ?_) | (split))

theorem execHtRideStart_keeps (input : PfInput) (s : State) : ∃ t, execHtRideStart input s = .next t ∧ Keeps s.frame t.frame
    := by
  refine ⟨_, rfl, ?_⟩
  repeat' (first | with_reducible exact Keeps.refl _ | dsimp only | with_reducible apply Keeps.ite ?_ ?_
                 | with_reducible apply Keeps.trans ?_ (Keeps.of_eq (wr_frame _ _ _ _))
                 | with_reducible apply Keeps.trans ?_ (Keeps.of_eq (begin_frame ..))
                 | with_reducible apply Keeps.trans ?_ (Keeps.of_eq (setPf_frame ..)) | simp only [frame_mk, frame_eta])

theorem execHtRideMark_keeps (s : State) : ∃ t, execHtRideMark s = .next t ∧ Keeps s.frame t.frame := by
  refine ⟨_, rfl, ?_⟩
  repeat' (first | with_reducible exact Keeps.refl _ | dsimp only | with_reducible apply Keeps.ite ?_ ?_
                 | with_reducible apply Keeps.trans ?_ (Keeps.of_eq (begin_frame ..)) | simp only [frame_mk, frame_eta])

theorem execHtRidePass_keeps (energyMj : Nat) (s : State) : ∃ t, execHtRidePass energyMj s = .next t ∧ Keeps s.frame t.frame
    := by
  refine ⟨_, rfl, ?_⟩
  repeat' (first | with_reducible exact Keeps.refl _ | dsimp only | with_reducible apply Keeps.ite ?_ ?_
                 | with_reducible apply Keeps.trans ?_ (Keeps.of_eq (wr_frame _ _ _ _))
                 | with_reducible apply Keeps.trans ?_ (Keeps.of_eq (begin_frame ..))
                 | with_reducible apply Keeps.trans ?_ (Keeps.of_eq (peatRecord_frame ..))
                 | with_reducible apply Keeps.trans ?_ (Keeps.of_eq (powerWaitEnds_frame ..)) | simp only [frame_mk, frame_eta])

theorem execHtInputsRise_keeps (s : State) : ∃ t, execHtInputsRise s = .next t ∧ Keeps s.frame t.frame := by
  refine ⟨_, rfl, ?_⟩
  repeat' (first | with_reducible exact Keeps.refl _ | dsimp only | with_reducible apply Keeps.ite ?_ ?_
                 | with_reducible apply Keeps.trans ?_ (Keeps.of_eq (wr_frame _ _ _ _))
                 | with_reducible apply Keeps.trans ?_ (Keeps.of_eq (begin_frame ..))
                 | with_reducible apply Keeps.trans ?_ (Keeps.of_eq (htEnd_frame ..)) | simp only [frame_mk, frame_eta])

theorem execHtReadyTimeout_keeps (s : State) : ∃ t, execHtReadyTimeout s = .next t ∧ Keeps s.frame t.frame := by
  refine ⟨_, rfl, ?_⟩
  repeat' (first | with_reducible exact Keeps.refl _ | with_reducible apply Keeps.ite ?_ ?_
                 | with_reducible apply Keeps.trans ?_ (Keeps.of_eq (begin_frame ..))
                 | with_reducible apply Keeps.trans ?_ (Keeps.of_eq (htEnd_frame ..)))

theorem execHtOverdue_keeps (s : State) : ∃ t, execHtOverdue s = .next t ∧ Keeps s.frame t.frame := by
  refine ⟨_, rfl, ?_⟩
  repeat' (first | with_reducible exact Keeps.refl _ | with_reducible apply Keeps.ite ?_ ?_
                 | with_reducible apply Keeps.trans ?_ (Keeps.of_eq (wr_frame _ _ _ _))
                 | with_reducible apply Keeps.trans ?_ (Keeps.of_eq (begin_frame ..))
                 | with_reducible apply Keeps.trans ?_ (Keeps.of_eq (vendorNotice_frame ..)))

theorem execSealSample_keeps (a b : Bool) (s : State) : ∃ t, execSealSample a b s = .next t ∧ Keeps s.frame t.frame := by
  refine ⟨_, rfl, ?_⟩
  repeat' (first | with_reducible exact Keeps.refl _ | with_reducible apply Keeps.ite ?_ ?_
                 | with_reducible apply Keeps.trans ?_ (Keeps.of_eq (begin_frame ..))
                 | with_reducible apply Keeps.trans ?_ (Keeps.of_eq (sealSample_frame ..)))

theorem execSealClear_keeps (path : AccessPath) (s : State) : ∃ t, execSealClear path s = .next t ∧ Keeps s.frame t.frame := by
  refine ⟨_, rfl, ?_⟩
  repeat' (first | with_reducible exact Keeps.refl _ | with_reducible apply Keeps.trans ?_ (Keeps.of_eq (begin_frame ..))
                 | with_reducible apply Keeps.trans ?_ (Keeps.of_eq (sealClear_frame ..)))

theorem execSealSoft_keeps (path : AccessPath) (engage : Bool) (s : State) : ∃ t, execSealSoft path engage s = .next t ∧
    Keeps s.frame t.frame := by
  refine ⟨_, rfl, ?_⟩
  repeat' (first | with_reducible exact Keeps.refl _ | with_reducible apply Keeps.trans ?_ (Keeps.of_eq (begin_frame ..))
                 | with_reducible apply Keeps.trans ?_ (Keeps.of_eq (sealSoft_frame ..)))

theorem execMailboxPush_keeps (path : AccessPath) (chan : Fin 256) (word : Word) (s : State) : ∃ t, execMailboxPush path chan
    word s = .next t ∧ Keeps s.frame t.frame := by
  refine ⟨_, rfl, ?_⟩
  repeat' (first | with_reducible exact Keeps.refl _ | with_reducible apply Keeps.trans ?_ (Keeps.of_eq (begin_frame ..))
                 | with_reducible apply Keeps.trans ?_ (Keeps.of_eq (mbxPush_frame ..)))

theorem execMailboxPop_keeps (path : AccessPath) (chan : Fin 256) (s : State) : ∃ t, execMailboxPop path chan s = .next t ∧
    Keeps s.frame t.frame := by
  refine ⟨_, rfl, ?_⟩
  repeat' (first | with_reducible exact Keeps.refl _ | with_reducible apply Keeps.trans ?_ (Keeps.of_eq (begin_frame ..))
                 | with_reducible apply Keeps.trans ?_ (Keeps.of_eq (mbxPop_frame ..)))

theorem execPairCheckerMismatch_keeps (pair : Fin 12) (s : State) : ∃ t, execPairCheckerMismatch pair s = .next t ∧ Keeps
    s.frame t.frame := by
  refine ⟨_, rfl, ?_⟩
  repeat' (first | with_reducible exact Keeps.refl _ | with_reducible apply Keeps.trans ?_ (Keeps.of_eq (begin_frame ..))
                 | with_reducible apply Keeps.trans ?_ (Keeps.of_eq (losePair_frame ..)))

theorem execPairWatchdogTimeout_keeps (pair : Fin 12) (s : State) : ∃ t, execPairWatchdogTimeout pair s = .next t ∧ Keeps
    s.frame t.frame := by
  refine ⟨_, rfl, ?_⟩
  repeat' (first | with_reducible exact Keeps.refl _ | with_reducible apply Keeps.trans ?_ (Keeps.of_eq (begin_frame ..))
                 | with_reducible apply Keeps.trans ?_ (Keeps.of_eq (losePair_frame ..)))

theorem execPairMemoryError_keeps (pair : Fin 12) (s : State) : ∃ t, execPairMemoryError pair s = .next t ∧ Keeps s.frame
    t.frame := by
  refine ⟨_, rfl, ?_⟩
  repeat' (first | with_reducible exact Keeps.refl _ | with_reducible apply Keeps.trans ?_ (Keeps.of_eq (begin_frame ..))
                 | with_reducible apply Keeps.trans ?_ (Keeps.of_eq (losePair_frame ..)))

theorem execPairTakeover_keeps (lost : Fin 12) (s : State) : ∃ t, execPairTakeover lost s = .next t ∧ Keeps s.frame t.frame
    := by
  refine ⟨_, rfl, ?_⟩
  repeat' (first | with_reducible exact Keeps.refl _ | dsimp only | with_reducible apply Keeps.ite ?_ ?_
                 | with_reducible apply Keeps.trans ?_ (Keeps.of_eq (wr_frame _ _ _ _))
                 | with_reducible apply Keeps.trans ?_ (Keeps.of_eq (begin_frame ..))
                 | with_reducible apply Keeps.trans ?_ (Keeps.of_eq (faultRestored_frame ..))
                 | with_reducible apply Keeps.trans ?_ (Keeps.of_eq (takeIdentity_frame ..))
                 | simp only [frame_mk, frame_eta] | with_reducible apply Keeps.trans ?_ (eachOf_keeps _ _ _ ?_) | (intro _))

theorem execPairTestInject_keeps (path : AccessPath) (pair : Fin 16) (s : State) : ∃ t, execPairTestInject path pair s =
    .next t ∧ Keeps s.frame t.frame := by
  refine ⟨_, rfl, ?_⟩
  repeat' (first | with_reducible exact Keeps.refl _ | dsimp only | with_reducible apply Keeps.ite ?_ ?_
                 | with_reducible apply Keeps.trans ?_ (Keeps.of_eq (wr_frame _ _ _ _))
                 | with_reducible apply Keeps.trans ?_ (Keeps.of_eq (begin_frame ..))
                 | with_reducible apply Keeps.trans ?_ (Keeps.of_eq (accessViolation_frame ..))
                 | with_reducible apply Keeps.trans ?_ (Keeps.of_eq (losePair_frame ..)))

theorem execPairWake_keeps (pair : Fin 12) (s : State) : ∃ t, execPairWake pair s = .next t ∧ Keeps s.frame t.frame := by
  refine ⟨_, rfl, ?_⟩
  repeat' (first | with_reducible exact Keeps.refl _ | dsimp only | with_reducible apply Keeps.ite ?_ ?_
                 | with_reducible apply Keeps.trans ?_ (Keeps.of_eq (wr_frame _ _ _ _))
                 | with_reducible apply Keeps.trans ?_ (Keeps.of_eq (begin_frame ..)) | simp only [frame_mk, frame_eta])

theorem execMereRead_keeps (requester : BitVec 8) (addr : MereAddr) (mirror : Option MereAddr) (len : Nat)
    (flips : List (Nat × Nat)) (s : State) : ∃ t, execMereRead requester addr mirror len flips s = .next t ∧ Keeps
        s.frame t.frame := by
  refine ⟨_, rfl, ?_⟩
  repeat' (first | with_reducible exact Keeps.refl _ | dsimp only
                 | with_reducible apply Keeps.trans ?_ (Keeps.of_eq (upsets_frame ..))
                 | with_reducible apply Keeps.trans ?_ (Keeps.of_eq (begin_frame ..))
                 | with_reducible apply Keeps.trans ?_ (mereReadOp_keeps ..) | with_reducible apply Keeps.ite ?_ ?_
                 | (intro _) | simp only [upsets_frame, begin_frame, frame_mk, frame_eta, apply_ite State.frame, ite_self]
                 | with_reducible refine Keeps.trans ?_ (eachOf_keeps _ _ _ ?_)
                 | with_reducible refine Keeps.trans ?_ (foldl_keeps _ _ _ ?_) | (split))

theorem execMereWrite_keeps (requester : BitVec 8) (addr : MereAddr) (mirror : Option MereAddr) (len data : Nat)
    (flips : List (Nat × Nat)) (s : State) : ∃ t, execMereWrite requester addr mirror len data flips s = .next t ∧ Keeps
        s.frame t.frame := by
  refine ⟨_, rfl, ?_⟩
  repeat' (first | with_reducible exact Keeps.refl _ | dsimp only
                 | with_reducible apply Keeps.trans ?_ (Keeps.of_eq (upsets_frame ..))
                 | with_reducible apply Keeps.trans ?_ (Keeps.of_eq (begin_frame ..))
                 | with_reducible apply Keeps.trans ?_ (mereWriteOp_keeps ..) | with_reducible apply Keeps.ite ?_ ?_
                 | (intro _) | simp only [upsets_frame, begin_frame, frame_mk, frame_eta, apply_ite State.frame, ite_self]
                 | with_reducible refine Keeps.trans ?_ (eachOf_keeps _ _ _ ?_)
                 | with_reducible refine Keeps.trans ?_ (foldl_keeps _ _ _ ?_) | (split))

theorem execScrubStep_keeps (place : ScrubPlace) (flips : Nat) (s : State) : ∃ t, execScrubStep place flips s = .next t
    ∧ Keeps s.frame t.frame := by
  refine ⟨_, rfl, ?_⟩
  repeat' (first | with_reducible exact Keeps.refl _ | dsimp only
                 | with_reducible apply Keeps.trans ?_ (Keeps.of_eq (flipBits_frame ..))
                 | with_reducible apply Keeps.trans ?_ (Keeps.of_eq (begin_frame ..))
                 | with_reducible apply Keeps.trans ?_ (Keeps.of_eq (lapStep_frame ..))
                 | with_reducible apply Keeps.trans ?_ (Keeps.of_eq (scrubOnDie_frame ..))
                 | with_reducible apply Keeps.trans ?_ (scrubWord_keeps ..) | with_reducible apply Keeps.ite ?_ ?_
                 | (intro _)
                 | simp only [flipBits_frame, begin_frame, lapStep_frame, scrubOnDie_frame, frame_mk, frame_eta,
                     apply_ite State.frame, ite_self] | with_reducible refine Keeps.trans ?_ (eachOf_keeps _ _ _ ?_)
                 | with_reducible refine Keeps.trans ?_ (foldl_keeps _ _ _ ?_) | (split))

theorem execBucketLeak_keeps (s : State) : ∃ t, execBucketLeak s = .next t ∧ Keeps s.frame t.frame := by
  refine ⟨_, rfl, ?_⟩
  repeat' (first | with_reducible exact Keeps.refl _ | with_reducible apply Keeps.trans ?_ (Keeps.of_eq (begin_frame ..))
                 | with_reducible apply Keeps.trans ?_ (Keeps.of_eq (leakAll_frame ..)))

theorem execStackFence_keeps (stack cause : Fin 8) (s : State) : ∃ t, execStackFence stack cause s = .next t ∧ Keeps s.frame
    t.frame := by
  refine ⟨_, rfl, ?_⟩
  repeat' (first | with_reducible exact Keeps.refl _ | with_reducible apply Keeps.trans ?_ (fenceStack_keeps ..)
                 | with_reducible apply Keeps.trans ?_ (Keeps.of_eq (begin_frame ..)))

theorem execMereFenceWrite_keeps (path : AccessPath) (mask : Word) (s : State) : ∃ t, execMereFenceWrite path mask s = .next
    t ∧ Keeps s.frame t.frame := by
  refine ⟨_, rfl, ?_⟩
  repeat' (first | with_reducible exact Keeps.refl _ | with_reducible apply Keeps.ite ?_ ?_
                 | with_reducible apply Keeps.trans ?_ (fenceStack_keeps ..)
                 | with_reducible apply Keeps.trans ?_ (Keeps.of_eq (begin_frame ..))
                 | with_reducible apply Keeps.trans ?_ (eachOf_keeps _ _ _ ?_) | (intro _))

theorem execRemirrorDone_keeps (stack : Fin 8) (s : State) : ∃ t, execRemirrorDone stack s = .next t ∧ Keeps s.frame
    t.frame := by
  refine ⟨_, rfl, ?_⟩
  repeat' (first | with_reducible exact Keeps.refl _ | dsimp only
                 | with_reducible apply Keeps.trans ?_ (Keeps.of_eq (begin_frame ..))
                 | with_reducible apply Keeps.trans ?_ (Keeps.of_eq (remirrorPieces_frame ..))
                 | with_reducible apply Keeps.trans ?_ (Keeps.of_eq (faultRestored_frame ..))
                 | with_reducible apply Keeps.trans ?_ (remirrorDirty_keeps ..) | with_reducible apply Keeps.ite ?_ ?_
                 | (intro _)
                 | simp only [begin_frame, remirrorPieces_frame, faultRestored_frame, frame_mk, frame_eta, apply_ite
                     State.frame, ite_self] | with_reducible refine Keeps.trans ?_ (eachOf_keeps _ _ _ ?_)
                 | with_reducible refine Keeps.trans ?_ (foldl_keeps _ _ _ ?_) | (split))

theorem execScrubEnableTimeout_keeps (s : State) : ∃ t, execScrubEnableTimeout s = .next t ∧ Keeps s.frame t.frame := by
  refine ⟨_, rfl, ?_⟩
  repeat' (first | with_reducible exact Keeps.refl _ | with_reducible apply Keeps.trans ?_ (Keeps.of_eq (wr_frame _ _ _ _))
                 | with_reducible apply Keeps.trans ?_ (Keeps.of_eq (begin_frame ..)))

theorem execOvf24hAgeOut_keeps (stack : Fin 8) (s : State) : ∃ t, execOvf24hAgeOut stack s = .next t ∧ Keeps s.frame t.frame
    := by
  refine ⟨_, rfl, ?_⟩
  repeat' (first | with_reducible exact Keeps.refl _ | with_reducible apply Keeps.trans ?_ (Keeps.of_eq (wr_frame _ _ _ _))
                 | with_reducible apply Keeps.trans ?_ (Keeps.of_eq (begin_frame ..)))

theorem execEthPortUp_keeps (lp : LPort) (s : State) : ∃ t, execEthPortUp lp s = .next t ∧ Keeps s.frame t.frame := by
  refine ⟨_, rfl, ?_⟩
  repeat' (first | with_reducible exact Keeps.refl _ | dsimp only | with_reducible apply Keeps.ite ?_ ?_
                 | with_reducible apply Keeps.trans ?_ (Keeps.of_eq (wr_frame _ _ _ _))
                 | with_reducible apply Keeps.trans ?_ (Keeps.of_eq (begin_frame ..))
                 | with_reducible apply Keeps.trans ?_ (Keeps.of_eq (glbRefresh_frame ..))
                 | with_reducible apply Keeps.trans ?_ (Keeps.of_eq (faultRestored_frame ..))
                 | with_reducible apply Keeps.trans ?_ (Keeps.of_eq (portChange_frame ..)))

theorem execEthPortDown_keeps (lp : LPort) (s : State) : ∃ t, execEthPortDown lp s = .next t ∧ Keeps s.frame t.frame := by
  refine ⟨_, rfl, ?_⟩
  repeat' (first | with_reducible exact Keeps.refl _ | with_reducible apply Keeps.trans ?_ (Keeps.of_eq (begin_frame ..))
                 | with_reducible apply Keeps.trans ?_ (Keeps.of_eq (ethPortDown_frame ..)))

theorem execLinkHoldExpiry_keeps (lp : LPort) (s : State) : ∃ t, execLinkHoldExpiry lp s = .next t ∧ Keeps s.frame t.frame := by
  refine ⟨_, rfl, ?_⟩
  repeat' (first | with_reducible exact Keeps.refl _ | with_reducible apply Keeps.ite ?_ ?_
                 | with_reducible apply Keeps.trans ?_ (assocEndWhere_keeps ..)
                 | with_reducible apply Keeps.trans ?_ (Keeps.of_eq (wr_frame _ _ _ _))
                 | with_reducible apply Keeps.trans ?_ (Keeps.of_eq (begin_frame ..)))

theorem execEthernetFrameReceive_keeps (lp : LPort) (frame : EthFrame) (s : State) : ∃ t, execEthernetFrameReceive lp frame s
    = .next t ∧ Keeps s.frame t.frame := by
  refine ⟨_, rfl, ?_⟩
  repeat' (first | with_reducible exact Keeps.refl _ | dsimp only | with_reducible apply Keeps.ite ?_ ?_
                 | with_reducible apply Keeps.trans ?_ (Keeps.of_eq (count_frame _ _ _ _))
                 | with_reducible apply Keeps.trans ?_ (Keeps.of_eq (begin_frame ..))
                 | with_reducible apply Keeps.trans ?_ (Keeps.of_eq (peatRecord_frame ..))
                 | with_reducible apply Keeps.trans ?_ (Keeps.of_eq (pfcNote_frame ..)) | (split))

theorem execArpRequest_keeps (lp : LPort) (addr : Nat) (s : State) : ∃ t, execArpRequest lp addr s = .next t ∧ Keeps s.frame
    t.frame := by
  refine ⟨_, rfl, ?_⟩
  repeat' (first | with_reducible exact Keeps.refl _ | with_reducible apply Keeps.ite ?_ ?_
                 | with_reducible apply Keeps.trans ?_ (Keeps.of_eq (begin_frame ..))
                 | with_reducible apply Keeps.trans ?_ (Keeps.of_eq (emit_frame ..)))

theorem execNeighborDiscovery_keeps (lp : LPort) (addr : Nat) (s : State) : ∃ t, execNeighborDiscovery lp addr s = .next t ∧
    Keeps s.frame t.frame := by
  refine ⟨_, rfl, ?_⟩
  repeat' (first | with_reducible exact Keeps.refl _ | with_reducible apply Keeps.ite ?_ ?_
                 | with_reducible apply Keeps.trans ?_ (Keeps.of_eq (begin_frame ..))
                 | with_reducible apply Keeps.trans ?_ (Keeps.of_eq (emit_frame ..)))

theorem execIcmpEcho_keeps (lp : LPort) (addr ident : Nat) (s : State) : ∃ t, execIcmpEcho lp addr ident s = .next t ∧ Keeps
    s.frame t.frame := by
  refine ⟨_, rfl, ?_⟩
  repeat' (first | with_reducible exact Keeps.refl _ | with_reducible apply Keeps.ite ?_ ?_
                 | with_reducible apply Keeps.trans ?_ (Keeps.of_eq (begin_frame ..))
                 | with_reducible apply Keeps.trans ?_ (Keeps.of_eq (emit_frame ..)))

theorem execPfcFrame_keeps (lp : LPort) (enables : BitVec 8) (times : List Nat) (s : State) : ∃ t, execPfcFrame lp enables
    times s = .next t ∧ Keeps s.frame t.frame := by
  refine ⟨_, rfl, ?_⟩
  repeat' (first | with_reducible exact Keeps.refl _ | with_reducible apply Keeps.ite ?_ ?_
                 | with_reducible apply Keeps.trans ?_ (Keeps.of_eq (wrBit_frame _ _ _ _ _))
                 | with_reducible apply Keeps.trans ?_ (Keeps.of_eq (begin_frame ..))
                 | with_reducible apply Keeps.trans ?_ (eachOf_keeps _ _ _ ?_) | (intro _))

theorem execPauseStormDetect_keeps (lp : LPort) (prio : Fin 8) (s : State) : ∃ t, execPauseStormDetect lp prio s = .next t ∧
    Keeps s.frame t.frame := by
  refine ⟨_, rfl, ?_⟩
  repeat' (first | with_reducible exact Keeps.refl _ | dsimp only | with_reducible apply Keeps.ite ?_ ?_
                 | with_reducible apply Keeps.trans ?_ (Keeps.of_eq (wr_frame _ _ _ _))
                 | with_reducible apply Keeps.trans ?_ (Keeps.of_eq (wrBit_frame _ _ _ _ _))
                 | with_reducible apply Keeps.trans ?_ (Keeps.of_eq (begin_frame ..))
                 | with_reducible apply Keeps.trans ?_ (Keeps.of_eq (peatRecord_frame ..)) | simp only [frame_mk, frame_eta])

theorem execPauseStormEnd_keeps (lp : LPort) (s : State) : ∃ t, execPauseStormEnd lp s = .next t ∧ Keeps s.frame t.frame := by
  refine ⟨_, rfl, ?_⟩
  repeat' (first | with_reducible exact Keeps.refl _ | dsimp only
                 | with_reducible apply Keeps.trans ?_ (Keeps.of_eq (wrB_frame _ _ _ _))
                 | with_reducible apply Keeps.trans ?_ (Keeps.of_eq (begin_frame ..)) | simp only [frame_mk, frame_eta])

theorem execCeMarkedPacket_keeps (qp gapUs : Nat) (s : State) : ∃ t, execCeMarkedPacket qp gapUs s = .next t ∧ Keeps s.frame
    t.frame := by
  refine ⟨_, rfl, ?_⟩
  repeat' (first | with_reducible exact Keeps.refl _ | with_reducible apply Keeps.ite ?_ ?_
                 | with_reducible apply Keeps.trans ?_ (Keeps.of_eq (begin_frame ..))
                 | with_reducible apply Keeps.trans ?_ (Keeps.of_eq (emit_frame ..)) | (split))

theorem execCnp_keeps (qp sinceCutUs : Nat) (s : State) : ∃ t, execCnp qp sinceCutUs s = .next t ∧ Keeps s.frame t.frame := by
  refine ⟨_, rfl, ?_⟩
  repeat' (first | with_reducible exact Keeps.refl _ | dsimp only
                 | with_reducible apply Keeps.trans ?_ (Keeps.of_eq (count_frame _ _ _ _))
                 | with_reducible apply Keeps.trans ?_ (Keeps.of_eq (begin_frame ..))
                 | with_reducible apply Keeps.trans ?_ (Keeps.of_eq (putQp_frame ..)) | (split))

theorem execEcnRiseTimer_keeps (qp : Nat) (s : State) : ∃ t, execEcnRiseTimer qp s = .next t ∧ Keeps s.frame t.frame := by
  refine ⟨_, rfl, ?_⟩
  repeat' (first | with_reducible exact Keeps.refl _ | dsimp only | with_reducible apply Keeps.ite ?_ ?_
                 | with_reducible apply Keeps.trans ?_ (Keeps.of_eq (begin_frame ..))
                 | with_reducible apply Keeps.trans ?_ (Keeps.of_eq (putQp_frame ..)) | (split))

theorem execRdmaSend_keeps (qp : Nat) (invalidate : Option Nat) (s : State) : ∃ t, execRdmaSend qp invalidate s = .next t ∧
    Keeps s.frame t.frame := by
  refine ⟨_, rfl, ?_⟩
  repeat' (first | with_reducible exact Keeps.refl _ | with_reducible apply Keeps.ite ?_ ?_
                 | with_reducible apply Keeps.trans ?_ (Keeps.of_eq (begin_frame ..))
                 | with_reducible apply Keeps.trans ?_ (Keeps.of_eq (emit_frame ..))
                 | with_reducible apply Keeps.trans ?_ (Keeps.of_eq (qpProgress_frame ..)) | (split))

theorem execRdmaRead_keeps (qp : Nat) (response : Bool) (len : Nat) (s : State) : ∃ t, execRdmaRead qp response len s = .next
    t ∧ Keeps s.frame t.frame := by
  refine ⟨_, rfl, ?_⟩
  repeat' (first | with_reducible exact Keeps.refl _ | with_reducible apply Keeps.ite ?_ ?_
                 | with_reducible apply Keeps.trans ?_ (Keeps.of_eq (begin_frame ..))
                 | with_reducible apply Keeps.trans ?_ (Keeps.of_eq (emit_frame ..))
                 | with_reducible apply Keeps.trans ?_ (Keeps.of_eq (putQp_frame ..))
                 | with_reducible apply Keeps.trans ?_ (Keeps.of_eq (qpProgress_frame ..)) | (split))

theorem execRdmaWrite_keeps (qp len : Nat) (s : State) : ∃ t, execRdmaWrite qp len s = .next t ∧ Keeps s.frame t.frame := by
  refine ⟨_, rfl, ?_⟩
  repeat' (first | with_reducible exact Keeps.refl _ | with_reducible apply Keeps.ite ?_ ?_
                 | with_reducible apply Keeps.trans ?_ (Keeps.of_eq (begin_frame ..))
                 | with_reducible apply Keeps.trans ?_ (Keeps.of_eq (emit_frame ..))
                 | with_reducible apply Keeps.trans ?_ (Keeps.of_eq (qpProgress_frame ..)) | (split))

theorem execQpAckTimeout_keeps (qp : Nat) (s : State) : ∃ t, execQpAckTimeout qp s = .next t ∧ Keeps s.frame t.frame := by
  refine ⟨_, rfl, ?_⟩
  repeat' (first | with_reducible exact Keeps.refl _ | dsimp only | with_reducible apply Keeps.ite ?_ ?_
                 | with_reducible apply Keeps.trans ?_ (assocEnd_keeps ..)
                 | with_reducible apply Keeps.trans ?_ (Keeps.of_eq (count_frame _ _ _ _))
                 | with_reducible apply Keeps.trans ?_ (Keeps.of_eq (begin_frame ..))
                 | with_reducible apply Keeps.trans ?_ (Keeps.of_eq (fabNote_frame ..))
                 | with_reducible apply Keeps.trans ?_ (Keeps.of_eq (putQp_frame ..)) | simp only [frame_mk, frame_eta]
                 | (split))

theorem execRdmaTransportAck_keeps (slot : SlotNo) (s : State) : ∃ t, execRdmaTransportAck slot s = .next t ∧ Keeps s.frame
    t.frame := by
  refine ⟨_, rfl, ?_⟩
  repeat' (first | with_reducible exact Keeps.refl _ | with_reducible apply Keeps.ite ?_ ?_
                 | with_reducible apply Keeps.trans ?_ (Keeps.of_eq (begin_frame ..))
                 | with_reducible apply Keeps.trans ?_ (Keeps.of_eq (endPosted_frame ..)) | (split))

theorem execCmReq_keeps (lp : LPort) (req : CmReq) (s : State) : ∃ t, execCmReq lp req s = .next t ∧ Keeps s.frame t.frame := by
  refine ⟨_, rfl, ?_⟩
  repeat' (first | with_reducible exact Keeps.refl _ | dsimp only | with_reducible apply Keeps.ite ?_ ?_
                 | with_reducible apply Keeps.trans ?_ (Keeps.of_eq (begin_frame ..))
                 | with_reducible apply Keeps.trans ?_ (Keeps.of_eq (emit_frame ..))
                 | with_reducible apply Keeps.trans ?_ (Keeps.of_eq (fabNote_frame ..))
                 | with_reducible apply Keeps.trans ?_ (Keeps.of_eq (putQp_frame ..)))

theorem execCmRtu_keeps (qp : Nat) (s : State) : ∃ t, execCmRtu qp s = .next t ∧ Keeps s.frame t.frame := by
  refine ⟨_, rfl, ?_⟩
  repeat' (first | with_reducible exact Keeps.refl _ | with_reducible apply Keeps.trans ?_ (Keeps.of_eq (begin_frame ..))
                 | with_reducible apply Keeps.trans ?_ (Keeps.of_eq (putQp_frame ..)) | (split))

theorem execConnect_keeps (qp : Nat) (req : ConnectReq) (s : State) : ∃ t, execConnect qp req s = .next t ∧ Keeps s.frame
    t.frame := by
  refine ⟨_, rfl, ?_⟩
  repeat' (first | with_reducible exact Keeps.refl _ | dsimp only | with_reducible apply Keeps.ite ?_ ?_
                 | with_reducible apply Keeps.trans ?_ (Keeps.of_eq (begin_frame ..))
                 | with_reducible apply Keeps.trans ?_ (Keeps.of_eq (fabAnswer_frame ..))
                 | with_reducible apply Keeps.trans ?_ (Keeps.of_eq (connectAdmin_frame ..))
                 | with_reducible apply Keeps.trans ?_ (Keeps.of_eq (connectIo_frame ..)) | (split))

theorem execPropertyGet_keeps (ctrl : CtrlId) (off : Nat) (size8 : Bool) (s : State) : ∃ t, execPropertyGet ctrl off size8 s
    = .next t ∧ Keeps s.frame t.frame := by
  refine ⟨_, rfl, ?_⟩
  repeat' (first | with_reducible exact Keeps.refl _ | with_reducible apply Keeps.ite ?_ ?_
                 | with_reducible apply Keeps.trans ?_ (Keeps.of_eq (begin_frame ..))
                 | with_reducible apply Keeps.trans ?_ (Keeps.of_eq (fabAnswer_frame ..)) | (split))

theorem execPropertySet_keeps (ctrl : CtrlId) (off : Nat) (size8 : Bool) (value : Nat) (s : State) : ∃ t, execPropertySet
    ctrl off size8 value s = .next t ∧ Keeps s.frame t.frame := by
  refine ⟨_, rfl, ?_⟩
  repeat' (first | with_reducible exact Keeps.refl _ | dsimp only | with_reducible apply Keeps.ite ?_ ?_
                 | with_reducible apply Keeps.trans ?_ (Keeps.of_eq (begin_frame ..))
                 | with_reducible apply Keeps.trans ?_ (Keeps.of_eq (ccWrite_frame ..))
                 | with_reducible apply Keeps.trans ?_ (Keeps.of_eq (fabNote_frame ..))
                 | with_reducible apply Keeps.trans ?_ (Keeps.of_eq (closeQps_frame ..))
                 | with_reducible apply Keeps.trans ?_ (Keeps.of_eq (fabAnswer_frame ..)) | (split))

end Sys2Proof.Machine
end

