-- ==== Sys2Proof/Laws/FrameExec4.lean ====
section
/-! SUPPORT. Every command completes and keeps what FrameBase names. -/

namespace Sys2Proof.Machine

open Sys2Proof

theorem execDisconnect_keeps (ctrl : CtrlId) (qid : Nat) (s : State) : ∃ t, execDisconnect ctrl qid s = .next t ∧ Keeps
    s.frame t.frame := by
  refine ⟨_, rfl, ?_⟩
  repeat' (first | with_reducible exact Keeps.refl _ | dsimp only | with_reducible apply Keeps.ite ?_ ?_
                 | with_reducible apply Keeps.trans ?_ (assocEnd_keeps ..)
                 | with_reducible apply Keeps.trans ?_ (Keeps.of_eq (begin_frame ..))
                 | with_reducible apply Keeps.trans ?_ (Keeps.of_eq (putCtrl_frame ..))
                 | with_reducible apply Keeps.trans ?_ (Keeps.of_eq (fabNote_frame ..))
                 | with_reducible apply Keeps.trans ?_ (Keeps.of_eq (closeQps_frame ..))
                 | with_reducible apply Keeps.trans ?_ (Keeps.of_eq (fabAnswer_frame ..)) | (split))

theorem execAuthenticationSend_keeps (ctrl : CtrlId) (msg : AuthMsg) (s : State) : ∃ t, execAuthenticationSend ctrl msg s =
    .next t ∧ Keeps s.frame t.frame := by
  refine ⟨_, rfl, ?_⟩
  repeat' (first | with_reducible exact Keeps.refl _ | dsimp only | with_reducible apply Keeps.ite ?_ ?_
                 | with_reducible apply Keeps.trans ?_ (assocEndQuiet_keeps ..)
                 | with_reducible apply Keeps.trans ?_ (Keeps.of_eq (begin_frame ..))
                 | with_reducible apply Keeps.trans ?_ (Keeps.of_eq (emit_frame ..))
                 | with_reducible apply Keeps.trans ?_ (Keeps.of_eq (putCtrl_frame ..))
                 | with_reducible apply Keeps.trans ?_ (Keeps.of_eq (fabAnswer_frame ..)) | simp only [frame_mk, frame_eta]
                 | (split))

theorem execAuthenticationReceive_keeps (ctrl : CtrlId) (len : Nat) (s : State) : ∃ t, execAuthenticationReceive ctrl len s =
    .next t ∧ Keeps s.frame t.frame := by
  refine ⟨_, rfl, ?_⟩
  repeat' (first | with_reducible exact Keeps.refl _ | dsimp only | with_reducible apply Keeps.ite ?_ ?_
                 | with_reducible apply Keeps.trans ?_ (Keeps.of_eq (begin_frame ..))
                 | with_reducible apply Keeps.trans ?_ (Keeps.of_eq (emit_frame ..))
                 | with_reducible apply Keeps.trans ?_ (Keeps.of_eq (drawn_frame ..))
                 | with_reducible apply Keeps.trans ?_ (Keeps.of_eq (fabAnswer_frame ..)) | (split))

theorem execKeepAliveTimeout_keeps (ctrl : CtrlId) (s : State) : ∃ t, execKeepAliveTimeout ctrl s = .next t ∧ Keeps s.frame
    t.frame := by
  refine ⟨_, rfl, ?_⟩
  repeat' (first | with_reducible exact Keeps.refl _ | with_reducible apply Keeps.ite ?_ ?_
                 | with_reducible apply Keeps.trans ?_ (assocEnd_keeps ..)
                 | with_reducible apply Keeps.trans ?_ (Keeps.of_eq (begin_frame ..)) | (split))

theorem execHostConnectionClose_keeps (ctrl : CtrlId) (s : State) : ∃ t, execHostConnectionClose ctrl s = .next t ∧ Keeps
    s.frame t.frame := by
  refine ⟨_, rfl, ?_⟩
  repeat' (first | with_reducible exact Keeps.refl _ | with_reducible apply Keeps.trans ?_ (assocEnd_keeps ..)
                 | with_reducible apply Keeps.trans ?_ (Keeps.of_eq (begin_frame ..)))

theorem execAddressCommit_keeps (_path : AccessPath) (s : State) : ∃ t, execAddressCommit _path s = .next t ∧ Keeps s.frame
    t.frame := by
  refine ⟨_, rfl, ?_⟩
  repeat' (first | with_reducible exact Keeps.refl _ | with_reducible apply Keeps.trans ?_ (addressCommit_keeps ..)
                 | with_reducible apply Keeps.trans ?_ (Keeps.of_eq (begin_frame ..)))

theorem execHello_keeps (lp : LPort) (msg : HelloMsg) (s : State) : ∃ t, execHello lp msg s = .next t ∧ Keeps s.frame t.frame
    := by
  refine ⟨_, rfl, ?_⟩
  repeat' (first | with_reducible exact Keeps.refl _ | dsimp only | with_reducible apply Keeps.ite ?_ ?_
                 | with_reducible apply Keeps.trans ?_ (Keeps.of_eq (wr_frame _ _ _ _))
                 | with_reducible apply Keeps.trans ?_ (Keeps.of_eq (count_frame _ _ _ _))
                 | with_reducible apply Keeps.trans ?_ (Keeps.of_eq (begin_frame ..))
                 | with_reducible apply Keeps.trans ?_ (Keeps.of_eq (emit_frame ..))
                 | with_reducible apply Keeps.trans ?_ (Keeps.of_eq (drawn_frame ..))
                 | with_reducible apply Keeps.trans ?_ (Keeps.of_eq (putPeer_frame ..))
                 | with_reducible apply Keeps.trans ?_ (Keeps.of_eq (openSession_frame ..))
                 | with_reducible apply Keeps.trans ?_ (Keeps.of_eq (sessionEnd_frame ..)) | (split))

theorem execHelloAck_keeps (lp : LPort) (msg : HelloMsg) (chosen : Nat) (s : State) : ∃ t, execHelloAck lp msg chosen s =
    .next t ∧ Keeps s.frame t.frame := by
  refine ⟨_, rfl, ?_⟩
  repeat' (first | with_reducible exact Keeps.refl _ | dsimp only | with_reducible apply Keeps.ite ?_ ?_
                 | with_reducible apply Keeps.trans ?_ (Keeps.of_eq (count_frame _ _ _ _))
                 | with_reducible apply Keeps.trans ?_ (Keeps.of_eq (begin_frame ..))
                 | with_reducible apply Keeps.trans ?_ (Keeps.of_eq (openSession_frame ..)) | (split))

theorem execDiscover_keeps (lp : LPort) (serial _versions : Nat) (s : State) : ∃ t, execDiscover lp serial _versions s =
    .next t ∧ Keeps s.frame t.frame := by
  refine ⟨_, rfl, ?_⟩
  repeat' (first | with_reducible exact Keeps.refl _ | dsimp only | with_reducible apply Keeps.ite ?_ ?_
                 | with_reducible apply Keeps.trans ?_ (Keeps.of_eq (begin_frame ..)) | simp only [frame_mk, frame_eta])

theorem execDiscoverTimer_keeps (s : State) : ∃ t, execDiscoverTimer s = .next t ∧ Keeps s.frame t.frame := by
  refine ⟨_, rfl, ?_⟩
  repeat' (first | with_reducible exact Keeps.refl _ | with_reducible apply Keeps.trans ?_ (Keeps.of_eq (begin_frame ..))
                 | with_reducible apply Keeps.trans ?_ (Keeps.of_eq (emit_frame ..))
                 | with_reducible apply Keeps.trans ?_ (eachOf_keeps _ _ _ ?_) | (intro _))

theorem execHeartbeat_keeps (head : CwyHead) (bytes : Nat) (s : State) : ∃ t, execHeartbeat head bytes s = .next t ∧ Keeps
    s.frame t.frame := by
  refine ⟨_, rfl, Keeps.of_eq ((cwyTake_frame _ _ _ _ ?_).trans (begin_frame _))⟩
  intro s t h; cases h; exact putPeer_frame ..

theorem execHeartbeatTimer_keeps (s : State) : ∃ t, execHeartbeatTimer s = .next t ∧ Keeps s.frame t.frame := by
  refine ⟨_, rfl, ?_⟩
  repeat' (first | with_reducible exact Keeps.refl _ | with_reducible apply Keeps.trans ?_ (Keeps.of_eq (begin_frame ..))
                 | with_reducible apply Keeps.trans ?_ (Keeps.of_eq (cwySend_frame ..))
                 | with_reducible apply Keeps.trans ?_ (eachOf_keeps _ _ _ ?_) | (intro _))

theorem execPeerDownTimeout_keeps (peer : Fin 64) (s : State) : ∃ t, execPeerDownTimeout peer s = .next t ∧ Keeps s.frame
    t.frame := by
  refine ⟨_, rfl, ?_⟩
  repeat' (first | with_reducible exact Keeps.refl _ | with_reducible apply Keeps.ite ?_ ?_
                 | with_reducible apply Keeps.trans ?_ (Keeps.of_eq (wr_frame _ _ _ _))
                 | with_reducible apply Keeps.trans ?_ (Keeps.of_eq (begin_frame ..))
                 | with_reducible apply Keeps.trans ?_ (Keeps.of_eq (peatRecord_frame ..))
                 | with_reducible apply Keeps.trans ?_ (Keeps.of_eq (sessionEnd_frame ..)))

theorem execHelloRetryTimer_keeps (peer : Fin 64) (s : State) : ∃ t, execHelloRetryTimer peer s = .next t ∧ Keeps s.frame
    t.frame := by
  refine ⟨_, rfl, ?_⟩
  repeat' (first | with_reducible exact Keeps.refl _ | with_reducible apply Keeps.ite ?_ ?_
                 | with_reducible apply Keeps.trans ?_ (Keeps.of_eq (begin_frame ..))
                 | with_reducible apply Keeps.trans ?_ (Keeps.of_eq (sendHello_frame ..)))

theorem execCausewayRetransmitTimeout_keeps (peer : Fin 64) (stream : Fin 10) (s : State) : ∃ t,
    execCausewayRetransmitTimeout peer stream s = .next t ∧ Keeps s.frame t.frame := by
  refine ⟨_, rfl, ?_⟩
  repeat' (first | with_reducible exact Keeps.refl _ | with_reducible apply Keeps.ite ?_ ?_
                 | with_reducible apply Keeps.trans ?_ (Keeps.of_eq (count_frame _ _ _ _))
                 | with_reducible apply Keeps.trans ?_ (Keeps.of_eq (begin_frame ..))
                 | with_reducible apply Keeps.trans ?_ (Keeps.of_eq (putPeer_frame ..))
                 | with_reducible apply Keeps.trans ?_ (Keeps.of_eq (cwyOut_frame ..))
                 | with_reducible apply Keeps.trans ?_ (eachOf_keeps _ _ _ ?_) | (intro _))

theorem execCausewayProgressTimeout_keeps (peer : Fin 64) (stream : Fin 10) (s : State) : ∃ t, execCausewayProgressTimeout
    peer stream s = .next t ∧ Keeps s.frame t.frame := by
  refine ⟨_, rfl, ?_⟩
  repeat' (first | with_reducible exact Keeps.refl _ | with_reducible apply Keeps.ite ?_ ?_
                 | with_reducible apply Keeps.trans ?_ (Keeps.of_eq (begin_frame ..))
                 | with_reducible apply Keeps.trans ?_ (Keeps.of_eq (sessionEnd_frame ..)))

theorem execAckOnly_keeps (head : CwyHead) (s : State) : ∃ t, execAckOnly head s = .next t ∧ Keeps s.frame t.frame := by
  refine ⟨_, rfl, ?_⟩
  repeat' (first | with_reducible exact Keeps.refl _ | with_reducible apply Keeps.ite ?_ ?_
                 | with_reducible apply Keeps.trans ?_ (Keeps.of_eq (count_frame _ _ _ _))
                 | with_reducible apply Keeps.trans ?_ (Keeps.of_eq (begin_frame ..))
                 | with_reducible apply Keeps.trans ?_ (Keeps.of_eq (cwyAck_frame ..)))

theorem execChainData_keeps (head : CwyHead) (off total len : Nat) (body : Nat × Bool) (s : State) :
    ∃ t, execChainData head off total len body s = .next t ∧
    Keeps s.frame t.frame := by
  refine ⟨_, rfl, Keeps.of_eq ((cwyTake_frame _ _ _ _ ?_).trans (begin_frame _))⟩
  intro s t h; try dsimp only at h
  repeat' (split at h)
  all_goals (cases h)
  all_goals (first | rfl | simp only [cwySend_frame, chainPiece_frame, frame_mk, frame_eta])

theorem execChainReport_keeps (head : CwyHead) (reports : List (Nat × Nat)) (all : Bool) (s : State) : ∃ t, execChainReport
    head reports all s = .next t ∧ Keeps s.frame t.frame := by
  refine ⟨_, rfl, Keeps.of_eq ((cwyTake_frame _ _ _ _ ?_).trans (begin_frame _))⟩
  have he : ∀ s : State, (eachOf reports (fun r s => chainReportUp r.1 r.2 s) s).frame = s.frame :=
    fun s => eachOf_frame reports _ s (fun _ _ => chainReportUp_frame ..)
  intro s t h; try dsimp only at h
  split at h
  · cases h; rfl
  · cases h; simp only [apply_ite State.frame, wr_frame, he, ite_self]

theorem execChainDownstreamTimeout_keeps (s : State) : ∃ t, execChainDownstreamTimeout s = .next t ∧ Keeps s.frame t.frame := by
  refine ⟨_, rfl, ?_⟩
  repeat' (first | with_reducible exact Keeps.refl _ | dsimp only | with_reducible apply Keeps.ite ?_ ?_
                 | with_reducible apply Keeps.trans ?_ (Keeps.of_eq (wr_frame _ _ _ _))
                 | with_reducible apply Keeps.trans ?_ (Keeps.of_eq (begin_frame ..))
                 | with_reducible apply Keeps.trans ?_ (Keeps.of_eq (chainReportUp_frame ..))
                 | simp only [frame_mk, frame_eta] | (split))

theorem execMigOpen_keeps (head : CwyHead) (msg : MigOpen) (s : State) : ∃ t, execMigOpen head msg s = .next t ∧ Keeps
    s.frame t.frame := by
  refine ⟨_, rfl, Keeps.of_eq ((cwyTake_frame _ _ _ _ ?_).trans (begin_frame _))⟩
  intro s t h; try dsimp only at h
  repeat' (split at h)
  all_goals (cases h)
  all_goals (first | rfl | simp only [cwySend_frame, drawn_frame, abortImport_frame, importNs_frame])

theorem execMigUnits_keeps (head : CwyHead) (mig : Fin 8) (tract : Nat) (units : List UnitRecord) (s : State) : ∃ t,
    execMigUnits head mig tract units s = .next t ∧ Keeps s.frame t.frame := by
  refine ⟨_, rfl, (Keeps.of_eq (begin_frame _)).trans (cwyTake_keeps _ _ _ _ ?_)⟩
  have H : ∀ (l : List UnitRecord) (r : Option State) (t : State),
      l.foldl (fun r u => r.bind (importUnit mig.val head.peer.val head.stream.val u)) r = some t → ∃ s0, r = some s0 ∧
          Keeps s0.frame t.frame := by
    intro l
    induction l with
    | nil => intro r t h; exact ⟨t, h, Keeps.refl _⟩
    | cons a l ih =>
      intro r t h
      obtain ⟨s1, e1, h1⟩ := ih _ _ h
      cases r with
      | none => cases e1
      | some s0 => exact ⟨s0, rfl, (importUnit_keeps e1).trans h1⟩
  intro s t h; try dsimp only at h
  split at h
  · cases h; exact Keeps.refl _
  · split at h
    · cases h
    · obtain ⟨u, hu, e⟩ := Option.map_eq_some_iff.mp h
      obtain ⟨s0, e0, h0⟩ := H _ _ _ hu
      cases e0; cases e
      exact ((Keeps.of_eq (putMig_frame ..)).trans h0).trans (Keeps.of_eq (endTracts_frame ..))

theorem execMigNak_keeps (head : CwyHead) (mig : Fin 8) (nsUnit : Nat) (s : State) : ∃ t, execMigNak head mig nsUnit s =
    .next t ∧ Keeps s.frame t.frame := by
  refine ⟨_, rfl, Keeps.of_eq ((cwyTake_frame _ _ _ _ ?_).trans (begin_frame _))⟩
  intro s t h; try dsimp only at h
  split at h
  · cases h; rfl
  · split at h <;> cases h <;> simp only [cwySend_frame, putMig_frame, count_frame]

theorem execMigTractEnd_keeps (head : CwyHead) (mig : Fin 8) (tract sent : Nat) (s : State) : ∃ t, execMigTractEnd head mig
    tract sent s = .next t ∧ Keeps s.frame t.frame := by
  refine ⟨_, rfl, Keeps.of_eq ((cwyTake_frame _ _ _ _ ?_).trans (begin_frame _))⟩
  intro s t h; try dsimp only at h
  split at h <;> cases h
  · rfl
  · simp only [endTracts_frame, putMig_frame]

theorem execMigDone_keeps (head : CwyHead) (mig : Fin 8) (sent lost wseq : Nat) (s : State) : ∃ t, execMigDone head mig sent
    lost wseq s = .next t ∧ Keeps s.frame t.frame := by
  refine ⟨_, rfl, Keeps.of_eq ((cwyTake_frame _ _ _ _ ?_).trans (begin_frame _))⟩
  intro s t h; try dsimp only at h
  split at h
  · cases h; rfl
  · cases h; rw [migEnd_frame]
    split
    · simp only [apply_ite State.frame, labelWrite_frame, putNs_frame, ite_self]
    · rfl

theorem execMigAbort_keeps (head : CwyHead) (mig : Fin 8) (reason : Nat) (s : State) : ∃ t, execMigAbort head mig reason s =
    .next t ∧ Keeps s.frame t.frame := by
  refine ⟨_, rfl, Keeps.of_eq ((cwyTake_frame _ _ _ _ ?_).trans (begin_frame _))⟩
  intro s t h; try dsimp only at h
  repeat' (split at h)
  all_goals (cases h)
  all_goals (first | rfl | simp only [migEnd_frame, putPeer_frame])

theorem execMigrationPassEnd_keeps (mig : Fin 8) (s : State) : ∃ t, execMigrationPassEnd mig s = .next t ∧ Keeps s.frame
    t.frame := by
  refine ⟨_, rfl, ?_⟩
  repeat' (first | with_reducible exact Keeps.refl _ | with_reducible apply Keeps.ite ?_ ?_
                 | with_reducible apply Keeps.trans ?_ (Keeps.of_eq (begin_frame ..))
                 | with_reducible apply Keeps.trans ?_ (Keeps.of_eq (putMig_frame ..))
                 | with_reducible apply Keeps.trans ?_ (Keeps.of_eq (cwySend_frame ..))
                 | with_reducible apply Keeps.trans ?_ (Keeps.of_eq (migPump_frame ..)) | (split))

theorem execFirmwareImageDownload_keeps (slot : SlotNo) (piece : Piece) (s : State) : ∃ t, execFirmwareImageDownload slot
    piece s = .next t ∧ Keeps s.frame t.frame := by
  refine ⟨_, rfl, ?_⟩
  repeat' (first | with_reducible exact Keeps.refl _ | dsimp only
                 | with_reducible apply Keeps.trans ?_ (Keeps.of_eq (begin_frame ..))
                 | with_reducible apply Keeps.trans ?_ (Keeps.of_eq (withCmd_frame (hf := ?_) ..)) | (intro _)
                 | simp only [finishCmd_frame, downloadPiece_frame])

theorem execFwCommitStore_keeps (slot : SlotNo) (s : State) : ∃ t, execFwCommitStore slot s = .next t ∧ Keeps s.frame t.frame
    := by
  refine ⟨_, rfl, ?_⟩
  repeat' (first | with_reducible exact Keeps.refl _ | with_reducible apply Keeps.trans ?_ (Keeps.of_eq (begin_frame ..))
                 | with_reducible apply Keeps.trans ?_ (Keeps.of_eq (commitCmd_frame ..)))

theorem execFwCommitStorePending_keeps (slot : SlotNo) (s : State) : ∃ t, execFwCommitStorePending slot s = .next t ∧ Keeps
    s.frame t.frame := by
  refine ⟨_, rfl, ?_⟩
  repeat' (first | with_reducible exact Keeps.refl _ | with_reducible apply Keeps.trans ?_ (Keeps.of_eq (begin_frame ..))
                 | with_reducible apply Keeps.trans ?_ (Keeps.of_eq (commitCmd_frame ..)))

theorem execFwCommitActivateNextReset_keeps (slot : SlotNo) (s : State) : ∃ t, execFwCommitActivateNextReset slot s = .next t
    ∧ Keeps s.frame t.frame := by
  refine ⟨_, rfl, ?_⟩
  repeat' (first | with_reducible exact Keeps.refl _ | with_reducible apply Keeps.trans ?_ (Keeps.of_eq (begin_frame ..))
                 | with_reducible apply Keeps.trans ?_ (Keeps.of_eq (commitCmd_frame ..)))

theorem execFwCommitActivateNow_keeps (slot : SlotNo) (s : State) : ∃ t, execFwCommitActivateNow slot s = .next t ∧ Keeps
    s.frame t.frame := by
  refine ⟨_, rfl, ?_⟩
  repeat' (first | with_reducible exact Keeps.refl _ | with_reducible apply Keeps.trans ?_ (Keeps.of_eq (begin_frame ..))
                 | with_reducible apply Keeps.trans ?_ (Keeps.of_eq (commitCmd_frame ..)))

theorem execActivationDrainEnd_keeps (ms : Nat) (s : State) : ∃ t, execActivationDrainEnd ms s = .next t ∧ Keeps s.frame
    t.frame := by
  refine ⟨_, rfl, ?_⟩
  repeat' (first | with_reducible exact Keeps.refl _ | dsimp only | with_reducible apply Keeps.ite ?_ ?_
                 | with_reducible apply Keeps.trans ?_ (Keeps.of_eq (wr_frame _ _ _ _))
                 | with_reducible apply Keeps.trans ?_ (Keeps.of_eq (begin_frame ..))
                 | with_reducible apply Keeps.trans ?_ (Keeps.of_eq (patchBank_frame ..)) | simp only [frame_mk, frame_eta]
                 | with_reducible apply Keeps.trans ?_ (eachOf_keeps _ _ _ ?_) | (intro _) | (split))

theorem execActivationDrainTimeout_keeps (s : State) : ∃ t, execActivationDrainTimeout s = .next t ∧ Keeps s.frame t.frame := by
  refine ⟨_, rfl, ?_⟩
  repeat' (first | with_reducible exact Keeps.refl _ | with_reducible apply Keeps.ite ?_ ?_
                 | with_reducible apply Keeps.trans ?_ (Keeps.of_eq (wr_frame _ _ _ _))
                 | with_reducible apply Keeps.trans ?_ (Keeps.of_eq (begin_frame ..))
                 | with_reducible apply Keeps.trans ?_ (Keeps.of_eq (abandonActivation_frame ..)))

theorem execActivationPauseEnd_keeps (us : Nat) (s : State) : ∃ t, execActivationPauseEnd us s = .next t ∧ Keeps s.frame
    t.frame := by
  refine ⟨_, rfl, ?_⟩
  repeat' (first | with_reducible exact Keeps.refl _ | dsimp only
                 | with_reducible apply Keeps.trans ?_ (Keeps.of_eq (begin_frame ..))
                 | with_reducible apply Keeps.trans ?_ (Keeps.of_eq (putSel_frame ..))
                 | with_reducible apply Keeps.trans ?_ (Keeps.of_eq (wr_frame ..))
                 | with_reducible apply Keeps.trans ?_ (Keeps.of_eq (askSwitch_frame ..))
                 | with_reducible apply Keeps.trans ?_ (Keeps.of_eq (helloAll_frame ..))
                 | with_reducible apply Keeps.trans ?_ (Keeps.of_eq (epochPrepare_frame ..))
                 | with_reducible apply Keeps.trans ?_ (Keeps.of_eq (commitEnd_frame ..))
                 | with_reducible apply Keeps.trans ?_ (Keeps.of_eq (setPp_frame ..))
                 | with_reducible apply Keeps.ite ?_ ?_ | (intro _)
                 | simp only [begin_frame, putSel_frame, wr_frame, askSwitch_frame, helloAll_frame, epochPrepare_frame,
                     commitEnd_frame, setPp_frame, frame_mk, frame_eta, apply_ite State.frame, ite_self]
                 | with_reducible refine Keeps.trans ?_ (eachOf_keeps _ _ _ ?_)
                 | with_reducible refine Keeps.trans ?_ (foldl_keeps _ _ _ ?_) | (split))

theorem execBootStepEnd_keeps (facts : BootFacts) (s : State) : ∃ t, execBootStepEnd facts s = .next t ∧ Keeps s.frame
    t.frame := by
  refine ⟨_, rfl, ?_⟩
  refine Keeps.trans (Keeps.of_eq (begin_frame _)) ?_
  by_cases h : s.begin.boot.stopped = true ∨ s.begin.boot.done = true ∨ s.begin.pwr.decided = true
  · rw [if_pos h]; exact Keeps.refl _
  · rw [if_neg h]
    have hd : s.begin.pwr.decided = false := by simpa using (fun e => h (.inr (.inr e)))
    split
    · refine Keeps.ite (Keeps.refl _) (bootStep1_keeps ..)
    · first | exact bootStep2_keeps .. | exact Keeps.of_eq (bootStep2_frame ..)
    · exact bootStep3_keeps _ _ hd
    · exact bootStep4_keeps ..
    · first | exact bootStep5_keeps .. | exact Keeps.of_eq (bootStep5_frame ..)
    · first | exact bootStep6_keeps .. | exact Keeps.of_eq (bootStep6_frame ..)
    · first | exact bootStep7_keeps .. | exact Keeps.of_eq (bootStep7_frame ..)
    · first | exact bootStep8_keeps .. | exact Keeps.of_eq (bootStep8_frame ..)
    · exact Keeps.refl _

theorem execBootStepFailure_keeps (cause : Nat) (s : State) : ∃ t, execBootStepFailure cause s = .next t ∧ Keeps s.frame
    t.frame := by
  refine ⟨_, rfl, ?_⟩
  refine Keeps.trans (Keeps.of_eq (begin_frame _)) ?_
  by_cases h : s.begin.boot.stopped = true ∨ s.begin.boot.done = true ∨ s.begin.boot.step = 0 ∨ s.begin.pwr.decided = true
  · rw [if_pos h]; exact Keeps.refl _
  · rw [if_neg h]
    have hd : s.begin.pwr.decided = false := by simpa using (fun e => h (.inr (.inr (.inr e))))
    refine Keeps.ite (tryFails_keeps _ _ _ hd) (Keeps.ite (Keeps.ite (Keeps.of_eq ?_) ?_) (Keeps.ite ?_ (stepFail_keeps ..)))
    · rw [bootStop_frame, noteFailure_frame]
    · exact (Keeps.of_eq (imageRefused_frame ..)).trans (applyBackup_keeps ..)
    · refine (fenceStack_keeps (cause % 8) 2 s.begin).trans (Keeps.of_eq ?_)
      rw [setRecord_frame, noteFailure_frame]

theorem execFirmwareTryTimeout_keeps (s : State) : ∃ t, execFirmwareTryTimeout s = .next t ∧ Keeps s.frame t.frame := by
  refine ⟨_, rfl, ?_⟩
  refine Keeps.trans (Keeps.of_eq (begin_frame _)) ?_
  try dsimp only
  split
  · next h => exact tryFails_keeps _ _ _ h.2.2.2.2
  · exact Keeps.refl _

theorem execBootResetWrite_keeps (path : AccessPath) (value : Word) (s : State) : ∃ t, execBootResetWrite path value s =
    .next t ∧ Keeps s.frame t.frame := by
  refine ⟨_, rfl, ?_⟩
  repeat' (first | with_reducible exact Keeps.refl _ | with_reducible apply Keeps.trans ?_ (bootResetWrite_keeps ..)
                 | with_reducible apply Keeps.trans ?_ (Keeps.of_eq (begin_frame ..)))

theorem execDeviceResetSequence_keeps (s : State) : ∃ t, execDeviceResetSequence s = .next t ∧ Keeps s.frame t.frame := by
  refine ⟨_, rfl, ?_⟩
  refine Keeps.trans (Keeps.of_eq (begin_frame _)) ?_
  dsimp only; split
  · exact Keeps.refl _
  · by_cases h : s.begin.pwr.decided = true ∨ s.begin.nvq.slots.any (fun e => decide (e.2.state = .admitted) && !e.2.waits) =
      true
    · rw [if_pos h]; exact Keeps.refl _
    · rw [if_neg h]
      have hd : s.begin.pwr.decided = false := by simpa using (fun e => h (.inl e))
      have he : Keeps s.begin.frame (makeDurable (eachOf (dirtyRows s.begin) (fun r s => destageRow r.1 r.2 none s) s.begin)).frame :=
        Keeps.trans (eachOf_keeps _ _ _ (fun _ _ => destageRow_keeps ..)) (makeDurable_keeps ..)
      exact Keeps.ite (he.trans (deviceReset_keeps _ _ (he.decided.trans hd))) he

theorem execJtagTapReset_keeps (s : State) : ∃ t, execJtagTapReset s = .next t ∧ Keeps s.frame t.frame := by
  refine ⟨_, rfl, ?_⟩
  repeat' (first | with_reducible exact Keeps.refl _ | with_reducible apply Keeps.trans ?_ (Keeps.of_eq (begin_frame ..)))

theorem execRefclkCheck_keeps (clock : RefClock) (ok : Bool) (s : State) : ∃ t, execRefclkCheck clock ok s = .next t ∧ Keeps
    s.frame t.frame := by
  refine ⟨_, rfl, ?_⟩
  repeat' (first | with_reducible exact Keeps.refl _ | dsimp only | with_reducible apply Keeps.ite ?_ ?_
                 | with_reducible apply Keeps.trans ?_ (clkLoss_keeps ..)
                 | with_reducible apply Keeps.trans ?_ (Keeps.of_eq (wr_frame _ _ _ _))
                 | with_reducible apply Keeps.trans ?_ (Keeps.of_eq (begin_frame ..))
                 | with_reducible apply Keeps.trans ?_ (Keeps.of_eq (glbRefresh_frame ..))
                 | with_reducible apply Keeps.trans ?_ (Keeps.of_eq (clkPresent_frame ..))
                 | with_reducible apply Keeps.trans ?_ (Keeps.of_eq (clkLock_frame ..)) | simp only [frame_mk, frame_eta])

theorem execSysPllUnlock_keeps (pll : Fin 3) (s : State) : ∃ t, execSysPllUnlock pll s = .next t ∧ Keeps s.frame t.frame := by
  refine ⟨_, rfl, ?_⟩
  repeat' (first | with_reducible exact Keeps.refl _ | with_reducible apply Keeps.ite ?_ ?_
                 | with_reducible apply Keeps.trans ?_ (askReset_keeps ..)
                 | with_reducible apply Keeps.trans ?_ (Keeps.of_eq (wr_frame _ _ _ _))
                 | with_reducible apply Keeps.trans ?_ (Keeps.of_eq (wrBit_frame _ _ _ _ _))
                 | with_reducible apply Keeps.trans ?_ (Keeps.of_eq (begin_frame ..)))

theorem execCrystalStop_keeps (s : State) : ∃ t, execCrystalStop s = .next t ∧ Keeps s.frame t.frame := by
  refine ⟨_, rfl, ?_⟩
  repeat' (first | with_reducible exact Keeps.refl _ | dsimp only
                 | with_reducible apply Keeps.trans ?_ (Keeps.of_eq (wr_frame _ _ _ _))
                 | with_reducible apply Keeps.trans ?_ (Keeps.of_eq (begin_frame ..)) | simp only [frame_mk, frame_eta])

theorem execCrystalRestart_keeps (s : State) : ∃ t, execCrystalRestart s = .next t ∧ Keeps s.frame t.frame := by
  refine ⟨_, rfl, ?_⟩
  repeat' (first | with_reducible exact Keeps.refl _ | dsimp only
                 | with_reducible apply Keeps.trans ?_ (Keeps.of_eq (wr_frame _ _ _ _))
                 | with_reducible apply Keeps.trans ?_ (Keeps.of_eq (begin_frame ..)) | simp only [frame_mk, frame_eta])

theorem execCalendarTick_keeps (s : State) : ∃ t, execCalendarTick s = .next t ∧ Keeps s.frame t.frame := by
  refine ⟨_, rfl, ?_⟩
  repeat' (first | with_reducible exact Keeps.refl _ | dsimp only
                 | with_reducible apply Keeps.trans ?_ (Keeps.of_eq (wr_frame _ _ _ _))
                 | with_reducible apply Keeps.trans ?_ (Keeps.of_eq (begin_frame ..)) | simp only [frame_mk, frame_eta]
                 | with_reducible apply Keeps.trans ?_ (eachOf_keeps _ _ _ ?_) | (intro _))

theorem execSessionResponseWrite_keeps (word : Word) (s : State) : ∃ t, execSessionResponseWrite word s = .next t ∧ Keeps
    s.frame t.frame := by
  refine ⟨_, rfl, ?_⟩
  repeat' (first | with_reducible exact Keeps.refl _ | with_reducible apply Keeps.trans ?_ (Keeps.of_eq (begin_frame ..))
                 | with_reducible apply Keeps.trans ?_ (Keeps.of_eq (sessionWord_frame ..)))

theorem execCustodianNonceTimer_keeps (s : State) : ∃ t, execCustodianNonceTimer s = .next t ∧ Keeps s.frame t.frame := by
  refine ⟨_, rfl, ?_⟩
  repeat' (first | with_reducible exact Keeps.refl _ | with_reducible apply Keeps.trans ?_ (Keeps.of_eq (begin_frame ..))
                 | with_reducible apply Keeps.trans ?_ (Keeps.of_eq (cusNonce_frame ..)))

theorem execSessionLockoutEnd_keeps (s : State) : ∃ t, execSessionLockoutEnd s = .next t ∧ Keeps s.frame t.frame := by
  refine ⟨_, rfl, ?_⟩
  repeat' (first | with_reducible exact Keeps.refl _ | dsimp only | with_reducible apply Keeps.ite ?_ ?_
                 | with_reducible apply Keeps.trans ?_ (Keeps.of_eq (begin_frame ..)) | simp only [frame_mk, frame_eta])

theorem execSessionIdleTimeout_keeps (s : State) : ∃ t, execSessionIdleTimeout s = .next t ∧ Keeps s.frame t.frame := by
  refine ⟨_, rfl, ?_⟩
  repeat' (first | with_reducible exact Keeps.refl _ | with_reducible apply Keeps.ite ?_ ?_
                 | with_reducible apply Keeps.trans ?_ (Keeps.of_eq (wr_frame _ _ _ _))
                 | with_reducible apply Keeps.trans ?_ (Keeps.of_eq (begin_frame ..))
                 | with_reducible apply Keeps.trans ?_ (Keeps.of_eq (closeSession_frame ..)))

theorem execSessionClose_keeps (s : State) : ∃ t, execSessionClose s = .next t ∧ Keeps s.frame t.frame := by
  refine ⟨_, rfl, ?_⟩
  repeat' (first | with_reducible exact Keeps.refl _ | with_reducible apply Keeps.trans ?_ (Keeps.of_eq (begin_frame ..))
                 | with_reducible apply Keeps.trans ?_ (Keeps.of_eq (sessionClose_frame ..)))

theorem execLifeRead_keeps (s : State) : ∃ t, execLifeRead s = .next t ∧ Keeps s.frame t.frame := by
  refine ⟨_, rfl, ?_⟩
  repeat' (first | with_reducible exact Keeps.refl _ | with_reducible apply Keeps.trans ?_ (Keeps.of_eq (begin_frame ..))
                 | with_reducible apply Keeps.trans ?_ (Keeps.of_eq (taskLifeRead_frame ..))
                 | with_reducible apply Keeps.trans ?_ (taskGo_keeps (hf := ?_) ..) | (intro _))

theorem execLifeSetUtc_keeps (s : State) : ∃ t, execLifeSetUtc s = .next t ∧ Keeps s.frame t.frame := by
  refine ⟨_, rfl, ?_⟩
  repeat' (first | with_reducible exact Keeps.refl _ | with_reducible apply Keeps.trans ?_ (Keeps.of_eq (begin_frame ..))
                 | with_reducible apply Keeps.trans ?_ (Keeps.of_eq (taskLifeSetUtc_frame ..))
                 | with_reducible apply Keeps.trans ?_ (taskGo_keeps (hf := ?_) ..) | (intro _))

theorem execSealTask_keeps (s : State) : ∃ t, execSealTask s = .next t ∧ Keeps s.frame t.frame := by
  refine ⟨_, rfl, ?_⟩
  repeat' (first | with_reducible exact Keeps.refl _ | with_reducible apply Keeps.trans ?_ (Keeps.of_eq (begin_frame ..))
                 | with_reducible apply Keeps.trans ?_ (Keeps.of_eq (taskSeal_frame ..))
                 | with_reducible apply Keeps.trans ?_ (taskGo_keeps (hf := ?_) ..) | (intro _))

theorem execEscrowImport_keeps (ok : Bool) (s : State) : ∃ t, execEscrowImport ok s = .next t ∧ Keeps s.frame t.frame := by
  refine ⟨_, rfl, ?_⟩
  repeat' (first | with_reducible exact Keeps.refl _ | dsimp only
                 | with_reducible apply Keeps.trans ?_ (Keeps.of_eq (begin_frame ..))
                 | with_reducible apply Keeps.trans ?_ (taskEscrowImport_keeps ..)
                 | with_reducible apply Keeps.trans ?_ (taskGo_keeps (hf := ?_) ..) | with_reducible apply Keeps.ite ?_ ?_
                 | (intro _) | simp only [begin_frame, frame_mk, frame_eta, apply_ite State.frame, ite_self]
                 | with_reducible refine Keeps.trans ?_ (eachOf_keeps _ _ _ ?_)
                 | with_reducible refine Keeps.trans ?_ (foldl_keeps _ _ _ ?_) | (split))

theorem execEscrowExport_keeps (s : State) : ∃ t, execEscrowExport s = .next t ∧ Keeps s.frame t.frame := by
  refine ⟨_, rfl, ?_⟩
  repeat' (first | with_reducible exact Keeps.refl _ | with_reducible apply Keeps.trans ?_ (Keeps.of_eq (begin_frame ..))
                 | with_reducible apply Keeps.trans ?_ (Keeps.of_eq (taskEscrowExport_frame ..))
                 | with_reducible apply Keeps.trans ?_ (taskGo_keeps (hf := ?_) ..) | (intro _))

theorem execMemberRetire_keeps (s : State) : ∃ t, execMemberRetire s = .next t ∧ Keeps s.frame t.frame := by
  refine ⟨_, rfl, ?_⟩
  repeat' (first | with_reducible exact Keeps.refl _ | with_reducible apply Keeps.trans ?_ (Keeps.of_eq (begin_frame ..))
                 | with_reducible apply Keeps.trans ?_ (Keeps.of_eq (taskMemberRetire_frame ..))
                 | with_reducible apply Keeps.trans ?_ (taskGo_keeps (hf := ?_) ..) | (intro _))

theorem execMemberHotadd_keeps (cal : CalRow) (good : Bool) (s : State) : ∃ t, execMemberHotadd cal good s = .next t ∧ Keeps
    s.frame t.frame := by
  refine ⟨_, rfl, ?_⟩
  repeat' (first | with_reducible exact Keeps.refl _ | with_reducible apply Keeps.trans ?_ (taskMemberHotadd_keeps ..)
                 | with_reducible apply Keeps.trans ?_ (Keeps.of_eq (begin_frame ..))
                 | with_reducible apply Keeps.trans ?_ (taskGo_keeps (hf := ?_) ..) | (intro _))

theorem execDrainDone_keeps (link : Link) (s : State) : ∃ t, execDrainDone link s = .next t ∧ Keeps s.frame t.frame := by
  refine ⟨_, rfl, ?_⟩
  repeat' (first | with_reducible exact Keeps.refl _ | dsimp only
                 | with_reducible apply Keeps.trans ?_ (Keeps.of_eq (begin_frame ..))
                 | with_reducible apply Keeps.trans ?_ (Keeps.of_eq (journal_frame ..))
                 | with_reducible apply Keeps.trans ?_ (Keeps.of_eq (seamSet_frame ..))
                 | with_reducible apply Keeps.trans ?_ (Keeps.of_eq (emit_frame ..))
                 | with_reducible apply Keeps.trans ?_ (Keeps.of_eq (wr_frame ..))
                 | with_reducible apply Keeps.trans ?_ (Keeps.of_eq (limitNote_frame ..))
                 | with_reducible apply Keeps.trans ?_ (Keeps.of_eq (fenRefresh_frame ..))
                 | with_reducible apply Keeps.trans ?_ (makeDurable_keeps ..) | with_reducible apply Keeps.ite ?_ ?_
                 | (intro _)
                 | simp only [begin_frame, journal_frame, seamSet_frame, emit_frame, wr_frame, limitNote_frame,
                     fenRefresh_frame, frame_mk, frame_eta, apply_ite State.frame, ite_self]
                 | with_reducible refine Keeps.trans ?_ (eachOf_keeps _ _ _ ?_)
                 | with_reducible refine Keeps.trans ?_ (foldl_keeps _ _ _ ?_) | (split))

theorem execPeatExport_keeps (s : State) : ∃ t, execPeatExport s = .next t ∧ Keeps s.frame t.frame := by
  refine ⟨_, rfl, ?_⟩
  repeat' (first | with_reducible exact Keeps.refl _ | with_reducible apply Keeps.trans ?_ (Keeps.of_eq (begin_frame ..))
                 | with_reducible apply Keeps.trans ?_ (Keeps.of_eq (taskPeatExport_frame ..))
                 | with_reducible apply Keeps.trans ?_ (taskGo_keeps (hf := ?_) ..) | (intro _))

theorem execManifest_keeps (s : State) : ∃ t, execManifest s = .next t ∧ Keeps s.frame t.frame := by
  refine ⟨_, rfl, ?_⟩
  repeat' (first | with_reducible exact Keeps.refl _ | with_reducible apply Keeps.trans ?_ (Keeps.of_eq (begin_frame ..))
                 | with_reducible apply Keeps.trans ?_ (Keeps.of_eq (taskManifest_frame ..))
                 | with_reducible apply Keeps.trans ?_ (taskGo_keeps (hf := ?_) ..) | (intro _))

theorem execImageWrite_keeps (piece : Piece) (s : State) : ∃ t, execImageWrite piece s = .next t ∧ Keeps s.frame t.frame := by
  refine ⟨_, rfl, ?_⟩
  repeat' (first | with_reducible exact Keeps.refl _ | with_reducible apply Keeps.trans ?_ (Keeps.of_eq (begin_frame ..))
                 | with_reducible apply Keeps.trans ?_ (Keeps.of_eq (taskImageWrite_frame ..))
                 | with_reducible apply Keeps.trans ?_ (taskGo_keeps (hf := ?_) ..) | (intro _))

theorem execTwimaPromote_keeps (s : State) : ∃ t, execTwimaPromote s = .next t ∧ Keeps s.frame t.frame := by
  refine ⟨_, rfl, ?_⟩
  repeat' (first | with_reducible exact Keeps.refl _ | with_reducible apply Keeps.trans ?_ (taskTwimaPromote_keeps ..)
                 | with_reducible apply Keeps.trans ?_ (Keeps.of_eq (begin_frame ..))
                 | with_reducible apply Keeps.trans ?_ (taskGo_keeps (hf := ?_) ..) | (intro _))

theorem execFwCommitTask_keeps (s : State) : ∃ t, execFwCommitTask s = .next t ∧ Keeps s.frame t.frame := by
  refine ⟨_, rfl, ?_⟩
  repeat' (first | with_reducible exact Keeps.refl _ | with_reducible apply Keeps.ite ?_ ?_
                 | with_reducible apply Keeps.trans ?_ (Keeps.of_eq (begin_frame ..))
                 | with_reducible apply Keeps.trans ?_ (Keeps.of_eq (fwCommit_frame ..))
                 | with_reducible apply Keeps.trans ?_ (Keeps.of_eq (taskFwCommit_frame ..))
                 | with_reducible apply Keeps.trans ?_ (taskGo_keeps (hf := ?_) ..) | (intro _))

theorem execRetireOld_keeps (s : State) : ∃ t, execRetireOld s = .next t ∧ Keeps s.frame t.frame := by
  refine ⟨_, rfl, ?_⟩
  repeat' (first | with_reducible exact Keeps.refl _ | with_reducible apply Keeps.trans ?_ (taskRetireOld_keeps ..)
                 | with_reducible apply Keeps.trans ?_ (Keeps.of_eq (begin_frame ..))
                 | with_reducible apply Keeps.trans ?_ (taskGo_keeps (hf := ?_) ..) | (intro _))

theorem execPeerSet_keeps (ok : Bool) (s : State) : ∃ t, execPeerSet ok s = .next t ∧ Keeps s.frame t.frame := by
  refine ⟨_, rfl, ?_⟩
  repeat' (first | with_reducible exact Keeps.refl _ | dsimp only
                 | with_reducible apply Keeps.trans ?_ (Keeps.of_eq (taskPeerSet_frame ..))
                 | with_reducible apply Keeps.trans ?_ (Keeps.of_eq (begin_frame ..))
                 | with_reducible apply Keeps.trans ?_ (taskGo_keeps (hf := ?_) ..) | with_reducible apply Keeps.ite ?_ ?_
                 | (intro _)
                 | simp only [taskPeerSet_frame, begin_frame, frame_mk, frame_eta, apply_ite State.frame, ite_self]
                 | with_reducible refine Keeps.trans ?_ (eachOf_keeps _ _ _ ?_)
                 | with_reducible refine Keeps.trans ?_ (foldl_keeps _ _ _ ?_) | (split))

theorem execChainStart_keeps (s : State) : ∃ t, execChainStart s = .next t ∧ Keeps s.frame t.frame := by
  refine ⟨_, rfl, ?_⟩
  repeat' (first | with_reducible exact Keeps.refl _ | with_reducible apply Keeps.trans ?_ (Keeps.of_eq (begin_frame ..))
                 | with_reducible apply Keeps.trans ?_ (Keeps.of_eq (chainStart_frame ..))
                 | with_reducible apply Keeps.trans ?_ (taskGo_keeps (hf := ?_) ..)
                 | with_reducible apply Keeps.trans ?_ (Keeps.of_eq (taskDone_frame ..)) | (intro _))

theorem execMigExport_keeps (s : State) : ∃ t, execMigExport s = .next t ∧ Keeps s.frame t.frame := by
  refine ⟨_, rfl, ?_⟩
  repeat' (first | with_reducible exact Keeps.refl _ | with_reducible apply Keeps.trans ?_ (Keeps.of_eq (begin_frame ..))
                 | with_reducible apply Keeps.trans ?_ (Keeps.of_eq (migExport_frame ..))
                 | with_reducible apply Keeps.trans ?_ (taskGo_keeps (hf := ?_) ..)
                 | with_reducible apply Keeps.trans ?_ (Keeps.of_eq (taskDone_frame ..)) | (intro _))

theorem execMigImport_keeps (s : State) : ∃ t, execMigImport s = .next t ∧ Keeps s.frame t.frame := by
  refine ⟨_, rfl, ?_⟩
  repeat' (first | with_reducible exact Keeps.refl _ | with_reducible apply Keeps.trans ?_ (Keeps.of_eq (begin_frame ..))
                 | with_reducible apply Keeps.trans ?_ (Keeps.of_eq (migImport_frame ..))
                 | with_reducible apply Keeps.trans ?_ (taskGo_keeps (hf := ?_) ..)
                 | with_reducible apply Keeps.trans ?_ (Keeps.of_eq (taskDone_frame ..)) | (intro _))

theorem execMigFreeze_keeps (s : State) : ∃ t, execMigFreeze s = .next t ∧ Keeps s.frame t.frame := by
  refine ⟨_, rfl, ?_⟩
  repeat' (first | with_reducible exact Keeps.refl _ | with_reducible apply Keeps.trans ?_ (Keeps.of_eq (begin_frame ..))
                 | with_reducible apply Keeps.trans ?_ (Keeps.of_eq (migFreeze_frame ..))
                 | with_reducible apply Keeps.trans ?_ (taskGo_keeps (hf := ?_) ..)
                 | with_reducible apply Keeps.trans ?_ (Keeps.of_eq (taskDone_frame ..)) | (intro _))

theorem execDeviceReset_keeps (s : State) : ∃ t, execDeviceReset s = .next t ∧ Keeps s.frame t.frame := by
  refine ⟨_, rfl, ?_⟩
  repeat' (first | with_reducible exact Keeps.refl _ | with_reducible apply Keeps.trans ?_ (taskDeviceReset_keeps ..)
                 | with_reducible apply Keeps.trans ?_ (Keeps.of_eq (begin_frame ..))
                 | with_reducible apply Keeps.trans ?_ (taskGo_keeps (hf := ?_) ..) | (intro _))

theorem execConfigRequest_keeps (link : PcieLink) (func : BitVec 8) (write : Bool) (reg : BitVec 12) (value : Word) (enables
    : BitVec 4) (s : State) : ∃ t, execConfigRequest link func write reg value enables s = .next t ∧ Keeps s.frame t.frame := by
  refine ⟨_, rfl, ?_⟩
  repeat' (first | with_reducible exact Keeps.refl _ | with_reducible apply Keeps.ite ?_ ?_
                 | with_reducible apply Keeps.trans ?_ (cfgWrite_keeps ..)
                 | with_reducible apply Keeps.trans ?_ (Keeps.of_eq (begin_frame ..))
                 | with_reducible apply Keeps.trans ?_ (Keeps.of_eq (emit_frame ..)))

theorem execNumvfsWrite_keeps (link : PcieLink) (pf : Fin 4) (value : Nat) (s : State) : ∃ t, execNumvfsWrite link pf value s
    = .next t ∧ Keeps s.frame t.frame := by
  refine ⟨_, rfl, ?_⟩
  repeat' (first | with_reducible exact Keeps.refl _ | with_reducible apply Keeps.trans ?_ (Keeps.of_eq (begin_frame ..))
                 | with_reducible apply Keeps.trans ?_ (Keeps.of_eq (numVfsWrite_frame ..)))

theorem execVfEnable_keeps (link : PcieLink) (pf : Fin 4) (enable : Bool) (s : State) : ∃ t, execVfEnable link pf enable s =
    .next t ∧ Keeps s.frame t.frame := by
  refine ⟨_, rfl, ?_⟩
  repeat' (first | with_reducible exact Keeps.refl _ | with_reducible apply Keeps.trans ?_ (vfEnableWrite_keeps ..)
                 | with_reducible apply Keeps.trans ?_ (Keeps.of_eq (begin_frame ..)))

theorem execDoeDiscovery_keeps (link : PcieLink) (index : BitVec 8) (s : State) : ∃ t, execDoeDiscovery link index s = .next
    t ∧ Keeps s.frame t.frame := by
  refine ⟨_, rfl, ?_⟩
  repeat' (first | with_reducible exact Keeps.refl _ | with_reducible apply Keeps.trans ?_ (Keeps.of_eq (begin_frame ..))
                 | with_reducible apply Keeps.trans ?_ (Keeps.of_eq (doeSend_frame ..)))

theorem execDoeAbort_keeps (link : PcieLink) (s : State) : ∃ t, execDoeAbort link s = .next t ∧ Keeps s.frame t.frame := by
  refine ⟨_, rfl, ?_⟩
  repeat' (first | with_reducible exact Keeps.refl _ | with_reducible apply Keeps.trans ?_ (Keeps.of_eq (begin_frame ..))
                 | with_reducible apply Keeps.trans ?_ (Keeps.of_eq (doeAbort_frame ..)))

theorem execGetVersion_keeps (link : PcieLink) (s : State) : ∃ t, execGetVersion link s = .next t ∧ Keeps s.frame t.frame := by
  refine ⟨_, rfl, ?_⟩
  repeat' (first | with_reducible exact Keeps.refl _ | with_reducible apply Keeps.trans ?_ (Keeps.of_eq (begin_frame ..))
                 | with_reducible apply Keeps.trans ?_ (Keeps.of_eq (doeSend_frame ..))
                 | with_reducible apply Keeps.trans ?_ (Keeps.of_eq (spdmSet_frame ..)))

theorem execGetCapabilities_keeps (link : PcieLink) (s : State) : ∃ t, execGetCapabilities link s = .next t ∧ Keeps s.frame
    t.frame := by
  refine ⟨_, rfl, ?_⟩
  repeat' (first | with_reducible exact Keeps.refl _ | with_reducible apply Keeps.ite ?_ ?_
                 | with_reducible apply Keeps.trans ?_ (Keeps.of_eq (begin_frame ..))
                 | with_reducible apply Keeps.trans ?_ (Keeps.of_eq (doeSend_frame ..))
                 | with_reducible apply Keeps.trans ?_ (Keeps.of_eq (spdmError_frame ..))
                 | with_reducible apply Keeps.trans ?_ (Keeps.of_eq (spdmSet_frame ..)))

theorem execNegotiateAlgorithms_keeps (link : PcieLink) (s : State) : ∃ t, execNegotiateAlgorithms link s = .next t ∧ Keeps
    s.frame t.frame := by
  refine ⟨_, rfl, ?_⟩
  repeat' (first | with_reducible exact Keeps.refl _ | with_reducible apply Keeps.ite ?_ ?_
                 | with_reducible apply Keeps.trans ?_ (Keeps.of_eq (begin_frame ..))
                 | with_reducible apply Keeps.trans ?_ (Keeps.of_eq (doeSend_frame ..))
                 | with_reducible apply Keeps.trans ?_ (Keeps.of_eq (spdmError_frame ..))
                 | with_reducible apply Keeps.trans ?_ (Keeps.of_eq (spdmSet_frame ..)))

theorem execGetDigests_keeps (link : PcieLink) (s : State) : ∃ t, execGetDigests link s = .next t ∧ Keeps s.frame t.frame := by
  refine ⟨_, rfl, ?_⟩
  repeat' (first | with_reducible exact Keeps.refl _ | with_reducible apply Keeps.trans ?_ (Keeps.of_eq (begin_frame ..))
                 | with_reducible apply Keeps.trans ?_ (Keeps.of_eq (spdmAt_frame ..)))

theorem execGetCertificate_keeps (link : PcieLink) (slot : BitVec 4) (off len : Nat) (s : State) : ∃ t, execGetCertificate
    link slot off len s = .next t ∧ Keeps s.frame t.frame := by
  refine ⟨_, rfl, ?_⟩
  repeat' (first | with_reducible exact Keeps.refl _ | with_reducible apply Keeps.ite ?_ ?_
                 | with_reducible apply Keeps.trans ?_ (Keeps.of_eq (begin_frame ..))
                 | with_reducible apply Keeps.trans ?_ (Keeps.of_eq (spdmError_frame ..))
                 | with_reducible apply Keeps.trans ?_ (Keeps.of_eq (spdmAt_frame ..)))

theorem execChallenge_keeps (link : PcieLink) (slot : BitVec 4) (nonce : Nat) (s : State) : ∃ t, execChallenge link slot
    nonce s = .next t ∧ Keeps s.frame t.frame := by
  refine ⟨_, rfl, ?_⟩
  repeat' (first | with_reducible exact Keeps.refl _ | with_reducible apply Keeps.ite ?_ ?_
                 | with_reducible apply Keeps.trans ?_ (Keeps.of_eq (begin_frame ..))
                 | with_reducible apply Keeps.trans ?_ (Keeps.of_eq (spdmError_frame ..))
                 | with_reducible apply Keeps.trans ?_ (Keeps.of_eq (spdmAt_frame ..)))

theorem execGetMeasurements_keeps (link : PcieLink) (index : BitVec 8) (s : State) : ∃ t, execGetMeasurements link index s =
    .next t ∧ Keeps s.frame t.frame := by
  refine ⟨_, rfl, ?_⟩
  repeat' (first | with_reducible exact Keeps.refl _ | with_reducible apply Keeps.ite ?_ ?_
                 | with_reducible apply Keeps.trans ?_ (Keeps.of_eq (begin_frame ..))
                 | with_reducible apply Keeps.trans ?_ (Keeps.of_eq (spdmError_frame ..))
                 | with_reducible apply Keeps.trans ?_ (Keeps.of_eq (spdmAt_frame ..)))

theorem execPoisonedTlpReceived_keeps (link : PcieLink) (func : BitVec 8) (chan : Option (Fin 64)) (s : State) : ∃ t,
    execPoisonedTlpReceived link func chan s = .next t ∧ Keeps s.frame t.frame := by
  refine ⟨_, rfl, ?_⟩
  repeat' (first | with_reducible exact Keeps.refl _ | with_reducible apply Keeps.trans ?_ (Keeps.of_eq (wr_frame _ _ _ _))
                 | with_reducible apply Keeps.trans ?_ (Keeps.of_eq (begin_frame ..))
                 | with_reducible apply Keeps.trans ?_ (Keeps.of_eq (aerUncorr_frame ..))
                 | with_reducible apply Keeps.trans ?_ (Keeps.of_eq (aerCorr_frame ..))
                 | with_reducible apply Keeps.trans ?_ (Keeps.of_eq (hostReadError_frame ..)) | (split))

theorem execCompletionTimeout_keeps (link : PcieLink) (func : BitVec 8) (chan : Fin 64) (s : State) : ∃ t,
    execCompletionTimeout link func chan s = .next t ∧ Keeps s.frame t.frame := by
  refine ⟨_, rfl, ?_⟩
  repeat' (first | with_reducible exact Keeps.refl _ | with_reducible apply Keeps.trans ?_ (Keeps.of_eq (begin_frame ..))
                 | with_reducible apply Keeps.trans ?_ (Keeps.of_eq (aerUncorr_frame ..))
                 | with_reducible apply Keeps.trans ?_ (Keeps.of_eq (hostReadError_frame ..)))

theorem execUnexpectedCompletion_keeps (link : PcieLink) (func : BitVec 8) (s : State) : ∃ t, execUnexpectedCompletion link
    func s = .next t ∧ Keeps s.frame t.frame := by
  refine ⟨_, rfl, ?_⟩
  repeat' (first | with_reducible exact Keeps.refl _ | with_reducible apply Keeps.trans ?_ (Keeps.of_eq (begin_frame ..))
                 | with_reducible apply Keeps.trans ?_ (Keeps.of_eq (aerUncorr_frame ..)))

theorem execEcrcError_keeps (link : PcieLink) (func : BitVec 8) (chan : Option (Fin 64)) (s : State) : ∃ t, execEcrcError
    link func chan s = .next t ∧ Keeps s.frame t.frame := by
  refine ⟨_, rfl, ?_⟩
  repeat' (first | with_reducible exact Keeps.refl _ | dsimp only | with_reducible apply Keeps.ite ?_ ?_
                 | with_reducible apply Keeps.trans ?_ (Keeps.of_eq (begin_frame ..))
                 | with_reducible apply Keeps.trans ?_ (Keeps.of_eq (aerUncorr_frame ..))
                 | with_reducible apply Keeps.trans ?_ (Keeps.of_eq (hostReadError_frame ..)) | (split))

theorem execLinkProtocolError_keeps (link : PcieLink) (func : BitVec 8) (s : State) : ∃ t, execLinkProtocolError link func s
    = .next t ∧ Keeps s.frame t.frame := by
  refine ⟨_, rfl, ?_⟩
  repeat' (first | with_reducible exact Keeps.refl _ | with_reducible apply Keeps.trans ?_ (resetLost_keeps ..)
                 | with_reducible apply Keeps.trans ?_ (Keeps.of_eq (begin_frame ..))
                 | with_reducible apply Keeps.trans ?_ (Keeps.of_eq (aerUncorr_frame ..))
                 | with_reducible apply Keeps.trans ?_ (eachOf_keeps _ _ _ ?_) | (intro _))

theorem execFunctionLevelReset_keeps (link : PcieLink) (func : BitVec 8) (s : State) : ∃ t, execFunctionLevelReset link func
    s = .next t ∧ Keeps s.frame t.frame := by
  refine ⟨_, rfl, ?_⟩
  repeat' (first | with_reducible exact Keeps.refl _ | with_reducible apply Keeps.ite ?_ ?_
                 | with_reducible apply Keeps.trans ?_ (flr_keeps ..)
                 | with_reducible apply Keeps.trans ?_ (Keeps.of_eq (begin_frame ..)))

theorem execPerstAssert_keeps (port : Fin 4) (s : State) : ∃ t, execPerstAssert port s = .next t ∧ Keeps s.frame t.frame := by
  refine ⟨_, rfl, ?_⟩
  repeat' (first | with_reducible exact Keeps.refl _ | with_reducible apply Keeps.trans ?_ (linkDown_keeps ..)
                 | with_reducible apply Keeps.trans ?_ (Keeps.of_eq (begin_frame ..)))

theorem execPcieLinkUp_keeps (link : PcieLink) (width : Nat) (speed : Fin 7) (flit : Bool) (s : State) : ∃ t, execPcieLinkUp
    link width speed flit s = .next t ∧ Keeps s.frame t.frame := by
  refine ⟨_, rfl, ?_⟩
  repeat' (first | with_reducible exact Keeps.refl _ | dsimp only | with_reducible apply Keeps.ite ?_ ?_
                 | with_reducible apply Keeps.trans ?_ (Keeps.of_eq (wr_frame _ _ _ _))
                 | with_reducible apply Keeps.trans ?_ (Keeps.of_eq (wrB_frame _ _ _ _))
                 | with_reducible apply Keeps.trans ?_ (Keeps.of_eq (wrBit_frame _ _ _ _ _))
                 | with_reducible apply Keeps.trans ?_ (Keeps.of_eq (begin_frame ..))
                 | with_reducible apply Keeps.trans ?_ (Keeps.of_eq (glbRefresh_frame ..))
                 | with_reducible apply Keeps.trans ?_ (Keeps.of_eq (faultRestored_frame ..))
                 | with_reducible apply Keeps.trans ?_ (Keeps.of_eq (portChange_frame ..))
                 | with_reducible apply Keeps.trans ?_ (Keeps.of_eq (funcsNote_frame ..))
                 | with_reducible apply Keeps.trans ?_ (Keeps.of_eq (degradedNote_frame ..)))

theorem execPcieLinkDown_keeps (link : PcieLink) (s : State) : ∃ t, execPcieLinkDown link s = .next t ∧ Keeps s.frame t.frame
    := by
  refine ⟨_, rfl, ?_⟩
  repeat' (first | with_reducible exact Keeps.refl _ | with_reducible apply Keeps.ite ?_ ?_
                 | with_reducible apply Keeps.trans ?_ (linkDown_keeps ..)
                 | with_reducible apply Keeps.trans ?_ (Keeps.of_eq (begin_frame ..)))

theorem execBusMasterEnableClear_keeps (link : PcieLink) (func : BitVec 8) (s : State) : ∃ t, execBusMasterEnableClear link
    func s = .next t ∧ Keeps s.frame t.frame := by
  refine ⟨_, rfl, ?_⟩
  repeat' (first | with_reducible exact Keeps.refl _ | with_reducible apply Keeps.ite ?_ ?_
                 | with_reducible apply Keeps.trans ?_ (bmeClear_keeps ..)
                 | with_reducible apply Keeps.trans ?_ (Keeps.of_eq (begin_frame ..)))

theorem execD3hotEntry_keeps (link : PcieLink) (func : BitVec 8) (s : State) : ∃ t, execD3hotEntry link func s = .next t ∧
    Keeps s.frame t.frame := by
  refine ⟨_, rfl, ?_⟩
  repeat' (first | with_reducible exact Keeps.refl _ | with_reducible apply Keeps.ite ?_ ?_
                 | with_reducible apply Keeps.trans ?_ (Keeps.of_eq (begin_frame ..))
                 | with_reducible apply Keeps.trans ?_ (Keeps.of_eq (d3hot_frame ..)))

theorem execPcieLinkRetrain_keeps (link : PcieLink) (width : Nat) (speed : Fin 7) (s : State) : ∃ t, execPcieLinkRetrain link
    width speed s = .next t ∧ Keeps s.frame t.frame := by
  refine ⟨_, rfl, ?_⟩
  repeat' (first | with_reducible exact Keeps.refl _ | dsimp only | with_reducible apply Keeps.ite ?_ ?_
                 | with_reducible apply Keeps.trans ?_ (Keeps.of_eq (wr_frame _ _ _ _))
                 | with_reducible apply Keeps.trans ?_ (Keeps.of_eq (count_frame _ _ _ _))
                 | with_reducible apply Keeps.trans ?_ (Keeps.of_eq (begin_frame ..))
                 | with_reducible apply Keeps.trans ?_ (Keeps.of_eq (portFollow_frame ..))
                 | with_reducible apply Keeps.trans ?_ (Keeps.of_eq (degradedNote_frame ..)))

theorem execRegisterWrite_keeps (path : AccessPath) (off nbytes : Nat) (value : Word) (s : State) : ∃ t, execRegisterWrite
    path off nbytes value s = .next t ∧ Keeps s.frame t.frame := by
  refine ⟨_, rfl, ?_⟩
  repeat' (first | with_reducible exact Keeps.refl _ | with_reducible apply Keeps.trans ?_ (accessWrite_keeps ..)
                 | with_reducible apply Keeps.trans ?_ (Keeps.of_eq (begin_frame ..)))

theorem execRcRead_keeps (path : AccessPath) (off nbytes : Nat) (s : State) : ∃ t, execRcRead path off nbytes s = .next t ∧
    Keeps s.frame t.frame := by
  refine ⟨_, rfl, ?_⟩
  repeat' (first | with_reducible exact Keeps.refl _ | with_reducible apply Keeps.trans ?_ (Keeps.of_eq (begin_frame ..))
                 | with_reducible apply Keeps.trans ?_ (Keeps.of_eq (accessRead_frame ..)))

theorem execLatchingRead_keeps (path : AccessPath) (off : Nat) (s : State) : ∃ t, execLatchingRead path off s = .next t ∧
    Keeps s.frame t.frame := by
  refine ⟨_, rfl, ?_⟩
  repeat' (first | with_reducible exact Keeps.refl _ | with_reducible apply Keeps.trans ?_ (Keeps.of_eq (begin_frame ..))
                 | with_reducible apply Keeps.trans ?_ (Keeps.of_eq (accessRead_frame ..)))

theorem execWindowRead_keeps (s : State) : ∃ t, execWindowRead s = .next t ∧ Keeps s.frame t.frame := by
  refine ⟨_, rfl, ?_⟩
  repeat' (first | with_reducible exact Keeps.refl _ | with_reducible apply Keeps.trans ?_ (accessWrite_keeps ..)
                 | with_reducible apply Keeps.trans ?_ (Keeps.of_eq (begin_frame ..)))

theorem execWindowWrite_keeps (s : State) : ∃ t, execWindowWrite s = .next t ∧ Keeps s.frame t.frame := by
  refine ⟨_, rfl, ?_⟩
  repeat' (first | with_reducible exact Keeps.refl _ | with_reducible apply Keeps.trans ?_ (accessWrite_keeps ..)
                 | with_reducible apply Keeps.trans ?_ (Keeps.of_eq (begin_frame ..)))

theorem execExpertWindowTlp_keeps (link : PcieLink) (pf : Fin 4) (off nbytes : Nat) (write : Bool) (value : Nat) (s : State)
    : ∃ t, execExpertWindowTlp link pf off nbytes write value s = .next t ∧ Keeps s.frame t.frame := by
  refine ⟨_, rfl, ?_⟩
  repeat' (first | with_reducible exact Keeps.refl _ | with_reducible apply Keeps.ite ?_ ?_
                 | with_reducible apply Keeps.trans ?_ (expertTlp_keeps ..)
                 | with_reducible apply Keeps.trans ?_ (Keeps.of_eq (begin_frame ..))
                 | with_reducible apply Keeps.trans ?_ (Keeps.of_eq (memUnsupported_frame ..)))

theorem execBarMemoryRequest_keeps (link : PcieLink) (func : BitVec 8) (bar : Fin 6) (off len : Nat) (write : Bool) (value :
    Nat) (s : State) : ∃ t, execBarMemoryRequest link func bar off len write value s = .next t ∧ Keeps s.frame t.frame := by
  refine ⟨_, rfl, ?_⟩
  repeat' (first | with_reducible exact Keeps.refl _ | dsimp only | with_reducible apply Keeps.ite ?_ ?_
                 | with_reducible apply Keeps.trans ?_ (expertTlp_keeps ..)
                 | with_reducible apply Keeps.trans ?_ (Keeps.of_eq (begin_frame ..))
                 | with_reducible apply Keeps.trans ?_ (Keeps.of_eq (emit_frame ..))
                 | with_reducible apply Keeps.trans ?_ (Keeps.of_eq (readDwords_frame ..))
                 | with_reducible apply Keeps.trans ?_ (Keeps.of_eq (barWrite_frame ..))
                 | with_reducible apply Keeps.trans ?_ (Keeps.of_eq (memUnsupported_frame ..))
                 | with_reducible apply Keeps.trans ?_ (writeDwords_keeps (hf := ?_) ..) | (intro _)
                 | simp only [barRead_frame])

theorem execJunctionSample_keeps (temps : List (Option Int)) (s : State) : ∃ t, execJunctionSample temps s = .next t ∧ Keeps
    s.frame t.frame := by
  refine ⟨_, rfl, ?_⟩
  repeat' (first | with_reducible exact Keeps.refl _ | dsimp only
                 | with_reducible apply Keeps.trans ?_ (Keeps.of_eq (wr_frame _ _ _ _))
                 | with_reducible apply Keeps.trans ?_ (Keeps.of_eq (begin_frame ..))
                 | with_reducible apply Keeps.trans ?_ (Keeps.of_eq (glbRefresh_frame ..))
                 | with_reducible apply Keeps.trans ?_ (Keeps.of_eq (sensorRegs_frame ..))
                 | with_reducible apply Keeps.trans ?_ (Keeps.of_eq (thermState_frame ..))
                 | with_reducible apply Keeps.trans ?_ (Keeps.of_eq (junctionNote_frame ..))
                 | with_reducible apply Keeps.trans ?_ (Keeps.of_eq (thermAct_frame ..)) | simp only [frame_mk, frame_eta]
                 | (split))

theorem execThermalHoldEntry_keeps (s : State) : ∃ t, execThermalHoldEntry s = .next t ∧ Keeps s.frame t.frame := by
  refine ⟨_, rfl, ?_⟩
  repeat' (first | with_reducible exact Keeps.refl _ | dsimp only | with_reducible apply Keeps.ite ?_ ?_
                 | with_reducible apply Keeps.trans ?_ (Keeps.of_eq (begin_frame ..))
                 | with_reducible apply Keeps.trans ?_ (Keeps.of_eq (thermState_frame ..))
                 | simp only [frame_mk, frame_eta] | (split))

theorem execSmbusReadByte_keeps (cmd : BitVec 8) (s : State) : ∃ t, execSmbusReadByte cmd s = .next t ∧ Keeps s.frame t.frame
    := by
  refine ⟨_, rfl, ?_⟩
  repeat' (first | with_reducible exact Keeps.refl _ | with_reducible apply Keeps.ite ?_ ?_
                 | with_reducible apply Keeps.trans ?_ (Keeps.of_eq (begin_frame ..))
                 | with_reducible apply Keeps.trans ?_ (Keeps.of_eq (emit_frame ..)))

theorem execSmbusWrite_keeps (_cmd : BitVec 8) (s : State) : ∃ t, execSmbusWrite _cmd s = .next t ∧ Keeps s.frame t.frame := by
  refine ⟨_, rfl, ?_⟩
  repeat' (first | with_reducible exact Keeps.refl _ | with_reducible apply Keeps.trans ?_ (Keeps.of_eq (begin_frame ..))
                 | with_reducible apply Keeps.trans ?_ (Keeps.of_eq (emit_frame ..)))

end Sys2Proof.Machine
end

