-- ==== Sys2Proof/Laws/FrameReset.lean ====
section
/-! SUPPORT. The resets, and the decision of a power failure (see FrameBase). -/

namespace Sys2Proof.Machine

open Sys2Proof

theorem resetState_frame (power vbatLost : Bool) (s : State) :
    (resetState power vbatLost s).frame = { s.frame with decided := false, mem := [] } := rfl

theorem powerOnReset_frame (cause offSec : Nat) (vbatLost : Bool) (s : State) :
    (powerOnReset cause offSec vbatLost s).frame = { s.frame with decided := false, mem := [] } := by
  have hl : ∀ (s : State) (x : LifeState), State.frame { s with life := x } = s.frame := fun _ _ => rfl
  have hb : ∀ (s : State) (x : LifeState) (y : BootState), State.frame { s with life := x, boot := y } = s.frame := fun _ _ _
      => rfl
  unfold powerOnReset; dsimp only
  rw [startBoot_frame]
  split
  · rw [wr_frame, wr_frame]; refine (hb _ _ _).trans ?_
    rw [wrB_frame]; refine (hl _ _).trans ?_
    rw [healthAdd_frame, healthAdd_frame, resetState_frame, emit_frame]
  · rw [wr_frame, wr_frame]; refine (hl _ _).trans ?_
    rw [wrB_frame]; refine (hl _ _).trans ?_
    rw [healthAdd_frame, healthAdd_frame, resetState_frame, emit_frame]

theorem testMode_frame' (s : State) : (testMode s).frame = s.frame := by
  unfold testMode; split
  · rw [bootStop_frame]; rfl
  · rfl

theorem execPowerOnReset_frame (offSec : Nat) (vbatLost : Bool) (board : Option BoardContent) (s : State) :
    ∃ t, execPowerOnReset offSec vbatLost board s = .next t ∧
      t.frame = { s.frame with decided := false, mem := [],
                               serial := (board.map (fun b => b.serial)).getD s.cfg.serial,
                               recoveryKey := (board.map (fun b => b.recoveryKey)).getD s.cus.recoveryKey } := by
  refine ⟨_, rfl, ?_⟩
  rw [testMode_frame', wr_frame, powerOnReset_frame]
  cases board <;> rfl

theorem execRailOutOfRange_frame (rail : Fin 8) (s : State) :
    ∃ t, execRailOutOfRange rail s = .next t ∧ t.frame = { s.frame with decided := false, mem := [] } := by
  refine ⟨_, rfl, ?_⟩
  rw [wr_frame, resetState_frame]; rfl

theorem execPfailRestartTimer_frame (s : State) :
    ∃ t, execPfailRestartTimer s = .next t ∧ (t.frame = s.frame ∨ t.frame = { s.frame with decided := false, mem := [] }) := by
  refine ⟨_, rfl, ?_⟩
  dsimp only; split
  · exact .inr (powerOnReset_frame ..)
  · exact .inl (begin_frame s)

theorem execPowerFailDecision_frame (input : PfInput) (both : Bool) (s : State) :
    ∃ t, execPowerFailDecision input both s = .next t ∧ (t.frame = s.frame ∨ Keeps { s.frame with decided := true } t.frame)
        := by
  refine ⟨_, rfl, ?_⟩
  have hp : ∀ (s : State) (x : PwrState) (y : Option Nat), x.decided = true →
      State.frame { s with pwr := x, cus := { s.cus with busy := y } } = { s.frame with decided := true } := fun s x y h => by
    show Frame.mk .. = _
    rw [h]; rfl
  have key : ∀ (c : Prop) [Decidable c] (x y : State), x.frame = s.frame → Keeps { s.frame with decided := true } y.frame →
      (if c then x else y).frame = s.frame ∨ Keeps { s.frame with decided := true } (if c then x else y).frame := fun c _ x y
          hx hy => by
    split
    · exact .inl hx
    · exact .inr hy
  refine key _ _ _ (begin_frame s) ?_
  dsimp only
  refine Keeps.trans (Keeps.of_eq ?_) (pfStop_keeps _)
  refine (hp _ _ _ rfl).trans ?_
  rw [peatRecord_frame, apply_ite State.frame, wr_frame, wr_frame, wr_frame, ite_self, begin_frame]

end Sys2Proof.Machine
end

