-- ==== Sys2Proof/Laws/State.lean ====
section
/-! SUPPORT. The named updates of the state: each field of the state after each update, and what a register field reads after
a write. -/

namespace Sys2Proof.Machine.State

open Sys2Proof

variable (s : State)

/-! ### wr -/

@[simp] theorem wr_pending (f : Field) (v i : Nat) : (s.wr f v i).pending = s.pending := (rfl)
@[simp] theorem wr_free (f : Field) (v i : Nat) : (s.wr f v i).free = s.free := (rfl)
@[simp] theorem wr_readData (f : Field) (v i : Nat) : (s.wr f v i).readData = s.readData := (rfl)
@[simp] theorem wr_out (f : Field) (v i : Nat) : (s.wr f v i).out = s.out := (rfl)
@[simp] theorem wr_glb (f : Field) (v i : Nat) : (s.wr f v i).glb = s.glb := (rfl)
@[simp] theorem wr_peat (f : Field) (v i : Nat) : (s.wr f v i).peat = s.peat := (rfl)
@[simp] theorem wr_cfg (f : Field) (v i : Nat) : (s.wr f v i).cfg = s.cfg := (rfl)
@[simp] theorem wr_life (f : Field) (v i : Nat) : (s.wr f v i).life = s.life := (rfl)
@[simp] theorem wr_ret (f : Field) (v i : Nat) : (s.wr f v i).ret = s.ret := (rfl)
@[simp] theorem wr_map (f : Field) (v i : Nat) : (s.wr f v i).map = s.map := (rfl)
@[simp] theorem wr_fen (f : Field) (v i : Nat) : (s.wr f v i).fen = s.fen := (rfl)
@[simp] theorem wr_ldpc (f : Field) (v i : Nat) : (s.wr f v i).ldpc = s.ldpc := (rfl)
@[simp] theorem wr_hew (f : Field) (v i : Nat) : (s.wr f v i).hew = s.hew := (rfl)
@[simp] theorem wr_ucs (f : Field) (v i : Nat) : (s.wr f v i).ucs = s.ucs := (rfl)
@[simp] theorem wr_seam (f : Field) (v i : Nat) : (s.wr f v i).seam = s.seam := (rfl)
@[simp] theorem wr_mere (f : Field) (v i : Nat) : (s.wr f v i).mere = s.mere := (rfl)
@[simp] theorem wr_nvq (f : Field) (v i : Nat) : (s.wr f v i).nvq = s.nvq := (rfl)
@[simp] theorem wr_slu (f : Field) (v i : Nat) : (s.wr f v i).slu = s.slu := (rfl)
@[simp] theorem wr_hif (f : Field) (v i : Nat) : (s.wr f v i).hif = s.hif := (rfl)
@[simp] theorem wr_fab (f : Field) (v i : Nat) : (s.wr f v i).fab = s.fab := (rfl)
@[simp] theorem wr_cwy (f : Field) (v i : Nat) : (s.wr f v i).cwy = s.cwy := (rfl)
@[simp] theorem wr_cip (f : Field) (v i : Nat) : (s.wr f v i).cip = s.cip := (rfl)
@[simp] theorem wr_dma (f : Field) (v i : Nat) : (s.wr f v i).dma = s.dma := (rfl)
@[simp] theorem wr_mbx (f : Field) (v i : Nat) : (s.wr f v i).mbx = s.mbx := (rfl)
@[simp] theorem wr_pwr (f : Field) (v i : Nat) : (s.wr f v i).pwr = s.pwr := (rfl)
@[simp] theorem wr_sea (f : Field) (v i : Nat) : (s.wr f v i).sea = s.sea := (rfl)
@[simp] theorem wr_upd (f : Field) (v i : Nat) : (s.wr f v i).upd = s.upd := (rfl)
@[simp] theorem wr_cus (f : Field) (v i : Nat) : (s.wr f v i).cus = s.cus := (rfl)
@[simp] theorem wr_clk (f : Field) (v i : Nat) : (s.wr f v i).clk = s.clk := (rfl)
@[simp] theorem wr_boot (f : Field) (v i : Nat) : (s.wr f v i).boot = s.boot := (rfl)
@[simp] theorem wr_tmon (f : Field) (v i : Nat) : (s.wr f v i).tmon = s.tmon := (rfl)

/-! ### count -/

@[simp] theorem count_pending (f : Field) (n i : Nat) : (s.count f n i).pending = s.pending := (rfl)
@[simp] theorem count_free (f : Field) (n i : Nat) : (s.count f n i).free = s.free := (rfl)
@[simp] theorem count_readData (f : Field) (n i : Nat) : (s.count f n i).readData = s.readData := (rfl)
@[simp] theorem count_out (f : Field) (n i : Nat) : (s.count f n i).out = s.out := (rfl)
@[simp] theorem count_glb (f : Field) (n i : Nat) : (s.count f n i).glb = s.glb := (rfl)
@[simp] theorem count_peat (f : Field) (n i : Nat) : (s.count f n i).peat = s.peat := (rfl)
@[simp] theorem count_cfg (f : Field) (n i : Nat) : (s.count f n i).cfg = s.cfg := (rfl)
@[simp] theorem count_life (f : Field) (n i : Nat) : (s.count f n i).life = s.life := (rfl)
@[simp] theorem count_ret (f : Field) (n i : Nat) : (s.count f n i).ret = s.ret := (rfl)
@[simp] theorem count_map (f : Field) (n i : Nat) : (s.count f n i).map = s.map := (rfl)
@[simp] theorem count_fen (f : Field) (n i : Nat) : (s.count f n i).fen = s.fen := (rfl)
@[simp] theorem count_ldpc (f : Field) (n i : Nat) : (s.count f n i).ldpc = s.ldpc := (rfl)
@[simp] theorem count_hew (f : Field) (n i : Nat) : (s.count f n i).hew = s.hew := (rfl)
@[simp] theorem count_ucs (f : Field) (n i : Nat) : (s.count f n i).ucs = s.ucs := (rfl)
@[simp] theorem count_seam (f : Field) (n i : Nat) : (s.count f n i).seam = s.seam := (rfl)
@[simp] theorem count_mere (f : Field) (n i : Nat) : (s.count f n i).mere = s.mere := (rfl)
@[simp] theorem count_nvq (f : Field) (n i : Nat) : (s.count f n i).nvq = s.nvq := (rfl)
@[simp] theorem count_slu (f : Field) (n i : Nat) : (s.count f n i).slu = s.slu := (rfl)
@[simp] theorem count_hif (f : Field) (n i : Nat) : (s.count f n i).hif = s.hif := (rfl)
@[simp] theorem count_fab (f : Field) (n i : Nat) : (s.count f n i).fab = s.fab := (rfl)
@[simp] theorem count_cwy (f : Field) (n i : Nat) : (s.count f n i).cwy = s.cwy := (rfl)
@[simp] theorem count_cip (f : Field) (n i : Nat) : (s.count f n i).cip = s.cip := (rfl)
@[simp] theorem count_dma (f : Field) (n i : Nat) : (s.count f n i).dma = s.dma := (rfl)
@[simp] theorem count_mbx (f : Field) (n i : Nat) : (s.count f n i).mbx = s.mbx := (rfl)
@[simp] theorem count_pwr (f : Field) (n i : Nat) : (s.count f n i).pwr = s.pwr := (rfl)
@[simp] theorem count_sea (f : Field) (n i : Nat) : (s.count f n i).sea = s.sea := (rfl)
@[simp] theorem count_upd (f : Field) (n i : Nat) : (s.count f n i).upd = s.upd := (rfl)
@[simp] theorem count_cus (f : Field) (n i : Nat) : (s.count f n i).cus = s.cus := (rfl)
@[simp] theorem count_clk (f : Field) (n i : Nat) : (s.count f n i).clk = s.clk := (rfl)
@[simp] theorem count_boot (f : Field) (n i : Nat) : (s.count f n i).boot = s.boot := (rfl)
@[simp] theorem count_tmon (f : Field) (n i : Nat) : (s.count f n i).tmon = s.tmon := (rfl)

/-! ### wrB -/

@[simp] theorem wrB_pending (f : Field) (b : Bool) (i : Nat) : (s.wrB f b i).pending = s.pending := (rfl)
@[simp] theorem wrB_free (f : Field) (b : Bool) (i : Nat) : (s.wrB f b i).free = s.free := (rfl)
@[simp] theorem wrB_readData (f : Field) (b : Bool) (i : Nat) : (s.wrB f b i).readData = s.readData := (rfl)
@[simp] theorem wrB_out (f : Field) (b : Bool) (i : Nat) : (s.wrB f b i).out = s.out := (rfl)
@[simp] theorem wrB_glb (f : Field) (b : Bool) (i : Nat) : (s.wrB f b i).glb = s.glb := (rfl)
@[simp] theorem wrB_peat (f : Field) (b : Bool) (i : Nat) : (s.wrB f b i).peat = s.peat := (rfl)
@[simp] theorem wrB_cfg (f : Field) (b : Bool) (i : Nat) : (s.wrB f b i).cfg = s.cfg := (rfl)
@[simp] theorem wrB_life (f : Field) (b : Bool) (i : Nat) : (s.wrB f b i).life = s.life := (rfl)
@[simp] theorem wrB_ret (f : Field) (b : Bool) (i : Nat) : (s.wrB f b i).ret = s.ret := (rfl)
@[simp] theorem wrB_map (f : Field) (b : Bool) (i : Nat) : (s.wrB f b i).map = s.map := (rfl)
@[simp] theorem wrB_fen (f : Field) (b : Bool) (i : Nat) : (s.wrB f b i).fen = s.fen := (rfl)
@[simp] theorem wrB_ldpc (f : Field) (b : Bool) (i : Nat) : (s.wrB f b i).ldpc = s.ldpc := (rfl)
@[simp] theorem wrB_hew (f : Field) (b : Bool) (i : Nat) : (s.wrB f b i).hew = s.hew := (rfl)
@[simp] theorem wrB_ucs (f : Field) (b : Bool) (i : Nat) : (s.wrB f b i).ucs = s.ucs := (rfl)
@[simp] theorem wrB_seam (f : Field) (b : Bool) (i : Nat) : (s.wrB f b i).seam = s.seam := (rfl)
@[simp] theorem wrB_mere (f : Field) (b : Bool) (i : Nat) : (s.wrB f b i).mere = s.mere := (rfl)
@[simp] theorem wrB_nvq (f : Field) (b : Bool) (i : Nat) : (s.wrB f b i).nvq = s.nvq := (rfl)
@[simp] theorem wrB_slu (f : Field) (b : Bool) (i : Nat) : (s.wrB f b i).slu = s.slu := (rfl)
@[simp] theorem wrB_hif (f : Field) (b : Bool) (i : Nat) : (s.wrB f b i).hif = s.hif := (rfl)
@[simp] theorem wrB_fab (f : Field) (b : Bool) (i : Nat) : (s.wrB f b i).fab = s.fab := (rfl)
@[simp] theorem wrB_cwy (f : Field) (b : Bool) (i : Nat) : (s.wrB f b i).cwy = s.cwy := (rfl)
@[simp] theorem wrB_cip (f : Field) (b : Bool) (i : Nat) : (s.wrB f b i).cip = s.cip := (rfl)
@[simp] theorem wrB_dma (f : Field) (b : Bool) (i : Nat) : (s.wrB f b i).dma = s.dma := (rfl)
@[simp] theorem wrB_mbx (f : Field) (b : Bool) (i : Nat) : (s.wrB f b i).mbx = s.mbx := (rfl)
@[simp] theorem wrB_pwr (f : Field) (b : Bool) (i : Nat) : (s.wrB f b i).pwr = s.pwr := (rfl)
@[simp] theorem wrB_sea (f : Field) (b : Bool) (i : Nat) : (s.wrB f b i).sea = s.sea := (rfl)
@[simp] theorem wrB_upd (f : Field) (b : Bool) (i : Nat) : (s.wrB f b i).upd = s.upd := (rfl)
@[simp] theorem wrB_cus (f : Field) (b : Bool) (i : Nat) : (s.wrB f b i).cus = s.cus := (rfl)
@[simp] theorem wrB_clk (f : Field) (b : Bool) (i : Nat) : (s.wrB f b i).clk = s.clk := (rfl)
@[simp] theorem wrB_boot (f : Field) (b : Bool) (i : Nat) : (s.wrB f b i).boot = s.boot := (rfl)
@[simp] theorem wrB_tmon (f : Field) (b : Bool) (i : Nat) : (s.wrB f b i).tmon = s.tmon := (rfl)

/-! ### wrBit -/

@[simp] theorem wrBit_pending (f : Field) (k : Nat) (b : Bool) (i : Nat) : (s.wrBit f k b i).pending = s.pending := (rfl)
@[simp] theorem wrBit_free (f : Field) (k : Nat) (b : Bool) (i : Nat) : (s.wrBit f k b i).free = s.free := (rfl)
@[simp] theorem wrBit_readData (f : Field) (k : Nat) (b : Bool) (i : Nat) : (s.wrBit f k b i).readData = s.readData := (rfl)
@[simp] theorem wrBit_out (f : Field) (k : Nat) (b : Bool) (i : Nat) : (s.wrBit f k b i).out = s.out := (rfl)
@[simp] theorem wrBit_glb (f : Field) (k : Nat) (b : Bool) (i : Nat) : (s.wrBit f k b i).glb = s.glb := (rfl)
@[simp] theorem wrBit_peat (f : Field) (k : Nat) (b : Bool) (i : Nat) : (s.wrBit f k b i).peat = s.peat := (rfl)
@[simp] theorem wrBit_cfg (f : Field) (k : Nat) (b : Bool) (i : Nat) : (s.wrBit f k b i).cfg = s.cfg := (rfl)
@[simp] theorem wrBit_life (f : Field) (k : Nat) (b : Bool) (i : Nat) : (s.wrBit f k b i).life = s.life := (rfl)
@[simp] theorem wrBit_ret (f : Field) (k : Nat) (b : Bool) (i : Nat) : (s.wrBit f k b i).ret = s.ret := (rfl)
@[simp] theorem wrBit_map (f : Field) (k : Nat) (b : Bool) (i : Nat) : (s.wrBit f k b i).map = s.map := (rfl)
@[simp] theorem wrBit_fen (f : Field) (k : Nat) (b : Bool) (i : Nat) : (s.wrBit f k b i).fen = s.fen := (rfl)
@[simp] theorem wrBit_ldpc (f : Field) (k : Nat) (b : Bool) (i : Nat) : (s.wrBit f k b i).ldpc = s.ldpc := (rfl)
@[simp] theorem wrBit_hew (f : Field) (k : Nat) (b : Bool) (i : Nat) : (s.wrBit f k b i).hew = s.hew := (rfl)
@[simp] theorem wrBit_ucs (f : Field) (k : Nat) (b : Bool) (i : Nat) : (s.wrBit f k b i).ucs = s.ucs := (rfl)
@[simp] theorem wrBit_seam (f : Field) (k : Nat) (b : Bool) (i : Nat) : (s.wrBit f k b i).seam = s.seam := (rfl)
@[simp] theorem wrBit_mere (f : Field) (k : Nat) (b : Bool) (i : Nat) : (s.wrBit f k b i).mere = s.mere := (rfl)
@[simp] theorem wrBit_nvq (f : Field) (k : Nat) (b : Bool) (i : Nat) : (s.wrBit f k b i).nvq = s.nvq := (rfl)
@[simp] theorem wrBit_slu (f : Field) (k : Nat) (b : Bool) (i : Nat) : (s.wrBit f k b i).slu = s.slu := (rfl)
@[simp] theorem wrBit_hif (f : Field) (k : Nat) (b : Bool) (i : Nat) : (s.wrBit f k b i).hif = s.hif := (rfl)
@[simp] theorem wrBit_fab (f : Field) (k : Nat) (b : Bool) (i : Nat) : (s.wrBit f k b i).fab = s.fab := (rfl)
@[simp] theorem wrBit_cwy (f : Field) (k : Nat) (b : Bool) (i : Nat) : (s.wrBit f k b i).cwy = s.cwy := (rfl)
@[simp] theorem wrBit_cip (f : Field) (k : Nat) (b : Bool) (i : Nat) : (s.wrBit f k b i).cip = s.cip := (rfl)
@[simp] theorem wrBit_dma (f : Field) (k : Nat) (b : Bool) (i : Nat) : (s.wrBit f k b i).dma = s.dma := (rfl)
@[simp] theorem wrBit_mbx (f : Field) (k : Nat) (b : Bool) (i : Nat) : (s.wrBit f k b i).mbx = s.mbx := (rfl)
@[simp] theorem wrBit_pwr (f : Field) (k : Nat) (b : Bool) (i : Nat) : (s.wrBit f k b i).pwr = s.pwr := (rfl)
@[simp] theorem wrBit_sea (f : Field) (k : Nat) (b : Bool) (i : Nat) : (s.wrBit f k b i).sea = s.sea := (rfl)
@[simp] theorem wrBit_upd (f : Field) (k : Nat) (b : Bool) (i : Nat) : (s.wrBit f k b i).upd = s.upd := (rfl)
@[simp] theorem wrBit_cus (f : Field) (k : Nat) (b : Bool) (i : Nat) : (s.wrBit f k b i).cus = s.cus := (rfl)
@[simp] theorem wrBit_clk (f : Field) (k : Nat) (b : Bool) (i : Nat) : (s.wrBit f k b i).clk = s.clk := (rfl)
@[simp] theorem wrBit_boot (f : Field) (k : Nat) (b : Bool) (i : Nat) : (s.wrBit f k b i).boot = s.boot := (rfl)
@[simp] theorem wrBit_tmon (f : Field) (k : Nat) (b : Bool) (i : Nat) : (s.wrBit f k b i).tmon = s.tmon := (rfl)

/-! ### begin -/

@[simp] theorem begin_pending : (s.begin).pending = s.pending := (rfl)
@[simp] theorem begin_regs : (s.begin).regs = s.regs := (rfl)
@[simp] theorem begin_free : (s.begin).free = s.free := (rfl)
@[simp] theorem begin_readData : (s.begin).readData = s.readData := (rfl)
@[simp] theorem begin_glb : (s.begin).glb = s.glb := (rfl)
@[simp] theorem begin_peat : (s.begin).peat = s.peat := (rfl)
@[simp] theorem begin_cfg : (s.begin).cfg = s.cfg := (rfl)
@[simp] theorem begin_life : (s.begin).life = s.life := (rfl)
@[simp] theorem begin_ret : (s.begin).ret = s.ret := (rfl)
@[simp] theorem begin_map : (s.begin).map = s.map := (rfl)
@[simp] theorem begin_fen : (s.begin).fen = s.fen := (rfl)
@[simp] theorem begin_ldpc : (s.begin).ldpc = s.ldpc := (rfl)
@[simp] theorem begin_hew : (s.begin).hew = s.hew := (rfl)
@[simp] theorem begin_ucs : (s.begin).ucs = s.ucs := (rfl)
@[simp] theorem begin_seam : (s.begin).seam = s.seam := (rfl)
@[simp] theorem begin_mere : (s.begin).mere = s.mere := (rfl)
@[simp] theorem begin_nvq : (s.begin).nvq = s.nvq := (rfl)
@[simp] theorem begin_slu : (s.begin).slu = s.slu := (rfl)
@[simp] theorem begin_hif : (s.begin).hif = s.hif := (rfl)
@[simp] theorem begin_fab : (s.begin).fab = s.fab := (rfl)
@[simp] theorem begin_cwy : (s.begin).cwy = s.cwy := (rfl)
@[simp] theorem begin_cip : (s.begin).cip = s.cip := (rfl)
@[simp] theorem begin_dma : (s.begin).dma = s.dma := (rfl)
@[simp] theorem begin_mbx : (s.begin).mbx = s.mbx := (rfl)
@[simp] theorem begin_pwr : (s.begin).pwr = s.pwr := (rfl)
@[simp] theorem begin_sea : (s.begin).sea = s.sea := (rfl)
@[simp] theorem begin_upd : (s.begin).upd = s.upd := (rfl)
@[simp] theorem begin_cus : (s.begin).cus = s.cus := (rfl)
@[simp] theorem begin_clk : (s.begin).clk = s.clk := (rfl)
@[simp] theorem begin_boot : (s.begin).boot = s.boot := (rfl)
@[simp] theorem begin_tmon : (s.begin).tmon = s.tmon := (rfl)

/-! ### emit -/

@[simp] theorem emit_pending (o : Out) : (s.emit o).pending = s.pending := (rfl)
@[simp] theorem emit_regs (o : Out) : (s.emit o).regs = s.regs := (rfl)
@[simp] theorem emit_free (o : Out) : (s.emit o).free = s.free := (rfl)
@[simp] theorem emit_readData (o : Out) : (s.emit o).readData = s.readData := (rfl)
@[simp] theorem emit_glb (o : Out) : (s.emit o).glb = s.glb := (rfl)
@[simp] theorem emit_peat (o : Out) : (s.emit o).peat = s.peat := (rfl)
@[simp] theorem emit_cfg (o : Out) : (s.emit o).cfg = s.cfg := (rfl)
@[simp] theorem emit_life (o : Out) : (s.emit o).life = s.life := (rfl)
@[simp] theorem emit_ret (o : Out) : (s.emit o).ret = s.ret := (rfl)
@[simp] theorem emit_map (o : Out) : (s.emit o).map = s.map := (rfl)
@[simp] theorem emit_fen (o : Out) : (s.emit o).fen = s.fen := (rfl)
@[simp] theorem emit_ldpc (o : Out) : (s.emit o).ldpc = s.ldpc := (rfl)
@[simp] theorem emit_hew (o : Out) : (s.emit o).hew = s.hew := (rfl)
@[simp] theorem emit_ucs (o : Out) : (s.emit o).ucs = s.ucs := (rfl)
@[simp] theorem emit_seam (o : Out) : (s.emit o).seam = s.seam := (rfl)
@[simp] theorem emit_mere (o : Out) : (s.emit o).mere = s.mere := (rfl)
@[simp] theorem emit_nvq (o : Out) : (s.emit o).nvq = s.nvq := (rfl)
@[simp] theorem emit_slu (o : Out) : (s.emit o).slu = s.slu := (rfl)
@[simp] theorem emit_hif (o : Out) : (s.emit o).hif = s.hif := (rfl)
@[simp] theorem emit_fab (o : Out) : (s.emit o).fab = s.fab := (rfl)
@[simp] theorem emit_cwy (o : Out) : (s.emit o).cwy = s.cwy := (rfl)
@[simp] theorem emit_cip (o : Out) : (s.emit o).cip = s.cip := (rfl)
@[simp] theorem emit_dma (o : Out) : (s.emit o).dma = s.dma := (rfl)
@[simp] theorem emit_mbx (o : Out) : (s.emit o).mbx = s.mbx := (rfl)
@[simp] theorem emit_pwr (o : Out) : (s.emit o).pwr = s.pwr := (rfl)
@[simp] theorem emit_sea (o : Out) : (s.emit o).sea = s.sea := (rfl)
@[simp] theorem emit_upd (o : Out) : (s.emit o).upd = s.upd := (rfl)
@[simp] theorem emit_cus (o : Out) : (s.emit o).cus = s.cus := (rfl)
@[simp] theorem emit_clk (o : Out) : (s.emit o).clk = s.clk := (rfl)
@[simp] theorem emit_boot (o : Out) : (s.emit o).boot = s.boot := (rfl)
@[simp] theorem emit_tmon (o : Out) : (s.emit o).tmon = s.tmon := (rfl)

/-! ### answer -/

@[simp] theorem answer_pending (v : Nat) : (s.answer v).pending = s.pending := (rfl)
@[simp] theorem answer_regs (v : Nat) : (s.answer v).regs = s.regs := (rfl)
@[simp] theorem answer_free (v : Nat) : (s.answer v).free = s.free := (rfl)
@[simp] theorem answer_out (v : Nat) : (s.answer v).out = s.out := (rfl)
@[simp] theorem answer_glb (v : Nat) : (s.answer v).glb = s.glb := (rfl)
@[simp] theorem answer_peat (v : Nat) : (s.answer v).peat = s.peat := (rfl)
@[simp] theorem answer_cfg (v : Nat) : (s.answer v).cfg = s.cfg := (rfl)
@[simp] theorem answer_life (v : Nat) : (s.answer v).life = s.life := (rfl)
@[simp] theorem answer_ret (v : Nat) : (s.answer v).ret = s.ret := (rfl)
@[simp] theorem answer_map (v : Nat) : (s.answer v).map = s.map := (rfl)
@[simp] theorem answer_fen (v : Nat) : (s.answer v).fen = s.fen := (rfl)
@[simp] theorem answer_ldpc (v : Nat) : (s.answer v).ldpc = s.ldpc := (rfl)
@[simp] theorem answer_hew (v : Nat) : (s.answer v).hew = s.hew := (rfl)
@[simp] theorem answer_ucs (v : Nat) : (s.answer v).ucs = s.ucs := (rfl)
@[simp] theorem answer_seam (v : Nat) : (s.answer v).seam = s.seam := (rfl)
@[simp] theorem answer_mere (v : Nat) : (s.answer v).mere = s.mere := (rfl)
@[simp] theorem answer_nvq (v : Nat) : (s.answer v).nvq = s.nvq := (rfl)
@[simp] theorem answer_slu (v : Nat) : (s.answer v).slu = s.slu := (rfl)
@[simp] theorem answer_hif (v : Nat) : (s.answer v).hif = s.hif := (rfl)
@[simp] theorem answer_fab (v : Nat) : (s.answer v).fab = s.fab := (rfl)
@[simp] theorem answer_cwy (v : Nat) : (s.answer v).cwy = s.cwy := (rfl)
@[simp] theorem answer_cip (v : Nat) : (s.answer v).cip = s.cip := (rfl)
@[simp] theorem answer_dma (v : Nat) : (s.answer v).dma = s.dma := (rfl)
@[simp] theorem answer_mbx (v : Nat) : (s.answer v).mbx = s.mbx := (rfl)
@[simp] theorem answer_pwr (v : Nat) : (s.answer v).pwr = s.pwr := (rfl)
@[simp] theorem answer_sea (v : Nat) : (s.answer v).sea = s.sea := (rfl)
@[simp] theorem answer_upd (v : Nat) : (s.answer v).upd = s.upd := (rfl)
@[simp] theorem answer_cus (v : Nat) : (s.answer v).cus = s.cus := (rfl)
@[simp] theorem answer_clk (v : Nat) : (s.answer v).clk = s.clk := (rfl)
@[simp] theorem answer_boot (v : Nat) : (s.answer v).boot = s.boot := (rfl)
@[simp] theorem answer_tmon (v : Nat) : (s.answer v).tmon = s.tmon := (rfl)

/-! ### drawn -/

@[simp] theorem drawn_pending : (s.drawn).pending = s.pending := (rfl)
@[simp] theorem drawn_regs : (s.drawn).regs = s.regs := (rfl)
@[simp] theorem drawn_readData : (s.drawn).readData = s.readData := (rfl)
@[simp] theorem drawn_out : (s.drawn).out = s.out := (rfl)
@[simp] theorem drawn_glb : (s.drawn).glb = s.glb := (rfl)
@[simp] theorem drawn_peat : (s.drawn).peat = s.peat := (rfl)
@[simp] theorem drawn_cfg : (s.drawn).cfg = s.cfg := (rfl)
@[simp] theorem drawn_life : (s.drawn).life = s.life := (rfl)
@[simp] theorem drawn_ret : (s.drawn).ret = s.ret := (rfl)
@[simp] theorem drawn_map : (s.drawn).map = s.map := (rfl)
@[simp] theorem drawn_fen : (s.drawn).fen = s.fen := (rfl)
@[simp] theorem drawn_ldpc : (s.drawn).ldpc = s.ldpc := (rfl)
@[simp] theorem drawn_hew : (s.drawn).hew = s.hew := (rfl)
@[simp] theorem drawn_ucs : (s.drawn).ucs = s.ucs := (rfl)
@[simp] theorem drawn_seam : (s.drawn).seam = s.seam := (rfl)
@[simp] theorem drawn_mere : (s.drawn).mere = s.mere := (rfl)
@[simp] theorem drawn_nvq : (s.drawn).nvq = s.nvq := (rfl)
@[simp] theorem drawn_slu : (s.drawn).slu = s.slu := (rfl)
@[simp] theorem drawn_hif : (s.drawn).hif = s.hif := (rfl)
@[simp] theorem drawn_fab : (s.drawn).fab = s.fab := (rfl)
@[simp] theorem drawn_cwy : (s.drawn).cwy = s.cwy := (rfl)
@[simp] theorem drawn_cip : (s.drawn).cip = s.cip := (rfl)
@[simp] theorem drawn_dma : (s.drawn).dma = s.dma := (rfl)
@[simp] theorem drawn_mbx : (s.drawn).mbx = s.mbx := (rfl)
@[simp] theorem drawn_pwr : (s.drawn).pwr = s.pwr := (rfl)
@[simp] theorem drawn_sea : (s.drawn).sea = s.sea := (rfl)
@[simp] theorem drawn_upd : (s.drawn).upd = s.upd := (rfl)
@[simp] theorem drawn_cus : (s.drawn).cus = s.cus := (rfl)
@[simp] theorem drawn_clk : (s.drawn).clk = s.clk := (rfl)
@[simp] theorem drawn_boot : (s.drawn).boot = s.boot := (rfl)
@[simp] theorem drawn_tmon : (s.drawn).tmon = s.tmon := (rfl)

/-! ### putCtrl -/

@[simp] theorem putCtrl_pending (c : Nat) (v : Ctrl) : (s.putCtrl c v).pending = s.pending := (rfl)
@[simp] theorem putCtrl_regs (c : Nat) (v : Ctrl) : (s.putCtrl c v).regs = s.regs := (rfl)
@[simp] theorem putCtrl_free (c : Nat) (v : Ctrl) : (s.putCtrl c v).free = s.free := (rfl)
@[simp] theorem putCtrl_readData (c : Nat) (v : Ctrl) : (s.putCtrl c v).readData = s.readData := (rfl)
@[simp] theorem putCtrl_out (c : Nat) (v : Ctrl) : (s.putCtrl c v).out = s.out := (rfl)
@[simp] theorem putCtrl_glb (c : Nat) (v : Ctrl) : (s.putCtrl c v).glb = s.glb := (rfl)
@[simp] theorem putCtrl_peat (c : Nat) (v : Ctrl) : (s.putCtrl c v).peat = s.peat := (rfl)
@[simp] theorem putCtrl_cfg (c : Nat) (v : Ctrl) : (s.putCtrl c v).cfg = s.cfg := (rfl)
@[simp] theorem putCtrl_life (c : Nat) (v : Ctrl) : (s.putCtrl c v).life = s.life := (rfl)
@[simp] theorem putCtrl_ret (c : Nat) (v : Ctrl) : (s.putCtrl c v).ret = s.ret := (rfl)
@[simp] theorem putCtrl_map (c : Nat) (v : Ctrl) : (s.putCtrl c v).map = s.map := (rfl)
@[simp] theorem putCtrl_fen (c : Nat) (v : Ctrl) : (s.putCtrl c v).fen = s.fen := (rfl)
@[simp] theorem putCtrl_ldpc (c : Nat) (v : Ctrl) : (s.putCtrl c v).ldpc = s.ldpc := (rfl)
@[simp] theorem putCtrl_hew (c : Nat) (v : Ctrl) : (s.putCtrl c v).hew = s.hew := (rfl)
@[simp] theorem putCtrl_ucs (c : Nat) (v : Ctrl) : (s.putCtrl c v).ucs = s.ucs := (rfl)
@[simp] theorem putCtrl_seam (c : Nat) (v : Ctrl) : (s.putCtrl c v).seam = s.seam := (rfl)
@[simp] theorem putCtrl_mere (c : Nat) (v : Ctrl) : (s.putCtrl c v).mere = s.mere := (rfl)
@[simp] theorem putCtrl_slu (c : Nat) (v : Ctrl) : (s.putCtrl c v).slu = s.slu := (rfl)
@[simp] theorem putCtrl_hif (c : Nat) (v : Ctrl) : (s.putCtrl c v).hif = s.hif := (rfl)
@[simp] theorem putCtrl_fab (c : Nat) (v : Ctrl) : (s.putCtrl c v).fab = s.fab := (rfl)
@[simp] theorem putCtrl_cwy (c : Nat) (v : Ctrl) : (s.putCtrl c v).cwy = s.cwy := (rfl)
@[simp] theorem putCtrl_cip (c : Nat) (v : Ctrl) : (s.putCtrl c v).cip = s.cip := (rfl)
@[simp] theorem putCtrl_dma (c : Nat) (v : Ctrl) : (s.putCtrl c v).dma = s.dma := (rfl)
@[simp] theorem putCtrl_mbx (c : Nat) (v : Ctrl) : (s.putCtrl c v).mbx = s.mbx := (rfl)
@[simp] theorem putCtrl_pwr (c : Nat) (v : Ctrl) : (s.putCtrl c v).pwr = s.pwr := (rfl)
@[simp] theorem putCtrl_sea (c : Nat) (v : Ctrl) : (s.putCtrl c v).sea = s.sea := (rfl)
@[simp] theorem putCtrl_upd (c : Nat) (v : Ctrl) : (s.putCtrl c v).upd = s.upd := (rfl)
@[simp] theorem putCtrl_cus (c : Nat) (v : Ctrl) : (s.putCtrl c v).cus = s.cus := (rfl)
@[simp] theorem putCtrl_clk (c : Nat) (v : Ctrl) : (s.putCtrl c v).clk = s.clk := (rfl)
@[simp] theorem putCtrl_boot (c : Nat) (v : Ctrl) : (s.putCtrl c v).boot = s.boot := (rfl)
@[simp] theorem putCtrl_tmon (c : Nat) (v : Ctrl) : (s.putCtrl c v).tmon = s.tmon := (rfl)

/-! ### putSlot -/

@[simp] theorem putSlot_pending (n : Nat) (v : Cmd) : (s.putSlot n v).pending = s.pending := (rfl)
@[simp] theorem putSlot_regs (n : Nat) (v : Cmd) : (s.putSlot n v).regs = s.regs := (rfl)
@[simp] theorem putSlot_free (n : Nat) (v : Cmd) : (s.putSlot n v).free = s.free := (rfl)
@[simp] theorem putSlot_readData (n : Nat) (v : Cmd) : (s.putSlot n v).readData = s.readData := (rfl)
@[simp] theorem putSlot_out (n : Nat) (v : Cmd) : (s.putSlot n v).out = s.out := (rfl)
@[simp] theorem putSlot_glb (n : Nat) (v : Cmd) : (s.putSlot n v).glb = s.glb := (rfl)
@[simp] theorem putSlot_peat (n : Nat) (v : Cmd) : (s.putSlot n v).peat = s.peat := (rfl)
@[simp] theorem putSlot_cfg (n : Nat) (v : Cmd) : (s.putSlot n v).cfg = s.cfg := (rfl)
@[simp] theorem putSlot_life (n : Nat) (v : Cmd) : (s.putSlot n v).life = s.life := (rfl)
@[simp] theorem putSlot_ret (n : Nat) (v : Cmd) : (s.putSlot n v).ret = s.ret := (rfl)
@[simp] theorem putSlot_map (n : Nat) (v : Cmd) : (s.putSlot n v).map = s.map := (rfl)
@[simp] theorem putSlot_fen (n : Nat) (v : Cmd) : (s.putSlot n v).fen = s.fen := (rfl)
@[simp] theorem putSlot_ldpc (n : Nat) (v : Cmd) : (s.putSlot n v).ldpc = s.ldpc := (rfl)
@[simp] theorem putSlot_hew (n : Nat) (v : Cmd) : (s.putSlot n v).hew = s.hew := (rfl)
@[simp] theorem putSlot_ucs (n : Nat) (v : Cmd) : (s.putSlot n v).ucs = s.ucs := (rfl)
@[simp] theorem putSlot_seam (n : Nat) (v : Cmd) : (s.putSlot n v).seam = s.seam := (rfl)
@[simp] theorem putSlot_mere (n : Nat) (v : Cmd) : (s.putSlot n v).mere = s.mere := (rfl)
@[simp] theorem putSlot_slu (n : Nat) (v : Cmd) : (s.putSlot n v).slu = s.slu := (rfl)
@[simp] theorem putSlot_hif (n : Nat) (v : Cmd) : (s.putSlot n v).hif = s.hif := (rfl)
@[simp] theorem putSlot_fab (n : Nat) (v : Cmd) : (s.putSlot n v).fab = s.fab := (rfl)
@[simp] theorem putSlot_cwy (n : Nat) (v : Cmd) : (s.putSlot n v).cwy = s.cwy := (rfl)
@[simp] theorem putSlot_cip (n : Nat) (v : Cmd) : (s.putSlot n v).cip = s.cip := (rfl)
@[simp] theorem putSlot_dma (n : Nat) (v : Cmd) : (s.putSlot n v).dma = s.dma := (rfl)
@[simp] theorem putSlot_mbx (n : Nat) (v : Cmd) : (s.putSlot n v).mbx = s.mbx := (rfl)
@[simp] theorem putSlot_pwr (n : Nat) (v : Cmd) : (s.putSlot n v).pwr = s.pwr := (rfl)
@[simp] theorem putSlot_sea (n : Nat) (v : Cmd) : (s.putSlot n v).sea = s.sea := (rfl)
@[simp] theorem putSlot_upd (n : Nat) (v : Cmd) : (s.putSlot n v).upd = s.upd := (rfl)
@[simp] theorem putSlot_cus (n : Nat) (v : Cmd) : (s.putSlot n v).cus = s.cus := (rfl)
@[simp] theorem putSlot_clk (n : Nat) (v : Cmd) : (s.putSlot n v).clk = s.clk := (rfl)
@[simp] theorem putSlot_boot (n : Nat) (v : Cmd) : (s.putSlot n v).boot = s.boot := (rfl)
@[simp] theorem putSlot_tmon (n : Nat) (v : Cmd) : (s.putSlot n v).tmon = s.tmon := (rfl)

/-! ### delSlot -/

@[simp] theorem delSlot_pending (n : Nat) : (s.delSlot n).pending = s.pending := (rfl)
@[simp] theorem delSlot_regs (n : Nat) : (s.delSlot n).regs = s.regs := (rfl)
@[simp] theorem delSlot_free (n : Nat) : (s.delSlot n).free = s.free := (rfl)
@[simp] theorem delSlot_readData (n : Nat) : (s.delSlot n).readData = s.readData := (rfl)
@[simp] theorem delSlot_out (n : Nat) : (s.delSlot n).out = s.out := (rfl)
@[simp] theorem delSlot_glb (n : Nat) : (s.delSlot n).glb = s.glb := (rfl)
@[simp] theorem delSlot_peat (n : Nat) : (s.delSlot n).peat = s.peat := (rfl)
@[simp] theorem delSlot_cfg (n : Nat) : (s.delSlot n).cfg = s.cfg := (rfl)
@[simp] theorem delSlot_life (n : Nat) : (s.delSlot n).life = s.life := (rfl)
@[simp] theorem delSlot_ret (n : Nat) : (s.delSlot n).ret = s.ret := (rfl)
@[simp] theorem delSlot_map (n : Nat) : (s.delSlot n).map = s.map := (rfl)
@[simp] theorem delSlot_fen (n : Nat) : (s.delSlot n).fen = s.fen := (rfl)
@[simp] theorem delSlot_ldpc (n : Nat) : (s.delSlot n).ldpc = s.ldpc := (rfl)
@[simp] theorem delSlot_hew (n : Nat) : (s.delSlot n).hew = s.hew := (rfl)
@[simp] theorem delSlot_ucs (n : Nat) : (s.delSlot n).ucs = s.ucs := (rfl)
@[simp] theorem delSlot_seam (n : Nat) : (s.delSlot n).seam = s.seam := (rfl)
@[simp] theorem delSlot_mere (n : Nat) : (s.delSlot n).mere = s.mere := (rfl)
@[simp] theorem delSlot_slu (n : Nat) : (s.delSlot n).slu = s.slu := (rfl)
@[simp] theorem delSlot_hif (n : Nat) : (s.delSlot n).hif = s.hif := (rfl)
@[simp] theorem delSlot_fab (n : Nat) : (s.delSlot n).fab = s.fab := (rfl)
@[simp] theorem delSlot_cwy (n : Nat) : (s.delSlot n).cwy = s.cwy := (rfl)
@[simp] theorem delSlot_cip (n : Nat) : (s.delSlot n).cip = s.cip := (rfl)
@[simp] theorem delSlot_dma (n : Nat) : (s.delSlot n).dma = s.dma := (rfl)
@[simp] theorem delSlot_mbx (n : Nat) : (s.delSlot n).mbx = s.mbx := (rfl)
@[simp] theorem delSlot_pwr (n : Nat) : (s.delSlot n).pwr = s.pwr := (rfl)
@[simp] theorem delSlot_sea (n : Nat) : (s.delSlot n).sea = s.sea := (rfl)
@[simp] theorem delSlot_upd (n : Nat) : (s.delSlot n).upd = s.upd := (rfl)
@[simp] theorem delSlot_cus (n : Nat) : (s.delSlot n).cus = s.cus := (rfl)
@[simp] theorem delSlot_clk (n : Nat) : (s.delSlot n).clk = s.clk := (rfl)
@[simp] theorem delSlot_boot (n : Nat) : (s.delSlot n).boot = s.boot := (rfl)
@[simp] theorem delSlot_tmon (n : Nat) : (s.delSlot n).tmon = s.tmon := (rfl)

/-! ### putNs -/

@[simp] theorem putNs_pending (n : Nat) (v : Namespace) : (s.putNs n v).pending = s.pending := (rfl)
@[simp] theorem putNs_regs (n : Nat) (v : Namespace) : (s.putNs n v).regs = s.regs := (rfl)
@[simp] theorem putNs_free (n : Nat) (v : Namespace) : (s.putNs n v).free = s.free := (rfl)
@[simp] theorem putNs_readData (n : Nat) (v : Namespace) : (s.putNs n v).readData = s.readData := (rfl)
@[simp] theorem putNs_out (n : Nat) (v : Namespace) : (s.putNs n v).out = s.out := (rfl)
@[simp] theorem putNs_glb (n : Nat) (v : Namespace) : (s.putNs n v).glb = s.glb := (rfl)
@[simp] theorem putNs_peat (n : Nat) (v : Namespace) : (s.putNs n v).peat = s.peat := (rfl)
@[simp] theorem putNs_cfg (n : Nat) (v : Namespace) : (s.putNs n v).cfg = s.cfg := (rfl)
@[simp] theorem putNs_life (n : Nat) (v : Namespace) : (s.putNs n v).life = s.life := (rfl)
@[simp] theorem putNs_ret (n : Nat) (v : Namespace) : (s.putNs n v).ret = s.ret := (rfl)
@[simp] theorem putNs_map (n : Nat) (v : Namespace) : (s.putNs n v).map = s.map := (rfl)
@[simp] theorem putNs_fen (n : Nat) (v : Namespace) : (s.putNs n v).fen = s.fen := (rfl)
@[simp] theorem putNs_ldpc (n : Nat) (v : Namespace) : (s.putNs n v).ldpc = s.ldpc := (rfl)
@[simp] theorem putNs_hew (n : Nat) (v : Namespace) : (s.putNs n v).hew = s.hew := (rfl)
@[simp] theorem putNs_ucs (n : Nat) (v : Namespace) : (s.putNs n v).ucs = s.ucs := (rfl)
@[simp] theorem putNs_seam (n : Nat) (v : Namespace) : (s.putNs n v).seam = s.seam := (rfl)
@[simp] theorem putNs_mere (n : Nat) (v : Namespace) : (s.putNs n v).mere = s.mere := (rfl)
@[simp] theorem putNs_slu (n : Nat) (v : Namespace) : (s.putNs n v).slu = s.slu := (rfl)
@[simp] theorem putNs_hif (n : Nat) (v : Namespace) : (s.putNs n v).hif = s.hif := (rfl)
@[simp] theorem putNs_fab (n : Nat) (v : Namespace) : (s.putNs n v).fab = s.fab := (rfl)
@[simp] theorem putNs_cwy (n : Nat) (v : Namespace) : (s.putNs n v).cwy = s.cwy := (rfl)
@[simp] theorem putNs_cip (n : Nat) (v : Namespace) : (s.putNs n v).cip = s.cip := (rfl)
@[simp] theorem putNs_dma (n : Nat) (v : Namespace) : (s.putNs n v).dma = s.dma := (rfl)
@[simp] theorem putNs_mbx (n : Nat) (v : Namespace) : (s.putNs n v).mbx = s.mbx := (rfl)
@[simp] theorem putNs_pwr (n : Nat) (v : Namespace) : (s.putNs n v).pwr = s.pwr := (rfl)
@[simp] theorem putNs_sea (n : Nat) (v : Namespace) : (s.putNs n v).sea = s.sea := (rfl)
@[simp] theorem putNs_upd (n : Nat) (v : Namespace) : (s.putNs n v).upd = s.upd := (rfl)
@[simp] theorem putNs_cus (n : Nat) (v : Namespace) : (s.putNs n v).cus = s.cus := (rfl)
@[simp] theorem putNs_clk (n : Nat) (v : Namespace) : (s.putNs n v).clk = s.clk := (rfl)
@[simp] theorem putNs_boot (n : Nat) (v : Namespace) : (s.putNs n v).boot = s.boot := (rfl)
@[simp] theorem putNs_tmon (n : Nat) (v : Namespace) : (s.putNs n v).tmon = s.tmon := (rfl)

/-! ### setCore -/

@[simp] theorem setCore_pending (c : MapCore) : (s.setCore c).pending = s.pending := (rfl)
@[simp] theorem setCore_regs (c : MapCore) : (s.setCore c).regs = s.regs := (rfl)
@[simp] theorem setCore_free (c : MapCore) : (s.setCore c).free = s.free := (rfl)
@[simp] theorem setCore_readData (c : MapCore) : (s.setCore c).readData = s.readData := (rfl)
@[simp] theorem setCore_out (c : MapCore) : (s.setCore c).out = s.out := (rfl)
@[simp] theorem setCore_glb (c : MapCore) : (s.setCore c).glb = s.glb := (rfl)
@[simp] theorem setCore_peat (c : MapCore) : (s.setCore c).peat = s.peat := (rfl)
@[simp] theorem setCore_cfg (c : MapCore) : (s.setCore c).cfg = s.cfg := (rfl)
@[simp] theorem setCore_life (c : MapCore) : (s.setCore c).life = s.life := (rfl)
@[simp] theorem setCore_ret (c : MapCore) : (s.setCore c).ret = s.ret := (rfl)
@[simp] theorem setCore_fen (c : MapCore) : (s.setCore c).fen = s.fen := (rfl)
@[simp] theorem setCore_ldpc (c : MapCore) : (s.setCore c).ldpc = s.ldpc := (rfl)
@[simp] theorem setCore_hew (c : MapCore) : (s.setCore c).hew = s.hew := (rfl)
@[simp] theorem setCore_ucs (c : MapCore) : (s.setCore c).ucs = s.ucs := (rfl)
@[simp] theorem setCore_seam (c : MapCore) : (s.setCore c).seam = s.seam := (rfl)
@[simp] theorem setCore_mere (c : MapCore) : (s.setCore c).mere = s.mere := (rfl)
@[simp] theorem setCore_nvq (c : MapCore) : (s.setCore c).nvq = s.nvq := (rfl)
@[simp] theorem setCore_slu (c : MapCore) : (s.setCore c).slu = s.slu := (rfl)
@[simp] theorem setCore_hif (c : MapCore) : (s.setCore c).hif = s.hif := (rfl)
@[simp] theorem setCore_fab (c : MapCore) : (s.setCore c).fab = s.fab := (rfl)
@[simp] theorem setCore_cwy (c : MapCore) : (s.setCore c).cwy = s.cwy := (rfl)
@[simp] theorem setCore_cip (c : MapCore) : (s.setCore c).cip = s.cip := (rfl)
@[simp] theorem setCore_dma (c : MapCore) : (s.setCore c).dma = s.dma := (rfl)
@[simp] theorem setCore_mbx (c : MapCore) : (s.setCore c).mbx = s.mbx := (rfl)
@[simp] theorem setCore_pwr (c : MapCore) : (s.setCore c).pwr = s.pwr := (rfl)
@[simp] theorem setCore_sea (c : MapCore) : (s.setCore c).sea = s.sea := (rfl)
@[simp] theorem setCore_upd (c : MapCore) : (s.setCore c).upd = s.upd := (rfl)
@[simp] theorem setCore_cus (c : MapCore) : (s.setCore c).cus = s.cus := (rfl)
@[simp] theorem setCore_clk (c : MapCore) : (s.setCore c).clk = s.clk := (rfl)
@[simp] theorem setCore_boot (c : MapCore) : (s.setCore c).boot = s.boot := (rfl)
@[simp] theorem setCore_tmon (c : MapCore) : (s.setCore c).tmon = s.tmon := (rfl)

/-! ### putHeld -/

@[simp] theorem putHeld_pending (h k : Nat) (v : Held) : (s.putHeld h k v).pending = s.pending := (rfl)
@[simp] theorem putHeld_regs (h k : Nat) (v : Held) : (s.putHeld h k v).regs = s.regs := (rfl)
@[simp] theorem putHeld_free (h k : Nat) (v : Held) : (s.putHeld h k v).free = s.free := (rfl)
@[simp] theorem putHeld_readData (h k : Nat) (v : Held) : (s.putHeld h k v).readData = s.readData := (rfl)
@[simp] theorem putHeld_out (h k : Nat) (v : Held) : (s.putHeld h k v).out = s.out := (rfl)
@[simp] theorem putHeld_glb (h k : Nat) (v : Held) : (s.putHeld h k v).glb = s.glb := (rfl)
@[simp] theorem putHeld_peat (h k : Nat) (v : Held) : (s.putHeld h k v).peat = s.peat := (rfl)
@[simp] theorem putHeld_cfg (h k : Nat) (v : Held) : (s.putHeld h k v).cfg = s.cfg := (rfl)
@[simp] theorem putHeld_life (h k : Nat) (v : Held) : (s.putHeld h k v).life = s.life := (rfl)
@[simp] theorem putHeld_ret (h k : Nat) (v : Held) : (s.putHeld h k v).ret = s.ret := (rfl)
@[simp] theorem putHeld_map (h k : Nat) (v : Held) : (s.putHeld h k v).map = s.map := (rfl)
@[simp] theorem putHeld_fen (h k : Nat) (v : Held) : (s.putHeld h k v).fen = s.fen := (rfl)
@[simp] theorem putHeld_ldpc (h k : Nat) (v : Held) : (s.putHeld h k v).ldpc = s.ldpc := (rfl)
@[simp] theorem putHeld_ucs (h k : Nat) (v : Held) : (s.putHeld h k v).ucs = s.ucs := (rfl)
@[simp] theorem putHeld_seam (h k : Nat) (v : Held) : (s.putHeld h k v).seam = s.seam := (rfl)
@[simp] theorem putHeld_mere (h k : Nat) (v : Held) : (s.putHeld h k v).mere = s.mere := (rfl)
@[simp] theorem putHeld_nvq (h k : Nat) (v : Held) : (s.putHeld h k v).nvq = s.nvq := (rfl)
@[simp] theorem putHeld_slu (h k : Nat) (v : Held) : (s.putHeld h k v).slu = s.slu := (rfl)
@[simp] theorem putHeld_hif (h k : Nat) (v : Held) : (s.putHeld h k v).hif = s.hif := (rfl)
@[simp] theorem putHeld_fab (h k : Nat) (v : Held) : (s.putHeld h k v).fab = s.fab := (rfl)
@[simp] theorem putHeld_cwy (h k : Nat) (v : Held) : (s.putHeld h k v).cwy = s.cwy := (rfl)
@[simp] theorem putHeld_cip (h k : Nat) (v : Held) : (s.putHeld h k v).cip = s.cip := (rfl)
@[simp] theorem putHeld_dma (h k : Nat) (v : Held) : (s.putHeld h k v).dma = s.dma := (rfl)
@[simp] theorem putHeld_mbx (h k : Nat) (v : Held) : (s.putHeld h k v).mbx = s.mbx := (rfl)
@[simp] theorem putHeld_pwr (h k : Nat) (v : Held) : (s.putHeld h k v).pwr = s.pwr := (rfl)
@[simp] theorem putHeld_sea (h k : Nat) (v : Held) : (s.putHeld h k v).sea = s.sea := (rfl)
@[simp] theorem putHeld_upd (h k : Nat) (v : Held) : (s.putHeld h k v).upd = s.upd := (rfl)
@[simp] theorem putHeld_cus (h k : Nat) (v : Held) : (s.putHeld h k v).cus = s.cus := (rfl)
@[simp] theorem putHeld_clk (h k : Nat) (v : Held) : (s.putHeld h k v).clk = s.clk := (rfl)
@[simp] theorem putHeld_boot (h k : Nat) (v : Held) : (s.putHeld h k v).boot = s.boot := (rfl)
@[simp] theorem putHeld_tmon (h k : Nat) (v : Held) : (s.putHeld h k v).tmon = s.tmon := (rfl)

/-! ### delHeld -/

@[simp] theorem delHeld_pending (h k : Nat) : (s.delHeld h k).pending = s.pending := (rfl)
@[simp] theorem delHeld_regs (h k : Nat) : (s.delHeld h k).regs = s.regs := (rfl)
@[simp] theorem delHeld_free (h k : Nat) : (s.delHeld h k).free = s.free := (rfl)
@[simp] theorem delHeld_readData (h k : Nat) : (s.delHeld h k).readData = s.readData := (rfl)
@[simp] theorem delHeld_out (h k : Nat) : (s.delHeld h k).out = s.out := (rfl)
@[simp] theorem delHeld_glb (h k : Nat) : (s.delHeld h k).glb = s.glb := (rfl)
@[simp] theorem delHeld_peat (h k : Nat) : (s.delHeld h k).peat = s.peat := (rfl)
@[simp] theorem delHeld_cfg (h k : Nat) : (s.delHeld h k).cfg = s.cfg := (rfl)
@[simp] theorem delHeld_life (h k : Nat) : (s.delHeld h k).life = s.life := (rfl)
@[simp] theorem delHeld_ret (h k : Nat) : (s.delHeld h k).ret = s.ret := (rfl)
@[simp] theorem delHeld_map (h k : Nat) : (s.delHeld h k).map = s.map := (rfl)
@[simp] theorem delHeld_fen (h k : Nat) : (s.delHeld h k).fen = s.fen := (rfl)
@[simp] theorem delHeld_ldpc (h k : Nat) : (s.delHeld h k).ldpc = s.ldpc := (rfl)
@[simp] theorem delHeld_ucs (h k : Nat) : (s.delHeld h k).ucs = s.ucs := (rfl)
@[simp] theorem delHeld_seam (h k : Nat) : (s.delHeld h k).seam = s.seam := (rfl)
@[simp] theorem delHeld_mere (h k : Nat) : (s.delHeld h k).mere = s.mere := (rfl)
@[simp] theorem delHeld_nvq (h k : Nat) : (s.delHeld h k).nvq = s.nvq := (rfl)
@[simp] theorem delHeld_slu (h k : Nat) : (s.delHeld h k).slu = s.slu := (rfl)
@[simp] theorem delHeld_hif (h k : Nat) : (s.delHeld h k).hif = s.hif := (rfl)
@[simp] theorem delHeld_fab (h k : Nat) : (s.delHeld h k).fab = s.fab := (rfl)
@[simp] theorem delHeld_cwy (h k : Nat) : (s.delHeld h k).cwy = s.cwy := (rfl)
@[simp] theorem delHeld_cip (h k : Nat) : (s.delHeld h k).cip = s.cip := (rfl)
@[simp] theorem delHeld_dma (h k : Nat) : (s.delHeld h k).dma = s.dma := (rfl)
@[simp] theorem delHeld_mbx (h k : Nat) : (s.delHeld h k).mbx = s.mbx := (rfl)
@[simp] theorem delHeld_pwr (h k : Nat) : (s.delHeld h k).pwr = s.pwr := (rfl)
@[simp] theorem delHeld_sea (h k : Nat) : (s.delHeld h k).sea = s.sea := (rfl)
@[simp] theorem delHeld_upd (h k : Nat) : (s.delHeld h k).upd = s.upd := (rfl)
@[simp] theorem delHeld_cus (h k : Nat) : (s.delHeld h k).cus = s.cus := (rfl)
@[simp] theorem delHeld_clk (h k : Nat) : (s.delHeld h k).clk = s.clk := (rfl)
@[simp] theorem delHeld_boot (h k : Nat) : (s.delHeld h k).boot = s.boot := (rfl)
@[simp] theorem delHeld_tmon (h k : Nat) : (s.delHeld h k).tmon = s.tmon := (rfl)

/-! ### putLink -/

@[simp] theorem putLink_pending (l : Nat) (v : LinkState) : (s.putLink l v).pending = s.pending := (rfl)
@[simp] theorem putLink_regs (l : Nat) (v : LinkState) : (s.putLink l v).regs = s.regs := (rfl)
@[simp] theorem putLink_free (l : Nat) (v : LinkState) : (s.putLink l v).free = s.free := (rfl)
@[simp] theorem putLink_readData (l : Nat) (v : LinkState) : (s.putLink l v).readData = s.readData := (rfl)
@[simp] theorem putLink_out (l : Nat) (v : LinkState) : (s.putLink l v).out = s.out := (rfl)
@[simp] theorem putLink_glb (l : Nat) (v : LinkState) : (s.putLink l v).glb = s.glb := (rfl)
@[simp] theorem putLink_peat (l : Nat) (v : LinkState) : (s.putLink l v).peat = s.peat := (rfl)
@[simp] theorem putLink_cfg (l : Nat) (v : LinkState) : (s.putLink l v).cfg = s.cfg := (rfl)
@[simp] theorem putLink_life (l : Nat) (v : LinkState) : (s.putLink l v).life = s.life := (rfl)
@[simp] theorem putLink_ret (l : Nat) (v : LinkState) : (s.putLink l v).ret = s.ret := (rfl)
@[simp] theorem putLink_map (l : Nat) (v : LinkState) : (s.putLink l v).map = s.map := (rfl)
@[simp] theorem putLink_fen (l : Nat) (v : LinkState) : (s.putLink l v).fen = s.fen := (rfl)
@[simp] theorem putLink_ldpc (l : Nat) (v : LinkState) : (s.putLink l v).ldpc = s.ldpc := (rfl)
@[simp] theorem putLink_hew (l : Nat) (v : LinkState) : (s.putLink l v).hew = s.hew := (rfl)
@[simp] theorem putLink_ucs (l : Nat) (v : LinkState) : (s.putLink l v).ucs = s.ucs := (rfl)
@[simp] theorem putLink_mere (l : Nat) (v : LinkState) : (s.putLink l v).mere = s.mere := (rfl)
@[simp] theorem putLink_nvq (l : Nat) (v : LinkState) : (s.putLink l v).nvq = s.nvq := (rfl)
@[simp] theorem putLink_slu (l : Nat) (v : LinkState) : (s.putLink l v).slu = s.slu := (rfl)
@[simp] theorem putLink_hif (l : Nat) (v : LinkState) : (s.putLink l v).hif = s.hif := (rfl)
@[simp] theorem putLink_fab (l : Nat) (v : LinkState) : (s.putLink l v).fab = s.fab := (rfl)
@[simp] theorem putLink_cwy (l : Nat) (v : LinkState) : (s.putLink l v).cwy = s.cwy := (rfl)
@[simp] theorem putLink_cip (l : Nat) (v : LinkState) : (s.putLink l v).cip = s.cip := (rfl)
@[simp] theorem putLink_dma (l : Nat) (v : LinkState) : (s.putLink l v).dma = s.dma := (rfl)
@[simp] theorem putLink_mbx (l : Nat) (v : LinkState) : (s.putLink l v).mbx = s.mbx := (rfl)
@[simp] theorem putLink_pwr (l : Nat) (v : LinkState) : (s.putLink l v).pwr = s.pwr := (rfl)
@[simp] theorem putLink_sea (l : Nat) (v : LinkState) : (s.putLink l v).sea = s.sea := (rfl)
@[simp] theorem putLink_upd (l : Nat) (v : LinkState) : (s.putLink l v).upd = s.upd := (rfl)
@[simp] theorem putLink_cus (l : Nat) (v : LinkState) : (s.putLink l v).cus = s.cus := (rfl)
@[simp] theorem putLink_clk (l : Nat) (v : LinkState) : (s.putLink l v).clk = s.clk := (rfl)
@[simp] theorem putLink_boot (l : Nat) (v : LinkState) : (s.putLink l v).boot = s.boot := (rfl)
@[simp] theorem putLink_tmon (l : Nat) (v : LinkState) : (s.putLink l v).tmon = s.tmon := (rfl)

/-! ### putBlock -/

@[simp] theorem putBlock_pending (l b : Nat) (v : Block) : (s.putBlock l b v).pending = s.pending := (rfl)
@[simp] theorem putBlock_regs (l b : Nat) (v : Block) : (s.putBlock l b v).regs = s.regs := (rfl)
@[simp] theorem putBlock_free (l b : Nat) (v : Block) : (s.putBlock l b v).free = s.free := (rfl)
@[simp] theorem putBlock_readData (l b : Nat) (v : Block) : (s.putBlock l b v).readData = s.readData := (rfl)
@[simp] theorem putBlock_out (l b : Nat) (v : Block) : (s.putBlock l b v).out = s.out := (rfl)
@[simp] theorem putBlock_glb (l b : Nat) (v : Block) : (s.putBlock l b v).glb = s.glb := (rfl)
@[simp] theorem putBlock_peat (l b : Nat) (v : Block) : (s.putBlock l b v).peat = s.peat := (rfl)
@[simp] theorem putBlock_cfg (l b : Nat) (v : Block) : (s.putBlock l b v).cfg = s.cfg := (rfl)
@[simp] theorem putBlock_life (l b : Nat) (v : Block) : (s.putBlock l b v).life = s.life := (rfl)
@[simp] theorem putBlock_ret (l b : Nat) (v : Block) : (s.putBlock l b v).ret = s.ret := (rfl)
@[simp] theorem putBlock_fen (l b : Nat) (v : Block) : (s.putBlock l b v).fen = s.fen := (rfl)
@[simp] theorem putBlock_ldpc (l b : Nat) (v : Block) : (s.putBlock l b v).ldpc = s.ldpc := (rfl)
@[simp] theorem putBlock_hew (l b : Nat) (v : Block) : (s.putBlock l b v).hew = s.hew := (rfl)
@[simp] theorem putBlock_ucs (l b : Nat) (v : Block) : (s.putBlock l b v).ucs = s.ucs := (rfl)
@[simp] theorem putBlock_seam (l b : Nat) (v : Block) : (s.putBlock l b v).seam = s.seam := (rfl)
@[simp] theorem putBlock_mere (l b : Nat) (v : Block) : (s.putBlock l b v).mere = s.mere := (rfl)
@[simp] theorem putBlock_nvq (l b : Nat) (v : Block) : (s.putBlock l b v).nvq = s.nvq := (rfl)
@[simp] theorem putBlock_slu (l b : Nat) (v : Block) : (s.putBlock l b v).slu = s.slu := (rfl)
@[simp] theorem putBlock_hif (l b : Nat) (v : Block) : (s.putBlock l b v).hif = s.hif := (rfl)
@[simp] theorem putBlock_fab (l b : Nat) (v : Block) : (s.putBlock l b v).fab = s.fab := (rfl)
@[simp] theorem putBlock_cwy (l b : Nat) (v : Block) : (s.putBlock l b v).cwy = s.cwy := (rfl)
@[simp] theorem putBlock_cip (l b : Nat) (v : Block) : (s.putBlock l b v).cip = s.cip := (rfl)
@[simp] theorem putBlock_dma (l b : Nat) (v : Block) : (s.putBlock l b v).dma = s.dma := (rfl)
@[simp] theorem putBlock_mbx (l b : Nat) (v : Block) : (s.putBlock l b v).mbx = s.mbx := (rfl)
@[simp] theorem putBlock_pwr (l b : Nat) (v : Block) : (s.putBlock l b v).pwr = s.pwr := (rfl)
@[simp] theorem putBlock_sea (l b : Nat) (v : Block) : (s.putBlock l b v).sea = s.sea := (rfl)
@[simp] theorem putBlock_upd (l b : Nat) (v : Block) : (s.putBlock l b v).upd = s.upd := (rfl)
@[simp] theorem putBlock_cus (l b : Nat) (v : Block) : (s.putBlock l b v).cus = s.cus := (rfl)
@[simp] theorem putBlock_clk (l b : Nat) (v : Block) : (s.putBlock l b v).clk = s.clk := (rfl)
@[simp] theorem putBlock_boot (l b : Nat) (v : Block) : (s.putBlock l b v).boot = s.boot := (rfl)
@[simp] theorem putBlock_tmon (l b : Nat) (v : Block) : (s.putBlock l b v).tmon = s.tmon := (rfl)

/-! ### What an update changes -/

@[simp] theorem begin_out : s.begin.out = [] := rfl
@[simp] theorem emit_out (o : Out) : (s.emit o).out = s.out ++ [o] := rfl
@[simp] theorem answer_readData (v : Nat) : (s.answer v).readData = BitVec.ofNat 32 v := rfl
@[simp] theorem drawn_free : s.drawn.free = s.free + 1 := rfl
@[simp] theorem setCore_core (c : MapCore) : (s.setCore c).map.core = c := rfl

/-- A register field reads what was stored, cut to its width. -/
@[simp] theorem rd_wr_same (f : Field) (v i : Nat) : (s.wr f v i).rd f i = v % 2 ^ f.width := Tab.get_set_same

/-- A write leaves every field that stands at another place. -/
theorem rd_wr_ne (f g : Field) (v i j : Nat) (h : f.key i ≠ g.key j) : (s.wr f v i).rd g j = s.rd g j :=
  congrArg (Option.getD · g.reset) (Tab.find_set_ne h)

theorem rd_wrB_same (f : Field) (b : Bool) (i : Nat) (h : 0 < f.width) : (s.wrB f b i).rd f i = b2n b := by
  have : 1 < 2 ^ f.width := Nat.one_lt_two_pow (Nat.ne_of_gt h)
  refine (rd_wr_same ..).trans (Nat.mod_eq_of_lt ?_)
  cases b
  · exact Nat.lt_of_lt_of_le Nat.zero_lt_one (Nat.le_of_lt this)
  · exact this

/-- A counter field counts, saturating at all ones (R10). -/
theorem rd_count_same (f : Field) (n i : Nat) : (s.count f n i).rd f i = min (2 ^ f.width - 1) (s.rd f i + n) := by
  have : 0 < 2 ^ f.width := Nat.two_pow_pos _
  simp only [count, rd_wr_same]
  exact Nat.mod_eq_of_lt (by omega)

@[simp] theorem rd_begin (f : Field) (i : Nat) : s.begin.rd f i = s.rd f i := rfl
@[simp] theorem rd_emit (o : Out) (f : Field) (i : Nat) : (s.emit o).rd f i = s.rd f i := rfl
@[simp] theorem rd_answer (v : Nat) (f : Field) (i : Nat) : (s.answer v).rd f i = s.rd f i := rfl

theorem rd_congr {s t : State} (h : t.regs = s.regs) (f : Field) (i : Nat) : t.rd f i = s.rd f i := by
  unfold rd; rw [h]

/-- A record that was put is found. -/
@[simp] theorem putCtrl_ctrl (c : Nat) (v : Ctrl) : (s.putCtrl c v).ctrl? c = some v := Tab.find_put_same
@[simp] theorem putSlot_slot (n : Nat) (v : Cmd) : (s.putSlot n v).slot? n = some v := Tab.find_put_same
@[simp] theorem delSlot_slot (n : Nat) : (s.delSlot n).slot? n = none := Tab.find_del_same
@[simp] theorem putNs_ns (n : Nat) (v : Namespace) : (s.putNs n v).ns? n = some v := Tab.find_put_same
@[simp] theorem putHeld_held (h k : Nat) (v : Held) : (s.putHeld h k v).held? h k = some v := Tab.find_put_same
@[simp] theorem putLink_link (l : Nat) (v : LinkState) : (s.putLink l v).link l = v := Tab.get_set_same
@[simp] theorem putBlock_block (l b : Nat) (v : Block) : (s.putBlock l b v).block l b = v := Tab.get_set_same

/-! ### A command slot after its finish -/

theorem finishCmd_slot {n : Nat} {c : Cmd} (h : s.slot? n = some c) (status d0 d1 : Nat) :
    (finishCmd n status d0 d1 s).slot? n = some { c with
      state := .finished, status := status, dw0 := d0 % 2 ^ 32, dw1 := d1 % 2 ^ 32, order := s.nvq.finish, waits := false } := by
  unfold finishCmd; rw [h]; exact putSlot_slot ..

@[simp] theorem finishCmd_regs (n status d0 d1 : Nat) : (finishCmd n status d0 d1 s).regs = s.regs := by
  unfold finishCmd; split <;> rfl

end Sys2Proof.Machine.State
end

