-- ==== Sys2Proof/Laws/Shared.lean ====
section
/-! SUPPORT. What the operations that every block shares can do, said once: which fields of the state each replaces, and which
registers (by the MiB of the window that they lie in) it writes. -/

namespace Sys2Proof.Machine

open Sys2Proof

theorem SameOutside.refl (ms : List Nat) (r : Tab Nat) : SameOutside ms r r := fun _ _ => rfl

theorem SameOutside.trans {ms : List Nat} {r t u : Tab Nat} (h : SameOutside ms r t) (g : SameOutside ms t u) :
    SameOutside ms r u := fun k hk => (g k hk).trans (h k hk)

theorem SameOutside.mono {ms ns : List Nat} {r t : Tab Nat} (h : SameOutside ms r t) (hs : ∀ m ∈ ms, m ∈ ns) :
    SameOutside ns r t := fun k hk => h k (fun hm => hk (hs _ hm))

theorem SameOutside.wr {ms : List Nat} (s : State) (f : Field) (v i : Nat) (h : f.mib i ∈ ms) :
    SameOutside ms s.regs (s.wr f v i).regs := fun k hk => Tab.find_set_ne (fun e => hk (by rw [← e]; exact h))

/-- A field that lies outside reads as before. -/
theorem SameOutside.rd {ms : List Nat} {s t : State} (h : SameOutside ms s.regs t.regs) (f : Field) (i : Nat) (hf : f.mib i ∉ ms) :
    t.rd f i = s.rd f i := congrArg (Option.getD · f.reset) (h _ hf)

/-! ### The Peat log -/

theorem peatNote_only (s : State) : ∃ r, peatNote s = { s with regs := r } ∧ SameOutside [0x90] s.regs r := by
  unfold peatNote; split
  · exact ⟨_, rfl, (SameOutside.wr s F.PEAT_STAT_DROPPING 1 0 (by decide)).trans (SameOutside.wr _ F.PEAT_EVT_DROP 1 0 (by decide))⟩
  · exact ⟨_, rfl, SameOutside.refl _ _⟩

theorem peatWrite_only (s : State) (code source arg aux sev supp : Nat) :
    ∃ p, peatWrite s code source arg aux sev supp = { s with free := s.free + 1, peat := p } := by
  unfold peatWrite; dsimp only; split <;> exact ⟨_, rfl⟩

/-- A Peat event touches the log and the PEAT registers, and may draw a free value. -/
theorem peatRecord_only (code source arg aux : Nat) (s : State) :
    ∃ r f p, peatRecord code source arg aux s = { s with regs := r, free := f, peat := p } ∧ SameOutside [0x90] s.regs r := by
  unfold peatRecord; split
  · exact ⟨_, _, _, rfl, SameOutside.refl _ _⟩
  · obtain ⟨r, h, hr⟩ := peatNote_only s
    dsimp only; rw [h]; split
    · refine ⟨_, _, _, rfl, hr.trans ?_⟩
      exact SameOutside.wr { s with regs := r, peat := _ } F.PEAT_CNT_DROP_COUNT _ 0 (by decide)
    · split
      · obtain ⟨p, e⟩ := peatWrite_only { s with regs := r } code source arg aux _ 0
        exact ⟨_, _, _, e, hr⟩
      · split
        · exact ⟨_, _, _, rfl, hr⟩
        · obtain ⟨p, e⟩ := peatWrite_only _ code source arg aux _ _
          exact ⟨_, _, _, e, hr⟩

theorem accessViolation_only (p : AccessPath) (off : Nat) (s : State) :
    ∃ r f x, accessViolation p off s = { s with regs := r, free := f, peat := x } ∧ SameOutside [0x90] s.regs r :=
  peatRecord_only ..

/-! ### The fault summary -/

theorem sumBits_only (ms : List Nat) (l : List (Field × Bool)) (h : ∀ e ∈ l, e.1.mib 0 ∈ ms) (s : State) :
    ∃ r, sumBits l s = { s with regs := r } ∧ SameOutside ms s.regs r := by
  unfold sumBits
  induction l generalizing s with
  | nil => exact ⟨_, rfl, SameOutside.refl _ _⟩
  | cons e l ih =>
    obtain ⟨r, hr, hs⟩ := ih (fun e he => h e (List.mem_cons_of_mem _ he)) (s.wrB e.1 e.2)
    exact ⟨r, hr, (SameOutside.wr s e.1 _ 0 (h e (List.mem_cons_self ..))).trans hs⟩

theorem faultSumFields_mib : ∀ f ∈ faultSumFields, f.mib 0 ∈ [0] := by decide

theorem glbStore_only (s : State) : ∃ r g, glbStore s = { s with regs := r, glb := g } ∧ SameOutside [0] s.regs r := by
  unfold glbStore; dsimp only
  obtain ⟨r, e, hr⟩ := sumBits_only [0] (faultSumFields.zip (faultBits s))
    (fun e he => faultSumFields_mib _ (List.of_mem_zip he).1)
    ((s.wr F.GLB_FAULT_EVT_EVT (s.rd F.GLB_FAULT_EVT_EVT ||| faultEdges (faultSumStored s) (faultBits s))).wr F.GLB_FAULT_SUM_BENCH
      (topBench s))
  rw [e]
  exact ⟨r, _, rfl, ((SameOutside.wr s _ _ 0 (by decide)).trans (SameOutside.wr _ _ _ 0 (by decide))).trans hr⟩

/-- The summary touches its own registers and its pin. -/
theorem glbRefresh_only (s : State) : ∃ r g, glbRefresh s = { s with regs := r, glb := g } ∧ SameOutside [0] s.regs r := by
  unfold glbRefresh; split
  · exact glbStore_only s
  · obtain ⟨r, g, h, hr⟩ := glbStore_only { s with glb := { s.glb with shortened := false } }
    exact ⟨r, g, h, hr⟩

/-! ### Commands and events -/

theorem finishCmd_only (n status d0 d1 : Nat) (s : State) : ∃ v, finishCmd n status d0 d1 s = { s with nvq := v } := by
  unfold finishCmd; split <;> exact ⟨_, rfl⟩

theorem aenPost_only (c type info page : Nat) (s : State) : ∃ v o, aenPost c type info page s = { s with nvq := v, out := o } := by
  unfold aenPost; split
  · exact ⟨_, _, rfl⟩
  · split
    · exact ⟨_, _, rfl⟩
    · dsimp only; split
      · exact ⟨_, _, rfl⟩
      · obtain ⟨v, h⟩ := finishCmd_only _ scOk (aenWord type info page) 0 (State.putCtrl (s.emit (.asyncEvent c type info page)) c _)
        exact ⟨_, _, h⟩

theorem eachOf_nvq {α : Type} (l : List α) (f : α → State → State) (h : ∀ a s, ∃ v o, f a s = { s with nvq := v, out := o })
    (s : State) : ∃ v o, eachOf l f s = { s with nvq := v, out := o } := by
  unfold eachOf
  induction l generalizing s with
  | nil => exact ⟨_, _, rfl⟩
  | cons a l ih =>
    obtain ⟨v, o, e⟩ := h a s
    obtain ⟨v', o', e'⟩ := ih { s with nvq := v, out := o }
    exact ⟨v', o', by rw [List.foldl_cons, e, e']⟩

theorem vendorNotice_only (s : State) : ∃ v o, vendorNotice s = { s with nvq := v, out := o } :=
  eachOf_nvq _ _ (fun _ _ => aenPost_only ..) s

/-! ### Faults -/

/-- A fault absorbed touches the log, the summary, the notices and the lifetime counters, nothing else. -/
theorem faultAbsorbed_only (bit unit : Nat) (s : State) :
    ∃ r f p g v o x, faultAbsorbed bit unit s = { s with regs := r, free := f, peat := p, glb := g, nvq := v, out := o, ret := x } ∧
      SameOutside [0, 0x90] s.regs r := by
  unfold faultAbsorbed; dsimp only
  obtain ⟨r, f, p, e, hr⟩ := peatRecord_only 0x0002 bit unit 0 s
  rw [e]
  have h2 : ∀ x : State, ∃ g, (if restoring x then { x with glb := { x.glb with shortened := true } } else x) = { x with glb := g } :=
    fun x => by split <;> exact ⟨_, rfl⟩
  obtain ⟨g, e2⟩ := h2 { s with regs := r, free := f, peat := p }
  rw [e2]
  obtain ⟨v, o, e3⟩ := vendorNotice_only (healthAdd (100 + bit) 1 { s with regs := r, free := f, peat := p, glb := g })
  rw [e3]
  obtain ⟨r', g', e4, hr'⟩ := glbRefresh_only
    { healthAdd (100 + bit) 1 { s with regs := r, free := f, peat := p, glb := g } with nvq := v, out := o }
  exact ⟨r', f, p, g', v, o, _, e4, (hr.mono (by simp)).trans (hr'.mono (by simp))⟩

theorem faultRestored_only (bit unit : Nat) (s : State) :
    ∃ r f p g, faultRestored bit unit s = { s with regs := r, free := f, peat := p, glb := g } ∧ SameOutside [0, 0x90] s.regs r := by
  unfold faultRestored
  obtain ⟨r, f, p, e, hr⟩ := peatRecord_only 0x0003 bit unit 0 s
  rw [e]
  obtain ⟨r', g', e4, hr'⟩ := glbRefresh_only { s with regs := r, free := f, peat := p }
  exact ⟨r', f, p, g', e4, (hr.mono (by simp)).trans (hr'.mono (by simp))⟩

end Sys2Proof.Machine
end

