-- ==== Sys2Proof/Laws/SharedFields.lean ====
section
/-! SUPPORT. What the shared operations leave alone, field by field: the equations that let a proof read a field of the state
through a Peat entry, a fault, a notice or the fault summary. -/

namespace Sys2Proof.Machine

open Sys2Proof

@[simp] theorem peatRecord_pending (code source arg aux : Nat) (s : State) : (peatRecord code source arg aux s).pending = s.pending := by
  obtain ⟨_, _, _, h, _⟩ := peatRecord_only code source arg aux s; rw [h]
@[simp] theorem peatRecord_readData (code source arg aux : Nat) (s : State) : (peatRecord code source arg aux s).readData = s.readData := by
  obtain ⟨_, _, _, h, _⟩ := peatRecord_only code source arg aux s; rw [h]
@[simp] theorem peatRecord_out (code source arg aux : Nat) (s : State) : (peatRecord code source arg aux s).out = s.out := by
  obtain ⟨_, _, _, h, _⟩ := peatRecord_only code source arg aux s; rw [h]
@[simp] theorem peatRecord_glb (code source arg aux : Nat) (s : State) : (peatRecord code source arg aux s).glb = s.glb := by
  obtain ⟨_, _, _, h, _⟩ := peatRecord_only code source arg aux s; rw [h]
@[simp] theorem peatRecord_cfg (code source arg aux : Nat) (s : State) : (peatRecord code source arg aux s).cfg = s.cfg := by
  obtain ⟨_, _, _, h, _⟩ := peatRecord_only code source arg aux s; rw [h]
@[simp] theorem peatRecord_life (code source arg aux : Nat) (s : State) : (peatRecord code source arg aux s).life = s.life := by
  obtain ⟨_, _, _, h, _⟩ := peatRecord_only code source arg aux s; rw [h]
@[simp] theorem peatRecord_ret (code source arg aux : Nat) (s : State) : (peatRecord code source arg aux s).ret = s.ret := by
  obtain ⟨_, _, _, h, _⟩ := peatRecord_only code source arg aux s; rw [h]
@[simp] theorem peatRecord_map (code source arg aux : Nat) (s : State) : (peatRecord code source arg aux s).map = s.map := by
  obtain ⟨_, _, _, h, _⟩ := peatRecord_only code source arg aux s; rw [h]
@[simp] theorem peatRecord_fen (code source arg aux : Nat) (s : State) : (peatRecord code source arg aux s).fen = s.fen := by
  obtain ⟨_, _, _, h, _⟩ := peatRecord_only code source arg aux s; rw [h]
@[simp] theorem peatRecord_ldpc (code source arg aux : Nat) (s : State) : (peatRecord code source arg aux s).ldpc = s.ldpc := by
  obtain ⟨_, _, _, h, _⟩ := peatRecord_only code source arg aux s; rw [h]
@[simp] theorem peatRecord_hew (code source arg aux : Nat) (s : State) : (peatRecord code source arg aux s).hew = s.hew := by
  obtain ⟨_, _, _, h, _⟩ := peatRecord_only code source arg aux s; rw [h]
@[simp] theorem peatRecord_ucs (code source arg aux : Nat) (s : State) : (peatRecord code source arg aux s).ucs = s.ucs := by
  obtain ⟨_, _, _, h, _⟩ := peatRecord_only code source arg aux s; rw [h]
@[simp] theorem peatRecord_seam (code source arg aux : Nat) (s : State) : (peatRecord code source arg aux s).seam = s.seam := by
  obtain ⟨_, _, _, h, _⟩ := peatRecord_only code source arg aux s; rw [h]
@[simp] theorem peatRecord_mere (code source arg aux : Nat) (s : State) : (peatRecord code source arg aux s).mere = s.mere := by
  obtain ⟨_, _, _, h, _⟩ := peatRecord_only code source arg aux s; rw [h]
@[simp] theorem peatRecord_nvq (code source arg aux : Nat) (s : State) : (peatRecord code source arg aux s).nvq = s.nvq := by
  obtain ⟨_, _, _, h, _⟩ := peatRecord_only code source arg aux s; rw [h]
@[simp] theorem peatRecord_slu (code source arg aux : Nat) (s : State) : (peatRecord code source arg aux s).slu = s.slu := by
  obtain ⟨_, _, _, h, _⟩ := peatRecord_only code source arg aux s; rw [h]
@[simp] theorem peatRecord_hif (code source arg aux : Nat) (s : State) : (peatRecord code source arg aux s).hif = s.hif := by
  obtain ⟨_, _, _, h, _⟩ := peatRecord_only code source arg aux s; rw [h]
@[simp] theorem peatRecord_fab (code source arg aux : Nat) (s : State) : (peatRecord code source arg aux s).fab = s.fab := by
  obtain ⟨_, _, _, h, _⟩ := peatRecord_only code source arg aux s; rw [h]
@[simp] theorem peatRecord_cwy (code source arg aux : Nat) (s : State) : (peatRecord code source arg aux s).cwy = s.cwy := by
  obtain ⟨_, _, _, h, _⟩ := peatRecord_only code source arg aux s; rw [h]
@[simp] theorem peatRecord_cip (code source arg aux : Nat) (s : State) : (peatRecord code source arg aux s).cip = s.cip := by
  obtain ⟨_, _, _, h, _⟩ := peatRecord_only code source arg aux s; rw [h]
@[simp] theorem peatRecord_dma (code source arg aux : Nat) (s : State) : (peatRecord code source arg aux s).dma = s.dma := by
  obtain ⟨_, _, _, h, _⟩ := peatRecord_only code source arg aux s; rw [h]
@[simp] theorem peatRecord_mbx (code source arg aux : Nat) (s : State) : (peatRecord code source arg aux s).mbx = s.mbx := by
  obtain ⟨_, _, _, h, _⟩ := peatRecord_only code source arg aux s; rw [h]
@[simp] theorem peatRecord_pwr (code source arg aux : Nat) (s : State) : (peatRecord code source arg aux s).pwr = s.pwr := by
  obtain ⟨_, _, _, h, _⟩ := peatRecord_only code source arg aux s; rw [h]
@[simp] theorem peatRecord_sea (code source arg aux : Nat) (s : State) : (peatRecord code source arg aux s).sea = s.sea := by
  obtain ⟨_, _, _, h, _⟩ := peatRecord_only code source arg aux s; rw [h]
@[simp] theorem peatRecord_upd (code source arg aux : Nat) (s : State) : (peatRecord code source arg aux s).upd = s.upd := by
  obtain ⟨_, _, _, h, _⟩ := peatRecord_only code source arg aux s; rw [h]
@[simp] theorem peatRecord_cus (code source arg aux : Nat) (s : State) : (peatRecord code source arg aux s).cus = s.cus := by
  obtain ⟨_, _, _, h, _⟩ := peatRecord_only code source arg aux s; rw [h]
@[simp] theorem peatRecord_clk (code source arg aux : Nat) (s : State) : (peatRecord code source arg aux s).clk = s.clk := by
  obtain ⟨_, _, _, h, _⟩ := peatRecord_only code source arg aux s; rw [h]
@[simp] theorem peatRecord_boot (code source arg aux : Nat) (s : State) : (peatRecord code source arg aux s).boot = s.boot := by
  obtain ⟨_, _, _, h, _⟩ := peatRecord_only code source arg aux s; rw [h]
@[simp] theorem peatRecord_tmon (code source arg aux : Nat) (s : State) : (peatRecord code source arg aux s).tmon = s.tmon := by
  obtain ⟨_, _, _, h, _⟩ := peatRecord_only code source arg aux s; rw [h]
theorem peatRecord_outside (code source arg aux : Nat) (s : State) : SameOutside [0x90] s.regs (peatRecord code source arg aux s).regs := by
  obtain ⟨_, _, _, h, hr⟩ := peatRecord_only code source arg aux s; rw [h]; exact hr
theorem peatRecord_rd (code source arg aux : Nat) (s : State) (f : Field) (i : Nat) (hf : f.mib i ∉ [0x90]) : (peatRecord code source arg aux s).rd f i = s.rd f i :=
  (peatRecord_outside code source arg aux s).rd f i hf

@[simp] theorem accessViolation_pending (p : AccessPath) (off : Nat) (s : State) : (accessViolation p off s).pending = s.pending := by
  obtain ⟨_, _, _, h, _⟩ := accessViolation_only p off s; rw [h]
@[simp] theorem accessViolation_readData (p : AccessPath) (off : Nat) (s : State) : (accessViolation p off s).readData = s.readData := by
  obtain ⟨_, _, _, h, _⟩ := accessViolation_only p off s; rw [h]
@[simp] theorem accessViolation_out (p : AccessPath) (off : Nat) (s : State) : (accessViolation p off s).out = s.out := by
  obtain ⟨_, _, _, h, _⟩ := accessViolation_only p off s; rw [h]
@[simp] theorem accessViolation_glb (p : AccessPath) (off : Nat) (s : State) : (accessViolation p off s).glb = s.glb := by
  obtain ⟨_, _, _, h, _⟩ := accessViolation_only p off s; rw [h]
@[simp] theorem accessViolation_cfg (p : AccessPath) (off : Nat) (s : State) : (accessViolation p off s).cfg = s.cfg := by
  obtain ⟨_, _, _, h, _⟩ := accessViolation_only p off s; rw [h]
@[simp] theorem accessViolation_life (p : AccessPath) (off : Nat) (s : State) : (accessViolation p off s).life = s.life := by
  obtain ⟨_, _, _, h, _⟩ := accessViolation_only p off s; rw [h]
@[simp] theorem accessViolation_ret (p : AccessPath) (off : Nat) (s : State) : (accessViolation p off s).ret = s.ret := by
  obtain ⟨_, _, _, h, _⟩ := accessViolation_only p off s; rw [h]
@[simp] theorem accessViolation_map (p : AccessPath) (off : Nat) (s : State) : (accessViolation p off s).map = s.map := by
  obtain ⟨_, _, _, h, _⟩ := accessViolation_only p off s; rw [h]
@[simp] theorem accessViolation_fen (p : AccessPath) (off : Nat) (s : State) : (accessViolation p off s).fen = s.fen := by
  obtain ⟨_, _, _, h, _⟩ := accessViolation_only p off s; rw [h]
@[simp] theorem accessViolation_ldpc (p : AccessPath) (off : Nat) (s : State) : (accessViolation p off s).ldpc = s.ldpc := by
  obtain ⟨_, _, _, h, _⟩ := accessViolation_only p off s; rw [h]
@[simp] theorem accessViolation_hew (p : AccessPath) (off : Nat) (s : State) : (accessViolation p off s).hew = s.hew := by
  obtain ⟨_, _, _, h, _⟩ := accessViolation_only p off s; rw [h]
@[simp] theorem accessViolation_ucs (p : AccessPath) (off : Nat) (s : State) : (accessViolation p off s).ucs = s.ucs := by
  obtain ⟨_, _, _, h, _⟩ := accessViolation_only p off s; rw [h]
@[simp] theorem accessViolation_seam (p : AccessPath) (off : Nat) (s : State) : (accessViolation p off s).seam = s.seam := by
  obtain ⟨_, _, _, h, _⟩ := accessViolation_only p off s; rw [h]
@[simp] theorem accessViolation_mere (p : AccessPath) (off : Nat) (s : State) : (accessViolation p off s).mere = s.mere := by
  obtain ⟨_, _, _, h, _⟩ := accessViolation_only p off s; rw [h]
@[simp] theorem accessViolation_nvq (p : AccessPath) (off : Nat) (s : State) : (accessViolation p off s).nvq = s.nvq := by
  obtain ⟨_, _, _, h, _⟩ := accessViolation_only p off s; rw [h]
@[simp] theorem accessViolation_slu (p : AccessPath) (off : Nat) (s : State) : (accessViolation p off s).slu = s.slu := by
  obtain ⟨_, _, _, h, _⟩ := accessViolation_only p off s; rw [h]
@[simp] theorem accessViolation_hif (p : AccessPath) (off : Nat) (s : State) : (accessViolation p off s).hif = s.hif := by
  obtain ⟨_, _, _, h, _⟩ := accessViolation_only p off s; rw [h]
@[simp] theorem accessViolation_fab (p : AccessPath) (off : Nat) (s : State) : (accessViolation p off s).fab = s.fab := by
  obtain ⟨_, _, _, h, _⟩ := accessViolation_only p off s; rw [h]
@[simp] theorem accessViolation_cwy (p : AccessPath) (off : Nat) (s : State) : (accessViolation p off s).cwy = s.cwy := by
  obtain ⟨_, _, _, h, _⟩ := accessViolation_only p off s; rw [h]
@[simp] theorem accessViolation_cip (p : AccessPath) (off : Nat) (s : State) : (accessViolation p off s).cip = s.cip := by
  obtain ⟨_, _, _, h, _⟩ := accessViolation_only p off s; rw [h]
@[simp] theorem accessViolation_dma (p : AccessPath) (off : Nat) (s : State) : (accessViolation p off s).dma = s.dma := by
  obtain ⟨_, _, _, h, _⟩ := accessViolation_only p off s; rw [h]
@[simp] theorem accessViolation_mbx (p : AccessPath) (off : Nat) (s : State) : (accessViolation p off s).mbx = s.mbx := by
  obtain ⟨_, _, _, h, _⟩ := accessViolation_only p off s; rw [h]
@[simp] theorem accessViolation_pwr (p : AccessPath) (off : Nat) (s : State) : (accessViolation p off s).pwr = s.pwr := by
  obtain ⟨_, _, _, h, _⟩ := accessViolation_only p off s; rw [h]
@[simp] theorem accessViolation_sea (p : AccessPath) (off : Nat) (s : State) : (accessViolation p off s).sea = s.sea := by
  obtain ⟨_, _, _, h, _⟩ := accessViolation_only p off s; rw [h]
@[simp] theorem accessViolation_upd (p : AccessPath) (off : Nat) (s : State) : (accessViolation p off s).upd = s.upd := by
  obtain ⟨_, _, _, h, _⟩ := accessViolation_only p off s; rw [h]
@[simp] theorem accessViolation_cus (p : AccessPath) (off : Nat) (s : State) : (accessViolation p off s).cus = s.cus := by
  obtain ⟨_, _, _, h, _⟩ := accessViolation_only p off s; rw [h]
@[simp] theorem accessViolation_clk (p : AccessPath) (off : Nat) (s : State) : (accessViolation p off s).clk = s.clk := by
  obtain ⟨_, _, _, h, _⟩ := accessViolation_only p off s; rw [h]
@[simp] theorem accessViolation_boot (p : AccessPath) (off : Nat) (s : State) : (accessViolation p off s).boot = s.boot := by
  obtain ⟨_, _, _, h, _⟩ := accessViolation_only p off s; rw [h]
@[simp] theorem accessViolation_tmon (p : AccessPath) (off : Nat) (s : State) : (accessViolation p off s).tmon = s.tmon := by
  obtain ⟨_, _, _, h, _⟩ := accessViolation_only p off s; rw [h]
theorem accessViolation_outside (p : AccessPath) (off : Nat) (s : State) : SameOutside [0x90] s.regs (accessViolation p off s).regs := by
  obtain ⟨_, _, _, h, hr⟩ := accessViolation_only p off s; rw [h]; exact hr
theorem accessViolation_rd (p : AccessPath) (off : Nat) (s : State) (f : Field) (i : Nat) (hf : f.mib i ∉ [0x90]) : (accessViolation p off s).rd f i = s.rd f i :=
  (accessViolation_outside p off s).rd f i hf

@[simp] theorem glbRefresh_pending (s : State) : (glbRefresh s).pending = s.pending := by
  obtain ⟨_, _, h, _⟩ := glbRefresh_only s; rw [h]
@[simp] theorem glbRefresh_free (s : State) : (glbRefresh s).free = s.free := by
  obtain ⟨_, _, h, _⟩ := glbRefresh_only s; rw [h]
@[simp] theorem glbRefresh_readData (s : State) : (glbRefresh s).readData = s.readData := by
  obtain ⟨_, _, h, _⟩ := glbRefresh_only s; rw [h]
@[simp] theorem glbRefresh_out (s : State) : (glbRefresh s).out = s.out := by
  obtain ⟨_, _, h, _⟩ := glbRefresh_only s; rw [h]
@[simp] theorem glbRefresh_peat (s : State) : (glbRefresh s).peat = s.peat := by
  obtain ⟨_, _, h, _⟩ := glbRefresh_only s; rw [h]
@[simp] theorem glbRefresh_cfg (s : State) : (glbRefresh s).cfg = s.cfg := by
  obtain ⟨_, _, h, _⟩ := glbRefresh_only s; rw [h]
@[simp] theorem glbRefresh_life (s : State) : (glbRefresh s).life = s.life := by
  obtain ⟨_, _, h, _⟩ := glbRefresh_only s; rw [h]
@[simp] theorem glbRefresh_ret (s : State) : (glbRefresh s).ret = s.ret := by
  obtain ⟨_, _, h, _⟩ := glbRefresh_only s; rw [h]
@[simp] theorem glbRefresh_map (s : State) : (glbRefresh s).map = s.map := by
  obtain ⟨_, _, h, _⟩ := glbRefresh_only s; rw [h]
@[simp] theorem glbRefresh_fen (s : State) : (glbRefresh s).fen = s.fen := by
  obtain ⟨_, _, h, _⟩ := glbRefresh_only s; rw [h]
@[simp] theorem glbRefresh_ldpc (s : State) : (glbRefresh s).ldpc = s.ldpc := by
  obtain ⟨_, _, h, _⟩ := glbRefresh_only s; rw [h]
@[simp] theorem glbRefresh_hew (s : State) : (glbRefresh s).hew = s.hew := by
  obtain ⟨_, _, h, _⟩ := glbRefresh_only s; rw [h]
@[simp] theorem glbRefresh_ucs (s : State) : (glbRefresh s).ucs = s.ucs := by
  obtain ⟨_, _, h, _⟩ := glbRefresh_only s; rw [h]
@[simp] theorem glbRefresh_seam (s : State) : (glbRefresh s).seam = s.seam := by
  obtain ⟨_, _, h, _⟩ := glbRefresh_only s; rw [h]
@[simp] theorem glbRefresh_mere (s : State) : (glbRefresh s).mere = s.mere := by
  obtain ⟨_, _, h, _⟩ := glbRefresh_only s; rw [h]
@[simp] theorem glbRefresh_nvq (s : State) : (glbRefresh s).nvq = s.nvq := by
  obtain ⟨_, _, h, _⟩ := glbRefresh_only s; rw [h]
@[simp] theorem glbRefresh_slu (s : State) : (glbRefresh s).slu = s.slu := by
  obtain ⟨_, _, h, _⟩ := glbRefresh_only s; rw [h]
@[simp] theorem glbRefresh_hif (s : State) : (glbRefresh s).hif = s.hif := by
  obtain ⟨_, _, h, _⟩ := glbRefresh_only s; rw [h]
@[simp] theorem glbRefresh_fab (s : State) : (glbRefresh s).fab = s.fab := by
  obtain ⟨_, _, h, _⟩ := glbRefresh_only s; rw [h]
@[simp] theorem glbRefresh_cwy (s : State) : (glbRefresh s).cwy = s.cwy := by
  obtain ⟨_, _, h, _⟩ := glbRefresh_only s; rw [h]
@[simp] theorem glbRefresh_cip (s : State) : (glbRefresh s).cip = s.cip := by
  obtain ⟨_, _, h, _⟩ := glbRefresh_only s; rw [h]
@[simp] theorem glbRefresh_dma (s : State) : (glbRefresh s).dma = s.dma := by
  obtain ⟨_, _, h, _⟩ := glbRefresh_only s; rw [h]
@[simp] theorem glbRefresh_mbx (s : State) : (glbRefresh s).mbx = s.mbx := by
  obtain ⟨_, _, h, _⟩ := glbRefresh_only s; rw [h]
@[simp] theorem glbRefresh_pwr (s : State) : (glbRefresh s).pwr = s.pwr := by
  obtain ⟨_, _, h, _⟩ := glbRefresh_only s; rw [h]
@[simp] theorem glbRefresh_sea (s : State) : (glbRefresh s).sea = s.sea := by
  obtain ⟨_, _, h, _⟩ := glbRefresh_only s; rw [h]
@[simp] theorem glbRefresh_upd (s : State) : (glbRefresh s).upd = s.upd := by
  obtain ⟨_, _, h, _⟩ := glbRefresh_only s; rw [h]
@[simp] theorem glbRefresh_cus (s : State) : (glbRefresh s).cus = s.cus := by
  obtain ⟨_, _, h, _⟩ := glbRefresh_only s; rw [h]
@[simp] theorem glbRefresh_clk (s : State) : (glbRefresh s).clk = s.clk := by
  obtain ⟨_, _, h, _⟩ := glbRefresh_only s; rw [h]
@[simp] theorem glbRefresh_boot (s : State) : (glbRefresh s).boot = s.boot := by
  obtain ⟨_, _, h, _⟩ := glbRefresh_only s; rw [h]
@[simp] theorem glbRefresh_tmon (s : State) : (glbRefresh s).tmon = s.tmon := by
  obtain ⟨_, _, h, _⟩ := glbRefresh_only s; rw [h]
theorem glbRefresh_outside (s : State) : SameOutside [0x0] s.regs (glbRefresh s).regs := by
  obtain ⟨_, _, h, hr⟩ := glbRefresh_only s; rw [h]; exact hr
theorem glbRefresh_rd (s : State) (f : Field) (i : Nat) (hf : f.mib i ∉ [0x0]) : (glbRefresh s).rd f i = s.rd f i :=
  (glbRefresh_outside s).rd f i hf

@[simp] theorem finishCmd_pending (n status d0 d1 : Nat) (s : State) : (finishCmd n status d0 d1 s).pending = s.pending := by
  obtain ⟨_, h⟩ := finishCmd_only n status d0 d1 s; rw [h]
@[simp] theorem finishCmd_regs (n status d0 d1 : Nat) (s : State) : (finishCmd n status d0 d1 s).regs = s.regs := by
  obtain ⟨_, h⟩ := finishCmd_only n status d0 d1 s; rw [h]
@[simp] theorem finishCmd_free (n status d0 d1 : Nat) (s : State) : (finishCmd n status d0 d1 s).free = s.free := by
  obtain ⟨_, h⟩ := finishCmd_only n status d0 d1 s; rw [h]
@[simp] theorem finishCmd_readData (n status d0 d1 : Nat) (s : State) : (finishCmd n status d0 d1 s).readData = s.readData := by
  obtain ⟨_, h⟩ := finishCmd_only n status d0 d1 s; rw [h]
@[simp] theorem finishCmd_out (n status d0 d1 : Nat) (s : State) : (finishCmd n status d0 d1 s).out = s.out := by
  obtain ⟨_, h⟩ := finishCmd_only n status d0 d1 s; rw [h]
@[simp] theorem finishCmd_glb (n status d0 d1 : Nat) (s : State) : (finishCmd n status d0 d1 s).glb = s.glb := by
  obtain ⟨_, h⟩ := finishCmd_only n status d0 d1 s; rw [h]
@[simp] theorem finishCmd_peat (n status d0 d1 : Nat) (s : State) : (finishCmd n status d0 d1 s).peat = s.peat := by
  obtain ⟨_, h⟩ := finishCmd_only n status d0 d1 s; rw [h]
@[simp] theorem finishCmd_cfg (n status d0 d1 : Nat) (s : State) : (finishCmd n status d0 d1 s).cfg = s.cfg := by
  obtain ⟨_, h⟩ := finishCmd_only n status d0 d1 s; rw [h]
@[simp] theorem finishCmd_life (n status d0 d1 : Nat) (s : State) : (finishCmd n status d0 d1 s).life = s.life := by
  obtain ⟨_, h⟩ := finishCmd_only n status d0 d1 s; rw [h]
@[simp] theorem finishCmd_ret (n status d0 d1 : Nat) (s : State) : (finishCmd n status d0 d1 s).ret = s.ret := by
  obtain ⟨_, h⟩ := finishCmd_only n status d0 d1 s; rw [h]
@[simp] theorem finishCmd_map (n status d0 d1 : Nat) (s : State) : (finishCmd n status d0 d1 s).map = s.map := by
  obtain ⟨_, h⟩ := finishCmd_only n status d0 d1 s; rw [h]
@[simp] theorem finishCmd_fen (n status d0 d1 : Nat) (s : State) : (finishCmd n status d0 d1 s).fen = s.fen := by
  obtain ⟨_, h⟩ := finishCmd_only n status d0 d1 s; rw [h]
@[simp] theorem finishCmd_ldpc (n status d0 d1 : Nat) (s : State) : (finishCmd n status d0 d1 s).ldpc = s.ldpc := by
  obtain ⟨_, h⟩ := finishCmd_only n status d0 d1 s; rw [h]
@[simp] theorem finishCmd_hew (n status d0 d1 : Nat) (s : State) : (finishCmd n status d0 d1 s).hew = s.hew := by
  obtain ⟨_, h⟩ := finishCmd_only n status d0 d1 s; rw [h]
@[simp] theorem finishCmd_ucs (n status d0 d1 : Nat) (s : State) : (finishCmd n status d0 d1 s).ucs = s.ucs := by
  obtain ⟨_, h⟩ := finishCmd_only n status d0 d1 s; rw [h]
@[simp] theorem finishCmd_seam (n status d0 d1 : Nat) (s : State) : (finishCmd n status d0 d1 s).seam = s.seam := by
  obtain ⟨_, h⟩ := finishCmd_only n status d0 d1 s; rw [h]
@[simp] theorem finishCmd_mere (n status d0 d1 : Nat) (s : State) : (finishCmd n status d0 d1 s).mere = s.mere := by
  obtain ⟨_, h⟩ := finishCmd_only n status d0 d1 s; rw [h]
@[simp] theorem finishCmd_slu (n status d0 d1 : Nat) (s : State) : (finishCmd n status d0 d1 s).slu = s.slu := by
  obtain ⟨_, h⟩ := finishCmd_only n status d0 d1 s; rw [h]
@[simp] theorem finishCmd_hif (n status d0 d1 : Nat) (s : State) : (finishCmd n status d0 d1 s).hif = s.hif := by
  obtain ⟨_, h⟩ := finishCmd_only n status d0 d1 s; rw [h]
@[simp] theorem finishCmd_fab (n status d0 d1 : Nat) (s : State) : (finishCmd n status d0 d1 s).fab = s.fab := by
  obtain ⟨_, h⟩ := finishCmd_only n status d0 d1 s; rw [h]
@[simp] theorem finishCmd_cwy (n status d0 d1 : Nat) (s : State) : (finishCmd n status d0 d1 s).cwy = s.cwy := by
  obtain ⟨_, h⟩ := finishCmd_only n status d0 d1 s; rw [h]
@[simp] theorem finishCmd_cip (n status d0 d1 : Nat) (s : State) : (finishCmd n status d0 d1 s).cip = s.cip := by
  obtain ⟨_, h⟩ := finishCmd_only n status d0 d1 s; rw [h]
@[simp] theorem finishCmd_dma (n status d0 d1 : Nat) (s : State) : (finishCmd n status d0 d1 s).dma = s.dma := by
  obtain ⟨_, h⟩ := finishCmd_only n status d0 d1 s; rw [h]
@[simp] theorem finishCmd_mbx (n status d0 d1 : Nat) (s : State) : (finishCmd n status d0 d1 s).mbx = s.mbx := by
  obtain ⟨_, h⟩ := finishCmd_only n status d0 d1 s; rw [h]
@[simp] theorem finishCmd_pwr (n status d0 d1 : Nat) (s : State) : (finishCmd n status d0 d1 s).pwr = s.pwr := by
  obtain ⟨_, h⟩ := finishCmd_only n status d0 d1 s; rw [h]
@[simp] theorem finishCmd_sea (n status d0 d1 : Nat) (s : State) : (finishCmd n status d0 d1 s).sea = s.sea := by
  obtain ⟨_, h⟩ := finishCmd_only n status d0 d1 s; rw [h]
@[simp] theorem finishCmd_upd (n status d0 d1 : Nat) (s : State) : (finishCmd n status d0 d1 s).upd = s.upd := by
  obtain ⟨_, h⟩ := finishCmd_only n status d0 d1 s; rw [h]
@[simp] theorem finishCmd_cus (n status d0 d1 : Nat) (s : State) : (finishCmd n status d0 d1 s).cus = s.cus := by
  obtain ⟨_, h⟩ := finishCmd_only n status d0 d1 s; rw [h]
@[simp] theorem finishCmd_clk (n status d0 d1 : Nat) (s : State) : (finishCmd n status d0 d1 s).clk = s.clk := by
  obtain ⟨_, h⟩ := finishCmd_only n status d0 d1 s; rw [h]
@[simp] theorem finishCmd_boot (n status d0 d1 : Nat) (s : State) : (finishCmd n status d0 d1 s).boot = s.boot := by
  obtain ⟨_, h⟩ := finishCmd_only n status d0 d1 s; rw [h]
@[simp] theorem finishCmd_tmon (n status d0 d1 : Nat) (s : State) : (finishCmd n status d0 d1 s).tmon = s.tmon := by
  obtain ⟨_, h⟩ := finishCmd_only n status d0 d1 s; rw [h]
@[simp] theorem finishCmd_rd (n status d0 d1 : Nat) (s : State) (f : Field) (i : Nat) : (finishCmd n status d0 d1 s).rd f i = s.rd f i := State.rd_congr (finishCmd_regs n status d0 d1 s) f i

@[simp] theorem aenPost_pending (c type info page : Nat) (s : State) : (aenPost c type info page s).pending = s.pending := by
  obtain ⟨_, _, h⟩ := aenPost_only c type info page s; rw [h]
@[simp] theorem aenPost_regs (c type info page : Nat) (s : State) : (aenPost c type info page s).regs = s.regs := by
  obtain ⟨_, _, h⟩ := aenPost_only c type info page s; rw [h]
@[simp] theorem aenPost_free (c type info page : Nat) (s : State) : (aenPost c type info page s).free = s.free := by
  obtain ⟨_, _, h⟩ := aenPost_only c type info page s; rw [h]
@[simp] theorem aenPost_readData (c type info page : Nat) (s : State) : (aenPost c type info page s).readData = s.readData := by
  obtain ⟨_, _, h⟩ := aenPost_only c type info page s; rw [h]
@[simp] theorem aenPost_glb (c type info page : Nat) (s : State) : (aenPost c type info page s).glb = s.glb := by
  obtain ⟨_, _, h⟩ := aenPost_only c type info page s; rw [h]
@[simp] theorem aenPost_peat (c type info page : Nat) (s : State) : (aenPost c type info page s).peat = s.peat := by
  obtain ⟨_, _, h⟩ := aenPost_only c type info page s; rw [h]
@[simp] theorem aenPost_cfg (c type info page : Nat) (s : State) : (aenPost c type info page s).cfg = s.cfg := by
  obtain ⟨_, _, h⟩ := aenPost_only c type info page s; rw [h]
@[simp] theorem aenPost_life (c type info page : Nat) (s : State) : (aenPost c type info page s).life = s.life := by
  obtain ⟨_, _, h⟩ := aenPost_only c type info page s; rw [h]
@[simp] theorem aenPost_ret (c type info page : Nat) (s : State) : (aenPost c type info page s).ret = s.ret := by
  obtain ⟨_, _, h⟩ := aenPost_only c type info page s; rw [h]
@[simp] theorem aenPost_map (c type info page : Nat) (s : State) : (aenPost c type info page s).map = s.map := by
  obtain ⟨_, _, h⟩ := aenPost_only c type info page s; rw [h]
@[simp] theorem aenPost_fen (c type info page : Nat) (s : State) : (aenPost c type info page s).fen = s.fen := by
  obtain ⟨_, _, h⟩ := aenPost_only c type info page s; rw [h]
@[simp] theorem aenPost_ldpc (c type info page : Nat) (s : State) : (aenPost c type info page s).ldpc = s.ldpc := by
  obtain ⟨_, _, h⟩ := aenPost_only c type info page s; rw [h]
@[simp] theorem aenPost_hew (c type info page : Nat) (s : State) : (aenPost c type info page s).hew = s.hew := by
  obtain ⟨_, _, h⟩ := aenPost_only c type info page s; rw [h]
@[simp] theorem aenPost_ucs (c type info page : Nat) (s : State) : (aenPost c type info page s).ucs = s.ucs := by
  obtain ⟨_, _, h⟩ := aenPost_only c type info page s; rw [h]
@[simp] theorem aenPost_seam (c type info page : Nat) (s : State) : (aenPost c type info page s).seam = s.seam := by
  obtain ⟨_, _, h⟩ := aenPost_only c type info page s; rw [h]
@[simp] theorem aenPost_mere (c type info page : Nat) (s : State) : (aenPost c type info page s).mere = s.mere := by
  obtain ⟨_, _, h⟩ := aenPost_only c type info page s; rw [h]
@[simp] theorem aenPost_slu (c type info page : Nat) (s : State) : (aenPost c type info page s).slu = s.slu := by
  obtain ⟨_, _, h⟩ := aenPost_only c type info page s; rw [h]
@[simp] theorem aenPost_hif (c type info page : Nat) (s : State) : (aenPost c type info page s).hif = s.hif := by
  obtain ⟨_, _, h⟩ := aenPost_only c type info page s; rw [h]
@[simp] theorem aenPost_fab (c type info page : Nat) (s : State) : (aenPost c type info page s).fab = s.fab := by
  obtain ⟨_, _, h⟩ := aenPost_only c type info page s; rw [h]
@[simp] theorem aenPost_cwy (c type info page : Nat) (s : State) : (aenPost c type info page s).cwy = s.cwy := by
  obtain ⟨_, _, h⟩ := aenPost_only c type info page s; rw [h]
@[simp] theorem aenPost_cip (c type info page : Nat) (s : State) : (aenPost c type info page s).cip = s.cip := by
  obtain ⟨_, _, h⟩ := aenPost_only c type info page s; rw [h]
@[simp] theorem aenPost_dma (c type info page : Nat) (s : State) : (aenPost c type info page s).dma = s.dma := by
  obtain ⟨_, _, h⟩ := aenPost_only c type info page s; rw [h]
@[simp] theorem aenPost_mbx (c type info page : Nat) (s : State) : (aenPost c type info page s).mbx = s.mbx := by
  obtain ⟨_, _, h⟩ := aenPost_only c type info page s; rw [h]
@[simp] theorem aenPost_pwr (c type info page : Nat) (s : State) : (aenPost c type info page s).pwr = s.pwr := by
  obtain ⟨_, _, h⟩ := aenPost_only c type info page s; rw [h]
@[simp] theorem aenPost_sea (c type info page : Nat) (s : State) : (aenPost c type info page s).sea = s.sea := by
  obtain ⟨_, _, h⟩ := aenPost_only c type info page s; rw [h]
@[simp] theorem aenPost_upd (c type info page : Nat) (s : State) : (aenPost c type info page s).upd = s.upd := by
  obtain ⟨_, _, h⟩ := aenPost_only c type info page s; rw [h]
@[simp] theorem aenPost_cus (c type info page : Nat) (s : State) : (aenPost c type info page s).cus = s.cus := by
  obtain ⟨_, _, h⟩ := aenPost_only c type info page s; rw [h]
@[simp] theorem aenPost_clk (c type info page : Nat) (s : State) : (aenPost c type info page s).clk = s.clk := by
  obtain ⟨_, _, h⟩ := aenPost_only c type info page s; rw [h]
@[simp] theorem aenPost_boot (c type info page : Nat) (s : State) : (aenPost c type info page s).boot = s.boot := by
  obtain ⟨_, _, h⟩ := aenPost_only c type info page s; rw [h]
@[simp] theorem aenPost_tmon (c type info page : Nat) (s : State) : (aenPost c type info page s).tmon = s.tmon := by
  obtain ⟨_, _, h⟩ := aenPost_only c type info page s; rw [h]
@[simp] theorem aenPost_rd (c type info page : Nat) (s : State) (f : Field) (i : Nat) : (aenPost c type info page s).rd f i = s.rd f i := State.rd_congr (aenPost_regs c type info page s) f i

@[simp] theorem vendorNotice_pending (s : State) : (vendorNotice s).pending = s.pending := by
  obtain ⟨_, _, h⟩ := vendorNotice_only s; rw [h]
@[simp] theorem vendorNotice_regs (s : State) : (vendorNotice s).regs = s.regs := by
  obtain ⟨_, _, h⟩ := vendorNotice_only s; rw [h]
@[simp] theorem vendorNotice_free (s : State) : (vendorNotice s).free = s.free := by
  obtain ⟨_, _, h⟩ := vendorNotice_only s; rw [h]
@[simp] theorem vendorNotice_readData (s : State) : (vendorNotice s).readData = s.readData := by
  obtain ⟨_, _, h⟩ := vendorNotice_only s; rw [h]
@[simp] theorem vendorNotice_glb (s : State) : (vendorNotice s).glb = s.glb := by
  obtain ⟨_, _, h⟩ := vendorNotice_only s; rw [h]
@[simp] theorem vendorNotice_peat (s : State) : (vendorNotice s).peat = s.peat := by
  obtain ⟨_, _, h⟩ := vendorNotice_only s; rw [h]
@[simp] theorem vendorNotice_cfg (s : State) : (vendorNotice s).cfg = s.cfg := by
  obtain ⟨_, _, h⟩ := vendorNotice_only s; rw [h]
@[simp] theorem vendorNotice_life (s : State) : (vendorNotice s).life = s.life := by
  obtain ⟨_, _, h⟩ := vendorNotice_only s; rw [h]
@[simp] theorem vendorNotice_ret (s : State) : (vendorNotice s).ret = s.ret := by
  obtain ⟨_, _, h⟩ := vendorNotice_only s; rw [h]
@[simp] theorem vendorNotice_map (s : State) : (vendorNotice s).map = s.map := by
  obtain ⟨_, _, h⟩ := vendorNotice_only s; rw [h]
@[simp] theorem vendorNotice_fen (s : State) : (vendorNotice s).fen = s.fen := by
  obtain ⟨_, _, h⟩ := vendorNotice_only s; rw [h]
@[simp] theorem vendorNotice_ldpc (s : State) : (vendorNotice s).ldpc = s.ldpc := by
  obtain ⟨_, _, h⟩ := vendorNotice_only s; rw [h]
@[simp] theorem vendorNotice_hew (s : State) : (vendorNotice s).hew = s.hew := by
  obtain ⟨_, _, h⟩ := vendorNotice_only s; rw [h]
@[simp] theorem vendorNotice_ucs (s : State) : (vendorNotice s).ucs = s.ucs := by
  obtain ⟨_, _, h⟩ := vendorNotice_only s; rw [h]
@[simp] theorem vendorNotice_seam (s : State) : (vendorNotice s).seam = s.seam := by
  obtain ⟨_, _, h⟩ := vendorNotice_only s; rw [h]
@[simp] theorem vendorNotice_mere (s : State) : (vendorNotice s).mere = s.mere := by
  obtain ⟨_, _, h⟩ := vendorNotice_only s; rw [h]
@[simp] theorem vendorNotice_slu (s : State) : (vendorNotice s).slu = s.slu := by
  obtain ⟨_, _, h⟩ := vendorNotice_only s; rw [h]
@[simp] theorem vendorNotice_hif (s : State) : (vendorNotice s).hif = s.hif := by
  obtain ⟨_, _, h⟩ := vendorNotice_only s; rw [h]
@[simp] theorem vendorNotice_fab (s : State) : (vendorNotice s).fab = s.fab := by
  obtain ⟨_, _, h⟩ := vendorNotice_only s; rw [h]
@[simp] theorem vendorNotice_cwy (s : State) : (vendorNotice s).cwy = s.cwy := by
  obtain ⟨_, _, h⟩ := vendorNotice_only s; rw [h]
@[simp] theorem vendorNotice_cip (s : State) : (vendorNotice s).cip = s.cip := by
  obtain ⟨_, _, h⟩ := vendorNotice_only s; rw [h]
@[simp] theorem vendorNotice_dma (s : State) : (vendorNotice s).dma = s.dma := by
  obtain ⟨_, _, h⟩ := vendorNotice_only s; rw [h]
@[simp] theorem vendorNotice_mbx (s : State) : (vendorNotice s).mbx = s.mbx := by
  obtain ⟨_, _, h⟩ := vendorNotice_only s; rw [h]
@[simp] theorem vendorNotice_pwr (s : State) : (vendorNotice s).pwr = s.pwr := by
  obtain ⟨_, _, h⟩ := vendorNotice_only s; rw [h]
@[simp] theorem vendorNotice_sea (s : State) : (vendorNotice s).sea = s.sea := by
  obtain ⟨_, _, h⟩ := vendorNotice_only s; rw [h]
@[simp] theorem vendorNotice_upd (s : State) : (vendorNotice s).upd = s.upd := by
  obtain ⟨_, _, h⟩ := vendorNotice_only s; rw [h]
@[simp] theorem vendorNotice_cus (s : State) : (vendorNotice s).cus = s.cus := by
  obtain ⟨_, _, h⟩ := vendorNotice_only s; rw [h]
@[simp] theorem vendorNotice_clk (s : State) : (vendorNotice s).clk = s.clk := by
  obtain ⟨_, _, h⟩ := vendorNotice_only s; rw [h]
@[simp] theorem vendorNotice_boot (s : State) : (vendorNotice s).boot = s.boot := by
  obtain ⟨_, _, h⟩ := vendorNotice_only s; rw [h]
@[simp] theorem vendorNotice_tmon (s : State) : (vendorNotice s).tmon = s.tmon := by
  obtain ⟨_, _, h⟩ := vendorNotice_only s; rw [h]
@[simp] theorem vendorNotice_rd (s : State) (f : Field) (i : Nat) : (vendorNotice s).rd f i = s.rd f i := State.rd_congr (vendorNotice_regs s) f i

@[simp] theorem faultAbsorbed_pending (bit unit : Nat) (s : State) : (faultAbsorbed bit unit s).pending = s.pending := by
  obtain ⟨_, _, _, _, _, _, _, h, _⟩ := faultAbsorbed_only bit unit s; rw [h]
@[simp] theorem faultAbsorbed_readData (bit unit : Nat) (s : State) : (faultAbsorbed bit unit s).readData = s.readData := by
  obtain ⟨_, _, _, _, _, _, _, h, _⟩ := faultAbsorbed_only bit unit s; rw [h]
@[simp] theorem faultAbsorbed_cfg (bit unit : Nat) (s : State) : (faultAbsorbed bit unit s).cfg = s.cfg := by
  obtain ⟨_, _, _, _, _, _, _, h, _⟩ := faultAbsorbed_only bit unit s; rw [h]
@[simp] theorem faultAbsorbed_life (bit unit : Nat) (s : State) : (faultAbsorbed bit unit s).life = s.life := by
  obtain ⟨_, _, _, _, _, _, _, h, _⟩ := faultAbsorbed_only bit unit s; rw [h]
@[simp] theorem faultAbsorbed_map (bit unit : Nat) (s : State) : (faultAbsorbed bit unit s).map = s.map := by
  obtain ⟨_, _, _, _, _, _, _, h, _⟩ := faultAbsorbed_only bit unit s; rw [h]
@[simp] theorem faultAbsorbed_fen (bit unit : Nat) (s : State) : (faultAbsorbed bit unit s).fen = s.fen := by
  obtain ⟨_, _, _, _, _, _, _, h, _⟩ := faultAbsorbed_only bit unit s; rw [h]
@[simp] theorem faultAbsorbed_ldpc (bit unit : Nat) (s : State) : (faultAbsorbed bit unit s).ldpc = s.ldpc := by
  obtain ⟨_, _, _, _, _, _, _, h, _⟩ := faultAbsorbed_only bit unit s; rw [h]
@[simp] theorem faultAbsorbed_hew (bit unit : Nat) (s : State) : (faultAbsorbed bit unit s).hew = s.hew := by
  obtain ⟨_, _, _, _, _, _, _, h, _⟩ := faultAbsorbed_only bit unit s; rw [h]
@[simp] theorem faultAbsorbed_ucs (bit unit : Nat) (s : State) : (faultAbsorbed bit unit s).ucs = s.ucs := by
  obtain ⟨_, _, _, _, _, _, _, h, _⟩ := faultAbsorbed_only bit unit s; rw [h]
@[simp] theorem faultAbsorbed_seam (bit unit : Nat) (s : State) : (faultAbsorbed bit unit s).seam = s.seam := by
  obtain ⟨_, _, _, _, _, _, _, h, _⟩ := faultAbsorbed_only bit unit s; rw [h]
@[simp] theorem faultAbsorbed_mere (bit unit : Nat) (s : State) : (faultAbsorbed bit unit s).mere = s.mere := by
  obtain ⟨_, _, _, _, _, _, _, h, _⟩ := faultAbsorbed_only bit unit s; rw [h]
@[simp] theorem faultAbsorbed_slu (bit unit : Nat) (s : State) : (faultAbsorbed bit unit s).slu = s.slu := by
  obtain ⟨_, _, _, _, _, _, _, h, _⟩ := faultAbsorbed_only bit unit s; rw [h]
@[simp] theorem faultAbsorbed_hif (bit unit : Nat) (s : State) : (faultAbsorbed bit unit s).hif = s.hif := by
  obtain ⟨_, _, _, _, _, _, _, h, _⟩ := faultAbsorbed_only bit unit s; rw [h]
@[simp] theorem faultAbsorbed_fab (bit unit : Nat) (s : State) : (faultAbsorbed bit unit s).fab = s.fab := by
  obtain ⟨_, _, _, _, _, _, _, h, _⟩ := faultAbsorbed_only bit unit s; rw [h]
@[simp] theorem faultAbsorbed_cwy (bit unit : Nat) (s : State) : (faultAbsorbed bit unit s).cwy = s.cwy := by
  obtain ⟨_, _, _, _, _, _, _, h, _⟩ := faultAbsorbed_only bit unit s; rw [h]
@[simp] theorem faultAbsorbed_cip (bit unit : Nat) (s : State) : (faultAbsorbed bit unit s).cip = s.cip := by
  obtain ⟨_, _, _, _, _, _, _, h, _⟩ := faultAbsorbed_only bit unit s; rw [h]
@[simp] theorem faultAbsorbed_dma (bit unit : Nat) (s : State) : (faultAbsorbed bit unit s).dma = s.dma := by
  obtain ⟨_, _, _, _, _, _, _, h, _⟩ := faultAbsorbed_only bit unit s; rw [h]
@[simp] theorem faultAbsorbed_mbx (bit unit : Nat) (s : State) : (faultAbsorbed bit unit s).mbx = s.mbx := by
  obtain ⟨_, _, _, _, _, _, _, h, _⟩ := faultAbsorbed_only bit unit s; rw [h]
@[simp] theorem faultAbsorbed_pwr (bit unit : Nat) (s : State) : (faultAbsorbed bit unit s).pwr = s.pwr := by
  obtain ⟨_, _, _, _, _, _, _, h, _⟩ := faultAbsorbed_only bit unit s; rw [h]
@[simp] theorem faultAbsorbed_sea (bit unit : Nat) (s : State) : (faultAbsorbed bit unit s).sea = s.sea := by
  obtain ⟨_, _, _, _, _, _, _, h, _⟩ := faultAbsorbed_only bit unit s; rw [h]
@[simp] theorem faultAbsorbed_upd (bit unit : Nat) (s : State) : (faultAbsorbed bit unit s).upd = s.upd := by
  obtain ⟨_, _, _, _, _, _, _, h, _⟩ := faultAbsorbed_only bit unit s; rw [h]
@[simp] theorem faultAbsorbed_cus (bit unit : Nat) (s : State) : (faultAbsorbed bit unit s).cus = s.cus := by
  obtain ⟨_, _, _, _, _, _, _, h, _⟩ := faultAbsorbed_only bit unit s; rw [h]
@[simp] theorem faultAbsorbed_clk (bit unit : Nat) (s : State) : (faultAbsorbed bit unit s).clk = s.clk := by
  obtain ⟨_, _, _, _, _, _, _, h, _⟩ := faultAbsorbed_only bit unit s; rw [h]
@[simp] theorem faultAbsorbed_boot (bit unit : Nat) (s : State) : (faultAbsorbed bit unit s).boot = s.boot := by
  obtain ⟨_, _, _, _, _, _, _, h, _⟩ := faultAbsorbed_only bit unit s; rw [h]
@[simp] theorem faultAbsorbed_tmon (bit unit : Nat) (s : State) : (faultAbsorbed bit unit s).tmon = s.tmon := by
  obtain ⟨_, _, _, _, _, _, _, h, _⟩ := faultAbsorbed_only bit unit s; rw [h]
theorem faultAbsorbed_outside (bit unit : Nat) (s : State) : SameOutside [0x0, 0x90] s.regs (faultAbsorbed bit unit s).regs := by
  obtain ⟨_, _, _, _, _, _, _, h, hr⟩ := faultAbsorbed_only bit unit s; rw [h]; exact hr
theorem faultAbsorbed_rd (bit unit : Nat) (s : State) (f : Field) (i : Nat) (hf : f.mib i ∉ [0x0, 0x90]) : (faultAbsorbed bit unit s).rd f i = s.rd f i :=
  (faultAbsorbed_outside bit unit s).rd f i hf

@[simp] theorem faultRestored_pending (bit unit : Nat) (s : State) : (faultRestored bit unit s).pending = s.pending := by
  obtain ⟨_, _, _, _, h, _⟩ := faultRestored_only bit unit s; rw [h]
@[simp] theorem faultRestored_readData (bit unit : Nat) (s : State) : (faultRestored bit unit s).readData = s.readData := by
  obtain ⟨_, _, _, _, h, _⟩ := faultRestored_only bit unit s; rw [h]
@[simp] theorem faultRestored_out (bit unit : Nat) (s : State) : (faultRestored bit unit s).out = s.out := by
  obtain ⟨_, _, _, _, h, _⟩ := faultRestored_only bit unit s; rw [h]
@[simp] theorem faultRestored_cfg (bit unit : Nat) (s : State) : (faultRestored bit unit s).cfg = s.cfg := by
  obtain ⟨_, _, _, _, h, _⟩ := faultRestored_only bit unit s; rw [h]
@[simp] theorem faultRestored_life (bit unit : Nat) (s : State) : (faultRestored bit unit s).life = s.life := by
  obtain ⟨_, _, _, _, h, _⟩ := faultRestored_only bit unit s; rw [h]
@[simp] theorem faultRestored_ret (bit unit : Nat) (s : State) : (faultRestored bit unit s).ret = s.ret := by
  obtain ⟨_, _, _, _, h, _⟩ := faultRestored_only bit unit s; rw [h]
@[simp] theorem faultRestored_map (bit unit : Nat) (s : State) : (faultRestored bit unit s).map = s.map := by
  obtain ⟨_, _, _, _, h, _⟩ := faultRestored_only bit unit s; rw [h]
@[simp] theorem faultRestored_fen (bit unit : Nat) (s : State) : (faultRestored bit unit s).fen = s.fen := by
  obtain ⟨_, _, _, _, h, _⟩ := faultRestored_only bit unit s; rw [h]
@[simp] theorem faultRestored_ldpc (bit unit : Nat) (s : State) : (faultRestored bit unit s).ldpc = s.ldpc := by
  obtain ⟨_, _, _, _, h, _⟩ := faultRestored_only bit unit s; rw [h]
@[simp] theorem faultRestored_hew (bit unit : Nat) (s : State) : (faultRestored bit unit s).hew = s.hew := by
  obtain ⟨_, _, _, _, h, _⟩ := faultRestored_only bit unit s; rw [h]
@[simp] theorem faultRestored_ucs (bit unit : Nat) (s : State) : (faultRestored bit unit s).ucs = s.ucs := by
  obtain ⟨_, _, _, _, h, _⟩ := faultRestored_only bit unit s; rw [h]
@[simp] theorem faultRestored_seam (bit unit : Nat) (s : State) : (faultRestored bit unit s).seam = s.seam := by
  obtain ⟨_, _, _, _, h, _⟩ := faultRestored_only bit unit s; rw [h]
@[simp] theorem faultRestored_mere (bit unit : Nat) (s : State) : (faultRestored bit unit s).mere = s.mere := by
  obtain ⟨_, _, _, _, h, _⟩ := faultRestored_only bit unit s; rw [h]
@[simp] theorem faultRestored_nvq (bit unit : Nat) (s : State) : (faultRestored bit unit s).nvq = s.nvq := by
  obtain ⟨_, _, _, _, h, _⟩ := faultRestored_only bit unit s; rw [h]
@[simp] theorem faultRestored_slu (bit unit : Nat) (s : State) : (faultRestored bit unit s).slu = s.slu := by
  obtain ⟨_, _, _, _, h, _⟩ := faultRestored_only bit unit s; rw [h]
@[simp] theorem faultRestored_hif (bit unit : Nat) (s : State) : (faultRestored bit unit s).hif = s.hif := by
  obtain ⟨_, _, _, _, h, _⟩ := faultRestored_only bit unit s; rw [h]
@[simp] theorem faultRestored_fab (bit unit : Nat) (s : State) : (faultRestored bit unit s).fab = s.fab := by
  obtain ⟨_, _, _, _, h, _⟩ := faultRestored_only bit unit s; rw [h]
@[simp] theorem faultRestored_cwy (bit unit : Nat) (s : State) : (faultRestored bit unit s).cwy = s.cwy := by
  obtain ⟨_, _, _, _, h, _⟩ := faultRestored_only bit unit s; rw [h]
@[simp] theorem faultRestored_cip (bit unit : Nat) (s : State) : (faultRestored bit unit s).cip = s.cip := by
  obtain ⟨_, _, _, _, h, _⟩ := faultRestored_only bit unit s; rw [h]
@[simp] theorem faultRestored_dma (bit unit : Nat) (s : State) : (faultRestored bit unit s).dma = s.dma := by
  obtain ⟨_, _, _, _, h, _⟩ := faultRestored_only bit unit s; rw [h]
@[simp] theorem faultRestored_mbx (bit unit : Nat) (s : State) : (faultRestored bit unit s).mbx = s.mbx := by
  obtain ⟨_, _, _, _, h, _⟩ := faultRestored_only bit unit s; rw [h]
@[simp] theorem faultRestored_pwr (bit unit : Nat) (s : State) : (faultRestored bit unit s).pwr = s.pwr := by
  obtain ⟨_, _, _, _, h, _⟩ := faultRestored_only bit unit s; rw [h]
@[simp] theorem faultRestored_sea (bit unit : Nat) (s : State) : (faultRestored bit unit s).sea = s.sea := by
  obtain ⟨_, _, _, _, h, _⟩ := faultRestored_only bit unit s; rw [h]
@[simp] theorem faultRestored_upd (bit unit : Nat) (s : State) : (faultRestored bit unit s).upd = s.upd := by
  obtain ⟨_, _, _, _, h, _⟩ := faultRestored_only bit unit s; rw [h]
@[simp] theorem faultRestored_cus (bit unit : Nat) (s : State) : (faultRestored bit unit s).cus = s.cus := by
  obtain ⟨_, _, _, _, h, _⟩ := faultRestored_only bit unit s; rw [h]
@[simp] theorem faultRestored_clk (bit unit : Nat) (s : State) : (faultRestored bit unit s).clk = s.clk := by
  obtain ⟨_, _, _, _, h, _⟩ := faultRestored_only bit unit s; rw [h]
@[simp] theorem faultRestored_boot (bit unit : Nat) (s : State) : (faultRestored bit unit s).boot = s.boot := by
  obtain ⟨_, _, _, _, h, _⟩ := faultRestored_only bit unit s; rw [h]
@[simp] theorem faultRestored_tmon (bit unit : Nat) (s : State) : (faultRestored bit unit s).tmon = s.tmon := by
  obtain ⟨_, _, _, _, h, _⟩ := faultRestored_only bit unit s; rw [h]
theorem faultRestored_outside (bit unit : Nat) (s : State) : SameOutside [0x0, 0x90] s.regs (faultRestored bit unit s).regs := by
  obtain ⟨_, _, _, _, h, hr⟩ := faultRestored_only bit unit s; rw [h]; exact hr
theorem faultRestored_rd (bit unit : Nat) (s : State) (f : Field) (i : Nat) (hf : f.mib i ∉ [0x0, 0x90]) : (faultRestored bit unit s).rd f i = s.rd f i :=
  (faultRestored_outside bit unit s).rd f i hf

end Sys2Proof.Machine
end

