-- ==== Sys2Proof/Laws/TouchBase.lean ====
section
/-! SUPPORT. The relation Touches (Safety.lean): it is reflexive and transitive, it passes through a conditional, a fold and a
record update. For an operation f, f_touch names the parts of the state that f may change. -/

namespace Sys2Proof.Machine

open Sys2Proof

theorem Touches.refl (ps : List Part) (s : State) : Touches ps s s :=
  ⟨fun _ => rfl, fun _ => rfl, fun _ => rfl, fun _ => rfl, fun _ => rfl, fun _ => rfl, fun _ => rfl, fun _ => rfl, fun _ => rfl, fun _ => rfl, fun _ => rfl, fun _ => rfl, fun _ => rfl, fun _ => rfl, fun _ => rfl, fun _ => rfl, fun _ => rfl, fun _ => rfl, fun _ => rfl, fun _ => rfl, fun _ => rfl, fun _ => rfl, fun _ => rfl, fun _ => rfl, fun _ => rfl, fun _ => rfl, fun _ => rfl, fun _ => rfl, fun _ => rfl, fun _ => rfl, fun _ => rfl, fun _ => rfl⟩

theorem Touches.trans {ps : List Part} {s t u : State} (h : Touches ps s t) (g : Touches ps t u) : Touches ps s u :=
  ⟨fun x => (g.1 x).trans (h.1 x), fun x => (g.2 x).trans (h.2 x), fun x => (g.3 x).trans (h.3 x), fun x => (g.4 x).trans (h.4 x), fun x => (g.5 x).trans (h.5 x), fun x => (g.6 x).trans (h.6 x), fun x => (g.7 x).trans (h.7 x), fun x => (g.8 x).trans (h.8 x), fun x => (g.9 x).trans (h.9 x), fun x => (g.10 x).trans (h.10 x), fun x => (g.11 x).trans (h.11 x), fun x => (g.12 x).trans (h.12 x), fun x => (g.13 x).trans (h.13 x), fun x => (g.14 x).trans (h.14 x), fun x => (g.15 x).trans (h.15 x), fun x => (g.16 x).trans (h.16 x), fun x => (g.17 x).trans (h.17 x), fun x => (g.18 x).trans (h.18 x), fun x => (g.19 x).trans (h.19 x), fun x => (g.20 x).trans (h.20 x), fun x => (g.21 x).trans (h.21 x), fun x => (g.22 x).trans (h.22 x), fun x => (g.23 x).trans (h.23 x), fun x => (g.24 x).trans (h.24 x), fun x => (g.25 x).trans (h.25 x), fun x => (g.26 x).trans (h.26 x), fun x => (g.27 x).trans (h.27 x), fun x => (g.28 x).trans (h.28 x), fun x => (g.29 x).trans (h.29 x), fun x => (g.30 x).trans (h.30 x), fun x => (g.31 x).trans (h.31 x), fun x => (g.32 x).trans (h.32 x)⟩

theorem Touches.mono {ps qs : List Part} {s t : State} (h : Touches qs s t) (hs : ∀ p ∈ qs, p ∈ ps) : Touches ps s t :=
  ⟨fun x => h.1 (fun y => x (hs _ y)), fun x => h.2 (fun y => x (hs _ y)), fun x => h.3 (fun y => x (hs _ y)), fun x => h.4 (fun y => x (hs _ y)), fun x => h.5 (fun y => x (hs _ y)), fun x => h.6 (fun y => x (hs _ y)), fun x => h.7 (fun y => x (hs _ y)), fun x => h.8 (fun y => x (hs _ y)), fun x => h.9 (fun y => x (hs _ y)), fun x => h.10 (fun y => x (hs _ y)), fun x => h.11 (fun y => x (hs _ y)), fun x => h.12 (fun y => x (hs _ y)), fun x => h.13 (fun y => x (hs _ y)), fun x => h.14 (fun y => x (hs _ y)), fun x => h.15 (fun y => x (hs _ y)), fun x => h.16 (fun y => x (hs _ y)), fun x => h.17 (fun y => x (hs _ y)), fun x => h.18 (fun y => x (hs _ y)), fun x => h.19 (fun y => x (hs _ y)), fun x => h.20 (fun y => x (hs _ y)), fun x => h.21 (fun y => x (hs _ y)), fun x => h.22 (fun y => x (hs _ y)), fun x => h.23 (fun y => x (hs _ y)), fun x => h.24 (fun y => x (hs _ y)), fun x => h.25 (fun y => x (hs _ y)), fun x => h.26 (fun y => x (hs _ y)), fun x => h.27 (fun y => x (hs _ y)), fun x => h.28 (fun y => x (hs _ y)), fun x => h.29 (fun y => x (hs _ y)), fun x => h.30 (fun y => x (hs _ y)), fun x => h.31 (fun y => x (hs _ y)), fun x => h.32 (fun y => x (hs _ y))⟩

theorem Touches.ite {ps : List Part} {c : Prop} [Decidable c] {s t u : State} (h : Touches ps s t) (g : Touches ps s u) :
    Touches ps s (if c then t else u) := by
  split
  · exact h
  · exact g

/-- A state put together field by field. -/
def State.made (a1 : List Instr) (a2 : Tab Nat) (a3 : Nat) (a4 : Word) (a5 : List Out) (a6 : GlbState) (a7 : PeatState) (a8 : CfgState) (a9 : LifeState) (a10 : RetState) (a11 : MapState) (a12 : FenState) (a13 : LdpcState) (a14 : HewState) (a15 : UcsState) (a16 : SeamState) (a17 : MereState) (a18 : NvqState) (a19 : SluState) (a20 : HifState) (a21 : FabState) (a22 : CwyState) (a23 : CipState) (a24 : DmaState) (a25 : MbxState) (a26 : PwrState) (a27 : SealState) (a28 : UpdState) (a29 : CusState) (a30 : ClkState) (a31 : BootState) (a32 : TmonState) : State := State.mk a1 a2 a3 a4 a5 a6 a7 a8 a9 a10 a11 a12 a13 a14 a15 a16 a17 a18 a19 a20 a21 a22 a23 a24 a25 a26 a27 a28 a29 a30 a31 a32

theorem touches_mk (ps : List Part) (s : State) (a1 a2 a3 a4 a5 a6 a7 a8 a9 a10 a11 a12 a13 a14 a15 a16 a17 a18 a19 a20 a21 a22 a23 a24 a25 a26 a27 a28 a29 a30 a31 a32) : Touches ps s (State.mk a1 a2 a3 a4 a5 a6 a7 a8 a9 a10 a11 a12 a13 a14 a15 a16 a17 a18 a19 a20 a21 a22 a23 a24 a25 a26 a27 a28 a29 a30 a31 a32) = Touches ps s (State.made a1 a2 a3 a4 a5 a6 a7 a8 a9 a10 a11 a12 a13 a14 a15 a16 a17 a18 a19 a20 a21 a22 a23 a24 a25 a26 a27 a28 a29 a30 a31 a32) := rfl

theorem Touches.made {ps : List Part} {s y : State} {a1 a2 a3 a4 a5 a6 a7 a8 a9 a10 a11 a12 a13 a14 a15 a16 a17 a18 a19 a20 a21 a22 a23 a24 a25 a26 a27 a28 a29 a30 a31 a32}
    (h1 : a1 = y.pending ∨ Part.pending ∈ ps := by first | exact .inr (by decide) | with_reducible exact .inl rfl)
    (h2 : a2 = y.regs ∨ Part.regs ∈ ps := by first | exact .inr (by decide) | with_reducible exact .inl rfl)
    (h3 : a3 = y.free ∨ Part.free ∈ ps := by first | exact .inr (by decide) | with_reducible exact .inl rfl)
    (h4 : a4 = y.readData ∨ Part.readData ∈ ps := by first | exact .inr (by decide) | with_reducible exact .inl rfl)
    (h5 : a5 = y.out ∨ Part.out ∈ ps := by first | exact .inr (by decide) | with_reducible exact .inl rfl)
    (h6 : a6 = y.glb ∨ Part.glb ∈ ps := by first | exact .inr (by decide) | with_reducible exact .inl rfl)
    (h7 : a7 = y.peat ∨ Part.peat ∈ ps := by first | exact .inr (by decide) | with_reducible exact .inl rfl)
    (h8 : a8 = y.cfg ∨ Part.cfg ∈ ps := by first | exact .inr (by decide) | with_reducible exact .inl rfl)
    (h9 : a9 = y.life ∨ Part.life ∈ ps := by first | exact .inr (by decide) | with_reducible exact .inl rfl)
    (h10 : a10 = y.ret ∨ Part.ret ∈ ps := by first | exact .inr (by decide) | with_reducible exact .inl rfl)
    (h11 : a11 = y.map ∨ Part.map ∈ ps := by first | exact .inr (by decide) | with_reducible exact .inl rfl)
    (h12 : a12 = y.fen ∨ Part.fen ∈ ps := by first | exact .inr (by decide) | with_reducible exact .inl rfl)
    (h13 : a13 = y.ldpc ∨ Part.ldpc ∈ ps := by first | exact .inr (by decide) | with_reducible exact .inl rfl)
    (h14 : a14 = y.hew ∨ Part.hew ∈ ps := by first | exact .inr (by decide) | with_reducible exact .inl rfl)
    (h15 : a15 = y.ucs ∨ Part.ucs ∈ ps := by first | exact .inr (by decide) | with_reducible exact .inl rfl)
    (h16 : a16 = y.seam ∨ Part.seam ∈ ps := by first | exact .inr (by decide) | with_reducible exact .inl rfl)
    (h17 : a17 = y.mere ∨ Part.mere ∈ ps := by first | exact .inr (by decide) | with_reducible exact .inl rfl)
    (h18 : a18 = y.nvq ∨ Part.nvq ∈ ps := by first | exact .inr (by decide) | with_reducible exact .inl rfl)
    (h19 : a19 = y.slu ∨ Part.slu ∈ ps := by first | exact .inr (by decide) | with_reducible exact .inl rfl)
    (h20 : a20 = y.hif ∨ Part.hif ∈ ps := by first | exact .inr (by decide) | with_reducible exact .inl rfl)
    (h21 : a21 = y.fab ∨ Part.fab ∈ ps := by first | exact .inr (by decide) | with_reducible exact .inl rfl)
    (h22 : a22 = y.cwy ∨ Part.cwy ∈ ps := by first | exact .inr (by decide) | with_reducible exact .inl rfl)
    (h23 : a23 = y.cip ∨ Part.cip ∈ ps := by first | exact .inr (by decide) | with_reducible exact .inl rfl)
    (h24 : a24 = y.dma ∨ Part.dma ∈ ps := by first | exact .inr (by decide) | with_reducible exact .inl rfl)
    (h25 : a25 = y.mbx ∨ Part.mbx ∈ ps := by first | exact .inr (by decide) | with_reducible exact .inl rfl)
    (h26 : a26 = y.pwr ∨ Part.pwr ∈ ps := by first | exact .inr (by decide) | with_reducible exact .inl rfl)
    (h27 : a27 = y.sea ∨ Part.sea ∈ ps := by first | exact .inr (by decide) | with_reducible exact .inl rfl)
    (h28 : a28 = y.upd ∨ Part.upd ∈ ps := by first | exact .inr (by decide) | with_reducible exact .inl rfl)
    (h29 : a29 = y.cus ∨ Part.cus ∈ ps := by first | exact .inr (by decide) | with_reducible exact .inl rfl)
    (h30 : a30 = y.clk ∨ Part.clk ∈ ps := by first | exact .inr (by decide) | with_reducible exact .inl rfl)
    (h31 : a31 = y.boot ∨ Part.boot ∈ ps := by first | exact .inr (by decide) | with_reducible exact .inl rfl)
    (h32 : a32 = y.tmon ∨ Part.tmon ∈ ps := by first | exact .inr (by decide) | with_reducible exact .inl rfl) (h : Touches ps s y) :
    Touches ps s (State.made a1 a2 a3 a4 a5 a6 a7 a8 a9 a10 a11 a12 a13 a14 a15 a16 a17 a18 a19 a20 a21 a22 a23 a24 a25 a26 a27 a28 a29 a30 a31 a32) :=
  h.trans ⟨fun x => h1.resolve_right x, fun x => h2.resolve_right x, fun x => h3.resolve_right x, fun x => h4.resolve_right x, fun x => h5.resolve_right x, fun x => h6.resolve_right x, fun x => h7.resolve_right x, fun x => h8.resolve_right x, fun x => h9.resolve_right x, fun x => h10.resolve_right x, fun x => h11.resolve_right x, fun x => h12.resolve_right x, fun x => h13.resolve_right x, fun x => h14.resolve_right x, fun x => h15.resolve_right x, fun x => h16.resolve_right x, fun x => h17.resolve_right x, fun x => h18.resolve_right x, fun x => h19.resolve_right x, fun x => h20.resolve_right x, fun x => h21.resolve_right x, fun x => h22.resolve_right x, fun x => h23.resolve_right x, fun x => h24.resolve_right x, fun x => h25.resolve_right x, fun x => h26.resolve_right x, fun x => h27.resolve_right x, fun x => h28.resolve_right x, fun x => h29.resolve_right x, fun x => h30.resolve_right x, fun x => h31.resolve_right x, fun x => h32.resolve_right x⟩

theorem eachOf_touch {α : Type} {ps : List Part} (l : List α) (f : α → State → State) (s : State) (h : ∀ a s, Touches ps s (f a s)) :
    Touches ps s (eachOf l f s) := by
  unfold eachOf; induction l generalizing s with
  | nil => exact Touches.refl _ _
  | cons a l ih => exact (h a s).trans (ih _)

theorem foldl_touch {α : Type} {ps : List Part} (l : List α) (f : State → α → State) (s : State) (h : ∀ s a, Touches ps s (f s a)) :
    Touches ps s (l.foldl f s) := by
  induction l generalizing s with
  | nil => exact Touches.refl _ _
  | cons a l ih => exact (h s a).trans (ih _)

end Sys2Proof.Machine
end

