-- ==== Sys2Proof/Laws/TouchCore.lean ====
section
/-! SUPPORT. Which parts of the state the shared operations change: registers, faults, the map (see TouchBase). -/

-- One theorem after the other: elaborated side by side, their many small side proofs make Lean start hundreds of threads.
set_option Elab.async false

namespace Sys2Proof.Machine

open Sys2Proof

theorem wr_touch (s : State) (f : Field) (v : Nat) (i : Nat := 0) : Touches [.regs] s (State.wr s f v i) := by
  unfold State.wr
  repeat' (first | with_reducible exact Touches.refl _ _ | simp only [touches_mk]; with_reducible refine Touches.made (h := ?_))

theorem count_touch (s : State) (f : Field) (n : Nat := 1) (i : Nat := 0) : Touches [.regs] s (State.count s f n i) := by
  unfold State.count
  repeat' (first | with_reducible exact Touches.refl _ _
                 | with_reducible apply Touches.trans ?_ (Touches.mono (wr_touch _ _ _ _) (by decide)))

theorem wrB_touch (s : State) (f : Field) (b : Bool) (i : Nat := 0) : Touches [.regs] s (State.wrB s f b i) := by
  unfold State.wrB
  repeat' (first | with_reducible exact Touches.refl _ _
                 | with_reducible apply Touches.trans ?_ (Touches.mono (wr_touch _ _ _ _) (by decide)))

theorem wrBit_touch (s : State) (f : Field) (bit : Nat) (b : Bool) (i : Nat := 0) : Touches [.regs] s (State.wrBit s f bit b
    i) := by
  unfold State.wrBit
  repeat' (first | with_reducible exact Touches.refl _ _
                 | with_reducible apply Touches.trans ?_ (Touches.mono (wr_touch _ _ _ _) (by decide)))

theorem begin_touch (s : State) : Touches [.out] s (State.begin s) := by
  unfold State.begin
  repeat' (first | with_reducible exact Touches.refl _ _ | simp only [touches_mk]; with_reducible refine Touches.made (h := ?_))

theorem emit_touch (s : State) (o : Out) : Touches [.out] s (State.emit s o) := by
  unfold State.emit
  repeat' (first | with_reducible exact Touches.refl _ _ | simp only [touches_mk]; with_reducible refine Touches.made (h := ?_))

theorem answer_touch (s : State) (v : Nat) : Touches [.readData] s (State.answer s v) := by
  unfold State.answer
  repeat' (first | with_reducible exact Touches.refl _ _ | simp only [touches_mk]; with_reducible refine Touches.made (h := ?_))

theorem putCtrl_touch (s : State) (c : Nat) (v : Ctrl) : Touches [.nvq] s (State.putCtrl s c v) := by
  unfold State.putCtrl
  repeat' (first | with_reducible exact Touches.refl _ _ | dsimp only
                 | simp only [touches_mk]; with_reducible refine Touches.made (h := ?_))

theorem putSlot_touch (s : State) (n : Nat) (v : Cmd) : Touches [.nvq] s (State.putSlot s n v) := by
  unfold State.putSlot
  repeat' (first | with_reducible exact Touches.refl _ _ | dsimp only
                 | simp only [touches_mk]; with_reducible refine Touches.made (h := ?_))

theorem delSlot_touch (s : State) (n : Nat) : Touches [.nvq] s (State.delSlot s n) := by
  unfold State.delSlot
  repeat' (first | with_reducible exact Touches.refl _ _ | dsimp only
                 | simp only [touches_mk]; with_reducible refine Touches.made (h := ?_))

theorem putNs_touch (s : State) (n : Nat) (v : Namespace) : Touches [.nvq] s (State.putNs s n v) := by
  unfold State.putNs
  repeat' (first | with_reducible exact Touches.refl _ _ | dsimp only
                 | simp only [touches_mk]; with_reducible refine Touches.made (h := ?_))

theorem setCore_touch (s : State) (c : MapCore) : Touches [.map] s (State.setCore s c) := by
  unfold State.setCore
  repeat' (first | with_reducible exact Touches.refl _ _ | dsimp only
                 | simp only [touches_mk]; with_reducible refine Touches.made (h := ?_))

theorem putHeld_touch (s : State) (h k : Nat) (v : Held) : Touches [.hew] s (State.putHeld s h k v) := by
  unfold State.putHeld
  repeat' (first | with_reducible exact Touches.refl _ _ | dsimp only
                 | simp only [touches_mk]; with_reducible refine Touches.made (h := ?_))

theorem delHeld_touch (s : State) (h k : Nat) : Touches [.hew] s (State.delHeld s h k) := by
  unfold State.delHeld
  repeat' (first | with_reducible exact Touches.refl _ _ | dsimp only
                 | simp only [touches_mk]; with_reducible refine Touches.made (h := ?_))

theorem putLink_touch (s : State) (l : Nat) (v : LinkState) : Touches [.seam] s (State.putLink s l v) := by
  unfold State.putLink
  repeat' (first | with_reducible exact Touches.refl _ _ | dsimp only
                 | simp only [touches_mk]; with_reducible refine Touches.made (h := ?_))

theorem putBlock_touch (s : State) (l b : Nat) (v : Block) : Touches [.map] s (State.putBlock s l b v) := by
  unfold State.putBlock
  repeat' (first | with_reducible exact Touches.refl _ _ | dsimp only
                 | simp only [touches_mk]; with_reducible refine Touches.made (h := ?_))

theorem sumBits_touch (l : List (Field × Bool)) (s : State) : Touches [.regs] s (sumBits l s) := by
  unfold sumBits; refine foldl_touch _ _ _ ?_; intro s a; exact wrB_touch ..

theorem glbStore_touch (s : State) : Touches [.regs, .glb] s (glbStore s) := by
  unfold glbStore
  repeat' (first | with_reducible exact Touches.refl _ _ | dsimp only
                 | with_reducible apply Touches.trans ?_ (Touches.mono (wr_touch _ _ _ _) (by decide))
                 | with_reducible apply Touches.trans ?_ (Touches.mono (sumBits_touch ..) (by decide))
                 | simp only [touches_mk]; with_reducible refine Touches.made (h := ?_))

theorem glbRefresh_touch (s : State) : Touches [.regs, .glb] s (glbRefresh s) := by
  unfold glbRefresh
  repeat' (first | with_reducible exact Touches.refl _ _ | dsimp only | with_reducible apply Touches.ite ?_ ?_
                 | with_reducible apply Touches.trans ?_ (Touches.mono (glbStore_touch ..) (by decide))
                 | simp only [touches_mk]; with_reducible refine Touches.made (h := ?_))

theorem drawn_touch (s : State) : Touches [.free] s (State.drawn s) := by
  unfold State.drawn
  repeat' (first | with_reducible exact Touches.refl _ _ | simp only [touches_mk]; with_reducible refine Touches.made (h := ?_))

theorem peatNote_touch (s : State) : Touches [.regs] s (peatNote s) := by
  unfold peatNote
  repeat' (first | with_reducible exact Touches.refl _ _ | with_reducible apply Touches.ite ?_ ?_
                 | with_reducible apply Touches.trans ?_ (Touches.mono (wr_touch _ _ _ _) (by decide)))

theorem peatWrite_touch (s : State) (code source arg aux sev supp : Nat) : Touches [.free, .peat] s (peatWrite s code source
    arg aux sev supp) := by
  unfold peatWrite
  repeat' (first | with_reducible exact Touches.refl _ _ | dsimp only | with_reducible apply Touches.ite ?_ ?_
                 | simp only [touches_mk]; with_reducible refine Touches.made (h := ?_))

theorem peatRecord_touch (code source arg aux : Nat) (s : State) : Touches [.regs, .free, .peat] s (peatRecord code source
    arg aux s) := by
  unfold peatRecord
  repeat' (first | with_reducible exact Touches.refl _ _ | dsimp only | with_reducible apply Touches.ite ?_ ?_
                 | with_reducible apply Touches.trans ?_ (Touches.mono (count_touch _ _ _ _) (by decide))
                 | with_reducible apply Touches.trans ?_ (Touches.mono (peatNote_touch ..) (by decide))
                 | with_reducible apply Touches.trans ?_ (Touches.mono (peatWrite_touch ..) (by decide))
                 | simp only [touches_mk]; with_reducible refine Touches.made (h := ?_) | (split))

theorem accessViolation_touch (p : AccessPath) (off : Nat) (s : State) : Touches [.regs, .free, .peat] s (accessViolation p
    off s) := by
  unfold accessViolation
  repeat' (first | with_reducible exact Touches.refl _ _
                 | with_reducible apply Touches.trans ?_ (Touches.mono (peatRecord_touch ..) (by decide)))

theorem finishCmd_touch (n status dw0 dw1 : Nat) (s : State) : Touches [.nvq] s (finishCmd n status dw0 dw1 s) := by
  unfold finishCmd
  repeat' (first | with_reducible exact Touches.refl _ _ | dsimp only
                 | with_reducible apply Touches.trans ?_ (Touches.mono (putSlot_touch ..) (by decide))
                 | simp only [touches_mk]; with_reducible refine Touches.made (h := ?_) | (split))

theorem aenPost_touch (cid type info page : Nat) (s : State) : Touches [.out, .nvq] s (aenPost cid type info page s) := by
  unfold aenPost
  repeat' (first | with_reducible exact Touches.refl _ _ | dsimp only | with_reducible apply Touches.ite ?_ ?_
                 | with_reducible apply Touches.trans ?_ (Touches.mono (emit_touch ..) (by decide))
                 | with_reducible apply Touches.trans ?_ (Touches.mono (putCtrl_touch ..) (by decide))
                 | with_reducible apply Touches.trans ?_ (Touches.mono (finishCmd_touch ..) (by decide)) | (split))

theorem vendorNotice_touch (s : State) : Touches [.out, .nvq] s (vendorNotice s) := by
  unfold vendorNotice
  repeat' (first | with_reducible exact Touches.refl _ _
                 | with_reducible apply Touches.trans ?_ (Touches.mono (aenPost_touch ..) (by decide))
                 | with_reducible apply Touches.trans ?_ (eachOf_touch _ _ _ ?_) | (intro _))

theorem healthAdd_touch (k n : Nat) (s : State) : Touches [.ret] s (healthAdd k n s) := by
  unfold healthAdd
  repeat' (first | with_reducible exact Touches.refl _ _ | dsimp only
                 | simp only [touches_mk]; with_reducible refine Touches.made (h := ?_))

theorem faultAbsorbed_touch (bit unit : Nat) (s : State) : Touches [.regs, .free, .out, .glb, .peat, .ret, .nvq] s
    (faultAbsorbed bit unit s) := by
  unfold faultAbsorbed
  repeat' (first | with_reducible exact Touches.refl _ _ | dsimp only | with_reducible apply Touches.ite ?_ ?_
                 | with_reducible apply Touches.trans ?_ (Touches.mono (glbRefresh_touch ..) (by decide))
                 | with_reducible apply Touches.trans ?_ (Touches.mono (peatRecord_touch ..) (by decide))
                 | with_reducible apply Touches.trans ?_ (Touches.mono (vendorNotice_touch ..) (by decide))
                 | with_reducible apply Touches.trans ?_ (Touches.mono (healthAdd_touch ..) (by decide))
                 | simp only [touches_mk]; with_reducible refine Touches.made (h := ?_))

theorem faultRestored_touch (bit unit : Nat) (s : State) : Touches [.regs, .free, .glb, .peat] s (faultRestored bit unit s)
    := by
  unfold faultRestored
  repeat' (first | with_reducible exact Touches.refl _ _
                 | with_reducible apply Touches.trans ?_ (Touches.mono (glbRefresh_touch ..) (by decide))
                 | with_reducible apply Touches.trans ?_ (Touches.mono (peatRecord_touch ..) (by decide)))

theorem invalidate_touch (r : Nat) (s : State) : Touches [.mere] s (invalidate r s) := by
  unfold invalidate
  repeat' (first | with_reducible exact Touches.refl _ _ | dsimp only
                 | simp only [touches_mk]; with_reducible refine Touches.made (h := ?_))

theorem validate_touch (a : Nat) (s : State) : Touches [.mere] s (validate a s) := by
  unfold validate
  repeat' (first | with_reducible exact Touches.refl _ _ | dsimp only | with_reducible apply Touches.ite ?_ ?_
                 | with_reducible apply Touches.trans ?_ (Touches.mono (invalidate_touch ..) (by decide))
                 | simp only [touches_mk]; with_reducible refine Touches.made (h := ?_))

theorem freeRegions_touch (rs : List Nat) (s : State) : Touches [.mere] s (freeRegions rs s) := by
  unfold freeRegions
  repeat' (first | with_reducible exact Touches.refl _ _ | dsimp only | with_reducible apply Touches.ite ?_ ?_
                 | with_reducible apply Touches.trans ?_ (Touches.mono (eachOf_touch ..) (by decide))
                 | with_reducible apply Touches.trans ?_ (Touches.mono (invalidate_touch ..) (by decide))
                 | with_reducible apply Touches.trans ?_ (eachOf_touch _ _ _ ?_)
                 | with_reducible apply Touches.trans ?_ (foldl_touch _ _ _ ?_)
                 | simp only [touches_mk]; with_reducible refine Touches.made (h := ?_) | (intro _) | (split))

theorem fillRegion_touch (r : Nat) (s : State) : Touches [.mere] s (fillRegion r s) := by
  unfold fillRegion
  repeat' (first | with_reducible exact Touches.refl _ _ | dsimp only | with_reducible apply Touches.ite ?_ ?_
                 | simp only [touches_mk]; with_reducible refine Touches.made (h := ?_) | (intro _) | (split))

theorem logClamps_touch (l : SluiceLot) (s : State) : Touches [.regs, .free, .peat] s (logClamps l s) := by
  unfold logClamps
  repeat' (first | with_reducible exact Touches.refl _ _
                 | with_reducible apply Touches.trans ?_ (Touches.mono (peatRecord_touch ..) (by decide))
                 | with_reducible apply Touches.trans ?_ (eachOf_touch _ _ _ ?_) | (intro _))

theorem putUse_touch (c : Nat) (u : ClassUse) (s : State) : Touches [.slu] s (putUse c u s) := by
  unfold putUse
  repeat' (first | with_reducible exact Touches.refl _ _ | dsimp only
                 | simp only [touches_mk]; with_reducible refine Touches.made (h := ?_))

theorem mergeBegin_touch (c : Nat) (s : State) : Touches [.regs, .slu] s (mergeBegin c s) := by
  unfold mergeBegin
  repeat' (first | with_reducible exact Touches.refl _ _ | dsimp only | with_reducible apply Touches.ite ?_ ?_
                 | with_reducible apply Touches.trans ?_ (Touches.mono (wr_touch _ _ _ _) (by decide))
                 | with_reducible apply Touches.trans ?_ (Touches.mono (putUse_touch ..) (by decide)))

theorem mergeEnd_touch (c : Nat) (s : State) : Touches [.slu] s (mergeEnd c s) := by
  unfold mergeEnd
  repeat' (first | with_reducible exact Touches.refl _ _ | dsimp only
                 | with_reducible apply Touches.trans ?_ (Touches.mono (putUse_touch ..) (by decide)))

theorem chargeDie_touch (l d c us : Nat) (s : State) : Touches [.slu] s (chargeDie l d c us s) := by
  unfold chargeDie
  repeat' (first | with_reducible exact Touches.refl _ _ | dsimp only
                 | simp only [touches_mk]; with_reducible refine Touches.made (h := ?_))

theorem chargeLink_touch (l c n : Nat) (s : State) : Touches [.slu] s (chargeLink l c n s) := by
  unfold chargeLink
  repeat' (first | with_reducible exact Touches.refl _ _ | dsimp only | with_reducible apply Touches.ite ?_ ?_
                 | simp only [touches_mk]; with_reducible refine Touches.made (h := ?_) | (intro _) | (split))

theorem chargeMere_touch (c n : Nat) (s : State) : Touches [.slu] s (chargeMere c n s) := by
  unfold chargeMere
  repeat' (first | with_reducible exact Touches.refl _ _ | dsimp only | with_reducible apply Touches.ite ?_ ?_
                 | simp only [touches_mk]; with_reducible refine Touches.made (h := ?_) | (intro _) | (split))

theorem takeBlock_touch (l b : Nat) (slc : Bool) (stripe : Nat) (s : State) : Touches [.map] s (takeBlock l b slc stripe
    s) := by
  unfold takeBlock
  repeat' (first | with_reducible exact Touches.refl _ _ | dsimp only | with_reducible apply Touches.ite ?_ ?_
                 | with_reducible apply Touches.trans ?_ (Touches.mono (putBlock_touch ..) (by decide))
                 | simp only [touches_mk]; with_reducible refine Touches.made (h := ?_) | (intro _) | (split))

theorem blockProgrammed_touch (first : Bool) (l b : Nat) (s : State) : Touches [.map] s (blockProgrammed first l b s) := by
  unfold blockProgrammed
  repeat' (first | with_reducible exact Touches.refl _ _ | dsimp only | with_reducible apply Touches.ite ?_ ?_
                 | with_reducible apply Touches.trans ?_ (Touches.mono (putBlock_touch ..) (by decide))
                 | simp only [touches_mk]; with_reducible refine Touches.made (h := ?_) | (intro _) | (split))

theorem freeBlock_touch (l b : Nat) (s : State) : Touches [.map] s (freeBlock l b s) := by
  unfold freeBlock
  repeat' (first | with_reducible exact Touches.refl _ _ | dsimp only | with_reducible apply Touches.ite ?_ ?_
                 | with_reducible apply Touches.trans ?_ (Touches.mono (putBlock_touch ..) (by decide)))

theorem journal_touch (r : JRec) (s : State) : Touches [.map] s (journal r s) := by
  unfold journal
  repeat' (first | with_reducible exact Touches.refl _ _ | dsimp only | with_reducible apply Touches.ite ?_ ?_
                 | simp only [touches_mk]; with_reducible refine Touches.made (h := ?_) | (intro _) | (split))

theorem allocStripe_touch {s : State} {f : Nat} {slc : Bool} {i l t} (h : allocStripe s f slc = some (i, l, t)) : Touches
    [.map] s t := by
  unfold allocStripe at h; split at h
  · cases h
  · cases h; refine Touches.trans ?_ (eachOf_touch _ _ _ (fun _ _ => takeBlock_touch ..))
    constructor <;> first | exact fun _ => rfl | exact fun h => absurd (by decide) h

theorem advanceRot_touch (f : Nat) (s : State) : Touches [.map] s (advanceRot f s) := by
  unfold advanceRot
  repeat' (first | with_reducible exact Touches.refl _ _ | dsimp only
                 | simp only [touches_mk]; with_reducible refine Touches.made (h := ?_))

theorem forgetDue_touch (id : Nat) (s : State) : Touches [.ret] s (forgetDue id s) := by
  unfold forgetDue
  repeat' (first | with_reducible exact Touches.refl _ _ | dsimp only
                 | simp only [touches_mk]; with_reducible refine Touches.made (h := ?_))

theorem releaseAfter_touch (j id : Nat) (s : State) : Touches [.ret, .map] s (releaseAfter j id s) := by
  unfold releaseAfter
  repeat' (first | with_reducible exact Touches.refl _ _ | dsimp only | with_reducible apply Touches.ite ?_ ?_
                 | with_reducible apply Touches.trans ?_ (Touches.mono (forgetDue_touch ..) (by decide))
                 | simp only [touches_mk]; with_reducible refine Touches.made (h := ?_) | (intro _) | (split))

theorem releaseSlots_touch (f : Nat) (slots : List Nat) (s : State) : Touches [.map] s (releaseSlots f slots s) := by
  unfold releaseSlots
  repeat' (first | with_reducible exact Touches.refl _ _ | dsimp only | with_reducible apply Touches.ite ?_ ?_
                 | with_reducible apply Touches.trans ?_ (Touches.mono (freeBlock_touch ..) (by decide))
                 | with_reducible apply Touches.trans ?_ (eachOf_touch _ _ _ ?_) | (intro _))

theorem barBlock_touch (l b : Nat) (s : State) : Touches [.mere] s (barBlock l b s) := by
  unfold barBlock
  repeat' (first | with_reducible exact Touches.refl _ _ | dsimp only | with_reducible apply Touches.ite ?_ ?_
                 | simp only [touches_mk]; with_reducible refine Touches.made (h := ?_) | (intro _) | (split))

theorem spoilBlock_touch (l b reason flags : Nat) (s : State) : Touches [.map, .mere] s (spoilBlock l b reason flags s)
    := by
  unfold spoilBlock
  repeat' (first | with_reducible exact Touches.refl _ _ | dsimp only | with_reducible apply Touches.ite ?_ ?_
                 | with_reducible apply Touches.trans ?_ (Touches.mono (barBlock_touch ..) (by decide))
                 | with_reducible apply Touches.trans ?_ (Touches.mono (journal_touch ..) (by decide))
                 | with_reducible apply Touches.trans ?_ (Touches.mono (putBlock_touch ..) (by decide))
                 | simp only [touches_mk]; with_reducible refine Touches.made (h := ?_) | (intro _) | (split))

theorem declareLost_touch (ltn off len units : Nat) (s : State) : Touches [.regs, .out, .ret, .map, .nvq] s (declareLost ltn
    off len units s) := by
  unfold declareLost
  repeat' (first | with_reducible exact Touches.refl _ _ | dsimp only
                 | with_reducible apply Touches.trans ?_ (Touches.mono (wr_touch _ _ _ _) (by decide))
                 | with_reducible apply Touches.trans ?_ (Touches.mono (count_touch _ _ _ _) (by decide))
                 | with_reducible apply Touches.trans ?_ (Touches.mono (aenPost_touch ..) (by decide))
                 | with_reducible apply Touches.trans ?_ (Touches.mono (healthAdd_touch ..) (by decide))
                 | with_reducible apply Touches.trans ?_ (Touches.mono (journal_touch ..) (by decide))
                 | simp only [touches_mk]; with_reducible refine Touches.made (h := ?_)
                 | with_reducible apply Touches.trans ?_ (eachOf_touch _ _ _ ?_) | (intro _) | (split))

theorem declareUnitLost_touch (ltn u : Nat) (s : State) : Touches [.regs, .out, .ret, .map, .nvq] s (declareUnitLost ltn u s)
    := by
  unfold declareUnitLost
  repeat' (first | with_reducible exact Touches.refl _ _
                 | with_reducible apply Touches.trans ?_ (Touches.mono (declareLost_touch ..) (by decide)))

theorem clearLost_touch (ltn off len : Nat) (s : State) : Touches [.map] s (clearLost ltn off len s) := by
  unfold clearLost
  repeat' (first | with_reducible exact Touches.refl _ _ | dsimp only | with_reducible apply Touches.ite ?_ ?_
                 | with_reducible apply Touches.trans ?_ (Touches.mono (eachOf_touch ..) (by decide))
                 | with_reducible apply Touches.trans ?_ (Touches.mono (journal_touch ..) (by decide))
                 | with_reducible apply Touches.trans ?_ (eachOf_touch _ _ _ ?_)
                 | with_reducible apply Touches.trans ?_ (foldl_touch _ _ _ ?_)
                 | simp only [touches_mk]; with_reducible refine Touches.made (h := ?_) | (intro _) | (split))

theorem errorLog_touch (cid : Nat) (e : Nat × Nat × Nat × Nat × Nat × Nat) (s : State) : Touches [.ret, .nvq] s (errorLog cid
    e s) := by
  unfold errorLog
  repeat' (first | with_reducible exact Touches.refl _ _
                 | with_reducible apply Touches.trans ?_ (Touches.mono (putCtrl_touch ..) (by decide))
                 | with_reducible apply Touches.trans ?_ (Touches.mono (healthAdd_touch ..) (by decide)) | (split))

theorem carryReport_touch (n : Nat) (s : State) : Touches [.regs, .ret, .nvq] s (carryReport n s) := by
  unfold carryReport
  repeat' (first | with_reducible exact Touches.refl _ _ | dsimp only
                 | with_reducible apply Touches.trans ?_ (Touches.mono (count_touch _ _ _ _) (by decide))
                 | with_reducible apply Touches.trans ?_ (Touches.mono (finishCmd_touch ..) (by decide))
                 | with_reducible apply Touches.trans ?_ (Touches.mono (errorLog_touch ..) (by decide))
                 | simp only [touches_mk]; with_reducible refine Touches.made (h := ?_)
                 | with_reducible apply Touches.trans ?_ (eachOf_touch _ _ _ ?_) | (intro _) | (split))

theorem coverLost_touch (keys : List Nat) (s : State) : Touches [.regs, .ret, .nvq] s (coverLost keys s) := by
  unfold coverLost
  repeat' (first | with_reducible exact Touches.refl _ _
                 | with_reducible apply Touches.trans ?_ (Touches.mono (carryReport_touch ..) (by decide))
                 | with_reducible apply Touches.trans ?_ (eachOf_touch _ _ _ ?_) | (intro _))

theorem wakeDurable_touch (s : State) : Touches [.nvq] s (wakeDurable s) := by
  unfold wakeDurable
  repeat' (first | with_reducible exact Touches.refl _ _
                 | with_reducible apply Touches.trans ?_ (Touches.mono (finishCmd_touch ..) (by decide))
                 | with_reducible apply Touches.trans ?_ (eachOf_touch _ _ _ ?_) | (intro _))

theorem releaseStripe_touch (id : Nat) (s : State) : Touches [.map] s (releaseStripe id s) := by
  unfold releaseStripe
  repeat' (first | with_reducible exact Touches.refl _ _ | dsimp only
                 | with_reducible apply Touches.trans ?_ (Touches.mono (journal_touch ..) (by decide))
                 | with_reducible apply Touches.trans ?_ (Touches.mono (releaseSlots_touch ..) (by decide))
                 | simp only [touches_mk]; with_reducible refine Touches.made (h := ?_))

theorem releaseDue_touch (s : State) : Touches [.map] s (releaseDue s) := by
  unfold releaseDue
  repeat' (first | with_reducible exact Touches.refl _ _ | dsimp only
                 | with_reducible apply Touches.trans ?_ (Touches.mono (releaseStripe_touch ..) (by decide))
                 | simp only [touches_mk]; with_reducible refine Touches.made (h := ?_)
                 | with_reducible apply Touches.trans ?_ (eachOf_touch _ _ _ ?_) | (intro _))

theorem releaseInPlace_touch (s : State) : Touches [.map] s (releaseInPlace s) := by
  unfold releaseInPlace
  repeat' (first | with_reducible exact Touches.refl _ _ | dsimp only | with_reducible apply Touches.ite ?_ ?_
                 | simp only [touches_mk]; with_reducible refine Touches.made (h := ?_) | (intro _) | (split))

theorem durableFirst_touch (n : Nat) (s : State) : Touches [.map, .nvq] s (durableFirst n s) := by
  unfold durableFirst
  repeat' (first | with_reducible exact Touches.refl _ _ | dsimp only | with_reducible apply Touches.ite ?_ ?_
                 | with_reducible apply Touches.trans ?_ (Touches.mono (wakeDurable_touch ..) (by decide))
                 | with_reducible apply Touches.trans ?_ (Touches.mono (releaseInPlace_touch ..) (by decide))
                 | with_reducible apply Touches.trans ?_ (Touches.mono (releaseDue_touch ..) (by decide))
                 | simp only [touches_mk]; with_reducible refine Touches.made (h := ?_) | (intro _) | (split))

theorem putStripe_touch (id : Nat) (e : Stripe) (s : State) : Touches [.map] s (putStripe id e s) := by
  unfold putStripe
  repeat' (first | with_reducible exact Touches.refl _ _ | dsimp only
                 | with_reducible apply Touches.trans ?_ (Touches.mono (setCore_touch ..) (by decide)))

theorem journalStripe_touch (id : Nat) (s : State) : Touches [.map] s (journalStripe id s) := by
  unfold journalStripe
  repeat' (first | with_reducible exact Touches.refl _ _
                 | with_reducible apply Touches.trans ?_ (Touches.mono (journal_touch ..) (by decide)))

theorem setStripe_touch (id : Nat) (e : Stripe) (s : State) : Touches [.map] s (setStripe id e s) := by
  unfold setStripe
  repeat' (first | with_reducible exact Touches.refl _ _ | dsimp only | with_reducible apply Touches.ite ?_ ?_
                 | with_reducible apply Touches.trans ?_ (Touches.mono (putStripe_touch ..) (by decide))
                 | with_reducible apply Touches.trans ?_ (Touches.mono (journal_touch ..) (by decide))
                 | simp only [touches_mk]; with_reducible refine Touches.made (h := ?_) | (intro _) | (split))

theorem closeStripe_touch (id : Nat) (s : State) : Touches [.map] s (closeStripe id s) := by
  unfold closeStripe
  repeat' (first | with_reducible exact Touches.refl _ _ | dsimp only | with_reducible apply Touches.ite ?_ ?_
                 | with_reducible apply Touches.trans ?_ (Touches.mono (putBlock_touch ..) (by decide))
                 | with_reducible apply Touches.trans ?_ (eachOf_touch _ _ _ ?_) | (intro _))

theorem rowsProgrammed_touch (id : Nat) (first : Bool) (s : State) : Touches [.map] s (rowsProgrammed id first s) := by
  unfold rowsProgrammed
  repeat' (first | with_reducible exact Touches.refl _ _ | dsimp only | with_reducible apply Touches.ite ?_ ?_
                 | with_reducible apply Touches.trans ?_ (Touches.mono (eachOf_touch ..) (by decide))
                 | with_reducible apply Touches.trans ?_ (Touches.mono (blockProgrammed_touch ..) (by decide))
                 | with_reducible apply Touches.trans ?_ (eachOf_touch _ _ _ ?_)
                 | with_reducible apply Touches.trans ?_ (foldl_touch _ _ _ ?_)
                 | simp only [touches_mk]; with_reducible refine Touches.made (h := ?_) | (intro _) | (split))

theorem skipAbsent_touch (id : Nat) (s : State) : Touches [.map] s (skipAbsent id s) := by
  unfold skipAbsent
  repeat' (first | with_reducible exact Touches.refl _ _ | dsimp only | with_reducible apply Touches.ite ?_ ?_
                 | with_reducible apply Touches.trans ?_ (Touches.mono (setStripe_touch ..) (by decide))
                 | with_reducible apply Touches.trans ?_ (eachOf_touch _ _ _ ?_)
                 | with_reducible apply Touches.trans ?_ (foldl_touch _ _ _ ?_)
                 | simp only [touches_mk]; with_reducible refine Touches.made (h := ?_) | (intro _) | (split))

theorem setFrontier_touch (id n : Nat) (s : State) : Touches [.map] s (setFrontier id n s) := by
  unfold setFrontier
  repeat' (first | with_reducible exact Touches.refl _ _ | dsimp only | with_reducible apply Touches.ite ?_ ?_
                 | with_reducible apply Touches.trans ?_ (Touches.mono (closeStripe_touch ..) (by decide))
                 | with_reducible apply Touches.trans ?_ (Touches.mono (setStripe_touch ..) (by decide))
                 | with_reducible apply Touches.trans ?_ (Touches.mono (rowsProgrammed_touch ..) (by decide))
                 | simp only [touches_mk]; with_reducible refine Touches.made (h := ?_) | (intro _) | (split))

theorem openStripe_touch {f kind : Nat} {slc : Bool} {owner : Nat} {s : State} {i t} (h : openStripe f kind slc owner s =
    some (i, t)) : Touches [.map] s t := by
  unfold openStripe at h
  simp only [Option.map_eq_some_iff] at h
  obtain ⟨r, hr, e⟩ := h
  cases e; exact (allocStripe_touch hr).trans (putStripe_touch ..)

theorem metaStripeIn_touch {may : Nat → Bool} {kind : Nat} {s : State} {i t} (h : metaStripeIn may kind s = some (i, t)) : Touches [.map] s t := by
  unfold metaStripeIn at h; split at h
  · cases h
  · simp only [Option.map_eq_some_iff] at h
    obtain ⟨r, hr, e⟩ := h
    cases e; exact (openStripe_touch (i := r.1) hr).trans (journalStripe_touch ..)

theorem metaStripe_touch {kind : Nat} {s : State} {i t} (h : metaStripe kind s = some (i, t)) : Touches [.map] s t :=
  metaStripeIn_touch h

theorem programAt_touch (id row slot w a : Nat) (c : CodeWord) (s : State) : Touches [.map] s (programAt id row slot w a
    c s) := by
  unfold programAt
  repeat' (first | with_reducible exact Touches.refl _ _ | dsimp only | with_reducible apply Touches.ite ?_ ?_
                 | simp only [touches_mk]; with_reducible refine Touches.made (h := ?_) | (intro _) | (split))

theorem storeWord_touch (id row slot w : Nat) (c : CodeWord) (s : State) : Touches [.map] s (storeWord id row slot w c
    s) := by
  unfold storeWord
  repeat' (first | with_reducible exact Touches.refl _ _ | dsimp only | with_reducible apply Touches.ite ?_ ?_
                 | with_reducible apply Touches.trans ?_ (Touches.mono (programAt_touch ..) (by decide))
                 | simp only [touches_mk]; with_reducible refine Touches.made (h := ?_) | (intro _) | (split))

theorem putUnit_touch (id row slot w : Nat) (d : UnitData) (ltn unit : Nat) (s : State) : Touches [.map] s (putUnit id
    row slot w d ltn unit s) := by
  unfold putUnit
  repeat' (first | with_reducible exact Touches.refl _ _ | dsimp only | with_reducible apply Touches.ite ?_ ?_
                 | with_reducible apply Touches.trans ?_ (Touches.mono (storeWord_touch ..) (by decide))
                 | simp only [touches_mk]; with_reducible refine Touches.made (h := ?_) | (intro _) | (split))

theorem putMeta_touch (id n : Nat) (payload seq index : Nat) (s : State) : Touches [.map] s (putMeta id n payload seq
    index s) := by
  unfold putMeta
  repeat' (first | with_reducible exact Touches.refl _ _ | dsimp only | with_reducible apply Touches.ite ?_ ?_
                 | with_reducible apply Touches.trans ?_ (Touches.mono (storeWord_touch ..) (by decide))
                 | simp only [touches_mk]; with_reducible refine Touches.made (h := ?_) | (intro _) | (split))

theorem putParity_touch (id row : Nat) (s : State) : Touches [.map] s (putParity id row s) := by
  unfold putParity
  repeat' (first | with_reducible exact Touches.refl _ _ | dsimp only | with_reducible apply Touches.ite ?_ ?_
                 | with_reducible apply Touches.trans ?_ (Touches.mono (eachOf_touch ..) (by decide))
                 | with_reducible apply Touches.trans ?_ (Touches.mono (storeWord_touch ..) (by decide))
                 | with_reducible apply Touches.trans ?_ (eachOf_touch _ _ _ ?_)
                 | with_reducible apply Touches.trans ?_ (foldl_touch _ _ _ ?_)
                 | simp only [touches_mk]; with_reducible refine Touches.made (h := ?_) | (intro _) | (split))

theorem wipeBlock_touch (l b : Nat) (s : State) : Touches [.map] s (wipeBlock l b s) := by
  unfold wipeBlock
  repeat' (first | with_reducible exact Touches.refl _ _ | dsimp only | with_reducible apply Touches.ite ?_ ?_
                 | simp only [touches_mk]; with_reducible refine Touches.made (h := ?_) | (intro _) | (split))

theorem writeSlot_touch (id slot : Nat) (ws : List (Nat × CodeWord)) (s : State) : Touches [.map] s (writeSlot id slot
    ws s) := by
  unfold writeSlot
  repeat' (first | with_reducible exact Touches.refl _ _ | dsimp only | with_reducible apply Touches.ite ?_ ?_
                 | with_reducible apply Touches.trans ?_ (Touches.mono (eachOf_touch ..) (by decide))
                 | with_reducible apply Touches.trans ?_ (Touches.mono (storeWord_touch ..) (by decide))
                 | with_reducible apply Touches.trans ?_ (Touches.mono (blockProgrammed_touch ..) (by decide))
                 | with_reducible apply Touches.trans ?_ (eachOf_touch _ _ _ ?_)
                 | with_reducible apply Touches.trans ?_ (foldl_touch _ _ _ ?_)
                 | simp only [touches_mk]; with_reducible refine Touches.made (h := ?_) | (intro _) | (split))

theorem slotGone_touch (id slot : Nat) (s : State) : Touches [.map] s (slotGone id slot s) := by
  unfold slotGone
  repeat' (first | with_reducible exact Touches.refl _ _ | dsimp only | with_reducible apply Touches.ite ?_ ?_
                 | with_reducible apply Touches.trans ?_ (Touches.mono (setStripe_touch ..) (by decide))
                 | simp only [touches_mk]; with_reducible refine Touches.made (h := ?_) | (intro _) | (split))

theorem replaceSlot_touch (id slot l b : Nat) (s : State) : Touches [.map] s (replaceSlot id slot l b s) := by
  unfold replaceSlot
  repeat' (first | with_reducible exact Touches.refl _ _ | dsimp only | with_reducible apply Touches.ite ?_ ?_
                 | with_reducible apply Touches.trans ?_ (Touches.mono (journal_touch ..) (by decide))
                 | with_reducible apply Touches.trans ?_ (Touches.mono (takeBlock_touch ..) (by decide))
                 | with_reducible apply Touches.trans ?_ (Touches.mono (closeStripe_touch ..) (by decide))
                 | with_reducible apply Touches.trans ?_ (Touches.mono (writeSlot_touch ..) (by decide))
                 | with_reducible apply Touches.trans ?_ (Touches.mono (slotGone_touch ..) (by decide))
                 | simp only [touches_mk]; with_reducible refine Touches.made (h := ?_) | (intro _) | (split))

theorem failSlotOf_touch (id slot : Nat) (s : State) : Touches [.map, .mere] s (failSlotOf id slot s) := by
  unfold failSlotOf
  repeat' (first | with_reducible exact Touches.refl _ _ | dsimp only | with_reducible apply Touches.ite ?_ ?_
                 | with_reducible apply Touches.trans ?_ (Touches.mono (wipeBlock_touch ..) (by decide))
                 | with_reducible apply Touches.trans ?_ (Touches.mono (replaceSlot_touch ..) (by decide))
                 | with_reducible apply Touches.trans ?_ (Touches.mono (spoilBlock_touch ..) (by decide))
                 | simp only [touches_mk]; with_reducible refine Touches.made (h := ?_) | (intro _) | (split))

theorem journalOpen_touch {s : State} {i t} (h : journalOpen s = some (i, t)) : Touches [.map] s t := by
  unfold journalOpen at h; split at h
  · cases h; exact Touches.refl _ _
  · split at h
    · cases h
    · next e =>
      simp only [Option.map_eq_some_iff] at h
      obtain ⟨r, hr, x⟩ := h
      cases x
      refine Touches.trans ?_ ((metaStripe_touch (i := r.1) hr).trans ?_)
      · split at e
        · cases e; exact Touches.refl _ _
        · exact metaStripe_touch e
      · constructor <;> first | exact fun _ => rfl | exact fun h => absurd (by decide) h

theorem writeJournalRow_touch (id row : Nat) (recs : List (Nat × JRec)) (s : State) : Touches [.map] s (writeJournalRow
    id row recs s) := by
  unfold writeJournalRow
  repeat' (first | with_reducible exact Touches.refl _ _ | dsimp only | with_reducible apply Touches.ite ?_ ?_
                 | with_reducible apply Touches.trans ?_ (Touches.mono (putMeta_touch ..) (by decide))
                 | with_reducible apply Touches.trans ?_ (Touches.mono (putParity_touch ..) (by decide))
                 | with_reducible apply Touches.trans ?_ (Touches.mono (eachOf_touch ..) (by decide))
                 | with_reducible apply Touches.trans ?_ (eachOf_touch _ _ _ ?_)
                 | with_reducible apply Touches.trans ?_ (foldl_touch _ _ _ ?_)
                 | simp only [touches_mk]; with_reducible refine Touches.made (h := ?_) | (intro _) | (split))

theorem metaStripes_touch {n kind : Nat} {s : State} {i t} (h : metaStripes n kind s = some (i, t)) : Touches [.map] s t := by
  induction n generalizing s i with
  | zero => simp only [metaStripes] at h; cases h; exact Touches.refl _ _
  | succ n ih =>
    simp only [metaStripes, Option.bind_eq_some_iff, Option.map_eq_some_iff] at h
    obtain ⟨r, hr, q, hq, e⟩ := h
    cases e
    exact (metaStripe_touch (i := r.1) hr).trans (ih (i := q.1) hq)

theorem startCheckpoint_touch (s : State) : Touches [.regs, .map] s (startCheckpoint s) := by
  unfold startCheckpoint
  repeat' (first | with_reducible exact Touches.refl _ _ | dsimp only | with_reducible apply Touches.ite ?_ ?_
                 | with_reducible refine Touches.trans ?_ (Touches.mono (metaStripes_touch (by assumption)) (by decide))
                 | with_reducible apply Touches.trans ?_ (Touches.mono (wr_touch _ _ _ _) (by decide))
                 | simp only [touches_mk]; with_reducible refine Touches.made (h := ?_) | (intro _) | (split))

theorem journalNote_touch (s : State) : Touches [.regs, .map] s (journalNote s) := by
  unfold journalNote
  repeat' (first | with_reducible exact Touches.refl _ _ | dsimp only | with_reducible apply Touches.ite ?_ ?_
                 | with_reducible apply Touches.trans ?_ (Touches.mono (startCheckpoint_touch ..) (by decide))
                 | simp only [touches_mk]; with_reducible refine Touches.made (h := ?_) | (intro _) | (split))

theorem programJournal_touch (ok : Bool) (s : State) : Touches [.regs, .free, .map, .mere, .nvq] s (programJournal ok s)
    := by
  unfold programJournal
  repeat' (first | with_reducible exact Touches.refl _ _ | dsimp only | with_reducible apply Touches.ite ?_ ?_
                 | with_reducible refine Touches.trans ?_ (Touches.mono (journalOpen_touch (by assumption)) (by decide))
                 | with_reducible apply Touches.trans ?_ (Touches.mono (failSlotOf_touch ..) (by decide))
                 | with_reducible apply Touches.trans ?_ (Touches.mono (drawn_touch ..) (by decide))
                 | with_reducible apply Touches.trans ?_ (Touches.mono (skipAbsent_touch ..) (by decide))
                 | with_reducible apply Touches.trans ?_ (Touches.mono (writeJournalRow_touch ..) (by decide))
                 | with_reducible apply Touches.trans ?_ (Touches.mono (journalNote_touch ..) (by decide))
                 | with_reducible apply Touches.trans ?_ (Touches.mono (durableFirst_touch ..) (by decide))
                 | with_reducible apply Touches.trans ?_ (Touches.mono (setFrontier_touch ..) (by decide))
                 | simp only [touches_mk]; with_reducible refine Touches.made (h := ?_) | (intro _) | (split))

theorem programUntil_touch (fuel j : Nat) (s : State) : Touches [.regs, .free, .map, .mere, .nvq] s (programUntil fuel j s) := by
  induction fuel generalizing s with
  | zero => exact Touches.refl _ _
  | succ n ih =>
    simp only [programUntil]; split
    · exact Touches.refl _ _
    · exact Touches.trans ((programJournal_touch ..).mono (by decide)) (ih _)

theorem makeDurable_touch (s : State) : Touches [.regs, .free, .map, .mere, .nvq] s (makeDurable s) := by
  unfold makeDurable
  repeat' (first | with_reducible exact Touches.refl _ _ | dsimp only | with_reducible apply Touches.ite ?_ ?_
                 | with_reducible apply Touches.trans ?_ (Touches.mono (programUntil_touch ..) (by decide))
                 | simp only [touches_mk]; with_reducible refine Touches.made (h := ?_) | (intro _) | (split))

theorem anchorPage_touch (v k : Nat) (s : State) : Touches [.map] s (anchorPage v k s) := by
  unfold anchorPage
  repeat' (first | with_reducible exact Touches.refl _ _ | dsimp only | with_reducible apply Touches.ite ?_ ?_
                 | with_reducible apply Touches.trans ?_ (Touches.mono (wipeBlock_touch ..) (by decide))
                 | with_reducible apply Touches.trans ?_ (Touches.mono (putBlock_touch ..) (by decide))
                 | with_reducible apply Touches.trans ?_ (Touches.mono (eachOf_touch ..) (by decide))
                 | with_reducible apply Touches.trans ?_ (Touches.mono (blockProgrammed_touch ..) (by decide))
                 | with_reducible apply Touches.trans ?_ (eachOf_touch _ _ _ ?_)
                 | with_reducible apply Touches.trans ?_ (foldl_touch _ _ _ ?_)
                 | simp only [touches_mk]; with_reducible refine Touches.made (h := ?_) | (intro _) | (split))

theorem anchorWrite_touch (s : State) : Touches [.map] s (anchorWrite s) := by
  unfold anchorWrite
  repeat' (first | with_reducible exact Touches.refl _ _ | dsimp only | with_reducible apply Touches.ite ?_ ?_
                 | with_reducible apply Touches.trans ?_ (Touches.mono (eachOf_touch ..) (by decide))
                 | with_reducible apply Touches.trans ?_ (Touches.mono (anchorPage_touch ..) (by decide))
                 | with_reducible apply Touches.trans ?_ (eachOf_touch _ _ _ ?_)
                 | with_reducible apply Touches.trans ?_ (foldl_touch _ _ _ ?_)
                 | simp only [touches_mk]; with_reducible refine Touches.made (h := ?_) | (intro _) | (split))

theorem refreshDone_touch (f kind : Nat) (s : State) : Touches [.ret] s (refreshDone f kind s) := by
  unfold refreshDone
  repeat' (first | with_reducible exact Touches.refl _ _ | dsimp only | with_reducible apply Touches.ite ?_ ?_
                 | with_reducible apply Touches.trans ?_ (Touches.mono (healthAdd_touch ..) (by decide))
                 | simp only [touches_mk]; with_reducible refine Touches.made (h := ?_) | (intro _) | (split))

theorem coverNote_touch (keys : List Nat) (s : State) : Touches [.nvq] s (coverNote keys s) := by
  unfold coverNote
  repeat' (first | with_reducible exact Touches.refl _ _ | dsimp only
                 | simp only [touches_mk]; with_reducible refine Touches.made (h := ?_))

theorem placeDirty_touch (key : Nat) (d : Dirty) (s : State) : Touches [.free, .map, .mere] s (placeDirty key d s) := by
  unfold placeDirty
  repeat' (first | with_reducible exact Touches.refl _ _ | dsimp only | with_reducible apply Touches.ite ?_ ?_
                 | with_reducible apply Touches.trans ?_ (Touches.mono (freeRegions_touch ..) (by decide))
                 | with_reducible apply Touches.trans ?_ (Touches.mono (fillRegion_touch ..) (by decide))
                 | with_reducible apply Touches.trans ?_ (Touches.mono (drawn_touch ..) (by decide))
                 | simp only [touches_mk]; with_reducible refine Touches.made (h := ?_) | (intro _) | (split))

theorem releaseDirty_touch (keys rs : List Nat) (s : State) : Touches [.map, .mere, .nvq] s (releaseDirty keys rs s) := by
  unfold releaseDirty
  repeat' (first | with_reducible exact Touches.refl _ _ | dsimp only | with_reducible apply Touches.ite ?_ ?_
                 | with_reducible apply Touches.trans ?_ (Touches.mono (freeRegions_touch ..) (by decide))
                 | with_reducible apply Touches.trans ?_ (Touches.mono (coverNote_touch ..) (by decide))
                 | with_reducible apply Touches.trans ?_ (Touches.mono (wakeDurable_touch ..) (by decide))
                 | simp only [touches_mk]; with_reducible refine Touches.made (h := ?_) | (intro _) | (split))

theorem dropDirty_touch (keys : List Nat) (s : State) : Touches [.map, .mere, .nvq] s (dropDirty keys s) := by
  unfold dropDirty
  repeat' (first | with_reducible exact Touches.refl _ _ | dsimp only | with_reducible apply Touches.ite ?_ ?_
                 | with_reducible apply Touches.trans ?_ (Touches.mono (releaseDirty_touch ..) (by decide))
                 | simp only [touches_mk]; with_reducible refine Touches.made (h := ?_) | (intro _) | (split))

theorem destaged_touch (keys : List Nat) (s : State) : Touches [.map, .mere, .nvq] s (destaged keys s) := by
  unfold destaged
  repeat' (first | with_reducible exact Touches.refl _ _ | dsimp only | with_reducible apply Touches.ite ?_ ?_
                 | with_reducible apply Touches.trans ?_ (Touches.mono (releaseDirty_touch ..) (by decide))
                 | with_reducible apply Touches.trans ?_ (eachOf_touch _ _ _ ?_)
                 | with_reducible apply Touches.trans ?_ (foldl_touch _ _ _ ?_)
                 | simp only [touches_mk]; with_reducible refine Touches.made (h := ?_) | (intro _) | (split))

theorem dropClean_touch (a b : Nat) (s : State) : Touches [.map, .mere] s (dropClean a b s) := by
  unfold dropClean
  repeat' (first | with_reducible exact Touches.refl _ _ | dsimp only | with_reducible apply Touches.ite ?_ ?_
                 | with_reducible apply Touches.trans ?_ (Touches.mono (freeRegions_touch ..) (by decide))
                 | simp only [touches_mk]; with_reducible refine Touches.made (h := ?_) | (intro _) | (split))

theorem openLog_touch {ltn : Nat} {pred : Option Nat} {cls : Nat} {s : State} {i t} (h : openLog ltn pred cls s = some (i,
    t)) : Touches [.free, .map] s t := by
  unfold openLog at h; split at h
  · simp only [Option.map_eq_some_iff] at h
    obtain ⟨r, hr, e⟩ := h
    have hs := openStripe_touch (i := r.1) hr
    cases e
    refine Touches.trans (hs.mono (by decide)) ?_
    repeat' (first | (with_reducible exact Touches.refl _ _) | (with_reducible apply Touches.trans ?_ ((journal_touch ..).mono (by decide)))
                   | (with_reducible apply Touches.trans ?_ ((journalStripe_touch ..).mono (by decide)))
                   | (with_reducible apply Touches.trans ?_ ((setCore_touch ..).mono (by decide)))
                   | (with_reducible apply Touches.trans ?_ ((drawn_touch ..).mono (by decide)))
                   | (with_reducible apply Touches.trans ?_ ((advanceRot_touch ..).mono (by decide)))
                   | (with_reducible apply Touches.ite ?_ ?_) | dsimp only | split)
  · cases h

theorem logAppend_touch (g : Nat) (key : Nat) (d : Dirty) (s : State) : Touches [.map, .mere, .nvq] s (logAppend g key d
    s) := by
  unfold logAppend
  repeat' (first | with_reducible exact Touches.refl _ _ | dsimp only | with_reducible apply Touches.ite ?_ ?_
                 | with_reducible apply Touches.trans ?_ (Touches.mono (skipAbsent_touch ..) (by decide))
                 | with_reducible apply Touches.trans ?_ (Touches.mono (putUnit_touch ..) (by decide))
                 | with_reducible apply Touches.trans ?_ (Touches.mono (putParity_touch ..) (by decide))
                 | with_reducible apply Touches.trans ?_ (Touches.mono (setFrontier_touch ..) (by decide))
                 | with_reducible apply Touches.trans ?_ (Touches.mono (setCore_touch ..) (by decide))
                 | with_reducible apply Touches.trans ?_ (Touches.mono (destaged_touch ..) (by decide))
                 | with_reducible apply Touches.trans ?_ (Touches.mono (journal_touch ..) (by decide))
                 | simp only [touches_mk]; with_reducible refine Touches.made (h := ?_) | (intro _) | (split))

theorem toLog_touch (ltn : Nat) (units : List (Nat × Dirty)) (s : State) : Touches [.regs, .free, .map, .mere, .nvq] s (toLog ltn units s)
    := by
  unfold toLog; split
  · exact Touches.refl _ _
  · simp only; split
    · split
      · exact (wr_touch _ _ _ _).mono (by decide)
      · exact Touches.refl _ _
    · next e =>
      refine Touches.trans ?_ (eachOf_touch _ _ _ (fun _ _ => (logAppend_touch ..).mono (by decide)))
      split at e
      · cases e; exact Touches.refl _ _
      · exact (openLog_touch e).mono (by decide)

theorem logPaceNote_touch (s : State) : Touches [.regs] s (logPaceNote s) := by
  unfold logPaceNote
  repeat' (first | with_reducible exact Touches.refl _ _ | with_reducible apply Touches.ite ?_ ?_
                 | with_reducible apply Touches.trans ?_ (Touches.mono (wr_touch _ _ _ _) (by decide)))

theorem sumpNote_touch (s : State) : Touches [.regs] s (sumpNote s) := by
  unfold sumpNote
  repeat' (first | with_reducible exact Touches.refl _ _ | dsimp only | with_reducible apply Touches.ite ?_ ?_
                 | with_reducible apply Touches.trans ?_ (Touches.mono (wr_touch _ _ _ _) (by decide))
                 | simp only [touches_mk]; with_reducible refine Touches.made (h := ?_) | (intro _) | (split))

theorem freeSumps_touch (s : State) : Touches [.ret, .map] s (freeSumps s) := by
  unfold freeSumps
  repeat' (first | with_reducible exact Touches.refl _ _ | dsimp only | with_reducible apply Touches.ite ?_ ?_
                 | with_reducible apply Touches.trans ?_ (Touches.mono (eachOf_touch ..) (by decide))
                 | with_reducible apply Touches.trans ?_ (Touches.mono (releaseAfter_touch ..) (by decide))
                 | with_reducible apply Touches.trans ?_ (eachOf_touch _ _ _ ?_)
                 | with_reducible apply Touches.trans ?_ (foldl_touch _ _ _ ?_)
                 | simp only [touches_mk]; with_reducible refine Touches.made (h := ?_) | (intro _) | (split))

theorem sumpStripe_touch {s : State} {i t} (h : sumpStripe s = some (i, t)) : Touches [.map] s t := by
  unfold sumpStripe at h; split at h
  · cases h; exact Touches.refl _ _
  · split at h
    · cases h
    · simp only [Option.map_eq_some_iff] at h
      obtain ⟨r, hr, e⟩ := h
      cases e; exact (openStripe_touch (i := r.1) hr).trans (journalStripe_touch ..)

theorem benchNotice_touch (old new : Nat) (s : State) : Touches [.out, .nvq] s (benchNotice old new s) := by
  unfold benchNotice
  repeat' (first | with_reducible exact Touches.refl _ _ | dsimp only | with_reducible apply Touches.ite ?_ ?_
                 | with_reducible apply Touches.trans ?_ (Touches.mono (eachOf_touch ..) (by decide))
                 | with_reducible apply Touches.trans ?_ (Touches.mono (aenPost_touch ..) (by decide))
                 | with_reducible apply Touches.trans ?_ (Touches.mono (vendorNotice_touch ..) (by decide))
                 | with_reducible apply Touches.trans ?_ (eachOf_touch _ _ _ ?_)
                 | with_reducible apply Touches.trans ?_ (foldl_touch _ _ _ ?_)
                 | simp only [touches_mk]; with_reducible refine Touches.made (h := ?_) | (intro _) | (split))

theorem fenRefreshOne_touch (f : Nat) (s : State) : Touches [.regs, .out, .fen, .nvq] s (fenRefreshOne f s) := by
  unfold fenRefreshOne
  repeat' (first | with_reducible exact Touches.refl _ _ | dsimp only | with_reducible apply Touches.ite ?_ ?_
                 | with_reducible apply Touches.trans ?_ (Touches.mono (wr_touch _ _ _ _) (by decide))
                 | with_reducible apply Touches.trans ?_ (Touches.mono (wrB_touch _ _ _ _) (by decide))
                 | with_reducible apply Touches.trans ?_ (Touches.mono (benchNotice_touch ..) (by decide))
                 | simp only [touches_mk]; with_reducible refine Touches.made (h := ?_))

theorem bench5Note_touch (s : State) : Touches [.regs, .out, .fen, .nvq] s (bench5Note s) := by
  unfold bench5Note
  repeat' (first | with_reducible exact Touches.refl _ _ | dsimp only | with_reducible apply Touches.ite ?_ ?_
                 | with_reducible apply Touches.trans ?_ (Touches.mono (wr_touch _ _ _ _) (by decide))
                 | with_reducible apply Touches.trans ?_ (Touches.mono (aenPost_touch ..) (by decide))
                 | simp only [touches_mk]; with_reducible refine Touches.made (h := ?_)
                 | with_reducible apply Touches.trans ?_ (eachOf_touch _ _ _ ?_) | (intro _))

theorem fenRefresh_touch (s : State) : Touches [.regs, .out, .glb, .fen, .nvq] s (fenRefresh s) := by
  unfold fenRefresh
  repeat' (first | with_reducible exact Touches.refl _ _
                 | with_reducible apply Touches.trans ?_ (Touches.mono (glbRefresh_touch ..) (by decide))
                 | with_reducible apply Touches.trans ?_ (Touches.mono (fenRefreshOne_touch ..) (by decide))
                 | with_reducible apply Touches.trans ?_ (Touches.mono (bench5Note_touch ..) (by decide))
                 | with_reducible apply Touches.trans ?_ (eachOf_touch _ _ _ ?_) | (intro _))

theorem markAbsent_touch (p : Nat × Nat → Bool) (s : State) : Touches [.map] s (markAbsent p s) := by
  unfold markAbsent
  repeat' (first | with_reducible exact Touches.refl _ _ | dsimp only | with_reducible apply Touches.ite ?_ ?_
                 | with_reducible apply Touches.trans ?_ (Touches.mono (eachOf_touch ..) (by decide))
                 | with_reducible apply Touches.trans ?_ (Touches.mono (setStripe_touch ..) (by decide))
                 | with_reducible apply Touches.trans ?_ (eachOf_touch _ _ _ ?_)
                 | with_reducible apply Touches.trans ?_ (foldl_touch _ _ _ ?_)
                 | simp only [touches_mk]; with_reducible refine Touches.made (h := ?_) | (intro _) | (split))

theorem noteLost_touch (l : Nat) (s : State) : Touches [.regs, .free, .out, .glb, .peat, .ret, .fen, .nvq] s (noteLost l
    s) := by
  unfold noteLost
  repeat' (first | with_reducible exact Touches.refl _ _ | dsimp only | with_reducible apply Touches.ite ?_ ?_
                 | with_reducible apply Touches.trans ?_ (Touches.mono (faultAbsorbed_touch ..) (by decide))
                 | simp only [touches_mk]; with_reducible refine Touches.made (h := ?_) | (intro _) | (split))

theorem groupsNote_touch (s : State) : Touches [.regs, .free, .glb, .peat, .seam] s (groupsNote s) := by
  unfold groupsNote
  repeat' (first | with_reducible exact Touches.refl _ _ | dsimp only | with_reducible apply Touches.ite ?_ ?_
                 | with_reducible apply Touches.trans ?_ (Touches.mono (eachOf_touch ..) (by decide))
                 | with_reducible apply Touches.trans ?_ (Touches.mono (faultRestored_touch ..) (by decide))
                 | with_reducible apply Touches.trans ?_ (eachOf_touch _ _ _ ?_)
                 | with_reducible apply Touches.trans ?_ (foldl_touch _ _ _ ?_)
                 | simp only [touches_mk]; with_reducible refine Touches.made (h := ?_) | (intro _) | (split))

theorem memberWell_touch (l : Nat) (s : State) : Touches [.regs, .free, .glb, .peat, .fen, .seam] s (memberWell l s) := by
  unfold memberWell
  repeat' (first | with_reducible exact Touches.refl _ _ | dsimp only | with_reducible apply Touches.ite ?_ ?_
                 | with_reducible apply Touches.trans ?_ (Touches.mono (groupsNote_touch ..) (by decide))
                 | with_reducible apply Touches.trans ?_ (Touches.mono (faultRestored_touch ..) (by decide))
                 | simp only [touches_mk]; with_reducible refine Touches.made (h := ?_) | (intro _) | (split))

theorem rebuildOver_touch (f : Nat) (s : State) : Touches [.regs, .free, .out, .glb, .peat, .fen, .seam, .nvq] s
    (rebuildOver f s) := by
  unfold rebuildOver
  repeat' (first | with_reducible exact Touches.refl _ _ | dsimp only | with_reducible apply Touches.ite ?_ ?_
                 | with_reducible apply Touches.trans ?_ (Touches.mono (eachOf_touch ..) (by decide))
                 | with_reducible apply Touches.trans ?_ (Touches.mono (memberWell_touch ..) (by decide))
                 | with_reducible apply Touches.trans ?_ (Touches.mono (faultRestored_touch ..) (by decide))
                 | with_reducible apply Touches.trans ?_ (Touches.mono (fenRefresh_touch ..) (by decide))
                 | with_reducible apply Touches.trans ?_ (eachOf_touch _ _ _ ?_)
                 | with_reducible apply Touches.trans ?_ (foldl_touch _ _ _ ?_)
                 | simp only [touches_mk]; with_reducible refine Touches.made (h := ?_) | (intro _) | (split))

theorem startRebuild_touch (l : Nat) (s : State) : Touches [.regs, .free, .out, .glb, .peat, .ret, .map, .fen, .seam,
    .nvq] s (startRebuild l s) := by
  unfold startRebuild
  repeat' (first | with_reducible exact Touches.refl _ _ | dsimp only | with_reducible apply Touches.ite ?_ ?_
                 | with_reducible apply Touches.trans ?_ (Touches.mono (noteLost_touch ..) (by decide))
                 | with_reducible apply Touches.trans ?_ (Touches.mono (rebuildOver_touch ..) (by decide))
                 | with_reducible apply Touches.trans ?_ (Touches.mono (markAbsent_touch ..) (by decide))
                 | simp only [touches_mk]; with_reducible refine Touches.made (h := ?_) | (intro _) | (split))

theorem loseDie_touch (l d : Nat) (s : State) : Touches [.regs, .free, .out, .glb, .peat, .ret, .map, .fen, .seam,
    .mere, .nvq] s (loseDie l d s) := by
  unfold loseDie
  repeat' (first | with_reducible exact Touches.refl _ _ | dsimp only | with_reducible apply Touches.ite ?_ ?_
                 | with_reducible apply Touches.trans ?_ (Touches.mono (eachOf_touch ..) (by decide))
                 | with_reducible apply Touches.trans ?_ (Touches.mono (spoilBlock_touch ..) (by decide))
                 | with_reducible apply Touches.trans ?_ (Touches.mono (rebuildOver_touch ..) (by decide))
                 | with_reducible apply Touches.trans ?_ (Touches.mono (faultAbsorbed_touch ..) (by decide))
                 | with_reducible apply Touches.trans ?_ (Touches.mono (markAbsent_touch ..) (by decide))
                 | with_reducible apply Touches.trans ?_ (eachOf_touch _ _ _ ?_)
                 | with_reducible apply Touches.trans ?_ (foldl_touch _ _ _ ?_)
                 | simp only [touches_mk]; with_reducible refine Touches.made (h := ?_) | (intro _) | (split))

theorem abandonJobs_touch (id : Nat) (s : State) : Touches [.map, .fen] s (abandonJobs id s) := by
  unfold abandonJobs
  repeat' (first | with_reducible exact Touches.refl _ _ | dsimp only
                 | with_reducible apply Touches.trans ?_ (Touches.mono (releaseSlots_touch ..) (by decide))
                 | simp only [touches_mk]; with_reducible refine Touches.made (h := ?_)
                 | with_reducible apply Touches.trans ?_ (eachOf_touch _ _ _ ?_) | (intro _))

theorem memberAbsent_touch (l : Nat) (s : State) : Touches [.regs, .free, .out, .glb, .peat, .ret, .map, .fen, .seam,
    .nvq] s (memberAbsent l s) := by
  unfold memberAbsent
  repeat' (first | with_reducible exact Touches.refl _ _ | dsimp only | with_reducible apply Touches.ite ?_ ?_
                 | with_reducible apply Touches.trans ?_ (Touches.mono (startRebuild_touch ..) (by decide))
                 | with_reducible apply Touches.trans ?_ (Touches.mono (noteLost_touch ..) (by decide))
                 | with_reducible apply Touches.trans ?_ (Touches.mono (fenRefresh_touch ..) (by decide))
                 | simp only [touches_mk]; with_reducible refine Touches.made (h := ?_) | (intro _) | (split))

theorem startDrain_touch (l : Nat) (s : State) : Touches [.regs, .out, .glb, .fen, .nvq] s (startDrain l s) := by
  unfold startDrain
  repeat' (first | with_reducible exact Touches.refl _ _ | dsimp only
                 | with_reducible apply Touches.trans ?_ (Touches.mono (fenRefresh_touch ..) (by decide))
                 | simp only [touches_mk]; with_reducible refine Touches.made (h := ?_))

theorem wornCheck_touch (l : Nat) (s : State) : Touches [.regs, .out, .glb, .fen, .nvq] s (wornCheck l s) := by
  unfold wornCheck
  repeat' (first | with_reducible exact Touches.refl _ _ | with_reducible apply Touches.ite ?_ ?_
                 | with_reducible apply Touches.trans ?_ (Touches.mono (vendorNotice_touch ..) (by decide))
                 | with_reducible apply Touches.trans ?_ (Touches.mono (startDrain_touch ..) (by decide)))

theorem spoilAndCheck_touch (l b reason flags : Nat) (s : State) : Touches [.regs, .out, .glb, .map, .fen, .mere, .nvq]
    s (spoilAndCheck l b reason flags s) := by
  unfold spoilAndCheck
  repeat' (first | with_reducible exact Touches.refl _ _ | dsimp only | with_reducible apply Touches.ite ?_ ?_
                 | with_reducible apply Touches.trans ?_ (Touches.mono (wornCheck_touch ..) (by decide))
                 | with_reducible apply Touches.trans ?_ (Touches.mono (spoilBlock_touch ..) (by decide))
                 | simp only [touches_mk]; with_reducible refine Touches.made (h := ?_) | (intro _) | (split))

theorem markLostAt_touch (id row slot w : Nat) (s : State) : Touches [.map] s (markLostAt id row slot w s) := by
  unfold markLostAt
  repeat' (first | with_reducible exact Touches.refl _ _ | dsimp only
                 | simp only [touches_mk]; with_reducible refine Touches.made (h := ?_) | (split))

theorem loseUnitAt_touch (id row slot w : Nat) (s : State) : Touches [.regs, .out, .ret, .map, .nvq] s (loseUnitAt id
    row slot w s) := by
  unfold loseUnitAt
  repeat' (first | with_reducible exact Touches.refl _ _ | dsimp only | with_reducible apply Touches.ite ?_ ?_
                 | with_reducible apply Touches.trans ?_ (Touches.mono (declareUnitLost_touch ..) (by decide))
                 | with_reducible apply Touches.trans ?_ (Touches.mono (markLostAt_touch ..) (by decide))
                 | simp only [touches_mk]; with_reducible refine Touches.made (h := ?_) | (intro _) | (split))

theorem losePlace_touch (id row w : Nat) (s : State) : Touches [.regs, .out, .ret, .map, .nvq] s (losePlace id row w s)
    := by
  unfold losePlace
  repeat' (first | with_reducible exact Touches.refl _ _ | dsimp only | with_reducible apply Touches.ite ?_ ?_
                 | with_reducible apply Touches.trans ?_ (Touches.mono (eachOf_touch ..) (by decide))
                 | with_reducible apply Touches.trans ?_ (Touches.mono (loseUnitAt_touch ..) (by decide))
                 | with_reducible apply Touches.trans ?_ (eachOf_touch _ _ _ ?_)
                 | with_reducible apply Touches.trans ?_ (foldl_touch _ _ _ ?_)
                 | simp only [touches_mk]; with_reducible refine Touches.made (h := ?_) | (intro _) | (split))

theorem loseExceeded_touch (id : Nat) (s : State) : Touches [.regs, .out, .ret, .map, .nvq] s (loseExceeded id s) := by
  unfold loseExceeded
  repeat' (first | with_reducible exact Touches.refl _ _ | dsimp only | with_reducible apply Touches.ite ?_ ?_
                 | with_reducible apply Touches.trans ?_ (Touches.mono (eachOf_touch ..) (by decide))
                 | with_reducible apply Touches.trans ?_ (Touches.mono (losePlace_touch ..) (by decide))
                 | with_reducible apply Touches.trans ?_ (eachOf_touch _ _ _ ?_)
                 | with_reducible apply Touches.trans ?_ (foldl_touch _ _ _ ?_)
                 | simp only [touches_mk]; with_reducible refine Touches.made (h := ?_) | (intro _) | (split))

theorem sumpProgram_touch (ltn row : Nat) (units : List (Nat × Dirty)) (failSlot : Option Nat) (s : State) : Touches
    [.regs, .ret, .map, .mere, .nvq] s (sumpProgram ltn row units failSlot s) := by
  unfold sumpProgram
  repeat' (first | with_reducible exact Touches.refl _ _ | dsimp only | with_reducible apply Touches.ite ?_ ?_
                 | with_reducible refine Touches.trans ?_ (Touches.mono (sumpStripe_touch (by assumption)) (by decide))
                 | with_reducible apply Touches.trans ?_ (Touches.mono (wr_touch _ _ _ _) (by decide))
                 | with_reducible apply Touches.trans ?_ (Touches.mono (slotGone_touch ..) (by decide))
                 | with_reducible apply Touches.trans ?_ (Touches.mono (spoilBlock_touch ..) (by decide))
                 | with_reducible apply Touches.trans ?_ (Touches.mono (eachOf_touch ..) (by decide))
                 | with_reducible apply Touches.trans ?_ (Touches.mono (putUnit_touch ..) (by decide))
                 | with_reducible apply Touches.trans ?_ (Touches.mono (rowsProgrammed_touch ..) (by decide))
                 | with_reducible apply Touches.trans ?_ (Touches.mono (putParity_touch ..) (by decide))
                 | with_reducible apply Touches.trans ?_ (Touches.mono (journal_touch ..) (by decide))
                 | with_reducible apply Touches.trans ?_ (Touches.mono (freeSumps_touch ..) (by decide))
                 | with_reducible apply Touches.trans ?_ (Touches.mono (destaged_touch ..) (by decide))
                 | with_reducible apply Touches.trans ?_ (Touches.mono (closeStripe_touch ..) (by decide))
                 | with_reducible apply Touches.trans ?_ (eachOf_touch _ _ _ ?_)
                 | with_reducible apply Touches.trans ?_ (foldl_touch _ _ _ ?_)
                 | simp only [touches_mk]; with_reducible refine Touches.made (h := ?_) | (intro _) | (split))

theorem destageRow_touch (ltn row : Nat) (failSlot : Option Nat) (s : State) : Touches [.regs, .free, .ret, .map, .mere,
    .nvq] s (destageRow ltn row failSlot s) := by
  unfold destageRow
  repeat' (first | with_reducible exact Touches.refl _ _ | dsimp only | with_reducible apply Touches.ite ?_ ?_
                 | with_reducible apply Touches.trans ?_ (Touches.mono (toLog_touch ..) (by decide))
                 | with_reducible apply Touches.trans ?_ (Touches.mono (sumpProgram_touch ..) (by decide))
                 | simp only [touches_mk]; with_reducible refine Touches.made (h := ?_) | (intro _) | (split))

theorem tractStripe_touch {ltn : Nat} {s : State} {t} (h : tractStripe ltn s = some t) : Touches [.map] s t := by
  unfold tractStripe at h; simp only at h; split at h
  · cases h; exact Touches.refl _ _
  · split at h
    · cases h
    · simp only [Option.map_eq_some_iff] at h
      obtain ⟨r, hr, e⟩ := h
      have hs := openStripe_touch (i := r.1) hr
      cases e
      refine hs.trans ?_
      repeat' (first | (with_reducible exact Touches.refl _ _) | (with_reducible apply Touches.trans ?_ (journal_touch ..))
                     | (with_reducible apply Touches.trans ?_ (journalStripe_touch ..))
                     | (with_reducible apply Touches.trans ?_ (advanceRot_touch ..))
                     | (with_reducible apply Touches.ite ?_ ?_) | split | dsimp only)

theorem destageBelow_touch (ltn upto : Nat) (s : State) : Touches [.regs, .free, .ret, .map, .mere, .nvq] s
    (destageBelow ltn upto s) := by
  unfold destageBelow
  repeat' (first | with_reducible exact Touches.refl _ _ | dsimp only | with_reducible apply Touches.ite ?_ ?_
                 | with_reducible apply Touches.trans ?_ (Touches.mono (eachOf_touch ..) (by decide))
                 | with_reducible apply Touches.trans ?_ (Touches.mono (destageRow_touch ..) (by decide))
                 | with_reducible apply Touches.trans ?_ (eachOf_touch _ _ _ ?_)
                 | with_reducible apply Touches.trans ?_ (foldl_touch _ _ _ ?_)
                 | simp only [touches_mk]; with_reducible refine Touches.made (h := ?_) | (intro _) | (split))

theorem startFold_touch (ltn upto : Nat) (s : State) : Touches [.regs, .free, .ret, .map, .mere, .nvq] s (startFold ltn
    upto s) := by
  unfold startFold
  repeat' (first | with_reducible exact Touches.refl _ _ | dsimp only | with_reducible apply Touches.ite ?_ ?_
                 | with_reducible apply Touches.trans ?_ (Touches.mono (destageBelow_touch ..) (by decide))
                 | with_reducible refine Touches.trans ?_ (Touches.mono (tractStripe_touch (by assumption)) (by decide))
                 | simp only [touches_mk]; with_reducible refine Touches.made (h := ?_) | (intro _) | (split))

theorem copyUnits_touch (ltn id : Nat) (units : List Nat) (read : State → Nat → Option UnitData) (s : State) : Touches
    [.regs, .out, .ret, .map, .nvq] s (copyUnits ltn id units read s) := by
  unfold copyUnits
  repeat' (first | with_reducible exact Touches.refl _ _ | dsimp only | with_reducible apply Touches.ite ?_ ?_
                 | with_reducible apply Touches.trans ?_ (Touches.mono (declareUnitLost_touch ..) (by decide))
                 | with_reducible apply Touches.trans ?_ (Touches.mono (putUnit_touch ..) (by decide))
                 | with_reducible apply Touches.trans ?_ (eachOf_touch _ _ _ ?_) | (intro _) | (split))

theorem parityRows_touch (id a b : Nat) (s : State) : Touches [.map] s (parityRows id a b s) := by
  unfold parityRows
  repeat' (first | with_reducible exact Touches.refl _ _ | dsimp only | with_reducible apply Touches.ite ?_ ?_
                 | with_reducible apply Touches.trans ?_ (Touches.mono (eachOf_touch ..) (by decide))
                 | with_reducible apply Touches.trans ?_ (Touches.mono (putParity_touch ..) (by decide))
                 | with_reducible apply Touches.trans ?_ (eachOf_touch _ _ _ ?_)
                 | with_reducible apply Touches.trans ?_ (foldl_touch _ _ _ ?_)
                 | simp only [touches_mk]; with_reducible refine Touches.made (h := ?_) | (intro _) | (split))

theorem foldPassed_touch (ltn upto : Nat) (s : State) : Touches [.regs, .free, .map, .mere, .nvq] s (foldPassed ltn upto
    s) := by
  unfold foldPassed
  repeat' (first | with_reducible exact Touches.refl _ _ | dsimp only | with_reducible apply Touches.ite ?_ ?_
                 | with_reducible apply Touches.trans ?_ (Touches.mono (toLog_touch ..) (by decide))
                 | simp only [touches_mk]; with_reducible refine Touches.made (h := ?_) | (intro _) | (split))

theorem mapNote_touch (s : State) : Touches [.regs] s (mapNote s) := by
  unfold mapNote
  repeat' (first | with_reducible exact Touches.refl _ _
                 | with_reducible apply Touches.trans ?_ (Touches.mono (logPaceNote_touch ..) (by decide))
                 | with_reducible apply Touches.trans ?_ (Touches.mono (sumpNote_touch ..) (by decide)))

theorem startMerge_touch (ltn : Nat) (must evacuation : Bool) (s : State) : Touches [.regs, .free, .out, .ret, .map,
    .nvq, .slu] s (startMerge ltn must evacuation s) := by
  unfold startMerge
  repeat' (first | with_reducible exact Touches.refl _ _ | dsimp only | with_reducible apply Touches.ite ?_ ?_
                 | with_reducible refine Touches.trans ?_ (Touches.mono (openStripe_touch (by assumption)) (by decide))
                 | with_reducible apply Touches.trans ?_ (Touches.mono (advanceRot_touch ..) (by decide))
                 | with_reducible refine Touches.trans ?_ (Touches.mono (openLog_touch (by assumption)) (by decide))
                 | with_reducible apply Touches.trans ?_ (Touches.mono (wr_touch _ _ _ _) (by decide))
                 | with_reducible apply Touches.trans ?_ (Touches.mono (mergeBegin_touch ..) (by decide))
                 | with_reducible apply Touches.trans ?_ (Touches.mono (parityRows_touch ..) (by decide))
                 | with_reducible apply Touches.trans ?_ (Touches.mono (copyUnits_touch ..) (by decide))
                 | with_reducible apply Touches.trans ?_ (Touches.mono (putStripe_touch ..) (by decide))
                 | with_reducible apply Touches.trans ?_ (Touches.mono (rowsProgrammed_touch ..) (by decide))
                 | with_reducible apply Touches.trans ?_ (Touches.mono (journal_touch ..) (by decide))
                 | simp only [touches_mk]; with_reducible refine Touches.made (h := ?_) | (intro _) | (split))

theorem commitStripe_touch (ltn id : Nat) (st : TractState) (s : State) : Touches [.ret, .map, .fen] s (commitStripe ltn
    id st s) := by
  unfold commitStripe
  repeat' (first | with_reducible exact Touches.refl _ _ | dsimp only | with_reducible apply Touches.ite ?_ ?_
                 | with_reducible apply Touches.trans ?_ (Touches.mono (journalStripe_touch ..) (by decide))
                 | with_reducible apply Touches.trans ?_ (Touches.mono (closeStripe_touch ..) (by decide))
                 | with_reducible apply Touches.trans ?_ (Touches.mono (journal_touch ..) (by decide))
                 | with_reducible apply Touches.trans ?_ (Touches.mono (abandonJobs_touch ..) (by decide))
                 | with_reducible apply Touches.trans ?_ (Touches.mono (releaseAfter_touch ..) (by decide))
                 | simp only [touches_mk]; with_reducible refine Touches.made (h := ?_) | (intro _) | (split))

theorem startCopy_touch (ltn : Nat) (evacuation : Bool) (s : State) : Touches [.regs, .free, .out, .ret, .map, .nvq,
    .slu] s (startCopy ltn evacuation s) := by
  unfold startCopy
  repeat' (first | with_reducible exact Touches.refl _ _ | dsimp only | with_reducible apply Touches.ite ?_ ?_
                 | with_reducible apply Touches.trans ?_ (Touches.mono (startMerge_touch ..) (by decide))
                 | with_reducible refine Touches.trans ?_ (Touches.mono (openStripe_touch (by assumption)) (by decide))
                 | with_reducible apply Touches.trans ?_ (Touches.mono (advanceRot_touch ..) (by decide))
                 | with_reducible apply Touches.trans ?_ (Touches.mono (parityRows_touch ..) (by decide))
                 | with_reducible apply Touches.trans ?_ (Touches.mono (copyUnits_touch ..) (by decide))
                 | with_reducible apply Touches.trans ?_ (Touches.mono (putStripe_touch ..) (by decide))
                 | with_reducible apply Touches.trans ?_ (Touches.mono (rowsProgrammed_touch ..) (by decide))
                 | with_reducible apply Touches.trans ?_ (Touches.mono (journal_touch ..) (by decide))
                 | simp only [touches_mk]; with_reducible refine Touches.made (h := ?_) | (intro _) | (split))

theorem freeJournal_touch (first : Nat) (s : State) : Touches [.ret, .map] s (freeJournal first s) := by
  unfold freeJournal
  repeat' (first | with_reducible exact Touches.refl _ _ | dsimp only
                 | with_reducible apply Touches.trans ?_ (Touches.mono (releaseAfter_touch ..) (by decide))
                 | simp only [touches_mk]; with_reducible refine Touches.made (h := ?_)
                 | with_reducible apply Touches.trans ?_ (eachOf_touch _ _ _ ?_) | (intro _))

theorem setDue_touch (id : Nat) (s : State) : Touches [.ret, .map] s (setDue id s) := by
  unfold setDue
  repeat' (first | with_reducible exact Touches.refl _ _ | dsimp only | with_reducible apply Touches.ite ?_ ?_
                 | with_reducible apply Touches.trans ?_ (Touches.mono (setStripe_touch ..) (by decide))
                 | simp only [touches_mk]; with_reducible refine Touches.made (h := ?_) | (intro _) | (split))

theorem catchupNote_touch (s : State) : Touches [.regs, .out, .nvq] s (catchupNote s) := by
  unfold catchupNote
  repeat' (first | with_reducible exact Touches.refl _ _ | dsimp only | with_reducible apply Touches.ite ?_ ?_
                 | with_reducible apply Touches.trans ?_ (Touches.mono (wr_touch _ _ _ _) (by decide))
                 | with_reducible apply Touches.trans ?_ (Touches.mono (vendorNotice_touch ..) (by decide))
                 | simp only [touches_mk]; with_reducible refine Touches.made (h := ?_) | (intro _) | (split))

theorem judgeStripe_touch (id : Nat) (s : State) : Touches [.regs, .out, .ret, .map, .nvq] s (judgeStripe id s) := by
  unfold judgeStripe
  repeat' (first | with_reducible exact Touches.refl _ _ | dsimp only | with_reducible apply Touches.ite ?_ ?_
                 | with_reducible apply Touches.trans ?_ (Touches.mono (catchupNote_touch ..) (by decide))
                 | with_reducible apply Touches.trans ?_ (Touches.mono (setDue_touch ..) (by decide))
                 | simp only [touches_mk]; with_reducible refine Touches.made (h := ?_) | (intro _) | (split))

theorem measureBlock_touch (l b ppm : Nat) (s : State) : Touches [.regs, .free, .out, .ret, .map, .nvq] s (measureBlock l b
    ppm s) := by
  unfold measureBlock
  repeat' (first | with_reducible exact Touches.refl _ _ | dsimp only | with_reducible apply Touches.ite ?_ ?_
                 | with_reducible apply Touches.trans ?_ (Touches.mono (putBlock_touch ..) (by decide))
                 | with_reducible apply Touches.trans ?_ (Touches.mono (judgeStripe_touch ..) (by decide)))

theorem putPass_touch (p : DredgePass) (s : State) : Touches [.ret] s (putPass p s) := by
  unfold putPass
  repeat' (first | with_reducible exact Touches.refl _ _ | dsimp only
                 | simp only [touches_mk]; with_reducible refine Touches.made (h := ?_))

theorem newPass_touch (p : DredgePass) (s : State) : Touches [.ret] s (newPass p s) := by
  unfold newPass
  repeat' (first | with_reducible exact Touches.refl _ _ | dsimp only
                 | simp only [touches_mk]; with_reducible refine Touches.made (h := ?_))

theorem passNext_touch (s : State) : Touches [.ret] s (passNext s) := by
  unfold passNext
  repeat' (first | with_reducible exact Touches.refl _ _ | with_reducible apply Touches.ite ?_ ?_
                 | with_reducible apply Touches.trans ?_ (Touches.mono (putPass_touch ..) (by decide)) | (split))

theorem endPass_touch (p : DredgePass) (state : Nat) (s : State) : Touches [.regs, .out, .glb, .ret, .fen, .nvq] s (endPass p
    state s) := by
  unfold endPass
  repeat' (first | with_reducible exact Touches.refl _ _ | dsimp only | with_reducible apply Touches.ite ?_ ?_
                 | with_reducible apply Touches.trans ?_ (Touches.mono (fenRefresh_touch ..) (by decide))
                 | with_reducible apply Touches.trans ?_ (Touches.mono (putPass_touch ..) (by decide))
                 | with_reducible apply Touches.trans ?_ (Touches.mono (passNext_touch ..) (by decide))
                 | simp only [touches_mk]; with_reducible refine Touches.made (h := ?_))

theorem putWord_touch (a data : Nat) (poisoned : Bool) (s : State) : Touches [.mere] s (putWord a data poisoned s) := by
  unfold putWord
  repeat' (first | with_reducible exact Touches.refl _ _ | dsimp only
                 | simp only [touches_mk]; with_reducible refine Touches.made (h := ?_))

theorem flipBits_touch (flips : List (Nat × Nat)) (s : State) : Touches [.mere] s (flipBits flips s) := by
  unfold flipBits
  repeat' (first | with_reducible exact Touches.refl _ _ | dsimp only
                 | simp only [touches_mk]; with_reducible refine Touches.made (h := ?_))

theorem poisonGroup_touch (g : Nat) (s : State) : Touches [.mere] s (poisonGroup g s) := by
  unfold poisonGroup
  repeat' (first | with_reducible exact Touches.refl _ _ | dsimp only | with_reducible apply Touches.ite ?_ ?_
                 | with_reducible apply Touches.trans ?_ (eachOf_touch _ _ _ ?_)
                 | with_reducible apply Touches.trans ?_ (foldl_touch _ _ _ ?_)
                 | simp only [touches_mk]; with_reducible refine Touches.made (h := ?_) | (intro _) | (split))

theorem checkGroup_touch (g : Nat) (s : State) : Touches [.regs, .mere] s (checkGroup g s) := by
  unfold checkGroup
  repeat' (first | with_reducible exact Touches.refl _ _ | dsimp only | with_reducible apply Touches.ite ?_ ?_
                 | with_reducible apply Touches.trans ?_ (Touches.mono (poisonGroup_touch ..) (by decide))
                 | with_reducible apply Touches.trans ?_ (Touches.mono (wr_touch _ _ _ _) (by decide))
                 | simp only [touches_mk]; with_reducible refine Touches.made (h := ?_) | (intro _) | (split))

theorem flipGroup_touch (g flips : Nat) (s : State) : Touches [.mere] s (flipGroup g flips s) := by
  unfold flipGroup
  repeat' (first | with_reducible exact Touches.refl _ _ | dsimp only | with_reducible apply Touches.ite ?_ ?_
                 | simp only [touches_mk]; with_reducible refine Touches.made (h := ?_) | (intro _) | (split))

theorem checkGroups_touch (a len : Nat) (s : State) : Touches [.regs, .mere] s (checkGroups a len s) := by
  unfold checkGroups
  repeat' (first | with_reducible exact Touches.refl _ _ | dsimp only | with_reducible apply Touches.ite ?_ ?_
                 | with_reducible apply Touches.trans ?_ (Touches.mono (eachOf_touch ..) (by decide))
                 | with_reducible apply Touches.trans ?_ (Touches.mono (checkGroup_touch ..) (by decide))
                 | with_reducible apply Touches.trans ?_ (eachOf_touch _ _ _ ?_)
                 | with_reducible apply Touches.trans ?_ (foldl_touch _ _ _ ?_)
                 | simp only [touches_mk]; with_reducible refine Touches.made (h := ?_) | (intro _) | (split))

theorem lapStep_touch (i total : Nat) (s : State) : Touches [.regs, .mere] s (lapStep i total s) := by
  unfold lapStep
  repeat' (first | with_reducible exact Touches.refl _ _ | dsimp only | with_reducible apply Touches.ite ?_ ?_
                 | with_reducible apply Touches.trans ?_ (Touches.mono (wr_touch _ _ _ _) (by decide))
                 | simp only [touches_mk]; with_reducible refine Touches.made (h := ?_) | (intro _) | (split))

theorem unpark_touch (k : Nat) (s : State) : Touches [.regs] s (unpark k s) := by
  unfold unpark
  repeat' (first | with_reducible exact Touches.refl _ _ | dsimp only | with_reducible apply Touches.ite ?_ ?_
                 | with_reducible apply Touches.trans ?_ (Touches.mono (wr_touch _ _ _ _) (by decide))
                 | simp only [touches_mk]; with_reducible refine Touches.made (h := ?_) | (intro _) | (split))

theorem dropStack_touch (k : Nat) (s : State) : Touches [.map, .mere] s (dropStack k s) := by
  unfold dropStack
  repeat' (first | with_reducible exact Touches.refl _ _ | dsimp only | with_reducible apply Touches.ite ?_ ?_
                 | simp only [touches_mk]; with_reducible refine Touches.made (h := ?_) | (intro _) | (split))

theorem fenceMark_touch (k cause : Nat) (s : State) : Touches [.regs] s (fenceMark k cause s) := by
  unfold fenceMark
  repeat' (first | with_reducible exact Touches.refl _ _ | dsimp only | with_reducible apply Touches.ite ?_ ?_
                 | with_reducible apply Touches.trans ?_ (Touches.mono (wr_touch _ _ _ _) (by decide))
                 | with_reducible apply Touches.trans ?_ (Touches.mono (wrBit_touch _ _ _ _ _) (by decide)))

theorem reloadPiece_touch (piece : Nat) (s : State) : Touches [.map] s (reloadPiece piece s) := by
  unfold reloadPiece
  repeat' (first | with_reducible exact Touches.refl _ _ | dsimp only | with_reducible apply Touches.ite ?_ ?_
                 | simp only [touches_mk]; with_reducible refine Touches.made (h := ?_) | (intro _) | (split))

theorem placePiece_touch (piece : Nat) (s : State) : Touches [.map] s (placePiece piece s) := by
  unfold placePiece
  repeat' (first | with_reducible exact Touches.refl _ _ | dsimp only | with_reducible apply Touches.ite ?_ ?_
                 | simp only [touches_mk]; with_reducible refine Touches.made (h := ?_) | (intro _) | (split))

theorem placeMirrors_touch (s : State) : Touches [.map] s (placeMirrors s) := by
  unfold placeMirrors
  repeat' (first | with_reducible exact Touches.refl _ _ | dsimp only | with_reducible apply Touches.ite ?_ ?_
                 | with_reducible apply Touches.trans ?_ (Touches.mono (eachOf_touch ..) (by decide))
                 | with_reducible apply Touches.trans ?_ (Touches.mono (placePiece_touch ..) (by decide))
                 | with_reducible apply Touches.trans ?_ (eachOf_touch _ _ _ ?_)
                 | with_reducible apply Touches.trans ?_ (foldl_touch _ _ _ ?_)
                 | simp only [touches_mk]; with_reducible refine Touches.made (h := ?_) | (intro _) | (split))

theorem fenceLoss_touch (k : Nat) (s : State) : Touches [.regs, .out, .ret, .map, .mere, .nvq] s (fenceLoss k s) := by
  unfold fenceLoss
  repeat' (first | with_reducible exact Touches.refl _ _ | dsimp only | with_reducible apply Touches.ite ?_ ?_
                 | with_reducible apply Touches.trans ?_ (Touches.mono (dropStack_touch ..) (by decide))
                 | with_reducible apply Touches.trans ?_ (Touches.mono (eachOf_touch ..) (by decide))
                 | with_reducible apply Touches.trans ?_ (Touches.mono (placePiece_touch ..) (by decide))
                 | with_reducible apply Touches.trans ?_ (Touches.mono (reloadPiece_touch ..) (by decide))
                 | with_reducible apply Touches.trans ?_ (Touches.mono (coverLost_touch ..) (by decide))
                 | with_reducible apply Touches.trans ?_ (Touches.mono (declareUnitLost_touch ..) (by decide))
                 | with_reducible apply Touches.trans ?_ (eachOf_touch _ _ _ ?_)
                 | with_reducible apply Touches.trans ?_ (foldl_touch _ _ _ ?_)
                 | simp only [touches_mk]; with_reducible refine Touches.made (h := ?_) | (intro _) | (split))

theorem fenceStack_touch (k cause : Nat) (s : State) : Touches [.regs, .free, .out, .glb, .peat, .ret, .map, .mere, .nvq] s
    (fenceStack k cause s) := by
  unfold fenceStack
  repeat' (first | with_reducible exact Touches.refl _ _ | dsimp only | with_reducible apply Touches.ite ?_ ?_
                 | with_reducible apply Touches.trans ?_ (Touches.mono (glbRefresh_touch ..) (by decide))
                 | with_reducible apply Touches.trans ?_ (Touches.mono (faultAbsorbed_touch ..) (by decide))
                 | with_reducible apply Touches.trans ?_ (Touches.mono (fenceMark_touch ..) (by decide))
                 | with_reducible apply Touches.trans ?_ (Touches.mono (fenceLoss_touch ..) (by decide))
                 | simp only [touches_mk]; with_reducible refine Touches.made (h := ?_))

theorem remirrorDirty_touch (s : State) : Touches [.free, .map, .mere] s (remirrorDirty s) := by
  unfold remirrorDirty
  repeat' (first | with_reducible exact Touches.refl _ _ | dsimp only | with_reducible apply Touches.ite ?_ ?_
                 | with_reducible apply Touches.trans ?_ (Touches.mono (eachOf_touch ..) (by decide))
                 | with_reducible apply Touches.trans ?_ (Touches.mono (fillRegion_touch ..) (by decide))
                 | with_reducible apply Touches.trans ?_ (Touches.mono (drawn_touch ..) (by decide))
                 | with_reducible apply Touches.trans ?_ (eachOf_touch _ _ _ ?_)
                 | with_reducible apply Touches.trans ?_ (foldl_touch _ _ _ ?_)
                 | simp only [touches_mk]; with_reducible refine Touches.made (h := ?_) | (intro _) | (split))

theorem remirrorPieces_touch (s : State) : Touches [.map] s (remirrorPieces s) := by
  unfold remirrorPieces
  repeat' (first | with_reducible exact Touches.refl _ _ | dsimp only | with_reducible apply Touches.ite ?_ ?_
                 | with_reducible apply Touches.trans ?_ (Touches.mono (eachOf_touch ..) (by decide))
                 | with_reducible apply Touches.trans ?_ (eachOf_touch _ _ _ ?_)
                 | with_reducible apply Touches.trans ?_ (foldl_touch _ _ _ ?_)
                 | simp only [touches_mk]; with_reducible refine Touches.made (h := ?_) | (intro _) | (split))

theorem corrected_touch (k : Nat) (s : State) : Touches [.regs, .free, .out, .glb, .peat, .ret, .map, .mere, .nvq] s
    (corrected k s) := by
  unfold corrected
  repeat' (first | with_reducible exact Touches.refl _ _ | dsimp only | with_reducible apply Touches.ite ?_ ?_
                 | with_reducible apply Touches.trans ?_ (Touches.mono (wr_touch _ _ _ _) (by decide))
                 | with_reducible apply Touches.trans ?_ (Touches.mono (count_touch _ _ _ _) (by decide))
                 | with_reducible apply Touches.trans ?_ (Touches.mono (wrBit_touch _ _ _ _ _) (by decide))
                 | with_reducible apply Touches.trans ?_ (Touches.mono (fenceStack_touch ..) (by decide))
                 | simp only [touches_mk]; with_reducible refine Touches.made (h := ?_))

theorem leakAll_touch (s : State) : Touches [.regs, .mere] s (leakAll s) := by
  unfold leakAll
  repeat' (first | with_reducible exact Touches.refl _ _ | dsimp only | with_reducible apply Touches.ite ?_ ?_
                 | with_reducible apply Touches.trans ?_ (Touches.mono (wr_touch _ _ _ _) (by decide))
                 | simp only [touches_mk]; with_reducible refine Touches.made (h := ?_)
                 | with_reducible apply Touches.trans ?_ (eachOf_touch _ _ _ ?_) | (intro _))

theorem noteCheck_touch (a : Nat) (c : WordCheck) (s : State) : Touches [.regs, .free, .out, .glb, .peat, .ret, .map, .mere,
    .nvq] s (noteCheck a c s) := by
  unfold noteCheck
  repeat' (first | with_reducible exact Touches.refl _ _ | dsimp only | with_reducible apply Touches.ite ?_ ?_
                 | with_reducible apply Touches.trans ?_ (Touches.mono (count_touch _ _ _ _) (by decide))
                 | with_reducible apply Touches.trans ?_ (Touches.mono (wrBit_touch _ _ _ _ _) (by decide))
                 | with_reducible apply Touches.trans ?_ (Touches.mono (corrected_touch ..) (by decide)) | (split))

theorem readWordAt_touch (a : Nat) (s : State) : Touches [.regs, .free, .out, .glb, .peat, .ret, .map, .mere, .nvq] s
    (readWordAt a s).2 := by
  unfold readWordAt
  repeat' (first | with_reducible exact Touches.refl _ _ | dsimp only
                 | with_reducible apply Touches.trans ?_ (Touches.mono (noteCheck_touch ..) (by decide)) | (split))

theorem readWordAt_touch' {a : Nat} {s : State} {av : (Nat × Bool)} {tv : State} (h : readWordAt a s = (av, tv)) : Touches
    [.regs, .free, .out, .glb, .peat, .ret, .map, .mere, .nvq] s tv := by
  have := readWordAt_touch a s; rw [h] at this; exact this

theorem readMirrored_touch (a m : Nat) (s : State) : Touches [.regs, .free, .out, .glb, .peat, .ret, .map, .mere, .nvq] s
    (readMirrored a m s).2 := by
  unfold readMirrored
  repeat' (first | with_reducible exact Touches.refl _ _ | dsimp only
                 | with_reducible apply Touches.trans ?_ (Touches.mono (count_touch _ _ _ _) (by decide))
                 | with_reducible apply Touches.trans ?_ (Touches.mono (putWord_touch ..) (by decide))
                 | with_reducible apply Touches.trans ?_ (Touches.mono (readWordAt_touch ..) (by decide)) | (split))

theorem readMirrored_touch' {a m : Nat} {s : State} {av : (Nat × Bool)} {tv : State} (h : readMirrored a m s = (av, tv)) :
    Touches [.regs, .free, .out, .glb, .peat, .ret, .map, .mere, .nvq] s tv := by
  have := readMirrored_touch a m s; rw [h] at this; exact this

end Sys2Proof.Machine
end

