-- ==== Sys2Proof/Laws/TouchHost.lean ====
section
/-! SUPPORT. Which parts of the state the operations of the Mere, the cipher, NVMe and Sluice change (see TouchBase). -/

-- One theorem after the other: elaborated side by side, their many small side proofs make Lean start hundreds of threads.
set_option Elab.async false

namespace Sys2Proof.Machine

open Sys2Proof

theorem readRun_touch (n w : Nat) (mirror : Option Nat) (s : State) : Touches [.regs, .free, .out, .glb, .peat, .ret, .map,
    .mere, .nvq] s (readRun n w mirror s).2 := by
  induction n generalizing w mirror s with
  | zero => unfold readRun; repeat' (first | with_reducible exact Touches.refl _ _)
  | succ k ih => unfold readRun; repeat' (first | with_reducible exact Touches.refl _ _ | dsimp only
                                                | with_reducible apply Touches.trans ?_ (ih ..)
                                                | with_reducible apply Touches.trans ?_ (Touches.mono (readWordAt_touch ..)
                                                (by decide))
                                                | with_reducible apply Touches.trans ?_ (Touches.mono (readMirrored_touch ..)
                                                (by decide)) | (split))

theorem readRun_touch' {n w : Nat} {mirror : Option Nat} {s : State} {av : (Nat × Bool)} {tv : State} (h : readRun n w mirror
    s = (av, tv)) : Touches [.regs, .free, .out, .glb, .peat, .ret, .map, .mere, .nvq] s tv := by
  have := readRun_touch n w mirror s; rw [h] at this; exact this

theorem partialOne_touch (a o n v : Nat) (s : State) : Touches [.regs, .free, .out, .glb, .peat, .ret, .map, .mere, .nvq] s
    (partialOne a o n v s).2 := by
  unfold partialOne
  repeat' (first | with_reducible exact Touches.refl _ _ | dsimp only
                 | with_reducible apply Touches.trans ?_ (Touches.mono (count_touch _ _ _ _) (by decide))
                 | with_reducible apply Touches.trans ?_ (Touches.mono (peatRecord_touch ..) (by decide))
                 | with_reducible apply Touches.trans ?_ (Touches.mono (putWord_touch ..) (by decide))
                 | with_reducible apply Touches.trans ?_ (Touches.mono (validate_touch ..) (by decide))
                 | with_reducible apply Touches.trans ?_ (Touches.mono (noteCheck_touch ..) (by decide)) | (split))

theorem partialOne_touch' {a o n v : Nat} {s : State} {av : Bool} {tv : State} (h : partialOne a o n v s = (av, tv)) :
    Touches [.regs, .free, .out, .glb, .peat, .ret, .map, .mere, .nvq] s tv := by
  have := partialOne_touch a o n v s; rw [h] at this; exact this

theorem writeWordAt_touch (a : Nat) (mirror : Option Nat) (o n v : Nat) (s : State) : Touches [.regs, .free, .out, .glb,
    .peat, .ret, .map, .mere, .nvq] s (writeWordAt a mirror o n v s).2 := by
  unfold writeWordAt
  repeat' (first | with_reducible exact Touches.refl _ _ | dsimp only
                 | with_reducible apply Touches.trans ?_ (Touches.mono (count_touch _ _ _ _) (by decide))
                 | with_reducible apply Touches.trans ?_ (Touches.mono (putWord_touch ..) (by decide))
                 | with_reducible apply Touches.trans ?_ (Touches.mono (validate_touch ..) (by decide))
                 | with_reducible apply Touches.trans ?_ (Touches.mono (noteCheck_touch ..) (by decide))
                 | with_reducible apply Touches.trans ?_ (Touches.mono (partialOne_touch ..) (by decide)) | (split))

theorem writeWordAt_touch' {a : Nat} {mirror : Option Nat} {o n v : Nat} {s : State} {av : Bool} {tv : State} (h :
    writeWordAt a mirror o n v s = (av, tv)) : Touches [.regs, .free, .out, .glb, .peat, .ret, .map, .mere, .nvq] s tv := by
  have := writeWordAt_touch a mirror o n v s; rw [h] at this; exact this

theorem writeRun_touch (fuel a : Nat) (mirror : Option Nat) (len v : Nat) (s : State) : Touches [.regs, .free, .out, .glb,
    .peat, .ret, .map, .mere, .nvq] s (writeRun fuel a mirror len v s).2 := by
  induction fuel generalizing a mirror len v s with
  | zero => unfold writeRun; repeat' (first | with_reducible exact Touches.refl _ _)
  | succ k ih => unfold writeRun; repeat' (first | with_reducible exact Touches.refl _ _ | dsimp only
                                                 | with_reducible apply Touches.trans ?_ (ih ..)
                                                 | with_reducible apply Touches.trans ?_ (Touches.mono (writeWordAt_touch ..)
                                                 (by decide)) | (split))

theorem writeRun_touch' {fuel a : Nat} {mirror : Option Nat} {len v : Nat} {s : State} {av : Bool} {tv : State} (h : writeRun
    fuel a mirror len v s = (av, tv)) : Touches [.regs, .free, .out, .glb, .peat, .ret, .map, .mere, .nvq] s tv := by
  have := writeRun_touch fuel a mirror len v s; rw [h] at this; exact this

theorem mereStore_touch (a : Nat) (mirror : Option Nat) (len v : Nat) (s : State) : Touches [.regs, .free, .out, .glb, .peat,
    .ret, .map, .mere, .nvq] s (mereStore a mirror len v s).2 := by
  unfold mereStore
  repeat' (first | with_reducible exact Touches.refl _ _ | dsimp only
                 | with_reducible apply Touches.trans ?_ (Touches.mono (writeRun_touch ..) (by decide)) | (split))

theorem mereStore_touch' {a : Nat} {mirror : Option Nat} {len v : Nat} {s : State} {av : Bool} {tv : State} (h : mereStore a
    mirror len v s = (av, tv)) : Touches [.regs, .free, .out, .glb, .peat, .ret, .map, .mere, .nvq] s tv := by
  have := mereStore_touch a mirror len v s; rw [h] at this; exact this

theorem mereFetch_touch (a : Nat) (mirror : Option Nat) (len : Nat) (s : State) : Touches [.regs, .free, .out, .glb, .peat,
    .ret, .map, .mere, .nvq] s (mereFetch a mirror len s).2 := by
  unfold mereFetch
  repeat' (first | with_reducible exact Touches.refl _ _ | dsimp only
                 | with_reducible apply Touches.trans ?_ (Touches.mono (readRun_touch ..) (by decide)))

theorem mereFetch_touch' {a : Nat} {mirror : Option Nat} {len : Nat} {s : State} {av : (Nat × Bool)} {tv : State} (h :
    mereFetch a mirror len s = (av, tv)) : Touches [.regs, .free, .out, .glb, .peat, .ret, .map, .mere, .nvq] s tv := by
  have := mereFetch_touch a mirror len s; rw [h] at this; exact this

theorem mereBusError_touch (requester a : Nat) (s : State) : Touches [.regs, .free, .out, .peat] s (mereBusError requester a
    s) := by
  unfold mereBusError
  repeat' (first | with_reducible exact Touches.refl _ _
                 | with_reducible apply Touches.trans ?_ (Touches.mono (emit_touch ..) (by decide))
                 | with_reducible apply Touches.trans ?_ (Touches.mono (peatRecord_touch ..) (by decide)))

theorem labelPair_touch (avoid : List Nat) (s : State) : Touches [.map] s (labelPair avoid s).2 := by
  unfold labelPair; dsimp only; split
  · exact Touches.refl _ _
  · next a t e =>
    have h1 : Touches [.map] s t := by
      split at e
      · cases e; exact Touches.refl _ _
      · exact metaStripe_touch e
    split
    · exact h1
    · split
      · next h2 => exact h1.trans (metaStripeIn_touch h2)
      · exact h1

theorem labelPut_touch (payload : Nat) (ids : List Nat) (s : State) : Touches [.map] s (labelPut payload ids s) := by
  unfold labelPut
  repeat' (first | with_reducible exact Touches.refl _ _ | dsimp only | with_reducible apply Touches.ite ?_ ?_
                 | with_reducible apply Touches.trans ?_ (Touches.mono (eachOf_touch ..) (by decide))
                 | with_reducible apply Touches.trans ?_ (Touches.mono (skipAbsent_touch ..) (by decide))
                 | with_reducible apply Touches.trans ?_ (Touches.mono (setFrontier_touch ..) (by decide))
                 | with_reducible apply Touches.trans ?_ (Touches.mono (putParity_touch ..) (by decide))
                 | with_reducible apply Touches.trans ?_ (Touches.mono (putMeta_touch ..) (by decide))
                 | with_reducible apply Touches.trans ?_ (eachOf_touch _ _ _ ?_)
                 | with_reducible apply Touches.trans ?_ (foldl_touch _ _ _ ?_)
                 | simp only [touches_mk]; with_reducible refine Touches.made (h := ?_) | (intro _) | (split))

theorem labelRecord_touch (avoid : List Nat) (nsid : Nat) (n : Namespace) (state : Nat) (s : State) : Touches [.map] s
    (labelRecord avoid nsid n state s) := by
  unfold labelRecord
  repeat' (first | with_reducible exact Touches.refl _ _ | dsimp only | with_reducible apply Touches.ite ?_ ?_
                 | with_reducible apply Touches.trans ?_ (Touches.mono (labelPair_touch ..) (by decide))
                 | with_reducible apply Touches.trans ?_ (Touches.mono (labelPair_touch' (by assumption)) (by decide))
                 | with_reducible apply Touches.trans ?_ (Touches.mono (labelPut_touch ..) (by decide))
                 | with_reducible apply Touches.trans ?_ (Touches.mono (anchorWrite_touch ..) (by decide))
                 | simp only [touches_mk]; with_reducible refine Touches.made (h := ?_) | (intro _) | (split))

theorem labelWrite_touch (nsid : Nat) (s : State) : Touches [.map, .nvq] s (labelWrite nsid s) := by
  unfold labelWrite
  repeat' (first | with_reducible exact Touches.refl _ _ | dsimp only | with_reducible apply Touches.ite ?_ ?_
                 | with_reducible apply Touches.trans ?_ (Touches.mono (labelRecord_touch ..) (by decide))
                 | with_reducible apply Touches.trans ?_ (Touches.mono (putNs_touch ..) (by decide))
                 | simp only [touches_mk]; with_reducible refine Touches.made (h := ?_) | (intro _) | (split))

theorem eraseNow_touch (l b : Nat) (s : State) : Touches [.map] s (eraseNow l b s) := by
  unfold eraseNow
  repeat' (first | with_reducible exact Touches.refl _ _ | dsimp only | with_reducible apply Touches.ite ?_ ?_
                 | with_reducible apply Touches.trans ?_ (Touches.mono (wipeBlock_touch ..) (by decide))
                 | with_reducible apply Touches.trans ?_ (Touches.mono (putBlock_touch ..) (by decide))
                 | simp only [touches_mk]; with_reducible refine Touches.made (h := ?_) | (intro _) | (split))

theorem eraseLabels_touch (id : Nat) (s : State) : Touches [.regs, .free, .map, .mere, .nvq] s (eraseLabels id s) := by
  unfold eraseLabels
  repeat' (first | with_reducible exact Touches.refl _ _ | dsimp only | with_reducible apply Touches.ite ?_ ?_
                 | with_reducible apply Touches.trans ?_ (Touches.mono (makeDurable_touch ..) (by decide))
                 | with_reducible apply Touches.trans ?_ (Touches.mono (journal_touch ..) (by decide))
                 | with_reducible apply Touches.trans ?_ (Touches.mono (eachOf_touch ..) (by decide))
                 | with_reducible apply Touches.trans ?_ (Touches.mono (eraseNow_touch ..) (by decide))
                 | with_reducible apply Touches.trans ?_ (eachOf_touch _ _ _ ?_)
                 | with_reducible apply Touches.trans ?_ (foldl_touch _ _ _ ?_)
                 | simp only [touches_mk]; with_reducible refine Touches.made (h := ?_) | (intro _) | (split))

theorem labelErase_touch (nsid : Nat) (n : Namespace) (state : Nat) (s : State) : Touches [.regs, .free, .map, .mere,
    .nvq] s (labelErase nsid n state s) := by
  unfold labelErase
  repeat' (first | with_reducible exact Touches.refl _ _ | dsimp only | with_reducible apply Touches.ite ?_ ?_
                 | with_reducible apply Touches.trans ?_ (Touches.mono (labelRecord_touch ..) (by decide))
                 | with_reducible apply Touches.trans ?_ (Touches.mono (eachOf_touch ..) (by decide))
                 | with_reducible apply Touches.trans ?_ (Touches.mono (labelPair_touch ..) (by decide))
                 | with_reducible apply Touches.trans ?_ (Touches.mono (labelPair_touch' (by assumption)) (by decide))
                 | with_reducible apply Touches.trans ?_ (Touches.mono (labelPut_touch ..) (by decide))
                 | with_reducible apply Touches.trans ?_ (Touches.mono (anchorWrite_touch ..) (by decide))
                 | with_reducible apply Touches.trans ?_ (Touches.mono (eraseLabels_touch ..) (by decide))
                 | with_reducible apply Touches.trans ?_ (eachOf_touch _ _ _ ?_)
                 | with_reducible apply Touches.trans ?_ (foldl_touch _ _ _ ?_)
                 | simp only [touches_mk]; with_reducible refine Touches.made (h := ?_) | (intro _) | (split))

theorem putKeySlot_touch (k : Nat) (v : KeySlot) (s : State) : Touches [.cip] s (putKeySlot k v s) := by
  unfold putKeySlot
  repeat' (first | with_reducible exact Touches.refl _ _ | dsimp only
                 | simp only [touches_mk]; with_reducible refine Touches.made (h := ?_))

theorem rekey_touch (nsid key time : Nat) (n : Namespace) (s : State) : Touches [.regs, .free, .map, .mere, .nvq, .cip]
    s (rekey nsid key time n s) := by
  unfold rekey
  repeat' (first | with_reducible exact Touches.refl _ _ | dsimp only | with_reducible apply Touches.ite ?_ ?_
                 | with_reducible apply Touches.trans ?_ (Touches.mono (labelErase_touch ..) (by decide))
                 | with_reducible apply Touches.trans ?_ (Touches.mono (putKeySlot_touch ..) (by decide))
                 | with_reducible apply Touches.trans ?_ (Touches.mono (labelWrite_touch ..) (by decide))
                 | with_reducible apply Touches.trans ?_ (Touches.mono (putNs_touch ..) (by decide))
                 | simp only [touches_mk]; with_reducible refine Touches.made (h := ?_) | (intro _) | (split))

theorem cipCount_touch (op status : Nat) (s : State) : Touches [.regs] s (cipCount op status s) := by
  unfold cipCount
  repeat' (first | with_reducible exact Touches.refl _ _ | dsimp only | with_reducible apply Touches.ite ?_ ?_
                 | with_reducible apply Touches.trans ?_ (Touches.mono (count_touch _ _ _ _) (by decide)))

theorem cipDone_touch (ring k status : Nat) (tag : Option Nat) (r : CipReq) (s : State) : Touches [.regs, .free, .out, .glb,
    .peat, .ret, .map, .mere, .nvq] s (cipDone ring k status tag r s) := by
  unfold cipDone
  repeat' (first | with_reducible exact Touches.refl _ _ | dsimp only | with_reducible apply Touches.ite ?_ ?_
                 | with_reducible apply Touches.trans ?_ (Touches.mono (wr_touch _ _ _ _) (by decide))
                 | with_reducible apply Touches.trans ?_ (Touches.mono (cipCount_touch ..) (by decide))
                 | with_reducible apply Touches.trans ?_ (Touches.mono (writeWordAt_touch ..) (by decide)) | (split))

theorem cipFetch_touch (fuel r : Nat) (s : State) : Touches [.regs, .free, .out, .glb, .peat, .ret, .map, .mere, .nvq, .cip]
    s (cipFetch fuel r s) := by
  induction fuel generalizing r s with
  | zero => unfold cipFetch; repeat' (first | with_reducible exact Touches.refl _ _)
  | succ k ih => unfold cipFetch; repeat' (first | with_reducible exact Touches.refl _ _ | dsimp only
                                                 | with_reducible apply Touches.trans ?_ (ih ..)
                                                 | with_reducible apply Touches.ite ?_ ?_
                                                 | with_reducible apply Touches.trans ?_ (Touches.mono (wr_touch _ _ _ _) (by
                                                 decide))
                                                 | with_reducible apply Touches.trans ?_ (Touches.mono (cipDone_touch ..) (by
                                                 decide))
                                                 | with_reducible apply Touches.trans ?_ (Touches.mono (putKeySlot_touch ..)
                                                 (by decide))
                                                 | simp only [touches_mk]; with_reducible refine Touches.made (h := ?_))

theorem cipEnd_touch (ring k status : Nat) (tag : Option Nat) (q : CipReq) (s : State) : Touches [.regs, .free, .out, .glb,
    .peat, .ret, .map, .mere, .nvq, .cip] s (cipEnd ring k status tag q s) := by
  unfold cipEnd
  repeat' (first | with_reducible exact Touches.refl _ _ | dsimp only
                 | with_reducible apply Touches.trans ?_ (Touches.mono (cipDone_touch ..) (by decide))
                 | with_reducible apply Touches.trans ?_ (Touches.mono (putKeySlot_touch ..) (by decide))
                 | with_reducible apply Touches.trans ?_ (Touches.mono (cipFetch_touch ..) (by decide))
                 | simp only [touches_mk]; with_reducible refine Touches.made (h := ?_))

theorem cipInput_touch {q : CipReq} {s : State} {a t} (h : cipInput q s = some (a, t)) : Touches [.regs, .free, .out, .glb,
    .peat, .ret, .map, .mere, .nvq, .cip] s t := by
  unfold cipInput at h; split at h
  · simp only [Option.map_eq_some_iff] at h
    obtain ⟨r, hr, e⟩ := h
    cases e; constructor <;> first | exact fun _ => rfl | exact fun h => absurd (by decide) h
  · split at h
    · have := mereFetch_touch q.src none q.len s
      cases h' : mereFetch q.src none q.len s with
      | mk x y => rw [h'] at h this; cases h; exact this.mono (by decide)
    · cases h; exact Touches.refl _ _

theorem cipAd_touch (q : CipReq) (s : State) : Touches [.regs, .free, .out, .glb, .peat, .ret, .map, .mere, .nvq] s (cipAd q
    s).2 := by
  unfold cipAd
  repeat' (first | with_reducible exact Touches.refl _ _ | dsimp only
                 | with_reducible apply Touches.trans ?_ (Touches.mono (mereFetch_touch ..) (by decide)) | (split))

theorem cipAd_touch' {q : CipReq} {s : State} {av : (Nat × Bool)} {tv : State} (h : cipAd q s = (av, tv)) : Touches [.regs,
    .free, .out, .glb, .peat, .ret, .map, .mere, .nvq] s tv := by
  have := cipAd_touch q s; rw [h] at this; exact this

theorem cipRun_touch (ring k op : Nat) (f : Nat → CipReq → Nat → Nat → Nat × Option Nat × Option Nat) (s : State) : Touches
    [.regs, .free, .out, .glb, .peat, .ret, .map, .mere, .nvq, .cip] s (cipRun ring k op f s) := by
  unfold cipRun; split
  · simp only; split
    · exact Touches.refl _ _
    · next h =>
      refine (cipInput_touch h).trans (((cipAd_touch (cipAt s ring k) _).mono (by decide)).trans ?_)
      split
      · exact (cipEnd_touch ..).mono (by decide)
      · split
        · split
          · exact ((mereStore_touch ..).mono (by decide)).trans ((cipEnd_touch ..).mono (by decide))
          · exact (cipEnd_touch ..).mono (by decide)
        · exact (cipEnd_touch ..).mono (by decide)
  · exact Touches.refl _ _

theorem newKey_touch (s : State) : Touches [.cip] s (newKey s).2 := by
  unfold newKey
  repeat' (first | with_reducible exact Touches.refl _ _ | dsimp only
                 | simp only [touches_mk]; with_reducible refine Touches.made (h := ?_))

theorem newKey_touch' {s : State} {av : Nat} {tv : State} (h : newKey s = (av, tv)) : Touches [.cip] s tv := by
  have := newKey_touch s; rw [h] at this; exact this

theorem drainSlot_touch (k : Nat) (next cmd : Option Nat) (s : State) : Touches [.cip] s (drainSlot k next cmd s) := by
  unfold drainSlot
  repeat' (first | with_reducible exact Touches.refl _ _ | dsimp only
                 | with_reducible apply Touches.trans ?_ (Touches.mono (putKeySlot_touch ..) (by decide)))

theorem resNote_touch (n : NvmectlLot) (s : State) : Touches [.regs, .free, .peat] s (resNote n s) := by
  unfold resNote
  repeat' (first | with_reducible exact Touches.refl _ _ | with_reducible apply Touches.ite ?_ ?_
                 | with_reducible apply Touches.trans ?_ (Touches.mono (peatRecord_touch ..) (by decide)))

theorem freeSlotOf_touch (n : Nat) (s : State) : Touches [.nvq, .slu] s (freeSlotOf n s) := by
  unfold freeSlotOf
  repeat' (first | with_reducible exact Touches.refl _ _ | dsimp only | with_reducible apply Touches.ite ?_ ?_
                 | with_reducible apply Touches.trans ?_ (Touches.mono (putCtrl_touch ..) (by decide))
                 | with_reducible apply Touches.trans ?_ (Touches.mono (delSlot_touch ..) (by decide))
                 | simp only [touches_mk]; with_reducible refine Touches.made (h := ?_) | (split))

theorem takeEntry_touch (cid qid part : Nat) (e : Sqe) (s : State) : Touches [.regs, .ret, .nvq] s (takeEntry cid qid
    part e s) := by
  unfold takeEntry
  repeat' (first | with_reducible exact Touches.refl _ _ | dsimp only | with_reducible apply Touches.ite ?_ ?_
                 | with_reducible apply Touches.trans ?_ (Touches.mono (putCtrl_touch ..) (by decide))
                 | with_reducible apply Touches.trans ?_ (Touches.mono (putSlot_touch ..) (by decide))
                 | with_reducible apply Touches.trans ?_ (Touches.mono (count_touch _ _ _ _) (by decide))
                 | with_reducible apply Touches.trans ?_ (Touches.mono (wr_touch _ _ _ _) (by decide))
                 | with_reducible apply Touches.trans ?_ (Touches.mono (finishCmd_touch ..) (by decide))
                 | with_reducible apply Touches.trans ?_ (Touches.mono (carryReport_touch ..) (by decide))
                 | simp only [touches_mk]; with_reducible refine Touches.made (h := ?_) | (intro _) | (split))

theorem withCmd_touch {ps : List Part} (n : Nat) (ok : Cmd → Bool) (f : Cmd → Ctrl → State → State) (s : State) (hp : ∀ p ∈
    ([] : List Part), p ∈ ps) (hf : ∀ k c s, Touches ps s (f k c s)) : Touches ps s (withCmd n ok f s) := by
  unfold withCmd; split
  · exact Touches.refl _ _
  · split
    · exact Touches.refl _ _
    · split
      · exact Touches.refl _ _
      · exact hf ..

theorem finishChanged_touch (n status dw0 dw1 : Nat) (s : State) : Touches [.nvq] s (finishChanged n status dw0 dw1 s) := by
  unfold finishChanged
  repeat' (first | with_reducible exact Touches.refl _ _
                 | with_reducible apply Touches.trans ?_ (Touches.mono (putSlot_touch ..) (by decide))
                 | with_reducible apply Touches.trans ?_ (Touches.mono (finishCmd_touch ..) (by decide)) | (split))

theorem finishWrite_touch (n : Nat) (fua : Bool) (covers : List Nat) (dw0 dw1 : Nat) (s : State) : Touches [.nvq] s
    (finishWrite n fua covers dw0 dw1 s) := by
  unfold finishWrite
  repeat' (first | with_reducible exact Touches.refl _ _ | dsimp only | with_reducible apply Touches.ite ?_ ?_
                 | with_reducible apply Touches.trans ?_ (Touches.mono (putSlot_touch ..) (by decide))
                 | with_reducible apply Touches.trans ?_ (Touches.mono (finishCmd_touch ..) (by decide)) | (split))

theorem countUnrecovered_touch (s : State) : Touches [.ret] s (countUnrecovered s) := by
  unfold countUnrecovered
  repeat' (first | with_reducible exact Touches.refl _ _
                 | with_reducible apply Touches.trans ?_ (Touches.mono (healthAdd_touch ..) (by decide)))

theorem drawWseq_touch (nsid c : Nat) (s : State) : Touches [.map, .nvq] s (drawWseq nsid c s) := by
  unfold drawWseq
  repeat' (first | with_reducible exact Touches.refl _ _ | dsimp only | with_reducible apply Touches.ite ?_ ?_
                 | with_reducible apply Touches.trans ?_ (Touches.mono (putNs_touch ..) (by decide))
                 | with_reducible apply Touches.trans ?_ (Touches.mono (labelWrite_touch ..) (by decide)) | (split))

theorem unmapTract_touch (ltn : Nat) (s : State) : Touches [.regs, .ret, .map, .fen, .mere, .nvq, .slu] s (unmapTract
    ltn s) := by
  unfold unmapTract
  repeat' (first | with_reducible exact Touches.refl _ _ | dsimp only | with_reducible apply Touches.ite ?_ ?_
                 | with_reducible apply Touches.trans ?_ (Touches.mono (mergeEnd_touch ..) (by decide))
                 | with_reducible apply Touches.trans ?_ (Touches.mono (journal_touch ..) (by decide))
                 | with_reducible apply Touches.trans ?_ (Touches.mono (eachOf_touch ..) (by decide))
                 | with_reducible apply Touches.trans ?_ (Touches.mono (abandonJobs_touch ..) (by decide))
                 | with_reducible apply Touches.trans ?_ (Touches.mono (forgetDue_touch ..) (by decide))
                 | with_reducible apply Touches.trans ?_ (Touches.mono (releaseAfter_touch ..) (by decide))
                 | with_reducible apply Touches.trans ?_ (Touches.mono (mapNote_touch ..) (by decide))
                 | with_reducible apply Touches.trans ?_ (Touches.mono (freeSumps_touch ..) (by decide))
                 | with_reducible apply Touches.trans ?_ (Touches.mono (dropClean_touch ..) (by decide))
                 | with_reducible apply Touches.trans ?_ (Touches.mono (dropDirty_touch ..) (by decide))
                 | with_reducible apply Touches.trans ?_ (eachOf_touch _ _ _ ?_)
                 | with_reducible apply Touches.trans ?_ (foldl_touch _ _ _ ?_)
                 | simp only [touches_mk]; with_reducible refine Touches.made (h := ?_) | (intro _) | (split))

theorem lcrNotice_touch (cid : Nat) (s : State) : Touches [.out, .nvq] s (lcrNotice cid s) := by
  unfold lcrNotice
  repeat' (first | with_reducible exact Touches.refl _ _ | with_reducible apply Touches.ite ?_ ?_
                 | with_reducible apply Touches.trans ?_ (Touches.mono (putCtrl_touch ..) (by decide))
                 | with_reducible apply Touches.trans ?_ (Touches.mono (aenPost_touch ..) (by decide)) | (split))

theorem lcrOffer_touch (key : HostKey) (s : State) : Touches [.out, .nvq] s (lcrOffer key s) := by
  unfold lcrOffer
  repeat' (first | with_reducible exact Touches.refl _ _
                 | with_reducible apply Touches.trans ?_ (Touches.mono (lcrNotice_touch ..) (by decide))
                 | with_reducible apply Touches.trans ?_ (eachOf_touch _ _ _ ?_) | (intro _))

theorem badDoorbell_touch (cid info : Nat) (s : State) : Touches [.regs, .out, .nvq] s (badDoorbell cid info s) := by
  unfold badDoorbell
  repeat' (first | with_reducible exact Touches.refl _ _
                 | with_reducible apply Touches.trans ?_ (Touches.mono (wr_touch _ _ _ _) (by decide))
                 | with_reducible apply Touches.trans ?_ (Touches.mono (aenPost_touch ..) (by decide)))

theorem putSq_touch (cid qid : Nat) (c : Ctrl) (q : SubQueue) (s : State) : Touches [.nvq] s (putSq cid qid c q s) := by
  unfold putSq
  repeat' (first | with_reducible exact Touches.refl _ _
                 | with_reducible apply Touches.trans ?_ (Touches.mono (putCtrl_touch ..) (by decide)))

theorem putCq_touch (cid qid : Nat) (c : Ctrl) (q : CplQueue) (s : State) : Touches [.nvq] s (putCq cid qid c q s) := by
  unfold putCq
  repeat' (first | with_reducible exact Touches.refl _ _
                 | with_reducible apply Touches.trans ?_ (Touches.mono (putCtrl_touch ..) (by decide)))

theorem sqDoorbell_touch (cid qid value : Nat) (s : State) : Touches [.regs, .out, .nvq] s (sqDoorbell cid qid value s) := by
  unfold sqDoorbell
  repeat' (first | with_reducible exact Touches.refl _ _ | with_reducible apply Touches.ite ?_ ?_
                 | with_reducible apply Touches.trans ?_ (Touches.mono (badDoorbell_touch ..) (by decide))
                 | with_reducible apply Touches.trans ?_ (Touches.mono (putSq_touch ..) (by decide)) | (split))

theorem cqDoorbell_touch (cid qid value : Nat) (s : State) : Touches [.regs, .out, .nvq] s (cqDoorbell cid qid value s) := by
  unfold cqDoorbell
  repeat' (first | with_reducible exact Touches.refl _ _ | with_reducible apply Touches.ite ?_ ?_
                 | with_reducible apply Touches.trans ?_ (Touches.mono (badDoorbell_touch ..) (by decide))
                 | with_reducible apply Touches.trans ?_ (Touches.mono (putCq_touch ..) (by decide)) | (split))

theorem turnTaken_touch (cid qid n : Nat) (s : State) : Touches [.nvq] s (turnTaken cid qid n s) := by
  unfold turnTaken
  repeat' (first | with_reducible exact Touches.refl _ _ | dsimp only | with_reducible apply Touches.ite ?_ ?_
                 | with_reducible apply Touches.trans ?_ (Touches.mono (putCtrl_touch ..) (by decide))
                 | simp only [touches_mk]; with_reducible refine Touches.made (h := ?_) | (intro _) | (split))

theorem takeAll_touch (cid qid : Nat) (es : List Sqe) (s : State) : Touches [.regs, .ret, .nvq] s (takeAll cid qid es s) := by
  unfold takeAll
  repeat' (first | with_reducible exact Touches.refl _ _
                 | with_reducible apply Touches.trans ?_ (Touches.mono (takeEntry_touch ..) (by decide))
                 | with_reducible apply Touches.trans ?_ (Touches.mono (putSq_touch ..) (by decide))
                 | with_reducible apply Touches.trans ?_ (eachOf_touch _ _ _ ?_) | (intro _) | (split))

theorem sendVector_touch (cid v : Nat) (s : State) : Touches [.out, .nvq] s (sendVector cid v s) := by
  unfold sendVector
  repeat' (first | with_reducible exact Touches.refl _ _ | with_reducible apply Touches.ite ?_ ?_
                 | with_reducible apply Touches.trans ?_ (Touches.mono (emit_touch ..) (by decide))
                 | with_reducible apply Touches.trans ?_ (Touches.mono (putCtrl_touch ..) (by decide)) | (split))

theorem raiseVector_touch (cid cqid : Nat) (q : CplQueue) (s : State) : Touches [.out, .nvq] s (raiseVector cid cqid q s) := by
  unfold raiseVector
  repeat' (first | with_reducible exact Touches.refl _ _ | dsimp only | with_reducible apply Touches.ite ?_ ?_
                 | with_reducible apply Touches.trans ?_ (Touches.mono (putCtrl_touch ..) (by decide))
                 | with_reducible apply Touches.trans ?_ (Touches.mono (sendVector_touch ..) (by decide)) | (split))

theorem noteDone_touch (k : Cmd) (s : State) : Touches [.nvq] s (noteDone k s) := by
  unfold noteDone
  repeat' (first | with_reducible exact Touches.refl _ _ | dsimp only | with_reducible apply Touches.ite ?_ ?_
                 | simp only [touches_mk]; with_reducible refine Touches.made (h := ?_))

theorem deleteNote_touch (cid qid : Nat) (s : State) : Touches [.nvq] s (deleteNote cid qid s) := by
  unfold deleteNote
  repeat' (first | with_reducible exact Touches.refl _ _ | with_reducible apply Touches.ite ?_ ?_
                 | with_reducible apply Touches.trans ?_ (Touches.mono (putCtrl_touch ..) (by decide))
                 | with_reducible apply Touches.trans ?_ (Touches.mono (finishCmd_touch ..) (by decide)) | (split))

theorem endPosted_touch (n : Nat) (k : Cmd) (s : State) : Touches [.regs, .ret, .nvq, .slu] s (endPosted n k s) := by
  unfold endPosted
  repeat' (first | with_reducible exact Touches.refl _ _ | dsimp only | with_reducible apply Touches.ite ?_ ?_
                 | with_reducible apply Touches.trans ?_ (Touches.mono (count_touch _ _ _ _) (by decide))
                 | with_reducible apply Touches.trans ?_ (Touches.mono (errorLog_touch ..) (by decide))
                 | with_reducible apply Touches.trans ?_ (Touches.mono (freeSlotOf_touch ..) (by decide))
                 | with_reducible apply Touches.trans ?_ (Touches.mono (noteDone_touch ..) (by decide))
                 | with_reducible apply Touches.trans ?_ (Touches.mono (deleteNote_touch ..) (by decide)))

theorem postSlot_touch (n : Nat) (s : State) : Touches [.regs, .out, .ret, .nvq, .slu] s (postSlot n s) := by
  unfold postSlot
  repeat' (first | with_reducible exact Touches.refl _ _ | dsimp only | with_reducible apply Touches.ite ?_ ?_
                 | with_reducible apply Touches.trans ?_ (Touches.mono (emit_touch ..) (by decide))
                 | with_reducible apply Touches.trans ?_ (Touches.mono (putSlot_touch ..) (by decide))
                 | with_reducible apply Touches.trans ?_ (Touches.mono (delSlot_touch ..) (by decide))
                 | with_reducible apply Touches.trans ?_ (Touches.mono (freeSlotOf_touch ..) (by decide))
                 | with_reducible apply Touches.trans ?_ (Touches.mono (putCq_touch ..) (by decide))
                 | with_reducible apply Touches.trans ?_ (Touches.mono (raiseVector_touch ..) (by decide))
                 | with_reducible apply Touches.trans ?_ (Touches.mono (noteDone_touch ..) (by decide))
                 | with_reducible apply Touches.trans ?_ (Touches.mono (endPosted_touch ..) (by decide)) | (split))

theorem lcrTrim_touch (fuel : Nat) (s : State) : Touches [.regs, .nvq] s (lcrTrim fuel s) := by
  induction fuel generalizing s with
  | zero => unfold lcrTrim; repeat' (first | with_reducible exact Touches.refl _ _)
  | succ k ih => unfold lcrTrim; repeat' (first | with_reducible exact Touches.refl _ _ | dsimp only
                                                | with_reducible apply Touches.trans ?_ (ih ..)
                                                | with_reducible apply Touches.ite ?_ ?_
                                                | with_reducible apply Touches.trans ?_ (Touches.mono (wr_touch _ _ _ _) (by
                                                decide)) | simp only [touches_mk]; with_reducible refine Touches.made (h := ?_))

theorem lcrAdd_touch (key : HostKey) (cause : Nat) (es : List LostEntry) (s : State) : Touches [.regs, .nvq] s (lcrAdd key
    cause es s) := by
  unfold lcrAdd
  repeat' (first | with_reducible exact Touches.refl _ _ | dsimp only | with_reducible apply Touches.ite ?_ ?_
                 | with_reducible apply Touches.trans ?_ (Touches.mono (wr_touch _ _ _ _) (by decide))
                 | with_reducible apply Touches.trans ?_ (Touches.mono (lcrTrim_touch ..) (by decide))
                 | simp only [touches_mk]; with_reducible refine Touches.made (h := ?_))

theorem resetSlots_touch (cid : Nat) (reach : Bool) (s : State) : Touches [.free, .nvq, .slu] s (resetSlots cid reach s).2 := by
  unfold resetSlots
  suffices H : ∀ (l : List (Nat × Cmd)) (g : List LostEntry × State → (Nat × Cmd) → List LostEntry × State)
      (hg : ∀ a e, Touches [.free, .nvq, .slu] a.2 (g a e).2) (a : List LostEntry × State), Touches [.free, .nvq, .slu] a.2
          (l.foldl g a).2 by
    refine H _ _ ?_ ([], s)
    intro a e; obtain ⟨l, s⟩ := a; simp only
    split
    · exact Touches.refl _ _
    · split
      · exact (freeSlotOf_touch ..).mono (by decide)
      · repeat' (first | (with_reducible exact Touches.refl _ _)
                       | (with_reducible apply Touches.trans ?_ (Touches.mono (freeSlotOf_touch ..) (by decide)))
                       | (with_reducible apply Touches.trans ?_ (Touches.mono (putSlot_touch ..) (by decide)))
                       | (with_reducible apply Touches.trans ?_ (Touches.mono (drawn_touch ..) (by decide))) | split
                       | dsimp only)
  intro l g hg; induction l with
  | nil => intro a; exact Touches.refl _ _
  | cons e l ih => intro a; exact (hg a e).trans (ih _)

theorem resetSlots_touch' {cid : Nat} {reach : Bool} {s : State} {a t} (h : resetSlots cid reach s = (a, t)) : Touches
    [.free, .nvq, .slu] s t := by
  have := resetSlots_touch cid reach s; rw [h] at this; exact this

theorem ctrlReset_touch (cid cause : Nat) (reach : Bool) (s : State) : Touches [.regs, .free, .nvq, .slu] s (ctrlReset cid
    cause reach s) := by
  unfold ctrlReset
  repeat' (first | with_reducible exact Touches.refl _ _ | dsimp only
                 | with_reducible apply Touches.trans ?_ (Touches.mono (putCtrl_touch ..) (by decide))
                 | with_reducible apply Touches.trans ?_ (Touches.mono (lcrAdd_touch ..) (by decide))
                 | with_reducible apply Touches.trans ?_ (Touches.mono (resetSlots_touch ..) (by decide)) | (split))

theorem shutdownBegin_touch (cid : Nat) (s : State) : Touches [.nvq] s (shutdownBegin cid s) := by
  unfold shutdownBegin
  repeat' (first | with_reducible exact Touches.refl _ _
                 | with_reducible apply Touches.trans ?_ (Touches.mono (putCtrl_touch ..) (by decide)) | (split))

theorem armBoot_touch (cid : Nat) (s : State) : Touches [.nvq] s (armBoot cid s) := by
  unfold armBoot
  repeat' (first | with_reducible exact Touches.refl _ _ | dsimp only | with_reducible apply Touches.ite ?_ ?_
                 | simp only [touches_mk]; with_reducible refine Touches.made (h := ?_) | (split))

theorem enableWake_touch (s : State) : Touches [.nvq] s (enableWake s) := by
  unfold enableWake
  repeat' (first | with_reducible exact Touches.refl _ _ | dsimp only | with_reducible apply Touches.ite ?_ ?_
                 | simp only [touches_mk]; with_reducible refine Touches.made (h := ?_))

theorem ctrlEnable_touch (cid cc aqa : Nat) (s : State) : Touches [.out, .nvq] s (ctrlEnable cid cc aqa s) := by
  unfold ctrlEnable
  repeat' (first | with_reducible exact Touches.refl _ _ | dsimp only | with_reducible apply Touches.ite ?_ ?_
                 | with_reducible apply Touches.trans ?_ (Touches.mono (putCtrl_touch ..) (by decide))
                 | with_reducible apply Touches.trans ?_ (Touches.mono (lcrNotice_touch ..) (by decide))
                 | with_reducible apply Touches.trans ?_ (Touches.mono (armBoot_touch ..) (by decide))
                 | with_reducible apply Touches.trans ?_ (Touches.mono (enableWake_touch ..) (by decide)) | (split))

theorem setAna_touch (cid st : Nat) (s : State) : Touches [.out, .nvq] s (setAna cid st s) := by
  unfold setAna
  repeat' (first | with_reducible exact Touches.refl _ _ | with_reducible apply Touches.ite ?_ ?_
                 | with_reducible apply Touches.trans ?_ (Touches.mono (putCtrl_touch ..) (by decide))
                 | with_reducible apply Touches.trans ?_ (Touches.mono (aenPost_touch ..) (by decide)) | (split))

theorem portFollow_touch (p : HostPort) (s : State) : Touches [.out, .nvq] s (portFollow p s) := by
  unfold portFollow
  repeat' (first | with_reducible exact Touches.refl _ _
                 | with_reducible apply Touches.trans ?_ (Touches.mono (setAna_touch ..) (by decide))
                 | with_reducible apply Touches.trans ?_ (eachOf_touch _ _ _ ?_) | (intro _))

theorem portChange_touch (p : HostPort) (s : State) : Touches [.out, .nvq] s (portChange p s) := by
  unfold portChange
  repeat' (first | with_reducible exact Touches.refl _ _ | dsimp only | with_reducible apply Touches.ite ?_ ?_
                 | with_reducible apply Touches.trans ?_ (Touches.mono (portFollow_touch ..) (by decide))
                 | simp only [touches_mk]; with_reducible refine Touches.made (h := ?_))

theorem portSettle_touch (p : HostPort) (s : State) : Touches [.out, .nvq] s (portSettle p s) := by
  unfold portSettle
  repeat' (first | with_reducible exact Touches.refl _ _ | dsimp only
                 | with_reducible apply Touches.trans ?_ (Touches.mono (portFollow_touch ..) (by decide))
                 | simp only [touches_mk]; with_reducible refine Touches.made (h := ?_))

theorem setZone_touch (ltn z : Nat) (s : State) : Touches [.map] s (setZone ltn z s) := by
  unfold setZone
  repeat' (first | with_reducible exact Touches.refl _ _ | dsimp only
                 | with_reducible apply Touches.trans ?_ (Touches.mono (journal_touch ..) (by decide)))

theorem putPtr_touch (nsid t wp : Nat) (zfc : Bool) (s : State) : Touches [.nvq] s (putPtr nsid t wp zfc s) := by
  unfold putPtr
  repeat' (first | with_reducible exact Touches.refl _ _
                 | with_reducible apply Touches.trans ?_ (Touches.mono (putNs_touch ..) (by decide)) | (split))

theorem maskedWrite_touch (p : AccessPath) (off value mask : Nat) (s : State) : Touches [.regs, .free, .peat] s (maskedWrite
    p off value mask s) := by
  unfold maskedWrite; split
  · exact Touches.refl _ _
  · dsimp only
    suffices H : ∀ (l : List Field) (g : State × Bool → Field → State × Bool) (hg : ∀ a f, Touches [.regs, .free, .peat] a.1
        (g a f).1) (a : State × Bool),
        Touches [.regs, .free, .peat] a.1 (l.foldl g a).1 by
      split
      · refine Touches.trans ?_ ((accessViolation_touch ..).mono (by decide)); refine H _ _ ?_ (s, _); intro a f; dsimp only;
          split
        · exact Touches.mono (ps := [.regs, .free, .peat]) (wr_touch _ _ _ _) (by decide)
        · exact Touches.refl _ _
      · refine H _ _ ?_ (s, _); intro a f; dsimp only; split
        · exact Touches.mono (ps := [.regs, .free, .peat]) (wr_touch _ _ _ _) (by decide)
        · exact Touches.refl _ _
    intro l g hg; induction l with
    | nil => intro a; exact Touches.refl _ _
    | cons e l ih => intro a; exact (hg a e).trans (ih _)

theorem regWrite_touch (p : AccessPath) (off value : Nat) (s : State) : Touches [.regs, .free, .peat] s (regWrite p off value
    s) := by
  unfold regWrite
  repeat' (first | with_reducible exact Touches.refl _ _
                 | with_reducible apply Touches.trans ?_ (Touches.mono (maskedWrite_touch ..) (by decide)))

theorem drainStuck_touch (l : Nat) (s : State) : Touches [.map, .fen] s (drainStuck l s) := by
  unfold drainStuck
  repeat' (first | with_reducible exact Touches.refl _ _ | dsimp only
                 | with_reducible apply Touches.trans ?_ (Touches.mono (markAbsent_touch ..) (by decide))
                 | simp only [touches_mk]; with_reducible refine Touches.made (h := ?_))

theorem startJob_touch (id slot : Nat) (s : State) : Touches [.regs, .out, .glb, .ret, .map, .fen, .nvq] s (startJob id
    slot s) := by
  unfold startJob
  repeat' (first | with_reducible exact Touches.refl _ _ | dsimp only | with_reducible apply Touches.ite ?_ ?_
                 | with_reducible apply Touches.trans ?_ (Touches.mono (loseExceeded_touch ..) (by decide))
                 | with_reducible apply Touches.trans ?_ (Touches.mono (takeBlock_touch ..) (by decide))
                 | with_reducible apply Touches.trans ?_ (Touches.mono (setStripe_touch ..) (by decide))
                 | with_reducible apply Touches.trans ?_ (Touches.mono (fenRefresh_touch ..) (by decide))
                 | with_reducible apply Touches.trans ?_ (Touches.mono (drainStuck_touch ..) (by decide))
                 | simp only [touches_mk]; with_reducible refine Touches.made (h := ?_) | (intro _) | (split))

theorem staleParity_touch (id row w : Nat) (s : State) : Touches [.map] s (staleParity id row w s) := by
  unfold staleParity
  repeat' (first | with_reducible exact Touches.refl _ _ | dsimp only | with_reducible apply Touches.ite ?_ ?_
                 | with_reducible apply Touches.trans ?_ (eachOf_touch _ _ _ ?_)
                 | with_reducible apply Touches.trans ?_ (foldl_touch _ _ _ ?_)
                 | simp only [touches_mk]; with_reducible refine Touches.made (h := ?_) | (intro _) | (split))

theorem rebuildPlace_touch (j : RebuildJob) (row w : Nat) (s : State) : Touches [.regs, .out, .ret, .map, .nvq] s
    (rebuildPlace j row w s) := by
  unfold rebuildPlace
  repeat' (first | with_reducible exact Touches.refl _ _ | dsimp only | with_reducible apply Touches.ite ?_ ?_
                 | with_reducible apply Touches.trans ?_ (Touches.mono (programAt_touch ..) (by decide))
                 | with_reducible apply Touches.trans ?_ (Touches.mono (losePlace_touch ..) (by decide))
                 | with_reducible apply Touches.trans ?_ (Touches.mono (staleParity_touch ..) (by decide))
                 | simp only [touches_mk]; with_reducible refine Touches.made (h := ?_) | (intro _) | (split))

theorem rebuildRows_touch (j : RebuildJob) (upto : Nat) (s : State) : Touches [.regs, .out, .ret, .map, .nvq] s
    (rebuildRows j upto s) := by
  unfold rebuildRows
  repeat' (first | with_reducible exact Touches.refl _ _ | dsimp only | with_reducible apply Touches.ite ?_ ?_
                 | with_reducible apply Touches.trans ?_ (Touches.mono (eachOf_touch ..) (by decide))
                 | with_reducible apply Touches.trans ?_ (Touches.mono (rebuildPlace_touch ..) (by decide))
                 | with_reducible apply Touches.trans ?_ (Touches.mono (blockProgrammed_touch ..) (by decide))
                 | with_reducible apply Touches.trans ?_ (eachOf_touch _ _ _ ?_)
                 | with_reducible apply Touches.trans ?_ (foldl_touch _ _ _ ?_)
                 | simp only [touches_mk]; with_reducible refine Touches.made (h := ?_) | (intro _) | (split))

theorem sourceNote_touch (id : Nat) (s : State) : Touches [.ret, .map] s (sourceNote id s) := by
  unfold sourceNote
  repeat' (first | with_reducible exact Touches.refl _ _ | dsimp only | with_reducible apply Touches.ite ?_ ?_
                 | with_reducible apply Touches.trans ?_ (Touches.mono (setDue_touch ..) (by decide))
                 | simp only [touches_mk]; with_reducible refine Touches.made (h := ?_) | (intro _) | (split))

theorem refreshLoss_touch (id : Nat) (s : State) : Touches [.regs, .out, .ret, .map, .nvq] s (refreshLoss id s) := by
  unfold refreshLoss
  repeat' (first | with_reducible exact Touches.refl _ _ | dsimp only | with_reducible apply Touches.ite ?_ ?_
                 | with_reducible apply Touches.trans ?_ (Touches.mono (eachOf_touch ..) (by decide))
                 | with_reducible apply Touches.trans ?_ (Touches.mono (loseUnitAt_touch ..) (by decide))
                 | with_reducible apply Touches.trans ?_ (eachOf_touch _ _ _ ?_)
                 | with_reducible apply Touches.trans ?_ (foldl_touch _ _ _ ?_)
                 | simp only [touches_mk]; with_reducible refine Touches.made (h := ?_) | (intro _) | (split))

theorem eraseInPlace_touch (l b : Nat) (s : State) : Touches [.map] s (eraseInPlace l b s) := by
  unfold eraseInPlace
  repeat' (first | with_reducible exact Touches.refl _ _ | dsimp only | with_reducible apply Touches.ite ?_ ?_
                 | with_reducible apply Touches.trans ?_ (Touches.mono (wipeBlock_touch ..) (by decide))
                 | with_reducible apply Touches.trans ?_ (Touches.mono (takeBlock_touch ..) (by decide))
                 | with_reducible apply Touches.trans ?_ (Touches.mono (putBlock_touch ..) (by decide))
                 | simp only [touches_mk]; with_reducible refine Touches.made (h := ?_) | (intro _) | (split))

theorem refreshInPlace_touch (id : Nat) (failSlot : Option Nat) (s : State) : Touches [.regs, .out, .glb, .ret, .map,
    .fen, .mere, .nvq] s (refreshInPlace id failSlot s) := by
  unfold refreshInPlace
  repeat' (first | with_reducible exact Touches.refl _ _ | dsimp only | with_reducible apply Touches.ite ?_ ?_
                 | with_reducible apply Touches.trans ?_ (Touches.mono (refreshLoss_touch ..) (by decide))
                 | with_reducible apply Touches.trans ?_ (Touches.mono (eachOf_touch ..) (by decide))
                 | with_reducible apply Touches.trans ?_ (Touches.mono (eraseInPlace_touch ..) (by decide))
                 | with_reducible apply Touches.trans ?_ (Touches.mono (slotGone_touch ..) (by decide))
                 | with_reducible apply Touches.trans ?_ (Touches.mono (spoilAndCheck_touch ..) (by decide))
                 | with_reducible apply Touches.trans ?_ (Touches.mono (skipAbsent_touch ..) (by decide))
                 | with_reducible apply Touches.trans ?_ (Touches.mono (storeWord_touch ..) (by decide))
                 | with_reducible apply Touches.trans ?_ (Touches.mono (closeStripe_touch ..) (by decide))
                 | with_reducible apply Touches.trans ?_ (Touches.mono (rowsProgrammed_touch ..) (by decide))
                 | with_reducible apply Touches.trans ?_ (Touches.mono (parityRows_touch ..) (by decide))
                 | with_reducible apply Touches.trans ?_ (Touches.mono (journal_touch ..) (by decide))
                 | with_reducible apply Touches.trans ?_ (eachOf_touch _ _ _ ?_)
                 | with_reducible apply Touches.trans ?_ (foldl_touch _ _ _ ?_)
                 | simp only [touches_mk]; with_reducible refine Touches.made (h := ?_) | (intro _) | (split))

theorem rewriteSame_touch (id : Nat) (s : State) : Touches [.regs, .free, .ret, .map, .fen, .mere, .nvq] s (rewriteSame
    id s) := by
  unfold rewriteSame
  repeat' (first | with_reducible exact Touches.refl _ _ | dsimp only | with_reducible apply Touches.ite ?_ ?_
                 | with_reducible apply Touches.trans ?_ (Touches.mono (eachOf_touch ..) (by decide))
                 | with_reducible apply Touches.trans ?_ (Touches.mono (takeBlock_touch ..) (by decide))
                 | with_reducible apply Touches.trans ?_ (Touches.mono (putStripe_touch ..) (by decide))
                 | with_reducible apply Touches.trans ?_ (Touches.mono (storeWord_touch ..) (by decide))
                 | with_reducible apply Touches.trans ?_ (Touches.mono (closeStripe_touch ..) (by decide))
                 | with_reducible apply Touches.trans ?_ (Touches.mono (rowsProgrammed_touch ..) (by decide))
                 | with_reducible apply Touches.trans ?_ (Touches.mono (parityRows_touch ..) (by decide))
                 | with_reducible apply Touches.trans ?_ (Touches.mono (makeDurable_touch ..) (by decide))
                 | with_reducible apply Touches.trans ?_ (Touches.mono (journalStripe_touch ..) (by decide))
                 | with_reducible apply Touches.trans ?_ (Touches.mono (freeBlock_touch ..) (by decide))
                 | with_reducible apply Touches.trans ?_ (Touches.mono (refreshDone_touch ..) (by decide))
                 | with_reducible apply Touches.trans ?_ (Touches.mono (abandonJobs_touch ..) (by decide))
                 | with_reducible apply Touches.trans ?_ (Touches.mono (forgetDue_touch ..) (by decide))
                 | with_reducible apply Touches.trans ?_ (eachOf_touch _ _ _ ?_)
                 | with_reducible apply Touches.trans ?_ (foldl_touch _ _ _ ?_)
                 | simp only [touches_mk]; with_reducible refine Touches.made (h := ?_) | (intro _) | (split))

theorem metaRefresh_touch (id : Nat) (s : State) : Touches [.regs, .free, .ret, .map, .fen, .mere, .nvq] s (metaRefresh
    id s) := by
  unfold metaRefresh
  repeat' (first | with_reducible exact Touches.refl _ _ | dsimp only | with_reducible apply Touches.ite ?_ ?_
                 | with_reducible apply Touches.trans ?_ (Touches.mono (startCheckpoint_touch ..) (by decide))
                 | with_reducible apply Touches.trans ?_ (Touches.mono (rewriteSame_touch ..) (by decide))
                 | simp only [touches_mk]; with_reducible refine Touches.made (h := ?_) | (intro _) | (split))

theorem rebuildPend_touch (s : State) : Touches [.fen] s (rebuildPend s) := by
  unfold rebuildPend
  repeat' (first | with_reducible exact Touches.refl _ _ | dsimp only
                 | simp only [touches_mk]; with_reducible refine Touches.made (h := ?_))

theorem rebuildCtlWrite_touch (p : AccessPath) (value : Nat) (s : State) : Touches [.regs, .free, .peat, .fen] s
    (rebuildCtlWrite p value s) := by
  unfold rebuildCtlWrite
  repeat' (first | with_reducible exact Touches.refl _ _
                 | with_reducible apply Touches.trans ?_ (Touches.mono (regWrite_touch ..) (by decide))
                 | with_reducible apply Touches.trans ?_ (Touches.mono (rebuildPend_touch ..) (by decide)))

theorem fallowWake_touch (s : State) : Touches [.nvq] s (fallowWake s) := by
  unfold fallowWake
  repeat' (first | with_reducible exact Touches.refl _ _ | dsimp only
                 | simp only [touches_mk]; with_reducible refine Touches.made (h := ?_))

theorem admitSlot_touch (n : Nat) (k : Cmd) (s : State) : Touches [.nvq] s (admitSlot n k s) := by
  unfold admitSlot
  repeat' (first | with_reducible exact Touches.refl _ _
                 | with_reducible apply Touches.trans ?_ (Touches.mono (putSlot_touch ..) (by decide)))

theorem admitWrite_touch (n : Nat) (k : Cmd) (s : State) : Touches [.regs, .nvq] s (admitWrite n k s) := by
  unfold admitWrite
  repeat' (first | with_reducible exact Touches.refl _ _ | dsimp only | with_reducible apply Touches.ite ?_ ?_
                 | with_reducible apply Touches.trans ?_ (Touches.mono (wr_touch _ _ _ _) (by decide))
                 | with_reducible apply Touches.trans ?_ (Touches.mono (admitSlot_touch ..) (by decide)))

theorem holdJobs_touch (s : State) : Touches [.regs, .free, .out, .ret, .map, .fen, .nvq] s (holdJobs s) := by
  unfold holdJobs
  repeat' (first | with_reducible exact Touches.refl _ _ | dsimp only | with_reducible apply Touches.ite ?_ ?_
                 | with_reducible apply Touches.trans ?_ (Touches.mono (eachOf_touch ..) (by decide))
                 | with_reducible apply Touches.trans ?_ (Touches.mono (rebuildRows_touch ..) (by decide))
                 | with_reducible apply Touches.trans ?_ (Touches.mono (drawn_touch ..) (by decide))
                 | with_reducible apply Touches.trans ?_ (eachOf_touch _ _ _ ?_)
                 | with_reducible apply Touches.trans ?_ (foldl_touch _ _ _ ?_)
                 | simp only [touches_mk]; with_reducible refine Touches.made (h := ?_) | (intro _) | (split))

theorem applyShare_touch (s : State) : Touches [.regs, .free, .out, .ret, .map, .fen, .nvq] s (applyShare s) := by
  unfold applyShare
  repeat' (first | with_reducible exact Touches.refl _ _ | dsimp only | with_reducible apply Touches.ite ?_ ?_
                 | with_reducible apply Touches.trans ?_ (Touches.mono (holdJobs_touch ..) (by decide))
                 | simp only [touches_mk]; with_reducible refine Touches.made (h := ?_) | (intro _) | (split))

theorem periodScale_touch (s : State) : Touches [.free, .slu] s (periodScale s) := by
  unfold periodScale; dsimp only
  constructor <;> first | exact fun _ => rfl | exact fun h => absurd (by decide) h

theorem creditAge_touch (s : State) : Touches [.ret] s (creditAge s) := by
  unfold creditAge
  repeat' (first | with_reducible exact Touches.refl _ _ | dsimp only | with_reducible apply Touches.ite ?_ ?_
                 | simp only [touches_mk]; with_reducible refine Touches.made (h := ?_) | (intro _) | (split))

theorem periodUse_touch (s : State) : Touches [.slu] s (periodUse s) := by
  unfold periodUse
  repeat' (first | with_reducible exact Touches.refl _ _ | dsimp only
                 | with_reducible apply Touches.trans ?_ (Touches.mono (putUse_touch ..) (by decide))
                 | with_reducible apply Touches.trans ?_ (eachOf_touch _ _ _ ?_) | (intro _))

theorem periodTurn_touch (s : State) : Touches [.slu] s (periodTurn s) := by
  unfold periodTurn
  repeat' (first | with_reducible exact Touches.refl _ _ | dsimp only | with_reducible apply Touches.ite ?_ ?_
                 | simp only [touches_mk]; with_reducible refine Touches.made (h := ?_) | (intro _) | (split))

theorem periodStat_touch (s : State) : Touches [.regs] s (periodStat s) := by
  unfold periodStat
  repeat' (first | with_reducible exact Touches.refl _ _ | dsimp only | with_reducible apply Touches.ite ?_ ?_
                 | with_reducible apply Touches.trans ?_ (Touches.mono (wr_touch _ _ _ _) (by decide))
                 | with_reducible apply Touches.trans ?_ (Touches.mono (wrB_touch _ _ _ _) (by decide))
                 | simp only [touches_mk]; with_reducible refine Touches.made (h := ?_) | (intro _) | (split))

theorem zoneNotice_touch (nsid : Nat) (s : State) : Touches [.out, .nvq] s (zoneNotice nsid s) := by
  unfold zoneNotice
  repeat' (first | with_reducible exact Touches.refl _ _
                 | with_reducible apply Touches.trans ?_ (Touches.mono (aenPost_touch ..) (by decide))
                 | with_reducible apply Touches.trans ?_ (eachOf_touch _ _ _ ?_) | (intro _))

theorem finishZone_touch (ltn : Nat) (zfc : Bool) (s : State) : Touches [.map, .nvq] s (finishZone ltn zfc s) := by
  unfold finishZone
  repeat' (first | with_reducible exact Touches.refl _ _ | dsimp only
                 | with_reducible apply Touches.trans ?_ (Touches.mono (setZone_touch ..) (by decide))
                 | with_reducible apply Touches.trans ?_ (Touches.mono (putPtr_touch ..) (by decide)) | (split))

theorem forcedNote_touch (s : State) : Touches [.regs] s (forcedNote s) := by
  unfold forcedNote
  repeat' (first | with_reducible exact Touches.refl _ _
                 | with_reducible apply Touches.trans ?_ (Touches.mono (wr_touch _ _ _ _) (by decide))
                 | with_reducible apply Touches.trans ?_ (Touches.mono (count_touch _ _ _ _) (by decide)))

theorem setFeature_touch {ps : List Part} (n fid : Nat) (f : Cmd → Ctrl → State → State) (s : State) (hp : ∀ p ∈ [Part.nvq],
    p ∈ ps) (hf : ∀ k c s, Touches ps s (f k c s)) : Touches ps s (setFeature n fid f s) := by
  unfold setFeature; refine withCmd_touch (hp := by simp) (hf := ?_) ..; intro k c s
  split
  · exact (finishCmd_touch ..).mono hp
  · exact hf ..

theorem putFeat_touch (cid key v : Nat) (s : State) : Touches [.nvq] s (putFeat cid key v s) := by
  unfold putFeat
  repeat' (first | with_reducible exact Touches.refl _ _
                 | with_reducible apply Touches.trans ?_ (Touches.mono (putCtrl_touch ..) (by decide)) | (split))

theorem fallowNote_touch (s : State) : Touches [.nvq] s (fallowNote s) := by
  unfold fallowNote
  repeat' (first | with_reducible exact Touches.refl _ _ | dsimp only | with_reducible apply Touches.ite ?_ ?_
                 | simp only [touches_mk]; with_reducible refine Touches.made (h := ?_))

theorem takePs_touch (cid ps : Nat) (s : State) : Touches [.nvq] s (takePs cid ps s) := by
  unfold takePs
  repeat' (first | with_reducible exact Touches.refl _ _
                 | with_reducible apply Touches.trans ?_ (Touches.mono (putCtrl_touch ..) (by decide))
                 | with_reducible apply Touches.trans ?_ (Touches.mono (fallowNote_touch ..) (by decide)) | (split))

theorem putResv_touch (nsid : Nat) (f : Resv → Resv) (s : State) : Touches [.nvq] s (putResv nsid f s) := by
  unfold putResv
  repeat' (first | with_reducible exact Touches.refl _ _
                 | with_reducible apply Touches.trans ?_ (Touches.mono (putNs_touch ..) (by decide)) | (split))

theorem resvNote_touch (nsid kind : Nat) (hosts : List Nat) (s : State) : Touches [.out, .nvq] s (resvNote nsid kind hosts s)
    := by
  unfold resvNote
  repeat' (first | with_reducible exact Touches.refl _ _ | dsimp only | with_reducible apply Touches.ite ?_ ?_
                 | with_reducible apply Touches.trans ?_ (Touches.mono (aenPost_touch ..) (by decide))
                 | simp only [touches_mk]; with_reducible refine Touches.made (h := ?_)
                 | with_reducible apply Touches.trans ?_ (eachOf_touch _ _ _ ?_) | (intro _))

theorem resvCmd_touch {ps : List Part} (n opc : Nat) (f : Cmd → Nat → Resv → State → State) (s : State) (hp : ∀ p ∈
    [Part.nvq], p ∈ ps) (hf : ∀ k c x s, Touches ps s (f k c x s)) : Touches ps s (resvCmd n opc f s) := by
  unfold resvCmd; refine withCmd_touch (hp := by simp) (hf := ?_) ..; intro k c s
  split
  · exact (finishCmd_touch ..).mono hp
  · exact hf ..

theorem resvDone_touch (n nsid : Nat) (r : Resv) (s : State) : Touches [.nvq] s (resvDone n nsid r s) := by
  unfold resvDone
  repeat' (first | with_reducible exact Touches.refl _ _
                 | with_reducible apply Touches.trans ?_ (Touches.mono (finishCmd_touch ..) (by decide))
                 | with_reducible apply Touches.trans ?_ (Touches.mono (putResv_touch ..) (by decide)))

theorem abortHosts_touch (nsid : Nat) (hosts : List Nat) (s : State) : Touches [.nvq] s (abortHosts nsid hosts s) := by
  unfold abortHosts
  repeat' (first | with_reducible exact Touches.refl _ _
                 | with_reducible apply Touches.trans ?_ (Touches.mono (finishCmd_touch ..) (by decide))
                 | with_reducible apply Touches.trans ?_ (eachOf_touch _ _ _ ?_) | (intro _))

theorem ageLink_touch (l : Nat) (s : State) : Touches [.ret] s (ageLink l s) := by
  unfold ageLink
  repeat' (first | with_reducible exact Touches.refl _ _ | dsimp only | with_reducible apply Touches.ite ?_ ?_
                 | simp only [touches_mk]; with_reducible refine Touches.made (h := ?_) | (intro _) | (split))

theorem fenTemp_touch (f : Nat) (s : State) : Touches [.ret] s (fenTemp f s) := by
  unfold fenTemp
  repeat' (first | with_reducible exact Touches.refl _ _ | dsimp only
                 | simp only [touches_mk]; with_reducible refine Touches.made (h := ?_) | (split))

theorem linkTemp_touch (l : Nat) (s : State) : Touches [.ret] s (linkTemp l s) := by
  unfold linkTemp
  repeat' (first | with_reducible exact Touches.refl _ _ | dsimp only | with_reducible apply Touches.ite ?_ ?_
                 | simp only [touches_mk]; with_reducible refine Touches.made (h := ?_) | (intro _) | (split))

theorem smartSeconds_touch (s : State) : Touches [.ret] s (smartSeconds s) := by
  unfold smartSeconds
  repeat' (first | with_reducible exact Touches.refl _ _ | dsimp only | with_reducible apply Touches.ite ?_ ?_
                 | with_reducible apply Touches.trans ?_ (Touches.mono (healthAdd_touch ..) (by decide))
                 | simp only [touches_mk]; with_reducible refine Touches.made (h := ?_) | (intro _) | (split))

theorem thermalSave_touch (s : State) : Touches [.life, .ret] s (thermalSave s) := by
  unfold thermalSave
  repeat' (first | with_reducible exact Touches.refl _ _ | dsimp only
                 | simp only [touches_mk]; with_reducible refine Touches.made (h := ?_))

theorem witnessProgram_touch (l g : Nat) (s : State) : Touches [.map] s (witnessProgram l g s) := by
  unfold witnessProgram
  repeat' (first | with_reducible exact Touches.refl _ _ | dsimp only | with_reducible apply Touches.ite ?_ ?_
                 | with_reducible apply Touches.trans ?_ (Touches.mono (wipeBlock_touch ..) (by decide))
                 | with_reducible apply Touches.trans ?_ (Touches.mono (putBlock_touch ..) (by decide))
                 | with_reducible apply Touches.trans ?_ (Touches.mono (eachOf_touch ..) (by decide))
                 | with_reducible apply Touches.trans ?_ (Touches.mono (blockProgrammed_touch ..) (by decide))
                 | with_reducible apply Touches.trans ?_ (eachOf_touch _ _ _ ?_)
                 | with_reducible apply Touches.trans ?_ (foldl_touch _ _ _ ?_)
                 | simp only [touches_mk]; with_reducible refine Touches.made (h := ?_) | (intro _) | (split))

theorem witnessFirst_touch (l : Nat) (s : State) : Touches [.ret, .map] s (witnessFirst l s) := by
  unfold witnessFirst
  repeat' (first | with_reducible exact Touches.refl _ _ | dsimp only | with_reducible apply Touches.ite ?_ ?_
                 | with_reducible apply Touches.trans ?_ (Touches.mono (eachOf_touch ..) (by decide))
                 | with_reducible apply Touches.trans ?_ (Touches.mono (witnessProgram_touch ..) (by decide))
                 | with_reducible apply Touches.trans ?_ (eachOf_touch _ _ _ ?_)
                 | with_reducible apply Touches.trans ?_ (foldl_touch _ _ _ ?_)
                 | simp only [touches_mk]; with_reducible refine Touches.made (h := ?_) | (intro _) | (split))

theorem dredgeStart_touch (s : State) : Touches [.regs, .out, .glb, .ret, .fen, .nvq] s (dredgeStart s) := by
  unfold dredgeStart
  repeat' (first | with_reducible exact Touches.refl _ _ | with_reducible apply Touches.ite ?_ ?_
                 | with_reducible apply Touches.trans ?_ (Touches.mono (wr_touch _ _ _ _) (by decide))
                 | with_reducible apply Touches.trans ?_ (Touches.mono (fenRefresh_touch ..) (by decide))
                 | with_reducible apply Touches.trans ?_ (Touches.mono (newPass_touch ..) (by decide))
                 | with_reducible apply Touches.trans ?_ (Touches.mono (passNext_touch ..) (by decide)))

theorem dredgeAbort_touch (s : State) : Touches [.regs, .out, .glb, .ret, .fen, .nvq] s (dredgeAbort s) := by
  unfold dredgeAbort
  repeat' (first | with_reducible exact Touches.refl _ _ | with_reducible apply Touches.ite ?_ ?_
                 | with_reducible apply Touches.trans ?_ (Touches.mono (endPass_touch ..) (by decide)) | (split))

theorem passMeasure_touch (id : Nat) (rates : List Nat) (s : State) : Touches [.regs, .free, .out, .ret, .map, .nvq] s
    (passMeasure id rates s) := by
  unfold passMeasure
  repeat' (first | with_reducible exact Touches.refl _ _ | dsimp only | with_reducible apply Touches.ite ?_ ?_
                 | with_reducible apply Touches.trans ?_ (Touches.mono (eachOf_touch ..) (by decide))
                 | with_reducible apply Touches.trans ?_ (Touches.mono (measureBlock_touch ..) (by decide))
                 | with_reducible apply Touches.trans ?_ (eachOf_touch _ _ _ ?_)
                 | with_reducible apply Touches.trans ?_ (foldl_touch _ _ _ ?_)
                 | simp only [touches_mk]; with_reducible refine Touches.made (h := ?_) | (intro _) | (split))

theorem fifthRow_touch (ltn u : Nat) (s : State) : Touches [.regs, .free, .ret, .map, .mere, .nvq] s (fifthRow ltn u s)
    := by
  unfold fifthRow
  repeat' (first | with_reducible exact Touches.refl _ _ | dsimp only | with_reducible apply Touches.ite ?_ ?_
                 | with_reducible apply Touches.trans ?_ (Touches.mono (destageRow_touch ..) (by decide))
                 | with_reducible apply Touches.trans ?_ (eachOf_touch _ _ _ ?_)
                 | with_reducible apply Touches.trans ?_ (foldl_touch _ _ _ ?_)
                 | simp only [touches_mk]; with_reducible refine Touches.made (h := ?_) | (intro _) | (split))

theorem noteChanged_touch (nsid t : Nat) (s : State) : Touches [.cwy] s (noteChanged nsid t s) := by
  unfold noteChanged
  repeat' (first | with_reducible exact Touches.refl _ _ | dsimp only
                 | simp only [touches_mk]; with_reducible refine Touches.made (h := ?_))

theorem enterFilling_touch (ltn : Nat) (s : State) : Touches [.map] s (enterFilling ltn s) := by
  unfold enterFilling
  repeat' (first | with_reducible exact Touches.refl _ _ | dsimp only | with_reducible apply Touches.ite ?_ ?_
                 | with_reducible apply Touches.trans ?_ (Touches.mono (journal_touch ..) (by decide)))

theorem putDirty_touch (nsid ltn u cls : Nat) (zoned whole : Bool) (d : UnitData) (st : Nat × Nat) (s : State) : Touches
    [.regs, .free, .ret, .map, .mere, .nvq] s (putDirty nsid ltn u cls zoned whole d st s) := by
  unfold putDirty
  repeat' (first | with_reducible exact Touches.refl _ _ | dsimp only | with_reducible apply Touches.ite ?_ ?_
                 | with_reducible apply Touches.trans ?_ (Touches.mono (enterFilling_touch ..) (by decide))
                 | with_reducible apply Touches.trans ?_ (Touches.mono (fifthRow_touch ..) (by decide))
                 | with_reducible apply Touches.trans ?_ (Touches.mono (placeDirty_touch ..) (by decide))
                 | with_reducible apply Touches.trans ?_ (Touches.mono (toLog_touch ..) (by decide))
                 | with_reducible apply Touches.trans ?_ (Touches.mono (dropClean_touch ..) (by decide))
                 | with_reducible apply Touches.trans ?_ (Touches.mono (clearLost_touch ..) (by decide))
                 | simp only [touches_mk]; with_reducible refine Touches.made (h := ?_) | (intro _) | (split))

theorem commitWrite_touch {nsid cls slba nlb : Nat} {data : List Nat} {s t : State} (h : commitWrite nsid cls slba nlb data s
    = some t) : Touches [.regs, .free, .ret, .map, .mere, .nvq, .cwy] s t := by
  unfold commitWrite at h; split at h
  · simp only at h; split at h
    · cases h
    · cases h
      refine Touches.trans ?_ (eachOf_touch _ _ _ (fun _ _ => (noteChanged_touch ..).mono (by decide)))
      refine Touches.trans ?_ (foldl_touch _ _ _ (fun _ _ => (putDirty_touch ..).mono (by decide)))
      exact (drawWseq_touch ..).mono (by decide)
  · cases h

theorem blockCmd_touch {ps : List Part} (n o : Nat) (f : Cmd → Ctrl → Namespace → State → State) (s : State) (hp : ∀ p ∈
    [Part.nvq], p ∈ ps) (hf : ∀ k c x s, Touches ps s (f k c x s)) : Touches ps s (blockCmd n o f s) := by
  unfold blockCmd; refine withCmd_touch (hp := by simp) (hf := ?_) ..; intro k c s
  split
  · exact (finishCmd_touch ..).mono hp
  · exact hf ..

theorem countRead_touch (k : Cmd) (x : Namespace) (s : State) : Touches [.ret] s (countRead k x s) := by
  unfold countRead
  repeat' (first | with_reducible exact Touches.refl _ _
                 | with_reducible apply Touches.trans ?_ (Touches.mono (healthAdd_touch ..) (by decide)))

theorem countWrite_touch (k : Cmd) (x : Namespace) (s : State) : Touches [.ret] s (countWrite k x s) := by
  unfold countWrite
  repeat' (first | with_reducible exact Touches.refl _ _
                 | with_reducible apply Touches.trans ?_ (Touches.mono (healthAdd_touch ..) (by decide)))

theorem stageUnit_touch (key : Nat) (s : State) : Touches [.free, .map, .mere] s (stageUnit key s) := by
  unfold stageUnit
  repeat' (first | with_reducible exact Touches.refl _ _ | dsimp only | with_reducible apply Touches.ite ?_ ?_
                 | with_reducible apply Touches.trans ?_ (Touches.mono (fillRegion_touch ..) (by decide))
                 | with_reducible apply Touches.trans ?_ (Touches.mono (drawn_touch ..) (by decide))
                 | simp only [touches_mk]; with_reducible refine Touches.made (h := ?_) | (intro _) | (split))

theorem zoneAdvance_touch (nsid t nlb : Nat) (s : State) : Touches [.map, .nvq] s (zoneAdvance nsid t nlb s) := by
  unfold zoneAdvance
  repeat' (first | with_reducible exact Touches.refl _ _ | dsimp only | with_reducible apply Touches.ite ?_ ?_
                 | with_reducible apply Touches.trans ?_ (Touches.mono (setZone_touch ..) (by decide))
                 | with_reducible apply Touches.trans ?_ (Touches.mono (putPtr_touch ..) (by decide)) | (split))

theorem runWrite_touch (n : Nat) (k : Cmd) (x : Namespace) (slba : Nat) (data : List Nat) (dw0 dw1 : Nat) (s : State) :
    Touches [.regs, .free, .ret, .map, .mere, .nvq, .cwy] s (runWrite n k x slba data dw0 dw1 s) := by
  unfold runWrite
  repeat' (first | with_reducible exact Touches.refl _ _ | dsimp only | with_reducible apply Touches.ite ?_ ?_
                 | with_reducible refine Touches.trans ?_ (Touches.mono (commitWrite_touch (by assumption)) (by decide))
                 | with_reducible apply Touches.trans ?_ (Touches.mono (finishCmd_touch ..) (by decide))
                 | with_reducible apply Touches.trans ?_ (Touches.mono (countUnrecovered_touch ..) (by decide))
                 | with_reducible apply Touches.trans ?_ (Touches.mono (countWrite_touch ..) (by decide))
                 | with_reducible apply Touches.trans ?_ (Touches.mono (zoneAdvance_touch ..) (by decide))
                 | with_reducible apply Touches.trans ?_ (Touches.mono (finishWrite_touch ..) (by decide))
                 | simp only [touches_mk]; with_reducible refine Touches.made (h := ?_) | (intro _) | (split))

theorem placedWrite_touch (n : Nat) (k : Cmd) (x : Namespace) (data : List Nat) (s : State) : Touches [.regs, .free,
    .ret, .map, .mere, .nvq, .cwy] s (placedWrite n k x data s) := by
  unfold placedWrite
  repeat' (first | with_reducible exact Touches.refl _ _ | dsimp only | with_reducible apply Touches.ite ?_ ?_
                 | with_reducible apply Touches.trans ?_ (Touches.mono (finishCmd_touch ..) (by decide))
                 | with_reducible apply Touches.trans ?_ (Touches.mono (runWrite_touch ..) (by decide))
                 | simp only [touches_mk]; with_reducible refine Touches.made (h := ?_) | (intro _) | (split))

theorem zeroRecords_touch (g u c : Nat) (s : State) : Touches [.map] s (zeroRecords g u c s) := by
  unfold zeroRecords
  repeat' (first | with_reducible exact Touches.refl _ _ | dsimp only | with_reducible apply Touches.ite ?_ ?_
                 | with_reducible apply Touches.trans ?_ (Touches.mono (eachOf_touch ..) (by decide))
                 | with_reducible apply Touches.trans ?_ (Touches.mono (journal_touch ..) (by decide))
                 | with_reducible apply Touches.trans ?_ (eachOf_touch _ _ _ ?_)
                 | with_reducible apply Touches.trans ?_ (foldl_touch _ _ _ ?_)
                 | simp only [touches_mk]; with_reducible refine Touches.made (h := ?_) | (intro _) | (split))

theorem zeroUnits_touch {ltn u c cls : Nat} {s t : State} (h : zeroUnits ltn u c cls s = some t) : Touches [.free, .map, .mere, .nvq] s t
    := by
  unfold zeroUnits at h; split at h
  · cases h; exact Touches.refl _ _
  · simp only at h; split at h
    · cases h
    · next e =>
      cases h
      have h1 : Touches [.free, .map, .mere, .nvq] s (by assumption) := by
        split at e
        · cases e; exact Touches.refl _ _
        · exact (openLog_touch e).mono (by decide)
      refine h1.trans ?_
      repeat' (first | (with_reducible exact Touches.refl _ _)
                     | (with_reducible apply Touches.trans ?_ (Touches.mono (clearLost_touch ..) (by decide)))
                     | (with_reducible apply Touches.trans ?_ (Touches.mono (dropClean_touch ..) (by decide)))
                     | (with_reducible apply Touches.trans ?_ (Touches.mono (dropDirty_touch ..) (by decide)))
                     | (with_reducible apply Touches.trans ?_ (Touches.mono (zeroRecords_touch ..) (by decide)))
                     | (with_reducible apply Touches.trans ?_ (Touches.mono (journal_touch ..) (by decide))) | dsimp only)

theorem zeroPart_touch {nsid cls t a b : Nat} {s u : State} (h : zeroPart nsid cls t a b s = some u) : Touches [.regs, .free, .ret, .map,
    .fen, .mere, .nvq, .slu, .cwy] s u := by
  unfold zeroPart at h
  have hz : ∀ {ltn base size x y : Nat} {s u : State},
      (if y ≤ x ∨ (tractOf s ltn).state = .unmapped then some s else commitWrite nsid cls ((base + x) / size) ((y - x) /
          size) [] s) = some u →
      Touches [.regs, .free, .ret, .map, .fen, .mere, .nvq, .slu, .cwy] s u := by
    intro ltn base size x y s u h
    split at h
    · cases h; exact Touches.refl _ _
    · exact (commitWrite_touch h).mono (by decide)
  split at h
  · simp only at h; split at h
    · cases h; exact Touches.trans ((unmapTract_touch ..).mono (by decide)) ((noteChanged_touch ..).mono (by decide))
    · split at h
      · exact hz h
      · simp only [Option.bind_eq_some_iff, Option.map_eq_some_iff] at h
        obtain ⟨s1, h1, s2, h2, s3, h3, e⟩ := h
        cases e
        exact ((hz h1).trans (hz h2)).trans (((zeroUnits_touch h3).mono (by decide)).trans ((noteChanged_touch ..).mono (by
            decide)))
  · cases h; exact Touches.refl _ _

theorem zeroRange_touch {nsid cls slba nlb : Nat} {s t : State} (h : zeroRange nsid cls slba nlb s = some t) : Touches
    [.regs, .free, .ret, .map, .fen, .mere, .nvq, .slu, .cwy] s t := by
  unfold zeroRange at h; split at h
  · cases h; exact Touches.refl _ _
  · simp only at h
    suffices H : ∀ (l : List Nat) (g : Nat → State → Option State) (hg : ∀ i s t, g i s = some t → Touches [.regs, .free, .ret, .map, .fen, .mere, .nvq, .slu, .cwy] s t) (r : Option State) (t : State),
        l.foldl (fun r i => r.bind (g i)) r = some t → ∃ s0, r = some s0 ∧ Touches [.regs, .free, .ret, .map, .fen, .mere, .nvq, .slu, .cwy] s0 t by
      obtain ⟨s0, e, h⟩ := H _ _ (fun i s t h => zeroPart_touch h) _ _ h
      cases e; exact h
    intro l g hg
    induction l with
    | nil => intro r t h; exact ⟨t, h, Touches.refl _ _⟩
    | cons a l ih =>
      intro r t h
      obtain ⟨s1, e1, h1⟩ := ih _ _ h
      cases r with
      | none => cases e1
      | some s0 => exact ⟨s0, rfl, (hg _ _ _ e1).trans h1⟩

theorem endZero_touch {ps : List Part} (n : Nat) (k : Cmd) (x : Namespace) (l : List LbaRange) (r : Option State) (s : State)
    (hp : ∀ p ∈ [Part.regs, .ret, .nvq], p ∈ ps) (hf : ∀ t, r = some t → Touches ps s t) : Touches ps s (endZero n k x l r s)
    := by
  unfold endZero; split
  · exact (hf _ rfl).trans ((finishWrite_touch ..).mono (fun p h => hp p (by revert p; decide)))
  · split
    · split
      · exact (wr_touch _ _ _ _).mono (fun p h => hp p (by revert p; decide))
      · exact Touches.refl _ _
    · exact Touches.trans ((countUnrecovered_touch ..).mono (fun p h => hp p (by revert p; decide))) ((finishCmd_touch
        ..).mono (fun p h => hp p (by revert p; decide)))

theorem copyRanges_touch (k : Cmd) (x : Namespace) (i dst : Nat) (l : List LbaRange) (s : State) : Touches [.regs, .free, .ret, .map, .mere,
    .nvq, .cwy] s (copyRanges k x i dst l s).2 := by
  induction l generalizing i dst s with
  | nil => exact Touches.refl _ _
  | cons e r ih =>
    unfold copyRanges; split
    · exact Touches.refl _ _
    · split
      · exact Touches.refl _ _
      · next h => exact (commitWrite_touch h).trans (ih ..)

theorem copyRanges_touch' {k : Cmd} {x : Namespace} {i dst : Nat} {l : List LbaRange} {s : State} {av : Option Nat} {tv : State}
    (h : copyRanges k x i dst l s = (av, tv)) : Touches [.regs, .free, .ret, .map, .mere, .nvq, .cwy] s tv := by
  have := copyRanges_touch k x i dst l s; rw [h] at this; exact this

theorem zoneSend_touch {ps : List Part} (n action : Nat) (states : List Nat) (f : Cmd → Namespace → List (Nat × Nat) → State
    → State) (s : State) (hp : ∀ p ∈ [Part.nvq], p ∈ ps) (hf : ∀ k x l s, Touches ps s (f k x l s)) : Touches ps s (zoneSend
    n action states f s) := by
  unfold zoneSend; refine blockCmd_touch (hp := hp) (hf := ?_) ..; intro k c x s
  split
  · exact Touches.refl _ _
  · simp only; split
    · exact (finishCmd_touch ..).mono hp
    · exact hf ..

theorem nsNotice_touch (nsid cid : Nat) (s : State) : Touches [.out, .nvq] s (nsNotice nsid cid s) := by
  unfold nsNotice
  repeat' (first | with_reducible exact Touches.refl _ _
                 | with_reducible apply Touches.trans ?_ (Touches.mono (putCtrl_touch ..) (by decide))
                 | with_reducible apply Touches.trans ?_ (Touches.mono (aenPost_touch ..) (by decide)) | (split))

theorem waitDrbg_touch (n : Nat) (k : Cmd) (s : State) : Touches [.nvq, .cip] s (waitDrbg n k s) := by
  unfold waitDrbg
  repeat' (first | with_reducible exact Touches.refl _ _ | dsimp only
                 | with_reducible apply Touches.trans ?_ (Touches.mono (putSlot_touch ..) (by decide))
                 | simp only [touches_mk]; with_reducible refine Touches.made (h := ?_))

theorem buildNs_touch (nsid : Nat) (ext : List (Nat × Nat)) (n : Namespace) (key slot escrow : Nat) (s : State) : Touches
    [.map, .nvq, .cip] s (buildNs nsid ext n key slot escrow s) := by
  unfold buildNs
  repeat' (first | with_reducible exact Touches.refl _ _ | dsimp only
                 | with_reducible apply Touches.trans ?_ (Touches.mono (putNs_touch ..) (by decide))
                 | with_reducible apply Touches.trans ?_ (Touches.mono (journal_touch ..) (by decide))
                 | with_reducible apply Touches.trans ?_ (Touches.mono (putKeySlot_touch ..) (by decide))
                 | with_reducible apply Touches.trans ?_ (Touches.mono (labelWrite_touch ..) (by decide))
                 | with_reducible apply Touches.trans ?_ (foldl_touch _ _ _ ?_) | (intro _))

theorem createNs_touch (data : NsCreate) (s : State) : Touches [.free, .map, .nvq, .cip] s (createNs data s).2 := by
  unfold createNs
  repeat' (first | with_reducible exact Touches.refl _ _ | dsimp only
                 | with_reducible apply Touches.trans ?_ (Touches.mono (buildNs_touch ..) (by decide))
                 | with_reducible apply Touches.trans ?_ (Touches.mono (newKey_touch ..) (by decide))
                 | simp only [touches_mk]; with_reducible refine Touches.made (h := ?_) | (split))

theorem createNs_touch' {data : NsCreate} {s : State} {av : (Nat × Nat)} {tv : State} (h : createNs data s = (av, tv)) :
    Touches [.free, .map, .nvq, .cip] s tv := by
  have := createNs_touch data s; rw [h] at this; exact this

theorem unmapNs_touch (nsid : Nat) (s : State) : Touches [.regs, .ret, .map, .fen, .mere, .nvq, .slu] s (unmapNs nsid s)
    := by
  unfold unmapNs
  repeat' (first | with_reducible exact Touches.refl _ _ | dsimp only | with_reducible apply Touches.ite ?_ ?_
                 | with_reducible apply Touches.trans ?_ (Touches.mono (eachOf_touch ..) (by decide))
                 | with_reducible apply Touches.trans ?_ (Touches.mono (unmapTract_touch ..) (by decide))
                 | with_reducible apply Touches.trans ?_ (eachOf_touch _ _ _ ?_)
                 | with_reducible apply Touches.trans ?_ (foldl_touch _ _ _ ?_)
                 | simp only [touches_mk]; with_reducible refine Touches.made (h := ?_) | (intro _) | (split))

theorem deleteNs_touch (n nsid : Nat) (s : State) : Touches [.regs, .out, .ret, .map, .fen, .mere, .nvq, .slu, .cip] s
    (deleteNs n nsid s) := by
  unfold deleteNs
  repeat' (first | with_reducible exact Touches.refl _ _ | dsimp only | with_reducible apply Touches.ite ?_ ?_
                 | with_reducible apply Touches.trans ?_ (Touches.mono (unmapNs_touch ..) (by decide))
                 | with_reducible apply Touches.trans ?_ (Touches.mono (journal_touch ..) (by decide))
                 | with_reducible apply Touches.trans ?_ (Touches.mono (drainSlot_touch ..) (by decide))
                 | with_reducible apply Touches.trans ?_ (Touches.mono (eachOf_touch ..) (by decide))
                 | with_reducible apply Touches.trans ?_ (Touches.mono (nsNotice_touch ..) (by decide))
                 | with_reducible apply Touches.trans ?_ (Touches.mono (putKeySlot_touch ..) (by decide))
                 | with_reducible apply Touches.trans ?_ (eachOf_touch _ _ _ ?_)
                 | with_reducible apply Touches.trans ?_ (foldl_touch _ _ _ ?_)
                 | simp only [touches_mk]; with_reducible refine Touches.made (h := ?_) | (intro _) | (split))

theorem detachOne_touch (nsid cid : Nat) (s : State) : Touches [.out, .nvq] s (detachOne nsid cid s) := by
  unfold detachOne
  repeat' (first | with_reducible exact Touches.refl _ _ | dsimp only
                 | with_reducible apply Touches.trans ?_ (Touches.mono (putCtrl_touch ..) (by decide))
                 | with_reducible apply Touches.trans ?_ (Touches.mono (finishCmd_touch ..) (by decide))
                 | with_reducible apply Touches.trans ?_ (Touches.mono (nsNotice_touch ..) (by decide))
                 | simp only [touches_mk]; with_reducible refine Touches.made (h := ?_)
                 | with_reducible apply Touches.trans ?_ (eachOf_touch _ _ _ ?_) | (intro _) | (split))

theorem logRead_touch (cid : Nat) (c : Ctrl) (lid off len : Nat) (rae : Bool) (s : State) : Touches [.nvq] s (logRead
    cid c lid off len rae s) := by
  unfold logRead
  repeat' (first | with_reducible exact Touches.refl _ _ | dsimp only | with_reducible apply Touches.ite ?_ ?_
                 | with_reducible apply Touches.trans ?_ (Touches.mono (putCtrl_touch ..) (by decide))
                 | simp only [touches_mk]; with_reducible refine Touches.made (h := ?_) | (intro _) | (split))

theorem limitNote_touch (s : State) : Touches [.regs] s (limitNote s) := by
  unfold limitNote
  repeat' (first | with_reducible exact Touches.refl _ _ | dsimp only | with_reducible apply Touches.ite ?_ ?_
                 | with_reducible apply Touches.trans ?_ (Touches.mono (wr_touch _ _ _ _) (by decide)))

theorem writeSlotRec_touch (primary backup staging : Nat) (s : State) : Touches [.cfg] s (writeSlotRec primary backup
    staging s) := by
  unfold writeSlotRec
  repeat' (first | with_reducible exact Touches.refl _ _ | dsimp only | with_reducible apply Touches.ite ?_ ?_
                 | simp only [touches_mk]; with_reducible refine Touches.made (h := ?_) | (intro _) | (split))

theorem clearPrimaryBad_touch (s : State) : Touches [.regs, .boot] s (clearPrimaryBad s) := by
  unfold clearPrimaryBad
  repeat' (first | with_reducible exact Touches.refl _ _ | dsimp only
                 | with_reducible apply Touches.trans ?_ (Touches.mono (wr_touch _ _ _ _) (by decide))
                 | simp only [touches_mk]; with_reducible refine Touches.made (h := ?_) | (split))

theorem commitSlots_touch (s : State) : Touches [.regs, .cfg, .boot] s (commitSlots s) := by
  unfold commitSlots
  repeat' (first | with_reducible exact Touches.refl _ _ | dsimp only
                 | with_reducible apply Touches.trans ?_ (Touches.mono (writeSlotRec_touch ..) (by decide))
                 | with_reducible apply Touches.trans ?_ (Touches.mono (clearPrimaryBad_touch ..) (by decide)))

theorem twimaPiece_touch (p : Piece) (s : State) : Touches [.cfg] s (twimaPiece p s).2 := by
  unfold twimaPiece
  repeat' (first | with_reducible exact Touches.refl _ _ | dsimp only | with_reducible apply Touches.ite ?_ ?_
                 | simp only [touches_mk]; with_reducible refine Touches.made (h := ?_) | (intro _) | (split))

theorem twimaPiece_touch' {p : Piece} {s : State} {av : Bool} {tv : State} (h : twimaPiece p s = (av, tv)) : Touches
    [.cfg] s tv := by
  have := twimaPiece_touch p s; rw [h] at this; exact this

theorem releaseCreates_touch (s : State) : Touches [.cfg, .nvq] s (releaseCreates s) := by
  unfold releaseCreates
  repeat' (first | with_reducible exact Touches.refl _ _ | dsimp only
                 | with_reducible apply Touches.trans ?_ (Touches.mono (putSlot_touch ..) (by decide))
                 | simp only [touches_mk]; with_reducible refine Touches.made (h := ?_)
                 | with_reducible apply Touches.trans ?_ (eachOf_touch _ _ _ ?_) | (intro _) | (split))

theorem lotDone_touch (lot state err : Nat) (s : State) : Touches [.regs, .free, .peat, .cfg, .nvq] s (lotDone lot state err
    s) := by
  unfold lotDone
  repeat' (first | with_reducible exact Touches.refl _ _ | dsimp only | with_reducible apply Touches.ite ?_ ?_
                 | with_reducible apply Touches.trans ?_ (Touches.mono (wr_touch _ _ _ _) (by decide))
                 | with_reducible apply Touches.trans ?_ (Touches.mono (peatRecord_touch ..) (by decide))
                 | with_reducible apply Touches.trans ?_ (Touches.mono (releaseCreates_touch ..) (by decide))
                 | simp only [touches_mk]; with_reducible refine Touches.made (h := ?_))

theorem lotRefuse_touch (err : Nat) (s : State) : Touches [.regs, .free, .peat, .cfg, .nvq] s (lotRefuse err s) := by
  unfold lotRefuse
  repeat' (first | with_reducible exact Touches.refl _ _
                 | with_reducible apply Touches.trans ?_ (Touches.mono (lotDone_touch ..) (by decide)) | (split))

theorem powerWaitBusy_touch (s : State) : Touches [.regs, .free, .peat, .cfg, .nvq] s (powerWaitBusy s) := by
  unfold powerWaitBusy
  repeat' (first | with_reducible exact Touches.refl _ _ | with_reducible apply Touches.ite ?_ ?_
                 | with_reducible apply Touches.trans ?_ (Touches.mono (lotRefuse_touch ..) (by decide)))

theorem putExpert_touch (k : Nat) (e : ExpertPath) (s : State) : Touches [.cfg] s (putExpert k e s) := by
  unfold putExpert
  repeat' (first | with_reducible exact Touches.refl _ _ | dsimp only
                 | simp only [touches_mk]; with_reducible refine Touches.made (h := ?_))

theorem renewNonce_touch (k : Nat) (s : State) : Touches [.free, .cfg] s (renewNonce k s) := by
  unfold renewNonce
  repeat' (first | with_reducible exact Touches.refl _ _ | dsimp only
                 | with_reducible apply Touches.trans ?_ (Touches.mono (drawn_touch ..) (by decide))
                 | with_reducible apply Touches.trans ?_ (Touches.mono (putExpert_touch ..) (by decide)))

theorem closeExpert_touch (k : Nat) (s : State) : Touches [.cfg] s (closeExpert k s) := by
  unfold closeExpert
  repeat' (first | with_reducible exact Touches.refl _ _ | dsimp only
                 | with_reducible apply Touches.trans ?_ (Touches.mono (putExpert_touch ..) (by decide)))

theorem closeAllExpert_touch (s : State) : Touches [.cfg] s (closeAllExpert s) := by
  unfold closeAllExpert
  repeat' (first | with_reducible exact Touches.refl _ _
                 | with_reducible apply Touches.trans ?_ (Touches.mono (closeExpert_touch ..) (by decide))
                 | with_reducible apply Touches.trans ?_ (eachOf_touch _ _ _ ?_) | (intro _))

theorem closeSession_touch (s : State) : Touches [.cfg, .cus] s (closeSession s) := by
  unfold closeSession
  repeat' (first | with_reducible exact Touches.refl _ _ | dsimp only | with_reducible apply Touches.ite ?_ ?_
                 | simp only [touches_mk]; with_reducible refine Touches.made (h := ?_) | (intro _) | (split))

theorem expertUse_touch (p : AccessPath) (s : State) : Touches [.cfg] s (expertUse p s) := by
  unfold expertUse
  repeat' (first | with_reducible exact Touches.refl _ _ | dsimp only | with_reducible apply Touches.ite ?_ ?_
                 | with_reducible apply Touches.trans ?_ (Touches.mono (putExpert_touch ..) (by decide))
                 | simp only [touches_mk]; with_reducible refine Touches.made (h := ?_) | (intro _) | (split))

theorem expertKeyWrite_touch (p : AccessPath) (w : Nat) (s : State) : Touches [.regs, .free, .peat, .cfg] s
    (expertKeyWrite p w s) := by
  unfold expertKeyWrite
  repeat' (first | with_reducible exact Touches.refl _ _ | dsimp only | with_reducible apply Touches.ite ?_ ?_
                 | with_reducible apply Touches.trans ?_ (Touches.mono (peatRecord_touch ..) (by decide))
                 | with_reducible apply Touches.trans ?_ (Touches.mono (putExpert_touch ..) (by decide))
                 | with_reducible apply Touches.trans ?_ (Touches.mono (renewNonce_touch ..) (by decide))
                 | simp only [touches_mk]; with_reducible refine Touches.made (h := ?_) | (intro _) | (split))

theorem putFw_touch (n : Nat) (i : Option FwImage) (s : State) : Touches [.upd] s (putFw n i s) := by
  unfold putFw
  repeat' (first | with_reducible exact Touches.refl _ _ | dsimp only | with_reducible apply Touches.ite ?_ ?_
                 | simp only [touches_mk]; with_reducible refine Touches.made (h := ?_))

theorem putSel_touch (active pending tries : Nat) (s : State) : Touches [.upd] s (putSel active pending tries s) := by
  unfold putSel
  repeat' (first | with_reducible exact Touches.refl _ _ | dsimp only | with_reducible apply Touches.ite ?_ ?_
                 | simp only [touches_mk]; with_reducible refine Touches.made (h := ?_) | (intro _) | (split))

theorem taskEnd_touch (status detail : Nat) (s : State) : Touches [.regs, .cus] s (taskEnd status detail s) := by
  unfold taskEnd
  repeat' (first | with_reducible exact Touches.refl _ _ | dsimp only
                 | with_reducible apply Touches.trans ?_ (Touches.mono (wr_touch _ _ _ _) (by decide))
                 | simp only [touches_mk]; with_reducible refine Touches.made (h := ?_))

end Sys2Proof.Machine
end

