-- ==== Sys2Proof/Laws/TouchShared.lean ====
section
/-! SUPPORT. Which parts of the state the operations that several blocks share change (see TouchBase). -/

-- One theorem after the other: elaborated side by side, their many small side proofs make Lean start hundreds of threads.
set_option Elab.async false

namespace Sys2Proof.Machine

open Sys2Proof

theorem commitEnd_touch (e : CommitEnd) (s : State) : Touches [.regs, .nvq, .upd, .cus] s (commitEnd e s) := by
  unfold commitEnd
  repeat' (first | with_reducible exact Touches.refl _ _ | dsimp only | with_reducible apply Touches.ite ?_ ?_
                 | with_reducible apply Touches.trans ?_ (Touches.mono (finishCmd_touch ..) (by decide))
                 | with_reducible apply Touches.trans ?_ (Touches.mono (taskEnd_touch ..) (by decide))
                 | simp only [touches_mk]; with_reducible refine Touches.made (h := ?_) | (split))

theorem setPp_touch (b : Bool) (s : State) : Touches [.nvq] s (setPp b s) := by
  unfold setPp
  repeat' (first | with_reducible exact Touches.refl _ _ | dsimp only
                 | simp only [touches_mk]; with_reducible refine Touches.made (h := ?_))

theorem abandonActivation_touch (e : CommitEnd) (s : State) : Touches [.regs, .nvq, .upd, .cus] s (abandonActivation e s) := by
  unfold abandonActivation
  repeat' (first | with_reducible exact Touches.refl _ _ | dsimp only
                 | with_reducible apply Touches.trans ?_ (Touches.mono (wr_touch _ _ _ _) (by decide))
                 | with_reducible apply Touches.trans ?_ (Touches.mono (commitEnd_touch ..) (by decide))
                 | with_reducible apply Touches.trans ?_ (Touches.mono (setPp_touch ..) (by decide))
                 | simp only [touches_mk]; with_reducible refine Touches.made (h := ?_))

theorem pairLostActivation_touch (s : State) : Touches [.regs, .nvq, .upd, .cus] s (pairLostActivation s) := by
  unfold pairLostActivation
  repeat' (first | with_reducible exact Touches.refl _ _ | dsimp only | with_reducible apply Touches.ite ?_ ?_
                 | with_reducible apply Touches.trans ?_ (Touches.mono (abandonActivation_touch ..) (by decide))
                 | with_reducible apply Touches.trans ?_ (Touches.mono (putSel_touch ..) (by decide))
                 | simp only [touches_mk]; with_reducible refine Touches.made (h := ?_) | (intro _) | (split))

theorem clearFw_touch (k : Nat) (s : State) : Touches [.upd] s (clearFw k s) := by
  unfold clearFw
  repeat' (first | with_reducible exact Touches.refl _ _ | dsimp only | with_reducible apply Touches.ite ?_ ?_
                 | with_reducible apply Touches.trans ?_ (Touches.mono (putFw_touch ..) (by decide))
                 | simp only [touches_mk]; with_reducible refine Touches.made (h := ?_) | (intro _) | (split))

theorem deltaRefuse_touch (e : Nat) (s : State) : Touches [.regs, .upd] s (deltaRefuse e s) := by
  unfold deltaRefuse
  repeat' (first | with_reducible exact Touches.refl _ _ | dsimp only | with_reducible apply Touches.ite ?_ ?_
                 | with_reducible apply Touches.trans ?_ (Touches.mono (clearFw_touch ..) (by decide))
                 | with_reducible apply Touches.trans ?_ (Touches.mono (wr_touch _ _ _ _) (by decide))
                 | simp only [touches_mk]; with_reducible refine Touches.made (h := ?_) | (intro _) | (split))

theorem deltaEnd_touch (i : FwImage) (s : State) : Touches [.regs, .upd] s (deltaEnd i s) := by
  unfold deltaEnd
  repeat' (first | with_reducible exact Touches.refl _ _ | dsimp only
                 | with_reducible apply Touches.trans ?_ (Touches.mono (wr_touch _ _ _ _) (by decide))
                 | with_reducible apply Touches.trans ?_ (Touches.mono (putFw_touch ..) (by decide))
                 | simp only [touches_mk]; with_reducible refine Touches.made (h := ?_))

theorem deltaFail_touch (e : Nat) (s : State) : Touches [.regs, .upd] s (deltaFail e s).2 := by
  unfold deltaFail
  repeat' (first | with_reducible exact Touches.refl _ _ | dsimp only | with_reducible apply Touches.ite ?_ ?_
                 | with_reducible apply Touches.trans ?_ (Touches.mono (deltaRefuse_touch ..) (by decide))
                 | simp only [touches_mk]; with_reducible refine Touches.made (h := ?_) | (intro _) | (split))

theorem deltaFail_touch' {e : Nat} {s : State} {av : PieceEnd} {tv : State} (h : deltaFail e s = (av, tv)) : Touches
    [.regs, .upd] s tv := by
  have := deltaFail_touch e s; rw [h] at this; exact this

theorem deltaWritten_touch (r : DeltaRun) (s : State) : Touches [.regs, .upd] s (deltaWritten r s).2 := by
  unfold deltaWritten
  repeat' (first | with_reducible exact Touches.refl _ _ | dsimp only | with_reducible apply Touches.ite ?_ ?_
                 | with_reducible apply Touches.trans ?_ (Touches.mono (wr_touch _ _ _ _) (by decide))
                 | with_reducible apply Touches.trans ?_ (Touches.mono (deltaFail_touch ..) (by decide))
                 | with_reducible apply Touches.trans ?_ (Touches.mono (deltaFail_touch' (by assumption)) (by decide))
                 | with_reducible apply Touches.trans ?_ (Touches.mono (deltaEnd_touch ..) (by decide))
                 | simp only [touches_mk]; with_reducible refine Touches.made (h := ?_) | (intro _) | (split))

theorem deltaWritten_touch' {r : DeltaRun} {s : State} {av : PieceEnd} {tv : State} (h : deltaWritten r s = (av, tv)) :
    Touches [.regs, .upd] s tv := by
  have := deltaWritten_touch r s; rw [h] at this; exact this

theorem deltaPiece_touch (p : Piece) (s : State) : Touches [.regs, .upd] s (deltaPiece p s).2 := by
  unfold deltaPiece
  repeat' (first | with_reducible exact Touches.refl _ _ | dsimp only | with_reducible apply Touches.ite ?_ ?_
                 | with_reducible apply Touches.trans ?_ (Touches.mono (deltaFail_touch ..) (by decide))
                 | with_reducible apply Touches.trans ?_ (Touches.mono (deltaFail_touch' (by assumption)) (by decide))
                 | with_reducible apply Touches.trans ?_ (Touches.mono (deltaWritten_touch ..) (by decide))
                 | with_reducible apply Touches.trans ?_ (Touches.mono (deltaWritten_touch' (by assumption)) (by decide))
                 | simp only [touches_mk]; with_reducible refine Touches.made (h := ?_) | (intro _) | (split))

theorem deltaPiece_touch' {p : Piece} {s : State} {av : PieceEnd} {tv : State} (h : deltaPiece p s = (av, tv)) : Touches
    [.regs, .upd] s tv := by
  have := deltaPiece_touch p s; rw [h] at this; exact this

theorem startDelta_touch (owner source : Nat) (s : State) : Touches [.regs, .upd] s (startDelta owner source s) := by
  unfold startDelta
  repeat' (first | with_reducible exact Touches.refl _ _ | dsimp only | with_reducible apply Touches.ite ?_ ?_
                 | with_reducible apply Touches.trans ?_ (Touches.mono (clearFw_touch ..) (by decide))
                 | with_reducible apply Touches.trans ?_ (Touches.mono (wr_touch _ _ _ _) (by decide))
                 | with_reducible apply Touches.trans ?_ (Touches.mono (putSel_touch ..) (by decide))
                 | simp only [touches_mk]; with_reducible refine Touches.made (h := ?_) | (intro _) | (split))

theorem twimaDownload_touch (owner : Nat) (p : Piece) (s : State) : Touches [.cfg, .upd] s (twimaDownload owner p s).2 := by
  unfold twimaDownload
  repeat' (first | with_reducible exact Touches.refl _ _ | dsimp only | with_reducible apply Touches.ite ?_ ?_
                 | with_reducible apply Touches.trans ?_ (Touches.mono (twimaPiece_touch ..) (by decide))
                 | with_reducible apply Touches.trans ?_ (Touches.mono (twimaPiece_touch' (by assumption)) (by decide))
                 | simp only [touches_mk]; with_reducible refine Touches.made (h := ?_) | (intro _) | (split))

theorem twimaDownload_touch' {owner : Nat} {p : Piece} {s : State} {av : PieceEnd} {tv : State} (h : twimaDownload owner
    p s = (av, tv)) : Touches [.cfg, .upd] s tv := by
  have := twimaDownload_touch owner p s; rw [h] at this; exact this

theorem downloadPiece_touch (owner source : Nat) (p : Piece) (s : State) : Touches [.regs, .cfg, .upd] s (downloadPiece
    owner source p s).2 := by
  unfold downloadPiece
  repeat' (first | with_reducible exact Touches.refl _ _ | dsimp only | with_reducible apply Touches.ite ?_ ?_
                 | with_reducible apply Touches.trans ?_ (Touches.mono (twimaDownload_touch ..) (by decide))
                 | with_reducible apply Touches.trans ?_ (Touches.mono (twimaDownload_touch' (by assumption)) (by decide))
                 | with_reducible apply Touches.trans ?_ (Touches.mono (deltaPiece_touch ..) (by decide))
                 | with_reducible apply Touches.trans ?_ (Touches.mono (deltaPiece_touch' (by assumption)) (by decide))
                 | with_reducible apply Touches.trans ?_ (Touches.mono (startDelta_touch ..) (by decide))
                 | simp only [touches_mk]; with_reducible refine Touches.made (h := ?_) | (intro _) | (split))

theorem downloadPiece_touch' {owner source : Nat} {p : Piece} {s : State} {av : PieceEnd} {tv : State} (h :
    downloadPiece owner source p s = (av, tv)) : Touches [.regs, .cfg, .upd] s tv := by
  have := downloadPiece_touch owner source p s; rw [h] at this; exact this

theorem dropDownload_touch (s : State) : Touches [.regs, .upd] s (dropDownload s) := by
  unfold dropDownload
  repeat' (first | with_reducible exact Touches.refl _ _ | dsimp only | with_reducible apply Touches.ite ?_ ?_
                 | with_reducible apply Touches.trans ?_ (Touches.mono (clearFw_touch ..) (by decide))
                 | with_reducible apply Touches.trans ?_ (Touches.mono (wr_touch _ _ _ _) (by decide))
                 | simp only [touches_mk]; with_reducible refine Touches.made (h := ?_) | (intro _) | (split))

theorem fabricEnable_touch (cid cc : Nat) (s : State) : Touches [.out, .nvq] s (fabricEnable cid cc s) := by
  unfold fabricEnable
  repeat' (first | with_reducible exact Touches.refl _ _ | with_reducible apply Touches.ite ?_ ?_
                 | with_reducible apply Touches.trans ?_ (Touches.mono (putCtrl_touch ..) (by decide))
                 | with_reducible apply Touches.trans ?_ (Touches.mono (lcrNotice_touch ..) (by decide))
                 | with_reducible apply Touches.trans ?_ (Touches.mono (armBoot_touch ..) (by decide))
                 | with_reducible apply Touches.trans ?_ (Touches.mono (enableWake_touch ..) (by decide)) | (split))

theorem ccWrite_touch (cid v : Nat) (s : State) : Touches [.regs, .free, .out, .nvq, .slu] s (ccWrite cid v s) := by
  unfold ccWrite
  repeat' (first | with_reducible exact Touches.refl _ _ | dsimp only | with_reducible apply Touches.ite ?_ ?_
                 | with_reducible apply Touches.trans ?_ (Touches.mono (putCtrl_touch ..) (by decide))
                 | with_reducible apply Touches.trans ?_ (Touches.mono (ctrlReset_touch ..) (by decide))
                 | with_reducible apply Touches.trans ?_ (Touches.mono (shutdownBegin_touch ..) (by decide))
                 | with_reducible apply Touches.trans ?_ (Touches.mono (ctrlEnable_touch ..) (by decide))
                 | with_reducible apply Touches.trans ?_ (Touches.mono (fabricEnable_touch ..) (by decide)) | (split))

theorem dmaSetState_touch (c v : Nat) (s : State) : Touches [.regs] s (dmaSetState c v s) := by
  unfold dmaSetState
  repeat' (first | with_reducible exact Touches.refl _ _
                 | with_reducible apply Touches.trans ?_ (Touches.mono (wr_touch _ _ _ _) (by decide)))

theorem dmaWriteBack_touch (c slot status retries doneLen : Nat) (s : State) : Touches [.regs, .free, .out, .glb, .peat,
    .ret, .map, .mere, .nvq] s (dmaWriteBack c slot status retries doneLen s) := by
  unfold dmaWriteBack
  repeat' (first | with_reducible exact Touches.refl _ _ | dsimp only | with_reducible apply Touches.ite ?_ ?_
                 | with_reducible apply Touches.trans ?_ (Touches.mono (drawn_touch ..) (by decide))
                 | with_reducible apply Touches.trans ?_ (Touches.mono (writeWordAt_touch ..) (by decide)))

theorem dmaCredit_touch (d : Nat) (s : State) : Touches [.regs, .free, .peat] s (dmaCredit d s) := by
  unfold dmaCredit
  repeat' (first | with_reducible exact Touches.refl _ _ | dsimp only | with_reducible apply Touches.ite ?_ ?_
                 | with_reducible apply Touches.trans ?_ (Touches.mono (wr_touch _ _ _ _) (by decide))
                 | with_reducible apply Touches.trans ?_ (Touches.mono (count_touch _ _ _ _) (by decide))
                 | with_reducible apply Touches.trans ?_ (Touches.mono (peatRecord_touch ..) (by decide)))

theorem dmaTryStart_touch (c : Nat) (s : State) : Touches [.regs, .dma] s (dmaTryStart c s) := by
  unfold dmaTryStart
  repeat' (first | with_reducible exact Touches.refl _ _ | dsimp only | with_reducible apply Touches.ite ?_ ?_
                 | with_reducible apply Touches.trans ?_ (Touches.mono (wr_touch _ _ _ _) (by decide))
                 | with_reducible apply Touches.trans ?_ (Touches.mono (dmaSetState_touch ..) (by decide))
                 | simp only [touches_mk]; with_reducible refine Touches.made (h := ?_) | (split))

theorem dmaSignal_touch (c : Nat) (s : State) : Touches [.regs, .free, .peat, .dma] s (dmaSignal c s) := by
  unfold dmaSignal
  repeat' (first | with_reducible exact Touches.refl _ _ | dsimp only | with_reducible apply Touches.ite ?_ ?_
                 | with_reducible apply Touches.trans ?_ (Touches.mono (dmaCredit_touch ..) (by decide))
                 | with_reducible apply Touches.trans ?_ (Touches.mono (dmaTryStart_touch ..) (by decide))
                 | with_reducible apply Touches.trans ?_ (eachOf_touch _ _ _ ?_) | (intro _))

theorem dmaBit_touch (f : Field) (c : Nat) (s : State) : Touches [.regs] s (dmaBit f c s) := by
  unfold dmaBit
  repeat' (first | with_reducible exact Touches.refl _ _
                 | with_reducible apply Touches.trans ?_ (Touches.mono (wrBit_touch _ _ _ _ _) (by decide)))

theorem dmaEnd_touch (c slot status : Nat) (j : DmaJob) (s : State) : Touches [.regs, .free, .out, .glb, .peat, .ret, .map,
    .mere, .nvq, .dma] s (dmaEnd c slot status j s) := by
  unfold dmaEnd
  repeat' (first | with_reducible exact Touches.refl _ _ | dsimp only | with_reducible apply Touches.ite ?_ ?_
                 | with_reducible apply Touches.trans ?_ (Touches.mono (wr_touch _ _ _ _) (by decide))
                 | with_reducible apply Touches.trans ?_ (Touches.mono (dmaWriteBack_touch ..) (by decide))
                 | with_reducible apply Touches.trans ?_ (Touches.mono (dmaSignal_touch ..) (by decide))
                 | with_reducible apply Touches.trans ?_ (Touches.mono (dmaBit_touch ..) (by decide))
                 | simp only [touches_mk]; with_reducible refine Touches.made (h := ?_))

theorem dmaFetch_touch (fuel c : Nat) (s : State) : Touches [.regs, .free, .out, .glb, .peat, .ret, .map, .mere, .nvq, .dma]
    s (dmaFetch fuel c s) := by
  induction fuel generalizing c s with
  | zero => unfold dmaFetch; repeat' (first | with_reducible exact Touches.refl _ _)
  | succ k ih => unfold dmaFetch; repeat' (first | with_reducible exact Touches.refl _ _ | dsimp only
                                                 | with_reducible apply Touches.trans ?_ (ih ..)
                                                 | with_reducible apply Touches.ite ?_ ?_
                                                 | with_reducible apply Touches.trans ?_ (Touches.mono (wr_touch _ _ _ _) (by
                                                 decide))
                                                 | with_reducible apply Touches.trans ?_ (Touches.mono (dmaSetState_touch ..)
                                                 (by decide))
                                                 | with_reducible apply Touches.trans ?_ (Touches.mono (dmaTryStart_touch ..)
                                                 (by decide))
                                                 | with_reducible apply Touches.trans ?_ (Touches.mono (dmaEnd_touch ..) (by
                                                 decide))
                                                 | simp only [touches_mk]; with_reducible refine Touches.made (h := ?_))

theorem dmaNext_touch (c : Nat) (s : State) : Touches [.regs, .free, .out, .glb, .peat, .ret, .map, .mere, .nvq, .dma] s
    (dmaNext c s) := by
  unfold dmaNext
  repeat' (first | with_reducible exact Touches.refl _ _
                 | with_reducible apply Touches.trans ?_ (Touches.mono (dmaFetch_touch ..) (by decide)))

theorem dmaComplete_touch (c status : Nat) (s : State) : Touches [.regs, .free, .out, .glb, .peat, .ret, .map, .mere, .nvq,
    .dma] s (dmaComplete c status s) := by
  unfold dmaComplete
  repeat' (first | with_reducible exact Touches.refl _ _
                 | with_reducible apply Touches.trans ?_ (Touches.mono (dmaEnd_touch ..) (by decide))
                 | with_reducible apply Touches.trans ?_ (Touches.mono (dmaNext_touch ..) (by decide)) | (split))

theorem failTransfer_touch (cid : Nat) (s : State) : Touches [.free, .nvq] s (failTransfer cid s) := by
  unfold failTransfer
  repeat' (first | with_reducible exact Touches.refl _ _ | dsimp only
                 | with_reducible apply Touches.trans ?_ (Touches.mono (drawn_touch ..) (by decide))
                 | with_reducible apply Touches.trans ?_ (Touches.mono (finishCmd_touch ..) (by decide)) | (split))

theorem dmaHaltNow_touch (c : Nat) (e : DmaError) (s : State) : Touches [.regs, .free, .nvq] s (dmaHaltNow c e s) := by
  unfold dmaHaltNow
  repeat' (first | with_reducible exact Touches.refl _ _ | dsimp only | with_reducible apply Touches.ite ?_ ?_
                 | with_reducible apply Touches.trans ?_ (Touches.mono (wr_touch _ _ _ _) (by decide))
                 | with_reducible apply Touches.trans ?_ (Touches.mono (wrB_touch _ _ _ _) (by decide))
                 | with_reducible apply Touches.trans ?_ (Touches.mono (dmaSetState_touch ..) (by decide))
                 | with_reducible apply Touches.trans ?_ (Touches.mono (dmaBit_touch ..) (by decide))
                 | with_reducible apply Touches.trans ?_ (Touches.mono (failTransfer_touch ..) (by decide)) | (split))

theorem dmaError_touch (c : Nat) (e : DmaError) (s : State) : Touches [.regs, .free, .nvq, .dma] s (dmaError c e s) := by
  unfold dmaError
  repeat' (first | with_reducible exact Touches.refl _ _ | dsimp only | with_reducible apply Touches.ite ?_ ?_
                 | with_reducible apply Touches.trans ?_ (Touches.mono (count_touch _ _ _ _) (by decide))
                 | with_reducible apply Touches.trans ?_ (Touches.mono (dmaSetState_touch ..) (by decide))
                 | with_reducible apply Touches.trans ?_ (Touches.mono (dmaHaltNow_touch ..) (by decide))
                 | simp only [touches_mk]; with_reducible refine Touches.made (h := ?_) | (split))

theorem dmaRun_touch {ps : List Part} (c op : Nat) (f : DmaJob → State → Option DmaError × State) (s : State) (hp : ∀ p ∈
    [Part.regs, .free, .out, .glb, .peat, .ret, .map, .mere, .nvq, .dma], p ∈ ps) (hf : ∀ j s, Touches ps s (f j s).2) :
    Touches ps s (dmaRun c op f s) := by
  unfold dmaRun; split
  · exact Touches.refl _ _
  · next j _ =>
    split
    · have := hf j s
      split
      · next e => rw [e] at this; exact this.trans ((dmaError_touch ..).mono (fun p h => hp p (by revert p; decide)))
      · next e => rw [e] at this; refine Touches.trans this (Touches.trans ?_ ((dmaComplete_touch ..).mono (fun p h => hp p
          (by revert p; decide))))
                  refine Touches.mono (qs := [.dma]) ?_ (fun p h => hp p (by revert p; decide))
                  constructor <;> first | exact fun _ => rfl | exact fun h => absurd (by decide) h
    · exact Touches.refl _ _

theorem dmaStore_touch (j : DmaJob) (v : Nat) (s : State) : Touches [.regs, .free, .out, .glb, .peat, .ret, .map, .mere,
    .nvq] s (dmaStore j v s).2 := by
  unfold dmaStore
  repeat' (first | with_reducible exact Touches.refl _ _ | dsimp only
                 | with_reducible apply Touches.trans ?_ (Touches.mono (mereStore_touch ..) (by decide)) | (split))

theorem dmaStore_touch' {j : DmaJob} {v : Nat} {s : State} {av : Option DmaError} {tv : State} (h : dmaStore j v s = (av,
    tv)) : Touches [.regs, .free, .out, .glb, .peat, .ret, .map, .mere, .nvq] s tv := by
  have := dmaStore_touch j v s; rw [h] at this; exact this

theorem dmaLoad_touch (j : DmaJob) (s : State) : Touches [.regs, .free, .out, .glb, .peat, .ret, .map, .mere, .nvq] s
    (dmaLoad j s).2 := by
  unfold dmaLoad
  repeat' (first | with_reducible exact Touches.refl _ _ | dsimp only
                 | with_reducible apply Touches.trans ?_ (Touches.mono (mereFetch_touch ..) (by decide)) | (split))

theorem dmaLoad_touch' {j : DmaJob} {s : State} {av : (Option DmaError × Nat)} {tv : State} (h : dmaLoad j s = (av, tv)) :
    Touches [.regs, .free, .out, .glb, .peat, .ret, .map, .mere, .nvq] s tv := by
  have := dmaLoad_touch j s; rw [h] at this; exact this

theorem dmaHostGone_touch (p : Nat → Bool) (s : State) : Touches [.regs, .free, .out, .glb, .peat, .ret, .map, .mere, .nvq,
    .dma] s (dmaHostGone p s) := by
  unfold dmaHostGone
  repeat' (first | with_reducible exact Touches.refl _ _
                 | with_reducible apply Touches.trans ?_ (Touches.mono (dmaComplete_touch ..) (by decide))
                 | with_reducible apply Touches.trans ?_ (eachOf_touch _ _ _ ?_) | (intro _))

theorem dmaAbandon_touch (s : State) : Touches [.regs, .dma] s (dmaAbandon s) := by
  unfold dmaAbandon
  repeat' (first | with_reducible exact Touches.refl _ _
                 | with_reducible apply Touches.trans ?_ (Touches.mono (dmaSetState_touch ..) (by decide))
                 | simp only [touches_mk]; with_reducible refine Touches.made (h := ?_)
                 | with_reducible apply Touches.trans ?_ (eachOf_touch _ _ _ ?_) | (intro _))

theorem hostRun_touch {ps : List Part} (c op : Nat) (f : DmaJob → State → Option DmaError × State) (s : State)
    (hp : ∀ p ∈ [Part.regs, .free, .out, .glb, .peat, .ret, .map, .mere, .nvq, .slu, .dma], p ∈ ps) (hf : ∀ j s, Touches ps s (f j s).2) :
    Touches ps s (hostRun c op f s) := by
  unfold hostRun; split
  · exact Touches.refl _ _
  · split
    · split
      · exact Touches.trans ((chargeMere_touch ..).mono (fun p h => hp p (by revert p; decide)))
          (dmaRun_touch (hp := fun p h => hp p (by revert p; decide)) (hf := hf) ..)
      · exact Touches.refl _ _
    · exact Touches.refl _ _

theorem dmaResumeOp_touch (path : AccessPath) (c : Nat) (s : State) : Touches [.regs, .free, .peat, .dma] s (dmaResumeOp path
    c s) := by
  unfold dmaResumeOp
  repeat' (first | with_reducible exact Touches.refl _ _ | dsimp only | with_reducible apply Touches.ite ?_ ?_
                 | with_reducible apply Touches.trans ?_ (Touches.mono (wr_touch _ _ _ _) (by decide))
                 | with_reducible apply Touches.trans ?_ (Touches.mono (accessViolation_touch ..) (by decide))
                 | with_reducible apply Touches.trans ?_ (Touches.mono (dmaSetState_touch ..) (by decide))
                 | simp only [touches_mk]; with_reducible refine Touches.made (h := ?_))

theorem dmaSkipOp_touch (path : AccessPath) (c : Nat) (s : State) : Touches [.regs, .free, .out, .glb, .peat, .ret, .map,
    .mere, .nvq, .dma] s (dmaSkipOp path c s) := by
  unfold dmaSkipOp
  repeat' (first | with_reducible exact Touches.refl _ _ | with_reducible apply Touches.ite ?_ ?_
                 | with_reducible apply Touches.trans ?_ (Touches.mono (accessViolation_touch ..) (by decide))
                 | with_reducible apply Touches.trans ?_ (Touches.mono (dmaComplete_touch ..) (by decide)))

theorem dmaResetOp_touch (c : Nat) (s : State) : Touches [.regs, .free, .out, .glb, .peat, .ret, .map, .mere, .nvq, .dma] s
    (dmaResetOp c s) := by
  unfold dmaResetOp
  repeat' (first | with_reducible exact Touches.refl _ _ | dsimp only
                 | with_reducible apply Touches.trans ?_ (Touches.mono (wr_touch _ _ _ _) (by decide))
                 | with_reducible apply Touches.trans ?_ (Touches.mono (dmaSetState_touch ..) (by decide))
                 | with_reducible apply Touches.trans ?_ (Touches.mono (dmaEnd_touch ..) (by decide)) | (split))

theorem dmaCtlWrite_touch (path : AccessPath) (c v : Nat) (s : State) : Touches [.regs, .free, .out, .glb, .peat, .ret, .map,
    .mere, .nvq, .dma] s (dmaCtlWrite path c v s) := by
  unfold dmaCtlWrite
  repeat' (first | with_reducible exact Touches.refl _ _
                 | with_reducible apply Touches.trans ?_ (Touches.mono (accessViolation_touch ..) (by decide))
                 | with_reducible apply Touches.trans ?_ (Touches.mono (dmaResumeOp_touch ..) (by decide))
                 | with_reducible apply Touches.trans ?_ (Touches.mono (dmaSkipOp_touch ..) (by decide))
                 | with_reducible apply Touches.trans ?_ (Touches.mono (dmaResetOp_touch ..) (by decide)) | (split))

theorem putFunc_touch (l f : Nat) (x : Func) (s : State) : Touches [.hif] s (putFunc l f x s) := by
  unfold putFunc
  repeat' (first | with_reducible exact Touches.refl _ _ | dsimp only
                 | simp only [touches_mk]; with_reducible refine Touches.made (h := ?_))

theorem funcsNote_touch (l : Nat) (s : State) : Touches [.regs] s (funcsNote l s) := by
  unfold funcsNote
  repeat' (first | with_reducible exact Touches.refl _ _
                 | with_reducible apply Touches.trans ?_ (Touches.mono (wr_touch _ _ _ _) (by decide)))

theorem createPcie_touch (l f : Nat) (s : State) : Touches [.nvq] s (createPcie l f s) := by
  unfold createPcie
  repeat' (first | with_reducible exact Touches.refl _ _ | dsimp only
                 | with_reducible apply Touches.trans ?_ (Touches.mono (putCtrl_touch ..) (by decide)) | (split))

theorem dropPcie_touch (n : Nat) (s : State) : Touches [.nvq] s (dropPcie n s) := by
  unfold dropPcie
  repeat' (first | with_reducible exact Touches.refl _ _ | dsimp only | with_reducible apply Touches.ite ?_ ?_
                 | with_reducible apply Touches.trans ?_ (Touches.mono (putCtrl_touch ..) (by decide))
                 | simp only [touches_mk]; with_reducible refine Touches.made (h := ?_) | (split))

theorem resetLost_touch (n cause : Nat) (s : State) : Touches [.regs, .free, .out, .glb, .peat, .ret, .map, .mere, .nvq,
    .slu, .dma] s (resetLost n cause s) := by
  unfold resetLost
  repeat' (first | with_reducible exact Touches.refl _ _
                 | with_reducible apply Touches.trans ?_ (Touches.mono (ctrlReset_touch ..) (by decide))
                 | with_reducible apply Touches.trans ?_ (Touches.mono (dmaHostGone_touch ..) (by decide)))

theorem doeDrop_touch (l : Nat) (s : State) : Touches [.hif] s (doeDrop l s) := by
  unfold doeDrop
  repeat' (first | with_reducible exact Touches.refl _ _ | dsimp only
                 | simp only [touches_mk]; with_reducible refine Touches.made (h := ?_))

theorem funcClear_touch (l f : Nat) (s : State) : Touches [.regs, .cfg, .nvq, .hif] s (funcClear l f s) := by
  unfold funcClear
  repeat' (first | with_reducible exact Touches.refl _ _ | dsimp only | with_reducible apply Touches.ite ?_ ?_
                 | with_reducible apply Touches.trans ?_ (Touches.mono (putCtrl_touch ..) (by decide))
                 | with_reducible apply Touches.trans ?_ (Touches.mono (closeExpert_touch ..) (by decide))
                 | with_reducible apply Touches.trans ?_ (Touches.mono (putFunc_touch ..) (by decide))
                 | with_reducible apply Touches.trans ?_ (Touches.mono (funcsNote_touch ..) (by decide))
                 | with_reducible apply Touches.trans ?_ (Touches.mono (doeDrop_touch ..) (by decide)) | (split))

theorem funcReset_touch (l f cause : Nat) (s : State) : Touches [.regs, .free, .out, .glb, .peat, .cfg, .ret, .map, .mere,
    .nvq, .slu, .hif, .dma] s (funcReset l f cause s) := by
  unfold funcReset
  repeat' (first | with_reducible exact Touches.refl _ _ | dsimp only
                 | with_reducible apply Touches.trans ?_ (Touches.mono (resetLost_touch ..) (by decide))
                 | with_reducible apply Touches.trans ?_ (Touches.mono (funcClear_touch ..) (by decide)) | (split))

theorem vfsReset_touch (l f cause : Nat) (s : State) : Touches [.regs, .free, .out, .glb, .peat, .cfg, .ret, .map, .mere,
    .nvq, .slu, .hif, .dma] s (vfsReset l f cause s) := by
  unfold vfsReset
  repeat' (first | with_reducible exact Touches.refl _ _ | dsimp only
                 | with_reducible apply Touches.trans ?_ (Touches.mono (putFunc_touch ..) (by decide))
                 | with_reducible apply Touches.trans ?_ (Touches.mono (funcsNote_touch ..) (by decide))
                 | with_reducible apply Touches.trans ?_ (Touches.mono (funcReset_touch ..) (by decide))
                 | with_reducible apply Touches.trans ?_ (eachOf_touch _ _ _ ?_) | (intro _))

theorem flr_touch (l f cause : Nat) (s : State) : Touches [.regs, .free, .out, .glb, .peat, .cfg, .ret, .map, .mere, .nvq,
    .slu, .hif, .dma] s (flr l f cause s) := by
  unfold flr
  repeat' (first | with_reducible exact Touches.refl _ _ | with_reducible apply Touches.ite ?_ ?_
                 | with_reducible apply Touches.trans ?_ (Touches.mono (funcReset_touch ..) (by decide))
                 | with_reducible apply Touches.trans ?_ (Touches.mono (vfsReset_touch ..) (by decide)))

theorem linkReset_touch (l cause : Nat) (s : State) : Touches [.regs, .free, .out, .glb, .peat, .cfg, .ret, .map, .mere,
    .nvq, .slu, .hif, .dma] s (linkReset l cause s) := by
  unfold linkReset
  repeat' (first | with_reducible exact Touches.refl _ _
                 | with_reducible apply Touches.trans ?_ (Touches.mono (flr_touch ..) (by decide))
                 | with_reducible apply Touches.trans ?_ (eachOf_touch _ _ _ ?_) | (intro _))

theorem aerUncorr_touch (l f bit : Nat) (s : State) : Touches [.regs, .out, .hif] s (aerUncorr l f bit s) := by
  unfold aerUncorr
  repeat' (first | with_reducible exact Touches.refl _ _ | dsimp only
                 | with_reducible apply Touches.trans ?_ (Touches.mono (wr_touch _ _ _ _) (by decide))
                 | with_reducible apply Touches.trans ?_ (Touches.mono (count_touch _ _ _ _) (by decide))
                 | with_reducible apply Touches.trans ?_ (Touches.mono (emit_touch ..) (by decide))
                 | with_reducible apply Touches.trans ?_ (Touches.mono (putFunc_touch ..) (by decide)))

theorem aerCorr_touch (l f bit : Nat) (s : State) : Touches [.regs, .out, .hif] s (aerCorr l f bit s) := by
  unfold aerCorr
  repeat' (first | with_reducible exact Touches.refl _ _ | dsimp only
                 | with_reducible apply Touches.trans ?_ (Touches.mono (count_touch _ _ _ _) (by decide))
                 | with_reducible apply Touches.trans ?_ (Touches.mono (emit_touch ..) (by decide))
                 | with_reducible apply Touches.trans ?_ (Touches.mono (putFunc_touch ..) (by decide)))

theorem degradedNote_touch (l : Nat) (s : State) : Touches [.regs] s (degradedNote l s) := by
  unfold degradedNote
  repeat' (first | with_reducible exact Touches.refl _ _
                 | with_reducible apply Touches.trans ?_ (Touches.mono (wrB_touch _ _ _ _) (by decide)))

theorem linkDown_touch (l cause : Nat) (s : State) : Touches [.regs, .free, .out, .glb, .peat, .cfg, .ret, .map, .mere, .nvq,
    .slu, .hif, .dma] s (linkDown l cause s) := by
  unfold linkDown
  repeat' (first | with_reducible exact Touches.refl _ _ | dsimp only | with_reducible apply Touches.ite ?_ ?_
                 | with_reducible apply Touches.trans ?_ (Touches.mono (wr_touch _ _ _ _) (by decide))
                 | with_reducible apply Touches.trans ?_ (Touches.mono (wrBit_touch _ _ _ _ _) (by decide))
                 | with_reducible apply Touches.trans ?_ (Touches.mono (glbRefresh_touch ..) (by decide))
                 | with_reducible apply Touches.trans ?_ (Touches.mono (faultAbsorbed_touch ..) (by decide))
                 | with_reducible apply Touches.trans ?_ (Touches.mono (portSettle_touch ..) (by decide))
                 | with_reducible apply Touches.trans ?_ (Touches.mono (linkReset_touch ..) (by decide)))

theorem fabNote_touch (s : State) : Touches [.regs] s (fabNote s) := by
  unfold fabNote
  repeat' (first | with_reducible exact Touches.refl _ _ | dsimp only
                 | with_reducible apply Touches.trans ?_ (Touches.mono (wr_touch _ _ _ _) (by decide))
                 | with_reducible apply Touches.trans ?_ (eachOf_touch _ _ _ ?_) | (intro _))

theorem putQp_touch (n : Nat) (q : Qp) (s : State) : Touches [.fab] s (putQp n q s) := by
  unfold putQp
  repeat' (first | with_reducible exact Touches.refl _ _ | dsimp only
                 | simp only [touches_mk]; with_reducible refine Touches.made (h := ?_))

theorem closeQps_touch (p : Qp → Bool) (s : State) : Touches [.fab] s (closeQps p s) := by
  unfold closeQps
  repeat' (first | with_reducible exact Touches.refl _ _ | dsimp only
                 | simp only [touches_mk]; with_reducible refine Touches.made (h := ?_))

theorem assocEnd_touch (cid cause : Nat) (s : State) : Touches [.regs, .free, .out, .glb, .peat, .ret, .map, .mere, .nvq,
    .slu, .fab, .dma] s (assocEnd cid cause s) := by
  unfold assocEnd
  repeat' (first | with_reducible exact Touches.refl _ _ | dsimp only | with_reducible apply Touches.ite ?_ ?_
                 | with_reducible apply Touches.trans ?_ (Touches.mono (wr_touch _ _ _ _) (by decide))
                 | with_reducible apply Touches.trans ?_ (Touches.mono (resetLost_touch ..) (by decide))
                 | with_reducible apply Touches.trans ?_ (Touches.mono (fabNote_touch ..) (by decide))
                 | with_reducible apply Touches.trans ?_ (Touches.mono (closeQps_touch ..) (by decide))
                 | simp only [touches_mk]; with_reducible refine Touches.made (h := ?_) | (split))

theorem assocEndQuiet_touch (cid : Nat) (s : State) : Touches [.regs, .free, .out, .glb, .peat, .ret, .map, .mere, .nvq,
    .slu, .fab, .dma] s (assocEndQuiet cid s) := by
  unfold assocEndQuiet
  repeat' (first | with_reducible exact Touches.refl _ _ | dsimp only
                 | with_reducible apply Touches.trans ?_ (Touches.mono (wr_touch _ _ _ _) (by decide))
                 | with_reducible apply Touches.trans ?_ (Touches.mono (assocEnd_touch ..) (by decide))
                 | simp only [touches_mk]; with_reducible refine Touches.made (h := ?_) | (split))

theorem assocEndWhere_touch (p : Qp → Bool) (cause : Nat) (s : State) : Touches [.regs, .free, .out, .glb, .peat, .ret, .map,
    .mere, .nvq, .slu, .fab, .dma] s (assocEndWhere p cause s) := by
  unfold assocEndWhere
  repeat' (first | with_reducible exact Touches.refl _ _
                 | with_reducible apply Touches.trans ?_ (Touches.mono (assocEnd_touch ..) (by decide))
                 | with_reducible apply Touches.trans ?_ (eachOf_touch _ _ _ ?_) | (intro _))

theorem putPeer_touch (p : Nat) (x : Peer) (s : State) : Touches [.cwy] s (putPeer p x s) := by
  unfold putPeer
  repeat' (first | with_reducible exact Touches.refl _ _ | dsimp only
                 | simp only [touches_mk]; with_reducible refine Touches.made (h := ?_))

theorem putMig_touch (m : Nat) (x : Migration) (s : State) : Touches [.cwy] s (putMig m x s) := by
  unfold putMig
  repeat' (first | with_reducible exact Touches.refl _ _ | dsimp only
                 | simp only [touches_mk]; with_reducible refine Touches.made (h := ?_))

theorem migEnd_touch (m how reason : Nat) (s : State) : Touches [.regs, .cwy] s (migEnd m how reason s) := by
  unfold migEnd
  repeat' (first | with_reducible exact Touches.refl _ _
                 | with_reducible apply Touches.trans ?_ (Touches.mono (wr_touch _ _ _ _) (by decide))
                 | with_reducible apply Touches.trans ?_ (Touches.mono (putMig_touch ..) (by decide)) | (split))

theorem cwyOut_touch (p : Nat) (d : CwyTx) (s : State) : Touches [.out] s (cwyOut p d s) := by
  unfold cwyOut
  repeat' (first | with_reducible exact Touches.refl _ _ | with_reducible apply Touches.ite ?_ ?_
                 | with_reducible apply Touches.trans ?_ (Touches.mono (emit_touch ..) (by decide)))

theorem cwySendNow_touch (p : Nat) (d : CwyTx) (s : State) : Touches [.out, .cwy] s (cwySendNow p d s) := by
  unfold cwySendNow
  repeat' (first | with_reducible exact Touches.refl _ _ | dsimp only
                 | with_reducible apply Touches.trans ?_ (Touches.mono (putPeer_touch ..) (by decide))
                 | with_reducible apply Touches.trans ?_ (Touches.mono (cwyOut_touch ..) (by decide)))

theorem cwySend_touch (p stream type : Nat) (args : List Nat) (s : State) : Touches [.out, .cwy] s (cwySend p stream type
    args s) := by
  unfold cwySend
  repeat' (first | with_reducible exact Touches.refl _ _ | dsimp only | with_reducible apply Touches.ite ?_ ?_
                 | with_reducible apply Touches.trans ?_ (Touches.mono (putPeer_touch ..) (by decide))
                 | with_reducible apply Touches.trans ?_ (Touches.mono (cwySendNow_touch ..) (by decide)))

theorem cwyPump_touch (p st : Nat) (s : State) : Touches [.out, .cwy] s (cwyPump p st s) := by
  unfold cwyPump
  repeat' (first | with_reducible exact Touches.refl _ _ | dsimp only
                 | with_reducible apply Touches.trans ?_ (Touches.mono (putPeer_touch ..) (by decide))
                 | with_reducible apply Touches.trans ?_ (Touches.mono (cwySendNow_touch ..) (by decide))
                 | with_reducible apply Touches.trans ?_ (eachOf_touch _ _ _ ?_) | (intro _))

theorem sendAck_touch (p st : Nat) (s : State) : Touches [.out] s (sendAck p st s) := by
  unfold sendAck
  repeat' (first | with_reducible exact Touches.refl _ _
                 | with_reducible apply Touches.trans ?_ (Touches.mono (emit_touch ..) (by decide)))

theorem chainFeed_touch (n q : Nat) (s : State) : Touches [.out, .cwy] s (chainFeed n q s) := by
  induction n generalizing q s with
  | zero => exact Touches.refl _ _
  | succ k ih =>
    unfold chainFeed
    repeat' (first | with_reducible exact Touches.refl _ _ | dsimp only | with_reducible apply Touches.trans ?_ (ih ..)
                   | with_reducible apply Touches.ite ?_ ?_
                   | with_reducible apply Touches.trans ?_ (Touches.mono (cwySend_touch ..) (by decide))
                   | simp only [touches_mk]; with_reducible refine Touches.made (h := ?_))

theorem chainPump_touch (s : State) : Touches [.out, .cwy] s (chainPump s) := by
  unfold chainPump
  repeat' (first | with_reducible exact Touches.refl _ _ | dsimp only | with_reducible apply Touches.ite ?_ ?_
                 | with_reducible apply Touches.trans ?_ (Touches.mono (chainFeed_touch ..) (by decide))
                 | simp only [touches_mk]; with_reducible refine Touches.made (h := ?_) | (split))

theorem chainReportUp_touch (serial status : Nat) (s : State) : Touches [.out, .cwy] s (chainReportUp serial status s) := by
  unfold chainReportUp
  repeat' (first | with_reducible exact Touches.refl _ _ | dsimp only | with_reducible apply Touches.ite ?_ ?_
                 | with_reducible apply Touches.trans ?_ (Touches.mono (cwySend_touch ..) (by decide))
                 | simp only [touches_mk]; with_reducible refine Touches.made (h := ?_) | (split))

theorem chainRefuse_touch (status : Nat) (s : State) : Touches [.out, .cwy] s (chainRefuse status s) := by
  unfold chainRefuse
  repeat' (first | with_reducible exact Touches.refl _ _ | dsimp only
                 | with_reducible apply Touches.trans ?_ (Touches.mono (chainReportUp_touch ..) (by decide))
                 | simp only [touches_mk]; with_reducible refine Touches.made (h := ?_))

theorem chainStart_touch (s : State) : Touches [.out, .cwy] s (chainStart s).2 := by
  unfold chainStart
  repeat' (first | with_reducible exact Touches.refl _ _ | dsimp only
                 | with_reducible apply Touches.trans ?_ (Touches.mono (chainPump_touch ..) (by decide))
                 | simp only [touches_mk]; with_reducible refine Touches.made (h := ?_) | (split))

theorem chainStart_touch' {s : State} {av : Nat} {tv : State} (h : chainStart s = (av, tv)) : Touches [.out, .cwy] s tv := by
  have := chainStart_touch s; rw [h] at this; exact this

theorem takeTract_touch (p st : Nat) (s : State) : Touches [.cwy] s (takeTract p st s) := by
  unfold takeTract
  repeat' (first | with_reducible exact Touches.refl _ _ | dsimp only | with_reducible apply Touches.ite ?_ ?_
                 | with_reducible apply Touches.trans ?_ (Touches.mono (putPeer_touch ..) (by decide))
                 | with_reducible apply Touches.trans ?_ (Touches.mono (putMig_touch ..) (by decide)) | (split))

theorem feedTract_touch (n p st : Nat) (s : State) : Touches [.out, .cwy] s (feedTract n p st s) := by
  induction n generalizing p st s with
  | zero => unfold feedTract; repeat' (first | with_reducible exact Touches.refl _ _)
  | succ k ih => unfold feedTract; repeat' (first | with_reducible exact Touches.refl _ _ | dsimp only
                                                  | with_reducible apply Touches.trans ?_ (ih ..)
                                                  | with_reducible apply Touches.ite ?_ ?_
                                                  | with_reducible apply Touches.trans ?_ (Touches.mono (putPeer_touch ..)
                                                  (by decide))
                                                  | with_reducible apply Touches.trans ?_ (Touches.mono (putMig_touch ..) (by
                                                  decide))
                                                  | with_reducible apply Touches.trans ?_ (Touches.mono (cwySend_touch ..)
                                                  (by decide)) | (split))

theorem migPump_touch (p : Nat) (s : State) : Touches [.out, .cwy] s (migPump p s) := by
  unfold migPump
  repeat' (first | with_reducible exact Touches.refl _ _ | with_reducible apply Touches.ite ?_ ?_
                 | with_reducible apply Touches.trans ?_ (Touches.mono (takeTract_touch ..) (by decide))
                 | with_reducible apply Touches.trans ?_ (Touches.mono (feedTract_touch ..) (by decide))
                 | with_reducible apply Touches.trans ?_ (eachOf_touch _ _ _ ?_) | (intro _))

theorem cwyAcked_touch (p : Nat) (d : CwyTx) (s : State) : Touches [.regs, .cwy] s (cwyAcked p d s) := by
  unfold cwyAcked
  repeat' (first | with_reducible exact Touches.refl _ _ | dsimp only | with_reducible apply Touches.ite ?_ ?_
                 | with_reducible apply Touches.trans ?_ (Touches.mono (putPeer_touch ..) (by decide))
                 | with_reducible apply Touches.trans ?_ (Touches.mono (putMig_touch ..) (by decide))
                 | with_reducible apply Touches.trans ?_ (Touches.mono (migEnd_touch ..) (by decide)) | (split))

theorem cwyAck_touch (p st ack : Nat) (s : State) : Touches [.regs, .out, .cwy] s (cwyAck p st ack s) := by
  unfold cwyAck
  repeat' (first | with_reducible exact Touches.refl _ _ | dsimp only | with_reducible apply Touches.ite ?_ ?_
                 | with_reducible apply Touches.trans ?_ (Touches.mono (putPeer_touch ..) (by decide))
                 | with_reducible apply Touches.trans ?_ (Touches.mono (cwyPump_touch ..) (by decide))
                 | with_reducible apply Touches.trans ?_ (Touches.mono (chainPump_touch ..) (by decide))
                 | with_reducible apply Touches.trans ?_ (Touches.mono (migPump_touch ..) (by decide))
                 | with_reducible apply Touches.trans ?_ (Touches.mono (cwyAcked_touch ..) (by decide))
                 | with_reducible apply Touches.trans ?_ (eachOf_touch _ _ _ ?_) | (intro _))

theorem sendHello_touch (p : Nat) (s : State) : Touches [.free, .out, .cwy] s (sendHello p s) := by
  unfold sendHello
  repeat' (first | with_reducible exact Touches.refl _ _ | dsimp only
                 | with_reducible apply Touches.trans ?_ (Touches.mono (emit_touch ..) (by decide))
                 | with_reducible apply Touches.trans ?_ (Touches.mono (putPeer_touch ..) (by decide))
                 | simp only [touches_mk]; with_reducible refine Touches.made (h := ?_))

theorem helloAll_touch (s : State) : Touches [.free, .out, .cwy] s (helloAll s) := by
  unfold helloAll
  repeat' (first | with_reducible exact Touches.refl _ _
                 | with_reducible apply Touches.trans ?_ (Touches.mono (sendHello_touch ..) (by decide))
                 | with_reducible apply Touches.trans ?_ (eachOf_touch _ _ _ ?_) | (intro _))

theorem migResume_touch (p : Nat) (s : State) : Touches [.out, .cwy] s (migResume p s) := by
  unfold migResume
  repeat' (first | with_reducible exact Touches.refl _ _ | with_reducible apply Touches.ite ?_ ?_
                 | with_reducible apply Touches.trans ?_ (Touches.mono (cwySend_touch ..) (by decide))
                 | with_reducible apply Touches.trans ?_ (eachOf_touch _ _ _ ?_) | (intro _))

theorem openSession_touch (p version key num : Nat) (s : State) : Touches [.out, .cwy] s (openSession p version key num s) := by
  unfold openSession
  repeat' (first | with_reducible exact Touches.refl _ _ | dsimp only | with_reducible apply Touches.ite ?_ ?_
                 | with_reducible apply Touches.trans ?_ (Touches.mono (putPeer_touch ..) (by decide))
                 | with_reducible apply Touches.trans ?_ (Touches.mono (chainPump_touch ..) (by decide))
                 | with_reducible apply Touches.trans ?_ (Touches.mono (migPump_touch ..) (by decide))
                 | with_reducible apply Touches.trans ?_ (Touches.mono (migResume_touch ..) (by decide)))

theorem sessionEnd_touch (p : Nat) (s : State) : Touches [.cwy] s (sessionEnd p s) := by
  unfold sessionEnd
  repeat' (first | with_reducible exact Touches.refl _ _ | dsimp only | with_reducible apply Touches.ite ?_ ?_
                 | with_reducible apply Touches.trans ?_ (Touches.mono (putPeer_touch ..) (by decide))
                 | with_reducible apply Touches.trans ?_ (Touches.mono (putMig_touch ..) (by decide))
                 | simp only [touches_mk]; with_reducible refine Touches.made (h := ?_)
                 | with_reducible apply Touches.trans ?_ (eachOf_touch _ _ _ ?_) | (intro _) | (split))

theorem migExport_touch (nsid serial : Nat) (s : State) : Touches [.out, .cwy] s (migExport nsid serial s).2 := by
  unfold migExport
  repeat' (first | with_reducible exact Touches.refl _ _ | dsimp only
                 | with_reducible apply Touches.trans ?_ (Touches.mono (putMig_touch ..) (by decide))
                 | with_reducible apply Touches.trans ?_ (Touches.mono (cwySend_touch ..) (by decide)) | (split))

theorem migExport_touch' {nsid serial : Nat} {s : State} {av : Nat} {tv : State} (h : migExport nsid serial s = (av, tv)) :
    Touches [.out, .cwy] s tv := by
  have := migExport_touch nsid serial s; rw [h] at this; exact this

theorem migImport_touch (serial src dst tpl : Nat) (s : State) : Touches [.cwy] s (migImport serial src dst tpl s).2 := by
  unfold migImport
  repeat' (first | with_reducible exact Touches.refl _ _ | dsimp only
                 | with_reducible apply Touches.trans ?_ (Touches.mono (putMig_touch ..) (by decide)) | (split))

theorem migImport_touch' {serial src dst tpl : Nat} {s : State} {av : Nat} {tv : State} (h : migImport serial src dst tpl s =
    (av, tv)) : Touches [.cwy] s tv := by
  have := migImport_touch serial src dst tpl s; rw [h] at this; exact this

theorem migFreeze_touch (nsid : Nat) (s : State) : Touches [.nvq, .cwy] s (migFreeze nsid s).2 := by
  unfold migFreeze
  repeat' (first | with_reducible exact Touches.refl _ _ | dsimp only
                 | with_reducible apply Touches.trans ?_ (Touches.mono (putNs_touch ..) (by decide))
                 | with_reducible apply Touches.trans ?_ (Touches.mono (putMig_touch ..) (by decide)) | (split))

theorem migFreeze_touch' {nsid : Nat} {s : State} {av : Nat} {tv : State} (h : migFreeze nsid s = (av, tv)) : Touches [.nvq,
    .cwy] s tv := by
  have := migFreeze_touch nsid s; rw [h] at this; exact this

theorem peerSet_touch (k roles serial addr secret : Nat) (s : State) : Touches [.free, .out, .cwy] s (peerSet k roles serial
    addr secret s).2 := by
  unfold peerSet
  repeat' (first | with_reducible exact Touches.refl _ _ | dsimp only | with_reducible apply Touches.ite ?_ ?_
                 | with_reducible apply Touches.trans ?_ (Touches.mono (putPeer_touch ..) (by decide))
                 | with_reducible apply Touches.trans ?_ (Touches.mono (sendHello_touch ..) (by decide))
                 | with_reducible apply Touches.trans ?_ (Touches.mono (sessionEnd_touch ..) (by decide))
                 | simp only [touches_mk]; with_reducible refine Touches.made (h := ?_) | (split))

theorem peerSet_touch' {k roles serial addr secret : Nat} {s : State} {av : Nat} {tv : State} (h : peerSet k roles serial
    addr secret s = (av, tv)) : Touches [.free, .out, .cwy] s tv := by
  have := peerSet_touch k roles serial addr secret s; rw [h] at this; exact this

theorem setRecord_touch (f : BootRecord → BootRecord) (s : State) : Touches [.boot] s (setRecord f s) := by
  unfold setRecord
  repeat' (first | with_reducible exact Touches.refl _ _ | dsimp only
                 | simp only [touches_mk]; with_reducible refine Touches.made (h := ?_) | (split))

theorem bootNote_touch (s : State) : Touches [.regs] s (bootNote s) := by
  unfold bootNote
  repeat' (first | with_reducible exact Touches.refl _ _ | dsimp only
                 | with_reducible apply Touches.trans ?_ (Touches.mono (wr_touch _ _ _ _) (by decide))
                 | with_reducible apply Touches.trans ?_ (Touches.mono (wrB_touch _ _ _ _) (by decide)))

theorem resetState_touch (power vbatLost : Bool) (s : State) : Touches [.regs, .glb, .peat, .cfg, .ret, .map, .fen, .ldpc,
    .hew, .ucs, .seam, .mere, .nvq, .slu, .hif, .fab, .cwy, .cip, .dma, .mbx, .pwr, .sea, .upd, .cus, .clk, .boot, .tmon] s
    (resetState power vbatLost s) := by
  constructor <;> first | exact fun _ => rfl | exact fun h => absurd (by decide) h

theorem useSlot_touch (n : Nat) (try_ : Bool) (s : State) : Touches [.upd, .boot] s (useSlot n try_ s) := by
  unfold useSlot
  repeat' (first | with_reducible exact Touches.refl _ _ | dsimp only
                 | with_reducible apply Touches.trans ?_ (Touches.mono (setRecord_touch ..) (by decide))
                 | simp only [touches_mk]; with_reducible refine Touches.made (h := ?_))

theorem slotChoose_touch (s : State) : Touches [.regs, .free, .peat, .upd, .boot] s (slotChoose s) := by
  unfold slotChoose
  repeat' (first | with_reducible exact Touches.refl _ _ | dsimp only | with_reducible apply Touches.ite ?_ ?_
                 | with_reducible apply Touches.trans ?_ (Touches.mono (useSlot_touch ..) (by decide))
                 | with_reducible apply Touches.trans ?_ (Touches.mono (putSel_touch ..) (by decide))
                 | with_reducible apply Touches.trans ?_ (Touches.mono (peatRecord_touch ..) (by decide))
                 | with_reducible apply Touches.trans ?_ (Touches.mono (wr_touch _ _ _ _) (by decide))
                 | simp only [touches_mk]; with_reducible refine Touches.made (h := ?_) | (intro _) | (split))

theorem startBoot_touch (cause : Nat) (s : State) : Touches [.regs, .free, .peat, .upd, .boot] s (startBoot cause s) := by
  unfold startBoot
  repeat' (first | with_reducible exact Touches.refl _ _ | dsimp only
                 | with_reducible apply Touches.trans ?_ (Touches.mono (bootNote_touch ..) (by decide))
                 | with_reducible apply Touches.trans ?_ (Touches.mono (slotChoose_touch ..) (by decide))
                 | simp only [touches_mk]; with_reducible refine Touches.made (h := ?_))

theorem deviceReset_touch (cause : Nat) (s : State) : Touches [.regs, .free, .out, .glb, .peat, .cfg, .ret, .map, .fen,
    .ldpc, .hew, .ucs, .seam, .mere, .nvq, .slu, .hif, .fab, .cwy, .cip, .dma, .mbx, .pwr, .sea, .upd, .cus, .clk, .boot,
    .tmon] s (deviceReset cause s) := by
  unfold deviceReset
  repeat' (first | with_reducible exact Touches.refl _ _
                 | with_reducible apply Touches.trans ?_ (Touches.mono (emit_touch ..) (by decide))
                 | with_reducible apply Touches.trans ?_ (Touches.mono (resetState_touch ..) (by decide))
                 | with_reducible apply Touches.trans ?_ (Touches.mono (startBoot_touch ..) (by decide)))

theorem powerOnReset_touch (cause offSec : Nat) (vbatLost : Bool) (s : State) : Touches [.regs, .free, .out, .glb,
    .peat, .cfg, .life, .ret, .map, .fen, .ldpc, .hew, .ucs, .seam, .mere, .nvq, .slu, .hif, .fab, .cwy, .cip, .dma, .mbx,
    .pwr, .sea, .upd, .cus, .clk, .boot, .tmon] s (powerOnReset cause offSec vbatLost s) := by
  unfold powerOnReset
  repeat' (first | with_reducible exact Touches.refl _ _ | dsimp only | with_reducible apply Touches.ite ?_ ?_
                 | with_reducible apply Touches.trans ?_ (Touches.mono (healthAdd_touch ..) (by decide))
                 | with_reducible apply Touches.trans ?_ (Touches.mono (resetState_touch ..) (by decide))
                 | with_reducible apply Touches.trans ?_ (Touches.mono (emit_touch ..) (by decide))
                 | with_reducible apply Touches.trans ?_ (Touches.mono (wrB_touch _ _ _ _) (by decide))
                 | with_reducible apply Touches.trans ?_ (Touches.mono (wr_touch _ _ _ _) (by decide))
                 | with_reducible apply Touches.trans ?_ (Touches.mono (startBoot_touch ..) (by decide))
                 | simp only [touches_mk]; with_reducible refine Touches.made (h := ?_) | (intro _) | (split))

theorem peatGap_touch (s : State) : Touches [.regs, .free, .peat] s (peatGap s) := by
  unfold peatGap
  repeat' (first | with_reducible exact Touches.refl _ _ | dsimp only | with_reducible apply Touches.ite ?_ ?_
                 | with_reducible apply Touches.trans ?_ (Touches.mono (wr_touch _ _ _ _) (by decide))
                 | with_reducible apply Touches.trans ?_ (Touches.mono (peatWrite_touch ..) (by decide))
                 | simp only [touches_mk]; with_reducible refine Touches.made (h := ?_))

theorem peatRowWrite_touch (id row : Nat) (l : List PeatEntry) (s : State) : Touches [.map] s (peatRowWrite id row l s)
    := by
  unfold peatRowWrite
  repeat' (first | with_reducible exact Touches.refl _ _ | dsimp only | with_reducible apply Touches.ite ?_ ?_
                 | with_reducible apply Touches.trans ?_ (Touches.mono (putMeta_touch ..) (by decide))
                 | with_reducible apply Touches.trans ?_ (Touches.mono (eachOf_touch ..) (by decide))
                 | with_reducible apply Touches.trans ?_ (Touches.mono (setFrontier_touch ..) (by decide))
                 | with_reducible apply Touches.trans ?_ (Touches.mono (putParity_touch ..) (by decide))
                 | with_reducible apply Touches.trans ?_ (eachOf_touch _ _ _ ?_)
                 | with_reducible apply Touches.trans ?_ (foldl_touch _ _ _ ?_)
                 | simp only [touches_mk]; with_reducible refine Touches.made (h := ?_) | (intro _) | (split))

theorem peatOpen_touch (s : State) : Touches [.peat, .map] s (peatOpen s) := by
  unfold peatOpen
  repeat' (first | with_reducible exact Touches.refl _ _ | dsimp only
                 | with_reducible apply Touches.trans ?_ (Touches.mono (metaStripe_touch (by assumption)) (by decide))
                 | simp only [touches_mk]; with_reducible refine Touches.made (h := ?_) | (split))

theorem peatArchived_touch (l : List (Nat × PeatEntry)) (s : State) : Touches [.peat] s (peatArchived l s) := by
  unfold peatArchived
  repeat' (first | with_reducible exact Touches.refl _ _ | dsimp only | with_reducible apply Touches.ite ?_ ?_
                 | with_reducible apply Touches.trans ?_ (eachOf_touch _ _ _ ?_)
                 | with_reducible apply Touches.trans ?_ (foldl_touch _ _ _ ?_)
                 | simp only [touches_mk]; with_reducible refine Touches.made (h := ?_) | (intro _) | (split))

theorem peatRow_touch (ok : Bool) (s : State) : Touches [.regs, .free, .peat, .map, .mere] s (peatRow ok s) := by
  unfold peatRow
  repeat' (first | with_reducible exact Touches.refl _ _ | dsimp only | with_reducible apply Touches.ite ?_ ?_
                 | with_reducible apply Touches.trans ?_ (Touches.mono (peatOpen_touch ..) (by decide))
                 | with_reducible apply Touches.trans ?_ (Touches.mono (failSlotOf_touch ..) (by decide))
                 | with_reducible apply Touches.trans ?_ (Touches.mono (drawn_touch ..) (by decide))
                 | with_reducible apply Touches.trans ?_ (Touches.mono (wr_touch _ _ _ _) (by decide))
                 | with_reducible apply Touches.trans ?_ (Touches.mono (peatArchived_touch ..) (by decide))
                 | with_reducible apply Touches.trans ?_ (Touches.mono (peatRowWrite_touch ..) (by decide))
                 | with_reducible apply Touches.trans ?_ (Touches.mono (skipAbsent_touch ..) (by decide))
                 | simp only [touches_mk]; with_reducible refine Touches.made (h := ?_) | (intro _) | (split))

theorem peatArchiveAll_touch (fuel : Nat) (s : State) : Touches [.regs, .free, .peat, .map, .mere] s (peatArchiveAll fuel s) := by
  induction fuel generalizing s with
  | zero => exact Touches.refl _ _
  | succ k ih =>
    unfold peatArchiveAll; split
    · exact Touches.refl _ _
    · exact Touches.trans ((peatRow_touch ..).mono (by decide)) (ih _)

theorem peatRlWrite_touch (p : AccessPath) (value : Nat) (s : State) : Touches [.regs, .free, .peat] s (peatRlWrite p
    value s) := by
  unfold peatRlWrite
  repeat' (first | with_reducible exact Touches.refl _ _ | dsimp only | with_reducible apply Touches.ite ?_ ?_
                 | with_reducible apply Touches.trans ?_ (Touches.mono (accessViolation_touch ..) (by decide))
                 | simp only [touches_mk]; with_reducible refine Touches.made (h := ?_) | (intro _) | (split))

theorem hewNote_touch (n : Nat) (s : State) : Touches [.regs] s (hewNote n s) := by
  unfold hewNote
  repeat' (first | with_reducible exact Touches.refl _ _ | dsimp only
                 | with_reducible apply Touches.trans ?_ (Touches.mono (wr_touch _ _ _ _) (by decide)))

theorem hewWriteBack_touch (n : Nat) (h : Held) (busy endTime : Nat) (s : State) : Touches [.regs, .free, .out, .glb, .peat,
    .ret, .map, .mere, .nvq] s (hewWriteBack n h busy endTime s) := by
  unfold hewWriteBack
  repeat' (first | with_reducible exact Touches.refl _ _ | dsimp only | with_reducible apply Touches.ite ?_ ?_
                 | with_reducible apply Touches.trans ?_ (Touches.mono (writeWordAt_touch ..) (by decide)))

theorem suspectBlock_touch (l b : Nat) (s : State) : Touches [.map] s (suspectBlock l b s) := by
  unfold suspectBlock
  repeat' (first | with_reducible exact Touches.refl _ _ | dsimp only | with_reducible apply Touches.ite ?_ ?_
                 | with_reducible apply Touches.trans ?_ (Touches.mono (replaceSlot_touch ..) (by decide))
                 | with_reducible apply Touches.trans ?_ (Touches.mono (putBlock_touch ..) (by decide))
                 | simp only [touches_mk]; with_reducible refine Touches.made (h := ?_) | (intro _) | (split))

theorem resolveHalted_touch (s : State) : Touches [.map, .hew] s (resolveHalted s) := by
  unfold resolveHalted
  repeat' (first | with_reducible exact Touches.refl _ _ | dsimp only | with_reducible apply Touches.ite ?_ ?_
                 | with_reducible apply Touches.trans ?_ (Touches.mono (eachOf_touch ..) (by decide))
                 | with_reducible apply Touches.trans ?_ (Touches.mono (suspectBlock_touch ..) (by decide))
                 | with_reducible apply Touches.trans ?_ (eachOf_touch _ _ _ ?_)
                 | with_reducible apply Touches.trans ?_ (foldl_touch _ _ _ ?_)
                 | simp only [touches_mk]; with_reducible refine Touches.made (h := ?_) | (intro _) | (split))

theorem hewResolve_touch (n : Nat) (h : Held) (s : State) : Touches [.regs, .free, .out, .glb, .peat, .ret, .map, .fen,
    .hew, .seam, .mere, .nvq] s (hewResolve n h s) := by
  unfold hewResolve
  repeat' (first | with_reducible exact Touches.refl _ _ | dsimp only | with_reducible apply Touches.ite ?_ ?_
                 | with_reducible apply Touches.trans ?_ (Touches.mono (loseDie_touch ..) (by decide))
                 | with_reducible apply Touches.trans ?_ (Touches.mono (wornCheck_touch ..) (by decide))
                 | with_reducible apply Touches.trans ?_ (Touches.mono (failSlotOf_touch ..) (by decide))
                 | with_reducible apply Touches.trans ?_ (Touches.mono (spoilAndCheck_touch ..) (by decide))
                 | with_reducible apply Touches.trans ?_ (Touches.mono (peatRecord_touch ..) (by decide))
                 | with_reducible apply Touches.trans ?_ (Touches.mono (suspectBlock_touch ..) (by decide))
                 | with_reducible apply Touches.trans ?_ (Touches.mono (putBlock_touch ..) (by decide))
                 | with_reducible apply Touches.trans ?_ (Touches.mono (wipeBlock_touch ..) (by decide))
                 | simp only [touches_mk]; with_reducible refine Touches.made (h := ?_) | (intro _) | (split))

theorem hewComplete_touch (n k busy endTime : Nat) (h : Held) (s : State) : Touches [.regs, .free, .out, .glb, .peat,
    .ret, .map, .fen, .hew, .seam, .mere, .nvq, .slu] s (hewComplete n k busy endTime h s) := by
  unfold hewComplete
  repeat' (first | with_reducible exact Touches.refl _ _ | dsimp only | with_reducible apply Touches.ite ?_ ?_
                 | with_reducible apply Touches.trans ?_ (Touches.mono (hewNote_touch ..) (by decide))
                 | with_reducible apply Touches.trans ?_ (Touches.mono (hewWriteBack_touch ..) (by decide))
                 | with_reducible apply Touches.trans ?_ (Touches.mono (delHeld_touch ..) (by decide))
                 | with_reducible apply Touches.trans ?_ (Touches.mono (chargeDie_touch ..) (by decide))
                 | with_reducible apply Touches.trans ?_ (Touches.mono (chargeLink_touch ..) (by decide))
                 | with_reducible apply Touches.trans ?_ (Touches.mono (wr_touch _ _ _ _) (by decide))
                 | with_reducible apply Touches.trans ?_ (Touches.mono (count_touch _ _ _ _) (by decide))
                 | with_reducible apply Touches.trans ?_ (Touches.mono (hewResolve_touch ..) (by decide))
                 | simp only [touches_mk]; with_reducible refine Touches.made (h := ?_) | (intro _) | (split))

theorem hewEnd_touch (n k status : Nat) (s : State) : Touches [.regs, .free, .out, .glb, .peat, .ret, .map, .fen, .hew,
    .seam, .mere, .nvq, .slu] s (hewEnd n k status s) := by
  unfold hewEnd
  repeat' (first | with_reducible exact Touches.refl _ _
                 | with_reducible apply Touches.trans ?_ (Touches.mono (drawn_touch ..) (by decide))
                 | with_reducible apply Touches.trans ?_ (Touches.mono (hewComplete_touch ..) (by decide)) | (split))

theorem hewQuietNote_touch (n : Nat) (s : State) : Touches [.regs] s (hewQuietNote n s) := by
  unfold hewQuietNote
  repeat' (first | with_reducible exact Touches.refl _ _ | dsimp only | with_reducible apply Touches.ite ?_ ?_
                 | with_reducible apply Touches.trans ?_ (Touches.mono (wr_touch _ _ _ _) (by decide)))

theorem hewHaltOne_touch (n : Nat) (s : State) : Touches [.regs, .free, .out, .glb, .peat, .ret, .map, .fen, .hew,
    .seam, .mere, .nvq, .slu] s (hewHaltOne n s) := by
  unfold hewHaltOne
  repeat' (first | with_reducible exact Touches.refl _ _ | dsimp only | with_reducible apply Touches.ite ?_ ?_
                 | with_reducible apply Touches.trans ?_ (Touches.mono (wr_touch _ _ _ _) (by decide))
                 | with_reducible apply Touches.trans ?_ (Touches.mono (hewEnd_touch ..) (by decide))
                 | with_reducible apply Touches.trans ?_ (Touches.mono (hewQuietNote_touch ..) (by decide))
                 | with_reducible apply Touches.trans ?_ (eachOf_touch _ _ _ ?_) | (intro _))

theorem hewHalt_touch (s : State) : Touches [.regs, .free, .out, .glb, .peat, .ret, .map, .fen, .hew, .seam, .mere,
    .nvq, .slu] s (hewHalt s) := by
  unfold hewHalt
  repeat' (first | with_reducible exact Touches.refl _ _
                 | with_reducible apply Touches.trans ?_ (Touches.mono (wr_touch _ _ _ _) (by decide))
                 | with_reducible apply Touches.trans ?_ (Touches.mono (hewHaltOne_touch ..) (by decide))
                 | with_reducible apply Touches.trans ?_ (eachOf_touch _ _ _ ?_) | (intro _))

theorem hewOff_touch (s : State) : Touches [.regs, .free, .out, .glb, .peat, .ret, .map, .fen, .hew, .seam, .mere, .nvq,
    .slu] s (hewOff s) := by
  unfold hewOff
  repeat' (first | with_reducible exact Touches.refl _ _ | dsimp only | with_reducible apply Touches.ite ?_ ?_
                 | with_reducible apply Touches.trans ?_ (Touches.mono (wr_touch _ _ _ _) (by decide))
                 | with_reducible apply Touches.trans ?_ (Touches.mono (hewEnd_touch ..) (by decide))
                 | with_reducible apply Touches.trans ?_ (eachOf_touch _ _ _ ?_) | (intro _))

theorem seamSet_touch (l st : Nat) (s : State) : Touches [.regs] s (seamSet l st s) := by
  unfold seamSet
  repeat' (first | with_reducible exact Touches.refl _ _ | dsimp only
                 | with_reducible apply Touches.trans ?_ (Touches.mono (wr_touch _ _ _ _) (by decide)))

theorem enterRetrain_touch (l : Nat) (s : State) : Touches [.regs, .seam] s (enterRetrain l s) := by
  unfold enterRetrain
  repeat' (first | with_reducible exact Touches.refl _ _ | dsimp only | with_reducible apply Touches.ite ?_ ?_
                 | with_reducible apply Touches.trans ?_ (Touches.mono (count_touch _ _ _ _) (by decide))
                 | with_reducible apply Touches.trans ?_ (Touches.mono (putLink_touch ..) (by decide))
                 | with_reducible apply Touches.trans ?_ (Touches.mono (seamSet_touch ..) (by decide)))

theorem seamRetrain_touch (l : Nat) (s : State) : Touches [.regs, .out, .seam] s (seamRetrain l s) := by
  unfold seamRetrain
  repeat' (first | with_reducible exact Touches.refl _ _ | with_reducible apply Touches.ite ?_ ?_
                 | with_reducible apply Touches.trans ?_ (Touches.mono (emit_touch ..) (by decide))
                 | with_reducible apply Touches.trans ?_ (Touches.mono (enterRetrain_touch ..) (by decide)))

theorem dropHeld_touch (l : Nat) (s : State) : Touches [.regs, .free, .out, .glb, .peat, .ret, .map, .fen, .hew, .seam,
    .mere, .nvq, .slu] s (dropHeld l s) := by
  unfold dropHeld
  repeat' (first | with_reducible exact Touches.refl _ _ | with_reducible apply Touches.ite ?_ ?_
                 | with_reducible apply Touches.trans ?_ (Touches.mono (hewEnd_touch ..) (by decide))
                 | with_reducible apply Touches.trans ?_ (eachOf_touch _ _ _ ?_) | (intro _))

theorem linkDrop_touch (l st : Nat) (s : State) : Touches [.regs, .free, .out, .glb, .peat, .ret, .map, .fen, .hew, .seam,
    .mere, .nvq, .slu] s (linkDrop l st s) := by
  unfold linkDrop
  repeat' (first | with_reducible exact Touches.refl _ _ | dsimp only | with_reducible apply Touches.ite ?_ ?_
                 | with_reducible apply Touches.trans ?_ (Touches.mono (wr_touch _ _ _ _) (by decide))
                 | with_reducible apply Touches.trans ?_ (Touches.mono (count_touch _ _ _ _) (by decide))
                 | with_reducible apply Touches.trans ?_ (Touches.mono (putLink_touch ..) (by decide))
                 | with_reducible apply Touches.trans ?_ (Touches.mono (memberAbsent_touch ..) (by decide))
                 | with_reducible apply Touches.trans ?_ (Touches.mono (limitNote_touch ..) (by decide))
                 | with_reducible apply Touches.trans ?_ (Touches.mono (seamSet_touch ..) (by decide))
                 | with_reducible apply Touches.trans ?_ (Touches.mono (dropHeld_touch ..) (by decide)))

theorem hewTimeoutNote_touch (n : Nat) (s : State) : Touches [.regs, .out, .hew, .seam] s (hewTimeoutNote n s) := by
  unfold hewTimeoutNote
  repeat' (first | with_reducible exact Touches.refl _ _ | dsimp only | with_reducible apply Touches.ite ?_ ?_
                 | with_reducible apply Touches.trans ?_ (Touches.mono (seamRetrain_touch ..) (by decide))
                 | simp only [touches_mk]; with_reducible refine Touches.made (h := ?_))

theorem startedNote_touch (f : Nat) (s : State) : Touches [.regs] s (startedNote f s) := by
  unfold startedNote
  repeat' (first | with_reducible exact Touches.refl _ _
                 | with_reducible apply Touches.trans ?_ (Touches.mono (wr_touch _ _ _ _) (by decide)))

theorem startSequence_touch (n k : Nat) (h : Held) (s : State) : Touches [.regs, .hew, .ucs] s (startSequence n k h s) := by
  unfold startSequence
  repeat' (first | with_reducible exact Touches.refl _ _ | dsimp only | with_reducible apply Touches.ite ?_ ?_
                 | with_reducible apply Touches.trans ?_ (Touches.mono (putHeld_touch ..) (by decide))
                 | with_reducible apply Touches.trans ?_ (Touches.mono (startedNote_touch ..) (by decide))
                 | simp only [touches_mk]; with_reducible refine Touches.made (h := ?_)
                 | with_reducible apply Touches.trans ?_ (eachOf_touch _ _ _ ?_) | (intro _))

theorem spendCredit_touch (f : Field) (n : Nat) (s : State) : Touches [.regs] s (spendCredit f n s) := by
  unfold spendCredit
  repeat' (first | with_reducible exact Touches.refl _ _
                 | with_reducible apply Touches.trans ?_ (Touches.mono (wr_touch _ _ _ _) (by decide)))

theorem sendPacket_touch (n opc die tag : Nat) (s : State) : Touches [.regs, .out] s (sendPacket n opc die tag s) := by
  unfold sendPacket
  repeat' (first | with_reducible exact Touches.refl _ _ | dsimp only | with_reducible apply Touches.ite ?_ ?_
                 | with_reducible apply Touches.trans ?_ (Touches.mono (emit_touch ..) (by decide))
                 | with_reducible apply Touches.trans ?_ (Touches.mono (spendCredit_touch ..) (by decide)))

theorem sendProgData_touch (n k : Nat) (h : Held) (s : State) : Touches [.regs, .out] s (sendProgData n k h s) := by
  unfold sendProgData
  repeat' (first | with_reducible exact Touches.refl _ _
                 | with_reducible apply Touches.trans ?_ (Touches.mono (emit_touch ..) (by decide))
                 | with_reducible apply Touches.trans ?_ (Touches.mono (spendCredit_touch ..) (by decide))
                 | with_reducible apply Touches.trans ?_ (eachOf_touch _ _ _ ?_) | (intro _))

theorem putLadder_touch (n : Nat) (l : Ladder) (s : State) : Touches [.ldpc] s (putLadder n l s) := by
  unfold putLadder
  repeat' (first | with_reducible exact Touches.refl _ _ | dsimp only
                 | simp only [touches_mk]; with_reducible refine Touches.made (h := ?_))

theorem softNote_touch (s : State) : Touches [.regs] s (softNote s) := by
  unfold softNote
  repeat' (first | with_reducible exact Touches.refl _ _ | dsimp only
                 | with_reducible apply Touches.trans ?_ (Touches.mono (wr_touch _ _ _ _) (by decide)))

theorem dispatchWord_touch (n l : Nat) (s : State) : Touches [.ldpc] s (dispatchWord n l s) := by
  unfold dispatchWord
  repeat' (first | with_reducible exact Touches.refl _ _ | dsimp only | with_reducible apply Touches.ite ?_ ?_
                 | simp only [touches_mk]; with_reducible refine Touches.made (h := ?_) | (intro _) | (split))

theorem admitWaiting_touch (s : State) : Touches [.ldpc] s (admitWaiting s) := by
  unfold admitWaiting
  repeat' (first | with_reducible exact Touches.refl _ _ | dsimp only | with_reducible apply Touches.ite ?_ ?_
                 | with_reducible apply Touches.trans ?_ (Touches.mono (eachOf_touch ..) (by decide))
                 | with_reducible apply Touches.trans ?_ (Touches.mono (dispatchWord_touch ..) (by decide))
                 | with_reducible apply Touches.trans ?_ (eachOf_touch _ _ _ ?_)
                 | with_reducible apply Touches.trans ?_ (foldl_touch _ _ _ ?_)
                 | simp only [touches_mk]; with_reducible refine Touches.made (h := ?_) | (intro _) | (split))

theorem leaveDecoder_touch (n : Nat) (s : State) : Touches [.ldpc] s (leaveDecoder n s) := by
  unfold leaveDecoder
  repeat' (first | with_reducible exact Touches.refl _ _ | dsimp only | with_reducible apply Touches.ite ?_ ?_
                 | with_reducible apply Touches.trans ?_ (Touches.mono (admitWaiting_touch ..) (by decide))
                 | simp only [touches_mk]; with_reducible refine Touches.made (h := ?_) | (intro _) | (split))

theorem openLadder_touch (l : Nat) (h : Held) (cw : Nat) (s : State) : Touches [.free, .ldpc] s (openLadder l h cw s) := by
  unfold openLadder
  repeat' (first | with_reducible exact Touches.refl _ _ | dsimp only | with_reducible apply Touches.ite ?_ ?_
                 | with_reducible apply Touches.trans ?_ (Touches.mono (putLadder_touch ..) (by decide))
                 | simp only [touches_mk]; with_reducible refine Touches.made (h := ?_) | (intro _) | (split))

theorem ladderStart_touch (l : Nat) (h : Held) (cw : Nat) (s : State) : Touches [.free, .ldpc] s (ladderStart l h cw s)
    := by
  unfold ladderStart
  repeat' (first | with_reducible exact Touches.refl _ _ | dsimp only | with_reducible apply Touches.ite ?_ ?_
                 | with_reducible apply Touches.trans ?_ (Touches.mono (dispatchWord_touch ..) (by decide))
                 | with_reducible apply Touches.trans ?_ (Touches.mono (openLadder_touch ..) (by decide))
                 | simp only [touches_mk]; with_reducible refine Touches.made (h := ?_) | (intro _) | (split))

theorem mismatchEvent_touch (l : Ladder) (s : State) : Touches [.regs, .free, .peat] s (mismatchEvent l s) := by
  unfold mismatchEvent
  repeat' (first | with_reducible exact Touches.refl _ _
                 | with_reducible apply Touches.trans ?_ (Touches.mono (count_touch _ _ _ _) (by decide))
                 | with_reducible apply Touches.trans ?_ (Touches.mono (peatRecord_touch ..) (by decide)))

theorem ladderRefresh_touch (l : Ladder) (s : State) : Touches [.ret, .map] s (ladderRefresh l s) := by
  unfold ladderRefresh
  repeat' (first | with_reducible exact Touches.refl _ _
                 | with_reducible apply Touches.trans ?_ (Touches.mono (setDue_touch ..) (by decide)) | (split))

theorem wordFails_touch (l : Ladder) (s : State) : Touches [.map] s (wordFails l s) := by
  unfold wordFails
  repeat' (first | with_reducible exact Touches.refl _ _ | dsimp only | with_reducible apply Touches.ite ?_ ?_
                 | simp only [touches_mk]; with_reducible refine Touches.made (h := ?_) | (intro _) | (split))

theorem wordReads_touch (l : Ladder) (s : State) : Touches [.map] s (wordReads l s) := by
  unfold wordReads
  repeat' (first | with_reducible exact Touches.refl _ _ | dsimp only | with_reducible apply Touches.ite ?_ ?_
                 | simp only [touches_mk]; with_reducible refine Touches.made (h := ?_) | (intro _) | (split))

theorem marginNote_touch (recovered : Bool) (l : Ladder) (s : State) : Touches [.regs, .free, .out, .glb, .map, .fen,
    .mere, .nvq] s (marginNote recovered l s) := by
  unfold marginNote
  repeat' (first | with_reducible exact Touches.refl _ _ | dsimp only | with_reducible apply Touches.ite ?_ ?_
                 | with_reducible apply Touches.trans ?_ (Touches.mono (spoilAndCheck_touch ..) (by decide))
                 | with_reducible apply Touches.trans ?_ (Touches.mono (drawn_touch ..) (by decide))
                 | simp only [touches_mk]; with_reducible refine Touches.made (h := ?_) | (intro _) | (split))

theorem ladderFails_touch (n : Nat) (l : Ladder) (s : State) : Touches [.regs, .free, .out, .glb, .peat, .ret, .map,
    .fen, .ldpc, .mere, .nvq] s (ladderFails n l s) := by
  unfold ladderFails
  repeat' (first | with_reducible exact Touches.refl _ _ | dsimp only | with_reducible apply Touches.ite ?_ ?_
                 | with_reducible apply Touches.trans ?_ (Touches.mono (wordFails_touch ..) (by decide))
                 | with_reducible apply Touches.trans ?_ (Touches.mono (marginNote_touch ..) (by decide))
                 | with_reducible apply Touches.trans ?_ (Touches.mono (peatRecord_touch ..) (by decide))
                 | with_reducible apply Touches.trans ?_ (Touches.mono (count_touch _ _ _ _) (by decide))
                 | with_reducible apply Touches.trans ?_ (Touches.mono (ladderRefresh_touch ..) (by decide))
                 | with_reducible apply Touches.trans ?_ (Touches.mono (putLadder_touch ..) (by decide))
                 | simp only [touches_mk]; with_reducible refine Touches.made (h := ?_) | (intro _) | (split))

theorem toRecon_touch (n : Nat) (l : Ladder) (s : State) : Touches [.regs, .free, .out, .glb, .peat, .ret, .map, .fen,
    .ldpc, .mere, .nvq] s (toRecon n l s) := by
  unfold toRecon
  repeat' (first | with_reducible exact Touches.refl _ _ | dsimp only | with_reducible apply Touches.ite ?_ ?_
                 | with_reducible apply Touches.trans ?_ (Touches.mono (putLadder_touch ..) (by decide))
                 | with_reducible apply Touches.trans ?_ (Touches.mono (wordFails_touch ..) (by decide))
                 | with_reducible apply Touches.trans ?_ (Touches.mono (ladderFails_touch ..) (by decide))
                 | simp only [touches_mk]; with_reducible refine Touches.made (h := ?_) | (intro _) | (split))

theorem putVectors_touch (n : Nat) (v : Vectors) (s : State) : Touches [.ldpc] s (putVectors n v s) := by
  unfold putVectors
  repeat' (first | with_reducible exact Touches.refl _ _ | dsimp only | with_reducible apply Touches.ite ?_ ?_
                 | simp only [touches_mk]; with_reducible refine Touches.made (h := ?_) | (intro _) | (split))

theorem softServe_touch (fuel : Nat) (s : State) : Touches [.ldpc] s (softServe fuel s) := by
  induction fuel generalizing s with
  | zero => exact Touches.refl _ _
  | succ k ih =>
    unfold softServe; split
    · exact Touches.refl _ _
    · split
      · exact Touches.refl _ _
      · refine Touches.trans ?_ (ih _)
        constructor <;> first | exact fun _ => rfl | exact fun h => absurd (by decide) h

theorem softEnter_touch (n : Nat) (ks : List Int) (s : State) : Touches [.ldpc] s (softEnter n ks s) := by
  unfold softEnter
  repeat' (first | with_reducible exact Touches.refl _ _ | dsimp only | with_reducible apply Touches.ite ?_ ?_
                 | with_reducible apply Touches.trans ?_ (Touches.mono (putVectors_touch ..) (by decide))
                 | with_reducible apply Touches.trans ?_ (Touches.mono (softServe_touch ..) (by decide))
                 | simp only [touches_mk]; with_reducible refine Touches.made (h := ?_) | (intro _) | (split))

theorem enterSoft2_touch (n : Nat) (l : Ladder) (s : State) : Touches [.ldpc] s (enterSoft2 n l s) := by
  unfold enterSoft2
  repeat' (first | with_reducible exact Touches.refl _ _ | dsimp only | with_reducible apply Touches.ite ?_ ?_
                 | with_reducible apply Touches.trans ?_ (Touches.mono (putVectors_touch ..) (by decide))
                 | with_reducible apply Touches.trans ?_ (Touches.mono (softEnter_touch ..) (by decide))
                 | with_reducible apply Touches.trans ?_ (Touches.mono (putLadder_touch ..) (by decide))
                 | simp only [touches_mk]; with_reducible refine Touches.made (h := ?_) | (intro _) | (split))

theorem toSoft_touch (n : Nat) (l : Ladder) (s : State) : Touches [.map, .ldpc] s (toSoft n l s) := by
  unfold toSoft
  repeat' (first | with_reducible exact Touches.refl _ _ | dsimp only | with_reducible apply Touches.ite ?_ ?_
                 | with_reducible apply Touches.trans ?_ (Touches.mono (enterSoft2_touch ..) (by decide))
                 | with_reducible apply Touches.trans ?_ (Touches.mono (putLadder_touch ..) (by decide))
                 | with_reducible apply Touches.trans ?_ (Touches.mono (wordFails_touch ..) (by decide))
                 | simp only [touches_mk]; with_reducible refine Touches.made (h := ?_) | (intro _) | (split))

theorem softAdmit_touch (s : State) : Touches [.ldpc] s (softAdmit s) := by
  unfold softAdmit
  repeat' (first | with_reducible exact Touches.refl _ _ | dsimp only | with_reducible apply Touches.ite ?_ ?_
                 | with_reducible apply Touches.trans ?_ (Touches.mono (enterSoft2_touch ..) (by decide))
                 | simp only [touches_mk]; with_reducible refine Touches.made (h := ?_) | (intro _) | (split))

theorem softLeave_touch (n : Nat) (s : State) : Touches [.ldpc] s (softLeave n s) := by
  unfold softLeave
  repeat' (first | with_reducible exact Touches.refl _ _ | dsimp only | with_reducible apply Touches.ite ?_ ?_
                 | with_reducible apply Touches.trans ?_ (Touches.mono (softAdmit_touch ..) (by decide))
                 | with_reducible apply Touches.trans ?_ (Touches.mono (softServe_touch ..) (by decide))
                 | simp only [touches_mk]; with_reducible refine Touches.made (h := ?_) | (intro _) | (split))

theorem afterRetry_touch (n : Nat) (l : Ladder) (s : State) : Touches [.regs, .free, .out, .glb, .peat, .ret, .map,
    .fen, .ldpc, .mere, .nvq] s (afterRetry n l s) := by
  unfold afterRetry
  repeat' (first | with_reducible exact Touches.refl _ _ | dsimp only | with_reducible apply Touches.ite ?_ ?_
                 | with_reducible apply Touches.trans ?_ (Touches.mono (toRecon_touch ..) (by decide))
                 | with_reducible apply Touches.trans ?_ (Touches.mono (toSoft_touch ..) (by decide))
                 | simp only [touches_mk]; with_reducible refine Touches.made (h := ?_) | (intro _) | (split))

theorem leaveHard_touch (l : Ladder) (s : State) : Touches [.regs, .free, .peat] s (leaveHard l s) := by
  unfold leaveHard
  repeat' (first | with_reducible exact Touches.refl _ _ | with_reducible apply Touches.ite ?_ ?_
                 | with_reducible apply Touches.trans ?_ (Touches.mono (mismatchEvent_touch ..) (by decide)))

theorem histNote_touch (bin : Nat) (l : Ladder) (s : State) : Touches [.regs] s (histNote bin l s) := by
  unfold histNote
  repeat' (first | with_reducible exact Touches.refl _ _ | with_reducible apply Touches.ite ?_ ?_
                 | with_reducible apply Touches.trans ?_ (Touches.mono (count_touch _ _ _ _) (by decide)))

theorem toRetry_touch (n : Nat) (l : Ladder) (s : State) : Touches [.regs, .free, .peat, .ldpc] s (toRetry n l s) := by
  unfold toRetry
  repeat' (first | with_reducible exact Touches.refl _ _ | dsimp only | with_reducible apply Touches.ite ?_ ?_
                 | with_reducible apply Touches.trans ?_ (Touches.mono (putLadder_touch ..) (by decide))
                 | with_reducible apply Touches.trans ?_ (Touches.mono (putVectors_touch ..) (by decide))
                 | with_reducible apply Touches.trans ?_ (Touches.mono (leaveHard_touch ..) (by decide))
                 | simp only [touches_mk]; with_reducible refine Touches.made (h := ?_) | (intro _) | (split))

theorem noteAttempt_touch (n : Nat) (l : Ladder) (s : State) : Touches [.free, .ldpc] s (noteAttempt n l s) := by
  unfold noteAttempt
  repeat' (first | with_reducible exact Touches.refl _ _ | dsimp only | with_reducible apply Touches.ite ?_ ?_
                 | with_reducible apply Touches.trans ?_ (Touches.mono (drawn_touch ..) (by decide))
                 | with_reducible apply Touches.trans ?_ (Touches.mono (putVectors_touch ..) (by decide))
                 | simp only [touches_mk]; with_reducible refine Touches.made (h := ?_) | (intro _) | (split))

theorem ladderDown_touch (n : Nat) (l : Ladder) (s : State) : Touches [.regs, .free, .out, .glb, .peat, .ret, .map,
    .fen, .ldpc, .mere, .nvq] s (ladderDown n l s) := by
  unfold ladderDown
  repeat' (first | with_reducible exact Touches.refl _ _ | dsimp only | with_reducible apply Touches.ite ?_ ?_
                 | with_reducible apply Touches.trans ?_ (Touches.mono (toRetry_touch ..) (by decide))
                 | with_reducible apply Touches.trans ?_ (Touches.mono (histNote_touch ..) (by decide))
                 | with_reducible apply Touches.trans ?_ (Touches.mono (noteAttempt_touch ..) (by decide))
                 | with_reducible apply Touches.trans ?_ (Touches.mono (putLadder_touch ..) (by decide))
                 | with_reducible apply Touches.trans ?_ (Touches.mono (afterRetry_touch ..) (by decide))
                 | with_reducible apply Touches.trans ?_ (Touches.mono (softEnter_touch ..) (by decide))
                 | with_reducible apply Touches.trans ?_ (Touches.mono (toRecon_touch ..) (by decide))
                 | with_reducible apply Touches.trans ?_ (Touches.mono (ladderFails_touch ..) (by decide))
                 | simp only [touches_mk]; with_reducible refine Touches.made (h := ?_) | (intro _) | (split))

theorem learnFrom_touch (n : Nat) (l : Ladder) (s : State) : Touches [.ldpc] s (learnFrom n l s) := by
  unfold learnFrom
  repeat' (first | with_reducible exact Touches.refl _ _ | dsimp only | with_reducible apply Touches.ite ?_ ?_
                 | simp only [touches_mk]; with_reducible refine Touches.made (h := ?_) | (intro _) | (split))

theorem servedByRecon_touch (l : Ladder) (s : State) : Touches [.ret, .map] s (servedByRecon l s) := by
  unfold servedByRecon
  repeat' (first | with_reducible exact Touches.refl _ _ | dsimp only | with_reducible apply Touches.ite ?_ ?_
                 | with_reducible apply Touches.trans ?_ (Touches.mono (setDue_touch ..) (by decide))
                 | simp only [touches_mk]; with_reducible refine Touches.made (h := ?_) | (intro _) | (split))

theorem countStep_touch (n : Nat) (l : Ladder) (byRecon : Bool) (corrected : Nat) (s : State) : Touches [.regs, .free,
    .out, .glb, .peat, .ret, .map, .fen, .ldpc, .mere, .nvq] s (countStep n l byRecon corrected s) := by
  unfold countStep
  repeat' (first | with_reducible exact Touches.refl _ _ | dsimp only | with_reducible apply Touches.ite ?_ ?_
                 | with_reducible apply Touches.trans ?_ (Touches.mono (marginNote_touch ..) (by decide))
                 | with_reducible apply Touches.trans ?_ (Touches.mono (servedByRecon_touch ..) (by decide))
                 | with_reducible apply Touches.trans ?_ (Touches.mono (measureBlock_touch ..) (by decide))
                 | with_reducible apply Touches.trans ?_ (Touches.mono (corrected_touch ..) (by decide))
                 | with_reducible apply Touches.trans ?_ (Touches.mono (healthAdd_touch ..) (by decide))
                 | with_reducible apply Touches.trans ?_ (Touches.mono (count_touch _ _ _ _) (by decide))
                 | with_reducible apply Touches.trans ?_ (Touches.mono (wordReads_touch ..) (by decide))
                 | with_reducible apply Touches.trans ?_ (Touches.mono (leaveHard_touch ..) (by decide))
                 | with_reducible apply Touches.trans ?_ (Touches.mono (histNote_touch ..) (by decide))
                 | with_reducible apply Touches.trans ?_ (Touches.mono (learnFrom_touch ..) (by decide))
                 | simp only [touches_mk]; with_reducible refine Touches.made (h := ?_) | (intro _) | (split))

theorem ladderAccept_touch (n : Nat) (l : Ladder) (filler lost tagOk : Bool) (corrected : Nat) (s : State) : Touches
    [.regs, .free, .out, .glb, .peat, .ret, .map, .fen, .ldpc, .mere, .nvq] s (ladderAccept n l filler lost tagOk corrected
    s) := by
  unfold ladderAccept
  repeat' (first | with_reducible exact Touches.refl _ _ | dsimp only | with_reducible apply Touches.ite ?_ ?_
                 | with_reducible apply Touches.trans ?_ (Touches.mono (putLadder_touch ..) (by decide))
                 | with_reducible apply Touches.trans ?_ (Touches.mono (countStep_touch ..) (by decide))
                 | with_reducible apply Touches.trans ?_ (Touches.mono (corrected_touch ..) (by decide))
                 | with_reducible apply Touches.trans ?_ (Touches.mono (ladderFails_touch ..) (by decide))
                 | with_reducible apply Touches.trans ?_ (Touches.mono (toRecon_touch ..) (by decide))
                 | with_reducible apply Touches.trans ?_ (Touches.mono (healthAdd_touch ..) (by decide))
                 | with_reducible apply Touches.trans ?_ (Touches.mono (leaveHard_touch ..) (by decide))
                 | with_reducible apply Touches.trans ?_ (Touches.mono (histNote_touch ..) (by decide))
                 | with_reducible apply Touches.trans ?_ (Touches.mono (drawn_touch ..) (by decide))
                 | with_reducible apply Touches.trans ?_ (Touches.mono (count_touch _ _ _ _) (by decide))
                 | simp only [touches_mk]; with_reducible refine Touches.made (h := ?_) | (intro _) | (split))

theorem ladderStep_touch (n : Nat) (l : Ladder) (o : DecodeOutcome) (s : State) : Touches [.regs, .free, .out, .glb,
    .peat, .ret, .map, .fen, .ldpc, .mere, .nvq] s (ladderStep n l o s) := by
  unfold ladderStep
  repeat' (first | with_reducible exact Touches.refl _ _ | dsimp only | with_reducible apply Touches.ite ?_ ?_
                 | with_reducible apply Touches.trans ?_ (Touches.mono (corrected_touch ..) (by decide))
                 | with_reducible apply Touches.trans ?_ (Touches.mono (ladderAccept_touch ..) (by decide))
                 | with_reducible apply Touches.trans ?_ (Touches.mono (peatRecord_touch ..) (by decide))
                 | with_reducible apply Touches.trans ?_ (Touches.mono (count_touch _ _ _ _) (by decide))
                 | with_reducible apply Touches.trans ?_ (Touches.mono (leaveHard_touch ..) (by decide))
                 | with_reducible apply Touches.trans ?_ (Touches.mono (histNote_touch ..) (by decide))
                 | with_reducible apply Touches.trans ?_ (Touches.mono (toRecon_touch ..) (by decide))
                 | with_reducible apply Touches.trans ?_ (Touches.mono (ladderRefresh_touch ..) (by decide))
                 | with_reducible apply Touches.trans ?_ (Touches.mono (ladderDown_touch ..) (by decide))
                 | with_reducible apply Touches.trans ?_ (Touches.mono (putLadder_touch ..) (by decide))
                 | with_reducible apply Touches.trans ?_ (Touches.mono (mismatchEvent_touch ..) (by decide))
                 | simp only [touches_mk]; with_reducible refine Touches.made (h := ?_) | (intro _) | (split))

end Sys2Proof.Machine
end

