-- ==== Sys2Proof/Laws/TouchUnits.lean ====
section
/-! SUPPORT. Which parts of the state the operations of the hewers, the links, power and the units change (see TouchBase). -/

-- One theorem after the other: elaborated side by side, their many small side proofs make Lean start hundreds of threads.
set_option Elab.async false

namespace Sys2Proof.Machine

open Sys2Proof

theorem wordLost_touch (l : Nat) (h : Held) (cw : Nat) (s : State) : Touches [.regs, .free, .out, .glb, .peat, .ret,
    .map, .fen, .ldpc, .mere, .nvq] s (wordLost l h cw s) := by
  unfold wordLost
  repeat' (first | with_reducible exact Touches.refl _ _ | dsimp only | with_reducible apply Touches.ite ?_ ?_
                 | with_reducible apply Touches.trans ?_ (Touches.mono (openLadder_touch ..) (by decide))
                 | with_reducible apply Touches.trans ?_ (Touches.mono (softNote_touch ..) (by decide))
                 | with_reducible apply Touches.trans ?_ (Touches.mono (softLeave_touch ..) (by decide))
                 | with_reducible apply Touches.trans ?_ (Touches.mono (toRecon_touch ..) (by decide))
                 | with_reducible apply Touches.trans ?_ (Touches.mono (leaveDecoder_touch ..) (by decide))
                 | simp only [touches_mk]; with_reducible refine Touches.made (h := ?_) | (intro _) | (split))

theorem laddersGiveUp_touch (l : Nat) (s : State) : Touches [.regs, .free, .out, .glb, .peat, .ret, .map, .fen, .ldpc,
    .mere, .nvq] s (laddersGiveUp l s) := by
  unfold laddersGiveUp
  repeat' (first | with_reducible exact Touches.refl _ _ | dsimp only | with_reducible apply Touches.ite ?_ ?_
                 | with_reducible apply Touches.trans ?_ (Touches.mono (eachOf_touch ..) (by decide))
                 | with_reducible apply Touches.trans ?_ (Touches.mono (softNote_touch ..) (by decide))
                 | with_reducible apply Touches.trans ?_ (Touches.mono (softLeave_touch ..) (by decide))
                 | with_reducible apply Touches.trans ?_ (Touches.mono (toRecon_touch ..) (by decide))
                 | with_reducible apply Touches.trans ?_ (eachOf_touch _ _ _ ?_)
                 | with_reducible apply Touches.trans ?_ (foldl_touch _ _ _ ?_)
                 | simp only [touches_mk]; with_reducible refine Touches.made (h := ?_) | (intro _) | (split))

theorem replaceTargets_touch (l : Nat) (s : State) : Touches [.map] s (replaceTargets l s) := by
  unfold replaceTargets
  repeat' (first | with_reducible exact Touches.refl _ _
                 | with_reducible apply Touches.trans ?_ (Touches.mono (suspectBlock_touch ..) (by decide))
                 | with_reducible apply Touches.trans ?_ (eachOf_touch _ _ _ ?_) | (intro _))

theorem findPartner_touch (l : Nat) (s : State) : Touches [.regs, .out, .glb, .map, .fen, .ldpc, .nvq] s (findPartner l s) := by
  unfold findPartner
  repeat' (first | with_reducible exact Touches.refl _ _ | dsimp only
                 | with_reducible apply Touches.trans ?_ (Touches.mono (fenRefresh_touch ..) (by decide))
                 | with_reducible apply Touches.trans ?_ (Touches.mono (replaceTargets_touch ..) (by decide))
                 | simp only [touches_mk]; with_reducible refine Touches.made (h := ?_) | (split))

theorem fenceEncoder_touch (l : Nat) (s : State) : Touches [.regs, .free, .out, .glb, .peat, .map, .fen, .ldpc, .nvq] s
    (fenceEncoder l s) := by
  unfold fenceEncoder
  repeat' (first | with_reducible exact Touches.refl _ _ | dsimp only
                 | with_reducible apply Touches.trans ?_ (Touches.mono (wrBit_touch _ _ _ _ _) (by decide))
                 | with_reducible apply Touches.trans ?_ (Touches.mono (peatRecord_touch ..) (by decide))
                 | with_reducible apply Touches.trans ?_ (Touches.mono (findPartner_touch ..) (by decide))
                 | with_reducible apply Touches.trans ?_ (eachOf_touch _ _ _ ?_) | (intro _))

theorem fenceBit_touch (f : Field) (n : Nat) (s : State) : Touches [.regs] s (fenceBit f n s) := by
  unfold fenceBit
  repeat' (first | with_reducible exact Touches.refl _ _
                 | with_reducible apply Touches.trans ?_ (Touches.mono (wrBit_touch _ _ _ _ _) (by decide)))

theorem redispatch_touch (d : Nat) (s : State) : Touches [.ldpc] s (redispatch d s) := by
  unfold redispatch
  repeat' (first | with_reducible exact Touches.refl _ _ | dsimp only | with_reducible apply Touches.ite ?_ ?_
                 | with_reducible apply Touches.trans ?_ (Touches.mono (eachOf_touch ..) (by decide))
                 | with_reducible apply Touches.trans ?_ (Touches.mono (dispatchWord_touch ..) (by decide))
                 | with_reducible apply Touches.trans ?_ (eachOf_touch _ _ _ ?_)
                 | with_reducible apply Touches.trans ?_ (foldl_touch _ _ _ ?_)
                 | simp only [touches_mk]; with_reducible refine Touches.made (h := ?_) | (intro _) | (split))

theorem softShrink_touch (s : State) : Touches [.ldpc] s (softShrink s) := by
  unfold softShrink
  repeat' (first | with_reducible exact Touches.refl _ _ | dsimp only | with_reducible apply Touches.ite ?_ ?_
                 | simp only [touches_mk]; with_reducible refine Touches.made (h := ?_) | (intro _) | (split))

theorem fenceDecoder_touch (soft : Bool) (n : Nat) (s : State) : Touches [.regs, .free, .out, .glb, .peat, .ret, .ldpc,
    .nvq] s (fenceDecoder soft n s) := by
  unfold fenceDecoder
  repeat' (first | with_reducible exact Touches.refl _ _ | dsimp only | with_reducible apply Touches.ite ?_ ?_
                 | with_reducible apply Touches.trans ?_ (Touches.mono (fenceBit_touch ..) (by decide))
                 | with_reducible apply Touches.trans ?_ (Touches.mono (count_touch _ _ _ _) (by decide))
                 | with_reducible apply Touches.trans ?_ (Touches.mono (faultAbsorbed_touch ..) (by decide))
                 | with_reducible apply Touches.trans ?_ (Touches.mono (peatRecord_touch ..) (by decide))
                 | with_reducible apply Touches.trans ?_ (Touches.mono (softShrink_touch ..) (by decide))
                 | with_reducible apply Touches.trans ?_ (Touches.mono (redispatch_touch ..) (by decide))
                 | simp only [touches_mk]; with_reducible refine Touches.made (h := ?_) | (intro _) | (split))

theorem fenceCipher_touch (f : Field) (n code : Nat) (s : State) : Touches [.regs, .free, .out, .glb, .peat, .ret, .nvq] s
    (fenceCipher f n code s) := by
  unfold fenceCipher
  repeat' (first | with_reducible exact Touches.refl _ _ | with_reducible apply Touches.ite ?_ ?_
                 | with_reducible apply Touches.trans ?_ (Touches.mono (wr_touch _ _ _ _) (by decide))
                 | with_reducible apply Touches.trans ?_ (Touches.mono (peatRecord_touch ..) (by decide))
                 | with_reducible apply Touches.trans ?_ (Touches.mono (faultAbsorbed_touch ..) (by decide))
                 | with_reducible apply Touches.trans ?_ (Touches.mono (fenceBit_touch ..) (by decide)))

theorem hewTailWrite_touch (n tail : Nat) (s : State) : Touches [.regs] s (hewTailWrite n tail s) := by
  unfold hewTailWrite
  repeat' (first | with_reducible exact Touches.refl _ _ | dsimp only | with_reducible apply Touches.ite ?_ ?_
                 | with_reducible apply Touches.trans ?_ (Touches.mono (wr_touch _ _ _ _) (by decide)))

theorem hewFetch_touch (n : Nat) (s : State) : Touches [.regs, .free, .out, .glb, .peat, .ret, .map, .fen, .hew, .seam,
    .mere, .nvq, .slu] s (hewFetch n s) := by
  unfold hewFetch
  repeat' (first | with_reducible exact Touches.refl _ _ | dsimp only | with_reducible apply Touches.ite ?_ ?_
                 | with_reducible apply Touches.trans ?_ (Touches.mono (wr_touch _ _ _ _) (by decide))
                 | with_reducible apply Touches.trans ?_ (Touches.mono (putHeld_touch ..) (by decide))
                 | with_reducible apply Touches.trans ?_ (Touches.mono (hewNote_touch ..) (by decide))
                 | with_reducible apply Touches.trans ?_ (Touches.mono (hewEnd_touch ..) (by decide))
                 | with_reducible apply Touches.trans ?_ (Touches.mono (seamRetrain_touch ..) (by decide))
                 | simp only [touches_mk]; with_reducible refine Touches.made (h := ?_) | (split))

theorem hewStart_touch (n k : Nat) (s : State) : Touches [.regs, .hew, .ucs] s (hewStart n k s) := by
  unfold hewStart
  repeat' (first | with_reducible exact Touches.refl _ _ | with_reducible apply Touches.ite ?_ ?_
                 | with_reducible apply Touches.trans ?_ (Touches.mono (startSequence_touch ..) (by decide)) | (split))

theorem hewIssue_touch (n k opc : Nat) (s : State) : Touches [.regs, .free, .out, .glb, .peat, .ret, .map, .fen, .hew,
    .ucs, .seam, .mere, .nvq, .slu] s (hewIssue n k opc s) := by
  unfold hewIssue
  repeat' (first | with_reducible exact Touches.refl _ _ | dsimp only | with_reducible apply Touches.ite ?_ ?_
                 | with_reducible apply Touches.trans ?_ (Touches.mono (hewEnd_touch ..) (by decide))
                 | with_reducible apply Touches.trans ?_ (Touches.mono (hewStart_touch ..) (by decide))
                 | with_reducible apply Touches.trans ?_ (Touches.mono (sendPacket_touch ..) (by decide))
                 | with_reducible apply Touches.trans ?_ (Touches.mono (putHeld_touch ..) (by decide))
                 | with_reducible apply Touches.trans ?_ (Touches.mono (sendProgData_touch ..) (by decide))
                 | simp only [touches_mk]; with_reducible refine Touches.made (h := ?_) | (intro _) | (split))

theorem unsuspend_touch (n : Nat) (h : Held) (s : State) : Touches [.regs] s (unsuspend n h s) := by
  unfold unsuspend
  repeat' (first | with_reducible exact Touches.refl _ _ | dsimp only | with_reducible apply Touches.ite ?_ ?_
                 | with_reducible apply Touches.trans ?_ (Touches.mono (wr_touch _ _ _ _) (by decide))
                 | simp only [touches_mk]; with_reducible refine Touches.made (h := ?_) | (intro _) | (split))

theorem memberAnswer_touch (n k st detail : Nat) (s : State) : Touches [.regs, .free, .peat, .hew] s (memberAnswer n k
    st detail s) := by
  unfold memberAnswer
  repeat' (first | with_reducible exact Touches.refl _ _ | dsimp only | with_reducible apply Touches.ite ?_ ?_
                 | with_reducible apply Touches.trans ?_ (Touches.mono (peatRecord_touch ..) (by decide))
                 | with_reducible apply Touches.trans ?_ (Touches.mono (unsuspend_touch ..) (by decide))
                 | with_reducible apply Touches.trans ?_ (Touches.mono (putHeld_touch ..) (by decide))
                 | simp only [touches_mk]; with_reducible refine Touches.made (h := ?_) | (intro _) | (split))

theorem toDetect_touch (l : Nat) (s : State) : Touches [.regs, .out] s (toDetect l s) := by
  unfold toDetect
  repeat' (first | with_reducible exact Touches.refl _ _
                 | with_reducible apply Touches.trans ?_ (Touches.mono (emit_touch ..) (by decide))
                 | with_reducible apply Touches.trans ?_ (Touches.mono (seamSet_touch ..) (by decide)))

theorem trainFail_touch (l : Nat) (s : State) : Touches [.regs, .free, .out, .glb, .peat, .ret, .map, .fen, .seam, .nvq] s
    (trainFail l s) := by
  unfold trainFail
  repeat' (first | with_reducible exact Touches.refl _ _ | dsimp only | with_reducible apply Touches.ite ?_ ?_
                 | with_reducible apply Touches.trans ?_ (Touches.mono (wr_touch _ _ _ _) (by decide))
                 | with_reducible apply Touches.trans ?_ (Touches.mono (putLink_touch ..) (by decide))
                 | with_reducible apply Touches.trans ?_ (Touches.mono (memberAbsent_touch ..) (by decide))
                 | with_reducible apply Touches.trans ?_ (Touches.mono (limitNote_touch ..) (by decide))
                 | with_reducible apply Touches.trans ?_ (Touches.mono (toDetect_touch ..) (by decide)))

theorem dropLink_touch (l st : Nat) (s : State) : Touches [.regs, .free, .out, .glb, .peat, .ret, .map, .fen, .ldpc,
    .hew, .seam, .mere, .nvq, .slu] s (dropLink l st s) := by
  unfold dropLink
  repeat' (first | with_reducible exact Touches.refl _ _ | dsimp only | with_reducible apply Touches.ite ?_ ?_
                 | with_reducible apply Touches.trans ?_ (Touches.mono (eachOf_touch ..) (by decide))
                 | with_reducible apply Touches.trans ?_ (Touches.mono (wordLost_touch ..) (by decide))
                 | with_reducible apply Touches.trans ?_ (Touches.mono (linkDrop_touch ..) (by decide))
                 | with_reducible apply Touches.trans ?_ (eachOf_touch _ _ _ ?_)
                 | with_reducible apply Touches.trans ?_ (foldl_touch _ _ _ ?_)
                 | simp only [touches_mk]; with_reducible refine Touches.made (h := ?_) | (intro _) | (split))

theorem dropToDetect_touch (l : Nat) (s : State) : Touches [.regs, .free, .out, .glb, .peat, .ret, .map, .fen, .ldpc,
    .hew, .seam, .mere, .nvq, .slu] s (dropToDetect l s) := by
  unfold dropToDetect
  repeat' (first | with_reducible exact Touches.refl _ _ | dsimp only | with_reducible apply Touches.ite ?_ ?_
                 | with_reducible apply Touches.trans ?_ (Touches.mono (dropLink_touch ..) (by decide))
                 | with_reducible apply Touches.trans ?_ (Touches.mono (emit_touch ..) (by decide))
                 | simp only [touches_mk]; with_reducible refine Touches.made (h := ?_) | (intro _) | (split))

theorem memberBack_touch (l : Nat) (s : State) : Touches [.regs, .free, .out, .glb, .peat, .fen, .seam, .nvq] s
    (memberBack l s) := by
  unfold memberBack
  repeat' (first | with_reducible exact Touches.refl _ _ | dsimp only | with_reducible apply Touches.ite ?_ ?_
                 | with_reducible apply Touches.trans ?_ (Touches.mono (fenRefresh_touch ..) (by decide))
                 | with_reducible apply Touches.trans ?_ (Touches.mono (memberWell_touch ..) (by decide))
                 | simp only [touches_mk]; with_reducible refine Touches.made (h := ?_) | (intro _) | (split))

theorem adoptEpoch_touch (l : Nat) (s : State) : Touches [.regs, .free, .out, .glb, .peat, .ret, .map, .fen, .hew,
    .seam, .mere, .nvq, .slu] s (adoptEpoch l s) := by
  unfold adoptEpoch
  repeat' (first | with_reducible exact Touches.refl _ _ | with_reducible apply Touches.ite ?_ ?_
                 | with_reducible apply Touches.trans ?_ (Touches.mono (hewEnd_touch ..) (by decide))
                 | with_reducible apply Touches.trans ?_ (eachOf_touch _ _ _ ?_) | (intro _))

theorem grantCredits_touch (l : Nat) (b : IdentBody) (s : State) : Touches [.regs] s (grantCredits l b s) := by
  unfold grantCredits
  repeat' (first | with_reducible exact Touches.refl _ _
                 | with_reducible apply Touches.trans ?_ (Touches.mono (wr_touch _ _ _ _) (by decide)))

theorem takeIdent_touch (l : Nat) (b : IdentBody) (s : State) : Touches [.regs, .seam] s (takeIdent l b s) := by
  unfold takeIdent
  repeat' (first | with_reducible exact Touches.refl _ _ | dsimp only
                 | with_reducible apply Touches.trans ?_ (Touches.mono (wr_touch _ _ _ _) (by decide))
                 | with_reducible apply Touches.trans ?_ (Touches.mono (putLink_touch ..) (by decide)))

theorem linkActive_touch (l : Nat) (s : State) : Touches [.regs, .free, .out, .glb, .peat, .ret, .map, .fen, .hew,
    .seam, .mere, .nvq, .slu] s (linkActive l s) := by
  unfold linkActive
  repeat' (first | with_reducible exact Touches.refl _ _ | dsimp only | with_reducible apply Touches.ite ?_ ?_
                 | with_reducible apply Touches.trans ?_ (Touches.mono (wr_touch _ _ _ _) (by decide))
                 | with_reducible apply Touches.trans ?_ (Touches.mono (limitNote_touch ..) (by decide))
                 | with_reducible apply Touches.trans ?_ (Touches.mono (seamSet_touch ..) (by decide))
                 | with_reducible apply Touches.trans ?_ (Touches.mono (sendPacket_touch ..) (by decide))
                 | with_reducible apply Touches.trans ?_ (Touches.mono (memberBack_touch ..) (by decide))
                 | with_reducible apply Touches.trans ?_ (Touches.mono (adoptEpoch_touch ..) (by decide)))

theorem linkHeld_touch (l : Nat) (s : State) : Touches [.regs] s (linkHeld l s) := by
  unfold linkHeld
  repeat' (first | with_reducible exact Touches.refl _ _
                 | with_reducible apply Touches.trans ?_ (Touches.mono (wr_touch _ _ _ _) (by decide))
                 | with_reducible apply Touches.trans ?_ (Touches.mono (seamSet_touch ..) (by decide)))

theorem otherMember_touch (l : Nat) (b : IdentBody) (s : State) : Touches [.regs, .free, .out, .glb, .peat, .ret, .map,
    .fen, .ldpc, .seam, .mere, .nvq] s (otherMember l b s) := by
  unfold otherMember
  repeat' (first | with_reducible exact Touches.refl _ _ | dsimp only | with_reducible apply Touches.ite ?_ ?_
                 | with_reducible apply Touches.trans ?_ (Touches.mono (linkHeld_touch ..) (by decide))
                 | with_reducible apply Touches.trans ?_ (Touches.mono (grantCredits_touch ..) (by decide))
                 | with_reducible apply Touches.trans ?_ (Touches.mono (takeIdent_touch ..) (by decide))
                 | with_reducible apply Touches.trans ?_ (Touches.mono (startRebuild_touch ..) (by decide))
                 | with_reducible apply Touches.trans ?_ (Touches.mono (laddersGiveUp_touch ..) (by decide))
                 | simp only [touches_mk]; with_reducible refine Touches.made (h := ?_) | (intro _) | (split))

theorem trainedUp_touch (l : Nat) (b : IdentBody) (s : State) : Touches [.regs, .free, .out, .glb, .peat, .ret, .map,
    .fen, .ldpc, .hew, .seam, .mere, .nvq, .slu] s (trainedUp l b s) := by
  unfold trainedUp
  repeat' (first | with_reducible exact Touches.refl _ _ | dsimp only | with_reducible apply Touches.ite ?_ ?_
                 | with_reducible apply Touches.trans ?_ (Touches.mono (otherMember_touch ..) (by decide))
                 | with_reducible apply Touches.trans ?_ (Touches.mono (grantCredits_touch ..) (by decide))
                 | with_reducible apply Touches.trans ?_ (Touches.mono (takeIdent_touch ..) (by decide))
                 | with_reducible apply Touches.trans ?_ (Touches.mono (linkActive_touch ..) (by decide))
                 | with_reducible apply Touches.trans ?_ (Touches.mono (wr_touch _ _ _ _) (by decide))
                 | with_reducible apply Touches.trans ?_ (Touches.mono (linkHeld_touch ..) (by decide))
                 | simp only [touches_mk]; with_reducible refine Touches.made (h := ?_) | (intro _) | (split))

theorem retrainedUp_touch (l : Nat) (b : IdentBody) (s : State) : Touches [.regs, .free, .out, .glb, .peat, .ret, .map,
    .fen, .ldpc, .hew, .seam, .mere, .nvq, .slu] s (retrainedUp l b s) := by
  unfold retrainedUp
  repeat' (first | with_reducible exact Touches.refl _ _ | dsimp only | with_reducible apply Touches.ite ?_ ?_
                 | with_reducible apply Touches.trans ?_ (Touches.mono (linkActive_touch ..) (by decide))
                 | with_reducible apply Touches.trans ?_ (Touches.mono (takeIdent_touch ..) (by decide))
                 | with_reducible apply Touches.trans ?_ (Touches.mono (trainedUp_touch ..) (by decide))
                 | with_reducible apply Touches.trans ?_ (Touches.mono (dropLink_touch ..) (by decide))
                 | simp only [touches_mk]; with_reducible refine Touches.made (h := ?_) | (intro _) | (split))

theorem sendHalt_touch (l : Nat) (s : State) : Touches [.regs, .out] s (sendHalt l s) := by
  unfold sendHalt
  repeat' (first | with_reducible exact Touches.refl _ _
                 | with_reducible apply Touches.trans ?_ (Touches.mono (emit_touch ..) (by decide))
                 | with_reducible apply Touches.trans ?_ (Touches.mono (seamSet_touch ..) (by decide)))

theorem atAlign_touch (l st : Nat) (s : State) : Touches [.regs, .out, .seam] s (atAlign l st s) := by
  unfold atAlign
  repeat' (first | with_reducible exact Touches.refl _ _ | dsimp only | with_reducible apply Touches.ite ?_ ?_
                 | with_reducible apply Touches.trans ?_ (Touches.mono (putLink_touch ..) (by decide))
                 | with_reducible apply Touches.trans ?_ (Touches.mono (seamSet_touch ..) (by decide))
                 | with_reducible apply Touches.trans ?_ (Touches.mono (sendHalt_touch ..) (by decide)))

theorem atIdent_touch (l st : Nat) (s : State) : Touches [.regs, .out, .seam] s (atIdent l st s) := by
  unfold atIdent
  repeat' (first | with_reducible exact Touches.refl _ _ | dsimp only | with_reducible apply Touches.ite ?_ ?_
                 | with_reducible apply Touches.trans ?_ (Touches.mono (emit_touch ..) (by decide))
                 | with_reducible apply Touches.trans ?_ (Touches.mono (putLink_touch ..) (by decide))
                 | with_reducible apply Touches.trans ?_ (Touches.mono (seamSet_touch ..) (by decide)))

theorem trainEnd_touch (l : Nat) (s : State) : Touches [.regs, .free, .out, .glb, .peat, .ret, .map, .fen, .ldpc, .hew,
    .seam, .mere, .nvq, .slu] s (trainEnd l s) := by
  unfold trainEnd
  repeat' (first | with_reducible exact Touches.refl _ _ | dsimp only | with_reducible apply Touches.ite ?_ ?_
                 | with_reducible apply Touches.trans ?_ (Touches.mono (putLink_touch ..) (by decide))
                 | with_reducible apply Touches.trans ?_ (Touches.mono (seamSet_touch ..) (by decide))
                 | with_reducible apply Touches.trans ?_ (Touches.mono (trainedUp_touch ..) (by decide))
                 | with_reducible apply Touches.trans ?_ (Touches.mono (retrainedUp_touch ..) (by decide))
                 | with_reducible apply Touches.trans ?_ (Touches.mono (atAlign_touch ..) (by decide))
                 | with_reducible apply Touches.trans ?_ (Touches.mono (atIdent_touch ..) (by decide)) | (split))

theorem creditReport_touch (l : Nat) (h : FlitHead) (s : State) : Touches [.regs, .seam] s (creditReport l h s) := by
  unfold creditReport
  repeat' (first | with_reducible exact Touches.refl _ _ | dsimp only | with_reducible apply Touches.ite ?_ ?_
                 | with_reducible apply Touches.trans ?_ (Touches.mono (wr_touch _ _ _ _) (by decide))
                 | with_reducible apply Touches.trans ?_ (Touches.mono (putLink_touch ..) (by decide)))

theorem ackReport_touch (l : Nat) (h : FlitHead) (s : State) : Touches [.regs, .seam] s (ackReport l h s) := by
  unfold ackReport
  repeat' (first | with_reducible exact Touches.refl _ _ | dsimp only | with_reducible apply Touches.ite ?_ ?_
                 | with_reducible apply Touches.trans ?_ (Touches.mono (count_touch _ _ _ _) (by decide))
                 | with_reducible apply Touches.trans ?_ (Touches.mono (putLink_touch ..) (by decide)))

theorem flitCounts_touch (l : Nat) (h : FlitHead) (s : State) : Touches [.regs] s (flitCounts l h s) := by
  unfold flitCounts
  repeat' (first | with_reducible exact Touches.refl _ _ | dsimp only | with_reducible apply Touches.ite ?_ ?_
                 | with_reducible apply Touches.trans ?_ (Touches.mono (count_touch _ _ _ _) (by decide)))

theorem flitDiscard_touch (l : Nat) (s : State) : Touches [.seam] s (flitDiscard l s) := by
  unfold flitDiscard
  repeat' (first | with_reducible exact Touches.refl _ _ | dsimp only | with_reducible apply Touches.ite ?_ ?_
                 | with_reducible apply Touches.trans ?_ (Touches.mono (putLink_touch ..) (by decide)))

theorem recalAsk_touch (l : Nat) (s : State) : Touches [.out, .seam] s (recalAsk l s) := by
  unfold recalAsk
  repeat' (first | with_reducible exact Touches.refl _ _ | dsimp only | with_reducible apply Touches.ite ?_ ?_
                 | with_reducible apply Touches.trans ?_ (Touches.mono (emit_touch ..) (by decide))
                 | with_reducible apply Touches.trans ?_ (Touches.mono (putLink_touch ..) (by decide)))

theorem recalOpen_touch (l : Nat) (own : Bool) (s : State) : Touches [.regs, .seam] s (recalOpen l own s) := by
  unfold recalOpen
  repeat' (first | with_reducible exact Touches.refl _ _ | dsimp only
                 | with_reducible apply Touches.trans ?_ (Touches.mono (putLink_touch ..) (by decide))
                 | with_reducible apply Touches.trans ?_ (Touches.mono (seamSet_touch ..) (by decide)))

theorem parkLink_touch (l : Nat) (s : State) : Touches [.regs, .out, .seam] s (parkLink l s) := by
  unfold parkLink
  repeat' (first | with_reducible exact Touches.refl _ _ | dsimp only | with_reducible apply Touches.ite ?_ ?_
                 | with_reducible apply Touches.trans ?_ (Touches.mono (emit_touch ..) (by decide))
                 | with_reducible apply Touches.trans ?_ (Touches.mono (putLink_touch ..) (by decide))
                 | with_reducible apply Touches.trans ?_ (Touches.mono (seamSet_touch ..) (by decide)))

theorem giveUpUnsent_touch (l : Nat) (s : State) : Touches [.regs, .free, .out, .glb, .peat, .ret, .map, .fen, .hew,
    .seam, .mere, .nvq, .slu] s (giveUpUnsent l s) := by
  unfold giveUpUnsent
  repeat' (first | with_reducible exact Touches.refl _ _ | dsimp only | with_reducible apply Touches.ite ?_ ?_
                 | with_reducible apply Touches.trans ?_ (Touches.mono (eachOf_touch ..) (by decide))
                 | with_reducible apply Touches.trans ?_ (Touches.mono (hewEnd_touch ..) (by decide))
                 | with_reducible apply Touches.trans ?_ (eachOf_touch _ _ _ ?_)
                 | with_reducible apply Touches.trans ?_ (foldl_touch _ _ _ ?_)
                 | simp only [touches_mk]; with_reducible refine Touches.made (h := ?_) | (intro _) | (split))

theorem freeRsp_touch (l : Nat) (s : State) : Touches [.seam] s (freeRsp l s) := by
  unfold freeRsp
  repeat' (first | with_reducible exact Touches.refl _ _ | dsimp only
                 | with_reducible apply Touches.trans ?_ (Touches.mono (putLink_touch ..) (by decide)))

theorem freeRdata_touch (l : Nat) (s : State) : Touches [.seam] s (freeRdata l s) := by
  unfold freeRdata
  repeat' (first | with_reducible exact Touches.refl _ _ | dsimp only
                 | with_reducible apply Touches.trans ?_ (Touches.mono (putLink_touch ..) (by decide)))

theorem lastPacket_touch (l k : Nat) (s : State) : Touches [.hew] s (lastPacket l k s) := by
  unfold lastPacket
  repeat' (first | with_reducible exact Touches.refl _ _
                 | with_reducible apply Touches.trans ?_ (Touches.mono (putHeld_touch ..) (by decide)) | (split))

theorem wordArrives_touch (l k cw : Nat) (last : Bool) (ops : List Nat) (hard : Bool) (s : State) : Touches [.free,
    .ldpc, .hew, .seam] s (wordArrives l k cw last ops hard s) := by
  unfold wordArrives
  repeat' (first | with_reducible exact Touches.refl _ _ | dsimp only | with_reducible apply Touches.ite ?_ ?_
                 | with_reducible apply Touches.trans ?_ (Touches.mono (putHeld_touch ..) (by decide))
                 | with_reducible apply Touches.trans ?_ (Touches.mono (ladderStart_touch ..) (by decide))
                 | with_reducible apply Touches.trans ?_ (Touches.mono (freeRdata_touch ..) (by decide))
                 | with_reducible apply Touches.trans ?_ (Touches.mono (lastPacket_touch ..) (by decide)) | (split))

theorem setOver_touch (l : Nat) (b : Bool) (s : State) : Touches [.regs] s (setOver l b s) := by
  unfold setOver
  repeat' (first | with_reducible exact Touches.refl _ _ | dsimp only | with_reducible apply Touches.ite ?_ ?_
                 | with_reducible apply Touches.trans ?_ (Touches.mono (wr_touch _ _ _ _) (by decide))
                 | with_reducible apply Touches.trans ?_ (Touches.mono (wrB_touch _ _ _ _) (by decide)))

theorem groupLost_touch (g : Nat) (s : State) : Touches [.regs, .free, .out, .glb, .peat, .ret, .seam, .nvq] s
    (groupLost g s) := by
  unfold groupLost
  repeat' (first | with_reducible exact Touches.refl _ _ | dsimp only | with_reducible apply Touches.ite ?_ ?_
                 | with_reducible apply Touches.trans ?_ (Touches.mono (wr_touch _ _ _ _) (by decide))
                 | with_reducible apply Touches.trans ?_ (Touches.mono (faultAbsorbed_touch ..) (by decide))
                 | with_reducible apply Touches.trans ?_ (Touches.mono (glbRefresh_touch ..) (by decide))
                 | with_reducible apply Touches.trans ?_ (Touches.mono (eachOf_touch ..) (by decide))
                 | with_reducible apply Touches.trans ?_ (Touches.mono (enterRetrain_touch ..) (by decide))
                 | with_reducible apply Touches.trans ?_ (eachOf_touch _ _ _ ?_)
                 | with_reducible apply Touches.trans ?_ (foldl_touch _ _ _ ?_)
                 | simp only [touches_mk]; with_reducible refine Touches.made (h := ?_) | (intro _) | (split))

theorem seamRetrainAsk_touch (l : Nat) (s : State) : Touches [.regs, .out, .seam] s (seamRetrainAsk l s) := by
  unfold seamRetrainAsk
  repeat' (first | with_reducible exact Touches.refl _ _ | dsimp only
                 | with_reducible apply Touches.trans ?_ (Touches.mono (wr_touch _ _ _ _) (by decide))
                 | with_reducible apply Touches.trans ?_ (Touches.mono (putLink_touch ..) (by decide))
                 | with_reducible apply Touches.trans ?_ (Touches.mono (seamRetrain_touch ..) (by decide)))

theorem seamEnable_touch (l : Nat) (enable : Bool) (s : State) : Touches [.regs, .free, .out, .glb, .peat, .ret, .map,
    .fen, .ldpc, .hew, .seam, .mere, .nvq, .slu] s (seamEnable l enable s) := by
  unfold seamEnable
  repeat' (first | with_reducible exact Touches.refl _ _ | dsimp only | with_reducible apply Touches.ite ?_ ?_
                 | with_reducible apply Touches.trans ?_ (Touches.mono (wrB_touch _ _ _ _) (by decide))
                 | with_reducible apply Touches.trans ?_ (Touches.mono (toDetect_touch ..) (by decide))
                 | with_reducible apply Touches.trans ?_ (Touches.mono (putLink_touch ..) (by decide))
                 | with_reducible apply Touches.trans ?_ (Touches.mono (dropLink_touch ..) (by decide))
                 | with_reducible apply Touches.trans ?_ (Touches.mono (seamSet_touch ..) (by decide))
                 | simp only [touches_mk]; with_reducible refine Touches.made (h := ?_) | (intro _) | (split))

theorem ucPutWord_touch (f bank a w : Nat) (s : State) : Touches [.ucs] s (ucPutWord f bank a w s) := by
  unfold ucPutWord
  repeat' (first | with_reducible exact Touches.refl _ _ | dsimp only | with_reducible apply Touches.ite ?_ ?_
                 | simp only [touches_mk]; with_reducible refine Touches.made (h := ?_))

theorem putMaster_touch (f bank a d : Nat) (s : State) : Touches [.ucs] s (putMaster f bank a d s) := by
  unfold putMaster
  repeat' (first | with_reducible exact Touches.refl _ _ | dsimp only
                 | simp only [touches_mk]; with_reducible refine Touches.made (h := ?_))

theorem loadBank_touch (f fromBank toBank : Nat) (s : State) : Touches [.ucs] s (loadBank f fromBank toBank s) := by
  unfold loadBank
  repeat' (first | with_reducible exact Touches.refl _ _ | dsimp only
                 | with_reducible apply Touches.trans ?_ (Touches.mono (ucPutWord_touch ..) (by decide))
                 | with_reducible apply Touches.trans ?_ (Touches.mono (putMaster_touch ..) (by decide))
                 | with_reducible apply Touches.trans ?_ (eachOf_touch _ _ _ ?_) | (intro _))

theorem askSwitch_touch (f : Nat) (s : State) : Touches [.ucs] s (askSwitch f s) := by
  unfold askSwitch
  repeat' (first | with_reducible exact Touches.refl _ _ | dsimp only
                 | simp only [touches_mk]; with_reducible refine Touches.made (h := ?_))

theorem flipBank_touch (f : Nat) (s : State) : Touches [.regs, .ucs] s (flipBank f s) := by
  unfold flipBank
  repeat' (first | with_reducible exact Touches.refl _ _ | dsimp only
                 | with_reducible apply Touches.trans ?_ (Touches.mono (wr_touch _ _ _ _) (by decide))
                 | with_reducible apply Touches.trans ?_ (Touches.mono (startedNote_touch ..) (by decide))
                 | simp only [touches_mk]; with_reducible refine Touches.made (h := ?_))

theorem ucodeNote_touch (s : State) : Touches [.regs, .free, .peat, .cfg, .nvq] s (ucodeNote s) := by
  unfold ucodeNote
  repeat' (first | with_reducible exact Touches.refl _ _ | with_reducible apply Touches.ite ?_ ?_
                 | with_reducible apply Touches.trans ?_ (Touches.mono (lotDone_touch ..) (by decide)) | (split))

theorem restoreBank_touch (f : Nat) (s : State) : Touches [.ucs] s (restoreBank f s) := by
  unfold restoreBank
  repeat' (first | with_reducible exact Touches.refl _ _ | dsimp only
                 | with_reducible apply Touches.trans ?_ (Touches.mono (loadBank_touch ..) (by decide))
                 | with_reducible apply Touches.trans ?_ (Touches.mono (askSwitch_touch ..) (by decide)))

theorem restoreNote_touch (f : Nat) (s : State) : Touches [.ucs] s (restoreNote f s) := by
  unfold restoreNote
  repeat' (first | with_reducible exact Touches.refl _ _ | dsimp only | with_reducible apply Touches.ite ?_ ?_
                 | with_reducible apply Touches.trans ?_ (Touches.mono (restoreBank_touch ..) (by decide))
                 | simp only [touches_mk]; with_reducible refine Touches.made (h := ?_))

theorem bankDamaged_touch (f bank : Nat) (s : State) : Touches [.ucs] s (bankDamaged f bank s) := by
  unfold bankDamaged
  repeat' (first | with_reducible exact Touches.refl _ _ | dsimp only | with_reducible apply Touches.ite ?_ ?_
                 | with_reducible apply Touches.trans ?_ (Touches.mono (restoreBank_touch ..) (by decide))
                 | simp only [touches_mk]; with_reducible refine Touches.made (h := ?_))

theorem ucError_touch (n k : Nat) (s : State) : Touches [.regs, .free, .out, .glb, .peat, .ret, .map, .fen, .hew, .seam,
    .mere, .nvq, .slu] s (ucError n k s) := by
  unfold ucError
  repeat' (first | with_reducible exact Touches.refl _ _
                 | with_reducible apply Touches.trans ?_ (Touches.mono (hewEnd_touch ..) (by decide)))

theorem ucRunIf_touch {ps : List Part} (n k : Nat) (op : Nat → Bool) (act : Nat → Held → State → State) (s : State) (hp
    : ∀ p ∈ [Part.regs, .free, .out, .glb, .peat, .ret, .map, .fen, .hew, .ucs, .seam, .mere, .nvq, .slu], p ∈ ps) (hf : ∀ w h s,
    Touches ps s (act w h s)) : Touches ps s (ucRunIf n k op act s) := by
  unfold ucRunIf; split
  · exact Touches.refl _ _
  · split
    · exact Touches.refl _ _
    · simp only; split
      · split
        · exact hf ..
        · exact Touches.refl _ _
      · split
        · refine Touches.trans ?_ (hf ..)
          exact Touches.mono (Touches.trans ((ucPutWord_touch ..).mono (ps := [.regs, .ucs]) (by decide)) ((count_touch _ _ _
              _).mono (by decide))) (fun p h => hp p (by revert p; decide))
        · exact Touches.refl _ _
      · refine Touches.trans ?_ ((ucError_touch ..).mono (fun p h => hp p (by revert p; decide)))
        exact Touches.trans ((count_touch _ _ _ _).mono (fun p h => hp p (by revert p; decide))) ((bankDamaged_touch ..).mono
            (fun p h => hp p (by revert p; decide)))

theorem ucRun_touch {ps : List Part} (n k op : Nat) (act : Nat → Held → State → State) (s : State) (hp : ∀ p ∈ [Part.regs,
    .free, .out, .glb, .peat, .ret, .map, .fen, .hew, .ucs, .seam, .mere, .nvq, .slu], p ∈ ps) (hf : ∀ w h s, Touches ps s (act w h
    s)) : Touches ps s (ucRun n k op act s) := ucRunIf_touch n k _ act s hp hf

theorem ucPut_touch (n k : Nat) (h : Option Held) (s : State) : Touches [.regs, .free, .out, .glb, .peat, .ret, .map,
    .fen, .hew, .seam, .mere, .nvq, .slu] s (ucPut n k h s) := by
  unfold ucPut
  repeat' (first | with_reducible exact Touches.refl _ _
                 | with_reducible apply Touches.trans ?_ (Touches.mono (putHeld_touch ..) (by decide))
                 | with_reducible apply Touches.trans ?_ (Touches.mono (ucError_touch ..) (by decide)) | (split))

theorem ucAlu_touch (n k op : Nat) (f : Nat → Nat → Nat) (s : State) : Touches [.regs, .free, .out, .glb, .peat, .ret,
    .map, .fen, .hew, .ucs, .seam, .mere, .nvq, .slu] s (ucAlu n k op f s) := by
  unfold ucAlu
  repeat' (first | with_reducible exact Touches.refl _ _ | with_reducible apply Touches.ite ?_ ?_
                 | with_reducible apply Touches.trans ?_ (Touches.mono (drawn_touch ..) (by decide))
                 | with_reducible apply Touches.trans ?_ (Touches.mono (ucPut_touch ..) (by decide))
                 | with_reducible apply Touches.trans ?_ (ucRun_touch (hp := by decide) (hf := ?_) ..) | (intro _))

theorem sendControl_touch (n opc k : Nat) (s : State) : Touches [.regs, .hew] s (sendControl n opc k s) := by
  unfold sendControl
  repeat' (first | with_reducible exact Touches.refl _ _ | dsimp only | with_reducible apply Touches.ite ?_ ?_
                 | with_reducible apply Touches.trans ?_ (Touches.mono (putHeld_touch ..) (by decide))
                 | with_reducible apply Touches.trans ?_ (Touches.mono (count_touch _ _ _ _) (by decide))
                 | simp only [touches_mk]; with_reducible refine Touches.made (h := ?_) | (intro _) | (split))

theorem epochNote_touch (s : State) : Touches [.regs] s (epochNote s) := by
  unfold epochNote
  repeat' (first | with_reducible exact Touches.refl _ _ | dsimp only
                 | with_reducible apply Touches.trans ?_ (Touches.mono (wr_touch _ _ _ _) (by decide)) | (split))

theorem epochPrepare_touch (kind : EpochKind) (checkOk : Bool) (s : State) : Touches [.regs, .ldpc, .ucs, .sea] s
    (epochPrepare kind checkOk s) := by
  unfold epochPrepare
  repeat' (first | with_reducible exact Touches.refl _ _ | dsimp only | with_reducible apply Touches.ite ?_ ?_
                 | with_reducible apply Touches.trans ?_ (Touches.mono (wr_touch _ _ _ _) (by decide))
                 | with_reducible apply Touches.trans ?_ (Touches.mono (epochNote_touch ..) (by decide))
                 | simp only [touches_mk]; with_reducible refine Touches.made (h := ?_) | (intro _) | (split))

theorem epochWaiting_touch (s : State) : Touches [.regs, .ldpc, .ucs, .sea] s (epochWaiting s) := by
  unfold epochWaiting
  repeat' (first | with_reducible exact Touches.refl _ _ | with_reducible apply Touches.ite ?_ ?_
                 | with_reducible apply Touches.trans ?_ (Touches.mono (epochPrepare_touch ..) (by decide)))

theorem lotStart_touch (p : AccessPath) (lot : Nat) (s : State) : Touches [.regs, .free, .peat, .cfg, .nvq, .pwr] s (lotStart
    p lot s) := by
  unfold lotStart
  repeat' (first | with_reducible exact Touches.refl _ _ | dsimp only | with_reducible apply Touches.ite ?_ ?_
                 | with_reducible apply Touches.trans ?_ (Touches.mono (wr_touch _ _ _ _) (by decide))
                 | with_reducible apply Touches.trans ?_ (Touches.mono (peatRecord_touch ..) (by decide))
                 | with_reducible apply Touches.trans ?_ (Touches.mono (lotDone_touch ..) (by decide))
                 | simp only [touches_mk]; with_reducible refine Touches.made (h := ?_) | (split))

theorem writeBank_touch (u : UcodeLot) (f bank : Nat) (s : State) : Touches [.ucs] s (writeBank u f bank s) := by
  unfold writeBank
  repeat' (first | with_reducible exact Touches.refl _ _ | dsimp only | with_reducible apply Touches.ite ?_ ?_
                 | with_reducible apply Touches.trans ?_ (Touches.mono (ucPutWord_touch ..) (by decide))
                 | with_reducible apply Touches.trans ?_ (Touches.mono (putMaster_touch ..) (by decide))
                 | simp only [touches_mk]; with_reducible refine Touches.made (h := ?_)
                 | with_reducible apply Touches.trans ?_ (eachOf_touch _ _ _ ?_) | (intro _))

theorem writeIdleBanks_touch (u : UcodeLot) (s : State) : Touches [.ucs] s (writeIdleBanks u s) := by
  unfold writeIdleBanks
  repeat' (first | with_reducible exact Touches.refl _ _
                 | with_reducible apply Touches.trans ?_ (Touches.mono (writeBank_touch ..) (by decide))
                 | with_reducible apply Touches.trans ?_ (eachOf_touch _ _ _ ?_) | (intro _))

theorem lotInForce_touch (lot : Nat) (i : TwimaImage) (s : State) : Touches [.regs, .free, .peat, .cfg, .ucs, .slu, .hif] s
    (lotInForce lot i s) := by
  unfold lotInForce
  repeat' (first | with_reducible exact Touches.refl _ _ | dsimp only | with_reducible apply Touches.ite ?_ ?_
                 | with_reducible apply Touches.trans ?_ (Touches.mono (logClamps_touch ..) (by decide))
                 | with_reducible apply Touches.trans ?_ (Touches.mono (resNote_touch ..) (by decide))
                 | with_reducible apply Touches.trans ?_ (Touches.mono (limitNote_touch ..) (by decide))
                 | with_reducible apply Touches.trans ?_ (Touches.mono (closeAllExpert_touch ..) (by decide))
                 | with_reducible apply Touches.trans ?_ (Touches.mono (askSwitch_touch ..) (by decide))
                 | simp only [touches_mk]; with_reducible refine Touches.made (h := ?_)
                 | with_reducible apply Touches.trans ?_ (eachOf_touch _ _ _ ?_) | (intro _))

theorem keyChange_touch (old new_ : TwimaImage) (s : State) : Touches [.cfg, .cus] s (keyChange old new_ s) := by
  unfold keyChange
  repeat' (first | with_reducible exact Touches.refl _ _ | with_reducible apply Touches.ite ?_ ?_
                 | with_reducible apply Touches.trans ?_ (Touches.mono (closeSession_touch ..) (by decide)))

theorem lotCommit_touch (r : Reapply) (s : State) : Touches [.regs, .free, .peat, .cfg, .ucs, .nvq, .slu, .hif, .cus, .boot]
    s (lotCommit r s) := by
  unfold lotCommit
  repeat' (first | with_reducible exact Touches.refl _ _ | dsimp only | with_reducible apply Touches.ite ?_ ?_
                 | with_reducible apply Touches.trans ?_ (Touches.mono (wr_touch _ _ _ _) (by decide))
                 | with_reducible apply Touches.trans ?_ (Touches.mono (commitSlots_touch ..) (by decide))
                 | with_reducible apply Touches.trans ?_ (Touches.mono (lotDone_touch ..) (by decide))
                 | with_reducible apply Touches.trans ?_ (Touches.mono (ucodeNote_touch ..) (by decide))
                 | with_reducible apply Touches.trans ?_ (Touches.mono (writeIdleBanks_touch ..) (by decide))
                 | with_reducible apply Touches.trans ?_ (Touches.mono (lotInForce_touch ..) (by decide))
                 | with_reducible apply Touches.trans ?_ (Touches.mono (keyChange_touch ..) (by decide))
                 | simp only [touches_mk]; with_reducible refine Touches.made (h := ?_))

theorem powerWaitEnds_touch (pass : Bool) (s : State) : Touches [.regs, .free, .peat, .cfg, .ucs, .nvq, .slu, .hif, .cus,
    .boot] s (powerWaitEnds pass s) := by
  unfold powerWaitEnds
  repeat' (first | with_reducible exact Touches.refl _ _ | dsimp only | with_reducible apply Touches.ite ?_ ?_
                 | with_reducible apply Touches.trans ?_ (Touches.mono (lotRefuse_touch ..) (by decide))
                 | with_reducible apply Touches.trans ?_ (Touches.mono (lotCommit_touch ..) (by decide))
                 | simp only [touches_mk]; with_reducible refine Touches.made (h := ?_) | (split))

theorem setPf_touch (i : PfInput) (v : Bool) (s : State) : Touches [.pwr] s (setPf i v s) := by
  unfold setPf
  repeat' (first | with_reducible exact Touches.refl _ _ | dsimp only
                 | simp only [touches_mk]; with_reducible refine Touches.made (h := ?_) | (split))

theorem pfDisagree_touch (gap : Nat) (s : State) : Touches [.regs, .free, .peat, .pwr] s (pfDisagree gap s) := by
  unfold pfDisagree
  repeat' (first | with_reducible exact Touches.refl _ _ | dsimp only
                 | with_reducible apply Touches.trans ?_ (Touches.mono (wr_touch _ _ _ _) (by decide))
                 | with_reducible apply Touches.trans ?_ (Touches.mono (peatRecord_touch ..) (by decide))
                 | simp only [touches_mk]; with_reducible refine Touches.made (h := ?_))

theorem haltLinks_touch (s : State) : Touches [.regs, .out] s (haltLinks s) := by
  unfold haltLinks
  repeat' (first | with_reducible exact Touches.refl _ _
                 | with_reducible apply Touches.trans ?_ (Touches.mono (sendHalt_touch ..) (by decide))
                 | with_reducible apply Touches.trans ?_ (eachOf_touch _ _ _ ?_) | (intro _))

theorem htEnd_touch (st : Nat) (s : State) : Touches [.regs, .free, .peat, .cfg, .ucs, .nvq, .slu, .hif, .cus, .boot] s
    (htEnd st s) := by
  unfold htEnd
  repeat' (first | with_reducible exact Touches.refl _ _
                 | with_reducible apply Touches.trans ?_ (Touches.mono (wr_touch _ _ _ _) (by decide))
                 | with_reducible apply Touches.trans ?_ (Touches.mono (powerWaitEnds_touch ..) (by decide)))

theorem pfStop_touch (s : State) : Touches [.regs, .free, .out, .glb, .peat, .cfg, .ret, .map, .fen, .hew, .ucs, .seam,
    .mere, .nvq, .slu, .hif, .dma, .cus, .boot] s (pfStop s) := by
  unfold pfStop
  repeat' (first | with_reducible exact Touches.refl _ _ | dsimp only | with_reducible apply Touches.ite ?_ ?_
                 | with_reducible apply Touches.trans ?_ (Touches.mono (eachOf_touch ..) (by decide))
                 | with_reducible apply Touches.trans ?_ (Touches.mono (unpark_touch ..) (by decide))
                 | with_reducible apply Touches.trans ?_ (Touches.mono (haltLinks_touch ..) (by decide))
                 | with_reducible apply Touches.trans ?_ (Touches.mono (dmaAbandon_touch ..) (by decide))
                 | with_reducible apply Touches.trans ?_ (Touches.mono (hewHalt_touch ..) (by decide))
                 | with_reducible apply Touches.trans ?_ (Touches.mono (htEnd_touch ..) (by decide))
                 | with_reducible apply Touches.trans ?_ (eachOf_touch _ _ _ ?_)
                 | with_reducible apply Touches.trans ?_ (foldl_touch _ _ _ ?_)
                 | simp only [touches_mk]; with_reducible refine Touches.made (h := ?_) | (intro _) | (split))

theorem flushRecords_touch (s : State) : Touches [.regs, .free, .map, .mere, .nvq] s (flushRecords s) := by
  unfold flushRecords
  repeat' (first | with_reducible exact Touches.refl _ _ | dsimp only | with_reducible apply Touches.ite ?_ ?_
                 | with_reducible apply Touches.trans ?_ (Touches.mono (makeDurable_touch ..) (by decide))
                 | with_reducible apply Touches.trans ?_ (Touches.mono (eachOf_touch ..) (by decide))
                 | with_reducible apply Touches.trans ?_ (Touches.mono (journal_touch ..) (by decide))
                 | with_reducible apply Touches.trans ?_ (eachOf_touch _ _ _ ?_)
                 | with_reducible apply Touches.trans ?_ (foldl_touch _ _ _ ?_)
                 | simp only [touches_mk]; with_reducible refine Touches.made (h := ?_) | (intro _) | (split))

theorem flushUnit_touch (i key : Nat) (s : State) : Touches [.map] s (flushUnit i key s) := by
  unfold flushUnit
  repeat' (first | with_reducible exact Touches.refl _ _ | dsimp only | with_reducible apply Touches.ite ?_ ?_
                 | with_reducible apply Touches.trans ?_ (Touches.mono (putUnit_touch ..) (by decide)) | (split))

theorem flushNote_touch (complete : Bool) (units us : Nat) (s : State) : Touches [.regs] s (flushNote complete units us s) := by
  unfold flushNote
  repeat' (first | with_reducible exact Touches.refl _ _ | with_reducible apply Touches.ite ?_ ?_
                 | with_reducible apply Touches.trans ?_ (Touches.mono (wr_touch _ _ _ _) (by decide))
                 | with_reducible apply Touches.trans ?_ (Touches.mono (wrB_touch _ _ _ _) (by decide)))

theorem flushLate_touch (s : State) : Touches [.regs, .free, .peat, .pwr] s (flushLate s) := by
  unfold flushLate
  repeat' (first | with_reducible exact Touches.refl _ _ | with_reducible apply Touches.ite ?_ ?_
                 | with_reducible apply Touches.trans ?_ (Touches.mono (pfDisagree_touch ..) (by decide)))

theorem flushDone_touch (complete : Bool) (units us : Nat) (s : State) : Touches [.regs, .free, .out, .glb, .peat,
    .life, .ret, .map, .fen, .hew, .seam, .mere, .nvq, .slu, .pwr] s (flushDone complete units us s) := by
  unfold flushDone
  repeat' (first | with_reducible exact Touches.refl _ _ | dsimp only
                 | with_reducible apply Touches.trans ?_ (Touches.mono (thermalSave_touch ..) (by decide))
                 | with_reducible apply Touches.trans ?_ (Touches.mono (hewOff_touch ..) (by decide))
                 | with_reducible apply Touches.trans ?_ (Touches.mono (flushNote_touch ..) (by decide))
                 | with_reducible apply Touches.trans ?_ (Touches.mono (flushLate_touch ..) (by decide))
                 | simp only [touches_mk]; with_reducible refine Touches.made (h := ?_))

theorem flushData_touch (n : Nat) (s : State) : Touches [.map] s (flushData n s) := by
  unfold flushData
  repeat' (first | with_reducible exact Touches.refl _ _
                 | with_reducible apply Touches.trans ?_ (Touches.mono (flushUnit_touch ..) (by decide))
                 | with_reducible apply Touches.trans ?_ (eachOf_touch _ _ _ ?_) | (intro _))

theorem htAsk_touch (s : State) : Touches [.regs, .pwr] s (htAsk s) := by
  unfold htAsk
  repeat' (first | with_reducible exact Touches.refl _ _ | dsimp only
                 | with_reducible apply Touches.trans ?_ (Touches.mono (wr_touch _ _ _ _) (by decide))
                 | simp only [touches_mk]; with_reducible refine Touches.made (h := ?_))

theorem htArm_touch (s : State) : Touches [.regs, .pwr] s (htArm s) := by
  unfold htArm
  repeat' (first | with_reducible exact Touches.refl _ _ | dsimp only | with_reducible apply Touches.ite ?_ ?_
                 | with_reducible apply Touches.trans ?_ (Touches.mono (wr_touch _ _ _ _) (by decide))
                 | simp only [touches_mk]; with_reducible refine Touches.made (h := ?_))

theorem htCancel_touch (s : State) : Touches [.regs, .free, .peat, .cfg, .ucs, .nvq, .slu, .hif, .cus, .boot] s
    (htCancel s) := by
  unfold htCancel
  repeat' (first | with_reducible exact Touches.refl _ _ | dsimp only | with_reducible apply Touches.ite ?_ ?_
                 | with_reducible apply Touches.trans ?_ (Touches.mono (powerWaitEnds_touch ..) (by decide))
                 | with_reducible apply Touches.trans ?_ (Touches.mono (htEnd_touch ..) (by decide))
                 | simp only [touches_mk]; with_reducible refine Touches.made (h := ?_) | (intro _) | (split))

theorem htBoot_touch (s : State) : Touches [.regs, .free, .peat, .pwr] s (htBoot s) := by
  unfold htBoot
  repeat' (first | with_reducible exact Touches.refl _ _ | dsimp only | with_reducible apply Touches.ite ?_ ?_
                 | with_reducible apply Touches.trans ?_ (Touches.mono (wr_touch _ _ _ _) (by decide))
                 | with_reducible apply Touches.trans ?_ (Touches.mono (peatRecord_touch ..) (by decide))
                 | simp only [touches_mk]; with_reducible refine Touches.made (h := ?_))

theorem sealStat_touch (s : State) : Touches [.regs] s (sealStat s) := by
  unfold sealStat
  repeat' (first | with_reducible exact Touches.refl _ _ | dsimp only
                 | with_reducible apply Touches.trans ?_ (Touches.mono (wr_touch _ _ _ _) (by decide))
                 | with_reducible apply Touches.trans ?_ (Touches.mono (wrB_touch _ _ _ _) (by decide)))

theorem sealFollow_touch (s : State) : Touches [.regs, .free, .peat, .cfg, .ldpc, .ucs, .nvq, .sea] s (sealFollow s) := by
  unfold sealFollow
  repeat' (first | with_reducible exact Touches.refl _ _ | with_reducible apply Touches.ite ?_ ?_
                 | with_reducible apply Touches.trans ?_ (Touches.mono (powerWaitBusy_touch ..) (by decide))
                 | with_reducible apply Touches.trans ?_ (Touches.mono (epochPrepare_touch ..) (by decide)))

theorem sealFault_touch (s : State) : Touches [.regs, .free, .peat, .sea] s (sealFault s) := by
  unfold sealFault
  repeat' (first | with_reducible exact Touches.refl _ _ | dsimp only
                 | with_reducible apply Touches.trans ?_ (Touches.mono (wr_touch _ _ _ _) (by decide))
                 | with_reducible apply Touches.trans ?_ (Touches.mono (peatRecord_touch ..) (by decide))
                 | simp only [touches_mk]; with_reducible refine Touches.made (h := ?_))

theorem sealResolve_touch (s : State) : Touches [.regs, .free, .peat, .sea] s (sealResolve s) := by
  unfold sealResolve
  repeat' (first | with_reducible exact Touches.refl _ _ | dsimp only | with_reducible apply Touches.ite ?_ ?_
                 | with_reducible apply Touches.trans ?_ (Touches.mono (wr_touch _ _ _ _) (by decide))
                 | with_reducible apply Touches.trans ?_ (Touches.mono (peatRecord_touch ..) (by decide))
                 | simp only [touches_mk]; with_reducible refine Touches.made (h := ?_))

theorem sealDisagree_touch (s : State) : Touches [.regs, .free, .peat, .sea] s (sealDisagree s) := by
  unfold sealDisagree
  repeat' (first | with_reducible exact Touches.refl _ _ | dsimp only | with_reducible apply Touches.ite ?_ ?_
                 | with_reducible apply Touches.trans ?_ (Touches.mono (count_touch _ _ _ _) (by decide))
                 | with_reducible apply Touches.trans ?_ (Touches.mono (sealFault_touch ..) (by decide))
                 | simp only [touches_mk]; with_reducible refine Touches.made (h := ?_))

theorem sealSample_touch (a b : Bool) (s : State) : Touches [.regs, .free, .peat, .cfg, .ldpc, .ucs, .nvq, .sea] s
    (sealSample a b s) := by
  unfold sealSample
  repeat' (first | with_reducible exact Touches.refl _ _ | dsimp only | with_reducible apply Touches.ite ?_ ?_
                 | with_reducible apply Touches.trans ?_ (Touches.mono (sealStat_touch ..) (by decide))
                 | with_reducible apply Touches.trans ?_ (Touches.mono (sealFollow_touch ..) (by decide))
                 | with_reducible apply Touches.trans ?_ (Touches.mono (sealResolve_touch ..) (by decide))
                 | with_reducible apply Touches.trans ?_ (Touches.mono (sealDisagree_touch ..) (by decide))
                 | simp only [touches_mk]; with_reducible refine Touches.made (h := ?_))

theorem sealClear_touch (p : AccessPath) (s : State) : Touches [.regs, .free, .peat, .cfg, .ldpc, .ucs, .nvq, .sea] s
    (sealClear p s) := by
  unfold sealClear
  repeat' (first | with_reducible exact Touches.refl _ _ | dsimp only | with_reducible apply Touches.ite ?_ ?_
                 | with_reducible apply Touches.trans ?_ (Touches.mono (accessViolation_touch ..) (by decide))
                 | with_reducible apply Touches.trans ?_ (Touches.mono (sealStat_touch ..) (by decide))
                 | with_reducible apply Touches.trans ?_ (Touches.mono (sealFollow_touch ..) (by decide))
                 | simp only [touches_mk]; with_reducible refine Touches.made (h := ?_))

theorem sealSoft_touch (p : AccessPath) (engage : Bool) (s : State) : Touches [.regs, .free, .peat, .cfg, .ldpc, .ucs, .nvq,
    .sea] s (sealSoft p engage s) := by
  unfold sealSoft
  repeat' (first | with_reducible exact Touches.refl _ _ | dsimp only | with_reducible apply Touches.ite ?_ ?_
                 | with_reducible apply Touches.trans ?_ (Touches.mono (wrB_touch _ _ _ _) (by decide))
                 | with_reducible apply Touches.trans ?_ (Touches.mono (sealFollow_touch ..) (by decide))
                 | simp only [touches_mk]; with_reducible refine Touches.made (h := ?_))

theorem freeStrays_touch (s : State) : Touches [.map] s (freeStrays s) := by
  unfold freeStrays
  repeat' (first | with_reducible exact Touches.refl _ _ | dsimp only
                 | simp only [touches_mk]; with_reducible refine Touches.made (h := ?_))

theorem useCore_touch (c : MapCore) (s : State) : Touches [.ret, .map] s (useCore c s) := by
  unfold useCore
  repeat' (first | with_reducible exact Touches.refl _ _ | dsimp only
                 | with_reducible apply Touches.trans ?_ (Touches.mono (setCore_touch ..) (by decide))
                 | with_reducible apply Touches.trans ?_ (Touches.mono (releaseAfter_touch ..) (by decide))
                 | with_reducible apply Touches.trans ?_ (Touches.mono (releaseDue_touch ..) (by decide))
                 | with_reducible apply Touches.trans ?_ (Touches.mono (freeSumps_touch ..) (by decide))
                 | with_reducible apply Touches.trans ?_ (Touches.mono (freeStrays_touch ..) (by decide))
                 | with_reducible apply Touches.trans ?_ (eachOf_touch _ _ _ ?_) | (intro _))

theorem mapRecover_touch (s : State) : Touches [.ret, .map] s (mapRecover s) := by
  unfold mapRecover
  repeat' (first | with_reducible exact Touches.refl _ _ | dsimp only | with_reducible apply Touches.ite ?_ ?_
                 | with_reducible apply Touches.trans ?_ (Touches.mono (useCore_touch ..) (by decide))
                 | simp only [touches_mk]; with_reducible refine Touches.made (h := ?_) | (intro _) | (split))

theorem labelWalk_touch (s : State) : Touches [.ret, .map] s (labelWalk s) := by
  unfold labelWalk
  repeat' (first | with_reducible exact Touches.refl _ _ | dsimp only | with_reducible apply Touches.ite ?_ ?_
                 | with_reducible apply Touches.trans ?_ (Touches.mono (setCore_touch ..) (by decide))
                 | with_reducible apply Touches.trans ?_ (Touches.mono (useCore_touch ..) (by decide))
                 | with_reducible apply Touches.trans ?_ (eachOf_touch _ _ _ ?_)
                 | with_reducible apply Touches.trans ?_ (foldl_touch _ _ _ ?_)
                 | simp only [touches_mk]; with_reducible refine Touches.made (h := ?_) | (intro _) | (split))

theorem restoreUnit_touch (w : CodeWord) (s : State) : Touches [.free, .map, .mere] s (restoreUnit w s) := by
  unfold restoreUnit
  repeat' (first | with_reducible exact Touches.refl _ _ | dsimp only | with_reducible apply Touches.ite ?_ ?_
                 | with_reducible apply Touches.trans ?_ (Touches.mono (clearLost_touch ..) (by decide))
                 | with_reducible apply Touches.trans ?_ (Touches.mono (placeDirty_touch ..) (by decide))
                 | simp only [touches_mk]; with_reducible refine Touches.made (h := ?_) | (intro _) | (split))

theorem restoreStripe_touch (id : Nat) (s : State) : Touches [.free, .map, .mere] s (restoreStripe id s) := by
  unfold restoreStripe
  repeat' (first | with_reducible exact Touches.refl _ _ | dsimp only | with_reducible apply Touches.ite ?_ ?_
                 | with_reducible apply Touches.trans ?_ (Touches.mono (restoreUnit_touch ..) (by decide))
                 | with_reducible apply Touches.trans ?_ (eachOf_touch _ _ _ ?_)
                 | with_reducible apply Touches.trans ?_ (foldl_touch _ _ _ ?_)
                 | simp only [touches_mk]; with_reducible refine Touches.made (h := ?_) | (intro _) | (split))

theorem freeFlush_touch (id : Nat) (s : State) : Touches [.map, .pwr] s (freeFlush id s) := by
  unfold freeFlush
  repeat' (first | with_reducible exact Touches.refl _ _ | dsimp only
                 | with_reducible apply Touches.trans ?_ (Touches.mono (journal_touch ..) (by decide))
                 | with_reducible apply Touches.trans ?_ (Touches.mono (releaseSlots_touch ..) (by decide))
                 | simp only [touches_mk]; with_reducible refine Touches.made (h := ?_))

theorem flushRecover_touch (s : State) : Touches [.regs, .free, .map, .mere, .nvq, .pwr] s (flushRecover s) := by
  unfold flushRecover
  repeat' (first | with_reducible exact Touches.refl _ _ | dsimp only | with_reducible apply Touches.ite ?_ ?_
                 | with_reducible apply Touches.trans ?_ (Touches.mono (eachOf_touch ..) (by decide))
                 | with_reducible apply Touches.trans ?_ (Touches.mono (restoreStripe_touch ..) (by decide))
                 | with_reducible apply Touches.trans ?_ (Touches.mono (makeDurable_touch ..) (by decide))
                 | with_reducible apply Touches.trans ?_ (Touches.mono (freeFlush_touch ..) (by decide))
                 | with_reducible apply Touches.trans ?_ (Touches.mono (wr_touch _ _ _ _) (by decide))
                 | with_reducible apply Touches.trans ?_ (eachOf_touch _ _ _ ?_)
                 | with_reducible apply Touches.trans ?_ (foldl_touch _ _ _ ?_)
                 | simp only [touches_mk]; with_reducible refine Touches.made (h := ?_) | (intro _) | (split))

theorem offNote_touch (s0 : State) (read : Bool) (w : List (Nat × Nat)) (l : Nat) (s : State) : Touches [.regs, .free,
    .peat] s (offNote s0 read w l s) := by
  unfold offNote
  repeat' (first | with_reducible exact Touches.refl _ _ | dsimp only | with_reducible apply Touches.ite ?_ ?_
                 | with_reducible apply Touches.trans ?_ (Touches.mono (peatRecord_touch ..) (by decide))
                 | simp only [touches_mk]; with_reducible refine Touches.made (h := ?_) | (intro _) | (split))

theorem offInterval_touch (w : List (Nat × Nat)) (s : State) : Touches [.regs, .free, .peat, .life, .ret, .boot] s
    (offInterval w s) := by
  unfold offInterval
  repeat' (first | with_reducible exact Touches.refl _ _ | dsimp only | with_reducible apply Touches.ite ?_ ?_
                 | with_reducible apply Touches.trans ?_ (Touches.mono (offNote_touch ..) (by decide))
                 | with_reducible apply Touches.trans ?_ (Touches.mono (wr_touch _ _ _ _) (by decide))
                 | with_reducible apply Touches.trans ?_ (Touches.mono (peatRecord_touch ..) (by decide))
                 | with_reducible apply Touches.trans ?_ (eachOf_touch _ _ _ ?_)
                 | with_reducible apply Touches.trans ?_ (foldl_touch _ _ _ ?_)
                 | simp only [touches_mk]; with_reducible refine Touches.made (h := ?_) | (intro _) | (split))

theorem fillReserve_touch (f fuel : Nat) (s : State) : Touches [.map, .pwr] s (fillReserve f fuel s) := by
  induction fuel generalizing f s with
  | zero => unfold fillReserve; repeat' (first | with_reducible exact Touches.refl _ _)
  | succ k ih => unfold fillReserve; repeat' (first | with_reducible exact Touches.refl _ _ | dsimp only
                                                    | with_reducible apply Touches.trans ?_ (ih ..)
                                                    | with_reducible apply Touches.ite ?_ ?_
                                                    | with_reducible apply Touches.trans ?_ (Touches.mono
                                                    (journalStripe_touch ..) (by decide))
                                                    | with_reducible apply Touches.trans ?_ (Touches.mono (openStripe_touch
                                                    (by assumption)) (by decide))
                                                    | simp only [touches_mk]; with_reducible refine Touches.made (h := ?_)
                                                    | (split))

theorem reserveNote_touch (s : State) : Touches [.regs] s (reserveNote s) := by
  unfold reserveNote
  repeat' (first | with_reducible exact Touches.refl _ _
                 | with_reducible apply Touches.trans ?_ (Touches.mono (wrB_touch _ _ _ _) (by decide))
                 | with_reducible apply Touches.trans ?_ (Touches.mono (limitNote_touch ..) (by decide)))

theorem formReserve_touch (s : State) : Touches [.regs, .free, .map, .mere, .nvq, .pwr] s (formReserve s) := by
  unfold formReserve
  repeat' (first | with_reducible exact Touches.refl _ _ | dsimp only | with_reducible apply Touches.ite ?_ ?_
                 | with_reducible apply Touches.trans ?_ (Touches.mono (reserveNote_touch ..) (by decide))
                 | with_reducible apply Touches.trans ?_ (Touches.mono (makeDurable_touch ..) (by decide))
                 | with_reducible apply Touches.trans ?_ (Touches.mono (eachOf_touch ..) (by decide))
                 | with_reducible apply Touches.trans ?_ (Touches.mono (fillReserve_touch ..) (by decide))
                 | with_reducible apply Touches.trans ?_ (eachOf_touch _ _ _ ?_)
                 | with_reducible apply Touches.trans ?_ (foldl_touch _ _ _ ?_)
                 | simp only [touches_mk]; with_reducible refine Touches.made (h := ?_) | (intro _) | (split))

theorem loadKeys_touch (bad : List Nat) (s : State) : Touches [.regs, .free, .peat, .map, .nvq, .cip] s (loadKeys bad s) := by
  unfold loadKeys
  repeat' (first | with_reducible exact Touches.refl _ _ | dsimp only | with_reducible apply Touches.ite ?_ ?_
                 | with_reducible apply Touches.trans ?_ (Touches.mono (peatRecord_touch ..) (by decide))
                 | with_reducible apply Touches.trans ?_ (Touches.mono (labelWrite_touch ..) (by decide))
                 | simp only [touches_mk]; with_reducible refine Touches.made (h := ?_)
                 | with_reducible apply Touches.trans ?_ (eachOf_touch _ _ _ ?_) | (intro _))

theorem peatRenumber_touch (s : State) : Touches [.peat] s (peatRenumber s) := by
  unfold peatRenumber
  repeat' (first | with_reducible exact Touches.refl _ _ | dsimp only | with_reducible apply Touches.ite ?_ ?_
                 | simp only [touches_mk]; with_reducible refine Touches.made (h := ?_))

theorem bootReports_touch (s : State) : Touches [.nvq, .boot] s (bootReports s) := by
  unfold bootReports
  repeat' (first | with_reducible exact Touches.refl _ _ | dsimp only
                 | simp only [touches_mk]; with_reducible refine Touches.made (h := ?_))

theorem judgeAll_touch (s : State) : Touches [.regs, .free, .out, .ret, .map, .nvq] s (judgeAll s) := by
  unfold judgeAll
  repeat' (first | with_reducible exact Touches.refl _ _
                 | with_reducible apply Touches.trans ?_ (Touches.mono (judgeStripe_touch ..) (by decide))
                 | with_reducible apply Touches.trans ?_ (eachOf_touch _ _ _ ?_) | (intro _))

theorem resumeInPlace_touch (s : State) : Touches [.map] s (resumeInPlace s) := by
  unfold resumeInPlace
  repeat' (first | with_reducible exact Touches.refl _ _ | dsimp only | with_reducible apply Touches.ite ?_ ?_
                 | with_reducible apply Touches.trans ?_ (Touches.mono (eachOf_touch ..) (by decide))
                 | with_reducible apply Touches.trans ?_ (Touches.mono (journal_touch ..) (by decide))
                 | with_reducible apply Touches.trans ?_ (eachOf_touch _ _ _ ?_)
                 | with_reducible apply Touches.trans ?_ (foldl_touch _ _ _ ?_)
                 | simp only [touches_mk]; with_reducible refine Touches.made (h := ?_) | (intro _) | (split))

theorem resumeRebuilds_touch (s : State) : Touches [.fen] s (resumeRebuilds s) := by
  unfold resumeRebuilds
  repeat' (first | with_reducible exact Touches.refl _ _ | dsimp only | with_reducible apply Touches.ite ?_ ?_
                 | with_reducible apply Touches.trans ?_ (Touches.mono (eachOf_touch ..) (by decide))
                 | with_reducible apply Touches.trans ?_ (eachOf_touch _ _ _ ?_)
                 | with_reducible apply Touches.trans ?_ (foldl_touch _ _ _ ?_)
                 | simp only [touches_mk]; with_reducible refine Touches.made (h := ?_) | (intro _) | (split))

theorem firstWitness_touch (s : State) : Touches [.ret, .map] s (firstWitness s) := by
  unfold firstWitness
  repeat' (first | with_reducible exact Touches.refl _ _ | dsimp only | with_reducible apply Touches.ite ?_ ?_
                 | with_reducible apply Touches.trans ?_ (Touches.mono (eachOf_touch ..) (by decide))
                 | with_reducible apply Touches.trans ?_ (Touches.mono (witnessFirst_touch ..) (by decide))
                 | with_reducible apply Touches.trans ?_ (eachOf_touch _ _ _ ?_)
                 | with_reducible apply Touches.trans ?_ (foldl_touch _ _ _ ?_)
                 | simp only [touches_mk]; with_reducible refine Touches.made (h := ?_) | (intro _) | (split))

theorem step7_touch (walk : Bool) (archive : Bool) (witness : List (Nat × Nat)) (wrapFailed : List Nat) (s : State) :
    Touches [.regs, .free, .out, .glb, .peat, .life, .ret, .map, .fen, .hew, .mere, .nvq, .cip, .pwr, .boot] s (step7 walk
    archive witness wrapFailed s) := by
  unfold step7
  repeat' (first | with_reducible exact Touches.refl _ _ | dsimp only | with_reducible apply Touches.ite ?_ ?_
                 | with_reducible apply Touches.trans ?_ (Touches.mono (placeMirrors_touch ..) (by decide))
                 | with_reducible apply Touches.trans ?_ (Touches.mono (loadKeys_touch ..) (by decide))
                 | with_reducible apply Touches.trans ?_ (Touches.mono (labelWalk_touch ..) (by decide))
                 | with_reducible apply Touches.trans ?_ (Touches.mono (mapRecover_touch ..) (by decide))
                 | with_reducible apply Touches.trans ?_ (Touches.mono (resolveHalted_touch ..) (by decide))
                 | with_reducible apply Touches.trans ?_ (Touches.mono (resumeRebuilds_touch ..) (by decide))
                 | with_reducible apply Touches.trans ?_ (Touches.mono (resumeInPlace_touch ..) (by decide))
                 | with_reducible apply Touches.trans ?_ (Touches.mono (peatRenumber_touch ..) (by decide))
                 | with_reducible apply Touches.trans ?_ (Touches.mono (flushRecover_touch ..) (by decide))
                 | with_reducible apply Touches.trans ?_ (Touches.mono (wr_touch _ _ _ _) (by decide))
                 | with_reducible apply Touches.trans ?_ (Touches.mono (judgeAll_touch ..) (by decide))
                 | with_reducible apply Touches.trans ?_ (Touches.mono (firstWitness_touch ..) (by decide))
                 | with_reducible apply Touches.trans ?_ (Touches.mono (offInterval_touch ..) (by decide))
                 | with_reducible apply Touches.trans ?_ (Touches.mono (formReserve_touch ..) (by decide))
                 | with_reducible apply Touches.trans ?_ (Touches.mono (bootReports_touch ..) (by decide))
                 | with_reducible apply Touches.trans ?_ (Touches.mono (fenRefresh_touch ..) (by decide))
                 | with_reducible apply Touches.trans ?_ (Touches.mono (peatArchiveAll_touch ..) (by decide))
                 | simp only [touches_mk]; with_reducible refine Touches.made (h := ?_) | (intro _) | (split))

theorem putChan_touch (ch : Nat) (c : Chan) (s : State) : Touches [.mbx] s (putChan ch c s) := by
  unfold putChan
  repeat' (first | with_reducible exact Touches.refl _ _ | dsimp only
                 | simp only [touches_mk]; with_reducible refine Touches.made (h := ?_))

theorem mbxRefuse_touch (p : AccessPath) (off : Nat) (s : State) : Touches [.regs, .free, .out, .peat] s (mbxRefuse p off s)
    := by
  unfold mbxRefuse
  repeat' (first | with_reducible exact Touches.refl _ _ | with_reducible apply Touches.ite ?_ ?_
                 | with_reducible apply Touches.trans ?_ (Touches.mono (emit_touch ..) (by decide))
                 | with_reducible apply Touches.trans ?_ (Touches.mono (accessViolation_touch ..) (by decide)))

theorem mbxWake_touch (receiver : Nat) (s : State) : Touches [.mbx] s (mbxWake receiver s) := by
  unfold mbxWake
  repeat' (first | with_reducible exact Touches.refl _ _ | dsimp only | with_reducible apply Touches.ite ?_ ?_
                 | simp only [touches_mk]; with_reducible refine Touches.made (h := ?_) | (split))

theorem mbxStage_touch (p : AccessPath) (ch w v : Nat) (s : State) : Touches [.regs, .free, .out, .peat, .mbx] s (mbxStage p
    ch w v s) := by
  unfold mbxStage
  repeat' (first | with_reducible exact Touches.refl _ _ | dsimp only | with_reducible apply Touches.ite ?_ ?_
                 | with_reducible apply Touches.trans ?_ (Touches.mono (putChan_touch ..) (by decide))
                 | with_reducible apply Touches.trans ?_ (Touches.mono (mbxRefuse_touch ..) (by decide)))

theorem mbxOverflow_touch (p : AccessPath) (ch : Nat) (s : State) : Touches [.regs, .free, .out, .peat, .nvq] s (mbxOverflow
    p ch s) := by
  unfold mbxOverflow
  repeat' (first | with_reducible exact Touches.refl _ _ | dsimp only | with_reducible apply Touches.ite ?_ ?_
                 | with_reducible apply Touches.trans ?_ (Touches.mono (wr_touch _ _ _ _) (by decide))
                 | with_reducible apply Touches.trans ?_ (Touches.mono (emit_touch ..) (by decide))
                 | with_reducible apply Touches.trans ?_ (Touches.mono (peatRecord_touch ..) (by decide))
                 | with_reducible apply Touches.trans ?_ (Touches.mono (aenPost_touch ..) (by decide)) | (split))

theorem mbxPush_touch (p : AccessPath) (ch v : Nat) (s : State) : Touches [.regs, .free, .out, .peat, .nvq, .mbx] s (mbxPush
    p ch v s) := by
  unfold mbxPush
  repeat' (first | with_reducible exact Touches.refl _ _ | dsimp only | with_reducible apply Touches.ite ?_ ?_
                 | with_reducible apply Touches.trans ?_ (Touches.mono (putChan_touch ..) (by decide))
                 | with_reducible apply Touches.trans ?_ (Touches.mono (mbxRefuse_touch ..) (by decide))
                 | with_reducible apply Touches.trans ?_ (Touches.mono (mbxWake_touch ..) (by decide))
                 | with_reducible apply Touches.trans ?_ (Touches.mono (mbxOverflow_touch ..) (by decide)))

theorem mbxPop_touch (p : AccessPath) (ch : Nat) (s : State) : Touches [.readData, .mbx] s (mbxPop p ch s) := by
  unfold mbxPop
  repeat' (first | with_reducible exact Touches.refl _ _ | dsimp only | with_reducible apply Touches.ite ?_ ?_
                 | with_reducible apply Touches.trans ?_ (Touches.mono (answer_touch ..) (by decide))
                 | with_reducible apply Touches.trans ?_ (Touches.mono (putChan_touch ..) (by decide)))

theorem losePair_touch (p cause : Nat) (s : State) : Touches [.regs, .free, .out, .glb, .peat, .ret, .nvq, .mbx, .upd, .cus]
    s (losePair p cause s) := by
  unfold losePair
  repeat' (first | with_reducible exact Touches.refl _ _ | dsimp only | with_reducible apply Touches.ite ?_ ?_
                 | with_reducible apply Touches.trans ?_ (Touches.mono (wr_touch _ _ _ _) (by decide))
                 | with_reducible apply Touches.trans ?_ (Touches.mono (glbRefresh_touch ..) (by decide))
                 | with_reducible apply Touches.trans ?_ (Touches.mono (faultAbsorbed_touch ..) (by decide))
                 | with_reducible apply Touches.trans ?_ (Touches.mono (pairLostActivation_touch ..) (by decide))
                 | simp only [touches_mk]; with_reducible refine Touches.made (h := ?_))

theorem takeIdentity_touch (i : Nat) (s : State) : Touches [.regs, .free] s (takeIdentity i s) := by
  unfold takeIdentity
  repeat' (first | with_reducible exact Touches.refl _ _ | with_reducible apply Touches.ite ?_ ?_
                 | with_reducible apply Touches.trans ?_ (Touches.mono (wr_touch _ _ _ _) (by decide))
                 | with_reducible apply Touches.trans ?_ (Touches.mono (drawn_touch ..) (by decide)) | (split))

theorem rangeReady_touch (a len : Nat) (s : State) : Touches [.regs, .mere] s (rangeReady a len s) := by
  unfold rangeReady
  repeat' (first | with_reducible exact Touches.refl _ _ | dsimp only | with_reducible apply Touches.ite ?_ ?_
                 | with_reducible apply Touches.trans ?_ (Touches.mono (checkGroups_touch ..) (by decide))
                 | with_reducible apply Touches.trans ?_ (Touches.mono (unpark_touch ..) (by decide))
                 | simp only [touches_mk]; with_reducible refine Touches.made (h := ?_) | (intro _) | (split))

theorem mereReady_touch (a : Nat) (mirror : Option Nat) (len : Nat) (s : State) : Touches [.regs, .mere] s (mereReady a
    mirror len s) := by
  unfold mereReady
  repeat' (first | with_reducible exact Touches.refl _ _ | dsimp only | with_reducible apply Touches.ite ?_ ?_
                 | with_reducible apply Touches.trans ?_ (Touches.mono (rangeReady_touch ..) (by decide))
                 | simp only [touches_mk]; with_reducible refine Touches.made (h := ?_) | (intro _) | (split))

theorem upsets_touch (flips : List (Nat × Nat)) (s : State) : Touches [.mere] s (upsets flips s) := by
  unfold upsets
  repeat' (first | with_reducible exact Touches.refl _ _ | dsimp only | with_reducible apply Touches.ite ?_ ?_
                 | with_reducible apply Touches.trans ?_ (Touches.mono (eachOf_touch ..) (by decide))
                 | with_reducible apply Touches.trans ?_ (Touches.mono (flipGroup_touch ..) (by decide))
                 | with_reducible apply Touches.trans ?_ (Touches.mono (flipBits_touch ..) (by decide))
                 | with_reducible apply Touches.trans ?_ (eachOf_touch _ _ _ ?_)
                 | with_reducible apply Touches.trans ?_ (foldl_touch _ _ _ ?_)
                 | simp only [touches_mk]; with_reducible refine Touches.made (h := ?_) | (intro _) | (split))

theorem mereReadOp_touch (requester a : Nat) (mirror : Option Nat) (len : Nat) (s : State) : Touches [.regs, .free,
    .out, .glb, .peat, .ret, .map, .mere, .nvq] s (mereReadOp requester a mirror len s) := by
  unfold mereReadOp
  repeat' (first | with_reducible exact Touches.refl _ _ | dsimp only | with_reducible apply Touches.ite ?_ ?_
                 | with_reducible apply Touches.trans ?_ (Touches.mono (mereReady_touch ..) (by decide))
                 | with_reducible apply Touches.trans ?_ (Touches.mono (mereFetch_touch ..) (by decide))
                 | with_reducible apply Touches.trans ?_ (Touches.mono (mereFetch_touch' (by assumption)) (by decide))
                 | with_reducible apply Touches.trans ?_ (Touches.mono (emit_touch ..) (by decide))
                 | with_reducible apply Touches.trans ?_ (Touches.mono (mereBusError_touch ..) (by decide))
                 | simp only [touches_mk]; with_reducible refine Touches.made (h := ?_) | (intro _) | (split))

theorem mereWriteOp_touch (requester a : Nat) (mirror : Option Nat) (len v : Nat) (s : State) : Touches [.regs, .free,
    .out, .glb, .peat, .ret, .map, .mere, .nvq] s (mereWriteOp requester a mirror len v s) := by
  unfold mereWriteOp
  repeat' (first | with_reducible exact Touches.refl _ _ | dsimp only | with_reducible apply Touches.ite ?_ ?_
                 | with_reducible apply Touches.trans ?_ (Touches.mono (mereReady_touch ..) (by decide))
                 | with_reducible apply Touches.trans ?_ (Touches.mono (mereStore_touch ..) (by decide))
                 | with_reducible apply Touches.trans ?_ (Touches.mono (mereStore_touch' (by assumption)) (by decide))
                 | with_reducible apply Touches.trans ?_ (Touches.mono (emit_touch ..) (by decide))
                 | with_reducible apply Touches.trans ?_ (Touches.mono (mereBusError_touch ..) (by decide))
                 | simp only [touches_mk]; with_reducible refine Touches.made (h := ?_) | (intro _) | (split))

theorem scrubWord_touch (a : Nat) (s : State) : Touches [.regs, .free, .out, .glb, .peat, .ret, .map, .mere, .nvq] s
    (scrubWord a s) := by
  unfold scrubWord
  repeat' (first | with_reducible exact Touches.refl _ _ | dsimp only
                 | with_reducible apply Touches.trans ?_ (Touches.mono (putWord_touch ..) (by decide))
                 | with_reducible apply Touches.trans ?_ (Touches.mono (noteCheck_touch ..) (by decide)) | (split))

theorem scrubMicroword_touch (word flips : Nat) (s : State) : Touches [.ucs] s (scrubMicroword word flips s) := by
  unfold scrubMicroword
  repeat' (first | with_reducible exact Touches.refl _ _ | dsimp only | with_reducible apply Touches.ite ?_ ?_
                 | with_reducible apply Touches.trans ?_ (Touches.mono (ucPutWord_touch ..) (by decide))
                 | with_reducible apply Touches.trans ?_ (Touches.mono (bankDamaged_touch ..) (by decide))
                 | simp only [touches_mk]; with_reducible refine Touches.made (h := ?_) | (intro _) | (split))

theorem scrubOnDie_touch (memory word flips : Nat) (s : State) : Touches [.regs, .ucs, .mere] s (scrubOnDie memory word
    flips s) := by
  unfold scrubOnDie
  repeat' (first | with_reducible exact Touches.refl _ _ | dsimp only | with_reducible apply Touches.ite ?_ ?_
                 | with_reducible apply Touches.trans ?_ (Touches.mono (checkGroup_touch ..) (by decide))
                 | with_reducible apply Touches.trans ?_ (Touches.mono (flipGroup_touch ..) (by decide))
                 | with_reducible apply Touches.trans ?_ (Touches.mono (scrubMicroword_touch ..) (by decide))
                 | simp only [touches_mk]; with_reducible refine Touches.made (h := ?_) | (intro _) | (split))

theorem ethPortDown_touch (lp : LPort) (s : State) : Touches [.regs, .free, .out, .glb, .peat, .ret, .nvq] s (ethPortDown lp
    s) := by
  unfold ethPortDown
  repeat' (first | with_reducible exact Touches.refl _ _ | dsimp only | with_reducible apply Touches.ite ?_ ?_
                 | with_reducible apply Touches.trans ?_ (Touches.mono (wr_touch _ _ _ _) (by decide))
                 | with_reducible apply Touches.trans ?_ (Touches.mono (glbRefresh_touch ..) (by decide))
                 | with_reducible apply Touches.trans ?_ (Touches.mono (faultAbsorbed_touch ..) (by decide))
                 | with_reducible apply Touches.trans ?_ (Touches.mono (portSettle_touch ..) (by decide)))

theorem pfcNote_touch (l : Nat) (s : State) : Touches [.free, .out, .fab] s (pfcNote l s) := by
  unfold pfcNote
  repeat' (first | with_reducible exact Touches.refl _ _ | dsimp only | with_reducible apply Touches.ite ?_ ?_
                 | with_reducible apply Touches.trans ?_ (Touches.mono (emit_touch ..) (by decide))
                 | with_reducible apply Touches.trans ?_ (Touches.mono (drawn_touch ..) (by decide))
                 | simp only [touches_mk]; with_reducible refine Touches.made (h := ?_))

theorem qpProgress_touch (n : Nat) (q : Qp) (s : State) : Touches [.fab] s (qpProgress n q s) := by
  unfold qpProgress
  repeat' (first | with_reducible exact Touches.refl _ _
                 | with_reducible apply Touches.trans ?_ (Touches.mono (putQp_touch ..) (by decide)))

theorem fabAnswer_touch (qp status value : Nat) (s : State) : Touches [.out] s (fabAnswer qp status value s) := by
  unfold fabAnswer
  repeat' (first | with_reducible exact Touches.refl _ _
                 | with_reducible apply Touches.trans ?_ (Touches.mono (emit_touch ..) (by decide)))

theorem connectBusy_touch (qp : Nat) (noRx : Bool) (s : State) : Touches [.regs, .out] s (connectBusy qp noRx s) := by
  unfold connectBusy
  repeat' (first | with_reducible exact Touches.refl _ _ | with_reducible apply Touches.ite ?_ ?_
                 | with_reducible apply Touches.trans ?_ (Touches.mono (wr_touch _ _ _ _) (by decide))
                 | with_reducible apply Touches.trans ?_ (Touches.mono (fabAnswer_touch ..) (by decide)))

theorem connectAdmin_touch (qp : Nat) (q : Qp) (req : ConnectReq) (h : FabricHost) (s : State) : Touches [.regs, .out, .nvq,
    .fab] s (connectAdmin qp q req h s) := by
  unfold connectAdmin
  repeat' (first | with_reducible exact Touches.refl _ _ | dsimp only | with_reducible apply Touches.ite ?_ ?_
                 | with_reducible apply Touches.trans ?_ (Touches.mono (putCtrl_touch ..) (by decide))
                 | with_reducible apply Touches.trans ?_ (Touches.mono (fabNote_touch ..) (by decide))
                 | with_reducible apply Touches.trans ?_ (Touches.mono (putQp_touch ..) (by decide))
                 | with_reducible apply Touches.trans ?_ (Touches.mono (fabAnswer_touch ..) (by decide))
                 | with_reducible apply Touches.trans ?_ (Touches.mono (connectBusy_touch ..) (by decide))
                 | simp only [touches_mk]; with_reducible refine Touches.made (h := ?_) | (split))

theorem connectIo_touch (qp : Nat) (q : Qp) (req : ConnectReq) (s : State) : Touches [.regs, .out, .nvq, .fab] s (connectIo
    qp q req s) := by
  unfold connectIo
  repeat' (first | with_reducible exact Touches.refl _ _ | dsimp only | with_reducible apply Touches.ite ?_ ?_
                 | with_reducible apply Touches.trans ?_ (Touches.mono (putCtrl_touch ..) (by decide))
                 | with_reducible apply Touches.trans ?_ (Touches.mono (fabNote_touch ..) (by decide))
                 | with_reducible apply Touches.trans ?_ (Touches.mono (putQp_touch ..) (by decide))
                 | with_reducible apply Touches.trans ?_ (Touches.mono (fabAnswer_touch ..) (by decide))
                 | with_reducible apply Touches.trans ?_ (Touches.mono (connectBusy_touch ..) (by decide))
                 | simp only [touches_mk]; with_reducible refine Touches.made (h := ?_) | (split))

theorem addressCommit_touch (s : State) : Touches [.regs, .free, .out, .glb, .peat, .ret, .map, .mere, .nvq, .slu, .fab,
    .dma] s (addressCommit s) := by
  unfold addressCommit
  repeat' (first | with_reducible exact Touches.refl _ _ | dsimp only | with_reducible apply Touches.ite ?_ ?_
                 | with_reducible apply Touches.trans ?_ (Touches.mono (wr_touch _ _ _ _) (by decide))
                 | with_reducible apply Touches.trans ?_ (Touches.mono (assocEndWhere_touch ..) (by decide))
                 | simp only [touches_mk]; with_reducible refine Touches.made (h := ?_))

theorem keepField_touch (old : State) (f : Field) (i : Nat) (s : State) : Touches [.regs] s (keepField old f i s) := by
  unfold keepField
  repeat' (first | with_reducible exact Touches.refl _ _
                 | with_reducible apply Touches.trans ?_ (Touches.mono (wr_touch _ _ _ _) (by decide)))

theorem hewCfgWrite_touch (p : AccessPath) (n off value mask : Nat) (s : State) : Touches [.regs, .free, .peat] s
    (hewCfgWrite p n off value mask s) := by
  unfold hewCfgWrite
  repeat' (first | with_reducible exact Touches.refl _ _ | dsimp only | with_reducible apply Touches.ite ?_ ?_
                 | with_reducible apply Touches.trans ?_ (Touches.mono (maskedWrite_touch ..) (by decide))
                 | with_reducible apply Touches.trans ?_ (Touches.mono (keepField_touch ..) (by decide))
                 | with_reducible apply Touches.trans ?_ (Touches.mono (wr_touch _ _ _ _) (by decide))
                 | simp only [touches_mk]; with_reducible refine Touches.made (h := ?_) | (intro _) | (split))

theorem cipCfgWrite_touch (p : AccessPath) (n off value mask : Nat) (s : State) : Touches [.regs, .free, .out, .glb, .peat,
    .ret, .map, .mere, .nvq, .cip] s (cipCfgWrite p n off value mask s) := by
  unfold cipCfgWrite
  repeat' (first | with_reducible exact Touches.refl _ _ | dsimp only | with_reducible apply Touches.ite ?_ ?_
                 | with_reducible apply Touches.trans ?_ (Touches.mono (cipFetch_touch ..) (by decide))
                 | with_reducible apply Touches.trans ?_ (Touches.mono (maskedWrite_touch ..) (by decide))
                 | with_reducible apply Touches.trans ?_ (Touches.mono (keepField_touch ..) (by decide)))

theorem dmaCfgWrite_touch (p : AccessPath) (n off value mask : Nat) (s : State) : Touches [.regs, .free, .out, .glb, .peat,
    .ret, .map, .mere, .nvq, .dma] s (dmaCfgWrite p n off value mask s) := by
  unfold dmaCfgWrite
  repeat' (first | with_reducible exact Touches.refl _ _ | dsimp only | with_reducible apply Touches.ite ?_ ?_
                 | with_reducible apply Touches.trans ?_ (Touches.mono (maskedWrite_touch ..) (by decide))
                 | with_reducible apply Touches.trans ?_ (Touches.mono (dmaNext_touch ..) (by decide))
                 | with_reducible apply Touches.trans ?_ (Touches.mono (keepField_touch ..) (by decide)))

theorem seamCtlMasked_touch (p : AccessPath) (l off value mask : Nat) (s : State) : Touches [.regs, .free, .out, .glb,
    .peat, .ret, .map, .fen, .ldpc, .hew, .seam, .mere, .nvq, .slu] s (seamCtlMasked p l off value mask s) := by
  unfold seamCtlMasked
  repeat' (first | with_reducible exact Touches.refl _ _ | dsimp only | with_reducible apply Touches.ite ?_ ?_
                 | with_reducible apply Touches.trans ?_ (Touches.mono (maskedWrite_touch ..) (by decide))
                 | with_reducible apply Touches.trans ?_ (Touches.mono (seamRetrainAsk_touch ..) (by decide))
                 | with_reducible apply Touches.trans ?_ (Touches.mono (seamEnable_touch ..) (by decide))
                 | with_reducible apply Touches.trans ?_ (Touches.mono (keepField_touch ..) (by decide)))

theorem snapWrite_touch (p : AccessPath) (i value : Nat) (s : State) : Touches [.regs, .free, .peat] s (snapWrite p i
    value s) := by
  unfold snapWrite
  repeat' (first | with_reducible exact Touches.refl _ _ | dsimp only | with_reducible apply Touches.ite ?_ ?_
                 | with_reducible apply Touches.trans ?_ (Touches.mono (accessViolation_touch ..) (by decide))
                 | simp only [touches_mk]; with_reducible refine Touches.made (h := ?_) | (intro _) | (split))

theorem qosWrite_touch (p : AccessPath) (off value mask : Nat) (s : State) : Touches [.regs, .free, .peat] s (qosWrite p
    off value mask s) := by
  unfold qosWrite
  repeat' (first | with_reducible exact Touches.refl _ _ | dsimp only | with_reducible apply Touches.ite ?_ ?_
                 | with_reducible apply Touches.trans ?_ (Touches.mono (maskedWrite_touch ..) (by decide))
                 | with_reducible apply Touches.trans ?_ (Touches.mono (keepField_touch ..) (by decide))
                 | with_reducible apply Touches.trans ?_ (Touches.mono (accessViolation_touch ..) (by decide))
                 | simp only [touches_mk]; with_reducible refine Touches.made (h := ?_) | (intro _) | (split))

end Sys2Proof.Machine
end

