-- ==== Sys2Proof/Laws/TouchDevice.lean ====
section
/-! SUPPORT. Which parts of the state register accesses, boot and the Custodian change (see TouchBase). -/

-- One theorem after the other: elaborated side by side, their many small side proofs make Lean start hundreds of threads.
set_option Elab.async false

namespace Sys2Proof.Machine

open Sys2Proof

theorem sealCtlWrite_touch (p : AccessPath) (off value mask : Nat) (s : State) : Touches [.regs, .free, .peat, .cfg, .ldpc,
    .ucs, .nvq, .sea] s (sealCtlWrite p off value mask s) := by
  unfold sealCtlWrite
  repeat' (first | with_reducible exact Touches.refl _ _ | dsimp only | with_reducible apply Touches.ite ?_ ?_
                 | with_reducible apply Touches.trans ?_ (Touches.mono (maskedWrite_touch ..) (by decide))
                 | with_reducible apply Touches.trans ?_ (Touches.mono (sealClear_touch ..) (by decide))
                 | with_reducible apply Touches.trans ?_ (Touches.mono (sealSoft_touch ..) (by decide))
                 | with_reducible apply Touches.trans ?_ (Touches.mono (keepField_touch ..) (by decide)))

theorem afterWrite_touch (p : AccessPath) (base i value mask : Nat) (s : State) : Touches [.regs, .free, .out, .glb,
    .peat, .cfg, .ret, .map, .fen, .ucs, .mere, .nvq, .slu, .hif, .fab, .cip, .dma, .mbx, .pwr, .upd, .cus, .boot] s
    (afterWrite p base i value mask s) := by
  unfold afterWrite
  repeat' (first | with_reducible exact Touches.refl _ _ | dsimp only | with_reducible apply Touches.ite ?_ ?_
                 | with_reducible apply Touches.trans ?_ (Touches.mono (lotStart_touch ..) (by decide))
                 | with_reducible apply Touches.trans ?_ (Touches.mono (expertKeyWrite_touch ..) (by decide))
                 | with_reducible apply Touches.trans ?_ (Touches.mono (closeExpert_touch ..) (by decide))
                 | with_reducible apply Touches.trans ?_ (Touches.mono (rebuildPend_touch ..) (by decide))
                 | with_reducible apply Touches.trans ?_ (Touches.mono (fenRefresh_touch ..) (by decide))
                 | with_reducible apply Touches.trans ?_ (Touches.mono (hewTailWrite_touch ..) (by decide))
                 | with_reducible apply Touches.trans ?_ (Touches.mono (cipFetch_touch ..) (by decide))
                 | with_reducible apply Touches.trans ?_ (Touches.mono (dmaNext_touch ..) (by decide))
                 | with_reducible apply Touches.trans ?_ (Touches.mono (dmaCtlWrite_touch ..) (by decide))
                 | with_reducible apply Touches.trans ?_ (Touches.mono (peatArchiveAll_touch ..) (by decide))
                 | with_reducible apply Touches.trans ?_ (Touches.mono (startCheckpoint_touch ..) (by decide))
                 | with_reducible apply Touches.trans ?_ (Touches.mono (dredgeStart_touch ..) (by decide))
                 | with_reducible apply Touches.trans ?_ (Touches.mono (dredgeAbort_touch ..) (by decide))
                 | with_reducible apply Touches.trans ?_ (Touches.mono (losePair_touch ..) (by decide))
                 | with_reducible apply Touches.trans ?_ (Touches.mono (eachOf_touch ..) (by decide))
                 | with_reducible apply Touches.trans ?_ (Touches.mono (fenceStack_touch ..) (by decide))
                 | with_reducible apply Touches.trans ?_ (Touches.mono (htArm_touch ..) (by decide))
                 | with_reducible apply Touches.trans ?_ (Touches.mono (htCancel_touch ..) (by decide))
                 | with_reducible apply Touches.trans ?_ (Touches.mono (addressCommit_touch ..) (by decide))
                 | with_reducible apply Touches.trans ?_ (eachOf_touch _ _ _ ?_)
                 | with_reducible apply Touches.trans ?_ (foldl_touch _ _ _ ?_)
                 | simp only [touches_mk]; with_reducible refine Touches.made (h := ?_) | (intro _) | (split))

theorem blockWrite_touch (p : AccessPath) (off value mask : Nat) (s : State) : Touches [.regs, .free, .out, .glb, .peat,
    .cfg, .ret, .map, .fen, .ldpc, .hew, .ucs, .seam, .mere, .nvq, .slu, .hif, .fab, .cip, .dma, .mbx, .pwr, .sea, .upd,
    .cus, .boot] s (blockWrite p off value mask s) := by
  unfold blockWrite
  repeat' (first | with_reducible exact Touches.refl _ _ | dsimp only | with_reducible apply Touches.ite ?_ ?_
                 | with_reducible apply Touches.trans ?_ (Touches.mono (hewCfgWrite_touch ..) (by decide))
                 | with_reducible apply Touches.trans ?_ (Touches.mono (cipCfgWrite_touch ..) (by decide))
                 | with_reducible apply Touches.trans ?_ (Touches.mono (dmaCfgWrite_touch ..) (by decide))
                 | with_reducible apply Touches.trans ?_ (Touches.mono (seamCtlMasked_touch ..) (by decide))
                 | with_reducible apply Touches.trans ?_ (Touches.mono (sealCtlWrite_touch ..) (by decide))
                 | with_reducible apply Touches.trans ?_ (Touches.mono (peatRlWrite_touch ..) (by decide))
                 | with_reducible apply Touches.trans ?_ (Touches.mono (snapWrite_touch ..) (by decide))
                 | with_reducible apply Touches.trans ?_ (Touches.mono (qosWrite_touch ..) (by decide))
                 | with_reducible apply Touches.trans ?_ (Touches.mono (lotStart_touch ..) (by decide))
                 | with_reducible apply Touches.trans ?_ (Touches.mono (mbxPush_touch ..) (by decide))
                 | with_reducible apply Touches.trans ?_ (Touches.mono (mbxStage_touch ..) (by decide))
                 | with_reducible apply Touches.trans ?_ (Touches.mono (afterWrite_touch ..) (by decide))
                 | with_reducible apply Touches.trans ?_ (Touches.mono (maskedWrite_touch ..) (by decide))
                 | simp only [touches_mk]; with_reducible refine Touches.made (h := ?_) | (intro _) | (split))

theorem reginitEntry_touch (off value mask : Nat) (s : State) : Touches [.regs, .free, .out, .glb, .peat, .cfg, .ret,
    .map, .fen, .ldpc, .hew, .ucs, .seam, .mere, .nvq, .slu, .hif, .fab, .cip, .dma, .mbx, .pwr, .sea, .upd, .cus, .boot] s
    (reginitEntry off value mask s) := by
  unfold reginitEntry
  repeat' (first | with_reducible exact Touches.refl _ _ | dsimp only | with_reducible apply Touches.ite ?_ ?_
                 | with_reducible apply Touches.trans ?_ (Touches.mono (accessViolation_touch ..) (by decide))
                 | with_reducible apply Touches.trans ?_ (Touches.mono (blockWrite_touch ..) (by decide))
                 | simp only [touches_mk]; with_reducible refine Touches.made (h := ?_) | (intro _) | (split))

theorem reginitRun_touch (l : ReginitLot) (s : State) : Touches [.regs, .free, .out, .glb, .peat, .cfg, .ret, .map,
    .fen, .ldpc, .hew, .ucs, .seam, .mere, .nvq, .slu, .hif, .fab, .cip, .dma, .mbx, .pwr, .sea, .upd, .cus, .boot] s
    (reginitRun l s) := by
  unfold reginitRun
  repeat' (first | with_reducible exact Touches.refl _ _ | dsimp only | with_reducible apply Touches.ite ?_ ?_
                 | with_reducible apply Touches.trans ?_ (Touches.mono (eachOf_touch ..) (by decide))
                 | with_reducible apply Touches.trans ?_ (Touches.mono (reginitEntry_touch ..) (by decide))
                 | with_reducible apply Touches.trans ?_ (eachOf_touch _ _ _ ?_)
                 | with_reducible apply Touches.trans ?_ (foldl_touch _ _ _ ?_)
                 | simp only [touches_mk]; with_reducible refine Touches.made (h := ?_) | (intro _) | (split))

theorem cwyTake_touch {ps : List Part} (h : CwyHead) (streams : List Nat) (f : State → Option State) (s : State) (hp : ∀ p ∈
    [Part.regs, .out, .cwy], p ∈ ps) (hf : ∀ s t, f s = some t → Touches ps s t) : Touches ps s (cwyTake h streams f s) := by
  unfold cwyTake; dsimp only; split
  · exact Touches.refl _ _
  · split
    · exact (count_touch _ _ _ _).mono (fun p h => hp p (by revert p; decide))
    · split
      · exact Touches.refl _ _
      · have h0 : Touches ps s (cwyAck h.peer.val h.stream.val h.ack s) :=
          (cwyAck_touch ..).mono (fun p h => hp p (by revert p; decide))
        refine h0.trans ?_
        generalize cwyAck h.peer.val h.stream.val h.ack s = z
        split
        · exact (sendAck_touch ..).mono (fun p h => hp p (by revert p; decide))
        · split
          · next e =>
            refine Touches.trans (Touches.trans ?_ (hf _ _ e)) (Touches.mono (sendAck_touch ..) ?_)
            · exact Touches.mono (putPeer_touch ..) (fun p h => hp p (by revert p; decide))
            · exact (fun p h => hp p (by revert p; decide))
          · exact Touches.refl _ _

theorem holdBytes_touch (p : Piece) (s : State) : Touches [.upd] s (holdBytes p s) := by
  unfold holdBytes
  repeat' (first | with_reducible exact Touches.refl _ _ | dsimp only | with_reducible apply Touches.ite ?_ ?_
                 | simp only [touches_mk]; with_reducible refine Touches.made (h := ?_) | (intro _) | (split))

theorem chainPiece_touch (p : Piece) (s : State) : Touches [.regs, .out, .cfg, .cwy, .upd] s (chainPiece p s) := by
  unfold chainPiece
  repeat' (first | with_reducible exact Touches.refl _ _ | dsimp only | with_reducible apply Touches.ite ?_ ?_
                 | with_reducible apply Touches.trans ?_ (Touches.mono (holdBytes_touch ..) (by decide))
                 | with_reducible apply Touches.trans ?_ (Touches.mono (chainPump_touch ..) (by decide))
                 | with_reducible apply Touches.trans ?_ (Touches.mono (chainReportUp_touch ..) (by decide))
                 | with_reducible apply Touches.trans ?_ (Touches.mono (chainRefuse_touch ..) (by decide))
                 | with_reducible apply Touches.trans ?_ (Touches.mono (downloadPiece_touch ..) (by decide))
                 | with_reducible apply Touches.trans ?_ (Touches.mono (downloadPiece_touch' (by assumption)) (by decide))
                 | simp only [touches_mk]; with_reducible refine Touches.made (h := ?_) | (intro _) | (split))

theorem abortImport_touch (m p : Nat) (s : State) : Touches [.regs, .free, .out, .cwy] s (abortImport m p s) := by
  unfold abortImport
  repeat' (first | with_reducible exact Touches.refl _ _ | dsimp only
                 | with_reducible apply Touches.trans ?_ (Touches.mono (drawn_touch ..) (by decide))
                 | with_reducible apply Touches.trans ?_ (Touches.mono (migEnd_touch ..) (by decide))
                 | with_reducible apply Touches.trans ?_ (Touches.mono (cwySend_touch ..) (by decide)))

theorem importNs_touch (m : Nat) (y : Migration) (msg : MigOpen) (key slot : Nat) (ext : List (Nat × Nat)) (s : State) :
    Touches [.map, .nvq, .cwy, .cip] s (importNs m y msg key slot ext s) := by
  unfold importNs
  repeat' (first | with_reducible exact Touches.refl _ _ | dsimp only | with_reducible apply Touches.ite ?_ ?_
                 | with_reducible apply Touches.trans ?_ (Touches.mono (buildNs_touch ..) (by decide))
                 | with_reducible apply Touches.trans ?_ (Touches.mono (putNs_touch ..) (by decide))
                 | with_reducible apply Touches.trans ?_ (Touches.mono (putMig_touch ..) (by decide))
                 | simp only [touches_mk]; with_reducible refine Touches.made (h := ?_) | (intro _) | (split))

theorem importPtr_touch (nsid g : Nat) (n : Namespace) (s : State) : Touches [.map, .nvq] s (importPtr nsid g n s) := by
  unfold importPtr
  repeat' (first | with_reducible exact Touches.refl _ _ | dsimp only | with_reducible apply Touches.ite ?_ ?_
                 | with_reducible apply Touches.trans ?_ (Touches.mono (zoneAdvance_touch ..) (by decide)))

theorem placeUnit_touch {nsid : Nat} {r : UnitRecord} {s t : State} (h : placeUnit nsid r s = some t) : Touches [.regs, .free, .out,
    .peat, .ret, .map, .mere, .fen, .nvq] s t := by
  unfold placeUnit at h; split at h
  · simp only at h; split at h
    · cases h; exact (declareUnitLost_touch ..).mono (by decide)
    · split at h
      · exact (zeroUnits_touch h).mono (by decide)
      · split at h
        · cases h
        · split at h
          · cases h
          · cases h
            exact Touches.trans ((putDirty_touch ..).mono (by decide)) ((importPtr_touch ..).mono (by decide))
  · cases h; exact Touches.refl _ _

theorem importUnit_touch {m p st : Nat} {r : UnitRecord} {s t : State} (h : importUnit m p st r s = some t) : Touches [.regs,
    .free, .out, .peat, .ret, .map, .mere, .fen, .nvq, .cwy] s t := by
  unfold importUnit at h; split at h
  · cases h; exact Touches.refl _ _
  · split at h
    · simp only at h; split at h
      · cases h
        repeat' (first | (with_reducible exact Touches.refl _ _)
                       | (with_reducible apply Touches.trans ?_ (Touches.mono (putMig_touch ..) (by decide)))
                       | (with_reducible apply Touches.trans ?_ (Touches.mono (count_touch _ _ _ _) (by decide)))
                       | (with_reducible apply Touches.trans ?_ (Touches.mono (cwySend_touch ..) (by decide))) | dsimp only)
      · cases h
        repeat' (first | (with_reducible exact Touches.refl _ _)
                       | (with_reducible apply Touches.trans ?_ (Touches.mono (declareUnitLost_touch ..) (by decide)))
                       | (with_reducible apply Touches.trans ?_ (Touches.mono (putMig_touch ..) (by decide)))
                       | (with_reducible apply Touches.trans ?_ (Touches.mono (count_touch _ _ _ _) (by decide)))
                       | (with_reducible apply Touches.trans ?_ (Touches.mono (cwySend_touch ..) (by decide))) | split
                       | dsimp only)
    · simp only [Option.map_eq_some_iff] at h
      obtain ⟨r, hr, e⟩ := h
      cases e; exact ((placeUnit_touch hr).mono (by decide)).trans ((putMig_touch ..).mono (by decide))

theorem endTracts_touch (m : Nat) (s : State) : Touches [.out, .cwy] s (endTracts m s) := by
  unfold endTracts
  repeat' (first | with_reducible exact Touches.refl _ _ | dsimp only
                 | with_reducible apply Touches.trans ?_ (Touches.mono (putMig_touch ..) (by decide))
                 | with_reducible apply Touches.trans ?_ (Touches.mono (sendAck_touch ..) (by decide))
                 | with_reducible apply Touches.trans ?_ (eachOf_touch _ _ _ ?_) | (intro _) | (split))

theorem patchBank_touch (p : PatchSet) (f : Nat) (s : State) : Touches [.ucs] s (patchBank p f s) := by
  unfold patchBank
  repeat' (first | with_reducible exact Touches.refl _ _ | dsimp only
                 | with_reducible apply Touches.trans ?_ (Touches.mono (ucPutWord_touch ..) (by decide))
                 | with_reducible apply Touches.trans ?_ (Touches.mono (putMaster_touch ..) (by decide))
                 | with_reducible apply Touches.trans ?_ (Touches.mono (loadBank_touch ..) (by decide))
                 | with_reducible apply Touches.trans ?_ (eachOf_touch _ _ _ ?_) | (intro _))

theorem commitRefuse_touch (status err : Nat) (s : State) : Touches [.regs, .nvq, .upd, .cus] s (commitRefuse status err s)
    := by
  unfold commitRefuse
  repeat' (first | with_reducible exact Touches.refl _ _
                 | with_reducible apply Touches.trans ?_ (Touches.mono (wr_touch _ _ _ _) (by decide))
                 | with_reducible apply Touches.trans ?_ (Touches.mono (commitEnd_touch ..) (by decide)))

theorem holdBegins_touch (k : Nat) (s : State) : Touches [.regs, .out, .nvq] s (holdBegins k s) := by
  unfold holdBegins
  repeat' (first | with_reducible exact Touches.refl _ _ | dsimp only
                 | with_reducible apply Touches.trans ?_ (Touches.mono (wr_touch _ _ _ _) (by decide))
                 | with_reducible apply Touches.trans ?_ (Touches.mono (aenPost_touch ..) (by decide))
                 | with_reducible apply Touches.trans ?_ (Touches.mono (setPp_touch ..) (by decide))
                 | simp only [touches_mk]; with_reducible refine Touches.made (h := ?_)
                 | with_reducible apply Touches.trans ?_ (eachOf_touch _ _ _ ?_) | (intro _))

theorem activationBegin_touch (k : Nat) (i : FwImage) (s : State) : Touches [.regs, .free, .out, .peat, .cfg, .nvq,
    .upd, .cus] s (activationBegin k i s) := by
  unfold activationBegin
  repeat' (first | with_reducible exact Touches.refl _ _ | dsimp only | with_reducible apply Touches.ite ?_ ?_
                 | with_reducible apply Touches.trans ?_ (Touches.mono (powerWaitBusy_touch ..) (by decide))
                 | with_reducible apply Touches.trans ?_ (Touches.mono (commitRefuse_touch ..) (by decide))
                 | with_reducible apply Touches.trans ?_ (Touches.mono (holdBegins_touch ..) (by decide))
                 | with_reducible apply Touches.trans ?_ (Touches.mono (peatRecord_touch ..) (by decide))
                 | with_reducible apply Touches.trans ?_ (Touches.mono (wr_touch _ _ _ _) (by decide))
                 | simp only [touches_mk]; with_reducible refine Touches.made (h := ?_) | (intro _) | (split))

theorem commitStore_touch (pend : Bool) (k : Nat) (s : State) : Touches [.regs, .nvq, .upd, .cus] s (commitStore pend k
    s) := by
  unfold commitStore
  repeat' (first | with_reducible exact Touches.refl _ _ | dsimp only | with_reducible apply Touches.ite ?_ ?_
                 | with_reducible apply Touches.trans ?_ (Touches.mono (commitRefuse_touch ..) (by decide))
                 | with_reducible apply Touches.trans ?_ (Touches.mono (commitEnd_touch ..) (by decide))
                 | with_reducible apply Touches.trans ?_ (Touches.mono (putSel_touch ..) (by decide))
                 | simp only [touches_mk]; with_reducible refine Touches.made (h := ?_) | (intro _) | (split))

theorem commitNextReset_touch (k : Nat) (s : State) : Touches [.regs, .nvq, .upd, .cus] s (commitNextReset k s) := by
  unfold commitNextReset
  repeat' (first | with_reducible exact Touches.refl _ _ | dsimp only | with_reducible apply Touches.ite ?_ ?_
                 | with_reducible apply Touches.trans ?_ (Touches.mono (commitEnd_touch ..) (by decide))
                 | with_reducible apply Touches.trans ?_ (Touches.mono (putSel_touch ..) (by decide))
                 | with_reducible apply Touches.trans ?_ (Touches.mono (commitRefuse_touch ..) (by decide))
                 | simp only [touches_mk]; with_reducible refine Touches.made (h := ?_) | (intro _) | (split))

theorem commitNow_touch (k : Nat) (s : State) : Touches [.regs, .free, .out, .peat, .cfg, .nvq, .upd, .cus] s (commitNow
    k s) := by
  unfold commitNow
  repeat' (first | with_reducible exact Touches.refl _ _ | dsimp only | with_reducible apply Touches.ite ?_ ?_
                 | with_reducible apply Touches.trans ?_ (Touches.mono (commitEnd_touch ..) (by decide))
                 | with_reducible apply Touches.trans ?_ (Touches.mono (commitRefuse_touch ..) (by decide))
                 | with_reducible apply Touches.trans ?_ (Touches.mono (activationBegin_touch ..) (by decide))
                 | simp only [touches_mk]; with_reducible refine Touches.made (h := ?_) | (intro _) | (split))

theorem fwCommit_touch (ca fs who : Nat) (s : State) : Touches [.regs, .free, .out, .peat, .cfg, .nvq, .upd, .cus] s
    (fwCommit ca fs who s) := by
  unfold fwCommit
  repeat' (first | with_reducible exact Touches.refl _ _ | dsimp only | with_reducible apply Touches.ite ?_ ?_
                 | with_reducible apply Touches.trans ?_ (Touches.mono (finishCmd_touch ..) (by decide))
                 | with_reducible apply Touches.trans ?_ (Touches.mono (taskEnd_touch ..) (by decide))
                 | with_reducible apply Touches.trans ?_ (Touches.mono (commitEnd_touch ..) (by decide))
                 | with_reducible apply Touches.trans ?_ (Touches.mono (commitStore_touch ..) (by decide))
                 | with_reducible apply Touches.trans ?_ (Touches.mono (commitNextReset_touch ..) (by decide))
                 | with_reducible apply Touches.trans ?_ (Touches.mono (commitNow_touch ..) (by decide))
                 | simp only [touches_mk]; with_reducible refine Touches.made (h := ?_))

theorem commitCmd_touch (n ca : Nat) (s : State) : Touches [.regs, .free, .out, .peat, .cfg, .nvq, .upd, .cus] s (commitCmd n
    ca s) := by
  unfold commitCmd
  repeat' (first | with_reducible exact Touches.refl _ _
                 | with_reducible apply Touches.trans ?_ (Touches.mono (fwCommit_touch ..) (by decide))
                 | with_reducible apply Touches.trans ?_ (withCmd_touch (hp := by decide) (hf := ?_) ..) | (intro _))

theorem askReset_touch (cause : Nat) (s : State) : Touches [.regs, .free, .out, .glb, .peat, .cfg, .ret, .map, .fen, .ldpc,
    .hew, .ucs, .seam, .mere, .nvq, .slu, .hif, .fab, .cwy, .cip, .dma, .mbx, .pwr, .sea, .upd, .cus, .clk, .boot, .tmon] s
    (askReset cause s) := by
  unfold askReset
  repeat' (first | with_reducible exact Touches.refl _ _ | dsimp only | with_reducible apply Touches.ite ?_ ?_
                 | with_reducible apply Touches.trans ?_ (Touches.mono (deviceReset_touch ..) (by decide))
                 | simp only [touches_mk]; with_reducible refine Touches.made (h := ?_))

theorem bootStop_touch (s : State) : Touches [.regs, .glb, .boot] s (bootStop s) := by
  unfold bootStop
  repeat' (first | with_reducible exact Touches.refl _ _ | dsimp only
                 | with_reducible apply Touches.trans ?_ (Touches.mono (glbRefresh_touch ..) (by decide))
                 | with_reducible apply Touches.trans ?_ (Touches.mono (bootNote_touch ..) (by decide))
                 | simp only [touches_mk]; with_reducible refine Touches.made (h := ?_))

theorem autoReset_touch (s : State) : Touches [.regs, .free, .out, .glb, .peat, .cfg, .ret, .map, .fen, .ldpc, .hew, .ucs,
    .seam, .mere, .nvq, .slu, .hif, .fab, .cwy, .cip, .dma, .mbx, .pwr, .sea, .upd, .cus, .clk, .boot, .tmon] s (autoReset s)
    := by
  unfold autoReset
  repeat' (first | with_reducible exact Touches.refl _ _ | dsimp only | with_reducible apply Touches.ite ?_ ?_
                 | with_reducible apply Touches.trans ?_ (Touches.mono (wr_touch _ _ _ _) (by decide))
                 | with_reducible apply Touches.trans ?_ (Touches.mono (askReset_touch ..) (by decide))
                 | with_reducible apply Touches.trans ?_ (Touches.mono (bootStop_touch ..) (by decide)))

theorem noteFailure_touch (k code : Nat) (s : State) : Touches [.regs, .free, .peat, .boot] s (noteFailure k code s) := by
  unfold noteFailure
  repeat' (first | with_reducible exact Touches.refl _ _
                 | with_reducible apply Touches.trans ?_ (Touches.mono (peatRecord_touch ..) (by decide))
                 | with_reducible apply Touches.trans ?_ (Touches.mono (setRecord_touch ..) (by decide)))

theorem tryFails_touch (k code : Nat) (s : State) : Touches [.regs, .free, .out, .glb, .peat, .cfg, .ret, .map, .fen, .ldpc,
    .hew, .ucs, .seam, .mere, .nvq, .slu, .hif, .fab, .cwy, .cip, .dma, .mbx, .pwr, .sea, .upd, .cus, .clk, .boot, .tmon] s
    (tryFails k code s) := by
  unfold tryFails
  repeat' (first | with_reducible exact Touches.refl _ _
                 | with_reducible apply Touches.trans ?_ (Touches.mono (deviceReset_touch ..) (by decide))
                 | with_reducible apply Touches.trans ?_ (Touches.mono (noteFailure_touch ..) (by decide)))

theorem stepFailWith_touch (k code : Nat) (flags : BootRecord → BootRecord) (s : State) : Touches [.regs, .free, .out, .glb,
    .peat, .cfg, .ret, .map, .fen, .ldpc, .hew, .ucs, .seam, .mere, .nvq, .slu, .hif, .fab, .cwy, .cip, .dma, .mbx, .pwr,
    .sea, .upd, .cus, .clk, .boot, .tmon] s (stepFailWith k code flags s) := by
  unfold stepFailWith
  repeat' (first | with_reducible exact Touches.refl _ _ | dsimp only | with_reducible apply Touches.ite ?_ ?_
                 | with_reducible apply Touches.trans ?_ (Touches.mono (setRecord_touch ..) (by decide))
                 | with_reducible apply Touches.trans ?_ (Touches.mono (bootStop_touch ..) (by decide))
                 | with_reducible apply Touches.trans ?_ (Touches.mono (autoReset_touch ..) (by decide))
                 | with_reducible apply Touches.trans ?_ (Touches.mono (noteFailure_touch ..) (by decide)))

theorem stepFail_touch (k code : Nat) (s : State) : Touches [.regs, .free, .out, .glb, .peat, .cfg, .ret, .map, .fen, .ldpc,
    .hew, .ucs, .seam, .mere, .nvq, .slu, .hif, .fab, .cwy, .cip, .dma, .mbx, .pwr, .sea, .upd, .cus, .clk, .boot, .tmon] s
    (stepFail k code s) := by
  unfold stepFail
  repeat' (first | with_reducible exact Touches.refl _ _
                 | with_reducible apply Touches.trans ?_ (Touches.mono (stepFailWith_touch ..) (by decide)))

theorem seamFail_touch (groups : List Nat) (s : State) : Touches [.regs, .free, .out, .glb, .peat, .cfg, .ret, .map, .fen,
    .ldpc, .hew, .ucs, .seam, .mere, .nvq, .slu, .hif, .fab, .cwy, .cip, .dma, .mbx, .pwr, .sea, .upd, .cus, .clk, .boot,
    .tmon] s (seamFail groups s) := by
  unfold seamFail
  repeat' (first | with_reducible exact Touches.refl _ _
                 | with_reducible apply Touches.trans ?_ (Touches.mono (stepFailWith_touch ..) (by decide)))

theorem stepDone_touch (k ms : Nat) (alt : Bool) (s : State) : Touches [.regs, .boot] s (stepDone k ms alt s) := by
  unfold stepDone
  repeat' (first | with_reducible exact Touches.refl _ _ | dsimp only | with_reducible apply Touches.ite ?_ ?_
                 | with_reducible apply Touches.trans ?_ (Touches.mono (setRecord_touch ..) (by decide))
                 | with_reducible apply Touches.trans ?_ (Touches.mono (bootNote_touch ..) (by decide))
                 | simp only [touches_mk]; with_reducible refine Touches.made (h := ?_))

theorem clearFlag_touch (bit : Nat) (s : State) : Touches [.boot] s (clearFlag bit s) := by
  unfold clearFlag
  repeat' (first | with_reducible exact Touches.refl _ _
                 | with_reducible apply Touches.trans ?_ (Touches.mono (setRecord_touch ..) (by decide)))

theorem katFence_touch (u : PoolUnit) (s : State) : Touches [.regs, .free, .out, .glb, .peat, .ret, .ldpc, .nvq] s
    (katFence u s) := by
  unfold katFence
  repeat' (first | with_reducible exact Touches.refl _ _ | dsimp only | with_reducible apply Touches.ite ?_ ?_
                 | with_reducible apply Touches.trans ?_ (Touches.mono (fenceDecoder_touch ..) (by decide))
                 | with_reducible apply Touches.trans ?_ (Touches.mono (fenceCipher_touch ..) (by decide))
                 | simp only [touches_mk]; with_reducible refine Touches.made (h := ?_) | (intro _) | (split))

theorem bootStep1_touch (x : BootFacts) (s : State) : Touches [.regs, .free, .out, .glb, .peat, .ret, .map, .ldpc,
    .mere, .nvq, .boot] s (bootStep1 x s) := by
  unfold bootStep1
  repeat' (first | with_reducible exact Touches.refl _ _ | dsimp only | with_reducible apply Touches.ite ?_ ?_
                 | with_reducible apply Touches.trans ?_ (Touches.mono (wr_touch _ _ _ _) (by decide))
                 | with_reducible apply Touches.trans ?_ (Touches.mono (fenceStack_touch ..) (by decide))
                 | with_reducible apply Touches.trans ?_ (Touches.mono (stepDone_touch ..) (by decide))
                 | with_reducible apply Touches.trans ?_ (Touches.mono (clearFlag_touch ..) (by decide))
                 | with_reducible apply Touches.trans ?_ (Touches.mono (katFence_touch ..) (by decide))
                 | simp only [touches_mk]; with_reducible refine Touches.made (h := ?_)
                 | with_reducible apply Touches.trans ?_ (eachOf_touch _ _ _ ?_) | (intro _))

theorem bootStep2_touch (x : BootFacts) (s : State) : Touches [.regs, .cfg, .upd, .boot] s (bootStep2 x s) := by
  unfold bootStep2
  repeat' (first | with_reducible exact Touches.refl _ _ | dsimp only | with_reducible apply Touches.ite ?_ ?_
                 | with_reducible apply Touches.trans ?_ (Touches.mono (stepDone_touch ..) (by decide))
                 | with_reducible apply Touches.trans ?_ (Touches.mono (clearFlag_touch ..) (by decide))
                 | simp only [touches_mk]; with_reducible refine Touches.made (h := ?_) | (intro _) | (split))

theorem givePairs_touch (s : State) : Touches [.regs] s (givePairs s) := by
  unfold givePairs
  repeat' (first | with_reducible exact Touches.refl _ _
                 | with_reducible apply Touches.trans ?_ (Touches.mono (wr_touch _ _ _ _) (by decide))
                 | with_reducible apply Touches.trans ?_ (eachOf_touch _ _ _ ?_) | (intro _))

theorem bootStep3_touch (x : BootFacts) (s : State) : Touches [.regs, .free, .out, .glb, .peat, .cfg, .ret, .map, .fen,
    .ldpc, .hew, .ucs, .seam, .mere, .nvq, .slu, .hif, .fab, .cwy, .cip, .dma, .mbx, .pwr, .sea, .upd, .cus, .clk, .boot,
    .tmon] s (bootStep3 x s) := by
  unfold bootStep3
  repeat' (first | with_reducible exact Touches.refl _ _ | dsimp only | with_reducible apply Touches.ite ?_ ?_
                 | with_reducible apply Touches.trans ?_ (Touches.mono (tryFails_touch ..) (by decide))
                 | with_reducible apply Touches.trans ?_ (Touches.mono (stepFail_touch ..) (by decide))
                 | with_reducible apply Touches.trans ?_ (Touches.mono (stepDone_touch ..) (by decide))
                 | with_reducible apply Touches.trans ?_ (Touches.mono (givePairs_touch ..) (by decide))
                 | simp only [touches_mk]; with_reducible refine Touches.made (h := ?_))

theorem bootPatch_touch (s : State) : Touches [.regs, .free, .peat, .ucs] s (bootPatch s) := by
  unfold bootPatch
  repeat' (first | with_reducible exact Touches.refl _ _
                 | with_reducible apply Touches.trans ?_ (Touches.mono (wr_touch _ _ _ _) (by decide))
                 | with_reducible apply Touches.trans ?_ (Touches.mono (peatRecord_touch ..) (by decide))
                 | with_reducible apply Touches.trans ?_ (Touches.mono (askSwitch_touch ..) (by decide))
                 | with_reducible apply Touches.trans ?_ (Touches.mono (patchBank_touch ..) (by decide))
                 | with_reducible apply Touches.trans ?_ (eachOf_touch _ _ _ ?_) | (intro _) | (split))

theorem runReginit_touch (i : TwimaImage) (s : State) : Touches [.regs, .free, .out, .glb, .peat, .cfg, .ret, .map, .fen,
    .ldpc, .hew, .ucs, .seam, .mere, .nvq, .slu, .hif, .fab, .cip, .dma, .mbx, .pwr, .sea, .upd, .cus, .boot] s (runReginit i
    s) := by
  unfold runReginit
  repeat' (first | with_reducible exact Touches.refl _ _
                 | with_reducible apply Touches.trans ?_ (Touches.mono (wr_touch _ _ _ _) (by decide))
                 | with_reducible apply Touches.trans ?_ (Touches.mono (reginitRun_touch ..) (by decide)))

theorem twimaApply_touch (i : TwimaImage) (backup : Bool) (s : State) : Touches [.regs, .free, .out, .glb, .peat, .cfg, .ret,
    .map, .fen, .ldpc, .hew, .ucs, .seam, .mere, .nvq, .slu, .hif, .fab, .cip, .dma, .mbx, .pwr, .sea, .upd, .cus, .boot] s
    (twimaApply i backup s) := by
  unfold twimaApply
  repeat' (first | with_reducible exact Touches.refl _ _ | dsimp only
                 | with_reducible apply Touches.trans ?_ (Touches.mono (wr_touch _ _ _ _) (by decide))
                 | with_reducible apply Touches.trans ?_ (Touches.mono (wrB_touch _ _ _ _) (by decide))
                 | with_reducible apply Touches.trans ?_ (Touches.mono (logClamps_touch ..) (by decide))
                 | with_reducible apply Touches.trans ?_ (Touches.mono (resNote_touch ..) (by decide))
                 | with_reducible apply Touches.trans ?_ (Touches.mono (renewNonce_touch ..) (by decide))
                 | with_reducible apply Touches.trans ?_ (Touches.mono (writeBank_touch ..) (by decide))
                 | with_reducible apply Touches.trans ?_ (Touches.mono (htBoot_touch ..) (by decide))
                 | with_reducible apply Touches.trans ?_ (Touches.mono (putChan_touch ..) (by decide))
                 | with_reducible apply Touches.trans ?_ (Touches.mono (bootPatch_touch ..) (by decide))
                 | with_reducible apply Touches.trans ?_ (Touches.mono (runReginit_touch ..) (by decide))
                 | simp only [touches_mk]; with_reducible refine Touches.made (h := ?_)
                 | with_reducible apply Touches.trans ?_ (eachOf_touch _ _ _ ?_) | (intro _))

theorem imageRefused_touch (which code : Nat) (s : State) : Touches [.regs, .free, .peat, .boot] s (imageRefused which code
    s) := by
  unfold imageRefused
  repeat' (first | with_reducible exact Touches.refl _ _
                 | with_reducible apply Touches.trans ?_ (Touches.mono (wr_touch _ _ _ _) (by decide))
                 | with_reducible apply Touches.trans ?_ (Touches.mono (peatRecord_touch ..) (by decide))
                 | with_reducible apply Touches.trans ?_ (Touches.mono (setRecord_touch ..) (by decide)))

theorem applyBackup_touch (x : BootFacts) (s : State) : Touches [.regs, .free, .out, .glb, .peat, .cfg, .ret, .map, .fen,
    .ldpc, .hew, .ucs, .seam, .mere, .nvq, .slu, .hif, .fab, .cip, .dma, .mbx, .pwr, .sea, .upd, .cus, .boot] s (applyBackup
    x s) := by
  unfold applyBackup
  repeat' (first | with_reducible exact Touches.refl _ _ | dsimp only
                 | with_reducible apply Touches.trans ?_ (Touches.mono (setRecord_touch ..) (by decide))
                 | with_reducible apply Touches.trans ?_ (Touches.mono (bootStop_touch ..) (by decide))
                 | with_reducible apply Touches.trans ?_ (Touches.mono (noteFailure_touch ..) (by decide))
                 | with_reducible apply Touches.trans ?_ (Touches.mono (stepDone_touch ..) (by decide))
                 | with_reducible apply Touches.trans ?_ (Touches.mono (twimaApply_touch ..) (by decide))
                 | with_reducible apply Touches.trans ?_ (Touches.mono (imageRefused_touch ..) (by decide)) | (split))

theorem bootStep4_touch (x : BootFacts) (s : State) : Touches [.regs, .free, .out, .glb, .peat, .cfg, .ret, .map, .fen,
    .ldpc, .hew, .ucs, .seam, .mere, .nvq, .slu, .hif, .fab, .cip, .dma, .mbx, .pwr, .sea, .upd, .cus, .boot] s (bootStep4 x
    s) := by
  unfold bootStep4
  repeat' (first | with_reducible exact Touches.refl _ _ | with_reducible apply Touches.ite ?_ ?_
                 | with_reducible apply Touches.trans ?_ (Touches.mono (stepDone_touch ..) (by decide))
                 | with_reducible apply Touches.trans ?_ (Touches.mono (twimaApply_touch ..) (by decide))
                 | with_reducible apply Touches.trans ?_ (Touches.mono (imageRefused_touch ..) (by decide))
                 | with_reducible apply Touches.trans ?_ (Touches.mono (applyBackup_touch ..) (by decide)) | (split))

theorem seamBegin_touch (s : State) : Touches [.regs, .free, .out, .glb, .peat, .ret, .map, .fen, .ldpc, .hew, .seam,
    .mere, .nvq, .slu] s (seamBegin s) := by
  unfold seamBegin
  repeat' (first | with_reducible exact Touches.refl _ _ | dsimp only | with_reducible apply Touches.ite ?_ ?_
                 | with_reducible apply Touches.trans ?_ (Touches.mono (wr_touch _ _ _ _) (by decide))
                 | with_reducible apply Touches.trans ?_ (Touches.mono (seamEnable_touch ..) (by decide))
                 | with_reducible apply Touches.trans ?_ (eachOf_touch _ _ _ ?_) | (intro _))

theorem trainStack_touch (x : BootFacts) (k : Nat) (s : State) : Touches [.regs, .free, .out, .glb, .peat, .ret, .map, .mere,
    .nvq, .boot] s (trainStack x k s) := by
  unfold trainStack
  repeat' (first | with_reducible exact Touches.refl _ _ | with_reducible apply Touches.ite ?_ ?_
                 | with_reducible apply Touches.trans ?_ (Touches.mono (wr_touch _ _ _ _) (by decide))
                 | with_reducible apply Touches.trans ?_ (Touches.mono (fenceStack_touch ..) (by decide))
                 | with_reducible apply Touches.trans ?_ (Touches.mono (setRecord_touch ..) (by decide))
                 | with_reducible apply Touches.trans ?_ (Touches.mono (noteFailure_touch ..) (by decide)))

theorem bootStep5_touch (x : BootFacts) (s : State) : Touches [.regs, .free, .out, .glb, .peat, .ret, .map, .fen, .ldpc,
    .hew, .seam, .mere, .nvq, .slu, .boot] s (bootStep5 x s) := by
  unfold bootStep5
  repeat' (first | with_reducible exact Touches.refl _ _ | dsimp only | with_reducible apply Touches.ite ?_ ?_
                 | with_reducible apply Touches.trans ?_ (Touches.mono (wr_touch _ _ _ _) (by decide))
                 | with_reducible apply Touches.trans ?_ (Touches.mono (bootStop_touch ..) (by decide))
                 | with_reducible apply Touches.trans ?_ (Touches.mono (stepDone_touch ..) (by decide))
                 | with_reducible apply Touches.trans ?_ (Touches.mono (seamBegin_touch ..) (by decide))
                 | with_reducible apply Touches.trans ?_ (Touches.mono (trainStack_touch ..) (by decide))
                 | with_reducible apply Touches.trans ?_ (eachOf_touch _ _ _ ?_) | (intro _))

theorem bootStep6_touch (x : BootFacts) (s : State) : Touches [.regs, .free, .out, .glb, .peat, .cfg, .ret, .map, .fen,
    .ldpc, .hew, .ucs, .seam, .mere, .nvq, .slu, .hif, .fab, .cwy, .cip, .dma, .mbx, .pwr, .sea, .upd, .cus, .clk, .boot,
    .tmon] s (bootStep6 x s) := by
  unfold bootStep6
  repeat' (first | with_reducible exact Touches.refl _ _ | dsimp only | with_reducible apply Touches.ite ?_ ?_
                 | with_reducible apply Touches.trans ?_ (Touches.mono (wrB_touch _ _ _ _) (by decide))
                 | with_reducible apply Touches.trans ?_ (Touches.mono (fenRefresh_touch ..) (by decide))
                 | with_reducible apply Touches.trans ?_ (Touches.mono (setRecord_touch ..) (by decide))
                 | with_reducible apply Touches.trans ?_ (Touches.mono (seamFail_touch ..) (by decide))
                 | with_reducible apply Touches.trans ?_ (Touches.mono (stepDone_touch ..) (by decide))
                 | simp only [touches_mk]; with_reducible refine Touches.made (h := ?_)
                 | with_reducible apply Touches.trans ?_ (eachOf_touch _ _ _ ?_) | (intro _) | (split))

theorem sanitizeResume_touch (s : State) : Touches [.regs, .free, .ret, .map, .fen, .mere, .nvq, .slu, .cip] s
    (sanitizeResume s) := by
  unfold sanitizeResume
  repeat' (first | with_reducible exact Touches.refl _ _ | dsimp only | with_reducible apply Touches.ite ?_ ?_
                 | with_reducible apply Touches.trans ?_ (Touches.mono (eachOf_touch ..) (by decide))
                 | with_reducible apply Touches.trans ?_ (Touches.mono (unmapNs_touch ..) (by decide))
                 | with_reducible apply Touches.trans ?_ (Touches.mono (newKey_touch ..) (by decide))
                 | with_reducible apply Touches.trans ?_ (Touches.mono (newKey_touch' (by assumption)) (by decide))
                 | with_reducible apply Touches.trans ?_ (Touches.mono (rekey_touch ..) (by decide))
                 | with_reducible apply Touches.trans ?_ (Touches.mono (putKeySlot_touch ..) (by decide))
                 | with_reducible apply Touches.trans ?_ (Touches.mono (labelErase_touch ..) (by decide))
                 | with_reducible apply Touches.trans ?_ (eachOf_touch _ _ _ ?_)
                 | with_reducible apply Touches.trans ?_ (foldl_touch _ _ _ ?_)
                 | simp only [touches_mk]; with_reducible refine Touches.made (h := ?_) | (intro _) | (split))

theorem bootStep7_touch (x : BootFacts) (s : State) : Touches [.regs, .free, .out, .glb, .peat, .cfg, .life, .ret, .map,
    .fen, .ldpc, .hew, .ucs, .seam, .mere, .nvq, .slu, .hif, .fab, .cwy, .cip, .dma, .mbx, .pwr, .sea, .upd, .cus, .clk,
    .boot, .tmon] s (bootStep7 x s) := by
  unfold bootStep7
  repeat' (first | with_reducible exact Touches.refl _ _ | dsimp only | with_reducible apply Touches.ite ?_ ?_
                 | with_reducible apply Touches.trans ?_ (Touches.mono (stepFail_touch ..) (by decide))
                 | with_reducible apply Touches.trans ?_ (Touches.mono (sanitizeResume_touch ..) (by decide))
                 | with_reducible apply Touches.trans ?_ (Touches.mono (step7_touch ..) (by decide))
                 | with_reducible apply Touches.trans ?_ (Touches.mono (stepDone_touch ..) (by decide))
                 | simp only [touches_mk]; with_reducible refine Touches.made (h := ?_) | (intro _) | (split))

theorem sealBoot_touch (a b : Bool) (s : State) : Touches [.regs, .sea] s (sealBoot a b s) := by
  unfold sealBoot
  repeat' (first | with_reducible exact Touches.refl _ _ | dsimp only
                 | with_reducible apply Touches.trans ?_ (Touches.mono (wrB_touch _ _ _ _) (by decide))
                 | with_reducible apply Touches.trans ?_ (Touches.mono (sealStat_touch ..) (by decide))
                 | simp only [touches_mk]; with_reducible refine Touches.made (h := ?_))

theorem heldWrites_touch (l f : Nat) (s : State) : Touches [.regs, .free, .out, .nvq, .slu, .hif] s (heldWrites l f s) := by
  unfold heldWrites
  repeat' (first | with_reducible exact Touches.refl _ _ | dsimp only
                 | with_reducible apply Touches.trans ?_ (Touches.mono (putCtrl_touch ..) (by decide))
                 | with_reducible apply Touches.trans ?_ (Touches.mono (ccWrite_touch ..) (by decide))
                 | with_reducible apply Touches.trans ?_ (Touches.mono (putFunc_touch ..) (by decide))
                 | with_reducible apply Touches.trans ?_ (eachOf_touch _ _ _ ?_) | (intro _) | (split))

theorem createControllers_touch (s : State) : Touches [.regs, .free, .out, .nvq, .slu, .hif] s (createControllers s) := by
  unfold createControllers
  repeat' (first | with_reducible exact Touches.refl _ _
                 | with_reducible apply Touches.trans ?_ (Touches.mono (createPcie_touch ..) (by decide))
                 | with_reducible apply Touches.trans ?_ (Touches.mono (heldWrites_touch ..) (by decide))
                 | with_reducible apply Touches.trans ?_ (eachOf_touch _ _ _ ?_) | (intro _))

theorem loadAddrs_touch (s : State) : Touches [.fab] s (loadAddrs s) := by
  unfold loadAddrs
  repeat' (first | with_reducible exact Touches.refl _ _ | dsimp only
                 | simp only [touches_mk]; with_reducible refine Touches.made (h := ?_))

theorem cwyBegin_touch (s : State) : Touches [.free, .out, .cwy] s (cwyBegin s) := by
  unfold cwyBegin
  repeat' (first | with_reducible exact Touches.refl _ _ | with_reducible apply Touches.ite ?_ ?_
                 | with_reducible apply Touches.trans ?_ (Touches.mono (sendHello_touch ..) (by decide))
                 | with_reducible apply Touches.trans ?_ (eachOf_touch _ _ _ ?_) | (intro _))

theorem confirmTry_touch (s : State) : Touches [.regs, .upd] s (confirmTry s) := by
  unfold confirmTry
  repeat' (first | with_reducible exact Touches.refl _ _ | dsimp only | with_reducible apply Touches.ite ?_ ?_
                 | with_reducible apply Touches.trans ?_ (Touches.mono (putSel_touch ..) (by decide))
                 | with_reducible apply Touches.trans ?_ (Touches.mono (wr_touch _ _ _ _) (by decide))
                 | simp only [touches_mk]; with_reducible refine Touches.made (h := ?_) | (intro _) | (split))

theorem bootNotices_touch (s : State) : Touches [.out, .nvq, .boot] s (bootNotices s) := by
  unfold bootNotices
  repeat' (first | with_reducible exact Touches.refl _ _ | dsimp only | with_reducible apply Touches.ite ?_ ?_
                 | with_reducible apply Touches.trans ?_ (Touches.mono (aenPost_touch ..) (by decide))
                 | with_reducible apply Touches.trans ?_ (Touches.mono (vendorNotice_touch ..) (by decide))
                 | simp only [touches_mk]; with_reducible refine Touches.made (h := ?_)
                 | with_reducible apply Touches.trans ?_ (eachOf_touch _ _ _ ?_) | (intro _))

theorem bootStep8_touch (x : BootFacts) (s : State) : Touches [.regs, .free, .out, .glb, .peat, .ret, .map, .fen, .seam,
    .nvq, .slu, .hif, .fab, .cwy, .sea, .upd, .boot] s (bootStep8 x s) := by
  unfold bootStep8
  repeat' (first | with_reducible exact Touches.refl _ _ | dsimp only | with_reducible apply Touches.ite ?_ ?_
                 | with_reducible apply Touches.trans ?_ (Touches.mono (wr_touch _ _ _ _) (by decide))
                 | with_reducible apply Touches.trans ?_ (Touches.mono (glbRefresh_touch ..) (by decide))
                 | with_reducible apply Touches.trans ?_ (Touches.mono (memberAbsent_touch ..) (by decide))
                 | with_reducible apply Touches.trans ?_ (Touches.mono (startCheckpoint_touch ..) (by decide))
                 | with_reducible apply Touches.trans ?_ (Touches.mono (stepDone_touch ..) (by decide))
                 | with_reducible apply Touches.trans ?_ (Touches.mono (clearFlag_touch ..) (by decide))
                 | with_reducible apply Touches.trans ?_ (Touches.mono (sealBoot_touch ..) (by decide))
                 | with_reducible apply Touches.trans ?_ (Touches.mono (createControllers_touch ..) (by decide))
                 | with_reducible apply Touches.trans ?_ (Touches.mono (loadAddrs_touch ..) (by decide))
                 | with_reducible apply Touches.trans ?_ (Touches.mono (cwyBegin_touch ..) (by decide))
                 | with_reducible apply Touches.trans ?_ (Touches.mono (confirmTry_touch ..) (by decide))
                 | with_reducible apply Touches.trans ?_ (Touches.mono (bootNotices_touch ..) (by decide))
                 | with_reducible apply Touches.trans ?_ (eachOf_touch _ _ _ ?_) | (intro _))

theorem bootResetWrite_touch (p : AccessPath) (v : Nat) (s : State) : Touches [.regs, .free, .out, .glb, .peat, .cfg, .ret,
    .map, .fen, .ldpc, .hew, .ucs, .seam, .mere, .nvq, .slu, .hif, .fab, .cwy, .cip, .dma, .mbx, .pwr, .sea, .upd, .cus,
    .clk, .boot, .tmon] s (bootResetWrite p v s) := by
  unfold bootResetWrite
  repeat' (first | with_reducible exact Touches.refl _ _ | with_reducible apply Touches.ite ?_ ?_
                 | with_reducible apply Touches.trans ?_ (Touches.mono (regWrite_touch ..) (by decide))
                 | with_reducible apply Touches.trans ?_ (Touches.mono (askReset_touch ..) (by decide)))

theorem programBoard_touch (b : BoardContent) (s : State) : Touches [.cfg, .upd, .cus, .boot] s (programBoard b s) := by
  unfold programBoard
  repeat' (first | with_reducible exact Touches.refl _ _ | dsimp only | with_reducible apply Touches.ite ?_ ?_
                 | with_reducible apply Touches.trans ?_ (eachOf_touch _ _ _ ?_)
                 | with_reducible apply Touches.trans ?_ (foldl_touch _ _ _ ?_)
                 | simp only [touches_mk]; with_reducible refine Touches.made (h := ?_) | (intro _) | (split))

theorem testMode_touch (s : State) : Touches [.regs, .glb, .boot] s (testMode s) := by
  unfold testMode
  repeat' (first | with_reducible exact Touches.refl _ _ | dsimp only | with_reducible apply Touches.ite ?_ ?_
                 | with_reducible apply Touches.trans ?_ (Touches.mono (bootStop_touch ..) (by decide))
                 | simp only [touches_mk]; with_reducible refine Touches.made (h := ?_))

theorem clkPresent_touch (c : RefClock) (v : Bool) (s : State) : Touches [.regs] s (clkPresent c v s) := by
  unfold clkPresent
  repeat' (first | with_reducible exact Touches.refl _ _
                 | with_reducible apply Touches.trans ?_ (Touches.mono (wrB_touch _ _ _ _) (by decide))
                 | with_reducible apply Touches.trans ?_ (Touches.mono (wrBit_touch _ _ _ _ _) (by decide)) | (split))

theorem clkLock_touch (c : RefClock) (s : State) : Touches [.regs] s (clkLock c s) := by
  unfold clkLock
  repeat' (first | with_reducible exact Touches.refl _ _
                 | with_reducible apply Touches.trans ?_ (Touches.mono (wr_touch _ _ _ _) (by decide))
                 | with_reducible apply Touches.trans ?_ (Touches.mono (wrBit_touch _ _ _ _ _) (by decide)) | (split))

theorem clkLoss_touch (c : RefClock) (s : State) : Touches [.regs, .free, .out, .glb, .peat, .cfg, .ret, .map, .seam, .mere,
    .nvq, .slu, .hif, .dma] s (clkLoss c s) := by
  unfold clkLoss
  repeat' (first | with_reducible exact Touches.refl _ _ | dsimp only | with_reducible apply Touches.ite ?_ ?_
                 | with_reducible apply Touches.trans ?_ (Touches.mono (wr_touch _ _ _ _) (by decide))
                 | with_reducible apply Touches.trans ?_ (Touches.mono (wrBit_touch _ _ _ _ _) (by decide))
                 | with_reducible apply Touches.trans ?_ (Touches.mono (linkDown_touch ..) (by decide))
                 | with_reducible apply Touches.trans ?_ (Touches.mono (groupLost_touch ..) (by decide))
                 | with_reducible apply Touches.trans ?_ (Touches.mono (ethPortDown_touch ..) (by decide))
                 | with_reducible apply Touches.trans ?_ (eachOf_touch _ _ _ ?_) | (intro _) | (split))

theorem cusNonce_touch (s : State) : Touches [.free, .cus] s (cusNonce s) := by
  unfold cusNonce
  repeat' (first | with_reducible exact Touches.refl _ _ | dsimp only
                 | simp only [touches_mk]; with_reducible refine Touches.made (h := ?_))

theorem openCus_touch (s : State) : Touches [.free, .cfg, .cus] s (openCus s) := by
  unfold openCus
  repeat' (first | with_reducible exact Touches.refl _ _ | dsimp only | with_reducible apply Touches.ite ?_ ?_
                 | with_reducible apply Touches.trans ?_ (Touches.mono (closeSession_touch ..) (by decide))
                 | with_reducible apply Touches.trans ?_ (Touches.mono (cusNonce_touch ..) (by decide))
                 | simp only [touches_mk]; with_reducible refine Touches.made (h := ?_))

theorem cusFail_touch (s : State) : Touches [.regs, .free, .peat, .cus] s (cusFail s) := by
  unfold cusFail
  repeat' (first | with_reducible exact Touches.refl _ _ | dsimp only
                 | with_reducible apply Touches.trans ?_ (Touches.mono (wr_touch _ _ _ _) (by decide))
                 | with_reducible apply Touches.trans ?_ (Touches.mono (peatRecord_touch ..) (by decide))
                 | with_reducible apply Touches.trans ?_ (Touches.mono (cusNonce_touch ..) (by decide))
                 | simp only [touches_mk]; with_reducible refine Touches.made (h := ?_))

theorem sessionWord_touch (w : Nat) (s : State) : Touches [.regs, .free, .peat, .cfg, .cus] s (sessionWord w s) := by
  unfold sessionWord
  repeat' (first | with_reducible exact Touches.refl _ _ | dsimp only | with_reducible apply Touches.ite ?_ ?_
                 | with_reducible apply Touches.trans ?_ (Touches.mono (peatRecord_touch ..) (by decide))
                 | with_reducible apply Touches.trans ?_ (Touches.mono (openCus_touch ..) (by decide))
                 | with_reducible apply Touches.trans ?_ (Touches.mono (cusFail_touch ..) (by decide))
                 | simp only [touches_mk]; with_reducible refine Touches.made (h := ?_))

theorem sessionClose_touch (s : State) : Touches [.cfg, .cus] s (sessionClose s) := by
  unfold sessionClose
  repeat' (first | with_reducible exact Touches.refl _ _ | with_reducible apply Touches.ite ?_ ?_
                 | with_reducible apply Touches.trans ?_ (Touches.mono (closeSession_touch ..) (by decide)))

theorem fillBuf_touch (w n v : Nat) (s : State) : Touches [.regs] s (fillBuf w n v s) := by
  unfold fillBuf
  repeat' (first | with_reducible exact Touches.refl _ _
                 | with_reducible apply Touches.trans ?_ (Touches.mono (wr_touch _ _ _ _) (by decide))
                 | with_reducible apply Touches.trans ?_ (foldl_touch _ _ _ ?_) | (intro _))

theorem setRes_touch (i v : Nat) (s : State) : Touches [.regs] s (setRes i v s) := by
  unfold setRes
  repeat' (first | with_reducible exact Touches.refl _ _
                 | with_reducible apply Touches.trans ?_ (Touches.mono (wr_touch _ _ _ _) (by decide)))

theorem setRes64_touch (i v : Nat) (s : State) : Touches [.regs] s (setRes64 i v s) := by
  unfold setRes64
  repeat' (first | with_reducible exact Touches.refl _ _
                 | with_reducible apply Touches.trans ?_ (Touches.mono (setRes_touch ..) (by decide)))

theorem taskGo_touch {ps : List Part} (op : Nat) (body : State → State) (s : State) (hp : ∀ p ∈ [Part.regs, .free, .peat,
    .cus], p ∈ ps) (hf : ∀ s, Touches ps s (body s)) : Touches ps s (taskGo op body s) := by
  unfold taskGo; split
  · exact (accessViolation_touch ..).mono (fun p h => hp p (by revert p; decide))
  · simp only; split
    · refine Touches.mono (qs := [.regs, .cus]) ?_ (fun p h => hp p (by revert p; decide))
      repeat' (first | (with_reducible exact Touches.refl _ _)
                     | (with_reducible apply Touches.trans ?_ (Touches.mono (taskEnd_touch ..) (by decide)))
                     | (with_reducible apply Touches.trans ?_ (Touches.mono (wr_touch _ _ _ _) (by decide)))
                     | (simp only [touches_mk]; with_reducible refine Touches.made (h := ?_)) | dsimp only)
    · refine Touches.trans ?_ (hf _)
      refine Touches.mono (qs := [.regs, .cus]) ?_ (fun p h => hp p (by revert p; decide))
      repeat' (first | (with_reducible exact Touches.refl _ _)
                     | (with_reducible apply Touches.trans ?_ (Touches.mono (wr_touch _ _ _ _) (by decide)))
                     | (simp only [touches_mk]; with_reducible refine Touches.made (h := ?_)) | dsimp only)

theorem taskDone_touch (r : Nat × State) : Touches [.regs, .cus] r.2 (taskDone r) := by
  unfold taskDone; exact (taskEnd_touch ..).mono (by decide)

theorem taskLifeRead_touch (s : State) : Touches [.regs, .cus] s (taskLifeRead s) := by
  unfold taskLifeRead
  repeat' (first | with_reducible exact Touches.refl _ _ | dsimp only
                 | with_reducible apply Touches.trans ?_ (Touches.mono (taskEnd_touch ..) (by decide))
                 | with_reducible apply Touches.trans ?_ (Touches.mono (setRes_touch ..) (by decide))
                 | with_reducible apply Touches.trans ?_ (Touches.mono (setRes64_touch ..) (by decide)))

theorem taskLifeSetUtc_touch (s : State) : Touches [.regs, .life, .cus] s (taskLifeSetUtc s) := by
  unfold taskLifeSetUtc
  repeat' (first | with_reducible exact Touches.refl _ _ | dsimp only
                 | with_reducible apply Touches.trans ?_ (Touches.mono (taskEnd_touch ..) (by decide))
                 | simp only [touches_mk]; with_reducible refine Touches.made (h := ?_))

theorem taskSeal_touch (s : State) : Touches [.regs, .free, .peat, .cfg, .ldpc, .ucs, .nvq, .sea, .cus] s (taskSeal s) := by
  unfold taskSeal
  repeat' (first | with_reducible exact Touches.refl _ _ | dsimp only | with_reducible apply Touches.ite ?_ ?_
                 | with_reducible apply Touches.trans ?_ (Touches.mono (taskEnd_touch ..) (by decide))
                 | with_reducible apply Touches.trans ?_ (Touches.mono (sealClear_touch ..) (by decide))
                 | with_reducible apply Touches.trans ?_ (Touches.mono (sealSoft_touch ..) (by decide))
                 | with_reducible apply Touches.trans ?_ (Touches.mono (setRes_touch ..) (by decide)))

theorem escrowTake_touch (id key : Nat) (s : State) : Touches [.regs, .free, .map, .mere, .nvq, .cip] s (escrowTake id
    key s) := by
  unfold escrowTake
  repeat' (first | with_reducible exact Touches.refl _ _ | dsimp only | with_reducible apply Touches.ite ?_ ?_
                 | with_reducible apply Touches.trans ?_ (Touches.mono (makeDurable_touch ..) (by decide))
                 | with_reducible apply Touches.trans ?_ (Touches.mono (eachOf_touch ..) (by decide))
                 | with_reducible apply Touches.trans ?_ (Touches.mono (labelWrite_touch ..) (by decide))
                 | with_reducible apply Touches.trans ?_ (Touches.mono (putKeySlot_touch ..) (by decide))
                 | with_reducible apply Touches.trans ?_ (eachOf_touch _ _ _ ?_)
                 | with_reducible apply Touches.trans ?_ (foldl_touch _ _ _ ?_)
                 | simp only [touches_mk]; with_reducible refine Touches.made (h := ?_) | (intro _) | (split))

theorem taskEscrowImport_touch (ok : Bool) (s : State) : Touches [.regs, .free, .map, .mere, .nvq, .cip, .cus] s (taskEscrowImport ok
    s) := by
  unfold taskEscrowImport
  repeat' (first | with_reducible exact Touches.refl _ _ | dsimp only | with_reducible apply Touches.ite ?_ ?_
                 | with_reducible apply Touches.trans ?_ (Touches.mono (taskEnd_touch ..) (by decide))
                 | with_reducible apply Touches.trans ?_ (Touches.mono (escrowTake_touch ..) (by decide))
                 | simp only [touches_mk]; with_reducible refine Touches.made (h := ?_) | (intro _) | (split))

theorem taskEscrowExport_touch (s : State) : Touches [.regs, .cus] s (taskEscrowExport s) := by
  unfold taskEscrowExport
  repeat' (first | with_reducible exact Touches.refl _ _ | dsimp only | with_reducible apply Touches.ite ?_ ?_
                 | with_reducible apply Touches.trans ?_ (Touches.mono (taskEnd_touch ..) (by decide))
                 | with_reducible apply Touches.trans ?_ (Touches.mono (fillBuf_touch ..) (by decide))
                 | simp only [touches_mk]; with_reducible refine Touches.made (h := ?_) | (intro _) | (split))

theorem taskMemberRetire_touch (s : State) : Touches [.regs, .out, .glb, .fen, .nvq, .cus] s (taskMemberRetire s) := by
  unfold taskMemberRetire
  repeat' (first | with_reducible exact Touches.refl _ _ | dsimp only | with_reducible apply Touches.ite ?_ ?_
                 | with_reducible apply Touches.trans ?_ (Touches.mono (startDrain_touch ..) (by decide))
                 | with_reducible apply Touches.trans ?_ (Touches.mono (taskEnd_touch ..) (by decide)))

theorem addMember_touch (l f i : Nat) (cal : CalRow) (s : State) : Touches [.regs, .free, .out, .glb, .peat, .ret, .map,
    .fen, .hew, .seam, .mere, .nvq, .slu] s (addMember l f i cal s) := by
  unfold addMember
  repeat' (first | with_reducible exact Touches.refl _ _ | dsimp only | with_reducible apply Touches.ite ?_ ?_
                 | with_reducible apply Touches.trans ?_ (Touches.mono (makeDurable_touch ..) (by decide))
                 | with_reducible apply Touches.trans ?_ (Touches.mono (journal_touch ..) (by decide))
                 | with_reducible apply Touches.trans ?_ (Touches.mono (reserveNote_touch ..) (by decide))
                 | with_reducible apply Touches.trans ?_ (Touches.mono (fenRefresh_touch ..) (by decide))
                 | with_reducible apply Touches.trans ?_ (Touches.mono (anchorWrite_touch ..) (by decide))
                 | with_reducible apply Touches.trans ?_ (Touches.mono (witnessFirst_touch ..) (by decide))
                 | with_reducible apply Touches.trans ?_ (Touches.mono (linkActive_touch ..) (by decide))
                 | with_reducible apply Touches.trans ?_ (Touches.mono (wr_touch _ _ _ _) (by decide))
                 | simp only [touches_mk]; with_reducible refine Touches.made (h := ?_) | (intro _) | (split))

theorem taskMemberHotadd_touch (cal : CalRow) (good : Bool) (s : State) : Touches [.regs, .free, .out, .glb, .peat,
    .ret, .map, .fen, .hew, .seam, .mere, .nvq, .slu, .cus] s (taskMemberHotadd cal good s) := by
  unfold taskMemberHotadd
  repeat' (first | with_reducible exact Touches.refl _ _ | dsimp only | with_reducible apply Touches.ite ?_ ?_
                 | with_reducible apply Touches.trans ?_ (Touches.mono (taskEnd_touch ..) (by decide))
                 | with_reducible apply Touches.trans ?_ (Touches.mono (addMember_touch ..) (by decide)))

theorem taskPeatExport_touch (s : State) : Touches [.regs, .cus] s (taskPeatExport s) := by
  unfold taskPeatExport
  repeat' (first | with_reducible exact Touches.refl _ _ | dsimp only
                 | with_reducible apply Touches.trans ?_ (Touches.mono (taskEnd_touch ..) (by decide))
                 | with_reducible apply Touches.trans ?_ (Touches.mono (fillBuf_touch ..) (by decide))
                 | with_reducible apply Touches.trans ?_ (Touches.mono (setRes_touch ..) (by decide))
                 | with_reducible apply Touches.trans ?_ (Touches.mono (setRes64_touch ..) (by decide))
                 | with_reducible apply Touches.trans ?_ (foldl_touch _ _ _ ?_) | (intro _))

theorem taskManifest_touch (s : State) : Touches [.regs, .cus] s (taskManifest s) := by
  unfold taskManifest
  repeat' (first | with_reducible exact Touches.refl _ _ | dsimp only | with_reducible apply Touches.ite ?_ ?_
                 | with_reducible apply Touches.trans ?_ (Touches.mono (taskEnd_touch ..) (by decide))
                 | with_reducible apply Touches.trans ?_ (Touches.mono (fillBuf_touch ..) (by decide)))

theorem taskImageWrite_touch (piece : Piece) (s : State) : Touches [.regs, .cfg, .upd, .cus] s (taskImageWrite piece s)
    := by
  unfold taskImageWrite
  repeat' (first | with_reducible exact Touches.refl _ _ | dsimp only | with_reducible apply Touches.ite ?_ ?_
                 | with_reducible apply Touches.trans ?_ (Touches.mono (taskEnd_touch ..) (by decide))
                 | with_reducible apply Touches.trans ?_ (Touches.mono (twimaPiece_touch ..) (by decide))
                 | with_reducible apply Touches.trans ?_ (Touches.mono (twimaPiece_touch' (by assumption)) (by decide))
                 | with_reducible apply Touches.trans ?_ (Touches.mono (downloadPiece_touch ..) (by decide))
                 | with_reducible apply Touches.trans ?_ (Touches.mono (downloadPiece_touch' (by assumption)) (by decide))
                 | simp only [touches_mk]; with_reducible refine Touches.made (h := ?_) | (intro _) | (split))

theorem taskTwimaPromote_touch (s : State) : Touches [.regs, .free, .out, .glb, .peat, .cfg, .ret, .map, .fen, .ldpc,
    .hew, .ucs, .seam, .mere, .nvq, .slu, .hif, .fab, .cip, .dma, .mbx, .pwr, .sea, .upd, .cus, .boot] s (taskTwimaPromote
    s) := by
  unfold taskTwimaPromote
  repeat' (first | with_reducible exact Touches.refl _ _ | dsimp only | with_reducible apply Touches.ite ?_ ?_
                 | with_reducible apply Touches.trans ?_ (Touches.mono (taskEnd_touch ..) (by decide))
                 | with_reducible apply Touches.trans ?_ (Touches.mono (commitSlots_touch ..) (by decide))
                 | with_reducible apply Touches.trans ?_ (Touches.mono (bootStep4_touch ..) (by decide))
                 | with_reducible apply Touches.trans ?_ (Touches.mono (peatRecord_touch ..) (by decide))
                 | simp only [touches_mk]; with_reducible refine Touches.made (h := ?_) | (intro _) | (split))

theorem taskFwCommit_touch (s : State) : Touches [.regs, .free, .out, .peat, .cfg, .nvq, .upd, .cus] s (taskFwCommit s) := by
  unfold taskFwCommit
  repeat' (first | with_reducible exact Touches.refl _ _ | dsimp only | with_reducible apply Touches.ite ?_ ?_
                 | with_reducible apply Touches.trans ?_ (Touches.mono (taskEnd_touch ..) (by decide))
                 | with_reducible apply Touches.trans ?_ (Touches.mono (fwCommit_touch ..) (by decide)))

theorem taskRetireOld_touch (s : State) : Touches [.regs, .cfg, .upd, .cus] s (taskRetireOld s) := by
  unfold taskRetireOld
  repeat' (first | with_reducible exact Touches.refl _ _ | dsimp only | with_reducible apply Touches.ite ?_ ?_
                 | with_reducible apply Touches.trans ?_ (Touches.mono (taskEnd_touch ..) (by decide))
                 | simp only [touches_mk]; with_reducible refine Touches.made (h := ?_))

theorem taskPeerSet_touch (ok : Bool) (s : State) : Touches [.regs, .free, .out, .cwy, .cus] s (taskPeerSet ok s) := by
  unfold taskPeerSet
  repeat' (first | with_reducible exact Touches.refl _ _ | dsimp only | with_reducible apply Touches.ite ?_ ?_
                 | with_reducible apply Touches.trans ?_ (Touches.mono (taskDone_touch ..) (by decide))
                 | with_reducible apply Touches.trans ?_ (Touches.mono (peerSet_touch ..) (by decide))
                 | with_reducible apply Touches.trans ?_ (Touches.mono (peerSet_touch' (by assumption)) (by decide))
                 | with_reducible apply Touches.trans ?_ (Touches.mono (taskEnd_touch ..) (by decide))
                 | simp only [touches_mk]; with_reducible refine Touches.made (h := ?_) | (intro _) | (split))

theorem taskDeviceReset_touch (s : State) : Touches [.regs, .free, .out, .glb, .peat, .cfg, .ret, .map, .fen, .ldpc, .hew,
    .ucs, .seam, .mere, .nvq, .slu, .hif, .fab, .cwy, .cip, .dma, .mbx, .pwr, .sea, .upd, .cus, .clk, .boot, .tmon] s
    (taskDeviceReset s) := by
  unfold taskDeviceReset
  repeat' (first | with_reducible exact Touches.refl _ _ | dsimp only | with_reducible apply Touches.ite ?_ ?_
                 | with_reducible apply Touches.trans ?_ (Touches.mono (wr_touch _ _ _ _) (by decide))
                 | with_reducible apply Touches.trans ?_ (Touches.mono (taskEnd_touch ..) (by decide))
                 | with_reducible apply Touches.trans ?_ (Touches.mono (askReset_touch ..) (by decide)))

theorem bmeClear_touch (l f : Nat) (s : State) : Touches [.regs, .free, .out, .glb, .peat, .ret, .map, .mere, .nvq, .slu,
    .hif, .dma] s (bmeClear l f s) := by
  unfold bmeClear
  repeat' (first | with_reducible exact Touches.refl _ _ | dsimp only | with_reducible apply Touches.ite ?_ ?_
                 | with_reducible apply Touches.trans ?_ (Touches.mono (putCtrl_touch ..) (by decide))
                 | with_reducible apply Touches.trans ?_ (Touches.mono (drawn_touch ..) (by decide))
                 | with_reducible apply Touches.trans ?_ (Touches.mono (ctrlReset_touch ..) (by decide))
                 | with_reducible apply Touches.trans ?_ (Touches.mono (dmaHostGone_touch ..) (by decide))
                 | with_reducible apply Touches.trans ?_ (Touches.mono (putFunc_touch ..) (by decide)) | (split))

theorem d3hot_touch (l f : Nat) (s : State) : Touches [.regs, .free, .nvq, .slu, .hif] s (d3hot l f s) := by
  unfold d3hot
  repeat' (first | with_reducible exact Touches.refl _ _ | dsimp only | with_reducible apply Touches.ite ?_ ?_
                 | with_reducible apply Touches.trans ?_ (Touches.mono (ctrlReset_touch ..) (by decide))
                 | with_reducible apply Touches.trans ?_ (Touches.mono (shutdownBegin_touch ..) (by decide))
                 | with_reducible apply Touches.trans ?_ (Touches.mono (putFunc_touch ..) (by decide)) | (split))

theorem numVfsWrite_touch (l f v : Nat) (s : State) : Touches [.hif] s (numVfsWrite l f v s) := by
  unfold numVfsWrite
  repeat' (first | with_reducible exact Touches.refl _ _ | dsimp only | with_reducible apply Touches.ite ?_ ?_
                 | with_reducible apply Touches.trans ?_ (Touches.mono (putFunc_touch ..) (by decide)))

theorem vfEnableWrite_touch (l f : Nat) (on : Bool) (s : State) : Touches [.regs, .free, .out, .glb, .peat, .cfg, .ret, .map,
    .mere, .nvq, .slu, .hif, .dma] s (vfEnableWrite l f on s) := by
  unfold vfEnableWrite
  repeat' (first | with_reducible exact Touches.refl _ _ | dsimp only | with_reducible apply Touches.ite ?_ ?_
                 | with_reducible apply Touches.trans ?_ (Touches.mono (putFunc_touch ..) (by decide))
                 | with_reducible apply Touches.trans ?_ (Touches.mono (funcsNote_touch ..) (by decide))
                 | with_reducible apply Touches.trans ?_ (Touches.mono (createPcie_touch ..) (by decide))
                 | with_reducible apply Touches.trans ?_ (Touches.mono (dropPcie_touch ..) (by decide))
                 | with_reducible apply Touches.trans ?_ (Touches.mono (vfsReset_touch ..) (by decide))
                 | with_reducible apply Touches.trans ?_ (eachOf_touch _ _ _ ?_) | (intro _))

theorem sendPending_touch (l f : Nat) (s : State) : Touches [.out, .nvq] s (sendPending l f s) := by
  unfold sendPending
  repeat' (first | with_reducible exact Touches.refl _ _
                 | with_reducible apply Touches.trans ?_ (Touches.mono (sendVector_touch ..) (by decide))
                 | with_reducible apply Touches.trans ?_ (eachOf_touch _ _ _ ?_) | (intro _) | (split))

theorem doeAbort_touch (l : Nat) (s : State) : Touches [.hif] s (doeAbort l s) := by
  unfold doeAbort
  repeat' (first | with_reducible exact Touches.refl _ _
                 | with_reducible apply Touches.trans ?_ (Touches.mono (doeDrop_touch ..) (by decide)))

theorem cfgWrite_touch (l f reg value en : Nat) (s : State) : Touches [.regs, .free, .out, .glb, .peat, .cfg, .ret, .map,
    .mere, .nvq, .slu, .hif, .dma] s (cfgWrite l f reg value en s) := by
  unfold cfgWrite
  repeat' (first | with_reducible exact Touches.refl _ _ | dsimp only | with_reducible apply Touches.ite ?_ ?_
                 | with_reducible apply Touches.trans ?_ (Touches.mono (putFunc_touch ..) (by decide))
                 | with_reducible apply Touches.trans ?_ (Touches.mono (flr_touch ..) (by decide))
                 | with_reducible apply Touches.trans ?_ (Touches.mono (bmeClear_touch ..) (by decide))
                 | with_reducible apply Touches.trans ?_ (Touches.mono (d3hot_touch ..) (by decide))
                 | with_reducible apply Touches.trans ?_ (Touches.mono (numVfsWrite_touch ..) (by decide))
                 | with_reducible apply Touches.trans ?_ (Touches.mono (vfEnableWrite_touch ..) (by decide))
                 | with_reducible apply Touches.trans ?_ (Touches.mono (sendPending_touch ..) (by decide))
                 | with_reducible apply Touches.trans ?_ (Touches.mono (doeAbort_touch ..) (by decide)))

theorem doeSend_touch (l kind : Nat) (payload : List Nat) (s : State) : Touches [.out, .hif] s (doeSend l kind payload s) := by
  unfold doeSend
  repeat' (first | with_reducible exact Touches.refl _ _
                 | with_reducible apply Touches.trans ?_ (Touches.mono (emit_touch ..) (by decide))
                 | with_reducible apply Touches.trans ?_ (Touches.mono (doeDrop_touch ..) (by decide)))

theorem spdmError_touch (l code : Nat) (s : State) : Touches [.out, .hif] s (spdmError l code s) := by
  unfold spdmError
  repeat' (first | with_reducible exact Touches.refl _ _
                 | with_reducible apply Touches.trans ?_ (Touches.mono (doeSend_touch ..) (by decide)))

theorem spdmAt_touch (l stage kind : Nat) (payload : State → List Nat) (s : State) : Touches [.out, .hif] s (spdmAt l stage
    kind payload s) := by
  unfold spdmAt
  repeat' (first | (with_reducible exact Touches.refl _ _)
                 | (with_reducible apply Touches.trans ?_ (Touches.mono (spdmError_touch ..) (by decide)))
                 | (with_reducible apply Touches.trans ?_ (Touches.mono (doeSend_touch ..) (by decide))) | split
                 | (simp only [touches_mk]; with_reducible refine Touches.made (h := ?_)) | dsimp only)

theorem spdmSet_touch (l stage : Nat) (s : State) : Touches [.hif] s (spdmSet l stage s) := by
  unfold spdmSet
  repeat' (first | with_reducible exact Touches.refl _ _ | dsimp only
                 | simp only [touches_mk]; with_reducible refine Touches.made (h := ?_))

theorem hostReadError_touch (c cause : Nat) (s : State) : Touches [.regs, .free, .nvq, .dma] s (hostReadError c cause s) := by
  unfold hostReadError
  repeat' (first | with_reducible exact Touches.refl _ _
                 | with_reducible apply Touches.trans ?_ (Touches.mono (dmaError_touch ..) (by decide)) | (split))

theorem rcClear_touch (expert : Bool) (r : Reg) (i : Nat) (s : State) : Touches [.regs] s (rcClear expert r i s) := by
  unfold rcClear
  repeat' (first | with_reducible exact Touches.refl _ _ | with_reducible apply Touches.ite ?_ ?_
                 | with_reducible apply Touches.trans ?_ (Touches.mono (wr_touch _ _ _ _) (by decide))
                 | with_reducible apply Touches.trans ?_ (foldl_touch _ _ _ ?_) | (intro _))

theorem readLatch_touch (p : AccessPath) (r : Reg) (i : Nat) (s : State) : Touches [.readData, .peat, .life, .slu, .mbx] s
    (readLatch p r i s) := by
  unfold readLatch
  repeat' (first | with_reducible exact Touches.refl _ _ | dsimp only | with_reducible apply Touches.ite ?_ ?_
                 | with_reducible apply Touches.trans ?_ (Touches.mono (putUse_touch ..) (by decide))
                 | with_reducible apply Touches.trans ?_ (Touches.mono (mbxPop_touch ..) (by decide))
                 | simp only [touches_mk]; with_reducible refine Touches.made (h := ?_))

theorem readEffects_touch (p : AccessPath) (off : Nat) (s : State) : Touches [.regs, .readData, .peat, .life, .slu, .mbx,
    .cus] s (readEffects p off s) := by
  unfold readEffects
  repeat' (first | with_reducible exact Touches.refl _ _ | dsimp only | with_reducible apply Touches.ite ?_ ?_
                 | with_reducible apply Touches.trans ?_ (Touches.mono (rcClear_touch ..) (by decide))
                 | with_reducible apply Touches.trans ?_ (Touches.mono (readLatch_touch ..) (by decide))
                 | simp only [touches_mk]; with_reducible refine Touches.made (h := ?_) | (split))

theorem accessRead_touch (p : AccessPath) (off nbytes : Nat) (s : State) : Touches [.regs, .free, .readData, .peat,
    .cfg, .life, .slu, .mbx, .cus] s (accessRead p off nbytes s) := by
  unfold accessRead
  repeat' (first | with_reducible exact Touches.refl _ _ | dsimp only | with_reducible apply Touches.ite ?_ ?_
                 | with_reducible apply Touches.trans ?_ (Touches.mono (accessViolation_touch ..) (by decide))
                 | with_reducible apply Touches.trans ?_ (Touches.mono (answer_touch ..) (by decide))
                 | with_reducible apply Touches.trans ?_ (Touches.mono (expertUse_touch ..) (by decide))
                 | with_reducible apply Touches.trans ?_ (Touches.mono (readEffects_touch ..) (by decide))
                 | simp only [touches_mk]; with_reducible refine Touches.made (h := ?_) | (intro _) | (split))

theorem taskBody_touch (free : Bool) (op : Nat) (s : State) : Touches [.regs, .free, .out, .glb, .peat, .cfg, .life,
    .ret, .map, .fen, .ldpc, .hew, .ucs, .seam, .mere, .nvq, .slu, .hif, .fab, .cwy, .cip, .dma, .mbx, .pwr, .sea, .upd,
    .cus, .clk, .boot, .tmon] s (taskBody free op s) := by
  unfold taskBody
  repeat' (first | with_reducible exact Touches.refl _ _ | dsimp only | with_reducible apply Touches.ite ?_ ?_
                 | with_reducible apply Touches.trans ?_ (Touches.mono (taskLifeRead_touch ..) (by decide))
                 | with_reducible apply Touches.trans ?_ (Touches.mono (taskLifeSetUtc_touch ..) (by decide))
                 | with_reducible apply Touches.trans ?_ (Touches.mono (taskSeal_touch ..) (by decide))
                 | with_reducible apply Touches.trans ?_ (Touches.mono (taskEscrowImport_touch ..) (by decide))
                 | with_reducible apply Touches.trans ?_ (Touches.mono (taskEscrowExport_touch ..) (by decide))
                 | with_reducible apply Touches.trans ?_ (Touches.mono (taskMemberRetire_touch ..) (by decide))
                 | with_reducible apply Touches.trans ?_ (Touches.mono (taskMemberHotadd_touch ..) (by decide))
                 | with_reducible apply Touches.trans ?_ (Touches.mono (taskEnd_touch ..) (by decide))
                 | with_reducible apply Touches.trans ?_ (Touches.mono (taskPeatExport_touch ..) (by decide))
                 | with_reducible apply Touches.trans ?_ (Touches.mono (taskManifest_touch ..) (by decide))
                 | with_reducible apply Touches.trans ?_ (Touches.mono (taskImageWrite_touch ..) (by decide))
                 | with_reducible apply Touches.trans ?_ (Touches.mono (taskTwimaPromote_touch ..) (by decide))
                 | with_reducible apply Touches.trans ?_ (Touches.mono (taskFwCommit_touch ..) (by decide))
                 | with_reducible apply Touches.trans ?_ (Touches.mono (taskRetireOld_touch ..) (by decide))
                 | with_reducible apply Touches.trans ?_ (Touches.mono (taskPeerSet_touch ..) (by decide))
                 | with_reducible apply Touches.trans ?_ (Touches.mono (taskDone_touch ..) (by decide))
                 | with_reducible apply Touches.trans ?_ (Touches.mono (chainStart_touch ..) (by decide))
                 | with_reducible apply Touches.trans ?_ (Touches.mono (chainStart_touch' (by assumption)) (by decide))
                 | with_reducible apply Touches.trans ?_ (Touches.mono (migExport_touch ..) (by decide))
                 | with_reducible apply Touches.trans ?_ (Touches.mono (migExport_touch' (by assumption)) (by decide))
                 | with_reducible apply Touches.trans ?_ (Touches.mono (migImport_touch ..) (by decide))
                 | with_reducible apply Touches.trans ?_ (Touches.mono (migImport_touch' (by assumption)) (by decide))
                 | with_reducible apply Touches.trans ?_ (Touches.mono (migFreeze_touch ..) (by decide))
                 | with_reducible apply Touches.trans ?_ (Touches.mono (migFreeze_touch' (by assumption)) (by decide))
                 | with_reducible apply Touches.trans ?_ (Touches.mono (taskDeviceReset_touch ..) (by decide))
                 | simp only [touches_mk]; with_reducible refine Touches.made (h := ?_) | (intro _) | (split))

theorem taskByOpcode_touch (op : Nat) (s : State) : Touches [.regs, .free, .out, .glb, .peat, .cfg, .life, .ret, .map,
    .fen, .ldpc, .hew, .ucs, .seam, .mere, .nvq, .slu, .hif, .fab, .cwy, .cip, .dma, .mbx, .pwr, .sea, .upd, .cus, .clk,
    .boot, .tmon] s (taskByOpcode op s) := by
  unfold taskByOpcode
  repeat' (first | with_reducible exact Touches.refl _ _ | dsimp only | with_reducible apply Touches.ite ?_ ?_
                 | with_reducible apply Touches.trans ?_ (taskGo_touch (hp := by decide) (hf := ?_) ..)
                 | with_reducible apply Touches.trans ?_ (Touches.mono (taskBody_touch ..) (by decide))
                 | with_reducible apply Touches.trans ?_ (Touches.mono (drawn_touch ..) (by decide))
                 | simp only [touches_mk]; with_reducible refine Touches.made (h := ?_) | (intro _) | (split))

theorem taskCmdWrite_touch (v : Nat) (s : State) : Touches [.regs, .free, .out, .glb, .peat, .cfg, .life, .ret, .map, .fen,
    .ldpc, .hew, .ucs, .seam, .mere, .nvq, .slu, .hif, .fab, .cwy, .cip, .dma, .mbx, .pwr, .sea, .upd, .cus, .clk, .boot,
    .tmon] s (taskCmdWrite v s) := by
  unfold taskCmdWrite
  repeat' (first | with_reducible exact Touches.refl _ _ | with_reducible apply Touches.ite ?_ ?_
                 | with_reducible apply Touches.trans ?_ (Touches.mono (regWrite_touch ..) (by decide))
                 | with_reducible apply Touches.trans ?_ (Touches.mono (taskByOpcode_touch ..) (by decide)))

theorem deviceWrite_touch (p : AccessPath) (off value : Nat) (s : State) : Touches [.regs, .free, .out, .glb, .peat, .cfg,
    .life, .ret, .map, .fen, .ldpc, .hew, .ucs, .seam, .mere, .nvq, .slu, .hif, .fab, .cwy, .cip, .dma, .mbx, .pwr, .sea,
    .upd, .cus, .clk, .boot, .tmon] s (deviceWrite p off value s) := by
  unfold deviceWrite
  repeat' (first | with_reducible exact Touches.refl _ _ | with_reducible apply Touches.ite ?_ ?_
                 | with_reducible apply Touches.trans ?_ (Touches.mono (blockWrite_touch ..) (by decide))
                 | with_reducible apply Touches.trans ?_ (Touches.mono (bootResetWrite_touch ..) (by decide))
                 | with_reducible apply Touches.trans ?_ (Touches.mono (sessionWord_touch ..) (by decide))
                 | with_reducible apply Touches.trans ?_ (Touches.mono (sessionClose_touch ..) (by decide))
                 | with_reducible apply Touches.trans ?_ (Touches.mono (taskCmdWrite_touch ..) (by decide)))

theorem windowRead_touch (s : State) : Touches [.regs, .readData, .peat, .life, .slu, .mbx, .cus] s (windowRead s) := by
  unfold windowRead
  repeat' (first | with_reducible exact Touches.refl _ _ | dsimp only
                 | with_reducible apply Touches.trans ?_ (Touches.mono (wr_touch _ _ _ _) (by decide))
                 | with_reducible apply Touches.trans ?_ (Touches.mono (readEffects_touch ..) (by decide)))

theorem windowWrite_touch (s : State) : Touches [.regs, .free, .out, .glb, .peat, .cfg, .life, .ret, .map, .fen, .ldpc, .hew,
    .ucs, .seam, .mere, .nvq, .slu, .hif, .fab, .cwy, .cip, .dma, .mbx, .pwr, .sea, .upd, .cus, .clk, .boot, .tmon] s
    (windowWrite s) := by
  unfold windowWrite
  repeat' (first | with_reducible exact Touches.refl _ _ | dsimp only | with_reducible apply Touches.ite ?_ ?_
                 | with_reducible apply Touches.trans ?_ (Touches.mono (accessViolation_touch ..) (by decide))
                 | with_reducible apply Touches.trans ?_ (Touches.mono (deviceWrite_touch ..) (by decide)))

theorem winCtlWrite_touch (value : Nat) (s : State) : Touches [.regs, .free, .readData, .out, .glb, .peat, .cfg, .life, .ret,
    .map, .fen, .ldpc, .hew, .ucs, .seam, .mere, .nvq, .slu, .hif, .fab, .cwy, .cip, .dma, .mbx, .pwr, .sea, .upd, .cus,
    .clk, .boot, .tmon] s (winCtlWrite value s) := by
  unfold winCtlWrite
  repeat' (first | with_reducible exact Touches.refl _ _ | with_reducible apply Touches.ite ?_ ?_
                 | with_reducible apply Touches.trans ?_ (Touches.mono (accessViolation_touch ..) (by decide))
                 | with_reducible apply Touches.trans ?_ (Touches.mono (windowRead_touch ..) (by decide))
                 | with_reducible apply Touches.trans ?_ (Touches.mono (windowWrite_touch ..) (by decide)))

theorem accessWrite_touch (p : AccessPath) (off nbytes value : Nat) (s : State) : Touches [.regs, .free, .readData,
    .out, .glb, .peat, .cfg, .life, .ret, .map, .fen, .ldpc, .hew, .ucs, .seam, .mere, .nvq, .slu, .hif, .fab, .cwy, .cip,
    .dma, .mbx, .pwr, .sea, .upd, .cus, .clk, .boot, .tmon] s (accessWrite p off nbytes value s) := by
  unfold accessWrite
  repeat' (first | with_reducible exact Touches.refl _ _ | dsimp only | with_reducible apply Touches.ite ?_ ?_
                 | with_reducible apply Touches.trans ?_ (Touches.mono (accessViolation_touch ..) (by decide))
                 | with_reducible apply Touches.trans ?_ (Touches.mono (winCtlWrite_touch ..) (by decide))
                 | with_reducible apply Touches.trans ?_ (Touches.mono (expertUse_touch ..) (by decide))
                 | with_reducible apply Touches.trans ?_ (Touches.mono (deviceWrite_touch ..) (by decide))
                 | simp only [touches_mk]; with_reducible refine Touches.made (h := ?_) | (intro _) | (split))

theorem readDwords_touch {ps : List Part} (rd : Nat → State → Nat × State) (ds : List (Nat × Nat × Nat × Nat)) (s : State)
    (hf : ∀ n s, Touches ps s (rd n s).2) : Touches ps s (readDwords rd ds s).2 := by
  unfold readDwords
  suffices H : ∀ (l : List (Nat × Nat × Nat × Nat)) (a : Nat × State), Touches ps a.2 (l.foldl (fun a d =>
      let r := rd d.1 a.2
      (a.1 + bits r.1 (8 * d.2.1) (8 * d.2.2.1) * 2 ^ (8 * d.2.2.2), r.2)) a).2 from H _ (0, s)
  intro l; induction l with
  | nil => intro a; exact Touches.refl _ _
  | cons e l ih => intro a; exact Touches.trans (hf e.1 a.2) (ih (a.1 + bits (rd e.1 a.2).1 (8 * e.2.1) (8 * e.2.2.1) * 2 ^
      (8 * e.2.2.2), (rd e.1 a.2).2))

theorem writeDwords_touch {ps : List Part} (wr : Nat → Nat → Nat → State → State) (value : Nat) (ds : List (Nat × Nat × Nat ×
    Nat)) (s : State) (hp : ∀ p ∈ ([] : List Part), p ∈ ps) (hf : ∀ a b c s, Touches ps s (wr a b c s)) : Touches ps s
    (writeDwords wr value ds s) := by
  unfold writeDwords; refine eachOf_touch _ _ _ ?_; intro _ _; exact hf ..

theorem expertRead_touch (l : Fin 8) (f : Fin 4) (off : Nat) (s : State) : Touches [.regs, .free, .readData, .peat,
    .cfg, .life, .slu, .mbx, .cus] s (expertRead l f off s).2 := by
  unfold expertRead
  repeat' (first | with_reducible exact Touches.refl _ _ | dsimp only
                 | with_reducible apply Touches.trans ?_ (Touches.mono (accessRead_touch ..) (by decide)) | (split))

theorem expertRead_touch' {l : Fin 8} {f : Fin 4} {off : Nat} {s : State} {av : Nat} {tv : State} (h : expertRead l f
    off s = (av, tv)) : Touches [.regs, .free, .readData, .peat, .cfg, .life, .slu, .mbx, .cus] s tv := by
  have := expertRead_touch l f off s; rw [h] at this; exact this

theorem expertWrite_touch (l : Fin 8) (f : Fin 4) (off nbytes value : Nat) (s : State) : Touches [.regs, .free, .readData,
    .out, .glb, .peat, .cfg, .life, .ret, .map, .fen, .ldpc, .hew, .ucs, .seam, .mere, .nvq, .slu, .hif, .fab, .cwy, .cip,
    .dma, .mbx, .pwr, .sea, .upd, .cus, .clk, .boot, .tmon] s (expertWrite l f off nbytes value s) := by
  unfold expertWrite
  repeat' (first | with_reducible exact Touches.refl _ _ | dsimp only | with_reducible apply Touches.ite ?_ ?_
                 | with_reducible apply Touches.trans ?_ (Touches.mono (accessViolation_touch ..) (by decide))
                 | with_reducible apply Touches.trans ?_ (Touches.mono (accessWrite_touch ..) (by decide)) | (split))

theorem expertTlp_touch (l : Fin 8) (f : Fin 4) (off n : Nat) (write : Bool) (value : Nat) (s : State) : Touches [.regs,
    .free, .readData, .out, .glb, .peat, .cfg, .life, .ret, .map, .fen, .ldpc, .hew, .ucs, .seam, .mere, .nvq, .slu, .hif,
    .fab, .cwy, .cip, .dma, .mbx, .pwr, .sea, .upd, .cus, .clk, .boot, .tmon] s (expertTlp l f off n write value s) := by
  unfold expertTlp; dsimp only
  refine Touches.ite (writeDwords_touch _ _ _ _ (by decide) (fun _ _ _ _ => (expertWrite_touch ..).mono (by decide))) ?_
  exact Touches.trans (readDwords_touch _ _ _ (fun _ _ => (expertRead_touch ..).mono (by decide))) ((emit_touch ..).mono (by
      decide))

theorem putFuncReg_touch (l f k v : Nat) (s : State) : Touches [.regs, .hif] s (putFuncReg l f k v s) := by
  unfold putFuncReg
  repeat' (first | with_reducible exact Touches.refl _ _ | dsimp only
                 | with_reducible apply Touches.trans ?_ (Touches.mono (putFunc_touch ..) (by decide)))

theorem propWrite_touch (l f off v : Nat) (s : State) : Touches [.regs, .free, .out, .nvq, .slu, .hif] s (propWrite l f off v
    s) := by
  unfold propWrite
  repeat' (first | with_reducible exact Touches.refl _ _ | with_reducible apply Touches.ite ?_ ?_
                 | with_reducible apply Touches.trans ?_ (Touches.mono (putCtrl_touch ..) (by decide))
                 | with_reducible apply Touches.trans ?_ (Touches.mono (ccWrite_touch ..) (by decide))
                 | with_reducible apply Touches.trans ?_ (Touches.mono (putFuncReg_touch ..) (by decide)) | (split))

theorem msixWrite_touch (l f x v : Nat) (s : State) : Touches [.regs, .out, .nvq, .hif] s (msixWrite l f x v s) := by
  unfold msixWrite
  repeat' (first | with_reducible exact Touches.refl _ _ | dsimp only | with_reducible apply Touches.ite ?_ ?_
                 | with_reducible apply Touches.trans ?_ (Touches.mono (putCtrl_touch ..) (by decide))
                 | with_reducible apply Touches.trans ?_ (Touches.mono (sendVector_touch ..) (by decide))
                 | with_reducible apply Touches.trans ?_ (Touches.mono (putFuncReg_touch ..) (by decide)) | (split))

theorem barRead_touch (l f off : Nat) (s : State) : Touches [.free] s (barRead l f off s).2 := by
  unfold barRead
  repeat' (first | with_reducible exact Touches.refl _ _ | dsimp only
                 | with_reducible apply Touches.trans ?_ (Touches.mono (drawn_touch ..) (by decide)) | (split))

theorem barRead_touch' {l f off : Nat} {s : State} {av : Nat} {tv : State} (h : barRead l f off s = (av, tv)) : Touches
    [.free] s tv := by
  have := barRead_touch l f off s; rw [h] at this; exact this

theorem doorbellWrite_touch (l f x v : Nat) (s : State) : Touches [.regs, .out, .nvq] s (doorbellWrite l f x v s) := by
  unfold doorbellWrite
  repeat' (first | with_reducible exact Touches.refl _ _ | with_reducible apply Touches.ite ?_ ?_
                 | with_reducible apply Touches.trans ?_ (Touches.mono (sqDoorbell_touch ..) (by decide))
                 | with_reducible apply Touches.trans ?_ (Touches.mono (cqDoorbell_touch ..) (by decide)) | (split))

theorem barWrite_touch (l f off nbytes v : Nat) (s : State) : Touches [.regs, .free, .out, .nvq, .slu, .hif] s (barWrite l f
    off nbytes v s) := by
  unfold barWrite
  repeat' (first | with_reducible exact Touches.refl _ _ | with_reducible apply Touches.ite ?_ ?_
                 | with_reducible apply Touches.trans ?_ (Touches.mono (propWrite_touch ..) (by decide))
                 | with_reducible apply Touches.trans ?_ (Touches.mono (msixWrite_touch ..) (by decide))
                 | with_reducible apply Touches.trans ?_ (Touches.mono (doorbellWrite_touch ..) (by decide)))

theorem memUnsupported_touch (l f : Nat) (s : State) : Touches [.regs, .out, .hif] s (memUnsupported l f s) := by
  unfold memUnsupported
  repeat' (first | with_reducible exact Touches.refl _ _
                 | with_reducible apply Touches.trans ?_ (Touches.mono (emit_touch ..) (by decide))
                 | with_reducible apply Touches.trans ?_ (Touches.mono (aerUncorr_touch ..) (by decide)))

theorem sensorRegs_touch (temps : List (Option Int)) (s : State) : Touches [.regs] s (sensorRegs temps s) := by
  unfold sensorRegs
  repeat' (first | with_reducible exact Touches.refl _ _
                 | with_reducible apply Touches.trans ?_ (Touches.mono (wr_touch _ _ _ _) (by decide))
                 | with_reducible apply Touches.trans ?_ (eachOf_touch _ _ _ ?_) | (intro _) | (split))

theorem thermState_touch (f ev : Field) (v : Bool) (s : State) : Touches [.regs] s (thermState f ev v s) := by
  unfold thermState
  repeat' (first | with_reducible exact Touches.refl _ _ | with_reducible apply Touches.ite ?_ ?_
                 | with_reducible apply Touches.trans ?_ (Touches.mono (wr_touch _ _ _ _) (by decide))
                 | with_reducible apply Touches.trans ?_ (Touches.mono (wrB_touch _ _ _ _) (by decide)))

theorem junctionNote_touch (first : Bool) (t : Int) (s : State) : Touches [.regs] s (junctionNote first t s) := by
  unfold junctionNote
  repeat' (first | with_reducible exact Touches.refl _ _ | dsimp only
                 | with_reducible apply Touches.trans ?_ (Touches.mono (wr_touch _ _ _ _) (by decide)))

theorem thermAct_touch (valid : Nat) (t : Int) (s : State) : Touches [.regs, .tmon] s (thermAct valid t s) := by
  unfold thermAct
  repeat' (first | with_reducible exact Touches.refl _ _ | dsimp only
                 | with_reducible apply Touches.trans ?_ (Touches.mono (wrB_touch _ _ _ _) (by decide))
                 | with_reducible apply Touches.trans ?_ (Touches.mono (thermState_touch ..) (by decide))
                 | simp only [touches_mk]; with_reducible refine Touches.made (h := ?_))

end Sys2Proof.Machine
end

