-- ==== Sys2Proof/Laws/TouchExec1.lean ====
section
/-! SUPPORT. Every command completes, and the parts of the state that it may change (see TouchBase). -/

-- One theorem after the other: elaborated side by side, their many small side proofs make Lean start hundreds of threads.
set_option Elab.async false

namespace Sys2Proof.Machine

open Sys2Proof

theorem execSumpRowProgram_touch (ltn : Ltn) (row : Nat) (cause : RowCause) (failSlot : Option (Fin 28)) (s : State) : ∃
    t, execSumpRowProgram ltn row cause failSlot s = .next t ∧ Touches [.regs, .free, .out, .ret, .map, .mere, .nvq] s t :=
    by
  refine ⟨_, rfl, ?_⟩
  repeat' (first | with_reducible exact Touches.refl _ _ | dsimp only | with_reducible apply Touches.ite ?_ ?_
                 | with_reducible apply Touches.trans ?_ (Touches.mono (begin_touch ..) (by decide))
                 | with_reducible apply Touches.trans ?_ (Touches.mono (destageRow_touch ..) (by decide))
                 | simp only [touches_mk]; with_reducible refine Touches.made (h := ?_) | (intro _) | (split))

theorem execRowIdleTimeout_touch (ltn : Ltn) (row : Nat) (s : State) : ∃ t, execRowIdleTimeout ltn row s = .next t ∧ Touches
    [.out, .map] s t := by
  refine ⟨_, rfl, ?_⟩
  repeat' (first | with_reducible exact Touches.refl _ _ | dsimp only | with_reducible apply Touches.ite ?_ ?_
                 | with_reducible apply Touches.trans ?_ (Touches.mono (begin_touch ..) (by decide))
                 | simp only [touches_mk]; with_reducible refine Touches.made (h := ?_))

theorem execFoldStart_touch (ltn : Ltn) (cause : FoldCause) (s : State) : ∃ t, execFoldStart ltn cause s = .next t ∧
    Touches [.regs, .free, .out, .ret, .map, .mere, .nvq] s t := by
  refine ⟨_, rfl, ?_⟩
  repeat' (first | with_reducible exact Touches.refl _ _ | dsimp only | with_reducible apply Touches.ite ?_ ?_
                 | with_reducible apply Touches.trans ?_ (Touches.mono (begin_touch ..) (by decide))
                 | with_reducible apply Touches.trans ?_ (Touches.mono (startFold_touch ..) (by decide))
                 | simp only [touches_mk]; with_reducible refine Touches.made (h := ?_) | (intro _) | (split))

theorem execFoldDone_touch (ltn : Ltn) (failSlot : Option (Fin 28)) (s : State) : ∃ t, execFoldDone ltn failSlot s =
    .next t ∧ Touches [.regs, .free, .out, .ret, .map, .mere, .nvq] s t := by
  refine ⟨_, rfl, ?_⟩
  repeat' (first | with_reducible exact Touches.refl _ _ | dsimp only | with_reducible apply Touches.ite ?_ ?_
                 | with_reducible apply Touches.trans ?_ (Touches.mono (begin_touch ..) (by decide))
                 | with_reducible apply Touches.trans ?_ (Touches.mono (failSlotOf_touch ..) (by decide))
                 | with_reducible apply Touches.trans ?_ (Touches.mono (skipAbsent_touch ..) (by decide))
                 | with_reducible apply Touches.trans ?_ (Touches.mono (copyUnits_touch ..) (by decide))
                 | with_reducible apply Touches.trans ?_ (Touches.mono (parityRows_touch ..) (by decide))
                 | with_reducible apply Touches.trans ?_ (Touches.mono (setFrontier_touch ..) (by decide))
                 | with_reducible apply Touches.trans ?_ (Touches.mono (foldPassed_touch ..) (by decide))
                 | with_reducible apply Touches.trans ?_ (Touches.mono (journal_touch ..) (by decide))
                 | with_reducible apply Touches.trans ?_ (Touches.mono (mapNote_touch ..) (by decide))
                 | with_reducible apply Touches.trans ?_ (Touches.mono (freeSumps_touch ..) (by decide))
                 | simp only [touches_mk]; with_reducible refine Touches.made (h := ?_) | (intro _) | (split))

theorem execMergeStart_touch (ltn : Ltn) (due : Bool) (s : State) : ∃ t, execMergeStart ltn due s = .next t ∧ Touches
    [.regs, .free, .out, .ret, .map, .nvq, .slu] s t := by
  refine ⟨_, rfl, ?_⟩
  repeat' (first | with_reducible exact Touches.refl _ _ | with_reducible apply Touches.ite ?_ ?_
                 | with_reducible apply Touches.trans ?_ (Touches.mono (begin_touch ..) (by decide))
                 | with_reducible apply Touches.trans ?_ (Touches.mono (startMerge_touch ..) (by decide)))

theorem execMergeCommit_touch (ltn : Ltn) (s : State) : ∃ t, execMergeCommit ltn s = .next t ∧ Touches [.regs, .free,
    .out, .ret, .map, .fen, .mere, .nvq, .slu] s t := by
  refine ⟨_, rfl, ?_⟩
  repeat' (first | with_reducible exact Touches.refl _ _ | dsimp only | with_reducible apply Touches.ite ?_ ?_
                 | with_reducible apply Touches.trans ?_ (Touches.mono (begin_touch ..) (by decide))
                 | with_reducible apply Touches.trans ?_ (Touches.mono (refreshDone_touch ..) (by decide))
                 | with_reducible apply Touches.trans ?_ (Touches.mono (mergeEnd_touch ..) (by decide))
                 | with_reducible apply Touches.trans ?_ (Touches.mono (commitStripe_touch ..) (by decide))
                 | with_reducible apply Touches.trans ?_ (Touches.mono (eachOf_touch ..) (by decide))
                 | with_reducible apply Touches.trans ?_ (Touches.mono (journal_touch ..) (by decide))
                 | with_reducible apply Touches.trans ?_ (Touches.mono (releaseAfter_touch ..) (by decide))
                 | with_reducible apply Touches.trans ?_ (Touches.mono (destaged_touch ..) (by decide))
                 | with_reducible apply Touches.trans ?_ (Touches.mono (count_touch _ _ _ _) (by decide))
                 | with_reducible apply Touches.trans ?_ (Touches.mono (mapNote_touch ..) (by decide))
                 | with_reducible apply Touches.trans ?_ (Touches.mono (makeDurable_touch ..) (by decide))
                 | with_reducible apply Touches.trans ?_ (Touches.mono (freeSumps_touch ..) (by decide))
                 | with_reducible apply Touches.trans ?_ (eachOf_touch _ _ _ ?_)
                 | with_reducible apply Touches.trans ?_ (foldl_touch _ _ _ ?_)
                 | simp only [touches_mk]; with_reducible refine Touches.made (h := ?_) | (intro _) | (split))

theorem execRefreshCopyStart_touch (ltn : Ltn) (evacuation : Bool) (s : State) : ∃ t, execRefreshCopyStart ltn
    evacuation s = .next t ∧ Touches [.regs, .free, .out, .ret, .map, .nvq, .slu] s t := by
  refine ⟨_, rfl, ?_⟩
  repeat' (first | with_reducible exact Touches.refl _ _ | dsimp only | with_reducible apply Touches.ite ?_ ?_
                 | with_reducible apply Touches.trans ?_ (Touches.mono (begin_touch ..) (by decide))
                 | with_reducible apply Touches.trans ?_ (Touches.mono (startCopy_touch ..) (by decide))
                 | simp only [touches_mk]; with_reducible refine Touches.made (h := ?_) | (intro _) | (split))

theorem execRefreshCopyCommit_touch (ltn : Ltn) (s : State) : ∃ t, execRefreshCopyCommit ltn s = .next t ∧ Touches
    [.regs, .free, .out, .ret, .map, .fen, .mere, .nvq] s t := by
  refine ⟨_, rfl, ?_⟩
  repeat' (first | with_reducible exact Touches.refl _ _ | dsimp only | with_reducible apply Touches.ite ?_ ?_
                 | with_reducible apply Touches.trans ?_ (Touches.mono (begin_touch ..) (by decide))
                 | with_reducible apply Touches.trans ?_ (Touches.mono (refreshDone_touch ..) (by decide))
                 | with_reducible apply Touches.trans ?_ (Touches.mono (mapNote_touch ..) (by decide))
                 | with_reducible apply Touches.trans ?_ (Touches.mono (makeDurable_touch ..) (by decide))
                 | with_reducible apply Touches.trans ?_ (Touches.mono (commitStripe_touch ..) (by decide))
                 | simp only [touches_mk]; with_reducible refine Touches.made (h := ?_) | (intro _) | (split))

theorem execBlockBackgroundErase_touch (link : Link) (block : Nat) (ok : Bool) (s : State) : ∃ t,
    execBlockBackgroundErase link block ok s = .next t ∧ Touches [.regs, .out, .glb, .map, .fen, .mere, .nvq] s t := by
  refine ⟨_, rfl, ?_⟩
  repeat' (first | with_reducible exact Touches.refl _ _ | dsimp only | with_reducible apply Touches.ite ?_ ?_
                 | with_reducible apply Touches.trans ?_ (Touches.mono (begin_touch ..) (by decide))
                 | with_reducible apply Touches.trans ?_ (Touches.mono (wipeBlock_touch ..) (by decide))
                 | with_reducible apply Touches.trans ?_ (Touches.mono (putBlock_touch ..) (by decide))
                 | with_reducible apply Touches.trans ?_ (Touches.mono (wornCheck_touch ..) (by decide))
                 | with_reducible apply Touches.trans ?_ (Touches.mono (spoilBlock_touch ..) (by decide))
                 | simp only [touches_mk]; with_reducible refine Touches.made (h := ?_) | (intro _) | (split))

theorem execJournalRowProgram_touch (waiter : Bool) (ok : Bool) (s : State) : ∃ t, execJournalRowProgram waiter ok s =
    .next t ∧ Touches [.regs, .free, .out, .map, .mere, .nvq] s t := by
  refine ⟨_, rfl, ?_⟩
  repeat' (first | with_reducible exact Touches.refl _ _ | dsimp only | with_reducible apply Touches.ite ?_ ?_
                 | with_reducible apply Touches.trans ?_ (Touches.mono (begin_touch ..) (by decide))
                 | with_reducible apply Touches.trans ?_ (Touches.mono (programJournal_touch ..) (by decide))
                 | simp only [touches_mk]; with_reducible refine Touches.made (h := ?_) | (intro _) | (split))

theorem execJournalRowTimeout_touch (s : State) : ∃ t, execJournalRowTimeout s = .next t ∧ Touches [.regs, .free, .out,
    .map, .mere, .nvq] s t := by
  refine ⟨_, rfl, ?_⟩
  repeat' (first | with_reducible exact Touches.refl _ _ | dsimp only | with_reducible apply Touches.ite ?_ ?_
                 | with_reducible apply Touches.trans ?_ (Touches.mono (programJournal_touch ..) (by decide))
                 | with_reducible apply Touches.trans ?_ (Touches.mono (begin_touch ..) (by decide))
                 | simp only [touches_mk]; with_reducible refine Touches.made (h := ?_) | (intro _) | (split))

theorem execCheckpointTimer_touch (s : State) : ∃ t, execCheckpointTimer s = .next t ∧ Touches [.regs, .out, .map] s t := by
  refine ⟨_, rfl, ?_⟩
  repeat' (first | with_reducible exact Touches.refl _ _
                 | with_reducible apply Touches.trans ?_ (Touches.mono (begin_touch ..) (by decide))
                 | with_reducible apply Touches.trans ?_ (Touches.mono (startCheckpoint_touch ..) (by decide)))

theorem execCheckpointNow_touch (_path : AccessPath) (s : State) : ∃ t, execCheckpointNow _path s = .next t ∧ Touches [.regs,
    .out, .map] s t := by
  refine ⟨_, rfl, ?_⟩
  repeat' (first | with_reducible exact Touches.refl _ _
                 | with_reducible apply Touches.trans ?_ (Touches.mono (begin_touch ..) (by decide))
                 | with_reducible apply Touches.trans ?_ (Touches.mono (startCheckpoint_touch ..) (by decide)))

theorem execCheckpointMarkDurable_touch (s : State) : ∃ t, execCheckpointMarkDurable s = .next t ∧ Touches [.regs,
    .free, .out, .ret, .map, .mere, .nvq] s t := by
  refine ⟨_, rfl, ?_⟩
  repeat' (first | with_reducible exact Touches.refl _ _ | dsimp only | with_reducible apply Touches.ite ?_ ?_
                 | with_reducible apply Touches.trans ?_ (Touches.mono (begin_touch ..) (by decide))
                 | with_reducible apply Touches.trans ?_ (Touches.mono (putParity_touch ..) (by decide))
                 | with_reducible apply Touches.trans ?_ (Touches.mono (putMeta_touch ..) (by decide))
                 | with_reducible apply Touches.trans ?_ (Touches.mono (eachOf_touch ..) (by decide))
                 | with_reducible apply Touches.trans ?_ (Touches.mono (setFrontier_touch ..) (by decide))
                 | with_reducible apply Touches.trans ?_ (Touches.mono (makeDurable_touch ..) (by decide))
                 | with_reducible apply Touches.trans ?_ (Touches.mono (journal_touch ..) (by decide))
                 | with_reducible apply Touches.trans ?_ (Touches.mono (anchorWrite_touch ..) (by decide))
                 | with_reducible apply Touches.trans ?_ (Touches.mono (releaseAfter_touch ..) (by decide))
                 | with_reducible apply Touches.trans ?_ (Touches.mono (wr_touch _ _ _ _) (by decide))
                 | with_reducible apply Touches.trans ?_ (Touches.mono (freeJournal_touch ..) (by decide))
                 | with_reducible apply Touches.trans ?_ (eachOf_touch _ _ _ ?_)
                 | with_reducible apply Touches.trans ?_ (foldl_touch _ _ _ ?_)
                 | simp only [touches_mk]; with_reducible refine Touches.made (h := ?_) | (intro _) | (split))

theorem execStripeIdReuseDelay_touch (stripe : StripeId) (s : State) : ∃ t, execStripeIdReuseDelay stripe s = .next t ∧
    Touches [.out, .map] s t := by
  refine ⟨_, rfl, ?_⟩
  repeat' (first | with_reducible exact Touches.refl _ _ | dsimp only | with_reducible apply Touches.ite ?_ ?_
                 | with_reducible apply Touches.trans ?_ (Touches.mono (begin_touch ..) (by decide))
                 | simp only [touches_mk]; with_reducible refine Touches.made (h := ?_))

theorem execCipRingTailWrite_touch (_path : AccessPath) (ring : Fin 16) (tail : Word) (s : State) : ∃ t, execCipRingTailWrite
    _path ring tail s = .next t ∧ Touches [.regs, .free, .out, .glb, .peat, .ret, .map, .mere, .nvq, .cip] s t := by
  refine ⟨_, rfl, ?_⟩
  repeat' (first | with_reducible exact Touches.refl _ _
                 | with_reducible apply Touches.trans ?_ (Touches.mono (wr_touch _ _ _ _) (by decide))
                 | with_reducible apply Touches.trans ?_ (Touches.mono (begin_touch ..) (by decide))
                 | with_reducible apply Touches.trans ?_ (Touches.mono (cipFetch_touch ..) (by decide)))

theorem execCipherSeal_touch (ring : Fin 16) (slot : Nat) (s : State) : ∃ t, execCipherSeal ring slot s = .next t ∧ Touches
    [.regs, .free, .out, .glb, .peat, .ret, .map, .mere, .nvq, .cip] s t := by
  refine ⟨_, rfl, ?_⟩
  repeat' (first | with_reducible exact Touches.refl _ _ | dsimp only
                 | with_reducible apply Touches.trans ?_ (Touches.mono (begin_touch ..) (by decide))
                 | with_reducible apply Touches.trans ?_ (Touches.mono (cipRun_touch ..) (by decide)))

theorem execCipherOpen_touch (ring : Fin 16) (slot : Nat) (s : State) : ∃ t, execCipherOpen ring slot s = .next t ∧ Touches
    [.regs, .free, .out, .glb, .peat, .ret, .map, .mere, .nvq, .cip] s t := by
  refine ⟨_, rfl, ?_⟩
  repeat' (first | with_reducible exact Touches.refl _ _
                 | with_reducible apply Touches.trans ?_ (Touches.mono (begin_touch ..) (by decide))
                 | with_reducible apply Touches.trans ?_ (Touches.mono (cipRun_touch ..) (by decide)))

theorem execCipherVerify_touch (ring : Fin 16) (slot : Nat) (s : State) : ∃ t, execCipherVerify ring slot s = .next t ∧
    Touches [.regs, .free, .out, .glb, .peat, .ret, .map, .mere, .nvq, .cip] s t := by
  refine ⟨_, rfl, ?_⟩
  repeat' (first | with_reducible exact Touches.refl _ _
                 | with_reducible apply Touches.trans ?_ (Touches.mono (begin_touch ..) (by decide))
                 | with_reducible apply Touches.trans ?_ (Touches.mono (cipRun_touch ..) (by decide)))

theorem execSlotDrainDone_touch (key : Nat) (s : State) : ∃ t, execSlotDrainDone key s = .next t ∧ Touches [.regs,
    .free, .out, .map, .mere, .nvq, .cip] s t := by
  refine ⟨_, rfl, ?_⟩
  repeat' (first | with_reducible exact Touches.refl _ _ | dsimp only | with_reducible apply Touches.ite ?_ ?_
                 | with_reducible apply Touches.trans ?_ (Touches.mono (begin_touch ..) (by decide))
                 | with_reducible apply Touches.trans ?_ (Touches.mono (rekey_touch ..) (by decide))
                 | with_reducible apply Touches.trans ?_ (Touches.mono (putKeySlot_touch ..) (by decide))
                 | with_reducible apply Touches.trans ?_ (Touches.mono (labelErase_touch ..) (by decide))
                 | with_reducible apply Touches.trans ?_ (Touches.mono (finishCmd_touch ..) (by decide))
                 | simp only [touches_mk]; with_reducible refine Touches.made (h := ?_) | (intro _) | (split))

theorem execDrbgReseedRetry_touch (pass : Bool) (s : State) : ∃ t, execDrbgReseedRetry pass s = .next t ∧ Touches [.regs,
    .out, .nvq, .cip] s t := by
  refine ⟨_, rfl, ?_⟩
  repeat' (first | with_reducible exact Touches.refl _ _ | dsimp only | with_reducible apply Touches.ite ?_ ?_
                 | with_reducible apply Touches.trans ?_ (Touches.mono (wr_touch _ _ _ _) (by decide))
                 | with_reducible apply Touches.trans ?_ (Touches.mono (begin_touch ..) (by decide))
                 | with_reducible apply Touches.trans ?_ (Touches.mono (putSlot_touch ..) (by decide))
                 | simp only [touches_mk]; with_reducible refine Touches.made (h := ?_)
                 | with_reducible apply Touches.trans ?_ (eachOf_touch _ _ _ ?_) | (intro _) | (split))

theorem execDrbgWaitTimeout_touch (slot : SlotNo) (s : State) : ∃ t, execDrbgWaitTimeout slot s = .next t ∧ Touches [.out,
    .nvq, .cip] s t := by
  refine ⟨_, rfl, ?_⟩
  repeat' (first | with_reducible exact Touches.refl _ _ | dsimp only | with_reducible apply Touches.ite ?_ ?_
                 | with_reducible apply Touches.trans ?_ (Touches.mono (begin_touch ..) (by decide))
                 | with_reducible apply Touches.trans ?_ (Touches.mono (putNs_touch ..) (by decide))
                 | with_reducible apply Touches.trans ?_ (Touches.mono (finishCmd_touch ..) (by decide))
                 | simp only [touches_mk]; with_reducible refine Touches.made (h := ?_)
                 | with_reducible apply Touches.trans ?_ (eachOf_touch _ _ _ ?_) | (intro _) | (split))

theorem execSqTailDoorbell_touch (ctrl : CtrlId) (qid value : Nat) (s : State) : ∃ t, execSqTailDoorbell ctrl qid value s =
    .next t ∧ Touches [.regs, .out, .nvq] s t := by
  refine ⟨_, rfl, ?_⟩
  repeat' (first | with_reducible exact Touches.refl _ _
                 | with_reducible apply Touches.trans ?_ (Touches.mono (begin_touch ..) (by decide))
                 | with_reducible apply Touches.trans ?_ (Touches.mono (sqDoorbell_touch ..) (by decide)))

theorem execCqHeadDoorbell_touch (ctrl : CtrlId) (qid value : Nat) (s : State) : ∃ t, execCqHeadDoorbell ctrl qid value s =
    .next t ∧ Touches [.regs, .out, .nvq] s t := by
  refine ⟨_, rfl, ?_⟩
  repeat' (first | with_reducible exact Touches.refl _ _
                 | with_reducible apply Touches.trans ?_ (Touches.mono (begin_touch ..) (by decide))
                 | with_reducible apply Touches.trans ?_ (Touches.mono (cqDoorbell_touch ..) (by decide)))

theorem execSqFetch_touch (ctrl : CtrlId) (qid : Nat) (entries : List Sqe) (s : State) : ∃ t, execSqFetch ctrl qid
    entries s = .next t ∧ Touches [.regs, .out, .ret, .nvq] s t := by
  refine ⟨_, rfl, ?_⟩
  repeat' (first | with_reducible exact Touches.refl _ _ | dsimp only | with_reducible apply Touches.ite ?_ ?_
                 | with_reducible apply Touches.trans ?_ (Touches.mono (begin_touch ..) (by decide))
                 | with_reducible apply Touches.trans ?_ (Touches.mono (turnTaken_touch ..) (by decide))
                 | with_reducible apply Touches.trans ?_ (Touches.mono (takeEntry_touch ..) (by decide))
                 | with_reducible apply Touches.trans ?_ (Touches.mono (putSq_touch ..) (by decide))
                 | with_reducible apply Touches.trans ?_ (Touches.mono (takeAll_touch ..) (by decide))
                 | with_reducible apply Touches.trans ?_ (eachOf_touch _ _ _ ?_)
                 | with_reducible apply Touches.trans ?_ (foldl_touch _ _ _ ?_)
                 | simp only [touches_mk]; with_reducible refine Touches.made (h := ?_) | (intro _) | (split))

theorem execCapsuleArrival_touch (ctrl : CtrlId) (qid : Nat) (entry : Sqe) (s : State) : ∃ t, execCapsuleArrival ctrl qid
    entry s = .next t ∧ Touches [.regs, .out, .ret, .nvq] s t := by
  refine ⟨_, rfl, ?_⟩
  repeat' (first | with_reducible exact Touches.refl _ _ | with_reducible apply Touches.ite ?_ ?_
                 | with_reducible apply Touches.trans ?_ (Touches.mono (begin_touch ..) (by decide))
                 | with_reducible apply Touches.trans ?_ (Touches.mono (takeEntry_touch ..) (by decide))
                 | with_reducible apply Touches.trans ?_ (Touches.mono (putSq_touch ..) (by decide)) | (split))

theorem execCompletionPost_touch (slot : SlotNo) (s : State) : ∃ t, execCompletionPost slot s = .next t ∧ Touches [.regs,
    .out, .ret, .nvq, .slu] s t := by
  refine ⟨_, rfl, ?_⟩
  repeat' (first | with_reducible exact Touches.refl _ _
                 | with_reducible apply Touches.trans ?_ (Touches.mono (begin_touch ..) (by decide))
                 | with_reducible apply Touches.trans ?_ (Touches.mono (postSlot_touch ..) (by decide)))

theorem execCqStallTimer_touch (ctrl : CtrlId) (cqid : Nat) (s : State) : ∃ t, execCqStallTimer ctrl cqid s = .next t ∧
    Touches [.regs, .out] s t := by
  refine ⟨_, rfl, ?_⟩
  repeat' (first | with_reducible exact Touches.refl _ _ | with_reducible apply Touches.ite ?_ ?_
                 | with_reducible apply Touches.trans ?_ (Touches.mono (wr_touch _ _ _ _) (by decide))
                 | with_reducible apply Touches.trans ?_ (Touches.mono (begin_touch ..) (by decide)) | (split))

theorem execInterruptCoalesceTimer_touch (ctrl : CtrlId) (vector : Nat) (s : State) : ∃ t, execInterruptCoalesceTimer ctrl
    vector s = .next t ∧ Touches [.out, .nvq] s t := by
  refine ⟨_, rfl, ?_⟩
  repeat' (first | with_reducible exact Touches.refl _ _
                 | with_reducible apply Touches.trans ?_ (Touches.mono (begin_touch ..) (by decide))
                 | with_reducible apply Touches.trans ?_ (Touches.mono (sendVector_touch ..) (by decide)))

theorem execDeleteIoSq_touch (slot : SlotNo) (s : State) : ∃ t, execDeleteIoSq slot s = .next t ∧ Touches [.out, .nvq] s t := by
  refine ⟨_, rfl, ?_⟩
  repeat' (first | with_reducible exact Touches.refl _ _ | dsimp only | with_reducible apply Touches.ite ?_ ?_
                 | with_reducible apply Touches.trans ?_ (Touches.mono (begin_touch ..) (by decide))
                 | with_reducible apply Touches.trans ?_ (Touches.mono (finishCmd_touch ..) (by decide))
                 | with_reducible apply Touches.trans ?_ (Touches.mono (putSq_touch ..) (by decide))
                 | with_reducible apply Touches.trans ?_ (Touches.mono (deleteNote_touch ..) (by decide))
                 | with_reducible apply Touches.trans ?_ (withCmd_touch (hp := by decide) (hf := ?_) ..)
                 | with_reducible apply Touches.trans ?_ (eachOf_touch _ _ _ ?_) | (intro _) | (split))

theorem execCreateIoSq_touch (slot : SlotNo) (s : State) : ∃ t, execCreateIoSq slot s = .next t ∧ Touches [.out, .nvq] s t := by
  refine ⟨_, rfl, ?_⟩
  repeat' (first | with_reducible exact Touches.refl _ _ | dsimp only | with_reducible apply Touches.ite ?_ ?_
                 | with_reducible apply Touches.trans ?_ (Touches.mono (begin_touch ..) (by decide))
                 | with_reducible apply Touches.trans ?_ (Touches.mono (finishCmd_touch ..) (by decide))
                 | with_reducible apply Touches.trans ?_ (Touches.mono (putSq_touch ..) (by decide))
                 | with_reducible apply Touches.trans ?_ (withCmd_touch (hp := by decide) (hf := ?_) ..) | (intro _))

theorem execDeleteIoCq_touch (slot : SlotNo) (s : State) : ∃ t, execDeleteIoCq slot s = .next t ∧ Touches [.out, .nvq] s t := by
  refine ⟨_, rfl, ?_⟩
  repeat' (first | with_reducible exact Touches.refl _ _ | dsimp only | with_reducible apply Touches.ite ?_ ?_
                 | with_reducible apply Touches.trans ?_ (Touches.mono (begin_touch ..) (by decide))
                 | with_reducible apply Touches.trans ?_ (Touches.mono (putCtrl_touch ..) (by decide))
                 | with_reducible apply Touches.trans ?_ (Touches.mono (finishCmd_touch ..) (by decide))
                 | with_reducible apply Touches.trans ?_ (withCmd_touch (hp := by decide) (hf := ?_) ..) | (intro _))

theorem execCreateIoCq_touch (slot : SlotNo) (s : State) : ∃ t, execCreateIoCq slot s = .next t ∧ Touches [.out, .nvq] s t := by
  refine ⟨_, rfl, ?_⟩
  repeat' (first | with_reducible exact Touches.refl _ _ | dsimp only | with_reducible apply Touches.ite ?_ ?_
                 | with_reducible apply Touches.trans ?_ (Touches.mono (begin_touch ..) (by decide))
                 | with_reducible apply Touches.trans ?_ (Touches.mono (finishCmd_touch ..) (by decide))
                 | with_reducible apply Touches.trans ?_ (Touches.mono (putCq_touch ..) (by decide))
                 | with_reducible apply Touches.trans ?_ (withCmd_touch (hp := by decide) (hf := ?_) ..) | (intro _))

theorem execAbort_touch (slot : SlotNo) (s : State) : ∃ t, execAbort slot s = .next t ∧ Touches [.out, .nvq] s t := by
  refine ⟨_, rfl, ?_⟩
  repeat' (first | with_reducible exact Touches.refl _ _ | dsimp only | with_reducible apply Touches.ite ?_ ?_
                 | with_reducible apply Touches.trans ?_ (Touches.mono (begin_touch ..) (by decide))
                 | with_reducible apply Touches.trans ?_ (Touches.mono (finishCmd_touch ..) (by decide))
                 | with_reducible apply Touches.trans ?_ (withCmd_touch (hp := by decide) (hf := ?_) ..) | (intro _) | (split))

theorem execCcEnClear_touch (ctrl : CtrlId) (s : State) : ∃ t, execCcEnClear ctrl s = .next t ∧ Touches [.regs, .free, .out,
    .nvq, .slu] s t := by
  refine ⟨_, rfl, ?_⟩
  repeat' (first | with_reducible exact Touches.refl _ _ | with_reducible apply Touches.ite ?_ ?_
                 | with_reducible apply Touches.trans ?_ (Touches.mono (begin_touch ..) (by decide))
                 | with_reducible apply Touches.trans ?_ (Touches.mono (ctrlReset_touch ..) (by decide)) | (split))

theorem execNormalShutdown_touch (ctrl : CtrlId) (s : State) : ∃ t, execNormalShutdown ctrl s = .next t ∧ Touches [.out,
    .nvq] s t := by
  refine ⟨_, rfl, ?_⟩
  repeat' (first | with_reducible exact Touches.refl _ _ | with_reducible apply Touches.ite ?_ ?_
                 | with_reducible apply Touches.trans ?_ (Touches.mono (begin_touch ..) (by decide))
                 | with_reducible apply Touches.trans ?_ (Touches.mono (shutdownBegin_touch ..) (by decide)) | (split))

theorem execAbruptShutdown_touch (ctrl : CtrlId) (s : State) : ∃ t, execAbruptShutdown ctrl s = .next t ∧ Touches [.regs,
    .free, .out, .nvq, .slu] s t := by
  refine ⟨_, rfl, ?_⟩
  repeat' (first | with_reducible exact Touches.refl _ _ | with_reducible apply Touches.ite ?_ ?_
                 | with_reducible apply Touches.trans ?_ (Touches.mono (begin_touch ..) (by decide))
                 | with_reducible apply Touches.trans ?_ (Touches.mono (ctrlReset_touch ..) (by decide))
                 | with_reducible apply Touches.trans ?_ (Touches.mono (shutdownBegin_touch ..) (by decide)) | (split))

theorem execControllerResetDone_touch (ctrl : CtrlId) (s : State) : ∃ t, execControllerResetDone ctrl s = .next t ∧ Touches
    [.out, .nvq] s t := by
  refine ⟨_, rfl, ?_⟩
  repeat' (first | with_reducible exact Touches.refl _ _ | dsimp only | with_reducible apply Touches.ite ?_ ?_
                 | with_reducible apply Touches.trans ?_ (Touches.mono (begin_touch ..) (by decide))
                 | with_reducible apply Touches.trans ?_ (Touches.mono (putCtrl_touch ..) (by decide))
                 | simp only [touches_mk]; with_reducible refine Touches.made (h := ?_) | (split))

theorem execCcEnSet_touch (ctrl : CtrlId) (cc aqa : Word) (s : State) : ∃ t, execCcEnSet ctrl cc aqa s = .next t ∧ Touches
    [.out, .nvq] s t := by
  refine ⟨_, rfl, ?_⟩
  repeat' (first | with_reducible exact Touches.refl _ _
                 | with_reducible apply Touches.trans ?_ (Touches.mono (begin_touch ..) (by decide))
                 | with_reducible apply Touches.trans ?_ (Touches.mono (ctrlEnable_touch ..) (by decide)))

theorem execLostCompletionEntryEnd_touch (key : HostKey) (index endMs : Nat) (s : State) : ∃ t, execLostCompletionEntryEnd
    key index endMs s = .next t ∧ Touches [.out, .nvq, .slu] s t := by
  refine ⟨_, rfl, ?_⟩
  repeat' (first | with_reducible exact Touches.refl _ _ | dsimp only | with_reducible apply Touches.ite ?_ ?_
                 | with_reducible apply Touches.trans ?_ (Touches.mono (begin_touch ..) (by decide))
                 | with_reducible apply Touches.trans ?_ (Touches.mono (freeSlotOf_touch ..) (by decide))
                 | with_reducible apply Touches.trans ?_ (Touches.mono (lcrOffer_touch ..) (by decide))
                 | with_reducible apply Touches.trans ?_ (Touches.mono (noteDone_touch ..) (by decide))
                 | simp only [touches_mk]; with_reducible refine Touches.made (h := ?_) | (split))

theorem execLostCompletionExpiry_touch (key : HostKey) (s : State) : ∃ t, execLostCompletionExpiry key s = .next t ∧ Touches
    [.out, .nvq] s t := by
  refine ⟨_, rfl, ?_⟩
  repeat' (first | with_reducible exact Touches.refl _ _ | dsimp only
                 | with_reducible apply Touches.trans ?_ (Touches.mono (begin_touch ..) (by decide))
                 | simp only [touches_mk]; with_reducible refine Touches.made (h := ?_))

theorem execAnaChangeTimeout_touch (port : HostPort) (s : State) : ∃ t, execAnaChangeTimeout port s = .next t ∧ Touches
    [.out, .nvq] s t := by
  refine ⟨_, rfl, ?_⟩
  repeat' (first | with_reducible exact Touches.refl _ _
                 | with_reducible apply Touches.trans ?_ (Touches.mono (begin_touch ..) (by decide))
                 | with_reducible apply Touches.trans ?_ (Touches.mono (portSettle_touch ..) (by decide)))

theorem execBenchEvaluate_touch (s : State) : ∃ t, execBenchEvaluate s = .next t ∧ Touches [.regs, .free, .out, .glb,
    .peat, .fen, .seam, .nvq] s t := by
  refine ⟨_, rfl, ?_⟩
  repeat' (first | with_reducible exact Touches.refl _ _ | dsimp only | with_reducible apply Touches.ite ?_ ?_
                 | with_reducible apply Touches.trans ?_ (Touches.mono (eachOf_touch ..) (by decide))
                 | with_reducible apply Touches.trans ?_ (Touches.mono (rebuildOver_touch ..) (by decide))
                 | with_reducible apply Touches.trans ?_ (Touches.mono (fenRefresh_touch ..) (by decide))
                 | with_reducible apply Touches.trans ?_ (Touches.mono (wornCheck_touch ..) (by decide))
                 | with_reducible apply Touches.trans ?_ (Touches.mono (begin_touch ..) (by decide))
                 | with_reducible apply Touches.trans ?_ (eachOf_touch _ _ _ ?_)
                 | with_reducible apply Touches.trans ?_ (foldl_touch _ _ _ ?_)
                 | simp only [touches_mk]; with_reducible refine Touches.made (h := ?_) | (intro _) | (split))

theorem execBench5ExitTimer_touch (fen : Fen) (s : State) : ∃ t, execBench5ExitTimer fen s = .next t ∧ Touches [.regs, .out,
    .glb, .fen] s t := by
  refine ⟨_, rfl, ?_⟩
  repeat' (first | with_reducible exact Touches.refl _ _ | dsimp only | with_reducible apply Touches.ite ?_ ?_
                 | with_reducible apply Touches.trans ?_ (Touches.mono (wr_touch _ _ _ _) (by decide))
                 | with_reducible apply Touches.trans ?_ (Touches.mono (begin_touch ..) (by decide))
                 | with_reducible apply Touches.trans ?_ (Touches.mono (glbRefresh_touch ..) (by decide))
                 | simp only [touches_mk]; with_reducible refine Touches.made (h := ?_))

theorem execRebuildJobStart_touch (stripe : StripeId) (slot : Fin 28) (s : State) : ∃ t, execRebuildJobStart stripe slot
    s = .next t ∧ Touches [.regs, .out, .glb, .ret, .map, .fen, .nvq] s t := by
  refine ⟨_, rfl, ?_⟩
  repeat' (first | with_reducible exact Touches.refl _ _ | dsimp only | with_reducible apply Touches.ite ?_ ?_
                 | with_reducible apply Touches.trans ?_ (Touches.mono (begin_touch ..) (by decide))
                 | with_reducible apply Touches.trans ?_ (Touches.mono (startJob_touch ..) (by decide))
                 | simp only [touches_mk]; with_reducible refine Touches.made (h := ?_) | (intro _) | (split))

theorem execRebuildJobDone_touch (stripe : StripeId) (slot : Fin 28) (ok : Bool) (s : State) : ∃ t, execRebuildJobDone
    stripe slot ok s = .next t ∧ Touches [.regs, .free, .out, .glb, .peat, .ret, .map, .fen, .seam, .mere, .nvq] s t := by
  refine ⟨_, rfl, ?_⟩
  repeat' (first | with_reducible exact Touches.refl _ _ | dsimp only | with_reducible apply Touches.ite ?_ ?_
                 | with_reducible apply Touches.trans ?_ (Touches.mono (begin_touch ..) (by decide))
                 | with_reducible apply Touches.trans ?_ (Touches.mono (startJob_touch ..) (by decide))
                 | with_reducible apply Touches.trans ?_ (Touches.mono (spoilAndCheck_touch ..) (by decide))
                 | with_reducible apply Touches.trans ?_ (Touches.mono (wipeBlock_touch ..) (by decide))
                 | with_reducible apply Touches.trans ?_ (Touches.mono (rebuildRows_touch ..) (by decide))
                 | with_reducible apply Touches.trans ?_ (Touches.mono (makeDurable_touch ..) (by decide))
                 | with_reducible apply Touches.trans ?_ (Touches.mono (journal_touch ..) (by decide))
                 | with_reducible apply Touches.trans ?_ (Touches.mono (sourceNote_touch ..) (by decide))
                 | with_reducible apply Touches.trans ?_ (Touches.mono (closeStripe_touch ..) (by decide))
                 | with_reducible apply Touches.trans ?_ (Touches.mono (freeBlock_touch ..) (by decide))
                 | with_reducible apply Touches.trans ?_ (Touches.mono (rebuildOver_touch ..) (by decide))
                 | with_reducible apply Touches.trans ?_ (Touches.mono (wr_touch _ _ _ _) (by decide))
                 | simp only [touches_mk]; with_reducible refine Touches.made (h := ?_) | (intro _) | (split))

theorem execRefreshInPlace_touch (stripe : StripeId) (failSlot : Option (Fin 28)) (s : State) : ∃ t, execRefreshInPlace
    stripe failSlot s = .next t ∧ Touches [.regs, .out, .glb, .ret, .map, .fen, .mere, .nvq] s t := by
  refine ⟨_, rfl, ?_⟩
  repeat' (first | with_reducible exact Touches.refl _ _ | dsimp only | with_reducible apply Touches.ite ?_ ?_
                 | with_reducible apply Touches.trans ?_ (Touches.mono (begin_touch ..) (by decide))
                 | with_reducible apply Touches.trans ?_ (Touches.mono (fenRefresh_touch ..) (by decide))
                 | with_reducible apply Touches.trans ?_ (Touches.mono (catchupNote_touch ..) (by decide))
                 | with_reducible apply Touches.trans ?_ (Touches.mono (refreshDone_touch ..) (by decide))
                 | with_reducible apply Touches.trans ?_ (Touches.mono (forgetDue_touch ..) (by decide))
                 | with_reducible apply Touches.trans ?_ (Touches.mono (refreshInPlace_touch ..) (by decide))
                 | simp only [touches_mk]; with_reducible refine Touches.made (h := ?_) | (intro _) | (split))

theorem execRebuildCtlWrite_touch (path : AccessPath) (value : Word) (s : State) : ∃ t, execRebuildCtlWrite path value s =
    .next t ∧ Touches [.regs, .free, .out, .peat, .fen] s t := by
  refine ⟨_, rfl, ?_⟩
  repeat' (first | with_reducible exact Touches.refl _ _
                 | with_reducible apply Touches.trans ?_ (Touches.mono (begin_touch ..) (by decide))
                 | with_reducible apply Touches.trans ?_ (Touches.mono (rebuildCtlWrite_touch ..) (by decide)))

theorem execRebuildHoldTimeout_touch (s : State) : ∃ t, execRebuildHoldTimeout s = .next t ∧ Touches [.regs, .out, .fen] s t
    := by
  refine ⟨_, rfl, ?_⟩
  repeat' (first | with_reducible exact Touches.refl _ _ | dsimp only | with_reducible apply Touches.ite ?_ ?_
                 | with_reducible apply Touches.trans ?_ (Touches.mono (wr_touch _ _ _ _) (by decide))
                 | with_reducible apply Touches.trans ?_ (Touches.mono (begin_touch ..) (by decide))
                 | simp only [touches_mk]; with_reducible refine Touches.made (h := ?_))

theorem execSluiceAdmit_touch (slot : SlotNo) (s : State) : ∃ t, execSluiceAdmit slot s = .next t ∧ Touches [.regs, .out,
    .nvq] s t := by
  refine ⟨_, rfl, ?_⟩
  repeat' (first | with_reducible exact Touches.refl _ _ | with_reducible apply Touches.ite ?_ ?_
                 | with_reducible apply Touches.trans ?_ (Touches.mono (begin_touch ..) (by decide))
                 | with_reducible apply Touches.trans ?_ (Touches.mono (finishCmd_touch ..) (by decide))
                 | with_reducible apply Touches.trans ?_ (Touches.mono (fallowWake_touch ..) (by decide))
                 | with_reducible apply Touches.trans ?_ (Touches.mono (admitSlot_touch ..) (by decide))
                 | with_reducible apply Touches.trans ?_ (Touches.mono (admitWrite_touch ..) (by decide)) | (split))

theorem execSluiceReadRelease_touch (slot : SlotNo) (link : Link) (die : Fin 32) (s : State) : ∃ t,
    execSluiceReadRelease slot link die s = .next t ∧ Touches [.regs, .out, .slu] s t := by
  refine ⟨_, rfl, ?_⟩
  repeat' (first | with_reducible exact Touches.refl _ _ | dsimp only | with_reducible apply Touches.ite ?_ ?_
                 | with_reducible apply Touches.trans ?_ (Touches.mono (begin_touch ..) (by decide))
                 | with_reducible apply Touches.trans ?_ (Touches.mono (wr_touch _ _ _ _) (by decide))
                 | simp only [touches_mk]; with_reducible refine Touches.made (h := ?_) | (intro _) | (split))

theorem execSluicePeriod_touch (s : State) : ∃ t, execSluicePeriod s = .next t ∧ Touches [.regs, .free, .out, .ret,
    .map, .fen, .nvq, .slu] s t := by
  refine ⟨_, rfl, ?_⟩
  repeat' (first | with_reducible exact Touches.refl _ _ | dsimp only | with_reducible apply Touches.ite ?_ ?_
                 | with_reducible apply Touches.trans ?_ (Touches.mono (periodStat_touch ..) (by decide))
                 | with_reducible apply Touches.trans ?_ (Touches.mono (periodScale_touch ..) (by decide))
                 | with_reducible apply Touches.trans ?_ (Touches.mono (creditAge_touch ..) (by decide))
                 | with_reducible apply Touches.trans ?_ (Touches.mono (applyShare_touch ..) (by decide))
                 | with_reducible apply Touches.trans ?_ (Touches.mono (periodTurn_touch ..) (by decide))
                 | with_reducible apply Touches.trans ?_ (Touches.mono (periodUse_touch ..) (by decide))
                 | with_reducible apply Touches.trans ?_ (Touches.mono (begin_touch ..) (by decide))
                 | simp only [touches_mk]; with_reducible refine Touches.made (h := ?_) | (intro _) | (split))

theorem execMergeCreditAccrue_touch (cls : BitVec 8) (milliHours : Nat) (s : State) : ∃ t, execMergeCreditAccrue cls
    milliHours s = .next t ∧ Touches [.out, .slu] s t := by
  refine ⟨_, rfl, ?_⟩
  repeat' (first | with_reducible exact Touches.refl _ _
                 | with_reducible apply Touches.trans ?_ (Touches.mono (begin_touch ..) (by decide))
                 | with_reducible apply Touches.trans ?_ (Touches.mono (putUse_touch ..) (by decide)))

theorem execForcedFold_touch (s : State) : ∃ t, execForcedFold s = .next t ∧ Touches [.regs, .free, .out, .ret, .map,
    .mere, .nvq] s t := by
  refine ⟨_, rfl, ?_⟩
  repeat' (first | with_reducible exact Touches.refl _ _ | dsimp only | with_reducible apply Touches.ite ?_ ?_
                 | with_reducible apply Touches.trans ?_ (Touches.mono (begin_touch ..) (by decide))
                 | with_reducible apply Touches.trans ?_ (Touches.mono (forcedNote_touch ..) (by decide))
                 | with_reducible apply Touches.trans ?_ (Touches.mono (startFold_touch ..) (by decide))
                 | with_reducible apply Touches.trans ?_ (Touches.mono (finishZone_touch ..) (by decide))
                 | with_reducible apply Touches.trans ?_ (Touches.mono (zoneNotice_touch ..) (by decide))
                 | simp only [touches_mk]; with_reducible refine Touches.made (h := ?_) | (intro _) | (split))

theorem execSetFeaturesArbitration_touch (slot : SlotNo) (s : State) : ∃ t, execSetFeaturesArbitration slot s = .next t ∧
    Touches [.out, .nvq] s t := by
  refine ⟨_, rfl, ?_⟩
  repeat' (first | with_reducible exact Touches.refl _ _
                 | with_reducible apply Touches.trans ?_ (Touches.mono (begin_touch ..) (by decide))
                 | with_reducible apply Touches.trans ?_ (Touches.mono (finishCmd_touch ..) (by decide))
                 | with_reducible apply Touches.trans ?_ (Touches.mono (putFeat_touch ..) (by decide))
                 | with_reducible apply Touches.trans ?_ (setFeature_touch (hp := by decide) (hf := ?_) ..) | (intro _))

theorem execSetFeaturesPowerManagement_touch (slot : SlotNo) (s : State) : ∃ t, execSetFeaturesPowerManagement slot s = .next
    t ∧ Touches [.out, .nvq] s t := by
  refine ⟨_, rfl, ?_⟩
  repeat' (first | with_reducible exact Touches.refl _ _ | dsimp only | with_reducible apply Touches.ite ?_ ?_
                 | with_reducible apply Touches.trans ?_ (Touches.mono (begin_touch ..) (by decide))
                 | with_reducible apply Touches.trans ?_ (Touches.mono (finishCmd_touch ..) (by decide))
                 | with_reducible apply Touches.trans ?_ (Touches.mono (takePs_touch ..) (by decide))
                 | with_reducible apply Touches.trans ?_ (setFeature_touch (hp := by decide) (hf := ?_) ..) | (intro _))

theorem execSetFeaturesTemperatureThreshold_touch (slot : SlotNo) (s : State) : ∃ t, execSetFeaturesTemperatureThreshold slot
    s = .next t ∧ Touches [.out, .nvq] s t := by
  refine ⟨_, rfl, ?_⟩
  repeat' (first | with_reducible exact Touches.refl _ _ | with_reducible apply Touches.ite ?_ ?_
                 | with_reducible apply Touches.trans ?_ (Touches.mono (begin_touch ..) (by decide))
                 | with_reducible apply Touches.trans ?_ (Touches.mono (finishCmd_touch ..) (by decide))
                 | with_reducible apply Touches.trans ?_ (Touches.mono (putFeat_touch ..) (by decide))
                 | with_reducible apply Touches.trans ?_ (setFeature_touch (hp := by decide) (hf := ?_) ..)
                 | with_reducible apply Touches.trans ?_ (eachOf_touch _ _ _ ?_) | (intro _))

theorem execSetFeaturesVolatileWriteCache_touch (slot : SlotNo) (s : State) : ∃ t, execSetFeaturesVolatileWriteCache slot s =
    .next t ∧ Touches [.out, .nvq] s t := by
  refine ⟨_, rfl, ?_⟩
  repeat' (first | with_reducible exact Touches.refl _ _
                 | with_reducible apply Touches.trans ?_ (Touches.mono (begin_touch ..) (by decide))
                 | with_reducible apply Touches.trans ?_ (Touches.mono (finishCmd_touch ..) (by decide))
                 | with_reducible apply Touches.trans ?_ (setFeature_touch (hp := by decide) (hf := ?_) ..) | (intro _))

theorem execSetFeaturesNumberOfQueues_touch (slot : SlotNo) (s : State) : ∃ t, execSetFeaturesNumberOfQueues slot s = .next t
    ∧ Touches [.out, .nvq] s t := by
  refine ⟨_, rfl, ?_⟩
  repeat' (first | with_reducible exact Touches.refl _ _ | with_reducible apply Touches.ite ?_ ?_
                 | with_reducible apply Touches.trans ?_ (Touches.mono (begin_touch ..) (by decide))
                 | with_reducible apply Touches.trans ?_ (Touches.mono (finishCmd_touch ..) (by decide))
                 | with_reducible apply Touches.trans ?_ (setFeature_touch (hp := by decide) (hf := ?_) ..) | (intro _))

theorem execSetFeaturesInterruptCoalescing_touch (slot : SlotNo) (s : State) : ∃ t, execSetFeaturesInterruptCoalescing slot s
    = .next t ∧ Touches [.out, .nvq] s t := by
  refine ⟨_, rfl, ?_⟩
  repeat' (first | with_reducible exact Touches.refl _ _
                 | with_reducible apply Touches.trans ?_ (Touches.mono (begin_touch ..) (by decide))
                 | with_reducible apply Touches.trans ?_ (Touches.mono (finishCmd_touch ..) (by decide))
                 | with_reducible apply Touches.trans ?_ (Touches.mono (putFeat_touch ..) (by decide))
                 | with_reducible apply Touches.trans ?_ (setFeature_touch (hp := by decide) (hf := ?_) ..) | (intro _))

theorem execSetFeaturesInterruptVectorConfig_touch (slot : SlotNo) (s : State) : ∃ t, execSetFeaturesInterruptVectorConfig
    slot s = .next t ∧ Touches [.out, .nvq] s t := by
  refine ⟨_, rfl, ?_⟩
  repeat' (first | with_reducible exact Touches.refl _ _ | dsimp only | with_reducible apply Touches.ite ?_ ?_
                 | with_reducible apply Touches.trans ?_ (Touches.mono (begin_touch ..) (by decide))
                 | with_reducible apply Touches.trans ?_ (Touches.mono (finishCmd_touch ..) (by decide))
                 | with_reducible apply Touches.trans ?_ (Touches.mono (putFeat_touch ..) (by decide))
                 | with_reducible apply Touches.trans ?_ (setFeature_touch (hp := by decide) (hf := ?_) ..) | (intro _))

theorem execSetFeaturesAsyncEventConfig_touch (slot : SlotNo) (s : State) : ∃ t, execSetFeaturesAsyncEventConfig slot s =
    .next t ∧ Touches [.out, .nvq] s t := by
  refine ⟨_, rfl, ?_⟩
  repeat' (first | with_reducible exact Touches.refl _ _
                 | with_reducible apply Touches.trans ?_ (Touches.mono (begin_touch ..) (by decide))
                 | with_reducible apply Touches.trans ?_ (Touches.mono (finishCmd_touch ..) (by decide))
                 | with_reducible apply Touches.trans ?_ (Touches.mono (putFeat_touch ..) (by decide))
                 | with_reducible apply Touches.trans ?_ (setFeature_touch (hp := by decide) (hf := ?_) ..) | (intro _))

theorem execSetFeaturesApst_touch (slot : SlotNo) (table : List Nat) (s : State) : ∃ t, execSetFeaturesApst slot table s =
    .next t ∧ Touches [.out, .nvq] s t := by
  refine ⟨_, rfl, ?_⟩
  repeat' (first | with_reducible exact Touches.refl _ _ | with_reducible apply Touches.ite ?_ ?_
                 | with_reducible apply Touches.trans ?_ (Touches.mono (begin_touch ..) (by decide))
                 | with_reducible apply Touches.trans ?_ (Touches.mono (putCtrl_touch ..) (by decide))
                 | with_reducible apply Touches.trans ?_ (Touches.mono (finishCmd_touch ..) (by decide))
                 | with_reducible apply Touches.trans ?_ (Touches.mono (putFeat_touch ..) (by decide))
                 | with_reducible apply Touches.trans ?_ (setFeature_touch (hp := by decide) (hf := ?_) ..) | (intro _))

theorem execSetFeaturesTimestamp_touch (slot : SlotNo) (millis : Nat) (s : State) : ∃ t, execSetFeaturesTimestamp slot millis
    s = .next t ∧ Touches [.out, .life, .nvq] s t := by
  refine ⟨_, rfl, ?_⟩
  repeat' (first | with_reducible exact Touches.refl _ _ | dsimp only
                 | with_reducible apply Touches.trans ?_ (Touches.mono (begin_touch ..) (by decide))
                 | with_reducible apply Touches.trans ?_ (Touches.mono (finishCmd_touch ..) (by decide))
                 | with_reducible apply Touches.trans ?_ (setFeature_touch (hp := by decide) (hf := ?_) ..)
                 | simp only [touches_mk]; with_reducible refine Touches.made (h := ?_) | (intro _))

theorem execSetFeaturesKeepAliveTimer_touch (slot : SlotNo) (s : State) : ∃ t, execSetFeaturesKeepAliveTimer slot s = .next t
    ∧ Touches [.out, .nvq] s t := by
  refine ⟨_, rfl, ?_⟩
  repeat' (first | with_reducible exact Touches.refl _ _
                 | with_reducible apply Touches.trans ?_ (Touches.mono (begin_touch ..) (by decide))
                 | with_reducible apply Touches.trans ?_ (Touches.mono (putCtrl_touch ..) (by decide))
                 | with_reducible apply Touches.trans ?_ (Touches.mono (finishCmd_touch ..) (by decide))
                 | with_reducible apply Touches.trans ?_ (setFeature_touch (hp := by decide) (hf := ?_) ..) | (intro _))

theorem execSetFeaturesHostIdentifier_touch (slot : SlotNo) (hostId : Nat) (s : State) : ∃ t, execSetFeaturesHostIdentifier
    slot hostId s = .next t ∧ Touches [.out, .nvq] s t := by
  refine ⟨_, rfl, ?_⟩
  repeat' (first | with_reducible exact Touches.refl _ _ | with_reducible apply Touches.ite ?_ ?_
                 | with_reducible apply Touches.trans ?_ (Touches.mono (begin_touch ..) (by decide))
                 | with_reducible apply Touches.trans ?_ (Touches.mono (putCtrl_touch ..) (by decide))
                 | with_reducible apply Touches.trans ?_ (Touches.mono (finishCmd_touch ..) (by decide))
                 | with_reducible apply Touches.trans ?_ (Touches.mono (lcrNotice_touch ..) (by decide))
                 | with_reducible apply Touches.trans ?_ (setFeature_touch (hp := by decide) (hf := ?_) ..) | (intro _))

theorem execSetFeaturesResvNotificationMask_touch (slot : SlotNo) (s : State) : ∃ t, execSetFeaturesResvNotificationMask slot
    s = .next t ∧ Touches [.out, .nvq] s t := by
  refine ⟨_, rfl, ?_⟩
  repeat' (first | with_reducible exact Touches.refl _ _ | with_reducible apply Touches.ite ?_ ?_
                 | with_reducible apply Touches.trans ?_ (Touches.mono (begin_touch ..) (by decide))
                 | with_reducible apply Touches.trans ?_ (Touches.mono (finishCmd_touch ..) (by decide))
                 | with_reducible apply Touches.trans ?_ (Touches.mono (putResv_touch ..) (by decide))
                 | with_reducible apply Touches.trans ?_ (setFeature_touch (hp := by decide) (hf := ?_) ..)
                 | with_reducible apply Touches.trans ?_ (eachOf_touch _ _ _ ?_) | (intro _))

theorem execSetFeaturesResvPersistence_touch (slot : SlotNo) (s : State) : ∃ t, execSetFeaturesResvPersistence slot s = .next
    t ∧ Touches [.out, .nvq] s t := by
  refine ⟨_, rfl, ?_⟩
  repeat' (first | with_reducible exact Touches.refl _ _ | with_reducible apply Touches.ite ?_ ?_
                 | with_reducible apply Touches.trans ?_ (Touches.mono (begin_touch ..) (by decide))
                 | with_reducible apply Touches.trans ?_ (Touches.mono (finishCmd_touch ..) (by decide))
                 | with_reducible apply Touches.trans ?_ (Touches.mono (putResv_touch ..) (by decide))
                 | with_reducible apply Touches.trans ?_ (setFeature_touch (hp := by decide) (hf := ?_) ..)
                 | with_reducible apply Touches.trans ?_ (eachOf_touch _ _ _ ?_) | (intro _))

theorem execGetFeatures_touch (slot : SlotNo) (s : State) : ∃ t, execGetFeatures slot s = .next t ∧ Touches [.out, .nvq] s t
    := by
  refine ⟨_, rfl, ?_⟩
  repeat' (first | with_reducible exact Touches.refl _ _ | dsimp only | with_reducible apply Touches.ite ?_ ?_
                 | with_reducible apply Touches.trans ?_ (Touches.mono (begin_touch ..) (by decide))
                 | with_reducible apply Touches.trans ?_ (Touches.mono (emit_touch ..) (by decide))
                 | with_reducible apply Touches.trans ?_ (Touches.mono (finishCmd_touch ..) (by decide))
                 | with_reducible apply Touches.trans ?_ (withCmd_touch (hp := by decide) (hf := ?_) ..) | (intro _))

theorem execAsyncEventRequest_touch (slot : SlotNo) (s : State) : ∃ t, execAsyncEventRequest slot s = .next t ∧ Touches
    [.out, .nvq] s t := by
  refine ⟨_, rfl, ?_⟩
  repeat' (first | with_reducible exact Touches.refl _ _ | with_reducible apply Touches.ite ?_ ?_
                 | with_reducible apply Touches.trans ?_ (Touches.mono (begin_touch ..) (by decide))
                 | with_reducible apply Touches.trans ?_ (Touches.mono (putCtrl_touch ..) (by decide))
                 | with_reducible apply Touches.trans ?_ (Touches.mono (finishCmd_touch ..) (by decide))
                 | with_reducible apply Touches.trans ?_ (withCmd_touch (hp := by decide) (hf := ?_) ..) | (intro _) | (split))

theorem execKeepAlive_touch (slot : SlotNo) (s : State) : ∃ t, execKeepAlive slot s = .next t ∧ Touches [.out, .nvq] s t := by
  refine ⟨_, rfl, ?_⟩
  repeat' (first | with_reducible exact Touches.refl _ _
                 | with_reducible apply Touches.trans ?_ (Touches.mono (begin_touch ..) (by decide))
                 | with_reducible apply Touches.trans ?_ (Touches.mono (finishCmd_touch ..) (by decide))
                 | with_reducible apply Touches.trans ?_ (withCmd_touch (hp := by decide) (hf := ?_) ..) | (intro _))

theorem execApstTimer_touch (ctrl : CtrlId) (s : State) : ∃ t, execApstTimer ctrl s = .next t ∧ Touches [.out, .nvq] s t := by
  refine ⟨_, rfl, ?_⟩
  repeat' (first | with_reducible exact Touches.refl _ _ | dsimp only | with_reducible apply Touches.ite ?_ ?_
                 | with_reducible apply Touches.trans ?_ (Touches.mono (begin_touch ..) (by decide))
                 | with_reducible apply Touches.trans ?_ (Touches.mono (takePs_touch ..) (by decide)) | (split))

theorem execFallowEntryDone_touch (s : State) : ∃ t, execFallowEntryDone s = .next t ∧ Touches [.regs, .out, .nvq] s t := by
  refine ⟨_, rfl, ?_⟩
  repeat' (first | with_reducible exact Touches.refl _ _ | dsimp only | with_reducible apply Touches.ite ?_ ?_
                 | with_reducible apply Touches.trans ?_ (Touches.mono (begin_touch ..) (by decide))
                 | with_reducible apply Touches.trans ?_ (Touches.mono (eachOf_touch ..) (by decide))
                 | with_reducible apply Touches.trans ?_ (Touches.mono (wr_touch _ _ _ _) (by decide))
                 | with_reducible apply Touches.trans ?_ (eachOf_touch _ _ _ ?_)
                 | with_reducible apply Touches.trans ?_ (foldl_touch _ _ _ ?_)
                 | simp only [touches_mk]; with_reducible refine Touches.made (h := ?_) | (intro _) | (split))

theorem execFallowExitDone_touch (s : State) : ∃ t, execFallowExitDone s = .next t ∧ Touches [.regs, .out, .nvq] s t := by
  refine ⟨_, rfl, ?_⟩
  repeat' (first | with_reducible exact Touches.refl _ _ | dsimp only | with_reducible apply Touches.ite ?_ ?_
                 | with_reducible apply Touches.trans ?_ (Touches.mono (begin_touch ..) (by decide))
                 | with_reducible apply Touches.trans ?_ (Touches.mono (eachOf_touch ..) (by decide))
                 | with_reducible apply Touches.trans ?_ (Touches.mono (unpark_touch ..) (by decide))
                 | with_reducible apply Touches.trans ?_ (eachOf_touch _ _ _ ?_)
                 | with_reducible apply Touches.trans ?_ (foldl_touch _ _ _ ?_)
                 | simp only [touches_mk]; with_reducible refine Touches.made (h := ?_) | (intro _) | (split))

theorem execReservationRegister_touch (slot : SlotNo) (crkey nrkey : Nat) (s : State) : ∃ t, execReservationRegister slot
    crkey nrkey s = .next t ∧ Touches [.regs, .out, .nvq] s t := by
  refine ⟨_, rfl, ?_⟩
  repeat' (first | with_reducible exact Touches.refl _ _ | dsimp only | with_reducible apply Touches.ite ?_ ?_
                 | with_reducible apply Touches.trans ?_ (Touches.mono (begin_touch ..) (by decide))
                 | with_reducible apply Touches.trans ?_ (Touches.mono (finishCmd_touch ..) (by decide))
                 | with_reducible apply Touches.trans ?_ (Touches.mono (resvNote_touch ..) (by decide))
                 | with_reducible apply Touches.trans ?_ (Touches.mono (resvDone_touch ..) (by decide))
                 | with_reducible apply Touches.trans ?_ (resvCmd_touch (hp := by decide) (hf := ?_) ..) | (intro _))

theorem execReservationAcquire_touch (slot : SlotNo) (crkey prkey : Nat) (s : State) : ∃ t, execReservationAcquire slot crkey
    prkey s = .next t ∧ Touches [.out, .nvq] s t := by
  refine ⟨_, rfl, ?_⟩
  repeat' (first | with_reducible exact Touches.refl _ _ | dsimp only | with_reducible apply Touches.ite ?_ ?_
                 | with_reducible apply Touches.trans ?_ (Touches.mono (begin_touch ..) (by decide))
                 | with_reducible apply Touches.trans ?_ (Touches.mono (finishCmd_touch ..) (by decide))
                 | with_reducible apply Touches.trans ?_ (Touches.mono (resvNote_touch ..) (by decide))
                 | with_reducible apply Touches.trans ?_ (Touches.mono (resvDone_touch ..) (by decide))
                 | with_reducible apply Touches.trans ?_ (Touches.mono (abortHosts_touch ..) (by decide))
                 | with_reducible apply Touches.trans ?_ (resvCmd_touch (hp := by decide) (hf := ?_) ..) | (intro _))

theorem execReservationRelease_touch (slot : SlotNo) (crkey : Nat) (s : State) : ∃ t, execReservationRelease slot crkey s =
    .next t ∧ Touches [.out, .nvq] s t := by
  refine ⟨_, rfl, ?_⟩
  repeat' (first | with_reducible exact Touches.refl _ _ | dsimp only | with_reducible apply Touches.ite ?_ ?_
                 | with_reducible apply Touches.trans ?_ (Touches.mono (begin_touch ..) (by decide))
                 | with_reducible apply Touches.trans ?_ (Touches.mono (finishCmd_touch ..) (by decide))
                 | with_reducible apply Touches.trans ?_ (Touches.mono (resvNote_touch ..) (by decide))
                 | with_reducible apply Touches.trans ?_ (Touches.mono (resvDone_touch ..) (by decide))
                 | with_reducible apply Touches.trans ?_ (resvCmd_touch (hp := by decide) (hf := ?_) ..) | (intro _))

theorem execReservationReport_touch (slot : SlotNo) (s : State) : ∃ t, execReservationReport slot s = .next t ∧ Touches
    [.out, .nvq] s t := by
  refine ⟨_, rfl, ?_⟩
  repeat' (first | with_reducible exact Touches.refl _ _ | with_reducible apply Touches.ite ?_ ?_
                 | with_reducible apply Touches.trans ?_ (Touches.mono (begin_touch ..) (by decide))
                 | with_reducible apply Touches.trans ?_ (Touches.mono (emit_touch ..) (by decide))
                 | with_reducible apply Touches.trans ?_ (Touches.mono (finishCmd_touch ..) (by decide))
                 | with_reducible apply Touches.trans ?_ (resvCmd_touch (hp := by decide) (hf := ?_) ..) | (intro _))

theorem execThermalTick_touch (s : State) : ∃ t, execThermalTick s = .next t ∧ Touches [.out, .ret] s t := by
  refine ⟨_, rfl, ?_⟩
  repeat' (first | with_reducible exact Touches.refl _ _ | dsimp only | with_reducible apply Touches.ite ?_ ?_
                 | with_reducible apply Touches.trans ?_ (Touches.mono (eachOf_touch ..) (by decide))
                 | with_reducible apply Touches.trans ?_ (Touches.mono (linkTemp_touch ..) (by decide))
                 | with_reducible apply Touches.trans ?_ (Touches.mono (ageLink_touch ..) (by decide))
                 | with_reducible apply Touches.trans ?_ (Touches.mono (begin_touch ..) (by decide))
                 | with_reducible apply Touches.trans ?_ (Touches.mono (smartSeconds_touch ..) (by decide))
                 | with_reducible apply Touches.trans ?_ (Touches.mono (fenTemp_touch ..) (by decide))
                 | with_reducible apply Touches.trans ?_ (eachOf_touch _ _ _ ?_)
                 | with_reducible apply Touches.trans ?_ (foldl_touch _ _ _ ?_)
                 | simp only [touches_mk]; with_reducible refine Touches.made (h := ?_) | (intro _) | (split))

theorem execThermalSave_touch (s : State) : ∃ t, execThermalSave s = .next t ∧ Touches [.out, .life, .ret] s t := by
  refine ⟨_, rfl, ?_⟩
  repeat' (first | with_reducible exact Touches.refl _ _
                 | with_reducible apply Touches.trans ?_ (Touches.mono (begin_touch ..) (by decide))
                 | with_reducible apply Touches.trans ?_ (Touches.mono (thermalSave_touch ..) (by decide)))

theorem execSamplerRead_touch (link : Link) (block page : Nat) (corrected : List Nat) (s : State) : ∃ t, execSamplerRead link
    block page corrected s = .next t ∧ Touches [.regs, .free, .out, .glb, .peat, .ret, .map, .mere, .nvq] s t := by
  refine ⟨_, rfl, ?_⟩
  repeat' (first | with_reducible exact Touches.refl _ _ | with_reducible apply Touches.ite ?_ ?_
                 | with_reducible apply Touches.trans ?_ (Touches.mono (begin_touch ..) (by decide))
                 | with_reducible apply Touches.trans ?_ (Touches.mono (measureBlock_touch ..) (by decide)))

theorem execStripeEvaluate_touch (stripe : StripeId) (s : State) : ∃ t, execStripeEvaluate stripe s = .next t ∧ Touches
    [.regs, .free, .out, .ret, .map, .fen, .mere, .nvq] s t := by
  refine ⟨_, rfl, ?_⟩
  repeat' (first | with_reducible exact Touches.refl _ _ | dsimp only | with_reducible apply Touches.ite ?_ ?_
                 | with_reducible apply Touches.trans ?_ (Touches.mono (metaRefresh_touch ..) (by decide))
                 | with_reducible apply Touches.trans ?_ (Touches.mono (judgeStripe_touch ..) (by decide))
                 | with_reducible apply Touches.trans ?_ (Touches.mono (begin_touch ..) (by decide))
                 | simp only [touches_mk]; with_reducible refine Touches.made (h := ?_) | (intro _) | (split))

theorem execWitnessReprogram_touch (link : Link) (group : Fin 16) (ok : Bool) (s : State) : ∃ t, execWitnessReprogram
    link group ok s = .next t ∧ Touches [.out, .ret, .map] s t := by
  refine ⟨_, rfl, ?_⟩
  repeat' (first | with_reducible exact Touches.refl _ _ | dsimp only | with_reducible apply Touches.ite ?_ ?_
                 | with_reducible apply Touches.trans ?_ (Touches.mono (begin_touch ..) (by decide))
                 | with_reducible apply Touches.trans ?_ (Touches.mono (witnessProgram_touch ..) (by decide))
                 | with_reducible apply Touches.trans ?_ (Touches.mono (wipeBlock_touch ..) (by decide))
                 | with_reducible apply Touches.trans ?_ (Touches.mono (putBlock_touch ..) (by decide))
                 | simp only [touches_mk]; with_reducible refine Touches.made (h := ?_) | (intro _) | (split))

theorem execDredgeStart_touch (_path : AccessPath) (s : State) : ∃ t, execDredgeStart _path s = .next t ∧ Touches [.regs,
    .out, .glb, .ret, .fen, .nvq] s t := by
  refine ⟨_, rfl, ?_⟩
  repeat' (first | with_reducible exact Touches.refl _ _
                 | with_reducible apply Touches.trans ?_ (Touches.mono (begin_touch ..) (by decide))
                 | with_reducible apply Touches.trans ?_ (Touches.mono (dredgeStart_touch ..) (by decide)))

theorem execDredgeAbort_touch (_path : AccessPath) (s : State) : ∃ t, execDredgeAbort _path s = .next t ∧ Touches [.regs,
    .out, .glb, .ret, .fen, .nvq] s t := by
  refine ⟨_, rfl, ?_⟩
  repeat' (first | with_reducible exact Touches.refl _ _
                 | with_reducible apply Touches.trans ?_ (Touches.mono (begin_touch ..) (by decide))
                 | with_reducible apply Touches.trans ?_ (Touches.mono (dredgeAbort_touch ..) (by decide)))

theorem execDredgeStripeCheck_touch (passId : Nat) (stripe : StripeId) (finding : DredgeFinding) (s : State) : ∃ t,
    execDredgeStripeCheck passId stripe finding s = .next t ∧ Touches [.regs, .free, .out, .peat, .ret, .map, .nvq] s t :=
    by
  refine ⟨_, rfl, ?_⟩
  repeat' (first | with_reducible exact Touches.refl _ _ | dsimp only | with_reducible apply Touches.ite ?_ ?_
                 | with_reducible apply Touches.trans ?_ (Touches.mono (begin_touch ..) (by decide))
                 | with_reducible apply Touches.trans ?_ (Touches.mono (wr_touch _ _ _ _) (by decide))
                 | with_reducible apply Touches.trans ?_ (Touches.mono (healthAdd_touch ..) (by decide))
                 | with_reducible apply Touches.trans ?_ (Touches.mono (count_touch _ _ _ _) (by decide))
                 | with_reducible apply Touches.trans ?_ (Touches.mono (passMeasure_touch ..) (by decide))
                 | with_reducible apply Touches.trans ?_ (Touches.mono (setDue_touch ..) (by decide))
                 | with_reducible apply Touches.trans ?_ (Touches.mono (peatRecord_touch ..) (by decide))
                 | with_reducible apply Touches.trans ?_ (Touches.mono (eachOf_touch ..) (by decide))
                 | with_reducible apply Touches.trans ?_ (Touches.mono (loseUnitAt_touch ..) (by decide))
                 | with_reducible apply Touches.trans ?_ (Touches.mono (catchupNote_touch ..) (by decide))
                 | with_reducible apply Touches.trans ?_ (Touches.mono (putPass_touch ..) (by decide))
                 | with_reducible apply Touches.trans ?_ (eachOf_touch _ _ _ ?_)
                 | with_reducible apply Touches.trans ?_ (foldl_touch _ _ _ ?_)
                 | simp only [touches_mk]; with_reducible refine Touches.made (h := ?_) | (intro _) | (split))

theorem execDredgeCursorTimer_touch (passId : Nat) (s : State) : ∃ t, execDredgeCursorTimer passId s = .next t ∧ Touches
    [.out, .ret] s t := by
  refine ⟨_, rfl, ?_⟩
  repeat' (first | with_reducible exact Touches.refl _ _ | with_reducible apply Touches.ite ?_ ?_
                 | with_reducible apply Touches.trans ?_ (Touches.mono (begin_touch ..) (by decide))
                 | with_reducible apply Touches.trans ?_ (Touches.mono (putPass_touch ..) (by decide)) | (split))

theorem execDredgePassEnd_touch (passId : Nat) (s : State) : ∃ t, execDredgePassEnd passId s = .next t ∧ Touches [.regs,
    .out, .glb, .ret, .fen, .nvq] s t := by
  refine ⟨_, rfl, ?_⟩
  repeat' (first | with_reducible exact Touches.refl _ _ | dsimp only | with_reducible apply Touches.ite ?_ ?_
                 | with_reducible apply Touches.trans ?_ (Touches.mono (begin_touch ..) (by decide))
                 | with_reducible apply Touches.trans ?_ (Touches.mono (endPass_touch ..) (by decide))
                 | simp only [touches_mk]; with_reducible refine Touches.made (h := ?_) | (intro _) | (split))

theorem execNvmeRead_touch (slot : SlotNo) (s : State) : ∃ t, execNvmeRead slot s = .next t ∧ Touches [.free, .out,
    .ret, .map, .mere, .nvq] s t := by
  refine ⟨_, rfl, ?_⟩
  repeat' (first | with_reducible exact Touches.refl _ _ | dsimp only | with_reducible apply Touches.ite ?_ ?_
                 | with_reducible apply Touches.trans ?_ (blockCmd_touch (hp := by decide) (hf := ?_) ..)
                 | with_reducible apply Touches.trans ?_ (Touches.mono (finishCmd_touch ..) (by decide))
                 | with_reducible apply Touches.trans ?_ (Touches.mono (eachOf_touch ..) (by decide))
                 | with_reducible apply Touches.trans ?_ (Touches.mono (stageUnit_touch ..) (by decide))
                 | with_reducible apply Touches.trans ?_ (Touches.mono (countRead_touch ..) (by decide))
                 | with_reducible apply Touches.trans ?_ (Touches.mono (emit_touch ..) (by decide))
                 | with_reducible apply Touches.trans ?_ (Touches.mono (countUnrecovered_touch ..) (by decide))
                 | with_reducible apply Touches.trans ?_ (Touches.mono (begin_touch ..) (by decide))
                 | with_reducible apply Touches.trans ?_ (eachOf_touch _ _ _ ?_)
                 | with_reducible apply Touches.trans ?_ (foldl_touch _ _ _ ?_)
                 | simp only [touches_mk]; with_reducible refine Touches.made (h := ?_) | (intro _) | (split))

theorem execCompare_touch (slot : SlotNo) (data : List Nat) (s : State) : ∃ t, execCompare slot data s = .next t ∧ Touches
    [.out, .ret, .nvq] s t := by
  refine ⟨_, rfl, ?_⟩
  repeat' (first | with_reducible exact Touches.refl _ _ | with_reducible apply Touches.ite ?_ ?_
                 | with_reducible apply Touches.trans ?_ (Touches.mono (begin_touch ..) (by decide))
                 | with_reducible apply Touches.trans ?_ (Touches.mono (finishCmd_touch ..) (by decide))
                 | with_reducible apply Touches.trans ?_ (Touches.mono (countUnrecovered_touch ..) (by decide))
                 | with_reducible apply Touches.trans ?_ (Touches.mono (countRead_touch ..) (by decide))
                 | with_reducible apply Touches.trans ?_ (blockCmd_touch (hp := by decide) (hf := ?_) ..) | (intro _))

end Sys2Proof.Machine
end

