-- ==== Sys2Proof/Laws/TouchExec2.lean ====
section
/-! SUPPORT. Every command completes, and the parts of the state that it may change (see TouchBase). -/

-- One theorem after the other: elaborated side by side, their many small side proofs make Lean start hundreds of threads.
set_option Elab.async false

namespace Sys2Proof.Machine

open Sys2Proof

theorem execVerify_touch (slot : SlotNo) (s : State) : ∃ t, execVerify slot s = .next t ∧ Touches [.regs, .free, .out,
    .ret, .map, .nvq] s t := by
  refine ⟨_, rfl, ?_⟩
  repeat' (first | with_reducible exact Touches.refl _ _ | dsimp only | with_reducible apply Touches.ite ?_ ?_
                 | with_reducible apply Touches.trans ?_ (blockCmd_touch (hp := by decide) (hf := ?_) ..)
                 | with_reducible apply Touches.trans ?_ (Touches.mono (newPass_touch ..) (by decide))
                 | with_reducible apply Touches.trans ?_ (Touches.mono (drawn_touch ..) (by decide))
                 | with_reducible apply Touches.trans ?_ (Touches.mono (eachOf_touch ..) (by decide))
                 | with_reducible apply Touches.trans ?_ (Touches.mono (declareUnitLost_touch ..) (by decide))
                 | with_reducible apply Touches.trans ?_ (Touches.mono (finishCmd_touch ..) (by decide))
                 | with_reducible apply Touches.trans ?_ (Touches.mono (countUnrecovered_touch ..) (by decide))
                 | with_reducible apply Touches.trans ?_ (Touches.mono (begin_touch ..) (by decide))
                 | with_reducible apply Touches.trans ?_ (eachOf_touch _ _ _ ?_)
                 | with_reducible apply Touches.trans ?_ (foldl_touch _ _ _ ?_)
                 | simp only [touches_mk]; with_reducible refine Touches.made (h := ?_) | (intro _) | (split))

theorem execNvmeFlush_touch (slot : SlotNo) (s : State) : ∃ t, execNvmeFlush slot s = .next t ∧ Touches [.out, .nvq] s t := by
  refine ⟨_, rfl, ?_⟩
  repeat' (first | with_reducible exact Touches.refl _ _ | with_reducible apply Touches.ite ?_ ?_
                 | with_reducible apply Touches.trans ?_ (Touches.mono (begin_touch ..) (by decide))
                 | with_reducible apply Touches.trans ?_ (Touches.mono (putSlot_touch ..) (by decide))
                 | with_reducible apply Touches.trans ?_ (Touches.mono (finishCmd_touch ..) (by decide))
                 | with_reducible apply Touches.trans ?_ (withCmd_touch (hp := by decide) (hf := ?_) ..) | (intro _))

theorem execNvmeWrite_touch (slot : SlotNo) (data : List Nat) (s : State) : ∃ t, execNvmeWrite slot data s = .next t ∧
    Touches [.regs, .free, .out, .ret, .map, .mere, .nvq, .cwy] s t := by
  refine ⟨_, rfl, ?_⟩
  repeat' (first | with_reducible exact Touches.refl _ _ | dsimp only | with_reducible apply Touches.ite ?_ ?_
                 | with_reducible apply Touches.trans ?_ (blockCmd_touch (hp := by decide) (hf := ?_) ..)
                 | with_reducible apply Touches.trans ?_ (Touches.mono (placedWrite_touch ..) (by decide))
                 | with_reducible apply Touches.trans ?_ (Touches.mono (begin_touch ..) (by decide))
                 | simp only [touches_mk]; with_reducible refine Touches.made (h := ?_) | (intro _) | (split))

theorem execZoneAppend_touch (slot : SlotNo) (data : List Nat) (s : State) : ∃ t, execZoneAppend slot data s = .next t ∧
    Touches [.regs, .free, .out, .ret, .map, .mere, .nvq, .cwy] s t := by
  refine ⟨_, rfl, ?_⟩
  repeat' (first | with_reducible exact Touches.refl _ _ | dsimp only | with_reducible apply Touches.ite ?_ ?_
                 | with_reducible apply Touches.trans ?_ (blockCmd_touch (hp := by decide) (hf := ?_) ..)
                 | with_reducible apply Touches.trans ?_ (Touches.mono (finishCmd_touch ..) (by decide))
                 | with_reducible apply Touches.trans ?_ (Touches.mono (runWrite_touch ..) (by decide))
                 | with_reducible apply Touches.trans ?_ (Touches.mono (begin_touch ..) (by decide))
                 | simp only [touches_mk]; with_reducible refine Touches.made (h := ?_) | (intro _) | (split))

theorem execWriteZeroes_touch (slot : SlotNo) (s : State) : ∃ t, execWriteZeroes slot s = .next t ∧ Touches [.regs,
    .free, .out, .ret, .map, .fen, .mere, .nvq, .slu, .cwy] s t := by
  refine ⟨_, rfl, ?_⟩
  repeat' (first | with_reducible exact Touches.refl _ _ | with_reducible apply Touches.ite ?_ ?_
                 | with_reducible apply Touches.trans ?_ (Touches.mono (begin_touch ..) (by decide))
                 | with_reducible apply Touches.trans ?_ (Touches.mono (placedWrite_touch ..) (by decide))
                 | with_reducible apply Touches.trans ?_ (Touches.mono (zeroRange_touch (by assumption)) (by decide))
                 | with_reducible apply Touches.trans ?_ (blockCmd_touch (hp := by decide) (hf := ?_) ..)
                 | with_reducible apply Touches.trans ?_ (endZero_touch (hp := by decide) (hf := ?_) ..) | (intro _))

theorem execDatasetManagement_touch (slot : SlotNo) (ranges : List LbaRange) (s : State) : ∃ t, execDatasetManagement slot
    ranges s = .next t ∧ Touches [.regs, .free, .out, .ret, .map, .fen, .mere, .nvq, .slu, .cwy] s t := by
  refine ⟨_, rfl, Touches.trans ((begin_touch _).mono (by decide)) (blockCmd_touch _ _ _ _ (by decide) ?_)⟩
  have H : ∀ (k : Cmd) (l : List LbaRange) (r : Option State) (t : State),
      l.foldl (fun r e => r.bind (zeroRange k.nsid k.cls e.slba e.nlb)) r = some t → ∃ s0, r = some s0 ∧ Touches [.regs, .free,
          .out, .ret, .map, .fen, .mere, .nvq, .slu, .cwy] s0 t := by
    intro k l
    induction l with
    | nil => intro r t h; exact ⟨t, h, Touches.refl _ _⟩
    | cons a l ih =>
      intro r t h
      obtain ⟨s1, e1, h1⟩ := ih _ _ h
      cases r with
      | none => cases e1
      | some s0 => exact ⟨s0, rfl, Touches.trans ((zeroRange_touch e1).mono (by decide)) h1⟩
  intro k c x s; try dsimp only
  split
  · exact (finishCmd_touch ..).mono (by decide)
  · split
    · exact (finishCmd_touch ..).mono (by decide)
    · refine endZero_touch (hp := by decide) (hf := fun t h => ?_) ..
      obtain ⟨s0, e0, h0⟩ := H _ _ _ _ h
      cases e0; exact h0

theorem execCopy_touch (slot : SlotNo) (ranges : List LbaRange) (s : State) : ∃ t, execCopy slot ranges s = .next t ∧
    Touches [.regs, .free, .out, .ret, .map, .mere, .nvq, .cwy] s t := by
  refine ⟨_, rfl, ?_⟩
  repeat' (first | with_reducible exact Touches.refl _ _ | dsimp only | with_reducible apply Touches.ite ?_ ?_
                 | with_reducible apply Touches.trans ?_ (blockCmd_touch (hp := by decide) (hf := ?_) ..)
                 | with_reducible apply Touches.trans ?_ (Touches.mono (finishCmd_touch ..) (by decide))
                 | with_reducible apply Touches.trans ?_ (Touches.mono (wr_touch _ _ _ _) (by decide))
                 | with_reducible apply Touches.trans ?_ (Touches.mono (copyRanges_touch ..) (by decide))
                 | with_reducible apply Touches.trans ?_ (Touches.mono (copyRanges_touch' (by assumption)) (by decide))
                 | with_reducible apply Touches.trans ?_ (Touches.mono (countUnrecovered_touch ..) (by decide))
                 | with_reducible apply Touches.trans ?_ (Touches.mono (finishWrite_touch ..) (by decide))
                 | with_reducible apply Touches.trans ?_ (Touches.mono (begin_touch ..) (by decide))
                 | with_reducible apply Touches.trans ?_ (eachOf_touch _ _ _ ?_)
                 | with_reducible apply Touches.trans ?_ (foldl_touch _ _ _ ?_)
                 | simp only [touches_mk]; with_reducible refine Touches.made (h := ?_) | (intro _) | (split))

theorem execZoneOpen_touch (slot : SlotNo) (s : State) : ∃ t, execZoneOpen slot s = .next t ∧ Touches [.out, .map, .nvq] s t
    := by
  refine ⟨_, rfl, ?_⟩
  repeat' (first | with_reducible exact Touches.refl _ _ | dsimp only | with_reducible apply Touches.ite ?_ ?_
                 | with_reducible apply Touches.trans ?_ (Touches.mono (begin_touch ..) (by decide))
                 | with_reducible apply Touches.trans ?_ (Touches.mono (finishCmd_touch ..) (by decide))
                 | with_reducible apply Touches.trans ?_ (Touches.mono (setZone_touch ..) (by decide))
                 | with_reducible apply Touches.trans ?_ (zoneSend_touch (hp := by decide) (hf := ?_) ..)
                 | with_reducible apply Touches.trans ?_ (eachOf_touch _ _ _ ?_) | (intro _))

theorem execZoneClose_touch (slot : SlotNo) (s : State) : ∃ t, execZoneClose slot s = .next t ∧ Touches [.out, .map, .nvq] s
    t := by
  refine ⟨_, rfl, ?_⟩
  repeat' (first | with_reducible exact Touches.refl _ _ | dsimp only
                 | with_reducible apply Touches.trans ?_ (Touches.mono (begin_touch ..) (by decide))
                 | with_reducible apply Touches.trans ?_ (Touches.mono (finishCmd_touch ..) (by decide))
                 | with_reducible apply Touches.trans ?_ (Touches.mono (setZone_touch ..) (by decide))
                 | with_reducible apply Touches.trans ?_ (zoneSend_touch (hp := by decide) (hf := ?_) ..)
                 | with_reducible apply Touches.trans ?_ (eachOf_touch _ _ _ ?_) | (intro _))

theorem execZoneFinish_touch (slot : SlotNo) (s : State) : ∃ t, execZoneFinish slot s = .next t ∧ Touches [.regs, .free,
    .out, .ret, .map, .mere, .nvq, .cwy] s t := by
  refine ⟨_, rfl, ?_⟩
  repeat' (first | with_reducible exact Touches.refl _ _ | dsimp only | with_reducible apply Touches.ite ?_ ?_
                 | with_reducible apply Touches.trans ?_ (zoneSend_touch (hp := by decide) (hf := ?_) ..)
                 | with_reducible apply Touches.trans ?_ (Touches.mono (eachOf_touch ..) (by decide))
                 | with_reducible apply Touches.trans ?_ (Touches.mono (noteChanged_touch ..) (by decide))
                 | with_reducible apply Touches.trans ?_ (Touches.mono (startFold_touch ..) (by decide))
                 | with_reducible apply Touches.trans ?_ (Touches.mono (finishZone_touch ..) (by decide))
                 | with_reducible apply Touches.trans ?_ (Touches.mono (enterFilling_touch ..) (by decide))
                 | with_reducible apply Touches.trans ?_ (Touches.mono (finishWrite_touch ..) (by decide))
                 | with_reducible apply Touches.trans ?_ (Touches.mono (begin_touch ..) (by decide))
                 | with_reducible apply Touches.trans ?_ (eachOf_touch _ _ _ ?_)
                 | with_reducible apply Touches.trans ?_ (foldl_touch _ _ _ ?_)
                 | simp only [touches_mk]; with_reducible refine Touches.made (h := ?_) | (intro _) | (split))

theorem execZoneReset_touch (slot : SlotNo) (s : State) : ∃ t, execZoneReset slot s = .next t ∧ Touches [.regs, .out,
    .ret, .map, .fen, .mere, .nvq, .slu, .cwy] s t := by
  refine ⟨_, rfl, ?_⟩
  repeat' (first | with_reducible exact Touches.refl _ _ | dsimp only | with_reducible apply Touches.ite ?_ ?_
                 | with_reducible apply Touches.trans ?_ (zoneSend_touch (hp := by decide) (hf := ?_) ..)
                 | with_reducible apply Touches.trans ?_ (Touches.mono (eachOf_touch ..) (by decide))
                 | with_reducible apply Touches.trans ?_ (Touches.mono (noteChanged_touch ..) (by decide))
                 | with_reducible apply Touches.trans ?_ (Touches.mono (putPtr_touch ..) (by decide))
                 | with_reducible apply Touches.trans ?_ (Touches.mono (unmapTract_touch ..) (by decide))
                 | with_reducible apply Touches.trans ?_ (Touches.mono (finishWrite_touch ..) (by decide))
                 | with_reducible apply Touches.trans ?_ (Touches.mono (begin_touch ..) (by decide))
                 | with_reducible apply Touches.trans ?_ (eachOf_touch _ _ _ ?_)
                 | with_reducible apply Touches.trans ?_ (foldl_touch _ _ _ ?_)
                 | simp only [touches_mk]; with_reducible refine Touches.made (h := ?_) | (intro _) | (split))

theorem execZoneManagementReceive_touch (slot : SlotNo) (s : State) : ∃ t, execZoneManagementReceive slot s = .next t ∧
    Touches [.out, .nvq] s t := by
  refine ⟨_, rfl, ?_⟩
  repeat' (first | with_reducible exact Touches.refl _ _ | dsimp only | with_reducible apply Touches.ite ?_ ?_
                 | with_reducible apply Touches.trans ?_ (Touches.mono (begin_touch ..) (by decide))
                 | with_reducible apply Touches.trans ?_ (Touches.mono (emit_touch ..) (by decide))
                 | with_reducible apply Touches.trans ?_ (Touches.mono (finishCmd_touch ..) (by decide))
                 | with_reducible apply Touches.trans ?_ (blockCmd_touch (hp := by decide) (hf := ?_) ..) | (intro _))

theorem execNamespaceCreate_touch (slot : SlotNo) (data : NsCreate) (s : State) : ∃ t, execNamespaceCreate slot data s =
    .next t ∧ Touches [.free, .out, .cfg, .map, .nvq, .cip] s t := by
  refine ⟨_, rfl, ?_⟩
  repeat' (first | with_reducible exact Touches.refl _ _ | dsimp only | with_reducible apply Touches.ite ?_ ?_
                 | with_reducible apply Touches.trans ?_ (Touches.mono (begin_touch ..) (by decide))
                 | with_reducible apply Touches.trans ?_ (Touches.mono (putSlot_touch ..) (by decide))
                 | with_reducible apply Touches.trans ?_ (Touches.mono (finishCmd_touch ..) (by decide))
                 | with_reducible apply Touches.trans ?_ (Touches.mono (finishChanged_touch ..) (by decide))
                 | with_reducible apply Touches.trans ?_ (Touches.mono (waitDrbg_touch ..) (by decide))
                 | with_reducible apply Touches.trans ?_ (Touches.mono (createNs_touch ..) (by decide))
                 | with_reducible apply Touches.trans ?_ (withCmd_touch (hp := by decide) (hf := ?_) ..)
                 | simp only [touches_mk]; with_reducible refine Touches.made (h := ?_) | (intro _))

theorem execNamespaceDelete_touch (slot : SlotNo) (s : State) : ∃ t, execNamespaceDelete slot s = .next t ∧ Touches
    [.regs, .out, .glb, .ret, .map, .fen, .mere, .nvq, .slu, .cip] s t := by
  refine ⟨_, rfl, ?_⟩
  repeat' (first | with_reducible exact Touches.refl _ _ | dsimp only | with_reducible apply Touches.ite ?_ ?_
                 | with_reducible apply Touches.trans ?_ (withCmd_touch (hp := by decide) (hf := ?_) ..)
                 | with_reducible apply Touches.trans ?_ (Touches.mono (finishCmd_touch ..) (by decide))
                 | with_reducible apply Touches.trans ?_ (Touches.mono (fenRefresh_touch ..) (by decide))
                 | with_reducible apply Touches.trans ?_ (Touches.mono (eachOf_touch ..) (by decide))
                 | with_reducible apply Touches.trans ?_ (Touches.mono (deleteNs_touch ..) (by decide))
                 | with_reducible apply Touches.trans ?_ (Touches.mono (putSlot_touch ..) (by decide))
                 | with_reducible apply Touches.trans ?_ (Touches.mono (begin_touch ..) (by decide))
                 | with_reducible apply Touches.trans ?_ (eachOf_touch _ _ _ ?_)
                 | with_reducible apply Touches.trans ?_ (foldl_touch _ _ _ ?_)
                 | simp only [touches_mk]; with_reducible refine Touches.made (h := ?_) | (intro _) | (split))

theorem execNamespaceAttach_touch (slot : SlotNo) (ctrls : List Nat) (s : State) : ∃ t, execNamespaceAttach slot ctrls s =
    .next t ∧ Touches [.out, .nvq] s t := by
  refine ⟨_, rfl, ?_⟩
  repeat' (first | with_reducible exact Touches.refl _ _ | with_reducible apply Touches.ite ?_ ?_
                 | with_reducible apply Touches.trans ?_ (Touches.mono (begin_touch ..) (by decide))
                 | with_reducible apply Touches.trans ?_ (Touches.mono (putCtrl_touch ..) (by decide))
                 | with_reducible apply Touches.trans ?_ (Touches.mono (finishCmd_touch ..) (by decide))
                 | with_reducible apply Touches.trans ?_ (Touches.mono (nsNotice_touch ..) (by decide))
                 | with_reducible apply Touches.trans ?_ (withCmd_touch (hp := by decide) (hf := ?_) ..)
                 | with_reducible apply Touches.trans ?_ (eachOf_touch _ _ _ ?_) | (intro _) | (split))

theorem execNamespaceDetach_touch (slot : SlotNo) (ctrls : List Nat) (s : State) : ∃ t, execNamespaceDetach slot ctrls s =
    .next t ∧ Touches [.out, .nvq] s t := by
  refine ⟨_, rfl, ?_⟩
  repeat' (first | with_reducible exact Touches.refl _ _ | with_reducible apply Touches.ite ?_ ?_
                 | with_reducible apply Touches.trans ?_ (Touches.mono (begin_touch ..) (by decide))
                 | with_reducible apply Touches.trans ?_ (Touches.mono (finishCmd_touch ..) (by decide))
                 | with_reducible apply Touches.trans ?_ (Touches.mono (detachOne_touch ..) (by decide))
                 | with_reducible apply Touches.trans ?_ (withCmd_touch (hp := by decide) (hf := ?_) ..)
                 | with_reducible apply Touches.trans ?_ (eachOf_touch _ _ _ ?_) | (intro _))

theorem execFormatNvm_touch (slot : SlotNo) (s : State) : ∃ t, execFormatNvm slot s = .next t ∧ Touches [.regs, .out,
    .ret, .map, .fen, .mere, .nvq, .slu, .cip] s t := by
  refine ⟨_, rfl, ?_⟩
  repeat' (first | with_reducible exact Touches.refl _ _ | dsimp only | with_reducible apply Touches.ite ?_ ?_
                 | with_reducible apply Touches.trans ?_ (withCmd_touch (hp := by decide) (hf := ?_) ..)
                 | with_reducible apply Touches.trans ?_ (Touches.mono (finishCmd_touch ..) (by decide))
                 | with_reducible apply Touches.trans ?_ (Touches.mono (waitDrbg_touch ..) (by decide))
                 | with_reducible apply Touches.trans ?_ (Touches.mono (unmapNs_touch ..) (by decide))
                 | with_reducible apply Touches.trans ?_ (Touches.mono (putNs_touch ..) (by decide))
                 | with_reducible apply Touches.trans ?_ (Touches.mono (finishWrite_touch ..) (by decide))
                 | with_reducible apply Touches.trans ?_ (Touches.mono (newKey_touch ..) (by decide))
                 | with_reducible apply Touches.trans ?_ (Touches.mono (newKey_touch' (by assumption)) (by decide))
                 | with_reducible apply Touches.trans ?_ (Touches.mono (drainSlot_touch ..) (by decide))
                 | with_reducible apply Touches.trans ?_ (Touches.mono (putSlot_touch ..) (by decide))
                 | with_reducible apply Touches.trans ?_ (Touches.mono (begin_touch ..) (by decide))
                 | simp only [touches_mk]; with_reducible refine Touches.made (h := ?_) | (intro _) | (split))

theorem execSanitizeCryptoErase_touch (slot : SlotNo) (s : State) : ∃ t, execSanitizeCryptoErase slot s = .next t ∧
    Touches [.regs, .out, .ret, .map, .fen, .mere, .nvq, .slu, .cip] s t := by
  refine ⟨_, rfl, ?_⟩
  repeat' (first | with_reducible exact Touches.refl _ _ | dsimp only | with_reducible apply Touches.ite ?_ ?_
                 | with_reducible apply Touches.trans ?_ (withCmd_touch (hp := by decide) (hf := ?_) ..)
                 | with_reducible apply Touches.trans ?_ (Touches.mono (finishCmd_touch ..) (by decide))
                 | with_reducible apply Touches.trans ?_ (Touches.mono (waitDrbg_touch ..) (by decide))
                 | with_reducible apply Touches.trans ?_ (Touches.mono (eachOf_touch ..) (by decide))
                 | with_reducible apply Touches.trans ?_ (Touches.mono (unmapNs_touch ..) (by decide))
                 | with_reducible apply Touches.trans ?_ (Touches.mono (putNs_touch ..) (by decide))
                 | with_reducible apply Touches.trans ?_ (Touches.mono (newKey_touch ..) (by decide))
                 | with_reducible apply Touches.trans ?_ (Touches.mono (newKey_touch' (by assumption)) (by decide))
                 | with_reducible apply Touches.trans ?_ (Touches.mono (drainSlot_touch ..) (by decide))
                 | with_reducible apply Touches.trans ?_ (Touches.mono (putSlot_touch ..) (by decide))
                 | with_reducible apply Touches.trans ?_ (Touches.mono (begin_touch ..) (by decide))
                 | with_reducible apply Touches.trans ?_ (eachOf_touch _ _ _ ?_)
                 | with_reducible apply Touches.trans ?_ (foldl_touch _ _ _ ?_)
                 | simp only [touches_mk]; with_reducible refine Touches.made (h := ?_) | (intro _) | (split))

theorem execSanitizeExitFailureMode_touch (slot : SlotNo) (s : State) : ∃ t, execSanitizeExitFailureMode slot s = .next t ∧
    Touches [.out, .nvq] s t := by
  refine ⟨_, rfl, ?_⟩
  repeat' (first | with_reducible exact Touches.refl _ _ | dsimp only
                 | with_reducible apply Touches.trans ?_ (Touches.mono (begin_touch ..) (by decide))
                 | with_reducible apply Touches.trans ?_ (Touches.mono (finishCmd_touch ..) (by decide))
                 | with_reducible apply Touches.trans ?_ (withCmd_touch (hp := by decide) (hf := ?_) ..)
                 | simp only [touches_mk]; with_reducible refine Touches.made (h := ?_) | (intro _))

theorem execGetLogPage_touch (slot : SlotNo) (s : State) : ∃ t, execGetLogPage slot s = .next t ∧ Touches [.out, .nvq] s t := by
  refine ⟨_, rfl, ?_⟩
  repeat' (first | with_reducible exact Touches.refl _ _ | dsimp only | with_reducible apply Touches.ite ?_ ?_
                 | with_reducible apply Touches.trans ?_ (Touches.mono (begin_touch ..) (by decide))
                 | with_reducible apply Touches.trans ?_ (Touches.mono (emit_touch ..) (by decide))
                 | with_reducible apply Touches.trans ?_ (Touches.mono (finishCmd_touch ..) (by decide))
                 | with_reducible apply Touches.trans ?_ (Touches.mono (logRead_touch ..) (by decide))
                 | with_reducible apply Touches.trans ?_ (withCmd_touch (hp := by decide) (hf := ?_) ..) | (intro _) | (split))

theorem execIdentify_touch (slot : SlotNo) (s : State) : ∃ t, execIdentify slot s = .next t ∧ Touches [.out, .nvq] s t := by
  refine ⟨_, rfl, ?_⟩
  repeat' (first | with_reducible exact Touches.refl _ _
                 | with_reducible apply Touches.trans ?_ (Touches.mono (begin_touch ..) (by decide))
                 | with_reducible apply Touches.trans ?_ (Touches.mono (emit_touch ..) (by decide))
                 | with_reducible apply Touches.trans ?_ (Touches.mono (finishCmd_touch ..) (by decide))
                 | with_reducible apply Touches.trans ?_ (withCmd_touch (hp := by decide) (hf := ?_) ..) | (intro _) | (split))

theorem execGetLbaStatus_touch (slot : SlotNo) (s : State) : ∃ t, execGetLbaStatus slot s = .next t ∧ Touches [.out, .nvq] s
    t := by
  refine ⟨_, rfl, ?_⟩
  repeat' (first | with_reducible exact Touches.refl _ _ | dsimp only | with_reducible apply Touches.ite ?_ ?_
                 | with_reducible apply Touches.trans ?_ (Touches.mono (begin_touch ..) (by decide))
                 | with_reducible apply Touches.trans ?_ (Touches.mono (emit_touch ..) (by decide))
                 | with_reducible apply Touches.trans ?_ (Touches.mono (finishCmd_touch ..) (by decide))
                 | with_reducible apply Touches.trans ?_ (withCmd_touch (hp := by decide) (hf := ?_) ..) | (intro _) | (split))

theorem execDmaRingTailWrite_touch (_path : AccessPath) (chan : Fin 96) (tail : Word) (s : State) : ∃ t, execDmaRingTailWrite
    _path chan tail s = .next t ∧ Touches [.regs, .free, .out, .glb, .peat, .ret, .map, .mere, .nvq, .dma] s t := by
  refine ⟨_, rfl, ?_⟩
  repeat' (first | with_reducible exact Touches.refl _ _ | with_reducible apply Touches.ite ?_ ?_
                 | with_reducible apply Touches.trans ?_ (Touches.mono (wr_touch _ _ _ _) (by decide))
                 | with_reducible apply Touches.trans ?_ (Touches.mono (begin_touch ..) (by decide))
                 | with_reducible apply Touches.trans ?_ (Touches.mono (dmaNext_touch ..) (by decide)))

theorem execHostToMere_touch (chan : Fin 96) (data : Nat) (s : State) : ∃ t, execHostToMere chan data s = .next t ∧
    Touches [.regs, .free, .out, .glb, .peat, .ret, .map, .mere, .nvq, .slu, .cip, .dma] s t := by
  refine ⟨_, rfl, ?_⟩
  repeat' (first | with_reducible exact Touches.refl _ _ | dsimp only | with_reducible apply Touches.ite ?_ ?_
                 | with_reducible apply Touches.trans ?_ (hostRun_touch (hp := by decide) (hf := ?_) ..)
                 | with_reducible apply Touches.trans ?_ (Touches.mono (dmaStore_touch ..) (by decide))
                 | with_reducible apply Touches.trans ?_ (Touches.mono (dmaStore_touch' (by assumption)) (by decide))
                 | with_reducible apply Touches.trans ?_ (Touches.mono (begin_touch ..) (by decide))
                 | simp only [touches_mk]; with_reducible refine Touches.made (h := ?_) | (intro _) | (split))

theorem execMereToHost_touch (chan : Fin 96) (s : State) : ∃ t, execMereToHost chan s = .next t ∧ Touches [.regs, .free,
    .out, .glb, .peat, .ret, .map, .mere, .nvq, .slu, .dma] s t := by
  refine ⟨_, rfl, ?_⟩
  repeat' (first | with_reducible exact Touches.refl _ _ | dsimp only | with_reducible apply Touches.ite ?_ ?_
                 | with_reducible apply Touches.trans ?_ (hostRun_touch (hp := by decide) (hf := ?_) ..)
                 | with_reducible apply Touches.trans ?_ (Touches.mono (dmaLoad_touch ..) (by decide))
                 | with_reducible apply Touches.trans ?_ (Touches.mono (dmaLoad_touch' (by assumption)) (by decide))
                 | with_reducible apply Touches.trans ?_ (Touches.mono (emit_touch ..) (by decide))
                 | with_reducible apply Touches.trans ?_ (Touches.mono (begin_touch ..) (by decide))
                 | simp only [touches_mk]; with_reducible refine Touches.made (h := ?_) | (intro _) | (split))

theorem execDmaCopy_touch (chan : Fin 96) (s : State) : ∃ t, execDmaCopy chan s = .next t ∧ Touches [.regs, .free, .out,
    .glb, .peat, .ret, .map, .mere, .nvq, .dma] s t := by
  refine ⟨_, rfl, ?_⟩
  repeat' (first | with_reducible exact Touches.refl _ _ | dsimp only
                 | with_reducible apply Touches.trans ?_ (Touches.mono (begin_touch ..) (by decide))
                 | with_reducible apply Touches.trans ?_ (Touches.mono (dmaStore_touch ..) (by decide))
                 | with_reducible apply Touches.trans ?_ (Touches.mono (dmaLoad_touch' (by assumption)) (by decide))
                 | with_reducible apply Touches.trans ?_ (dmaRun_touch (hp := by decide) (hf := ?_) ..) | (intro _) | (split))

theorem execDmaTimerTick_touch (timer : Fin 16) (s : State) : ∃ t, execDmaTimerTick timer s = .next t ∧ Touches [.regs, .out,
    .dma] s t := by
  refine ⟨_, rfl, ?_⟩
  repeat' (first | with_reducible exact Touches.refl _ _ | dsimp only | with_reducible apply Touches.ite ?_ ?_
                 | with_reducible apply Touches.trans ?_ (Touches.mono (begin_touch ..) (by decide))
                 | with_reducible apply Touches.trans ?_ (Touches.mono (dmaSetState_touch ..) (by decide))
                 | simp only [touches_mk]; with_reducible refine Touches.made (h := ?_)
                 | with_reducible apply Touches.trans ?_ (eachOf_touch _ _ _ ?_) | (intro _))

theorem execDmaBusError_touch (chan : Fin 96) (err : DmaError) (s : State) : ∃ t, execDmaBusError chan err s = .next t ∧
    Touches [.regs, .free, .out, .nvq, .dma] s t := by
  refine ⟨_, rfl, ?_⟩
  repeat' (first | with_reducible exact Touches.refl _ _ | with_reducible apply Touches.ite ?_ ?_
                 | with_reducible apply Touches.trans ?_ (Touches.mono (begin_touch ..) (by decide))
                 | with_reducible apply Touches.trans ?_ (Touches.mono (dmaError_touch ..) (by decide)))

theorem execDmaRetryWait_touch (chan : Fin 96) (ok : Bool) (s : State) : ∃ t, execDmaRetryWait chan ok s = .next t ∧ Touches
    [.regs, .free, .out, .nvq, .dma] s t := by
  refine ⟨_, rfl, ?_⟩
  repeat' (first | with_reducible exact Touches.refl _ _ | dsimp only | with_reducible apply Touches.ite ?_ ?_
                 | with_reducible apply Touches.trans ?_ (Touches.mono (wr_touch _ _ _ _) (by decide))
                 | with_reducible apply Touches.trans ?_ (Touches.mono (count_touch _ _ _ _) (by decide))
                 | with_reducible apply Touches.trans ?_ (Touches.mono (begin_touch ..) (by decide))
                 | with_reducible apply Touches.trans ?_ (Touches.mono (dmaSetState_touch ..) (by decide))
                 | with_reducible apply Touches.trans ?_ (Touches.mono (dmaHaltNow_touch ..) (by decide))
                 | simp only [touches_mk]; with_reducible refine Touches.made (h := ?_) | (split))

theorem execDmaResume_touch (path : AccessPath) (chan : Fin 96) (s : State) : ∃ t, execDmaResume path chan s = .next t ∧
    Touches [.regs, .free, .out, .peat, .dma] s t := by
  refine ⟨_, rfl, ?_⟩
  repeat' (first | with_reducible exact Touches.refl _ _
                 | with_reducible apply Touches.trans ?_ (Touches.mono (begin_touch ..) (by decide))
                 | with_reducible apply Touches.trans ?_ (Touches.mono (dmaResumeOp_touch ..) (by decide)))

theorem execDmaSkip_touch (path : AccessPath) (chan : Fin 96) (s : State) : ∃ t, execDmaSkip path chan s = .next t ∧ Touches
    [.regs, .free, .out, .glb, .peat, .ret, .map, .mere, .nvq, .dma] s t := by
  refine ⟨_, rfl, ?_⟩
  repeat' (first | with_reducible exact Touches.refl _ _
                 | with_reducible apply Touches.trans ?_ (Touches.mono (begin_touch ..) (by decide))
                 | with_reducible apply Touches.trans ?_ (Touches.mono (dmaSkipOp_touch ..) (by decide)))

theorem execDmaReset_touch (_path : AccessPath) (chan : Fin 96) (s : State) : ∃ t, execDmaReset _path chan s = .next t ∧
    Touches [.regs, .free, .out, .glb, .peat, .ret, .map, .mere, .nvq, .dma] s t := by
  refine ⟨_, rfl, ?_⟩
  repeat' (first | with_reducible exact Touches.refl _ _
                 | with_reducible apply Touches.trans ?_ (Touches.mono (begin_touch ..) (by decide))
                 | with_reducible apply Touches.trans ?_ (Touches.mono (dmaResetOp_touch ..) (by decide)))

theorem execPeatEventRecord_touch (code source : BitVec 16) (arg : Word) (aux : Byte) (s : State) : ∃ t, execPeatEventRecord
    code source arg aux s = .next t ∧ Touches [.regs, .free, .out, .peat] s t := by
  refine ⟨_, rfl, ?_⟩
  repeat' (first | with_reducible exact Touches.refl _ _
                 | with_reducible apply Touches.trans ?_ (Touches.mono (begin_touch ..) (by decide))
                 | with_reducible apply Touches.trans ?_ (Touches.mono (peatRecord_touch ..) (by decide)))

theorem execPeatTokenRefill_touch (code : BitVec 16) (elapsedUs : Nat) (s : State) : ∃ t, execPeatTokenRefill code elapsedUs
    s = .next t ∧ Touches [.out, .peat] s t := by
  refine ⟨_, rfl, ?_⟩
  repeat' (first | with_reducible exact Touches.refl _ _ | dsimp only | with_reducible apply Touches.ite ?_ ?_
                 | with_reducible apply Touches.trans ?_ (Touches.mono (begin_touch ..) (by decide))
                 | simp only [touches_mk]; with_reducible refine Touches.made (h := ?_))

theorem execPeatGapRecord_touch (s : State) : ∃ t, execPeatGapRecord s = .next t ∧ Touches [.regs, .free, .out, .peat] s t := by
  refine ⟨_, rfl, ?_⟩
  repeat' (first | with_reducible exact Touches.refl _ _
                 | with_reducible apply Touches.trans ?_ (Touches.mono (begin_touch ..) (by decide))
                 | with_reducible apply Touches.trans ?_ (Touches.mono (peatGap_touch ..) (by decide)))

theorem execPeatArchiveRow_touch (ok : Bool) (s : State) : ∃ t, execPeatArchiveRow ok s = .next t ∧ Touches [.regs,
    .free, .out, .peat, .map, .mere] s t := by
  refine ⟨_, rfl, ?_⟩
  repeat' (first | with_reducible exact Touches.refl _ _ | dsimp only | with_reducible apply Touches.ite ?_ ?_
                 | with_reducible apply Touches.trans ?_ (Touches.mono (begin_touch ..) (by decide))
                 | with_reducible apply Touches.trans ?_ (Touches.mono (peatRow_touch ..) (by decide))
                 | simp only [touches_mk]; with_reducible refine Touches.made (h := ?_) | (intro _) | (split))

theorem execPeatMaxAgeTimeout_touch (s : State) : ∃ t, execPeatMaxAgeTimeout s = .next t ∧ Touches [.regs, .free, .out,
    .peat, .map, .mere] s t := by
  refine ⟨_, rfl, ?_⟩
  repeat' (first | with_reducible exact Touches.refl _ _ | dsimp only | with_reducible apply Touches.ite ?_ ?_
                 | with_reducible apply Touches.trans ?_ (Touches.mono (begin_touch ..) (by decide))
                 | with_reducible apply Touches.trans ?_ (Touches.mono (peatRow_touch ..) (by decide))
                 | simp only [touches_mk]; with_reducible refine Touches.made (h := ?_) | (intro _) | (split))

theorem execPeatNow_touch (_path : AccessPath) (s : State) : ∃ t, execPeatNow _path s = .next t ∧ Touches [.regs, .free,
    .out, .peat, .map, .mere] s t := by
  refine ⟨_, rfl, ?_⟩
  repeat' (first | with_reducible exact Touches.refl _ _ | dsimp only | with_reducible apply Touches.ite ?_ ?_
                 | with_reducible apply Touches.trans ?_ (Touches.mono (peatArchiveAll_touch ..) (by decide))
                 | with_reducible apply Touches.trans ?_ (Touches.mono (begin_touch ..) (by decide))
                 | simp only [touches_mk]; with_reducible refine Touches.made (h := ?_) | (intro _) | (split))

theorem execPeatSegmentFull_touch (s : State) : ∃ t, execPeatSegmentFull s = .next t ∧ Touches [.out, .peat, .map] s t := by
  refine ⟨_, rfl, ?_⟩
  repeat' (first | with_reducible exact Touches.refl _ _ | with_reducible apply Touches.ite ?_ ?_
                 | with_reducible apply Touches.trans ?_ (Touches.mono (begin_touch ..) (by decide))
                 | with_reducible apply Touches.trans ?_ (Touches.mono (peatOpen_touch ..) (by decide)))

theorem execPeatRlWrite_touch (path : AccessPath) (value : Word) (s : State) : ∃ t, execPeatRlWrite path value s = .next t ∧
    Touches [.regs, .free, .out, .peat] s t := by
  refine ⟨_, rfl, ?_⟩
  repeat' (first | with_reducible exact Touches.refl _ _
                 | with_reducible apply Touches.trans ?_ (Touches.mono (begin_touch ..) (by decide))
                 | with_reducible apply Touches.trans ?_ (Touches.mono (peatRlWrite_touch ..) (by decide)))

theorem execDecodeDone_touch (ladder : Nat) (outcome : DecodeOutcome) (s : State) : ∃ t, execDecodeDone ladder outcome s
    = .next t ∧ Touches [.regs, .free, .out, .glb, .peat, .ret, .map, .fen, .ldpc, .mere, .nvq] s t := by
  refine ⟨_, rfl, ?_⟩
  repeat' (first | with_reducible exact Touches.refl _ _ | dsimp only | with_reducible apply Touches.ite ?_ ?_
                 | with_reducible apply Touches.trans ?_ (Touches.mono (begin_touch ..) (by decide))
                 | with_reducible apply Touches.trans ?_ (Touches.mono (softNote_touch ..) (by decide))
                 | with_reducible apply Touches.trans ?_ (Touches.mono (softLeave_touch ..) (by decide))
                 | with_reducible apply Touches.trans ?_ (Touches.mono (ladderStep_touch ..) (by decide))
                 | with_reducible apply Touches.trans ?_ (Touches.mono (leaveDecoder_touch ..) (by decide))
                 | simp only [touches_mk]; with_reducible refine Touches.made (h := ?_) | (intro _) | (split))

theorem execRaceTimeout_touch (ladder : Nat) (s : State) : ∃ t, execRaceTimeout ladder s = .next t ∧ Touches [.out, .ldpc] s
    t := by
  refine ⟨_, rfl, ?_⟩
  repeat' (first | with_reducible exact Touches.refl _ _ | with_reducible apply Touches.ite ?_ ?_
                 | with_reducible apply Touches.trans ?_ (Touches.mono (begin_touch ..) (by decide))
                 | with_reducible apply Touches.trans ?_ (Touches.mono (putLadder_touch ..) (by decide)) | (split))

theorem execLearnedVectorExpiry_touch (link : Link) (die : Fin 32) (slc : Bool) (s : State) : ∃ t, execLearnedVectorExpiry
    link die slc s = .next t ∧ Touches [.out, .ldpc] s t := by
  refine ⟨_, rfl, ?_⟩
  repeat' (first | with_reducible exact Touches.refl _ _ | dsimp only
                 | with_reducible apply Touches.trans ?_ (Touches.mono (begin_touch ..) (by decide))
                 | simp only [touches_mk]; with_reducible refine Touches.made (h := ?_))

theorem execEncoderCheckFail_touch (link : Link) (s : State) : ∃ t, execEncoderCheckFail link s = .next t ∧ Touches [.regs,
    .free, .out, .glb, .peat, .map, .fen, .ldpc, .nvq] s t := by
  refine ⟨_, rfl, ?_⟩
  repeat' (first | with_reducible exact Touches.refl _ _ | dsimp only | with_reducible apply Touches.ite ?_ ?_
                 | with_reducible apply Touches.trans ?_ (Touches.mono (begin_touch ..) (by decide))
                 | with_reducible apply Touches.trans ?_ (Touches.mono (peatRecord_touch ..) (by decide))
                 | with_reducible apply Touches.trans ?_ (Touches.mono (fenceEncoder_touch ..) (by decide))
                 | simp only [touches_mk]; with_reducible refine Touches.made (h := ?_))

theorem execEncoderKatTimer_touch (link : Link) (pass : Bool) (s : State) : ∃ t, execEncoderKatTimer link pass s = .next t ∧
    Touches [.regs, .out, .glb, .fen, .ldpc, .nvq] s t := by
  refine ⟨_, rfl, ?_⟩
  repeat' (first | with_reducible exact Touches.refl _ _ | dsimp only | with_reducible apply Touches.ite ?_ ?_
                 | with_reducible apply Touches.trans ?_ (Touches.mono (wrBit_touch _ _ _ _ _) (by decide))
                 | with_reducible apply Touches.trans ?_ (Touches.mono (begin_touch ..) (by decide))
                 | with_reducible apply Touches.trans ?_ (Touches.mono (fenRefresh_touch ..) (by decide))
                 | simp only [touches_mk]; with_reducible refine Touches.made (h := ?_))

theorem execIdleKnownAnswerTest_touch (unit : PoolUnit) (pass : Bool) (s : State) : ∃ t, execIdleKnownAnswerTest unit
    pass s = .next t ∧ Touches [.regs, .free, .out, .glb, .peat, .ret, .ldpc, .nvq] s t := by
  refine ⟨_, rfl, ?_⟩
  repeat' (first | with_reducible exact Touches.refl _ _ | dsimp only | with_reducible apply Touches.ite ?_ ?_
                 | with_reducible apply Touches.trans ?_ (Touches.mono (begin_touch ..) (by decide))
                 | with_reducible apply Touches.trans ?_ (Touches.mono (fenceDecoder_touch ..) (by decide))
                 | with_reducible apply Touches.trans ?_ (Touches.mono (fenceCipher_touch ..) (by decide))
                 | simp only [touches_mk]; with_reducible refine Touches.made (h := ?_) | (intro _) | (split))

theorem execHewRingTailWrite_touch (_path : AccessPath) (hewer : Link) (tail : Word) (s : State) : ∃ t, execHewRingTailWrite
    _path hewer tail s = .next t ∧ Touches [.regs, .out] s t := by
  refine ⟨_, rfl, ?_⟩
  repeat' (first | with_reducible exact Touches.refl _ _
                 | with_reducible apply Touches.trans ?_ (Touches.mono (begin_touch ..) (by decide))
                 | with_reducible apply Touches.trans ?_ (Touches.mono (hewTailWrite_touch ..) (by decide)))

theorem execDescriptorFetch_touch (hewer : Link) (s : State) : ∃ t, execDescriptorFetch hewer s = .next t ∧ Touches [.regs,
    .free, .out, .glb, .peat, .ret, .map, .fen, .hew, .seam, .mere, .nvq, .slu] s t := by
  refine ⟨_, rfl, ?_⟩
  repeat' (first | with_reducible exact Touches.refl _ _
                 | with_reducible apply Touches.trans ?_ (Touches.mono (begin_touch ..) (by decide))
                 | with_reducible apply Touches.trans ?_ (Touches.mono (hewFetch_touch ..) (by decide)))

theorem execDieOperationStart_touch (hewer : Link) (slot : Fin 128) (s : State) : ∃ t, execDieOperationStart hewer slot s =
    .next t ∧ Touches [.regs, .out, .hew, .ucs] s t := by
  refine ⟨_, rfl, ?_⟩
  repeat' (first | with_reducible exact Touches.refl _ _
                 | with_reducible apply Touches.trans ?_ (Touches.mono (begin_touch ..) (by decide))
                 | with_reducible apply Touches.trans ?_ (Touches.mono (hewStart_touch ..) (by decide)))

theorem execHewRead_touch (hewer : Link) (slot : Fin 128) (s : State) : ∃ t, execHewRead hewer slot s = .next t ∧
    Touches [.regs, .free, .out, .glb, .peat, .ret, .map, .fen, .hew, .ucs, .seam, .mere, .nvq, .slu] s t := by
  refine ⟨_, rfl, ?_⟩
  repeat' (first | with_reducible exact Touches.refl _ _ | dsimp only | with_reducible apply Touches.ite ?_ ?_
                 | with_reducible apply Touches.trans ?_ (Touches.mono (hewIssue_touch ..) (by decide))
                 | with_reducible apply Touches.trans ?_ (Touches.mono (begin_touch ..) (by decide))
                 | simp only [touches_mk]; with_reducible refine Touches.made (h := ?_) | (intro _) | (split))

theorem execHewReadOfs_touch (hewer : Link) (slot : Fin 128) (s : State) : ∃ t, execHewReadOfs hewer slot s = .next t ∧
    Touches [.regs, .free, .out, .glb, .peat, .ret, .map, .fen, .hew, .ucs, .seam, .mere, .nvq, .slu] s t := by
  refine ⟨_, rfl, ?_⟩
  repeat' (first | with_reducible exact Touches.refl _ _ | dsimp only | with_reducible apply Touches.ite ?_ ?_
                 | with_reducible apply Touches.trans ?_ (Touches.mono (hewIssue_touch ..) (by decide))
                 | with_reducible apply Touches.trans ?_ (Touches.mono (begin_touch ..) (by decide))
                 | simp only [touches_mk]; with_reducible refine Touches.made (h := ?_) | (intro _) | (split))

theorem execHewSoftSense_touch (hewer : Link) (slot : Fin 128) (s : State) : ∃ t, execHewSoftSense hewer slot s = .next
    t ∧ Touches [.regs, .free, .out, .glb, .peat, .ret, .map, .fen, .hew, .ucs, .seam, .mere, .nvq, .slu] s t := by
  refine ⟨_, rfl, ?_⟩
  repeat' (first | with_reducible exact Touches.refl _ _ | dsimp only | with_reducible apply Touches.ite ?_ ?_
                 | with_reducible apply Touches.trans ?_ (Touches.mono (hewIssue_touch ..) (by decide))
                 | with_reducible apply Touches.trans ?_ (Touches.mono (begin_touch ..) (by decide))
                 | simp only [touches_mk]; with_reducible refine Touches.made (h := ?_) | (intro _) | (split))

theorem execHewProgram_touch (hewer : Link) (slot : Fin 128) (s : State) : ∃ t, execHewProgram hewer slot s = .next t ∧
    Touches [.regs, .free, .out, .glb, .peat, .ret, .map, .fen, .hew, .ucs, .seam, .mere, .nvq, .slu] s t := by
  refine ⟨_, rfl, ?_⟩
  repeat' (first | with_reducible exact Touches.refl _ _ | dsimp only | with_reducible apply Touches.ite ?_ ?_
                 | with_reducible apply Touches.trans ?_ (Touches.mono (hewIssue_touch ..) (by decide))
                 | with_reducible apply Touches.trans ?_ (Touches.mono (begin_touch ..) (by decide))
                 | simp only [touches_mk]; with_reducible refine Touches.made (h := ?_) | (intro _) | (split))

theorem execHewErase_touch (hewer : Link) (slot : Fin 128) (s : State) : ∃ t, execHewErase hewer slot s = .next t ∧
    Touches [.regs, .free, .out, .glb, .peat, .ret, .map, .fen, .hew, .ucs, .seam, .mere, .nvq, .slu] s t := by
  refine ⟨_, rfl, ?_⟩
  repeat' (first | with_reducible exact Touches.refl _ _ | dsimp only | with_reducible apply Touches.ite ?_ ?_
                 | with_reducible apply Touches.trans ?_ (Touches.mono (hewIssue_touch ..) (by decide))
                 | with_reducible apply Touches.trans ?_ (Touches.mono (begin_touch ..) (by decide))
                 | simp only [touches_mk]; with_reducible refine Touches.made (h := ?_) | (intro _) | (split))

theorem execHewCalread_touch (hewer : Link) (slot : Fin 128) (s : State) : ∃ t, execHewCalread hewer slot s = .next t ∧
    Touches [.regs, .free, .out, .glb, .peat, .ret, .map, .fen, .hew, .ucs, .seam, .mere, .nvq, .slu] s t := by
  refine ⟨_, rfl, ?_⟩
  repeat' (first | with_reducible exact Touches.refl _ _ | dsimp only | with_reducible apply Touches.ite ?_ ?_
                 | with_reducible apply Touches.trans ?_ (Touches.mono (hewIssue_touch ..) (by decide))
                 | with_reducible apply Touches.trans ?_ (Touches.mono (begin_touch ..) (by decide))
                 | simp only [touches_mk]; with_reducible refine Touches.made (h := ?_) | (intro _) | (split))

theorem execHewMarkread_touch (hewer : Link) (slot : Fin 128) (s : State) : ∃ t, execHewMarkread hewer slot s = .next t
    ∧ Touches [.regs, .free, .out, .glb, .peat, .ret, .map, .fen, .hew, .ucs, .seam, .mere, .nvq, .slu] s t := by
  refine ⟨_, rfl, ?_⟩
  repeat' (first | with_reducible exact Touches.refl _ _ | dsimp only | with_reducible apply Touches.ite ?_ ?_
                 | with_reducible apply Touches.trans ?_ (Touches.mono (hewIssue_touch ..) (by decide))
                 | with_reducible apply Touches.trans ?_ (Touches.mono (begin_touch ..) (by decide))
                 | simp only [touches_mk]; with_reducible refine Touches.made (h := ?_) | (intro _) | (split))

theorem execHewFence_touch (hewer : Link) (slot : Fin 128) (s : State) : ∃ t, execHewFence hewer slot s = .next t ∧
    Touches [.regs, .free, .out, .glb, .peat, .ret, .map, .fen, .hew, .seam, .mere, .nvq, .slu] s t := by
  refine ⟨_, rfl, ?_⟩
  repeat' (first | with_reducible exact Touches.refl _ _ | with_reducible apply Touches.ite ?_ ?_
                 | with_reducible apply Touches.trans ?_ (Touches.mono (begin_touch ..) (by decide))
                 | with_reducible apply Touches.trans ?_ (Touches.mono (hewEnd_touch ..) (by decide)) | (split))

theorem execDescriptorComplete_touch (hewer : Link) (slot : Fin 128) (status : BitVec 8) (detail : BitVec 16) (busyUs
    endTime : Word) (s : State) : ∃ t, execDescriptorComplete hewer slot status detail busyUs endTime s = .next t ∧ Touches
    [.regs, .free, .out, .glb, .peat, .ret, .map, .fen, .hew, .seam, .mere, .nvq, .slu] s t := by
  refine ⟨_, rfl, ?_⟩
  repeat' (first | with_reducible exact Touches.refl _ _ | with_reducible apply Touches.ite ?_ ?_
                 | with_reducible apply Touches.trans ?_ (Touches.mono (begin_touch ..) (by decide))
                 | with_reducible apply Touches.trans ?_ (Touches.mono (hewNote_touch ..) (by decide))
                 | with_reducible apply Touches.trans ?_ (Touches.mono (hewComplete_touch ..) (by decide))
                 | with_reducible apply Touches.trans ?_ (Touches.mono (hewQuietNote_touch ..) (by decide))
                 | with_reducible apply Touches.trans ?_ (Touches.mono (memberAnswer_touch ..) (by decide)) | (split))

theorem execHewOperationTimeout_touch (hewer : Link) (slot : Fin 128) (s : State) : ∃ t, execHewOperationTimeout hewer slot s
    = .next t ∧ Touches [.regs, .free, .out, .glb, .peat, .ret, .map, .fen, .hew, .seam, .mere, .nvq, .slu] s t := by
  refine ⟨_, rfl, ?_⟩
  repeat' (first | with_reducible exact Touches.refl _ _ | with_reducible apply Touches.ite ?_ ?_
                 | with_reducible apply Touches.trans ?_ (Touches.mono (begin_touch ..) (by decide))
                 | with_reducible apply Touches.trans ?_ (Touches.mono (hewEnd_touch ..) (by decide))
                 | with_reducible apply Touches.trans ?_ (Touches.mono (hewTimeoutNote_touch ..) (by decide))
                 | with_reducible apply Touches.trans ?_ (Touches.mono (sendPacket_touch ..) (by decide)) | (split))

theorem execSuspend_touch (hewer : Link) (die : Fin 32) (s : State) : ∃ t, execSuspend hewer die s = .next t ∧ Touches
    [.regs, .out, .hew, .slu] s t := by
  refine ⟨_, rfl, ?_⟩
  repeat' (first | with_reducible exact Touches.refl _ _ | dsimp only | with_reducible apply Touches.ite ?_ ?_
                 | with_reducible apply Touches.trans ?_ (Touches.mono (begin_touch ..) (by decide))
                 | with_reducible apply Touches.trans ?_ (Touches.mono (putUse_touch ..) (by decide))
                 | with_reducible apply Touches.trans ?_ (Touches.mono (putHeld_touch ..) (by decide))
                 | with_reducible apply Touches.trans ?_ (Touches.mono (hewNote_touch ..) (by decide))
                 | with_reducible apply Touches.trans ?_ (Touches.mono (sendPacket_touch ..) (by decide))
                 | with_reducible apply Touches.trans ?_ (Touches.mono (count_touch _ _ _ _) (by decide))
                 | simp only [touches_mk]; with_reducible refine Touches.made (h := ?_) | (intro _) | (split))

theorem execResumeOp_touch (hewer : Link) (die : Fin 32) (s : State) : ∃ t, execResumeOp hewer die s = .next t ∧ Touches
    [.regs, .out, .hew] s t := by
  refine ⟨_, rfl, ?_⟩
  repeat' (first | with_reducible exact Touches.refl _ _ | dsimp only | with_reducible apply Touches.ite ?_ ?_
                 | with_reducible apply Touches.trans ?_ (Touches.mono (begin_touch ..) (by decide))
                 | with_reducible apply Touches.trans ?_ (Touches.mono (putHeld_touch ..) (by decide))
                 | with_reducible apply Touches.trans ?_ (Touches.mono (hewNote_touch ..) (by decide))
                 | with_reducible apply Touches.trans ?_ (Touches.mono (sendPacket_touch ..) (by decide)) | (split))

theorem execPfQuietDeadline_touch (s : State) : ∃ t, execPfQuietDeadline s = .next t ∧ Touches [.regs, .free, .out,
    .glb, .peat, .ret, .map, .fen, .hew, .seam, .mere, .nvq, .slu] s t := by
  refine ⟨_, rfl, ?_⟩
  repeat' (first | with_reducible exact Touches.refl _ _ | dsimp only | with_reducible apply Touches.ite ?_ ?_
                 | with_reducible apply Touches.trans ?_ (Touches.mono (begin_touch ..) (by decide))
                 | with_reducible apply Touches.trans ?_ (Touches.mono (hewEnd_touch ..) (by decide))
                 | with_reducible apply Touches.trans ?_ (eachOf_touch _ _ _ ?_) | (intro _))

theorem execDetectBurst_touch (link : Link) (s : State) : ∃ t, execDetectBurst link s = .next t ∧ Touches [.out] s t := by
  refine ⟨_, rfl, ?_⟩
  repeat' (first | with_reducible exact Touches.refl _ _ | with_reducible apply Touches.ite ?_ ?_
                 | with_reducible apply Touches.trans ?_ (Touches.mono (begin_touch ..) (by decide))
                 | with_reducible apply Touches.trans ?_ (Touches.mono (emit_touch ..) (by decide)))

theorem execDetectAnswer_touch (link : Link) (s : State) : ∃ t, execDetectAnswer link s = .next t ∧ Touches [.regs, .out] s t
    := by
  refine ⟨_, rfl, ?_⟩
  repeat' (first | with_reducible exact Touches.refl _ _ | with_reducible apply Touches.ite ?_ ?_
                 | with_reducible apply Touches.trans ?_ (Touches.mono (begin_touch ..) (by decide))
                 | with_reducible apply Touches.trans ?_ (Touches.mono (seamSet_touch ..) (by decide)))

theorem execTrainingStateEnd_touch (link : Link) (_fullHandshake : Bool) (s : State) : ∃ t, execTrainingStateEnd link
    _fullHandshake s = .next t ∧ Touches [.regs, .free, .out, .glb, .peat, .ret, .map, .fen, .ldpc, .hew, .seam, .mere,
    .nvq, .slu] s t := by
  refine ⟨_, rfl, ?_⟩
  repeat' (first | with_reducible exact Touches.refl _ _
                 | with_reducible apply Touches.trans ?_ (Touches.mono (begin_touch ..) (by decide))
                 | with_reducible apply Touches.trans ?_ (Touches.mono (trainEnd_touch ..) (by decide)))

theorem execTrainingLimitExpiry_touch (link : Link) (s : State) : ∃ t, execTrainingLimitExpiry link s = .next t ∧ Touches
    [.regs, .free, .out, .glb, .peat, .ret, .map, .fen, .seam, .nvq] s t := by
  refine ⟨_, rfl, ?_⟩
  repeat' (first | with_reducible exact Touches.refl _ _ | with_reducible apply Touches.ite ?_ ?_
                 | with_reducible apply Touches.trans ?_ (Touches.mono (begin_touch ..) (by decide))
                 | with_reducible apply Touches.trans ?_ (Touches.mono (trainFail_touch ..) (by decide)))

theorem execDataFlit_touch (link : Link) (head : FlitHead) (s : State) : ∃ t, execDataFlit link head s = .next t ∧ Touches
    [.regs, .out, .seam] s t := by
  refine ⟨_, rfl, ?_⟩
  repeat' (first | with_reducible exact Touches.refl _ _ | dsimp only | with_reducible apply Touches.ite ?_ ?_
                 | with_reducible apply Touches.trans ?_ (Touches.mono (begin_touch ..) (by decide))
                 | with_reducible apply Touches.trans ?_ (Touches.mono (putLink_touch ..) (by decide))
                 | with_reducible apply Touches.trans ?_ (Touches.mono (creditReport_touch ..) (by decide))
                 | with_reducible apply Touches.trans ?_ (Touches.mono (ackReport_touch ..) (by decide))
                 | with_reducible apply Touches.trans ?_ (Touches.mono (flitCounts_touch ..) (by decide))
                 | with_reducible apply Touches.trans ?_ (Touches.mono (flitDiscard_touch ..) (by decide)))

theorem execIdleFlit_touch (link : Link) (head : FlitHead) (s : State) : ∃ t, execIdleFlit link head s = .next t ∧ Touches
    [.regs, .out, .seam] s t := by
  refine ⟨_, rfl, ?_⟩
  repeat' (first | with_reducible exact Touches.refl _ _ | dsimp only | with_reducible apply Touches.ite ?_ ?_
                 | with_reducible apply Touches.trans ?_ (Touches.mono (begin_touch ..) (by decide))
                 | with_reducible apply Touches.trans ?_ (Touches.mono (creditReport_touch ..) (by decide))
                 | with_reducible apply Touches.trans ?_ (Touches.mono (ackReport_touch ..) (by decide))
                 | with_reducible apply Touches.trans ?_ (Touches.mono (flitCounts_touch ..) (by decide)))

theorem execReplayLimit_touch (link : Link) (s : State) : ∃ t, execReplayLimit link s = .next t ∧ Touches [.regs, .out,
    .seam] s t := by
  refine ⟨_, rfl, ?_⟩
  repeat' (first | with_reducible exact Touches.refl _ _
                 | with_reducible apply Touches.trans ?_ (Touches.mono (begin_touch ..) (by decide))
                 | with_reducible apply Touches.trans ?_ (Touches.mono (seamRetrain_touch ..) (by decide)))

theorem execRecalReq_touch (link : Link) (fromMember : Bool) (s : State) : ∃ t, execRecalReq link fromMember s = .next t ∧
    Touches [.regs, .free, .out, .seam] s t := by
  refine ⟨_, rfl, ?_⟩
  repeat' (first | with_reducible exact Touches.refl _ _ | dsimp only | with_reducible apply Touches.ite ?_ ?_
                 | with_reducible apply Touches.trans ?_ (Touches.mono (begin_touch ..) (by decide))
                 | with_reducible apply Touches.trans ?_ (Touches.mono (emit_touch ..) (by decide))
                 | with_reducible apply Touches.trans ?_ (Touches.mono (putLink_touch ..) (by decide))
                 | with_reducible apply Touches.trans ?_ (Touches.mono (drawn_touch ..) (by decide))
                 | with_reducible apply Touches.trans ?_ (Touches.mono (recalAsk_touch ..) (by decide))
                 | with_reducible apply Touches.trans ?_ (Touches.mono (recalOpen_touch ..) (by decide)))

theorem execRecalGo_touch (link : Link) (s : State) : ∃ t, execRecalGo link s = .next t ∧ Touches [.regs, .out, .seam] s t := by
  refine ⟨_, rfl, ?_⟩
  repeat' (first | with_reducible exact Touches.refl _ _ | with_reducible apply Touches.ite ?_ ?_
                 | with_reducible apply Touches.trans ?_ (Touches.mono (begin_touch ..) (by decide))
                 | with_reducible apply Touches.trans ?_ (Touches.mono (recalOpen_touch ..) (by decide)))

theorem execRecalWindowEnd_touch (link : Link) (s : State) : ∃ t, execRecalWindowEnd link s = .next t ∧ Touches [.regs, .out,
    .seam] s t := by
  refine ⟨_, rfl, ?_⟩
  repeat' (first | with_reducible exact Touches.refl _ _ | dsimp only | with_reducible apply Touches.ite ?_ ?_
                 | with_reducible apply Touches.trans ?_ (Touches.mono (begin_touch ..) (by decide))
                 | with_reducible apply Touches.trans ?_ (Touches.mono (putLink_touch ..) (by decide))
                 | with_reducible apply Touches.trans ?_ (Touches.mono (seamSet_touch ..) (by decide)))

theorem execRecalPeriodTimer_touch (link : Link) (s : State) : ∃ t, execRecalPeriodTimer link s = .next t ∧ Touches [.out,
    .seam] s t := by
  refine ⟨_, rfl, ?_⟩
  repeat' (first | with_reducible exact Touches.refl _ _
                 | with_reducible apply Touches.trans ?_ (Touches.mono (begin_touch ..) (by decide))
                 | with_reducible apply Touches.trans ?_ (Touches.mono (recalAsk_touch ..) (by decide)))

theorem execRetrain_touch (link : Link) (s : State) : ∃ t, execRetrain link s = .next t ∧ Touches [.regs, .out, .seam] s t := by
  refine ⟨_, rfl, ?_⟩
  repeat' (first | with_reducible exact Touches.refl _ _
                 | with_reducible apply Touches.trans ?_ (Touches.mono (begin_touch ..) (by decide))
                 | with_reducible apply Touches.trans ?_ (Touches.mono (enterRetrain_touch ..) (by decide)))

theorem execRetrainLimitExpiry_touch (link : Link) (s : State) : ∃ t, execRetrainLimitExpiry link s = .next t ∧ Touches
    [.regs, .free, .out, .glb, .peat, .ret, .map, .fen, .ldpc, .hew, .seam, .mere, .nvq, .slu] s t := by
  refine ⟨_, rfl, ?_⟩
  repeat' (first | with_reducible exact Touches.refl _ _ | with_reducible apply Touches.ite ?_ ?_
                 | with_reducible apply Touches.trans ?_ (Touches.mono (begin_touch ..) (by decide))
                 | with_reducible apply Touches.trans ?_ (Touches.mono (dropToDetect_touch ..) (by decide)))

theorem execPark_touch (link : Link) (s : State) : ∃ t, execPark link s = .next t ∧ Touches [.regs, .out, .seam] s t := by
  refine ⟨_, rfl, ?_⟩
  repeat' (first | with_reducible exact Touches.refl _ _
                 | with_reducible apply Touches.trans ?_ (Touches.mono (begin_touch ..) (by decide))
                 | with_reducible apply Touches.trans ?_ (Touches.mono (parkLink_touch ..) (by decide)))

theorem execParkWakeTimer_touch (link : Link) (s : State) : ∃ t, execParkWakeTimer link s = .next t ∧ Touches [.regs, .out,
    .seam] s t := by
  refine ⟨_, rfl, ?_⟩
  repeat' (first | with_reducible exact Touches.refl _ _ | dsimp only | with_reducible apply Touches.ite ?_ ?_
                 | with_reducible apply Touches.trans ?_ (Touches.mono (begin_touch ..) (by decide))
                 | with_reducible apply Touches.trans ?_ (Touches.mono (putLink_touch ..) (by decide))
                 | with_reducible apply Touches.trans ?_ (Touches.mono (seamRetrain_touch ..) (by decide)))

theorem execLossOfSignal_touch (link : Link) (s : State) : ∃ t, execLossOfSignal link s = .next t ∧ Touches [.regs,
    .free, .out, .glb, .peat, .ret, .map, .fen, .ldpc, .hew, .seam, .mere, .nvq, .slu] s t := by
  refine ⟨_, rfl, ?_⟩
  repeat' (first | with_reducible exact Touches.refl _ _ | dsimp only | with_reducible apply Touches.ite ?_ ?_
                 | with_reducible apply Touches.trans ?_ (Touches.mono (begin_touch ..) (by decide))
                 | with_reducible apply Touches.trans ?_ (Touches.mono (putLink_touch ..) (by decide))
                 | with_reducible apply Touches.trans ?_ (Touches.mono (toDetect_touch ..) (by decide))
                 | with_reducible apply Touches.trans ?_ (Touches.mono (dropToDetect_touch ..) (by decide)))

theorem execCreditStallTimeout_touch (link : Link) (s : State) : ∃ t, execCreditStallTimeout link s = .next t ∧ Touches
    [.regs, .out, .seam] s t := by
  refine ⟨_, rfl, ?_⟩
  repeat' (first | with_reducible exact Touches.refl _ _ | with_reducible apply Touches.ite ?_ ?_
                 | with_reducible apply Touches.trans ?_ (Touches.mono (begin_touch ..) (by decide))
                 | with_reducible apply Touches.trans ?_ (Touches.mono (seamRetrain_touch ..) (by decide)))

theorem execMemberLinkDrop_touch (link : Link) (s : State) : ∃ t, execMemberLinkDrop link s = .next t ∧ Touches [.regs,
    .free, .out, .glb, .peat, .ret, .map, .fen, .ldpc, .hew, .seam, .mere, .nvq, .slu] s t := by
  refine ⟨_, rfl, ?_⟩
  repeat' (first | with_reducible exact Touches.refl _ _ | with_reducible apply Touches.ite ?_ ?_
                 | with_reducible apply Touches.trans ?_ (Touches.mono (begin_touch ..) (by decide))
                 | with_reducible apply Touches.trans ?_ (Touches.mono (memberAbsent_touch ..) (by decide))
                 | with_reducible apply Touches.trans ?_ (Touches.mono (limitNote_touch ..) (by decide))
                 | with_reducible apply Touches.trans ?_ (Touches.mono (dropToDetect_touch ..) (by decide)))

theorem execMemberWaitExpiry_touch (link : Link) (s : State) : ∃ t, execMemberWaitExpiry link s = .next t ∧ Touches
    [.regs, .free, .out, .glb, .peat, .ret, .map, .fen, .ldpc, .hew, .seam, .mere, .nvq, .slu] s t := by
  refine ⟨_, rfl, ?_⟩
  repeat' (first | with_reducible exact Touches.refl _ _ | dsimp only | with_reducible apply Touches.ite ?_ ?_
                 | with_reducible apply Touches.trans ?_ (Touches.mono (begin_touch ..) (by decide))
                 | with_reducible apply Touches.trans ?_ (Touches.mono (startRebuild_touch ..) (by decide))
                 | with_reducible apply Touches.trans ?_ (Touches.mono (laddersGiveUp_touch ..) (by decide))
                 | with_reducible apply Touches.trans ?_ (Touches.mono (giveUpUnsent_touch ..) (by decide))
                 | simp only [touches_mk]; with_reducible refine Touches.made (h := ?_) | (intro _) | (split))

theorem execMemberReturn_touch (link : Link) (s : State) : ∃ t, execMemberReturn link s = .next t ∧ Touches [.regs,
    .free, .out, .glb, .peat, .ret, .map, .fen, .hew, .seam, .mere, .nvq, .slu] s t := by
  refine ⟨_, rfl, ?_⟩
  repeat' (first | with_reducible exact Touches.refl _ _ | with_reducible apply Touches.ite ?_ ?_
                 | with_reducible apply Touches.trans ?_ (Touches.mono (wr_touch _ _ _ _) (by decide))
                 | with_reducible apply Touches.trans ?_ (Touches.mono (begin_touch ..) (by decide))
                 | with_reducible apply Touches.trans ?_ (Touches.mono (limitNote_touch ..) (by decide))
                 | with_reducible apply Touches.trans ?_ (Touches.mono (memberBack_touch ..) (by decide))
                 | with_reducible apply Touches.trans ?_ (Touches.mono (linkActive_touch ..) (by decide)))

theorem execReadData_touch (link : Link) (tag : Fin 128) (cw : Fin 4) (last : Bool) (s : State) : ∃ t, execReadData link
    tag cw last s = .next t ∧ Touches [.free, .out, .ldpc, .hew, .seam] s t := by
  refine ⟨_, rfl, ?_⟩
  repeat' (first | with_reducible exact Touches.refl _ _
                 | with_reducible apply Touches.trans ?_ (Touches.mono (begin_touch ..) (by decide))
                 | with_reducible apply Touches.trans ?_ (Touches.mono (wordArrives_touch ..) (by decide)))

theorem execSoftData_touch (link : Link) (tag : Fin 128) (cw : Fin 4) (last : Bool) (s : State) : ∃ t, execSoftData link
    tag cw last s = .next t ∧ Touches [.free, .out, .ldpc, .hew, .seam] s t := by
  refine ⟨_, rfl, ?_⟩
  repeat' (first | with_reducible exact Touches.refl _ _
                 | with_reducible apply Touches.trans ?_ (Touches.mono (begin_touch ..) (by decide))
                 | with_reducible apply Touches.trans ?_ (Touches.mono (wordArrives_touch ..) (by decide)))

theorem execCompletion_touch (link : Link) (tag status : BitVec 8) (detail : BitVec 16) (s : State) : ∃ t, execCompletion
    link tag status detail s = .next t ∧ Touches [.regs, .free, .out, .peat, .ldpc, .hew, .seam] s t := by
  refine ⟨_, rfl, ?_⟩
  repeat' (first | with_reducible exact Touches.refl _ _ | dsimp only | with_reducible apply Touches.ite ?_ ?_
                 | with_reducible apply Touches.trans ?_ (Touches.mono (begin_touch ..) (by decide))
                 | with_reducible apply Touches.trans ?_ (Touches.mono (hewNote_touch ..) (by decide))
                 | with_reducible apply Touches.trans ?_ (Touches.mono (memberAnswer_touch ..) (by decide))
                 | with_reducible apply Touches.trans ?_ (Touches.mono (freeRsp_touch ..) (by decide))
                 | simp only [touches_mk]; with_reducible refine Touches.made (h := ?_) | (split))

theorem execTelemetry_touch (link : Link) (temps : List Int) (hottest : Int) (flags : BitVec 8) (s : State) : ∃ t,
    execTelemetry link temps hottest flags s = .next t ∧ Touches [.regs, .out, .seam] s t := by
  refine ⟨_, rfl, ?_⟩
  repeat' (first | with_reducible exact Touches.refl _ _ | dsimp only | with_reducible apply Touches.ite ?_ ?_
                 | with_reducible apply Touches.trans ?_ (Touches.mono (wr_touch _ _ _ _) (by decide))
                 | with_reducible apply Touches.trans ?_ (Touches.mono (begin_touch ..) (by decide))
                 | with_reducible apply Touches.trans ?_ (Touches.mono (putLink_touch ..) (by decide))
                 | with_reducible apply Touches.trans ?_ (Touches.mono (recalAsk_touch ..) (by decide))
                 | with_reducible apply Touches.trans ?_ (Touches.mono (parkLink_touch ..) (by decide))
                 | with_reducible apply Touches.trans ?_ (Touches.mono (freeRsp_touch ..) (by decide))
                 | with_reducible apply Touches.trans ?_ (Touches.mono (setOver_touch ..) (by decide)))

theorem execIdentData_touch (link : Link) (ident : IdentBody) (s : State) : ∃ t, execIdentData link ident s = .next t ∧
    Touches [.regs, .free, .out, .glb, .peat, .ret, .map, .fen, .ldpc, .hew, .seam, .mere, .nvq, .slu] s t := by
  refine ⟨_, rfl, ?_⟩
  repeat' (first | with_reducible exact Touches.refl _ _ | dsimp only | with_reducible apply Touches.ite ?_ ?_
                 | with_reducible apply Touches.trans ?_ (Touches.mono (begin_touch ..) (by decide))
                 | with_reducible apply Touches.trans ?_ (Touches.mono (putLink_touch ..) (by decide))
                 | with_reducible apply Touches.trans ?_ (Touches.mono (trainFail_touch ..) (by decide))
                 | with_reducible apply Touches.trans ?_ (Touches.mono (dropToDetect_touch ..) (by decide)))

theorem execCalData_touch (link : Link) (tag : Fin 128) (row : CalRow) (s : State) : ∃ t, execCalData link tag row s = .next
    t ∧ Touches [.regs, .free, .out, .peat, .ret, .hew, .seam] s t := by
  refine ⟨_, rfl, ?_⟩
  repeat' (first | with_reducible exact Touches.refl _ _ | dsimp only | with_reducible apply Touches.ite ?_ ?_
                 | with_reducible apply Touches.trans ?_ (Touches.mono (begin_touch ..) (by decide))
                 | with_reducible apply Touches.trans ?_ (Touches.mono (peatRecord_touch ..) (by decide))
                 | with_reducible apply Touches.trans ?_ (Touches.mono (freeRsp_touch ..) (by decide))
                 | with_reducible apply Touches.trans ?_ (Touches.mono (lastPacket_touch ..) (by decide))
                 | simp only [touches_mk]; with_reducible refine Touches.made (h := ?_) | (split))

theorem execMarkData_touch (link : Link) (tag : Fin 128) (bitmap : Nat) (s : State) : ∃ t, execMarkData link tag bitmap
    s = .next t ∧ Touches [.out, .map, .hew, .seam, .mere] s t := by
  refine ⟨_, rfl, ?_⟩
  repeat' (first | with_reducible exact Touches.refl _ _ | dsimp only | with_reducible apply Touches.ite ?_ ?_
                 | with_reducible apply Touches.trans ?_ (Touches.mono (freeRsp_touch ..) (by decide))
                 | with_reducible apply Touches.trans ?_ (Touches.mono (begin_touch ..) (by decide))
                 | with_reducible apply Touches.trans ?_ (Touches.mono (eachOf_touch ..) (by decide))
                 | with_reducible apply Touches.trans ?_ (Touches.mono (barBlock_touch ..) (by decide))
                 | with_reducible apply Touches.trans ?_ (Touches.mono (putBlock_touch ..) (by decide))
                 | with_reducible apply Touches.trans ?_ (Touches.mono (lastPacket_touch ..) (by decide))
                 | with_reducible apply Touches.trans ?_ (eachOf_touch _ _ _ ?_)
                 | with_reducible apply Touches.trans ?_ (foldl_touch _ _ _ ?_)
                 | simp only [touches_mk]; with_reducible refine Touches.made (h := ?_) | (intro _) | (split))

theorem execEventPacket_touch (link : Link) (opc code : BitVec 8) (die : Fin 32) (s : State) : ∃ t, execEventPacket link
    opc code die s = .next t ∧ Touches [.regs, .free, .out, .glb, .peat, .ret, .map, .fen, .seam, .mere, .nvq] s t := by
  refine ⟨_, rfl, ?_⟩
  repeat' (first | with_reducible exact Touches.refl _ _ | dsimp only | with_reducible apply Touches.ite ?_ ?_
                 | with_reducible apply Touches.trans ?_ (Touches.mono (freeRsp_touch ..) (by decide))
                 | with_reducible apply Touches.trans ?_ (Touches.mono (begin_touch ..) (by decide))
                 | with_reducible apply Touches.trans ?_ (Touches.mono (peatRecord_touch ..) (by decide))
                 | with_reducible apply Touches.trans ?_ (Touches.mono (setOver_touch ..) (by decide))
                 | with_reducible apply Touches.trans ?_ (Touches.mono (loseDie_touch ..) (by decide))
                 | simp only [touches_mk]; with_reducible refine Touches.made (h := ?_) | (intro _) | (split))

end Sys2Proof.Machine
end

