-- ==== Sys2Proof/Laws/TouchExec3.lean ====
section
/-! SUPPORT. Every command completes, and the parts of the state that it may change (see TouchBase). -/

-- One theorem after the other: elaborated side by side, their many small side proofs make Lean start hundreds of threads.
set_option Elab.async false

namespace Sys2Proof.Machine

open Sys2Proof

theorem execTelemetryTimeout_touch (link : Link) (s : State) : ∃ t, execTelemetryTimeout link s = .next t ∧ Touches [.regs,
    .free, .out, .peat, .seam] s t := by
  refine ⟨_, rfl, ?_⟩
  repeat' (first | with_reducible exact Touches.refl _ _ | dsimp only | with_reducible apply Touches.ite ?_ ?_
                 | with_reducible apply Touches.trans ?_ (Touches.mono (begin_touch ..) (by decide))
                 | with_reducible apply Touches.trans ?_ (Touches.mono (putLink_touch ..) (by decide))
                 | with_reducible apply Touches.trans ?_ (Touches.mono (peatRecord_touch ..) (by decide))
                 | with_reducible apply Touches.trans ?_ (Touches.mono (sendPacket_touch ..) (by decide)))

theorem execPllGroupUnlock_touch (group : Fin 16) (s : State) : ∃ t, execPllGroupUnlock group s = .next t ∧ Touches
    [.regs, .free, .out, .glb, .peat, .ret, .seam, .nvq] s t := by
  refine ⟨_, rfl, ?_⟩
  repeat' (first | with_reducible exact Touches.refl _ _
                 | with_reducible apply Touches.trans ?_ (Touches.mono (begin_touch ..) (by decide))
                 | with_reducible apply Touches.trans ?_ (Touches.mono (groupLost_touch ..) (by decide)))

theorem execPllGroupRelock_touch (group : Fin 16) (s : State) : ∃ t, execPllGroupRelock group s = .next t ∧ Touches
    [.regs, .free, .out, .glb, .peat, .seam] s t := by
  refine ⟨_, rfl, ?_⟩
  repeat' (first | with_reducible exact Touches.refl _ _ | dsimp only | with_reducible apply Touches.ite ?_ ?_
                 | with_reducible apply Touches.trans ?_ (Touches.mono (begin_touch ..) (by decide))
                 | with_reducible apply Touches.trans ?_ (Touches.mono (wr_touch _ _ _ _) (by decide))
                 | with_reducible apply Touches.trans ?_ (Touches.mono (glbRefresh_touch ..) (by decide))
                 | with_reducible apply Touches.trans ?_ (Touches.mono (eachOf_touch ..) (by decide))
                 | with_reducible apply Touches.trans ?_ (Touches.mono (seamRetrain_touch ..) (by decide))
                 | with_reducible apply Touches.trans ?_ (Touches.mono (groupsNote_touch ..) (by decide))
                 | with_reducible apply Touches.trans ?_ (eachOf_touch _ _ _ ?_)
                 | with_reducible apply Touches.trans ?_ (foldl_touch _ _ _ ?_)
                 | simp only [touches_mk]; with_reducible refine Touches.made (h := ?_) | (intro _) | (split))

theorem execSeamRetrainWrite_touch (_path : AccessPath) (link : Link) (s : State) : ∃ t, execSeamRetrainWrite _path link s =
    .next t ∧ Touches [.regs, .out, .seam] s t := by
  refine ⟨_, rfl, ?_⟩
  repeat' (first | with_reducible exact Touches.refl _ _
                 | with_reducible apply Touches.trans ?_ (Touches.mono (begin_touch ..) (by decide))
                 | with_reducible apply Touches.trans ?_ (Touches.mono (seamRetrainAsk_touch ..) (by decide)))

theorem execSeamEnableWrite_touch (path : AccessPath) (link : Link) (enable : Bool) (s : State) : ∃ t,
    execSeamEnableWrite path link enable s = .next t ∧ Touches [.regs, .free, .out, .glb, .peat, .ret, .map, .fen, .ldpc,
    .hew, .seam, .mere, .nvq, .slu] s t := by
  refine ⟨_, rfl, ?_⟩
  repeat' (first | with_reducible exact Touches.refl _ _ | with_reducible apply Touches.ite ?_ ?_
                 | with_reducible apply Touches.trans ?_ (Touches.mono (begin_touch ..) (by decide))
                 | with_reducible apply Touches.trans ?_ (Touches.mono (accessViolation_touch ..) (by decide))
                 | with_reducible apply Touches.trans ?_ (Touches.mono (seamEnable_touch ..) (by decide)))

theorem execBankSwitch_touch (fen : Fen) (s : State) : ∃ t, execBankSwitch fen s = .next t ∧ Touches [.regs, .out, .ucs] s t
    := by
  refine ⟨_, rfl, ?_⟩
  repeat' (first | with_reducible exact Touches.refl _ _ | with_reducible apply Touches.ite ?_ ?_
                 | with_reducible apply Touches.trans ?_ (Touches.mono (begin_touch ..) (by decide))
                 | with_reducible apply Touches.trans ?_ (Touches.mono (flipBank_touch ..) (by decide)))

theorem execPendingClear_touch (fen : Fen) (s : State) : ∃ t, execPendingClear fen s = .next t ∧ Touches [.regs, .free, .out,
    .peat, .cfg, .ucs, .nvq] s t := by
  refine ⟨_, rfl, ?_⟩
  repeat' (first | with_reducible exact Touches.refl _ _ | with_reducible apply Touches.ite ?_ ?_
                 | with_reducible apply Touches.trans ?_ (Touches.mono (wr_touch _ _ _ _) (by decide))
                 | with_reducible apply Touches.trans ?_ (Touches.mono (begin_touch ..) (by decide))
                 | with_reducible apply Touches.trans ?_ (Touches.mono (ucodeNote_touch ..) (by decide))
                 | with_reducible apply Touches.trans ?_ (Touches.mono (restoreNote_touch ..) (by decide)))

theorem execUcNop_touch (hewer : Link) (slot : Fin 128) (s : State) : ∃ t, execUcNop hewer slot s = .next t ∧ Touches
    [.regs, .free, .out, .glb, .peat, .ret, .map, .fen, .hew, .ucs, .seam, .mere, .nvq, .slu] s t := by
  refine ⟨_, rfl, ?_⟩
  repeat' (first | with_reducible exact Touches.refl _ _
                 | with_reducible apply Touches.trans ?_ (Touches.mono (begin_touch ..) (by decide))
                 | with_reducible apply Touches.trans ?_ (Touches.mono (putHeld_touch ..) (by decide))
                 | with_reducible apply Touches.trans ?_ (ucRun_touch (hp := by decide) (hf := ?_) ..) | (intro _))

theorem execUcLdi_touch (hewer : Link) (slot : Fin 128) (s : State) : ∃ t, execUcLdi hewer slot s = .next t ∧ Touches
    [.regs, .free, .out, .glb, .peat, .ret, .map, .fen, .hew, .ucs, .seam, .mere, .nvq, .slu] s t := by
  refine ⟨_, rfl, ?_⟩
  repeat' (first | with_reducible exact Touches.refl _ _
                 | with_reducible apply Touches.trans ?_ (Touches.mono (begin_touch ..) (by decide))
                 | with_reducible apply Touches.trans ?_ (Touches.mono (ucAlu_touch ..) (by decide)))

theorem execUcMov_touch (hewer : Link) (slot : Fin 128) (s : State) : ∃ t, execUcMov hewer slot s = .next t ∧ Touches
    [.regs, .free, .out, .glb, .peat, .ret, .map, .fen, .hew, .ucs, .seam, .mere, .nvq, .slu] s t := by
  refine ⟨_, rfl, ?_⟩
  repeat' (first | with_reducible exact Touches.refl _ _
                 | with_reducible apply Touches.trans ?_ (Touches.mono (begin_touch ..) (by decide))
                 | with_reducible apply Touches.trans ?_ (Touches.mono (ucAlu_touch ..) (by decide)))

theorem execUcAddi_touch (hewer : Link) (slot : Fin 128) (s : State) : ∃ t, execUcAddi hewer slot s = .next t ∧ Touches
    [.regs, .free, .out, .glb, .peat, .ret, .map, .fen, .hew, .ucs, .seam, .mere, .nvq, .slu] s t := by
  refine ⟨_, rfl, ?_⟩
  repeat' (first | with_reducible exact Touches.refl _ _
                 | with_reducible apply Touches.trans ?_ (Touches.mono (begin_touch ..) (by decide))
                 | with_reducible apply Touches.trans ?_ (Touches.mono (ucAlu_touch ..) (by decide)))

theorem execUcAndi_touch (hewer : Link) (slot : Fin 128) (s : State) : ∃ t, execUcAndi hewer slot s = .next t ∧ Touches
    [.regs, .free, .out, .glb, .peat, .ret, .map, .fen, .hew, .ucs, .seam, .mere, .nvq, .slu] s t := by
  refine ⟨_, rfl, ?_⟩
  repeat' (first | with_reducible exact Touches.refl _ _
                 | with_reducible apply Touches.trans ?_ (Touches.mono (begin_touch ..) (by decide))
                 | with_reducible apply Touches.trans ?_ (Touches.mono (ucAlu_touch ..) (by decide)))

theorem execUcOri_touch (hewer : Link) (slot : Fin 128) (s : State) : ∃ t, execUcOri hewer slot s = .next t ∧ Touches
    [.regs, .free, .out, .glb, .peat, .ret, .map, .fen, .hew, .ucs, .seam, .mere, .nvq, .slu] s t := by
  refine ⟨_, rfl, ?_⟩
  repeat' (first | with_reducible exact Touches.refl _ _
                 | with_reducible apply Touches.trans ?_ (Touches.mono (begin_touch ..) (by decide))
                 | with_reducible apply Touches.trans ?_ (Touches.mono (ucAlu_touch ..) (by decide)))

theorem execUcShl_touch (hewer : Link) (slot : Fin 128) (s : State) : ∃ t, execUcShl hewer slot s = .next t ∧ Touches
    [.regs, .free, .out, .glb, .peat, .ret, .map, .fen, .hew, .ucs, .seam, .mere, .nvq, .slu] s t := by
  refine ⟨_, rfl, ?_⟩
  repeat' (first | with_reducible exact Touches.refl _ _
                 | with_reducible apply Touches.trans ?_ (Touches.mono (begin_touch ..) (by decide))
                 | with_reducible apply Touches.trans ?_ (Touches.mono (ucAlu_touch ..) (by decide)))

theorem execUcShr_touch (hewer : Link) (slot : Fin 128) (s : State) : ∃ t, execUcShr hewer slot s = .next t ∧ Touches
    [.regs, .free, .out, .glb, .peat, .ret, .map, .fen, .hew, .ucs, .seam, .mere, .nvq, .slu] s t := by
  refine ⟨_, rfl, ?_⟩
  repeat' (first | with_reducible exact Touches.refl _ _
                 | with_reducible apply Touches.trans ?_ (Touches.mono (begin_touch ..) (by decide))
                 | with_reducible apply Touches.trans ?_ (Touches.mono (ucAlu_touch ..) (by decide)))

theorem execUcCmp_touch (hewer : Link) (slot : Fin 128) (s : State) : ∃ t, execUcCmp hewer slot s = .next t ∧ Touches
    [.regs, .free, .out, .glb, .peat, .ret, .map, .fen, .hew, .ucs, .seam, .mere, .nvq, .slu] s t := by
  refine ⟨_, rfl, ?_⟩
  repeat' (first | with_reducible exact Touches.refl _ _
                 | with_reducible apply Touches.trans ?_ (Touches.mono (begin_touch ..) (by decide))
                 | with_reducible apply Touches.trans ?_ (Touches.mono (putHeld_touch ..) (by decide))
                 | with_reducible apply Touches.trans ?_ (Touches.mono (drawn_touch ..) (by decide))
                 | with_reducible apply Touches.trans ?_ (ucRun_touch (hp := by decide) (hf := ?_) ..) | (intro _))

theorem execUcJmp_touch (hewer : Link) (slot : Fin 128) (s : State) : ∃ t, execUcJmp hewer slot s = .next t ∧ Touches
    [.regs, .free, .out, .glb, .peat, .ret, .map, .fen, .hew, .ucs, .seam, .mere, .nvq, .slu] s t := by
  refine ⟨_, rfl, ?_⟩
  repeat' (first | with_reducible exact Touches.refl _ _
                 | with_reducible apply Touches.trans ?_ (Touches.mono (begin_touch ..) (by decide))
                 | with_reducible apply Touches.trans ?_ (Touches.mono (putHeld_touch ..) (by decide))
                 | with_reducible apply Touches.trans ?_ (ucRun_touch (hp := by decide) (hf := ?_) ..) | (intro _))

theorem execUcBr_touch (hewer : Link) (slot : Fin 128) (s : State) : ∃ t, execUcBr hewer slot s = .next t ∧ Touches
    [.regs, .free, .out, .glb, .peat, .ret, .map, .fen, .hew, .ucs, .seam, .mere, .nvq, .slu] s t := by
  refine ⟨_, rfl, ?_⟩
  repeat' (first | with_reducible exact Touches.refl _ _
                 | with_reducible apply Touches.trans ?_ (Touches.mono (begin_touch ..) (by decide))
                 | with_reducible apply Touches.trans ?_ (Touches.mono (putHeld_touch ..) (by decide))
                 | with_reducible apply Touches.trans ?_ (Touches.mono (drawn_touch ..) (by decide))
                 | with_reducible apply Touches.trans ?_ (Touches.mono (ucError_touch ..) (by decide))
                 | with_reducible apply Touches.trans ?_ (ucRun_touch (hp := by decide) (hf := ?_) ..) | (intro _) | (split))

theorem execUcCall_touch (hewer : Link) (slot : Fin 128) (s : State) : ∃ t, execUcCall hewer slot s = .next t ∧ Touches
    [.regs, .free, .out, .glb, .peat, .ret, .map, .fen, .hew, .ucs, .seam, .mere, .nvq, .slu] s t := by
  refine ⟨_, rfl, ?_⟩
  repeat' (first | with_reducible exact Touches.refl _ _
                 | with_reducible apply Touches.trans ?_ (Touches.mono (begin_touch ..) (by decide))
                 | with_reducible apply Touches.trans ?_ (Touches.mono (putHeld_touch ..) (by decide))
                 | with_reducible apply Touches.trans ?_ (ucRun_touch (hp := by decide) (hf := ?_) ..) | (intro _))

theorem execUcRet_touch (hewer : Link) (slot : Fin 128) (s : State) : ∃ t, execUcRet hewer slot s = .next t ∧ Touches
    [.regs, .free, .out, .glb, .peat, .ret, .map, .fen, .hew, .ucs, .seam, .mere, .nvq, .slu] s t := by
  refine ⟨_, rfl, ?_⟩
  repeat' (first | with_reducible exact Touches.refl _ _
                 | with_reducible apply Touches.trans ?_ (Touches.mono (begin_touch ..) (by decide))
                 | with_reducible apply Touches.trans ?_ (Touches.mono (putHeld_touch ..) (by decide))
                 | with_reducible apply Touches.trans ?_ (Touches.mono (drawn_touch ..) (by decide))
                 | with_reducible apply Touches.trans ?_ (ucRun_touch (hp := by decide) (hf := ?_) ..) | (intro _) | (split))

theorem execUcSend_touch (hewer : Link) (slot : Fin 128) (s : State) : ∃ t, execUcSend hewer slot s = .next t ∧ Touches
    [.regs, .free, .out, .glb, .peat, .ret, .map, .fen, .hew, .ucs, .seam, .mere, .nvq, .slu] s t := by
  refine ⟨_, rfl, ?_⟩
  repeat' (first | with_reducible exact Touches.refl _ _ | dsimp only | with_reducible apply Touches.ite ?_ ?_
                 | with_reducible apply Touches.trans ?_ (ucRun_touch (hp := by decide) (hf := ?_) ..)
                 | with_reducible apply Touches.trans ?_ (Touches.mono (hewNote_touch ..) (by decide))
                 | with_reducible apply Touches.trans ?_ (Touches.mono (sendPacket_touch ..) (by decide))
                 | with_reducible apply Touches.trans ?_ (Touches.mono (sendControl_touch ..) (by decide))
                 | with_reducible apply Touches.trans ?_ (Touches.mono (putHeld_touch ..) (by decide))
                 | with_reducible apply Touches.trans ?_ (Touches.mono (begin_touch ..) (by decide))
                 | simp only [touches_mk]; with_reducible refine Touches.made (h := ?_) | (intro _) | (split))

theorem execUcWaitc_touch (hewer : Link) (slot : Fin 128) (answer : Option (BitVec 8)) (s : State) : ∃ t, execUcWaitc
    hewer slot answer s = .next t ∧ Touches [.regs, .free, .out, .glb, .peat, .ret, .map, .fen, .hew, .ucs, .seam, .mere,
    .nvq, .slu] s t := by
  refine ⟨_, rfl, ?_⟩
  repeat' (first | with_reducible exact Touches.refl _ _
                 | with_reducible apply Touches.trans ?_ (Touches.mono (begin_touch ..) (by decide))
                 | with_reducible apply Touches.trans ?_ (Touches.mono (putHeld_touch ..) (by decide))
                 | with_reducible apply Touches.trans ?_ (ucRun_touch (hp := by decide) (hf := ?_) ..) | (intro _))

theorem execUcXfer_touch (hewer : Link) (slot : Fin 128) (s : State) : ∃ t, execUcXfer hewer slot s = .next t ∧ Touches
    [.regs, .free, .out, .glb, .peat, .ret, .map, .fen, .hew, .ucs, .seam, .mere, .nvq, .slu] s t := by
  refine ⟨_, rfl, ?_⟩
  repeat' (first | with_reducible exact Touches.refl _ _ | dsimp only | with_reducible apply Touches.ite ?_ ?_
                 | with_reducible apply Touches.trans ?_ (Touches.mono (begin_touch ..) (by decide))
                 | with_reducible apply Touches.trans ?_ (Touches.mono (putHeld_touch ..) (by decide))
                 | with_reducible apply Touches.trans ?_ (Touches.mono (sendProgData_touch ..) (by decide))
                 | with_reducible apply Touches.trans ?_ (ucRun_touch (hp := by decide) (hf := ?_) ..) | (intro _))

theorem execUcSuspt_touch (hewer : Link) (slot : Fin 128) (s : State) : ∃ t, execUcSuspt hewer slot s = .next t ∧
    Touches [.regs, .free, .out, .glb, .peat, .ret, .map, .fen, .hew, .ucs, .seam, .mere, .nvq, .slu] s t := by
  refine ⟨_, rfl, ?_⟩
  repeat' (first | with_reducible exact Touches.refl _ _
                 | with_reducible apply Touches.trans ?_ (Touches.mono (begin_touch ..) (by decide))
                 | with_reducible apply Touches.trans ?_ (Touches.mono (putHeld_touch ..) (by decide))
                 | with_reducible apply Touches.trans ?_ (Touches.mono (drawn_touch ..) (by decide))
                 | with_reducible apply Touches.trans ?_ (Touches.mono (ucError_touch ..) (by decide))
                 | with_reducible apply Touches.trans ?_ (ucRun_touch (hp := by decide) (hf := ?_) ..) | (intro _) | (split))

theorem execUcTimer_touch (hewer : Link) (slot : Fin 128) (s : State) : ∃ t, execUcTimer hewer slot s = .next t ∧
    Touches [.regs, .free, .out, .glb, .peat, .ret, .map, .fen, .hew, .ucs, .seam, .mere, .nvq, .slu] s t := by
  refine ⟨_, rfl, ?_⟩
  repeat' (first | with_reducible exact Touches.refl _ _
                 | with_reducible apply Touches.trans ?_ (Touches.mono (begin_touch ..) (by decide))
                 | with_reducible apply Touches.trans ?_ (Touches.mono (putHeld_touch ..) (by decide))
                 | with_reducible apply Touches.trans ?_ (ucRun_touch (hp := by decide) (hf := ?_) ..) | (intro _))

theorem execUcDone_touch (hewer : Link) (slot : Fin 128) (s : State) : ∃ t, execUcDone hewer slot s = .next t ∧ Touches
    [.regs, .free, .out, .glb, .peat, .ret, .map, .fen, .hew, .ucs, .seam, .mere, .nvq, .slu] s t := by
  refine ⟨_, rfl, ?_⟩
  repeat' (first | with_reducible exact Touches.refl _ _ | dsimp only
                 | with_reducible apply Touches.trans ?_ (Touches.mono (begin_touch ..) (by decide))
                 | with_reducible apply Touches.trans ?_ (Touches.mono (drawn_touch ..) (by decide))
                 | with_reducible apply Touches.trans ?_ (Touches.mono (hewComplete_touch ..) (by decide))
                 | with_reducible apply Touches.trans ?_ (ucRun_touch (hp := by decide) (hf := ?_) ..) | (intro _))

theorem execUcTrap_touch (hewer : Link) (slot : Fin 128) (s : State) : ∃ t, execUcTrap hewer slot s = .next t ∧ Touches
    [.regs, .free, .out, .glb, .peat, .ret, .map, .fen, .hew, .ucs, .seam, .mere, .nvq, .slu] s t := by
  refine ⟨_, rfl, ?_⟩
  repeat' (first | with_reducible exact Touches.refl _ _
                 | with_reducible apply Touches.trans ?_ (Touches.mono (begin_touch ..) (by decide))
                 | with_reducible apply Touches.trans ?_ (Touches.mono (ucError_touch ..) (by decide))
                 | with_reducible apply Touches.trans ?_ (ucRunIf_touch (hp := by decide) (hf := ?_) ..) | (intro _))

theorem execEpochPrepare_touch (kind : EpochKind) (checkOk : Bool) (s : State) : ∃ t, execEpochPrepare kind checkOk s = .next
    t ∧ Touches [.regs, .free, .out, .peat, .cfg, .ldpc, .ucs, .nvq, .sea] s t := by
  refine ⟨_, rfl, ?_⟩
  repeat' (first | with_reducible exact Touches.refl _ _
                 | with_reducible apply Touches.trans ?_ (Touches.mono (begin_touch ..) (by decide))
                 | with_reducible apply Touches.trans ?_ (Touches.mono (powerWaitBusy_touch ..) (by decide))
                 | with_reducible apply Touches.trans ?_ (Touches.mono (epochPrepare_touch ..) (by decide)))

theorem execEpochApplyAck_touch (unit : EpochUnit) (s : State) : ∃ t, execEpochApplyAck unit s = .next t ∧ Touches [.regs,
    .out, .ucs] s t := by
  refine ⟨_, rfl, ?_⟩
  repeat' (first | with_reducible exact Touches.refl _ _ | dsimp only | with_reducible apply Touches.ite ?_ ?_
                 | with_reducible apply Touches.trans ?_ (Touches.mono (wr_touch _ _ _ _) (by decide))
                 | with_reducible apply Touches.trans ?_ (Touches.mono (begin_touch ..) (by decide))
                 | with_reducible apply Touches.trans ?_ (Touches.mono (epochNote_touch ..) (by decide))
                 | simp only [touches_mk]; with_reducible refine Touches.made (h := ?_) | (split))

theorem execEpochCommit_touch (s : State) : ∃ t, execEpochCommit s = .next t ∧ Touches [.regs, .free, .out, .peat, .ldpc,
    .ucs, .sea] s t := by
  refine ⟨_, rfl, ?_⟩
  repeat' (first | with_reducible exact Touches.refl _ _ | dsimp only | with_reducible apply Touches.ite ?_ ?_
                 | with_reducible apply Touches.trans ?_ (Touches.mono (wr_touch _ _ _ _) (by decide))
                 | with_reducible apply Touches.trans ?_ (Touches.mono (wrB_touch _ _ _ _) (by decide))
                 | with_reducible apply Touches.trans ?_ (Touches.mono (begin_touch ..) (by decide))
                 | with_reducible apply Touches.trans ?_ (Touches.mono (peatRecord_touch ..) (by decide))
                 | with_reducible apply Touches.trans ?_ (Touches.mono (epochWaiting_touch ..) (by decide))
                 | simp only [touches_mk]; with_reducible refine Touches.made (h := ?_) | (split))

theorem execLotReapplyStart_touch (path : AccessPath) (s : State) : ∃ t, execLotReapplyStart path s = .next t ∧ Touches
    [.regs, .free, .out, .peat, .cfg, .nvq, .pwr] s t := by
  refine ⟨_, rfl, ?_⟩
  repeat' (first | with_reducible exact Touches.refl _ _
                 | with_reducible apply Touches.trans ?_ (Touches.mono (begin_touch ..) (by decide))
                 | with_reducible apply Touches.trans ?_ (Touches.mono (lotStart_touch ..) (by decide)))

theorem execLotCommit_touch (s : State) : ∃ t, execLotCommit s = .next t ∧ Touches [.regs, .free, .out, .peat, .cfg, .ucs,
    .nvq, .slu, .hif, .cus, .boot] s t := by
  refine ⟨_, rfl, ?_⟩
  repeat' (first | with_reducible exact Touches.refl _ _ | with_reducible apply Touches.ite ?_ ?_
                 | with_reducible apply Touches.trans ?_ (Touches.mono (begin_touch ..) (by decide))
                 | with_reducible apply Touches.trans ?_ (Touches.mono (lotCommit_touch ..) (by decide)) | (split))

theorem execPowerReapplyTimeout_touch (s : State) : ∃ t, execPowerReapplyTimeout s = .next t ∧ Touches [.regs, .free, .out,
    .peat, .cfg, .nvq] s t := by
  refine ⟨_, rfl, ?_⟩
  repeat' (first | with_reducible exact Touches.refl _ _ | with_reducible apply Touches.ite ?_ ?_
                 | with_reducible apply Touches.trans ?_ (Touches.mono (begin_touch ..) (by decide))
                 | with_reducible apply Touches.trans ?_ (Touches.mono (lotRefuse_touch ..) (by decide)))

theorem execExpertKeyWrite_touch (path : AccessPath) (word : Word) (s : State) : ∃ t, execExpertKeyWrite path word s =
    .next t ∧ Touches [.regs, .free, .out, .peat, .cfg] s t := by
  refine ⟨_, rfl, ?_⟩
  repeat' (first | with_reducible exact Touches.refl _ _ | dsimp only | with_reducible apply Touches.ite ?_ ?_
                 | with_reducible apply Touches.trans ?_ (Touches.mono (begin_touch ..) (by decide))
                 | with_reducible apply Touches.trans ?_ (Touches.mono (accessViolation_touch ..) (by decide))
                 | with_reducible apply Touches.trans ?_ (Touches.mono (expertKeyWrite_touch ..) (by decide))
                 | simp only [touches_mk]; with_reducible refine Touches.made (h := ?_) | (intro _) | (split))

theorem execExpertNonceTimer_touch (path : AccessPath) (s : State) : ∃ t, execExpertNonceTimer path s = .next t ∧ Touches
    [.free, .out, .cfg] s t := by
  refine ⟨_, rfl, ?_⟩
  repeat' (first | with_reducible exact Touches.refl _ _
                 | with_reducible apply Touches.trans ?_ (Touches.mono (begin_touch ..) (by decide))
                 | with_reducible apply Touches.trans ?_ (Touches.mono (renewNonce_touch ..) (by decide)) | (split))

theorem execExpertIdleTimeout_touch (path : AccessPath) (s : State) : ∃ t, execExpertIdleTimeout path s = .next t ∧ Touches
    [.out, .cfg] s t := by
  refine ⟨_, rfl, ?_⟩
  repeat' (first | with_reducible exact Touches.refl _ _
                 | with_reducible apply Touches.trans ?_ (Touches.mono (begin_touch ..) (by decide))
                 | with_reducible apply Touches.trans ?_ (Touches.mono (closeExpert_touch ..) (by decide)) | (split))

theorem execExpertLockoutEnd_touch (path : AccessPath) (s : State) : ∃ t, execExpertLockoutEnd path s = .next t ∧ Touches
    [.out, .cfg] s t := by
  refine ⟨_, rfl, ?_⟩
  repeat' (first | with_reducible exact Touches.refl _ _ | dsimp only
                 | with_reducible apply Touches.trans ?_ (Touches.mono (begin_touch ..) (by decide))
                 | with_reducible apply Touches.trans ?_ (Touches.mono (putExpert_touch ..) (by decide)) | (split))

theorem execExpertClose_touch (path : AccessPath) (s : State) : ∃ t, execExpertClose path s = .next t ∧ Touches [.out, .cfg]
    s t := by
  refine ⟨_, rfl, ?_⟩
  repeat' (first | with_reducible exact Touches.refl _ _
                 | with_reducible apply Touches.trans ?_ (Touches.mono (begin_touch ..) (by decide))
                 | with_reducible apply Touches.trans ?_ (Touches.mono (closeExpert_touch ..) (by decide)) | (split))

theorem execPfailInputFall_touch (input : PfInput) (gapUs : Nat) (s : State) : ∃ t, execPfailInputFall input gapUs s = .next
    t ∧ Touches [.regs, .free, .out, .peat, .pwr] s t := by
  refine ⟨_, rfl, ?_⟩
  repeat' (first | with_reducible exact Touches.refl _ _ | dsimp only | with_reducible apply Touches.ite ?_ ?_
                 | with_reducible apply Touches.trans ?_ (Touches.mono (wr_touch _ _ _ _) (by decide))
                 | with_reducible apply Touches.trans ?_ (Touches.mono (begin_touch ..) (by decide))
                 | with_reducible apply Touches.trans ?_ (Touches.mono (setPf_touch ..) (by decide))
                 | with_reducible apply Touches.trans ?_ (Touches.mono (pfDisagree_touch ..) (by decide))
                 | simp only [touches_mk]; with_reducible refine Touches.made (h := ?_))

theorem execPfailAgreeTimeout_touch (s : State) : ∃ t, execPfailAgreeTimeout s = .next t ∧ Touches [.regs, .out, .pwr] s t := by
  refine ⟨_, rfl, ?_⟩
  repeat' (first | with_reducible exact Touches.refl _ _ | dsimp only | with_reducible apply Touches.ite ?_ ?_
                 | with_reducible apply Touches.trans ?_ (Touches.mono (wr_touch _ _ _ _) (by decide))
                 | with_reducible apply Touches.trans ?_ (Touches.mono (begin_touch ..) (by decide))
                 | simp only [touches_mk]; with_reducible refine Touches.made (h := ?_))

theorem execPfailInputRise_touch (input : PfInput) (s : State) : ∃ t, execPfailInputRise input s = .next t ∧ Touches [.regs,
    .out, .pwr] s t := by
  refine ⟨_, rfl, ?_⟩
  repeat' (first | with_reducible exact Touches.refl _ _ | dsimp only | with_reducible apply Touches.ite ?_ ?_
                 | with_reducible apply Touches.trans ?_ (Touches.mono (wr_touch _ _ _ _) (by decide))
                 | with_reducible apply Touches.trans ?_ (Touches.mono (count_touch _ _ _ _) (by decide))
                 | with_reducible apply Touches.trans ?_ (Touches.mono (begin_touch ..) (by decide))
                 | with_reducible apply Touches.trans ?_ (Touches.mono (setPf_touch ..) (by decide))
                 | simp only [touches_mk]; with_reducible refine Touches.made (h := ?_))

theorem execPowerFailDecision_touch (input : PfInput) (both : Bool) (s : State) : ∃ t, execPowerFailDecision input both
    s = .next t ∧ Touches [.regs, .free, .out, .glb, .peat, .cfg, .ret, .map, .fen, .hew, .ucs, .seam, .mere, .nvq, .slu,
    .hif, .dma, .pwr, .cus, .boot] s t := by
  refine ⟨_, rfl, ?_⟩
  repeat' (first | with_reducible exact Touches.refl _ _ | dsimp only | with_reducible apply Touches.ite ?_ ?_
                 | with_reducible apply Touches.trans ?_ (Touches.mono (wr_touch _ _ _ _) (by decide))
                 | with_reducible apply Touches.trans ?_ (Touches.mono (begin_touch ..) (by decide))
                 | with_reducible apply Touches.trans ?_ (Touches.mono (peatRecord_touch ..) (by decide))
                 | with_reducible apply Touches.trans ?_ (Touches.mono (pfStop_touch ..) (by decide))
                 | simp only [touches_mk]; with_reducible refine Touches.made (h := ?_))

theorem execFlushEnd_touch (us : Nat) (s : State) : ∃ t, execFlushEnd us s = .next t ∧ Touches [.regs, .free, .out,
    .glb, .peat, .life, .ret, .map, .fen, .hew, .seam, .mere, .nvq, .slu, .pwr] s t := by
  refine ⟨_, rfl, ?_⟩
  repeat' (first | with_reducible exact Touches.refl _ _ | dsimp only | with_reducible apply Touches.ite ?_ ?_
                 | with_reducible apply Touches.trans ?_ (Touches.mono (begin_touch ..) (by decide))
                 | with_reducible apply Touches.trans ?_ (Touches.mono (flushDone_touch ..) (by decide))
                 | with_reducible apply Touches.trans ?_ (Touches.mono (flushData_touch ..) (by decide))
                 | with_reducible apply Touches.trans ?_ (Touches.mono (peatArchiveAll_touch ..) (by decide))
                 | with_reducible apply Touches.trans ?_ (Touches.mono (flushRecords_touch ..) (by decide))
                 | simp only [touches_mk]; with_reducible refine Touches.made (h := ?_) | (intro _) | (split))

theorem execFlushLimitExpiry_touch (units : Nat) (records : Bool) (s : State) : ∃ t, execFlushLimitExpiry units records
    s = .next t ∧ Touches [.regs, .free, .out, .glb, .peat, .life, .ret, .map, .fen, .hew, .seam, .mere, .nvq, .slu, .pwr] s
    t := by
  refine ⟨_, rfl, ?_⟩
  repeat' (first | with_reducible exact Touches.refl _ _ | dsimp only | with_reducible apply Touches.ite ?_ ?_
                 | with_reducible apply Touches.trans ?_ (Touches.mono (begin_touch ..) (by decide))
                 | with_reducible apply Touches.trans ?_ (Touches.mono (peatArchiveAll_touch ..) (by decide))
                 | with_reducible apply Touches.trans ?_ (Touches.mono (flushRecords_touch ..) (by decide))
                 | with_reducible apply Touches.trans ?_ (Touches.mono (flushDone_touch ..) (by decide))
                 | with_reducible apply Touches.trans ?_ (Touches.mono (flushData_touch ..) (by decide))
                 | simp only [touches_mk]; with_reducible refine Touches.made (h := ?_) | (intro _) | (split))

theorem execPfailRestartTimer_touch (s : State) : ∃ t, execPfailRestartTimer s = .next t ∧ Touches [.regs, .free, .out, .glb,
    .peat, .cfg, .life, .ret, .map, .fen, .ldpc, .hew, .ucs, .seam, .mere, .nvq, .slu, .hif, .fab, .cwy, .cip, .dma, .mbx,
    .pwr, .sea, .upd, .cus, .clk, .boot, .tmon] s t := by
  refine ⟨_, rfl, Touches.trans ((begin_touch _).mono (by decide)) ?_⟩
  split
  · exact (powerOnReset_touch ..).mono (by decide)
  · exact Touches.refl _ _

theorem execHoldupTestDue_touch (s : State) : ∃ t, execHoldupTestDue s = .next t ∧ Touches [.regs, .out, .pwr] s t := by
  refine ⟨_, rfl, ?_⟩
  repeat' (first | with_reducible exact Touches.refl _ _ | with_reducible apply Touches.ite ?_ ?_
                 | with_reducible apply Touches.trans ?_ (Touches.mono (begin_touch ..) (by decide))
                 | with_reducible apply Touches.trans ?_ (Touches.mono (htAsk_touch ..) (by decide)))

theorem execHtArm_touch (_path : AccessPath) (s : State) : ∃ t, execHtArm _path s = .next t ∧ Touches [.regs, .out, .pwr] s t
    := by
  refine ⟨_, rfl, ?_⟩
  repeat' (first | with_reducible exact Touches.refl _ _
                 | with_reducible apply Touches.trans ?_ (Touches.mono (begin_touch ..) (by decide))
                 | with_reducible apply Touches.trans ?_ (Touches.mono (htArm_touch ..) (by decide)))

theorem execHtCancel_touch (_path : AccessPath) (s : State) : ∃ t, execHtCancel _path s = .next t ∧ Touches [.regs, .free,
    .out, .peat, .cfg, .ucs, .nvq, .slu, .hif, .cus, .boot] s t := by
  refine ⟨_, rfl, ?_⟩
  repeat' (first | with_reducible exact Touches.refl _ _
                 | with_reducible apply Touches.trans ?_ (Touches.mono (begin_touch ..) (by decide))
                 | with_reducible apply Touches.trans ?_ (Touches.mono (htCancel_touch ..) (by decide)))

theorem execHtReady_touch (s : State) : ∃ t, execHtReady s = .next t ∧ Touches [.regs, .free, .out, .peat, .map, .mere,
    .nvq] s t := by
  refine ⟨_, rfl, ?_⟩
  repeat' (first | with_reducible exact Touches.refl _ _ | dsimp only | with_reducible apply Touches.ite ?_ ?_
                 | with_reducible apply Touches.trans ?_ (Touches.mono (begin_touch ..) (by decide))
                 | with_reducible apply Touches.trans ?_ (Touches.mono (peatArchiveAll_touch ..) (by decide))
                 | with_reducible apply Touches.trans ?_ (Touches.mono (makeDurable_touch ..) (by decide))
                 | with_reducible apply Touches.trans ?_ (Touches.mono (wr_touch _ _ _ _) (by decide))
                 | simp only [touches_mk]; with_reducible refine Touches.made (h := ?_) | (intro _) | (split))

theorem execHtRideStart_touch (input : PfInput) (s : State) : ∃ t, execHtRideStart input s = .next t ∧ Touches [.regs, .out,
    .pwr] s t := by
  refine ⟨_, rfl, ?_⟩
  repeat' (first | with_reducible exact Touches.refl _ _ | dsimp only | with_reducible apply Touches.ite ?_ ?_
                 | with_reducible apply Touches.trans ?_ (Touches.mono (wr_touch _ _ _ _) (by decide))
                 | with_reducible apply Touches.trans ?_ (Touches.mono (begin_touch ..) (by decide))
                 | with_reducible apply Touches.trans ?_ (Touches.mono (setPf_touch ..) (by decide))
                 | simp only [touches_mk]; with_reducible refine Touches.made (h := ?_))

theorem execHtRideMark_touch (s : State) : ∃ t, execHtRideMark s = .next t ∧ Touches [.out, .pwr] s t := by
  refine ⟨_, rfl, ?_⟩
  repeat' (first | with_reducible exact Touches.refl _ _ | dsimp only | with_reducible apply Touches.ite ?_ ?_
                 | with_reducible apply Touches.trans ?_ (Touches.mono (begin_touch ..) (by decide))
                 | simp only [touches_mk]; with_reducible refine Touches.made (h := ?_))

theorem execHtRidePass_touch (energyMj : Nat) (s : State) : ∃ t, execHtRidePass energyMj s = .next t ∧ Touches [.regs, .free,
    .out, .peat, .cfg, .ucs, .nvq, .slu, .hif, .pwr, .cus, .boot] s t := by
  refine ⟨_, rfl, ?_⟩
  repeat' (first | with_reducible exact Touches.refl _ _ | dsimp only | with_reducible apply Touches.ite ?_ ?_
                 | with_reducible apply Touches.trans ?_ (Touches.mono (wr_touch _ _ _ _) (by decide))
                 | with_reducible apply Touches.trans ?_ (Touches.mono (begin_touch ..) (by decide))
                 | with_reducible apply Touches.trans ?_ (Touches.mono (peatRecord_touch ..) (by decide))
                 | with_reducible apply Touches.trans ?_ (Touches.mono (powerWaitEnds_touch ..) (by decide))
                 | simp only [touches_mk]; with_reducible refine Touches.made (h := ?_))

theorem execHtInputsRise_touch (s : State) : ∃ t, execHtInputsRise s = .next t ∧ Touches [.regs, .free, .out, .peat, .cfg,
    .ucs, .nvq, .slu, .hif, .pwr, .cus, .boot] s t := by
  refine ⟨_, rfl, ?_⟩
  repeat' (first | with_reducible exact Touches.refl _ _ | dsimp only | with_reducible apply Touches.ite ?_ ?_
                 | with_reducible apply Touches.trans ?_ (Touches.mono (wr_touch _ _ _ _) (by decide))
                 | with_reducible apply Touches.trans ?_ (Touches.mono (begin_touch ..) (by decide))
                 | with_reducible apply Touches.trans ?_ (Touches.mono (htEnd_touch ..) (by decide))
                 | simp only [touches_mk]; with_reducible refine Touches.made (h := ?_))

theorem execHtReadyTimeout_touch (s : State) : ∃ t, execHtReadyTimeout s = .next t ∧ Touches [.regs, .free, .out, .peat,
    .cfg, .ucs, .nvq, .slu, .hif, .cus, .boot] s t := by
  refine ⟨_, rfl, ?_⟩
  repeat' (first | with_reducible exact Touches.refl _ _ | with_reducible apply Touches.ite ?_ ?_
                 | with_reducible apply Touches.trans ?_ (Touches.mono (begin_touch ..) (by decide))
                 | with_reducible apply Touches.trans ?_ (Touches.mono (htEnd_touch ..) (by decide)))

theorem execHtOverdue_touch (s : State) : ∃ t, execHtOverdue s = .next t ∧ Touches [.regs, .out, .nvq] s t := by
  refine ⟨_, rfl, ?_⟩
  repeat' (first | with_reducible exact Touches.refl _ _ | with_reducible apply Touches.ite ?_ ?_
                 | with_reducible apply Touches.trans ?_ (Touches.mono (wr_touch _ _ _ _) (by decide))
                 | with_reducible apply Touches.trans ?_ (Touches.mono (begin_touch ..) (by decide))
                 | with_reducible apply Touches.trans ?_ (Touches.mono (vendorNotice_touch ..) (by decide)))

theorem execSealSample_touch (a b : Bool) (s : State) : ∃ t, execSealSample a b s = .next t ∧ Touches [.regs, .free, .out,
    .peat, .cfg, .ldpc, .ucs, .nvq, .sea] s t := by
  refine ⟨_, rfl, ?_⟩
  repeat' (first | with_reducible exact Touches.refl _ _ | with_reducible apply Touches.ite ?_ ?_
                 | with_reducible apply Touches.trans ?_ (Touches.mono (begin_touch ..) (by decide))
                 | with_reducible apply Touches.trans ?_ (Touches.mono (sealSample_touch ..) (by decide)))

theorem execSealClear_touch (path : AccessPath) (s : State) : ∃ t, execSealClear path s = .next t ∧ Touches [.regs, .free,
    .out, .peat, .cfg, .ldpc, .ucs, .nvq, .sea] s t := by
  refine ⟨_, rfl, ?_⟩
  repeat' (first | with_reducible exact Touches.refl _ _
                 | with_reducible apply Touches.trans ?_ (Touches.mono (begin_touch ..) (by decide))
                 | with_reducible apply Touches.trans ?_ (Touches.mono (sealClear_touch ..) (by decide)))

theorem execSealSoft_touch (path : AccessPath) (engage : Bool) (s : State) : ∃ t, execSealSoft path engage s = .next t ∧
    Touches [.regs, .free, .out, .peat, .cfg, .ldpc, .ucs, .nvq, .sea] s t := by
  refine ⟨_, rfl, ?_⟩
  repeat' (first | with_reducible exact Touches.refl _ _
                 | with_reducible apply Touches.trans ?_ (Touches.mono (begin_touch ..) (by decide))
                 | with_reducible apply Touches.trans ?_ (Touches.mono (sealSoft_touch ..) (by decide)))

theorem execMailboxPush_touch (path : AccessPath) (chan : Fin 256) (word : Word) (s : State) : ∃ t, execMailboxPush path chan
    word s = .next t ∧ Touches [.regs, .free, .out, .peat, .nvq, .mbx] s t := by
  refine ⟨_, rfl, ?_⟩
  repeat' (first | with_reducible exact Touches.refl _ _
                 | with_reducible apply Touches.trans ?_ (Touches.mono (begin_touch ..) (by decide))
                 | with_reducible apply Touches.trans ?_ (Touches.mono (mbxPush_touch ..) (by decide)))

theorem execMailboxPop_touch (path : AccessPath) (chan : Fin 256) (s : State) : ∃ t, execMailboxPop path chan s = .next t ∧
    Touches [.readData, .out, .mbx] s t := by
  refine ⟨_, rfl, ?_⟩
  repeat' (first | with_reducible exact Touches.refl _ _
                 | with_reducible apply Touches.trans ?_ (Touches.mono (begin_touch ..) (by decide))
                 | with_reducible apply Touches.trans ?_ (Touches.mono (mbxPop_touch ..) (by decide)))

theorem execPairCheckerMismatch_touch (pair : Fin 12) (s : State) : ∃ t, execPairCheckerMismatch pair s = .next t ∧ Touches
    [.regs, .free, .out, .glb, .peat, .ret, .nvq, .mbx, .upd, .cus] s t := by
  refine ⟨_, rfl, ?_⟩
  repeat' (first | with_reducible exact Touches.refl _ _
                 | with_reducible apply Touches.trans ?_ (Touches.mono (begin_touch ..) (by decide))
                 | with_reducible apply Touches.trans ?_ (Touches.mono (losePair_touch ..) (by decide)))

theorem execPairWatchdogTimeout_touch (pair : Fin 12) (s : State) : ∃ t, execPairWatchdogTimeout pair s = .next t ∧ Touches
    [.regs, .free, .out, .glb, .peat, .ret, .nvq, .mbx, .upd, .cus] s t := by
  refine ⟨_, rfl, ?_⟩
  repeat' (first | with_reducible exact Touches.refl _ _
                 | with_reducible apply Touches.trans ?_ (Touches.mono (begin_touch ..) (by decide))
                 | with_reducible apply Touches.trans ?_ (Touches.mono (losePair_touch ..) (by decide)))

theorem execPairMemoryError_touch (pair : Fin 12) (s : State) : ∃ t, execPairMemoryError pair s = .next t ∧ Touches [.regs,
    .free, .out, .glb, .peat, .ret, .nvq, .mbx, .upd, .cus] s t := by
  refine ⟨_, rfl, ?_⟩
  repeat' (first | with_reducible exact Touches.refl _ _
                 | with_reducible apply Touches.trans ?_ (Touches.mono (begin_touch ..) (by decide))
                 | with_reducible apply Touches.trans ?_ (Touches.mono (losePair_touch ..) (by decide)))

theorem execPairTakeover_touch (lost : Fin 12) (s : State) : ∃ t, execPairTakeover lost s = .next t ∧ Touches [.regs, .free,
    .out, .glb, .peat, .mbx] s t := by
  refine ⟨_, rfl, ?_⟩
  repeat' (first | with_reducible exact Touches.refl _ _ | dsimp only | with_reducible apply Touches.ite ?_ ?_
                 | with_reducible apply Touches.trans ?_ (Touches.mono (wr_touch _ _ _ _) (by decide))
                 | with_reducible apply Touches.trans ?_ (Touches.mono (begin_touch ..) (by decide))
                 | with_reducible apply Touches.trans ?_ (Touches.mono (faultRestored_touch ..) (by decide))
                 | with_reducible apply Touches.trans ?_ (Touches.mono (takeIdentity_touch ..) (by decide))
                 | simp only [touches_mk]; with_reducible refine Touches.made (h := ?_)
                 | with_reducible apply Touches.trans ?_ (eachOf_touch _ _ _ ?_) | (intro _))

theorem execPairTestInject_touch (path : AccessPath) (pair : Fin 16) (s : State) : ∃ t, execPairTestInject path pair s =
    .next t ∧ Touches [.regs, .free, .out, .glb, .peat, .ret, .nvq, .mbx, .upd, .cus] s t := by
  refine ⟨_, rfl, ?_⟩
  repeat' (first | with_reducible exact Touches.refl _ _ | dsimp only | with_reducible apply Touches.ite ?_ ?_
                 | with_reducible apply Touches.trans ?_ (Touches.mono (wr_touch _ _ _ _) (by decide))
                 | with_reducible apply Touches.trans ?_ (Touches.mono (begin_touch ..) (by decide))
                 | with_reducible apply Touches.trans ?_ (Touches.mono (accessViolation_touch ..) (by decide))
                 | with_reducible apply Touches.trans ?_ (Touches.mono (losePair_touch ..) (by decide)))

theorem execPairWake_touch (pair : Fin 12) (s : State) : ∃ t, execPairWake pair s = .next t ∧ Touches [.regs, .out, .mbx] s t
    := by
  refine ⟨_, rfl, ?_⟩
  repeat' (first | with_reducible exact Touches.refl _ _ | dsimp only | with_reducible apply Touches.ite ?_ ?_
                 | with_reducible apply Touches.trans ?_ (Touches.mono (wr_touch _ _ _ _) (by decide))
                 | with_reducible apply Touches.trans ?_ (Touches.mono (begin_touch ..) (by decide))
                 | simp only [touches_mk]; with_reducible refine Touches.made (h := ?_))

theorem execMereRead_touch (requester : BitVec 8) (addr : MereAddr) (mirror : Option MereAddr) (len : Nat)
    (flips : List (Nat × Nat)) (s : State) : ∃ t, execMereRead requester addr mirror len flips s = .next t ∧ Touches
        [.regs, .free, .out, .glb, .peat, .ret, .map, .mere, .nvq] s t := by
  refine ⟨_, rfl, ?_⟩
  repeat' (first | with_reducible exact Touches.refl _ _ | dsimp only | with_reducible apply Touches.ite ?_ ?_
                 | with_reducible apply Touches.trans ?_ (Touches.mono (mereReadOp_touch ..) (by decide))
                 | with_reducible apply Touches.trans ?_ (Touches.mono (upsets_touch ..) (by decide))
                 | with_reducible apply Touches.trans ?_ (Touches.mono (begin_touch ..) (by decide))
                 | simp only [touches_mk]; with_reducible refine Touches.made (h := ?_) | (intro _) | (split))

theorem execMereWrite_touch (requester : BitVec 8) (addr : MereAddr) (mirror : Option MereAddr) (len data : Nat)
    (flips : List (Nat × Nat)) (s : State) : ∃ t, execMereWrite requester addr mirror len data flips s = .next t ∧
        Touches [.regs, .free, .out, .glb, .peat, .ret, .map, .mere, .nvq] s t := by
  refine ⟨_, rfl, ?_⟩
  repeat' (first | with_reducible exact Touches.refl _ _ | dsimp only | with_reducible apply Touches.ite ?_ ?_
                 | with_reducible apply Touches.trans ?_ (Touches.mono (mereWriteOp_touch ..) (by decide))
                 | with_reducible apply Touches.trans ?_ (Touches.mono (upsets_touch ..) (by decide))
                 | with_reducible apply Touches.trans ?_ (Touches.mono (begin_touch ..) (by decide))
                 | simp only [touches_mk]; with_reducible refine Touches.made (h := ?_) | (intro _) | (split))

theorem execScrubStep_touch (place : ScrubPlace) (flips : Nat) (s : State) : ∃ t, execScrubStep place flips s = .next t
    ∧ Touches [.regs, .free, .out, .glb, .peat, .ret, .map, .ucs, .mere, .nvq] s t := by
  refine ⟨_, rfl, ?_⟩
  repeat' (first | with_reducible exact Touches.refl _ _ | dsimp only | with_reducible apply Touches.ite ?_ ?_
                 | with_reducible apply Touches.trans ?_ (Touches.mono (flipBits_touch ..) (by decide))
                 | with_reducible apply Touches.trans ?_ (Touches.mono (begin_touch ..) (by decide))
                 | with_reducible apply Touches.trans ?_ (Touches.mono (lapStep_touch ..) (by decide))
                 | with_reducible apply Touches.trans ?_ (Touches.mono (scrubWord_touch ..) (by decide))
                 | with_reducible apply Touches.trans ?_ (Touches.mono (scrubOnDie_touch ..) (by decide))
                 | simp only [touches_mk]; with_reducible refine Touches.made (h := ?_) | (intro _) | (split))

theorem execBucketLeak_touch (s : State) : ∃ t, execBucketLeak s = .next t ∧ Touches [.regs, .out, .mere] s t := by
  refine ⟨_, rfl, ?_⟩
  repeat' (first | with_reducible exact Touches.refl _ _
                 | with_reducible apply Touches.trans ?_ (Touches.mono (begin_touch ..) (by decide))
                 | with_reducible apply Touches.trans ?_ (Touches.mono (leakAll_touch ..) (by decide)))

theorem execStackFence_touch (stack cause : Fin 8) (s : State) : ∃ t, execStackFence stack cause s = .next t ∧ Touches
    [.regs, .free, .out, .glb, .peat, .ret, .map, .mere, .nvq] s t := by
  refine ⟨_, rfl, ?_⟩
  repeat' (first | with_reducible exact Touches.refl _ _
                 | with_reducible apply Touches.trans ?_ (Touches.mono (begin_touch ..) (by decide))
                 | with_reducible apply Touches.trans ?_ (Touches.mono (fenceStack_touch ..) (by decide)))

theorem execMereFenceWrite_touch (path : AccessPath) (mask : Word) (s : State) : ∃ t, execMereFenceWrite path mask s = .next
    t ∧ Touches [.regs, .free, .out, .glb, .peat, .ret, .map, .mere, .nvq] s t := by
  refine ⟨_, rfl, ?_⟩
  repeat' (first | with_reducible exact Touches.refl _ _ | with_reducible apply Touches.ite ?_ ?_
                 | with_reducible apply Touches.trans ?_ (Touches.mono (begin_touch ..) (by decide))
                 | with_reducible apply Touches.trans ?_ (Touches.mono (fenceStack_touch ..) (by decide))
                 | with_reducible apply Touches.trans ?_ (eachOf_touch _ _ _ ?_) | (intro _))

theorem execRemirrorDone_touch (stack : Fin 8) (s : State) : ∃ t, execRemirrorDone stack s = .next t ∧ Touches [.regs,
    .free, .out, .glb, .peat, .map, .mere] s t := by
  refine ⟨_, rfl, ?_⟩
  repeat' (first | with_reducible exact Touches.refl _ _ | dsimp only | with_reducible apply Touches.ite ?_ ?_
                 | with_reducible apply Touches.trans ?_ (Touches.mono (begin_touch ..) (by decide))
                 | with_reducible apply Touches.trans ?_ (Touches.mono (remirrorPieces_touch ..) (by decide))
                 | with_reducible apply Touches.trans ?_ (Touches.mono (remirrorDirty_touch ..) (by decide))
                 | with_reducible apply Touches.trans ?_ (Touches.mono (faultRestored_touch ..) (by decide))
                 | simp only [touches_mk]; with_reducible refine Touches.made (h := ?_) | (intro _) | (split))

theorem execScrubEnableTimeout_touch (s : State) : ∃ t, execScrubEnableTimeout s = .next t ∧ Touches [.regs, .out] s t := by
  refine ⟨_, rfl, ?_⟩
  repeat' (first | with_reducible exact Touches.refl _ _
                 | with_reducible apply Touches.trans ?_ (Touches.mono (wr_touch _ _ _ _) (by decide))
                 | with_reducible apply Touches.trans ?_ (Touches.mono (begin_touch ..) (by decide)))

theorem execOvf24hAgeOut_touch (stack : Fin 8) (s : State) : ∃ t, execOvf24hAgeOut stack s = .next t ∧ Touches [.regs, .out]
    s t := by
  refine ⟨_, rfl, ?_⟩
  repeat' (first | with_reducible exact Touches.refl _ _
                 | with_reducible apply Touches.trans ?_ (Touches.mono (wr_touch _ _ _ _) (by decide))
                 | with_reducible apply Touches.trans ?_ (Touches.mono (begin_touch ..) (by decide)))

theorem execEthPortUp_touch (lp : LPort) (s : State) : ∃ t, execEthPortUp lp s = .next t ∧ Touches [.regs, .free, .out, .glb,
    .peat, .nvq] s t := by
  refine ⟨_, rfl, ?_⟩
  repeat' (first | with_reducible exact Touches.refl _ _ | dsimp only | with_reducible apply Touches.ite ?_ ?_
                 | with_reducible apply Touches.trans ?_ (Touches.mono (wr_touch _ _ _ _) (by decide))
                 | with_reducible apply Touches.trans ?_ (Touches.mono (begin_touch ..) (by decide))
                 | with_reducible apply Touches.trans ?_ (Touches.mono (glbRefresh_touch ..) (by decide))
                 | with_reducible apply Touches.trans ?_ (Touches.mono (faultRestored_touch ..) (by decide))
                 | with_reducible apply Touches.trans ?_ (Touches.mono (portChange_touch ..) (by decide)))

theorem execEthPortDown_touch (lp : LPort) (s : State) : ∃ t, execEthPortDown lp s = .next t ∧ Touches [.regs, .free, .out,
    .glb, .peat, .ret, .nvq] s t := by
  refine ⟨_, rfl, ?_⟩
  repeat' (first | with_reducible exact Touches.refl _ _
                 | with_reducible apply Touches.trans ?_ (Touches.mono (begin_touch ..) (by decide))
                 | with_reducible apply Touches.trans ?_ (Touches.mono (ethPortDown_touch ..) (by decide)))

theorem execLinkHoldExpiry_touch (lp : LPort) (s : State) : ∃ t, execLinkHoldExpiry lp s = .next t ∧ Touches [.regs, .free,
    .out, .glb, .peat, .ret, .map, .mere, .nvq, .slu, .fab, .dma] s t := by
  refine ⟨_, rfl, ?_⟩
  repeat' (first | with_reducible exact Touches.refl _ _ | with_reducible apply Touches.ite ?_ ?_
                 | with_reducible apply Touches.trans ?_ (Touches.mono (wr_touch _ _ _ _) (by decide))
                 | with_reducible apply Touches.trans ?_ (Touches.mono (begin_touch ..) (by decide))
                 | with_reducible apply Touches.trans ?_ (Touches.mono (assocEndWhere_touch ..) (by decide)))

theorem execEthernetFrameReceive_touch (lp : LPort) (frame : EthFrame) (s : State) : ∃ t, execEthernetFrameReceive lp frame s
    = .next t ∧ Touches [.regs, .free, .out, .peat, .fab] s t := by
  refine ⟨_, rfl, ?_⟩
  repeat' (first | with_reducible exact Touches.refl _ _ | dsimp only | with_reducible apply Touches.ite ?_ ?_
                 | with_reducible apply Touches.trans ?_ (Touches.mono (count_touch _ _ _ _) (by decide))
                 | with_reducible apply Touches.trans ?_ (Touches.mono (begin_touch ..) (by decide))
                 | with_reducible apply Touches.trans ?_ (Touches.mono (peatRecord_touch ..) (by decide))
                 | with_reducible apply Touches.trans ?_ (Touches.mono (pfcNote_touch ..) (by decide)) | (split))

theorem execArpRequest_touch (lp : LPort) (addr : Nat) (s : State) : ∃ t, execArpRequest lp addr s = .next t ∧ Touches [.out]
    s t := by
  refine ⟨_, rfl, ?_⟩
  repeat' (first | with_reducible exact Touches.refl _ _ | with_reducible apply Touches.ite ?_ ?_
                 | with_reducible apply Touches.trans ?_ (Touches.mono (begin_touch ..) (by decide))
                 | with_reducible apply Touches.trans ?_ (Touches.mono (emit_touch ..) (by decide)))

theorem execNeighborDiscovery_touch (lp : LPort) (addr : Nat) (s : State) : ∃ t, execNeighborDiscovery lp addr s = .next t ∧
    Touches [.out] s t := by
  refine ⟨_, rfl, ?_⟩
  repeat' (first | with_reducible exact Touches.refl _ _ | with_reducible apply Touches.ite ?_ ?_
                 | with_reducible apply Touches.trans ?_ (Touches.mono (begin_touch ..) (by decide))
                 | with_reducible apply Touches.trans ?_ (Touches.mono (emit_touch ..) (by decide)))

theorem execIcmpEcho_touch (lp : LPort) (addr ident : Nat) (s : State) : ∃ t, execIcmpEcho lp addr ident s = .next t ∧
    Touches [.out] s t := by
  refine ⟨_, rfl, ?_⟩
  repeat' (first | with_reducible exact Touches.refl _ _ | with_reducible apply Touches.ite ?_ ?_
                 | with_reducible apply Touches.trans ?_ (Touches.mono (begin_touch ..) (by decide))
                 | with_reducible apply Touches.trans ?_ (Touches.mono (emit_touch ..) (by decide)))

theorem execPfcFrame_touch (lp : LPort) (enables : BitVec 8) (times : List Nat) (s : State) : ∃ t, execPfcFrame lp enables
    times s = .next t ∧ Touches [.regs, .out] s t := by
  refine ⟨_, rfl, ?_⟩
  repeat' (first | with_reducible exact Touches.refl _ _ | with_reducible apply Touches.ite ?_ ?_
                 | with_reducible apply Touches.trans ?_ (Touches.mono (wrBit_touch _ _ _ _ _) (by decide))
                 | with_reducible apply Touches.trans ?_ (Touches.mono (begin_touch ..) (by decide))
                 | with_reducible apply Touches.trans ?_ (eachOf_touch _ _ _ ?_) | (intro _))

theorem execPauseStormDetect_touch (lp : LPort) (prio : Fin 8) (s : State) : ∃ t, execPauseStormDetect lp prio s = .next t ∧
    Touches [.regs, .free, .out, .peat, .fab] s t := by
  refine ⟨_, rfl, ?_⟩
  repeat' (first | with_reducible exact Touches.refl _ _ | dsimp only | with_reducible apply Touches.ite ?_ ?_
                 | with_reducible apply Touches.trans ?_ (Touches.mono (wr_touch _ _ _ _) (by decide))
                 | with_reducible apply Touches.trans ?_ (Touches.mono (wrBit_touch _ _ _ _ _) (by decide))
                 | with_reducible apply Touches.trans ?_ (Touches.mono (begin_touch ..) (by decide))
                 | with_reducible apply Touches.trans ?_ (Touches.mono (peatRecord_touch ..) (by decide))
                 | simp only [touches_mk]; with_reducible refine Touches.made (h := ?_))

theorem execPauseStormEnd_touch (lp : LPort) (s : State) : ∃ t, execPauseStormEnd lp s = .next t ∧ Touches [.regs, .out,
    .fab] s t := by
  refine ⟨_, rfl, ?_⟩
  repeat' (first | with_reducible exact Touches.refl _ _ | dsimp only
                 | with_reducible apply Touches.trans ?_ (Touches.mono (wrB_touch _ _ _ _) (by decide))
                 | with_reducible apply Touches.trans ?_ (Touches.mono (begin_touch ..) (by decide))
                 | simp only [touches_mk]; with_reducible refine Touches.made (h := ?_))

theorem execCeMarkedPacket_touch (qp gapUs : Nat) (s : State) : ∃ t, execCeMarkedPacket qp gapUs s = .next t ∧ Touches [.out]
    s t := by
  refine ⟨_, rfl, ?_⟩
  repeat' (first | with_reducible exact Touches.refl _ _ | with_reducible apply Touches.ite ?_ ?_
                 | with_reducible apply Touches.trans ?_ (Touches.mono (begin_touch ..) (by decide))
                 | with_reducible apply Touches.trans ?_ (Touches.mono (emit_touch ..) (by decide)) | (split))

theorem execCnp_touch (qp sinceCutUs : Nat) (s : State) : ∃ t, execCnp qp sinceCutUs s = .next t ∧ Touches [.regs, .out,
    .fab] s t := by
  refine ⟨_, rfl, ?_⟩
  repeat' (first | with_reducible exact Touches.refl _ _ | dsimp only
                 | with_reducible apply Touches.trans ?_ (Touches.mono (count_touch _ _ _ _) (by decide))
                 | with_reducible apply Touches.trans ?_ (Touches.mono (begin_touch ..) (by decide))
                 | with_reducible apply Touches.trans ?_ (Touches.mono (putQp_touch ..) (by decide)) | (split))

theorem execEcnRiseTimer_touch (qp : Nat) (s : State) : ∃ t, execEcnRiseTimer qp s = .next t ∧ Touches [.out, .fab] s t := by
  refine ⟨_, rfl, ?_⟩
  repeat' (first | with_reducible exact Touches.refl _ _ | dsimp only | with_reducible apply Touches.ite ?_ ?_
                 | with_reducible apply Touches.trans ?_ (Touches.mono (begin_touch ..) (by decide))
                 | with_reducible apply Touches.trans ?_ (Touches.mono (putQp_touch ..) (by decide)) | (split))

theorem execRdmaSend_touch (qp : Nat) (invalidate : Option Nat) (s : State) : ∃ t, execRdmaSend qp invalidate s = .next t ∧
    Touches [.out, .mere, .fab] s t := by
  refine ⟨_, rfl, ?_⟩
  repeat' (first | with_reducible exact Touches.refl _ _ | with_reducible apply Touches.ite ?_ ?_
                 | with_reducible apply Touches.trans ?_ (Touches.mono (begin_touch ..) (by decide))
                 | with_reducible apply Touches.trans ?_ (Touches.mono (emit_touch ..) (by decide))
                 | with_reducible apply Touches.trans ?_ (Touches.mono (qpProgress_touch ..) (by decide)) | (split))

theorem execRdmaRead_touch (qp : Nat) (response : Bool) (len : Nat) (s : State) : ∃ t, execRdmaRead qp response len s = .next
    t ∧ Touches [.out, .fab] s t := by
  refine ⟨_, rfl, ?_⟩
  repeat' (first | with_reducible exact Touches.refl _ _ | with_reducible apply Touches.ite ?_ ?_
                 | with_reducible apply Touches.trans ?_ (Touches.mono (begin_touch ..) (by decide))
                 | with_reducible apply Touches.trans ?_ (Touches.mono (emit_touch ..) (by decide))
                 | with_reducible apply Touches.trans ?_ (Touches.mono (putQp_touch ..) (by decide))
                 | with_reducible apply Touches.trans ?_ (Touches.mono (qpProgress_touch ..) (by decide)) | (split))

theorem execRdmaWrite_touch (qp len : Nat) (s : State) : ∃ t, execRdmaWrite qp len s = .next t ∧ Touches [.out, .fab] s t := by
  refine ⟨_, rfl, ?_⟩
  repeat' (first | with_reducible exact Touches.refl _ _ | with_reducible apply Touches.ite ?_ ?_
                 | with_reducible apply Touches.trans ?_ (Touches.mono (begin_touch ..) (by decide))
                 | with_reducible apply Touches.trans ?_ (Touches.mono (emit_touch ..) (by decide))
                 | with_reducible apply Touches.trans ?_ (Touches.mono (qpProgress_touch ..) (by decide)) | (split))

theorem execQpAckTimeout_touch (qp : Nat) (s : State) : ∃ t, execQpAckTimeout qp s = .next t ∧ Touches [.regs, .free, .out,
    .glb, .peat, .ret, .map, .mere, .nvq, .slu, .fab, .dma] s t := by
  refine ⟨_, rfl, ?_⟩
  repeat' (first | with_reducible exact Touches.refl _ _ | dsimp only | with_reducible apply Touches.ite ?_ ?_
                 | with_reducible apply Touches.trans ?_ (Touches.mono (count_touch _ _ _ _) (by decide))
                 | with_reducible apply Touches.trans ?_ (Touches.mono (begin_touch ..) (by decide))
                 | with_reducible apply Touches.trans ?_ (Touches.mono (fabNote_touch ..) (by decide))
                 | with_reducible apply Touches.trans ?_ (Touches.mono (putQp_touch ..) (by decide))
                 | with_reducible apply Touches.trans ?_ (Touches.mono (assocEnd_touch ..) (by decide))
                 | simp only [touches_mk]; with_reducible refine Touches.made (h := ?_) | (split))

theorem execRdmaTransportAck_touch (slot : SlotNo) (s : State) : ∃ t, execRdmaTransportAck slot s = .next t ∧ Touches [.regs,
    .out, .ret, .nvq, .slu] s t := by
  refine ⟨_, rfl, ?_⟩
  repeat' (first | with_reducible exact Touches.refl _ _ | with_reducible apply Touches.ite ?_ ?_
                 | with_reducible apply Touches.trans ?_ (Touches.mono (begin_touch ..) (by decide))
                 | with_reducible apply Touches.trans ?_ (Touches.mono (endPosted_touch ..) (by decide)) | (split))

theorem execCmReq_touch (lp : LPort) (req : CmReq) (s : State) : ∃ t, execCmReq lp req s = .next t ∧ Touches [.regs, .out,
    .fab] s t := by
  refine ⟨_, rfl, ?_⟩
  repeat' (first | with_reducible exact Touches.refl _ _ | dsimp only | with_reducible apply Touches.ite ?_ ?_
                 | with_reducible apply Touches.trans ?_ (Touches.mono (begin_touch ..) (by decide))
                 | with_reducible apply Touches.trans ?_ (Touches.mono (emit_touch ..) (by decide))
                 | with_reducible apply Touches.trans ?_ (Touches.mono (fabNote_touch ..) (by decide))
                 | with_reducible apply Touches.trans ?_ (Touches.mono (putQp_touch ..) (by decide)))

theorem execCmRtu_touch (qp : Nat) (s : State) : ∃ t, execCmRtu qp s = .next t ∧ Touches [.out, .fab] s t := by
  refine ⟨_, rfl, ?_⟩
  repeat' (first | with_reducible exact Touches.refl _ _
                 | with_reducible apply Touches.trans ?_ (Touches.mono (begin_touch ..) (by decide))
                 | with_reducible apply Touches.trans ?_ (Touches.mono (putQp_touch ..) (by decide)) | (split))

theorem execConnect_touch (qp : Nat) (req : ConnectReq) (s : State) : ∃ t, execConnect qp req s = .next t ∧ Touches [.regs,
    .out, .nvq, .fab] s t := by
  refine ⟨_, rfl, ?_⟩
  repeat' (first | with_reducible exact Touches.refl _ _ | dsimp only | with_reducible apply Touches.ite ?_ ?_
                 | with_reducible apply Touches.trans ?_ (Touches.mono (begin_touch ..) (by decide))
                 | with_reducible apply Touches.trans ?_ (Touches.mono (fabAnswer_touch ..) (by decide))
                 | with_reducible apply Touches.trans ?_ (Touches.mono (connectAdmin_touch ..) (by decide))
                 | with_reducible apply Touches.trans ?_ (Touches.mono (connectIo_touch ..) (by decide)) | (split))

theorem execPropertyGet_touch (ctrl : CtrlId) (off : Nat) (size8 : Bool) (s : State) : ∃ t, execPropertyGet ctrl off size8 s
    = .next t ∧ Touches [.out] s t := by
  refine ⟨_, rfl, ?_⟩
  repeat' (first | with_reducible exact Touches.refl _ _ | with_reducible apply Touches.ite ?_ ?_
                 | with_reducible apply Touches.trans ?_ (Touches.mono (begin_touch ..) (by decide))
                 | with_reducible apply Touches.trans ?_ (Touches.mono (fabAnswer_touch ..) (by decide)) | (split))

theorem execPropertySet_touch (ctrl : CtrlId) (off : Nat) (size8 : Bool) (value : Nat) (s : State) : ∃ t, execPropertySet
    ctrl off size8 value s = .next t ∧ Touches [.regs, .free, .out, .nvq, .slu, .fab] s t := by
  refine ⟨_, rfl, ?_⟩
  repeat' (first | with_reducible exact Touches.refl _ _ | dsimp only | with_reducible apply Touches.ite ?_ ?_
                 | with_reducible apply Touches.trans ?_ (Touches.mono (begin_touch ..) (by decide))
                 | with_reducible apply Touches.trans ?_ (Touches.mono (ccWrite_touch ..) (by decide))
                 | with_reducible apply Touches.trans ?_ (Touches.mono (fabNote_touch ..) (by decide))
                 | with_reducible apply Touches.trans ?_ (Touches.mono (closeQps_touch ..) (by decide))
                 | with_reducible apply Touches.trans ?_ (Touches.mono (fabAnswer_touch ..) (by decide)) | (split))

theorem execDisconnect_touch (ctrl : CtrlId) (qid : Nat) (s : State) : ∃ t, execDisconnect ctrl qid s = .next t ∧ Touches
    [.regs, .free, .out, .glb, .peat, .ret, .map, .mere, .nvq, .slu, .fab, .dma] s t := by
  refine ⟨_, rfl, ?_⟩
  repeat' (first | with_reducible exact Touches.refl _ _ | dsimp only | with_reducible apply Touches.ite ?_ ?_
                 | with_reducible apply Touches.trans ?_ (Touches.mono (begin_touch ..) (by decide))
                 | with_reducible apply Touches.trans ?_ (Touches.mono (putCtrl_touch ..) (by decide))
                 | with_reducible apply Touches.trans ?_ (Touches.mono (fabNote_touch ..) (by decide))
                 | with_reducible apply Touches.trans ?_ (Touches.mono (closeQps_touch ..) (by decide))
                 | with_reducible apply Touches.trans ?_ (Touches.mono (assocEnd_touch ..) (by decide))
                 | with_reducible apply Touches.trans ?_ (Touches.mono (fabAnswer_touch ..) (by decide)) | (split))

theorem execAuthenticationSend_touch (ctrl : CtrlId) (msg : AuthMsg) (s : State) : ∃ t, execAuthenticationSend ctrl msg s =
    .next t ∧ Touches [.regs, .free, .out, .glb, .peat, .ret, .map, .mere, .nvq, .slu, .fab, .dma] s t := by
  refine ⟨_, rfl, ?_⟩
  repeat' (first | with_reducible exact Touches.refl _ _ | dsimp only | with_reducible apply Touches.ite ?_ ?_
                 | with_reducible apply Touches.trans ?_ (Touches.mono (begin_touch ..) (by decide))
                 | with_reducible apply Touches.trans ?_ (Touches.mono (emit_touch ..) (by decide))
                 | with_reducible apply Touches.trans ?_ (Touches.mono (putCtrl_touch ..) (by decide))
                 | with_reducible apply Touches.trans ?_ (Touches.mono (assocEndQuiet_touch ..) (by decide))
                 | with_reducible apply Touches.trans ?_ (Touches.mono (fabAnswer_touch ..) (by decide))
                 | simp only [touches_mk]; with_reducible refine Touches.made (h := ?_) | (split))

theorem execAuthenticationReceive_touch (ctrl : CtrlId) (len : Nat) (s : State) : ∃ t, execAuthenticationReceive ctrl len s =
    .next t ∧ Touches [.free, .out] s t := by
  refine ⟨_, rfl, ?_⟩
  repeat' (first | with_reducible exact Touches.refl _ _ | dsimp only | with_reducible apply Touches.ite ?_ ?_
                 | with_reducible apply Touches.trans ?_ (Touches.mono (begin_touch ..) (by decide))
                 | with_reducible apply Touches.trans ?_ (Touches.mono (emit_touch ..) (by decide))
                 | with_reducible apply Touches.trans ?_ (Touches.mono (drawn_touch ..) (by decide))
                 | with_reducible apply Touches.trans ?_ (Touches.mono (fabAnswer_touch ..) (by decide)) | (split))

theorem execKeepAliveTimeout_touch (ctrl : CtrlId) (s : State) : ∃ t, execKeepAliveTimeout ctrl s = .next t ∧ Touches [.regs,
    .free, .out, .glb, .peat, .ret, .map, .mere, .nvq, .slu, .fab, .dma] s t := by
  refine ⟨_, rfl, ?_⟩
  repeat' (first | with_reducible exact Touches.refl _ _ | with_reducible apply Touches.ite ?_ ?_
                 | with_reducible apply Touches.trans ?_ (Touches.mono (begin_touch ..) (by decide))
                 | with_reducible apply Touches.trans ?_ (Touches.mono (assocEnd_touch ..) (by decide)) | (split))

theorem execHostConnectionClose_touch (ctrl : CtrlId) (s : State) : ∃ t, execHostConnectionClose ctrl s = .next t ∧ Touches
    [.regs, .free, .out, .glb, .peat, .ret, .map, .mere, .nvq, .slu, .fab, .dma] s t := by
  refine ⟨_, rfl, ?_⟩
  repeat' (first | with_reducible exact Touches.refl _ _
                 | with_reducible apply Touches.trans ?_ (Touches.mono (begin_touch ..) (by decide))
                 | with_reducible apply Touches.trans ?_ (Touches.mono (assocEnd_touch ..) (by decide)))

theorem execAddressCommit_touch (_path : AccessPath) (s : State) : ∃ t, execAddressCommit _path s = .next t ∧ Touches [.regs,
    .free, .out, .glb, .peat, .ret, .map, .mere, .nvq, .slu, .fab, .dma] s t := by
  refine ⟨_, rfl, ?_⟩
  repeat' (first | with_reducible exact Touches.refl _ _
                 | with_reducible apply Touches.trans ?_ (Touches.mono (begin_touch ..) (by decide))
                 | with_reducible apply Touches.trans ?_ (Touches.mono (addressCommit_touch ..) (by decide)))

theorem execHello_touch (lp : LPort) (msg : HelloMsg) (s : State) : ∃ t, execHello lp msg s = .next t ∧ Touches [.regs,
    .free, .out, .cwy] s t := by
  refine ⟨_, rfl, ?_⟩
  repeat' (first | with_reducible exact Touches.refl _ _ | dsimp only | with_reducible apply Touches.ite ?_ ?_
                 | with_reducible apply Touches.trans ?_ (Touches.mono (wr_touch _ _ _ _) (by decide))
                 | with_reducible apply Touches.trans ?_ (Touches.mono (count_touch _ _ _ _) (by decide))
                 | with_reducible apply Touches.trans ?_ (Touches.mono (begin_touch ..) (by decide))
                 | with_reducible apply Touches.trans ?_ (Touches.mono (emit_touch ..) (by decide))
                 | with_reducible apply Touches.trans ?_ (Touches.mono (drawn_touch ..) (by decide))
                 | with_reducible apply Touches.trans ?_ (Touches.mono (putPeer_touch ..) (by decide))
                 | with_reducible apply Touches.trans ?_ (Touches.mono (openSession_touch ..) (by decide))
                 | with_reducible apply Touches.trans ?_ (Touches.mono (sessionEnd_touch ..) (by decide)) | (split))

theorem execHelloAck_touch (lp : LPort) (msg : HelloMsg) (chosen : Nat) (s : State) : ∃ t, execHelloAck lp msg chosen s =
    .next t ∧ Touches [.regs, .out, .cwy] s t := by
  refine ⟨_, rfl, ?_⟩
  repeat' (first | with_reducible exact Touches.refl _ _ | dsimp only | with_reducible apply Touches.ite ?_ ?_
                 | with_reducible apply Touches.trans ?_ (Touches.mono (count_touch _ _ _ _) (by decide))
                 | with_reducible apply Touches.trans ?_ (Touches.mono (begin_touch ..) (by decide))
                 | with_reducible apply Touches.trans ?_ (Touches.mono (openSession_touch ..) (by decide)) | (split))

end Sys2Proof.Machine
end

