-- ==== Sys2Proof/Laws/TouchExec4.lean ====
section
/-! SUPPORT. Every command completes, and the parts of the state that it may change (see TouchBase). -/

-- One theorem after the other: elaborated side by side, their many small side proofs make Lean start hundreds of threads.
set_option Elab.async false

namespace Sys2Proof.Machine

open Sys2Proof

theorem execDiscover_touch (lp : LPort) (serial _versions : Nat) (s : State) : ∃ t, execDiscover lp serial _versions s =
    .next t ∧ Touches [.out, .cwy] s t := by
  refine ⟨_, rfl, ?_⟩
  repeat' (first | with_reducible exact Touches.refl _ _ | dsimp only | with_reducible apply Touches.ite ?_ ?_
                 | with_reducible apply Touches.trans ?_ (Touches.mono (begin_touch ..) (by decide))
                 | simp only [touches_mk]; with_reducible refine Touches.made (h := ?_))

theorem execDiscoverTimer_touch (s : State) : ∃ t, execDiscoverTimer s = .next t ∧ Touches [.out] s t := by
  refine ⟨_, rfl, ?_⟩
  repeat' (first | with_reducible exact Touches.refl _ _
                 | with_reducible apply Touches.trans ?_ (Touches.mono (begin_touch ..) (by decide))
                 | with_reducible apply Touches.trans ?_ (Touches.mono (emit_touch ..) (by decide))
                 | with_reducible apply Touches.trans ?_ (eachOf_touch _ _ _ ?_) | (intro _))

theorem execHeartbeat_touch (head : CwyHead) (bytes : Nat) (s : State) : ∃ t, execHeartbeat head  bytes  s = .next t ∧
    Touches [.regs, .out, .cwy] s t := by
  refine ⟨_, rfl, Touches.trans ((begin_touch _).mono (by decide)) (cwyTake_touch _ _ _ _ (by decide) ?_)⟩
  intro s t h; cases h; exact (putPeer_touch ..).mono (by decide)

theorem execHeartbeatTimer_touch (s : State) : ∃ t, execHeartbeatTimer s = .next t ∧ Touches [.out, .cwy] s t := by
  refine ⟨_, rfl, ?_⟩
  repeat' (first | with_reducible exact Touches.refl _ _
                 | with_reducible apply Touches.trans ?_ (Touches.mono (begin_touch ..) (by decide))
                 | with_reducible apply Touches.trans ?_ (Touches.mono (cwySend_touch ..) (by decide))
                 | with_reducible apply Touches.trans ?_ (eachOf_touch _ _ _ ?_) | (intro _))

theorem execPeerDownTimeout_touch (peer : Fin 64) (s : State) : ∃ t, execPeerDownTimeout peer s = .next t ∧ Touches [.regs,
    .free, .out, .peat, .cwy] s t := by
  refine ⟨_, rfl, ?_⟩
  repeat' (first | with_reducible exact Touches.refl _ _ | with_reducible apply Touches.ite ?_ ?_
                 | with_reducible apply Touches.trans ?_ (Touches.mono (wr_touch _ _ _ _) (by decide))
                 | with_reducible apply Touches.trans ?_ (Touches.mono (begin_touch ..) (by decide))
                 | with_reducible apply Touches.trans ?_ (Touches.mono (peatRecord_touch ..) (by decide))
                 | with_reducible apply Touches.trans ?_ (Touches.mono (sessionEnd_touch ..) (by decide)))

theorem execHelloRetryTimer_touch (peer : Fin 64) (s : State) : ∃ t, execHelloRetryTimer peer s = .next t ∧ Touches [.free,
    .out, .cwy] s t := by
  refine ⟨_, rfl, ?_⟩
  repeat' (first | with_reducible exact Touches.refl _ _ | with_reducible apply Touches.ite ?_ ?_
                 | with_reducible apply Touches.trans ?_ (Touches.mono (begin_touch ..) (by decide))
                 | with_reducible apply Touches.trans ?_ (Touches.mono (sendHello_touch ..) (by decide)))

theorem execCausewayRetransmitTimeout_touch (peer : Fin 64) (stream : Fin 10) (s : State) : ∃ t,
    execCausewayRetransmitTimeout peer stream s = .next t ∧ Touches [.regs, .out, .cwy] s t := by
  refine ⟨_, rfl, ?_⟩
  repeat' (first | with_reducible exact Touches.refl _ _ | with_reducible apply Touches.ite ?_ ?_
                 | with_reducible apply Touches.trans ?_ (Touches.mono (count_touch _ _ _ _) (by decide))
                 | with_reducible apply Touches.trans ?_ (Touches.mono (begin_touch ..) (by decide))
                 | with_reducible apply Touches.trans ?_ (Touches.mono (putPeer_touch ..) (by decide))
                 | with_reducible apply Touches.trans ?_ (Touches.mono (cwyOut_touch ..) (by decide))
                 | with_reducible apply Touches.trans ?_ (eachOf_touch _ _ _ ?_) | (intro _))

theorem execCausewayProgressTimeout_touch (peer : Fin 64) (stream : Fin 10) (s : State) : ∃ t, execCausewayProgressTimeout
    peer stream s = .next t ∧ Touches [.out, .cwy] s t := by
  refine ⟨_, rfl, ?_⟩
  repeat' (first | with_reducible exact Touches.refl _ _ | with_reducible apply Touches.ite ?_ ?_
                 | with_reducible apply Touches.trans ?_ (Touches.mono (begin_touch ..) (by decide))
                 | with_reducible apply Touches.trans ?_ (Touches.mono (sessionEnd_touch ..) (by decide)))

theorem execAckOnly_touch (head : CwyHead) (s : State) : ∃ t, execAckOnly head s = .next t ∧ Touches [.regs, .out, .cwy] s t
    := by
  refine ⟨_, rfl, ?_⟩
  repeat' (first | with_reducible exact Touches.refl _ _ | with_reducible apply Touches.ite ?_ ?_
                 | with_reducible apply Touches.trans ?_ (Touches.mono (count_touch _ _ _ _) (by decide))
                 | with_reducible apply Touches.trans ?_ (Touches.mono (begin_touch ..) (by decide))
                 | with_reducible apply Touches.trans ?_ (Touches.mono (cwyAck_touch ..) (by decide)))

theorem execChainData_touch (head : CwyHead) (off total len : Nat) (body : Nat × Bool) (s : State) :
    ∃ t, execChainData head off total len body s = .next t ∧
    Touches [.regs, .out, .cfg, .cwy, .upd] s t := by
  refine ⟨_, rfl, Touches.trans ((begin_touch _).mono (by decide)) (cwyTake_touch _ _ _ _ (by decide) ?_)⟩
  intro s t h; try dsimp only at h
  repeat' (split at h)
  all_goals (cases h)
  all_goals repeat' (first | with_reducible exact Touches.refl _ _
                           | with_reducible apply Touches.trans ?_ (Touches.mono (cwySend_touch ..) (by decide))
                           | with_reducible apply Touches.trans ?_ (Touches.mono (chainPiece_touch ..) (by decide))
                           | simp only [touches_mk]; with_reducible refine Touches.made (h := ?_))

theorem execChainReport_touch (head : CwyHead) (reports : List (Nat × Nat)) (all : Bool) (s : State) : ∃ t, execChainReport
    head  reports  all  s = .next t ∧ Touches [.regs, .out, .cwy] s t := by
  refine ⟨_, rfl, Touches.trans ((begin_touch _).mono (by decide)) (cwyTake_touch _ _ _ _ (by decide) ?_)⟩
  have he : ∀ s : State, Touches [.regs, .out, .cwy] s (eachOf reports (fun r s => chainReportUp r.1 r.2 s) s) :=
    fun s => eachOf_touch reports _ s (fun _ _ => (chainReportUp_touch ..).mono (by decide))
  intro s t h; try dsimp only at h
  split at h
  · cases h; exact Touches.refl _ _
  · cases h
    repeat' (first | (with_reducible exact Touches.refl _ _) | (dsimp only) | (with_reducible apply Touches.ite ?_ ?_)
                   | (with_reducible apply Touches.trans ?_ (he ..))
                   | (with_reducible apply Touches.trans ?_ (Touches.mono (wr_touch _ _ _ _) (by decide)))
                   | (simp only [touches_mk]; with_reducible refine Touches.made (h := ?_)) | split)

theorem execChainDownstreamTimeout_touch (s : State) : ∃ t, execChainDownstreamTimeout s = .next t ∧ Touches [.regs, .out,
    .cwy] s t := by
  refine ⟨_, rfl, ?_⟩
  repeat' (first | with_reducible exact Touches.refl _ _ | dsimp only | with_reducible apply Touches.ite ?_ ?_
                 | with_reducible apply Touches.trans ?_ (Touches.mono (wr_touch _ _ _ _) (by decide))
                 | with_reducible apply Touches.trans ?_ (Touches.mono (begin_touch ..) (by decide))
                 | with_reducible apply Touches.trans ?_ (Touches.mono (chainReportUp_touch ..) (by decide))
                 | simp only [touches_mk]; with_reducible refine Touches.made (h := ?_) | (split))

theorem execMigOpen_touch (head : CwyHead) (msg : MigOpen) (s : State) : ∃ t, execMigOpen head msg s = .next t ∧ Touches
    [.regs, .free, .out, .map, .nvq, .cwy, .cip] s t := by
  refine ⟨_, rfl, Touches.trans ((begin_touch _).mono (by decide)) (cwyTake_touch _ _ _ _ (by decide) ?_)⟩
  intro s t h; try dsimp only at h
  repeat' (split at h)
  all_goals (cases h)
  all_goals repeat' (first | with_reducible exact Touches.refl _ _
                           | with_reducible apply Touches.trans ?_ (Touches.mono (drawn_touch ..) (by decide))
                           | with_reducible apply Touches.trans ?_ (Touches.mono (cwySend_touch ..) (by decide))
                           | with_reducible apply Touches.trans ?_ (Touches.mono (abortImport_touch ..) (by decide))
                           | with_reducible apply Touches.trans ?_ (Touches.mono (importNs_touch ..) (by decide)))

theorem execMigUnits_touch (head : CwyHead) (mig : Fin 8) (tract : Nat) (units : List UnitRecord) (s : State) : ∃ t,
    execMigUnits head mig tract units s = .next t ∧ Touches [.regs, .free, .out, .peat, .ret, .map, .fen, .mere, .nvq, .cwy] s t := by
  refine ⟨_, rfl, Touches.trans ((begin_touch _).mono (by decide)) (cwyTake_touch _ _ _ _ (by decide) ?_)⟩
  have H : ∀ (l : List UnitRecord) (r : Option State) (t : State),
      l.foldl (fun r u => r.bind (importUnit mig.val head.peer.val head.stream.val u)) r = some t → ∃ s0, r = some s0 ∧
          Touches [.regs, .free, .out, .peat, .ret, .map, .fen, .mere, .nvq, .cwy] s0 t := by
    intro l
    induction l with
    | nil => intro r t h; exact ⟨t, h, Touches.refl _ _⟩
    | cons a l ih =>
      intro r t h
      obtain ⟨s1, e1, h1⟩ := ih _ _ h
      cases r with
      | none => cases e1
      | some s0 => exact ⟨s0, rfl, Touches.trans ((importUnit_touch e1).mono (by decide)) h1⟩
  intro s t h; try dsimp only at h
  split at h
  · cases h; exact Touches.refl _ _
  · split at h
    · cases h
    · obtain ⟨u, hu, e⟩ := Option.map_eq_some_iff.mp h
      obtain ⟨s0, e0, h0⟩ := H _ _ _ hu
      cases e0; cases e
      exact (((putMig_touch ..).mono (by decide)).trans h0).trans ((endTracts_touch ..).mono (by decide))

theorem execMigNak_touch (head : CwyHead) (mig : Fin 8) (nsUnit : Nat) (s : State) : ∃ t, execMigNak head  mig  nsUnit  s =
    .next t ∧ Touches [.regs, .out, .cwy] s t := by
  refine ⟨_, rfl, Touches.trans ((begin_touch _).mono (by decide)) (cwyTake_touch _ _ _ _ (by decide) ?_)⟩
  intro s t h; try dsimp only at h
  repeat' (split at h)
  all_goals (cases h)
  all_goals repeat' (first | with_reducible exact Touches.refl _ _
                           | with_reducible apply Touches.trans ?_ (Touches.mono (cwySend_touch ..) (by decide))
                           | with_reducible apply Touches.trans ?_ (Touches.mono (putMig_touch ..) (by decide))
                           | with_reducible apply Touches.trans ?_ (Touches.mono (count_touch _ _ _ _) (by decide)))

theorem execMigTractEnd_touch (head : CwyHead) (mig : Fin 8) (tract sent : Nat) (s : State) : ∃ t, execMigTractEnd head  mig 
    tract sent  s = .next t ∧ Touches [.regs, .out, .cwy] s t := by
  refine ⟨_, rfl, Touches.trans ((begin_touch _).mono (by decide)) (cwyTake_touch _ _ _ _ (by decide) ?_)⟩
  intro s t h; try dsimp only at h
  repeat' (split at h)
  all_goals (cases h)
  all_goals repeat' (first | with_reducible exact Touches.refl _ _
                           | with_reducible apply Touches.trans ?_ (Touches.mono (endTracts_touch ..) (by decide))
                           | with_reducible apply Touches.trans ?_ (Touches.mono (putMig_touch ..) (by decide)))

theorem execMigDone_touch (head : CwyHead) (mig : Fin 8) (sent lost wseq : Nat) (s : State) : ∃ t, execMigDone head  mig 
    sent lost wseq  s = .next t ∧ Touches [.regs, .out, .map, .nvq, .cwy] s t := by
  refine ⟨_, rfl, Touches.trans ((begin_touch _).mono (by decide)) (cwyTake_touch _ _ _ _ (by decide) ?_)⟩
  intro s t h; try dsimp only at h
  split at h
  · cases h; exact Touches.refl _ _
  · cases h
    repeat' (first | (with_reducible exact Touches.refl _ _) | (with_reducible assumption) | (dsimp only)
                   | (with_reducible apply Touches.ite ?_ ?_)
                   | (with_reducible apply Touches.trans ?_ (Touches.mono (migEnd_touch ..) (by decide)))
                   | (with_reducible apply Touches.trans ?_ (Touches.mono (labelWrite_touch ..) (by decide)))
                   | (with_reducible apply Touches.trans ?_ (Touches.mono (putNs_touch ..) (by decide)))
                   | (simp only [touches_mk]; with_reducible refine Touches.made (h := ?_)) | split)

theorem execMigAbort_touch (head : CwyHead) (mig : Fin 8) (reason : Nat) (s : State) : ∃ t, execMigAbort head  mig  reason  s
    = .next t ∧ Touches [.regs, .out, .cwy] s t := by
  refine ⟨_, rfl, Touches.trans ((begin_touch _).mono (by decide)) (cwyTake_touch _ _ _ _ (by decide) ?_)⟩
  intro s t h; try dsimp only at h
  repeat' (split at h)
  all_goals (cases h)
  all_goals repeat' (first | with_reducible exact Touches.refl _ _
                           | with_reducible apply Touches.trans ?_ (Touches.mono (migEnd_touch ..) (by decide))
                           | with_reducible apply Touches.trans ?_ (Touches.mono (putPeer_touch ..) (by decide)))

theorem execMigrationPassEnd_touch (mig : Fin 8) (s : State) : ∃ t, execMigrationPassEnd mig s = .next t ∧ Touches [.out,
    .cwy] s t := by
  refine ⟨_, rfl, ?_⟩
  repeat' (first | with_reducible exact Touches.refl _ _ | with_reducible apply Touches.ite ?_ ?_
                 | with_reducible apply Touches.trans ?_ (Touches.mono (begin_touch ..) (by decide))
                 | with_reducible apply Touches.trans ?_ (Touches.mono (putMig_touch ..) (by decide))
                 | with_reducible apply Touches.trans ?_ (Touches.mono (cwySend_touch ..) (by decide))
                 | with_reducible apply Touches.trans ?_ (Touches.mono (migPump_touch ..) (by decide)) | (split))

theorem execFirmwareImageDownload_touch (slot : SlotNo) (piece : Piece) (s : State) : ∃ t, execFirmwareImageDownload slot
    piece s = .next t ∧ Touches [.regs, .out, .cfg, .nvq, .upd] s t := by
  refine ⟨_, rfl, ?_⟩
  repeat' (first | with_reducible exact Touches.refl _ _ | dsimp only
                 | with_reducible apply Touches.trans ?_ (Touches.mono (begin_touch ..) (by decide))
                 | with_reducible apply Touches.trans ?_ (Touches.mono (finishCmd_touch ..) (by decide))
                 | with_reducible apply Touches.trans ?_ (Touches.mono (downloadPiece_touch ..) (by decide))
                 | with_reducible apply Touches.trans ?_ (withCmd_touch (hp := by decide) (hf := ?_) ..) | (intro _))

theorem execFwCommitStore_touch (slot : SlotNo) (s : State) : ∃ t, execFwCommitStore slot s = .next t ∧ Touches [.regs,
    .free, .out, .peat, .cfg, .nvq, .upd, .cus] s t := by
  refine ⟨_, rfl, ?_⟩
  repeat' (first | with_reducible exact Touches.refl _ _
                 | with_reducible apply Touches.trans ?_ (Touches.mono (begin_touch ..) (by decide))
                 | with_reducible apply Touches.trans ?_ (Touches.mono (commitCmd_touch ..) (by decide)))

theorem execFwCommitStorePending_touch (slot : SlotNo) (s : State) : ∃ t, execFwCommitStorePending slot s = .next t ∧ Touches
    [.regs, .free, .out, .peat, .cfg, .nvq, .upd, .cus] s t := by
  refine ⟨_, rfl, ?_⟩
  repeat' (first | with_reducible exact Touches.refl _ _
                 | with_reducible apply Touches.trans ?_ (Touches.mono (begin_touch ..) (by decide))
                 | with_reducible apply Touches.trans ?_ (Touches.mono (commitCmd_touch ..) (by decide)))

theorem execFwCommitActivateNextReset_touch (slot : SlotNo) (s : State) : ∃ t, execFwCommitActivateNextReset slot s = .next t
    ∧ Touches [.regs, .free, .out, .peat, .cfg, .nvq, .upd, .cus] s t := by
  refine ⟨_, rfl, ?_⟩
  repeat' (first | with_reducible exact Touches.refl _ _
                 | with_reducible apply Touches.trans ?_ (Touches.mono (begin_touch ..) (by decide))
                 | with_reducible apply Touches.trans ?_ (Touches.mono (commitCmd_touch ..) (by decide)))

theorem execFwCommitActivateNow_touch (slot : SlotNo) (s : State) : ∃ t, execFwCommitActivateNow slot s = .next t ∧ Touches
    [.regs, .free, .out, .peat, .cfg, .nvq, .upd, .cus] s t := by
  refine ⟨_, rfl, ?_⟩
  repeat' (first | with_reducible exact Touches.refl _ _
                 | with_reducible apply Touches.trans ?_ (Touches.mono (begin_touch ..) (by decide))
                 | with_reducible apply Touches.trans ?_ (Touches.mono (commitCmd_touch ..) (by decide)))

theorem execActivationDrainEnd_touch (ms : Nat) (s : State) : ∃ t, execActivationDrainEnd ms s = .next t ∧ Touches [.regs,
    .out, .ucs, .nvq] s t := by
  refine ⟨_, rfl, ?_⟩
  repeat' (first | with_reducible exact Touches.refl _ _ | dsimp only | with_reducible apply Touches.ite ?_ ?_
                 | with_reducible apply Touches.trans ?_ (Touches.mono (wr_touch _ _ _ _) (by decide))
                 | with_reducible apply Touches.trans ?_ (Touches.mono (begin_touch ..) (by decide))
                 | with_reducible apply Touches.trans ?_ (Touches.mono (patchBank_touch ..) (by decide))
                 | simp only [touches_mk]; with_reducible refine Touches.made (h := ?_)
                 | with_reducible apply Touches.trans ?_ (eachOf_touch _ _ _ ?_) | (intro _) | (split))

theorem execActivationDrainTimeout_touch (s : State) : ∃ t, execActivationDrainTimeout s = .next t ∧ Touches [.regs, .out,
    .nvq, .upd, .cus] s t := by
  refine ⟨_, rfl, ?_⟩
  repeat' (first | with_reducible exact Touches.refl _ _ | with_reducible apply Touches.ite ?_ ?_
                 | with_reducible apply Touches.trans ?_ (Touches.mono (wr_touch _ _ _ _) (by decide))
                 | with_reducible apply Touches.trans ?_ (Touches.mono (begin_touch ..) (by decide))
                 | with_reducible apply Touches.trans ?_ (Touches.mono (abandonActivation_touch ..) (by decide)))

theorem execActivationPauseEnd_touch (us : Nat) (s : State) : ∃ t, execActivationPauseEnd us s = .next t ∧ Touches
    [.regs, .free, .out, .ldpc, .ucs, .nvq, .cwy, .sea, .upd, .cus] s t := by
  refine ⟨_, rfl, ?_⟩
  repeat' (first | with_reducible exact Touches.refl _ _ | dsimp only | with_reducible apply Touches.ite ?_ ?_
                 | with_reducible apply Touches.trans ?_ (Touches.mono (begin_touch ..) (by decide))
                 | with_reducible apply Touches.trans ?_ (Touches.mono (putSel_touch ..) (by decide))
                 | with_reducible apply Touches.trans ?_ (Touches.mono (wr_touch _ _ _ _) (by decide))
                 | with_reducible apply Touches.trans ?_ (Touches.mono (eachOf_touch ..) (by decide))
                 | with_reducible apply Touches.trans ?_ (Touches.mono (askSwitch_touch ..) (by decide))
                 | with_reducible apply Touches.trans ?_ (Touches.mono (helloAll_touch ..) (by decide))
                 | with_reducible apply Touches.trans ?_ (Touches.mono (epochPrepare_touch ..) (by decide))
                 | with_reducible apply Touches.trans ?_ (Touches.mono (commitEnd_touch ..) (by decide))
                 | with_reducible apply Touches.trans ?_ (Touches.mono (setPp_touch ..) (by decide))
                 | with_reducible apply Touches.trans ?_ (eachOf_touch _ _ _ ?_)
                 | with_reducible apply Touches.trans ?_ (foldl_touch _ _ _ ?_)
                 | simp only [touches_mk]; with_reducible refine Touches.made (h := ?_) | (intro _) | (split))

theorem execBootStepEnd_touch (facts : BootFacts) (s : State) : ∃ t, execBootStepEnd facts s = .next t ∧ Touches [.regs,
    .free, .out, .glb, .peat, .cfg, .life, .ret, .map, .fen, .ldpc, .hew, .ucs, .seam, .mere, .nvq, .slu, .hif, .fab, .cwy,
    .cip, .dma, .mbx, .pwr, .sea, .upd, .cus, .clk, .boot, .tmon] s t := by
  refine ⟨_, rfl, ?_⟩
  repeat' (first | with_reducible exact Touches.refl _ _ | with_reducible apply Touches.ite ?_ ?_
                 | with_reducible apply Touches.trans ?_ (Touches.mono (begin_touch ..) (by decide))
                 | with_reducible apply Touches.trans ?_ (Touches.mono (bootStep1_touch ..) (by decide))
                 | with_reducible apply Touches.trans ?_ (Touches.mono (bootStep2_touch ..) (by decide))
                 | with_reducible apply Touches.trans ?_ (Touches.mono (bootStep3_touch ..) (by decide))
                 | with_reducible apply Touches.trans ?_ (Touches.mono (bootStep4_touch ..) (by decide))
                 | with_reducible apply Touches.trans ?_ (Touches.mono (bootStep5_touch ..) (by decide))
                 | with_reducible apply Touches.trans ?_ (Touches.mono (bootStep6_touch ..) (by decide))
                 | with_reducible apply Touches.trans ?_ (Touches.mono (bootStep7_touch ..) (by decide))
                 | with_reducible apply Touches.trans ?_ (Touches.mono (bootStep8_touch ..) (by decide)) | (split))

theorem execBootStepFailure_touch (cause : Nat) (s : State) : ∃ t, execBootStepFailure cause s = .next t ∧ Touches
    [.regs, .free, .out, .glb, .peat, .cfg, .ret, .map, .fen, .ldpc, .hew, .ucs, .seam, .mere, .nvq, .slu, .hif, .fab, .cwy,
    .cip, .dma, .mbx, .pwr, .sea, .upd, .cus, .clk, .boot, .tmon] s t := by
  refine ⟨_, rfl, ?_⟩
  repeat' (first | with_reducible exact Touches.refl _ _ | dsimp only | with_reducible apply Touches.ite ?_ ?_
                 | with_reducible apply Touches.trans ?_ (Touches.mono (begin_touch ..) (by decide))
                 | with_reducible apply Touches.trans ?_ (Touches.mono (tryFails_touch ..) (by decide))
                 | with_reducible apply Touches.trans ?_ (Touches.mono (bootStop_touch ..) (by decide))
                 | with_reducible apply Touches.trans ?_ (Touches.mono (noteFailure_touch ..) (by decide))
                 | with_reducible apply Touches.trans ?_ (Touches.mono (applyBackup_touch ..) (by decide))
                 | with_reducible apply Touches.trans ?_ (Touches.mono (imageRefused_touch ..) (by decide))
                 | with_reducible apply Touches.trans ?_ (Touches.mono (setRecord_touch ..) (by decide))
                 | with_reducible apply Touches.trans ?_ (Touches.mono (fenceStack_touch ..) (by decide))
                 | with_reducible apply Touches.trans ?_ (Touches.mono (stepFail_touch ..) (by decide))
                 | simp only [touches_mk]; with_reducible refine Touches.made (h := ?_) | (intro _) | (split))

theorem execFirmwareTryTimeout_touch (s : State) : ∃ t, execFirmwareTryTimeout s = .next t ∧ Touches [.regs, .free, .out,
    .glb, .peat, .cfg, .ret, .map, .fen, .ldpc, .hew, .ucs, .seam, .mere, .nvq, .slu, .hif, .fab, .cwy, .cip, .dma, .mbx,
    .pwr, .sea, .upd, .cus, .clk, .boot, .tmon] s t := by
  refine ⟨_, rfl, ?_⟩
  repeat' (first | with_reducible exact Touches.refl _ _ | with_reducible apply Touches.ite ?_ ?_
                 | with_reducible apply Touches.trans ?_ (Touches.mono (begin_touch ..) (by decide))
                 | with_reducible apply Touches.trans ?_ (Touches.mono (tryFails_touch ..) (by decide)))

theorem execBootResetWrite_touch (path : AccessPath) (value : Word) (s : State) : ∃ t, execBootResetWrite path value s =
    .next t ∧ Touches [.regs, .free, .out, .glb, .peat, .cfg, .ret, .map, .fen, .ldpc, .hew, .ucs, .seam, .mere, .nvq, .slu,
    .hif, .fab, .cwy, .cip, .dma, .mbx, .pwr, .sea, .upd, .cus, .clk, .boot, .tmon] s t := by
  refine ⟨_, rfl, ?_⟩
  repeat' (first | with_reducible exact Touches.refl _ _
                 | with_reducible apply Touches.trans ?_ (Touches.mono (begin_touch ..) (by decide))
                 | with_reducible apply Touches.trans ?_ (Touches.mono (bootResetWrite_touch ..) (by decide)))

theorem execDeviceResetSequence_touch (s : State) : ∃ t, execDeviceResetSequence s = .next t ∧ Touches [.regs, .free, .out,
    .glb, .peat, .cfg, .ret, .map, .fen, .ldpc, .hew, .ucs, .seam, .mere, .nvq, .slu, .hif, .fab, .cwy, .cip, .dma, .mbx,
    .pwr, .sea, .upd, .cus, .clk, .boot, .tmon] s t := by
  refine ⟨_, rfl, ?_⟩
  repeat' (first | with_reducible exact Touches.refl _ _ | dsimp only | with_reducible apply Touches.ite ?_ ?_
                 | with_reducible apply Touches.trans ?_ (Touches.mono (begin_touch ..) (by decide))
                 | with_reducible apply Touches.trans ?_ (Touches.mono (makeDurable_touch ..) (by decide))
                 | with_reducible apply Touches.trans ?_ (Touches.mono (destageRow_touch ..) (by decide))
                 | with_reducible apply Touches.trans ?_ (Touches.mono (deviceReset_touch ..) (by decide))
                 | with_reducible apply Touches.trans ?_ (eachOf_touch _ _ _ ?_) | (intro _) | (split))

theorem execPowerOnReset_touch (offSec : Nat) (vbatLost : Bool) (board : Option BoardContent) (s : State) : ∃ t,
    execPowerOnReset offSec vbatLost board s = .next t ∧ Touches [.regs, .free, .out, .glb, .peat, .cfg, .life, .ret, .map,
    .fen, .ldpc, .hew, .ucs, .seam, .mere, .nvq, .slu, .hif, .fab, .cwy, .cip, .dma, .mbx, .pwr, .sea, .upd, .cus, .clk,
    .boot, .tmon] s t := by
  refine ⟨_, rfl, ?_⟩
  repeat' (first | with_reducible exact Touches.refl _ _ | dsimp only
                 | with_reducible apply Touches.trans ?_ (Touches.mono (wr_touch _ _ _ _) (by decide))
                 | with_reducible apply Touches.trans ?_ (Touches.mono (begin_touch ..) (by decide))
                 | with_reducible apply Touches.trans ?_ (Touches.mono (powerOnReset_touch ..) (by decide))
                 | with_reducible apply Touches.trans ?_ (Touches.mono (programBoard_touch ..) (by decide))
                 | with_reducible apply Touches.trans ?_ (Touches.mono (testMode_touch ..) (by decide))
                 | simp only [touches_mk]; with_reducible refine Touches.made (h := ?_) | (split))

theorem execRailOutOfRange_touch (rail : Fin 8) (s : State) : ∃ t, execRailOutOfRange rail s = .next t ∧ Touches [.regs,
    .out, .glb, .peat, .cfg, .ret, .map, .fen, .ldpc, .hew, .ucs, .seam, .mere, .nvq, .slu, .hif, .fab, .cwy, .cip, .dma,
    .mbx, .pwr, .sea, .upd, .cus, .clk, .boot, .tmon] s t := by
  refine ⟨_, rfl, ?_⟩
  repeat' (first | with_reducible exact Touches.refl _ _ | dsimp only
                 | with_reducible apply Touches.trans ?_ (Touches.mono (wr_touch _ _ _ _) (by decide))
                 | with_reducible apply Touches.trans ?_ (Touches.mono (begin_touch ..) (by decide))
                 | with_reducible apply Touches.trans ?_ (Touches.mono (resetState_touch ..) (by decide))
                 | simp only [touches_mk]; with_reducible refine Touches.made (h := ?_))

theorem execJtagTapReset_touch (s : State) : ∃ t, execJtagTapReset s = .next t ∧ Touches [.out] s t := by
  refine ⟨_, rfl, ?_⟩
  repeat' (first | with_reducible exact Touches.refl _ _
                 | with_reducible apply Touches.trans ?_ (Touches.mono (begin_touch ..) (by decide)))

theorem execRefclkCheck_touch (clock : RefClock) (ok : Bool) (s : State) : ∃ t, execRefclkCheck clock ok s = .next t ∧
    Touches [.regs, .free, .out, .glb, .peat, .cfg, .ret, .map, .seam, .mere, .nvq, .slu, .hif, .dma, .clk] s t := by
  refine ⟨_, rfl, ?_⟩
  repeat' (first | with_reducible exact Touches.refl _ _ | dsimp only | with_reducible apply Touches.ite ?_ ?_
                 | with_reducible apply Touches.trans ?_ (Touches.mono (wr_touch _ _ _ _) (by decide))
                 | with_reducible apply Touches.trans ?_ (Touches.mono (begin_touch ..) (by decide))
                 | with_reducible apply Touches.trans ?_ (Touches.mono (glbRefresh_touch ..) (by decide))
                 | with_reducible apply Touches.trans ?_ (Touches.mono (clkPresent_touch ..) (by decide))
                 | with_reducible apply Touches.trans ?_ (Touches.mono (clkLock_touch ..) (by decide))
                 | with_reducible apply Touches.trans ?_ (Touches.mono (clkLoss_touch ..) (by decide))
                 | simp only [touches_mk]; with_reducible refine Touches.made (h := ?_))

theorem execSysPllUnlock_touch (pll : Fin 3) (s : State) : ∃ t, execSysPllUnlock pll s = .next t ∧ Touches [.regs, .free,
    .out, .glb, .peat, .cfg, .ret, .map, .fen, .ldpc, .hew, .ucs, .seam, .mere, .nvq, .slu, .hif, .fab, .cwy, .cip, .dma,
    .mbx, .pwr, .sea, .upd, .cus, .clk, .boot, .tmon] s t := by
  refine ⟨_, rfl, ?_⟩
  repeat' (first | with_reducible exact Touches.refl _ _ | with_reducible apply Touches.ite ?_ ?_
                 | with_reducible apply Touches.trans ?_ (Touches.mono (wr_touch _ _ _ _) (by decide))
                 | with_reducible apply Touches.trans ?_ (Touches.mono (wrBit_touch _ _ _ _ _) (by decide))
                 | with_reducible apply Touches.trans ?_ (Touches.mono (begin_touch ..) (by decide))
                 | with_reducible apply Touches.trans ?_ (Touches.mono (askReset_touch ..) (by decide)))

theorem execCrystalStop_touch (s : State) : ∃ t, execCrystalStop s = .next t ∧ Touches [.regs, .out, .life] s t := by
  refine ⟨_, rfl, ?_⟩
  repeat' (first | with_reducible exact Touches.refl _ _ | dsimp only
                 | with_reducible apply Touches.trans ?_ (Touches.mono (wr_touch _ _ _ _) (by decide))
                 | with_reducible apply Touches.trans ?_ (Touches.mono (begin_touch ..) (by decide))
                 | simp only [touches_mk]; with_reducible refine Touches.made (h := ?_))

theorem execCrystalRestart_touch (s : State) : ∃ t, execCrystalRestart s = .next t ∧ Touches [.regs, .out, .life] s t := by
  refine ⟨_, rfl, ?_⟩
  repeat' (first | with_reducible exact Touches.refl _ _ | dsimp only
                 | with_reducible apply Touches.trans ?_ (Touches.mono (wr_touch _ _ _ _) (by decide))
                 | with_reducible apply Touches.trans ?_ (Touches.mono (begin_touch ..) (by decide))
                 | simp only [touches_mk]; with_reducible refine Touches.made (h := ?_))

theorem execCalendarTick_touch (s : State) : ∃ t, execCalendarTick s = .next t ∧ Touches [.regs, .out, .life] s t := by
  refine ⟨_, rfl, ?_⟩
  repeat' (first | with_reducible exact Touches.refl _ _ | dsimp only
                 | with_reducible apply Touches.trans ?_ (Touches.mono (wr_touch _ _ _ _) (by decide))
                 | with_reducible apply Touches.trans ?_ (Touches.mono (begin_touch ..) (by decide))
                 | simp only [touches_mk]; with_reducible refine Touches.made (h := ?_)
                 | with_reducible apply Touches.trans ?_ (eachOf_touch _ _ _ ?_) | (intro _))

theorem execSessionResponseWrite_touch (word : Word) (s : State) : ∃ t, execSessionResponseWrite word s = .next t ∧ Touches
    [.regs, .free, .out, .peat, .cfg, .cus] s t := by
  refine ⟨_, rfl, ?_⟩
  repeat' (first | with_reducible exact Touches.refl _ _
                 | with_reducible apply Touches.trans ?_ (Touches.mono (begin_touch ..) (by decide))
                 | with_reducible apply Touches.trans ?_ (Touches.mono (sessionWord_touch ..) (by decide)))

theorem execCustodianNonceTimer_touch (s : State) : ∃ t, execCustodianNonceTimer s = .next t ∧ Touches [.free, .out, .cus] s
    t := by
  refine ⟨_, rfl, ?_⟩
  repeat' (first | with_reducible exact Touches.refl _ _
                 | with_reducible apply Touches.trans ?_ (Touches.mono (begin_touch ..) (by decide))
                 | with_reducible apply Touches.trans ?_ (Touches.mono (cusNonce_touch ..) (by decide)))

theorem execSessionLockoutEnd_touch (s : State) : ∃ t, execSessionLockoutEnd s = .next t ∧ Touches [.out, .cus] s t := by
  refine ⟨_, rfl, ?_⟩
  repeat' (first | with_reducible exact Touches.refl _ _ | dsimp only | with_reducible apply Touches.ite ?_ ?_
                 | with_reducible apply Touches.trans ?_ (Touches.mono (begin_touch ..) (by decide))
                 | simp only [touches_mk]; with_reducible refine Touches.made (h := ?_))

theorem execSessionIdleTimeout_touch (s : State) : ∃ t, execSessionIdleTimeout s = .next t ∧ Touches [.regs, .out, .cfg,
    .cus] s t := by
  refine ⟨_, rfl, ?_⟩
  repeat' (first | with_reducible exact Touches.refl _ _ | with_reducible apply Touches.ite ?_ ?_
                 | with_reducible apply Touches.trans ?_ (Touches.mono (wr_touch _ _ _ _) (by decide))
                 | with_reducible apply Touches.trans ?_ (Touches.mono (begin_touch ..) (by decide))
                 | with_reducible apply Touches.trans ?_ (Touches.mono (closeSession_touch ..) (by decide)))

theorem execSessionClose_touch (s : State) : ∃ t, execSessionClose s = .next t ∧ Touches [.out, .cfg, .cus] s t := by
  refine ⟨_, rfl, ?_⟩
  repeat' (first | with_reducible exact Touches.refl _ _
                 | with_reducible apply Touches.trans ?_ (Touches.mono (begin_touch ..) (by decide))
                 | with_reducible apply Touches.trans ?_ (Touches.mono (sessionClose_touch ..) (by decide)))

theorem execLifeRead_touch (s : State) : ∃ t, execLifeRead s = .next t ∧ Touches [.regs, .free, .out, .peat, .cus] s t := by
  refine ⟨_, rfl, ?_⟩
  repeat' (first | with_reducible exact Touches.refl _ _
                 | with_reducible apply Touches.trans ?_ (Touches.mono (begin_touch ..) (by decide))
                 | with_reducible apply Touches.trans ?_ (Touches.mono (taskLifeRead_touch ..) (by decide))
                 | with_reducible apply Touches.trans ?_ (taskGo_touch (hp := by decide) (hf := ?_) ..) | (intro _))

theorem execLifeSetUtc_touch (s : State) : ∃ t, execLifeSetUtc s = .next t ∧ Touches [.regs, .free, .out, .peat, .life, .cus]
    s t := by
  refine ⟨_, rfl, ?_⟩
  repeat' (first | with_reducible exact Touches.refl _ _
                 | with_reducible apply Touches.trans ?_ (Touches.mono (begin_touch ..) (by decide))
                 | with_reducible apply Touches.trans ?_ (Touches.mono (taskLifeSetUtc_touch ..) (by decide))
                 | with_reducible apply Touches.trans ?_ (taskGo_touch (hp := by decide) (hf := ?_) ..) | (intro _))

theorem execSealTask_touch (s : State) : ∃ t, execSealTask s = .next t ∧ Touches [.regs, .free, .out, .peat, .cfg, .ldpc,
    .ucs, .nvq, .sea, .cus] s t := by
  refine ⟨_, rfl, ?_⟩
  repeat' (first | with_reducible exact Touches.refl _ _
                 | with_reducible apply Touches.trans ?_ (Touches.mono (begin_touch ..) (by decide))
                 | with_reducible apply Touches.trans ?_ (Touches.mono (taskSeal_touch ..) (by decide))
                 | with_reducible apply Touches.trans ?_ (taskGo_touch (hp := by decide) (hf := ?_) ..) | (intro _))

theorem execEscrowImport_touch (ok : Bool) (s : State) : ∃ t, execEscrowImport ok s = .next t ∧ Touches [.regs, .free, .out, .peat,
    .map, .mere, .nvq, .cip, .cus] s t := by
  refine ⟨_, rfl, ?_⟩
  repeat' (first | with_reducible exact Touches.refl _ _ | dsimp only | with_reducible apply Touches.ite ?_ ?_
                 | with_reducible apply Touches.trans ?_ (taskGo_touch (hp := by decide) (hf := ?_) ..)
                 | with_reducible apply Touches.trans ?_ (Touches.mono (taskEscrowImport_touch ..) (by decide))
                 | with_reducible apply Touches.trans ?_ (Touches.mono (begin_touch ..) (by decide))
                 | simp only [touches_mk]; with_reducible refine Touches.made (h := ?_) | (intro _) | (split))

theorem execEscrowExport_touch (s : State) : ∃ t, execEscrowExport s = .next t ∧ Touches [.regs, .free, .out, .peat, .cus] s
    t := by
  refine ⟨_, rfl, ?_⟩
  repeat' (first | with_reducible exact Touches.refl _ _
                 | with_reducible apply Touches.trans ?_ (Touches.mono (begin_touch ..) (by decide))
                 | with_reducible apply Touches.trans ?_ (Touches.mono (taskEscrowExport_touch ..) (by decide))
                 | with_reducible apply Touches.trans ?_ (taskGo_touch (hp := by decide) (hf := ?_) ..) | (intro _))

theorem execMemberRetire_touch (s : State) : ∃ t, execMemberRetire s = .next t ∧ Touches [.regs, .free, .out, .glb, .peat,
    .fen, .nvq, .cus] s t := by
  refine ⟨_, rfl, ?_⟩
  repeat' (first | with_reducible exact Touches.refl _ _
                 | with_reducible apply Touches.trans ?_ (Touches.mono (begin_touch ..) (by decide))
                 | with_reducible apply Touches.trans ?_ (Touches.mono (taskMemberRetire_touch ..) (by decide))
                 | with_reducible apply Touches.trans ?_ (taskGo_touch (hp := by decide) (hf := ?_) ..) | (intro _))

theorem execMemberHotadd_touch (cal : CalRow) (good : Bool) (s : State) : ∃ t, execMemberHotadd cal good s = .next t ∧
    Touches [.regs, .free, .out, .glb, .peat, .ret, .map, .fen, .hew, .seam, .mere, .nvq, .slu, .cus] s t := by
  refine ⟨_, rfl, ?_⟩
  repeat' (first | with_reducible exact Touches.refl _ _
                 | with_reducible apply Touches.trans ?_ (Touches.mono (begin_touch ..) (by decide))
                 | with_reducible apply Touches.trans ?_ (Touches.mono (taskMemberHotadd_touch ..) (by decide))
                 | with_reducible apply Touches.trans ?_ (taskGo_touch (hp := by decide) (hf := ?_) ..) | (intro _))

theorem execDrainDone_touch (link : Link) (s : State) : ∃ t, execDrainDone link s = .next t ∧ Touches [.regs, .free,
    .out, .glb, .map, .fen, .mere, .nvq] s t := by
  refine ⟨_, rfl, ?_⟩
  repeat' (first | with_reducible exact Touches.refl _ _ | dsimp only | with_reducible apply Touches.ite ?_ ?_
                 | with_reducible apply Touches.trans ?_ (Touches.mono (begin_touch ..) (by decide))
                 | with_reducible apply Touches.trans ?_ (Touches.mono (makeDurable_touch ..) (by decide))
                 | with_reducible apply Touches.trans ?_ (Touches.mono (journal_touch ..) (by decide))
                 | with_reducible apply Touches.trans ?_ (Touches.mono (seamSet_touch ..) (by decide))
                 | with_reducible apply Touches.trans ?_ (Touches.mono (emit_touch ..) (by decide))
                 | with_reducible apply Touches.trans ?_ (Touches.mono (wr_touch _ _ _ _) (by decide))
                 | with_reducible apply Touches.trans ?_ (Touches.mono (limitNote_touch ..) (by decide))
                 | with_reducible apply Touches.trans ?_ (Touches.mono (fenRefresh_touch ..) (by decide))
                 | simp only [touches_mk]; with_reducible refine Touches.made (h := ?_) | (intro _) | (split))

theorem execPeatExport_touch (s : State) : ∃ t, execPeatExport s = .next t ∧ Touches [.regs, .free, .out, .peat, .cus] s t := by
  refine ⟨_, rfl, ?_⟩
  repeat' (first | with_reducible exact Touches.refl _ _
                 | with_reducible apply Touches.trans ?_ (Touches.mono (begin_touch ..) (by decide))
                 | with_reducible apply Touches.trans ?_ (Touches.mono (taskPeatExport_touch ..) (by decide))
                 | with_reducible apply Touches.trans ?_ (taskGo_touch (hp := by decide) (hf := ?_) ..) | (intro _))

theorem execManifest_touch (s : State) : ∃ t, execManifest s = .next t ∧ Touches [.regs, .free, .out, .peat, .cus] s t := by
  refine ⟨_, rfl, ?_⟩
  repeat' (first | with_reducible exact Touches.refl _ _
                 | with_reducible apply Touches.trans ?_ (Touches.mono (begin_touch ..) (by decide))
                 | with_reducible apply Touches.trans ?_ (Touches.mono (taskManifest_touch ..) (by decide))
                 | with_reducible apply Touches.trans ?_ (taskGo_touch (hp := by decide) (hf := ?_) ..) | (intro _))

theorem execImageWrite_touch (piece : Piece) (s : State) : ∃ t, execImageWrite piece s = .next t ∧ Touches [.regs, .free,
    .out, .peat, .cfg, .upd, .cus] s t := by
  refine ⟨_, rfl, ?_⟩
  repeat' (first | with_reducible exact Touches.refl _ _
                 | with_reducible apply Touches.trans ?_ (Touches.mono (begin_touch ..) (by decide))
                 | with_reducible apply Touches.trans ?_ (Touches.mono (taskImageWrite_touch ..) (by decide))
                 | with_reducible apply Touches.trans ?_ (taskGo_touch (hp := by decide) (hf := ?_) ..) | (intro _))

theorem execTwimaPromote_touch (s : State) : ∃ t, execTwimaPromote s = .next t ∧ Touches [.regs, .free, .out, .glb, .peat,
    .cfg, .ret, .map, .fen, .ldpc, .hew, .ucs, .seam, .mere, .nvq, .slu, .hif, .fab, .cip, .dma, .mbx, .pwr, .sea, .upd,
    .cus, .boot] s t := by
  refine ⟨_, rfl, ?_⟩
  repeat' (first | with_reducible exact Touches.refl _ _
                 | with_reducible apply Touches.trans ?_ (Touches.mono (begin_touch ..) (by decide))
                 | with_reducible apply Touches.trans ?_ (Touches.mono (taskTwimaPromote_touch ..) (by decide))
                 | with_reducible apply Touches.trans ?_ (taskGo_touch (hp := by decide) (hf := ?_) ..) | (intro _))

theorem execFwCommitTask_touch (s : State) : ∃ t, execFwCommitTask s = .next t ∧ Touches [.regs, .free, .out, .peat, .cfg,
    .nvq, .upd, .cus] s t := by
  refine ⟨_, rfl, ?_⟩
  repeat' (first | with_reducible exact Touches.refl _ _ | with_reducible apply Touches.ite ?_ ?_
                 | with_reducible apply Touches.trans ?_ (Touches.mono (begin_touch ..) (by decide))
                 | with_reducible apply Touches.trans ?_ (Touches.mono (fwCommit_touch ..) (by decide))
                 | with_reducible apply Touches.trans ?_ (Touches.mono (taskFwCommit_touch ..) (by decide))
                 | with_reducible apply Touches.trans ?_ (taskGo_touch (hp := by decide) (hf := ?_) ..) | (intro _))

theorem execRetireOld_touch (s : State) : ∃ t, execRetireOld s = .next t ∧ Touches [.regs, .free, .out, .peat, .cfg, .upd,
    .cus] s t := by
  refine ⟨_, rfl, ?_⟩
  repeat' (first | with_reducible exact Touches.refl _ _
                 | with_reducible apply Touches.trans ?_ (Touches.mono (begin_touch ..) (by decide))
                 | with_reducible apply Touches.trans ?_ (Touches.mono (taskRetireOld_touch ..) (by decide))
                 | with_reducible apply Touches.trans ?_ (taskGo_touch (hp := by decide) (hf := ?_) ..) | (intro _))

theorem execPeerSet_touch (ok : Bool) (s : State) : ∃ t, execPeerSet ok s = .next t ∧ Touches [.regs, .free, .out, .peat, .cwy, .cus] s
    t := by
  refine ⟨_, rfl, ?_⟩
  repeat' (first | with_reducible exact Touches.refl _ _ | dsimp only | with_reducible apply Touches.ite ?_ ?_
                 | with_reducible apply Touches.trans ?_ (taskGo_touch (hp := by decide) (hf := ?_) ..)
                 | with_reducible apply Touches.trans ?_ (Touches.mono (taskPeerSet_touch ..) (by decide))
                 | with_reducible apply Touches.trans ?_ (Touches.mono (begin_touch ..) (by decide))
                 | simp only [touches_mk]; with_reducible refine Touches.made (h := ?_) | (intro _) | (split))

theorem execChainStart_touch (s : State) : ∃ t, execChainStart s = .next t ∧ Touches [.regs, .free, .out, .peat, .cwy, .cus]
    s t := by
  refine ⟨_, rfl, ?_⟩
  repeat' (first | with_reducible exact Touches.refl _ _
                 | with_reducible apply Touches.trans ?_ (Touches.mono (begin_touch ..) (by decide))
                 | with_reducible apply Touches.trans ?_ (Touches.mono (taskDone_touch ..) (by decide))
                 | with_reducible apply Touches.trans ?_ (Touches.mono (chainStart_touch ..) (by decide))
                 | with_reducible apply Touches.trans ?_ (taskGo_touch (hp := by decide) (hf := ?_) ..) | (intro _))

theorem execMigExport_touch (s : State) : ∃ t, execMigExport s = .next t ∧ Touches [.regs, .free, .out, .peat, .cwy, .cus] s
    t := by
  refine ⟨_, rfl, ?_⟩
  repeat' (first | with_reducible exact Touches.refl _ _
                 | with_reducible apply Touches.trans ?_ (Touches.mono (begin_touch ..) (by decide))
                 | with_reducible apply Touches.trans ?_ (Touches.mono (taskDone_touch ..) (by decide))
                 | with_reducible apply Touches.trans ?_ (Touches.mono (migExport_touch ..) (by decide))
                 | with_reducible apply Touches.trans ?_ (taskGo_touch (hp := by decide) (hf := ?_) ..) | (intro _))

theorem execMigImport_touch (s : State) : ∃ t, execMigImport s = .next t ∧ Touches [.regs, .free, .out, .peat, .cwy, .cus] s
    t := by
  refine ⟨_, rfl, ?_⟩
  repeat' (first | with_reducible exact Touches.refl _ _
                 | with_reducible apply Touches.trans ?_ (Touches.mono (begin_touch ..) (by decide))
                 | with_reducible apply Touches.trans ?_ (Touches.mono (taskDone_touch ..) (by decide))
                 | with_reducible apply Touches.trans ?_ (Touches.mono (migImport_touch ..) (by decide))
                 | with_reducible apply Touches.trans ?_ (taskGo_touch (hp := by decide) (hf := ?_) ..) | (intro _))

theorem execMigFreeze_touch (s : State) : ∃ t, execMigFreeze s = .next t ∧ Touches [.regs, .free, .out, .peat, .nvq, .cwy,
    .cus] s t := by
  refine ⟨_, rfl, ?_⟩
  repeat' (first | with_reducible exact Touches.refl _ _
                 | with_reducible apply Touches.trans ?_ (Touches.mono (begin_touch ..) (by decide))
                 | with_reducible apply Touches.trans ?_ (Touches.mono (taskDone_touch ..) (by decide))
                 | with_reducible apply Touches.trans ?_ (Touches.mono (migFreeze_touch ..) (by decide))
                 | with_reducible apply Touches.trans ?_ (taskGo_touch (hp := by decide) (hf := ?_) ..) | (intro _))

theorem execDeviceReset_touch (s : State) : ∃ t, execDeviceReset s = .next t ∧ Touches [.regs, .free, .out, .glb, .peat,
    .cfg, .ret, .map, .fen, .ldpc, .hew, .ucs, .seam, .mere, .nvq, .slu, .hif, .fab, .cwy, .cip, .dma, .mbx, .pwr, .sea,
    .upd, .cus, .clk, .boot, .tmon] s t := by
  refine ⟨_, rfl, ?_⟩
  repeat' (first | with_reducible exact Touches.refl _ _
                 | with_reducible apply Touches.trans ?_ (Touches.mono (begin_touch ..) (by decide))
                 | with_reducible apply Touches.trans ?_ (Touches.mono (taskDeviceReset_touch ..) (by decide))
                 | with_reducible apply Touches.trans ?_ (taskGo_touch (hp := by decide) (hf := ?_) ..) | (intro _))

theorem execConfigRequest_touch (link : PcieLink) (func : BitVec 8) (write : Bool) (reg : BitVec 12) (value : Word) (enables
    : BitVec 4) (s : State) : ∃ t, execConfigRequest link func write reg value enables s = .next t ∧ Touches [.regs, .free,
    .out, .glb, .peat, .cfg, .ret, .map, .mere, .nvq, .slu, .hif, .dma] s t := by
  refine ⟨_, rfl, ?_⟩
  repeat' (first | with_reducible exact Touches.refl _ _ | with_reducible apply Touches.ite ?_ ?_
                 | with_reducible apply Touches.trans ?_ (Touches.mono (begin_touch ..) (by decide))
                 | with_reducible apply Touches.trans ?_ (Touches.mono (emit_touch ..) (by decide))
                 | with_reducible apply Touches.trans ?_ (Touches.mono (cfgWrite_touch ..) (by decide)))

theorem execNumvfsWrite_touch (link : PcieLink) (pf : Fin 4) (value : Nat) (s : State) : ∃ t, execNumvfsWrite link pf value s
    = .next t ∧ Touches [.out, .hif] s t := by
  refine ⟨_, rfl, ?_⟩
  repeat' (first | with_reducible exact Touches.refl _ _
                 | with_reducible apply Touches.trans ?_ (Touches.mono (begin_touch ..) (by decide))
                 | with_reducible apply Touches.trans ?_ (Touches.mono (numVfsWrite_touch ..) (by decide)))

theorem execVfEnable_touch (link : PcieLink) (pf : Fin 4) (enable : Bool) (s : State) : ∃ t, execVfEnable link pf enable s =
    .next t ∧ Touches [.regs, .free, .out, .glb, .peat, .cfg, .ret, .map, .mere, .nvq, .slu, .hif, .dma] s t := by
  refine ⟨_, rfl, ?_⟩
  repeat' (first | with_reducible exact Touches.refl _ _
                 | with_reducible apply Touches.trans ?_ (Touches.mono (begin_touch ..) (by decide))
                 | with_reducible apply Touches.trans ?_ (Touches.mono (vfEnableWrite_touch ..) (by decide)))

theorem execDoeDiscovery_touch (link : PcieLink) (index : BitVec 8) (s : State) : ∃ t, execDoeDiscovery link index s = .next
    t ∧ Touches [.out, .hif] s t := by
  refine ⟨_, rfl, ?_⟩
  repeat' (first | with_reducible exact Touches.refl _ _
                 | with_reducible apply Touches.trans ?_ (Touches.mono (begin_touch ..) (by decide))
                 | with_reducible apply Touches.trans ?_ (Touches.mono (doeSend_touch ..) (by decide)))

theorem execDoeAbort_touch (link : PcieLink) (s : State) : ∃ t, execDoeAbort link s = .next t ∧ Touches [.out, .hif] s t := by
  refine ⟨_, rfl, ?_⟩
  repeat' (first | with_reducible exact Touches.refl _ _
                 | with_reducible apply Touches.trans ?_ (Touches.mono (begin_touch ..) (by decide))
                 | with_reducible apply Touches.trans ?_ (Touches.mono (doeAbort_touch ..) (by decide)))

theorem execGetVersion_touch (link : PcieLink) (s : State) : ∃ t, execGetVersion link s = .next t ∧ Touches [.out, .hif] s t
    := by
  refine ⟨_, rfl, ?_⟩
  repeat' (first | with_reducible exact Touches.refl _ _
                 | with_reducible apply Touches.trans ?_ (Touches.mono (begin_touch ..) (by decide))
                 | with_reducible apply Touches.trans ?_ (Touches.mono (doeSend_touch ..) (by decide))
                 | with_reducible apply Touches.trans ?_ (Touches.mono (spdmSet_touch ..) (by decide)))

theorem execGetCapabilities_touch (link : PcieLink) (s : State) : ∃ t, execGetCapabilities link s = .next t ∧ Touches [.out,
    .hif] s t := by
  refine ⟨_, rfl, ?_⟩
  repeat' (first | with_reducible exact Touches.refl _ _ | with_reducible apply Touches.ite ?_ ?_
                 | with_reducible apply Touches.trans ?_ (Touches.mono (begin_touch ..) (by decide))
                 | with_reducible apply Touches.trans ?_ (Touches.mono (doeSend_touch ..) (by decide))
                 | with_reducible apply Touches.trans ?_ (Touches.mono (spdmError_touch ..) (by decide))
                 | with_reducible apply Touches.trans ?_ (Touches.mono (spdmSet_touch ..) (by decide)))

theorem execNegotiateAlgorithms_touch (link : PcieLink) (s : State) : ∃ t, execNegotiateAlgorithms link s = .next t ∧ Touches
    [.out, .hif] s t := by
  refine ⟨_, rfl, ?_⟩
  repeat' (first | with_reducible exact Touches.refl _ _ | with_reducible apply Touches.ite ?_ ?_
                 | with_reducible apply Touches.trans ?_ (Touches.mono (begin_touch ..) (by decide))
                 | with_reducible apply Touches.trans ?_ (Touches.mono (doeSend_touch ..) (by decide))
                 | with_reducible apply Touches.trans ?_ (Touches.mono (spdmError_touch ..) (by decide))
                 | with_reducible apply Touches.trans ?_ (Touches.mono (spdmSet_touch ..) (by decide)))

theorem execGetDigests_touch (link : PcieLink) (s : State) : ∃ t, execGetDigests link s = .next t ∧ Touches [.out, .hif] s t
    := by
  refine ⟨_, rfl, ?_⟩
  repeat' (first | with_reducible exact Touches.refl _ _
                 | with_reducible apply Touches.trans ?_ (Touches.mono (begin_touch ..) (by decide))
                 | with_reducible apply Touches.trans ?_ (Touches.mono (spdmAt_touch ..) (by decide)))

theorem execGetCertificate_touch (link : PcieLink) (slot : BitVec 4) (off len : Nat) (s : State) : ∃ t, execGetCertificate
    link slot off len s = .next t ∧ Touches [.out, .hif] s t := by
  refine ⟨_, rfl, ?_⟩
  repeat' (first | with_reducible exact Touches.refl _ _ | with_reducible apply Touches.ite ?_ ?_
                 | with_reducible apply Touches.trans ?_ (Touches.mono (begin_touch ..) (by decide))
                 | with_reducible apply Touches.trans ?_ (Touches.mono (spdmError_touch ..) (by decide))
                 | with_reducible apply Touches.trans ?_ (Touches.mono (spdmAt_touch ..) (by decide)))

theorem execChallenge_touch (link : PcieLink) (slot : BitVec 4) (nonce : Nat) (s : State) : ∃ t, execChallenge link slot
    nonce s = .next t ∧ Touches [.out, .hif] s t := by
  refine ⟨_, rfl, ?_⟩
  repeat' (first | with_reducible exact Touches.refl _ _ | with_reducible apply Touches.ite ?_ ?_
                 | with_reducible apply Touches.trans ?_ (Touches.mono (begin_touch ..) (by decide))
                 | with_reducible apply Touches.trans ?_ (Touches.mono (spdmError_touch ..) (by decide))
                 | with_reducible apply Touches.trans ?_ (Touches.mono (spdmAt_touch ..) (by decide)))

theorem execGetMeasurements_touch (link : PcieLink) (index : BitVec 8) (s : State) : ∃ t, execGetMeasurements link index s =
    .next t ∧ Touches [.out, .hif] s t := by
  refine ⟨_, rfl, ?_⟩
  repeat' (first | with_reducible exact Touches.refl _ _ | with_reducible apply Touches.ite ?_ ?_
                 | with_reducible apply Touches.trans ?_ (Touches.mono (begin_touch ..) (by decide))
                 | with_reducible apply Touches.trans ?_ (Touches.mono (spdmError_touch ..) (by decide))
                 | with_reducible apply Touches.trans ?_ (Touches.mono (spdmAt_touch ..) (by decide)))

theorem execPoisonedTlpReceived_touch (link : PcieLink) (func : BitVec 8) (chan : Option (Fin 64)) (s : State) : ∃ t,
    execPoisonedTlpReceived link func chan s = .next t ∧ Touches [.regs, .free, .out, .nvq, .hif, .dma] s t := by
  refine ⟨_, rfl, ?_⟩
  repeat' (first | with_reducible exact Touches.refl _ _
                 | with_reducible apply Touches.trans ?_ (Touches.mono (wr_touch _ _ _ _) (by decide))
                 | with_reducible apply Touches.trans ?_ (Touches.mono (begin_touch ..) (by decide))
                 | with_reducible apply Touches.trans ?_ (Touches.mono (aerUncorr_touch ..) (by decide))
                 | with_reducible apply Touches.trans ?_ (Touches.mono (aerCorr_touch ..) (by decide))
                 | with_reducible apply Touches.trans ?_ (Touches.mono (hostReadError_touch ..) (by decide)) | (split))

theorem execCompletionTimeout_touch (link : PcieLink) (func : BitVec 8) (chan : Fin 64) (s : State) : ∃ t,
    execCompletionTimeout link func chan s = .next t ∧ Touches [.regs, .free, .out, .nvq, .hif, .dma] s t := by
  refine ⟨_, rfl, ?_⟩
  repeat' (first | with_reducible exact Touches.refl _ _
                 | with_reducible apply Touches.trans ?_ (Touches.mono (begin_touch ..) (by decide))
                 | with_reducible apply Touches.trans ?_ (Touches.mono (aerUncorr_touch ..) (by decide))
                 | with_reducible apply Touches.trans ?_ (Touches.mono (hostReadError_touch ..) (by decide)))

theorem execUnexpectedCompletion_touch (link : PcieLink) (func : BitVec 8) (s : State) : ∃ t, execUnexpectedCompletion link
    func s = .next t ∧ Touches [.regs, .out, .hif] s t := by
  refine ⟨_, rfl, ?_⟩
  repeat' (first | with_reducible exact Touches.refl _ _
                 | with_reducible apply Touches.trans ?_ (Touches.mono (begin_touch ..) (by decide))
                 | with_reducible apply Touches.trans ?_ (Touches.mono (aerUncorr_touch ..) (by decide)))

theorem execEcrcError_touch (link : PcieLink) (func : BitVec 8) (chan : Option (Fin 64)) (s : State) : ∃ t, execEcrcError
    link func chan s = .next t ∧ Touches [.regs, .free, .out, .nvq, .hif, .dma] s t := by
  refine ⟨_, rfl, ?_⟩
  repeat' (first | with_reducible exact Touches.refl _ _ | dsimp only | with_reducible apply Touches.ite ?_ ?_
                 | with_reducible apply Touches.trans ?_ (Touches.mono (begin_touch ..) (by decide))
                 | with_reducible apply Touches.trans ?_ (Touches.mono (aerUncorr_touch ..) (by decide))
                 | with_reducible apply Touches.trans ?_ (Touches.mono (hostReadError_touch ..) (by decide)) | (split))

theorem execLinkProtocolError_touch (link : PcieLink) (func : BitVec 8) (s : State) : ∃ t, execLinkProtocolError link func s
    = .next t ∧ Touches [.regs, .free, .out, .glb, .peat, .ret, .map, .mere, .nvq, .slu, .hif, .dma] s t := by
  refine ⟨_, rfl, ?_⟩
  repeat' (first | with_reducible exact Touches.refl _ _
                 | with_reducible apply Touches.trans ?_ (Touches.mono (begin_touch ..) (by decide))
                 | with_reducible apply Touches.trans ?_ (Touches.mono (resetLost_touch ..) (by decide))
                 | with_reducible apply Touches.trans ?_ (Touches.mono (aerUncorr_touch ..) (by decide))
                 | with_reducible apply Touches.trans ?_ (eachOf_touch _ _ _ ?_) | (intro _))

theorem execFunctionLevelReset_touch (link : PcieLink) (func : BitVec 8) (s : State) : ∃ t, execFunctionLevelReset link func
    s = .next t ∧ Touches [.regs, .free, .out, .glb, .peat, .cfg, .ret, .map, .mere, .nvq, .slu, .hif, .dma] s t := by
  refine ⟨_, rfl, ?_⟩
  repeat' (first | with_reducible exact Touches.refl _ _ | with_reducible apply Touches.ite ?_ ?_
                 | with_reducible apply Touches.trans ?_ (Touches.mono (begin_touch ..) (by decide))
                 | with_reducible apply Touches.trans ?_ (Touches.mono (flr_touch ..) (by decide)))

theorem execPerstAssert_touch (port : Fin 4) (s : State) : ∃ t, execPerstAssert port s = .next t ∧ Touches [.regs, .free,
    .out, .glb, .peat, .cfg, .ret, .map, .mere, .nvq, .slu, .hif, .dma] s t := by
  refine ⟨_, rfl, ?_⟩
  repeat' (first | with_reducible exact Touches.refl _ _
                 | with_reducible apply Touches.trans ?_ (Touches.mono (begin_touch ..) (by decide))
                 | with_reducible apply Touches.trans ?_ (Touches.mono (linkDown_touch ..) (by decide)))

theorem execPcieLinkUp_touch (link : PcieLink) (width : Nat) (speed : Fin 7) (flit : Bool) (s : State) : ∃ t, execPcieLinkUp
    link width speed flit s = .next t ∧ Touches [.regs, .free, .out, .glb, .peat, .nvq] s t := by
  refine ⟨_, rfl, ?_⟩
  repeat' (first | with_reducible exact Touches.refl _ _ | dsimp only | with_reducible apply Touches.ite ?_ ?_
                 | with_reducible apply Touches.trans ?_ (Touches.mono (wr_touch _ _ _ _) (by decide))
                 | with_reducible apply Touches.trans ?_ (Touches.mono (wrB_touch _ _ _ _) (by decide))
                 | with_reducible apply Touches.trans ?_ (Touches.mono (wrBit_touch _ _ _ _ _) (by decide))
                 | with_reducible apply Touches.trans ?_ (Touches.mono (begin_touch ..) (by decide))
                 | with_reducible apply Touches.trans ?_ (Touches.mono (glbRefresh_touch ..) (by decide))
                 | with_reducible apply Touches.trans ?_ (Touches.mono (faultRestored_touch ..) (by decide))
                 | with_reducible apply Touches.trans ?_ (Touches.mono (portChange_touch ..) (by decide))
                 | with_reducible apply Touches.trans ?_ (Touches.mono (funcsNote_touch ..) (by decide))
                 | with_reducible apply Touches.trans ?_ (Touches.mono (degradedNote_touch ..) (by decide)))

theorem execPcieLinkDown_touch (link : PcieLink) (s : State) : ∃ t, execPcieLinkDown link s = .next t ∧ Touches [.regs,
    .free, .out, .glb, .peat, .cfg, .ret, .map, .mere, .nvq, .slu, .hif, .dma] s t := by
  refine ⟨_, rfl, ?_⟩
  repeat' (first | with_reducible exact Touches.refl _ _ | with_reducible apply Touches.ite ?_ ?_
                 | with_reducible apply Touches.trans ?_ (Touches.mono (begin_touch ..) (by decide))
                 | with_reducible apply Touches.trans ?_ (Touches.mono (linkDown_touch ..) (by decide)))

theorem execBusMasterEnableClear_touch (link : PcieLink) (func : BitVec 8) (s : State) : ∃ t, execBusMasterEnableClear link
    func s = .next t ∧ Touches [.regs, .free, .out, .glb, .peat, .ret, .map, .mere, .nvq, .slu, .hif, .dma] s t := by
  refine ⟨_, rfl, ?_⟩
  repeat' (first | with_reducible exact Touches.refl _ _ | with_reducible apply Touches.ite ?_ ?_
                 | with_reducible apply Touches.trans ?_ (Touches.mono (begin_touch ..) (by decide))
                 | with_reducible apply Touches.trans ?_ (Touches.mono (bmeClear_touch ..) (by decide)))

theorem execD3hotEntry_touch (link : PcieLink) (func : BitVec 8) (s : State) : ∃ t, execD3hotEntry link func s = .next t ∧
    Touches [.regs, .free, .out, .nvq, .slu, .hif] s t := by
  refine ⟨_, rfl, ?_⟩
  repeat' (first | with_reducible exact Touches.refl _ _ | with_reducible apply Touches.ite ?_ ?_
                 | with_reducible apply Touches.trans ?_ (Touches.mono (begin_touch ..) (by decide))
                 | with_reducible apply Touches.trans ?_ (Touches.mono (d3hot_touch ..) (by decide)))

theorem execPcieLinkRetrain_touch (link : PcieLink) (width : Nat) (speed : Fin 7) (s : State) : ∃ t, execPcieLinkRetrain link
    width speed s = .next t ∧ Touches [.regs, .out, .nvq] s t := by
  refine ⟨_, rfl, ?_⟩
  repeat' (first | with_reducible exact Touches.refl _ _ | dsimp only | with_reducible apply Touches.ite ?_ ?_
                 | with_reducible apply Touches.trans ?_ (Touches.mono (wr_touch _ _ _ _) (by decide))
                 | with_reducible apply Touches.trans ?_ (Touches.mono (count_touch _ _ _ _) (by decide))
                 | with_reducible apply Touches.trans ?_ (Touches.mono (begin_touch ..) (by decide))
                 | with_reducible apply Touches.trans ?_ (Touches.mono (portFollow_touch ..) (by decide))
                 | with_reducible apply Touches.trans ?_ (Touches.mono (degradedNote_touch ..) (by decide)))

theorem execRegisterWrite_touch (path : AccessPath) (off nbytes : Nat) (value : Word) (s : State) : ∃ t, execRegisterWrite
    path off nbytes value s = .next t ∧ Touches [.regs, .free, .readData, .out, .glb, .peat, .cfg, .life, .ret, .map, .fen,
    .ldpc, .hew, .ucs, .seam, .mere, .nvq, .slu, .hif, .fab, .cwy, .cip, .dma, .mbx, .pwr, .sea, .upd, .cus, .clk, .boot,
    .tmon] s t := by
  refine ⟨_, rfl, ?_⟩
  repeat' (first | with_reducible exact Touches.refl _ _
                 | with_reducible apply Touches.trans ?_ (Touches.mono (begin_touch ..) (by decide))
                 | with_reducible apply Touches.trans ?_ (Touches.mono (accessWrite_touch ..) (by decide)))

theorem execRcRead_touch (path : AccessPath) (off nbytes : Nat) (s : State) : ∃ t, execRcRead path off nbytes s = .next
    t ∧ Touches [.regs, .free, .readData, .out, .peat, .cfg, .life, .slu, .mbx, .cus] s t := by
  refine ⟨_, rfl, ?_⟩
  repeat' (first | with_reducible exact Touches.refl _ _
                 | with_reducible apply Touches.trans ?_ (Touches.mono (begin_touch ..) (by decide))
                 | with_reducible apply Touches.trans ?_ (Touches.mono (accessRead_touch ..) (by decide)))

theorem execLatchingRead_touch (path : AccessPath) (off : Nat) (s : State) : ∃ t, execLatchingRead path off s = .next t
    ∧ Touches [.regs, .free, .readData, .out, .peat, .cfg, .life, .slu, .mbx, .cus] s t := by
  refine ⟨_, rfl, ?_⟩
  repeat' (first | with_reducible exact Touches.refl _ _
                 | with_reducible apply Touches.trans ?_ (Touches.mono (begin_touch ..) (by decide))
                 | with_reducible apply Touches.trans ?_ (Touches.mono (accessRead_touch ..) (by decide)))

theorem execWindowRead_touch (s : State) : ∃ t, execWindowRead s = .next t ∧ Touches [.regs, .free, .readData, .out, .glb,
    .peat, .cfg, .life, .ret, .map, .fen, .ldpc, .hew, .ucs, .seam, .mere, .nvq, .slu, .hif, .fab, .cwy, .cip, .dma, .mbx,
    .pwr, .sea, .upd, .cus, .clk, .boot, .tmon] s t := by
  refine ⟨_, rfl, ?_⟩
  repeat' (first | with_reducible exact Touches.refl _ _
                 | with_reducible apply Touches.trans ?_ (Touches.mono (begin_touch ..) (by decide))
                 | with_reducible apply Touches.trans ?_ (Touches.mono (accessWrite_touch ..) (by decide)))

theorem execWindowWrite_touch (s : State) : ∃ t, execWindowWrite s = .next t ∧ Touches [.regs, .free, .readData, .out, .glb,
    .peat, .cfg, .life, .ret, .map, .fen, .ldpc, .hew, .ucs, .seam, .mere, .nvq, .slu, .hif, .fab, .cwy, .cip, .dma, .mbx,
    .pwr, .sea, .upd, .cus, .clk, .boot, .tmon] s t := by
  refine ⟨_, rfl, ?_⟩
  repeat' (first | with_reducible exact Touches.refl _ _
                 | with_reducible apply Touches.trans ?_ (Touches.mono (begin_touch ..) (by decide))
                 | with_reducible apply Touches.trans ?_ (Touches.mono (accessWrite_touch ..) (by decide)))

theorem execExpertWindowTlp_touch (link : PcieLink) (pf : Fin 4) (off nbytes : Nat) (write : Bool) (value : Nat) (s : State)
    : ∃ t, execExpertWindowTlp link pf off nbytes write value s = .next t ∧ Touches [.regs, .free, .readData, .out, .glb,
    .peat, .cfg, .life, .ret, .map, .fen, .ldpc, .hew, .ucs, .seam, .mere, .nvq, .slu, .hif, .fab, .cwy, .cip, .dma, .mbx,
    .pwr, .sea, .upd, .cus, .clk, .boot, .tmon] s t := by
  refine ⟨_, rfl, ?_⟩
  repeat' (first | with_reducible exact Touches.refl _ _ | with_reducible apply Touches.ite ?_ ?_
                 | with_reducible apply Touches.trans ?_ (Touches.mono (begin_touch ..) (by decide))
                 | with_reducible apply Touches.trans ?_ (Touches.mono (expertTlp_touch ..) (by decide))
                 | with_reducible apply Touches.trans ?_ (Touches.mono (memUnsupported_touch ..) (by decide)))

theorem execBarMemoryRequest_touch (link : PcieLink) (func : BitVec 8) (bar : Fin 6) (off len : Nat) (write : Bool) (value :
    Nat) (s : State) : ∃ t, execBarMemoryRequest link func bar off len write value s = .next t ∧ Touches [.regs, .free,
    .readData, .out, .glb, .peat, .cfg, .life, .ret, .map, .fen, .ldpc, .hew, .ucs, .seam, .mere, .nvq, .slu, .hif, .fab,
    .cwy, .cip, .dma, .mbx, .pwr, .sea, .upd, .cus, .clk, .boot, .tmon] s t := by
  refine ⟨_, rfl, Touches.trans ((begin_touch _).mono (by decide)) ?_⟩
  refine Touches.ite (Touches.refl _ _) (Touches.ite ((memUnsupported_touch ..).mono (by decide)) (Touches.ite
      ((expertTlp_touch ..).mono (by decide)) (Touches.ite ?_ ?_)))
  · exact writeDwords_touch _ _ _ _ (by decide) (fun _ _ _ _ => (barWrite_touch ..).mono (by decide))
  · exact Touches.trans (readDwords_touch _ _ _ (fun _ _ => (barRead_touch ..).mono (by decide))) ((emit_touch ..).mono (by
      decide))

theorem execJunctionSample_touch (temps : List (Option Int)) (s : State) : ∃ t, execJunctionSample temps s = .next t ∧
    Touches [.regs, .out, .glb, .tmon] s t := by
  refine ⟨_, rfl, ?_⟩
  repeat' (first | with_reducible exact Touches.refl _ _ | dsimp only
                 | with_reducible apply Touches.trans ?_ (Touches.mono (wr_touch _ _ _ _) (by decide))
                 | with_reducible apply Touches.trans ?_ (Touches.mono (begin_touch ..) (by decide))
                 | with_reducible apply Touches.trans ?_ (Touches.mono (glbRefresh_touch ..) (by decide))
                 | with_reducible apply Touches.trans ?_ (Touches.mono (sensorRegs_touch ..) (by decide))
                 | with_reducible apply Touches.trans ?_ (Touches.mono (thermState_touch ..) (by decide))
                 | with_reducible apply Touches.trans ?_ (Touches.mono (junctionNote_touch ..) (by decide))
                 | with_reducible apply Touches.trans ?_ (Touches.mono (thermAct_touch ..) (by decide))
                 | simp only [touches_mk]; with_reducible refine Touches.made (h := ?_) | (split))

theorem execThermalHoldEntry_touch (s : State) : ∃ t, execThermalHoldEntry s = .next t ∧ Touches [.regs, .out, .tmon] s t := by
  refine ⟨_, rfl, ?_⟩
  repeat' (first | with_reducible exact Touches.refl _ _ | dsimp only | with_reducible apply Touches.ite ?_ ?_
                 | with_reducible apply Touches.trans ?_ (Touches.mono (begin_touch ..) (by decide))
                 | with_reducible apply Touches.trans ?_ (Touches.mono (thermState_touch ..) (by decide))
                 | simp only [touches_mk]; with_reducible refine Touches.made (h := ?_) | (split))

theorem execSmbusReadByte_touch (cmd : BitVec 8) (s : State) : ∃ t, execSmbusReadByte cmd s = .next t ∧ Touches [.out] s t := by
  refine ⟨_, rfl, ?_⟩
  repeat' (first | with_reducible exact Touches.refl _ _ | with_reducible apply Touches.ite ?_ ?_
                 | with_reducible apply Touches.trans ?_ (Touches.mono (begin_touch ..) (by decide))
                 | with_reducible apply Touches.trans ?_ (Touches.mono (emit_touch ..) (by decide)))

theorem execSmbusWrite_touch (_cmd : BitVec 8) (s : State) : ∃ t, execSmbusWrite _cmd s = .next t ∧ Touches [.out] s t := by
  refine ⟨_, rfl, ?_⟩
  repeat' (first | with_reducible exact Touches.refl _ _
                 | with_reducible apply Touches.trans ?_ (Touches.mono (begin_touch ..) (by decide))
                 | with_reducible apply Touches.trans ?_ (Touches.mono (emit_touch ..) (by decide)))

end Sys2Proof.Machine
end

