-- ==== Sys2Proof/Machine/Flash.lean ====
section
/-! DEFINITION. The layout of the external boot flash (R624), over the state that each part of it stands in. -/

namespace Sys2Proof.Machine

open Sys2Proof

/-- A part of boot flash (R624). -/
inductive FlashArea where
  | twimaSlot (n : Nat) | fwSlot (n : Nat) | download | selection (copy : Nat) | journal | addresses | peers | escrow
  | slotRecord (copy : Nat) | reserved
  deriving DecidableEq, Repr

/-- The fixed layout: first byte, size and part, in ascending order (R624). -/
def flashMap : List (Nat × Nat × FlashArea) :=
  [(0x00000000, 0x1000000, .twimaSlot 0), (0x01000000, 0x1000000, .twimaSlot 1), (0x02000000, 0x1000000, .twimaSlot 2),
   (0x03000000, 0x2000000, .fwSlot 1), (0x05000000, 0x2000000, .fwSlot 2), (0x07000000, 0x2000000, .download),
   (0x09000000, 0x1000, .selection 0), (0x09001000, 0x1000, .selection 1), (0x09002000, 0x40000, .journal),
   (0x09042000, 0x10000, .addresses), (0x09052000, 0x10000, .peers), (0x09062000, 0x1000, .escrow),
   (0x09063000, 0x1000, .slotRecord 0), (0x09064000, 0x1000, .slotRecord 1)]

/-- The part that an offset lies in, and the offset within it; from 0x0906_5000 on it is reserved and never written. -/
def flashArea (off : Nat) : FlashArea × Nat :=
  match flashMap.find? (fun e => decide (e.1 ≤ off ∧ off < e.1 + e.2.1)) with
  | some e => (e.2.2, off - e.1)
  | none => (.reserved, off - 0x09065000)

/-- The boot journal (R621, R622): 64 bytes a record, START_NO modulo 4,096 its place in the ring (log entry 92). -/
def journalBytes (s : State) : Nat :=
  (s.boot.records.filter inFlash).foldl (fun a r => a + bootRecordBytes r * 2 ^ (512 * (r.startNo % 4096))) 0

/-- The bytes that a part holds, as a little-endian number; none where the manual gives its content but no bytes (R441, R468, R495,
R572): there the content is the state that the part names, and a reserved part holds nothing. -/
def flashBytes (s : State) (a : FlashArea) : Option Nat :=
  match a with
  | .twimaSlot n => some (Tab.get 0 s.cfg.slotBytes n)
  | .fwSlot n => some (Tab.get 0 s.upd.fwBytes n)
  | .download => some s.upd.buf
  | .journal => some (journalBytes s)
  | .slotRecord 0 => some (slotRecBytes s.cfg.rec0)
  | .slotRecord _ => some (slotRecBytes s.cfg.rec1)
  | .selection _ | .addresses | .peers | .escrow | .reserved => none

/-- A byte of boot flash, where the manual gives its layout. -/
def flashByte (s : State) (off : Nat) : Option Nat := (flashBytes s (flashArea off).1).map (fun v => byteField v (flashArea off).2 1)

end Sys2Proof.Machine
end

