-- ==== Sys2Proof/WellFormed.lean ====
section
/-! DEFINITION. Well-formed commands: the bounds that the manual puts on operands and that their types do not carry. -/

namespace Sys2Proof

/-- A controller number is 1 to 1,024 (R335). -/
def ctrlOk (c : CtrlId) : Bool := decide (1 ≤ c ∧ c ≤ 1024)

/-- A page of a member block is one of 2,048 (R9 of the media chapter, R65). -/
def pageOk (p : Nat) : Bool := decide (p < 2048)

/-- A Mere access is 1 to 64 bytes inside one 64-byte line, or whole words (R300, R305). -/
def mereLenOk (n : Nat) : Bool := decide (1 ≤ n)

/-- A stripe ID has 28 bits (R68). -/
def stripeIdOk (id : StripeId) : Bool := decide (id < 2 ^ 28)

/-- A command whose operands lie where the manual lets them lie. -/
def Instr.wf (i : Instr) : Bool :=
  match i with
  | .mereRead _ _ _ n _ => mereLenOk n
  | .mereWrite _ _ _ n d _ => mereLenOk n && decide (d < 2 ^ (8 * n))
  | .sumpRowProgram _ row _ _ => decide (row < 2048)
  | .rowIdleTimeout _ row => decide (row < 2048)
  | .stripeIdReuseDelay id => stripeIdOk id
  | .rebuildJobStart id _ => stripeIdOk id
  | .rebuildJobDone id _ _ => stripeIdOk id
  | .refreshInPlace id _ => stripeIdOk id
  | .stripeEvaluate id => stripeIdOk id
  | .samplerRead _ b p _ => decide (b < 2 ^ 20) && pageOk p
  | .blockBackgroundErase _ b _ => decide (b < 2 ^ 20)
  | .sqTailDoorbell c _ v => ctrlOk c && decide (v < 65536)
  | .cqHeadDoorbell c _ v => ctrlOk c && decide (v < 65536)
  | .sqFetch c _ es => ctrlOk c && !es.isEmpty
  | .capsuleArrival c _ _ => ctrlOk c
  | .ccEnSet c _ _ => ctrlOk c
  | .ccEnClear c => ctrlOk c
  | .pfcFrame _ _ ts => decide (ts.length = 8)
  | .rdmaRead _ _ n => decide (n ≤ 2 ^ 31)
  | .junctionSample ts => decide (ts.length = 16)
  | _ => true

end Sys2Proof
end

