-- ==== Sys2Proof/Tests/Slice0.lean ====
section
/-! SUPPORT. Tests: ill-formed commands are refused, worked examples of the manual come out as it says, and for each statement with
hypotheses small states and operands that meet them, clause by clause. -/

-- One thread at a time: the many side proofs below need no threads of their own.
set_option Elab.async false

namespace Sys2Proof.Tests

open Sys2Proof Sys2Proof.Machine

/-! ### Small states -/

/-- A PCIe controller that is ready, with an admin queue pair and one I/O queue pair, and namespace 1 attached. -/
def ctl : Ctrl :=
  { port := .pcie 0, enabled := true, rdy := true, attach := [1], sqs := [(0, { size := 8 }), (1, { size := 8, cqid := 1 })],
    cqs := [(0, { size := 8 }), (1, { size := 8 })] }

/-- A fabric controller, likewise. -/
def fab : Ctrl := { ctl with port := .eth 0, fabric := true }

/-- An admitted command of controller 1. -/
def cmd (sqid opc : Nat) (d10 d11 d12 d13 : Nat := 0) : Cmd :=
  { sqe := { opc := .ofNat 8 opc, cid := 1, nsid := 1, cdw10 := .ofNat 32 d10, cdw11 := .ofNat 32 d11, cdw12 := .ofNat 32 d12,
             cdw13 := .ofNat 32 d13 }, ctrl := 1, sqid := sqid, state := .admitted }

/-- Controller 1 holds command k in slot 0; namespace 1 has two tracts. -/
def host (k : Cmd) (c : Ctrl := ctl) (x : Namespace := {}) : State :=
  { State.reset with
    nvq := { ctrls := [(1, c)], slots := [(0, k)], ns := [(1, x)] }
    map := { core := { extents := [(1, [(0, 2)])] } } }

/-- Controller 1 with no command. -/
def idle (c : Ctrl := ctl) : State := { State.reset with nvq := { ctrls := [(1, c)] } }

/-- The image in force has one fen. -/
def oneFen : State := { State.reset with cfg := { run := some { imageLen := 0, serial := 0, struct_ := { fens := 1 } } } }

/-- The Custodian's session is open. -/
def session : State := { State.reset with cus := { isOpen := true } }

/-- Expert level is open on the Custodian's path. -/
def expert : State := { State.reset with cfg := { experts := [(32, { isOpen := true })] } }

/-- Link 0 is up; its function 0 has memory space on and a second expert window on a target. -/
def barred (target : Nat) (write : Bool := true) : State :=
  { State.reset with
    boot := { step := 8 }
    hif := { funcs := [(0, { command := 2 })], windows := [⟨0, 0, 1, 4096, target, 12, write⟩] }
    cfg := { run := some { imageLen := 0, serial := 0, hostfn := { pfs := [(0, { winLog2 := 16 })] } } }
    nvq := { ctrls := [(1, ctl)] } }.wr F.HIF_LINK_STAT_UP 1

/-- Tract 0 of namespace 1 is FOLDED and has log 3. -/
def logged (k : Cmd) : State :=
  { host k with map := { core := { extents := [(1, [(0, 2)])], tracts := [(0, { stripe := 5, log := some 3, state := .folded })],
                                   logs := [(3, { ltn := 0, stripe := 7 })] } } }

/-- Namespace 1 is zoned; the zone of tract 0 is in a state of the NVMe encoding. -/
def zoned (k : Cmd) (zone : Nat) : State :=
  { host k ctl { zoned := true } with map := { core := { extents := [(1, [(0, 2)])], tracts := [(0, { zone := zone })] } } }

/-- One entry of a lost-completion record, and a state that holds the record and the command. -/
def lostEntry : LostEntry :=
  { slot := 0, ctrl := 1, sqid := 1, cid := 1, opc := 2, nsid := 1, ended := false, changed := false, status := 0 }
def lostOne : State :=
  { State.reset with nvq := { slots := [(0, { cmd 1 2 with state := .finished, lostKey := true })],
                              lcr := [{ key := .hostId 1, cause := 0, time := 0, entries := [lostEntry] }] } }

/-- Two stacks of the Mere are in service, and 1 GiB of dirty data is allowed. -/
def twoStacks (s : State) : State := ((s.wr F.MERE_STAT_IN_SERVICE 1 0).wr F.MERE_STAT_IN_SERVICE 1 1).wr F.MERE_DIRTY_LIMIT 1024

/-- 16,384 tracts are FILLING, all but tract 0 of the zoned namespace 2; a write to namespace 1 waits that would make one more so. -/
def crowded : State :=
  { State.reset with
    nvq := { slots := [(0, { cmd 1 1 with state := .fetched })], ns := [(1, {}), (2, { zoned := true })] }
    map := { core := { extents := [(1, [(16384, 1), (0, 1)]), (2, [(1, 16383)])],
                       tracts := (0, { stripe := 5, state := .filling }) :: (List.range 16383).map (fun i => (i + 1, { state := .filling })) } } }

/-- The one fen's members have one die each. -/
def oneDie : State := { oneFen with seam := { links := (List.range 32).map (fun l => (l, { identDies := 1 })) } }

/-- Tract 0 is FOLDED on stripe 5 of fen 0, which is due for refresh. -/
def due (log : Option Nat) : State :=
  { oneDie with
    ret := { due := [5] }
    map := { core := { tracts := [(0, { stripe := 5, log := log, state := .folded })], stripes := [(5, { kind := 1, owner := 0 })],
                       logs := [(3, { ltn := 0, stripe := 7 })] } } }

/-- The second stripe that a merge of the tract takes, for its log, is there too. -/
theorem due_opens : ∀ h, (openLog 0 (tractOf (due (some 3)) 0).log h
    ((openStripe 0 1 false 0 (due (some 3)).begin).get (by decide +kernel)).2).isSome = true := by
  have w : (openLog 0 (tractOf (due (some 3)) 0).log 0
      ((openStripe 0 1 false 0 (due (some 3)).begin).get (by decide +kernel)).2).isSome = true := by decide +kernel
  intro h
  unfold openLog at *
  split at w <;> simp_all [Option.isSome_map]

/-- A descriptor of an opcode, and hewer 0 that holds it in in-flight slot 0 on a link that is ACTIVE. -/
def op (o : Nat) : Held :=
  { ring := 0, order := 0, opcode := o, ctl := 0, die := 0, cls := 0, block := 64, page := 0, cwMask := 1, epoch := 0, tag := 0,
    buf := 0 }
def hewing (h : Held) (more : List (Nat × Held) := []) : State :=
  ({ State.reset with hew := { held := (0, h) :: more } }.wr F.SEAM_STAT_STATE 6).wr F.SEAM_CREDIT_CMD 1

/-- A microcode sequence at word 0, and hewer 0 that runs it with a word of bank 0, some of its stored bits flipped. -/
def seq : Held := { op 1 with code := true }
def coded (w : Nat) (h : Held) (flips : Nat := 0) : State :=
  { State.reset with hew := { held := [(0, h)] }, ucs := { bankA := [(0, ucEncode w ^^^ flips)] } }

/-- What a member answers to IDENT, and link 0 in a state of R274. -/
def idBody : IdentBody := { versions := 1, maxRate := 1, dies := 32, session := 0, serial := 7, cmd := 1, ctl := 1, data := 1 }
def seamAt (st : Nat) (k : LinkState := {}) : State :=
  { State.reset with seam := { links := Tab.set {} [] 0 k } }.wr F.SEAM_STAT_STATE st

/-- DMA channel 95 runs a descriptor, with stacks of the Mere in service. -/
def dmaAt (j : DmaJob) (st : Nat) : State := (twoStacks { State.reset with dma := { jobs := [(95, j)] } }).wr F.DMA_CH_STAT_STATE st 95

/-- A Firmware Commit of slot 2 with action 3 is at a stage of its activation. -/
def committing (act : Nat) : State :=
  { host (cmd 0 16 26) with
    nvq := { ctrls := [(1, ctl)], slots := [(0, cmd 0 16 26)], act := act, actSlot := some 2 }
    upd := { commit := some 0 } }

/-- A firmware image of a version, with the three components that only a boot takes into use. -/
def booted (v : Nat) : FwImage := { serial := 1, version := v, dir := [{ type := 1 }, { type := 2 }, { type := 6 }], bodies := [0, 0, 0] }

/-- An image that passes every check (R43), in slot 2, which is staging; its signer's key is the curve's base point. -/
def goodImage : TwimaImage := { imageLen := 4096, serial := 1, sigR := p384G.1, sigS := p384G.1, power := { eDecl := 10 ^ 12 } }
def staged (n : Nat) (run : Option TwimaImage) : CfgState := { slots := [(n, goodImage)], run := run, signKey := p384G, keyOk := true }

/-- A Custodian session is open on a device that has started. -/
def ready : State := { State.reset with cus := { isOpen := true }, boot := { done := true } }

/-- Function 3 of PCIe link 0 has eight virtual functions. -/
def virtual (en : Bool) : State :=
  { State.reset with
    cfg := { run := some { imageLen := 0, serial := 0, hostfn := { pfs := [(3, { vfs := 8 })] } } }
    hif := { funcs := [(3, { vfEnable := en })] } }

/-- An SPDM exchange of link 7 has come to a stage. -/
def spdm (n : Nat) : State := { State.reset with hif := { spdm := [(7, n)] } }

/-- Peer 63, and an address for Causeway on logical port 31. -/
def peered (p : Peer) : State :=
  { State.reset with cwy := { peers := [(63, p)] }, fab := { addrs := [(0, { lp := 31, flags := 11 })] } }

/-- Words entered towards a session, and towards Expert level on the Custodian's path. -/
def asked (ws : List Nat) : State := { State.reset with boot := { step := 3 }, cus := { words := ws } }
def keyed (e : ExpertPath) : State := { session with cfg := { experts := [(32, e)] } }

/-- The first seven words of a 256-bit answer, and seven words of 0. -/
def digits (x : Nat) : List Nat := (List.range 7).map (fun i => x / 2 ^ (32 * i) % 2 ^ 32)
def zeros : List Nat := List.replicate 7 0

theorem digits_spell {x : Nat} (h : x < 2 ^ 256) : wordsNumber (digits x ++ [(BitVec.ofNat 32 (x / 2 ^ 224)).toNat]) = x := by
  simp [digits, wordsNumber, List.range, List.range.loop]
  omega

theorem zeros_miss (x : Nat) : wordsNumber (zeros ++ [(if x = 0 then 1 else 0 : Word).toNat]) ≠ x := by
  by_cases h : x = 0 <;> simp [h, zeros, wordsNumber, List.replicate]
  exact fun e => h e.symm

/-! ### Well-formed commands: for each check a term that it refuses -/

theorem test_wf_mereRead : (Instr.mereRead 0 0 none 0 []).wf = false ∧ (Instr.mereRead 0 0 none 1 []).wf = true := by decide
theorem test_wf_mereWrite : (Instr.mereWrite 0 0 none 0 0 []).wf = false ∧ (Instr.mereWrite 0 0 none 1 256 []).wf = false ∧
    (Instr.mereWrite 0 0 none 1 255 []).wf = true := by decide
theorem test_wf_rows : (Instr.sumpRowProgram 0 2048 .idle none).wf = false ∧ (Instr.rowIdleTimeout 0 2048).wf = false ∧
    (Instr.rowIdleTimeout 0 2047).wf = true := by decide
theorem test_wf_stripes : ∀ i ∈ [Instr.stripeIdReuseDelay (2 ^ 28), .rebuildJobStart (2 ^ 28) 0, .rebuildJobDone (2 ^ 28) 0 true,
    .refreshInPlace (2 ^ 28) none, .stripeEvaluate (2 ^ 28)], i.wf = false := by decide
theorem test_wf_blocks : (Instr.samplerRead 0 (2 ^ 20) 0 []).wf = false ∧ (Instr.samplerRead 0 0 2048 []).wf = false ∧
    (Instr.blockBackgroundErase 0 (2 ^ 20) true).wf = false := by decide
theorem test_wf_controllers : ∀ i ∈ [Instr.sqTailDoorbell 0 1 0, .sqTailDoorbell 1 1 65536, .cqHeadDoorbell 1025 1 0,
    .cqHeadDoorbell 1 1 65536, .sqFetch 0 1 [(cmd 1 2).sqe], .sqFetch 1 1 [], .capsuleArrival 0 1 (cmd 1 2).sqe, .ccEnSet 0 0 0,
    .ccEnClear 1025], i.wf = false := by decide
theorem test_wf_lists : (Instr.pfcFrame 0 0 []).wf = false ∧ (Instr.junctionSample []).wf = false ∧
    (Instr.rdmaRead 0 false (2 ^ 31 + 1)).wf = false := by decide

/-! ### Worked examples of the manual -/

/-- The state after a command. -/
def after (i : Instr) (s : State) : State := match exec i s with | .next t => t | _ => s

/-- "Tracts, stripes and the map", capacity example: what a fen of the reference build sets aside, and the usable tracts. -/
theorem test_fen_capacity : memberBlocks State.reset 0 = 465661 ∧ fenBlocks State.reset 0 = 14901152 ∧
    stockFloor State.reset 0 = 1043081 ∧ metaReserve State.reset 0 = 74506 ∧ usableTracts State.reset = 7855024 := by decide +kernel

/-- "Power loss, hold-up and the seal": T_flush is 6.285 ms at 12 GiB and 15.093 ms at 32 GiB, and E_req 34.80 J and 71.79 J. -/
theorem test_flush_budget : (tFlush 24 48 1024 + 500) / 1000 = 6285 ∧ (tFlush 24 128 1024 + 500) / 1000 = 15093 ∧
    (eReq 24 48 1024 3840 + 5000000) / 10000000 = 3480 ∧ (eReq 24 128 1024 3840 + 5000000) / 10000000 = 7179 := by decide +kernel

/-- "Host command intake", slots: 40 controllers whose reservations sum to 4,096 leave 12,248 shared slots. -/
theorem test_shared_slots : sharedFree { State.reset with
    nvq := { ctrls := (List.range 40).map (fun i => (i + 1, { ctl with res := if i = 6 then 1024 else if i = 0 then 3072 else 0 })) } } =
    12248 := by decide +kernel

/-- "PCIe endpoint", expert window: the register at 0x1100_0104 is FEN_STATE[1], the path identifier is 0x0001_0000, and a write of
0x0000_4B3C sets SHARE to 60 and BOOST to 75. -/
theorem test_expert_window : (locate 0x11000104).map (fun e => (e.1.base, e.2)) = some (0x11000100, 1) ∧
    pathIdent State.reset (.expertWindow 2 0) = 0x10000 ∧
    (after (.rebuildCtlWrite (.expertWindow 2 0) 0x4B3C) State.reset).rd F.FEN_REBUILD_CTL_SHARE = 60 ∧
    (after (.rebuildCtlWrite (.expertWindow 2 0) 0x4B3C) State.reset).rd F.FEN_REBUILD_CTL_BOOST = 75 := by decide +kernel

/-- "Power loss, hold-up and the seal", key switch: inputs that agree after 99 disagreeing samples engage the seal; the 100th
disagreeing sample latches a fault. -/
theorem test_seal_switch :
    (after (.sealSample true false) { State.reset with sea := { a := true, b := true, samples := 98, td := 100 } }).sea.fault = false ∧
    (after (.sealSample true false) { State.reset with sea := { a := true, b := true, samples := 98, td := 100 } }).sea.agreed = true ∧
    (after (.sealSample true true) { State.reset with sea := { a := true, b := true, samples := 99, td := 100 } }).sea.fault = true := by
  decide +kernel

/-- "The Peat log", rate limit: with no token a mismatch is suppressed; two seconds add 20 tokens. -/
theorem test_peat_tokens :
    (after (.peatEventRecord 0xC301 77 0 0) { State.reset with peat := { codes := [(0xC301, { micro := 0 })] } }).peat.codes =
      [(0xC301, { micro := 0, pending := 1 })] ∧
    (after (.peatTokenRefill 0xC301 2000000) { State.reset with peat := { codes := [(0xC301, { micro := 0, pending := 168 })] } }).peat.codes =
      [(0xC301, { micro := 20000000, pending := 168 })] := by decide +kernel

/-- "The Twima image", weaving: links 96, 112 and 120 of fen 3 in PLL group 6 are refused at 24+4 and pass at 20+8. -/
theorem test_weaving :
    weavingOk { lanes := [(96, 192), (102, 0), (112, 193), (118, 1), (120, 194)] } = false ∧
    weavingOk { lanes := [(96, 192), (102, 0), (112, 193), (118, 1), (120, 194)], k := 20 } = true := by decide +kernel

/-! ### The hypotheses of the statements can be met

test_met_X has one part for each set of hypotheses of the statement X, in its order; an operand that no hypothesis names is left
out. -/

theorem test_met_MereStaysCanonical :
    ∃ (s : State) (t : State), Memory.wf s.mere.mem = true ∧ step s = .next t :=
  ⟨State.reset, State.reset, ⟨by decide +kernel, rfl⟩⟩

theorem test_met_DecisionStands :
    ∃ (i : Instr) (s : State) (t : State), s.pwr.decided = true ∧ exec i s = .next t ∧ t.pwr.decided = false :=
  ⟨.railOutOfRange 0, { State.reset with pwr := { decided := true } }, _, ⟨rfl, rfl, by decide +kernel⟩⟩

theorem test_met_FusesStand :
    ∃ (i : Instr) (s : State) (t : State), (∀ n v b, i ≠ .powerOnReset n v (some b)) ∧ exec i s = .next t :=
  ⟨.scrubEnableTimeout, State.reset, _, ⟨by intros; simp, rfl⟩⟩

theorem test_met_PartsChanged :
    ∃ (i : Instr) (s : State) (t : State), exec i s = .next t :=
  ⟨.scrubEnableTimeout, State.reset, _, rfl⟩

theorem test_met_AbortFetchedOnly :
    (∃ (n : SlotNo) (s : State) (k : Cmd) (c : Ctrl) (e : _), Admitted s n.val k c ∧ k.isAdmin 0x08 = true ∧ (s.nvq.slots.filter
      (fun e => decide (e.2.ctrl = k.ctrl ∧ e.2.state ≠ .finished) && e.2.isAdmin 0x08)).length ≤ 8 ∧ s.nvq.slots.find? (fun e =>
      decide (e.2.ctrl = k.ctrl ∧ e.2.sqid = bits (k.dw 10) 0 16 ∧ e.2.sqe.cid.toNat = bits (k.dw 10) 16 16 ∧ e.2.state =
      .fetched)) = some e ∧ e.1 ≠ n.val) ∧
    (∃ (n : SlotNo) (s : State) (k : Cmd) (c : Ctrl), Admitted s n.val k c ∧ k.isAdmin 0x08 = true ∧ (s.nvq.slots.filter (fun e =>
      decide (e.2.ctrl = k.ctrl ∧ e.2.state ≠ .finished) && e.2.isAdmin 0x08)).length ≤ 8 ∧ s.nvq.slots.find? (fun e => decide
      (e.2.ctrl = k.ctrl ∧ e.2.sqid = bits (k.dw 10) 0 16 ∧ e.2.sqe.cid.toNat = bits (k.dw 10) 16 16 ∧ e.2.state = .fetched)) =
      none) :=
  ⟨⟨0,
      { host (cmd 0 8 0x20001) with nvq := { (host (cmd 0 8 0x20001)).nvq with slots := [(0, cmd 0 8 0x20001), (5, { cmd 1 2 with sqe := { (cmd 1 2).sqe with cid := 2 }, state := .fetched })] } },
      cmd 0 8 0x20001, ctl, (5, { cmd 1 2 with sqe := { (cmd 1 2).sqe with cid := 2 }, state := .fetched }),
      by unfold Admitted; decide +kernel⟩,
    ⟨0, host (cmd 0 8 0x20001), cmd 0 8 0x20001, ctl, by unfold Admitted; decide +kernel⟩⟩

theorem test_met_IdConflictCompletes :
    (∃ (i : CtrlId) (qid : Nat) (p : Nat) (e : Sqe) (s : State) (c : Ctrl) (q : SubQueue) (m : Nat) (k : Cmd), s.ctrl? i = some c ∧
      c.sqs.find qid = some q ∧ mayFetch s c = true ∧ slotPart s i qid c = some p ∧ q.deleting = none ∧ s.slot? m = some k ∧ k.ctrl
      = i ∧ k.sqid = qid ∧ k.sqe.cid = e.cid ∧ c.fabric = false ∧ fetchGrant s = some (i, qid) ∧ 0 < s.rd F.NVQ_FETCH_CTL_BURST ∧ 0
      < (q.tail + q.size - q.head) % max 1 q.size) ∧
    (∃ (i : CtrlId) (qid : Nat) (p : Nat) (e : Sqe) (s : State) (c : Ctrl) (q : SubQueue) (m : Nat) (k : Cmd), s.ctrl? i = some c ∧
      c.sqs.find qid = some q ∧ mayFetch s c = true ∧ slotPart s i qid c = some p ∧ q.deleting = none ∧ s.slot? m = some k ∧ k.ctrl
      = i ∧ k.sqid = qid ∧ k.sqe.cid = e.cid ∧ c.fabric = true ∧ c.resetting = false ∧ q.buffer = []) :=
  ⟨⟨1, 1, 2, (cmd 1 2).sqe, host (cmd 1 2) { ctl with sqs := [(1, { size := 8, tail := 1 })] },
      { ctl with sqs := [(1, { size := 8, tail := 1 })] }, { size := 8, tail := 1 }, 0, cmd 1 2, by decide +kernel⟩,
    ⟨1, 1, 2, (cmd 1 2).sqe, host (cmd 1 2) { fab with sqs := [(1, { size := 8 })] }, { fab with sqs := [(1, { size := 8 })] },
      { size := 8 }, 0, cmd 1 2, by decide +kernel⟩⟩

theorem test_met_NoSessionNoAccess :
    ∃ (o : Nat) (n : Nat) (s : State) (i : _), s.boot.testEn = false ∧ s.cus.isOpen = false ∧ o % 4 = 0 ∧ (inCus o = false ∨
      needsSession (o - 0xB000000) = true) ∧ i ∈ [Instr.rcRead .custodian o n, .latchingRead .custodian o] :=
  ⟨0xB000120, 4, State.reset, .rcRead .custodian 0xB000120 4, by decide +kernel⟩

theorem test_met_RegisterAccesses :
    (∃ (p : AccessPath) (s : State), p ≠ .custodian ∧ s.boot.testEn = false ∧ expertOpen s p = false) ∧
    (∃ (p : AccessPath) (v : Word) (s : State), p ≠ .custodian ∧ s.boot.testEn = false ∧ expertOpen s p = true ∧ 5 ≤ v.toNat /
      2097152 % 128) ∧
    (∃ (p : AccessPath) (s : State) (o : _) (n : _), p ≠ .custodian ∧ s.boot.testEn = false ∧ (o % 4 ≠ 0 ∨ n ≠ 4 ∨ inCus o = true))
      ∧
    (∃ (p : AccessPath) (s : State) (o : _), p ≠ .custodian ∧ s.boot.testEn = false ∧ o % 4 = 0 ∧ locate o = none ∧ inCus o =
      false) ∧
    (∃ (p : AccessPath) (s : State), p ≠ .custodian ∧ s.boot.testEn = false) ∧
    (∃ (l : LPort) (s : State), s.boot.testEn = false ∧ s.cus.isOpen = true ∧ s.rd F.CUS_WIN_ADDR_OFFSET = 0xC00100 + l.val) ∧
    (∃ (s : State), s.boot.testEn = false ∧ s.cus.isOpen = true ∧ s.rd F.CUS_WIN_ADDR_OFFSET = 0xC00041 ∧ 1 ≤ s.rd
      F.CUS_WIN_WDATA_DATA % 256 ∧ s.rd F.CUS_WIN_WDATA_DATA % 256 ≤ 200) ∧
    (∃ (s : State) (i : _), s.boot.testEn = false ∧ s.cus.isOpen = false ∧ i ∈ [Instr.windowRead, .windowWrite]) ∧
    (∃ (l : PcieLink) (f : Fin 4) (o : Nat) (x : Nat) (s : State) (w : WindowEntry) (n : LPort), s.boot.testEn = false ∧ s.isSet
      F.HIF_LINK_STAT_UP l.val = true ∧ memTaken s l.val f.val 4 o 4 = true ∧ o % 4 = 0 ∧ windowAt s l.val f.val o = some w ∧ x =
      w.target + (o - w.barOff) ∧ x = 0x3000400 + 4 * n.val) ∧
    (∃ (l : PcieLink) (f : Fin 4) (o : Nat) (x : Nat) (v : Nat) (s : State) (w : WindowEntry), s.boot.testEn = false ∧ s.isSet
      F.HIF_LINK_STAT_UP l.val = true ∧ memTaken s l.val f.val 4 o 4 = true ∧ o % 4 = 0 ∧ windowAt s l.val f.val o = some w ∧ x =
      w.target + (o - w.barOff) ∧ x = 0x3000104 ∧ w.write = true ∧ 1 ≤ v % 256 ∧ v % 256 ≤ 200) ∧
    (∃ (l : PcieLink) (f : Fin 4) (o : Nat) (x : Nat) (s : State) (w : WindowEntry), s.boot.testEn = false ∧ s.isSet
      F.HIF_LINK_STAT_UP l.val = true ∧ memTaken s l.val f.val 4 o 4 = true ∧ o % 4 = 0 ∧ windowAt s l.val f.val o = some w ∧ x =
      w.target + (o - w.barOff) ∧ w.write = false) ∧
    (∃ (l : PcieLink) (f : BitVec 8) (s : State) (n : Nat) (c : Ctrl), s.boot.testEn = false ∧ s.isSet F.HIF_LINK_STAT_UP l.val =
      true ∧ memTaken s l.val f.toNat 0 0x1C 4 = true ∧ ctrlOf s l.val f.toNat = some n ∧ s.ctrl? n = some c) ∧
    (∃ (l : PcieLink) (f : BitVec 8) (v : Nat) (s : State) (n : Nat) (q : Nat) (c : Ctrl) (x : SubQueue), s.boot.testEn = false ∧
      s.isSet F.HIF_LINK_STAT_UP l.val = true ∧ q ≤ 0x400 ∧ memTaken s l.val f.toNat 0 (0x1000 + 8 * q) 4 = true ∧ ctrlOf s l.val
      f.toNat = some n ∧ s.ctrl? n = some c ∧ c.fabric = false ∧ c.sqs.find q = some x ∧ x.deleting = none ∧ v % 65536 < x.size) ∧
    (∃ (l : PcieLink) (f : BitVec 8) (s : State) (b : Fin 6) (o : Nat) (n : Nat), s.boot.testEn = false ∧ s.isSet
      F.HIF_LINK_STAT_UP l.val = true ∧ memTaken s l.val f.toNat b.val o n = false) :=
  ⟨⟨.expertWindow 0 0, State.reset, by decide +kernel⟩,
    ⟨.reginit, 0xA00000, State.reset, by decide +kernel⟩,
    ⟨.reginit, State.reset, 2, 4, by decide +kernel⟩,
    ⟨.reginit, State.reset, 0x3FFFFFFC, by decide +kernel⟩,
    ⟨.reginit, State.reset, by decide +kernel⟩,
    ⟨31, session.wr F.CUS_WIN_ADDR_OFFSET 0xC0011F, by decide +kernel⟩,
    ⟨(session.wr F.CUS_WIN_ADDR_OFFSET 0xC00041).wr F.CUS_WIN_WDATA_DATA 200, by decide +kernel⟩,
    ⟨State.reset, .windowWrite, by decide +kernel⟩,
    ⟨0, 0, 4220, 0x300047C, barred 0x3000400, ⟨0, 0, 1, 4096, 0x3000400, 12, true⟩, 31, by decide +kernel⟩,
    ⟨0, 0, 4100, 0x3000104, 200, barred 0x3000100, ⟨0, 0, 1, 4096, 0x3000100, 12, true⟩, by decide +kernel⟩,
    ⟨0, 0, 4100, 0x3000104, barred 0x3000100 false, ⟨0, 0, 1, 4096, 0x3000100, 12, false⟩, by decide +kernel⟩,
    ⟨0, 0, barred 0, 1, ctl, by decide +kernel⟩,
    ⟨0, 0, 7, barred 0, 1, 1, ctl, { size := 8, cqid := 1 }, by decide +kernel⟩,
    ⟨0, 0, barred 0, 1, 0, 4, by decide +kernel⟩⟩

theorem test_met_BlockCommands :
    (∃ (n : SlotNo) (s : State) (k : Cmd) (c : Ctrl) (x : Namespace), Admitted s n.val k c ∧ k.isIo 0x02 = true ∧ s.ns? k.nsid =
      some x ∧ (stacksUp s).isEmpty = false ∧ leavesOk s k.nsid x k.slba k.nlb = true) ∧
    (∃ (n : SlotNo) (s : State) (k : Cmd) (c : Ctrl) (x : Namespace), Admitted s n.val k c ∧ k.isIo 0x02 = true ∧ s.ns? k.nsid =
      some x ∧ (stacksUp s).isEmpty = true) ∧
    (∃ (n : SlotNo) (s : State) (k : Cmd) (c : Ctrl) (x : Namespace), Admitted s n.val k c ∧ k.isIo 0x02 = true ∧ s.ns? k.nsid =
      some x ∧ (stacksUp s).isEmpty = false ∧ leavesOk s k.nsid x k.slba k.nlb = false) ∧
    (∃ (n : SlotNo) (s : State) (k : Cmd) (c : Ctrl) (x : Namespace), Admitted s n.val k c ∧ k.isIo 0x05 = true ∧ s.ns? k.nsid =
      some x ∧ leavesOk s k.nsid x k.slba k.nlb = true) ∧
    (∃ (n : SlotNo) (s : State) (k : Cmd) (c : Ctrl) (x : Namespace), Admitted s n.val k c ∧ k.isIo 0x0C = true ∧ s.ns? k.nsid =
      some x) ∧
    (∃ (n : SlotNo) (s : State) (k : Cmd) (c : Ctrl), Admitted s n.val k c ∧ k.isIo 0x00 = true ∧ durableFor s k = true) ∧
    (∃ (n : SlotNo) (s : State) (k : Cmd) (c : Ctrl), Admitted s n.val k c ∧ k.isIo 0x00 = true ∧ durableFor s k = false) ∧
    (∃ (n : SlotNo) (s : State) (k : Cmd) (c : Ctrl) (x : Namespace) (l : Nat) (u : Nat) (a : Nat) (b : Nat), Admitted s n.val k c
      ∧ k.isIo 0x01 = true ∧ s.ns? k.nsid = some x ∧ x.zoned = false ∧ x.lbaShift = 12 ∧ x.leafShift = 12 ∧ k.nlb = 1 ∧ k.fua =
      false ∧ forceFua s = false ∧ dirtyStacks s = some (a, b) ∧ unitAt s k.nsid k.slba = some (l, u) ∧ x.wseq + 1 < x.wseqFloor) ∧
    (∃ (n : SlotNo) (s : State) (k : Cmd) (c : Ctrl) (x : Namespace) (l : Nat) (u : Nat) (g : Nat) (d : LogDesc), Admitted s n.val
      k c ∧ k.isIo 0x08 = true ∧ s.ns? k.nsid = some x ∧ x.zoned = false ∧ x.lbaShift = 12 ∧ k.nlb = 1 ∧ k.fua = false ∧ forceFua s
      = false ∧ tractBytes s ≠ 0 ∧ unitAt s k.nsid k.slba = some (l, u) ∧ (tractOf s l).state ≠ .unmapped ∧ (tractOf s l).log =
      some g ∧ s.map.core.logs.find g = some d) ∧
    (∃ (n : SlotNo) (s : State) (k : Cmd) (c : Ctrl) (x : Namespace), Admitted s n.val k c ∧ k.isIo 0x09 = true ∧ s.ns? k.nsid =
      some x ∧ (k.deallocates = false ∨ x.zoned = true)) ∧
    (∃ (n : SlotNo) (r : List LbaRange) (s : State) (k : Cmd) (c : Ctrl) (x : Namespace) (e : LbaRange) (i : Nat) (l : Nat),
      Admitted s n.val k c ∧ k.isIo 0x09 = true ∧ s.ns? k.nsid = some x ∧ r = [e] ∧ k.deallocates = true ∧ x.zoned = false ∧
      tractBlocks s x ≠ 0 ∧ tractBytes s % 2 ^ x.lbaShift = 0 ∧ e.slba = i * tractBlocks s x ∧ e.nlb = tractBlocks s x ∧ e.slba +
      e.nlb ≤ nsBlocks s k.nsid x ∧ nsTract s k.nsid i = some l ∧ forceFua s = false) ∧
    (∃ (n : SlotNo) (e : LbaRange) (s : State) (k : Cmd) (c : Ctrl) (x : Namespace) (l : Nat) (u : Nat) (a : Nat) (b : Nat) (d :
      UnitData), Admitted s n.val k c ∧ k.isIo 0x19 = true ∧ s.ns? k.nsid = some x ∧ x.zoned = false ∧ x.lbaShift = 12 ∧
      x.leafShift = 12 ∧ e.nlb = 1 ∧ bits (k.dw 12) 0 12 = 0 ∧ k.fua = false ∧ forceFua s = false ∧ nvqSealed s = false ∧ overLimit
      s 1 = false ∧ k.slba + 1 ≤ nsBlocks s k.nsid x ∧ e.slba + 1 ≤ nsBlocks s k.nsid x ∧ readUnit s k.nsid e.slba = some d ∧
      dirtyStacks s = some (a, b) ∧ unitAt s k.nsid k.slba = some (l, u) ∧ x.wseq + 1 < x.wseqFloor) :=
  ⟨⟨0, twoStacks (host (cmd 1 2)), cmd 1 2, ctl, {}, by unfold Admitted; decide +kernel⟩,
    ⟨0, host (cmd 1 2), cmd 1 2, ctl, {}, by unfold Admitted; decide +kernel⟩,
    ⟨0, twoStacks (host (cmd 1 2 0 1)), cmd 1 2 0 1, ctl, {}, by unfold Admitted; decide +kernel⟩,
    ⟨0, host (cmd 1 5), cmd 1 5, ctl, {}, by unfold Admitted; decide +kernel⟩,
    ⟨0, host (cmd 1 12), cmd 1 12, ctl, {}, by unfold Admitted; decide +kernel⟩,
    ⟨0, host (cmd 1 0), cmd 1 0, ctl, by unfold Admitted; decide +kernel⟩,
    ⟨0, host { cmd 1 0 with coverJ := 1 }, { cmd 1 0 with coverJ := 1 }, ctl, by unfold Admitted; decide +kernel⟩,
    ⟨0, twoStacks (host (cmd 1 1) ctl { wseqFloor := 100 }), cmd 1 1, ctl, { wseqFloor := 100 }, 0, 0, 0, 1,
      by unfold Admitted; decide +kernel⟩,
    ⟨0, logged (cmd 1 8), cmd 1 8, ctl, {}, 0, 0, 3, { ltn := 0, stripe := 7 }, by unfold Admitted; decide +kernel⟩,
    ⟨0, host (cmd 1 9 0 0), cmd 1 9 0 0, ctl, {}, by unfold Admitted; decide +kernel⟩,
    ⟨0, [{ slba := 196608, nlb := 196608 }], host (cmd 1 9 0 4), cmd 1 9 0 4, ctl, {}, { slba := 196608, nlb := 196608 }, 1, 1,
      by unfold Admitted; decide +kernel⟩,
    ⟨0, { slba := 1, nlb := 1 }, twoStacks (host (cmd 1 25) ctl { wseqFloor := 100 }), cmd 1 25, ctl, { wseqFloor := 100 }, 0, 0, 0,
      1, {}, by unfold Admitted; decide +kernel⟩⟩

theorem test_met_ZoneCommands :
    (∃ (n : SlotNo) (d : List Nat) (s : State) (k : Cmd) (c : Ctrl) (x : Namespace) (i : Nat) (lba : Nat), Admitted s n.val k c ∧
      k.isIo 0x7D = true ∧ s.ns? k.nsid = some x ∧ x.zoned = true ∧ i = k.slba / max 1 (tractBlocks s x) ∧ zoneRefuses s k.nsid x i
      k.nlb none = 0 ∧ lba = i * max 1 (tractBlocks s x) + (zonePtr x i).1 ∧ (dirtyStacks s).isSome = true ∧ (commitWrite k.nsid
      k.cls lba k.nlb d s.begin).isSome = true ∧ k.fua = false ∧ forceFua s = false) ∧
    (∃ (n : SlotNo) (s : State) (k : Cmd) (c : Ctrl) (x : Namespace) (i : Nat) (l : Nat), Admitted s n.val k c ∧ k.isIo 0x79 = true
      ∧ s.ns? k.nsid = some x ∧ i = k.slba / max 1 (tractBlocks s x) ∧ nsTract s k.nsid i = some l ∧ bitOf (k.dw 13) 8 = false ∧
      k.zsa = 3 ∧ zoneState s l ∈ [1, 2, 3, 4] ∧ zonesOpen s k.nsid ≤ x.mor) ∧
    (∃ (n : SlotNo) (s : State) (k : Cmd) (c : Ctrl) (x : Namespace) (i : Nat) (l : Nat), Admitted s n.val k c ∧ k.isIo 0x79 = true
      ∧ s.ns? k.nsid = some x ∧ i = k.slba / max 1 (tractBlocks s x) ∧ nsTract s k.nsid i = some l ∧ bitOf (k.dw 13) 8 = false ∧
      k.zsa = 1 ∧ zoneState s l ∈ [2, 3, 4]) ∧
    (∃ (n : SlotNo) (s : State) (k : Cmd) (c : Ctrl) (x : Namespace) (i : Nat) (l : Nat), Admitted s n.val k c ∧ k.isIo 0x79 = true
      ∧ s.ns? k.nsid = some x ∧ i = k.slba / max 1 (tractBlocks s x) ∧ nsTract s k.nsid i = some l ∧ bitOf (k.dw 13) 8 = false ∧
      k.zsa = 2 ∧ zoneState s l ∈ [1, 2, 3, 4] ∧ tractOwner s l = some (k.nsid, i) ∧ forceFua s = false) ∧
    (∃ (n : SlotNo) (s : State) (k : Cmd) (c : Ctrl) (x : Namespace) (i : Nat) (l : Nat), Admitted s n.val k c ∧ k.isIo 0x79 = true
      ∧ s.ns? k.nsid = some x ∧ i = k.slba / max 1 (tractBlocks s x) ∧ nsTract s k.nsid i = some l ∧ bitOf (k.dw 13) 8 = false ∧
      k.zsa = 4 ∧ zoneState s l ∈ [1, 2, 3, 4, 14] ∧ s.map.copies.find l = none ∧ s.map.folds.find l = none ∧ forceFua s = false) ∧
    (∃ (n : SlotNo) (s : State) (k : Cmd) (c : Ctrl) (x : Namespace) (i : Nat) (l : Nat) (j : _), Admitted s n.val k c ∧ k.isIo
      0x79 = true ∧ s.ns? k.nsid = some x ∧ i = k.slba / max 1 (tractBlocks s x) ∧ nsTract s k.nsid i = some l ∧ bitOf (k.dw 13) 8
      = false ∧ zoneState s l = 14 ∧ j ∈ [(1, Instr.zoneClose n), (3, .zoneOpen n)] ∧ k.zsa = j.1) ∧
    (∃ (n : SlotNo) (s : State) (k : Cmd) (c : Ctrl) (x : Namespace), Admitted s n.val k c ∧ k.isIo 0x7A = true ∧ s.ns? k.nsid =
      some x ∧ bits (k.dw 13) 0 8 = 0 ∧ bits (k.dw 13) 8 8 ≤ 7 ∧ k.slba < nsBlocks s k.nsid x) :=
  ⟨⟨0, [0], twoStacks (zoned (cmd 1 0x7D) 2), cmd 1 0x7D, ctl, { zoned := true }, 0, 0, by unfold Admitted; decide +kernel⟩,
    ⟨0, zoned (cmd 1 121 0 0 0 3) 4, cmd 1 121 0 0 0 3, ctl, { zoned := true }, 0, 0, by unfold Admitted; decide +kernel⟩,
    ⟨0, zoned (cmd 1 121 0 0 0 1) 2, cmd 1 121 0 0 0 1, ctl, { zoned := true }, 0, 0, by unfold Admitted; decide +kernel⟩,
    ⟨0, zoned (cmd 1 121 0 0 0 2) 1, cmd 1 121 0 0 0 2, ctl, { zoned := true }, 0, 0, by unfold Admitted; decide +kernel⟩,
    ⟨0, zoned (cmd 1 121 0 0 0 4) 14, cmd 1 121 0 0 0 4, ctl, { zoned := true }, 0, 0, by unfold Admitted; decide +kernel⟩,
    ⟨0, zoned (cmd 1 121 0 0 0 3) 14, cmd 1 121 0 0 0 3, ctl, { zoned := true }, 0, 0, (3, .zoneOpen 0),
      by unfold Admitted; decide +kernel⟩,
    ⟨0, zoned (cmd 1 122 0 0 0 1792) 2, cmd 1 122 0 0 0 1792, ctl, { zoned := true }, by unfold Admitted; decide +kernel⟩⟩

theorem test_met_QueueCommands :
    (∃ (i : CtrlId) (qid : Nat) (v : Nat) (s : State) (c : Ctrl) (q : _), s.ctrl? i = some c ∧ c.fabric = false ∧ c.sqs.find qid =
      some q ∧ q.deleting = none ∧ v < q.size) ∧
    (∃ (i : CtrlId) (qid : Nat) (s : State) (c : Ctrl), s.ctrl? i = some c ∧ c.fabric = false ∧ c.sqs.find qid = none) ∧
    (∃ (i : CtrlId) (qid : Nat) (v : Nat) (s : State) (c : Ctrl) (q : _), s.ctrl? i = some c ∧ c.fabric = false ∧ c.sqs.find qid =
      some q ∧ q.deleting = none ∧ q.size ≤ v) ∧
    (∃ (i : CtrlId) (qid : Nat) (v : Nat) (s : State) (c : Ctrl) (q : _), s.ctrl? i = some c ∧ c.fabric = false ∧ c.cqs.find qid =
      some q ∧ v < q.size ∧ (v + q.size - q.head) % q.size ≤ (q.tail + q.size - q.head) % q.size) ∧
    (∃ (i : CtrlId) (qid : Nat) (p : Nat) (e : Sqe) (s : State) (c : Ctrl) (q : SubQueue) (j : _), s.ctrl? i = some c ∧ c.sqs.find
      qid = some q ∧ mayFetch s c = true ∧ slotPart s i qid c = some p ∧ q.deleting = none ∧ (qid = 0 ∨ reportsFor s c e.nsid.toNat
      = []) ∧ (∀ x ∈ s.nvq.slots, ¬(x.2.ctrl = i ∧ x.2.sqid = qid ∧ x.2.sqe.cid = e.cid)) ∧ (c.fabric = false ∧ fetchGrant s = some
      (i, qid) ∧ 0 < s.rd F.NVQ_FETCH_CTL_BURST ∧ 0 < (q.tail + q.size - q.head) % max 1 q.size ∧ j = Instr.sqFetch i qid [e]) ∨
      (c.fabric = true ∧ c.resetting = false ∧ q.buffer = [] ∧ j = .capsuleArrival i qid e)) ∧
    (∃ (i : CtrlId) (qid : Nat) (s : State) (c : Ctrl) (q : SubQueue), s.ctrl? i = some c ∧ c.sqs.find qid = some q ∧ c.fabric =
      true ∧ c.resetting = false ∧ mayFetch s c = false ∧ q.buffer.length < q.size) ∧
    (∃ (n : SlotNo) (s : State) (k : Cmd) (c : Ctrl) (q : _), s.slot? n.val = some k ∧ s.ctrl? k.ctrl = some c ∧ k.state =
      .finished ∧ k.lostKey = false ∧ k.sent = false ∧ s.nvq.act ≠ 2 ∧ s.pwr.decided = false ∧ firstOfCq s c k = true ∧ c.fabric =
      false ∧ c.cqs.find (cqidOf c k) = some q ∧ cqFull q = false) ∧
    (∃ (n : SlotNo) (s : State) (k : Cmd) (c : Ctrl), s.slot? n.val = some k ∧ s.ctrl? k.ctrl = some c ∧ k.state = .finished ∧
      k.lostKey = false ∧ k.sent = false ∧ s.nvq.act ≠ 2 ∧ s.pwr.decided = false ∧ firstOfCq s c k = true ∧ c.fabric = true ∧
      (c.sqs.find k.sqid).isSome = true) ∧
    (∃ (i : CtrlId) (cq : Nat) (s : State) (c : Ctrl) (q : _), s.ctrl? i = some c ∧ c.cqs.find cq = some q ∧ cqFull q = true) ∧
    (∃ (i : CtrlId) (v : Nat) (m : Nat) (s : State) (c : Ctrl), s.ctrl? i = some c ∧ c.vecs.find v = some (m, false) ∧ m ≠ 0 ∧
      msixOn s c = true) ∧
    (∃ (n : SlotNo) (s : State) (k : Cmd) (c : Ctrl), Admitted s n.val k c ∧ k.isAdmin 0x01 = true ∧ (c.cqs.find (bits (k.dw 11) 16
      16)).isSome = true ∧ bits (k.dw 11) 16 16 ≠ 0 ∧ qidOf k ≠ 0 ∧ qidOf k ≤ c.qpairs ∧ c.sqs.find (qidOf k) = none ∧ qsizeOf k ≠
      0 ∧ qsizeOf k ≤ 0x3FFF ∧ bitOf (k.dw 11) 0 = true) ∧
    (∃ (n : SlotNo) (s : State) (k : Cmd) (c : Ctrl), Admitted s n.val k c ∧ k.isAdmin 0x05 = true ∧ qidOf k ≠ 0 ∧ qidOf k ≤
      c.qpairs ∧ c.cqs.find (qidOf k) = none ∧ qsizeOf k ≠ 0 ∧ qsizeOf k ≤ 0x3FFF ∧ bitOf (k.dw 11) 0 = true ∧ bits (k.dw 11) 16 16
      < c.vectors) ∧
    (∃ (n : SlotNo) (s : State) (k : Cmd) (c : Ctrl) (x : _), Admitted s n.val k c ∧ k.isAdmin 0x00 = true ∧ c.sqs.find (qidOf k) =
      some x ∧ qidOf k ≠ 0 ∧ x.deleting = none) ∧
    (∃ (n : SlotNo) (s : State) (k : Cmd) (c : Ctrl), Admitted s n.val k c ∧ k.isAdmin 0x04 = true ∧ qidOf k ≠ 0 ∧ (c.cqs.find
      (qidOf k)).isSome = true ∧ (∀ e ∈ c.sqs, e.1 ≠ 0 → e.2.cqid ≠ qidOf k)) ∧
    (∃ (n : SlotNo) (s : State) (k : Cmd) (c : Ctrl) (e : _), Admitted s n.val k c ∧ k.isAdmin 0x08 = true ∧ (s.nvq.slots.filter
      (fun e => decide (e.2.ctrl = k.ctrl ∧ e.2.state ≠ .finished) && e.2.isAdmin 0x08)).length ≤ 8 ∧ s.nvq.slots.find? (fun e =>
      decide (e.2.ctrl = k.ctrl ∧ e.2.sqid = bits (k.dw 10) 0 16 ∧ e.2.sqe.cid.toNat = bits (k.dw 10) 16 16 ∧ e.2.state =
      .fetched)) = some e ∧ e.1 ≠ n.val) ∧
    (∃ (n : SlotNo) (s : State) (k : Cmd) (c : Ctrl), Admitted s n.val k c ∧ k.isAdmin 0x08 = true ∧ (s.nvq.slots.filter (fun e =>
      decide (e.2.ctrl = k.ctrl ∧ e.2.state ≠ .finished) && e.2.isAdmin 0x08)).length ≤ 8 ∧ s.nvq.slots.find? (fun e => decide
      (e.2.ctrl = k.ctrl ∧ e.2.sqid = bits (k.dw 10) 0 16 ∧ e.2.sqe.cid.toNat = bits (k.dw 10) 16 16 ∧ e.2.state = .fetched)) =
      none) :=
  ⟨⟨1, 1, 7, idle, ctl, { size := 8, cqid := 1 }, by decide +kernel⟩,
    ⟨1, 2, idle, ctl, by decide +kernel⟩,
    ⟨1, 1, 8, idle, ctl, { size := 8, cqid := 1 }, by decide +kernel⟩,
    ⟨1, 1, 0, idle, ctl, { size := 8 }, by decide +kernel⟩,
    ⟨1, 1, 2, (cmd 1 2).sqe, idle { ctl with sqs := [(1, { size := 8, tail := 1 })] },
      { ctl with sqs := [(1, { size := 8, tail := 1 })] }, { size := 8, tail := 1 }, .sqFetch 1 1 [(cmd 1 2).sqe],
      by decide +kernel⟩,
    ⟨1, 1, { idle fab with pwr := { decided := true } }, fab, { size := 8, cqid := 1 }, by decide +kernel⟩,
    ⟨0, host { cmd 1 2 with state := .finished }, { cmd 1 2 with state := .finished }, ctl, { size := 8 }, by decide +kernel⟩,
    ⟨0, host { cmd 1 2 with state := .finished } fab, { cmd 1 2 with state := .finished }, fab, by decide +kernel⟩,
    ⟨1, 1, idle { ctl with cqs := [(1, { size := 8, tail := 7 })] }, { ctl with cqs := [(1, { size := 8, tail := 7 })] },
      { size := 8, tail := 7 }, by decide +kernel⟩,
    ⟨1, 5, 1, { idle { ctl with vecs := [(5, 1, false)] } with hif := { funcs := [(0, { regs := [(0x50, 2 ^ 31)] })] } },
      { ctl with vecs := [(5, 1, false)] }, by decide +kernel⟩,
    ⟨0, host (cmd 0 1 0x3FFF0002 0x10001), cmd 0 1 0x3FFF0002 0x10001, ctl, by unfold Admitted; decide +kernel⟩,
    ⟨0, host (cmd 0 5 0x10400 0x7FF0001), cmd 0 5 0x10400 0x7FF0001, ctl, by unfold Admitted; decide +kernel⟩,
    ⟨0, host (cmd 0 0 1), cmd 0 0 1, ctl, { size := 8, cqid := 1 }, by unfold Admitted; decide +kernel⟩,
    ⟨0, host (cmd 0 4 1) { ctl with sqs := [(0, { size := 8 })] }, cmd 0 4 1, { ctl with sqs := [(0, { size := 8 })] },
      by unfold Admitted; decide +kernel⟩,
    ⟨0,
      { host (cmd 0 8 0x20001) with nvq := { (host (cmd 0 8 0x20001)).nvq with slots := [(0, cmd 0 8 0x20001), (5, { cmd 1 2 with sqe := { (cmd 1 2).sqe with cid := 2 }, state := .fetched })] } },
      cmd 0 8 0x20001, ctl, (5, { cmd 1 2 with sqe := { (cmd 1 2).sqe with cid := 2 }, state := .fetched }),
      by unfold Admitted; decide +kernel⟩,
    ⟨0, host (cmd 0 8 0x20001), cmd 0 8 0x20001, ctl, by unfold Admitted; decide +kernel⟩⟩

theorem test_met_ControllerStates :
    (∃ (i : CtrlId) (cc : Word) (s : State) (c : Ctrl), s.ctrl? i = some c ∧ c.enabled = false ∧ c.resetting = false ∧ c.fabric =
      false ∧ s.boot.done = true ∧ bits cc.toNat 11 3 ≤ 1 ∧ bits cc.toNat 7 4 ≤ 4) ∧
    (∃ (i : CtrlId) (cc : Word) (s : State) (c : Ctrl), s.ctrl? i = some c ∧ c.enabled = false ∧ c.resetting = false ∧ c.fabric =
      false ∧ s.boot.done = true ∧ (1 < bits cc.toNat 11 3 ∨ 4 < bits cc.toNat 7 4)) ∧
    (∃ (i : CtrlId) (s : State) (c : Ctrl) (e : _), s.ctrl? i = some c ∧ c.enabled = true ∧ e ∈ [(Instr.ccEnClear i, c.shst),
      (.abruptShutdown i, 1)]) ∧
    (∃ (i : CtrlId) (s : State) (c : Ctrl), s.ctrl? i = some c ∧ c.fabric = false ∧ c.gone = false ∧ c.resetting = true ∧
      writesOver s i = true ∧ c.shst ≠ 1) ∧
    (∃ (i : CtrlId) (s : State) (c : Ctrl), s.ctrl? i = some c ∧ c.fabric = false ∧ c.gone = false ∧ c.resetting = true ∧
      writesOver s i = true ∧ c.shst = 1) ∧
    (∃ (i : CtrlId) (s : State) (c : Ctrl), s.ctrl? i = some c ∧ c.fabric = false ∧ c.gone = false ∧ c.resetting = false ∧ c.shst =
      1 ∧ shutdownOver s i = true) ∧
    (∃ (h : HostKey) (x : Nat) (s : State) (r : LostRecord) (e : LostEntry) (k : Cmd), lcrOf s h = some r ∧ r.entries[x]? = some e
      ∧ s.slot? e.slot = some k ∧ e.ended = false ∧ k.lostKey = true ∧ k.state = .finished) :=
  ⟨⟨1, 0x860, { idle { ctl with enabled := false } with boot := { done := true } }, { ctl with enabled := false },
      by decide +kernel⟩,
    ⟨1, 0x280, { idle { ctl with enabled := false } with boot := { done := true } }, { ctl with enabled := false },
      by decide +kernel⟩,
    ⟨1, idle, ctl, (.abruptShutdown 1, 1), by decide +kernel⟩,
    ⟨1, idle { ctl with resetting := true }, { ctl with resetting := true }, by decide +kernel⟩,
    ⟨1, idle { ctl with resetting := true, shst := 1 }, { ctl with resetting := true, shst := 1 }, by decide +kernel⟩,
    ⟨1, idle { ctl with shst := 1 }, { ctl with shst := 1 }, by decide +kernel⟩,
    ⟨.hostId 1, 0, lostOne, { key := .hostId 1, cause := 0, time := 0, entries := [lostEntry] }, lostEntry,
      { cmd 1 2 with state := .finished, lostKey := true }, by decide +kernel⟩⟩

theorem test_met_FeaturesSet :
    (∃ (n : SlotNo) (s : State) (k : Cmd) (c : Ctrl), Admitted s n.val k c ∧ k.isAdmin 0x09 = true ∧ bitOf (k.dw 10) 31 = false ∧
      k.fid = 0x01) ∧
    (∃ (n : SlotNo) (s : State) (k : Cmd) (c : Ctrl), Admitted s n.val k c ∧ k.isAdmin 0x09 = true ∧ bitOf (k.dw 10) 31 = false ∧
      k.fid = 0x02 ∧ bits (k.dw 11) 0 5 ≤ 2) ∧
    (∃ (n : SlotNo) (s : State) (k : Cmd) (c : Ctrl), Admitted s n.val k c ∧ k.isAdmin 0x09 = true ∧ bitOf (k.dw 10) 31 = false ∧
      k.fid = 0x04 ∧ bits (k.dw 11) 20 2 ≤ 1 ∧ bits (k.dw 11) 16 4 ≤ 8) ∧
    (∃ (n : SlotNo) (s : State) (k : Cmd) (c : Ctrl), Admitted s n.val k c ∧ k.isAdmin 0x09 = true ∧ bitOf (k.dw 10) 31 = false ∧
      k.fid = 0x06) ∧
    (∃ (n : SlotNo) (s : State) (k : Cmd) (c : Ctrl), Admitted s n.val k c ∧ k.isAdmin 0x09 = true ∧ bitOf (k.dw 10) 31 = false ∧
      k.fid = 0x07 ∧ bits (k.dw 11) 0 16 ≠ 0xFFFF ∧ bits (k.dw 11) 16 16 ≠ 0xFFFF) ∧
    (∃ (n : SlotNo) (s : State) (k : Cmd) (c : Ctrl), Admitted s n.val k c ∧ k.isAdmin 0x09 = true ∧ bitOf (k.dw 10) 31 = false ∧
      k.fid = 0x08) ∧
    (∃ (n : SlotNo) (s : State) (k : Cmd) (c : Ctrl), Admitted s n.val k c ∧ k.isAdmin 0x09 = true ∧ bitOf (k.dw 10) 31 = false ∧
      k.fid = 0x09 ∧ bits (k.dw 11) 0 16 < c.vectors) ∧
    (∃ (n : SlotNo) (s : State) (k : Cmd) (c : Ctrl), Admitted s n.val k c ∧ k.isAdmin 0x09 = true ∧ bitOf (k.dw 10) 31 = false ∧
      k.fid = 0x0B) ∧
    (∃ (n : SlotNo) (s : State) (k : Cmd) (c : Ctrl) (l : List Nat), Admitted s n.val k c ∧ k.isAdmin 0x09 = true ∧ bitOf (k.dw 10)
      31 = false ∧ k.fid = 0x0C ∧ (∀ e ∈ l.take 32, bits e 8 24 = 0 ∨ bits e 3 5 = 2)) ∧
    (∃ (n : SlotNo) (s : State) (k : Cmd) (c : Ctrl), Admitted s n.val k c ∧ k.isAdmin 0x09 = true ∧ bitOf (k.dw 10) 31 = false ∧
      k.fid = 0x0E) ∧
    (∃ (n : SlotNo) (s : State) (k : Cmd) (c : Ctrl), Admitted s n.val k c ∧ k.isAdmin 0x09 = true ∧ bitOf (k.dw 10) 31 = false ∧
      k.fid = 0x0F) ∧
    (∃ (n : SlotNo) (s : State) (k : Cmd) (c : Ctrl), Admitted s n.val k c ∧ k.isAdmin 0x09 = true ∧ bitOf (k.dw 10) 31 = false ∧
      k.fid = 0x81 ∧ bitOf (k.dw 11) 0 = true) ∧
    (∃ (n : SlotNo) (s : State) (k : Cmd) (c : Ctrl) (x : _), Admitted s n.val k c ∧ k.isAdmin 0x09 = true ∧ bitOf (k.dw 10) 31 =
      false ∧ s.ns? k.nsid = some x ∧ k.nsid ∈ c.attach ∧ k.nsid ≠ 0xFFFFFFFF ∧ k.fid = 0x82) ∧
    (∃ (n : SlotNo) (s : State) (k : Cmd) (c : Ctrl) (x : _), Admitted s n.val k c ∧ k.isAdmin 0x09 = true ∧ bitOf (k.dw 10) 31 =
      false ∧ s.ns? k.nsid = some x ∧ k.nsid ∈ c.attach ∧ k.nsid ≠ 0xFFFFFFFF ∧ k.fid = 0x83) :=
  ⟨⟨0, host (cmd 0 9 1 0), cmd 0 9 1 0, ctl, by unfold Admitted; decide +kernel⟩,
    ⟨0, host (cmd 0 9 2 2), cmd 0 9 2 2, ctl, by unfold Admitted; decide +kernel⟩,
    ⟨0, host (cmd 0 9 4 1572864), cmd 0 9 4 1572864, ctl, by unfold Admitted; decide +kernel⟩,
    ⟨0, host (cmd 0 9 6 0), cmd 0 9 6 0, ctl, by unfold Admitted; decide +kernel⟩,
    ⟨0, host (cmd 0 9 7 4294901758), cmd 0 9 7 4294901758, ctl, by unfold Admitted; decide +kernel⟩,
    ⟨0, host (cmd 0 9 8 0), cmd 0 9 8 0, ctl, by unfold Admitted; decide +kernel⟩,
    ⟨0, host (cmd 0 9 9 2047), cmd 0 9 9 2047, ctl, by unfold Admitted; decide +kernel⟩,
    ⟨0, host (cmd 0 9 11 0), cmd 0 9 11 0, ctl, by unfold Admitted; decide +kernel⟩,
    ⟨0, host (cmd 0 9 12 0), cmd 0 9 12 0, ctl, [0x110], by unfold Admitted; decide +kernel⟩,
    ⟨0, host (cmd 0 9 14 0), cmd 0 9 14 0, ctl, by unfold Admitted; decide +kernel⟩,
    ⟨0, host (cmd 0 9 15 0), cmd 0 9 15 0, ctl, by unfold Admitted; decide +kernel⟩,
    ⟨0, host (cmd 0 9 129 1), cmd 0 9 129 1, ctl, by unfold Admitted; decide +kernel⟩,
    ⟨0, host (cmd 0 9 130 0), cmd 0 9 130 0, ctl, {}, by unfold Admitted; decide +kernel⟩,
    ⟨0, host (cmd 0 9 131 0), cmd 0 9 131 0, ctl, {}, by unfold Admitted; decide +kernel⟩⟩

theorem test_met_FeaturesRead :
    (∃ (n : SlotNo) (s : State) (k : Cmd) (c : Ctrl), Admitted s n.val k c ∧ k.isAdmin 0x0A = true ∧ bits (k.dw 10) 8 3 ≤ 2) ∧
    (∃ (n : SlotNo) (s : State) (k : Cmd) (c : Ctrl), Admitted s n.val k c ∧ k.isAdmin 0x0A = true ∧ bits (k.dw 10) 8 3 = 3) ∧
    (∃ (n : SlotNo) (s : State) (k : Cmd) (c : Ctrl), Admitted s n.val k c ∧ k.isAdmin 0x0C = true ∧ n.val ∉ c.aers ∧ c.aers.length
      < 16 ∧ c.events = []) ∧
    (∃ (n : SlotNo) (s : State) (k : Cmd) (c : Ctrl) (a : _) (b : _) (p : _) (r : _), Admitted s n.val k c ∧ k.isAdmin 0x0C = true
      ∧ n.val ∉ c.aers ∧ c.aers.length < 16 ∧ c.events = (a, b, p) :: r) ∧
    (∃ (n : SlotNo) (s : State) (k : Cmd) (c : Ctrl), Admitted s n.val k c ∧ k.isAdmin 0x18 = true) ∧
    (∃ (i : CtrlId) (s : State) (c : Ctrl), s.ctrl? i = some c ∧ c.enabled = true ∧ Tab.get 0 c.feats 0x0C0000 ≠ 0 ∧ bits
      (c.apst.getD c.ps 0) 8 24 ≠ 0 ∧ ctrlSlots s i = []) ∧
    (∃ (s : State), s.nvq.fallow = 1 ∧ s.map.dirty = [] ∧ s.map.pendingJ = [] ∧ peatUnarch s = 0) ∧
    (∃ (s : State), s.nvq.fallow = 3) :=
  ⟨⟨0, host (cmd 0 10 0x201), cmd 0 10 0x201, ctl, by unfold Admitted; decide +kernel⟩,
    ⟨0, host (cmd 0 10 0x301), cmd 0 10 0x301, ctl, by unfold Admitted; decide +kernel⟩,
    ⟨0, host (cmd 0 12), cmd 0 12, ctl, by unfold Admitted; decide +kernel⟩,
    ⟨0, host (cmd 0 12) { ctl with events := [(0, 0, 0)] }, cmd 0 12, { ctl with events := [(0, 0, 0)] }, 0, 0, 0, [],
      by unfold Admitted; decide +kernel⟩,
    ⟨0, host (cmd 0 0x18), cmd 0 0x18, ctl, by unfold Admitted; decide +kernel⟩,
    ⟨1, idle { ctl with feats := [(0x0C0000, 1)], apst := [0x110] }, { ctl with feats := [(0x0C0000, 1)], apst := [0x110] },
      by decide +kernel⟩,
    ⟨{ State.reset with nvq := { fallow := 1 } }, by decide +kernel⟩,
    ⟨{ State.reset with nvq := { fallow := 3 } }, by decide +kernel⟩⟩

theorem test_met_PagesAnswer :
    (∃ (n : SlotNo) (s : State) (k : Cmd) (c : Ctrl) (p : List (Nat × Nat × Nat)), Admitted s n.val k c ∧ k.isAdmin 0x02 = true ∧
      logPage s k.ctrl c (bits (k.dw 10) 0 8) (bits (k.dw 10) 8 7) = some p ∧ k.dw 12 % 4 = 0) ∧
    (∃ (n : SlotNo) (s : State) (k : Cmd) (c : Ctrl), Admitted s n.val k c ∧ k.isAdmin 0x02 = true ∧ logPage s k.ctrl c (bits (k.dw
      10) 0 8) (bits (k.dw 10) 8 7) = none) ∧
    (∃ (n : SlotNo) (s : State) (k : Cmd) (c : Ctrl) (p : _), Admitted s n.val k c ∧ k.isAdmin 0x06 = true ∧ identifyData s k c =
      .ok p) ∧
    (∃ (n : SlotNo) (s : State) (k : Cmd) (c : Ctrl) (e : _), Admitted s n.val k c ∧ k.isAdmin 0x06 = true ∧ identifyData s k c =
      .error e) ∧
    (∃ (n : SlotNo) (s : State) (k : Cmd) (c : Ctrl) (x : Namespace), Admitted s n.val k c ∧ k.isAdmin 0x86 = true ∧ s.ns? k.nsid =
      some x ∧ k.nsid ∈ c.attach ∧ (bits (k.dw 13) 24 8 = 0x10 ∨ bits (k.dw 13) 24 8 = 0x11) ∧ k.slba < nsBlocks s k.nsid x) :=
  ⟨⟨0, host (cmd 0 2 4), cmd 0 2 4, ctl, [], by unfold Admitted; decide +kernel⟩,
    ⟨0, host (cmd 0 2 6), cmd 0 2 6, ctl, by unfold Admitted; decide +kernel⟩,
    ⟨0, host (cmd 0 6 2), cmd 0 6 2, ctl, idList [1] 1, ⟨by unfold Admitted; decide +kernel, by decide +kernel, rfl⟩⟩,
    ⟨0, host (cmd 0 6 0xFF), cmd 0 6 0xFF, ctl, scInvalidField, ⟨by unfold Admitted; decide +kernel, by decide +kernel, rfl⟩⟩,
    ⟨0, host (cmd 0 0x86 0 0 0 0x10000000), cmd 0 0x86 0 0 0 0x10000000, ctl, {}, by unfold Admitted; decide +kernel⟩⟩

theorem test_met_Reservations :
    (∃ (n : SlotNo) (s : State) (k : Cmd) (c : Ctrl) (x : Namespace), Admitted s n.val k c ∧ k.isIo 0x0D = true ∧ s.ns? k.nsid =
      some x ∧ bits (k.dw 10) 0 3 = 0 ∧ x.resv.registered (hostOf c) = false) ∧
    (∃ (n : SlotNo) (s : State) (k : Cmd) (c : Ctrl) (x : Namespace) (cr : Nat), Admitted s n.val k c ∧ k.isIo 0x11 = true ∧ s.ns?
      k.nsid = some x ∧ bits (k.dw 10) 0 3 = 0 ∧ bits (k.dw 10) 8 8 ∈ [1, 2, 3, 4, 5, 6] ∧ x.resv.keyOk (hostOf c) cr = true ∧
      x.resv.rtype = 0) ∧
    (∃ (n : SlotNo) (s : State) (k : Cmd) (c : Ctrl) (x : Namespace) (cr : Nat), Admitted s n.val k c ∧ k.isIo 0x11 = true ∧ s.ns?
      k.nsid = some x ∧ bits (k.dw 10) 0 3 = 0 ∧ bits (k.dw 10) 8 8 ∈ [1, 2, 3, 4, 5, 6] ∧ x.resv.keyOk (hostOf c) cr = false) ∧
    (∃ (n : SlotNo) (s : State) (k : Cmd) (c : Ctrl) (x : Namespace) (cr : Nat), Admitted s n.val k c ∧ k.isIo 0x15 = true ∧ s.ns?
      k.nsid = some x ∧ bits (k.dw 10) 0 3 = 0 ∧ bits (k.dw 10) 8 8 = x.resv.rtype ∧ x.resv.keyOk (hostOf c) cr = true ∧
      x.resv.holds (hostOf c) = true ∧ x.resv.rtype < 3) ∧
    (∃ (n : SlotNo) (s : State) (k : Cmd) (c : Ctrl) (x : Namespace), Admitted s n.val k c ∧ k.isIo 0x0E = true ∧ s.ns? k.nsid =
      some x ∧ bitOf (k.dw 11) 0 = true) :=
  ⟨⟨0, host (cmd 1 13), cmd 1 13, ctl, {}, by unfold Admitted; decide +kernel⟩,
    ⟨0, host (cmd 1 17 0x600) ctl { resv := { regs := [(0, 5)] } }, cmd 1 17 0x600, ctl, { resv := { regs := [(0, 5)] } }, 5,
      by unfold Admitted; decide +kernel⟩,
    ⟨0, host (cmd 1 17 0x100), cmd 1 17 0x100, ctl, {}, 5, by unfold Admitted; decide +kernel⟩,
    ⟨0, host (cmd 1 21 0x200) ctl { resv := { regs := [(0, 5)], rtype := 2 } }, cmd 1 21 0x200, ctl,
      { resv := { regs := [(0, 5)], rtype := 2 } }, 5, by unfold Admitted; decide +kernel⟩,
    ⟨0, host (cmd 1 14 0 1), cmd 1 14 0 1, ctl, {}, by unfold Admitted; decide +kernel⟩⟩

theorem test_met_NamespacesManagedAndErased :
    (∃ (n : SlotNo) (d : NsCreate) (s : State) (k : Cmd) (c : Ctrl) (id : Nat), Admitted s n.val k c ∧ k.isAdmin 0x0D = true ∧ bits
      (k.dw 10) 0 4 = 0 ∧ tplBusy s = false ∧ s.cip.drbgUp = true ∧ (createNs d s.begin).1 = (0, id)) ∧
    (∃ (n : SlotNo) (s : State) (k : Cmd) (c : Ctrl) (x : Namespace), Admitted s n.val k c ∧ k.isAdmin 0x0D = true ∧ bits (k.dw 10)
      0 4 = 1 ∧ k.nsid ≠ 0xFFFFFFFF ∧ s.ns? k.nsid = some x ∧ drainsFor s n.val = false) ∧
    (∃ (n : SlotNo) (l : List Nat) (s : State) (k : Cmd) (c : Ctrl) (x : Namespace), Admitted s n.val k c ∧ k.isAdmin 0x15 = true ∧
      bits (k.dw 10) 0 4 = 0 ∧ s.ns? k.nsid = some x ∧ x.importing = false ∧ l ≠ [] ∧ (∀ i ∈ l, ∃ y, s.ctrl? i = some y ∧ k.nsid ∉
      y.attach)) ∧
    (∃ (n : SlotNo) (l : List Nat) (s : State) (k : Cmd) (c : Ctrl) (x : Namespace), Admitted s n.val k c ∧ k.isAdmin 0x15 = true ∧
      bits (k.dw 10) 0 4 = 1 ∧ s.ns? k.nsid = some x ∧ l ≠ [] ∧ (∀ i ∈ l, ∃ y, s.ctrl? i = some y ∧ k.nsid ∈ y.attach)) ∧
    (∃ (n : SlotNo) (s : State) (k : Cmd) (c : Ctrl) (x : Namespace), Admitted s n.val k c ∧ k.isAdmin 0x80 = true ∧ s.ns? k.nsid =
      some x ∧ drainsFor s n.val = false ∧ (bits (k.dw 10) 9 3 = 0 ∨ bits (k.dw 10) 9 3 = 2 ∧ s.cip.drbgUp = true) ∧ (bits (k.dw
      10) 0 4 = 0 ∧ 9 ≤ x.leafShift ∨ bits (k.dw 10) 0 4 = 1 ∧ 12 ≤ x.leafShift)) ∧
    (∃ (n : SlotNo) (s : State) (k : Cmd) (c : Ctrl), Admitted s n.val k c ∧ k.isAdmin 0x84 = true ∧ k.sanact = 4 ∧ drainsFor s
      n.val = false ∧ s.cip.drbgUp = true) ∧
    (∃ (n : SlotNo) (s : State) (k : Cmd) (c : Ctrl), Admitted s n.val k c ∧ k.isAdmin 0x84 = true ∧ k.sanact = 4 ∧ drainsFor s
      n.val = false ∧ s.cip.drbgUp = false) ∧
    (∃ (n : SlotNo) (s : State) (k : Cmd) (c : Ctrl), Admitted s n.val k c ∧ k.isAdmin 0x84 = true ∧ k.sanact = 1) :=
  ⟨⟨0, { nsze := 1, ncap := 1, lbaf := 1, csi := 0, template := 0, anagrp := 0 },
      { host (cmd 0 13) with cip := { drbgUp := true }, cfg := { run := some { imageLen := 0, serial := 0, nstpl := { templates := [{}] } } } },
      cmd 0 13, ctl, 2, by unfold Admitted; decide +kernel⟩,
    ⟨0, host (cmd 0 13 1), cmd 0 13 1, ctl, {}, by unfold Admitted; decide +kernel⟩,
    ⟨0, [1], host (cmd 0 21) { ctl with attach := [] }, cmd 0 21, { ctl with attach := [] }, {},
      ⟨by unfold Admitted; decide +kernel, rfl, rfl, rfl, rfl, by decide, fun i hi => ⟨{ ctl with attach := [] }, by simp at hi; subst hi; decide +kernel⟩⟩⟩,
    ⟨0, [1], host (cmd 0 21 1), cmd 0 21 1, ctl, {},
      ⟨by unfold Admitted; decide +kernel, rfl, rfl, rfl, by decide, fun i hi => ⟨ctl, by simp at hi; subst hi; decide +kernel⟩⟩⟩,
    ⟨0, { host (cmd 0 128 0x401) with cip := { drbgUp := true } }, cmd 0 128 0x401, ctl, {}, by unfold Admitted; decide +kernel⟩,
    ⟨0, { host (cmd 0 132 4) with cip := { drbgUp := true } }, cmd 0 132 4, ctl, by unfold Admitted; decide +kernel⟩,
    ⟨0, host (cmd 0 132 4), cmd 0 132 4, ctl, by unfold Admitted; decide +kernel⟩,
    ⟨0, host (cmd 0 132 1), cmd 0 132 1, ctl, by unfold Admitted; decide +kernel⟩⟩

theorem test_met_SluiceRules :
    (∃ (n : SlotNo) (s : State) (k : Cmd) (c : Ctrl), s.slot? n.val = some k ∧ s.ctrl? k.ctrl = some c ∧ k.state = .fetched ∧
      s.nvq.act = 0 ∧ s.pwr.decided = false ∧ s.nvq.fallow = 0 ∧ s.tmon.hold = false) ∧
    (∃ (n : SlotNo) (l : Link) (d : Fin 32) (s : State) (k : Cmd), s.slot? n.val = some k ∧ k.state = .admitted ∧ k.reads = true ∧
      s.pwr.decided = false ∧ releasedOn s (32 * l.val + d.val) < bits s.slu.ctl 0 4 ∧ (n.val, 32 * l.val + d.val) ∉ s.slu.out) ∧
    (∃ (s : State) (l : Nat), heldByFilling s = true ∧ fullestTract s false = some l ∧ (tractOf s l).state = .filling ∧
      s.map.copies.find l = none ∧ s.map.folds.find l = none ∧ tractFrontier s l < 2048 ∧ (tractStripe l s.begin).isSome = true) ∧
    (∃ (s : State), heldByFilling s = false) :=
  ⟨⟨0, host { cmd 1 2 with state := .fetched }, { cmd 1 2 with state := .fetched }, ctl, by decide +kernel⟩,
    ⟨0, 511, 31, host (cmd 1 2), cmd 1 2, by decide +kernel⟩,
    ⟨crowded, 0, by decide +kernel⟩,
    ⟨State.reset, by decide +kernel⟩⟩

theorem test_met_TractsAndJournal :
    (∃ (l : Ltn) (row : Nat) (c : RowCause) (s : State) (id : Nat) (e : Stripe), rowCauseHolds s l row c = true ∧ rowDirty s l row
      ≠ [] ∧ (∀ d ∈ rowDirty s l row, d.2.toLog = false) ∧ (rowDirty s l row).length = rowUnits s ∧ (stripesWhere s (fun id e =>
      decide (e.kind = 2 ∧ e.frontier < 512 ∧ id ∉ s.pwr.reserve))).head? = some (id, e)) ∧
    (∃ (l : Ltn) (row : Nat) (s : State), rowDirty s l row ≠ []) ∧
    (∃ (l : Ltn) (c : FoldCause) (s : State) (n : Nat), foldUpto s l c = some n ∧ (tractOf s l).state = .filling ∧
      s.map.copies.find l = none ∧ s.map.folds.find l = none ∧ tractFrontier s l < n ∧ (tractOf s l).stripe ≠ 0xFFFFFFFF) ∧
    (∃ (l : Ltn) (s : State) (j : FoldJob), s.map.folds.find l = some j ∧ (tractOf s l).state = .filling) ∧
    (∃ (l : Ltn) (d : Bool) (s : State) (f : Nat) (id : Nat) (u : State), mergeCause s l d = true ∧ s.map.copies.find l = none ∧
      s.map.folds.find l = none ∧ (tractOf s l).state ≠ .unmapped ∧ mergeRoom s (oldestClass s l) = true ∧ copyFen s l (copyMust s
      l) false = some (f, false) ∧ openStripe f 1 false l s.begin = some (id, u) ∧ (∀ h, (openLog l (tractOf s l).log h u).isSome =
      true)) ∧
    (∃ (l : Ltn) (s : State) (c : CopyJob), s.map.copies.find l = some c ∧ c.merge = true) ∧
    (∃ (l : Ltn) (s : State) (c : CopyJob), s.map.copies.find l = some c ∧ c.merge = false) ∧
    (∃ (l : Ltn) (s : State) (f : Nat) (id : Nat) (u : State), tractDue s l = true ∧ (tractOf s l).log = none ∧ s.map.copies.find l
      = none ∧ s.map.folds.find l = none ∧ (tractOf s l).stripe ≠ 0xFFFFFFFF ∧ (tractOf s l).state = .folded ∧ copyFen s l (decide
      ((tractOf s l).stripe ∈ s.ret.due)) false = some (f, false) ∧ openStripe f 1 false l s.begin = some (id, u)) ∧
    (∃ (l : Link) (b : Nat) (s : State), (s.block l.val b).use = .freed) ∧
    (∃ (s : State) (id : Nat) (e : Stripe) (w : _), s.map.pendingJ ≠ [] ∧ (stripesWhere s (fun _ e => decide (e.kind = 5 ∧
      e.frontier < 512))).head? = some (id, e) ∧ (rowFull s = true ∨ (w = true ∧ journalWaiter s = true))) ∧
    (∃ (s : State) (id : _) (u : _) (i : _), s.map.ckptNew = none ∧ metaStripe 4 s.begin = some (id, u) ∧ i ∈
      [Instr.checkpointTimer, Instr.checkpointNow .custodian]) ∧
    (∃ (s : State), s.map.ckptNew ≠ none) ∧
    (∃ (s : State) (c : Checkpoint), s.map.ckptNew = some c) ∧
    (∃ (id : StripeId) (s : State), (∀ e ∈ s.map.pendingJ, e.2 ≠ .stripeFree id)) :=
  ⟨⟨0, 0, .complete,
      { State.reset with map := { dirty := (List.range 96).map (fun u => (u, { data := {}, s1 := 0, s2 := 1 })), core := { stripes := [(9, { kind := 2 })] } } },
      9, { kind := 2 }, by decide +kernel⟩,
    ⟨0, 2047, { State.reset with map := { dirty := [(96 * 2047, { data := {}, s1 := 0, s2 := 1 })] } }, by decide +kernel⟩,
    ⟨0, .zoneFinish, { State.reset with map := { core := { tracts := [(0, { stripe := 5, state := .filling, zone := 14 })] } } },
      2048, by decide +kernel⟩,
    ⟨0,
      { State.reset with map := { core := { tracts := [(0, { stripe := 5, state := .filling })] }, folds := [(0, { upto := 2048 })] } },
      { upto := 2048 }, by decide +kernel⟩,
    ⟨0, true, due (some 3), 0, ((openStripe 0 1 false 0 (due (some 3)).begin).get
      (by decide +kernel)).1, ((openStripe 0 1 false 0 (due (some 3)).begin).get (by decide +kernel)).2, ⟨by decide +kernel, by decide +kernel, by decide +kernel, by decide +kernel, by decide +kernel, by decide +kernel, by decide +kernel, due_opens⟩⟩,
    ⟨0, { State.reset with map := { copies := [(0, { newStripe := 9, merge := true })] } }, { newStripe := 9, merge := true },
      by decide +kernel⟩,
    ⟨0, { State.reset with map := { copies := [(0, { newStripe := 9, merge := false })] } }, { newStripe := 9, merge := false },
      by decide +kernel⟩,
    ⟨0, due none, 0, ((openStripe 0 1 false 0 (due none).begin).get
      (by decide +kernel)).1, ((openStripe 0 1 false 0 (due none).begin).get (by decide +kernel)).2, by decide +kernel⟩,
    ⟨0, 64, { State.reset with map := { blocks := [(64, { use := .freed })] } }, by decide +kernel⟩,
    ⟨{ State.reset with map := { core := { stripes := [(9, { kind := 5 })] }, pendingJ := [(1, .stripeFree 3)], releases := [(1, 3)] } },
      9, { kind := 5 }, true, by decide +kernel⟩,
    ⟨oneDie, ((metaStripe 4 oneDie.begin).get
      (by decide +kernel)).1, ((metaStripe 4 oneDie.begin).get (by decide +kernel)).2, .checkpointTimer, by decide +kernel⟩,
    ⟨{ State.reset with map := { ckptNew := some { number := 1, stripe := 9, jseq := 1, core := {} } } }, by decide +kernel⟩,
    ⟨{ State.reset with map := { ckptNew := some { number := 1, stripe := 9, jseq := 1, core := {} } } },
      { number := 1, stripe := 9, jseq := 1, core := {} }, by decide +kernel⟩,
    ⟨3, State.reset, by decide +kernel⟩⟩

theorem test_met_RebuildJobsAndBenches :
    (∃ (id : StripeId) (slot : Fin 28) (s : State) (m : _) (b : _), slotNeedsJob s id slot.val = true ∧ jobOn s id = false ∧
      s.fen.hold = false ∧ jobFirst s id = true ∧ (absentSlots s id).length ≤ geoP s ∧ jobTarget s id = some (m, b)) ∧
    (∃ (id : StripeId) (slot : Fin 28) (s : State), slotNeedsJob s id slot.val = true ∧ jobOn s id = false ∧ s.fen.hold = false ∧
      jobFirst s id = true ∧ (absentSlots s id).length ≤ geoP s ∧ jobTarget s id = none) ∧
    (∃ (id : StripeId) (slot : Fin 28) (s : State), (slotNeedsJob s id slot.val = false ∨ jobOn s id = true ∨ s.fen.hold = true)) ∧
    (∃ (id : StripeId) (slot : Fin 28) (s : State) (j : RebuildJob) (a : Nat), s.fen.jobs.find? (fun j => decide (j.stripe = id ∧
      j.slot = slot.val)) = some j ∧ (stripeOf s id).slots[slot.val]? = some a ∧ s.map.releases = [] ∧ placesWait s id = false) ∧
    (∃ (id : StripeId) (slot : Fin 28) (s : State) (j : RebuildJob) (a : Nat), s.fen.jobs.find? (fun j => decide (j.stripe = id ∧
      j.slot = slot.val)) = some j ∧ (stripeOf s id).slots[slot.val]? = some a ∧ s.map.releases = [] ∧ placesWait s id = true) ∧
    (∃ (id : StripeId) (slot : Fin 28) (s : State), s.fen.jobs.find? (fun j => decide (j.stripe = id ∧ j.slot = slot.val)) = none)
      ∧
    (∃ (f : Nat) (s : State), fenCount s ≤ 16 ∧ f < fenCount s ∧ (∀ l, wornOut s l = false)) ∧
    (∃ (f : Fen) (s : State), s.fen.bench5 = true ∧ s.rd F.FEN_STATE_BENCH f.val ≤ 1) ∧
    (∃ (id : StripeId) (s : State), s.fen.bench5 = true ∧ id ∈ s.ret.due ∧ inPlaceRoom s = true) ∧
    (∃ (v : Word) (s : State), fenCount s ≤ 16 ∧ 10 ≤ v.toNat % 128 ∧ v.toNat % 128 ≤ 90 ∧ v.toNat % 128 % 5 = 0 ∧ v.toNat / 256 %
      128 ≤ 90) ∧
    (∃ (s : State), s.rd F.FEN_REBUILD_CTL_HOLD = 1) :=
  ⟨⟨5, 0, { State.reset with map := { core := { stripes := [(5, { kind := 1, absent := 1, slots := [0] })] } } }, 1, 64,
      by decide +kernel⟩,
    ⟨5, 0,
      { State.reset with map := { core := { stripes := [(5, { kind := 1, absent := 1, slots := [0] })], members := (List.range 32).map (fun i => (i, 0xFFFF)) } } },
      by decide +kernel⟩,
    ⟨5, 27, State.reset, by decide +kernel⟩,
    ⟨5, 0,
      { State.reset with map := { core := { stripes := [(5, { kind := 1, slots := [0] })] } }, fen := { jobs := [{ stripe := 5, slot := 0, target := 3 }] } },
      { stripe := 5, slot := 0, target := 3 }, 0, by decide +kernel⟩,
    ⟨5, 0,
      { State.reset with map := { core := { stripes := [(5, { kind := 1, slots := [0, 1048576, 2097152, 3145728, 4194304], frontier := 1 })] } }, fen := { jobs := [{ stripe := 5, slot := 0, target := 3 }], absent := [(0, .waiting), (1, .waiting), (2, .waiting), (3, .waiting), (4, .waiting)] } },
      { stripe := 5, slot := 0, target := 3 }, 0, by decide +kernel⟩,
    ⟨5, 0, State.reset, by decide +kernel⟩,
    ⟨15, State.reset, ⟨by decide +kernel, by decide +kernel, fun _ => by rfl⟩⟩,
    ⟨0, { State.reset with fen := { bench5 := true } }, by decide +kernel⟩,
    ⟨5, twoStacks { State.reset with fen := { bench5 := true }, ret := { due := [5] } }, by decide +kernel⟩,
    ⟨90 + 256 * 90, State.reset, by decide +kernel⟩,
    ⟨State.reset.wr F.FEN_REBUILD_CTL_HOLD 1, by decide +kernel⟩⟩

theorem test_met_RetentionAndDredge :
    (∃ (l : Nat) (s : State) (T : Int), ageTemp s l = some T ∧ l ≠ 0xFFFF ∧ ((memberKeys s).map (fun k => memberLink s (k / 32) (k
      % 32))).Nodup ∧ l ∈ (memberKeys s).map (fun k => memberLink s (k / 32) (k % 32))) ∧
    (∃ (l : Link) (b : Nat) (s : State), restsEarly s = false ∧ (s.block l.val b).use = .open ∨ (s.block l.val b).use = .full) ∧
    (∃ (id : StripeId) (s : State), (stripeOf s id).kind ≠ 0 ∧ (∀ r ∈ s.map.releases, r.2 ≠ id)) ∧
    (∃ (l : Link) (g : Fin 16) (s : State) (w : Witness), s.ret.witness.find (16 * l.val + g.val) = some w ∧ w.due ≤ s.life.now) ∧
    (∃ (s : State), ¬(4 ≤ passesIn s 1 ∧ 16 ≤ passesIn s 0) ∧ (∀ q ∈ s.ret.passes, q.id ≠ s.ret.nextPass)) ∧
    (∃ (s : State), 4 ≤ passesIn s 1 ∧ 16 ≤ passesIn s 0) ∧
    (∃ (s : State) (p : DredgePass), passOf s (s.rd F.RET_DREDGE_SEL_PASS_ID) = some p ∧ p.origin = 0 ∧ p.state ≤ 1) ∧
    (∃ (n : Nat) (id : StripeId) (s : State) (p : DredgePass), passOf s n = some p ∧ p.state = 1 ∧ s.boot.done = true ∧ passLeft s
      p id = true ∧ passReady s p id = true ∧ restsEarly s = false ∧ fenRebuilding s (stripeFen id) = false) ∧
    (∃ (n : Nat) (id : StripeId) (s : State) (p : DredgePass), passOf s n = some p ∧ p.state = 1 ∧ s.boot.done = true ∧ passLeft s
      p id = true ∧ passReady s p id = true ∧ restsEarly s = false ∧ fenRebuilding s (stripeFen id) = true) ∧
    (∃ (n : Nat) (s : State) (p : DredgePass), passOf s n = some p ∧ p.state = 1 ∧ p.origin = 0) ∧
    (∃ (n : Nat) (s : State) (p : DredgePass), passOf s n = some p ∧ p.state = 1 ∧ s.boot.done = true ∧ (stripesWhere s (fun id _
      => passLeft s p id)).isEmpty = true) :=
  ⟨⟨31, { oneFen with seam := { links := [(31, { temps := [30] })] } }, 30, by decide +kernel⟩,
    ⟨0, 64, { State.reset with map := { blocks := [(64, { use := .open })] } }, by decide +kernel⟩,
    ⟨5, { State.reset with map := { core := { stripes := [(5, { kind := 1 })] } } }, by decide +kernel⟩,
    ⟨0, 15, { State.reset with ret := { witness := [(15, {})] } }, {}, by decide +kernel⟩,
    ⟨State.reset, by decide +kernel⟩,
    ⟨{ State.reset with ret := { passes := (List.range 20).map (fun i => { id := i, state := if i < 4 then 1 else 0 }) } },
      by decide +kernel⟩,
    ⟨{ State.reset with ret := { passes := [{ id := 0 }] } }, { id := 0 }, by decide +kernel⟩,
    ⟨0, 5,
      { State.reset with boot := { done := true }, ret := { passes := [{ id := 0, state := 1 }] }, map := { core := { stripes := [(5, { kind := 4, frontier := 1 })] } } },
      { id := 0, state := 1 }, by decide +kernel⟩,
    ⟨0, 5,
      { State.reset with boot := { done := true }, ret := { passes := [{ id := 0, state := 1 }] }, map := { core := { stripes := [(5, { kind := 4, frontier := 1 })] } }, fen := { absent := [(0, .rebuilding)] } },
      { id := 0, state := 1 }, by decide +kernel⟩,
    ⟨0, { State.reset with ret := { passes := [{ id := 0, state := 1 }] }, map := { core := { stripes := [(5, { kind := 4 })] } } },
      { id := 0, state := 1 }, by decide +kernel⟩,
    ⟨0, { State.reset with boot := { done := true }, ret := { passes := [{ id := 0, state := 1 }] } }, { id := 0, state := 1 },
      by decide +kernel⟩⟩

theorem test_met_ReadPathSteps :
    (∃ (n : Nat) (s : State) (l : Ladder), s.ldpc.ladders.find n = some l ∧ l.result = 0 ∧ l.step = .hard ∧ n ∉ s.ldpc.softHeld) ∧
    (∃ (n : Nat) (s : State) (l : Ladder) (v : _), s.ldpc.ladders.find n = some l ∧ l.result = 0 ∧ l.step = .retry ∧ n ∉
      s.ldpc.softHeld ∧ s.ldpc.vecs.find n = some v ∧ l.attempts + 1 < min l.retryMax v.plan.length) ∧
    (∃ (n : Nat) (s : State) (l : Ladder) (v : _), s.ldpc.ladders.find n = some l ∧ l.result = 0 ∧ l.step = .retry ∧
      s.ldpc.vecs.find n = some v ∧ min l.retryMax v.plan.length ≤ l.attempts + 1 ∧ l.softLevels ≠ 0 ∧ softDepth s < 4096) ∧
    (∃ (n : Nat) (s : State) (l : Ladder), s.ldpc.ladders.find n = some l ∧ l.result = 0 ∧ l.step = .soft2 ∧ 2 ≤ l.softLevels) ∧
    (∃ (n : Nat) (s : State) (l : Ladder), s.ldpc.ladders.find n = some l ∧ l.result = 0 ∧ (l.step = .soft3 ∨ l.step = .soft2 ∧
      l.softLevels < 2)) ∧
    (∃ (n : Nat) (s : State) (l : Ladder), s.ldpc.ladders.find n = some l ∧ l.result = 0 ∧ l.step = .recon) ∧
    (∃ (n : Nat) (s : State) (l : Ladder), s.ldpc.ladders.find n = some l ∧ l.result = 0 ∧ l.step = .hard ∧ l.reread = false) ∧
    (∃ (n : Nat) (s : State) (l : Ladder), s.ldpc.ladders.find n = some l ∧ l.result = 0 ∧ l.step = .hard ∧ l.reread = true) ∧
    (∃ (n : Nat) (s : State) (l : Ladder) (f : _) (g : _), s.ldpc.ladders.find n = some l ∧ l.result = 0 ∧ l.raced = false ∧ (f =
      true ∨ g = true)) ∧
    (∃ (n : Nat) (s : State) (l : Ladder), s.ldpc.ladders.find n = some l ∧ l.result = 0 ∧ l.step ≠ .recon) ∧
    (∃ (n : Nat) (s : State) (l : Ladder), s.ldpc.ladders.find n = some l ∧ l.result = 0 ∧ l.host = true ∧ (l.step = .retry ∨
      l.step = .soft2 ∨ l.step = .soft3)) ∧
    (∃ (l : Link) (s : State), bitOf (s.rd F.LDPC_ENC_FENCED_FENCED (l.val / 32)) (l.val % 32) = false ∧ Tab.get 0 s.ldpc.encErrs
      l.val = 0) ∧
    (∃ (l : Link) (s : State), bitOf (s.rd F.LDPC_ENC_FENCED_FENCED (l.val / 32)) (l.val % 32) = true ∧ fenCount s ≤ 16) ∧
    (∃ (n : Fin 288) (s : State), isFenced s F.LDPC_HARD_FENCED_FENCED n.val = false) ∧
    (∃ (n : Fin 32) (s : State), isFenced s F.LDPC_SOFT_FENCED_FENCED n.val = false) ∧
    (∃ (n : Fin 80) (s : State), isFenced s F.CIP_PIPE_FENCED_FENCED n.val = false) ∧
    (∃ (n : Fin 160) (s : State), isFenced s F.CIP_LANE_FENCED_FENCED n.val = false) :=
  ⟨⟨0, { State.reset with ldpc := { ladders := [(0, { link := 0 })] } }, { link := 0 }, by decide +kernel⟩,
    ⟨0,
      { State.reset with ldpc := { ladders := [(0, { link := 0, step := .retry, attempts := 2 })], vecs := [(0, { plan := [[], [], [], []] })] } },
      { link := 0, step := .retry, attempts := 2 }, { plan := [[], [], [], []] }, by decide +kernel⟩,
    ⟨0,
      { State.reset with ldpc := { ladders := [(0, { link := 0, step := .retry, attempts := 3 })], vecs := [(0, { plan := [[], [], [], []] })] } },
      { link := 0, step := .retry, attempts := 3 }, { plan := [[], [], [], []] }, by decide +kernel⟩,
    ⟨0, { State.reset with ldpc := { ladders := [(0, { link := 0, step := .soft2 })] } }, { link := 0, step := .soft2 },
      by decide +kernel⟩,
    ⟨0, { State.reset with ldpc := { ladders := [(0, { link := 0, step := .soft2, softLevels := 1 })] } },
      { link := 0, step := .soft2, softLevels := 1 }, by decide +kernel⟩,
    ⟨0, { State.reset with ldpc := { ladders := [(0, { link := 0, step := .recon })] } }, { link := 0, step := .recon },
      by decide +kernel⟩,
    ⟨0, { State.reset with ldpc := { ladders := [(0, { link := 0, reread := false })] } }, { link := 0, reread := false },
      by decide +kernel⟩,
    ⟨0, { State.reset with ldpc := { ladders := [(0, { link := 0, reread := true })] } }, { link := 0, reread := true },
      by decide +kernel⟩,
    ⟨0, { State.reset with ldpc := { ladders := [(0, { link := 0, raced := false })] } }, { link := 0, raced := false }, true,
      false, by decide +kernel⟩,
    ⟨0, { State.reset with ldpc := { ladders := [(0, { link := 0, raced := false })] } }, { link := 0, raced := false },
      by decide +kernel⟩,
    ⟨0, { State.reset with ldpc := { ladders := [(0, { link := 0, step := .soft3 })] } }, { link := 0, step := .soft3 },
      by decide +kernel⟩,
    ⟨511, State.reset, by decide +kernel⟩,
    ⟨31, State.reset.wr F.LDPC_ENC_FENCED_FENCED (2 ^ 31) 0, by decide +kernel⟩,
    ⟨287, State.reset, by decide +kernel⟩,
    ⟨31, State.reset, by decide +kernel⟩,
    ⟨79, State.reset, by decide +kernel⟩,
    ⟨159, State.reset, by decide +kernel⟩⟩

theorem test_met_HewerRingAndOperations :
    (∃ (n : Link) (k : Nat) (s : State), s.isSet F.HEW_RING_CFG_ENABLE n.val = true ∧ s.rd F.HEW_STAT_STATE n.val = 1 ∧ s.rd
      F.HEW_RING_HEAD_HEAD n.val ≠ s.rd F.HEW_RING_TAIL_TAIL n.val ∧ freeInFlight s n.val = some k) ∧
    (∃ (n : Link) (k : Fin 128) (h : Held) (s : State), s.held? n.val k.val = some h ∧ h.ended = false ∧ mayStart s n.val k.val h =
      true) ∧
    (∃ (n : Link) (k : Fin 128) (h : Held) (s : State) (e : _), s.held? n.val k.val = some h ∧ h.ended = false ∧ h.sent = false ∧
      (h.started = true ∨ mayStart s n.val k.val h = true) ∧ creditsFor s n.val h = true ∧ e ∈ [(Instr.hewRead n k, 0x01),
      (.hewReadOfs n k, 0x02), (.hewSoftSense n k, 0x03), (.hewProgram n k, 0x10), (.hewErase n k, 0x18), (.hewCalread n k, 0x20),
      (.hewMarkread n k, 0x21)] ∧ h.opcode = e.2) ∧
    (∃ (n : Link) (k : Fin 128) (h : Held) (s : State), s.held? n.val k.val = some h ∧ h.opcode = 0x30 ∧ mayStart s n.val k.val h =
      true) :=
  ⟨⟨511, 0, ((State.reset.wr F.HEW_RING_CFG_ENABLE 1 511).wr F.HEW_STAT_STATE 1 511).wr F.HEW_RING_TAIL_TAIL 1 511,
      by decide +kernel⟩,
    ⟨0, 0, op 1, hewing (op 1), by decide +kernel⟩,
    ⟨0, 0, op 0x10, (hewing (op 0x10)).wr F.SEAM_CREDIT_DATA 16, (.hewProgram 0 0, 0x10), by decide +kernel⟩,
    ⟨0, 0, op 0x30, hewing (op 0x30), by decide +kernel⟩⟩

theorem test_met_HewerCompletes :
    (∃ (n : Link) (k : Fin 128) (st : BitVec 8) (det : BitVec 16) (h : Held) (s : State) (r : _), s.held? n.val k.val = some h ∧
      h.sent = true ∧ h.ended = false ∧ memberStatus st.toNat det.toNat = some r) ∧
    (∃ (n : Link) (k : Fin 128) (st : BitVec 8) (det : BitVec 16) (h : Held) (s : State), s.held? n.val k.val = some h ∧ h.sent =
      true ∧ h.ended = false ∧ memberStatus st.toNat det.toNat = none ∧ h.suspended = false) ∧
    (∃ (n : Link) (k : Fin 128) (h : Held) (s : State), s.held? n.val k.val = some h ∧ h.sent = true ∧ h.ended = false ∧
      h.suspended = false) ∧
    (∃ (n : Link) (k : Fin 128) (s : State), s.held? n.val k.val = none) ∧
    (∃ (n : Link) (d : Fin 32) (k : Nat) (h : Held) (s : State), s.isSet F.HEW_PF_STAT_HALT = false ∧ (heldOf s n.val).find? (fun e
      => decide (e.2.die = d.val) && suspendable s e.2 && suspWaits s n.val e.2) = some (k, h)) ∧
    (∃ (n : Link) (d : Fin 32) (k : Nat) (h : Held) (s : State), s.isSet F.HEW_PF_STAT_HALT = false ∧ (heldOf s n.val).find? (fun e
      => decide (e.2.die = d.val) && e.2.suspended) = some (k, h) ∧ (dieOthers s n.val k h).any (fun e => e.started) = false ∧
      (suspWaits s n.val h = false ∨ s.rd F.HEW_SUSP_CTL_WINDOW ≤ h.window)) ∧
    (∃ (n : Link) (d : Fin 32) (s : State), (∀ e ∈ heldOf s n.val, e.2.die = d.val → e.2.sent = false ∧ e.2.suspended = false)) ∧
    (∃ (s : State), s.isSet F.HEW_PF_STAT_HALT = false) ∧
    (∃ (n : Link) (s : State), s.isSet F.HEW_PF_STAT_HALT = true ∧ (∀ e ∈ heldOf s n.val, e.2.flush = true → e.2.started = true)) ∧
    (∃ (n : Link) (k : Fin 128) (j : Fin 128) (h : Held) (g : Held) (s : State), s.isSet F.HEW_PF_STAT_HALT = true ∧ s.held? n.val
      k.val = some h ∧ h.flush = true ∧ h.started = false ∧ s.held? n.val j.val = some g ∧ g.started = true ∧ g.ended = false ∧
      g.die = h.die) :=
  ⟨⟨0, 0, 5, 0x4000, { op 0x10 with sent := true }, hewing { op 0x10 with sent := true }, 0x31, by decide +kernel⟩,
    ⟨0, 0, 7, 0, { op 0x10 with sent := true }, hewing { op 0x10 with sent := true }, by decide +kernel⟩,
    ⟨0, 0, { op 0x10 with sent := true }, hewing { op 0x10 with sent := true }, by decide +kernel⟩,
    ⟨511, 127, State.reset, by decide +kernel⟩,
    ⟨0, 31, 0, { op 0x10 with sent := true, started := true, die := 31 }, hewing
      { op 0x10 with sent := true, started := true, die := 31 } [(1, { op 1 with ctl := 2, order := 1, block := 7, die := 31 })],
      by decide +kernel⟩,
    ⟨0, 0, 0, { op 0x10 with sent := true, started := true, suspended := true }, hewing
      { op 0x10 with sent := true, started := true, suspended := true }, by decide +kernel⟩,
    ⟨0, 0, hewing (op 0x10), by decide +kernel⟩,
    ⟨State.reset, by decide +kernel⟩,
    ⟨0, State.reset.wr F.HEW_PF_STAT_HALT 1, by decide +kernel⟩,
    ⟨0, 0, 1, { op 0x10 with ctl := 4 }, { op 1 with started := true }, (hewing { op 0x10 with ctl := 4 } [(1,
      { op 1 with started := true })]).wr F.HEW_PF_STAT_HALT 1, by decide +kernel⟩⟩

theorem test_met_MicrocodeWords :
    (∃ (n : Link) (k : Fin 128) (s : State) (h : Held) (g : Held) (w : Nat), UcReady s n.val k.val h w ∧ g = { h with pc := (h.pc +
      1) % 8192 } ∧ ucOp w = 0x00) ∧
    (∃ (n : Link) (k : Fin 128) (s : State) (h : Held) (g : Held) (w : Nat), UcReady s n.val k.val h w ∧ g = { h with pc := (h.pc +
      1) % 8192 } ∧ ucOp w = 0x01) ∧
    (∃ (n : Link) (k : Fin 128) (s : State) (h : Held) (g : Held) (w : Nat) (x : _), UcReady s n.val k.val h w ∧ g = { h with pc :=
      (h.pc + 1) % 8192 } ∧ ucSrc w ≠ 26 ∧ ucSrc w ≠ 29 ∧ ucReg s h (ucSrc w) = x ∧ ucOp w = 0x02) ∧
    (∃ (n : Link) (k : Fin 128) (s : State) (h : Held) (g : Held) (w : Nat) (x : _), UcReady s n.val k.val h w ∧ g = { h with pc :=
      (h.pc + 1) % 8192 } ∧ ucSrc w ≠ 26 ∧ ucSrc w ≠ 29 ∧ ucReg s h (ucSrc w) = x ∧ ucOp w = 0x03) ∧
    (∃ (n : Link) (k : Fin 128) (s : State) (h : Held) (g : Held) (w : Nat) (x : _), UcReady s n.val k.val h w ∧ g = { h with pc :=
      (h.pc + 1) % 8192 } ∧ ucSrc w ≠ 26 ∧ ucSrc w ≠ 29 ∧ ucReg s h (ucSrc w) = x ∧ ucOp w = 0x04) ∧
    (∃ (n : Link) (k : Fin 128) (s : State) (h : Held) (g : Held) (w : Nat) (x : _), UcReady s n.val k.val h w ∧ g = { h with pc :=
      (h.pc + 1) % 8192 } ∧ ucSrc w ≠ 26 ∧ ucSrc w ≠ 29 ∧ ucReg s h (ucSrc w) = x ∧ ucOp w = 0x05) ∧
    (∃ (n : Link) (k : Fin 128) (s : State) (h : Held) (g : Held) (w : Nat) (x : _), UcReady s n.val k.val h w ∧ g = { h with pc :=
      (h.pc + 1) % 8192 } ∧ ucSrc w ≠ 26 ∧ ucSrc w ≠ 29 ∧ ucReg s h (ucSrc w) = x ∧ ucOp w = 0x06) ∧
    (∃ (n : Link) (k : Fin 128) (s : State) (h : Held) (g : Held) (w : Nat) (x : _), UcReady s n.val k.val h w ∧ g = { h with pc :=
      (h.pc + 1) % 8192 } ∧ ucSrc w ≠ 26 ∧ ucSrc w ≠ 29 ∧ ucReg s h (ucSrc w) = x ∧ ucOp w = 0x07) ∧
    (∃ (n : Link) (k : Fin 128) (s : State) (h : Held) (g : Held) (w : Nat) (x : _), UcReady s n.val k.val h w ∧ g = { h with pc :=
      (h.pc + 1) % 8192 } ∧ ucSrc w ≠ 26 ∧ ucSrc w ≠ 29 ∧ ucReg s h (ucSrc w) = x ∧ ucOp w = 0x08) ∧
    (∃ (n : Link) (k : Fin 128) (s : State) (h : Held) (g : Held) (w : Nat) (x : _), UcReady s n.val k.val h w ∧ g = { h with pc :=
      (h.pc + 1) % 8192 } ∧ ucSrc w ≠ 26 ∧ ucSrc w ≠ 29 ∧ ucReg s h (ucSrc w) = x ∧ ucOp w = 0x3E) ∧
    (∃ (n : Link) (k : Fin 128) (s : State) (h : Held) (g : Held) (w : Nat), UcReady s n.val k.val h w ∧ g = { h with pc := (h.pc +
      1) % 8192 } ∧ ucOp w = 0x10) ∧
    (∃ (n : Link) (k : Fin 128) (s : State) (h : Held) (g : Held) (w : Nat) (b : _), UcReady s n.val k.val h w ∧ g = { h with pc :=
      (h.pc + 1) % 8192 } ∧ ucCond s n.val g (ucSrc w) = some b ∧ ucOp w = 0x11) ∧
    (∃ (n : Link) (k : Fin 128) (s : State) (h : Held) (g : Held) (w : Nat), UcReady s n.val k.val h w ∧ g = { h with pc := (h.pc +
      1) % 8192 } ∧ 10 ≤ ucSrc w ∧ ucOp w = 0x11) ∧
    (∃ (n : Link) (k : Fin 128) (s : State) (h : Held) (g : Held) (w : Nat), UcReady s n.val k.val h w ∧ g = { h with pc := (h.pc +
      1) % 8192 } ∧ ucOp w = 0x12) ∧
    (∃ (n : Link) (k : Fin 128) (s : State) (h : Held) (g : Held) (w : Nat) (a : _) (r : _), UcReady s n.val k.val h w ∧ g = { h
      with pc := (h.pc + 1) % 8192 } ∧ h.stack = a :: r ∧ ucOp w = 0x13) ∧
    (∃ (n : Link) (k : Fin 128) (s : State) (h : Held) (g : Held) (w : Nat) (o : _), UcReady s n.val k.val h w ∧ g = { h with pc :=
      (h.pc + 1) % 8192 } ∧ o = ucImm w % 256 ∧ ucOp w = 0x20) ∧
    (∃ (n : Link) (k : Fin 128) (s : State) (h : Held) (g : Held) (w : Nat), UcReady s n.val k.val h w ∧ g = { h with pc := (h.pc +
      1) % 8192 } ∧ ucOp w = 0x21) ∧
    (∃ (n : Link) (k : Fin 128) (s : State) (h : Held) (g : Held) (w : Nat), UcReady s n.val k.val h w ∧ g = { h with pc := (h.pc +
      1) % 8192 } ∧ ucOp w = 0x22) ∧
    (∃ (n : Link) (k : Fin 128) (s : State) (h : Held) (g : Held) (w : Nat) (b : _), UcReady s n.val k.val h w ∧ g = { h with pc :=
      (h.pc + 1) % 8192 } ∧ ucCond s n.val g (ucSrc w) = some b ∧ ucOp w = 0x23) ∧
    (∃ (n : Link) (k : Fin 128) (s : State) (h : Held) (g : Held) (w : Nat), UcReady s n.val k.val h w ∧ g = { h with pc := (h.pc +
      1) % 8192 } ∧ 10 ≤ ucSrc w ∧ ucOp w = 0x23) ∧
    (∃ (n : Link) (k : Fin 128) (s : State) (h : Held) (g : Held) (w : Nat), UcReady s n.val k.val h w ∧ g = { h with pc := (h.pc +
      1) % 8192 } ∧ ucOp w = 0x24) ∧
    (∃ (n : Link) (k : Fin 128) (s : State) (h : Held) (g : Held) (w : Nat), UcReady s n.val k.val h w ∧ g = { h with pc := (h.pc +
      1) % 8192 } ∧ ucOp w ∉ ucOpcodes) ∧
    (∃ (n : Link) (k : Fin 128) (s : State) (h : Held) (w : _), fenCount s ≤ 16 ∧ s.held? n.val k.val = some h ∧ h.code = true ∧
      h.ended = false ∧ ucFetchWord (ucWordAt s (storeOf s n.val) h.bank h.pc) = .corrected w ∧ ucOp w = 0x00) ∧
    (∃ (n : Link) (k : Fin 128) (s : State) (h : Held), fenCount s ≤ 16 ∧ s.held? n.val k.val = some h ∧ h.code = true ∧ h.ended =
      false ∧ ucFetchWord (ucWordAt s (storeOf s n.val) h.bank h.pc) = .bad) :=
  ⟨⟨0, 0, coded 0 seq, seq, { seq with pc := 1 }, 0, by unfold UcReady; decide +kernel⟩,
    ⟨0, 0, coded 125894655 seq, seq, { seq with pc := 1 }, 125894655, by unfold UcReady; decide +kernel⟩,
    ⟨0, 0, coded 166854655 seq, seq, { seq with pc := 1 }, 166854655, ucReg (coded 166854655 seq) seq 17,
      by unfold UcReady; decide +kernel⟩,
    ⟨0, 0, coded 234881023 seq, seq, { seq with pc := 1 }, 234881023, ucReg (coded 234881023 seq) seq 31,
      by unfold UcReady; decide +kernel⟩,
    ⟨0, 0, coded 301006847 seq, seq, { seq with pc := 1 }, 301006847, ucReg (coded 301006847 seq) seq 16,
      by unfold UcReady; decide +kernel⟩,
    ⟨0, 0, coded 368181247 seq, seq, { seq with pc := 1 }, 368181247, ucReg (coded 368181247 seq) seq 17,
      by unfold UcReady; decide +kernel⟩,
    ⟨0, 0, coded 435290111 seq, seq, { seq with pc := 1 }, 435290111, ucReg (coded 435290111 seq) seq 17,
      by unfold UcReady; decide +kernel⟩,
    ⟨0, 0, coded 502398975 seq, seq, { seq with pc := 1 }, 502398975, ucReg (coded 502398975 seq) seq 17,
      by unfold UcReady; decide +kernel⟩,
    ⟨0, 0, coded 538902528 seq, seq, { seq with pc := 1 }, 538902528, ucReg (coded 538902528 seq) seq 31,
      by unfold UcReady; decide +kernel⟩,
    ⟨0, 0, coded 4160815103 seq, seq, { seq with pc := 1 }, 4160815103, ucReg (coded 4160815103 seq) seq 0,
      by unfold UcReady; decide +kernel⟩,
    ⟨0, 0, coded 1073750015 seq, seq, { seq with pc := 1 }, 1073750015, by unfold UcReady; decide +kernel⟩,
    ⟨0, 0, coded 1140858879 seq, seq, { seq with pc := 1 }, 1140858879, true, by unfold UcReady; decide +kernel⟩,
    ⟨0, 0, coded 1141506048 seq, seq, { seq with pc := 1 }, 1141506048, by unfold UcReady; decide +kernel⟩,
    ⟨0, 0, coded 1207959559 seq, seq, { seq with pc := 1 }, 1207959559, by unfold UcReady; decide +kernel⟩,
    ⟨0, 0, coded 1275068416 ({ seq with stack := [5] }), { seq with stack := [5] }, { { seq with stack := [5] } with pc := 1 },
      1275068416, 5, [], by unfold UcReady; decide +kernel⟩,
    ⟨0, 0, coded 2147483920 seq, seq, { seq with pc := 1 }, 2147483920, 0x10, by unfold UcReady; decide +kernel⟩,
    ⟨0, 0, coded 2214592512 seq, seq, { seq with pc := 1 }, 2214592512, by unfold UcReady; decide +kernel⟩,
    ⟨0, 0, coded 2281701377 seq, seq, { seq with pc := 1 }, 2281701377, by unfold UcReady; decide +kernel⟩,
    ⟨0, 0, coded 2349400064 seq, seq, { seq with pc := 1 }, 2349400064, false, by unfold UcReady; decide +kernel⟩,
    ⟨0, 0, coded 2350841856 seq, seq, { seq with pc := 1 }, 2350841856, by unfold UcReady; decide +kernel⟩,
    ⟨0, 0, coded 2415919104 seq, seq, { seq with pc := 1 }, 2415919104, by unfold UcReady; decide +kernel⟩,
    ⟨0, 0, coded 4227858432 seq, seq, { seq with pc := 1 }, 4227858432, by unfold UcReady; decide +kernel⟩,
    ⟨0, 0, coded 0 seq 1, seq, 0, by decide +kernel⟩,
    ⟨0, 0, coded 0 seq 3, seq, by decide +kernel⟩⟩

theorem test_met_BanksAndEpochs :
    (∃ (f : Fen) (s : State), (s.ucs.switchReq.find f.val).isSome = true ∧ s.isSet F.UCS_BANK_PENDING f.val = false ∧ s.ucs.epoch =
      none) ∧
    (∃ (f : Fen) (s : State), s.isSet F.UCS_BANK_PENDING f.val = true ∧ (∀ n < 512, storeOf s n = f.val → linkUp s n = true →
      Tab.get false s.ucs.started n = true ∧ ∀ e ∈ heldOf s n, e.2.code = true → e.2.bank = s.rd F.UCS_BANK_LIVE f.val)) ∧
    (∃ (s : State) (r : _), s.ucs.epoch = none ∧ s.cfg.reapply.any Reapply.waitHt = false ∧ idleBankPinned s = false ∧ fwRetry s =
      some r ∧ retrySetOk r = true) ∧
    (∃ (s : State), s.ucs.epoch = none ∧ s.cfg.reapply.any Reapply.waitHt = false ∧ idleBankPinned s = false ∧ fwRetry s = none) ∧
    (∃ (s : State) (e : Epoch) (n : Link), s.ucs.epoch = some e ∧ linkUp s n.val = true) ∧
    (∃ (s : State) (e : Epoch), s.ucs.epoch = some e ∧ e.kind = .retryTable) ∧
    (∃ (s : State) (e : Epoch), s.ucs.epoch = some e ∧ e.kind = .seal) ∧
    (∃ (s : State) (e : Epoch), s.ucs.epoch = some e ∧ e.unitAck = true ∧ (∀ n < 512, linkUp s n = true → n ∈ e.acked) ∧
      s.ucs.sealReq = false ∧ s.ucs.retryReq = false) :=
  ⟨⟨15, { State.reset with ucs := { switchReq := [(15, true)] } }, by decide +kernel⟩,
    ⟨0, oneFen.wr F.UCS_BANK_PENDING 1, by decide +kernel⟩,
    ⟨{ State.reset with upd := { fw1 := some { serial := 1, version := 1, retry := some { words := [0x20001, 0, 0, 0] ++ List.replicate 12 0 ++ [0x1000000] } } } },
      { words := [0x20001, 0, 0, 0] ++ List.replicate 12 0 ++ [0x1000000] }, by decide +kernel⟩,
    ⟨State.reset, by decide +kernel⟩,
    ⟨({ State.reset with ucs := { epoch := some { kind := .seal } } }).wr F.SEAM_STAT_STATE 6 511, { kind := .seal }, 511,
      by decide +kernel⟩,
    ⟨{ State.reset with ucs := { epoch := some { kind := .retryTable } } }, { kind := .retryTable }, by decide +kernel⟩,
    ⟨{ State.reset with ucs := { epoch := some { kind := .seal } } }, { kind := .seal }, by decide +kernel⟩,
    ⟨{ State.reset with ucs := { epoch := some { kind := .seal, unitAck := true } } }, { kind := .seal, unitAck := true },
      by decide +kernel⟩⟩

theorem test_met_SeamLinks :
    (∃ (l : Link) (s : State) (k : LinkState), fenCount s ≤ 16 ∧ k = s.link l.val ∧ seamState s l.val = 1 ∧ s.isSet
      F.SEAM_CTL_ENABLE l.val = true ∧ k.stayDown = false) ∧
    (∃ (l : Link) (s : State) (k : LinkState), fenCount s ≤ 16 ∧ k = s.link l.val ∧ seamState s l.val = 2) ∧
    (∃ (l : Link) (s : State) (k : LinkState), fenCount s ≤ 16 ∧ k = s.link l.val ∧ seamState s l.val = 3) ∧
    (∃ (l : Link) (s : State) (k : LinkState), fenCount s ≤ 16 ∧ k = s.link l.val ∧ seamState s l.val = 4) ∧
    (∃ (l : Link) (s : State) (k : LinkState) (d : IdentBody), fenCount s ≤ 16 ∧ k = s.link l.val ∧ seamState s l.val = 5 ∧ k.ident
      = some d ∧ (k.serial = 0 ∨ k.serial = d.serial) ∧ servesMember s l.val = true) ∧
    (∃ (l : Link) (s : State) (k : LinkState) (d : IdentBody), fenCount s ≤ 16 ∧ k = s.link l.val ∧ seamState s l.val = 5 ∧ k.ident
      = some d ∧ (k.serial = 0 ∨ k.serial = d.serial) ∧ servesMember s l.val = false) ∧
    (∃ (l : Link) (s : State) (k : LinkState) (d : IdentBody), fenCount s ≤ 16 ∧ k = s.link l.val ∧ seamState s l.val = 5 ∧ k.ident
      = some d ∧ k.serial ≠ 0 ∧ k.serial ≠ d.serial) ∧
    (∃ (l : Link) (s : State) (k : LinkState) (d : IdentBody), fenCount s ≤ 16 ∧ k = s.link l.val ∧ seamState s l.val = 8 ∧ k.sub =
      5 ∧ k.ident = some d ∧ k.serial = d.serial ∧ s.rd F.SEAM_SESSION_SESSION l.val = d.session.toNat) ∧
    (∃ (l : Link) (s : State) (k : LinkState), fenCount s ≤ 16 ∧ k = s.link l.val ∧ seamState s l.val ∈ [2, 3, 4, 5] ∧ k.failures +
      1 < 3) ∧
    (∃ (l : Link) (s : State) (k : LinkState), fenCount s ≤ 16 ∧ k = s.link l.val ∧ linkUp s l.val = true ∧ s.rd F.SEAM_CREDIT_CMD
      l.val = 0 ∧ packetWaits s l.val = true) ∧
    (∃ (l : Link) (s : State) (k : LinkState) (i : _), fenCount s ≤ 16 ∧ k = s.link l.val ∧ seamState s l.val = 6 ∧ k.wantRecal =
      false ∧ windowInFen s l.val = false ∧ i ∈ [Instr.recalReq l false, .recalPeriodTimer l]) ∧
    (∃ (l : Link) (s : State) (k : LinkState), fenCount s ≤ 16 ∧ k = s.link l.val ∧ seamState s l.val = 6 ∧ k.memberWin = false) ∧
    (∃ (l : Link) (s : State) (k : LinkState), fenCount s ≤ 16 ∧ k = s.link l.val ∧ seamState s l.val = 6 ∧ k.wantRecal = true) ∧
    (∃ (l : Link) (s : State) (k : LinkState), fenCount s ≤ 16 ∧ k = s.link l.val ∧ seamState s l.val = 7) ∧
    (∃ (l : Link) (s : State) (k : LinkState), fenCount s ≤ 16 ∧ k = s.link l.val ∧ seamState s l.val = 6 ∧ heldOf s l.val = []) ∧
    (∃ (l : Link) (s : State) (k : LinkState), fenCount s ≤ 16 ∧ k = s.link l.val ∧ seamState s l.val = 6 ∧ heldOf s l.val ≠ []) ∧
    (∃ (l : Link) (s : State) (k : LinkState), fenCount s ≤ 16 ∧ k = s.link l.val ∧ seamState s l.val = 9) ∧
    (∃ (l : Link) (s : State) (k : LinkState), fenCount s ≤ 16 ∧ k = s.link l.val ∧ seamState s l.val ∈ [6, 7, 8, 11]) ∧
    (∃ (l : Link) (s : State) (k : LinkState), fenCount s ≤ 16 ∧ k = s.link l.val ∧ seamState s l.val ∈ [2, 3, 4, 5, 10]) ∧
    (∃ (l : Link) (s : State) (k : LinkState), fenCount s ≤ 16 ∧ k = s.link l.val ∧ s.fen.absent.find l.val = some .waiting ∧
      linkUp s l.val = true) ∧
    (∃ (l : Link) (s : State) (k : LinkState) (p : _), fenCount s ≤ 16 ∧ k = s.link l.val ∧ expertOpen s p = true ∧ seamState s
      l.val = 0) ∧
    (∃ (l : Link) (s : State) (k : LinkState) (p : _), fenCount s ≤ 16 ∧ k = s.link l.val ∧ expertOpen s p = true ∧ linkUp s l.val
      = true) ∧
    (∃ (l : Link) (s : State) (k : LinkState) (p : _), fenCount s ≤ 16 ∧ k = s.link l.val ∧ expertOpen s p = false) :=
  ⟨⟨0, (seamAt 1).wr F.SEAM_CTL_ENABLE 1, {}, by decide +kernel⟩,
    ⟨0, seamAt 2 {}, {}, by decide +kernel⟩,
    ⟨0, seamAt 3 {}, {}, by decide +kernel⟩,
    ⟨0, seamAt 4 {}, {}, by decide +kernel⟩,
    ⟨0, seamAt 5 { ident := some idBody }, { ident := some idBody }, idBody, by decide +kernel⟩,
    ⟨0, { seamAt 5 { ident := some idBody } with fen := { retired := [0] } }, { ident := some idBody }, idBody, by decide +kernel⟩,
    ⟨0, seamAt 5 { ident := some idBody, serial := 8 }, { ident := some idBody, serial := 8 }, idBody, by decide +kernel⟩,
    ⟨0, seamAt 8 { ident := some idBody, serial := 7, sub := 5 }, { ident := some idBody, serial := 7, sub := 5 }, idBody,
      by decide +kernel⟩,
    ⟨0, seamAt 5 { failures := 1 }, { failures := 1 }, by decide +kernel⟩,
    ⟨0, (hewing (op 1)).wr F.SEAM_CREDIT_CMD 0, {}, by decide +kernel⟩,
    ⟨0, seamAt 6 {}, {}, .recalReq 0 false, by decide +kernel⟩,
    ⟨0, seamAt 6 {}, {}, by decide +kernel⟩,
    ⟨0, seamAt 6 { wantRecal := true }, { wantRecal := true }, by decide +kernel⟩,
    ⟨0, seamAt 7 {}, {}, by decide +kernel⟩,
    ⟨0, seamAt 6 {}, {}, by decide +kernel⟩,
    ⟨0, hewing (op 1), {}, by decide +kernel⟩,
    ⟨0, seamAt 9 {}, {}, by decide +kernel⟩,
    ⟨0, seamAt 11 {}, {}, by decide +kernel⟩,
    ⟨0, seamAt 10 {}, {}, by decide +kernel⟩,
    ⟨0, { seamAt 6 with fen := { absent := [(0, .waiting)] } }, {}, by decide +kernel⟩,
    ⟨0, seamAt 0 {}, {}, .reginit, by decide +kernel⟩,
    ⟨0, seamAt 6 {}, {}, .reginit, by decide +kernel⟩,
    ⟨0, State.reset, {}, .custodian, by decide +kernel⟩⟩

theorem test_met_SeamTraffic :
    (∃ (l : Link) (h : FlitHead) (s : State) (k : LinkState), k = s.link l.val ∧ takesFlits s l.val = true ∧ h.good = true ∧
      h.fecOk = true ∧ h.nak = false ∧ h.crType = 0 ∧ h.fseq.toNat = k.rxSeq) ∧
    (∃ (l : Link) (h : FlitHead) (s : State) (k : LinkState), k = s.link l.val ∧ takesFlits s l.val = true ∧ h.good = true ∧
      h.fecOk = true ∧ h.nak = false ∧ h.crType = 0 ∧ h.fseq.toNat ≠ k.rxSeq ∧ ¬(seamState s l.val = 7 ∧ k.ownWin = true)) ∧
    (∃ (l : Link) (h : FlitHead) (s : State) (k : LinkState), k = s.link l.val ∧ takesFlits s l.val = true ∧ h.good = true ∧
      h.fecOk = true ∧ h.nak = false ∧ h.crType = 1) ∧
    (∃ (l : Link) (h : FlitHead) (s : State) (k : LinkState), k = s.link l.val ∧ takesFlits s l.val = true ∧ h.good = true ∧
      h.fecOk = true ∧ h.nak = true ∧ h.crType = 0 ∧ k.lastNak ≠ h.ack.toNat + 1) ∧
    (∃ (l : Link) (h : FlitHead) (s : State) (k : LinkState), k = s.link l.val ∧ takesFlits s l.val = true ∧ h.good = false ∧
      ¬(seamState s l.val = 7 ∧ k.ownWin = true)) ∧
    (∃ (l : Link) (g : Fin 128) (c : Fin 4) (s : State) (h : Held) (i : _), s.held? l.val g.val = some h ∧ h.sent = true ∧ h.ended
      = false ∧ i ∈ [([0x01, 0x02], Instr.readData l g c false, Instr.readData l g c true), ([0x03], .softData l g c false,
      .softData l g c true)] ∧ h.opcode ∈ i.1) ∧
    (∃ (l : Link) (g : Fin 128) (s : State) (h : Held) (a : BitVec 8) (st : BitVec 8) (d : BitVec 16) (x : Nat), s.held? l.val
      g.val = some h ∧ h.sent = true ∧ h.ended = false ∧ a.toNat = g.val ∧ memberStatus st.toNat d.toNat = some x) ∧
    (∃ (l : Link) (g : Fin 128) (s : State) (h : Held), s.held? l.val g.val = some h ∧ h.sent = true ∧ h.ended = false ∧ h.opcode =
      0x20) ∧
    (∃ (l : Link) (g : Fin 128) (s : State) (h : Held), s.held? l.val g.val = some h ∧ h.sent = true ∧ h.ended = false ∧ h.opcode =
      0x21) ∧
    (∃ (l : Link) (d : IdentBody) (s : State), fenCount s ≤ 16 ∧ seamState s l.val = 5 ∧ bitOf d.versions.toNat 0 = true) ∧
    (∃ (l : Link) (d : IdentBody) (s : State), fenCount s ≤ 16 ∧ seamState s l.val = 5 ∧ bitOf d.versions.toNat 0 = false) ∧
    (∃ (o : BitVec 8) (c : BitVec 8) (s : State), fenCount s ≤ 16 ∧ o = 0xB0 ∧ c = 1) ∧
    (∃ (l : Link) (o : BitVec 8) (c : BitVec 8) (d : Fin 32) (s : State), fenCount s ≤ 16 ∧ o = 0xB0 ∧ c = 2 ∧ servesMember s l.val
      = true ∧ d.val < diesOf s l.val) ∧
    (∃ (o : BitVec 8) (s : State), fenCount s ≤ 16 ∧ o ≠ 0xB0) :=
  ⟨⟨0, { good := true, fecOk := true, fseq := 0, ack := 0, nak := false, crType := 0, crCount := 0 }, seamAt 6, {},
      by decide +kernel⟩,
    ⟨0, { good := true, fecOk := true, fseq := 4095, ack := 0, nak := false, crType := 0, crCount := 0 }, seamAt 6, {},
      by decide +kernel⟩,
    ⟨0, { good := true, fecOk := true, fseq := 0, ack := 0, nak := false, crType := 1, crCount := 0 }, seamAt 6, {},
      by decide +kernel⟩,
    ⟨0, { good := true, fecOk := true, fseq := 0, ack := 0, nak := true, crType := 0, crCount := 0 }, seamAt 6, {},
      by decide +kernel⟩,
    ⟨0, { good := false, fecOk := true, fseq := 0, ack := 0, nak := false, crType := 0, crCount := 0 }, seamAt 6, {},
      by decide +kernel⟩,
    ⟨0, 0, 3, hewing { op 2 with sent := true }, { op 2 with sent := true }, ([0x01, 0x02], .readData 0 0 3 false, .readData 0 0 3
      true), by decide +kernel⟩,
    ⟨0, 0, hewing { op 2 with sent := true }, { op 2 with sent := true }, 0, 6, 0, 0x40, by decide +kernel⟩,
    ⟨0, 0, hewing { op 0x20 with sent := true }, { op 0x20 with sent := true }, by decide +kernel⟩,
    ⟨0, 0, hewing { op 0x21 with sent := true }, { op 0x21 with sent := true }, by decide +kernel⟩,
    ⟨0, idBody, seamAt 5, by decide +kernel⟩,
    ⟨0, { idBody with versions := 2 }, seamAt 5, by decide +kernel⟩,
    ⟨0xB0, 1, State.reset, by decide +kernel⟩,
    ⟨0, 0xB0, 2, 31, State.reset, by decide +kernel⟩,
    ⟨0xB1, State.reset, by decide +kernel⟩⟩

theorem test_met_MereEccCorrects :
    ∃ (d : Nat), d < 2 ^ 256 :=
  ⟨2 ^ 256 - 1, by decide +kernel⟩

theorem test_met_MereAccess :
    (∃ (a : MereAddr) (len : Nat) (s : State), mereRangeOk s a.toNat len = false) ∧
    (∃ (a : MereAddr) (len : Nat) (s : State), mereRangeOk s a.toNat len = true ∧ a.toNat % 32 + len ≤ 32 ∧ Tab.get 0 s.mere.verr
      (validGroup a.toNat) = 0 ∧ regionValid s a.toNat = false) ∧
    (∃ (a : MereAddr) (len : Nat) (s : State), mereRangeOk s a.toNat len = true ∧ a.toNat % 32 + len ≤ 32 ∧ Tab.get 0 s.mere.verr
      (validGroup a.toNat) = 0 ∧ regionValid s a.toNat = true ∧ Tab.get 0 s.mere.err (a.toNat / 32) = 0 ∧ Tab.get false
      s.mere.poisoned (a.toNat / 32) = false) ∧
    (∃ (a : MereAddr) (len : Nat) (s : State), mereRangeOk s a.toNat len = true ∧ a.toNat % 32 + len ≤ 32 ∧ 2 ≤ popCount (Tab.get 0
      s.mere.verr (validGroup a.toNat)) 72) ∧
    (∃ (a : MereAddr) (len : Nat) (s : State), mereRangeOk s a.toNat len = false) ∧
    (∃ (a : MereAddr) (s : State), mereRangeOk s a.toNat 32 = true ∧ a.toNat % 32 = 0 ∧ Tab.get 0 s.mere.verr (validGroup a.toNat)
      = 0) :=
  ⟨⟨0, 32, State.reset, by decide +kernel⟩,
    ⟨0, 32, twoStacks State.reset, by decide +kernel⟩,
    ⟨31, 1, { twoStacks State.reset with mere := { valid := [(0, true)] } }, by decide +kernel⟩,
    ⟨0, 32, { twoStacks State.reset with mere := { verr := [(0, 3)] } }, by decide +kernel⟩,
    ⟨0, 32, State.reset, by decide +kernel⟩,
    ⟨32, twoStacks State.reset, by decide +kernel⟩⟩

theorem test_met_MereHousekeeping :
    (∃ (a : MereAddr) (s : State), mereOk s a.toNat = true ∧ s.isSet F.MERE_SCRUB_CTL_EN = true ∧ s.isSet F.MERE_STAT_PARKED
      (mereStack a.toNat) = false ∧ regionValid s a.toNat = true) ∧
    (∃ (a : MereAddr) (m : Fin 6) (w : Nat) (s : State) (p : _), s.isSet F.MERE_SCRUB_CTL_EN = false ∧ p ∈ [ScrubPlace.mere a,
      .onDie m w]) ∧
    (∃ (k : Fin 8) (c : Fin 8) (s : State), c ≠ 0 ∧ s.rd F.MERE_STAT_FENCE_CAUSE k.val = 0) ∧
    (∃ (k : Fin 8) (c : Fin 8) (s : State), (c = 0 ∨ s.rd F.MERE_STAT_FENCE_CAUSE k.val ≠ 0)) ∧
    (∃ (p : AccessPath) (k : Fin 8) (s : State), expertOpen s p = true ∧ s.rd F.MERE_STAT_FENCE_CAUSE k.val = 0) ∧
    (∃ (p : AccessPath) (s : State), expertOpen s p = false) ∧
    (∃ (k : Fin 8) (s : State), k.val ∈ s.mere.remirror) :=
  ⟨⟨4095, { twoStacks State.reset with mere := { valid := [(0, true)] } }, by decide +kernel⟩,
    ⟨0, 5, 0, State.reset.wr F.MERE_SCRUB_CTL_EN 0, .onDie 5 0, by decide +kernel⟩,
    ⟨7, 7, State.reset, by decide +kernel⟩,
    ⟨0, 0, State.reset, by decide +kernel⟩,
    ⟨.reginit, 7, State.reset, by decide +kernel⟩,
    ⟨.custodian, State.reset, by decide +kernel⟩,
    ⟨7, { State.reset with mere := { remirror := [7] } }, by decide +kernel⟩⟩

theorem test_met_CipherEngine :
    (∃ (r : Fin 16) (s : State), s.isSet F.CIP_RING_CFG_ENABLE r.val = false) ∧
    (∃ (r : Fin 16) (v : Word) (s : State), s.isSet F.CIP_RING_CFG_ENABLE r.val = true ∧ v.toNat < 4096 ∧ v.toNat = ((s.rd
      F.CIP_RING_HEAD_HEAD r.val) + 1) % cipSlots s r.val % 4096 ∧ v.toNat ≠ (s.rd F.CIP_RING_HEAD_HEAD r.val) ∧ s.cip.running = []
      ∧ bitOf (cipAt s r.val (s.rd F.CIP_RING_HEAD_HEAD r.val)).flags 7 = true ∧ cipCheck s (cipAt s r.val (s.rd
      F.CIP_RING_HEAD_HEAD r.val)) = 0) ∧
    (∃ (r : Fin 16) (k : Nat) (s : State) (d : Nat), s.cip.running.find (4096 * r.val + k) = some 3 ∧ s.isSet F.CIP_RING_CFG_ENABLE
      r.val = false ∧ bitOf (cipAt s r.val k).flags 1 = false ∧ (cipAt s r.val k).adLen = 0 ∧ mereRangeOk s (cipAt s r.val k).src
      (cipAt s r.val k).len = true ∧ cipSlotAddr s r.val k + 64 ≤ 2 ^ 38 ∧ mereFetch (cipAt s r.val k).src none (cipAt s r.val
      k).len s.begin = ((d, false), s.begin)) ∧
    (∃ (r : Fin 16) (k : Nat) (s : State) (d : Nat), s.cip.running.find (4096 * r.val + k) = some 1 ∧ s.isSet F.CIP_RING_CFG_ENABLE
      r.val = false ∧ bitOf (cipAt s r.val k).flags 1 = false ∧ (cipAt s r.val k).adLen = 0 ∧ mereRangeOk s (cipAt s r.val k).src
      (cipAt s r.val k).len = true ∧ mereRangeOk s (cipAt s r.val k).dst (cipAt s r.val k).len = true ∧ cipSlotAddr s r.val k + 64
      ≤ 2 ^ 38 ∧ mereFetch (cipAt s r.val k).src none (cipAt s r.val k).len s.begin = ((d, false), s.begin) ∧ (mereStore (cipAt s
      r.val k).dst none (cipAt s r.val k).len (cipCrypt ((Tab.get {} s.cip.slots (cipAt s r.val k).slot).key) (cipAt s r.val k) d)
      s.begin).1 = false) ∧
    (∃ (r : Fin 16) (k : Nat) (s : State) (d : Nat), s.cip.running.find (4096 * r.val + k) = some 2 ∧ s.isSet F.CIP_RING_CFG_ENABLE
      r.val = false ∧ bitOf (cipAt s r.val k).flags 1 = false ∧ (cipAt s r.val k).adLen = 0 ∧ mereRangeOk s (cipAt s r.val k).src
      (cipAt s r.val k).len = true ∧ mereRangeOk s (cipAt s r.val k).dst (cipAt s r.val k).len = true ∧ cipSlotAddr s r.val k + 64
      ≤ 2 ^ 38 ∧ mereFetch (cipAt s r.val k).src none (cipAt s r.val k).len s.begin = ((d, false), s.begin) ∧ (mereStore (cipAt s
      r.val k).dst none (cipAt s r.val k).len (cipCrypt ((Tab.get {} s.cip.slots (cipAt s r.val k).slot).key) (cipAt s r.val k) d)
      s.begin).1 = false) ∧
    (∃ (k : Nat) (v : Nat) (s : State), (Tab.get {} s.cip.slots k).state = 2 ∧ (Tab.get {} s.cip.slots k).users = 0 ∧ (Tab.get {}
      s.cip.slots k).nextKey = some v ∧ keyMayChange s (Tab.get {} s.cip.slots k).nsid = true ∧ (∀ n, s.ns? (Tab.get {} s.cip.slots
      k).nsid = some n → n.slot = k)) ∧
    (∃ (k : Nat) (s : State), (Tab.get {} s.cip.slots k).state = 2 ∧ (Tab.get {} s.cip.slots k).users = 0 ∧ (Tab.get {} s.cip.slots
      k).nextKey = none) ∧
    (∃ (k : Nat) (s : State), (Tab.get {} s.cip.slots k).users ≠ 0) ∧
    (∃ (n : SlotNo) (c : Cmd) (s : State), s.slot? n.val = some c ∧ n.val ∈ s.cip.waiters ∧ s.cip.drbgUp = false) ∧
    (∃ (n : SlotNo) (s : State), n.val ∉ s.cip.waiters) :=
  ⟨⟨15, State.reset, by decide +kernel⟩,
    ⟨15, 1, { State.reset with cip := { slots := [(0, { state := 1 })] }, mere := { mem := [(0, 1), (1, 0x80), (5, 2)] } }.wr
      F.CIP_RING_CFG_ENABLE 1 15, by decide +kernel⟩,
    ⟨0, 0, { twoStacks State.reset with cip := { running := [(0, 3)] }, mere := { mem := [(4, 32)], valid := [(0, true)] } },
      137438953472, by decide +kernel⟩,
    ⟨0, 0, { twoStacks State.reset with cip := { running := [(0, 1)] }, mere := { mem := [(4, 32)], valid := [(0, true)] } },
      137438953472, by decide +kernel⟩,
    ⟨0, 0, { twoStacks State.reset with cip := { running := [(0, 2)] }, mere := { mem := [(4, 32)], valid := [(0, true)] } },
      137438953472, by decide +kernel⟩,
    ⟨4095, 5, { State.reset with cip := { slots := [(4095, { state := 2, nextKey := some 5 })] } }, by decide +kernel⟩,
    ⟨4095, { State.reset with cip := { slots := [(4095, { state := 2 })] } }, by decide +kernel⟩,
    ⟨4095, { State.reset with cip := { slots := [(4095, { state := 2, users := 1 })] } }, by decide +kernel⟩,
    ⟨0, cmd 0 13, { host (cmd 0 13) with cip := { waiters := [0] } }, by decide +kernel⟩,
    ⟨0, State.reset, by decide +kernel⟩⟩

theorem test_met_DmaRings :
    (∃ (c : Fin 96) (s : State), s.dma.jobs.find c.val = none ∧ s.rd F.DMA_CH_CFG_ENABLE c.val ≠ 1) ∧
    (∃ (c : Fin 96) (v : Word) (s : State), s.dma.jobs.find c.val = none ∧ s.rd F.DMA_CH_CFG_ENABLE c.val = 1 ∧ s.rd
      F.DMA_RING_HEAD_HEAD c.val = v.toNat % 2 ^ F.DMA_RING_TAIL_TAIL.width) ∧
    (∃ (c : Fin 96) (v : Word) (s : State) (w : _), s.dma.jobs.find c.val = none ∧ ringWord s (dmaSlotAddr s c.val (s.rd
      F.DMA_RING_HEAD_HEAD c.val)) = w ∧ s.rd F.DMA_CH_CFG_ENABLE c.val = 1 ∧ s.rd F.DMA_RING_HEAD_HEAD c.val ≠ v.toNat % 2 ^
      F.DMA_RING_TAIL_TAIL.width ∧ bitOf w 511 = false) ∧
    (∃ (c : Fin 96) (v : Word) (s : State) (w : _), s.dma.jobs.find c.val = none ∧ ringWord s (dmaSlotAddr s c.val (s.rd
      F.DMA_RING_HEAD_HEAD c.val)) = w ∧ s.rd F.DMA_CH_CFG_ENABLE c.val = 1 ∧ s.rd F.DMA_RING_HEAD_HEAD c.val ≠ v.toNat % 2 ^
      F.DMA_RING_TAIL_TAIL.width ∧ bitOf w 511 = true ∧ dmaBad s c.val w = false ∧ bitOf w 11 = false ∧ bitOf w 12 = false) ∧
    (∃ (c : Fin 96) (s : State) (j : DmaJob), s.dma.jobs.find c.val = some j ∧ s.rd F.DMA_CH_STAT_STATE c.val = 2 ∧ j.op = 1 ∧
      bitOf j.ctl 1 = true) ∧
    (∃ (c : Fin 96) (s : State) (j : DmaJob) (d : _) (u : _), s.dma.jobs.find c.val = some j ∧ s.rd F.DMA_CH_STAT_STATE c.val = 2 ∧
      j.op = 1 ∧ bitOf j.ctl 1 = false ∧ dmaStore j (d / 2 ^ (8 * j.done)) s.begin = (none, u) ∧ bitOf j.ctl 0 = true) ∧
    (∃ (c : Fin 96) (s : State) (j : DmaJob) (v : _) (u : _), s.dma.jobs.find c.val = some j ∧ s.rd F.DMA_CH_STAT_STATE c.val = 2 ∧
      j.op = 2 ∧ dmaLoad j s.begin = ((none, v), u)) ∧
    (∃ (c : Fin 96) (s : State) (j : DmaJob) (v : _) (u : _) (x : _), s.dma.jobs.find c.val = some j ∧ s.rd F.DMA_CH_STAT_STATE
      c.val = 2 ∧ j.op = 3 ∧ dmaLoad j s.begin = ((none, v), u) ∧ dmaStore j v u = (none, x) ∧ bitOf j.ctl 0 = true) ∧
    (∃ (c : Fin 96) (s : State) (j : DmaJob) (e : DmaError), s.dma.jobs.find c.val = some j ∧ s.rd F.DMA_CH_STAT_STATE c.val = 2 ∧
      e.cause.val ≠ 0) ∧
    (∃ (m : Fin 16) (c : Nat) (s : State) (j : DmaJob), s.rd F.DMA_TIMER_PERIOD m.val ≠ 0 ∧ s.dma.jobs.find c = some j ∧ j.waitTick
      = true ∧ j.waitLink = false ∧ s.rd F.DMA_CH_CFG_TIMER c = m.val) ∧
    (∃ (c : Fin 96) (s : State) (j : DmaJob) (e : DmaError), s.dma.jobs.find c.val = some j ∧ s.dma.errs.find c.val = some e ∧ s.rd
      F.DMA_CH_STAT_STATE c.val = 4 ∧ s.rd F.DMA_CH_CFG_RETRY_MAX c.val ≤ s.rd F.DMA_CH_STAT_ATTEMPTS c.val + 1) ∧
    (∃ (c : Fin 96) (s : State), s.rd F.DMA_CH_STAT_STATE c.val ≠ 5) ∧
    (∃ (c : Fin 96) (s : State) (j : _), s.rd F.DMA_CH_STAT_STATE c.val = 5 ∧ s.dma.jobs.find c.val = some j ∧ s.rd
      F.DMA_CH_CFG_ENABLE c.val = 1 ∧ s.rd F.DMA_RING_HEAD_HEAD c.val = s.rd F.DMA_RING_TAIL_TAIL c.val) :=
  ⟨⟨95, State.reset, by decide +kernel⟩,
    ⟨95, 0, State.reset.wr F.DMA_CH_CFG_ENABLE 1 95, by decide +kernel⟩,
    ⟨95, 1, State.reset.wr F.DMA_CH_CFG_ENABLE 1 95, 0, by decide +kernel⟩,
    ⟨95, 1, { State.reset with mere := { mem := [(0, 3), (4, 32), (63, 0x80)] } }.wr F.DMA_CH_CFG_ENABLE 1 95, 2 ^ 511 +
      137438953475, by decide +kernel⟩,
    ⟨95, dmaAt { op := 1, ctl := 2, len := 32, src := 64, dst := 128, dst2 := 0, cntlid := 0 } 2,
      { op := 1, ctl := 2, len := 32, src := 64, dst := 128, dst2 := 0, cntlid := 0 }, by decide +kernel⟩,
    ⟨95, dmaAt { op := 1, ctl := 1, len := 32, src := 64, dst := 128, dst2 := 0, cntlid := 0 } 2,
      { op := 1, ctl := 1, len := 32, src := 64, dst := 128, dst2 := 0, cntlid := 0 }, 5, (dmaStore
      { op := 1, ctl := 1, len := 32, src := 64, dst := 128, dst2 := 0, cntlid := 0 } 5 (dmaAt
      { op := 1, ctl := 1, len := 32, src := 64, dst := 128, dst2 := 0, cntlid := 0 } 2).begin).2, by decide +kernel⟩,
    ⟨95, dmaAt { op := 2, ctl := 0, len := 32, src := 64, dst := 128, dst2 := 0, cntlid := 0 } 2,
      { op := 2, ctl := 0, len := 32, src := 64, dst := 128, dst2 := 0, cntlid := 0 }, (dmaLoad
      { op := 2, ctl := 0, len := 32, src := 64, dst := 128, dst2 := 0, cntlid := 0 } (dmaAt
      { op := 2, ctl := 0, len := 32, src := 64, dst := 128, dst2 := 0, cntlid := 0 } 2).begin).1.2, (dmaLoad
      { op := 2, ctl := 0, len := 32, src := 64, dst := 128, dst2 := 0, cntlid := 0 } (dmaAt
      { op := 2, ctl := 0, len := 32, src := 64, dst := 128, dst2 := 0, cntlid := 0 } 2).begin).2, by decide +kernel⟩,
    ⟨95, dmaAt { op := 3, ctl := 1, len := 32, src := 64, dst := 128, dst2 := 0, cntlid := 0 } 2,
      { op := 3, ctl := 1, len := 32, src := 64, dst := 128, dst2 := 0, cntlid := 0 }, (dmaLoad
      { op := 3, ctl := 1, len := 32, src := 64, dst := 128, dst2 := 0, cntlid := 0 } (dmaAt
      { op := 3, ctl := 1, len := 32, src := 64, dst := 128, dst2 := 0, cntlid := 0 } 2).begin).1.2, (dmaLoad
      { op := 3, ctl := 1, len := 32, src := 64, dst := 128, dst2 := 0, cntlid := 0 } (dmaAt
      { op := 3, ctl := 1, len := 32, src := 64, dst := 128, dst2 := 0, cntlid := 0 } 2).begin).2, (dmaStore
      { op := 3, ctl := 1, len := 32, src := 64, dst := 128, dst2 := 0, cntlid := 0 } (dmaLoad
      { op := 3, ctl := 1, len := 32, src := 64, dst := 128, dst2 := 0, cntlid := 0 } (dmaAt
      { op := 3, ctl := 1, len := 32, src := 64, dst := 128, dst2 := 0, cntlid := 0 } 2).begin).1.2 (dmaLoad
      { op := 3, ctl := 1, len := 32, src := 64, dst := 128, dst2 := 0, cntlid := 0 } (dmaAt
      { op := 3, ctl := 1, len := 32, src := 64, dst := 128, dst2 := 0, cntlid := 0 } 2).begin).2).2, by decide +kernel⟩,
    ⟨95, dmaAt { op := 3, ctl := 0, len := 32, src := 64, dst := 128, dst2 := 0, cntlid := 0 } 2,
      { op := 3, ctl := 0, len := 32, src := 64, dst := 128, dst2 := 0, cntlid := 0 },
      { writes := true, host := false, cause := 7, addr := 0, doneLen := 0 }, by decide +kernel⟩,
    ⟨15, 95,
      (({ State.reset with dma := { jobs := [(95, { op := 3, ctl := 0, len := 32, src := 64, dst := 128, dst2 := 0, cntlid := 0, waitTick := true })] } }).wr
      F.DMA_TIMER_PERIOD 1 15).wr F.DMA_CH_CFG_TIMER 15 95,
      { op := 3, ctl := 0, len := 32, src := 64, dst := 128, dst2 := 0, cntlid := 0, waitTick := true }, by decide +kernel⟩,
    ⟨95,
      ({ dmaAt { op := 3, ctl := 0, len := 32, src := 64, dst := 128, dst2 := 0, cntlid := 0 } 4 with dma := { jobs := [(95, { op := 3, ctl := 0, len := 32, src := 64, dst := 128, dst2 := 0, cntlid := 0 })], errs := [(95, { writes := true, host := false, cause := 7, addr := 0, doneLen := 0 })] } }).wr
      F.DMA_CH_CFG_RETRY_MAX 1 95, { op := 3, ctl := 0, len := 32, src := 64, dst := 128, dst2 := 0, cntlid := 0 },
      { writes := true, host := false, cause := 7, addr := 0, doneLen := 0 }, by decide +kernel⟩,
    ⟨95, State.reset, by decide +kernel⟩,
    ⟨95, (dmaAt { op := 3, ctl := 0, len := 32, src := 64, dst := 128, dst2 := 0, cntlid := 0 } 5).wr F.DMA_CH_CFG_ENABLE 1 95,
      { op := 3, ctl := 0, len := 32, src := 64, dst := 128, dst2 := 0, cntlid := 0 }, by decide +kernel⟩⟩

theorem test_met_MailboxesAndPairs :
    (∃ (p : AccessPath) (ch : Fin 256) (s : State), isSender s p ch.val = true ∧ (chanOf s ch.val).queue.length < 16) ∧
    (∃ (p : AccessPath) (ch : Fin 256) (s : State), isSender s p ch.val = true ∧ 16 ≤ (chanOf s ch.val).queue.length ∧ internalPath
      p = false) ∧
    (∃ (p : AccessPath) (ch : Fin 256) (s : State), internalPath p = true ∧ (isSender s p ch.val = false ∨ 16 ≤ (chanOf s
      ch.val).queue.length)) ∧
    (∃ (p : AccessPath) (ch : Fin 256) (s : State), isSender s p ch.val = false) ∧
    (∃ (p : AccessPath) (ch : Fin 256) (s : State) (m : List Nat) (q : List (List Nat)), isReceiver s p ch.val = true ∧ (chanOf s
      ch.val).queue = m :: q) ∧
    (∃ (p : AccessPath) (ch : Fin 256) (s : State), isReceiver s p ch.val = false) ∧
    (∃ (p : Fin 12) (s : State) (e : _), s.rd F.MBX_PAIR_STAT_STATE p.val ≠ 2 ∧ e ∈ [(Instr.pairCheckerMismatch p, 1),
      (Instr.pairWatchdogTimeout p, 2), (Instr.pairMemoryError p, 3)]) ∧
    (∃ (l : Fin 12) (p : Fin 12) (i : Nat) (s : State), l.val ∈ s.mbx.takeover ∧ s.rd F.MBX_PAIR_STAT_STATE l.val = 2 ∧ s.rd
      F.MBX_PAIR_STAT_ID_A l.val = i ∧ i < 15 ∧ s.rd F.MBX_PAIR_STAT_ID_B l.val = 15 ∧ (List.range 12).find? (fun p => s.rd
      F.MBX_PAIR_STAT_STATE p = 1) = some p.val) ∧
    (∃ (a : AccessPath) (p : Fin 16) (s : State), expertOpen s a = true ∧ p.val < 12 ∧ s.rd F.MBX_PAIR_STAT_STATE p.val ≠ 2) ∧
    (∃ (p : Fin 12) (s : State), p.val ∈ s.mbx.waking) :=
  ⟨⟨.firmware 10, 255, { State.reset with mbx := { chans := [(255, { sender := 10, receiver := 1, queue := [] })] } },
      by decide +kernel⟩,
    ⟨.custodian, 255,
      { State.reset with mbx := { chans := [(255, { sender := 48, receiver := 1, queue := List.replicate 16 [] })] } },
      by decide +kernel⟩,
    ⟨.firmware 10, 255,
      { State.reset with mbx := { chans := [(255, { sender := 10, receiver := 1, queue := List.replicate 16 [] })] } },
      by decide +kernel⟩,
    ⟨.reginit, 255, State.reset, by decide +kernel⟩,
    ⟨.firmware 1, 255, { State.reset with mbx := { chans := [(255, { sender := 10, receiver := 1, queue := [[1, 2, 3, 4]] })] } },
      [1, 2, 3, 4], [], by decide +kernel⟩,
    ⟨.custodian, 255, State.reset, by decide +kernel⟩,
    ⟨11, State.reset, (.pairMemoryError 11, 3), by decide +kernel⟩,
    ⟨11, 0, 3, ((({ State.reset with mbx := { takeover := [11] } }.wr F.MBX_PAIR_STAT_STATE 2 11).wr F.MBX_PAIR_STAT_ID_A 3 11).wr
      F.MBX_PAIR_STAT_ID_B 15 11).wr F.MBX_PAIR_STAT_STATE 1 0, by decide +kernel⟩,
    ⟨.reginit, 11, State.reset, by decide +kernel⟩,
    ⟨11, { State.reset with mbx := { waking := [11] } }, by decide +kernel⟩⟩

theorem test_met_PeatRecordsAndLimits :
    (∃ (code : BitVec 16) (s : State), peatSev code.toNat = some 3 ∧ 0 < peatFree s ∧ s.peat.unknown = false) ∧
    (∃ (code : BitVec 16), peatSev code.toNat = none) ∧
    (∃ (code : BitVec 16) (s : State) (v : Nat), peatSev code.toNat = some v ∧ v < 3 ∧ s.isSet F.PEAT_STAT_DROPPING = true) ∧
    (∃ (code : BitVec 16), peatCritical code.toNat = false) ∧
    (∃ (code : BitVec 16), peatCritical code.toNat = true) ∧
    (∃ (v : Word) (s : State), peatCritical (s.rd F.PEAT_CODE_SEL_CODE) = false ∧ F.PEAT_RL_RATE.legal (bits v.toNat 0 10) = true ∧
      F.PEAT_RL_BURST.legal (bits v.toNat 10 8) = true) ∧
    (∃ (s : State), s.isSet F.PEAT_STAT_DROPPING = true ∧ 2048 < peatFree s ∧ s.peat.unknown = false) ∧
    (∃ (s : State), (s.isSet F.PEAT_STAT_DROPPING = false ∨ peatFree s ≤ 2048)) :=
  ⟨⟨0x9001, State.reset, by decide +kernel⟩,
    ⟨0xFFFF, by decide +kernel⟩,
    ⟨0x0004, State.reset.wr F.PEAT_STAT_DROPPING 1, 2, by decide +kernel⟩,
    ⟨0x0004, by decide +kernel⟩,
    ⟨0x9001, by decide +kernel⟩,
    ⟨262120, State.reset, by decide +kernel⟩,
    ⟨State.reset.wr F.PEAT_STAT_DROPPING 1, by decide +kernel⟩,
    ⟨State.reset, by decide +kernel⟩⟩

theorem test_met_PeatArchives :
    (∃ (s : State) (id : Nat), s.peat.segment = some id ∧ s.peat.segRow < 511 ∧ 0 < peatUnarch s ∧ peatRowEntries s ≤ peatUnarch s)
      ∧
    (∃ (s : State), peatUnarch s < peatRowEntries s) ∧
    (∃ (s : State) (id : Nat) (e : PeatEntry), s.peat.ring.find ((s.peat.archived + 1) % 65536) = some e ∧ s.rd F.PEAT_CTL_MAX_AGE
      * 3600 ≤ s.life.now - e.time ∧ s.peat.segment = some id ∧ s.peat.segRow < 511 ∧ 0 < peatUnarch s) ∧
    (∃ (s : State) (id : Nat), s.peat.segment = some id ∧ s.peat.segRow < 511 ∧ 0 < peatUnarch s ∧ peatUnarch s ≤ peatRowEntries s)
      ∧
    (∃ (s : State), peatUnarch s = 0) ∧
    (∃ (s : State) (id : Nat) (r : Nat × State), s.peat.segment = some id ∧ 512 ≤ s.peat.segRow ∧ metaStripe 6 s.begin = some r) :=
  ⟨⟨{ State.reset with peat := { next := 6145, segment := some 9, segRow := 510 } }, 9, by decide +kernel⟩,
    ⟨State.reset, by decide +kernel⟩,
    ⟨{ State.reset with peat := { next := 2, ring := [(1, { seq := 1 })], segment := some 9, segRow := 510 }, life := { now := 21600 } },
      9, { seq := 1 }, by decide +kernel⟩,
    ⟨{ State.reset with peat := { next := 6145, segment := some 9, segRow := 510 } }, 9, by decide +kernel⟩,
    ⟨State.reset, by decide +kernel⟩,
    ⟨{ oneDie with peat := { segment := some 9, segRow := 512 } }, 9, (metaStripe 6
      { oneDie with peat := { segment := some 9, segRow := 512 } }.begin).get (by decide +kernel), by decide +kernel⟩⟩

theorem test_met_PowerFails :
    (∃ (i : PfInput) (s : State), s.pwr.decided = true ∧ s.pwr.first ≠ pfNo i ∧ s.pwr.agree = 1) ∧
    (∃ (i : PfInput) (s : State), fenCount s ≤ 16 ∧ s.pwr.decided = false ∧ pfLow s i = true ∧ s.rd F.PWR_HT_STAT_STATE ≠ 2 ∧ s.rd
      F.PWR_HT_STAT_STATE ≠ 3 ∧ s.pwr.ride = false) ∧
    (∃ (s : State), s.pwr.decided = true ∧ s.pwr.agree = 1) ∧
    (∃ (s : State), fenCount s ≤ 16 ∧ s.pwr.flushing = true) ∧
    (∃ (s : State), fenCount s ≤ 16 ∧ s.pwr.flushing = true) ∧
    (∃ (s : State), s.pwr.decided = true ∧ s.pwr.flushing = false ∧ s.pwr.lowA = false ∧ s.pwr.lowB = false) :=
  ⟨⟨.b, { State.reset with pwr := { decided := true, agree := 1 } }, by decide +kernel⟩,
    ⟨.a, { State.reset with pwr := { lowA := true } }, by decide +kernel⟩,
    ⟨{ State.reset with pwr := { decided := true, agree := 1 } }, by decide +kernel⟩,
    ⟨{ State.reset with pwr := { flushing := true } }, by decide +kernel⟩,
    ⟨{ State.reset with pwr := { flushing := true } }, by decide +kernel⟩,
    ⟨{ State.reset with pwr := { decided := true } }, by decide +kernel⟩⟩

theorem test_met_HoldupTests :
    (∃ (s : State), s.image.power.htHours ≠ 0 ∧ s.pwr.htDue ≤ s.life.now) ∧
    (∃ (s : State), (s.rd F.PWR_HT_STAT_STATE = 0 ∨ 4 ≤ s.rd F.PWR_HT_STAT_STATE) ∧ s.pwr.decided = false) ∧
    (∃ (s : State), (s.rd F.PWR_HT_STAT_STATE = 1 ∨ s.rd F.PWR_HT_STAT_STATE = 2)) ∧
    (∃ (s : State), s.rd F.PWR_HT_STAT_STATE = 1 ∧ s.map.dirty = []) ∧
    (∃ (s : State), s.rd F.PWR_HT_STAT_STATE = 2) ∧
    (∃ (s : State), s.rd F.PWR_HT_STAT_STATE = 3) ∧
    (∃ (s : State), s.rd F.PWR_HT_STAT_STATE = 3 ∧ s.cfg.reapply = none) ∧
    (∃ (s : State), s.rd F.PWR_HT_STAT_STATE = 2) ∧
    (∃ (s : State), s.pwr.htReq = true) :=
  ⟨⟨State.reset, by decide +kernel⟩,
    ⟨State.reset, by decide +kernel⟩,
    ⟨State.reset.wr F.PWR_HT_STAT_STATE 2, by decide +kernel⟩,
    ⟨State.reset.wr F.PWR_HT_STAT_STATE 1, by decide +kernel⟩,
    ⟨State.reset.wr F.PWR_HT_STAT_STATE 2, by decide +kernel⟩,
    ⟨State.reset.wr F.PWR_HT_STAT_STATE 3, by decide +kernel⟩,
    ⟨State.reset.wr F.PWR_HT_STAT_STATE 3, by decide +kernel⟩,
    ⟨State.reset.wr F.PWR_HT_STAT_STATE 2, by decide +kernel⟩,
    ⟨{ State.reset with pwr := { htReq := true } }, by decide +kernel⟩⟩

theorem test_met_SealInputs :
    (∃ (a : Bool) (b : Bool) (s : State), s.pwr.decided = false ∧ a ≠ b) ∧
    (∃ (a : Bool) (b : Bool) (s : State), s.pwr.decided = false ∧ a = b ∧ s.sea.samples ≠ 0 ∧ s.sea.samples + 1 ≠ s.sea.td) ∧
    (∃ (a : Bool) (b : Bool) (s : State), s.pwr.decided = false ∧ a = b ∧ s.sea.samples ≠ 0 ∧ s.sea.samples + 1 = s.sea.td) ∧
    (∃ (a : Bool) (b : Bool) (s : State), s.pwr.decided = false ∧ a = b ∧ s.sea.samples = 0) ∧
    (∃ (s : State), s.pwr.decided = true) ∧
    (∃ (s : State), sealAgree s.sea.a s.sea.b = true) ∧
    (∃ (p : AccessPath) (s : State), (p ≠ .custodian ∨ sealAgree s.sea.a s.sea.b = false)) ∧
    (∃ (p : AccessPath), p ≠ .custodian) :=
  ⟨⟨true, false, State.reset, by decide +kernel⟩,
    ⟨true, true, { State.reset with sea := { samples := 1, td := 100 } }, by decide +kernel⟩,
    ⟨true, true, { State.reset with sea := { samples := 99, td := 100 } }, by decide +kernel⟩,
    ⟨true, true, State.reset, by decide +kernel⟩,
    ⟨{ State.reset with pwr := { decided := true } }, by decide +kernel⟩,
    ⟨{ State.reset with sea := { a := true } }, by decide +kernel⟩,
    ⟨.reginit, State.reset, by decide +kernel⟩,
    ⟨.reginit, by decide +kernel⟩⟩

theorem test_met_FirmwareUpdates :
    (∃ (n : SlotNo) (p : Piece) (s : State) (k : Cmd) (c : Ctrl) (len : _) (v : _) (e : _), Admitted s n.val k c ∧ k.isAdmin 0x11 =
      true ∧ s.upd.commit = none ∧ s.cwy.chain = false ∧ (s.upd.isOpen = true → s.upd.owner = k.ctrl) ∧ k.dw 11 = 0 ∧ len = 4 *
      (k.dw 10 + 1) ∧ len ≤ 33554432 ∧ byteField p.data 0 4 = magicDelta ∧ v = p.data % 2 ^ (8 * len) ∧ e = deltaCheck (deltaBase
      s) v len) ∧
    (∃ (n : SlotNo) (p : Piece) (s : State) (k : Cmd) (c : Ctrl) (len : _) (v : _) (e : _) (r : _), Admitted s n.val k c ∧
      k.isAdmin 0x11 = true ∧ s.upd.commit = none ∧ s.cwy.chain = false ∧ s.upd.isOpen = true ∧ s.upd.owner = k.ctrl ∧ s.upd.twima
      = false ∧ s.upd.failed = false ∧ k.dw 11 ≠ 0 ∧ 4 * k.dw 11 = s.upd.off ∧ k.dw 11 % 1024 = 0 ∧ len = s.upd.off + 4 * (k.dw 10
      + 1) ∧ len ≤ 33554432 ∧ p.flashOk = true ∧ v = s.upd.buf % 2 ^ (8 * s.upd.off) + 2 ^ (8 * s.upd.off) * (p.data % 2 ^ (8 * (4
      * (k.dw 10 + 1)))) ∧ e = deltaCheck (deltaBase s) v len ∧ r = deltaApply { s with upd := { s.upd with off := len, buf := v }
      }) ∧
    (∃ (n : SlotNo) (s : State) (k : Cmd) (c : Ctrl), Admitted s n.val k c ∧ k.isAdmin 0x11 = true ∧ s.upd.commit = none ∧
      s.cwy.chain = false ∧ s.upd.isOpen = true ∧ s.upd.owner ≠ k.ctrl) ∧
    (∃ (n : SlotNo) (s : State) (k : Cmd) (c : Ctrl) (f : Nat) (i : _), Admitted s n.val k c ∧ k.isAdmin 0x10 = true ∧ s.upd.commit
      = none ∧ bits (k.dw 10) 0 3 = f ∧ (f = 1 ∨ f = 2) ∧ bits (k.dw 10) 3 3 = 0 ∧ f ≠ s.upd.running ∧ fwSlot s f = some i) ∧
    (∃ (n : SlotNo) (s : State) (k : Cmd) (c : Ctrl) (f : Nat) (i : _), Admitted s n.val k c ∧ k.isAdmin 0x10 = true ∧ s.upd.commit
      = none ∧ bits (k.dw 10) 0 3 = f ∧ (f = 1 ∨ f = 2) ∧ bits (k.dw 10) 3 3 = 1 ∧ f ≠ s.upd.running ∧ fwSlot s f = some i) ∧
    (∃ (n : SlotNo) (s : State) (k : Cmd) (c : Ctrl) (f : Nat) (i : _), Admitted s n.val k c ∧ k.isAdmin 0x10 = true ∧ s.upd.commit
      = none ∧ bits (k.dw 10) 0 3 = f ∧ (f = 1 ∨ f = 2) ∧ bits (k.dw 10) 3 3 = 2 ∧ f ≠ s.upd.running ∧ fwSlot s f = some i ∧
      s.upd.floor ≤ i.serial) ∧
    (∃ (n : SlotNo) (s : State) (k : Cmd) (c : Ctrl) (f : Nat) (i : _), Admitted s n.val k c ∧ k.isAdmin 0x10 = true ∧ s.upd.commit
      = none ∧ bits (k.dw 10) 0 3 = f ∧ (f = 1 ∨ f = 2) ∧ bits (k.dw 10) 3 3 = 2 ∧ f ≠ s.upd.running ∧ fwSlot s f = some i ∧
      i.serial < s.upd.floor) ∧
    (∃ (n : SlotNo) (s : State) (k : Cmd) (c : Ctrl) (f : Nat), Admitted s n.val k c ∧ k.isAdmin 0x10 = true ∧ s.upd.commit = none
      ∧ bits (k.dw 10) 0 3 = f ∧ (f = 1 ∨ f = 2) ∧ bits (k.dw 10) 3 3 = 3 ∧ f = s.upd.running) ∧
    (∃ (n : SlotNo) (s : State) (k : Cmd) (c : Ctrl) (f : Nat) (i : _), Admitted s n.val k c ∧ k.isAdmin 0x10 = true ∧ s.upd.commit
      = none ∧ bits (k.dw 10) 0 3 = f ∧ (f = 1 ∨ f = 2) ∧ bits (k.dw 10) 3 3 = 3 ∧ f ≠ s.upd.running ∧ fwSlot s f = some i ∧
      s.upd.floor ≤ i.serial ∧ nvqSealed s = true) ∧
    (∃ (n : SlotNo) (s : State) (k : Cmd) (c : Ctrl) (f : Nat) (i : _), Admitted s n.val k c ∧ k.isAdmin 0x10 = true ∧ s.upd.commit
      = none ∧ bits (k.dw 10) 0 3 = f ∧ (f = 1 ∨ f = 2) ∧ bits (k.dw 10) 3 3 = 3 ∧ f ≠ s.upd.running ∧ fwSlot s f = some i ∧
      s.upd.floor ≤ i.serial ∧ nvqSealed s = false ∧ (fwSlot s s.upd.running).all (fun r => resetNeeded r i) = false ∧ fwDigestsOk
      i = true ∧ i.patch = none ∧ s.cfg.reapply = none ∧ s.ucs.epoch = none) ∧
    (∃ (s : State), s.nvq.act = 1 ∧ drained s = true) ∧
    (∃ (s : State) (n : Nat) (k : Cmd), s.nvq.act = 1 ∧ s.upd.commit = some n ∧ n ≠ cusCommit ∧ s.slot? n = some k) ∧
    (∃ (s : State) (f : Nat) (n : Nat) (k : Cmd), s.nvq.act = 2 ∧ s.nvq.actSlot = some f ∧ s.upd.commit = some n ∧ n ≠ cusCommit ∧
      s.slot? n = some k) :=
  ⟨⟨0, { off := 0, len := 4096, data := magicDelta }, host (cmd 0 17 1023), cmd 0 17 1023, ctl, 4096, magicDelta, deltaCheck
      (deltaBase (host (cmd 0 17 1023))) magicDelta 4096, by unfold Admitted; decide +kernel⟩,
    ⟨0, { off := 4096, len := 4096 }, { host (cmd 0 17 1023 1024) with upd := { isOpen := true, owner := 1, off := 4096 } }, cmd 0
      17 1023 1024, ctl, 8192, 0, deltaCheck (deltaBase
      { host (cmd 0 17 1023 1024) with upd := { isOpen := true, owner := 1, off := 4096 } }) 0 8192, deltaApply
      { { host (cmd 0 17 1023 1024) with upd := { isOpen := true, owner := 1, off := 4096 } } with upd := { ({ host (cmd 0 17 1023 1024) with upd := { isOpen := true, owner := 1, off := 4096 } }).upd with off := 8192, buf := 0 } },
      by unfold Admitted; decide +kernel⟩,
    ⟨0, { host (cmd 0 17 1023) with upd := { isOpen := true, owner := 2 } }, cmd 0 17 1023, ctl,
      by unfold Admitted; decide +kernel⟩,
    ⟨0, { host (cmd 0 16 2) with upd := { fw2 := some { serial := 1, version := 1 } } }, cmd 0 16 2, ctl, 2,
      { serial := 1, version := 1 }, by unfold Admitted; decide +kernel⟩,
    ⟨0, { host (cmd 0 16 10) with upd := { fw2 := some { serial := 1, version := 1 } } }, cmd 0 16 10, ctl, 2,
      { serial := 1, version := 1 }, by unfold Admitted; decide +kernel⟩,
    ⟨0, { host (cmd 0 16 18) with upd := { fw2 := some { serial := 1, version := 1 }, floor := 1 } }, cmd 0 16 18, ctl, 2,
      { serial := 1, version := 1 }, by unfold Admitted; decide +kernel⟩,
    ⟨0, { host (cmd 0 16 18) with upd := { fw2 := some { serial := 1, version := 1 }, floor := 2 } }, cmd 0 16 18, ctl, 2,
      { serial := 1, version := 1 }, by unfold Admitted; decide +kernel⟩,
    ⟨0, host (cmd 0 16 25), cmd 0 16 25, ctl, 1, by unfold Admitted; decide +kernel⟩,
    ⟨0, { host (cmd 0 16 26) with upd := { fw2 := some { serial := 1, version := 1 } }, sea := { sealed := true } }, cmd 0 16 26,
      ctl, 2, { serial := 1, version := 1 }, by unfold Admitted; decide +kernel⟩,
    ⟨0, { host (cmd 0 16 26) with upd := { fw1 := some (booted 1), fw2 := some (booted 2) } }, cmd 0 16 26, ctl, 2, booted 2,
      by unfold Admitted; decide +kernel⟩,
    ⟨{ State.reset with nvq := { act := 1 } }, by decide +kernel⟩,
    ⟨committing 1, 0, cmd 0 16 26, by decide +kernel⟩,
    ⟨committing 2, 2, 0, cmd 0 16 26, by decide +kernel⟩⟩

theorem test_met_CustodianSessions :
    (∃ (s : State), 2 < s.boot.step ∧ s.cus.lockout = false ∧ s.cus.words.length < 7) ∧
    (∃ (w : Word) (s : State), 2 < s.boot.step ∧ s.cus.lockout = false ∧ s.cus.words.length = 7 ∧ wordsNumber (s.cus.words ++
      [w.toNat]) = cusAnswer s) ∧
    (∃ (w : Word) (s : State), 2 < s.boot.step ∧ s.cus.lockout = false ∧ s.cus.words.length = 7 ∧ wordsNumber (s.cus.words ++
      [w.toNat]) ≠ cusAnswer s) ∧
    (∃ (s : State), s.cus.lockout = true) ∧
    (∃ (s : State), s.cus.isOpen = true) :=
  ⟨⟨asked [], by decide +kernel⟩,
    ⟨.ofNat 32 (cusAnswer (asked []) / 2 ^ 224), asked (digits (cusAnswer (asked []))),
      ⟨by decide +kernel, rfl, rfl, digits_spell (Nat.mod_lt _ (by decide))⟩⟩,
    ⟨if cusAnswer (asked zeros) = 0 then 1 else 0, asked zeros, ⟨by decide +kernel, rfl, rfl, zeros_miss _⟩⟩,
    ⟨{ State.reset with cus := { lockout := true } }, by decide +kernel⟩,
    ⟨session, by decide +kernel⟩⟩

theorem test_met_DeviceTasks :
    (∃ (s : State), TaskReady s ∧ argOf s 0 ≤ 1) ∧
    (∃ (s : State), TaskReady s ∧ argOf s 0 = 2 ∧ sealAgree s.sea.a s.sea.b = true) ∧
    (∃ (s : State), TaskReady s ∧ argOf s 0 = 2 ∧ sealAgree s.sea.a s.sea.b = false) ∧
    (∃ (s : State), TaskReady s ∧ bufBytes s 0 8 = 0) ∧
    (∃ (s : State), TaskReady s ∧ bufBytes s 0 8 ≠ 0) ∧
    (∃ (s : State) (n : Namespace), TaskReady s ∧ s.ns? (argOf s 0) = some n ∧ s.cip.escrowId ≠ 0) ∧
    (∃ (s : State), TaskReady s ∧ argOf s 0 = 0) ∧
    (∃ (s : State), TaskReady s ∧ 64 < argOf s 0) ∧
    (∃ (s : State), TaskReady s ∧ argOf s 0 = 0 ∧ 0 < argOf s 2 ∧ argOf s 2 ≤ 4096) ∧
    (∃ (s : State) (i : TwimaImage), fenCount s ≤ 16 ∧ TaskReady s ∧ nvqSealed s = false ∧ taskBusy s false = false ∧ slotImage s
      (twimaStaging s) = (some i, 0) ∧ slotRecValid (slotRec s) = true) ∧
    (∃ (s : State) (i : FwImage), TaskReady s ∧ argOf s 0 = 2 ∧ taskBusy s false = false ∧ s.upd.commit = none ∧ argOf s 1 ∈ [1, 2]
      ∧ argOf s 1 ≠ s.upd.running ∧ fwSlot s (argOf s 1) = some i ∧ s.upd.floor ≤ i.serial) ∧
    (∃ (s : State) (i : FwImage), TaskReady s ∧ expertOpen s .custodian = true ∧ fwSlot s s.upd.running = some i ∧ argOf s 0 =
      i.serial ∧ argOf s 1 = s.rd F.CFG_SERIAL_SERIAL ∧ s.cfg.floorUps < 255) ∧
    (∃ (s : State), fenCount s ≤ 16 ∧ TaskReady s ∧ s.pwr.decided = false) :=
  ⟨⟨(ready).wr F.CUS_TASK_ARG_ARG 1 0, by unfold TaskReady; decide +kernel⟩,
    ⟨({ ready with sea := { a := true } }).wr F.CUS_TASK_ARG_ARG 2 0, by unfold TaskReady; decide +kernel⟩,
    ⟨(ready).wr F.CUS_TASK_ARG_ARG 2 0, by unfold TaskReady; decide +kernel⟩,
    ⟨ready, by unfold TaskReady; decide +kernel⟩,
    ⟨ready.wr F.CUS_BUF_DATA 1, by unfold TaskReady; decide +kernel⟩,
    ⟨({ ready with nvq := { ns := [(1, {})] }, cip := { escrowId := 1 } }).wr F.CUS_TASK_ARG_ARG 1 0, {},
      by unfold TaskReady; decide +kernel⟩,
    ⟨ready, by unfold TaskReady; decide +kernel⟩,
    ⟨(ready).wr F.CUS_TASK_ARG_ARG 65 0, by unfold TaskReady; decide +kernel⟩,
    ⟨(ready).wr F.CUS_TASK_ARG_ARG 4096 2, by unfold TaskReady; decide +kernel⟩,
    ⟨{ ready with cfg := { staged 2 none with rec0 := { magic := magicTwsr, seq := 1, primary := 0, backup := 1, staging := 2, crc := 1035602366 } } },
      goodImage, by unfold TaskReady; decide +kernel⟩,
    ⟨(({ ready with upd := { fw2 := some { serial := 1, version := 1 }, floor := 1 } }).wr F.CUS_TASK_ARG_ARG 2 0).wr
      F.CUS_TASK_ARG_ARG 2 1, { serial := 1, version := 1 }, by unfold TaskReady; decide +kernel⟩,
    ⟨({ ready with upd := { fw1 := some { serial := 1, version := 1 } }, cfg := { experts := [(32, { isOpen := true })], floorUps := 254 } }).wr
      F.CUS_TASK_ARG_ARG 1 0, { serial := 1, version := 1 }, by unfold TaskReady; decide +kernel⟩,
    ⟨ready, by unfold TaskReady; decide +kernel⟩⟩

theorem test_met_FleetTasks :
    (∃ (s : State), fenCount s ≤ 16 ∧ TaskReady s ∧ argOf s 0 < fenCount s ∧ argOf s 1 < 32 ∧ inService s (argOf s 0) (argOf s 1) =
      true ∧ fenDrains s (argOf s 0) = false) ∧
    (∃ (s : State), fenCount s ≤ 16 ∧ TaskReady s ∧ argOf s 0 < fenCount s ∧ argOf s 1 < 32 ∧ (inService s (argOf s 0) (argOf s 1)
      = false ∨ fenDrains s (argOf s 0) = true)) ∧
    (∃ (c : CalRow) (g : Bool) (s : State), fenCount s ≤ 16 ∧ TaskReady s ∧ argOf s 0 < 512 ∧ argOf s 1 < fenCount s ∧ argOf s 2 <
      32 ∧ seamState s (argOf s 0) = 10 ∧ indexOut s (argOf s 1) (argOf s 2) = true ∧ indexFree s (argOf s 1) (argOf s 2) = true ∧
      hotaddRefused s (argOf s 1) c g = false) ∧
    (∃ (s : State), fenCount s ≤ 16 ∧ TaskReady s ∧ argOf s 0 < 512 ∧ argOf s 1 < fenCount s ∧ argOf s 2 < 32 ∧ seamState s (argOf
      s 0) ≠ 10) ∧
    (∃ (l : Link) (k : Nat) (s : State), fenCount s ≤ 16 ∧ linkMember s l.val = some k ∧ l.val ∈ s.fen.draining ∧ indexFree s (k /
      32) (k % 32) = true) ∧
    (∃ (s : State) (r : _), TaskReady s ∧ bufBytes s 0 1 < 64 ∧ bufBytes s 1 1 = r ∧ r ≠ 0 ∧ r < 16 ∧ bitOf r 0 = false) ∧
    (∃ (s : State), TaskReady s ∧ bufBytes s 0 1 < 64 ∧ bufBytes s 1 1 = 0) ∧
    (∃ (s : State) (q : Nat), TaskReady s ∧ s.cwy.chain = false ∧ s.upd.isOpen = false ∧ s.upd.commit = none ∧ s.upd.deltaLen ≠ 0 ∧
      chainNext s = some q) ∧
    (∃ (s : State) (p : Nat) (m : Nat) (n : Namespace), TaskReady s ∧ peerBySerial s (arg64 s 1) = some p ∧ s.ns? (argOf s 0) =
      some n ∧ bitOf (peerOf s p).roles 1 = true ∧ n.importing = false ∧ (migsRunning s true).length < 4 ∧ (∀ e ∈ migsRunning s
      true, e.2.nsid ≠ argOf s 0) ∧ freeMig s = some m) ∧
    (∃ (s : State) (p : Nat) (m : Nat), TaskReady s ∧ peerBySerial s (arg64 s 0) = some p ∧ 0 < argOf s 3 ∧ argOf s 3 ≤ 4096 ∧
      s.ns? (argOf s 3) = none ∧ (s.image.nstpl.templates[argOf s 4]?).isSome = true ∧ bitOf (peerOf s p).roles 2 = true ∧
      importBarred s = false ∧ (migsRunning s false).length < 4 ∧ (∀ e ∈ migsRunning s false, e.2.nsid ≠ argOf s 3) ∧ freeMig s =
      some m) ∧
    (∃ (s : State) (m : Nat) (y : Migration) (n : Namespace), TaskReady s ∧ (migsRunning s true).find? (fun e => decide (e.2.nsid =
      argOf s 0)) = some (m, y) ∧ s.ns? (argOf s 0) = some n) :=
  ⟨⟨((ready).wr F.CUS_TASK_ARG_ARG 15 0).wr F.CUS_TASK_ARG_ARG 31 1, by unfold TaskReady; decide +kernel⟩,
    ⟨(({ ready with fen := { draining := [511] } }).wr F.CUS_TASK_ARG_ARG 15 0).wr F.CUS_TASK_ARG_ARG 31 1,
      by unfold TaskReady; decide +kernel⟩,
    ⟨{ readable := true, dies := 32, flags := 0, blocks := 500000, size := 1, retryClass := 0, ea := 0, beta := 0, endQlc := 1500, endSlc := 0, curveQlc := [], curveSlc := [], tMax := [], maxTemp := 0, serial := 7 },
      true, (((({ ready with fen := { retired := [511] } }).wr F.CUS_TASK_ARG_ARG 511 0).wr F.CUS_TASK_ARG_ARG 15 1).wr
      F.CUS_TASK_ARG_ARG 31 2).wr F.SEAM_STAT_STATE 10 511, by unfold TaskReady; decide +kernel⟩,
    ⟨(((ready).wr F.CUS_TASK_ARG_ARG 511 0).wr F.CUS_TASK_ARG_ARG 15 1).wr F.CUS_TASK_ARG_ARG 31 2,
      by unfold TaskReady; decide +kernel⟩,
    ⟨511, 511, { State.reset with fen := { draining := [511] } }, by decide +kernel⟩,
    ⟨ready.wr F.CUS_BUF_DATA (14 * 256 + 63), 14, by unfold TaskReady; decide +kernel⟩,
    ⟨ready.wr F.CUS_BUF_DATA 63, by unfold TaskReady; decide +kernel⟩,
    ⟨{ ready with cwy := { peers := [(63, { serial := 5, roles := 1 })] }, upd := { deltaLen := 1 } }, 63,
      by unfold TaskReady; decide +kernel⟩,
    ⟨(({ ready with cwy := { peers := [(63, { serial := 5, roles := 2 })] }, nvq := { ns := [(1, {})] } }).wr F.CUS_TASK_ARG_ARG 1
      0).wr F.CUS_TASK_ARG_ARG 5 1, 63, 0, {}, by unfold TaskReady; decide +kernel⟩,
    ⟨(({ ready with cwy := { peers := [(63, { serial := 5, roles := 4 })] }, cfg := { run := some { imageLen := 0, serial := 0, nstpl := { templates := [{}] } } } }).wr
      F.CUS_TASK_ARG_ARG 5 0).wr F.CUS_TASK_ARG_ARG 4096 3, 63, 0, by unfold TaskReady; decide +kernel⟩,
    ⟨({ ready with cwy := { peers := [(63, { serial := 5, roles := 2 })], migs := [(7, { export_ := true, peer := 63, nsid := 1 })] }, nvq := { ns := [(1, {})] } }).wr
      F.CUS_TASK_ARG_ARG 1 0, 7, { export_ := true, peer := 63, nsid := 1 }, {}, by unfold TaskReady; decide +kernel⟩⟩

theorem test_met_ResetsStartBoot :
    (∃ (v : Bool) (s : State), fenCount s ≤ 16 ∧ s.boot.testEn = false ∧ (v = true → s.boot.records.all inFlash = true)) ∧
    (∃ (s : State), s.boot.testEn = true) ∧
    (∃ (p : AccessPath) (v : Word) (s : State), expertOpen s p = true ∧ v.toNat % 65536 = 0xA5C3 ∧ s.pwr.decided = false) ∧
    (∃ (c : Nat) (s : State), s.boot.resetDue = some c ∧ s.pwr.decided = false ∧ (∀ e ∈ s.nvq.slots, e.2.state = .admitted →
      e.2.waits = true) ∧ s.map.dirty = []) :=
  ⟨⟨true, State.reset, by decide +kernel⟩,
    ⟨{ State.reset with boot := { testEn := true } }, by decide +kernel⟩,
    ⟨.reginit, 0x12A5C3, State.reset, by decide +kernel⟩,
    ⟨1, { State.reset with boot := { resetDue := some 1 } }, by decide +kernel⟩⟩

theorem test_met_BootSteps :
    (∃ (s : State) (r : BootRecord) (l : List BootRecord), fenCount s ≤ 16 ∧ s.boot.stopped = false ∧ s.boot.done = false ∧
      s.pwr.decided = false ∧ s.boot.records = r :: l ∧ s.boot.step = 1 ∧ 0 ∉ s.clk.lost) ∧
    (∃ (s : State) (r : BootRecord) (l : List BootRecord), fenCount s ≤ 16 ∧ s.boot.stopped = false ∧ s.boot.done = false ∧
      s.pwr.decided = false ∧ s.boot.records = r :: l ∧ s.boot.step = 2) ∧
    (∃ (s : State) (r : BootRecord) (l : List BootRecord), fenCount s ≤ 16 ∧ s.boot.stopped = false ∧ s.boot.done = false ∧
      s.pwr.decided = false ∧ s.boot.records = r :: l ∧ s.boot.step = 3 ∧ slotCheck s = 0) ∧
    (∃ (s : State) (r : BootRecord) (l : List BootRecord) (i : _), fenCount s ≤ 16 ∧ s.boot.stopped = false ∧ s.boot.done = false ∧
      s.pwr.decided = false ∧ s.boot.records = r :: l ∧ s.boot.step = 4 ∧ bitOf r.sticky 0 = false ∧ slotImage s (slotRec
      s).primary = (some i, 0)) ∧
    (∃ (s : State) (r : BootRecord) (l : List BootRecord), fenCount s ≤ 16 ∧ s.boot.stopped = false ∧ s.boot.done = false ∧
      s.pwr.decided = false ∧ s.boot.records = r :: l ∧ s.boot.step = 5) ∧
    (∃ (x : BootFacts) (s : State) (r : BootRecord) (l : List BootRecord), fenCount s ≤ 16 ∧ s.boot.stopped = false ∧ s.boot.done =
      false ∧ s.pwr.decided = false ∧ s.boot.records = r :: l ∧ s.boot.step = 6 ∧ x.groupsOk = 0xFFFF#16 ∧ (∀ f < fenCount s,
      (membersMissing s f).length ≤ geoP s)) ∧
    (∃ (x : BootFacts) (s : State) (r : BootRecord) (l : List BootRecord), fenCount s ≤ 16 ∧ s.boot.stopped = false ∧ s.boot.done =
      false ∧ s.pwr.decided = false ∧ s.boot.records = r :: l ∧ s.boot.step = 7 ∧ (bitOf r.sticky 1 = true ∨ x.ckptOk = true ∧
      s.map.ckpts ≠ [])) ∧
    (∃ (s : State) (r : BootRecord) (l : List BootRecord), fenCount s ≤ 16 ∧ s.boot.stopped = false ∧ s.boot.done = false ∧
      s.pwr.decided = false ∧ s.boot.records = r :: l ∧ s.boot.step = 8) ∧
    (∃ (s : State) (r : BootRecord) (l : List BootRecord), fenCount s ≤ 16 ∧ s.boot.stopped = false ∧ s.boot.done = false ∧
      s.pwr.decided = false ∧ s.boot.records = r :: l ∧ s.boot.step ∈ [1, 2, 7] ∧ s.map.dirty = [] ∧ s.rd F.BOOT_STAT_AUTO < s.rd
      F.BOOT_CTL_AUTO_MAX) ∧
    (∃ (s : State) (r : BootRecord) (l : List BootRecord), fenCount s ≤ 16 ∧ s.boot.stopped = false ∧ s.boot.done = false ∧
      s.pwr.decided = false ∧ s.boot.records = r :: l ∧ s.boot.step ∈ [1, 2, 7] ∧ s.rd F.BOOT_CTL_AUTO_MAX ≤ s.rd F.BOOT_STAT_AUTO)
      ∧
    (∃ (s : State) (r : BootRecord) (l : List BootRecord), fenCount s ≤ 16 ∧ s.boot.stopped = false ∧ s.boot.done = false ∧
      s.pwr.decided = false ∧ s.boot.records = r :: l ∧ s.boot.step = 4 ∧ bitOf r.sticky 0 = true) ∧
    (∃ (s : State) (r : BootRecord) (l : List BootRecord) (i : _), fenCount s ≤ 16 ∧ s.boot.stopped = false ∧ s.boot.done = false ∧
      s.pwr.decided = false ∧ s.boot.records = r :: l ∧ s.boot.step = 4 ∧ bitOf r.sticky 0 = false ∧ slotImage s (slotRec s).backup
      = (some i, 0)) ∧
    (∃ (s : State) (r : BootRecord) (l : List BootRecord) (i : _) (e : _), fenCount s ≤ 16 ∧ s.boot.stopped = false ∧ s.boot.done =
      false ∧ s.pwr.decided = false ∧ s.boot.records = r :: l ∧ s.boot.step = 4 ∧ bitOf r.sticky 0 = false ∧ slotImage s (slotRec
      s).backup = (i, e) ∧ (i = none ∨ e ≠ 0)) ∧
    (∃ (s : State) (r : BootRecord) (l : List BootRecord), fenCount s ≤ 16 ∧ s.boot.stopped = false ∧ s.boot.done = false ∧
      s.pwr.decided = false ∧ s.boot.records = r :: l ∧ s.boot.step = 3 ∧ isTry s = true) ∧
    (∃ (s : State), isTry s = true ∧ 1 ≤ s.boot.step ∧ s.boot.step < 8 ∧ s.boot.stopped = false ∧ s.pwr.decided = false) :=
  ⟨⟨{ State.reset with boot := { step := 1, records := [{ startNo := 1 }] } }, { startNo := 1 }, [], by decide +kernel⟩,
    ⟨{ State.reset with boot := { step := 2, records := [{ startNo := 1 }] } }, { startNo := 1 }, [], by decide +kernel⟩,
    ⟨{ State.reset with boot := { step := 3, records := [{ startNo := 1 }] }, upd := { fw1 := some { serial := 1, version := 1 } } },
      { startNo := 1 }, [], by decide +kernel⟩,
    ⟨{ State.reset with boot := { step := 4, records := [{ startNo := 1 }] }, cfg := staged 0 none }, { startNo := 1 }, [],
      goodImage, by decide +kernel⟩,
    ⟨{ State.reset with boot := { step := 5, records := [{ startNo := 1 }] } }, { startNo := 1 }, [], by decide +kernel⟩,
    ⟨{},
      { State.reset with boot := { step := 6, records := [{ startNo := 1 }] }, map := { core := { members := (List.range 512).map (fun i => (i, 0xFFFF)) } } },
      { startNo := 1 }, [], by decide +kernel⟩,
    ⟨{}, { State.reset with boot := { step := 7, records := [{ startNo := 1, sticky := 2 }] } }, { startNo := 1, sticky := 2 }, [],
      by decide +kernel⟩,
    ⟨{ State.reset with boot := { step := 8, records := [{ startNo := 1 }] } }, { startNo := 1 }, [], by decide +kernel⟩,
    ⟨{ State.reset with boot := { step := 7, records := [{ startNo := 1 }] } }, { startNo := 1 }, [], by decide +kernel⟩,
    ⟨{ State.reset with boot := { step := 7, records := [{ startNo := 1 }] } }.wr F.BOOT_STAT_AUTO 3, { startNo := 1 }, [],
      by decide +kernel⟩,
    ⟨{ State.reset with boot := { step := 4, records := [{ startNo := 1, sticky := 1 }] } }, { startNo := 1, sticky := 1 }, [],
      by decide +kernel⟩,
    ⟨{ State.reset with boot := { step := 4, records := [{ startNo := 1 }] }, cfg := staged 1 none }, { startNo := 1 }, [],
      goodImage, by decide +kernel⟩,
    ⟨{ State.reset with boot := { step := 4, records := [{ startNo := 1 }] } }, { startNo := 1 }, [], none, 1, by decide +kernel⟩,
    ⟨{ State.reset with boot := { step := 3, records := [{ startNo := 1, slots := 8 }] } }, { startNo := 1, slots := 8 }, [],
      by decide +kernel⟩,
    ⟨{ State.reset with boot := { step := 7, records := [{ startNo := 1, slots := 8 }] } }, by decide +kernel⟩⟩

theorem test_met_ClocksAndCalendar :
    (∃ (c : RefClock) (s : State), clkIndex c ∉ s.clk.lost) ∧
    (∃ (s : State), 2 ≤ Tab.get 0 s.clk.fails 0 ∧ 0 ∉ s.clk.lost) ∧
    (∃ (s : State), fenCount s ≤ 16 ∧ 0 ∉ s.clk.lost ∧ s.pwr.decided = false ∧ s.boot.done = true) :=
  ⟨⟨.seam 15, State.reset, by decide +kernel⟩,
    ⟨{ State.reset with clk := { fails := [(0, 2)] } }, by decide +kernel⟩,
    ⟨{ State.reset with boot := { done := true } }, by decide +kernel⟩⟩

theorem test_met_PcieFunctions :
    (∃ (s : State), s.boot.testEn = false ∧ s.boot.step ≤ 4) ∧
    (∃ (l : PcieLink) (f : BitVec 8) (s : State), s.boot.testEn = false ∧ 4 < s.boot.step ∧ s.isSet F.HIF_LINK_STAT_UP l.val = true
      ∧ funcUp s l.val f.toNat = false) ∧
    (∃ (l : PcieLink) (f : BitVec 8) (w : Bool) (s : State), s.boot.testEn = false ∧ 4 < s.boot.step ∧ s.isSet F.HIF_LINK_STAT_UP
      l.val = true ∧ funcUp s l.val f.toNat = true ∧ w = false) ∧
    (∃ (l : PcieLink) (f : BitVec 8) (w : Bool) (r : BitVec 12) (v : Word) (en : BitVec 4) (s : State), s.boot.testEn = false ∧ 4 <
      s.boot.step ∧ s.isSet F.HIF_LINK_STAT_UP l.val = true ∧ funcUp s l.val f.toNat = true ∧ w = true ∧ r = 4 ∧ en = 15 ∧ bitOf
      v.toNat 2 = true) ∧
    (∃ (l : PcieLink) (f : Fin 4) (n : Nat) (s : State), (pfOf s l.val f.val).isSome = true ∧ (funcOf s l.val f.val).vfEnable =
      false ∧ n % 65536 ≤ pfVfs s l.val f.val) ∧
    (∃ (l : PcieLink) (f : Fin 4) (n : Nat) (s : State), (pfOf s l.val f.val).isSome = true ∧ (funcOf s l.val f.val).vfEnable =
      false ∧ pfVfs s l.val f.val < n % 65536) ∧
    (∃ (l : PcieLink) (f : Fin 4) (s : State), (pfOf s l.val f.val).isSome = true ∧ (funcOf s l.val f.val).vfEnable = false ∧ pfVfs
      s l.val f.val ≠ 0) ∧
    (∃ (l : PcieLink) (f : Fin 4) (s : State), pfVfs s l.val f.val ≠ 0 ∧ (funcOf s l.val f.val).vfEnable = true) ∧
    (∃ (l : PcieLink) (s : State), 1 ≤ Tab.get 0 s.hif.spdm l.val) ∧
    (∃ (l : PcieLink) (s : State), 2 ≤ Tab.get 0 s.hif.spdm l.val) ∧
    (∃ (l : PcieLink) (s : State), 3 ≤ Tab.get 0 s.hif.spdm l.val) ∧
    (∃ (l : PcieLink) (s : State), 3 ≤ Tab.get 0 s.hif.spdm l.val) ∧
    (∃ (l : PcieLink) (s : State) (j : BitVec 4) (o : Nat) (n : Nat) (i : _), 3 ≤ Tab.get 0 s.hif.spdm l.val ∧ j ≠ 0 ∧ i ∈
      [Instr.getCertificate l j o n, .challenge l j n]) ∧
    (∃ (l : PcieLink) (s : State) (i : BitVec 8), 3 ≤ Tab.get 0 s.hif.spdm l.val ∧ i.toNat ∈ [1, 2, 3, 4, 5]) ∧
    (∃ (l : PcieLink) (s : State) (j : BitVec 4) (k : BitVec 8) (o : Nat) (n : Nat) (i : _), Tab.get 0 s.hif.spdm l.val = 0 ∧ i ∈
      [Instr.getCapabilities l, .negotiateAlgorithms l, .getDigests l, .getCertificate l j o n, .challenge l j n, .getMeasurements
      l k]) :=
  ⟨⟨{ State.reset with boot := { step := 4 } }, by decide +kernel⟩,
    ⟨7, 255, { State.reset with boot := { step := 5 } }.wr F.HIF_LINK_STAT_UP 1 7, by decide +kernel⟩,
    ⟨6, 0, false, { State.reset with boot := { step := 5 } }.wr F.HIF_LINK_STAT_UP 1 6, by decide +kernel⟩,
    ⟨6, 0, true, 4, 4, 15, { State.reset with boot := { step := 5 } }.wr F.HIF_LINK_STAT_UP 1 6, by decide +kernel⟩,
    ⟨0, 3, 8, virtual false, by decide +kernel⟩,
    ⟨0, 3, 9, virtual false, by decide +kernel⟩,
    ⟨0, 3, virtual false, by decide +kernel⟩,
    ⟨0, 3, virtual true, by decide +kernel⟩,
    ⟨7, spdm 1, by decide +kernel⟩,
    ⟨7, spdm 2, by decide +kernel⟩,
    ⟨7, spdm 3, by decide +kernel⟩,
    ⟨7, spdm 3, by decide +kernel⟩,
    ⟨7, spdm 3, 15, 0, 0, .challenge 7 15 0, by decide +kernel⟩,
    ⟨7, spdm 3, 5, by decide +kernel⟩,
    ⟨7, spdm 0, 0, 0, 0, 0, .getDigests 7, by decide +kernel⟩⟩

theorem test_met_PcieEvents :
    (∃ (l : PcieLink) (f : BitVec 8) (s : State), bitOf (Tab.get 0 (funcOf s l.val f.toNat).regs 0x118) 8 = true) ∧
    (∃ (l : PcieLink) (f : BitVec 8) (s : State), bitOf (Tab.get 0 (funcOf s l.val f.toNat).regs 0x118) 8 = false) ∧
    (∃ (s : State) (ch : Fin 64) (j : DmaJob), s.dma.jobs.find ch.val = some j ∧ s.rd F.DMA_CH_CFG_MODE ch.val = 1 ∧ s.rd
      F.DMA_CH_STAT_ATTEMPTS ch.val < s.rd F.DMA_CH_CFG_RETRY_MAX ch.val) ∧
    (∃ (l : PcieLink) (f : BitVec 8) (s : State), funcUp s l.val f.toNat = true ∧ (funcOf s l.val f.toNat).vfEnable = false) ∧
    (∃ (l : PcieLink) (f : BitVec 8) (s : State), bitOf (funcOf s l.val f.toNat).command 2 = true) ∧
    (∃ (l : PcieLink) (f : BitVec 8) (s : State), f.toNat < 4 ∧ funcUp s l.val f.toNat = true ∧ (funcOf s l.val f.toNat).pmcsr ≠ 3)
      ∧
    (∃ (l : PcieLink) (s : State), l.val ∈ pcieLinks s ∧ s.isSet F.HIF_LINK_STAT_UP l.val = false) ∧
    (∃ (l : PcieLink) (s : State), s.isSet F.HIF_LINK_STAT_UP l.val = true) :=
  ⟨⟨7, 255, { State.reset with hif := { funcs := [(256 * 7 + 255, { regs := [(0x118, 256)] })] } }, by decide +kernel⟩,
    ⟨7, 255, State.reset, by decide +kernel⟩,
    ⟨({ State.reset with dma := { jobs := [(63, { op := 3, ctl := 0, len := 32, src := 64, dst := 128, dst2 := 0, cntlid := 0 })] } }.wr
      F.DMA_CH_CFG_MODE 1 63).wr F.DMA_CH_CFG_RETRY_MAX 1 63, 63,
      { op := 3, ctl := 0, len := 32, src := 64, dst := 128, dst2 := 0, cntlid := 0 }, by decide +kernel⟩,
    ⟨6, 0, State.reset, by decide +kernel⟩,
    ⟨7, 255, { State.reset with hif := { funcs := [(256 * 7 + 255, { command := 4 })] } }, by decide +kernel⟩,
    ⟨6, 0, State.reset, by decide +kernel⟩,
    ⟨6, State.reset, by decide +kernel⟩,
    ⟨7, State.reset.wr F.HIF_LINK_STAT_UP 1 7, by decide +kernel⟩⟩

theorem test_met_FabricPorts :
    (∃ (l : LPort) (s : State), l.val ∈ ethPorts s ∧ s.isSet F.FAB_PORT_STAT_UP l.val = false) ∧
    (∃ (l : LPort) (s : State), s.isSet F.FAB_PORT_STAT_UP l.val = true) ∧
    (∃ (l : LPort) (s : State), s.isSet F.FAB_PORT_STAT_UP l.val = false ∧ s.isSet F.FAB_PORT_STAT_HOLD l.val = true) ∧
    (∃ (l : LPort) (s : State), s.isSet F.FAB_PORT_STAT_UP l.val = true) ∧
    (∃ (l : LPort) (s : State), s.isSet F.FAB_PORT_STAT_UP l.val = true) ∧
    (∃ (l : LPort) (s : State), s.isSet F.FAB_PORT_STAT_UP l.val = true) ∧
    (∃ (l : LPort) (p : Fin 8) (s : State), bitOf (s.rd F.FAB_PORT_STAT_PAUSED l.val) p.val = true) ∧
    (∃ (n : Nat) (g : Nat) (s : State) (q : Qp), s.fab.qps.find n = some q ∧ s.rd F.FAB_ECN_CTL_CNP_GAP ≤ g) ∧
    (∃ (n : Nat) (g : Nat) (s : State) (q : Qp), s.fab.qps.find n = some q ∧ g < s.rd F.FAB_ECN_CTL_CNP_GAP) ∧
    (∃ (n : Nat) (s : State) (q : Qp), s.fab.qps.find n = some q ∧ q.cnp = false) ∧
    (∃ (n : Nat) (s : State) (q : Qp), s.fab.qps.find n = some q ∧ q.cnp = true) ∧
    (∃ (s : State) (k : Nat) (w : Nat) (e : Nat), k = s.rd F.FAB_ADDR_SEL_ENTRY ∧ w = stagedBytes s k ∧ e = addrCheck s k w ∧ e ≠
      0) ∧
    (∃ (s : State) (k : Nat) (w : Nat) (e : Nat), k = s.rd F.FAB_ADDR_SEL_ENTRY ∧ w = stagedBytes s k ∧ e = addrCheck s k w ∧ e =
      0) :=
  ⟨⟨31, { State.reset with cfg := { run := some { imageLen := 0, serial := 0, hostfn := { ethModes := [(7, 1)] } } } },
      by decide +kernel⟩,
    ⟨31, State.reset.wr F.FAB_PORT_STAT_UP 1 31, by decide +kernel⟩,
    ⟨31, State.reset.wr F.FAB_PORT_STAT_HOLD 1 31, by decide +kernel⟩,
    ⟨31, State.reset.wr F.FAB_PORT_STAT_UP 1 31, by decide +kernel⟩,
    ⟨31, State.reset.wr F.FAB_PORT_STAT_UP 1 31, by decide +kernel⟩,
    ⟨31, State.reset.wr F.FAB_PORT_STAT_UP 1 31, by decide +kernel⟩,
    ⟨31, 7, State.reset.wr F.FAB_PORT_STAT_PAUSED 128 31, by decide +kernel⟩,
    ⟨5, 50, { State.reset with fab := { qps := [(5, { lp := 0, addr := 0 })] } }, { lp := 0, addr := 0 }, by decide +kernel⟩,
    ⟨5, 49, { State.reset with fab := { qps := [(5, { lp := 0, addr := 0 })] } }, { lp := 0, addr := 0 }, by decide +kernel⟩,
    ⟨5, { State.reset with fab := { qps := [(5, { lp := 0, addr := 0 })] } }, { lp := 0, addr := 0 }, by decide +kernel⟩,
    ⟨5, { State.reset with fab := { qps := [(5, { lp := 0, addr := 0, cnp := true })] } }, { lp := 0, addr := 0, cnp := true },
      by decide +kernel⟩,
    ⟨{ State.reset with fab := { staged := [(0, 17)] } }, 0, 17, 1, by decide +kernel⟩,
    ⟨State.reset, 0, 0, 0, by decide +kernel⟩⟩

theorem test_met_FabricHosts :
    (∃ (n : Nat) (s : State) (q : Qp), s.fab.qps.find n = some q ∧ q.ready = true) ∧
    (∃ (n : Nat) (s : State) (q : Qp), s.fab.qps.find n = some q ∧ q.retries < 7) ∧
    (∃ (n : Nat) (s : State) (q : Qp), s.fab.qps.find n = some q ∧ 7 ≤ q.retries ∧ q.ctrl = 0) ∧
    (∃ (n : Nat) (s : State) (q : Qp) (c : _), s.fab.qps.find n = some q ∧ 7 ≤ q.retries ∧ q.ctrl ≠ 0 ∧ s.ctrl? q.ctrl = some c ∧
      c.fabric = true ∧ c.resetting = false) ∧
    (∃ (n : SlotNo) (s : State) (k : Cmd), s.slot? n.val = some k ∧ k.sent = true ∧ k.lostKey = false) ∧
    (∃ (l : LPort) (r : CmReq) (s : State), s.isSet F.FAB_PORT_STAT_UP l.val = true ∧ r.privOk = true ∧ s.fab.qps.length < 9216 ∧
      (∃ e ∈ s.fab.addrs, addrOn e.2 = true ∧ addrNvme e.2 = true ∧ e.2.lp = l.val ∧ e.2.addr = r.addr)) ∧
    (∃ (l : LPort) (r : CmReq) (s : State), s.isSet F.FAB_PORT_STAT_UP l.val = true ∧ (r.privOk = false ∨ 9216 ≤ s.fab.qps.length))
      ∧
    (∃ (n : Nat) (r : ConnectReq) (s : State) (q : Qp), s.fab.qps.find n = some q ∧ q.ready = true ∧ q.ctrl = 0 ∧ r.recfmt = 0 ∧
      r.discovery = false ∧ s.image.nvmectl.hosts.find? (fun h => decide (h.nqn = r.hostNqn ∧ q.lp ∈ h.ports)) = none) ∧
    (∃ (n : Nat) (r : ConnectReq) (s : State) (q : Qp) (h : _) (i : _), s.fab.qps.find n = some q ∧ q.ready = true ∧ q.ctrl = 0 ∧
      r.recfmt = 0 ∧ r.discovery = false ∧ s.image.nvmectl.hosts.find? (fun h => decide (h.nqn = r.hostNqn ∧ q.lp ∈ h.ports)) =
      some h ∧ r.subOk = true ∧ r.qid = 0 ∧ r.cntlid = 0xFFFF ∧ 31 ≤ r.sqsize ∧ r.sqsize ≤ 4095 ∧ 1000 ≤ r.kato ∧ r.kato ≤ 600000 ∧
      freeCntlid s = some i ∧ s.fab.rxUsed + (r.sqsize + 1) ≤ 2064888) ∧
    (∃ (n : Nat) (r : ConnectReq) (s : State) (q : Qp) (h : _) (c : Ctrl) (l : LPort), s.fab.qps.find n = some q ∧ q.ready = true ∧
      q.ctrl = 0 ∧ r.recfmt = 0 ∧ r.discovery = false ∧ s.image.nvmectl.hosts.find? (fun h => decide (h.nqn = r.hostNqn ∧ q.lp ∈
      h.ports)) = some h ∧ r.subOk = true ∧ r.qid ≠ 0 ∧ s.ctrl? r.cntlid = some c ∧ c.fabric = true ∧ c.discovery = false ∧
      c.resetting = false ∧ c.hostNqn = r.hostNqn ∧ c.hostId = r.hostId ∧ c.port = .eth l ∧ q.lp = l.val ∧ (s.fab.qps.find (adminQp
      s r.cntlid)).map Qp.addr = some q.addr ∧ 1 ≤ r.sqsize ∧ r.sqsize ≤ 1023 ∧ c.sqs.find r.qid = none ∧ c.authOk = true ∧ r.qid ≤
      c.qpairs ∧ queuePairs c < c.qpairs ∧ s.fab.rxUsed + (r.sqsize + 1) ≤ 2064888) ∧
    (∃ (i : CtrlId) (s : State) (c : Ctrl), s.ctrl? i = some c ∧ c.fabric = true ∧ c.resetting = false) ∧
    (∃ (i : CtrlId) (s : State) (c : Ctrl) (v : _), s.ctrl? i = some c ∧ c.fabric = true ∧ c.resetting = false ∧ c.authOk = true ∧
      c.enabled = false ∧ bitOf c.cc 0 = false ∧ bitOf v 0 = true) ∧
    (∃ (i : CtrlId) (s : State) (c : Ctrl), s.ctrl? i = some c ∧ c.fabric = true ∧ c.resetting = false ∧ c.authOk = false) ∧
    (∃ (i : CtrlId) (s : State) (c : Ctrl) (d : _), s.ctrl? i = some c ∧ c.fabric = true ∧ c.resetting = false ∧ d ≠ 0 ∧ c.authOk =
      true ∧ (c.sqs.find d).isSome = true ∧ c.sqs.length ≠ 1) ∧
    (∃ (i : CtrlId) (s : State) (c : Ctrl), s.ctrl? i = some c ∧ c.fabric = true ∧ c.resetting = false ∧ c.authOk = true ∧
      (c.sqs.find 0).isSome = true) ∧
    (∃ (i : CtrlId) (s : State) (c : Ctrl), s.ctrl? i = some c ∧ c.fabric = true ∧ c.resetting = false ∧ Tab.get 0 s.fab.auth i =
      1) ∧
    (∃ (i : CtrlId) (s : State) (c : Ctrl), s.ctrl? i = some c ∧ c.fabric = true ∧ c.resetting = false ∧ c.kato ≠ 0 ∧ s.nvq.act ≠
      2) :=
  ⟨⟨5, { State.reset with fab := { qps := [(5, { lp := 0, addr := 0, ready := true })] } }, { lp := 0, addr := 0, ready := true },
      by decide +kernel⟩,
    ⟨5, { State.reset with fab := { qps := [(5, { lp := 0, addr := 0, retries := 6 })] } }, { lp := 0, addr := 0, retries := 6 },
      by decide +kernel⟩,
    ⟨5, { State.reset with fab := { qps := [(5, { lp := 0, addr := 0, retries := 7 })] } }, { lp := 0, addr := 0, retries := 7 },
      by decide +kernel⟩,
    ⟨5, { idle fab with fab := { qps := [(5, { lp := 0, addr := 0, retries := 7, ctrl := 1 })] } },
      { lp := 0, addr := 0, retries := 7, ctrl := 1 }, fab, by decide +kernel⟩,
    ⟨0, host { cmd 1 2 with sent := true }, { cmd 1 2 with sent := true }, by decide +kernel⟩,
    ⟨31, { addr := 6, remoteQp := 0, queueSize := 32 },
      { State.reset with fab := { addrs := [(127, { lp := 31, flags := 5, addr := 6 })] } }.wr F.FAB_PORT_STAT_UP 1 31,
      by decide +kernel⟩,
    ⟨31, { addr := 6, remoteQp := 0, queueSize := 32, privOk := false }, State.reset.wr F.FAB_PORT_STAT_UP 1 31, by decide +kernel⟩,
    ⟨5, { cntlid := 0xFFFF, qid := 0, sqsize := 31, kato := 1000, hostNqn := 9, hostId := 0, subOk := true },
      { State.reset with fab := { qps := [(5, { lp := 0, addr := 0, ready := true })] } }, { lp := 0, addr := 0, ready := true },
      by decide +kernel⟩,
    ⟨5, { cntlid := 0xFFFF, qid := 0, sqsize := 31, kato := 1000, hostNqn := 9, hostId := 0, subOk := true },
      { State.reset with fab := { qps := [(5, { lp := 0, addr := 0, ready := true })], rxUsed := 2064856 }, cfg := { run := some { imageLen := 0, serial := 0, nvmectl := { hosts := [{ nqn := 9, ports := [0] }] } } } },
      { lp := 0, addr := 0, ready := true }, { nqn := 9, ports := [0] }, 1, by decide +kernel⟩,
    ⟨5, { cntlid := 1, qid := 1024, sqsize := 1023, kato := 1000, hostNqn := 9, hostId := 0, subOk := true },
      { idle { fab with hostNqn := 9, sqs := [(0, { size := 32 })] } with fab := { qps := [(4, { lp := 0, addr := 0, ready := true, ctrl := 1 }), (5, { lp := 0, addr := 0, ready := true })] }, cfg := { run := some { imageLen := 0, serial := 0, nvmectl := { hosts := [{ nqn := 9, ports := [0] }] } } } },
      { lp := 0, addr := 0, ready := true }, { nqn := 9, ports := [0] }, { fab with hostNqn := 9, sqs := [(0, { size := 32 })] }, 0,
      by decide +kernel⟩,
    ⟨1, idle fab, fab, by decide +kernel⟩,
    ⟨1, idle { fab with enabled := false }, { fab with enabled := false }, 1, by decide +kernel⟩,
    ⟨1, idle { fab with authOk := false }, { fab with authOk := false }, by decide +kernel⟩,
    ⟨1, idle fab, fab, 1, by decide +kernel⟩,
    ⟨1, idle fab, fab, by decide +kernel⟩,
    ⟨1, { idle fab with fab := { auth := [(1, 1)] } }, fab, by decide +kernel⟩,
    ⟨1, idle { fab with kato := 1000 }, { fab with kato := 1000 }, by decide +kernel⟩⟩

theorem test_met_CausewaySessions :
    (∃ (lp : LPort) (m : HelloMsg) (s : State) (p : Nat), cwyPort s lp.val = true ∧ peerBySerial s m.serial = some p ∧ m.macOk =
      true ∧ commonVersion m.versions (myVersions s) = 0) ∧
    (∃ (lp : LPort) (m : HelloMsg) (s : State) (p : Nat), cwyPort s lp.val = true ∧ peerBySerial s m.serial = some p ∧ m.macOk =
      false) ∧
    (∃ (lp : LPort) (m : HelloMsg) (s : State) (p : Nat), cwyPort s lp.val = true ∧ peerBySerial s m.serial = some p ∧ m.macOk =
      true ∧ (peerOf s p).asked = true ∧ m.session % 2 ^ 32 = (peerOf s p).session ∧ commonVersion m.versions (myVersions s) ≠ 0) ∧
    (∃ (lp : LPort) (m : HelloMsg) (s : State), cwyPort s lp.val = true ∧ peerBySerial s m.serial = none) ∧
    (∃ (lp : LPort) (s : State), cwyPort s lp.val = true) ∧
    (∃ (h : CwyHead) (s : State), InOrder s h ∧ h.stream.val = 0) ∧
    (∃ (p : Nat) (x : Peer) (s : State), s.cwy.peers.find p = some x ∧ x.state = 2) ∧
    (∃ (p : Fin 64) (s : State), (peerOf s p.val).state = 2) ∧
    (∃ (p : Fin 64) (s : State), (peerOf s p.val).state = 1 ∧ initiates s p.val = true) ∧
    (∃ (p : Fin 64) (st : Fin 10) (s : State), (peerOf s p.val).state = 2 ∧ unacked (peerOf s p.val) st.val ≠ 0) ∧
    (∃ (h : CwyHead) (s : State), (peerOf s h.peer.val).state = 2 ∧ h.macOk = true ∧ s.cwy.migs = [] ∧ s.cwy.chain = false ∧
      (peerOf s h.peer.val).wait = [] ∧ (peerOf s h.peer.val).carry = []) :=
  ⟨⟨31, { serial := 5, session := 0, macOk := true, nonce := 0, versions := 4 }, peered { serial := 5, roles := 15 }, 63,
      by decide +kernel⟩,
    ⟨31, { serial := 5, session := 0, macOk := false, nonce := 0, versions := 1 }, peered { serial := 5, roles := 15 }, 63,
      by decide +kernel⟩,
    ⟨31, { serial := 5, session := 3, macOk := true, nonce := 0, versions := 1 }, peered
      { serial := 5, roles := 15, asked := true, session := 3 }, 63, by decide +kernel⟩,
    ⟨31, { serial := 6, session := 0, macOk := true, nonce := 0, versions := 1 }, peered { serial := 5, roles := 15 },
      by decide +kernel⟩,
    ⟨31, peered { serial := 5, roles := 15 }, by decide +kernel⟩,
    ⟨{ peer := 63, stream := 0, seq := 1, ack := 0, macOk := true }, peered { serial := 5, roles := 15, state := 2 },
      by unfold InOrder; decide +kernel⟩,
    ⟨63, { serial := 5, roles := 15, state := 2 }, peered { serial := 5, roles := 15, state := 2 }, by decide +kernel⟩,
    ⟨63, peered { serial := 5, roles := 15, state := 2 }, by decide +kernel⟩,
    ⟨63, peered { serial := 5, roles := 15, state := 1 }, by decide +kernel⟩,
    ⟨63, 9, peered { serial := 5, roles := 15, state := 2, tx := [{ stream := 9, type := 1, args := [] }] }, by decide +kernel⟩,
    ⟨{ peer := 63, stream := 9, seq := 1, ack := 0, macOk := true }, peered { serial := 5, roles := 15, state := 2 },
      by decide +kernel⟩⟩

theorem test_met_CausewayChains :
    (∃ (h : CwyHead) (x : Piece) (s : State) (d : Bool), InOrder s h ∧ h.stream.val = 9 ∧ bitOf (peerOf s h.peer.val).roles 3 =
      true ∧ s.cwy.chain = false ∧ s.upd.isOpen = false ∧ s.upd.commit = none ∧ x.off = 0 ∧ deltaSame x.data x.len (Tab.get 0
      s.upd.fwBytes s.upd.running) = d ∧ d = true) ∧
    (∃ (h : CwyHead) (x : Piece) (s : State) (d : Bool) (e : _), InOrder s h ∧ h.stream.val = 9 ∧ bitOf (peerOf s h.peer.val).roles
      3 = true ∧ s.cwy.chain = false ∧ s.upd.isOpen = false ∧ s.upd.commit = none ∧ x.off = 0 ∧ deltaSame x.data x.len (Tab.get 0
      s.upd.fwBytes s.upd.running) = d ∧ d = false ∧ byteField x.data 0 4 = magicDelta ∧ x.len ≤ 33554432 ∧ e = deltaCheck
      (deltaBase s) (x.data % 2 ^ (8 * x.len)) x.len) ∧
    (∃ (h : CwyHead) (x : Piece) (s : State) (d : Bool), InOrder s h ∧ h.stream.val = 9 ∧ bitOf (peerOf s h.peer.val).roles 3 =
      true ∧ s.cwy.chain = false ∧ s.upd.isOpen = false ∧ s.upd.commit = none ∧ x.off = 0 ∧ deltaSame x.data x.len (Tab.get 0
      s.upd.fwBytes s.upd.running) = d ∧ d = false ∧ byteField x.data 0 4 ≠ magicDelta) ∧
    (∃ (h : CwyHead) (x : Piece) (s : State), InOrder s h ∧ h.stream.val = 9 ∧ bitOf (peerOf s h.peer.val).roles 3 = true ∧
      s.upd.isOpen = true ∧ s.upd.owner ≠ ownerChain ∧ x.off = 0) ∧
    (∃ (h : CwyHead) (s : State), InOrder s h ∧ h.stream.val = 9 ∧ chainNext s = some h.peer.val ∧ s.cwy.chainHead = true) ∧
    (∃ (q : Nat) (s : State), chainNext s = some q ∧ s.cwy.chain = true ∧ (peerOf s q).state ≠ 2) :=
  ⟨⟨{ peer := 63, stream := 9, seq := 1, ack := 0, macOk := true }, { off := 0, len := 4096 }, peered
      { serial := 5, roles := 15, state := 2 }, true, by unfold InOrder; decide +kernel⟩,
    ⟨{ peer := 63, stream := 9, seq := 1, ack := 0, macOk := true }, { off := 0, len := 96, data := magicDelta }, peered
      { serial := 5, roles := 15, state := 2 }, false, deltaCheck (deltaBase (peered { serial := 5, roles := 15, state := 2 }))
      (magicDelta % 2 ^ 768) 96, by unfold InOrder; decide +kernel⟩,
    ⟨{ peer := 63, stream := 9, seq := 1, ack := 0, macOk := true }, { off := 0, len := 96 }, peered
      { serial := 5, roles := 15, state := 2 }, false, by unfold InOrder; decide +kernel⟩,
    ⟨{ peer := 63, stream := 9, seq := 1, ack := 0, macOk := true }, { off := 0, len := 96 },
      { peered { serial := 5, roles := 15, state := 2 } with upd := { isOpen := true } }, by unfold InOrder; decide +kernel⟩,
    ⟨{ peer := 63, stream := 9, seq := 1, ack := 0, macOk := true },
      { peered { serial := 5, roles := 15, state := 2 } with cwy := { (peered { serial := 5, roles := 15, state := 2 }).cwy with chainHead := true } },
      by unfold InOrder; decide +kernel⟩,
    ⟨63, { peered { serial := 5, roles := 15 } with cwy := { (peered { serial := 5, roles := 15 }).cwy with chain := true } },
      by decide +kernel⟩⟩

theorem test_met_CausewayMigrates :
    (∃ (h : CwyHead) (m : MigOpen) (s : State) (k : Nat) (slot : Nat) (y : Migration) (e : List (Nat × Nat)), InOrder s h ∧
      h.stream.val = 0 ∧ (migsRunning s false).find? (fun e => decide (e.2.peer = h.peer.val ∧ e.2.srcNsid = m.srcNsid)) = some (k,
      y) ∧ y.opened = false ∧ m.escrowId ≠ 0 ∧ m.escrowId = s.cip.escrowId ∧ importBarred s = false ∧ bitOf (peerOf s
      h.peer.val).roles 2 = true ∧ s.ns? y.nsid = none ∧ freeKeySlot s = some slot ∧ newExtents s m.size = some e) ∧
    (∃ (h : CwyHead) (m : MigOpen) (s : State), InOrder s h ∧ h.stream.val = 0 ∧ (∀ e ∈ migsRunning s false, e.2.peer = h.peer.val
      → e.2.srcNsid ≠ m.srcNsid)) ∧
    (∃ (h : CwyHead) (m : Fin 8) (r : UnitRecord) (s : State) (y : Migration), InOrder s h ∧ 1 ≤ h.stream.val ∧ h.stream.val ≤ 8 ∧
      importBy s m.val h.peer.val = some y ∧ importBarred s = false ∧ r.lost = false ∧ r.zero = false ∧ r.tagOk = false ∧ Tab.get 0
      y.naks r.nsUnit < 2) ∧
    (∃ (h : CwyHead) (m : Fin 8) (r : UnitRecord) (s : State) (y : Migration) (l : _) (u : _) (n : _) (st : _), InOrder s h ∧ 1 ≤
      h.stream.val ∧ h.stream.val ≤ 8 ∧ importBy s m.val h.peer.val = some y ∧ importBarred s = false ∧ r.lost = false ∧ r.zero =
      false ∧ r.tagOk = true ∧ unitAt s y.nsid r.nsUnit = some (l, u) ∧ s.ns? y.nsid = some n ∧ n.zoned = false ∧ dirtyStacks s =
      some st ∧ overLimit s 1 = false ∧ overClass s (homeClass s y.nsid) 1 = false) ∧
    (∃ (h : CwyHead) (m : Fin 8) (g : Nat) (s : State) (y : Migration), InOrder s h ∧ 1 ≤ h.stream.val ∧ h.stream.val ≤ 8 ∧
      exportBy s m.val h.peer.val = some y ∧ Tab.get 0 y.naks g < 2) ∧
    (∃ (h : CwyHead) (m : Fin 8) (g : Nat) (s : State) (y : Migration), InOrder s h ∧ 1 ≤ h.stream.val ∧ h.stream.val ≤ 8 ∧
      exportBy s m.val h.peer.val = some y ∧ 2 ≤ Tab.get 0 y.naks g) ∧
    (∃ (h : CwyHead) (m : Fin 8) (s : State) (y : Migration), InOrder s h ∧ 1 ≤ h.stream.val ∧ h.stream.val ≤ 8 ∧ importBy s m.val
      h.peer.val = some y) ∧
    (∃ (h : CwyHead) (m : Fin 8) (s : State) (y : Migration) (n : Namespace), InOrder s h ∧ h.stream.val = 0 ∧ importBy s m.val
      h.peer.val = some y ∧ s.ns? y.nsid = some n) ∧
    (∃ (h : CwyHead) (m : Fin 8) (s : State) (y : Migration), InOrder s h ∧ h.stream.val = 0 ∧ migOf s m.val = some y ∧ y.peer =
      h.peer.val ∧ y.ended = 0) ∧
    (∃ (m : Fin 8) (s : State) (y : Migration), migOf s m.val = some y ∧ y.export_ = true ∧ y.ended = 0 ∧ y.opened = true ∧
      y.closing = false ∧ y.todo = [] ∧ (∀ c ∈ (peerOf s y.peer).carry, c.mig ≠ m.val)) :=
  ⟨⟨{ peer := 63, stream := 0, seq := 1, ack := 0, macOk := true },
      { srcNsid := 3, size := 1, nguid := 0, wseqFloor := 0, leafShift := 12, lbaShift := 12, csi := 0, nsTag := 0, escrowId := 2, wrap := 0 },
      { peered { serial := 5, roles := 15, state := 2 } with cwy := { (peered { serial := 5, roles := 15, state := 2 }).cwy with migs := [(7, { export_ := false, peer := 63, nsid := 1, srcNsid := 3 })] }, cip := { escrowId := 2 } },
      7, 0, { export_ := false, peer := 63, nsid := 1, srcNsid := 3 }, [(0, 1)], by unfold InOrder; decide +kernel⟩,
    ⟨{ peer := 63, stream := 0, seq := 1, ack := 0, macOk := true },
      { srcNsid := 3, size := 1, nguid := 0, wseqFloor := 0, leafShift := 12, lbaShift := 12, csi := 0, nsTag := 0, escrowId := 2, wrap := 0 },
      peered { serial := 5, roles := 15, state := 2 }, by unfold InOrder; decide +kernel⟩,
    ⟨{ peer := 63, stream := 8, seq := 1, ack := 0, macOk := true }, 7,
      { nsUnit := 0, payload := 0, tagOk := false, wseq := 0, lost := false, zero := false },
      { peered { serial := 5, roles := 15, state := 2 } with cwy := { (peered { serial := 5, roles := 15, state := 2 }).cwy with migs := [(7, { export_ := false, peer := 63, nsid := 1, srcNsid := 3, opened := true })] } },
      { export_ := false, peer := 63, nsid := 1, srcNsid := 3, opened := true }, by unfold InOrder; decide +kernel⟩,
    ⟨{ peer := 63, stream := 8, seq := 1, ack := 0, macOk := true }, 7,
      { nsUnit := 0, payload := 0, tagOk := true, wseq := 0, lost := false, zero := false }, twoStacks
      { peered { serial := 5, roles := 15, state := 2 } with cwy := { (peered { serial := 5, roles := 15, state := 2 }).cwy with migs := [(7, { export_ := false, peer := 63, nsid := 1, srcNsid := 3, opened := true })] }, nvq := { ns := [(1, {})] }, map := { core := { extents := [(1, [(0, 2)])] } } },
      { export_ := false, peer := 63, nsid := 1, srcNsid := 3, opened := true }, 0, 0, {}, (0, 1),
      by unfold InOrder; decide +kernel⟩,
    ⟨{ peer := 63, stream := 1, seq := 1, ack := 0, macOk := true }, 7, 0,
      { peered { serial := 5, roles := 15, state := 2 } with cwy := { (peered { serial := 5, roles := 15, state := 2 }).cwy with migs := [(7, { export_ := true, peer := 63, nsid := 1 })] } },
      { export_ := true, peer := 63, nsid := 1 }, by unfold InOrder; decide +kernel⟩,
    ⟨{ peer := 63, stream := 1, seq := 1, ack := 0, macOk := true }, 7, 0,
      { peered { serial := 5, roles := 15, state := 2 } with cwy := { (peered { serial := 5, roles := 15, state := 2 }).cwy with migs := [(7, { export_ := true, peer := 63, nsid := 1, naks := [(0, 2)] })] } },
      { export_ := true, peer := 63, nsid := 1, naks := [(0, 2)] }, by unfold InOrder; decide +kernel⟩,
    ⟨{ peer := 63, stream := 8, seq := 1, ack := 0, macOk := true }, 7,
      { peered { serial := 5, roles := 15, state := 2 } with cwy := { (peered { serial := 5, roles := 15, state := 2 }).cwy with migs := [(7, { export_ := false, peer := 63, nsid := 1, srcNsid := 3, opened := true })] } },
      { export_ := false, peer := 63, nsid := 1, srcNsid := 3, opened := true }, by unfold InOrder; decide +kernel⟩,
    ⟨{ peer := 63, stream := 0, seq := 1, ack := 0, macOk := true }, 7,
      { peered { serial := 5, roles := 15, state := 2 } with cwy := { (peered { serial := 5, roles := 15, state := 2 }).cwy with migs := [(7, { export_ := false, peer := 63, nsid := 1, srcNsid := 3, opened := true })] }, nvq := { ns := [(1, {})] }, map := { core := { extents := [(1, [(0, 2)])] } } },
      { export_ := false, peer := 63, nsid := 1, srcNsid := 3, opened := true }, {}, by unfold InOrder; decide +kernel⟩,
    ⟨{ peer := 63, stream := 0, seq := 1, ack := 0, macOk := true }, 7,
      { peered { serial := 5, roles := 15, state := 2 } with cwy := { (peered { serial := 5, roles := 15, state := 2 }).cwy with migs := [(7, { export_ := false, peer := 63, nsid := 1, srcNsid := 3, opened := true })] } },
      { export_ := false, peer := 63, nsid := 1, srcNsid := 3, opened := true }, by unfold InOrder; decide +kernel⟩,
    ⟨7,
      { peered { serial := 5, roles := 15, state := 2 } with cwy := { (peered { serial := 5, roles := 15, state := 2 }).cwy with migs := [(7, { export_ := true, peer := 63, nsid := 1, opened := true })] } },
      { export_ := true, peer := 63, nsid := 1, opened := true }, by decide +kernel⟩⟩

theorem test_met_ThermalActs :
    (∃ (s : State) (x : Int), junction s = some x ∧ 112 ≤ x) ∧
    (∃ (s : State), s.boot.testEn = false) :=
  ⟨⟨{ State.reset with tmon := { temps := [some 112] } }, 112, by decide +kernel⟩,
    ⟨State.reset, by decide +kernel⟩⟩

theorem test_met_ReapplyAndExpert :
    (∃ (s : State) (lot : Nat), s.rd F.CFG_LOT_CTL_LOT_TYPE = lot ∧ s.cfg.reapply = none ∧ startRefusal s lot ≠ 0) ∧
    (∃ (s : State) (lot : Nat) (i : _), s.rd F.CFG_LOT_CTL_LOT_TYPE = lot ∧ s.cfg.reapply = none ∧ startRefusal s lot = 0 ∧
      s.cfg.slots.find (twimaStaging s) = some i ∧ liveCheck s i lot = 0) ∧
    (∃ (s : State), s.cfg.reapply ≠ none) ∧
    (∃ (s : State) (r : Reapply), s.cfg.reapply = some r ∧ mayCommit s r = true) ∧
    (∃ (s : State) (r : Reapply), s.cfg.reapply = some r ∧ mayCommit s r = false) ∧
    (∃ (s : State) (r : Reapply), s.cfg.reapply = some r ∧ r.waitHt = true) ∧
    (∃ (p : AccessPath) (s : State) (k : Nat) (e : ExpertPath), pathKey p = some k ∧ expertOf s k = e ∧ (e.lockout = true ∨ p =
      .custodian ∧ s.cus.isOpen = false)) ∧
    (∃ (p : AccessPath) (s : State) (k : Nat) (e : ExpertPath), pathKey p = some k ∧ expertOf s k = e ∧ e.lockout = false ∧ (p ≠
      .custodian ∨ s.cus.isOpen = true) ∧ e.words.length < 7) ∧
    (∃ (p : AccessPath) (w : Word) (s : State) (k : Nat) (e : ExpertPath), pathKey p = some k ∧ expertOf s k = e ∧ e.lockout =
      false ∧ (p ≠ .custodian ∨ s.cus.isOpen = true) ∧ e.words.length = 7 ∧ wordsNumber (e.words ++ [w.toNat]) = expertAnswer s p
      e.nonce) ∧
    (∃ (p : AccessPath) (w : Word) (s : State) (k : Nat) (e : ExpertPath), pathKey p = some k ∧ expertOf s k = e ∧ e.lockout =
      false ∧ (p ≠ .custodian ∨ s.cus.isOpen = true) ∧ e.words.length = 7 ∧ wordsNumber (e.words ++ [w.toNat]) ≠ expertAnswer s p
      e.nonce) ∧
    (∃ (p : AccessPath) (w : Word) (i : _), pathKey p = none ∧ i ∈ [Instr.expertKeyWrite p w, .expertNonceTimer p,
      .expertIdleTimeout p, .expertLockoutEnd p, .expertClose p]) :=
  ⟨⟨State.reset, 0, by decide +kernel⟩,
    ⟨{ State.reset with cfg := staged 2 (some goodImage) }.wr F.CFG_LOT_CTL_LOT_TYPE 7, 7, goodImage, by decide +kernel⟩,
    ⟨{ State.reset with cfg := { reapply := some { lot := 7, image := goodImage } } }, by decide +kernel⟩,
    ⟨{ State.reset with cfg := { reapply := some { lot := 7, image := goodImage } } }, { lot := 7, image := goodImage },
      by decide +kernel⟩,
    ⟨{ State.reset with cfg := { reapply := some { lot := 13, image := goodImage, waitHt := true } } },
      { lot := 13, image := goodImage, waitHt := true }, by decide +kernel⟩,
    ⟨{ State.reset with cfg := { reapply := some { lot := 13, image := goodImage, waitHt := true } } },
      { lot := 13, image := goodImage, waitHt := true }, by decide +kernel⟩,
    ⟨.custodian, keyed { lockout := true }, 32, { lockout := true }, by decide +kernel⟩,
    ⟨.expertWindow 7 3, State.reset, 31, {}, by decide +kernel⟩,
    ⟨.custodian, .ofNat 32 (expertAnswer (keyed {}) .custodian 0 / 2 ^ 224), keyed
      { words := digits (expertAnswer (keyed {}) .custodian 0) }, 32, { words := digits (expertAnswer (keyed {}) .custodian 0) },
      ⟨rfl, rfl, rfl, Or.inr rfl, rfl, digits_spell (Nat.mod_lt _ (by decide))⟩⟩,
    ⟨.custodian, if expertAnswer (keyed {}) .custodian 0 = 0 then 1 else 0, keyed { words := zeros }, 32, { words := zeros }, ⟨rfl,
      rfl, rfl, Or.inr rfl, rfl, zeros_miss _⟩⟩,
    ⟨.reginit, 0, .expertClose .reginit, by decide +kernel⟩⟩

end Sys2Proof.Tests
end

section
/-! Register accesses (R9 to R19, R57): what an access of a reserved offset does to the Expert level of its path. -/

namespace Sys2Proof.Machine

open Sys2Proof

/-- The registers that a session or the boot block stands behind are no reserved offsets outside the CUS block, and no other
block acts where no register stands (R12). -/
theorem deviceWrite_reserved {off : Nat} (hl : locate off = none) (hc : inCus off = false) (p : AccessPath) (v : Nat)
    (s : State) : deviceWrite p off v s = s := by
  have hboot : off ≠ 0x200010 := by rintro rfl; revert hl; decide +kernel
  have hcus : ∀ x, inCus x = true → off ≠ x := by rintro x hx rfl; simp [hc] at hx
  have hblock : blockWrite p off v 0xFFFFFFFF s = s := by simp [blockWrite, hl]
  simp [deviceWrite, hboot, hcus 0xB000110 rfl, hcus 0xB000114 rfl, hcus 0xB000200 rfl, hblock]

/-- A whole-word write of a reserved offset changes no register, but it is an access on its path, whose idle time starts
again (R12, R57). -/
theorem exec_registerWrite_reserved {p : AccessPath} {off : Nat} {s : State} (hp : p ≠ .custodian)
    (ht : s.boot.testEn = false) (ha : off % 4 = 0) (hl : locate off = none) (hc : inCus off = false) (v : Word) :
    exec (.registerWrite p off 4 v) s = .next (expertUse p s.begin) := by
  have hctl : off ≠ 0xB000128 := by rintro rfl; cases hc
  have htaken : ¬(off % 4 ≠ 0 ∨ 4 ≠ 4 ∨ cusRefused s.begin p off = true) := by simp [cusRefused, hp, ha, hc]
  have hw : accessWrite p off 4 v.toNat s.begin = expertUse p s.begin := by
    rw [accessWrite, if_neg (by simp [ht]), if_neg htaken, if_neg hctl, deviceWrite_reserved hl hc]
  exact congrArg _ hw

/-- On a path whose Expert level is open, an access stamps the path with the life time (R57). -/
theorem expertOf_expertUse_lastUse {p : AccessPath} {k : Nat} {s : State} (hk : pathKey p = some k)
    (ho : (expertOf s k).isOpen = true) : (expertOf (expertUse p s) k).lastUse = s.life.now := by
  rw [expertUse, hk]
  dsimp only
  split
  · exact congrArg ExpertPath.lastUse Tab.get_set_same
  · next h => simpa [ho] using h

/-- Refutes O13, in the clause that a write of a reserved offset leaves the state as the command begins with it: an expert
window whose Expert level is open, last used at life time 1, is written at life time 7. The access restarts the idle time of
R57 on that path, so the life time of its last use does not stay 1. -/
theorem not_registerAccesses : ¬ Obligations.RegisterAccesses := by
  rintro ⟨haccess, -⟩
  let s : State := { State.reset with cfg := { experts := [(0, { isOpen := true, lastUse := 1 })] }, life := { now := 7 } }
  obtain ⟨-, -, -, -, -, hreserved, -⟩ := haccess (.expertWindow 0 0) 0 s (by simp) rfl
  have hl : locate 0x3FFFFFFC = none := by decide +kernel
  obtain ⟨⟨t, hexec, ht⟩, -⟩ := hreserved 0x3FFFFFFC rfl hl rfl
  rw [exec_registerWrite_reserved (by simp) rfl rfl hl rfl] at hexec
  have hsame : expertUse (.expertWindow 0 0) s.begin = s.begin := (Host.Outcome.next.inj hexec).trans ht
  have hnow : (expertOf s.begin 0).lastUse = 7 := hsame ▸ expertOf_expertUse_lastUse (p := .expertWindow 0 0) rfl rfl
  exact absurd hnow (by decide)

end Sys2Proof.Machine
end

section
/-! Namespace management, Format and Sanitize (R70, R91, R330, R355, R389, R496 to R498): what each of their operations does to the
tracts, the namespaces, the key slots and the controllers' attachments. -/

namespace Sys2Proof.Machine

open Sys2Proof

/-! ### Folds over the state -/

/-- What every step of a fold keeps holds after it. -/
theorem eachOf_invariant {α : Type} {f : α → State → State} {P : State → Prop} {l : List α} (hstep : ∀ a ∈ l, ∀ s, P s → P (f a s))
    {s : State} (hs : P s) : P (eachOf l f s) :=
  List.foldlRecOn (motive := P) l _ hs (fun s hs a ha => hstep a ha s hs)

/-- What the step of an item establishes, and the later steps keep, holds of every item after the fold. -/
theorem eachOf_establishes {α : Type} {f : α → State → State} {P : State → Prop} {Q : α → State → Prop} {l : List α}
    (hinv : ∀ a ∈ l, ∀ s, P s → P (f a s)) (hset : ∀ a ∈ l, ∀ s, P s → Q a (f a s))
    (hkeep : ∀ a ∈ l, ∀ b s, P s → Q b s → Q b (f a s)) {s : State} (hs : P s) : ∀ a ∈ l, Q a (eachOf l f s) := by
  induction l generalizing s with
  | nil => simp
  | cons a l ih =>
    have hP := hinv a (List.mem_cons_self ..) s hs
    have hQ := hset a (List.mem_cons_self ..) s hs
    have hl : ∀ b ∈ l, b ∈ a :: l := fun b hb => List.mem_cons_of_mem _ hb
    have hrest : P (eachOf l f (f a s)) ∧ Q a (eachOf l f (f a s)) :=
      eachOf_invariant (P := fun t => P t ∧ Q a t)
        (fun b hb t ht => ⟨hinv b (hl b hb) t ht.1, hkeep b (hl b hb) a t ht.1 ht.2⟩) ⟨hP, hQ⟩
    intro b hb
    rcases List.mem_cons.mp hb with rfl | hb
    · exact hrest.2
    · exact ih (fun c hc => hinv c (hl c hc)) (fun c hc => hset c (hl c hc)) (fun c hc => hkeep c (hl c hc)) hP b hb

theorem Tab.find_map_snd {α β : Type} (f : α → β) (t : Tab α) (k : Nat) :
    Tab.find (t.map (fun e => (e.1, f e.2))) k = (t.find k).map f := by
  induction t with
  | nil => rfl
  | cons e r ih =>
    rw [List.map_cons, find_cons, find_cons, ih]
    split <;> rfl

theorem Tab.mem_keys_of_find {α : Type} {t : Tab α} {k : Nat} {v : α} (h : t.find k = some v) : k ∈ t.keys := by
  induction t with
  | nil => simp at h
  | cons e r ih =>
    rw [find_cons] at h
    split at h
    · next he => exact he ▸ List.mem_cons_self ..
    · exact List.mem_cons_of_mem _ (ih h)

theorem mem_addNew_self {α : Type} [DecidableEq α] (x : α) (l : List α) : x ∈ addNew x l := by
  unfold addNew
  split
  · assumption
  · simp

/-! ### Tracts, extents and namespaces: what leaves them alone -/

/-- The parts of the state that say which tracts a namespace has, whether they are mapped, and what the namespace is. -/
structure NsView where
  tracts : Tab Tract
  extents : Tab (List (Nat × Nat))
  ns : Tab Namespace

/-- The entry of a tract. -/
def NsView.tract (v : NsView) (l : Nat) : Tract := Tab.get {} v.tracts l

/-- The view of a state. -/
def State.nsView (s : State) : NsView := ⟨s.map.core.tracts, s.map.core.extents, s.nvq.ns⟩

section
variable {s t : State}

theorem ns?_of_nsView (h : t.nsView = s.nsView) (m : Nat) : t.ns? m = s.ns? m := congrArg (fun v => v.ns.find m) h

theorem Touches.nsView {ps : List Part} (h : Touches ps s t) (hmap : Part.map ∉ ps := by decide)
    (hnvq : Part.nvq ∉ ps := by decide) : t.nsView = s.nsView := by
  simp only [State.nsView, h.map hmap, h.nvq hnvq]

end

theorem eachOf_nsView {α : Type} (l : List α) (f : α → State → State) (s : State) (h : ∀ a s, (f a s).nsView = s.nsView) :
    (eachOf l f s).nsView = s.nsView :=
  eachOf_invariant (P := fun t => t.nsView = s.nsView) (fun a _ t ht => (h a t).trans ht) rfl

@[simp] theorem finishCmd_nsView (n st d0 d1 : Nat) (s : State) : (finishCmd n st d0 d1 s).nsView = s.nsView := by
  unfold finishCmd; split <;> rfl

@[simp] theorem aenPost_nsView (c type info page : Nat) (s : State) : (aenPost c type info page s).nsView = s.nsView := by
  unfold aenPost
  split
  · rfl
  · split
    · rfl
    · dsimp only; split
      · rfl
      · exact finishCmd_nsView ..

@[simp] theorem nsNotice_nsView (nsid c : Nat) (s : State) : (nsNotice nsid c s).nsView = s.nsView := by
  unfold nsNotice; split
  · rfl
  · exact aenPost_nsView ..

@[simp] theorem journal_logClose_nsView (g : Nat) (s : State) : (journal (.logClose g) s).nsView = s.nsView := rfl

theorem releaseSlots_nsView (f : Nat) (slots : List Nat) (s : State) : (releaseSlots f slots s).nsView = s.nsView := by
  refine eachOf_nsView _ _ _ (fun a s => ?_)
  split
  · rfl
  · unfold freeBlock; dsimp only; split <;> rfl

@[simp] theorem abandonJobs_nsView (id : Nat) (s : State) : (abandonJobs id s).nsView = s.nsView :=
  eachOf_nsView _ _ _ (fun _ _ => releaseSlots_nsView ..)

@[simp] theorem forgetDue_nsView (id : Nat) (s : State) : (forgetDue id s).nsView = s.nsView := rfl

@[simp] theorem releaseAfter_nsView (j id : Nat) (s : State) : (releaseAfter j id s).nsView = s.nsView := rfl

@[simp] theorem freeSumps_nsView (s : State) : (freeSumps s).nsView = s.nsView :=
  eachOf_nsView _ _ _ (fun _ _ => rfl)

theorem wakeDurable_nsView (s : State) : (wakeDurable s).nsView = s.nsView :=
  eachOf_nsView _ _ _ (fun _ _ => finishCmd_nsView ..)

@[simp] theorem dropDirty_nsView (keys : List Nat) (s : State) : (dropDirty keys s).nsView = s.nsView :=
  (wakeDurable_nsView _).trans ((freeRegions_touch _ (coverNote keys s)).nsView)

@[simp] theorem dropClean_nsView (a b : Nat) (s : State) : (dropClean a b s).nsView = s.nsView :=
  (freeRegions_touch ..).nsView

@[simp] theorem mapNote_nsView (s : State) : (mapNote s).nsView = s.nsView := (mapNote_touch s).nsView

theorem benchNotice_nsView (a b : Nat) (s : State) : (benchNotice a b s).nsView = s.nsView := by
  have hctrls : ∀ s : State, (eachOf (ctrlIds s) (fun c s => aenPost c 1 0x02 0x02 s) s).nsView = s.nsView :=
    fun s => eachOf_nsView _ _ _ (fun _ _ => aenPost_nsView ..)
  have hvendor : ∀ s, (vendorNotice s).nsView = s.nsView := fun s => eachOf_nsView _ _ _ (fun _ _ => aenPost_nsView ..)
  unfold benchNotice
  split
  · rfl
  · dsimp only; split <;> split <;> simp only [hctrls, hvendor]

theorem fenRefreshOne_nsView (f : Nat) (s : State) : (fenRefreshOne f s).nsView = s.nsView := by
  refine (benchNotice_nsView ..).trans ?_
  split <;> rfl

@[simp] theorem fenRefresh_nsView (s : State) : (fenRefresh s).nsView = s.nsView := by
  have hbench : ∀ s, (bench5Note s).nsView = s.nsView := fun s => by
    unfold bench5Note; split
    · exact eachOf_nsView _ _ _ (fun _ _ => aenPost_nsView ..)
    · rfl
  exact (glbRefresh_touch _).nsView.trans ((hbench _).trans (eachOf_nsView _ _ _ fenRefreshOne_nsView))

@[simp] theorem finishWrite_nsView (n : Nat) (fua : Bool) (covers : List Nat) (d0 d1 : Nat) (s : State) :
    (finishWrite n fua covers d0 d1 s).nsView = s.nsView := by
  unfold finishWrite
  split
  · rfl
  · dsimp only; split
    · rfl
    · exact finishCmd_nsView ..

/-! ### Tracts set UNMAPPED (R91) -/

/-- A tract that holds no data. -/
def Unmapped (s : State) (l : Nat) : Prop := (tractOf s l).state = .unmapped

theorem unmapped_of_nsView {s t : State} (h : t.nsView = s.nsView) {l : Nat} (hl : Unmapped s l) : Unmapped t l :=
  (congrArg (fun v => (NsView.tract v l).state) h).trans hl

theorem journal_tractMap_nsView (l : Nat) (x : Tract) (s : State) :
    (journal (.tractMap l x) s).nsView = { s.nsView with tracts := Tab.set {} s.map.core.tracts l x } := by
  simp only [journal, State.nsView, applyRec]
  split <;> (repeat' split) <;> rfl

/-- Unmapping a tract puts an UNMAPPED entry in the tract table, or finds one there (R91); it changes no extent and no namespace. -/
theorem unmapTract_nsView (l : Nat) (s : State) : (unmapTract l s = s ∧ Unmapped s l) ∨
    ∃ g, (unmapTract l s).nsView = { s.nsView with tracts := Tab.set {} s.map.core.tracts l { gen := g } } := by
  by_cases h : (tractOf s l).state = .unmapped ∧ (tractOf s l).zone ≤ 1
  · exact .inl ⟨by simp [unmapTract, h], h.1⟩
  · right
    refine ⟨if (tractOf s l).stripe = 0xFFFFFFFF then (tractOf s l).gen else ((tractOf s l).gen + 1) % 256, ?_⟩
    have hold : ∀ j ids (s : State),
        (eachOf ids (fun id s => abandonJobs id (forgetDue id (releaseAfter j id s))) s).nsView = s.nsView := fun j ids s =>
      eachOf_nsView _ _ _ (fun _ _ => by simp)
    have hlogs : ∀ gs (s : State), (eachOf gs (fun g s => journal (.logClose g) s) s).nsView = s.nsView :=
      fun gs s => eachOf_nsView _ _ _ (fun _ _ => journal_logClose_nsView ..)
    simp only [unmapTract, if_neg h, mapNote_nsView, freeSumps_nsView, dropClean_nsView, dropDirty_nsView, hold, hlogs,
      journal_tractMap_nsView]
    split
    · split
      · simp only [State.nsView, (mergeEnd_touch _ _).map (by decide), (mergeEnd_touch _ _).nvq (by decide)]
      · rfl
    · rfl

theorem unmapTract_extents (l : Nat) (s : State) : (unmapTract l s).map.core.extents = s.map.core.extents := by
  obtain ⟨h, -⟩ | ⟨g, h⟩ := unmapTract_nsView l s
  · rw [h]
  · exact congrArg NsView.extents h

theorem unmapTract_ns? (l : Nat) (s : State) (m : Nat) : (unmapTract l s).ns? m = s.ns? m := by
  obtain ⟨h, -⟩ | ⟨g, h⟩ := unmapTract_nsView l s
  · rw [h]
  · exact congrArg (fun v => v.ns.find m) h

theorem unmapTract_unmapped_same (l : Nat) (s : State) : Unmapped (unmapTract l s) l := by
  obtain ⟨h, hl⟩ | ⟨g, h⟩ := unmapTract_nsView l s
  · exact h.symm ▸ hl
  · have ht : tractOf (unmapTract l s) l = { gen := g } := (congrArg (NsView.tract · l) h).trans Tab.get_set_same
    exact congrArg Tract.state ht

theorem unmapTract_unmapped_keep (l : Nat) {m : Nat} {s : State} (hm : Unmapped s m) : Unmapped (unmapTract l s) m := by
  by_cases hlm : l = m
  · exact hlm ▸ unmapTract_unmapped_same l s
  · obtain ⟨h, -⟩ | ⟨g, h⟩ := unmapTract_nsView l s
    · exact h.symm ▸ hm
    · have ht : tractOf (unmapTract l s) m = tractOf s m :=
        (congrArg (NsView.tract · m) h).trans (Tab.get_set_ne hlm)
      exact (congrArg Tract.state ht).trans hm

theorem unmapNs_unmapped_keep (nsid : Nat) {m : Nat} {s : State} (hm : Unmapped s m) : Unmapped (unmapNs nsid s) m :=
  eachOf_invariant (P := fun t => Unmapped t m) (fun _ _ _ h => unmapTract_unmapped_keep _ h) hm

theorem unmapNs_unmapped (nsid : Nat) (s : State) : ∀ l ∈ nsLtns s nsid, Unmapped (unmapNs nsid s) l :=
  eachOf_establishes (P := fun _ => True) (Q := fun l t => Unmapped t l) (fun _ _ _ _ => trivial)
    (fun l _ t _ => unmapTract_unmapped_same l t) (fun _ _ _ _ _ h => unmapTract_unmapped_keep _ h) trivial

theorem unmapNs_extents (nsid : Nat) (s : State) : (unmapNs nsid s).map.core.extents = s.map.core.extents :=
  eachOf_invariant (P := fun t => t.map.core.extents = s.map.core.extents)
    (fun l _ t h => (unmapTract_extents l t).trans h) rfl

theorem unmapNs_ns? (nsid : Nat) (s : State) (m : Nat) : (unmapNs nsid s).ns? m = s.ns? m :=
  eachOf_invariant (P := fun t => t.ns? m = s.ns? m) (fun l _ t h => (unmapTract_ns? l t m).trans h) rfl

theorem unmapNs_cip (nsid : Nat) (s : State) : (unmapNs nsid s).cip = s.cip := (unmapNs_touch nsid s).cip (by decide)

/-! ### Command slots and controllers -/

/-- The namespaces that a controller has attached, where the controller stands. -/
def State.attach? (s : State) (c : Nat) : Option (List Nat) := (s.ctrl? c).map Ctrl.attach

theorem attach?_of_ctrl? {s : State} {c : Nat} {x : Ctrl} (h : s.ctrl? c = some x) : s.attach? c = some x.attach := by
  simp [State.attach?, h]

theorem attach?_iff {s : State} {c : Nat} {p : List Nat → Prop} :
    (∃ y, s.ctrl? c = some y ∧ p y.attach) ↔ ∃ a, s.attach? c = some a ∧ p a := by
  constructor
  · rintro ⟨y, hy, hp⟩
    exact ⟨y.attach, attach?_of_ctrl? hy, hp⟩
  · rintro ⟨a, ha, hp⟩
    obtain ⟨y, hy, rfl⟩ := Option.map_eq_some_iff.mp ha
    exact ⟨y, hy, hp⟩

theorem putCtrl_attach? (s : State) (c : Nat) (v : Ctrl) (i : Nat) :
    (s.putCtrl c v).attach? i = if c = i then some v.attach else s.attach? i := by
  split
  · next h => exact h ▸ attach?_of_ctrl? (s.putCtrl_ctrl c v)
  · next h => exact congrArg (Option.map Ctrl.attach) (Tab.find_put_ne h)

/-- A controller's record put with the attachments that it has. -/
theorem putCtrl_attach?_of_eq {s : State} {c : Nat} {x v : Ctrl} (h : s.ctrl? c = some x) (hv : v.attach = x.attach) (i : Nat) :
    (s.putCtrl c v).attach? i = s.attach? i := by
  rw [putCtrl_attach?]
  split
  · next hc => rw [← hc, attach?_of_ctrl? h, hv]
  · rfl

@[simp] theorem finishCmd_attach? (n st d0 d1 : Nat) (s : State) (i : Nat) :
    (finishCmd n st d0 d1 s).attach? i = s.attach? i := by
  unfold finishCmd; split <;> rfl

@[simp] theorem aenPost_attach? (c type info page : Nat) (s : State) (i : Nat) :
    (aenPost c type info page s).attach? i = s.attach? i := by
  unfold aenPost
  split
  · rfl
  · next x hx =>
    have hput : ∀ v : Ctrl, v.attach = x.attach →
        (State.putCtrl (s.emit (.asyncEvent c type info page)) c v).attach? i = s.attach? i :=
      fun v hv => putCtrl_attach?_of_eq (s := s.emit _) hx hv i
    split
    · rfl
    · dsimp only; split
      · exact hput _ rfl
      · exact (finishCmd_attach? ..).trans (hput _ rfl)

@[simp] theorem nsNotice_attach? (nsid c : Nat) (s : State) (i : Nat) : (nsNotice nsid c s).attach? i = s.attach? i := by
  unfold nsNotice
  split
  · rfl
  · next x hx =>
    refine (aenPost_attach? ..).trans (putCtrl_attach?_of_eq hx ?_ i)
    rfl

/-- A finish leaves every command in its slot. -/
@[simp] theorem finishCmd_slot_isSome (m st d0 d1 : Nat) (s : State) (n : Nat) :
    ((finishCmd m st d0 d1 s).slot? n).isSome = (s.slot? n).isSome := by
  unfold finishCmd
  split
  · rfl
  · next k hk =>
    by_cases hmn : m = n
    · subst hmn; rw [State.putSlot_slot, hk]; rfl
    · exact congrArg Option.isSome (Tab.find_put_ne hmn)

@[simp] theorem aenPost_slot_isSome (c type info page : Nat) (s : State) (n : Nat) :
    ((aenPost c type info page s).slot? n).isSome = (s.slot? n).isSome := by
  unfold aenPost
  split
  · rfl
  · split
    · rfl
    · dsimp only; split
      · rfl
      · exact finishCmd_slot_isSome ..

@[simp] theorem nsNotice_slot_isSome (nsid c : Nat) (s : State) (n : Nat) :
    ((nsNotice nsid c s).slot? n).isSome = (s.slot? n).isSome := by
  unfold nsNotice
  split
  · rfl
  · exact aenPost_slot_isSome ..

theorem finishCmd_ended {n : Nat} {s : State} (h : (s.slot? n).isSome) (st d0 d1 : Nat) :
    Ended (finishCmd n st d0 d1 s) n st (d0 % 2 ^ 32) := by
  obtain ⟨k, hk⟩ := Option.isSome_iff_exists.mp h
  exact ⟨_, State.finishCmd_slot s hk st d0 d1, rfl, rfl, rfl⟩

theorem finishChanged_of_slot {n : Nat} {s : State} {k : Cmd} (h : s.slot? n = some k) (st d0 d1 : Nat) :
    finishChanged n st d0 d1 s = finishCmd n st d0 d1 (s.putSlot n { k with changed := true }) := by simp [finishChanged, h]

theorem Admitted.slot_isSome {s : State} {n : Nat} {k : Cmd} {c : Ctrl} (h : Admitted s n k c) : (s.slot? n).isSome := by
  rw [h.1]; rfl

/-- An admitted command of the right opcode runs (R361). -/
theorem Admitted.withCmd {s : State} {n : Nat} {k : Cmd} {c : Ctrl} (h : Admitted s n k c) {ok : Cmd → Bool} (hok : ok k = true)
    (f : Cmd → Ctrl → State → State) : withCmd n ok f s.begin = f k c s.begin := by
  obtain ⟨hslot, hstate, hwaits, hctrl⟩ := h
  have hslot' : s.begin.slot? n = some k := hslot
  have hctrl' : s.begin.ctrl? k.ctrl = some c := hctrl
  simp [Machine.withCmd, hslot', hctrl', hstate, hwaits, hok]

/-! ### Key slots (R496, R498) -/

/-- The key slot drains for the command in a slot. -/
def KeyDrains (s : State) (slot n : Nat) : Prop :=
  (Tab.get {} s.cip.slots slot).state = 2 ∧ (Tab.get {} s.cip.slots slot).cmd = some n

@[simp] theorem putKeySlot_slots (j : Nat) (v : KeySlot) (s : State) (i : Nat) :
    Tab.get {} (putKeySlot j v s).cip.slots i = if j = i then v else Tab.get {} s.cip.slots i := Tab.get_set

theorem drainSlot_keyDrains (j : Nat) (next : Option Nat) (n : Nat) (s : State) : KeyDrains (drainSlot j next (some n) s) j n := by
  simp [KeyDrains, drainSlot]

theorem drainSlot_nextKey (j : Nat) (next cmd : Option Nat) (s : State) :
    (Tab.get {} (drainSlot j next cmd s).cip.slots j).nextKey = next := by simp [drainSlot]

theorem drainSlot_keyDrains_keep (j : Nat) (next : Option Nat) {n i : Nat} {s : State} (h : KeyDrains s i n) :
    KeyDrains (drainSlot j next (some n) s) i n := by
  by_cases hj : j = i
  · exact hj ▸ drainSlot_keyDrains ..
  · simpa [KeyDrains, drainSlot, hj] using h

/-! ### Creating a namespace (R70, R334, R496) -/

theorem labelWrite_of_ns? {nsid : Nat} {s : State} {x : Namespace} (h : s.ns? nsid = some x) :
    labelWrite nsid s = (labelRecord [] nsid x 1 s).putNs nsid { x with labelSeq := x.labelSeq + 1 } := by simp [labelWrite, h]

/-- A namespace that is built stands under its identifier, active in its key slot; no command is touched. -/
theorem buildNs_spec (nsid : Nat) (ext : List (Nat × Nat)) (x : Namespace) (key slot escrow : Nat) (s : State) :
    (buildNs nsid ext x key slot escrow s).ns? nsid = some { x with
      slot := slot, created := s.life.now, keyTime := s.life.now, wseq := 1, wseqFloor := 2 ^ 32, labelSeq := x.labelSeq + 1 } ∧
    Tab.get {} (buildNs nsid ext x key slot escrow s).cip.slots slot = { state := 1, nsid := nsid, key := key, escrow := escrow } ∧
    (buildNs nsid ext x key slot escrow s).nvq.slots = s.nvq.slots := by
  have hext : Touches [.map] s ((List.range ext.length).foldl (fun s i =>
      journal (.nsExtent nsid i (ext.getD i (0, 0)).1 (ext.getD i (0, 0)).2) s) s) :=
    foldl_touch _ _ _ (fun _ _ => journal_touch ..)
  simp only [buildNs]
  generalize (List.range ext.length).foldl _ s = u at hext
  rw [labelWrite_of_ns? (State.putNs_ns ..)]
  refine ⟨?_, ?_, ?_⟩
  · rw [State.putNs_ns]
    simp only [putKeySlot, hext.life (by decide)]
  · rw [State.putNs_cip, (labelRecord_touch ..).cip (by decide), State.putNs_cip, putKeySlot_slots, if_pos rfl]
  · refine (congrArg NvqState.slots ((labelRecord_touch ..).nvq (by decide))).trans ?_
    have hslots : u.nvq.slots = s.nvq.slots := congrArg NvqState.slots (hext.nvq (by decide))
    exact hslots

/-- A successful create builds a namespace with the chosen block size, from a state that differs only in values drawn. -/
theorem createNs_builds {d : NsCreate} {s : State} {id : Nat} (h : (createNs d s).1 = (scOk, id)) :
    ∃ ext x key slot escrow u, (createNs d s).2 = buildNs id ext x key slot escrow u ∧ u.nvq = s.nvq ∧ u.life = s.life ∧
      x.lbaShift = if d.lbaf = 0 then 9 else 12 := by
  revert h
  unfold createNs
  cases s.image.nstpl.templates[d.template]? with
  | none => simp [scOk, scInvalidField]
  | some t =>
    dsimp only
    generalize (if d.lbaf = 0 then 9 else 12) = lba
    generalize (if d.anagrp = 0 then t.anagrp else d.anagrp) = grp
    split
    · simp [scOk]
    split
    · simp [scOk, scInvalidField]
    split
    · simp [scOk]
    split
    · intro h
      obtain rfl : _ = id := congrArg Prod.snd h
      exact ⟨_, _, _, _, _, _, rfl, rfl, rfl, rfl⟩
    all_goals simp [scOk, scCapacity]

/-! ### Deleting a namespace (R498) -/

@[simp] theorem putKeySlot_nsView (j : Nat) (v : KeySlot) (s : State) : (putKeySlot j v s).nsView = s.nsView := rfl

@[simp] theorem drainSlot_nsView (j : Nat) (next cmd : Option Nat) (s : State) : (drainSlot j next cmd s).nsView = s.nsView := rfl

@[simp] theorem putSlot_nsView (n : Nat) (v : Cmd) (s : State) : (s.putSlot n v).nsView = s.nsView := rfl

@[simp] theorem newKey_nsView (s : State) : (newKey s).2.nsView = s.nsView := rfl

@[simp] theorem newKey_slots (s : State) : (newKey s).2.cip.slots = s.cip.slots := rfl

/-- A delete takes the namespace away, then its key slot drains with no successor key and remembers the namespace (R189, R498). -/
theorem deleteNs_of_ns? (n : Nat) {nsid : Nat} {s : State} {x : Namespace} (h : s.ns? nsid = some x) :
    ∃ u : State, u.ns? nsid = none ∧ deleteNs n nsid s = putKeySlot x.slot
      { (Tab.get {} (drainSlot x.slot none (some n) u).cip.slots x.slot) with gone := some x }
      (drainSlot x.slot none (some n) u) := by
  unfold deleteNs
  rw [h]
  refine ⟨_, ?_, rfl⟩
  rw [ns?_of_nsView (eachOf_nsView _ _ _ (nsNotice_nsView nsid))]
  exact Tab.find_del_same

/-- A deleted namespace is gone, and its key slot drains for the command with no successor key. -/
theorem deleteNs_spec (n : Nat) {nsid : Nat} {s : State} {x : Namespace} (h : s.ns? nsid = some x) :
    (deleteNs n nsid s).ns? nsid = none ∧ KeyDrains (deleteNs n nsid s) x.slot n ∧
      (Tab.get {} (deleteNs n nsid s).cip.slots x.slot).nextKey = none := by
  obtain ⟨u, hu, hdelete⟩ := deleteNs_of_ns? n h
  rw [hdelete]
  refine ⟨(ns?_of_nsView (by simp) nsid).trans hu, ?_, ?_⟩
  · simp [KeyDrains, drainSlot]
  · simp [drainSlot]

/-! ### Attaching and detaching (R330, R355) -/

/-- The step of NAMESPACE_ATTACH for one controller. -/
def attachOne (nsid c : Nat) (s : State) : State :=
  match s.ctrl? c with
  | none => s
  | some x => nsNotice nsid c (s.putCtrl c { x with attach := addNew nsid x.attach })

/-- A step that applies g to the attachments of its own controller and leaves those of every other. -/
def Attaches (f : Nat → State → State) (g : List Nat → List Nat) : Prop :=
  ∀ c s i, (f c s).attach? i = if c = i then (s.attach? i).map g else s.attach? i

theorem putCtrl_attach?_map {s : State} {c : Nat} {x v : Ctrl} (h : s.ctrl? c = some x) {g : List Nat → List Nat}
    (hv : v.attach = g x.attach) (i : Nat) :
    (s.putCtrl c v).attach? i = if c = i then (s.attach? i).map g else s.attach? i := by
  rw [putCtrl_attach?]
  split
  · next hc => rw [← hc, attach?_of_ctrl? h, hv]; rfl
  · rfl

theorem attach?_map_of_none {s : State} {c : Nat} (h : s.ctrl? c = none) (g : List Nat → List Nat) (i : Nat) :
    s.attach? i = if c = i then (s.attach? i).map g else s.attach? i := by
  split
  · next hc => simp [← hc, State.attach?, h]
  · rfl

theorem attachOne_attaches (nsid : Nat) : Attaches (attachOne nsid) (addNew nsid) := by
  intro c s i
  unfold attachOne
  split
  · next h => exact attach?_map_of_none h _ i
  · next x h =>
    refine (nsNotice_attach? ..).trans (putCtrl_attach?_map h ?_ i)
    rfl

theorem detachOne_attaches (nsid : Nat) : Attaches (detachOne nsid) (dropOne nsid) := by
  intro c s i
  have hfetched : ∀ (l : List (Nat × Cmd)) (s : State),
      (eachOf l (fun e s => finishCmd e.1 scBadNamespace 0 0 s) s).attach? i = s.attach? i :=
    fun l s => eachOf_invariant (P := fun t => t.attach? i = s.attach? i) (fun e _ t ht => (finishCmd_attach? ..).trans ht) rfl
  unfold detachOne
  split
  · next h => exact attach?_map_of_none h _ i
  · next x h =>
    refine (nsNotice_attach? ..).trans ((hfetched _ _).trans (putCtrl_attach?_map h ?_ i))
    rfl

theorem attachOne_slot_isSome (nsid c : Nat) (s : State) (n : Nat) :
    ((attachOne nsid c s).slot? n).isSome = (s.slot? n).isSome := by
  unfold attachOne
  split
  · rfl
  · exact nsNotice_slot_isSome ..

theorem detachOne_slot_isSome (nsid c : Nat) (s : State) (n : Nat) :
    ((detachOne nsid c s).slot? n).isSome = (s.slot? n).isSome := by
  unfold detachOne
  split
  · rfl
  · refine (nsNotice_slot_isSome ..).trans ?_
    exact eachOf_invariant (P := fun t => (t.slot? n).isSome = (s.slot? n).isSome)
      (fun e _ t ht => (finishCmd_slot_isSome ..).trans ht) rfl

/-- After such a step for every controller of a list, each of them has a property that g gives. -/
theorem Attaches.eachOf {f : Nat → State → State} {g : List Nat → List Nat} (hf : Attaches f g) {p : List Nat → Prop}
    (hg : ∀ a, p (g a)) {l : List Nat} {s : State} (hs : ∀ i ∈ l, ∃ a, s.attach? i = some a) :
    ∀ i ∈ l, ∃ a, (eachOf l f s).attach? i = some a ∧ p a := by
  refine eachOf_establishes (P := fun t => ∀ i ∈ l, ∃ a, t.attach? i = some a)
    (Q := fun i t => ∃ a, t.attach? i = some a ∧ p a) ?_ ?_ ?_ hs
  · intro c _ t ht i hi
    obtain ⟨a, ha⟩ := ht i hi
    rw [hf, ha]
    split <;> exact ⟨_, rfl⟩
  · intro c hc t ht
    obtain ⟨a, ha⟩ := ht c hc
    exact ⟨g a, by rw [hf, if_pos rfl, ha]; rfl, hg a⟩
  · rintro c _ i t _ ⟨a, ha, hp⟩
    rw [hf, ha]
    split
    · exact ⟨g a, rfl, hg a⟩
    · exact ⟨a, rfl, hp⟩

/-! ### Erasing namespaces (R330, R389, R498) -/

/-- Every namespace's record changed. -/
def mapNs (f : Namespace → Namespace) (s : State) : State :=
  { s with nvq := { s.nvq with ns := s.nvq.ns.map (fun e => (e.1, f e.2)) } }

theorem mapNs_ns? (f : Namespace → Namespace) (s : State) (m : Nat) : (mapNs f s).ns? m = (s.ns? m).map f :=
  Tab.find_map_snd ..

theorem nsLtns_congr {s t : State} (h : t.map.core.extents = s.map.core.extents) (m : Nat) : nsLtns t m = nsLtns s m := by
  simp only [nsLtns, h]

/-- A namespace's tracts are UNMAPPED and its record is replaced. -/
def clearNs (nsid : Nat) (y : Namespace) (s : State) : State := (unmapNs nsid s).putNs nsid y

theorem clearNs_unmapped_keep (nsid : Nat) (y : Namespace) {s : State} {l : Nat} (h : Unmapped s l) :
    Unmapped (clearNs nsid y s) l := unmapNs_unmapped_keep nsid h

/-- What a clear leaves stands in every state with the same tracts and namespaces. -/
theorem clearNs_spec {nsid : Nat} {y : Namespace} {s t : State} (h : t.nsView = (clearNs nsid y s).nsView) :
    (∀ l ∈ nsLtns s nsid, Unmapped t l) ∧ t.ns? nsid = some y :=
  ⟨fun l hl => unmapped_of_nsView h (unmapNs_unmapped nsid s l hl), (ns?_of_nsView h nsid).trans (State.putNs_ns ..)⟩

theorem clearNs_extents (nsid : Nat) (y : Namespace) (s : State) :
    (clearNs nsid y s).map.core.extents = s.map.core.extents := unmapNs_extents nsid s

@[simp] theorem clearNs_ns?_same (nsid : Nat) (y : Namespace) (s : State) : (clearNs nsid y s).ns? nsid = some y :=
  State.putNs_ns ..

theorem clearNs_ns?_ne {nsid m : Nat} (h : nsid ≠ m) (y : Namespace) (s : State) : (clearNs nsid y s).ns? m = s.ns? m :=
  (Tab.find_put_ne h).trans (unmapNs_ns? nsid s m)

@[simp] theorem clearNs_cip (nsid : Nat) (y : Namespace) (s : State) : (clearNs nsid y s).cip = s.cip := unmapNs_cip nsid s

/-- The step of SANITIZE_CRYPTO_ERASE for one namespace. -/
def eraseNs (n nsid : Nat) (s : State) : State :=
  match s.ns? nsid with
  | none => s
  | some x =>
    let r := newKey (clearNs nsid { x with zones := [] } s)
    drainSlot x.slot (some r.1) (some n) r.2

theorem eraseNs_of_none (n : Nat) {nsid : Nat} {s : State} (h : s.ns? nsid = none) : eraseNs n nsid s = s := by
  simp [eraseNs, h]

section
variable {n nsid : Nat} {s : State}

theorem eraseNs_of_ns? {x : Namespace} (h : s.ns? nsid = some x) : ∃ key, eraseNs n nsid s =
    drainSlot x.slot (some key) (some n) (newKey (clearNs nsid { x with zones := [] } s)).2 :=
  ⟨_, by rw [eraseNs, h]⟩

theorem eraseNs_nsView {x : Namespace} (h : s.ns? nsid = some x) :
    (eraseNs n nsid s).nsView = (clearNs nsid { x with zones := [] } s).nsView := by
  obtain ⟨key, he⟩ := eraseNs_of_ns? (n := n) h
  rw [he, drainSlot_nsView, newKey_nsView]

theorem eraseNs_extents : (eraseNs n nsid s).map.core.extents = s.map.core.extents := by
  cases h : s.ns? nsid with
  | none => rw [eraseNs_of_none n h]
  | some x => exact (congrArg NsView.extents (eraseNs_nsView h)).trans (clearNs_extents ..)

/-- An erasure leaves every namespace its key slot. -/
theorem eraseNs_slotOf (m : Nat) : ((eraseNs n nsid s).ns? m).map Namespace.slot = (s.ns? m).map Namespace.slot := by
  cases h : s.ns? nsid with
  | none => rw [eraseNs_of_none n h]
  | some x =>
    rw [ns?_of_nsView (eraseNs_nsView h)]
    by_cases hm : nsid = m
    · rw [← hm, clearNs_ns?_same, h]; rfl
    · rw [clearNs_ns?_ne hm]

theorem eraseNs_unmapped_keep {l : Nat} (hl : Unmapped s l) : Unmapped (eraseNs n nsid s) l := by
  cases h : s.ns? nsid with
  | none => rwa [eraseNs_of_none n h]
  | some x => exact unmapped_of_nsView (eraseNs_nsView h) (clearNs_unmapped_keep _ _ hl)

theorem eraseNs_keyDrains_keep {i : Nat} (hi : KeyDrains s i n) : KeyDrains (eraseNs n nsid s) i n := by
  cases h : s.ns? nsid with
  | none => rwa [eraseNs_of_none n h]
  | some x =>
    obtain ⟨key, he⟩ := eraseNs_of_ns? (n := n) h
    rw [he]
    refine drainSlot_keyDrains_keep _ _ ?_
    rwa [KeyDrains, newKey_slots, clearNs_cip]

theorem eraseNs_erases {x : Namespace} (h : s.ns? nsid = some x) :
    (∀ l ∈ nsLtns s nsid, Unmapped (eraseNs n nsid s) l) ∧ KeyDrains (eraseNs n nsid s) x.slot n := by
  refine ⟨(clearNs_spec (eraseNs_nsView h)).1, ?_⟩
  obtain ⟨key, he⟩ := eraseNs_of_ns? (n := n) h
  rw [he]
  exact drainSlot_keyDrains ..

end

/-- Every namespace of a list is erased: its tracts are UNMAPPED and its key slot drains for the command. -/
theorem eachOf_eraseNs_erases (n : Nat) (l : List Nat) (s : State) : ∀ m ∈ l, ∀ x, s.ns? m = some x →
    (∀ i ∈ nsLtns s m, Unmapped (eachOf l (eraseNs n) s) i) ∧ KeyDrains (eachOf l (eraseNs n) s) x.slot n := by
  refine eachOf_establishes
    (P := fun t => t.map.core.extents = s.map.core.extents ∧ ∀ m, (t.ns? m).map Namespace.slot = (s.ns? m).map Namespace.slot)
    (Q := fun m t => ∀ x, s.ns? m = some x → (∀ i ∈ nsLtns s m, Unmapped t i) ∧ KeyDrains t x.slot n)
    ?_ ?_ ?_ ⟨rfl, fun _ => rfl⟩
  · rintro a _ t ⟨hext, hslot⟩
    exact ⟨eraseNs_extents.trans hext, fun m => (eraseNs_slotOf m).trans (hslot m)⟩
  · rintro m _ t ⟨hext, hslot⟩ x hx
    obtain ⟨y, hy, hyx⟩ : ∃ y, t.ns? m = some y ∧ y.slot = x.slot := by simpa [hx] using hslot m
    obtain ⟨htracts, hdrains⟩ := eraseNs_erases (n := n) hy
    exact ⟨nsLtns_congr hext m ▸ htracts, hyx ▸ hdrains⟩
  · rintro a _ m t - hQ x hx
    obtain ⟨htracts, hdrains⟩ := hQ x hx
    exact ⟨fun i hi => eraseNs_unmapped_keep (htracts i hi), eraseNs_keyDrains_keep hdrains⟩

/-! ### What the commands do, clause by clause -/

section
variable {n : SlotNo} {s : State} {k : Cmd} {c : Ctrl}

/-- R334, R496: the new namespace stands under its identifier, and its key slot is active for it. -/
theorem namespaceCreate_answers {d : NsCreate} {id : Nat} (hk : Admitted s n.val k c) (hop : k.isAdmin 0x0D = true)
    (hsel : bits (k.dw 10) 0 4 = 0) (htpl : tplBusy s = false) (hdrbg : s.cip.drbgUp = true)
    (hid : (createNs d s.begin).1 = (0, id)) :
    Answers (.namespaceCreate n d) s fun t => Ended t n.val 0 (id % 2 ^ 32) ∧ ∃ y, t.ns? id = some y ∧
      y.lbaShift = (if d.lbaf = 0 then 9 else 12) ∧ y.wseq = 1 ∧ y.created = s.life.now ∧
      (Tab.get {} t.cip.slots y.slot).state = 1 ∧ (Tab.get {} t.cip.slots y.slot).nsid = id := by
  obtain ⟨ext, x, key, slot, escrow, u, hbuild, hnvq, hlife, hshift⟩ := createNs_builds hid
  obtain ⟨hns, hkey, hslots⟩ := buildNs_spec id ext x key slot escrow u
  have hslot : (buildNs id ext x key slot escrow u).slot? n.val = some k := by
    rw [State.slot?, hslots, hnvq]; exact hk.1
  have hexec : exec (.namespaceCreate n d) s = .next (finishCmd n.val scOk id 0
      ((buildNs id ext x key slot escrow u).putSlot n.val { k with changed := true })) := by
    have htpl' : tplBusy s.begin = false := htpl
    change execNamespaceCreate n d s = _
    rw [execNamespaceCreate, hk.withCmd (by simp [hop, hsel])]
    simp [htpl', hdrbg, hid, scOk, hbuild, finishChanged_of_slot hslot]
  refine ⟨_, hexec, finishCmd_ended (by simp) .., _, (ns?_of_nsView (finishCmd_nsView ..) id).trans hns, hshift, rfl, ?_, ?_, ?_⟩
  · rw [hlife]; rfl
  · simp [hkey]
  · simp [hkey]

/-- R498: the namespace is gone, and its key slot drains for the command. -/
theorem namespaceDelete_answers {x : Namespace} (hk : Admitted s n.val k c) (hop : k.isAdmin 0x0D = true)
    (hsel : bits (k.dw 10) 0 4 = 1) (hall : k.nsid ≠ 0xFFFFFFFF) (hns : s.ns? k.nsid = some x)
    (hdrain : drainsFor s n.val = false) :
    Answers (.namespaceDelete n) s fun t => t.ns? k.nsid = none ∧ (Tab.get {} t.cip.slots x.slot).state = 2 ∧
      (Tab.get {} t.cip.slots x.slot).cmd = some n.val ∧ (Tab.get {} t.cip.slots x.slot).nextKey = none := by
  have hns' : s.begin.ns? k.nsid = some x := hns
  have hdrain' : drainsFor s.begin n.val = false := hdrain
  have hexec : exec (.namespaceDelete n) s =
      .next (fenRefresh (deleteNs n.val k.nsid (s.begin.putSlot n.val { k with changed := true }))) := by
    change execNamespaceDelete n s = _
    rw [execNamespaceDelete, hk.withCmd (by simp [hop, hsel])]
    simp [hall, hns', hdrain', eachOf]
  obtain ⟨hgone, ⟨hstate, hcmd⟩, hnext⟩ :=
    deleteNs_spec n.val (s := s.begin.putSlot n.val { k with changed := true }) hns
  refine ⟨_, hexec, (ns?_of_nsView (fenRefresh_nsView _) _).trans hgone, ?_⟩
  rw [(fenRefresh_touch _).cip (by decide)]
  exact ⟨hstate, hcmd, hnext⟩

theorem any_ctrl_eq_false {l : List Nat} {p : Ctrl → Bool} (h : ∀ i ∈ l, ∃ y, s.ctrl? i = some y ∧ p y = false) :
    l.any (fun i => (s.ctrl? i).any p) = false := by
  rw [List.any_eq_false]
  intro i hi
  obtain ⟨y, hy, hp⟩ := h i hi
  simp [hy, hp]

theorem ctrls_stand {l : List Nat} (hl : l ≠ []) (h : ∀ i ∈ l, ∃ y, s.ctrl? i = some y) :
    ¬(l.isEmpty = true ∨ l.any (fun i => (s.ctrl? i).isNone) = true) := by
  simp only [List.isEmpty_iff, hl, List.any_eq_true, false_or, not_exists, not_and]
  intro i hi
  obtain ⟨y, hy⟩ := h i hi
  simp [hy]

/-- A command that changes the attachments of a list of controllers, and finishes. -/
theorem attaches_answers {i : Instr} {l : List Nat} {f : Nat → State → State} {g : List Nat → List Nat} {p : List Nat → Prop}
    (hk : Admitted s n.val k c) (hexec : exec i s = .next (finishCmd n.val scOk 0 0 (eachOf l f s.begin))) (hf : Attaches f g)
    (hslot : ∀ c s, ((f c s).slot? n.val).isSome = (s.slot? n.val).isSome) (hg : ∀ a, p (g a))
    (hctrls : ∀ j ∈ l, ∃ y, s.ctrl? j = some y) :
    Answers i s fun t => Ended t n.val 0 0 ∧ ∀ j ∈ l, ∃ y, t.ctrl? j = some y ∧ p y.attach := by
  have hthere : ((eachOf l f s.begin).slot? n.val).isSome :=
    eachOf_invariant (P := fun t => (t.slot? n.val).isSome) (fun j _ t ht => (hslot j t).trans ht) hk.slot_isSome
  refine ⟨_, hexec, finishCmd_ended hthere .., fun j hj => attach?_iff.mpr ?_⟩
  rw [finishCmd_attach?]
  refine hf.eachOf hg (fun j hj => ?_) j hj
  obtain ⟨y, hy⟩ := hctrls j hj
  exact ⟨_, attach?_of_ctrl? (s := s.begin) hy⟩

/-- R330, R355: a ready namespace is attached to every controller of the list. -/
theorem namespaceAttach_answers {l : List Nat} {x : Namespace} (hk : Admitted s n.val k c) (hop : k.isAdmin 0x15 = true)
    (hsel : bits (k.dw 10) 0 4 = 0) (hns : s.ns? k.nsid = some x) (hready : x.importing = false) (hl : l ≠ [])
    (hctrls : ∀ i ∈ l, ∃ y, s.ctrl? i = some y ∧ k.nsid ∉ y.attach) :
    Answers (.namespaceAttach n l) s fun t => Ended t n.val 0 0 ∧ ∀ i ∈ l, ∃ y, t.ctrl? i = some y ∧ k.nsid ∈ y.attach := by
  have hns' : s.begin.ns? k.nsid = some x := hns
  have hthere : ∀ i ∈ l, ∃ y, s.ctrl? i = some y := fun i hi => (hctrls i hi).imp fun _ h => h.1
  have hstand := ctrls_stand (s := s.begin) hl hthere
  have hfree : l.any (fun i => (s.begin.ctrl? i).any (fun y => decide (k.nsid ∈ y.attach))) = false :=
    any_ctrl_eq_false fun i hi => (hctrls i hi).imp fun _ h => ⟨h.1, by simp [h.2]⟩
  have hexec : exec (.namespaceAttach n l) s = .next (finishCmd n.val scOk 0 0 (eachOf l (attachOne k.nsid) s.begin)) := by
    change execNamespaceAttach n l s = _
    rw [execNamespaceAttach, hk.withCmd (by simp [hop, hsel])]
    simp only [hns', hready, hstand, hfree, Option.isNone_some, Option.any_some, Bool.false_eq_true, if_false]
    rfl
  exact attaches_answers (p := (k.nsid ∈ ·)) hk hexec (attachOne_attaches _) (fun _ _ => attachOne_slot_isSome ..)
    (mem_addNew_self _) hthere

/-- R330, R355: the namespace is detached from every controller of the list. -/
theorem namespaceDetach_answers {l : List Nat} {x : Namespace} (hk : Admitted s n.val k c) (hop : k.isAdmin 0x15 = true)
    (hsel : bits (k.dw 10) 0 4 = 1) (hns : s.ns? k.nsid = some x) (hl : l ≠ [])
    (hctrls : ∀ i ∈ l, ∃ y, s.ctrl? i = some y ∧ k.nsid ∈ y.attach) :
    Answers (.namespaceDetach n l) s fun t => Ended t n.val 0 0 ∧ ∀ i ∈ l, ∃ y, t.ctrl? i = some y ∧ k.nsid ∉ y.attach := by
  have hns' : s.begin.ns? k.nsid = some x := hns
  have hthere : ∀ i ∈ l, ∃ y, s.ctrl? i = some y := fun i hi => (hctrls i hi).imp fun _ h => h.1
  have hstand := ctrls_stand (s := s.begin) hl hthere
  have hheld : l.any (fun i => (s.begin.ctrl? i).any (fun y => decide (k.nsid ∉ y.attach))) = false :=
    any_ctrl_eq_false fun i hi => (hctrls i hi).imp fun _ h => ⟨h.1, by simp [h.2]⟩
  have hexec : exec (.namespaceDetach n l) s = .next (finishCmd n.val scOk 0 0 (eachOf l (detachOne k.nsid) s.begin)) := by
    change execNamespaceDetach n l s = _
    rw [execNamespaceDetach, hk.withCmd (by simp [hop, hsel])]
    simp only [hns', hstand, hheld, Option.isNone_some, Bool.false_eq_true, if_false]
  exact attaches_answers (p := (k.nsid ∉ ·)) hk hexec (detachOne_attaches _) (fun _ _ => detachOne_slot_isSome ..)
    (fun a => by simp [dropOne]) hthere

/-- A namespace's record with the block size that a Format asks for, and no zones. -/
def formatted (k : Cmd) (x : Namespace) : Namespace :=
  { x with lbaShift := if bits (k.dw 10) 0 4 = 0 then 9 else 12, zones := [] }

/-- R330, R498: the namespace is cleared; with SES 2 its key slot drains towards a new key. -/
theorem formatNvm_answers {x : Namespace} (hk : Admitted s n.val k c) (hop : k.isAdmin 0x80 = true)
    (hns : s.ns? k.nsid = some x) (hdrain : drainsFor s n.val = false)
    (hses : bits (k.dw 10) 9 3 = 0 ∨ bits (k.dw 10) 9 3 = 2 ∧ s.cip.drbgUp = true)
    (hlbaf : bits (k.dw 10) 0 4 = 0 ∧ 9 ≤ x.leafShift ∨ bits (k.dw 10) 0 4 = 1 ∧ 12 ≤ x.leafShift) :
    Answers (.formatNvm n) s fun t => (∀ l ∈ nsLtns s k.nsid, (tractOf t l).state = .unmapped) ∧
      (∃ y, t.ns? k.nsid = some y ∧ y.lbaShift = (if bits (k.dw 10) 0 4 = 0 then 9 else 12) ∧ y.zones = [] ∧ y.slot = x.slot) ∧
      (bits (k.dw 10) 9 3 = 2 → (Tab.get {} t.cip.slots x.slot).state = 2 ∧ (Tab.get {} t.cip.slots x.slot).cmd = some n.val ∧
        (Tab.get {} t.cip.slots x.slot).nextKey = some (Config.drbg s.cip.keysMade)) := by
  have hns' : s.begin.ns? k.nsid = some x := hns
  have hdrain' : drainsFor s.begin n.val = false := hdrain
  have hformat : ¬(1 < bits (k.dw 10) 0 4 ∨ x.leafShift < if bits (k.dw 10) 0 4 = 0 then 9 else 12) := by
    rcases hlbaf with ⟨h, hx⟩ | ⟨h, hx⟩ <;> simp [h] <;> omega
  -- The namespace is cleared in u; what follows changes neither its tracts nor its record.
  obtain ⟨u, hu⟩ : ∃ u, clearNs k.nsid (formatted k x) s.begin = u := ⟨_, rfl⟩
  have hkeys : u.cip.keysMade = s.cip.keysMade := by rw [← hu, clearNs_cip]; rfl
  rcases hses with h0 | ⟨h2, hdrbg⟩
  · have hexec : exec (.formatNvm n) s = .next (finishWrite n.val false [] 0 0 u) := by
      change execFormatNvm n s = _
      rw [execFormatNvm, hk.withCmd hop]
      simp [hns', hdrain', h0, hformat, ← hu, formatted, clearNs]
    have hview : (finishWrite n.val false [] 0 0 u).nsView = (clearNs k.nsid (formatted k x) s.begin).nsView := by
      rw [finishWrite_nsView, hu]
    obtain ⟨htracts, hrecord⟩ := clearNs_spec hview
    exact ⟨_, hexec, htracts, ⟨_, hrecord, rfl, rfl, rfl⟩, fun h => by simp [h0] at h⟩
  · have hexec : exec (.formatNvm n) s = .next (drainSlot x.slot (some (newKey u).1) (some n.val)
        ((newKey u).2.putSlot n.val { k with changed := true })) := by
      change execFormatNvm n s = _
      rw [execFormatNvm, hk.withCmd hop]
      simp [hns', hdrain', h2, hformat, hdrbg, ← hu, formatted, clearNs]
    have hview : (drainSlot x.slot (some (newKey u).1) (some n.val)
        ((newKey u).2.putSlot n.val { k with changed := true })).nsView =
        (clearNs k.nsid (formatted k x) s.begin).nsView := by
      rw [drainSlot_nsView, putSlot_nsView, newKey_nsView, hu]
    obtain ⟨htracts, hrecord⟩ := clearNs_spec hview
    obtain ⟨hstate, hcmd⟩ := drainSlot_keyDrains x.slot (some (newKey u).1) n.val
      ((newKey u).2.putSlot n.val { k with changed := true })
    refine ⟨_, hexec, htracts, ⟨_, hrecord, rfl, rfl, rfl⟩, fun _ => ⟨hstate, hcmd, ?_⟩⟩
    rw [drainSlot_nextKey, newKey, hkeys]

/-- Every namespace is being sanitized (R497). -/
def sanitizing (s : State) : State := mapNs (fun x => { x with sanitize := 2 }) s

/-- R330, R389, R498: with no namespace the command ends at once; otherwise every namespace is erased. -/
theorem sanitizeCryptoErase_answers (hk : Admitted s n.val k c) (hop : k.isAdmin 0x84 = true) (hact : k.sanact = 4)
    (hdrain : drainsFor s n.val = false) (hdrbg : s.cip.drbgUp = true) :
    Answers (.sanitizeCryptoErase n) s fun t => (s.nvq.ns = [] → Ended t n.val 0 0) ∧
      (∀ m x, s.ns? m = some x → (∀ l ∈ nsLtns s m, (tractOf t l).state = .unmapped) ∧
        (Tab.get {} t.cip.slots x.slot).state = 2 ∧ (Tab.get {} t.cip.slots x.slot).cmd = some n.val) := by
  have hdrain' : drainsFor s.begin n.val = false := hdrain
  have hdrbg' : s.begin.cip.drbgUp = true := hdrbg
  by_cases hnone : s.nvq.ns = []
  · have hexec : exec (.sanitizeCryptoErase n) s = .next (finishCmd n.val scOk 0 0 (sanitizing s.begin)) := by
      change execSanitizeCryptoErase n s = _
      rw [execSanitizeCryptoErase, hk.withCmd (by simp [hop, hact])]
      simp [hdrain', hact, hdrbg, hnone, sanitizing, mapNs]
    refine ⟨_, hexec, fun _ => finishCmd_ended (s := mapNs _ s.begin) hk.slot_isSome .., fun m x hx => ?_⟩
    simp [State.ns?, hnone] at hx
  · have hexec : exec (.sanitizeCryptoErase n) s = .next (eachOf (sanitizing s.begin).nvq.ns.keys (eraseNs n.val)
        ((sanitizing s.begin).putSlot n.val { k with changed := true })) := by
      change execSanitizeCryptoErase n s = _
      rw [execSanitizeCryptoErase, hk.withCmd (by simp [hop, hact])]
      have hsome : (s.begin.nvq.ns.map (fun e => (e.1, { e.2 with sanitize := 2 }))).isEmpty = false := by
        simpa using hnone
      simp only [hdrain', hact, hdrbg', hsome, ne_eq, not_true_eq_false, Bool.false_eq_true, Bool.true_eq_false, if_false]
      rfl
    refine ⟨_, hexec, fun h => absurd h hnone, fun m x hx => ?_⟩
    have hmark : (sanitizing s.begin).ns? m = some { x with sanitize := 2 } :=
      (mapNs_ns? _ s.begin m).trans (congrArg _ hx)
    exact eachOf_eraseNs_erases n.val _ ((sanitizing s.begin).putSlot n.val { k with changed := true }) m
      (Tab.mem_keys_of_find hmark) { x with sanitize := 2 } hmark

/-- R497: while the generator is down no key can be replaced, and the command waits. -/
theorem sanitizeCryptoErase_waits (hk : Admitted s n.val k c) (hop : k.isAdmin 0x84 = true) (hact : k.sanact = 4)
    (hdrain : drainsFor s n.val = false) (hdrbg : s.cip.drbgUp = false) :
    Answers (.sanitizeCryptoErase n) s fun t =>
      n.val ∈ t.cip.waiters ∧ t.map = s.map ∧ t.slot? n.val = some { k with waits := true } := by
  have hdrain' : drainsFor s.begin n.val = false := hdrain
  have hexec : exec (.sanitizeCryptoErase n) s = .next (waitDrbg n.val k (sanitizing s.begin)) := by
    change execSanitizeCryptoErase n s = _
    rw [execSanitizeCryptoErase, hk.withCmd (by simp [hop, hact])]
    simp [hdrain', hact, hdrbg, sanitizing, mapNs]
  exact ⟨_, hexec, mem_addNew_self .., rfl, State.putSlot_slot ..⟩

/-- R330, R497: the failed state is cleared in every namespace. -/
theorem sanitizeExitFailureMode_answers (hk : Admitted s n.val k c) (hop : k.isAdmin 0x84 = true) (hact : k.sanact = 1) :
    Answers (.sanitizeExitFailureMode n) s fun t => Ended t n.val 0 0 ∧
      ∀ m x, s.ns? m = some x → t.ns? m = some { x with sanitize := if x.sanitize = 3 then 0 else x.sanitize } := by
  have hexec : exec (.sanitizeExitFailureMode n) s = .next (finishCmd n.val scOk 0 0
      (mapNs (fun x => { x with sanitize := if x.sanitize = 3 then 0 else x.sanitize }) s.begin)) := by
    change execSanitizeExitFailureMode n s = _
    rw [execSanitizeExitFailureMode, hk.withCmd (by simp [hop, hact])]
    rfl
  refine ⟨_, hexec, finishCmd_ended (s := mapNs _ s.begin) hk.slot_isSome .., fun m x hx => ?_⟩
  exact (ns?_of_nsView (finishCmd_nsView ..) m).trans ((mapNs_ns? _ s.begin m).trans (congrArg _ hx))

end

/-- Settles O22: clause by clause, from what each command does. -/
theorem namespacesManagedAndErased : Obligations.NamespacesManagedAndErased :=
  ⟨fun _ _ _ _ _ _ => namespaceCreate_answers, fun _ _ _ _ _ => namespaceDelete_answers,
    fun _ _ _ _ _ _ => namespaceAttach_answers, fun _ _ _ _ _ _ => namespaceDetach_answers,
    fun _ _ _ _ _ => formatNvm_answers, fun _ _ _ _ => sanitizeCryptoErase_answers,
    fun _ _ _ _ => sanitizeCryptoErase_waits, fun _ _ _ _ => sanitizeExitFailureMode_answers⟩

end Sys2Proof.Machine
end

section
/-! Custodian tasks on peers and migrations (R468, R475, R477, R481, R601 to R603): how a task starts and ends, and what the Causeway
tasks do to the peer table, the chain and the migrations. -/

namespace Sys2Proof.Machine

open Sys2Proof

/-! ### A task that may run (R601 to R603) -/

/-- The state on which a task's own work begins: GO has set the task registers, and the task runs. -/
def taskStarted (op : Nat) (s : State) : State :=
  let s := ((s.begin.wr F.CUS_TASK_CMD_OPCODE op).wr F.CUS_TASK_STAT_STATE 1).wr F.CUS_TASK_STAT_STATUS 0
  let s := (s.wr F.CUS_TASK_STAT_LAST_OP op).wr F.CUS_TASK_STAT_DETAIL 0
  { s with cus := { s.cus with busy := some op } }

section
variable (op : Nat) (s : State)

@[simp] theorem taskStarted_map : (taskStarted op s).map = s.map := (rfl)
@[simp] theorem taskStarted_fen : (taskStarted op s).fen = s.fen := (rfl)
@[simp] theorem taskStarted_cwy : (taskStarted op s).cwy = s.cwy := (rfl)
@[simp] theorem taskStarted_transport : (taskStarted op s).cus.transport = s.cus.transport := (rfl)

theorem taskStarted_rd_writes (f : Field) (i : Nat) : (taskStarted op s).rd f i = (((((s.wr F.CUS_TASK_CMD_OPCODE op).wr
    F.CUS_TASK_STAT_STATE 1).wr F.CUS_TASK_STAT_STATUS 0).wr F.CUS_TASK_STAT_LAST_OP op).wr F.CUS_TASK_STAT_DETAIL 0).rd f i := rfl

/-- GO writes the command and status words of the task alone. -/
theorem taskStarted_rd (f : Field) (i : Nat) (hcmd : f.key i / 32 ≠ 0xB000200 / 4) (hstat : f.key i / 32 ≠ 0xB000204 / 4) :
    (taskStarted op s).rd f i = s.rd f i := by
  have hword : ∀ g : Field, g.key 0 / 32 = 0xB000200 / 4 ∨ g.key 0 / 32 = 0xB000204 / 4 → g.key 0 ≠ f.key i := by
    rintro g hg heq
    rw [heq] at hg
    exact hg.elim hcmd hstat
  have hop := hword F.CUS_TASK_CMD_OPCODE (by decide)
  have hstate := hword F.CUS_TASK_STAT_STATE (by decide)
  have hstatus := hword F.CUS_TASK_STAT_STATUS (by decide)
  have hlast := hword F.CUS_TASK_STAT_LAST_OP (by decide)
  have hdetail := hword F.CUS_TASK_STAT_DETAIL (by decide)
  rw [taskStarted_rd_writes, State.rd_wr_ne (h := hdetail), State.rd_wr_ne (h := hlast), State.rd_wr_ne (h := hstatus),
    State.rd_wr_ne (h := hstate), State.rd_wr_ne (h := hop)]

@[simp] theorem taskStarted_argOf (i : Nat) : argOf (taskStarted op s) i = argOf s i :=
  taskStarted_rd op s _ _ (by simp [Field.key, F.CUS_TASK_ARG_ARG]; omega) (by simp [Field.key, F.CUS_TASK_ARG_ARG]; omega)

@[simp] theorem taskStarted_arg64 (i : Nat) : arg64 (taskStarted op s) i = arg64 s i := by
  simp [arg64]

@[simp] theorem taskStarted_bufBytes (o n : Nat) : bufBytes (taskStarted op s) o n = bufBytes s o n := by
  have hword : ∀ i, (taskStarted op s).rd F.CUS_BUF_DATA i = s.rd F.CUS_BUF_DATA i := fun i =>
    taskStarted_rd op s _ _ (by simp [Field.key, F.CUS_BUF_DATA]; omega) (by simp [Field.key, F.CUS_BUF_DATA]; omega)
  simp [bufBytes, hword]

@[simp] theorem taskStarted_seamState (l : Nat) : seamState (taskStarted op s) l = seamState s l :=
  taskStarted_rd op s _ _ (by simp [Field.key, F.SEAM_STAT_STATE]; omega) (by simp [Field.key, F.SEAM_STAT_STATE]; omega)

/-- LAST_OP names the task that started. -/
theorem taskStarted_lastOp : (taskStarted op s).rd F.CUS_TASK_STAT_LAST_OP = op % 256 := by
  rw [taskStarted_rd_writes, State.rd_wr_ne (h := by decide)]
  exact State.rd_wr_same ..

end

/-- GO of a task that may run starts its work. -/
theorem taskGo_ready {s : State} (h : TaskReady s) (op : Nat) (body : State → State) :
    taskGo op body s.begin = body (taskStarted op s) := by
  obtain ⟨hopen, hbusy, hrec, hboot, -⟩ := h
  have hidle : ¬(s.begin.cus.isOpen = false ∨ s.begin.cus.busy.isSome = true) := by simp [hopen, hbusy]
  have hmay : ¬(((taskStarted op s).cus.recovery = true ∨ (taskStarted op s).boot.done = false) ∧ op ∉ recoveryTasks) := by
    simp [taskStarted, hrec, hboot]
  rw [taskGo, if_neg hidle]
  exact if_neg hmay

/-- A task answers as its work does. -/
theorem answers_of_task {i : Instr} {s : State} {op : Nat} {body : State → State} {P : State → Prop}
    (hexec : exec i s = .next (taskGo op body s.begin)) (h : TaskReady s) (hP : P (body (taskStarted op s))) : Answers i s P :=
  ⟨_, hexec.trans (congrArg _ (taskGo_ready h op body)), hP⟩

section
variable (status detail : Nat) (s : State)

@[simp] theorem taskEnd_map : (taskEnd status detail s).map = s.map := (rfl)
@[simp] theorem taskEnd_fen : (taskEnd status detail s).fen = s.fen := (rfl)
@[simp] theorem taskEnd_cwy : (taskEnd status detail s).cwy = s.cwy := (rfl)

end

/-- A task that comes to its end, with LAST_OP as GO left it, ends with the status and detail it came to. -/
theorem taskEnd_ends {t : State} {op status detail : Nat} (hop : t.rd F.CUS_TASK_STAT_LAST_OP = op) (hs : status < 256)
    (hd : detail < 256) : TaskEnds (taskEnd status detail t) op status detail := by
  have hcode : (if status = 0 then 2 else 3) % 2 ^ 3 = if status = 0 then 2 else 3 := by split <;> rfl
  have hrd : ∀ f, (taskEnd status detail t).rd f = ((((t.wr F.CUS_TASK_STAT_STATE (if status = 0 then 2 else 3)).wr
      F.CUS_TASK_STAT_STATUS status).wr F.CUS_TASK_STAT_DETAIL detail).wr F.CUS_EVT_TASK_DONE 1).rd f := fun _ => rfl
  refine ⟨rfl, ?_, ?_, ?_, ?_, (hrd _).trans (State.rd_wr_same ..)⟩
  · rw [hrd, State.rd_wr_ne (h := by decide), State.rd_wr_ne (h := by decide), State.rd_wr_ne (h := by decide),
      State.rd_wr_ne (h := by decide), hop]
  · rw [hrd, State.rd_wr_ne (h := by decide), State.rd_wr_ne (h := by decide)]
    exact (State.rd_wr_same ..).trans (Nat.mod_eq_of_lt hs)
  · rw [hrd, State.rd_wr_ne (h := by decide)]
    exact (State.rd_wr_same ..).trans (Nat.mod_eq_of_lt hd)
  · rw [hrd, State.rd_wr_ne (h := by decide), State.rd_wr_ne (h := by decide), State.rd_wr_ne (h := by decide)]
    exact (State.rd_wr_same ..).trans hcode

/-- A task whose work leaves the registers alone ends with the status it came to. -/
theorem taskEnd_ends_of_regs {s t : State} {op status detail : Nat} (hregs : t.regs = (taskStarted op s).regs) (hop : op < 256)
    (hs : status < 256) (hd : detail < 256) : TaskEnds (taskEnd status detail t) op status detail :=
  taskEnd_ends (((State.rd_congr hregs _ _).trans (taskStarted_lastOp op s)).trans (Nat.mod_eq_of_lt hop)) hs hd

/-- A task refused before its work changes anything ends so. -/
theorem taskEnd_started {s : State} {op status detail : Nat} (hop : op < 256) (hs : status < 256) (hd : detail < 256) :
    TaskEnds (taskEnd status detail (taskStarted op s)) op status detail :=
  taskEnd_ends_of_regs rfl hop hs hd

/-! ### Causeway: peers and datagrams (R464, R467, R470) -/

section
variable (p k : Nat) (x : Peer) (s : State)

@[simp] theorem putPeer_peerOf_same : peerOf (putPeer p x s) p = x := Tab.get_set_same

@[simp] theorem putMig_migOf_same (y : Migration) : migOf (putMig k y s) k = some y := Tab.find_put_same

/-- HELLO leaves the entry of the peer but for what the handshake itself holds (R470). -/
theorem sendHello_peerOf : ∃ nonce asked num, peerOf (sendHello p s) p =
    { peerOf s p with nonce := nonce, asked := asked, session := num } :=
  ⟨_, _, _, putPeer_peerOf_same ..⟩

end

/-- Of Causeway's state a datagram that is sent, or waits, changes the peer table alone. -/
theorem cwySend_cwy (p stream type : Nat) (args : List Nat) (s : State) :
    ∃ peers, (cwySend p stream type args s).cwy = { s.cwy with peers := peers } := by
  have hnow : ∀ d, ∃ peers, (cwySendNow p d s).cwy = { s.cwy with peers := peers } := by
    intro d
    unfold cwySendNow cwyOut
    dsimp only
    split <;> exact ⟨_, rfl⟩
  unfold cwySend
  dsimp only
  split
  · exact ⟨_, rfl⟩
  · split
    · exact ⟨_, rfl⟩
    · exact hnow _

/-! ### The chain (R475, R476) -/

/-- What sending a chain on does not change: whether this device is its head, its length, and the reports that have come. -/
def State.chainPlan (s : State) : Bool × Nat × List (Nat × Nat) := (s.cwy.chainHead, s.cwy.chainLen, s.cwy.reports)

theorem chainFeed_chainPlan (n q : Nat) (s : State) : (chainFeed n q s).chainPlan = s.chainPlan := by
  induction n generalizing s with
  | zero => rfl
  | succ n ih =>
    unfold chainFeed
    dsimp only
    split
    · rfl
    · refine (ih _).trans ?_
      obtain ⟨peers, hsend⟩ := cwySend_cwy q 9 0x20 [s.cwy.chainSent, s.cwy.chainLen, min 8192 (chainAvail s - s.cwy.chainSent),
        byteField s.upd.buf s.cwy.chainSent (min 8192 (chainAvail s - s.cwy.chainSent))]
        { s with cwy := { s.cwy with chainSent := s.cwy.chainSent + min 8192 (chainAvail s - s.cwy.chainSent) } }
      rw [State.chainPlan, hsend]
      rfl

theorem chainPump_chainPlan (s : State) : (chainPump s).chainPlan = s.chainPlan := by
  have hend : ∀ t : State, t.chainPlan = s.chainPlan →
      (if chainThrough t then { t with cwy := { t.cwy with chain := false } } else t).chainPlan = s.chainPlan := by
    intro t ht
    split <;> exact ht
  unfold chainPump
  split
  · rfl
  · dsimp only
    split
    · exact hend _ (chainFeed_chainPlan ..)
    · exact hend _ rfl

/-- A chain starts at this device as its head, with the whole delta to send (R475). -/
theorem chainStart_starts {s : State} {q : Nat} (hchain : s.cwy.chain = false) (hopen : s.upd.isOpen = false)
    (hcommit : s.upd.commit = none) (hdelta : s.upd.deltaLen ≠ 0) (hnext : chainNext s = some q) :
    (chainStart s).1 = 0 ∧ (chainStart s).2.chainPlan = (true, s.upd.deltaLen, []) := by
  have hidle : ¬(s.cwy.chain = true ∨ s.upd.isOpen = true ∨ s.upd.commit.isSome = true) := by simp [hchain, hopen, hcommit]
  have hready : ¬(s.upd.deltaLen = 0 ∨ (chainNext s).isNone = true) := by simp [hdelta, hnext]
  rw [chainStart, if_neg hidle, if_neg hready]
  exact ⟨rfl, chainPump_chainPlan _⟩

/-! ### The peer table (R468) -/

/-- A new entry of the peer table holds what the task gave it, and no session (R468, R470). -/
theorem peerSet_enters {k roles : Nat} (hk : k < 64) (hroles : roles < 16) (hne : roles ≠ 0) (hbit : bitOf roles 0 = false)
    (serial addr secret : Nat) (s : State) : (peerSet k roles serial addr secret s).1 = 0 ∧
      ∃ nonce asked num, peerOf (peerSet k roles serial addr secret s).2 k =
        { serial := serial, roles := roles, addr := addr, secret := secret, state := 1,
          nonce := nonce, asked := asked, session := num } := by
  have hrange : ¬(64 ≤ k ∨ 16 ≤ roles) := by omega
  rw [peerSet, if_neg hrange, if_neg (by simp [hbit]), if_neg hne]
  refine ⟨rfl, ?_⟩
  dsimp only
  split
  · obtain ⟨nonce, asked, num, hhello⟩ := sendHello_peerOf k
      (putPeer k { serial := serial, roles := roles, addr := addr, secret := secret, state := 1 } (sessionEnd k s))
    exact ⟨nonce, asked, num, hhello.trans (by rw [putPeer_peerOf_same])⟩
  · exact ⟨_, _, _, putPeer_peerOf_same ..⟩

/-- An entry is deleted with ROLES 0 (R468). -/
theorem peerSet_deletes {k : Nat} (hk : k < 64) (serial addr secret : Nat) (s : State) :
    (peerSet k 0 serial addr secret s).1 = 0 ∧ (peerSet k 0 serial addr secret s).2.cwy.peers.find k = none := by
  have hrange : ¬(64 ≤ k ∨ 16 ≤ 0) := by omega
  rw [peerSet, if_neg hrange, if_neg (by simp [bitOf]), if_pos rfl]
  exact ⟨rfl, Tab.find_del_same⟩

/-! ### Migrations (R477, R481) -/

theorem any_nsid_eq_false {l : List (Nat × Migration)} {n : Nat} (h : ∀ e ∈ l, e.2.nsid ≠ n) :
    l.any (fun e => decide (e.2.nsid = n)) = false := by
  simpa using fun a b hab => h (a, b) hab

/-- A migration to a peer starts in the lowest free place with every tract of its namespace to send (R477). -/
theorem migExport_starts {s : State} {nsid serial p m : Nat} {n : Namespace} (hpeer : peerBySerial s serial = some p)
    (hns : s.ns? nsid = some n) (hrole : bitOf (peerOf s p).roles 1 = true) (himp : n.importing = false)
    (hfew : (migsRunning s true).length < 4) (hother : ∀ e ∈ migsRunning s true, e.2.nsid ≠ nsid) (hfree : freeMig s = some m) :
    (migExport nsid serial s).1 = 0 ∧ migOf (migExport nsid serial s).2 m =
      some { export_ := true, peer := p, nsid := nsid, todo := List.range (nsTracts s nsid) } := by
  have hready : ¬(bitOf (peerOf s p).roles 1 = false ∨ n.importing = true) := by simp [hrole, himp]
  have hroom : ¬(4 ≤ (migsRunning s true).length ∨ (migsRunning s true).any (fun e => decide (e.2.nsid = nsid)) = true) := by
    rw [any_nsid_eq_false hother]
    simp [hfew]
  rw [migExport, hpeer, hns]
  simp only [if_neg hready, if_neg hroom, hfree]
  obtain ⟨peers, hsend⟩ := cwySend_cwy p 0 0x30 [m, nsid]
    (putMig m { export_ := true, peer := p, nsid := nsid, todo := List.range (nsTracts s nsid) } s)
  exact ⟨trivial, (congrArg (fun c => c.migs.find m) hsend).trans (putMig_migOf_same m s _)⟩

/-- A migration from a peer is prepared in the lowest free place (R477). -/
theorem migImport_starts {s : State} {serial src dst tpl p m : Nat} (hpeer : peerBySerial s serial = some p) (hpos : 0 < dst)
    (hle : dst ≤ 4096) (hns : s.ns? dst = none) (htpl : (s.image.nstpl.templates[tpl]?).isSome = true)
    (hrole : bitOf (peerOf s p).roles 2 = true) (hbar : importBarred s = false) (hfew : (migsRunning s false).length < 4)
    (hother : ∀ e ∈ migsRunning s false, e.2.nsid ≠ dst) (hfree : freeMig s = some m) :
    migImport serial src dst tpl s =
      (0, putMig m { export_ := false, peer := p, nsid := dst, srcNsid := src, template := tpl } s) := by
  have hgood : ¬(dst = 0 ∨ 4096 < dst ∨ (s.ns? dst).isSome = true ∨ (s.image.nstpl.templates[tpl]?).isNone = true) := by
    rw [hns, ← Option.not_isSome, htpl]
    simp
    omega
  have hready : ¬(bitOf (peerOf s p).roles 2 = false ∨ importBarred s = true) := by simp [hrole, hbar]
  have hroom : ¬(4 ≤ (migsRunning s false).length ∨ (migsRunning s false).any (fun e => decide (e.2.nsid = dst)) = true) := by
    rw [any_nsid_eq_false hother]
    simp [hfew]
  rw [migImport, hpeer]
  simp only [if_neg hgood, if_neg hready, if_neg hroom, hfree]

/-- A freeze write-protects the namespace of a running migration to a peer (R481). -/
theorem migFreeze_freezes {s : State} {nsid m : Nat} {y : Migration} {n : Namespace}
    (hmig : (migsRunning s true).find? (fun e => decide (e.2.nsid = nsid)) = some (m, y)) (hns : s.ns? nsid = some n) :
    migFreeze nsid s = (0, putMig m { y with frozen := true } (s.putNs nsid { n with wprot := true })) := by
  rw [migFreeze, hmig, hns]

/-! ### The Causeway tasks -/

section
variable {ok : Bool} {s : State}

/-- The PEER_SET task whose key does not unwrap. -/
theorem taskPeerSet_badKey (hroles : bufBytes s 1 1 ≠ 0) (hkey : unwrapKey s.cus.transport (bufBytes s 32 40) = none) :
    taskPeerSet ok s = taskEnd 2 0 s := by
  simp only [taskPeerSet, if_neg hroles, hkey]

/-- The PEER_SET task with a key, where the table takes the entry: boot flash decides. -/
theorem taskPeerSet_key {r key : Nat} (hr : bufBytes s 1 1 = r) (hroles : r ≠ 0)
    (hkey : unwrapKey s.cus.transport (bufBytes s 32 40) = some key)
    (hset : (peerSet (bufBytes s 0 1) r (bufBytes s 8 8) (bufBytes s 16 16) key s).1 = 0) : taskPeerSet ok s =
      if ok = false then taskEnd 8 0 s
      else taskEnd 0 0 (peerSet (bufBytes s 0 1) r (bufBytes s 8 8) (bufBytes s 16 16) key s).2 := by
  simp only [taskPeerSet, hr, if_neg hroles, hkey, taskDone, hset, true_and]

/-- The PEER_SET task with ROLES 0, where the table lets the entry go: boot flash decides. -/
theorem taskPeerSet_delete (hroles : bufBytes s 1 1 = 0)
    (hset : (peerSet (bufBytes s 0 1) 0 (bufBytes s 8 8) (bufBytes s 16 16) 0 s).1 = 0) : taskPeerSet ok s =
      if ok = false then taskEnd 8 0 s
      else taskEnd 0 0 (peerSet (bufBytes s 0 1) 0 (bufBytes s 8 8) (bufBytes s 16 16) 0 s).2 := by
  simp only [taskPeerSet, hroles, if_true, taskDone, hset, true_and]

end

section
variable {s : State} (hready : TaskReady s)
include hready

/-- R468, R602: a new entry of the peer table, unless its key does not unwrap or boot flash does not take it. -/
theorem peerSet_answers (ok : Bool) (hk : bufBytes s 0 1 < 64) {r : Nat} (hr : bufBytes s 1 1 = r) (hne : r ≠ 0) (hlt : r < 16)
    (hbit : bitOf r 0 = false) : Answers (.peerSet ok) s fun t =>
      (unwrapKey s.cus.transport (bufBytes s 32 40) = none → TaskEnds t 0x70 2 0 ∧ t.cwy = s.cwy) ∧
      (∀ y, unwrapKey s.cus.transport (bufBytes s 32 40) = some y → ok = false → TaskEnds t 0x70 8 0 ∧ t.cwy = s.cwy) ∧
      (∀ y, unwrapKey s.cus.transport (bufBytes s 32 40) = some y → ok = true → TaskEnds t 0x70 0 0 ∧
        (peerOf t (bufBytes s 0 1)).serial = bufBytes s 8 8 ∧ (peerOf t (bufBytes s 0 1)).roles = r ∧
        (peerOf t (bufBytes s 0 1)).addr = bufBytes s 16 16 ∧ (peerOf t (bufBytes s 0 1)).state = 1 ∧
        (peerOf t (bufBytes s 0 1)).secret = y) := by
  refine answers_of_task (op := 0x70) (body := taskPeerSet ok) rfl hready ?_
  have hroles : bufBytes (taskStarted 0x70 s) 1 1 = r := (taskStarted_bufBytes ..).trans hr
  have hunwrap : unwrapKey (taskStarted 0x70 s).cus.transport (bufBytes (taskStarted 0x70 s) 32 40) =
      unwrapKey s.cus.transport (bufBytes s 32 40) := by rw [taskStarted_bufBytes, taskStarted_transport]
  have hset := fun key => peerSet_enters (k := bufBytes (taskStarted 0x70 s) 0 1) (by rwa [taskStarted_bufBytes]) hlt hne hbit
    (bufBytes (taskStarted 0x70 s) 8 8) (bufBytes (taskStarted 0x70 s) 16 16) key (taskStarted 0x70 s)
  refine ⟨fun hnone => ?_, fun key hkey hflash => ?_, fun key hkey hflash => ?_⟩
  · rw [taskPeerSet_badKey (hroles ▸ hne) (hunwrap.trans hnone)]
    exact ⟨taskEnd_started (by decide) (by decide) (by decide), (taskEnd_cwy ..).trans (taskStarted_cwy ..)⟩
  · rw [taskPeerSet_key hroles hne (hunwrap.trans hkey) (hset key).1, if_pos hflash]
    exact ⟨taskEnd_started (by decide) (by decide) (by decide), (taskEnd_cwy ..).trans (taskStarted_cwy ..)⟩
  · obtain ⟨hstatus, nonce, asked, num, hpeer⟩ := hset key
    rw [taskPeerSet_key hroles hne (hunwrap.trans hkey) hstatus, if_neg (by simp [hflash])]
    refine ⟨taskEnd_ends_of_regs ((peerSet_touch ..).regs (by decide)) (by decide) (by decide) (by decide), ?_⟩
    simp only [taskStarted_bufBytes] at hpeer ⊢
    simp only [peerOf, taskEnd_cwy] at hpeer ⊢
    rw [hpeer]
    exact ⟨rfl, rfl, rfl, rfl, rfl⟩

/-- R468, R602: an entry is deleted with ROLES 0, unless boot flash does not take it. -/
theorem peerSet_deletion_answers (ok : Bool) (hk : bufBytes s 0 1 < 64) (hr : bufBytes s 1 1 = 0) :
    Answers (.peerSet ok) s fun t =>
      (ok = true → TaskEnds t 0x70 0 0 ∧ t.cwy.peers.find (bufBytes s 0 1) = none) ∧
      (ok = false → TaskEnds t 0x70 8 0 ∧ t.cwy = s.cwy) := by
  refine answers_of_task (op := 0x70) (body := taskPeerSet ok) rfl hready ?_
  have hroles : bufBytes (taskStarted 0x70 s) 1 1 = 0 := (taskStarted_bufBytes ..).trans hr
  obtain ⟨hstatus, hpeer⟩ := peerSet_deletes (k := bufBytes (taskStarted 0x70 s) 0 1) (by rwa [taskStarted_bufBytes])
    (bufBytes (taskStarted 0x70 s) 8 8) (bufBytes (taskStarted 0x70 s) 16 16) 0 (taskStarted 0x70 s)
  rw [taskPeerSet_delete hroles hstatus]
  refine ⟨fun hflash => ?_, fun hflash => ?_⟩
  · rw [if_neg (by simp [hflash])]
    refine ⟨taskEnd_ends_of_regs ((peerSet_touch ..).regs (by decide)) (by decide) (by decide) (by decide), ?_⟩
    simp only [taskStarted_bufBytes] at hpeer ⊢
    rw [taskEnd_cwy, hpeer]
  · rw [if_pos hflash]
    exact ⟨taskEnd_started (by decide) (by decide) (by decide), (taskEnd_cwy ..).trans (taskStarted_cwy ..)⟩

/-- R475: a chain starts from the download buffer. -/
theorem chainStart_answers {q : Nat} (hchain : s.cwy.chain = false) (hopen : s.upd.isOpen = false) (hcommit : s.upd.commit = none)
    (hdelta : s.upd.deltaLen ≠ 0) (hnext : chainNext s = some q) : Answers .chainStart s fun t => TaskEnds t 0x71 0 0 ∧
      t.cwy.chainHead = true ∧ t.cwy.chainLen = s.upd.deltaLen ∧ t.cwy.reports = [] := by
  refine answers_of_task (op := 0x71) (body := fun s => taskDone (chainStart s)) rfl hready ?_
  obtain ⟨hstatus, hplan⟩ := chainStart_starts (s := taskStarted 0x71 s) hchain hopen hcommit hdelta hnext
  have hregs := (chainStart_touch (taskStarted 0x71 s)).regs (by decide)
  rw [taskDone, hstatus]
  exact ⟨taskEnd_ends_of_regs hregs (by decide) (by decide) (by decide), congrArg Prod.fst hplan, congrArg (·.2.1) hplan,
    congrArg (·.2.2) hplan⟩

/-- R477: a migration to a peer starts. -/
theorem migExport_answers {p m : Nat} {n : Namespace} (hpeer : peerBySerial s (arg64 s 1) = some p)
    (hns : s.ns? (argOf s 0) = some n) (hrole : bitOf (peerOf s p).roles 1 = true) (himp : n.importing = false)
    (hfew : (migsRunning s true).length < 4) (hother : ∀ e ∈ migsRunning s true, e.2.nsid ≠ argOf s 0)
    (hfree : freeMig s = some m) : Answers .migExport s fun t => TaskEnds t 0x72 0 0 ∧
      migOf t m = some { export_ := true, peer := p, nsid := argOf s 0, todo := List.range (nsTracts s (argOf s 0)) } := by
  refine answers_of_task (op := 0x72) (body := fun s => taskDone (migExport (argOf s 0) (arg64 s 1) s)) rfl hready ?_
  simp only [taskStarted_argOf, taskStarted_arg64]
  obtain ⟨hstatus, hmig⟩ := migExport_starts (s := taskStarted 0x72 s) hpeer hns hrole himp hfew hother hfree
  have hregs := (migExport_touch (argOf s 0) (arg64 s 1) (taskStarted 0x72 s)).regs (by decide)
  rw [taskDone, hstatus]
  exact ⟨taskEnd_ends_of_regs hregs (by decide) (by decide) (by decide), hmig⟩

/-- R477: a migration from a peer is prepared. -/
theorem migImport_answers {p m : Nat} (hpeer : peerBySerial s (arg64 s 0) = some p) (hpos : 0 < argOf s 3) (hle : argOf s 3 ≤ 4096)
    (hns : s.ns? (argOf s 3) = none) (htpl : (s.image.nstpl.templates[argOf s 4]?).isSome = true)
    (hrole : bitOf (peerOf s p).roles 2 = true) (hbar : importBarred s = false) (hfew : (migsRunning s false).length < 4)
    (hother : ∀ e ∈ migsRunning s false, e.2.nsid ≠ argOf s 3) (hfree : freeMig s = some m) :
    Answers .migImport s fun t => TaskEnds t 0x73 0 0 ∧
      migOf t m = some { export_ := false, peer := p, nsid := argOf s 3, srcNsid := argOf s 2, template := argOf s 4 } := by
  refine answers_of_task (op := 0x73)
    (body := fun s => taskDone (migImport (arg64 s 0) (argOf s 2) (argOf s 3) (argOf s 4) s)) rfl hready ?_
  simp only [taskStarted_argOf, taskStarted_arg64]
  rw [migImport_starts (s := taskStarted 0x73 s) hpeer hpos hle hns htpl hrole hbar hfew hother hfree]
  exact ⟨taskEnd_ends_of_regs (status := 0) rfl (by decide) (by decide) (by decide), putMig_migOf_same ..⟩

/-- R481: a migration to a peer is frozen. -/
theorem migFreeze_answers {m : Nat} {y : Migration} {n : Namespace}
    (hmig : (migsRunning s true).find? (fun e => decide (e.2.nsid = argOf s 0)) = some (m, y)) (hns : s.ns? (argOf s 0) = some n) :
    Answers .migFreeze s fun t => TaskEnds t 0x74 0 0 ∧ migOf t m = some { y with frozen := true } ∧
      t.ns? (argOf s 0) = some { n with wprot := true } := by
  refine answers_of_task (op := 0x74) (body := fun s => taskDone (migFreeze (argOf s 0) s)) rfl hready ?_
  simp only [taskStarted_argOf]
  rw [migFreeze_freezes (s := taskStarted 0x74 s) hmig hns]
  exact ⟨taskEnd_ends_of_regs (status := 0) rfl (by decide) (by decide) (by decide), putMig_migOf_same .., Tab.find_put_same⟩

end

end Sys2Proof.Machine
end

section
/-! Which link holds a member index, which links drain or are retired, and which task ran last: what leaves them alone, among the
operations of the map, the fens, the Mere, the hewers and the links (R95, R126, R148, R184, R224, R276). -/

namespace Sys2Proof.Machine

open Sys2Proof

/-! ### The view of members: what leaves it alone -/

/-- What says which link holds a member index, which links drain and which are out, and which task ran last. -/
structure FleetView where
  members : Tab Nat
  draining : List Nat
  retired : List Nat
  lastOp : Nat

/-- The view of a state. -/
def State.fleetView (s : State) : FleetView :=
  ⟨s.map.core.members, s.fen.draining, s.fen.retired, s.rd F.CUS_TASK_STAT_LAST_OP⟩

section
variable {s t : State}

/-- An operation that leaves the membership records, the fens' record and the CUS registers leaves the view. -/
theorem fleetView_of_outside {ms : List Nat} (hmem : t.map.core.members = s.map.core.members) (hfen : t.fen = s.fen)
    (hregs : SameOutside ms s.regs t.regs) (hms : 0xB0 ∉ ms := by decide) : t.fleetView = s.fleetView := by
  have hop : t.rd F.CUS_TASK_STAT_LAST_OP = s.rd F.CUS_TASK_STAT_LAST_OP := hregs.rd _ 0 hms
  simp only [State.fleetView, hmem, hfen, hop]

/-- An operation that touches neither the map, the fens nor the registers leaves the view. -/
theorem Touches.fleetView {ps : List Part} (h : Touches ps s t) (hmap : Part.map ∉ ps := by decide)
    (hfen : Part.fen ∉ ps := by decide) (hregs : Part.regs ∉ ps := by decide) : t.fleetView = s.fleetView := by
  simp only [State.fleetView, h.map hmap, h.fen hfen, State.rd_congr (h.regs hregs)]

/-- An operation that touches neither the map nor the fens, and writes outside the CUS block, leaves the view. -/
theorem Touches.fleetView_outside {ps : List Part} {ms : List Nat} (h : Touches ps s t) (hregs : SameOutside ms s.regs t.regs)
    (hmap : Part.map ∉ ps := by decide) (hfen : Part.fen ∉ ps := by decide) (hms : 0xB0 ∉ ms := by decide) :
    t.fleetView = s.fleetView :=
  fleetView_of_outside (congrArg (·.core.members) (h.map hmap)) (h.fen hfen) hregs hms

variable {v : FleetView}

theorem members_of_fleetView (h : s.fleetView = v) : s.map.core.members = v.members := congrArg FleetView.members h
theorem draining_of_fleetView (h : s.fleetView = v) : s.fen.draining = v.draining := congrArg FleetView.draining h
theorem retired_of_fleetView (h : s.fleetView = v) : s.fen.retired = v.retired := congrArg FleetView.retired h
theorem lastOp_of_fleetView (h : s.fleetView = v) : s.rd F.CUS_TASK_STAT_LAST_OP = v.lastOp := congrArg FleetView.lastOp h

/-- A member index whose record names a link is that link's (R108). -/
theorem memberLink_of_fleetView {f i l : Nat} (h : s.fleetView = v) (hl : v.members.find (32 * f + i) = some l) :
    memberLink s f i = l := by
  rw [memberLink, members_of_fleetView h, hl]

end

theorem eachOf_fleetView {α : Type} (l : List α) (f : α → State → State) (s : State) (h : ∀ a s, (f a s).fleetView = s.fleetView) :
    (eachOf l f s).fleetView = s.fleetView :=
  eachOf_invariant (P := fun t => t.fleetView = s.fleetView) (fun a _ t ht => (h a t).trans ht) rfl

/-- A write of a field outside the CUS block leaves the view. -/
theorem wr_fleetView (s : State) (f : Field) (v i : Nat) (hf : f.mib i ≠ 0xB0) : (s.wr f v i).fleetView = s.fleetView :=
  fleetView_of_outside (ms := [f.mib i]) rfl rfl (SameOutside.wr s f v i (List.mem_singleton_self _)) (by simpa using hf.symm)

theorem count_fleetView (s : State) (f : Field) (n i : Nat) (hf : f.mib i ≠ 0xB0) : (s.count f n i).fleetView = s.fleetView :=
  wr_fleetView s f _ i hf

/-- A change of the map that keeps the membership records leaves the view. -/
theorem withMap_fleetView (s : State) (m : MapState) (h : m.core.members = s.map.core.members) :
    { s with map := m }.fleetView = s.fleetView :=
  fleetView_of_outside h rfl (SameOutside.refl [] _)

/-! ### Blocks, stripes and the journal (R88, R91, R95, R182) -/

@[simp] theorem putBlock_fleetView (l b : Nat) (x : Block) (s : State) : (s.putBlock l b x).fleetView = s.fleetView :=
  withMap_fleetView _ _ rfl

@[simp] theorem blockProgrammed_fleetView (first : Bool) (l b : Nat) (s : State) :
    (blockProgrammed first l b s).fleetView = s.fleetView := putBlock_fleetView ..

@[simp] theorem wipeBlock_fleetView (l b : Nat) (s : State) : (wipeBlock l b s).fleetView = s.fleetView :=
  withMap_fleetView _ _ rfl

@[simp] theorem putStripe_fleetView (id : Nat) (e : Stripe) (s : State) : (putStripe id e s).fleetView = s.fleetView :=
  withMap_fleetView _ _ rfl

/-- A record that is no MEMBERSHIP record leaves the membership records. -/
theorem applyRec_members {r : JRec} (h : ∀ f i old new, r ≠ .membership f i old new) (c : MapCore) :
    (applyRec r c).members = c.members := by
  cases r with
  | membership f i old new => exact absurd rfl (h f i old new)
  | tractMap l t => simp only [applyRec]; (repeat' split) <;> rfl
  | stripeSet id e => simp only [applyRec]; split <;> rfl
  | slotSet id slot a => simp only [applyRec]; split <;> rfl
  | logUnits g a b n => simp only [applyRec]; split <;> rfl
  | _ => rfl

theorem journal_fleetView {r : JRec} (h : ∀ f i old new, r ≠ .membership f i old new) (s : State) :
    (journal r s).fleetView = s.fleetView :=
  fleetView_of_outside (applyRec_members h _) rfl (SameOutside.refl [] _)

/-- A MEMBERSHIP record gives a member index its link (R108). -/
theorem journal_membership_fleetView (f i old l : Nat) (s : State) : (journal (.membership f i old l) s).fleetView =
    { s.fleetView with members := s.map.core.members.put (32 * f + i) l } := rfl

@[simp] theorem journalStripe_fleetView (id : Nat) (s : State) : (journalStripe id s).fleetView = s.fleetView :=
  journal_fleetView (fun _ _ _ _ => by simp) s

@[simp] theorem setStripe_fleetView (id : Nat) (e : Stripe) (s : State) : (setStripe id e s).fleetView = s.fleetView := by
  unfold setStripe
  split
  · rfl
  · exact journal_fleetView (fun _ _ _ _ => by simp) s

theorem allocStripe_fleetView {s t : State} {f id : Nat} {slc : Bool} {l : List Nat} (h : allocStripe s f slc = some (id, l, t)) :
    t.fleetView = s.fleetView := by
  unfold allocStripe at h
  split at h
  · cases h
  · obtain ⟨-, -, rfl⟩ := by simpa using h
    exact eachOf_fleetView _ _ _ (fun _ _ => rfl)

theorem openStripe_fleetView {s : State} {f kind owner : Nat} {slc : Bool} {r : Nat × State}
    (h : openStripe f kind slc owner s = some r) : r.2.fleetView = s.fleetView := by
  obtain ⟨⟨id, l, t⟩, halloc, rfl⟩ := Option.map_eq_some_iff.mp h
  exact (putStripe_fleetView ..).trans (allocStripe_fleetView halloc)

theorem metaStripe_fleetView {s : State} {kind : Nat} {r : Nat × State} (h : metaStripe kind s = some r) :
    r.2.fleetView = s.fleetView := by
  unfold metaStripe metaStripeIn at h
  split at h
  · cases h
  · obtain ⟨q, hopen, rfl⟩ := Option.map_eq_some_iff.mp h
    exact (journalStripe_fleetView ..).trans (openStripe_fleetView hopen)

theorem metaStripes_fleetView {n kind : Nat} {s : State} {r : List Nat × State} (h : metaStripes n kind s = some r) :
    r.2.fleetView = s.fleetView := by
  induction n generalizing s r with
  | zero => obtain rfl := Option.some.inj h; rfl
  | succ n ih =>
    obtain ⟨q, hone, hrest⟩ := Option.bind_eq_some_iff.mp h
    obtain ⟨u, hmore, rfl⟩ := Option.map_eq_some_iff.mp hrest
    exact (ih hmore).trans (metaStripe_fleetView hone)

theorem journalOpen_fleetView {s : State} {r : Nat × State} (h : journalOpen s = some r) : r.2.fleetView = s.fleetView := by
  unfold journalOpen at h
  split at h
  · obtain rfl := Option.some.inj h; rfl
  · split at h
    · cases h
    · next id u hnext =>
      obtain ⟨q, hnew, rfl⟩ := Option.map_eq_some_iff.mp h
      refine (metaStripe_fleetView hnew).trans ?_
      split at hnext
      · obtain ⟨-, rfl⟩ := by simpa using hnext
        rfl
      · exact metaStripe_fleetView hnext

@[simp] theorem skipAbsent_fleetView (id : Nat) (s : State) : (skipAbsent id s).fleetView = s.fleetView := by
  unfold skipAbsent
  dsimp only
  split
  · rfl
  · exact setStripe_fleetView ..

@[simp] theorem storeWord_fleetView (id row slot w : Nat) (c : CodeWord) (s : State) :
    (storeWord id row slot w c s).fleetView = s.fleetView := by
  unfold storeWord
  split
  · rfl
  · split <;> rfl

@[simp] theorem putMeta_fleetView (id n payload seq index : Nat) (s : State) :
    (putMeta id n payload seq index s).fleetView = s.fleetView := storeWord_fleetView ..

@[simp] theorem putParity_fleetView (id row : Nat) (s : State) : (putParity id row s).fleetView = s.fleetView :=
  eachOf_fleetView _ _ _ (fun _ _ => eachOf_fleetView _ _ _ (fun _ _ => storeWord_fleetView ..))

@[simp] theorem writeJournalRow_fleetView (id row : Nat) (recs : List (Nat × JRec)) (s : State) :
    (writeJournalRow id row recs s).fleetView = s.fleetView := by
  unfold writeJournalRow
  dsimp only
  refine (putParity_fleetView ..).trans ((eachOf_fleetView _ _ _ (fun _ _ => putMeta_fleetView ..)).trans ?_)
  split
  · exact putMeta_fleetView ..
  · rfl

@[simp] theorem closeStripe_fleetView (id : Nat) (s : State) : (closeStripe id s).fleetView = s.fleetView := by
  unfold closeStripe
  split
  · rfl
  · refine eachOf_fleetView _ _ _ (fun a s => ?_)
    dsimp only
    split <;> rfl

@[simp] theorem setFrontier_fleetView (id n : Nat) (s : State) : (setFrontier id n s).fleetView = s.fleetView := by
  have hrows : ∀ first, (rowsProgrammed id first s).fleetView = s.fleetView := fun first =>
    eachOf_fleetView _ _ _ (fun i s => by split <;> rfl)
  unfold setFrontier
  dsimp only
  split
  · rfl
  · simp [hrows]

theorem releaseStripe_fleetView (id : Nat) (s : State) : (releaseStripe id s).fleetView = s.fleetView := by
  have hslots : ∀ f l, (releaseSlots f l s).fleetView = s.fleetView := fun f l =>
    eachOf_fleetView _ _ _ (fun a s => by
      dsimp only
      split
      · rfl
      · unfold freeBlock
        dsimp only
        split <;> rfl)
  exact (journal_fleetView (r := .stripeFree id) (fun _ _ _ _ => by simp) _).trans (hslots ..)

@[simp] theorem durableFirst_fleetView (n : Nat) (s : State) : (durableFirst n s).fleetView = s.fleetView := by
  have hwake : ∀ s, (wakeDurable s).fleetView = s.fleetView := fun s => (wakeDurable_touch s).fleetView
  have hdue : ∀ s, (releaseDue s).fleetView = s.fleetView := fun s => eachOf_fleetView _ _ _ (fun _ _ => releaseStripe_fleetView ..)
  exact (hwake _).trans (hdue _)

@[simp] theorem journalNote_fleetView (s : State) : (journalNote s).fleetView = s.fleetView := by
  have hckpt : (startCheckpoint s).fleetView = s.fleetView := by
    unfold startCheckpoint
    split
    · rfl
    · split
      · rfl
      · next ids u hnew =>
        exact (wr_fleetView u F.MAP_STATUS_CKPT_BUSY 1 0 (by decide)).trans (metaStripes_fleetView hnew)
  unfold journalNote
  split
  · exact hckpt
  · rfl

/-- A journal row is programmed (R95): the membership records stand as they did. -/
theorem programJournal_fleetView (s : State) : (programJournal true s).fleetView = s.fleetView := by
  unfold programJournal
  split
  · rfl
  · split
    · rfl
    · next id u hopen =>
      have hrow : ∀ row recs, (writeJournalRow id row recs (skipAbsent id u)).fleetView = s.fleetView := fun row recs =>
        (writeJournalRow_fleetView ..).trans ((skipAbsent_fleetView ..).trans (journalOpen_fleetView hopen))
      simp only [Bool.true_eq_false, if_false, journalNote_fleetView, durableFirst_fleetView, setFrontier_fleetView]
      generalize hw : writeJournalRow id _ _ (skipAbsent id u) = w
      exact (withMap_fleetView w _ rfl).trans (hw ▸ hrow _ _)

@[simp] theorem makeDurable_fleetView (s : State) : (makeDurable s).fleetView = s.fleetView := by
  have huntil : ∀ fuel j s, (programUntil fuel j s).fleetView = s.fleetView := by
    intro fuel j
    induction fuel with
    | zero => exact fun _ => rfl
    | succ fuel ih =>
      intro s
      unfold programUntil
      split
      · rfl
      · exact (ih _).trans (programJournal_fleetView s)
  exact huntil ..

/-! ### Anchors and witness groups (R148, R184) -/

/-- Pages programmed one after the other leave the view. -/
theorem eachOf_media_fleetView {α : Type} (l : List α) (media : α → State → Tab CodeWord) (s : State) :
    (eachOf l (fun a s => { s with map := { s.map with media := media a s } }) s).fleetView = s.fleetView :=
  eachOf_fleetView _ _ _ (fun _ _ => withMap_fleetView _ _ rfl)

theorem anchorPage_fleetView (v k : Nat) (s : State) : (anchorPage v k s).fleetView = s.fleetView := by
  unfold anchorPage
  dsimp only
  split
  · rfl
  · split <;> split <;> simp only [blockProgrammed_fleetView, putBlock_fleetView, eachOf_media_fleetView, wipeBlock_fleetView]

@[simp] theorem anchorWrite_fleetView (s : State) : (anchorWrite s).fleetView = s.fleetView :=
  (eachOf_fleetView _ _ _ (fun k s => anchorPage_fleetView _ k s)).trans (withMap_fleetView s _ rfl)

theorem witnessProgram_fleetView (l g : Nat) (s : State) : (witnessProgram l g s).fleetView = s.fleetView := by
  unfold witnessProgram
  split
  · rfl
  · simp only [blockProgrammed_fleetView]
    refine (eachOf_fleetView _ _ _ (fun _ _ => eachOf_media_fleetView ..)).trans ?_
    simp only [wipeBlock_fleetView, putBlock_fleetView]

@[simp] theorem witnessFirst_fleetView (l : Nat) (s : State) : (witnessFirst l s).fleetView = s.fleetView :=
  eachOf_fleetView _ _ _ (fun g s => witnessProgram_fleetView l g s)

/-! ### The Peat log, the fault summary and faults (R20, R531) -/

@[simp] theorem peatRecord_fleetView (code source arg aux : Nat) (s : State) :
    (peatRecord code source arg aux s).fleetView = s.fleetView :=
  (peatRecord_touch code source arg aux s).fleetView_outside (peatRecord_outside code source arg aux s)

@[simp] theorem glbRefresh_fleetView (s : State) : (glbRefresh s).fleetView = s.fleetView :=
  (glbRefresh_touch s).fleetView_outside (glbRefresh_outside s)

@[simp] theorem faultAbsorbed_fleetView (bit unit : Nat) (s : State) : (faultAbsorbed bit unit s).fleetView = s.fleetView :=
  (faultAbsorbed_touch bit unit s).fleetView_outside (faultAbsorbed_outside bit unit s)

@[simp] theorem faultRestored_fleetView (bit unit : Nat) (s : State) : (faultRestored bit unit s).fleetView = s.fleetView :=
  (faultRestored_touch bit unit s).fleetView_outside (faultRestored_outside bit unit s)

/-! ### Tolerance, benches and the dirty limit (R110, R126, R556, R567) -/

theorem SameOutside.wr_after {ms : List Nat} {r : Tab Nat} {s : State} (h : SameOutside ms r s.regs) (f : Field) (v i : Nat)
    (hf : f.mib i ∈ ms) : SameOutside ms r (s.wr f v i).regs := h.trans (.wr s f v i hf)

/-- The MiBs of the window in which the FEN events and the FEN_STATE of a fen lie. -/
def fenMibs (f : Nat) : List Nat := [0x110, F.FEN_STATE_BENCH.mib f]

/-- Re-evaluating one fen writes the fen's own FEN_STATE and FEN_EVT. -/
theorem fenRefreshOne_outside (f : Nat) (s : State) :
    SameOutside (fenMibs f) s.regs (fenRefreshOne f s).regs := by
  have hstate : ∀ {u : State} (x : Field) (v : Nat), x.base = F.FEN_STATE_BENCH.base → x.stride = F.FEN_STATE_BENCH.stride →
      x.lsb < 32 → SameOutside (fenMibs f) s.regs u.regs →
      SameOutside (fenMibs f) s.regs (u.wr x v f).regs := by
    intro u x v hbase hstride hlsb hu
    have hmib : x.mib f = F.FEN_STATE_BENCH.mib f := by
      simp only [Field.mib, Field.key, hbase, hstride, F.FEN_STATE_BENCH]
      omega
    exact hu.wr_after x v f (by simp [hmib, fenMibs])
  have hnotice : ∀ a b u, (benchNotice a b u).regs = u.regs := fun a b u => (benchNotice_touch a b u).regs (by decide)
  unfold fenRefreshOne
  dsimp only
  refine hstate F.FEN_STATE_EVACUATING _ rfl rfl (by decide) ?_
  rw [hnotice]
  have hrest : ∀ {u : State}, SameOutside (fenMibs f) s.regs u.regs → ∀ c : Prop, [Decidable c] →
      SameOutside (fenMibs f) s.regs (if c then u else u.wr F.FEN_EVT_BENCH_CHANGE 1).regs := by
    intro u hu c _
    split
    · exact hu
    · exact hu.wr_after _ _ _ (List.mem_cons_self ..)
  refine hrest ?_ _
  refine hstate F.FEN_STATE_DREDGE_HELD _ rfl rfl (by decide) ?_
  refine hstate F.FEN_STATE_BENCH _ rfl rfl (by decide) ?_
  refine hstate F.FEN_STATE_BOOSTED _ rfl rfl (by decide) ?_
  refine hstate F.FEN_STATE_REBUILDING _ rfl rfl (by decide) ?_
  refine hstate F.FEN_STATE_IN_SERVICE _ rfl rfl (by decide) ?_
  refine hstate F.FEN_STATE_EXCEEDED _ rfl rfl (by decide) ?_
  refine hstate F.FEN_STATE_TOLERANCE _ rfl rfl (by decide) ?_
  exact .refl _ _

/-- Of the fens' record, re-evaluating one fen changes its boost and its evacuation. -/
theorem fenRefreshOne_fen (f : Nat) (s : State) : ∃ boosted evac, (fenRefreshOne f s).fen =
    { s.fen with boosted := boosted, evac := evac } := by
  have hnotice : ∀ a b u, (benchNotice a b u).fen = u.fen := fun a b u => (benchNotice_touch a b u).fen (by decide)
  unfold fenRefreshOne
  dsimp only
  simp only [State.wrB, State.wr_fen, hnotice, apply_ite State.fen, ite_self]
  exact ⟨_, _, rfl⟩

theorem fenRefreshOne_fleetView (f : Nat) (s : State) : (fenRefreshOne f s).fleetView = s.fleetView := by
  obtain ⟨boosted, evac, hfen⟩ := fenRefreshOne_fen f s
  have hmap : (fenRefreshOne f s).map = s.map := (fenRefreshOne_touch f s).map (by decide)
  have hcus : 0xB0 ∉ fenMibs f := by
    simp [fenMibs, Field.mib, Field.key, F.FEN_STATE_BENCH]
    omega
  have hop := (fenRefreshOne_outside f s).rd F.CUS_TASK_STAT_LAST_OP 0 hcus
  simp only [State.fleetView, hfen, hmap, hop]

theorem bench5Note_outside (s : State) : SameOutside [0x110] s.regs (bench5Note s).regs := by
  unfold bench5Note
  split
  · exact ((eachOf_touch (ps := [.nvq, .out]) _ _ _ (fun _ _ => (aenPost_touch ..).mono (by decide))).regs (by decide)).symm ▸
      .wr _ F.FEN_EVT_BENCH_CHANGE 1 0 (by decide)
  · exact .refl _ _

@[simp] theorem fenRefresh_fleetView (s : State) : (fenRefresh s).fleetView = s.fleetView := by
  have hbench : ∀ s, (bench5Note s).fleetView = s.fleetView := fun s => by
    unfold bench5Note
    split
    · refine (eachOf_fleetView _ _ _ (fun _ _ => (aenPost_touch ..).fleetView)).trans ?_
      exact wr_fleetView { s with fen := { s.fen with bench5 := true } } F.FEN_EVT_BENCH_CHANGE 1 0 (by decide)
    · rfl
  exact (glbRefresh_fleetView _).trans ((hbench _).trans (eachOf_fleetView _ _ _ fenRefreshOne_fleetView))

/-- Re-evaluating the fens of a device of at most 16 writes the GLB and FEN blocks of the window. -/
theorem fenRefresh_outside {s : State} (hfens : fenCount s ≤ 16) : SameOutside [0, 0x110] s.regs (fenRefresh s).regs := by
  have hfens : SameOutside [0, 0x110] s.regs (eachOf (List.range (fenCount s)) fenRefreshOne s).regs := by
    refine eachOf_invariant (P := fun t => SameOutside [0, 0x110] s.regs t.regs) (fun f hf t ht => ht.trans ?_) (.refl _ _)
    have hlt : f < fenCount s := List.mem_range.mp hf
    have hmib : F.FEN_STATE_BENCH.mib f = 0x110 := by
      simp only [Field.mib, Field.key, F.FEN_STATE_BENCH]
      omega
    exact (fenRefreshOne_outside f t).mono (by simp [fenMibs, hmib])
  exact (hfens.trans ((bench5Note_outside _).mono (by simp))).trans ((glbRefresh_outside _).mono (by simp))

/-- Recomputing the dirty limit writes the PWR and MERE blocks of the window. -/
theorem limitNote_outside (s : State) : SameOutside [4, 0x50] s.regs (limitNote s).regs := by
  unfold limitNote
  split
  · exact .refl _ _
  · have hlimits : ∀ a b c, SameOutside [4, 0x50] s.regs
        (((s.wr F.PWR_STAT_EFF_LIMIT a).wr F.MERE_DIRTY_LIMIT b).wr F.PWR_TFLUSH_US c).regs := fun a b c =>
      ((((SameOutside.refl _ _).wr_after F.PWR_STAT_EFF_LIMIT a 0 (by decide)).wr_after F.MERE_DIRTY_LIMIT b 0
        (by decide)).wr_after F.PWR_TFLUSH_US c 0 (by decide))
    dsimp only
    split
    · exact (hlimits _ _ _).wr_after F.PWR_EVT_LIMIT_CUT 1 0 (by decide)
    · exact hlimits _ _ _

@[simp] theorem limitNote_fleetView (s : State) : (limitNote s).fleetView = s.fleetView :=
  (limitNote_touch s).fleetView_outside (limitNote_outside s)

@[simp] theorem reserveNote_fleetView (s : State) : (reserveNote s).fleetView = s.fleetView :=
  (limitNote_fleetView _).trans (wr_fleetView s F.PWR_STAT_RESERVE_OK _ 0 (by decide))

/-! ### Units lost, and the Mere's words and stacks (R121, R307, R313, R314, R318 to R322) -/

/-- A unit that is declared lost leaves the view (R121). -/
theorem declareUnitLost_fleetView (ltn u : Nat) (s : State) : (declareUnitLost ltn u s).fleetView = s.fleetView := by
  have hhealth : ∀ k n s, (healthAdd k n s).fleetView = s.fleetView := fun k n s => (healthAdd_touch k n s).fleetView
  have hcount : ∀ s : State, ((s.count F.FEN_LOST_CNT_COUNT 1).wr F.FEN_EVT_LOST_DECLARED 1).fleetView = s.fleetView := fun s =>
    (wr_fleetView _ _ _ _ (by decide)).trans (count_fleetView _ _ _ _ (by decide))
  have howner : ∀ (o : Option Nat) (s : State),
      (match o with | some f => healthAdd (200 + f) 1 s | none => s).fleetView = s.fleetView := by
    rintro (_ | f) s
    · rfl
    · exact hhealth ..
  have hentered := (hhealth 3 1 _).trans ((hcount _).trans
    (journal_fleetView (r := .lostRange { ltn := ltn, off := 8 * u, len := 8 }) (fun _ _ _ _ => by simp) s))
  unfold declareUnitLost declareLost
  dsimp only
  split
  · exact (howner _ _).trans hentered
  · refine (eachOf_fleetView _ _ _ (fun _ _ => (aenPost_touch ..).fleetView)).trans ?_
    exact (howner _ _).trans hentered

theorem carryReport_fleetView (n : Nat) (s : State) : (carryReport n s).fleetView = s.fleetView := by
  have herror : ∀ c l (g : HostKey × Nat × Nat × Nat → Nat × Nat × Nat × Nat × Nat × Nat) (s : State),
    (eachOf l (fun e s => errorLog c (g e) s) s).fleetView = s.fleetView := fun c l g s =>
    eachOf_fleetView _ _ _ (fun _ _ => (errorLog_touch ..).fleetView)
  unfold carryReport
  split
  · rfl
  · split
    · rfl
    · refine (finishCmd_touch ..).fleetView.trans ((count_fleetView _ _ _ _ (by decide)).trans ((herror ..).trans rfl))

theorem fenceLoss_fleetView (k : Nat) (s : State) : (fenceLoss k s).fleetView = s.fleetView := by
  have hpiece : ∀ p s, (placePiece p (reloadPiece p s)).fleetView = s.fleetView := by
    intro p s
    have hplace : ∀ s, (placePiece p s).fleetView = s.fleetView := fun s => by
      unfold placePiece
      split
      · rfl
      · split
        · rfl
        · exact withMap_fleetView _ _ rfl
    have hreload : (reloadPiece p s).fleetView = s.fleetView := by
      unfold reloadPiece
      split
      · rfl
      · exact withMap_fleetView _ _ rfl
    exact (hplace _).trans hreload
  have hdrop : (dropStack k s).fleetView = s.fleetView := fleetView_of_outside rfl rfl (SameOutside.refl [] _)
  unfold fenceLoss
  dsimp only
  refine (eachOf_fleetView _ _ _ (fun _ _ => carryReport_fleetView ..)).trans ?_
  refine (eachOf_fleetView _ _ _ (fun _ _ => declareUnitLost_fleetView ..)).trans ?_
  refine (eachOf_fleetView _ _ _ hpiece).trans ?_
  exact (withMap_fleetView _ _ rfl).trans hdrop

theorem withMere_fleetView (s : State) (m : MereState) : { s with mere := m }.fleetView = s.fleetView := (rfl)

/-- A write of a field that one of the eight stacks has in the MERE block leaves the view. -/
theorem wr_stack_fleetView {k : Nat} (hk : k < 8) (x : Field) (hbase : x.base / 512 = 0x5000000 / 512) (hstride : x.stride = 4)
    (hlsb : x.lsb < 32) (v : Nat) (s : State) : (s.wr x v k).fleetView = s.fleetView := by
  refine wr_fleetView s x v k ?_
  simp only [Field.mib, Field.key, hstride]
  omega

section
variable {k : Nat} (hk : k < 8)
include hk

theorem fenceMark_fleetView (cause : Nat) (s : State) : (fenceMark k cause s).fleetView = s.fleetView := by
  have hstat : ((((s.wr F.MERE_STAT_FENCE_CAUSE cause k).wr F.MERE_STAT_IN_SERVICE 0 k).wr F.MERE_STAT_PARKED 0 k)).fleetView =
      s.fleetView :=
    (wr_stack_fleetView hk F.MERE_STAT_PARKED rfl rfl (by decide) _ _).trans ((wr_stack_fleetView hk F.MERE_STAT_IN_SERVICE rfl rfl
      (by decide) _ _).trans (wr_stack_fleetView hk F.MERE_STAT_FENCE_CAUSE rfl rfl (by decide) _ _))
  unfold fenceMark
  refine (wr_fleetView _ F.MERE_EVT_FENCED _ 0 (by decide)).trans ?_
  split
  · exact (wr_stack_fleetView hk F.MERE_STAT_CHK_PASS rfl rfl (by decide) _ _).trans hstat
  · split
    · exact (wr_stack_fleetView hk F.MERE_STAT_TRAIN_PASS rfl rfl (by decide) _ _).trans hstat
    · exact hstat

/-- A stack's fence leaves the view (R320 to R322). -/
theorem fenceStack_fleetView (cause : Nat) (s : State) : (fenceStack k cause s).fleetView = s.fleetView := by
  have hloss := (faultAbsorbed_fleetView bitStack k _).trans ((fenceLoss_fleetView k _).trans (fenceMark_fleetView hk cause s))
  unfold fenceStack
  split
  · rfl
  · dsimp only
    split
    · exact hloss
    · exact (glbRefresh_fleetView _).trans ((withMere_fleetView _ _).trans hloss)

/-- A word that was corrected fills its stack's bucket, and may fence the stack (R318, R319): the view stands. -/
theorem corrected_fleetView (s : State) : (corrected k s).fleetView = s.fleetView := by
  have hlevel : ∀ v (s : State), (s.wr F.MERE_BKT_LEVEL v k).fleetView = s.fleetView :=
    wr_stack_fleetView hk F.MERE_BKT_LEVEL rfl rfl (by decide)
  have hcount : (s.count F.MERE_CNT_CORR_COUNT 1 k).fleetView = s.fleetView :=
    wr_stack_fleetView hk F.MERE_CNT_CORR_COUNT rfl rfl (by decide) _ _
  have hover : ∀ s : State, ((s.wrBit F.MERE_EVT_BUCKET k true).count F.MERE_BKT_OVF_24H 1 k).fleetView = s.fleetView := fun s =>
    (wr_stack_fleetView hk F.MERE_BKT_OVF_24H rfl rfl (by decide) _ _).trans (wr_fleetView s F.MERE_EVT_BUCKET _ 0 (by decide))
  unfold corrected
  dsimp only
  split
  · exact (hlevel ..).trans hcount
  · split
    · exact (hlevel ..).trans hcount
    · split
      · exact (fenceStack_fleetView hk 5 _).trans ((hover _).trans ((withMere_fleetView _ _).trans ((hlevel ..).trans hcount)))
      · exact (hover _).trans ((withMere_fleetView _ _).trans ((hlevel ..).trans hcount))

end

/-- The counts and events of a checked word leave the view (R307). -/
theorem noteCheck_fleetView (a : Nat) (c : WordCheck) (s : State) : (noteCheck a c s).fleetView = s.fleetView := by
  have hk : mereStack a < 8 := Nat.mod_lt _ (by decide)
  have hcorrected : ∀ cor : Bool, (if cor then corrected (mereStack a) s else s).fleetView = s.fleetView := by
    rintro (_ | _)
    · rfl
    · exact corrected_fleetView hk s
  unfold noteCheck
  cases c with
  | good _ cor => exact hcorrected cor
  | poisoned _ cor => exact hcorrected cor
  | uncorrectable _ addr =>
    have hunc : ((s.count F.MERE_CNT_UNC_COUNT 1 (mereStack a)).wrBit F.MERE_EVT_UNC (mereStack a) true).fleetView = s.fleetView :=
      (wr_fleetView _ F.MERE_EVT_UNC _ 0 (by decide)).trans
        (wr_stack_fleetView hk F.MERE_CNT_UNC_COUNT rfl rfl (by decide) _ _)
    dsimp only
    split
    · exact (wr_stack_fleetView hk F.MERE_CNT_ADDR_COUNT rfl rfl (by decide) _ _).trans hunc
    · exact hunc

theorem partialOne_fleetView (a o n v : Nat) (s : State) : (partialOne a o n v s).2.fleetView = s.fleetView := by
  have hput : ∀ d p s, (putWord a d p s).fleetView = s.fleetView := fun d p s => withMere_fleetView s _
  have hpoison : ∀ s : State, (s.count F.MERE_CNT_POISON_COUNT 1 (mereStack a)).fleetView = s.fleetView := fun s =>
    wr_stack_fleetView (Nat.mod_lt _ (by decide)) F.MERE_CNT_POISON_COUNT rfl rfl (by decide) _ _
  unfold partialOne
  split
  · exact (hput ..).trans (validate_touch a s).fleetView
  · dsimp only
    split
    · exact (hput ..).trans (noteCheck_fleetView ..)
    · exact (hpoison _).trans ((hput ..).trans (noteCheck_fleetView ..))
    · rw [peatRecord_fleetView]
      exact (hpoison _).trans ((hput ..).trans (noteCheck_fleetView ..))

/-! ### Descriptors and links (R224, R235, R259, R274, R276) -/

/-- A descriptor's write-back to its ring leaves the view (R224). -/
theorem hewWriteBack_fleetView (n : Nat) (h : Held) (busy endTime : Nat) (s : State) :
    (hewWriteBack n h busy endTime s).fleetView = s.fleetView := by
  have hword : ∀ {a o m v : Nat}, m ≠ 32 → ∀ s, (writeWordAt a none o m v s).2.fleetView = s.fleetView := by
    intro a o m v hm s
    rw [writeWordAt, if_neg hm]
    exact partialOne_fleetView ..
  unfold hewWriteBack
  dsimp only
  split
  · rfl
  · exact (hword (by decide) _).trans (hword (by decide) _)

/-- A write of a field of the HEW and SEAM blocks, where each link has its own, leaves the view. -/
theorem wr_link_fleetView (x : Field) (hbase : 0x14000000 ≤ x.base) (v l : Nat) (s : State) : (s.wr x v l).fleetView = s.fleetView := by
  refine wr_fleetView s x v l ?_
  simp only [Field.mib, Field.key]
  omega

@[simp] theorem seamSet_fleetView (l st : Nat) (s : State) : (seamSet l st s).fleetView = s.fleetView :=
  (wr_link_fleetView F.SEAM_GRP_STAT_ACTIVE (by decide) _ _ _).trans (wr_link_fleetView F.SEAM_STAT_STATE (by decide) _ _ _)

/-- A descriptor that ends with EPOCH (status 0x43) says nothing about blocks, dies or members: it is logged at most (R235, R259). -/
theorem hewResolve_epoch_fleetView (n : Nat) {h : Held} (hstatus : h.status = 0x43) (s : State) :
    (hewResolve n h s).fleetView = s.fleetView := by
  simp only [hewResolve, hstatus]
  by_cases hcal : h.opcode = 0x20
  · simp [hcal]
  · simp [hcal]

theorem hewComplete_epoch_fleetView (n k busy endTime : Nat) {h : Held} (hstatus : h.status = 0x43) (s : State) :
    (hewComplete n k busy endTime h s).fleetView = s.fleetView := by
  have hdel : ∀ s : State, (s.delHeld n k).fleetView = s.fleetView := fun s => (delHeld_touch s n k).fleetView
  have hnote : ∀ s, (hewNote n s).fleetView = s.fleetView := fun s =>
    (wr_link_fleetView F.HEW_STAT_SUSPENDED (by decide) ..).trans (wr_link_fleetView F.HEW_RING_HEAD_INFLIGHT (by decide) ..)
  have hdie : ∀ us s, (chargeDie n h.die h.cls us s).fleetView = s.fleetView := fun us s => (chargeDie_touch ..).fleetView
  have hlink : ∀ b s, (chargeLink n h.cls b s).fleetView = s.fleetView := fun b s => (chargeLink_touch ..).fleetView
  have hdone : ∀ s : State, (s.wr F.HEW_EVT_DONE 1 n).fleetView = s.fleetView := wr_link_fleetView _ (by decide) 1 n
  have herror : ∀ s : State, (s.wr F.HEW_EVT_ERROR 1 n).fleetView = s.fleetView := wr_link_fleetView _ (by decide) 1 n
  unfold hewComplete
  rw [hewResolve_epoch_fleetView n hstatus]
  simp only [hstatus, Nat.reduceEqDiff, if_false, herror, apply_ite State.fleetView, hdone, hlink, hdie, hnote, hdel,
    hewWriteBack_fleetView, ite_self]

/-- Descriptors held across a commit end with EPOCH (R259): the view stands. -/
theorem adoptEpoch_fleetView (l : Nat) (s : State) : (adoptEpoch l s).fleetView = s.fleetView := by
  refine eachOf_fleetView _ _ _ (fun e s => ?_)
  split
  · unfold hewEnd
    split
    · rfl
    · exact (hewComplete_epoch_fleetView _ _ _ _ rfl _).trans (drawn_touch s).fleetView
  · rfl

/-- A member whose fault is restored stands where it stood (R31, R32). -/
theorem memberWell_fleetView (l : Nat) (s : State) : (memberWell l s).fleetView = s.fleetView := by
  have hgroups : ∀ s, (groupsNote s).fleetView = s.fleetView := fun s =>
    eachOf_fleetView _ _ _ (fun g s => (faultRestored_fleetView ..).trans rfl)
  unfold memberWell
  rw [hgroups]
  split
  · exact (faultRestored_fleetView ..).trans rfl
  · rfl

@[simp] theorem memberBack_fleetView (l : Nat) (s : State) : (memberBack l s).fleetView = s.fleetView := by
  unfold memberBack
  split
  · exact (fenRefresh_fleetView _).trans ((memberWell_fleetView ..).trans rfl)
  · rfl

/-- A link that reaches ACTIVE leaves membership, drains and retirements (R274, R276). -/
@[simp] theorem linkActive_fleetView (l : Nat) (s : State) : (linkActive l s).fleetView = s.fleetView := by
  have hback : (memberBack l (adoptEpoch l (seamSet l 6 s))).fleetView = s.fleetView :=
    (memberBack_fleetView ..).trans ((adoptEpoch_fleetView ..).trans (seamSet_fleetView ..))
  have hrun : ∀ v (s : State), (s.wr F.HEW_STAT_STATE v l).fleetView = s.fleetView := fun v s => wr_link_fleetView _ (by decide) v l s
  have hsend : ∀ s, (sendPacket l 0x30 0 0x80 s).fleetView = s.fleetView := fun s =>
    ((emit_touch ..).fleetView).trans (wr_link_fleetView F.SEAM_CREDIT_CTL (by decide) _ l s)
  unfold linkActive
  rw [limitNote_fleetView]
  simp only [apply_ite State.fleetView, hsend, hrun, hback, ite_self]

end Sys2Proof.Machine
end

section
/-! Custodian tasks on members (R122, R124, R290, R291): drains and hot-adds, and the statement on all the fleet's tasks. -/

namespace Sys2Proof.Machine

open Sys2Proof

/-! ### Drains, hot-adds and the tasks on members -/

theorem startDrain_fleetView (l : Nat) (s : State) :
    (startDrain l s).fleetView = { s.fleetView with draining := addNew l s.fen.draining } := fenRefresh_fleetView _

/-- A member that takes an index holds it, and its link is not retired (R124). -/
theorem addMember_fleetView (l f i : Nat) (cal : CalRow) (s : State) : (addMember l f i cal s).fleetView =
    { s.fleetView with members := s.map.core.members.put (32 * f + i) l
                       retired := dropOne l (dropOne (memberLink s f i) s.fen.retired) } := by
  have hsafe : ∀ s : State, (s.wr F.SEAM_STAT_SAFE_REMOVE 0 l).fleetView = s.fleetView := wr_link_fleetView _ (by decide) 0 l
  have hdurable := (makeDurable_fleetView _).trans (journal_membership_fleetView f i (memberLink s f i) l s)
  unfold addMember
  simp only [reserveNote_fleetView, fenRefresh_fleetView, anchorWrite_fleetView, witnessFirst_fleetView, linkActive_fleetView, hsafe]
  generalize makeDurable (journal (.membership f i (memberLink s f i) l) s) = t at hdurable
  change { t.fleetView with retired := dropOne l (dropOne (memberLink s f i) t.fleetView.retired) } = _
  rw [hdurable]
  rfl

theorem not_mem_dropOne_self {α : Type} [DecidableEq α] (x : α) (l : List α) : x ∉ dropOne x l := by
  simp [dropOne]

section
variable (op : Nat) (s : State)

@[simp] theorem taskStarted_fenCount : fenCount (taskStarted op s) = fenCount s := (rfl)
@[simp] theorem taskStarted_memberLink (f i : Nat) : memberLink (taskStarted op s) f i = memberLink s f i := (rfl)
@[simp] theorem taskStarted_inService (f i : Nat) : inService (taskStarted op s) f i = inService s f i := (rfl)
@[simp] theorem taskStarted_fenDrains (f : Nat) : fenDrains (taskStarted op s) f = fenDrains s f := (rfl)
@[simp] theorem taskStarted_indexOut (f i : Nat) : indexOut (taskStarted op s) f i = indexOut s f i := (rfl)
@[simp] theorem taskStarted_indexFree (f i : Nat) : indexFree (taskStarted op s) f i = indexFree s f i := (rfl)
@[simp] theorem taskStarted_hotaddRefused (f : Nat) (cal : CalRow) (good : Bool) :
    hotaddRefused (taskStarted op s) f cal good = hotaddRefused s f cal good := (rfl)

end

section
variable {s : State} (hready : TaskReady s)
include hready

/-- R122: a member in service of a fen that does not drain starts its drain. -/
theorem memberRetire_answers (hf : argOf s 0 < fenCount s) (hi : argOf s 1 < 32) (hin : inService s (argOf s 0) (argOf s 1) = true)
    (hdrain : fenDrains s (argOf s 0) = false) : Answers .memberRetire s fun t =>
      TaskEnds t 0x30 0 0 ∧ memberLink s (argOf s 0) (argOf s 1) ∈ t.fen.draining := by
  refine answers_of_task (op := 0x30) (body := taskMemberRetire) rfl hready ?_
  have hrange : ¬(fenCount s ≤ argOf s 0 ∨ 32 ≤ argOf s 1) := by omega
  have hview := startDrain_fleetView (memberLink s (argOf s 0) (argOf s 1)) (taskStarted 0x30 s)
  simp only [taskMemberRetire, taskStarted_argOf, taskStarted_fenCount, taskStarted_inService, taskStarted_fenDrains,
    taskStarted_memberLink, if_neg hrange, hin, hdrain, Bool.true_eq_false, Bool.false_eq_true, or_self, if_false]
  have hop := (lastOp_of_fleetView hview).trans (taskStarted_lastOp 0x30 s)
  refine ⟨taskEnd_ends hop (by decide) (by decide), ?_⟩
  rw [taskEnd_fen, draining_of_fleetView hview]
  exact mem_addNew_self ..

/-- R122, R123: no second drain in a fen, and none of a member out of service. -/
theorem memberRetire_refused (hf : argOf s 0 < fenCount s) (hi : argOf s 1 < 32)
    (hno : inService s (argOf s 0) (argOf s 1) = false ∨ fenDrains s (argOf s 0) = true) :
    Answers .memberRetire s fun t => TaskEnds t 0x30 7 0 ∧ t.fen = s.fen := by
  refine answers_of_task (op := 0x30) (body := taskMemberRetire) rfl hready ?_
  have hrange : ¬(fenCount s ≤ argOf s 0 ∨ 32 ≤ argOf s 1) := by omega
  simp only [taskMemberRetire, taskStarted_argOf, taskStarted_fenCount, taskStarted_inService, taskStarted_fenDrains,
    if_neg hrange, if_pos hno]
  exact ⟨taskEnd_started (by decide) (by decide) (by decide), (taskEnd_fen ..).trans (taskStarted_fen ..)⟩

/-- R124, R290: a member HELD on its link takes an index that is out and free. -/
theorem memberHotadd_answers {cal : CalRow} {good : Bool} (hl : argOf s 0 < 512) (hf : argOf s 1 < fenCount s) (hi : argOf s 2 < 32)
    (hheld : seamState s (argOf s 0) = 10) (hout : indexOut s (argOf s 1) (argOf s 2) = true)
    (hfree : indexFree s (argOf s 1) (argOf s 2) = true) (hgood : hotaddRefused s (argOf s 1) cal good = false) :
    Answers (.memberHotadd cal good) s fun t => TaskEnds t 0x31 0 0 ∧ memberLink t (argOf s 1) (argOf s 2) = argOf s 0 ∧
      argOf s 0 ∉ t.fen.retired := by
  refine answers_of_task (op := 0x31) (body := taskMemberHotadd cal good) rfl hready ?_
  have hrange : ¬(512 ≤ argOf s 0 ∨ fenCount s ≤ argOf s 1 ∨ 32 ≤ argOf s 2) := by omega
  have hview := addMember_fleetView (argOf s 0) (argOf s 1) (argOf s 2) cal (taskStarted 0x31 s)
  simp only [taskMemberHotadd, taskStarted_argOf, taskStarted_fenCount, taskStarted_seamState, taskStarted_indexOut,
    taskStarted_indexFree, taskStarted_hotaddRefused, if_neg hrange, hheld, hout, hfree, hgood, ne_eq, not_true_eq_false,
    Bool.true_eq_false, Bool.false_eq_true, or_self, if_false]
  have hop := (lastOp_of_fleetView hview).trans (taskStarted_lastOp 0x31 s)
  refine ⟨taskEnd_ends hop (by decide) (by decide), ?_, ?_⟩
  · rw [memberLink, taskEnd_map, members_of_fleetView hview, Tab.find_put_same]
  · rw [taskEnd_fen, retired_of_fleetView hview]
    exact not_mem_dropOne_self (argOf s 0) _

/-- R290: a link that is not HELD has no member to add. -/
theorem memberHotadd_refused {cal : CalRow} {good : Bool} (hl : argOf s 0 < 512) (hf : argOf s 1 < fenCount s) (hi : argOf s 2 < 32)
    (hheld : seamState s (argOf s 0) ≠ 10) :
    Answers (.memberHotadd cal good) s fun t => TaskEnds t 0x31 7 1 ∧ t.map = s.map := by
  refine answers_of_task (op := 0x31) (body := taskMemberHotadd cal good) rfl hready ?_
  have hrange : ¬(512 ≤ argOf s 0 ∨ fenCount s ≤ argOf s 1 ∨ 32 ≤ argOf s 2) := by omega
  simp only [taskMemberHotadd, taskStarted_argOf, taskStarted_fenCount, taskStarted_seamState, if_neg hrange, if_pos hheld]
  exact ⟨taskEnd_started (by decide) (by decide) (by decide), (taskEnd_map ..).trans (taskStarted_map ..)⟩

end

/-! ### The end of a drain (R122, R291) -/

/-- The member index `k` holds no member any more: its link, which drained, is retired (R124). -/
def drainedMember (k l : Nat) (s : State) : State :=
  let s := makeDurable (journal (.membership (k / 32) (k % 32) l 0xFFFF) s)
  { s with fen := { s.fen with draining := dropOne l s.fen.draining, retired := addNew l s.fen.retired } }

theorem drainedMember_cfg (k l : Nat) (s : State) : (drainedMember k l s).cfg = s.cfg :=
  ((makeDurable_touch _).cfg (by decide)).trans ((journal_touch ..).cfg (by decide))

theorem drainedMember_fleetView (k l : Nat) (s : State) : (drainedMember k l s).fleetView =
    { members := s.map.core.members.put (32 * (k / 32) + k % 32) 0xFFFF
      draining := dropOne l s.fen.draining
      retired := addNew l s.fen.retired
      lastOp := s.fleetView.lastOp } := by
  have hdurable := (makeDurable_fleetView _).trans (journal_membership_fleetView (k / 32) (k % 32) l 0xFFFF s)
  unfold drainedMember
  generalize makeDurable (journal (.membership (k / 32) (k % 32) l 0xFFFF) s) = t at hdurable
  change { t.fleetView with draining := dropOne l t.fleetView.draining, retired := addNew l t.fleetView.retired } = _
  rw [hdurable]
  rfl

/-- The link of a member whose drain is done: PARK has been sent, its lane is off, and it may be removed (R291). -/
def drainedLink (l : Nat) (s : State) : State :=
  ((seamSet l 0 (s.emit (.orderedSet l 0xF5))).wr F.SEAM_STAT_SAFE_REMOVE 1 l).wr F.HEW_STAT_STATE 0 l

theorem drainedLink_cfg (l : Nat) (s : State) : (drainedLink l s).cfg = s.cfg := by
  rw [drainedLink, State.wr_cfg, State.wr_cfg, (seamSet_touch l 0 _).cfg (by decide), State.emit_cfg]

theorem drainedLink_fleetView (l : Nat) (s : State) : (drainedLink l s).fleetView = s.fleetView :=
  (wr_link_fleetView _ (by decide) 0 l _).trans ((wr_link_fleetView _ (by decide) 1 l _).trans
    ((seamSet_fleetView ..).trans (emit_touch ..).fleetView))

/-- The link reads DISABLED and SAFE_REMOVE (R291). -/
theorem drainedLink_rd (l : Nat) (s : State) :
    (drainedLink l s).rd F.SEAM_STAT_SAFE_REMOVE l = 1 ∧ (drainedLink l s).rd F.SEAM_STAT_STATE l = 0 := by
  have hsafe : F.HEW_STAT_STATE.key l ≠ F.SEAM_STAT_SAFE_REMOVE.key l := by
    simp only [Field.key, F.HEW_STAT_STATE, F.SEAM_STAT_SAFE_REMOVE]; omega
  have hhew : F.HEW_STAT_STATE.key l ≠ F.SEAM_STAT_STATE.key l := by
    simp only [Field.key, F.HEW_STAT_STATE, F.SEAM_STAT_STATE]; omega
  have hbits : F.SEAM_STAT_SAFE_REMOVE.key l ≠ F.SEAM_STAT_STATE.key l := by
    simp only [Field.key, F.SEAM_STAT_SAFE_REMOVE, F.SEAM_STAT_STATE]; omega
  have hgroup : ∀ g, F.SEAM_GRP_STAT_ACTIVE.key g ≠ F.SEAM_STAT_STATE.key l := fun g => by
    simp only [Field.key, F.SEAM_GRP_STAT_ACTIVE, F.SEAM_STAT_STATE]; omega
  constructor
  · rw [drainedLink, State.rd_wr_ne (h := hsafe)]
    exact State.rd_wr_same ..
  · rw [drainedLink, State.rd_wr_ne (h := hhew), State.rd_wr_ne (h := hbits), seamSet, State.rd_wr_ne (h := hgroup _)]
    exact State.rd_wr_same ..

/-- What follows the end of a drain leaves the link's registers. -/
theorem drainNote_rd {s : State} (hfens : fenCount s ≤ 16) {l : Nat} (hl : l < 512) (x : Field) (hbase : x.base = 0x18000004)
    (hstride : x.stride = 0x2000) (hlsb : x.lsb < 32) : (limitNote (fenRefresh s)).rd x l = s.rd x l := by
  have hmib : x.mib l ∉ [0, 0x110] ++ [4, 0x50] := by
    simp [Field.mib, Field.key, hbase, hstride]
    omega
  exact (((fenRefresh_outside hfens).mono (by simp)).trans ((limitNote_outside _).mono (by simp))).rd x l hmib

/-- R122, R291: the last slot of a draining member has gone, so its index holds no member and its link may be removed. -/
theorem drainDone_answers {s : State} {l : Link} {k : Nat} (hfens : fenCount s ≤ 16) (hmember : linkMember s l.val = some k)
    (hdrain : l.val ∈ s.fen.draining) (hfree : indexFree s (k / 32) (k % 32) = true) :
    Answers (.drainDone l) s fun t => memberLink t (k / 32) (k % 32) = 0xFFFF ∧ l.val ∉ t.fen.draining ∧ l.val ∈ t.fen.retired ∧
      t.rd F.SEAM_STAT_SAFE_REMOVE l.val = 1 ∧ t.rd F.SEAM_STAT_STATE l.val = 0 := by
  have hmember' : linkMember s.begin l.val = some k := hmember
  have hunnamed : linkUnnamed s.begin l.val = true := by
    rw [linkUnnamed, hmember']
    exact hfree
  have hgo : ¬(l.val ∉ s.begin.fen.draining ∨ linkUnnamed s.begin l.val = false) := by
    simpa [hunnamed] using hdrain
  have hexec : exec (.drainDone l) s = .next (limitNote (fenRefresh (drainedLink l.val (drainedMember k l.val s.begin)))) := by
    change execDrainDone l s = _
    simp only [execDrainDone, hmember', if_neg hgo]
    rfl
  have hview := (limitNote_fleetView _).trans ((fenRefresh_fleetView _).trans
    ((drainedLink_fleetView l.val _).trans (drainedMember_fleetView k l.val s.begin)))
  have hfens' : fenCount (drainedLink l.val (drainedMember k l.val s.begin)) ≤ 16 := by
    have hcfg : (drainedLink l.val (drainedMember k l.val s.begin)).cfg = s.begin.cfg :=
      (drainedLink_cfg ..).trans (drainedMember_cfg ..)
    rw [fenCount, State.image, hcfg]
    exact hfens
  obtain ⟨hsafe, hstate⟩ := drainedLink_rd l.val (drainedMember k l.val s.begin)
  refine ⟨_, hexec, memberLink_of_fleetView hview Tab.find_put_same, ?_, ?_, ?_, ?_⟩
  · rw [draining_of_fleetView hview]
    exact not_mem_dropOne_self l.val _
  · rw [retired_of_fleetView hview]
    exact mem_addNew_self ..
  · exact (drainNote_rd hfens' l.isLt F.SEAM_STAT_SAFE_REMOVE rfl rfl (by decide)).trans hsafe
  · exact (drainNote_rd hfens' l.isLt F.SEAM_STAT_STATE rfl rfl (by decide)).trans hstate

/-- Settles O48: clause by clause, from what each task does. -/
theorem fleetTasks : Obligations.FleetTasks :=
  ⟨fun _ _ hready hf hi => ⟨memberRetire_answers hready hf hi, memberRetire_refused hready hf hi⟩,
    fun _ _ _ _ hready hl hf hi => ⟨memberHotadd_answers hready hl hf hi, memberHotadd_refused hready hl hf hi⟩,
    fun _ _ _ hfens => drainDone_answers hfens,
    fun ok _ hready hk => ⟨fun _ => peerSet_answers hready ok hk, peerSet_deletion_answers hready ok hk⟩,
    fun _ _ hready => chainStart_answers hready, fun _ _ _ _ hready => migExport_answers hready,
    fun _ _ _ hready => migImport_answers hready, fun _ _ _ _ hready => migFreeze_answers hready⟩

end Sys2Proof.Machine
end

section
/-! What a completion status of the member does to a hewer's descriptor (R281, R282, R294). -/

namespace Sys2Proof.Machine

open Sys2Proof

/-- A descriptor after a completion status of its member: it has ended with status `r`, and a suspend that never took effect
is not counted. -/
def Held.answered (h : Held) (st detail r : Nat) : Held :=
  { h with ended := true, status := r, detail := if r = 0 then 0 else detail, member := st, suspended := false
           suspends := h.suspendsHeld }

@[simp] theorem hewNote_held? (m n k : Nat) (s : State) : (hewNote m s).held? n k = s.held? n k := rfl

/-- A completion status ends the operation that it is for. -/
theorem memberAnswer_held? {s : State} {n k st detail r : Nat} {h : Held} (hheld : s.held? n k = some h) (hsent : h.sent = true)
    (hended : h.ended = false) (hr : memberStatus st detail = some r) :
    (memberAnswer n k st detail s).held? n k = some (h.answered st detail r) := by
  have hgo : ¬(h.sent = false ∨ h.ended = true) := by simp [hsent, hended]
  unfold memberAnswer
  rw [hheld]
  simp only [if_neg hgo, hr]
  exact State.putHeld_held ..

/-- COMPLETION with a completion status ends the operation that its tag names. -/
theorem completion_answers {s : State} {l : Link} {a st : BitVec 8} {detail : BitVec 16} {r : Nat} {h : Held}
    (ha : a.toNat < 128) (hheld : s.held? l.val a.toNat = some h) (hsent : h.sent = true) (hended : h.ended = false)
    (hr : memberStatus st.toNat detail.toNat = some r) :
    Answers (.completion l a st detail) s fun t => t.held? l.val a.toNat = some (h.answered st.toNat detail.toNat r) := by
  have hfreed : (freeRsp l.val s.begin).held? l.val a.toNat = some h := hheld
  refine ⟨_, rfl, ?_⟩
  simp only [if_neg (Nat.not_le.mpr ha), hfreed, hewNote_held?]
  refine memberAnswer_held? ?_ hsent hended hr
  split <;> exact hfreed

/-- Refutes O33, in the clause on COMPLETION: a program of which a suspend is counted, but never answered, completes OK. It had
ended before the request reached the member, so R294 takes the count back; the clause keeps it. -/
theorem not_seamTraffic : ¬ Obligations.SeamTraffic := by
  rintro ⟨-, hpackets, -⟩
  let h : Held := { ring := 0, order := 0, opcode := 0x10, ctl := 0, die := 0, cls := 0, block := 64, page := 0, cwMask := 0
                    epoch := 0, tag := 0, buf := 0, started := true, sent := true, suspended := true, suspends := 1 }
  let s : State := { State.reset with hew := { held := [(0, h)] } }
  obtain ⟨-, hcompletion, -⟩ := hpackets 0 0 0 s h rfl rfl rfl
  obtain ⟨t, hexec, -, hkept⟩ := hcompletion 0 0 0 0 rfl rfl
  obtain ⟨u, hexec', htaken⟩ := completion_answers (s := s) (l := 0) (a := 0) (st := 0) (detail := 0) (r := 0) (h := h)
    (by decide) rfl rfl rfl rfl
  obtain rfl : t = u := Host.Outcome.next.inj (hexec.symm.trans hexec')
  have hsuspends : h.suspends = h.suspendsHeld := congrArg Held.suspends (Option.some.inj (hkept.symm.trans htaken))
  exact absurd hsuspends (by decide)

end Sys2Proof.Machine
end

section
/-! What completing a hewer's descriptor (R224) leads to in the fens (R93, R114, R126, R235), and the FEN_STATE and HEW_EVT
registers that it writes. -/

namespace Sys2Proof.Machine

open Sys2Proof

/-! ### Completing a descriptor (R224, R235) -/

/-- DESCRIPTOR_COMPLETE with a completion status completes the descriptor. -/
theorem exec_descriptorComplete {s : State} {n : Link} {k : Fin 128} {st : BitVec 8} {detail : BitVec 16} {r : Nat} {h : Held}
    (hheld : s.held? n.val k.val = some h) (hsent : h.sent = true) (hended : h.ended = false)
    (hr : memberStatus st.toNat detail.toNat = some r) (busy endTime : Word) :
    exec (.descriptorComplete n k st detail busy endTime) s = .next (hewQuietNote n.val (hewComplete n.val k.val busy.toNat
      endTime.toNat (h.answered st.toNat detail.toNat r) (memberAnswer n.val k.val st.toNat detail.toNat s.begin))) := by
  have hanswer := memberAnswer_held? (s := s.begin) hheld hsent hended hr
  change execDescriptorComplete n k st detail busy endTime s = _
  simp only [execDescriptorComplete, hanswer]
  rfl

/-- Completion leaves the image and the fens' record as they are, until firmware acts on the outcome. -/
theorem hewComplete_resolves (n k busy endTime : Nat) (h : Held) (s : State) :
    ∃ u, hewComplete n k busy endTime h s = hewResolve n h u ∧ u.cfg = s.cfg ∧ u.fen = s.fen := by
  have hback := hewWriteBack_touch n h busy endTime s
  have hdie := fun us u => chargeDie_touch n h.die h.cls us u
  have hlink := fun b u => chargeLink_touch n h.cls b u
  have hnote := fun u => hewNote_touch n u
  refine ⟨_, rfl, ?_, ?_⟩
  · simp only [apply_ite State.cfg, State.count_cfg, State.wr_cfg, (hlink ..).cfg (by decide), (hdie ..).cfg (by decide),
      (hnote _).cfg (by decide), State.delHeld_cfg, hback.cfg (by decide), ite_self]
  · simp only [apply_ite State.fen, State.count_fen, State.wr_fen, (hlink ..).fen (by decide), (hdie ..).fen (by decide),
      (hnote _).fen (by decide), State.delHeld_fen, hback.fen (by decide), ite_self]

/-- QUIET and the flush state are no events of a hewer. -/
theorem hewQuietNote_rd_done (s : State) : (hewQuietNote 0 s).rd F.HEW_EVT_DONE 0 = s.rd F.HEW_EVT_DONE 0 := by
  unfold hewQuietNote
  dsimp only
  split
  · rfl
  · rw [State.rd_wr_ne (h := by decide)]
    split
    · rw [State.rd_wr_ne (h := by decide), State.rd_wr_ne (h := by decide)]
    · rfl

/-! ### The bench of a fen (R126) -/

/-- Where an image asks for no stock, the stock floor of a fen is 0. -/
theorem stockFloor_eq_zero {s : State} (h : s.image.struct_.stockPct = 0) (f : Nat) : stockFloor s f = 0 := by
  simp [stockFloor, ceilFrac, h]

/-- Over a stock floor of 0 no fen is at bench 1, which is about the stock alone. -/
theorem benchOf_ne_one {s : State} {f : Nat} (h : stockFloor s f = 0) (tol : Nat) : benchOf s f tol ≤ 4 ∧ benchOf s f tol ≠ 1 := by
  have hone : benchHolds s f tol 1 = false := by simp [benchHolds, benchEnters, benchLeaves, h]
  unfold benchOf
  split
  · decide
  · refine List.foldlRecOn (motive := fun m => m ≤ 4 ∧ m ≠ 1) _ _ (by decide) (fun m hm n hn => ?_)
    have hlt : n < 4 := List.mem_range.mp hn
    split
    · next hholds =>
      have hn1 : n ≠ 1 := by rintro rfl; simp [hone] at hholds
      omega
    · exact hm

/-- FEN_STATE.BENCH of a fen shows its bench after the fen has been re-evaluated. -/
theorem fenRefreshOne_rd_bench (f : Nat) (s : State) : (fenRefreshOne f s).rd F.FEN_STATE_BENCH f =
    benchOf s f (geoP s - worstAbsent s f) % 8 := by
  have hne : ∀ x : Field, x.base = F.FEN_STATE_BENCH.base → x.stride = F.FEN_STATE_BENCH.stride → x.lsb ≠ F.FEN_STATE_BENCH.lsb →
      ∀ (u : State) v, (u.wr x v f).rd F.FEN_STATE_BENCH f = u.rd F.FEN_STATE_BENCH f := by
    intro x hbase hstride hlsb u v
    refine State.rd_wr_ne _ _ _ _ _ _ ?_
    simpa [Field.key, hbase, hstride] using hlsb
  have hchange : ∀ u : State, (u.wr F.FEN_EVT_BENCH_CHANGE 1).rd F.FEN_STATE_BENCH f = u.rd F.FEN_STATE_BENCH f := by
    intro u
    refine State.rd_wr_ne _ _ _ _ _ _ ?_
    simp [Field.key, F.FEN_EVT_BENCH_CHANGE, F.FEN_STATE_BENCH]
    omega
  unfold fenRefreshOne
  dsimp only
  refine (hne F.FEN_STATE_EVACUATING rfl rfl (by decide) _ _).trans ?_
  rw [State.rd_congr ((benchNotice_touch ..).regs (by decide))]
  have hheld := hne F.FEN_STATE_DREDGE_HELD rfl rfl (by decide)
  simp only [apply_ite (fun u : State => u.rd F.FEN_STATE_BENCH f), hchange, ite_self, State.wrB, hheld]
  exact State.rd_wr_same ..

/-- After a re-evaluation, the last fen's FEN_STATE.BENCH is not 1 where no stock is asked for. -/
theorem fenRefresh_rd_bench_ne_one {s : State} {f : Nat} (hfens : fenCount s = f + 1) (hstock : s.image.struct_.stockPct = 0)
    (hmib : F.FEN_STATE_BENCH.mib f ∉ [0x0, 0x110]) : (fenRefresh s).rd F.FEN_STATE_BENCH f ≠ 1 := by
  let u := eachOf (List.range f) fenRefreshOne s
  have hlast : eachOf (List.range (fenCount s)) fenRefreshOne s = fenRefreshOne f u := by
    rw [hfens, List.range_succ]
    exact List.foldl_append
  have hcfg : u.cfg = s.cfg := (eachOf_touch _ _ _ fenRefreshOne_touch).cfg (by decide)
  have hstock' : u.image.struct_.stockPct = 0 := by rw [State.image, hcfg]; exact hstock
  have hrest : SameOutside [0x0, 0x110] (fenRefreshOne f u).regs (fenRefresh s).regs := by
    rw [fenRefresh, hlast]
    exact ((bench5Note_outside _).mono (by simp)).trans ((glbRefresh_outside _).mono (by simp))
  obtain ⟨hle, hne⟩ := benchOf_ne_one (stockFloor_eq_zero hstock' f) (geoP u - worstAbsent u f)
  rw [hrest.rd _ _ hmib, fenRefreshOne_rd_bench]
  omega

/-! ### An image with more fens than the FEN block has registers for (R43) -/

/-- Each FEN_STATE stands 4 bytes after that of the fen before it, and the one of this fen where HEW_EVT of hewer 0 does. -/
def doneFen : Nat := (F.HEW_EVT_DONE.base - F.FEN_STATE_BENCH.base) / F.FEN_STATE_BENCH.stride

/-- The two fields have one home in the register store. -/
theorem rd_bench_doneFen (s : State) : s.rd F.FEN_STATE_BENCH doneFen = s.rd F.HEW_EVT_DONE 0 := rfl

/-- A configuration whose image has just so many fens that `doneFen` is the last, and asks for no stock. -/
def doneFenCfg : CfgState :=
  { run := some { imageLen := 0, serial := 0, struct_ := { fens := doneFen + 1, stockPct := 0 } } }

theorem eachOf_cfg {α : Type} (l : List α) (f : α → State → State) (s : State) (h : ∀ a s, (f a s).cfg = s.cfg) :
    (eachOf l f s).cfg = s.cfg :=
  eachOf_invariant (P := fun t => t.cfg = s.cfg) (fun a _ t ht => (h a t).trans ht) rfl

section
variable {s : State} (hcfg : s.cfg = doneFenCfg)
include hcfg

/-- Wherever the fens of such an image are re-evaluated, DONE of hewer 0 does not read 1. -/
theorem fenRefresh_rd_done_ne_one : (fenRefresh s).rd F.HEW_EVT_DONE 0 ≠ 1 := by
  have himage : s.image.struct_ = { fens := doneFen + 1, stockPct := 0 } := by rw [State.image, hcfg]; rfl
  rw [← rd_bench_doneFen]
  exact fenRefresh_rd_bench_ne_one (by rw [fenCount, himage]) (by rw [himage]) (by decide)

theorem rebuildOver_rd_done_ne_one (f : Nat) : (rebuildOver f s).rd F.HEW_EVT_DONE 0 ≠ 1 := by
  have hmembers : ∀ (ls : List Nat) (s : State), (eachOf ls (fun l s => memberWell l { s with fen := { s.fen with
      absent := s.fen.absent.del l, retired := addNew l s.fen.retired } }) s).cfg = s.cfg := fun ls s =>
    eachOf_cfg _ _ _ (fun l s => by rw [(memberWell_touch ..).cfg (by decide)])
  have hdies : ∀ (ks : List Nat) (s : State), (eachOf ks (fun k s => faultRestored bitMember (k / 32) { s with fen := { s.fen with
      deadDies := dropOne k s.fen.deadDies } }) s).cfg = s.cfg := fun ks s =>
    eachOf_cfg _ _ _ (fun k s => by rw [faultRestored_cfg])
  -- What follows the re-evaluation changes the fens' record alone.
  have hend : ∀ u : State, u.cfg = doneFenCfg → ∀ (c : Prop) [Decidable c] (x : FenState),
      (if c then { fenRefresh u with fen := x } else fenRefresh u).rd F.HEW_EVT_DONE 0 ≠ 1 := by
    intro u hu c _ x
    have hregs : (if c then { fenRefresh u with fen := x } else fenRefresh u).regs = (fenRefresh u).regs := by
      split <;> rfl
    rw [State.rd_congr hregs]
    exact fenRefresh_rd_done_ne_one hu
  exact hend _ ((hdies ..).trans ((hmembers ..).trans hcfg)) _ _

theorem loseDie_rd_done_ne_one {l d : Nat} (hdie : 32 * l + d ∉ s.fen.deadDies) : (loseDie l d s).rd F.HEW_EVT_DONE 0 ≠ 1 := by
  have hspoil : ∀ (bs : List Nat) (s : State), (eachOf bs (fun b s => if (s.block l b).use = .spoiled then s
      else spoilBlock l b 5 0 s) s).cfg = s.cfg := fun bs s => eachOf_cfg _ _ _ (fun b s => by
    split
    · rfl
    · rw [(spoilBlock_touch ..).cfg (by decide)])
  unfold loseDie
  rw [if_neg hdie]
  dsimp only
  refine rebuildOver_rd_done_ne_one ?_ _
  rw [faultAbsorbed_cfg, (markAbsent_touch ..).cfg (by decide), hspoil]
  exact hcfg

theorem wornCheck_rd_done_ne_one {l : Nat} (hdone : s.rd F.HEW_EVT_DONE 0 ≠ 1) : (wornCheck l s).rd F.HEW_EVT_DONE 0 ≠ 1 := by
  unfold wornCheck
  split
  · rw [State.rd_congr ((vendorNotice_touch _).regs (by decide))]
    exact fenRefresh_rd_done_ne_one (s := { s with fen := _ }) hcfg
  · exact hdone

theorem spoilAndCheck_rd_done_ne_one {l b reason flags : Nat} (hdone : s.rd F.HEW_EVT_DONE 0 ≠ 1) :
    (spoilAndCheck l b reason flags s).rd F.HEW_EVT_DONE 0 ≠ 1 := by
  have hspoil := spoilBlock_touch l b reason flags s
  refine wornCheck_rd_done_ne_one ((hspoil.cfg (by decide)).trans hcfg) ?_
  rwa [State.rd_congr (hspoil.regs (by decide))]

/-- A BLOCK_FAULT with DIE_WIDE loses a die, so the fens are re-evaluated (R114, R282). -/
theorem hewResolve_dieWide_rd_done_ne_one {h : Held} (hdies : s.fen.deadDies = []) (hstatus : h.status = 0x12)
    (hwide : bitOf h.detail 15 = true) (n : Nat) : (hewResolve n h s).rd F.HEW_EVT_DONE 0 ≠ 1 := by
  have hlost := loseDie_rd_done_ne_one hcfg (l := n) (d := h.block % diesOf s n) (by simp [hdies])
  have hcfg' := ((loseDie_touch n (h.block % diesOf s n) s).cfg (by decide)).trans hcfg
  unfold hewResolve
  simp only [hstatus, hwide, Nat.reduceEqDiff, if_false, or_true, and_self, if_true]
  split
  · exact hlost
  · split <;> exact spoilAndCheck_rd_done_ne_one hcfg' hlost

end

/-- Where firmware loses a die with the descriptor, the same holds of its whole completion. -/
theorem hewComplete_dieWide_rd_done_ne_one {s : State} {h : Held} (hcfg : s.cfg = doneFenCfg) (hdies : s.fen.deadDies = [])
    (hstatus : h.status = 0x12) (hwide : bitOf h.detail 15 = true) (n k busy endTime : Nat) :
    (hewComplete n k busy endTime h s).rd F.HEW_EVT_DONE 0 ≠ 1 := by
  obtain ⟨u, heq, hucfg, hufen⟩ := hewComplete_resolves n k busy endTime h s
  rw [heq]
  exact hewResolve_dieWide_rd_done_ne_one (hucfg.trans hcfg) (by rw [hufen, hdies]) hstatus hwide n

/-- Refutes O29, in the clause that a completed descriptor with IRQ leaves DONE set. The statement bounds the fens of the image
nowhere (R43 asks for 1 to 16, as `fenCount s ≤ 16` does in other statements). Here fen 12,582,853 is the last: an erase
with IRQ completes BLOCK_FAULT with DIE_WIDE on hewer 0, the die is lost, the fens are re-evaluated, and BENCH of that fen
lands on the DONE bit that the completion has set. -/
theorem not_hewerCompletes : ¬ Obligations.HewerCompletes := by
  rintro ⟨hcomplete, -⟩
  let h : Held := { ring := 0, order := 0, opcode := 0x18, ctl := 8, die := 0, cls := 0, block := 64, page := 0, cwMask := 0
                    epoch := 0, tag := 0, buf := 0, started := true, sent := true }
  let s : State := { State.reset with cfg := doneFenCfg, hew := { held := [(0, h)] } }
  obtain ⟨hanswered, -⟩ := hcomplete 0 0 3 0x8000 0 0 h s rfl rfl rfl
  obtain ⟨t, hexec, -, hdone, -, -⟩ := hanswered 0x12 rfl
  rw [exec_descriptorComplete (h := h) (r := 0x12) rfl rfl rfl rfl] at hexec
  have hanswer := memberAnswer_touch 0 0 3 0x8000 s.begin
  obtain rfl := Host.Outcome.next.inj hexec
  refine hewComplete_dieWide_rd_done_ne_one (h := h.answered 3 0x8000 0x12) (hanswer.cfg (by decide)) ?_ rfl (by decide) 0 0 0 0
    ((hewQuietNote_rd_done _).symm.trans (hdone (by decide)))
  rw [hanswer.fen (by decide)]
  rfl

end Sys2Proof.Machine
end
